-- ==== Sys2Proof/Word.lean ====
section
/-! DEFINITION. The word types of the ACR-96 model and fixed-length tables. -/
namespace Sys2Proof

/-- A 32-bit register or engine word (R10). -/
abbrev Word := BitVec 32

/-- A byte of an addressed memory. -/
abbrev Byte := BitVec 8

/-- A 64-bit register value (R425). -/
abbrev DWord := BitVec 64

/-- A fixed number `n` of like things. -/
abbrev Vec (α : Type) (n : Nat) := Vector α n

/-- Entry `i` of a table. -/
def Vec.at {α : Type} {n : Nat} (v : Vec α n) (i : Fin n) : α := v[i]

/-- The table with entry `i` replaced. -/
def Vec.put {α : Type} {n : Nat} (v : Vec α n) (i : Fin n) (x : α) : Vec α n := v.set i x

/-- The table with entry `i` changed by `f`. -/
def Vec.upd {α : Type} {n : Nat} (v : Vec α n) (i : Fin n) (f : α → α) : Vec α n :=
  Vec.put v i (f (Vec.at v i))

end Sys2Proof
end

