-- ==== Sys2Proof/Syntax.lean ====
section
/-! DEFINITION. The commands of the ACR-96 (one constructor of `Instr` for each row of spec/opcode_table.json)
and the payloads they carry. -/
namespace Sys2Proof

/-- The requesters of R425. -/
inductive Requester where
  | s0 | s1 | s2 | s3 | security | host
  deriving DecidableEq, Repr

/-- A requester with the mode it makes its access in: `machine` is a supervisor core's machine mode (R328). -/
structure Req where
  who : Requester
  machine : Bool
  deriving DecidableEq, Repr

/-- The window an access goes through: the control space (R417), the secure window (R419) or the supervisor SRAM, of Table 13.1, or an address
outside that table. The pool window is reached by the packets of R19. -/
inductive Window where
  | control | secure | sram | outside
  deriving DecidableEq, Repr

/-- The width of a register access (R424). -/
inductive AccWidth where
  | w8 | w16 | w32 | w64
  deriving DecidableEq, Repr

/-- The pages of Table 17.2 and of the secure window (R419). -/
inductive Page where
  | directory | interrupt | mailbox | supervisor | hostLink | power | hub
  | schedule | runControl | trio | safety | timebase | recorder | historian | update
  | port (i : Fin 10) | can (i : Fin 16) | uart (i : Fin 8)
  | engine (c : Fin 6) | loopArray (c : Fin 6) | switch (c : Fin 6)
  | field | panel
  | secDirectory | security | secMailbox
  deriving DecidableEq, Repr

/-- A physical engine of a Crest tile (R39, Table 3.7 number 3). -/
structure EngRef where
  crest : Fin 6
  eng : Fin 18
  deriving DecidableEq, Repr

/-- A general register number of an engine. -/
abbrev Reg := BitVec 5

/-- The two trio ports (R157). -/
inductive TrioPort where
  | a | b
  deriving DecidableEq, Repr

/-- The best-effort requesters of R351. -/
inductive BeSource where
  | core (c : Fin 4)
  | hostWindow (t : Fin 8)
  | hostBar
  | staging | spill | rejoin
  deriving DecidableEq, Repr

/-- What a best-effort packet asks for. -/
inductive BeKind where
  | read (len : Nat)
  | write (data : List Byte)
  deriving DecidableEq, Repr

/-- Where a flit travels: a link of Table 1.3 or 1.4 (0 to 15) or the field link (16), and its direction (R44). -/
structure LinkDir where
  link : Fin 17
  back : Bool
  deriving DecidableEq, Repr

/-- What the scrubber or a reader finds in a 64-bit word of tile memory (R21). -/
inductive EccFinding where
  | clean | single | double
  deriving DecidableEq, Repr

/-- A bit error that has arisen in the tile memory or a loop memory of a Crest tile since the last command: the address of its 64-bit
word, and whether it makes the word uncorrectable (R21, R92, R93, R152). -/
structure Upset where
  addr : Word
  double : Bool
  deriving DecidableEq, Repr

/-- Roles of Table 6.1. -/
inductive Role where
  | active | standby | listening | observer
  deriving DecidableEq, Repr

/-- Comparison findings of Table 6.5 (TRIO_CMP.RESULT). -/
inductive CmpResult where
  | ok | outvoted | noMajority | disagree | listenOk | listenFail
  deriving DecidableEq, Repr

/-- A proposed or adopted roster (Table 6.3 `ROSTER`): voting set, active member, epoch. -/
structure Roster where
  voting : BitVec 3
  active : BitVec 2
  epoch : Word
  deriving DecidableEq, Repr

/-- A force command published in a member status (R175). -/
structure ForceMsg where
  point : BitVec 16
  value : Word
  clear : Bool
  deriving DecidableEq, Repr

/-- The content of a member status, Table 6.3; `phase` is the phase of Table 6.11, and `start` the instant on the sender's schedule clock at
which its next major frame starts (R188, log entry 88). `groups` are the sender's group sequences (R371, log entry 120). The spec gives the fields and no byte layout (log entry 12). -/
structure MemberStatus where
  member : BitVec 2
  role : Role
  config : BitVec 8
  t : DWord
  epoch : Word
  schedId : DWord
  appId : DWord
  compat : BitVec 16
  gaveUp : Bool
  cause : BitVec 8
  cmp : CmpResult
  odd : BitVec 2
  odd2 : BitVec 2
  missing : BitVec 3
  diagPass : Option Bool
  roster : Roster
  rejoinReq : Bool
  admits : Option (BitVec 2)
  donor : BitVec 2
  phase : BitVec 3
  start : Option DWord
  forces : List ForceMsg
  refused : List (BitVec 16)
  swap : Option (DWord × DWord)
  appSwap : Option (DWord × DWord)
  testSent : Option Bool
  testSeen : Bool
  groups : List (BitVec 3 × BitVec 8 × Word)
  deriving DecidableEq, Repr

/-- The content of a round-alignment exchange, Table 10.3; `rx` is no part of the frame: the receiver puts in the instant at which the frame
came (t4 of R272). -/
structure AlignData where
  ref : Bool
  tx : DWord
  rxPrev : DWord
  rstart : DWord
  rx : DWord
  deriving DecidableEq, Repr

/-- What a trio frame carries beside its header (Table 11.7): bytes; a member status, with the bytes that spell it in this frame, whose layout
the spec does not give; or a round alignment. -/
inductive TrioPayload where
  | bytes (data : List Byte)
  | status (st : MemberStatus) (raw : List Byte)
  | align (a : AlignData)
  deriving DecidableEq, Repr

/-- A trio frame: whether its MACsec integrity check passes; the association key that protects it, named by the connectivity association key
and the key number that it derives from; its packet number (R305); the header of Table 11.6; the payload and the CRC-32C (R300). -/
structure TrioFrame where
  macsecOk : Bool
  cak : BitVec 256
  key : Byte
  pn : DWord
  type : Byte
  sender : Byte
  target : Byte
  t : DWord
  offset : BitVec 16
  len : BitVec 16
  payload : TrioPayload
  crc : Word
  deriving DecidableEq, Repr

/-- A received Ethernet frame: header fields the port filters on (R285, R290) with the tag control word of a tagged frame, its payload
after the EtherType, its length, whether its frame check passed, and the sequence number of a PRP trailer (R289). -/
structure EthFrame where
  dst : BitVec 48
  src : BitVec 48
  tag : Option (BitVec 16)
  etherType : BitVec 16
  data : List Byte
  len : Nat
  fcsOk : Bool
  rct : Option (BitVec 16)
  deriving DecidableEq, Repr

/-- A received or sent CAN frame (Table 12.2 words 0 and 1 and the data). -/
structure CanFrame where
  id : BitVec 29
  ide : Bool
  rtr : Bool
  dlc : BitVec 4
  fdf : Bool
  brs : Bool
  esi : Bool
  data : List Byte
  deriving DecidableEq, Repr

/-- How a CAN transmission ended (R315). The commands of a received or ended frame, and of a received character, also say how many
nanoseconds ago its first edge was. -/
inductive CanTxEnd where
  | done | lostArbitration | error
  deriving DecidableEq, Repr

/-- Errors of a received UART character (R322). -/
inductive UartErr where
  | none | framing | parity | brk
  deriving DecidableEq, Repr

/-- A channel whose debounced level may change: a DI, a seal switch (R195, R224). -/
inductive DebChan where
  | di (n : Fin 64)
  | seal (n : Fin 8)
  deriving DecidableEq, Repr

/-- An output switch of Foothill: a high-side DO or a two-leg channel (R230). -/
inductive OutChan where
  | dout (n : Fin 24)
  | tlo (n : Fin 8)
  deriving DecidableEq, Repr

/-- An agent of a mailbox channel (Table 13.4); `machine` as in `Req`. -/
inductive Agent where
  | supervisor (c : Fin 4) (machine : Bool)
  | host
  | security
  | steward (c : Fin 6)
  | foothill
  deriving DecidableEq, Repr

/-- A PCI Express request of the host (R346): its window, its address there, and what it asks. -/
inductive HostTarget where
  | bar0 (addr : BitVec 28)
  | window (t : Fin 8) (addr : BitVec 26)
  deriving DecidableEq, Repr

/-- What Foothill reports in its answering link frame: the raw samples of DI 0 to 63 and of the seal inputs, and whether FIELD_FENCE_N reads
high. -/
structure FieldPins where
  di : BitVec 64
  sealIn : Byte
  fenceHigh : Bool
  deriving DecidableEq, Repr

/-- The host's operation: a non-posted read of `len` bytes or a posted write, with all byte enables set or not (R424). -/
inductive HostOp where
  | read (len : Nat) (allEnables : Bool)
  | write (data : List Byte) (allEnables : Bool)
  deriving DecidableEq, Repr

/-- What the link is in once it is up: L0, L1 by ASPM, or L1 with the function in D3hot (R344). -/
inductive HostPower where
  | l0 | l1 | d3hot
  deriving DecidableEq, Repr

/-- A request to queue, or the next turn of the service, which takes the queue that is due (R346). -/
inductive HostReq where
  | submit (target : HostTarget) (op : HostOp)
  | serve
  deriving DecidableEq, Repr

/-- A detected event on its way to the recorder (Table 14.1): severity, code, source, tenant (none: the device), parameters. -/
structure EventIn where
  code : BitVec 16
  source : BitVec 16
  sev : BitVec 3
  tenant : Option (BitVec 3)
  recorder : Bool
  p0 : Word
  p1 : Word
  p2 : Word
  deriving DecidableEq, Repr

/-- The straps sampled at a reset release (R409). -/
structure Straps where
  trioId : BitVec 2
  hisBif : BitVec 2
  pmbAddr : BitVec 3
  deriving DecidableEq, Repr

/-- What a drive identifies as (R368, R369): whether it has what the historian uses, and its capacity beyond the index in GB. -/
structure DriveInfo where
  suitable : Bool
  capGb : BitVec 32
  deriving DecidableEq, Repr

/-- The health log a SMART read returns (R374): Available Spare, its threshold, Critical Warning bit 3. -/
structure SmartLog where
  spare : BitVec 8
  spareThr : BitVec 8
  readOnly : Bool
  deriving DecidableEq, Repr

/-- The commands: one constructor per row of the opcode table, in the table's order. -/
inductive Instr where
  -- register pages (Ch. 17)
  | registerWrite (q : Req) (win : Window) (width : AccWidth) (addr : BitVec 28) (val : DWord)
  | reg64LowRead (q : Req) (win : Window) (width : AccWidth) (addr : BitVec 28)
  | reg64LowWrite (q : Req) (win : Window) (addr : BitVec 28) (val : Word)
  | reg64HighWrite (q : Req) (win : Window) (addr : BitVec 28) (val : Word)
  | blkLock (q : Req) (pg : Page)
  | blkCntClear (q : Req) (pg : Page)
  | blkIrqStatClear (q : Req) (pg : Page) (bits : Word)
  | blkIrqSet (q : Req) (pg : Page) (bits : Word)
  -- fabric (Ch. 1)
  | bePacketLaunch (src : BeSource) (route : Word) (addr : Word) (kind : BeKind)
  | bePacketArrive (id : Nat) (upsets : List Upset)
  | flitCheckFail (ld : LinkDir) (again : Bool)
  -- schedule (Ch. 2, 4, 6)
  | slotStart (upsets : List Upset)
  | stepStart (upsets : List Upset) (ended : Vec (Option (BitVec 7)) 6)
  | openWindowStart (ld : LinkDir)
  | slotDeadline (lateTransfers : BitVec 8)
  | roundStart
  | inputVote
  | roundClose
  | comparisonInstant
  | decisionInstant
  | fenceTestPulseEnd
  | diagnosis (enginesPass loopReadsPass : Bool)
  | exchangeMissing (p : TrioPort) (kind : BitVec 4)
  | trioFrameReceive (p : TrioPort) (f : TrioFrame)
  | fenceFrameReceive (p : TrioPort) (f : TrioFrame)
  | fenceIn
  | trioPortDown (p : TrioPort)
  | trioPortUp (p : TrioPort)
  | trioRejoin (q : Req)
  | trioGiveUp (q : Req)
  | trioAbortRejoin (q : Req)
  | rejoinSelftestEnd (pass : Bool)
  | bulkCopyEnd
  | soloWarn
  | soloExpired
  | formationWaitEnd
  -- engine instructions (Ch. 3, Table 3.6)
  | add (e : EngRef) (rd ra rb : Reg)
  | sub (e : EngRef) (rd ra rb : Reg)
  | and (e : EngRef) (rd ra rb : Reg)
  | or (e : EngRef) (rd ra rb : Reg)
  | xor (e : EngRef) (rd ra rb : Reg)
  | shl (e : EngRef) (rd ra rb : Reg)
  | shr (e : EngRef) (rd ra rb : Reg)
  | sar (e : EngRef) (rd ra rb : Reg)
  | slt (e : EngRef) (rd ra rb : Reg)
  | sltu (e : EngRef) (rd ra rb : Reg)
  | min (e : EngRef) (rd ra rb : Reg)
  | max (e : EngRef) (rd ra rb : Reg)
  | abs (e : EngRef) (rd ra : Reg)
  | mul (e : EngRef) (rd ra rb : Reg)
  | mulh (e : EngRef) (rd ra rb : Reg)
  | div (e : EngRef) (rd ra rb : Reg)
  | divu (e : EngRef) (rd ra rb : Reg)
  | rem (e : EngRef) (rd ra rb : Reg)
  | mac (e : EngRef) (ra rb : Reg)
  | msu (e : EngRef) (ra rb : Reg)
  | accset (e : EngRef) (ra rb : Reg)
  | acclo (e : EngRef) (rd : Reg)
  | acchi (e : EngRef) (rd : Reg)
  | accsh (e : EngRef) (rd rb : Reg)
  | fadd (e : EngRef) (rd ra rb : Reg)
  | fsub (e : EngRef) (rd ra rb : Reg)
  | fmul (e : EngRef) (rd ra rb : Reg)
  | fdiv (e : EngRef) (rd ra rb : Reg)
  | fsqrt (e : EngRef) (rd ra : Reg)
  | fma (e : EngRef) (rd ra rb : Reg)
  | fmin (e : EngRef) (rd ra rb : Reg)
  | fmax (e : EngRef) (rd ra rb : Reg)
  | fabs (e : EngRef) (rd ra : Reg)
  | fneg (e : EngRef) (rd ra : Reg)
  | feq (e : EngRef) (rd ra rb : Reg)
  | flt (e : EngRef) (rd ra rb : Reg)
  | fle (e : EngRef) (rd ra rb : Reg)
  | ftoi (e : EngRef) (rd ra : Reg)
  | itof (e : EngRef) (rd ra : Reg)
  | nop (e : EngRef)
  | halt (e : EngRef)
  | modew (e : EngRef) (ra : Reg)
  | moder (e : EngRef) (rd : Reg)
  | flagr (e : EngRef) (rd : Reg)
  | flagc (e : EngRef) (ra : Reg)
  | sysr (e : EngRef) (rd : Reg) (num : BitVec 5)
  | jr (e : EngRef) (ra : Reg)
  | trap (e : EngRef) (code : BitVec 5)
  | addi (e : EngRef) (rd ra : Reg) (imm : BitVec 16)
  | andi (e : EngRef) (rd ra : Reg) (imm : BitVec 16)
  | ori (e : EngRef) (rd ra : Reg) (imm : BitVec 16)
  | xori (e : EngRef) (rd ra : Reg) (imm : BitVec 16)
  | slti (e : EngRef) (rd ra : Reg) (imm : BitVec 16)
  | lui (e : EngRef) (rd : Reg) (imm : BitVec 16)
  | shli (e : EngRef) (rd ra : Reg) (sh : BitVec 5)
  | shri (e : EngRef) (rd ra : Reg) (sh : BitVec 5)
  | sari (e : EngRef) (rd ra : Reg) (sh : BitVec 5)
  | ld (e : EngRef) (rt base : Reg) (size : BitVec 2) (post : Bool) (off : BitVec 13)
  | ldu (e : EngRef) (rt base : Reg) (size : BitVec 2) (post : Bool) (off : BitVec 13)
  | st (e : EngRef) (rt base : Reg) (size : BitVec 2) (post : Bool) (off : BitVec 13)
  | beq (e : EngRef) (ra rb : Reg) (disp : BitVec 16)
  | bne (e : EngRef) (ra rb : Reg) (disp : BitVec 16)
  | blt (e : EngRef) (ra rb : Reg) (disp : BitVec 16)
  | bge (e : EngRef) (ra rb : Reg) (disp : BitVec 16)
  | bltu (e : EngRef) (ra rb : Reg) (disp : BitVec 16)
  | bgeu (e : EngRef) (ra rb : Reg) (disp : BitVec 16)
  | jmp (e : EngRef) (disp : BitVec 26)
  | call (e : EngRef) (disp : BitVec 26)
  | loop (e : EngRef) (rs : Reg) (endOff cnt : BitVec 10)
  | loopi (e : EngRef) (endOff cnt : BitVec 10)
  | illegalEncoding (e : EngRef)
  -- engines, spares, memory errors (Ch. 3)
  | engineStall (e : EngRef)
  | engRetire (q : Req) (c : Fin 6) (eng : BitVec 5)
  | engEccClrCorr (q : Req) (c : Fin 6)
  | engEccClrUnc (q : Req) (c : Fin 6)
  | stewardQuietTest (c : Fin 6) (pass : Bool)
  | spareTest (c : Fin 6) (eng : Fin 18) (pass : Bool)
  | speedMeasureEnd (c : Fin 6) (readings : Vec (BitVec 12) 8) (ack : Bool)
  | scrubWord (addr : Word) (found : EccFinding)
  -- schedule block (Ch. 2)
  | schLoad (q : Req)
  | schValidationEnd
  | schActivate (q : Req) (withApp trio : Bool)
  | schCancel (q : Req)
  | schDiscard (q : Req)
  | commitPoint
  | scheduleSwap
  -- run control (Ch. 4)
  | frcSet (q : Req)
  | frcClear (q : Req)
  | frcClearAll (q : Req)
  | forceTakeEffect
  | runRestart (q : Req)
  | restartFrame
  | keacoFrameReceive (port : Fin 8) (f : EthFrame)
  | appLoad (q : Req)
  | appValidationEnd
  | appActivate (q : Req) (trio : Bool)
  | appArm (q : Req)
  | appCancel (q : Req)
  | appDiscard (q : Req)
  | appExchange
  -- loop array (Ch. 5)
  | lpaWrite (q : Req) (c : Fin 6)
  | lpaWriteDecide (c : Fin 6)
  | lpaRead (q : Req) (c : Fin 6)
  | trcArm (q : Req) (c : Fin 6)
  | trcFire (q : Req) (c : Fin 6)
  | trcDisable (q : Req) (c : Fin 6)
  -- safety (Ch. 7)
  | sealReadMs
  | safeHoldLeave
  | safetyFrameReceive (port : Fin 8) (f : EthFrame)
  | pairWindowEnd (conn : Fin 256)
  | safetyFrameQueue (conn : Fin 256)
  -- field tile (Ch. 8)
  | fieldLinkFrame (pins : FieldPins)
  | fieldLinkTimeout
  | fieldWarnSet (mv : BitVec 16)
  | fieldWarnClear (mv : BitVec 16)
  | uvloEnter (mv : BitVec 16)
  | uvloExit (mv : BitVec 16)
  | foothillHot (temp : BitVec 11)
  | foothillShutdown (temp : BitVec 11)
  | foothillPowerOn
  | debouncePass (ch : DebChan) (level : Bool)
  | wireBreakSet (n : Fin 64)
  | wireBreakClear (n : Fin 64)
  | testPulseStart (n : Fin 8)
  | blankingWindowEnd (n : Fin 8) (passed : BitVec 64) (raw : BitVec 64)
  | tpsOverload (n : Fin 8)
  | tpsRestart (n : Fin 8)
  | inrushBlankingEnd (o : OutChan) (overHi overLo : Bool)
  | outputTrip (o : OutChan) (overHi overLo : Bool)
  | thermalShutdown (o : OutChan)
  | tloOffCheck (n : Fin 8) (hi lo : Bool)
  | readbackMismatch (o : OutChan)
  | tloUnlock (q : Req)
  | fieldFence
  | fenceSeen
  | aiSupplyOverload (n : Fin 32)
  | aiSupplyRestart (n : Fin 32)
  | aoStatusDecide (n : Fin 16) (measuredNa : BitVec 25) (saturated held : Bool)
  | trimDrive4 (q : Req)
  | trimDrive20 (q : Req)
  | trimApply (q : Req)
  | trimExit (q : Req)
  -- panels (Ch. 9)
  | panelWriteStart
  | panelWritePhase
  | panelWriteEnd
  | panelWriteAbandon (mv : BitVec 16)
  | vpnlLevelChange (mv : BitVec 16)
  | ntcMeasure (temp : BitVec 11)
  | crackMeasure (ohms : Nat)
  | pnlCntWrite (q : Req) (val : Word)
  -- time (Ch. 10)
  | tbIncrLoWrite (q : Req) (val : Word)
  | tbIncrHiWrite (q : Req) (val : Word)
  | tbNowRead (q : Req)
  | tbOffsetHiWrite (q : Req) (val : Word)
  | tbStep (q : Req)
  | tbStepApply
  | gulnyLoad (q : Req)
  | oneshot (q : Req) (out : Fin 2)
  | oneshotFire
  | tbGcntRead (q : Req)
  | ppsInCapture (n : Fin 2) (falling short : Bool)
  | ppsOutEdge (n : Fin 2)
  | ppsOutPulseEnd (n : Fin 2)
  -- Ethernet and trio ports (Ch. 11)
  | ethFrameReceive (port : Fin 8) (f : EthFrame)
  | ethFrameTransmitStart (port : Fin 8)
  | gateWindowOpen (port : Fin 8) (entry : Nat)
  | gateWindowClose (port : Fin 8)
  | ethTxqTailWrite (q : Req) (port : Fin 8) (val : BitVec 12)
  | ethRxqTailWrite (q : Req) (port : Fin 8) (val : BitVec 12)
  | ethLinkChange (port : Fin 8) (up : Bool)
  | trpRotate (q : Req) (p : TrioPort)
  | keyRotateEffect (p : TrioPort)
  | keyOverlapEnd (p : TrioPort)
  -- CAN and UART (Ch. 12)
  | canFrameReceive (c : Fin 16) (f : CanFrame) (sofAgo : Nat)
  | canFrameEnd (c : Fin 16) (how : CanTxEnd) (sofAgo : Nat)
  | canError (c : Fin 16) (tec : BitVec 9) (rec : BitVec 8)
  | busoffRecoveryEnd (c : Fin 16)
  | canStart (q : Req) (c : Fin 16)
  | canListen (q : Req) (c : Fin 16)
  | canDetect (q : Req) (c : Fin 16)
  | canStop (q : Req) (c : Fin 16)
  | detectCandidateTimeout (c : Fin 16)
  | detectTimeout (c : Fin 16)
  | canTxReq (q : Req) (c : Fin 16) (buf : Fin 64)
  | canTxCancel (q : Req) (c : Fin 16) (buf : Fin 64)
  | canMbSelWrite (q : Req) (c : Fin 16) (buf : Fin 64) (lock : Bool)
  | canMbWrite (q : Req) (c : Fin 16) (word : Fin 32) (val : Word)
  | canSlotRequest (c : Fin 16) (buf : Fin 64)
  | uartByteReceive (u : Fin 8) (byte : Byte) (err : UartErr) (startAgo : Nat)
  | uartDataWrite (q : Req) (u : Fin 8) (byte : Byte)
  | uartDataRead (q : Req) (u : Fin 8)
  | uartMarkRead (q : Req) (u : Fin 8)
  -- supervisor, mailboxes, power domains, host link (Ch. 13)
  | wdogRestart (q : Req) (key : Byte)
  | wdogExpire (core : Fin 4)
  | partitionWindowBoundary (core : Fin 4)
  | mbRing (a : Agent) (ch : Fin 32) (code : BitVec 16) (wake : Bool)
  | mbAck (a : Agent) (ch : Fin 32)
  | mbMsgWrite (a : Agent) (ch : Fin 32) (word : Fin 16) (val : Word)
  | doorbellDeliver (ch : Fin 32)
  | pdUp (q : Req) (d : Fin 8)
  | pdDown (q : Req) (d : Fin 8)
  | pdStartEnd (d : Fin 8) (pass : Bool) (failed : BitVec 18)
  | pdStopEnd (d : Fin 8)
  | hostRequest (r : HostReq)
  | hostPerst (asserted : Bool)
  | hostTrainingSet
  | hostLinkL0 (busMaster : Bool) (masked : BitVec 32) (width rate : BitVec 3) (power : HostPower)
  | hostLinkL2
  | pmeTurnOff
  | pmuFreeze (q : Req) (on : Bool)
  | pmuClear (q : Req)
  -- recorder and historian (Ch. 14)
  | eventRecord (ev : EventIn)
  | recordStore
  | seriesTimeout (region : Fin 9)
  | recRefill (q : Req) (val : Word)
  | recRefillEnd
  | recWinRead (q : Req) (entry : Fin 32)
  | recFwWrite (q : Req)
  | recClrDrops (q : Req)
  | recClrLost (q : Req)
  | spillBlock (region : Fin 9)
  | chunkWriteDone (drive : Fin 4)
  | historianIndexReadEnd (found : Vec (Option DriveInfo) 4)
  | retentionSweep
  | smartRead (drive : Fin 4) (log : SmartLog)
  | driveTimeout (drive : Fin 4)
  | hisQueryGo (q : Req)
  | queryEnd
  -- power, reset, start-up (Ch. 16)
  | porAssert
  | resetRelease (straps : Straps) (voutMode : Byte)
  | bootComplete
  | startupSelftestEnd (failed : Vec (BitVec 18) 6) (memFail : BitVec 6) (linkFails : BitVec 17) (ack : Bool)
  | speedCharStep (readings : Vec (Vec (BitVec 12) 8) 6) (ack : Bool)
  | startupImageEnd
  | startupContextEnd
  | railDip (rail : Fin 6)
  | railFault (rail : Fin 6)
  | internalReset (rail : Fin 6)
  | pmbusRead (mv : BitVec 10) (da : BitVec 12)
  | pmbusFail
  | pmbusRetry (ok : Bool)
  | tempRead (tile : Fin 7) (temps : Vec (BitVec 11) 4) (held : Bool)
  | pwrReset (q : Req) (key : Byte)
  | tapReset
  | pmbAlert
  | batteryCondition (on : Bool)
  -- security, life cycle, updates (Ch. 15)
  | ticketLcAdvance (q : Req) (flashOk : Bool)
  | ticketLock (q : Req)
  | ticketUnlock (q : Req)
  | ticketCak (q : Req)
  | ticketPermit (q : Req)
  | ticketRevoke (q : Req)
  | permitExpire
  | updLoad (q : Req) (slot : Bool)
  | updLoadEnd (flashOk : Bool)
  | updActivate (q : Req)
  | updCancel (q : Req)
  | updErase (q : Req)
  | updStore (q : Req) (shadow : Bool)
  | updStoreEnd (ok : Bool)
  | updateCommitPoint
  | updateRestart
  | updateReset
  | updConfirm (q : Req) (token : Word)
  | confirmWindowExpire
  -- rows that follow at the end of the table
  | ctxEcc (e : EngRef)
  | ethFrameSent (port : Fin 8)
  | uartByteSent (u : Fin 8)
  | fenceInNLow
  | foothillPowerLoss
  | diReadBrokenEnd (n : Fin 64)
  deriving DecidableEq, Repr

end Sys2Proof
end

