-- ==== Sys2Proof/Machine/Image.lean ====
section
/-! DEFINITION. The two artefacts a device holds in its banks, as data: the schedule image (Ch. 2) and the
application image (Ch. 2, 4 to 15), and the signed envelope (R379). -/
namespace Sys2Proof.Machine

/-- The four configurations of Table 0.1. -/
inductive Part where
  | acr9608 | acr9606 | acr9604 | acr9602
  deriving DecidableEq, Repr

/-- An addressed memory: (address, byte) pairs, addresses strictly rising, no byte 0 listed (log entry 4). -/
abbrev Memory := List (Nat × BitVec 8)

/-! ### Schedule image -/

/-- The timing word of Table 2.7. -/
structure Timing where
  slot : BitVec 20
  rate : BitVec 4
  phase : BitVec 10
  deriving DecidableEq, Repr

/-- Table 2.10. -/
structure StepDesc where
  tenant : BitVec 3
  task : BitVec 8
  step : BitVec 16
  codeAddr : Word
  codeLen : BitVec 9
  stateLen : BitVec 9
  stateIn : Word
  stateOut : Word
  worstNs : Word
  readsInput : Bool
  writesOutput : Bool
  deriving DecidableEq, Repr

/-- Table 2.11. -/
structure EngineStep where
  t : Timing
  logical : BitVec 4
  crest : BitVec 3
  desc : BitVec 20
  routeCode : BitVec 16
  routeIn : BitVec 16
  routeOut : BitVec 16
  deriving DecidableEq, Repr

/-- Table 2.12. -/
structure Transfer where
  t : Timing
  src : Word
  dst : Word
  len : BitVec 16
  route : BitVec 16
  owner : BitVec 3
  device : Bool
  deriving DecidableEq, Repr

/-- Table 2.13. -/
structure OpenWindow where
  slot : BitVec 20
  link : BitVec 5
  dir : Bool
  offset : BitVec 4
  deriving DecidableEq, Repr

/-- Table 2.14. -/
structure LoopStep where
  t : Timing
  loop : BitVec 10
  crest : BitVec 3
  tenant : BitVec 3
  deriving DecidableEq, Repr

/-- Table 2.15. -/
structure IoGroup where
  t : Timing
  cls : BitVec 8
  inst : BitVec 8
  owner : BitVec 3
  device : Bool
  sample : Bool
  commit : Bool
  deriving DecidableEq, Repr

/-- Table 2.16. -/
structure Gate where
  t : Timing
  port : BitVec 3
  opens : BitVec 8
  start : BitVec 16
  duration : Word
  deriving DecidableEq, Repr

/-- Table 2.17. -/
structure CanSlot where
  t : Timing
  ctrl : BitVec 4
  buffer : BitVec 6
  offset : BitVec 16
  deriving DecidableEq, Repr

/-- Table 2.18. -/
structure TrioExchange where
  t : Timing
  kind : BitVec 4
  len : BitVec 16
  addr : Word
  deriving DecidableEq, Repr

/-- Table 2.19. -/
structure Capture where
  t : Timing
  src : Word
  len : BitVec 16
  tenant : BitVec 3
  cls : BitVec 2
  group : BitVec 8
  deriving DecidableEq, Repr

/-- Table 2.20. -/
structure Remap where
  retired : BitVec 18
  crest : BitVec 3
  map : List (BitVec 5)
  deriving DecidableEq, Repr

/-- A schedule image as data: the header of Table 2.4 and the tables of Table 2.6. -/
structure SchedImage where
  config : Byte
  slotCode : Byte
  maxRate : Byte
  tenants : Byte
  roundSlots : Word
  schedId : DWord
  appId : DWord
  compat : BitVec 16
  steps : List StepDesc
  engineSteps : List EngineStep
  routes : List Word
  transfers : List Transfer
  windows : List OpenWindow
  loopSteps : List LoopStep
  ioGroups : List IoGroup
  gates : List Gate
  canSlots : List CanSlot
  exchanges : List TrioExchange
  captures : List Capture
  remaps : List Remap
  deriving DecidableEq, Repr

/-! ### Application image -/

/-- What a pool region is for (R20). -/
inductive RegionKind where
  | activeCode | shadowCode | committed | working | image | mirror
  deriving DecidableEq, Repr

/-- A pool region: its owner (none: the device), place and kind (R20). -/
structure Region where
  owner : Option (BitVec 3)
  addr : Nat
  len : Nat
  kind : RegionKind
  deriving DecidableEq, Repr

/-- A key-table entry: its four words (Table 4.7), and its value in the initial-value list, empty where that holds none (R125, R128). -/
structure KeyEntry where
  word0 : Word
  word1 : Word
  word2 : Word
  word3 : Word
  value : List Byte
  deriving DecidableEq, Repr

/-- The fields of Table 4.7; the low word of a key comes first (R1). -/
def KeyEntry.key (e : KeyEntry) : DWord := e.word1.setWidth 64 <<< 32 ||| e.word0.setWidth 64
def KeyEntry.addr (e : KeyEntry) : Nat := e.word2.toNat
def KeyEntry.type (e : KeyEntry) : Byte := e.word3.setWidth 8
def KeyEntry.size (e : KeyEntry) : Nat := ((e.word3 >>> 8).setWidth 12).toNat
def KeyEntry.hasInit (e : KeyEntry) : Bool := e.word3.getLsbD 20
def KeyEntry.tenant (e : KeyEntry) : BitVec 3 := (e.word3 >>> 21).setWidth 3

/-- Is an entry well formed: reserved bits 0, a SIZE of 1 to 4,095, and with INIT a value of that size in the list? -/
def KeyEntry.formed (e : KeyEntry) : Bool :=
  (e.word3 >>> 24) == 0 && e.size != 0 && (!e.hasInit || e.value.length == e.size)

/-- The initial value of a variable, if the entry has one. -/
def KeyEntry.init (e : KeyEntry) : Option (List Byte) := if e.hasInit then some e.value else none

/-- A task: its copies (addresses), the flits of its sections (R103), its repair slot within a repair area and the slot's flits
(R299), and the place of its substitution mark in the output image (R89). -/
structure Task where
  tenant : BitVec 3
  task : BitVec 8
  committed : Nat
  working : Nat
  inputFlits : Nat
  variableFlits : Nat
  outputFlits : Nat
  rate : Nat
  repairOff : Nat
  repairFlits : Nat
  markAddr : Nat
  markBit : Fin 32
  deriving DecidableEq, Repr

/-- Vote rules of Table 6.4. -/
inductive VoteRule where
  | bin | ana | src (m : Fin 3)
  deriving DecidableEq, Repr

/-- The `DUO` setting of R163. -/
inductive Duo where
  | low | high | mean
  deriving DecidableEq, Repr

/-- Substitute rules of Table 4.5; `fixed` carries the configured value, `fail` the configured failure value of an analogue point. -/
inductive Subst where
  | hold | fixed (v : Word) | fail (v : Word)
  deriving DecidableEq, Repr

/-- Where a point's word lies in an image, and its bit when it is binary; `status` is the place of its failure bits. -/
structure Place where
  addr : Nat
  bit : Option (Fin 32)
  statusAddr : Nat
  statusMask : Word
  deriving DecidableEq, Repr

/-- An input point of the point table (R163), with the class and instance of its I/O group. -/
structure InPoint where
  number : BitVec 16
  key : DWord
  tenant : BitVec 3
  group : BitVec 8 × BitVec 8
  rule : VoteRule
  duo : Duo
  raw : Place
  voted : Place
  discAddr : Nat
  discBit : Fin 32
  safeState : Bool
  deviation : Word
  subst : Subst
  trip : Bool
  deriving DecidableEq, Repr

/-- Where an output goes; a Keaco point is a word of its station's payload. -/
inductive OutTarget where
  | dout (n : Fin 24) | tlo (n : Fin 8) | ao (n : Fin 16) | keaco (st : Fin 256) (off : Nat) | can (c : Fin 16) (buf : Fin 64) | other
  deriving DecidableEq, Repr

/-- An output point of the point table (R170, R206). -/
structure OutPoint where
  number : BitVec 16
  key : DWord
  tenant : BitVec 3
  task : BitVec 8
  place : Place
  target : OutTarget
  allDrive : Bool
  safe : Word
  loopSlot : Option (Fin 6 × BitVec 10)
  func : Option (Fin 256)
  trip : Bool
  deriving DecidableEq, Repr

/-- A Keaco station (R121, R293, R297); the places of its points count from the start of its payload. -/
structure StationCfg where
  number : Fin 256
  tenant : BitVec 3
  drop : BitVec 4
  back : BitVec 4
  mac : BitVec 48
  vlan : BitVec 12
  inLen : Nat
  portA : Fin 8
  portB : Fin 8
  points : List (Place × Subst)
  safePayload : List Byte
  deriving DecidableEq, Repr

/-- A safety function (R200, Table 7.2). -/
structure FuncCfg where
  number : Fin 256
  key : DWord
  tenant : BitVec 3
  trip : Bool
  outputs : List (BitVec 16)
  inputs : List (BitVec 16)
  holdMs : Nat
  resume : Option Place
  resetPoint : Option (BitVec 16)
  pressMs : Nat
  deriving DecidableEq, Repr

/-- A receive or send safety connection (R210 to R214): its addresses, ports, the receiver's MAC address and VLAN (R296), and the class and
instance of its I/O group. -/
structure ConnCfg where
  number : Fin 256
  send : Bool
  src : BitVec 16
  dst : BitVec 16
  len : Nat
  pairUs : Nat
  watchMs : Nat
  ageMs : Nat
  back : BitVec 4
  tenant : BitVec 3
  portA : Fin 8
  portB : Fin 8
  mac : BitVec 48
  vlan : BitVec 12
  group : BitVec 8 × BitVec 8
  payload : Nat
  points : List (BitVec 16)
  deriving DecidableEq, Repr

/-- Configuration of a DI channel (R243). -/
structure DiCfg where
  debounceUs : BitVec 16
  tps : Fin 8
  testPulse : Bool
  wireBreak : Bool
  deriving DecidableEq, Repr

/-- Configuration of a test-pulse supply (R226). -/
structure TpsCfg where
  widthUs : BitVec 16
  periodMs : BitVec 16
  deriving DecidableEq, Repr

/-- Configuration of a DO or two-leg channel (R231, R243). -/
structure OutCfg where
  blanking : BitVec 16
  single : Bool
  safeOn : Bool
  deriving DecidableEq, Repr

/-- Configuration of an AI channel (R243). -/
structure AiCfg where
  filterMs : BitVec 16
  supply : Bool
  deriving DecidableEq, Repr

/-- Configuration of an AO channel (R206, R243): safe current in microampere and safe mode. -/
structure AoCfg where
  single : Bool
  safeUa : BitVec 16
  safeMode : BitVec 2
  deriving DecidableEq, Repr

/-- The panel configuration (R252 to R258). -/
structure PanelCfg where
  minWrite : BitVec 8
  loopEn : Bool
  bandStep : BitVec 16
  vr : BitVec 9
  vs0 : BitVec 9
  deriving DecidableEq, Repr

/-- The I/O map of Foothill (R243). -/
structure IoMap where
  di : List (Fin 64 × DiCfg)
  tps : List (Fin 8 × TpsCfg)
  dout : List (Fin 24 × OutCfg)
  tlo : List (Fin 8 × OutCfg)
  ai : List (Fin 32 × AiCfg)
  ao : List (Fin 16 × AoCfg)
  panel : Option PanelCfg
  deriving DecidableEq, Repr

/-- The trio configuration (Table 6.13 TRIO_CFG and TRIO_CFG2). -/
structure TrioCfg where
  soloLimit : BitVec 13
  soloTrip : Bool
  autoRejoin : Bool
  persist : BitVec 8
  formWait : BitVec 7
  delayA : BitVec 4
  delayB : BitVec 4
  deriving DecidableEq, Repr

/-- The safety configuration (R194 to R199). -/
structure SafetyCfg where
  safeId : DWord
  sealCode : Byte
  maintCode : Byte
  functions : List FuncCfg
  connections : List ConnCfg
  deriving DecidableEq, Repr

/-- A supervisor time window (R330): start in us within P and owner (none: kernel). -/
structure PartWindow where
  startUs : Nat
  owner : Option (BitVec 3)
  deriving DecidableEq, Repr

/-- A CAN message-buffer kind (R311). -/
inductive BufKind where
  | unused | rx | txFw | txSched
  deriving DecidableEq, Repr

/-- A CAN acceptance filter (R312). -/
structure CanFilter where
  id : BitVec 29
  ide : Bool
  mask : BitVec 29
  target : Fin 64
  deriving DecidableEq, Repr

/-- Configuration of a CAN controller (R310 to R312, R317, R321); a filter number may be unused. -/
structure CanCfg where
  owner : Option (BitVec 3)
  nbt : Word
  dbt : Word
  kinds : List (Fin 64 × BufKind)
  filters : List (Option CanFilter)
  candidates : List (Word × Word)
  deriving DecidableEq, Repr

/-- Configuration of an Ethernet port (R284 to R290, R307) with the device's own MAC address on it, and the rate, where the image sets one. -/
structure PortCfg where
  mac : BitVec 48
  rate : Option (BitVec 2)
  lan : BitVec 2
  pvid : BitVec 12
  vlans : List (BitVec 12)
  defaultGate : Byte
  multicast : List (BitVec 48)
  deriving DecidableEq, Repr

/-- A retention and reservation entry of an owner (0 to 7 tenant, 8 device) and class (R372, R373). -/
structure HisCfg where
  owner : Fin 9
  cls : BitVec 2
  shareGb : Nat
  hours : Nat
  deriving DecidableEq, Repr

/-- A loop slot the image gives: its tile, number and parameter block (R150). -/
structure LoopCfg where
  crest : Fin 6
  loop : BitVec 10
  params : List Word
  deriving DecidableEq, Repr

/-- An application image as data. The spec gives its content and no byte layout (log entry 5). -/
structure AppImage where
  id : DWord
  config : Byte
  tenants : Byte
  sizeBytes : Nat
  regions : List Region
  code : List (Nat × List Byte)
  keys : List KeyEntry
  tasks : List Task
  taskInit : List (Nat × List Byte)
  inPoints : List InPoint
  outPoints : List OutPoint
  stations : List StationCfg
  callAreas : List (BitVec 3 × Nat)
  safety : Option SafetyCfg
  ioMap : IoMap
  trio : TrioCfg
  loops : List LoopCfg
  watchdogMs : BitVec 10
  partitionUs : BitVec 17
  windows : Vec (List PartWindow) 4
  recorder : List Nat
  cans : List (Fin 16 × CanCfg)
  uartLatched : BitVec 8
  uartOwners : List (Fin 8 × BitVec 3)
  ports : List (Fin 8 × PortCfg)
  hostShares : Vec (BitVec 6) 9
  hisReservation : Vec (BitVec 16) 9
  hisShares : List HisCfg
  hisCapacityGb : Nat
  moving : List (BitVec 16)
  deriving DecidableEq, Repr

/-- The fields of a checked envelope (Table 15.2), which stays with a bank (R397). -/
structure Envelope where
  type : Byte
  signer : Byte
  length : Word
  compat : BitVec 16
  svn : Byte
  confirm : Word
  serial : DWord
  nonce : DWord
  digest : BitVec 384
  sigR : BitVec 384
  sigS : BitVec 384
  deriving DecidableEq, Repr

end Sys2Proof.Machine
end

