-- ==== Sys2Proof/Machine/State.lean ====
section
/-! DEFINITION. The state of the ACR-96: every register, FIFO, buffer, counter, mode and pin the spec gives it, block by
block; the reset value of each field stands beside it as its default. -/
namespace Sys2Proof.Machine

/-! ### Names of modes -/

/-- Bank states of SCH_STAT.SHADOW and APP_STAT.SHADOW. -/
inductive BankState where
  | empty | loading | valid | armed
  deriving DecidableEq, Repr

/-- RUN_STAT.STATE (Table 4.11). -/
inductive RunState where
  | starting | running | stopped | safeHold | observer
  deriving DecidableEq, Repr

/-- TRIO_STAT.STATE (Table 6.13). -/
inductive TrioState where
  | trio | duo | solo | alone
  deriving DecidableEq, Repr

/-- Function states of R202. -/
inductive FuncState where
  | normal | hold | safe | lockout
  deriving DecidableEq, Repr

/-- Connection states of SAF_CSTAT.STATE. -/
inductive ConnState where
  | closed | ok | degraded | failed
  deriving DecidableEq, Repr

/-- Power-domain states (R341). -/
inductive PdState where
  | off | starting | on | stopping
  deriving DecidableEq, Repr

/-- CAN_STAT.MODE. -/
inductive CanMode where
  | off | normal | listen | detect
  deriving DecidableEq, Repr

/-- TRC_STAT.STATE (Table 5.11). -/
inductive TraceState where
  | idle | recording | triggered | done
  deriving DecidableEq, Repr

/-- HL_STAT.LINK. -/
inductive HlLink where
  | detect | training | l0 | l1 | l2 | disabled
  deriving DecidableEq, Repr

/-- Boot-flash slot states (R382). -/
inductive SlotState where
  | empty | valid | active | trial | rejected
  deriving DecidableEq, Repr

/-- UPD_STAT.STATE. -/
inductive UpdState where
  | idle | loading | armed | trial
  deriving DecidableEq, Repr

/-- Drive states of Table 14.6. -/
inductive DriveState where
  | absent | ok | lowSpare | retired | failed | unsuitable
  deriving DecidableEq, Repr

/-- The answer to the last access: a value, a done write, an error response (R426), a Completer Abort (R346), or none yet. -/
inductive Resp where
  | none | done | value (v : DWord) | bytes (b : List Byte) | error | abort
  deriving DecidableEq, Repr

/-- A frame or message the device has sent on a link or bus, oldest first in `State.out` (the model's own record). -/
inductive Sent where
  | trio (p : TrioPort) (f : TrioFrame)
  | eth (port : Fin 8) (etherType : BitVec 16) (data : List Byte)
  | can (c : Fin 16) (buf : Fin 64) (words : List Byte)
  | uart (u : Fin 8) (byte : Byte)
  | voutCommand (addr : BitVec 7) (value : BitVec 16)
  | msix (vector : Fin 32)
  | completion (queue : Fin 9) (r : Resp)
  | accessFault (core : Fin 4)
  | pmeToAck
  deriving DecidableEq, Repr

/-! ### Page header (R421) -/

/-- The common header of a page, Table 17.5. -/
structure PageHdr where
  lock : Bool := false
  freeze : Bool := false
  lockViol : Bool := false
  errAccess : Bool := false
  raw : Word := 0
  en : Word := 0
  sel : Vec Byte 4 := Vector.replicate 4 0
  cnt : Vec (BitVec 49) 4 := Vector.replicate 4 0
  /-- The event bits that set at tick `freshTick`: a clear at that tick leaves them set (R422). -/
  fresh : Word := 0
  freshTick : Nat := 0
  /-- The tick of the latest clear of the counters: its events are not counted (R429). -/
  clearTick : Option Nat := none
  deriving DecidableEq, Repr

/-! ### Timebase unit (Ch. 10) -/

/-- A native-timebase instant: seconds and nanoseconds. -/
structure Instant where
  sec : BitVec 48 := 0
  ns : BitVec 30 := 0
  deriving DecidableEq, Repr

/-- One PPS input's capture (R278, Table 10.5). -/
structure PpsIn where
  cap : Instant := {}
  fresh : Bool := false
  ovr : Bool := false
  deriving DecidableEq, Repr

/-- One PPS output: its level, the local tick of its last rising edge, the whole second of its count last considered and the tick at which
its pulse ends (R279, R280). -/
structure PpsOut where
  high : Bool := false
  oneShot : Bool := false
  lastEdge : Option Nat := none
  sec : Int := 0
  endTick : Nat := 0
  deriving DecidableEq, Repr

/-- The timebase unit (R261, R282). `tick` counts the ticks since the last reset of the unit. -/
structure Timebase where
  tick : Nat := 0
  sec : BitVec 48 := 0
  ns : BitVec 30 := 0
  frac : BitVec 40 := 0
  schedNs : DWord := 0
  schedFrac : BitVec 40 := 0
  gulny : DWord := 0
  gulnyFrac : BitVec 24 := 0
  incrLo : Word := 0
  incrHi : BitVec 12 := 0x200
  nextIncr : Option (BitVec 44) := none
  stepNs : BitVec 30 := 0
  stepSec : Word := 0
  stepPending : Option (Word × BitVec 30) := none
  offset : DWord := 0
  nextOffset : Option DWord := none
  epoch : BitVec 16 := 0
  gcntIncr : Word := 0x02000000
  gload : DWord := 0
  code : Byte := 0
  aligned : Bool := false
  isRef : Bool := false
  trimSat : Bool := false
  theta : Word := 0
  trim : Word := 0
  delayA : BitVec 16 := 0
  delayB : BitVec 16 := 0
  goodRounds : Nat := 0
  thetas : List (Option Int) := []
  trims : List Int := []
  delta : Int := 0
  lastR : Nat := 0
  ppsInCtrl : BitVec 4 := 0
  ppsIn : Vec PpsIn 2 := Vector.replicate 2 {}
  ppsEn : Vec Bool 2 := Vector.replicate 2 false
  ppsSrc : Vec Bool 2 := Vector.replicate 2 false
  ppsWidth : Vec (BitVec 10) 2 := Vector.replicate 2 100
  ppsOut : Vec PpsOut 2 := Vector.replicate 2 {}
  shotNs : BitVec 30 := 0
  shotSec : BitVec 48 := 0
  shot : Option (Fin 2 × BitVec 48 × BitVec 30) := none
  deriving DecidableEq, Repr

/-! ### Control engines (Ch. 3) -/

/-- One active hardware loop (R65, R74). -/
structure LoopReg where
  start : Word
  last : Word
  count : Word
  deriving DecidableEq, Repr

/-- The exception record of an engine (R91, Table 3.10). -/
structure XRecord where
  cause : BitVec 4 := 0
  ds : Bool := false
  sh : Bool := false
  le : Bool := false
  depth : BitVec 2 := 0
  trap : BitVec 5 := 0
  seen : BitVec 8 := 0
  mode : BitVec 5 := 0
  pc : BitVec 14 := 0
  next : BitVec 14 := 0
  addr : Word := 0
  lc0 : BitVec 16 := 0
  lc1 : BitVec 16 := 0
  tenant : BitVec 3 := 0
  task : BitVec 8 := 0
  step : BitVec 16 := 0
  slot : BitVec 20 := 0
  round : BitVec 10 := 0
  elapsed : BitVec 16 := 0
  frame : DWord := 0
  deriving DecidableEq, Repr

/-- A context half (R69, R71): its bytes, the lengths loaded, the step it holds, and whether that step has ended with HALT. -/
structure Half where
  mem : Memory := []
  codeLen : BitVec 9 := 0
  stateLen : BitVec 9 := 0
  desc : Option StepDesc := none
  done : Bool := false
  deriving DecidableEq, Repr

/-- The step an engine runs: its descriptor, slot, logical engine and start instant on the schedule clock. -/
structure StepRun where
  desc : StepDesc
  slot : BitVec 20
  logical : BitVec 4
  startNs : Nat
  deriving DecidableEq, Repr

/-- A control engine (R65): `delay` is the branch whose delay slot comes next (taken destination or none);
`modeNext` is the mode that takes effect after the shadow (R67); `half` names the half in use, and `taken` tells that the slot's step has
taken it (R71). -/
structure Engine where
  regs : Vec Word 32 := Vector.replicate 32 0
  pc : Word := 0
  acc : DWord := 0
  mode : BitVec 5 := 0x14
  modeWritten : BitVec 5 := 0x14
  modeNext : Option (BitVec 5) := none
  flags : BitVec 7 := 0
  loops : List LoopReg := []
  delay : Option (Option Word) := none
  jumped : Bool := false
  half : Bool := false
  taken : Bool := false
  half0 : Half := {}
  half1 : Half := {}
  run : Option StepRun := none
  unloaded : Option StepDesc := none
  x : XRecord := {}
  deriving DecidableEq, Repr

/-! ### Loop array (Ch. 5) -/

/-- The loop array of a tile (R132, R155): loop records and trace memory as endpoint bytes, the parameter write and
trace state. -/
structure LoopArray where
  mem : Memory := []
  traceMem : Memory := []
  sel : BitVec 10 := 0
  params : Vec Word 16 := Vector.replicate 16 0
  pending : Option (BitVec 10 × Vec Word 16) := none
  code : Byte := 0
  rd : Vec Word 64 := Vector.replicate 64 0
  held : List (BitVec 10 × List Word) := []
  lastStep : List (BitVec 10 × Bool) := []
  trcEnable : Bool := false
  trcOneshot : Bool := false
  trcState : TraceState := .idle
  trcWrapped : Bool := false
  trcNext : BitVec 13 := 0
  trcSrc : BitVec 2 := 0
  trcChan : BitVec 4 := 0
  trcLevel : Word := 0
  trcPost : BitVec 13 := 0
  trcLeft : BitVec 13 := 0
  trcRec : BitVec 13 := 0
  trcTime : DWord := 0
  trcCh : Vec Word 8 := Vector.replicate 8 0
  trcFired : Bool := false
  deriving DecidableEq, Repr

/-- A tile or hub switch (R431): ports up, gone down, and its counts. -/
structure Switch where
  up : BitVec 9 := 0
  down : BitVec 9 := 0
  retry : Word := 0
  refuseOwner : BitVec 16 := 0
  refuseRoute : BitVec 16 := 0
  lastAddr : Word := 0
  lastTenant : BitVec 3 := 0
  lastUntagged : Bool := false
  lastKind : Bool := false
  deriving DecidableEq, Repr

/-- A Crest tile (Table 1.1, Table 3.10). `badWords` and `softWords` are the words of its tile memory, by pool address, that hold an
uncorrectable and a single-bit error; `badLoopWords` and `softLoopWords` those of its loop records, by offset (R92, R93, R152).
`loopsLate` tells that loop steps of the present slot will not have ended in time (R133). -/
structure Crest where
  engines : Vec Engine 18 := Vector.replicate 18 {}
  retired : BitVec 18 := 0
  toRetire : List (Fin 18) := []
  refused : Bool := false
  exhausted : Bool := false
  speedMin : BitVec 12 := 0
  speedMon : BitVec 3 := 0
  guard : Bool := false
  slow : Bool := false
  lowRounds : BitVec 8 := 0
  lowAtMax : Nat := 0
  readings : Vec (BitVec 12) 8 := Vector.replicate 8 0
  variant : BitVec 8 := 0
  map : List (BitVec 5) := []
  quietNext : Fin 18 := 0
  eccCorr : Word := 0
  eccThr : Word := 0x100
  eccUnc : BitVec 16 := 0
  eccAddr : Word := 0
  badWords : List Nat := []
  softWords : List Nat := []
  badLoopWords : List Nat := []
  softLoopWords : List Nat := []
  failAtRoundEnd : Bool := false
  xsel : BitVec 5 := 0
  loop : LoopArray := {}
  loopsLate : Bool := false
  switch : Switch := {}
  temps : Vec (BitVec 11) 4 := Vector.replicate 4 0
  tempBad : BitVec 4 := 0
  deriving DecidableEq, Repr

/-! ### Fabric (Ch. 1, 2) -/

/-- A best-effort packet in flight: its identity, route word, tag, place (the tile it is at or on its way to, and the port codes used)
and request (R16, R330). `waiting` holds the flits that still wait at a link input; 0 while the packet is on its way to its tile. `request`
is the host request it is a piece of (R346). -/
structure Packet where
  id : Nat
  src : BeSource
  route : Word
  tenant : Option (BitVec 3)
  addr : Word
  kind : BeKind
  tile : Fin 8
  hop : Nat
  waiting : Nat
  request : Option Nat := none
  deriving DecidableEq, Repr

/-- The open window of a link direction (R16, R31): its end on the schedule clock and the flits it has left. -/
structure LinkWindow where
  ld : LinkDir
  endNs : Nat
  left : Nat
  deriving DecidableEq, Repr

/-! ### Schedule block and run control (Ch. 2, 4) -/

/-- The schedule block (R57, R60): registers, banks, and the position of the running schedule. `switched` tells that the frame's start has
come by a swap, an exchange or a restart before its ROUND_START; `slotBegun` that the round's slot 0 has begun; `canDone` lists the CAN-slot
entries that the slot has requested. -/
structure Sched where
  loadAddr : BitVec 26 := 0
  loadLen : BitVec 25 := 0
  code : Byte := 0
  errTable : Byte := 0
  errIndex : BitVec 24 := 0
  target : DWord := 0
  bank : BankState := .empty
  shadow : Option SchedImage := none
  shadowEnv : Option Envelope := none
  active : Option SchedImage := none
  activeEnv : Option Envelope := none
  armedFrame : DWord := 0
  armedApp : Bool := false
  armedTrio : Bool := false
  loadFrom : Nat := 0
  loadBytes : Nat := 0
  running : Bool := false
  frame : DWord := 0
  round : BitVec 10 := 0
  slot : BitVec 20 := 0
  frameNs : Nat := 0
  roundNs : Nat := 0
  switched : Bool := false
  swapped : Bool := false
  slotBegun : Bool := false
  canDone : List CanSlot := []
  deriving DecidableEq, Repr

/-- A force of the force table (R113): its value, whether it is in effect, and the accepted changes that wait, oldest first: a value to set,
or none for a removal, with the rounds left until it acts and the member that accepted it; they stand in the order in which they act. -/
structure Force where
  point : BitVec 16
  value : Word
  on : Bool
  pend : List (Option Word × Nat × Fin 3)
  deriving DecidableEq, Repr

/-- What the model keeps of a task at run time (R88, R90, R169). -/
structure TaskRt where
  tenant : BitVec 3
  task : BitVec 8
  abandoned : Bool := false
  program : Bool := false
  rowCount : Nat := 0
  stopped : Bool := false
  repair : Bool := false
  repaired : Bool := false
  unrepaired : Nat := 0
  deriving DecidableEq, Repr

/-- A Keaco station at run time (R123, R293). `copies` and `copiesPrev` are the SEQs accepted since the last sample instant, and between that
one and the one before. -/
structure StationRt where
  miss : BitVec 4 := 0
  good : BitVec 4 := 0
  dropped : Bool := false
  drops : BitVec 16 := 0
  lastSeq : Option Word := none
  copies : List Word := []
  copiesPrev : List Word := []
  arrived : Option (Word × List Byte) := none
  present : Bool := false
  substituted : Bool := false
  input : Memory := []
  output : Memory := []
  sendSeq : Word := 0
  deriving DecidableEq, Repr

/-- A record waiting for a tenant's error task (R124): station, reason, frame, late mark. -/
structure ErrRec where
  station : Fin 256
  reason : BitVec 4
  frame : Word
  late : Bool
  deriving DecidableEq, Repr

/-- Run control (R131): state, forces, overrun, stations and the application bank. `latched` holds, by class and instance, the tick at
which an I/O group was last sampled (R392). `ran` tells that the round has been computed without a stop; `undo` lists what the round's commit
transfers replaced, newest first (R118, R120). -/
structure RunCtl where
  state : RunState := .starting
  target : DWord := 0
  restart : Option DWord := none
  code : Byte := 0
  ovrSlot : BitVec 20 := 0
  ovrCrest : BitVec 3 := 0
  ovrLogical : BitVec 4 := 0
  ovrCause : BitVec 2 := 0
  ovrFrame : DWord := 0
  frcPoint : BitVec 16 := 0
  frcValue : Word := 0
  frcCode : Byte := 0
  frcSel : BitVec 8 := 0
  forces : Vec (Option Force) 256 := Vector.replicate 256 none
  tasks : List TaskRt := []
  keaSel : BitVec 8 := 0
  stations : Vec StationRt 256 := Vector.replicate 256 {}
  errQueue : Vec (List ErrRec) 8 := Vector.replicate 8 []
  errLost : BitVec 8 := 0
  outValues : List (BitVec 16 × Word) := []
  loadAddr : BitVec 26 := 0
  loadLen : BitVec 25 := 0
  appCode : Byte := 0
  bank : BankState := .empty
  ownTarget : Bool := false
  armedTrio : Bool := false
  appErr : Word := 0
  appTarget : DWord := 0
  armedFrame : DWord := 0
  loadFrom : Nat := 0
  loadBytes : Nat := 0
  active : Option AppImage := none
  activeEnv : Option Envelope := none
  shadow : Option AppImage := none
  shadowEnv : Option Envelope := none
  discRun : List (BitVec 16 × Fin 3 × Nat) := []
  commitHeld : Bool := false
  latched : List (BitVec 8 × BitVec 8 × Nat) := []
  ran : Bool := false
  undo : List (Nat × List Byte) := []
  deriving DecidableEq, Repr

/-! ### Trio (Ch. 6) -/

/-- A frame that waits at a trio port (R303): TYPE, TARGET, T, OFFSET and LEN of its header, whether it belongs to a scheduled exchange, the
instant on the schedule clock from which it may leave, and its payload. -/
structure TrioOut where
  type : Byte
  target : Byte
  t : DWord
  offset : BitVec 16
  len : BitVec 16
  scheduled : Bool
  due : Nat
  payload : TrioPayload
  deriving DecidableEq, Repr

/-- The sending side of a trio port: the frames that wait, oldest first; the instant at which its line is free; and the instants at which
its alignment frames of this round, of the last round and of the formation left. -/
structure TrioLine where
  queue : List TrioOut := []
  free : Nat := 0
  tx : Option DWord := none
  txPrev : Option DWord := none
  starts : List DWord := []
  deriving DecidableEq, Repr

/-- What a member holds of a partner: statuses of this and of the last round, alignment, missed D instants (R173, R184), and the
`COMPAT` of the last status heard (R391). -/
structure Partner where
  status : Option MemberStatus := none
  last : Option MemberStatus := none
  align : Option AlignData := none
  alignPrev : Option AlignData := none
  missedD : Nat := 0
  missingKinds : BitVec 5 := 0
  lastCompat : Option (BitVec 16) := none
  deriving DecidableEq, Repr

/-- A DISAGREE finding: the two members concerned and the disagreeing tasks (R167). -/
structure Disagree where
  members : BitVec 3
  tasks : List (BitVec 3 × BitVec 8)
  deriving DecidableEq, Repr

/-- The trio unit (R193). `flits` lists what has arrived of the round's exchanges (R301): port, kind, flit offset, flits; and `repairFlits`
of repairs (R299): port, T, task, flit offset, flits. `lineA` and `lineB` are the ports' sending sides and `timeRx` the PTP messages received
in TIME frames, with their receive instants (R276). `fixed` is the status that the last-resort sequencer sends (R177), `startAt` the instant
on the schedule clock at which the first round is to begin (R188, R274). `compared` tells that `cmp` is of the present round. `soleActive` marks a member that was the only voting one when it
gave up. `rxA`, `rxB`, `repA`, `repB` are the receive and repair areas (R297); `sentStatus` is the status sent in the round, `listen` the
finding on a listening column, `joining` the member admitted to rejoin. `mirrorHere` is the port on which the last round's mirror data stand
whole and `mirrorSkip` the tasks left out of them (R172); `copying` is the member this one copies to (R190). -/
structure Trio where
  member : BitVec 2 := 3
  role : Role := .observer
  state : TrioState := .alone
  roster : Roster := ⟨0, 3, 0⟩
  nextRoster : Option Roster := none
  t : DWord := 0
  gaveUp : Bool := false
  cause : Byte := 0
  fenced : Bool := false
  code : Byte := 0
  cmp : CmpResult := .ok
  compared : Bool := false
  odd : BitVec 2 := 3
  odd2 : BitVec 2 := 3
  subst : BitVec 16 := 0
  disc : BitVec 16 := 0
  listen : Option (Fin 3 × Bool) := none
  disagree : Option Disagree := none
  disagreeNext : Option Disagree := none
  diagPass : Option Bool := none
  partners : Vec Partner 3 := Vector.replicate 3 {}
  sentStatus : Option MemberStatus := none
  flits : List (TrioPort × BitVec 4 × Nat × Nat) := []
  rxA : Memory := []
  rxB : Memory := []
  repairs : List (BitVec 3 × BitVec 8) := []
  repairsNext : List (BitVec 3 × BitVec 8) := []
  repairFlits : List (TrioPort × DWord × (BitVec 3 × BitVec 8) × Nat × Nat) := []
  repA : Memory := []
  repB : Memory := []
  toFence : BitVec 3 := 0
  outA : Bool := false
  outB : Bool := false
  inHigh : Bool := true
  pulseA : Bool := false
  pulseB : Bool := false
  testSent : Option Bool := none
  testSeen : Bool := false
  missA : BitVec 4 := 0
  missB : BitVec 4 := 0
  missIn : BitVec 4 := 0
  upA : Bool := false
  upB : Bool := false
  heardA : Bool := false
  heardB : Bool := false
  phase : BitVec 3 := 0
  donor : BitVec 2 := 3
  copiedBytes : Nat := 0
  rejoinTest : Bool := false
  rejoinReq : Bool := false
  bulkDone : Bool := false
  joining : Option (BitVec 2) := none
  donating : Option (BitVec 2) := none
  forming : Bool := false
  soloStart : Option Nat := none
  forcesOut : List ForceMsg := []
  forcesRefused : List (BitVec 16) := []
  lastCommitHold : Nat := 0
  soleActive : Bool := false
  lineA : TrioLine := {}
  lineB : TrioLine := {}
  timeRx : List (TrioPort × Instant × List Byte) := []
  fixed : Option MemberStatus := none
  startAt : Option Nat := none
  mirrorHere : Option TrioPort := none
  mirrorSkip : List (BitVec 3 × BitVec 8) := []
  copying : Option (BitVec 2) := none
  deriving DecidableEq, Repr

/-! ### Safety (Ch. 7) -/

/-- A safety function at run time (R202, Table 7.10). -/
structure FuncRt where
  state : FuncState := .normal
  cause : BitVec 4 := 0
  clear : Nat := 0
  holdEnd : Nat := 0
  present : Bool := false
  reactions : BitVec 16 := 0
  resets : BitVec 16 := 0
  deriving DecidableEq, Repr

/-- A safety connection at run time (R212 to R214). `pairs` are the open pair windows, oldest
first: the first copy came on LAN B, its sequence, its bytes; `watchNs` is what the connection watchdog counts from. -/
structure ConnRt where
  state : ConnState := .closed
  good : BitVec 4 := 0
  lan : BitVec 2 := 0
  lastSeq : Option Word := none
  pairs : List (Bool × Word × List Byte) := []
  decided : List Word := []
  watchNs : Option Nat := none
  value : List Byte := []
  lastNs : Option Nat := none
  fullPairs : Nat := 0
  rejected : BitVec 16 := 0
  discarded : BitVec 16 := 0
  late : BitVec 16 := 0
  degraded : BitVec 16 := 0
  sendSeq : Word := 0
  deriving DecidableEq, Repr

/-- A reset press under way (R205): point, its start on the schedule clock, a failure seen. -/
structure Press where
  point : BitVec 16
  startNs : Nat
  bad : Bool
  deriving DecidableEq, Repr

/-- The safety unit (R216). -/
structure Safety where
  accepted : Bool := false
  safeHold : Bool := false
  exchSeal : Bool := false
  sealNow : Byte := 0
  sealRaw : Byte := 0
  sealOkSince : Option Nat := none
  fsel : BitVec 8 := 0
  csel : BitVec 8 := 0
  resetCode : Byte := 0
  resetFunc : BitVec 8 := 0
  funcs : Vec FuncRt 256 := Vector.replicate 256 {}
  conns : Vec ConnRt 256 := Vector.replicate 256 {}
  substituted : List (BitVec 16) := []
  mismatched : List (BitVec 16) := []
  outFaults : List (BitVec 16) := []
  presses : List Press := []
  lastReset : List (BitVec 16 × Bool) := []
  deriving DecidableEq, Repr

/-! ### Field tile (Ch. 8) and panel (Ch. 9) -/

/-- Foothill's channels and registers (R245). DI, DO and two-leg states are bit vectors, bit n for channel n. `flits` holds the
input flits as latched (Table 8.2, words at their endpoint offsets). A bit of `doWait`, `tloWait`, `aoWait` keeps a channel off until
the next commit instant of its group (R218, R244).
`heldMap` is the I/O map that Foothill keeps while a reset of Saddle
has not reached it. `enSingle` and `enAll` are the drive enables of R170; a bit of `doSafe`, `tloSafe`, `aoSafe` marks a channel that Saddle holds at
its safe value. -/
structure Field where
  powered : Bool := true
  linkUp : Bool := false
  alone : Bool := false
  warn : Bool := false
  uvlo : Bool := false
  fenced : Bool := false
  fenceHigh : Bool := true
  fenceSeen : Bool := false
  hot : Bool := false
  shutdown : Bool := false
  vfield : BitVec 16 := 0
  temp : BitVec 11 := 0
  diRaw : BitVec 64 := 0
  diFilt : BitVec 64 := 0
  diVal : BitVec 64 := 0
  diBrk : BitVec 64 := 0
  diWire : BitVec 64 := 0
  diCross : BitVec 64 := 0
  diPassed : BitVec 64 := 0
  diStart : BitVec 64 := BitVec.allOnes 64
  diBefore : BitVec 64 := 0
  flits : Memory := []
  sealFilt : BitVec 8 := 0
  tpsOff : BitVec 8 := 0
  tpsPulse : BitVec 8 := 0
  tpsBlank : BitVec 8 := 0
  tpsHoldUntil : Nat := 0
  tpsChans : Vec (BitVec 64) 8 := Vector.replicate 8 0
  tpsEnd : Vec Nat 8 := Vector.replicate 8 0
  tpsOld : List (Fin 8 × TpsCfg) := []
  tpsFrom : Nat := 0
  doPend : BitVec 24 := 0
  doNew : BitVec 3 := 0
  doCmd : BitVec 24 := 0
  doSw : BitVec 24 := 0
  doTerm : BitVec 24 := 0
  doTrip : BitVec 24 := 0
  doSeenOff : BitVec 24 := 0
  doHot : BitVec 24 := 0
  doWait : BitVec 24 := BitVec.allOnes 24
  doBlank : BitVec 24 := 0
  doMis : BitVec 24 := 0
  doExp : BitVec 24 := 0
  tloPend : BitVec 8 := 0
  tloNew : Bool := false
  tloCmd : BitVec 8 := 0
  tloSw : BitVec 8 := 0
  tloHi : BitVec 8 := 0
  tloLo : BitVec 8 := 0
  tloLock : BitVec 8 := 0
  tloWait : BitVec 8 := BitVec.allOnes 8
  tloCleanTick : Vec Nat 8 := Vector.replicate 8 0
  tloShort : BitVec 8 := 0
  tloBlank : BitVec 8 := 0
  tloMis : BitVec 8 := 0
  tloExp : BitVec 8 := 0
  aiOff : BitVec 32 := 0
  aiFilt : Vec Nat 32 := Vector.replicate 32 0
  aiAt : Vec Nat 32 := Vector.replicate 32 0
  aiCur : Vec Word 32 := Vector.replicate 32 0
  aiStat : Vec (BitVec 4) 32 := Vector.replicate 32 0
  aoPend : Vec Word 16 := Vector.replicate 16 0x30000
  aoNew : BitVec 2 := 0
  aoCmd : Vec Word 16 := Vector.replicate 16 0x30000
  aoWait : BitVec 16 := BitVec.allOnes 16
  aoAsk : Vec Int 16 := Vector.replicate 16 0
  aoStat : Vec (BitVec 4) 16 := Vector.replicate 16 1
  aoMeas : Vec (BitVec 25) 16 := Vector.replicate 16 0
  m4 : Vec (BitVec 25) 16 := Vector.replicate 16 4000000
  m20 : Vec (BitVec 25) 16 := Vector.replicate 16 20000000
  trim : BitVec 16 := 0
  trim20 : BitVec 16 := 0
  enSingle : Bool := false
  enAll : Bool := false
  doSafe : BitVec 24 := 0
  tloSafe : BitVec 8 := 0
  aoSafe : BitVec 16 := 0
  sel : BitVec 14 := 0
  trimSel : BitVec 4 := 0
  trimM4 : BitVec 25 := 4000000
  trimM20 : BitVec 25 := 20000000
  trimCode : Byte := 0
  heldMap : Option IoMap := none
  deriving DecidableEq, Repr

/-- What the port drives on the segments of a common (Table 9.2), in mV: all alike, each at a level of its own, or shorted to FGND. -/
inductive PanelDrive where
  | all (mv : Nat)
  | each (mv : List Nat)
  | short
  deriving DecidableEq, Repr

/-- A running common write (R250): common, row being written, phase 1 to 4, factor times ten, stale write; V_R and V_S0 in 0.1 V and each
segment's selection amplitude in mV, as they were at its start; what the phase drives; and the local time of its start. -/
structure PanelWrite where
  common : Fin 8
  row : BitVec 96
  phase : Nat
  factor : Nat
  stale : Bool
  vr : BitVec 9
  vs0 : BitVec 9
  amps : List Nat
  drive : PanelDrive
  start : Nat
  deriving DecidableEq, Repr

/-- The panel port (R260). `stress` lists the stress counters that are not 0, by segment 96 c + s. -/
structure Panel where
  pend : Vec (BitVec 96) 8 := Vector.replicate 8 0
  target : Vec (BitVec 96) 8 := Vector.replicate 8 0
  shadow : Vec (BitVec 96) 8 := Vector.replicate 8 0
  invalid : BitVec 8 := 0xFF
  last : Fin 8 := 0
  write : Option PanelWrite := none
  stress : List (Nat × BitVec 24) := []
  cold : Bool := false
  crack : Bool := false
  crackSeen : Bool := false
  ntcFault : Bool := false
  staleMark : Bool := false
  temp : BitVec 11 := 0
  vpnl : BitVec 16 := 0
  loop : BitVec 16 := 0
  csel : BitVec 10 := 0
  lastMs : BitVec 16 := 0
  writes : BitVec 16 := 0
  deriving DecidableEq, Repr

/-! ### Networks (Ch. 11, 12) -/

/-- A frame waiting to leave an Ethernet port: its class, origin and bytes; a device frame carries its destination and VLAN ID, firmware's
frames name their transmit descriptor and buffer, `copy` marks the second copy of a PRP pair, `seq` is the number of its trailer and
`depart` the instant at which it left. -/
structure QFrame where
  tc : BitVec 3
  etherType : BitVec 16
  station : Option (Fin 256)
  conn : Option (Fin 256)
  desc : Option (BitVec 12)
  dst : BitVec 48
  vlan : BitVec 12
  buf : Nat
  copy : Bool
  prp : Bool
  seq : BitVec 16
  oneStep : Bool
  capture : Bool
  depart : Nat
  len : Nat
  data : List Byte
  deriving DecidableEq, Repr

/-- An Ethernet port P0 to P7 or the key part of a trio port (R307). `gate` is the gate window that opened last, with its end, on the
schedule clock; `pdelayRx` the Pdelay_Req messages received: sender, sequence number and receipt instant (R277). Of a trio port `keyCak` is
the connectivity association key that its key number derives from, where it is not the one stored; `keyBoth` the rounds left in which the key
before is accepted too, and its connectivity association key; `txPn`, `rxPn`, `rxPnOld` the last packet number sent, and accepted under the
key and under the one before (R305, R306). -/
structure EthPort where
  rate : BitVec 2 := 0
  en : Bool := false
  up : Bool := false
  txLat : BitVec 16 := 0
  rxLat : BitVec 16 := 0
  txts : Instant := {}
  dup : Word := 0
  late : BitVec 16 := 0
  nobuf : BitVec 16 := 0
  noroom : BitVec 16 := 0
  bad : BitVec 16 := 0
  mcfSel : BitVec 6 := 0
  rxBase : BitVec 26 := 0
  txBase : BitVec 26 := 0
  rxLen : BitVec 12 := 0
  txLen : BitVec 12 := 0
  rxHead : BitVec 12 := 0
  txHead : BitVec 12 := 0
  rxTail : BitVec 12 := 0
  txTail : BitVec 12 := 0
  gate : Option (Nat × Nat) := none
  queue : List QFrame := []
  line : Option QFrame := none
  prp : List (BitVec 48 × BitVec 16 × Nat) := []
  prpSeq : BitVec 16 := 0
  pdelayRx : List (Nat × Nat × Nat) := []
  keyCur : Byte := 0
  keyPend : Option DWord := none
  keyCak : Option (BitVec 256) := none
  keyBoth : Option (Nat × BitVec 256) := none
  txPn : DWord := 0
  rxPn : DWord := 0
  rxPnOld : DWord := 0
  keyTarget : DWord := 0
  trpCode : Byte := 0
  deriving DecidableEq, Repr

/-- A CAN controller (R324). `line` is the buffer on the bus with the hold of a cancel (Table 12.4); `trying` and `detHeld`
are the candidate under trial and the one frame it has received (R321). -/
structure Can where
  mode : CanMode := .off
  busoff : Bool := false
  passive : Bool := false
  warning : Bool := false
  detected : Bool := false
  tec : BitVec 9 := 0
  recCnt : BitVec 8 := 0
  code : Byte := 0
  nbt : Word := 0
  dbt : Word := 0
  cand : BitVec 3 := 0
  autoJoin : Bool := false
  timeout : BitVec 8 := 50
  pend : BitVec 64 := 0
  sel : Fin 64 := 0
  lock : Bool := false
  bufs : Memory := []
  kinds : Vec BufKind 64 := Vector.replicate 64 .unused
  fresh : BitVec 64 := 0
  ovr : BitVec 64 := 0
  sent : BitVec 64 := 0
  cancelled : BitVec 64 := 0
  shadow : Option (CanFrame × Instant) := none
  late : BitVec 16 := 0
  noMatch : BitVec 16 := 0
  ovrCnt : BitVec 16 := 0
  busoffs : BitVec 16 := 0
  lat : BitVec 16 := 0
  fsel : BitVec 5 := 0
  line : Option (Fin 64 × Bool) := none
  latch : Memory := []
  txData : Memory := []
  trying : BitVec 3 := 0
  detHeld : Option (CanFrame × Instant) := none
  detSince : Nat := 0
  candSince : Nat := 0
  deriving DecidableEq, Repr

/-- A UART (R325). -/
structure Uart where
  bitNs : BitVec 22 := 208333
  dataBits : BitVec 2 := 3
  parity : BitVec 2 := 0
  stop2 : Bool := false
  latched : Bool := false
  mark0 : Byte := 0x24
  mark1 : Byte := 0x21
  rxThr : BitVec 8 := 1
  rx : List Byte := []
  tx : List Byte := []
  sending : Option Byte := none
  ovr : BitVec 8 := 0
  framing : BitVec 8 := 0
  parityErr : BitVec 8 := 0
  breaks : BitVec 8 := 0
  txOvr : BitVec 8 := 0
  marks : List Instant := []
  since : List Byte := []
  lost : Bool := false
  latch : Memory := []
  deriving DecidableEq, Repr

/-! ### Supervisor side (Ch. 13) -/

/-- The tenant tag of a core (SUP_TAGc). -/
structure Tag where
  tenant : BitVec 3 := 0
  kernel : Bool := true
  window : BitVec 4 := 0
  deriving DecidableEq, Repr

/-- The supervisor page and the interrupt controller (R353, R354); `firmware` is what the security firmware copied to the tile of each domain
(R384). -/
structure Super where
  live : BitVec 4 := 0xF
  wdogMs : BitVec 10 := 1000
  wdogNs : Vec Nat 4 := Vector.replicate 4 0
  period : BitVec 17 := 0
  tags : Vec Tag 4 := Vector.replicate 4 {}
  partFrom : Vec Nat 4 := Vector.replicate 4 0
  timerIrq : BitVec 4 := 0
  pselCore : BitVec 2 := 0
  pselWin : BitVec 4 := 0
  pd : Vec PdState 8 := (Vector.replicate 8 PdState.off).set 0 .on
  firmware : Vec (List Byte) 8 := Vector.replicate 8 []
  pdFail : BitVec 8 := 0
  pdRestart : BitVec 8 := 0
  pdCode : Byte := 0
  freeze : Bool := false
  hold : Bool := false
  thr : Vec (BitVec 9) 4 := Vector.replicate 4 0
  urgent : BitVec 16 := 0
  route : Vec (BitVec 2) 512 := Vector.replicate 512 0
  enable : BitVec 512 := 0
  deriving DecidableEq, Repr

/-- A mailbox channel (R337, R355). -/
structure Mailbox where
  sender : BitVec 4 := 0xF
  receiver : BitVec 4 := 0xF
  full : Bool := false
  pending : Bool := false
  code : BitVec 16 := 0
  result : Byte := 0
  msg : Vec Word 16 := Vector.replicate 16 0
  deriving DecidableEq, Repr

/-- A request of a tenant window in service (R346): its number, its queue, whether it is a read, and its packets in ascending address,
each with its answer when it has ended. -/
structure HostRun where
  id : Nat
  queue : Fin 9
  read : Bool
  pieces : List (Nat × Option Resp)
  deriving DecidableEq, Repr

/-- The host-link endpoint (R344 to R349, R356). `queues` 0 is BAR0, 1 to 8 the tenant windows; `turns` counts the turns each queue has had
in the present cycle of the round robin, `turn` is the queue served last, `runs` are the window requests in service; `eventDue` is a message for
vector 16 that waits (log entry 117). -/
structure HostLink where
  link : HlLink := .detect
  bme : Bool := false
  wake : Bool := false
  width : BitVec 3 := 0
  rate : BitVec 3 := 0
  masked : Word := 0xFFFFFFFF
  perst : Bool := false
  pmeOff : Bool := false
  d3hot : Bool := false
  eventDue : Bool := false
  abort : BitVec 16 := 0
  dropped : BitVec 16 := 0
  queues : Vec (List (HostTarget × HostOp)) 9 := Vector.replicate 9 []
  turns : Vec Nat 9 := Vector.replicate 9 0
  turn : Fin 9 := 0
  runs : List HostRun := []
  nextRun : Nat := 0
  deriving DecidableEq, Repr

/-! ### Recorder and historian (Ch. 14) -/

/-- A stored event record (Table 14.1) and whether it has been spilled. -/
structure Rec where
  ev : EventIn
  time : Instant
  epoch : BitVec 2
  seq : BitVec 24
  repeats : BitVec 16
  toDevice : Bool
  spilled : Bool
  deriving DecidableEq, Repr

/-- The open series of a region (R362): the record's sequence number, when it began and was last repeated by the recorder's own time, the
time and epoch of the last repeat, and the exact repeats. -/
structure Series where
  seq : BitVec 24
  startNs : Nat
  lastNs : Nat
  lastTime : Instant
  lastEpoch : BitVec 2
  count : Nat
  deriving DecidableEq, Repr

/-- A region of the recorder (R361). -/
structure RecRegion where
  size : Nat := 0
  slots : List Rec := []
  series : Option Series := none
  drops : Vec (BitVec 16) 8 := Vector.replicate 8 0
  deriving DecidableEq, Repr

/-- One core's banked firmware-record registers (R366). -/
structure FwBank where
  code : BitVec 16 := 0
  sev : BitVec 3 := 0
  p0 : Word := 0
  p1 : Word := 0
  p2 : Word := 0
  res : Byte := 0
  deriving DecidableEq, Repr

/-- The recorder (R376). The window entry i shows slot `window[i]` of region `winRegion`. -/
structure Recorder where
  queue : List (EventIn × Instant × BitVec 2 × Fin 9) := []
  nextSeq : BitVec 24 := 0
  regions : Vec RecRegion 9 :=
    (Vector.replicate 9 ({} : RecRegion)).set 8 { size := 65536 }
  layoutOn : Bool := false
  layoutPending : Bool := false
  ready : Bool := false
  filled : BitVec 6 := 0
  curSeq : BitVec 24 := 0
  curRegion : BitVec 4 := 8
  wseq : BitVec 24 := 0
  rsel : BitVec 4 := 8
  lost : Word := 0
  lag : BitVec 9 := 64
  refilling : Bool := false
  winRegion : Nat := 8
  window : List Nat := []
  winLatch : List (Requester × Fin 32 × List Word) := []
  fw : Vec FwBank 4 := Vector.replicate 4 {}
  deriving DecidableEq, Repr

/-- A historian block (Table 14.4), in staging or on a drive; `reserve` marks a gap block held in its owner's gap reserve (R372). -/
structure Block where
  owner : Fin 9
  cls : BitVec 2
  group : BitVec 8
  gap : Bool
  reserve : Bool
  cause : BitVec 3
  stamp : DWord
  g : Word
  slot : BitVec 20
  round : BitVec 10
  frame : DWord
  entry : BitVec 20
  stream : BitVec 8
  data : List Byte
  deriving DecidableEq, Repr

/-- A chunk on a drive (R369): its owner, class, blocks. -/
structure Chunk where
  drive : Fin 4
  owner : Fin 9
  cls : BitVec 2
  blocks : List Block
  deriving DecidableEq, Repr

/-- A historian drive (Table 14.6). -/
structure Drive where
  state : DriveState := .absent
  spare : BitVec 8 := 0
  spareThr : BitVec 8 := 0
  capGb : Word := 0
  deriving DecidableEq, Repr

/-- The historian (R377). `refused` lists the owners and classes whose refusal by every drive has been recorded (R374). -/
structure Historian where
  enabled : Bool := false
  hisBif : BitVec 2 := 0
  drives : Vec Drive 4 := Vector.replicate 4 {}
  dsel : BitVec 2 := 0
  tselOwner : BitVec 4 := 0
  tselClass : BitVec 2 := 0
  staging : List Block := []
  chunks : List Chunk := []
  nextDrive : Fin 4 := 0
  turns : Vec Nat 9 := Vector.replicate 9 0
  turnNow : Nat := 0
  groups : List (BitVec 3 × BitVec 8 × Word) := []
  effective : List (Fin 9 × BitVec 2 × Nat) := []
  dropped : BitVec 16 := 0
  gaps : BitVec 16 := 0
  refused : List (Fin 9 × BitVec 2) := []
  qFrom : DWord := 0
  qSel : BitVec 16 := 0
  qBuf : BitVec 26 := 0
  qLen : BitVec 25 := 0
  qBusy : Bool := false
  qCode : Byte := 0
  qBlocks : BitVec 16 := 0
  qSkipped : BitVec 16 := 0
  qNext : DWord := 0
  deriving DecidableEq, Repr

/-! ### Security, updates (Ch. 15) and power (Ch. 16) -/

/-- The OTP (Table 15.1), kept through every reset. Group g holds its begin bit at 2g and its commit bit at 2g + 1. `devId` is the digest of the identity public key, `idKey` and `storageKey` are the keys that nothing can read, and
`weakGroups` and `weakSvn` are the life-cycle and security-version bits that read as set only at normal margin (R378). -/
structure Otp where
  serial : DWord := 0
  vendor : Vec (BitVec 384) 4 := Vector.replicate 4 0
  revoked : BitVec 4 := 0
  owner : BitVec 384 := 0
  ownerBurnt : Bool := false
  groups : BitVec 6 := 0
  svn : BitVec 6 := 0
  devId : BitVec 384 := 0
  identity : Bool := false
  idKey : BitVec 384 := 0
  storageKey : BitVec 256 := 0
  weakGroups : BitVec 6 := 0
  weakSvn : BitVec 63 := 0
  deriving DecidableEq, Repr

/-- The secure store in flash (R381, R389, R390), kept through every reset. -/
structure SecStore where
  cak : Option (BitVec 256) := none
  cakNext : Option (BitVec 256) := none
  ownerLock : Bool := false
  ticket : Option (List Byte × List Byte) := none
  deriving DecidableEq, Repr

/-- A firmware slot in flash (R382, R383). -/
structure FwSlot where
  state : SlotState := .empty
  svn : BitVec 6 := 0
  compat : BitVec 16 := 0
  confirm : Word := 0
  package : List Byte := []
  deriving DecidableEq, Repr

/-- An application store entry (R397): the two images with the envelopes kept for them. -/
structure StoreEntry where
  app : AppImage
  appEnv : Option Envelope
  sched : SchedImage
  schedEnv : Option Envelope
  deriving DecidableEq, Repr

/-- A copy of the boot record (R382), with its CRC-32C. -/
structure BootRecord where
  seq : Word
  stateA : SlotState
  stateB : SlotState
  starts : BitVec 2
  window : BitVec 12
  current : Bool
  crc : Word
  deriving DecidableEq, Repr

/-- A copy of the secure-store record, written as the boot record is (R382): none of its bytes leaves the security core, and a key in it is
wrapped under the device storage key (R390). -/
structure SecRecord where
  seq : Word
  content : SecStore
  crc : Word
  deriving DecidableEq, Repr

/-- The flash (R381, R382), kept through every reset: the boot record in force with its two copies, the copies of the secure store, the slots
and the application store. -/
structure Flash where
  bootSeq : Word := 0
  slotA : FwSlot := {}
  slotB : FwSlot := {}
  starts : BitVec 2 := 0
  window : BitVec 12 := 600
  current : Bool := false
  store0 : Option StoreEntry := none
  store1 : Option StoreEntry := none
  boot : Vec (Option BootRecord) 2 := Vector.replicate 2 none
  sec : Vec (Option SecRecord) 2 := Vector.replicate 2 none
  secSeq : Word := 0
  deriving DecidableEq, Repr

/-- The security core's registers (R400). -/
structure Security where
  nonce : DWord := 0
  code : Byte := 0
  tktAddr : BitVec 26 := 0
  tktLen : BitVec 16 := 0
  rolled : Bool := false
  stuck : Bool := false
  permitUntil : Option Nat := none
  jtagLimit : BitVec 2 := 0
  deriving DecidableEq, Repr

/-- The update page (R399). `permitted` marks an armed activation that a PERMIT covers; `restart` is the cause (`PWR_CAUSE.KIND`) of a
restart that begins at the next round start (Table 15.11 step 2), `resetDue` that of the reset that follows it. -/
structure Update where
  runningB : Bool := false
  state : UpdState := .idle
  onBatt : Bool := false
  recovery : Bool := false
  loadAddr : BitVec 26 := 0
  loadLen : BitVec 26 := 0
  loadSlot : Bool := false
  code : Byte := 0
  env : Byte := 0
  target : DWord := 0
  armedFrame : DWord := 0
  fallbackArmed : Bool := false
  window : BitVec 12 := 600
  trialEnd : Option Nat := none
  fallbacks : BitVec 8 := 0
  why : BitVec 2 := 0
  storing : Option StoreEntry := none
  permitted : Bool := false
  restart : Option (BitVec 3) := none
  resetDue : Option (BitVec 3) := none
  deriving DecidableEq, Repr

/-- The power page and sequencer (R416). `released` tells whether the last power-on or device reset has been released, `rampNs` when step 2 of
Table 16.5 began, `voutMode` what the regulator answered to VOUT_MODE, and `floorSet` whether characterisation has commanded the floor. -/
structure Power where
  stage : BitVec 4 := 1
  hot : Bool := false
  coldHold : Bool := false
  pmbFail : Bool := false
  startCode : Byte := 0
  startTile : BitVec 3 := 0
  causeKind : BitVec 3 := 0
  causeRail : BitVec 3 := 0
  dip : BitVec 6 := 0
  faults : BitVec 6 := 0
  setMv : BitVec 10 := 750
  measMv : BitVec 10 := 0
  iout : BitVec 12 := 0
  vfloor : BitVec 10 := 700
  tselTile : BitVec 3 := 0
  tselSensor : BitVec 2 := 0
  tmax : BitVec 11 := 0
  tmaxTile : BitVec 3 := 0
  saddleTemps : Vec (BitVec 11) 4 := Vector.replicate 4 0
  saddleBad : BitVec 4 := 0
  straps : Straps := ⟨0, 0, 0⟩
  lastRaise : Option Nat := none
  lastLower : Option Nat := none
  highSince : Option Nat := none
  released : Bool := false
  rampNs : Option Nat := none
  voutMode : Byte := 0
  floorSet : Bool := false
  deriving DecidableEq, Repr

/-! ### The device -/

/-- The whole device. `pending`, `free`, `resp` and `out` are the model's own (see INVENTORY.md, State). -/
structure State where
  part : Part := .acr9608
  hdrs : Vec PageHdr 72 := Vector.replicate 72 {}
  latches : List ((Requester × Page × Nat) × Word) := []
  heldLow : List ((Requester × Page × Nat) × Word) := []
  tb : Timebase := {}
  crests : Vec Crest 6 := Vector.replicate 6 {}
  hub : Switch := {}
  flitFails : List (LinkDir × Nat) := []
  packets : List Packet := []
  nextPacket : Nat := 0
  opened : List LinkWindow := []
  pool : Memory := []
  sram : Memory := []
  staged : List (Word × List Byte) := []
  sched : Sched := {}
  run : RunCtl := {}
  trio : Trio := {}
  safety : Safety := {}
  field : Field := {}
  panel : Panel := {}
  ports : Vec EthPort 10 := Vector.replicate 10 {}
  cans : Vec Can 16 := Vector.replicate 16 {}
  uarts : Vec Uart 8 := Vector.replicate 8 {}
  super : Super := {}
  mail : Vec Mailbox 32 := Vector.replicate 32 {}
  host : HostLink := {}
  recorder : Recorder := {}
  historian : Historian := {}
  otp : Otp := {}
  store : SecStore := {}
  flash : Flash := {}
  sec : Security := {}
  upd : Update := {}
  pwr : Power := {}
  forceInd : Bool := false
  tapReset : Bool := true
  resp : Resp := .none
  out : List Sent := []
  free : Nat := 0
  pending : List Instr := []
  deriving DecidableEq, Repr

/-- The device right after a power-on reset: every field at its default above. -/
def State.reset : State := {}

/-- The faults of the model: none. Every failure the spec describes is an effect on the state. -/
inductive Fault where
  /-- Raised by no command (safe): the type of faults must have a name. -/
  | none
  deriving DecidableEq, Repr

/-- The refusals of the model. -/
inductive Refusal where
  /-- Raised by exec's arm of a command that has no meaning yet (safe). -/
  | notModelled (mnemonic : String)
  deriving DecidableEq, Repr

end Sys2Proof.Machine
end

