-- ==== Sys2Proof/Machine/Bits.lean ====
section
/-! DEFINITION. Bit fields, byte order, sparse memories, CRC-32C and saturating counts. -/
namespace Sys2Proof.Machine

/-- The field of `len` bits of `w` that begins at bit `lo`. -/
def bits {n : Nat} (w : BitVec n) (lo len : Nat) : BitVec len := w.extractLsb' lo len

/-- A field's value placed at bit `lo` of a register word. -/
def fld {n : Nat} (v : BitVec n) (lo : Nat) : Word := v.setWidth 32 <<< lo

/-- A one-bit field placed at bit `lo` of a register word. -/
def flag (b : Bool) (lo : Nat) : Word := if b then (1 : Word) <<< lo else 0

/-- The number of a state name, placed at bit `lo`. -/
def num (k : Nat) (lo : Nat) : Word := BitVec.ofNat 32 k <<< lo

/-- The low word of a 64-bit register (R425). -/
def lo32 (d : DWord) : Word := bits d 0 32

/-- The high word of a 64-bit register (R425). -/
def hi32 (d : DWord) : Word := bits d 32 32

/-- A 64-bit register from its two words. -/
def join (hi lo : Word) : DWord := hi ++ lo

/-- A counter that saturates. -/
def satInc {n : Nat} (x : BitVec n) : BitVec n := if x = BitVec.allOnes n then x else x + 1

/-- A counter that saturates, raised by `k`. -/
def satAdd {n : Nat} (x : BitVec n) (k : Nat) : BitVec n :=
  if x.toNat + k < 2 ^ n then BitVec.ofNat n (x.toNat + k) else BitVec.allOnes n

/-- Bit `i` of `w` set to `b`. -/
def setBit {n : Nat} (w : BitVec n) (i : Nat) (b : Bool) : BitVec n :=
  if b then w ||| BitVec.ofNat n 1 <<< i else w &&& ~~~(BitVec.ofNat n 1 <<< i)

/-- How many bits of `w` are set. -/
def popcount {n : Nat} (w : BitVec n) : Nat := (List.range n).countP fun i => w.getLsbD i

/-- The lowest set bit of `w` below `n`, if any. -/
def lowestBit {n : Nat} (w : BitVec n) : Option Nat := (List.range n).find? fun i => w.getLsbD i

/-- A word of `n` bits whose bit i is `f i`. -/
def bitsOf (n : Nat) (f : Nat → Bool) : BitVec n :=
  (List.range n).foldl (fun w i => if f i then setBit w i true else w) 0

/-- The first `k` bytes of a number, little-endian (R29, R69). -/
def bytesOf : Nat → Nat → List Byte
  | 0, _ => []
  | k + 1, x => BitVec.ofNat 8 x :: bytesOf k (x / 256)

/-- The number that little-endian bytes stand for. -/
def ofBytes : List Byte → Nat
  | [] => 0
  | b :: r => b.toNat + 256 * ofBytes r

/-- The word that four little-endian bytes stand for. -/
def wordOf (bs : List Byte) : Word := BitVec.ofNat 32 (ofBytes (bs.take 4))

/-- The bytes of a list of words. -/
def bytesOfWords (ws : List Word) : List Byte := ws.flatMap fun w => bytesOf 4 w.toNat

/-- Exactly `n` bytes of a list, filled with 0. -/
def takePad (n : Nat) (bs : List Byte) : List Byte :=
  bs.take n ++ List.replicate (n - bs.length) 0

/-! ### Sparse memories (log entry 4) -/

/-- The byte at address `a`; an address that is not listed holds 0. -/
def memGet : Memory → Nat → Byte
  | [], _ => 0
  | (k, b) :: r, a => if a < k then 0 else if a = k then b else memGet r a

/-- The memory with byte `b` at address `a`, in canonical form. -/
def memPut : Memory → Nat → Byte → Memory
  | [], a, b => if b = 0 then [] else [(a, b)]
  | (k, c) :: r, a, b =>
    if a < k then (if b = 0 then (k, c) :: r else (a, b) :: (k, c) :: r)
    else if a = k then (if b = 0 then r else (a, b) :: r)
    else (k, c) :: memPut r a b

/-- The `n` bytes from address `a`. -/
def memRead (m : Memory) (a n : Nat) : List Byte := (List.range n).map fun i => memGet m (a + i)

/-- The memory with the bytes `bs` stored from address `a`. -/
def memWrite : Memory → Nat → List Byte → Memory
  | m, _, [] => m
  | m, a, b :: r => memWrite (memPut m a b) (a + 1) r

/-- The memory with the `n` bytes from `a` set to 0. -/
def memClear (m : Memory) (a n : Nat) : Memory := m.filter fun c => c.1 < a || a + n ≤ c.1

/-- The little-endian word at address `a`. -/
def memWord (m : Memory) (a : Nat) : Word := wordOf (memRead m a 4)

/-- The little-endian doubleword at address `a`. -/
def memDword (m : Memory) (a : Nat) : DWord := BitVec.ofNat 64 (ofBytes (memRead m a 8))

/-- The canonical form: addresses strictly rising, no byte 0 listed. -/
def memWf : Memory → Bool
  | [] => true
  | [(_, b)] => b != 0
  | (k, b) :: (k', b') :: r => b != 0 && decide (k < k') && memWf ((k', b') :: r)

/-! ### CRC-32C (R32) -/

/-- One bit step of the reflected CRC-32C with polynomial 0x1EDC6F41. -/
def crcBit (c : Word) : Word := if c.getLsbD 0 then (c >>> 1) ^^^ 0x82F63B78 else c >>> 1

/-- The CRC register after byte `b`. -/
def crcByte (c : Word) (b : Byte) : Word :=
  crcBit (crcBit (crcBit (crcBit (crcBit (crcBit (crcBit (crcBit (c ^^^ b.setWidth 32))))))))

/-- CRC-32C of a byte string (R32). -/
def crc32c (bs : List Byte) : Word := ~~~(bs.foldl crcByte 0xFFFFFFFF)

/-- Strictly rising numbers. -/
def rising : List Nat → Bool
  | [] => true
  | [_] => true
  | a :: b :: r => decide (a < b) && rising (b :: r)

end Sys2Proof.Machine
end

