-- ==== Sys2Proof/Machine/Float.lean ====
section
/-! DEFINITION. IEEE 754 arithmetic on exact dyadic numbers: binary32 for the engines (R79), binary64 for the loop
array (Ch. 5). A result is a bit pattern and the flags NX, UF, OF, DZ, NV as bits 0 to 4. -/
namespace Sys2Proof.Machine

/-- A binary format: fraction bits and exponent bits. -/
structure Fmt where
  frac : Nat
  ebits : Nat
  deriving DecidableEq, Repr

/-- The formats in use. -/
def b32 : Fmt := ⟨23, 8⟩
def b64 : Fmt := ⟨52, 11⟩

/-- A decoded operand: a NaN (signalling or not), an infinity, or (-1)^neg * m * 2^e. -/
inductive FVal where
  | nan (signalling : Bool)
  | inf (neg : Bool)
  | fin (neg : Bool) (m : Nat) (e : Int)
  deriving DecidableEq, Repr

/-- Rounding settings: mode of `RND`, flush to zero. -/
structure FMode where
  rnd : BitVec 2
  ftz : Bool
  deriving DecidableEq, Repr

/-- Flag masks of Table 3.2. -/
def fNX : BitVec 5 := 1
def fUF : BitVec 5 := 2
def fOF : BitVec 5 := 4
def fDZ : BitVec 5 := 8
def fNV : BitVec 5 := 16

/-- The exponent bias. -/
def Fmt.bias (f : Fmt) : Nat := 2 ^ (f.ebits - 1) - 1
/-- The largest biased exponent. -/
def Fmt.emax (f : Fmt) : Nat := 2 ^ f.ebits - 1
/-- The sign bit of a pattern. -/
def Fmt.signBit (f : Fmt) (neg : Bool) : Nat := if neg then 2 ^ (f.frac + f.ebits) else 0
/-- The pattern of an infinity. -/
def Fmt.inf (f : Fmt) (neg : Bool) : Nat := f.signBit neg + f.emax * 2 ^ f.frac
/-- The NaN every NaN result is: 0x7FC0_0000 in binary32 (R79). -/
def Fmt.qnan (f : Fmt) : Nat := f.emax * 2 ^ f.frac + 2 ^ (f.frac - 1)
/-- The exponent of the unit of the subnormals. -/
def Fmt.qmin (f : Fmt) : Int := 1 - (f.bias : Int) - f.frac

/-- Is the pattern negative? -/
def Fmt.neg (f : Fmt) (x : Nat) : Bool := x.testBit (f.frac + f.ebits)

/-- The operand a pattern stands for; with `ftz` a subnormal is a zero of its sign (R79). -/
def Fmt.decode (f : Fmt) (ftz : Bool) (x : Nat) : FVal :=
  let s := f.neg x
  let e := x / 2 ^ f.frac % 2 ^ f.ebits
  let m := x % 2 ^ f.frac
  if e = f.emax then
    if m = 0 then .inf s else .nan (!m.testBit (f.frac - 1))
  else if e = 0 then .fin s (if ftz then 0 else m) f.qmin
  else .fin s (m + 2 ^ f.frac) (f.qmin + (e - 1 : Nat))

/-- Does the magnitude grow by one unit when `r` of 2^k (and `sticky` more) is cut off an `n`? -/
def roundUp (rnd : BitVec 2) (neg : Bool) (n r k : Nat) (sticky : Bool) : Bool :=
  let inexact := r != 0 || sticky
  match rnd.toNat with
  | 0 => (k != 0) && ((2 * r > 2 ^ k) || (2 * r == 2 ^ k && (sticky || n % 2 == 1)))
  | 1 => false
  | 2 => inexact && !neg
  | _ => inexact && neg

/-- `m` (and `sticky` more) times 2^e cut to the unit 2^q: the rounded multiple and whether it is inexact. -/
def roundTo (rnd : BitVec 2) (neg : Bool) (m : Nat) (e : Int) (sticky : Bool) (q : Int) : Nat × Bool :=
  if q ≤ e then
    let n := m * 2 ^ (e - q).toNat
    ((if roundUp rnd neg n 0 0 sticky then n + 1 else n), sticky)
  else
    let k := (q - e).toNat
    let n := m / 2 ^ k
    let r := m % 2 ^ k
    ((if roundUp rnd neg n r k sticky then n + 1 else n), r != 0 || sticky)

/-- The largest finite magnitude or infinity an overflow delivers. -/
def Fmt.overflow (f : Fmt) (rnd : BitVec 2) (neg : Bool) : Nat :=
  let toInf := match rnd.toNat with
    | 0 => true
    | 1 => false
    | 2 => !neg
    | _ => neg
  if toInf then f.inf neg else f.inf neg - 1

/-- The rounded pattern of (-1)^neg * m * 2^e (and a little more when `sticky`) with its flags: tininess after rounding
as if the exponent were unbounded, and R79's rule for `ftz`. -/
def Fmt.encode (f : Fmt) (md : FMode) (neg : Bool) (m : Nat) (e : Int) (sticky : Bool) : Nat × BitVec 5 :=
  if m = 0 then (f.signBit neg, 0) else
  let top : Int := (m.log2 : Int) + e
  let qn := top - f.frac
  let unb := roundTo md.rnd neg m e sticky qn
  let tiny := if unb.1 = 2 ^ (f.frac + 1) then qn + 1 < f.qmin else qn < f.qmin
  if tiny && md.ftz then (f.signBit neg, fUF ||| fNX) else
  let q := if qn < f.qmin then f.qmin else qn
  let r := roundTo md.rnd neg m e sticky q
  let body := if r.1 < 2 ^ f.frac then r.1 else r.1 - 2 ^ f.frac + ((q - f.qmin).toNat + 1) * 2 ^ f.frac
  if f.emax * 2 ^ f.frac ≤ body then (f.overflow md.rnd neg, fOF ||| fNX)
  else (f.signBit neg + body, (if r.2 then fNX else 0) ||| (if tiny && r.2 then fUF else 0))

/-- Is the operand a signalling NaN? -/
def FVal.isS : FVal → Bool
  | .nan s => s
  | _ => false

/-- Is the operand a NaN? -/
def FVal.isNan : FVal → Bool
  | .nan _ => true
  | _ => false

/-- Is the operand a zero? -/
def FVal.isZero : FVal → Bool
  | .fin _ m _ => m == 0
  | _ => false

/-- Is the operand an infinity? -/
def FVal.isInf : FVal → Bool
  | .inf _ => true
  | _ => false

/-- The operand's sign; a NaN counts as positive. -/
def FVal.sgn : FVal → Bool
  | .nan _ => false
  | .inf s => s
  | .fin s _ _ => s

/-- The operand with its sign inverted. -/
def FVal.negate : FVal → FVal
  | .nan s => .nan s
  | .inf s => .inf (!s)
  | .fin s m e => .fin (!s) m e

/-- A signed mantissa. -/
def smant (neg : Bool) (m : Nat) : Int := if neg then -(m : Int) else m

/-- The exact sum of two finite operands, rounded once. -/
def Fmt.sum (f : Fmt) (md : FMode) (s1 : Bool) (m1 : Nat) (e1 : Int) (s2 : Bool) (m2 : Nat) (e2 : Int) : Nat × BitVec 5 :=
  let e := min e1 e2
  let v := smant s1 m1 * 2 ^ (e1 - e).toNat + smant s2 m2 * 2 ^ (e2 - e).toNat
  if v = 0 then
    (f.signBit (if s1 == s2 then s1 else md.rnd == 3), 0)
  else f.encode md (decide (v < 0)) v.natAbs e false

/-- a + b. -/
def Fmt.add (f : Fmt) (md : FMode) (x y : Nat) : Nat × BitVec 5 :=
  match f.decode md.ftz x, f.decode md.ftz y with
  | .nan s, b => (f.qnan, if s || b.isS then fNV else 0)
  | _, .nan s => (f.qnan, if s then fNV else 0)
  | .inf s, .inf t => if s == t then (f.inf s, 0) else (f.qnan, fNV)
  | .inf s, .fin _ _ _ => (f.inf s, 0)
  | .fin _ _ _, .inf s => (f.inf s, 0)
  | .fin s1 m1 e1, .fin s2 m2 e2 => f.sum md s1 m1 e1 s2 m2 e2

/-- The pattern with its sign inverted. -/
def Fmt.flip (f : Fmt) (x : Nat) : Nat := x ^^^ 2 ^ (f.frac + f.ebits)

/-- a - b. -/
def Fmt.sub (f : Fmt) (md : FMode) (x y : Nat) : Nat × BitVec 5 := f.add md x (f.flip y)

/-- a * b. -/
def Fmt.mul (f : Fmt) (md : FMode) (x y : Nat) : Nat × BitVec 5 :=
  match f.decode md.ftz x, f.decode md.ftz y with
  | .nan s, b => (f.qnan, if s || b.isS then fNV else 0)
  | _, .nan s => (f.qnan, if s then fNV else 0)
  | .inf s, b => if b.isZero then (f.qnan, fNV) else (f.inf (s != b.sgn), 0)
  | a, .inf t => if a.isZero then (f.qnan, fNV) else (f.inf (a.sgn != t), 0)
  | .fin s1 m1 e1, .fin s2 m2 e2 => f.encode md (s1 != s2) (m1 * m2) (e1 + e2) false

/-- c + a * b, rounded once; a zero times an infinity sets NV whatever the addend (R79). -/
def Fmt.fma (f : Fmt) (md : FMode) (c x y : Nat) : Nat × BitVec 5 :=
  let a := f.decode md.ftz x
  let b := f.decode md.ftz y
  let d := f.decode md.ftz c
  let zi := (a.isZero && b.isInf) || (a.isInf && b.isZero)
  let nv := if a.isS || b.isS || d.isS || zi then fNV else 0
  if a.isNan || b.isNan || d.isNan || zi then (f.qnan, nv) else
  let ps := a.sgn != b.sgn
  match a, b, d with
  | .fin _ m1 e1, .fin _ m2 e2, .fin s3 m3 e3 => f.sum md ps (m1 * m2) (e1 + e2) s3 m3 e3
  | .fin _ _ _, .fin _ _ _, d => (f.inf d.sgn, 0)
  | _, _, .inf s => if s == ps then (f.inf s, 0) else (f.qnan, fNV)
  | _, _, _ => (f.inf ps, 0)

/-- a / b. -/
def Fmt.div (f : Fmt) (md : FMode) (x y : Nat) : Nat × BitVec 5 :=
  match f.decode md.ftz x, f.decode md.ftz y with
  | .nan s, b => (f.qnan, if s || b.isS then fNV else 0)
  | _, .nan s => (f.qnan, if s then fNV else 0)
  | .inf _, .inf _ => (f.qnan, fNV)
  | .inf s, .fin t _ _ => (f.inf (s != t), 0)
  | .fin s _ _, .inf t => (f.signBit (s != t), 0)
  | .fin s1 m1 e1, .fin s2 m2 e2 =>
    if m2 = 0 then (if m1 = 0 then (f.qnan, fNV) else (f.inf (s1 != s2), fDZ))
    else
      let k := f.frac + 4 + m2.log2
      f.encode md (s1 != s2) (m1 * 2 ^ k / m2) (e1 - e2 - k) (m1 * 2 ^ k % m2 != 0)

/-- The integer square root, bit by bit from bit `k`. -/
def isqrtFrom : Nat → Nat → Nat → Nat
  | 0, _, r => r
  | k + 1, n, r => if (r + 2 ^ k) * (r + 2 ^ k) ≤ n then isqrtFrom k n (r + 2 ^ k) else isqrtFrom k n r

/-- The integer square root. -/
def isqrt (n : Nat) : Nat := isqrtFrom (n.log2 / 2 + 1) n 0

/-- The square root. -/
def Fmt.sqrt (f : Fmt) (md : FMode) (x : Nat) : Nat × BitVec 5 :=
  match f.decode md.ftz x with
  | .nan s => (f.qnan, if s then fNV else 0)
  | .inf s => if s then (f.qnan, fNV) else (f.inf false, 0)
  | .fin s m e =>
    if m = 0 then (f.signBit s, 0)
    else if s then (f.qnan, fNV)
    else
      let m' := if e % 2 = 0 then m else 2 * m
      let e' := if e % 2 = 0 then e else e - 1
      let n := m' * 2 ^ (2 * (f.frac + 4))
      let r := isqrt n
      f.encode md false r (e' / 2 - (f.frac + 4)) (r * r != n)

/-- Is `a` below `b`? Neither is a NaN. A minus zero equals a plus zero. -/
def FVal.lt : FVal → FVal → Bool
  | .nan _, _ => false
  | _, .nan _ => false
  | .inf s, .inf t => s && !t
  | .inf s, .fin _ _ _ => s
  | .fin _ _ _, .inf t => !t
  | .fin s1 m1 e1, .fin s2 m2 e2 =>
    let e := min e1 e2
    smant s1 m1 * 2 ^ (e1 - e).toNat < smant s2 m2 * 2 ^ (e2 - e).toNat

/-- The operand's pattern after the treatment of subnormals under `ftz` (R79). -/
def Fmt.taken (f : Fmt) (ftz : Bool) (x : Nat) : Nat :=
  if ftz && (f.decode true x).isZero then f.signBit (f.neg x) else x

/-- minimumNumber, or maximumNumber when `max`; a minus zero is less than a plus zero (R79). -/
def Fmt.minmax (f : Fmt) (md : FMode) (max : Bool) (x y : Nat) : Nat × BitVec 5 :=
  let a := f.decode md.ftz x
  let b := f.decode md.ftz y
  let fl := if a.isS || b.isS then fNV else 0
  let xt := f.taken md.ftz x
  let yt := f.taken md.ftz y
  if a.isNan && b.isNan then (f.qnan, fl)
  else if a.isNan then (yt, fl)
  else if b.isNan then (xt, fl)
  else
    let less := a.lt b || (a.isZero && b.isZero && a.sgn && !b.sgn)
    (if less != max then xt else yt, fl)

/-- Equality, quiet: only a signalling NaN sets NV (IEEE 754 compareQuietEqual; DEDUCED, log entry 98). -/
def Fmt.eq (f : Fmt) (md : FMode) (x y : Nat) : Bool × BitVec 5 :=
  let a := f.decode md.ftz x
  let b := f.decode md.ftz y
  if a.isNan || b.isNan then (false, if a.isS || b.isS then fNV else 0)
  else (!a.lt b && !b.lt a, 0)

/-- Less than, or less than or equal, signalling: any NaN sets NV (DEDUCED, log entry 98). -/
def Fmt.cmp (f : Fmt) (md : FMode) (orEq : Bool) (x y : Nat) : Bool × BitVec 5 :=
  let a := f.decode md.ftz x
  let b := f.decode md.ftz y
  if a.isNan || b.isNan then (false, fNV)
  else (a.lt b || (orEq && !b.lt a), 0)

/-- The value rounded to an integer by `rnd`, and whether it is inexact. -/
def roundInt (rnd : BitVec 2) (neg : Bool) (m : Nat) (e : Int) : Int × Bool :=
  let r := roundTo rnd neg m e false 0
  (smant neg r.1, r.2)

/-- FTOI: saturating; a NaN gives 0; both set NV (R79). -/
def Fmt.toInt (f : Fmt) (md : FMode) (x : Nat) : Word × BitVec 5 :=
  match f.decode md.ftz x with
  | .nan _ => (0, fNV)
  | .inf s => (if s then 0x80000000 else 0x7FFFFFFF, fNV)
  | .fin s m e =>
    if (m != 0) && decide (40 < (m.log2 : Int) + e) then (if s then 0x80000000 else 0x7FFFFFFF, fNV) else
    let r := roundInt md.rnd s m e
    if r.1 < -2147483648 then (0x80000000, fNV)
    else if 2147483647 < r.1 then (0x7FFFFFFF, fNV)
    else (BitVec.ofInt 32 r.1, if r.2 then fNX else 0)

/-- An integer converted by `rnd`. -/
def Fmt.ofInt (f : Fmt) (md : FMode) (v : Int) : Nat × BitVec 5 :=
  if v = 0 then (0, 0) else f.encode md (decide (v < 0)) v.natAbs 0 false

end Sys2Proof.Machine
end

