-- ==== Sys2Proof/Config.lean ====
section
/-! DEFINITION. What the spec leaves open: free values (log entry 7 names the counter they are applied to) and the functions
of blocks whose inside the spec does not give. None has a body. -/
namespace Sys2Proof.Machine

/-- A value the spec leaves open: the `k`-th one drawn, `n` bits wide. -/
opaque Config.freeValue (n : Nat) (k : Nat) : BitVec n

/-- The layout of an application image's bytes (log entry 5): none where they form no image. -/
opaque Config.parseApp (bytes : List Byte) : Option AppImage

/-- Do the check values of an application image's bytes match (R127)? -/
opaque Config.appCrcOk (bytes : List Byte) : Bool

/-- SHA-384 (R379). -/
opaque Config.sha384 (bytes : List Byte) : BitVec 384

/-- The verdict of ECDSA P-384 on a digest, under the public key whose hash the OTP holds, for a signature (R379). -/
opaque Config.ecdsaOk (keyHash : BitVec 384) (digest : BitVec 384) (sig : List Byte) : Bool

/-- The unwrapping of a CAK that a ticket carries, under the device identity key (R390): none where it fails. -/
opaque Config.unwrapCak (identity : BitVec 384) (wrapped : List Byte) : Option (BitVec 256)

/-- A CAK wrapped under the device storage key, as the secure store holds it (R390). -/
opaque Config.wrapCak (storage cak : BitVec 256) : List Byte

/-- The P-384 public key of a private scalar (R378). -/
opaque Config.publicKey (scalar : BitVec 384) : List Byte

/-- Where in supervisor SRAM the security firmware copies the supervisor firmware (R384; log entry 122). -/
opaque Config.firmwareBase : Nat

/-- Is a voltage that LINEAR16 does not hold exactly written rounded up (log entry 116)? -/
opaque Config.voutUp (mv : Nat) (mode : BitVec 8) : Bool

end Sys2Proof.Machine
end

