-- ==== Sys2Proof/Machine/PageMap.lean ====
section
/-! DEFINITION. Configurations, fabric links, pages and their places (Ch. 0, 1, 17). -/
namespace Sys2Proof.Machine

/-- Crest tiles of a configuration: C0 up to this number less one (R1). -/
def Part.crests : Part → Nat
  | .acr9608 => 6
  | .acr9606 => 4
  | .acr9604 => 2
  | .acr9602 => 1

/-- Does the configuration carry Foothill (R1)? -/
def Part.hasField : Part → Bool
  | .acr9602 => false
  | _ => true

/-- `CONFIG` of Table 2.4 and DIR_CONFIG. -/
def Part.code : Part → Byte
  | .acr9608 => 0x08
  | .acr9606 => 0x06
  | .acr9604 => 0x04
  | .acr9602 => 0x02

/-- Is tile index `t` present? 0 Saddle, 1 to 6 Crest, 7 Foothill (R417). -/
def Part.hasTile (p : Part) (t : Nat) : Bool :=
  t == 0 || (decide (1 ≤ t) && decide (t ≤ p.crests)) || (t == 7 && p.hasField)

/-- An end of a fabric link: tile index and fabric port. -/
structure LinkEnd where
  tile : Nat
  port : Nat
  deriving DecidableEq, Repr

/-- The fabric links of Table 1.3 and Table 1.4 (R14), in order: end A, end B. -/
def Part.links : Part → List (LinkEnd × LinkEnd)
  | .acr9608 =>
    [(⟨1, 0⟩, ⟨2, 1⟩), (⟨2, 0⟩, ⟨3, 1⟩), (⟨3, 0⟩, ⟨4, 1⟩), (⟨4, 0⟩, ⟨5, 1⟩), (⟨5, 0⟩, ⟨6, 1⟩), (⟨6, 0⟩, ⟨1, 1⟩),
     (⟨1, 2⟩, ⟨4, 2⟩), (⟨2, 2⟩, ⟨5, 2⟩),
     (⟨0, 0⟩, ⟨1, 3⟩), (⟨0, 1⟩, ⟨2, 3⟩), (⟨0, 2⟩, ⟨3, 3⟩), (⟨0, 3⟩, ⟨4, 3⟩), (⟨0, 4⟩, ⟨5, 3⟩), (⟨0, 5⟩, ⟨6, 3⟩),
     (⟨0, 6⟩, ⟨3, 2⟩), (⟨0, 7⟩, ⟨6, 2⟩)]
  | .acr9606 =>
    [(⟨1, 0⟩, ⟨2, 1⟩), (⟨2, 0⟩, ⟨3, 1⟩), (⟨3, 0⟩, ⟨4, 1⟩), (⟨4, 0⟩, ⟨1, 1⟩),
     (⟨0, 0⟩, ⟨1, 3⟩), (⟨0, 1⟩, ⟨2, 3⟩), (⟨0, 2⟩, ⟨3, 3⟩), (⟨0, 3⟩, ⟨4, 3⟩),
     (⟨0, 4⟩, ⟨1, 2⟩), (⟨0, 5⟩, ⟨2, 2⟩), (⟨0, 6⟩, ⟨3, 2⟩), (⟨0, 7⟩, ⟨4, 2⟩)]
  | .acr9604 =>
    [(⟨1, 0⟩, ⟨2, 1⟩), (⟨1, 1⟩, ⟨2, 0⟩), (⟨0, 0⟩, ⟨1, 3⟩), (⟨0, 1⟩, ⟨2, 3⟩), (⟨0, 4⟩, ⟨1, 2⟩), (⟨0, 5⟩, ⟨2, 2⟩)]
  | .acr9602 => [(⟨0, 0⟩, ⟨1, 0⟩), (⟨0, 1⟩, ⟨1, 1⟩), (⟨0, 2⟩, ⟨1, 2⟩), (⟨0, 3⟩, ⟨1, 3⟩)]

/-- The number of the field link as a link (R44, R46); its Saddle end is port 8 of the hub (R431). -/
def fieldLink : Nat := 16

/-- The two ends of link `l`, the field link included where the configuration has it. -/
def Part.linkEnds (p : Part) (l : Nat) : Option (LinkEnd × LinkEnd) :=
  if l = fieldLink then (if p.hasField then some (⟨0, 8⟩, ⟨7, 0⟩) else none) else p.links[l]?

/-- Where a flit leaving tile `t` on port `q` arrives: the link, whether it runs from end B to end A, and the tile. -/
def Part.hop (p : Part) (t q : Nat) : Option (Nat × Bool × Nat) :=
  let ls := p.links.zipIdx.map (fun x => (x.2, x.1)) ++
    (if p.hasField then [(fieldLink, ((⟨0, 8⟩ : LinkEnd), (⟨7, 0⟩ : LinkEnd)))] else [])
  match ls.find? (fun x => x.2.1 == ⟨t, q⟩ || x.2.2 == ⟨t, q⟩) with
  | some (i, a, b) => if a == ⟨t, q⟩ then some (i, false, b.tile) else some (i, true, a.tile)
  | none => none

/-- SW_USED of a tile: the ports that belong to a link of the configuration (R14, R431). -/
def Part.usedPorts (p : Part) (t : Nat) : BitVec 9 := bitsOf 9 fun q => (p.hop t q).isSome

/-! ### Pages -/

/-- The tile index of a page (R418); 0 for pages of the secure window. -/
def pgTile : Page → Nat
  | .engine c | .loopArray c | .switch c => c.val + 1
  | .field | .panel => 7
  | _ => 0

/-- The block type of a page (Table 17.2). -/
def pgType : Page → BitVec 16
  | .directory | .secDirectory => 0x0001
  | .interrupt => 0x0011
  | .mailbox | .secMailbox => 0x0012
  | .supervisor => 0x0013
  | .hostLink => 0x0014
  | .security => 0x0015
  | .power => 0x0016
  | .schedule => 0x0021
  | .runControl => 0x0022
  | .trio => 0x0023
  | .safety => 0x0024
  | .timebase => 0x0025
  | .port _ => 0x0026
  | .can _ => 0x0027
  | .uart _ => 0x0028
  | .recorder => 0x0029
  | .historian => 0x002A
  | .update => 0x002B
  | .hub | .switch _ => 0x0030
  | .engine _ => 0x0031
  | .loopArray _ => 0x0032
  | .field => 0x0041
  | .panel => 0x0042

/-- The instance number of a page. -/
def pgInst : Page → Nat
  | .port i => i.val
  | .can i => i.val
  | .uart i => i.val
  | .secDirectory | .secMailbox => 1
  | _ => 0

/-- BLK_ID of a page (R421). -/
def blkId (pg : Page) : Word := fld (pgType pg) 16 ||| num (pgTile pg) 8 ||| num (pgInst pg) 0

/-- Is the page one of the secure window (R419)? -/
def pgSecure : Page → Bool
  | .secDirectory | .security | .secMailbox => true
  | _ => false

/-- The place of a page's header in `State.hdrs`. -/
def pgIdx : Page → Fin 72
  | .directory => 0
  | .interrupt => 1
  | .mailbox => 2
  | .supervisor => 3
  | .hostLink => 4
  | .power => 5
  | .hub => 6
  | .schedule => 7
  | .runControl => 8
  | .trio => 9
  | .safety => 10
  | .timebase => 11
  | .recorder => 12
  | .historian => 13
  | .update => 14
  | .port i => ⟨15 + i.val, by omega⟩
  | .can i => ⟨25 + i.val, by omega⟩
  | .uart i => ⟨41 + i.val, by omega⟩
  | .engine c => ⟨49 + c.val, by omega⟩
  | .loopArray c => ⟨55 + c.val, by omega⟩
  | .switch c => ⟨61 + c.val, by omega⟩
  | .field => 67
  | .panel => 68
  | .secDirectory => 69
  | .security => 70
  | .secMailbox => 71

/-- The interrupt source of a page, Table 17.7; 0 for none. -/
def pgSource : Page → Nat
  | .supervisor => 1
  | .hostLink => 2
  | .security => 3
  | .power => 4
  | .schedule => 5
  | .runControl => 6
  | .trio => 7
  | .safety => 8
  | .timebase => 9
  | .recorder => 10
  | .historian => 11
  | .update => 12
  | .hub => 13
  | .mailbox => 14
  | .secMailbox => 15
  | .port i => 16 + i.val
  | .can i => 32 + i.val
  | .uart i => 48 + i.val
  | .engine c => 256 + 32 * c.val
  | .loopArray c => 257 + 32 * c.val
  | .switch c => 258 + 32 * c.val
  | .field => 448
  | .panel => 449
  | .directory | .interrupt | .secDirectory => 0

/-- The offset of a page in the control space or the secure window (R418, R419). -/
def pgOffset : Page → Nat
  | .directory => 0x0
  | .interrupt => 0x1000
  | .mailbox => 0x2000
  | .supervisor => 0x3000
  | .hostLink => 0x4000
  | .power => 0x5000
  | .hub => 0x6000
  | .schedule => 0x10000
  | .runControl => 0x11000
  | .trio => 0x12000
  | .safety => 0x13000
  | .timebase => 0x14000
  | .recorder => 0x15000
  | .historian => 0x16000
  | .update => 0x17000
  | .port i => 0x20000 + 0x1000 * i.val
  | .can i => 0x30000 + 0x1000 * i.val
  | .uart i => 0x40000 + 0x1000 * i.val
  | .engine c => 0x1000000 * (c.val + 1)
  | .loopArray c => 0x1000000 * (c.val + 1) + 0x1000
  | .switch c => 0x1000000 * (c.val + 1) + 0x2000
  | .field => 0x7000000
  | .panel => 0x7001000
  | .secDirectory => 0x0
  | .security => 0x1000
  | .secMailbox => 0x2000

/-- The pages of one Crest tile. -/
def crestPages (c : Fin 6) : List Page := [.engine c, .loopArray c, .switch c]

/-- Every page of the control space, in ascending offset (R418). -/
def controlPages : List Page :=
  [.directory, .interrupt, .mailbox, .supervisor, .hostLink, .power, .hub, .schedule, .runControl, .trio, .safety,
   .timebase, .recorder, .historian, .update] ++
  (List.finRange 10).map .port ++ (List.finRange 16).map .can ++ (List.finRange 8).map .uart ++
  (List.finRange 6).flatMap crestPages ++ [.field, .panel]

/-- The pages of the secure window (R419). -/
def securePages : List Page := [.secDirectory, .security, .secMailbox]

/-- Is the page's tile present in the configuration? -/
def pgPresent (p : Part) (pg : Page) : Bool := p.hasTile (pgTile pg)

/-- The pages a directory lists (R420). -/
def listedPages (p : Part) (sec : Bool) : List Page :=
  if sec then securePages else controlPages.filter (pgPresent p)

/-- The Crest tile of number `n`, if there is one. -/
def crest? (n : Nat) : Option (Fin 6) := if h : n < 6 then some ⟨n, h⟩ else none

/-- A Saddle page from its offset within the window, in units of 4 KiB. -/
def saddlePage (k : Nat) : Option Page :=
  if k < 7 then [Page.directory, .interrupt, .mailbox, .supervisor, .hostLink, .power, .hub][k]?
  else if 16 ≤ k && k < 24 then
    [Page.schedule, .runControl, .trio, .safety, .timebase, .recorder, .historian, .update][k - 16]?
  else if h : 32 ≤ k ∧ k < 42 then some (.port ⟨k - 32, by omega⟩)
  else if h : 48 ≤ k ∧ k < 64 then some (.can ⟨k - 48, by omega⟩)
  else if h : 64 ≤ k ∧ k < 72 then some (.uart ⟨k - 64, by omega⟩)
  else none

/-- Is it a pool address (R36)? -/
def isPool (a : Word) : Bool := !a.getLsbD 31

/-- The tile index an endpoint address names, and its offset there. -/
def epTile (a : Word) : Nat := (bits a 28 3).toNat
def epOff (a : Word) : Nat := (bits a 0 28).toNat

/-- The page an address of a window lies on, if any (R417 to R419). -/
def pageAt (win : Window) (addr : Nat) : Option Page :=
  match win with
  | .secure => securePages[addr / 0x1000]?
  | .sram | .outside => none
  | .control =>
    let t := addr / 0x1000000
    let k := addr % 0x1000000 / 0x1000
    if t = 0 then saddlePage k
    else if t = 7 then [Page.field, .panel][k]?
    else match crest? (t - 1) with
      | some c => (crestPages c)[k]?
      | none => none

/-- The Crest tile and trace-memory offset an address names (R154, R418), if any. -/
def traceAt (win : Window) (addr : Nat) : Option (Fin 6 × Nat) :=
  let off := addr % 0x1000000
  if win == .control && decide (0x400000 ≤ off) && decide (off < 0x440000) && decide (1 ≤ addr / 0x1000000) then
    (crest? (addr / 0x1000000 - 1)).map fun c => (c, off - 0x400000)
  else none

end Sys2Proof.Machine
end

