-- ==== Sys2Proof/Machine/Ops.lean ====
section
/-! DEFINITION. The named operations over the state that the commands share: page headers, counters, events, accesses,
the clocks, free values and the parts of the device. -/
namespace Sys2Proof.Machine

/-! ### Parts of the state -/

/-- Change Crest tile `c`. -/
def updCrest (c : Fin 6) (f : Crest → Crest) (s : State) : State := { s with crests := Vec.upd s.crests c f }

/-- Change an engine. -/
def updEngine (e : EngRef) (f : Engine → Engine) (s : State) : State :=
  updCrest e.crest (fun t => { t with engines := Vec.upd t.engines e.eng f }) s

/-- An engine. -/
def engineAt (s : State) (e : EngRef) : Engine := Vec.at (Vec.at s.crests e.crest).engines e.eng

/-- The Crest tiles of the configuration. -/
def presentCrests (s : State) : List (Fin 6) := (List.finRange 6).filter fun c => decide (c.val < s.part.crests)

/-- Change the loop array of a tile. -/
def updLoop (c : Fin 6) (f : LoopArray → LoopArray) (s : State) : State := updCrest c (fun t => { t with loop := f t.loop }) s

/-- Change an Ethernet or trio port. -/
def updPort (p : Fin 10) (f : EthPort → EthPort) (s : State) : State := { s with ports := Vec.upd s.ports p f }

/-- Change a CAN controller. -/
def updCan (c : Fin 16) (f : Can → Can) (s : State) : State := { s with cans := Vec.upd s.cans c f }

/-- Change a UART. -/
def updUart (u : Fin 8) (f : Uart → Uart) (s : State) : State := { s with uarts := Vec.upd s.uarts u f }

/-- The port instance of a trio port (R307). -/
def trioPortIdx : TrioPort → Fin 10
  | .a => 8
  | .b => 9

/-- The port instance of an Ethernet port. -/
def ethPortIdx (p : Fin 8) : Fin 10 := ⟨p.val, by omega⟩

/-- The name of a member's state in a register field. -/
def roleNum : Role → Nat
  | .active => 0
  | .standby => 1
  | .listening => 2
  | .observer => 3

/-- RUN_STAT.STATE (Table 4.11). -/
def runNum : RunState → Nat
  | .starting => 0
  | .running => 1
  | .stopped => 2
  | .safeHold => 3
  | .observer => 4

/-! ### Free values (log entry 7) -/

/-- The next free value, and the state with the count advanced. -/
def drawFree (n : Nat) (s : State) : BitVec n × State := (Config.freeValue n s.free, { s with free := s.free + 1 })

/-- Put a frame or message on the record of what left the device. -/
def send (m : Sent) (s : State) : State := { s with out := s.out ++ [m] }

/-! ### The clocks -/

/-- The native timebase's present instant. -/
def nowInstant (s : State) : Instant := ⟨s.tb.sec, s.tb.ns⟩

/-- An instant as seconds * 10^9 + nanoseconds. -/
def instantNs (i : Instant) : Nat := i.sec.toNat * 1000000000 + i.ns.toNat

/-- The instant of a count of nanoseconds. -/
def instantOf (n : Nat) : Instant := ⟨BitVec.ofNat 48 (n / 1000000000), BitVec.ofNat 30 (n % 1000000000)⟩

/-- The native timebase as nanoseconds. -/
def nowNs (s : State) : Nat := instantNs (nowInstant s)

/-- Nanoseconds since the last reset that reached Saddle, by its ticks of 2 ns: what times an interval that a step does not touch (R266). -/
def localNs (s : State) : Nat := 2 * s.tb.tick

/-- The schedule clock in nanoseconds (R261). -/
def schedNow (s : State) : Nat := s.tb.schedNs.toNat

/-! ### Images in force -/

/-- The schedule image whose round length counts: the active one, or the one loaded for the first round. -/
def slotNsOf (im : SchedImage) : Nat := 1000 * 2 ^ im.slotCode.toNat

/-- The length of a round in nanoseconds. -/
def roundNsOf (im : SchedImage) : Nat := slotNsOf im * im.roundSlots.toNat

/-- Rounds of a major frame. -/
def frameRoundsOf (im : SchedImage) : Nat := 2 ^ im.maxRate.toNat

/-- The lead time of R58 at the active image's round length: two rounds and 10 ms, whichever is longer. -/
def leadNs (s : State) : Nat :=
  match s.sched.active with
  | some im => max (2 * roundNsOf im) 10000000
  | none => 10000000

/-- The length of a major frame in nanoseconds. -/
def frameNsOf (im : SchedImage) : Nat := roundNsOf im * frameRoundsOf im

/-- The schedule image that is armed for a frame before `f`. -/
def armedBefore (s : State) (f : DWord) : Option SchedImage :=
  if s.sched.bank == .armed && decide (s.sched.armedFrame < f) then s.sched.shadow else none

/-- The start of major frame `f` on the schedule clock, if it has one: none before the first round (R58). The frames after an armed swap
have the new image's length (log entry 86). -/
def frameStart (s : State) (f : DWord) : Option Int :=
  match s.sched.active with
  | some im =>
    if s.sched.running then
      some ((s.sched.frameNs : Int) + match armedBefore s f with
        | none => ((f.toNat : Int) - s.sched.frame.toNat) * frameNsOf im
        | some new => ((s.sched.armedFrame.toNat : Int) - s.sched.frame.toNat) * frameNsOf im +
            ((f.toNat : Int) - s.sched.armedFrame.toNat) * frameNsOf new)
    else none
  | none => none

/-- Does a request for major frame `f` break the lead-time rule of R58? -/
def frameLate (s : State) (f : DWord) : Bool :=
  match frameStart s f with
  | none => true
  | some t => decide (t < (schedNow s : Int) + leadNs s)

/-- Does the device stand in a trio (R156)? -/
def inTrio (s : State) : Bool := s.trio.member != 3

/-- Does this member vote: role ACTIVE or STANDBY (R158)? -/
def votes (s : State) : Bool := s.trio.role == .active || s.trio.role == .standby

/-- The other voting members of the adopted roster. -/
def votingPartners (s : State) : List (Fin 3) :=
  (List.finRange 3).filter fun m => s.trio.roster.voting.getLsbD m.val && decide (m.val ≠ s.trio.member.toNat)

/-! ### Page headers and counters -/

/-- The header of a page. -/
def hdrAt (s : State) (pg : Page) : PageHdr := Vec.at s.hdrs (pgIdx pg)

/-- Change the header of a page. -/
def updHdr (pg : Page) (f : PageHdr → PageHdr) (s : State) : State := { s with hdrs := Vec.upd s.hdrs (pgIdx pg) f }

/-- A 48-bit count with its sticky overflow in bit 48, raised by `n` (R350). -/
def cntAdd (c : BitVec 49) (n : Nat) : BitVec 49 :=
  let v := c.toNat % 2 ^ 48 + n
  BitVec.ofNat 49 (v % 2 ^ 48) ||| (if c.getLsbD 48 || decide (2 ^ 48 ≤ v) then (1 : BitVec 49) <<< 48 else 0)

/-- `n` events of select code `code` on page `pg`; those at the tick of a clear are not counted (R350, R429). -/
def bump (pg : Page) (code n : Nat) (s : State) : State :=
  if s.super.freeze then s else
  updHdr pg (fun h =>
    if h.freeze || h.clearTick == some s.tb.tick then h
    else { h with cnt := Vector.ofFn fun i : Fin 4 =>
            if (Vec.at h.sel i).toNat = code then cntAdd (Vec.at h.cnt i) n else Vec.at h.cnt i }) s

/-- The panel configuration; none leaves the port disabled (R253), and acr9602 has no panel port (R7). -/
def panelCfg (s : State) : Option PanelCfg := if s.part.hasField then s.run.active.bind fun a => a.ioMap.panel else none

/-- Is the panel below the minimum write temperature, or not yet 2 degrees above it after it has been (R252)? -/
def panelCold (s : State) : Bool :=
  (panelCfg s).elim false fun cfg =>
    !s.panel.ntcFault && (decide (s.panel.temp.toInt < 4 * cfg.minWrite.toInt) ||
      (s.panel.cold && decide (s.panel.temp.toInt < 4 * cfg.minWrite.toInt + 8)))

/-- Is VPNL at least V_R and `mv` more? -/
def vpnlOver (s : State) (vr : BitVec 9) (mv : Nat) : Bool := decide (100 * vr.toNat + mv ≤ s.panel.vpnl.toNat)

/-- Is VPNL too low for a write to start (R253)? -/
def vpnlLow (s : State) : Bool := (panelCfg s).elim false fun cfg => !vpnlOver s cfg.vr 1000

/-- The target row of common `c`, with the device segments 94 and 95 of common 7 (R249). -/
def panelTarget (s : State) (c : Fin 8) : BitVec 96 :=
  let r := Vec.at s.panel.target c
  if c = 7 then setBit (setBit r 95 s.forceInd) 94 s.panel.staleMark else r

/-- Is common `c` changed (R247)? A port that is disabled has no changed common. -/
def panelChanged (s : State) (c : Fin 8) : Bool :=
  (panelCfg s).isSome && (s.panel.invalid.getLsbD c.val || panelTarget s c != Vec.at s.panel.shadow c)

/-- Is any common changed? -/
def anyChanged (s : State) : Bool := (List.finRange 8).any (panelChanged s)

/-- The condition bits of BLK_IRQ_RAW of a page (R422), read live. -/
def condWord (s : State) (pg : Page) : Word :=
  match pg with
  | .port i => flag (if i = 8 then s.trio.upA else if i = 9 then s.trio.upB else (Vec.at s.ports i).up) 0
  | .can i => let c := Vec.at s.cans i; flag c.busoff 2 ||| flag c.passive 3
  | .uart i => let u := Vec.at s.uarts i; flag (decide (u.rxThr.toNat ≤ u.rx.length)) 0 ||| flag u.tx.isEmpty 1
  | .engine c => let t := Vec.at s.crests c; flag t.guard 1 ||| flag t.slow 2
  | .loopArray c => flag ((Vec.at s.crests c).loop.lastStep.any fun x => x.2) 3
  | .field => flag s.field.warn 1 ||| flag s.field.uvlo 2 ||| flag s.field.hot 6
  | .panel =>
    flag s.panel.crack 0 ||| flag (panelCold s && anyChanged s) 1 |||
      flag (vpnlLow s) 3 ||| flag s.panel.ntcFault 4
  | .timebase => flag (!s.tb.aligned && !(votingPartners s).isEmpty) 2
  | .recorder => flag ((List.finRange 9).any fun r =>
      decide (s.recorder.lag.toNat * 1024 < (Vec.at s.recorder.regions r).slots.countP fun x => !x.spilled)) 2
  | .hostLink => flag (s.host.link == .l0) 0
  | .power => flag s.pwr.hot 0 ||| flag s.pwr.coldHold 5
  | _ => 0

/-- The bits of BLK_IRQ_RAW that follow their conditions. -/
def condMask : Page → Word
  | .port _ => 0x1
  | .can _ => 0xC
  | .uart _ => 0x3
  | .engine _ => 0x6
  | .loopArray _ => 0x8
  | .field => 0x46
  | .panel => 0x1B
  | .timebase => 0x4
  | .recorder => 0x4
  | .hostLink => 0x1
  | .power => 0x21
  | _ => 0

/-- The bits of BLK_IRQ_RAW that are events, as each page's chapter lists them. -/
def eventMask : Page → Word
  | .schedule => 0x7
  | .runControl => 0x7F
  | .trio => 0x3FF
  | .safety => 0x3F
  | .timebase => 0x7B
  | .recorder => 0x3
  | .historian => 0xF
  | .update => 0xF
  | .hub | .switch _ => 0x3
  | .port _ => 0xE
  | .can _ => 0x73
  | .uart _ => 0xC
  | .engine _ => 0xF9
  | .loopArray _ => 0x17
  | .field => 0xB9
  | .panel => 0x24
  | .supervisor => 0x3
  | .mailbox | .secMailbox => 0xFFFF
  | .hostLink => 0x6
  | .security => 0x3
  | .power => 0x1E
  | .directory | .interrupt | .secDirectory => 0

/-- BLK_IRQ_RAW of a page (R422). -/
def rawWord (s : State) (pg : Page) : Word := (hdrAt s pg).raw ||| condWord s pg

/-- Is the page's interrupt source asserted (R333)? -/
def pgAsserted (s : State) (pg : Page) : Bool := rawWord s pg &&& (hdrAt s pg).en != 0

/-- Count a rising edge of the page's source between two states (select code 0x04). -/
def countEdge (pg : Page) (before after : State) : State :=
  if !pgAsserted before pg && pgAsserted after pg then bump pg 4 1 after else after

/-- The event bits that set at tick `t` (R422). -/
def PageHdr.freshAt (h : PageHdr) (t : Nat) : Word := if h.freshTick = t then h.fresh else 0

/-- Set an event bit of BLK_IRQ_RAW. -/
def setRaw (pg : Page) (bit : Nat) (s : State) : State :=
  countEdge pg s (updHdr pg (fun h => { h with
    raw := setBit h.raw bit true, fresh := setBit (h.freshAt s.tb.tick) bit true, freshTick := s.tb.tick }) s)

/-! ### Event records (Ch. 14) -/

/-- The severity of a device record by page and event number: the first row of Table 14.3 that matches. Urgent events and
two-leg lock-outs are given by their callers. -/
def severity (pg : Page) (n : Nat) : BitVec 3 :=
  match pg, n with
  | .safety, _ => 6
  | .trio, 1 => 5
  | .trio, 2 => 5
  | .trio, 3 => 5
  | .field, 4 => 5
  | .engine _, 3 => 5
  | .engine _, 0 => 5
  | .engine _, 7 => 5
  | .runControl, 2 => 4
  | .trio, 4 => 4
  | .trio, 9 => 4
  | .port _, 0 => 4
  | .hub, 0 => 4
  | .switch _, 0 => 4
  | .field, 3 => 4
  | .hostLink, 0 => 4
  | .historian, 2 => 4
  | .historian, 3 => 4
  | .runControl, 0 => 2
  | .runControl, 0x80 => 2
  | .trio, 0x80 => 2
  | .schedule, _ => 2
  | .runControl, 3 => 2
  | .runControl, 4 => 2
  | .runControl, 5 => 2
  | .update, 0 => 2
  | .update, 1 => 2
  | .timebase, 3 => 2
  | .timebase, 4 => 2
  | _, _ => 1

/-- The region that stores an event (R361): its tenant's where the layout in force has one, else region 8. -/
def eventRegion (s : State) (ev : EventIn) : Fin 9 :=
  match ev.tenant with
  | none => 8
  | some t =>
    let r : Fin 9 := ⟨t.toNat, by have := t.isLt; omega⟩
    if s.recorder.layoutOn && decide (0 < (Vec.at s.recorder.regions r).size) then r else 8

/-- Count a dropped record in its region (R363) and raise DROP, which writes no record (R359). -/
def dropEvent (r : Fin 9) (ev : EventIn) (s : State) : State :=
  let k : Fin 8 := ⟨ev.sev.toNat, ev.sev.isLt⟩
  setRaw .recorder 0 (bump .recorder 0x12 1
    { s with recorder := { s.recorder with
        regions := Vec.upd s.recorder.regions r fun g => { g with drops := Vec.upd g.drops k satInc } } })

/-- An entry of the recorder's input queue: an event, the instant and epoch of its detection, and the region it goes to. -/
abbrev QueueEntry := EventIn × Instant × BitVec 2 × Fin 9

/-- The input queue with an entry added: after the others, but among those of the same tick in ascending SOURCE (R360). -/
def queueEntry (e : QueueEntry) (q : List QueueEntry) : List QueueEntry :=
  let n := (q.reverse.takeWhile fun x => x.2.1 == e.2.1 && decide (e.1.source < x.1.source)).length
  q.take (q.length - n) ++ e :: q.drop (q.length - n)

/-- An event enters the 256-entry input queue with the instant of its detection and the region it belongs to as it arises (R361), or is dropped
(R357, R360). -/
def enqueueEvent (ev : EventIn) (s : State) : State :=
  if s.recorder.queue.length < 256 then
    { s with recorder := { s.recorder with
        queue := queueEntry (ev, nowInstant s, bits s.tb.epoch 0 2, eventRegion s ev) s.recorder.queue } }
  else dropEvent (eventRegion s ev) ev s

/-- Parameters of a record: given by the spec, or left open by it and drawn free. -/
inductive Params where
  | given (p0 p1 p2 : Word)
  | unstated
  deriving DecidableEq, Repr

/-- The device writes an event record: page `pg`, event number `n` (R359), tenant, severity and parameters. -/
def recordEvent (pg : Page) (n : Nat) (ten : Option (BitVec 3)) (sev : BitVec 3) (ps : Params) (s : State) : State :=
  let code : BitVec 16 := BitVec.ofNat 16 (((pgType pg).toNat % 128) * 256 + n)
  let src : BitVec 16 := (blkId pg).setWidth 16
  match ps with
  | .given a b c => enqueueEvent ⟨code, src, sev, ten, false, a, b, c⟩ s
  | .unstated =>
    let (w, s') := drawFree 96 s
    enqueueEvent ⟨code, src, sev, ten, false, bits w 0 32, bits w 32 32, bits w 64 32⟩ s'

/-- The tenant that owns an I/O group, a class and an instance of Table 2.15 (R361); none where the device does, or no entry names it. -/
def groupOwner (s : State) (cls inst : Nat) : Option (BitVec 3) :=
  (s.sched.active.bind fun im => im.ioGroups.find? fun g => g.cls.toNat == cls && g.inst.toNat == inst && !g.device).map fun g => g.owner

/-- An event of a page: its BLK_IRQ_RAW bit sets and a record is written. -/
def raise (pg : Page) (bit : Nat) (ten : Option (BitVec 3)) (ps : Params) (s : State) : State :=
  recordEvent pg bit ten (severity pg bit) ps (setRaw pg bit s)

/-- The same with a severity of its own. -/
def raiseSev (pg : Page) (bit : Nat) (ten : Option (BitVec 3)) (sev : BitVec 3) (ps : Params) (s : State) : State :=
  recordEvent pg bit ten sev ps (setRaw pg bit s)

/-- An event without an interrupt bit (R430). -/
def note (pg : Page) (n : Nat) (ten : Option (BitVec 3)) (p0 p1 : Word) (s : State) : State :=
  recordEvent pg n ten (severity pg n) (.given p0 p1 0) s

/-- Latch urgent source `n`, 496 to 511 (R336). -/
def urgent (n : Nat) (s : State) : State := { s with super := { s.super with urgent := setBit s.super.urgent (n - 496) true } }

/-- An event that asserts urgent source `n`: severity 7 (Table 14.3). -/
def raiseUrgent (pg : Page) (bit n : Nat) (ten : Option (BitVec 3)) (ps : Params) (s : State) : State :=
  raiseSev pg bit ten 7 ps (urgent n s)

/-- The page's source rises by its conditions alone: the rise that an event brings has been counted with the event (code 0x04). -/
def condEdge (pg : Page) (before after : State) : State :=
  if ((hdrAt after pg).raw ||| condWord before pg) &&& (hdrAt after pg).en = 0 && pgAsserted after pg then bump pg 4 1 after else after

/-- The records of the condition bits of a page that changed between two states (R359): PARAM0 [0] is the new level. The
recorder's own bits write none, and a tile's LOST that rises has the severity of its urgent source. -/
def noteConds (pgs : List Page) (before after : State) : State :=
  pgs.foldl (fun s pg =>
    let s := condEdge pg before s
    if pg == .recorder then s else
    (List.range 32).foldl (fun s i =>
      let was := (condWord before pg).getLsbD i
      let is := (condWord after pg).getLsbD i
      let sev := match pg with
        | .engine _ => if i == 2 && is then 7 else severity pg i
        | _ => severity pg i
      if was != is then recordEvent pg i none sev (.given (flag is 0) 0 0) s else s) s) after

/-! ### Accesses (R426) -/

/-- Is the domain of a Crest tile ON (R341)? -/
def crestOn (s : State) (c : Fin 6) : Bool := Vec.at s.super.pd ⟨c.val + 1, by omega⟩ == .on

/-- Is the field link up for accesses: PD_FIELD ON and the link up (R343, Table 17.6)? -/
def fieldReachable (s : State) : Bool := s.field.linkUp && Vec.at s.super.pd 7 == .on

/-- Is the requester secure (R328)? -/
def isSecure (q : Req) : Bool :=
  match q.who with
  | .security => true
  | .host => false
  | _ => q.machine

/-- Does a page answer this requester with an error response (Table 17.6)? In recovery the host reaches the directory and the update page alone
(R385). -/
def pgRefuses (q : Req) (pg : Page) (s : State) : Bool :=
  !pgPresent s.part pg ||
  (match pg with
   | .engine c | .loopArray c | .switch c => !crestOn s c
   | .field | .panel => !fieldReachable s
   | _ => false) ||
  (pgSecure pg && !isSecure q) || (s.upd.recovery && q.who == .host && pg != .directory && pg != .update)

/-- An error response, recorded on the page where it exists (R426). -/
def errorResponse (pg : Option Page) (s : State) : State :=
  let s := { s with resp := .error }
  match pg with
  | some pg =>
    if pgPresent s.part pg then bump pg 3 1 (updHdr pg (fun h => { h with errAccess := true }) s) else s
  | none => s

/-- The core a requester is, if it is one. -/
def coreOf : Requester → Option (Fin 4)
  | .s0 => some 0
  | .s1 => some 1
  | .s2 => some 2
  | .s3 => some 3
  | _ => none

/-- The answer to a requester whose access is refused: an error response, which on a supervisor core raises a RISC-V access fault (R327). -/
def refuse (w : Requester) (pg : Option Page) (s : State) : State :=
  match coreOf w with
  | some c => send (.accessFault c) (errorResponse pg s)
  | none => errorResponse pg s

/-- An access to a page: refused with an error response, or counted, answered and carried out by `f`. -/
def onPage (q : Req) (pg : Page) (f : State → State) (s : State) : State :=
  if pgRefuses q pg s then refuse q.who (some pg) s
  else f (bump pg 2 1 { s with resp := .done })

/-- A read's answer. -/
def answer (v : Word) (s : State) : State := { s with resp := .value (v.setWidth 64) }

/-- Does a write of a lockable field take effect? When the page is locked it is recorded instead (R10, R423). -/
def ifUnlocked (pg : Page) (f : State → State) (s : State) : State :=
  if (hdrAt s pg).lock then updHdr pg (fun h => { h with lockViol := true }) s else f s

/-! ### Latches of 64-bit registers (R425) -/

/-- The upper word a requester latched at a low-word read; 0 where it read none. -/
def latchGet (s : State) (w : Requester) (pg : Page) (off : Nat) : Word :=
  match s.latches.find? fun x => x.1 == (w, pg, off) with
  | some x => x.2
  | none => 0

/-- Latch the upper word for a requester. -/
def latchPut (w : Requester) (pg : Page) (off : Nat) (v : Word) (s : State) : State :=
  { s with latches := ((w, pg, off), v) :: s.latches.filter fun x => x.1 != (w, pg, off) }

/-- Hold a low word a requester wrote. -/
def holdLow (w : Requester) (pg : Page) (off : Nat) (v : Word) (s : State) : State :=
  { s with heldLow := ((w, pg, off), v) :: s.heldLow.filter fun x => x.1 != (w, pg, off) }

/-- The held low word of a requester, if it wrote one since its last commit. -/
def heldGet (s : State) (w : Requester) (pg : Page) (off : Nat) : Option Word :=
  (s.heldLow.find? fun x => x.1 == (w, pg, off)).map fun x => x.2

/-- The 64-bit value a high-word write commits: the held low word, or the current one where none is held. -/
def commit64 (w : Requester) (pg : Page) (off : Nat) (cur : DWord) (hi : Word) (s : State) : DWord × State :=
  (join hi ((heldGet s w pg off).getD (lo32 cur)), { s with heldLow := s.heldLow.filter fun x => x.1 != (w, pg, off) })

/-- Drop the latches and held words of pages a reset reaches. -/
def dropLatches (p : Page → Bool) (s : State) : State :=
  { s with latches := s.latches.filter fun x => !p x.1.2.1
           heldLow := s.heldLow.filter fun x => !p x.1.2.1 }

/-! ### Switches (R431) -/

/-- The switch page of a tile; Foothill has none. -/
def switchPage (t : Nat) : Option Page :=
  if t = 0 then some .hub else if t = 7 then none else (crest? (t - 1)).map .switch

/-- Change a tile's switch. -/
def updSwitch (t : Nat) (f : Switch → Switch) (s : State) : State :=
  if t = 0 then { s with hub := f s.hub }
  else match crest? (t - 1) with
    | some c => if t = 7 then s else updCrest c (fun x => { x with switch := f x.switch }) s
    | none => s

/-- Count events on a tile's switch page. -/
def bumpSwitch (t code n : Nat) (s : State) : State := (switchPage t).elim s fun pg => bump pg code n s

/-- Raise a bit of a tile's switch page with a severity. -/
def raiseSwitch (t bit : Nat) (sev : BitVec 3) (s : State) : State := (switchPage t).elim s fun pg => raiseSev pg bit none sev .unstated s

/-- One end of a link goes down: its port shows DOWN and LINK is raised. -/
def portDown (e : LinkEnd) (sev : BitVec 3) (s : State) : State :=
  raiseSwitch e.tile 0 sev (updSwitch e.tile (fun x => { x with up := setBit x.up e.port false, down := setBit x.down e.port true }) s)

end Sys2Proof.Machine
end

