-- ==== Sys2Proof/Machine/FieldDrive.lean ====
section
/-! DEFINITION. What Foothill drives (Ch. 8): configuration of its channels, the drive decision and its switches. -/
namespace Sys2Proof.Machine

/-- Change Foothill. -/
def updField (f : Field → Field) (s : State) : State := { s with field := f s.field }

/-- The I/O map in force (R243). -/
def ioMapOf (s : State) : Option IoMap := (s.run.active.map fun a => a.ioMap).orElse fun _ => s.field.heldMap

/-- Configuration of a DI channel. -/
def diCfg (s : State) (n : Fin 64) : Option DiCfg := (ioMapOf s).bind fun m => m.di.lookup n
/-- Configuration of a test-pulse supply. -/
def tpsCfg (s : State) (n : Fin 8) : Option TpsCfg := (ioMapOf s).bind fun m => m.tps.lookup n
/-- Configuration of a DO channel. -/
def doCfg (s : State) (n : Fin 24) : Option OutCfg := (ioMapOf s).bind fun m => m.dout.lookup n
/-- Configuration of a two-leg channel. -/
def tloCfg (s : State) (n : Fin 8) : Option OutCfg := (ioMapOf s).bind fun m => m.tlo.lookup n
/-- Configuration of an AI channel. -/
def aiCfg (s : State) (n : Fin 32) : Option AiCfg := (ioMapOf s).bind fun m => m.ai.lookup n
/-- Configuration of an AO channel. -/
def aoCfg (s : State) (n : Fin 16) : Option AoCfg := (ioMapOf s).bind fun m => m.ao.lookup n

/-- Is Foothill there, which acr9602 lacks (R7), and powered? -/
def fieldLive (s : State) : Bool := s.part.hasField && s.field.powered

/-- Are all outputs off whatever they are commanded: no supply, under-voltage lock-out or die shutdown (R218, R220, R404)? -/
def fieldDead (s : State) : Bool := !fieldLive s || s.field.uvlo || s.field.shutdown

/-- What a DO is ordered to, supply and waits apart: its active command under the drive enable, safe values, ALONE and the field fence
(R170, R219, R236). DESIGN CHOICE (log entry 115): the all-drive output of an OBSERVER, held off by Table 6.1 and at its safe value by R176,
takes the safe value once the member has given up and is off where the member is an OBSERVER from formation. -/
def doOrdered (s : State) (n : Fin 24) : Bool :=
  match doCfg s n with
  | none => false
  | some c =>
    if c.single then
      s.field.enSingle && !s.field.alone && !s.field.fenced &&
        (if s.field.doSafe.getLsbD n.val then c.safeOn else s.field.doCmd.getLsbD n.val)
    else if s.field.alone || s.field.fenced || s.field.doSafe.getLsbD n.val then c.safeOn
    else s.field.enAll && s.field.doCmd.getLsbD n.val

/-- The expected value of a DO: the drive decided before its own trip (R235). -/
def doDrive (s : State) (n : Fin 24) : Bool := !fieldDead s && !s.field.doWait.getLsbD n.val && doOrdered s n

/-- What a two-leg output is ordered to; its safe value is both legs off (Table 7.5). -/
def tloOrdered (s : State) (n : Fin 8) : Bool :=
  (tloCfg s n).isSome && s.field.enAll && !s.field.alone && !s.field.fenced && !s.field.tloSafe.getLsbD n.val &&
    s.field.tloCmd.getLsbD n.val

/-- The expected value of a two-leg output. -/
def tloDrive (s : State) (n : Fin 8) : Bool := !fieldDead s && !s.field.tloWait.getLsbD n.val && tloOrdered s n

/-- The AO command word that a safe value stands for (R239): its mode and its current in microampere. -/
def aoSafeWord (c : AoCfg) : Word := fld c.safeMode 16 ||| fld c.safeUa 0

/-- The current in microampere that an AO drives for a command word, unclamped when it is a safe value (Table 8.9). -/
def aoCurrent (w : Word) (safe : Bool) : Option Nat :=
  match (bits w 16 2).toNat with
  | 0 => some (if safe then (bits w 0 16).toNat else max 3800 (min 20500 (bits w 0 16).toNat))
  | 1 => some 3500
  | 2 => some 21800
  | _ => none

/-- What an AO is ordered to, supply and waits apart: none when it is commanded off or held off. -/
def aoOrdered (s : State) (n : Fin 16) : Option Nat :=
  match aoCfg s n with
  | none => none
  | some c =>
    if c.single then
      if s.field.enSingle && !s.field.alone && !s.field.fenced then
        (if s.field.aoSafe.getLsbD n.val then aoCurrent (aoSafeWord c) true else aoCurrent (Vec.at s.field.aoCmd n) false)
      else none
    else if s.field.alone || s.field.fenced || s.field.aoSafe.getLsbD n.val then aoCurrent (aoSafeWord c) true
    else if s.field.enAll then aoCurrent (Vec.at s.field.aoCmd n) false
    else none

/-- What an AO drives. -/
def aoDrive (s : State) (n : Fin 16) : Option Nat := if fieldDead s || s.field.aoWait.getLsbD n.val then none else aoOrdered s n

/-- Is a trim's DRIVE refused for a channel (R240): is it commanded on, and not held off as a single-drive output of a member that is not
active? A supply that is down holds no channel off in this sense. -/
def aoCommanded (s : State) (n : Fin 16) : Bool :=
  (aoCfg s n).elim false fun c => if c.single then (aoOrdered s n).isSome else
    (if s.field.alone || s.field.fenced || s.field.aoSafe.getLsbD n.val then aoCurrent (aoSafeWord c) true
     else aoCurrent (Vec.at s.field.aoCmd n) false).isSome

/-- Does an AO drive its trim current: is it in trim mode, and neither without supply nor in ALONE or fenced, when every output is off or at
its safe value (R218 to R220, R236, R404)? -/
def trimDrives (s : State) (n : Fin 16) : Bool :=
  s.field.trim.getLsbD n.val && !fieldDead s && !s.field.alone && !s.field.fenced

/-- The current in nA that an AO channel asks its output stage for, to the nA below (log entry 82): the uncorrected 4 or 20 mA in trim mode,
else 4 + (I − m4) × 16 / (m20 − m4) mA for the current I it drives, and 0 for a channel that is off (R240). -/
def aoAsked (s : State) (n : Fin 16) : Int :=
  if trimDrives s n then (if s.field.trim20.getLsbD n.val then 20000000 else 4000000)
  else match aoDrive s n with
    | none => 0
    | some ua =>
      let m4 : Int := (Vec.at s.field.m4 n).toNat
      let m20 : Int := (Vec.at s.field.m20 n).toNat
      4000000 + ((ua : Int) * 1000 - m4) * 16000000 / (m20 - m4)

/-- The mismatches of R235 that are still there: one ends when the readback is right again or the expected value changes. -/
def settleMis (s : State) : State :=
  let e := bitsOf 24 fun n => if h : n < 24 then doDrive s ⟨n, h⟩ else false
  let t := bitsOf 8 fun n => if h : n < 8 then tloDrive s ⟨n, h⟩ else false
  updField (fun f => { f with
    doMis := f.doMis &&& ~~~(e ^^^ f.doExp) &&& ((f.doSw ^^^ e) ||| (f.doTerm ^^^ e))
    tloMis := f.tloMis &&& ~~~(t ^^^ f.tloExp) &&& ((f.tloSw ^^^ t) ||| (f.tloHi ^^^ t) ||| (f.tloLo ^^^ t))
    doExp := e, tloExp := t }) s

/-- A channel in TRIM that becomes driven leaves trim mode with ABORTED (R240). -/
def settleTrims (s : State) : State :=
  let d := bitsOf 16 fun n => if h : n < 16 then (aoDrive s ⟨n, h⟩).isSome else false
  updField (fun f => { f with trim := f.trim &&& ~~~d, trimCode := if f.trim &&& d = 0 then f.trimCode else 0x72 }) s

/-- The currents asked of the AO output stages. -/
def settleAsk (s : State) : State := updField (fun f => { f with aoAsk := Vector.ofFn fun n : Fin 16 => aoAsked s n }) s

/-- Foothill's switches and output stages brought to the drive decision (R231, R240): a trimmed channel that is driven leaves trim mode, one that has tripped or is locked out stays off,
a channel that switches on starts its blanking, and terminals follow their switches (log entry 13). -/
def refreshField (s : State) : State :=
  let f := s.field
  let sw := bitsOf 24 fun n => if h : n < 24 then doDrive s ⟨n, h⟩ && !f.doTrip.getLsbD n else false
  let tsw := bitsOf 8 fun n => if h : n < 8 then tloDrive s ⟨n, h⟩ && !f.tloLock.getLsbD n else false
  let dOn := sw &&& ~~~f.doSw
  let tOn := tsw &&& ~~~f.tloSw
  let dChg := sw ^^^ f.doSw
  let tChg := tsw ^^^ f.tloSw
  let dbl := bitsOf 24 fun n => dOn.getLsbD n && (if h : n < 24 then ((doCfg s ⟨n, h⟩).elim false fun c => c.blanking != 0) else false)
  let tbl := bitsOf 8 fun n => tOn.getLsbD n && (if h : n < 8 then ((tloCfg s ⟨n, h⟩).elim false fun c => c.blanking != 0) else false)
  settleAsk (settleTrims (settleMis (updField (fun f => { f with
    doSw := sw, tloSw := tsw
    doTerm := (f.doTerm &&& ~~~dChg) ||| (sw &&& dChg)
    tloHi := (f.tloHi &&& ~~~tChg) ||| (tsw &&& tChg)
    tloLo := (f.tloLo &&& ~~~tChg) ||| (tsw &&& tChg)
    doBlank := (f.doBlank &&& sw) ||| dbl
    tloBlank := (f.tloBlank &&& tsw) ||| tbl
    tloShort := f.tloShort &&& ~~~tChg }) s)))

/-- Does a DI read broken at Foothill: a detected fault, an overloaded supply, the wait after a reset, or under-voltage
lock-out (R218, R225, R228, R229, R244)? -/
def diBroken (s : State) (n : Fin 64) : Bool :=
  s.field.uvlo || s.field.diWire.getLsbD n.val || s.field.diCross.getLsbD n.val || s.field.diStart.getLsbD n.val ||
  (match diCfg s n with
   | some c => c.testPulse && s.field.tpsOff.getLsbD c.tps.val
   | none => false)

/-- The tenants that own a DI channel, a high-side DO channel, the two-leg outputs and an AO channel (R361). -/
def diOwner (s : State) (n : Fin 64) : Option (BitVec 3) := groupOwner s 0 (n.val / 8)
@[inherit_doc diOwner] def doOwner (s : State) (n : Fin 24) : Option (BitVec 3) := groupOwner s 2 (n.val / 8)
@[inherit_doc diOwner] def tloOwner (s : State) : Option (BitVec 3) := groupOwner s 3 0
@[inherit_doc diOwner] def aoOwner (s : State) (n : Fin 16) : Option (BitVec 3) := groupOwner s 4 (n.val / 8)

/-- The common fault condition of R235, which FLD_STAT.FAULT shows. -/
def fieldFault (s : State) : Bool :=
  ((List.finRange 64).any fun n => diBroken s n) || s.field.tpsOff != 0 || s.field.doTrip != 0 || s.field.tloLock != 0 ||
  s.field.doMis != 0 || s.field.tloMis != 0

/-- A new condition of R235 appeared: FAULT is raised with its record, for the tenant whose channel it concerns. -/
def newFault (ten : Option (BitVec 3)) (s : State) : State := raise .field 0 ten .unstated (bump .field 0x11 1 s)

end Sys2Proof.Machine
end

