-- ==== Sys2Proof/Machine/Stop.lean ====
section
/-! DEFINITION. Abandoning a task, stopping the controller, giving up the role (R18, R62, R88, R118, R119, R171, R176). -/
namespace Sys2Proof.Machine

/-- The safety configuration in force. -/
def safetyCfg (s : State) : Option SafetyCfg := s.run.active.bind fun a => a.safety

/-- The safety functions in force. -/
def funcCfgs (s : State) : List FuncCfg := (safetyCfg s).elim [] fun c => c.functions

/-- The output points in force. -/
def outPoints (s : State) : List OutPoint := s.run.active.elim [] fun a => a.outPoints

/-! ### Tasks -/

/-- What the model keeps of a task; a task never met has nothing noted. -/
def taskRt (s : State) (ten : BitVec 3) (tsk : BitVec 8) : TaskRt :=
  match s.run.tasks.find? fun t => t.tenant == ten && t.task == tsk with
  | some t => t
  | none => { tenant := ten, task := tsk }

/-- Change what is kept of a task. -/
def updTask (ten : BitVec 3) (tsk : BitVec 8) (f : TaskRt → TaskRt) (s : State) : State :=
  { s with run := { s.run with
      tasks := f (taskRt s ten tsk) :: s.run.tasks.filter fun t => !(t.tenant == ten && t.task == tsk) } }

/-- A task is abandoned for the round (R88); `program` marks a program-kind exception (R90). -/
def abandonTask (ten : BitVec 3) (tsk : BitVec 8) (program : Bool) (s : State) : State :=
  if (taskRt s ten tsk).abandoned then
    updTask ten tsk (fun t => { t with program := t.program || program }) s
  else bump .runControl 0x11 1 (updTask ten tsk (fun t => { t with abandoned := true, program := program }) s)

/-! ### Safety functions -/

/-- A function state in a register. -/
def funcNum : FuncState → Nat
  | .normal => 0
  | .hold => 1
  | .safe => 2
  | .lockout => 3

/-- Change a function's run-time state. -/
def updFunc (i : Fin 256) (f : FuncRt → FuncRt) (s : State) : State :=
  { s with safety := { s.safety with funcs := Vec.upd s.safety.funcs i f } }

/-- A function changes its state (R202): the cause that left NORMAL is kept, REACTION is raised with a record of the function, the old and the
new state and the cause (log entry 80), and entering LOCKOUT raises LOCKOUT and urgent source 508. -/
def setFunc (c : FuncCfg) (new : FuncState) (cause : BitVec 4) (s : State) : State :=
  let old := (Vec.at s.safety.funcs c.number).state
  if old == new then s else
  let s := updFunc c.number (fun f => { f with
    state := new
    cause := if old == .normal then cause else f.cause
    reactions := if old == .normal then satInc f.reactions else f.reactions }) s
  let s := raise .safety 1 (some c.tenant) (.given (num c.number.val 0) (num (funcNum old) 0 ||| num (funcNum new) 8)
    ((Vec.at s.safety.funcs c.number).cause.setWidth 32)) (bump .safety 0x12 1 s)
  if new == .lockout then raiseUrgent .safety 2 508 (some c.tenant) .unstated s else s

/-- The next commit instant on the schedule clock. -/
def nextCommit (s : State) : Nat :=
  match s.sched.active with
  | some im => s.sched.roundNs + roundNsOf im
  | none => schedNow s

/-- What a controller stop does to a function (R119, R203): without partners a hold-class function holds first; trip-class
functions lock out in every case; `noHold` takes the safe value at once (R187). -/
def stopFunc (noHold : Bool) (s : State) (c : FuncCfg) : State :=
  let st := (Vec.at s.safety.funcs c.number).state
  if c.trip then (if st == .normal then setFunc c .lockout 7 s else s)
  else if inTrio s || noHold then
    (if st == .normal || st == .hold then setFunc c .safe 7 s else s)
  else if st == .normal then
    updFunc c.number (fun f => { f with clear := 0, holdEnd := nextCommit s + c.holdMs * 1000000 }) (setFunc c .hold 7 s)
  else s

/-- Does a function in HOLD keep this output at its last committed value? -/
def heldByFunc (s : State) (t : OutTarget) : Bool :=
  (funcCfgs s).any fun c =>
    (Vec.at s.safety.funcs c.number).state == .hold &&
    (outPoints s).any fun p => p.target == t && c.outputs.contains p.number

/-- Every local output takes its safe value, but for those a function holds and, with `keepSingle`, the single-drive ones that
R171 keeps. -/
def safeOutputs (keepSingle : Bool) (s : State) : State :=
  let dkeep (n : Fin 24) : Bool := heldByFunc s (.dout n) || (keepSingle && (doCfg s n).elim false fun c => c.single)
  let akeep (n : Fin 16) : Bool := heldByFunc s (.ao n) || (keepSingle && (aoCfg s n).elim false fun c => c.single)
  let d := bitsOf 24 fun n => if h : n < 24 then !dkeep ⟨n, h⟩ else false
  let t := bitsOf 8 fun n => if h : n < 8 then !heldByFunc s (.tlo ⟨n, h⟩) else false
  let a := bitsOf 16 fun n => if h : n < 16 then !akeep ⟨n, h⟩ else false
  refreshField (updField (fun f => { f with
    doSafe := d, tloSafe := t, aoSafe := a
    doWait := f.doWait &&& ~~~d, tloWait := f.tloWait &&& ~~~t, aoWait := f.aoWait &&& ~~~a }) s)

/-! ### Stopping -/

/-- An armed schedule swap is cancelled by the device (R62): VALID, `code` where one is given, REFUSED raised. -/
def cancelSched (code : Option Byte) (s : State) : State :=
  if s.sched.bank == .armed then
    raise .schedule 2 none .unstated
      { s with sched := { s.sched with bank := .valid, code := code.getD s.sched.code, armedApp := false, armedTrio := false } }
  else s

/-- An armed program exchange is cancelled by the device (Table 2.25, R451): VALID, APP_REFUSED raised. -/
def cancelApp (code : Option Byte) (s : State) : State :=
  if s.run.bank == .armed then
    raise .runControl 5 none .unstated
      { s with run := { s.run with
          bank := .valid, appCode := code.getD s.run.appCode, appErr := if code.isSome then 0 else s.run.appErr
          ownTarget := false, armedTrio := false } }
  else s

/-- The tenants that own a CAN controller and a UART (R317, R361). -/
def canOwner (s : State) (c : Fin 16) : Option (BitVec 3) := (s.run.active.bind fun a => a.cans.lookup c).bind fun g => g.owner
@[inherit_doc canOwner] def uartOwner (s : State) (u : Fin 8) : Option (BitVec 3) := s.run.active.bind fun a => a.uartOwners.lookup u

/-- Pending requests of scheduled CAN frames are cancelled, each counted as late (R319). -/
def cancelSlots (s : State) (c : Fin 16) : State :=
  let x := Vec.at s.cans c
  let m : BitVec 64 := bitsOf 64 fun b => if h : b < 64 then x.pend.getLsbD b && Vec.at x.kinds ⟨b, h⟩ == .txSched else false
  if m = 0 then s else
  raise (.can c) 6 (canOwner s c) .unstated (updCan c (fun x => { x with
    pend := x.pend &&& ~~~m, cancelled := x.cancelled ||| m, late := satAdd x.late (popcount m)
    line := x.line.bind fun l => if m.getLsbD l.1.val then none else some l }) s)

/-- The controller stops with `st` as RUN_STAT.STATE: the round's commit transfers are undone (R118 step 5, R120), armed swaps are
cancelled (R62) and the outputs act under R119 or, with `keepSingle`, R171. -/
def stopController (st : RunState) (keepSingle noHold : Bool) (s : State) : State :=
  let s := { s with
    pool := s.run.undo.foldl (fun m x => memWrite m x.1 x.2) s.pool
    run := { s.run with state := st, restart := none, ran := false, undo := [] } }
  let s := cancelApp none (cancelSched none s)
  let s := (funcCfgs s).foldl (stopFunc noHold) s
  let s := (List.finRange 16).foldl cancelSlots s
  safeOutputs keepSingle s

/-- RUN_STAT.STATE after a give-up cause (Table 6.8). -/
def giveUpState (cause : Nat) (ownDiagFailed : Bool) : RunState :=
  match cause with
  | 0x01 | 0x03 | 0x0A | 0x0C | 0x0D => .stopped
  | 0x06 => if ownDiagFailed then .stopped else .observer
  | _ => .observer

/-- Single-drive outputs keep their last value only where an active member gives up while another votes (R171). -/
def keepsSingle (s : State) : Bool := inTrio s && s.trio.role == .active && !(votingPartners s).isEmpty

/-- A rejoin under way ends with SELFTEST_FAIL when the member fails a self-test or gives up: the phases go on with no member that may
not vote, but R191 does not list the case (DESIGN CHOICE, log entry 77). -/
def dropRejoin (s : State) : State :=
  if s.trio.phase = 0 && !s.trio.rejoinTest then s
  else raise .trio 6 none .unstated { s with trio := { s.trio with
    code := 0x53, phase := 0, donor := 3, rejoinReq := false, rejoinTest := false, bulkDone := false, copiedBytes := 0 } }

/-- The member gives up (R176): it stops voting, GAVE_UP and the cause show, GAVE_UP is raised with urgent source 507. -/
def giveUpWith (cause : Nat) (ownDiagFailed : Bool) (s : State) : State :=
  if s.trio.gaveUp then s else
  let keep := keepsSingle s && cause != 0x0C
  let s := stopController (giveUpState cause ownDiagFailed) keep (cause == 0x0A) s
  let s := { s with trio := { s.trio with
    gaveUp := true, cause := BitVec.ofNat 8 cause, role := .observer, soloStart := none
    soleActive := s.trio.role == .active && (votingPartners s).isEmpty
    lastCommitHold := if keep then 2 else 0 } }
  raiseUrgent .trio 1 507 none .unstated (dropRejoin s)

/-- The member gives up for a cause whose state does not depend on its own diagnosis. -/
def giveUp (cause : Nat) (s : State) : State := giveUpWith cause false s

/-- The device is handled as a failed self-test (R18): it stops, sets its outputs safe and, in a trio, gives up with cause
SELF_TEST, an observer that has not given up as well. Before the first round the start fails instead (R415); a device already stopped
stays so. -/
def failSelfTest (s : State) : State :=
  match s.run.state with
  | .starting | .safeHold => s
  | .stopped => dropRejoin s
  | .running => if inTrio s then giveUp 0x01 s else stopController .stopped false false s
  | .observer => if inTrio s && !s.trio.gaveUp then giveUp 0x01 s else stopController .stopped false true (dropRejoin s)

/-- The overrun watchdog acts (R118, Table 4.4): RUN_OVR records the place and cause, OVERRUN and urgent source 509 are
raised, the controller stops and the role is given up, unless it has been before; the copy of a rejoin ends with its moves. A device already
stopped, whose slots move nothing, signals no overrun. -/
def overrun (crest : Nat) (logical : BitVec 4) (cause : BitVec 2) (s : State) : State :=
  if s.run.state == .stopped && s.trio.phase != 3 then s else
  let s := { s with run := { s.run with
    ovrSlot := s.sched.slot, ovrCrest := BitVec.ofNat 3 crest, ovrLogical := logical, ovrCause := cause
    ovrFrame := s.sched.frame } }
  let s := raiseUrgent .runControl 1 509 none .unstated s
  if inTrio s && !s.trio.gaveUp then giveUp 0x03 s else dropRejoin (stopController .stopped false false s)

/-- A start fails (R415): its code and tile, STAGE 15 and an event record; RUN_STAT.STATE is STARTING and the trio ports fall silent. -/
def startFails (code : Byte) (tile : BitVec 3) (s : State) : State :=
  note .power 0x82 none (fld code 0) (fld tile 0)
    { s with
      pwr := { s.pwr with stage := 15, startCode := code, startTile := tile }
      run := { s.run with state := .starting }
      trio := { s.trio with forming := false }
      safety := { s.safety with safeHold := false } }

/-- Is the device between the release of its reset and its first round, in a start that has not failed? A device that stopped for a restart is
not (R395). -/
def startingUp (s : State) : Bool := s.pwr.released && s.pwr.stage != 15 && !s.sched.running && s.run.state != .stopped

/-- A failure that is handled as a failed self-test: during start-up it fails the start with its code (R415), later it stops the
device (R18). -/
def failDevice (code : Byte) (tile : BitVec 3) (s : State) : State :=
  if startingUp s then startFails code tile s else failSelfTest s

end Sys2Proof.Machine
end

