-- ==== Sys2Proof/Machine/Operands.lean ====
section
/-! DEFINITION. The engine's encodings, registers, fetch and memory (R65 to R77). -/
namespace Sys2Proof.Machine

/-! ### Encodings (Table 3.5, Table 3.6) -/

/-- Format R. -/
def encR (op fn : Nat) (rd ra rb : Reg) : Word := num op 26 ||| fld rd 21 ||| fld ra 16 ||| fld rb 11 ||| num fn 0
/-- Format I. -/
def encI (op : Nat) (rd ra : Reg) (imm : BitVec 16) : Word := num op 26 ||| fld rd 21 ||| fld ra 16 ||| fld imm 0
/-- Format M. -/
def encM (op : Nat) (rt base : Reg) (size : BitVec 2) (post : Bool) (off : BitVec 13) : Word :=
  num op 26 ||| fld rt 21 ||| fld base 16 ||| fld size 14 ||| flag post 13 ||| fld off 0
/-- Format B. -/
def encB (op : Nat) (ra rb : Reg) (disp : BitVec 16) : Word := num op 26 ||| fld ra 21 ||| fld rb 16 ||| fld disp 0
/-- Format J. -/
def encJ (op : Nat) (disp : BitVec 26) : Word := num op 26 ||| fld disp 0
/-- Format L. -/
def encL (op : Nat) (rs : Reg) (endOff cnt : BitVec 10) : Word := num op 26 ||| fld rs 20 ||| fld endOff 10 ||| fld cnt 0

/-- The opcode of a word. -/
def opOf (w : Word) : Nat := (bits w 26 6).toNat
/-- The function code of a word of format R. -/
def fnOf (w : Word) : Nat := (bits w 0 11).toNat

/-- Is a word of format R legal: its function code is in Table 3.6 and its unused fields are 0 (R77)? -/
def legalR (op fn : Nat) (rd ra rb : BitVec 5) : Bool :=
  match op with
  | 0x00 => (decide (1 ≤ fn) && decide (fn ≤ 0x0C)) || (fn == 0x0D && rb == 0) || (decide (0x10 ≤ fn) && decide (fn ≤ 0x14))
  | 0x01 =>
    match fn with
    | 1 | 2 | 3 => rd == 0
    | 4 | 5 => ra == 0 && rb == 0
    | 6 => ra == 0
    | _ => false
  | 0x02 =>
    match fn with
    | 5 | 9 | 0xA | 0xE | 0xF => rb == 0
    | _ => decide (1 ≤ fn) && decide (fn ≤ 0xD)
  | 0x3F =>
    match fn with
    | 0 | 1 => rd == 0 && ra == 0 && rb == 0
    | 2 | 5 | 7 => rd == 0 && rb == 0
    | 3 | 4 => ra == 0 && rb == 0
    | 6 => ra == 0
    | 8 => rd == 0 && ra == 0
    | _ => false
  | _ => false

/-- Is a word an instruction of Table 3.6 with its unused fields 0 and a legal size (R77)? -/
def legalWord (w : Word) : Bool :=
  let op := opOf w
  match op with
  | 0x00 | 0x01 | 0x02 | 0x3F => legalR op (fnOf w) (bits w 21 5) (bits w 16 5) (bits w 11 5)
  | 0x08 | 0x09 | 0x0A | 0x0B | 0x0C => true
  | 0x0D => bits w 16 5 == 0
  | 0x0E | 0x0F | 0x10 => bits w 5 11 == 0
  | 0x18 | 0x19 | 0x1A => bits w 14 2 != 3
  | 0x20 | 0x21 | 0x22 | 0x23 | 0x24 | 0x25 | 0x28 | 0x29 => true
  | 0x30 => !w.getLsbD 25
  | 0x31 => bits w 20 6 == 0
  | _ => false

/-- Is a word a branch, a jump, LOOP, LOOPI, HALT or TRAP (R73, R75)? -/
def isControl (w : Word) : Bool :=
  match opOf w with
  | 0x20 | 0x21 | 0x22 | 0x23 | 0x24 | 0x25 | 0x28 | 0x29 | 0x30 | 0x31 => true
  | 0x3F => fnOf w == 1 || fnOf w == 7 || fnOf w == 8
  | _ => false

/-! ### Registers -/

/-- A general register; G0 reads 0 (Table 3.1). -/
def getReg (g : Engine) (r : Reg) : Word := if r = 0 then 0 else Vec.at g.regs ⟨r.toNat, r.isLt⟩

/-- A general register written; a write of G0 is discarded (Table 3.1). -/
def setReg (r : Reg) (v : Word) (g : Engine) : Engine :=
  if r = 0 then g else { g with regs := Vec.put g.regs ⟨r.toNat, r.isLt⟩ v }

/-! ### The context half (Table 3.4) -/

/-- The half the engine uses. -/
def curHalf (g : Engine) : Half := if g.half then g.half1 else g.half0

/-- Change the half the engine uses. -/
def updHalf (f : Half → Half) (g : Engine) : Engine :=
  if g.half then { g with half1 := f g.half1 } else { g with half0 := f g.half0 }

/-- The instruction word at a code address, if it lies in the code part and is aligned (R70). -/
def codeWord (g : Engine) (pc : Word) : Option Word :=
  if pc.toNat % 4 = 0 && decide (pc.toNat + 4 ≤ 64 * (curHalf g).codeLen.toNat) then
    some (memWord (curHalf g).mem pc.toNat)
  else none

/-- The bytes of an access size. -/
def sizeBytes (size : BitVec 2) : Nat := 2 ^ size.toNat

/-- May a load read these bytes (Table 3.4, alignment of R77)? -/
def loadOk (g : Engine) (a n : Nat) : Bool :=
  decide (a % n = 0) &&
  (decide (a + n ≤ 64 * (curHalf g).codeLen.toNat) ||
   (decide (0x4000 ≤ a) && decide (a + n ≤ 0x4000 + 64 * (curHalf g).stateLen.toNat)))

/-- May a store write these bytes? -/
def storeOk (g : Engine) (a n : Nat) : Bool :=
  decide (a % n = 0) && decide (0x4000 ≤ a) && decide (a + n ≤ 0x4000 + 64 * (curHalf g).stateLen.toNat)

/-- The effective address of format M (R77). -/
def effAddr (g : Engine) (base : Reg) (post : Bool) (off : BitVec 13) : Word :=
  if post then getReg g base else getReg g base + off.signExtend 32

/-- The base register after a post-increment access. -/
def postInc (base : Reg) (post : Bool) (off : BitVec 13) (old : Word) (g : Engine) : Engine :=
  if post then setReg base (old + off.signExtend 32) g else g

/-- The destination of format B: the branch's address + 4 * disp. -/
def destB (g : Engine) (disp : BitVec 16) : Word := g.pc + disp.signExtend 32 <<< 2

/-- The destination of format J. -/
def destJ (g : Engine) (disp : BitVec 26) : Word := g.pc + disp.signExtend 32 <<< 2

end Sys2Proof.Machine
end

