-- ==== Sys2Proof/Machine/Flags.lean ====
section
/-! DEFINITION. The engine's flags and how one instruction runs: fetch, the checks every instruction shares, exceptions, and what
follows an executed instruction: loop ends, delay slots and the mode shadow (R67, R70 to R76, R86 to R91, R96 to R99). -/
namespace Sys2Proof.Machine

/-! ### Flags and results (R66, R79) -/

/-- Set the flags of a binary32 operation. -/
def addFlags (f : BitVec 5) (g : Engine) : Engine := { g with flags := g.flags ||| f.setWidth 7 }

/-- Set ISAT when `b`. -/
def setISat (b : Bool) (g : Engine) : Engine := if b then { g with flags := g.flags ||| 0x20 } else g

/-- Set IDIV0 when `b`. -/
def setIDiv0 (b : Bool) (g : Engine) : Engine := if b then { g with flags := g.flags ||| 0x40 } else g

/-- ENG_MODE.SAT in effect. -/
def satOn (g : Engine) : Bool := g.mode.getLsbD 2

/-- ENG_MODE.ACCSAT in effect. -/
def accSatOn (g : Engine) : Bool := g.mode.getLsbD 4

/-- The binary32 settings in effect. -/
def fmodeOf (g : Engine) : FMode := ⟨bits g.mode 0 2, g.mode.getLsbD 3⟩

/-- An integer clamped to `n` bits, and whether it was outside. -/
def clampInt (n : Nat) (v : Int) : BitVec n × Bool :=
  if v < -(2 ^ (n - 1) : Nat) then (BitVec.ofInt n (-(2 ^ (n - 1) : Nat)), true)
  else if (2 ^ (n - 1) : Nat) ≤ v then (BitVec.ofInt n ((2 ^ (n - 1) : Nat) - 1), true)
  else (BitVec.ofInt n v, false)

/-- Write a result marked S: it saturates and sets ISAT under SAT, and wraps without a flag otherwise (R78). -/
def setSat (rd : Reg) (v : Int) (g : Engine) : Engine :=
  if satOn g then setISat (clampInt 32 v).2 (setReg rd (clampInt 32 v).1 g) else setReg rd (BitVec.ofInt 32 v) g

/-- Write ACC: it saturates and sets ISAT under ACCSAT, and wraps otherwise (R79). -/
def setAcc (v : Int) (g : Engine) : Engine :=
  if accSatOn g then setISat (clampInt 64 v).2 { g with acc := (clampInt 64 v).1 }
  else { g with acc := BitVec.ofInt 64 v }

/-- Write a binary32 result and its flags. -/
def setFloat (rd : Reg) (r : Nat × BitVec 5) (g : Engine) : Engine := addFlags r.2 (setReg rd (BitVec.ofNat 32 r.1) g)

/-- Write a comparison's result and its flags. -/
def setTest (rd : Reg) (r : Bool × BitVec 5) (g : Engine) : Engine := addFlags r.2 (setReg rd (if r.1 then 1 else 0) g)

/-! ### After an executed instruction -/

/-- What an instruction does. -/
inductive Eff where
  /-- It executed; control goes on. -/
  | next (g : Engine)
  /-- It executed and wrote ENG_MODE, which takes effect after the shadow. -/
  | mode (g : Engine) (m : BitVec 5)
  /-- A branch or jump: taken with its destination, or not taken. -/
  | jump (g : Engine) (dest : Option Word)
  /-- A loop instruction with a count of 0: control goes on at this address. -/
  | skip (g : Engine) (pc : Word)
  /-- HALT. -/
  | halt
  /-- It raised an exception: cause, address field and TRAP code of the record. -/
  | xcpt (cause : Nat) (addr : Word) (trap : BitVec 5)

/-- The loop whose end instruction stands at `p`, if one is active. -/
def loopAt (g : Engine) (p : Word) : Option LoopReg := g.loops.find? fun l => l.last == p

/-- The active loops after the end instruction at `p` ran: its count is decremented (R74). -/
def decLoops (p : Word) (ls : List LoopReg) : List LoopReg :=
  ls.map fun l => if l.last == p then { l with count := l.count - 1 } else l

/-- Is `d` inside a loop's body? -/
def inBody (l : LoopReg) (d : Word) : Bool := decide (l.start ≤ d) && decide (d ≤ l.last)

/-- The mode shadow passes (R67): the mode written before takes effect, and `m` waits for one more instruction. -/
def shiftMode (m : Option (BitVec 5)) (g : Engine) : Engine := { g with mode := g.modeNext.getD g.mode, modeNext := m }

/-- Control after an instruction that is no branch: a taken branch whose delay slot this was goes to its destination and ends
the loops it leaves (R72, R76); a loop end returns to its body start or ends the loop (R74); else the next address. -/
def advance (g : Engine) : Engine :=
  let p := g.pc
  match g.delay with
  | some (some d) =>
    { g with pc := d, delay := none, jumped := true, loops := (decLoops p g.loops).takeWhile fun l => inBody l d && l.count != 0 }
  | _ =>
    match loopAt g p with
    | some l =>
      if 1 < l.count.toNat then { g with pc := l.start, delay := none, jumped := false, loops := decLoops p g.loops }
      else { g with pc := p + 4, delay := none, jumped := false, loops := g.loops.takeWhile fun l => l.last != p }
    | none => { g with pc := p + 4, delay := none, jumped := false }

/-- The address that would have followed the instruction at the PC (R91). -/
def nextAddr (g : Engine) : Word :=
  match g.delay with
  | some (some d) => d
  | _ =>
    match loopAt g g.pc with
    | some l => if 1 < l.count.toNat then l.start else g.pc + 4
    | none => g.pc + 4

/-! ### Exceptions -/

/-- The exception causes of Table 3.9. -/
def xIllegal : Nat := 1
def xFetch : Nat := 2
def xAccess : Nat := 3
def xLoopNest : Nat := 4
def xLoopBound : Nat := 5
def xTrap : Nat := 6
def xDeadline : Nat := 7
def xCtxEcc : Nat := 8
def xPoison : Nat := 9
def xStall : Nat := 0xA
def xSelftest : Nat := 0xB

/-- Is the cause of the program kind (Table 3.9)? -/
def programKind (cause : Nat) : Bool := decide (1 ≤ cause) && decide (cause ≤ 6)

/-- Nanoseconds from the start of the running step to now, saturating at 65,535. -/
def elapsedNow (s : State) (g : Engine) : BitVec 16 :=
  match g.run with
  | some r => BitVec.ofNat 16 (min 65535 (schedNow s - r.startNs))
  | none => 0

/-- The exception record of R91 for the instruction at the PC; `d` is the abandoned step, absent outside a step. A branch destination that
cannot be fetched has no flag (R70). Outside a step MODE is what the engine holds and ELAPSED 0 (DESIGN CHOICE, log entry 100). -/
def mkRecord (s : State) (g : Engine) (cause : Nat) (addr : Word) (trap : BitVec 5) (d : Option StepDesc)
    (elapsed : BitVec 16) : XRecord :=
  let inStep := g.run.isSome
  let flags := inStep && !(cause == xFetch && g.jumped)
  { cause := BitVec.ofNat 4 cause
    ds := flags && g.delay.isSome
    sh := flags && g.modeNext.isSome
    le := flags && (loopAt g g.pc).isSome
    depth := BitVec.ofNat 2 g.loops.length
    trap := trap
    seen := satInc g.x.seen
    mode := g.mode
    pc := if inStep then g.pc.setWidth 14 else 0
    next := if inStep then (if flags then nextAddr g else g.pc + 4).setWidth 14 else 4
    addr := addr
    lc0 := (g.loops[0]?.elim (0 : Word) fun l => l.count).setWidth 16
    lc1 := (g.loops[1]?.elim (0 : Word) fun l => l.count).setWidth 16
    tenant := d.elim 0 fun d => d.tenant
    task := d.elim 0 fun d => d.task
    step := d.elim 0 fun d => d.step
    slot := s.sched.slot
    round := s.sched.round
    elapsed := elapsed
    frame := s.sched.frame }

/-- Abandon the task of a step, if there is one. -/
def abandonStep (d : Option StepDesc) (program : Bool) (s : State) : State :=
  match d with
  | some d => abandonTask d.tenant d.task program s
  | none => s

/-- Is a timed entry active in round `r` (R35)? -/
def timingActive (t : Timing) (r : BitVec 10) : Bool := r.toNat % 2 ^ t.rate.toNat == t.phase.toNat

/-- The logical engine a physical engine serves under the variant in force. -/
def logicalOf (t : Crest) (eng : Fin 18) : Option Nat := t.map.findIdx? fun p => p.toNat == eng.val

/-- The physical engine a logical engine runs on. -/
def physicalOf (t : Crest) (logical : BitVec 4) : Option (Fin 18) :=
  match t.map[logical.toNat]? with
  | some p => if h : p.toNat < 18 then some ⟨p.toNat, h⟩ else none
  | none => none

/-- Abandon every task with a later step in the round on a logical engine (R97). -/
def abandonLater (c : Fin 6) (logical : Nat) (s : State) : State :=
  match s.sched.active with
  | none => s
  | some im =>
    im.engineSteps.foldl (fun s e =>
      if e.crest.toNat == c.val && e.logical.toNat == logical && decide (s.sched.slot.toNat < e.t.slot.toNat) &&
          timingActive e.t s.sched.round then
        abandonStep im.steps[e.desc.toNat]? false s
      else s) s

/-- Retire an engine after an exception of the engine kind (R96, R97, R99): the retired set gains it, RETIRED is raised, the tasks
loaded into it, unloaded from it or due on its logical engine are abandoned, and EXHAUSTED is raised at three. -/
def retireByFault (e : EngRef) (s : State) : State :=
  let t := Vec.at s.crests e.crest
  if t.retired.getLsbD e.eng.val then s else
  let g := engineAt s e
  let other := if g.half then g.half0 else g.half1
  let s := updCrest e.crest (fun t => { t with retired := setBit t.retired e.eng.val true }) s
  let s := raise (.engine e.crest) 3 none .unstated s
  let s := abandonStep other.desc false (abandonStep g.unloaded false s)
  let s := match logicalOf t e.eng with
    | some l => abandonLater e.crest l s
    | none => s
  let t := Vec.at s.crests e.crest
  if 3 ≤ popcount t.retired && !t.exhausted then
    raise (.engine e.crest) 4 none .unstated (updCrest e.crest (fun t => { t with exhausted := true }) s)
  else s

/-- An exception of an engine (R87 to R91): the engine stops, the record is kept, XCPT is raised with an event record, and the
task of the step is abandoned. -/
def engineX (e : EngRef) (cause : Nat) (addr : Word) (trap : BitVec 5) (d : Option StepDesc) (elapsed : BitVec 16)
    (s : State) : State :=
  let g := engineAt s e
  let x := mkRecord s g cause addr trap d elapsed
  let s := updEngine e (fun g => { g with x := x, run := none, delay := none, modeNext := none, loops := [] }) s
  let ten := d.map fun d => d.tenant
  let s := raise (.engine e.crest) 0 ten .unstated (bump (.engine e.crest) 0x12 1 s)
  let s := if cause == xDeadline then raise (.engine e.crest) 7 ten .unstated s else s
  let s := abandonStep d (programKind cause) s
  if cause == xCtxEcc || cause == xStall || cause == xSelftest then retireByFault e s else s

/-- The step an engine runs. -/
def runningDesc (g : Engine) : Option StepDesc := g.run.map fun r => r.desc

/-- An exception raised by the instruction at the PC of a running step. -/
def instrX (e : EngRef) (cause : Nat) (addr : Word) (trap : BitVec 5) (s : State) : State :=
  let g := engineAt s e
  engineX e cause addr trap (runningDesc g) (elapsedNow s g) s

/-- Put an engine's effect in force: the instruction counts, and control goes on (R67, R72 to R76). -/
def finish (e : EngRef) (f : Eff) (s : State) : State :=
  match f with
  | .next g => bump (.engine e.crest) 0x13 1 (updEngine e (fun _ => shiftMode none (advance g)) s)
  | .mode g m => bump (.engine e.crest) 0x13 1 (updEngine e (fun _ => shiftMode (some m) (advance g)) s)
  | .jump g d => bump (.engine e.crest) 0x13 1 (updEngine e (fun _ => shiftMode none { g with pc := g.pc + 4, delay := some d, jumped := false }) s)
  | .skip g pc => bump (.engine e.crest) 0x13 1 (updEngine e (fun _ => shiftMode none { g with pc := pc, jumped := false }) s)
  | .halt =>
    bump (.engine e.crest) 0x11 1 (bump (.engine e.crest) 0x13 1
      (updEngine e (fun g => { updHalf (fun h => { h with done := true }) g with run := none, modeNext := none, loops := [] }) s))
  | .xcpt cause addr trap => instrX e cause addr trap s

/-- Run the instruction whose word is `w` on an engine. It runs only where the engine runs a step and its PC stands at that word
(log entry 6). A PC outside the code part raises FETCH (R70), and a control instruction in a delay slot or an illegal word
raises ILLEGAL (R73, R77). -/
def runWord (e : EngRef) (w : Word) (body : State → Engine → Eff) (s : State) : State :=
  let g := engineAt s e
  if g.run.isNone then s else
  match codeWord g g.pc with
  | none => instrX e xFetch g.pc 0 s
  | some v =>
    if v ≠ w then s
    else if !legalWord w || (g.delay.isSome && isControl w) then instrX e xIllegal 0 0 s
    else finish e (body s g) s

/-- An instruction that only changes registers, flags or ACC. -/
def runAlu (e : EngRef) (w : Word) (f : Engine → Engine) (s : State) : State := runWord e w (fun _ g => .next (f g)) s

end Sys2Proof.Machine
end

