-- ==== Sys2Proof/Machine/EngineAlu.lean ====
section
/-! DEFINITION. The integer, accumulator, immediate and system instructions of the engine (Table 3.6, R78, R79). -/
namespace Sys2Proof.Machine

/-- The outcome of every command here: the next state. -/
abbrev Out := Host.Outcome State Fault Refusal

/-- Signed quotient (R79): rounded toward zero, with the values and flags of a zero divisor and of the overflow. -/
def divOp (rd : Reg) (a b : Word) (g : Engine) : Engine :=
  if b = 0 then
    setIDiv0 true (setReg rd (if a = 0 then 0 else if a.msb then 0x80000000 else 0x7FFFFFFF) g)
  else if a = 0x80000000 ∧ b = 0xFFFFFFFF then setISat true (setReg rd 0x7FFFFFFF g)
  else setReg rd (BitVec.ofInt 32 (a.toInt.tdiv b.toInt)) g

/-- Unsigned quotient (R79). -/
def divuOp (rd : Reg) (a b : Word) (g : Engine) : Engine :=
  if b = 0 then setIDiv0 true (setReg rd 0xFFFFFFFF g) else setReg rd (a / b) g

/-- Signed remainder with the sign of ra (R79). -/
def remOp (rd : Reg) (a b : Word) (g : Engine) : Engine :=
  if b = 0 then setIDiv0 true (setReg rd a g) else setReg rd (BitVec.ofInt 32 (a.toInt.tmod b.toInt)) g

/-- ACC shifted right and saturated to 32 bits whatever SAT holds. -/
def accshOp (rd : Reg) (b : Word) (g : Engine) : Engine :=
  let v := clampInt 32 (g.acc.sshiftRight (bits b 0 6).toNat).toInt
  setISat v.2 (setReg rd v.1 g)

/-- The system value of a number (Table 3.7, R80). -/
def sysValue (s : State) (e : EngRef) (g : Engine) (k : BitVec 5) : Word :=
  match k.toNat with
  | 0 => g.run.elim 0 fun r => fld r.slot 0
  | 1 => fld s.sched.round 0
  | 2 => lo32 s.sched.frame
  | 3 => num e.eng.val 0 ||| num e.crest.val 8 ||| (g.run.elim 0 fun r => fld r.logical 16)
  | 4 => BitVec.ofNat 32 (s.tb.lastR % 1000000000)
  | 5 => BitVec.ofNat 32 (s.tb.lastR / 1000000000)
  | 6 => s.sched.active.elim 0 fun im => BitVec.ofNat 32 (roundNsOf im)
  | 7 => g.run.elim 0 fun r => fld r.desc.tenant 0 ||| fld r.desc.task 8 ||| fld r.desc.step 16
  | _ => 0

/-- ADD: rd = ra + rb, S. -/
def execAdd (e : EngRef) (rd ra rb : Reg) (s : State) : Out :=
  .next (runAlu e (encR 0x00 0x001 rd ra rb) (fun g => setSat rd ((getReg g ra).toInt + (getReg g rb).toInt) g) s)

/-- SUB: rd = ra - rb, S. -/
def execSub (e : EngRef) (rd ra rb : Reg) (s : State) : Out :=
  .next (runAlu e (encR 0x00 0x002 rd ra rb) (fun g => setSat rd ((getReg g ra).toInt - (getReg g rb).toInt) g) s)

/-- AND. -/
def execAnd (e : EngRef) (rd ra rb : Reg) (s : State) : Out :=
  .next (runAlu e (encR 0x00 0x003 rd ra rb) (fun g => setReg rd (getReg g ra &&& getReg g rb) g) s)

/-- OR. -/
def execOr (e : EngRef) (rd ra rb : Reg) (s : State) : Out :=
  .next (runAlu e (encR 0x00 0x004 rd ra rb) (fun g => setReg rd (getReg g ra ||| getReg g rb) g) s)

/-- XOR. -/
def execXor (e : EngRef) (rd ra rb : Reg) (s : State) : Out :=
  .next (runAlu e (encR 0x00 0x005 rd ra rb) (fun g => setReg rd (getReg g ra ^^^ getReg g rb) g) s)

/-- SHL: rd = ra << rb[4:0], S. -/
def execShl (e : EngRef) (rd ra rb : Reg) (s : State) : Out :=
  .next (runAlu e (encR 0x00 0x006 rd ra rb) (fun g => setSat rd ((getReg g ra).toInt * 2 ^ (bits (getReg g rb) 0 5).toNat) g) s)

/-- SHR: logical right shift by rb[4:0]. -/
def execShr (e : EngRef) (rd ra rb : Reg) (s : State) : Out :=
  .next (runAlu e (encR 0x00 0x007 rd ra rb) (fun g => setReg rd (getReg g ra >>> (bits (getReg g rb) 0 5).toNat) g) s)

/-- SAR: arithmetic right shift by rb[4:0]. -/
def execSar (e : EngRef) (rd ra rb : Reg) (s : State) : Out :=
  .next (runAlu e (encR 0x00 0x008 rd ra rb) (fun g => setReg rd ((getReg g ra).sshiftRight (bits (getReg g rb) 0 5).toNat) g) s)

/-- SLT: rd = 1 if ra < rb, signed. -/
def execSlt (e : EngRef) (rd ra rb : Reg) (s : State) : Out :=
  .next (runAlu e (encR 0x00 0x009 rd ra rb) (fun g => setReg rd (if (getReg g ra).slt (getReg g rb) then 1 else 0) g) s)

/-- SLTU: rd = 1 if ra < rb, unsigned. -/
def execSltu (e : EngRef) (rd ra rb : Reg) (s : State) : Out :=
  .next (runAlu e (encR 0x00 0x00A rd ra rb) (fun g => setReg rd (if (getReg g ra).ult (getReg g rb) then 1 else 0) g) s)

/-- MIN: signed minimum. -/
def execMin (e : EngRef) (rd ra rb : Reg) (s : State) : Out :=
  .next (runAlu e (encR 0x00 0x00B rd ra rb) (fun g => setReg rd (if (getReg g ra).slt (getReg g rb) then getReg g ra else getReg g rb) g) s)

/-- MAX: signed maximum. -/
def execMax (e : EngRef) (rd ra rb : Reg) (s : State) : Out :=
  .next (runAlu e (encR 0x00 0x00C rd ra rb) (fun g => setReg rd (if (getReg g ra).slt (getReg g rb) then getReg g rb else getReg g ra) g) s)

/-- ABS: rd = |ra|, S. -/
def execAbs (e : EngRef) (rd ra : Reg) (s : State) : Out :=
  .next (runAlu e (encR 0x00 0x00D rd ra 0) (fun g => setSat rd (if (getReg g ra).toInt < 0 then -(getReg g ra).toInt else (getReg g ra).toInt) g) s)

/-- MUL: rd = ra * rb, low 32 bits, S. -/
def execMul (e : EngRef) (rd ra rb : Reg) (s : State) : Out :=
  .next (runAlu e (encR 0x00 0x010 rd ra rb) (fun g => setSat rd ((getReg g ra).toInt * (getReg g rb).toInt) g) s)

/-- MULH: high 32 bits of the signed product. -/
def execMulh (e : EngRef) (rd ra rb : Reg) (s : State) : Out :=
  .next (runAlu e (encR 0x00 0x011 rd ra rb) (fun g => setReg rd (bits (BitVec.ofInt 64 ((getReg g ra).toInt * (getReg g rb).toInt)) 32 32) g) s)

/-- DIV. -/
def execDiv (e : EngRef) (rd ra rb : Reg) (s : State) : Out :=
  .next (runAlu e (encR 0x00 0x012 rd ra rb) (fun g => divOp rd (getReg g ra) (getReg g rb) g) s)

/-- DIVU. -/
def execDivu (e : EngRef) (rd ra rb : Reg) (s : State) : Out :=
  .next (runAlu e (encR 0x00 0x013 rd ra rb) (fun g => divuOp rd (getReg g ra) (getReg g rb) g) s)

/-- REM. -/
def execRem (e : EngRef) (rd ra rb : Reg) (s : State) : Out :=
  .next (runAlu e (encR 0x00 0x014 rd ra rb) (fun g => remOp rd (getReg g ra) (getReg g rb) g) s)

/-- MAC: ACC = ACC + ra * rb. -/
def execMac (e : EngRef) (ra rb : Reg) (s : State) : Out :=
  .next (runAlu e (encR 0x01 0x001 0 ra rb) (fun g => setAcc (g.acc.toInt + (getReg g ra).toInt * (getReg g rb).toInt) g) s)

/-- MSU: ACC = ACC - ra * rb. -/
def execMsu (e : EngRef) (ra rb : Reg) (s : State) : Out :=
  .next (runAlu e (encR 0x01 0x002 0 ra rb) (fun g => setAcc (g.acc.toInt - (getReg g ra).toInt * (getReg g rb).toInt) g) s)

/-- ACCSET: ACC[31:0] = ra, ACC[63:32] = rb. -/
def execAccset (e : EngRef) (ra rb : Reg) (s : State) : Out :=
  .next (runAlu e (encR 0x01 0x003 0 ra rb) (fun g => { g with acc := join (getReg g rb) (getReg g ra) }) s)

/-- ACCLO: rd = ACC[31:0]. -/
def execAcclo (e : EngRef) (rd : Reg) (s : State) : Out :=
  .next (runAlu e (encR 0x01 0x004 rd 0 0) (fun g => setReg rd (lo32 g.acc) g) s)

/-- ACCHI: rd = ACC[63:32]. -/
def execAcchi (e : EngRef) (rd : Reg) (s : State) : Out :=
  .next (runAlu e (encR 0x01 0x005 rd 0 0) (fun g => setReg rd (hi32 g.acc) g) s)

/-- ACCSH: ACC shifted right by rb[5:0], saturated to 32 bits. -/
def execAccsh (e : EngRef) (rd rb : Reg) (s : State) : Out :=
  .next (runAlu e (encR 0x01 0x006 rd 0 rb) (fun g => accshOp rd (getReg g rb) g) s)

/-- NOP. -/
def execNop (e : EngRef)  (s : State) : Out :=
  .next (runAlu e (encR 0x3F 0x000 0 0 0) (fun g => g) s)

/-- MODER: rd = ENG_MODE, the value most recently written (R67). -/
def execModer (e : EngRef) (rd : Reg) (s : State) : Out :=
  .next (runAlu e (encR 0x3F 0x003 rd 0 0) (fun g => setReg rd (fld g.modeWritten 0) g) s)

/-- FLAGR: rd = ENG_FLAGS. -/
def execFlagr (e : EngRef) (rd : Reg) (s : State) : Out :=
  .next (runAlu e (encR 0x3F 0x004 rd 0 0) (fun g => setReg rd (fld g.flags 0) g) s)

/-- FLAGC: clears the ENG_FLAGS bits set in ra (R66). -/
def execFlagc (e : EngRef) (ra : Reg) (s : State) : Out :=
  .next (runAlu e (encR 0x3F 0x005 0 ra 0) (fun g => { g with flags := g.flags &&& ~~~bits (getReg g ra) 0 7 }) s)

/-- MODEW: ENG_MODE = ra after the shadow of R67; the reserved bits are ignored. -/
def execModew (e : EngRef) (ra : Reg) (s : State) : Out :=
  .next (runWord e (encR 0x3F 0x002 0 ra 0)
    (fun _ g => .mode { g with modeWritten := bits (getReg g ra) 0 5 } (bits (getReg g ra) 0 5)) s)

/-- SYSR: rd = a system value (Table 3.7). -/
def execSysr (e : EngRef) (rd : Reg) (num : BitVec 5) (s : State) : Out :=
  .next (runWord e (encR 0x3F 0x006 rd 0 num) (fun s g => .next (setReg rd (sysValue s e g num) g)) s)

/-- ADDI: rd = ra + sext(imm), S. -/
def execAddi (e : EngRef) (rd ra : Reg) (imm : BitVec 16) (s : State) : Out :=
  .next (runAlu e (encI 0x08 rd ra imm) (fun g => setSat rd ((getReg g ra).toInt + imm.toInt) g) s)

/-- ANDI: imm zero-extended. -/
def execAndi (e : EngRef) (rd ra : Reg) (imm : BitVec 16) (s : State) : Out :=
  .next (runAlu e (encI 0x09 rd ra imm) (fun g => setReg rd (getReg g ra &&& imm.setWidth 32) g) s)

/-- ORI: imm zero-extended. -/
def execOri (e : EngRef) (rd ra : Reg) (imm : BitVec 16) (s : State) : Out :=
  .next (runAlu e (encI 0x0A rd ra imm) (fun g => setReg rd (getReg g ra ||| imm.setWidth 32) g) s)

/-- XORI: imm zero-extended. -/
def execXori (e : EngRef) (rd ra : Reg) (imm : BitVec 16) (s : State) : Out :=
  .next (runAlu e (encI 0x0B rd ra imm) (fun g => setReg rd (getReg g ra ^^^ imm.setWidth 32) g) s)

/-- SLTI: rd = 1 if ra < sext(imm). -/
def execSlti (e : EngRef) (rd ra : Reg) (imm : BitVec 16) (s : State) : Out :=
  .next (runAlu e (encI 0x0C rd ra imm) (fun g => setReg rd (if (getReg g ra).slt (imm.signExtend 32) then 1 else 0) g) s)

/-- LUI: rd = imm << 16. -/
def execLui (e : EngRef) (rd : Reg) (imm : BitVec 16) (s : State) : Out :=
  .next (runAlu e (encI 0x0D rd 0 imm) (fun g => setReg rd (fld imm 16) g) s)

/-- SHLI: rd = ra << imm[4:0], S. -/
def execShli (e : EngRef) (rd ra : Reg) (sh : BitVec 5) (s : State) : Out :=
  .next (runAlu e (encI 0x0E rd ra (sh.setWidth 16)) (fun g => setSat rd ((getReg g ra).toInt * 2 ^ sh.toNat) g) s)

/-- SHRI: logical right shift by imm[4:0]. -/
def execShri (e : EngRef) (rd ra : Reg) (sh : BitVec 5) (s : State) : Out :=
  .next (runAlu e (encI 0x0F rd ra (sh.setWidth 16)) (fun g => setReg rd (getReg g ra >>> sh.toNat) g) s)

/-- SARI: arithmetic right shift by imm[4:0]. -/
def execSari (e : EngRef) (rd ra : Reg) (sh : BitVec 5) (s : State) : Out :=
  .next (runAlu e (encI 0x10 rd ra (sh.setWidth 16)) (fun g => setReg rd ((getReg g ra).sshiftRight sh.toNat) g) s)

end Sys2Proof.Machine
end

