-- ==== Sys2Proof/Machine/EngineEvents.lean ====
section
/-! DEFINITION. Engine faults, retirement, speed monitors, tile-memory errors and adaptive VCORE (R83 to R85, R92 to R101,
R406). -/
namespace Sys2Proof.Machine

/-- Is the Crest tile present with its domain ON? -/
def crestLive (s : State) (c : Fin 6) : Bool := decide (c.val < s.part.crests) && crestOn s c

/-- An engine-kind exception on an engine that is not retired. One that is retired has left service: a failing test of it changes nothing
(DESIGN CHOICE, log entry 101). -/
def engineFault (e : EngRef) (cause : Nat) (s : State) : State :=
  let g := engineAt s e
  if crestLive s e.crest && !(Vec.at s.crests e.crest).retired.getLsbD e.eng.val then
    engineX e cause 0 0 (runningDesc g) (elapsedNow s g) s
  else s

/-- ENGINE_STALL: an engine-port handshake has not completed within 100 ns (Table 3.9). -/
def execEngineStall (e : EngRef) (s : State) : Out := .next (engineFault e xStall s)

/-- CTX_ECC: an uncorrectable context word or a parity error (R94). -/
def execCtxEcc (e : EngRef) (s : State) : Out := .next (engineFault e xCtxEcc s)

/-- A retired set with the engines `l` added. -/
def withEngines (r : BitVec 18) (l : List (Fin 18)) : BitVec 18 := l.foldl (fun r i => setBit r i.val true) r

/-- The retirement command (R101): it waits for the next round boundary. Naming a retired engine has no effect, on REFUSED
neither (log entry 124), and one that waits already is not added again. -/
def retireCmd (c : Fin 6) (eng : BitVec 5) (s : State) : State :=
  let t := Vec.at s.crests c
  if h : eng.toNat < 18 then
    if t.retired.getLsbD eng.toNat then s
    else if 3 ≤ popcount (withEngines t.retired (t.toRetire ++ [⟨eng.toNat, h⟩])) then updCrest c (fun t => { t with refused := true }) s
    else updCrest c (fun t => { t with refused := false, toRetire := (t.toRetire.filter fun i => i.val != eng.toNat) ++ [⟨eng.toNat, h⟩] }) s
  else updCrest c (fun t => { t with refused := true }) s

/-- ENG_RETIRE with GO. -/
def execEngRetire (q : Req) (c : Fin 6) (eng : BitVec 5) (s : State) : Out := .next (onPage q (.engine c) (retireCmd c eng) s)

/-- ENG_ECC_CLR.CORR: clears ENG_ECC_CORR. -/
def execEngEccClrCorr (q : Req) (c : Fin 6) (s : State) : Out :=
  .next (onPage q (.engine c) (updCrest c fun t => { t with eccCorr := 0 }) s)

/-- ENG_ECC_CLR.UNC: clears ENG_ECC_UNC. -/
def execEngEccClrUnc (q : Req) (c : Fin 6) (s : State) : Out :=
  .next (onPage q (.engine c) (updCrest c fun t => { t with eccUnc := 0 }) s)

/-- Does the variant in force name the engine and is it not retired? -/
def inService (t : Crest) (eng : Fin 18) : Bool := (logicalOf t eng).isSome && !t.retired.getLsbD eng.val

/-- The engine the next quiet-slot test takes: in ascending rotation from `quietNext` among those in service (R98). -/
def quietEngine (t : Crest) : Option (Fin 18) :=
  match (List.finRange 18).find? fun i => decide (t.quietNext ≤ i) && inService t i with
  | some i => some i
  | none => (List.finRange 18).find? fun i => inService t i

/-- The steward's quiet-slot test of one engine in service; a mismatch raises SELFTEST (R98). -/
def quietTest (c : Fin 6) (pass : Bool) (s : State) : State :=
  if !crestLive s c then s else
  match quietEngine (Vec.at s.crests c) with
  | none => s
  | some i =>
    let s := updCrest c (fun t => { t with quietNext := i + 1 }) s
    if pass then s else engineFault ⟨c, i⟩ xSelftest s

/-- STEWARD_QUIET_TEST. -/
def execStewardQuietTest (c : Fin 6) (pass : Bool) (s : State) : Out := .next (quietTest c pass s)

/-- SPARE_TEST: a test of an engine the variant in force does not name (R98). -/
def execSpareTest (c : Fin 6) (eng : Fin 18) (pass : Bool) (s : State) : Out :=
  .next (if pass || (logicalOf (Vec.at s.crests c) eng).isSome then s else engineFault ⟨c, eng⟩ xSelftest s)

/-! ### Speed monitors and VCORE -/

/-- The lowest of eight readings and the lowest-numbered monitor that gave it (R83). -/
def lowestReading (r : Vec (BitVec 12) 8) : BitVec 12 × BitVec 3 :=
  (List.finRange 8).foldl (fun acc i => if Vec.at r i < acc.1 then (Vec.at r i, BitVec.ofNat 3 i.val) else acc)
    (Vec.at r 0, 0)

/-- The device reading: the lowest MIN of the Crest tiles present (R406). A tile whose domain is not ON has measured nothing and is left
out (DESIGN CHOICE, log entry 97). -/
def deviceReading (s : State) : BitVec 12 :=
  ((presentCrests s).filter (crestOn s)).foldl (fun m c => if (Vec.at s.crests c).speedMin < m then (Vec.at s.crests c).speedMin else m) 0xFFF

/-- PMB_FAIL: a transaction has failed three times. The commanded value stays (R407). -/
def pmbusFail (s : State) : State :=
  if s.pwr.pmbFail then s else raise .power 4 none .unstated { s with pwr := { s.pwr with pmbFail := true } }

/-- A voltage in LINEAR16 under the exponent of VOUT_MODE (R405; the rounding is open, log entry 116). -/
def linear16 (mode : Byte) (mv : Nat) : BitVec 16 :=
  let den := 1000 * 2 ^ ((mode.extractLsb' 0 5).toInt + 16).toNat
  BitVec.ofNat 16 (mv * 65536 / den + (if mv * 65536 % den != 0 && Config.voutUp mv mode then 1 else 0))

/-- The power sequencer writes VOUT_COMMAND to the regulator at 0x40 + PMB_ADDR (R405). `ack` tells whether one of its three attempts succeeds;
none does while PMB_FAIL stands, and a write that fails leaves the commanded value (R407). -/
def writeVout (mv : BitVec 10) (ack : Bool) (s : State) : State :=
  if s.pwr.pmbFail then s
  else if !ack then pmbusFail s
  else send (.voutCommand (0x40 + s.pwr.straps.pmbAddr.setWidth 7) (linear16 s.pwr.voutMode mv.toNat)) { s with pwr := { s.pwr with setMv := mv } }

/-- A change of VCORE in operation raises VSTEP (R406). -/
def commandVcore (mv : BitVec 10) (ack : Bool) (s : State) : State :=
  let s' := writeVout mv ack s
  if s.pwr.pmbFail || !ack then s' else raise .power 3 none .unstated s'

/-- Has `t` lain at least `ns` back, or never been? -/
def longAgo (now : Nat) (t : Option Nat) (ns : Nat) : Bool := t.elim true fun t => decide (t + ns ≤ now)

/-- The rules of R406 on a device reading, in operation (from the first round on, R413). -/
def adaptVcore (ack : Bool) (s : State) : State :=
  if !s.sched.running then s else
  let r := (deviceReading s).toNat
  let now := localNs s
  let p := s.pwr
  let high := if 1280 ≤ r then some (p.highSince.getD now) else none
  let s := { s with pwr := { s.pwr with highSince := high } }
  if r ≤ 1105 && decide (p.setMv.toNat < 850) && longAgo now p.lastRaise 1000000 then
    let s' := commandVcore (BitVec.ofNat 10 (min 850 (p.setMv.toNat + 10))) ack s
    if p.pmbFail || !ack then s' else { s' with pwr := { s'.pwr with lastRaise := some now } }
  else if (high.elim false fun t => decide (t + 10000000000 ≤ now)) && longAgo now p.lastRaise 60000000000 &&
      longAgo now p.lastLower 10000000000 && decide (p.vfloor < p.setMv) then
    let s' := commandVcore (BitVec.ofNat 10 (max p.vfloor.toNat (p.setMv.toNat - 5))) ack s
    if p.pmbFail || !ack then s' else { s' with pwr := { s'.pwr with lastLower := some now } }
  else s

/-- A tile's measurement at a sample instant ends (R83 to R85): GUARD and LOST follow their conditions, and the sixteenth
consecutive reading below 1,024 at 0.85 V is a failed self-test. -/
def tileMeasured (c : Fin 6) (r : Vec (BitVec 12) 8) (s : State) : State :=
  if !crestLive s c then s else
  let m := lowestReading r
  let slow := decide (m.1.toNat < 1024)
  let t := Vec.at s.crests c
  let lowMax := if slow && decide (850 ≤ s.pwr.setMv.toNat) then t.lowAtMax + 1 else 0
  let s1 := updCrest c (fun t => { t with
    readings := r, speedMin := m.1, speedMon := m.2, guard := decide (m.1.toNat ≤ 1105), slow := slow
    lowRounds := if slow then satInc t.lowRounds else 0, lowAtMax := lowMax }) s
  let s1 := if slow && !t.slow then urgent 506 s1 else s1
  let s1 := noteConds [.engine c] s s1
  if lowMax = 16 then failSelfTest s1 else s1

/-- Is a tile the last of those that are ON and present? -/
def lastLive (s : State) (c : Fin 6) : Bool := crestLive s c && (List.finRange 6).all fun d => decide (d ≤ c) || !crestLive s d

/-- The end of a measurement; that of the last tile which measures completes the device reading of R406. -/
def speedMeasured (c : Fin 6) (r : Vec (BitVec 12) 8) (ack : Bool) (s : State) : State :=
  let s1 := tileMeasured c r s
  if lastLive s c then adaptVcore ack s1 else s1

/-- SPEED_MEASURE_END. -/
def execSpeedMeasureEnd (c : Fin 6) (readings : Vec (BitVec 12) 8) (ack : Bool) (s : State) : Out :=
  .next (speedMeasured c readings ack s)

/-! ### Tile memory (R92, R93) -/

/-- The Crest tile that owns a pool address, if it is present (R19). -/
def poolCrest (s : State) (a : Nat) : Option (Fin 6) :=
  match crest? (a / 0x800000) with
  | some c => if c.val < s.part.crests then some c else none
  | none => none

/-- Does a pool address lie in a region of an application image? -/
def inRegions (im : Option AppImage) (a : Nat) : Bool :=
  im.elim false fun im => im.regions.any fun r => decide (r.addr ≤ a) && decide (a < r.addr + r.len)

/-- A corrected word is counted; at the threshold ECC_CORR is raised (R92). -/
def countCorrected (c : Fin 6) (s : State) : State :=
  let s := bump (.engine c) 0x14 1 (updCrest c (fun t => { t with eccCorr := satInc t.eccCorr }) s)
  let t := Vec.at s.crests c
  if t.eccCorr == t.eccThr then raise (.engine c) 5 none .unstated s else s

/-- An uncorrectable word is counted and recorded; ECC_UNC is raised with urgent source 505 (R93). -/
def countUncorrectable (c : Fin 6) (a : Nat) (s : State) : State :=
  raiseUrgent (.engine c) 6 505 none .unstated
    (updCrest c (fun t => { t with eccUnc := satInc t.eccUnc, eccAddr := BitVec.ofNat 32 a }) s)

/-- Lists of words with single-bit and with uncorrectable errors after one more error in word `a`; a second error in a word that holds
one makes it uncorrectable. -/
def hitWord (a : Nat) (double : Bool) (x : List Nat × List Nat) : List Nat × List Nat :=
  if x.2.contains a then x
  else if double || x.1.contains a then (x.1.filter fun w => w != a, a :: x.2)
  else (a :: x.1, x.2)

/-- The tile and the word of the loop records that an endpoint address names. -/
def loopWordAt (s : State) (a : Word) : Option (Fin 6 × Nat) :=
  if isPool a || epTile a == 0 || decide (0x40000 ≤ epOff a) then none
  else (crest? (epTile a - 1)).bind fun c => if c.val < s.part.crests then some (c, epOff a / 8 * 8) else none

/-- An error has arisen in a word (R21, R152). -/
def upset (s : State) (u : Upset) : State :=
  if isPool u.addr then
    match poolCrest s u.addr.toNat with
    | some c => updCrest c (fun t =>
        let x := hitWord (u.addr.toNat / 8 * 8) u.double (t.softWords, t.badWords)
        { t with softWords := x.1, badWords := x.2 }) s
    | none => s
  else match loopWordAt s u.addr with
    | some (c, w) => updCrest c (fun t =>
        let x := hitWord w u.double (t.softLoopWords, t.badLoopWords)
        { t with softLoopWords := x.1, badLoopWords := x.2 }) s
    | none => s

/-- The words of a list that a span of bytes touches. -/
def wordsIn (ws : List Nat) (a n : Nat) : List Nat := ws.filter fun w => decide (a < w + 8) && decide (w < a + n)

/-- The uncorrectable words of the pool that a span holds. -/
def badIn (s : State) (a n : Nat) : List (Fin 6 × Nat) :=
  (presentCrests s).flatMap fun c => (wordsIn (Vec.at s.crests c).badWords a n).map fun w => (c, w)

/-- The words with a single-bit error that a span of the pool holds. -/
def softIn (s : State) (a n : Nat) : List (Fin 6 × Nat) :=
  (presentCrests s).flatMap fun c => (wordsIn (Vec.at s.crests c).softWords a n).map fun w => (c, w)

/-- A word is corrected, written back and counted (R92). -/
def correctWord (s : State) (x : Fin 6 × Nat) : State :=
  countCorrected x.1 (updCrest x.1 (fun t => { t with softWords := t.softWords.filter fun w => w != x.2 }) s)

/-- A reader of the pool corrects the single-bit errors it meets (R92). -/
def correctIn (a n : Nat) (s : State) : State := (softIn s a n).foldl correctWord s

/-- Each uncorrectable word of a read span is counted and recorded. -/
def countBad (a n : Nat) (s : State) : State := (badIn s a n).foldl (fun s x => countUncorrectable x.1 x.2 s) s

/-- A scheduled read found uncorrectable words: each is counted, and its tile is a failed self-test at round end (R93). -/
def foundBad (bs : List (Fin 6 × Nat)) (s : State) : State :=
  bs.foldl (fun s x => updCrest x.1 (fun t => { t with failAtRoundEnd := true }) (countUncorrectable x.1 x.2 s)) s

/-- A scheduled read of a span of the pool: single-bit errors are corrected, uncorrectable words found. -/
def scanPool (a n : Nat) (s : State) : State := foundBad (badIn s a n) (correctIn a n s)

/-- The words of a list that `n` bytes written from `a` leave as they were. -/
def notWritten (a n : Nat) (ws : List Nat) : List Nat := ws.filter fun w => !(decide (a ≤ w) && decide (w + 8 ≤ a + n))

/-- Bytes written to the pool; a word written whole is good again. -/
def poolPut (a : Nat) (d : List Byte) (s : State) : State :=
  { s with
    pool := memWrite s.pool a d
    crests := s.crests.map fun c => { c with badWords := notWritten a d.length c.badWords, softWords := notWritten a d.length c.softWords } }

/-! ### Spans at pool and loop-record addresses (R93, R95, R152) -/

/-- The endpoint address of a loop-record word of a tile, which ENG_ECC_ADDR holds for it (log entry 91). -/
def loopAddr (c : Fin 6) (w : Nat) : Nat := 0x80000000 + (c.val + 1) * 0x10000000 + w

/-- The uncorrectable words of `n` bytes of a tile's loop records. -/
def loopBad (s : State) (c : Fin 6) (off n : Nat) : List (Fin 6 × Nat) :=
  (wordsIn (Vec.at s.crests c).badLoopWords off n).map fun w => (c, loopAddr c w)

/-- The uncorrectable words of `n` bytes from a pool or endpoint address. -/
def spanBad (s : State) (a : Word) (n : Nat) : List (Fin 6 × Nat) :=
  if isPool a then badIn s a.toNat n else (loopWordAt s a).elim [] fun x => loopBad s x.1 (epOff a) n

/-- Single-bit errors of loop records that a reader meets are corrected; ENG_ECC_CORR counts the words of the tile memory alone. -/
def correctLoop (c : Fin 6) (off n : Nat) (s : State) : State :=
  updCrest c (fun t => { t with softLoopWords := t.softLoopWords.filter fun w => !(decide (off < w + 8) && decide (w < off + n)) }) s

/-- A scheduled read of `n` bytes from a pool or endpoint address. -/
def scanSpan (a : Word) (n : Nat) (s : State) : State :=
  foundBad (spanBad s a n) (if isPool a then correctIn a.toNat n s else (loopWordAt s a).elim s fun x => correctLoop x.1 (epOff a) n s)

/-- Is flit `k` from an address free of uncorrectable words, so that it carries no poison? -/
def flitGood (s : State) (a : Word) (k : Nat) : Bool := (spanBad s (a + BitVec.ofNat 32 (64 * k)) 64).isEmpty

/-- `n` bytes of a tile's loop records have been written: a word written whole is good again. -/
def loopWritten (c : Fin 6) (off n : Nat) (s : State) : State :=
  updCrest c (fun t => { t with badLoopWords := notWritten off n t.badLoopWords, softLoopWords := notWritten off n t.softLoopWords }) s

/-- Bytes written to a tile's loop records. -/
def loopPut (c : Fin 6) (off : Nat) (d : List Byte) (s : State) : State :=
  loopWritten c off d.length (updLoop c (fun l => { l with mem := memWrite l.mem off d }) s)

/-- What the scrubber finds in a word, added to what is known of it. -/
def scrubFinds (addr : Word) (found : EccFinding) (s : State) : State :=
  match found with
  | .clean => s
  | .single => if (softIn s (addr.toNat / 8 * 8) 8).isEmpty then upset s ⟨addr, false⟩ else s
  | .double => upset s ⟨addr, true⟩

/-- The scrubber reads a word (R92, R93): a single-bit error is corrected; an uncorrectable word of an image's region marks the tile for
a failed self-test at round end, and one outside every region is rewritten as 0. -/
def scrub (addr : Word) (found : EccFinding) (s : State) : State :=
  let a := addr.toNat / 8 * 8
  match if isPool addr then poolCrest s a else none with
  | none => s
  | some c =>
    if !crestOn s c then s else
    let s := correctIn a 8 (scrubFinds addr found s)
    if (badIn s a 8).isEmpty then s
    else if inRegions s.run.active a || inRegions s.run.shadow a then foundBad (badIn s a 8) s
    else poolPut a (List.replicate 8 0) (countBad a 8 s)

/-- SCRUB_WORD. -/
def execScrubWord (addr : Word) (found : EccFinding) (s : State) : Out := .next (scrub addr found s)

end Sys2Proof.Machine
end

