-- ==== Sys2Proof/Machine/Time.lean ====
section
/-! DEFINITION. The timebase unit (Ch. 10): ticks, increments, steps, presented time, the Gulny counter and pulses. -/
namespace Sys2Proof.Machine

/-- Change the timebase unit. -/
def updTb (f : Timebase → Timebase) (s : State) : State := { s with tb := f s.tb }

/-! ### Ticks (R261, R262, R270, R281) -/

/-- TB_INCR in units of 2^-40 ns. -/
def incr44 (t : Timebase) : Nat := (t.incrHi ++ t.incrLo).toNat

/-- The schedule clock's advance per tick in units of 2^-40 ns: TB_INCR with the alignment trim, in units of 10^-12 (R261). -/
def schedIncr (t : Timebase) : Nat := ((incr44 t : Int) + (incr44 t : Int) * t.trim.toInt / 1000000000000).toNat

/-- `n` ticks of the four counts. -/
def countTicks (n : Nat) (t : Timebase) : Timebase :=
  let nat := (t.sec.toNat * 1000000000 + t.ns.toNat) * 2 ^ 40 + t.frac.toNat + n * incr44 t
  let sch := t.schedNs.toNat * 2 ^ 40 + t.schedFrac.toNat + n * schedIncr t
  let gul := t.gulny.toNat * 2 ^ 24 + t.gulnyFrac.toNat + n * t.gcntIncr.toNat
  { t with
    tick := t.tick + n
    sec := BitVec.ofNat 48 (nat / 2 ^ 40 / 1000000000), ns := BitVec.ofNat 30 (nat / 2 ^ 40 % 1000000000)
    frac := BitVec.ofNat 40 nat
    schedNs := BitVec.ofNat 64 (sch / 2 ^ 40), schedFrac := BitVec.ofNat 40 sch
    gulny := BitVec.ofNat 64 (gul / 2 ^ 24), gulnyFrac := BitVec.ofNat 24 gul }

/-- What the next tick commits: a written increment (R262). -/
def commitIncr (t : Timebase) : Timebase :=
  match t.nextIncr with
  | some v => { t with incrLo := bits v 0 32, incrHi := bits v 32 12, nextIncr := none }
  | none => t

/-- Presented time in nanoseconds (R267). -/
def presentedNs (s : State) : Int := (nowNs s : Int) + s.tb.offset.toInt

/-- The whole second of the count that PPS_OUTn selects, native or presented (R279). -/
def ppsSecond (s : State) (n : Fin 2) : Int := (if Vec.at s.tb.ppsSrc n then presentedNs s else (nowNs s : Int)) / 1000000000

/-- PPS_OUTn has considered the whole second that its count shows: the next edge is due at a later one. -/
def markSecond (n : Fin 2) (s : State) : State :=
  updTb (fun t => { t with ppsOut := Vec.upd t.ppsOut n fun p => { p with sec := ppsSecond s n } }) s

/-- A lowered count reaches its whole seconds again: each output's next edge is due at the second after the one that its count shows. -/
def markLower (s : State) : State :=
  (List.finRange 2).foldl (fun s n => if ppsSecond s n < (Vec.at s.tb.ppsOut n).sec then markSecond n s else s) s

/-- Parameters of the EPOCH record (R267): the low words of the old and the new offset, then bits 47 to 32 of both (log entry 80). -/
def offsetParams (old new : DWord) : Params := .given (lo32 old) (lo32 new) (fld (bits old 32 16) 0 ||| fld (bits new 32 16) 16)

/-- What the next tick commits: a written offset; a lower one counts an epoch, raises EPOCH and writes a record (R267). -/
def commitOffset (s : State) : State :=
  match s.tb.nextOffset with
  | none => s
  | some v =>
    let old := s.tb.offset
    let lower := v.slt old
    let s := updTb (fun t => { t with offset := v, nextOffset := none, epoch := if lower then t.epoch + 1 else t.epoch }) s
    if lower then markLower (raise .timebase 3 none (offsetParams old v) s) else s

/-- `n` timebase ticks counted by every performance counter that selects them (select code 0x01). -/
def countSelected (n : Nat) (s : State) : State :=
  if s.super.freeze then s else
  { s with hdrs := s.hdrs.map fun h =>
      if h.freeze || h.clearTick == some s.tb.tick then h
      else { h with cnt := Vector.ofFn fun i : Fin 4 => if Vec.at h.sel i = 1 then cntAdd (Vec.at h.cnt i) n else Vec.at h.cnt i } }

/-- `n` ticks are counted. -/
def countOn (n : Nat) (s : State) : State := countSelected n (updTb (countTicks n) s)

/-- `n` ticks: the first commits a written increment and a written offset. -/
def runTicks (n : Nat) (s : State) : State :=
  if n = 0 then s else countOn (n - 1) (commitOffset (countOn 1 (updTb commitIncr s)))

/-- Ticks to the tick at which a count in units of 2^-40 ns reaches `t` nanoseconds. -/
def ticksUntil (t now inc : Nat) : Nat := if t * 2 ^ 40 ≤ now || inc = 0 then 0 else (t * 2 ^ 40 - now + inc - 1) / inc

/-- The ticks until the native timebase reaches `t` nanoseconds. -/
def nativeTicks (t : Nat) (s : State) : Nat :=
  let tb := commitIncr s.tb
  ticksUntil t ((tb.sec.toNat * 1000000000 + tb.ns.toNat) * 2 ^ 40 + tb.frac.toNat) (incr44 tb)

/-- Ticks of a pulse of `ms` milliseconds, at 2 ns a tick. -/
def pulseTicks (ms : BitVec 10) : Nat := 500000 * ms.toNat

/-- The one-shot's output rises for its width and SHOT is raised (R280). -/
def fireShot (s : State) : State :=
  match s.tb.shot with
  | none => s
  | some (o, _, _) =>
    raise .timebase 5 none .unstated (updTb (fun t => { t with
      shot := none
      ppsOut := Vec.upd t.ppsOut o fun p => { p with high := true, oneShot := true, endTick := t.tick + pulseTicks (Vec.at t.ppsWidth o) } }) s)

/-- The instant of the pending one-shot. -/
def shotNs (s : State) : Option Nat := s.tb.shot.map fun x => x.2.1.toNat * 1000000000 + x.2.2.toNat

/-- Has the native timebase reached the one-shot's instant? -/
def shotDue (s : State) : Bool := (shotNs s).elim false fun t => decide (t ≤ nowNs s)

/-- `n` ticks pass; a one-shot fires at the first of them at which the native timebase reaches its instant (R270). -/
def passTicks (n : Nat) (s : State) : State :=
  match shotNs s with
  | none => runTicks n s
  | some t =>
    let k := nativeTicks t s
    if k ≤ n && n != 0 then runTicks (n - k) (fireShot (runTicks k s)) else runTicks n s

/-- The ticks until the schedule clock reaches `t` nanoseconds. -/
def ticksTo (t : Nat) (s : State) : Nat :=
  let tb := commitIncr s.tb
  ticksUntil t (tb.schedNs.toNat * 2 ^ 40 + tb.schedFrac.toNat) (schedIncr tb)

/-- The schedule clock reaches the instant a command of the schedule names (log entry 14). -/
def reach (t : Nat) (s : State) : State := passTicks (ticksTo t s) s

/-- The native timebase reaches an instant that is named in it. -/
def reachNative (t : Nat) (s : State) : State := passTicks (nativeTicks t s) s

/-- Local time reaches `t` nanoseconds since the last reset of the unit. -/
def reachLocal (t : Nat) (s : State) : State := passTicks ((t - localNs s + 1) / 2) s

/-- Result of the last timebase command or write. -/
def tbCode (c : Byte) (s : State) : State := updTb (fun t => { t with code := c }) s

/-! ### Increments and offset -/

/-- TB_INCR_LO is held for the requester until it writes the high word (R262, R425). -/
def writeIncrLo (w : Requester) (v : Word) (s : State) : State := tbCode 0 (holdLow w .timebase 0x120 v s)

/-- Is an increment within 1.999 to 2.001 ns (R262)? -/
def incrOk (v : BitVec 44) : Bool :=
  decide (1999 * 2 ^ 40 ≤ v.toNat * 1000) && decide (v.toNat * 1000 ≤ 2001 * 2 ^ 40)

/-- TB_INCR_HI commits both words at the next tick, or is refused with BAD_INCR (R262). -/
def writeIncrHi (who : Requester) (v : Word) (s : State) : State :=
  let (d, s) := commit64 who .timebase 0x120 (join 0 s.tb.incrLo) v s
  let w : BitVec 44 := bits d 0 44
  if incrOk w then tbCode 0 (updTb (fun t => { t with nextIncr := some w }) s) else tbCode 0x80 s

/-- TB_OFFSET's high word commits the offset at the next tick; one that makes presented time negative is refused (R267). -/
def writeOffsetHi (w : Requester) (v : Word) (s : State) : State :=
  let (d, s) := commit64 w .timebase 0x130 s.tb.offset v s
  if (nowNs s : Int) + d.toInt < 0 then tbCode 0x83 s
  else tbCode 0 (updTb (fun t => { t with nextOffset := some d }) s)

/-- A read of TB_NOW_NS latches the rest of native and presented time for the requester (R264). -/
def readNow (w : Requester) (s : State) : State :=
  let p := instantOf (presentedNs s).toNat
  answer (s.tb.ns.setWidth 32)
    (latchPut w .timebase 0x148 ((bits p.sec 32 16).setWidth 32)
    (latchPut w .timebase 0x144 (bits p.sec 0 32)
    (latchPut w .timebase 0x140 (p.ns.setWidth 32)
    (latchPut w .timebase 0x118 ((bits s.tb.sec 32 16).setWidth 32)
    (latchPut w .timebase 0x114 (bits s.tb.sec 0 32) s)))))

/-- A read of TB_GCNT_LO latches the high word (R281). -/
def readGcnt (w : Requester) (s : State) : State :=
  answer (lo32 s.tb.gulny) (latchPut w .timebase 0x150 (hi32 s.tb.gulny) s)

/-! ### Steps (R265, R266) -/

/-- A step in nanoseconds. -/
def stepOf (sec : Word) (ns : BitVec 30) : Nat := sec.toNat * 1000000000 + ns.toNat

/-- STEP is judged when its command is processed: RANGE, BUSY, BIG_STEP in this order (R265). -/
def cmdStep (s : State) : State :=
  let t := s.tb
  if 1000000000 ≤ t.stepNs.toNat || decide (2 ^ 48 - 1 < t.sec.toNat + t.stepSec.toNat + 2) then tbCode 0x83 s
  else if t.stepPending.isSome then tbCode 0x84 s
  else if s.run.state == .running && decide (1000000000 < stepOf t.stepSec t.stepNs) then tbCode 0x81 s
  else tbCode 0 (updTb (fun t => { t with stepPending := some (t.stepSec, t.stepNs) }) s)

/-- An accepted step is added to the native timebase: STEP is raised, no pulse starts for 10 ms at Foothill, and a one-shot
whose instant it passed fires (R265, R266). The record's timestamp is the value before and its parameters are the value after
(log entry 80). -/
def applyStep (s : State) : State :=
  match s.tb.stepPending with
  | none => s
  | some (sec, ns) =>
    let i := instantOf (nowNs s + stepOf sec ns)
    let s := raise .timebase 4 none (.given (i.ns.setWidth 32) (bits i.sec 0 32) ((bits i.sec 32 16).setWidth 32)) s
    let s := updTb (fun t => { t with sec := i.sec, ns := i.ns, stepPending := none }) s
    let s := updField (fun f => { f with tpsHoldUntil := nowNs s + 10000000 }) s
    if shotDue s then fireShot s else s

/-- Do rounds run in a state in which a step waits for the next sample instant (R265)? -/
def stepWaits (s : State) : Bool :=
  s.sched.running && (s.run.state == .running || s.run.state == .observer || s.run.state == .stopped)

/-- TB_STEP_APPLY: a step that no round has to wait for applies; while rounds run it applies at the next sample instant (`boundary`). -/
def stepNow (s : State) : State := if stepWaits s then s else applyStep s

/-- ONESHOT_FIRE: the native timebase reaches the instant of the pending one-shot, which fires (R270, R280). -/
def shotInstant (s : State) : State :=
  match shotNs s with
  | none => s
  | some t =>
    let s := reachNative t s
    if shotDue s then fireShot s else s

/-- GULNY_LOAD: a value below the counter is refused with BACKWARD (R281). -/
def cmdGulny (s : State) : State :=
  if s.tb.gload < s.tb.gulny then tbCode 0x82 s
  else tbCode 0 (updTb (fun t => { t with gulny := t.gload, gulnyFrac := 0 }) s)

/-- Does the tick at which the native timebase reaches `t` come before the lead time of R58 has passed on the schedule clock (R270)? -/
def shotLate (t : Nat) (s : State) : Bool := decide (nativeTicks t s * schedIncr (commitIncr s.tb) < leadNs s * 2 ^ 40)

/-- ONESHOT: LATE, NOT_IDLE and RANGE in the order of R280. -/
def cmdShot (o : Fin 2) (s : State) : State :=
  let t := s.tb
  if shotLate (t.shotSec.toNat * 1000000000 + t.shotNs.toNat) s then tbCode 0x20 s
  else if Vec.at t.ppsEn o || t.shot.isSome then tbCode 0x85 s
  else if 1000000000 ≤ t.shotNs.toNat then tbCode 0x83 s
  else tbCode 0 (updTb (fun t => { t with shot := some (o, t.shotSec, t.shotNs) }) s)

/-! ### Pulses (R278, R279) -/

/-- An edge of PPS_INn captures the native timebase, if it is the one that is selected; a pulse shorter than 100 ns is ignored. -/
def ppsCapture (n : Fin 2) (falling short : Bool) (s : State) : State :=
  if s.tb.ppsInCtrl.getLsbD (2 * n.val) && s.tb.ppsInCtrl.getLsbD (2 * n.val + 1) == falling && !short then
    raise .timebase n.val none .unstated (bump .timebase 0x10 1 (updTb (fun t => { t with
      ppsIn := Vec.upd t.ppsIn n fun p => { cap := nowInstant s, fresh := true, ovr := p.ovr || p.fresh } }) s))
  else s

/-- The ticks until the count that PPS_OUTn selects reaches its next whole second: none where a jump has passed one. -/
def ppsTicks (s : State) (n : Fin 2) : Nat :=
  let ahead := ppsSecond s n + 1
  if (Vec.at s.tb.ppsOut n).sec < ppsSecond s n then 0
  else nativeTicks (ahead * 1000000000 - (if Vec.at s.tb.ppsSrc n then s.tb.offset.toInt else 0)).toNat s

/-- The selected count of an enabled PPS_OUTn reaches a whole second: it rises, unless it follows the last edge by less than 0.5 s. -/
def ppsEdge (n : Fin 2) (s : State) : State :=
  if !Vec.at s.tb.ppsEn n then s else
  let s := passTicks (ppsTicks s n) s
  let p := Vec.at s.tb.ppsOut n
  let s := markSecond n s
  if p.lastEdge.elim true fun t => decide (t + 250000000 ≤ s.tb.tick) then
    updTb (fun t => { t with ppsOut := Vec.upd t.ppsOut n fun p =>
      { p with high := true, lastEdge := some t.tick, endTick := t.tick + pulseTicks (Vec.at t.ppsWidth n) } }) s
  else s

/-- PPS_OUTn falls when its pulse has lasted its width. -/
def ppsFall (n : Fin 2) (s : State) : State :=
  if !(Vec.at s.tb.ppsOut n).high then s else
  updTb (fun t => { t with ppsOut := Vec.upd t.ppsOut n fun p => { p with high := false, oneShot := false } })
    (passTicks ((Vec.at s.tb.ppsOut n).endTick - s.tb.tick) s)

/-- A WIDTH as it is stored: 1 to 1,000 ms. -/
def pulseWidth (w : BitVec 10) : BitVec 10 := if w = 0 then 1 else if 1000 < w then 1000 else w

/-- A write of TB_PPSOUT_CTRL: an output's next edge is due at the next whole second of the count it then selects. A WIDTH of 0 or
above 1,000 is stored as 1 or 1,000. -/
def writePpsOut (v : Word) (s : State) : State :=
  (List.finRange 2).foldl (fun s n => markSecond n s) (updTb (fun t => { t with
    ppsEn := Vec.put (Vec.put t.ppsEn 0 (v.getLsbD 0)) 1 (v.getLsbD 16)
    ppsSrc := Vec.put (Vec.put t.ppsSrc 0 (v.getLsbD 1)) 1 (v.getLsbD 17)
    ppsWidth := Vec.put (Vec.put t.ppsWidth 0 (pulseWidth (bits v 4 10))) 1 (pulseWidth (bits v 20 10)) }) s)

/-- A write of TB_GCNT_INCR: an integer part other than 1, 2 or 3 is refused (R281). -/
def writeGcntIncr (v : Word) (s : State) : State :=
  let n := bits v 24 8
  if n = 1 || n = 2 || n = 3 then tbCode 0 (updTb (fun t => { t with gcntIncr := v }) s) else tbCode 0x80 s

/-! ### The commands -/

/-- TB_INCR_LO_WRITE. -/
def execTbIncrLoWrite (q : Req) (val : Word) (s : State) : Out := .next (onPage q .timebase (writeIncrLo q.who val) s)
/-- TB_INCR_HI_WRITE. -/
def execTbIncrHiWrite (q : Req) (val : Word) (s : State) : Out := .next (onPage q .timebase (writeIncrHi q.who val) s)
/-- TB_NOW_READ. -/
def execTbNowRead (q : Req) (s : State) : Out := .next (onPage q .timebase (readNow q.who) s)
/-- TB_OFFSET_HI_WRITE. -/
def execTbOffsetHiWrite (q : Req) (val : Word) (s : State) : Out := .next (onPage q .timebase (writeOffsetHi q.who val) s)
/-- TB_STEP. -/
def execTbStep (q : Req) (s : State) : Out := .next (onPage q .timebase cmdStep s)
/-- TB_STEP_APPLY. -/
def execTbStepApply (s : State) : Out := .next (stepNow s)
/-- GULNY_LOAD. -/
def execGulnyLoad (q : Req) (s : State) : Out := .next (onPage q .timebase cmdGulny s)
/-- ONESHOT. -/
def execOneshot (q : Req) (out : Fin 2) (s : State) : Out := .next (onPage q .timebase (cmdShot out) s)
/-- ONESHOT_FIRE. -/
def execOneshotFire (s : State) : Out := .next (shotInstant s)
/-- TB_GCNT_READ. -/
def execTbGcntRead (q : Req) (s : State) : Out := .next (onPage q .timebase (readGcnt q.who) s)
/-- PPS_IN_CAPTURE. -/
def execPpsInCapture (n : Fin 2) (falling short : Bool) (s : State) : Out := .next (ppsCapture n falling short s)
/-- PPS_OUT_EDGE. -/
def execPpsOutEdge (n : Fin 2) (s : State) : Out := .next (ppsEdge n s)
/-- PPS_OUT_PULSE_END. -/
def execPpsOutPulseEnd (n : Fin 2) (s : State) : Out := .next (ppsFall n s)

end Sys2Proof.Machine
end

