-- ==== Sys2Proof/Machine/LoopArray.lean ====
section
/-! DEFINITION. The loop array (Ch. 5): the control law, modes, override groups, parameter writes and trace. -/
namespace Sys2Proof.Machine

/-! ### Numbers (R140, log entry 15) -/

/-- Round to nearest, ties to even, no flush. -/
def rne : FMode := ⟨0, false⟩

def fadd32 (x y : Nat) : Nat := (b32.add rne x y).1
def fsub32 (x y : Nat) : Nat := (b32.sub rne x y).1
def fmul32 (x y : Nat) : Nat := (b32.mul rne x y).1
def fdiv32 (x y : Nat) : Nat := (b32.div rne x y).1
def fadd64 (x y : Nat) : Nat := (b64.add rne x y).1
def fsub64 (x y : Nat) : Nat := (b64.sub rne x y).1
def fmul64 (x y : Nat) : Nat := (b64.mul rne x y).1

/-- A value of format `f` in format `g`. -/
def Fmt.conv (f g : Fmt) (x : Nat) : Nat :=
  match f.decode false x with
  | .nan _ => g.qnan
  | .inf neg => g.inf neg
  | .fin neg m e => (g.encode rne neg m e false).1

/-- A binary32 value in binary64. -/
def to64 (x : Nat) : Nat := b32.conv b64 x

/-- A binary64 value rounded to binary32. -/
def to32 (x : Nat) : Nat := b64.conv b32 x

/-- `n` nanoseconds in seconds. -/
def secondsOf (f : Fmt) (n : Nat) : Nat :=
  (f.encode rne false (n * 2 ^ 100 / 1000000000) (-100) (n * 2 ^ 100 % 1000000000 != 0)).1

def flt32 (x y : Nat) : Bool := (b32.cmp rne false x y).1
def fle32 (x y : Nat) : Bool := (b32.cmp rne true x y).1
def flt64 (x y : Nat) : Bool := (b64.cmp rne false x y).1

/-- Is a binary32 pattern a NaN or an infinity (R144)? -/
def notFinite (x : Nat) : Bool := let v := b32.decode false x; v.isNan || v.isInf

/-- The sign of a number: negative, zero or positive. -/
def fsign (f : Fmt) (x : Nat) : Int := if (f.decode false x).isZero then 0 else if f.neg x then -1 else 1

/-- `x` limited to `lo` to `hi`: the value, limited at `hi`, limited at `lo`. -/
def clamp32 (x lo hi : Nat) : Nat × Bool × Bool :=
  if flt32 hi x then (hi, true, false) else if flt32 x lo then (lo, false, true) else (x, false, false)

/-! ### Records (R135 to R139) -/

/-- Word `off` of the record of loop slot `l`. -/
def lrec (a : LoopArray) (l : BitVec 10) (off : Nat) : Word := memWord a.mem (l.toNat * 256 + off)

/-- A word of the record as a number. -/
def lrecN (a : LoopArray) (l : BitVec 10) (off : Nat) : Nat := (lrec a l off).toNat

/-- Write words into the record of slot `l` from offset `off`. -/
def lput (l : BitVec 10) (off : Nat) (ws : List Word) (a : LoopArray) : LoopArray :=
  { a with mem := memWrite a.mem (l.toNat * 256 + off) (bytesOfWords ws) }

/-- The parameter block of a slot as it stands. -/
def paramsOf (a : LoopArray) (l : BitVec 10) : List Word := (List.range 16).map fun k => lrec a l (0xC0 + 4 * k)

/-- Table 5.6. -/
def cfgGroupEn (w : Word) : Bool := w.getLsbD 15
def cfgGroup (w : Word) : Nat := (bits w 8 7).toNat
def cfgOrder (w : Word) : Nat := (bits w 16 3).toNat
def cfgCas (w : Word) : BitVec 10 := bits w 20 10

/-- The CFG word of a slot. -/
def cfgOf (a : LoopArray) (l : BitVec 10) : Word := lrec a l 0xF4

/-- Is a parameter block valid under R139? -/
def blockValid (ws : List Word) : Bool :=
  let p (k : Nat) : Nat := (ws.getD k 0).toNat
  let cfg := ws.getD 13 0
  (List.range 13).all (fun k => !notFinite (p k)) &&
  [0, 1, 2, 3, 12, 10, 11].all (fun k => fle32 0 (p k)) &&
  [4, 5].all (fun k => fle32 0 (p k) && fle32 (p k) 0x3F800000) &&
  fle32 (p 9) (p 8) &&
  cfg &&& 0xC00800FC == 0 && ws.getD 14 0 == 0 && ws.getD 15 0 == 0

/-- Bits of CFG that no write changes. -/
def cfgFixed : Word := 0x3FF7FF00

/-- The mode numbers of Table 5.3. -/
def mMan : Nat := 0
def mAuto : Nat := 1
def mCas : Nat := 2
def mTrk : Nat := 3

/-- Is a mode closed? -/
def closedMode (m : Nat) : Bool := m == mAuto || m == mCas

/-- HAS_PREV of a slot. -/
def hasPrev (a : LoopArray) (l : BitVec 10) : Bool := (lrec a l 0x94).getLsbD 7

/-- MPREV of a slot. -/
def mprev (a : LoopArray) (l : BitVec 10) : Nat := (bits (lrec a l 0x94) 4 3).toNat

/-- The loop slots the active application image gives on a tile, in ascending number. -/
def loopSlots (s : State) (c : Fin 6) : List (BitVec 10) :=
  (List.range 1024).filterMap fun n =>
    if (s.run.active.elim [] fun im => im.loops).any (fun x => x.crest == c && x.loop.toNat == n) then some (BitVec.ofNat 10 n) else none

/-- The members of the override group of a slot in step order, or the slot alone (R145). -/
def groupOf (a : LoopArray) (slots : List (BitVec 10)) (l : BitVec 10) : List (BitVec 10) :=
  let w := cfgOf a l
  if cfgGroupEn w then
    let ms := slots.filter fun k => cfgGroupEn (cfgOf a k) && cfgGroup (cfgOf a k) == cfgGroup w
    (List.range 8).flatMap fun o => ms.filter fun k => cfgOrder (cfgOf a k) == o
  else [l]

/-- The head of a slot's group, or the slot itself. -/
def headOf (a : LoopArray) (slots : List (BitVec 10)) (l : BitVec 10) : BitVec 10 := (groupOf a slots l).headD l

/-- The loop was open at its last step: its effective mode, or its head's, was MAN or TRACK, or it has never stepped (R148, R151). -/
def loopOpen (a : LoopArray) (slots : List (BitVec 10)) (l : BitVec 10) : Bool :=
  let h := headOf a slots l
  !hasPrev a h || !closedMode (mprev a h)

/-- The owner a schedule image gives a loop slot: the TENANT of its loop-step entries (R135), an entry of the head of its group
standing for a member, whose tenant is the head's (R132, R145). -/
def loopOwnerIn (s : State) (im : SchedImage) (c : Fin 6) (l : BitVec 10) : Option (BitVec 3) :=
  let h := headOf (Vec.at s.crests c).loop (loopSlots s c) l
  (im.loopSteps.find? fun e => e.crest.toNat == c.val && (e.loop == l || e.loop == h)).map fun e => e.tenant

/-- The owner of a loop slot under the active schedule image. -/
def loopOwner (s : State) (c : Fin 6) (l : BitVec 10) : Option (BitVec 3) := s.sched.active.bind fun im => loopOwnerIn s im c l

/-- Is a slot scheduled (R132)? -/
def loopScheduled (s : State) (c : Fin 6) (l : BitVec 10) : Bool := (loopOwner s c l).isSome

/-- A slot that is idle or has never stepped: it is open, and a write to it is decided without a step (R148). -/
def loopAtRest (s : State) (c : Fin 6) (l : BitVec 10) : Bool :=
  let a := (Vec.at s.crests c).loop
  !loopScheduled s c l || !hasPrev a (headOf a (loopSlots s c) l)

/-- Does a write find the loop open (R148)? -/
def openToWrite (s : State) (c : Fin 6) (l : BitVec 10) : Bool :=
  loopAtRest s c l || loopOpen (Vec.at s.crests c).loop (loopSlots s c) l

/-! ### The interval h (R140) -/

/-- Slots from the previous scheduled step of slot `l` to the present one, cyclically over the major frame. -/
def hSlots (im : SchedImage) (c : Fin 6) (l : BitVec 10) (round slot : Nat) : Nat :=
  let n := im.roundSlots.toNat
  let ds := (im.loopSteps.filter fun e => e.crest.toNat == c.val && e.loop == l).map fun e =>
    let per := n * 2 ^ e.t.rate.toNat
    let d := (round * n + slot + per * 1024 - (e.t.phase.toNat * n + e.t.slot.toNat)) % per
    if d = 0 then per else d
  ds.foldl min (n * 2 ^ im.maxRate.toNat)

/-! ### Effective mode (R142) -/

/-- A slot's effective mode and the flags it sets; `bad` is a step that holds (R144). -/
structure ModeRes where
  mode : Nat
  bad : Bool
  casFail : Bool
  outerTrk : Bool
  track : Nat
  mreq : Nat
  deriving DecidableEq, Repr

/-- MREQ after MODE_REQ has been taken. -/
def newMreq (a : LoopArray) (l : BitVec 10) : Nat :=
  let r := (bits (lrec a l 0x14) 0 3).toNat
  if 1 ≤ r && r ≤ 4 then r - 1 else (bits (lrec a l 0x94) 0 3).toNat

/-- The inner loop of a slot: the lowest-numbered slot of the tile whose CAS_SRC names it. -/
def innerOf (a : LoopArray) (slots : List (BitVec 10)) (l : BitVec 10) : Option (BitVec 10) :=
  slots.find? fun k => cfgCas (cfgOf a k) == l

/-- The working setpoint of a slot in a mode; a group member without a cascade source takes its SP in CASCADE too (DESIGN CHOICE, log
entry 114). -/
def wspOf (a : LoopArray) (l : BitVec 10) (mode : Nat) : Nat :=
  let src := cfgCas (cfgOf a l)
  if mode == mCas && src != 0x3FF then lrecN a src 0x40 else lrecN a l 0x04

/-- Does a slot use an unusable input in a mode (R144)? -/
def badInput (a : LoopArray) (l : BitVec 10) (mode track : Nat) : Bool :=
  notFinite (lrecN a l 0x00) || (lrec a l 0x14).getLsbD 3 || notFinite (wspOf a l mode) || notFinite (lrecN a l 0x08) ||
  (mode == mMan && notFinite (lrecN a l 0x0C)) || (mode == mTrk && notFinite track)

/-- Rows 4 to 7 of Table 5.7: the mode asked of a slot whose used inputs are usable. -/
def askedMode (a : LoopArray) (slots : List (BitVec 10)) (l : BitVec 10) : ModeRes :=
  let mreq := newMreq a l
  let trk := lrecN a l 0x10
  if mreq == mMan || mreq == mTrk then ⟨mreq, false, false, false, trk, mreq⟩
  else match (innerOf a slots l).filter fun k => mprev a k != mCas with
    | some k => ⟨mTrk, false, false, true, lrecN a k 0x48, mreq⟩
    | none =>
      if mreq == mCas && cfgCas (cfgOf a l) == 0x3FF then ⟨mAuto, false, true, false, trk, mreq⟩
      else ⟨mreq, false, false, false, trk, mreq⟩

/-- A step that holds in a mode: of Table 5.7's flags only BAD is set. -/
def holdMode (a : LoopArray) (l : BitVec 10) (mode : Nat) : ModeRes := ⟨mode, true, false, false, lrecN a l 0x10, newMreq a l⟩

/-- Rows 1 and 3 to 7 of Table 5.7. Under row 5 the value that the slot tracks, its inner loop's WSP, is the used input in place of TRK
(DESIGN CHOICE, log entry 114). -/
def effMode (a : LoopArray) (slots : List (BitVec 10)) (l : BitVec 10) : ModeRes :=
  if !blockValid (paramsOf a l) then holdMode a l mMan
  else
    let r := askedMode a slots l
    if badInput a l r.mode r.track then holdMode a l mTrk else r

/-! ### Terms (R141) -/

/-- The terms of a step. -/
structure Terms where
  wsp : Nat
  e : Nat
  pt : Nat
  y : Nat
  ff : Nat
  dt : Nat
  sum : Nat
  deriving DecidableEq, Repr

/-- Parameter `k` of a slot. -/
def par (a : LoopArray) (l : BitVec 10) (k : Nat) : Nat := lrecN a l (0xC0 + 4 * k)

/-- The terms of slot `l` in a mode, with interval `h` ns; `sum` is pt + dt + ff + bias in binary64. -/
def termsOf (a : LoopArray) (l : BitVec 10) (mode h : Nat) : Terms :=
  let p := par a l
  let flip (x : Nat) : Nat := if (cfgOf a l).getLsbD 0 then b32.flip x else x
  let pv := lrecN a l 0x00
  let wsp := wspOf a l mode
  let y := flip (fsub32 (fmul32 (p 5) wsp) pv)
  let pt := fmul32 (p 0) (flip (fsub32 (fmul32 (p 4) wsp) pv))
  let ff := fmul32 (p 6) (lrecN a l 0x08)
  let dt :=
    if closedMode mode && hasPrev a l && closedMode (mprev a l) then
      fdiv32 (fadd32 (fmul32 (p 3) (lrecN a l 0x88)) (fmul32 (p 2) (fsub32 y (lrecN a l 0x8C))))
        (fadd32 (p 3) (secondsOf b32 h))
    else 0
  { wsp := wsp, e := flip (fsub32 wsp pv), pt := pt, y := y, ff := ff, dt := dt
    sum := fadd64 (fadd64 (fadd64 (to64 pt) (to64 dt)) (to64 ff)) (to64 (p 7)) }

/-- The integrator of a slot, binary64. -/
def integ (a : LoopArray) (l : BitVec 10) : Nat := (memDword a.mem (l.toNat * 256 + 0x80)).toNat

/-- OUT_PREV. -/
def outPrev (a : LoopArray) (l : BitVec 10) : Nat := lrecN a l 0x90

/-- The integral increment ki * h * e in binary64. -/
def incOf (a : LoopArray) (l : BitVec 10) (h e : Nat) : Nat :=
  fmul64 (fmul64 (to64 (par a l 1)) (secondsOf b64 h)) (to64 e)

/-- `lead` + dt + ff + bias, from left to right, rounded to binary32. -/
def sumFrom (a : LoopArray) (l : BitVec 10) (t : Terms) (lead : Nat) : Nat :=
  to32 (fadd64 (fadd64 (fadd64 lead (to64 t.dt)) (to64 t.ff)) (to64 (par a l 7)))

/-- pt + i + dt + ff + bias, rounded to binary32. -/
def sumWith (a : LoopArray) (l : BitVec 10) (t : Terms) (i : Nat) : Nat := sumFrom a l t (fadd64 (to64 t.pt) i)

/-- `prev + rate * h` (or minus), a sum in binary64 rounded once. -/
def rateBound (prev rate h : Nat) (fall : Bool) : Nat :=
  let d := fmul64 (to64 rate) (secondsOf b64 h)
  to32 (if fall then fsub64 (to64 prev) d else fadd64 (to64 prev) d)

/-- The rate limit of slot `l` on `u`. -/
def rateLimit (a : LoopArray) (l : BitVec 10) (h u : Nat) : Nat :=
  if !hasPrev a l then u else
  let up := rateBound (outPrev a l) (par a l 10) h false
  let u := if flt32 0 (par a l 10) && flt32 up u then up else u
  let dn := rateBound (outPrev a l) (par a l 11) h true
  if flt32 0 (par a l 11) && flt32 u dn then dn else u

/-! ### Writing a step -/

/-- What a step of one slot writes. -/
structure StepOut where
  out : Nat
  cand : Nat
  mode : Nat
  hi : Bool
  lo : Bool
  rate : Bool
  awh : Bool
  win : Bool
  sel : Nat
  bad : Bool
  casFail : Bool
  outerTrk : Bool
  grp : Bool
  deriving DecidableEq, Repr

/-- The flags word of Table 5.3. -/
def flagsWord (r : StepOut) (held : Bool) : Word :=
  num r.mode 0 ||| flag r.hi 3 ||| flag r.lo 4 ||| flag r.rate 5 ||| flag r.awh 6 ||| flag r.win 7 ||| num r.sel 8 |||
  flag r.bad 11 ||| flag r.casFail 12 ||| flag r.outerTrk 13 ||| flag held 14 ||| flag r.grp 15

/-- The output block of a step; a step that holds keeps the terms of the block (log entry 16). -/
def putOut (l : BitVec 10) (r : StepOut) (t : Option (Terms × Nat)) (a : LoopArray) : LoopArray :=
  let held := a.held.any fun x => x.1 == l
  let seq := lrec a l 0x64 + 1
  let w (n : Nat) : Word := BitVec.ofNat 32 n
  let mid := match t with
    | some (t, i) => [w t.wsp, w t.e, w t.pt, w (to32 i), w t.dt, w t.ff]
    | none => (List.range 6).map fun k => lrec a l (0x48 + 4 * k)
  let b := lput l 0x40 ([w r.out, w r.cand] ++ mid ++ [flagsWord r held, seq] ++ List.replicate 6 0) a
  { b with lastStep := (l, r.bad) :: a.lastStep.filter fun x => x.1 != l }

/-- The state block after a step. -/
def putState (l : BitVec 10) (i d y out mreq mode cand : Nat) (a : LoopArray) : LoopArray :=
  let bs := bytesOf 8 i ++ bytesOf 4 d ++ bytesOf 4 y ++ bytesOf 4 out ++ bytesOf 4 (mreq + mode * 16 + 128) ++ bytesOf 4 cand
  { a with mem := memWrite a.mem (l.toNat * 256 + 0x80) bs }

/-- The mode word of a state block that otherwise stays: MREQ and MPREV, and HAS_PREV, since a step has now been made. -/
def putModes (l : BitVec 10) (mreq mode : Nat) (a : LoopArray) : LoopArray :=
  lput l 0x94 [num mreq 0 ||| num mode 4 ||| flag true 7] a

/-- MREQ alone, in a state block that otherwise stays (R142, R147). -/
def putMreq (l : BitVec 10) (mreq : Nat) (a : LoopArray) : LoopArray :=
  lput l 0x94 [num mreq 0 ||| num (mprev a l) 4 ||| flag (hasPrev a l) 7] a

/-- A step that holds (R144): OUT keeps OUT_PREV. A slot with an invalid block stays in MAN (R150). -/
def holdStep (l : BitVec 10) (m : ModeRes) (grp : Bool) (a : LoopArray) : LoopArray :=
  let u := outPrev a l
  putOut l { out := u, cand := u, mode := m.mode, hi := false, lo := false, rate := false, awh := false, win := false,
             sel := 0, bad := true, casFail := m.casFail, outerTrk := m.outerTrk, grp := grp } none (putModes l m.mreq m.mode a)

/-- A loop slot outside any group steps (R141). -/
def loopStep (slots : List (BitVec 10)) (h : Nat) (l : BitVec 10) (a : LoopArray) : LoopArray :=
  let m := effMode a slots l
  if m.bad then holdStep l m false a else
  let t := termsOf a l m.mode h
  let p := par a l
  let put (u hi lo rate awh i) : LoopArray :=
    putOut l { out := u, cand := u, mode := m.mode, hi := hi, lo := lo, rate := rate, awh := awh, win := false,
               sel := 0, bad := false, casFail := m.casFail, outerTrk := m.outerTrk, grp := false } (some (t, i))
      (putState l i t.dt t.y u m.mreq m.mode u a)
  if !closedMode m.mode then
    let (u, hi, lo) := clamp32 (if m.mode == mMan then lrecN a l 0x0C else m.track) (p 9) (p 8)
    put u hi lo false false (fsub64 (to64 u) t.sum)
  else
    let wasClosed := hasPrev a l && closedMode (mprev a l)
    let x := integ a l
    let iTry := if wasClosed then fadd64 x (incOf a l h t.e) else fsub64 (to64 (outPrev a l)) t.sum
    let v := sumWith a l t iTry
    let (c, hi, lo) := clamp32 v (p 9) (p 8)
    let u := rateLimit a l h c
    if !(cfgOf a l).getLsbD 1 then
      let awh := u != v && fsign b64 (fsub64 iTry x) == fsign b32 (fsub32 v u)
      put u hi lo (u != c) awh (if awh then x else iTry)
    else
      put u hi lo (u != c) false
        (fadd64 iTry (fmul64 (fmul64 (to64 (p 12)) (secondsOf b64 h)) (fsub64 (to64 u) (to64 v))))

/-! ### Override groups (R146, R147) -/

/-- A member's part of a group step: terms, a valid parameter block, unusable, candidate with its limits. -/
structure Member where
  l : BitVec 10
  t : Terms
  valid : Bool
  bad : Bool
  cand : Option (Nat × Bool × Bool)
  deriving DecidableEq, Repr

/-- Is an input of a member unusable in the mode asked of the group, or its block invalid? -/
def memberBad (a : LoopArray) (head : BitVec 10) (asked : ModeRes) (j : BitVec 10) : Bool :=
  !blockValid (paramsOf a j) || badInput a j asked.mode (if j == head then asked.track else lrecN a j 0x10)

/-- A member's part in a closed or open mode. An unusable member, or one with an invalid block, has its previous candidate (R147; log entry 17). -/
def memberOf (a : LoopArray) (head : BitVec 10) (asked m : ModeRes) (h : Nat) (j : BitVec 10) : Member :=
  let t := termsOf a j m.mode h
  let valid := blockValid (paramsOf a j)
  let bad := memberBad a head asked j
  let cand :=
    if bad then some (lrecN a j 0x98, false, false)
    else if !closedMode m.mode then none
    else if !(hasPrev a head && closedMode (mprev a head)) then some (outPrev a head, false, false)
    else some (clamp32 (sumFrom a j t (fadd64 (fadd64 (to64 t.pt) (integ a j)) (incOf a j h t.e))) (par a j 9) (par a j 8))
  ⟨j, t, valid, bad, cand⟩

/-- The member with the lowest candidate; the earlier in step order wins a tie. -/
def lowSelect (ms : List Member) : Option Member :=
  ms.foldl (fun w j => match w, j.cand with
    | none, some _ => some j
    | some x, some c => if flt32 c.1 (x.cand.elim 0 fun y => y.1) then some j else some x
    | w, none => w) none

/-- The records of a member after the group step. A member that is not usable keeps its state (R147), MREQ apart; its block invalid, it
is in MAN (R150). OUT_PREV and MPREV of the head are the group's (R146; log entry 17). -/
def putMember (a0 : LoopArray) (m : ModeRes) (head : BitVec 10) (w : Option Member) (u : Nat) (lim : Bool × Bool) (rate : Bool)
    (j : Member) (a : LoopArray) : LoopArray :=
  let won := w.elim false fun x => x.l == j.l
  let sel := w.elim 0 fun x => cfgOrder (cfgOf a0 x.l)
  let c := j.cand.getD (u, lim.1, lim.2)
  let r : StepOut :=
    { out := u, cand := c.1, mode := if j.valid then m.mode else mMan, hi := c.2.1, lo := c.2.2, rate := rate, awh := false
      win := won, sel := sel, bad := j.bad, casFail := m.casFail && j.l == head, outerTrk := m.outerTrk && j.l == head
      grp := true }
  let mreq := newMreq a0 j.l
  if j.bad then
    putOut j.l r none
      (if j.l == head then putModes j.l mreq m.mode (lput j.l 0x90 [BitVec.ofNat 32 u] a)
       else if j.valid then putMreq j.l mreq a
       else putModes j.l mreq mMan a)
  else
    let base := fadd64 (fadd64 (to64 j.t.dt) (to64 j.t.ff)) (to64 (par a0 j.l 7))
    let i := fsub64 (to64 u) (if won || w.isNone then j.t.sum else base)
    putOut j.l r (some (j.t, i)) (putState j.l i j.t.dt j.t.y u mreq m.mode c.1 a)

/-- The mode of a group step: the head's by rows 1 and 3 to 7. Row 3 holds the group in TRACK where the head is unusable in MAN or TRACK, and
where no member is usable; in AUTO and CASCADE an unusable head competes like any member (R147; log entry 17). -/
def groupMode (a : LoopArray) (slots g : List (BitVec 10)) (head : BitVec 10) : ModeRes :=
  if !blockValid (paramsOf a head) then holdMode a head mMan
  else
    let m := askedMode a slots head
    if (!closedMode m.mode && memberBad a head m head) || g.all (memberBad a head m) then holdMode a head mTrk else m

/-- The group output before the rate limit in MAN or TRACK: the head's value within its limits, or OUT_PREV where the group holds or the
value is unusable (R144). -/
def groupOpenOut (a : LoopArray) (m : ModeRes) (head : BitVec 10) : Nat × Bool × Bool :=
  let v := if m.mode == mMan then lrecN a head 0x0C else m.track
  if m.bad || notFinite v then (outPrev a head, false, false) else clamp32 v (par a head 9) (par a head 8)

/-- A group steps on its head's entry (R146, R147). -/
def groupStep (slots : List (BitVec 10)) (h : Nat) (g : List (BitVec 10)) (head : BitVec 10) (a : LoopArray) : LoopArray :=
  let m := groupMode a slots g head
  let ms := g.map (memberOf a head (askedMode a slots head) m h)
  let w := if closedMode m.mode then lowSelect ms else none
  let (u0, hi, lo) := groupOpenOut a m head
  let (u, rate) := match w with
    | none => (u0, false)
    | some x =>
      let c := x.cand.elim 0 fun y => y.1
      let r := rateLimit a head h c
      (r, r != c)
  ms.foldl (fun b j => putMember a m head w u (hi, lo) rate j b) a

/-! ### Trace (R153, R154) -/

/-- The loop slot channel `n` follows, if it is in use. -/
def chanLoop (a : LoopArray) (n : Nat) : Option (BitVec 10) :=
  if h : n / 2 < 8 then
    let w := Vec.at a.trcCh ⟨n / 2, h⟩
    if n % 2 = 0 then (if w.getLsbD 15 then some (bits w 0 10) else none)
    else if w.getLsbD 31 then some (bits w 16 10) else none
  else none

/-- Is a slot followed by some channel? -/
def followed (a : LoopArray) (l : BitVec 10) : Bool := (List.range 16).any fun n => chanLoop a n == some l

/-- Does a step of slot `l`, from `a0` to `a`, meet the trigger condition? -/
def trigMet (a0 a : LoopArray) (l : BitVec 10) : Bool :=
  let o := lrec a0 l 0x60
  let n := lrec a l 0x60
  let prev := lrec a0 l 0x64 != 0
  chanLoop a a.trcChan.toNat == some l &&
  (match a.trcSrc.toNat with
   | 1 => prev && (o ^^^ n) &&& 0x7B8 != 0
   | 2 => let e := lrecN a l 0x4C
          fle32 a.trcLevel.toNat (e % 2 ^ 31)
   | 3 => prev && (o ^^^ n) &&& 0x7 != 0
   | _ => false)

/-- The 32-byte trace record of slot `l` (Table 5.10). -/
def trcRecord (a : LoopArray) (l : BitVec 10) (trig : Bool) (time : DWord) : List Byte :=
  let f := lrec a l 0x60
  let w0 := fld l 0 ||| fld (bits f 0 3) 10 ||| fld (bits f 3 5) 13 ||| flag (f.getLsbD 11) 18 ||| fld (bits f 8 3) 19 ||| flag trig 22
  bytesOfWords ([w0, lo32 time] ++ [0x4C, 0x50, 0x54, 0x58, 0x40, 0x5C].map (lrec a l))

/-- The trace after a step of slot `l` (from `a0`): the record, the trigger and the end of the post-trigger records. Whether
the trace was triggered and done. -/
def traceStep (a0 : LoopArray) (l : BitVec 10) (time : DWord) (a : LoopArray) : LoopArray × Bool × Bool :=
  if !followed a l || a.trcState == .idle || a.trcState == .done then (a, false, false) else
  let met := a.trcState == .recording && trigMet a0 a l
  let trig := met || a.trcFired
  let nx := a.trcNext
  let a := { a with
    traceMem := memWrite a.traceMem (nx.toNat * 32) (trcRecord a l trig time)
    trcNext := nx + 1, trcWrapped := a.trcWrapped || nx == BitVec.allOnes 13
    trcRec := if trig then nx else a.trcRec
    trcTime := if trig then time else a.trcTime
    trcFired := false }
  let left := if trig then a.trcPost else if a.trcState == .triggered then a.trcLeft - 1 else a.trcLeft
  let inTrig := trig || a.trcState == .triggered
  if inTrig && left == 0 then
    ({ a with trcState := if a.trcOneshot then .done else .recording, trcLeft := 0 }, met, true)
  else ({ a with trcState := if trig then .triggered else a.trcState, trcLeft := left }, met, false)

/-! ### Parameter writes (R148) -/

/-- Write a parameter block into a slot's record. -/
def putParams (l : BitVec 10) (ws : List Word) (a : LoopArray) : LoopArray := lput l 0xC0 ws a

/-- A slot takes a parameter block for good: its record, whose words are then good (R152), and no block is held. -/
def takeParams (c : Fin 6) (l : BitVec 10) (ws : List Word) (s : State) : State :=
  loopWritten c (l.toNat * 256 + 0xC0) 64 (updLoop c (fun a => { putParams l ws a with held := a.held.filter fun x => x.1 != l }) s)

/-- A write is decided: it is counted and WRITE_DONE is raised (R148). -/
def writeDone (c : Fin 6) (s : State) : State := raise (.loopArray c) 0 none .unstated (bump (.loopArray c) 0x13 1 s)

/-- A pending write is decided: accepted when the loop is open, and then it replaces a held block (R148, R151). -/
def decideWrite (c : Fin 6) (s : State) : State :=
  let a := (Vec.at s.crests c).loop
  match a.pending with
  | none => s
  | some (l, ws) =>
    let ok := openToWrite s c l
    let s := updLoop c (fun a => { a with pending := none, code := if ok then 0 else 0x30 }) s
    writeDone c (if ok then takeParams c l ws.toList s else s)

/-- A held block is applied at the first step at which the loop is open (R151). -/
def applyHeld (slots : List (BitVec 10)) (l : BitVec 10) (a : LoopArray) : LoopArray :=
  match a.held.find? fun x => x.1 == l with
  | some (_, ws) => if loopOpen a slots l then { putParams l ws a with held := a.held.filter fun x => x.1 != l } else a
  | none => a

/-- The slot-start instant of the present step as seconds * 10^9 + nanoseconds of the native timebase. -/
def slotStartTime (s : State) : DWord :=
  match s.sched.active with
  | some im => BitVec.ofNat 64 (nowNs s - (schedNow s - (s.sched.roundNs + s.sched.slot.toNat * slotNsOf im)))
  | none => BitVec.ofNat 64 (nowNs s)

/-- The slots whose records a step of group `g` reads: its members, their cascade sources and the inner loop of its head. -/
def recordsRead (a : LoopArray) (slots g : List (BitVec 10)) (head : BitVec 10) : List (BitVec 10) :=
  g ++ (g.filterMap fun j => let k := cfgCas (cfgOf a j); if k == 0x3FF then none else some k) ++ (innerOf a slots head).toList

/-- The words of the records a step reads that are uncorrectable. -/
def badRecords (c : Fin 6) (ls : List (BitVec 10)) (s : State) : List (Fin 6 × Nat) :=
  (ls.flatMap fun l => loopBad s c (l.toNat * 256) 256).eraseDups

/-- The records a step reads are checked (R152): single-bit errors are corrected, uncorrectable words are handled as R93 says. -/
def checkRecords (c : Fin 6) (ls : List (BitVec 10)) (s : State) : State :=
  foundBad (badRecords c ls s) (ls.foldl (fun s l => correctLoop c (l.toNat * 256) 256 s) s)

/-- One loop-step entry runs (R141, R145): parameters first, then the slot or its group, then the trace. A step that reads an
uncorrectable word writes nothing (R152). `again` tells that the slot has been stepped at this very instant, which is then its previous step
(R140). -/
def runLoopEntry (c : Fin 6) (l : BitVec 10) (again : Bool) (s : State) : State :=
  match s.sched.active with
  | none => s
  | some im =>
    let slots := loopSlots s c
    let g := groupOf (Vec.at s.crests c).loop slots l
    if g.headD l != l then s else
    let ls := recordsRead (Vec.at s.crests c).loop slots g l
    let bad := badRecords c ls s
    let s := checkRecords c ls s
    if !bad.isEmpty then s else
    let s := if (Vec.at s.crests c).loop.pending.elim false fun p => g.contains p.1 then decideWrite c s else s
    let s := updLoop c (fun a => g.foldl (fun a j => applyHeld slots j a) a) s
    let a0 := (Vec.at s.crests c).loop
    let h := if again then 0 else hSlots im c l s.sched.round.toNat s.sched.slot.toNat * slotNsOf im
    let a1 := if cfgGroupEn (cfgOf a0 l) then groupStep slots h g l a0 else loopStep slots h l a0
    let time := slotStartTime s
    let s1 := noteConds [.loopArray c] s (updLoop c (fun _ => a1) s)
    let s1 := bump (.loopArray c) 0x11 (g.countP fun j => (lrec a1 j 0x60).getLsbD 11) (bump (.loopArray c) 0x10 g.length s1)
    g.foldl (fun s j =>
      let a := (Vec.at s.crests c).loop
      let r := traceStep a0 j time a
      let s := bump (.loopArray c) 0x12 (if r.1.trcNext == a.trcNext then 0 else 1) (updLoop c (fun _ => r.1) s)
      let s := if r.2.1 then raise (.loopArray c) 1 none .unstated s else s
      if r.2.2 then raise (.loopArray c) 2 none .unstated s else s) s1

/-- The tenant number a request carries (R330): a core's tag, unless it is the kernel's; none for the others. -/
def reqTenant (q : Req) (s : State) : Option (BitVec 3) :=
  let core (i : Fin 4) : Option (BitVec 3) :=
    let t := Vec.at s.super.tags i
    if t.kernel then none else some t.tenant
  match q.who with
  | .s0 => core 0
  | .s1 => core 1
  | .s2 => core 2
  | .s3 => core 3
  | .security => none
  | .host => none

/-- WRITE: BUSY, OWNER and BAD_VALUE are decided at the command (R148). A write acts on this device alone (R149). BUSY leaves the pending
write and its WRITE_DONE as they are (log entry 95). A request with a tenant number is refused with OWNER for a slot that has no owner
(DESIGN CHOICE, log entry 114). -/
def cmdLpaWrite (q : Req) (c : Fin 6) (s : State) : State :=
  let a := (Vec.at s.crests c).loop
  let code (k : Byte) : State := updLoop c (fun a => { a with code := k }) s
  let foreign := match reqTenant q s, loopOwner s c a.sel with
    | some t, some o => t != o
    | some _, none => true
    | none, _ => false
  if a.pending.isSome then code 0x31
  else if foreign then writeDone c (code 0x32)
  else if !blockValid a.params.toList || (Vec.at a.params 13 ^^^ cfgOf a a.sel) &&& cfgFixed != 0 then writeDone c (code 0x33)
  else updLoop c (fun a => { a with pending := some (a.sel, a.params) }) s

/-- READ copies the selected record. -/
def cmdLpaRead (c : Fin 6) (s : State) : State :=
  updLoop c (fun a => { a with rd := Vector.ofFn fun i : Fin 64 => lrec a a.sel (4 * i.val) }) s

/-- ARM with ENABLE set enters RECORDING. -/
def cmdTrcArm (c : Fin 6) (s : State) : State :=
  updLoop c (fun a => if a.trcEnable then { a with trcState := .recording, trcWrapped := false, trcFired := false } else a) s

/-- FIRE in RECORDING triggers; the next record is the trigger record. -/
def cmdTrcFire (c : Fin 6) (s : State) : State :=
  if (Vec.at s.crests c).loop.trcState == .recording then
    raise (.loopArray c) 1 none .unstated (updLoop c (fun a => { a with trcState := .triggered, trcFired := true }) s)
  else s

/-- ENABLE written 0 returns tracing to IDLE. -/
def cmdTrcDisable (c : Fin 6) (s : State) : State :=
  updLoop c (fun a => { a with trcEnable := false, trcState := .idle, trcFired := false }) s

/-- LPA_WRITE. -/
def execLpaWrite (q : Req) (c : Fin 6) (s : State) : Out := .next (onPage q (.loopArray c) (cmdLpaWrite q c) s)
/-- LPA_WRITE_DECIDE: the decision of a write to a slot that is idle or has never stepped; any other waits for its slot's next step
(R148). -/
def execLpaWriteDecide (c : Fin 6) (s : State) : Out :=
  .next (if (Vec.at s.crests c).loop.pending.elim false fun p => loopAtRest s c p.1 then decideWrite c s else s)
/-- LPA_READ. -/
def execLpaRead (q : Req) (c : Fin 6) (s : State) : Out := .next (onPage q (.loopArray c) (cmdLpaRead c) s)
/-- TRC_ARM. -/
def execTrcArm (q : Req) (c : Fin 6) (s : State) : Out := .next (onPage q (.loopArray c) (cmdTrcArm c) s)
/-- TRC_FIRE. -/
def execTrcFire (q : Req) (c : Fin 6) (s : State) : Out := .next (onPage q (.loopArray c) (cmdTrcFire c) s)
/-- TRC_DISABLE. -/
def execTrcDisable (q : Req) (c : Fin 6) (s : State) : Out := .next (onPage q (.loopArray c) (cmdTrcDisable c) s)

end Sys2Proof.Machine
end

