-- ==== Sys2Proof/Machine/Envelope.lean ====
section
/-! DEFINITION. Signed envelopes and the life cycle (R379, R380, R386). -/
namespace Sys2Proof.Machine

/-! ### Bytes -/

/-- Supervisor SRAM in bytes (R326). -/
def sramSize : Nat := 0x2000000

/-- The little-endian number of `n` bytes at offset `o`. -/
def leAt (bs : List Byte) (o n : Nat) : Nat := ofBytes ((bs.drop o).take n)

/-- The big-endian number of `n` bytes at offset `o`. -/
def beAt (bs : List Byte) (o n : Nat) : Nat := ofBytes ((bs.drop o).take n).reverse

/-- Are the `n` bytes at offset `o` all 0? -/
def zeroAt (bs : List Byte) (o n : Nat) : Bool := ((bs.drop o).take n).all fun b => b == 0

/-! ### Life cycle (R386) -/

/-- The life-cycle state: 0 MANUFACTURE, 1 PROVISIONED, 2 OPERATIONAL, 3 DECOMMISSIONED (Table 15.6). -/
def lcState (o : Otp) : Nat :=
  if !o.groups.getLsbD 1 then 0 else if !o.groups.getLsbD 3 then 1 else if !o.groups.getLsbD 5 then 2 else 3

/-- The transition that was begun and not committed: its target state. -/
def begunTarget (o : Otp) : Option Nat :=
  let g := lcState o
  if g < 3 && o.groups.getLsbD (2 * g) then some (g + 1) else none

/-- The instructions of the test port that Table 15.6 names. -/
inductive JtagInstr where
  | idcode | bypass | sample | extest | debug
  deriving DecidableEq, Repr

/-- The life-cycle state whose JTAG limits are in force: the target's once its begin bit is burnt (R387). -/
def jtagOf (o : Otp) : BitVec 2 := BitVec.ofNat 2 ((begunTarget o).getD (lcState o))

/-- The JTAG column of Table 15.6 under a limit. -/
def jtagAllows (limit : BitVec 2) : JtagInstr → Bool
  | .idcode | .bypass => true
  | .sample | .extest => decide (limit.toNat ≤ 1)
  | .debug => limit == 0

/-! ### Records in two copies (R382) -/

/-- The copy a new record goes to: one that holds no valid record, else the one with the older sequence number. -/
def olderCopy (a b : Option Word) : Fin 2 :=
  match a, b with
  | none, _ => 0
  | _, none => 1
  | some x, some y => if x ≤ y then 0 else 1

/-- The copy in force at a start: the valid one with the later sequence number. -/
def laterCopy (a b : Option Word) : Option (Fin 2) :=
  match a, b with
  | none, none => none
  | some _, none => some 0
  | none, some _ => some 1
  | some x, some y => if x ≤ y then some 1 else some 0

/-- A slot state's code in UPD_SLOT (R399). -/
def slotCode : SlotState → Nat
  | .empty => 0
  | .valid => 1
  | .active => 2
  | .trial => 3
  | .rejected => 4

/-- The content of a boot record that its CRC covers (its byte layout: log entry 121). -/
def bootBytes (r : BootRecord) : List Byte :=
  bytesOf 4 r.seq.toNat ++ bytesOf 1 (slotCode r.stateA) ++ bytesOf 1 (slotCode r.stateB) ++ bytesOf 1 r.starts.toNat ++
  bytesOf 2 r.window.toNat ++ bytesOf 1 (if r.current then 1 else 0)

/-- The sequence number of a boot-record copy whose CRC is right. -/
def bootSeqOf (r : Option BootRecord) : Option Word := r.bind fun x => if x.crc == crc32c (bootBytes x) then some x.seq else none

/-- A new boot record with the next sequence number, in the copy that holds the older one. -/
def writeBoot (s : State) : State :=
  let x := s.flash
  let r : BootRecord := ⟨x.bootSeq + 1, x.slotA.state, x.slotB.state, x.starts, x.window, x.current, 0⟩
  { s with flash := { x with
      bootSeq := x.bootSeq + 1
      boot := Vec.put x.boot (olderCopy (bootSeqOf (Vec.at x.boot 0)) (bootSeqOf (Vec.at x.boot 1))) (some { r with crc := crc32c (bootBytes r) }) } }

/-- At a start the later valid copy is in force; a flash that holds none is blank. -/
def readBoot (s : State) : State :=
  let x := s.flash
  match (laterCopy (bootSeqOf (Vec.at x.boot 0)) (bootSeqOf (Vec.at x.boot 1))).bind fun k => Vec.at x.boot k with
  | some r => { s with flash := { x with
      bootSeq := r.seq, slotA := { x.slotA with state := r.stateA }, slotB := { x.slotB with state := r.stateB }
      starts := r.starts, window := r.window, current := r.current } }
  | none => s

/-- The content of a secure-store record that its CRC covers: the keys wrapped under the device storage key (its byte layout: log entry 121). -/
def secBytes (o : Otp) (seq : Word) (c : SecStore) : List Byte :=
  bytesOf 4 seq.toNat ++ (c.cak.elim [] (Config.wrapCak o.storageKey)) ++ (c.cakNext.elim [] (Config.wrapCak o.storageKey)) ++
  bytesOf 1 (if c.ownerLock then 1 else 0) ++ c.ticket.elim [] fun t => t.1 ++ t.2

/-- The sequence number of a secure-store copy whose CRC is right. -/
def secSeqOf (o : Otp) (r : Option SecRecord) : Option Word :=
  r.bind fun x => if x.crc == crc32c (secBytes o x.seq x.content) then some x.seq else none

/-- A new secure-store record with the next sequence number, in the copy that holds the older one. -/
def writeStoreRec (s : State) : State :=
  let x := s.flash
  { s with flash := { x with
      secSeq := x.secSeq + 1
      sec := Vec.put x.sec (olderCopy (secSeqOf s.otp (Vec.at x.sec 0)) (secSeqOf s.otp (Vec.at x.sec 1)))
        (some ⟨x.secSeq + 1, s.store, crc32c (secBytes s.otp (x.secSeq + 1) s.store)⟩) } }

/-- At a start the later valid copy of the secure store is in force. -/
def readStoreRec (s : State) : State :=
  let x := s.flash
  match (laterCopy (secSeqOf s.otp (Vec.at x.sec 0)) (secSeqOf s.otp (Vec.at x.sec 1))).bind fun k => Vec.at x.sec k with
  | some r => { s with store := r.content, flash := { x with secSeq := r.seq } }
  | none => s

/-- A change of the secure store. -/
def updStore (f : SecStore → SecStore) (s : State) : State := writeStoreRec { s with store := f s.store }

/-- The running slot, and the other. -/
def runningSlot (s : State) : FwSlot := if s.upd.runningB then s.flash.slotB else s.flash.slotA
def otherSlot (s : State) : FwSlot := if s.upd.runningB then s.flash.slotA else s.flash.slotB

/-- Change the slot that is not running. -/
def updOther (f : FwSlot → FwSlot) (s : State) : State :=
  { s with flash := if s.upd.runningB then { s.flash with slotA := f s.flash.slotA } else { s.flash with slotB := f s.flash.slotB } }

/-- Change the running slot. -/
def updRunning (f : FwSlot → FwSlot) (s : State) : State :=
  { s with flash := if s.upd.runningB then { s.flash with slotB := f s.flash.slotB } else { s.flash with slotA := f s.flash.slotA } }

/-! ### Envelopes -/

/-- Types of Table 15.2. -/
inductive EnvType where
  | firmware | app | sched | ticket
  deriving DecidableEq, Repr

/-- The `TYPE` byte. -/
def EnvType.byte : EnvType → Nat
  | .firmware => 1
  | .app => 2
  | .sched => 3
  | .ticket => 4

/-- The fields of an envelope's 256 bytes. -/
def envOf (bs : List Byte) : Envelope :=
  { type := BitVec.ofNat 8 (leAt bs 6 1), signer := BitVec.ofNat 8 (leAt bs 7 1), length := BitVec.ofNat 32 (leAt bs 8 4)
    compat := BitVec.ofNat 16 (leAt bs 0xC 2), svn := BitVec.ofNat 8 (leAt bs 0xE 1), confirm := BitVec.ofNat 32 (leAt bs 0x10 4)
    serial := BitVec.ofNat 64 (leAt bs 0x18 8), nonce := BitVec.ofNat 64 (leAt bs 0x20 8)
    digest := BitVec.ofNat 384 (leAt bs 0x30 48), sigR := BitVec.ofNat 384 (beAt bs 0x60 48), sigS := BitVec.ofNat 384 (beAt bs 0x90 48) }

/-- The operation of a ticket's payload (R389) and the target state it names. -/
def ticketOp (payload : List Byte) : Nat := leAt payload 0 1
def ticketTarget (payload : List Byte) : Nat := leAt payload 4 1 % 4

/-- Does the operation want a vendor signer (some true), the owner's (some false), or is it none of Table 15.9 (none)? -/
def ticketVendor (payload : List Byte) : Option Bool :=
  match ticketOp payload with
  | 1 => some (ticketTarget payload == 1)
  | 2 | 3 | 4 | 5 => some false
  | 6 => some true
  | _ => none

/-- Is the signer accepted for a type, operation and life-cycle state (R380, Table 15.7, Table 15.9)? -/
def signerOk (s : State) (ty : EnvType) (payload : List Byte) (signer : Nat) : Bool :=
  let lc := lcState s.otp
  let vendor := decide (signer < 4) && !s.otp.revoked.getLsbD signer
  let owner := signer == 8
  lc != 3 &&
  (match ty with
   | .firmware => vendor
   | .app | .sched => if lc == 0 then vendor else owner
   | .ticket => match ticketVendor payload with
     | some true => vendor
     | some false => owner
     | none => false)

/-- The key hash a signer's signature is checked under (Table 15.1). -/
def signerKey (s : State) (signer : Nat) : BitVec 384 :=
  if h : signer < 4 then Vec.at s.otp.vendor ⟨signer, h⟩ else s.otp.owner

/-- The checks of Table 15.3 in order: 0 when all pass. `anyNonce` leaves out the nonce (R388), `anyLock` the owner lock (R384). -/
def checkEnv (s : State) (ty : EnvType) (env payload : List Byte) (anyNonce anyLock : Bool) : Byte :=
  let e := envOf env
  let device := e.serial == s.otp.serial
  if leAt env 0 4 != 0x56454E4C || leAt env 4 2 != 0x100 || e.type.toNat != ty.byte ||
      !(zeroAt env 0xF 1 && zeroAt env 0x14 4 && zeroAt env 0x28 8 && zeroAt env 0xC0 64) || e.length.toNat != payload.length then 0xD0
  else if !signerOk s ty payload e.signer.toNat then 0xD1
  else if !Config.ecdsaOk (signerKey s e.signer.toNat) (Config.sha384 (env.take 0x60)) ((env.drop 0x60).take 96) then 0xD2
  else if Config.sha384 payload != e.digest then 0xD3
  else if (match ty with
           | .ticket => !device || (!anyNonce && e.nonce != s.sec.nonce)
           | _ => e.serial != 0 && !device) then 0xD4
  else if ty == .firmware && decide (e.svn.toNat < s.otp.svn.toNat) then 0xD5
  else if (match ty with
           | .app => decide ((runningSlot s).compat < e.compat)
           | .sched => decide ((runningSlot s).compat < e.compat) || leAt payload 0x28 2 != e.compat.toNat
           | _ => false) then 0xD6
  else if !anyLock && s.store.ownerLock && !(ty == .ticket && ticketOp payload == 3) then 0xD7
  else 0

/-- The envelope of an application or schedule image stands at the first 64-byte boundary after it (R379): its bytes, if it lies
within supervisor SRAM. -/
def imageEnvelope (s : State) (base len : Nat) : Option (List Byte) :=
  let at64 := (base + len + 63) / 64 * 64
  if at64 + 256 ≤ sramSize then some (memRead s.sram at64 256) else none

/-- The envelope check of an image loaded from SRAM: the code of Table 15.3 (BAD_ENVELOPE outside SRAM), and the envelope. -/
def checkImage (s : State) (ty : EnvType) (base len : Nat) : Byte × Option Envelope :=
  match imageEnvelope s base len with
  | none => (0xD0, none)
  | some env => (checkEnv s ty env (memRead s.sram base len) false false, some (envOf env))

end Sys2Proof.Machine
end

