-- ==== Sys2Proof/Machine/Endpoint.lean ====
section
/-! DEFINITION. Addresses of the schedule image: the tile they name, the pool, the endpoint spaces and who may write them (R36,
R135, R221, R246, R297, R317). -/
namespace Sys2Proof.Machine

/-- Who holds an endpoint area that tenants may write. -/
inductive Holder where
  | loop (crest : Nat) (l : BitVec 10)
  | io (cls inst : Nat)
  | can (c : Nat)
  | uart (u : Nat)
  deriving DecidableEq, Repr

/-- Who may write an endpoint flit by a scheduled transfer. `latch` is a part that nobody may write, of a unit whose areas only its owner and
the device may name (R317). -/
inductive WriteRight where
  | never | device | held (h : Holder) | latch (h : Holder)
  deriving DecidableEq, Repr

/-- May a flit be read, and who may write it. -/
structure Rights where
  read : Bool
  write : WriteRight
  deriving DecidableEq, Repr

/-- Bytes of the pool of a configuration (R19). -/
def poolSize (p : Part) : Nat := p.crests * 0x800000

/-- The tile that holds an address, if it is present (R19, R36). -/
def tileOf (p : Part) (a : Word) : Option Nat :=
  if isPool a then (if a.toNat < poolSize p then some (a.toNat / 0x800000 + 1) else none)
  else if p.hasTile (epTile a) then some (epTile a) else none

/-- Table 5.1. -/
def crestRights (t off : Nat) : Option Rights :=
  if off < 0x40000 then
    match off % 0x100 / 0x40 with
    | 0 => some ⟨true, .held (.loop (t - 1) (BitVec.ofNat 10 (off / 0x100)))⟩
    | 2 => some ⟨true, .device⟩
    | _ => some ⟨true, .never⟩
  else if 0x100000 ≤ off && off < 0x140000 then some ⟨true, .never⟩ else none

/-- Table 8.2 and Table 9.1. -/
def fieldRights (off : Nat) : Option Rights :=
  if off < 0x300 || (0x400 ≤ off && off < 0x480) || (0x2200 ≤ off && off < 0x2240) then some ⟨true, .never⟩
  else if 0x1000 ≤ off && off < 0x10C0 then some ⟨false, .held (.io 2 ((off - 0x1000) / 64))⟩
  else if 0x10C0 ≤ off && off < 0x1100 then some ⟨false, .held (.io 3 0)⟩
  else if 0x1100 ≤ off && off < 0x1180 then some ⟨false, .held (.io 4 ((off - 0x1100) / 64))⟩
  else if 0x2000 ≤ off && off < 0x2200 then some ⟨false, .held (.io 5 0)⟩
  else none

/-- Table 11.4 and Table 12.5. -/
def saddleRights (off : Nat) : Option Rights :=
  if 0x1000000 ≤ off && off < 0x1080000 then some ⟨true, .never⟩
  else if 0x1800000 ≤ off && off < 0x1880000 then some ⟨false, .held (.io 6 ((off - 0x1800000) / 0x800))⟩
  else if 0x2000000 ≤ off && off < 0x2C00000 then some ⟨true, .never⟩
  else if 0x3000000 ≤ off && off < 0x3020000 then some ⟨true, .latch (.can ((off - 0x3000000) / 0x2000))⟩
  else if 0x3200000 ≤ off && off < 0x3220000 then some ⟨false, .held (.can ((off - 0x3200000) / 0x2000))⟩
  else if 0x3400000 ≤ off && off < 0x3408000 then some ⟨true, .latch (.uart ((off - 0x3400000) / 0x1000))⟩
  else none

/-- The rights of an endpoint flit; none where it is unmapped or its tile absent. -/
def rightsAt (p : Part) (a : Word) : Option Rights :=
  let t := epTile a
  if !p.hasTile t then none
  else if t = 0 then saddleRights (epOff a)
  else if t = 7 then fieldRights (epOff a)
  else crestRights t (epOff a)

/-- Do `n` flits from an address lie in the pool? -/
def inPool (p : Part) (a : Word) (n : Nat) : Bool := isPool a && decide (a.toNat + 64 * max n 1 ≤ poolSize p)

/-- Does every flit of a span hold `f` of its rights? -/
def spanHas (p : Part) (a : Word) (n : Nat) (f : Rights → Bool) : Bool :=
  decide (epOff a + 64 * n ≤ 2 ^ 28) &&
  (List.range n).all fun k => (rightsAt p (a + BitVec.ofNat 32 (64 * k))).elim false f

/-- May a scheduled transfer or capture read the span (POOL_RANGE otherwise)? -/
def spanReadable (p : Part) (a : Word) (n : Nat) : Bool :=
  if isPool a then inPool p a n else spanHas p a n fun r => r.read

/-- May a transfer write the span, leaving the owner of a held area aside (POOL_RANGE otherwise)? -/
def spanWritable (p : Part) (device : Bool) (a : Word) (n : Nat) : Bool :=
  if isPool a then inPool p a n else spanHas p a n fun r => match r.write with
    | .never => false
    | .device => device
    | .held _ => true
    | .latch _ => !device

/-! ### Routes (R37) -/

/-- The fabric port a port code names at a tile; the field link is port 8 of the hub and port 0 of Foothill. -/
def codePort (t code : Nat) : Option Nat :=
  if code = 9 then (if t = 0 then some 8 else if t = 7 then some 0 else none)
  else if t = 7 then none
  else if t = 0 then (if code < 8 then some code else none)
  else if code < 4 then some code else none

/-- SRC and DST of a route word. -/
def routeSrc (w : Word) : Nat := (bits w 0 3).toNat
def routeDst (w : Word) : Nat := (bits w 3 3).toNat
def routeCodes (w : Word) : Nat := (bits w 6 3).toNat
/-- Port code `k` of a route word, from 0. R37 gives 1 to 5 codes; the codes past the fifth, for which the word has no bits, read 0
(DESIGN CHOICE, log entry 108). -/
def routePort (w : Word) (k : Nat) : Nat := w.toNat / 2 ^ (12 + 4 * k) % 16

/-- The link directions the port codes cross from tile `t`, if they end with a delivery at `dst`. -/
def walkRoute (p : Part) (dst : Nat) : Nat → List Nat → Option (List (Nat × Bool))
  | _, [] => none
  | t, [c] => if c = 8 && t = dst then some [] else none
  | t, c :: r =>
    match (codePort t c).bind (p.hop t) with
    | some (l, back, t') => (walkRoute p dst t' r).map fun ds => (l, back) :: ds
    | none => none

/-- The link directions of a route word that is valid under R37. -/
def routeDirs (p : Part) (w : Word) : Option (List (Nat × Bool)) :=
  let n := routeCodes w
  if 1 ≤ n && n ≤ 5 && (List.range 5).all (fun k => k < n || routePort w k == 0) && p.hasTile (routeSrc w) then
    walkRoute p (routeDst w) (routeSrc w) ((List.range n).map (routePort w))
  else none

/-- Route entry `i` of an image; absent entries read as 0. -/
def routeAt (im : SchedImage) (i : Nat) : Word := im.routes[i]?.getD 0

/-- The link directions of route entry `i`; none where it is not valid. -/
def entryDirs (p : Part) (im : SchedImage) (i : Nat) : List (Nat × Bool) := (routeDirs p (routeAt im i)).getD []

/-- The link directions toward Saddle of a trio exchange or capture that reads `a` (R45). -/
def saddleDirs (p : Part) (im : SchedImage) (a : Word) : List (Nat × Bool) :=
  match tileOf p a with
  | some t => if t = 0 then [] else entryDirs p im (8 * t)
  | none => []

end Sys2Proof.Machine
end

