-- ==== Sys2Proof/Machine/SchedImage.lean ====
section
/-! DEFINITION. The bytes of a schedule image: header, directory and tables (R32 to R52), and the checks of codes 0x02 to 0x08. -/
namespace Sys2Proof.Machine

/-- A failed check: its code, the table and the entry at fault (R56). -/
structure Fail where
  code : Nat
  table : Nat
  index : Nat
  deriving DecidableEq, Repr

/-- `none` when the check holds. -/
def require (ok : Bool) (f : Fail) : Option Fail := if ok then none else some f

/-- The first entry of an indexed list that breaks a check. -/
def firstBad {α : Type} (code table : Nat) (l : List α) (ok : Nat → α → Bool) : Option Fail :=
  (l.zipIdx.find? fun x => !ok x.2 x.1).map fun x => ⟨code, table, x.2⟩

/-- The little-endian number of `n` bytes of an image at offset `o`. -/
def imgLe (b : Array Byte) (o : Nat) : Nat → Nat
  | 0 => 0
  | n + 1 => (b.getD o 0).toNat + 256 * imgLe b (o + 1) n

/-- A word of an image. -/
def imgWord (b : Array Byte) (o : Nat) : Word := BitVec.ofNat 32 (imgLe b o 4)

/-- Are the bytes from `o` up to `e` all 0? -/
def imgZero (b : Array Byte) (o e : Nat) : Bool := (List.range (e - o)).all fun k => b.getD (o + k) 0 == 0

/-! ### Tables (Table 2.6) -/

/-- A directory entry (Table 2.5). -/
structure DirEntry where
  idx : Nat
  id : Nat
  size : Nat
  off : Nat
  count : Nat
  resv : Bool
  zero : Bool
  deriving DecidableEq, Repr

/-- Entry sizes by table. -/
def tableSize : Nat → Option Nat
  | 1 => some 32
  | 2 | 4 | 8 => some 24
  | 3 | 5 => some 8
  | 6 | 7 | 9 | 0xA | 0xB | 0xC => some 16
  | _ => none

/-- The tables that must be present with an entry. -/
def requiredTables : List Nat := [1, 2, 3, 5, 0xC]

/-- The tables whose entries begin with a timing word. -/
def timedTables : List Nat := [2, 4, 6, 7, 8, 9, 0xA, 0xB]

/-- The directory. -/
def dirEntries (b : Array Byte) : List DirEntry :=
  (List.range 16).map fun i =>
    let o := 0x80 + 16 * i
    { idx := i, id := imgLe b o 1, size := imgLe b (o + 2) 2, off := imgLe b (o + 4) 4, count := imgLe b (o + 8) 4
      resv := imgLe b (o + 1) 1 != 0 || imgLe b (o + 12) 4 != 0, zero := imgZero b o (o + 16) }

/-- TABLES. -/
def tableCount (b : Array Byte) : Nat := imgLe b 0x2A 2

/-- The entries of the directory in use. -/
def usedEntries (b : Array Byte) : List DirEntry := (dirEntries b).take (tableCount b)

/-- The directory entry of a table. -/
def dirOf (b : Array Byte) (id : Nat) : Option DirEntry := (usedEntries b).find? fun d => d.id == id

/-- The words of each entry of a table. -/
def rowsOf (b : Array Byte) (id : Nat) : List (List Word) :=
  match dirOf b id with
  | some d => (List.range d.count).map fun i => (List.range (d.size / 4)).map fun k => imgWord b (d.off + d.size * i + 4 * k)
  | none => []

/-! ### The tables as data -/

/-- The timing word of an entry (Table 2.7). -/
def timingOf (w : List Word) : Timing :=
  ⟨bits (w.getD 0 0) 0 20, bits (w.getD 0 0) 20 4, bits (w.getD 1 0) 0 2 ++ bits (w.getD 0 0) 24 8⟩

/-- Table 2.10. -/
def stepOfRow (w : List Word) : StepDesc :=
  let a (k : Nat) := w.getD k 0
  { tenant := bits (a 0) 0 3, task := bits (a 0) 8 8, step := bits (a 0) 16 16, codeAddr := a 1, codeLen := bits (a 2) 0 9
    stateLen := bits (a 2) 16 9, stateIn := a 3, stateOut := a 4, worstNs := a 5, readsInput := (a 6).getLsbD 0
    writesOutput := (a 6).getLsbD 1 }

/-- Table 2.11. -/
def engineStepOfRow (w : List Word) : EngineStep :=
  let a (k : Nat) := w.getD k 0
  { t := timingOf w, logical := bits (a 2) 0 4, crest := bits (a 2) 4 3, desc := bits (a 3) 0 20, routeCode := bits (a 4) 0 16
    routeIn := bits (a 4) 16 16, routeOut := bits (a 5) 0 16 }

/-- Table 2.12. -/
def transferOfRow (w : List Word) : Transfer :=
  let a (k : Nat) := w.getD k 0
  { t := timingOf w, src := a 2, dst := a 3, len := bits (a 4) 0 16, route := bits (a 4) 16 16, owner := bits (a 5) 0 3
    device := (a 5).getLsbD 3 }

/-- Table 2.13. -/
def windowOfRow (w : List Word) : OpenWindow :=
  let a (k : Nat) := w.getD k 0
  { slot := bits (a 0) 0 20, link := bits (a 1) 0 5, dir := (a 1).getLsbD 5, offset := bits (a 1) 8 4 }

/-- Table 2.14. -/
def loopStepOfRow (w : List Word) : LoopStep :=
  let a := w.getD 2 0
  { t := timingOf w, loop := bits a 0 10, crest := bits a 10 3, tenant := bits a 16 3 }

/-- Table 2.15. -/
def ioGroupOfRow (w : List Word) : IoGroup :=
  let a (k : Nat) := w.getD k 0
  { t := timingOf w, cls := bits (a 2) 0 8, inst := bits (a 2) 8 8, owner := bits (a 2) 16 3, device := (a 2).getLsbD 19
    sample := (a 3).getLsbD 0, commit := (a 3).getLsbD 1 }

/-- Table 2.16. -/
def gateOfRow (w : List Word) : Gate :=
  let a (k : Nat) := w.getD k 0
  { t := timingOf w, port := bits (a 2) 0 3, opens := bits (a 2) 8 8, start := bits (a 3) 0 16, duration := a 4 }

/-- Table 2.17. -/
def canSlotOfRow (w : List Word) : CanSlot :=
  let a (k : Nat) := w.getD k 0
  { t := timingOf w, ctrl := bits (a 2) 0 4, buffer := bits (a 2) 4 6, offset := bits (a 3) 0 16 }

/-- Table 2.18. -/
def exchangeOfRow (w : List Word) : TrioExchange :=
  let a (k : Nat) := w.getD k 0
  { t := timingOf w, kind := bits (a 2) 0 4, len := bits (a 2) 16 16, addr := a 3 }

/-- Table 2.19. -/
def captureOfRow (w : List Word) : Capture :=
  let a (k : Nat) := w.getD k 0
  { t := timingOf w, src := a 2, len := bits (a 3) 0 16, tenant := bits (a 3) 16 3, cls := bits (a 3) 19 2, group := bits (a 3) 21 8 }

/-- Table 2.20. -/
def remapOfRow (w : List Word) : Remap :=
  let a (k : Nat) := w.getD k 0
  let m := (a 3 ++ a 2 ++ a 1 : BitVec 96)
  { retired := bits (a 0) 0 18, crest := bits (a 0) 18 3, map := (List.range 16).map fun j => bits m (5 * j) 5 }

/-- The image as data. -/
def schedOf (b : Array Byte) : SchedImage :=
  { config := BitVec.ofNat 8 (imgLe b 0xC 1), slotCode := BitVec.ofNat 8 (imgLe b 0xD 1), maxRate := BitVec.ofNat 8 (imgLe b 0xE 1)
    tenants := BitVec.ofNat 8 (imgLe b 0xF 1), roundSlots := imgWord b 0x10, schedId := BitVec.ofNat 64 (imgLe b 0x18 8)
    appId := BitVec.ofNat 64 (imgLe b 0x20 8), compat := BitVec.ofNat 16 (imgLe b 0x28 2)
    steps := (rowsOf b 1).map stepOfRow, engineSteps := (rowsOf b 2).map engineStepOfRow
    routes := (rowsOf b 3).map fun w => w.getD 0 0, transfers := (rowsOf b 4).map transferOfRow
    windows := (rowsOf b 5).map windowOfRow, loopSteps := (rowsOf b 6).map loopStepOfRow
    ioGroups := (rowsOf b 7).map ioGroupOfRow, gates := (rowsOf b 8).map gateOfRow, canSlots := (rowsOf b 9).map canSlotOfRow
    exchanges := (rowsOf b 0xA).map exchangeOfRow, captures := (rowsOf b 0xB).map captureOfRow
    remaps := (rowsOf b 0xC).map remapOfRow }

/-! ### Codes 0x02 to 0x06 -/

/-- 0x02 BAD_HEADER. -/
def headerOk (b : Array Byte) (len : Nat) : Bool :=
  decide (512 ≤ len) && imgLe b 0 4 == 0x48435341 && imgLe b 4 2 == 0x100 && imgLe b 6 2 == 512 && imgLe b 8 4 == len &&
  len % 64 == 0 && decide (len ≤ 0x1000000) && imgZero b 0x14 0x18 && imgZero b 0x2C 0x78 && imgZero b 0x180 0x200

/-- 0x03 BAD_CRC. -/
def crcOk (b : Array Byte) : Bool :=
  let l := b.toList
  crc32c (l.take 0x7C) == imgWord b 0x7C && crc32c (l.drop 0x200) == imgWord b 0x78

/-- End of a table. -/
def DirEntry.last (d : DirEntry) : Nat := d.off + d.size * d.count

/-- Is a used directory entry itself good (R32, R33)? -/
def dirEntryOk (b : Array Byte) (d : DirEntry) : Bool :=
  tableSize d.id == some d.size && !d.resv && d.off % 64 == 0 && decide (0x200 ≤ d.off) && decide (d.last ≤ b.size) &&
  !(dirEntries b).any fun e => decide (e.idx < d.idx) && e.id == d.id

/-- Is a byte in no table? -/
def inNoTable (ds : List DirEntry) (o : Nat) : Bool := !ds.any fun d => decide (d.off ≤ o) && decide (o < d.last)

/-- 0x06 BAD_DIRECTORY: entries, required tables, overlaps and bytes that lie in no table. A TABLES value out of range, an entry beyond TABLES
and a reserved directory byte are faults of the directory; a byte in no table is reported at the last directory index, and an absent
entry at index 0 (DESIGN CHOICE, log entry 96). -/
def checkDirectory (b : Array Byte) : Option Fail :=
  let n := tableCount b
  let ds := usedEntries b
  require (1 ≤ n && n ≤ 16) ⟨6, 0, 0⟩ <|>
  firstBad 6 0 (dirEntries b) (fun i d => if i < n then dirEntryOk b d else d.zero) <|>
  (requiredTables.findSome? fun id => match dirOf b id with
    | some d => require (decide (0 < d.count)) ⟨6, 0, d.idx⟩
    | none => some ⟨6, 0, 0⟩) <|>
  firstBad 6 0 ds (fun _ d => d.count == 0 || !ds.any fun e =>
    e.idx != d.idx && decide (0 < e.count) && decide (e.off ≤ d.off) && decide (d.off < e.last) &&
      (decide (e.off < d.off) || decide (e.idx < d.idx))) <|>
  require ((List.range (b.size - 0x200)).all fun k => !inNoTable ds (0x200 + k) || b.getD (0x200 + k) 0 == 0) ⟨6, 0, n - 1⟩

/-! ### Code 0x07 BAD_FIELD -/

/-- Reserved bits of each table's entry: word and mask. -/
def reservedMasks : Nat → List (Nat × Word)
  | 1 => [(0, 0xF8), (2, 0xFE00FE00), (6, 0xFFFFFFFC), (7, 0xFFFFFFFF)]
  | 2 => [(1, 0xFFFFFFFC), (2, 0xFFFFFF80), (3, 0xFFF00000), (5, 0xFFFF0000)]
  | 3 => [(0, 0xE00), (1, 0xFFFFFFFF)]
  | 4 => [(1, 0xFFFFFFFC), (5, 0xFFFFFFF0)]
  | 5 => [(0, 0xFFF00000), (1, 0xFFFFF0C0)]
  | 6 => [(1, 0xFFFFFFFC), (2, 0xFFF8E000), (3, 0xFFFFFFFF)]
  | 7 => [(1, 0xFFFFFFFC), (2, 0xFFF00000), (3, 0xFFFFFFFC)]
  | 8 => [(1, 0xFFFFFFFC), (2, 0xFFFF00F8), (3, 0xFFFF0000), (5, 0xFFFFFFFF)]
  | 9 => [(1, 0xFFFFFFFC), (2, 0xFFFFFC00), (3, 0xFFFF0000)]
  | 0xA => [(1, 0xFFFFFFFC), (2, 0xFFF0)]
  | 0xB => [(1, 0xFFFFFFFC), (3, 0xE0000000)]
  | 0xC => [(0, 0xFFE00000), (3, 0xFFFF0000)]
  | _ => []

/-- Is an address a multiple of 64? -/
def aligned (a : Word) : Bool := a.toNat % 64 == 0

/-- Instances of an I/O class, and the tile it needs (Table 2.15). -/
def ioClass : Nat → Option (Nat × Nat)
  | 0 => some (8, 7)
  | 1 => some (4, 7)
  | 2 => some (3, 7)
  | 3 => some (1, 7)
  | 4 => some (2, 7)
  | 5 => some (1, 7)
  | 6 => some (256, 0)
  | 7 => some (16, 0)
  | 8 => some (8, 0)
  | _ => none

/-- Ticks of a slot (Table 2.2). -/
def slotTicks (im : SchedImage) : Nat := slotNsOf im / 2

/-- SLOT, RATE and PHASE in range (R35). -/
def timingFieldOk (im : SchedImage) (t : Timing) : Bool :=
  decide (t.slot.toNat < im.roundSlots.toNat) && decide (t.rate.toNat ≤ im.maxRate.toNat) && decide (t.phase.toNat < 2 ^ t.rate.toNat)

/-- The ranges of an entry's own fields. -/
def fieldsOk (p : Part) (im : SchedImage) (id : Nat) (w : List Word) : Bool :=
  let n := im.roundSlots.toNat
  match id with
  | 1 => let d := stepOfRow w
         decide (1 ≤ d.codeLen.toNat) && decide (d.codeLen.toNat ≤ 256) && decide (d.stateLen.toNat ≤ 256) && aligned d.codeAddr &&
           (d.stateLen == 0 || (aligned d.stateIn && aligned d.stateOut))
  | 2 => let e := engineStepOfRow w
         match im.steps[e.desc.toNat]? with
         | some d => decide (e.crest.toNat < p.crests) && decide (e.routeCode.toNat < im.routes.length) &&
             (d.stateLen == 0 || (decide (e.routeIn.toNat < im.routes.length) && decide (e.routeOut.toNat < im.routes.length)))
         | none => false
  | 4 => let e := transferOfRow w
         e.len != 0 && decide (e.route.toNat < im.routes.length) && aligned e.src && aligned e.dst && !(e.device && e.owner != 0)
  | 5 => let e := windowOfRow w
         (decide (e.slot.toNat < n) || e.slot == 0xFFFFF) && (p.linkEnds e.link.toNat).isSome
  | 6 => decide ((loopStepOfRow w).crest.toNat < p.crests)
  | 7 => let e := ioGroupOfRow w
         (ioClass e.cls.toNat).elim false fun c => decide (e.inst.toNat < c.1) && p.hasTile c.2 && e.t.slot == 0
  | 8 => let e := gateOfRow w
         decide (e.start.toNat < slotTicks im) && e.duration != 0 && decide (e.duration.toNat ≤ n * slotTicks im)
  | 9 => decide ((canSlotOfRow w).offset.toNat < slotTicks im)
  | 0xA => let e := exchangeOfRow w
           decide (e.kind ≤ 4) && aligned e.addr
  | 0xB => aligned (captureOfRow w).src
  | 0xC => decide ((remapOfRow w).crest.toNat < p.crests)
  | _ => true

/-- The tables in ascending identifier. -/
def tableIds : List Nat := [1, 2, 3, 4, 5, 6, 7, 8, 9, 0xA, 0xB, 0xC]

/-- 0x07 BAD_FIELD. -/
def checkFields (p : Part) (b : Array Byte) (im : SchedImage) : Option Fail :=
  tableIds.findSome? fun id => firstBad 7 id (rowsOf b id) fun _ w =>
    (reservedMasks id).all (fun m => w.getD m.1 0 &&& m.2 == 0) && (!timedTables.contains id || timingFieldOk im (timingOf w)) &&
      fieldsOk p im id w

/-- 0x08 BAD_ORDER (R34). -/
def checkOrder (b : Array Byte) : Option Fail :=
  timedTables.findSome? fun id =>
    let ts := (rowsOf b id).map fun w => (timingOf w).slot.toNat
    firstBad 8 id ts fun i t => i == 0 || decide (ts.getD (i - 1) 0 ≤ t)

end Sys2Proof.Machine
end

