-- ==== Sys2Proof/Machine/SchedCheck.lean ====
section
/-! DEFINITION. Validation of a schedule image: codes 0x09 to 0x15, and the whole in the order of its codes (R56). -/
namespace Sys2Proof.Machine

/-! ### 0x09 BAD_ROUTE, 0x0A POOL_RANGE -/

/-- The tiles of a configuration, by index. -/
def tilesOf (p : Part) : List Nat := (List.range 8).filter p.hasTile

/-- Is a route used between these ends good? An address that names no present tile is left to POOL_RANGE. -/
def routeServes (p : Part) (im : SchedImage) (r : Nat) (src dst : Option Nat) : Bool :=
  let w := routeAt im r
  (routeDirs p w).isSome && src.elim true (fun t => routeSrc w == t) && dst.elim true fun t => routeDst w == t

/-- Does a best-effort route entry stand as R37 wants it? -/
def bestEffortOk (p : Part) (im : SchedImage) (i : Nat) : Bool :=
  let s := i / 8
  let d := i % 8
  let w := routeAt im i
  if s != d && p.hasTile s && p.hasTile d then routeServes p im i (some s) (some d) else w == 0

/-- 0x09 BAD_ROUTE. -/
def checkRoutes (p : Part) (im : SchedImage) : Option Fail :=
  firstBad 9 3 (List.range (max 64 im.routes.length)) (fun i _ =>
    if i < 64 then bestEffortOk p im i else routeServes p im i none none) <|>
  firstBad 9 2 im.engineSteps (fun _ e =>
    match im.steps[e.desc.toNat]? with
    | none => true
    | some d =>
      let t := e.crest.toNat + 1
      routeServes p im e.routeCode.toNat (tileOf p d.codeAddr) (some t) &&
      (d.stateLen == 0 || (routeServes p im e.routeIn.toNat (tileOf p d.stateIn) (some t) &&
        routeServes p im e.routeOut.toNat (some t) (tileOf p d.stateOut)))) <|>
  firstBad 9 4 im.transfers fun _ e => routeServes p im e.route.toNat (tileOf p e.src) (tileOf p e.dst)

/-- Who holds an area: no one (none), the device (some none) or a tenant. -/
def holderOf (s : State) (im : SchedImage) : Holder → Option (Option (BitVec 3))
  | .loop c l => if h : c < 6 then (loopOwnerIn s im ⟨c, h⟩ l).map some else none
  | .io cls inst => (im.ioGroups.find? fun e => e.cls.toNat == cls && e.inst.toNat == inst).map fun e =>
      if e.device then none else some e.owner
  | .can c =>
    match s.run.active.bind fun a => a.cans.find? fun x => x.1.val == c with
    | some x => some x.2.owner
    | none => some none
  | .uart u => some (s.run.active.bind fun a => if h : u < 8 then a.uartOwners.lookup ⟨u, h⟩ else none)

/-- Does a tenant's transfer write an area that its own unit only reads out, a breach that is no conflict of owners (R317)? -/
def writesOwnLatch (s : State) (im : SchedImage) (e : Transfer) : Bool :=
  !isPool e.dst && (List.range e.len.toNat).any fun k =>
    match rightsAt s.part (e.dst + BitVec.ofNat 32 (64 * k)) with
    | some ⟨_, .latch h⟩ => holderOf s im h == some (some e.owner)
    | _ => false

/-- 0x0A POOL_RANGE. -/
def checkRanges (s : State) (im : SchedImage) : Option Fail :=
  let p := s.part
  firstBad 0xA 1 im.steps (fun _ d =>
    inPool p d.codeAddr d.codeLen.toNat &&
      (d.stateLen == 0 || (inPool p d.stateIn d.stateLen.toNat && inPool p d.stateOut d.stateLen.toNat))) <|>
  firstBad 0xA 4 im.transfers (fun _ e =>
    spanReadable p e.src e.len.toNat && spanWritable p e.device e.dst e.len.toNat && (e.device || !writesOwnLatch s im e)) <|>
  firstBad 0xA 0xA im.exchanges (fun _ e => inPool p e.addr e.len.toNat) <|>
  firstBad 0xA 0xB im.captures fun _ e => spanReadable p e.src e.len.toNat

/-! ### 0x0B to 0x0D: engines -/

/-- The descriptor of an engine step. -/
def descAt (im : SchedImage) (e : EngineStep) : StepDesc :=
  im.steps[e.desc.toNat]?.getD ⟨0, 0, 0, 0, 0, 0, 0, 0, 0, false, false⟩

/-- Usable step time of Table 2.2. -/
def usableNs (im : SchedImage) : Nat := slotNsOf im - 60

/-- V of R41: the first tenth of the round, rounded up. -/
def voteSlots (im : SchedImage) : Nat := (im.roundSlots.toNat + 9) / 10

/-- 0x0B STEP_PLACEMENT (R41). -/
def checkPlacement (im : SchedImage) : Option Fail :=
  firstBad 0xB 2 im.engineSteps fun _ e =>
    decide (voteSlots im ≤ e.t.slot.toNat) && decide (e.t.slot.toNat + 3 ≤ im.roundSlots.toNat) &&
      decide ((descAt im e).worstNs.toNat ≤ usableNs im)

/-- Are two entries active together (R35)? -/
def activeTogether (a b : Timing) : Bool :=
  let m := 2 ^ min a.rate.toNat b.rate.toNat
  a.phase.toNat % m == b.phase.toNat % m

/-- The first entry that clashes with an earlier one. -/
def firstClash {α : Type} (code table : Nat) (l : List α) (clash : α → α → Bool) : Option Fail :=
  firstBad code table l fun i b => !(l.take i).any fun a => clash a b

/-- Do two engine steps name one engine in one slot together? -/
def sameEngine (a b : EngineStep) : Bool :=
  a.crest == b.crest && a.logical == b.logical && a.t.slot == b.t.slot && activeTogether a.t b.t

/-- 0x0C ENGINE_CONFLICT: two steps of one tenant (R42). -/
def checkEngines (im : SchedImage) : Option Fail :=
  firstClash 0xC 2 im.engineSteps fun a b => sameEngine a b && (descAt im a).tenant == (descAt im b).tenant

/-- Engine-port flits of Table 2.2. -/
def portFlits (im : SchedImage) : Nat := (slotNsOf im - 60) / 2

/-- The rounds of a major frame. -/
def roundsOf (im : SchedImage) : List Nat := List.range (frameRoundsOf im)

/-- Is an entry active in round `r`? -/
def activeIn (t : Timing) (r : Nat) : Bool := r % 2 ^ t.rate.toNat == t.phase.toNat

/-- The engine steps of round `r`, with their index. -/
def stepsIn (im : SchedImage) (r : Nat) : List (EngineStep × Nat) := im.engineSteps.zipIdx.filter fun x => activeIn x.1.t r

/-- A load: where it counts, how much, and the table and entry that bring it. -/
structure Load (κ : Type) where
  key : κ
  n : Nat
  table : Nat
  idx : Nat

/-- The first load that lifts the sum of its key above a limit. -/
def firstOver {κ : Type} [DecidableEq κ] (code : Nat) (limit : κ → Nat) (ls : List (Load κ)) : Option Fail :=
  (ls.zipIdx.find? fun x =>
    decide (limit x.1.key < ((ls.take (x.2 + 1)).filter fun y => decide (y.key = x.1.key)).foldl (fun a y => a + y.n) 0)).map
      fun x => ⟨code, x.1.table, x.1.idx⟩

/-- 0x0D PORT_OVERBOOKED (R42): flits into and out of one engine in one slot; the key is slot, tile, engine, direction. -/
def checkPorts (im : SchedImage) : Option Fail :=
  (roundsOf im).findSome? fun r =>
    firstOver 0xD (fun _ => portFlits im) ((stepsIn im r).flatMap fun (e, i) =>
      let d := descAt im e
      let k (slot : Nat) (out : Bool) : Nat × Nat × Nat × Bool := (slot, e.crest.toNat, e.logical.toNat, out)
      [⟨k (e.t.slot.toNat - 1) false, d.codeLen.toNat + d.stateLen.toNat, 2, i⟩, ⟨k (e.t.slot.toNat + 1) true, d.stateLen.toNat, 2, i⟩])

/-! ### 0x0E LINK_OVERBOOKED (R44, R45) -/

/-- The open offset of a link direction in a slot, as the table gives it. -/
def openOffset (im : SchedImage) (l : Nat) (back : Bool) (slot : Nat) : Nat :=
  let of (s : Nat) := im.windows.find? fun e => e.link.toNat == l && e.dir == back && e.slot.toNat == s
  ((of slot).orElse fun _ => of 0xFFFFF).elim 0 fun e => e.offset.toNat

/-- Flits per granule of Table 2.2: a fabric link, the field link. -/
def granuleFlits (im : SchedImage) (l : Nat) : Nat :=
  if l = fieldLink then slotNsOf im / 20 * 9765625 / 100000000 else slotNsOf im / 20 * 3125 / 1000

/-- What crosses the links: slot, link direction, flits, table, entry, in the order of R45. -/
def linkLoads (p : Part) (im : SchedImage) (r : Nat) : List (Load (Nat × Nat × Bool)) :=
  let put (slot n table i : Nat) (dirs : List (Nat × Bool)) : List (Load (Nat × Nat × Bool)) :=
    dirs.map fun d => ⟨(slot, d), n, table, i⟩
  ((stepsIn im r).flatMap fun (e, i) =>
    let d := descAt im e
    let s := e.t.slot.toNat
    put (s - 1) d.codeLen.toNat 2 i (entryDirs p im e.routeCode.toNat) ++
    (if d.stateLen == 0 then [] else
      put (s - 1) d.stateLen.toNat 2 i (entryDirs p im e.routeIn.toNat) ++
      put (s + 1) d.stateLen.toNat 2 i (entryDirs p im e.routeOut.toNat))) ++
  ((im.transfers.zipIdx.filter fun x => activeIn x.1.t r).flatMap fun (e, i) =>
    put e.t.slot.toNat e.len.toNat 4 i (entryDirs p im e.route.toNat)) ++
  ((im.exchanges.zipIdx.filter fun x => activeIn x.1.t r).flatMap fun (e, i) =>
    put e.t.slot.toNat e.len.toNat 0xA i (saddleDirs p im e.addr)) ++
  ((im.captures.zipIdx.filter fun x => activeIn x.1.t r).flatMap fun (e, i) =>
    put e.t.slot.toNat e.len.toNat 0xB i (saddleDirs p im e.src))

/-- The link directions of a configuration. -/
def linkDirs (p : Part) : List (Nat × Bool) :=
  ((List.range 17).filter fun l => (p.linkEnds l).isSome).flatMap fun l => [(l, false), (l, true)]

/-- 0x0E LINK_OVERBOOKED. An absent default entry is reported at index 0 (DESIGN CHOICE, log entry 96). -/
def checkLinks (p : Part) (im : SchedImage) : Option Fail :=
  firstClash 0xE 5 im.windows (fun a b => a.link == b.link && a.dir == b.dir && a.slot == b.slot) <|>
  require ((linkDirs p).all fun d => im.windows.any fun e => e.link.toNat == d.1 && e.dir == d.2 && e.slot == 0xFFFFF) ⟨0xE, 5, 0⟩ <|>
  (roundsOf im).findSome? fun r =>
    firstOver 0xE (fun k => openOffset im k.2.1 k.2.2 k.1 * granuleFlits im k.2.1) (linkLoads p im r)

/-! ### 0x0F LOOP_OVERBOOKED (R46, R145) -/

/-- The loop steps an entry counts: a group's size for its head, none for another member, one for a slot outside groups. The
groups are those of the active application image. -/
def loopCount (s : State) (e : LoopStep) : Nat :=
  match crest? e.crest.toNat with
  | none => 1
  | some c =>
    let a := (Vec.at s.crests c).loop
    let slots := loopSlots s c
    if slots.contains e.loop && cfgGroupEn (cfgOf a e.loop) then
      let g := groupOf a slots e.loop
      if g.headD e.loop == e.loop then g.length else 0
    else 1

/-- Loop steps per tile and slot of Table 2.2. -/
def loopLimit (im : SchedImage) : Nat := 12 * 2 ^ im.slotCode.toNat

/-- 0x0F LOOP_OVERBOOKED. -/
def checkLoops (s : State) (im : SchedImage) : Option Fail :=
  firstClash 0xF 6 im.loopSteps (fun a b => a.crest == b.crest && a.loop == b.loop && a.tenant != b.tenant) <|>
  (roundsOf im).findSome? fun r =>
    firstOver 0xF (fun _ => loopLimit im) ((im.loopSteps.zipIdx.filter fun x => activeIn x.1.t r).map fun (e, i) =>
      (⟨(e.t.slot.toNat, e.crest.toNat), loopCount s e, 6, i⟩ : Load (Nat × Nat)))

/-! ### 0x10 GATE_OVERLAP, 0x11 CAN_CONFLICT, 0x12 QUIET_SLOT -/

/-- The windows of a gate entry in the major frame, in ticks. -/
def gateSpans (im : SchedImage) (e : Gate) : List (Nat × Nat) :=
  ((roundsOf im).filter (activeIn e.t)).map fun r =>
    let a := (r * im.roundSlots.toNat + e.t.slot.toNat) * slotTicks im + e.start.toNat
    (a, a + e.duration.toNat)

/-- 0x10 GATE_OVERLAP (R48). -/
def checkGates (im : SchedImage) : Option Fail :=
  let frame := frameRoundsOf im * im.roundSlots.toNat * slotTicks im
  let meet (x y : List (Nat × Nat)) : Bool := x.any fun a => y.any fun b => decide (a.1 < b.2) && decide (b.1 < a.2)
  firstBad 0x10 8 im.gates (fun _ e => (gateSpans im e).all fun a => decide (a.2 ≤ frame)) <|>
  firstClash 0x10 8 im.gates fun a b => a.port == b.port && activeTogether a.t b.t && meet (gateSpans im a) (gateSpans im b)

/-- 0x11 CAN_CONFLICT (R49). -/
def checkCans (im : SchedImage) : Option Fail :=
  firstClash 0x11 9 im.canSlots fun a b =>
    a.ctrl == b.ctrl && a.t.slot == b.t.slot && a.offset == b.offset && activeTogether a.t b.t

/-- Is slot `slot` of an entry's active rounds the quiet slot (R28)? -/
def isQuiet (im : SchedImage) (t : Timing) (slot : Nat) : Bool :=
  slot + 1 == im.roundSlots.toNat && activeIn t (frameRoundsOf im - 1)

/-- 0x12 QUIET_SLOT (R54). -/
def checkQuiet (im : SchedImage) : Option Fail :=
  let ok (t : Timing) : Bool := !isQuiet im t t.slot.toNat
  firstBad 0x12 2 im.engineSteps (fun _ e =>
    ok e.t && !isQuiet im e.t (e.t.slot.toNat + 1) && !(e.t.slot != 0 && isQuiet im e.t (e.t.slot.toNat - 1))) <|>
  firstBad 0x12 4 im.transfers (fun _ e => ok e.t) <|>
  firstBad 0x12 6 im.loopSteps (fun _ e => ok e.t) <|>
  firstBad 0x12 0xA im.exchanges (fun _ e => ok e.t) <|>
  firstBad 0x12 0xB im.captures fun _ e => ok e.t

/-! ### 0x13 OWNER_CONFLICT -/

/-- Does a tenant's transfer write only held areas that the tenant holds? -/
def ownerOk (s : State) (im : SchedImage) (e : Transfer) : Bool :=
  e.device || isPool e.dst ||
  (List.range e.len.toNat).all fun k =>
    match rightsAt s.part (e.dst + BitVec.ofNat 32 (64 * k)) with
    | some ⟨_, .held h⟩ | some ⟨_, .latch h⟩ => holderOf s im h == some (some e.owner)
    | _ => true

/-- Is a tenant present in TENANTS? -/
def tenantIn (im : SchedImage) (t : BitVec 3) : Bool := im.tenants.getLsbD t.toNat

/-- 0x13 OWNER_CONFLICT. -/
def checkOwners (s : State) (im : SchedImage) : Option Fail :=
  firstBad 0x13 1 im.steps (fun _ d => tenantIn im d.tenant) <|>
  firstClash 0x13 2 im.engineSteps (fun a b => sameEngine a b && (descAt im a).tenant != (descAt im b).tenant) <|>
  firstBad 0x13 4 im.transfers (fun _ e => (e.device || tenantIn im e.owner) && ownerOk s im e) <|>
  firstBad 0x13 6 im.loopSteps (fun _ e => tenantIn im e.tenant) <|>
  firstClash 0x13 6 im.loopSteps (fun a b => a.crest == b.crest && a.loop == b.loop && a.tenant != b.tenant) <|>
  firstBad 0x13 7 im.ioGroups (fun _ e => e.device || tenantIn im e.owner) <|>
  firstClash 0x13 7 im.ioGroups (fun a b => a.cls == b.cls && a.inst == b.inst) <|>
  firstBad 0x13 0xB im.captures fun _ e => tenantIn im e.tenant

/-! ### 0x14 REMAP_INCOMPLETE, 0x15 TOO_LARGE -/

/-- Does a map name 16 distinct engines 0 to 17, none of them retired (R52)? -/
def mapOk (e : Remap) : Bool :=
  decide (popcount e.retired ≤ 2) && decide e.map.Nodup && decide (e.map.length = 16) &&
  e.map.all fun m => decide (m.toNat < 18) && !e.retired.getLsbD m.toNat

/-- 0x14 REMAP_INCOMPLETE. A wrong number of entries is reported at index 0 (DESIGN CHOICE, log entry 96). -/
def checkRemaps (p : Part) (im : SchedImage) : Option Fail :=
  firstBad 0x14 0xC im.remaps (fun _ e => mapOk e) <|>
  firstClash 0x14 0xC im.remaps (fun a b => a.crest == b.crest && a.retired == b.retired) <|>
  require ((List.range p.crests).all fun c => (im.remaps.filter fun e => e.crest.toNat == c).length == 172) ⟨0x14, 0xC, 0⟩

/-- A tile's share of the tables in bytes (R55, Table 2.6). -/
def shareOf (p : Part) (im : SchedImage) (t : Nat) : Nat :=
  let crest := t - 1
  let mine (c : BitVec 3) : Bool := decide (1 ≤ t) && decide (t < 7) && c.toNat == crest
  let es := im.engineSteps.filter fun e => mine e.crest
  32 * ((List.range im.steps.length).filter fun i => es.any fun e => e.desc.toNat == i).length + 24 * es.length +
  8 * im.routes.length + 24 * (im.transfers.filter fun e => routeSrc (routeAt im e.route.toNat) == t).length +
  8 * (im.windows.filter fun e => (p.linkEnds e.link.toNat).elim false fun x => (if e.dir then x.2 else x.1).tile == t).length +
  16 * (im.loopSteps.filter fun e => mine e.crest).length +
  16 * (im.ioGroups.filter fun e => (ioClass e.cls.toNat).elim false fun c => c.2 == t).length +
  16 * (im.remaps.filter fun e => mine e.crest).length +
  (if t = 0 then 24 * im.gates.length + 16 * (im.canSlots.length + im.exchanges.length + im.captures.length) else 0)

/-- Bytes of a bank (R55). -/
def bankLimit (t : Nat) : Nat := if t = 0 then 0x200000 else if t = 7 then 0x10000 else 0x100000

/-- 0x15 TOO_LARGE: the index holds the first tile whose share exceeds its bank. -/
def checkSize (p : Part) (im : SchedImage) : Option Fail :=
  ((tilesOf p).find? fun t => decide (bankLimit t < shareOf p im t)).map fun t => ⟨0x15, 0, t⟩

/-! ### The whole -/

/-- The checks of Table 2.21 on the tables, 0x07 to 0x15. -/
def checkTables (s : State) (b : Array Byte) : Option Fail :=
  let im := schedOf b
  let p := s.part
  checkFields p b im <|> checkOrder b <|> checkRoutes p im <|> checkRanges s im <|> checkPlacement im <|> checkEngines im <|>
  checkPorts im <|> checkLinks p im <|> checkLoops s im <|> checkGates im <|> checkCans im <|> checkQuiet im <|>
  checkOwners s im <|> checkRemaps p im <|> checkSize p im

/-- 0x05 BAD_TIMING. -/
def timingOk (b : Array Byte) : Bool :=
  let round := 1000 * 2 ^ imgLe b 0xD 1 * imgLe b 0x10 4
  decide (imgLe b 0xD 1 ≤ 3) && decide (imgLe b 0xE 1 ≤ 10) && decide (100000 ≤ round) && decide (round ≤ 1000000000)

/-- The checks of Table 2.21 after SIGNATURE, in the order of their codes (R56). -/
def checkImageBytes (s : State) (bs : List Byte) : Option Fail :=
  let b := bs.toArray
  require (headerOk b bs.length) ⟨2, 0, 0⟩ <|> require (crcOk b) ⟨3, 0, 0⟩ <|>
  require (imgLe b 0xC 1 == s.part.code.toNat) ⟨4, 0, 0⟩ <|> require (timingOk b) ⟨5, 0, 0⟩ <|>
  checkDirectory b <|> checkTables s b

end Sys2Proof.Machine
end

