-- ==== Sys2Proof/Machine/TrioLine.lean ====
section
/-! DEFINITION. Trio ports, sending side (R157, R190, R271, R300, R301, R303): members and their ports, the frames that wait at a port, and
how they leave. -/
namespace Sys2Proof.Machine

/-- Change the trio unit. -/
def updTrio (f : Trio → Trio) (s : State) : State := { s with trio := f s.trio }

/-! ### Members and ports (R156, R157) -/

/-- This device's member number; 0 stands in for a device that has no trio, which `inTrio` tells apart. -/
def me (s : State) : Fin 3 := ⟨s.trio.member.toNat % 3, Nat.mod_lt _ (by omega)⟩

/-- Member `k` places after `m` in priority order. -/
def memberAfter (m : Fin 3) (k : Nat) : Fin 3 := ⟨(m.val + k) % 3, Nat.mod_lt _ (by omega)⟩

/-- The partner on a trio port: port A faces member m + 1, port B member m + 2. -/
def portPartner (s : State) : TrioPort → Fin 3
  | .a => memberAfter (me s) 1
  | .b => memberAfter (me s) 2

/-- The trio port toward a partner. -/
def portOf (s : State) (m : Fin 3) : TrioPort := if m = memberAfter (me s) 1 then .a else .b

/-- A member's number as a field. -/
def memberBits (m : Fin 3) : BitVec 2 := BitVec.ofNat 2 m.val

/-- The sending side of a port. -/
def lineOf (s : State) : TrioPort → TrioLine
  | .a => s.trio.lineA
  | .b => s.trio.lineB

/-- Change the sending side of a port. -/
def updLine (p : TrioPort) (f : TrioLine → TrioLine) (s : State) : State :=
  updTrio (fun t => match p with
    | .a => { t with lineA := f t.lineA }
    | .b => { t with lineB := f t.lineB }) s

/-! ### Departure (R303) -/

/-- The place of a frame TYPE in the order of precedence: FENCE, ALIGN, exchanges, REPAIR, FORWARD, TIME, BULK. -/
def trioClass (type : Byte) : Nat :=
  match type.toNat with
  | 6 => 0
  | 1 => 1
  | 7 => 3
  | 9 => 4
  | 10 => 5
  | 8 => 6
  | _ => 2

/-- Nanoseconds that a frame of `len` flits occupies the line: 90 bytes around the payload, at 100 Gbit/s (log entry 87). -/
def trioNs (len : Nat) : Nat := (8 * (64 * len + 90) + 99) / 100

/-- The instants of the scheduled exchanges of this round and the next. -/
def exchangeInstants (s : State) : List Nat :=
  if !s.sched.running then [] else
  s.sched.active.elim [] fun im =>
    let next : BitVec 10 := if s.sched.round.toNat + 1 = frameRoundsOf im then 0 else s.sched.round + 1
    let start (e : TrioExchange) : Nat := s.sched.roundNs + e.t.slot.toNat * slotNsOf im
    (im.exchanges.filter fun e => timingActive e.t s.sched.round).map start ++
    (im.exchanges.filter fun e => timingActive e.t next).map fun e => start e + roundNsOf im

/-- Is a frame held back at an instant: would it be on the line when a scheduled exchange starts? -/
def heldBack (s : State) (st : Nat) (f : TrioOut) : Bool :=
  !f.scheduled && (exchangeInstants s).any fun t => decide (st ≤ t) && decide (t < st + trioNs f.len.toNat)

/-- The frame that leaves a port at an instant: the oldest of the first class in precedence that has one which may leave. -/
def leaving (s : State) (p : TrioPort) (st : Nat) : Option TrioOut :=
  let fs := (lineOf s p).queue.filter fun f => decide (f.due ≤ st) && !heldBack s st f
  (List.range 7).findSome? fun k => fs.find? fun f => trioClass f.type == k

/-- The content of Table 10.3 as it stands in a frame and in a receive bank: a double word each (log entry 87). -/
def alignBytes (t : DWord) (a : AlignData) : List Byte :=
  bytesOf 8 t.toNat ++ bytesOf 8 (if a.ref then 1 else 0) ++ bytesOf 8 a.tx.toNat ++ bytesOf 8 a.rxPrev.toNat ++ bytesOf 8 a.rstart.toNat

/-- The 16-byte header of Table 11.6. -/
def trioHeader (f : TrioFrame) : List Byte :=
  [f.type, f.sender, f.target, 0] ++ bytesOf 8 f.t.toNat ++ bytesOf 2 f.offset.toNat ++ bytesOf 2 f.len.toNat

/-- The payload of a frame as bytes; a round alignment stands in flit 0 of its exchange. -/
def payloadBytes (f : TrioFrame) : List Byte :=
  match f.payload with
  | .bytes d => d
  | .status _ raw => takePad (64 * f.len.toNat) raw
  | .align a => takePad (64 * f.len.toNat) (if f.offset = 0 then alignBytes f.t a else [])

/-- The CRC-32C of header and payload (R300). -/
def trioCrc (f : TrioFrame) : Word := crc32c (trioHeader f ++ payloadBytes f)

/-- The connectivity association key that a trio port's association key derives from. -/
def portCak (s : State) (p : TrioPort) : Option (BitVec 256) := (Vec.at s.ports (trioPortIdx p)).keyCak.orElse fun _ => s.store.cak

/-- Is a trio port's link up? -/
def trioUp (s : State) : TrioPort → Bool
  | .a => s.trio.upA
  | .b => s.trio.upB

/-- The frame as it goes out on a port: under the association key of `cak` with the next packet number, its CRC made (R300, R305). -/
def trioFrameOf (s : State) (p : TrioPort) (cak : BitVec 256) (f : TrioOut) (x : TrioPayload) : TrioFrame :=
  let q := Vec.at s.ports (trioPortIdx p)
  let g : TrioFrame := ⟨true, cak, q.keyCur, q.txPn + 1, f.type, s.trio.member.setWidth 8, f.target, f.t, f.offset, f.len, x, 0⟩
  { g with crc := trioCrc g }

/-- A frame goes out on a port that is enabled and up and has a key; without a key to protect it none goes out (R305). -/
def sendTrio (p : TrioPort) (f : TrioOut) (x : TrioPayload) (s : State) : State :=
  match portCak s p with
  | none => s
  | some k =>
    if !(Vec.at s.ports (trioPortIdx p)).en || !trioUp s p then s else
    send (.trio p (trioFrameOf s p k f x)) (bump (.port (trioPortIdx p)) 0x10 1 (updPort (trioPortIdx p) (fun q => { q with txPn := q.txPn + 1 }) s))

/-- The alignment content with its transmit instant: the departure and the port's transmit latency (R271, R277). -/
def stampAlign (tx : DWord) : TrioPayload → TrioPayload
  | .align a => .align { a with tx := tx }
  | x => x

/-- The flits 0 to `n` - 1 that are good, as spans of at most 128: first flit and length. -/
def flitSpans (good : Nat → Bool) (n : Nat) : List (Nat × Nat) :=
  ((List.range n).foldl (fun (acc : List (Nat × Nat)) i =>
    if !good i then acc
    else match acc with
      | (o, l) :: r => if o + l = i && l < 128 then (o, l + 1) :: r else (i, 1) :: acc
      | [] => [(i, 1)]) []).reverse

/-- A committed-copy address as the pool address it lies at, or a loop state block of a tile. -/
def endpointBytes (s : State) (a : Word) (n : Nat) : List Byte :=
  if isPool a then memRead s.pool a.toNat n
  else match crest? (epTile a - 1) with
    | some c => if epTile a = 0 then [] else memRead (Vec.at s.crests c).loop.mem (epOff a) n
    | none => []

/-- The bytes of a bulk copy as they stand now, for the frames that carry those of its flits which are free of poison (R95, R190). -/
def freshBulk (s : State) (f : TrioOut) : List TrioOut :=
  match f.payload with
  | .bytes d =>
    let a := wordOf d
    (flitSpans (flitGood s a) f.len.toNat).map fun x =>
      let b := a + BitVec.ofNat 32 (64 * x.1)
      { f with len := BitVec.ofNat 16 x.2, payload := .bytes (bytesOf 4 b.toNat ++ endpointBytes s b (64 * x.2)) }
  | _ => [f]

/-- A frame takes its line from an instant on. -/
def departs (p : TrioPort) (st : Nat) (f : TrioOut) (s : State) : State :=
  let tx : DWord := BitVec.ofNat 64 (st + (Vec.at s.ports (trioPortIdx p)).txLat.toNat)
  let aligns := f.type == 1
  let s := updLine p (fun l => { l with
    free := st + trioNs f.len.toNat
    tx := if aligns then some tx else l.tx
    starts := if aligns && !s.sched.running then (tx :: l.starts).take 16 else l.starts }) s
  sendTrio p f (stampAlign tx f.payload) s

/-- A frame that waits leaves at an instant; of a bulk copy its first good flits leave, and the others wait on in its place. -/
def leaves (p : TrioPort) (st : Nat) (f : TrioOut) (s : State) : State :=
  match (if f.type = 8 then freshBulk s f else [f]) with
  | [] => updLine p (fun l => { l with queue := l.queue.erase f }) s
  | g :: rest => departs p st g (updLine p (fun l => { l with
      queue := if rest.isEmpty then l.queue.erase f else l.queue.flatMap fun x => if x = f then rest else [x] }) s)

/-- At most `n` frames leave a port up to the instant `now`. -/
def drainPort (now : Nat) (p : TrioPort) : Nat → State → State
  | 0, s => s
  | n + 1, s =>
    match (lineOf s p).queue with
    | [] => s
    | q :: qs =>
      let st := max (lineOf s p).free (qs.foldl (fun t f => min t f.due) q.due)
      if now < st then s
      else match leaving s p st with
        | some f => drainPort now p n (leaves p st f s)
        | none => match leaving s p now with
          | some f => drainPort now p n (leaves p now f s)
          | none => s

/-- What may leave both ports has left by now. -/
def drainTrio (s : State) : State :=
  let s := drainPort (schedNow s) .a (lineOf s .a).queue.length s
  drainPort (schedNow s) .b (lineOf s .b).queue.length s

/-- A frame waits at a port from now on. -/
def queueTrio (p : TrioPort) (type target : Byte) (offset len : Nat) (scheduled : Bool) (x : TrioPayload) (s : State) : State :=
  updLine p (fun l => { l with queue := l.queue ++
    [⟨type, target, s.trio.t, BitVec.ofNat 16 offset, BitVec.ofNat 16 len, scheduled, schedNow s, x⟩] }) s

/-- A frame for both partners waits at both ports. -/
def queueBoth (type target : Byte) (offset len : Nat) (scheduled : Bool) (x : TrioPayload) (s : State) : State :=
  queueTrio .b type target offset len scheduled x (queueTrio .a type target offset len scheduled x s)

/-! ### Data in frames -/

/-- Bytes at an address for one partner wait as frames of at most 128 flits, each with its address as payload word 0, which LEN does not
count (log entry 87). -/
def queueCopy (p : TrioPort) (m : Fin 3) (type : Byte) (addr : Word) (d : List Byte) (s : State) : State :=
  (flitSpans (fun _ => true) ((d.length + 63) / 64)).foldl (fun s x =>
    queueTrio p type (BitVec.ofNat 8 m.val) 0 x.2 false
      (.bytes (bytesOf 4 (addr + BitVec.ofNat 32 (64 * x.1)).toNat ++ (d.drop (64 * x.1)).take (64 * x.2))) s) s

/-- Bytes that the donor forwards to the member it copies to (R190). -/
def forwardBytes (addr : Word) (d : List Byte) (s : State) : State :=
  match s.trio.copying with
  | none => s
  | some b => if h : b.toNat < 3 then drainTrio (queueCopy (portOf s ⟨b.toNat, h⟩) ⟨b.toNat, h⟩ 9 addr d s) else s

/-- The words of two memories that differ, by address. -/
def changedWords (m m' : Memory) : List Nat :=
  (((m ++ m').map fun x => x.1 / 4 * 4).dedup).filter fun a => memWord m a != memWord m' a

/-- The donor forwards what a device-owned write has changed in a copied region since `was` (R190), but for words that are uncorrectable
(R95). -/
def forwardChanges (was s : State) : State :=
  if s.trio.copying.isNone then s
  else ((changedWords was.pool s.pool).filter fun a => inRegions s.run.active a && (badIn s a 4).isEmpty).foldl
    (fun t a => forwardBytes (BitVec.ofNat 32 a) (memRead s.pool a 4) t) s

end Sys2Proof.Machine
end

