-- ==== Sys2Proof/Machine/SchedBlock.lean ====
section
/-! DEFINITION. The schedule block's commands: LOAD and its validation, ACTIVATE, CANCEL, DISCARD (R56 to R62). -/
namespace Sys2Proof.Machine

/-- Change the schedule block. -/
def updSched (f : Sched → Sched) (s : State) : State := { s with sched := f s.sched }

/-- Change run control. -/
def updRun (f : RunCtl → RunCtl) (s : State) : State := { s with run := f s.run }

/-- Has the device at least one partner, as check 0x25 asks? DESIGN CHOICE (log entry 25): another voting member of its roster, so that ACTIVATE
without TRIO is accepted in SOLO. -/
def hasPartner (s : State) : Bool := !(votingPartners s).isEmpty

/-- A command of the schedule page ends with a code; a refusal raises REFUSED (R57). -/
def schedRefuse (c : Byte) (s : State) : State := raise .schedule 2 none .unstated (updSched (fun x => { x with code := c }) s)

/-- The last round of a major frame. -/
def lastRound (s : State) : Bool :=
  s.sched.active.elim false fun im => s.sched.running && s.sched.round.toNat + 1 == frameRoundsOf im

/-- Has the commit point of frame `f` come (R60 step 4)? -/
def pastCommit (s : State) (f : DWord) : Bool := lastRound s && decide (f ≤ s.sched.frame + 1)

/-! ### LOAD and validation -/

/-- LOAD: the image in supervisor SRAM is validated; refused with BUSY while LOADING or ARMED. -/
def cmdSchLoad (s : State) : State :=
  if s.sched.bank == .loading || s.sched.bank == .armed then schedRefuse 0x21 s
  else updSched (fun x => { x with
    bank := .loading, shadow := none, shadowEnv := none, code := 0
    loadFrom := x.loadAddr.toNat * 64, loadBytes := x.loadLen.toNat }) s

/-- The verdict of validation: SIGNATURE with its envelope code, then the checks of Table 2.21 (R56). -/
def validateSched (s : State) : Byte × Option Fail × Option Envelope :=
  let (c, env) := checkImage s .sched s.sched.loadFrom s.sched.loadBytes
  if c != 0 then (c, some ⟨1, 0, 0⟩, none)
  else (c, checkImageBytes s (memRead s.sram s.sched.loadFrom s.sched.loadBytes), env)

/-- Validation ends: VALID, or EMPTY with its code; LOADED is raised (R60). DESIGN CHOICE (log entry 96): a validation that succeeds clears
SCH_ERR. -/
def endSchValidation (s : State) : State :=
  if s.sched.bank != .loading then s else
  let (c, f, env) := validateSched s
  let s := { s with upd := { s.upd with env := c } }
  let s := match f with
    | some f => updSched (fun x => { x with
        bank := .empty, code := BitVec.ofNat 8 f.code, errTable := BitVec.ofNat 8 f.table, errIndex := BitVec.ofNat 24 f.index }) s
    | none => updSched (fun x => { x with
        bank := .valid, code := 0, errTable := 0, errIndex := 0, shadowEnv := env
        shadow := some (schedOf (memRead s.sram x.loadFrom x.loadBytes).toArray) }) s
  raise .schedule 0 none .unstated s

/-! ### ACTIVATE -/

/-- The application image that will be active in frame `f`. -/
def appInFrame (s : State) (f : DWord) (withApp : Bool) : Option AppImage :=
  if withApp || (s.run.bank == .armed && s.run.ownTarget && decide (s.run.armedFrame ≤ f)) then s.run.shadow else s.run.active

/-- May a tenant's transfer or unload write these pool bytes under an application image's regions (R59)? -/
def ownsBytes (app : AppImage) (t : BitVec 3) (a n : Nat) : Bool :=
  app.regions.all fun r => decide (r.addr + r.len ≤ a) || decide (a + n ≤ r.addr) || r.owner == some t

/-- Check 0x24: the identity, then the writers (R59). DESIGN CHOICE (log entry 96): unloads are looked at before transfers, and a bad unload is
reported in the engine-step table, 2. -/
def appMismatch (im : SchedImage) (app : Option AppImage) : Option Fail :=
  match app with
  | none => some ⟨0x24, 0, 0⟩
  | some app =>
    require (im.appId == app.id) ⟨0x24, 0, 0⟩ <|>
    firstBad 0x24 2 im.engineSteps (fun _ e =>
      let d := descAt im e
      d.stateLen == 0 || ownsBytes app d.tenant d.stateOut.toNat (64 * d.stateLen.toNat)) <|>
    firstBad 0x24 4 im.transfers fun _ e =>
      e.device || !isPool e.dst || ownsBytes app e.owner e.dst.toNat (64 * e.len.toNat)

/-- ACTIVATE with the checks of Table 2.23 in the order of their codes (R59). -/
def cmdSchActivate (withApp trio : Bool) (s : State) : State :=
  let f := s.sched.target
  if frameLate s f then schedRefuse 0x20 s
  else if s.sched.bank == .armed then schedRefuse 0x21 s
  else match (if s.sched.bank == .valid then s.sched.shadow else none) with
    | none => schedRefuse 0x22 s
    | some im =>
      if withApp && !(s.run.bank == .armed && !s.run.ownTarget) then schedRefuse 0x22 s
      else match appMismatch im (appInFrame s f withApp) with
        | some e => schedRefuse 0x24 (updSched (fun x => { x with
            errTable := BitVec.ofNat 8 e.table, errIndex := BitVec.ofNat 24 e.index }) s)
        | none =>
          if !trio && hasPartner s then schedRefuse 0x25 s
          else
            let s := updSched (fun x => { x with bank := .armed, code := 0, armedFrame := f, armedApp := withApp, armedTrio := trio }) s
            if withApp then updRun (fun r => { r with armedFrame := f }) s else s

/-- CANCEL before the commit point; the application bank is disarmed with it under WITH_APP (R62). -/
def cmdSchCancel (s : State) : State :=
  if s.sched.bank == .armed && pastCommit s s.sched.armedFrame then schedRefuse 0x20 s
  else if s.sched.bank != .armed then schedRefuse 0x23 s
  else
    let withApp := s.sched.armedApp
    let s := updSched (fun x => { x with bank := .valid, code := 0, armedApp := false, armedTrio := false }) s
    if withApp && s.run.bank == .armed && !s.run.ownTarget then updRun (fun r => { r with bank := .valid }) s else s

/-- DISCARD empties the shadow bank; refused with BUSY while LOADING or ARMED. -/
def cmdSchDiscard (s : State) : State :=
  if s.sched.bank == .loading || s.sched.bank == .armed then schedRefuse 0x21 s
  else updSched (fun x => { x with bank := .empty, code := 0, shadow := none, shadowEnv := none }) s

/-- SCH_LOAD. -/
def execSchLoad (q : Req) (s : State) : Out := .next (onPage q .schedule cmdSchLoad s)
/-- SCH_VALIDATION_END. -/
def execSchValidationEnd (s : State) : Out := .next (endSchValidation s)
/-- SCH_ACTIVATE. -/
def execSchActivate (q : Req) (withApp trio : Bool) (s : State) : Out := .next (onPage q .schedule (cmdSchActivate withApp trio) s)
/-- SCH_CANCEL. -/
def execSchCancel (q : Req) (s : State) : Out := .next (onPage q .schedule cmdSchCancel s)
/-- SCH_DISCARD. -/
def execSchDiscard (q : Req) (s : State) : Out := .next (onPage q .schedule cmdSchDiscard s)

end Sys2Proof.Machine
end

