-- ==== Sys2Proof/Machine/AppBank.lean ====
section
/-! DEFINITION. The application bank: LOAD and its validation, ACTIVATE, ARM, CANCEL, DISCARD, and the commit point that decides
both banks (R125 to R129, R451). -/
namespace Sys2Proof.Machine

/-- An application command is refused with a code and an index for APP_ERR, 0 but for KEY_LAYOUT; APP_REFUSED is raised (R131). -/
def appRefuseAt (c : Byte) (index : Nat) (s : State) : State :=
  raise .runControl 5 none .unstated (updRun (fun r => { r with appCode := c, appErr := BitVec.ofNat 32 index }) s)

/-- A refusal with any other code. -/
def appRefuse (c : Byte) (s : State) : State := appRefuseAt c 0 s

/-- LOAD: refused with BUSY while LOADING or ARMED. -/
def cmdAppLoad (s : State) : State :=
  if s.run.bank == .loading || s.run.bank == .armed then appRefuse 0x21 s
  else updRun (fun r => { r with
    bank := .loading, shadow := none, shadowEnv := none, appCode := 0, appErr := 0
    loadFrom := r.loadAddr.toNat * 64, loadBytes := r.loadLen.toNat }) s

/-! ### Validation (Table 4.10) -/

/-- The regions of an image of one kind. -/
def regionsOf (im : AppImage) (k : RegionKind) : List Region := im.regions.filter fun r => r.kind == k

/-- Does one region lie within another? -/
def Region.within (r t : Region) : Bool := decide (t.addr ≤ r.addr) && decide (r.addr + r.len ≤ t.addr + t.len)

/-- Do two regions share a byte? -/
def Region.meets (r t : Region) : Bool := decide (r.addr < t.addr + t.len) && decide (t.addr < r.addr + r.len)

/-- 0x28 BANK_RANGE: the index is that of the region at fault, for code that of the region which holds it, whichever of its bytes. -/
def checkBanks (p : Part) (active : Option AppImage) (im : AppImage) : Option Fail :=
  firstBad 0x28 0 im.regions (fun i r => decide (r.addr + r.len ≤ poolSize p) && !(im.regions.take i).any fun t => r.meets t) <|>
  firstBad 0x28 0 im.regions (fun _ r => r.kind != .activeCode ||
    active.elim true fun a => (regionsOf a .shadowCode).any fun t => r.within t) <|>
  firstBad 0x28 0 im.regions (fun _ r => !im.code.any fun c =>
    r.kind != .activeCode && decide (r.addr < c.1 + c.2.length) && decide (c.1 < r.addr + r.len)) <|>
  require (im.code.all fun c => (regionsOf im .activeCode).any fun r =>
    decide (r.addr ≤ c.1) && decide (c.1 + c.2.length ≤ r.addr + r.len)) ⟨0x28, 0, 0⟩

/-- The entry of a key. -/
def keyAt (im : AppImage) (k : DWord) : Option KeyEntry := im.keys.find? fun e => e.key == k

/-- 0x29 KEY_LAYOUT against the active image. -/
def checkKeys (active im : AppImage) : Option Fail :=
  firstBad 0x29 0 im.keys fun i e =>
    (match i with
     | 0 => true
     | j + 1 => (im.keys[j]?).elim true fun q => decide (q.key < e.key)) &&
    (keyAt active e.key).elim true fun o => o.type == e.type && o.size == e.size && o.addr == e.addr

/-- The pool bytes the active schedule image writes, by transfers and by step unloads. -/
def schedWrites (im : SchedImage) : List (Nat × Nat) :=
  (im.transfers.filter fun e => isPool e.dst).map (fun e => (e.dst.toNat, 64 * e.len.toNat)) ++
  (im.engineSteps.filter fun e => (descAt im e).stateLen != 0).map fun e =>
    let d := descAt im e; (d.stateOut.toNat, 64 * d.stateLen.toNat)

/-- The new variables of an image: keys the active image does not hold. -/
def isNewKey (active : Option AppImage) (e : KeyEntry) : Bool := active.elim true fun a => (keyAt a e.key).isNone

/-- 0x2A INIT_RANGE. -/
def checkInits (s : State) (active im : AppImage) : Option Fail :=
  let ws := s.sched.active.elim [] schedWrites
  firstBad 0x2A 0 im.keys fun _ e =>
    !(isNewKey (some active) e) || ws.all fun w => decide (e.addr + e.size ≤ w.1) || decide (w.1 + w.2 ≤ e.addr)

/-- Bytes of an image's code. -/
def codeBytes (im : AppImage) : Nat := im.code.foldl (fun n c => n + c.2.length) 0

/-- 0x2C TOO_LARGE. -/
def sizeOk (s : State) (im : AppImage) : Bool :=
  decide (s.run.loadBytes ≤ 0x1000000) &&
  s.run.active.elim true fun a => decide (codeBytes im ≤ (regionsOf a .shadowCode).foldl (fun n r => n + r.len) 0)

/-- The checks of Table 4.10 after SIGNATURE, in the order of their codes; those that compare with an active image are not made
while there is none (R127). -/
def checkApp (s : State) (bs : List Byte) : Option Fail × Option AppImage :=
  match Config.parseApp bs with
  | none => (some ⟨2, 0, 0⟩, none)
  | some im =>
    let bad := require (im.keys.all fun e => e.formed) ⟨2, 0, 0⟩ <|> require (Config.appCrcOk bs) ⟨3, 0, 0⟩ <|> require (im.config == s.part.code) ⟨4, 0, 0⟩ <|>
      checkBanks s.part s.run.active im <|>
      (s.run.active.bind fun a => checkKeys a im) <|> (s.run.active.bind fun a => checkInits s a im) <|>
      require (!(im.safety.isSome && s.part == .acr9602)) ⟨0x2B, 0, 0⟩ <|> require (sizeOk s im) ⟨0x2C, 0, 0⟩
    (bad, some im)

/-- Code copied into the pool. -/
def copyCode (im : AppImage) (s : State) : State :=
  { s with pool := im.code.foldl (fun m c => memWrite m c.1 c.2) s.pool }

/-- Validation ends: VALID with the code copied, or EMPTY with its code; APP_LOADED is raised (R127, R131). -/
def endAppValidation (s : State) : State :=
  if s.run.bank != .loading then s else
  let bs := memRead s.sram s.run.loadFrom s.run.loadBytes
  let (c, env) := checkImage s .app s.run.loadFrom s.run.loadBytes
  let s := { s with upd := { s.upd with env := c } }
  let r := if c != 0 then (some ⟨1, 0, 0⟩, none) else checkApp s bs
  let s := match r with
    | (none, some im) => forwardChanges s (copyCode im (updRun (fun r => { r with
        bank := .valid, appCode := 0, appErr := 0, shadow := some im, shadowEnv := env }) s))
    | (some f, _) => updRun (fun r => { r with bank := .empty, appCode := BitVec.ofNat 8 f.code, appErr := BitVec.ofNat 32 f.index }) s
    | (none, none) => updRun (fun r => { r with bank := .empty, appCode := 2, appErr := 0 }) s
  raise .runControl 3 none .unstated s

/-! ### ACTIVATE, ARM, CANCEL, DISCARD -/

/-- The initial values of new variables, written into their committed copies at acceptance (R128). -/
def writeInits (im : AppImage) (s : State) : State :=
  let fresh := im.keys.filter (isNewKey s.run.active)
  { s with pool := fresh.foldl (fun m e => memWrite m e.addr (takePad e.size (e.init.getD []))) s.pool }

/-- What 0x29 finds in the shadow image's key table against the image now active (R130). -/
def keysBad (s : State) (im : AppImage) : Option Fail := s.run.active.bind fun a => checkKeys a im

/-- An accepted ACTIVATE or ARM; EXCH_SEAL clears. -/
def armApp (im : AppImage) (own trio : Bool) (s : State) : State :=
  let s := forwardChanges s (writeInits im (updRun (fun r => { r with
    bank := .armed, appCode := 0, appErr := 0, ownTarget := own, armedTrio := trio }) s))
  let s := { s with safety := { s.safety with exchSeal := false } }
  if own then updRun (fun r => { r with armedFrame := r.appTarget }) s else s

/-- ACTIVATE: LATE, BUSY, NO_SHADOW, TRIO_MISMATCH, KEY_LAYOUT in this order (R129, R130). -/
def cmdAppActivate (trio : Bool) (s : State) : State :=
  if frameLate s s.run.appTarget then appRefuse 0x20 s
  else if s.run.bank == .armed then appRefuse 0x21 s
  else match (if s.run.bank == .valid then s.run.shadow else none) with
    | none => appRefuse 0x22 s
    | some im =>
      if !trio && hasPartner s then appRefuse 0x25 s
      else match keysBad s im with
        | some f => appRefuseAt 0x29 f.index s
        | none => armApp im true trio s

/-- ARM: the bank waits for a schedule ACTIVATE with WITH_APP. -/
def cmdAppArm (s : State) : State :=
  if s.run.bank == .armed then appRefuse 0x21 s
  else match (if s.run.bank == .valid then s.run.shadow else none) with
    | none => appRefuse 0x22 s
    | some im => match keysBad s im with
      | some f => appRefuseAt 0x29 f.index s
      | none => armApp im false false s

/-- Has the frame of an armed exchange its commit point behind it? -/
def appPastCommit (s : State) : Bool :=
  (s.run.ownTarget || (s.sched.bank == .armed && s.sched.armedApp)) && pastCommit s s.run.armedFrame

/-- CANCEL before the commit point. -/
def cmdAppCancel (s : State) : State :=
  if s.run.bank == .armed && appPastCommit s then appRefuse 0x20 s
  else if s.run.bank != .armed then appRefuse 0x23 s
  else updRun (fun r => { r with bank := .valid, appCode := 0, appErr := 0, ownTarget := false, armedTrio := false }) s

/-- DISCARD empties the bank; refused with BUSY while LOADING or ARMED. -/
def cmdAppDiscard (s : State) : State :=
  if s.run.bank == .loading || s.run.bank == .armed then appRefuse 0x21 s
  else updRun (fun r => { r with bank := .empty, appCode := 0, appErr := 0, shadow := none, shadowEnv := none }) s

/-! ### The commit point (R451) -/

/-- Is the application bank armed for the next major frame? -/
def appDue (s : State) : Bool :=
  s.run.bank == .armed && s.run.armedFrame == s.sched.frame + 1 && (s.run.ownTarget || (s.sched.bank == .armed && s.sched.armedApp))

/-- Is the schedule bank armed for the next major frame? -/
def schedDue (s : State) : Bool := s.sched.bank == .armed && s.sched.armedFrame == s.sched.frame + 1

/-- Did every voting partner report this pair in the preceding round (R61)? -/
def partnersAgree (s : State) (pair : MemberStatus → Option (DWord × DWord)) (f id : DWord) : Bool :=
  (votingPartners s).all fun m => ((Vec.at s.trio.partners m).last.bind pair) == some (f, id)

/-- The identity of an application image; 0 where there is none. -/
def appId (im : Option AppImage) : DWord := im.elim 0 fun a => a.id

/-- The identity of a schedule image; 0 where there is none. -/
def schedIdOf (im : Option SchedImage) : DWord := im.elim 0 fun a => a.schedId

/-- The seal check of R199: an image of another SAFE_ID whose seal code the reading is not. -/
def sealMismatch (s : State) : Bool :=
  match s.run.shadow.bind fun a => a.safety with
  | some c => ((safetyCfg s).elim true fun o => o.safeId != c.safeId) && s.safety.sealNow != c.sealCode
  | none => false

/-- First stage, application bank: trio coordination, then the seal check. -/
def appStage1 (s : State) : Option Byte :=
  if s.run.ownTarget && s.run.armedTrio && !partnersAgree s (fun m => m.appSwap) s.run.armedFrame (appId s.run.shadow) then some 0x25
  else if sealMismatch s then some 0x27
  else none

/-- First stage, schedule bank: trio coordination. -/
def schedStage1 (s : State) : Option Byte :=
  if s.sched.armedTrio && !partnersAgree s (fun m => m.swap) s.sched.armedFrame (schedIdOf s.sched.shadow) then some 0x25 else none

/-- The commit point of the next major frame: both banks are decided in two stages. -/
def decideBanks (s : State) : State :=
  if !lastRound s then s else
  let a := appDue s
  let b := schedDue s
  let a1 := if a then appStage1 s else none
  let b1 := if b then schedStage1 s else none
  let imNext := if b && b1.isNone then s.sched.shadow else s.sched.active
  let appNext := if a && a1.isNone then s.run.shadow else s.run.active
  let a2 := if a then a1.orElse fun _ => if imNext.elim false fun im => im.appId == appId s.run.shadow then none else some 0x26 else none
  let b2 := if b then b1.orElse fun _ => if appNext.elim false fun ap => (s.sched.shadow.elim false fun im => im.appId == ap.id) then none else some 0x24 else none
  let s := updRun (fun r => { r with commitHeld := true }) s
  let s := if a2 == some 0x27 then { s with safety := { s.safety with exchSeal := true } } else s
  let s := if a2.isSome then cancelApp a2 s else s
  if b2.isSome then cancelSched b2 s else s

/-- APP_LOAD. -/
def execAppLoad (q : Req) (s : State) : Out := .next (onPage q .runControl cmdAppLoad s)
/-- APP_VALIDATION_END. -/
def execAppValidationEnd (s : State) : Out := .next (endAppValidation s)
/-- APP_ACTIVATE. -/
def execAppActivate (q : Req) (trio : Bool) (s : State) : Out := .next (onPage q .runControl (cmdAppActivate trio) s)
/-- APP_ARM. -/
def execAppArm (q : Req) (s : State) : Out := .next (onPage q .runControl cmdAppArm s)
/-- APP_CANCEL. -/
def execAppCancel (q : Req) (s : State) : Out := .next (onPage q .runControl cmdAppCancel s)
/-- APP_DISCARD. -/
def execAppDiscard (q : Req) (s : State) : Out := .next (onPage q .runControl cmdAppDiscard s)

end Sys2Proof.Machine
end

