-- ==== Sys2Proof/Machine/Field.lean ====
section
/-! DEFINITION. The field tile (Ch. 8): its link, supply and die temperature, inputs, test pulses, outputs and their protection, the
field fence, analogue channels and trims, and what is latched and committed at a round start. -/
namespace Sys2Proof.Machine

/-! ### Reset (R244) -/

/-- Foothill after a reset that reaches it: every register at its reset value, and the field link as `link` says. -/
def fieldAfterReset (link : Bool) : Field := { linkUp := link }

/-- Foothill's pages. -/
def isFieldPage : Page → Bool
  | .field | .panel => true
  | _ => false

/-- A reset of Foothill: its channels, registers, page headers and latches. -/
def resetFoothill (link : Bool) (s : State) : State :=
  let s := dropLatches isFieldPage (updHdr .panel (fun _ => {}) (updHdr .field (fun _ => {}) s))
  { s with field := fieldAfterReset link, panel := {} }

/-! ### Link and supply (R218 to R220, R343, R404) -/

/-- Is the channel in the blanking window of a supply that pulsed it (R227, R243)? -/
def diBlanked (s : State) (n : Fin 64) : Bool :=
  (List.finRange 8).any fun k => s.field.tpsBlank.getLsbD k.val && (Vec.at s.field.tpsChans k).getLsbD n.val

/-- The channels whose filter passes each raw sample at once: a debounce time of 0, outside a blanking window (R224, R227). -/
def atOnce (s : State) : BitVec 64 :=
  bitsOf 64 fun c => if h : c < 64 then (diCfg s ⟨c, h⟩).elim false (fun cfg => cfg.debounceUs = 0) && !diBlanked s ⟨c, h⟩ else false

/-- The raw samples and the level of FIELD_FENCE_N that Foothill reports, which its page shows, and the raw seal levels, which Saddle's
safety page shows (R224, R245, R216). -/
def takePins (pins : FieldPins) (s : State) : State :=
  let m := atOnce s
  let s := { s with safety := { s.safety with sealRaw := pins.sealIn } }
  updField (fun f => { f with diRaw := pins.di, diFilt := (f.diFilt &&& ~~~m) ||| (pins.di &&& m), fenceHigh := pins.fenceHigh }) s

/-- The hub's port of the field link is up again. -/
def hubUp (s : State) : State := { s with hub := { s.hub with up := setBit s.hub.up 8 true } }

/-- Saddle's end of the field link goes down: the hub's port and LINK on both pages (R245, R431). It is no fabric link, whose urgent source
is 504 (R13, Table 13.3; log entry 109). -/
def fieldLinkFalls (s : State) : State :=
  if !s.field.linkUp then s else
  raise .field 3 none .unstated (portDown ⟨0, 8⟩ 4 (updField (fun f => { f with linkUp := false }) s))

/-- A valid link frame and its answer: a link that was down comes up. An unpowered Foothill receives none, and Saddle sends none while
PD_FIELD is OFF or STOPPING (R343). -/
def linkFrame (pins : FieldPins) (s : State) : State :=
  let pd := Vec.at s.super.pd 7
  if !fieldLive s || pd == .off || pd == .stopping then s
  else
    let s := takePins pins s
    if s.field.linkUp then s else raise .field 3 none .unstated (hubUp (updField (fun f => { f with linkUp := true }) s))

/-- No valid link frame for 200 us: Foothill enters ALONE and Saddle handles its end as a failed self-test (R219), unless PD_FIELD is not ON
(R343). -/
def linkTimeout (s : State) : State :=
  if !s.part.hasField then s else
  let up := s.field.linkUp
  let s := fieldLinkFalls s
  let s := if s.field.alone || !s.field.powered then s
    else note .field 0x81 none 0 0 (updField (fun f => { f with alone := true }) s)
  let s := refreshField s
  if (if startingUp s then !up else Vec.at s.super.pd 7 != .on) then s else failDevice 0xF1 7 s

/-- A new VFIELD reading. -/
def setVfield (mv : BitVec 16) (s : State) : State := if s.part.hasField then updField (fun f => { f with vfield := mv }) s else s

/-- Under-voltage lock-out begins (Table 8.1). -/
def uvloBegin (mv : BitVec 16) (s : State) : State :=
  if s.field.uvlo || !fieldLive s then setVfield mv s else
  let t := refreshField (updField (fun f => { f with uvlo := true }) (setVfield mv s))
  newFault none (noteConds [.field] s t)

/-- Under-voltage lock-out ends: outputs wait for the next commit instant of their groups, DI channels for their debounce time
plus 10 ms (R218). -/
def uvloEnd (mv : BitVec 16) (s : State) : State :=
  if !s.field.uvlo then setVfield mv s else
  let t := refreshField (updField (fun f => { f with
    uvlo := false, doWait := BitVec.allOnes 24, tloWait := BitVec.allOnes 8, aoWait := BitVec.allOnes 16
    diStart := BitVec.allOnes 64 }) (setVfield mv s))
  noteConds [.field] s t

/-- 145 degrees in units of 0.25. -/
def hotLevel : Int := 580

/-- A die temperature with its HOT condition (R220). -/
def fieldTemp (temp : BitVec 11) (s : State) : State :=
  if !s.part.hasField then s else
  noteConds [.field] s (updField (fun f => { f with temp := temp, hot := decide (hotLevel ≤ temp.toInt) }) s)

/-- 155 degrees: everything switches off and Saddle handles it as a failed self-test (R220). -/
def fieldShutdown (temp : BitVec 11) (s : State) : State :=
  let s := fieldTemp temp s
  if s.field.shutdown || !fieldLive s then s else
  let s := refreshField (updField (fun f => { f with shutdown := true }) s)
  failDevice 0xF5 7 (note .field 0x80 none ((temp.signExtend 32)) 0 s)

/-- VFIELD rises above 10 V: Foothill takes a power-on reset of its own (R404). -/
def foothillOn (s : State) : State :=
  if s.field.powered || !s.part.hasField then s else resetFoothill false s

/-- VFIELD falls below 10 V: Foothill is unpowered (R404). -/
def foothillOff (s : State) : State := if fieldLive s then refreshField (updField (fun f => { f with powered := false }) s) else s

/-! ### Digital inputs and test pulses (R224 to R229) -/

/-- A level has held for its debounce time: the filter takes it (R224). In a blanking window the filter gets the level from before the
window, so it takes no other (R227). -/
def debounce (ch : DebChan) (level : Bool) (s : State) : State :=
  if !fieldLive s then s else
  match ch with
  | .di n =>
    if diBlanked s n && s.field.diBefore.getLsbD n.val != level then s
    else updField (fun f => { f with
      diFilt := setBit f.diFilt n.val level
      diRaw := if diBlanked s n then f.diRaw else setBit f.diRaw n.val level }) s
  | .seal n => updField (fun f => { f with sealFilt := setBit f.sealFilt n.val level })
      { s with safety := { s.safety with sealRaw := setBit s.safety.sealRaw n.val level } }

/-- A wire break is detected (R225); not in a blanking window, and only where detection is enabled. -/
def wireBreak (n : Fin 64) (s : State) : State :=
  if fieldLive s && (diCfg s n).elim false (fun c => c.wireBreak) && !diBlanked s n && !s.field.diWire.getLsbD n.val then
    newFault (diOwner s n) (updField (fun f => { f with diWire := setBit f.diWire n.val true }) s)
  else s

/-- A wire break has cleared. -/
def wireWhole (n : Fin 64) (s : State) : State :=
  if diBlanked s n then s else updField (fun f => { f with diWire := setBit f.diWire n.val false }) s

/-- A DI's wait after a reset or a lock-out ends (R218, R244). -/
def diStarted (n : Fin 64) (s : State) : State := updField (fun f => { f with diStart := setBit f.diStart n.val false }) s

/-- Does a supply deliver outside its pulse: FLD_TPS_RB.ON? -/
def tpsOn (s : State) : BitVec 8 := if fieldDead s then 0 else ~~~s.field.tpsOff

/-- Nanoseconds of a pulse frame (R226). -/
def pulseFrame : Nat := 10000000

/-- The start of supply `n`'s next pulse with a period of `ms`, not before `now` and in no frame that starts before `from_`: at n × 1,250 µs
in a frame whose number is a multiple of the period in frames (R226). -/
def nextPulse (n : Fin 8) (ms : Nat) (now from_ : Nat) : Nat :=
  let off := n.val * 1250000
  let per := max 1 (ms / 10)
  let k := max ((now - off + pulseFrame - 1) / pulseFrame) ((from_ + pulseFrame - 1) / pulseFrame)
  (k + per - 1) / per * per * pulseFrame + off

/-- The next pulse of a supply with its settings: those from before a program exchange in pulse frames that start before it (R243); none
before the frame that a step lets pulse again (R266). -/
def pulseDue (s : State) (n : Fin 8) : Option (Nat × TpsCfg) :=
  let f := s.field
  let now := nowNs s
  let old := (f.tpsOld.lookup n).bind fun c =>
    let t := nextPulse n c.periodMs.toNat now f.tpsHoldUntil
    if t < f.tpsFrom + n.val * 1250000 then some (t, c) else none
  old <|> (tpsCfg s n).map fun c => (nextPulse n c.periodMs.toNat now (max f.tpsHoldUntil f.tpsFrom), c)

/-- The channels that are test-pulsed by a supply. -/
def pulsedChannels (s : State) (n : Fin 8) : BitVec 64 :=
  bitsOf 64 fun c => if h : c < 64 then (diCfg s ⟨c, h⟩).elim false fun x => x.testPulse && x.tps == n else false

/-- A test pulse starts at its instant and with it its blanking window, for the channels that have the levels of now (R226, R227); none while
the supply is off. -/
def pulseStart (n : Fin 8) (s : State) : State :=
  match pulseDue s n with
  | none => s
  | some (t, c) =>
    if !(tpsOn s).getLsbD n.val || s.field.tpsBlank.getLsbD n.val then s else
    let s := reachNative t s
    let chans := pulsedChannels s n
    updField (fun f => { f with
      tpsPulse := setBit f.tpsPulse n.val true, tpsBlank := setBit f.tpsBlank n.val true
      tpsChans := Vec.put f.tpsChans n chans, tpsEnd := Vec.put f.tpsEnd n (localNs s + 1000 * c.widthUs.toNat + 50000)
      diBefore := (f.diBefore &&& ~~~chans) ||| (f.diRaw &&& chans) }) s

/-- What the pulse of supply `n` found for one of its channels (R228), and the level it passes to the filter (R227). -/
def pulseJudge (passed raw : BitVec 64) (n : Fin 8) (s : State) (c : Fin 64) : State :=
  if !(Vec.at s.field.tpsChans n).getLsbD c.val then s else
  let f := s.field
  let was := f.diCross.getLsbD c.val
  let ok := passed.getLsbD c.val
  let atOnce := (diCfg s c).elim false fun cfg => cfg.debounceUs = 0
  let s := updField (fun f => { f with
    diRaw := setBit f.diRaw c.val (raw.getLsbD c.val)
    diFilt := if atOnce then setBit f.diFilt c.val (raw.getLsbD c.val) else f.diFilt
    diCross := setBit f.diCross c.val (if ok then was && !f.diPassed.getLsbD c.val else true)
    diPassed := setBit f.diPassed c.val ok }) s
  if !ok && !was then newFault (diOwner s c) s else s

/-- The blanking window of a supply ends with the time that it lasts, whatever a step has done meanwhile (R266). -/
def pulseEnd (n : Fin 8) (passed raw : BitVec 64) (s : State) : State :=
  if s.field.tpsBlank.getLsbD n.val then
    let s := reachLocal (Vec.at s.field.tpsEnd n) s
    (List.finRange 64).foldl (pulseJudge passed raw n)
      (updField (fun f => { f with tpsPulse := setBit f.tpsPulse n.val false, tpsBlank := setBit f.tpsBlank n.val false }) s)
  else s

/-- What a program exchange changes at Foothill (R243): the supplies keep their settings up to the first pulse frame at or after it, and a
channel for which the new map has no test pulse or no wire-break detection has no finding of it. -/
def exchangeField (old : IoMap) (s : State) : State :=
  let wb := bitsOf 64 fun c => if h : c < 64 then (diCfg s ⟨c, h⟩).elim false fun x => x.wireBreak else false
  let tp := bitsOf 64 fun c => if h : c < 64 then (diCfg s ⟨c, h⟩).elim false fun x => x.testPulse else false
  updField (fun f => { f with
    tpsOld := old.tps, tpsFrom := nowNs s, diWire := f.diWire &&& wb, diCross := f.diCross &&& tp, diPassed := f.diPassed &&& tp }) s

/-- A supply that is overloaded for 2 ms switches off (R229). -/
def tpsTrip (n : Fin 8) (s : State) : State :=
  if (tpsOn s).getLsbD n.val then newFault none (updField (fun f => { f with tpsOff := setBit f.tpsOff n.val true }) s) else s

/-- After 1 s it switches on again. -/
def tpsBack (n : Fin 8) (s : State) : State := updField (fun f => { f with tpsOff := setBit f.tpsOff n.val false }) s

/-! ### Outputs and their protection (R231 to R235) -/

/-- A high-side DO trips, or shuts down when `hot` (R231, R232). -/
def doTripOff (n : Fin 24) (hot : Bool) (s : State) : State :=
  newFault (doOwner s n) (bump .field 0x12 1 (refreshField (updField (fun f => { f with
    doTrip := setBit f.doTrip n.val true, doSeenOff := setBit f.doSeenOff n.val false
    doHot := if hot then setBit f.doHot n.val true else f.doHot }) s)))

/-- A two-leg channel is locked out (R234): FAULT with the severity of a two-leg lock-out (Table 14.3). -/
def lockTlo (n : Fin 8) (s : State) : State :=
  if s.field.tloLock.getLsbD n.val then s else
  let s := refreshField (updField (fun f => { f with
    tloLock := setBit f.tloLock n.val true, tloCleanTick := Vec.put f.tloCleanTick n s.tb.tick }) s)
  raiseSev .field 0 (tloOwner s) 6 .unstated (bump .field 0x11 1 s)

/-- Is the channel's switch on? -/
def switchOn (s : State) : OutChan → Bool
  | .dout n => s.field.doSw.getLsbD n.val
  | .tlo n => s.field.tloSw.getLsbD n.val

/-- Is the channel in inrush blanking? -/
def inBlanking (s : State) : OutChan → Bool
  | .dout n => s.field.doBlank.getLsbD n.val
  | .tlo n => s.field.tloBlank.getLsbD n.val

/-- The channel's trip decision: currents above the trip level on its one switch, or on its two legs. -/
def tripDecide (o : OutChan) (hi lo : Bool) (s : State) : State :=
  match o with
  | .dout n => if hi then doTripOff n false s else s
  | .tlo n => if hi || lo then lockTlo n (bump .field 0x12 1 s) else s

/-- Inrush blanking ends; a switch above its trip level at that instant trips (R231). -/
def blankingEnd (o : OutChan) (hi lo : Bool) (s : State) : State :=
  if switchOn s o && inBlanking s o then
    tripDecide o hi lo (updField (fun f => match o with
      | .dout n => { f with doBlank := setBit f.doBlank n.val false }
      | .tlo n => { f with tloBlank := setBit f.tloBlank n.val false }) s)
  else s

/-- After blanking, current above the trip level for 100 us trips (R231). -/
def overCurrent (o : OutChan) (hi lo : Bool) (s : State) : State :=
  if switchOn s o && !inBlanking s o then tripDecide o hi lo s else s

/-- Thermal shutdown of a switch, in blanking too (R231). -/
def switchHot (o : OutChan) (s : State) : State :=
  if !switchOn s o then s else
  match o with
  | .dout n => doTripOff n true s
  | .tlo n => lockTlo n (bump .field 0x12 1 s)

/-- A finding of the off-state check (R233, Table 8.6): either reading at 1 is a short. -/
def offCheck (n : Fin 8) (hi lo : Bool) (s : State) : State :=
  if s.field.tloSw.getLsbD n.val || !fieldLive s then s else
  let short := hi || lo
  let s := settleMis <| updField (fun f => { f with
    tloHi := setBit f.tloHi n.val hi, tloLo := setBit f.tloLo n.val lo
    tloCleanTick := if short || f.tloShort.getLsbD n.val then Vec.put f.tloCleanTick n s.tb.tick else f.tloCleanTick
    tloShort := setBit f.tloShort n.val short }) s
  if short then lockTlo n s else s

/-- A readback has differed from its expected value for 2 ms (R235). Where the switch stands as expected it is the terminal that
differs; which terminal of a two-leg output is not stated and drawn free. -/
def mismatch (o : OutChan) (s : State) : State :=
  if !fieldLive s then s else
  match o with
  | .dout n =>
    let e := doDrive s n
    newFault (doOwner s n) (updField (fun f => { f with
      doMis := setBit f.doMis n.val true
      doTerm := if f.doSw.getLsbD n.val == e then setBit f.doTerm n.val (!e) else f.doTerm }) s)
  | .tlo n =>
    let e := tloDrive s n
    let (w, s) := drawFree 2 s
    let hi := if w.getLsbD 0 == e && w.getLsbD 1 == e then !e else w.getLsbD 0
    newFault (tloOwner s) (updField (fun f =>
      let f := { f with tloMis := setBit f.tloMis n.val true }
      if f.tloSw.getLsbD n.val == e then
        { f with tloHi := setBit f.tloHi n.val hi, tloLo := setBit f.tloLo n.val (w.getLsbD 1) }
      else f) s)

/-- 10 ms in ticks. -/
def cleanTicks : Nat := 5000000

/-- TLO_UNLOCK: every locked channel is released whose active command is OFF and whose off-state check has found no short for
10 ms (R234). -/
def unlockTlo (s : State) : State :=
  let free := bitsOf 8 fun n => if h : n < 8 then
      !s.field.tloCmd.getLsbD n && !s.field.tloShort.getLsbD n &&
        decide (Vec.at s.field.tloCleanTick ⟨n, h⟩ + cleanTicks ≤ s.tb.tick)
    else false
  refreshField (updField (fun f => { f with tloLock := f.tloLock &&& ~~~free }) s)

/-! ### Fence (R236) -/

/-- FIELD_FENCE_N low for 6 us: Foothill is fenced, and Saddle gives up with cause FENCED (R179). -/
def fieldFenced (s : State) : State :=
  if !fieldLive s then s else
  let s := updField (fun f => { f with fenceHigh := false, fenceSeen := true }) s
  if s.field.fenced then s else
  giveUp 0x0C (raiseUrgent .field 4 510 none .unstated (refreshField (updField (fun f => { f with fenced := true }) s)))

/-! ### Analogue channels (R237 to R241) -/

/-- n / d rounded to binary32. -/
def ratB32 (n d : Nat) : Word :=
  BitVec.ofNat 32 (b32.encode ⟨0, false⟩ false (n * 2 ^ 64 / d) (-64) (n * 2 ^ 64 % d != 0)).1

/-- The AI status of a current in units of 0.1 uA, after the status before it (Table 8.8 with the hysteresis of R238). -/
def aiClass (before : BitVec 4) (u : Nat) : BitVec 4 :=
  let low := before == 1 || before == 3
  let high := before == 2 || before == 4
  if u < 36000 then 3
  else if u < 38000 then 1
  else if 210000 < u then 4
  else if 205000 < u then 2
  else if low && decide (u < 38500) then 1
  else if high && decide (204500 < u) then 2
  else 0

/-- One in the fixed point of the filter: 2^40. -/
def filterOne : Nat := 2 ^ 40

/-- e to the power −1 / (8 τ), for a time constant of τ ms: what a first-order filter keeps of its output over one conversion of 125 us
(Table 8.7), in units of 2^-40, from the first terms of its series (log entry 31). -/
def filterKeeps (tauMs : Nat) : Nat :=
  let x := filterOne / (8 * tauMs)
  let x2 := x * x / filterOne
  let x3 := x2 * x / filterOne
  let x4 := x3 * x / filterOne
  let x5 := x4 * x / filterOne
  filterOne - x + x2 / 2 - x3 / 6 + x4 / 24 - x5 / 120

/-- A power of a number of the filter's fixed point, by squaring; `bits` bounds the binary digits of the exponent. -/
def filterPow : Nat → Nat → Nat → Nat
  | 0, _, _ => filterOne
  | d + 1, b, n => if n = 0 then filterOne else
    let r := filterPow d (b * b / filterOne) (n / 2)
    if n % 2 = 1 then r * b / filterOne else r

/-- The output of a first-order filter with a time constant of τ ms that stood at `p` and has followed, for `n` conversions, an input
whose weighted mean is `u` (R237); without a time constant it is the input. -/
def firstOrder (tauMs : Nat) (p u n : Nat) : Nat :=
  if tauMs = 0 then u
  else
    let k := filterPow 40 (filterKeeps tauMs) n
    (p * k + u * (filterOne - k)) / filterOne

/-- An AI at a sample instant: no command carries its current. The weighted mean of what the converter read since the sample before is drawn
free between 0 and 25 mA, and the filter of the channel's time constant follows it (log entry 31); drawn free are also a failed self-check of
the converter and the NaN it reads as. -/
def sampleAi (s : State) (n : Fin 32) : State :=
  let (w, s) := drawFree 41 s
  let u := firstOrder ((aiCfg s n).elim 0 fun c => c.filterMs.toNat) (Vec.at s.field.aiFilt n) (min 250000 (bits w 0 18).toNat)
    ((localNs s - Vec.at s.field.aiAt n) / 125000)
  let bad := w.getLsbD 18
  let off := s.field.uvlo || !fieldLive s || s.field.aiOff.getLsbD n.val
  updField (fun f => { f with
    aiFilt := Vec.put f.aiFilt n u, aiAt := Vec.put f.aiAt n (localNs s)
    aiCur := Vec.put f.aiCur n (if bad then 0x7FC00000 ||| (bits w 19 22).setWidth 32 else ratB32 u 10000)
    aiStat := Vec.upd f.aiStat n fun b => if off then 5 else if bad then 6 else aiClass b u }) s

/-- An AI's loop supply is overloaded for 20 ms and switches off (R237). -/
def aiTrip (n : Fin 32) (s : State) : State :=
  if (aiCfg s n).elim false fun c => c.supply then updField (fun f => { f with aiOff := setBit f.aiOff n.val true }) s else s

/-- After 1 s it switches on again. -/
def aiBack (n : Fin 32) (s : State) : State := updField (fun f => { f with aiOff := setBit f.aiOff n.val false }) s

/-- Set an AO's status; a change raises AO (R245). -/
def setAoStat (n : Fin 16) (st : BitVec 4) (s : State) : State :=
  if Vec.at s.field.aoStat n == st then s
  else raise .field 5 (aoOwner s n) .unstated (updField (fun f => { f with aoStat := Vec.put f.aoStat n st }) s)

/-- The AO status of Table 8.10; `held` says that the condition has lasted 5 ms. Before that the status stays. -/
def aoStatus (s : State) (n : Fin 16) (na : Nat) (saturated held : Bool) : BitVec 4 :=
  let old := Vec.at s.field.aoStat n
  if s.field.trim.getLsbD n.val then 4 else
  match aoDrive s n with
  | none => 1
  | some ua =>
    let cmd := ua * 1000
    if cmd ≤ na + 200000 && na ≤ cmd + 200000 then 0
    else if !held then old
    else if !saturated then 5
    else if na < 500000 then (if 3500000 ≤ cmd then 2 else old)
    else if na + 200000 < cmd then 3
    else old

/-- AO_STATUS_DECIDE: every 1 ms (R241). -/
def aoDecide (n : Fin 16) (na : BitVec 25) (saturated held : Bool) (s : State) : State :=
  if !fieldLive s then s else
  setAoStat n (aoStatus s n na.toNat saturated held) (updField (fun f => { f with aoMeas := Vec.put f.aoMeas n na }) s)

/-- Result of a trim command, with TRIM_DONE. -/
def trimDone (c : Byte) (s : State) : State := raise .field 7 none .unstated (updField (fun f => { f with trimCode := c }) s)

/-- The selected AO channel. -/
def trimChan (s : State) : Fin 16 := ⟨s.field.trimSel.toNat, s.field.trimSel.isLt⟩

/-- DRIVE4 or DRIVE20: refused with DRIVING unless the channel is held off (R240). -/
def cmdTrimDrive (twenty : Bool) (s : State) : State :=
  let n := trimChan s
  if aoCommanded s n then trimDone 0x70 s
  else trimDone 0 (setAoStat n 4 (settleAsk (updField (fun f => { f with
    trim := setBit f.trim n.val true, trim20 := setBit f.trim20 n.val twenty }) s)))

/-- A channel leaves trim mode. -/
def leaveTrim (n : Fin 16) (s : State) : State :=
  if s.field.trim.getLsbD n.val then
    let s := settleAsk (updField (fun f => { f with trim := setBit f.trim n.val false }) s)
    if (aoDrive s n).isNone then setAoStat n 1 s else s
  else s

/-- APPLY: refused with RANGE unless both measured currents lie in their ranges; else the trim is taken and trim mode ends. -/
def cmdTrimApply (s : State) : State :=
  let n := trimChan s
  let a := s.field.trimM4
  let b := s.field.trimM20
  if a < 3900000 || 4100000 < a || b < 19900000 || 20100000 < b then trimDone 0x71 s
  else trimDone 0 (leaveTrim n (updField (fun f => { f with m4 := Vec.put f.m4 n a, m20 := Vec.put f.m20 n b }) s))

/-- EXIT leaves the trim unchanged. -/
def cmdTrimExit (s : State) : State := trimDone 0 (leaveTrim (trimChan s) s)

/-! ### Sample and commit instants (R222) -/

/-- The value and the broken bit of every DI, as latched: a broken channel reads 0 (Table 8.4). -/
def diBroken64 (s : State) : BitVec 64 := bitsOf 64 fun n => if h : n < 64 then diBroken s ⟨n, h⟩ else false

/-- FLD_DI_VAL and FLD_DI_BRK take the values of all channels. -/
def latchDi (s : State) : State :=
  let b := diBroken64 s
  updField (fun f => { f with diBrk := b, diVal := f.diFilt &&& ~~~b }) s

/-- An input flit with its stamp in words 14 and 15 (R221). -/
def stampFlit (s : State) (ws : List Word) : List Byte := takePad 56 (bytesOfWords ws) ++ bytesOf 8 (nowNs s)

/-- Latch an input flit. -/
def latchFlit (off : Nat) (ws : List Word) (s : State) : State :=
  let d := stampFlit s ws
  updField (fun f => { f with flits := memWrite f.flits off d }) s

/-- Word 0 of DI bank `b`. -/
def diWord (s : State) (b : Nat) : Word :=
  bitsOf 32 fun i => let c := 8 * b + i / 2
    decide (i < 16) && (if i % 2 = 0 then s.field.diVal.getLsbD c else s.field.diBrk.getLsbD c)

/-- The AI statuses of bank `b` (Table 8.2). -/
def aiStatWord (s : State) (b : Nat) : Word :=
  (List.range 8).foldl (fun w c => w ||| fld (s.field.aiStat[8 * b + c]?.getD 0) (4 * c)) 0

/-- The AO statuses of eight channels from `b` * 8. -/
def aoStatWord (s : State) (b : Nat) : Word :=
  (List.range 8).foldl (fun w c => w ||| fld (s.field.aoStat[8 * b + c]?.getD 0) (4 * c)) 0

/-- Sample a DI or AI bank. -/
def sampleBank (cls inst : Nat) (s : State) : State :=
  if cls = 0 then latchFlit (64 * inst) [diWord s inst] s
  else if cls = 1 then
    let s := ((List.finRange 32).filter fun n => n.val / 8 == inst).foldl sampleAi s
    latchFlit (0x200 + 64 * inst)
      ((List.range 8).map (fun c => s.field.aiCur[8 * inst + c]?.getD 0) ++ [aiStatWord s inst]) s
  else s

/-- The seal-and-fence and readback flits, latched at every sample instant (R222). -/
def latchReadback (s : State) : State :=
  let f := s.field
  latchFlit 0x440 [f.doTerm.setWidth 32, f.doSw.setWidth 32, fld f.tloSw 0 ||| fld f.tloHi 8 ||| fld f.tloLo 16,
    (tpsOn s).setWidth 32, aoStatWord s 0, aoStatWord s 1]
    (latchFlit 0x400 [fld f.sealFilt 0 ||| flag f.fenceHigh 8] s)

/-- A write to an output flit is held pending (R222); it reaches Foothill while PD_FIELD is ON and the link is up (R343). -/
def writeFieldFlit (off : Nat) (d : List Byte) (s : State) : State :=
  if !fieldReachable s then s else
  let byte0 := (d.headD 0)
  if 0x1000 ≤ off && off < 0x10C0 then
    let b := (off - 0x1000) / 64
    updField (fun f => { f with
      doPend := (f.doPend &&& ~~~((0xFF : BitVec 24) <<< (8 * b))) ||| (byte0.setWidth 24 <<< (8 * b))
      doNew := setBit f.doNew b true }) s
  else if off = 0x10C0 then updField (fun f => { f with tloPend := byte0, tloNew := true }) s
  else if 0x1100 ≤ off && off < 0x1180 then
    let b := (off - 0x1100) / 64
    updField (fun f => { f with
      aoPend := Vector.ofFn fun n : Fin 16 =>
        if n.val / 8 = b then wordOf (d.drop (4 * (n.val % 8))) &&& 0x3FFFF else Vec.at f.aoPend n
      aoNew := setBit f.aoNew b true }) s
  else s

/-- After a DO bank's commit: a tripped channel needs OFF at one commit and ON at a later one, and after a thermal shutdown must have
cooled, which is drawn free (R232). -/
def doRestart (s : State) (n : Fin 24) : State :=
  let f := s.field
  if !f.doTrip.getLsbD n.val then s
  else if !f.doCmd.getLsbD n.val then updField (fun f => { f with doSeenOff := setBit f.doSeenOff n.val true }) s
  else if !f.doSeenOff.getLsbD n.val then s
  else
    let (w, s) := if f.doHot.getLsbD n.val then drawFree 1 s else ((1 : BitVec 1), s)
    let clear := w.getLsbD 0
    updField (fun f => { f with
      doTrip := if clear then setBit f.doTrip n.val false else f.doTrip
      doHot := if clear then setBit f.doHot n.val false else f.doHot
      doSeenOff := setBit f.doSeenOff n.val false }) s

/-- The commit instant of a DO bank, the two-leg outputs or an AO bank: pending commands become active (R222). -/
def commitBank (cls inst : Nat) (s : State) : State :=
  if cls = 2 then
    let m : BitVec 24 := (0xFF : BitVec 24) <<< (8 * inst)
    let s := updField (fun f => { f with
      doCmd := if f.doNew.getLsbD inst then (f.doCmd &&& ~~~m) ||| (f.doPend &&& m) else f.doCmd
      doNew := setBit f.doNew inst false, doWait := f.doWait &&& ~~~m }) s
    ((List.finRange 24).filter fun n => n.val / 8 == inst).foldl doRestart s
  else if cls = 3 then
    updField (fun f => { f with tloCmd := if f.tloNew then f.tloPend else f.tloCmd, tloNew := false, tloWait := 0 }) s
  else if cls = 4 then
    updField (fun f => { f with
      aoCmd := if f.aoNew.getLsbD inst then
          Vector.ofFn fun n : Fin 16 => if n.val / 8 = inst then Vec.at f.aoPend n else Vec.at f.aoCmd n
        else f.aoCmd
      aoNew := setBit f.aoNew inst false
      aoWait := f.aoWait &&& ~~~((0xFF : BitVec 16) <<< (8 * inst)) }) s
  else s

/-! ### The commands -/

/-- FIELD_LINK_FRAME. -/
def execFieldLinkFrame (pins : FieldPins) (s : State) : Out := .next (linkFrame pins s)
/-- FIELD_LINK_TIMEOUT. -/
def execFieldLinkTimeout (s : State) : Out := .next (linkTimeout s)
/-- UVLO_ENTER. -/
def execUvloEnter (mv : BitVec 16) (s : State) : Out := .next (uvloBegin mv s)
/-- UVLO_EXIT. -/
def execUvloExit (mv : BitVec 16) (s : State) : Out := .next (uvloEnd mv s)
/-- FOOTHILL_HOT. -/
def execFoothillHot (temp : BitVec 11) (s : State) : Out := .next (fieldTemp temp s)
/-- FOOTHILL_SHUTDOWN. -/
def execFoothillShutdown (temp : BitVec 11) (s : State) : Out := .next (fieldShutdown temp s)
/-- FOOTHILL_POWER_ON. -/
def execFoothillPowerOn (s : State) : Out := .next (foothillOn s)
/-- FOOTHILL_POWER_LOSS. -/
def execFoothillPowerLoss (s : State) : Out := .next (foothillOff s)
/-- DEBOUNCE_PASS. -/
def execDebouncePass (ch : DebChan) (level : Bool) (s : State) : Out := .next (debounce ch level s)
/-- WIRE_BREAK_SET. -/
def execWireBreakSet (n : Fin 64) (s : State) : Out := .next (wireBreak n s)
/-- WIRE_BREAK_CLEAR. -/
def execWireBreakClear (n : Fin 64) (s : State) : Out := .next (wireWhole n s)
/-- DI_READ_BROKEN_END. -/
def execDiReadBrokenEnd (n : Fin 64) (s : State) : Out := .next (diStarted n s)
/-- TEST_PULSE_START. -/
def execTestPulseStart (n : Fin 8) (s : State) : Out := .next (pulseStart n s)
/-- BLANKING_WINDOW_END. -/
def execBlankingWindowEnd (n : Fin 8) (passed raw : BitVec 64) (s : State) : Out := .next (pulseEnd n passed raw s)
/-- TPS_OVERLOAD. -/
def execTpsOverload (n : Fin 8) (s : State) : Out := .next (tpsTrip n s)
/-- TPS_RESTART. -/
def execTpsRestart (n : Fin 8) (s : State) : Out := .next (tpsBack n s)
/-- INRUSH_BLANKING_END. -/
def execInrushBlankingEnd (o : OutChan) (overHi overLo : Bool) (s : State) : Out := .next (blankingEnd o overHi overLo s)
/-- OUTPUT_TRIP. -/
def execOutputTrip (o : OutChan) (overHi overLo : Bool) (s : State) : Out := .next (overCurrent o overHi overLo s)
/-- THERMAL_SHUTDOWN. -/
def execThermalShutdown (o : OutChan) (s : State) : Out := .next (switchHot o s)
/-- TLO_OFF_CHECK. -/
def execTloOffCheck (n : Fin 8) (hi lo : Bool) (s : State) : Out := .next (offCheck n hi lo s)
/-- READBACK_MISMATCH. -/
def execReadbackMismatch (o : OutChan) (s : State) : Out := .next (mismatch o s)
/-- TLO_UNLOCK. -/
def execTloUnlock (q : Req) (s : State) : Out := .next (onPage q .field unlockTlo s)
/-- FIELD_FENCE. -/
def execFieldFence (s : State) : Out := .next (fieldFenced s)
/-- FENCE_SEEN. -/
def execFenceSeen (s : State) : Out := .next (updField (fun f => { f with fenceSeen := f.fenceSeen || fieldLive s }) s)
/-- AI_SUPPLY_OVERLOAD. -/
def execAiSupplyOverload (n : Fin 32) (s : State) : Out := .next (aiTrip n s)
/-- AI_SUPPLY_RESTART. -/
def execAiSupplyRestart (n : Fin 32) (s : State) : Out := .next (aiBack n s)
/-- AO_STATUS_DECIDE. -/
def execAoStatusDecide (n : Fin 16) (measuredNa : BitVec 25) (saturated held : Bool) (s : State) : Out :=
  .next (aoDecide n measuredNa saturated held s)
/-- TRIM_DRIVE4. -/
def execTrimDrive4 (q : Req) (s : State) : Out := .next (onPage q .field (cmdTrimDrive false) s)
/-- TRIM_DRIVE20. -/
def execTrimDrive20 (q : Req) (s : State) : Out := .next (onPage q .field (cmdTrimDrive true) s)
/-- TRIM_APPLY. -/
def execTrimApply (q : Req) (s : State) : Out := .next (onPage q .field cmdTrimApply s)
/-- TRIM_EXIT. -/
def execTrimExit (q : Req) (s : State) : Out := .next (onPage q .field cmdTrimExit s)

end Sys2Proof.Machine
end

