-- ==== Sys2Proof/Machine/Panel.lean ====
section
/-! DEFINITION. The panel port (Ch. 9): common writes, the stale write, temperature, VPNL, crack loop and stress counters. -/
namespace Sys2Proof.Machine

/-- Change the panel port. -/
def updPanel (f : Panel → Panel) (s : State) : State := { s with panel := f s.panel }

/-! ### Stress counters (R254) -/

/-- The counter of a segment; one that is not listed is 0. -/
def stressGet : List (Nat × BitVec 24) → Nat → BitVec 24
  | [], _ => 0
  | (k, c) :: r, a => if a < k then 0 else if a = k then c else stressGet r a

/-- The counters with that of segment `a` replaced, in canonical form: segments rising, no 0 listed. -/
def stressPut : List (Nat × BitVec 24) → Nat → BitVec 24 → List (Nat × BitVec 24)
  | [], a, c => if c = 0 then [] else [(a, c)]
  | (k, d) :: r, a, c =>
    if a < k then (if c = 0 then (k, d) :: r else (a, c) :: (k, d) :: r)
    else if a = k then (if c = 0 then r else (a, c) :: r)
    else (k, d) :: stressPut r a c

/-- The band of a counter; 0 while the port is disabled. -/
def bandOf (s : State) (c : BitVec 24) : Nat :=
  match panelCfg s with
  | some cfg => if cfg.bandStep = 0 then 0 else min 7 (c.toNat / (1000 * cfg.bandStep.toNat))
  | none => 0

/-- The end of a selection phase: every segment driven ON counts one. -/
def countStress (c : Fin 8) (row : BitVec 96) (m : List (Nat × BitVec 24)) : List (Nat × BitVec 24) :=
  (List.range 96).foldl (fun m i => if row.getLsbD i then stressPut m (96 * c.val + i) (satInc (stressGet m (96 * c.val + i))) else m) m

/-! ### Writes (R247 to R253) -/

/-- The temperature factor of Table 9.3 times ten, for a temperature in units of 0.25 degrees. -/
def factorOf (q : Int) : Nat :=
  if 160 ≤ q then 6 else if 100 ≤ q then 10 else if 40 ≤ q then 15 else if 0 ≤ q then 25
  else if -40 ≤ q then 40 else if -80 ≤ q then 70 else 120

/-- The factor a write that starts now takes: with NTC_FAULT that of the minimum write temperature (R251). -/
def factorNow (s : State) (cfg : PanelCfg) : Nat :=
  if s.panel.ntcFault then factorOf (4 * cfg.minWrite.toInt) else factorOf s.panel.temp.toInt

/-- The selection amplitude in mV of a segment: V_S0 × (1 + 0.03 × b) for its band b (R254). -/
def segmentMv (s : State) (cfg : PanelCfg) (seg : Nat) : Nat := cfg.vs0.toNat * (100 + 3 * bandOf s (stressGet s.panel.stress seg))

/-- What a phase of a write drives (Table 9.2): reset at V_R; selection at each segment's amplitude for ON and 0 V for OFF; evolution at half
of V_S0; discharge. -/
def phaseDrive (w : PanelWrite) : PanelDrive :=
  match w.phase with
  | 1 => .all (100 * w.vr.toNat)
  | 2 => .each (w.amps.zipIdx.map fun x => if w.row.getLsbD x.2 then x.1 else 0)
  | 3 => .all (50 * w.vs0.toNat)
  | _ => .short

/-- The local time at which the phase of a write that runs ends. -/
def phaseEnd (w : PanelWrite) : Nat :=
  w.start + 100000 * w.factor * (match w.phase with
    | 1 => 20
    | 2 => 30
    | _ => 70) + (if 4 ≤ w.phase then 5000000 else 0)

/-- The next changed common after the one written last (R248). -/
def nextCommon (s : State) : Option (Fin 8) :=
  ((List.range 8).map fun k => (⟨(s.panel.last.val + 1 + k) % 8, Nat.mod_lt _ (by omega)⟩ : Fin 8)).find? (panelChanged s)

/-- Begin a write of common `c` with the amplitudes of now (R254, R255, R259). -/
def beginWrite (cfg : PanelCfg) (c : Fin 8) (stale : Bool) (s : State) : State :=
  let amps := (List.range 96).map fun i => segmentMv s cfg (96 * c.val + i)
  let w : PanelWrite := ⟨c, panelTarget s c, 1, factorNow s cfg, stale, cfg.vr, cfg.vs0, amps, .all (100 * cfg.vr.toNat), localNs s⟩
  updPanel (fun p => { p with last := c, write := some w }) s

/-- PANEL_WRITE_START: the port starts the next changed common unless a write runs, the field warning stands, it is too cold, VPNL is
too low or its domain is not ON (R248, R252, R253, R256, R343). -/
def startWrite (s : State) : State :=
  match panelCfg s, nextCommon s with
  | some cfg, some c =>
    if s.panel.write.isSome || s.field.warn || panelCold s || vpnlLow s || !fieldLive s ||
        Vec.at s.super.pd 7 != .on then s
    else beginWrite cfg c false s
  | _, _ => s

/-- PANEL_WRITE_PHASE: the next phase of Table 9.2 at its scaled instant; the selection phase counts stress as it ends. -/
def nextPhase (s : State) : State :=
  match s.panel.write with
  | none => s
  | some w =>
    if 4 ≤ w.phase then s else
    let next := { w with phase := w.phase + 1 }
    let s := reachLocal (phaseEnd w) s
    updPanel (fun p => { p with
      write := some { next with drive := phaseDrive next }
      stress := if w.phase = 2 then countStress w.common w.row p.stress else p.stress }) s

/-- The stale marker goes off once every invalid row has been rewritten and no field warning is present (R249). -/
def endStale (s : State) : State :=
  if s.panel.staleMark && s.panel.invalid == 0 && !s.field.warn then
    updPanel (fun p => { p with staleMark := false }) s
  else s

/-- PANEL_WRITE_END: the shadow takes the row that was written. -/
def finishWrite (s : State) : State :=
  match s.panel.write with
  | none => s
  | some w =>
    if w.phase < 4 then s else
    let s := reachLocal (phaseEnd w) s
    let t := endStale (updPanel (fun p => { p with
      write := none
      shadow := Vec.put p.shadow w.common w.row
      invalid := setBit p.invalid w.common.val false
      lastMs := BitVec.ofNat 16 (7 * w.factor + 5)
      writes := satInc p.writes }) s)
    noteConds [.panel] s t

/-- A running write is abandoned: its row is invalid and ABANDONED is raised. -/
def abandonWrite (s : State) : State :=
  match s.panel.write with
  | none => s
  | some w =>
    let t := updPanel (fun p => { p with write := none, invalid := setBit p.invalid w.common.val true }) s
    noteConds [.panel] s (raise .panel 5 none .unstated t)

/-- The stale write of R256; none below the minimum write temperature, with VPNL too low, or without a panel. -/
def staleWrite (s : State) : State :=
  let s := abandonWrite s
  match panelCfg s with
  | none => s
  | some cfg =>
    if panelCold s || vpnlLow s then s
    else
      let t := beginWrite cfg 7 true (updPanel (fun p => { p with staleMark := true }) s)
      raise .panel 2 none .unstated (noteConds [.panel] s t)

/-- FIELD_WARN_SET. -/
def fieldWarn (mv : BitVec 16) (s : State) : State :=
  let s := setVfield mv s
  if s.field.warn || !fieldLive s then s
  else staleWrite (noteConds [.field] s (updField (fun f => { f with warn := true }) s))

/-- FIELD_WARN_CLEAR. -/
def fieldWarnOff (mv : BitVec 16) (s : State) : State :=
  let s := setVfield mv s
  noteConds [.field, .panel] s (endStale (updField (fun f => { f with warn := false }) s))

/-! ### Measurements -/

/-- A new VPNL: VPNL_LOW follows it, and below V_R + 0.5 V a running write is abandoned (R253). -/
def vpnlLevel (mv : BitVec 16) (s : State) : State :=
  if !s.part.hasField then s else
  let t := noteConds [.panel] s (updPanel (fun p => { p with vpnl := mv }) s)
  if t.panel.write.elim false fun w => !vpnlOver t w.vr 500 then abandonWrite t else t

/-- NTC_MEASURE: NTC_FAULT outside -40 to 100 degrees; it is cold below the minimum write temperature and until 2 degrees above it
(R251, R252). -/
def ntc (temp : BitVec 11) (s : State) : State :=
  let q := temp.toInt
  let fault := decide (q < -160) || decide (400 < q)
  if !fieldLive s then s else
  let t := updPanel (fun p => { p with temp := temp, ntcFault := fault, cold := panelCold s }) s
  noteConds [.panel] s (updPanel (fun p => { p with cold := panelCold t }) t)

/-- CRACK_MEASURE, when the loop is enabled (R258). -/
def crackLoop (ohms : Nat) (s : State) : State :=
  if fieldLive s && (panelCfg s).elim false fun c => c.loopEn then
    let crack := decide (10000 < ohms) || (s.panel.crack && decide (9000 < ohms))
    noteConds [.panel] s (updPanel (fun p => { p with
      loop := BitVec.ofNat 16 (min 65535 (ohms / 10)), crack := crack
      crackSeen := p.crackSeen || decide (10000 < ohms) }) s)
  else s

/-- A write of PNL_CNT: the selected segment's counter (R255). -/
def writeCnt (v : Word) (s : State) : State :=
  if s.panel.csel.toNat < 768 then updPanel (fun p => { p with stress := stressPut p.stress p.csel.toNat (bits v 0 24) }) s else s

/-! ### Flits -/

/-- PNL_STAT. -/
def pnlStat (s : State) : Word :=
  let p := s.panel
  flag (panelCfg s).isSome 0 ||| flag p.write.isSome 1 ||| num p.last.val 2 ||| flag (panelCold s && anyChanged s) 5 |||
  flag (panelCold s && anyChanged s) 6 ||| flag p.crack 7 ||| flag (vpnlLow s) 8 ||| flag p.ntcFault 9 |||
  flag ((Vec.at p.shadow 7).getLsbD 94) 10 ||| fld p.invalid 16 |||
  fld (bitsOf 8 fun c => if h : c < 8 then panelChanged s ⟨c, h⟩ else false) 24

/-- Sample the panel group. -/
def samplePanel (s : State) : State := latchFlit 0x2200 [pnlStat s, s.panel.temp.setWidth 32] s

/-- A write to a row's flit: words 0 to 2 are the pending row (Table 9.1). -/
def writePanelFlit (off : Nat) (d : List Byte) (s : State) : State :=
  if !fieldReachable s then s else
  let c : Fin 8 := ⟨(off - 0x2000) / 64 % 8, Nat.mod_lt _ (by omega)⟩
  updPanel (fun p => { p with pend := Vec.put p.pend c (BitVec.ofNat 96 (ofBytes (d.take 12))) }) s

/-- The commit instant of the panel group: the pending rows become the target image (R247). -/
def commitPanel (s : State) : State := noteConds [.panel] s (updPanel (fun p => { p with target := p.pend }) s)

/-! ### The commands -/

/-- FIELD_WARN_SET. -/
def execFieldWarnSet (mv : BitVec 16) (s : State) : Out := .next (fieldWarn mv s)
/-- FIELD_WARN_CLEAR. -/
def execFieldWarnClear (mv : BitVec 16) (s : State) : Out := .next (fieldWarnOff mv s)
/-- PANEL_WRITE_START. -/
def execPanelWriteStart (s : State) : Out := .next (startWrite s)
/-- PANEL_WRITE_PHASE. -/
def execPanelWritePhase (s : State) : Out := .next (nextPhase s)
/-- PANEL_WRITE_END. -/
def execPanelWriteEnd (s : State) : Out := .next (finishWrite s)
/-- PANEL_WRITE_ABANDON: VPNL falls to a level. -/
def execPanelWriteAbandon (mv : BitVec 16) (s : State) : Out := .next (vpnlLevel mv s)
/-- VPNL_LEVEL_CHANGE. -/
def execVpnlLevelChange (mv : BitVec 16) (s : State) : Out := .next (vpnlLevel mv s)
/-- NTC_MEASURE. -/
def execNtcMeasure (temp : BitVec 11) (s : State) : Out := .next (ntc temp s)
/-- CRACK_MEASURE. -/
def execCrackMeasure (ohms : Nat) (s : State) : Out := .next (crackLoop ohms s)
/-- PNL_CNT_WRITE. -/
def execPnlCntWrite (q : Req) (val : Word) (s : State) : Out := .next (onPage q .panel (writeCnt val) s)

end Sys2Proof.Machine
end

