-- ==== Sys2Proof/Machine/RunControl.lean ====
section
/-! DEFINITION. Forces and the restart of a stopped device (R112 to R117, R120). -/
namespace Sys2Proof.Machine

/-! ### Points -/

/-- Is a point in the active image's point table, and is it of the trip class? -/
def pointTrip (s : State) (p : BitVec 16) : Option Bool :=
  s.run.active.bind fun a =>
    ((a.inPoints.find? fun x => x.number == p).map fun x => x.trip).orElse fun _ =>
      (a.outPoints.find? fun x => x.number == p).map fun x => x.trip

/-- The key and tenant of a point of an image. -/
def pointKey (a : AppImage) (p : BitVec 16) : Option (DWord × BitVec 3) :=
  ((a.inPoints.find? fun x => x.number == p).map fun x => (x.key, x.tenant)).orElse fun _ =>
    (a.outPoints.find? fun x => x.number == p).map fun x => (x.key, x.tenant)

/-! ### The force table -/

/-- The entry that holds a point's force. -/
def forceIdx (s : State) (p : BitVec 16) : Option (Fin 256) :=
  (List.finRange 256).find? fun i => (Vec.at s.run.forces i).elim false fun f => f.point == p

/-- The first free entry. -/
def freeForce (s : State) : Option (Fin 256) := (List.finRange 256).find? fun i => (Vec.at s.run.forces i).isNone

/-- Put an entry of the force table. -/
def putForce (i : Fin 256) (f : Option Force) (s : State) : State := updRun (fun r => { r with forces := Vec.put r.forces i f }) s

/-- Active forces: applied, or waiting to take effect (R116). -/
def forceCount (s : State) : Nat := (List.finRange 256).countP fun i => (Vec.at s.run.forces i).isSome

/-- FORCE_IND_N follows the forces (R116). -/
def refreshForceInd (s : State) : State := { s with forceInd := decide (0 < forceCount s) }

/-- The tenant of a point (R361). -/
def pointTenant (s : State) (p : BitVec 16) : Option (BitVec 3) := (s.run.active.bind fun a => pointKey a p).map fun x => x.2

/-- A force accepted or removed: FORCE_CHANGE and a record, for the tenant of its point (R116, R361). -/
def forceChanged (ten : Option (BitVec 3)) (s : State) : State := raise .runControl 0 ten .unstated (refreshForceInd s)

/-- Publish a force or a removal to the partners (R113, R175). -/
def publishForce (m : ForceMsg) (s : State) : State :=
  if inTrio s then { s with trio := { s.trio with forcesOut := s.trio.forcesOut ++ [m] } } else s

/-- Result of a force command. -/
def frcCode (c : Byte) (s : State) : State := updRun (fun r => { r with frcCode := c }) s

/-- Does the seal reading allow trip-class forces: does it read the maintenance code (R115)? -/
def sealMaint (s : State) : Bool := (safetyCfg s).elim false fun c => s.safety.sealNow == c.maintCode

/-- A change takes its place among those that wait: by the round start at which it acts, and of one round start by the member that accepted
it, so that every member applies them alike (log entry 110). -/
def queueChange (x : Option Word × Nat × Fin 3) : List (Option Word × Nat × Fin 3) → List (Option Word × Nat × Fin 3)
  | [] => [x]
  | y :: r =>
    if decide (y.2.1 < x.2.1) || (y.2.1 == x.2.1 && decide (y.2.2 ≤ x.2.2)) then y :: queueChange x r else x :: y :: r

/-- A force on a point that member `m` accepted is entered to act after `k` round starts; a force already there acts until then. -/
def enterForce (m : Fin 3) (p : BitVec 16) (v : Word) (k : Nat) (s : State) : State :=
  match forceIdx s p with
  | some i => putForce i ((Vec.at s.run.forces i).map fun f => { f with pend := queueChange (some v, k, m) f.pend }) s
  | none => match freeForce s with
    | some i => putForce i (some ⟨p, v, false, [(some v, k, m)]⟩) s
    | none => s

/-- The removal of a point's force that member `m` accepted is entered to act after `k` round starts. -/
def enterRemoval (m : Fin 3) (i : Fin 256) (k : Nat) (s : State) : State :=
  putForce i ((Vec.at s.run.forces i).map fun f => { f with pend := queueChange (none, k, m) f.pend }) s

/-- The round starts after which a change accepted now acts: the second after the round whose status publishes it, which in a trio is the
next round once the status of this one has been sent (R113, R175). -/
def forceDelay (s : State) : Nat := if inTrio s && s.trio.sentStatus.isSome then 3 else 2

/-- SET: FULL, NO_POINT, SEALED in the order of Table 4.3. -/
def cmdFrcSet (s : State) : State :=
  let p := s.run.frcPoint
  if (forceIdx s p).isNone && (freeForce s).isNone then frcCode 0x40 s
  else match pointTrip s p with
    | none => frcCode 0x41 s
    | some trip =>
      if trip && !sealMaint s then frcCode 0x42 s
      else forceChanged (pointTenant s p) (publishForce ⟨p, s.run.frcValue, false⟩ (enterForce (me s) p s.run.frcValue (forceDelay s) (frcCode 0 s)))

/-- CLEAR: NOT_FORCED where the point has no force; a second one is accepted, and the earlier acts (log entry 124). -/
def cmdFrcClear (s : State) : State :=
  let p := s.run.frcPoint
  match forceIdx s p with
  | none => frcCode 0x43 s
  | some i => forceChanged (pointTenant s p) (publishForce ⟨p, 0, true⟩ (enterRemoval (me s) i (forceDelay s) (frcCode 0 s)))

/-- The removal of every force that `which` picks, with `after` for each. -/
def removeForces (which : Force → Bool) (after : BitVec 16 → State → State) (s : State) : State :=
  (List.finRange 256).foldl (fun s i =>
    match Vec.at s.run.forces i with
    | some f => if which f then after f.point (publishForce ⟨f.point, 0, true⟩ (enterRemoval (me s) i (forceDelay s) s)) else s
    | none => s) s

/-- CLEAR_ALL. -/
def cmdFrcClearAll (s : State) : State := forceChanged none (removeForces (fun _ => true) (fun _ => id) (frcCode 0 s))

/-- Is a force on a trip-class point? -/
def tripForce (s : State) (f : Force) : Bool := (pointTrip s f.point).getD false

/-- Does a trip-class force stand that no accepted removal will end? -/
def sealedForce (s : State) (f : Force) : Bool := tripForce s f && f.pend.getLast?.elim true fun x => x.1.isSome

/-- Once the seal switches do not read the maintenance code, trip-class forces are removed, each with its record (R115, R116). -/
def sealRemovesForces (s : State) : State := removeForces (sealedForce s) (fun p t => forceChanged (pointTenant s p) t) s

/-- A round start passes for the waiting changes. -/
def ageForces (s : State) : State :=
  updRun (fun r => { r with forces := r.forces.map fun f => f.map fun f =>
    { f with pend := f.pend.map fun p => (p.1, p.2.1 - 1, p.2.2) } }) s

/-- A force once its changes that are due have acted in turn; none where it is removed and no other value waits. -/
def actForce (f : Force) : Option Force :=
  let rest := f.pend.dropWhile fun p => p.2.1 == 0
  match (f.pend.takeWhile fun p => p.2.1 == 0).getLast? with
  | none => some f
  | some (some v, _) => some { f with value := v, on := true, pend := rest }
  | some (none, _) => if rest.any fun p => p.1.isSome then some { f with on := false, pend := rest } else none

/-- The accepted changes whose round start has come take effect (R113). -/
def forcesAct (s : State) : State :=
  refreshForceInd (updRun (fun r => { r with forces := r.forces.map fun f => f.bind actForce }) s)

/-- At an exchange a force stays if its point keeps its number and key; every other force is removed with a record (R117). -/
def exchangeForces (old new : AppImage) (s : State) : State :=
  refreshForceInd ((List.finRange 256).foldl (fun s i =>
    match Vec.at s.run.forces i with
    | none => s
    | some f =>
      let was := pointKey old f.point
      if (was.map fun x => x.1) == ((pointKey new f.point).map fun x => x.1) && was.isSome then s
      else note .runControl 0x80 (was.map fun x => x.2) (fld f.point 0) (fld (was.elim 0 fun x => x.2) 0) (putForce i none s)) s)

/-- The value in effect on a point, if it is forced. -/
def forcedValue (s : State) (p : BitVec 16) : Option Word :=
  (forceIdx s p).bind fun i => (Vec.at s.run.forces i).bind fun f => if f.on then some f.value else none

/-! ### RESTART (R120) -/

/-- Has major frame `f` just begun, with none of its slots? -/
def frameBegun (s : State) (f : DWord) : Bool := s.sched.frame == f && s.sched.round == 0 && !s.sched.slotBegun

/-- The start of major frame `f`: the last round before it ends here, or it has just begun. -/
def frameDue (s : State) (f : DWord) : Bool :=
  if s.sched.switched then s.sched.frame == f else frameBegun s f || (lastRound s && s.sched.frame + 1 == f)

/-- RESTART of a stopped device without partners: LATE, TRIO_MISMATCH. On a device that is not stopped it has no effect. -/
def cmdRestart (s : State) : State :=
  let code (c : Byte) : State := updRun (fun r => { r with code := c }) s
  if frameLate s s.run.target then code 0x20
  else if inTrio s then code 0x25
  else updRun (fun r => { r with code := 0, restart := if r.state == .stopped then some r.target else none }) s

/-- At the target frame every task resumes, in its round 0 already where that has begun; RESTARTED is raised. Outputs stay safe until the
first commit. -/
def restartAt (s : State) : State :=
  match s.run.restart with
  | none => s
  | some f =>
    if s.run.state == .stopped && frameDue s f then
      raise .runControl 6 none .unstated (updRun (fun r => { r with
        state := .running, restart := none, ran := frameBegun s f && !s.sched.switched
        tasks := r.tasks.map fun t => { t with stopped := false, rowCount := 0 } }) s)
    else s

/-- FRC_SET. -/
def execFrcSet (q : Req) (s : State) : Out := .next (onPage q .runControl cmdFrcSet s)
/-- FRC_CLEAR. -/
def execFrcClear (q : Req) (s : State) : Out := .next (onPage q .runControl cmdFrcClear s)
/-- FRC_CLEAR_ALL. -/
def execFrcClearAll (q : Req) (s : State) : Out := .next (onPage q .runControl cmdFrcClearAll s)
/-- FORCE_TAKE_EFFECT. -/
def execForceTakeEffect (s : State) : Out := .next (forcesAct s)
/-- RUN_RESTART. -/
def execRunRestart (q : Req) (s : State) : Out := .next (onPage q .runControl cmdRestart s)
/-- RESTART_FRAME. -/
def execRestartFrame (s : State) : Out := .next (restartAt s)

end Sys2Proof.Machine
end

