-- ==== Sys2Proof/Machine/Trio.lean ====
section
/-! DEFINITION. The trio (Ch. 6): members and ports, exchanges held of a round, the member status, roster proposals, round
alignment (Ch. 10) and the fence. -/
namespace Sys2Proof.Machine

/-! ### Members (R156, R157) -/

/-- What this device holds of a partner. -/
def partnerAt (s : State) (m : Fin 3) : Partner := Vec.at s.trio.partners m

/-- Change what is held of a partner. -/
def updPartner (m : Fin 3) (f : Partner → Partner) (s : State) : State :=
  updTrio (fun t => { t with partners := Vec.upd t.partners m f }) s

/-- The two partners. -/
def partnersOf (s : State) : List (Fin 3) := [memberAfter (me s) 1, memberAfter (me s) 2]

/-- Does a member vote in the adopted roster? -/
def rosterVotes (r : Roster) (m : Fin 3) : Bool := r.voting.getLsbD m.val

/-- The voting members of the adopted roster, in priority order. -/
def votersOf (s : State) : List (Fin 3) := (List.finRange 3).filter (rosterVotes s.trio.roster)

/-- The trio configuration in force; all zero where there is no image. -/
def trioCfg (s : State) : TrioCfg := s.run.active.elim ⟨0, false, false, 0, 0, 0, 0⟩ fun a => a.trio

/-- The trio state that follows from a number of voting members (R158). -/
def trioStateOf (n : Nat) : TrioState := if n = 3 then .trio else if n = 2 then .duo else .solo

/-- The active member of the roster, if it has one. -/
def activeMember (s : State) : Option (Fin 3) :=
  if h : s.trio.roster.active.toNat < 3 then some ⟨s.trio.roster.active.toNat, h⟩ else none

/-- The coordinator of the round: member T mod 3, passed over for the next that votes (R174). -/
def coordinator (s : State) : Fin 3 :=
  let c : Fin 3 := ⟨s.trio.t.toNat % 3, Nat.mod_lt _ (by omega)⟩
  (([c, memberAfter c 1, memberAfter c 2]).find? (rosterVotes s.trio.roster)).getD c

/-- Does this member listen (R190 phase 4)? -/
def listening (s : State) : Bool := s.trio.role == .listening

/-! ### Exchanges of the round (R160, R301) -/

/-- Where a kind begins in a receive bank (Table 11.5). -/
def kindOffset (k : Nat) : Nat :=
  if k = 0 then 0 else if k = 1 then 0x80000 else if k = 2 then 0x100000 else if k = 4 then 0x1F0000 else 0x1F1000

/-- The receive area of a port. -/
def rxArea (s : State) : TrioPort → Memory
  | .a => s.trio.rxA
  | .b => s.trio.rxB

/-- Where the bank of the present round begins (R298). -/
def bankOffset (s : State) : Nat := if s.trio.t.getLsbD 0 then 0x200000 else 0

/-- The exchange entries of a kind that are active in the round. -/
def exchangesOf (s : State) (k : Nat) : List TrioExchange :=
  s.sched.active.elim [] fun im => im.exchanges.filter fun e => e.kind.toNat == k && timingActive e.t s.sched.round

/-- Is every flit below `n` covered by what has arrived? -/
def covered (parts : List (Nat × Nat)) (n : Nat) : Bool :=
  (List.range n).all fun i => parts.any fun p => decide (p.1 ≤ i) && decide (i < p.1 + p.2)

/-- Has a kind of `n` flits arrived whole on a port, and not been found missing (R160)? -/
def exchangeHere (s : State) (p : TrioPort) (k n : Nat) : Bool :=
  !(partnerAt s (portPartner s p)).missingKinds.getLsbD k &&
  covered ((s.trio.flits.filter fun x => x.1 == p && x.2.1.toNat == k).map fun x => x.2.2) n

/-- The word at a pool address in a member's image of kind `k`; none where its exchange is missing, or its own word is uncorrectable
(R95). -/
def columnWord (s : State) (k : Nat) (m : Fin 3) (a : Nat) : Option Word :=
  if m = me s then (if (badIn s a 4).isEmpty then some (memWord s.pool a) else none)
  else
    match (exchangesOf s k).find? fun e => decide (e.addr.toNat ≤ a) && decide (a + 4 ≤ e.addr.toNat + 64 * e.len.toNat) with
    | none => none
    | some e =>
      let p := portOf s m
      if exchangeHere s p k e.len.toNat then
        some (memWord (rxArea s p) (bankOffset s + kindOffset k + (a - e.addr.toNat)))
      else none

/-- Does a member's exchange of kind `k` stand whole in the round? -/
def columnHere (s : State) (k : Nat) (m : Fin 3) : Bool :=
  m == me s || (exchangesOf s k).any fun e => exchangeHere s (portOf s m) k e.len.toNat

/-! ### Tasks across the trio -/

/-- The tasks of the application image in force. -/
def tasksOf (s : State) : List Task := s.run.active.elim [] fun a => a.tasks

/-- The task of a name. -/
def taskAt (s : State) (n : BitVec 3 × BitVec 8) : Option Task := (tasksOf s).find? fun t => t.tenant == n.1 && t.task == n.2

/-- Bytes of a task's state block (R103). -/
def blockBytes (t : Task) : Nat := 64 * (t.inputFlits + t.variableFlits + t.outputFlits)

/-- The loop slot whose input block a scheduled transfer writes, if it writes one (R135). -/
def loopTarget (e : Transfer) : Option (Fin 6 × BitVec 10) :=
  if isPool e.dst || decide (0x40000 ≤ epOff e.dst) || epOff e.dst % 0x100 != 0 then none
  else (crest? (epTile e.dst - 1)).bind fun c => if epTile e.dst = 0 then none else some (c, BitVec.ofNat 10 (epOff e.dst / 0x100))

/-- The loop slots attributed to a task: those whose input block its output transfers write (R165). -/
def attributedLoops (s : State) (t : Task) : List (Fin 6 × BitVec 10) :=
  s.sched.active.elim [] fun im =>
    (im.transfers.filter fun e =>
      isPool e.src && decide (t.working ≤ e.src.toNat) && decide (e.src.toNat < t.working + blockBytes t)).filterMap loopTarget

/-- The tasks an output point belongs to: its own, or those its loop slot is attributed to (R165). -/
def pointTasks (s : State) (p : OutPoint) : List (BitVec 3 × BitVec 8) :=
  match p.loopSlot with
  | none => [(p.tenant, p.task)]
  | some l => ((tasksOf s).filter fun t => (attributedLoops s t).contains l).map fun t => (t.tenant, t.task)

/-- Did a member mark a task substituted in its output image of the round (R89)? -/
def marked (s : State) (m : Fin 3) (t : Task) : Bool :=
  if m = me s then (taskRt s t.tenant t.task).abandoned
  else ((columnWord s 1 m t.markAddr).elim false fun w => w.getLsbD t.markBit.val)

/-! ### Status and roster (R162, R174) -/

/-- The set of members as bits. -/
def memberSet (ms : List (Fin 3)) : BitVec 3 := ms.foldl (fun w m => setBit w m.val true) 0

/-- The roster whose voting set is `v`, after roster `r`: the active member stays while it votes, else the standby of `r` with the lowest
number becomes active, before a member that only now joins, and every change counts one epoch (R159). -/
def nextRosterOf (r : Roster) (v : BitVec 3) : Roster :=
  let first (ok : Fin 3 → Bool) : Option (Fin 3) := (List.finRange 3).find? fun m => v.getLsbD m.val && ok m
  if r.active.toNat < 3 && v.getLsbD r.active.toNat then ⟨v, r.active, r.epoch⟩
  else match (first (rosterVotes r)).orElse fun _ => first fun _ => true with
    | some m => ⟨v, memberBits m, r.epoch + 1⟩
    | none => ⟨0, 3, r.epoch⟩

/-- The comparison's finding of this round: a member that made none has found nothing (R162). -/
def cmpNow (s : State) : CmpResult := if s.trio.compared then s.trio.cmp else .ok

/-- The members the comparison of this round outvoted. -/
def outvoted (s : State) : List (Fin 3) :=
  if cmpNow s == .outvoted then
    (List.finRange 3).filter fun m => memberBits m == s.trio.odd || memberBits m == s.trio.odd2
  else []

/-- Do two statuses, or this device and a status, agree in their identities (R192)? -/
def sameIds (config : BitVec 8) (schedId appId : DWord) (st : MemberStatus) : Bool :=
  st.config == config && st.schedId == schedId && st.appId == appId

/-- COMPAT numbers within 1 of one another. -/
def compatNear (a b : BitVec 16) : Bool := decide (a.toNat ≤ b.toNat + 1) && decide (b.toNat ≤ a.toNat + 1)

/-- This device's identities. -/
def myConfig (s : State) : BitVec 8 := s.part.code
def mySchedId (s : State) : DWord := schedIdOf s.sched.active
def myAppId (s : State) : DWord := appId s.run.active
def myCompat (s : State) : BitVec 16 := (runningSlot s).compat

/-- Is a status compatible with this device's images and firmware (R192)? -/
def compatible (s : State) (st : MemberStatus) : Bool :=
  sameIds (myConfig s) (mySchedId s) (myAppId s) st && compatNear (myCompat s) st.compat

/-- The roster this member proposes for the next round: less the members it knows to be excluded, and with a listening member whose
column compared as LISTEN_OK. -/
def proposal (s : State) : Roster :=
  let gone := outvoted s ++ (if s.trio.gaveUp then [me s] else []) ++
    (if cmpNow s == .noMajority then List.finRange 3 else []) ++
    (partnersOf s).filter fun m => (partnerAt s m).last.elim false fun st => st.gaveUp
  let joins : List (Fin 3) := match s.trio.listen with
    | some (m, true) => if s.trio.joining == some (memberBits m) then [m] else []
    | _ => []
  nextRosterOf s.trio.roster ((s.trio.roster.voting &&& ~~~memberSet gone) ||| memberSet joins)

/-- Is a trio swap ARMED on a voting member (R189)? -/
def trioSwapArmed (s : State) : Bool :=
  (s.sched.bank == .armed && s.sched.armedTrio) || (s.run.bank == .armed && s.run.armedTrio) ||
  (votingPartners s).any fun m => (partnerAt s m).last.elim false fun st => st.swap.isSome || st.appSwap.isSome

/-- The member to be admitted: the one already joining while it still requests, else the lowest that requests, is compatible and may
be admitted (R189). -/
def admission (s : State) : Option (BitVec 2) :=
  let asks (m : Fin 3) : Bool := !rosterVotes s.trio.roster m && (partnerAt s m).last.elim false fun st => st.rejoinReq && compatible s st
  let keep := s.trio.joining.bind fun j => if (partnersOf s).any fun m => memberBits m == j && asks m then some j else none
  match keep with
  | some j => some j
  | none =>
    if trioSwapArmed s then none
    else (((List.finRange 3).filter fun m => m != me s).find? asks).map memberBits

/-- The donor named for a rejoin: the one there is while it votes, else the voting standby with the lowest number, else the active
member (R190, R191). -/
def donorOf (s : State) : BitVec 2 :=
  let vs := votersOf s
  if vs.any fun m => memberBits m == s.trio.donor then s.trio.donor
  else match vs.find? fun m => some m != activeMember s with
    | some m => memberBits m
    | none => s.trio.roster.active

/-- MISSING: a partner's alignment of this round, or its status of the last round, is missing (Table 6.3). -/
def missingBits (s : State) : BitVec 3 :=
  memberSet ((partnersOf s).filter fun m => (partnerAt s m).align.isNone || (partnerAt s m).last.isNone)

/-- A pair published while a bank is armed with TRIO (R61, R129). -/
def schedPair (s : State) : Option (DWord × DWord) :=
  if s.sched.bank == .armed && s.sched.armedTrio then some (s.sched.armedFrame, schedIdOf s.sched.shadow) else none
def appPair (s : State) : Option (DWord × DWord) :=
  if s.run.bank == .armed && s.run.armedTrio then some (s.run.armedFrame, appId s.run.shadow) else none

/-- The instant on the schedule clock at which the next major frame starts, or the first one is to start (R188, log entry 88). -/
def nextFrameStart (s : State) : Option Nat :=
  if s.sched.running then s.sched.active.map fun im => s.sched.frameNs + frameNsOf im else s.trio.startAt

/-- Does a donor's copy, or a write that it forwards, still wait at a port? -/
def copyWaits (s : State) : Bool := (s.trio.lineA.queue ++ s.trio.lineB.queue).any fun f => f.type == 8 || f.type == 9

/-- REJOIN's phase: a member's own; a donor shows 3 while its copy or a forwarded write waits to leave, and 4 once all have left (R190, log
entry 111). -/
def phaseShown (s : State) : BitVec 3 := if s.trio.copying.isNone then s.trio.phase else if copyWaits s then 3 else 4

/-- The status as this member's state gives it (Table 6.3). A member whose safety configuration is not accepted reports OBSERVER with
MISMATCH (R194). -/
def liveStatus (s : State) : MemberStatus :=
  let bad := (safetyCfg s).isSome && !s.safety.accepted
  let admits := if coordinator s == me s && votes s then admission s else none
  { member := s.trio.member, role := if bad then .observer else s.trio.role, config := myConfig s
    t := s.trio.t, epoch := s.trio.roster.epoch, schedId := mySchedId s, appId := myAppId s, compat := myCompat s
    gaveUp := s.trio.gaveUp || bad, cause := if s.trio.gaveUp then s.trio.cause else if bad then 0x08 else 0
    cmp := cmpNow s, odd := if s.trio.compared then s.trio.odd else 3, odd2 := if s.trio.compared then s.trio.odd2 else 3, missing := missingBits s, diagPass := s.trio.diagPass
    roster := proposal s, rejoinReq := s.trio.rejoinReq, admits := admits
    donor := if admits.isSome then donorOf s else s.trio.donor, phase := phaseShown s
    start := (nextFrameStart s).map (BitVec.ofNat 64)
    forces := s.trio.forcesOut, refused := s.trio.forcesRefused, swap := schedPair s, appSwap := appPair s
    testSent := s.trio.testSent, testSeen := s.trio.testSeen, groups := s.historian.groups }

/-- The status this member sends: the last-resort sequencer sends one that is fixed (R177). -/
def ownStatus (s : State) : MemberStatus := s.trio.fixed.getD (liveStatus s)

/-! ### Sending in a slot (Table 6.2, R50) -/

/-- Does this member send a kind in its role? -/
def sendsKind (s : State) (k : Nat) : Bool :=
  inTrio s &&
  (if k = 4 then true else if k = 2 then s.trio.role == .active && !s.trio.gaveUp
   else (votes s || listening s) && !s.trio.gaveUp)

/-- The entries of the mirror list that a KIND 2 exchange sends, words 0 and 1 (Table 6.6): they stand from its ADDR to the end of the
mirror-list region. -/
def mirrorList (s : State) (e : TrioExchange) : List (Word × Word) :=
  let a := e.addr.toNat
  match (s.run.active.elim [] fun im => im.regions).find? fun r => r.kind == .mirror && decide (r.addr ≤ a) && decide (a < r.addr + r.len) with
  | some r => (List.range ((r.addr + r.len - a) / 8)).map fun i => (memWord s.pool (a + 8 * i), memWord s.pool (a + 8 * i + 4))
  | none => []

/-- The bytes of the list of a KIND 2 exchange that are poisoned. -/
def mirrorBad (s : State) (e : TrioExchange) : List (Fin 6 × Nat) := spanBad s e.addr (8 * (mirrorList s e).length)

/-- Every entry of the mirror list, read as a scheduled transfer reads: a list with an uncorrectable word says nothing (R95). -/
def mirrorEntries (s : State) : List (Word × Word) :=
  s.sched.active.elim [] fun im => (im.exchanges.filter fun e => e.kind == 2 && (mirrorBad s e).isEmpty).flatMap (mirrorList s)

/-- The task a mirror entry carries. -/
def mirrorTask (e : Word × Word) : BitVec 3 × BitVec 8 := (bits e.2 24 3, bits e.2 16 8)

/-- Is the task of a mirror entry active in the round? -/
def mirrorActive (s : State) (e : Word × Word) : Bool :=
  decide (0 < (bits e.2 0 16).toNat) && s.sched.active.elim false fun im => im.engineSteps.any fun x =>
    (im.steps[x.desc.toNat]?).elim false fun d => (d.tenant, d.task) == mirrorTask e && timingActive x.t s.sched.round

/-- The flits of a span, none where an uncorrectable word poisons one (R95). -/
def flitsAt (s : State) (a : Word) (n : Nat) : List (Option (List Byte)) :=
  (List.range n).map fun k => if flitGood s a k then some (endpointBytes s (a + BitVec.ofNat 32 (64 * k)) 64) else none

/-- The flits of one entry; an entry whose task this member abandoned is left out, and its flits carry what the spec does not state. -/
def mirrorEntry (x : List (Option (List Byte)) × State) (e : Word × Word) : List (Option (List Byte)) × State :=
  let n := (bits e.2 0 16).toNat
  if (taskRt x.2 (mirrorTask e).1 (mirrorTask e).2).abandoned then
    let (w, s) := drawFree (512 * n) x.2
    (x.1 ++ (List.range n).map fun k => some (((bytesOf (64 * n) w.toNat).drop (64 * k)).take 64), s)
  else (x.1 ++ flitsAt x.2 e.1 n, scanSpan e.1 (64 * n) x.2)

/-- The mirror data of the round; a list that cannot be read sends none. -/
def mirrorData (e : TrioExchange) (s : State) : List (Option (List Byte)) × State :=
  let n := 8 * (mirrorList s e).length
  if (mirrorBad s e).isEmpty then ((mirrorList s e).filter (mirrorActive s)).foldl mirrorEntry ([], scanSpan e.addr n s)
  else (List.replicate e.len.toNat none, scanSpan e.addr n s)

/-- Set the substitution marks of the round in the output image (R89). -/
def markTasks (s : State) : State :=
  { s with pool := (tasksOf s).foldl (fun m t =>
      memWrite m t.markAddr (bytesOf 4 (setBit (memWord m t.markAddr) t.markBit.val (taskRt s t.tenant t.task).abandoned).toNat)) s.pool }

/-- Starting partners heard, of equal identities and compatible (R188). -/
def startersHeard (s : State) : List (Fin 3) :=
  (partnersOf s).filter fun m => (partnerAt s m).status.elim false fun st =>
    !st.gaveUp && st.role == .observer && compatible s st

/-- The alignment reference (R271): the active member; while the trio forms, the starting member with the lowest number; a device alone is
its own. -/
def isReference (s : State) : Bool :=
  !inTrio s ||
  (if s.trio.forming then (startersHeard s).all fun m => decide (me s < m)
   else (votingPartners s).isEmpty || activeMember s == some (me s))

/-- TB_STAT.REF: the reference of the rounds that run, or of those that are to begin; a device that has not come so far is none. -/
def refShown (s : State) : Bool := isReference s && (s.sched.running || s.pwr.stage == 9 || s.pwr.stage == 10)

/-- The round-alignment content for the partner on a port (Table 10.3); the transmit instant is put in as the frame leaves. -/
def alignFor (s : State) (p : TrioPort) : AlignData :=
  let q := partnerAt s (portPartner s p)
  let last := if s.sched.running then q.alignPrev else q.align.orElse fun _ => q.alignPrev
  let isRef := isReference s
  { ref := isRef, tx := 0, rxPrev := last.elim 0 fun a => a.rx, rstart := if isRef then BitVec.ofNat 64 s.tb.lastR else 0, rx := 0 }

/-- The frame TYPE of an exchange kind (Table 11.7). -/
def typeOfKind : Nat → Byte
  | 0 => 2
  | 1 => 3
  | 2 => 4
  | 3 => 1
  | _ => 5

/-- Flits wait at both ports as frames of at most 128 of those that are good. -/
def queueFlits (type : Byte) (fs : List (Option (List Byte))) (s : State) : State :=
  (flitSpans (fun k => (fs.getD k none).isSome) fs.length).foldl (fun s x =>
    queueBoth type 0xFF x.1 x.2 true (.bytes (((fs.drop x.1).take x.2).flatMap fun f => f.getD [])) s) s

/-- A member status of `len` flits waits at both ports, spelt in bytes that the spec does not state. -/
def queueStatus (len : Nat) (st : MemberStatus) (s : State) : State :=
  let (w, s) := drawFree (512 * len) s
  let d := bytesOf (64 * len) w.toNat
  (flitSpans (fun _ => true) len).foldl (fun s x =>
    queueBoth 5 0xFF x.1 x.2 true (.status st ((d.drop (64 * x.1)).take (64 * x.2))) s) s

/-- The status of the round is sent. -/
def sendStatus (len : Nat) (s : State) : State :=
  queueStatus len (ownStatus s) (updTrio (fun t => { t with sentStatus := some (ownStatus s), forcesOut := [], forcesRefused := [] }) s)

/-- The alignment of the round is sent, to each partner its own. -/
def sendAlign (len : Nat) (s : State) : State :=
  (flitSpans (fun _ => true) len).foldl (fun s x =>
    queueTrio .b 1 0xFF x.1 x.2 true (.align (alignFor s .b)) (queueTrio .a 1 0xFF x.1 x.2 true (.align (alignFor s .a)) s)) s

/-- A trio-exchange entry sends its flits on both ports, where the role sends that kind (R50, R301). -/
def sendExchange (e : TrioExchange) (s : State) : State :=
  let k := e.kind.toNat
  let n := e.len.toNat
  if !sendsKind s k then s
  else if k = 4 then sendStatus n s
  else if k = 3 then sendAlign n s
  else if k = 2 then
    let (fs, s) := mirrorData e s
    queueFlits 4 ((List.range n).map fun i => fs.getD i (some (List.replicate 64 0))) s
  else
    let s := if k = 1 then forwardChanges s (markTasks s) else s
    queueFlits (typeOfKind k) (flitsAt s e.addr n) (scanSpan e.addr (64 * n) s)

/-! ### Alignment (R271 to R275) -/

/-- θ doubled and d doubled of a partner from the frames of the round before last. -/
def thetaDelay (s : State) (m : Fin 3) : Option (Int × Int) :=
  let p := partnerAt s m
  match p.align, p.alignPrev, (lineOf s (portOf s m)).txPrev with
  | some a, some b, some tx =>
    let t1 : Int := tx.toNat
    let t2 : Int := a.rxPrev.toNat
    let t3 : Int := b.tx.toNat
    let t4 : Int := b.rx.toNat
    some ((t4 - t3) - (t2 - t1), (t2 - t1) + (t4 - t3))
  | _, _, _ => none

/-- The delay bound L of a port in nanoseconds (R160). -/
def delayBound (s : State) (p : TrioPort) : Nat :=
  1000 * (match p with
    | .a => (trioCfg s).delayA.toNat
    | .b => (trioCfg s).delayB.toNat)

/-- θ doubled of a partner before the first round: of the alignment frames sent so far, the one whose delay there and back lies within the
bounds is the one that the partner answers (log entry 88). -/
def formTheta (s : State) (m : Fin 3) : Option Int :=
  (partnerAt s m).align.bind fun a =>
    if a.rxPrev = 0 then none else
    (lineOf s (portOf s m)).starts.findSome? fun tx =>
      let back : Int := (a.rxPrev.toNat : Int) - tx.toNat
      let forth : Int := (a.rx.toNat : Int) - a.tx.toNat
      if 0 ≤ back + forth && back + forth ≤ 2 * (delayBound s (portOf s m) : Int) then some (forth - back) else none

/-- 200 ppm in units of 10^-12. -/
def trimLimit : Int := 200000000

/-- The oldest θ doubled of the last eight rounds, newest first, with the rounds since. -/
def oldestTheta (thetas : List (Option Int)) : Option (Int × Nat) :=
  ((thetas.take 8).zipIdx.reverse.findSome? fun x => x.1.map fun th => (th, x.2 + 1))

/-- The trim of R272 for θ doubled `th2`, with the histories of θ doubled and of the trims applied, one entry a round, newest first; a
shorter history than eight rounds is used as far as it goes. θ is that of the round before the last: the trims of the rounds over which it
changed begin two rounds back. -/
def nextTrim (roundNs : Nat) (th2 : Int) (thetas : List (Option Int)) (trims : List Int) : Int :=
  let r : Int := roundNs
  let rho : Int := match oldestTheta thetas with
    | none => 0
    | some (old, k) => (th2 - old) * 500000000000 / (r * k) - ((trims.drop 2).take k).foldl (· + ·) 0 / k
  let t := -rho - th2 * 500000000000 / (8 * r)
  max (-trimLimit) (min trimLimit t)

/-- The delay of each port is kept, and one above L raises SLOW_LINK (R272). -/
def portDelay (s : State) (p : TrioPort) : State :=
  match thetaDelay s (portPartner s p) with
  | none => s
  | some (_, d2) =>
    let d := (max 0 d2).toNat / 2
    let s := updTb (fun t => match p with
      | .a => { t with delayA := BitVec.ofNat 16 (min 65535 d) }
      | .b => { t with delayB := BitVec.ofNat 16 (min 65535 d) }) s
    if (2 * delayBound s p : Int) < d2 then raise .timebase 6 none .unstated s else s

/-- ALIGN_TRIM at a round start (R272, R273): a member that is not the reference takes θ of it and applies a new trim; without the
reference's frame the trim stays. ALIGNED shows that θ, 0 for the reference itself, has been known and at most 20 ns at the last eight
rounds (log entry 83). -/
def alignTrim (s : State) : State :=
  let before := s
  let s := portDelay (portDelay s .a) .b
  if isReference s then
    noteConds [.timebase] before (updTb (fun t =>
      let good := min 8 (t.goodRounds + 1)
      { t with aligned := good == 8, theta := 0, thetas := [], trims := [], goodRounds := good }) s)
  else
    match activeMember s, s.sched.active with
    | some a, some im =>
      match thetaDelay s a with
      | none =>
        let s := if s.tb.trimSat then bump .timebase 0x11 1 s else s
        noteConds [.timebase] before (updTb (fun t => { t with
          aligned := false, goodRounds := 0, thetas := (none :: t.thetas).take 8, trims := (t.trim.toInt :: t.trims).take 10 }) s)
      | some (th2, _) =>
        let tr := nextTrim (roundNsOf im) th2 s.tb.thetas s.tb.trims
        let sat := decide (tr = trimLimit) || decide (tr = -trimLimit)
        let good := if decide (th2 ≤ 40) && decide (-40 ≤ th2) then min 8 (s.tb.goodRounds + 1) else 0
        let s := if sat then bump .timebase 0x11 1 s else s
        noteConds [.timebase] before (updTb (fun t => { t with
          trim := BitVec.ofInt 32 tr, trimSat := sat, goodRounds := good
          aligned := good == 8
          theta := (clampInt 32 (th2 / 2)).1
          thetas := (some th2 :: t.thetas).take 8, trims := (tr :: t.trims).take 10 }) s)
    | _, _ => s

/-- R(r) at the start of a round (R275), `roundNs` the length of the round before: the reference's native timebase with its correction, else
the last R and that length until the reference's RSTART comes. -/
def roundInstant (roundNs : Nat) (s : State) : State :=
  let next := s.tb.lastR + roundNs
  if isReference s then
    if !inTrio s then updTb (fun t => { t with isRef := true, delta := 0, lastR := nowNs s }) s
    else
      let d : Int := if s.tb.isRef || s.tb.lastR = 0 then s.tb.delta else (next : Int) - nowNs s
      updTb (fun t => { t with isRef := true, delta := d, lastR := ((nowNs s : Int) + d).toNat }) s
  else updTb (fun t => { t with isRef := false, lastR := next }) s

/-! ### Fences (R178 to R181) -/

/-- Is the fence output toward a partner high? -/
def fenceHigh (s : State) (m : Fin 3) : Bool := if m = memberAfter (me s) 1 then s.trio.outA else s.trio.outB

/-- Drive the fence output toward a partner; a change raises FENCE. A fence that goes up sends a fence frame on both ports. -/
def driveFence (m : Fin 3) (high : Bool) (s : State) : State :=
  if fenceHigh s m == high then s else
  let s := raise .trio 2 none .unstated
    (updTrio (fun t => if m = memberAfter (me s) 1 then { t with outA := high } else { t with outB := high }) s)
  if high then drainTrio (queueBoth 6 (BitVec.ofNat 8 m.val) 0 0 false (.bytes []) s) else s

/-- A fence acts on this device (R179): single-drive outputs go off at once, the rest safe, the controller stops, and the device gives
up with cause FENCED. -/
def fenceActs (s : State) : State :=
  let first := !s.trio.fenced
  let s := updTrio (fun t => { t with fenced := true, lastCommitHold := 0 }) s
  let s := refreshField (updField (fun f => { f with enSingle := false }) s)
  let s := if first then raiseUrgent .trio 3 510 none .unstated s else s
  if s.trio.gaveUp then (if s.run.state == .stopped then s else stopController .stopped false false s) else giveUp 0x0C s

end Sys2Proof.Machine
end

