-- ==== Sys2Proof/Machine/TrioVote.lean ====
section
/-! DEFINITION. The input vote with its discrepancies (R163, R164) and the output comparison (R165). -/
namespace Sys2Proof.Machine

/-! ### Points in an image -/

/-- The first set bit of a mask, 0 where there is none. -/
def maskLow (m : Word) : Nat := (lowestBit m).getD 0

/-- The status field of a point in its status word. -/
def statusField (p : Place) (w : Word) : Word := (w &&& p.statusMask) >>> maskLow p.statusMask

/-- Does a status show a failure: the broken bit of a binary point, codes 3 to 6 of an analogue one (R163, Table 8.8)? -/
def failsPlace (p : Place) (f : Word) : Bool :=
  if p.bit.isSome then f != 0 else decide (3 ≤ f.toNat) && decide (f.toNat ≤ 6)

/-- A point's value in its word: 0 or 1 for a binary point. -/
def placeValue (p : Place) (w : Word) : Word :=
  match p.bit with
  | some b => if w.getLsbD b.val then 1 else 0
  | none => w

/-- A point's value written into a memory. -/
def putValue (p : Place) (v : Word) (m : Memory) : Memory :=
  let w := match p.bit with
    | some b => setBit (memWord m p.addr) b.val (v != 0)
    | none => v
  memWrite m p.addr (bytesOf 4 w.toNat)

/-- A point's status field written into a memory. -/
def putStatus (p : Place) (f : Word) (m : Memory) : Memory :=
  let w := memWord m p.statusAddr
  memWrite m p.statusAddr (bytesOf 4 ((w &&& ~~~p.statusMask) ||| ((f <<< maskLow p.statusMask) &&& p.statusMask)).toNat)

/-- A bit of a word in a memory. -/
def putWordBit (a : Nat) (b : Nat) (v : Bool) (m : Memory) : Memory := memWrite m a (bytesOf 4 (setBit (memWord m a) b v).toNat)

/-- A change of the pool. -/
def updPool (f : Memory → Memory) (s : State) : State := { s with pool := f s.pool }

/-! ### Numbers of binary32 as exact integers -/

/-- The magnitude that stands for infinity. -/
def fixedInf : Int := 2 ^ 300

/-- A binary32 value times 2^149; none for a NaN. -/
def fixed32 (w : Word) : Option Int :=
  match b32.decode false w.toNat with
  | .nan _ => none
  | .inf n => some (if n then -fixedInf else fixedInf)
  | .fin n m e => some (smant n (m * 2 ^ (e + 149).toNat))

/-- The binary32 nearest to half of a sum of two fixed numbers. -/
def halfB32 (x : Int) : Word := BitVec.ofNat 32 (b32.encode ⟨0, false⟩ (decide (x < 0)) x.natAbs (-150) false).1

/-! ### Substitute rules (Table 4.5) -/

/-- A substitute rule applied to a point in a memory: HOLD keeps the value, FAIL sets the broken bit or a failure status, which of the
codes 3 to 6 being the free value `c`. -/
def substMem (p : Place) (r : Subst) (c : BitVec 2) (m : Memory) : Memory :=
  match r with
  | .hold => m
  | .fixed v => putStatus p 0 (putValue p v m)
  | .fail v => if p.bit.isSome then putStatus p 1 (putValue p 0 m) else putStatus p (c.setWidth 32 + 3) (putValue p v m)

/-- A substitute rule applied to a point of the pool. -/
def applySubst (p : Place) (r : Subst) (s : State) : State :=
  let (c, s) := drawFree 2 s
  updPool (substMem p r c) s

/-! ### The vote -/

/-- A member's column of a point: member, value, status field. -/
structure Column where
  member : Fin 3
  value : Word
  status : Word
  deriving DecidableEq, Repr

/-- The columns of the voting members that arrived. -/
def columnsOf (s : State) (p : InPoint) : List Column :=
  (votersOf s).filterMap fun m =>
    match columnWord s 0 m p.raw.addr, columnWord s 0 m p.raw.statusAddr with
    | some w, some st => some ⟨m, placeValue p.raw w, statusField p.raw st⟩
    | _, _ => none

/-- What a vote finds. -/
inductive Voted where
  | value (v st : Word)
  | substitute
  | unstated (st : Word)
  deriving DecidableEq, Repr

/-- Rule BIN (Table 6.4). -/
def voteBin (p : InPoint) : List Column → Voted
  | [] => .substitute
  | [a] => .value a.value 0
  | [a, b] => .value (if a.value == b.value then a.value else if p.safeState then 1 else 0) 0
  | a :: b :: c :: _ => .value (if a.value == b.value || a.value == c.value then a.value else b.value) 0

/-- Rule ANA (Table 6.4): a NaN in a comparison, and the mean of two opposite infinities, have no stated result; a mean carries the status of
the column of the lower-numbered member (log entry 38). -/
def voteAna (p : InPoint) : List Column → Voted
  | [] => .substitute
  | [a] => .value a.value a.status
  | [a, b] =>
    match fixed32 a.value, fixed32 b.value with
    | some x, some y =>
      let low := if x ≤ y then a else b
      let high := if x ≤ y then b else a
      if x = y then .value a.value a.status
      else match p.duo with
        | .low => .value low.value low.status
        | .high => .value high.value high.status
        | .mean => if x = -y && x.natAbs = fixedInf.natAbs then .unstated a.status else .value (halfB32 (x + y)) a.status
    | _, _ => if a.value == b.value then .value a.value a.status else .unstated a.status
  | a :: b :: c :: _ =>
    match fixed32 a.value, fixed32 b.value, fixed32 c.value with
    | some x, some y, some z =>
      let mid := max (min x y) (min (max x y) z)
      let m := if x = mid then a else if y = mid then b else c
      .value m.value m.status
    | _, _, _ => .unstated a.status

/-- The vote of a point over its counting columns. -/
def voteOf (p : InPoint) (cols : List Column) : Voted :=
  match p.rule with
  | .bin => voteBin p cols
  | .ana => voteAna p cols
  | .src m => match cols.find? fun c => c.member == m with
    | some c => .value c.value c.status
    | none => .substitute

/-- Does a counting column deviate from the voted value (R164)? -/
def deviates (p : InPoint) (v : Word) (c : Column) : Bool :=
  if p.raw.bit.isSome then c.value != v
  else match fixed32 c.value, fixed32 v, fixed32 p.deviation with
    | some x, some y, some l => decide (l < ((x - y).natAbs : Int))
    | _, _, _ => c.value != v

/-- Rounds in a row that a member has deviated at a point. -/
def deviationRun (s : State) (p : BitVec 16) (m : Fin 3) : Nat :=
  ((s.run.discRun.find? fun x => x.1 == p && x.2.1 == m).map fun x => x.2.2).getD 0

/-- The deviations of a round at a point: runs go on or end, a run that reaches P sets the discrepancy bit with a record of the point and the
member, and a round without a deviation clears it (R164). -/
def judgeDeviations (p : InPoint) (devs : List (Fin 3)) (s : State) : State :=
  let limit := max 1 (trioCfg s).persist.toNat
  let runs := devs.map fun m => (p.number, m, deviationRun s p.number m + 1)
  let fresh := runs.filter fun x => x.2.2 == limit
  let s := updRun (fun r => { r with discRun := runs ++ r.discRun.filter fun x => x.1 != p.number }) s
  let s := fresh.foldl (fun s x => raise .trio 4 (some p.tenant) (.given (fld p.number 0) (num x.2.1.val 0) 0) s) s
  if devs.isEmpty then updPool (putWordBit p.discAddr p.discBit.val false) s
  else if fresh.isEmpty then s
  else updPool (putWordBit p.discAddr p.discBit.val true) s

/-- A point took its value from its substitute rule. -/
def noteSubstituted (p : InPoint) (s : State) : State :=
  { s with safety := { s.safety with substituted := p.number :: s.safety.substituted } }

/-- Vote one point (R163). -/
def votePoint (s : State) (p : InPoint) : State :=
  let arrived := columnsOf s p
  let cols := arrived.filter fun c => !failsPlace p.raw c.status
  let failed := (arrived.filter fun c => failsPlace p.raw c.status).map fun c => c.member
  match voteOf p cols with
  | .substitute =>
    let s := noteSubstituted p (applySubst p.voted p.subst s)
    judgeDeviations p ((cols.filter (deviates p (placeValue p.voted (memWord s.pool p.voted.addr)))).map fun c => c.member) s
  | .value v st =>
    judgeDeviations p (((cols.filter (deviates p v)).map fun c => c.member) ++ failed)
      (updPool (fun m => putStatus p.voted st (putValue p.voted v m)) s)
  | .unstated st =>
    let (v, s) := drawFree 32 s
    judgeDeviations p (((cols.filter (deviates p v)).map fun c => c.member) ++ failed)
      (updPool (fun m => putStatus p.voted st (putValue p.voted v m)) s)

/-- Are the value and the status of a place free of poison (R95)? -/
def placeGood (s : State) (p : Place) : Bool := (badIn s p.addr 4).isEmpty && (badIn s p.statusAddr 4).isEmpty

/-- A device without a trio takes the raw image unchanged (Table 1.9), but for words that are uncorrectable (R95); a point whose own column
carries a failure status has no column that counts (R208). -/
def copyPoint (s : State) (p : InPoint) : State :=
  if !placeGood s p.raw then s else
  let st := statusField p.raw (memWord s.pool p.raw.statusAddr)
  let v := placeValue p.raw (memWord s.pool p.raw.addr)
  let s := updPool (fun m => putStatus p.voted st (putValue p.voted v m)) s
  if failsPlace p.raw st then noteSubstituted p s else s

/-- The input points in force. -/
def inPoints (s : State) : List InPoint := s.run.active.elim [] fun a => a.inPoints

/-- TRIO_DISC.POINTS: input points whose discrepancy bit is set, in a word that is free of poison (R95). -/
def countDisc (s : State) : BitVec 16 :=
  BitVec.ofNat 16 (min 65535 ((inPoints s).countP fun p => (badIn s p.discAddr 4).isEmpty && (memWord s.pool p.discAddr).getLsbD p.discBit.val))

/-- Input forces are applied to the voted image after the vote (R112); a force replaces the value and the failure status of its point,
so that a forced input is not one that its substitute rule gave. -/
def forceInputs (s : State) : State :=
  (inPoints s).foldl (fun s p => match forcedValue s p.number with
    | some v =>
      let s := updPool (fun m => putStatus p.voted 0 (putValue p.voted v m)) s
      { s with safety := { s.safety with substituted := s.safety.substituted.filter fun n => n != p.number } }
    | none => s) s

/-- Does the device take part in the rounds' computing: running, and voting or listening where it stands in a trio? -/
def computes (s : State) : Bool := s.run.state == .running && (!inTrio s || votes s || listening s)

/-- The vote unit and the comparator read words of the own images, as a scheduled transfer reads them (R92, R93). -/
def scanWords (as : List Nat) (s : State) : State := ((as.map fun a => a / 8 * 8).dedup).foldl (fun s w => scanPool w 8 s) s

/-- INPUT_VOTE. -/
def voteInputs (s : State) : State :=
  if !computes s then s else
  let was := s
  let s := scanWords ((inPoints s).flatMap fun p => [p.raw.addr, p.raw.statusAddr]) s
  let s := { s with safety := { s.safety with substituted := [] } }
  let s := if inTrio s then (inPoints s).foldl votePoint s else (inPoints s).foldl copyPoint s
  forwardChanges was (forceInputs (updTrio (fun t => { t with disc := countDisc s }) s))

/-! ### Output comparison (R165, Table 6.5) -/

/-- The value of an output point in a member's output image. -/
def outColumn (s : State) (p : OutPoint) (m : Fin 3) : Option Word := (columnWord s 1 m p.place.addr).map (placeValue p.place)

/-- Is a point left out for a member: a task of it is marked substituted by the member or is under repair? -/
def leftOut (s : State) (p : OutPoint) (m : Fin 3) : Bool :=
  (pointTasks s p).any fun n => s.trio.repairs.contains n || (taskAt s n).elim false fun t => marked s m t

/-- What comparing one point finds. -/
inductive PointCmp where
  | same | odd (m : Fin 3) | none3 | pair (a b : Fin 3)
  deriving DecidableEq, Repr

/-- Compare the counted columns of a point. -/
def cmpColumns : List (Fin 3 × Word) → PointCmp
  | [a, b] => if a.2 == b.2 then .same else .pair a.1 b.1
  | [a, b, c] =>
    if a.2 == b.2 && b.2 == c.2 then .same
    else if b.2 == c.2 then .odd a.1
    else if a.2 == c.2 then .odd b.1
    else if a.2 == b.2 then .odd c.1
    else .none3
  | _ => .same

/-- The counted columns of a point. -/
def countedColumns (s : State) (p : OutPoint) : List (Fin 3 × Word) :=
  ((votersOf s).filter fun m => !leftOut s p m).filterMap fun m => (outColumn s p m).map fun w => (m, w)

/-- The finding over every point: NO_MAJORITY, OUTVOTED, DISAGREE, OK in this order, with the odd members and the disagreeing pair (the
first in table order, log entry 124) and tasks. -/
def findingOf (s : State) : CmpResult × List (Fin 3) × Disagree :=
  let fs := (outPoints s).map fun p => (p, cmpColumns (countedColumns s p))
  let odd := (List.finRange 3).filter fun m => fs.any fun f => f.2 == .odd m
  if odd.length = 3 || fs.any fun f => f.2 == .none3 then (.noMajority, [], ⟨0, []⟩)
  else if !odd.isEmpty then (.outvoted, odd, ⟨0, []⟩)
  else
    let ps := fs.filterMap fun f => match f.2 with
      | .pair a b => some (f.1, memberSet [a, b])
      | _ => none
    match ps with
    | [] => (.ok, [], ⟨0, []⟩)
    | q :: _ => (.disagree, [], ⟨q.2, ((ps.filter fun x => x.2 == q.2).flatMap fun x => pointTasks s x.1).dedup⟩)

/-- The listening member whose column stands in the round: this one, or a partner that does not vote but sent its output image. -/
def listenerOf (s : State) : Option (Fin 3) :=
  if listening s then some (me s)
  else (partnersOf s).find? fun m => !rosterVotes s.trio.roster m && columnHere s 1 m

/-- LISTEN_OK: at every point the listening column equals what more than half of the counted columns hold. -/
def listenOk (s : State) (l : Fin 3) : Bool :=
  (outPoints s).all fun p =>
    let cs := countedColumns s p
    leftOut s p l || cs.isEmpty ||
    (outColumn s p l).elim false fun w => decide (cs.length < 2 * cs.countP fun c => c.2 == w)

/-- The members whose output images stand in the round: those that vote, and the one that listens. -/
def imageMembers (s : State) : List (Fin 3) := votersOf s ++ (listenerOf s).toList

/-- The substitution marks of every member of the round. -/
def countMarks (s : State) : Nat := (imageMembers s).foldl (fun n m => n + (tasksOf s).countP fun t => marked s m t) 0

/-- The fence test of R181: when T is a multiple of 64 the coordinator pulses output A or B. -/
def fenceTest (s : State) : State :=
  if s.trio.t.toNat % 64 = 0 && coordinator s == me s && votes s then
    let a := s.trio.t.toNat / 64 % 2 == 0
    updTrio (fun t => { t with testSent := some a, pulseA := a, pulseB := !a }) s
  else s

/-- COMPARISON_INSTANT. -/
def compareOutputs (s : State) : State :=
  if !inTrio s || !computes s then s else
  let s := scanWords ((outPoints s).map fun p => p.place.addr) s
  let (r, odd, d) := findingOf s
  let l := listenerOf s
  let lr := l.map fun m => (m, listenOk s m)
  let shown : CmpResult := if r == .ok then lr.elim .ok (fun x => if x.2 then .listenOk else .listenFail) else r
  let s := updTrio (fun t => { t with
    cmp := shown, compared := true
    odd := (odd[0]?.map memberBits).getD 3, odd2 := (odd[1]?.map memberBits).getD 3
    subst := BitVec.ofNat 16 (min 65535 (countMarks s))
    listen := lr
    disagreeNext := if r == .disagree then some d else none }) s
  let s := if shown != .ok then raise .trio 5 none .unstated (bump .trio 0x12 1 s) else s
  let s := fenceTest s
  if !votes s then s
  else if r == .noMajority then giveUp 0x05 s
  else if odd.contains (me s) then giveUp 0x04 s
  else s

/-- INPUT_VOTE. -/
def execInputVote (s : State) : Out := .next (voteInputs s)
/-- COMPARISON_INSTANT. -/
def execComparisonInstant (s : State) : Out := .next (compareOutputs s)

end Sys2Proof.Machine
end

