-- ==== Sys2Proof/Machine/TrioDecide.lean ====
section
/-! DEFINITION. The decision instant (R167, R169, R173 to R175, R178, R180, R181, R184, R189 to R191), the diagnosis, and the commands of
the fence and of giving up. -/
namespace Sys2Proof.Machine

/-! ### Evidence (Table 6.7) -/

/-- The status of a member of this round: a partner's as held, this member's as sent. -/
def statusOf (s : State) (m : Fin 3) : Option MemberStatus :=
  if m = me s then some (s.trio.sentStatus.getD (ownStatus s)) else (partnerAt s m).status

/-- Does a member's status of the round show GAVE_UP? -/
def showsGaveUp (s : State) (m : Fin 3) : Bool := (statusOf s m).elim false fun st => st.gaveUp

/-- Do the statuses of two members name equal identities? -/
def idsAgree (a b : MemberStatus) : Bool := sameIds a.config a.schedId a.appId b

/-- The distance of a COMPAT number from the median of three. -/
def fromMedian (a b c x : Nat) : Nat :=
  let med := max (min a b) (min (max a b) c)
  if x ≤ med then med - x else x - med

/-- Does SCHED_ID, APP_ID or CONFIG of a status differ from both others'? -/
def idsOdd (a b c : MemberStatus) : Bool :=
  (a.schedId != b.schedId && a.schedId != c.schedId) || (a.appId != b.appId && a.appId != c.appId) ||
  (a.config != b.config && a.config != c.config)

/-- The member whose COMPAT lies furthest from the median of three numbers that are not within 1, of two such the higher-numbered. -/
def compatOdd (x y z : Nat) : Option (Fin 3) :=
  if max x (max y z) ≤ min x (min y z) + 1 then none
  else
    let dx := fromMedian x y z x
    let dy := fromMedian x y z y
    let dz := fromMedian x y z z
    let d := max dx (max dy dz)
    if dz = d then some 2 else if dy = d then some 1 else some 0

/-- TRIO: the members whose identities differ from both others', and the one whose COMPAT is furthest out (Table 6.7). -/
def mismatched3 (s : State) : List (Fin 3) :=
  match statusOf s 0, statusOf s 1, statusOf s 2 with
  | some a, some b, some c =>
    let odd := compatOdd a.compat.toNat b.compat.toNat c.compat.toNat
    (List.finRange 3).filter fun m =>
      odd == some m || (if m = 0 then idsOdd a b c else if m = 1 then idsOdd b a c else idsOdd c a b)
  | _, _, _ => []

/-- DUO: do the two voting members' identities differ, or their COMPAT numbers by more than 1? -/
def mismatched2 (s : State) : Bool :=
  match votersOf s with
  | [a, b] => match statusOf s a, statusOf s b with
    | some x, some y => !(idsAgree x y && compatNear x.compat y.compat)
    | _, _ => false
  | _ => false

/-- What a decision instant finds: members excluded, members to be fenced, and those excluded for MISMATCH. -/
structure Evidence where
  excluded : BitVec 3
  fence : BitVec 3
  mismatch : BitVec 3
  deriving DecidableEq, Repr

/-- The standby of a duo. -/
def duoStandby (s : State) : Option (Fin 3) := (votersOf s).find? fun m => some m != activeMember s

/-- Members that both others report in MISSING. -/
def missedByBoth (s : State) : List (Fin 3) :=
  (List.finRange 3).filter fun m =>
    ((List.finRange 3).filter fun o => o != m).all fun o => (statusOf s o).elim false fun st => st.missing.getLsbD m.val

/-- The exclusion evidence of Table 6.7, as this member holds it. -/
def evidence (s : State) : Evidence :=
  let vs := votersOf s
  let gave := memberSet (vs.filter (showsGaveUp s))
  if vs.length = 3 then
    let odd := memberSet (outvoted s)
    let miss := memberSet (missedByBoth s)
    let mm := memberSet (mismatched3 s)
    let all : BitVec 3 := if cmpNow s == .noMajority then 7 else 0
    ⟨gave ||| odd ||| miss ||| mm ||| all, (odd ||| miss) &&& ~~~gave, mm⟩
  else if vs.length = 2 then
    match activeMember s, duoStandby s with
    | some a, some b =>
      let lost : BitVec 3 :=
        if me s = b && (statusOf s b).elim false (fun st => st.missing.getLsbD a.val) then memberSet [a] else 0
      let silent : BitVec 3 :=
        if me s = a && decide (3 ≤ (partnerAt s b).missedD) && !s.trio.fenced then memberSet [b] else 0
      let mm : BitVec 3 := if mismatched2 s then memberSet [b] else 0
      ⟨gave ||| lost ||| silent ||| mm, lost &&& ~~~gave, mm⟩
    | _, _ => ⟨gave, 0, 0⟩
  else ⟨gave, 0, 0⟩

/-! ### Forces of partners (R175) -/

/-- Take over one published force or removal of a partner: refused by this member's own checks, or entered. -/
def takeForce (m : Fin 3) (s : State) (f : ForceMsg) : State :=
  let refuse (s : State) : State := updTrio (fun t => { t with forcesRefused := t.forcesRefused ++ [f.point] }) s
  if f.clear then
    match forceIdx s f.point with
    | some i => forceChanged (pointTenant s f.point) (enterRemoval m i 2 s)
    | none => s
  else if (forceIdx s f.point).isNone && (freeForce s).isNone then refuse s
  else match pointTrip s f.point with
    | none => refuse s
    | some trip =>
      if trip && !sealMaint s then refuse s else forceChanged (pointTenant s f.point) (enterForce m f.point f.value 2 s)

/-- The record of a refused force: its point and the member that refused it. -/
def noteRefused (by_ : Fin 3) (p : BitVec 16) (s : State) : State := note .trio 0x80 none (fld p 0) (num by_.val 0) s

/-- A force without the value that would act at the next round start; none where nothing of it is left. -/
def withoutNext (f : Force) : Option Force :=
  let rest := f.pend.filter fun x => !(x.1.isSome && x.2.1 == 1)
  if f.on || rest.any fun x => x.1.isSome then some { f with pend := rest } else none

/-- A force that a member refused is dropped before it takes effect, with a record. -/
def dropForce (by_ : Fin 3) (s : State) (p : BitVec 16) : State :=
  match forceIdx s p with
  | none => s
  | some i =>
    if (Vec.at s.run.forces i).elim false fun f => f.pend.any fun x => x.1.isSome && x.2.1 == 1 then
      noteRefused by_ p (refreshForceInd (putForce i ((Vec.at s.run.forces i).bind withoutNext) s))
    else s

/-- The forces that the statuses of the round carry, and the refusals, those of this member among them. -/
def partnerForces (s : State) : State :=
  if !votes s then s else
  let own := s.trio.sentStatus.elim [] fun st => st.refused
  let s := own.foldl (fun s p => noteRefused (me s) p s) s
  (partnersOf s).foldl (fun s m =>
    match (partnerAt s m).status with
    | some st =>
      if rosterVotes s.trio.roster m && !st.gaveUp then st.refused.foldl (dropForce m) (st.forces.foldl (takeForce m) s) else s
    | none => s) s

/-! ### Diagnosis (R167) -/

/-- DIAGNOSIS: the engine tests, the loop-record reads and the speed readings of a member that found DISAGREE in the round before.
The speed check fails where a tile's last MIN is below 1,024 (log entry 124). -/
def diagnose (enginesPass loopReadsPass : Bool) (s : State) : State :=
  match s.trio.disagree with
  | some d =>
    if d.members.getLsbD (me s).val && votes s then
      let speed := (presentCrests s).all fun c => !(Vec.at s.crests c).slow
      updTrio (fun t => { t with diagPass := some (enginesPass && loopReadsPass && speed) }) s
    else s
  | none => s

/-- The other member of a finding. -/
def diagOther (s : State) (d : Disagree) : Option (Fin 3) := (partnersOf s).find? fun m => d.members.getLsbD m.val

/-- Is this member concerned by a finding of the round before? -/
def diagnosed (s : State) (d : Disagree) : Bool := votes s && d.members.getLsbD (me s).val

/-- Would this member give up if both diagnoses passed: is the other one active, or neither and this one higher in number? -/
def yields (s : State) (d : Disagree) : Bool :=
  if activeMember s == some (me s) then false
  else (diagOther s d).elim false fun m => activeMember s == some m || decide (m < me s)

/-- The disagreeing tasks of a member that continues whatever the other's diagnosis finds: cause DISAGREE of this round (R201). -/
def disagreeTasks (s : State) : List (BitVec 3 × BitVec 8) :=
  match s.trio.disagree with
  | some d => if diagnosed s d && !yields s d && s.trio.diagPass != some false then d.tasks else []
  | none => []

/-- Does what this member holds show that the other member of a finding failed its diagnosis or gave up? A missing DIAG
shows nothing (log entry 124). -/
def otherFailed (s : State) (d : Disagree) : Bool :=
  (diagOther s d).elim false fun m => (statusOf s m).elim false fun st => st.diagPass == some false || st.gaveUp

/-- The disagreeing tasks of a member that continues only because the other's diagnosis failed. It learns so at D(r + 1), after the close of
round r + 1, and its functions react there (log entry 90). -/
def lateDisagree (s : State) : List (BitVec 3 × BitVec 8) :=
  match s.trio.disagree with
  | some d => if diagnosed s d && yields s d && s.trio.diagPass != some false && otherFailed s d then d.tasks else []
  | none => []

/-- The outcome of a diagnosis at D(r + 1). -/
def settleDiagnosis (s : State) : State :=
  match s.trio.disagree with
  | none => s
  | some d =>
    if !diagnosed s d then s
    else if s.trio.diagPass == some false then giveUpWith 0x06 true s
    else if !otherFailed s d && yields s d then giveUpWith 0x06 false s
    else s

/-! ### Repairs (R169) -/

/-- The donor of a member's repairs: the active member, or for it the voting standby with the lowest number. -/
def repairDonor (s : State) (m : Fin 3) : Option (Fin 3) :=
  if activeMember s == some m then (votersOf s).find? fun x => x != m else activeMember s

/-- The spans of a task's repair data, first address and flits: the variable and output sections of its committed copy, then the state blocks
of its loop slots. -/
def repairSpans (s : State) (t : Task) : List (Word × Nat) :=
  (BitVec.ofNat 32 (t.committed + 64 * t.inputFlits), t.variableFlits + t.outputFlits) ::
  (attributedLoops s t).map fun l => (BitVec.ofNat 32 (loopAddr l.1 (0x100 * l.2.toNat + 0x80)), 1)

/-- A task's repair waits at the port toward a member, as frames of its good flits (R299, R301). -/
def sendRepair (m : Fin 3) (s : State) (t : Task) : State :=
  let sp := repairSpans s t
  let fs := sp.flatMap fun x => flitsAt s x.1 x.2
  let s := sp.foldl (fun s x => scanSpan x.1 (64 * x.2) s) s
  (flitSpans (fun k => (fs.getD k none).isSome) fs.length).foldl (fun s x =>
    queueTrio (portOf s m) 7 (BitVec.ofNat 8 m.val) x.1 x.2 false
      (.bytes (bytesOf 4 (fld t.tenant 8 ||| fld t.task 0 : Word).toNat ++ ((fs.drop x.1).take x.2).flatMap fun f => f.getD [])) s) s

/-- This member's own unrepaired tasks: three rounds in a row make it give up with REPAIR; the others are under repair in the next
round. A member that listens runs tasks and is repaired as one that votes. -/
def ownRepairs (s : State) : State :=
  let mine := (s.run.tasks.filter fun t => t.abandoned && !t.stopped).map fun t => (t.tenant, t.task)
  if !(votes s || listening s) || (repairDonor s (me s)).isNone then
    updRun (fun r => { r with tasks := r.tasks.map fun t => { t with unrepaired := 0 } }) s
  else
    let s := updRun (fun r => { r with tasks := r.tasks.map fun t =>
      if t.abandoned && !t.stopped then { t with unrepaired := if t.repair && !t.repaired then t.unrepaired + 1 else 1 }
      else { t with unrepaired := 0 } }) s
    let s := updTrio (fun t => { t with repairsNext := (t.repairsNext ++ mine).dedup }) s
    if s.run.tasks.any fun t => decide (3 ≤ t.unrepaired) then giveUp 0x09 s else s

/-- The repairs that this member sends as donor, tasks in ascending tenant and number, and the partners' tasks under repair next. -/
def partnerRepairs (s : State) : State :=
  drainTrio (((imageMembers s).filter fun m => m != me s).foldl (fun s m =>
    let ts := (tasksOf s).filter fun t => marked s m t
    let s := updTrio (fun t => { t with repairsNext := (t.repairsNext ++ ts.map fun x => (x.tenant, x.task)).dedup }) s
    if votes s && repairDonor s m == some (me s) then
      (ts.insertionSort fun a b => a.tenant.toNat * 256 + a.task.toNat ≤ b.tenant.toNat * 256 + b.task.toNat).foldl (sendRepair m) s
    else s) s)

/-! ### Fences and tests at D -/

/-- Fences that a partner's GAVE_UP or OBSERVER status lowers, and those due from the round before that go up (R178, R180). -/
def decideFences (s : State) : State :=
  let s := (partnersOf s).foldl (fun s m =>
    match (partnerAt s m).status with
    | some st => if st.gaveUp || st.role == .observer then driveFence m false s else s
    | none => s) s
  (partnersOf s).foldl (fun s m =>
    if s.trio.toFence.getLsbD m.val && votes s && !showsGaveUp s m then driveFence m true s else s) s

/-- A count of unseen tests after one more. -/
def missAfter (seen : Bool) (n : BitVec 4) : BitVec 4 := if seen then 0 else satInc n

/-- The fence tests of a round whose T is a multiple of 64 (R181): the coordinator counts what the faced member did not see, and raises
FENCE_WIRE at the third; the faced member counts announced tests it did not see. -/
def judgeTest (s : State) : State :=
  let s := match s.trio.testSent with
    | none => s
    | some a =>
      match (partnerAt s (portPartner s (if a then .a else .b))).status with
      | none => s
      | some st =>
        let n := missAfter st.testSeen (if a then s.trio.missA else s.trio.missB)
        let s := updTrio (fun t => if a then { t with missA := n } else { t with missB := n }) s
        if n = 3 then raise .trio 8 none .unstated s else s
  (partnersOf s).foldl (fun s m =>
    match ((partnerAt s m).status.bind fun st => st.testSent) with
    | none => s
    | some a =>
      if memberAfter m (if a then 1 else 2) = me s then
        updTrio (fun t => { t with missIn := missAfter t.testSeen t.missIn }) s
      else s) s

/-! ### Rejoin at D (R189 to R191) -/

/-- A rejoin ends: with a code, at rest, with REJOIN raised. A member that was listening is an observer again. -/
def endRejoin (code : Byte) (s : State) : State :=
  let was := listening s
  let s := updTrio (fun t => { t with
    code := code, phase := 0, donor := 3, rejoinReq := false, rejoinTest := false, bulkDone := false, copiedBytes := 0
    role := if was then .observer else t.role }) s
  let s := if was then stopController .observer false true s else s
  raise .trio 6 none .unstated s

/-- The donor under an adopted roster: the one named, unless the roster has removed it; then the voting standby with the lowest number, else
the active member (R190, R191). -/
def donorUnder (r : Roster) (named : BitVec 2) : BitVec 2 :=
  if h : named.toNat < 3 ∧ rosterVotes r ⟨named.toNat % 3, by omega⟩ then named
  else (((List.finRange 3).find? fun m => rosterVotes r m && memberBits m != r.active).map memberBits).getD r.active

/-- A listening member copies again: it is an observer until it listens anew. -/
def copyAgain (s : State) : State :=
  if listening s then stopController .observer false true (updTrio (fun t => { t with role := .observer }) s) else s

/-- The rejoin of this member at a decision instant: `st` is the status whose roster is adopted, `r` the roster. A listener whose column
compared as LISTEN_OK joins, unless its donor votes no more; a new donor starts the copy again, and what the former one sent counts no more
(R191). -/
def rejoinAtD (st : Option MemberStatus) (r : Roster) (s : State) : State :=
  let p := s.trio.phase.toNat
  let mine := memberBits (me s)
  if p = 0 then s
  else if p = 4 && s.trio.listen.elim false (fun x => !x.2) then endRejoin 0x55 s
  else if r.voting = 0 then endRejoin 0x56 s
  else if p = 4 && r.voting.getLsbD s.trio.donor.toNat then
    (if rosterVotes r (me s) then updTrio (fun t => { t with phase := 5 }) s else endRejoin 0x55 s)
  else if p = 4 then
    updTrio (fun t => { t with phase := 2, donor := donorUnder r s.trio.donor, copiedBytes := 0, bulkDone := false }) (copyAgain s)
  else match st with
    | none => s
    | some st =>
      let donor := donorUnder r (if st.admits == some mine then st.donor else s.trio.donor)
      if (p = 1 && st.admits == some mine) || ((p = 2 || p = 3) && donor != s.trio.donor) then
        updTrio (fun t => { t with phase := 2, donor := donor, copiedBytes := 0, bulkDone := false }) s
      else s

/-! ### Adoption (R174, R185) -/

/-- The member whose proposal is adopted: the coordinator, else the next in priority order after it whose status is held, its own among
them. -/
def proposer (s : State) : Fin 3 :=
  let c := coordinator s
  (([c, memberAfter c 1, memberAfter c 2]).find? fun m => (statusOf s m).isSome).getD (me s)

/-- The roster adopted: the proposal, with its active member and epoch, less the members this decision excludes and a joining member whose
donor is one of these (R191); where the active member is excluded, a voting standby becomes active (R159). -/
def adopted (s : State) (ev : Evidence) : Roster :=
  let pr := (statusOf s (proposer s)).elim (proposal s) fun st => st.roster
  let v := memberSet (((List.finRange 3).filter fun m => (pr.voting &&& ~~~ev.excluded).getLsbD m.val).filter fun m =>
    rosterVotes s.trio.roster m || (statusOf s m).elim true fun st =>
      decide (3 ≤ st.donor.toNat) || (pr.voting &&& ~~~ev.excluded).getLsbD st.donor.toNat)
  if pr.active.toNat < 3 && v.getLsbD pr.active.toNat then ⟨v, pr.active, pr.epoch⟩
  else nextRosterOf ⟨s.trio.roster.voting, 3, pr.epoch⟩ v

/-- A channel in TRIM that the adopted roster will make driven leaves trim mode before the commit instant (R240). -/
def abortTrimsNext (r : Roster) (s : State) : State :=
  let ahead := updField (fun f => { f with
    enSingle := r.active == s.trio.member, enAll := rosterVotes r (me s) && f.enAll }) s
  (List.finRange 16).foldl (fun s n =>
    if s.field.trim.getLsbD n.val && (aoDrive ahead n).isSome then
      leaveTrim n (updField (fun f => { f with trimCode := 0x72 }) s)
    else s) s

/-- DECISION_INSTANT. -/
def decide_ (s : State) : State :=
  if !inTrio s || s.trio.forming || !s.sched.running then s else
  let s := settleDiagnosis (partnerForces s)
  let s := (partnersOf s).foldl (fun s m =>
    updPartner m (fun p => { p with missedD := if p.status.isSome then 0 else p.missedD + 1 }) s) s
  let ev := evidence s
  let mine := me s
  let s := if votes s && ev.mismatch.getLsbD mine.val then giveUp 0x08 s else s
  let s := decideFences s
  let s := updTrio (fun t => { t with toFence := if votes s then setBit ev.fence mine.val false else 0 }) s
  let s := if votes s && s.trio.state == .trio && (partnersOf s).all (fun m => decide (3 ≤ (partnerAt s m).missedD)) then
      giveUp 0x07 s else s
  let st := statusOf s (proposer s)
  let r := adopted s ev
  let s := if votes s && !rosterVotes r mine then giveUp 0x0E s else s
  let s := rejoinAtD st r s
  let s := updTrio (fun t => { t with
    nextRoster := some r
    joining := (st.bind fun x => x.admits)
    donating := (st.bind fun x => if x.admits.isSome && donorUnder r x.donor == s.trio.member then x.admits else none) }) s
  let s := judgeTest s
  partnerRepairs (ownRepairs (abortTrimsNext r s))

/-! ### The commands -/

/-- EXCHANGE_MISSING: an exchange that has not arrived whole by its use instant is missing for the round (R160). -/
def exchangeMissing (p : TrioPort) (kind : BitVec 4) (s : State) : State :=
  let k := kind.toNat
  let m := portPartner s p
  let here := if k = 3 then (partnerAt s m).align.isSome else if k = 4 then (partnerAt s m).status.isSome
    else (exchangesOf s k).any fun e => exchangeHere s p k e.len.toNat
  if !inTrio s || here || decide (4 < k) || (partnerAt s m).missingKinds.getLsbD k then s
  else bump .trio 0x11 1 (updPartner m (fun q => { q with missingKinds := setBit q.missingKinds k true }) s)

/-- GIVE_UP: refused in SOLO with LAST_VOTER and without a trio with NO_PARTNER. -/
def cmdGiveUp (s : State) : State :=
  let code (c : Byte) (s : State) : State := updTrio (fun t => { t with code := c }) s
  if !inTrio s then code 0x51 s
  else if !votes s then code 0 s
  else if s.trio.state == .solo then code 0x57 s
  else giveUp 0x0B (code 0 s)

/-- DIAGNOSIS. -/
def execDiagnosis (enginesPass loopReadsPass : Bool) (s : State) : Out := .next (diagnose enginesPass loopReadsPass s)
/-- EXCHANGE_MISSING. -/
def execExchangeMissing (p : TrioPort) (kind : BitVec 4) (s : State) : Out := .next (exchangeMissing p kind s)
/-- FENCE_TEST_PULSE_END. -/
def execFenceTestPulseEnd (s : State) : Out := .next (updTrio (fun t => { t with pulseA := false, pulseB := false }) s)
/-- FENCE_IN. -/
def execFenceIn (s : State) : Out := .next (fenceActs (updTrio (fun t => { t with inHigh := false, testSeen := true }) s))
/-- FENCE_IN_N_LOW. -/
def execFenceInNLow (s : State) : Out := .next (updTrio (fun t => { t with testSeen := true }) s)
/-- TRIO_GIVE_UP. -/
def execTrioGiveUp (q : Req) (s : State) : Out := .next (onPage q .trio cmdGiveUp s)
/-- SOLO_WARN. -/
def execSoloWarn (s : State) : Out :=
  .next (if s.trio.soloStart.isSome then raise .trio 7 none .unstated s else s)
/-- SOLO_EXPIRED. -/
def execSoloExpired (s : State) : Out := .next (if s.trio.soloStart.isSome && votes s then giveUp 0x0A s else s)

end Sys2Proof.Machine
end

