-- ==== Sys2Proof/Machine/TrioFrames.lean ====
section
/-! DEFINITION. Trio frames received (R300 to R303), trio ports going down and up (R304), forming and rejoining (R188 to R191), and the
commit point with the rejoin it ends. -/
namespace Sys2Proof.Machine

/-! ### Rejoin -/

/-- Does a partner vote, as far as this device has heard? -/
def partnerVotes (s : State) (m : Fin 3) : Bool :=
  (((partnerAt s m).status).orElse fun _ => (partnerAt s m).last).elim false fun st =>
    (st.role == .active || st.role == .standby) && !st.gaveUp

/-- REJOIN (R189, R194): INCOMPATIBLE while the safety configuration is not accepted; else NOT_OBSERVER, NO_PARTNER, BUSY, INCOMPATIBLE in the
order of their codes; else the self-test begins. -/
def cmdRejoin (s : State) : State :=
  let code (c : Byte) (s : State) : State := updTrio (fun t => { t with code := c }) s
  let vs := (partnersOf s).filter (partnerVotes s)
  let fits (m : Fin 3) : Bool :=
    (((partnerAt s m).status).orElse fun _ => (partnerAt s m).last).elim false (compatible s)
  if (safetyCfg s).isSome && !s.safety.accepted then code 0x54 s
  else if !(s.run.state == .observer || s.run.state == .stopped) then code 0x50 s
  else if !inTrio s || vs.isEmpty then code 0x51 s
  else if s.trio.phase != 0 || s.trio.rejoinTest then code 0x52 s
  else if !vs.all fits then code 0x54 s
  else code 0 (updTrio (fun t => { t with rejoinTest := true }) s)

/-! ### Forming (R188, R271, R274) -/

/-- The members `ms` form together: the lowest number is active, T counts from 0, and this device takes its role, unless it has given up: then
it is an observer of theirs (R179). -/
def formWith (ms : List (Fin 3)) (s : State) : State :=
  let r := nextRosterOf ⟨0, 3, 0⟩ (memberSet ms)
  let r : Roster := ⟨r.voting, r.active, 0⟩
  let role : Role := if s.trio.gaveUp || !rosterVotes r (me s) then .observer else if r.active == s.trio.member then .active else .standby
  raise .trio 0 none .unstated <| noteConds [.timebase] s (updTrio (fun t => { t with
    forming := false, roster := r, role := role, state := trioStateOf ms.length, t := 0
    soloStart := if ms.length = 1 && role == .active then some (schedNow s) else none }) { s with pwr := { s.pwr with stage := 10 } })

/-- The active member of a formed trio, and a member that found nobody, names the first frame's start: the lead time of R58 from now on. -/
def proposeStart (s : State) : State :=
  if s.trio.role == .active || s.trio.roster.voting = 0 then updTrio (fun t => { t with startAt := some (schedNow s + leadNs s) }) s else s

/-- The formation wait ends: with the starters heard, or alone in SOLO. -/
def formationEnd (s : State) : State :=
  if !s.trio.forming then s
  else proposeStart (formWith (((if s.trio.gaveUp then [] else [me s]) ++ startersHeard s).insertionSort fun a b => a ≤ b) s)

/-- A frame start that a partner names, taken through θ onto this device's schedule clock. -/
def takeStart (m : Fin 3) (st : MemberStatus) (s : State) : State :=
  match st.start, formTheta s m with
  | some x, some th2 => updTrio (fun t => { t with startAt := some (max 0 ((x.toNat : Int) + th2 / 2)).toNat }) s
  | _, _ => s

/-- The members of a voting set. -/
def membersIn (v : BitVec 3) : List (Fin 3) := (List.finRange 3).filter fun m => v.getLsbD m.val

/-- A status heard while forming: a member that votes in a roster without this device makes it an OBSERVER, which requests rejoin at once
under AUTO_REJOIN; one whose roster names it, or two starters heard, form the trio. A partner of another configuration is ignored (R8). -/
def hearForming (m : Fin 3) (st : MemberStatus) (s : State) : State :=
  if st.config != myConfig s then s else
  let s := updPartner m (fun p => { p with status := some st, lastCompat := some st.compat }) s
  if (st.role == .active || st.role == .standby) && !st.gaveUp then
    if st.t = 0 && rosterVotes st.roster (me s) && compatible s st then formWith (membersIn st.roster.voting) s
    else
      let s := noteConds [.timebase] s <| updRun (fun r => { r with state := .observer }) (updTrio (fun t => { t with
        forming := false, role := .observer, t := st.t, roster := st.roster, state := trioStateOf (popcount st.roster.voting) })
        { s with pwr := { s.pwr with stage := 10 } })
      if (trioCfg s).autoRejoin then cmdRejoin s else s
  else if (startersHeard s).length = 2 then formationEnd s else s

/-- A status heard before the first round: it may end the formation; an observer follows a voting member's roster; and the reference's names
the instant of the first frame. -/
def hearEarly (m : Fin 3) (st : MemberStatus) (s : State) : State :=
  let s := if s.trio.forming then hearForming m st s
    else updPartner m (fun p => { p with status := some st, lastCompat := some st.compat }) s
  let s := if !s.trio.forming && !votes s && rosterVotes st.roster m then
      noteConds [.timebase] s (updTrio (fun t => { t with t := st.t, roster := st.roster, state := trioStateOf (popcount st.roster.voting) }) s)
    else s
  if !s.trio.forming && activeMember s == some m && m != me s then takeStart m st s else s

/-- The LEN of the exchange of a kind in the image loaded; one flit where there is none. -/
def exchangeLen (s : State) (k : BitVec 4) : Nat :=
  ((s.sched.active.bind fun im => im.exchanges.find? fun e => e.kind == k).map fun e => e.len.toNat).getD 1

/-- Once a millisecond before its first round, a member that waits to form, or for its first round, sends its alignment and its status, and
one in SAFE-HOLD its status (R188, R194, R271, log entry 88). -/
def announce (s : State) : State :=
  if !inTrio s || s.sched.running || !(s.trio.forming || s.safety.safeHold || s.pwr.stage == 10) then s else
  let s := if s.safety.safeHold then s else sendAlign (exchangeLen s 3) s
  drainTrio (queueStatus (exchangeLen s 4) (ownStatus s) s)

/-! ### Frames -/

/-- Is a frame protected by the port's association key, with a packet number after every one accepted under it: the replay window is 0? -/
def underKey (s : State) (p : TrioPort) (f : TrioFrame) : Bool :=
  let x := Vec.at s.ports (trioPortIdx p)
  portCak s p == some f.cak && f.key == x.keyCur && decide (x.rxPn < f.pn)

/-- Is it protected by the key before, while both are accepted (R306)? -/
def underOldKey (s : State) (p : TrioPort) (f : TrioFrame) : Bool :=
  let x := Vec.at s.ports (trioPortIdx p)
  f.key == x.keyCur - 1 && decide (x.rxPnOld < f.pn) && x.keyBoth.elim false fun k => k.1 != 0 && k.2 == f.cak

/-- Does a frame pass the MACsec check (R305, R306; log entry 104)? -/
def macsecPasses (s : State) (p : TrioPort) (f : TrioFrame) : Bool := f.macsecOk && (underKey s p f || underOldKey s p f)

/-- The packet number of a frame that passes is taken. -/
def notePn (p : TrioPort) (f : TrioFrame) (s : State) : State :=
  if !macsecPasses s p f then s
  else if underKey s p f then updPort (trioPortIdx p) (fun x => { x with rxPn := f.pn }) s
  else updPort (trioPortIdx p) (fun x => { x with rxPnOld := f.pn }) s

/-- A received trio frame is discarded and counted (R302); a failed MACsec check raises MACSEC. -/
def discardTrio (p : TrioPort) (f : TrioFrame) (s : State) : State :=
  let i := trioPortIdx p
  let s := updPort i (fun x => { x with bad := satInc x.bad }) (bump .trio 0x13 1 (bump (.port i) 0x12 1 s))
  if macsecPasses s p f then s else raise (.port i) 2 none .unstated s

/-- Does a frame pass the checks of R302, its LEN within Table 11.6? -/
def trioFrameOk (s : State) (p : TrioPort) (f : TrioFrame) : Bool :=
  inTrio s && macsecPasses s p f && f.crc == trioCrc f && decide (f.len.toNat ≤ 128) && decide (1 ≤ f.type.toNat) && decide (f.type.toNat ≤ 0xA) &&
  (f.target == 0xFF || f.target.toNat == (me s).val) && f.sender.toNat == (portPartner s p).val

/-- Bytes of a kind's part of a receive bank (Table 11.5). -/
def kindSize (k : Nat) : Nat := if k = 2 then 0xF0000 else if k ≤ 1 then 0x80000 else 0x1000

/-- The exchange kind of a frame type with byte payload. -/
def kindOfType : Nat → Option Nat
  | 2 => some 0
  | 3 => some 1
  | 4 => some 2
  | _ => none

/-- Bytes land in the bank of a frame's T on a port (R298, R301). -/
def landBank (p : TrioPort) (k : Nat) (f : TrioFrame) (off : Nat) (d : List Byte) (s : State) : State :=
  let a := (if f.t.getLsbD 0 then 0x200000 else 0) + kindOffset k + off
  updTrio (fun t => match p with
    | .a => { t with rxA := memWrite t.rxA a d }
    | .b => { t with rxB := memWrite t.rxB a d }) s

/-- Flits of an exchange of the round have come; the frame that makes it whole counts it, and `f` is done with it. -/
def noteFlits (p : TrioPort) (k : Nat) (g : TrioFrame) (f : State → State) (s : State) : State :=
  let whole (s : State) : Bool := (exchangesOf s k).any fun e => exchangeHere s p k e.len.toNat
  let t := updTrio (fun t => { t with flits := t.flits ++ [(p, BitVec.ofNat 4 k, g.offset.toNat, g.len.toNat)] }) s
  if !whole s && whole t then bump .trio 0x10 1 (f t) else t

/-- The flits of a frame land in bank T mod 2 of the port's area at its OFFSET (R301). -/
def landFlits (p : TrioPort) (k : Nat) (f : TrioFrame) (s : State) : State :=
  landBank p k f (64 * f.offset.toNat) (takePad (64 * f.len.toNat) (payloadBytes f)) s

/-- Exchange data lands, and counts where it carries the T of the present round. -/
def landExchange (p : TrioPort) (k : Nat) (f : TrioFrame) (s : State) : State :=
  if kindSize k < 64 * (f.offset.toNat + f.len.toNat) then s
  else if f.t != s.trio.t then landFlits p k f s
  else noteFlits p k f id (landFlits p k f s)

/-- A member status lands in its bank and, once all of it has come, is held for the round it belongs to; before the first round one that
comes in one frame is heard. -/
def landStatus (p : TrioPort) (m : Fin 3) (f : TrioFrame) (st : MemberStatus) (s : State) : State :=
  if kindSize 4 < 64 * (f.offset.toNat + f.len.toNat) then s
  else
    let s := landFlits p 4 f s
    if !s.sched.running then (if f.offset = 0 && decide (exchangeLen s 4 ≤ f.len.toNat) then hearEarly m st s else s)
    else if f.t != s.trio.t then s
    else noteFlits p 4 f (updPartner m fun p => { p with status := some st, lastCompat := some st.compat }) s

/-- The instant on this device's schedule clock at which a frame that has come on a trio port passed the timestamp point (R271, R276). -/
def rxInstant (p : TrioPort) (s : State) : DWord := BitVec.ofNat 64 (schedNow s - (Vec.at s.ports (trioPortIdx p)).rxLat.toNat)

/-- A PTP message of a TIME frame with its receipt on the native timebase, for firmware (R276, log entry 87). -/
def landTime (p : TrioPort) (d : List Byte) (s : State) : State :=
  updTrio (fun t => { t with timeRx := t.timeRx ++ [(p, instantOf (nowNs s - (Vec.at s.ports (trioPortIdx p)).rxLat.toNat), d)] }) s

/-- The round alignment of a partner is whole: it is held with the instant at which the frame came, and the reference's carries R(r) (R275). -/
def holdAlign (p : TrioPort) (m : Fin 3) (a : AlignData) (s : State) : State :=
  let s := updPartner m (fun q => { q with align := some { a with rx := rxInstant p s } }) s
  if a.ref && !isReference s && s.sched.running then updTb (fun t => { t with lastR := a.rstart.toNat }) s else s

/-- An observer takes the round number from a member that votes. -/
def takeT (m : Fin 3) (f : TrioFrame) (s : State) : State :=
  if !votes s && !listening s && rosterVotes s.trio.roster m then updTrio (fun t => { t with t := f.t }) s else s

/-- A round alignment lands in its bank and is held once all of it has come (R271, R301). -/
def landAlign (p : TrioPort) (m : Fin 3) (f : TrioFrame) (a : AlignData) (s : State) : State :=
  if kindSize 3 < 64 * (f.offset.toNat + f.len.toNat) then s
  else
    let s := takeT m f (landFlits p 3 f s)
    if !s.sched.running then (if f.offset = 0 && decide (exchangeLen s 3 ≤ f.len.toNat) then holdAlign p m a s else s)
    else if f.t != s.trio.t then s
    else noteFlits p 3 f (holdAlign p m a) s

/-- Store bytes at a pool address or in a loop record of a tile. -/
def storeAt (a : Word) (d : List Byte) (s : State) : State :=
  if isPool a then poolPut a.toNat d s
  else match crest? (epTile a - 1) with
    | some c => if epTile a = 0 then s else loopPut c (epOff a) d s
    | none => s

/-- Repair data lands in the task's repair slot when it comes from the donor for this or the last round (R169, R299). -/
def landRepair (p : TrioPort) (f : TrioFrame) (d : List Byte) (s : State) : State :=
  let w := wordOf d
  let n : BitVec 3 × BitVec 8 := (bits w 8 3, bits w 0 8)
  match taskAt s n with
  | none => s
  | some t =>
    if repairDonor s (me s) != some (portPartner s p) || (f.t != s.trio.t && f.t + 1 != s.trio.t) then s
    else
      let a := t.repairOff + 64 * f.offset.toNat
      let d := d.drop 4
      updTrio (fun t => match p with
        | .a => { t with repA := memWrite t.repA a d, repairFlits := t.repairFlits ++ [(p, f.t, n, f.offset.toNat, f.len.toNat)] }
        | .b => { t with repB := memWrite t.repB a d, repairFlits := t.repairFlits ++ [(p, f.t, n, f.offset.toNat, f.len.toNat)] }) s

/-- Bulk and forwarded data of the donor are applied in arrival order during the copying phase, and a write forwarded in a round before when the
member already listens (R190). -/
def landCopy (m : Fin 3) (bulk : Bool) (f : TrioFrame) (d : List Byte) (s : State) : State :=
  if !(s.trio.phase == 3 || (s.trio.phase == 4 && !bulk && f.t != s.trio.t)) || memberBits m != s.trio.donor then s
  else
    let s := storeAt (wordOf d) (d.drop 4) s
    if bulk then updTrio (fun t => { t with copiedBytes := t.copiedBytes + (d.drop 4).length }) s else s

/-- A fence frame is valid if it names the receiver and carries a T within 2 of its own (R302). -/
def landFence (f : TrioFrame) (s : State) : State :=
  if f.target.toNat == (me s).val && decide (f.t.toNat ≤ s.trio.t.toNat + 2) && decide (s.trio.t.toNat ≤ f.t.toNat + 2) then fenceActs s else s

/-- A received trio frame. -/
def trioReceive (p : TrioPort) (f : TrioFrame) (s : State) : State :=
  if !(Vec.at s.ports (trioPortIdx p)).en then s else
  let s := bump (.port (trioPortIdx p)) 0x11 1 s
  if !trioFrameOk s p f then notePn p f (discardTrio p f s) else
  let s := notePn p f s
  let m := portPartner s p
  match f.payload with
  | .status st _ => if f.type == 5 then landStatus p m f st s else s
  | .align a => if f.type == 1 then landAlign p m f a s else s
  | .bytes d =>
    match f.type.toNat with
    | 6 => landFence f s
    | 7 => landRepair p f d s
    | 8 => landCopy m true f d s
    | 9 => landCopy m false f d s
    | 10 => landTime p d s
    | k => match kindOfType k with
      | some k => landExchange p k f s
      | none => s

/-- A trio port goes down or, when it is enabled, comes up (R304). The packet numbers of the partner are counted anew: a partner that has
restarted begins again (log entry 104). -/
def trioLink (p : TrioPort) (up : Bool) (s : State) : State :=
  let was := match p with
    | .a => s.trio.upA
    | .b => s.trio.upB
  let up := up && (Vec.at s.ports (trioPortIdx p)).en
  if was == up then s else
  let t := updPort (trioPortIdx p) (fun x => { x with rxPn := 0, rxPnOld := 0 }) <| updTrio (fun t => match p with
    | .a => { t with upA := up }
    | .b => { t with upB := up }) s
  raise .trio 9 none .unstated (noteConds [.port (trioPortIdx p)] s t)

/-! ### The rejoin goes on -/

/-- The rejoin self-test ends: the request is published, in place of a last-resort sequencer's fixed status (log entry 92), or the rejoin ends
with SELFTEST_FAIL. -/
def rejoinTested (pass : Bool) (s : State) : State :=
  if !s.trio.rejoinTest then s
  else if pass then updTrio (fun t => { t with rejoinTest := false, rejoinReq := true, phase := 1, fixed := none }) s
  else endRejoin 0x53 s

/-- ABORT_REJOIN. -/
def cmdAbortRejoin (s : State) : State := if s.trio.phase != 0 || s.trio.rejoinTest then endRejoin 0x56 s else s

/-- The commit point of a trio swap ends a rejoin (R191). -/
def swapPasses (s : State) : Bool :=
  lastRound s && (partnersOf s).any fun m => (partnerAt s m).last.elim false fun st =>
    st.swap.elim false (fun x => x.1 == s.sched.frame + 1) || st.appSwap.elim false (fun x => x.1 == s.sched.frame + 1)

/-- COMMIT_POINT: both banks are decided, and a rejoin that a trio swap meets ends with ABORTED. -/
def commitPoint (s : State) : State :=
  let t := decideBanks s
  if s.trio.phase != 0 && swapPasses s then endRejoin 0x56 t else t

/-- TRIO_FRAME_RECEIVE. -/
def execTrioFrameReceive (p : TrioPort) (f : TrioFrame) (s : State) : Out := .next (trioReceive p f s)
/-- FENCE_FRAME_RECEIVE. -/
def execFenceFrameReceive (p : TrioPort) (f : TrioFrame) (s : State) : Out :=
  .next (if f.type == 6 then trioReceive p f s else s)
/-- TRIO_PORT_DOWN. -/
def execTrioPortDown (p : TrioPort) (s : State) : Out := .next (trioLink p false s)
/-- TRIO_PORT_UP. -/
def execTrioPortUp (p : TrioPort) (s : State) : Out := .next (trioLink p true s)
/-- TRIO_REJOIN. -/
def execTrioRejoin (q : Req) (s : State) : Out := .next (onPage q .trio cmdRejoin s)
/-- TRIO_ABORT_REJOIN. -/
def execTrioAbortRejoin (q : Req) (s : State) : Out := .next (onPage q .trio cmdAbortRejoin s)
/-- REJOIN_SELFTEST_END. -/
def execRejoinSelftestEnd (pass : Bool) (s : State) : Out := .next (rejoinTested pass s)
/-- BULK_COPY_END. -/
def execBulkCopyEnd (s : State) : Out := .next (if s.trio.phase == 3 then updTrio (fun t => { t with bulkDone := true }) s else s)
/-- FORMATION_WAIT_END. -/
def execFormationWaitEnd (s : State) : Out := .next (formationEnd s)
/-- COMMIT_POINT. -/
def execCommitPoint (s : State) : Out := .next (commitPoint s)

end Sys2Proof.Machine
end

