-- ==== Sys2Proof/Machine/Ports.lean ====
section
/-! DEFINITION. Ethernet ports P0 to P7 and the keys of the trio ports (Ch. 11): gates, frames sent and received, PRP, firmware queues
and PTP insertion. -/
namespace Sys2Proof.Machine

/-! ### Configuration (R284 to R286, R290) -/

/-- The network configuration of a port. -/
def portCfg (s : State) (p : Fin 8) : Option PortCfg := s.run.active.bind fun a => a.ports.lookup p

/-- LAN of a port: 0 SINGLE, 1 LAN A, 2 LAN B; without an assignment in the active image P0 to P3 serve A and P4 to P7 serve B. While
no application image is active, ETH_STAT.LAN keeps its reset value 0. -/
def portLan (s : State) (p : Fin 8) : BitVec 2 :=
  if s.run.active.isNone then 0 else
  match portCfg s p with
  | some c => c.lan
  | none => if p.val < 4 then 1 else 2

/-- Port Pi + 4 of Pi and the other way about. -/
def otherPort (p : Fin 8) : Fin 8 := ⟨(p.val + 4) % 8, Nat.mod_lt _ (by omega)⟩

/-- The port that holds what a pair has once: the sequence number it sends with and the table of what it has received (R289). -/
def prpPort (p : Fin 8) : Fin 8 := if p.val < 4 then p else otherPort p

/-- Is a port one of a PRP pair (R284)? -/
def portPaired (s : State) (p : Fin 8) : Bool :=
  (portLan s p == 1 && portLan s (otherPort p) == 2) || (portLan s p == 2 && portLan s (otherPort p) == 1)

/-- The start of the next major frame, or of the first one where it is named (R188). -/
def frameAhead (s : State) : Option Nat :=
  if s.sched.running then s.sched.active.map fun im => s.sched.frameNs + frameNsOf im else if inTrio s then s.trio.startAt else none

/-- Has the next major frame begun at an instant? -/
def frameAheadBy (s : State) (t : Nat) : Bool := (frameAhead s).elim false fun f => decide (f ≤ t)

/-- The default gate mask in force at an instant from now on: every class open before the first round and without gate lists; an application
image armed for the next major frame brings its own. -/
def defaultGateAt (s : State) (p : Fin 8) (t : Nat) : Byte :=
  let cfg := if s.sched.running && appDue s && frameAheadBy s t then s.run.shadow.bind fun a => a.ports.lookup p else portCfg s p
  if s.sched.running || frameAheadBy s t then cfg.elim 0xFF fun c => c.defaultGate else 0xFF

/-- The default gate mask in force now. -/
def defaultGate (s : State) (p : Fin 8) : Byte :=
  if s.sched.running then (portCfg s p).elim 0xFF fun c => c.defaultGate else 0xFF

/-- A port. -/
def portAt (s : State) (p : Fin 8) : EthPort := Vec.at s.ports (ethPortIdx p)

/-- Change a port P0 to P7. -/
def updEth (p : Fin 8) (f : EthPort → EthPort) (s : State) : State := updPort (ethPortIdx p) f s

/-- The page of a port P0 to P7. -/
def ethPage (p : Fin 8) : Page := .port (ethPortIdx p)

/-! ### Gates (R48, R287) -/

/-- The windows of a port in the round `r` of an image whose round starts at `t`: start, end, open classes. -/
def windowsIn (im : SchedImage) (p : Fin 8) (t : Nat) (r : BitVec 10) : List (Nat × Nat × Byte) :=
  (im.gates.filter fun g => g.port.toNat == p.val && timingActive g.t r).map fun g =>
    let a := t + slotNsOf im * g.t.slot.toNat + 2 * g.start.toNat
    (a, a + 2 * g.duration.toNat, g.opens)

/-- The windows of a port of the round before, this round and the next, which may be the first of an image armed for the next major
frame, or of all; no window reaches from one major frame into the next (R48). -/
def windowsAhead (s : State) (p : Fin 8) : List (Nat × Nat × Byte) :=
  match s.sched.active with
  | none => []
  | some im =>
    if !s.sched.running then (frameAhead s).elim [] fun t => windowsIn im p t 0 else
    let next := s.sched.roundNs + roundNsOf im
    (if s.sched.round = 0 then [] else windowsIn im p (s.sched.roundNs - roundNsOf im) (s.sched.round - 1)) ++
    windowsIn im p s.sched.roundNs s.sched.round ++
    (if lastRound s then
      (if schedDue s then (s.sched.shadow.elim [] fun x => windowsIn x p next 0) else windowsIn im p next 0)
    else windowsIn im p next (s.sched.round + 1))

/-- The classes open at an instant: those of the windows that hold it, or the default gate mask outside the windows. Windows of entries
that are never active together may overlap, and both then open their classes (log entry 81). -/
def gateAt (s : State) (p : Fin 8) (t : Nat) : Byte :=
  match (windowsAhead s p).filter fun w => decide (w.1 ≤ t) && decide (t < w.2.1) with
  | [] => defaultGateAt s p t
  | ws => ws.foldl (fun m w => m ||| w.2.2) 0

/-- Is a class open from now until `d` nanoseconds later? The mask can change only where a window starts or ends, or a major frame starts. -/
def staysOpen (s : State) (p : Fin 8) (tc : BitVec 3) (d : Nat) : Bool :=
  let now := schedNow s
  (gateAt s p now).getLsbD tc.toNat &&
  ((frameAhead s).toList ++ (windowsAhead s p).flatMap fun w => [w.1, w.2.1]).all fun t =>
    decide (t ≤ now) || decide (now + d ≤ t) || (gateAt s p t).getLsbD tc.toNat

/-- Nanoseconds a frame of `n` bytes takes at a port's rate, with the preamble of IEEE 802.3. -/
def frameNs (rate : BitVec 2) (n : Nat) : Nat :=
  let b := n + 8
  if rate = 0 then 8 * b else if rate = 1 then (8 * b + 9) / 10 else (8 * b + 24) / 25

/-- The window of a gate entry of the port in the present round. -/
def gateWindow (s : State) (p : Fin 8) (entry : Nat) : Option (Nat × Nat) :=
  (s.sched.active.bind fun im => im.gates[entry]?.map fun g => (im, g)).bind fun x =>
    if x.2.port.toNat == p.val && s.sched.running && timingActive x.2.t s.sched.round then
      let a := s.sched.roundNs + slotNsOf x.1 * x.2.t.slot.toNat + 2 * x.2.start.toNat
      some (a, a + 2 * x.2.duration.toNat)
    else none

/-- GATE_WINDOW_OPEN: the window of a gate entry of the port begins, in a round in which the entry is active and after the window that
began last; the classes that are open follow the windows. -/
def gateOpen (p : Fin 8) (entry : Nat) (s : State) : State :=
  match gateWindow s p entry with
  | some w =>
    if (portAt s p).gate.elim false (fun g => decide (w.1 ≤ g.1)) then s
    else bump (ethPage p) 0x13 1 (updEth p (fun x => { x with gate := some w }) (reach w.1 s))
  | none => s

/-- GATE_WINDOW_CLOSE: the window that began last ends, and the default gate mask applies again (R286). -/
def gateClose (p : Fin 8) (s : State) : State := (portAt s p).gate.elim s fun g => reach g.2 s

/-! ### Queues (R288, R291) -/

/-- A device frame of a class and its EtherType to a destination on a VLAN, `n` bytes of payload long on the line: with its header, tag
and frame check. -/
def devFrame (tc : BitVec 3) (et : BitVec 16) (dst : BitVec 48) (vlan : BitVec 12) (station conn : Option (Fin 256)) (n : Nat)
    (d : List Byte) : QFrame :=
  { tc := tc, etherType := et, station := station, conn := conn, desc := none, dst := dst, vlan := vlan, buf := 0, copy := false
    prp := false, seq := 0, oneStep := false, capture := false, depart := 0, len := n + 22, data := d }

/-- Queue a Keaco or safety frame on a port; a frame of the same station or connection still unsent is replaced and counted (R288). -/
def queueFrame (p : Fin 8) (f : QFrame) (s : State) : State :=
  let same (g : QFrame) : Bool := g.desc.isNone && !g.copy && g.station == f.station && g.conn == f.conn
  updEth p (fun x => { x with
    late := if x.queue.any same then satInc x.late else x.late
    queue := (x.queue.filter fun g => !same g) ++ [f] }) s

/-- A descriptor's address in supervisor SRAM. -/
def descAddr (base : BitVec 26) (i : BitVec 12) : Nat := base.toNat * 64 + 16 * i.toNat

/-- The next index of a ring. -/
def ringNext (len i : BitVec 12) : BitVec 12 := if i + 1 = len || len ≤ i + 1 then 0 else i + 1

/-- Word 1 of a descriptor returned with DONE and, when `err`, ERR. -/
def descDone (w : Word) (err : Bool) : Word := (w ||| 0x4000) ||| (if err then 0x8000 else 0)

/-- Return a transmit descriptor. -/
def returnTx (p : Fin 8) (i : BitVec 12) (err : Bool) (s : State) : State :=
  let a := descAddr (portAt s p).txBase i + 4
  { s with sram := memWrite s.sram a (bytesOf 4 (descDone (memWord s.sram a) err).toNat) }

/-- HEAD passes every descriptor that the port has finished with, up to TAIL. -/
def advanceTx (p : Fin 8) (s : State) : State :=
  let x := portAt s p
  let busy (i : BitVec 12) : Bool := x.queue.any (fun f => f.desc == some i) || (x.line.elim false fun f => f.desc == some i)
  let rec go : Nat → BitVec 12 → BitVec 12
    | 0, h => h
    | k + 1, h => if h = x.txTail || busy h then h else go k (ringNext x.txLen h)
  updEth p (fun x => { x with txHead := go x.txLen.toNat x.txHead }) s

/-- Is a class opened by the default gate mask or by any gate window of the active image (R291)? -/
def classOpens (s : State) (p : Fin 8) (tc : BitVec 3) : Bool :=
  (defaultGate s p).getLsbD tc.toNat ||
  s.sched.active.elim false fun im => im.gates.any fun g => g.port.toNat == p.val && g.opens.getLsbD tc.toNat

/-! ### PTP insertion (R277); places in the frame are those of IEEE 802.3, 802.1Q and 1588 (PRESUMED) -/

/-- Big-endian bytes of a number. -/
def beBytes (n x : Nat) : List Byte := (bytesOf n x).reverse

/-- Bytes replaced at an offset. -/
def patch (o : Nat) (b : List Byte) (d : List Byte) : List Byte := d.take o ++ b ++ d.drop (o + b.length)

/-- Where the Ethernet header ends, with a tag or without. -/
def l2Length (d : List Byte) : Nat := if beAt d 12 2 = 0x8100 then 18 else 14

/-- EtherType of a frame, past a tag. -/
def frameType (d : List Byte) : Nat := beAt d (l2Length d - 2) 2

/-- Is a UDP destination port one of PTP's? -/
def ptpUdp (n : Nat) : Bool := n == 319 || n == 320

/-- Where the PTP message of a frame begins, over Ethernet, UDP over IPv4 or UDP over IPv6 (Table 10.4); none for another frame. -/
def ptpOffset (d : List Byte) : Option Nat :=
  let l := l2Length d
  match frameType d with
  | 0x88F7 => some l
  | 0x0800 => if beAt d (l + 9) 1 == 17 && ptpUdp (beAt d (l + 22) 2) then some (l + 28) else none
  | 0x86DD => if beAt d (l + 6) 1 == 17 && ptpUdp (beAt d (l + 42) 2) then some (l + 48) else none
  | _ => none

/-- The type of a PTP message (IEEE 1588: 0 Sync, 2 Pdelay_Req, 3 Pdelay_Resp). -/
def ptpType (d : List Byte) (o : Nat) : Nat := beAt d o 1 % 16

/-- Has an IPv6 frame room for the two bytes after the PTP message within its UDP payload? -/
def ipv6Room (d : List Byte) : Bool :=
  match ptpOffset d with
  | some o => frameType d != 0x86DD || decide (beAt d (o + 2) 2 + 2 + 8 ≤ beAt d (o - 4) 2)
  | none => true

/-- The ones' complement sum of bytes as 16-bit words. -/
def onesSum : List Byte → Nat
  | a :: b :: r =>
    let t := a.toNat * 256 + b.toNat + onesSum r
    t % 65536 + t / 65536
  | [a] => a.toNat * 256
  | [] => 0

/-- The Pdelay_Req that a Pdelay_Resp answers: the one of its requesting port identity and sequence number. -/
def pdelayOf (rx : List (Nat × Nat × Nat)) (d : List Byte) (o : Nat) : Option Nat :=
  (rx.find? fun x => x.1 == beAt d (o + 44) 10 && x.2.1 == beAt d (o + 30) 2).map fun x => x.2.2

/-- The frame with its insertion made as it departs: presented time at the message timestamp point into a Sync, the residence time into a
Pdelay_Resp, the UDP checksum 0 over IPv4 and the two spare bytes rewritten over IPv6. -/
def oneStepFrame (s : State) (rx : List (Nat × Nat × Nat)) (departNs : Nat) (d : List Byte) : List Byte :=
  match ptpOffset d with
  | none => d
  | some o =>
    let t := (departNs : Int) + s.tb.offset.toInt
    let d' := match ptpType d o with
      | 0 => patch (o + 34) (beBytes 6 (t.toNat / 1000000000) ++ beBytes 4 (t.toNat % 1000000000)) d
      | 3 =>
        let c := beAt d (o + 8) 8 + ((pdelayOf rx d o).elim 0 fun r => (departNs - r) * 65536)
        patch (o + 8) (beBytes 8 c) d
      | _ => d
    if frameType d = 0x0800 then patch (o - 2) [0, 0] d'
    else if frameType d = 0x86DD then
      let e := o + beAt d (o + 2) 2
      let was := onesSum (d.drop o)
      let is := onesSum ((patch e [0, 0] d').drop o)
      patch e (beBytes 2 ((was + 65535 - is % 65536) % 65535)) d'
    else d'

/-! ### Sending -/

/-- The 24 header bytes and CRC of a Keaco frame around a payload (Table 11.3). -/
def keacoFrame (type st flags : Nat) (seq epoch : Word) (stamp : Nat) (payload : List Byte) : List Byte :=
  let b := bytesOf 1 1 ++ bytesOf 1 type ++ bytesOf 1 st ++ bytesOf 1 flags ++ bytesOf 4 seq.toNat ++ bytesOf 4 epoch.toNat ++
    bytesOf 8 stamp ++ bytesOf 2 payload.length ++ bytesOf 2 0 ++ payload
  b ++ bytesOf 4 (crc32c b).toNat

/-- Does a stopped controller's Keaco output go on with safe payloads (Table 4.4, R294): without a trio, or as the only member that
voted? Where another member votes, R171 leaves the stations to its frames. -/
def keacoSafe (s : State) : Bool := s.run.state == .stopped && (!inTrio s || s.trio.soleActive)

/-- The configuration of a station. -/
def stationCfg (s : State) (n : Fin 256) : Option StationCfg := s.run.active.bind fun a => a.stations.find? fun c => c.number == n

/-- The last payload of a station that a running controller made, as `output` holds it. -/
def stationOut (s : State) (n : Fin 256) : Memory := (Vec.at s.run.stations n).output

/-- The payload of a station after the controller has stopped: its safe payload, in which a point of a function that still holds keeps its
last committed value (R119, R294). -/
def safePayload (s : State) (n : Fin 256) : List Byte :=
  (stationCfg s n).elim [] fun c =>
    memRead ((outPoints s).foldl (fun m p =>
      match p.target with
      | .keaco st off =>
        if st = n && heldByFunc s p.target then
          let q : Place := { p.place with addr := off }
          putValue q ((s.run.outValues.lookup p.number).getD (placeValue q (memWord (stationOut s n) off))) m
        else m
      | _ => m) (memWrite [] 0 c.safePayload)) 0 c.safePayload.length

/-- A Keaco frame that was queued before a stop leaves with the safe payload. -/
def keacoLine (s : State) (n : Fin 256) (d : List Byte) : List Byte :=
  if keacoSafe s then
    keacoFrame 2 n.val (leAt d 3 1 / 2 * 2 + 1) (BitVec.ofNat 32 (leAt d 4 4)) (BitVec.ofNat 32 (leAt d 8 4)) (leAt d 12 8) (safePayload s n)
  else d

/-- The bytes that a frame adds on the line: a redundancy control trailer has six. -/
def lineLength (f : QFrame) : Nat := f.len + (if f.prp then 6 else 0)

/-- The frame a port starts: of those that may start the first of the highest class (R287). -/
def nextFrame (s : State) (p : Fin 8) : Option QFrame :=
  let x := portAt s p
  let may := x.queue.filter fun f => (f.station.isNone || s.run.state != .stopped || keacoSafe s) && staysOpen s p f.tc (frameNs x.rate (lineLength f))
  ((List.range 8).reverse.map fun c => may.find? fun f => f.tc.toNat == c).findSome? id

/-- The redundancy control trailer of IEC 62439-3 (PRESUMED layout): sequence number, LAN, length, suffix. -/
def prpTrailer (lan : BitVec 2) (seq : BitVec 16) (n : Nat) : List Byte :=
  beBytes 2 seq.toNat ++ beBytes 2 ((if lan = 1 then 0xA000 else 0xB000) + n % 4096) ++ beBytes 2 0x88FB

/-- A safety frame with its STAMP and CRC (Table 7.7). -/
def stampSafety (s : State) (d : List Byte) : List Byte :=
  let st := bytesOf 8 (nowNs s / 1000000000 % 2 ^ 34 * 2 ^ 30 + nowNs s % 1000000000)
  let b := patch 12 st (d.take 84)
  b ++ bytesOf 4 (crc32c b).toNat

/-- The first copy of a safety frame to leave stamps it; the copy on the other port carries identical bytes (R212). -/
def stampFrames (f : QFrame) (s : State) : State :=
  if f.conn.isSome && f.data.length == 84 then
    let d := stampSafety s f.data
    { s with ports := s.ports.map fun x => { x with queue := x.queue.map fun g => if g.conn == f.conn && g.data == f.data then { g with data := d } else g } }
  else s

/-- The header of a device frame: destination, the port's own address, and a tag whose priority is the frame's class (R285). -/
def devHeader (s : State) (p : Fin 8) (f : QFrame) : List Byte :=
  beBytes 6 f.dst.toNat ++ beBytes 6 ((portCfg s p).elim 0 fun c => c.mac.toNat) ++ [0x81, 0x00] ++
  beBytes 2 (8192 * f.tc.toNat + f.vlan.toNat) ++ beBytes 2 f.etherType.toNat

/-- The instant at which a frame that starts now passes the port's timestamp point. -/
def departNs (s : State) (p : Fin 8) : Nat := nowNs s + (portAt s p).txLat.toNat

/-- What leaves on the line: a firmware frame read from its buffer with its insertion; one of a PRP pair as it was handed over, so that both
copies are alike, with its trailer; a device frame with its header and
its payload as it was queued. -/
def lineBytes (s : State) (p : Fin 8) (f : QFrame) : List Byte :=
  if f.desc.isSome || f.copy then
    let d := if f.prp then f.data else memRead s.sram f.buf f.len
    let d := if f.oneStep then oneStepFrame s (portAt s p).pdelayRx (departNs s p) d else d
    if f.prp then d ++ prpTrailer (portLan s p) f.seq d.length else d
  else devHeader s p f ++ f.station.elim f.data fun n => keacoLine s n f.data

/-- ETH_FRAME_TRANSMIT_START: the port starts a frame on an idle line. -/
def startFrame (p : Fin 8) (s : State) : State :=
  let x := portAt s p
  if !x.en || !x.up || x.line.isSome then s else
  match nextFrame s p with
  | none => s
  | some f =>
    let s := stampFrames f s
    let f := if f.conn.isSome && f.data.length == 84 then { f with data := stampSafety s f.data } else f
    let d := lineBytes s p f
    let s := updEth p (fun x => { x with queue := x.queue.erase f, line := some { f with depart := departNs s p } }) s
    send (.eth p (if f.desc.isSome || f.copy then BitVec.ofNat 16 (frameType d) else f.etherType) d) s

/-- ETH_FRAME_SENT: the last bit of the frame on the line has been sent; its transmit timestamp is captured where it is marked for it, and
its descriptor returns with DONE. -/
def frameSent (p : Fin 8) (s : State) : State :=
  match (portAt s p).line with
  | none => s
  | some f =>
    let s := bump (ethPage p) 0x10 1 (updEth p (fun x => { x with line := none }) s)
    let s := if f.capture then raise (ethPage p) 1 none .unstated (updEth p (fun x => { x with txts := instantOf f.depart }) s) else s
    match f.desc with
    | some i => advanceTx p (returnTx p i false s)
    | none => s

/-- Take over one transmit descriptor: queued, or returned with ERR (R291). A frame of a PRP pair is queued on both ports under one sequence
number; PRP does not apply to PTP messages (R289). -/
def takeTx (p : Fin 8) (s : State) (i : BitVec 12) : State :=
  let a := descAddr (portAt s p).txBase i
  let w0 := memWord s.sram a
  let w1 := memWord s.sram (a + 4)
  let len := (bits w1 0 14).toNat
  let tc : BitVec 3 := bits w1 16 3
  let one := w1.getLsbD 20
  let d := memRead s.sram (bits w0 6 26 ++ (0 : BitVec 6)).toNat len
  let prp := w1.getLsbD 19 && portPaired s p && (ptpOffset d).isNone
  let f : QFrame := { tc := tc, etherType := 0, station := none, conn := none, desc := some i, dst := 0, vlan := 0
                      buf := (bits w0 6 26 ++ (0 : BitVec 6)).toNat
                      copy := false, prp := prp, seq := (portAt s (prpPort p)).prpSeq
                      oneStep := one, capture := w1.getLsbD 21, depart := 0, len := len, data := if prp then d else [] }
  if len < 64 || 9216 < len || !classOpens s p tc then
    returnTx p i true (updEth p (fun x => { x with bad := satInc x.bad }) s)
  else if one && !ipv6Room d then
    raise (ethPage p) 3 none .unstated (returnTx p i true (updEth p (fun x => { x with noroom := satInc x.noroom }) s))
  else
    let s := updEth p (fun x => { x with queue := x.queue ++ [f] }) s
    if f.prp then
      updEth (prpPort p) (fun x => { x with prpSeq := x.prpSeq + 1 })
        (updEth (otherPort p) (fun x => { x with queue := x.queue ++ [{ f with desc := none, copy := true, capture := false }] }) s)
    else s

/-- The indexes from `h` up to `t` in a ring of `len`. -/
def ringSpan (len : BitVec 12) : Nat → BitVec 12 → BitVec 12 → List (BitVec 12)
  | 0, _, _ => []
  | k + 1, h, t => if h = t then [] else h :: ringSpan len k (ringNext len h) t

/-- A write of ETH_TXQ_TAIL hands descriptors to the port. -/
def writeTxTail (p : Fin 8) (v : BitVec 12) (s : State) : State :=
  let x := portAt s p
  let s := updEth p (fun x => { x with txTail := v }) s
  if x.txLen = 0 || x.txLen ≤ v then s
  else advanceTx p ((ringSpan x.txLen x.txLen.toNat x.txTail v).foldl (takeTx p) s)

/-! ### Receiving -/

/-- The bytes of a received frame as they lie in a buffer. -/
def frameBytes (f : EthFrame) : List Byte :=
  beBytes 6 f.dst.toNat ++ beBytes 6 f.src.toNat ++
  (f.tag.elim [] fun t => [0x81, 0x00] ++ beBytes 2 t.toNat) ++ beBytes 2 f.etherType.toNat ++ f.data

/-- The VLAN a received frame belongs to on a port: that of its tag, or the port's PVID. -/
def frameVid (s : State) (p : Fin 8) (f : EthFrame) : BitVec 12 :=
  match f.tag with
  | some t => bits t 0 12
  | none => (portCfg s p).elim 1 fun c => c.pvid

/-- Is a port a member of a VLAN: one of the 64 that its image gives it? A port without configuration is a member of VLAN 1 alone, which
stands for its untagged frames (log entry 84). -/
def vlanMember (s : State) (p : Fin 8) (v : BitVec 12) : Bool :=
  match portCfg s p with
  | some c => (c.vlans.take 64).contains v
  | none => v == 1

/-- Does the VLAN rule of R285 let a frame in? -/
def vlanOk (s : State) (p : Fin 8) (f : EthFrame) : Bool :=
  let v := frameVid s p f
  v != 0 && v != 4095 && vlanMember s p v

/-- Is it a PTP frame, over Ethernet or UDP? -/
def isPtp (f : EthFrame) : Bool := (ptpOffset (frameBytes f)).isSome

/-- Does a multicast frame pass the port's 64 filter entries (R290)? -/
def multicastOk (s : State) (p : Fin 8) (f : EthFrame) : Bool :=
  !f.dst.getLsbD 40 || isPtp f || (portCfg s p).elim false fun c => (c.multicast.take 64).contains f.dst

/-- Is it tagged with a priority? -/
def priorityIs (f : EthFrame) (n : BitVec 3) : Bool := f.tag.elim false fun t => bits t 13 3 == n

/-- The receipt of a Pdelay_Req is kept for the Pdelay_Resp that answers it (R277): its sender, its sequence number and its instant. -/
def noteReceipt (p : Fin 8) (f : EthFrame) (s : State) : State :=
  let d := frameBytes f
  match ptpOffset d with
  | some o =>
    if ptpType d o = 2 then
      updEth p (fun x =>
        let who := beAt d (o + 20) 10
        { x with pdelayRx := (who, beAt d (o + 30) 2, nowNs s - x.rxLat.toNat) :: x.pdelayRx.filter fun y => !(y.1 == who && y.2.1 == beAt d (o + 30) 2) }) s
    else s
  | none => s

/-- Is an entry of a pair's table younger than the forget time of 400 ms? -/
def prpYoung (s : State) (e : BitVec 48 × BitVec 16 × Nat) : Bool := decide (localNs s < e.2.2 + 400000000)

/-- Is it the second copy of a frame that the pair has seen (R289)? -/
def prpSeen (s : State) (p : Fin 8) (f : EthFrame) (seq : BitVec 16) : Bool :=
  (portAt s (prpPort p)).prp.any fun e => e.1 == f.src && e.2.1 == seq && prpYoung s e

/-- A frame goes to the receive queue, or is discarded where no descriptor is free (R291). -/
def deliverRx (p : Fin 8) (f : EthFrame) (s : State) : State :=
  let x := portAt s p
  if x.rxLen = 0 || x.rxHead = x.rxTail then
    updEth p (fun x => { x with nobuf := satInc x.nobuf }) (bump (ethPage p) 0x12 1 s)
  else
    let a := descAddr x.rxBase x.rxHead
    let buf := (bits (memWord s.sram a) 6 26 ++ (0 : BitVec 6)).toNat
    let w1 : Word := BitVec.ofNat 32 (f.len % 16384) ||| 0x4000 ||| (if f.fcsOk then 0 else 0x8000)
    let m := memWrite s.sram buf (frameBytes f)
    let m := memWrite m (a + 4) (bytesOf 4 w1.toNat ++ bytesOf 8 (nowNs s - x.rxLat.toNat))
    updEth p (fun x => { x with rxHead := ringNext x.rxLen x.rxHead }) { s with sram := m }

/-- A frame for firmware: VLAN and multicast filters, then duplicate discard, then the queue. -/
def firmwareFrame (p : Fin 8) (f : EthFrame) (s : State) : State :=
  if !vlanOk s p f then updEth p (fun x => { x with bad := satInc x.bad }) (bump (ethPage p) 0x12 1 s)
  else if !multicastOk s p f then bump (ethPage p) 0x12 1 s
  else
    let s := noteReceipt p f s
    match (if portPaired s p && !isPtp f then f.rct else none) with
    | none => deliverRx p f s
    | some seq =>
      if prpSeen s p f seq then updEth p (fun x => { x with dup := satInc x.dup }) (bump (ethPage p) 0x12 1 s)
      else deliverRx p f (updEth (prpPort p) (fun x => { x with
        prp := ((f.src, seq, localNs s) :: x.prp.filter (prpYoung s)).take 4096 }) s)

/-- ETH_RXQ_TAIL: firmware returns receive descriptors. -/
def writeRxTail (p : Fin 8) (v : BitVec 12) (s : State) : State := updEth p (fun x => { x with rxTail := v }) s

/-- A port's link comes up, when it is enabled, or goes down. -/
def linkChange (p : Fin 8) (up : Bool) (s : State) : State :=
  noteConds [ethPage p] s (updEth p (fun x => { x with up := up && x.en }) s)

/-! ### Keys of the trio ports (R306) -/

/-- ROTATE: LATE, BUSY, NO_KEY in the order of their codes. -/
def cmdRotate (p : TrioPort) (s : State) : State :=
  let i := trioPortIdx p
  let x := Vec.at s.ports i
  let code (c : Byte) (s : State) : State := updPort i (fun x => { x with trpCode := c }) s
  if frameLate s x.keyTarget then code 0x20 s
  else if x.keyPend.isSome then code 0x84 s
  else if s.store.cak.isNone then code 0x90 s
  else code 0 (updPort i (fun x => { x with keyPend := some x.keyTarget }) s)

/-- A key that waits becomes the device's; the other port serves the former until its own rotation (R390). -/
def takeNextKey (p : TrioPort) (s : State) : State :=
  match s.store.cakNext, (Vec.at s.ports (trioPortIdx p)).keyCak with
  | some k, none =>
    let q := trioPortIdx (if p == .a then .b else .a)
    updPort q (fun x => { x with keyCak := x.keyCak.orElse fun _ => s.store.cak })
      (updStore (fun x => { x with cak := some k, cakNext := none }) s)
  | _, _ => s

/-- At the start of the target frame the port sends with the next key number and accepts both keys for 16 rounds. The round that begins with
the frame is the first of them. -/
def rotateKey (p : TrioPort) (s : State) : State :=
  let i := trioPortIdx p
  match (Vec.at s.ports i).keyPend with
  | some f =>
    if !s.sched.running || !frameDue s f then s else
    let n := if s.sched.switched || s.sched.frame != f then 17 else 16
    let old := portCak s p
    updPort i (fun x => { x with
      keyCur := x.keyCur + 1, keyPend := none, keyCak := none, keyBoth := old.map fun k => (n, k)
      txPn := 0, rxPnOld := x.rxPn, rxPn := 0 }) (takeNextKey p s)
  | none => s

/-- A round passes for the keys of the ports. -/
def ageKeys (s : State) : State :=
  { s with ports := s.ports.map fun x => { x with keyBoth := x.keyBoth.map fun k => (k.1 - 1, k.2) } }

/-- After the 16 rounds the new key only is accepted. -/
def endOverlap (p : TrioPort) (s : State) : State :=
  match (Vec.at s.ports (trioPortIdx p)).keyBoth with
  | some (n, _) =>
    if s.sched.running && decide (1 < n) then s
    else updPort (trioPortIdx p) (fun x => { x with keyBoth := none }) (if s.sched.running && n == 1 then reach (nextCommit s) s else s)
  | none => s

/-- ETH_FRAME_TRANSMIT_START. -/
def execEthFrameTransmitStart (port : Fin 8) (s : State) : Out := .next (startFrame port s)
/-- ETH_FRAME_SENT. -/
def execEthFrameSent (port : Fin 8) (s : State) : Out := .next (frameSent port s)
/-- GATE_WINDOW_OPEN. -/
def execGateWindowOpen (port : Fin 8) (entry : Nat) (s : State) : Out := .next (gateOpen port entry s)
/-- GATE_WINDOW_CLOSE. -/
def execGateWindowClose (port : Fin 8) (s : State) : Out := .next (gateClose port s)
/-- ETH_TXQ_TAIL_WRITE. -/
def execEthTxqTailWrite (q : Req) (port : Fin 8) (val : BitVec 12) (s : State) : Out :=
  .next (onPage q (ethPage port) (writeTxTail port val) s)
/-- ETH_RXQ_TAIL_WRITE. -/
def execEthRxqTailWrite (q : Req) (port : Fin 8) (val : BitVec 12) (s : State) : Out :=
  .next (onPage q (ethPage port) (writeRxTail port val) s)
/-- ETH_LINK_CHANGE. -/
def execEthLinkChange (port : Fin 8) (up : Bool) (s : State) : Out := .next (linkChange port up s)
/-- TRP_ROTATE. -/
def execTrpRotate (q : Req) (p : TrioPort) (s : State) : Out := .next (onPage q (.port (trioPortIdx p)) (cmdRotate p) s)
/-- KEY_ROTATE_EFFECT. -/
def execKeyRotateEffect (p : TrioPort) (s : State) : Out := .next (rotateKey p s)
/-- KEY_OVERLAP_END. -/
def execKeyOverlapEnd (p : TrioPort) (s : State) : Out := .next (endOverlap p s)

end Sys2Proof.Machine
end

