-- ==== Sys2Proof/Machine/Keaco.lean ====
section
/-! DEFINITION. Keaco remote stations (R121 to R124, R292 to R294): frames received, station scanning, the error-task call areas and the
output frames. -/
namespace Sys2Proof.Machine

/-! ### Stations -/

/-- What is kept of a station. -/
def stationRt (s : State) (n : Fin 256) : StationRt := Vec.at s.run.stations n

/-- Change what is kept of a station. -/
def updStation (n : Fin 256) (f : StationRt → StationRt) (s : State) : State :=
  updRun (fun r => { r with stations := Vec.upd r.stations n f }) s

/-- A station number read from a frame. -/
def stationOf (k : Nat) : Fin 256 := ⟨k % 256, Nat.mod_lt _ (by omega)⟩

/-! ### Received frames (R293) -/

/-- Is `b` after `a` in sequence: does b − a, modulo 2^32, lie in 1 to 2^31 − 1? -/
def seqAfter (a b : Word) : Bool := b != a && decide ((b - a).toNat < 2 ^ 31)

/-- The conditions of R293 that do not look at SEQ, in a tagged frame of priority 6 (R292). -/
def keacoSound (s : State) (p : Fin 8) (f : EthFrame) (c : StationCfg) : Bool :=
  let d := f.data
  let len := leAt d 20 2
  decide (28 + len ≤ d.length) &&
  BitVec.ofNat 32 (leAt d (24 + len) 4) == crc32c (d.take (24 + len)) &&
  leAt d 0 1 == 1 && leAt d 1 1 == 1 &&
  f.src == c.mac && frameVid s p f == c.vlan && priorityIs f 6 &&
  len == c.inLen && leAt d 22 2 == 0

/-- A received Keaco frame: the first good copy of a SEQ is accepted, and of several accepted before a sample instant the one with the
highest SEQ is taken. While a station is dropped, a SEQ that was accepted since the last sample instant but one is a copy (log entry 112). -/
def keacoReceive (p : Fin 8) (f : EthFrame) (s : State) : State :=
  let n := stationOf (leAt f.data 2 1)
  match stationCfg s n with
  | none => s
  | some c =>
    let st := stationRt s n
    let seq : Word := BitVec.ofNat 32 (leAt f.data 4 4)
    let fresh := st.lastSeq.elim true fun l => if st.dropped then !(st.copies ++ st.copiesPrev).contains seq else seqAfter l seq
    if !keacoSound s p f c || !fresh then s
    else
      let keep := st.arrived.elim false fun a => !seqAfter a.1 seq
      updStation n (fun x => { x with
        lastSeq := some seq, copies := seq :: x.copies
        arrived := if keep then x.arrived else some (seq, (f.data.drop 24).take c.inLen) }) s

/-! ### Error tasks (R124) -/

/-- Records a queue takes: 255 that wait, and the eight that are delivered in the round. -/
def errCapacity (s : State) : Nat := if computes s then 263 else 255

/-- An error task is called for a station: its record is queued, or lost with its event. -/
def callErrorTask (ten : BitVec 3) (n : Fin 256) (reason : BitVec 4) (s : State) : State :=
  let t : Fin 8 := ⟨ten.toNat, ten.isLt⟩
  if (Vec.at s.run.errQueue t).length < errCapacity s then
    updRun (fun r => { r with errQueue := Vec.upd r.errQueue t fun q => q ++ [⟨n, reason, lo32 s.sched.frame, false⟩] }) s
  else
    note .runControl 0x82 (some ten) (num n.val 0) (fld reason 0)
      (updRun (fun r => { r with errLost := setBit r.errLost t.val true }) s)

/-- The two words of a delivered record (Table 4.6). -/
def errWords (e : ErrRec) : List Word := [num e.station.val 0 ||| fld e.reason 8 ||| flag e.late 12, e.frame]

/-- Fill a tenant's call area: at most eight records; the rest wait and are late. -/
def deliverCalls (s : State) (x : BitVec 3 × Nat) : State :=
  let t : Fin 8 := ⟨x.1.toNat, x.1.isLt⟩
  let q := Vec.at s.run.errQueue t
  let go := q.take 8
  let rest := (q.drop 8).map fun e => { e with late := true }
  let lost := s.run.errLost.getLsbD t.val && !go.isEmpty
  let w0 := num go.length 0 ||| num rest.length 8 ||| flag lost 16
  let s := updPool (fun m => memWrite m x.2 (bytesOfWords (w0 :: go.flatMap errWords))) s
  updRun (fun r => { r with
    errQueue := Vec.put r.errQueue t rest
    errLost := if go.isEmpty then r.errLost else setBit r.errLost t.val false }) s

/-- The call areas of a round; of a device that does not compute none is filled, and its records will be late. -/
def deliverAllCalls (s : State) : State :=
  if computes s then (s.run.active.elim [] fun a => a.callAreas).foldl deliverCalls s
  else updRun (fun r => { r with errQueue := r.errQueue.map fun q => q.map fun e => { e with late := true } }) s

/-! ### Station scanning (R122, R123) -/

/-- A point of a station's payload as a place in its input area. -/
def stationPlace (p : Place) : Place := { p with addr := p.addr + 0x40, statusAddr := p.statusAddr + 0x40 }

/-- Apply the substitute rule of one point of a station. -/
def substPoint (n : Fin 256) (s : State) (x : Place × Subst) : State :=
  let (c, s) := drawFree 2 s
  updStation n (fun r => { r with input := substMem (stationPlace x.1) x.2 c r.input }) s

/-- Apply every substitute rule of a station. -/
def substitute (c : StationCfg) (s : State) : State :=
  c.points.foldl (substPoint c.number) (updStation c.number (fun r => { r with substituted := true }) s)

/-- A station's values enter the image. -/
def takeValues (c : StationCfg) (d : List Byte) (s : State) : State :=
  updStation c.number (fun r => { r with substituted := false, input := memWrite r.input 0x40 (takePad c.inLen d) }) s

/-- The station status word (R123). Its bit `present`, which the spec does not explain, shows that a good frame was accepted for the sample
instant (DESIGN CHOICE, log entry 85). -/
def stationWord (r : StationRt) : Word := flag r.present 0 ||| flag r.dropped 1 ||| flag r.substituted 2 ||| fld r.miss 4

/-- The scan's procedure: the frame accepted since the last sample instant, or none. -/
def scanStep (c : StationCfg) (got : Option (List Byte)) (s : State) : State :=
  let n := c.number
  let r := stationRt s n
  match got with
  | some d =>
    let s := updStation n (fun x => { x with miss := 0 }) s
    if !r.dropped then takeValues c d s
    else
      let g := satInc r.good
      let s := updStation n (fun x => { x with good := g }) s
      if c.back ≤ g then
        let s := takeValues c d (updStation n (fun x => { x with dropped := false }) s)
        callErrorTask c.tenant n 2 (raise .runControl 2 (some c.tenant) .unstated s)
      else substitute c s
  | none =>
    let m := satInc r.miss
    let s := updStation n (fun x => { x with good := 0, miss := m }) s
    if r.dropped then substitute c s
    else if c.drop ≤ m then
      let s := updStation n (fun x => { x with dropped := true, drops := satInc x.drops }) s
      callErrorTask c.tenant n 1 (raise .runControl 2 (some c.tenant) .unstated (substitute c s))
    else s

/-- The scan of a station at its sample instant. -/
def stationScan (n : Fin 256) (s : State) : State :=
  match stationCfg s n with
  | none => s
  | some c =>
    let a := (stationRt s n).arrived
    let s := bump .runControl (if a.isSome then 0x12 else 0x13) 1 s
    let s := updStation n (fun x => { x with present := a.isSome, arrived := none, copies := [], copiesPrev := x.copies }) s
    let s := scanStep c (a.map fun x => x.2) s
    updStation n (fun x => { x with input := memWrite x.input 0 (bytesOf 4 (stationWord x).toNat) }) s

/-! ### Output frames (R292, R294) -/

/-- Does the device send Keaco output frames: without a trio, as the active member, or stopped with safe payloads? -/
def sendsKeaco (s : State) : Bool :=
  (s.run.state == .running && (!inTrio s || s.trio.role == .active)) || keacoSafe s

/-- A station's output frame is queued at its commit instant on its two ports. `held` tells that no outputs commit at it: those of a device
without a trio then go on with the safe payload, until the first commit instant after a restart (R120). -/
def queueKeaco (held : Bool) (n : Fin 256) (s : State) : State :=
  match stationCfg s n with
  | none => s
  | some c =>
    if !sendsKeaco s then s else
    let r := stationRt s n
    let safe := s.run.state == .stopped || (!inTrio s && held)
    let pay := if safe then safePayload s n else memRead r.output 0 c.safePayload.length
    let flags := (if safe then 1 else 0) + 2 + 4 * s.trio.member.toNat
    let d := keacoFrame 2 n.val flags r.sendSeq (if inTrio s then s.trio.roster.epoch else 0) (nowNs s) pay
    let s := updStation n (fun x => { x with sendSeq := x.sendSeq + 1 }) s
    let f := devFrame 6 0x88B5 c.mac c.vlan (some n) none d.length d
    queueFrame c.portB f (queueFrame c.portA f s)

/-- KEACO_FRAME_RECEIVE: the frame reaches the port, passes the VLAN rule and is checked. -/
def keacoArrives (p : Fin 8) (f : EthFrame) (s : State) : State :=
  if !(portAt s p).en || !(portAt s p).up || f.etherType != 0x88B5 then s else
  let s := bump (ethPage p) 0x11 1 s
  if !f.fcsOk then bump (ethPage p) 0x12 1 s
  else if !vlanOk s p f then updEth p (fun x => { x with bad := satInc x.bad }) (bump (ethPage p) 0x12 1 s)
  else keacoReceive p f s

/-- KEACO_FRAME_RECEIVE. -/
def execKeacoFrameReceive (port : Fin 8) (f : EthFrame) (s : State) : Out := .next (keacoArrives port f s)

/-! ### Scheduled reads (R36, R134, R135, R221, R297, R317) -/

/-- One flit of Saddle's endpoint space. -/
def saddleFlit (s : State) (off : Nat) : List Byte :=
  if 0x1000000 ≤ off && off < 0x1080000 then
    memRead (stationRt s (stationOf ((off - 0x1000000) / 0x800))).input (off % 0x800) 64
  else if 0x2000000 ≤ off && off < 0x2400000 then memRead s.trio.rxA (off - 0x2000000) 64
  else if 0x2400000 ≤ off && off < 0x2800000 then memRead s.trio.rxB (off - 0x2400000) 64
  else if 0x2800000 ≤ off && off < 0x2A00000 then memRead s.trio.repA (off - 0x2800000) 64
  else if 0x2A00000 ≤ off && off < 0x2C00000 then memRead s.trio.repB (off - 0x2A00000) 64
  else if h : 0x3000000 ≤ off ∧ off < 0x3020000 then
    memRead (Vec.at s.cans ⟨(off - 0x3000000) / 0x2000, by omega⟩).latch (off % 0x2000) 64
  else if h : 0x3400000 ≤ off ∧ off < 0x3408000 then
    memRead (Vec.at s.uarts ⟨(off - 0x3400000) / 0x1000, by omega⟩).latch (off % 0x1000) 64
  else List.replicate 64 0

/-- One flit of a Crest tile's endpoint space. -/
def crestFlit (s : State) (c : Fin 6) (off : Nat) : List Byte :=
  let l := (Vec.at s.crests c).loop
  if off < 0x40000 then memRead l.mem off 64 else memRead l.traceMem (off - 0x100000) 64

/-- One flit at an endpoint address. -/
def readFlit (s : State) (a : Word) : List Byte :=
  if isPool a then memRead s.pool a.toNat 64
  else if epTile a = 0 then saddleFlit s (epOff a)
  else match crest? (epTile a - 1) with
    | some c => crestFlit s c (epOff a)
    | none => memRead s.field.flits (epOff a) 64

/-- The bytes of `n` flits from an endpoint address. -/
def readSpan (s : State) (a : Word) (n : Nat) : List Byte :=
  if isPool a then memRead s.pool a.toNat (64 * n)
  else (List.range n).flatMap fun k => readFlit s (a + BitVec.ofNat 32 (64 * k))

end Sys2Proof.Machine
end

