-- ==== Sys2Proof/Machine/SafetyUnit.lean ====
section
/-! DEFINITION. The safety unit (Ch. 7): seal reading, function scan, resets, output diagnostics and safety connections; and where a
received Ethernet frame goes. -/
namespace Sys2Proof.Machine

/-- Change the safety unit. -/
def updSafety (f : Safety → Safety) (s : State) : State := { s with safety := f s.safety }

/-! ### Seal reading (R195, R198) -/

/-- Two seconds in ticks. -/
def sealTicks : Nat := 1000000000

/-- Take the debounced seal reading: a change raises SEAL, and one that is not the maintenance code removes the trip-class forces. -/
def takeSeal (s : State) : State :=
  if !s.part.hasField then s else
  let v := s.field.sealFilt
  let changed := v != s.safety.sealNow
  let good := (safetyCfg s).elim false fun c => c.sealCode == v
  let s := updSafety (fun x => { x with
    sealNow := v
    sealOkSince := if good then some (x.sealOkSince.getD s.tb.tick) else none }) s
  let s := if changed then raise .safety 0 none .unstated s else s
  if sealMaint s then s else sealRemovesForces s

/-- SEAL_READ_MS: the seal reading and the DI registers are taken while no rounds run (R195, R222), and a member of a trio is heard by its
partners (R188). -/
def sealMs (s : State) : State := if s.sched.running then s else announce (takeSeal (if s.part.hasField then latchDi s else s))

/-- Every function as at start-up or on leaving SAFE-HOLD (Table 7.2); the state it starts in is no change of state. -/
def startFuncs (s : State) : State :=
  (funcCfgs s).foldl (fun s c => updFunc c.number (fun f =>
    { f with state := if c.trip then .lockout else .normal, cause := if c.trip then 6 else 0 }) s) s

/-- SAFE-HOLD is entered (R197). -/
def enterSafeHold (s : State) : State :=
  match safetyCfg s with
  | none => s
  | some c =>
    let s := updRun (fun r => { r with state := .safeHold }) (updSafety (fun x => { x with safeHold := true, accepted := false }) s)
    let s := updField (fun f => { f with enSingle := f.enSingle || !inTrio s }) s
    let s := safeOutputs false (startFuncs s)
    note .safety 0x80 none (fld s.safety.sealNow 0) (fld c.sealCode 0) s

/-- The device is ready (Table 16.5 step 8): a member of a trio waits for its formation, another device starts on its own. -/
def becomeReady (s : State) : State :=
  updTrio (fun t => { t with forming := inTrio s }) { s with pwr := { s.pwr with stage := if inTrio s then 9 else 10 } }

/-- SAFE-HOLD is left when the reading has equalled the seal code for 2 s; the formation wait follows. -/
def leaveSafeHold (s : State) : State :=
  if s.safety.safeHold && s.safety.sealOkSince.elim false (fun t => decide (t + sealTicks ≤ s.tb.tick)) then
    let s := updSafety (fun x => { x with safeHold := false, accepted := true }) s
    let s := startFuncs (updRun (fun r => { r with state := .starting }) (becomeReady s))
    note .safety 0x81 none (fld s.safety.sealNow 0) 0 s
  else s

/-! ### Output diagnostics (R207) -/

/-- What the readback of an output shows against its command in force: differs, and commanded on with its switch off, be it for a trip, a
shutdown, a lock-out or an under-voltage. The command is the drive decided, its enable among it (log entry 124). -/
def outputCheck (s : State) : OutTarget → Bool × Bool
  | .dout n =>
    let e := doOrdered s n
    (s.field.doSw.getLsbD n.val != e || s.field.doTerm.getLsbD n.val != e, e && !s.field.doSw.getLsbD n.val)
  | .tlo n =>
    let e := tloOrdered s n
    (s.field.tloSw.getLsbD n.val != e || s.field.tloHi.getLsbD n.val != e || s.field.tloLo.getLsbD n.val != e,
      e && !s.field.tloSw.getLsbD n.val)
  | .ao n => let st := Vec.at s.field.aoStat n; (st != 0 && st != 1, false)
  | _ => (false, false)

/-- Judge every Foothill output of a function against the readback latched at this sample instant. -/
def judgeOutputs (s : State) : State :=
  let ps := (outPoints s).filter fun p => p.func.isSome
  let mis := (ps.filter fun p => (outputCheck s p.target).1).map fun p => p.number
  let now := (ps.filter fun p => (outputCheck s p.target).2).map fun p => p.number
  updSafety (fun x => { x with
    mismatched := mis, outFaults := now ++ mis.filter fun p => x.mismatched.contains p && !now.contains p }) s

/-! ### Causes (Table 7.3) -/

/-- The output points of a function. -/
def funcPoints (s : State) (c : FuncCfg) : List OutPoint := (outPoints s).filter fun p => c.outputs.contains p.number

/-- Is a task abandoned or stopped in the round? -/
def taskOut (s : State) (n : BitVec 3 × BitVec 8) : Bool := let t := taskRt s n.1 n.2; t.abandoned || t.stopped

/-- The lowest present cause of a function in the round. -/
def causeOf (s : State) (c : FuncCfg) : Option (BitVec 4) :=
  let ps := funcPoints s c
  if ps.any fun p => (pointTasks s p).any (taskOut s) then some 1
  else if c.inputs.any fun p => s.safety.substituted.contains p then some 2
  else if c.outputs.any fun p => s.safety.outFaults.contains p then some 3
  else if ps.any fun p => (pointTasks s p).any fun n => (disagreeTasks s).contains n then some 4
  else if c.trip && inTrio s && s.trio.state == .solo && !(trioCfg s).soloTrip then some 5
  else none

/-! ### Reset presses (R205) -/

/-- The voted value of a reset point, and whether it has a failure status, was substituted or is poisoned (R95). -/
def resetReading (s : State) (p : BitVec 16) : Option (Bool × Bool) :=
  ((inPoints s).find? fun x => x.number == p).map fun x =>
    (placeGood s x.voted && placeValue x.voted (memWord s.pool x.voted.addr) != 0,
      s.safety.substituted.contains p || !placeGood s x.voted || failsPlace x.voted (statusField x.voted (memWord s.pool x.voted.statusAddr)))

/-- The reset points of the functions in force. -/
def resetPoints (s : State) : List (BitVec 16) := ((funcCfgs s).filterMap fun c => c.resetPoint).dedup

/-- The decision of Table 7.4 for one function at the end of a press of duration `d`. -/
def decideReset (d : Nat) (bad : Bool) (s : State) (c : FuncCfg) : State :=
  let code : Byte :=
    if d < c.pressMs * 1000000 then 0x61 else if 30000000000 < d then 0x62 else if bad then 0x63
    else if (causeOf s c).isSome then 0x60 else 0
  let s := raise .safety 3 (some c.tenant) .unstated
    (updSafety (fun x => { x with resetCode := code, resetFunc := BitVec.ofNat 8 c.number.val }) s)
  if code = 0 then setFunc c .normal 0 (updFunc c.number (fun f => { f with resets := satInc f.resets }) s) else s

/-- A press ends: every locked-out function that names the point is decided. -/
def endPress (p : BitVec 16) (d : Nat) (bad : Bool) (s : State) : State :=
  ((funcCfgs s).filter fun c => c.resetPoint == some p && (Vec.at s.safety.funcs c.number).state == .lockout).foldl (decideReset d bad) s

/-- Is an I/O group sampled at the instant at which the round began? -/
def groupSampled (s : State) (g : BitVec 8 × BitVec 8) : Bool :=
  s.sched.active.elim false fun im => im.ioGroups.any fun x => x.sample && x.cls == g.1 && x.inst == g.2 && timingActive x.t s.sched.round

/-- Was the I/O group of an input point sampled in the round? -/
def pointSampled (s : State) (p : BitVec 16) : Bool := ((inPoints s).find? fun x => x.number == p).elim false fun x => groupSampled s x.group

/-- One reset point at a sample instant of its I/O group: a press begins, goes on, or ends. -/
def watchReset (s : State) (p : BitVec 16) : State :=
  match resetReading s p with
  | none => s
  | some (v, bad) =>
    let was := (s.safety.lastReset.find? fun x => x.1 == p).map fun x => x.2
    let press := s.safety.presses.find? fun x => x.point == p
    let others := s.safety.presses.filter fun x => x.point != p
    let s := updSafety (fun x => { x with lastReset := (p, v) :: x.lastReset.filter fun y => y.1 != p }) s
    match press with
    | some q =>
      if v then updSafety (fun x => { x with presses := { q with bad := q.bad || bad } :: others }) s
      else endPress p (s.sched.roundNs - q.startNs) (q.bad || bad) (updSafety (fun x => { x with presses := others }) s)
    | none =>
      if v && was == some false then updSafety (fun x => { x with presses := ⟨p, s.sched.roundNs, bad⟩ :: others }) s else s

/-! ### Function scan (R202) -/

/-- The RESUME point of a function in the output image. -/
def resumeOf (s : State) (c : FuncCfg) : Bool := c.resume.elim false fun p => (badIn s p.addr 4).isEmpty && placeValue p (memWord s.pool p.addr) != 0

/-- HOLD ends in SAFE at its end instant. -/
def holdEnds (c : FuncCfg) (s : State) : State :=
  if decide ((Vec.at s.safety.funcs c.number).holdEnd ≤ nextCommit s) then setFunc c .safe (Vec.at s.safety.funcs c.number).cause s else s

/-- A function in NORMAL meets a cause. -/
def reacts (c : FuncCfg) (k : BitVec 4) (s : State) : State :=
  if c.trip then setFunc c .lockout k s
  else updFunc c.number (fun f => { f with clear := 0, holdEnd := nextCommit s + c.holdMs * 1000000 }) (setFunc c .hold k s)

/-- One function in the round: its state, then its output points. LOCKOUT is left by the reset decision alone. -/
def scanFunc (s : State) (c : FuncCfg) : State :=
  let cause := causeOf s c
  let r := Vec.at s.safety.funcs c.number
  let s := updFunc c.number (fun f => { f with present := cause.isSome }) s
  match r.state with
  | .normal =>
    match cause with
    | none => s
    | some k => reacts c k s
  | .hold =>
    let n := if cause.isSome then 0 else r.clear + 1
    let s := updFunc c.number (fun f => { f with clear := n }) s
    if 3 ≤ n && resumeOf s c then setFunc c .normal 0 s else holdEnds c s
  | .safe => if cause.isNone && resumeOf s c then setFunc c .normal 0 s else s
  | .lockout => s

/-- The last committed value of an output point. -/
def committedValue (s : State) (p : OutPoint) : Word := ((s.run.outValues.find? fun x => x.1 == p.number).map fun x => x.2).getD p.safe

/-- The output points of a function under its state. -/
def driveFunc (s : State) (c : FuncCfg) : State :=
  let put (v : OutPoint → Word) : State := (funcPoints s c).foldl (fun t p => updPool (putValue p.place (v p)) t) s
  match (Vec.at s.safety.funcs c.number).state with
  | .normal => s
  | .hold => put (committedValue s)
  | .safe | .lockout => put fun p => p.safe

/-- Output forces act on the output image (R112). -/
def forceOutputs (s : State) : State :=
  (outPoints s).foldl (fun t p => (forcedValue s p.number).elim t fun v => updPool (putValue p.place v) t) s

/-- The points of stopped tasks take their safe values (R90). -/
def stoppedSafe (s : State) : State :=
  (outPoints s).foldl (fun t p =>
    if (pointTasks s p).any fun n => (taskRt s n.1 n.2).stopped then updPool (putValue p.place p.safe) t else t) s

/-- The pool words that the close of a round reads: the voted reset points and the RESUME points. -/
def closeReads (s : State) : List Nat :=
  ((inPoints s).filter fun p => (resetPoints s).contains p.number).flatMap (fun p => [p.voted.addr, p.voted.statusAddr]) ++
  (funcCfgs s).filterMap fun c => c.resume.map fun p => p.addr

/-- Round close: output forces, presses, functions, and the safe values, which take precedence over forces (R206). -/
def closeRound (s : State) : State :=
  if !computes s then s else
  let was := s
  let s := scanWords (closeReads s) s
  let s := ((resetPoints s).filter (pointSampled s)).foldl watchReset (forceOutputs s)
  let s := (funcCfgs s).foldl scanFunc s
  let s := (funcCfgs s).foldl driveFunc (stoppedSafe s)
  forwardChanges was s

/-- A function's cause DISAGREE that becomes known at the D instant of its round, after the close: the function reacts as at the close, and its
output points follow for the next commit instant (log entry 90). -/
def lateCause (s : State) (c : FuncCfg) : State :=
  let s := updFunc c.number (fun f => { f with present := true }) s
  driveFunc (match (Vec.at s.safety.funcs c.number).state with
    | .normal => reacts c 4 s
    | .hold => updFunc c.number (fun f => { f with clear := 0 }) s
    | .safe | .lockout => s) c

/-- The functions that hold points of disagreeing tasks react. -/
def lateReactions (tasks : List (BitVec 3 × BitVec 8)) (s : State) : State :=
  ((funcCfgs s).filter fun c => (funcPoints s c).any fun p => (pointTasks s p).any tasks.contains).foldl lateCause s

/-- A commit instant passes: the values of the output points that `which` picks are committed, a poisoned one apart (R95). -/
def noteCommitted (which : OutPoint → Bool) (s : State) : State :=
  let ps := (outPoints s).filter fun p => which p && (badIn s p.place.addr 4).isEmpty
  let vs := ps.map fun p => (p.number, placeValue p.place (memWord s.pool p.place.addr))
  updRun (fun r => { r with outValues := vs ++ r.outValues.filter fun x => !ps.any fun p => p.number == x.1 }) s

/-- A stopped device's holds end at the first commit instant that has reached their end (R119, R203): the outputs then take their safe
values. -/
def stoppedHolds (s : State) : State :=
  if s.run.state == .running then s else
  let ended (c : FuncCfg) : Bool := let f := Vec.at s.safety.funcs c.number; f.state == .hold && decide (f.holdEnd ≤ schedNow s)
  let t := ((funcCfgs s).filter ended).foldl (fun s c => setFunc c .safe (Vec.at s.safety.funcs c.number).cause s) s
  if t.safety.funcs == s.safety.funcs then t else safeOutputs false t

/-! ### Safety connections (R210 to R214) -/

/-- Change what is kept of a connection. -/
def updConn (n : Fin 256) (f : ConnRt → ConnRt) (s : State) : State := updSafety (fun x => { x with conns := Vec.upd x.conns n f }) s

/-- What is kept of a connection. -/
def connRt (s : State) (n : Fin 256) : ConnRt := Vec.at s.safety.conns n

/-- The receive or send connections of the safety configuration. -/
def connsOf (s : State) (snd : Bool) : List ConnCfg := (safetyCfg s).elim [] fun c => c.connections.filter fun x => x.send == snd

/-- The connection of a number. -/
def connCfg (s : State) (snd : Bool) (n : Fin 256) : Option ConnCfg := (connsOf s snd).find? fun c => c.number == n

/-- A change of connection state raises CONN; entering DEGRADED raises DEGRADED also. -/
def setConn (c : ConnCfg) (new : ConnState) (s : State) : State :=
  if (connRt s c.number).state == new then s else
  let s := raise .safety 4 (some c.tenant) .unstated (updConn c.number (fun x => { x with state := new }) s)
  if new == .degraded then raise .safety 5 (some c.tenant) .unstated s else s

/-- A connection safety reaction (R214). -/
def connReaction (c : ConnCfg) (s : State) : State :=
  setConn c .failed (updConn c.number (fun x => { x with good := 0, fullPairs := 0 }) s)

/-- The state after an accepted pair. -/
def afterAccept (c : ConnCfg) (r : ConnRt) (full : Bool) : ConnState :=
  let up : ConnState := if full then .ok else .degraded
  match r.state with
  | .closed | .ok => up
  | .degraded => if full && decide (100 ≤ r.fullPairs) then .ok else .degraded
  | .failed => if c.back ≤ r.good then up else .failed

/-- A pair is accepted, with both copies or with the one of `lan`. -/
def acceptPair (c : ConnCfg) (seq : Word) (bs : List Byte) (lan : Option (BitVec 2)) (s : State) : State :=
  let full := lan.isNone
  let s := bump .safety 0x10 1 (updConn c.number (fun x => { x with
    lastSeq := some seq, decided := seq :: x.decided.filter fun y => y != seq
    value := (bs.drop 20).take c.len, lastNs := some (nowNs s), watchNs := some (schedNow s)
    fullPairs := if full then x.fullPairs + 1 else 0
    good := if x.state == .failed then satInc x.good else 0
    degraded := if full then x.degraded else satInc x.degraded
    lan := lan.getD x.lan }) s)
  let r := connRt s c.number
  let new := afterAccept c r full
  let s := setConn c new s
  if new == .failed then s else updConn c.number (fun x => { x with good := 0, fullPairs := if new == .degraded then x.fullPairs else 0 }) s

/-- An invalid copy is counted. -/
def discardCopy (c : ConnCfg) (s : State) : State :=
  bump .safety 0x11 1 (updConn c.number (fun x => { x with discarded := satInc x.discarded }) s)

/-- Nanoseconds of a STAMP, within its 2^34 seconds. -/
def stampNs (d : List Byte) : Nat := let x := leAt d 12 8; x / 2 ^ 30 * 1000000000 + x % 2 ^ 30

/-- Does STAMP lie within the age limit before, and 1 ms after, the timebase? -/
def stampOk (s : State) (c : ConnCfg) (d : List Byte) : Bool :=
  let m := 2 ^ 34 * 1000000000
  let now := nowNs s % m
  let st := stampNs d % m
  decide ((now + m - st) % m ≤ c.ageMs * 1000000) || decide ((st + m - now) % m ≤ 1000000)

/-- The conditions of R212 other than SEQ. -/
def copySound (s : State) (c : ConnCfg) (d : List Byte) : Bool :=
  d.length == 88 && BitVec.ofNat 32 (leAt d 84 4) == crc32c (d.take 84) && leAt d 0 1 == 1 && leAt d 1 1 == c.len &&
  leAt d 6 2 == 0 && zeroAt d (20 + c.len) (64 - c.len) && stampOk s c d

/-- A valid copy opens a pair window, or decides its pair (R213). -/
def pairCopy (c : ConnCfg) (onB : Bool) (seq : Word) (d : List Byte) (s : State) : State :=
  let r := connRt s c.number
  match r.pairs.find? fun x => x.2.1 == seq with
  | none => updConn c.number (fun x => { x with pairs := x.pairs ++ [(onB, seq, d)] }) s
  | some x =>
    if x.1 == onB then discardCopy c s
    else
      let s := updConn c.number (fun y => { y with pairs := y.pairs.erase x }) s
      if x.2.2 == d then acceptPair c seq d none s
      else connReaction c (updConn c.number (fun y => { y with
        rejected := satInc y.rejected, decided := seq :: y.decided.filter fun z => z != seq }) s)

/-- A received safety-frame copy of a connection; one that fails the SEQ condition alone is late where its SEQ has been decided. -/
def connCopy (c : ConnCfg) (onB : Bool) (d : List Byte) (s : State) : State :=
  let r := connRt s c.number
  let seq : Word := BitVec.ofNat 32 (leAt d 8 4)
  if !copySound s c d then discardCopy c s
  else if r.state == .closed || r.state == .failed || r.lastSeq.elim true (fun l => seqAfter l seq) then pairCopy c onB seq d s
  else if r.decided.contains seq then bump .safety 0x11 1 (updConn c.number (fun x => { x with late := satInc x.late }) s)
  else discardCopy c s

/-- A received safety frame, one tagged with priority 7 (R296): the connection of its addresses takes it. -/
def safetyReceive (p : Fin 8) (f : EthFrame) (s : State) : State :=
  let d := f.data
  if !priorityIs f 7 then s else
  match (connsOf s false).find? fun c => c.src.toNat == leAt d 2 2 && c.dst.toNat == leAt d 4 2 with
  | some c => connCopy c (portLan s p == 2) d s
  | none => bump .safety 0x11 1 s

/-- The oldest pair window of a connection ends with one copy. -/
def pairEnds (n : Fin 256) (s : State) : State :=
  match connCfg s false n, (connRt s n).pairs with
  | some c, x :: r => acceptPair c x.2.1 x.2.2 (some (if x.1 then 2 else 1)) (updConn n (fun y => { y with pairs := r }) s)
  | _, _ => s

/-- The input points of a connection. -/
def connPoints (s : State) (c : ConnCfg) : List InPoint := (inPoints s).filter fun p => c.points.contains p.number

/-- Values enter the raw image, or the FAIL substitutes. -/
def connValues (c : ConnCfg) (s : State) : State :=
  let r := connRt s c.number
  if r.state == .ok || r.state == .degraded then
    let s := updPool (fun m => memWrite m c.payload (takePad c.len r.value)) s
    (connPoints s c).foldl (fun s p =>
      if c.payload ≤ p.raw.statusAddr && p.raw.statusAddr < c.payload + c.len then s else updPool (putStatus p.raw 0) s) s
  else (connPoints s c).foldl (fun s p => applySubst p.raw p.subst s) s

/-- A connection at a sample instant: its watchdog, then its values. -/
def connScan (s : State) (c : ConnCfg) : State :=
  let now := s.sched.roundNs
  let from_ := (connRt s c.number).watchNs
  let s := match from_ with
    | none => updConn c.number (fun x => { x with watchNs := some now }) s
    | some t => if t + c.watchMs * 1000000 < now then connReaction c s else s
  connValues c s

/-- The connections whose I/O group is sampled. -/
def scanConns (s : State) : State := ((connsOf s false).filter fun c => groupSampled s c.group).foldl connScan s

/-- Does the device send safety frames: running, and without a trio or as a voting member (R210)? -/
def sendsSafety (s : State) : Bool := s.run.state == .running && (!inTrio s || votes s)

/-- A safety frame is queued on its two ports at its send instant (R288). A payload that carries poison is not sent (R95; log entry 103). -/
def queueSafety (n : Fin 256) (s : State) : State :=
  match connCfg s true n with
  | none => s
  | some c =>
    if !sendsSafety s then s else
    let s := scanPool c.payload c.len s
    if !(badIn s c.payload c.len).isEmpty then s else
    let d := bytesOf 1 1 ++ bytesOf 1 c.len ++ bytesOf 2 c.src.toNat ++ bytesOf 2 c.dst.toNat ++ bytesOf 2 0 ++
      bytesOf 4 (connRt s n).sendSeq.toNat ++ bytesOf 8 0 ++ takePad 64 (memRead s.pool c.payload c.len)
    let s := updConn n (fun x => { x with sendSeq := x.sendSeq + 1 }) s
    let f := devFrame 7 0x88B6 c.mac c.vlan none (some n) (d.length + 4) d
    queueFrame c.portB f (queueFrame c.portA f s)

/-! ### Received Ethernet frames (R285, R290, R296) -/

/-- SAFETY_FRAME_RECEIVE: the frame reaches the port, passes the VLAN rule and is checked. -/
def safetyArrives (p : Fin 8) (f : EthFrame) (s : State) : State :=
  if !(portAt s p).en || !(portAt s p).up || f.etherType != 0x88B6 then s else
  let s := bump (ethPage p) 0x11 1 s
  if !f.fcsOk then bump (ethPage p) 0x12 1 s
  else if !vlanOk s p f then updEth p (fun x => { x with bad := satInc x.bad }) (bump (ethPage p) 0x12 1 s)
  else safetyReceive p f s

/-- ETH_FRAME_RECEIVE: a Keaco or safety frame goes to its unit, every other frame to firmware. -/
def frameArrives (p : Fin 8) (f : EthFrame) (s : State) : State :=
  if f.etherType == 0x88B5 then keacoArrives p f s
  else if f.etherType == 0x88B6 then safetyArrives p f s
  else if !(portAt s p).en || !(portAt s p).up then s
  else firmwareFrame p f (bump (ethPage p) 0x11 1 s)

/-- SEAL_READ_MS. -/
def execSealReadMs (s : State) : Out := .next (sealMs s)
/-- SAFE_HOLD_LEAVE. -/
def execSafeHoldLeave (s : State) : Out := .next (leaveSafeHold s)
/-- SAFETY_FRAME_RECEIVE. -/
def execSafetyFrameReceive (port : Fin 8) (f : EthFrame) (s : State) : Out := .next (safetyArrives port f s)
/-- PAIR_WINDOW_END. -/
def execPairWindowEnd (conn : Fin 256) (s : State) : Out := .next (pairEnds conn s)
/-- SAFETY_FRAME_QUEUE. -/
def execSafetyFrameQueue (conn : Fin 256) (s : State) : Out := .next (queueSafety conn s)
/-- ROUND_CLOSE. -/
def execRoundClose (s : State) : Out := .next (closeRound s)

/-- The D instant of the round passes: the decisions, then the causes that they bring (log entry 90). -/
def execDecisionInstant (s : State) : Out :=
  let d := decide_ s
  .next (if computes d then lateReactions (if s.sched.running && inTrio s && !s.trio.forming then lateDisagree s else []) d else d)
/-- ETH_FRAME_RECEIVE. -/
def execEthFrameReceive (port : Fin 8) (f : EthFrame) (s : State) : Out := .next (frameArrives port f s)

end Sys2Proof.Machine
end

