-- ==== Sys2Proof/Machine/CanSerial.lean ====
section
/-! DEFINITION. CAN controllers and UARTs (Ch. 12). -/
namespace Sys2Proof.Machine

/-! ### CAN: configuration and buffers -/

/-- A CAN controller. -/
def canAt (s : State) (c : Fin 16) : Can := Vec.at s.cans c

/-- The configuration of a controller. -/
def canCfg (s : State) (c : Fin 16) : Option CanCfg := s.run.active.bind fun a => a.cans.lookup c

/-- Data bytes of a data length code. -/
def dlcBytes (fd : Bool) (dlc : BitVec 4) : Nat :=
  let n := dlc.toNat
  if n ≤ 8 then n else if !fd then 8
  else match n with
    | 9 => 12
    | 10 => 16
    | 11 => 20
    | 12 => 24
    | 13 => 32
    | 14 => 48
    | _ => 64

/-- The identifier of a frame: 29 bits, or 11 bits at [28:18] (Table 12.2). -/
def canId (f : CanFrame) : BitVec 29 := if f.ide then f.id else f.id &&& 0x1FFC0000

/-- Words 0 and 1 of a frame (Table 12.2). -/
def canWords (f : CanFrame) : Word × Word :=
  (fld (canId f) 0 ||| flag f.ide 29 ||| flag f.rtr 30, fld f.dlc 0 ||| flag f.fdf 4 ||| flag f.brs 5 ||| flag f.esi 6)

/-- The 128 bytes of a frame in a buffer. -/
def canBytes (f : CanFrame) (stamp : Nat) : List Byte :=
  let w := canWords f
  bytesOf 4 w.1.toNat ++ bytesOf 4 w.2.toNat ++ bytesOf 8 stamp ++ List.replicate 48 0 ++
    takePad 64 (if f.rtr then [] else f.data.take (dlcBytes f.fdf f.dlc))

/-- The target buffer of a received frame: that of the matching filter with the lowest number (R312). -/
def canTarget (cfg : CanCfg) (f : CanFrame) : Option (Fin 64) :=
  let mask (x : CanFilter) : BitVec 29 := if f.ide then x.mask else x.mask &&& 0x1FFC0000
  (((cfg.filters.take 32).filterMap id).find? fun x => x.ide == f.ide && (x.id &&& mask x) == (f.id &&& mask x)).map fun x => x.target

/-- The 128 bytes of a buffer as they are read and sent: the data bytes beyond the length that DLC gives are 0 (Table 12.2). -/
def canBuffer (x : Can) (b : Nat) : List Byte :=
  let d := memRead x.bufs (128 * b) 128
  let w := wordOf (d.drop 4)
  d.take 64 ++ takePad 64 ((d.drop 64).take (dlcBytes (w.getLsbD 4) (bits w 0 4)))

/-- Is a controller's RX side served by firmware: no CAN receive latch group names it in the active schedule image? -/
def canByFirmware (s : State) (c : Fin 16) : Bool :=
  s.sched.active.elim true fun im => !im.ioGroups.any fun g => g.cls == 7 && g.inst.toNat == c.val

/-! ### CAN: receiving (R312 to R314) -/

/-- A received frame with its stamp goes to its buffer, the shadow of a locked buffer, or nowhere (Table 12.3). -/
def canStore (c : Fin 16) (f : CanFrame) (at_ : Instant) (s : State) : State :=
  match (canCfg s c).bind fun g => canTarget g f with
  | none => updCan c (fun x => { x with noMatch := satInc x.noMatch }) s
  | some b =>
    let x := canAt s c
    let locked := x.lock && x.sel == b
    let full := if locked then x.shadow.isSome else x.fresh.getLsbD b.val
    let s := updCan c (fun x => { x with
      ovr := if full then setBit x.ovr b.val true else x.ovr
      ovrCnt := if full then satInc x.ovrCnt else x.ovrCnt
      shadow := if locked then some (f, at_) else x.shadow
      bufs := if locked then x.bufs else memWrite x.bufs (128 * b.val) (canBytes f (instantNs at_))
      fresh := if locked then x.fresh else setBit x.fresh b.val true }) s
    let s := bump (.can c) 0x11 1 s
    let s := if full then raise (.can c) 5 (canOwner s c) .unstated s else s
    if canByFirmware s c then raise (.can c) 0 (canOwner s c) .unstated s else s

/-- The start-of-frame instant `ago` nanoseconds back, less the receive latency (R313). -/
def canStamp (s : State) (c : Fin 16) (ago : Nat) : Instant := instantOf (nowNs s - ago - (canAt s c).lat.toNat)

/-- The timing of the candidate under trial. -/
def candTiming (s : State) (c : Fin 16) : Word × Word :=
  ((canCfg s c).bind fun g => g.candidates[(canAt s c).trying.toNat]?).getD ((canAt s c).nbt, (canAt s c).dbt)

/-- A candidate is adopted: DETECTED, CAND and the timing, the mode, and DETECT (R321). -/
def adoptRate (c : Fin 16) (s : State) : State :=
  let t := candTiming s c
  raise (.can c) 4 (canOwner s c) .unstated (updCan c (fun x => { x with
    detected := true, cand := x.trying, nbt := t.1, dbt := t.2, detHeld := none
    mode := if x.autoJoin then .normal else .listen }) s)

/-- The next candidate, from 7 to 0. -/
def nextCandidate (c : Fin 16) (s : State) : State :=
  updCan c (fun x => { x with trying := x.trying + 1, detHeld := none, candSince := localNs s }) s

/-! ### CAN: sending (R315 to R319) -/

/-- The order in which pending frames compete: identifier, data before remote, buffer number. -/
def canRank (x : Can) (b : Fin 64) : Nat :=
  let w := memWord x.bufs (128 * b.val)
  let id := if w.getLsbD 29 then (bits w 0 29).toNat else (bits w 18 11).toNat * 2 ^ 18
  (id * 2 + (if w.getLsbD 29 then 1 else 0)) * 128 + (if w.getLsbD 30 then 64 else 0) + b.val

/-- The pending buffer that wins the next start-of-frame. -/
def canWinner (x : Can) : Option (Fin 64) :=
  ((List.finRange 64).filter fun b => x.pend.getLsbD b.val).foldl
    (fun w b => match w with
      | none => some b
      | some v => if canRank x b < canRank x v then some b else some v) none

/-- The state that follows from the error counters (ISO 11898-1): PASSIVE from 128 on, WARNING from 96 on. -/
def canCounts (tec : BitVec 9) (rec_ : BitVec 8) (x : Can) : Can :=
  { x with
    tec := tec, recCnt := rec_
    passive := decide (128 ≤ tec.toNat) || decide (128 ≤ rec_.toNat)
    warning := decide (96 ≤ tec.toNat) || decide (96 ≤ rec_.toNat) }

/-- A frame received well lowers the receive counter by one; from above 127 to a value between 119 and 127, which the spec and ISO 11898-1
leave open. -/
def canHeard (c : Fin 16) (s : State) : State :=
  let x := canAt s c
  if x.recCnt = 0 then s
  else if x.recCnt.toNat ≤ 127 then noteConds [.can c] s (updCan c (canCounts x.tec (x.recCnt - 1)) s)
  else
    let (w, s) := drawFree 8 s
    noteConds [.can c] s (updCan c (canCounts x.tec (BitVec.ofNat 8 (119 + w.toNat % 9))) s)

/-- A frame sent well lowers the transmit counter by one. -/
def canSentWell (c : Fin 16) (s : State) : State :=
  let x := canAt s c
  if x.tec = 0 then s else noteConds [.can c] s (updCan c (canCounts (x.tec - 1) x.recCnt) s)

/-- May a controller send? -/
def canMaySend (x : Can) : Bool := x.mode == .normal && !x.busoff && x.pend != 0

/-- Pending frames compete: no command tells whether the bus is free for a start-of-frame, so that is drawn free. -/
def canCompete (c : Fin 16) (s : State) : State :=
  if !canMaySend (canAt s c) || (canAt s c).line.isSome then s else
  let (w, s) := drawFree 1 s
  if w = 1 then updCan c (fun x => { x with line := (canWinner x).map fun b => (b, false) }) s else s

/-- Is a buffer's kind this one? -/
def canKind (s : State) (c : Fin 16) (b : Fin 64) (k : BufKind) : Bool := Vec.at (canAt s c).kinds b == k

/-- TX is raised for a TX_FW frame sent or cancelled. -/
def raiseTx (c : Fin 16) (b : Fin 64) (s : State) : State := if canKind s c b .txFw then raise (.can c) 1 (canOwner s c) .unstated s else s

/-- A request ends cancelled. -/
def canCancelled (c : Fin 16) (b : Fin 64) (s : State) : State :=
  raiseTx c b (updCan c (fun x => { x with
    pend := setBit x.pend b.val false, cancelled := setBit x.cancelled b.val true, code := 0
    line := x.line.bind fun l => if l.1 == b then none else some l }) s)

/-- The frame on the bus ends (R315, Table 12.4). -/
def canEnd (c : Fin 16) (how : CanTxEnd) (ago : Nat) (s : State) : State :=
  let x := canAt s c
  if !canMaySend x then s else
  match x.line.orElse fun _ => (canWinner x).map fun b => (b, false) with
  | none => s
  | some (b, hold) =>
    let s := updCan c (fun x => { x with line := none }) s
    match how with
    | .done =>
      let s := updCan c (fun x => { x with
        pend := setBit x.pend b.val false, sent := setBit x.sent b.val true, code := if hold then 0xA0 else x.code
        bufs := memWrite x.bufs (128 * b.val + 8) (bytesOf 8 (nowNs s - ago)) }) s
      let s := canSentWell c (send (.can c b (canBuffer (canAt s c) b.val)) (bump (.can c) 0x10 1 s))
      canCompete c (raiseTx c b s)
    | .lostArbitration =>
      let s := bump (.can c) 0x13 1 s
      if hold then canCompete c (canCancelled c b s) else s
    | .error => if hold then canCompete c (canCancelled c b s) else s

/-- CAN_FRAME_RECEIVE: stored in NORMAL and LISTEN mode; in DETECT mode two frames in a row adopt the candidate. -/
def canReceive (c : Fin 16) (f : CanFrame) (ago : Nat) (s : State) : State :=
  let x := canAt s c
  let t := canStamp s c ago
  match x.mode with
  | .off => s
  | .normal => if x.busoff then s else canCompete c (canHeard c (canStore c f t s))
  | .listen => canHeard c (canStore c f t s)
  | .detect =>
    match x.detHeld with
    | none => updCan c (fun x => { x with detHeld := some (f, t), candSince := localNs s }) s
    | some h => canStore c f t (canStore c h.1 h.2 (adoptRate c s))

/-- REQ on a TX_FW buffer (R316). -/
def canReq (c : Fin 16) (b : Fin 64) (s : State) : State :=
  if !canKind s c b .txFw then updCan c (fun x => { x with code := 0xA2 }) s
  else if (canAt s c).pend.getLsbD b.val then s
  else canCompete c (updCan c (fun x => { x with
    pend := setBit x.pend b.val true, code := 0, sent := setBit x.sent b.val false, cancelled := setBit x.cancelled b.val false }) s)

/-- CANCEL (Table 12.4). -/
def canCancel (c : Fin 16) (b : Fin 64) (s : State) : State :=
  if !(canAt s c).pend.getLsbD b.val then updCan c (fun x => { x with code := 0xA1 }) s
  else
    let s := canCompete c s
    if (canAt s c).line.elim false fun l => l.1 == b then updCan c (fun x => { x with line := some (b, true), code := 0 }) s
    else canCancelled c b s

/-- The locked buffer is unlocked: the shadow frame moves in, or NEW clears (R314). -/
def canUnlock (c : Fin 16) (s : State) : State :=
  let x := canAt s c
  if !x.lock then s else
  match x.shadow with
  | some (f, t) => updCan c (fun x => { x with
      lock := false, shadow := none, fresh := setBit x.fresh x.sel.val true
      bufs := memWrite x.bufs (128 * x.sel.val) (canBytes f (instantNs t)) }) s
  | none => updCan c (fun x => { x with lock := false, fresh := setBit x.fresh x.sel.val false }) s

/-- A write to CAN_MB_SEL. -/
def canSelect (c : Fin 16) (b : Fin 64) (lock : Bool) (s : State) : State :=
  let x := canAt s c
  let s := if x.lock && (!lock || x.sel != b) then canUnlock c s else s
  updCan c (fun x => { x with sel := b, lock := lock }) s

/-- The bits of a buffer word that are not reserved (Table 12.2). -/
def canWordMask (w : Nat) : Word :=
  if w = 0 then 0x7FFFFFFF else if w = 1 then 0x7F else if w < 4 then 0xFFFFFFFF else if w < 16 then 0 else 0xFFFFFFFF

/-- A write through the buffer window; ignored while the buffer is pending (R316). -/
def canPoke (c : Fin 16) (w : Fin 32) (v : Word) (s : State) : State :=
  let x := canAt s c
  if x.pend.getLsbD x.sel.val then s
  else updCan c (fun x => { x with bufs := memWrite x.bufs (128 * x.sel.val + 4 * w.val) (bytesOf 4 (v &&& canWordMask w.val).toNat) }) s

/-- Does the device drive single-drive outputs (R170), its controller not stopped? -/
def drivesSingle (s : State) : Bool := s.run.state == .running && (!inTrio s || s.trio.role == .active)

/-- Is the safe value in force for a point of a scheduled frame, so that the frame is not sent (Table 7.5)? -/
def canHeldSafe (s : State) (c : Fin 16) (b : Fin 64) : Bool :=
  (outPoints s).any fun p => p.target == .can c b &&
    (((pointTasks s p).any fun n => (taskRt s n.1 n.2).stopped) ||
     (funcCfgs s).any fun f => f.outputs.contains p.number &&
       ((Vec.at s.safety.funcs f.number).state == .safe || (Vec.at s.safety.funcs f.number).state == .lockout))

/-- The next CAN-slot entry of the slot that names a controller's buffer, by its offset, of those that have not made their request. -/
def canEntry (c : Fin 16) (b : Fin 64) (s : State) : Option CanSlot :=
  let es := (s.sched.active.elim [] fun im => im.canSlots).filter fun e =>
    e.ctrl.toNat == c.val && e.buffer.toNat == b.val && e.t.slot == s.sched.slot && timingActive e.t s.sched.round && !s.sched.canDone.contains e
  es.find? fun e => es.all fun x => decide (e.offset ≤ x.offset)

/-- The instant of a CAN-slot entry of the slot: OFFSET ticks after its start (R49). -/
def canInstant (s : State) (e : CanSlot) : Nat :=
  s.sched.roundNs + s.sched.slot.toNat * (s.sched.active.elim 0 slotNsOf) + 2 * e.offset.toNat

/-- The request of a TX_SCHED buffer, with the data that stood at the start of the slot (R319). -/
def canRequest (c : Fin 16) (b : Fin 64) (s : State) : State :=
  let late (s : State) : State := raise (.can c) 6 (canOwner s c) .unstated (updCan c (fun x => { x with late := satInc x.late }) s)
  if !canKind s c b .txSched || !drivesSingle s || canHeldSafe s c b then s
  else if (canAt s c).mode != .normal then late s
  else
    let was := (canAt s c).pend.getLsbD b.val
    let s := updCan c (fun x =>
      let d := memRead x.txData (128 * b.val) 128
      let w := bytesOfWords [wordOf d &&& canWordMask 0, wordOf (d.drop 4) &&& canWordMask 1]
      { x with
        bufs := memWrite (memWrite x.bufs (128 * b.val) w) (128 * b.val + 64) (d.drop 64)
        pend := setBit x.pend b.val true, sent := setBit x.sent b.val false, cancelled := setBit x.cancelled b.val false }) s
    canCompete c (if was then late s else s)

/-- A CAN-slot entry makes its request at its instant, once. -/
def canSlot (c : Fin 16) (b : Fin 64) (s : State) : State :=
  if !s.sched.running || !s.sched.slotBegun then s
  else match canEntry c b s with
    | none => s
    | some e => canRequest c b (updSched (fun x => { x with canDone := e :: x.canDone }) (reach (canInstant s e) s))

/-! ### CAN: errors and modes (R320, R321) -/

/-- A bus error with the counters after it. -/
def canErr (c : Fin 16) (tec : BitVec 9) (rec_ : BitVec 8) (s : State) : State :=
  let x := canAt s c
  if x.mode == .off then s
  else if x.mode == .detect then nextCandidate c s
  else
    let off := tec.getLsbD 8
    let s := bump (.can c) 0x12 1 s
    let t := updCan c (fun x => { canCounts tec rec_ x with busoff := x.busoff || off }) s
    let t := if off then (match (canAt t c).line with
      | some (b, true) => canCancelled c b t
      | _ => updCan c (fun x => { x with line := none }) t) else t
    noteConds [.can c] s t

/-- Bus-off recovery ends; the counters are 0 again (ISO 11898-1). -/
def canRecover (c : Fin 16) (s : State) : State :=
  if !(canAt s c).busoff then s else
  let t := updCan c (fun x => { x with
    busoff := false, passive := false, warning := false, tec := 0, recCnt := 0, busoffs := satInc x.busoffs }) s
  canCompete c (noteConds [.can c] s t)

/-- A mode command. A frame on the bus is abandoned where the new mode sends none. STOP ends a recovery, and with it the errors that led to
it (R320). -/
def canMode (c : Fin 16) (m : CanMode) (s : State) : State :=
  let ends := m == .off && (canAt s c).busoff
  let t := updCan c (fun x => { (if ends then canCounts 0 0 x else x) with
    mode := m, code := 0, line := if m == .normal then x.line else none
    busoff := x.busoff && m != .off
    trying := if m == .detect then 0 else x.trying, detHeld := none, detSince := localNs s, candSince := localNs s }) s
  canCompete c (noteConds [.can c] s t)

/-- DETECT: refused with BUSY while detection runs. -/
def canDetectCmd (c : Fin 16) (s : State) : State :=
  if (canAt s c).mode == .detect then updCan c (fun x => { x with code := 0xA4 }) s else canMode c .detect s

/-- 200 ms without a frame: the next candidate (R321). -/
def candidateEnds (c : Fin 16) (s : State) : State :=
  if (canAt s c).mode == .detect then nextCandidate c (reachLocal ((canAt s c).candSince + 200000000) s) else s

/-- Detection ends without adoption, at the limit of TIMEOUT (R321). -/
def detectFails (c : Fin 16) (s : State) : State :=
  if (canAt s c).mode == .detect then
    updCan c (fun x => { x with mode := .off, code := 0xA3, detHeld := none })
      (reachLocal ((canAt s c).detSince + 100000000 * (canAt s c).timeout.toNat) s)
  else s

/-! ### CAN: the receive latch (R318) -/

/-- One RX buffer copied into the latch. -/
def latchBuf (x : Can) (m : Memory) (b : Fin 64) : Memory :=
  if Vec.at x.kinds b == .rx then
    let d := canBuffer x b.val
    let w1 := wordOf (d.drop 4) ||| flag (x.fresh.getLsbD b.val) 8 ||| flag (x.ovr.getLsbD b.val) 9
    memWrite m (128 * b.val) (d.take 4 ++ bytesOf 4 w1.toNat ++ d.drop 8)
  else m

/-- The receive latch of a controller at its sample instant. -/
def canLatch (c : Fin 16) (s : State) : State :=
  updCan c (fun x =>
    let rx : BitVec 64 := bitsOf 64 fun b => if h : b < 64 then
      Vec.at x.kinds ⟨b, h⟩ == .rx && !(x.lock && x.sel.val == b) else false
    { x with
      latch := (List.finRange 64).foldl (latchBuf x) x.latch
      fresh := x.fresh &&& ~~~rx, ovr := x.ovr &&& ~~~rx }) s

/-! ### UARTs (R322, R323, R325) -/

/-- A UART. -/
def uartAt (s : State) (u : Fin 8) : Uart := Vec.at s.uarts u

/-- Bytes between two sample instants that a receive latch holds. -/
def latchBytes : Nat := 3968

/-- An error of a received character, counted with ERR. -/
def uartError (u : Fin 8) (f : Uart → Uart) (s : State) : State := raise (.uart u) 2 (uartOwner s u) .unstated (updUart u f s)

/-- A mark character pushes the instant of its start bit. -/
def uartMark (u : Fin 8) (b : Byte) (ago : Nat) (s : State) : State :=
  let x := uartAt s u
  if !x.latched && (b == x.mark0 || b == x.mark1) then
    raise (.uart u) 3 (uartOwner s u) .unstated (updUart u (fun x => { x with
      marks := if x.marks.length < 16 then x.marks ++ [instantOf (nowNs s - ago)] else x.marks }) s)
  else s

/-- A good character enters the receive FIFO, or the bytes of the next latch, or is lost. -/
def uartStore (u : Fin 8) (b : Byte) (s : State) : State :=
  let x := uartAt s u
  let room := if x.latched then decide (x.since.length < latchBytes) else decide (x.rx.length < 256)
  if room then
    bump (.uart u) 0x11 1 (updUart u (fun x =>
      if x.latched then { x with since := x.since ++ [b] } else { x with rx := x.rx ++ [b] }) s)
  else uartError u (fun x => { x with ovr := satInc x.ovr, lost := x.lost || x.latched }) s

/-- A character on the line has the data bits of UART_CFG; the bits above read 0 (R322). -/
def uartChar (x : Uart) (b : Byte) : Byte := b &&& (0xFF : Byte) >>> (3 - x.dataBits.toNat)

/-- UART_BYTE_RECEIVE. -/
def uartReceive (u : Fin 8) (b : Byte) (e : UartErr) (ago : Nat) (s : State) : State :=
  let b := uartChar (uartAt s u) b
  match e with
  | .none => noteConds [.uart u] s (uartStore u b (uartMark u b ago s))
  | .framing => uartError u (fun x => { x with framing := satInc x.framing }) s
  | .parity => uartError u (fun x => { x with parityErr := satInc x.parityErr }) s
  | .brk => uartError u (fun x => { x with breaks := satInc x.breaks }) s

/-- A write to UART_DATA; an idle line takes the byte at once. -/
def uartWrite (u : Fin 8) (b : Byte) (s : State) : State :=
  let x := uartAt s u
  if x.tx.length < 256 then
    noteConds [.uart u] s (updUart u (fun x =>
      if x.sending.isNone then { x with sending := some b } else { x with tx := x.tx ++ [b] }) s)
  else updUart u (fun x => { x with txOvr := satInc x.txOvr }) s

/-- UART_BYTE_SENT: the character has left, and the next goes on the line. -/
def uartSent (u : Fin 8) (s : State) : State :=
  match (uartAt s u).sending with
  | none => s
  | some b =>
    noteConds [.uart u] s (send (.uart u (uartChar (uartAt s u) b)) (bump (.uart u) 0x10 1 (updUart u (fun x => { x with
      sending := x.tx.head?, tx := x.tx.tail }) s)))

/-- A read of UART_DATA removes the next byte; a latched UART's reads 0. -/
def uartRead (u : Fin 8) (s : State) : State :=
  let x := uartAt s u
  if x.latched then answer 0 s
  else noteConds [.uart u] s (answer ((x.rx.headD 0).setWidth 32) (updUart u (fun x => { x with rx := x.rx.tail }) s))

/-- A read of UART_MARK_NS latches the seconds and removes the oldest entry. -/
def uartMarkRead (u : Fin 8) (w : Requester) (s : State) : State :=
  let t : Instant := (uartAt s u).marks.headD {}
  answer (t.ns.setWidth 32) (latchPut w (.uart u) 0x118 (bits t.sec 0 32)
    (updUart u (fun x => { x with marks := x.marks.tail }) s))

/-- The receive latch of a UART at its sample instant. -/
def uartLatch (u : Fin 8) (s : State) : State :=
  updUart u (fun x => { x with
    latch := memWrite x.latch 0 (bytesOf 4 (num x.since.length 0 ||| flag x.lost 12).toNat ++ bytesOf 4 0 ++ bytesOf 8 (nowNs s) ++
      List.replicate 112 0 ++ takePad latchBytes x.since)
    since := [], lost := false }) s

/-! ### The commands -/

/-- CAN_FRAME_RECEIVE. -/
def execCanFrameReceive (c : Fin 16) (f : CanFrame) (sofAgo : Nat) (s : State) : Out := .next (canReceive c f sofAgo s)
/-- CAN_FRAME_END. -/
def execCanFrameEnd (c : Fin 16) (how : CanTxEnd) (sofAgo : Nat) (s : State) : Out := .next (canEnd c how sofAgo s)
/-- CAN_ERROR. -/
def execCanError (c : Fin 16) (tec : BitVec 9) (rec_ : BitVec 8) (s : State) : Out := .next (canErr c tec rec_ s)
/-- BUSOFF_RECOVERY_END. -/
def execBusoffRecoveryEnd (c : Fin 16) (s : State) : Out := .next (canRecover c s)
/-- CAN_START. -/
def execCanStart (q : Req) (c : Fin 16) (s : State) : Out := .next (onPage q (.can c) (canMode c .normal) s)
/-- CAN_LISTEN. -/
def execCanListen (q : Req) (c : Fin 16) (s : State) : Out := .next (onPage q (.can c) (canMode c .listen) s)
/-- CAN_DETECT. -/
def execCanDetect (q : Req) (c : Fin 16) (s : State) : Out := .next (onPage q (.can c) (canDetectCmd c) s)
/-- CAN_STOP. -/
def execCanStop (q : Req) (c : Fin 16) (s : State) : Out := .next (onPage q (.can c) (canMode c .off) s)
/-- DETECT_CANDIDATE_TIMEOUT. -/
def execDetectCandidateTimeout (c : Fin 16) (s : State) : Out :=
  .next (candidateEnds c s)
/-- DETECT_TIMEOUT. -/
def execDetectTimeout (c : Fin 16) (s : State) : Out := .next (detectFails c s)
/-- CAN_TX_REQ. -/
def execCanTxReq (q : Req) (c : Fin 16) (buf : Fin 64) (s : State) : Out := .next (onPage q (.can c) (canReq c buf) s)
/-- CAN_TX_CANCEL. -/
def execCanTxCancel (q : Req) (c : Fin 16) (buf : Fin 64) (s : State) : Out := .next (onPage q (.can c) (canCancel c buf) s)
/-- CAN_MB_SEL_WRITE. -/
def execCanMbSelWrite (q : Req) (c : Fin 16) (buf : Fin 64) (lock : Bool) (s : State) : Out :=
  .next (onPage q (.can c) (canSelect c buf lock) s)
/-- CAN_MB_WRITE. -/
def execCanMbWrite (q : Req) (c : Fin 16) (word : Fin 32) (val : Word) (s : State) : Out :=
  .next (onPage q (.can c) (canPoke c word val) s)
/-- CAN_SLOT_REQUEST. -/
def execCanSlotRequest (c : Fin 16) (buf : Fin 64) (s : State) : Out := .next (canSlot c buf s)
/-- UART_BYTE_RECEIVE. -/
def execUartByteReceive (u : Fin 8) (byte : Byte) (err : UartErr) (startAgo : Nat) (s : State) : Out :=
  .next (uartReceive u byte err startAgo s)
/-- UART_DATA_WRITE. -/
def execUartDataWrite (q : Req) (u : Fin 8) (byte : Byte) (s : State) : Out := .next (onPage q (.uart u) (uartWrite u byte) s)
/-- UART_DATA_READ. -/
def execUartDataRead (q : Req) (u : Fin 8) (s : State) : Out := .next (onPage q (.uart u) (uartRead u) s)
/-- UART_MARK_READ. -/
def execUartMarkRead (q : Req) (u : Fin 8) (s : State) : Out := .next (onPage q (.uart u) (uartMarkRead u q.who) s)
/-- UART_BYTE_SENT. -/
def execUartByteSent (u : Fin 8) (s : State) : Out := .next (uartSent u s)

end Sys2Proof.Machine
end

