-- ==== Sys2Proof/Machine/EngineFloat.lean ====
section
/-! DEFINITION. The binary32 instructions of the engine (Table 3.6, R79). -/
namespace Sys2Proof.Machine

/-- FADD. -/
def execFadd (e : EngRef) (rd ra rb : Reg) (s : State) : Out :=
  .next (runAlu e (encR 0x02 0x001 rd ra rb) (fun g => setFloat rd (b32.add (fmodeOf g) (getReg g ra).toNat (getReg g rb).toNat) g) s)

/-- FSUB. -/
def execFsub (e : EngRef) (rd ra rb : Reg) (s : State) : Out :=
  .next (runAlu e (encR 0x02 0x002 rd ra rb) (fun g => setFloat rd (b32.sub (fmodeOf g) (getReg g ra).toNat (getReg g rb).toNat) g) s)

/-- FMUL. -/
def execFmul (e : EngRef) (rd ra rb : Reg) (s : State) : Out :=
  .next (runAlu e (encR 0x02 0x003 rd ra rb) (fun g => setFloat rd (b32.mul (fmodeOf g) (getReg g ra).toNat (getReg g rb).toNat) g) s)

/-- FDIV. -/
def execFdiv (e : EngRef) (rd ra rb : Reg) (s : State) : Out :=
  .next (runAlu e (encR 0x02 0x004 rd ra rb) (fun g => setFloat rd (b32.div (fmodeOf g) (getReg g ra).toNat (getReg g rb).toNat) g) s)

/-- FSQRT. -/
def execFsqrt (e : EngRef) (rd ra : Reg) (s : State) : Out :=
  .next (runAlu e (encR 0x02 0x005 rd ra 0) (fun g => setFloat rd (b32.sqrt (fmodeOf g) (getReg g ra).toNat) g) s)

/-- FMA: rd = rd + ra * rb, rounded once. -/
def execFma (e : EngRef) (rd ra rb : Reg) (s : State) : Out :=
  .next (runAlu e (encR 0x02 0x006 rd ra rb) (fun g => setFloat rd (b32.fma (fmodeOf g) (getReg g rd).toNat (getReg g ra).toNat (getReg g rb).toNat) g) s)

/-- FMIN: minimumNumber. -/
def execFmin (e : EngRef) (rd ra rb : Reg) (s : State) : Out :=
  .next (runAlu e (encR 0x02 0x007 rd ra rb) (fun g => setFloat rd (b32.minmax (fmodeOf g) false (getReg g ra).toNat (getReg g rb).toNat) g) s)

/-- FMAX: maximumNumber. -/
def execFmax (e : EngRef) (rd ra rb : Reg) (s : State) : Out :=
  .next (runAlu e (encR 0x02 0x008 rd ra rb) (fun g => setFloat rd (b32.minmax (fmodeOf g) true (getReg g ra).toNat (getReg g rb).toNat) g) s)

/-- FABS: bit 31 cleared; no flag. -/
def execFabs (e : EngRef) (rd ra : Reg) (s : State) : Out :=
  .next (runAlu e (encR 0x02 0x009 rd ra 0) (fun g => setReg rd (getReg g ra &&& 0x7FFFFFFF) g) s)

/-- FNEG: bit 31 inverted; no flag. -/
def execFneg (e : EngRef) (rd ra : Reg) (s : State) : Out :=
  .next (runAlu e (encR 0x02 0x00A rd ra 0) (fun g => setReg rd (getReg g ra ^^^ 0x80000000) g) s)

/-- FEQ. -/
def execFeq (e : EngRef) (rd ra rb : Reg) (s : State) : Out :=
  .next (runAlu e (encR 0x02 0x00B rd ra rb) (fun g => setTest rd (b32.eq (fmodeOf g) (getReg g ra).toNat (getReg g rb).toNat) g) s)

/-- FLT. -/
def execFlt (e : EngRef) (rd ra rb : Reg) (s : State) : Out :=
  .next (runAlu e (encR 0x02 0x00C rd ra rb) (fun g => setTest rd (b32.cmp (fmodeOf g) false (getReg g ra).toNat (getReg g rb).toNat) g) s)

/-- FLE. -/
def execFle (e : EngRef) (rd ra rb : Reg) (s : State) : Out :=
  .next (runAlu e (encR 0x02 0x00D rd ra rb) (fun g => setTest rd (b32.cmp (fmodeOf g) true (getReg g ra).toNat (getReg g rb).toNat) g) s)

/-- FTOI. -/
def execFtoi (e : EngRef) (rd ra : Reg) (s : State) : Out :=
  .next (runAlu e (encR 0x02 0x00E rd ra 0) (fun g => addFlags (b32.toInt (fmodeOf g) (getReg g ra).toNat).2 (setReg rd (b32.toInt (fmodeOf g) (getReg g ra).toNat).1 g)) s)

/-- ITOF. -/
def execItof (e : EngRef) (rd ra : Reg) (s : State) : Out :=
  .next (runAlu e (encR 0x02 0x00F rd ra 0) (fun g => setFloat rd (b32.ofInt (fmodeOf g) (getReg g ra).toInt) g) s)

end Sys2Proof.Machine
end

