-- ==== Sys2Proof/Machine/EngineFlow.lean ====
section
/-! DEFINITION. Loads, stores, branches, jumps, loops, HALT, TRAP and the illegal encoding (R69 to R77). -/
namespace Sys2Proof.Machine

/-- A load (R69, R70, R77): the bytes at the effective address, extended by `ext`; with `post` the base then moves, and rt keeps
the loaded value where it is the base. -/
def loadOp (ext : Nat → Nat → Word) (rt base : Reg) (size : BitVec 2) (post : Bool) (off : BitVec 13) (g : Engine) : Eff :=
  let a := effAddr g base post off
  let n := sizeBytes size
  if loadOk g a.toNat n then
    .next (setReg rt (ext n (ofBytes (memRead (curHalf g).mem a.toNat n))) (postInc base post off (getReg g base) g))
  else .xcpt xAccess a 0

/-- Sign extension of an `n`-byte value. -/
def extSigned (n v : Nat) : Word := (BitVec.ofNat (8 * n) v).signExtend 32

/-- Zero extension of an `n`-byte value. -/
def extZero (_n v : Nat) : Word := BitVec.ofNat 32 v

/-- A store: the low bytes of rt, as it was before the instruction, at the effective address. -/
def storeOp (rt base : Reg) (size : BitVec 2) (post : Bool) (off : BitVec 13) (g : Engine) : Eff :=
  let a := effAddr g base post off
  let n := sizeBytes size
  if storeOk g a.toNat n then
    .next (postInc base post off (getReg g base)
      (updHalf (fun h => { h with mem := memWrite h.mem a.toNat (bytesOf n (getReg g rt).toNat) }) g))
  else .xcpt xAccess a 0

/-- A branch: taken when `c` holds of ra and rb. -/
def branchOp (c : Word → Word → Bool) (ra rb : Reg) (disp : BitVec 16) (g : Engine) : Eff :=
  .jump g (if c (getReg g ra) (getReg g rb) then some (destB g disp) else none)

/-- A loop instruction with its count, in the order of the checks of R75. An end instruction outside the code part has no kind to check;
FETCH follows when control reaches it (DEDUCED, log entry 99). -/
def loopOp (count : Word) (bound : Option Word) (endOff : BitVec 10) (g : Engine) : Eff :=
  let last := g.pc + 4 * (endOff.setWidth 32 + 1)
  if 2 ≤ g.loops.length then .xcpt xLoopNest 0 0
  else if (codeWord g last).elim false isControl then .xcpt xIllegal 0 0
  else if g.loops.any fun l => decide (l.last ≤ last) then .xcpt xLoopNest 0 0
  else if bound.elim false fun b => decide (b < count) then .xcpt xLoopBound count 0
  else if count = 0 then .skip g (last + 4)
  else .next { g with loops := g.loops ++ [⟨g.pc + 4, last, count⟩] }

/-- LD: sign-extended load. -/
def execLd (e : EngRef) (rt base : Reg) (size : BitVec 2) (post : Bool) (off : BitVec 13) (s : State) : Out :=
  .next (runWord e (encM 0x18 rt base size post off) (fun _ g => loadOp extSigned rt base size post off g) s)

/-- LDU: zero-extended load. -/
def execLdu (e : EngRef) (rt base : Reg) (size : BitVec 2) (post : Bool) (off : BitVec 13) (s : State) : Out :=
  .next (runWord e (encM 0x19 rt base size post off) (fun _ g => loadOp extZero rt base size post off g) s)

/-- ST. -/
def execSt (e : EngRef) (rt base : Reg) (size : BitVec 2) (post : Bool) (off : BitVec 13) (s : State) : Out :=
  .next (runWord e (encM 0x1A rt base size post off) (fun _ g => storeOp rt base size post off g) s)

/-- BEQ. -/
def execBeq (e : EngRef) (ra rb : Reg) (disp : BitVec 16) (s : State) : Out :=
  .next (runWord e (encB 0x20 ra rb disp) (fun _ g => branchOp (fun a b => a == b) ra rb disp g) s)

/-- BNE. -/
def execBne (e : EngRef) (ra rb : Reg) (disp : BitVec 16) (s : State) : Out :=
  .next (runWord e (encB 0x21 ra rb disp) (fun _ g => branchOp (fun a b => a != b) ra rb disp g) s)

/-- BLT, signed. -/
def execBlt (e : EngRef) (ra rb : Reg) (disp : BitVec 16) (s : State) : Out :=
  .next (runWord e (encB 0x22 ra rb disp) (fun _ g => branchOp (BitVec.slt) ra rb disp g) s)

/-- BGE, signed. -/
def execBge (e : EngRef) (ra rb : Reg) (disp : BitVec 16) (s : State) : Out :=
  .next (runWord e (encB 0x23 ra rb disp) (fun _ g => branchOp (fun a b => !a.slt b) ra rb disp g) s)

/-- BLTU. -/
def execBltu (e : EngRef) (ra rb : Reg) (disp : BitVec 16) (s : State) : Out :=
  .next (runWord e (encB 0x24 ra rb disp) (fun _ g => branchOp (BitVec.ult) ra rb disp g) s)

/-- BGEU. -/
def execBgeu (e : EngRef) (ra rb : Reg) (disp : BitVec 16) (s : State) : Out :=
  .next (runWord e (encB 0x25 ra rb disp) (fun _ g => branchOp (fun a b => !a.ult b) ra rb disp g) s)

/-- JR: jump to ra, with a delay slot. -/
def execJr (e : EngRef) (ra : Reg) (s : State) : Out :=
  .next (runWord e (encR 0x3F 0x007 0 ra 0) (fun _ g => .jump g (some (getReg g ra))) s)

/-- JMP. -/
def execJmp (e : EngRef) (disp : BitVec 26) (s : State) : Out :=
  .next (runWord e (encJ 0x28 disp) (fun _ g => .jump g (some (destJ g disp))) s)

/-- CALL: G31 = address + 8, then jump. -/
def execCall (e : EngRef) (disp : BitVec 26) (s : State) : Out :=
  .next (runWord e (encJ 0x29 disp) (fun _ g => .jump (setReg 31 (g.pc + 8) g) (some (destJ g disp))) s)

/-- LOOP: the count is rs, bounded by cnt. -/
def execLoop (e : EngRef) (rs : Reg) (endOff cnt : BitVec 10) (s : State) : Out :=
  .next (runWord e (encL 0x30 rs endOff cnt) (fun _ g => loopOp (getReg g rs) (some (cnt.setWidth 32)) endOff g) s)

/-- LOOPI: the count is cnt. -/
def execLoopi (e : EngRef) (endOff cnt : BitVec 10) (s : State) : Out :=
  .next (runWord e (encL 0x31 0 endOff cnt) (fun _ g => loopOp (cnt.setWidth 32) none endOff g) s)

/-- HALT: every store is complete, and the step ends. -/
def execHalt (e : EngRef) (s : State) : Out :=
  .next (runWord e (encR 0x3F 0x001 0 0 0) (fun _ _ => .halt) s)

/-- TRAP: raises TRAP with its code. -/
def execTrap (e : EngRef) (code : BitVec 5) (s : State) : Out :=
  .next (runWord e (encR 0x3F 0x008 0 0 code) (fun _ _ => .xcpt xTrap 0 code) s)

/-- An engine reaches a word that is no instruction of Table 3.6, has an unused field that is not 0, or breaches R73 (R77). -/
def illegalStep (e : EngRef) (s : State) : State :=
  let g := engineAt s e
  if g.run.isNone then s else
  match codeWord g g.pc with
  | none => instrX e xFetch g.pc 0 s
  | some w => if !legalWord w || (g.delay.isSome && isControl w) then instrX e xIllegal 0 0 s else s

/-- ILLEGAL_ENCODING. -/
def execIllegalEncoding (e : EngRef) (s : State) : Out := .next (illegalStep e s)

end Sys2Proof.Machine
end

