-- ==== Sys2Proof/Machine/Supervisor.lean ====
section
/-! DEFINITION. Supervisor cores, interrupt controller, mailboxes, power domains, host link state and performance counters (Ch. 13). -/
namespace Sys2Proof.Machine

/-- Change the supervisor page and interrupt controller. -/
def updSuper (f : Super → Super) (s : State) : State := { s with super := f s.super }

/-- Change a mailbox channel. -/
def updMail (ch : Fin 32) (f : Mailbox → Mailbox) (s : State) : State := { s with mail := Vec.upd s.mail ch f }

/-- Change the host-link endpoint. -/
def updHost (f : HostLink → HostLink) (s : State) : State := { s with host := f s.host }

/-! ### Watchdogs (R329, R177) -/

/-- The requester a core is. -/
def coreReq (c : Fin 4) : Requester := if c = 0 then .s0 else if c = 1 then .s1 else if c = 2 then .s2 else .s3

/-- The live core with the lowest number. -/
def firstLive (s : State) : Option (Fin 4) := (List.finRange 4).find? fun c => s.super.live.getLsbD c.val

/-- A core writes the watchdog key: its watchdog runs anew for its period. -/
def wdogKick (w : Requester) (key : Byte) (s : State) : State :=
  match coreOf w with
  | some c =>
    if key = 0xC3 then updSuper (fun x => { x with
      live := setBit x.live c.val true, wdogNs := Vec.put x.wdogNs c (localNs s + 1000000 * x.wdogMs.toNat) }) s
    else s
  | none => s

/-- The status that the last-resort sequencer sends from now on. -/
def fixStatus (s : State) : State := updTrio (fun t => { t with fixed := some { liveStatus s with forces := [], refused := [] } }) s

/-- The last-resort sequencer (R177): the controller stops, outputs take their safe values, and every later status is a fixed one with
GAVE_UP and cause LAST_RESORT. -/
def lastResort (s : State) : State :=
  let (w, s) := drawFree 8 (urgent 511 s)
  let s := recordEvent .supervisor (0x80 + w.toNat % 128) none 7 .unstated s
  if inTrio s then
    fixStatus (if s.trio.gaveUp then
      (let s := updTrio (fun t => { t with cause := 0x0D }) s
       if s.run.state == .stopped then s else stopController .stopped false false s)
    else giveUp 0x0D s)
  else if s.run.state == .stopped then s else stopController .stopped false false s

/-- A core watchdog expires at the end of its period: the core is reset and not live, its sources go to the live core with the lowest
number. -/
def wdogExpires (c : Fin 4) (s : State) : State :=
  if !s.super.live.getLsbD c.val then s else
  let s := reachLocal (Vec.at s.super.wdogNs c) s
  let s := updSuper (fun x => { x with
    live := setBit x.live c.val false, timerIrq := setBit x.timerIrq c.val false }) s
  let s := match firstLive s with
    | some d => updSuper (fun x => { x with route := x.route.map fun r => if r.toNat = c.val then BitVec.ofNat 2 d.val else r }) s
    | none => s
  let s := raiseUrgent .supervisor 1 501 none .unstated s
  if s.super.live = 0 then lastResort s else s

/-! ### Partition windows (R330) -/

/-- The windows of a core. -/
def coreWindows (s : State) (c : Fin 4) : List PartWindow := s.run.active.elim [] fun a => Vec.at a.windows c

/-- The tag of window `w` of a core. -/
def windowTag (ws : List PartWindow) (w : Nat) : Tag :=
  match (ws[w]?).bind fun x => x.owner with
  | some t => ⟨t, false, BitVec.ofNat 4 w⟩
  | none => ⟨0, true, BitVec.ofNat 4 w⟩

/-- The next window of a core: its number and the start of its period. -/
def windowAhead (s : State) (c : Fin 4) : Nat × Nat :=
  let w := (Vec.at s.super.tags c).window.toNat + 1
  let t := Vec.at s.super.partFrom c
  if w < (coreWindows s c).length then (w, t) else (0, t + 1000 * s.super.period.toNat)

/-- A window boundary is reached on the schedule clock: the tag becomes that of the next window and the timer interrupt is raised. -/
def nextWindow (c : Fin 4) (s : State) : State :=
  let ws := coreWindows s c
  if ws.isEmpty || !s.sched.running then s else
  let x := windowAhead s c
  let s := reach (x.2 + 1000 * (ws[x.1]?.elim 0 fun w => w.startUs)) s
  updSuper (fun y => { y with
    tags := Vec.put y.tags c (windowTag ws x.1), partFrom := Vec.put y.partFrom c x.2, timerIrq := setBit y.timerIrq c.val true }) s

/-- A period starts now, with every core in its first window: at the first round, and at an exchange that brings other windows
(DESIGN CHOICE, log entry 105). -/
def startWindows (s : State) : State :=
  updSuper (fun x => { x with
    tags := Vector.ofFn fun c : Fin 4 => windowTag (coreWindows s c) 0, partFrom := Vector.replicate 4 (schedNow s) }) s

/-! ### Interrupt controller (R332 to R336) -/

/-- The page whose source is number `n`, if one is. -/
def sourcePage (n : Nat) : Option Page :=
  if n = 0 then none else (controlPages ++ securePages).find? fun pg => pgSource pg == n

/-- Is source `n` asserted (R333, R336, Table 17.7)? -/
def srcAsserted (s : State) (n : Nat) : Bool :=
  if 496 ≤ n then s.super.urgent.getLsbD (n - 496)
  else if h : 64 ≤ n ∧ n < 96 then
    let m := Vec.at s.mail ⟨n - 64, by omega⟩
    m.receiver == 0 && m.full
  else match sourcePage n with
    | some pg => pgPresent s.part pg && pgAsserted s pg
    | none => false

/-- Is source `n` enabled? Urgent sources always are. -/
def srcEnabled (s : State) (n : Nat) : Bool := 496 ≤ n || s.super.enable.getLsbD n

/-- The core source `n` is routed to. -/
def srcCore (s : State) (n : Nat) : BitVec 2 := s.super.route[n]?.getD 0

/-- IRQ_TOPc (R334). -/
def irqTop (s : State) (c : Fin 4) : Nat :=
  ((List.range 512).reverse.find? fun n => srcAsserted s n && srcEnabled s n && (srcCore s n).toNat == c.val).getD 0

/-- The request line of a core (R334, R335). -/
def irqLine (s : State) (c : Fin 4) : Bool :=
  let n := irqTop s c
  decide ((Vec.at s.super.thr c).toNat < n) && (496 ≤ n || !s.super.hold)

/-! ### Power domains (R341 to R343) -/

/-- The tile index of a domain. -/
def domTile (d : Fin 8) : Nat := d.val

/-- A domain's state. -/
def pdAt (s : State) (d : Fin 8) : PdState := Vec.at s.super.pd d

/-- A domain changes its state: PD is raised. -/
def setPd (d : Fin 8) (p : PdState) (s : State) : State :=
  raise .supervisor 0 none .unstated (updSuper (fun x => { x with pd := Vec.put x.pd d p }) s)

/-- The domain of a mailbox agent code (Table 13.4). -/
def agentDom (code : BitVec 4) : Fin 8 :=
  if h : 3 ≤ code.toNat ∧ code.toNat ≤ 8 then ⟨code.toNat - 2, by omega⟩ else if code = 9 then 7 else 0

/-- The channels whose receiver lies in a domain. -/
def domChannels (s : State) (d : Fin 8) : List (Fin 32) :=
  (List.finRange 32).filter fun ch => (Vec.at s.mail ch).receiver != 0xF && agentDom (Vec.at s.mail ch).receiver == d

/-- A reset of a Crest tile: registers, contexts, and its 8 MiB of memory (R409). -/
def resetCrest (c : Fin 6) (s : State) : State :=
  let s := (crestPages c).foldl (fun s pg => updHdr pg (fun _ => {}) s) s
  let s := dropLatches (fun pg => (crestPages c).contains pg) s
  updPool (fun m => memClear m (c.val * 0x800000) 0x800000) (updCrest c (fun _ => {}) s)

/-- A domain start resets its tile (R342, R343), and every message of the domain is 0. -/
def pdStart (d : Fin 8) (s : State) : State :=
  let s := updSuper (fun x => { x with pdFail := setBit x.pdFail d.val false, pdRestart := setBit x.pdRestart d.val false }) s
  let s := match crest? (d.val - 1) with
    | some c => if d.val = 0 then s else resetCrest c s
    | none => s
  let s := if d = 7 && fieldLive s then resetFoothill false s else s
  let s := (domChannels s d).foldl (fun s ch => updMail ch (fun m => { m with msg := Vector.replicate 16 0 }) s) s
  setPd d .starting s

/-- Result of a power-domain command. -/
def pdCode (c : Byte) (s : State) : State := updSuper (fun x => { x with pdCode := c }) s

/-- UP (R341). -/
def cmdPdUp (d : Fin 8) (s : State) : State :=
  if d = 0 then pdCode 0xB3 s
  else if !s.part.hasTile (domTile d) then pdCode 0xB6 s
  else
    let s := pdCode 0 s
    match pdAt s d with
    | .off => pdStart d s
    | .stopping => updSuper (fun x => { x with pdRestart := setBit x.pdRestart d.val true }) s
    | _ => s

/-- DOWN (R341). -/
def cmdPdDown (d : Fin 8) (s : State) : State :=
  if d = 0 then pdCode 0xB3 s
  else if d = 7 && !s.part.hasField then pdCode 0xB6 s
  else if s.run.state != .stopped then pdCode 0xB4 s
  else if (domChannels s d).any fun ch => (Vec.at s.mail ch).full then pdCode 0xB5 s
  else if !s.part.hasTile (domTile d) then pdCode 0xB6 s
  else
    let s := pdCode 0 s
    match pdAt s d with
    | .on | .starting => setPd d .stopping s
    | _ => s

/-- A start fails: OFF with FAIL, and the pending doorbells toward the domain are cleared. -/
def pdFails (d : Fin 8) (s : State) : State :=
  let s := updSuper (fun x => { x with pdFail := setBit x.pdFail d.val true }) s
  setPd d .off ((domChannels s d).foldl (fun s ch =>
    updMail ch (fun m => if m.pending then { m with pending := false, full := false } else m) s) s)

/-- A Crest tile's self-test has ended: the engines that failed are retired (R100). A retirement is an event of the tile, so RETIRED is raised with
its record (DESIGN CHOICE, log entry 102). Up to two leave the tile ready; more, or its memory, fail the test and the domain with it (R342). -/
def testEnds (failed : BitVec 18) (memBad : Bool) (c : Fin 6) (s : State) : State :=
  let s := updCrest c (fun x => { x with retired := failed }) s
  let s := if failed = 0 then s else raise (.engine c) 3 none .unstated s
  if 2 < popcount failed || memBad then pdFails ⟨c.val + 1, by omega⟩ s
  else
    setPd ⟨c.val + 1, by omega⟩ .on
      (updCrest c (fun x => { x with switch := { x.switch with up := s.part.usedPorts (c.val + 1) } }) s)

/-- A start ends (R342). `pass` is the steward's verdict and `failed` the engines of a Crest tile that failed: up to two are retired,
and more fail the self-test as at start-up (R100; log entry 102). PD_FIELD comes ON only over a link that has trained (R343). -/
def pdStarted (d : Fin 8) (pass : Bool) (failed : BitVec 18) (s : State) : State :=
  if pdAt s d != .starting then s
  else if !pass then pdFails d s
  else if h : 1 ≤ d.val ∧ d.val ≤ 6 then
    testEnds failed false ⟨d.val - 1, by omega⟩ s
  else if d = 7 && !s.field.linkUp then pdFails d s
  else setPd d .on s

/-- A stop ends: OFF, and started again where a waking doorbell or an UP waits. PD_FIELD is OFF once its link is quiet, 200 us after the command
at the latest, so that Foothill is ALONE by then (R343). -/
def pdStopped (d : Fin 8) (s : State) : State :=
  if pdAt s d != .stopping then s else
  let s := setPd d .off (if d = 7 then linkTimeout s else s)
  if s.super.pdRestart.getLsbD d.val then pdStart d s else s

/-! ### Host link (R344 to R349) -/

/-- May a doorbell of channel `ch` be sent to the host now? -/
def hostTakes (s : State) (ch : Fin 32) : Bool :=
  s.host.link == .l0 && s.host.bme && !s.host.pmeOff && !s.host.masked.getLsbD ch.val

/-- Is a doorbell held for the host? -/
def hostHeld (s : State) (ch : Fin 32) : Bool := (Vec.at s.mail ch).receiver == 1 && (Vec.at s.mail ch).pending

/-- WAKE_N goes low in L2, or while HOST_PERST_N is asserted, when a doorbell is held. -/
def hostWake (s : State) : State :=
  if (s.host.link == .l2 || s.host.perst) && (List.finRange 32).any (hostHeld s) then updHost (fun x => { x with wake := true }) s else s

/-- A host-link event: one message as vector 16 (Table 13.6), which waits as a doorbell does while it cannot be sent (log entry 117). -/
def hostEvent (s : State) : State :=
  if hostTakes s 16 then send (.msix 16) (bump .hostLink 0x12 1 s) else updHost (fun x => { x with eventDue := true }) s

/-- The link enters L0. -/
def hostInL0 (f : HostLink → HostLink) (s : State) : State :=
  let t := noteConds [.hostLink] s (updHost (fun x => f { x with link := .l0 }) s)
  if s.host.link == .l0 then t else hostEvent t

/-- A doorbell goes to the host: sent as its vector, or held. In L1 the device brings the link back to L0. -/
def ringHost (ch : Fin 32) (s : State) : State :=
  let s := if s.host.link == .l1 then hostInL0 id s else s
  if hostTakes s ch then
    send (.msix ch) (bump .hostLink 0x12 1 (updMail ch (fun m => { m with pending := false }) s))
  else hostWake (updMail ch (fun m => { m with pending := true }) s)

/-- The held doorbells are sent in ascending channel order (R347), then a host-link event that waits. -/
def sendHeld (s : State) : State :=
  let s := (List.finRange 32).foldl (fun s ch => if hostHeld s ch && hostTakes s ch then ringHost ch s else s) s
  if s.host.eventDue && hostTakes s 16 then hostEvent (updHost (fun x => { x with eventDue := false }) s) else s

/-- HOST_PERST_N: asserted it resets the endpoint and nothing else, its page and the latches of that page with it (R345, R425); released it
releases WAKE_N and raises PERST. -/
def hostReset (on : Bool) (s : State) : State :=
  if on then
    let t := { s with host := { perst := true, wake := s.host.wake, nextRun := s.host.nextRun } }
    hostWake (noteConds [.hostLink] s (dropLatches (· == .hostLink) (updHdr .hostLink (fun _ => {}) t)))
  else if s.host.perst then
    hostEvent (raise .hostLink 1 none .unstated (updHost (fun x => { x with perst := false, wake := false }) s))
  else s

/-- The first training set received: WAKE_N is released within 1 us (R348). -/
def hostTrains (s : State) : State :=
  if s.host.perst then s
  else noteConds [.hostLink] s (updHost (fun x => { x with wake := false, link := .training, pmeOff := false }) s)

/-- Is a message held for the host that L0 would let out? -/
def hostWaits (s : State) : Bool :=
  s.host.bme && ((s.host.eventDue && !s.host.masked.getLsbD 16) || (List.finRange 32).any fun ch => hostHeld s ch && !s.host.masked.getLsbD ch.val)

/-- The link is up with the host's settings, in L0 or in L1; in L1 the device brings it back to L0 where a message waits (R347). -/
def hostUp (bme : Bool) (masked : Word) (width rate : BitVec 3) (power : HostPower) (s : State) : State :=
  let put (x : HostLink) : HostLink := { x with
    bme := bme, masked := masked, width := width, rate := rate, wake := false, pmeOff := false, d3hot := power == .d3hot }
  if s.host.perst then s
  else if power == .l0 || hostWaits (updHost put s) then sendHeld (hostInL0 put s)
  else noteConds [.hostLink] s (updHost (fun x => put { x with link := .l1 }) s)

/-- The link reaches L2. -/
def hostDown (s : State) : State :=
  if s.host.perst then s else hostWake (noteConds [.hostLink] s (updHost (fun x => { x with link := .l2, pmeOff := false }) s))

/-- PME_Turn_Off is answered and the link enters L2/L3 Ready (R349). -/
def turnOff (s : State) : State :=
  if s.host.perst || s.host.link != .l0 then s
  else raise .hostLink 2 none .unstated (send .pmeToAck (updHost (fun x => { x with pmeOff := true }) (hostEvent s)))

/-! ### Mailboxes (R337 to R340) -/

/-- The code of an agent. -/
def agentCode : Agent → BitVec 4
  | .supervisor _ _ => 0
  | .host => 1
  | .security => 2
  | .steward c => BitVec.ofNat 4 (c.val + 3)
  | .foothill => 9

/-- May an agent reach a channel's page at all: the secure page takes machine mode or the security core, and no other access (R328)? -/
def agentReaches (a : Agent) (ch : Fin 32) : Bool :=
  ch.val < 16 ||
  (match a with
   | .supervisor _ m => m
   | .security => true
   | .host | .steward _ | .foothill => false)

/-- The page of a channel. -/
def mailPage (ch : Fin 32) : Page := if ch.val < 16 then .mailbox else .secMailbox

/-- The requester an agent's access comes from; a steward and Foothill are none of R425, and answer as the host does. -/
def agentReq : Agent → Requester
  | .supervisor c _ => coreReq c
  | .security => .security
  | .host | .steward _ | .foothill => .host

/-- An agent's access to a channel: carried out when it may, else an error response. -/
def onMail (a : Agent) (ch : Fin 32) (ok : Bool) (f : State → State) (s : State) : State :=
  if agentReaches a ch && ok && !(s.upd.recovery && a == .host) then f (bump (mailPage ch) 2 1 { s with resp := .done })
  else refuse (agentReq a) (some (mailPage ch)) s

/-- A doorbell is delivered to its receiver (R340). -/
def deliver (ch : Fin 32) (s : State) : State :=
  if (Vec.at s.mail ch).receiver == 1 then ringHost ch s else updMail ch (fun m => { m with pending := false }) s

/-- The outcome of RING (Table 13.5). -/
def ringChannel (ch : Fin 32) (code : BitVec 16) (wake : Bool) (s : State) : State :=
  let m := Vec.at s.mail ch
  let d := agentDom m.receiver
  let hold (s : State) : State := updMail ch (fun m => { m with full := true, pending := true, code := code, result := 0 }) s
  if m.full then updMail ch (fun m => { m with result := 0xB0 }) s
  else match pdAt s d with
    | .on => deliver ch (updMail ch (fun m => { m with full := true, code := code, result := 0 }) s)
    | .starting => hold s
    | .off =>
      if wake && s.part.hasTile (domTile d) then pdStart d (hold s) else updMail ch (fun m => { m with result := 0xB1 }) s
    | .stopping =>
      if wake then hold (updSuper (fun x => { x with pdRestart := setBit x.pdRestart d.val true }) s)
      else updMail ch (fun m => { m with result := 0xB1 }) s

/-- RING by an agent. -/
def mailRing (a : Agent) (ch : Fin 32) (code : BitVec 16) (wake : Bool) (s : State) : State :=
  onMail a ch ((Vec.at s.mail ch).sender == agentCode a) (ringChannel ch code wake) s

/-- ACK by an agent: FULL and PENDING clear and FREE is raised, or NOT_FULL. -/
def mailAck (a : Agent) (ch : Fin 32) (s : State) : State :=
  onMail a ch ((Vec.at s.mail ch).receiver == agentCode a) (fun s =>
    if (Vec.at s.mail ch).full then
      raise (mailPage ch) (ch.val % 16) none .unstated (updMail ch (fun m => { m with full := false, pending := false, result := 0 }) s)
    else updMail ch (fun m => { m with result := 0xB2 }) s) s

/-- A message word written by the sender while the channel is not FULL and its domain is ON (R338). -/
def mailWrite (a : Agent) (ch : Fin 32) (w : Fin 16) (v : Word) (s : State) : State :=
  let m := Vec.at s.mail ch
  onMail a ch (m.sender == agentCode a && !m.full && pdAt s (agentDom m.receiver) == .on)
    (updMail ch fun m => { m with msg := Vec.put m.msg w v }) s

/-- A pending doorbell is delivered once its receiver's domain is ON. -/
def doorbell (ch : Fin 32) (s : State) : State :=
  let m := Vec.at s.mail ch
  if m.pending && pdAt s (agentDom m.receiver) == .on then deliver ch s else s

/-! ### Performance counters (R350) -/

/-- FREEZE stops every counter of the device. -/
def pmuFreeze (on : Bool) (s : State) : State := updSuper (fun x => { x with freeze := on }) s

/-- CLEAR sets every counter of the device to 0. -/
def pmuClear (s : State) : State :=
  { s with hdrs := s.hdrs.map fun h => { h with cnt := Vector.replicate 4 0, clearTick := some s.tb.tick } }

/-! ### The commands -/

/-- WDOG_RESTART. -/
def execWdogRestart (q : Req) (key : Byte) (s : State) : Out := .next (onPage q .supervisor (wdogKick q.who key) s)
/-- WDOG_EXPIRE. -/
def execWdogExpire (core : Fin 4) (s : State) : Out := .next (wdogExpires core s)
/-- PARTITION_WINDOW_BOUNDARY. -/
def execPartitionWindowBoundary (core : Fin 4) (s : State) : Out := .next (nextWindow core s)
/-- MB_RING. -/
def execMbRing (a : Agent) (ch : Fin 32) (code : BitVec 16) (wake : Bool) (s : State) : Out := .next (mailRing a ch code wake s)
/-- MB_ACK. -/
def execMbAck (a : Agent) (ch : Fin 32) (s : State) : Out := .next (mailAck a ch s)
/-- MB_MSG_WRITE. -/
def execMbMsgWrite (a : Agent) (ch : Fin 32) (word : Fin 16) (val : Word) (s : State) : Out := .next (mailWrite a ch word val s)
/-- DOORBELL_DELIVER. -/
def execDoorbellDeliver (ch : Fin 32) (s : State) : Out := .next (doorbell ch s)
/-- PD_UP. -/
def execPdUp (q : Req) (d : Fin 8) (s : State) : Out := .next (onPage q .supervisor (cmdPdUp d) s)
/-- PD_DOWN. -/
def execPdDown (q : Req) (d : Fin 8) (s : State) : Out := .next (onPage q .supervisor (cmdPdDown d) s)
/-- PD_START_END. -/
def execPdStartEnd (d : Fin 8) (pass : Bool) (failed : BitVec 18) (s : State) : Out := .next (pdStarted d pass failed s)
/-- PD_STOP_END. -/
def execPdStopEnd (d : Fin 8) (s : State) : Out := .next (pdStopped d s)
/-- HOST_PERST. -/
def execHostPerst (asserted : Bool) (s : State) : Out := .next (hostReset asserted s)
/-- HOST_TRAINING_SET. -/
def execHostTrainingSet (s : State) : Out := .next (hostTrains s)
/-- HOST_LINK_L0. -/
def execHostLinkL0 (busMaster : Bool) (masked : BitVec 32) (width rate : BitVec 3) (power : HostPower) (s : State) : Out :=
  .next (hostUp busMaster masked width rate power s)
/-- HOST_LINK_L2. -/
def execHostLinkL2 (s : State) : Out := .next (hostDown s)
/-- PME_TURN_OFF. -/
def execPmeTurnOff (s : State) : Out := .next (turnOff s)
/-- PMU_FREEZE. -/
def execPmuFreeze (q : Req) (on : Bool) (s : State) : Out := .next (onPage q .supervisor (pmuFreeze on) s)
/-- PMU_CLEAR. -/
def execPmuClear (q : Req) (s : State) : Out := .next (onPage q .supervisor pmuClear s)

end Sys2Proof.Machine
end

