-- ==== Sys2Proof/Machine/Recorder.lean ====
section
/-! DEFINITION. The event recorder (Ch. 14): its regions, series, window, firmware records and spill. -/
namespace Sys2Proof.Machine

/-- Change the recorder. -/
def updRec (f : Recorder → Recorder) (s : State) : State := { s with recorder := f s.recorder }

/-- A region. -/
def regionAt (s : State) (r : Fin 9) : RecRegion := Vec.at s.recorder.regions r

/-- Change a region. -/
def updRegion (r : Fin 9) (f : RecRegion → RecRegion) (s : State) : State :=
  updRec (fun x => { x with regions := Vec.upd x.regions r f }) s

/-- The age of a sequence number: how many numbers ago it was assigned. -/
def seqAge (s : State) (q : BitVec 24) : Nat := (s.recorder.nextSeq - q).toNat

/-! ### Storing (R360 to R363) -/

/-- Is it the record of the region's open series? -/
def inSeries (g : RecRegion) (x : Rec) : Bool := g.series.elim false fun y => y.seq == x.seq

/-- The slot a full region gives up: the oldest record of a severity not above `sev` that holds no open series. -/
def victim (s : State) (g : RecRegion) (sev : BitVec 3) : Option Nat :=
  let may := (g.slots.zipIdx).filter fun x => decide (x.1.ev.sev ≤ sev) && !inSeries g x.1
  (may.foldl (fun (w : Option (Rec × Nat)) x => match w with
    | none => some x
    | some y => if seqAge s y.1.seq < seqAge s x.1.seq then some x else some y) none).map fun x => x.2

/-- The slot a new record takes: the next free one, else the one given up. -/
def slotFor (s : State) (g : RecRegion) (sev : BitVec 3) : Option Nat :=
  if g.slots.length < g.size then some g.slots.length else victim s g sev

/-- A record overwritten before it has been spilled is counted, with LOST (no record, R359). -/
def countLost (x : Option Rec) (s : State) : State :=
  if x.elim false fun y => !y.spilled then setRaw .recorder 1 (updRec (fun r => { r with lost := satInc r.lost }) s) else s

/-- A new record takes the next number and a slot of the region, and opens a series; without a slot it is dropped. -/
def putRec (r : Fin 9) (ev : EventIn) (t : Instant) (ep : BitVec 2) (s : State) : State :=
  let g := regionAt s r
  match slotFor s g ev.sev with
  | none => dropEvent r ev s
  | some i =>
    let x : Rec := { ev := ev, time := t, epoch := ep, seq := s.recorder.nextSeq, repeats := 0, toDevice := ev.tenant.isNone, spilled := false }
    let s := countLost g.slots[i]? s
    let s := updRegion r (fun g => { g with
      slots := g.slots.take i ++ x :: g.slots.drop (i + 1)
      series := some ⟨x.seq, localNs s, localNs s, t, ep, 0⟩ }) s
    bump .recorder 0x10 1 (updRec (fun y => { y with nextSeq := y.nextSeq + 1 }) s)

/-- The record of a series. -/
def seriesRec (g : RecRegion) : Option Rec := g.slots.find? (inSeries g)

/-- The REPEAT_ENDED record of a series (R362). -/
def repeatEnded (x : Rec) (y : Series) : EventIn :=
  { code := 0x2980, source := x.ev.source, sev := x.ev.sev, tenant := x.ev.tenant, recorder := true
    p0 := x.seq.setWidth 32, p1 := BitVec.ofNat 32 y.count, p2 := x.ev.code.setWidth 32 }

/-- The open series of a region ends; one with repeats writes REPEAT_ENDED. -/
def endSeries (r : Fin 9) (s : State) : State :=
  let g := regionAt s r
  let s' := updRegion r (fun g => { g with series := none }) s
  match g.series, seriesRec g with
  | some y, some x => if 0 < y.count then putRec r (repeatEnded x y) y.lastTime y.lastEpoch s' else s'
  | _, _ => s'

/-- Does an event repeat a record? -/
def sameEvent (a b : EventIn) : Bool := a.code == b.code && a.source == b.source && a.p0 == b.p0 && a.p1 == b.p1 && a.p2 == b.p2

/-- One second and ten seconds in nanoseconds. -/
def secNs : Nat := 1000000000

/-- Is an event the same record as that of the open series of a region? -/
def repeats (g : RecRegion) (ev : EventIn) : Bool := g.series.isSome && (seriesRec g).elim false fun x => sameEvent x.ev ev

/-- Has the open series ended by time: 1 s without a repeat, or a repeat that arrives 10 s or more after its start (R362)? -/
def seriesOver (g : RecRegion) (ev : EventIn) (now : Nat) : Bool :=
  g.series.elim false fun y => decide (y.lastNs + secNs ≤ now) || (repeats g ev && decide (y.startNs + 10 * secNs ≤ now))

/-- A repeat is counted in the newest record, which keeps its time (R362). -/
def countRepeat (r : Fin 9) (t : Instant) (ep : BitVec 2) (s : State) : State :=
  bump .recorder 0x11 1 (updRegion r (fun g => { g with
    slots := g.slots.map fun x => if inSeries g x then { x with repeats := satInc x.repeats } else x
    series := g.series.map fun y => { y with lastNs := localNs s, lastTime := t, lastEpoch := ep, count := y.count + 1 } }) s)

/-- DROPPED shows to the core that wrote a dropped firmware record (R366). -/
def fwDropped (ev : EventIn) (s : State) : State :=
  if ev.code.getLsbD 15 && bits ev.source 8 8 == 0xFF then
    updRec (fun r => { r with fw := Vec.upd r.fw ⟨ev.source.toNat % 4, Nat.mod_lt _ (by omega)⟩ fun b => { b with res := 0xC2 } }) s
  else s

/-- An event stored in its region: a repeat, a new record after the series it ends, or dropped, which ends no series. A record for which
REPEAT_ENDED would leave no slot is dropped (R362). -/
def storeEvent (r : Fin 9) (ev : EventIn) (t : Instant) (ep : BitVec 2) (s : State) : State :=
  let s := if seriesOver (regionAt s r) ev (localNs s) then endSeries r s else s
  let ended := endSeries r s
  if repeats (regionAt s r) ev then countRepeat r t ep s
  else if (slotFor s (regionAt s r) ev.sev).isNone || (slotFor ended (regionAt ended r) ev.sev).isNone then fwDropped ev (dropEvent r ev s)
  else putRec r ev t ep ended

/-- RECORD_STORE: the recorder takes one entry of its input queue. -/
def takeRecord (s : State) : State :=
  match s.recorder.queue with
  | [] => s
  | (ev, t, ep, g) :: r => noteConds [.recorder] s (storeEvent g ev t ep (updRec (fun x => { x with queue := r }) s))

/-- SERIES_TIMEOUT: 1 s has passed without a repeat of the open series. -/
def seriesTimeout (r : Fin 9) (s : State) : State :=
  match (regionAt s r).series with
  | none => s
  | some y =>
    let s := reachLocal (y.lastNs + secNs) s
    noteConds [.recorder] s (endSeries r s)

/-! ### Layout (R361) -/

/-- The sizes of an image's layout, by region. -/
def layoutOf (a : AppImage) (r : Fin 9) : Nat := a.recorder[r.val]?.getD 0

/-- At the first round the image's layout takes effect. -/
def layoutStarts (s : State) : State :=
  match s.run.active with
  | some a => updRec (fun r => { r with
      layoutOn := true, regions := Vector.ofFn fun i : Fin 9 => { Vec.at r.regions i with size := layoutOf a i } }) s
  | none => s

/-- At a program exchange a layout that differs waits for the next reset. -/
def layoutWaits (old new : AppImage) (s : State) : State :=
  if old.recorder == new.recorder then s
  else note .recorder 0x81 none 0 0 (updRec (fun r => { r with layoutPending := true }) s)

/-! ### The window (R364, R365) -/

/-- The eight words of a record (Table 14.1). -/
def recWords (x : Rec) : List Word :=
  [x.time.ns.setWidth 32 ||| fld x.epoch 30, bits x.time.sec 0 32, (bits x.time.sec 32 16).setWidth 32 ||| fld x.ev.code 16,
   x.ev.source.setWidth 32 ||| fld x.repeats 16,
   x.seq.setWidth 32 ||| fld x.ev.sev 24 ||| fld (x.ev.tenant.getD 0) 27 ||| flag x.ev.recorder 30 ||| flag x.ev.tenant.isNone 31,
   x.ev.p0, x.ev.p1, x.ev.p2]

/-- The region of a number; none above 8. -/
def regionNo (n : Nat) : Option (Fin 9) := if h : n < 9 then some ⟨n, h⟩ else none

/-- A write of REC_CUR starts a refill. -/
def startRefill (v : Word) (s : State) : State :=
  updRec (fun r => { r with
    curSeq := bits v 0 24, curRegion := bits v 24 4, ready := false, filled := 0, window := [], winLatch := [], refilling := true }) s

/-- The slots of the records at or after a sequence number, oldest first, at most 32. -/
def windowSlots (g : RecRegion) (from_ : BitVec 24) : List Nat :=
  let rank (x : Rec × Nat) : Nat := (x.1.seq - from_).toNat
  ((((g.slots.zipIdx).filter fun x => decide (rank x < 2 ^ 23)).insertionSort fun a b => rank a ≤ rank b).take 32).map fun x => x.2

/-- The refill ends: every entry appears at one tick. -/
def endRefill (s : State) : State :=
  if !s.recorder.refilling then s else
  let w := (regionNo s.recorder.curRegion.toNat).elim [] fun r => windowSlots (regionAt s r) s.recorder.curSeq
  updRec (fun r => { r with
    refilling := false, ready := true, filled := BitVec.ofNat 6 w.length, wseq := r.nextSeq
    winRegion := r.curRegion.toNat, window := w, winLatch := [] }) s

/-- The words entry `i` shows, live. -/
def windowEntry (s : State) (i : Fin 32) : List Word :=
  match s.recorder.window[i.val]?, regionNo s.recorder.winRegion with
  | some k, some r => ((regionAt s r).slots[k]?).elim (List.replicate 8 0) recWords
  | _, _ => List.replicate 8 0

/-- A read of word 0 of an entry latches the entry for the requester. -/
def readEntry (w : Requester) (i : Fin 32) (s : State) : State :=
  let ws := if s.recorder.ready then windowEntry s i else List.replicate 8 0
  answer (ws.headD 0) (updRec (fun r => { r with
    winLatch := (w, i, ws) :: r.winLatch.filter fun x => !(x.1 == w && x.2.1 == i) }) s)

/-- Words 1 to 7 of an entry as a requester reads them. -/
def entryWord (s : State) (w : Requester) (i : Fin 32) (k : Nat) : Word :=
  ((s.recorder.winLatch.find? fun x => x.1 == w && x.2.1 == i).bind fun x => x.2.2[k]?).getD 0

/-! ### Firmware records (R366) and counters -/

/-- The tenant of a core's tag; none in a kernel window. -/
def tagTenant (t : Tag) : Option (BitVec 3) := if t.kernel then none else some t.tenant

/-- WRITE by a core: BAD_CODE, BAD_SEVERITY, DROPPED where the input queue is full, else OK. -/
def fwWrite (w : Requester) (s : State) : State :=
  match coreOf w with
  | none => s
  | some c =>
    let b := Vec.at s.recorder.fw c
    let res (v : Byte) (s : State) : State := updRec (fun r => { r with fw := Vec.upd r.fw c fun b => { b with res := v } }) s
    if !b.code.getLsbD 15 then res 0xC0 s
    else if 5 < b.sev.toNat then res 0xC1 s
    else
      let ev : EventIn := { code := b.code, source := 0xFF00 + BitVec.ofNat 16 c.val, sev := b.sev, tenant := tagTenant (Vec.at s.super.tags c)
                            recorder := false, p0 := b.p0, p1 := b.p1, p2 := b.p2 }
      if s.recorder.queue.length < 256 then enqueueEvent ev (res 0 s) else enqueueEvent ev (res 0xC2 s)

/-- CLR.DROPS clears the drop counters of the selected region. -/
def clearDrops (s : State) : State :=
  match regionNo s.recorder.rsel.toNat with
  | some r => updRegion r (fun g => { g with drops := Vector.replicate 8 0 }) s
  | none => s

/-- CLR.LOST. -/
def clearLost (s : State) : State := updRec (fun r => { r with lost := 0 }) s

/-! ### The commands -/

/-- EVENT_RECORD. -/
def execEventRecord (ev : EventIn) (s : State) : Out := .next (enqueueEvent ev s)
/-- RECORD_STORE. -/
def execRecordStore (s : State) : Out := .next (takeRecord s)
/-- SERIES_TIMEOUT. -/
def execSeriesTimeout (region : Fin 9) (s : State) : Out := .next (seriesTimeout region s)
/-- REC_REFILL. -/
def execRecRefill (q : Req) (val : Word) (s : State) : Out := .next (onPage q .recorder (startRefill val) s)
/-- REC_REFILL_END. -/
def execRecRefillEnd (s : State) : Out := .next (endRefill s)
/-- REC_WIN_READ. -/
def execRecWinRead (q : Req) (entry : Fin 32) (s : State) : Out := .next (onPage q .recorder (readEntry q.who entry) s)
/-- REC_FW_WRITE. -/
def execRecFwWrite (q : Req) (s : State) : Out := .next (onPage q .recorder (fwWrite q.who) s)
/-- REC_CLR_DROPS. -/
def execRecClrDrops (q : Req) (s : State) : Out := .next (onPage q .recorder clearDrops s)
/-- REC_CLR_LOST. -/
def execRecClrLost (q : Req) (s : State) : Out := .next (onPage q .recorder clearLost s)

end Sys2Proof.Machine
end

