-- ==== Sys2Proof/Machine/Historian.lean ====
section
/-! DEFINITION. The historian (Ch. 14): captures, staging, drives, retention and queries. -/
namespace Sys2Proof.Machine

/-- Change the historian. -/
def updHis (f : Historian → Historian) (s : State) : State := { s with historian := f s.historian }

/-- A drive. -/
def driveAt (s : State) (d : Fin 4) : Drive := Vec.at s.historian.drives d

/-- The owner a tenant is. -/
def tenantOwner (t : BitVec 3) : Fin 9 := ⟨t.toNat, by have := t.isLt; omega⟩

/-! ### Shares (R372, R373) -/

/-- Reservation of an owner in MB/s. -/
def reservation (s : State) (o : Fin 9) : Nat := s.run.active.elim 0 fun a => (Vec.at a.hisReservation o).toNat

/-- Staging share of an owner in bytes. -/
def stagingShare (s : State) (o : Fin 9) : Nat :=
  let sum := (List.finRange 9).foldl (fun n o => n + reservation s o) 0
  if sum = 0 then 0 else 0x2000000 * reservation s o / sum

/-- Bytes of a block with its header. -/
def blockSize (b : Block) : Nat := 64 + b.data.length

/-- Bytes an owner's blocks take of its staging share. -/
def stagedBytes (s : State) (o : Fin 9) : Nat :=
  (s.historian.staging.filter fun b => b.owner == o && !b.reserve).foldl (fun n b => n + blockSize b) 0

/-- The gap blocks of an owner that lie in its gap reserve (R372). -/
def stagedGaps (s : State) (o : Fin 9) : Nat := s.historian.staging.countP fun b => b.owner == o && b.reserve

/-- The retention entry of an owner and class. -/
def hisCfg (s : State) (o : Fin 9) (c : BitVec 2) : Option HisCfg :=
  s.run.active.bind fun a => a.hisShares.find? fun x => x.owner == o && x.cls == c

/-- Does a drive's capacity count: not RETIRED, FAILED, UNSUITABLE or ABSENT? -/
def driveCounts (x : Drive) : Bool := x.state == .ok || x.state == .lowSpare

/-- The effective share in GB. -/
def effectiveShare (s : State) (c : HisCfg) : Nat :=
  let cap := (List.finRange 4).foldl (fun n d => if driveCounts (driveAt s d) then n + (driveAt s d).capGb.toNat else n) 0
  let cfg := s.run.active.elim 0 fun a => a.hisCapacityGb
  if cfg = 0 then 0 else min c.shareGb (c.shareGb * cap / cfg)

/-- The effective shares are taken anew; a change raises RETENTION with one record per owner and class. -/
def refreshShares (s : State) : State :=
  let now := (s.run.active.elim [] fun a => a.hisShares).map fun c => (c.owner, c.cls, effectiveShare s c)
  let changed := now.filter fun x => !s.historian.effective.contains x
  let s := updHis (fun h => { h with effective := now }) s
  changed.foldl (fun s x =>
    let ten : Option (BitVec 3) := if x.1.val < 8 then some (BitVec.ofNat 3 x.1.val) else none
    raise .historian 3 ten (.given (BitVec.ofNat 32 x.2.2) 0 0) s) s

/-! ### Drives (R368, R374) -/

/-- Does a drive accept new chunks of a class (Table 14.6)? -/
def driveAccepts (x : Drive) (c : BitVec 2) : Bool := x.state == .ok || (x.state == .lowSpare && decide (c.toNat ≤ 1))

/-- Does any drive accept a class? -/
def classAccepted (s : State) (c : BitVec 2) : Bool := (List.finRange 4).any fun d => driveAccepts (driveAt s d) c

/-- Has HIS_BIF a place for a drive: drives 2p always, 2p + 1 on a split port? -/
def drivePlace (s : State) (d : Fin 4) : Bool := d.val % 2 == 0 || s.historian.hisBif.getLsbD (d.val / 2)

/-- A drive changes its state: DRIVE and a record, of severity FAULT where it leaves OK. -/
def setDrive (d : Fin 4) (st : DriveState) (s : State) : State :=
  let old := (driveAt s d).state
  if old == st then s else
  let s := updHis (fun h => { h with drives := Vec.upd h.drives d fun x => { x with state := st } }) s
  refreshShares (raiseSev .historian 0 none (if old == .ok then 5 else 1) .unstated s)

/-- The index of every present drive has been read, once after a reset: each drive found takes its state, and ENABLED sets (R369). -/
def indexRead (found : Vec (Option DriveInfo) 4) (s : State) : State :=
  if s.historian.enabled then s else
  let s := (List.finRange 4).foldl (fun s d =>
    match (if drivePlace s d then Vec.at found d else none) with
    | none => setDrive d .absent s
    | some i =>
      let s := updHis (fun h => { h with drives := Vec.upd h.drives d fun x => { x with capGb := BitVec.ofNat 32 (min 8000 i.capGb.toNat) } }) s
      setDrive d (if i.suitable then .ok else .unsuitable) s) s
  updHis (fun h => { h with enabled := true }) s

/-- A SMART read sets a drive's state; what it has left it does not return to before the next reset. -/
def smart (d : Fin 4) (l : SmartLog) (s : State) : State :=
  let x := driveAt s d
  if !driveCounts x && x.state != .retired then s else
  let s := updHis (fun h => { h with drives := Vec.upd h.drives d fun x => { x with spare := l.spare, spareThr := l.spareThr } }) s
  if x.state == .retired then s
  else if l.readOnly then setDrive d .retired s
  else if l.spare < l.spareThr then setDrive d .lowSpare s
  else s

/-- A drive that does not answer becomes FAILED. -/
def driveFails (d : Fin 4) (s : State) : State :=
  let st := (driveAt s d).state
  if st == .ok || st == .lowSpare || st == .retired then setDrive d .failed s else s

/-! ### Captures (R370, R371) -/

/-- The sequence number of a group. -/
def groupSeq (s : State) (t : BitVec 3) (g : BitVec 8) : Word :=
  ((s.historian.groups.find? fun x => x.1 == t && x.2.1 == g).map fun x => x.2.2).getD 0

/-- A round begins for a group in which it is active: its number is 0 in the first, and one more in each later round. -/
def nextGroup (s : State) (x : BitVec 3 × BitVec 8) : State :=
  if s.historian.groups.any fun y => y.1 == x.1 && y.2.1 == x.2 then
    updHis (fun h => { h with groups := h.groups.map fun y => if y.1 == x.1 && y.2.1 == x.2 then (y.1, y.2.1, y.2.2 + 1) else y }) s
  else updHis (fun h => { h with groups := h.groups ++ [(x.1, x.2, 0)] }) s

/-- The groups active in the round count on. -/
def countGroups (s : State) : State :=
  let es := s.sched.active.elim [] fun im => im.captures.filter fun e => timingActive e.t s.sched.round && e.group != 0
  (es.map fun e => (e.tenant, e.group)).dedup.foldl nextGroup s

/-- The position of a capture entry among its group's entries. -/
def streamOf (im : SchedImage) (i : Nat) (e : Capture) : BitVec 8 :=
  if e.group = 0 then 0 else BitVec.ofNat 8 ((im.captures.take i).countP fun x => x.tenant == e.tenant && x.group == e.group)

/-- Is a flit of a span poisoned: does it hold a word found uncorrectable (R95, R152)? -/
def spanPoisoned (s : State) (a : Word) (n : Nat) : Bool := !(spanBad s a n).isEmpty

/-- Does a span lie in the working copy of a task abandoned in the round? -/
def spanAbandoned (s : State) (a : Word) : Bool :=
  isPool a && (tasksOf s).any fun t => (taskRt s t.tenant t.task).abandoned &&
    decide (t.working ≤ a.toNat) && decide (a.toNat < t.working + blockBytes t)

/-- A gap block with its cause, in the owner's share where a header has room there, else in its gap reserve of 256 headers; one that finds both full
is counted only (R371, R372). -/
def gapBlock (b : Block) (cause : BitVec 3) (s : State) : State :=
  let inShare := decide (stagedBytes s b.owner + 64 ≤ stagingShare s b.owner)
  let room := inShare || decide (stagedGaps s b.owner < 256)
  let s := updHis (fun h => { h with
    gaps := satInc h.gaps
    staging := if room then h.staging ++ [{ b with gap := true, reserve := !inShare, cause := cause, data := [] }] else h.staging }) s
  let ten : Option (BitVec 3) := if b.owner.val < 8 then some (BitVec.ofNat 3 b.owner.val) else none
  raise .historian 2 ten .unstated (bump .historian 0x11 1 s)

/-- A capture is dropped and counted. -/
def dropCapture (s : State) : State := updHis (fun h => { h with dropped := satInc h.dropped }) s

/-- No drive accepts the class of a capture: one record for each owner and class. -/
def refuseCapture (o : Fin 9) (c : BitVec 2) (s : State) : State :=
  if s.historian.refused.contains (o, c) then s
  else note .historian 0x80 (if o.val < 8 then some (BitVec.ofNat 3 o.val) else none) (c.setWidth 32) (num o.val 0)
    (updHis (fun h => { h with refused := (o, c) :: h.refused }) s)

/-- The capture of an entry in its slot; `d` is what its source reads as. -/
def capture (im : SchedImage) (i : Nat) (e : Capture) (d : List Byte) (s : State) : State :=
  let o := tenantOwner e.tenant
  let b : Block := { owner := o, cls := e.cls, group := e.group, gap := false, reserve := false, cause := 0, stamp := BitVec.ofNat 64 s.tb.lastR
                     g := if e.group = 0 then 0 else groupSeq s e.tenant e.group, slot := s.sched.slot, round := s.sched.round
                     frame := s.sched.frame, entry := BitVec.ofNat 20 i, stream := streamOf im i e, data := d }
  if !s.historian.enabled then dropCapture s
  else if !classAccepted s e.cls then dropCapture (refuseCapture o e.cls s)
  else if spanPoisoned s e.src (64 * e.len.toNat) then gapBlock b 2 s
  else if spanAbandoned s e.src then gapBlock b 3 s
  else if stagingShare s o < stagedBytes s o + blockSize b then gapBlock b 1 s
  else updHis (fun h => { h with staging := h.staging ++ [b] }) s

/-! ### Spill (R367) -/

/-- The records of a region that can be spilled, in ascending sequence. -/
def spillable (s : State) (r : Fin 9) : List Rec :=
  let g := regionAt s r
  ((g.slots.filter fun x => !x.spilled && !inSeries g x).insertionSort fun a b => seqAge s b.seq ≤ seqAge s a.seq).take 32

/-- One block of a region's records goes to staging, where the owner's share has room. -/
def spill (r : Fin 9) (s : State) : State :=
  let rs := spillable s r
  match rs with
  | [] => s
  | x :: _ =>
    let d := rs.flatMap fun y => bytesOfWords (recWords y)
    let b : Block := { owner := r, cls := 0, group := 0, gap := false, reserve := false, cause := 0, stamp := BitVec.ofNat 64 (instantNs x.time), g := 0
                       slot := 0, round := 0, frame := 0, entry := 0xFFFFF, stream := 0, data := takePad ((d.length + 63) / 64 * 64) d }
    if !s.historian.enabled || stagingShare s r < stagedBytes s r + blockSize b then s
    else
      let t := updRegion r (fun g => { g with
        slots := g.slots.map fun y => if rs.any fun z => z.seq == y.seq then { y with spilled := true } else y }) s
      noteConds [.recorder] s (bump .recorder 0x13 1 (updHis (fun h => { h with staging := h.staging ++ [b] }) t))

/-! ### Chunks (R369, R372, R373) -/

/-- Bytes of a chunk. -/
def chunkBytes : Nat := 0x400000

/-- Bytes used in a chunk. -/
def chunkUsed (c : Chunk) : Nat := c.blocks.foldl (fun n b => n + blockSize b) 0

/-- Is a chunk on a drive that is OK or LOW_SPARE? -/
def chunkWritable (s : State) (c : Chunk) : Bool := driveCounts (driveAt s c.drive)

/-- The drive that takes the next new chunk of a class: round robin from `nextDrive`. -/
def nextChunkDrive (s : State) (c : BitVec 2) : Option (Fin 4) :=
  ((List.range 4).map fun k => (⟨(s.historian.nextDrive.val + k) % 4, Nat.mod_lt _ (by omega)⟩ : Fin 4)).find? fun d =>
    driveAccepts (driveAt s d) c

/-- Deallocate chunks. -/
def deallocate (which : Chunk → Bool) (s : State) : State :=
  let n := s.historian.chunks.countP which
  bump .historian 0x12 n (updHis (fun h => { h with chunks := h.chunks.filter fun c => !which c }) s)

/-- An owner and class that has reached its effective share loses its oldest chunk on a writable drive. -/
def makeRoom (o : Fin 9) (c : BitVec 2) (s : State) : State :=
  let mine := s.historian.chunks.filter fun x => x.owner == o && x.cls == c && chunkWritable s x
  let limit := ((s.historian.effective.find? fun x => x.1 == o && x.2.1 == c).map fun x => x.2.2).getD 0
  if limit * 1000000000 ≤ mine.length * chunkBytes then
    match mine with
    | [] => s
    | x :: _ => bump .historian 0x12 1 (updHis (fun h => { h with chunks := h.chunks.erase x }) s)
  else s

/-- The blocks one write takes: of the owner and class of the first staged block, captures before spill, as many as fit `room`. -/
def fitBlocks : Nat → List Block → List Block
  | _, [] => []
  | room, b :: r => if blockSize b ≤ room then b :: fitBlocks (room - blockSize b) r else []

/-- The write of a staged block to drive `d`, if the drive can take it: in a chunk begun there or, where it is the drive's turn, in a new
one. -/
def writeOf (s : State) (d : Fin 4) (b : Block) : Option (Fin 9 × BitVec 2 × Option Chunk) :=
  if !driveAccepts (driveAt s d) b.cls then none
  else match s.historian.chunks.find? fun c => c.drive == d && c.owner == b.owner && c.cls == b.cls &&
      decide (chunkUsed c + blockSize b ≤ chunkBytes) with
    | some c => some (b.owner, b.cls, some c)
    | none => if nextChunkDrive s b.cls == some d then some (b.owner, b.cls, none) else none

/-- The point of an owner in the order that shares drive writes in proportion to B (R372; log entry 106). -/
def writeTurn (s : State) (o : Fin 9) : Nat := max (Vec.at s.historian.turns o) s.historian.turnNow

/-- What is written next to drive `d`: of the owners with a block that the drive can take the one whose turn is first, and of its blocks
captures before spill (R372). -/
def nextWrite (s : State) (d : Fin 4) : Option (Fin 9 × BitVec 2 × Option Chunk) :=
  let bs := s.historian.staging.filter fun b => (writeOf s d b).isSome
  match bs with
  | [] => none
  | b :: r =>
    let o := r.foldl (fun o x => if writeTurn s x.owner < writeTurn s o then x.owner else o) b.owner
    let mine := bs.filter fun x => x.owner == o
    ((mine.find? fun x => x.entry != 0xFFFFF).orElse fun _ => mine.head?).bind (writeOf s d)

/-- A write with FUA completes: its blocks are durable. -/
def chunkDone (d : Fin 4) (s : State) : State :=
  match nextWrite s d with
  | none => s
  | some (o, c, old) =>
    let s := if old.isNone then makeRoom o c s else s
    let mine := s.historian.staging.filter fun b => b.owner == o && b.cls == c
    let others := s.historian.staging.any fun b => b.owner == o && b.cls != c && b.entry != 0xFFFFF && (writeOf s d b).isSome
    let order := (mine.filter fun b => b.entry != 0xFFFFF) ++ if others then [] else mine.filter fun b => b.entry == 0xFFFFF
    let bs := fitBlocks (chunkBytes - old.elim 0 chunkUsed) order
    let s := updHis (fun h => { h with
      staging := bs.foldl (fun l b => l.erase b) h.staging
      chunks := match old with
        | some k => h.chunks.map fun x => if x == k then { x with blocks := x.blocks ++ bs } else x
        | none => h.chunks ++ [⟨d, o, c, bs⟩]
      turnNow := writeTurn s o
      turns := Vec.put h.turns o (writeTurn s o + bs.foldl (fun n b => n + blockSize b) 0 * 0x100000 / max 1 (reservation s o))
      nextDrive := if old.isNone then ⟨(d.val + 1) % 4, Nat.mod_lt _ (by omega)⟩ else h.nextDrive }) s
    bump .historian 0x10 bs.length s

/-- Is a chunk older than its retention time, judged by its newest block? -/
def chunkOld (s : State) (c : Chunk) : Bool :=
  chunkWritable s c && (hisCfg s c.owner c.cls).elim false fun x =>
    (c.blocks.getLast?).elim true fun b => decide (b.stamp.toNat + x.hours * 3600000000000 < nowNs s)

/-! ### Queries (R375) -/

/-- The 64 header bytes of a block (Table 14.4). -/
def blockHeader (b : Block) : List Byte :=
  let dev := b.owner.val == 8
  let w : List Word :=
    [0x01 ||| num (if dev then 0 else b.owner.val) 8 ||| flag dev 11 ||| fld b.cls 12 ||| fld b.group 14,
     num (b.data.length / 64) 0 ||| flag b.gap 16 ||| fld b.cause 17, lo32 b.stamp, hi32 b.stamp, b.g,
     b.slot.setWidth 32 ||| fld b.round 20, lo32 b.frame, hi32 b.frame, b.entry.setWidth 32 ||| fld b.stream 20, 0, 0, 0, 0, 0, 0]
  let h := bytesOfWords w
  h ++ bytesOf 4 (crc32c (h ++ b.data)).toNat

/-- The order of a query's answer. -/
def blockBefore (a b : Block) : Bool :=
  if a.stamp != b.stamp then decide (a.stamp < b.stamp)
  else if a.g != b.g then decide (a.g < b.g)
  else decide (a.stream ≤ b.stream)

/-- GO: refused with BUSY while a query runs. -/
def queryGo (s : State) : State :=
  if s.historian.qBusy then updHis (fun h => { h with qCode := 0xC8 }) s
  else updHis (fun h => { h with qBusy := true, qCode := 0 }) s

/-- The blocks a query asks for, with whether their drive can be read. -/
def queryBlocks (s : State) : List (Block × Bool) :=
  let h := s.historian
  let o := (bits h.qSel 0 4).toNat
  let c : BitVec 2 := bits h.qSel 4 2
  let g : BitVec 8 := bits h.qSel 8 8
  (h.chunks.filter fun k => k.owner.val == o && k.cls == c && (driveCounts (driveAt s k.drive) ||
      (driveAt s k.drive).state == .retired || (driveAt s k.drive).state == .failed)).flatMap fun k =>
    (k.blocks.filter fun b => (g == 0 || b.group == g) && decide (h.qFrom ≤ b.stamp)).map fun b =>
      (b, (driveAt s k.drive).state != .failed)

/-- The query ends: whole blocks are in supervisor SRAM, HIS_Q_NEXT names the first not copied, which is not stated where every block
was copied, and QUERY_DONE is raised. -/
def queryEnd (s : State) : State :=
  if !s.historian.qBusy then s else
  let all := queryBlocks s
  let good := ((all.filter fun x => x.2).map fun x => x.1).insertionSort fun a b => blockBefore a b = true
  let go := fitBlocks s.historian.qLen.toNat good
  let (w, s) := drawFree 64 s
  let next := (good[go.length]?).elim w fun b => b.stamp
  let d := go.flatMap fun b => blockHeader b ++ b.data
  let a := s.historian.qBuf.toNat * 64
  let s := { s with sram := memWrite s.sram a (d.take (sramSize - a)) }
  raise .historian 1 none .unstated (updHis (fun h => { h with
    qBusy := false, qCode := if go.isEmpty then 0xC9 else 0, qBlocks := BitVec.ofNat 16 go.length
    qSkipped := BitVec.ofNat 16 (all.countP fun x => !x.2), qNext := next }) s)

/-! ### The commands -/

/-- SPILL_BLOCK. -/
def execSpillBlock (region : Fin 9) (s : State) : Out := .next (spill region s)
/-- CHUNK_WRITE_DONE. -/
def execChunkWriteDone (drive : Fin 4) (s : State) : Out := .next (chunkDone drive s)
/-- HISTORIAN_INDEX_READ_END. -/
def execHistorianIndexReadEnd (found : Vec (Option DriveInfo) 4) (s : State) : Out := .next (indexRead found s)
/-- RETENTION_SWEEP. -/
def execRetentionSweep (s : State) : Out := .next (deallocate (chunkOld s) s)
/-- SMART_READ. -/
def execSmartRead (drive : Fin 4) (log : SmartLog) (s : State) : Out := .next (smart drive log s)
/-- DRIVE_TIMEOUT. -/
def execDriveTimeout (drive : Fin 4) (s : State) : Out := .next (driveFails drive s)
/-- HIS_QUERY_GO. -/
def execHisQueryGo (q : Req) (s : State) : Out := .next (onPage q .historian queryGo s)
/-- QUERY_END. -/
def execQueryEnd (s : State) : Out := .next (queryEnd s)

end Sys2Proof.Machine
end

