-- ==== Sys2Proof/Machine/Reset.lean ====
section
/-! DEFINITION. The resets of R409 and the update restart (Table 15.11). -/
namespace Sys2Proof.Machine

/-- Change the update page's state. -/
def updUpd (f : Update → Update) (s : State) : State := { s with upd := f s.upd }

/-- Change the power page's state. -/
def updPwr (f : Power → Power) (s : State) : State := { s with pwr := f s.pwr }

/-- Change the security core's state. -/
def updSec (f : Security → Security) (s : State) : State := { s with sec := f s.sec }

/-- Change the flash. -/
def updFlash (f : Flash → Flash) (s : State) : State := { s with flash := f s.flash }

/-- A device reset (R409): every block of Saddle and the Crest tiles takes its reset values. Kept are the OTP, the flash, the drives'
contents, the levels of input balls, the TAP, and Foothill, which a link reset reaches when its link trains again. -/
def resetDevice (kind rail : BitVec 3) (s : State) : State :=
  { State.reset with
    part := s.part, otp := s.otp, store := s.store, flash := s.flash
    hdrs := ((State.reset).hdrs.set (pgIdx .field) (hdrAt s .field)).set (pgIdx .panel) (hdrAt s .panel)
    latches := s.latches.filter fun x => isFieldPage x.1.2.1
    heldLow := s.heldLow.filter fun x => isFieldPage x.1.2.1
    field := { s.field with linkUp := false, heldMap := ioMapOf s }
    panel := { s.panel with write := none }
    historian := { chunks := s.historian.chunks }
    trio := {}
    host := { perst := s.host.perst }
    pwr := { causeKind := kind, causeRail := rail }
    sec := { jtagLimit := jtagOf s.otp }
    tapReset := s.tapReset, free := s.free, out := s.out, pending := s.pending }

/-- A power-on reset (R409): as a device reset, with the TAP. -/
def resetPower (kind rail : BitVec 3) (s : State) : State := { resetDevice kind rail s with tapReset := true }

/-- The start of the next round on the schedule clock; now where no rounds run. -/
def nextRoundNs (s : State) : Nat := nextCommit s

/-- Step 2 of Table 15.11: the controller stops, every output takes its safe value at once, trip-class functions lock out and an event
record is written. No round follows; the reset comes 1 ms later. -/
def beginRestart (s : State) : State :=
  match s.upd.restart with
  | none => s
  | some k =>
    let slot : Word := if (k == 4) == s.upd.runningB then 1 else 0
    let s := stopController .stopped false true s
    let s := updSched (fun x => { x with running := false }) s
    note .update 0x80 none slot 0 (updUpd (fun u => { u with restart := none, resetDue := some k }) s)

/-- UPDATE_RESTART: the instant S of the update restart. -/
def updateRestart (s : State) : State := if s.upd.restart.isSome then beginRestart (reach (nextRoundNs s) s) else s

/-- UPDATE_RESET: S + 1 ms. -/
def updateReset (s : State) : State :=
  match s.upd.resetDue with
  | none => s
  | some k => resetDevice k 0 s

/-- A secure write of PWR_RESET: a device reset, at the next round start while rounds run (R410). -/
def requestReset (key : Byte) (s : State) : State :=
  if key != 0x5A then s
  else if s.sched.running then updUpd (fun u => { u with restart := some (u.restart.getD 4) }) s
  else resetDevice 4 0 s

/-- A page access that only a secure requester may make: an error response otherwise (R328, R395, R410). -/
def onSecure (q : Req) (pg : Page) (f : State → State) (s : State) : State :=
  if isSecure q then onPage q pg f s else refuse q.who (some pg) s

/-- The rails whose monitor has an internal-reset threshold (Table 16.1): all but VPHY and VPHYH. -/
def hasResetLevel (rail : Fin 6) : Bool := rail != 2 && rail != 3

/-- POR_ASSERT. -/
def execPorAssert (s : State) : Out := .next (resetPower 0 0 s)
/-- INTERNAL_RESET. -/
def execInternalReset (rail : Fin 6) (s : State) : Out :=
  .next (if hasResetLevel rail then resetPower 1 (BitVec.ofNat 3 rail.val) s else s)
/-- TAP_RESET. -/
def execTapReset (s : State) : Out := .next { s with tapReset := true }
/-- PWR_RESET. -/
def execPwrReset (q : Req) (key : Byte) (s : State) : Out := .next (onSecure q .power (requestReset key) s)
/-- UPDATE_RESTART. -/
def execUpdateRestart (s : State) : Out := .next (updateRestart s)
/-- UPDATE_RESET. -/
def execUpdateReset (s : State) : Out := .next (updateReset s)

end Sys2Proof.Machine
end

