-- ==== Sys2Proof/Machine/Security.lean ====
section
/-! DEFINITION. Tickets and life-cycle transitions (R386 to R390), and the conditions that refuse an update (R391, R392). -/
namespace Sys2Proof.Machine

/-! ### The moving and battery conditions (R392) -/

/-- The I/O group whose input flit an endpoint address lies in (Table 8.2, Table 11.4, Table 12.5). -/
def inputGroup (a : Word) : Option (Nat × Nat) :=
  let off := epOff a
  if isPool a then none
  else if epTile a = 7 then
    (if off < 0x200 then some (0, off / 64) else if off < 0x300 then some (1, (off - 0x200) / 64) else none)
  else if epTile a = 0 then
    (if 0x1000000 ≤ off && off < 0x1080000 then some (6, (off - 0x1000000) / 0x800)
     else if 0x3000000 ≤ off && off < 0x3020000 then some (7, (off - 0x3000000) / 0x2000)
     else if 0x3400000 ≤ off && off < 0x3408000 then some (8, (off - 0x3400000) / 0x1000)
     else none)
  else none

/-- The endpoint address that a transfer moves to a pool word, from an input flit. -/
def wordSource (s : State) (a : Nat) : Option Word :=
  s.sched.active.bind fun im => im.transfers.findSome? fun e =>
    let src := e.src + BitVec.ofNat 32 (a - e.dst.toNat)
    if isPool e.dst && decide (e.dst.toNat ≤ a) && decide (a < e.dst.toNat + 64 * e.len.toNat) && (inputGroup src).isSome then some src
    else none

/-- The I/O group of a pool word: that of the endpoint flit which a transfer moves to it. -/
def wordGroup (s : State) (a : Nat) : Option (Nat × Nat) := (wordSource s a).bind inputGroup

/-- What was last latched for a pool word of the device's own column: a device that does not compute moves nothing to the pool. -/
def rawLatched (s : State) (a : Nat) : Word :=
  (wordSource s a).elim (memWord s.pool a) fun src => wordOf ((readFlit s (src - src % 64)).drop (src.toNat % 64))

/-- A PERMIT is in force for 1 h from its ticket (R389). -/
def permitInForce (s : State) : Bool := s.sec.permitUntil.any fun t => decide (s.tb.tick < t)

/-- A permit's hour ends. -/
def permitExpires (s : State) : State :=
  match s.sec.permitUntil with
  | none => s
  | some t => updSec (fun x => { x with permitUntil := none }) (reachLocal (2 * t) s)

/-- One second in ticks. -/
def secondTicks : Nat := 500000000

/-- Was a point latched within the last 1 s? -/
def latchedLately (s : State) (p : InPoint) : Bool :=
  (wordGroup s p.raw.addr).elim false fun g =>
    s.run.latched.any fun x => x.1.toNat == g.1 && x.2.1.toNat == g.2 && decide (s.tb.tick ≤ x.2.2 + secondTicks)

/-- The moving condition on the moving points that the image names. -/
def movingCond (s : State) : Bool :=
  s.run.active.elim false fun a => a.moving.any fun n =>
    (a.inPoints.find? fun p => p.number == n).elim false fun p =>
      placeValue p.raw (rawLatched s p.raw.addr) == 1 || !placeGood s p.raw ||
      failsPlace p.raw (statusField p.raw (rawLatched s p.raw.statusAddr)) || !latchedLately s p

/-- UPS_ON_BATT starts or ends the battery condition. -/
def battery (on : Bool) (s : State) : State := updUpd (fun u => { u with onBatt := on }) s

/-- The refusal of Table 15.10 for a firmware-set ACTIVATE, in row order; `permit` waives the moving condition. -/
def updateBar (permit : Bool) (s : State) : Option Byte :=
  let c := (otherSlot s).compat
  if s.store.ownerLock then some 0xD7
  else if movingCond s && !permit then some 0xDB
  else if s.upd.onBatt then some 0xDC
  else if s.trio.state != .alone && votes s then some 0xDD
  else if inTrio s && (partnersOf s).any fun m => (partnerAt s m).lastCompat.elim false fun k => !compatNear c k then some 0xDE
  else none

/-! ### Tickets (R389) -/

/-- The ticket at SEC_TKT_ADDR: its envelope and payload; none where it does not lie in supervisor SRAM with a whole envelope. -/
def ticketAt (s : State) : Option (List Byte × List Byte) :=
  let a := s.sec.tktAddr.toNat * 64
  let n := s.sec.tktLen.toNat
  if 256 ≤ n && a + n ≤ sramSize then some (memRead s.sram a 256, memRead s.sram (a + 256) (n - 256)) else none

/-- A ticket has been decided: SEC_CODE and TICKET. -/
def ticketDone (c : Byte) (s : State) : State := raise .security 1 none .unstated (updSec (fun x => { x with code := c }) s)

/-- A new random value of SEC_NONCE. -/
def newNonce (s : State) : State :=
  let (v, s) := drawFree 64 s
  updSec (fun x => { x with nonce := v }) s

/-- An accepted ticket. -/
def ticketTaken (s : State) : State := ticketDone 0 (newNonce s)

/-- Change the OTP. -/
def updOtp (f : Otp → Otp) (s : State) : State := { s with otp := f s.otp }

/-- Burn a bit of the life-cycle groups (R378: a bit only changes from 0 to 1). -/
def burnGroup (bit : Nat) (s : State) : State := updOtp (fun o => { o with groups := setBit o.groups bit true }) s

/-- The actions of Table 15.7 for a transition to state `t`. -/
def lcActions (t : Nat) (payload : List Byte) (s : State) : State :=
  if t = 1 then updOtp (fun o => { o with owner := BitVec.ofNat 384 (leAt payload 16 48), ownerBurnt := true }) s
  else if t = 3 then writeBoot <| updFlash (fun f => { f with slotA := {}, slotB := {}, store0 := none, store1 := none }) (updStore (fun x => { ticket := x.ticket }) s)
  else s

/-- Steps 3 to 5 of Table 15.8; a device that becomes DECOMMISSIONED restarts. -/
def lcSteps (t : Nat) (payload : List Byte) (s : State) : State :=
  let s := updSec (fun x => { x with jtagLimit := BitVec.ofNat 2 t }) (burnGroup (2 * t - 2) s)
  let s := raise .security 0 none .unstated (burnGroup (2 * t - 1) (lcActions t payload s))
  if t = 3 then resetDevice 5 0 s else s

/-- What each operation does with a ticket that has passed Table 15.3 (R387 to R390): its refusal, or the state it leaves. -/
def ticketEffect (flashOk : Bool) (env payload : List Byte) (s : State) : Except Byte State :=
  match ticketOp payload with
  | 1 =>
    let t := ticketTarget payload
    if t != lcState s.otp + 1 then .error 0xD8
    else if movingCond s then .error 0xDB
    else if s.upd.onBatt then .error 0xDC
    else if !flashOk then .error 0xDA
    else .ok (lcSteps t payload (updSec (fun x => { x with stuck := false }) (ticketTaken (writeStoreRec (updStore (fun x => { x with ticket := some (env, payload) }) s)))))
  | 2 => .ok (ticketTaken (updStore (fun x => { x with ownerLock := true }) s))
  | 3 => .ok (ticketTaken (updStore (fun x => { x with ownerLock := false }) s))
  | 4 =>
    match Config.unwrapCak s.otp.idKey ((payload.drop 16).take 136) with
    | none => .error 0xD9
    | some k =>
      .ok (ticketTaken (if s.store.cak.isNone then
          updPort 8 (fun x => { x with keyCur := 0 }) (updPort 9 (fun x => { x with keyCur := 0 }) (updStore (fun x => { x with cak := some k }) s))
        else updStore (fun x => { x with cakNext := some k }) s))
  | 5 => .ok (ticketTaken (updSec (fun x => { x with permitUntil := some (s.tb.tick + 3600 * secondTicks) }) s))
  | 6 =>
    let k := ticketTarget payload
    let left := setBit s.otp.revoked k true
    if (envOf env).signer.toNat = k || left == 0xF then .error 0xE1
    else .ok (ticketTaken (updOtp (fun o => { o with revoked := left }) s))
  | _ => .error 0xD1

/-- A ticket is submitted: Table 15.3, then its operation. While a transition is stuck only its LC_ADVANCE is accepted (R388). -/
def submitTicket (flashOk : Bool) (s : State) : State :=
  match ticketAt s with
  | none => ticketDone 0xD0 s
  | some (env, payload) =>
    let c := checkEnv s .ticket env payload false false
    if c != 0 then ticketDone c s
    else if s.sec.stuck && ticketOp payload != 1 then ticketDone 0xD8 s
    else match ticketEffect flashOk env payload s with
      | .error e => ticketDone e s
      | .ok s => s

/-- The submission of a ticket of operation `op`; a ticket of another operation is not this command (log entry 6). -/
def submitOp (op : Nat) (flashOk : Bool) (s : State) : State :=
  if (ticketAt s).elim true fun t => ticketOp t.2 == op then submitTicket flashOk s else s

/-! ### Boot of the security core (R378, R388) -/

/-- A begun transition is rolled forward with the stored ticket, or is stuck and the device enters recovery. -/
def rollForward (s : State) : State :=
  match begunTarget s.otp with
  | none => s
  | some t =>
    let good := s.store.ticket.elim false fun k =>
      checkEnv s .ticket k.1 k.2 true false == 0 && ticketOp k.2 == 1 && ticketTarget k.2 == t
    if good then lcSteps t (s.store.ticket.elim [] fun k => k.2) (updSec (fun x => { x with rolled := true }) s)
    else updUpd (fun u => { u with recovery := true }) (updSec (fun x => { x with stuck := true }) s)

/-- The first start in MANUFACTURE makes the identity key and the storage key from the security core's random source (Table 15.1). -/
def makeIdentity (s : State) : State :=
  if lcState s.otp = 0 && !s.otp.identity then
    let (k, s) := drawFree 384 s
    let (w, s) := drawFree 256 s
    updOtp (fun o => { o with identity := true, idKey := k, storageKey := w, devId := Config.sha384 (Config.publicKey k) }) s
  else s

/-- The margin read: bits that read as set only at normal margin are programmed again (R378). -/
def marginRead (s : State) : State := updOtp (fun o => { o with weakGroups := 0, weakSvn := 0 }) s

/-- The boot ROM at reset release (Table 15.5 step 1): margin read, the records in force, identity, nonce, JTAG limit, roll-forward. -/
def bootRom (s : State) : State :=
  let s := newNonce (makeIdentity (readStoreRec (readBoot (marginRead s))))
  rollForward (updSec (fun x => { x with jtagLimit := jtagOf s.otp }) s)

/-- TICKET_LC_ADVANCE. -/
def execTicketLcAdvance (q : Req) (flashOk : Bool) (s : State) : Out := .next (onPage q .security (submitOp 1 flashOk) s)
/-- TICKET_LOCK. -/
def execTicketLock (q : Req) (s : State) : Out := .next (onPage q .security (submitOp 2 true) s)
/-- TICKET_UNLOCK. -/
def execTicketUnlock (q : Req) (s : State) : Out := .next (onPage q .security (submitOp 3 true) s)
/-- TICKET_CAK. -/
def execTicketCak (q : Req) (s : State) : Out := .next (onPage q .security (submitOp 4 true) s)
/-- TICKET_PERMIT. -/
def execTicketPermit (q : Req) (s : State) : Out := .next (onPage q .security (submitOp 5 true) s)
/-- TICKET_REVOKE. -/
def execTicketRevoke (q : Req) (s : State) : Out := .next (onPage q .security (submitOp 6 true) s)
/-- PERMIT_EXPIRE. -/
def execPermitExpire (s : State) : Out := .next (permitExpires s)
/-- BATTERY_CONDITION. -/
def execBatteryCondition (on : Bool) (s : State) : Out := .next (battery on s)

end Sys2Proof.Machine
end

