-- ==== Sys2Proof/Machine/Update.lean ====
section
/-! DEFINITION. Firmware-set updates and the application store (R382 to R385, R393 to R397). -/
namespace Sys2Proof.Machine

/-! ### Results -/

/-- Result of a command of the update page. -/
def updCode (c : Byte) (s : State) : State := updUpd (fun u => { u with code := c }) s

/-- A refused command: its code, with REFUSED raised. -/
def updRefuse (c : Byte) (s : State) : State := raise .update 1 none .unstated (updCode c s)

/-- Change a slot by its letter. -/
def updSlot (b : Bool) (f : FwSlot → FwSlot) (s : State) : State :=
  updFlash (fun x => if b then { x with slotB := f x.slotB } else { x with slotA := f x.slotA }) s

/-- A slot by its letter. -/
def slotAt (s : State) (b : Bool) : FwSlot := if b then s.flash.slotB else s.flash.slotA

/-! ### LOAD and ERASE (R393) -/

/-- The bytes at a place of supervisor SRAM; none where they do not lie in it. -/
def sramBytes (s : State) (a n : Nat) : Option (List Byte) := if a + n ≤ sramSize then some (memRead s.sram a n) else none

/-- The slot a LOAD writes: the one not running, or the named one in recovery. -/
def loadTarget (slot : Bool) (s : State) : Bool := if s.upd.recovery then slot else !s.upd.runningB

/-- LOAD: the slot is recorded EMPTY and the package is written to it. -/
def cmdUpdLoad (slot : Bool) (s : State) : State :=
  if s.upd.state != .idle then updRefuse 0x21 s
  else
    let b := loadTarget slot s
    let p := (sramBytes s (s.upd.loadAddr.toNat * 64) s.upd.loadLen.toNat).getD []
    writeBoot (updSlot b (fun _ => { package := p }) (updUpd (fun u => { u with state := .loading, loadSlot := b, code := 0 }) s))

/-- A load ends: the package is checked and the slot is VALID, or it is EMPTY with a code. In recovery the device restarts at once
from a slot it has loaded (R385). -/
def endUpdLoad (flashOk : Bool) (s : State) : State :=
  if s.upd.state != .loading then s else
  let b := s.upd.loadSlot
  let p := (slotAt s b).package
  let env := p.take 256
  let c := if p.length < 256 then 0xD0 else checkEnv s .firmware env (p.drop 256) false false
  let s := updUpd (fun u => { u with state := .idle, env := c }) s
  let c := if c == 0 && !flashOk then 0xDA else c
  if c != 0 then raise .update 0 none .unstated (writeBoot (updSlot b (fun _ => {}) (updCode c s)))
  else
    let e := envOf env
    let st : SlotState := if s.upd.recovery then .active else .valid
    let s := updSlot b (fun _ => { state := st, svn := bits e.svn 0 6, compat := e.compat, confirm := e.confirm, package := p }) (updCode 0 s)
    let s := raise .update 0 none .unstated (writeBoot s)
    if s.upd.recovery then
      resetDevice 2 0 (writeBoot (updSlot (!b) (fun x => if x.state == .active then { x with state := .valid } else x) s))
    else s

/-- ERASE: the slot not running; BUSY in TRIAL. -/
def cmdUpdErase (s : State) : State :=
  if s.upd.state == .trial then updRefuse 0x21 s else writeBoot (updSlot (!s.upd.runningB) (fun _ => {}) (updCode 0 s))

/-! ### ACTIVATE and CANCEL (R394) -/

/-- ACTIVATE: LATE, BUSY, NO_SHADOW, then Table 15.10. An accepted one uses up a PERMIT. -/
def cmdUpdActivate (s : State) : State :=
  let permit := permitInForce s
  if frameLate s s.upd.target then updRefuse 0x20 s
  else if s.upd.state == .armed || s.upd.state == .trial then updRefuse 0x21 s
  else if (otherSlot s).state != .valid then updRefuse 0x22 s
  else match updateBar permit s with
    | some c => updRefuse c s
    | none => updCode 0 (updSec (fun x => { x with permitUntil := none })
        (updUpd (fun u => { u with state := .armed, armedFrame := u.target, permitted := permit }) s))

/-- CANCEL: LATE from the commit point on, to the reset of the update restart; NOT_ARMED. -/
def cmdUpdCancel (s : State) : State :=
  if s.upd.restart == some 2 || s.upd.resetDue == some 2 || (s.upd.state == .armed && pastCommit s s.upd.armedFrame) then updRefuse 0x20 s
  else if s.upd.state != .armed then updRefuse 0x23 s
  else updCode 0 (updUpd (fun u => { u with state := .idle, permitted := false }) s)

/-- The start of round 2^K - 1 of the frame before the one a restart is armed for: the conditions are checked again and the slot is
TRIAL, or the activation is cancelled; a fallback marks the trial slot REJECTED (R394, R396, Table 15.11 step 1). -/
def updCommit (s : State) : State :=
  let due := lastRound s && s.upd.armedFrame == s.sched.frame + 1
  if !due then s
  else if s.upd.fallbackArmed then
    writeBoot (updRunning (fun x => { x with state := .rejected })
      (updUpd (fun u => { u with fallbackArmed := false, restart := some 3 }) s))
  else if s.upd.state == .armed then
    match updateBar s.upd.permitted s with
    | some c => updRefuse c (updUpd (fun u => { u with state := .idle, permitted := false }) s)
    | none =>
      let w := s.upd.window
      writeBoot (updFlash (fun x => { x with starts := 0, window := w }) (updOther (fun x => { x with state := .trial })
        (updUpd (fun u => { u with state := .trial, permitted := false, restart := some 2 }) s)))
  else s

/-! ### The trial (R395, R396) -/

/-- A slot whose security version is below the OTP's is never booted. -/
def rejectOld (svn : BitVec 6) (x : FwSlot) : FwSlot := if x.state != .empty && x.svn < svn then { x with state := .rejected } else x

/-- UPD_CONFIRM: NO_TRIAL, BAD_TOKEN, or the trial set is confirmed. -/
def confirm (token : Word) (s : State) : State :=
  let t := runningSlot s
  if s.upd.state != .trial || t.state != .trial || s.upd.fallbackArmed then updRefuse 0xE0 s
  else if token != t.confirm then updRefuse 0xDF s
  else
    let svn := if s.otp.svn < t.svn then t.svn else s.otp.svn
    let s := updOtp (fun o => { o with svn := svn }) s
    let s := updRunning (fun x => rejectOld svn { x with state := .active }) s
    let s := updOther (fun x => rejectOld svn (if x.state == .active then { x with state := .valid } else x)) s
    let s := writeBoot (updUpd (fun u => { u with state := .idle, trialEnd := none, code := 0 }) s)
    raise .update 2 none .unstated s

/-- The frames of a length that a span takes, the last one whole. -/
def framesFor (span len : Nat) : Nat := (span + len - 1) / len

/-- The first major frame whose start keeps the lead time of R58; beyond an armed swap frames have the new image's length (log entry 86). -/
def firstFrame (s : State) : DWord :=
  match s.sched.active with
  | some im =>
    let need := schedNow s + leadNs s - s.sched.frameNs
    let f := s.sched.frame + BitVec.ofNat 64 (framesFor need (frameNsOf im))
    match armedBefore s f with
    | none => f
    | some new =>
      s.sched.armedFrame +
        BitVec.ofNat 64 (framesFor (need - (s.sched.armedFrame.toNat - s.sched.frame.toNat) * frameNsOf im) (frameNsOf new))
  | none => 0

/-- The confirm window has expired: a voting device gives up with COMMAND, and the restart is armed; where no rounds run it takes place at
once. -/
def windowExpires (s : State) : State :=
  if s.upd.state != .trial || (runningSlot s).state != .trial || s.upd.fallbackArmed then s else
  let s := reachLocal (2 * s.upd.trialEnd.getD 0) s
  let s := if inTrio s && votes s then giveUp 0x0B s else s
  if s.sched.running then updUpd (fun u => { u with fallbackArmed := true, armedFrame := firstFrame s }) s
  else resetDevice 3 0 (writeBoot (updRunning (fun x => { x with state := .rejected }) s))

/-! ### STORE (R397) -/

/-- The pair that STORE takes; none where it is refused with NO_SHADOW. -/
def storePair (shadow : Bool) (s : State) : Option StoreEntry :=
  if shadow then
    if (s.run.bank == .valid || s.run.bank == .armed) && (s.sched.bank == .valid || s.sched.bank == .armed) then
      match s.run.shadow, s.sched.shadow with
      | some a, some im => if im.appId == a.id then some ⟨a, s.run.shadowEnv, im, s.sched.shadowEnv⟩ else none
      | _, _ => none
    else none
  else match s.run.active, s.sched.active with
    | some a, some im => some ⟨a, s.run.activeEnv, im, s.sched.activeEnv⟩
    | _, _ => none

/-- STORE: BUSY, NO_SHADOW. -/
def cmdUpdStore (shadow : Bool) (s : State) : State :=
  if s.upd.state == .loading || s.upd.storing.isSome then updRefuse 0x21 s
  else match storePair shadow s with
    | none => updRefuse 0x22 s
    | some e => updCode 0 (updUpd (fun u => { u with storing := some e }) s)

/-- The entry that is not current. -/
def putStore (e : Option StoreEntry) (s : State) : State :=
  updFlash (fun x => if x.current then { x with store0 := e } else { x with store1 := e }) s

/-- STORE ends: its entry becomes current, or FLASH leaves the current one in force. -/
def endStore (ok : Bool) (s : State) : State :=
  match s.upd.storing with
  | none => s
  | some e =>
    let s := updUpd (fun u => { u with storing := none }) s
    if ok then writeBoot (updFlash (fun x => { x with current := !x.current }) (putStore (some e) s))
    else updRefuse 0xDA (putStore none s)

/-! ### Boot (R383 to R385, R396) -/

/-- The limits of R383 for a component, in bytes. -/
def componentLimit : Nat → Nat
  | 1 => 0x100000
  | 2 => 0x800000
  | 3 => 0x80000
  | 4 => 0x80000
  | _ => 0

/-- A component of a set's payload; none of its bytes where the payload names none (R383). -/
def component (payload : List Byte) (n : Nat) : List Byte :=
  ((List.range 4).find? fun k => leAt payload (64 * k) 4 == n).elim [] fun k =>
    (payload.drop (leAt payload (64 * k + 4) 4)).take (leAt payload (64 * k + 8) 4)

/-- The components of a set's payload are all present, within their limits, and match their digests (R383). -/
def componentsOk (payload : List Byte) : Bool :=
  decide (payload.length + 256 ≤ 0xC00000) &&
  [1, 2, 3, 4].all (fun n => (List.range 4).any fun k => leAt payload (64 * k) 4 == n) &&
  (List.range 4).all fun k =>
    let o := 64 * k
    let off := leAt payload (o + 4) 4
    let len := leAt payload (o + 8) 4
    decide (len ≤ componentLimit (leAt payload o 4)) && decide (off + len ≤ payload.length) &&
    Config.sha384 ((payload.drop off).take len) == BitVec.ofNat 384 (leAt payload (o + 16) 48)

/-- A slot passes steps 3 and 4 of Table 15.5. -/
def slotBoots (s : State) (b : Bool) : Bool :=
  let p := (slotAt s b).package
  decide (256 ≤ p.length) && checkEnv s .firmware (p.take 256) (p.drop 256) false true == 0 && componentsOk (p.drop 256)

/-- A fallback: FALLBACK is raised and its reason recorded (R396). -/
def fallback (why : BitVec 2) (s : State) : State :=
  raise .update 3 none .unstated (updUpd (fun u => { u with fallbacks := satInc u.fallbacks, why := why }) s)

/-- Step 2 of Table 15.5: the slot that is tried first, with its start counted. A trial at its third start falls back. -/
def chooseSlot (s : State) : Option Bool × State :=
  let trial := [false, true].find? fun b => (slotAt s b).state == .trial
  let active (s : State) := [false, true].find? fun b => (slotAt s b).state == .active
  match trial with
  | some b =>
    if s.flash.starts < 3 then (some b, writeBoot (updFlash (fun x => { x with starts := x.starts + 1 }) s))
    else
      let s := fallback 2 (writeBoot (updSlot b (fun x => { x with state := .rejected }) s))
      (active s, s)
  | none => (active s, s)

/-- The firmware of a tile of domain `d` under the set in slot `b`: the steward's, or Foothill's. -/
def tileFirmware (s : State) (b : Bool) (d : Fin 8) : List Byte :=
  if d = 0 || !s.part.hasTile d.val then [] else component ((slotAt s b).package.drop 256) (if d = 7 then 4 else 3)

/-- The set in slot `b` runs (Table 15.5 step 4): its supervisor firmware is copied into supervisor SRAM and the others to their tiles. A set in
TRIAL has its confirm window from reset release. -/
def runSlot (b : Bool) (s : State) : State :=
  let trial := (slotAt s b).state == .trial
  let fw := Vector.ofFn fun d : Fin 8 => tileFirmware s b d
  let s := updSuper (fun x => { x with firmware := fw })
    { s with sram := memWrite s.sram (Config.firmwareBase % 0x1800000) (component ((slotAt s b).package.drop 256) 2) }
  updUpd (fun u => { u with
    runningB := b, recovery := false
    state := if trial then .trial else .idle
    trialEnd := if trial then some (s.flash.window.toNat * secondTicks) else none }) s

/-! The layout of the flash (Table 15.4) and of an application store entry (R397). -/

/-- The areas of the flash. -/
inductive FlashArea where
  | boot (copy : Fin 2)
  | secure
  | slot (b : Bool)
  | store (b : Bool)
  deriving DecidableEq, Repr

/-- Where an area starts, and its bytes. -/
def flashRange : FlashArea → Nat × Nat
  | .boot k => (0x10000 * k.val, 0x10000)
  | .secure => (0x100000, 0x100000)
  | .slot b => (if b then 0x3000000 else 0x1000000, 0x2000000)
  | .store b => (if b then 0x8000000 else 0x5000000, 0x3000000)

/-- Where the application image with its envelope and the schedule image with its envelope lie within an entry; each part has 20 MiB. -/
def entryPart (sched : Bool) : Nat × Nat := (if sched then 0x1400000 else 0, 0x1400000)

/-- The other slot is tried; where it does not pass either, the device enters recovery (R385). -/
def tryOther (b : Bool) (s : State) : State :=
  let st := (slotAt s b).state
  if (st == .valid || st == .active) && slotBoots s b then
    runSlot b (writeBoot (updSlot b (fun x => { x with state := .active }) s))
  else
    let s := if st == .valid || st == .active then fallback 3 (writeBoot (updSlot b (fun x => { x with state := .rejected }) s)) else s
    updUpd (fun u => { u with recovery := true }) s

/-- Steps 3 and 4, with the other slot tried where the first fails (R385). -/
def bootSlots (s : State) : State :=
  let (first, s) := chooseSlot s
  match first with
  | none => if (slotAt s false).state == .valid then tryOther false s else tryOther true s
  | some b =>
    if slotBoots s b then runSlot b s
    else tryOther (!b) (fallback 3 (writeBoot (updSlot b (fun x => { x with state := .rejected }) s)))

/-! ### The commands -/

/-- UPD_LOAD. -/
def execUpdLoad (q : Req) (slot : Bool) (s : State) : Out := .next (onPage q .update (cmdUpdLoad slot) s)
/-- UPD_LOAD_END. -/
def execUpdLoadEnd (flashOk : Bool) (s : State) : Out := .next (endUpdLoad flashOk s)
/-- UPD_ACTIVATE. -/
def execUpdActivate (q : Req) (s : State) : Out := .next (onPage q .update cmdUpdActivate s)
/-- UPD_CANCEL. -/
def execUpdCancel (q : Req) (s : State) : Out := .next (onPage q .update cmdUpdCancel s)
/-- UPD_ERASE. -/
def execUpdErase (q : Req) (s : State) : Out := .next (onPage q .update cmdUpdErase s)
/-- UPD_STORE. -/
def execUpdStore (q : Req) (shadow : Bool) (s : State) : Out := .next (onPage q .update (cmdUpdStore shadow) s)
/-- UPD_STORE_END. -/
def execUpdStoreEnd (ok : Bool) (s : State) : Out := .next (endStore ok s)
/-- UPDATE_COMMIT_POINT. -/
def execUpdateCommitPoint (s : State) : Out := .next (updCommit s)
/-- UPD_CONFIRM. -/
def execUpdConfirm (q : Req) (token : Word) (s : State) : Out := .next (onSecure q .update (confirm token) s)
/-- CONFIRM_WINDOW_EXPIRE. -/
def execConfirmWindowExpire (s : State) : Out := .next (windowExpires s)

end Sys2Proof.Machine
end

