-- ==== Sys2Proof/Machine/Fabric.lean ====
section
/-! DEFINITION. The fabric: best-effort packets, open windows, flit failures and links that go down (R16 to R20, R31, R44, R64, R93). -/
namespace Sys2Proof.Machine

/-! ### Links (R18) -/

/-- A link is declared down: both ends of a fabric link show it and assert urgent source 504 (Table 13.3); the field link shows it at the
hub and on the field page. -/
def linkDown (l : Nat) (s : State) : State :=
  match s.part.linkEnds l with
  | none => s
  | some (a, b) => if l = fieldLink then fieldLinkFalls s else portDown b 7 (portDown a 7 (urgent 504 s))

/-- The flit failed again: `again` tells that it is the flit of the link direction's last failure. -/
def failCount (ld : LinkDir) (again : Bool) (s : State) : Nat :=
  if again then ((s.flitFails.find? fun x => x.1 == ld).elim 0 fun x => x.2) + 1 else 1

/-- A flit fails its check code and is sent again; at the third consecutive failure its link goes down, which is handled as a failed
self-test. -/
def flitFails (ld : LinkDir) (again : Bool) (s : State) : State :=
  match s.part.linkEnds ld.link.val with
  | none => s
  | some (a, b) =>
    let n := failCount ld again s
    let t := if ld.back then b.tile else a.tile
    let s := { s with flitFails := (ld, n) :: s.flitFails.filter fun x => x.1 != ld }
    let s := bumpSwitch t 0x12 1 (updSwitch t (fun x => { x with retry := satInc x.retry }) s)
    if n = 3 then failDevice 0xF1 0 (linkDown ld.link.val s) else s

/-! ### Best-effort packets -/

/-- The tag of a packet at its launch (R330): that of the core's window, a tenant window's tenant, or none. -/
def launchTag (src : BeSource) (s : State) : Option (BitVec 3) :=
  match src with
  | .core c => let t := Vec.at s.super.tags c; if t.kernel then none else some t.tenant
  | .hostWindow t => some (BitVec.ofNat 3 t.val)
  | _ => none

/-- The packets a requester may have in flight (R351). -/
def flightLimit : BeSource → Nat
  | .staging => 32
  | .spill => 8
  | .rejoin => 32
  | _ => 16

/-- The flits of a packet: a header and its data. -/
def packetFlits : BeKind → Nat
  | .read _ => 1
  | .write d => 1 + (d.length + 63) / 64

/-- The packets a requester has in flight. -/
def inFlight (src : BeSource) (s : State) : Nat := s.packets.countP fun p => p.src == src

/-- The bytes a packet's request reads or writes. -/
def kindLen : BeKind → Nat
  | .read n => n
  | .write d => d.length

/-- The bytes of a packet's data at most: a packet is at most 5 flits, a header and four of data (R351). -/
def packetBytes : Nat := 256

/-- A packet enters the switch of its route's source tile. -/
def enterPacket (src : BeSource) (route addr : Word) (kind : BeKind) (request : Option Nat) (s : State) : State :=
  let p : Packet := { id := s.nextPacket, src := src, route := route, tenant := launchTag src s, addr := addr, kind := kind,
                      tile := ⟨routeSrc route, by have := (bits route 0 3).isLt; simpa [routeSrc] using this⟩, hop := 0, waiting := 0
                      request := request }
  { s with packets := s.packets ++ [p], nextPacket := s.nextPacket + 1 }

/-- A packet is launched, unless its requester has its limit in flight or it would be longer than a packet is (R351). -/
def launch (src : BeSource) (route addr : Word) (kind : BeKind) (s : State) : State :=
  if flightLimit src ≤ inFlight src s || decide (packetBytes < kindLen kind) then s else enterPacket src route addr kind none s

/-- A completion is sent to the host. -/
def complete (queue : Fin 9) (r : Resp) (s : State) : State := bump .hostLink 0x11 1 (send (.completion queue r) s)

/-- The answer of a host read from the answers of its packets: their bytes in ascending address, or an error. -/
def joinPieces : List (Nat × Option Resp) → Resp
  | [] => .bytes []
  | (_, some (.bytes d)) :: r => match joinPieces r with
    | .bytes e => .bytes (d ++ e)
    | _ => .error
  | _ => .error

/-- A packet of a host request has ended: the request ends with its last packet, and a read is completed (R346). -/
def hostPiece (p : Packet) (r : Resp) (s : State) : State :=
  match p.request.bind fun n => s.host.runs.find? fun x => x.id == n with
  | none => s
  | some x =>
    let ps := x.pieces.map fun y => if y.1 == p.id then (y.1, some r) else y
    let others := s.host.runs.filter fun y => y.id != x.id
    if ps.all fun y => y.2.isSome then
      let s := { s with host := { s.host with runs := others } }
      if x.read then complete x.queue (joinPieces ps) s else s
    else { s with host := { s.host with runs := others ++ [{ x with pieces := ps }] } }

/-- A packet ends with an answer to its requester. -/
def endPacket (p : Packet) (r : Resp) (s : State) : State :=
  hostPiece p r { s with packets := s.packets.filter (fun x => x.id != p.id), resp := r }

/-- What a switch keeps of the last packet it refused or discarded. -/
def noteLast (p : Packet) (discarded : Bool) (x : Switch) : Switch :=
  { x with lastAddr := p.addr, lastTenant := p.tenant.getD 0, lastUntagged := p.tenant.isNone, lastKind := discarded }

/-- A packet is discarded at a tile (R17). -/
def discardPacket (p : Packet) (s : State) : State :=
  endPacket p .error (raiseSwitch p.tile.val 1 1 (updSwitch p.tile.val (fun x => noteLast p true { x with refuseRoute := satInc x.refuseRoute }) s))

/-- May a packet with a tenant number write these pool bytes (R20)? -/
def mayWrite (s : State) (ten : Option (BitVec 3)) (a n : Nat) : Bool :=
  match ten with
  | none => true
  | some t => s.run.active.elim true fun app => ownsBytes app t a n

/-- A packet is delivered at the tile that owns its address: a read, a write, or a refused write. -/
def deliverPacket (p : Packet) (s : State) : State :=
  let a := p.addr.toNat
  match p.kind with
  | .read n =>
    let s := correctIn a n s
    if (badIn s a n).isEmpty then endPacket p (.bytes (memRead s.pool a n)) s else endPacket p .error (countBad a n s)
  | .write d =>
    if mayWrite s p.tenant a d.length then endPacket p .done (poolPut a d s)
    else endPacket p .error (raiseSwitch p.tile.val 1 1
      (updSwitch p.tile.val (fun x => noteLast p false { x with refuseOwner := satInc x.refuseOwner }) s))

/-- Does a tile own every byte of a packet's access? -/
def ownsAddress (s : State) (p : Packet) : Bool :=
  isPool p.addr && tileOf s.part p.addr == some p.tile.val && tileOf s.part (p.addr + BitVec.ofNat 32 (kindLen p.kind - 1)) == some p.tile.val

/-! ### Open windows (R16, R31, R44) -/

/-- The link direction a waiting packet waits for, and the tile it leads to. -/
def waitsFor (s : State) (p : Packet) : Option (Nat × Bool × Nat) :=
  if p.waiting = 0 then none else (codePort p.tile.val (routePort p.route p.hop)).bind (s.part.hop p.tile.val)

/-- Is the present slot the quiet slot (R28)? -/
def inQuiet (s : State) (im : SchedImage) : Bool := lastRound s && s.sched.slot.toNat + 1 == im.roundSlots.toNat

/-- The image whose slots run. -/
def slotImage (s : State) : Option SchedImage := if s.sched.running && s.sched.slotBegun then s.sched.active else none

/-- The instant at which a link direction's window of the present slot opens: the slot start and its open offset, 0 in the quiet slot. -/
def windowStart (s : State) (im : SchedImage) (ld : LinkDir) : Nat :=
  let off := if inQuiet s im then 0 else openOffset im ld.link.val ld.back s.sched.slot.toNat
  s.sched.roundNs + s.sched.slot.toNat * slotNsOf im + off * (slotNsOf im / 20)

/-- The end of the present slot. -/
def slotEnd (s : State) (im : SchedImage) : Nat := s.sched.roundNs + (s.sched.slot.toNat + 1) * slotNsOf im

/-- The flits that a link direction carries from now to an instant of the present slot. -/
def flitsUntil (s : State) (im : SchedImage) (ld : LinkDir) (t : Nat) : Nat :=
  (t - schedNow s) * granuleFlits im ld.link.val / (slotNsOf im / 20)

/-- More flits than all requesters together hold (R351): the room of a link direction that is open without a schedule. -/
def allFlits : Nat := 1400

/-- The flits that a link direction takes now: what its open window has left, as far as the rest of the slot carries it. While no
schedule runs, no slot has a length and no flit is scheduled: every link direction is open all the time (DESIGN CHOICE, log entry 74). -/
def windowRoom (s : State) (ld : LinkDir) : Nat :=
  if !s.sched.running then allFlits
  else match s.sched.active, s.opened.find? fun w => w.ld == ld with
    | some im, some w => min w.left (flitsUntil s im ld w.endNs)
    | _, _ => 0

/-- Held packets of a link direction are sent in order while flits of the window are left; one that has sent its last flit is on its
way to the next tile. -/
def sendFlits (s : State) (ld : LinkDir) : Nat → List Packet → List Packet
  | _, [] => []
  | n, p :: r =>
    match waitsFor s p with
    | some (l, back, t) =>
      if l = ld.link.val && back = ld.back then
        if h : p.waiting ≤ n ∧ t < 8 then { p with waiting := 0, tile := ⟨t, h.2⟩, hop := p.hop + 1 } :: sendFlits s ld (n - p.waiting) r
        else { p with waiting := p.waiting - n } :: sendFlits s ld 0 r
      else p :: sendFlits s ld n r
    | none => p :: sendFlits s ld n r

/-- The flits that wait for a link direction. -/
def flitsWaiting (s : State) (ld : LinkDir) : Nat :=
  s.packets.foldl (fun n p =>
    match waitsFor s p with
    | some (l, back, _) => if l = ld.link.val && back = ld.back then n + p.waiting else n
    | none => n) 0

/-- A link direction sends what its window takes of the flits that wait for it, first come first; each is counted at the switch that
sends it. A link that has been declared down is served as any other, since the spec does not say what becomes of the packets at it
(DESIGN CHOICE, log entry 75). -/
def drainLink (ld : LinkDir) (s : State) : State :=
  match s.part.linkEnds ld.link.val with
  | none => s
  | some (a, b) =>
    let e := if ld.back then b else a
    let sent := min (windowRoom s ld) (flitsWaiting s ld)
    bumpSwitch e.tile (0x20 + e.port) sent (bumpSwitch e.tile 0x11 sent
      { s with
        packets := sendFlits s ld (windowRoom s ld) s.packets
        opened := s.opened.map fun w => if w.ld == ld then { w with left := windowRoom s ld - sent } else w })

/-- A packet stands at the input of a link, behind those that came before it, and is sent as far as an open window takes it; the flits
that are not sent are held to a later one. -/
def holdPacket (id : Nat) (l : Nat) (back : Bool) (s : State) : State :=
  match s.packets.find? (fun p => p.id == id), (if h : l < 17 then some (⟨⟨l, h⟩, back⟩ : LinkDir) else none) with
  | some p, some ld =>
    let t := p.tile.val
    let s := drainLink ld { s with packets := s.packets.filter (fun x => x.id != id) ++ [{ p with waiting := packetFlits p.kind }] }
    bumpSwitch t 0x13 (min (packetFlits p.kind) (flitsWaiting s ld)) s
  | _, _ => s

/-- A packet on its way reaches the switch of its tile, which delivers it, sends it on, or discards it. What a switch goes by are the route's
port codes: a DST that they do not lead to has no effect (DESIGN CHOICE, log entry 108). -/
def packetArrives (id : Nat) (s : State) : State :=
  match s.packets.find? fun p => p.id == id && p.waiting == 0 with
  | none => s
  | some p =>
    if routeCodes p.route ≤ p.hop || !s.part.hasTile p.tile.val then discardPacket p s
    else if routePort p.route p.hop = 8 then (if ownsAddress s p then deliverPacket p s else discardPacket p s)
    else match (codePort p.tile.val (routePort p.route p.hop)).bind (s.part.hop p.tile.val) with
      | none => discardPacket p s
      | some (l, back, _) => holdPacket id l back s

/-- The open window of a link direction begins, once in a slot, and what fits of the held flits is sent. -/
def openWindow (ld : LinkDir) (s : State) : State :=
  match slotImage s with
  | none => drainLink ld s
  | some im =>
    if (s.part.linkEnds ld.link.val).isNone || s.opened.any (fun w => w.ld == ld && w.endNs == slotEnd s im) then s else
    let s := reach (windowStart s im ld) s
    let w : LinkWindow := ⟨ld, slotEnd s im, flitsUntil s im ld (slotEnd s im)⟩
    drainLink ld { s with opened := w :: s.opened.filter fun x => x.ld != ld }

/-- BE_PACKET_LAUNCH. -/
def execBePacketLaunch (src : BeSource) (route : Word) (addr : Word) (kind : BeKind) (s : State) : Out := .next (launch src route addr kind s)
/-- BE_PACKET_ARRIVE. -/
def execBePacketArrive (id : Nat) (upsets : List Upset) (s : State) : Out := .next (packetArrives id (upsets.foldl upset s))
/-- FLIT_CHECK_FAIL. -/
def execFlitCheckFail (ld : LinkDir) (again : Bool) (s : State) : Out := .next (flitFails ld again s)
/-- OPEN_WINDOW_START. -/
def execOpenWindowStart (ld : LinkDir) (s : State) : Out := .next (openWindow ld s)

end Sys2Proof.Machine
end

