-- ==== Sys2Proof/Machine/Power.lean ====
section
/-! DEFINITION. Power, temperature and start-up (Ch. 16). -/
namespace Sys2Proof.Machine

/-! ### Supplies (R403) -/

/-- A rail's index as a field. -/
def railBits (rail : Fin 6) : BitVec 3 := BitVec.ofNat 3 rail.val

/-- A rail leaves its window: DIP. -/
def railDip (rail : Fin 6) (s : State) : State :=
  raise .power 2 none .unstated (updPwr (fun p => { p with dip := setBit p.dip rail.val true }) s)

/-- A supply fault: SUPPLY, urgent source 503 and a record that names the rail; it is handled as a failed self-test. -/
def railFault (rail : Fin 6) (s : State) : State :=
  failDevice 0xF4 0 (raiseUrgent .power 1 503 none (.given (num rail.val 0) 0 0)
    (updPwr (fun p => { p with faults := setBit p.faults rail.val true }) s))

/-! ### PMBus (R405, R407) -/

/-- The reading of READ_VOUT and READ_IOUT. -/
def pmbusRead (mv : BitVec 10) (da : BitVec 12) (s : State) : State := updPwr (fun p => { p with measMv := mv, iout := da }) s

/-- A retry: the first success clears PMB_FAIL. -/
def pmbusRetry (ok : Bool) (s : State) : State := updPwr (fun p => { p with pmbFail := p.pmbFail && !ok }) s

/-! ### Temperature (R408, Table 16.2) -/

/-- The sum of the two middle readings of a tile: twice its median. -/
def medianTwice (ts : Vec (BitVec 11) 4) : Int :=
  let l := (ts.toList.map fun t => t.toInt).insertionSort fun a b => a ≤ b
  l.getD 1 0 + l.getD 2 0

/-- The sensors of a tile that differ from the median by more than 15 degrees (60 units of 0.25). -/
def badSensors (ts : Vec (BitVec 11) 4) : BitVec 4 :=
  bitsOf 4 fun i => if h : i < 4 then
    let d := 2 * (Vec.at ts ⟨i, h⟩).toInt - medianTwice ts
    decide (120 < d) || decide (d < -120) else false

/-- The readings of a tile and its excluded sensors: 0 Saddle, 1 to 6 Crest. -/
def tileTemps (s : State) (t : Fin 7) : Vec (BitVec 11) 4 × BitVec 4 :=
  match crest? (t.val - 1) with
  | some c => if t = 0 then (s.pwr.saddleTemps, s.pwr.saddleBad) else ((Vec.at s.crests c).temps, (Vec.at s.crests c).tempBad)
  | none => (s.pwr.saddleTemps, s.pwr.saddleBad)

/-- The tiles whose sensors decide: Saddle and the Crest tiles present. -/
def tempTiles (s : State) : List (Fin 7) := (List.finRange 7).filter fun t => s.part.hasTile t.val

/-- The readings in use of the device: tile and temperature. -/
def tempsInUse (s : State) : List (Fin 7 × Int) :=
  (tempTiles s).flatMap fun t =>
    let x := tileTemps s t
    ((List.finRange 4).filter fun i => !x.2.getLsbD i.val).map fun i => (t, (Vec.at x.1 i).toInt)

/-- Keep a tile's readings. -/
def putTemps (t : Fin 7) (ts : Vec (BitVec 11) 4) (s : State) : State :=
  match crest? (t.val - 1) with
  | some c => if t = 0 then updPwr (fun p => { p with saddleTemps := ts, saddleBad := badSensors ts }) s
      else updCrest c (fun x => { x with temps := ts, tempBad := badSensors ts }) s
  | none => updPwr (fun p => { p with saddleTemps := ts, saddleBad := badSensors ts }) s

/-- A newly excluded sensor writes a record. -/
def recordBad (t : Fin 7) (was : BitVec 4) (s : State) : State :=
  (List.range 4).foldl (fun s i =>
    if (tileTemps s t).2.getLsbD i && !was.getLsbD i then note .power 0x80 none (num t.val 0) (num i 0) s else s) s

/-- The hottest reading in use and its tile. -/
def hottest (s : State) : Fin 7 × Int :=
  (tempsInUse s).foldl (fun w x => if w.2 < x.2 then x else w) (0, -1024)

/-- Does a sensor read below -60 degrees? -/
def isCold (s : State) : Bool := (tempsInUse s).any fun x => decide (x.2 < -240)

/-- Step 2 of Table 16.5 begins: the tiles present are powered in ascending position, held in reset with their domains STARTING. -/
def beginRamp (s : State) : State :=
  if s.pwr.stage != 2 || s.pwr.coldHold || s.pwr.rampNs.isSome then s
  else
    updPwr (fun p => { p with rampNs := some (localNs s) })
      ((presentCrests s).foldl (fun s c => setPd ⟨c.val + 1, by omega⟩ .starting s) s)

/-- HOT, COLD_HOLD and PWR_TMAX follow the readings. A cold sensor holds start-up step 2. -/
def tempConds (s : State) : State :=
  let hot := hottest s
  noteConds [.power] s (updPwr (fun p => { p with
    tmax := BitVec.ofInt 11 hot.2, tmaxTile := BitVec.ofNat 3 hot.1.val
    hot := decide (560 ≤ hot.2) || (p.hot && decide (540 ≤ hot.2))
    coldHold := p.coldHold && isCold s }) s)

/-- A tile's sensors are read; `held` tells that one at 150 degrees or above has been so for 1 ms. -/
def tempRead (t : Fin 7) (ts : Vec (BitVec 11) 4) (held : Bool) (s : State) : State :=
  if !s.part.hasTile t.val then s else
  let was := (tileTemps s t).2
  let s := beginRamp (tempConds (recordBad t was (putTemps t ts s)))
  let hot : Int := ((tempsInUse s).filter fun x => x.1 == t).foldl (fun w x => max w x.2) (-1024)
  if held && decide (600 ≤ hot) then
    failDevice 0xF5 (BitVec.ofNat 3 t.val)
      (recordEvent .power 0x81 none 7 (.given (num t.val 0) (BitVec.ofInt 32 hot) 0) (urgent 502 s))
  else s

/-! ### Reset release and boot (R409, R412, Table 15.5) -/

/-- When step 2 has powered the last tile present, in local nanoseconds: 1 ms, 2 ms for each further tile and 0.2 ms for its engines. -/
def rampEnd (s : State) : Nat := s.pwr.rampNs.getD 0 + 2000000 * (presentCrests s).length - 800000

/-- The stage that PWR_STAT shows: step 2 gives way to step 3 once every tile is powered. -/
def stageShown (s : State) : BitVec 4 :=
  if s.pwr.stage == 2 && s.pwr.rampNs.isSome && decide (rampEnd s ≤ localNs s) then 3 else s.pwr.stage

/-- A reset is released: straps are sampled, VOUT_MODE is read, the timebase starts from 0, the boot ROM runs and Foothill takes its link reset.
A sensor below -60 degrees now holds step 2 until every sensor reads -60 degrees or above (Table 16.2; log entry 62). -/
def releaseReset (st : Straps) (voutMode : Byte) (s : State) : State :=
  if s.pwr.released then s else
  let s := updPwr (fun p => { p with released := true, stage := 2, straps := st, voutMode := voutMode }) { s with tb := {} }
  let s := updHis (fun h => { h with hisBif := st.hisBif }) (updTrio (fun t => { t with member := st.trioId }) s)
  let s := if s.part.hasField && s.field.powered then resetFoothill false s else s
  let s := if s.part.hasField then setPd 7 .starting s else s
  bootRom (beginRamp (noteConds [.power] s (updPwr (fun p => { p with coldHold := isCold s }) s)))

/-- Boot is complete, no sooner than step 2 has ended: a slot's set runs and the supervisor cores start, or the device is in recovery. -/
def bootComplete (s : State) : State :=
  if !s.pwr.released || s.pwr.stage != 2 || s.pwr.coldHold || s.upd.recovery then s else
  let s := passTicks ((rampEnd s - localNs s) / 2) s
  let s := bootSlots (if s.pwr.causeKind == 3 then fallback 1 s else s)
  if s.upd.recovery then s
  else
    updPwr (fun p => { p with stage := 4 })
      (updSuper (fun x => { x with live := 0xF, wdogNs := Vector.replicate 4 (localNs s + 1000000 * x.wdogMs.toNat) }) s)

/-! ### Self-test (R100, R412) -/

/-- The tile that fails the start: more than two engines, or its memory. -/
def failedTile (s : State) (failed : Vec (BitVec 18) 6) (memFail : BitVec 6) : Option (Fin 6) :=
  (presentCrests s).find? fun c => decide (2 < popcount (Vec.at failed c)) || memFail.getLsbD c.val

/-- The links of the configuration that failed. -/
def failedLinks (s : State) (linkFails : BitVec 17) : List Nat :=
  (List.range 17).filter fun l => (s.part.linkEnds l).isSome && (linkFails.getLsbD l || (l == fieldLink && !s.field.linkUp))

/-- The self-tests end: each tile's engines that failed are retired and its domain is ON, or OFF where its test failed (R342). The start fails, or
speed characterisation begins with VCORE commanded to the floor (`ack`: R407). -/
def selftestEnd (failed : Vec (BitVec 18) 6) (memFail : BitVec 6) (linkFails : BitVec 17) (ack : Bool) (s : State) : State :=
  if s.pwr.stage != 4 then s else
  let ls := failedLinks s linkFails
  let s := (presentCrests s).foldl (fun s c => testEnds (Vec.at failed c) (memFail.getLsbD c.val) c s) s
  let s := { s with hub := { s.hub with up := s.part.usedPorts 0 } }
  let s := if !s.part.hasField then s else if ls.contains fieldLink then pdFails 7 s else setPd 7 .on s
  let s := ls.foldl (fun s l => linkDown l s) s
  match failedTile s failed memFail with
  | some c => startFails 0xF0 (BitVec.ofNat 3 (c.val + 1)) s
  | none =>
    if !ls.isEmpty then startFails 0xF1 0 s
    else writeVout s.pwr.vfloor ack (updPwr (fun p => { p with stage := 5, floorSet := ack && !p.pmbFail }) s)

/-! ### Speed characterisation (R413) -/

/-- Each tile present measures as in R83: its eight readings, the lowest of them and the monitor that gave it. -/
def putSpeeds (readings : Vec (Vec (BitVec 12) 8) 6) (s : State) : State :=
  (presentCrests s).foldl (fun s c =>
    let m := lowestReading (Vec.at readings c)
    updCrest c (fun x => { x with readings := Vec.at readings c, speedMin := m.1, speedMon := m.2 }) s) s

/-- GUARD of each tile, as R84 applies. -/
def putGuards (s : State) : State :=
  noteConds ((presentCrests s).map .engine) s
    ((presentCrests s).foldl (fun s c => updCrest c (fun x => { x with guard := decide (x.speedMin.toNat ≤ 1105) }) s) s)

/-- A step of speed characterisation: the floor is commanded first, where it has not been (R407), and then VCORE rises by 5 mV until the device
reading is 1,152 or VCORE is at 0.85 V. -/
def speedStep (readings : Vec (Vec (BitVec 12) 8) 6) (ack : Bool) (s : State) : State :=
  if s.pwr.stage != 5 then s else
  let s := putSpeeds readings s
  let r := (deviceReading s).toNat
  let ok := ack && !s.pwr.pmbFail
  if !s.pwr.floorSet then writeVout s.pwr.vfloor ack (updPwr (fun p => { p with floorSet := ok }) s)
  else if 1152 ≤ r || 850 ≤ s.pwr.setMv.toNat then
    let s := putGuards s
    if r < 1024 then startFails 0xF2 0 s else updPwr (fun p => { p with stage := 6 }) s
  else writeVout (BitVec.ofNat 10 (min 850 (s.pwr.setMv.toNat + 5))) ack s

/-! ### Image and context (R397, R412) -/

/-- The checks of Table 15.3 on an image kept with its envelope: those whose outcome may have changed since it was stored. -/
def recheckEnv (s : State) (ty : EnvType) (e : Option Envelope) (headerCompat : Option (BitVec 16)) : Byte :=
  match e with
  | none => 0xD0
  | some e =>
    if !signerOk s ty [] e.signer.toNat then 0xD1
    else if e.serial != 0 && e.serial != s.otp.serial then 0xD4
    else if (runningSlot s).compat < e.compat || headerCompat.elim false (fun c => c != e.compat) then 0xD6
    else if s.store.ownerLock then 0xD7
    else 0

/-- The checks of Table 2.21 on a schedule image kept as data. -/
def checkKept (s : State) (im : SchedImage) : Option Fail :=
  let p := s.part
  require (im.config == p.code) ⟨4, 0, 0⟩ <|> checkRoutes p im <|> checkRanges s im <|> checkPlacement im <|> checkEngines im <|>
  checkPorts im <|> checkLinks p im <|> checkLoops s im <|> checkGates im <|> checkCans im <|> checkQuiet im <|>
  checkOwners s im <|> checkRemaps p im <|> checkSize p im

/-- A loop slot as at start-up with its block (R150): input and state blocks 0; an invalid block shows BAD.
DESIGN CHOICE (log entry 114): such a slot counts, until its first step, as one that showed BAD at its last step (R155). -/
def startLoop (x : LoopCfg) (s : State) : State :=
  let base := x.loop.toNat * 256
  let s := loopWritten x.crest base 64 (loopWritten x.crest (base + 0x80) 128 s)
  updLoop x.crest (fun a =>
    let bad := !blockValid x.params
    let m := memClear (memClear a.mem base 64) (base + 0x80) 64
    let a := lput x.loop 0x60 [flag bad 11] (putParams x.loop x.params { a with mem := m })
    { a with
      held := a.held.filter (fun y => y.1 != x.loop)
      lastStep := (x.loop, bad) :: a.lastStep.filter fun y => y.1 != x.loop }) s

/-- An application store entry passes the validation of step 6: the envelope code of its check, and whether it passes. -/
def entryPasses (s : State) (e : StoreEntry) : Byte × Bool :=
  let a := recheckEnv s .app e.appEnv none
  if a != 0 then (a, false)
  else if (require (e.app.config == s.part.code) ⟨4, 0, 0⟩ <|> checkBanks s.part none e.app <|>
      require (!(e.app.safety.isSome && s.part == .acr9602)) ⟨0x2B, 0, 0⟩).isSome then (0, false)
  else
    let b := recheckEnv s .sched e.schedEnv (some e.sched.compat)
    if b != 0 then (b, false)
    else (0, (checkKept (e.app.loops.foldl (fun s x => startLoop x s) { s with run := { s.run with active := some e.app } }) e.sched).isNone)

/-- An entry of the application store. -/
def storeAt? (s : State) (b : Bool) : Option StoreEntry := if b then s.flash.store1 else s.flash.store0

/-- Try an entry. -/
def tryEntry (s : State) (b : Bool) : Byte × Bool := (storeAt? s b).elim (0xD0, false) (entryPasses s)

/-- Step 6: the current entry, else the other one, which becomes current; else the start fails. -/
def imageEnd (s : State) : State :=
  if s.pwr.stage != 6 then s else
  let cur := s.flash.current
  let r := tryEntry s cur
  let s := updUpd (fun u => { u with env := r.1 }) s
  if r.2 then updPwr (fun p => { p with stage := 7 }) s
  else
    let q := tryEntry s (!cur)
    let s := updUpd (fun u => { u with env := q.1 }) s
    if q.2 then updPwr (fun p => { p with stage := 7 }) (writeBoot (updFlash (fun f => { f with current := !cur }) s))
    else startFails 0xF3 0 s

/-- The configuration that blocks take from the active application image: CAN kinds and timing (the reset values in a controller without
configuration), port rates, UART latches, watchdogs, partition period (R307, R310, R311, R323, R329, R330, R432). -/
def applyAppConfig (a : AppImage) (s : State) : State :=
  let s := (List.finRange 16).foldl (fun s c => updCan c (fun x =>
    match a.cans.lookup c with
    | some g => { x with
        kinds := Vector.ofFn fun b : Fin 64 => (g.kinds.lookup b).getD .unused
        nbt := if x.detected then x.nbt else g.nbt, dbt := if x.detected then x.dbt else g.dbt }
    | none => { x with kinds := Vector.replicate 64 .unused, nbt := ({} : Can).nbt, dbt := ({} : Can).dbt }) s) s
  let s := (List.finRange 8).foldl (fun s i => updPort ⟨i.val, by omega⟩ (fun x => { x with
    rate := ((a.ports.lookup i).bind fun g => g.rate).elim x.rate fun r => if r = 3 then 2 else r }) s) s
  let s := (List.finRange 8).foldl (fun s u => updUart u (fun x => { x with latched := a.uartLatched.getLsbD u.val }) s) s
  refreshShares (updSuper (fun x => { x with wdogMs := a.watchdogMs, period := a.partitionUs }) s)

/-- Every committed copy takes its initial content, and working copies are 0 (step 7). -/
def loadCopies (a : AppImage) (s : State) : State :=
  let pool := a.taskInit.foldl (fun m c => memWrite m c.1 c.2) s.pool
  let pool := a.keys.foldl (fun m e => match e.init with
    | some d => memWrite m e.addr (takePad e.size d)
    | none => m) pool
  { s with pool := (regionsOf a .working).foldl (fun m r => memClear m r.addr r.len) pool }

/-- The pages the device locks at step 7 (R307, R325). -/
def lockPages (pgs : List Page) (s : State) : State := pgs.foldl (fun s pg => updHdr pg (fun h => { h with lock := true }) s) s

/-- The ports and UARTs. -/
def portPages : List Page := (List.finRange 10).map .port ++ (List.finRange 8).map .uart

/-- Step 7: the entry's images are active and its contents are loaded. -/
def loadEntry (e : StoreEntry) (s : State) : State :=
  let old := s
  let s := updRun (fun r => { r with active := some e.app, activeEnv := e.appEnv }) s
  let s := updSched (fun x => { x with active := some e.sched, activeEnv := e.schedEnv }) s
  let s := loadCopies e.app (copyCode e.app s)
  let s := e.app.loops.foldl (fun s x => startLoop x s) s
  lockPages portPages (noteConds [.panel] old (refreshField (applyAppConfig e.app s)))

/-- The seal check of step 8 (R197): the configuration is accepted and the device is ready, or it is in SAFE-HOLD. -/
def sealCheck (s : State) : State :=
  match safetyCfg s with
  | none => becomeReady s
  | some c =>
    if s.safety.sealNow == c.sealCode then becomeReady (startFuncs (updSafety (fun x => { x with accepted := true }) s))
    else enterSafeHold s

/-- Steps 7 and 8 end. -/
def contextEnd (s : State) : State :=
  if s.pwr.stage != 7 then s else
  match storeAt? s s.flash.current with
  | none => s
  | some e => sealCheck (updPwr (fun p => { p with stage := 8 }) (loadEntry e s))

/-! ### The commands -/

/-- RESET_RELEASE. -/
def execResetRelease (straps : Straps) (voutMode : Byte) (s : State) : Out := .next (releaseReset straps voutMode s)
/-- BOOT_COMPLETE. -/
def execBootComplete (s : State) : Out := .next (bootComplete s)
/-- STARTUP_SELFTEST_END. -/
def execStartupSelftestEnd (failed : Vec (BitVec 18) 6) (memFail : BitVec 6) (linkFails : BitVec 17) (ack : Bool) (s : State) : Out :=
  .next (selftestEnd failed memFail linkFails ack s)
/-- SPEED_CHAR_STEP. -/
def execSpeedCharStep (readings : Vec (Vec (BitVec 12) 8) 6) (ack : Bool) (s : State) : Out := .next (speedStep readings ack s)
/-- STARTUP_IMAGE_END. -/
def execStartupImageEnd (s : State) : Out := .next (imageEnd s)
/-- STARTUP_CONTEXT_END. -/
def execStartupContextEnd (s : State) : Out := .next (contextEnd s)
/-- RAIL_DIP. -/
def execRailDip (rail : Fin 6) (s : State) : Out := .next (railDip rail s)
/-- RAIL_FAULT. -/
def execRailFault (rail : Fin 6) (s : State) : Out := .next (railFault rail s)
/-- PMBUS_READ. -/
def execPmbusRead (mv : BitVec 10) (da : BitVec 12) (s : State) : Out := .next (pmbusRead mv da s)
/-- PMBUS_FAIL. -/
def execPmbusFail (s : State) : Out := .next (pmbusFail s)
/-- PMBUS_RETRY. -/
def execPmbusRetry (ok : Bool) (s : State) : Out := .next (pmbusRetry ok s)
/-- TEMP_READ. -/
def execTempRead (tile : Fin 7) (temps : Vec (BitVec 11) 4) (held : Bool) (s : State) : Out := .next (tempRead tile temps held s)
/-- PMB_ALERT: a falling edge on PMB_ALERT_N writes an event record and has no other effect. The spec gives its number none (log entry 40). -/
def execPmbAlert (s : State) : Out :=
  .next (let (w, s) := drawFree 8 s; recordEvent .power (0x80 + (w.toNat % 128)) none (severity .power 0x80) .unstated s)

end Sys2Proof.Machine
end

