-- ==== Sys2Proof/Machine/Slots.lean ====
section
/-! DEFINITION. The slot (Ch. 2, 3, 5, 6): context loads and unloads, scheduled transfers, trio exchanges, captures, engine and loop
steps, and the slot deadline. -/
namespace Sys2Proof.Machine

/-! ### Scheduled writes -/

/-- One flit into Saddle's endpoint space: a station's output payload or a CAN transmit area. -/
def writeSaddle (off : Nat) (d : List Byte) (s : State) : State :=
  if 0x1800000 ≤ off && off < 0x1880000 then
    updStation (stationOf ((off - 0x1800000) / 0x800)) (fun r => { r with output := memWrite r.output (off % 0x800) d }) s
  else if h : 0x3200000 ≤ off ∧ off < 0x3220000 then
    updCan ⟨(off - 0x3200000) / 0x2000, by omega⟩ (fun x => { x with txData := memWrite x.txData (off % 0x2000) d }) s
  else s

/-- One flit at an endpoint address. -/
def writeFlit (a : Word) (d : List Byte) (s : State) : State :=
  let off := epOff a
  if epTile a = 0 then writeSaddle off d s
  else match crest? (epTile a - 1) with
    | some c => loopPut c off d s
    | none => if off < 0x2000 then writeFieldFlit off d s else writePanelFlit off d s

/-- Does a write at an endpoint address take effect at the end of its slot (R134, R319)? -/
def endsWithSlot (a : Word) : Bool :=
  (crest? (epTile a - 1)).isSome && epTile a != 0 || (epTile a == 0 && decide (0x3200000 ≤ epOff a))

/-- One flit written in its slot. -/
def putFlit (a : Word) (d : List Byte) (s : State) : State :=
  if endsWithSlot a then { s with staged := s.staged ++ [(a, d)] } else writeFlit a d s

/-- The bytes of a scheduled write. -/
def writeSpan (a : Word) (d : List Byte) (s : State) : State :=
  if isPool a then poolPut a.toNat d s
  else (List.range (d.length / 64)).foldl (fun s k => putFlit (a + BitVec.ofNat 32 (64 * k)) ((d.drop (64 * k)).take 64) s) s

/-- The end of a slot: what its transfers wrote to loop records and CAN transmit areas takes effect. -/
def endSlotWrites (s : State) : State := s.staged.foldl (fun s x => writeFlit x.1 x.2 s) { s with staged := [] }

/-! ### Flits on the way (R43, R45, Table 17.8) -/

/-- The switch ports a route's flits leave by. -/
def hopsFrom (p : Part) : Nat → List Nat → List (Nat × Nat)
  | t, c :: r =>
    match codePort t c with
    | some q => match p.hop t q with
      | some (_, _, t') => (t, q) :: hopsFrom p t' r
      | none => []
    | none => []
  | _, [] => []

/-- `n` scheduled flits travel along route entry `i`. -/
def countRoute (im : SchedImage) (i n : Nat) (s : State) : State :=
  let w := routeAt im i
  (hopsFrom s.part (routeSrc w) ((List.range (routeCodes w)).map (routePort w))).foldl
    (fun s x => bumpSwitch x.1 (0x20 + x.2) n (bumpSwitch x.1 0x10 n s)) s

/-- `n` flits travel from the tile of an address toward Saddle. -/
def countToSaddle (im : SchedImage) (a : Word) (n : Nat) (s : State) : State :=
  match tileOf s.part a with
  | some t => if t = 0 then s else countRoute im (8 * t) n s
  | none => s

/-! ### Engines (R31, R40, R71, R88, R94 to R97) -/

/-- The entry of a logical engine of a tile in slot `k` of the present round. -/
def entryAt (s : State) (im : SchedImage) (c : Fin 6) (l k : Nat) : Option EngineStep :=
  im.engineSteps.find? fun e => e.crest.toNat == c.val && e.logical.toNat == l && e.t.slot.toNat == k && timingActive e.t s.sched.round

/-- Is a task out of the round: abandoned, or stopped? -/
def stepOut (s : State) (d : StepDesc) : Bool := taskOut s (d.tenant, d.task)

/-- The idle half of an engine. -/
def idleHalf (g : Engine) : Half := if g.half then g.half0 else g.half1

/-- Change the idle half. -/
def updIdle (f : Half → Half) (g : Engine) : Engine := if g.half then { g with half0 := f g.half0 } else { g with half1 := f g.half1 }

/-- The half that the step before used: the other half once the slot's step has taken its own. -/
def lastHalf (g : Engine) : Half := if g.taken then idleHalf g else curHalf g

/-- Change the half that the step before used. -/
def updLast (f : Half → Half) (g : Engine) : Engine := if g.taken then updIdle f g else updHalf f g

/-- The descriptor of the step that an engine has in the slot, if its half holds it and nothing keeps it from starting. -/
def startable (im : SchedImage) (e : EngRef) (h : Half) (s : State) : Option (Nat × StepDesc) :=
  let t := Vec.at s.crests e.crest
  ((logicalOf t e.eng).bind fun l => (entryAt s im e.crest l s.sched.slot.toNat).map fun x => (l, descAt im x)).filter fun x =>
    !t.retired.getLsbD e.eng.val && !stepOut s x.2 && h.desc == some x.2

/-- At a slot start an engine whose step will start takes the half it did not use before (R71). -/
def takeHalf (im : SchedImage) (c : Fin 6) (s : State) (i : Fin 18) : State :=
  let e : EngRef := ⟨c, i⟩
  let starts := (startable im e (idleHalf (engineAt s e)) s).isSome
  updEngine e (fun g => { g with half := xor g.half starts, taken := starts, unloaded := none }) s

/-- The implied unload of the step that ran in the slot before: it writes its state where the step ended with HALT. An engine retired
since then delivers nothing, and the step's task is abandoned. -/
def unloadStep (im : SchedImage) (e : EngRef) (entry : EngineStep) (s : State) : State :=
  let d := descAt im entry
  if (Vec.at s.crests e.crest).retired.getLsbD e.eng.val then abandonTask d.tenant d.task false s
  else
    let h := lastHalf (engineAt s e)
    let s := updEngine e (fun g => updLast (fun h => { h with desc := none, done := false }) { g with unloaded := some d }) s
    if h.desc == some d && h.done && d.stateLen != 0 then
      countRoute im entry.routeOut.toNat d.stateLen.toNat
        (poolPut d.stateOut.toNat (memRead h.mem 0x4000 (64 * d.stateLen.toNat)) s)
    else s

/-- The implied load of the next slot's step into the half that this slot's step does not use. The first load of a task under repair without
its repair abandons the task again (R169), and a poisoned flit raises POISON. -/
def loadStep (im : SchedImage) (e : EngRef) (entry : EngineStep) (s : State) : State :=
  let d := descAt im entry
  if (Vec.at s.crests e.crest).retired.getLsbD e.eng.val then s
  else
    let r := taskRt s d.tenant d.task
    let s := if r.repair && !r.repaired then abandonTask d.tenant d.task false s else s
    let code := memRead s.pool d.codeAddr.toNat (64 * d.codeLen.toNat)
    let st := memRead s.pool d.stateIn.toNat (64 * d.stateLen.toNat)
    let poisoned := !(spanBad s d.codeAddr (64 * d.codeLen.toNat)).isEmpty || !(spanBad s d.stateIn (64 * d.stateLen.toNat)).isEmpty
    let s := scanSpan d.stateIn (64 * d.stateLen.toNat) (scanSpan d.codeAddr (64 * d.codeLen.toNat) s)
    let s := countRoute im entry.routeCode.toNat d.codeLen.toNat s
    let s := if d.stateLen = 0 then s else countRoute im entry.routeIn.toNat d.stateLen.toNat s
    let s := updEngine e (updIdle fun _ =>
      { mem := memWrite (memWrite [] 0 code) 0x4000 st, codeLen := d.codeLen, stateLen := d.stateLen, desc := some d, done := false }) s
    if poisoned then engineX e xPoison 0 0 (some d) 0 s else s

/-- The implied transfers of one engine-step entry in the present slot (R40): the unload of a step of the slot before, the load of one of the
next slot. -/
def impliedTransfers (im : SchedImage) (s : State) (x : EngineStep) : State :=
  match crest? x.crest.toNat with
  | none => s
  | some c =>
    match if crestLive s c && timingActive x.t s.sched.round then physicalOf (Vec.at s.crests c) x.logical else none with
    | none => s
    | some i =>
      if x.t.slot.toNat + 1 = s.sched.slot.toNat then unloadStep im ⟨c, i⟩ x s
      else if x.t.slot.toNat = s.sched.slot.toNat + 1 then loadStep im ⟨c, i⟩ x s
      else s

/-- An engine starts its step from the start state of Table 3.1; a step whose task is out of the round by now is not started, and its half
is as if not taken: the halves change their places. -/
def startStep (im : SchedImage) (c : Fin 6) (s : State) (i : Fin 18) : State :=
  let e : EngRef := ⟨c, i⟩
  let g := engineAt s e
  if !g.taken then s
  else match startable im e (curHalf g) s with
    | none => updEngine e (fun g => { g with half := !g.half, half0 := g.half1, half1 := g.half0, taken := false }) s
    | some (l, d) =>
      bump (.engine c) 0x10 1 (updEngine e (fun g => { g with
        regs := Vector.replicate 32 0, pc := 0, acc := 0, mode := 0x14, modeWritten := 0x14, modeNext := none
        flags := 0, loops := [], delay := none, jumped := false
        run := some ⟨d, s.sched.slot, BitVec.ofNat 4 l, schedNow s⟩ }) s)

/-! ### Transfers (R43, R106, R161, R169, R172, R190, R299) -/

/-- Does an address lie in the working copy of a task that is out of the round? -/
def workingOut (s : State) (a : Word) : Bool :=
  isPool a && (tasksOf s).any fun t => taskOut s (t.tenant, t.task) &&
    decide (t.working ≤ a.toNat) && decide (a.toNat < t.working + blockBytes t)

/-- Is a transfer a task's commit transfer, from its working onto its committed copy (R105)? -/
def isCommit (s : State) (e : Transfer) : Bool :=
  isPool e.src && isPool e.dst && (tasksOf s).any fun t =>
    decide (t.working ≤ e.src.toNat) && decide (e.src.toNat < t.working + blockBytes t) &&
    decide (t.committed ≤ e.dst.toNat) && decide (e.dst.toNat < t.committed + blockBytes t)

/-- What a move reads of the trio areas. -/
inductive MoveFrom where
  | elsewhere
  | mirror (p : TrioPort) (bank : Bool)
  | repairSlot (p : TrioPort) (off : Nat)
  deriving DecidableEq, Repr

/-- Where a transfer reads from. -/
def moveFrom (e : Transfer) : MoveFrom :=
  let off := epOff e.src
  if isPool e.src || epTile e.src != 0 then .elsewhere
  else if 0x2000000 ≤ off && off < 0x2800000 then
    let p : TrioPort := if off < 0x2400000 then .a else .b
    let r := off % 0x200000
    if e.device && 0x100000 ≤ r && r < 0x1F0000 then .mirror p (off / 0x200000 % 2 == 1) else .elsewhere
  else if 0x2800000 ≤ off && off < 0x2A00000 then .repairSlot .a (off - 0x2800000)
  else if 0x2A00000 ≤ off && off < 0x2C00000 then .repairSlot .b (off - 0x2A00000)
  else .elsewhere

/-- The task of the mirror entry that an address lies in. -/
def mirrorDest (s : State) (a : Word) : Option (BitVec 3 × BitVec 8) :=
  ((mirrorEntries s).find? fun x =>
    decide (x.1.toNat ≤ a.toNat) && decide (a.toNat < x.1.toNat + 64 * (bits x.2 0 16).toNat)).map mirrorTask

/-- Does a standby, a member that copies, or one that listens take a mirror move in this round: the last round's data stand whole on the port,
and the task is neither left out nor under repair here? -/
def mirrorTakes (s : State) (p : TrioPort) (bank : Bool) (dst : Word) : Bool :=
  (s.trio.role == .standby || s.trio.phase == 3 || listening s) && s.trio.mirrorHere == some p && bank == !s.trio.t.getLsbD 0 &&
  (mirrorDest s dst).elim false fun n => !s.trio.mirrorSkip.contains n && !(taskRt s n.1 n.2).repair

/-- The task whose repair slot holds an offset of the repair area. -/
def repairTask (s : State) (off : Nat) : Option Task :=
  (tasksOf s).find? fun t => decide (t.repairOff ≤ off) && decide (off < t.repairOff + 64 * t.repairFlits)

/-- The flits that a task's repair has: the variable and output sections and the state blocks of its loop slots (R169). -/
def repairLen (s : State) (t : Task) : Nat := t.variableFlits + t.outputFlits + (attributedLoops s t).length

/-- Has a task's repair of the last round arrived whole on a port? The slot may be larger than it (R299). -/
def repairHere (s : State) (p : TrioPort) (t : Task) : Bool :=
  covered ((s.trio.repairFlits.filter fun x => x.1 == p && x.2.1 + 1 == s.trio.t && x.2.2.1 == (t.tenant, t.task)).map fun x => x.2.2.2) (repairLen s t)

/-- Does the donor forward what a transfer writes: a commit transfer, or a device-owned write to a copied region (R190)? -/
def forwards (s : State) (e : Transfer) : Bool := isCommit s e || (e.device && inRegions s.run.active e.dst.toNat)

/-- One flit of a transfer, read from the state `was` at the slot's start of the move; a poisoned flit is discarded (R93, R95). -/
def moveFlit (was : State) (e : Transfer) (s : State) (k : Nat) : State :=
  let off := BitVec.ofNat 32 (64 * k)
  if !flitGood was e.src k then s
  else
    let d := readFlit was (e.src + off)
    let s := writeSpan (e.dst + off) d s
    if forwards was e then forwardBytes (e.dst + off) d s else s

/-- A transfer moves its flits. What a commit transfer replaces is kept for a stop in the round. -/
def moveFlits (im : SchedImage) (e : Transfer) (s : State) : State :=
  let n := e.len.toNat
  let t := scanSpan e.src (64 * n) (countRoute im e.route.toNat n s)
  let t := if isCommit s e then
      updRun (fun r => { r with undo := (e.dst.toNat, memRead s.pool e.dst.toNat (64 * n)) :: r.undo }) t
    else t
  (List.range n).foldl (fun t k => moveFlit s e t k) t

/-- A transfer in its slot. -/
def transfer (im : SchedImage) (s : State) (e : Transfer) : State :=
  match moveFrom e with
  | .elsewhere => if workingOut s e.src then s else moveFlits im e s
  | .mirror p bank => if mirrorTakes s p bank e.dst then moveFlits im e s else s
  | .repairSlot p off =>
    match repairTask s off with
    | some t =>
      let r := taskRt s t.tenant t.task
      if r.repair && repairHere s p t then
        updTask t.tenant t.task (fun r => { r with repaired := true }) (moveFlits im e s)
      else s
    | none => s

/-- Is an entry due in the present slot of the round? -/
def dueNow (s : State) (t : Timing) : Bool := t.slot == s.sched.slot && timingActive t s.sched.round

/-! ### Exchanges and captures (R50, R51) -/

/-- A trio exchange in its slot. -/
def exchange (im : SchedImage) (s : State) (e : TrioExchange) : State :=
  if !dueNow s e.t || !sendsKind s e.kind.toNat then s else sendExchange e (countToSaddle im e.addr e.len.toNat s)

/-- A historian capture in its slot. -/
def captureEntry (im : SchedImage) (s : State) (x : Capture × Nat) : State :=
  if !dueNow s x.1.t then s else
  let n := x.1.len.toNat
  capture im x.2 x.1 (readSpan s x.1.src n) (scanSpan x.1.src (64 * n) (countToSaddle im x.1.src n s))

/-! ### SLOT_START -/

/-- What the slot's transfers do: all of them where the device computes; the mirror moves alone while it copies (R190). -/
def slotTransfers (im : SchedImage) (s : State) : State :=
  let due := im.transfers.filter fun e => dueNow s e.t
  if computes s then due.foldl (transfer im) s
  else if s.trio.phase = 3 then
    (due.filter fun e => match moveFrom e with
      | .mirror _ _ => true
      | _ => false).foldl (transfer im) s
  else s

/-- The engines of the tiles that are ON. -/
def liveEngines (s : State) : List EngRef :=
  ((presentCrests s).filter (crestOn s)).flatMap fun c => (List.finRange 18).map fun i => ⟨c, i⟩

/-- No tile's loop steps are late yet in a new slot. -/
def clearLate (s : State) : State := { s with crests := s.crests.map fun t => { t with loopsLate := false } }

/-- No engine takes a half of its data memory in a slot of a device that does not compute. -/
def noneTaken (s : State) : State :=
  { s with crests := s.crests.map fun t => { t with engines := t.engines.map fun g => { g with taken := false } } }

/-- The next slot of the round begins, in the order of R45: implied transfers, transfers, trio exchanges, captures. `upsets` are the errors
that have arisen in the words since the last command that named any. -/
def slotStart (upsets : List Upset) (s : State) : State :=
  match s.sched.active with
  | none => s
  | some im =>
    let k := if s.sched.slotBegun then s.sched.slot.toNat + 1 else 0
    if !s.sched.running || decide (im.roundSlots.toNat ≤ k) then s else
    let s := upsets.foldl upset (reach (s.sched.roundNs + k * slotNsOf im) s)
    let s := updSched (fun x => { x with slot := BitVec.ofNat 20 k, slotBegun := true, canDone := [] }) (endSlotWrites s)
    let s := clearLate s
    let s := if computes s then
        im.engineSteps.foldl (impliedTransfers im) ((liveEngines s).foldl (fun s e => takeHalf im e.crest s e.eng) s)
      else noneTaken s
    let s := drainTrio (im.exchanges.foldl (exchange im) (slotTransfers im s))
    if computes s then im.captures.zipIdx.foldl (captureEntry im) s else s

/-! ### STEP_START -/

/-- The loop-step entries of the slot on a tile. -/
def loopsDue (im : SchedImage) (s : State) (c : Fin 6) : List LoopStep := im.loopSteps.filter fun e => e.crest.toNat == c.val && dueNow s e.t

/-- A tile's loop steps of the slot. Where only the first `n` end in time, the others write nothing (R133). -/
def loopEntries (im : SchedImage) (ended : Vec (Option (BitVec 7)) 6) (s : State) (c : Fin 6) : State :=
  if !crestLive s c then s else
  let due := loopsDue im s c
  let n := (Vec.at ended c).elim due.length fun n => n.toNat
  (due.take n).zipIdx.foldl (fun s x => runLoopEntry c x.1.loop ((due.take x.2).any fun y => y.loop == x.1.loop) s) (updCrest c (fun t => { t with loopsLate := decide (n < due.length) }) s)

/-- 40 ns after the slot start, engines and loop steps start. `ended` gives, for a tile whose loop steps will not all end by the deadline, how
many will; `upsets` are errors that have arisen. -/
def stepStart (upsets : List Upset) (ended : Vec (Option (BitVec 7)) 6) (s : State) : State :=
  match s.sched.active with
  | none => s
  | some im =>
    if !s.sched.running || !s.sched.slotBegun || !computes s then s else
    let s := upsets.foldl upset (reach (s.sched.roundNs + s.sched.slot.toNat * slotNsOf im + 40) s)
    let s := (liveEngines s).foldl (fun s e => startStep im e.crest s e.eng) s
    (presentCrests s).foldl (loopEntries im ended) s

/-! ### SLOT_DEADLINE (R86, R118, R133) -/

/-- An engine whose step has not ended: DEADLINE, and the overrun watchdog. -/
def engineLate (c : Fin 6) (s : State) (i : Fin 18) : State :=
  let e : EngRef := ⟨c, i⟩
  let g := engineAt s e
  match g.run with
  | some r => overrun c.val r.logical 1 (engineX e xDeadline 0 0 (some r.desc) (elapsedNow s g) s)
  | none => s

/-- A tile whose loop steps of the slot have not all ended. -/
def loopsLate (s : State) (c : Fin 6) : State := if (Vec.at s.crests c).loopsLate then overrun c.val 0 2 s else s

/-- 20 ns before the slot end. A bit of `lateTransfers` marks a tile whose scheduled transfer has not ended: a member that copies moves mirror
data too. Of several units that signal, the first in the order of engines by tile, loop arrays and transfers stops the controller, and RUN_OVR
shows that one (DESIGN CHOICE, log entry 113). -/
def slotDeadline (lateTransfers : BitVec 8) (s : State) : State :=
  match s.sched.active with
  | none => s
  | some im =>
    if !s.sched.running || !s.sched.slotBegun then s else
    let s := reach (s.sched.roundNs + (s.sched.slot.toNat + 1) * slotNsOf im - 20) s
    let moves := computes s || s.trio.phase == 3
    let s := (presentCrests s).foldl (fun s c => (List.finRange 18).foldl (engineLate c) s) s
    let s := (presentCrests s).foldl loopsLate s
    if !moves then s else
    (List.range 8).foldl (fun s t => if lateTransfers.getLsbD t && s.part.hasTile t then overrun (if t = 7 then 0 else t - 1) 0 3 s else s) s

/-- SLOT_START. -/
def execSlotStart (upsets : List Upset) (s : State) : Out := .next (slotStart upsets s)
/-- STEP_START. -/
def execStepStart (upsets : List Upset) (ended : Vec (Option (BitVec 7)) 6) (s : State) : Out := .next (stepStart upsets ended s)
/-- SLOT_DEADLINE. -/
def execSlotDeadline (lateTransfers : BitVec 8) (s : State) : Out := .next (slotDeadline lateTransfers s)

end Sys2Proof.Machine
end

