-- ==== Sys2Proof/Machine/Rounds.lean ====
section
/-! DEFINITION. The round boundary (Ch. 2, 4, 6): what ends with a round, the roster that takes effect, the commit and sample instants,
and the start of a major frame by a schedule swap or a program exchange. -/
namespace Sys2Proof.Machine

/-! ### The round that ends -/

/-- Is a task active in the present round: has it a step entry due in it (R108)? -/
def taskActive (s : State) (n : BitVec 3 × BitVec 8) : Bool :=
  s.sched.active.elim false fun im => im.engineSteps.any fun x =>
    let d := descAt im x
    (d.tenant, d.task) == n && timingActive x.t s.sched.round

/-- Does a task hold an output point of a safety function? -/
def taskSafety (s : State) (n : BitVec 3 × BitVec 8) : Bool := (outPoints s).any fun p => p.func.isSome && (pointTasks s p).contains n

/-- What is kept of a task once its round has ended: rounds in a row with a program-kind exception, for a task without safety
outputs (R90). -/
def endTask (s : State) (t : TaskRt) : TaskRt :=
  let n := (t.tenant, t.task)
  let row := if t.stopped || taskSafety s n || !taskActive s n then t.rowCount else if t.abandoned && t.program then t.rowCount + 1 else 0
  { t with abandoned := false, program := false, rowCount := row, stopped := t.stopped || decide (3 ≤ row) }

/-- Every task's round ends; a task that is stopped writes its record (R90, R430). -/
def endTasks (s : State) : State :=
  let ts := s.run.tasks.map (endTask s)
  let new := (s.run.tasks.zip ts).filter fun x => !x.1.stopped && x.2.stopped
  new.foldl (fun s x => note .runControl 0x81 (some x.2.tenant) (fld x.2.tenant 0) (fld x.2.task 0) s) (updRun (fun r => { r with tasks := ts }) s)

/-- A tile that found an uncorrectable word of an image is a failed self-test at round end (R93), and one without a variant makes the
device give up or stop (R99). -/
def endTiles (s : State) : State :=
  let bad := (presentCrests s).any fun c => (Vec.at s.crests c).failAtRoundEnd
  let none_ := (presentCrests s).any fun c => (Vec.at s.crests c).exhausted
  let s := { s with crests := s.crests.map fun t => { t with failAtRoundEnd := false } }
  let s := if bad then failSelfTest s else s
  if none_ && s.run.state == .running then (if inTrio s then giveUp 0x02 s else stopController .stopped false false s) else s

/-- Where the mirror data of the round stand, when they came whole, and the tasks left out of them (R172). -/
def noteMirror (s : State) : State :=
  let from_ : Option (TrioPort × Fin 3) := match activeMember s with
    | some a =>
      let p := portOf s a
      let es := exchangesOf s 2
      if inTrio s && a != me s && !es.isEmpty && es.all fun e => exchangeHere s p 2 e.len.toNat then some (p, a) else none
    | none => none
  let skip := from_.elim [] fun x => ((tasksOf s).filter fun t => marked s x.2 t).map fun t => (t.tenant, t.task)
  updTrio (fun t => { t with mirrorHere := from_.map fun x => x.1, mirrorSkip := skip }) s

/-! ### The roster takes effect (R158, R170, R171, R174, R185, R187, R190) -/

/-- The role of this member under a roster: one that has given up votes no more. -/
def roleUnder (r : Roster) (s : State) : Role :=
  if rosterVotes r (me s) && !s.trio.gaveUp then (if r.active == s.trio.member then .active else .standby)
  else if listening s then .listening else .observer

/-- The fences of this device that a member which votes again releases. -/
def unfence (s : State) : State :=
  updField (fun f => { f with fenced := f.fenced && !f.fenceHigh }) (updTrio (fun t => { t with fenced := false, soleActive := false }) s)

/-- Has the donor's status of the round before told that its copy, and the writes it forwarded, have all left (R190, log entry 111)? -/
def copyEnded (s : State) : Bool :=
  s.trio.bulkDone && (partnersOf s).any fun m => memberBits m == s.trio.donor && (partnerAt s m).status.elim false fun st => st.phase == 4

/-- The group sequences of the donor, which a listener takes over (R371; log entry 120). -/
def donorGroups (s : State) : List (BitVec 3 × BitVec 8 × Word) :=
  (((partnersOf s).find? fun m => memberBits m == s.trio.donor).bind fun m => (partnerAt s m).status).elim s.historian.groups fun st => st.groups

/-- The next phase of a rejoin at a round start (Table 6.11). -/
def rejoinAtStart (s : State) : State :=
  let p := s.trio.phase.toNat
  if p = 2 then updTrio (fun t => { t with phase := 3 }) s
  else if p = 3 && copyEnded s then
    updHis (fun h => { h with groups := donorGroups s }) <| updRun (fun r => { r with state := .running }) (updTrio (fun t => { t with phase := 4, role := .listening, gaveUp := false }) s)
  else if p = 5 && votes s then
    raise .trio 6 none .unstated (updTrio (fun t => { t with phase := 0, donor := 3, rejoinReq := false, rejoinTest := false, bulkDone := false }) s)
  else s

/-- The spans of the bulk copy of R190: every pool region of the active image, and the parameter block of every scheduled loop slot. -/
def bulkSpans (s : State) : List (Word × List Byte) :=
  ((s.run.active.elim [] fun a => a.regions).map fun r => (BitVec.ofNat 32 r.addr, memRead s.pool r.addr r.len)) ++
  (presentCrests s).flatMap fun c => ((loopSlots s c).filter (loopScheduled s c)).map fun l =>
    (BitVec.ofNat 32 (loopAddr c (l.toNat * 0x100 + 0xC0)), memRead (Vec.at s.crests c).loop.mem (l.toNat * 0x100 + 0xC0) 64)

/-- The flits of a span that carry poison are left out of the copy (R95). -/
def bulkFlits (s : State) (m : Fin 3) (x : Word × List Byte) : State :=
  (flitSpans (flitGood s x.1) ((x.2.length + 63) / 64)).foldl (fun s y =>
    queueCopy (portOf s m) m 8 (x.1 + BitVec.ofNat 32 (64 * y.1)) ((x.2.drop (64 * y.1)).take (64 * y.2)) s) s

/-- The bulk copy waits at the port toward the member that rejoins. -/
def bulkCopy (b : BitVec 2) (s : State) : State :=
  if h : b.toNat < 3 then
    drainTrio ((bulkSpans s).foldl (fun s x => bulkFlits (scanSpan x.1 x.2.length s) ⟨b.toNat, h⟩ x) s)
  else s

/-- The copy to a member ends: what still waits for it is dropped. -/
def dropCopy (s : State) : State :=
  let keep (l : TrioLine) : TrioLine := { l with queue := l.queue.filter fun f => f.type != 8 && f.type != 9 }
  updTrio (fun t => { t with lineA := keep t.lineA, lineB := keep t.lineB }) s

/-- The donor begins, or ends, its copy. -/
def donorAtStart (s : State) : State :=
  if s.trio.donating == s.trio.copying then s
  else
    let s := updTrio (fun t => { t with copying := t.donating }) (dropCopy s)
    s.trio.copying.elim s fun b => bulkCopy b s

/-- The drive enables of a commit instant (R170, R171). -/
def setEnables (s : State) : State :=
  let other := s.trio.roster.active != 3 && s.trio.roster.active != s.trio.member
  let hold := if other then 0 else s.trio.lastCommitHold - 1
  let s := updTrio (fun t => { t with lastCommitHold := hold }) s
  updField (fun f => { f with
    enSingle := !inTrio s || s.trio.role == .active || hold != 0
    enAll := !inTrio s || votes s }) s

/-- The roster adopted at the last decision instant takes effect; ROLE is raised where the role or the trio state changes. -/
def applyRoster (s : State) : State :=
  let s := match s.trio.nextRoster with
    | none => s
    | some r =>
      let was := s
      let role := roleUnder r s
      let st := trioStateOf (popcount r.voting)
      let changed := role != s.trio.role || st != s.trio.state
      let solo := st == .solo && (role == .active || role == .standby)
      let s := updTrio (fun t => { t with
        roster := r, nextRoster := none, role := role, state := st
        soloStart := if solo then some (t.soloStart.getD (schedNow s)) else none }) s
      let s := noteConds [.timebase] was (if votes s then unfence s else s)
      if changed then raise .trio 0 none .unstated s else s
  setEnables (donorAtStart (rejoinAtStart s))

/-! ### The commit instant (R47, R222, R294) -/

/-- Is an I/O group one of Foothill's? -/
def fieldClass (c : Nat) : Bool := decide (c ≤ 5)

/-- The channels of a class and instance keep their commands no longer held at safe values. -/
def releaseSafe (cls inst : Nat) (s : State) : State :=
  updField (fun f =>
    if cls = 2 then { f with doSafe := f.doSafe &&& ~~~((0xFF : BitVec 24) <<< (8 * inst)) }
    else if cls = 3 then { f with tloSafe := 0 }
    else if cls = 4 then { f with aoSafe := f.aoSafe &&& ~~~((0xFF : BitVec 16) <<< (8 * inst)) }
    else f) s

/-- A commit instant of a device that does not compute: pending commands are dropped, and safe values take effect on channels that
waited for it. -/
def dropBank (cls inst : Nat) (s : State) : State :=
  updField (fun f =>
    if cls = 2 then { f with doNew := setBit f.doNew inst false, doWait := f.doWait &&& ~~~((0xFF : BitVec 24) <<< (8 * inst)) }
    else if cls = 3 then { f with tloNew := false, tloWait := 0 }
    else if cls = 4 then { f with aoNew := setBit f.aoNew inst false, aoWait := f.aoWait &&& ~~~((0xFF : BitVec 16) <<< (8 * inst)) }
    else f) s

/-- One group commits; `eff` tells that the round before computed its outputs. -/
def commitGroup (eff : Bool) (s : State) (g : IoGroup) : State :=
  let c := g.cls.toNat
  let i := g.inst.toNat
  let s := if fieldClass c then bump .field 0x10 1 s else s
  if c = 5 then (if eff then commitPanel s else s)
  else if c = 6 then queueKeaco (!eff) (stationOf i) s
  else if eff then releaseSafe c i (commitBank c i s) else dropBank c i s

/-- Does an output point commit with one of these groups? A CAN point and a value that goes elsewhere commit every round. -/
def commitsWith (gs : List IoGroup) (p : OutPoint) : Bool :=
  let has (c i : Nat) : Bool := gs.any fun g => g.cls.toNat == c && g.inst.toNat == i
  match p.target with
  | .dout n => has 2 (n.val / 8)
  | .tlo _ => has 3 0
  | .ao n => has 4 (n.val / 8)
  | .keaco st _ => has 6 st.val
  | .can _ _ => true
  | .other => true

/-- The groups with COMMIT that are active in the round that starts, under the image in force. -/
def commitsAt (s : State) (r : BitVec 10) : List IoGroup :=
  s.sched.active.elim [] fun im => im.ioGroups.filter fun g => g.commit && timingActive g.t r

/-- The outputs of the round before commit at the start of round `r`. -/
def commits (r : BitVec 10) (s : State) : State :=
  let gs := commitsAt s r
  let eff := s.run.ran && computes s
  let s := if eff then noteCommitted (commitsWith gs) s else s
  refreshField (gs.foldl (commitGroup eff) s)

/-- Foothill latches its DI values and readbacks at every sample instant (R222). -/
def latchField (s : State) : State := if fieldLive s then latchReadback (latchDi s) else s

/-- The boundary into round `r`, under the image in force: a step that waits applies (R265), readbacks are latched and judged against the
commands that stood, the round ends, the roster takes effect, outputs commit. -/
def boundary (r : BitVec 10) (s : State) : State :=
  let s := judgeOutputs (latchField (applyStep (endSlotWrites s)))
  commits r (applyRoster (noteMirror (endTasks (endTiles s))))

/-! ### Position -/

/-- The next round begins at its instant. -/
def toNextRound (s : State) : State :=
  let last := lastRound s
  let t := nextRoundNs s
  updSched (fun x => { x with
    frame := if last then x.frame + 1 else x.frame
    round := if last then 0 else x.round + 1
    frameNs := if last then t else x.frameNs
    roundNs := t, slot := 0, slotBegun := false, switched := false }) s

/-- The index of the next round. -/
def nextRound (s : State) : BitVec 10 := if lastRound s then 0 else s.sched.round + 1

/-- The schedule clock reaches the next round start and the boundary passes. -/
def passBoundary (s : State) : State :=
  let s := reach (nextRoundNs s) s
  toNextRound (boundary (nextRound s) s)

/-- The start of the next major frame, once, before its ROUND_START. -/
def enterFrame (s : State) : State :=
  if s.sched.switched || !lastRound s then s else updSched (fun x => { x with switched := true }) (passBoundary s)

/-! ### The round that starts -/

/-- The commanded retirements of a tile take effect, in the order of the commands, each unless it would now leave no variant, faults of
the round counted (R99, R101). -/
def retireAtStart (c : Fin 6) (s : State) : State :=
  let t := Vec.at s.crests c
  if t.toRetire.isEmpty then s else
  let r := t.toRetire.foldl (fun r i => if 3 ≤ popcount (withEngines r [i]) then r else withEngines r [i]) t.retired
  let s := updCrest c (fun t => { t with retired := r, toRetire := [], refused := t.refused || t.toRetire.any fun i => !r.getLsbD i.val }) s
  if r == t.retired then s else raise (.engine c) 3 none .unstated s

/-- The variant for the tile's retired set is put in force (R53); without one the map stays. -/
def putVariant (im : SchedImage) (c : Fin 6) (s : State) : State :=
  let mine := im.remaps.filter fun e => e.crest.toNat == c.val
  match mine.zipIdx.find? fun x => x.1.retired == (Vec.at s.crests c).retired with
  | some (e, i) => updCrest c (fun t => { t with variant := BitVec.ofNat 8 i, map := e.map }) s
  | none => s

/-- One group is sampled. -/
def sampleGroup (s : State) (g : IoGroup) : State :=
  let c := g.cls.toNat
  let i := g.inst.toNat
  let s := if c ≤ 1 then (if fieldLive s then sampleBank c i s else s)
    else if c = 5 then (if fieldLive s then samplePanel s else s)
    else if c = 6 then stationScan (stationOf i) s
    else if h : c = 7 ∧ i < 16 then canLatch ⟨i, h.2⟩ s
    else if h : c = 8 ∧ i < 8 then uartLatch ⟨i, h.2⟩ s
    else s
  if c ≤ 5 && !fieldLive s then s else
  updRun (fun r => { r with latched := (g.cls, g.inst, s.tb.tick) :: r.latched.filter fun x => !(x.1 == g.cls && x.2.1 == g.inst) }) s

/-- The groups with SAMPLE that are active in the round. -/
def sampledGroups (s : State) : List IoGroup :=
  s.sched.active.elim [] fun im => im.ioGroups.filter fun g => g.sample && timingActive g.t s.sched.round

/-- The groups of a round are sampled, the stations in the order of their numbers, in which their records are queued (R124). -/
def samples (s : State) : State :=
  let gs := sampledGroups s
  let stations := (List.range 256).flatMap fun n => gs.filter fun g => g.cls == 6 && g.inst.toNat == n
  ((gs.filter fun g => g.cls != 6) ++ stations).foldl sampleGroup s

/-- What is held of the partners moves on by a round, and T counts (R157, R160, R272). -/
def shiftTrio (first : Bool) (s : State) : State :=
  let heard (p : TrioPort) : Bool := inTrio s && (partnerAt s (portPartner s p)).status.isSome
  updTrio (fun t => { t with
    partners := t.partners.map fun p => { p with last := p.status, status := none, alignPrev := p.align, align := none, missingKinds := 0 }
    lineA := { t.lineA with txPrev := t.lineA.tx, tx := none }
    lineB := { t.lineB with txPrev := t.lineB.tx, tx := none }
    flits := [], repairFlits := t.repairFlits.filter (fun x => t.t ≤ x.2.1), repairs := t.repairsNext, repairsNext := []
    disagree := t.disagreeNext, disagreeNext := none, diagPass := none
    inHigh := t.inHigh || t.sentStatus.elim false fun st => st.gaveUp || st.role == .observer
    listen := none, compared := false, testSent := none, testSeen := false, heardA := heard .a, heardB := heard .b, sentStatus := none
    t := if first || !inTrio s then t.t else t.t + 1 }) s

/-- Tasks at a round start: those unrepaired in the round before are under repair (R169). -/
def shiftTasks (s : State) : State :=
  updRun (fun r => { r with
    tasks := r.tasks.map fun t => { t with repair := (votes s || listening s) && decide (1 ≤ t.unrepaired), repaired := false }
    undo := [], ran := computes s, commitHeld := if s.sched.round = 0 then false else r.commitHeld }) s

/-- The schedule image in force before the boundary that has just passed. -/
def schedBefore (s : State) : Option SchedImage := if s.sched.swapped then s.sched.shadow else s.sched.active

/-- A round starts at the position that stands: sample instant, variants, forces, records. -/
def newRound (first : Bool) (s : State) : State :=
  match s.sched.active with
  | none => s
  | some im =>
    let before := (schedBefore s).elim 0 roundNsOf
    let s := updSched (fun x => { x with switched := false, swapped := false, slotBegun := false, armedApp := x.armedApp && x.bank == .armed }) s
    let s := if inTrio s then alignTrim s else s
    let s := roundInstant before s
    let s := (presentCrests s).foldl (fun s c => putVariant im c (retireAtStart c s)) s
    let s := shiftTasks (shiftTrio first s)
    let s := takeSeal (ageKeys (ageForces (stoppedHolds (samples s))))
    let t := deliverAllCalls s
    countGroups (bump .runControl 0x10 1 (forwardChanges s (scanConns t)))

/-! ### ROUND_START -/

/-- The instant at which the first round begins: now on a device without a trio; else the frame start proposed, or the first of the
reference's later ones that has not passed (R188, R274). -/
def firstInstant (s : State) : Option Nat :=
  if !inTrio s then some (schedNow s)
  else s.trio.startAt.map fun t =>
    let len := s.sched.active.elim 1 frameNsOf
    t + (schedNow s - t + len - 1) / len * len

/-- May the first round begin: start-up is done, both images are active, and no restart waits (Table 16.5)? A device that a fence stopped
before it begins its rounds as an observer (R179). -/
def mayBegin (s : State) : Bool :=
  s.pwr.stage == 10 && s.sched.active.isSome && s.run.active.isSome && s.upd.resetDue.isNone && !s.trio.forming &&
  s.run.state != .safeHold && (firstInstant s).isSome

/-- The pages the device locks when the first round begins. -/
def roundPages : List Page := [.timebase, .power, .mailbox, .secMailbox]

/-- The first round: the schedule starts at frame 0, round 0, at its instant. -/
def firstRound (s : State) : State :=
  let s := reach ((firstInstant s).getD 0) s
  let now := schedNow s
  let s := updSched (fun x => { x with
    running := true, frame := 0, round := 0, slot := 0, frameNs := now, roundNs := now, slotBegun := false, switched := false }) s
  let s := updRun (fun r => { r with state := if r.state == .starting then .running else r.state }) s
  let s := startWindows (layoutStarts (lockPages roundPages (applyStep s)))
  newRound true (latchField (setEnables s))

/-- A round start: the first, the one a swap or an exchange has come before, or the next; a restart that waits takes its place. -/
def startRound (s : State) : State :=
  if !s.sched.running then (if mayBegin s then firstRound s else s)
  else if s.upd.restart.isSome then updateRestart s
  else if s.sched.switched then newRound false s
  else newRound false (passBoundary s)

/-! ### SCHEDULE_SWAP (R60) -/

/-- Is the schedule bank armed for the frame that starts, its commit point passed? -/
def swapDue (s : State) : Bool :=
  s.sched.bank == .armed && s.run.commitHeld && s.sched.running &&
  (if s.sched.switched then s.sched.armedFrame == s.sched.frame else lastRound s && s.sched.armedFrame == s.sched.frame + 1)

/-- The schedule banks change roles; SWAPPED is raised. -/
def swapBanks (s : State) : State :=
  raise .schedule 1 none .unstated (updSched (fun x => { x with
    active := x.shadow, activeEnv := x.shadowEnv, shadow := x.active, shadowEnv := x.activeEnv
    bank := .valid, armedTrio := false, swapped := true }) s)

/-- The swap at the start of frame F; a stop at the boundary cancels it. -/
def scheduleSwap (s : State) : State :=
  if !swapDue s then s else
  let s := enterFrame s
  if s.sched.bank == .armed then swapBanks s else s

/-! ### APP_EXCHANGE (R117, R130, R151, R204) -/

/-- Is the application bank armed for the frame that starts, its commit point passed? -/
def exchangeDue (s : State) : Bool :=
  s.run.bank == .armed && s.run.commitHeld && s.sched.running && (s.run.ownTarget || s.sched.armedApp) &&
  (if s.sched.switched then s.run.armedFrame == s.sched.frame else lastRound s && s.run.armedFrame == s.sched.frame + 1)

/-- The schedule image in force from the frame boundary. -/
def schedFrom (s : State) : Option SchedImage := if !s.sched.swapped && swapDue s then s.sched.shadow else s.sched.active

/-- The head of the group that an image's blocks give a slot, or the slot itself (R145). -/
def imageHead (loops : List LoopCfg) (x : LoopCfg) : BitVec 10 :=
  let cfg (y : LoopCfg) : Word := y.params.getD 13 0
  let rank (y : LoopCfg) : Nat := cfgOrder (cfg y) * 1024 + y.loop.toNat
  if !cfgGroupEn (cfg x) then x.loop
  else (loops.foldl (fun h y =>
    if y.crest == x.crest && cfgGroupEn (cfg y) && cfgGroup (cfg y) == cfgGroup (cfg x) && decide (rank y < rank h) then y else h) x).loop

/-- The owner of a slot from the boundary on: the TENANT of the entries of the schedule image then in force (R135). -/
def ownerFrom (s : State) (new : AppImage) (x : LoopCfg) : Option (BitVec 3) :=
  (schedFrom s).bind fun im =>
    (im.loopSteps.find? fun e => e.crest.toNat == x.crest.val && (e.loop == x.loop || e.loop == imageHead new.loops x)).map fun e => e.tenant

/-- Does a slot of the new image keep its owner? `s` is the state before the exchange. -/
def ownerKept (s : State) (old new : AppImage) (x : LoopCfg) : Bool :=
  (old.loops.any fun y => y.crest == x.crest && y.loop == x.loop) &&
  ((schedBefore s).bind fun im => loopOwnerIn s im x.crest x.loop) == ownerFrom s new x

/-- A loop slot at the exchange, `was` the state before it: another owner starts as at start-up; an open loop takes its block, a closed
one holds it (R151). -/
def exchangeLoop (was : State) (old new : AppImage) (s : State) (x : LoopCfg) : State :=
  if !ownerKept was old new x then startLoop x s
  else if loopOpen (Vec.at was.crests x.crest).loop (loopSlots was x.crest) x.loop then takeParams x.crest x.loop x.params s
  else raise (.loopArray x.crest) 4 (ownerFrom was new x) .unstated
    (updLoop x.crest (fun a => { a with held := (x.loop, x.params) :: a.held.filter fun y => y.1 != x.loop }) s)

/-- What a function of the new image starts from: the state of the old one with its key, else that of a new function (R204). -/
def keptFunc (old : List FuncCfg) (fs : Vec FuncRt 256) (c : FuncCfg) : FuncRt :=
  match old.find? fun o => o.key == c.key with
  | some o => Vec.at fs o.number
  | none => { state := if c.trip then .lockout else .normal, cause := if c.trip then 6 else 0 }

/-- The functions of the new image. -/
def exchangeFuncs (old : List FuncCfg) (s : State) : State :=
  let fs := s.safety.funcs
  updSafety (fun x => { x with funcs := (funcCfgs s).foldl (fun v c => Vec.put v c.number (keptFunc old fs c)) (Vector.replicate 256 {}) }) s

/-- Stations that the old image did not have start afresh. -/
def exchangeStations (old new : AppImage) (s : State) : State :=
  (new.stations.filter fun c => !old.stations.any fun o => o.number == c.number).foldl (fun s c => updStation c.number (fun _ => {}) s) s

/-- The banks change roles, and what the image gives every block follows. -/
def exchangeBanks (old new : AppImage) (s : State) : State :=
  let was := s
  let oldFuncs := funcCfgs s
  let s := updRun (fun r => { r with
    active := some new, activeEnv := r.shadowEnv, shadow := some old, shadowEnv := r.activeEnv
    bank := .valid, ownTarget := false, armedTrio := false
    tasks := r.tasks.map fun t => { t with stopped := false, rowCount := 0 } }) s
  let s := exchangeStations old new (exchangeFuncs oldFuncs (new.loops.foldl (exchangeLoop was old new) s))
  let s := updSafety (fun x => { x with accepted := (safetyCfg s).isSome }) s
  let s := if old.windows == new.windows && old.partitionUs == new.partitionUs then s else startWindows s
  let t := exchangeField old.ioMap (applyAppConfig new (layoutWaits old new (exchangeForces old new s)))
  raise .runControl 4 none .unstated (noteConds (.panel :: (presentCrests s).map .loopArray) was (refreshField t))

/-- The exchange at the start of frame F; a stop at the boundary cancels it. -/
def appExchange (s : State) : State :=
  if !exchangeDue s then s else
  let s := enterFrame s
  match s.run.bank, s.run.active, s.run.shadow with
  | .armed, some old, some new => exchangeBanks old new s
  | _, _, _ => s

/-- ROUND_START. -/
def execRoundStart (s : State) : Out := .next (startRound s)
/-- SCHEDULE_SWAP. -/
def execScheduleSwap (s : State) : Out := .next (scheduleSwap s)
/-- APP_EXCHANGE. -/
def execAppExchange (s : State) : Out := .next (appExchange s)

end Sys2Proof.Machine
end

