-- ==== Sys2Proof/Machine/Views.lean ====
section
/-! DEFINITION. What every register reads as (Ch. 17 and each chapter's register table): the 64-bit registers by the offset of their
low word, the 32-bit ones by theirs. A reserved offset reads 0 (Table 17.6). -/
namespace Sys2Proof.Machine

/-! ### State names as numbers -/

/-- A bank state in a register. -/
def bankNum : BankState → Nat
  | .empty => 0
  | .loading => 1
  | .valid => 2
  | .armed => 3

/-- A trio state in a register. -/
def trioNum : TrioState → Nat
  | .trio => 0
  | .duo => 1
  | .solo => 2
  | .alone => 3

/-- A comparison result in a register. -/
def cmpNum : CmpResult → Nat
  | .ok => 0
  | .outvoted => 1
  | .noMajority => 2
  | .disagree => 3
  | .listenOk => 4
  | .listenFail => 5

/-- A connection state in a register. -/
def connNum : ConnState → Nat
  | .closed => 0
  | .ok => 1
  | .degraded => 2
  | .failed => 3

/-- A domain state in a register. -/
def pdNum : PdState → Nat
  | .off => 0
  | .starting => 1
  | .on => 2
  | .stopping => 3

/-- A CAN mode in a register. -/
def canNum : CanMode → Nat
  | .off => 0
  | .normal => 1
  | .listen => 2
  | .detect => 3

/-- A buffer kind in a register. -/
def kindNum : BufKind → Nat
  | .unused => 0
  | .rx => 1
  | .txFw => 2
  | .txSched => 3

/-- A trace state in a register (Table 5.11). -/
def traceNum : TraceState → Nat
  | .idle => 0
  | .recording => 1
  | .triggered => 2
  | .done => 3

/-- A host-link state in a register. -/
def linkNum : HlLink → Nat
  | .detect => 0
  | .training => 1
  | .l0 => 2
  | .l1 => 3
  | .l2 => 4
  | .disabled => 5

/-- A slot state in a register. -/
def slotNum : SlotState → Nat
  | .empty => 0
  | .valid => 1
  | .active => 2
  | .trial => 3
  | .rejected => 4

/-- The update state in a register. -/
def updNum : UpdState → Nat
  | .idle => 0
  | .loading => 1
  | .armed => 2
  | .trial => 3

/-- A drive state in a register. -/
def driveNum : DriveState → Nat
  | .absent => 0
  | .ok => 1
  | .lowSpare => 2
  | .retired => 3
  | .failed => 4
  | .unsuitable => 5

/-! ### The common header (Table 17.5) -/

/-- A header register. -/
def hdrReg (s : State) (pg : Page) (off : Nat) : Word :=
  let h := hdrAt s pg
  match off with
  | 0x000 => blkId pg
  | 0x004 => 0x0100
  | 0x008 => flag h.lock 0 ||| flag h.freeze 1
  | 0x00C => flag h.lockViol 0 ||| flag h.errAccess 1
  | 0x010 => rawWord s pg
  | 0x014 => h.en
  | 0x018 => rawWord s pg &&& h.en
  | 0x01C => rawWord s pg
  | _ => if 0x20 ≤ off && off < 0x30 then (h.sel[(off - 0x20) / 4]?.getD 0).setWidth 32 else 0

/-- The header's counters are 64-bit registers. -/
def hdrReg64 (s : State) (pg : Page) (off : Nat) : Option DWord :=
  if 0x40 ≤ off && off < 0x60 && off % 8 == 0 then some ((((hdrAt s pg).cnt[(off - 0x40) / 8]?).getD 0).setWidth 64) else none

/-! ### Directory, interrupt, mailbox, supervisor, host link -/

/-- The non-secure and the secure directory (R420). -/
def dirReg (s : State) (sec : Bool) (off : Nat) : Word :=
  let ps := listedPages s.part sec
  if off = 0x100 then fld s.part.code 0 ||| fld (bitsOf 8 s.part.hasTile) 8
  else if off = 0x104 then num ps.length 0
  else if 0x200 ≤ off then
    match ps[(off - 0x200) / 16]? with
    | none => 0
    | some pg =>
      let k := off % 16 / 4
      if k = 0 then blkId pg else if k = 1 then num (pgOffset pg) 0 else if k = 2 then num (pgSource pg) 0 else 0
  else 0

/-- The interrupt page (Table 13.10). -/
def irqReg (s : State) (off : Nat) : Word :=
  let core (base : Nat) : Fin 4 := ⟨(off - base) / 4 % 4, Nat.mod_lt _ (by omega)⟩
  if off = 0x100 then flag s.super.hold 0
  else if 0x110 ≤ off && off < 0x120 then num (irqTop s (core 0x110)) 0
  else if 0x120 ≤ off && off < 0x130 then (Vec.at s.super.thr (core 0x120)).setWidth 32
  else if off = 0x140 then s.super.urgent.setWidth 32
  else if 0x200 ≤ off && off < 0x240 then bitsOf 32 fun i => srcAsserted s (32 * ((off - 0x200) / 4) + i)
  else if 0x804 ≤ off then
    let n := (off - 0x800) / 4
    fld (srcCore s n) 0 ||| flag (srcEnabled s n) 2 ||| flag (srcAsserted s n) 3
  else 0

/-- The channel of a mailbox page. -/
def mailChan (sec : Bool) (i : Nat) : Fin 32 := ⟨(i % 16) + (if sec then 16 else 0), by split <;> omega⟩

/-- The mailbox pages (Table 13.11), message words included. -/
def mailReg (s : State) (sec : Bool) (off : Nat) : Word :=
  if 0x100 ≤ off && off < 0x200 then
    let m := Vec.at s.mail (mailChan sec ((off - 0x100) / 16))
    match off % 16 with
    | 0 => fld m.sender 0 ||| fld m.receiver 4 ||| flag m.full 8 ||| flag m.pending 9 ||| fld m.code 16
    | 8 => m.result.setWidth 32
    | _ => 0
  else if 0x400 ≤ off && off < 0x800 then
    ((Vec.at s.mail (mailChan sec ((off - 0x400) / 64))).msg[off % 64 / 4]?).getD 0
  else 0

/-- The supervisor page (Table 13.9). -/
def superReg (s : State) (off : Nat) : Word :=
  let x := s.super
  match off with
  | 0x100 => x.live.setWidth 32
  | 0x108 => x.wdogMs.setWidth 32
  | 0x10C => x.period.setWidth 32
  | 0x120 => fld x.pselCore 0 ||| fld x.pselWin 4
  | 0x124 =>
    match (coreWindows s ⟨x.pselCore.toNat, x.pselCore.isLt⟩)[x.pselWin.toNat]? with
    | some w => num (w.startUs % 2 ^ 17) 0 ||| fld (w.owner.getD 0) 20 ||| flag w.owner.isNone 23 ||| flag true 24
    | none => 0
  | 0x130 => (List.finRange 8).foldl (fun w d => w ||| num (pdNum (Vec.at x.pd d)) (2 * d.val)) (fld x.pdFail 16)
  | 0x138 => x.pdCode.setWidth 32
  | 0x140 => flag x.freeze 0
  | _ =>
    if 0x110 ≤ off && off < 0x120 then
      let t := Vec.at x.tags ⟨(off - 0x110) / 4 % 4, Nat.mod_lt _ (by omega)⟩
      fld t.tenant 0 ||| flag t.kernel 3 ||| fld t.window 4
    else 0

/-- The host-link page (Table 13.12). -/
def hostReg (s : State) (off : Nat) : Word :=
  let x := s.host
  match off with
  | 0x100 => num (linkNum x.link) 0 ||| flag x.bme 3 ||| flag x.wake 4 ||| fld x.width 5 ||| fld x.rate 8
  | 0x104 => bitsOf 32 fun i => if h : i < 32 then decide (i < 16) && hostHeld s ⟨i, h⟩ else false
  | 0x140 => fld x.abort 0 ||| fld x.dropped 16
  | _ =>
    if 0x110 ≤ off && off < 0x134 then
      s.run.active.elim 0 fun a => ((a.hostShares[(off - 0x110) / 4]?).getD 0).setWidth 32
    else 0

/-! ### Power, switches -/

/-- The temperature and the exclusion of a tile's sensor (R416). -/
def tempOf (s : State) (tile : BitVec 3) (k : BitVec 2) : Word :=
  if tile = 0 then fld ((s.pwr.saddleTemps[k.toNat]?).getD 0) 0 ||| flag (s.pwr.saddleBad.getLsbD k.toNat) 11
  else if tile = 7 then (if k = 0 && s.part.hasField then s.field.temp.setWidth 32 else 0)
  else match crest? (tile.toNat - 1) with
    | some c =>
      if c.val < s.part.crests then
        let t := Vec.at s.crests c
        fld ((t.temps[k.toNat]?).getD 0) 0 ||| flag (t.tempBad.getLsbD k.toNat) 11
      else 0
    | none => 0

/-- The power page (Table 16.7). -/
def powerReg (s : State) (off : Nat) : Word :=
  let p := s.pwr
  match off with
  | 0x100 => fld (stageShown s) 0 ||| flag p.hot 4 ||| flag p.coldHold 5 ||| flag p.pmbFail 6 ||| flag (decide (850 ≤ p.setMv.toNat)) 7
  | 0x104 => fld p.startCode 0 ||| fld p.startTile 8
  | 0x108 => fld p.causeKind 0 ||| fld p.causeRail 3
  | 0x10C => fld p.dip 0 ||| fld p.faults 8
  | 0x110 => fld p.setMv 0 ||| fld p.measMv 16
  | 0x114 => p.iout.setWidth 32
  | 0x118 => p.vfloor.setWidth 32
  | 0x11C => fld p.tselTile 0 ||| fld p.tselSensor 4
  | 0x120 => tempOf s p.tselTile p.tselSensor
  | 0x124 => fld p.tmax 0 ||| fld p.tmaxTile 12
  | 0x12C => fld p.straps.trioId 0 ||| fld p.straps.hisBif 2 ||| fld p.straps.pmbAddr 4
  | _ => 0

/-- The switch of a tile. -/
def switchAt (s : State) (t : Nat) : Switch :=
  if t = 0 then s.hub else (crest? (t - 1)).elim {} fun c => (Vec.at s.crests c).switch

/-- The switch pages (Table 17.10). -/
def switchReg (s : State) (t : Nat) (off : Nat) : Word :=
  let x := switchAt s t
  match off with
  | 0x100 => (s.part.usedPorts t).setWidth 32
  | 0x104 => x.up.setWidth 32
  | 0x108 => x.down.setWidth 32
  | 0x10C => x.retry
  | 0x110 => fld x.refuseOwner 0 ||| fld x.refuseRoute 16
  | 0x114 => x.lastAddr
  | 0x118 => fld x.lastTenant 0 ||| flag x.lastUntagged 3 ||| flag x.lastKind 4
  | _ => 0

/-! ### Schedule, run-control -/

/-- The schedule page (Table 2.22). -/
def schedReg (s : State) (off : Nat) : Word :=
  let x := s.sched
  match off with
  | 0x100 => fld x.loadAddr 6
  | 0x104 => x.loadLen.setWidth 32
  | 0x10C => fld x.code 0 ||| num (bankNum x.bank) 8
  | 0x110 => fld x.errTable 0 ||| fld x.errIndex 8
  | 0x128 => fld x.round 0 ||| fld x.slot 10
  | _ => 0

/-- Its 64-bit registers. -/
def schedReg64 (s : State) (off : Nat) : Option DWord :=
  match off with
  | 0x118 => some s.sched.target
  | 0x120 => some s.sched.frame
  | 0x130 => some (schedIdOf s.sched.active)
  | 0x138 => some (if s.sched.bank == .empty then 0 else schedIdOf s.sched.shadow)
  | _ => none

/-- The run-control page (Table 4.11). -/
def runReg (s : State) (off : Nat) : Word :=
  let r := s.run
  let e := r.forces[r.frcSel.toNat]?.getD none
  let st := stationRt s (stationOf r.keaSel.toNat)
  match off with
  | 0x100 => num (runNum r.state) 0 ||| flag (decide (0 < forceCount s)) 3 |||
      flag ((List.finRange 256).any fun i => (Vec.at r.forces i).elim false (tripForce s)) 4 ||| num (forceCount s) 8
  | 0x110 => fld r.ovrSlot 0 ||| fld r.ovrCrest 20 ||| fld r.ovrLogical 23 ||| fld r.ovrCause 27
  | 0x114 => r.code.setWidth 32
  | 0x120 => r.frcPoint.setWidth 32
  | 0x124 => r.frcValue
  | 0x12C => r.frcCode.setWidth 32
  | 0x130 => r.frcSel.setWidth 32
  | 0x134 => e.elim 0 fun f => fld f.point 0 ||| flag true 16 ||| flag (!f.on) 17
  | 0x138 => e.elim 0 fun f => if f.on then f.value else (f.pend.findSome? fun x => x.1).getD f.value
  | 0x160 => r.keaSel.setWidth 32
  | 0x164 => fld st.miss 0 ||| fld st.good 4 ||| flag st.dropped 8 ||| fld st.drops 16
  | 0x180 => fld r.loadAddr 6
  | 0x184 => r.loadLen.setWidth 32
  | 0x18C => fld r.appCode 0 ||| num (bankNum r.bank) 8 ||| flag (r.bank == .armed && r.ownTarget) 10
  | 0x190 => r.appErr
  | _ =>
    if 0x140 ≤ off && off < 0x160 then
      bitsOf 32 fun i => (stationRt s (stationOf (32 * ((off - 0x140) / 4) + i))).dropped
    else 0

/-- Its 64-bit registers. -/
def runReg64 (s : State) (off : Nat) : Option DWord :=
  match off with
  | 0x108 => some s.run.target
  | 0x118 => some s.run.ovrFrame
  | 0x198 => some s.run.appTarget
  | 0x1A0 => some (appId s.run.active)
  | 0x1A8 => some (if s.run.bank == .empty then 0 else appId s.run.shadow)
  | _ => none

/-! ### Trio, safety -/

/-- The coordinator of the current round as a field; 3 where there is none. -/
def coordBits (s : State) : BitVec 2 :=
  if inTrio s && s.sched.running && s.trio.roster.voting != 0 then memberBits (coordinator s) else 3

/-- Seconds of solo time left. -/
def soloLeft (s : State) : Word :=
  match s.trio.soloStart with
  | none => 0xFFFFFFFF
  | some t => BitVec.ofNat 32 (((trioCfg s).soloLimit.toNat * 60000000000 - (schedNow s - t)) / 1000000000)

/-- The trio page (Table 6.13). -/
def trioReg (s : State) (off : Nat) : Word :=
  let t := s.trio
  let c := trioCfg s
  match off with
  | 0x100 => fld t.member 0 ||| num (roleNum t.role) 2 ||| num (trioNum t.state) 4 ||| fld t.roster.voting 6 |||
      fld t.roster.active 9 ||| fld (coordBits s) 11 ||| flag t.gaveUp 13 ||| flag t.fenced 14
  | 0x104 => t.roster.epoch
  | 0x110 => t.cause.setWidth 32
  | 0x118 => t.code.setWidth 32
  | 0x11C => fld t.phase 0 ||| fld t.donor 3 ||| num (min 65535 (t.copiedBytes / 65536)) 16
  | 0x120 => soloLeft s
  | 0x124 => fld c.soloLimit 0 ||| flag c.soloTrip 13 ||| flag c.autoRejoin 14 ||| fld c.persist 16
  | 0x128 => fld c.formWait 0 ||| fld c.delayA 8 ||| fld c.delayB 12
  | 0x130 => flag (t.outA || t.pulseA) 0 ||| flag (t.outB || t.pulseB) 1 ||| flag t.inHigh 2 ||| fld t.missA 4 ||| fld t.missB 8 ||| fld t.missIn 12
  | 0x134 => flag t.upA 0 ||| flag t.upB 1 ||| flag t.heardA 2 ||| flag t.heardB 3
  | 0x138 => num (cmpNum t.cmp) 0 ||| fld t.odd 3 ||| fld t.odd2 5 ||| fld t.subst 16
  | 0x13C => t.disc.setWidth 32
  | _ => 0

/-- Its 64-bit register. -/
def trioReg64 (s : State) (off : Nat) : Option DWord := if off = 0x108 then some s.trio.t else none

/-- The functions in force in one of the states. -/
def countFuncs (s : State) (p : FuncState → Bool) : Nat := (funcCfgs s).countP fun c => p (Vec.at s.safety.funcs c.number).state

/-- The selected function's status. -/
def funcStat (s : State) : Word :=
  match (funcCfgs s).find? fun c => c.number.val == s.safety.fsel.toNat with
  | none => 0
  | some c =>
    let f := Vec.at s.safety.funcs c.number
    let left := if f.state == .hold then min 65535 ((f.holdEnd - schedNow s) / 10000000) else 0
    num (funcNum f.state) 0 ||| flag c.trip 2 ||| flag f.present 3 ||| fld f.cause 4 ||| fld c.tenant 8 ||| num left 16

/-- The selected receive connection; one that the image does not define shows nothing. -/
def connSel (s : State) : ConnRt :=
  let n := stationOf s.safety.csel.toNat
  if (connCfg s false n).isSome then connRt s n else {}

/-- The safety page (Table 7.10). -/
def safetyReg (s : State) (off : Nat) : Word :=
  let x := s.safety
  let f := Vec.at x.funcs (stationOf x.fsel.toNat)
  let r := connSel s
  match off with
  | 0x100 => flag x.accepted 0 ||| flag x.safeHold 1 ||| flag ((safetyCfg s).elim false fun c => c.sealCode == x.sealNow) 2 |||
      flag (sealMaint s) 3 ||| flag x.exchSeal 4 ||| num (countFuncs s fun st => st == .lockout) 8 |||
      num (countFuncs s fun st => st == .hold || st == .safe) 17
  | 0x104 => fld x.sealNow 0 ||| fld x.sealRaw 8
  | 0x110 => x.fsel.setWidth 32
  | 0x114 => funcStat s
  | 0x118 => fld f.reactions 0 ||| fld f.resets 16
  | 0x11C => fld x.resetCode 0 ||| fld x.resetFunc 8
  | 0x120 => x.csel.setWidth 32
  | 0x124 => num (connNum r.state) 0 ||| fld r.good 2 ||| fld r.lan 6 |||
      fld ((connCfg s false (stationOf x.csel.toNat)).elim 0 fun c => c.src) 16
  | 0x128 => fld r.rejected 0 ||| fld r.discarded 16
  | 0x12C => fld r.late 0 ||| fld r.degraded 16
  | _ => 0

/-- Its 64-bit registers. -/
def safetyReg64 (s : State) (off : Nat) : Option DWord :=
  match off with
  | 0x108 => some ((safetyCfg s).elim 0 fun c => c.safeId)
  | 0x130 => some (BitVec.ofNat 64 ((connSel s).lastNs.getD 0))
  | _ => none

/-! ### Timebase -/

/-- The timebase page (Table 10.5), but for the registers that latch. -/
def tbReg (s : State) (off : Nat) : Word :=
  let t := s.tb
  let i0 := Vec.at t.ppsIn 0
  let i1 := Vec.at t.ppsIn 1
  match off with
  | 0x100 => flag t.aligned 0 ||| flag (refShown s) 1 ||| flag t.trimSat 2 ||| flag t.stepPending.isSome 3 ||| flag t.shot.isSome 4
  | 0x104 => t.code.setWidth 32
  | 0x120 => t.incrLo
  | 0x124 => t.incrHi.setWidth 32
  | 0x128 => t.stepNs.setWidth 32
  | 0x12C => t.stepSec
  | 0x138 => t.epoch.setWidth 32
  | 0x158 => t.gcntIncr
  | 0x170 => t.theta
  | 0x174 => t.trim
  | 0x178 => fld t.delayA 0 ||| fld t.delayB 16
  | 0x180 => t.ppsInCtrl.setWidth 32
  | 0x184 => flag i0.fresh 0 ||| flag i0.ovr 1 ||| flag i1.fresh 2 ||| flag i1.ovr 3
  | 0x1B0 => flag (Vec.at t.ppsEn 0) 0 ||| flag (Vec.at t.ppsSrc 0) 1 ||| fld (Vec.at t.ppsWidth 0) 4 |||
      flag (Vec.at t.ppsEn 1) 16 ||| flag (Vec.at t.ppsSrc 1) 17 ||| fld (Vec.at t.ppsWidth 1) 20
  | 0x1B4 => t.shotNs.setWidth 32
  | 0x1B8 => bits t.shotSec 0 32
  | 0x1BC => (bits t.shotSec 32 16).setWidth 32
  | _ => 0

/-- Its 64-bit registers. -/
def tbReg64 (s : State) (off : Nat) : Option DWord :=
  match off with
  | 0x130 => some s.tb.offset
  | 0x150 => some s.tb.gulny
  | 0x160 => some s.tb.gload
  | _ => none

/-! ### Recorder, historian, update, security -/

/-- The selected region. -/
def regionSel (s : State) : RecRegion := (regionNo s.recorder.rsel.toNat).elim {} (regionAt s)

/-- The oldest sequence number of a region; 0 where it holds none. -/
def oldestSeq (s : State) (g : RecRegion) : BitVec 24 :=
  match g.slots with
  | [] => 0
  | x :: r => (r.foldl (fun a y => if seqAge s a.seq < seqAge s y.seq then y else a) x).seq

/-- The bank of a core; none for the other requesters. -/
def fwBank (s : State) (w : Requester) : Option FwBank := (coreOf w).map (Vec.at s.recorder.fw)

/-- The recorder page (Table 14.7), but for word 0 of the window entries. -/
def recReg (s : State) (w : Requester) (off : Nat) : Word :=
  let r := s.recorder
  let g := regionSel s
  match off with
  | 0x100 => flag r.ready 0 ||| fld r.filled 1 ||| flag r.layoutPending 7 ||| fld r.nextSeq 8
  | 0x104 => fld r.curSeq 0 ||| fld r.curRegion 24
  | 0x108 => r.wseq.setWidth 32
  | 0x10C => r.rsel.setWidth 32
  | 0x110 => num g.size 0
  | 0x114 => num g.slots.length 0
  | 0x118 => num (g.slots.countP fun x => !x.spilled) 0
  | 0x11C => (oldestSeq s g).setWidth 32
  | 0x130 => r.lost
  | 0x138 => r.lag.setWidth 32
  | 0x140 => (fwBank s w).elim 0 fun b => fld b.code 0 ||| fld b.sev 16
  | 0x144 => (fwBank s w).elim 0 fun b => b.p0
  | 0x148 => (fwBank s w).elim 0 fun b => b.p1
  | 0x14C => (fwBank s w).elim 0 fun b => b.p2
  | 0x154 => (fwBank s w).elim 0 fun b => b.res.setWidth 32
  | _ =>
    if 0x120 ≤ off && off < 0x130 then
      let n := 2 * ((off - 0x120) / 4)
      fld ((g.drops[n]?).getD 0) 0 ||| fld ((g.drops[n + 1]?).getD 0) 16
    else if 0x400 ≤ off && off < 0x800 then
      entryWord s w ⟨(off - 0x400) / 32 % 32, Nat.mod_lt _ (by omega)⟩ (off % 32 / 4)
    else 0

/-- The selected owner, if it is one. -/
def ownerSel (s : State) : Option (Fin 9) := regionNo s.historian.tselOwner.toNat

/-- The chunks whose index the historian has read: those on a drive it has found (R376). -/
def chunksRead (s : State) : List Chunk :=
  s.historian.chunks.filter fun c => (s.historian.drives[c.drive.val]?).elim false fun x => x.state != .absent

/-- The chunks of the selected owner and class. -/
def chunksSel (s : State) : List Chunk :=
  (ownerSel s).elim [] fun o => (chunksRead s).filter fun c => c.owner == o && c.cls == s.historian.tselClass

/-- The stamps a list of chunks holds. -/
def stampsOf (cs : List Chunk) : List Nat := cs.flatMap fun c => c.blocks.map fun b => b.stamp.toNat

/-- The least of a list; 0 of none. -/
def leastOf : List Nat → Nat
  | [] => 0
  | x :: r => r.foldl min x

/-- The historian page (Table 14.8). -/
def hisReg (s : State) (off : Nat) : Word :=
  let h := s.historian
  let d := driveAt s ⟨h.dsel.toNat, h.dsel.isLt⟩
  let o := ownerSel s
  let cfg := o.bind fun o => hisCfg s o h.tselClass
  let onWritable := stampsOf ((chunksSel s).filter (chunkWritable s))
  match off with
  | 0x100 => flag h.enabled 0 ||| fld (bitsOf 4 fun i => (h.drives[i]?).elim false fun x => x.state != .absent) 4 |||
      fld (bitsOf 4 fun i => (h.drives[i]?).elim false driveCounts) 8
  | 0x104 => h.dsel.setWidth 32
  | 0x108 => num (driveNum d.state) 0 ||| fld d.spare 8 ||| fld d.spareThr 16
  | 0x10C => d.capGb
  | 0x110 => num (((chunksRead s).countP fun c => c.drive.val == h.dsel.toNat) * chunkBytes / 1000000000) 0
  | 0x120 => fld h.tselOwner 0 ||| fld h.tselClass 4
  | 0x124 => o.elim 0 fun o => num (reservation s o) 0 ||| num (stagingShare s o / 65536) 16
  | 0x128 => cfg.elim 0 fun c => num c.shareGb 0
  | 0x12C => cfg.elim 0 fun c => num (effectiveShare s c) 0
  | 0x130 => cfg.elim 0 fun c => num c.hours 0
  | 0x134 => num ((onWritable.foldl max 0 - leastOf onWritable) / 1000000000) 0
  | 0x140 => fld h.dropped 0 ||| fld h.gaps 16
  | 0x188 => h.qSel.setWidth 32
  | 0x18C => fld h.qBuf 6
  | 0x190 => h.qLen.setWidth 32
  | 0x198 => flag h.qBusy 0 ||| fld h.qCode 8
  | 0x19C => fld h.qBlocks 0 ||| fld h.qSkipped 16
  | _ => 0

/-- Its 64-bit registers. -/
def hisReg64 (s : State) (off : Nat) : Option DWord :=
  match off with
  | 0x138 => some (BitVec.ofNat 64 (leastOf (stampsOf (chunksSel s))))
  | 0x180 => some s.historian.qFrom
  | 0x1A0 => some s.historian.qNext
  | _ => none

/-- A slot's register. -/
def slotReg (x : FwSlot) : Word := num (slotNum x.state) 0 ||| fld x.svn 8 ||| fld x.compat 16

/-- The update page (Table 15.12). What it shows of the flash and of the credential store has its Reset value until the reset is
released (R12; log entry 94). -/
def updReg (s : State) (off : Nat) : Word :=
  let u := s.upd
  match off with
  | 0x100 => flag u.runningB 0 ||| num (updNum u.state) 1 ||| flag (movingCond s) 3 ||| flag u.onBatt 4 ||| flag (s.pwr.released && s.store.ownerLock) 5 |||
      flag (permitInForce s) 6 ||| (if s.pwr.released then fld s.flash.starts 7 else 0) ||| flag u.recovery 9
  | 0x104 => if s.pwr.released then slotReg s.flash.slotA else 0
  | 0x108 => if s.pwr.released then slotReg s.flash.slotB else 0
  | 0x10C => fld u.loadAddr 6
  | 0x110 => u.loadLen.setWidth 32
  | 0x118 => u.code.setWidth 32
  | 0x11C => u.env.setWidth 32
  | 0x12C => u.window.setWidth 32
  | 0x130 => if u.state == .trial then u.trialEnd.elim 0 fun t => num (min 4095 ((t - s.tb.tick) / secondTicks)) 0 else 0
  | 0x134 => fld u.fallbacks 0 ||| fld u.why 8
  | _ => 0

/-- Its 64-bit register. -/
def updReg64 (s : State) (off : Nat) : Option DWord := if off = 0x120 then some s.upd.target else none

/-- The security page (Table 15.13). What it shows of the OTP and of the store has its Reset value until the reset is released (R12;
log 94). -/
def secReg (s : State) (off : Nat) : Word :=
  match off with
  | 0x100 => if !s.pwr.released then 0 else num (lcState s.otp) 0 ||| fld s.otp.groups 8 ||| flag s.sec.rolled 14 ||| flag s.sec.stuck 15
  | 0x104 => if !s.pwr.released then 0 else fld s.otp.revoked 0 ||| flag s.otp.ownerBurnt 4 ||| flag s.store.cak.isSome 5 ||| flag s.store.cakNext.isSome 6 ||| fld s.otp.svn 8
  | 0x108 => s.sec.code.setWidth 32
  | 0x120 => fld s.sec.tktAddr 6
  | 0x124 => s.sec.tktLen.setWidth 32
  | _ => if 0x140 ≤ off && off < 0x170 then bits s.otp.devId (8 * (off - 0x140)) 32 else 0

/-- Its 64-bit registers. -/
def secReg64 (s : State) (off : Nat) : Option DWord :=
  match off with
  | 0x110 => some s.otp.serial
  | 0x118 => some s.sec.nonce
  | _ => none

/-! ### Ports, CAN, UART -/

/-- Is a port instance a trio port? -/
def isTrioPort (i : Fin 10) : Bool := decide (8 ≤ i.val)

/-- The Ethernet port of an instance. -/
def ethOf (i : Fin 10) : Fin 8 := ⟨i.val % 8, Nat.mod_lt _ (by omega)⟩

/-- A multicast filter entry. -/
def mcfEntry (s : State) (i : Fin 10) : Option (BitVec 48) :=
  if isTrioPort i then none
  else (portCfg s (ethOf i)).bind fun c => c.multicast[(Vec.at s.ports i).mcfSel.toNat]?

/-- What the registers of Table 11.8 that only Ethernet pages have read as. -/
def ethReg (s : State) (i : Fin 10) (off : Nat) : Word :=
  let x := Vec.at s.ports i
  let p := ethOf i
  match off with
  | 0x108 => fld (defaultGate s p) 0 ||| fld (gateAt s p (schedNow s)) 8
  | 0x120 => x.dup
  | 0x130 => x.mcfSel.setWidth 32
  | 0x134 => (mcfEntry s i).elim 0 fun m => bits m 0 32
  | 0x138 => (mcfEntry s i).elim 0 fun m => fld (bits m 32 16) 0 ||| flag true 16
  | 0x140 => fld x.rxBase 6
  | 0x144 => x.rxLen.setWidth 32
  | 0x148 => x.rxHead.setWidth 32
  | 0x14C => x.rxTail.setWidth 32
  | 0x150 => fld x.txBase 6
  | 0x154 => x.txLen.setWidth 32
  | 0x158 => x.txHead.setWidth 32
  | 0x15C => x.txTail.setWidth 32
  | _ => 0

/-- The port pages (Table 11.8, R307), but for the timestamp that latches. -/
def portReg (s : State) (i : Fin 10) (off : Nat) : Word :=
  let x := Vec.at s.ports i
  let trio := isTrioPort i
  match off with
  | 0x100 => (if trio then 0 else fld x.rate 0) ||| flag x.en 2
  | 0x104 => if trio then flag (if i = 8 then s.trio.upA else s.trio.upB) 0 ||| num 3 1
      else flag x.up 0 ||| fld (portLan s (ethOf i)) 1 ||| flag (portPaired s (ethOf i)) 3
  | 0x10C => fld x.txLat 0 ||| fld x.rxLat 16
  | 0x124 => fld x.late 0 ||| fld x.nobuf 16
  | 0x128 => fld x.noroom 0 ||| fld x.bad 16
  | 0x180 => if trio then fld x.keyCur 0 ||| flag x.keyPend.isSome 8 ||| flag x.keyBoth.isSome 9 else 0
  | 0x194 => if trio then x.trpCode.setWidth 32 else 0
  | _ => if trio then 0 else ethReg s i off

/-- Its 64-bit register, on trio pages. -/
def portReg64 (s : State) (i : Fin 10) (off : Nat) : Option DWord :=
  if off = 0x188 && isTrioPort i then some (Vec.at s.ports i).keyTarget else none

/-- The filter shown. -/
def filterSel (s : State) (c : Fin 16) : Option CanFilter := (canCfg s c).bind fun g => (g.filters[(canAt s c).fsel.toNat]?).join

/-- The CAN pages (Table 12.6). -/
def canReg (s : State) (c : Fin 16) (off : Nat) : Word :=
  let x := canAt s c
  let b := x.sel.val
  match off with
  | 0x100 => num (canNum x.mode) 0 ||| flag x.busoff 2 ||| flag x.passive 3 ||| flag x.warning 4 ||| flag x.detected 5
  | 0x104 => fld x.tec 0 ||| fld x.recCnt 16
  | 0x10C => x.code.setWidth 32
  | 0x110 => x.nbt
  | 0x114 => x.dbt &&& 0x0FFFFFFF
  | 0x118 => fld x.cand 0 ||| flag x.autoJoin 3 ||| fld x.timeout 8
  | 0x128 => num b 0 ||| flag x.lock 8
  | 0x12C => num (kindNum (Vec.at x.kinds x.sel)) 0 ||| flag (x.fresh.getLsbD b) 2 ||| flag (x.ovr.getLsbD b) 3 |||
      flag x.shadow.isSome 4 ||| flag (x.sent.getLsbD b) 5 ||| flag (x.cancelled.getLsbD b) 6
  | 0x130 => fld x.late 0 ||| fld x.noMatch 16
  | 0x134 => fld x.ovrCnt 0 ||| fld x.busoffs 16
  | 0x138 => x.lat.setWidth 32
  | 0x140 => x.fsel.setWidth 32
  | 0x144 => (filterSel s c).elim 0 fun f => fld f.id 0 ||| flag f.ide 29 ||| flag true 30
  | 0x148 => (filterSel s c).elim 0 fun f => f.mask.setWidth 32
  | 0x14C => (filterSel s c).elim 0 fun f => num f.target.val 0
  | _ => if 0x200 ≤ off && off < 0x280 then wordOf ((canBuffer x b).drop (off - 0x200)) else 0

/-- Its 64-bit register. -/
def canReg64 (s : State) (c : Fin 16) (off : Nat) : Option DWord := if off = 0x120 then some (canAt s c).pend else none

/-- The UART pages (Table 12.7), but for UART_DATA and UART_MARK_NS. -/
def uartReg (s : State) (u : Fin 8) (off : Nat) : Word :=
  let x := uartAt s u
  match off with
  | 0x100 => fld x.bitNs 0 ||| fld x.dataBits 22 ||| fld x.parity 24 ||| flag x.stop2 26 ||| flag x.latched 27
  | 0x104 => fld x.mark0 0 ||| fld x.mark1 8 ||| fld x.rxThr 16
  | 0x10C => num x.rx.length 0 ||| num x.tx.length 16
  | 0x110 => fld x.ovr 0 ||| fld x.framing 8 ||| fld x.parityErr 16 ||| fld x.breaks 24
  | 0x11C => num x.marks.length 0
  | 0x120 => x.txOvr.setWidth 32
  | _ => 0

/-! ### Crest pages -/

/-- The record of the engine selected; one of 18 to 31 shows all 0 (Table 3.10). -/
def xSel (s : State) (c : Fin 6) : XRecord :=
  let t := Vec.at s.crests c
  ((t.engines[t.xsel.toNat]?).map fun g => g.x).getD {}

/-- The engine pages (Table 3.10). -/
def engineReg (s : State) (c : Fin 6) (off : Nat) : Word :=
  let t := Vec.at s.crests c
  let x := xSel s c
  match off with
  | 0x100 => fld t.retired 0 ||| num (2 - popcount t.retired) 18 ||| flag t.exhausted 20 ||| flag t.refused 21
  | 0x104 => fld t.speedMin 0 ||| fld t.speedMon 12 ||| fld t.lowRounds 16
  | 0x118 => t.variant.setWidth 32
  | 0x120 => t.eccCorr
  | 0x124 => t.eccThr
  | 0x128 => t.eccUnc.setWidth 32
  | 0x12C => t.eccAddr
  | 0x140 => t.xsel.setWidth 32
  | 0x144 => fld x.cause 0 ||| flag x.ds 4 ||| flag x.sh 5 ||| flag x.le 6 ||| fld x.depth 7 ||| fld x.trap 9 ||| fld x.seen 16 ||| fld x.mode 24
  | 0x148 => x.pc.setWidth 32
  | 0x14C => x.next.setWidth 32
  | 0x150 => x.addr
  | 0x154 => fld x.lc0 0 ||| fld x.lc1 16
  | 0x158 => fld x.tenant 0 ||| fld x.task 8 ||| fld x.step 16
  | 0x15C => fld x.slot 0 ||| fld x.round 20
  | 0x160 => x.elapsed.setWidth 32
  | _ =>
    if 0x108 ≤ off && off < 0x118 then
      let n := 2 * ((off - 0x108) / 4)
      fld ((t.readings[n]?).getD 0) 0 ||| fld ((t.readings[n + 1]?).getD 0) 16
    else 0

/-- Its 64-bit register. -/
def engineReg64 (s : State) (c : Fin 6) (off : Nat) : Option DWord := if off = 0x168 then some (xSel s c).frame else none

/-- The loop-array pages (Table 5.12). -/
def loopReg (s : State) (c : Fin 6) (off : Nat) : Word :=
  let a := (Vec.at s.crests c).loop
  match off with
  | 0x100 => flag a.pending.isSome 0 ||| flag (!a.held.isEmpty) 1
  | 0x104 => a.sel.setWidth 32
  | 0x10C => a.code.setWidth 32
  | 0x110 => fld ((loopOwner s c a.sel).getD 0) 0 ||| flag (loopScheduled s c a.sel) 3 |||
      fld (bits (lrec a a.sel 0x60) 0 3) 4 ||| flag (a.held.any fun x => x.1 == a.sel) 7
  | 0x200 => flag a.trcEnable 0 ||| flag a.trcOneshot 1
  | 0x204 => num (traceNum a.trcState) 0 ||| flag a.trcWrapped 2 ||| fld a.trcNext 16
  | 0x208 => fld a.trcSrc 0 ||| fld a.trcChan 2
  | 0x20C => a.trcLevel
  | 0x210 => a.trcPost.setWidth 32
  | 0x214 => a.trcRec.setWidth 32
  | _ =>
    if 0x140 ≤ off && off < 0x180 then (a.params[(off - 0x140) / 4]?).getD 0
    else if 0x220 ≤ off && off < 0x240 then (a.trcCh[(off - 0x220) / 4]?).getD 0
    else if 0x300 ≤ off && off < 0x400 then (a.rd[(off - 0x300) / 4]?).getD 0
    else 0

/-- Its 64-bit register. -/
def loopReg64 (s : State) (c : Fin 6) (off : Nat) : Option DWord :=
  if off = 0x218 then some (Vec.at s.crests c).loop.trcTime else none

/-! ### Field, panel -/

/-- FLD_CFG_TIME and FLD_CFG_FLAGS of the selected channel; 0 for one the image does not configure (R245). -/
def fieldCfg (s : State) : Word × Word :=
  let ch := (bits s.field.sel 8 6).toNat
  match (bits s.field.sel 0 3).toNat with
  | 0 => (if h : ch < 64 then diCfg s ⟨ch, h⟩ else none).elim (0, 0) fun c =>
      (fld c.debounceUs 0, num c.tps.val 0 ||| flag c.testPulse 3 ||| flag c.wireBreak 4)
  | 1 => (if h : ch < 24 then doCfg s ⟨ch, h⟩ else none).elim (0, 0) fun c => (fld c.blanking 0, flag c.single 6 ||| flag c.safeOn 7)
  | 2 => (if h : ch < 8 then tloCfg s ⟨ch, h⟩ else none).elim (0, 0) fun c => (fld c.blanking 0, flag c.single 6)
  | 3 => (if h : ch < 32 then aiCfg s ⟨ch, h⟩ else none).elim (0, 0) fun c => (fld c.filterMs 0, flag c.supply 5)
  | 4 => (if h : ch < 16 then aoCfg s ⟨ch, h⟩ else none).elim (0, 0) fun c => (fld c.safeUa 0, flag c.single 6 ||| fld c.safeMode 8)
  | 5 => (if h : ch < 8 then tpsCfg s ⟨ch, h⟩ else none).elim (0, 0) fun c => (fld c.widthUs 0 ||| fld c.periodMs 16, 0)
  | _ => (0, 0)

/-- FLD_MEAS of the selected channel: its current in mA. -/
def fieldMeas (s : State) : Word :=
  let ch := (bits s.field.sel 8 6).toNat
  match (bits s.field.sel 0 3).toNat with
  | 3 => if h : ch < 32 then (if (aiCfg s ⟨ch, h⟩).isSome then Vec.at s.field.aiCur ⟨ch, h⟩ else 0) else 0
  | 4 => if h : ch < 16 then (if (aoCfg s ⟨ch, h⟩).isSome then ratB32 (Vec.at s.field.aoMeas ⟨ch, h⟩).toNat 1000000 else 0) else 0
  | _ => 0

/-- Has Foothill reported over its link since its reset? Until then FLD_STAT.FAULT and FLD_TPS_RB keep their reset values. -/
def fieldSeen (s : State) : Bool := s.field.linkUp || s.field.alone

/-- The field page (Table 8.13). -/
def fieldReg (s : State) (off : Nat) : Word :=
  let f := s.field
  match off with
  | 0x100 => flag (fieldFault s && fieldSeen s) 0 ||| flag f.linkUp 1 ||| flag f.warn 2 ||| flag f.uvlo 3 ||| flag f.fenced 4 ||| flag f.fenceHigh 5 |||
      flag f.hot 6 ||| flag f.shutdown 7 ||| flag f.alone 8
  | 0x108 => f.vfield.setWidth 32
  | 0x10C => f.temp.setWidth 32
  | 0x110 => flag f.fenceSeen 0
  | 0x120 => bits f.diVal 0 32
  | 0x124 => bits f.diVal 32 32
  | 0x128 => bits f.diBrk 0 32
  | 0x12C => bits f.diBrk 32 32
  | 0x130 => bits f.diRaw 0 32
  | 0x134 => bits f.diRaw 32 32
  | 0x138 => f.doCmd.setWidth 32
  | 0x13C => f.doTerm.setWidth 32
  | 0x140 => f.doSw.setWidth 32
  | 0x144 => fld f.tloCmd 0 ||| fld f.tloSw 8 ||| fld f.tloHi 16 ||| fld f.tloLo 24
  | 0x148 => if fieldSeen s then (tpsOn s).setWidth 32 else 0
  | 0x150 => aoStatWord s 0
  | 0x154 => aoStatWord s 1
  | 0x180 => f.sel.setWidth 32
  | 0x184 => (fieldCfg s).1
  | 0x188 => (fieldCfg s).2
  | 0x18C => fieldMeas s
  | 0x1C0 => f.trimSel.setWidth 32
  | 0x1C4 => f.trimM4.setWidth 32
  | 0x1C8 => f.trimM20.setWidth 32
  | 0x1D0 => f.trimCode.setWidth 32
  | _ => 0

/-- The panel page (Table 9.4). -/
def panelReg (s : State) (off : Nat) : Word :=
  let p := s.panel
  let cfg := panelCfg s
  match off with
  | 0x100 => pnlStat s
  | 0x104 => p.temp.setWidth 32
  | 0x108 => p.vpnl.setWidth 32
  | 0x10C => p.loop.setWidth 32
  | 0x110 => flag p.crackSeen 0
  | 0x114 => cfg.elim 0 fun c => fld c.minWrite 0 ||| flag c.loopEn 8 ||| fld c.bandStep 16
  | 0x118 => cfg.elim 0 fun c => fld c.vr 0 ||| fld c.vs0 16
  | 0x11C => fld p.lastMs 0 ||| fld p.writes 16
  | 0x120 => p.csel.setWidth 32
  | 0x124 =>
    if p.csel.toNat < 768 then let c := stressGet p.stress p.csel.toNat; fld c 0 ||| num (bandOf s c) 24 else 0
  | _ =>
    if 0x140 ≤ off && off < 0x1A0 then
      let k := (off - 0x140) / 4
      bits ((p.shadow[k / 3]?).getD 0) (32 * (k % 3)) 32
    else 0

/-! ### Every page -/

/-- The 32-bit register of a page at an offset from 0x100 on, as a requester reads it. -/
def pageReg (s : State) (w : Requester) (pg : Page) (off : Nat) : Word :=
  match pg with
  | .directory => dirReg s false off
  | .secDirectory => dirReg s true off
  | .interrupt => irqReg s off
  | .mailbox => mailReg s false off
  | .secMailbox => mailReg s true off
  | .supervisor => superReg s off
  | .hostLink => hostReg s off
  | .power => powerReg s off
  | .hub => switchReg s 0 off
  | .switch c => switchReg s (c.val + 1) off
  | .schedule => schedReg s off
  | .runControl => runReg s off
  | .trio => trioReg s off
  | .safety => safetyReg s off
  | .timebase => tbReg s off
  | .recorder => recReg s w off
  | .historian => hisReg s off
  | .update => updReg s off
  | .security => secReg s off
  | .port i => portReg s i off
  | .can c => canReg s c off
  | .uart u => uartReg s u off
  | .engine c => engineReg s c off
  | .loopArray c => loopReg s c off
  | .field => fieldReg s off
  | .panel => panelReg s off

/-- The 64-bit register of a page whose low word is at an offset, if one is (R425). -/
def pageReg64 (s : State) (pg : Page) (off : Nat) : Option DWord :=
  (hdrReg64 s pg off).orElse fun _ =>
    match pg with
    | .schedule => schedReg64 s off
    | .runControl => runReg64 s off
    | .trio => trioReg64 s off
    | .safety => safetyReg64 s off
    | .timebase => tbReg64 s off
    | .historian => hisReg64 s off
    | .update => updReg64 s off
    | .security => secReg64 s off
    | .port i => portReg64 s i off
    | .can c => canReg64 s c off
    | .engine c => engineReg64 s c off
    | .loopArray c => loopReg64 s c off
    | _ => none

/-- The value of a register word that keeps no latch. -/
def plainReg (s : State) (w : Requester) (pg : Page) (off : Nat) : Word :=
  if off < 0x100 then hdrReg s pg off else pageReg s w pg off

/-! ### Reads that latch or take (R264, R278, R365, R425) -/

/-- A read of the nanoseconds of an instant latches its seconds. -/
def readInstant (w : Requester) (pg : Page) (off : Nat) (i : Instant) (s : State) : State :=
  answer (i.ns.setWidth 32) (latchPut w pg (off + 8) ((bits i.sec 32 16).setWidth 32) (latchPut w pg (off + 4) (bits i.sec 0 32) s))

/-- The words that return what their requester latched by another read. -/
def latchedWord (pg : Page) (off : Nat) : Bool :=
  match pg with
  | .timebase => [0x114, 0x118, 0x140, 0x144, 0x148, 0x18C, 0x190, 0x19C, 0x1A0].contains off
  | .port _ => off == 0x114 || off == 0x118
  | .uart _ => off == 0x118
  | _ => false

/-- A read with an effect of its own, if the word has one. -/
def readSpecial (w : Requester) (pg : Page) (off : Nat) : Option (State → State) :=
  match pg with
  | .timebase =>
    if off = 0x110 then some (readNow w)
    else if off = 0x150 then some (readGcnt w)
    else if off = 0x188 then some fun s => readInstant w pg 0x188 (Vec.at s.tb.ppsIn 0).cap s
    else if off = 0x198 then some fun s => readInstant w pg 0x198 (Vec.at s.tb.ppsIn 1).cap s
    else none
  | .port i => if off = 0x110 then some fun s => readInstant w pg 0x110 (Vec.at s.ports i).txts s else none
  | .uart u =>
    if off = 0x108 then some (uartRead u) else if off = 0x114 then some (uartMarkRead u w) else none
  | .recorder =>
    if 0x400 ≤ off && off < 0x800 && off % 32 == 0 then some (readEntry w ⟨(off - 0x400) / 32 % 32, Nat.mod_lt _ (by omega)⟩)
    else none
  | _ => none

/-- A 32-bit read of a page that has let the access in. -/
def readPage (w : Requester) (pg : Page) (off : Nat) (s : State) : State :=
  match readSpecial w pg off with
  | some f => f s
  | none =>
    if latchedWord pg off then answer (latchGet s w pg off) s
    else match pageReg64 s pg off with
      | some d => answer (lo32 d) (latchPut w pg off (hi32 d) s)
      | none =>
        if off % 8 == 4 && (pageReg64 s pg (off - 4)).isSome then answer (latchGet s w pg (off - 4)) s
        else answer (plainReg s w pg off) s

end Sys2Proof.Machine
end

