-- ==== Sys2Proof/Machine/RegWrites.lean ====
section
/-! DEFINITION. What a 32-bit write does to every register, by its field's type (R10, Table 0.6) and the row of its chapter's register
table. A write to a reserved offset, a read-only field or a reserved field is ignored (Table 17.6). A write of a command register runs the
command that has a row of its own. -/
namespace Sys2Proof.Machine

/-- Change a field of the page's own state where `b` holds. -/
def doIf (b : Bool) (f : State → State) (s : State) : State := if b then f s else s

/-- A write whose effect on the page's condition bits is noted. -/
def withConds (pg : Page) (f : State → State) (s : State) : State := noteConds [pg] s (f s)

/-- The mailbox agent a requester is. -/
def agentOf (q : Req) : Agent :=
  match q.who with
  | .s0 => .supervisor 0 q.machine
  | .s1 => .supervisor 1 q.machine
  | .s2 => .supervisor 2 q.machine
  | .s3 => .supervisor 3 q.machine
  | .security => .security
  | .host => .host

/-! ### The header (R421 to R423, R429) -/

/-- The highest of the consecutive select codes from 0x10 that a page counts; 0xF for none (Table 17.8). -/
def lastCode : Page → Nat
  | .engine _ => 0x14
  | .loopArray _ | .hub | .switch _ | .port _ | .can _ | .runControl | .trio | .recorder => 0x13
  | .safety | .historian | .hostLink | .field => 0x12
  | .uart _ | .timebase => 0x11
  | _ => 0xF

/-- Does a page list a select code (Table 17.8)? A switch counts the flits of each port it has. -/
def codeListed (pg : Page) (c : Nat) : Bool :=
  decide (c ≤ 4) || (decide (0x10 ≤ c) && decide (c ≤ lastCode pg)) ||
  (match pg with
   | .hub => decide (0x20 ≤ c) && decide (c ≤ 0x28)
   | .switch _ => decide (0x20 ≤ c) && decide (c ≤ 0x23)
   | _ => false)

/-- BLK_CTRL.LOCK (R423). -/
def lockPage (pg : Page) (s : State) : State := updHdr pg (fun h => { h with lock := true }) s

/-- BLK_CTRL.CNT_CLEAR. -/
def clearCounts (pg : Page) (s : State) : State :=
  updHdr pg (fun h => { h with cnt := Vector.replicate 4 0, clearTick := some s.tb.tick }) s

/-- A write of BLK_IRQ_STAT clears event bits, but for those whose event falls at the same tick (R422). -/
def irqClear (pg : Page) (v : Word) (s : State) : State :=
  updHdr pg (fun h => { h with raw := h.raw &&& ~~~(v &&& ~~~h.freshAt s.tb.tick) }) s

/-- A write of BLK_IRQ_SET sets event bits; condition bits are unaffected (R422). -/
def irqSet (pg : Page) (v : Word) (s : State) : State :=
  countEdge pg s (updHdr pg (fun h => { h with raw := h.raw ||| (v &&& eventMask pg) }) s)

/-- A write of BLK_CTRL. -/
def writeCtrl (pg : Page) (v : Word) (s : State) : State :=
  let s := updHdr pg (fun h => { h with freeze := v.getLsbD 1 }) s
  doIf (v.getLsbD 2) (clearCounts pg) (doIf (v.getLsbD 0) (lockPage pg) s)

/-- A write of a select register: an unlisted code is stored as 0 (R429). -/
def writeSel (pg : Page) (n : Fin 4) (v : Word) (s : State) : State :=
  let c : Byte := bits v 0 8
  updHdr pg (fun h => { h with sel := Vec.put h.sel n (if codeListed pg c.toNat then c else 0) }) s

/-- A write of a header register. -/
def writeHdr (pg : Page) (off : Nat) (v : Word) (s : State) : State :=
  match off with
  | 0x008 => writeCtrl pg v s
  | 0x00C => updHdr pg (fun h => { h with lockViol := h.lockViol && !v.getLsbD 0, errAccess := h.errAccess && !v.getLsbD 1 }) s
  | 0x014 => countEdge pg s (updHdr pg (fun h => { h with en := v &&& (eventMask pg ||| condMask pg) }) s)
  | 0x018 => irqClear pg v s
  | 0x01C => irqSet pg v s
  | 0x020 => writeSel pg 0 v s
  | 0x024 => writeSel pg 1 v s
  | 0x028 => writeSel pg 2 v s
  | 0x02C => writeSel pg 3 v s
  | _ => s

/-! ### Supervisor, interrupts, mailbox, host link (Ch. 13) -/

/-- A write of an interrupt-page register: a source from 496 on keeps EN. -/
def writeIrq (off : Nat) (v : Word) (s : State) : State :=
  if off = 0x100 then updSuper (fun x => { x with hold := v.getLsbD 0 }) s
  else if 0x120 ≤ off && off < 0x130 then
    updSuper (fun x => { x with thr := Vec.put x.thr ⟨(off - 0x120) / 4 % 4, Nat.mod_lt _ (by omega)⟩ (bits v 0 9) }) s
  else if off = 0x140 then updSuper (fun x => { x with urgent := x.urgent &&& ~~~(bits v 0 16) }) s
  else if 0x804 ≤ off then
    let n : Fin 512 := ⟨(off - 0x800) / 4 % 512, Nat.mod_lt _ (by omega)⟩
    updSuper (fun x => { x with
      route := Vec.put x.route n (bits v 0 2),
      enable := if n.val < 496 then setBit x.enable n.val (v.getLsbD 2) else x.enable }) s
  else s

/-- An agent code as MB_CTL stores it: the host's on the secure page is stored as none (R337). -/
def mailCode (sec : Bool) (c : BitVec 4) : BitVec 4 := if sec && c == 1 then 0xF else c

/-- A write of MB_CTL of a channel. -/
def writeMailCtl (sec : Bool) (ch : Fin 32) (v : Word) (s : State) : State :=
  ifUnlocked (mailPage ch) (updMail ch fun m => { m with sender := mailCode sec (bits v 0 4), receiver := mailCode sec (bits v 4 4) }) s

/-- A write of a supervisor-page register. -/
def writeSuper (q : Req) (off : Nat) (v : Word) (s : State) : State :=
  match off with
  | 0x104 => wdogKick q.who (bits v 0 8) s
  | 0x120 => updSuper (fun x => { x with pselCore := bits v 0 2, pselWin := bits v 4 4 }) s
  | 0x134 =>
    let d : Fin 8 := ⟨(bits v 0 3).toNat, (bits v 0 3).isLt⟩
    if bits v 3 2 = 1 then cmdPdUp d s else if bits v 3 2 = 2 then cmdPdDown d s else s
  | 0x140 => doIf (v.getLsbD 1) pmuClear (pmuFreeze (v.getLsbD 0) s)
  | _ => s

/-! ### Schedule, run control, trio, safety (Ch. 2, 4, 6, 7) -/

/-- A write of a schedule-page register. -/
def writeSched (off : Nat) (v : Word) (s : State) : State :=
  match off with
  | 0x100 => updSched (fun x => { x with loadAddr := bits v 6 26 }) s
  | 0x104 => updSched (fun x => { x with loadLen := bits v 0 25 }) s
  | 0x108 =>
    match (bits v 0 3).toNat with
    | 1 => cmdSchLoad s
    | 2 => cmdSchActivate (v.getLsbD 3) (v.getLsbD 4) s
    | 3 => cmdSchCancel s
    | 4 => cmdSchDiscard s
    | _ => s
  | _ => s

/-- A write of a run-control register. -/
def writeRun (off : Nat) (v : Word) (s : State) : State :=
  match off with
  | 0x104 => doIf (v.getLsbD 0) cmdRestart s
  | 0x120 => updRun (fun r => { r with frcPoint := bits v 0 16 }) s
  | 0x124 => updRun (fun r => { r with frcValue := v }) s
  | 0x128 =>
    match (bits v 0 2).toNat with
    | 1 => cmdFrcSet s
    | 2 => cmdFrcClear s
    | 3 => cmdFrcClearAll s
    | _ => s
  | 0x130 => updRun (fun r => { r with frcSel := bits v 0 8 }) s
  | 0x160 => updRun (fun r => { r with keaSel := bits v 0 8 }) s
  | 0x180 => updRun (fun r => { r with loadAddr := bits v 6 26 }) s
  | 0x184 => updRun (fun r => { r with loadLen := bits v 0 25 }) s
  | 0x188 =>
    match (bits v 0 3).toNat with
    | 1 => cmdAppLoad s
    | 2 => cmdAppActivate (v.getLsbD 4) s
    | 3 => cmdAppCancel s
    | 4 => cmdAppDiscard s
    | 5 => cmdAppArm s
    | _ => s
  | _ => s

/-- A write of a trio-page register. -/
def writeTrio (off : Nat) (v : Word) (s : State) : State :=
  if off = 0x114 then
    match (bits v 0 2).toNat with
    | 1 => cmdRejoin s
    | 2 => cmdGiveUp s
    | 3 => cmdAbortRejoin s
    | _ => s
  else s

/-- A write of a safety-page register. -/
def writeSafety (off : Nat) (v : Word) (s : State) : State :=
  match off with
  | 0x110 => updSafety (fun x => { x with fsel := bits v 0 8 }) s
  | 0x120 => updSafety (fun x => { x with csel := bits v 0 8 }) s
  | _ => s

/-! ### Timebase (Ch. 10) -/

/-- A write of a timebase register. -/
def writeTb (w : Requester) (off : Nat) (v : Word) (s : State) : State :=
  match off with
  | 0x108 =>
    match (bits v 0 3).toNat with
    | 1 => cmdStep s
    | 2 => cmdGulny s
    | 3 => cmdShot (if v.getLsbD 3 then 1 else 0) s
    | _ => s
  | 0x120 => writeIncrLo w v s
  | 0x124 => writeIncrHi w v s
  | 0x128 => updTb (fun t => { t with stepNs := bits v 0 30 }) s
  | 0x12C => updTb (fun t => { t with stepSec := v }) s
  | 0x138 => ifUnlocked .timebase (updTb fun t => { t with epoch := bits v 0 16 }) s
  | 0x158 => writeGcntIncr v s
  | 0x180 => updTb (fun t => { t with ppsInCtrl := bits v 0 4 }) s
  | 0x184 =>
    let clear (n : Fin 2) (p : PpsIn) : PpsIn :=
      { p with fresh := p.fresh && !v.getLsbD (2 * n.val), ovr := p.ovr && !v.getLsbD (2 * n.val + 1) }
    updTb (fun t => { t with ppsIn := Vec.upd (Vec.upd t.ppsIn 0 (clear 0)) 1 (clear 1) }) s
  | 0x1B0 => writePpsOut v s
  | 0x1B4 => updTb (fun t => { t with shotNs := bits v 0 30 }) s
  | 0x1B8 => updTb (fun t => { t with shotSec := bits t.shotSec 32 16 ++ v }) s
  | 0x1BC => updTb (fun t => { t with shotSec := bits v 0 16 ++ bits t.shotSec 0 32 }) s
  | _ => s

/-! ### Recorder, historian (Ch. 14) -/

/-- A write of a banked firmware-record register; the requesters that are no core have none (R366). -/
def writeFw (w : Requester) (f : FwBank → FwBank) (s : State) : State :=
  (coreOf w).elim s fun c => updRec (fun r => { r with fw := Vec.upd r.fw c f }) s

/-- A write of a recorder register. -/
def writeRec (w : Requester) (off : Nat) (v : Word) (s : State) : State :=
  match off with
  | 0x104 => startRefill v s
  | 0x10C => updRec (fun r => { r with rsel := bits v 0 4 }) s
  | 0x134 => doIf (v.getLsbD 1) clearLost (doIf (v.getLsbD 0) clearDrops s)
  | 0x138 => withConds .recorder (updRec fun r => { r with lag := bits v 0 9 }) s
  | 0x140 => writeFw w (fun b => { b with code := bits v 0 16, sev := bits v 16 3 }) s
  | 0x144 => writeFw w (fun b => { b with p0 := v }) s
  | 0x148 => writeFw w (fun b => { b with p1 := v }) s
  | 0x14C => writeFw w (fun b => { b with p2 := v }) s
  | 0x150 => doIf (v.getLsbD 0) (fwWrite w) s
  | _ => s

/-- A write of a historian register. -/
def writeHis (off : Nat) (v : Word) (s : State) : State :=
  match off with
  | 0x104 => updHis (fun h => { h with dsel := bits v 0 2 }) s
  | 0x120 => updHis (fun h => { h with tselOwner := bits v 0 4, tselClass := bits v 4 2 }) s
  | 0x188 => updHis (fun h => { h with qSel := bits v 0 16 &&& 0xFF3F }) s
  | 0x18C => updHis (fun h => { h with qBuf := bits v 6 26 }) s
  | 0x190 => updHis (fun h => { h with qLen := bits v 0 25 }) s
  | 0x194 => doIf (v.getLsbD 0) queryGo s
  | _ => s

/-! ### Updates, security, power, switches (Ch. 15, 16, 17) -/

/-- A number stored as the nearer limit of a range. -/
def clampTo {n : Nat} (lo hi v : BitVec n) : BitVec n := if v < lo then lo else if hi < v then hi else v

/-- A write of an update register. -/
def writeUpd (off : Nat) (v : Word) (s : State) : State :=
  match off with
  | 0x10C => updUpd (fun u => { u with loadAddr := bits v 6 26 }) s
  | 0x110 => updUpd (fun u => { u with loadLen := bits v 0 26 }) s
  | 0x114 =>
    match (bits v 0 3).toNat with
    | 1 => cmdUpdLoad (v.getLsbD 3) s
    | 2 => cmdUpdActivate s
    | 3 => cmdUpdCancel s
    | 4 => cmdUpdErase s
    | 5 => cmdUpdStore (v.getLsbD 3) s
    | _ => s
  | 0x128 => confirm v s
  | 0x12C => updUpd (fun u => { u with window := clampTo 10 3600 (bits v 0 12) }) s
  | _ => s

/-- A write of a security register. A ticket's flash writes succeed through this register (log entry 42). -/
def writeSec (off : Nat) (v : Word) (s : State) : State :=
  match off with
  | 0x120 => updSec (fun x => { x with tktAddr := bits v 6 26 }) s
  | 0x124 => updSec (fun x => { x with tktLen := bits v 0 16 }) s
  | 0x128 => doIf (v.getLsbD 0) (submitTicket true) s
  | _ => s

/-- A write of a power register. -/
def writePower (off : Nat) (v : Word) (s : State) : State :=
  match off with
  | 0x10C => updPwr (fun p => { p with dip := p.dip &&& ~~~(bits v 0 6), faults := p.faults &&& ~~~(bits v 8 6) }) s
  | 0x118 => ifUnlocked .power (updPwr fun p => { p with vfloor := clampTo 700 850 (bits v 0 10) }) s
  | 0x11C => updPwr (fun p => { p with tselTile := bits v 0 3, tselSensor := bits v 4 2 }) s
  | 0x128 => doIf (v.getLsbD 8) (requestReset (bits v 0 8)) s
  | _ => s

/-- A write of a switch register of tile `t`. -/
def writeSwitch (t : Nat) (off : Nat) (v : Word) (s : State) : State :=
  if off = 0x108 then updSwitch t (fun x => { x with down := x.down &&& ~~~(bits v 0 9) }) s else s

/-! ### Ports, CAN, UART (Ch. 11, 12) -/

/-- A write of ETH_CTRL: RATE 3 is stored as 2; a trio port has no RATE. -/
def writeEthCtrl (i : Fin 10) (v : Word) (s : State) : State :=
  ifUnlocked (.port i) (updPort i fun x => { x with
    rate := if isTrioPort i then x.rate else if bits v 0 2 = 3 then 2 else bits v 0 2, en := v.getLsbD 2 }) s

/-- A write of a register that only the Ethernet pages have. -/
def writeEth (i : Fin 10) (off : Nat) (v : Word) (s : State) : State :=
  match off with
  | 0x130 => updPort i (fun x => { x with mcfSel := bits v 0 6 }) s
  | 0x140 => updPort i (fun x => { x with rxBase := bits v 6 26 }) s
  | 0x144 => updPort i (fun x => { x with rxLen := bits v 0 12 }) s
  | 0x14C => writeRxTail (ethOf i) (bits v 0 12) s
  | 0x150 => updPort i (fun x => { x with txBase := bits v 6 26 }) s
  | 0x154 => updPort i (fun x => { x with txLen := bits v 0 12 }) s
  | 0x15C => writeTxTail (ethOf i) (bits v 0 12) s
  | _ => s

/-- A write of a port register. -/
def writePort (i : Fin 10) (off : Nat) (v : Word) (s : State) : State :=
  match off with
  | 0x100 => writeEthCtrl i v s
  | 0x10C => updPort i (fun x => { x with txLat := bits v 0 16, rxLat := bits v 16 16 }) s
  | 0x190 => doIf (isTrioPort i && v.getLsbD 0) (cmdRotate (if i = 8 then .a else .b)) s
  | _ => if isTrioPort i then s else writeEth i off v s

/-- A buffer number in a register. -/
def bufNo (v : Word) : Fin 64 := ⟨(bits v 0 6).toNat, (bits v 0 6).isLt⟩

/-- A write of a CAN register. -/
def writeCan (c : Fin 16) (off : Nat) (v : Word) (s : State) : State :=
  match off with
  | 0x108 =>
    match (bits v 0 3).toNat with
    | 1 => canMode c .normal s
    | 2 => canMode c .listen s
    | 3 => canDetectCmd c s
    | 4 => canMode c .off s
    | _ => s
  | 0x118 =>
    updCan c (fun x => { x with autoJoin := v.getLsbD 3, timeout := if bits v 8 8 = 0 then 1 else bits v 8 8 }) s
  | 0x11C => doIf (v.getLsbD 9) (canCancel c (bufNo v)) (doIf (v.getLsbD 8) (canReq c (bufNo v)) s)
  | 0x128 => canSelect c (bufNo v) (v.getLsbD 8) s
  | 0x12C =>
    updCan c (fun x => { x with
      ovr := if v.getLsbD 3 then setBit x.ovr x.sel.val false else x.ovr,
      sent := if v.getLsbD 5 then setBit x.sent x.sel.val false else x.sent,
      cancelled := if v.getLsbD 6 then setBit x.cancelled x.sel.val false else x.cancelled }) s
  | 0x138 => updCan c (fun x => { x with lat := bits v 0 16 }) s
  | 0x140 => updCan c (fun x => { x with fsel := bits v 0 5 }) s
  | _ =>
    if 0x200 ≤ off && off < 0x280 then canPoke c ⟨(off - 0x200) / 4 % 32, Nat.mod_lt _ (by omega)⟩ v s else s

/-- A write of a UART register: PARITY 3 is stored as 0. -/
def writeUart (u : Fin 8) (off : Nat) (v : Word) (s : State) : State :=
  match off with
  | 0x100 =>
    ifUnlocked (.uart u) (updUart u fun x => { x with
      bitNs := bits v 0 22, dataBits := bits v 22 2, parity := if bits v 24 2 = 3 then 0 else bits v 24 2, stop2 := v.getLsbD 26 }) s
  | 0x104 =>
    withConds (.uart u) (updUart u fun x => { x with rxThr := bits v 16 8 })
      (ifUnlocked (.uart u) (updUart u fun x => { x with mark0 := bits v 0 8, mark1 := bits v 8 8 }) s)
  | 0x108 => uartWrite u (bits v 0 8) s
  | _ => s

/-! ### Crest and Foothill pages (Ch. 3, 5, 8, 9) -/

/-- A write of an engine-page register. -/
def writeEngine (c : Fin 6) (off : Nat) (v : Word) (s : State) : State :=
  match off with
  | 0x124 => updCrest c (fun t => { t with eccThr := v }) s
  | 0x130 =>
    doIf (v.getLsbD 1) (updCrest c fun t => { t with eccUnc := 0 }) (doIf (v.getLsbD 0) (updCrest c fun t => { t with eccCorr := 0 }) s)
  | 0x134 => doIf (v.getLsbD 31) (retireCmd c (bits v 0 5)) s
  | 0x140 => updCrest c (fun t => { t with xsel := bits v 0 5 }) s
  | _ => s

/-- A write of TRC_CTRL: ENABLE and ONESHOT are stored, DONE with ONESHOT 0 returns at once to RECORDING (Table 5.11), then ARM and FIRE act. -/
def writeTrcCtrl (c : Fin 6) (v : Word) (s : State) : State :=
  let s := if v.getLsbD 0 then updLoop c (fun a => { a with trcEnable := true }) s else cmdTrcDisable c s
  let s := updLoop c (fun a => { a with
    trcOneshot := v.getLsbD 1, trcState := if a.trcState == .done && !v.getLsbD 1 then .recording else a.trcState }) s
  doIf (v.getLsbD 3) (cmdTrcFire c) (doIf (v.getLsbD 2) (cmdTrcArm c) s)

/-- A write of a loop-array register. -/
def writeLoop (q : Req) (c : Fin 6) (off : Nat) (v : Word) (s : State) : State :=
  match off with
  | 0x104 => updLoop c (fun a => { a with sel := bits v 0 10 }) s
  | 0x108 => if bits v 0 2 = 1 then cmdLpaWrite q c s else if bits v 0 2 = 2 then cmdLpaRead c s else s
  | 0x200 => writeTrcCtrl c v s
  | 0x208 => updLoop c (fun a => { a with trcSrc := bits v 0 2, trcChan := bits v 2 4 }) s
  | 0x20C => updLoop c (fun a => { a with trcLevel := v }) s
  | 0x210 => updLoop c (fun a => { a with trcPost := bits v 0 13 }) s
  | _ =>
    if 0x140 ≤ off && off < 0x180 then
      updLoop c (fun a => { a with params := Vec.put a.params ⟨(off - 0x140) / 4 % 16, Nat.mod_lt _ (by omega)⟩ v }) s
    else if 0x220 ≤ off && off < 0x240 then
      updLoop c (fun a => { a with trcCh := Vec.put a.trcCh ⟨(off - 0x220) / 4 % 8, Nat.mod_lt _ (by omega)⟩ (v &&& 0x83FF83FF) }) s
    else s

/-- A write of a field register. -/
def writeField (off : Nat) (v : Word) (s : State) : State :=
  match off with
  | 0x104 => doIf (v.getLsbD 0) unlockTlo s
  | 0x110 => updField (fun f => { f with fenceSeen := f.fenceSeen && !v.getLsbD 0 }) s
  | 0x180 => updField (fun f => { f with sel := bits v 0 14 &&& 0x3F07 }) s
  | 0x1C0 => updField (fun f => { f with trimSel := bits v 0 4 }) s
  | 0x1C4 => updField (fun f => { f with trimM4 := bits v 0 25 }) s
  | 0x1C8 => updField (fun f => { f with trimM20 := bits v 0 25 }) s
  | 0x1CC =>
    match (bits v 0 3).toNat with
    | 1 => cmdTrimDrive false s
    | 2 => cmdTrimDrive true s
    | 3 => cmdTrimApply s
    | 4 => cmdTrimExit s
    | _ => s
  | _ => s

/-- A write of a panel register. -/
def writePanel (off : Nat) (v : Word) (s : State) : State :=
  match off with
  | 0x110 => updPanel (fun p => { p with crackSeen := p.crackSeen && !v.getLsbD 0 }) s
  | 0x120 => updPanel (fun p => { p with csel := bits v 0 10 }) s
  | 0x124 => writeCnt v s
  | _ => s

/-! ### 64-bit registers (R425) -/

/-- Is there a 64-bit register that software writes at this low-word offset? -/
def rw64 (pg : Page) (off : Nat) : Bool :=
  match pg with
  | .schedule => off == 0x118
  | .runControl => off == 0x108 || off == 0x198
  | .timebase => off == 0x130 || off == 0x160
  | .port i => isTrioPort i && off == 0x188
  | .historian => off == 0x180
  | .update => off == 0x120
  | _ => false

/-- A committed value enters its register. TB_OFFSET has its own rule (R267). -/
def put64 (pg : Page) (off : Nat) (d : DWord) (s : State) : State :=
  match pg with
  | .schedule => updSched (fun x => { x with target := d }) s
  | .runControl => updRun (fun r => if off = 0x108 then { r with target := d } else { r with appTarget := d }) s
  | .timebase => updTb (fun t => { t with gload := d }) s
  | .port i => updPort i (fun x => { x with keyTarget := d }) s
  | .historian => updHis (fun h => { h with qFrom := d }) s
  | .update => updUpd (fun u => { u with target := d }) s
  | _ => s

/-- The write of a high word commits both words (R425). -/
def commitHigh (w : Requester) (pg : Page) (off : Nat) (v : Word) (s : State) : State :=
  if pg == .timebase && off == 0x130 then writeOffsetHi w v s
  else
    let r := commit64 w pg off ((pageReg64 s pg off).getD 0) v s
    put64 pg off r.1 r.2

/-! ### Every page -/

/-- A write of a 32-bit register from offset 0x100 on. -/
def writeBlock (q : Req) (pg : Page) (off : Nat) (v : Word) (s : State) : State :=
  match pg with
  | .directory | .secDirectory | .hostLink => s
  | .mailbox =>
    if 0x100 ≤ off && off < 0x200 && off % 16 == 0 then writeMailCtl false ⟨(off - 0x100) / 16 % 16, by omega⟩ v s else s
  | .secMailbox =>
    if 0x100 ≤ off && off < 0x200 && off % 16 == 0 then writeMailCtl true ⟨16 + (off - 0x100) / 16 % 16, by omega⟩ v s else s
  | .interrupt => writeIrq off v s
  | .supervisor => writeSuper q off v s
  | .power => writePower off v s
  | .hub => writeSwitch 0 off v s
  | .switch c => writeSwitch (c.val + 1) off v s
  | .schedule => writeSched off v s
  | .runControl => writeRun off v s
  | .trio => writeTrio off v s
  | .safety => writeSafety off v s
  | .timebase => writeTb q.who off v s
  | .recorder => writeRec q.who off v s
  | .historian => writeHis off v s
  | .update => writeUpd off v s
  | .security => writeSec off v s
  | .port i => writePort i off v s
  | .can c => writeCan c off v s
  | .uart u => writeUart u off v s
  | .engine c => writeEngine c off v s
  | .loopArray c => writeLoop q c off v s
  | .field => writeField off v s
  | .panel => writePanel off v s

/-- A 32-bit write to a page that has let the access in. -/
def writePage (q : Req) (pg : Page) (off : Nat) (v : Word) (s : State) : State :=
  if off < 0x100 then writeHdr pg off v s
  else if rw64 pg off then holdLow q.who pg off v s
  else if rw64 pg (off - 4) then commitHigh q.who pg (off - 4) v s
  else writeBlock q pg off v s

end Sys2Proof.Machine
end

