-- ==== Sys2Proof/Machine/Registers.lean ====
section
/-! DEFINITION. Register accesses through the control space and the secure window (R417 to R426), the header's commands (R421 to R423), and
the host's requests (R344, R346). -/
namespace Sys2Proof.Machine

/-! ### One 32-bit access -/

/-- A page and offset a secure requester alone may write (R395, R410). -/
def secureOnly (pg : Page) (off : Nat) : Bool := (pg == .update || pg == .power) && off == 0x128

/-- The channel and message word a mailbox offset names, if any. -/
def messageAt (pg : Page) (off : Nat) : Option (Fin 32 × Fin 16) :=
  if (pg == .mailbox || pg == .secMailbox) && decide (0x400 ≤ off) && decide (off < 0x800) then
    some (⟨(if pg == .secMailbox then 16 else 0) + (off - 0x400) / 64 % 16, by split <;> omega⟩, ⟨off % 64 / 4, by omega⟩)
  else none

/-- The channel whose MB_DB a mailbox offset is, if any. -/
def doorbellAt (pg : Page) (off : Nat) : Option (Fin 32) :=
  if (pg == .mailbox || pg == .secMailbox) && decide (0x100 ≤ off) && decide (off < 0x200) && off % 16 == 4 then
    some ⟨(if pg == .secMailbox then 16 else 0) + (off - 0x100) / 16 % 16, by split <;> omega⟩
  else none

/-- A write of MB_DB: RING, then ACK. -/
def writeDoorbell (q : Req) (ch : Fin 32) (v : Word) (s : State) : State :=
  doIf (v.getLsbD 18) (mailAck (agentOf q) ch) (doIf (v.getLsbD 16) (mailRing (agentOf q) ch (bits v 0 16) (v.getLsbD 17)) s)

/-- A 32-bit write to an offset of a page. -/
def writeAt (q : Req) (pg : Page) (off : Nat) (v : Word) (s : State) : State :=
  match doorbellAt pg off, messageAt pg off with
  | some ch, _ => if v.getLsbD 16 || v.getLsbD 18 then writeDoorbell q ch v s else onPage q pg id s
  | none, some x => mailWrite (agentOf q) x.1 x.2 v s
  | none, none =>
    if secureOnly pg off then onSecure q pg (writePage q pg off v) s else onPage q pg (writePage q pg off v) s

/-- A 32-bit read of an offset of a page. A message whose receiver's domain is not ON answers with an error response (R338). -/
def readAt (q : Req) (pg : Page) (off : Nat) (s : State) : State :=
  match messageAt pg off with
  | some x =>
    if pdAt s (agentDom (Vec.at s.mail x.1).receiver) == .on then
      onPage q pg (fun s => answer (Vec.at (Vec.at s.mail x.1).msg x.2) s) s
    else refuse q.who (some pg) s
  | none => onPage q pg (readPage q.who pg off) s

/-- The supervisor SRAM of Table 13.1, which the cores alone reach: does an access of `n` bytes lie in it? -/
def inSram (q : Req) (addr n : Nat) : Bool := (coreOf q.who).isSome && addr % n == 0 && decide (addr + n ≤ sramSize)

/-- A 32-bit write to an address of a window: a page, the trace memory, which it leaves alone, or nothing. -/
def write32 (q : Req) (win : Window) (addr : Nat) (v : Word) (s : State) : State :=
  match pageAt win addr, traceAt win addr with
  | some pg, _ => if addr % 4 = 0 then writeAt q pg (addr % 4096) v s else refuse q.who (some pg) s
  | none, some (c, _) => if addr % 4 = 0 && !pgRefuses q (.loopArray c) s then { s with resp := .done } else refuse q.who none s
  | none, none => refuse q.who none s

/-- A 32-bit read of an address of a window; the trace memory reads as its records (R154). -/
def read32 (q : Req) (win : Window) (addr : Nat) (s : State) : State :=
  match pageAt win addr, traceAt win addr with
  | some pg, _ => if addr % 4 = 0 then readAt q pg (addr % 4096) s else refuse q.who (some pg) s
  | none, some (c, off) =>
    if addr % 4 = 0 && !pgRefuses q (.loopArray c) s then answer (memWord (Vec.at s.crests c).loop.traceMem off) s
    else refuse q.who none s
  | none, none => refuse q.who none s

/-- The bytes of a width. -/
def widthBytes : AccWidth → Nat
  | .w8 => 1
  | .w16 => 2
  | .w32 => 4
  | .w64 => 8

/-- Two accesses answered as one: an error response of the first stays. -/
def bothDone (first : Resp) (s : State) : State := if first == .error then { s with resp := .error } else s

/-- The answer of a 64-bit read: the upper word over the lower, unless one of them met an error response. -/
def joinReads (first : Resp) (s : State) : State :=
  match first, s.resp with
  | .value lo, .value hi => { s with resp := .value (join (lo32 hi) (lo32 lo)) }
  | _, _ => { s with resp := .error }

/-- A register write of any width (R424): a supervisor core's 64-bit write is its low word's and then its high word's. -/
def writeWide (q : Req) (win : Window) (width : AccWidth) (addr : Nat) (v : DWord) (s : State) : State :=
  if win == .sram then
    if inSram q addr (widthBytes width) then { s with sram := memWrite s.sram addr (bytesOf (widthBytes width) v.toNat), resp := .done }
    else refuse q.who none s
  else match width with
  | .w32 => write32 q win addr (lo32 v) s
  | .w64 =>
    if (coreOf q.who).isSome && addr % 8 = 0 then
      let s := write32 q win addr (lo32 v) s
      bothDone s.resp (write32 q win (addr + 4) (hi32 v) s)
    else refuse q.who (pageAt win addr) s
  | .w8 | .w16 => refuse q.who (pageAt win addr) s

/-- A register read of any width (R424): a supervisor core's 64-bit read is its low word's and then its high word's. -/
def readWide (q : Req) (win : Window) (width : AccWidth) (addr : Nat) (s : State) : State :=
  if win == .sram then
    if inSram q addr (widthBytes width) then { s with resp := .value (BitVec.ofNat 64 (ofBytes (memRead s.sram addr (widthBytes width)))) }
    else refuse q.who none s
  else match width with
  | .w32 => read32 q win addr s
  | .w64 =>
    if (coreOf q.who).isSome && addr % 8 = 0 then
      let s := read32 q win addr s
      joinReads s.resp (read32 q win (addr + 4) s)
    else refuse q.who (pageAt win addr) s
  | .w8 | .w16 => refuse q.who (pageAt win addr) s

/-! ### The host's requests -/

/-- The queue of a request's target. -/
def queueOf : HostTarget → Fin 9
  | .bar0 _ => 0
  | .window t _ => ⟨t.val + 1, by omega⟩

/-- Is the request non-posted? -/
def nonPosted : HostOp → Bool
  | .read _ _ => true
  | .write _ _ => false

/-- A request, which brings a link in L1 back to L0, reaches its queue, which holds 16 non-posted requests and 64 posted writes; a read that finds
no room completes with Completer Abort (R346). -/
def hostSubmit (target : HostTarget) (op : HostOp) (s : State) : State :=
  if s.host.link != .l0 && s.host.link != .l1 then s else
  let s := if s.host.link == .l1 then hostInL0 id s else s
  let s := bump .hostLink 0x10 1 s
  let n := queueOf target
  let same := ((Vec.at s.host.queues n).filter fun x => nonPosted x.2 == nonPosted op).length
  if nonPosted op && decide (16 ≤ same) then complete n .abort (updHost (fun h => { h with abort := satInc h.abort }) s)
  else if !nonPosted op && decide (64 ≤ same) then updHost (fun h => { h with dropped := satInc h.dropped }) s
  else updHost (fun h => { h with queues := Vec.upd h.queues n fun l => l ++ [(target, op)] }) s

/-- The host as a requester. -/
def hostReq : Req := ⟨.host, false⟩

/-- Does an address answer the host? In recovery the directory and the update page alone do (R385). -/
def hostMay (s : State) (addr : Nat) : Bool :=
  !s.upd.recovery || pageAt .control addr == some .directory || pageAt .control addr == some .update

/-- The 32-bit words of a host read from an address, in ascending order: the bytes, none once a word met an error response. -/
def hostReadWords : Nat → Nat → State → Option (List Byte) × State
  | 0, _, s => (some [], s)
  | k + 1, a, s =>
    let s := if hostMay s a then read32 hostReq .control a s else errorResponse none s
    let (rest, s') := hostReadWords k (a + 4) s
    match s.resp, rest with
    | .value v, some r => (some (bytesOf 4 (lo32 v).toNat ++ r), s')
    | _, _ => (none, s')

/-- The 32-bit words of a host write from an address, in ascending order. -/
def hostWriteWords : List Byte → Nat → Nat → State → State
  | _, _, 0, s => s
  | d, a, k + 1, s =>
    let s := if hostMay s a then write32 hostReq .control a (wordOf d) s else errorResponse none s
    hostWriteWords (d.drop 4) (a + 4) k s

/-- A BAR0 request is served as 32-bit accesses (R424). -/
def serveBar (addr : Nat) (op : HostOp) (s : State) : State :=
  match op with
  | .read n en =>
    if en && addr % 4 = 0 && n % 4 = 0 && decide (0 < n) && decide (n ≤ 512) then
      match hostReadWords (n / 4) addr s with
      | (some d, s) => complete 0 (.bytes d) { s with resp := .bytes d }
      | (none, s) => complete 0 .error { s with resp := .error }
    else complete 0 .error (errorResponse (pageAt .control addr) s)
  | .write d en =>
    if en && addr % 4 = 0 && d.length % 4 = 0 && decide (d.length ≤ 512) then hostWriteWords d addr (d.length / 4) s
    else errorResponse (pageAt .control addr) s

/-- The route of a host packet to a tile: the best-effort route of the image in force, and without one the tile's own spoke (R37; DESIGN
CHOICE, log entry 43). -/
def hostRoute (s : State) (t : Nat) : Word :=
  match s.sched.active with
  | some im => routeAt im t
  | none =>
    let q := ((List.range 8).find? fun q => (s.part.hop 0 q).any fun x => x.2.2 == t).getD 0
    num t 3 ||| num 2 6 ||| num q 12 ||| num 8 16

/-- The pieces of a request of `n` bytes from an address: offset and length, each within a packet (R351). -/
def piecesOf (n : Nat) : List (Nat × Nat) :=
  (List.range ((n + packetBytes - 1) / packetBytes)).map fun i => (packetBytes * i, min packetBytes (n - packetBytes * i))

/-- One piece of a window request is launched. -/
def launchPiece (t : Fin 8) (addr : Nat) (run : Nat) (op : HostOp) (s : State) (x : Nat × Nat) : State :=
  let a := BitVec.ofNat 32 (addr + x.1)
  let kind : BeKind := match op with
    | .read _ _ => .read x.2
    | .write d _ => .write ((d.drop x.1).take x.2)
  enterPacket (.hostWindow t) (hostRoute s ((tileOf s.part a).getD 0)) a kind (some run) s

/-- The bytes of a host operation. -/
def opLen : HostOp → Nat
  | .read n _ => n
  | .write d _ => d.length

/-- A tenant window's request is served as packets with its tenant's tag, which wait for open windows as all best-effort packets do; one
beyond the pool is an Unsupported Request (Table 13.6), and so is one longer than 512 bytes, one without all byte enables (R424) and any in
recovery (R385). -/
def serveWindow (t : Fin 8) (addr : Nat) (op : HostOp) (s : State) : State :=
  let q : Fin 9 := ⟨t.val + 1, by omega⟩
  let n := opLen op
  let fits := decide (0 < n) && decide (n ≤ 512) && decide (addr + n ≤ poolSize s.part) && !s.upd.recovery
  let ok := match op with
    | .read _ en => en && fits
    | .write _ en => en && fits
  if !ok then (if nonPosted op then complete q .error { s with resp := .error } else { s with resp := .error }) else
  let run := s.host.nextRun
  let first := s.nextPacket
  let ps := piecesOf n
  let s := ps.foldl (launchPiece t addr run op) s
  updHost (fun h => { h with
    nextRun := run + 1, runs := h.runs ++ [⟨run, q, nonPosted op, (List.range ps.length).map fun i => (first + i, none)⟩] }) s

/-! ### Weighted round robin (R346) -/

/-- The turns a queue has in a cycle: its share in sixty-fourths, BAR0 at least 4; without an image each queue has 4 (DESIGN CHOICE,
log entry 76). -/
def turnsOf (s : State) (n : Fin 9) : Nat :=
  match s.run.active with
  | some a => if n = 0 then max 4 (Vec.at a.hostShares 0).toNat else (Vec.at a.hostShares n).toNat
  | none => 4

/-- May a queue be served: it holds a request, and its packets in flight leave room for one more request (R351)? -/
def servable (s : State) (n : Fin 9) : Bool :=
  !(Vec.at s.host.queues n).isEmpty && (n = 0 || decide (inFlight (.hostWindow ⟨(n.val + 7) % 8, Nat.mod_lt _ (by omega)⟩) s + 2 ≤ 16)) &&
  decide (0 < turnsOf s n)

/-- The queues in the order of the round robin from the one served last. -/
def queueOrder (s : State) : List (Fin 9) := (List.range 9).map fun k => ⟨(s.host.turn.val + k) % 9, Nat.mod_lt _ (by omega)⟩

/-- The queue whose turn it is, and whether a new cycle begins with it: the first that may be served and has turns left in the cycle;
when none has, the first that may be served, in a new cycle. -/
def dueQueue (s : State) : Option (Fin 9 × Bool) :=
  match (queueOrder s).find? fun n => servable s n && decide (Vec.at s.host.turns n < turnsOf s n) with
  | some n => some (n, false)
  | none => ((List.finRange 9).find? (servable s)).map fun n => (n, true)

/-- A turn: the oldest request of the queue that is due is served. -/
def hostServe (s : State) : State :=
  match dueQueue s with
  | none => s
  | some (n, fresh) =>
    match Vec.at s.host.queues n with
    | [] => s
    | (target, op) :: r =>
      let s := updHost (fun h => { h with
        queues := Vec.put h.queues n r, turn := n
        turns := Vec.upd (if fresh then Vector.replicate 9 0 else h.turns) n fun k => k + 1 }) s
      match target with
      | .bar0 a => serveBar a.toNat op s
      | .window t a => serveWindow t a.toNat op s

/-- A request of the host. -/
def hostDoes (r : HostReq) (s : State) : State :=
  match r with
  | .submit target op => hostSubmit target op s
  | .serve => hostServe s

/-! ### The commands -/

/-- REGISTER_WRITE. -/
def execRegisterWrite (q : Req) (win : Window) (width : AccWidth) (addr : BitVec 28) (val : DWord) (s : State) : Out :=
  .next (writeWide q win width addr.toNat val s)
/-- REG64_LOW_READ: a read of any width; of the low word of a 64-bit register it latches the high word (R425). -/
def execReg64LowRead (q : Req) (win : Window) (width : AccWidth) (addr : BitVec 28) (s : State) : Out :=
  .next (readWide q win width addr.toNat s)
/-- REG64_LOW_WRITE: a 32-bit write, held for a 64-bit register's low word (R425). -/
def execReg64LowWrite (q : Req) (win : Window) (addr : BitVec 28) (val : Word) (s : State) : Out :=
  .next (writeWide q win .w32 addr.toNat (val.setWidth 64) s)
/-- REG64_HIGH_WRITE: a 32-bit write, which commits a 64-bit register's two words (R425). -/
def execReg64HighWrite (q : Req) (win : Window) (addr : BitVec 28) (val : Word) (s : State) : Out :=
  .next (writeWide q win .w32 addr.toNat (val.setWidth 64) s)
/-- BLK_LOCK. -/
def execBlkLock (q : Req) (pg : Page) (s : State) : Out := .next (onPage q pg (lockPage pg) s)
/-- BLK_CNT_CLEAR. -/
def execBlkCntClear (q : Req) (pg : Page) (s : State) : Out := .next (onPage q pg (clearCounts pg) s)
/-- BLK_IRQ_STAT_CLEAR. -/
def execBlkIrqStatClear (q : Req) (pg : Page) (bits : Word) (s : State) : Out := .next (onPage q pg (irqClear pg bits) s)
/-- BLK_IRQ_SET. -/
def execBlkIrqSet (q : Req) (pg : Page) (bits : Word) (s : State) : Out := .next (onPage q pg (irqSet pg bits) s)
/-- HOST_REQUEST. -/
def execHostRequest (r : HostReq) (s : State) : Out := .next (hostDoes r s)

end Sys2Proof.Machine
end

