-- ==== Sys2Proof/Machine/Dispatch.lean ====
section
/-! DEFINITION. The meaning of each command: one arm per constructor of Instr. -/
namespace Sys2Proof.Machine

/-- The effect of command `i` on the device. -/
def exec (i : Instr) (s : State) : Host.Outcome State Fault Refusal :=
  match i with
  | .registerWrite q win width addr val => Sys2Proof.Machine.execRegisterWrite q win width addr val s
  | .reg64LowRead q win width addr => Sys2Proof.Machine.execReg64LowRead q win width addr s
  | .reg64LowWrite q win addr val => Sys2Proof.Machine.execReg64LowWrite q win addr val s
  | .reg64HighWrite q win addr val => Sys2Proof.Machine.execReg64HighWrite q win addr val s
  | .blkLock q pg => Sys2Proof.Machine.execBlkLock q pg s
  | .blkCntClear q pg => Sys2Proof.Machine.execBlkCntClear q pg s
  | .blkIrqStatClear q pg bits => Sys2Proof.Machine.execBlkIrqStatClear q pg bits s
  | .blkIrqSet q pg bits => Sys2Proof.Machine.execBlkIrqSet q pg bits s
  | .bePacketLaunch src route addr kind => Sys2Proof.Machine.execBePacketLaunch src route addr kind s
  | .bePacketArrive id upsets => Sys2Proof.Machine.execBePacketArrive id upsets s
  | .flitCheckFail ld again => Sys2Proof.Machine.execFlitCheckFail ld again s
  | .slotStart upsets => Sys2Proof.Machine.execSlotStart upsets s
  | .stepStart upsets ended => Sys2Proof.Machine.execStepStart upsets ended s
  | .openWindowStart ld => Sys2Proof.Machine.execOpenWindowStart ld s
  | .slotDeadline lateTransfers => Sys2Proof.Machine.execSlotDeadline lateTransfers s
  | .roundStart => Sys2Proof.Machine.execRoundStart s
  | .inputVote => Sys2Proof.Machine.execInputVote s
  | .roundClose => Sys2Proof.Machine.execRoundClose s
  | .comparisonInstant => Sys2Proof.Machine.execComparisonInstant s
  | .decisionInstant => Sys2Proof.Machine.execDecisionInstant s
  | .fenceTestPulseEnd => Sys2Proof.Machine.execFenceTestPulseEnd s
  | .diagnosis enginesPass loopReadsPass => Sys2Proof.Machine.execDiagnosis enginesPass loopReadsPass s
  | .exchangeMissing p kind => Sys2Proof.Machine.execExchangeMissing p kind s
  | .trioFrameReceive p f => Sys2Proof.Machine.execTrioFrameReceive p f s
  | .fenceFrameReceive p f => Sys2Proof.Machine.execFenceFrameReceive p f s
  | .fenceIn => Sys2Proof.Machine.execFenceIn s
  | .trioPortDown p => Sys2Proof.Machine.execTrioPortDown p s
  | .trioPortUp p => Sys2Proof.Machine.execTrioPortUp p s
  | .trioRejoin q => Sys2Proof.Machine.execTrioRejoin q s
  | .trioGiveUp q => Sys2Proof.Machine.execTrioGiveUp q s
  | .trioAbortRejoin q => Sys2Proof.Machine.execTrioAbortRejoin q s
  | .rejoinSelftestEnd pass => Sys2Proof.Machine.execRejoinSelftestEnd pass s
  | .bulkCopyEnd => Sys2Proof.Machine.execBulkCopyEnd s
  | .soloWarn => Sys2Proof.Machine.execSoloWarn s
  | .soloExpired => Sys2Proof.Machine.execSoloExpired s
  | .formationWaitEnd => Sys2Proof.Machine.execFormationWaitEnd s
  | .add e rd ra rb => Sys2Proof.Machine.execAdd e rd ra rb s
  | .sub e rd ra rb => Sys2Proof.Machine.execSub e rd ra rb s
  | .and e rd ra rb => Sys2Proof.Machine.execAnd e rd ra rb s
  | .or e rd ra rb => Sys2Proof.Machine.execOr e rd ra rb s
  | .xor e rd ra rb => Sys2Proof.Machine.execXor e rd ra rb s
  | .shl e rd ra rb => Sys2Proof.Machine.execShl e rd ra rb s
  | .shr e rd ra rb => Sys2Proof.Machine.execShr e rd ra rb s
  | .sar e rd ra rb => Sys2Proof.Machine.execSar e rd ra rb s
  | .slt e rd ra rb => Sys2Proof.Machine.execSlt e rd ra rb s
  | .sltu e rd ra rb => Sys2Proof.Machine.execSltu e rd ra rb s
  | .min e rd ra rb => Sys2Proof.Machine.execMin e rd ra rb s
  | .max e rd ra rb => Sys2Proof.Machine.execMax e rd ra rb s
  | .abs e rd ra => Sys2Proof.Machine.execAbs e rd ra s
  | .mul e rd ra rb => Sys2Proof.Machine.execMul e rd ra rb s
  | .mulh e rd ra rb => Sys2Proof.Machine.execMulh e rd ra rb s
  | .div e rd ra rb => Sys2Proof.Machine.execDiv e rd ra rb s
  | .divu e rd ra rb => Sys2Proof.Machine.execDivu e rd ra rb s
  | .rem e rd ra rb => Sys2Proof.Machine.execRem e rd ra rb s
  | .mac e ra rb => Sys2Proof.Machine.execMac e ra rb s
  | .msu e ra rb => Sys2Proof.Machine.execMsu e ra rb s
  | .accset e ra rb => Sys2Proof.Machine.execAccset e ra rb s
  | .acclo e rd => Sys2Proof.Machine.execAcclo e rd s
  | .acchi e rd => Sys2Proof.Machine.execAcchi e rd s
  | .accsh e rd rb => Sys2Proof.Machine.execAccsh e rd rb s
  | .fadd e rd ra rb => Sys2Proof.Machine.execFadd e rd ra rb s
  | .fsub e rd ra rb => Sys2Proof.Machine.execFsub e rd ra rb s
  | .fmul e rd ra rb => Sys2Proof.Machine.execFmul e rd ra rb s
  | .fdiv e rd ra rb => Sys2Proof.Machine.execFdiv e rd ra rb s
  | .fsqrt e rd ra => Sys2Proof.Machine.execFsqrt e rd ra s
  | .fma e rd ra rb => Sys2Proof.Machine.execFma e rd ra rb s
  | .fmin e rd ra rb => Sys2Proof.Machine.execFmin e rd ra rb s
  | .fmax e rd ra rb => Sys2Proof.Machine.execFmax e rd ra rb s
  | .fabs e rd ra => Sys2Proof.Machine.execFabs e rd ra s
  | .fneg e rd ra => Sys2Proof.Machine.execFneg e rd ra s
  | .feq e rd ra rb => Sys2Proof.Machine.execFeq e rd ra rb s
  | .flt e rd ra rb => Sys2Proof.Machine.execFlt e rd ra rb s
  | .fle e rd ra rb => Sys2Proof.Machine.execFle e rd ra rb s
  | .ftoi e rd ra => Sys2Proof.Machine.execFtoi e rd ra s
  | .itof e rd ra => Sys2Proof.Machine.execItof e rd ra s
  | .nop e => Sys2Proof.Machine.execNop e s
  | .halt e => Sys2Proof.Machine.execHalt e s
  | .modew e ra => Sys2Proof.Machine.execModew e ra s
  | .moder e rd => Sys2Proof.Machine.execModer e rd s
  | .flagr e rd => Sys2Proof.Machine.execFlagr e rd s
  | .flagc e ra => Sys2Proof.Machine.execFlagc e ra s
  | .sysr e rd num => Sys2Proof.Machine.execSysr e rd num s
  | .jr e ra => Sys2Proof.Machine.execJr e ra s
  | .trap e code => Sys2Proof.Machine.execTrap e code s
  | .addi e rd ra imm => Sys2Proof.Machine.execAddi e rd ra imm s
  | .andi e rd ra imm => Sys2Proof.Machine.execAndi e rd ra imm s
  | .ori e rd ra imm => Sys2Proof.Machine.execOri e rd ra imm s
  | .xori e rd ra imm => Sys2Proof.Machine.execXori e rd ra imm s
  | .slti e rd ra imm => Sys2Proof.Machine.execSlti e rd ra imm s
  | .lui e rd imm => Sys2Proof.Machine.execLui e rd imm s
  | .shli e rd ra sh => Sys2Proof.Machine.execShli e rd ra sh s
  | .shri e rd ra sh => Sys2Proof.Machine.execShri e rd ra sh s
  | .sari e rd ra sh => Sys2Proof.Machine.execSari e rd ra sh s
  | .ld e rt base size post off => Sys2Proof.Machine.execLd e rt base size post off s
  | .ldu e rt base size post off => Sys2Proof.Machine.execLdu e rt base size post off s
  | .st e rt base size post off => Sys2Proof.Machine.execSt e rt base size post off s
  | .beq e ra rb disp => Sys2Proof.Machine.execBeq e ra rb disp s
  | .bne e ra rb disp => Sys2Proof.Machine.execBne e ra rb disp s
  | .blt e ra rb disp => Sys2Proof.Machine.execBlt e ra rb disp s
  | .bge e ra rb disp => Sys2Proof.Machine.execBge e ra rb disp s
  | .bltu e ra rb disp => Sys2Proof.Machine.execBltu e ra rb disp s
  | .bgeu e ra rb disp => Sys2Proof.Machine.execBgeu e ra rb disp s
  | .jmp e disp => Sys2Proof.Machine.execJmp e disp s
  | .call e disp => Sys2Proof.Machine.execCall e disp s
  | .loop e rs endOff cnt => Sys2Proof.Machine.execLoop e rs endOff cnt s
  | .loopi e endOff cnt => Sys2Proof.Machine.execLoopi e endOff cnt s
  | .illegalEncoding e => Sys2Proof.Machine.execIllegalEncoding e s
  | .engineStall e => Sys2Proof.Machine.execEngineStall e s
  | .engRetire q c eng => Sys2Proof.Machine.execEngRetire q c eng s
  | .engEccClrCorr q c => Sys2Proof.Machine.execEngEccClrCorr q c s
  | .engEccClrUnc q c => Sys2Proof.Machine.execEngEccClrUnc q c s
  | .stewardQuietTest c pass => Sys2Proof.Machine.execStewardQuietTest c pass s
  | .spareTest c eng pass => Sys2Proof.Machine.execSpareTest c eng pass s
  | .speedMeasureEnd c readings ack => Sys2Proof.Machine.execSpeedMeasureEnd c readings ack s
  | .scrubWord addr found => Sys2Proof.Machine.execScrubWord addr found s
  | .schLoad q => Sys2Proof.Machine.execSchLoad q s
  | .schValidationEnd => Sys2Proof.Machine.execSchValidationEnd s
  | .schActivate q withApp trio => Sys2Proof.Machine.execSchActivate q withApp trio s
  | .schCancel q => Sys2Proof.Machine.execSchCancel q s
  | .schDiscard q => Sys2Proof.Machine.execSchDiscard q s
  | .commitPoint => Sys2Proof.Machine.execCommitPoint s
  | .scheduleSwap => Sys2Proof.Machine.execScheduleSwap s
  | .frcSet q => Sys2Proof.Machine.execFrcSet q s
  | .frcClear q => Sys2Proof.Machine.execFrcClear q s
  | .frcClearAll q => Sys2Proof.Machine.execFrcClearAll q s
  | .forceTakeEffect => Sys2Proof.Machine.execForceTakeEffect s
  | .runRestart q => Sys2Proof.Machine.execRunRestart q s
  | .restartFrame => Sys2Proof.Machine.execRestartFrame s
  | .keacoFrameReceive port f => Sys2Proof.Machine.execKeacoFrameReceive port f s
  | .appLoad q => Sys2Proof.Machine.execAppLoad q s
  | .appValidationEnd => Sys2Proof.Machine.execAppValidationEnd s
  | .appActivate q trio => Sys2Proof.Machine.execAppActivate q trio s
  | .appArm q => Sys2Proof.Machine.execAppArm q s
  | .appCancel q => Sys2Proof.Machine.execAppCancel q s
  | .appDiscard q => Sys2Proof.Machine.execAppDiscard q s
  | .appExchange => Sys2Proof.Machine.execAppExchange s
  | .lpaWrite q c => Sys2Proof.Machine.execLpaWrite q c s
  | .lpaWriteDecide c => Sys2Proof.Machine.execLpaWriteDecide c s
  | .lpaRead q c => Sys2Proof.Machine.execLpaRead q c s
  | .trcArm q c => Sys2Proof.Machine.execTrcArm q c s
  | .trcFire q c => Sys2Proof.Machine.execTrcFire q c s
  | .trcDisable q c => Sys2Proof.Machine.execTrcDisable q c s
  | .sealReadMs => Sys2Proof.Machine.execSealReadMs s
  | .safeHoldLeave => Sys2Proof.Machine.execSafeHoldLeave s
  | .safetyFrameReceive port f => Sys2Proof.Machine.execSafetyFrameReceive port f s
  | .pairWindowEnd conn => Sys2Proof.Machine.execPairWindowEnd conn s
  | .safetyFrameQueue conn => Sys2Proof.Machine.execSafetyFrameQueue conn s
  | .fieldLinkFrame pins => Sys2Proof.Machine.execFieldLinkFrame pins s
  | .fieldLinkTimeout => Sys2Proof.Machine.execFieldLinkTimeout s
  | .fieldWarnSet mv => Sys2Proof.Machine.execFieldWarnSet mv s
  | .fieldWarnClear mv => Sys2Proof.Machine.execFieldWarnClear mv s
  | .uvloEnter mv => Sys2Proof.Machine.execUvloEnter mv s
  | .uvloExit mv => Sys2Proof.Machine.execUvloExit mv s
  | .foothillHot temp => Sys2Proof.Machine.execFoothillHot temp s
  | .foothillShutdown temp => Sys2Proof.Machine.execFoothillShutdown temp s
  | .foothillPowerOn => Sys2Proof.Machine.execFoothillPowerOn s
  | .debouncePass ch level => Sys2Proof.Machine.execDebouncePass ch level s
  | .wireBreakSet n => Sys2Proof.Machine.execWireBreakSet n s
  | .wireBreakClear n => Sys2Proof.Machine.execWireBreakClear n s
  | .testPulseStart n => Sys2Proof.Machine.execTestPulseStart n s
  | .blankingWindowEnd n passed raw => Sys2Proof.Machine.execBlankingWindowEnd n passed raw s
  | .tpsOverload n => Sys2Proof.Machine.execTpsOverload n s
  | .tpsRestart n => Sys2Proof.Machine.execTpsRestart n s
  | .inrushBlankingEnd o overHi overLo => Sys2Proof.Machine.execInrushBlankingEnd o overHi overLo s
  | .outputTrip o overHi overLo => Sys2Proof.Machine.execOutputTrip o overHi overLo s
  | .thermalShutdown o => Sys2Proof.Machine.execThermalShutdown o s
  | .tloOffCheck n hi lo => Sys2Proof.Machine.execTloOffCheck n hi lo s
  | .readbackMismatch o => Sys2Proof.Machine.execReadbackMismatch o s
  | .tloUnlock q => Sys2Proof.Machine.execTloUnlock q s
  | .fieldFence => Sys2Proof.Machine.execFieldFence s
  | .fenceSeen => Sys2Proof.Machine.execFenceSeen s
  | .aiSupplyOverload n => Sys2Proof.Machine.execAiSupplyOverload n s
  | .aiSupplyRestart n => Sys2Proof.Machine.execAiSupplyRestart n s
  | .aoStatusDecide n measuredNa saturated held => Sys2Proof.Machine.execAoStatusDecide n measuredNa saturated held s
  | .trimDrive4 q => Sys2Proof.Machine.execTrimDrive4 q s
  | .trimDrive20 q => Sys2Proof.Machine.execTrimDrive20 q s
  | .trimApply q => Sys2Proof.Machine.execTrimApply q s
  | .trimExit q => Sys2Proof.Machine.execTrimExit q s
  | .panelWriteStart => Sys2Proof.Machine.execPanelWriteStart s
  | .panelWritePhase => Sys2Proof.Machine.execPanelWritePhase s
  | .panelWriteEnd => Sys2Proof.Machine.execPanelWriteEnd s
  | .panelWriteAbandon mv => Sys2Proof.Machine.execPanelWriteAbandon mv s
  | .vpnlLevelChange mv => Sys2Proof.Machine.execVpnlLevelChange mv s
  | .ntcMeasure temp => Sys2Proof.Machine.execNtcMeasure temp s
  | .crackMeasure ohms => Sys2Proof.Machine.execCrackMeasure ohms s
  | .pnlCntWrite q val => Sys2Proof.Machine.execPnlCntWrite q val s
  | .tbIncrLoWrite q val => Sys2Proof.Machine.execTbIncrLoWrite q val s
  | .tbIncrHiWrite q val => Sys2Proof.Machine.execTbIncrHiWrite q val s
  | .tbNowRead q => Sys2Proof.Machine.execTbNowRead q s
  | .tbOffsetHiWrite q val => Sys2Proof.Machine.execTbOffsetHiWrite q val s
  | .tbStep q => Sys2Proof.Machine.execTbStep q s
  | .tbStepApply => Sys2Proof.Machine.execTbStepApply s
  | .gulnyLoad q => Sys2Proof.Machine.execGulnyLoad q s
  | .oneshot q out => Sys2Proof.Machine.execOneshot q out s
  | .oneshotFire => Sys2Proof.Machine.execOneshotFire s
  | .tbGcntRead q => Sys2Proof.Machine.execTbGcntRead q s
  | .ppsInCapture n falling short => Sys2Proof.Machine.execPpsInCapture n falling short s
  | .ppsOutEdge n => Sys2Proof.Machine.execPpsOutEdge n s
  | .ppsOutPulseEnd n => Sys2Proof.Machine.execPpsOutPulseEnd n s
  | .ethFrameReceive port f => Sys2Proof.Machine.execEthFrameReceive port f s
  | .ethFrameTransmitStart port => Sys2Proof.Machine.execEthFrameTransmitStart port s
  | .gateWindowOpen port entry => Sys2Proof.Machine.execGateWindowOpen port entry s
  | .gateWindowClose port => Sys2Proof.Machine.execGateWindowClose port s
  | .ethTxqTailWrite q port val => Sys2Proof.Machine.execEthTxqTailWrite q port val s
  | .ethRxqTailWrite q port val => Sys2Proof.Machine.execEthRxqTailWrite q port val s
  | .ethLinkChange port up => Sys2Proof.Machine.execEthLinkChange port up s
  | .trpRotate q p => Sys2Proof.Machine.execTrpRotate q p s
  | .keyRotateEffect p => Sys2Proof.Machine.execKeyRotateEffect p s
  | .keyOverlapEnd p => Sys2Proof.Machine.execKeyOverlapEnd p s
  | .canFrameReceive c f sofAgo => Sys2Proof.Machine.execCanFrameReceive c f sofAgo s
  | .canFrameEnd c how sofAgo => Sys2Proof.Machine.execCanFrameEnd c how sofAgo s
  | .canError c tec rec => Sys2Proof.Machine.execCanError c tec rec s
  | .busoffRecoveryEnd c => Sys2Proof.Machine.execBusoffRecoveryEnd c s
  | .canStart q c => Sys2Proof.Machine.execCanStart q c s
  | .canListen q c => Sys2Proof.Machine.execCanListen q c s
  | .canDetect q c => Sys2Proof.Machine.execCanDetect q c s
  | .canStop q c => Sys2Proof.Machine.execCanStop q c s
  | .detectCandidateTimeout c => Sys2Proof.Machine.execDetectCandidateTimeout c s
  | .detectTimeout c => Sys2Proof.Machine.execDetectTimeout c s
  | .canTxReq q c buf => Sys2Proof.Machine.execCanTxReq q c buf s
  | .canTxCancel q c buf => Sys2Proof.Machine.execCanTxCancel q c buf s
  | .canMbSelWrite q c buf lock => Sys2Proof.Machine.execCanMbSelWrite q c buf lock s
  | .canMbWrite q c word val => Sys2Proof.Machine.execCanMbWrite q c word val s
  | .canSlotRequest c buf => Sys2Proof.Machine.execCanSlotRequest c buf s
  | .uartByteReceive u byte err startAgo => Sys2Proof.Machine.execUartByteReceive u byte err startAgo s
  | .uartDataWrite q u byte => Sys2Proof.Machine.execUartDataWrite q u byte s
  | .uartDataRead q u => Sys2Proof.Machine.execUartDataRead q u s
  | .uartMarkRead q u => Sys2Proof.Machine.execUartMarkRead q u s
  | .wdogRestart q key => Sys2Proof.Machine.execWdogRestart q key s
  | .wdogExpire core => Sys2Proof.Machine.execWdogExpire core s
  | .partitionWindowBoundary core => Sys2Proof.Machine.execPartitionWindowBoundary core s
  | .mbRing a ch code wake => Sys2Proof.Machine.execMbRing a ch code wake s
  | .mbAck a ch => Sys2Proof.Machine.execMbAck a ch s
  | .mbMsgWrite a ch word val => Sys2Proof.Machine.execMbMsgWrite a ch word val s
  | .doorbellDeliver ch => Sys2Proof.Machine.execDoorbellDeliver ch s
  | .pdUp q d => Sys2Proof.Machine.execPdUp q d s
  | .pdDown q d => Sys2Proof.Machine.execPdDown q d s
  | .pdStartEnd d pass failed => Sys2Proof.Machine.execPdStartEnd d pass failed s
  | .pdStopEnd d => Sys2Proof.Machine.execPdStopEnd d s
  | .hostRequest r => Sys2Proof.Machine.execHostRequest r s
  | .hostPerst asserted => Sys2Proof.Machine.execHostPerst asserted s
  | .hostTrainingSet => Sys2Proof.Machine.execHostTrainingSet s
  | .hostLinkL0 busMaster masked width rate power => Sys2Proof.Machine.execHostLinkL0 busMaster masked width rate power s
  | .hostLinkL2 => Sys2Proof.Machine.execHostLinkL2 s
  | .pmeTurnOff => Sys2Proof.Machine.execPmeTurnOff s
  | .pmuFreeze q on => Sys2Proof.Machine.execPmuFreeze q on s
  | .pmuClear q => Sys2Proof.Machine.execPmuClear q s
  | .eventRecord ev => Sys2Proof.Machine.execEventRecord ev s
  | .recordStore => Sys2Proof.Machine.execRecordStore s
  | .seriesTimeout region => Sys2Proof.Machine.execSeriesTimeout region s
  | .recRefill q val => Sys2Proof.Machine.execRecRefill q val s
  | .recRefillEnd => Sys2Proof.Machine.execRecRefillEnd s
  | .recWinRead q entry => Sys2Proof.Machine.execRecWinRead q entry s
  | .recFwWrite q => Sys2Proof.Machine.execRecFwWrite q s
  | .recClrDrops q => Sys2Proof.Machine.execRecClrDrops q s
  | .recClrLost q => Sys2Proof.Machine.execRecClrLost q s
  | .spillBlock region => Sys2Proof.Machine.execSpillBlock region s
  | .chunkWriteDone drive => Sys2Proof.Machine.execChunkWriteDone drive s
  | .historianIndexReadEnd found => Sys2Proof.Machine.execHistorianIndexReadEnd found s
  | .retentionSweep => Sys2Proof.Machine.execRetentionSweep s
  | .smartRead drive log => Sys2Proof.Machine.execSmartRead drive log s
  | .driveTimeout drive => Sys2Proof.Machine.execDriveTimeout drive s
  | .hisQueryGo q => Sys2Proof.Machine.execHisQueryGo q s
  | .queryEnd => Sys2Proof.Machine.execQueryEnd s
  | .porAssert => Sys2Proof.Machine.execPorAssert s
  | .resetRelease straps voutMode => Sys2Proof.Machine.execResetRelease straps voutMode s
  | .bootComplete => Sys2Proof.Machine.execBootComplete s
  | .startupSelftestEnd failed memFail linkFails ack => Sys2Proof.Machine.execStartupSelftestEnd failed memFail linkFails ack s
  | .speedCharStep readings ack => Sys2Proof.Machine.execSpeedCharStep readings ack s
  | .startupImageEnd => Sys2Proof.Machine.execStartupImageEnd s
  | .startupContextEnd => Sys2Proof.Machine.execStartupContextEnd s
  | .railDip rail => Sys2Proof.Machine.execRailDip rail s
  | .railFault rail => Sys2Proof.Machine.execRailFault rail s
  | .internalReset rail => Sys2Proof.Machine.execInternalReset rail s
  | .pmbusRead mv da => Sys2Proof.Machine.execPmbusRead mv da s
  | .pmbusFail => Sys2Proof.Machine.execPmbusFail s
  | .pmbusRetry ok => Sys2Proof.Machine.execPmbusRetry ok s
  | .tempRead tile temps held => Sys2Proof.Machine.execTempRead tile temps held s
  | .pwrReset q key => Sys2Proof.Machine.execPwrReset q key s
  | .tapReset => Sys2Proof.Machine.execTapReset s
  | .pmbAlert => Sys2Proof.Machine.execPmbAlert s
  | .batteryCondition on => Sys2Proof.Machine.execBatteryCondition on s
  | .ticketLcAdvance q flashOk => Sys2Proof.Machine.execTicketLcAdvance q flashOk s
  | .ticketLock q => Sys2Proof.Machine.execTicketLock q s
  | .ticketUnlock q => Sys2Proof.Machine.execTicketUnlock q s
  | .ticketCak q => Sys2Proof.Machine.execTicketCak q s
  | .ticketPermit q => Sys2Proof.Machine.execTicketPermit q s
  | .ticketRevoke q => Sys2Proof.Machine.execTicketRevoke q s
  | .permitExpire => Sys2Proof.Machine.execPermitExpire s
  | .updLoad q slot => Sys2Proof.Machine.execUpdLoad q slot s
  | .updLoadEnd flashOk => Sys2Proof.Machine.execUpdLoadEnd flashOk s
  | .updActivate q => Sys2Proof.Machine.execUpdActivate q s
  | .updCancel q => Sys2Proof.Machine.execUpdCancel q s
  | .updErase q => Sys2Proof.Machine.execUpdErase q s
  | .updStore q shadow => Sys2Proof.Machine.execUpdStore q shadow s
  | .updStoreEnd ok => Sys2Proof.Machine.execUpdStoreEnd ok s
  | .updateCommitPoint => Sys2Proof.Machine.execUpdateCommitPoint s
  | .updateRestart => Sys2Proof.Machine.execUpdateRestart s
  | .updateReset => Sys2Proof.Machine.execUpdateReset s
  | .updConfirm q token => Sys2Proof.Machine.execUpdConfirm q token s
  | .confirmWindowExpire => Sys2Proof.Machine.execConfirmWindowExpire s
  | .ctxEcc e => Sys2Proof.Machine.execCtxEcc e s
  | .ethFrameSent port => Sys2Proof.Machine.execEthFrameSent port s
  | .uartByteSent u => Sys2Proof.Machine.execUartByteSent u s
  | .fenceInNLow => Sys2Proof.Machine.execFenceInNLow s
  | .foothillPowerLoss => Sys2Proof.Machine.execFoothillPowerLoss s
  | .diReadBrokenEnd n => Sys2Proof.Machine.execDiReadBrokenEnd n s

end Sys2Proof.Machine
end

