-- ==== Sys2Proof/Safety.lean ====
section
/-! DEFINITION. What counts as a safe run: no step of it ends in a fault or a refusal, and every memory keeps its canonical
form. Also the components of the device, in which the statements say what a command leaves unchanged. -/
namespace Sys2Proof

/-- The memories of a tile: both halves of its engines, its loop records and its trace memory. -/
def Machine.Crest.memoriesOk (x : Machine.Crest) : Prop :=
  (∀ e, Machine.memWf (Vec.at x.engines e).half0.mem = true ∧ Machine.memWf (Vec.at x.engines e).half1.mem = true) ∧
  Machine.memWf x.loop.mem = true ∧ Machine.memWf x.loop.traceMem = true

/-- The input and output areas of a Keaco station. -/
def Machine.StationRt.memoriesOk (x : Machine.StationRt) : Prop := Machine.memWf x.input = true ∧ Machine.memWf x.output = true

/-- The receive and repair areas of the trio unit. -/
def Machine.Trio.memoriesOk (t : Machine.Trio) : Prop :=
  Machine.memWf t.rxA = true ∧ Machine.memWf t.rxB = true ∧ Machine.memWf t.repA = true ∧ Machine.memWf t.repB = true

/-- The buffers, the receive latch and the transmit area of a CAN controller. -/
def Machine.Can.memoriesOk (x : Machine.Can) : Prop :=
  Machine.memWf x.bufs = true ∧ Machine.memWf x.latch = true ∧ Machine.memWf x.txData = true

/-- Every memory of the device is in canonical form (log entry 4): the pool and supervisor SRAM, the tiles' engine halves, loop records and
trace memories, the stations' areas, the trio unit's areas, Foothill's input flits, and the buffers and latches of CAN and UARTs. -/
structure Machine.State.memoriesOk (s : Machine.State) : Prop where
  pool : Machine.memWf s.pool = true
  sram : Machine.memWf s.sram = true
  crests : ∀ c, (Vec.at s.crests c).memoriesOk
  stations : ∀ n, (Vec.at s.run.stations n).memoriesOk
  trio : s.trio.memoriesOk
  flits : Machine.memWf s.field.flits = true
  cans : ∀ c, (Vec.at s.cans c).memoriesOk
  uarts : ∀ u, Machine.memWf (Vec.at s.uarts u).latch = true

/-- `k` steps from `s` end in a state: none of them stops. -/
def runsSafely : Nat → Machine.State → Prop
  | 0, _ => True
  | k + 1, s => ∃ t, Machine.step s = .next t ∧ runsSafely k t

/-- The components of the device: the fields of State. -/
inductive Machine.Component
  | part | hdrs | latches | heldLow | tb | crests | hub | flitFails | packets | nextPacket | opened | pool | sram | staged
  | sched | run | trio | safety | field | panel | ports | cans | uarts | super | mail | host | recorder | historian
  | otp | store | flash | sec | upd | pwr | forceInd | tapReset | resp | out | free | pending
  deriving DecidableEq, Repr

/-- Two states hold the same in a component. -/
def Machine.sameAt (c : Machine.Component) (s t : Machine.State) : Prop :=
  match c with
  | .part => t.part = s.part
  | .hdrs => t.hdrs = s.hdrs
  | .latches => t.latches = s.latches
  | .heldLow => t.heldLow = s.heldLow
  | .tb => t.tb = s.tb
  | .crests => t.crests = s.crests
  | .hub => t.hub = s.hub
  | .flitFails => t.flitFails = s.flitFails
  | .packets => t.packets = s.packets
  | .nextPacket => t.nextPacket = s.nextPacket
  | .opened => t.opened = s.opened
  | .pool => t.pool = s.pool
  | .sram => t.sram = s.sram
  | .staged => t.staged = s.staged
  | .sched => t.sched = s.sched
  | .run => t.run = s.run
  | .trio => t.trio = s.trio
  | .safety => t.safety = s.safety
  | .field => t.field = s.field
  | .panel => t.panel = s.panel
  | .ports => t.ports = s.ports
  | .cans => t.cans = s.cans
  | .uarts => t.uarts = s.uarts
  | .super => t.super = s.super
  | .mail => t.mail = s.mail
  | .host => t.host = s.host
  | .recorder => t.recorder = s.recorder
  | .historian => t.historian = s.historian
  | .otp => t.otp = s.otp
  | .store => t.store = s.store
  | .flash => t.flash = s.flash
  | .sec => t.sec = s.sec
  | .upd => t.upd = s.upd
  | .pwr => t.pwr = s.pwr
  | .forceInd => t.forceInd = s.forceInd
  | .tapReset => t.tapReset = s.tapReset
  | .resp => t.resp = s.resp
  | .out => t.out = s.out
  | .free => t.free = s.free
  | .pending => t.pending = s.pending

end Sys2Proof
end

