-- ==== Sys2Proof/Certificates/Slice0/Obligations.lean ====
section
/-! DEFINITION. The statements for the provers, and the words they are written in. -/

/-! ### Engine instructions -/

namespace Sys2Proof.Stmt
open Sys2Proof Sys2Proof.Machine

/-- Engine `e` runs a step, and its PC stands at the word `w` in its code part. -/
def standsAt (s : State) (e : EngRef) (w : Word) : Prop :=
  (engineAt s e).run.isSome = true ∧ codeWord (engineAt s e) (engineAt s e).pc = some w

/-- The frame of one executed instruction: everything of the device is unchanged but engine `e` and the counters of its tile's page. -/
def onlyEngine (e : EngRef) (s t : State) : Prop :=
  { t with crests := s.crests, hdrs := s.hdrs } = s ∧
  (∀ c, { Vec.at t.crests c with engines := (Vec.at s.crests c).engines } = Vec.at s.crests c) ∧
  (∀ x, x ≠ e → engineAt t x = engineAt s x) ∧
  (∀ pg, { hdrAt t pg with cnt := (hdrAt s pg).cnt } = hdrAt s pg) ∧
  (∀ pg, pg ≠ .engine e.crest → hdrAt t pg = hdrAt s pg)

/-- The frame inside the engine: only registers, ACC, flags and the control of the next instruction may differ. -/
def sameHalves (g h : Engine) : Prop :=
  h.half = g.half ∧ h.half0 = g.half0 ∧ h.half1 = g.half1 ∧ h.run = g.run ∧ h.unloaded = g.unloaded ∧ h.x = g.x

/-- Register `rd` holds `v`, unless it is G0, and every other register what it held (Table 3.1). -/
def regIs (rd : Reg) (v : Word) (g h : Engine) : Prop :=
  ∀ r, getReg h r = if r = rd ∧ r ≠ 0 then v else getReg g r

/-- The mode shadow moves on by one instruction (R67): a mode that waited is now in effect, and none waits. -/
def shadowPasses (g h : Engine) : Prop := h.mode = g.modeNext.getD g.mode ∧ h.modeNext = none ∧ h.modeWritten = g.modeWritten

/-- Where control goes after an instruction that is no branch and starts no loop, and what is then left of the active loops, outermost
first. The end instruction of a loop takes one from its remaining count wherever it stands; while the count stays above 0 control returns to
the body's start, else the loop ends (R74). In the delay slot of a taken branch control passes to the destination `d`, and the outermost loop
whose body does not hold `d`, or whose count is 0, ends together with those inside it (R72, R76). -/
def goesOn (g h : Engine) : Prop :=
  let counted := g.loops.map fun l => if l.last = g.pc then { l with count := l.count - 1 } else l
  h.delay = none ∧
  match g.delay with
  | some (some d) =>
    let stays (l : LoopReg) : Prop := l.start ≤ d ∧ d ≤ l.last ∧ l.count ≠ 0
    h.pc = d ∧ h.loops <+: counted ∧ (∀ l ∈ h.loops, stays l) ∧ (∀ l, counted[h.loops.length]? = some l → ¬ stays l)
  | _ =>
    match g.loops.find? fun l => l.last == g.pc with
    | some l =>
      if 1 < l.count.toNat then h.pc = l.start ∧ h.loops = counted
      else h.pc = g.pc + 4 ∧ h.loops = g.loops.takeWhile fun l => l.last != g.pc
    | none => h.pc = g.pc + 4 ∧ h.loops = g.loops

/-- The instructions whose result is a value that never saturates: engine, word, destination and value (Table 3.6, Table 3.7). -/
def plainSpec : Instr → Option (EngRef × Word × Reg × (State → Engine → Word))
  | .and e rd ra rb => some (e, encR 0 3 rd ra rb, rd, fun _ g => getReg g ra &&& getReg g rb)
  | .or e rd ra rb => some (e, encR 0 4 rd ra rb, rd, fun _ g => getReg g ra ||| getReg g rb)
  | .xor e rd ra rb => some (e, encR 0 5 rd ra rb, rd, fun _ g => getReg g ra ^^^ getReg g rb)
  | .shr e rd ra rb => some (e, encR 0 7 rd ra rb, rd, fun _ g => getReg g ra >>> ((getReg g rb).toNat % 32))
  | .sar e rd ra rb => some (e, encR 0 8 rd ra rb, rd, fun _ g => (getReg g ra).sshiftRight ((getReg g rb).toNat % 32))
  | .slt e rd ra rb => some (e, encR 0 9 rd ra rb, rd, fun _ g => if (getReg g ra).toInt < (getReg g rb).toInt then 1 else 0)
  | .sltu e rd ra rb => some (e, encR 0 10 rd ra rb, rd, fun _ g => if (getReg g ra).toNat < (getReg g rb).toNat then 1 else 0)
  | .min e rd ra rb => some (e, encR 0 11 rd ra rb, rd, fun _ g => BitVec.ofInt 32 (min (getReg g ra).toInt (getReg g rb).toInt))
  | .max e rd ra rb => some (e, encR 0 12 rd ra rb, rd, fun _ g => BitVec.ofInt 32 (max (getReg g ra).toInt (getReg g rb).toInt))
  | .mulh e rd ra rb => some (e, encR 0 17 rd ra rb, rd, fun _ g => BitVec.ofInt 32 ((getReg g ra).toInt * (getReg g rb).toInt / 2 ^ 32))
  | .acclo e rd => some (e, encR 1 4 rd 0 0, rd, fun _ g => g.acc.setWidth 32)
  | .acchi e rd => some (e, encR 1 5 rd 0 0, rd, fun _ g => (g.acc >>> 32).setWidth 32)
  | .fabs e rd ra => some (e, encR 2 9 rd ra 0, rd, fun _ g => getReg g ra &&& 0x7FFFFFFF)
  | .fneg e rd ra => some (e, encR 2 10 rd ra 0, rd, fun _ g => getReg g ra ^^^ 0x80000000)
  | .nop e => some (e, encR 0x3F 0 0 0 0, 0, fun _ _ => 0)
  | .moder e rd => some (e, encR 0x3F 3 rd 0 0, rd, fun _ g => g.modeWritten.setWidth 32)
  | .flagr e rd => some (e, encR 0x3F 4 rd 0 0, rd, fun _ g => g.flags.setWidth 32)
  | .sysr e rd num => some (e, encR 0x3F 6 rd 0 num, rd, fun s g => sysValue s e g num)
  | .andi e rd ra imm => some (e, encI 9 rd ra imm, rd, fun _ g => getReg g ra &&& imm.setWidth 32)
  | .ori e rd ra imm => some (e, encI 10 rd ra imm, rd, fun _ g => getReg g ra ||| imm.setWidth 32)
  | .xori e rd ra imm => some (e, encI 11 rd ra imm, rd, fun _ g => getReg g ra ^^^ imm.setWidth 32)
  | .slti e rd ra imm => some (e, encI 12 rd ra imm, rd, fun _ g => if (getReg g ra).toInt < imm.toInt then 1 else 0)
  | .lui e rd imm => some (e, encI 13 rd 0 imm, rd, fun _ _ => imm ++ (0 : BitVec 16))
  | .shri e rd ra sh => some (e, encI 15 rd ra (sh.setWidth 16), rd, fun _ g => getReg g ra >>> sh.toNat)
  | .sari e rd ra sh => some (e, encI 16 rd ra (sh.setWidth 16), rd, fun _ g => (getReg g ra).sshiftRight sh.toNat)
  | _ => none

/-- The instructions marked S: engine, word, destination and the exact result (Table 3.6). -/
def satSpec : Instr → Option (EngRef × Word × Reg × (Engine → Int))
  | .add e rd ra rb => some (e, encR 0 1 rd ra rb, rd, fun g => (getReg g ra).toInt + (getReg g rb).toInt)
  | .sub e rd ra rb => some (e, encR 0 2 rd ra rb, rd, fun g => (getReg g ra).toInt - (getReg g rb).toInt)
  | .shl e rd ra rb => some (e, encR 0 6 rd ra rb, rd, fun g => (getReg g ra).toInt * 2 ^ ((getReg g rb).toNat % 32))
  | .abs e rd ra => some (e, encR 0 13 rd ra 0, rd, fun g => ((getReg g ra).toInt.natAbs : Int))
  | .mul e rd ra rb => some (e, encR 0 16 rd ra rb, rd, fun g => (getReg g ra).toInt * (getReg g rb).toInt)
  | .addi e rd ra imm => some (e, encI 8 rd ra imm, rd, fun g => (getReg g ra).toInt + imm.toInt)
  | .shli e rd ra sh => some (e, encI 14 rd ra (sh.setWidth 16), rd, fun g => (getReg g ra).toInt * 2 ^ sh.toNat)
  | _ => none

/-- A result in the range of `n` bits, two's complement: the nearest end of the range where it lies outside. -/
def nearest (n : Nat) (v : Int) : BitVec n := BitVec.ofInt n (max (-2 ^ (n - 1)) (min (2 ^ (n - 1) - 1) v))

/-- Does an exact result lie outside the range of `n` bits? -/
def outside (n : Nat) (v : Int) : Prop := v < -2 ^ (n - 1) ∨ 2 ^ (n - 1) ≤ v

/-- The instructions of the accumulator that write ACC as a sum: engine, word and exact sum. -/
def accSpec : Instr → Option (EngRef × Word × (Engine → Int))
  | .mac e ra rb => some (e, encR 1 1 0 ra rb, fun g => g.acc.toInt + (getReg g ra).toInt * (getReg g rb).toInt)
  | .msu e ra rb => some (e, encR 1 2 0 ra rb, fun g => g.acc.toInt - (getReg g ra).toInt * (getReg g rb).toInt)
  | _ => none

/-- The binary32 instructions that go through the IEEE 754 operations of `Float.lean`: engine, word, destination, result and flags. -/
def floatSpec : Instr → Option (EngRef × Word × Reg × (Engine → Word × BitVec 5))
  | .fadd e rd ra rb => some (e, encR 2 1 rd ra rb, rd, fun g => out32 (b32.add (fmodeOf g) (getReg g ra).toNat (getReg g rb).toNat))
  | .fsub e rd ra rb => some (e, encR 2 2 rd ra rb, rd, fun g => out32 (b32.sub (fmodeOf g) (getReg g ra).toNat (getReg g rb).toNat))
  | .fmul e rd ra rb => some (e, encR 2 3 rd ra rb, rd, fun g => out32 (b32.mul (fmodeOf g) (getReg g ra).toNat (getReg g rb).toNat))
  | .fdiv e rd ra rb => some (e, encR 2 4 rd ra rb, rd, fun g => out32 (b32.div (fmodeOf g) (getReg g ra).toNat (getReg g rb).toNat))
  | .fsqrt e rd ra => some (e, encR 2 5 rd ra 0, rd, fun g => out32 (b32.sqrt (fmodeOf g) (getReg g ra).toNat))
  | .fma e rd ra rb => some (e, encR 2 6 rd ra rb, rd, fun g => out32 (b32.fma (fmodeOf g) (getReg g rd).toNat (getReg g ra).toNat (getReg g rb).toNat))
  | .fmin e rd ra rb => some (e, encR 2 7 rd ra rb, rd, fun g => out32 (b32.minmax (fmodeOf g) false (getReg g ra).toNat (getReg g rb).toNat))
  | .fmax e rd ra rb => some (e, encR 2 8 rd ra rb, rd, fun g => out32 (b32.minmax (fmodeOf g) true (getReg g ra).toNat (getReg g rb).toNat))
  | .feq e rd ra rb => some (e, encR 2 11 rd ra rb, rd, fun g => outTest (b32.eq (fmodeOf g) (getReg g ra).toNat (getReg g rb).toNat))
  | .flt e rd ra rb => some (e, encR 2 12 rd ra rb, rd, fun g => outTest (b32.cmp (fmodeOf g) false (getReg g ra).toNat (getReg g rb).toNat))
  | .fle e rd ra rb => some (e, encR 2 13 rd ra rb, rd, fun g => outTest (b32.cmp (fmodeOf g) true (getReg g ra).toNat (getReg g rb).toNat))
  | .ftoi e rd ra => some (e, encR 2 14 rd ra 0, rd, fun g => b32.toInt (fmodeOf g) (getReg g ra).toNat)
  | .itof e rd ra => some (e, encR 2 15 rd ra 0, rd, fun g => out32 (b32.ofInt (fmodeOf g) (getReg g ra).toInt))
  | _ => none
where
  out32 (r : Nat × BitVec 5) : Word × BitVec 5 := (BitVec.ofNat 32 r.1, r.2)
  outTest (r : Bool × BitVec 5) : Word × BitVec 5 := (if r.1 then 1 else 0, r.2)

/-- The conditional branches: engine, word, condition and displacement. -/
def branchSpec : Instr → Option (EngRef × Word × (Engine → Prop) × BitVec 16)
  | .beq e ra rb d => some (e, encB 0x20 ra rb d, fun g => getReg g ra = getReg g rb, d)
  | .bne e ra rb d => some (e, encB 0x21 ra rb d, fun g => getReg g ra ≠ getReg g rb, d)
  | .blt e ra rb d => some (e, encB 0x22 ra rb d, fun g => (getReg g ra).toInt < (getReg g rb).toInt, d)
  | .bge e ra rb d => some (e, encB 0x23 ra rb d, fun g => (getReg g rb).toInt ≤ (getReg g ra).toInt, d)
  | .bltu e ra rb d => some (e, encB 0x24 ra rb d, fun g => (getReg g ra).toNat < (getReg g rb).toNat, d)
  | .bgeu e ra rb d => some (e, encB 0x25 ra rb d, fun g => (getReg g rb).toNat ≤ (getReg g ra).toNat, d)
  | _ => none

/-- The jumps: engine, word, destination, and the register CALL writes. -/
def jumpSpec : Instr → Option (EngRef × Word × (Engine → Word) × Bool)
  | .jmp e d => some (e, encJ 0x28 d, fun g => g.pc + 4 * d.signExtend 32, false)
  | .call e d => some (e, encJ 0x29 d, fun g => g.pc + 4 * d.signExtend 32, true)
  | .jr e ra => some (e, encR 0x3F 7 0 ra 0, fun g => getReg g ra, false)
  | _ => none

/-- The loads: engine, word, base, size code, post, offset, target and the extension of the bytes read. -/
def loadSpec : Instr → Option (EngRef × Word × Reg × Reg × BitVec 2 × Bool × BitVec 13 × Bool)
  | .ld e rt base size post off => some (e, encM 0x18 rt base size post off, rt, base, size, post, off, true)
  | .ldu e rt base size post off => some (e, encM 0x19 rt base size post off, rt, base, size, post, off, false)
  | _ => none

/-- The loop instructions: engine, word, offset of the end, count, and the bound that LOOP has. -/
def loopSpec : Instr → Option (EngRef × Word × BitVec 10 × (Engine → Word) × Option Word)
  | .loop e rs en cnt => some (e, encL 0x30 rs en cnt, en, fun g => getReg g rs, some (cnt.setWidth 32))
  | .loopi e en cnt => some (e, encL 0x31 0 en cnt, en, fun _ => cnt.setWidth 32, none)
  | _ => none

/-- The engine that executes an instruction; none for a command that is no instruction. -/
def engineOf : Instr → Option EngRef
  | .add e .. | .sub e .. | .and e .. | .or e .. | .xor e .. | .shl e .. | .shr e .. | .sar e .. | .slt e .. | .sltu e .. | .min e ..
  | .max e .. | .abs e .. | .mul e .. | .mulh e .. | .div e .. | .divu e .. | .rem e .. | .mac e .. | .msu e .. | .accset e .. | .acclo e ..
  | .acchi e .. | .accsh e .. | .fadd e .. | .fsub e .. | .fmul e .. | .fdiv e .. | .fsqrt e .. | .fma e .. | .fmin e .. | .fmax e ..
  | .fabs e .. | .fneg e .. | .feq e .. | .flt e .. | .fle e .. | .ftoi e .. | .itof e .. | .nop e | .halt e | .modew e .. | .moder e ..
  | .flagr e .. | .flagc e .. | .sysr e .. | .jr e .. | .trap e .. | .addi e .. | .andi e .. | .ori e .. | .xori e .. | .slti e .. | .lui e ..
  | .shli e .. | .shri e .. | .sari e .. | .ld e .. | .ldu e .. | .st e .. | .beq e .. | .bne e .. | .blt e .. | .bge e .. | .bltu e ..
  | .bgeu e .. | .jmp e .. | .call e .. | .loop e .. | .loopi e .. | .illegalEncoding e => some e
  | _ => none

/-- The bytes a format M access takes, read from the half in use. -/
def halfByte (g : Engine) (a : Nat) : Byte := memGet (curHalf g).mem a

/-- Lies an access of `n` bytes at `a` in the code part or the state part (Table 3.4)? -/
def inCode (g : Engine) (a n : Nat) : Prop := a + n ≤ 64 * (curHalf g).codeLen.toNat
/-- See `inCode`. -/
def inState (g : Engine) (a n : Nat) : Prop := 0x4000 ≤ a ∧ a + n ≤ 0x4000 + 64 * (curHalf g).stateLen.toNat

/-- The exception of an engine: its record names the cause, the instruction's address and the step; XCPT is raised; the step has
stopped. -/
def raisesX (e : EngRef) (cause : BitVec 4) (addr : Word) (s t : State) : Prop :=
  let g := engineAt s e
  let h := engineAt t e
  h.run = none ∧ h.x.cause = cause ∧ h.x.addr = addr ∧
  (g.run.isSome = true → h.x.pc = g.pc.setWidth 14) ∧ h.x.seen = satInc g.x.seen ∧ h.x.mode = g.mode ∧
  (∀ r, getReg h r = getReg g r) ∧ h.acc = g.acc ∧ h.flags = g.flags ∧ h.half0 = g.half0 ∧ h.half1 = g.half1 ∧
  (hdrAt t (.engine e.crest)).raw.getLsbD 0 = true ∧
  (∀ d, g.run.map (fun r => r.desc) = some d → (taskRt t d.tenant d.task).abandoned = true)

end Sys2Proof.Stmt

open Sys2Proof Sys2Proof.Machine Sys2Proof.Stmt in
/-- R78, R79, Table 3.6, Table 3.7: AND, OR, XOR, SHR, SAR, SLT, SLTU, MIN, MAX, MULH, ACCLO, ACCHI, FABS, FNEG, NOP, MODER, FLAGR,
SYSR, ANDI, ORI, XORI, SLTI, LUI, SHRI and SARI write their result and nothing else; a result sent to G0 is discarded.
R78: ADD, SUB, SHL, ABS, MUL, ADDI and SHLI saturate to the signed 32-bit range and set ISAT when ENG_MODE.SAT is 1, and wrap
without a flag when it is 0. -/
def Obligations.IntegerInstructionsWriteTheirResult : Prop :=
  (∀ (i : Instr) (e : EngRef) (w : Word) (rd : Reg) (v : State → Engine → Word) (s : State),
       plainSpec i = some (e, w, rd, v) → standsAt s e w →
       ∃ t, exec i s = .next t ∧ onlyEngine e s t ∧
         regIs rd (v s (engineAt s e)) (engineAt s e) (engineAt t e) ∧
         (engineAt t e).acc = (engineAt s e).acc ∧ (engineAt t e).flags = (engineAt s e).flags ∧
         sameHalves (engineAt s e) (engineAt t e) ∧ shadowPasses (engineAt s e) (engineAt t e) ∧
         goesOn (engineAt s e) (engineAt t e)) ∧
  (∀ (i : Instr) (e : EngRef) (w : Word) (rd : Reg) (v : Engine → Int) (s : State),
       satSpec i = some (e, w, rd, v) → standsAt s e w →
       ∃ t, exec i s = .next t ∧ onlyEngine e s t ∧
         regIs rd (if (engineAt s e).mode.getLsbD 2 then nearest 32 (v (engineAt s e)) else BitVec.ofInt 32 (v (engineAt s e)))
           (engineAt s e) (engineAt t e) ∧
         (∀ k, (engineAt t e).flags.getLsbD k = true ↔
           (engineAt s e).flags.getLsbD k = true ∨ (k = 5 ∧ (engineAt s e).mode.getLsbD 2 = true ∧ outside 32 (v (engineAt s e)))) ∧
         (engineAt t e).acc = (engineAt s e).acc ∧ sameHalves (engineAt s e) (engineAt t e) ∧
         shadowPasses (engineAt s e) (engineAt t e) ∧ goesOn (engineAt s e) (engineAt t e))

open Sys2Proof Sys2Proof.Machine Sys2Proof.Stmt in
/-- R79: DIV, DIVU and REM, with the results of a zero divisor and of the overflow of DIV, and the flag each sets.
R79, Table 3.6: MAC and MSU add to or take from ACC with ENG_MODE.ACCSAT, ACCSET writes both halves of ACC, and ACCSH shifts it
and saturates to 32 bits whatever SAT holds; ISAT is set when a result saturates. -/
def Obligations.DivisionAndAccumulatorInstructions : Prop :=
  (∀ (e : EngRef) (rd ra rb : Reg) (s : State),
       let g := engineAt s e
       let a := getReg g ra
       let b := getReg g rb
       let done (t : State) (v : Word) (k : Option Nat) : Prop :=
         onlyEngine e s t ∧ regIs rd v g (engineAt t e) ∧
         (∀ j, (engineAt t e).flags.getLsbD j = true ↔ g.flags.getLsbD j = true ∨ k = some j) ∧
         (engineAt t e).acc = g.acc ∧ sameHalves g (engineAt t e) ∧ shadowPasses g (engineAt t e) ∧ goesOn g (engineAt t e)
       (standsAt s e (encR 0 18 rd ra rb) →
         ∃ t, exec (.div e rd ra rb) s = .next t ∧
           if b = 0 then done t (if a = 0 then 0 else if a.toInt < 0 then 0x80000000 else 0x7FFFFFFF) (some 6)
           else if a = 0x80000000 ∧ b = 0xFFFFFFFF then done t 0x7FFFFFFF (some 5)
           else done t (BitVec.ofInt 32 (a.toInt.tdiv b.toInt)) none) ∧
       (standsAt s e (encR 0 19 rd ra rb) →
         ∃ t, exec (.divu e rd ra rb) s = .next t ∧
           if b = 0 then done t 0xFFFFFFFF (some 6) else done t (BitVec.ofNat 32 (a.toNat / b.toNat)) none) ∧
       (standsAt s e (encR 0 20 rd ra rb) →
         ∃ t, exec (.rem e rd ra rb) s = .next t ∧
           if b = 0 then done t a (some 6) else done t (BitVec.ofInt 32 (a.toInt.tmod b.toInt)) none)) ∧
  ((∀ (i : Instr) (e : EngRef) (w : Word) (v : Engine → Int) (s : State),
       accSpec i = some (e, w, v) → standsAt s e w →
       ∃ t, exec i s = .next t ∧ onlyEngine e s t ∧
         (engineAt t e).acc = (if (engineAt s e).mode.getLsbD 4 then nearest 64 (v (engineAt s e)) else BitVec.ofInt 64 (v (engineAt s e))) ∧
         (∀ k, (engineAt t e).flags.getLsbD k = true ↔
           (engineAt s e).flags.getLsbD k = true ∨ (k = 5 ∧ (engineAt s e).mode.getLsbD 4 = true ∧ outside 64 (v (engineAt s e)))) ∧
         (∀ r, getReg (engineAt t e) r = getReg (engineAt s e) r) ∧ sameHalves (engineAt s e) (engineAt t e) ∧
         shadowPasses (engineAt s e) (engineAt t e) ∧ goesOn (engineAt s e) (engineAt t e)) ∧
     (∀ (e : EngRef) (ra rb : Reg) (s : State), standsAt s e (encR 1 3 0 ra rb) →
       ∃ t, exec (.accset e ra rb) s = .next t ∧ onlyEngine e s t ∧
         (engineAt t e).acc = getReg (engineAt s e) rb ++ getReg (engineAt s e) ra ∧
         (engineAt t e).flags = (engineAt s e).flags ∧
         (∀ r, getReg (engineAt t e) r = getReg (engineAt s e) r) ∧ sameHalves (engineAt s e) (engineAt t e) ∧
         shadowPasses (engineAt s e) (engineAt t e) ∧ goesOn (engineAt s e) (engineAt t e)) ∧
     (∀ (e : EngRef) (rd rb : Reg) (s : State), standsAt s e (encR 1 6 rd 0 rb) →
       let v := (engineAt s e).acc.toInt / 2 ^ ((getReg (engineAt s e) rb).toNat % 64)
       ∃ t, exec (.accsh e rd rb) s = .next t ∧ onlyEngine e s t ∧
         regIs rd (nearest 32 v) (engineAt s e) (engineAt t e) ∧
         (∀ k, (engineAt t e).flags.getLsbD k = true ↔ (engineAt s e).flags.getLsbD k = true ∨ (k = 5 ∧ outside 32 v)) ∧
         (engineAt t e).acc = (engineAt s e).acc ∧ sameHalves (engineAt s e) (engineAt t e) ∧
         shadowPasses (engineAt s e) (engineAt t e) ∧ goesOn (engineAt s e) (engineAt t e)))

open Sys2Proof Sys2Proof.Machine Sys2Proof.Stmt in
/-- R79: FADD, FSUB, FMUL, FDIV, FSQRT, FMA, FMIN, FMAX, FEQ, FLT, FLE, FTOI and ITOF write the result of the IEEE 754 operation under
the mode in effect and set its flags beside those already set.
R79: in every mode, an arithmetic operation on a NaN gives the NaN 0x7FC0_0000; FMIN and FMAX of a NaN and a number give the
number; FTOI of a NaN gives 0 and sets NV.
(Readings of the model that the clauses follow: log entries 70 and 98.) -/
def Obligations.FloatInstructionsWriteResultAndFlags : Prop :=
  (∀ (i : Instr) (e : EngRef) (w : Word) (rd : Reg) (v : Engine → Word × BitVec 5) (s : State),
       floatSpec i = some (e, w, rd, v) → standsAt s e w →
       ∃ t, exec i s = .next t ∧ onlyEngine e s t ∧
         regIs rd (v (engineAt s e)).1 (engineAt s e) (engineAt t e) ∧
         (engineAt t e).flags = (engineAt s e).flags ||| (v (engineAt s e)).2.setWidth 7 ∧
         (engineAt t e).acc = (engineAt s e).acc ∧ sameHalves (engineAt s e) (engineAt t e) ∧
         shadowPasses (engineAt s e) (engineAt t e) ∧ goesOn (engineAt s e) (engineAt t e)) ∧
  (∀ (m : FMode) (x y z : Word),
       let isNaN (u : Word) : Prop := 0x7F800000 < (u &&& 0x7FFFFFFF).toNat
       let plain (u : Word) : Prop := (u &&& 0x7F800000) ≠ 0 ∧ ¬ isNaN u
       (isNaN x ∨ isNaN y →
         (b32.add m x.toNat y.toNat).1 = 0x7FC00000 ∧ (b32.sub m x.toNat y.toNat).1 = 0x7FC00000 ∧
         (b32.mul m x.toNat y.toNat).1 = 0x7FC00000 ∧ (b32.div m x.toNat y.toNat).1 = 0x7FC00000 ∧
         (b32.fma m z.toNat x.toNat y.toNat).1 = 0x7FC00000) ∧
       (isNaN x → (b32.sqrt m x.toNat).1 = 0x7FC00000 ∧ b32.toInt m x.toNat = (0, 0x10)) ∧
       (isNaN x ∧ plain y → ∀ hi, (b32.minmax m hi x.toNat y.toNat).1 = y.toNat ∧ (b32.minmax m hi y.toNat x.toNat).1 = y.toNat) ∧
       (isNaN x ∧ isNaN y → ∀ hi, (b32.minmax m hi x.toNat y.toNat).1 = 0x7FC00000))

open Sys2Proof Sys2Proof.Machine Sys2Proof.Stmt in
/-- R66, R67: MODEW takes effect after a shadow of one instruction, while MODER already reads the value written; FLAGC clears the flags
set in its operand; HALT ends the step with its half complete.
(A reading of the model that the clauses follow: log entry 71.) -/
def Obligations.ModeFlagsAndHalt : Prop :=
  (∀ (e : EngRef) (ra : Reg) (s : State), standsAt s e (encR 0x3F 2 0 ra 0) →
    ∃ t, exec (.modew e ra) s = .next t ∧ onlyEngine e s t ∧
      (engineAt t e).mode = (engineAt s e).modeNext.getD (engineAt s e).mode ∧
      (engineAt t e).modeNext = some ((getReg (engineAt s e) ra).setWidth 5) ∧
      (engineAt t e).modeWritten = (getReg (engineAt s e) ra).setWidth 5 ∧
      (∀ r, getReg (engineAt t e) r = getReg (engineAt s e) r) ∧ (engineAt t e).acc = (engineAt s e).acc ∧
      (engineAt t e).flags = (engineAt s e).flags ∧ sameHalves (engineAt s e) (engineAt t e) ∧
      goesOn (engineAt s e) (engineAt t e)) ∧
  (∀ (e : EngRef) (ra : Reg) (s : State), standsAt s e (encR 0x3F 5 0 ra 0) →
    ∃ t, exec (.flagc e ra) s = .next t ∧ onlyEngine e s t ∧
      (∀ k : Nat, (engineAt t e).flags.getLsbD k =
        ((engineAt s e).flags.getLsbD k && !(getReg (engineAt s e) ra).getLsbD k)) ∧
      (∀ r, getReg (engineAt t e) r = getReg (engineAt s e) r) ∧ (engineAt t e).acc = (engineAt s e).acc ∧
      sameHalves (engineAt s e) (engineAt t e) ∧ shadowPasses (engineAt s e) (engineAt t e) ∧
      goesOn (engineAt s e) (engineAt t e)) ∧
  (∀ (e : EngRef) (s : State), standsAt s e (encR 0x3F 1 0 0 0) → (engineAt s e).delay = none →
    ∃ t, exec (.halt e) s = .next t ∧ onlyEngine e s t ∧
      (engineAt t e).run = none ∧ (engineAt t e).loops = [] ∧ (curHalf (engineAt t e)).done = true ∧
      (curHalf (engineAt t e)).mem = (curHalf (engineAt s e)).mem ∧
      (engineAt t e).half = (engineAt s e).half ∧ (engineAt t e).x = (engineAt s e).x ∧
      (if (engineAt s e).half then (engineAt t e).half0 = (engineAt s e).half0 else (engineAt t e).half1 = (engineAt s e).half1) ∧
      (∀ r, getReg (engineAt t e) r = getReg (engineAt s e) r) ∧ (engineAt t e).acc = (engineAt s e).acc ∧
      (engineAt t e).flags = (engineAt s e).flags)

open Sys2Proof Sys2Proof.Machine Sys2Proof.Stmt in
/-- R72, R77: BEQ, BNE, BLT, BGE, BLTU, BGEU, JMP, CALL and JR go on at the delay slot, which remembers the destination of a branch
that is taken; CALL puts its address + 8 into G31. An instruction in the delay slot has its effect, and control then passes to the
destination of a branch that is taken, or goes on after the delay slot. -/
def Obligations.BranchesAndJumpsHaveOneDelaySlot : Prop :=
  (∀ (i : Instr) (e : EngRef) (w : Word) (c : Engine → Prop) (d : BitVec 16) (s : State),
    branchSpec i = some (e, w, c, d) → standsAt s e w → (engineAt s e).delay = none →
    ∃ t, exec i s = .next t ∧ onlyEngine e s t ∧
      (engineAt t e).pc = (engineAt s e).pc + 4 ∧ (engineAt t e).loops = (engineAt s e).loops ∧
      (c (engineAt s e) → (engineAt t e).delay = some (some ((engineAt s e).pc + 4 * d.signExtend 32))) ∧
      (¬ c (engineAt s e) → (engineAt t e).delay = some none) ∧
      (∀ r, getReg (engineAt t e) r = getReg (engineAt s e) r) ∧ (engineAt t e).acc = (engineAt s e).acc ∧
      (engineAt t e).flags = (engineAt s e).flags ∧ sameHalves (engineAt s e) (engineAt t e) ∧
      shadowPasses (engineAt s e) (engineAt t e)) ∧
  (∀ (i : Instr) (e : EngRef) (w : Word) (d : Engine → Word) (link : Bool) (s : State),
    jumpSpec i = some (e, w, d, link) → standsAt s e w → (engineAt s e).delay = none →
    ∃ t, exec i s = .next t ∧ onlyEngine e s t ∧
      (engineAt t e).pc = (engineAt s e).pc + 4 ∧ (engineAt t e).loops = (engineAt s e).loops ∧
      (engineAt t e).delay = some (some (d (engineAt s e))) ∧
      (∀ r, getReg (engineAt t e) r = if link = true ∧ r = 31 then (engineAt s e).pc + 8 else getReg (engineAt s e) r) ∧
      (engineAt t e).acc = (engineAt s e).acc ∧ (engineAt t e).flags = (engineAt s e).flags ∧
      sameHalves (engineAt s e) (engineAt t e) ∧ shadowPasses (engineAt s e) (engineAt t e)) ∧
  (∀ (i : Instr) (e : EngRef) (w : Word) (rd : Reg) (v : State → Engine → Word) (s : State),
    plainSpec i = some (e, w, rd, v) → standsAt s e w → (engineAt s e).delay.isSome = true →
    ∃ t, exec i s = .next t ∧ regIs rd (v s (engineAt s e)) (engineAt s e) (engineAt t e) ∧ (engineAt t e).delay = none ∧
      (∀ d, (engineAt s e).delay = some (some d) → (engineAt t e).pc = d) ∧
      ((engineAt s e).delay = some none → (∀ l ∈ (engineAt s e).loops, l.last ≠ (engineAt s e).pc) →
        (engineAt t e).pc = (engineAt s e).pc + 4))

open Sys2Proof Sys2Proof.Machine Sys2Proof.Stmt in
/-- R69, R70, R77: LD and LDU read the aligned bytes at the effective address, little-endian, extended with or without sign; with post
the base then moves, and rt keeps the loaded value where it names the base. An access that is misaligned or outside the code and the
state part raises ACCESS. Memory is unchanged.
R69, R70, R77: ST stores the low bytes of rt, as it was before the instruction, at the effective address of the state part; every
other byte of both halves is unchanged. A store outside the state part or misaligned raises ACCESS and stores nothing. -/
def Obligations.LoadsAndStoresActOnTheirHalf : Prop :=
  (∀ (i : Instr) (e : EngRef) (w : Word) (rt base : Reg) (size : BitVec 2) (post : Bool) (off : BitVec 13) (sign : Bool) (s : State),
       loadSpec i = some (e, w, rt, base, size, post, off, sign) → size ≠ 3 → standsAt s e w →
       let g := engineAt s e
       let n := 2 ^ size.toNat
       let a := if post then getReg g base else getReg g base + off.signExtend 32
       let raw : Nat := ((List.range n).map fun k => (halfByte g (a.toNat + k)).toNat * 256 ^ k).sum
       let v : Word := if sign then (BitVec.ofNat (8 * n) raw).signExtend 32 else BitVec.ofNat 32 raw
       (a.toNat % n = 0 ∧ (inCode g a.toNat n ∨ inState g a.toNat n) →
         ∃ t, exec i s = .next t ∧ onlyEngine e s t ∧
           (∀ r, getReg (engineAt t e) r =
             if r = rt ∧ r ≠ 0 then v else if post = true ∧ r = base ∧ r ≠ 0 then getReg g base + off.signExtend 32 else getReg g r) ∧
           (engineAt t e).acc = g.acc ∧ (engineAt t e).flags = g.flags ∧ sameHalves g (engineAt t e) ∧
           shadowPasses g (engineAt t e) ∧ goesOn g (engineAt t e)) ∧
       (¬ (a.toNat % n = 0 ∧ (inCode g a.toNat n ∨ inState g a.toNat n)) →
         ∃ t, exec i s = .next t ∧ raisesX e 3 a s t)) ∧
  (∀ (e : EngRef) (rt base : Reg) (size : BitVec 2) (post : Bool) (off : BitVec 13) (s : State),
       size ≠ 3 → standsAt s e (encM 0x1A rt base size post off) → memWf (curHalf (engineAt s e)).mem = true →
       let g := engineAt s e
       let n := 2 ^ size.toNat
       let a := if post then getReg g base else getReg g base + off.signExtend 32
       (a.toNat % n = 0 ∧ inState g a.toNat n →
         ∃ t, exec (.st e rt base size post off) s = .next t ∧ onlyEngine e s t ∧
           (∀ k, k < n → halfByte (engineAt t e) (a.toNat + k) = (getReg g rt).extractLsb' (8 * k) 8) ∧
           (∀ b, b < a.toNat ∨ a.toNat + n ≤ b → halfByte (engineAt t e) b = halfByte g b) ∧
           (engineAt t e).half = g.half ∧ (if g.half then (engineAt t e).half0 = g.half0 else (engineAt t e).half1 = g.half1) ∧
           (curHalf (engineAt t e)).codeLen = (curHalf g).codeLen ∧ (curHalf (engineAt t e)).stateLen = (curHalf g).stateLen ∧
           (curHalf (engineAt t e)).desc = (curHalf g).desc ∧ (curHalf (engineAt t e)).done = (curHalf g).done ∧
           (∀ r, getReg (engineAt t e) r =
             if post = true ∧ r = base ∧ r ≠ 0 then getReg g base + off.signExtend 32 else getReg g r) ∧
           (engineAt t e).acc = g.acc ∧ (engineAt t e).flags = g.flags ∧ (engineAt t e).run = g.run ∧
           shadowPasses g (engineAt t e) ∧ goesOn g (engineAt t e)) ∧
       (¬ (a.toNat % n = 0 ∧ inState g a.toNat n) →
         ∃ t, exec (.st e rt base size post off) s = .next t ∧ raisesX e 3 a s t))

open Sys2Proof Sys2Proof.Machine Sys2Proof.Stmt in
/-- R74, R75: LOOP and LOOPI make their checks in the order of R75 whatever the count, skip the body at a count of 0, and else start a
loop from the next instruction to the end instruction.
(An end outside the code part is an instruction of none of the kinds that R75 names; see log entry 99.) -/
def Obligations.LoopInstructionsCheckAndStart : Prop :=
  ∀ (i : Instr) (e : EngRef) (w : Word) (en : BitVec 10) (n : Engine → Word) (bound : Option Word) (s : State),
    loopSpec i = some (e, w, en, n, bound) → standsAt s e w → (engineAt s e).delay = none →
    let g := engineAt s e
    let last := g.pc + 4 * (en.setWidth 32 + 1)
    let badEnd : Prop := ∃ v, codeWord g last = some v ∧ isControl v = true
    let badNest : Prop := ∃ l ∈ g.loops, l.last ≤ last
    let tooMany : Prop := ∃ b, bound = some b ∧ b < n g
    let goes (t : State) : Prop := onlyEngine e s t ∧ (engineAt t e).delay = none ∧
      (∀ r, getReg (engineAt t e) r = getReg g r) ∧ (engineAt t e).acc = g.acc ∧ (engineAt t e).flags = g.flags ∧
      sameHalves g (engineAt t e) ∧ shadowPasses g (engineAt t e)
    (2 ≤ g.loops.length → ∃ t, exec i s = .next t ∧ raisesX e 4 0 s t) ∧
    (g.loops.length < 2 → badEnd → ∃ t, exec i s = .next t ∧ raisesX e 1 0 s t) ∧
    (g.loops.length < 2 → ¬ badEnd → badNest → ∃ t, exec i s = .next t ∧ raisesX e 4 0 s t) ∧
    (g.loops.length < 2 → ¬ badEnd → ¬ badNest → tooMany → ∃ t, exec i s = .next t ∧ raisesX e 5 (n g) s t) ∧
    (g.loops.length < 2 → ¬ badEnd → ¬ badNest → ¬ tooMany → n g = 0 →
      ∃ t, exec i s = .next t ∧ goes t ∧ (engineAt t e).pc = last + 4 ∧ (engineAt t e).loops = g.loops) ∧
    (g.loops.length < 2 → ¬ badEnd → ¬ badNest → ¬ tooMany → n g ≠ 0 →
      (∀ l ∈ g.loops, l.last ≠ g.pc) →
      ∃ t, exec i s = .next t ∧ goes t ∧ (engineAt t e).pc = g.pc + 4 ∧
        (engineAt t e).loops = g.loops ++ [⟨g.pc + 4, last, n g⟩])

open Sys2Proof Sys2Proof.Machine Sys2Proof.Stmt in
/-- R73, R77, R86 to R90, R94, R96: TRAP records its code; an illegal word, or a branch in a delay slot, raises ILLEGAL; a stalled
handshake and an uncorrectable context word raise STALL and CTX_ECC and retire the engine. The step stops, no register, flag or half
keeps a result, XCPT is raised and the task is abandoned.
R77 against R70: an engine whose PC lies outside its code part raises FETCH with the whole destination in its record, whichever
instruction the command names; the record's DS, SH and LE are clear for a branch's destination alone. (The order in which an instruction
takes its exceptions, and what the record of an exception made outside a step holds, are the model's reading, log entries 69 and 100.) -/
def Obligations.ExceptionsStopTheStep : Prop :=
  ((∀ (e : EngRef) (code : BitVec 5) (s : State), standsAt s e (encR 0x3F 8 0 0 code) → (engineAt s e).delay = none →
       ∃ t, exec (.trap e code) s = .next t ∧ raisesX e 6 0 s t ∧ (engineAt t e).x.trap = code) ∧
     (∀ (e : EngRef) (w : Word) (s : State), standsAt s e w →
       legalWord w = false ∨ ((engineAt s e).delay.isSome = true ∧ isControl w = true) →
       ∃ t, exec (.illegalEncoding e) s = .next t ∧ raisesX e 1 0 s t) ∧
     (∀ (e : EngRef) (s : State), crestLive s e.crest = true → (Vec.at s.crests e.crest).retired.getLsbD e.eng.val = false →
       (∃ t, exec (.engineStall e) s = .next t ∧ raisesX e 0xA 0 s t ∧
         (Vec.at t.crests e.crest).retired = setBit (Vec.at s.crests e.crest).retired e.eng.val true ∧
         (hdrAt t (.engine e.crest)).raw.getLsbD 3 = true) ∧
       (∃ t, exec (.ctxEcc e) s = .next t ∧ raisesX e 8 0 s t ∧
         (Vec.at t.crests e.crest).retired = setBit (Vec.at s.crests e.crest).retired e.eng.val true ∧
         (hdrAt t (.engine e.crest)).raw.getLsbD 3 = true))) ∧
  (∀ (i : Instr) (e : EngRef) (s : State),
       engineOf i = some e → (engineAt s e).run.isSome = true →
       codeWord (engineAt s e) (engineAt s e).pc = none →
       ∃ t, exec i s = .next t ∧ raisesX e 2 (engineAt s e).pc s t ∧
         ((engineAt s e).jumped = true →
           (engineAt t e).x.ds = false ∧ (engineAt t e).x.sh = false ∧ (engineAt t e).x.le = false ∧
           (engineAt t e).x.next = ((engineAt s e).pc + 4).setWidth 14) ∧
         ((engineAt s e).jumped = false →
           (engineAt t e).x.ds = (engineAt s e).delay.isSome ∧ (engineAt t e).x.sh = (engineAt s e).modeNext.isSome ∧
           ((engineAt t e).x.le = true ↔ ∃ l ∈ (engineAt s e).loops, l.last = (engineAt s e).pc)))
/-! ### Engines beside their instructions: retirement, tests, speed monitors, tile memory -/

namespace Sys2Proof.Stmt
open Sys2Proof Sys2Proof.Machine

/-- Only the counters of the page `pg` may differ among the page headers. -/
def countsOnly (pg : Page) (s t : State) : Prop :=
  (∀ p, { hdrAt t p with cnt := (hdrAt s p).cnt } = hdrAt s p) ∧ ∀ p, p ≠ pg → hdrAt t p = hdrAt s p

/-- An access was answered as done, and beside its answer and the access count of its page only Crest tile `c` may differ, by `f`. -/
def tileAccess (c : Fin 6) (f : Crest → Crest) (s t : State) : Prop :=
  t.resp = .done ∧ { t with crests := s.crests, hdrs := s.hdrs, resp := s.resp } = s ∧ countsOnly (.engine c) s t ∧
  (∀ d, d ≠ c → Vec.at t.crests d = Vec.at s.crests d) ∧ Vec.at t.crests c = f (Vec.at s.crests c)

end Sys2Proof.Stmt

open Sys2Proof Sys2Proof.Machine Sys2Proof.Stmt in
/-- R101, Table 3.10: ENG_RETIRE refuses a number above 17 and a third retirement, does nothing for an engine already retired, and else
leaves the engine to the next round boundary; ENG_ECC_CLR clears the count it names.
R98, R96: the steward's tests that pass change nothing but the rotation of the quiet slots, and one that fails raises SELFTEST and
retires the engine. R83 to R85: a measurement publishes the lowest reading with the lowest-numbered monitor that gave it, GUARD and
LOST follow their limits, and LOW_ROUNDS counts. R92, R93: a word with a single-bit error is corrected and counted, an uncorrectable
word of a region marks its tile, and one outside every region is rewritten as 0. (What the record of a test's exception holds is the
model's choice, log entry 100; that REFUSED stays where a retired engine is named, log entry 124.) -/
def Obligations.StewardCommandsTestsAndScrubber : Prop :=
  (∀ (q : Req) (c : Fin 6) (eng : BitVec 5) (s : State), pgRefuses q (.engine c) s = false →
       let t0 := Vec.at s.crests c
       (18 ≤ eng.toNat → ∃ t, exec (.engRetire q c eng) s = .next t ∧ tileAccess c (fun x => { x with refused := true }) s t) ∧
       (∀ i : Fin 18, eng.toNat = i.val →
         let asked := withEngines t0.retired (t0.toRetire ++ [i])
         (t0.retired.getLsbD i.val = true → ∃ t, exec (.engRetire q c eng) s = .next t ∧ tileAccess c id s t) ∧
         (t0.retired.getLsbD i.val = false → 2 < popcount asked →
           ∃ t, exec (.engRetire q c eng) s = .next t ∧ tileAccess c (fun x => { x with refused := true }) s t) ∧
         (t0.retired.getLsbD i.val = false → popcount asked ≤ 2 →
           ∃ t, exec (.engRetire q c eng) s = .next t ∧
             tileAccess c (fun x => { x with refused := false, toRetire := (x.toRetire.filter fun j => j.val != i.val) ++ [i] }) s t)) ∧
       (∃ t, exec (.engEccClrCorr q c) s = .next t ∧ tileAccess c (fun x => { x with eccCorr := 0 }) s t) ∧
       (∃ t, exec (.engEccClrUnc q c) s = .next t ∧ tileAccess c (fun x => { x with eccUnc := 0 }) s t)) ∧
  ((∀ (c : Fin 6) (i : Fin 18) (s : State), crestLive s c = true → quietEngine (Vec.at s.crests c) = some i →
       (∃ t, exec (.stewardQuietTest c true) s = .next t ∧ { t with crests := s.crests } = s ∧
         (∀ d, d ≠ c → Vec.at t.crests d = Vec.at s.crests d) ∧
         Vec.at t.crests c = { Vec.at s.crests c with quietNext := i + 1 }) ∧
       (∃ t, exec (.stewardQuietTest c false) s = .next t ∧ raisesX ⟨c, i⟩ 0xB 0 s t ∧
         (Vec.at t.crests c).retired = setBit (Vec.at s.crests c).retired i.val true)) ∧
     (∀ (c : Fin 6) (i : Fin 18) (s : State),
       exec (.spareTest c i true) s = .next s ∧
       (logicalOf (Vec.at s.crests c) i = none → crestLive s c = true → (Vec.at s.crests c).retired.getLsbD i.val = false →
         ∃ t, exec (.spareTest c i false) s = .next t ∧ raisesX ⟨c, i⟩ 0xB 0 s t ∧
           (Vec.at t.crests c).retired = setBit (Vec.at s.crests c).retired i.val true)) ∧
     (∀ (c : Fin 6) (r : Vec (BitVec 12) 8) (ack : Bool) (s : State), crestLive s c = true →
       ∃ t, exec (.speedMeasureEnd c r ack) s = .next t ∧
         (∀ i, (Vec.at t.crests c).speedMin ≤ Vec.at r i) ∧
         (∃ i : Fin 8, Vec.at r i = (Vec.at t.crests c).speedMin ∧ (Vec.at t.crests c).speedMon.toNat = i.val ∧
           ∀ j, j < i → Vec.at r j ≠ (Vec.at t.crests c).speedMin) ∧
         (Vec.at t.crests c).readings = r ∧
         ((Vec.at t.crests c).guard = true ↔ (Vec.at t.crests c).speedMin.toNat ≤ 1105) ∧
         ((Vec.at t.crests c).slow = true ↔ (Vec.at t.crests c).speedMin.toNat < 1024) ∧
         (Vec.at t.crests c).lowRounds =
           (if (Vec.at t.crests c).speedMin.toNat < 1024 then satInc (Vec.at s.crests c).lowRounds else 0) ∧
         (∀ d, d ≠ c → Vec.at t.crests d = Vec.at s.crests d) ∧
         ((Vec.at t.crests c).lowAtMax ≠ 16 → t.pool = s.pool ∧ t.sched = s.sched ∧ t.run = s.run ∧ t.trio = s.trio)) ∧
     (∀ (a : Word) (c : Fin 6) (s : State), isPool a = true → poolCrest s (a.toNat / 8 * 8) = some c → crestOn s c = true →
       memWf s.pool = true → badIn s (a.toNat / 8 * 8) 8 = [] →
       let w := a.toNat / 8 * 8
       let corrected (t : State) : Prop :=
         (Vec.at t.crests c).eccCorr = satInc (Vec.at s.crests c).eccCorr ∧ t.pool = s.pool ∧ softIn t w 8 = [] ∧ badIn t w 8 = [] ∧
         ((Vec.at t.crests c).eccCorr = (Vec.at s.crests c).eccThr → (hdrAt t (.engine c)).raw.getLsbD 5 = true)
       (softIn s w 8 = [] → exec (.scrubWord a .clean) s = .next s) ∧
       (softIn s w 8 = [(c, w)] → ∃ t, exec (.scrubWord a .clean) s = .next t ∧ corrected t) ∧
       (softIn s w 8 = [] ∨ softIn s w 8 = [(c, w)] → ∃ t, exec (.scrubWord a .single) s = .next t ∧ corrected t) ∧
       (softIn s w 8 = [] → ∃ t, exec (.scrubWord a .double) s = .next t ∧
         (Vec.at t.crests c).eccUnc = satInc (Vec.at s.crests c).eccUnc ∧
         (Vec.at t.crests c).eccAddr = BitVec.ofNat 32 w ∧
         (hdrAt t (.engine c)).raw.getLsbD 6 = true ∧ t.super.urgent.getLsbD 9 = true ∧
         (if inRegions s.run.active w || inRegions s.run.shadow w then
           (Vec.at t.crests c).failAtRoundEnd = true ∧ t.pool = s.pool ∧ badIn t w 8 = [(c, w)]
         else badIn t w 8 = [] ∧ ∀ b, memGet t.pool b = if w ≤ b ∧ b < w + 8 then 0 else memGet s.pool b))))
/-! ### The timebase unit -/

namespace Sys2Proof.Stmt
open Sys2Proof Sys2Proof.Machine

/-- The native timebase in units of 2^-40 ns. -/
def nativeUnits (t : Timebase) : Nat := (t.sec.toNat * 1000000000 + t.ns.toNat) * 2 ^ 40 + t.frac.toNat

/-- An access to the timebase page answered as done: beside the answer and the page's counters only the timebase unit differs, by `f`. -/
def tbAccess (f : Timebase → Timebase) (s t : State) : Prop :=
  t.resp = .done ∧ t.tb = f s.tb ∧ countsOnly .timebase s t ∧
  { t with tb := s.tb, hdrs := s.hdrs, resp := s.resp, heldLow := s.heldLow } = s

/-- What an event of a page may change beside its own effect: headers, the recorder, the free-value count. -/
def eventFrame (s t : State) : Prop :=
  { t with hdrs := s.hdrs, recorder := s.recorder, free := s.free } = s

end Sys2Proof.Stmt

open Sys2Proof Sys2Proof.Machine Sys2Proof.Stmt in
/-- R261, R262, R267, R270: at a tick the native timebase gains TB_INCR, a written increment being in force from this tick on, the
nanoseconds field staying below 10^9, and the Gulny counter gains TB_GCNT_INCR. A written offset is in force from this tick; where it lowers
presented time, TB_EPOCH counts and EPOCH is raised. Nothing but the timebase unit and the performance counters changes, unless an epoch
begins or the native timebase reaches the instant of a pending one-shot, which then fires. (That a step on an empty queue is one tick is the
model's choice, log entry 2.) -/
def Obligations.EmptyQueueLetsOneTickPass : Prop :=
  ∀ s : State, s.pending = [] →
    let i := (s.tb.nextIncr.map fun v => v.toNat).getD (incr44 s.tb)
    let lower : Prop := ∃ v, s.tb.nextOffset = some v ∧ v.toInt < s.tb.offset.toInt
    0 < i → nativeUnits s.tb + i < 2 ^ 48 * 1000000000 * 2 ^ 40 →
    ∃ t, step s = .next t ∧
      t.tb.tick = s.tb.tick + 1 ∧ t.tb.ns.toNat < 1000000000 ∧
      nativeUnits t.tb = nativeUnits s.tb + i ∧ incr44 t.tb = i ∧ t.tb.nextIncr = none ∧
      t.tb.gulny.toNat * 2 ^ 24 + t.tb.gulnyFrac.toNat =
        (s.tb.gulny.toNat * 2 ^ 24 + s.tb.gulnyFrac.toNat + s.tb.gcntIncr.toNat) % 2 ^ 88 ∧
      t.tb.offset = s.tb.nextOffset.getD s.tb.offset ∧ t.tb.nextOffset = none ∧
      (lower → t.tb.epoch = s.tb.epoch + 1 ∧ (hdrAt t .timebase).raw.getLsbD 3 = true) ∧
      (¬ lower → t.tb.epoch = s.tb.epoch) ∧
      { t.tb with tick := s.tb.tick, sec := s.tb.sec, ns := s.tb.ns, frac := s.tb.frac, schedNs := s.tb.schedNs
                  schedFrac := s.tb.schedFrac, gulny := s.tb.gulny, gulnyFrac := s.tb.gulnyFrac
                  incrLo := s.tb.incrLo, incrHi := s.tb.incrHi, nextIncr := s.tb.nextIncr
                  offset := s.tb.offset, nextOffset := s.tb.nextOffset, epoch := s.tb.epoch
                  shot := s.tb.shot, ppsOut := s.tb.ppsOut } = s.tb ∧
      { t with tb := s.tb, hdrs := s.hdrs, recorder := s.recorder, free := s.free } = s ∧
      (∀ o b c, s.tb.shot = some (o, b, c) → (b.toNat * 1000000000 + c.toNat) * 2 ^ 40 ≤ nativeUnits s.tb + i →
        t.tb.shot = none ∧ (Vec.at t.tb.ppsOut o).high = true ∧ (hdrAt t .timebase).raw.getLsbD 5 = true) ∧
      ((∀ o b c, s.tb.shot = some (o, b, c) → nativeUnits s.tb + i < (b.toNat * 1000000000 + c.toNat) * 2 ^ 40) →
        t.tb.shot = s.tb.shot ∧
        (¬ lower → t.tb.ppsOut = s.tb.ppsOut ∧ { t with tb := s.tb, hdrs := s.hdrs } = s ∧
          (∀ pg, { hdrAt t pg with cnt := (hdrAt s pg).cnt } = hdrAt s pg)))

open Sys2Proof Sys2Proof.Machine Sys2Proof.Stmt in
/-- R262, R267, R281, R425: a write of TB_INCR_LO is held for its requester; TB_INCR_HI commits both words at the next tick and is refused with BAD_INCR outside
1.999 to 2.001 ns; TB_OFFSET's high word commits the offset at the next tick unless presented time would be negative; a Gulny load
below the counter is refused with BACKWARD. -/
def Obligations.TimebaseWritesCommitOrAreRefused : Prop :=
  ∀ (q : Req) (s : State), pgRefuses q .timebase s = false →
    (∀ v : Word, ∃ t, exec (.tbIncrLoWrite q v) s = .next t ∧ heldGet t q.who .timebase 0x120 = some v ∧
      (∀ w pg off, (w, pg, off) ≠ (q.who, Page.timebase, 0x120) → heldGet t w pg off = heldGet s w pg off) ∧
      tbAccess (fun b => { b with code := 0 }) s t) ∧
    (∀ v : Word,
      let w : BitVec 44 := v.setWidth 12 ++ (heldGet s q.who .timebase 0x120).getD s.tb.incrLo
      ∃ t, exec (.tbIncrHiWrite q v) s = .next t ∧ heldGet t q.who .timebase 0x120 = none ∧
        if 1999 * 2 ^ 40 ≤ w.toNat * 1000 ∧ w.toNat * 1000 ≤ 2001 * 2 ^ 40 then
          tbAccess (fun b => { b with nextIncr := some w, code := 0 }) s t
        else tbAccess (fun b => { b with code := 0x80 }) s t) ∧
    (∀ v : Word,
      let d : DWord := v ++ (heldGet s q.who .timebase 0x130).getD (s.tb.offset.setWidth 32)
      ∃ t, exec (.tbOffsetHiWrite q v) s = .next t ∧ heldGet t q.who .timebase 0x130 = none ∧
        if (nowNs s : Int) + d.toInt < 0 then tbAccess (fun b => { b with code := 0x83 }) s t
        else tbAccess (fun b => { b with nextOffset := some d, code := 0 }) s t) ∧
    (∃ t, exec (.gulnyLoad q) s = .next t ∧
      if s.tb.gload.toNat < s.tb.gulny.toNat then tbAccess (fun b => { b with code := 0x82 }) s t
      else tbAccess (fun b => { b with gulny := s.tb.gload, gulnyFrac := 0, code := 0 }) s t)

open Sys2Proof Sys2Proof.Machine Sys2Proof.Stmt in
/-- R265, R266, R280: STEP is refused with RANGE, BUSY or BIG_STEP, in this order, and else waits for its instant; applied, it adds its
value to the native timebase, raises STEP and keeps test pulses back for 10 ms; a one-shot is refused with LATE, where a tick that has
reached its instant lies within the lead time on the schedule clock (R58, R270), with NOT_IDLE or with RANGE, and
fires its output with SHOT at the first tick at which the native timebase reaches its instant. R264, R281: a read of TB_NOW_NS or
TB_GCNT_LO answers the count and latches the rest for the requester alone. R278, R279: the selected edge of an enabled PPS input captures
the native timebase unless its pulse is too short; an enabled PPS output rises at a whole second of its count unless 0.5 s have not
passed since its last edge, and falls after its width. (The order of the refusals of a one-shot, and that ONESHOT_FIRE and the PPS edges
take the clocks to their instant, are the model's reading, log entry 21.) -/
def Obligations.TimebaseStepOneShotReadsAndPulses : Prop :=
  ((∀ (q : Req) (s : State), pgRefuses q .timebase s = false →
       let big : Prop := 1000000000 < s.tb.stepSec.toNat * 1000000000 + s.tb.stepNs.toNat
       let range : Prop := 1000000000 ≤ s.tb.stepNs.toNat ∨ 2 ^ 48 ≤ s.tb.sec.toNat + s.tb.stepSec.toNat + 2
       ∃ t, exec (.tbStep q) s = .next t ∧
         (range → tbAccess (fun b => { b with code := 0x83 }) s t) ∧
         (¬ range → s.tb.stepPending.isSome = true → tbAccess (fun b => { b with code := 0x84 }) s t) ∧
         (¬ range → s.tb.stepPending = none → s.run.state = .running ∧ big → tbAccess (fun b => { b with code := 0x81 }) s t) ∧
         (¬ range → s.tb.stepPending = none → ¬ (s.run.state = .running ∧ big) →
           tbAccess (fun b => { b with stepPending := some (s.tb.stepSec, s.tb.stepNs), code := 0 }) s t)) ∧
     (∀ (s : State) (sec : Word) (ns : BitVec 30), s.tb.stepPending = some (sec, ns) →
       s.sched.running = true → (s.run.state = .running ∨ s.run.state = .observer ∨ s.run.state = .stopped) →
       exec .tbStepApply s = .next s) ∧
     (∀ (s : State) (sec : Word) (ns : BitVec 30), s.tb.stepPending = some (sec, ns) →
       ¬ (s.sched.running = true ∧ (s.run.state = .running ∨ s.run.state = .observer ∨ s.run.state = .stopped)) →
       nowNs s + sec.toNat * 1000000000 + ns.toNat < 2 ^ 48 * 1000000000 →
       ∃ t, exec .tbStepApply s = .next t ∧
         nowNs t = nowNs s + sec.toNat * 1000000000 + ns.toNat ∧ t.tb.stepPending = none ∧ t.tb.schedNs = s.tb.schedNs ∧
         t.field = { s.field with tpsHoldUntil := nowNs t + 10000000 } ∧
         (∀ o b c, s.tb.shot = some (o, b, c) → (t.tb.shot = none ↔ b.toNat * 1000000000 + c.toNat ≤ nowNs t)) ∧
         { t.tb with sec := s.tb.sec, ns := s.tb.ns, stepPending := s.tb.stepPending, shot := s.tb.shot, ppsOut := s.tb.ppsOut } = s.tb ∧
         (hdrAt t .timebase).raw.getLsbD 4 = true ∧
         { t with tb := s.tb, field := s.field, hdrs := s.hdrs, recorder := s.recorder, free := s.free } = s) ∧
     (∀ (q : Req) (o : Fin 2) (s : State), pgRefuses q .timebase s = false → 0 < incr44 (commitIncr s.tb) →
       let at_ := s.tb.shotSec.toNat * 1000000000 + s.tb.shotNs.toNat
       let late : Prop := ∃ k, at_ * 2 ^ 40 ≤ nativeUnits s.tb + k * incr44 (commitIncr s.tb) ∧
         k * schedIncr (commitIncr s.tb) < leadNs s * 2 ^ 40
       let busy : Prop := Vec.at s.tb.ppsEn o = true ∨ s.tb.shot.isSome = true
       ∃ t, exec (.oneshot q o) s = .next t ∧
         (late → tbAccess (fun b => { b with code := 0x20 }) s t) ∧
         (¬ late → busy → tbAccess (fun b => { b with code := 0x85 }) s t) ∧
         (¬ late → ¬ busy → 1000000000 ≤ s.tb.shotNs.toNat → tbAccess (fun b => { b with code := 0x83 }) s t) ∧
         (¬ late → ¬ busy → s.tb.shotNs.toNat < 1000000000 →
           tbAccess (fun b => { b with shot := some (o, s.tb.shotSec, s.tb.shotNs), code := 0 }) s t)) ∧
     (∀ (s : State) (o : Fin 2) (b : BitVec 48) (c : BitVec 30), s.tb.shot = some (o, b, c) → s.tb.nextIncr = none → 0 < incr44 s.tb →
       let due := (b.toNat * 1000000000 + c.toNat) * 2 ^ 40
       ∃ t k, exec .oneshotFire s = .next t ∧ t.tb.shot = none ∧ (Vec.at t.tb.ppsOut o).high = true ∧
         (Vec.at t.tb.ppsOut o).oneShot = true ∧ (Vec.at t.tb.ppsOut o).endTick = t.tb.tick + 500000 * (Vec.at s.tb.ppsWidth o).toNat ∧
         t.tb.tick = s.tb.tick + k ∧ due ≤ nativeUnits s.tb + k * incr44 s.tb ∧
         (k ≠ 0 → nativeUnits s.tb + (k - 1) * incr44 s.tb < due) ∧
         (∀ p, p ≠ o → (Vec.at t.tb.ppsOut p).high = (Vec.at s.tb.ppsOut p).high) ∧ (hdrAt t .timebase).raw.getLsbD 5 = true ∧
         { t with tb := s.tb, hdrs := s.hdrs, recorder := s.recorder, free := s.free } = s)) ∧
  ((∀ (q : Req) (s : State), pgRefuses q .timebase s = false →
       (∃ t, exec (.tbNowRead q) s = .next t ∧ t.resp = .value (s.tb.ns.setWidth 64) ∧
         latchGet t q.who .timebase 0x114 = s.tb.sec.setWidth 32 ∧
         (latchGet t q.who .timebase 0x118).toNat = s.tb.sec.toNat / 2 ^ 32 ∧
         (0 ≤ presentedNs s → presentedNs s < 2 ^ 48 * 1000000000 →
           (((latchGet t q.who .timebase 0x148).toNat * 2 ^ 32 + (latchGet t q.who .timebase 0x144).toNat) * 1000000000 +
             (latchGet t q.who .timebase 0x140).toNat : Int) = presentedNs s) ∧
         (∀ w pg off, w ≠ q.who → latchGet t w pg off = latchGet s w pg off) ∧
         countsOnly .timebase s t ∧ { t with latches := s.latches, hdrs := s.hdrs, resp := s.resp } = s) ∧
       (∃ t, exec (.tbGcntRead q) s = .next t ∧ t.resp = .value ((s.tb.gulny.setWidth 32).setWidth 64) ∧
         latchGet t q.who .timebase 0x150 = (s.tb.gulny >>> 32).setWidth 32 ∧
         (∀ w pg off, w ≠ q.who → latchGet t w pg off = latchGet s w pg off) ∧
         countsOnly .timebase s t ∧ { t with latches := s.latches, hdrs := s.hdrs, resp := s.resp } = s)) ∧
     (∀ (n : Fin 2) (falling short : Bool) (s : State),
       let takes : Prop := s.tb.ppsInCtrl.getLsbD (2 * n.val) = true ∧ s.tb.ppsInCtrl.getLsbD (2 * n.val + 1) = falling ∧ short = false
       (¬ takes → exec (.ppsInCapture n falling short) s = .next s) ∧
       (takes →
         ∃ t, exec (.ppsInCapture n falling short) s = .next t ∧
           Vec.at t.tb.ppsIn n = ⟨⟨s.tb.sec, s.tb.ns⟩, true, (Vec.at s.tb.ppsIn n).ovr || (Vec.at s.tb.ppsIn n).fresh⟩ ∧
           (∀ m, m ≠ n → Vec.at t.tb.ppsIn m = Vec.at s.tb.ppsIn m) ∧ (hdrAt t .timebase).raw.getLsbD n.val = true ∧
           eventFrame { s with tb := { s.tb with ppsIn := t.tb.ppsIn } } t) ∧
       (Vec.at s.tb.ppsEn n = false → exec (.ppsOutEdge n) s = .next s) ∧
       (Vec.at s.tb.ppsEn n = true →
         ∃ t, exec (.ppsOutEdge n) s = .next t ∧ t.tb.tick = s.tb.tick + ppsTicks s n ∧
           (Vec.at t.tb.ppsOut n).sec = ppsSecond t n ∧
           (let apart : Prop := ∀ k, (Vec.at s.tb.ppsOut n).lastEdge = some k → k + 250000000 ≤ t.tb.tick
            (apart → (Vec.at t.tb.ppsOut n).high = true ∧ (Vec.at t.tb.ppsOut n).lastEdge = some t.tb.tick ∧
              (Vec.at t.tb.ppsOut n).endTick = t.tb.tick + 500000 * (Vec.at s.tb.ppsWidth n).toNat) ∧
            (¬ apart → (Vec.at t.tb.ppsOut n).lastEdge = (Vec.at s.tb.ppsOut n).lastEdge)) ∧
           { t with tb := s.tb, hdrs := s.hdrs, recorder := s.recorder, free := s.free } = s) ∧
       ((Vec.at s.tb.ppsOut n).high = false → exec (.ppsOutPulseEnd n) s = .next s) ∧
       ((Vec.at s.tb.ppsOut n).high = true →
         ∃ t, exec (.ppsOutPulseEnd n) s = .next t ∧ (Vec.at t.tb.ppsOut n).high = false ∧
           t.tb.tick = s.tb.tick + ((Vec.at s.tb.ppsOut n).endTick - s.tb.tick) ∧
           { t with tb := s.tb, hdrs := s.hdrs, recorder := s.recorder, free := s.free } = s)))
/-! ### The schedule block, the application bank, forces, restart -/

namespace Sys2Proof.Stmt
open Sys2Proof Sys2Proof.Machine

/-- A command of the schedule page was refused with code `c`: REFUSED is raised, and nothing of the block but the code changes. -/
def schedRefused (c : Byte) (s t : State) : Prop :=
  t.resp = .done ∧ t.sched = { s.sched with code := c } ∧ (hdrAt t .schedule).raw.getLsbD 2 = true ∧
  eventFrame { s with sched := t.sched, resp := t.resp } t

/-- A command of the schedule page was carried out: the block changes by `f`, and nothing else but the answer and the page's count. -/
def schedDone (f : Sched → Sched) (s t : State) : Prop :=
  t.resp = .done ∧ t.sched = f s.sched ∧ countsOnly .schedule s t ∧
  { t with sched := s.sched, hdrs := s.hdrs, resp := s.resp } = s

/-- A command of the application bank was refused with code `c`: APP_REFUSED is raised. -/
def appRefused (c : Byte) (s t : State) : Prop :=
  t.resp = .done ∧ t.run = { s.run with appCode := c, appErr := 0 } ∧ (hdrAt t .runControl).raw.getLsbD 5 = true ∧
  eventFrame { s with run := t.run, resp := t.resp } t

/-- A command of the run-control page was carried out by `f`. -/
def runDone (f : RunCtl → RunCtl) (s t : State) : Prop :=
  t.resp = .done ∧ t.run = f s.run ∧ countsOnly .runControl s t ∧ { t with run := s.run, hdrs := s.hdrs, resp := s.resp } = s

/-- ACTIVATE or ARM was refused with KEY_LAYOUT: APP_ERR names the key at fault (R131). -/
def keysRefused (f : Fail) (s t : State) : Prop :=
  t.resp = .done ∧ t.run = { s.run with appCode := 0x29, appErr := BitVec.ofNat 32 f.index } ∧
  (hdrAt t .runControl).raw.getLsbD 5 = true ∧ eventFrame { s with run := t.run, resp := t.resp } t

/-- The frame of an accepted ACTIVATE or ARM: initial values enter the pool, EXCH_SEAL clears, and only a donor's copy may follow. -/
def armedFrameOf (im : AppImage) (s t : State) : Prop :=
  t.safety = { s.safety with exchSeal := false } ∧ t.pool = (writeInits im s).pool ∧
  countsOnly .runControl s t ∧
  { t with run := s.run, safety := s.safety, pool := s.pool, hdrs := s.hdrs, resp := s.resp, trio := s.trio, out := s.out } = s ∧
  (s.trio.copying = none → t.trio = s.trio ∧ t.out = s.out)

/-- The force on a point, if it has one. -/
def forceOn (s : State) (p : BitVec 16) : Option Force := (forceIdx s p).bind fun i => Vec.at s.run.forces i

/-- A change takes its place among those that wait: after those that act at an earlier round start, and after those of its own round start
that a member of the same or a lower number accepted. -/
def placed (x : Option Word × Nat × Fin 3) (old new : List (Option Word × Nat × Fin 3)) : Prop :=
  let first (y : Option Word × Nat × Fin 3) : Prop := y.2.1 < x.2.1 ∨ (y.2.1 = x.2.1 ∧ y.2.2 ≤ x.2.2)
  ∃ a b, old = a ++ b ∧ new = a ++ x :: b ∧ (∀ y ∈ a, first y) ∧ ∀ y ∈ b.head?, ¬ first y

/-- No two entries of the force table hold the same point. -/
def forcesDistinct (s : State) : Prop :=
  ∀ i j f g, Vec.at s.run.forces i = some f → Vec.at s.run.forces j = some g → f.point = g.point → i = j

end Sys2Proof.Stmt

open Sys2Proof Sys2Proof.Machine Sys2Proof.Stmt in
/-- R58, R59, R60: a schedule ACTIVATE is refused with the first failing check, in the order of the codes LATE, BUSY, NO_SHADOW,
APP_MISMATCH, TRIO_MISMATCH, with SHADOW unchanged, and else arms the bank for the frame in SCH_TARGET. (What a partner is here, and which
table SCH_ERR names for an implied unload, are the model's choice, log entries 25 and 96.) -/
def Obligations.ScheduleActivateChecksInCodeOrder : Prop :=
  ∀ (q : Req) (withApp trio : Bool) (s : State), pgRefuses q .schedule s = false →
    let f := s.sched.target
    let late : Prop := frameLate s f = true
    let noShadow (im : Option SchedImage) : Prop := s.sched.bank ≠ .valid ∨ im = none ∨
      (withApp = true ∧ ¬ (s.run.bank = .armed ∧ s.run.ownTarget = false))
    let lone : Prop := trio = false ∧ hasPartner s = true
    ∃ t, exec (.schActivate q withApp trio) s = .next t ∧
      (late → schedRefused 0x20 s t) ∧
      (¬ late → s.sched.bank = .armed → schedRefused 0x21 s t) ∧
      (¬ late → s.sched.bank ≠ .armed → noShadow s.sched.shadow → schedRefused 0x22 s t) ∧
      (∀ im, ¬ late → s.sched.bank = .valid → s.sched.shadow = some im → ¬ noShadow (some im) →
        (∀ e, appMismatch im (appInFrame s f withApp) = some e →
          t.sched = { s.sched with code := 0x24, errTable := BitVec.ofNat 8 e.table, errIndex := BitVec.ofNat 24 e.index } ∧
          (hdrAt t .schedule).raw.getLsbD 2 = true ∧ eventFrame { s with sched := t.sched, resp := t.resp } t) ∧
        (appMismatch im (appInFrame s f withApp) = none → lone → schedRefused 0x25 s t) ∧
        (appMismatch im (appInFrame s f withApp) = none → ¬ lone →
          t.sched = { s.sched with bank := .armed, code := 0, armedFrame := f, armedApp := withApp, armedTrio := trio } ∧
          t.run = (if withApp then { s.run with armedFrame := f } else s.run) ∧ countsOnly .schedule s t ∧
          { t with sched := s.sched, run := s.run, hdrs := s.hdrs, resp := s.resp } = s))

open Sys2Proof Sys2Proof.Machine Sys2Proof.Stmt in
/-- R57, R60, R62: LOAD and DISCARD are refused with BUSY while the bank is LOADING or ARMED; CANCEL is refused with LATE from the commit
point on and with NOT_ARMED where nothing is armed; validation ends in VALID or EMPTY and raises LOADED. (SCH_ERR after a validation that
succeeds is the model's choice, log entry 96.) -/
def Obligations.ScheduleLoadCancelDiscardValidation : Prop :=
  (∀ (q : Req) (s : State), pgRefuses q .schedule s = false →
    let busy : Prop := s.sched.bank = .loading ∨ s.sched.bank = .armed
    (∃ t, exec (.schLoad q) s = .next t ∧ (busy → schedRefused 0x21 s t) ∧
      (¬ busy → schedDone (fun x => { x with
        bank := .loading, shadow := none, shadowEnv := none, code := 0
        loadFrom := x.loadAddr.toNat * 64, loadBytes := x.loadLen.toNat }) s t)) ∧
    (∃ t, exec (.schDiscard q) s = .next t ∧ (busy → schedRefused 0x21 s t) ∧
      (¬ busy → schedDone (fun x => { x with bank := .empty, code := 0, shadow := none, shadowEnv := none }) s t)) ∧
    (∃ t, exec (.schCancel q) s = .next t ∧
      (s.sched.bank = .armed → pastCommit s s.sched.armedFrame = true → schedRefused 0x20 s t) ∧
      (s.sched.bank ≠ .armed → schedRefused 0x23 s t) ∧
      (s.sched.bank = .armed → pastCommit s s.sched.armedFrame = false →
        t.sched = { s.sched with bank := .valid, code := 0, armedApp := false, armedTrio := false } ∧
        (s.sched.armedApp = true → s.run.bank = .armed → s.run.ownTarget = false → t.run = { s.run with bank := .valid }) ∧
        (s.sched.armedApp = false → t.run = s.run) ∧
        countsOnly .schedule s t ∧ { t with sched := s.sched, run := s.run, hdrs := s.hdrs, resp := s.resp } = s))) ∧
  (∀ s : State, s.sched.bank = .loading →
    ∃ t, exec .schValidationEnd s = .next t ∧ (hdrAt t .schedule).raw.getLsbD 0 = true ∧
      (match (validateSched s).2.1 with
       | some f => t.sched = { s.sched with
           bank := .empty, code := BitVec.ofNat 8 f.code, errTable := BitVec.ofNat 8 f.table, errIndex := BitVec.ofNat 24 f.index }
       | none => t.sched.bank = .valid ∧ t.sched.code = 0 ∧ t.sched.active = s.sched.active ∧
           t.sched.shadow = some (schedOf (memRead s.sram s.sched.loadFrom s.sched.loadBytes).toArray)) ∧
      eventFrame { s with sched := t.sched, upd := { s.upd with env := t.upd.env } } t)

open Sys2Proof Sys2Proof.Machine Sys2Proof.Stmt in
/-- R125, R127 to R131: the application bank's LOAD, ACTIVATE, ARM, CANCEL and DISCARD with their refusals in code order, APP_ERR 0 for
every code but KEY_LAYOUT, and the end of its validation, which copies the code into the pool where the image passes. A donor forwards
what it writes to the pool (R190); on any other device nothing else changes. (Which checks are made without an active image, and what
APP_ERR holds, are the model's reading, log entry 24.) -/
def Obligations.ApplicationBankCommands : Prop :=
  (∀ (q : Req) (trio : Bool) (s : State), pgRefuses q .runControl s = false →
    let busy : Prop := s.run.bank = .loading ∨ s.run.bank = .armed
    let late : Prop := frameLate s s.run.appTarget = true
    (∃ t, exec (.appLoad q) s = .next t ∧ (busy → appRefused 0x21 s t) ∧
      (¬ busy → runDone (fun r => { r with
        bank := .loading, shadow := none, shadowEnv := none, appCode := 0, appErr := 0
        loadFrom := r.loadAddr.toNat * 64, loadBytes := r.loadLen.toNat }) s t)) ∧
    (∃ t, exec (.appDiscard q) s = .next t ∧ (busy → appRefused 0x21 s t) ∧
      (¬ busy → runDone (fun r => { r with bank := .empty, appCode := 0, appErr := 0, shadow := none, shadowEnv := none }) s t)) ∧
    (∃ t, exec (.appCancel q) s = .next t ∧
      (s.run.bank = .armed → appPastCommit s = true → appRefused 0x20 s t) ∧
      (s.run.bank ≠ .armed → appRefused 0x23 s t) ∧
      (s.run.bank = .armed → appPastCommit s = false →
        runDone (fun r => { r with bank := .valid, appCode := 0, appErr := 0, ownTarget := false, armedTrio := false }) s t)) ∧
    (∃ t, exec (.appActivate q trio) s = .next t ∧
      (late → appRefused 0x20 s t) ∧ (¬ late → s.run.bank = .armed → appRefused 0x21 s t) ∧
      (¬ late → s.run.bank ≠ .armed → (s.run.bank ≠ .valid ∨ s.run.shadow = none) → appRefused 0x22 s t) ∧
      (∀ im, ¬ late → s.run.bank = .valid → s.run.shadow = some im →
        (trio = false ∧ hasPartner s = true → appRefused 0x25 s t) ∧
        (∀ f, ¬ (trio = false ∧ hasPartner s = true) → keysBad s im = some f → keysRefused f s t) ∧
        (¬ (trio = false ∧ hasPartner s = true) → keysBad s im = none →
          t.run = { s.run with
            bank := .armed, appCode := 0, appErr := 0, ownTarget := true, armedTrio := trio, armedFrame := s.run.appTarget } ∧
          armedFrameOf im s t))) ∧
    (∃ t, exec (.appArm q) s = .next t ∧
      (s.run.bank = .armed → appRefused 0x21 s t) ∧
      (s.run.bank ≠ .armed → (s.run.bank ≠ .valid ∨ s.run.shadow = none) → appRefused 0x22 s t) ∧
      (∀ im, s.run.bank = .valid → s.run.shadow = some im →
        (∀ f, keysBad s im = some f → keysRefused f s t) ∧
        (keysBad s im = none →
          t.run = { s.run with bank := .armed, appCode := 0, appErr := 0, ownTarget := false, armedTrio := false } ∧
          armedFrameOf im s t)))) ∧
  (∀ s : State, s.run.bank = .loading →
    ∃ t, exec .appValidationEnd s = .next t ∧ (hdrAt t .runControl).raw.getLsbD 3 = true ∧
      (t.run.bank = .valid ∨ t.run.bank = .empty) ∧ t.run.active = s.run.active ∧
      (t.run.bank = .empty → t.run.appCode ≠ 0 ∧ t.pool = s.pool) ∧
      (t.run.bank = .valid → t.run.appCode = 0 ∧ ∃ im, t.run.shadow = some im ∧ im.config = s.part.code ∧ t.pool = (copyCode im s).pool) ∧
      eventFrame { s with
        run := t.run, pool := t.pool, trio := t.trio, out := t.out, upd := { s.upd with env := t.upd.env } } t ∧
      (s.trio.copying = none → t.trio = s.trio ∧ t.out = s.out))

open Sys2Proof Sys2Proof.Machine Sys2Proof.Stmt in
/-- R113 to R116: SET is refused with FULL, NO_POINT or SEALED in this order and changes nothing but the code; accepted, the force waits
two round starts after the round whose status publishes it, among the changes that wait in the order of their round starts (of one round
start in the order of the members that accepted them, log entry 110), FORCE_CHANGE is raised and FORCE_IND_N driven. CLEAR and CLEAR_ALL
remove in the same way, and CLEAR is refused with NOT_FORCED. At a round start every change that is due acts, the last one prevailing.
R120: RESTART is refused with LATE or, with partners, TRIO_MISMATCH, and else waits for its frame; at the start of that frame every
task of a stopped device resumes and RESTARTED is raised. (That membership of a trio counts as having partners, and that a restart acts on a
stopped device alone, is the model's reading, log entry 25; that a change accepted after the round's status has left waits one round start
more is log entry 89; that a second CLEAR is accepted, log entry 124.) -/
def Obligations.ForcesAndRestart : Prop :=
  (∀ (q : Req) (s : State), pgRefuses q .runControl s = false → forcesDistinct s →
       let p := s.run.frcPoint
       let v := s.run.frcValue
       let full : Prop := forceIdx s p = none ∧ ∀ i, (Vec.at s.run.forces i).isSome = true
       let k := if inTrio s = true ∧ s.trio.sentStatus.isSome = true then 3 else 2
       let sealed (trip : Bool) : Prop := trip = true ∧ sealMaint s = false
       let publishes (m : ForceMsg) (t : State) : Prop :=
         t.trio.forcesOut = if inTrio s then s.trio.forcesOut ++ [m] else s.trio.forcesOut
       let code (c : Byte) (t : State) : Prop := runDone (fun r => { r with frcCode := c }) s t
       let changed (t : State) : Prop := t.run.frcCode = 0 ∧ (hdrAt t .runControl).raw.getLsbD 0 = true ∧ t.forceInd = true ∧
         (∀ p', p' ≠ p → forceOn t p' = forceOn s p') ∧
         eventFrame { s with run := t.run, trio := { s.trio with forcesOut := t.trio.forcesOut }, forceInd := true, resp := .done } t ∧
         { t.run with forces := s.run.forces, frcCode := s.run.frcCode } = s.run
       (∃ t, exec (.frcSet q) s = .next t ∧
         (full → code 0x40 t) ∧ (¬ full → pointTrip s p = none → code 0x41 t) ∧
         (∀ trip, ¬ full → pointTrip s p = some trip → sealed trip → code 0x42 t) ∧
         (∀ trip, ¬ full → pointTrip s p = some trip → ¬ sealed trip →
           changed t ∧
           (forceOn s p = none → forceOn t p = some ⟨p, v, false, [(some v, k, me s)]⟩) ∧
           (∀ f, forceOn s p = some f → ∃ l, forceOn t p = some { f with pend := l } ∧ placed (some v, k, me s) f.pend l) ∧
           publishes ⟨p, v, false⟩ t)) ∧
       (∃ t, exec (.frcClear q) s = .next t ∧
         (forceIdx s p = none → code 0x43 t) ∧
         (∀ f, forceOn s p = some f → changed t ∧ (∃ l, forceOn t p = some { f with pend := l } ∧ placed (none, k, me s) f.pend l) ∧
           publishes ⟨p, 0, true⟩ t)) ∧
       (∃ t, exec (.frcClearAll q) s = .next t ∧ t.run.frcCode = 0 ∧ (hdrAt t .runControl).raw.getLsbD 0 = true ∧
         (∀ i, Vec.at s.run.forces i = none → Vec.at t.run.forces i = none) ∧
         (∀ i f, Vec.at s.run.forces i = some f →
           ∃ l, Vec.at t.run.forces i = some { f with pend := l } ∧ placed (none, k, me s) f.pend l) ∧
         (t.forceInd = true ↔ ∃ i, (Vec.at s.run.forces i).isSome = true) ∧
         eventFrame { s with run := t.run, trio := { s.trio with forcesOut := t.trio.forcesOut }, forceInd := t.forceInd, resp := .done } t ∧
         { t.run with forces := s.run.forces, frcCode := s.run.frcCode } = s.run) ∧
       (∃ t, exec .forceTakeEffect s = .next t ∧
         (∀ i f, Vec.at s.run.forces i = some f → (∀ x ∈ f.pend.head?, x.2.1 ≠ 0) → Vec.at t.run.forces i = some f) ∧
         (∀ i f due x rest, Vec.at s.run.forces i = some f → f.pend = due ++ x :: rest → (∀ y ∈ due, y.2.1 = 0) → x.2.1 = 0 →
           (∀ y ∈ rest.head?, y.2.1 ≠ 0) →
           (∀ u, x.1 = some u → Vec.at t.run.forces i = some { f with value := u, on := true, pend := rest }) ∧
           (x.1 = none → (∃ y ∈ rest, y.1.isSome = true) → Vec.at t.run.forces i = some { f with on := false, pend := rest }) ∧
           (x.1 = none → (∀ y ∈ rest, y.1 = none) → Vec.at t.run.forces i = none)) ∧
         (∀ i, Vec.at s.run.forces i = none → Vec.at t.run.forces i = none) ∧
         (t.forceInd = true ↔ ∃ i, (Vec.at t.run.forces i).isSome = true) ∧
         { t with run := { t.run with forces := s.run.forces }, forceInd := s.forceInd } = s)) ∧
  ((∀ (q : Req) (s : State), pgRefuses q .runControl s = false →
       ∃ t, exec (.runRestart q) s = .next t ∧
         (frameLate s s.run.target = true → runDone (fun r => { r with code := 0x20 }) s t) ∧
         (frameLate s s.run.target = false → inTrio s = true → runDone (fun r => { r with code := 0x25 }) s t) ∧
         (frameLate s s.run.target = false → inTrio s = false →
           runDone (fun r => { r with code := 0, restart := if r.state = .stopped then some r.target else none }) s t)) ∧
     (∀ (s : State) (f : DWord), s.run.restart = some f → s.run.state = .stopped → frameDue s f = true →
       ∃ t, exec .restartFrame s = .next t ∧ t.run.state = .running ∧ t.run.restart = none ∧
         (∀ x ∈ t.run.tasks, x.stopped = false) ∧ t.run.tasks.length = s.run.tasks.length ∧
         (hdrAt t .runControl).raw.getLsbD 6 = true ∧ eventFrame { s with run := t.run } t ∧
         (t.run.ran = true ↔ s.sched.frame = f ∧ s.sched.round = 0 ∧ s.sched.slotBegun = false ∧ s.sched.switched = false) ∧
         { t.run with state := s.run.state, restart := none, tasks := s.run.tasks, ran := s.run.ran } = { s.run with restart := none }))

namespace Sys2Proof.Stmt
open Sys2Proof Sys2Proof.Machine

/-- What the commit point does to the two banks (R60, R130, R451): the checks run, and a bank that fails one is cancelled with its code. -/
def banksDecided (s t : State) : Prop :=
  t.run.commitHeld = true ∧
  (appDue s = false → t.run = { s.run with commitHeld := true }) ∧
  (schedDue s = false → t.sched = s.sched) ∧
  (appDue s = true → ∀ c, appStage1 s = some c →
    t.run.bank = .valid ∧ t.run.appCode = c ∧ (hdrAt t .runControl).raw.getLsbD 5 = true ∧ (t.safety.exchSeal = true ↔ c = 0x27 ∨ s.safety.exchSeal = true)) ∧
  (schedDue s = true → ∀ c, schedStage1 s = some c →
    t.sched.bank = .valid ∧ t.sched.code = c ∧ (hdrAt t .schedule).raw.getLsbD 2 = true) ∧
  (∀ a, appDue s = true → appStage1 s = none → schedDue s = false → s.run.shadow = some a →
    (t.run.bank = .armed ↔ ∃ im, s.sched.active = some im ∧ im.appId = a.id)) ∧
  (∀ im, schedDue s = true → schedStage1 s = none → appDue s = false → s.sched.shadow = some im →
    (t.sched.bank = .armed ↔ ∃ a, s.run.active = some a ∧ im.appId = a.id)) ∧
  (∀ im a, schedDue s = true → appDue s = true → schedStage1 s = none → appStage1 s = none →
    s.sched.shadow = some im → s.run.shadow = some a →
    (t.sched.bank = .armed ↔ im.appId = a.id) ∧ (t.run.bank = .armed ↔ im.appId = a.id))

end Sys2Proof.Stmt

open Sys2Proof Sys2Proof.Machine Sys2Proof.Stmt in
/-- R60, R130, R191, R451: at the commit point an armed bank that fails its coordination, its seal check or its pairing check is cancelled
with the code of the first failing check, and one that passes stays armed; a rejoin ends there with ABORTED where a partner's swap is due,
which on a listening device, being a stop, cancels what is armed. At the start of the target frame, where no tile fails the device, the
banks change roles and SWAPPED or APP_SWAPPED is raised. Elsewhere the three commands change nothing. (That a swap is a command of its own
beside ROUND_START is the model's reading, log entry 29.) -/
def Obligations.CommitPointAndSwap : Prop :=
  (∀ s : State, lastRound s = false → exec .commitPoint s = .next s) ∧
  (∀ s : State, lastRound s = true → s.trio.phase ≠ 0 → swapPasses s = true →
    ∃ t, exec .commitPoint s = .next t ∧ t.trio.phase = 0 ∧ t.trio.code = 0x56 ∧ (hdrAt t .trio).raw.getLsbD 6 = true ∧
      (s.trio.role ≠ .listening → banksDecided s t ∧
        { t with run := s.run, sched := s.sched, safety := s.safety, trio := s.trio, hdrs := s.hdrs, recorder := s.recorder, free := s.free } = s) ∧
      (s.trio.role = .listening → t.run.state = .observer ∧ t.run.bank ≠ .armed ∧ t.sched.bank ≠ .armed)) ∧
  (∀ s : State, lastRound s = true → (s.trio.phase = 0 ∨ swapPasses s = false) →
    ∃ t, exec .commitPoint s = .next t ∧ banksDecided s t ∧
      { t with run := s.run, sched := s.sched, safety := s.safety, hdrs := s.hdrs, recorder := s.recorder, free := s.free } = s) ∧
  (∀ s : State, swapDue s = false → exec .scheduleSwap s = .next s) ∧
  (∀ s : State, swapDue s = true →
    ∃ t, exec .scheduleSwap s = .next t ∧ t.sched.bank = .valid ∧
      t.sched.frame = (if s.sched.switched then s.sched.frame else s.sched.frame + 1) ∧
      (s.sched.switched = false → t.sched.round = 0 ∧ t.sched.switched = true) ∧
      (s.sched.switched = true ∨ (∀ c, (Vec.at s.crests c).failAtRoundEnd = false ∧ (Vec.at s.crests c).exhausted = false) →
        t.sched.active = s.sched.shadow ∧ t.sched.shadow = s.sched.active ∧ (hdrAt t .schedule).raw.getLsbD 1 = true) ∧
      (s.sched.switched = true → eventFrame { s with sched := t.sched } t)) ∧
  (∀ s : State, exchangeDue s = false → exec .appExchange s = .next s) ∧
  (∀ (s : State) (old new : AppImage), exchangeDue s = true → s.run.active = some old → s.run.shadow = some new →
    ∃ t, exec .appExchange s = .next t ∧ t.run.bank = .valid ∧ (t.run.active = some new ∨ t.run.active = some old) ∧
      t.sched.frame = (if s.sched.switched then s.sched.frame else s.sched.frame + 1)) ∧
  (∀ (s : State) (old new : AppImage), exchangeDue s = true → s.sched.switched = false →
    s.run.active = some old → s.run.shadow = some new →
    (∀ c, (Vec.at s.crests c).failAtRoundEnd = false ∧ (Vec.at s.crests c).exhausted = false) →
    ∃ t, exec .appExchange s = .next t ∧ t.run.active = some new ∧ t.run.shadow = some old ∧ t.run.bank = .valid ∧
      (hdrAt t .runControl).raw.getLsbD 4 = true ∧ t.sched.frame = s.sched.frame + 1 ∧ t.sched.round = 0 ∧ t.sched.switched = true) ∧
  (∀ (s : State) (old new : AppImage), exchangeDue s = true → s.sched.switched = true →
    s.run.active = some old → s.run.shadow = some new →
    ∃ t, exec .appExchange s = .next t ∧ t.run.active = some new ∧ t.run.shadow = some old ∧ t.run.bank = .valid ∧
      (hdrAt t .runControl).raw.getLsbD 4 = true ∧ t.pool = s.pool ∧ t.sched = s.sched ∧
      (∀ i f, Vec.at s.run.forces i = some f →
        (Vec.at t.run.forces i = some f ↔
          ∃ k, (pointKey old f.point).map (fun x => x.1) = some k ∧ (pointKey new f.point).map (fun x => x.1) = some k)))
/-! ### Slots and rounds -/

namespace Sys2Proof.Stmt
open Sys2Proof Sys2Proof.Machine

/-- Memory `m` with the bytes of [a, b) possibly changed. -/
def sameOutside (m m' : Memory) (a b : Nat) : Prop := ∀ x, x < a ∨ b ≤ x → memGet m' x = memGet m x

/-- `t` comes from `s` by the things of a list taken in order, each as `R` says. -/
def inTurn {α : Type} (R : α → State → State → Prop) : List α → State → State → Prop
  | [], s, t => t = s
  | x :: xs, s, t => ∃ u, R x s u ∧ inTurn R xs u t

/-- The half of an engine that the slot's step does not use, and the half that the step before used. -/
def otherHalf (g : Engine) : Half := if g.half then g.half0 else g.half1
/-- See `otherHalf`. -/
def halfBefore (g : Engine) : Half := if g.taken then otherHalf g else curHalf g

/-- An engine takes its other half where that half holds the step it has in the slot and nothing keeps the step from starting (R71). -/
def takesHalf (im : SchedImage) (e : EngRef) (s t : State) : Prop :=
  let g := engineAt s e
  let starts : Prop := ∃ l x, logicalOf (Vec.at s.crests e.crest) e.eng = some l ∧ entryAt s im e.crest l s.sched.slot.toNat = some x ∧
    (Vec.at s.crests e.crest).retired.getLsbD e.eng.val = false ∧ stepOut s (descAt im x) = false ∧ (otherHalf g).desc = some (descAt im x)
  onlyEngine e s t ∧ (starts → engineAt t e = { g with half := !g.half, taken := true, unloaded := none }) ∧
  (¬ starts → engineAt t e = { g with taken := false, unloaded := none })

/-- The unload of a step of the slot before (R40, R88, R97): the state part of a step that ended with HALT goes to its pool bytes; an engine
that has been retired delivers nothing, and the step's task is abandoned. -/
def unloadedStep (im : SchedImage) (e : EngRef) (x : EngineStep) (s t : State) : Prop :=
  let d := descAt im x
  let h := halfBefore (engineAt s e)
  let n := 64 * d.stateLen.toNat
  ((Vec.at s.crests e.crest).retired.getLsbD e.eng.val = true →
    (taskRt t d.tenant d.task).abandoned = true ∧ { t with run := s.run, hdrs := s.hdrs } = s) ∧
  ((Vec.at s.crests e.crest).retired.getLsbD e.eng.val = false →
    { t with pool := s.pool, crests := s.crests, hdrs := s.hdrs } = s ∧ halfBefore (engineAt t e) = { h with desc := none, done := false } ∧
    (∀ r, getReg (engineAt t e) r = getReg (engineAt s e) r) ∧ (∀ y, y ≠ e → engineAt t y = engineAt s y) ∧
    (¬ (h.desc = some d ∧ h.done = true ∧ d.stateLen ≠ 0) → t.pool = s.pool) ∧
    (h.desc = some d → h.done = true → d.stateLen ≠ 0 → memWf s.pool = true →
      (∀ k, k < n → memGet t.pool (d.stateOut.toNat + k) = memGet h.mem (0x4000 + k)) ∧
      sameOutside s.pool t.pool d.stateOut.toNat (d.stateOut.toNat + n)))

/-- The load of a step of the next slot (R40, R95, R96, R169): the half that this slot's step does not use holds the code and the state of the
step, as the pool has them; a poisoned flit of them raises POISON. The first load of a task under repair that has not had its repair abandons
the task. A retired engine loads nothing. -/
def loadedStep (im : SchedImage) (e : EngRef) (x : EngineStep) (s t : State) : Prop :=
  let d := descAt im x
  let n := 64 * d.codeLen.toNat
  let m := 64 * d.stateLen.toNat
  let h := otherHalf (engineAt t e)
  let poisoned : Prop := spanBad s d.codeAddr n ≠ [] ∨ spanBad s d.stateIn m ≠ []
  ((Vec.at s.crests e.crest).retired.getLsbD e.eng.val = true → t = s) ∧
  ((Vec.at s.crests e.crest).retired.getLsbD e.eng.val = false →
    h.desc = some d ∧ h.codeLen = d.codeLen ∧ h.stateLen = d.stateLen ∧ h.done = false ∧ t.pool = s.pool ∧
    (n ≤ 0x4000 → ∀ k, k < n → memGet h.mem k = memGet s.pool (d.codeAddr.toNat + k)) ∧
    (∀ k, k < m → memGet h.mem (0x4000 + k) = memGet s.pool (d.stateIn.toNat + k)) ∧
    ((taskRt s d.tenant d.task).repair = true → (taskRt s d.tenant d.task).repaired = false → (taskRt t d.tenant d.task).abandoned = true) ∧
    (poisoned → (engineAt t e).x.cause = 9 ∧ (hdrAt t (.engine e.crest)).raw.getLsbD 0 = true ∧ (taskRt t d.tenant d.task).abandoned = true) ∧
    (¬ poisoned → (engineAt t e).x = (engineAt s e).x ∧ (engineAt t e).run = (engineAt s e).run) ∧
    (∀ y, y ≠ e → engineAt t y = engineAt s y) ∧
    { t with crests := s.crests, run := s.run, hdrs := s.hdrs, super := s.super, recorder := s.recorder, free := s.free } = s)

/-- The implied moves of an engine-step entry in the slot (R40): those of the physical engine that its tile's map gives it. -/
def impliedMoves (im : SchedImage) (x : EngineStep) (s t : State) : Prop :=
  let runs (c : Fin 6) (i : Fin 18) : Prop := x.crest.toNat = c.val ∧ crestLive s c = true ∧ timingActive x.t s.sched.round = true ∧
    physicalOf (Vec.at s.crests c) x.logical = some i
  (∀ c i, runs c i →
    (x.t.slot.toNat + 1 = s.sched.slot.toNat → unloadedStep im ⟨c, i⟩ x s t) ∧
    (x.t.slot.toNat = s.sched.slot.toNat + 1 → loadedStep im ⟨c, i⟩ x s t) ∧
    (x.t.slot.toNat + 1 ≠ s.sched.slot.toNat → x.t.slot.toNat ≠ s.sched.slot.toNat + 1 → t = s)) ∧
  ((∀ c i, ¬ runs c i) → t = s)

/-- Does a transfer move its data in its slot (R106, R169, R172)? One from a working copy of a task out of the round does not; mirror data move
to a member that takes them; a repair moves to a task under repair when it has arrived whole. -/
def moves (s : State) (e : Transfer) : Prop :=
  match moveFrom e with
  | .elsewhere => workingOut s e.src = false
  | .mirror p b => mirrorTakes s p b e.dst = true
  | .repairSlot p off => ∃ k, repairTask s off = some k ∧ (taskRt s k.tenant k.task).repair = true ∧ repairHere s p k = true

/-- A scheduled transfer (R43, R93, R95, R105, R134): each flit that carries no poison goes, as it stood at the start of the move, to its
destination, in the pool at once, in a loop record or a CAN transmit area at the end of the slot; a poisoned flit is discarded. What a commit
transfer replaces is kept for a stop in the round, and a repair marks its task. -/
def moved (e : Transfer) (s t : State) : Prop :=
  let n := e.len.toNat
  let src (k : Nat) : Word := e.src + BitVec.ofNat 32 (64 * k)
  let dst (k : Nat) : Word := e.dst + BitVec.ofNat 32 (64 * k)
  let good := (List.range n).filter fun k => flitGood s e.src k
  (¬ moves s e → t = s) ∧
  (moves s e →
    (isPool e.dst = true → e.dst.toNat + 64 * n ≤ 0x3000000 → memWf s.pool = true → t.staged = s.staged ∧
      (∀ k, k < n → ∀ j, j < 64 → memGet t.pool (e.dst.toNat + 64 * k + j) =
        if flitGood s e.src k then (readFlit s (src k)).getD j 0 else memGet s.pool (e.dst.toNat + 64 * k + j)) ∧
      sameOutside s.pool t.pool e.dst.toNat (e.dst.toNat + 64 * n)) ∧
    ((∀ k, k < n → isPool (dst k) = false) → t.pool = s.pool) ∧
    ((∀ k, k < n → isPool (dst k) = false ∧ endsWithSlot (dst k) = true) →
      t.staged = s.staged ++ good.map fun k => (dst k, readFlit s (src k))) ∧
    ((∀ k, k < n → isPool (dst k) = false ∧ endsWithSlot (dst k) = false) →
      let w := good.foldl (fun u k => writeFlit (dst k) (readFlit s (src k)) u) s
      t.staged = s.staged ∧ t.field = w.field ∧ t.panel = w.panel ∧ t.run.stations = w.run.stations) ∧
    (isCommit s e = true → t.run.undo = (e.dst.toNat, memRead s.pool e.dst.toNat (64 * n)) :: s.run.undo) ∧
    (isCommit s e = false → t.run.undo = s.run.undo) ∧
    (∀ p off k, moveFrom e = .repairSlot p off → repairTask s off = some k → (taskRt t k.tenant k.task).repaired = true) ∧
    t.sched = s.sched ∧ t.part = s.part ∧ t.upd = s.upd ∧ t.historian = s.historian)

/-- The flits of one exchange wait at both trio ports, behind what waited there: each flit that is not left out stands in just one frame, at its
offset; a frame takes up to 128 flits (R301). -/
def exchangeQueued (type : Byte) (n : Nat) (flit : Nat → Option (List Byte)) (s t : State) : Prop :=
  ∀ p, ∃ fs, (lineOf t p).queue = (lineOf s p).queue ++ fs ∧
    (∀ x ∈ fs, x.type = type ∧ x.target = 0xFF ∧ x.t = s.trio.t ∧ x.scheduled = true ∧ x.due = schedNow s ∧
      0 < x.len.toNat ∧ x.len.toNat ≤ 128 ∧ x.offset.toNat + x.len.toNat ≤ n ∧
      x.payload = .bytes ((List.range x.len.toNat).flatMap fun j => (flit (x.offset.toNat + j)).getD [])) ∧
    ∀ k, k < n → ((flit k).isSome = true ↔ (fs.filter fun x => decide (x.offset.toNat ≤ k) && decide (k < x.offset.toNat + x.len.toNat)).length = 1)

/-- A trio exchange in its slot (R50, R161, R172, R302): kind 0 sends the input flits of its entry, kind 1 the output flits with the abandoned
tasks marked, kind 2 the mirror data, kind 3 the alignment, kind 4 the status. -/
def exchanged (e : TrioExchange) (s t : State) : Prop :=
  let k := e.kind.toNat
  let n := e.len.toNat
  let flit (u : State) (j : Nat) : Option (List Byte) :=
    if flitGood u e.addr j then some (endpointBytes u (e.addr + BitVec.ofNat 32 (64 * j)) 64) else none
  (dueNow s e.t = false ∨ sendsKind s k = false → t = s) ∧
  (dueNow s e.t = true → sendsKind s k = true →
    (k = 0 → exchangeQueued 2 n (flit s) s t ∧ t.pool = s.pool) ∧
    (k = 1 → t.pool = (markTasks s).pool ∧ (s.trio.copying = none → exchangeQueued 3 n (flit (markTasks s)) s t)) ∧
    (k = 2 → ∃ data, exchangeQueued 4 n (fun j => data.getD j (some (List.replicate 64 0))) s t ∧ t.pool = s.pool ∧
      data = (mirrorData e s).1) ∧
    (k = 4 → ∀ st, st = ownStatus s → t.trio.sentStatus = some st ∧ t.trio.forcesOut = [] ∧ t.trio.forcesRefused = [] ∧
      ∀ p, ∃ fs, (lineOf t p).queue = (lineOf s p).queue ++ fs ∧ ∀ x ∈ fs, x.type = 5 ∧ x.t = s.trio.t ∧ ∃ d, x.payload = .status st d) ∧
    (k = 3 → ∀ p, ∃ fs, (lineOf t p).queue = (lineOf s p).queue ++ fs ∧ ∀ x ∈ fs, x.type = 1 ∧ x.payload = .align (alignFor s p)) ∧
    t.sched = s.sched ∧ t.staged = s.staged ∧ t.field = s.field ∧ t.part = s.part)

/-- A historian capture in its slot (R51, R370, R371): a block of its owner's staging with the round's instant, or a gap that tells why there is
none (2 poison, 3 an abandoned task, 1 no room); without a historian, or a drive that takes its class, it is counted as dropped. -/
def captured (im : SchedImage) (x : Capture × Nat) (s t : State) : Prop :=
  let e := x.1
  let n := e.len.toNat
  let poison : Prop := spanBad s e.src (64 * n) ≠ []
  let left : Prop := spanAbandoned s e.src = true
  let o := tenantOwner e.tenant
  let full : Prop := stagingShare s o < stagedBytes s o + 64 + (readSpan s e.src n).length
  let gap (cause : BitVec 3) : Prop := t.historian.gaps = satInc s.historian.gaps ∧
    (t.historian.staging = s.historian.staging ∨ ∃ b, t.historian.staging = s.historian.staging ++ [b] ∧ b.gap = true ∧ b.cause = cause ∧
      b.owner = o ∧ b.cls = e.cls ∧ b.data = [])
  (dueNow s e.t = false → t = s) ∧
  (dueNow s e.t = true →
    (s.historian.enabled = false ∨ classAccepted s e.cls = false →
      t.historian.dropped = satInc s.historian.dropped ∧ t.historian.staging = s.historian.staging) ∧
    (s.historian.enabled = true → classAccepted s e.cls = true →
      (poison → gap 2) ∧ (¬ poison → left → gap 3) ∧ (¬ poison → ¬ left → full → gap 1) ∧
      (¬ poison → ¬ left → ¬ full → ∃ b, t.historian.staging = s.historian.staging ++ [b] ∧ b.gap = false ∧ b.owner = o ∧ b.cls = e.cls ∧
        b.group = e.group ∧ b.data = readSpan s e.src n ∧ b.stamp = BitVec.ofNat 64 s.tb.lastR ∧ b.slot = s.sched.slot ∧
        b.round = s.sched.round ∧ b.frame = s.sched.frame ∧ b.entry = BitVec.ofNat 20 x.2 ∧ b.stream = streamOf im x.2 e ∧
        (e.group ≠ 0 → b.g = groupSeq s e.tenant e.group))) ∧
    t.pool = s.pool ∧ t.sched = s.sched)

/-- The loop steps of a tile that is ON, of which the first `n` end by the deadline (R133): the entries due in the slot step in table order,
the others write nothing, and the tile is late where there are such. -/
def loopsStepped (im : SchedImage) (ended : Vec (Option (BitVec 7)) 6) (c : Fin 6) (s t : State) : Prop :=
  let due := im.loopSteps.filter fun e => e.crest.toNat == c.val && dueNow s e.t
  let n := (Vec.at ended c).elim due.length fun k => k.toNat
  (crestLive s c = false → t = s) ∧
  (crestLive s c = true → ∃ u, (∀ d, Vec.at u.crests d = if d = c then { Vec.at s.crests c with loopsLate := decide (n < due.length) } else Vec.at s.crests d) ∧
    { u with crests := s.crests } = s ∧
    inTurn (fun x s t => t = runLoopEntry c x.1.loop ((due.take x.2).any fun y => y.loop == x.1.loop) s) (due.take n).zipIdx u t)

/-- A tile's tiles of the device that are present, in ascending position, and their engines. -/
def engineOrder (s : State) : List EngRef :=
  ((presentCrests s).filter (crestOn s)).flatMap fun c => (List.finRange 18).map fun i => ⟨c, i⟩

/-- An output group commits (R47, R222, R294): `eff` tells that the round before computed its outputs. A bank whose flit was written takes its
pending commands, a bank that was not keeps its own, and safe values that waited for the commit end; without outputs, what was pending is
dropped. The panel shows its pending segments, and a station's output frame is queued. -/
def groupCommits (eff : Bool) (g : IoGroup) (s t : State) : Prop :=
  let i := g.inst.toNat
  let bank (k : Nat) : Prop := k / 8 = i
  (g.cls = 2 → i < 3 →
    (∀ n : Fin 24, t.field.doCmd.getLsbD n.val =
      if eff = true ∧ bank n.val ∧ s.field.doNew.getLsbD i = true then s.field.doPend.getLsbD n.val else s.field.doCmd.getLsbD n.val) ∧
    (∀ n : Fin 24, t.field.doSafe.getLsbD n.val = if eff = true ∧ bank n.val then false else s.field.doSafe.getLsbD n.val) ∧
    (∀ k, t.field.doNew.getLsbD k = if k = i then false else s.field.doNew.getLsbD k) ∧ t.field.doPend = s.field.doPend) ∧
  (g.cls = 3 → i = 0 → t.field.tloCmd = (if eff = true ∧ s.field.tloNew = true then s.field.tloPend else s.field.tloCmd) ∧
    t.field.tloSafe = (if eff = true then 0 else s.field.tloSafe) ∧ t.field.tloNew = false) ∧
  (g.cls = 4 → i < 2 →
    (∀ n : Fin 16, Vec.at t.field.aoCmd n =
      if eff = true ∧ bank n.val ∧ s.field.aoNew.getLsbD i = true then Vec.at s.field.aoPend n else Vec.at s.field.aoCmd n) ∧
    (∀ n : Fin 16, t.field.aoSafe.getLsbD n.val = if eff = true ∧ bank n.val then false else s.field.aoSafe.getLsbD n.val)) ∧
  (g.cls = 5 → t.panel = if eff then { s.panel with target := s.panel.pend } else s.panel) ∧
  (g.cls = 6 → ∀ c, stationCfg s (stationOf i) = some c → sendsKeaco s = true → s.run.state = .running → (eff = true ∨ inTrio s = true) → ∃ f : QFrame,
    f.etherType = 0x88B5 ∧ f.station = some (stationOf i) ∧ f.dst = c.mac ∧ f.vlan = c.vlan ∧
    f.data = keacoFrame 2 i (2 + 4 * s.trio.member.toNat) (stationRt s (stationOf i)).sendSeq
      (if inTrio s then s.trio.roster.epoch else 0) (nowNs s) (memRead (stationRt s (stationOf i)).output 0 c.safePayload.length) ∧
    (portAt t c.portA).queue.getLast? = some f ∧ (portAt t c.portB).queue.getLast? = some f ∧
    (stationRt t (stationOf i)).sendSeq = (stationRt s (stationOf i)).sendSeq + 1)

/-- An input group is sampled (R47, R222, R318, R323): a DI bank's flit takes its latched values, a CAN controller's RX buffers are copied to
its latch with their NEW and OVR, which then clear in unlocked buffers, a latched UART's bytes move to its latch; the group counts as latched
now. Group classes of an absent or unpowered field tile are not sampled. -/
def groupSampled (g : IoGroup) (s t : State) : Prop :=
  let i := g.inst.toNat
  (g.cls.toNat ≤ 5 → fieldLive s = false → t = s) ∧
  (5 < g.cls.toNat ∨ fieldLive s = true →
    (∃ x, x = (g.cls, g.inst, s.tb.tick) ∧ x ∈ t.run.latched) ∧
    (∀ c j, (c, j) ≠ (g.cls, g.inst) → ∀ n, (c, j, n) ∈ t.run.latched ↔ (c, j, n) ∈ s.run.latched) ∧
    (g.cls = 0 → i < 8 → memWf s.field.flits = true →
      (∀ k, k < 8 →
        (memWord t.field.flits (64 * i)).getLsbD (2 * k) = s.field.diVal.getLsbD (8 * i + k) ∧
        (memWord t.field.flits (64 * i)).getLsbD (2 * k + 1) = s.field.diBrk.getLsbD (8 * i + k)) ∧
      memRead t.field.flits (64 * i + 56) 8 = bytesOf 8 (nowNs s) ∧ sameOutside s.field.flits t.field.flits (64 * i) (64 * i + 64)) ∧
    (∀ h : i < 16, g.cls = 7 →
      let x := Vec.at s.cans ⟨i, h⟩
      let y := Vec.at t.cans ⟨i, h⟩
      y.latch = (List.finRange 64).foldl (latchBuf x) x.latch ∧
      (∀ b : Fin 64, Vec.at x.kinds b = .rx → (x.lock = true ∧ x.sel.val = b.val) ∨ (y.fresh.getLsbD b.val = false ∧ y.ovr.getLsbD b.val = false)) ∧
      (∀ b : Fin 64, Vec.at x.kinds b ≠ .rx ∨ (x.lock = true ∧ x.sel.val = b.val) →
        y.fresh.getLsbD b.val = x.fresh.getLsbD b.val ∧ y.ovr.getLsbD b.val = x.ovr.getLsbD b.val)) ∧
    (∀ h : i < 8, g.cls = 8 → memWf (Vec.at s.uarts ⟨i, h⟩).latch = true →
      let x := Vec.at s.uarts ⟨i, h⟩
      let y := Vec.at t.uarts ⟨i, h⟩
      y.since = [] ∧ y.lost = false ∧ memWord y.latch 0 = num x.since.length 0 ||| flag x.lost 12 ∧
      memRead y.latch 8 8 = bytesOf 8 (nowNs s) ∧
      ∀ k, k < x.since.length → k < 3968 → memGet y.latch (0x80 + k) = x.since.getD k 0) ∧
    (g.cls = 6 → ∃ u, u = stationScan (stationOf i) s ∧ t.run.stations = u.run.stations ∧ t.pool = u.pool))

/-- What a round start makes of a tile's engines (R53, R99, R101): the commanded retirements are added in order, one that would leave no variant
is refused, and the variant of the retired set is in force. -/
def tileAtRound (im : SchedImage) (c : Fin 6) (s t : State) : Prop :=
  let a := Vec.at s.crests c
  let b := Vec.at t.crests c
  let add (r : BitVec 18) (i : Fin 18) : BitVec 18 := if 3 ≤ popcount (withEngines r [i]) then r else withEngines r [i]
  b.retired = a.toRetire.foldl add a.retired ∧ b.toRetire = [] ∧
  b.refused = (a.refused || a.toRetire.any fun i => !b.retired.getLsbD i.val) ∧
  (b.retired ≠ a.retired → (hdrAt t (.engine c)).raw.getLsbD 3 = true) ∧
  (∀ k e, (im.remaps.filter fun x => x.crest.toNat == c.val)[k]? = some e → e.retired = b.retired →
    (∀ j x, j < k → (im.remaps.filter fun x => x.crest.toNat == c.val)[j]? = some x → x.retired ≠ b.retired) →
    b.map = e.map ∧ b.variant = BitVec.ofNat 8 k) ∧
  ((∀ e ∈ im.remaps, e.crest.toNat = c.val → e.retired ≠ b.retired) → b.map = a.map ∧ b.variant = a.variant) ∧
  (∀ d, d ≠ c → Vec.at t.crests d = Vec.at s.crests d) ∧ { t with crests := s.crests, hdrs := s.hdrs, recorder := s.recorder, free := s.free } = s

end Sys2Proof.Stmt

open Sys2Proof Sys2Proof.Machine Sys2Proof.Stmt in
/-- R29, R31, R40, R43, R45, R50, R51, R105, R106, R134, R172, R319: SLOT_START moves on by one slot of the round, lets the writes that end with
a slot take effect, and makes the slot's moves in their order: implied loads and unloads, transfers, trio exchanges, historian captures; past the
last slot it does nothing.
R65, R71, R132, R133: STEP_START gives an engine that took a half for its step the start state of Table 3.1, and one whose step is out of the
round its half back; each tile's loop steps run in table order.
R86, R118: a step, a tile's loop steps or a transfer that has not ended at SLOT_DEADLINE lets the overrun watchdog stop the controller, an
engine step with DEADLINE, and where nothing is late only the clock moves.
R29, R60, R412, R416: the first ROUND_START begins frame 0, round 0, makes the state RUNNING and locks the pages that lock at the first round;
each later one begins the next round, or round 0 of the next major frame.
R47, R53, R101, R222, R272, R318, R323: at its boundary outputs commit, retirements and remap variants take effect, the trim follows, and inputs
are sampled. (The order within a slot, that a step unloads only after HALT, that a late loop step is an operand and which of several overruns
shows are the model's choices, log entries 26, 27, 67 and 113.) -/
def Obligations.RoundsSlotsStepsAndDeadlines : Prop :=
  ((∀ (s : State) (im : SchedImage), s.sched.active = some im → s.sched.running = true →
       let k := if s.sched.slotBegun then s.sched.slot.toNat + 1 else 0
       (k < im.roundSlots.toNat → ∀ upsets, ∃ t, exec (.slotStart upsets) s = .next t ∧
         t.sched = { s.sched with slot := BitVec.ofNat 20 k, slotBegun := true, canDone := [] } ∧ t.trio.roster = s.trio.roster ∧
         (∀ c, (Vec.at t.crests c).loopsLate = false) ∧
         (computes s = false → inTrio s = false → s.trio.phase ≠ 3 → s.staged = [] →
           t.pool = s.pool ∧ ∀ e, engineAt t e = { engineAt s e with taken := false }) ∧
         (let begun := endSlotWrites (upsets.foldl upset (reach (s.sched.roundNs + k * slotNsOf im) s))
          let due (u : State) := im.transfers.filter fun e => dueNow u e.t
          ∃ u0 u1 u2 u3 u4 u5,
            u0.sched = t.sched ∧ u0.tb = (reach (s.sched.roundNs + k * slotNsOf im) s).tb ∧ u0.pool = s.pool ∧ u0.staged = [] ∧
            (∀ c, Vec.at u0.crests c = { Vec.at begun.crests c with loopsLate := false }) ∧ { u0 with sched := s.sched, crests := begun.crests } = begun ∧
            (computes u0 = true → inTurn (takesHalf im) (engineOrder u0) u0 u1 ∧ inTurn (impliedMoves im) im.engineSteps u1 u2) ∧
            (computes u0 = false → (∀ e, engineAt u2 e = { engineAt u0 e with taken := false }) ∧ { u2 with crests := u0.crests } = u0) ∧
            (computes u2 = true → inTurn moved (due u2) u2 u3) ∧
            (computes u2 = false → u2.trio.phase = 3 → inTurn moved ((due u2).filter fun e => match moveFrom e with
              | .mirror _ _ => true
              | _ => false) u2 u3) ∧
            (computes u2 = false → u2.trio.phase ≠ 3 → u3 = u2) ∧
            inTurn exchanged im.exchanges u3 u4 ∧ u5 = drainTrio u4 ∧
            (computes u5 = true → inTurn (captured im) im.captures.zipIdx u5 t) ∧ (computes u5 = false → t = u5))) ∧
       (im.roundSlots.toNat ≤ k → ∀ upsets, exec (.slotStart upsets) s = .next s)) ∧
     (∀ s : State, inTurn (fun x u v => v = writeFlit x.1 x.2 u) s.staged { s with staged := [] } (endSlotWrites s)) ∧
     (∀ (x : Word) (d : List Byte) (s : State),
       (∀ c : Fin 6, epTile x = c.val + 1 → memWf (Vec.at s.crests c).loop.mem = true →
         let m := (Vec.at (writeFlit x d s).crests c).loop.mem
         (∀ k, k < d.length → memGet m (epOff x + k) = d.getD k 0) ∧
         sameOutside (Vec.at s.crests c).loop.mem m (epOff x) (epOff x + d.length)) ∧
       (∀ c : Fin 16, epTile x = 0 → 0x3200000 + 0x2000 * c.val ≤ epOff x → epOff x < 0x3202000 + 0x2000 * c.val →
         memWf (Vec.at s.cans c).txData = true →
         let m := (Vec.at (writeFlit x d s).cans c).txData
         (∀ k, k < d.length → memGet m (epOff x % 0x2000 + k) = d.getD k 0) ∧
         sameOutside (Vec.at s.cans c).txData m (epOff x % 0x2000) (epOff x % 0x2000 + d.length))) ∧
     (∀ (s : State) (im : SchedImage), s.sched.active = some im → s.sched.running = true → s.sched.slotBegun = true →
       computes s = true → ∀ upsets ended,
       ∃ t v, exec (.stepStart upsets ended) s = .next t ∧ t.pool = s.pool ∧ t.sched = s.sched ∧
       (∀ c, (Vec.at v.crests c).loop = (Vec.at s.crests c).loop) ∧ v.sched = s.sched ∧
       v.tb = (reach (s.sched.roundNs + s.sched.slot.toNat * slotNsOf im + 40) s).tb ∧ inTurn (loopsStepped im ended) (presentCrests s) v t ∧
       ∀ (c : Fin 6) (i : Fin 18) (l : Nat) (x : EngineStep),
         c.val < s.part.crests → crestOn s c = true → logicalOf (Vec.at s.crests c) i = some l →
         entryAt s im c l s.sched.slot.toNat = some x →
         ((Vec.at t.crests c).loopsLate = true ↔ ∃ n, Vec.at ended c = some n ∧ n.toNat < (loopsDue im s c).length) ∧
         ((engineAt s ⟨c, i⟩).taken = true →
           (Vec.at s.crests c).retired.getLsbD i.val = false → stepOut s (descAt im x) = false →
           (curHalf (engineAt s ⟨c, i⟩)).desc = some (descAt im x) →
           let g := engineAt t ⟨c, i⟩
           (∀ r, getReg g r = 0) ∧ g.pc = 0 ∧ g.acc = 0 ∧ g.mode = 0x14 ∧ g.modeNext = none ∧ g.flags = 0 ∧ g.loops = [] ∧ g.delay = none ∧
           (∃ r, g.run = some r ∧ r.desc = descAt im x ∧ r.slot = s.sched.slot ∧ r.logical.toNat = l % 16) ∧
           sameHalves { engineAt s ⟨c, i⟩ with run := g.run } g) ∧
         ((engineAt s ⟨c, i⟩).taken = true → (Vec.at s.crests c).retired.getLsbD i.val = true ∨ stepOut s (descAt im x) = true →
           engineAt t ⟨c, i⟩ = { engineAt s ⟨c, i⟩ with
             half := !(engineAt s ⟨c, i⟩).half, half0 := (engineAt s ⟨c, i⟩).half1, half1 := (engineAt s ⟨c, i⟩).half0, taken := false }) ∧
         ((engineAt s ⟨c, i⟩).taken = false → engineAt t ⟨c, i⟩ = engineAt s ⟨c, i⟩)) ∧
     (∀ (s : State) (im : SchedImage) (c : Fin 6) (i : Fin 18) (r : StepRun) (late : BitVec 8),
       s.sched.active = some im → s.sched.running = true → s.sched.slotBegun = true → s.run.state = .running → inTrio s = false →
       c.val < s.part.crests → (engineAt s ⟨c, i⟩).run = some r →
       ∃ t, exec (.slotDeadline late) s = .next t ∧ raisesX ⟨c, i⟩ 7 0 s t ∧
         (hdrAt t (.engine c)).raw.getLsbD 7 = true ∧ t.run.ovrSlot = s.sched.slot ∧ t.run.ovrFrame = s.sched.frame ∧ t.run.ovrCause = 1 ∧
         t.run.state = .stopped ∧ t.super.urgent.getLsbD 13 = true ∧ (hdrAt t .runControl).raw.getLsbD 1 = true ∧
         (Vec.at t.crests c).retired = (Vec.at s.crests c).retired) ∧
     (∀ (s : State) (im : SchedImage) (late : BitVec 8),
       s.sched.active = some im → s.sched.running = true → s.sched.slotBegun = true → s.run.state = .running → inTrio s = false →
       (∀ e, (engineAt s e).run = none) →
       ((∃ c : Fin 6, c.val < s.part.crests ∧ (Vec.at s.crests c).loopsLate = true) ∨ (∃ k < 8, late.getLsbD k = true ∧ s.part.hasTile k = true)) →
       ∃ t, exec (.slotDeadline late) s = .next t ∧ t.crests = s.crests ∧ t.run.ovrSlot = s.sched.slot ∧ t.run.ovrFrame = s.sched.frame ∧
         (t.run.ovrCause = 2 ↔ ∃ c : Fin 6, c.val < s.part.crests ∧ (Vec.at s.crests c).loopsLate = true) ∧
         ((∀ c, (Vec.at s.crests c).loopsLate = false) → t.run.ovrCause = 3) ∧
         t.run.state = .stopped ∧ t.super.urgent.getLsbD 13 = true ∧ (hdrAt t .runControl).raw.getLsbD 1 = true) ∧
     (∀ (s : State), (∀ e, (engineAt s e).run = none) → (∀ c, (Vec.at s.crests c).loopsLate = false) →
       ∃ t, exec (.slotDeadline 0) s = .next t ∧ t.sched = s.sched ∧ t.crests = s.crests ∧ t.pool = s.pool ∧
         t.run = s.run)) ∧
  ((∀ s : State, s.sched.running = false →
       (mayBegin s = false → exec .roundStart s = .next s) ∧
       (mayBegin s = true → s.run.state = .starting →
         ∃ t, exec .roundStart s = .next t ∧ t.sched.running = true ∧ t.sched.frame = 0 ∧ t.sched.round = 0 ∧ t.sched.slot = 0 ∧
           t.run.state = .running ∧ t.sched.frameNs = t.sched.roundNs ∧
           (∀ pg ∈ [Page.timebase, .power, .mailbox, .secMailbox], (hdrAt t pg).lock = true) ∧
           t.otp = s.otp ∧ t.part = s.part) ∧
       (mayBegin s = true → s.run.state = .stopped →
         ∃ t, exec .roundStart s = .next t ∧ t.sched.running = true ∧ t.sched.frame = 0 ∧ t.sched.round = 0 ∧ t.sched.slot = 0 ∧
           t.run.state = .stopped ∧ t.otp = s.otp ∧ t.part = s.part)) ∧
     (∀ (s : State) (im : SchedImage), s.sched.running = true → s.sched.active = some im → s.upd.restart = none → s.sched.switched = false →
       ∃ t, exec .roundStart s = .next t ∧ t.sched.slot = 0 ∧ t.sched.slotBegun = false ∧ t.sched.running = true ∧
         (s.sched.round.toNat + 1 = frameRoundsOf im → t.sched.round = 0 ∧ t.sched.frame = s.sched.frame + 1) ∧
         (s.sched.round.toNat + 1 ≠ frameRoundsOf im → t.sched.round = s.sched.round + 1 ∧ t.sched.frame = s.sched.frame) ∧
         t.sched.roundNs = s.sched.roundNs + roundNsOf im ∧ t.otp = s.otp ∧ t.part = s.part ∧
         (let b := reach (nextRoundNs s) s
          let u := applyRoster (noteMirror (endTasks (endTiles (judgeOutputs (latchField (applyStep (endSlotWrites b)))))))
          t = newRound false (toNextRound (commits (nextRound b) u)))) ∧
     (∀ s : State, s.sched.running = true → s.upd.restart = none → s.sched.switched = true →
       exec .roundStart s = .next (newRound false s)) ∧
     (∀ (r : BitVec 10) (s : State),
       let gs := s.sched.active.elim [] fun im => im.ioGroups.filter fun g => g.commit && timingActive g.t r
       let eff := s.run.ran && computes s
       ∃ u v, inTurn (groupCommits eff) gs u v ∧ commits r s = refreshField v ∧ (eff = false → u = s) ∧
         (eff = true → { u with run := s.run } = s ∧ { u.run with outValues := s.run.outValues } = s.run ∧
           ((outPoints s).Pairwise (fun p q => p.number ≠ q.number) → ∀ p ∈ outPoints s,
             let commits : Prop := commitsWith gs p = true ∧ badIn s p.place.addr 4 = []
             (commits → u.run.outValues.lookup p.number = some (placeValue p.place (memWord s.pool p.place.addr))) ∧
             (¬ commits → u.run.outValues.lookup p.number = s.run.outValues.lookup p.number)))) ∧
     (∀ (s : State) (im : SchedImage), s.sched.active = some im →
       let now := { s with sched := { s.sched with
         switched := false, swapped := false, slotBegun := false, armedApp := s.sched.armedApp && s.sched.bank == .armed } }
       let before := (schedBefore s).elim 0 roundNsOf
       let u0 := roundInstant before (if inTrio s then alignTrim now else now)
       ∃ u1 u2, inTurn (tileAtRound im) (presentCrests s) u0 u1 ∧
         (let gs := im.ioGroups.filter fun g => g.sample && timingActive g.t s.sched.round
          inTurn groupSampled ((gs.filter fun g => g.cls != 6) ++ (List.range 256).flatMap fun n => gs.filter fun g => g.cls == 6 && g.inst.toNat == n)
            (shiftTasks (shiftTrio false u1)) u2) ∧
         (let w := takeSeal (ageKeys (ageForces (stoppedHolds u2)))
          newRound false s = countGroups (bump .runControl 0x10 1 (forwardChanges w (scanConns (deliverAllCalls w)))))) ∧
     (∀ (s : State) (a : Fin 3) (im : SchedImage) (th2 d : Int), isReference s = false → activeMember s = some a → s.sched.active = some im →
       (thetaDelay s a = none → (alignTrim s).tb.trim = s.tb.trim) ∧
       (thetaDelay s a = some (th2, d) → (alignTrim s).tb.trim = BitVec.ofInt 32 (nextTrim (roundNsOf im) th2 s.tb.thetas s.tb.trims) ∧
         (alignTrim s).tb.theta = nearest 32 (th2 / 2))) ∧
     (∀ (roundNs : Nat) (th2 : Int) (thetas : List (Option Int)) (trims : List Int),
       let limit (x : Int) : Int := max (-200000000) (min 200000000 x)
       let turn : Int := th2 * 500000000000 / (8 * roundNs)
       ((∀ x ∈ thetas.take 8, x = none) → nextTrim roundNs th2 thetas trims = limit (-turn)) ∧
       (∀ k old, k < 8 → thetas[k]? = some (some old) → (∀ j, k < j → j < 8 → ∀ x, thetas[j]? = some x → x = none) →
         nextTrim roundNs th2 thetas trims =
           limit (-((th2 - old) * 500000000000 / (roundNs * ((k + 1 : Nat) : Int)) - ((trims.drop 2).take (k + 1)).sum / ((k + 1 : Nat) : Int)) - turn))))

namespace Sys2Proof.Stmt
open Sys2Proof Sys2Proof.Machine

/-- A page wrote one event record of the number `n`, where the event queue had room. -/
def recorded (pg : Page) (n : Nat) (s t : State) : Prop :=
  s.recorder.queue.length < 256 → ∃ x, t.recorder.queue = queueEntry x s.recorder.queue ∧ x.1.source = (blkId pg).setWidth 16 ∧
    x.1.code = BitVec.ofNat 16 (((pgType pg).toNat % 128) * 256 + n) ∧ x.2.1 = nowInstant s

/-- The switch of a tile that is present keeps `x`, has raised bit 1 and has written its record. -/
def switchTold (k : Nat) (x : Switch) (s t : State) : Prop :=
  switchAt t k = x ∧ ∀ pg, switchPage k = some pg → pgPresent s.part pg = true → (hdrAt t pg).raw.getLsbD 1 = true ∧ recorded pg 1 s t

/-- What the switch keeps of a packet it refused, or discarded. -/
def keptOf (p : Packet) (discarded : Bool) (x : Switch) : Switch :=
  { x with lastAddr := p.addr, lastTenant := p.tenant.getD 0, lastUntagged := p.tenant.isNone, lastKind := discarded }

/-- Does a packet wait at the input of a link direction? -/
def waitsAt (s : State) (ld : LinkDir) (p : Packet) : Prop := ∃ k, waitsFor s p = some (ld.link.val, ld.back, k)

/-- A link direction with room for `room` flits has served the packets `ps` in their order: one whose flits all fit stands in the next
tile's switch, one whose flits fit in part has the rest still to send, and packets that wait elsewhere are as they were (R16). -/
def linkServed (s : State) (ld : LinkDir) (room : Nat) (ps qs : List Packet) : Prop :=
  qs.length = ps.length ∧ ∀ (i : Nat) (p : Packet), ps[i]? = some p → ∃ q, qs[i]? = some q ∧
    (¬ waitsAt s ld p → q = p) ∧
    (∀ (k : Fin 8), waitsFor s p = some (ld.link.val, ld.back, k.val) →
      let ahead := flitsWaiting { s with packets := ps.take i } ld
      (ahead + p.waiting ≤ room → q = { p with waiting := 0, tile := k, hop := p.hop + 1 }) ∧
      (room < ahead + p.waiting → q = { p with waiting := min p.waiting (ahead + p.waiting - room) }))

/-- What handling as a failed self-test leaves (R18): before the first round the start fails with `code`; with rounds and no trio the
controller is stopped, in a trio the member has given up. -/
def handledAsFailed (code : Byte) (tile : BitVec 3) (s t : State) : Prop :=
  (startingUp s = true → t.pwr.stage = 15 ∧ t.pwr.startCode = code ∧ t.pwr.startTile = tile ∧ t.run.state = .starting) ∧
  (startingUp s = false → s.run.state = .running → inTrio s = false → t.run.state = .stopped) ∧
  (startingUp s = false → s.run.state = .running → inTrio s = true → t.trio.gaveUp = true) ∧
  (startingUp s = false → s.run.state = .observer → inTrio s = true → s.trio.gaveUp = false → t.trio.gaveUp = true ∧ t.trio.cause = 0x01) ∧
  (startingUp s = false → s.run.state = .observer → inTrio s = false ∨ s.trio.gaveUp = true → t.run.state = .stopped)

/-- Why the switch a packet stands in cannot send it on: no code is left, its tile is absent, its code names no port with a link, or the tile
it is delivered at does not own its address (R17). -/
def undeliverable (s : State) (p : Packet) : Prop :=
  let code := routePort p.route p.hop
  routeCodes p.route ≤ p.hop ∨ s.part.hasTile p.tile.val = false ∨ (code = 8 ∧ ownsAddress s p = false) ∨
  (code ≠ 8 ∧ (codePort p.tile.val code).bind (s.part.hop p.tile.val) = none)

end Sys2Proof.Stmt

open Sys2Proof Sys2Proof.Machine Sys2Proof.Stmt in
/-- R16 to R20, R31, R92, R330, R351: a launched packet carries the tag in force at its launch and stands in the switch of its route's first
tile, and one too many or too long is not launched; a packet whose code names a link goes on to the next tile as far as the open window takes
its flits, behind those that wait there; delivered, a read answers the pool's bytes, with an error where a word of them is uncorrectable, and a
write within the tenant's regions stores them, while one outside is refused with an error, counted at the switch that owns the address, and
recorded; a packet that cannot be sent on, at an absent tile too, is discarded with an error and counted; an open window begins once in a slot and sends
what fits of the flits that wait; a flit that fails is counted at its sender, and the third failure takes its link down, which is a failed
self-test. (That a route's DST is not read and codes 6 and 7 name FP0, that a link direction without a schedule is open, that a link that is
down is still served, that the spec leaves open what else the field link's fall raises, and that a flit's last failure is an operand are the
model's choices, log entries 63, 74, 75, 108 and 109.) -/
def Obligations.FabricPacketsAndFlits : Prop :=
  (∀ (src : BeSource) (route addr : Word) (kind : BeKind) (s : State),
    (s.packets.countP (fun p => p.src == src) < flightLimit src → kindLen kind ≤ 256 →
      ∃ t p, exec (.bePacketLaunch src route addr kind) s = .next t ∧ t.packets = s.packets ++ [p] ∧
        p.src = src ∧ p.route = route ∧ p.addr = addr ∧ p.kind = kind ∧ p.hop = 0 ∧ p.waiting = 0 ∧ p.tile.val = (route.setWidth 3).toNat ∧
        p.request = none ∧
        (∀ c, src = .core c → p.tenant = if (Vec.at s.super.tags c).kernel then none else some (Vec.at s.super.tags c).tenant) ∧
        { t with packets := s.packets, nextPacket := s.nextPacket } = s) ∧
    (flightLimit src ≤ s.packets.countP (fun p => p.src == src) ∨ 256 < kindLen kind →
      exec (.bePacketLaunch src route addr kind) s = .next s)) ∧
  (∀ (s : State) (p : Packet) (upsets : List Upset), (∀ x ∈ s.packets, x.id = p.id → x = p) → p ∈ s.packets → p.waiting = 0 →
    undeliverable s p →
    ∃ t, exec (.bePacketArrive p.id upsets) s = .next t ∧ t.resp = .error ∧ t.pool = s.pool ∧ t.packets = s.packets.filter (fun x => x.id != p.id) ∧
      (p.tile.val < 7 → switchTold p.tile.val (keptOf p true { switchAt s p.tile.val with refuseRoute := satInc (switchAt s p.tile.val).refuseRoute }) s t) ∧
      (p.request = none → { t with
        packets := s.packets, resp := s.resp, hub := s.hub, crests := s.crests, hdrs := s.hdrs, recorder := s.recorder, free := s.free } = s)) ∧
  (∀ (s : State) (p : Packet) (upsets : List Upset) (q : Nat) (ld : LinkDir) (k : Fin 8),
    (∀ x ∈ s.packets, x.id = p.id → x = p) → p ∈ s.packets → p.waiting = 0 →
    p.hop < routeCodes p.route → s.part.hasTile p.tile.val = true → routePort p.route p.hop ≠ 8 →
    codePort p.tile.val (routePort p.route p.hop) = some q → s.part.hop p.tile.val q = some (ld.link.val, ld.back, k.val) →
    ∃ t, exec (.bePacketArrive p.id upsets) s = .next t ∧
      linkServed s ld (windowRoom s ld)
        (s.packets.filter (fun x => x.id != p.id) ++ [{ p with waiting := match p.kind with | .read _ => 1 | .write d => 1 + (d.length + 63) / 64 }])
        t.packets ∧
      { t with packets := s.packets, opened := s.opened, hdrs := s.hdrs, crests := s.crests } = s ∧ (upsets = [] → t.crests = s.crests)) ∧
  (∀ (s : State) (p : Packet), (∀ x ∈ s.packets, x.id = p.id → x = p) → p ∈ s.packets → p.waiting = 0 →
    p.hop < routeCodes p.route → s.part.hasTile p.tile.val = true → routePort p.route p.hop = 8 → ownsAddress s p = true →
    (∀ n upsets, p.kind = .read n →
      (badIn (upsets.foldl upset s) p.addr.toNat n = [] →
        ∃ t, exec (.bePacketArrive p.id upsets) s = .next t ∧
          t.resp = .bytes ((List.range n).map fun k => memGet s.pool (p.addr.toNat + k)) ∧
          t.packets = s.packets.filter (fun x => x.id != p.id) ∧
          (p.request = none → { t with packets := s.packets, resp := s.resp, crests := s.crests, hdrs := s.hdrs, recorder := s.recorder, free := s.free } = s) ∧
          (upsets = [] → softIn s p.addr.toNat n = [] → t.crests = s.crests)) ∧
      (∀ c w, (c, w) ∈ badIn (upsets.foldl upset s) p.addr.toNat n →
        ∃ t, exec (.bePacketArrive p.id upsets) s = .next t ∧ t.resp = .error ∧ t.pool = s.pool ∧
          t.super.urgent.getLsbD 9 = true ∧ (hdrAt t (.engine c)).raw.getLsbD 6 = true)) ∧
    (∀ d upsets, p.kind = .write d → memWf s.pool = true →
      (mayWrite s p.tenant p.addr.toNat d.length = true →
        ∃ t, exec (.bePacketArrive p.id upsets) s = .next t ∧ t.resp = .done ∧
          (∀ k, k < d.length → memGet t.pool (p.addr.toNat + k) = d.getD k 0) ∧
          (∀ a, a < p.addr.toNat ∨ p.addr.toNat + d.length ≤ a → memGet t.pool a = memGet s.pool a) ∧
          (p.request = none → { t with packets := s.packets, resp := s.resp, pool := s.pool, crests := s.crests } = s)) ∧
      (mayWrite s p.tenant p.addr.toNat d.length = false →
        ∃ t, exec (.bePacketArrive p.id upsets) s = .next t ∧ t.resp = .error ∧ t.pool = s.pool ∧ t.sram = s.sram ∧
          t.packets = s.packets.filter (fun x => x.id != p.id) ∧
          switchTold p.tile.val (keptOf p false { switchAt s p.tile.val with refuseOwner := satInc (switchAt s p.tile.val).refuseOwner }) s t))) ∧
  (∀ (s : State) (ten : Option (BitVec 3)) (a n : Nat), mayWrite s ten a n = true ↔
    ∀ m app, ten = some m → s.run.active = some app → ∀ r ∈ app.regions, a < r.addr + r.len → r.addr < a + n → r.owner = some m) ∧
  (∀ (ld : LinkDir) (s : State),
    (∃ t, exec (.openWindowStart ld) s = .next t ∧
      { t with packets := s.packets, hdrs := s.hdrs, opened := s.opened, tb := s.tb, recorder := s.recorder, free := s.free } = s ∧
      (∃ room, linkServed s ld room s.packets t.packets) ∧
      (slotImage s = none → t.tb = s.tb ∧ t.recorder = s.recorder ∧ t.free = s.free ∧
        (s.part.linkEnds ld.link.val ≠ none → linkServed s ld (windowRoom s ld) s.packets t.packets)) ∧
      (∀ im, slotImage s = some im → s.part.linkEnds ld.link.val ≠ none →
        s.opened.any (fun w => w.ld == ld && w.endNs == slotEnd s im) = false →
        let room := (slotEnd s im - schedNow t) * granuleFlits im ld.link.val / (slotNsOf im / 20)
        t.tb = (reach (windowStart s im ld) s).tb ∧ linkServed s ld room s.packets t.packets ∧
        ∃ w ∈ t.opened, w.ld = ld ∧ w.endNs = slotEnd s im ∧ w.left = room - flitsWaiting s ld)) ∧
    (∀ im, slotImage s = some im → s.opened.any (fun w => w.ld == ld && w.endNs == slotEnd s im) = true →
      exec (.openWindowStart ld) s = .next s) ∧
    (s.part.linkEnds ld.link.val = none → ∀ again, exec (.flitCheckFail ld again) s = .next s) ∧
    (∀ a b again, s.part.linkEnds ld.link.val = some (a, b) →
      let from_ := if ld.back then b.tile else a.tile
      let n := if again then ((s.flitFails.find? fun x => x.1 == ld).elim 0 fun x => x.2) + 1 else 1
      ∃ t, exec (.flitCheckFail ld again) s = .next t ∧ (t.flitFails.find? fun x => x.1 == ld) = some (ld, n) ∧ t.packets = s.packets ∧
        (from_ < 7 → (switchAt t from_).retry = satInc (switchAt s from_).retry) ∧
        (n ≠ 3 → { t with flitFails := s.flitFails, hub := s.hub, crests := s.crests, hdrs := s.hdrs } = s) ∧
        (n = 3 → handledAsFailed 0xF1 0 s t ∧
          (ld.link.val ≠ fieldLink → t.super.urgent.getLsbD 8 = true ∧
            ∀ e ∈ [a, b], e.tile < 7 → (switchAt t e.tile).up.getLsbD e.port = false ∧ (switchAt t e.tile).down.getLsbD e.port = true ∧
              ∀ pg, switchPage e.tile = some pg → pgPresent s.part pg = true → (hdrAt t pg).raw.getLsbD 0 = true) ∧
          (ld.link.val = fieldLink → t.field.linkUp = false ∧
            (s.field.linkUp = true → t.hub.up.getLsbD 8 = false ∧ t.hub.down.getLsbD 8 = true ∧
              (hdrAt t .field).raw.getLsbD 3 = true ∧ (hdrAt t .hub).raw.getLsbD 0 = true)))))
/-! ### The trio -/

namespace Sys2Proof.Stmt
open Sys2Proof Sys2Proof.Machine

/-- The majority of three bits. -/
def majority (a b c : Bool) : Bool := (a && b) || (a && c) || (b && c)

/-- Do two byte ranges share no byte? -/
def apart (a n b m : Nat) : Prop := a + n ≤ b ∨ b + m ≤ a

/-- The places an input point writes lie apart from one another. -/
def placesApart (p : InPoint) : Prop :=
  apart p.voted.addr 4 p.voted.statusAddr 4 ∧ apart p.voted.addr 4 p.discAddr 4 ∧ apart p.voted.statusAddr 4 p.discAddr 4

/-- The bits of aligned words that a place's value and status take. -/
def placeBits (p : Place) (a b : Nat) : Prop :=
  (a = p.addr ∧ ∀ k, p.bit = some k → b = k.val) ∨ (a = p.statusAddr ∧ p.statusMask.getLsbD b = true)

/-- The bits an input point's vote writes: its voted value and status, and its discrepancy bit. -/
def votedBits (p : InPoint) (a b : Nat) : Prop := placeBits p.voted a b ∨ (a = p.discAddr ∧ b = p.discBit.val)

/-- The places of the input points are aligned words and bits of them; value, status and discrepancy bit of a point lie apart, no two points
write the same bit, and none writes a bit of a raw image. -/
def pointsApart (s : State) : Prop :=
  (∀ p ∈ inPoints s, ∀ a ∈ [p.raw.addr, p.raw.statusAddr, p.voted.addr, p.voted.statusAddr, p.discAddr], a % 4 = 0) ∧
  (∀ p ∈ inPoints s, (p.voted.addr = p.voted.statusAddr → ∃ k, p.voted.bit = some k ∧ p.voted.statusMask.getLsbD k.val = false) ∧
    ¬ placeBits p.voted p.discAddr p.discBit.val) ∧
  (inPoints s).Pairwise (fun p q => p.number ≠ q.number ∧ ∀ a b, votedBits p a b → ¬ votedBits q a b) ∧
  (∀ p ∈ inPoints s, ∀ q ∈ inPoints s, ∀ a b, votedBits p a b → ¬ placeBits q.raw a b)

/-- A place of a memory shows a value and a status: a binary point shows in its bit whether the value is not 0. -/
def shows (p : Place) (v st : Word) (m : Memory) : Prop :=
  (∀ k, p.bit = some k → (memWord m p.addr).getLsbD k.val = (v != 0)) ∧ (p.bit = none → memWord m p.addr = v) ∧
  memWord m p.statusAddr &&& p.statusMask = (st <<< maskLow p.statusMask) &&& p.statusMask

/-- The columns of an input point that arrived and do not show a failure. -/
def countingColumns (s : State) (p : InPoint) : List Column := (columnsOf s p).filter fun c => !failsPlace p.raw c.status

/-- A point has taken its value from its substitute rule (Table 4.5): HOLD keeps what stood, a fixed value shows no failure, FAIL shows 0 and
the broken bit, or the given value with one of the codes 3 to 6. -/
def showsSubstitute (p : InPoint) (old new : Memory) : Prop :=
  match p.subst with
  | .hold => ∀ b, (p.voted.bit = none ∨ ∃ k, p.voted.bit = some k ∧ b = k.val) →
      (memWord new p.voted.addr).getLsbD b = (memWord old p.voted.addr).getLsbD b
  | .fixed v => shows p.voted v 0 new
  | .fail v => (p.voted.bit.isSome = true → shows p.voted 0 1 new) ∧
      (p.voted.bit = none → ∃ c : Nat, 3 ≤ c ∧ c ≤ 6 ∧ shows p.voted v (BitVec.ofNat 32 c) new)

/-- What the round's vote finds at a point (Table 6.4) over its counting columns, in ascending member. -/
def voteRules : Prop :=
  (∀ p : InPoint, p.rule = .bin → voteOf p [] = .substitute ∧
    (∀ x, voteOf p [x] = .value x.value 0) ∧
    (∀ x y, x.value = y.value → voteOf p [x, y] = .value x.value 0) ∧
    (∀ x y, x.value ≠ y.value → voteOf p [x, y] = .value (if p.safeState then 1 else 0) 0) ∧
    (∀ x y z, (∀ c ∈ [x, y, z], c.value = 0 ∨ c.value = 1) →
      voteOf p [x, y, z] = .value (if majority (x.value == 1) (y.value == 1) (z.value == 1) then 1 else 0) 0)) ∧
  (∀ p : InPoint, p.rule = .ana → voteOf p [] = .substitute ∧
    (∀ x, voteOf p [x] = .value x.value x.status) ∧
    (∀ x y u v, fixed32 x.value = some u → fixed32 y.value = some v →
      (u = v → voteOf p [x, y] = .value x.value x.status) ∧
      (u < v → (p.duo = .low → voteOf p [x, y] = .value x.value x.status) ∧ (p.duo = .high → voteOf p [x, y] = .value y.value y.status)) ∧
      (v < u → (p.duo = .low → voteOf p [x, y] = .value y.value y.status) ∧ (p.duo = .high → voteOf p [x, y] = .value x.value x.status)) ∧
      (u ≠ v → p.duo = .mean → (u.natAbs ≠ fixedInf.natAbs ∨ u ≠ -v) → voteOf p [x, y] = .value (halfB32 (u + v)) x.status)) ∧
    (∀ x y z u v w, fixed32 x.value = some u → fixed32 y.value = some v → fixed32 z.value = some w →
      ∃ c ∈ [x, y, z], ∃ k, voteOf p [x, y, z] = .value c.value c.status ∧ fixed32 c.value = some k ∧
        min (min u v) w ≤ k ∧ k ≤ max (max u v) w ∧ (k = max (min u v) (min (max u v) w)))) ∧
  (∀ (p : InPoint) (m : Fin 3) (l : List Column), p.rule = .src m →
    ((∀ c ∈ l, c.member ≠ m) → voteOf p l = .substitute) ∧
    (∀ c, l.find? (fun c => c.member == m) = some c → voteOf p l = .value c.value c.status)) ∧
  (∀ (p : InPoint) (v : Word) (c : Column),
    (p.raw.bit.isSome = true → (deviates p v c = true ↔ c.value ≠ v)) ∧
    (∀ x y l, p.raw.bit = none → fixed32 c.value = some x → fixed32 v = some y → fixed32 p.deviation = some l →
      (deviates p v c = true ↔ l < ((x - y).natAbs : Int))))

/-- Does a counting column of a member deviate from `v`? -/
def countedOff (s : State) (p : InPoint) (v : Word) (m : Fin 3) : Prop := ∃ c ∈ countingColumns s p, c.member = m ∧ deviates p v c = true

/-- Did a column of a member arrive that shows a failure? -/
def showsFailure (s : State) (p : InPoint) (m : Fin 3) : Prop := ∃ c ∈ columnsOf s p, c.member = m ∧ failsPlace p.raw c.status = true

/-- The members with a deviation in the round at a point are those of `dev` (R164): a member's run of such rounds counts or ends; a run of P
rounds sets the discrepancy bit, and a round without any clears it. -/
def deviationsAre (s t : State) (p : InPoint) (dev : Fin 3 → Prop) : Prop :=
  let limit := max 1 (trioCfg s).persist.toNat
  let bit (u : State) : Bool := (memWord u.pool p.discAddr).getLsbD p.discBit.val
  (∀ m, dev m → deviationRun t p.number m = deviationRun s p.number m + 1) ∧ (∀ m, ¬ dev m → deviationRun t p.number m = 0) ∧
  ((∀ m, ¬ dev m) → bit t = false) ∧
  (∀ m, dev m → deviationRun s p.number m + 1 = limit → bit t = true ∧ (hdrAt t .trio).raw.getLsbD 4 = true) ∧
  (∀ m, dev m → (∀ m, dev m → deviationRun s p.number m + 1 ≠ limit) → bit t = bit s)

/-- The columns compared at a point are `l`, in ascending member. -/
def comparedAre (s : State) (p : OutPoint) (l : List (Fin 3 × Word)) : Prop := countedColumns s p = l

/-- No word of tile memory or of a loop record holds an error. -/
def noUpset (s : State) : Prop := ∀ c,
  (Vec.at s.crests c).badWords = [] ∧ (Vec.at s.crests c).softWords = [] ∧
  (Vec.at s.crests c).badLoopWords = [] ∧ (Vec.at s.crests c).softLoopWords = []

/-- What a give-up leaves (R176): no vote, the cause, RUN_STAT, GAVE_UP raised with urgent source 507. -/
def gaveUpWith (cause : Byte) (run : RunState) (t : State) : Prop :=
  t.trio.gaveUp = true ∧ t.trio.cause = cause ∧ t.trio.role = .observer ∧ t.run.state = run ∧ votes t = false ∧
  (hdrAt t .trio).raw.getLsbD 1 = true ∧ t.super.urgent.getLsbD 11 = true

end Sys2Proof.Stmt

open Sys2Proof Sys2Proof.Machine Sys2Proof.Stmt in
/-- R112, R163, R164, Table 1.9, Table 4.5, Table 6.4: INPUT_VOTE votes every input point over its counting columns by its rule BIN, ANA with
DUO, or SRC: the voted image shows the value and status found, or what the substitute rule gives where no column counts. Columns that deviate
run, set or clear the discrepancy bit, and TRIO_DISC counts the points whose bit is set. A device without a trio takes its raw images
unchanged. A forced input holds its force's value after the vote. A device that does not compute changes nothing. (The status of a mean, and
a NaN or two opposite infinities in a vote, are the model's choice, log entry 38; which of the codes 3 to 6 a FAIL shows is free, and an own
column under poison counts as not arrived.) -/
def Obligations.InputVote : Prop :=
  (∀ s : State, computes s = false → exec .inputVote s = .next s) ∧
  (∀ s : State, computes s = true → ∃ t, exec .inputVote s = .next t ∧
    t.sched = s.sched ∧ t.field = s.field ∧ t.otp = s.otp ∧ t.part = s.part ∧ t.trio.roster = s.trio.roster ∧ t.run.state = s.run.state ∧
    t.run.forces = s.run.forces ∧ (noUpset s → t.crests = s.crests) ∧
    (∀ n ∈ t.safety.substituted, ∃ p ∈ inPoints s, p.number = n ∧ forcedValue s n = none) ∧
    (inPoints s = [] → t.pool = s.pool ∧ t.trio.disc = 0) ∧
    (inTrio s = false → (∀ p ∈ inPoints s, forcedValue s p.number = none ∧ placeGood s p.raw = false) → t.pool = s.pool)) ∧
  (∀ s : State, computes s = true → memWf s.pool = true → noUpset s → pointsApart s → ∃ t, exec .inputVote s = .next t ∧
    (∀ p ∈ inPoints s, ∀ v, forcedValue s p.number = some v → shows p.voted v 0 t.pool ∧ p.number ∉ t.safety.substituted) ∧
    (inTrio s = false → ∀ p ∈ inPoints s, forcedValue s p.number = none →
      shows p.voted (placeValue p.raw (memWord s.pool p.raw.addr)) (statusField p.raw (memWord s.pool p.raw.statusAddr)) t.pool ∧
      (p.number ∈ t.safety.substituted ↔ failsPlace p.raw (statusField p.raw (memWord s.pool p.raw.statusAddr)) = true)) ∧
    (inTrio s = true → ∀ p ∈ inPoints s, forcedValue s p.number = none →
      (∀ v st, voteOf p (countingColumns s p) = .value v st → shows p.voted v st t.pool ∧ p.number ∉ t.safety.substituted) ∧
      (∀ st, voteOf p (countingColumns s p) = .unstated st → ∃ v, shows p.voted v st t.pool) ∧
      (voteOf p (countingColumns s p) = .substitute → showsSubstitute p s.pool t.pool ∧ p.number ∈ t.safety.substituted)) ∧
    (inTrio s = true → ∀ p ∈ inPoints s, ∀ v st, voteOf p (countingColumns s p) = .value v st →
      deviationsAre s t p fun m => countedOff s p v m ∨ showsFailure s p m) ∧
    (inTrio s = true → ∀ p ∈ inPoints s, forcedValue s p.number = none → voteOf p (countingColumns s p) = .substitute →
      deviationsAre s t p (countedOff s p (placeValue p.voted (memWord t.pool p.voted.addr)))) ∧
    t.trio.disc.toNat = min 65535 ((inPoints s).countP fun p => (memWord t.pool p.discAddr).getLsbD p.discBit.val) ∧
    (∀ a, (∀ p ∈ inPoints s, ∀ k < 4, a ≠ p.voted.addr + k ∧ a ≠ p.voted.statusAddr + k ∧ a ≠ p.discAddr + k) →
      memGet t.pool a = memGet s.pool a)) ∧
  voteRules

open Sys2Proof Sys2Proof.Machine Sys2Proof.Stmt in
/-- R165, Table 6.5: with three counted columns at each point, equal ones give OK; where the same member differs at every point that
differs, OUTVOTED names it, and it gives up if it is this member; where no two are equal at some point the finding is NO_MAJORITY and
every member gives up; two unequal columns are DISAGREE. A listening column beside equal ones is LISTEN_OK or LISTEN_FAIL and makes no
voting member give up. A device that does not compute, or has no trio, compares nothing.
(Readings of the model that the clauses follow: log entries 39 and 124.) -/
def Obligations.ComparisonOutcomes : Prop :=
  (∀ s : State, inTrio s = false ∨ computes s = false → exec .comparisonInstant s = .next s) ∧
  (∀ s : State, inTrio s = true → computes s = true →
    ∃ t, exec .comparisonInstant s = .next t ∧ t.trio.roster = s.trio.roster ∧ t.trio.partners = s.trio.partners ∧
      t.trio.listen = (listenerOf s).map (fun l => (l, listenOk s l)) ∧
      (∀ l, listenerOf s = some l → (∀ p ∈ outPoints s, ∃ w, ∀ c ∈ countedColumns s p, c.2 = w) →
        t.trio.cmp = (if listenOk s l then .listenOk else .listenFail) ∧ (hdrAt t .trio).raw.getLsbD 5 = true ∧
        t.trio.gaveUp = s.trio.gaveUp ∧ t.run.state = s.run.state)) ∧
  ∀ s : State, inTrio s = true → computes s = true → s.trio.gaveUp = false → listenerOf s = none →
    ∃ t, exec .comparisonInstant s = .next t ∧ t.trio.roster = s.trio.roster ∧ t.trio.partners = s.trio.partners ∧
      ((∀ p ∈ outPoints s, ∃ w, ∀ c ∈ countedColumns s p, c.2 = w) →
        t.trio.cmp = .ok ∧ t.trio.odd = 3 ∧ t.trio.gaveUp = false ∧ (noUpset s → { t with trio := s.trio } = s)) ∧
      (∀ m : Fin 3,
        (∀ p ∈ outPoints s, ∃ x y z : Word, countedColumns s p = [(0, x), (1, y), (2, z)] ∧
          ((x = y ∧ y = z) ∨ (m = 0 ∧ y = z) ∨ (m = 1 ∧ x = z) ∨ (m = 2 ∧ x = y))) →
        (∃ p ∈ outPoints s, ∃ x y z : Word, countedColumns s p = [(0, x), (1, y), (2, z)] ∧ ¬ (x = y ∧ y = z)) →
        t.trio.cmp = .outvoted ∧ t.trio.odd = BitVec.ofNat 2 m.val ∧ (hdrAt t .trio).raw.getLsbD 5 = true ∧
        (votes s = true → (t.trio.gaveUp = true ↔ m = me s)) ∧ (votes s = true → m = me s → t.trio.cause = 0x04)) ∧
      ((∃ p ∈ outPoints s, ∃ x y z : Word, countedColumns s p = [(0, x), (1, y), (2, z)] ∧ x ≠ y ∧ y ≠ z ∧ x ≠ z) →
        t.trio.cmp = .noMajority ∧ (votes s = true → t.trio.gaveUp = true ∧ t.trio.cause = 0x05)) ∧
      (∀ a b : Fin 3, (∀ p ∈ outPoints s, ∃ x y : Word, countedColumns s p = [(a, x), (b, y)]) →
        (∃ p ∈ outPoints s, ∃ x y : Word, countedColumns s p = [(a, x), (b, y)] ∧ x ≠ y) →
        t.trio.cmp = .disagree ∧ (∃ d, t.trio.disagreeNext = some d ∧ d.members = memberSet [a, b]) ∧ t.trio.gaveUp = false)

open Sys2Proof Sys2Proof.Machine Sys2Proof.Stmt in
/-- R173, R174, R176: DECISION_INSTANT adopts a roster for the next round that holds no member whose status of the round shows GAVE_UP;
a voting member that the roster leaves out gives up; in a trio without a disagreement and without exclusion evidence the roster is the
one that the proposer's status names, and no member with a partner's status and no task abandoned gives up. Elsewhere nothing changes.
(A reading of the model that the clauses follow: log entry 41.) -/
def Obligations.DecisionInstantAdoptsARoster : Prop :=
  (∀ s : State, inTrio s = false ∨ s.trio.forming = true ∨ s.sched.running = false → exec .decisionInstant s = .next s) ∧
  ∀ s : State, inTrio s = true → s.trio.forming = false → s.sched.running = true →
    ∃ t r, exec .decisionInstant s = .next t ∧ t.trio.nextRoster = some r ∧
      (∀ st, s.trio.sentStatus.isSome = true → (votersOf s).length = 3 → s.trio.disagree = none → (evidence s).excluded = 0 →
        statusOf s (proposer s) = some st → st.roster.active.toNat < 3 → st.roster.voting.getLsbD st.roster.active.toNat = true →
        r = st.roster ∧
        (st.roster.voting.getLsbD (me s).val = true → (∃ m ∈ partnersOf s, (partnerAt s m).status.isSome = true) →
          (∀ x ∈ s.run.tasks, x.abandoned = false) → s.trio.phase = 0 →
          t.trio.gaveUp = s.trio.gaveUp ∧ t.trio.role = s.trio.role ∧ t.run.state = s.run.state)) ∧
      (∀ m st, m ≠ me s → rosterVotes s.trio.roster m = true → (partnerAt s m).status = some st → st.gaveUp = true →
        r.voting.getLsbD m.val = false) ∧
      (votes s = true → r.voting.getLsbD (me s).val = false → t.trio.gaveUp = true) ∧
      t.trio.roster = s.trio.roster ∧ t.trio.t = s.trio.t ∧ t.sched.frame = s.sched.frame ∧ t.sched.round = s.sched.round ∧
      (noUpset s → t.crests = s.crests) ∧ t.otp = s.otp

open Sys2Proof Sys2Proof.Machine Sys2Proof.Stmt in
/-- R176, R178 to R181, R186, R187: a fence makes the device give up with FENCED and stop, and latches; a short low of FENCE_IN_N is only
seen; GIVE_UP is refused without a trio and in SOLO; SOLO_WARN raises its event and SOLO_EXPIRED stops the device. R319: as the controller
stops, each pending request of a TX_SCHED buffer is cancelled and counted as LATE. (That a fence cuts single-drive outputs off whatever the
role, and when FENCE_IN_N reads 1 again, are the model's reading, log entries 46 and 93.) -/
def Obligations.FencesAndGiveUps : Prop :=
  (∀ s : State, s.trio.gaveUp = false → inTrio s = true →
    (∃ t, exec .fenceIn s = .next t ∧ gaveUpWith 0x0C .stopped t ∧ t.trio.fenced = true ∧ t.trio.inHigh = false ∧
      t.field.enSingle = false ∧ t.trio.lastCommitHold = 0 ∧ t.run.ran = false ∧ t.run.undo = [] ∧
      (∀ c : Fin 16,
        let x := Vec.at s.cans c
        let y := Vec.at t.cans c
        let ends (b : Fin 64) : Bool := x.pend.getLsbD b.val && Vec.at x.kinds b == .txSched
        y.late = satAdd x.late ((List.finRange 64).countP ends) ∧
        ∀ b, y.pend.getLsbD b.val = (x.pend.getLsbD b.val && !ends b) ∧ y.cancelled.getLsbD b.val = (x.cancelled.getLsbD b.val || ends b)) ∧
      (s.trio.fenced = false → (hdrAt t .trio).raw.getLsbD 3 = true ∧ t.super.urgent.getLsbD 14 = true)) ∧
    (∀ (p : TrioPort) (f : TrioFrame), trioFrameOk s p f = true → f.type = 6 → (∃ d, f.payload = .bytes d) →
      f.target.toNat = (me s).val → f.t.toNat ≤ s.trio.t.toNat + 2 → s.trio.t.toNat ≤ f.t.toNat + 2 →
      ∃ t, exec (.fenceFrameReceive p f) s = .next t ∧ gaveUpWith 0x0C .stopped t ∧ t.trio.fenced = true ∧ t.field.enSingle = false) ∧
    (∀ q, pgRefuses q .trio s = false → votes s = true →
      ∃ t, exec (.trioGiveUp q) s = .next t ∧ t.resp = .done ∧
        (s.trio.state = .solo → t.trio = { s.trio with code := 0x57 }) ∧
        (s.trio.state ≠ .solo → gaveUpWith 0x0B .observer t ∧ (s.trio.phase = 0 → s.trio.rejoinTest = false → t.trio.code = 0))) ∧
    (s.trio.soloStart.isSome = true → votes s = true → ∃ t, exec .soloExpired s = .next t ∧ gaveUpWith 0x0A .stopped t)) ∧
  (∀ s : State,
    (∃ t, exec .fenceInNLow s = .next t ∧ t.trio.testSeen = true ∧ t = { s with trio := { s.trio with testSeen := true } }) ∧
    (∃ t, exec .fenceTestPulseEnd s = .next t ∧ t = { s with trio := { s.trio with pulseA := false, pulseB := false } }) ∧
    (s.trio.soloStart.isSome = true → ∃ t, exec .soloWarn s = .next t ∧ (hdrAt t .trio).raw.getLsbD 7 = true ∧ eventFrame s t) ∧
    (∀ q, pgRefuses q .trio s = false → inTrio s = false →
      ∃ t, exec (.trioGiveUp q) s = .next t ∧ t.resp = .done ∧ t.trio = { s.trio with code := 0x51 }))

namespace Sys2Proof.Stmt
open Sys2Proof Sys2Proof.Machine

/-- A trio port. -/
def trioPortAt (s : State) (p : TrioPort) : EthPort := Vec.at s.ports (trioPortIdx p)

/-- Of the ports only the packet number of a frame that passes MACsec is taken, under its association key. -/
def pnTaken (p : TrioPort) (f : TrioFrame) (s t : State) : Prop :=
  t.ports = Vec.upd s.ports (trioPortIdx p) fun x =>
    if underKey s p f = true then { x with rxPn := f.pn } else { x with rxPnOld := f.pn }

/-- Some exchange of a kind that is active in the round has come whole on a port. -/
def wholeExchange (s : State) (p : TrioPort) (k : Nat) : Prop := ∃ e ∈ exchangesOf s k, exchangeHere s p k e.len.toNat = true

/-- The state with the flits of a frame noted as arrived in the round. -/
def withFlits (s : State) (p : TrioPort) (k : Nat) (f : TrioFrame) : State :=
  { s with trio := { s.trio with flits := s.trio.flits ++ [(p, BitVec.ofNat 4 k, f.offset.toNat, f.len.toNat)] } }

/-- The payload of an exchange frame stands in the bank of T mod 2 of its port, at its kind's place (Table 11.5) and its OFFSET, and nothing
else of that receive area has changed. -/
def landed (p : TrioPort) (k : Nat) (f : TrioFrame) (s t : State) : Prop :=
  let base := (if f.t.toNat % 2 = 1 then 0x200000 else 0) + kindOffset k + 64 * f.offset.toNat
  let n := 64 * f.len.toNat
  (∀ i, i < n → memGet (rxArea t p) (base + i) = (payloadBytes f).getD i 0) ∧
  (∀ a, a < base ∨ base + n ≤ a → memGet (rxArea t p) a = memGet (rxArea s p) a) ∧
  ∀ q, q ≠ p → rxArea t q = rxArea s q

end Sys2Proof.Stmt

open Sys2Proof Sys2Proof.Machine Sys2Proof.Stmt in
/-- R160, R167, R276, R300 to R305, R307: a trio frame on a port whose EN is 0 changes nothing; one that fails its checks, the CRC over header
and payload, MACsec and LEN among them, is discarded and counted, and changes nothing held; one that passes takes its packet number. The
flits of an exchange land in the bank of T mod 2 at their OFFSET; a status or an alignment of the round is held for its member with the frame
that makes its exchange whole, an alignment with the instant of its receipt on this device's schedule clock less ETH_LAT.RX; copied and
forwarded data are stored while copying, and a write forwarded in a round before while listening, if they come from the donor; a TIME frame
is kept with its instant; an exchange that has not come is missing; a diagnosis passes where its tests, reads and speed readings do; a port
that goes down, or comes up while enabled, raises PORT. (The packet numbers counted anew as a port changes, and what a receive area holds of
a status, are the model's choice, log entries 104 and 87.) (That a TIME frame is kept and none is sent is the model's reading, log entry
44; the limit of a diagnosis' speed check, log entry 124.) -/
def Obligations.TrioFramesPortsAndDiagnosis : Prop :=
  (∀ (p : TrioPort) (f : TrioFrame) (s : State), (trioPortAt s p).en = false → exec (.trioFrameReceive p f) s = .next s) ∧
  (∀ (p : TrioPort) (f : TrioFrame) (s : State), (trioPortAt s p).en = true →
    let m := portPartner s p
    (trioFrameOk s p f = false → ∃ t, exec (.trioFrameReceive p f) s = .next t ∧
      (trioPortAt t p).bad = satInc (trioPortAt s p).bad ∧
      (f.macsecOk = false → (hdrAt t (.port (trioPortIdx p))).raw.getLsbD 2 = true) ∧
      { t with ports := s.ports, hdrs := s.hdrs, recorder := s.recorder, free := s.free } = s) ∧
    (f.crc ≠ crc32c (trioHeader f ++ payloadBytes f) ∨ f.macsecOk = false ∨ f.key ≠ (trioPortAt s p).keyCur ∧
        f.key ≠ (trioPortAt s p).keyCur - 1 ∨ f.sender.toNat ≠ m.val ∨ 128 < f.len.toNat ∨ f.type = 0 →
      trioFrameOk s p f = false) ∧
    (∀ st raw, trioFrameOk s p f = true → f.type = 5 → f.payload = .status st raw → s.sched.running = true → f.t = s.trio.t →
      64 * (f.offset.toNat + f.len.toNat) ≤ kindSize 4 → memWf (rxArea s p) = true →
      ∃ t, exec (.trioFrameReceive p f) s = .next t ∧ landed p 4 f s t ∧ pnTaken p f s t ∧
        (let now : Prop := ¬ wholeExchange s p 4 ∧ wholeExchange (withFlits s p 4 f) p 4
         (now → partnerAt t m = { partnerAt s m with status := some st, lastCompat := some st.compat }) ∧
         (¬ now → partnerAt t m = partnerAt s m)) ∧
        (∀ j, j ≠ m → partnerAt t j = partnerAt s j) ∧ { t with trio := s.trio, hdrs := s.hdrs, ports := s.ports } = s ∧
        { t.trio with partners := s.trio.partners, rxA := s.trio.rxA, rxB := s.trio.rxB } = (withFlits s p 4 f).trio) ∧
    (∀ a, trioFrameOk s p f = true → f.type = 1 → f.payload = .align a → s.sched.running = true → f.t = s.trio.t → votes s = true →
      64 * (f.offset.toNat + f.len.toNat) ≤ kindSize 3 → memWf (rxArea s p) = true →
      let now : Prop := ¬ wholeExchange s p 3 ∧ wholeExchange (withFlits s p 3 f) p 3
      ∃ t, exec (.trioFrameReceive p f) s = .next t ∧ landed p 3 f s t ∧ pnTaken p f s t ∧
        (now → partnerAt t m = { partnerAt s m with
          align := some { a with rx := BitVec.ofNat 64 (schedNow s - (trioPortAt s p).rxLat.toNat) } }) ∧
        (¬ now → partnerAt t m = partnerAt s m) ∧
        (∀ j, j ≠ m → partnerAt t j = partnerAt s j) ∧ { t with trio := s.trio, hdrs := s.hdrs, ports := s.ports, tb := s.tb } = s ∧
        (now → a.ref = true → isReference s = false → t.tb = { s.tb with lastR := a.rstart.toNat }) ∧ (¬ now ∨ a.ref = false → t.tb = s.tb) ∧
        { t.trio with partners := s.trio.partners, rxA := s.trio.rxA, rxB := s.trio.rxB } = (withFlits s p 3 f).trio) ∧
    (∀ (k : Nat) (d : List Byte), trioFrameOk s p f = true → k ≤ 2 → f.type.toNat = k + 2 → f.payload = .bytes d → d.length = 64 * f.len.toNat →
      64 * (f.offset.toNat + f.len.toNat) ≤ kindSize k → memWf (rxArea s p) = true →
      ∃ t, exec (.trioFrameReceive p f) s = .next t ∧ landed p k f s t ∧ pnTaken p f s t ∧
        { t with trio := s.trio, hdrs := s.hdrs, ports := s.ports } = s ∧
        { t.trio with rxA := s.trio.rxA, rxB := s.trio.rxB } = (if f.t = s.trio.t then (withFlits s p k f).trio else s.trio)) ∧
    ∀ d : List Byte, trioFrameOk s p f = true → f.payload = .bytes d →
      (f.type = 10 → ∃ t, exec (.trioFrameReceive p f) s = .next t ∧ pnTaken p f s t ∧
        t.trio = { s.trio with timeRx := s.trio.timeRx ++ [(p, instantOf (nowNs s - (trioPortAt s p).rxLat.toNat), d)] } ∧
        { t with trio := s.trio, hdrs := s.hdrs, ports := s.ports } = s) ∧
      let taken : Prop := memberBits m = s.trio.donor ∧ (s.trio.phase = 3 ∨ (s.trio.phase = 4 ∧ f.type = 9 ∧ f.t ≠ s.trio.t))
      (f.type = 8 ∨ f.type = 9 → ¬ taken →
        ∃ t, exec (.trioFrameReceive p f) s = .next t ∧ pnTaken p f s t ∧ { t with hdrs := s.hdrs, ports := s.ports } = s) ∧
      (f.type = 8 ∨ f.type = 9 → taken →
        ∃ t, exec (.trioFrameReceive p f) s = .next t ∧ pnTaken p f s t ∧
          t.trio = (if f.type = 8 then { s.trio with copiedBytes := s.trio.copiedBytes + (d.length - 4) } else s.trio) ∧
          (isPool (wordOf d) = true → memWf s.pool = true → ∀ k, k + 4 < d.length → memGet t.pool ((wordOf d).toNat + k) = d.getD (4 + k) 0) ∧
          { t with trio := s.trio, hdrs := s.hdrs, ports := s.ports, pool := s.pool, crests := s.crests } = s)) ∧
  (∀ (p : TrioPort) (k : BitVec 4) (s : State),
    let q := partnerAt s (portPartner s p)
    let here : Prop := if k = 3 then q.align.isSome = true else if k = 4 then q.status.isSome = true
      else ∃ e ∈ exchangesOf s k.toNat, exchangeHere s p k.toNat e.len.toNat = true
    (inTrio s = false ∨ here ∨ 4 < k.toNat ∨ q.missingKinds.getLsbD k.toNat = true → exec (.exchangeMissing p k) s = .next s) ∧
    (inTrio s = true → ¬ here → k.toNat ≤ 4 → q.missingKinds.getLsbD k.toNat = false →
      ∃ t, exec (.exchangeMissing p k) s = .next t ∧
        partnerAt t (portPartner s p) = { q with missingKinds := setBit q.missingKinds k.toNat true } ∧
        (∀ m, m ≠ portPartner s p → partnerAt t m = partnerAt s m) ∧ { t with trio := s.trio, hdrs := s.hdrs } = s)) ∧
  (∀ (a b : Bool) (d : Disagree) (s : State), s.trio.disagree = some d → d.members.getLsbD (me s).val = true → votes s = true →
    ∃ t, exec (.diagnosis a b) s = .next t ∧ { t with trio := s.trio } = s ∧
      (t.trio.diagPass = some true ↔ a = true ∧ b = true ∧ ∀ c ∈ presentCrests s, (Vec.at s.crests c).slow = false) ∧
      { t.trio with diagPass := s.trio.diagPass } = s.trio) ∧
  (∀ (p : TrioPort) (s : State),
    let up (x : State) : TrioPort → Bool
      | .a => x.trio.upA
      | .b => x.trio.upB
    let moved (v : Bool) (t : State) : Prop := up t p = v ∧ (∀ r, r ≠ p → up t r = up s r) ∧ (hdrAt t .trio).raw.getLsbD 9 = true ∧
      t.ports = Vec.upd s.ports (trioPortIdx p) (fun x => { x with rxPn := 0, rxPnOld := 0 }) ∧
      eventFrame { s with trio := t.trio, ports := t.ports } t ∧ { t.trio with upA := s.trio.upA, upB := s.trio.upB } = s.trio
    (up s p = true → ∃ t, exec (.trioPortDown p) s = .next t ∧ moved false t) ∧
    (up s p = false → (trioPortAt s p).en = true → ∃ t, exec (.trioPortUp p) s = .next t ∧ moved true t) ∧
    (up s p = false → (trioPortAt s p).en = false → exec (.trioPortUp p) s = .next s))

open Sys2Proof Sys2Proof.Machine Sys2Proof.Stmt in
/-- R179, R188 to R191, R194: the formation wait ends with the starters heard, the lowest number active, or alone in SOLO, and the active
member names the first frame's start; a member that has given up forms no trio with them; REJOIN is refused with INCOMPATIBLE while the
safety configuration is not accepted, then with NOT_OBSERVER, NO_PARTNER, BUSY or INCOMPATIBLE in this order, and else starts the self-test,
whose pass publishes the request; ABORT ends a rejoin with ABORTED; the end of the bulk copy is noted in its phase. (What a forming member
sends, and that starters heard form with it, are the model's reading, log entries 45 and 88.) -/
def Obligations.FormingAndRejoining : Prop :=
  (∀ s : State, s.trio.forming = true → inTrio s = true →
    ∃ t, exec .formationWaitEnd s = .next t ∧ t.trio.forming = false ∧ t.trio.roster.epoch = 0 ∧ t.trio.t = 0 ∧
      (votes t = true ↔ s.trio.gaveUp = false) ∧
      (∀ m, t.trio.roster.voting.getLsbD m.val = true ↔ (m = me s ∧ s.trio.gaveUp = false) ∨ m ∈ startersHeard s) ∧
      (∀ m : Fin 3, t.trio.roster.active = memberBits m → t.trio.roster.voting.getLsbD m.val = true ∧
        ∀ k : Fin 3, k < m → t.trio.roster.voting.getLsbD k.val = false) ∧
      (startersHeard s = [] → s.trio.gaveUp = false → t.trio.state = .solo ∧ t.trio.role = .active) ∧
      (t.trio.role = .active → t.trio.startAt = some (schedNow s + leadNs s)) ∧ t.pwr.stage = 10 ∧
      eventFrame { s with trio := t.trio, pwr := t.pwr } t) ∧
  (∀ (q : Req) (s : State), pgRefuses q .trio s = false →
    let out : Prop := s.run.state = .observer ∨ s.run.state = .stopped
    let vs := (partnersOf s).filter (partnerVotes s)
    let lone : Prop := inTrio s = false ∨ vs = []
    let busy : Prop := s.trio.phase ≠ 0 ∨ s.trio.rejoinTest = true
    let held : Prop := (safetyCfg s).isSome = true ∧ s.safety.accepted = false
    let unfit : Prop := ∃ m ∈ vs, ∀ st, ((partnerAt s m).status <|> (partnerAt s m).last) = some st → compatible s st = false
    let code (c : Byte) (t : State) : Prop := t.trio = { s.trio with code := c } ∧ t.resp = .done ∧ countsOnly .trio s t ∧
      { t with trio := s.trio, hdrs := s.hdrs, resp := s.resp } = s
    (∃ t, exec (.trioRejoin q) s = .next t ∧
      (held → code 0x54 t) ∧
      (¬ held → ¬ out → code 0x50 t) ∧ (¬ held → out → lone → code 0x51 t) ∧ (¬ held → out → ¬ lone → busy → code 0x52 t) ∧
      (¬ held → out → ¬ lone → ¬ busy → unfit → code 0x54 t) ∧
      (¬ held → out → ¬ lone → ¬ busy → ¬ unfit → t.trio = { s.trio with code := 0, rejoinTest := true } ∧ t.resp = .done)) ∧
    (busy → ∃ t, exec (.trioAbortRejoin q) s = .next t ∧ t.trio.code = 0x56 ∧ t.trio.phase = 0 ∧ t.trio.rejoinReq = false ∧
      t.trio.role ≠ .listening ∧ (hdrAt t .trio).raw.getLsbD 6 = true)) ∧
  (∀ s : State, s.trio.rejoinTest = true →
    (∃ t, exec (.rejoinSelftestEnd true) s = .next t ∧
      t = { s with trio := { s.trio with rejoinTest := false, rejoinReq := true, phase := 1, fixed := none } }) ∧
    (∃ t, exec (.rejoinSelftestEnd false) s = .next t ∧ t.trio.code = 0x53 ∧ t.trio.phase = 0 ∧ (hdrAt t .trio).raw.getLsbD 6 = true)) ∧
  (∀ s : State, s.trio.phase = 3 →
    ∃ t, exec .bulkCopyEnd s = .next t ∧ t = { s with trio := { s.trio with bulkDone := true } })
/-! ### Safety and Keaco stations -/

namespace Sys2Proof.Stmt
open Sys2Proof Sys2Proof.Machine

/-- The state of a function. -/
def funcState (s : State) (c : FuncCfg) : FuncState := (Vec.at s.safety.funcs c.number).state

/-- The press that is under way at a reset point. -/
def pressAt (s : State) (p : BitVec 16) : Option Press := s.safety.presses.find? fun x => x.point == p

/-- Table 7.4: the decision for a function at the end of a press of `d` nanoseconds, `bad` if the point failed or was substituted in it. -/
def resetRow (s : State) (c : FuncCfg) (d : Nat) (bad : Bool) (code : Byte) : Prop :=
  let short : Prop := d < c.pressMs * 1000000
  let long : Prop := 30000000000 < d
  (short → code = 0x61) ∧ (¬ short → long → code = 0x62) ∧ (¬ short → ¬ long → bad = true → code = 0x63) ∧
  (¬ short → ¬ long → bad = false → causeOf s c ≠ none → code = 0x60) ∧
  (¬ short → ¬ long → bad = false → causeOf s c = none → code = 0)

/-- What a round's close does for a trip-class function with the reset point `p`, whose voted value `v` was sampled in the round and is `bad`
where it failed or was substituted (R205). -/
def resetPointRound (s t : State) (c : FuncCfg) (p : BitVec 16) (v bad : Bool) : Prop :=
  let r := Vec.at s.safety.funcs c.number
  let was := s.safety.lastReset.find? fun x => x.1 == p
  (v = true → pressAt s p = none → was = some (p, false) → pressAt t p = some ⟨p, s.sched.roundNs, bad⟩) ∧
  (pressAt s p = none → v = false ∨ was ≠ some (p, false) → pressAt t p = none) ∧
  (∀ q, v = true → pressAt s p = some q → pressAt t p = some { q with bad := q.bad || bad }) ∧
  (v = true ∨ pressAt s p = none → r.state = .lockout → funcState t c = .lockout) ∧
  (∀ q, v = false → pressAt s p = some q → pressAt t p = none ∧
    (r.state = .lockout → (hdrAt t .safety).raw.getLsbD 3 = true ∧
      ∃ code, resetRow s c (s.sched.roundNs - q.startNs) (q.bad || bad) code ∧
        funcState t c = (if code = 0 then .normal else .lockout) ∧
        (Vec.at t.safety.funcs c.number).resets = (if code = 0 then satInc r.resets else r.resets) ∧
        (resetPoints s = [p] → (∀ d ∈ funcCfgs s, d.resetPoint = some p → d = c) →
          t.safety.resetCode = code ∧ t.safety.resetFunc = BitVec.ofNat 8 c.number.val)))

end Sys2Proof.Stmt

open Sys2Proof Sys2Proof.Machine Sys2Proof.Stmt in
/-- R195, R197, R198: while no rounds run the seal reading is taken each millisecond, and a change raises SEAL; SAFE-HOLD is left when the
reading has equalled the seal code for 2 s, and every function then starts anew, those of the trip class in LOCKOUT.
R200 to R203: at round close a trip-class function in NORMAL with a cause goes to LOCKOUT and a hold-class one to HOLD, with the
lowest present cause; HOLD returns to NORMAL after three clear rounds with RESUME; SAFE returns with RESUME and no cause; LOCKOUT stays,
but for a reset.
R205, Table 7.4: a press begins at the first sample instant of its point at which the voted value is true after false, goes on, and ends where
it is false again; its end decides, by the first row that applies, every locked-out function that names the point, raises RESET and shows the
code and the function. A device that does not compute changes nothing.
(A reading of the model that the clauses follow: log entry 50.) -/
def Obligations.SealSafeHoldAndSafetyFunctions : Prop :=
  ((∀ s : State, s.sched.running = false → s.part.hasField = true →
       ∃ t, exec .sealReadMs s = .next t ∧ t.safety.sealNow = s.field.sealFilt ∧
         (s.safety.sealNow ≠ s.field.sealFilt → (hdrAt t .safety).raw.getLsbD 0 = true) ∧ t.pool = s.pool ∧ t.sched = s.sched) ∧
     (∀ s : State, s.sched.running = true ∨ (s.part.hasField = false ∧ inTrio s = false) → exec .sealReadMs s = .next s) ∧
     (∀ s : State, s.part.hasField = false → ∃ t, exec .sealReadMs s = .next t ∧
       { t with trio := s.trio, out := s.out, free := s.free } = s) ∧
     (∀ (s : State) (k : Nat), s.safety.safeHold = true → s.safety.sealOkSince = some k → k + 1000000000 ≤ s.tb.tick →
       ∃ t, exec .safeHoldLeave s = .next t ∧ t.safety.safeHold = false ∧ t.safety.accepted = true ∧ t.run.state = .starting ∧
         (∀ c ∈ funcCfgs s, funcState t c = .lockout ∨ funcState t c = .normal) ∧
         (∀ c, funcCfgs s = [c] → funcState t c = if c.trip then .lockout else .normal) ∧ t.pool = s.pool) ∧
     (∀ (s : State) (k : Nat), s.safety.sealOkSince = some k → s.tb.tick < k + 1000000000 → exec .safeHoldLeave s = .next s)) ∧
  ((∀ s : State, computes s = false → exec .roundClose s = .next s) ∧
     (∀ s : State, computes s = true → ∃ t, exec .roundClose s = .next t ∧ t.sched = s.sched ∧ t.field = s.field ∧ t.run = s.run ∧
       t.otp = s.otp ∧ (noUpset s → t.crests = s.crests) ∧ t.trio.roster = s.trio.roster ∧
       (∀ i : Fin 256, (∀ c ∈ funcCfgs s, c.number ≠ i) → Vec.at t.safety.funcs i = Vec.at s.safety.funcs i) ∧
       (outPoints s = [] → t.pool = s.pool)) ∧
     (∀ (s : State) (c : FuncCfg), computes s = true → c ∈ funcCfgs s → ((funcCfgs s).map fun x => x.number).Nodup → c.resetPoint = none →
       (∀ i, Vec.at s.run.forces i = none) →
       let r := Vec.at s.safety.funcs c.number
       ∃ t, exec .roundClose s = .next t ∧
         (r.state = .normal → causeOf s c = none → funcState t c = .normal) ∧
         (∀ k, r.state = .normal → causeOf s c = some k → c.trip = true →
           funcState t c = .lockout ∧ (Vec.at t.safety.funcs c.number).cause = k ∧
           (Vec.at t.safety.funcs c.number).reactions = satInc r.reactions ∧
           (hdrAt t .safety).raw.getLsbD 1 = true ∧ (hdrAt t .safety).raw.getLsbD 2 = true ∧ t.super.urgent.getLsbD 12 = true) ∧
         (∀ k, r.state = .normal → causeOf s c = some k → c.trip = false →
           funcState t c = .hold ∧ (Vec.at t.safety.funcs c.number).cause = k ∧
           (Vec.at t.safety.funcs c.number).holdEnd = nextCommit s + c.holdMs * 1000000) ∧
         (r.state = .hold → causeOf s c = none → 2 ≤ r.clear → resumeOf s c = true → funcState t c = .normal) ∧
         (r.state = .hold → (causeOf s c ≠ none ∨ resumeOf s c = false ∨ r.clear < 2) →
           funcState t c = if r.holdEnd ≤ nextCommit s then .safe else .hold) ∧
         (r.state = .safe → funcState t c = if causeOf s c = none ∧ resumeOf s c = true then .normal else .safe) ∧
         (r.state = .lockout → funcState t c = .lockout)) ∧
     (∀ (s : State) (c : FuncCfg) (p : BitVec 16) (v bad : Bool), computes s = true → noUpset s → c ∈ funcCfgs s →
       ((funcCfgs s).map fun x => x.number).Nodup → c.resetPoint = some p → (∀ i, Vec.at s.run.forces i = none) →
       (pointSampled s p = true → resetReading s p = some (v, bad) →
         ∃ t, exec .roundClose s = .next t ∧ resetPointRound s t c p v bad) ∧
       (pointSampled s p = false → ∃ t, exec .roundClose s = .next t ∧ pressAt t p = pressAt s p ∧
         (funcState s c = .lockout → funcState t c = .lockout))))

open Sys2Proof Sys2Proof.Machine Sys2Proof.Stmt in
/-- R210, R212, R213, R214: of two valid copies that agree the pair is accepted, and two that differ are a connection safety reaction;
a pair window that ends with one copy accepts it; a copy that fails its checks, or comes again on its port, is discarded and counted; one
whose SEQ is decided counts as late. A safety frame is queued with the next SEQ on its two ports.
R121, R122, R293: a good fresh input frame waits for its sample instant, and any other leaves the station as it was; a station is dropped
at its D-th missing frame in a row, with STATION raised and its substitute rules applied, and is back at its M-th good one. (STATION_SCAN
has no row: ROUND_START makes the scan at a station's sample instant, as O18 states. That copies share one STAMP and a SINGLE port is LAN
A, the bit present of the station status word, that a payload under poison is not sent, and what counts as a copy while a station is
dropped, are the model's reading, log entries 51, 85, 103 and 112.) -/
def Obligations.SafetyConnectionsAndStations : Prop :=
  ((∀ (p : Fin 8) (f : EthFrame) (c : ConnCfg) (s : State),
       (portAt s p).en = true → (portAt s p).up = true → f.etherType = 0x88B6 → f.fcsOk = true → vlanOk s p f = true → priorityIs f 7 = true →
       ((connsOf s false).find? fun c => c.src.toNat == leAt f.data 2 2 && c.dst.toNat == leAt f.data 4 2) = some c →
       let r := connRt s c.number
       let seq : Word := BitVec.ofNat 32 (leAt f.data 8 4)
       (copySound s c f.data = false →
         ∃ t, exec (.safetyFrameReceive p f) s = .next t ∧ connRt t c.number = { r with discarded := satInc r.discarded } ∧
           { t with hdrs := s.hdrs, safety := s.safety } = s) ∧
       (∀ l, copySound s c f.data = true → r.state ≠ .closed → r.state ≠ .failed → r.lastSeq = some l → seqAfter l seq = false →
         ∃ t, exec (.safetyFrameReceive p f) s = .next t ∧ connRt t c.number =
             (if r.decided.contains seq then { r with late := satInc r.late } else { r with discarded := satInc r.discarded }) ∧
           { t with hdrs := s.hdrs, safety := s.safety } = s) ∧
       (∀ d, copySound s c f.data = true → r.state = .closed ∨ r.state = .failed ∨ (∀ l, r.lastSeq = some l → seqAfter l seq = true) →
         r.pairs.find? (fun x => x.2.1 == seq) = some (portLan s p == 2, seq, d) →
         ∃ t, exec (.safetyFrameReceive p f) s = .next t ∧ connRt t c.number = { r with discarded := satInc r.discarded } ∧
           { t with hdrs := s.hdrs, safety := s.safety } = s) ∧
       (copySound s c f.data = true → r.state = .closed ∨ r.state = .failed ∨ (∀ l, r.lastSeq = some l → seqAfter l seq = true) →
         r.pairs.find? (fun x => x.2.1 == seq) = none →
         ∃ t, exec (.safetyFrameReceive p f) s = .next t ∧
           connRt t c.number = { r with pairs := r.pairs ++ [(portLan s p == 2, seq, f.data)] } ∧
           { t with hdrs := s.hdrs, safety := s.safety } = s) ∧
       (∀ b d, copySound s c f.data = true → r.state = .ok → (∀ l, r.lastSeq = some l → seqAfter l seq = true) →
         r.pairs.find? (fun x => x.2.1 == seq) = some (b, seq, d) → b ≠ (portLan s p == 2) →
         ∃ t, exec (.safetyFrameReceive p f) s = .next t ∧
           (d = f.data → (connRt t c.number).state = .ok ∧ (connRt t c.number).lastSeq = some seq ∧
             (connRt t c.number).value = (f.data.drop 20).take c.len) ∧
           (d ≠ f.data → (connRt t c.number).state = .failed ∧ (connRt t c.number).rejected = satInc r.rejected ∧
             (connRt t c.number).value = r.value ∧ (hdrAt t .safety).raw.getLsbD 4 = true))) ∧
     (∀ (n : Fin 256) (s : State), (connRt s n).pairs = [] ∨ connCfg s false n = none → exec (.pairWindowEnd n) s = .next s) ∧
     (∀ (n : Fin 256) (c : ConnCfg) (b : Bool) (seq : Word) (d : List Byte) (rest : List (Bool × Word × List Byte)) (s : State),
       connCfg s false n = some c → (connRt s n).pairs = (b, seq, d) :: rest →
       ∃ t, exec (.pairWindowEnd n) s = .next t ∧ (connRt t n).pairs = rest ∧ (connRt t n).lastSeq = some seq ∧
         (connRt t n).value = (d.drop 20).take c.len ∧ (connRt t n).degraded = satInc (connRt s n).degraded ∧ t.pool = s.pool) ∧
     (∀ (n : Fin 256) (c : ConnCfg) (s : State), connCfg s true n = some c → sendsSafety s = true →
       ∃ t, exec (.safetyFrameQueue n) s = .next t ∧ t.pool = s.pool ∧ t.sched = s.sched ∧
         (badIn s c.payload c.len ≠ [] → t.ports = s.ports ∧ t.safety = s.safety ∧ t.super.urgent.getLsbD 9 = true) ∧
         (badIn s c.payload c.len = [] →
           connRt t n = { connRt s n with sendSeq := (connRt s n).sendSeq + 1 } ∧ (∀ m, m ≠ n → connRt t m = connRt s m) ∧
           ∃ g : QFrame, g.tc = 7 ∧ g.etherType = 0x88B6 ∧ g.dst = c.mac ∧ g.vlan = c.vlan ∧ g.conn = some n ∧ g.station = none ∧
             g.desc = none ∧ g.copy = false ∧ g.len = 110 ∧ g.data.length = 84 ∧ leAt g.data 0 1 = 1 ∧ leAt g.data 1 1 = c.len % 256 ∧
             leAt g.data 2 2 = c.src.toNat ∧ leAt g.data 4 2 = c.dst.toNat ∧ leAt g.data 6 2 = 0 ∧
             leAt g.data 8 4 = (connRt s n).sendSeq.toNat ∧ g.data.drop 20 = takePad 64 (memRead s.pool c.payload c.len) ∧
             (∀ p, p = c.portA ∨ p = c.portB → (portAt t p).queue.getLast? = some g ∧
               ∀ h ∈ (portAt t p).queue, h ∈ (portAt s p).queue ∨ h = g) ∧
             ∀ p : Fin 10, p ≠ c.portA.castLE (by decide) ∧ p ≠ c.portB.castLE (by decide) → Vec.at t.ports p = Vec.at s.ports p)) ∧
     (∀ (p : Fin 8) (f : QFrame) (n : Fin 256) (s : State), (portAt s p).en = true → (portAt s p).up = true → (portAt s p).line = none →
       nextFrame s p = some f → f.conn = some n → f.station = none → f.desc = none → f.copy = false → f.data.length = 84 →
       ∃ (t : State) (d : List Byte), exec (.ethFrameTransmitStart p) s = .next t ∧
         d.length = 88 ∧ d.take 12 = f.data.take 12 ∧ (d.take 84).drop 20 = f.data.drop 20 ∧
         leAt d 12 8 = nowNs s / 1000000000 % 2 ^ 34 * 2 ^ 30 + nowNs s % 1000000000 ∧ leAt d 84 4 = (crc32c (d.take 84)).toNat ∧
         t.out = s.out ++ [.eth p f.etherType (devHeader s p f ++ d)] ∧
         ∀ q, q ≠ p → (portAt t q).queue =
           (portAt s q).queue.map fun g => if g.conn = some n ∧ g.data = f.data then { g with data := d } else g)) ∧
  ((∀ (p : Fin 8) (f : EthFrame) (c : StationCfg) (s : State),
       (portAt s p).en = true → (portAt s p).up = true → f.etherType = 0x88B5 → f.fcsOk = true → vlanOk s p f = true →
       let n := stationOf (leAt f.data 2 1)
       let seq : Word := BitVec.ofNat 32 (leAt f.data 4 4)
       stationCfg s n = some c →
       let r := stationRt s n
       let fresh : Prop := ∀ l, r.lastSeq = some l → if r.dropped = true then seq ∉ r.copies ∧ seq ∉ r.copiesPrev else seqAfter l seq = true
       (keacoSound s p f c = false ∨ ¬ fresh → ∃ t, exec (.keacoFrameReceive p f) s = .next t ∧ { t with hdrs := s.hdrs } = s) ∧
       (keacoSound s p f c = true → fresh →
         ∃ t, exec (.keacoFrameReceive p f) s = .next t ∧
           ((∀ a, r.arrived = some a → seqAfter a.1 seq = true) →
             stationRt t n = { r with lastSeq := some seq, copies := seq :: r.copies, arrived := some (seq, (f.data.drop 24).take c.inLen) }) ∧
           ((∃ a, r.arrived = some a ∧ seqAfter a.1 seq = false) →
             stationRt t n = { r with lastSeq := some seq, copies := seq :: r.copies }) ∧
           (∀ m, m ≠ n → stationRt t m = stationRt s m) ∧ { t with hdrs := s.hdrs, run := s.run } = s)) ∧
     (∀ (n : Fin 256) (c : StationCfg) (s : State), stationCfg s n = some c → c.number = n →
       let r := stationRt s n
       let h := stationRt (stationScan n s) n
       (r.arrived = none → h.arrived = none ∧ h.present = false ∧ h.miss = satInc r.miss ∧ h.good = 0 ∧
         (h.dropped = true ↔ r.dropped = true ∨ c.drop.toNat ≤ (satInc r.miss).toNat) ∧
         (r.dropped = false → h.dropped = true → h.drops = satInc r.drops ∧ h.substituted = true ∧
           (hdrAt (stationScan n s) .runControl).raw.getLsbD 2 = true)) ∧
       (r.arrived.isSome = true → h.arrived = none ∧ h.present = true ∧ h.miss = 0 ∧
         (r.dropped = false → h.dropped = false ∧ h.substituted = false) ∧
         (r.dropped = true → h.good = satInc r.good ∧ (h.dropped = false ↔ c.back.toNat ≤ (satInc r.good).toNat)))))
/-! ### Register pages -/

namespace Sys2Proof.Stmt
open Sys2Proof Sys2Proof.Machine

/-- An access of `w` was answered with an error response (R426): it had no effect but ERR_ACCESS and the error count of its page, where that
exists; a supervisor core meets an access fault (R327). -/
def errorAnswered (w : Requester) (pg : Option Page) (s t : State) : Prop :=
  t.resp = .error ∧ { t with hdrs := s.hdrs, resp := s.resp, out := s.out } = s ∧
  (∀ c, coreOf w = some c → t.out = s.out ++ [.accessFault c]) ∧ (coreOf w = none → t.out = s.out) ∧
  (∀ p, pg = some p → pgPresent s.part p = true →
    (hdrAt t p).errAccess = true ∧ { hdrAt t p with cnt := (hdrAt s p).cnt, errAccess := (hdrAt s p).errAccess } = hdrAt s p) ∧
  ∀ p, pg ≠ some p ∨ pgPresent s.part p = false → hdrAt t p = hdrAt s p

/-- An access was answered as done, and of the state only the header of page `pg` changed, by `f` (its counts aside). -/
def headerWrite (pg : Page) (f : PageHdr → PageHdr) (s t : State) : Prop :=
  t.resp = .done ∧ { hdrAt t pg with cnt := (f (hdrAt s pg)).cnt } = f (hdrAt s pg) ∧
  (∀ p, p ≠ pg → hdrAt t p = hdrAt s p) ∧ { t with hdrs := s.hdrs, resp := s.resp } = s

/-- Other 64-bit words that requesters hold than the one of `w` at `off` of `pg` are the same. -/
def otherHeld (w : Requester) (pg : Page) (off : Nat) (s t : State) : Prop :=
  ∀ w' pg' off', (w', pg', off') ≠ (w, pg, off) → heldGet t w' pg' off' = heldGet s w' pg' off'

/-- Is a request non-posted, and which queue is its own (R346)? -/
def isRead : HostOp → Bool
  | .read .. => true
  | .write .. => false

/-- The requests of one kind in queue `n`. -/
def queued (s : State) (n : Fin 9) (rd : Bool) : Nat := ((Vec.at s.host.queues n).filter fun x => isRead x.2 == rd).length

end Sys2Proof.Stmt

open Sys2Proof Sys2Proof.Machine Sys2Proof.Stmt in
/-- R327, R424, R426, Table 17.6: an access to a page that is absent, whose domain is not ON, or of the secure window by a requester that is
not secure, an access at an offset that is no multiple of 4, of a width of 8 or 16 bits, a 64-bit access of a requester that is no supervisor
core, and an access to no page each receive an error response, which a supervisor core meets as an access fault, and have no effect; a
reserved offset reads 0 and ignores a write. The supervisor SRAM answers the cores alone, at addresses aligned to the width.
(A reading of the model that the clauses follow: log entry 9.) -/
def Obligations.RefusedAccessesHaveNoEffect : Prop :=
  (∀ (q : Req) (win : Window) (addr : BitVec 28) (v : Word) (d : DWord) (s : State), win ≠ .sram →
    (∀ pg, pageAt win addr.toNat = some pg → (doorbellAt pg (addr.toNat % 4096)).isNone = true →
      (messageAt pg (addr.toNat % 4096)).isNone = true → secureOnly pg (addr.toNat % 4096) = false →
      addr.toNat % 4 ≠ 0 ∨ pgRefuses q pg s = true →
        (∃ t, exec (.reg64LowRead q win .w32 addr) s = .next t ∧ errorAnswered q.who (some pg) s t) ∧
        (∃ t, exec (.reg64LowWrite q win addr v) s = .next t ∧ errorAnswered q.who (some pg) s t) ∧
        (∃ t, exec (.reg64HighWrite q win addr v) s = .next t ∧ errorAnswered q.who (some pg) s t) ∧
        (∃ t, exec (.registerWrite q win .w32 addr d) s = .next t ∧ errorAnswered q.who (some pg) s t)) ∧
    (∀ wid : AccWidth, wid = .w8 ∨ wid = .w16 ∨ (wid = .w64 ∧ (coreOf q.who = none ∨ addr.toNat % 8 ≠ 0)) →
      (∃ t, exec (.registerWrite q win wid addr d) s = .next t ∧ errorAnswered q.who (pageAt win addr.toNat) s t) ∧
      (∃ t, exec (.reg64LowRead q win wid addr) s = .next t ∧ errorAnswered q.who (pageAt win addr.toNat) s t)) ∧
    (pageAt win addr.toNat = none → traceAt win addr.toNat = none →
      (∃ t, exec (.reg64LowRead q win .w32 addr) s = .next t ∧ errorAnswered q.who none s t) ∧
      (∃ t, exec (.reg64LowWrite q win addr v) s = .next t ∧ errorAnswered q.who none s t) ∧
      (∃ t, exec (.registerWrite q win .w32 addr d) s = .next t ∧ errorAnswered q.who none s t)) ∧
    (∀ pg, pageAt win addr.toNat = some pg → addr.toNat % 4096 = 0xFC → pgRefuses q pg s = false →
      (∃ t, exec (.reg64LowRead q win .w32 addr) s = .next t ∧ t.resp = .value 0 ∧ countsOnly pg s t ∧
        { t with hdrs := s.hdrs, resp := s.resp } = s) ∧
      (∃ t, exec (.reg64LowWrite q win addr v) s = .next t ∧ headerWrite pg id s t))) ∧
  ∀ (q : Req) (wid : AccWidth) (addr : BitVec 28) (d : DWord) (s : State),
    let n := widthBytes wid
    let fits : Prop := (coreOf q.who).isSome = true ∧ addr.toNat % n = 0 ∧ addr.toNat + n ≤ sramSize
    (¬ fits →
      (∃ t, exec (.registerWrite q .sram wid addr d) s = .next t ∧ errorAnswered q.who none s t) ∧
      (∃ t, exec (.reg64LowRead q .sram wid addr) s = .next t ∧ errorAnswered q.who none s t)) ∧
    (fits → memWf s.sram = true →
      (∃ t, exec (.registerWrite q .sram wid addr d) s = .next t ∧ t.resp = .done ∧ { t with sram := s.sram, resp := s.resp } = s ∧
        (∀ k, k < n → memGet t.sram (addr.toNat + k) = d.extractLsb' (8 * k) 8) ∧
        (∀ a, a < addr.toNat ∨ addr.toNat + n ≤ a → memGet t.sram a = memGet s.sram a)) ∧
      (∃ t v, exec (.reg64LowRead q .sram wid addr) s = .next t ∧ t = { s with resp := .value v } ∧
        (∀ k, k < n → v.extractLsb' (8 * k) 8 = memGet s.sram (addr.toNat + k)) ∧ v.toNat < 2 ^ (8 * n)))

open Sys2Proof Sys2Proof.Machine Sys2Proof.Stmt in
/-- R425: a write of the low word of a 64-bit register is held for its requester; a write of the high word commits both at once, with the
current low word where none is held; a supervisor core's 64-bit write does both; a read of the low word latches the high word for its
requester, whose read of the high word returns it; a supervisor core's 64-bit read does both.
(A reading of the model that the clauses follow: log entry 9.) -/
def Obligations.SixtyFourBitRegistersLatchAndCommit : Prop :=
  ∀ (q : Req) (addr : BitVec 28) (pg : Page) (s : State),
    pageAt .control addr.toNat = some pg → pgRefuses q pg s = false →
    let off := addr.toNat % 4096
    (∀ v : Word, rw64 pg off = true →
      ∃ t, exec (.reg64LowWrite q .control addr v) s = .next t ∧ t.resp = .done ∧ heldGet t q.who pg off = some v ∧
        otherHeld q.who pg off s t ∧ countsOnly pg s t ∧ { t with heldLow := s.heldLow, hdrs := s.hdrs, resp := s.resp } = s) ∧
    (∀ (v : Word) (cur : DWord), 4 ≤ off → rw64 pg (off - 4) = true → ¬ (pg = .timebase ∧ off = 0x134) →
      pageReg64 s pg (off - 4) = some cur →
      ∃ t, exec (.reg64HighWrite q .control addr v) s = .next t ∧ t.resp = .done ∧ heldGet t q.who pg (off - 4) = none ∧
        pageReg64 t pg (off - 4) = some (v ++ (heldGet s q.who pg (off - 4)).getD (cur.setWidth 32)) ∧
        (∀ pg' off', 0x100 ≤ off' → (pg', off') ≠ (pg, off - 4) → pageReg64 t pg' off' = pageReg64 s pg' off') ∧
        otherHeld q.who pg (off - 4) s t ∧ countsOnly pg s t ∧
        { t with sched := s.sched, run := s.run, tb := s.tb, ports := s.ports, historian := s.historian, upd := s.upd
                 heldLow := s.heldLow, hdrs := s.hdrs, resp := s.resp } = s) ∧
    (∀ d : DWord, rw64 pg off = true → addr.toNat % 8 = 0 → (coreOf q.who).isSome = true → ¬ (pg = .timebase ∧ off = 0x130) →
      ∃ t, exec (.registerWrite q .control .w64 addr d) s = .next t ∧ t.resp = .done ∧ pageReg64 t pg off = some d ∧
        heldGet t q.who pg off = none ∧ otherHeld q.who pg off s t) ∧
    (∀ cur : DWord, 0x100 ≤ off → off % 8 = 0 → pageReg64 s pg off = some cur → readSpecial q.who pg off = none → latchedWord pg off = false →
      ∃ t, exec (.reg64LowRead q .control .w32 addr) s = .next t ∧ t.resp = .value ((cur.setWidth 32).setWidth 64) ∧
        latchGet t q.who pg off = (cur >>> 32).setWidth 32 ∧
        (∀ w' pg' off', (w', pg', off') ≠ (q.who, pg, off) → latchGet t w' pg' off' = latchGet s w' pg' off') ∧
        countsOnly pg s t ∧ { t with latches := s.latches, hdrs := s.hdrs, resp := s.resp } = s ∧
        ∀ u, u.latches = t.latches → u.part = s.part → pgRefuses q pg u = false → addr.toNat % 4096 + 4 < 4096 →
          ∃ r, exec (.reg64LowRead q .control .w32 (addr + 4)) u = .next r ∧
            (latchedWord pg (off + 4) = false → readSpecial q.who pg (off + 4) = none →
              r.resp = .value (((cur >>> 32).setWidth 32).setWidth 64))) ∧
    (∀ cur : DWord, 0x100 ≤ off → addr.toNat % 8 = 0 → (coreOf q.who).isSome = true → pageReg64 s pg off = some cur →
      readSpecial q.who pg off = none → latchedWord pg off = false → latchedWord pg (off + 4) = false → readSpecial q.who pg (off + 4) = none →
      ∃ t, exec (.reg64LowRead q .control .w64 addr) s = .next t ∧ t.resp = .value cur ∧ countsOnly pg s t ∧
        { t with latches := s.latches, hdrs := s.hdrs, resp := s.resp } = s)

open Sys2Proof Sys2Proof.Machine Sys2Proof.Stmt in
/-- R350, R421 to R423, R429: BLK_CTRL.LOCK and CNT_CLEAR, the clearing and setting of event bits, the store of BLK_IRQ_EN and of a select
code, and the clearing of BLK_STAT, each on one page's header alone.
R10, R423: a write of a lockable field sets it until the page is locked, and is then ignored and recorded in LOCK_VIOL; said of TB_EPOCH.
The other registers of the timebase page keep their values. R395: a write of the confirmation token from a requester that is not secure
receives an error response. An event bit that set at the tick of its clear stays set, and events at the tick of a clear of the counters are
not counted.
(Readings of the model that the clauses follow: log entries 73 and 119.) -/
def Obligations.HeaderCommandsAndLocks : Prop :=
  (∀ (q : Req) (pg : Page) (s : State), pgRefuses q pg s = false →
       (∃ t, exec (.blkLock q pg) s = .next t ∧ headerWrite pg (fun h => { h with lock := true }) s t) ∧
       (∃ t, exec (.blkCntClear q pg) s = .next t ∧ headerWrite pg (fun h => { h with clearTick := some s.tb.tick }) s t ∧
         ∀ i, Vec.at (hdrAt t pg).cnt i = 0) ∧
       (∀ b : Word, ∃ t, exec (.blkIrqStatClear q pg b) s = .next t ∧
         headerWrite pg (fun h => { h with raw := h.raw &&& ~~~(b &&& ~~~h.freshAt s.tb.tick) }) s t ∧
         (∀ i, b.getLsbD i = true → (condWord s pg).getLsbD i = false → ((hdrAt s pg).freshAt s.tb.tick).getLsbD i = false →
           (rawWord t pg).getLsbD i = false) ∧
         (∀ i, ((hdrAt s pg).freshAt s.tb.tick).getLsbD i = true → (rawWord s pg).getLsbD i = true → (rawWord t pg).getLsbD i = true) ∧
         (∀ i, (condWord s pg).getLsbD i = true → (rawWord t pg).getLsbD i = true)) ∧
       (∀ b : Word, ∃ t, exec (.blkIrqSet q pg b) s = .next t ∧ headerWrite pg (fun h => { h with raw := h.raw ||| (b &&& eventMask pg) }) s t) ∧
       (∀ (addr : BitVec 28) (v : Word), pageAt .control addr.toNat = some pg →
         (addr.toNat % 4096 = 0x14 → ∃ t, exec (.reg64LowWrite q .control addr v) s = .next t ∧
           headerWrite pg (fun h => { h with en := v &&& (eventMask pg ||| condMask pg) }) s t) ∧
         (addr.toNat % 4096 = 0x20 → ∃ t, exec (.reg64LowWrite q .control addr v) s = .next t ∧
           headerWrite pg (fun h => { h with sel := Vec.put h.sel 0 (if codeListed pg (v.toNat % 256) then v.setWidth 8 else 0) }) s t) ∧
         (addr.toNat % 4096 = 0x0C → ∃ t, exec (.reg64LowWrite q .control addr v) s = .next t ∧
           headerWrite pg (fun h => { h with lockViol := h.lockViol && !v.getLsbD 0, errAccess := h.errAccess && !v.getLsbD 1 }) s t))) ∧
  ((∀ (q : Req) (d : DWord) (s : State), pgRefuses q .timebase s = false →
       ∃ t, exec (.registerWrite q .control .w32 0x14138 d) s = .next t ∧ t.resp = .done ∧
         ((hdrAt s .timebase).lock = true → headerWrite .timebase (fun h => { h with lockViol := true }) s t) ∧
         ((hdrAt s .timebase).lock = false →
           t.tb = { s.tb with epoch := d.setWidth 16 } ∧ countsOnly .timebase s t ∧
           { t with tb := s.tb, hdrs := s.hdrs, resp := s.resp } = s)) ∧
     (∀ (q : Req) (d : DWord) (s : State), isSecure q = false →
       ∃ t, exec (.registerWrite q .control .w32 0x17128 d) s = .next t ∧ errorAnswered q.who (some .update) s t) ∧
     (∀ (pg : Page) (code n : Nat) (s : State), (hdrAt s pg).clearTick = some s.tb.tick → bump pg code n s = s))

open Sys2Proof Sys2Proof.Machine Sys2Proof.Stmt in
/-- R344, R346, R385, R424, Table 13.6: a host request reaches its own queue, bringing a link in L1 back to L0; a read to a queue of 16
non-posted requests completes with Completer Abort, a write to one of 64 posted writes is discarded, both counted; no other queue is affected.
The queue that is due is served and its turn counted; a read of a tenant window beyond the pool, longer than 512 bytes, without all byte
enables or in recovery is an Unsupported Request, and any other travels as packets of at most 256 bytes, with whose last the read completes
with the pool's bytes. (How a request to a tenant window travels, and the turns of the round robin, are the model's choice, log entries 43
and 76.) -/
def Obligations.HostRequestsAreQueuedAndServed : Prop :=
  (∀ (target : HostTarget) (op : HostOp) (s : State),
    let n : Fin 9 := match target with
      | .bar0 _ => 0
      | .window t _ => ⟨t.val + 1, by omega⟩
    (s.host.link ≠ .l0 → s.host.link ≠ .l1 → exec (.hostRequest (.submit target op)) s = .next s) ∧
    (s.host.link = .l0 ∨ s.host.link = .l1 → ∃ t, exec (.hostRequest (.submit target op)) s = .next t ∧ t.host.link = .l0 ∧
      (∀ m, m ≠ n → Vec.at t.host.queues m = Vec.at s.host.queues m) ∧
      (isRead op = true → 16 ≤ queued s n true →
        t.host.abort = satInc s.host.abort ∧ t.host.dropped = s.host.dropped ∧ t.host.queues = s.host.queues ∧
        t.out.getLast? = some (.completion n .abort)) ∧
      (isRead op = false → 64 ≤ queued s n false →
        t.host.dropped = satInc s.host.dropped ∧ t.host.abort = s.host.abort ∧ t.host.queues = s.host.queues) ∧
      (queued s n (isRead op) < (if isRead op then 16 else 64) →
        Vec.at t.host.queues n = Vec.at s.host.queues n ++ [(target, op)] ∧ t.host.abort = s.host.abort ∧ t.host.dropped = s.host.dropped) ∧
      { t with host := s.host, hdrs := s.hdrs, out := s.out, recorder := s.recorder, free := s.free } = s ∧
      { t.host with queues := s.host.queues, abort := s.host.abort, dropped := s.host.dropped, link := s.host.link
                    eventDue := s.host.eventDue } = s.host ∧
      (s.host.link = .l0 → countsOnly .hostLink s t ∧ t.recorder = s.recorder ∧ t.free = s.free ∧ t.host.eventDue = s.host.eventDue ∧
        t.out = s.out ++ if isRead op = true ∧ 16 ≤ queued s n true then [.completion n .abort] else []))) ∧
  (∀ s : State, dueQueue s = none → exec (.hostRequest .serve) s = .next s) ∧
  (∀ s : State, (∀ n, Vec.at s.host.queues n = []) → dueQueue s = none) ∧
  (∀ (w : Fin 8) (a : BitVec 26) (len : Nat) (en fresh : Bool) (rest : List (HostTarget × HostOp)) (s : State),
    let n : Fin 9 := ⟨w.val + 1, by omega⟩
    dueQueue s = some (n, fresh) → Vec.at s.host.queues n = (.window w a, .read len en) :: rest →
    ∃ t, exec (.hostRequest .serve) s = .next t ∧ Vec.at t.host.queues n = rest ∧ t.host.turn = n ∧
      Vec.at t.host.turns n = (if fresh then 0 else Vec.at s.host.turns n) + 1 ∧
      (∀ m, m ≠ n → Vec.at t.host.queues m = Vec.at s.host.queues m) ∧ t.pool = s.pool ∧
      (len = 0 ∨ 512 < len ∨ poolSize s.part < a.toNat + len ∨ en = false ∨ s.upd.recovery = true → t.out = s.out ++ [.completion n .error] ∧ t.packets = s.packets) ∧
      (0 < len → len ≤ 512 → a.toNat + len ≤ poolSize s.part → en = true → s.upd.recovery = false →
        t.out = s.out ∧ ∃ ps, t.packets = s.packets ++ ps ∧ ps.length = (len + 255) / 256 ∧ (ps.map fun p => kindLen p.kind).sum = len ∧
          ∀ p ∈ ps, p.src = .hostWindow w ∧ p.tenant = some (BitVec.ofNat 3 w.val) ∧ p.request = some s.host.nextRun ∧ p.hop = 0 ∧
            p.waiting = 0 ∧ ∃ k ≤ 256, p.kind = .read k)) ∧
  (∀ (s : State) (p : Packet) (x : HostRun) (n : Nat), (∀ y ∈ s.packets, y.id = p.id → y = p) → p ∈ s.packets → p.waiting = 0 →
    p.hop < routeCodes p.route → s.part.hasTile p.tile.val = true → routePort p.route p.hop = 8 → ownsAddress s p = true →
    p.kind = .read n → badIn s p.addr.toNat n = [] → p.request = some x.id → s.host.runs.find? (fun y => y.id == x.id) = some x →
    x.read = true → x.pieces = [(p.id, none)] →
    ∃ t, exec (.bePacketArrive p.id []) s = .next t ∧ t.out = s.out ++ [.completion x.queue (.bytes (memRead s.pool p.addr.toNat n))] ∧
      t.host = { s.host with runs := s.host.runs.filter fun y => y.id != x.id })
/-! ### The loop array page -/

namespace Sys2Proof.Stmt
open Sys2Proof Sys2Proof.Machine

/-- The loop array of tile `c`. -/
def loopOf (s : State) (c : Fin 6) : LoopArray := (Vec.at s.crests c).loop

/-- Beside its answer, headers, the recorder and the free-value count, a command changed the loop array of tile `c` alone, by `f`. -/
def loopOnly (c : Fin 6) (f : LoopArray → LoopArray) (s t : State) : Prop :=
  loopOf t c = f (loopOf s c) ∧ Vec.at t.crests c = { Vec.at s.crests c with loop := loopOf t c } ∧
  (∀ d, d ≠ c → Vec.at t.crests d = Vec.at s.crests d) ∧
  { t with crests := s.crests, hdrs := s.hdrs, recorder := s.recorder, free := s.free, resp := s.resp } = s

/-- Was a loop closed at its previous step? -/
def wasClosed (a : LoopArray) (l : BitVec 10) : Bool := (lrec a l 0x94).getLsbD 7 && closedMode (bits (lrec a l 0x94) 4 3).toNat

/-- MREQ of a step: MODE_REQ where it asks for a mode (R142). -/
def mreqOf (a : LoopArray) (l : BitVec 10) : Nat :=
  let r := (bits (lrec a l 0x14) 0 3).toNat
  if 1 ≤ r ∧ r ≤ 4 then r - 1 else (bits (lrec a l 0x94) 0 3).toNat

/-- A used input of a slot is unusable in a mode (R144). -/
def unusable (a : LoopArray) (l : BitVec 10) (mode track : Nat) : Prop :=
  notFinite (lrecN a l 0x00) = true ∨ (lrec a l 0x14).getLsbD 3 = true ∨ notFinite (wspOf a l mode) = true ∨
  notFinite (lrecN a l 0x08) = true ∨ (mode = 0 ∧ notFinite (lrecN a l 0x0C) = true) ∨ (mode = 3 ∧ notFinite track = true)

/-- Rows 4 to 7 of Table 5.7: the mode, the value to track, CAS_FAIL and OUTER_TRK. -/
def rowsFour (a : LoopArray) (slots : List (BitVec 10)) (l : BitVec 10) (m : ModeRes) : Prop :=
  let mreq := mreqOf a l
  let inner := slots.find? fun k => cfgCas (cfgOf a k) == l
  let trk := lrecN a l 0x10
  m.mreq = mreq ∧ m.bad = false ∧
  (mreq = 0 ∨ mreq = 3 → m.mode = mreq ∧ m.track = trk ∧ m.casFail = false ∧ m.outerTrk = false) ∧
  (mreq ≠ 0 → mreq ≠ 3 →
    (∀ k, inner = some k → mprev a k ≠ 2 → m.mode = 3 ∧ m.track = lrecN a k 0x48 ∧ m.casFail = false ∧ m.outerTrk = true) ∧
    ((∀ k, inner = some k → mprev a k = 2) → m.track = trk ∧ m.outerTrk = false ∧
      (mreq = 2 → cfgCas (cfgOf a l) = 0x3FF → m.mode = 1 ∧ m.casFail = true) ∧
      (¬ (mreq = 2 ∧ cfgCas (cfgOf a l) = 0x3FF) → m.mode = mreq ∧ m.casFail = false)))

/-- Of the loop memory only output and state words of the slots `ls` differ (R137, R138). -/
def onlyBlocks (ls : List (BitVec 10)) (a b : LoopArray) : Prop :=
  ∀ x, (∀ l ∈ ls, x < 256 * l.toNat + 0x40 ∨ 256 * l.toNat + 0x9C ≤ x) → memGet b.mem x = memGet a.mem x

end Sys2Proof.Stmt

open Sys2Proof Sys2Proof.Machine Sys2Proof.Stmt in
/-- R136 to R147, Tables 5.2, 5.3, 5.4, 5.7: the control law. The effective mode follows the rows of Table 5.7; a step of a slot outside any group
writes OUT, CAND, the terms, MODE with its flags and SEQ, and the state block, by loop_step; with an unusable input it holds; an override
group's members compete by low-select and carry the group output, by group_step; the interval h runs from the slot's previous scheduled step. An
entry that names a member other than the head does nothing, and one that reads an uncorrectable word writes nothing. STEP_START runs the entries
(RoundsSlotsStepsAndDeadlines). (The formats of the operations, a group with unusable inputs, and the choices of Table 5.7's edges and of two
entries of a slot in one slot are log entries 15, 16, 17 and 114.)
R148: a WRITE is refused with BUSY while one is pending, with OWNER for another tenant's slot, with BAD_VALUE for a block that is not
valid or that changes a fixed field, in this order, and changes nothing; else it waits. For a slot that is idle or has never stepped it is
decided at once, is written and replaces a held block, and for any other it waits for the slot's next step, which decides NOT_OPEN where the
loop is not open; each decision raises WRITE_DONE. READ copies the 256 bytes of the selected record.
R154, Table 5.11: ARM with ENABLE set enters RECORDING; FIRE in RECORDING enters TRIGGERED and raises TRC_TRIG, and does nothing
elsewhere; ENABLE written 0 returns to IDLE; the trace memory reads as its records and a write to it changes nothing. That the record
after a FIRE is the trigger record is the model's reading (log entry 30); that a refused WRITE raises no second WRITE_DONE is log entry 95. -/
def Obligations.LoopParametersAndTrace : Prop :=
  ((∀ (a : LoopArray) (slots : List (BitVec 10)) (l : BitVec 10),
       let m := effMode a slots l
       (blockValid (paramsOf a l) = false → m.mode = 0 ∧ m.bad = true ∧ m.casFail = false ∧ m.outerTrk = false ∧ m.mreq = mreqOf a l) ∧
       (blockValid (paramsOf a l) = true → ∃ r, rowsFour a slots l r ∧ (¬ unusable a l r.mode r.track → m = r) ∧
         (unusable a l r.mode r.track → m.mode = 3 ∧ m.bad = true ∧ m.casFail = false ∧ m.outerTrk = false ∧ m.mreq = mreqOf a l))) ∧
     (∀ (a : LoopArray) (l : BitVec 10) (mode h : Nat),
       let n := lrecN a l
       let p (k : Nat) : Nat := lrecN a l (0xC0 + 4 * k)
       let sg (x : Nat) : Nat := if (cfgOf a l).getLsbD 0 then b32.flip x else x
       let src := cfgCas (cfgOf a l)
       let t := termsOf a l mode h
       let rest (x : Nat) : Nat := fadd64 (fadd64 (fadd64 x (to64 t.dt)) (to64 t.ff)) (to64 (p 7))
       t.wsp = (if mode = 2 ∧ src ≠ 0x3FF then lrecN a src 0x40 else n 0x04) ∧ t.e = sg (fsub32 t.wsp (n 0x00)) ∧
       t.pt = fmul32 (p 0) (sg (fsub32 (fmul32 (p 4) t.wsp) (n 0x00))) ∧ t.y = sg (fsub32 (fmul32 (p 5) t.wsp) (n 0x00)) ∧
       t.ff = fmul32 (p 6) (n 0x08) ∧
       t.dt = (if closedMode mode && wasClosed a l then
         fdiv32 (fadd32 (fmul32 (p 3) (n 0x88)) (fmul32 (p 2) (fsub32 t.y (n 0x8C)))) (fadd32 (p 3) (secondsOf b32 h)) else 0) ∧
       t.sum = rest (to64 t.pt) ∧ (∀ x, sumFrom a l t x = to32 (rest x)) ∧
       (∀ u, let bound (down : Bool) : Nat :=
               let d := fmul64 (to64 (p (if down then 11 else 10))) (secondsOf b64 h)
               to32 (if down then fsub64 (to64 (n 0x90)) d else fadd64 (to64 (n 0x90)) d)
             let v := if flt32 0 (p 10) && flt32 (bound false) u then bound false else u
             rateLimit a l h u = if !(lrec a l 0x94).getLsbD 7 then u else if flt32 0 (p 11) && flt32 v (bound true) then bound true else v)) ∧
     (∀ (a : LoopArray) (slots : List (BitVec 10)) (l : BitVec 10) (h : Nat), memWf a.mem = true →
       let n := lrecN a l
       let p (k : Nat) : Nat := lrecN a l (0xC0 + 4 * k)
       let m := effMode a slots l
       let t := termsOf a l m.mode h
       let b := loopStep slots h l a
       let old := integ a l
       let word (x : Nat) : Word := BitVec.ofNat 32 x
       onlyBlocks [l] a b ∧ lrec b l 0x64 = lrec a l 0x64 + 1 ∧ (∀ k, k < 6 → lrec b l (0x68 + 4 * k) = 0) ∧
       (m.bad = true → lrec b l 0x40 = lrec a l 0x90 ∧ lrec b l 0x44 = lrec a l 0x90 ∧ integ b l = old ∧
         (∀ o ∈ [0x48, 0x4C, 0x50, 0x54, 0x58, 0x5C, 0x88, 0x8C, 0x90, 0x98], lrec b l o = lrec a l o) ∧
         lrec b l 0x94 = num m.mreq 0 ||| num m.mode 4 ||| flag true 7 ∧
         lrec b l 0x60 = num m.mode 0 ||| flag true 11 ||| flag (a.held.any fun x => x.1 == l) 14) ∧
       (m.bad = false → ∃ u i hi lo rate awh,
         lrec b l 0x40 = word u ∧ lrec b l 0x44 = word u ∧ lrec b l 0x48 = word t.wsp ∧ lrec b l 0x4C = word t.e ∧ lrec b l 0x50 = word t.pt ∧
         lrec b l 0x54 = word (to32 i) ∧ lrec b l 0x58 = word t.dt ∧ lrec b l 0x5C = word t.ff ∧
         lrec b l 0x60 = num m.mode 0 ||| flag hi 3 ||| flag lo 4 ||| flag rate 5 ||| flag awh 6 ||| flag m.casFail 12 ||| flag m.outerTrk 13 |||
           flag (a.held.any fun x => x.1 == l) 14 ∧
         memDword b.mem (256 * l.toNat + 0x80) = BitVec.ofNat 64 i ∧ lrec b l 0x88 = word t.dt ∧ lrec b l 0x8C = word t.y ∧
         lrec b l 0x90 = word u ∧ lrec b l 0x94 = word (m.mreq + m.mode * 16 + 128) ∧ lrec b l 0x98 = word u ∧
         (closedMode m.mode = false →
           (u, hi, lo) = clamp32 (if m.mode = 0 then n 0x0C else m.track) (p 9) (p 8) ∧ rate = false ∧ awh = false ∧ i = fsub64 (to64 u) t.sum) ∧
         (closedMode m.mode = true → ∃ try_ v c,
           try_ = (if wasClosed a l then fadd64 old (fmul64 (fmul64 (to64 (p 1)) (secondsOf b64 h)) (to64 t.e)) else fsub64 (to64 (n 0x90)) t.sum) ∧
           v = sumFrom a l t (fadd64 (to64 t.pt) try_) ∧ (c, hi, lo) = clamp32 v (p 9) (p 8) ∧ u = rateLimit a l h c ∧ (rate = true ↔ u ≠ c) ∧
           ((cfgOf a l).getLsbD 1 = false →
             (awh = true ↔ u ≠ v ∧ fsign b64 (fsub64 try_ old) = fsign b32 (fsub32 v u)) ∧ i = if awh then old else try_) ∧
           ((cfgOf a l).getLsbD 1 = true → awh = false ∧
             i = fadd64 try_ (fmul64 (fmul64 (to64 (p 12)) (secondsOf b64 h)) (fsub64 (to64 u) (to64 v))))))) ∧
     (∀ (a : LoopArray) (slots g : List (BitVec 10)) (head : BitVec 10) (h : Nat), memWf a.mem = true → g.Nodup → head ∈ g →
       let m := groupMode a slots g head
       let b := groupStep slots h g head a
       let word (x : Nat) : Word := BitVec.ofNat 32 x
       ∃ asked, rowsFour a slots head asked ∧
       (let bad (j : BitVec 10) : Prop :=
          blockValid (paramsOf a j) = false ∨ unusable a j asked.mode (if j = head then asked.track else lrecN a j 0x10)
        let holds : Prop := (closedMode asked.mode = false ∧ bad head) ∨ ∀ j ∈ g, bad j
        let sum (j : BitVec 10) (x : Nat) : Nat := sumFrom a j (termsOf a j m.mode h) x
        (blockValid (paramsOf a head) = false → m.mode = 0 ∧ m.bad = true) ∧
        (blockValid (paramsOf a head) = true → holds → m.mode = 3 ∧ m.bad = true) ∧
        (blockValid (paramsOf a head) = true → ¬ holds → m = asked) ∧
        onlyBlocks g a b ∧
        ∃ (u : Nat) (hi lo rate : Bool) (w : Option (BitVec 10)) (cand : BitVec 10 → Nat × Bool × Bool),
          (∀ j ∈ g, (bad j → cand j = (lrecN a j 0x98, false, false)) ∧
            (¬ bad j → closedMode m.mode = false → cand j = (u, hi, lo)) ∧
            (¬ bad j → closedMode m.mode = true → wasClosed a head = false → cand j = (lrecN a head 0x90, false, false)) ∧
            (¬ bad j → closedMode m.mode = true → wasClosed a head = true → cand j = clamp32
              (sum j (fadd64 (fadd64 (to64 (termsOf a j m.mode h).pt) (integ a j))
                (fmul64 (fmul64 (to64 (lrecN a j 0xC4)) (secondsOf b64 h)) (to64 (termsOf a j m.mode h).e))))
              (lrecN a j 0xE4) (lrecN a j 0xE0))) ∧
          (closedMode m.mode = false → w = none ∧ rate = false ∧
            (let v := if m.mode = 0 then lrecN a head 0x0C else m.track
             (m.bad = true ∨ notFinite v = true → u = lrecN a head 0x90 ∧ hi = false ∧ lo = false) ∧
             (m.bad = false → notFinite v = false → (u, hi, lo) = clamp32 v (lrecN a head 0xE4) (lrecN a head 0xE0)))) ∧
          (closedMode m.mode = true → ∃ x, w = some x ∧
            x = g.tail.foldl (fun w j => if flt32 (cand j).1 (cand w).1 then j else w) (g.headD head) ∧
            u = rateLimit a head h (cand x).1 ∧ (rate = true ↔ u ≠ (cand x).1)) ∧
          ∀ j ∈ g,
            let t := termsOf a j m.mode h
            lrec b j 0x40 = word u ∧ lrec b j 0x44 = word (cand j).1 ∧ lrec b j 0x64 = lrec a j 0x64 + 1 ∧
            (bits (lrec b j 0x60) 0 3).toNat = (if blockValid (paramsOf a j) then m.mode else 0) % 8 ∧
            (lrec b j 0x60).getLsbD 15 = true ∧ ((lrec b j 0x60).getLsbD 3 = (cand j).2.1) ∧ ((lrec b j 0x60).getLsbD 4 = (cand j).2.2) ∧
            ((lrec b j 0x60).getLsbD 5 = rate) ∧ ((lrec b j 0x60).getLsbD 7 = true ↔ w = some j) ∧ ((lrec b j 0x60).getLsbD 11 = true ↔ bad j) ∧
            (∀ x, w = some x → bits (lrec b j 0x60) 8 3 = BitVec.ofNat 3 (cfgOrder (cfgOf a x))) ∧
            (bad j → integ b j = integ a j ∧ ∀ o ∈ [0x88, 0x8C, 0x98], lrec b j o = lrec a j o) ∧
            (¬ bad j → lrec b j 0x88 = word t.dt ∧ lrec b j 0x8C = word t.y ∧ lrec b j 0x90 = word u ∧ lrec b j 0x98 = word (cand j).1 ∧
              memDword b.mem (256 * j.toNat + 0x80) = BitVec.ofNat 64 (fsub64 (to64 u) (if w = some j ∨ w = none then t.sum else
                fadd64 (fadd64 (to64 t.dt) (to64 t.ff)) (to64 (lrecN a j 0xDC))))))) ∧
     (∀ (c : Fin 6) (l : BitVec 10) (again : Bool) (s : State) (im : SchedImage), s.sched.active = some im →
       let slots := loopSlots s c
       let g := groupOf (loopOf s c) slots l
       let t := runLoopEntry c l again s
       let bad := badRecords c (recordsRead (loopOf s c) slots g l) s
       (g.headD l ≠ l → t = s) ∧
       (g.headD l = l → bad ≠ [] → loopOf t c = loopOf s c ∧ (Vec.at t.crests c).failAtRoundEnd = true) ∧
       (g.headD l = l → bad = [] → ∃ a,
         ((∀ p, (loopOf s c).pending = some p → p.1 ∉ g) → (∀ x ∈ (loopOf s c).held, x.1 ∉ g) → a = loopOf s c) ∧
         (let h := if again then 0 else hSlots im c l s.sched.round.toNat s.sched.slot.toNat * slotNsOf im
          (loopOf t c).mem = (if cfgGroupEn (cfgOf a l) then groupStep slots h g l a else loopStep slots h l a).mem)) ∧
       (∀ d, d ≠ c → loopOf t d = loopOf s d) ∧ t.pool = s.pool) ∧
     (∀ (im : SchedImage) (c : Fin 6) (l : BitVec 10) (round slot : Nat),
       let n := im.roundSlots.toNat
       let es := im.loopSteps.filter fun e => e.crest.toNat == c.val && e.loop == l
       let h := hSlots im c l round slot
       let back (e : LoopStep) (d : Nat) : Prop := 0 < d ∧
         (e.t.phase.toNat * n + e.t.slot.toNat + d) % (n * 2 ^ e.t.rate.toNat) = (round * n + slot) % (n * 2 ^ e.t.rate.toNat)
       (∀ e ∈ es, e.t.slot.toNat < n) →
         (∀ e ∈ es, ∀ d, back e d → h ≤ d) ∧ (h = n * 2 ^ im.maxRate.toNat ∨ ∃ e ∈ es, back e h))) ∧
  ((∀ (q : Req) (c : Fin 6) (s : State), pgRefuses q (.loopArray c) s = false →
       let a := loopOf s c
       let foreign : Prop := ∃ t, reqTenant q s = some t ∧ loopOwner s c a.sel ≠ some t
       let badValue : Prop := blockValid a.params.toList = false ∨ (Vec.at a.params 13 ^^^ cfgOf a a.sel) &&& cfgFixed ≠ 0
       let decided (t : State) : Prop := (hdrAt t (.loopArray c)).raw.getLsbD 0 = true
       ∃ t, exec (.lpaWrite q c) s = .next t ∧ t.resp = .done ∧
         (a.pending.isSome = true → loopOnly c (fun a => { a with code := 0x31 }) s t ∧ countsOnly (.loopArray c) s t) ∧
         (a.pending = none → foreign → loopOnly c (fun a => { a with code := 0x32 }) s t ∧ decided t) ∧
         (a.pending = none → ¬ foreign → badValue → loopOnly c (fun a => { a with code := 0x33 }) s t ∧ decided t) ∧
         (a.pending = none → ¬ foreign → ¬ badValue →
           loopOnly c (fun a => { a with pending := some (a.sel, a.params) }) s t ∧ countsOnly (.loopArray c) s t)) ∧
     (∀ (c : Fin 6) (s : State) (l : BitVec 10) (ws : Vec Word 16), (loopOf s c).pending = some (l, ws) →
       (loopAtRest s c l = false → exec (.lpaWriteDecide c) s = .next s) ∧
       (loopAtRest s c l = true → memWf (loopOf s c).mem = true →
         ∃ t, exec (.lpaWriteDecide c) s = .next t ∧ (hdrAt t (.loopArray c)).raw.getLsbD 0 = true ∧
           (∀ i : Fin 16, lrec (loopOf t c) l (0xC0 + 4 * i.val) = Vec.at ws i) ∧
           (∀ b, b < 256 * l.toNat + 0xC0 ∨ 256 * l.toNat + 0x100 ≤ b → memGet (loopOf t c).mem b = memGet (loopOf s c).mem b) ∧
           (∀ x, x ∈ (loopOf t c).held ↔ x ∈ (loopOf s c).held ∧ x.1 ≠ l) ∧
           loopOf t c = { loopOf s c with pending := none, code := 0, mem := (loopOf t c).mem, held := (loopOf t c).held } ∧
           (∀ w, w ∈ (Vec.at t.crests c).badLoopWords ↔ w ∈ (Vec.at s.crests c).badLoopWords ∧ ¬ (256 * l.toNat + 0xC0 ≤ w ∧ w + 8 ≤ 256 * l.toNat + 0x100)) ∧
           { Vec.at t.crests c with loop := loopOf s c, badLoopWords := (Vec.at s.crests c).badLoopWords
                                    softLoopWords := (Vec.at s.crests c).softLoopWords } = Vec.at s.crests c ∧
           (∀ d, d ≠ c → Vec.at t.crests d = Vec.at s.crests d) ∧
           { t with crests := s.crests, hdrs := s.hdrs, recorder := s.recorder, free := s.free } = s) ∧
       (openToWrite s c l = false →
         loopOnly c (fun a => { a with pending := none, code := 0x30 }) s (decideWrite c s) ∧
         (hdrAt (decideWrite c s) (.loopArray c)).raw.getLsbD 0 = true)) ∧
     (∀ (c : Fin 6) (s : State), (loopOf s c).pending = none → exec (.lpaWriteDecide c) s = .next s) ∧
     (∀ (q : Req) (c : Fin 6) (s : State), pgRefuses q (.loopArray c) s = false →
       ∃ t, exec (.lpaRead q c) s = .next t ∧ t.resp = .done ∧ countsOnly (.loopArray c) s t ∧
         (∀ i : Fin 64, Vec.at (loopOf t c).rd i = lrec (loopOf s c) (loopOf s c).sel (4 * i.val)) ∧
         loopOnly c (fun a => { a with rd := (loopOf t c).rd }) s t)) ∧
  ((∀ (q : Req) (c : Fin 6) (s : State), pgRefuses q (.loopArray c) s = false →
       (∃ t, exec (.trcArm q c) s = .next t ∧ t.resp = .done ∧ countsOnly (.loopArray c) s t ∧
         ((loopOf s c).trcEnable = true →
           loopOnly c (fun a => { a with trcState := .recording, trcWrapped := false, trcFired := false }) s t) ∧
         ((loopOf s c).trcEnable = false → loopOnly c id s t)) ∧
       (∃ t, exec (.trcFire q c) s = .next t ∧ t.resp = .done ∧
         ((loopOf s c).trcState = .recording →
           loopOnly c (fun a => { a with trcState := .triggered, trcFired := true }) s t ∧ (hdrAt t (.loopArray c)).raw.getLsbD 1 = true) ∧
         ((loopOf s c).trcState ≠ .recording → loopOnly c id s t ∧ countsOnly (.loopArray c) s t)) ∧
       (∃ t, exec (.trcDisable q c) s = .next t ∧ t.resp = .done ∧ countsOnly (.loopArray c) s t ∧
         loopOnly c (fun a => { a with trcEnable := false, trcState := .idle, trcFired := false }) s t)) ∧
     (∀ (q : Req) (c : Fin 6) (addr : BitVec 28) (d : DWord) (s : State), pgRefuses q (.loopArray c) s = false →
       0x1000000 * (c.val + 1) + 0x400000 ≤ addr.toNat → addr.toNat < 0x1000000 * (c.val + 1) + 0x440000 → addr.toNat % 4 = 0 →
       (∃ t, exec (.reg64LowRead q .control .w32 addr) s = .next t ∧
         t.resp = .value ((memWord (loopOf s c).traceMem (addr.toNat - (0x1000000 * (c.val + 1) + 0x400000))).setWidth 64) ∧
         { t with resp := s.resp } = s) ∧
       (∃ t, exec (.registerWrite q .control .w32 addr d) s = .next t ∧ { t with resp := s.resp } = s)))
/-! ### The field tile -/

namespace Sys2Proof.Stmt
open Sys2Proof Sys2Proof.Machine

/-- Every switch of Foothill stands as its drive, its trip and its lock-out decide (R231, R234, R235), and no driven AO is in trim mode
(R240). -/
def switchesFollow (t : State) : Prop :=
  (∀ n : Fin 24, t.field.doSw.getLsbD n.val = (doDrive t n && !t.field.doTrip.getLsbD n.val)) ∧
  (∀ n : Fin 8, t.field.tloSw.getLsbD n.val = (tloDrive t n && !t.field.tloLock.getLsbD n.val)) ∧
  ∀ n : Fin 16, (aoDrive t n).isSome = true → t.field.trim.getLsbD n.val = false

/-- Foothill apart from its switches, their terminals and expected values, blanking, mismatch marks, the currents asked of its analogue
outputs, and trim modes that end with ABORTED. -/
def sameButSwitches (f g : Field) : Prop :=
  { g with doSw := f.doSw, tloSw := f.tloSw, doTerm := f.doTerm, tloHi := f.tloHi, tloLo := f.tloLo, doBlank := f.doBlank
           tloBlank := f.tloBlank, doMis := f.doMis, tloMis := f.tloMis, tloShort := f.tloShort, doExp := f.doExp, tloExp := f.tloExp
           aoAsk := f.aoAsk, trim := f.trim, trimCode := f.trimCode } = f ∧
  (∀ n, g.trim.getLsbD n = true → f.trim.getLsbD n = true) ∧ (g.trim = f.trim → g.trimCode = f.trimCode) ∧
  (g.trim ≠ f.trim → g.trimCode = 0x72)

/-- Foothill changed by `f`, with its switches following, trim mode left by the channels that are driven and the currents asked anew; beside
it only headers, the recorder and the free-value count. -/
def fieldChanged (f : Field → Field) (s t : State) : Prop :=
  sameButSwitches (f s.field) t.field ∧ switchesFollow t ∧ eventFrame { s with field := t.field } t ∧
  ∀ n : Fin 16, Vec.at t.field.aoAsk n = aoAsked t n ∧
    (t.field.trim.getLsbD n.val = ((f s.field).trim.getLsbD n.val && (aoDrive t n).isNone))

/-- Foothill changed by `f` exactly, and nothing else but headers, the recorder and the free-value count. -/
def fieldExactly (f : Field → Field) (s t : State) : Prop := t.field = f s.field ∧ eventFrame { s with field := t.field } t

/-- Everything that Foothill drives is off. -/
def allOff (t : State) : Prop :=
  t.field.doSw = 0 ∧ t.field.tloSw = 0 ∧ ∀ n, aoDrive t n = none

/-- No AO asks its output stage for a current, be it in trim mode. -/
def asksNothing (t : State) : Prop := ∀ n, Vec.at t.field.aoAsk n = 0

/-- FAULT is raised. -/
def faultRaised (t : State) : Prop := (hdrAt t .field).raw.getLsbD 0 = true

end Sys2Proof.Stmt

open Sys2Proof Sys2Proof.Machine Sys2Proof.Stmt in
/-- R7, R218, R219, R220, R224, R240, R244, R343, R404: the field link comes up on a valid frame, each of which brings the raw levels of
Foothill's pins, passed at once where the debounce time is 0, and after 200 us without one Foothill is ALONE, its single-drive outputs off, in
trim mode too, and the others at their safe values, and the hub shows the link as down; under-voltage lock-out switches everything off and, ended, holds every output until its next commit; the die temperature sets HOT, and at 155 degrees
switches everything off; a power-on reset restores Foothill. A device without a field tile is not changed by any of these. (That
Foothill's stamps are Saddle's, and what the page shows before the link has come up, are the model's reading, log entry 32.) -/
def Obligations.FieldLinkSupplyAndTemperature : Prop :=
  (∀ (pins : FieldPins) (mv : BitVec 16) (temp : BitVec 11) (s : State), s.part.hasField = false →
    exec (.fieldLinkFrame pins) s = .next s ∧ exec .fieldLinkTimeout s = .next s ∧ exec (.uvloEnter mv) s = .next s ∧
    exec (.foothillHot temp) s = .next s ∧ exec (.foothillShutdown temp) s = .next s ∧ exec .foothillPowerOn s = .next s ∧
    exec .foothillPowerLoss s = .next s ∧ exec .fieldFence s = .next s) ∧
  (∀ (pins : FieldPins) (s : State), s.part.hasField = true → s.field.powered = true → Vec.at s.super.pd 7 ≠ .off →
    Vec.at s.super.pd 7 ≠ .stopping →
    let m := atOnce s
    let shown (f : Field) : Field := { f with
      diRaw := pins.di, diFilt := (f.diFilt &&& ~~~m) ||| (pins.di &&& m), fenceHigh := pins.fenceHigh }
    let sealed : Safety := { s.safety with sealRaw := pins.sealIn }
    (∀ k : Fin 64, m.getLsbD k.val = true ↔ (∃ c, diCfg s k = some c ∧ c.debounceUs = 0) ∧ diBlanked s k = false) ∧
    (s.field.linkUp = true → exec (.fieldLinkFrame pins) s = .next { s with field := shown s.field, safety := sealed }) ∧
    (s.field.linkUp = false → ∃ t, exec (.fieldLinkFrame pins) s = .next t ∧
      t.field = { shown s.field with linkUp := true } ∧ t.safety = sealed ∧ t.hub = { s.hub with up := setBit s.hub.up 8 true } ∧
      (hdrAt t .field).raw.getLsbD 3 = true ∧ eventFrame { s with field := t.field, safety := t.safety, hub := t.hub } t)) ∧
  (∀ s : State, s.part.hasField = true → s.field.powered = true →
    ∃ t, exec .fieldLinkTimeout s = .next t ∧ t.field.linkUp = false ∧ t.field.alone = true ∧ switchesFollow t ∧
      (∀ n c, doCfg s n = some c → c.single = true → t.field.doSw.getLsbD n.val = false) ∧
      (∀ n c, doCfg s n = some c → c.single = false → fieldDead s = false → s.field.doWait.getLsbD n.val = false →
        s.field.doTrip.getLsbD n.val = false → t.field.doSw.getLsbD n.val = c.safeOn) ∧ t.field.tloSw = 0 ∧
      (∀ n c, aoCfg s n = some c → c.single = true → aoDrive t n = none ∧ Vec.at t.field.aoAsk n = 0) ∧
      (s.field.linkUp = true → (hdrAt t .field).raw.getLsbD 3 = true ∧ (hdrAt t .hub).raw.getLsbD 0 = true ∧
        t.hub.up.getLsbD 8 = false ∧ t.hub.down.getLsbD 8 = true) ∧
      (startingUp s = true → s.field.linkUp = true → t.pwr.stage = 15 ∧ t.pwr.startCode = 0xF1 ∧ t.pwr.startTile = 7) ∧
      (startingUp s = false → Vec.at s.super.pd 7 = .on → s.run.state = .running → inTrio s = false → t.run.state = .stopped)) ∧
  (∀ (mv : BitVec 16) (s : State), s.part.hasField = true → s.field.powered = true → s.field.uvlo = false →
    ∃ t, exec (.uvloEnter mv) s = .next t ∧ fieldChanged (fun f => { f with uvlo := true, vfield := mv }) s t ∧ allOff t ∧ asksNothing t ∧
      tpsOn t = 0 ∧ (∀ n, diBroken t n = true) ∧ faultRaised t) ∧
  (∀ (mv : BitVec 16) (s : State), s.part.hasField = true → s.field.uvlo = true →
    ∃ t, exec (.uvloExit mv) s = .next t ∧ allOff t ∧ (∀ n, diBroken t n = true) ∧
      fieldChanged (fun f => { f with
        uvlo := false, vfield := mv, doWait := BitVec.allOnes 24, tloWait := BitVec.allOnes 8, aoWait := BitVec.allOnes 16
        diStart := BitVec.allOnes 64 }) s t) ∧
  (∀ (temp : BitVec 11) (s : State), s.part.hasField = true → ∃ t, exec (.foothillHot temp) s = .next t ∧
    fieldExactly (fun f => { f with temp := temp, hot := decide (145 * 4 ≤ temp.toInt) }) s t) ∧
  (∀ (temp : BitVec 11) (s : State), s.part.hasField = true → s.field.powered = true → s.field.shutdown = false →
    ∃ t, exec (.foothillShutdown temp) s = .next t ∧ t.field.shutdown = true ∧ t.field.temp = temp ∧ allOff t ∧ asksNothing t ∧ tpsOn t = 0 ∧
      (startingUp s = false → s.run.state = .running → inTrio s = false → t.run.state = .stopped)) ∧
  (∀ s : State, s.field.powered = false → s.part.hasField = true →
    ∃ t, exec .foothillPowerOn s = .next t ∧ t.field = { linkUp := false } ∧ t.panel = {} ∧
      hdrAt t .field = {} ∧ hdrAt t .panel = {} ∧ (∀ pg, pg ≠ .field → pg ≠ .panel → hdrAt t pg = hdrAt s pg) ∧
      { t with field := s.field, panel := s.panel, hdrs := s.hdrs, latches := s.latches, heldLow := s.heldLow } = s) ∧
  (∀ s : State, s.part.hasField = true → s.field.powered = true →
    ∃ t, exec .foothillPowerLoss s = .next t ∧ fieldChanged (fun f => { f with powered := false }) s t ∧ allOff t ∧ asksNothing t ∧
      { t with field := s.field } = s)

open Sys2Proof Sys2Proof.Machine Sys2Proof.Stmt in
/-- R224 to R229: the filter takes a level held for its debounce time; a wire break makes its channel read broken until it clears; a supply
pulses at n × 1,250 us in a frame of 10 ms whose number is a multiple of its period in frames; in a test pulse the channels of that supply
keep the level of before, and one that does not read 0 is broken until it passes two pulses in a row; an overloaded supply switches off, its
channels read broken, and it returns.
(A reading of the model that the clauses follow: log entry 34.) -/
def Obligations.DigitalInputsAndTestPulses : Prop :=
  (∀ (n : Fin 64) (lv : Bool) (s : State), fieldLive s = true → diBlanked s n = false →
    ∃ t, exec (.debouncePass (.di n) lv) s = .next t ∧
      t = { s with field := { s.field with diFilt := setBit s.field.diFilt n.val lv, diRaw := setBit s.field.diRaw n.val lv } }) ∧
  (∀ (n : Fin 64) (lv : Bool) (s : State), fieldLive s = true → diBlanked s n = true →
    (s.field.diBefore.getLsbD n.val ≠ lv → exec (.debouncePass (.di n) lv) s = .next s) ∧
    (s.field.diBefore.getLsbD n.val = lv →
      exec (.debouncePass (.di n) lv) s = .next { s with field := { s.field with diFilt := setBit s.field.diFilt n.val lv } })) ∧
  (∀ (n : Fin 8) (lv : Bool) (s : State), fieldLive s = true →
    ∃ t, exec (.debouncePass (.seal n) lv) s = .next t ∧
      t = { s with field := { s.field with sealFilt := setBit s.field.sealFilt n.val lv }
                   safety := { s.safety with sealRaw := setBit s.safety.sealRaw n.val lv } }) ∧
  (∀ (n : Fin 64) (s : State), fieldLive s = true →
    (∀ c, diCfg s n = some c → c.wireBreak = true → diBlanked s n = false → s.field.diWire.getLsbD n.val = false →
      ∃ t, exec (.wireBreakSet n) s = .next t ∧ diBroken t n = true ∧ faultRaised t ∧
        fieldExactly (fun f => { f with diWire := setBit f.diWire n.val true }) s t) ∧
    (diBlanked s n = true → exec (.wireBreakSet n) s = .next s ∧ exec (.wireBreakClear n) s = .next s) ∧
    ((diCfg s n).elim false (fun c => c.wireBreak) = false → exec (.wireBreakSet n) s = .next s)) ∧
  (∀ (n : Fin 64) (s : State), diBlanked s n = false →
    exec (.wireBreakClear n) s = .next { s with field := { s.field with diWire := setBit s.field.diWire n.val false } }) ∧
  (∀ (n : Fin 64) (s : State),
    exec (.diReadBrokenEnd n) s = .next { s with field := { s.field with diStart := setBit s.field.diStart n.val false } }) ∧
  (∀ (n : Fin 8) (ms now from_ : Nat),
    let t := nextPulse n ms now from_
    t % 10000000 = n.val * 1250000 ∧ t / 10000000 % (max 1 (ms / 10)) = 0 ∧ now ≤ t ∧ from_ ≤ t) ∧
  (∀ (n : Fin 8) (s : State),
    (pulseDue s n = none ∨ (tpsOn s).getLsbD n.val = false ∨ s.field.tpsBlank.getLsbD n.val = true → exec (.testPulseStart n) s = .next s) ∧
    (∀ at_ c, pulseDue s n = some (at_, c) → (tpsOn s).getLsbD n.val = true → s.field.tpsBlank.getLsbD n.val = false →
      ∃ t, exec (.testPulseStart n) s = .next t ∧ t.field.tpsPulse = setBit s.field.tpsPulse n.val true ∧
        t.field.tpsBlank = setBit s.field.tpsBlank n.val true ∧ Vec.at t.field.tpsChans n = pulsedChannels s n ∧
        Vec.at t.field.tpsEnd n = localNs t + 1000 * c.widthUs.toNat + 50000 ∧
        (∀ k : Fin 64, t.field.diBefore.getLsbD k.val =
          if (pulsedChannels s n).getLsbD k.val then s.field.diRaw.getLsbD k.val else s.field.diBefore.getLsbD k.val) ∧
        { t.field with tpsPulse := s.field.tpsPulse, tpsBlank := s.field.tpsBlank, tpsChans := s.field.tpsChans
                       tpsEnd := s.field.tpsEnd, diBefore := s.field.diBefore } = s.field ∧
        eventFrame { s with field := t.field, tb := t.tb } t)) ∧
  (∀ (n : Fin 8) (passed raw : BitVec 64) (s : State), s.field.tpsBlank.getLsbD n.val = true →
    ∃ t, exec (.blankingWindowEnd n passed raw) s = .next t ∧
      t.field.tpsPulse = setBit s.field.tpsPulse n.val false ∧ t.field.tpsBlank = setBit s.field.tpsBlank n.val false ∧
      (∀ k : Fin 64,
        let own : Prop := (Vec.at s.field.tpsChans n).getLsbD k.val = true
        (own →
          t.field.diRaw.getLsbD k.val = raw.getLsbD k.val ∧ t.field.diPassed.getLsbD k.val = passed.getLsbD k.val ∧
          (t.field.diFilt.getLsbD k.val = if (diCfg s k).elim false (fun c => c.debounceUs = 0) then raw.getLsbD k.val
            else s.field.diFilt.getLsbD k.val) ∧
          (passed.getLsbD k.val = false → diBroken t k = true ∧ t.field.diCross.getLsbD k.val = true ∧
            (s.field.diCross.getLsbD k.val = false → faultRaised t)) ∧
          (passed.getLsbD k.val = true → s.field.diPassed.getLsbD k.val = true → t.field.diCross.getLsbD k.val = false) ∧
          (passed.getLsbD k.val = true → s.field.diPassed.getLsbD k.val = false →
            t.field.diCross.getLsbD k.val = s.field.diCross.getLsbD k.val)) ∧
        (¬ own → t.field.diRaw.getLsbD k.val = s.field.diRaw.getLsbD k.val ∧ t.field.diFilt.getLsbD k.val = s.field.diFilt.getLsbD k.val ∧
          t.field.diCross.getLsbD k.val = s.field.diCross.getLsbD k.val)) ∧
      { t.field with diRaw := s.field.diRaw, diFilt := s.field.diFilt, diCross := s.field.diCross, diPassed := s.field.diPassed
                     tpsPulse := s.field.tpsPulse, tpsBlank := s.field.tpsBlank } = s.field ∧
      eventFrame { s with field := t.field, tb := t.tb } t) ∧
  (∀ (n : Fin 8) (s : State), (tpsOn s).getLsbD n.val = true →
    ∃ t, exec (.tpsOverload n) s = .next t ∧ faultRaised t ∧ (tpsOn t).getLsbD n.val = false ∧
      (∀ k c, diCfg s k = some c → c.testPulse = true → c.tps = n → diBroken t k = true) ∧
      fieldExactly (fun f => { f with tpsOff := setBit f.tpsOff n.val true }) s t) ∧
  (∀ (n : Fin 8) (s : State),
    exec (.tpsRestart n) s = .next { s with field := { s.field with tpsOff := setBit s.field.tpsOff n.val false } })

open Sys2Proof Sys2Proof.Machine Sys2Proof.Stmt in
/-- R231 to R236: in inrush blanking an over-current does not trip, and at its end or later it does; a thermal shutdown acts at any time; a
high-side channel trips off, a two-leg channel is locked out with both legs off; an off-state short locks out; TLO_UNLOCK releases the
channels commanded OFF with 10 ms without a short; the field fence switches off and gives up. (The lock-out of a two-leg channel that
shuts down, and how its 10 ms count, are the model's reading, log entry 34.) -/
def Obligations.OutputsTripLockOutAndAreFenced : Prop :=
  (∀ (o : OutChan) (hi lo : Bool) (s : State), (switchOn s o = false ∨ inBlanking s o = true) → exec (.outputTrip o hi lo) s = .next s) ∧
  (∀ (n : Fin 24) (lo : Bool) (s : State), switchOn s (.dout n) = true →
    let tripped (hot : Bool) (t : State) : Prop := t.field.doTrip.getLsbD n.val = true ∧ t.field.doSw.getLsbD n.val = false ∧ faultRaised t ∧
      switchesFollow t ∧ eventFrame { s with field := t.field } t ∧
      sameButSwitches { s.field with
        doTrip := setBit s.field.doTrip n.val true, doSeenOff := setBit s.field.doSeenOff n.val false
        doHot := if hot then setBit s.field.doHot n.val true else s.field.doHot } t.field
    (inBlanking s (.dout n) = false → ∃ t, exec (.outputTrip (.dout n) true lo) s = .next t ∧ tripped false t) ∧
    (inBlanking s (.dout n) = true → ∃ t, exec (.inrushBlankingEnd (.dout n) true lo) s = .next t ∧ tripped false t) ∧
    (inBlanking s (.dout n) = true → exec (.inrushBlankingEnd (.dout n) false lo) s =
      .next { s with field := { s.field with doBlank := setBit s.field.doBlank n.val false } }) ∧
    (∃ t, exec (.thermalShutdown (.dout n)) s = .next t ∧ tripped true t)) ∧
  (∀ (n : Fin 8) (hi lo : Bool) (s : State), switchOn s (.tlo n) = true → s.field.tloLock.getLsbD n.val = false →
    let locked (t : State) : Prop := t.field.tloLock.getLsbD n.val = true ∧ t.field.tloSw.getLsbD n.val = false ∧ faultRaised t ∧
      switchesFollow t ∧ (∀ m : Fin 8, m ≠ n → t.field.tloLock.getLsbD m.val = s.field.tloLock.getLsbD m.val) ∧
      t.field.doTrip = s.field.doTrip ∧ eventFrame { s with field := t.field } t
    (inBlanking s (.tlo n) = false → hi = true ∨ lo = true → ∃ t, exec (.outputTrip (.tlo n) hi lo) s = .next t ∧ locked t) ∧
    (inBlanking s (.tlo n) = true → hi = true ∨ lo = true → ∃ t, exec (.inrushBlankingEnd (.tlo n) hi lo) s = .next t ∧ locked t) ∧
    (inBlanking s (.tlo n) = true → exec (.inrushBlankingEnd (.tlo n) false false) s =
      .next { s with field := { s.field with tloBlank := setBit s.field.tloBlank n.val false } }) ∧
    (∃ t, exec (.thermalShutdown (.tlo n)) s = .next t ∧ locked t)) ∧
  (∀ (n : Fin 8) (hi lo : Bool) (s : State), s.field.tloSw.getLsbD n.val = false → fieldLive s = true →
    ∃ t, exec (.tloOffCheck n hi lo) s = .next t ∧
      (hi = true ∨ lo = true → t.field.tloLock.getLsbD n.val = true ∧ (s.field.tloLock.getLsbD n.val = false → faultRaised t)) ∧
      (hi = false → lo = false → t.field.tloLock = s.field.tloLock ∧ t.field.tloHi = setBit s.field.tloHi n.val false ∧
        t.field.tloLo = setBit s.field.tloLo n.val false ∧ { t with field := s.field } = s)) ∧
  (∀ (o : OutChan) (s : State), fieldLive s = true →
    ∃ t, exec (.readbackMismatch o) s = .next t ∧ faultRaised t ∧ fieldFault t = true ∧ t.field.doCmd = s.field.doCmd ∧
      t.field.tloCmd = s.field.tloCmd ∧ t.field.doSw = s.field.doSw ∧ t.field.tloSw = s.field.tloSw ∧ eventFrame { s with field := t.field } t) ∧
  (∀ (q : Req) (s : State), pgRefuses q .field s = false →
    ∃ t, exec (.tloUnlock q) s = .next t ∧ t.resp = .done ∧ switchesFollow t ∧ countsOnly .field s t ∧
      { t with field := s.field, hdrs := s.hdrs, resp := s.resp } = s ∧
      ∀ n : Fin 8, t.field.tloLock.getLsbD n.val =
        (s.field.tloLock.getLsbD n.val && !(!s.field.tloCmd.getLsbD n.val && !s.field.tloShort.getLsbD n.val &&
          decide (Vec.at s.field.tloCleanTick n + cleanTicks ≤ s.tb.tick)))) ∧
  (∀ s : State, fieldLive s = true → s.field.fenced = false → s.trio.gaveUp = false →
    ∃ t, exec .fieldFence s = .next t ∧ t.field.fenced = true ∧ t.field.fenceSeen = true ∧ switchesFollow t ∧ t.field.tloSw = 0 ∧
      (∀ n c, doCfg s n = some c → c.single = true → t.field.doSw.getLsbD n.val = false) ∧
      gaveUpWith 0x0C .stopped t ∧ (hdrAt t .field).raw.getLsbD 4 = true ∧ t.super.urgent.getLsbD 14 = true) ∧
  (∀ s : State, fieldLive s = true →
    exec .fenceSeen s = .next { s with field := { s.field with fenceSeen := true } })

open Sys2Proof Sys2Proof.Machine Sys2Proof.Stmt in
/-- R237, R240, R241: an overloaded loop supply switches off and returns; an AO's status follows Table 8.10 and AO is raised on a change;
a trim drive is refused with DRIVING unless the channel is held off, APPLY with RANGE outside the ranges, and EXIT leaves the trim. (The
status before a condition has held 5 ms is the model's reading, log entry 33.) -/
def Obligations.AnalogueChannelsAndTrims : Prop :=
  (∀ (n : Fin 32) (s : State),
    (∀ c, aiCfg s n = some c → c.supply = true →
      exec (.aiSupplyOverload n) s = .next { s with field := { s.field with aiOff := setBit s.field.aiOff n.val true } }) ∧
    ((aiCfg s n).elim false (fun c => c.supply) = false → exec (.aiSupplyOverload n) s = .next s) ∧
    exec (.aiSupplyRestart n) s = .next { s with field := { s.field with aiOff := setBit s.field.aiOff n.val false } }) ∧
  (∀ (n : Fin 16) (na : BitVec 25) (sat held : Bool) (s : State), fieldLive s = true →
    let close (ua : Nat) : Prop := ua * 1000 ≤ na.toNat + 200000 ∧ na.toNat ≤ ua * 1000 + 200000
    ∃ t, exec (.aoStatusDecide n na sat held) s = .next t ∧ Vec.at t.field.aoMeas n = na ∧
      (s.field.trim.getLsbD n.val = true → Vec.at t.field.aoStat n = 4) ∧
      (s.field.trim.getLsbD n.val = false → aoDrive s n = none → Vec.at t.field.aoStat n = 1) ∧
      (∀ ua, s.field.trim.getLsbD n.val = false → aoDrive s n = some ua →
        (close ua → Vec.at t.field.aoStat n = 0) ∧
        (¬ close ua → held = true → sat = false → Vec.at t.field.aoStat n = 5) ∧
        (held = true → sat = true → na.toNat < 500000 → 3500 ≤ ua → Vec.at t.field.aoStat n = 2) ∧
        (held = true → sat = true → 500000 ≤ na.toNat → na.toNat + 200000 < ua * 1000 → Vec.at t.field.aoStat n = 3)) ∧
      (Vec.at t.field.aoStat n ≠ Vec.at s.field.aoStat n → (hdrAt t .field).raw.getLsbD 5 = true) ∧
      (∀ m, m ≠ n → Vec.at t.field.aoStat m = Vec.at s.field.aoStat m) ∧
      eventFrame { s with field := { s.field with aoMeas := t.field.aoMeas, aoStat := t.field.aoStat } } t) ∧
  (∀ (q : Req) (s : State), pgRefuses q .field s = false →
    let n : Fin 16 := s.field.trimSel.toFin
    let done (c : Byte) (t : State) : Prop := t.resp = .done ∧ t.field.trimCode = c ∧ (hdrAt t .field).raw.getLsbD 7 = true ∧
      { t with field := s.field, hdrs := s.hdrs, recorder := s.recorder, free := s.free, resp := s.resp } = s
    (∀ twenty : Bool, ∃ t, exec (if twenty then .trimDrive20 q else .trimDrive4 q) s = .next t ∧
      (aoCommanded s n = true → done 0x70 t ∧ { t.field with trimCode := s.field.trimCode } = s.field) ∧
      (aoCommanded s n = false → done 0 t ∧ t.field.trim = setBit s.field.trim n.val true ∧ t.field.trim20 = setBit s.field.trim20 n.val twenty ∧
        Vec.at t.field.aoStat n = 4 ∧
        (fieldDead s = false → s.field.alone = false → s.field.fenced = false →
          Vec.at t.field.aoAsk n = (if twenty then 20000000 else 4000000)) ∧
        { t.field with trim := s.field.trim, trim20 := s.field.trim20, aoStat := s.field.aoStat, trimCode := s.field.trimCode
                       aoAsk := s.field.aoAsk } = s.field)) ∧
    (let a := s.field.trimM4.toNat
     let b := s.field.trimM20.toNat
     let inRange : Prop := 3900000 ≤ a ∧ a ≤ 4100000 ∧ 19900000 ≤ b ∧ b ≤ 20100000
     ∃ t, exec (.trimApply q) s = .next t ∧
       (¬ inRange → done 0x71 t ∧ { t.field with trimCode := s.field.trimCode } = s.field) ∧
       (inRange → done 0 t ∧ Vec.at t.field.m4 n = s.field.trimM4 ∧ Vec.at t.field.m20 n = s.field.trimM20 ∧
         t.field.trim.getLsbD n.val = false ∧ (∀ m, m ≠ n → Vec.at t.field.m4 m = Vec.at s.field.m4 m ∧ Vec.at t.field.m20 m = Vec.at s.field.m20 m))) ∧
    (∃ t, exec (.trimExit q) s = .next t ∧ done 0 t ∧ t.field.m4 = s.field.m4 ∧ t.field.m20 = s.field.m20 ∧ t.field.trim.getLsbD n.val = false))
/-! ### Indicator panels -/

namespace Sys2Proof.Stmt
open Sys2Proof Sys2Proof.Machine

/-- The temperature factor of Table 9.3 times ten, by the temperature in units of 0.25 degrees. -/
def factorSpec (q : Int) (f : Nat) : Prop :=
  (40 * 4 ≤ q → f = 6) ∧ (25 * 4 ≤ q → q < 40 * 4 → f = 10) ∧ (10 * 4 ≤ q → q < 25 * 4 → f = 15) ∧ (0 ≤ q → q < 10 * 4 → f = 25) ∧
  (-10 * 4 ≤ q → q < 0 → f = 40) ∧ (-20 * 4 ≤ q → q < -10 * 4 → f = 70) ∧ (-30 * 4 ≤ q → q < -20 * 4 → f = 120)

/-- The panel changed by `f`, and nothing else but headers, the recorder and the free-value count. -/
def panelExactly (f : Panel → Panel) (s t : State) : Prop := t.panel = f s.panel ∧ eventFrame { s with panel := t.panel } t

/-- VPNL is at least V_R and `mv` millivolts more, V_R in units of 0.1 V. -/
def vpnlEnough (s : State) (cfg : PanelCfg) (mv : Nat) : Prop := 100 * cfg.vr.toNat + mv ≤ s.panel.vpnl.toNat

end Sys2Proof.Stmt

open Sys2Proof Sys2Proof.Machine Sys2Proof.Stmt in
/-- R247, R248, R250, R252, R253, R254: with no write running, no field warning, the panel not cold and V_R + 1.0 V present, the port starts
the next changed common after the one written last, with its target row, the factor of the temperature now and each segment's amplitude for
its band; the phases follow Table 9.2 and drive what it says, the end of the selection phase counts each ON segment, and the end of the write
makes its row the valid shadow row. VPNL below V_R + 0.5 V abandons a running write, which leaves its row invalid and raises ABANDONED.
R218, R249, R251, R252, R253, R255, R256, R258: a field warning abandons a running write and starts the stale write of common 7 with
segment 94 ON, unless it is cold or VPNL is too low; its end clears the warning; VPNL_LOW, NTC_FAULT, the cold hold and CRACK follow their
measurements; a write of PNL_CNT sets the selected counter.
(A reading of the model that the clauses follow: log entry 36.) -/
def Obligations.PanelWritesAndMeasurements : Prop :=
  ((∀ (s : State) (cfg : PanelCfg), panelCfg s = some cfg →
       let may : Prop := s.panel.write = none ∧ s.field.warn = false ∧ panelCold s = false ∧ vpnlEnough s cfg 1000 ∧
         fieldLive s = true ∧ Vec.at s.super.pd 7 = .on
       (∀ (c : Fin 8) (k : Nat), may → k < 8 → c.val = (s.panel.last.val + 1 + k) % 8 → panelChanged s c = true →
         (∀ (d : Fin 8) (j : Nat), j < k → d.val = (s.panel.last.val + 1 + j) % 8 → panelChanged s d = false) →
         ∃ t w, exec .panelWriteStart s = .next t ∧ t = { s with panel := { s.panel with last := c, write := some w } } ∧
           w.common = c ∧ w.row = panelTarget s c ∧ w.phase = 1 ∧ w.stale = false ∧ w.drive = .all (100 * cfg.vr.toNat) ∧
           w.amps.length = 96 ∧ (∀ i < 96, w.amps[i]? =
             some (cfg.vs0.toNat * (100 + 3 * bandOf s (stressGet s.panel.stress (96 * c.val + i))))) ∧
           factorSpec (if s.panel.ntcFault then 4 * cfg.minWrite.toInt else s.panel.temp.toInt) w.factor) ∧
       (¬ may → exec .panelWriteStart s = .next s)) ∧
     (∀ (s : State) (w : PanelWrite), s.panel.write = some w →
       (w.phase < 4 → ∃ t d, exec .panelWritePhase s = .next t ∧ eventFrame { s with panel := t.panel, tb := t.tb } t ∧
         { t.panel with stress := s.panel.stress } = { s.panel with write := some { w with phase := w.phase + 1, drive := d } } ∧
         (w.phase = 1 → ∃ vs : List Nat, d = .each vs ∧ vs.length = w.amps.length ∧
           ∀ i v, w.amps[i]? = some v → vs[i]? = some (if w.row.getLsbD i then v else 0)) ∧
         (w.phase = 2 → d = .all (50 * w.vs0.toNat)) ∧ (w.phase = 3 → d = .short) ∧
         (w.phase ≠ 2 → t.panel.stress = s.panel.stress) ∧
         (w.phase = 2 → ∀ (d : Fin 8) (i : Fin 96), stressGet t.panel.stress (96 * d.val + i.val) =
           if d = w.common ∧ w.row.getLsbD i.val = true then satInc (stressGet s.panel.stress (96 * d.val + i.val))
           else stressGet s.panel.stress (96 * d.val + i.val))) ∧
       (4 ≤ w.phase → ∃ t, exec .panelWriteEnd s = .next t ∧ t.panel.write = none ∧ Vec.at t.panel.shadow w.common = w.row ∧
         t.panel.invalid = setBit s.panel.invalid w.common.val false ∧ t.panel.lastMs = BitVec.ofNat 16 (7 * w.factor + 5) ∧
         t.panel.writes = satInc s.panel.writes ∧ (∀ d, d ≠ w.common → Vec.at t.panel.shadow d = Vec.at s.panel.shadow d) ∧
         { t.panel with write := s.panel.write, shadow := s.panel.shadow, invalid := s.panel.invalid, lastMs := s.panel.lastMs
                        writes := s.panel.writes, staleMark := s.panel.staleMark } = s.panel ∧
         (t.panel.staleMark = (s.panel.staleMark && !(t.panel.invalid == 0 && !s.field.warn))) ∧
         eventFrame { s with panel := t.panel, tb := t.tb } t) ∧
       (∀ mv : BitVec 16, s.part.hasField = true →
         (mv.toNat < 100 * w.vr.toNat + 500 → ∃ t, exec (.panelWriteAbandon mv) s = .next t ∧ exec (.vpnlLevelChange mv) s = .next t ∧
           (hdrAt t .panel).raw.getLsbD 5 = true ∧
           panelExactly (fun p => { p with vpnl := mv, write := none, invalid := setBit p.invalid w.common.val true }) s t) ∧
         (100 * w.vr.toNat + 500 ≤ mv.toNat → ∃ t, exec (.panelWriteAbandon mv) s = .next t ∧ exec (.vpnlLevelChange mv) s = .next t ∧
           panelExactly (fun p => { p with vpnl := mv }) s t))) ∧
     (∀ s : State, s.panel.write = none → exec .panelWritePhase s = .next s ∧ exec .panelWriteEnd s = .next s)) ∧
  ((∀ (mv : BitVec 16) (s : State), s.field.warn = false → fieldLive s = true →
       ∃ t, exec (.fieldWarnSet mv) s = .next t ∧ t.field = { s.field with warn := true, vfield := mv } ∧
         (∀ cfg, panelCfg s = some cfg → panelCold s = false → vpnlEnough s cfg 1000 →
           (∃ w, t.panel.write = some w ∧ w.common = 7 ∧ w.stale = true ∧ w.phase = 1 ∧ w.row.getLsbD 94 = true ∧
             (∀ i, i < 94 → w.row.getLsbD i = (Vec.at s.panel.target 7).getLsbD i)) ∧
           t.panel.staleMark = true ∧ (hdrAt t .panel).raw.getLsbD 2 = true) ∧
         (∀ cfg, panelCfg s = some cfg → panelCold s = true ∨ ¬ vpnlEnough s cfg 1000 →
           t.panel.write = none ∧ t.panel.staleMark = s.panel.staleMark) ∧
         (∀ w, s.panel.write = some w → t.panel.invalid = setBit s.panel.invalid w.common.val true ∧ (hdrAt t .panel).raw.getLsbD 5 = true) ∧
         eventFrame { s with field := t.field, panel := t.panel } t) ∧
     (∀ (mv : BitVec 16) (s : State), s.part.hasField = true →
       ∃ t, exec (.fieldWarnClear mv) s = .next t ∧ t.field = { s.field with warn := false, vfield := mv } ∧
         t.panel = { s.panel with staleMark := s.panel.staleMark && !(s.panel.invalid == 0) } ∧
         eventFrame { s with field := t.field, panel := t.panel } t) ∧
     (∀ (mv : BitVec 16) (s : State) (cfg : PanelCfg), panelCfg s = some cfg → s.part.hasField = true →
       ∃ t, exec (.vpnlLevelChange mv) s = .next t ∧ t.panel.vpnl = mv ∧
         ((condWord t .panel).getLsbD 3 = true ↔ mv.toNat < 100 * cfg.vr.toNat + 1000) ∧
         (s.panel.write = none → panelExactly (fun p => { p with vpnl := mv }) s t)) ∧
     (∀ (temp : BitVec 11) (s : State) (cfg : PanelCfg), panelCfg s = some cfg → fieldLive s = true →
       let q := temp.toInt
       ∃ t, exec (.ntcMeasure temp) s = .next t ∧ t.panel.temp = temp ∧ t.panel.ntcFault = decide (q < -40 * 4 ∨ 100 * 4 < q) ∧
         (-40 * 4 ≤ q → q ≤ 100 * 4 →
           (q < 4 * cfg.minWrite.toInt → t.panel.cold = true) ∧ (4 * (cfg.minWrite.toInt + 2) ≤ q → t.panel.cold = false) ∧
           (4 * cfg.minWrite.toInt ≤ q → q < 4 * (cfg.minWrite.toInt + 2) → t.panel.cold = panelCold s)) ∧
         panelExactly (fun p => { p with temp := temp, ntcFault := t.panel.ntcFault, cold := t.panel.cold }) s t) ∧
     (∀ (ohms : Nat) (s : State) (cfg : PanelCfg), panelCfg s = some cfg → cfg.loopEn = true → fieldLive s = true →
       ∃ t, exec (.crackMeasure ohms) s = .next t ∧
         (10000 < ohms → t.panel.crack = true ∧ t.panel.crackSeen = true) ∧ (ohms ≤ 9000 → t.panel.crack = false) ∧
         (9000 < ohms → ohms ≤ 10000 → t.panel.crack = s.panel.crack) ∧ (ohms ≤ 10000 → t.panel.crackSeen = s.panel.crackSeen) ∧
         panelExactly (fun p => { p with loop := t.panel.loop, crack := t.panel.crack, crackSeen := t.panel.crackSeen }) s t) ∧
     (∀ (q : Req) (v : Word) (s : State), pgRefuses q .panel s = false →
       ∃ t, exec (.pnlCntWrite q v) s = .next t ∧ t.resp = .done ∧ countsOnly .panel s t ∧
         { t with panel := s.panel, hdrs := s.hdrs, resp := s.resp } = s ∧ { t.panel with stress := s.panel.stress } = s.panel ∧
         (768 ≤ s.panel.csel.toNat → t.panel = s.panel) ∧
         (s.panel.csel.toNat < 768 → s.panel.stress.Pairwise (fun a b => a.1 < b.1) →
           ∀ k, stressGet t.panel.stress k = if k = s.panel.csel.toNat then v.setWidth 24 else stressGet s.panel.stress k)))
/-! ### Ethernet ports and keys -/

namespace Sys2Proof.Stmt
open Sys2Proof Sys2Proof.Machine

/-- May port `p` start frame `g` now (R287): its class is open and stays so for the whole frame, and a stopped controller's Keaco frames
leave only where it still sends safe payloads. -/
def mayStart (s : State) (p : Fin 8) (g : QFrame) : Prop :=
  (g.station = none ∨ s.run.state ≠ .stopped ∨ keacoSafe s = true) ∧
  staysOpen s p g.tc (frameNs (portAt s p).rate (g.len + if g.prp then 6 else 0)) = true

/-- Of the ports only `p` may differ. -/
def onlyPort (i : Fin 10) (s t : State) : Prop := ∀ m, m ≠ i → Vec.at t.ports m = Vec.at s.ports m

/-- Port `p` changed by `f`, and beside it only headers, the recorder and the free-value count. -/
def portExactly (p : Fin 8) (f : EthPort → EthPort) (s t : State) : Prop :=
  portAt t p = f (portAt s p) ∧ onlyPort (ethPortIdx p) s t ∧ eventFrame { s with ports := t.ports } t

end Sys2Proof.Stmt

open Sys2Proof Sys2Proof.Machine Sys2Proof.Stmt in
/-- R48, R276, R286, R287, R291, R307: an idle port that is up starts the frame of the highest class that is open and stays open for the
whole of it, and none where no frame may start; at its end the line is idle, a marked frame's transmit timestamp is captured and a firmware
frame's descriptor returns with DONE. A gate window of an entry that is active in the round opens at its instant, and its classes are open
until its end; before the first round every class is open. UP follows the link of an enabled port.
(Readings of the model that the clauses follow: log entries 48 and 81.) -/
def Obligations.EthernetFramesLeaveInOpenWindows : Prop :=
  (∀ (p : Fin 8) (s : State), (portAt s p).en = true → (portAt s p).up = true → (portAt s p).line = none →
    ((∀ g ∈ (portAt s p).queue, ¬ mayStart s p g) → exec (.ethFrameTransmitStart p) s = .next s) ∧
    ((∃ g ∈ (portAt s p).queue, mayStart s p g) → ∃ t f d, exec (.ethFrameTransmitStart p) s = .next t ∧
      f ∈ (portAt s p).queue ∧ mayStart s p f ∧ (∀ g ∈ (portAt s p).queue, mayStart s p g → g.tc.toNat ≤ f.tc.toNat) ∧
      (portAt t p).line = some { f with data := d, depart := nowNs s + (portAt s p).txLat.toNat } ∧
      (f.conn = none → d = f.data ∧ (portAt t p).queue = (portAt s p).queue.erase f ∧ onlyPort (ethPortIdx p) s t) ∧
      (portAt t p).queue.length + 1 = (portAt s p).queue.length ∧
      (∃ et bs, t.out = s.out ++ [.eth p et bs]) ∧
      { t with ports := s.ports, out := s.out } = s)) ∧
  (∀ (p : Fin 8) (s : State), ((portAt s p).en = false ∨ (portAt s p).up = false ∨ (portAt s p).line.isSome = true) →
    exec (.ethFrameTransmitStart p) s = .next s) ∧
  (∀ (p : Fin 8) (s : State), (portAt s p).line = none → exec (.ethFrameSent p) s = .next s) ∧
  (∀ (p : Fin 8) (s : State) (f : QFrame), (portAt s p).line = some f → memWf s.sram = true →
    ∃ t, exec (.ethFrameSent p) s = .next t ∧ (portAt t p).line = none ∧ (portAt t p).queue = (portAt s p).queue ∧
      onlyPort (ethPortIdx p) s t ∧
      { t with ports := s.ports, hdrs := s.hdrs, sram := s.sram, recorder := s.recorder, free := s.free } = s ∧
      (f.capture = false → countsOnly (ethPage p) s t ∧ t.recorder = s.recorder ∧ t.free = s.free) ∧
      (f.capture = true → (hdrAt t (ethPage p)).raw.getLsbD 1 = true) ∧
      (portAt t p).txts = (if f.capture then instantOf f.depart else (portAt s p).txts) ∧
      (f.desc = none → t.sram = s.sram ∧ { portAt t p with txts := (portAt s p).txts } = { portAt s p with line := none }) ∧
      (∀ i, f.desc = some i → let a := (portAt s p).txBase.toNat * 64 + 16 * i.toNat + 4
        memWord t.sram a = memWord s.sram a ||| 0x4000 ∧ sameOutside s.sram t.sram a (a + 4) ∧
        { portAt t p with txHead := (portAt s p).txHead, txts := (portAt s p).txts } = { portAt s p with line := none })) ∧
  (∀ (p : Fin 8) (entry : Nat) (s : State),
    (gateWindow s p entry = none → exec (.gateWindowOpen p entry) s = .next s) ∧
    (∀ w, gateWindow s p entry = some w →
      (∀ g, (portAt s p).gate = some g → w.1 ≤ g.1 → exec (.gateWindowOpen p entry) s = .next s) ∧
      ((∀ g, (portAt s p).gate = some g → g.1 < w.1) →
        ∃ t, exec (.gateWindowOpen p entry) s = .next t ∧ portAt t p = { portAt s p with gate := some w } ∧ onlyPort (ethPortIdx p) s t ∧
          eventFrame { s with ports := t.ports, tb := t.tb } t))) ∧
  (∀ (p : Fin 8) (entry : Nat) (s : State) (im : SchedImage) (g : Gate), s.sched.active = some im → im.gates[entry]? = some g →
    g.port.toNat = p.val → s.sched.running = true → timingActive g.t s.sched.round = true →
    let a := s.sched.roundNs + slotNsOf im * g.t.slot.toNat + 2 * g.start.toNat
    gateWindow s p entry = some (a, a + 2 * g.duration.toNat) ∧
    ∀ x, a ≤ x → x < a + 2 * g.duration.toNat → ∀ k < 8, g.opens.getLsbD k = true → (gateAt s p x).getLsbD k = true) ∧
  (∀ (p : Fin 8) (s : State) (x : Nat),
    let outside : Prop := ∀ w ∈ windowsAhead s p, x < w.1 ∨ w.2.1 ≤ x
    let nextFrame : Prop := ∃ n, frameAhead s = some n ∧ n ≤ x
    (s.sched.running = false → ¬ nextFrame → gateAt s p x = 0xFF) ∧
    (∀ c, s.sched.running = true ∨ nextFrame → ¬ (s.sched.running = true ∧ appDue s = true ∧ nextFrame) → portCfg s p = some c → outside →
      gateAt s p x = c.defaultGate) ∧
    (∀ im c, s.sched.running = true → appDue s = true → nextFrame → s.run.shadow = some im → im.ports.lookup p = some c → outside →
      gateAt s p x = c.defaultGate)) ∧
  (∀ (p : Fin 8) (s : State),
    ((portAt s p).gate = none → exec (.gateWindowClose p) s = .next s) ∧
    (∃ t, exec (.gateWindowClose p) s = .next t ∧ eventFrame { s with tb := t.tb } t)) ∧
  (∀ (p : Fin 8) (up : Bool) (s : State),
    ∃ t, exec (.ethLinkChange p up) s = .next t ∧ portExactly p (fun x => { x with up := up && x.en }) s t)

open Sys2Proof Sys2Proof.Machine Sys2Proof.Stmt in
/-- R285, R289, R290, R291: a received frame of firmware that its VLAN lets in goes to the next receive descriptor with its bytes, DONE and
its time, or is counted where none is free; one from a foreign VLAN is counted in BAD, and a second copy at a PRP pair in DUP; Keaco and safety frames go to their units. A TAIL
write hands descriptors to the port, which queues the frame or returns its descriptor with ERR.
R306, R390: ROTATE is refused with LATE, BUSY or NO_KEY, in the order of their codes, and changes nothing else; accepted, at the start of its
frame the port sends with the next key number, a key that waits takes over, and both keys are accepted for 16 rounds.
(Readings of the model that the clauses follow: log entries 48, 49 and 84.) -/
def Obligations.EthernetQueuesAndTrioPortKeys : Prop :=
  ((∀ (p : Fin 8) (f : EthFrame) (s : State),
       (f.etherType = 0x88B5 → exec (.ethFrameReceive p f) s = exec (.keacoFrameReceive p f) s) ∧
       (f.etherType = 0x88B6 → exec (.ethFrameReceive p f) s = exec (.safetyFrameReceive p f) s) ∧
       (f.etherType ≠ 0x88B5 → f.etherType ≠ 0x88B6 →
         ((portAt s p).en = false ∨ (portAt s p).up = false → exec (.ethFrameReceive p f) s = .next s) ∧
         ((portAt s p).en = true → (portAt s p).up = true → vlanOk s p f = false →
           ∃ t, exec (.ethFrameReceive p f) s = .next t ∧ countsOnly (ethPage p) s t ∧
             portExactly p (fun x => { x with bad := satInc x.bad }) s t) ∧
         ((portAt s p).en = true → (portAt s p).up = true → vlanOk s p f = true → multicastOk s p f = false →
           ∃ t, exec (.ethFrameReceive p f) s = .next t ∧ countsOnly (ethPage p) s t ∧ portExactly p id s t) ∧
         ((portAt s p).en = true → (portAt s p).up = true → vlanOk s p f = true → multicastOk s p f = true → isPtp f = false →
           portPaired s p = false ∨ f.rct = none →
           let x := portAt s p
           let a := x.rxBase.toNat * 64 + 16 * x.rxHead.toNat
           let buf := ((memWord s.sram a).toNat / 64) * 64
           ∃ t, exec (.ethFrameReceive p f) s = .next t ∧ countsOnly (ethPage p) s t ∧
             (x.rxLen = 0 ∨ x.rxHead = x.rxTail → t.sram = s.sram ∧ portExactly p (fun x => { x with nobuf := satInc x.nobuf }) s t) ∧
             (x.rxLen ≠ 0 → x.rxHead ≠ x.rxTail → memWf s.sram = true →
               portAt t p = { x with rxHead := ringNext x.rxLen x.rxHead } ∧ onlyPort (ethPortIdx p) s t ∧
               eventFrame { s with ports := t.ports, sram := t.sram } t ∧
               (memWord t.sram (a + 4)).toNat = f.len % 16384 + 0x4000 + (if f.fcsOk then 0 else 0x8000) ∧
               (memDword t.sram (a + 8)).toNat = (nowNs s - x.rxLat.toNat) % 2 ^ 64 ∧
               (∀ k, k < buf ∨ buf + (frameBytes f).length ≤ k → k < a + 4 ∨ a + 16 ≤ k → memGet t.sram k = memGet s.sram k) ∧
               (buf + (frameBytes f).length ≤ a + 4 ∨ a + 16 ≤ buf →
                 memRead t.sram buf (frameBytes f).length = frameBytes f))) ∧
         ((portAt s p).en = true → (portAt s p).up = true → vlanOk s p f = true → multicastOk s p f = true →
           let x := portAt s p
           let taken (t : State) : Prop := eventFrame { s with ports := t.ports, sram := t.sram } t ∧
             (x.rxLen = 0 ∨ x.rxHead = x.rxTail → t.sram = s.sram ∧ (portAt t p).nobuf = satInc x.nobuf ∧ (portAt t p).rxHead = x.rxHead) ∧
             (x.rxLen ≠ 0 → x.rxHead ≠ x.rxTail → (portAt t p).nobuf = x.nobuf ∧ (portAt t p).rxHead = ringNext x.rxLen x.rxHead)
           (isPtp f = true → ∃ t, exec (.ethFrameReceive p f) s = .next t ∧ taken t ∧ onlyPort (ethPortIdx p) s t) ∧
           (∀ seq, isPtp f = false → portPaired s p = true → f.rct = some seq →
             (prpSeen s p f seq = true → ∃ t, exec (.ethFrameReceive p f) s = .next t ∧
               portExactly p (fun x => { x with dup := satInc x.dup }) s t) ∧
             (prpSeen s p f seq = false → ∃ t, exec (.ethFrameReceive p f) s = .next t ∧ taken t ∧ prpSeen t p f seq = true))))) ∧
     (∀ (q : Req) (p : Fin 8) (v : BitVec 12) (s : State), pgRefuses q (ethPage p) s = false →
       (∃ t, exec (.ethRxqTailWrite q p v) s = .next t ∧ t.resp = .done ∧ countsOnly (ethPage p) s t ∧
         portAt t p = { portAt s p with rxTail := v } ∧ onlyPort (ethPortIdx p) s t ∧
         { t with ports := s.ports, hdrs := s.hdrs, resp := s.resp } = s) ∧
       (let x := portAt s p
        ∃ t, exec (.ethTxqTailWrite q p v) s = .next t ∧ t.resp = .done ∧ (portAt t p).txTail = v ∧
         (x.txLen = 0 ∨ x.txLen ≤ v → countsOnly (ethPage p) s t ∧ portAt t p = { x with txTail := v } ∧ onlyPort (ethPortIdx p) s t ∧
           { t with ports := s.ports, hdrs := s.hdrs, resp := s.resp } = s) ∧
         (x.txLen ≠ 0 → v < x.txLen → x.txTail < x.txLen → v = ringNext x.txLen x.txTail → v ≠ x.txTail → memWf s.sram = true →
           let a := x.txBase.toNat * 64 + 16 * x.txTail.toNat
           let w1 := memWord s.sram (a + 4)
           let len := w1.toNat % 2 ^ 14
           let tc : BitVec 3 := (w1 >>> 16).setWidth 3
           let bad : Prop := len < 64 ∨ 9216 < len ∨ classOpens s p tc = false
           (bad → memWord t.sram (a + 4) = w1 ||| 0xC000 ∧ sameOutside s.sram t.sram (a + 4) (a + 8) ∧ (portAt t p).queue = x.queue ∧
             (portAt t p).bad = satInc x.bad ∧ onlyPort (ethPortIdx p) s t) ∧
           (¬ bad → w1.getLsbD 20 = false → w1.getLsbD 19 = false → t.sram = s.sram ∧ onlyPort (ethPortIdx p) s t ∧
             (portAt t p).bad = x.bad ∧ ∃ f, (portAt t p).queue = x.queue ++ [f] ∧ f.desc = some x.txTail ∧ f.tc = tc ∧ f.len = len ∧
               f.buf = ((memWord s.sram a).toNat / 64) * 64 ∧ f.capture = w1.getLsbD 21 ∧ f.oneStep = false ∧ f.prp = false))))) ∧
  ((∀ (q : Req) (p : TrioPort) (s : State), pgRefuses q (.port (trioPortIdx p)) s = false →
       let x := Vec.at s.ports (trioPortIdx p)
       let late : Prop := frameLate s x.keyTarget = true
       let only (f : EthPort → EthPort) (t : State) : Prop := t.resp = .done ∧ Vec.at t.ports (trioPortIdx p) = f x ∧
         onlyPort (trioPortIdx p) s t ∧ countsOnly (.port (trioPortIdx p)) s t ∧ { t with ports := s.ports, hdrs := s.hdrs, resp := s.resp } = s
       ∃ t, exec (.trpRotate q p) s = .next t ∧
         (late → only (fun x => { x with trpCode := 0x20 }) t) ∧
         (¬ late → x.keyPend.isSome = true → only (fun x => { x with trpCode := 0x84 }) t) ∧
         (¬ late → x.keyPend = none → s.store.cak = none → only (fun x => { x with trpCode := 0x90 }) t) ∧
         (¬ late → x.keyPend = none → s.store.cak ≠ none → only (fun x => { x with trpCode := 0, keyPend := some x.keyTarget }) t)) ∧
     (∀ (p : TrioPort) (s : State),
       let x := Vec.at s.ports (trioPortIdx p)
       (∀ f, x.keyPend = some f → s.sched.running = true → frameDue s f = true →
         let n := if s.sched.switched = true ∨ s.sched.frame ≠ f then 17 else 16
         let takes : Prop := s.store.cakNext.isSome = true ∧ x.keyCak = none
         let q : TrioPort := if p = .a then .b else .a
         let y := Vec.at s.ports (trioPortIdx q)
         ∃ t, exec (.keyRotateEffect p) s = .next t ∧
           Vec.at t.ports (trioPortIdx p) = { x with
             keyCur := x.keyCur + 1, keyPend := none, keyCak := none, keyBoth := (portCak s p).map fun k => (n, k)
             txPn := 0, rxPnOld := x.rxPn, rxPn := 0 } ∧
           (takes → t.store.cak = s.store.cakNext ∧ t.store.cakNext = none ∧
             Vec.at t.ports (trioPortIdx q) = { y with keyCak := y.keyCak.orElse fun _ => s.store.cak }) ∧
           (¬ takes → t.store.cak = s.store.cak ∧ t.store.cakNext = s.store.cakNext ∧ Vec.at t.ports (trioPortIdx q) = y) ∧
           (∀ i, i ≠ trioPortIdx .a → i ≠ trioPortIdx .b → Vec.at t.ports i = Vec.at s.ports i) ∧
           { t with ports := s.ports, store := s.store, flash := s.flash } = s) ∧
       ((s.sched.running = false ∨ ∀ f, x.keyPend = some f → frameDue s f = false) → exec (.keyRotateEffect p) s = .next s) ∧
       (x.keyBoth = none → exec (.keyOverlapEnd p) s = .next s) ∧
       (∀ n k, x.keyBoth = some (n, k) → s.sched.running = true → 1 < n → exec (.keyOverlapEnd p) s = .next s) ∧
       (∀ n k, x.keyBoth = some (n, k) → s.sched.running = false ∨ n ≤ 1 →
         ∃ t, exec (.keyOverlapEnd p) s = .next t ∧ Vec.at t.ports (trioPortIdx p) = { x with keyBoth := none } ∧
           onlyPort (trioPortIdx p) s t ∧ eventFrame { s with ports := t.ports, tb := t.tb } t)))
/-! ### CAN controllers and UARTs -/

namespace Sys2Proof.Stmt
open Sys2Proof Sys2Proof.Machine

/-- Controller `c` alone changed, beside headers, the recorder, the free-value count, the answer and what left the device. -/
def canOnly (c : Fin 16) (s t : State) : Prop :=
  (∀ d, d ≠ c → canAt t d = canAt s d) ∧
  { t with cans := s.cans, hdrs := s.hdrs, recorder := s.recorder, free := s.free, resp := s.resp, out := s.out } = s

/-- Controller `c` changed by `f`, but that a pending frame may have gone on the bus. -/
def canBy (c : Fin 16) (f : Can → Can) (s t : State) : Prop :=
  { canAt t c with line := (f (canAt s c)).line } = f (canAt s c) ∧ canOnly c s t ∧ t.out = s.out ∧
  ((canAt t c).line = (f (canAt s c)).line ∨ ((f (canAt s c)).line = none ∧ canMaySend (f (canAt s c)) = true))

/-- Controller `c` changed by `f` exactly. -/
def canIs (c : Fin 16) (f : Can → Can) (s t : State) : Prop := canAt t c = f (canAt s c) ∧ canOnly c s t ∧ t.out = s.out

/-- Controller `c` changed by `f` exactly, and time passed. -/
def canLater (c : Fin 16) (f : Can → Can) (s t : State) : Prop :=
  canAt t c = f (canAt s c) ∧ canOnly c s { t with tb := s.tb } ∧ t.out = s.out

/-- PASSIVE and WARNING follow the error counters (R320). -/
def countsShown (y : Can) : Prop :=
  y.passive = decide (128 ≤ y.tec.toNat ∨ 128 ≤ y.recCnt.toNat) ∧ y.warning = decide (96 ≤ y.tec.toNat ∨ 96 ≤ y.recCnt.toNat)

/-- After a frame received well the receive counter of ISO 11898-1 is one less, or between 119 and 127 where it stood above 127, which of
them is a free value; beside it only the bus may differ. -/
def heardWell (x y : Can) : Prop :=
  { y with recCnt := x.recCnt, passive := x.passive, warning := x.warning, line := x.line } = x ∧
  (x.recCnt = 0 → y.recCnt = 0 ∧ y.passive = x.passive ∧ y.warning = x.warning) ∧
  (x.recCnt ≠ 0 → countsShown y) ∧ (0 < x.recCnt.toNat → x.recCnt.toNat ≤ 127 → y.recCnt = x.recCnt - 1) ∧
  (127 < x.recCnt.toNat → 119 ≤ y.recCnt.toNat ∧ y.recCnt.toNat ≤ 127)

/-- A received frame with its time goes to its target's buffer, or to the shadow where that buffer is locked; one that meets an unread frame
sets OVR; one without a target is counted (R312 to R314). -/
def storesFrame (s : State) (c : Fin 16) (f : CanFrame) (at_ : Instant) (x y : Can) : Prop :=
  let target := (canCfg s c).bind fun g => canTarget g f
  (target = none → y = { x with noMatch := satInc x.noMatch }) ∧
  (∀ b, target = some b → ¬ (x.lock = true ∧ x.sel = b) → memWf x.bufs = true →
    memWf y.bufs = true ∧ memRead y.bufs (128 * b.val) 128 = canBytes f (instantNs at_) ∧
    sameOutside x.bufs y.bufs (128 * b.val) (128 * b.val + 128) ∧
    y = { x with
      bufs := y.bufs, fresh := setBit x.fresh b.val true
      ovr := if x.fresh.getLsbD b.val then setBit x.ovr b.val true else x.ovr
      ovrCnt := if x.fresh.getLsbD b.val then satInc x.ovrCnt else x.ovrCnt }) ∧
  (∀ b, target = some b → x.lock = true → x.sel = b →
    y = { x with
      shadow := some (f, at_), ovr := if x.shadow.isSome then setBit x.ovr b.val true else x.ovr
      ovrCnt := if x.shadow.isSome then satInc x.ovrCnt else x.ovrCnt })

/-- Does a received frame meet an unread one (R314)? -/
def meetsUnread (x : Can) (b : Fin 64) : Prop :=
  if x.lock = true ∧ x.sel = b then x.shadow.isSome = true else x.fresh.getLsbD b.val = true

/-- UART `u` changed by `f`, and beside it only headers, the recorder, the free-value count and the answer. -/
def uartIs (u : Fin 8) (f : Uart → Uart) (s t : State) : Prop :=
  uartAt t u = f (uartAt s u) ∧ (∀ v, v ≠ u → uartAt t v = uartAt s v) ∧
  { t with uarts := s.uarts, hdrs := s.hdrs, recorder := s.recorder, free := s.free, resp := s.resp } = s

/-- The bytes of buffer `b`. -/
def bufBytes (x : Can) (b : Fin 64) : List Byte := memRead x.bufs (128 * b.val) 128

end Sys2Proof.Stmt

open Sys2Proof Sys2Proof.Machine Sys2Proof.Stmt in
/-- R312 to R314, R321: a received frame goes to the buffer of the first matching filter, or to the shadow where that buffer is locked, with
its time; one that meets an unread frame sets OVR; one that matches none is counted. The end of a lock moves the shadow frame in, or clears
NEW. A pending buffer ignores writes. Detection holds its first frame; at the second it adopts the candidate and stores both frames, else it
goes on to the next candidate at 200 ms without a frame, and ends OFF at its time-out. (How the start of a frame is told, when RX is
raised, and the error counters: log entry 52.) -/
def Obligations.CanReceivingBuffersAndDetection : Prop :=
  (∀ (c : Fin 16) (f : CanFrame) (ago : Nat) (s : State),
    let x := canAt s c
    let at_ := canStamp s c ago
    let target := (canCfg s c).bind fun g => canTarget g f
    (x.mode = .off → exec (.canFrameReceive c f ago) s = .next s) ∧
    (x.mode = .listen ∨ (x.mode = .normal ∧ x.busoff = false) →
      ∃ t, exec (.canFrameReceive c f ago) s = .next t ∧ canOnly c s t ∧ t.out = s.out ∧
        (∃ y, storesFrame s c f at_ x y ∧ heardWell y (canAt t c)) ∧ (x.mode = .listen → (canAt t c).line = x.line) ∧
        (∀ b, target = some b → meetsUnread x b → (hdrAt t (.can c)).raw.getLsbD 5 = true) ∧
        (∀ b, target = some b → canByFirmware s c = true → (hdrAt t (.can c)).raw.getLsbD 0 = true)) ∧
    (x.mode = .detect → x.detHeld = none →
      ∃ t, exec (.canFrameReceive c f ago) s = .next t ∧ canIs c (fun x => { x with detHeld := some (f, at_), candSince := localNs s }) s t) ∧
    (∀ h, x.mode = .detect → x.detHeld = some h →
      ∃ t, exec (.canFrameReceive c f ago) s = .next t ∧ canOnly c s t ∧ t.out = s.out ∧ (hdrAt t (.can c)).raw.getLsbD 4 = true ∧
        ∃ y, storesFrame s c h.1 h.2 { x with
            detected := true, cand := x.trying, nbt := (candTiming s c).1, dbt := (candTiming s c).2, detHeld := none
            mode := if x.autoJoin then .normal else .listen } y ∧
          storesFrame s c f at_ y (canAt t c))) ∧
  (∀ (q : Req) (c : Fin 16) (b : Fin 64) (lock : Bool) (s : State), pgRefuses q (.can c) s = false →
    let x := canAt s c
    ∃ t, exec (.canMbSelWrite q c b lock) s = .next t ∧ t.resp = .done ∧ countsOnly (.can c) s t ∧
      (x.lock = false ∨ (lock = true ∧ x.sel = b) → canIs c (fun x => { x with sel := b, lock := lock }) s t) ∧
      (x.lock = true → lock = false ∨ x.sel ≠ b →
        (x.shadow = none → canIs c (fun y => { y with sel := b, lock := lock, fresh := setBit y.fresh x.sel.val false }) s t) ∧
        (∀ f at_, x.shadow = some (f, at_) → memWf x.bufs = true →
          bufBytes (canAt t c) x.sel = canBytes f (instantNs at_) ∧
          sameOutside x.bufs (canAt t c).bufs (128 * x.sel.val) (128 * x.sel.val + 128) ∧
          canIs c (fun y => { y with sel := b, lock := lock, shadow := none, fresh := setBit y.fresh x.sel.val true, bufs := (canAt t c).bufs }) s t))) ∧
  (∀ (q : Req) (c : Fin 16) (w : Fin 32) (v : Word) (s : State), pgRefuses q (.can c) s = false →
    let x := canAt s c
    ∃ t, exec (.canMbWrite q c w v) s = .next t ∧ t.resp = .done ∧ countsOnly (.can c) s t ∧
      (x.pend.getLsbD x.sel.val = true → canIs c id s t) ∧
      (x.pend.getLsbD x.sel.val = false → memWf x.bufs = true → canIs c (fun x => { x with bufs := (canAt t c).bufs }) s t ∧
        memWord (canAt t c).bufs (128 * x.sel.val + 4 * w.val) = v &&& canWordMask w.val ∧
        sameOutside x.bufs (canAt t c).bufs (128 * x.sel.val + 4 * w.val) (128 * x.sel.val + 4 * w.val + 4))) ∧
  (∀ (q : Req) (c : Fin 16) (s : State), pgRefuses q (.can c) s = false →
    ∃ t, exec (.canDetect q c) s = .next t ∧ t.resp = .done ∧
      ((canAt s c).mode = .detect → canIs c (fun x => { x with code := 0xA4 }) s t) ∧
      ((canAt s c).mode ≠ .detect →
        canIs c (fun x => { x with
          mode := .detect, code := 0, line := none, trying := 0, detHeld := none, detSince := localNs s, candSince := localNs s }) s t)) ∧
  (∀ (c : Fin 16) (s : State),
    ((canAt s c).mode = .detect →
      (∃ t, exec (.detectCandidateTimeout c) s = .next t ∧ t.tb = (reachLocal ((canAt s c).candSince + 200000000) s).tb ∧
        canLater c (fun x => { x with trying := x.trying + 1, detHeld := none, candSince := localNs t }) s t) ∧
      (∃ t, exec (.detectTimeout c) s = .next t ∧ t.tb = (reachLocal ((canAt s c).detSince + 100000000 * (canAt s c).timeout.toNat) s).tb ∧
        canLater c (fun x => { x with mode := .off, code := 0xA3, detHeld := none }) s t)) ∧
    ((canAt s c).mode ≠ .detect → exec (.detectCandidateTimeout c) s = .next s ∧ exec (.detectTimeout c) s = .next s))

open Sys2Proof Sys2Proof.Machine Sys2Proof.Stmt in
/-- R315, R316, R319, R320: REQ is refused on a buffer that is no TX_FW and changes nothing on a pending one; a frame that completes is
sent, with its time; one that loses arbitration or fails is pending again, or cancelled where a cancel waits; CANCEL follows Table 12.4. A
CAN-slot entry of the slot makes one request, at its offset, which follows the four conditions of R319. Error counts set their states;
recovery ends bus-off. (When a pending frame finds the bus free is a free value, log entry 35; what
REQ, STOP and recovery clear and the error counters: log entry 52.) -/
def Obligations.CanSendingErrorsAndModes : Prop :=
  (∀ (q : Req) (c : Fin 16) (s : State), pgRefuses q (.can c) s = false →
    (∃ t, exec (.canStart q c) s = .next t ∧ t.resp = .done ∧ canBy c (fun x => { x with
      mode := .normal, code := 0, detHeld := none, detSince := localNs s, candSince := localNs s }) s t) ∧
    (∃ t, exec (.canListen q c) s = .next t ∧ t.resp = .done ∧ canIs c (fun x => { x with
      mode := .listen, code := 0, line := none, detHeld := none, detSince := localNs s, candSince := localNs s }) s t) ∧
    (∃ t, exec (.canStop q c) s = .next t ∧ t.resp = .done ∧ canIs c (fun x => { x with
      mode := .off, code := 0, line := none, busoff := false, detHeld := none, detSince := localNs s, candSince := localNs s
      tec := if x.busoff then 0 else x.tec, recCnt := if x.busoff then 0 else x.recCnt
      passive := !x.busoff && x.passive, warning := !x.busoff && x.warning }) s t) ∧
    (∀ b : Fin 64, ∃ t, exec (.canTxReq q c b) s = .next t ∧ t.resp = .done ∧
      (Vec.at (canAt s c).kinds b ≠ .txFw → canIs c (fun x => { x with code := 0xA2 }) s t) ∧
      (Vec.at (canAt s c).kinds b = .txFw → (canAt s c).pend.getLsbD b.val = true → canIs c id s t) ∧
      (Vec.at (canAt s c).kinds b = .txFw → (canAt s c).pend.getLsbD b.val = false →
        canBy c (fun x => { x with
          pend := setBit x.pend b.val true, code := 0, sent := setBit x.sent b.val false
          cancelled := setBit x.cancelled b.val false }) s t)) ∧
    (∀ b : Fin 64, ∃ t, exec (.canTxCancel q c b) s = .next t ∧ t.resp = .done ∧
      ((canAt s c).pend.getLsbD b.val = false → canIs c (fun x => { x with code := 0xA1 }) s t) ∧
      (∀ h, (canAt s c).pend.getLsbD b.val = true → (canAt s c).line = some (b, h) →
        canIs c (fun x => { x with line := some (b, true), code := 0 }) s t) ∧
      (∀ d h, (canAt s c).pend.getLsbD b.val = true → (canAt s c).line = some (d, h) → d ≠ b →
        canIs c (fun x => { x with pend := setBit x.pend b.val false, cancelled := setBit x.cancelled b.val true, code := 0 }) s t) ∧
      ((canAt s c).pend.getLsbD b.val = true → (canAt s c).line = none →
        (canMaySend (canAt s c) = true ∧ canWinner (canAt s c) = some b ∧ canIs c (fun x => { x with line := some (b, true), code := 0 }) s t) ∨
        (canOnly c s t ∧ t.out = s.out ∧ { canAt t c with line := none } = { canAt s c with
          pend := setBit (canAt s c).pend b.val false, cancelled := setBit (canAt s c).cancelled b.val true, code := 0 })))) ∧
  (∀ (c : Fin 16) (ago : Nat) (b : Fin 64) (hold : Bool) (s : State),
    let x := canAt s c
    canMaySend x = true → x.line = some (b, hold) → memWf x.bufs = true →
    (∃ t, exec (.canFrameEnd c .done ago) s = .next t ∧ canOnly c s t ∧ (canAt t c).pend = setBit x.pend b.val false ∧
      (canAt t c).sent = setBit x.sent b.val true ∧ (canAt t c).code = (if hold then 0xA0 else x.code) ∧
      (memDword (canAt t c).bufs (128 * b.val + 8)).toNat = (nowNs s - ago) % 2 ^ 64 ∧
      sameOutside x.bufs (canAt t c).bufs (128 * b.val + 8) (128 * b.val + 16) ∧
      t.out = s.out ++ [.can c b (canBuffer (canAt t c) b.val)] ∧
      (canAt t c).recCnt = x.recCnt ∧ (canAt t c).tec = (if x.tec = 0 then 0 else x.tec - 1) ∧
      (if x.tec = 0 then (canAt t c).passive = x.passive ∧ (canAt t c).warning = x.warning else countsShown (canAt t c)) ∧
      (canAt t c).cancelled = x.cancelled ∧ (Vec.at x.kinds b = .txFw → (hdrAt t (.can c)).raw.getLsbD 1 = true)) ∧
    (∀ how, how = .lostArbitration ∨ how = .error → ∃ t, exec (.canFrameEnd c how ago) s = .next t ∧
      (hold = false → canIs c (fun x => { x with line := none }) s t) ∧
      (hold = true → canBy c (fun x => { x with
        line := none, pend := setBit x.pend b.val false, cancelled := setBit x.cancelled b.val true, code := 0 }) s t))) ∧
  (∀ (c : Fin 16) (b : Fin 64) (s : State),
    (canEntry c b s = none ∨ s.sched.running = false ∨ s.sched.slotBegun = false → exec (.canSlotRequest c b) s = .next s) ∧
    ∀ e, canEntry c b s = some e →
      (∃ im, s.sched.active = some im ∧ e ∈ im.canSlots ∧ e.ctrl.toNat = c.val ∧ e.buffer.toNat = b.val ∧ e.t.slot = s.sched.slot ∧
        timingActive e.t s.sched.round = true ∧ e ∉ s.sched.canDone) ∧
      (s.sched.running = true → s.sched.slotBegun = true →
        let x := canAt s c
        let s1 := updSched (fun y => { y with canDone := e :: y.canDone }) (reach (canInstant s e) s)
        (Vec.at x.kinds b ≠ .txSched ∨ drivesSingle s = false ∨ canHeldSafe s c b = true → exec (.canSlotRequest c b) s = .next s1) ∧
        (Vec.at x.kinds b = .txSched → drivesSingle s = true → canHeldSafe s c b = false →
          (x.mode ≠ .normal → ∃ t, exec (.canSlotRequest c b) s = .next t ∧ (hdrAt t (.can c)).raw.getLsbD 6 = true ∧
            canIs c (fun x => { x with late := satInc x.late }) s1 t) ∧
          (x.mode = .normal → memWf x.bufs = true → ∃ t, exec (.canSlotRequest c b) s = .next t ∧
            (canAt t c).pend = setBit x.pend b.val true ∧
            memWord (canAt t c).bufs (128 * b.val) = memWord x.txData (128 * b.val) &&& canWordMask 0 ∧
            memWord (canAt t c).bufs (128 * b.val + 4) = memWord x.txData (128 * b.val + 4) &&& canWordMask 1 ∧
            (∀ i, 64 ≤ i → i < 128 → memGet (canAt t c).bufs (128 * b.val + i) = memGet x.txData (128 * b.val + i)) ∧
            (∀ i, 8 ≤ i → i < 64 → memGet (canAt t c).bufs (128 * b.val + i) = memGet x.bufs (128 * b.val + i)) ∧
            sameOutside x.bufs (canAt t c).bufs (128 * b.val) (128 * b.val + 128) ∧
            (canAt t c).late = (if x.pend.getLsbD b.val then satInc x.late else x.late) ∧
            canBy c (fun x => { x with
              bufs := (canAt t c).bufs, pend := setBit x.pend b.val true, sent := setBit x.sent b.val false
              cancelled := setBit x.cancelled b.val false, late := (canAt t c).late }) s1 t)))) ∧
  (∀ (c : Fin 16) (tec : BitVec 9) (rec_ : BitVec 8) (s : State),
    let x := canAt s c
    (x.mode = .off → exec (.canError c tec rec_) s = .next s) ∧
    (x.mode = .detect → ∃ t, exec (.canError c tec rec_) s = .next t ∧
      canIs c (fun x => { x with trying := x.trying + 1, detHeld := none, candSince := localNs s }) s t) ∧
    (x.mode = .normal ∨ x.mode = .listen → tec.toNat < 256 → ∃ t, exec (.canError c tec rec_) s = .next t ∧
      canIs c (fun x => { x with
        tec := tec, recCnt := rec_, passive := decide (128 ≤ tec.toNat ∨ 128 ≤ rec_.toNat)
        warning := decide (96 ≤ tec.toNat ∨ 96 ≤ rec_.toNat) }) s t) ∧
    (x.mode = .normal ∨ x.mode = .listen → 256 ≤ tec.toNat → x.line.elim true (fun l => !l.2) = true →
      ∃ t, exec (.canError c tec rec_) s = .next t ∧
        canIs c (fun x => { x with tec := tec, recCnt := rec_, passive := true, warning := true, busoff := true, line := none }) s t) ∧
    (∀ b, x.mode = .normal ∨ x.mode = .listen → 256 ≤ tec.toNat → x.line = some (b, true) →
      ∃ t, exec (.canError c tec rec_) s = .next t ∧ canIs c (fun x => { x with
        tec := tec, recCnt := rec_, passive := true, warning := true, busoff := true, line := none
        pend := setBit x.pend b.val false, cancelled := setBit x.cancelled b.val true, code := 0 }) s t)) ∧
  (∀ (c : Fin 16) (s : State),
    ((canAt s c).busoff = false → exec (.busoffRecoveryEnd c) s = .next s) ∧
    ((canAt s c).busoff = true → ∃ t, exec (.busoffRecoveryEnd c) s = .next t ∧
      canBy c (fun x => { x with
        busoff := false, passive := false, warning := false, tec := 0, recCnt := 0, busoffs := satInc x.busoffs }) s t))

open Sys2Proof Sys2Proof.Machine Sys2Proof.Stmt in
/-- R322, R323, R325: a received byte, its data bits alone, enters the FIFO of 256 or is lost and counted, and a mark character's time enters the mark FIFO; errors
are counted; a write enters the transmit FIFO or is counted; the byte sent leaves and the next follows; a read removes the oldest byte, 0 for
a latched UART; a mark read gives the oldest instant. (What becomes of a character with an error, and of the bytes of a latched UART, is
the model's reading, log entry 53.) -/
def Obligations.UartFifosAndMarks : Prop :=
  (∀ (u : Fin 8) (b : Byte) (ago : Nat) (s : State),
    let x := uartAt s u
    let d := uartChar x b
    let mark : Prop := d = x.mark0 ∨ d = x.mark1
    (∀ i, d.getLsbD i = (b.getLsbD i && decide (i < x.dataBits.toNat + 5))) ∧
    ∃ t, exec (.uartByteReceive u b .none ago) s = .next t ∧
      (x.latched = false →
        (mark → (hdrAt t (.uart u)).raw.getLsbD 3 = true) ∧
        uartIs u (fun y => { y with
          rx := if x.rx.length < 256 then x.rx ++ [d] else x.rx, ovr := if x.rx.length < 256 then x.ovr else satInc x.ovr
          marks := if (d = x.mark0 ∨ d = x.mark1) ∧ x.marks.length < 16 then x.marks ++ [instantOf (nowNs s - ago)] else x.marks }) s t) ∧
      (x.latched = true → x.since.length < 3968 → uartIs u (fun y => { y with since := x.since ++ [d] }) s t) ∧
      (x.latched = true → 3968 ≤ x.since.length → uartIs u (fun y => { y with lost := true, ovr := satInc x.ovr }) s t)) ∧
  (∀ (u : Fin 8) (b : Byte) (ago : Nat) (s : State),
    (∃ t, exec (.uartByteReceive u b .framing ago) s = .next t ∧ (hdrAt t (.uart u)).raw.getLsbD 2 = true ∧
      uartIs u (fun x => { x with framing := satInc x.framing }) s t) ∧
    (∃ t, exec (.uartByteReceive u b .parity ago) s = .next t ∧ (hdrAt t (.uart u)).raw.getLsbD 2 = true ∧
      uartIs u (fun x => { x with parityErr := satInc x.parityErr }) s t) ∧
    (∃ t, exec (.uartByteReceive u b .brk ago) s = .next t ∧ (hdrAt t (.uart u)).raw.getLsbD 2 = true ∧
      uartIs u (fun x => { x with breaks := satInc x.breaks }) s t)) ∧
  (∀ (q : Req) (u : Fin 8) (b : Byte) (s : State), pgRefuses q (.uart u) s = false →
    let x := uartAt s u
    (∃ t, exec (.uartDataWrite q u b) s = .next t ∧ t.resp = .done ∧
      (256 ≤ x.tx.length → uartIs u (fun x => { x with txOvr := satInc x.txOvr }) s t) ∧
      (x.tx.length < 256 → x.sending = none → uartIs u (fun x => { x with sending := some b }) s t) ∧
      (x.tx.length < 256 → x.sending.isSome = true → uartIs u (fun x => { x with tx := x.tx ++ [b] }) s t)) ∧
    (∃ t, exec (.uartDataRead q u) s = .next t ∧
      (x.latched = true → t.resp = .value 0 ∧ uartIs u id s t) ∧
      (x.latched = false → t.resp = .value ((x.rx.headD 0).setWidth 64) ∧ uartIs u (fun x => { x with rx := x.rx.tail }) s t)) ∧
    (∃ t m, exec (.uartMarkRead q u) s = .next t ∧ m = x.marks.headD {} ∧ t.resp = .value (m.ns.setWidth 64) ∧
      latchGet t q.who (.uart u) 0x118 = m.sec.setWidth 32 ∧ (∀ w pg off, w ≠ q.who → latchGet t w pg off = latchGet s w pg off) ∧
      uartAt t u = { x with marks := x.marks.tail } ∧ (∀ v, v ≠ u → uartAt t v = uartAt s v) ∧
      { t with uarts := s.uarts, hdrs := s.hdrs, latches := s.latches, resp := s.resp } = s)) ∧
  (∀ (u : Fin 8) (s : State), (uartAt s u).sending = none → exec (.uartByteSent u) s = .next s) ∧
  (∀ (u : Fin 8) (b : Byte) (s : State), (uartAt s u).sending = some b →
    ∃ t, exec (.uartByteSent u) s = .next t ∧ t.out = s.out ++ [.uart u (uartChar (uartAt s u) b)] ∧
      uartIs u (fun x => { x with sending := x.tx.head?, tx := x.tx.tail }) s { t with out := s.out })
/-! ### Supervisor side -/

namespace Sys2Proof.Stmt
open Sys2Proof Sys2Proof.Machine

/-- A supervisor-page command changed the supervisor's state by `f`, and beside it only its answer and the page's count. -/
def superIs (f : Super → Super) (s t : State) : Prop :=
  t.resp = .done ∧ t.super = f s.super ∧ countsOnly .supervisor s t ∧ { t with super := s.super, hdrs := s.hdrs, resp := s.resp } = s

/-- Channel `ch` changed by `f`, and no other; beside the channels only headers, the recorder, the free-value count and the answer. -/
def mailIs (ch : Fin 32) (f : Mailbox → Mailbox) (s t : State) : Prop :=
  Vec.at t.mail ch = f (Vec.at s.mail ch) ∧ (∀ d, d ≠ ch → Vec.at t.mail d = Vec.at s.mail d) ∧
  { t with mail := s.mail, hdrs := s.hdrs, recorder := s.recorder, free := s.free, resp := s.resp } = s

/-- An agent may use a channel (R328, R337); in recovery the host may not (R385). -/
def mayUse (s : State) (a : Agent) (ch : Fin 32) : Prop := agentReaches a ch = true ∧ (s.upd.recovery = false ∨ a ≠ .host)

/-- Domain `d` went to state `p`, no other domain changed, and PD is raised. -/
def domainGoes (d : Fin 8) (p : PdState) (s t : State) : Prop :=
  pdAt t d = p ∧ (∀ e, e ≠ d → pdAt t e = pdAt s e) ∧ (hdrAt t .supervisor).raw.getLsbD 0 = true

/-- The host link is ready to take the doorbell of channel `ch`. -/
def hostReady (s : State) (ch : Fin 32) : Prop :=
  s.host.link = .l0 ∧ s.host.bme = true ∧ s.host.pmeOff = false ∧ s.host.masked.getLsbD ch.val = false

/-- The vectors that a state sent after another, in order. -/
def vectorsSent (l : List (Fin 32)) (s t : State) : Prop := t.out = s.out ++ l.map .msix

end Sys2Proof.Stmt

open Sys2Proof Sys2Proof.Machine Sys2Proof.Stmt in
/-- R177, R329, R330, R350: a core restarts its own watchdog with 0xC3 alone and is live; an expired watchdog makes its core not live, routes
its sources to the lowest live core and raises urgent source 501; when the last one expires the controller stops, and in a trio the member
gives up with LAST_RESORT and its status is fixed; a window boundary gives the core the tag of its next window and its timer interrupt;
FREEZE stops every counter of the device and CLEAR sets them to 0.
(A reading of the model that the clauses follow: log entry 105.) -/
def Obligations.WatchdogsWindowsAndCounters : Prop :=
  (∀ (q : Req) (key : Byte) (s : State), pgRefuses q .supervisor s = false →
    (∃ t, exec (.wdogRestart q key) s = .next t ∧
      (∀ c, coreOf q.who = some c → key = 0xC3 → superIs (fun x => { x with
        live := setBit x.live c.val true, wdogNs := Vec.put x.wdogNs c (localNs s + 1000000 * x.wdogMs.toNat) }) s t) ∧
      (coreOf q.who = none ∨ key ≠ 0xC3 → superIs id s t)) ∧
    (∀ on, ∃ t, exec (.pmuFreeze q on) s = .next t ∧ superIs (fun x => { x with freeze := on }) s t) ∧
    (∃ t, exec (.pmuClear q) s = .next t ∧ t.resp = .done ∧ { t with hdrs := s.hdrs, resp := s.resp } = s ∧
      ∀ pg, hdrAt t pg = { hdrAt s pg with cnt := Vector.replicate 4 0, clearTick := some s.tb.tick })) ∧
  (∀ (c : Fin 4) (s : State), s.super.live.getLsbD c.val = false → exec (.wdogExpire c) s = .next s) ∧
  (∀ (c d : Fin 4) (s : State), s.super.live.getLsbD c.val = true → s.super.live.getLsbD d.val = true → d ≠ c →
    (∀ e : Fin 4, e.val < d.val → e = c ∨ s.super.live.getLsbD e.val = false) →
    ∃ t, exec (.wdogExpire c) s = .next t ∧ t.super.live = setBit s.super.live c.val false ∧ t.super.urgent.getLsbD 5 = true ∧
      (hdrAt t .supervisor).raw.getLsbD 1 = true ∧
      (∀ n : Fin 512, (Vec.at t.super.route n).toNat = if (Vec.at s.super.route n).toNat = c.val then d.val else (Vec.at s.super.route n).toNat) ∧
      t.tb = (reachLocal (Vec.at s.super.wdogNs c) s).tb ∧ t.super.timerIrq = setBit s.super.timerIrq c.val false ∧
      { t with super := s.super, recorder := s.recorder, hdrs := s.hdrs, free := s.free, tb := s.tb } = s ∧
      { t.super with live := s.super.live, route := s.super.route, urgent := s.super.urgent, timerIrq := s.super.timerIrq } = s.super) ∧
  (∀ (c : Fin 4) (s : State), s.super.live.getLsbD c.val = true → (∀ d : Fin 4, d ≠ c → s.super.live.getLsbD d.val = false) →
    ∃ t, exec (.wdogExpire c) s = .next t ∧ t.super.live = 0 ∧ t.super.urgent.getLsbD 15 = true ∧
      (inTrio s = false → t.run.state = .stopped) ∧
      (inTrio s = true → t.trio.gaveUp = true ∧ t.trio.cause = 0x0D ∧ (s.trio.gaveUp = false → t.super.urgent.getLsbD 11 = true) ∧
        ∃ m, t.trio.fixed = some m ∧ m.gaveUp = true ∧ m.cause = 0x0D ∧ m.forces = [] ∧ m.refused = [])) ∧
  (∀ (c : Fin 4) (s : State),
    (s.sched.running = false ∨ coreWindows s c = [] → exec (.partitionWindowBoundary c) s = .next s) ∧
    (s.sched.running = true → coreWindows s c ≠ [] →
      let ws := coreWindows s c
      let w := (Vec.at s.super.tags c).window.toNat + 1
      let n := if w < ws.length then w else 0
      let begun := if w < ws.length then Vec.at s.super.partFrom c else Vec.at s.super.partFrom c + 1000 * s.super.period.toNat
      ∃ t, exec (.partitionWindowBoundary c) s = .next t ∧
        (∀ x, ws[n]? = some x → t.tb = (reach (begun + 1000 * x.startUs) s).tb ∧
          (∀ m, x.owner = some m → Vec.at t.super.tags c = ⟨m, false, BitVec.ofNat 4 n⟩) ∧
          (x.owner = none → Vec.at t.super.tags c = ⟨0, true, BitVec.ofNat 4 n⟩)) ∧
        Vec.at t.super.partFrom c = begun ∧ t.super.timerIrq = setBit s.super.timerIrq c.val true ∧
        (∀ d, d ≠ c → Vec.at t.super.tags d = Vec.at s.super.tags d ∧ Vec.at t.super.partFrom d = Vec.at s.super.partFrom d) ∧
        eventFrame s { t with
          tb := s.tb, super := { t.super with tags := s.super.tags, partFrom := s.super.partFrom, timerIrq := s.super.timerIrq } }))

open Sys2Proof Sys2Proof.Machine Sys2Proof.Stmt in
/-- R328, R338, R339, R340, R347: the secure channels answer the security core and machine mode alone. RING follows Table 13.5: on a FULL channel it changes RESULT alone; with the receiver's domain ON it stores the code and
delivers; with it STARTING, or OFF with WAKE, the doorbell is held and the domain starts; else DOMAIN_OFF. A doorbell for the host brings a link in L1
back to L0. ACK clears FULL and PENDING and
raises FREE. A command of the wrong agent and a refused message write receive an error response and change nothing. (A doorbell that wakes
a domain that is STOPPING is the model's reading, log entry 54.) -/
def Obligations.MailboxChannels : Prop :=
  (∀ (a : Agent) (ch : Fin 32) (code : BitVec 16) (wake : Bool) (w : Fin 16) (v : Word) (s : State),
    let m := Vec.at s.mail ch
    let d := agentDom m.receiver
    (¬ mayUse s a ch ∨ m.sender ≠ agentCode a → ∃ t, exec (.mbRing a ch code wake) s = .next t ∧ errorAnswered (agentReq a) (some (mailPage ch)) s t) ∧
    (mayUse s a ch → m.sender = agentCode a → ∃ t, exec (.mbRing a ch code wake) s = .next t ∧ t.resp = .done ∧
      (m.full = true → mailIs ch (fun m => { m with result := 0xB0 }) s t) ∧
      (m.full = false → pdAt s d = .on → m.receiver ≠ 1 →
        mailIs ch (fun m => { m with full := true, pending := false, code := code, result := 0 }) s t) ∧
      (m.full = false → pdAt s d = .on → m.receiver = 1 → hostReady s ch →
        mailIs ch (fun m => { m with full := true, pending := false, code := code, result := 0 }) s { t with out := s.out } ∧
        vectorsSent [ch] s t) ∧
      (m.full = false → pdAt s d = .on → m.receiver = 1 → s.host.link = .l1 → hostReady { s with host := { s.host with link := .l0 } } ch →
        t.host.link = .l0 ∧ (Vec.at t.mail ch).full = true ∧ (Vec.at t.mail ch).pending = false ∧
        vectorsSent (if s.host.masked.getLsbD 16 then [ch] else [16, ch]) s t) ∧
      (m.full = false → pdAt s d = .starting →
        mailIs ch (fun m => { m with full := true, pending := true, code := code, result := 0 }) s t) ∧
      (m.full = false → pdAt s d = .off → wake = true → s.part.hasTile d.val = true → d ≠ 0 →
        pdAt t d = .starting ∧ (Vec.at t.mail ch).full = true ∧ (Vec.at t.mail ch).pending = true ∧ (Vec.at t.mail ch).code = code ∧
        (Vec.at t.mail ch).result = 0) ∧
      (m.full = false → pdAt s d = .off → wake = false ∨ s.part.hasTile d.val = false → mailIs ch (fun m => { m with result := 0xB1 }) s t) ∧
      (m.full = false → pdAt s d = .stopping → wake = false → mailIs ch (fun m => { m with result := 0xB1 }) s t) ∧
      (m.full = false → pdAt s d = .stopping → wake = true → t.super.pdRestart = setBit s.super.pdRestart d.val true ∧
        mailIs ch (fun m => { m with full := true, pending := true, code := code, result := 0 }) s { t with super := s.super })) ∧
    (¬ mayUse s a ch ∨ m.receiver ≠ agentCode a → ∃ t, exec (.mbAck a ch) s = .next t ∧ errorAnswered (agentReq a) (some (mailPage ch)) s t) ∧
    (mayUse s a ch → m.receiver = agentCode a → ∃ t, exec (.mbAck a ch) s = .next t ∧ t.resp = .done ∧
      (m.full = false → mailIs ch (fun m => { m with result := 0xB2 }) s t) ∧
      (m.full = true → mailIs ch (fun m => { m with full := false, pending := false, result := 0 }) s t ∧
        (hdrAt t (mailPage ch)).raw.getLsbD (ch.val % 16) = true)) ∧
    (let ok : Prop := mayUse s a ch ∧ m.sender = agentCode a ∧ m.full = false ∧ pdAt s d = .on
     (¬ ok → ∃ t, exec (.mbMsgWrite a ch w v) s = .next t ∧ errorAnswered (agentReq a) (some (mailPage ch)) s t) ∧
     (ok → ∃ t, exec (.mbMsgWrite a ch w v) s = .next t ∧ t.resp = .done ∧
       mailIs ch (fun m => { m with msg := Vec.put m.msg w v }) s t))) ∧
  (∀ (ch : Fin 32) (s : State),
    let m := Vec.at s.mail ch
    (m.pending = false ∨ pdAt s (agentDom m.receiver) ≠ .on → exec (.doorbellDeliver ch) s = .next s) ∧
    (m.pending = true → pdAt s (agentDom m.receiver) = .on → m.receiver ≠ 1 →
      ∃ t, exec (.doorbellDeliver ch) s = .next t ∧ mailIs ch (fun m => { m with pending := false }) s t) ∧
    (m.pending = true → pdAt s (agentDom m.receiver) = .on → m.receiver = 1 → hostReady s ch →
      ∃ t, exec (.doorbellDeliver ch) s = .next t ∧ vectorsSent [ch] s t ∧
        mailIs ch (fun m => { m with pending := false }) s { t with out := s.out }))

open Sys2Proof Sys2Proof.Machine Sys2Proof.Stmt in
/-- R341, R342, R343: a command to a power domain is refused with ALWAYS_ON, IN_USE, BUSY or ABSENT, in this order; UP starts an OFF domain and
resets its tile, DOWN stops an ON one; both else change nothing. A start ends ON, with up to two failed engines of a Crest tile retired
(R100; log entry 102) and PD_FIELD over a trained link alone, or OFF with FAIL set and the doorbells toward the domain cleared; a stop ends OFF,
PD_FIELD with Foothill ALONE, and starts again where an UP or a waking doorbell waits. (UP toward a domain that is STOPPING is the model's
reading, log entry 54.) -/
def Obligations.PowerDomains : Prop :=
  (∀ (q : Req) (d : Fin 8) (s : State), pgRefuses q .supervisor s = false →
    let code (c : Byte) (t : State) : Prop := superIs (fun x => { x with pdCode := c }) s t
    let full : Prop := ∃ ch, (Vec.at s.mail ch).receiver ≠ 0xF ∧ agentDom (Vec.at s.mail ch).receiver = d ∧ (Vec.at s.mail ch).full = true
    (∃ t, exec (.pdUp q d) s = .next t ∧ t.resp = .done ∧
      (d = 0 → code 0xB3 t) ∧ (d ≠ 0 → s.part.hasTile d.val = false → code 0xB6 t) ∧
      (d ≠ 0 → s.part.hasTile d.val = true → (pdAt s d = .on ∨ pdAt s d = .starting) → code 0 t) ∧
      (d ≠ 0 → s.part.hasTile d.val = true → pdAt s d = .stopping →
        superIs (fun x => { x with pdCode := 0, pdRestart := setBit x.pdRestart d.val true }) s t) ∧
      (d ≠ 0 → s.part.hasTile d.val = true → pdAt s d = .off →
        t.super.pdCode = 0 ∧ t.super.pdFail.getLsbD d.val = false ∧ domainGoes d .starting s t ∧
        (∀ c : Fin 6, d.val = c.val + 1 → ∀ a, c.val * 0x800000 ≤ a → a < (c.val + 1) * 0x800000 → memGet t.pool a = 0) ∧
        (∀ ch, (Vec.at s.mail ch).receiver ≠ 0xF → agentDom (Vec.at s.mail ch).receiver = d → ∀ w, Vec.at (Vec.at t.mail ch).msg w = 0) ∧
        (d = 7 → t.field = if s.field.powered then { linkUp := false } else s.field))) ∧
    (∃ t, exec (.pdDown q d) s = .next t ∧ t.resp = .done ∧
      (d = 0 → code 0xB3 t) ∧ (d = 7 → s.part.hasField = false → code 0xB6 t) ∧
      (d ≠ 0 → ¬ (d = 7 ∧ s.part.hasField = false) → s.run.state ≠ .stopped → code 0xB4 t) ∧
      (d ≠ 0 → ¬ (d = 7 ∧ s.part.hasField = false) → s.run.state = .stopped → full → code 0xB5 t) ∧
      (d ≠ 0 → s.run.state = .stopped → ¬ full → s.part.hasTile d.val = false → code 0xB6 t) ∧
      (d ≠ 0 → s.run.state = .stopped → ¬ full → s.part.hasTile d.val = true → (pdAt s d = .off ∨ pdAt s d = .stopping) → code 0 t) ∧
      (d ≠ 0 → s.run.state = .stopped → ¬ full → s.part.hasTile d.val = true → (pdAt s d = .on ∨ pdAt s d = .starting) →
        t.super.pdCode = 0 ∧ domainGoes d .stopping s t))) ∧
  (∀ (d : Fin 8) (s : State),
    (∀ pass failed, pdAt s d ≠ .starting → exec (.pdStartEnd d pass failed) s = .next s) ∧
    (∀ (pass : Bool) (failed : BitVec 18), pdAt s d = .starting →
      let crest : Prop := 1 ≤ d.val ∧ d.val ≤ 6
      (pass = true → ¬ crest → (d = 7 → s.field.linkUp = true) →
        ∃ t, exec (.pdStartEnd d pass failed) s = .next t ∧ domainGoes d .on s t ∧
          eventFrame { s with super := { s.super with pd := t.super.pd } } t) ∧
      (∀ c : Fin 6, d.val = c.val + 1 → pass = true → popcount failed < 3 →
        ∃ t, exec (.pdStartEnd d pass failed) s = .next t ∧ domainGoes d .on s t ∧ Vec.at t.crests c = { Vec.at s.crests c with
            retired := failed, switch := { (Vec.at s.crests c).switch with up := s.part.usedPorts d.val } } ∧
          (∀ e, e ≠ c → Vec.at t.crests e = Vec.at s.crests e) ∧ (failed ≠ 0 → (hdrAt t (.engine c)).raw.getLsbD 3 = true) ∧
          eventFrame { s with super := { s.super with pd := t.super.pd }, crests := t.crests } t) ∧
      (let fails (t : State) : Prop := domainGoes d .off s t ∧ t.super.pdFail = setBit s.super.pdFail d.val true ∧
         (∀ ch, (Vec.at s.mail ch).receiver ≠ 0xF → agentDom (Vec.at s.mail ch).receiver = d → (Vec.at s.mail ch).pending = true →
           (Vec.at t.mail ch).pending = false ∧ (Vec.at t.mail ch).full = false) ∧
         (∀ ch, (Vec.at s.mail ch).receiver = 0xF ∨ agentDom (Vec.at s.mail ch).receiver ≠ d ∨ (Vec.at s.mail ch).pending = false →
           Vec.at t.mail ch = Vec.at s.mail ch)
       (pass = false ∨ (d = 7 ∧ s.field.linkUp = false) → ∃ t, exec (.pdStartEnd d pass failed) s = .next t ∧ fails t ∧
         eventFrame { s with super := { s.super with pd := t.super.pd, pdFail := t.super.pdFail }, mail := t.mail } t) ∧
       (∀ c : Fin 6, d.val = c.val + 1 → pass = true → 3 ≤ popcount failed →
         ∃ t, exec (.pdStartEnd d pass failed) s = .next t ∧ fails t ∧
           Vec.at t.crests c = { Vec.at s.crests c with retired := failed } ∧ (∀ e, e ≠ c → Vec.at t.crests e = Vec.at s.crests e) ∧
           (hdrAt t (.engine c)).raw.getLsbD 3 = true ∧
           eventFrame { s with super := { s.super with pd := t.super.pd, pdFail := t.super.pdFail }, mail := t.mail, crests := t.crests } t))) ∧
    (pdAt s d ≠ .stopping → exec (.pdStopEnd d) s = .next s) ∧
    (pdAt s d = .stopping → ∃ t, exec (.pdStopEnd d) s = .next t ∧
      (s.super.pdRestart.getLsbD d.val = false → domainGoes d .off s t ∧
        (d ≠ 7 → eventFrame { s with super := { s.super with pd := t.super.pd } } t) ∧
        (d = 7 → s.part.hasField = true → t.field.linkUp = false ∧ (s.field.powered = true → t.field.alone = true ∧ switchesFollow t))) ∧
      (s.super.pdRestart.getLsbD d.val = true → domainGoes d .starting s t ∧ t.super.pdRestart.getLsbD d.val = false)))

open Sys2Proof Sys2Proof.Machine Sys2Proof.Stmt in
/-- R344, R345, R347, R348, R349, R425: HOST_PERST_N resets the endpoint and the latches of its page alone; the first training set releases
WAKE_N; in L0 with bus mastering the held doorbells are sent in ascending channel order, and a message that waits brings the link out of L1;
in L2 a held doorbell drives WAKE_N low; PME_Turn_Off is answered. (Vector 16 of each host-link event is held and sent as a doorbell is: the
model's choice, log entry 117.) -/
def Obligations.HostLinkStates : Prop :=
  (∀ s : State,
    (∃ t, exec (.hostPerst true) s = .next t ∧ t.host.perst = true ∧ t.host.link = .detect ∧ t.host.bme = false ∧
      (∀ n, Vec.at t.host.queues n = []) ∧ t.run = s.run ∧ t.sched = s.sched ∧ t.mail = s.mail ∧ t.pool = s.pool ∧ t.sram = s.sram ∧
      ((∃ ch, hostHeld s ch = true) → t.host.wake = true) ∧
      (∀ w pg off, pg ≠ .hostLink → latchGet t w pg off = latchGet s w pg off ∧ heldGet t w pg off = heldGet s w pg off) ∧
      (∀ w off, latchGet t w .hostLink off = 0 ∧ heldGet t w .hostLink off = none) ∧
      { t with host := s.host, hdrs := s.hdrs, recorder := s.recorder, free := s.free, latches := s.latches, heldLow := s.heldLow } = s) ∧
    (let takes := hostTakes s 16
     s.host.perst = true → ∃ t, exec (.hostPerst false) s = .next t ∧
      t.host = { s.host with perst := false, wake := false, eventDue := s.host.eventDue || !takes } ∧
      vectorsSent (if takes then [16] else []) s t ∧
      (hdrAt t .hostLink).raw.getLsbD 1 = true ∧ eventFrame { s with host := t.host, out := t.out } t) ∧
    (s.host.perst = false → exec (.hostPerst false) s = .next s) ∧
    (s.host.perst = false → ∃ t, exec .hostTrainingSet s = .next t ∧
      t.host = { s.host with wake := false, link := .training, pmeOff := false } ∧ eventFrame { s with host := t.host } t) ∧
    (s.host.perst = true → exec .hostTrainingSet s = .next s ∧ exec .hostLinkL2 s = .next s ∧ exec .pmeTurnOff s = .next s) ∧
    (s.host.perst = false → ∃ t, exec .hostLinkL2 s = .next t ∧ t.host.link = .l2 ∧ ((∃ ch, hostHeld s ch = true) → t.host.wake = true) ∧
      t.mail = s.mail ∧ t.out = s.out ∧ eventFrame { s with host := t.host } t) ∧
    (s.host.perst = false → s.host.link = .l0 →
      let takes := hostTakes s 16
      ∃ t, exec .pmeTurnOff s = .next t ∧ t.out = s.out ++ (if takes then [.msix 16, .pmeToAck] else [.pmeToAck]) ∧
      t.host = { s.host with pmeOff := true, eventDue := s.host.eventDue || !takes } ∧
      (hdrAt t .hostLink).raw.getLsbD 2 = true ∧ t.mail = s.mail ∧ eventFrame { s with host := t.host, out := t.out } t)) ∧
  (∀ (bme : Bool) (masked : BitVec 32) (width rate : BitVec 3) (power : HostPower) (s : State),
    let put : HostLink := { s.host with
      bme := bme, masked := masked, width := width, rate := rate, wake := false, pmeOff := false, d3hot := power == .d3hot }
    let takes := bme && !masked.getLsbD 16
    let waits : Prop := bme = true ∧ ((s.host.eventDue = true ∧ masked.getLsbD 16 = false) ∨ ∃ ch, hostHeld s ch = true ∧ masked.getLsbD ch.val = false)
    let enters := s.host.link != .l0
    (s.host.perst = true → exec (.hostLinkL0 bme masked width rate power) s = .next s) ∧
    (s.host.perst = false → power ≠ .l0 → ¬ waits → ∃ t, exec (.hostLinkL0 bme masked width rate power) s = .next t ∧
      t.host = { put with link := .l1 } ∧ eventFrame { s with host := t.host } t) ∧
    (s.host.perst = false → power = .l0 ∨ waits → ∃ t, exec (.hostLinkL0 bme masked width rate power) s = .next t ∧
      t.host = { put with link := .l0, eventDue := !takes && (s.host.eventDue || enters) } ∧
      vectorsSent ((if takes && enters then [16] else []) ++
        ((List.finRange 32).filter fun ch => hostHeld s ch && (bme && !masked.getLsbD ch.val)) ++
        (if takes && s.host.eventDue then [16] else [])) s t ∧
      (∀ ch, Vec.at t.mail ch = if hostHeld s ch = true ∧ bme = true ∧ masked.getLsbD ch.val = false
        then { Vec.at s.mail ch with pending := false } else Vec.at s.mail ch) ∧
      eventFrame { s with host := t.host, mail := t.mail, out := t.out } t))
/-! ### Recorder and historian -/

namespace Sys2Proof.Stmt
open Sys2Proof Sys2Proof.Machine

/-- Only the recorder, headers and the free-value count changed. -/
def recorderOnly (s t : State) : Prop := { t with recorder := s.recorder, hdrs := s.hdrs, free := s.free } = s

/-- Only region `r` of the recorder's regions changed. -/
def onlyRegion (r : Fin 9) (s t : State) : Prop := ∀ q, q ≠ r → regionAt t q = regionAt s q

/-- An event was dropped: its region's counter of its severity counts it, and DROP is raised (R363). -/
def eventDropped (r : Fin 9) (ev : EventIn) (s t : State) : Prop :=
  (hdrAt t .recorder).raw.getLsbD 0 = true ∧ onlyRegion r s t ∧ (regionAt t r).slots = (regionAt s r).slots ∧
  (regionAt t r).series = (regionAt s r).series ∧
  ∀ k : Fin 8, Vec.at (regionAt t r).drops k =
    if k.val = ev.sev.toNat then satInc (Vec.at (regionAt s r).drops k) else Vec.at (regionAt s r).drops k

/-- The record that an event becomes as number `q`. -/
def recordOf (ev : EventIn) (t : Instant) (ep : BitVec 2) (q : BitVec 24) : Rec :=
  { ev := ev, time := t, epoch := ep, seq := q, repeats := 0, toDevice := ev.tenant.isNone, spilled := false }

/-- A command of the recorder page changed the recorder by `f` and nothing else but its answer and the page's count. -/
def recIs (f : Recorder → Recorder) (s t : State) : Prop :=
  t.resp = .done ∧ t.recorder = f s.recorder ∧ countsOnly .recorder s t ∧ { t with recorder := s.recorder, hdrs := s.hdrs, resp := s.resp } = s

/-- The historian changed by `f`, with events. -/
def historianIs (f : Historian → Historian) (s t : State) : Prop :=
  t.historian = f s.historian ∧ eventFrame { s with historian := t.historian, resp := t.resp } t

end Sys2Proof.Stmt

open Sys2Proof Sys2Proof.Machine Sys2Proof.Stmt in
/-- R357, R360 to R363: an event enters the queue of 256 with its instant and the region that is its tenant's as it arises, events of one instant by ascending source, or is dropped;
stored, a repeat of an open series is counted in its record; a new record takes the next number and the next free slot of its region, in a
full region that of the oldest record not more severe, and is dropped where there is none, or where REPEAT_ENDED would leave none, which ends
no series; the series it ends writes REPEAT_ENDED before it.
(Readings of the model that the clauses follow: log entries 56 and 107.) -/
def Obligations.EventsAreQueuedAndStored : Prop :=
  (∀ (ev : EventIn) (s : State), ∃ t, exec (.eventRecord ev) s = .next t ∧ recorderOnly s t ∧
    (s.recorder.queue.length < 256 → ∃ l r, s.recorder.queue = l ++ r ∧
      t = { s with recorder := { s.recorder with queue := l ++ (ev, nowInstant s, s.tb.epoch.setWidth 2, eventRegion s ev) :: r } } ∧
      (∀ x ∈ r, x.2.1 = nowInstant s ∧ ev.source < x.1.source) ∧
      (∀ x, l.getLast? = some x → x.2.1 = nowInstant s → x.1.source ≤ ev.source)) ∧
    (256 ≤ s.recorder.queue.length → t.recorder.queue = s.recorder.queue ∧ eventDropped (eventRegion s ev) ev s t)) ∧
  (∀ (ev : EventIn) (s : State),
    (ev.tenant = none → eventRegion s ev = 8) ∧
    (∀ m : BitVec 3, ev.tenant = some m → ∀ r : Fin 9, r.val = m.toNat →
      (s.recorder.layoutOn = true → 0 < (regionAt s r).size → eventRegion s ev = r) ∧
      (s.recorder.layoutOn = false ∨ (regionAt s r).size = 0 → eventRegion s ev = 8))) ∧
  (∀ s : State, s.recorder.queue = [] → exec .recordStore s = .next s) ∧
  (∀ (ev : EventIn) (at_ : Instant) (ep : BitVec 2) (r : Fin 9) (rest : List (EventIn × Instant × BitVec 2 × Fin 9)) (s : State),
    s.recorder.queue = (ev, at_, ep, r) :: rest →
    let g := regionAt s r
    let new := recordOf ev at_ ep s.recorder.nextSeq
    ∃ t, exec .recordStore s = .next t ∧ recorderOnly s t ∧ t.recorder.queue = rest ∧ onlyRegion r s t ∧
      (∀ x y, g.series = some y → seriesRec g = some x → sameEvent x.ev ev = true → localNs s < y.lastNs + 10 ^ 9 →
        localNs s < y.startNs + 10 * 10 ^ 9 →
        (regionAt t r).slots = g.slots.map (fun z => if inSeries g z then { z with repeats := satInc z.repeats } else z) ∧
        (regionAt t r).series = some { y with lastNs := localNs s, lastTime := at_, lastEpoch := ep, count := y.count + 1 } ∧
        t.recorder.nextSeq = s.recorder.nextSeq) ∧
      (g.series = none → g.slots.length < g.size →
        (regionAt t r).slots = g.slots ++ [new] ∧ t.recorder.nextSeq = s.recorder.nextSeq + 1 ∧
        (regionAt t r).series = some ⟨new.seq, localNs s, localNs s, at_, ep, 0⟩) ∧
      (seriesOver g ev (localNs s) = false → repeats g ev = false → g.size ≤ g.slots.length →
        (∀ x ∈ g.slots, ev.sev < x.ev.sev ∨ inSeries g x = true) →
        eventDropped r ev s t ∧ t.recorder.nextSeq = s.recorder.nextSeq ∧
        ∀ c : Fin 4, ev.code.getLsbD 15 = true → ev.source = 0xFF00 + BitVec.ofNat 16 c.val → (Vec.at t.recorder.fw c).res = 0xC2) ∧
      (seriesOver g ev (localNs s) = false → repeats g ev = false →
        (let u := endSeries r s
         slotFor u (regionAt u r) ev.sev = none) → eventDropped r ev s t ∧ t.recorder.nextSeq = s.recorder.nextSeq) ∧
      (g.series = none → g.size ≤ g.slots.length → (∃ x ∈ g.slots, x.ev.sev ≤ ev.sev) →
        ∃ i old, g.slots[i]? = some old ∧ old.ev.sev ≤ ev.sev ∧
          (∀ x ∈ g.slots, x.ev.sev ≤ ev.sev → seqAge s x.seq ≤ seqAge s old.seq) ∧
          (regionAt t r).slots = g.slots.set i new ∧ t.recorder.nextSeq = s.recorder.nextSeq + 1 ∧
          (old.spilled = false → t.recorder.lost = satInc s.recorder.lost ∧ (hdrAt t .recorder).raw.getLsbD 1 = true)) ∧
      (∀ x y, g.series = some y → seriesRec g = some x → ev.code ≠ 0x2980 →
        sameEvent x.ev ev = false ∨ y.lastNs + 10 ^ 9 ≤ localNs s ∨ y.startNs + 10 * 10 ^ 9 ≤ localNs s →
        (y.count = 0 → g.slots.length < g.size →
          (regionAt t r).slots = g.slots ++ [new] ∧ t.recorder.nextSeq = s.recorder.nextSeq + 1) ∧
        (0 < y.count → g.slots.length + 2 ≤ g.size →
          (regionAt t r).slots = g.slots ++
            [recordOf { code := 0x2980, source := x.ev.source, sev := x.ev.sev, tenant := x.ev.tenant, recorder := true
                        p0 := x.seq.setWidth 32, p1 := BitVec.ofNat 32 y.count, p2 := x.ev.code.setWidth 32 }
               y.lastTime y.lastEpoch s.recorder.nextSeq,
             recordOf ev at_ ep (s.recorder.nextSeq + 1)] ∧
          t.recorder.nextSeq = s.recorder.nextSeq + 2))) ∧
  (∀ (r : Fin 9) (s : State), (regionAt s r).series = none → exec (.seriesTimeout r) s = .next s) ∧
  (∀ (r : Fin 9) (s : State) (y : Series), (regionAt s r).series = some y →
    let s1 := reachLocal (y.lastNs + 10 ^ 9) s
    ∃ t, exec (.seriesTimeout r) s = .next t ∧ recorderOnly s1 t ∧ onlyRegion r s1 t ∧ t.recorder.queue = s1.recorder.queue ∧
    (y.count = 0 → regionAt t r = { regionAt s1 r with series := none } ∧ t.recorder.nextSeq = s.recorder.nextSeq) ∧
    (∀ x, seriesRec (regionAt s r) = some x → 0 < y.count →
      (regionAt s r).slots.length < (regionAt s r).size →
      (∃ z, (regionAt t r).slots = (regionAt s r).slots ++ [z] ∧ z.ev.code = 0x2980 ∧ z.ev.recorder = true ∧ z.time = y.lastTime ∧
        z.ev.p0 = x.seq.setWidth 32 ∧ z.ev.p1 = BitVec.ofNat 32 y.count ∧ z.ev.p2 = x.ev.code.setWidth 32 ∧ z.seq = s.recorder.nextSeq) ∧
      t.recorder.nextSeq = s.recorder.nextSeq + 1))

open Sys2Proof Sys2Proof.Machine Sys2Proof.Stmt in
/-- R364, R365, R366: a write of REC_CUR empties the window until the refill ends, which shows up to 32 records of the region at or after the
number, oldest first; a read of word 0 latches the whole entry for its requester; a core's record is refused with BAD_CODE or BAD_SEVERITY
and else enters the queue with the core's tag; REC_CLR clears the counters.
(A reading of the model that the clauses follow: log entry 56.) -/
def Obligations.RecorderWindowAndFirmwareRecords : Prop :=
  (∀ (q : Req) (v : Word) (s : State), pgRefuses q .recorder s = false →
    (∃ t, exec (.recRefill q v) s = .next t ∧ t.recorder.ready = false ∧ t.recorder.filled = 0 ∧ t.recorder.curSeq = v.setWidth 24 ∧
      t.recorder.curRegion = (v >>> 24).setWidth 4 ∧ (∀ i, windowEntry t i = List.replicate 8 0) ∧
      recIs (fun r => { r with
        curSeq := t.recorder.curSeq, curRegion := t.recorder.curRegion, ready := false, filled := 0, window := [], winLatch := []
        refilling := true }) s t) ∧
    (∀ i : Fin 32, ∃ t, exec (.recWinRead q i) s = .next t ∧
      t.resp = .value (((if s.recorder.ready then windowEntry s i else List.replicate 8 0).headD 0).setWidth 64) ∧
      (∀ k, 1 ≤ k → k < 8 → entryWord t q.who i k = ((if s.recorder.ready then windowEntry s i else List.replicate 8 0)[k]?).getD 0) ∧
      (∀ w j k, (w, j) ≠ (q.who, i) → entryWord t w j k = entryWord s w j k) ∧
      countsOnly .recorder s t ∧ { t with recorder := { t.recorder with winLatch := s.recorder.winLatch }, hdrs := s.hdrs, resp := s.resp } = s) ∧
    (∀ c : Fin 4, coreOf q.who = some c →
      let b := Vec.at s.recorder.fw c
      let res (x : Byte) (t : State) : Prop := recIs (fun r => { r with fw := Vec.upd r.fw c fun b => { b with res := x } }) s t
      ∃ t, exec (.recFwWrite q) s = .next t ∧
        (b.code.getLsbD 15 = false → res 0xC0 t) ∧ (b.code.getLsbD 15 = true → 5 < b.sev.toNat → res 0xC1 t) ∧
        (b.code.getLsbD 15 = true → b.sev.toNat ≤ 5 → s.recorder.queue.length < 256 →
          ∃ ev, ev.code = b.code ∧ ev.sev = b.sev ∧ ev.p0 = b.p0 ∧ ev.p1 = b.p1 ∧ ev.p2 = b.p2 ∧ ev.recorder = false ∧
            ev.tenant = tagTenant (Vec.at s.super.tags c) ∧ ev.source = 0xFF00 + BitVec.ofNat 16 c.val ∧
            recIs (fun r => { r with
              fw := Vec.upd r.fw c fun b => { b with res := 0 }
              queue := queueEntry (ev, nowInstant s, s.tb.epoch.setWidth 2, eventRegion s ev) r.queue }) s t) ∧
        (b.code.getLsbD 15 = true → b.sev.toNat ≤ 5 → 256 ≤ s.recorder.queue.length →
          (Vec.at t.recorder.fw c).res = 0xC2 ∧ t.recorder.queue = s.recorder.queue ∧ (hdrAt t .recorder).raw.getLsbD 0 = true)) ∧
    (coreOf q.who = none → ∃ t, exec (.recFwWrite q) s = .next t ∧ recIs id s t) ∧
    (∃ t, exec (.recClrLost q) s = .next t ∧ recIs (fun r => { r with lost := 0 }) s t) ∧
    (∃ t, exec (.recClrDrops q) s = .next t ∧ (9 ≤ s.recorder.rsel.toNat → recIs id s t) ∧
      ∀ r : Fin 9, s.recorder.rsel.toNat = r.val →
        recIs (fun x => { x with regions := Vec.upd x.regions r fun g => { g with drops := Vector.replicate 8 0 } }) s t)) ∧
  (∀ s : State, s.recorder.refilling = false → exec .recRefillEnd s = .next s) ∧
  (∀ (r : Fin 9) (s : State), s.recorder.refilling = true → s.recorder.curRegion.toNat = r.val →
    let g := regionAt s r
    let rank (x : Rec) : Nat := (x.seq - s.recorder.curSeq).toNat
    ∃ t, exec .recRefillEnd s = .next t ∧ t.recorder.ready = true ∧ t.recorder.window.length ≤ 32 ∧
      t.recorder.filled.toNat = t.recorder.window.length ∧ t.recorder.wseq = s.recorder.nextSeq ∧ t.recorder.winLatch = [] ∧
      (∀ k ∈ t.recorder.window, ∃ x, g.slots[k]? = some x ∧ rank x < 2 ^ 23) ∧
      t.recorder.window.Pairwise (fun i j => ∀ x y, g.slots[i]? = some x → g.slots[j]? = some y → rank x ≤ rank y) ∧
      (t.recorder.window.length < 32 → ∀ k x, g.slots[k]? = some x → rank x < 2 ^ 23 → k ∈ t.recorder.window) ∧
      (∀ i : Fin 32, t.recorder.window.length ≤ i.val → windowEntry t i = List.replicate 8 0) ∧
      (∀ (i : Fin 32) k x, t.recorder.window[i.val]? = some k → g.slots[k]? = some x → windowEntry t i = recWords x) ∧
      { t with recorder := s.recorder } = s)

open Sys2Proof Sys2Proof.Machine Sys2Proof.Stmt in
/-- R367, R369, R372, R373, R374, R375: records spill as one block into the owner's staging share; a completed write moves staged blocks of
one owner and class into a chunk of its drive; the index read, once, sets the drives' states and ENABLED; a sweep deallocates old chunks alone; a
health log or a time-out sets a drive's state; a query is refused with BUSY while one runs and copies whole blocks in ascending order. (A
chunk's age, the shares and what a query reads are the model's reading, log entry 57.) -/
def Obligations.HistorianDrivesAndQueries : Prop :=
  (∀ (r : Fin 9) (s : State),
    (spillable s r = [] ∨ s.historian.enabled = false → exec (.spillBlock r) s = .next s) ∧
    (∀ x rest, spillable s r = x :: rest → s.historian.enabled = true → ∃ t b, exec (.spillBlock r) s = .next t ∧
      b.owner = r ∧ b.cls = 0 ∧ b.g = 0 ∧ b.entry = 0xFFFFF ∧ b.gap = false ∧ b.stamp = BitVec.ofNat 64 (instantNs x.time) ∧
      b.data.take (32 * (rest.length + 1)) = (x :: rest).flatMap (fun y => bytesOfWords (recWords y)) ∧
      (stagingShare s r < stagedBytes s r + blockSize b → t = s) ∧
      (stagedBytes s r + blockSize b ≤ stagingShare s r →
        t.historian = { s.historian with staging := s.historian.staging ++ [b] } ∧
        (∀ y ∈ (regionAt t r).slots, (∃ z ∈ x :: rest, z.seq = y.seq) → y.spilled = true) ∧
        (regionAt t r).slots.map (fun y => { y with spilled := true }) = (regionAt s r).slots.map (fun y => { y with spilled := true }) ∧
        onlyRegion r s t ∧ { t with historian := s.historian, recorder := s.recorder, hdrs := s.hdrs, free := s.free } = s))) ∧
  (∀ (d : Fin 4) (s : State),
    (nextWrite s d = none → exec (.chunkWriteDone d) s = .next s) ∧
    (∀ o c old, nextWrite s d = some (o, c, old) → ∃ t bs, exec (.chunkWriteDone d) s = .next t ∧
      (∀ b ∈ bs, b.owner = o ∧ b.cls = c) ∧
      (∀ b, s.historian.staging.count b = t.historian.staging.count b + bs.count b) ∧
      (old = none → ∃ l, t.historian.chunks = l ++ [⟨d, o, c, bs⟩] ∧ ∀ k ∈ l, k ∈ s.historian.chunks) ∧
      (∀ k, old = some k → t.historian.chunks = s.historian.chunks.map (fun x => if x = k then { x with blocks := x.blocks ++ bs } else x)) ∧
      countsOnly .historian s t ∧ { t with historian := s.historian, hdrs := s.hdrs } = s)) ∧
  (∀ (found : Vec (Option DriveInfo) 4) (s : State), s.historian.enabled = true → exec (.historianIndexReadEnd found) s = .next s) ∧
  (∀ (found : Vec (Option DriveInfo) 4) (s : State), s.historian.enabled = false →
    ∃ t, exec (.historianIndexReadEnd found) s = .next t ∧ t.historian.enabled = true ∧
    (∀ d, (drivePlace s d = false ∨ Vec.at found d = none) → (driveAt t d).state = .absent) ∧
    (∀ d i, drivePlace s d = true → Vec.at found d = some i →
      (driveAt t d).state = (if i.suitable then .ok else .unsuitable) ∧ (driveAt t d).capGb.toNat = min 8000 i.capGb.toNat) ∧
    t.historian.chunks = s.historian.chunks ∧ t.historian.staging = s.historian.staging ∧
    eventFrame { s with historian := t.historian } t) ∧
  (∀ s : State, ∃ t, exec .retentionSweep s = .next t ∧ countsOnly .historian s t ∧
    t.historian = { s.historian with chunks := s.historian.chunks.filter fun c => !chunkOld s c } ∧
    { t with historian := s.historian, hdrs := s.hdrs } = s) ∧
  (∀ (d : Fin 4) (l : SmartLog) (s : State),
    let st := (driveAt s d).state
    let held : Prop := st = .ok ∨ st = .lowSpare
    (∃ t, exec (.smartRead d l) s = .next t ∧ (∀ e, e ≠ d → driveAt t e = driveAt s e) ∧
      (¬ held → st ≠ .retired → t = s) ∧ (st = .retired → (driveAt t d).state = .retired) ∧
      (held → (driveAt t d).spare = l.spare ∧ (driveAt t d).spareThr = l.spareThr ∧
        (l.readOnly = true → (driveAt t d).state = .retired) ∧
        (l.readOnly = false → l.spare < l.spareThr → (driveAt t d).state = .lowSpare) ∧
        (l.readOnly = false → ¬ l.spare < l.spareThr → (driveAt t d).state = st)) ∧
      ((driveAt t d).state ≠ st → (hdrAt t .historian).raw.getLsbD 0 = true) ∧ eventFrame { s with historian := t.historian } t) ∧
    (∃ t, exec (.driveTimeout d) s = .next t ∧ (∀ e, e ≠ d → driveAt t e = driveAt s e) ∧
      (held ∨ st = .retired → (driveAt t d).state = .failed ∧ (hdrAt t .historian).raw.getLsbD 0 = true) ∧
      (¬ held → st ≠ .retired → t = s) ∧ eventFrame { s with historian := t.historian } t)) ∧
  (∀ (q : Req) (s : State), pgRefuses q .historian s = false →
    ∃ t, exec (.hisQueryGo q) s = .next t ∧ t.resp = .done ∧
      (s.historian.qBusy = true → historianIs (fun h => { h with qCode := 0xC8 }) s t) ∧
      (s.historian.qBusy = false → historianIs (fun h => { h with qBusy := true, qCode := 0 }) s t)) ∧
  (∀ s : State, s.historian.qBusy = false → exec .queryEnd s = .next s) ∧
  (∀ s : State, s.historian.qBusy = true → memWf s.sram = true →
    ∃ t good bs rest, exec .queryEnd s = .next t ∧ t.historian.qBusy = false ∧ (hdrAt t .historian).raw.getLsbD 1 = true ∧
      good.Perm (((queryBlocks s).filter fun x => x.2).map fun x => x.1) ∧ good.Pairwise (fun a b => a.stamp ≤ b.stamp) ∧
      good = bs ++ rest ∧ (bs.map blockSize).sum ≤ s.historian.qLen.toNat ∧
      (∀ b r, rest = b :: r → s.historian.qLen.toNat < (bs.map blockSize).sum + blockSize b ∧ t.historian.qNext = b.stamp) ∧
      t.historian.qBlocks = BitVec.ofNat 16 bs.length ∧ t.historian.qCode = (if bs = [] then 0xC9 else 0) ∧
      (let d := bs.flatMap fun b => blockHeader b ++ b.data
       let a := s.historian.qBuf.toNat * 64
       a + d.length ≤ 0x2000000 → memRead t.sram a d.length = d ∧ sameOutside s.sram t.sram a (a + d.length)) ∧
      eventFrame { s with historian := t.historian, sram := t.sram } t)
/-! ### Resets, start-up, supplies and temperature -/

namespace Sys2Proof.Stmt
open Sys2Proof Sys2Proof.Machine

/-- After a reset of R409 with the cause given every block is at its reset values; kept are the part, the OTP, the secure store, the flash,
the drives' chunks, the level of HOST_PERST_N, and Foothill, whose link is down. The TAP is as `tap` says. The queue of commands, what
was sent and the count of free values are the model's own. -/
def resetTo (kind rail : BitVec 3) (tap : Bool) (s t : State) : Prop :=
  t.part = s.part ∧ t.otp = s.otp ∧ t.store = s.store ∧ t.flash = s.flash ∧ t.historian = { chunks := s.historian.chunks } ∧
  t.trio = {} ∧ t.host = { perst := s.host.perst } ∧ t.pwr = { causeKind := kind, causeRail := rail } ∧
  t.latches = s.latches.filter (fun x => isFieldPage x.1.2.1) ∧ t.heldLow = s.heldLow.filter (fun x => isFieldPage x.1.2.1) ∧
  t.tapReset = tap ∧ { t.field with linkUp := s.field.linkUp, heldMap := s.field.heldMap } = s.field ∧ t.field.linkUp = false ∧
  t.panel = { s.panel with write := none } ∧ t.sec = { jtagLimit := jtagOf s.otp } ∧ t.pending = s.pending ∧ t.out = s.out ∧ t.free = s.free ∧
  (∀ pg, pg ≠ .field → pg ≠ .panel → hdrAt t pg = {}) ∧ hdrAt t .field = hdrAt s .field ∧ hdrAt t .panel = hdrAt s .panel ∧
  { t with
    part := .acr9608, otp := {}, store := {}, flash := {}, historian := {}, trio := {}, host := {}, pwr := {}, tapReset := true, field := {}
    panel := {}, sec := State.reset.sec, pending := [], out := [], free := 0, hdrs := State.reset.hdrs, latches := [], heldLow := [] } = State.reset

/-- The start failed with a code and a tile (R415); beside that the state is `s` with headers, recorder and free-value count free. -/
def startFailed (code : Byte) (tile : BitVec 3) (s t : State) : Prop :=
  t.pwr = { s.pwr with stage := 15, startCode := code, startTile := tile } ∧ t.run = { s.run with state := .starting } ∧
  t.trio = { s.trio with forming := false } ∧ t.safety = { s.safety with safeHold := false } ∧
  eventFrame { s with pwr := t.pwr, run := t.run, trio := t.trio, safety := t.safety } t

/-- Is Crest tile `c` part of the device? -/
def crestIn (s : State) (c : Fin 6) : Prop := c.val < s.part.crests

/-- The domain of a Crest tile. -/
def crestDom (c : Fin 6) : Fin 8 := ⟨c.val + 1, by omega⟩

end Sys2Proof.Stmt

open Sys2Proof Sys2Proof.Machine Sys2Proof.Stmt in
/-- R409, R410, Table 16.3: the power-on reset and the device reset give every block they reach its reset values; PWR_CAUSE tells which;
the device reset leaves the TAP; PWR_RESET needs a secure requester and the key 0x5A, and waits for the next round while rounds run; at that instant (Table 15.11 step 2) the
controller stops and, where no function holds, every output takes its safe value; the reset follows. (What is kept outside the reach of a
reset is the model's reading, log entry 58.) -/
def Obligations.ResetsReachTheirBlocks : Prop :=
  (∀ s : State, ∃ t, exec .porAssert s = .next t ∧ resetTo 0 0 true s t) ∧
  (∀ (rail : Fin 6) (s : State),
    ((rail = 2 ∨ rail = 3) → exec (.internalReset rail) s = .next s) ∧
    (rail ≠ 2 → rail ≠ 3 → ∃ t, exec (.internalReset rail) s = .next t ∧ resetTo 1 (BitVec.ofNat 3 rail.val) true s t)) ∧
  (∀ s : State, exec .tapReset s = .next { s with tapReset := true }) ∧
  (∀ (q : Req) (key : Byte) (s : State),
    (isSecure q = false → ∃ t, exec (.pwrReset q key) s = .next t ∧ errorAnswered q.who (some .power) s t) ∧
    (isSecure q = true → pgRefuses q .power s = false →
      (key ≠ 0x5A → ∃ t, exec (.pwrReset q key) s = .next t ∧ t.resp = .done ∧ countsOnly .power s t ∧
        { t with hdrs := s.hdrs, resp := s.resp } = s) ∧
      (key = 0x5A → s.sched.running = false → ∃ t, exec (.pwrReset q key) s = .next t ∧ resetTo 4 0 s.tapReset s t) ∧
      (key = 0x5A → s.sched.running = true → ∃ t k, exec (.pwrReset q key) s = .next t ∧ t.upd = { s.upd with restart := some k } ∧
        (s.upd.restart = none → k = 4) ∧ t.resp = .done ∧ countsOnly .power s t ∧
        { t with upd := s.upd, hdrs := s.hdrs, resp := s.resp } = s))) ∧
  (∀ s : State,
    (s.upd.resetDue = none → exec .updateReset s = .next s) ∧
    (∀ k, s.upd.resetDue = some k → ∃ t, exec .updateReset s = .next t ∧ resetTo k 0 s.tapReset s t) ∧
    (s.upd.restart = none → exec .updateRestart s = .next s) ∧
    (∀ k, s.upd.restart = some k → ∃ t, exec .updateRestart s = .next t ∧
      t.upd = { s.upd with resetDue := some k, restart := none } ∧ t.run.state = .stopped ∧ t.sched.running = false ∧
      ((∀ c ∈ funcCfgs s, (Vec.at s.safety.funcs c.number).state ≠ .hold) → t.field.doSafe = BitVec.allOnes 24 ∧ t.field.tloSafe = BitVec.allOnes 8 ∧ t.field.aoSafe = BitVec.allOnes 16)))

namespace Sys2Proof.Stmt
open Sys2Proof Sys2Proof.Machine

/-- A copy of the boot record, or of the secure store, whose CRC is right. -/
def bootSound (r : BootRecord) : Prop := r.crc = crc32c (bootBytes r)
/-- See `bootSound`. -/
def secSound (o : Otp) (r : SecRecord) : Prop := r.crc = crc32c (secBytes o r.seq r.content)

/-- The boot record in force at a start: sound, and later than the other copy where that is sound too (R382). -/
def bootForce (f : Flash) (r : BootRecord) : Prop :=
  ∃ k, Vec.at f.boot k = some r ∧ bootSound r ∧ ∀ j x, j ≠ k → Vec.at f.boot j = some x → bootSound x → x.seq < r.seq

/-- See `bootForce`. -/
def secForce (o : Otp) (f : Flash) (r : SecRecord) : Prop :=
  ∃ k, Vec.at f.sec k = some r ∧ secSound o r ∧ ∀ j x, j ≠ k → Vec.at f.sec j = some x → secSound o x → x.seq < r.seq

/-- A flash after a new boot record: the next sequence number, in a copy that is not sound or not the later of the two (R382). -/
def bootWritten (f g : Flash) : Prop :=
  { g with boot := f.boot, bootSeq := f.bootSeq } = f ∧ g.bootSeq = f.bootSeq + 1 ∧
  ∃ k r, Vec.at g.boot k = some r ∧ bootSound r ∧
    { r with crc := 0 } = ⟨f.bootSeq + 1, f.slotA.state, f.slotB.state, f.starts, f.window, f.current, 0⟩ ∧
    (∀ j, j ≠ k → Vec.at g.boot j = Vec.at f.boot j) ∧
    (∀ x, Vec.at f.boot k = some x → bootSound x → ∀ j, j ≠ k → ∃ y, Vec.at f.boot j = some y ∧ bootSound y ∧ x.seq ≤ y.seq)

/-- A flash after a new secure-store record of the content `c`; see `bootWritten`. -/
def secWritten (o : Otp) (c : SecStore) (f g : Flash) : Prop :=
  { g with sec := f.sec, secSeq := f.secSeq } = f ∧ g.secSeq = f.secSeq + 1 ∧
  ∃ k r, Vec.at g.sec k = some r ∧ secSound o r ∧ r.seq = f.secSeq + 1 ∧ r.content = c ∧
    (∀ j, j ≠ k → Vec.at g.sec j = Vec.at f.sec j) ∧
    (∀ x, Vec.at f.sec k = some x → secSound o x → ∀ j, j ≠ k → ∃ y, Vec.at f.sec j = some y ∧ secSound o y ∧ x.seq ≤ y.seq)

/-- What the boot ROM leaves of the OTP, the flash and the secure store (R378, R382): weak bits are programmed again, a device in MANUFACTURE
without identity has made its keys, and the records in force are those of the later sound copies. -/
def romRan (s t : State) : Prop :=
  t.otp.weakGroups = 0 ∧ t.otp.weakSvn = 0 ∧
  (lcState s.otp ≠ 0 ∨ s.otp.identity = true → t.otp = { s.otp with weakGroups := 0, weakSvn := 0 }) ∧
  (lcState s.otp = 0 → s.otp.identity = false → t.otp.identity = true ∧ t.otp.devId = Config.sha384 (Config.publicKey t.otp.idKey) ∧
    { t.otp with identity := false, devId := s.otp.devId, idKey := s.otp.idKey, storageKey := s.otp.storageKey
                 weakGroups := s.otp.weakGroups, weakSvn := s.otp.weakSvn } = s.otp) ∧
  t.flash.boot = s.flash.boot ∧ t.flash.sec = s.flash.sec ∧ t.flash.store0 = s.flash.store0 ∧ t.flash.store1 = s.flash.store1 ∧
  { t.flash.slotA with state := s.flash.slotA.state } = s.flash.slotA ∧ { t.flash.slotB with state := s.flash.slotB.state } = s.flash.slotB ∧
  (∀ r, bootForce s.flash r → t.flash.bootSeq = r.seq ∧ t.flash.slotA.state = r.stateA ∧ t.flash.slotB.state = r.stateB ∧
    t.flash.starts = r.starts ∧ t.flash.window = r.window ∧ t.flash.current = r.current) ∧
  ((∀ k r, Vec.at s.flash.boot k = some r → ¬ bootSound r) → { t.flash with secSeq := s.flash.secSeq } = s.flash) ∧
  (∀ r, secForce s.otp s.flash r → t.store = r.content ∧ t.flash.secSeq = r.seq) ∧
  ((∀ k r, Vec.at s.flash.sec k = some r → ¬ secSound s.otp r) → t.store = s.store ∧ t.flash.secSeq = s.flash.secSeq)

/-- VCORE is to be commanded to `mv` (R405, R407; rounding and attempts: log entry 116): acknowledged, the message goes to the regulator and the
setting is `mv`; with PMB_FAIL standing nothing is sent; else PMB_FAIL is set. `f` is what the command does to the power page beside. -/
def vcoreCommanded (mv : BitVec 10) (ack : Bool) (f : Power → Power) (s t : State) : Prop :=
  (s.pwr.pmbFail = true → t.pwr = f s.pwr ∧ t.out = s.out) ∧
  (s.pwr.pmbFail = false → ack = false → t.pwr = f { s.pwr with pmbFail := true } ∧ t.out = s.out ∧ (hdrAt t .power).raw.getLsbD 4 = true) ∧
  (s.pwr.pmbFail = false → ack = true → t.pwr = f { s.pwr with setMv := mv } ∧
    t.out = s.out ++ [.voutCommand (0x40 + s.pwr.straps.pmbAddr.setWidth 7) (linear16 s.pwr.voutMode mv.toNat)])

end Sys2Proof.Stmt

open Sys2Proof Sys2Proof.Machine Sys2Proof.Stmt in
/-- R342, R378, R382, R384, R385, R405, R407, R408, R409, R412, R413, R415, R150, R197: the stages of Table 16.5: what each leaves where it
passes, and the code of Table 16.6 where it fails.
R388: at reset release a transition that was begun is rolled forward, or is stuck and the device enters recovery, as with no ticket.
(That a cold hold is judged at release with the readings last read, how three attempts of a PMBus message are one operand, that each tile's
self-test retires its engines and decides its domain before the start fails, and where the firmware lies in supervisor SRAM are the model's
choices, log entries 62, 102, 116 and 122.) (How the commands follow the steps of Table 16.5 is the model's reading, log entry 59.) -/
def Obligations.StartUpStages : Prop :=
  (∀ (p : Straps) (vm : Byte) (s : State),
    let cold := isCold s
    let pwr : Power := { s.pwr with
      released := true, stage := 2, straps := p, voutMode := vm, coldHold := cold
      rampNs := if cold = true then s.pwr.rampNs else some (s.pwr.rampNs.getD 0) }
    (s.pwr.released = true → exec (.resetRelease p vm) s = .next s) ∧
    (s.pwr.released = false → begunTarget s.otp = none → ∃ t, exec (.resetRelease p vm) s = .next t ∧
      t.pwr = pwr ∧ t.trio = { s.trio with member := p.trioId } ∧
      t.historian = { s.historian with hisBif := p.hisBif } ∧ t.tb = {} ∧ romRan s t ∧
      { t.sec with nonce := s.sec.nonce } = { s.sec with jtagLimit := BitVec.ofNat 2 (lcState s.otp) } ∧
      (∀ c, crestIn s c → cold = false → s.pwr.rampNs = none → pdAt t (crestDom c) = .starting) ∧
      (∀ c, ¬ crestIn s c ∨ cold = true ∨ s.pwr.rampNs ≠ none → pdAt t (crestDom c) = pdAt s (crestDom c)) ∧
      (s.part.hasField = true → pdAt t 7 = .starting) ∧
      (s.part.hasField = true → s.field.powered = true → t.field = { linkUp := false } ∧ t.panel = {}) ∧
      (s.part.hasField = false ∨ s.field.powered = false → t.field = s.field ∧ t.panel = s.panel) ∧
      { t with
        pwr := s.pwr, trio := s.trio, historian := s.historian, tb := s.tb, sec := s.sec, otp := s.otp, store := s.store, flash := s.flash
        field := s.field, panel := s.panel
        super := { t.super with pd := s.super.pd }, hdrs := s.hdrs, latches := s.latches, heldLow := s.heldLow
        recorder := s.recorder, free := s.free } = s) ∧
    (∀ n, s.pwr.released = false → begunTarget s.otp = some n → ∃ t, exec (.resetRelease p vm) s = .next t ∧ t.part = s.part ∧
      t.sec.jtagLimit = BitVec.ofNat 2 n ∧
      ((t.sec.stuck = true ∧ t.upd.recovery = true ∧ t.otp.groups = s.otp.groups) ∨
        t.otp.groups = setBit (setBit s.otp.groups (2 * n - 2) true) (2 * n - 1) true) ∧
      (s.store.ticket = none → (∀ k r, Vec.at s.flash.sec k = some r → r.content.ticket = none) →
        t.sec.stuck = true ∧ t.upd.recovery = true ∧ t.pwr = pwr))) ∧
  (∀ s : State,
    let boots : Prop := s.pwr.released = true ∧ s.pwr.stage = 2 ∧ s.pwr.coldHold = false ∧ s.upd.recovery = false
    let plain : Prop := boots ∧ rampEnd s ≤ localNs s ∧ s.pwr.causeKind ≠ 3
    (¬ boots → exec .bootComplete s = .next s) ∧
    (boots → ∃ t, exec .bootComplete s = .next t ∧ rampEnd s ≤ localNs t + 1 ∧
      (t.upd.recovery = true → t.pwr = s.pwr ∧ t.super = s.super ∧ t.sram = s.sram) ∧
      (t.upd.recovery = false → t.pwr = { s.pwr with stage := 4 } ∧ t.super.live = 0xF ∧
        ((runningSlot t).state = .active ∨ (runningSlot t).state = .trial)) ∧
      eventFrame { s with tb := t.tb, pwr := t.pwr, super := t.super, upd := t.upd, flash := t.flash, sram := t.sram } t) ∧
    (plain → s.flash.slotA.state = .active → s.flash.slotB.state = .empty →
      (slotBoots s false = true → ∃ t, exec .bootComplete s = .next t ∧ t.pwr = { s.pwr with stage := 4 } ∧
        t.super = { s.super with
          live := 0xF, wdogNs := Vector.replicate 4 (localNs s + 1000000 * s.super.wdogMs.toNat), firmware := t.super.firmware } ∧
        (∀ d : Fin 8, Vec.at t.super.firmware d = (if d = 0 ∨ s.part.hasTile d.val = false then [] else
          component (s.flash.slotA.package.drop 256) (if d = 7 then 4 else 3))) ∧
        t.upd = { s.upd with runningB := false, state := .idle, trialEnd := none } ∧
        (let fw := component (s.flash.slotA.package.drop 256) 2
         let a := Config.firmwareBase % 0x1800000
         memWf s.sram = true → memRead t.sram a fw.length = fw ∧ sameOutside s.sram t.sram a (a + fw.length)) ∧
        { t with pwr := s.pwr, super := s.super, upd := s.upd, sram := s.sram, tb := s.tb, hdrs := s.hdrs } = s) ∧
      (slotBoots s false = false → ∃ t, exec .bootComplete s = .next t ∧ t.upd.recovery = true ∧ t.upd.why = 3 ∧
        t.flash.slotA.state = .rejected ∧ (hdrAt t .update).raw.getLsbD 3 = true ∧
        eventFrame { s with tb := t.tb, upd := t.upd, flash := t.flash } t)) ∧
    (plain → s.flash.slotA.state = .active → s.flash.slotB.state = .valid → slotBoots s false = false →
      (slotBoots s true = true → ∃ t, exec .bootComplete s = .next t ∧ t.upd.recovery = false ∧ t.upd.runningB = true ∧ t.upd.why = 3 ∧
        t.flash.slotA = { s.flash.slotA with state := .rejected } ∧ t.flash.slotB = { s.flash.slotB with state := .active } ∧
        t.pwr.stage = 4) ∧
      (slotBoots s true = false → ∃ t, exec .bootComplete s = .next t ∧ t.upd.recovery = true ∧
        t.upd.fallbacks = satInc (satInc s.upd.fallbacks) ∧ t.flash.slotA.state = .rejected ∧ t.flash.slotB.state = .rejected)) ∧
    (plain → s.flash.slotA.state = .active → s.flash.slotB.state = .trial →
      (s.flash.starts.toNat < 3 → slotBoots s true = true → ∃ t, exec .bootComplete s = .next t ∧ t.upd.recovery = false ∧
        t.upd.runningB = true ∧ t.upd.state = .trial ∧ t.upd.trialEnd = some (s.flash.window.toNat * 500000000) ∧
        t.flash.slotB.state = .trial ∧ bootWritten { s.flash with starts := s.flash.starts + 1 } t.flash) ∧
      (s.flash.starts = 3 → slotBoots s false = true → ∃ t, exec .bootComplete s = .next t ∧ t.upd.recovery = false ∧
        t.upd.runningB = false ∧ t.upd.state = .idle ∧ t.upd.why = 2 ∧
        bootWritten { s.flash with slotB := { s.flash.slotB with state := .rejected } } t.flash))) ∧
  (∀ (failed : Vec (BitVec 18) 6) (memFail : BitVec 6) (links : BitVec 17) (ack : Bool) (s : State),
    let bad (c : Fin 6) : Prop := 2 < popcount (Vec.at failed c) ∨ memFail.getLsbD c.val = true
    let badLink (l : Nat) : Prop := (s.part.linkEnds l).isSome = true ∧ (links.getLsbD l = true ∨ l = fieldLink ∧ s.field.linkUp = false)
    (s.pwr.stage ≠ 4 → exec (.startupSelftestEnd failed memFail links ack) s = .next s) ∧
    (s.pwr.stage = 4 → ∃ t, exec (.startupSelftestEnd failed memFail links ack) s = .next t ∧
      (∀ c, crestIn s c → (Vec.at t.crests c).retired = Vec.at failed c ∧
        (bad c → pdAt t (crestDom c) = .off ∧ t.super.pdFail.getLsbD (c.val + 1) = true) ∧ (¬ bad c → pdAt t (crestDom c) = .on)) ∧
      (s.part.hasField = true →
        (badLink fieldLink → pdAt t 7 = .off ∧ t.super.pdFail.getLsbD 7 = true) ∧ (¬ badLink fieldLink → pdAt t 7 = .on)) ∧
      (∀ c, ¬ crestIn s c → Vec.at t.crests c = Vec.at s.crests c) ∧ t.pool = s.pool ∧
      (∀ c, crestIn s c → bad c → (∀ d, d.val < c.val → ¬ bad d) →
        t.pwr.stage = 15 ∧ t.pwr.startCode = 0xF0 ∧ t.pwr.startTile = BitVec.ofNat 3 (c.val + 1) ∧ t.run.state = .starting) ∧
      ((∀ c, crestIn s c → ¬ bad c) → (∃ l, l < 17 ∧ badLink l) →
        t.pwr.stage = 15 ∧ t.pwr.startCode = 0xF1 ∧ t.pwr.startTile = 0 ∧ t.run.state = .starting) ∧
      ((∀ c, crestIn s c → ¬ bad c) → (∀ l, l < 17 → ¬ badLink l) →
        vcoreCommanded s.pwr.vfloor ack (fun p => { p with stage := 5, floorSet := ack && !s.pwr.pmbFail }) s t ∧
        t.hub.up = s.part.usedPorts 0 ∧ (∀ c, crestIn s c → (Vec.at t.crests c).switch.up = s.part.usedPorts (c.val + 1)) ∧ t.run = s.run))) ∧
  (∀ (r : Vec (Vec (BitVec 12) 8) 6) (ack : Bool) (s : State),
    let low (n : Nat) : Prop := ∃ c, crestIn s c ∧ pdAt s (crestDom c) = .on ∧ ∃ i, (Vec.at (Vec.at r c) i).toNat < n
    (s.pwr.stage ≠ 5 → exec (.speedCharStep r ack) s = .next s) ∧
    (s.pwr.stage = 5 → ∃ t, exec (.speedCharStep r ack) s = .next t ∧
      (∀ c, crestIn s c → (Vec.at t.crests c).readings = Vec.at r c ∧ (∀ i, (Vec.at t.crests c).speedMin ≤ Vec.at (Vec.at r c) i) ∧
        (Vec.at t.crests c).speedMin = Vec.at (Vec.at r c) (Vec.at t.crests c).speedMon.toFin) ∧
      (s.pwr.floorSet = false → vcoreCommanded s.pwr.vfloor ack (fun p => { p with floorSet := ack && !s.pwr.pmbFail }) s t) ∧
      (s.pwr.floorSet = true → low 1152 → s.pwr.setMv.toNat < 850 →
        vcoreCommanded (BitVec.ofNat 10 (min 850 (s.pwr.setMv.toNat + 5))) ack id s t) ∧
      (s.pwr.floorSet = true → 850 ≤ s.pwr.setMv.toNat → low 1024 → t.pwr = { s.pwr with stage := 15, startCode := 0xF2, startTile := 0 }) ∧
      (s.pwr.floorSet = true → ¬ low 1152 ∨ 850 ≤ s.pwr.setMv.toNat → ¬ low 1024 → t.pwr = { s.pwr with stage := 6 }) ∧
      (s.pwr.floorSet = true → ¬ low 1152 ∨ 850 ≤ s.pwr.setMv.toNat → ∀ c, crestIn s c →
        ((Vec.at t.crests c).guard = true ↔ ∃ i, (Vec.at (Vec.at r c) i).toNat ≤ 1105)))) ∧
  (∀ s : State,
    let cur := s.flash.current
    (s.pwr.stage ≠ 6 → exec .startupImageEnd s = .next s) ∧
    (s.pwr.stage = 6 → ∃ t, exec .startupImageEnd s = .next t ∧
      ((tryEntry s cur).2 = true → t.pwr = { s.pwr with stage := 7 } ∧ { t with pwr := s.pwr, upd := { t.upd with env := s.upd.env } } = s) ∧
      ((tryEntry s cur).2 = false → (tryEntry s (!cur)).2 = true →
        t.pwr = { s.pwr with stage := 7 } ∧ bootWritten { s.flash with current := !cur } t.flash ∧
        { t with pwr := s.pwr, flash := s.flash, upd := { t.upd with env := s.upd.env } } = s) ∧
      ((tryEntry s cur).2 = false → (tryEntry s (!cur)).2 = false →
        startFailed 0xF3 0 { s with upd := { s.upd with env := (tryEntry s (!cur)).1 } } t))) ∧
  (∀ s : State,
    (s.pwr.stage ≠ 7 ∨ storeAt? s s.flash.current = none → exec .startupContextEnd s = .next s) ∧
    (∀ e, s.pwr.stage = 7 → storeAt? s s.flash.current = some e → ∃ t, exec .startupContextEnd s = .next t ∧
      t.run.active = some e.app ∧ t.sched.active = some e.sched ∧ t.super.wdogMs = e.app.watchdogMs ∧
      (∀ p : Fin 10, (hdrAt t (.port p)).lock = true) ∧ (∀ u : Fin 8, (hdrAt t (.uart u)).lock = true) ∧
      (e.app.safety = none → t.pwr.stage = (if inTrio s then 9 else 10) ∧ t.trio.forming = inTrio s) ∧
      (∀ c, e.app.safety = some c → s.safety.sealNow = c.sealCode →
        t.safety.accepted = true ∧ t.pwr.stage = (if inTrio s then 9 else 10)) ∧
      (∀ c, e.app.safety = some c → s.safety.sealNow ≠ c.sealCode →
        t.safety.safeHold = true ∧ t.safety.accepted = false ∧ t.run.state = .safeHold ∧ t.pwr.stage = 8)))

open Sys2Proof Sys2Proof.Machine Sys2Proof.Stmt in
/-- R392, R403, R407, R408: a dip sets its bit; a supply fault raises SUPPLY and urgent source 503 and is handled as a failed self-test; the
PMBus readings and PMB_FAIL; sensors more than 15 degrees from their tile's median are excluded, HOT is set from 140 degrees and cleared
below 135, and 150 degrees for 1 ms raise urgent source 502; the battery condition follows its ball. (That a cold hold ends with the readings,
whereupon step 2 of the start begins, is log entry 62; the number of the PMB_ALERT_N record, log entry 40.) -/
def Obligations.SuppliesAndTemperature : Prop :=
  (∀ (rail : Fin 6) (s : State),
    (∃ t, exec (.railDip rail) s = .next t ∧ t.pwr = { s.pwr with dip := setBit s.pwr.dip rail.val true } ∧
      (hdrAt t .power).raw.getLsbD 2 = true ∧ eventFrame { s with pwr := t.pwr } t) ∧
    (∃ t, exec (.railFault rail) s = .next t ∧ t.pwr.faults = setBit s.pwr.faults rail.val true ∧ t.super.urgent.getLsbD 7 = true ∧
      (hdrAt t .power).raw.getLsbD 1 = true ∧ handledAsFailed 0xF4 0 s t)) ∧
  (∀ (mv : BitVec 10) (da : BitVec 12) (s : State),
    exec (.pmbusRead mv da) s = .next { s with pwr := { s.pwr with measMv := mv, iout := da } }) ∧
  (∀ s : State, (s.pwr.pmbFail = true → exec .pmbusFail s = .next s) ∧
    (s.pwr.pmbFail = false → ∃ t, exec .pmbusFail s = .next t ∧ t.pwr = { s.pwr with pmbFail := true } ∧
      (hdrAt t .power).raw.getLsbD 4 = true ∧ eventFrame { s with pwr := t.pwr } t) ∧
    exec (.pmbusRetry true) s = .next { s with pwr := { s.pwr with pmbFail := false } } ∧ exec (.pmbusRetry false) s = .next s ∧
    (∃ t, exec .pmbAlert s = .next t ∧ recorderOnly s t ∧
      (s.recorder.queue.length < 256 → ∃ x, t.recorder.queue = queueEntry x s.recorder.queue ∧
        x.1.source = (blkId .power).setWidth 16 ∧ x.2.1 = nowInstant s)) ∧
    ∀ on, exec (.batteryCondition on) s = .next { s with upd := { s.upd with onBatt := on } }) ∧
  (∀ (x : Fin 7) (v : Vec (BitVec 11) 4) (held : Bool) (s : State),
    (s.part.hasTile x.val = false → exec (.tempRead x v held) s = .next s) ∧
    (s.part.hasTile x.val = true → ∃ t, exec (.tempRead x v held) s = .next t ∧ (tileTemps t x).1 = v ∧
      (∀ y, y ≠ x → tileTemps t y = tileTemps s y) ∧
      ((Vec.at v 0).toInt ≤ (Vec.at v 1).toInt → (Vec.at v 1).toInt ≤ (Vec.at v 2).toInt → (Vec.at v 2).toInt ≤ (Vec.at v 3).toInt →
        ∀ i : Fin 4, (tileTemps t x).2.getLsbD i.val =
          decide (120 < (2 * (Vec.at v i).toInt - (Vec.at v 1).toInt - (Vec.at v 2).toInt).natAbs)) ∧
      (∀ y ∈ tempsInUse t, y.2 ≤ t.pwr.tmax.toInt) ∧
      (tempsInUse t ≠ [] → ∃ y ∈ tempsInUse t, y.2 = t.pwr.tmax.toInt) ∧
      (560 ≤ t.pwr.tmax.toInt → t.pwr.hot = true) ∧ (t.pwr.tmax.toInt < 540 → t.pwr.hot = false) ∧
      (540 ≤ t.pwr.tmax.toInt → t.pwr.tmax.toInt < 560 → t.pwr.hot = s.pwr.hot) ∧
      (held = false → t.pwr.coldHold = (s.pwr.coldHold && isCold t) ∧
        (let begins : Prop := s.pwr.stage = 2 ∧ t.pwr.coldHold = false ∧ s.pwr.rampNs = none
         (begins → t.pwr.rampNs = some (localNs s) ∧ ∀ c, crestIn s c → pdAt t (crestDom c) = .starting) ∧
         (¬ begins → t.pwr.rampNs = s.pwr.rampNs ∧ t.super = s.super)) ∧
        eventFrame { s with pwr := t.pwr, crests := t.crests, super := { s.super with pd := t.super.pd } } t) ∧
      (held = true → (∃ y ∈ tempsInUse t, y.1 = x ∧ 600 ≤ y.2) →
        t.super.urgent.getLsbD 6 = true ∧ handledAsFailed 0xF5 (BitVec.ofNat 3 x.val) s t)))
/-! ### Tickets and firmware-set updates -/

namespace Sys2Proof.Stmt
open Sys2Proof Sys2Proof.Machine

/-- The command that submits a ticket of operation `op` (Table 15.9); `flashOk` matters to LC_ADVANCE alone. -/
def submitRow (q : Req) (flashOk : Bool) (op : Nat) (c : Instr) : Prop :=
  (op = 1 ∧ c = .ticketLcAdvance q flashOk) ∨ (op = 2 ∧ c = .ticketLock q) ∨ (op = 3 ∧ c = .ticketUnlock q) ∨
  (op = 4 ∧ c = .ticketCak q) ∨ (op = 5 ∧ c = .ticketPermit q) ∨ (op = 6 ∧ c = .ticketRevoke q)

/-- A ticket was refused: its code is in SEC_CODE, TICKET is raised, nothing else is different. -/
def ticketRefused (c : Byte) (s t : State) : Prop :=
  t.resp = .done ∧ t.sec = { s.sec with code := c } ∧ (hdrAt t .security).raw.getLsbD 1 = true ∧
  eventFrame { s with sec := t.sec, resp := t.resp } t

/-- A ticket was accepted: SEC_CODE is 0, SEC_NONCE has a new value, TICKET is raised. -/
def ticketAccepted (s t : State) : Prop :=
  t.resp = .done ∧ t.sec.code = 0 ∧ t.sec.nonce = (drawFree 64 s).1 ∧ (hdrAt t .security).raw.getLsbD 1 = true

/-- The update page refused a command with a code; REFUSED is raised. -/
def updRefused (c : Byte) (s t : State) : Prop :=
  t.resp = .done ∧ t.upd = { s.upd with code := c } ∧ (hdrAt t .update).raw.getLsbD 1 = true ∧
  eventFrame { s with upd := t.upd, resp := t.resp } t

/-- A command of the update page was taken: the update state changed by `f`, the flash as `g` says. -/
def updTaken (f : Update → Update) (g : Flash → Flash → Prop) (s t : State) : Prop :=
  t.resp = .done ∧ t.upd = f s.upd ∧ g s.flash t.flash ∧ countsOnly .update s t ∧
  { t with upd := s.upd, flash := s.flash, sec := s.sec, hdrs := s.hdrs, resp := s.resp } = s

/-- A flash with `x` as the slot of the letter `b`. -/
def withSlot (b : Bool) (x : FwSlot) (f : Flash) : Flash := if b then { f with slotB := x } else { f with slotA := x }

/-- The slot of the letter `b` has become `x`, in a new boot record. -/
def slotBecomes (b : Bool) (x : FwSlot) (f g : Flash) : Prop := bootWritten (withSlot b x f) g

/-- The conditions of Table 15.10 for a firmware-set ACTIVATE, with their codes, in row order. -/
def barRows (permit : Bool) (s : State) : List (Prop × Byte) :=
  [(s.store.ownerLock = true, 0xD7), (movingCond s = true ∧ permit = false, 0xDB), (s.upd.onBatt = true, 0xDC),
   (s.trio.state ≠ .alone ∧ votes s = true, 0xDD),
   (inTrio s = true ∧ ∃ m ∈ partnersOf s, ∃ k, (partnerAt s m).lastCompat = some k ∧ compatNear (otherSlot s).compat k = false, 0xDE)]

/-- A condition of Table 15.10 holds and it is the first that does: its code. -/
def barredWith (c : Byte) (permit : Bool) (s : State) : Prop :=
  ∃ before p after, barRows permit s = before ++ (p, c) :: after ∧ p ∧ ∀ x ∈ before, ¬ x.1

/-- No condition of Table 15.10 holds. -/
def notBarred (permit : Bool) (s : State) : Prop := ∀ x ∈ barRows permit s, ¬ x.1

end Sys2Proof.Stmt

open Sys2Proof Sys2Proof.Machine Sys2Proof.Stmt in
/-- R387, R388, R389, R390, Tables 15.3, 15.7, 15.8, 15.9: a ticket that fails a check of Table 15.3 is refused with its code, and with
WRONG_STATE while a transition is stuck; an accepted ticket draws a new nonce and has the effect of its operation: a life-cycle transition
burns its group's two bits and is recorded twice in the secure store, the owner lock is set or cleared, a CAK is kept, a permit runs for 1 h, a
vendor slot is revoked. (The byte layout of a secure-store record is the model's, log entry 121; that one command stands for each operation, log
entry 6.) (That a ticket of another operation does nothing, and the order of the refusals, are the model's reading, log entry 61.) -/
def Obligations.TicketsActAfterTheirChecks : Prop :=
  (∀ s : State, (s.sec.permitUntil = none → exec .permitExpire s = .next s) ∧
    ∀ e, s.sec.permitUntil = some e →
      exec .permitExpire s = .next { reachLocal (2 * e) s with sec := { s.sec with permitUntil := none } }) ∧
  (∀ (q : Req) (flashOk : Bool) (op : Nat) (row : Instr) (s : State), submitRow q flashOk op row → pgRefuses q .security s = false →
    (ticketAt s = none → ∃ t, exec row s = .next t ∧ ticketRefused 0xD0 s t) ∧
    (∀ env pay, ticketAt s = some (env, pay) → ticketOp pay = op →
      (checkEnv s .ticket env pay false false ≠ 0 →
        ∃ t, exec row s = .next t ∧ ticketRefused (checkEnv s .ticket env pay false false) s t) ∧
      (checkEnv s .ticket env pay false false = 0 → s.sec.stuck = true → op ≠ 1 →
        ∃ t, exec row s = .next t ∧ ticketRefused 0xD8 s t) ∧
      (checkEnv s .ticket env pay false false = 0 → s.sec.stuck = false ∨ op = 1 →
        ∃ t, exec row s = .next t ∧
          (op = 1 →
            let n := ticketTarget pay
            (n ≠ lcState s.otp + 1 → ticketRefused 0xD8 s t) ∧
            (n = lcState s.otp + 1 → movingCond s = true → ticketRefused 0xDB s t) ∧
            (n = lcState s.otp + 1 → movingCond s = false → s.upd.onBatt = true → ticketRefused 0xDC s t) ∧
            (n = lcState s.otp + 1 → movingCond s = false → s.upd.onBatt = false → flashOk = false → ticketRefused 0xDA s t) ∧
            (n = lcState s.otp + 1 → movingCond s = false → s.upd.onBatt = false → flashOk = true →
              ((∀ j, 2 * n ≤ j → s.otp.groups.getLsbD j = false) → lcState t.otp = n) ∧
              t.otp.groups = setBit (setBit s.otp.groups (2 * n - 2) true) (2 * n - 1) true ∧
              t.store.ticket = some (env, pay) ∧
              (n < 3 → ticketAccepted s t ∧ t.sec.jtagLimit = BitVec.ofNat 2 n ∧ t.sec.stuck = false ∧
                (hdrAt t .security).raw.getLsbD 0 = true ∧ t.upd = s.upd ∧
                t.store = { s.store with ticket := some (env, pay) } ∧
                ∃ f, secWritten s.otp t.store s.flash f ∧ secWritten s.otp t.store f t.flash) ∧
              (n = 1 → t.otp.owner = BitVec.ofNat 384 (leAt pay 16 48) ∧ t.otp.ownerBurnt = true) ∧
              (n = 3 → t.pwr = { causeKind := 5 } ∧ t.store = { ticket := some (env, pay) } ∧ t.flash.slotA = {} ∧ t.flash.slotB = {} ∧
                t.flash.store0 = none ∧ t.flash.store1 = none ∧ t.run = {}))) ∧
          (op = 2 → ticketAccepted s t ∧ t.store = { s.store with ownerLock := true } ∧ secWritten s.otp t.store s.flash t.flash) ∧
          (op = 3 → ticketAccepted s t ∧ t.store = { s.store with ownerLock := false } ∧ secWritten s.otp t.store s.flash t.flash) ∧
          (op = 4 →
            let key := Config.unwrapCak s.otp.idKey ((pay.drop 16).take 136)
            (key = none → ticketRefused 0xD9 s t) ∧
            (∀ k, key = some k → s.store.cak = none → ticketAccepted s t ∧ t.store = { s.store with cak := some k } ∧
              (Vec.at t.ports 8).keyCur = 0 ∧ (Vec.at t.ports 9).keyCur = 0 ∧ secWritten s.otp t.store s.flash t.flash) ∧
            (∀ k, key = some k → s.store.cak ≠ none → ticketAccepted s t ∧ t.store = { s.store with cakNext := some k } ∧
              t.ports = s.ports ∧ secWritten s.otp t.store s.flash t.flash)) ∧
          (op = 5 → ticketAccepted s t ∧ t.sec.permitUntil = some (s.tb.tick + 3600 * 500000000)) ∧
          (op = 6 →
            let left := setBit s.otp.revoked (ticketTarget pay) true
            ((envOf env).signer.toNat = ticketTarget pay ∨ left = 0xF → ticketRefused 0xE1 s t) ∧
            ((envOf env).signer.toNat ≠ ticketTarget pay → left ≠ 0xF → ticketAccepted s t ∧ t.otp = { s.otp with revoked := left })) ∧
          (op ≠ 1 → op ≠ 6 → t.otp = s.otp) ∧ (op = 5 ∨ op = 6 → t.flash = s.flash ∧ t.store = s.store) ∧
          (op ≠ 1 → t.pwr = s.pwr ∧ t.run = s.run ∧ t.upd = s.upd))))

open Sys2Proof Sys2Proof.Machine Sys2Proof.Stmt in
/-- R391, R393, R394, R397: LOAD records its slot EMPTY and ends VALID or EMPTY with a code; ACTIVATE is refused with LATE, BUSY, NO_SHADOW
or the first condition of Table 15.10, and else armed; CANCEL disarms it before the commit point; ERASE empties the slot not running; STORE
keeps a pair in the entry not current. R382: what changes a slot's state or the current entry is a new boot record (its byte layout: log entry
121). (The order of the refusals and when a package is taken are the model's reading, log entry 60.) -/
def Obligations.UpdatePageCommands : Prop :=
  (∀ (q : Req) (slot : Bool) (s : State), pgRefuses q .update s = false →
    let other := !s.upd.runningB
    (s.upd.state ≠ .idle → ∃ t, exec (.updLoad q slot) s = .next t ∧ updRefused 0x21 s t) ∧
    (s.upd.state = .idle →
      let b := if s.upd.recovery then slot else other
      let a := s.upd.loadAddr.toNat * 64
      ∃ t, exec (.updLoad q slot) s = .next t ∧ updTaken (fun u => { u with state := .loading, loadSlot := b, code := 0 })
        (slotBecomes b (slotAt t b)) s t ∧ (slotAt t b).state = .empty ∧ t.sec = s.sec ∧
        (a + s.upd.loadLen.toNat ≤ 0x2000000 → (slotAt t b).package = memRead s.sram a s.upd.loadLen.toNat)) ∧
    (∃ t, exec (.updActivate q) s = .next t ∧
      (frameLate s s.upd.target = true → updRefused 0x20 s t) ∧
      (frameLate s s.upd.target = false →
        let busy : Prop := s.upd.state = .armed ∨ s.upd.state = .trial
        let permit := s.sec.permitUntil.any fun e => decide (s.tb.tick < e)
        (busy → updRefused 0x21 s t) ∧
        (¬ busy → (otherSlot s).state ≠ .valid → updRefused 0x22 s t) ∧
        (¬ busy → (otherSlot s).state = .valid → (∀ c, barredWith c permit s → updRefused c s t) ∧
          (notBarred permit s → t.sec = { s.sec with permitUntil := none } ∧
            updTaken (fun u => { u with state := .armed, armedFrame := u.target, permitted := permit, code := 0 }) (fun f g => g = f) s t)))) ∧
    (let late : Prop := s.upd.restart = some 2 ∨ s.upd.resetDue = some 2 ∨ s.upd.state = .armed ∧ pastCommit s s.upd.armedFrame = true
     ∃ t, exec (.updCancel q) s = .next t ∧ t.sec = s.sec ∧ (late → updRefused 0x20 s t) ∧
      (¬ late → s.upd.state ≠ .armed → updRefused 0x23 s t) ∧
      (¬ late → s.upd.state = .armed → updTaken (fun u => { u with state := .idle, permitted := false, code := 0 }) (fun f g => g = f) s t)) ∧
    (∃ t, exec (.updErase q) s = .next t ∧ t.sec = s.sec ∧ (s.upd.state = .trial → updRefused 0x21 s t) ∧
      (s.upd.state ≠ .trial → updTaken (fun u => { u with code := 0 }) (slotBecomes other {}) s t)) ∧
    (∃ t, exec (.updStore q slot) s = .next t ∧ t.sec = s.sec ∧
      let busy : Prop := s.upd.state = .loading ∨ s.upd.storing ≠ none
      let keep (e : StoreEntry) : Prop := updTaken (fun u => { u with storing := some e, code := 0 }) (fun f g => g = f) s t
      (busy → updRefused 0x21 s t) ∧
      (¬ busy → slot = false → ∀ a im, s.run.active = some a → s.sched.active = some im → keep ⟨a, s.run.activeEnv, im, s.sched.activeEnv⟩) ∧
      (¬ busy → slot = true → ∀ a im, s.run.shadow = some a → s.sched.shadow = some im →
        let ready : Prop := (s.run.bank = .valid ∨ s.run.bank = .armed) ∧ (s.sched.bank = .valid ∨ s.sched.bank = .armed) ∧ im.appId = a.id
        (ready → keep ⟨a, s.run.shadowEnv, im, s.sched.shadowEnv⟩) ∧ (¬ ready → updRefused 0x22 s t)))) ∧
  (∀ (ok : Bool) (s : State),
    (s.upd.storing = none → exec (.updStoreEnd ok) s = .next s) ∧
    (∀ e, s.upd.storing = some e → ∃ t, exec (.updStoreEnd ok) s = .next t ∧
      (ok = true → storeAt? t (!s.flash.current) = some e ∧ t.flash.current = !s.flash.current ∧
        storeAt? t s.flash.current = storeAt? s s.flash.current ∧
        (∃ f, bootWritten f t.flash ∧ { f with current := s.flash.current, store0 := s.flash.store0, store1 := s.flash.store1 } = s.flash) ∧
        t.upd = { s.upd with storing := none } ∧ { t with upd := s.upd, flash := s.flash } = s) ∧
      (ok = false → storeAt? t s.flash.current = storeAt? s s.flash.current ∧
        { t.flash with store0 := s.flash.store0, store1 := s.flash.store1 } = s.flash ∧
        t.upd = { s.upd with storing := none, code := 0xDA } ∧ (hdrAt t .update).raw.getLsbD 1 = true ∧
        eventFrame { s with upd := t.upd, flash := t.flash } t)) ∧
    (s.upd.state ≠ .loading → exec (.updLoadEnd ok) s = .next s) ∧
    (s.upd.state = .loading →
      let b := s.upd.loadSlot
      let p := (slotAt s b).package
      let c : Byte := if p.length < 256 then 0xD0 else checkEnv s .firmware (p.take 256) (p.drop 256) false false
      ∃ t, exec (.updLoadEnd ok) s = .next t ∧
        (c ≠ 0 ∨ ok = false → slotBecomes b {} s.flash t.flash ∧
          t.upd = { s.upd with state := .idle, env := c, code := if c = 0 then 0xDA else c } ∧
          (hdrAt t .update).raw.getLsbD 0 = true ∧ eventFrame { s with upd := t.upd, flash := t.flash } t) ∧
        (c = 0 → ok = true → s.upd.recovery = false → slotBecomes b (slotAt t b) s.flash t.flash ∧ (slotAt t b).state = .valid ∧
          (slotAt t b).package = p ∧ (slotAt t b).svn = (envOf (p.take 256)).svn.setWidth 6 ∧ (slotAt t b).compat = (envOf (p.take 256)).compat ∧
          (slotAt t b).confirm = (envOf (p.take 256)).confirm ∧ t.upd = { s.upd with state := .idle, env := 0, code := 0 } ∧
          (hdrAt t .update).raw.getLsbD 0 = true ∧ eventFrame { s with upd := t.upd, flash := t.flash } t) ∧
        (c = 0 → ok = true → s.upd.recovery = true →
          (slotAt t b).state = .active ∧ (slotAt t b).package = p ∧ t.pwr = { causeKind := 2 } ∧ t.upd = {})))

open Sys2Proof Sys2Proof.Machine Sys2Proof.Stmt in
/-- R394, R395, R396, Table 15.11: at the commit point the conditions are checked again and the slot is TRIAL with no start counted; a secure
write of the trial set's token confirms it and raises the security version; the window's expiry makes a voting device give up and arms the
fallback, which rejects the slot. (How the confirm window counts is the model's reading, log entry 60.) -/
def Obligations.TrialsAreCommittedConfirmedOrRejected : Prop :=
  (∀ s : State,
    let due : Prop := lastRound s = true ∧ s.upd.armedFrame = s.sched.frame + 1
    (¬ due ∨ s.upd.fallbackArmed = false ∧ s.upd.state ≠ .armed → exec .updateCommitPoint s = .next s) ∧
    (due → s.upd.fallbackArmed = true → ∃ t, exec .updateCommitPoint s = .next t ∧
      t.upd = { s.upd with fallbackArmed := false, restart := some 3 } ∧
      slotBecomes s.upd.runningB { runningSlot s with state := .rejected } s.flash t.flash ∧
      { t with upd := s.upd, flash := s.flash } = s) ∧
    (due → s.upd.fallbackArmed = false → s.upd.state = .armed →
      (notBarred s.upd.permitted s → ∃ t, exec .updateCommitPoint s = .next t ∧
        t.upd = { s.upd with state := .trial, permitted := false, restart := some 2 } ∧
        bootWritten { withSlot (!s.upd.runningB) { otherSlot s with state := .trial } s.flash with starts := 0, window := s.upd.window } t.flash ∧
        { t with upd := s.upd, flash := s.flash } = s) ∧
      (∀ c, barredWith c s.upd.permitted s → ∃ t, exec .updateCommitPoint s = .next t ∧
        t.upd = { s.upd with state := .idle, permitted := false, code := c } ∧ (hdrAt t .update).raw.getLsbD 1 = true ∧
        eventFrame { s with upd := t.upd } t))) ∧
  (∀ (q : Req) (token : Word) (s : State),
    let trial : Prop := s.upd.state = .trial ∧ (runningSlot s).state = .trial ∧ s.upd.fallbackArmed = false
    let svn := if s.otp.svn < (runningSlot s).svn then (runningSlot s).svn else s.otp.svn
    (isSecure q = false → ∃ t, exec (.updConfirm q token) s = .next t ∧ errorAnswered q.who (some .update) s t) ∧
    (isSecure q = true → pgRefuses q .update s = false → ∃ t, exec (.updConfirm q token) s = .next t ∧
      (¬ trial → updRefused 0xE0 s t) ∧ (trial → token ≠ (runningSlot s).confirm → updRefused 0xDF s t) ∧
      (trial → token = (runningSlot s).confirm →
        t.upd = { s.upd with state := .idle, trialEnd := none, code := 0 } ∧ t.otp = { s.otp with svn := svn } ∧
        (runningSlot t).state = (if (runningSlot s).svn < svn then .rejected else .active) ∧
        ((otherSlot s).state ≠ .empty → (otherSlot s).svn < svn → (otherSlot t).state = .rejected) ∧
        ((otherSlot s).state = .active → ¬ (otherSlot s).svn < svn → (otherSlot t).state = .valid) ∧
        (∃ f, bootWritten f t.flash ∧ { f with slotA := s.flash.slotA, slotB := s.flash.slotB } = s.flash) ∧
        (hdrAt t .update).raw.getLsbD 2 = true ∧
        eventFrame { s with upd := t.upd, otp := t.otp, flash := t.flash, resp := .done } t))) ∧
  (∀ s : State,
    let trial : Prop := s.upd.state = .trial ∧ (runningSlot s).state = .trial ∧ s.upd.fallbackArmed = false
    (¬ trial → exec .confirmWindowExpire s = .next s) ∧
    (trial → s.sched.running = true →
      let s1 := reachLocal (2 * s.upd.trialEnd.getD 0) s
      ∃ t, exec .confirmWindowExpire s = .next t ∧ t.tb = s1.tb ∧
        t.upd = { s.upd with fallbackArmed := true, armedFrame := firstFrame t } ∧ t.flash = s.flash ∧
        (inTrio s = true → votes s = true → s.trio.gaveUp = false → t.trio.gaveUp = true ∧ t.trio.cause = 0x0B) ∧
        (inTrio s = false ∨ votes s = false → { t with upd := s1.upd } = s1)) ∧
    (trial → s.sched.running = false → ∃ t, exec .confirmWindowExpire s = .next t ∧
      slotBecomes s.upd.runningB { runningSlot s with state := .rejected } s.flash t.flash ∧ t.pwr = { causeKind := 3 } ∧ t.upd = {}))
/-! ### The whole device -/

open Sys2Proof Sys2Proof.Machine Sys2Proof.Stmt in
/-- A step takes the command at the front of the queue and runs it on the state with the rest of the queue (the model's interface; the order
of the queue is the model's, log entry 2). -/
def Obligations.StepRunsTheFrontCommand : Prop :=
  ∀ (c : Instr) (rest : List Instr) (s : State), step { s with pending := c :: rest } = exec c { s with pending := rest }

namespace Sys2Proof.Stmt
open Sys2Proof Sys2Proof.Machine

/-- The pages whose registers the spec gives reset values; the directories, the switches and the identity are supplied by the device. -/
def hasResetValues : Page → Prop
  | .directory | .secDirectory | .hub | .switch _ | .security => False
  | _ => True

/-- The reset value of the register word of a page at an offset: the tables' values, 0 where a table has none or gives 0. -/
def resetWord (pg : Page) (off : Nat) : Word :=
  match pg with
  | .interrupt => if 0xFC0 ≤ off then 4 else 0
  | .mailbox | .secMailbox => if off < 0x200 ∧ off % 16 = 0 then 0xFF else 0
  | .supervisor =>
    if off = 0x100 then 0xF else if off = 0x108 then 1000 else if 0x110 ≤ off ∧ off < 0x120 then 8 else if off = 0x130 then 2 else 0
  | .power => if off = 0x100 then 1 else if off = 0x110 then 750 else if off = 0x118 then 700 else 0
  | .trio =>
    if off = 0x100 then 0x1E3F else if off = 0x11C then 0x18 else if off = 0x120 then 0xFFFFFFFF else if off = 0x130 then 4
    else if off = 0x138 then 0x78 else 0
  | .timebase => if off = 0x124 then 0x200 else if off = 0x158 then 0x2000000 else if off = 0x1B0 then 0x6400640 else 0
  | .recorder =>
    if off = 0x104 then 0x8000000 else if off = 0x10C then 8 else if off = 0x110 then 65536 else if off = 0x138 then 64 else 0
  | .update => if off = 0x12C then 600 else 0
  | .port i => if i.val < 8 then (if off = 0x108 then 0xFFFF else 0) else (if off = 0x104 then 6 else 0)
  | .can _ => if off = 0x118 then 0x3200 else 0
  | .uart _ => if off = 0x100 then 0xC32DCD else if off = 0x104 then 0x12124 else 0
  | .engine _ => if off = 0x100 then 0x80000 else if off = 0x124 then 0x100 else 0
  | .field =>
    if off = 0x100 then 0x20 else if off = 0x150 ∨ off = 0x154 then 0x11111111 else if off = 0x1C4 then 4000000
    else if off = 0x1C8 then 20000000 else 0
  | .panel => if off = 0x100 then 0xFF0000 else 0
  | _ => 0

end Sys2Proof.Stmt

open Sys2Proof Sys2Proof.Machine Sys2Proof.Stmt in
/-- R12, R102, R193, R245, R260, R282, R307, R324, R325, R353 to R355, R376, R399, R409, R416: after reset every register word of every page
reads what the spec's register tables give, but for the identity, the directories and the switches, which the device supplies; the header of
every page, the memories and the queue of commands are empty, and an engine's registers, mode and flags have the values of Table 3.1.
(Readings of the model that the clauses follow: log entries 1, 64 and 94.) -/
def Obligations.ResetLeavesTheSpecValues : Prop :=
  (∀ (q : Requester) (pg : Page) (k : Nat), hasResetValues pg → 64 ≤ k → k < 1024 →
    plainReg State.reset q pg (4 * k) = resetWord pg (4 * k)) ∧
  (∀ pg, hdrAt State.reset pg = {}) ∧ State.reset.memoriesOk ∧ State.reset.pending = [] ∧
  State.reset.sched.bank = .empty ∧ State.reset.sched.active = none ∧ State.reset.run.state = .starting ∧ State.reset.run.active = none ∧
  (∀ i, Vec.at State.reset.run.forces i = none) ∧ State.reset.tb.sec = 0 ∧ State.reset.tb.ns = 0 ∧ State.reset.tb.gulny = 0 ∧
  State.reset.pwr.stage = 1 ∧ State.reset.pwr.setMv = 750 ∧ State.reset.pwr.vfloor = 700 ∧ State.reset.upd.state = .idle ∧
  State.reset.upd.window = 600 ∧ State.reset.super.live = 0xF ∧ State.reset.host.link = .detect ∧ State.reset.safety.safeHold = false ∧
  (∀ c e, (Vec.at (Vec.at State.reset.crests c).engines e).mode = 0x14 ∧ (Vec.at (Vec.at State.reset.crests c).engines e).flags = 0 ∧
    ∀ r, Vec.at (Vec.at (Vec.at State.reset.crests c).engines e).regs r = 0) ∧
  (∀ c, (Vec.at State.reset.cans c).mode = .off ∧ (Vec.at State.reset.cans c).timeout = 50) ∧ (∀ p, (portAt State.reset p).en = false)

open Sys2Proof Sys2Proof.Machine Sys2Proof.Stmt in
/-- The memories of the device keep their canonical form (log entry 4), in which two memories that read the same are the same: the pool and
supervisor SRAM, both halves of every engine, loop records and trace memories, the stations' input and output areas, the trio unit's receive
and repair areas, Foothill's input flits, the CAN buffers, latches and transmit areas, and the UART latches. Every step keeps it. -/
def Obligations.EveryStepKeepsMemoriesCanonical : Prop :=
  ∀ s t : State, s.memoriesOk → step s = .next t → t.memoriesOk

open Sys2Proof Sys2Proof.Machine Sys2Proof.Stmt in
/-- R378, R386, R389, R395: no step of any command takes back what was burnt into the OTP: a bit of the life-cycle groups and of the
revocations only changes from 0 to 1, the security version never falls, the owner key stays burnt, the device identity is made once, and the
serial number, the vendor keys and the part never change. -/
def Obligations.NoStepUnburnsTheOtp : Prop :=
  ∀ s t : State, step s = .next t →
    (∀ i, s.otp.groups.getLsbD i = true → t.otp.groups.getLsbD i = true) ∧
    (∀ i, s.otp.revoked.getLsbD i = true → t.otp.revoked.getLsbD i = true) ∧ s.otp.svn.toNat ≤ t.otp.svn.toNat ∧
    (s.otp.ownerBurnt = true → t.otp.ownerBurnt = true) ∧
    (s.otp.identity = true → t.otp.identity = true ∧ t.otp.devId = s.otp.devId ∧ t.otp.idKey = s.otp.idKey ∧
      t.otp.storageKey = s.otp.storageKey) ∧
    t.otp.serial = s.otp.serial ∧ t.otp.vendor = s.otp.vendor ∧ t.part = s.part

namespace Sys2Proof.Stmt
open Sys2Proof Sys2Proof.Machine

/-- The components of the device a command may change. -/
def changes : Instr → List Component
  | .registerWrite .. | .reg64LowWrite .. | .reg64HighWrite .. | .hostRequest .. | .ticketLcAdvance .. | .ticketLock ..
  | .ticketUnlock .. | .ticketCak .. | .ticketPermit .. | .ticketRevoke .. =>
    [.hdrs, .latches, .heldLow, .tb, .crests, .hub, .flitFails, .packets, .nextPacket, .opened, .pool, .sram, .staged, .sched, .run,
    .trio, .safety, .field, .panel, .ports, .cans, .uarts, .super, .mail, .host, .recorder, .historian, .otp, .store, .flash, .sec,
    .upd, .pwr, .forceInd, .resp, .out, .free]
  | .reg64LowRead .. => [.hdrs, .latches, .uarts, .recorder, .resp, .out, .free]
  | .blkLock .. | .blkCntClear .. | .blkIrqStatClear .. | .blkIrqSet .. | .pmuClear .. => [.hdrs, .resp, .out]
  | .bePacketLaunch .. => [.packets, .nextPacket]
  | .bePacketArrive .. => [.hdrs, .crests, .hub, .packets, .opened, .pool, .super, .host, .recorder, .resp, .out, .free]
  | .flitCheckFail .. =>
    [.hdrs, .crests, .hub, .flitFails, .pool, .sched, .run, .trio, .safety, .field, .cans, .super, .recorder, .pwr, .free]
  | .slotStart .. =>
    [.hdrs, .tb, .crests, .pool, .staged, .sched, .run, .trio, .field, .panel, .ports, .cans, .super, .recorder, .historian, .out, .free]
  | .stepStart .. => [.hdrs, .tb, .crests, .super, .recorder, .free]
  | .openWindowStart .. => [.hdrs, .tb, .packets, .opened, .recorder, .free]
  | .slotDeadline .. => [.hdrs, .tb, .crests, .pool, .sched, .run, .trio, .safety, .field, .cans, .super, .recorder, .free]
  | .roundStart =>
    [.hdrs, .tb, .crests, .pool, .staged, .sched, .run, .trio, .safety, .field, .panel, .ports, .cans, .uarts, .super, .recorder,
    .historian, .upd, .forceInd, .out, .free]
  | .inputVote => [.hdrs, .crests, .pool, .run, .trio, .safety, .ports, .super, .recorder, .out, .free]
  | .roundClose => [.hdrs, .crests, .pool, .trio, .safety, .ports, .super, .recorder, .out, .free]
  | .comparisonInstant => [.hdrs, .crests, .pool, .sched, .run, .trio, .safety, .field, .cans, .super, .recorder, .free]
  | .decisionInstant =>
    [.hdrs, .crests, .pool, .sched, .run, .trio, .safety, .field, .ports, .cans, .super, .recorder, .forceInd, .out, .free]
  | .fenceTestPulseEnd | .diagnosis .. | .bulkCopyEnd | .fenceInNLow => [.trio]
  | .exchangeMissing .. => [.hdrs, .trio]
  | .trioFrameReceive .. | .fenceFrameReceive .. =>
    [.hdrs, .tb, .crests, .pool, .sched, .run, .trio, .safety, .field, .ports, .cans, .super, .recorder, .pwr, .free]
  | .fenceIn | .rejoinSelftestEnd .. | .soloExpired | .commitPoint | .fieldFence =>
    [.hdrs, .pool, .sched, .run, .trio, .safety, .field, .cans, .super, .recorder, .free]
  | .trioPortDown .. | .trioPortUp .. => [.hdrs, .trio, .ports, .recorder, .free]
  | .trioRejoin .. => [.hdrs, .trio, .resp, .out]
  | .trioGiveUp .. | .trioAbortRejoin .. =>
    [.hdrs, .pool, .sched, .run, .trio, .safety, .field, .cans, .super, .recorder, .resp, .out, .free]
  | .soloWarn | .recordStore | .pmbAlert => [.hdrs, .recorder, .free]
  | .formationWaitEnd => [.hdrs, .trio, .recorder, .pwr, .free]
  | .add .. | .sub .. | .and .. | .or .. | .xor .. | .shl .. | .shr .. | .sar .. | .slt .. | .sltu .. | .min .. | .max .. | .abs ..
  | .mul .. | .mulh .. | .div .. | .divu .. | .rem .. | .mac .. | .msu .. | .accset .. | .acclo .. | .acchi .. | .accsh .. | .fadd ..
  | .fsub .. | .fmul .. | .fdiv .. | .fsqrt .. | .fma .. | .fmin .. | .fmax .. | .fabs .. | .fneg .. | .feq .. | .flt .. | .fle ..
  | .ftoi .. | .itof .. | .nop .. | .halt .. | .modew .. | .moder .. | .flagr .. | .flagc .. | .sysr .. | .jr .. | .trap .. | .addi ..
  | .andi .. | .ori .. | .xori .. | .slti .. | .lui .. | .shli .. | .shri .. | .sari .. | .ld .. | .ldu .. | .st .. | .beq .. | .bne ..
  | .blt .. | .bge .. | .bltu .. | .bgeu .. | .jmp .. | .call .. | .loop .. | .loopi .. | .illegalEncoding .. | .engineStall ..
  | .stewardQuietTest .. | .spareTest .. | .ctxEcc .. => [.hdrs, .crests, .run, .recorder, .free]
  | .engRetire .. | .engEccClrCorr .. | .engEccClrUnc .. | .lpaRead .. | .trcArm .. | .trcDisable .. => [.hdrs, .crests, .resp, .out]
  | .speedMeasureEnd .. => [.hdrs, .crests, .pool, .sched, .run, .trio, .safety, .field, .cans, .super, .recorder, .pwr, .out, .free]
  | .scrubWord .. => [.hdrs, .crests, .pool, .super, .recorder, .free]
  | .schLoad .. | .schDiscard .. => [.hdrs, .sched, .recorder, .resp, .out, .free]
  | .schValidationEnd => [.hdrs, .sched, .recorder, .upd, .free]
  | .schActivate .. | .schCancel .. => [.hdrs, .sched, .run, .recorder, .resp, .out, .free]
  | .scheduleSwap =>
    [.hdrs, .tb, .crests, .pool, .staged, .sched, .run, .trio, .safety, .field, .panel, .ports, .cans, .super, .recorder, .historian,
    .out, .free]
  | .frcSet .. | .frcClear .. | .frcClearAll .. => [.hdrs, .run, .trio, .recorder, .forceInd, .resp, .out, .free]
  | .forceTakeEffect => [.run, .forceInd]
  | .runRestart .. => [.hdrs, .run, .resp, .out]
  | .restartFrame => [.hdrs, .run, .recorder, .free]
  | .keacoFrameReceive .. => [.hdrs, .run, .ports]
  | .appLoad .. | .appCancel .. | .appDiscard .. => [.hdrs, .run, .recorder, .resp, .out, .free]
  | .appValidationEnd => [.hdrs, .pool, .run, .trio, .ports, .recorder, .upd, .out, .free]
  | .appActivate .. | .appArm .. => [.hdrs, .pool, .run, .trio, .safety, .ports, .recorder, .resp, .out, .free]
  | .appExchange =>
    [.hdrs, .tb, .crests, .pool, .staged, .sched, .run, .trio, .safety, .field, .panel, .ports, .cans, .uarts, .super, .recorder,
    .historian, .forceInd, .out, .free]
  | .lpaWrite .. | .trcFire .. => [.hdrs, .crests, .recorder, .resp, .out, .free]
  | .lpaWriteDecide .. => [.hdrs, .crests, .recorder, .free]
  | .sealReadMs => [.hdrs, .run, .trio, .safety, .field, .ports, .recorder, .forceInd, .out, .free]
  | .safeHoldLeave => [.hdrs, .run, .trio, .safety, .recorder, .pwr, .free]
  | .safetyFrameReceive .. => [.hdrs, .safety, .ports, .recorder, .free]
  | .pairWindowEnd .. => [.hdrs, .safety, .recorder, .free]
  | .safetyFrameQueue .. => [.hdrs, .crests, .safety, .ports, .super, .recorder, .free]
  | .fieldLinkFrame .. => [.hdrs, .hub, .safety, .field, .recorder, .free]
  | .fieldLinkTimeout => [.hdrs, .crests, .hub, .pool, .sched, .run, .trio, .safety, .field, .cans, .super, .recorder, .pwr, .free]
  | .fieldWarnSet .. | .fieldWarnClear .. => [.hdrs, .field, .panel, .recorder, .free]
  | .uvloEnter .. | .uvloExit .. | .foothillHot .. | .wireBreakSet .. | .tpsOverload .. | .inrushBlankingEnd .. | .outputTrip ..
  | .thermalShutdown .. | .tloOffCheck .. | .readbackMismatch .. | .aoStatusDecide .. => [.hdrs, .field, .recorder, .free]
  | .foothillShutdown .. | .railFault .. => [.hdrs, .pool, .sched, .run, .trio, .safety, .field, .cans, .super, .recorder, .pwr, .free]
  | .foothillPowerOn => [.hdrs, .latches, .heldLow, .field, .panel]
  | .debouncePass .. => [.safety, .field]
  | .wireBreakClear .. | .tpsRestart .. | .fenceSeen | .aiSupplyOverload .. | .aiSupplyRestart .. | .foothillPowerLoss
  | .diReadBrokenEnd .. => [.field]
  | .testPulseStart .. | .blankingWindowEnd .. | .tbStepApply => [.hdrs, .tb, .field, .recorder, .free]
  | .tloUnlock .. => [.hdrs, .field, .resp, .out]
  | .trimDrive4 .. | .trimDrive20 .. | .trimApply .. | .trimExit .. => [.hdrs, .field, .recorder, .resp, .out, .free]
  | .panelWriteStart => [.panel]
  | .panelWritePhase | .panelWriteEnd => [.hdrs, .tb, .panel, .recorder, .free]
  | .panelWriteAbandon .. | .vpnlLevelChange .. | .ntcMeasure .. | .crackMeasure .. => [.hdrs, .panel, .recorder, .free]
  | .pnlCntWrite .. => [.hdrs, .panel, .resp, .out]
  | .tbIncrLoWrite .. | .tbIncrHiWrite .. | .tbOffsetHiWrite .. => [.hdrs, .heldLow, .tb, .resp, .out]
  | .tbNowRead .. | .tbGcntRead .. => [.hdrs, .latches, .resp, .out]
  | .tbStep .. | .gulnyLoad .. | .oneshot .. => [.hdrs, .tb, .resp, .out]
  | .oneshotFire | .ppsInCapture .. | .ppsOutEdge .. | .ppsOutPulseEnd .. | .gateWindowClose .. | .seriesTimeout .. =>
    [.hdrs, .tb, .recorder, .free]
  | .ethFrameReceive .. => [.hdrs, .sram, .run, .safety, .ports, .recorder, .free]
  | .ethFrameTransmitStart .. => [.ports, .out]
  | .gateWindowOpen .. | .keyOverlapEnd .. => [.hdrs, .tb, .ports, .recorder, .free]
  | .ethTxqTailWrite .. => [.hdrs, .sram, .ports, .recorder, .resp, .out, .free]
  | .ethRxqTailWrite .. | .trpRotate .. => [.hdrs, .ports, .resp, .out]
  | .ethLinkChange .. => [.hdrs, .ports, .recorder, .free]
  | .keyRotateEffect .. => [.ports, .store, .flash]
  | .canFrameReceive .. | .canError .. | .busoffRecoveryEnd .. => [.hdrs, .cans, .recorder, .free]
  | .canFrameEnd .. => [.hdrs, .cans, .recorder, .out, .free]
  | .canStart .. | .canListen .. | .canDetect .. | .canStop .. | .canTxCancel .. => [.hdrs, .cans, .recorder, .resp, .out, .free]
  | .detectCandidateTimeout .. | .detectTimeout .. => [.hdrs, .tb, .cans, .recorder, .free]
  | .canTxReq .. => [.hdrs, .cans, .resp, .out, .free]
  | .canMbSelWrite .. | .canMbWrite .. => [.hdrs, .cans, .resp, .out]
  | .canSlotRequest .. => [.hdrs, .tb, .sched, .cans, .recorder, .free]
  | .uartByteReceive .. => [.hdrs, .uarts, .recorder, .free]
  | .uartDataWrite .. | .uartDataRead .. => [.hdrs, .uarts, .recorder, .resp, .out, .free]
  | .uartMarkRead .. => [.hdrs, .latches, .uarts, .resp, .out]
  | .wdogRestart .. | .pmuFreeze .. => [.hdrs, .super, .resp, .out]
  | .wdogExpire .. => [.hdrs, .tb, .pool, .sched, .run, .trio, .safety, .field, .cans, .super, .recorder, .free]
  | .partitionWindowBoundary .. => [.hdrs, .tb, .super, .recorder, .free]
  | .mbRing .. => [.hdrs, .latches, .heldLow, .crests, .pool, .field, .panel, .super, .mail, .host, .recorder, .resp, .out, .free]
  | .mbAck .. => [.hdrs, .mail, .recorder, .resp, .out, .free]
  | .mbMsgWrite .. => [.hdrs, .mail, .resp, .out]
  | .doorbellDeliver .. | .hostLinkL0 .. => [.hdrs, .mail, .host, .recorder, .out, .free]
  | .pdUp .. => [.hdrs, .latches, .heldLow, .crests, .pool, .field, .panel, .super, .mail, .recorder, .resp, .out, .free]
  | .pdDown .. => [.hdrs, .super, .recorder, .resp, .out, .free]
  | .pdStartEnd .. => [.hdrs, .crests, .super, .mail, .recorder, .free]
  | .pdStopEnd .. =>
    [.hdrs, .latches, .heldLow, .crests, .hub, .pool, .sched, .run, .trio, .safety, .field, .panel, .cans, .super, .mail, .recorder,
    .pwr, .free]
  | .hostPerst .. => [.hdrs, .latches, .heldLow, .host, .recorder, .out, .free]
  | .hostTrainingSet | .hostLinkL2 => [.hdrs, .host, .recorder, .free]
  | .pmeTurnOff => [.hdrs, .host, .recorder, .out, .free]
  | .eventRecord .. => [.hdrs, .recorder]
  | .recRefill .. | .recWinRead .. | .recFwWrite .. | .recClrDrops .. | .recClrLost .. => [.hdrs, .recorder, .resp, .out]
  | .recRefillEnd => [.recorder]
  | .spillBlock .. | .historianIndexReadEnd .. | .smartRead .. | .driveTimeout .. => [.hdrs, .recorder, .historian, .free]
  | .chunkWriteDone .. | .retentionSweep => [.hdrs, .historian]
  | .hisQueryGo .. => [.hdrs, .historian, .resp, .out]
  | .queryEnd => [.hdrs, .sram, .recorder, .historian, .free]
  | .porAssert | .internalReset .. =>
    [.hdrs, .latches, .heldLow, .tb, .crests, .hub, .flitFails, .packets, .nextPacket, .opened, .pool, .sram, .staged, .sched, .run,
    .trio, .safety, .field, .panel, .ports, .cans, .uarts, .super, .mail, .host, .recorder, .historian, .sec, .upd, .pwr, .forceInd,
    .tapReset, .resp]
  | .resetRelease .. =>
    [.hdrs, .latches, .heldLow, .tb, .crests, .hub, .flitFails, .packets, .nextPacket, .opened, .pool, .sram, .staged, .sched, .run,
    .trio, .safety, .field, .panel, .ports, .cans, .uarts, .super, .mail, .host, .recorder, .historian, .otp, .store, .flash, .sec,
    .upd, .pwr, .forceInd, .resp, .free]
  | .bootComplete => [.hdrs, .tb, .sram, .super, .recorder, .flash, .upd, .pwr, .free]
  | .startupSelftestEnd .. => [.hdrs, .crests, .hub, .run, .trio, .safety, .field, .super, .mail, .recorder, .pwr, .out, .free]
  | .speedCharStep .. => [.hdrs, .crests, .run, .trio, .safety, .recorder, .pwr, .out, .free]
  | .startupImageEnd => [.hdrs, .run, .trio, .safety, .recorder, .flash, .upd, .pwr, .free]
  | .startupContextEnd =>
    [.hdrs, .crests, .pool, .sched, .run, .trio, .safety, .field, .ports, .cans, .uarts, .super, .recorder, .historian, .pwr, .free]
  | .railDip .. | .pmbusFail => [.hdrs, .recorder, .pwr, .free]
  | .pmbusRead .. | .pmbusRetry .. => [.pwr]
  | .tempRead .. => [.hdrs, .crests, .pool, .sched, .run, .trio, .safety, .field, .cans, .super, .recorder, .pwr, .free]
  | .pwrReset .. =>
    [.hdrs, .latches, .heldLow, .tb, .crests, .hub, .flitFails, .packets, .nextPacket, .opened, .pool, .sram, .staged, .sched, .run,
    .trio, .safety, .field, .panel, .ports, .cans, .uarts, .super, .mail, .host, .recorder, .historian, .sec, .upd, .pwr, .forceInd,
    .resp, .out]
  | .tapReset => [.tapReset]
  | .batteryCondition .. => [.upd]
  | .permitExpire => [.hdrs, .tb, .recorder, .sec, .free]
  | .updLoad .. | .updErase .. => [.hdrs, .recorder, .flash, .upd, .resp, .out, .free]
  | .updLoadEnd .. | .confirmWindowExpire =>
    [.hdrs, .latches, .heldLow, .tb, .crests, .hub, .flitFails, .packets, .nextPacket, .opened, .pool, .sram, .staged, .sched, .run,
    .trio, .safety, .field, .panel, .ports, .cans, .uarts, .super, .mail, .host, .recorder, .historian, .flash, .sec, .upd, .pwr,
    .forceInd, .resp, .free]
  | .updActivate .. => [.hdrs, .recorder, .sec, .upd, .resp, .out, .free]
  | .updCancel .. | .updStore .. => [.hdrs, .recorder, .upd, .resp, .out, .free]
  | .updStoreEnd .. | .updateCommitPoint => [.hdrs, .recorder, .flash, .upd, .free]
  | .updateRestart => [.hdrs, .tb, .pool, .sched, .run, .safety, .field, .cans, .super, .recorder, .upd, .free]
  | .updateReset =>
    [.hdrs, .latches, .heldLow, .tb, .crests, .hub, .flitFails, .packets, .nextPacket, .opened, .pool, .sram, .staged, .sched, .run,
    .trio, .safety, .field, .panel, .ports, .cans, .uarts, .super, .mail, .host, .recorder, .historian, .sec, .upd, .pwr, .forceInd,
    .resp]
  | .updConfirm .. => [.hdrs, .recorder, .otp, .flash, .upd, .resp, .out, .free]
  | .ethFrameSent .. => [.hdrs, .sram, .ports, .recorder, .free]
  | .uartByteSent .. => [.hdrs, .uarts, .recorder, .out, .free]

end Sys2Proof.Stmt

open Sys2Proof Sys2Proof.Machine Sys2Proof.Stmt in
/-- Every command of the opcode table answers a next state, for every operand and from every state, and changes the components of the device
that its row of `changes` names and no other; none changes the part or the queue. A step takes the front of the queue and leaves its rest;
with the queue empty it changes the timebase unit, the page headers and the event queue alone. (The division into components and the queue are the model's,
log entry 2.) -/
def Obligations.EveryCommandChangesItsOwnComponentsAlone : Prop :=
  (∀ (i : Instr) (s : State), ∃ t, exec i s = .next t ∧ ∀ c, c ∉ changes i → sameAt c s t) ∧
  (∀ i : Instr, Component.part ∉ changes i ∧ Component.pending ∉ changes i) ∧
  (∀ s : State, ∃ t, step s = .next t ∧ t.pending = s.pending.tail ∧
    (s.pending = [] → ∀ c, c ∉ [Component.hdrs, .tb, .recorder, .free] → sameAt c s t))
end

