-- ==== Sys2Proof/Laws/Memory.lean ====
section
/-! SUPPORT. The laws of the sparse memories: the canonical form is kept by every operation, and what a read gives after a write. -/
namespace Sys2Proof.Machine

/-- Every address listed lies above `a`. -/
def memAbove (a : Nat) (m : Memory) : Prop := ∀ c ∈ m, a < c.1

/-- The canonical form of a longer list: its head is below the rest, no byte is 0. -/
theorem memWf_cons (k : Nat) (b : Byte) (m : Memory) : memWf ((k, b) :: m) = true ↔ b ≠ 0 ∧ memAbove k m ∧ memWf m = true := by
  induction m generalizing k b with
  | nil => simp [memWf, memAbove]
  | cons c r ih =>
    obtain ⟨k', b'⟩ := c
    have h := ih k' b'
    simp only [memWf, Bool.and_eq_true, bne_iff_ne, decide_eq_true_eq, h, memAbove, List.mem_cons, forall_eq_or_imp]
    constructor
    · rintro ⟨⟨hb, hk⟩, hb', ha, hw⟩
      exact ⟨hb, ⟨hk, fun c hc => Nat.lt_trans hk (ha c hc)⟩, hb', ha, hw⟩
    · rintro ⟨hb, ⟨hk, _⟩, hb', ha, hw⟩
      exact ⟨⟨hb, hk⟩, hb', ha, hw⟩

theorem memAbove_cons {x k : Nat} {b : Byte} {m : Memory} : memAbove x ((k, b) :: m) ↔ x < k ∧ memAbove x m := by
  simp only [memAbove, List.mem_cons, forall_eq_or_imp]

theorem memAbove_put {x a : Nat} {b : Byte} {m : Memory} (hx : x < a) (h : memAbove x m) : memAbove x (memPut m a b) := by
  induction m with
  | nil => unfold memPut; split <;> simp [memAbove, hx]
  | cons c r ih =>
    obtain ⟨k, d⟩ := c
    rw [memAbove_cons] at h
    unfold memPut
    split
    · split
      · exact memAbove_cons.2 h
      · exact memAbove_cons.2 ⟨hx, memAbove_cons.2 h⟩
    · split
      · split
        · exact h.2
        · exact memAbove_cons.2 ⟨hx, h.2⟩
      · exact memAbove_cons.2 ⟨h.1, ih h.2⟩

/-- Storing a byte keeps the canonical form. -/
theorem memWf_put {m : Memory} (a : Nat) (b : Byte) (h : memWf m = true) : memWf (memPut m a b) = true := by
  induction m with
  | nil => unfold memPut; split <;> simp_all [memWf]
  | cons c r ih =>
    obtain ⟨k, d⟩ := c
    have hc := (memWf_cons k d r).1 h
    unfold memPut
    split
    · split
      · exact h
      · rename_i hak hb
        refine (memWf_cons _ _ _).2 ⟨hb, ?_, h⟩
        simp only [memAbove, List.mem_cons, forall_eq_or_imp]
        exact ⟨hak, fun c hc' => Nat.lt_trans hak (hc.2.1 c hc')⟩
    · split
      · split
        · exact hc.2.2
        · rename_i hb
          subst_vars
          exact (memWf_cons _ _ _).2 ⟨hb, hc.2.1, hc.2.2⟩
      · exact (memWf_cons _ _ _).2 ⟨hc.1, memAbove_put (by omega) hc.2.1, ih hc.2.2⟩

/-- Storing bytes keeps the canonical form. -/
theorem memWf_write {m : Memory} (a : Nat) (bs : List Byte) (h : memWf m = true) : memWf (memWrite m a bs) = true := by
  induction bs generalizing m a with
  | nil => exact h
  | cons b r ih => exact ih _ (memWf_put a b h)

theorem memWf_filter {m : Memory} (p : Nat × Byte → Bool) (h : memWf m = true) : memWf (m.filter p) = true := by
  induction m with
  | nil => rfl
  | cons c r ih =>
    obtain ⟨k, d⟩ := c
    have hc := (memWf_cons k d r).1 h
    rw [List.filter_cons]
    split
    · exact (memWf_cons _ _ _).2 ⟨hc.1, fun c hm => hc.2.1 c (List.mem_filter.1 hm).1, ih hc.2.2⟩
    · exact ih hc.2.2

/-- Clearing a span keeps the canonical form. -/
theorem memWf_clear {m : Memory} (a n : Nat) (h : memWf m = true) : memWf (memClear m a n) = true := memWf_filter _ h

theorem memGet_above {m : Memory} {x a : Nat} (h : memAbove x m) (ha : a ≤ x) : memGet m a = 0 := by
  cases m with
  | nil => rfl
  | cons c r =>
    obtain ⟨k, d⟩ := c
    have hk : x < k := h (k, d) (by simp)
    unfold memGet
    rw [if_pos (by omega)]

/-- A byte stored reads back, and every other byte reads as before. -/
theorem memGet_put {m : Memory} (a x : Nat) (b : Byte) (h : memWf m = true) :
    memGet (memPut m a b) x = if x = a then b else memGet m x := by
  induction m with
  | nil =>
    unfold memPut
    split
    · simp_all [memGet]
    · unfold memGet; simp only [memGet]; grind
  | cons c r ih =>
    obtain ⟨k, d⟩ := c
    have hc := (memWf_cons k d r).1 h
    have ih := ih hc.2.2
    have h0 : ∀ y, y ≤ k → memGet r y = 0 := fun y hy => memGet_above hc.2.1 hy
    unfold memPut
    split
    · split
      · unfold memGet; grind
      · unfold memGet; grind [memGet]
    · split
      · split
        · subst_vars; conv_rhs => unfold memGet
          grind
        · subst_vars; unfold memGet; grind
      · conv_lhs => unfold memGet
        conv_rhs => unfold memGet
        grind

/-- Bytes stored read back, and every other byte reads as before. -/
theorem memGet_write {m : Memory} (a x : Nat) (bs : List Byte) (h : memWf m = true) :
    memGet (memWrite m a bs) x = if a ≤ x ∧ x < a + bs.length then bs.getD (x - a) 0 else memGet m x := by
  induction bs generalizing m a with
  | nil => simp [memWrite]
  | cons b r ih =>
    rw [memWrite, ih _ (memWf_put a b h), memGet_put a x b h]
    by_cases hx : x = a
    · subst hx; simp
    · simp only [hx, if_false, List.length_cons]
      by_cases h1 : a + 1 ≤ x ∧ x < a + 1 + r.length
      · rw [if_pos h1, if_pos (by omega)]
        obtain ⟨k, hk⟩ : ∃ k, x - a = k + 1 := ⟨x - a - 1, by omega⟩
        have : x - (a + 1) = k := by omega
        simp [hk, this]
      · rw [if_neg h1, if_neg (by omega)]

theorem memGet_filter {m : Memory} (p : Nat → Bool) (x : Nat) (h : memWf m = true) :
    memGet (m.filter fun c => p c.1) x = if p x then memGet m x else 0 := by
  induction m with
  | nil => simp [memGet]
  | cons c r ih =>
    obtain ⟨k, d⟩ := c
    have hc := (memWf_cons k d r).1 h
    have ih := ih hc.2.2
    have h0 : ∀ y, y ≤ k → memGet r y = 0 := fun y hy => memGet_above hc.2.1 hy
    rw [List.filter_cons]
    split
    · conv_lhs => unfold memGet
      conv_rhs => unfold memGet
      grind
    · rw [ih]
      conv_rhs => unfold memGet
      grind

/-- A cleared byte reads as 0, and every other byte reads as before. -/
theorem memGet_clear {m : Memory} (a n x : Nat) (h : memWf m = true) :
    memGet (memClear m a n) x = if a ≤ x ∧ x < a + n then 0 else memGet m x := by
  have := memGet_filter (m := m) (fun k => decide (k < a) || decide (a + n ≤ k)) x h
  unfold memClear
  rw [this]
  by_cases hx : a ≤ x ∧ x < a + n
  · rw [if_pos hx, if_neg (by simp; omega)]
  · rw [if_neg hx, if_pos (by simp; omega)]

/-- Two memories in canonical form that read the same are the same. -/
theorem mem_ext {m n : Memory} (hm : memWf m = true) (hn : memWf n = true) (h : ∀ a, memGet m a = memGet n a) : m = n := by
  induction m generalizing n with
  | nil =>
    cases n with
    | nil => rfl
    | cons c r =>
      obtain ⟨k, d⟩ := c
      have hc := (memWf_cons k d r).1 hn
      have := h k
      simp [memGet] at this
      exact absurd this.symm hc.1
  | cons c r ih =>
    obtain ⟨k, d⟩ := c
    have hc := (memWf_cons k d r).1 hm
    cases n with
    | nil =>
      have := h k
      simp [memGet] at this
      exact absurd this hc.1
    | cons c' r' =>
      obtain ⟨k', d'⟩ := c'
      have hc' := (memWf_cons k' d' r').1 hn
      have h1 := h k
      have h2 := h k'
      have hr : ∀ y, y ≤ k → memGet r y = 0 := fun y hy => memGet_above hc.2.1 hy
      have hr' : ∀ y, y ≤ k' → memGet r' y = 0 := fun y hy => memGet_above hc'.2.1 hy
      simp only [memGet] at h1 h2
      have hk : k = k' := by
        rcases Nat.lt_trichotomy k k' with hlt | he | hgt
        · simp [hlt] at h1; exact absurd h1 hc.1
        · exact he
        · simp [hgt] at h2; exact absurd h2.symm hc'.1
      subst hk
      simp at h1
      subst h1
      congr 1
      apply ih hc.2.2 hc'.2.2
      intro a
      have := h a
      simp only [memGet] at this
      by_cases ha : a ≤ k
      · rw [hr a ha, hr' a ha]
      · simpa [show ¬ a < k by omega, show ¬ a = k by omega] using this

end Sys2Proof.Machine
end

