-- ==== Sys2Proof/Laws/State.lean ====
section
/-! SUPPORT. One lemma per field of the state and update operation: what the operation leaves, and what it makes of the field it is named
after. -/
namespace Sys2Proof.Machine

/-! `updCrest` -/

@[simp] theorem updCrest_part (c : Fin 6) (f : Crest → Crest) (s : State) : (updCrest c f s).part = s.part := rfl
@[simp] theorem updCrest_hdrs (c : Fin 6) (f : Crest → Crest) (s : State) : (updCrest c f s).hdrs = s.hdrs := rfl
@[simp] theorem updCrest_latches (c : Fin 6) (f : Crest → Crest) (s : State) : (updCrest c f s).latches = s.latches := rfl
@[simp] theorem updCrest_heldLow (c : Fin 6) (f : Crest → Crest) (s : State) : (updCrest c f s).heldLow = s.heldLow := rfl
@[simp] theorem updCrest_tb (c : Fin 6) (f : Crest → Crest) (s : State) : (updCrest c f s).tb = s.tb := rfl
@[simp] theorem updCrest_hub (c : Fin 6) (f : Crest → Crest) (s : State) : (updCrest c f s).hub = s.hub := rfl
@[simp] theorem updCrest_flitFails (c : Fin 6) (f : Crest → Crest) (s : State) : (updCrest c f s).flitFails = s.flitFails := rfl
@[simp] theorem updCrest_packets (c : Fin 6) (f : Crest → Crest) (s : State) : (updCrest c f s).packets = s.packets := rfl
@[simp] theorem updCrest_nextPacket (c : Fin 6) (f : Crest → Crest) (s : State) : (updCrest c f s).nextPacket = s.nextPacket := rfl
@[simp] theorem updCrest_opened (c : Fin 6) (f : Crest → Crest) (s : State) : (updCrest c f s).opened = s.opened := rfl
@[simp] theorem updCrest_pool (c : Fin 6) (f : Crest → Crest) (s : State) : (updCrest c f s).pool = s.pool := rfl
@[simp] theorem updCrest_sram (c : Fin 6) (f : Crest → Crest) (s : State) : (updCrest c f s).sram = s.sram := rfl
@[simp] theorem updCrest_staged (c : Fin 6) (f : Crest → Crest) (s : State) : (updCrest c f s).staged = s.staged := rfl
@[simp] theorem updCrest_sched (c : Fin 6) (f : Crest → Crest) (s : State) : (updCrest c f s).sched = s.sched := rfl
@[simp] theorem updCrest_run (c : Fin 6) (f : Crest → Crest) (s : State) : (updCrest c f s).run = s.run := rfl
@[simp] theorem updCrest_trio (c : Fin 6) (f : Crest → Crest) (s : State) : (updCrest c f s).trio = s.trio := rfl
@[simp] theorem updCrest_safety (c : Fin 6) (f : Crest → Crest) (s : State) : (updCrest c f s).safety = s.safety := rfl
@[simp] theorem updCrest_field (c : Fin 6) (f : Crest → Crest) (s : State) : (updCrest c f s).field = s.field := rfl
@[simp] theorem updCrest_panel (c : Fin 6) (f : Crest → Crest) (s : State) : (updCrest c f s).panel = s.panel := rfl
@[simp] theorem updCrest_ports (c : Fin 6) (f : Crest → Crest) (s : State) : (updCrest c f s).ports = s.ports := rfl
@[simp] theorem updCrest_cans (c : Fin 6) (f : Crest → Crest) (s : State) : (updCrest c f s).cans = s.cans := rfl
@[simp] theorem updCrest_uarts (c : Fin 6) (f : Crest → Crest) (s : State) : (updCrest c f s).uarts = s.uarts := rfl
@[simp] theorem updCrest_super (c : Fin 6) (f : Crest → Crest) (s : State) : (updCrest c f s).super = s.super := rfl
@[simp] theorem updCrest_mail (c : Fin 6) (f : Crest → Crest) (s : State) : (updCrest c f s).mail = s.mail := rfl
@[simp] theorem updCrest_host (c : Fin 6) (f : Crest → Crest) (s : State) : (updCrest c f s).host = s.host := rfl
@[simp] theorem updCrest_recorder (c : Fin 6) (f : Crest → Crest) (s : State) : (updCrest c f s).recorder = s.recorder := rfl
@[simp] theorem updCrest_historian (c : Fin 6) (f : Crest → Crest) (s : State) : (updCrest c f s).historian = s.historian := rfl
@[simp] theorem updCrest_otp (c : Fin 6) (f : Crest → Crest) (s : State) : (updCrest c f s).otp = s.otp := rfl
@[simp] theorem updCrest_store (c : Fin 6) (f : Crest → Crest) (s : State) : (updCrest c f s).store = s.store := rfl
@[simp] theorem updCrest_flash (c : Fin 6) (f : Crest → Crest) (s : State) : (updCrest c f s).flash = s.flash := rfl
@[simp] theorem updCrest_sec (c : Fin 6) (f : Crest → Crest) (s : State) : (updCrest c f s).sec = s.sec := rfl
@[simp] theorem updCrest_upd (c : Fin 6) (f : Crest → Crest) (s : State) : (updCrest c f s).upd = s.upd := rfl
@[simp] theorem updCrest_pwr (c : Fin 6) (f : Crest → Crest) (s : State) : (updCrest c f s).pwr = s.pwr := rfl
@[simp] theorem updCrest_forceInd (c : Fin 6) (f : Crest → Crest) (s : State) : (updCrest c f s).forceInd = s.forceInd := rfl
@[simp] theorem updCrest_tapReset (c : Fin 6) (f : Crest → Crest) (s : State) : (updCrest c f s).tapReset = s.tapReset := rfl
@[simp] theorem updCrest_resp (c : Fin 6) (f : Crest → Crest) (s : State) : (updCrest c f s).resp = s.resp := rfl
@[simp] theorem updCrest_out (c : Fin 6) (f : Crest → Crest) (s : State) : (updCrest c f s).out = s.out := rfl
@[simp] theorem updCrest_free (c : Fin 6) (f : Crest → Crest) (s : State) : (updCrest c f s).free = s.free := rfl
@[simp] theorem updCrest_pending (c : Fin 6) (f : Crest → Crest) (s : State) : (updCrest c f s).pending = s.pending := rfl

/-! `updEngine` -/

@[simp] theorem updEngine_part (e : EngRef) (f : Engine → Engine) (s : State) : (updEngine e f s).part = s.part := rfl
@[simp] theorem updEngine_hdrs (e : EngRef) (f : Engine → Engine) (s : State) : (updEngine e f s).hdrs = s.hdrs := rfl
@[simp] theorem updEngine_latches (e : EngRef) (f : Engine → Engine) (s : State) : (updEngine e f s).latches = s.latches := rfl
@[simp] theorem updEngine_heldLow (e : EngRef) (f : Engine → Engine) (s : State) : (updEngine e f s).heldLow = s.heldLow := rfl
@[simp] theorem updEngine_tb (e : EngRef) (f : Engine → Engine) (s : State) : (updEngine e f s).tb = s.tb := rfl
@[simp] theorem updEngine_hub (e : EngRef) (f : Engine → Engine) (s : State) : (updEngine e f s).hub = s.hub := rfl
@[simp] theorem updEngine_flitFails (e : EngRef) (f : Engine → Engine) (s : State) : (updEngine e f s).flitFails = s.flitFails := rfl
@[simp] theorem updEngine_packets (e : EngRef) (f : Engine → Engine) (s : State) : (updEngine e f s).packets = s.packets := rfl
@[simp] theorem updEngine_nextPacket (e : EngRef) (f : Engine → Engine) (s : State) : (updEngine e f s).nextPacket = s.nextPacket := rfl
@[simp] theorem updEngine_opened (e : EngRef) (f : Engine → Engine) (s : State) : (updEngine e f s).opened = s.opened := rfl
@[simp] theorem updEngine_pool (e : EngRef) (f : Engine → Engine) (s : State) : (updEngine e f s).pool = s.pool := rfl
@[simp] theorem updEngine_sram (e : EngRef) (f : Engine → Engine) (s : State) : (updEngine e f s).sram = s.sram := rfl
@[simp] theorem updEngine_staged (e : EngRef) (f : Engine → Engine) (s : State) : (updEngine e f s).staged = s.staged := rfl
@[simp] theorem updEngine_sched (e : EngRef) (f : Engine → Engine) (s : State) : (updEngine e f s).sched = s.sched := rfl
@[simp] theorem updEngine_run (e : EngRef) (f : Engine → Engine) (s : State) : (updEngine e f s).run = s.run := rfl
@[simp] theorem updEngine_trio (e : EngRef) (f : Engine → Engine) (s : State) : (updEngine e f s).trio = s.trio := rfl
@[simp] theorem updEngine_safety (e : EngRef) (f : Engine → Engine) (s : State) : (updEngine e f s).safety = s.safety := rfl
@[simp] theorem updEngine_field (e : EngRef) (f : Engine → Engine) (s : State) : (updEngine e f s).field = s.field := rfl
@[simp] theorem updEngine_panel (e : EngRef) (f : Engine → Engine) (s : State) : (updEngine e f s).panel = s.panel := rfl
@[simp] theorem updEngine_ports (e : EngRef) (f : Engine → Engine) (s : State) : (updEngine e f s).ports = s.ports := rfl
@[simp] theorem updEngine_cans (e : EngRef) (f : Engine → Engine) (s : State) : (updEngine e f s).cans = s.cans := rfl
@[simp] theorem updEngine_uarts (e : EngRef) (f : Engine → Engine) (s : State) : (updEngine e f s).uarts = s.uarts := rfl
@[simp] theorem updEngine_super (e : EngRef) (f : Engine → Engine) (s : State) : (updEngine e f s).super = s.super := rfl
@[simp] theorem updEngine_mail (e : EngRef) (f : Engine → Engine) (s : State) : (updEngine e f s).mail = s.mail := rfl
@[simp] theorem updEngine_host (e : EngRef) (f : Engine → Engine) (s : State) : (updEngine e f s).host = s.host := rfl
@[simp] theorem updEngine_recorder (e : EngRef) (f : Engine → Engine) (s : State) : (updEngine e f s).recorder = s.recorder := rfl
@[simp] theorem updEngine_historian (e : EngRef) (f : Engine → Engine) (s : State) : (updEngine e f s).historian = s.historian := rfl
@[simp] theorem updEngine_otp (e : EngRef) (f : Engine → Engine) (s : State) : (updEngine e f s).otp = s.otp := rfl
@[simp] theorem updEngine_store (e : EngRef) (f : Engine → Engine) (s : State) : (updEngine e f s).store = s.store := rfl
@[simp] theorem updEngine_flash (e : EngRef) (f : Engine → Engine) (s : State) : (updEngine e f s).flash = s.flash := rfl
@[simp] theorem updEngine_sec (e : EngRef) (f : Engine → Engine) (s : State) : (updEngine e f s).sec = s.sec := rfl
@[simp] theorem updEngine_upd (e : EngRef) (f : Engine → Engine) (s : State) : (updEngine e f s).upd = s.upd := rfl
@[simp] theorem updEngine_pwr (e : EngRef) (f : Engine → Engine) (s : State) : (updEngine e f s).pwr = s.pwr := rfl
@[simp] theorem updEngine_forceInd (e : EngRef) (f : Engine → Engine) (s : State) : (updEngine e f s).forceInd = s.forceInd := rfl
@[simp] theorem updEngine_tapReset (e : EngRef) (f : Engine → Engine) (s : State) : (updEngine e f s).tapReset = s.tapReset := rfl
@[simp] theorem updEngine_resp (e : EngRef) (f : Engine → Engine) (s : State) : (updEngine e f s).resp = s.resp := rfl
@[simp] theorem updEngine_out (e : EngRef) (f : Engine → Engine) (s : State) : (updEngine e f s).out = s.out := rfl
@[simp] theorem updEngine_free (e : EngRef) (f : Engine → Engine) (s : State) : (updEngine e f s).free = s.free := rfl
@[simp] theorem updEngine_pending (e : EngRef) (f : Engine → Engine) (s : State) : (updEngine e f s).pending = s.pending := rfl

/-! `updLoop` -/

@[simp] theorem updLoop_part (c : Fin 6) (f : LoopArray → LoopArray) (s : State) : (updLoop c f s).part = s.part := rfl
@[simp] theorem updLoop_hdrs (c : Fin 6) (f : LoopArray → LoopArray) (s : State) : (updLoop c f s).hdrs = s.hdrs := rfl
@[simp] theorem updLoop_latches (c : Fin 6) (f : LoopArray → LoopArray) (s : State) : (updLoop c f s).latches = s.latches := rfl
@[simp] theorem updLoop_heldLow (c : Fin 6) (f : LoopArray → LoopArray) (s : State) : (updLoop c f s).heldLow = s.heldLow := rfl
@[simp] theorem updLoop_tb (c : Fin 6) (f : LoopArray → LoopArray) (s : State) : (updLoop c f s).tb = s.tb := rfl
@[simp] theorem updLoop_hub (c : Fin 6) (f : LoopArray → LoopArray) (s : State) : (updLoop c f s).hub = s.hub := rfl
@[simp] theorem updLoop_flitFails (c : Fin 6) (f : LoopArray → LoopArray) (s : State) : (updLoop c f s).flitFails = s.flitFails := rfl
@[simp] theorem updLoop_packets (c : Fin 6) (f : LoopArray → LoopArray) (s : State) : (updLoop c f s).packets = s.packets := rfl
@[simp] theorem updLoop_nextPacket (c : Fin 6) (f : LoopArray → LoopArray) (s : State) : (updLoop c f s).nextPacket = s.nextPacket := rfl
@[simp] theorem updLoop_opened (c : Fin 6) (f : LoopArray → LoopArray) (s : State) : (updLoop c f s).opened = s.opened := rfl
@[simp] theorem updLoop_pool (c : Fin 6) (f : LoopArray → LoopArray) (s : State) : (updLoop c f s).pool = s.pool := rfl
@[simp] theorem updLoop_sram (c : Fin 6) (f : LoopArray → LoopArray) (s : State) : (updLoop c f s).sram = s.sram := rfl
@[simp] theorem updLoop_staged (c : Fin 6) (f : LoopArray → LoopArray) (s : State) : (updLoop c f s).staged = s.staged := rfl
@[simp] theorem updLoop_sched (c : Fin 6) (f : LoopArray → LoopArray) (s : State) : (updLoop c f s).sched = s.sched := rfl
@[simp] theorem updLoop_run (c : Fin 6) (f : LoopArray → LoopArray) (s : State) : (updLoop c f s).run = s.run := rfl
@[simp] theorem updLoop_trio (c : Fin 6) (f : LoopArray → LoopArray) (s : State) : (updLoop c f s).trio = s.trio := rfl
@[simp] theorem updLoop_safety (c : Fin 6) (f : LoopArray → LoopArray) (s : State) : (updLoop c f s).safety = s.safety := rfl
@[simp] theorem updLoop_field (c : Fin 6) (f : LoopArray → LoopArray) (s : State) : (updLoop c f s).field = s.field := rfl
@[simp] theorem updLoop_panel (c : Fin 6) (f : LoopArray → LoopArray) (s : State) : (updLoop c f s).panel = s.panel := rfl
@[simp] theorem updLoop_ports (c : Fin 6) (f : LoopArray → LoopArray) (s : State) : (updLoop c f s).ports = s.ports := rfl
@[simp] theorem updLoop_cans (c : Fin 6) (f : LoopArray → LoopArray) (s : State) : (updLoop c f s).cans = s.cans := rfl
@[simp] theorem updLoop_uarts (c : Fin 6) (f : LoopArray → LoopArray) (s : State) : (updLoop c f s).uarts = s.uarts := rfl
@[simp] theorem updLoop_super (c : Fin 6) (f : LoopArray → LoopArray) (s : State) : (updLoop c f s).super = s.super := rfl
@[simp] theorem updLoop_mail (c : Fin 6) (f : LoopArray → LoopArray) (s : State) : (updLoop c f s).mail = s.mail := rfl
@[simp] theorem updLoop_host (c : Fin 6) (f : LoopArray → LoopArray) (s : State) : (updLoop c f s).host = s.host := rfl
@[simp] theorem updLoop_recorder (c : Fin 6) (f : LoopArray → LoopArray) (s : State) : (updLoop c f s).recorder = s.recorder := rfl
@[simp] theorem updLoop_historian (c : Fin 6) (f : LoopArray → LoopArray) (s : State) : (updLoop c f s).historian = s.historian := rfl
@[simp] theorem updLoop_otp (c : Fin 6) (f : LoopArray → LoopArray) (s : State) : (updLoop c f s).otp = s.otp := rfl
@[simp] theorem updLoop_store (c : Fin 6) (f : LoopArray → LoopArray) (s : State) : (updLoop c f s).store = s.store := rfl
@[simp] theorem updLoop_flash (c : Fin 6) (f : LoopArray → LoopArray) (s : State) : (updLoop c f s).flash = s.flash := rfl
@[simp] theorem updLoop_sec (c : Fin 6) (f : LoopArray → LoopArray) (s : State) : (updLoop c f s).sec = s.sec := rfl
@[simp] theorem updLoop_upd (c : Fin 6) (f : LoopArray → LoopArray) (s : State) : (updLoop c f s).upd = s.upd := rfl
@[simp] theorem updLoop_pwr (c : Fin 6) (f : LoopArray → LoopArray) (s : State) : (updLoop c f s).pwr = s.pwr := rfl
@[simp] theorem updLoop_forceInd (c : Fin 6) (f : LoopArray → LoopArray) (s : State) : (updLoop c f s).forceInd = s.forceInd := rfl
@[simp] theorem updLoop_tapReset (c : Fin 6) (f : LoopArray → LoopArray) (s : State) : (updLoop c f s).tapReset = s.tapReset := rfl
@[simp] theorem updLoop_resp (c : Fin 6) (f : LoopArray → LoopArray) (s : State) : (updLoop c f s).resp = s.resp := rfl
@[simp] theorem updLoop_out (c : Fin 6) (f : LoopArray → LoopArray) (s : State) : (updLoop c f s).out = s.out := rfl
@[simp] theorem updLoop_free (c : Fin 6) (f : LoopArray → LoopArray) (s : State) : (updLoop c f s).free = s.free := rfl
@[simp] theorem updLoop_pending (c : Fin 6) (f : LoopArray → LoopArray) (s : State) : (updLoop c f s).pending = s.pending := rfl

/-! `updPort` -/

@[simp] theorem updPort_part (p : Fin 10) (f : EthPort → EthPort) (s : State) : (updPort p f s).part = s.part := rfl
@[simp] theorem updPort_hdrs (p : Fin 10) (f : EthPort → EthPort) (s : State) : (updPort p f s).hdrs = s.hdrs := rfl
@[simp] theorem updPort_latches (p : Fin 10) (f : EthPort → EthPort) (s : State) : (updPort p f s).latches = s.latches := rfl
@[simp] theorem updPort_heldLow (p : Fin 10) (f : EthPort → EthPort) (s : State) : (updPort p f s).heldLow = s.heldLow := rfl
@[simp] theorem updPort_tb (p : Fin 10) (f : EthPort → EthPort) (s : State) : (updPort p f s).tb = s.tb := rfl
@[simp] theorem updPort_crests (p : Fin 10) (f : EthPort → EthPort) (s : State) : (updPort p f s).crests = s.crests := rfl
@[simp] theorem updPort_hub (p : Fin 10) (f : EthPort → EthPort) (s : State) : (updPort p f s).hub = s.hub := rfl
@[simp] theorem updPort_flitFails (p : Fin 10) (f : EthPort → EthPort) (s : State) : (updPort p f s).flitFails = s.flitFails := rfl
@[simp] theorem updPort_packets (p : Fin 10) (f : EthPort → EthPort) (s : State) : (updPort p f s).packets = s.packets := rfl
@[simp] theorem updPort_nextPacket (p : Fin 10) (f : EthPort → EthPort) (s : State) : (updPort p f s).nextPacket = s.nextPacket := rfl
@[simp] theorem updPort_opened (p : Fin 10) (f : EthPort → EthPort) (s : State) : (updPort p f s).opened = s.opened := rfl
@[simp] theorem updPort_pool (p : Fin 10) (f : EthPort → EthPort) (s : State) : (updPort p f s).pool = s.pool := rfl
@[simp] theorem updPort_sram (p : Fin 10) (f : EthPort → EthPort) (s : State) : (updPort p f s).sram = s.sram := rfl
@[simp] theorem updPort_staged (p : Fin 10) (f : EthPort → EthPort) (s : State) : (updPort p f s).staged = s.staged := rfl
@[simp] theorem updPort_sched (p : Fin 10) (f : EthPort → EthPort) (s : State) : (updPort p f s).sched = s.sched := rfl
@[simp] theorem updPort_run (p : Fin 10) (f : EthPort → EthPort) (s : State) : (updPort p f s).run = s.run := rfl
@[simp] theorem updPort_trio (p : Fin 10) (f : EthPort → EthPort) (s : State) : (updPort p f s).trio = s.trio := rfl
@[simp] theorem updPort_safety (p : Fin 10) (f : EthPort → EthPort) (s : State) : (updPort p f s).safety = s.safety := rfl
@[simp] theorem updPort_field (p : Fin 10) (f : EthPort → EthPort) (s : State) : (updPort p f s).field = s.field := rfl
@[simp] theorem updPort_panel (p : Fin 10) (f : EthPort → EthPort) (s : State) : (updPort p f s).panel = s.panel := rfl
@[simp] theorem updPort_cans (p : Fin 10) (f : EthPort → EthPort) (s : State) : (updPort p f s).cans = s.cans := rfl
@[simp] theorem updPort_uarts (p : Fin 10) (f : EthPort → EthPort) (s : State) : (updPort p f s).uarts = s.uarts := rfl
@[simp] theorem updPort_super (p : Fin 10) (f : EthPort → EthPort) (s : State) : (updPort p f s).super = s.super := rfl
@[simp] theorem updPort_mail (p : Fin 10) (f : EthPort → EthPort) (s : State) : (updPort p f s).mail = s.mail := rfl
@[simp] theorem updPort_host (p : Fin 10) (f : EthPort → EthPort) (s : State) : (updPort p f s).host = s.host := rfl
@[simp] theorem updPort_recorder (p : Fin 10) (f : EthPort → EthPort) (s : State) : (updPort p f s).recorder = s.recorder := rfl
@[simp] theorem updPort_historian (p : Fin 10) (f : EthPort → EthPort) (s : State) : (updPort p f s).historian = s.historian := rfl
@[simp] theorem updPort_otp (p : Fin 10) (f : EthPort → EthPort) (s : State) : (updPort p f s).otp = s.otp := rfl
@[simp] theorem updPort_store (p : Fin 10) (f : EthPort → EthPort) (s : State) : (updPort p f s).store = s.store := rfl
@[simp] theorem updPort_flash (p : Fin 10) (f : EthPort → EthPort) (s : State) : (updPort p f s).flash = s.flash := rfl
@[simp] theorem updPort_sec (p : Fin 10) (f : EthPort → EthPort) (s : State) : (updPort p f s).sec = s.sec := rfl
@[simp] theorem updPort_upd (p : Fin 10) (f : EthPort → EthPort) (s : State) : (updPort p f s).upd = s.upd := rfl
@[simp] theorem updPort_pwr (p : Fin 10) (f : EthPort → EthPort) (s : State) : (updPort p f s).pwr = s.pwr := rfl
@[simp] theorem updPort_forceInd (p : Fin 10) (f : EthPort → EthPort) (s : State) : (updPort p f s).forceInd = s.forceInd := rfl
@[simp] theorem updPort_tapReset (p : Fin 10) (f : EthPort → EthPort) (s : State) : (updPort p f s).tapReset = s.tapReset := rfl
@[simp] theorem updPort_resp (p : Fin 10) (f : EthPort → EthPort) (s : State) : (updPort p f s).resp = s.resp := rfl
@[simp] theorem updPort_out (p : Fin 10) (f : EthPort → EthPort) (s : State) : (updPort p f s).out = s.out := rfl
@[simp] theorem updPort_free (p : Fin 10) (f : EthPort → EthPort) (s : State) : (updPort p f s).free = s.free := rfl
@[simp] theorem updPort_pending (p : Fin 10) (f : EthPort → EthPort) (s : State) : (updPort p f s).pending = s.pending := rfl

/-! `updCan` -/

@[simp] theorem updCan_part (c : Fin 16) (f : Can → Can) (s : State) : (updCan c f s).part = s.part := rfl
@[simp] theorem updCan_hdrs (c : Fin 16) (f : Can → Can) (s : State) : (updCan c f s).hdrs = s.hdrs := rfl
@[simp] theorem updCan_latches (c : Fin 16) (f : Can → Can) (s : State) : (updCan c f s).latches = s.latches := rfl
@[simp] theorem updCan_heldLow (c : Fin 16) (f : Can → Can) (s : State) : (updCan c f s).heldLow = s.heldLow := rfl
@[simp] theorem updCan_tb (c : Fin 16) (f : Can → Can) (s : State) : (updCan c f s).tb = s.tb := rfl
@[simp] theorem updCan_crests (c : Fin 16) (f : Can → Can) (s : State) : (updCan c f s).crests = s.crests := rfl
@[simp] theorem updCan_hub (c : Fin 16) (f : Can → Can) (s : State) : (updCan c f s).hub = s.hub := rfl
@[simp] theorem updCan_flitFails (c : Fin 16) (f : Can → Can) (s : State) : (updCan c f s).flitFails = s.flitFails := rfl
@[simp] theorem updCan_packets (c : Fin 16) (f : Can → Can) (s : State) : (updCan c f s).packets = s.packets := rfl
@[simp] theorem updCan_nextPacket (c : Fin 16) (f : Can → Can) (s : State) : (updCan c f s).nextPacket = s.nextPacket := rfl
@[simp] theorem updCan_opened (c : Fin 16) (f : Can → Can) (s : State) : (updCan c f s).opened = s.opened := rfl
@[simp] theorem updCan_pool (c : Fin 16) (f : Can → Can) (s : State) : (updCan c f s).pool = s.pool := rfl
@[simp] theorem updCan_sram (c : Fin 16) (f : Can → Can) (s : State) : (updCan c f s).sram = s.sram := rfl
@[simp] theorem updCan_staged (c : Fin 16) (f : Can → Can) (s : State) : (updCan c f s).staged = s.staged := rfl
@[simp] theorem updCan_sched (c : Fin 16) (f : Can → Can) (s : State) : (updCan c f s).sched = s.sched := rfl
@[simp] theorem updCan_run (c : Fin 16) (f : Can → Can) (s : State) : (updCan c f s).run = s.run := rfl
@[simp] theorem updCan_trio (c : Fin 16) (f : Can → Can) (s : State) : (updCan c f s).trio = s.trio := rfl
@[simp] theorem updCan_safety (c : Fin 16) (f : Can → Can) (s : State) : (updCan c f s).safety = s.safety := rfl
@[simp] theorem updCan_field (c : Fin 16) (f : Can → Can) (s : State) : (updCan c f s).field = s.field := rfl
@[simp] theorem updCan_panel (c : Fin 16) (f : Can → Can) (s : State) : (updCan c f s).panel = s.panel := rfl
@[simp] theorem updCan_ports (c : Fin 16) (f : Can → Can) (s : State) : (updCan c f s).ports = s.ports := rfl
@[simp] theorem updCan_uarts (c : Fin 16) (f : Can → Can) (s : State) : (updCan c f s).uarts = s.uarts := rfl
@[simp] theorem updCan_super (c : Fin 16) (f : Can → Can) (s : State) : (updCan c f s).super = s.super := rfl
@[simp] theorem updCan_mail (c : Fin 16) (f : Can → Can) (s : State) : (updCan c f s).mail = s.mail := rfl
@[simp] theorem updCan_host (c : Fin 16) (f : Can → Can) (s : State) : (updCan c f s).host = s.host := rfl
@[simp] theorem updCan_recorder (c : Fin 16) (f : Can → Can) (s : State) : (updCan c f s).recorder = s.recorder := rfl
@[simp] theorem updCan_historian (c : Fin 16) (f : Can → Can) (s : State) : (updCan c f s).historian = s.historian := rfl
@[simp] theorem updCan_otp (c : Fin 16) (f : Can → Can) (s : State) : (updCan c f s).otp = s.otp := rfl
@[simp] theorem updCan_store (c : Fin 16) (f : Can → Can) (s : State) : (updCan c f s).store = s.store := rfl
@[simp] theorem updCan_flash (c : Fin 16) (f : Can → Can) (s : State) : (updCan c f s).flash = s.flash := rfl
@[simp] theorem updCan_sec (c : Fin 16) (f : Can → Can) (s : State) : (updCan c f s).sec = s.sec := rfl
@[simp] theorem updCan_upd (c : Fin 16) (f : Can → Can) (s : State) : (updCan c f s).upd = s.upd := rfl
@[simp] theorem updCan_pwr (c : Fin 16) (f : Can → Can) (s : State) : (updCan c f s).pwr = s.pwr := rfl
@[simp] theorem updCan_forceInd (c : Fin 16) (f : Can → Can) (s : State) : (updCan c f s).forceInd = s.forceInd := rfl
@[simp] theorem updCan_tapReset (c : Fin 16) (f : Can → Can) (s : State) : (updCan c f s).tapReset = s.tapReset := rfl
@[simp] theorem updCan_resp (c : Fin 16) (f : Can → Can) (s : State) : (updCan c f s).resp = s.resp := rfl
@[simp] theorem updCan_out (c : Fin 16) (f : Can → Can) (s : State) : (updCan c f s).out = s.out := rfl
@[simp] theorem updCan_free (c : Fin 16) (f : Can → Can) (s : State) : (updCan c f s).free = s.free := rfl
@[simp] theorem updCan_pending (c : Fin 16) (f : Can → Can) (s : State) : (updCan c f s).pending = s.pending := rfl

/-! `updUart` -/

@[simp] theorem updUart_part (u : Fin 8) (f : Uart → Uart) (s : State) : (updUart u f s).part = s.part := rfl
@[simp] theorem updUart_hdrs (u : Fin 8) (f : Uart → Uart) (s : State) : (updUart u f s).hdrs = s.hdrs := rfl
@[simp] theorem updUart_latches (u : Fin 8) (f : Uart → Uart) (s : State) : (updUart u f s).latches = s.latches := rfl
@[simp] theorem updUart_heldLow (u : Fin 8) (f : Uart → Uart) (s : State) : (updUart u f s).heldLow = s.heldLow := rfl
@[simp] theorem updUart_tb (u : Fin 8) (f : Uart → Uart) (s : State) : (updUart u f s).tb = s.tb := rfl
@[simp] theorem updUart_crests (u : Fin 8) (f : Uart → Uart) (s : State) : (updUart u f s).crests = s.crests := rfl
@[simp] theorem updUart_hub (u : Fin 8) (f : Uart → Uart) (s : State) : (updUart u f s).hub = s.hub := rfl
@[simp] theorem updUart_flitFails (u : Fin 8) (f : Uart → Uart) (s : State) : (updUart u f s).flitFails = s.flitFails := rfl
@[simp] theorem updUart_packets (u : Fin 8) (f : Uart → Uart) (s : State) : (updUart u f s).packets = s.packets := rfl
@[simp] theorem updUart_nextPacket (u : Fin 8) (f : Uart → Uart) (s : State) : (updUart u f s).nextPacket = s.nextPacket := rfl
@[simp] theorem updUart_opened (u : Fin 8) (f : Uart → Uart) (s : State) : (updUart u f s).opened = s.opened := rfl
@[simp] theorem updUart_pool (u : Fin 8) (f : Uart → Uart) (s : State) : (updUart u f s).pool = s.pool := rfl
@[simp] theorem updUart_sram (u : Fin 8) (f : Uart → Uart) (s : State) : (updUart u f s).sram = s.sram := rfl
@[simp] theorem updUart_staged (u : Fin 8) (f : Uart → Uart) (s : State) : (updUart u f s).staged = s.staged := rfl
@[simp] theorem updUart_sched (u : Fin 8) (f : Uart → Uart) (s : State) : (updUart u f s).sched = s.sched := rfl
@[simp] theorem updUart_run (u : Fin 8) (f : Uart → Uart) (s : State) : (updUart u f s).run = s.run := rfl
@[simp] theorem updUart_trio (u : Fin 8) (f : Uart → Uart) (s : State) : (updUart u f s).trio = s.trio := rfl
@[simp] theorem updUart_safety (u : Fin 8) (f : Uart → Uart) (s : State) : (updUart u f s).safety = s.safety := rfl
@[simp] theorem updUart_field (u : Fin 8) (f : Uart → Uart) (s : State) : (updUart u f s).field = s.field := rfl
@[simp] theorem updUart_panel (u : Fin 8) (f : Uart → Uart) (s : State) : (updUart u f s).panel = s.panel := rfl
@[simp] theorem updUart_ports (u : Fin 8) (f : Uart → Uart) (s : State) : (updUart u f s).ports = s.ports := rfl
@[simp] theorem updUart_cans (u : Fin 8) (f : Uart → Uart) (s : State) : (updUart u f s).cans = s.cans := rfl
@[simp] theorem updUart_super (u : Fin 8) (f : Uart → Uart) (s : State) : (updUart u f s).super = s.super := rfl
@[simp] theorem updUart_mail (u : Fin 8) (f : Uart → Uart) (s : State) : (updUart u f s).mail = s.mail := rfl
@[simp] theorem updUart_host (u : Fin 8) (f : Uart → Uart) (s : State) : (updUart u f s).host = s.host := rfl
@[simp] theorem updUart_recorder (u : Fin 8) (f : Uart → Uart) (s : State) : (updUart u f s).recorder = s.recorder := rfl
@[simp] theorem updUart_historian (u : Fin 8) (f : Uart → Uart) (s : State) : (updUart u f s).historian = s.historian := rfl
@[simp] theorem updUart_otp (u : Fin 8) (f : Uart → Uart) (s : State) : (updUart u f s).otp = s.otp := rfl
@[simp] theorem updUart_store (u : Fin 8) (f : Uart → Uart) (s : State) : (updUart u f s).store = s.store := rfl
@[simp] theorem updUart_flash (u : Fin 8) (f : Uart → Uart) (s : State) : (updUart u f s).flash = s.flash := rfl
@[simp] theorem updUart_sec (u : Fin 8) (f : Uart → Uart) (s : State) : (updUart u f s).sec = s.sec := rfl
@[simp] theorem updUart_upd (u : Fin 8) (f : Uart → Uart) (s : State) : (updUart u f s).upd = s.upd := rfl
@[simp] theorem updUart_pwr (u : Fin 8) (f : Uart → Uart) (s : State) : (updUart u f s).pwr = s.pwr := rfl
@[simp] theorem updUart_forceInd (u : Fin 8) (f : Uart → Uart) (s : State) : (updUart u f s).forceInd = s.forceInd := rfl
@[simp] theorem updUart_tapReset (u : Fin 8) (f : Uart → Uart) (s : State) : (updUart u f s).tapReset = s.tapReset := rfl
@[simp] theorem updUart_resp (u : Fin 8) (f : Uart → Uart) (s : State) : (updUart u f s).resp = s.resp := rfl
@[simp] theorem updUart_out (u : Fin 8) (f : Uart → Uart) (s : State) : (updUart u f s).out = s.out := rfl
@[simp] theorem updUart_free (u : Fin 8) (f : Uart → Uart) (s : State) : (updUart u f s).free = s.free := rfl
@[simp] theorem updUart_pending (u : Fin 8) (f : Uart → Uart) (s : State) : (updUart u f s).pending = s.pending := rfl

/-! `updHdr` -/

@[simp] theorem updHdr_part (pg : Page) (f : PageHdr → PageHdr) (s : State) : (updHdr pg f s).part = s.part := rfl
@[simp] theorem updHdr_latches (pg : Page) (f : PageHdr → PageHdr) (s : State) : (updHdr pg f s).latches = s.latches := rfl
@[simp] theorem updHdr_heldLow (pg : Page) (f : PageHdr → PageHdr) (s : State) : (updHdr pg f s).heldLow = s.heldLow := rfl
@[simp] theorem updHdr_tb (pg : Page) (f : PageHdr → PageHdr) (s : State) : (updHdr pg f s).tb = s.tb := rfl
@[simp] theorem updHdr_crests (pg : Page) (f : PageHdr → PageHdr) (s : State) : (updHdr pg f s).crests = s.crests := rfl
@[simp] theorem updHdr_hub (pg : Page) (f : PageHdr → PageHdr) (s : State) : (updHdr pg f s).hub = s.hub := rfl
@[simp] theorem updHdr_flitFails (pg : Page) (f : PageHdr → PageHdr) (s : State) : (updHdr pg f s).flitFails = s.flitFails := rfl
@[simp] theorem updHdr_packets (pg : Page) (f : PageHdr → PageHdr) (s : State) : (updHdr pg f s).packets = s.packets := rfl
@[simp] theorem updHdr_nextPacket (pg : Page) (f : PageHdr → PageHdr) (s : State) : (updHdr pg f s).nextPacket = s.nextPacket := rfl
@[simp] theorem updHdr_opened (pg : Page) (f : PageHdr → PageHdr) (s : State) : (updHdr pg f s).opened = s.opened := rfl
@[simp] theorem updHdr_pool (pg : Page) (f : PageHdr → PageHdr) (s : State) : (updHdr pg f s).pool = s.pool := rfl
@[simp] theorem updHdr_sram (pg : Page) (f : PageHdr → PageHdr) (s : State) : (updHdr pg f s).sram = s.sram := rfl
@[simp] theorem updHdr_staged (pg : Page) (f : PageHdr → PageHdr) (s : State) : (updHdr pg f s).staged = s.staged := rfl
@[simp] theorem updHdr_sched (pg : Page) (f : PageHdr → PageHdr) (s : State) : (updHdr pg f s).sched = s.sched := rfl
@[simp] theorem updHdr_run (pg : Page) (f : PageHdr → PageHdr) (s : State) : (updHdr pg f s).run = s.run := rfl
@[simp] theorem updHdr_trio (pg : Page) (f : PageHdr → PageHdr) (s : State) : (updHdr pg f s).trio = s.trio := rfl
@[simp] theorem updHdr_safety (pg : Page) (f : PageHdr → PageHdr) (s : State) : (updHdr pg f s).safety = s.safety := rfl
@[simp] theorem updHdr_field (pg : Page) (f : PageHdr → PageHdr) (s : State) : (updHdr pg f s).field = s.field := rfl
@[simp] theorem updHdr_panel (pg : Page) (f : PageHdr → PageHdr) (s : State) : (updHdr pg f s).panel = s.panel := rfl
@[simp] theorem updHdr_ports (pg : Page) (f : PageHdr → PageHdr) (s : State) : (updHdr pg f s).ports = s.ports := rfl
@[simp] theorem updHdr_cans (pg : Page) (f : PageHdr → PageHdr) (s : State) : (updHdr pg f s).cans = s.cans := rfl
@[simp] theorem updHdr_uarts (pg : Page) (f : PageHdr → PageHdr) (s : State) : (updHdr pg f s).uarts = s.uarts := rfl
@[simp] theorem updHdr_super (pg : Page) (f : PageHdr → PageHdr) (s : State) : (updHdr pg f s).super = s.super := rfl
@[simp] theorem updHdr_mail (pg : Page) (f : PageHdr → PageHdr) (s : State) : (updHdr pg f s).mail = s.mail := rfl
@[simp] theorem updHdr_host (pg : Page) (f : PageHdr → PageHdr) (s : State) : (updHdr pg f s).host = s.host := rfl
@[simp] theorem updHdr_recorder (pg : Page) (f : PageHdr → PageHdr) (s : State) : (updHdr pg f s).recorder = s.recorder := rfl
@[simp] theorem updHdr_historian (pg : Page) (f : PageHdr → PageHdr) (s : State) : (updHdr pg f s).historian = s.historian := rfl
@[simp] theorem updHdr_otp (pg : Page) (f : PageHdr → PageHdr) (s : State) : (updHdr pg f s).otp = s.otp := rfl
@[simp] theorem updHdr_store (pg : Page) (f : PageHdr → PageHdr) (s : State) : (updHdr pg f s).store = s.store := rfl
@[simp] theorem updHdr_flash (pg : Page) (f : PageHdr → PageHdr) (s : State) : (updHdr pg f s).flash = s.flash := rfl
@[simp] theorem updHdr_sec (pg : Page) (f : PageHdr → PageHdr) (s : State) : (updHdr pg f s).sec = s.sec := rfl
@[simp] theorem updHdr_upd (pg : Page) (f : PageHdr → PageHdr) (s : State) : (updHdr pg f s).upd = s.upd := rfl
@[simp] theorem updHdr_pwr (pg : Page) (f : PageHdr → PageHdr) (s : State) : (updHdr pg f s).pwr = s.pwr := rfl
@[simp] theorem updHdr_forceInd (pg : Page) (f : PageHdr → PageHdr) (s : State) : (updHdr pg f s).forceInd = s.forceInd := rfl
@[simp] theorem updHdr_tapReset (pg : Page) (f : PageHdr → PageHdr) (s : State) : (updHdr pg f s).tapReset = s.tapReset := rfl
@[simp] theorem updHdr_resp (pg : Page) (f : PageHdr → PageHdr) (s : State) : (updHdr pg f s).resp = s.resp := rfl
@[simp] theorem updHdr_out (pg : Page) (f : PageHdr → PageHdr) (s : State) : (updHdr pg f s).out = s.out := rfl
@[simp] theorem updHdr_free (pg : Page) (f : PageHdr → PageHdr) (s : State) : (updHdr pg f s).free = s.free := rfl
@[simp] theorem updHdr_pending (pg : Page) (f : PageHdr → PageHdr) (s : State) : (updHdr pg f s).pending = s.pending := rfl

/-! `updMail` -/

@[simp] theorem updMail_part (ch : Fin 32) (f : Mailbox → Mailbox) (s : State) : (updMail ch f s).part = s.part := rfl
@[simp] theorem updMail_hdrs (ch : Fin 32) (f : Mailbox → Mailbox) (s : State) : (updMail ch f s).hdrs = s.hdrs := rfl
@[simp] theorem updMail_latches (ch : Fin 32) (f : Mailbox → Mailbox) (s : State) : (updMail ch f s).latches = s.latches := rfl
@[simp] theorem updMail_heldLow (ch : Fin 32) (f : Mailbox → Mailbox) (s : State) : (updMail ch f s).heldLow = s.heldLow := rfl
@[simp] theorem updMail_tb (ch : Fin 32) (f : Mailbox → Mailbox) (s : State) : (updMail ch f s).tb = s.tb := rfl
@[simp] theorem updMail_crests (ch : Fin 32) (f : Mailbox → Mailbox) (s : State) : (updMail ch f s).crests = s.crests := rfl
@[simp] theorem updMail_hub (ch : Fin 32) (f : Mailbox → Mailbox) (s : State) : (updMail ch f s).hub = s.hub := rfl
@[simp] theorem updMail_flitFails (ch : Fin 32) (f : Mailbox → Mailbox) (s : State) : (updMail ch f s).flitFails = s.flitFails := rfl
@[simp] theorem updMail_packets (ch : Fin 32) (f : Mailbox → Mailbox) (s : State) : (updMail ch f s).packets = s.packets := rfl
@[simp] theorem updMail_nextPacket (ch : Fin 32) (f : Mailbox → Mailbox) (s : State) : (updMail ch f s).nextPacket = s.nextPacket := rfl
@[simp] theorem updMail_opened (ch : Fin 32) (f : Mailbox → Mailbox) (s : State) : (updMail ch f s).opened = s.opened := rfl
@[simp] theorem updMail_pool (ch : Fin 32) (f : Mailbox → Mailbox) (s : State) : (updMail ch f s).pool = s.pool := rfl
@[simp] theorem updMail_sram (ch : Fin 32) (f : Mailbox → Mailbox) (s : State) : (updMail ch f s).sram = s.sram := rfl
@[simp] theorem updMail_staged (ch : Fin 32) (f : Mailbox → Mailbox) (s : State) : (updMail ch f s).staged = s.staged := rfl
@[simp] theorem updMail_sched (ch : Fin 32) (f : Mailbox → Mailbox) (s : State) : (updMail ch f s).sched = s.sched := rfl
@[simp] theorem updMail_run (ch : Fin 32) (f : Mailbox → Mailbox) (s : State) : (updMail ch f s).run = s.run := rfl
@[simp] theorem updMail_trio (ch : Fin 32) (f : Mailbox → Mailbox) (s : State) : (updMail ch f s).trio = s.trio := rfl
@[simp] theorem updMail_safety (ch : Fin 32) (f : Mailbox → Mailbox) (s : State) : (updMail ch f s).safety = s.safety := rfl
@[simp] theorem updMail_field (ch : Fin 32) (f : Mailbox → Mailbox) (s : State) : (updMail ch f s).field = s.field := rfl
@[simp] theorem updMail_panel (ch : Fin 32) (f : Mailbox → Mailbox) (s : State) : (updMail ch f s).panel = s.panel := rfl
@[simp] theorem updMail_ports (ch : Fin 32) (f : Mailbox → Mailbox) (s : State) : (updMail ch f s).ports = s.ports := rfl
@[simp] theorem updMail_cans (ch : Fin 32) (f : Mailbox → Mailbox) (s : State) : (updMail ch f s).cans = s.cans := rfl
@[simp] theorem updMail_uarts (ch : Fin 32) (f : Mailbox → Mailbox) (s : State) : (updMail ch f s).uarts = s.uarts := rfl
@[simp] theorem updMail_super (ch : Fin 32) (f : Mailbox → Mailbox) (s : State) : (updMail ch f s).super = s.super := rfl
@[simp] theorem updMail_host (ch : Fin 32) (f : Mailbox → Mailbox) (s : State) : (updMail ch f s).host = s.host := rfl
@[simp] theorem updMail_recorder (ch : Fin 32) (f : Mailbox → Mailbox) (s : State) : (updMail ch f s).recorder = s.recorder := rfl
@[simp] theorem updMail_historian (ch : Fin 32) (f : Mailbox → Mailbox) (s : State) : (updMail ch f s).historian = s.historian := rfl
@[simp] theorem updMail_otp (ch : Fin 32) (f : Mailbox → Mailbox) (s : State) : (updMail ch f s).otp = s.otp := rfl
@[simp] theorem updMail_store (ch : Fin 32) (f : Mailbox → Mailbox) (s : State) : (updMail ch f s).store = s.store := rfl
@[simp] theorem updMail_flash (ch : Fin 32) (f : Mailbox → Mailbox) (s : State) : (updMail ch f s).flash = s.flash := rfl
@[simp] theorem updMail_sec (ch : Fin 32) (f : Mailbox → Mailbox) (s : State) : (updMail ch f s).sec = s.sec := rfl
@[simp] theorem updMail_upd (ch : Fin 32) (f : Mailbox → Mailbox) (s : State) : (updMail ch f s).upd = s.upd := rfl
@[simp] theorem updMail_pwr (ch : Fin 32) (f : Mailbox → Mailbox) (s : State) : (updMail ch f s).pwr = s.pwr := rfl
@[simp] theorem updMail_forceInd (ch : Fin 32) (f : Mailbox → Mailbox) (s : State) : (updMail ch f s).forceInd = s.forceInd := rfl
@[simp] theorem updMail_tapReset (ch : Fin 32) (f : Mailbox → Mailbox) (s : State) : (updMail ch f s).tapReset = s.tapReset := rfl
@[simp] theorem updMail_resp (ch : Fin 32) (f : Mailbox → Mailbox) (s : State) : (updMail ch f s).resp = s.resp := rfl
@[simp] theorem updMail_out (ch : Fin 32) (f : Mailbox → Mailbox) (s : State) : (updMail ch f s).out = s.out := rfl
@[simp] theorem updMail_free (ch : Fin 32) (f : Mailbox → Mailbox) (s : State) : (updMail ch f s).free = s.free := rfl
@[simp] theorem updMail_pending (ch : Fin 32) (f : Mailbox → Mailbox) (s : State) : (updMail ch f s).pending = s.pending := rfl

/-! `updField` -/

@[simp] theorem updField_field (f : Field → Field) (s : State) : (updField f s).field = f s.field := rfl
@[simp] theorem updField_part (f : Field → Field) (s : State) : (updField f s).part = s.part := rfl
@[simp] theorem updField_hdrs (f : Field → Field) (s : State) : (updField f s).hdrs = s.hdrs := rfl
@[simp] theorem updField_latches (f : Field → Field) (s : State) : (updField f s).latches = s.latches := rfl
@[simp] theorem updField_heldLow (f : Field → Field) (s : State) : (updField f s).heldLow = s.heldLow := rfl
@[simp] theorem updField_tb (f : Field → Field) (s : State) : (updField f s).tb = s.tb := rfl
@[simp] theorem updField_crests (f : Field → Field) (s : State) : (updField f s).crests = s.crests := rfl
@[simp] theorem updField_hub (f : Field → Field) (s : State) : (updField f s).hub = s.hub := rfl
@[simp] theorem updField_flitFails (f : Field → Field) (s : State) : (updField f s).flitFails = s.flitFails := rfl
@[simp] theorem updField_packets (f : Field → Field) (s : State) : (updField f s).packets = s.packets := rfl
@[simp] theorem updField_nextPacket (f : Field → Field) (s : State) : (updField f s).nextPacket = s.nextPacket := rfl
@[simp] theorem updField_opened (f : Field → Field) (s : State) : (updField f s).opened = s.opened := rfl
@[simp] theorem updField_pool (f : Field → Field) (s : State) : (updField f s).pool = s.pool := rfl
@[simp] theorem updField_sram (f : Field → Field) (s : State) : (updField f s).sram = s.sram := rfl
@[simp] theorem updField_staged (f : Field → Field) (s : State) : (updField f s).staged = s.staged := rfl
@[simp] theorem updField_sched (f : Field → Field) (s : State) : (updField f s).sched = s.sched := rfl
@[simp] theorem updField_run (f : Field → Field) (s : State) : (updField f s).run = s.run := rfl
@[simp] theorem updField_trio (f : Field → Field) (s : State) : (updField f s).trio = s.trio := rfl
@[simp] theorem updField_safety (f : Field → Field) (s : State) : (updField f s).safety = s.safety := rfl
@[simp] theorem updField_panel (f : Field → Field) (s : State) : (updField f s).panel = s.panel := rfl
@[simp] theorem updField_ports (f : Field → Field) (s : State) : (updField f s).ports = s.ports := rfl
@[simp] theorem updField_cans (f : Field → Field) (s : State) : (updField f s).cans = s.cans := rfl
@[simp] theorem updField_uarts (f : Field → Field) (s : State) : (updField f s).uarts = s.uarts := rfl
@[simp] theorem updField_super (f : Field → Field) (s : State) : (updField f s).super = s.super := rfl
@[simp] theorem updField_mail (f : Field → Field) (s : State) : (updField f s).mail = s.mail := rfl
@[simp] theorem updField_host (f : Field → Field) (s : State) : (updField f s).host = s.host := rfl
@[simp] theorem updField_recorder (f : Field → Field) (s : State) : (updField f s).recorder = s.recorder := rfl
@[simp] theorem updField_historian (f : Field → Field) (s : State) : (updField f s).historian = s.historian := rfl
@[simp] theorem updField_otp (f : Field → Field) (s : State) : (updField f s).otp = s.otp := rfl
@[simp] theorem updField_store (f : Field → Field) (s : State) : (updField f s).store = s.store := rfl
@[simp] theorem updField_flash (f : Field → Field) (s : State) : (updField f s).flash = s.flash := rfl
@[simp] theorem updField_sec (f : Field → Field) (s : State) : (updField f s).sec = s.sec := rfl
@[simp] theorem updField_upd (f : Field → Field) (s : State) : (updField f s).upd = s.upd := rfl
@[simp] theorem updField_pwr (f : Field → Field) (s : State) : (updField f s).pwr = s.pwr := rfl
@[simp] theorem updField_forceInd (f : Field → Field) (s : State) : (updField f s).forceInd = s.forceInd := rfl
@[simp] theorem updField_tapReset (f : Field → Field) (s : State) : (updField f s).tapReset = s.tapReset := rfl
@[simp] theorem updField_resp (f : Field → Field) (s : State) : (updField f s).resp = s.resp := rfl
@[simp] theorem updField_out (f : Field → Field) (s : State) : (updField f s).out = s.out := rfl
@[simp] theorem updField_free (f : Field → Field) (s : State) : (updField f s).free = s.free := rfl
@[simp] theorem updField_pending (f : Field → Field) (s : State) : (updField f s).pending = s.pending := rfl

/-! `updPanel` -/

@[simp] theorem updPanel_panel (f : Panel → Panel) (s : State) : (updPanel f s).panel = f s.panel := rfl
@[simp] theorem updPanel_part (f : Panel → Panel) (s : State) : (updPanel f s).part = s.part := rfl
@[simp] theorem updPanel_hdrs (f : Panel → Panel) (s : State) : (updPanel f s).hdrs = s.hdrs := rfl
@[simp] theorem updPanel_latches (f : Panel → Panel) (s : State) : (updPanel f s).latches = s.latches := rfl
@[simp] theorem updPanel_heldLow (f : Panel → Panel) (s : State) : (updPanel f s).heldLow = s.heldLow := rfl
@[simp] theorem updPanel_tb (f : Panel → Panel) (s : State) : (updPanel f s).tb = s.tb := rfl
@[simp] theorem updPanel_crests (f : Panel → Panel) (s : State) : (updPanel f s).crests = s.crests := rfl
@[simp] theorem updPanel_hub (f : Panel → Panel) (s : State) : (updPanel f s).hub = s.hub := rfl
@[simp] theorem updPanel_flitFails (f : Panel → Panel) (s : State) : (updPanel f s).flitFails = s.flitFails := rfl
@[simp] theorem updPanel_packets (f : Panel → Panel) (s : State) : (updPanel f s).packets = s.packets := rfl
@[simp] theorem updPanel_nextPacket (f : Panel → Panel) (s : State) : (updPanel f s).nextPacket = s.nextPacket := rfl
@[simp] theorem updPanel_opened (f : Panel → Panel) (s : State) : (updPanel f s).opened = s.opened := rfl
@[simp] theorem updPanel_pool (f : Panel → Panel) (s : State) : (updPanel f s).pool = s.pool := rfl
@[simp] theorem updPanel_sram (f : Panel → Panel) (s : State) : (updPanel f s).sram = s.sram := rfl
@[simp] theorem updPanel_staged (f : Panel → Panel) (s : State) : (updPanel f s).staged = s.staged := rfl
@[simp] theorem updPanel_sched (f : Panel → Panel) (s : State) : (updPanel f s).sched = s.sched := rfl
@[simp] theorem updPanel_run (f : Panel → Panel) (s : State) : (updPanel f s).run = s.run := rfl
@[simp] theorem updPanel_trio (f : Panel → Panel) (s : State) : (updPanel f s).trio = s.trio := rfl
@[simp] theorem updPanel_safety (f : Panel → Panel) (s : State) : (updPanel f s).safety = s.safety := rfl
@[simp] theorem updPanel_field (f : Panel → Panel) (s : State) : (updPanel f s).field = s.field := rfl
@[simp] theorem updPanel_ports (f : Panel → Panel) (s : State) : (updPanel f s).ports = s.ports := rfl
@[simp] theorem updPanel_cans (f : Panel → Panel) (s : State) : (updPanel f s).cans = s.cans := rfl
@[simp] theorem updPanel_uarts (f : Panel → Panel) (s : State) : (updPanel f s).uarts = s.uarts := rfl
@[simp] theorem updPanel_super (f : Panel → Panel) (s : State) : (updPanel f s).super = s.super := rfl
@[simp] theorem updPanel_mail (f : Panel → Panel) (s : State) : (updPanel f s).mail = s.mail := rfl
@[simp] theorem updPanel_host (f : Panel → Panel) (s : State) : (updPanel f s).host = s.host := rfl
@[simp] theorem updPanel_recorder (f : Panel → Panel) (s : State) : (updPanel f s).recorder = s.recorder := rfl
@[simp] theorem updPanel_historian (f : Panel → Panel) (s : State) : (updPanel f s).historian = s.historian := rfl
@[simp] theorem updPanel_otp (f : Panel → Panel) (s : State) : (updPanel f s).otp = s.otp := rfl
@[simp] theorem updPanel_store (f : Panel → Panel) (s : State) : (updPanel f s).store = s.store := rfl
@[simp] theorem updPanel_flash (f : Panel → Panel) (s : State) : (updPanel f s).flash = s.flash := rfl
@[simp] theorem updPanel_sec (f : Panel → Panel) (s : State) : (updPanel f s).sec = s.sec := rfl
@[simp] theorem updPanel_upd (f : Panel → Panel) (s : State) : (updPanel f s).upd = s.upd := rfl
@[simp] theorem updPanel_pwr (f : Panel → Panel) (s : State) : (updPanel f s).pwr = s.pwr := rfl
@[simp] theorem updPanel_forceInd (f : Panel → Panel) (s : State) : (updPanel f s).forceInd = s.forceInd := rfl
@[simp] theorem updPanel_tapReset (f : Panel → Panel) (s : State) : (updPanel f s).tapReset = s.tapReset := rfl
@[simp] theorem updPanel_resp (f : Panel → Panel) (s : State) : (updPanel f s).resp = s.resp := rfl
@[simp] theorem updPanel_out (f : Panel → Panel) (s : State) : (updPanel f s).out = s.out := rfl
@[simp] theorem updPanel_free (f : Panel → Panel) (s : State) : (updPanel f s).free = s.free := rfl
@[simp] theorem updPanel_pending (f : Panel → Panel) (s : State) : (updPanel f s).pending = s.pending := rfl

/-! `updTrio` -/

@[simp] theorem updTrio_trio (f : Trio → Trio) (s : State) : (updTrio f s).trio = f s.trio := rfl
@[simp] theorem updTrio_part (f : Trio → Trio) (s : State) : (updTrio f s).part = s.part := rfl
@[simp] theorem updTrio_hdrs (f : Trio → Trio) (s : State) : (updTrio f s).hdrs = s.hdrs := rfl
@[simp] theorem updTrio_latches (f : Trio → Trio) (s : State) : (updTrio f s).latches = s.latches := rfl
@[simp] theorem updTrio_heldLow (f : Trio → Trio) (s : State) : (updTrio f s).heldLow = s.heldLow := rfl
@[simp] theorem updTrio_tb (f : Trio → Trio) (s : State) : (updTrio f s).tb = s.tb := rfl
@[simp] theorem updTrio_crests (f : Trio → Trio) (s : State) : (updTrio f s).crests = s.crests := rfl
@[simp] theorem updTrio_hub (f : Trio → Trio) (s : State) : (updTrio f s).hub = s.hub := rfl
@[simp] theorem updTrio_flitFails (f : Trio → Trio) (s : State) : (updTrio f s).flitFails = s.flitFails := rfl
@[simp] theorem updTrio_packets (f : Trio → Trio) (s : State) : (updTrio f s).packets = s.packets := rfl
@[simp] theorem updTrio_nextPacket (f : Trio → Trio) (s : State) : (updTrio f s).nextPacket = s.nextPacket := rfl
@[simp] theorem updTrio_opened (f : Trio → Trio) (s : State) : (updTrio f s).opened = s.opened := rfl
@[simp] theorem updTrio_pool (f : Trio → Trio) (s : State) : (updTrio f s).pool = s.pool := rfl
@[simp] theorem updTrio_sram (f : Trio → Trio) (s : State) : (updTrio f s).sram = s.sram := rfl
@[simp] theorem updTrio_staged (f : Trio → Trio) (s : State) : (updTrio f s).staged = s.staged := rfl
@[simp] theorem updTrio_sched (f : Trio → Trio) (s : State) : (updTrio f s).sched = s.sched := rfl
@[simp] theorem updTrio_run (f : Trio → Trio) (s : State) : (updTrio f s).run = s.run := rfl
@[simp] theorem updTrio_safety (f : Trio → Trio) (s : State) : (updTrio f s).safety = s.safety := rfl
@[simp] theorem updTrio_field (f : Trio → Trio) (s : State) : (updTrio f s).field = s.field := rfl
@[simp] theorem updTrio_panel (f : Trio → Trio) (s : State) : (updTrio f s).panel = s.panel := rfl
@[simp] theorem updTrio_ports (f : Trio → Trio) (s : State) : (updTrio f s).ports = s.ports := rfl
@[simp] theorem updTrio_cans (f : Trio → Trio) (s : State) : (updTrio f s).cans = s.cans := rfl
@[simp] theorem updTrio_uarts (f : Trio → Trio) (s : State) : (updTrio f s).uarts = s.uarts := rfl
@[simp] theorem updTrio_super (f : Trio → Trio) (s : State) : (updTrio f s).super = s.super := rfl
@[simp] theorem updTrio_mail (f : Trio → Trio) (s : State) : (updTrio f s).mail = s.mail := rfl
@[simp] theorem updTrio_host (f : Trio → Trio) (s : State) : (updTrio f s).host = s.host := rfl
@[simp] theorem updTrio_recorder (f : Trio → Trio) (s : State) : (updTrio f s).recorder = s.recorder := rfl
@[simp] theorem updTrio_historian (f : Trio → Trio) (s : State) : (updTrio f s).historian = s.historian := rfl
@[simp] theorem updTrio_otp (f : Trio → Trio) (s : State) : (updTrio f s).otp = s.otp := rfl
@[simp] theorem updTrio_store (f : Trio → Trio) (s : State) : (updTrio f s).store = s.store := rfl
@[simp] theorem updTrio_flash (f : Trio → Trio) (s : State) : (updTrio f s).flash = s.flash := rfl
@[simp] theorem updTrio_sec (f : Trio → Trio) (s : State) : (updTrio f s).sec = s.sec := rfl
@[simp] theorem updTrio_upd (f : Trio → Trio) (s : State) : (updTrio f s).upd = s.upd := rfl
@[simp] theorem updTrio_pwr (f : Trio → Trio) (s : State) : (updTrio f s).pwr = s.pwr := rfl
@[simp] theorem updTrio_forceInd (f : Trio → Trio) (s : State) : (updTrio f s).forceInd = s.forceInd := rfl
@[simp] theorem updTrio_tapReset (f : Trio → Trio) (s : State) : (updTrio f s).tapReset = s.tapReset := rfl
@[simp] theorem updTrio_resp (f : Trio → Trio) (s : State) : (updTrio f s).resp = s.resp := rfl
@[simp] theorem updTrio_out (f : Trio → Trio) (s : State) : (updTrio f s).out = s.out := rfl
@[simp] theorem updTrio_free (f : Trio → Trio) (s : State) : (updTrio f s).free = s.free := rfl
@[simp] theorem updTrio_pending (f : Trio → Trio) (s : State) : (updTrio f s).pending = s.pending := rfl

/-! `updRun` -/

@[simp] theorem updRun_run (f : RunCtl → RunCtl) (s : State) : (updRun f s).run = f s.run := rfl
@[simp] theorem updRun_part (f : RunCtl → RunCtl) (s : State) : (updRun f s).part = s.part := rfl
@[simp] theorem updRun_hdrs (f : RunCtl → RunCtl) (s : State) : (updRun f s).hdrs = s.hdrs := rfl
@[simp] theorem updRun_latches (f : RunCtl → RunCtl) (s : State) : (updRun f s).latches = s.latches := rfl
@[simp] theorem updRun_heldLow (f : RunCtl → RunCtl) (s : State) : (updRun f s).heldLow = s.heldLow := rfl
@[simp] theorem updRun_tb (f : RunCtl → RunCtl) (s : State) : (updRun f s).tb = s.tb := rfl
@[simp] theorem updRun_crests (f : RunCtl → RunCtl) (s : State) : (updRun f s).crests = s.crests := rfl
@[simp] theorem updRun_hub (f : RunCtl → RunCtl) (s : State) : (updRun f s).hub = s.hub := rfl
@[simp] theorem updRun_flitFails (f : RunCtl → RunCtl) (s : State) : (updRun f s).flitFails = s.flitFails := rfl
@[simp] theorem updRun_packets (f : RunCtl → RunCtl) (s : State) : (updRun f s).packets = s.packets := rfl
@[simp] theorem updRun_nextPacket (f : RunCtl → RunCtl) (s : State) : (updRun f s).nextPacket = s.nextPacket := rfl
@[simp] theorem updRun_opened (f : RunCtl → RunCtl) (s : State) : (updRun f s).opened = s.opened := rfl
@[simp] theorem updRun_pool (f : RunCtl → RunCtl) (s : State) : (updRun f s).pool = s.pool := rfl
@[simp] theorem updRun_sram (f : RunCtl → RunCtl) (s : State) : (updRun f s).sram = s.sram := rfl
@[simp] theorem updRun_staged (f : RunCtl → RunCtl) (s : State) : (updRun f s).staged = s.staged := rfl
@[simp] theorem updRun_sched (f : RunCtl → RunCtl) (s : State) : (updRun f s).sched = s.sched := rfl
@[simp] theorem updRun_trio (f : RunCtl → RunCtl) (s : State) : (updRun f s).trio = s.trio := rfl
@[simp] theorem updRun_safety (f : RunCtl → RunCtl) (s : State) : (updRun f s).safety = s.safety := rfl
@[simp] theorem updRun_field (f : RunCtl → RunCtl) (s : State) : (updRun f s).field = s.field := rfl
@[simp] theorem updRun_panel (f : RunCtl → RunCtl) (s : State) : (updRun f s).panel = s.panel := rfl
@[simp] theorem updRun_ports (f : RunCtl → RunCtl) (s : State) : (updRun f s).ports = s.ports := rfl
@[simp] theorem updRun_cans (f : RunCtl → RunCtl) (s : State) : (updRun f s).cans = s.cans := rfl
@[simp] theorem updRun_uarts (f : RunCtl → RunCtl) (s : State) : (updRun f s).uarts = s.uarts := rfl
@[simp] theorem updRun_super (f : RunCtl → RunCtl) (s : State) : (updRun f s).super = s.super := rfl
@[simp] theorem updRun_mail (f : RunCtl → RunCtl) (s : State) : (updRun f s).mail = s.mail := rfl
@[simp] theorem updRun_host (f : RunCtl → RunCtl) (s : State) : (updRun f s).host = s.host := rfl
@[simp] theorem updRun_recorder (f : RunCtl → RunCtl) (s : State) : (updRun f s).recorder = s.recorder := rfl
@[simp] theorem updRun_historian (f : RunCtl → RunCtl) (s : State) : (updRun f s).historian = s.historian := rfl
@[simp] theorem updRun_otp (f : RunCtl → RunCtl) (s : State) : (updRun f s).otp = s.otp := rfl
@[simp] theorem updRun_store (f : RunCtl → RunCtl) (s : State) : (updRun f s).store = s.store := rfl
@[simp] theorem updRun_flash (f : RunCtl → RunCtl) (s : State) : (updRun f s).flash = s.flash := rfl
@[simp] theorem updRun_sec (f : RunCtl → RunCtl) (s : State) : (updRun f s).sec = s.sec := rfl
@[simp] theorem updRun_upd (f : RunCtl → RunCtl) (s : State) : (updRun f s).upd = s.upd := rfl
@[simp] theorem updRun_pwr (f : RunCtl → RunCtl) (s : State) : (updRun f s).pwr = s.pwr := rfl
@[simp] theorem updRun_forceInd (f : RunCtl → RunCtl) (s : State) : (updRun f s).forceInd = s.forceInd := rfl
@[simp] theorem updRun_tapReset (f : RunCtl → RunCtl) (s : State) : (updRun f s).tapReset = s.tapReset := rfl
@[simp] theorem updRun_resp (f : RunCtl → RunCtl) (s : State) : (updRun f s).resp = s.resp := rfl
@[simp] theorem updRun_out (f : RunCtl → RunCtl) (s : State) : (updRun f s).out = s.out := rfl
@[simp] theorem updRun_free (f : RunCtl → RunCtl) (s : State) : (updRun f s).free = s.free := rfl
@[simp] theorem updRun_pending (f : RunCtl → RunCtl) (s : State) : (updRun f s).pending = s.pending := rfl

/-! `updSched` -/

@[simp] theorem updSched_sched (f : Sched → Sched) (s : State) : (updSched f s).sched = f s.sched := rfl
@[simp] theorem updSched_part (f : Sched → Sched) (s : State) : (updSched f s).part = s.part := rfl
@[simp] theorem updSched_hdrs (f : Sched → Sched) (s : State) : (updSched f s).hdrs = s.hdrs := rfl
@[simp] theorem updSched_latches (f : Sched → Sched) (s : State) : (updSched f s).latches = s.latches := rfl
@[simp] theorem updSched_heldLow (f : Sched → Sched) (s : State) : (updSched f s).heldLow = s.heldLow := rfl
@[simp] theorem updSched_tb (f : Sched → Sched) (s : State) : (updSched f s).tb = s.tb := rfl
@[simp] theorem updSched_crests (f : Sched → Sched) (s : State) : (updSched f s).crests = s.crests := rfl
@[simp] theorem updSched_hub (f : Sched → Sched) (s : State) : (updSched f s).hub = s.hub := rfl
@[simp] theorem updSched_flitFails (f : Sched → Sched) (s : State) : (updSched f s).flitFails = s.flitFails := rfl
@[simp] theorem updSched_packets (f : Sched → Sched) (s : State) : (updSched f s).packets = s.packets := rfl
@[simp] theorem updSched_nextPacket (f : Sched → Sched) (s : State) : (updSched f s).nextPacket = s.nextPacket := rfl
@[simp] theorem updSched_opened (f : Sched → Sched) (s : State) : (updSched f s).opened = s.opened := rfl
@[simp] theorem updSched_pool (f : Sched → Sched) (s : State) : (updSched f s).pool = s.pool := rfl
@[simp] theorem updSched_sram (f : Sched → Sched) (s : State) : (updSched f s).sram = s.sram := rfl
@[simp] theorem updSched_staged (f : Sched → Sched) (s : State) : (updSched f s).staged = s.staged := rfl
@[simp] theorem updSched_run (f : Sched → Sched) (s : State) : (updSched f s).run = s.run := rfl
@[simp] theorem updSched_trio (f : Sched → Sched) (s : State) : (updSched f s).trio = s.trio := rfl
@[simp] theorem updSched_safety (f : Sched → Sched) (s : State) : (updSched f s).safety = s.safety := rfl
@[simp] theorem updSched_field (f : Sched → Sched) (s : State) : (updSched f s).field = s.field := rfl
@[simp] theorem updSched_panel (f : Sched → Sched) (s : State) : (updSched f s).panel = s.panel := rfl
@[simp] theorem updSched_ports (f : Sched → Sched) (s : State) : (updSched f s).ports = s.ports := rfl
@[simp] theorem updSched_cans (f : Sched → Sched) (s : State) : (updSched f s).cans = s.cans := rfl
@[simp] theorem updSched_uarts (f : Sched → Sched) (s : State) : (updSched f s).uarts = s.uarts := rfl
@[simp] theorem updSched_super (f : Sched → Sched) (s : State) : (updSched f s).super = s.super := rfl
@[simp] theorem updSched_mail (f : Sched → Sched) (s : State) : (updSched f s).mail = s.mail := rfl
@[simp] theorem updSched_host (f : Sched → Sched) (s : State) : (updSched f s).host = s.host := rfl
@[simp] theorem updSched_recorder (f : Sched → Sched) (s : State) : (updSched f s).recorder = s.recorder := rfl
@[simp] theorem updSched_historian (f : Sched → Sched) (s : State) : (updSched f s).historian = s.historian := rfl
@[simp] theorem updSched_otp (f : Sched → Sched) (s : State) : (updSched f s).otp = s.otp := rfl
@[simp] theorem updSched_store (f : Sched → Sched) (s : State) : (updSched f s).store = s.store := rfl
@[simp] theorem updSched_flash (f : Sched → Sched) (s : State) : (updSched f s).flash = s.flash := rfl
@[simp] theorem updSched_sec (f : Sched → Sched) (s : State) : (updSched f s).sec = s.sec := rfl
@[simp] theorem updSched_upd (f : Sched → Sched) (s : State) : (updSched f s).upd = s.upd := rfl
@[simp] theorem updSched_pwr (f : Sched → Sched) (s : State) : (updSched f s).pwr = s.pwr := rfl
@[simp] theorem updSched_forceInd (f : Sched → Sched) (s : State) : (updSched f s).forceInd = s.forceInd := rfl
@[simp] theorem updSched_tapReset (f : Sched → Sched) (s : State) : (updSched f s).tapReset = s.tapReset := rfl
@[simp] theorem updSched_resp (f : Sched → Sched) (s : State) : (updSched f s).resp = s.resp := rfl
@[simp] theorem updSched_out (f : Sched → Sched) (s : State) : (updSched f s).out = s.out := rfl
@[simp] theorem updSched_free (f : Sched → Sched) (s : State) : (updSched f s).free = s.free := rfl
@[simp] theorem updSched_pending (f : Sched → Sched) (s : State) : (updSched f s).pending = s.pending := rfl

/-! `updSuper` -/

@[simp] theorem updSuper_super (f : Super → Super) (s : State) : (updSuper f s).super = f s.super := rfl
@[simp] theorem updSuper_part (f : Super → Super) (s : State) : (updSuper f s).part = s.part := rfl
@[simp] theorem updSuper_hdrs (f : Super → Super) (s : State) : (updSuper f s).hdrs = s.hdrs := rfl
@[simp] theorem updSuper_latches (f : Super → Super) (s : State) : (updSuper f s).latches = s.latches := rfl
@[simp] theorem updSuper_heldLow (f : Super → Super) (s : State) : (updSuper f s).heldLow = s.heldLow := rfl
@[simp] theorem updSuper_tb (f : Super → Super) (s : State) : (updSuper f s).tb = s.tb := rfl
@[simp] theorem updSuper_crests (f : Super → Super) (s : State) : (updSuper f s).crests = s.crests := rfl
@[simp] theorem updSuper_hub (f : Super → Super) (s : State) : (updSuper f s).hub = s.hub := rfl
@[simp] theorem updSuper_flitFails (f : Super → Super) (s : State) : (updSuper f s).flitFails = s.flitFails := rfl
@[simp] theorem updSuper_packets (f : Super → Super) (s : State) : (updSuper f s).packets = s.packets := rfl
@[simp] theorem updSuper_nextPacket (f : Super → Super) (s : State) : (updSuper f s).nextPacket = s.nextPacket := rfl
@[simp] theorem updSuper_opened (f : Super → Super) (s : State) : (updSuper f s).opened = s.opened := rfl
@[simp] theorem updSuper_pool (f : Super → Super) (s : State) : (updSuper f s).pool = s.pool := rfl
@[simp] theorem updSuper_sram (f : Super → Super) (s : State) : (updSuper f s).sram = s.sram := rfl
@[simp] theorem updSuper_staged (f : Super → Super) (s : State) : (updSuper f s).staged = s.staged := rfl
@[simp] theorem updSuper_sched (f : Super → Super) (s : State) : (updSuper f s).sched = s.sched := rfl
@[simp] theorem updSuper_run (f : Super → Super) (s : State) : (updSuper f s).run = s.run := rfl
@[simp] theorem updSuper_trio (f : Super → Super) (s : State) : (updSuper f s).trio = s.trio := rfl
@[simp] theorem updSuper_safety (f : Super → Super) (s : State) : (updSuper f s).safety = s.safety := rfl
@[simp] theorem updSuper_field (f : Super → Super) (s : State) : (updSuper f s).field = s.field := rfl
@[simp] theorem updSuper_panel (f : Super → Super) (s : State) : (updSuper f s).panel = s.panel := rfl
@[simp] theorem updSuper_ports (f : Super → Super) (s : State) : (updSuper f s).ports = s.ports := rfl
@[simp] theorem updSuper_cans (f : Super → Super) (s : State) : (updSuper f s).cans = s.cans := rfl
@[simp] theorem updSuper_uarts (f : Super → Super) (s : State) : (updSuper f s).uarts = s.uarts := rfl
@[simp] theorem updSuper_mail (f : Super → Super) (s : State) : (updSuper f s).mail = s.mail := rfl
@[simp] theorem updSuper_host (f : Super → Super) (s : State) : (updSuper f s).host = s.host := rfl
@[simp] theorem updSuper_recorder (f : Super → Super) (s : State) : (updSuper f s).recorder = s.recorder := rfl
@[simp] theorem updSuper_historian (f : Super → Super) (s : State) : (updSuper f s).historian = s.historian := rfl
@[simp] theorem updSuper_otp (f : Super → Super) (s : State) : (updSuper f s).otp = s.otp := rfl
@[simp] theorem updSuper_store (f : Super → Super) (s : State) : (updSuper f s).store = s.store := rfl
@[simp] theorem updSuper_flash (f : Super → Super) (s : State) : (updSuper f s).flash = s.flash := rfl
@[simp] theorem updSuper_sec (f : Super → Super) (s : State) : (updSuper f s).sec = s.sec := rfl
@[simp] theorem updSuper_upd (f : Super → Super) (s : State) : (updSuper f s).upd = s.upd := rfl
@[simp] theorem updSuper_pwr (f : Super → Super) (s : State) : (updSuper f s).pwr = s.pwr := rfl
@[simp] theorem updSuper_forceInd (f : Super → Super) (s : State) : (updSuper f s).forceInd = s.forceInd := rfl
@[simp] theorem updSuper_tapReset (f : Super → Super) (s : State) : (updSuper f s).tapReset = s.tapReset := rfl
@[simp] theorem updSuper_resp (f : Super → Super) (s : State) : (updSuper f s).resp = s.resp := rfl
@[simp] theorem updSuper_out (f : Super → Super) (s : State) : (updSuper f s).out = s.out := rfl
@[simp] theorem updSuper_free (f : Super → Super) (s : State) : (updSuper f s).free = s.free := rfl
@[simp] theorem updSuper_pending (f : Super → Super) (s : State) : (updSuper f s).pending = s.pending := rfl

/-! `updSec` -/

@[simp] theorem updSec_sec (f : Security → Security) (s : State) : (updSec f s).sec = f s.sec := rfl
@[simp] theorem updSec_part (f : Security → Security) (s : State) : (updSec f s).part = s.part := rfl
@[simp] theorem updSec_hdrs (f : Security → Security) (s : State) : (updSec f s).hdrs = s.hdrs := rfl
@[simp] theorem updSec_latches (f : Security → Security) (s : State) : (updSec f s).latches = s.latches := rfl
@[simp] theorem updSec_heldLow (f : Security → Security) (s : State) : (updSec f s).heldLow = s.heldLow := rfl
@[simp] theorem updSec_tb (f : Security → Security) (s : State) : (updSec f s).tb = s.tb := rfl
@[simp] theorem updSec_crests (f : Security → Security) (s : State) : (updSec f s).crests = s.crests := rfl
@[simp] theorem updSec_hub (f : Security → Security) (s : State) : (updSec f s).hub = s.hub := rfl
@[simp] theorem updSec_flitFails (f : Security → Security) (s : State) : (updSec f s).flitFails = s.flitFails := rfl
@[simp] theorem updSec_packets (f : Security → Security) (s : State) : (updSec f s).packets = s.packets := rfl
@[simp] theorem updSec_nextPacket (f : Security → Security) (s : State) : (updSec f s).nextPacket = s.nextPacket := rfl
@[simp] theorem updSec_opened (f : Security → Security) (s : State) : (updSec f s).opened = s.opened := rfl
@[simp] theorem updSec_pool (f : Security → Security) (s : State) : (updSec f s).pool = s.pool := rfl
@[simp] theorem updSec_sram (f : Security → Security) (s : State) : (updSec f s).sram = s.sram := rfl
@[simp] theorem updSec_staged (f : Security → Security) (s : State) : (updSec f s).staged = s.staged := rfl
@[simp] theorem updSec_sched (f : Security → Security) (s : State) : (updSec f s).sched = s.sched := rfl
@[simp] theorem updSec_run (f : Security → Security) (s : State) : (updSec f s).run = s.run := rfl
@[simp] theorem updSec_trio (f : Security → Security) (s : State) : (updSec f s).trio = s.trio := rfl
@[simp] theorem updSec_safety (f : Security → Security) (s : State) : (updSec f s).safety = s.safety := rfl
@[simp] theorem updSec_field (f : Security → Security) (s : State) : (updSec f s).field = s.field := rfl
@[simp] theorem updSec_panel (f : Security → Security) (s : State) : (updSec f s).panel = s.panel := rfl
@[simp] theorem updSec_ports (f : Security → Security) (s : State) : (updSec f s).ports = s.ports := rfl
@[simp] theorem updSec_cans (f : Security → Security) (s : State) : (updSec f s).cans = s.cans := rfl
@[simp] theorem updSec_uarts (f : Security → Security) (s : State) : (updSec f s).uarts = s.uarts := rfl
@[simp] theorem updSec_super (f : Security → Security) (s : State) : (updSec f s).super = s.super := rfl
@[simp] theorem updSec_mail (f : Security → Security) (s : State) : (updSec f s).mail = s.mail := rfl
@[simp] theorem updSec_host (f : Security → Security) (s : State) : (updSec f s).host = s.host := rfl
@[simp] theorem updSec_recorder (f : Security → Security) (s : State) : (updSec f s).recorder = s.recorder := rfl
@[simp] theorem updSec_historian (f : Security → Security) (s : State) : (updSec f s).historian = s.historian := rfl
@[simp] theorem updSec_otp (f : Security → Security) (s : State) : (updSec f s).otp = s.otp := rfl
@[simp] theorem updSec_store (f : Security → Security) (s : State) : (updSec f s).store = s.store := rfl
@[simp] theorem updSec_flash (f : Security → Security) (s : State) : (updSec f s).flash = s.flash := rfl
@[simp] theorem updSec_upd (f : Security → Security) (s : State) : (updSec f s).upd = s.upd := rfl
@[simp] theorem updSec_pwr (f : Security → Security) (s : State) : (updSec f s).pwr = s.pwr := rfl
@[simp] theorem updSec_forceInd (f : Security → Security) (s : State) : (updSec f s).forceInd = s.forceInd := rfl
@[simp] theorem updSec_tapReset (f : Security → Security) (s : State) : (updSec f s).tapReset = s.tapReset := rfl
@[simp] theorem updSec_resp (f : Security → Security) (s : State) : (updSec f s).resp = s.resp := rfl
@[simp] theorem updSec_out (f : Security → Security) (s : State) : (updSec f s).out = s.out := rfl
@[simp] theorem updSec_free (f : Security → Security) (s : State) : (updSec f s).free = s.free := rfl
@[simp] theorem updSec_pending (f : Security → Security) (s : State) : (updSec f s).pending = s.pending := rfl

/-! `updStore` -/

@[simp] theorem updStore_store (f : SecStore → SecStore) (s : State) : (updStore f s).store = f s.store := rfl
@[simp] theorem updStore_part (f : SecStore → SecStore) (s : State) : (updStore f s).part = s.part := rfl
@[simp] theorem updStore_hdrs (f : SecStore → SecStore) (s : State) : (updStore f s).hdrs = s.hdrs := rfl
@[simp] theorem updStore_latches (f : SecStore → SecStore) (s : State) : (updStore f s).latches = s.latches := rfl
@[simp] theorem updStore_heldLow (f : SecStore → SecStore) (s : State) : (updStore f s).heldLow = s.heldLow := rfl
@[simp] theorem updStore_tb (f : SecStore → SecStore) (s : State) : (updStore f s).tb = s.tb := rfl
@[simp] theorem updStore_crests (f : SecStore → SecStore) (s : State) : (updStore f s).crests = s.crests := rfl
@[simp] theorem updStore_hub (f : SecStore → SecStore) (s : State) : (updStore f s).hub = s.hub := rfl
@[simp] theorem updStore_flitFails (f : SecStore → SecStore) (s : State) : (updStore f s).flitFails = s.flitFails := rfl
@[simp] theorem updStore_packets (f : SecStore → SecStore) (s : State) : (updStore f s).packets = s.packets := rfl
@[simp] theorem updStore_nextPacket (f : SecStore → SecStore) (s : State) : (updStore f s).nextPacket = s.nextPacket := rfl
@[simp] theorem updStore_opened (f : SecStore → SecStore) (s : State) : (updStore f s).opened = s.opened := rfl
@[simp] theorem updStore_pool (f : SecStore → SecStore) (s : State) : (updStore f s).pool = s.pool := rfl
@[simp] theorem updStore_sram (f : SecStore → SecStore) (s : State) : (updStore f s).sram = s.sram := rfl
@[simp] theorem updStore_staged (f : SecStore → SecStore) (s : State) : (updStore f s).staged = s.staged := rfl
@[simp] theorem updStore_sched (f : SecStore → SecStore) (s : State) : (updStore f s).sched = s.sched := rfl
@[simp] theorem updStore_run (f : SecStore → SecStore) (s : State) : (updStore f s).run = s.run := rfl
@[simp] theorem updStore_trio (f : SecStore → SecStore) (s : State) : (updStore f s).trio = s.trio := rfl
@[simp] theorem updStore_safety (f : SecStore → SecStore) (s : State) : (updStore f s).safety = s.safety := rfl
@[simp] theorem updStore_field (f : SecStore → SecStore) (s : State) : (updStore f s).field = s.field := rfl
@[simp] theorem updStore_panel (f : SecStore → SecStore) (s : State) : (updStore f s).panel = s.panel := rfl
@[simp] theorem updStore_ports (f : SecStore → SecStore) (s : State) : (updStore f s).ports = s.ports := rfl
@[simp] theorem updStore_cans (f : SecStore → SecStore) (s : State) : (updStore f s).cans = s.cans := rfl
@[simp] theorem updStore_uarts (f : SecStore → SecStore) (s : State) : (updStore f s).uarts = s.uarts := rfl
@[simp] theorem updStore_super (f : SecStore → SecStore) (s : State) : (updStore f s).super = s.super := rfl
@[simp] theorem updStore_mail (f : SecStore → SecStore) (s : State) : (updStore f s).mail = s.mail := rfl
@[simp] theorem updStore_host (f : SecStore → SecStore) (s : State) : (updStore f s).host = s.host := rfl
@[simp] theorem updStore_recorder (f : SecStore → SecStore) (s : State) : (updStore f s).recorder = s.recorder := rfl
@[simp] theorem updStore_historian (f : SecStore → SecStore) (s : State) : (updStore f s).historian = s.historian := rfl
@[simp] theorem updStore_otp (f : SecStore → SecStore) (s : State) : (updStore f s).otp = s.otp := rfl
@[simp] theorem updStore_sec (f : SecStore → SecStore) (s : State) : (updStore f s).sec = s.sec := rfl
@[simp] theorem updStore_upd (f : SecStore → SecStore) (s : State) : (updStore f s).upd = s.upd := rfl
@[simp] theorem updStore_pwr (f : SecStore → SecStore) (s : State) : (updStore f s).pwr = s.pwr := rfl
@[simp] theorem updStore_forceInd (f : SecStore → SecStore) (s : State) : (updStore f s).forceInd = s.forceInd := rfl
@[simp] theorem updStore_tapReset (f : SecStore → SecStore) (s : State) : (updStore f s).tapReset = s.tapReset := rfl
@[simp] theorem updStore_resp (f : SecStore → SecStore) (s : State) : (updStore f s).resp = s.resp := rfl
@[simp] theorem updStore_out (f : SecStore → SecStore) (s : State) : (updStore f s).out = s.out := rfl
@[simp] theorem updStore_free (f : SecStore → SecStore) (s : State) : (updStore f s).free = s.free := rfl
@[simp] theorem updStore_pending (f : SecStore → SecStore) (s : State) : (updStore f s).pending = s.pending := rfl

/-! `updOtp` -/

@[simp] theorem updOtp_otp (f : Otp → Otp) (s : State) : (updOtp f s).otp = f s.otp := rfl
@[simp] theorem updOtp_part (f : Otp → Otp) (s : State) : (updOtp f s).part = s.part := rfl
@[simp] theorem updOtp_hdrs (f : Otp → Otp) (s : State) : (updOtp f s).hdrs = s.hdrs := rfl
@[simp] theorem updOtp_latches (f : Otp → Otp) (s : State) : (updOtp f s).latches = s.latches := rfl
@[simp] theorem updOtp_heldLow (f : Otp → Otp) (s : State) : (updOtp f s).heldLow = s.heldLow := rfl
@[simp] theorem updOtp_tb (f : Otp → Otp) (s : State) : (updOtp f s).tb = s.tb := rfl
@[simp] theorem updOtp_crests (f : Otp → Otp) (s : State) : (updOtp f s).crests = s.crests := rfl
@[simp] theorem updOtp_hub (f : Otp → Otp) (s : State) : (updOtp f s).hub = s.hub := rfl
@[simp] theorem updOtp_flitFails (f : Otp → Otp) (s : State) : (updOtp f s).flitFails = s.flitFails := rfl
@[simp] theorem updOtp_packets (f : Otp → Otp) (s : State) : (updOtp f s).packets = s.packets := rfl
@[simp] theorem updOtp_nextPacket (f : Otp → Otp) (s : State) : (updOtp f s).nextPacket = s.nextPacket := rfl
@[simp] theorem updOtp_opened (f : Otp → Otp) (s : State) : (updOtp f s).opened = s.opened := rfl
@[simp] theorem updOtp_pool (f : Otp → Otp) (s : State) : (updOtp f s).pool = s.pool := rfl
@[simp] theorem updOtp_sram (f : Otp → Otp) (s : State) : (updOtp f s).sram = s.sram := rfl
@[simp] theorem updOtp_staged (f : Otp → Otp) (s : State) : (updOtp f s).staged = s.staged := rfl
@[simp] theorem updOtp_sched (f : Otp → Otp) (s : State) : (updOtp f s).sched = s.sched := rfl
@[simp] theorem updOtp_run (f : Otp → Otp) (s : State) : (updOtp f s).run = s.run := rfl
@[simp] theorem updOtp_trio (f : Otp → Otp) (s : State) : (updOtp f s).trio = s.trio := rfl
@[simp] theorem updOtp_safety (f : Otp → Otp) (s : State) : (updOtp f s).safety = s.safety := rfl
@[simp] theorem updOtp_field (f : Otp → Otp) (s : State) : (updOtp f s).field = s.field := rfl
@[simp] theorem updOtp_panel (f : Otp → Otp) (s : State) : (updOtp f s).panel = s.panel := rfl
@[simp] theorem updOtp_ports (f : Otp → Otp) (s : State) : (updOtp f s).ports = s.ports := rfl
@[simp] theorem updOtp_cans (f : Otp → Otp) (s : State) : (updOtp f s).cans = s.cans := rfl
@[simp] theorem updOtp_uarts (f : Otp → Otp) (s : State) : (updOtp f s).uarts = s.uarts := rfl
@[simp] theorem updOtp_super (f : Otp → Otp) (s : State) : (updOtp f s).super = s.super := rfl
@[simp] theorem updOtp_mail (f : Otp → Otp) (s : State) : (updOtp f s).mail = s.mail := rfl
@[simp] theorem updOtp_host (f : Otp → Otp) (s : State) : (updOtp f s).host = s.host := rfl
@[simp] theorem updOtp_recorder (f : Otp → Otp) (s : State) : (updOtp f s).recorder = s.recorder := rfl
@[simp] theorem updOtp_historian (f : Otp → Otp) (s : State) : (updOtp f s).historian = s.historian := rfl
@[simp] theorem updOtp_store (f : Otp → Otp) (s : State) : (updOtp f s).store = s.store := rfl
@[simp] theorem updOtp_flash (f : Otp → Otp) (s : State) : (updOtp f s).flash = s.flash := rfl
@[simp] theorem updOtp_sec (f : Otp → Otp) (s : State) : (updOtp f s).sec = s.sec := rfl
@[simp] theorem updOtp_upd (f : Otp → Otp) (s : State) : (updOtp f s).upd = s.upd := rfl
@[simp] theorem updOtp_pwr (f : Otp → Otp) (s : State) : (updOtp f s).pwr = s.pwr := rfl
@[simp] theorem updOtp_forceInd (f : Otp → Otp) (s : State) : (updOtp f s).forceInd = s.forceInd := rfl
@[simp] theorem updOtp_tapReset (f : Otp → Otp) (s : State) : (updOtp f s).tapReset = s.tapReset := rfl
@[simp] theorem updOtp_resp (f : Otp → Otp) (s : State) : (updOtp f s).resp = s.resp := rfl
@[simp] theorem updOtp_out (f : Otp → Otp) (s : State) : (updOtp f s).out = s.out := rfl
@[simp] theorem updOtp_free (f : Otp → Otp) (s : State) : (updOtp f s).free = s.free := rfl
@[simp] theorem updOtp_pending (f : Otp → Otp) (s : State) : (updOtp f s).pending = s.pending := rfl

/-! `updFlash` -/

@[simp] theorem updFlash_flash (f : Flash → Flash) (s : State) : (updFlash f s).flash = f s.flash := rfl
@[simp] theorem updFlash_part (f : Flash → Flash) (s : State) : (updFlash f s).part = s.part := rfl
@[simp] theorem updFlash_hdrs (f : Flash → Flash) (s : State) : (updFlash f s).hdrs = s.hdrs := rfl
@[simp] theorem updFlash_latches (f : Flash → Flash) (s : State) : (updFlash f s).latches = s.latches := rfl
@[simp] theorem updFlash_heldLow (f : Flash → Flash) (s : State) : (updFlash f s).heldLow = s.heldLow := rfl
@[simp] theorem updFlash_tb (f : Flash → Flash) (s : State) : (updFlash f s).tb = s.tb := rfl
@[simp] theorem updFlash_crests (f : Flash → Flash) (s : State) : (updFlash f s).crests = s.crests := rfl
@[simp] theorem updFlash_hub (f : Flash → Flash) (s : State) : (updFlash f s).hub = s.hub := rfl
@[simp] theorem updFlash_flitFails (f : Flash → Flash) (s : State) : (updFlash f s).flitFails = s.flitFails := rfl
@[simp] theorem updFlash_packets (f : Flash → Flash) (s : State) : (updFlash f s).packets = s.packets := rfl
@[simp] theorem updFlash_nextPacket (f : Flash → Flash) (s : State) : (updFlash f s).nextPacket = s.nextPacket := rfl
@[simp] theorem updFlash_opened (f : Flash → Flash) (s : State) : (updFlash f s).opened = s.opened := rfl
@[simp] theorem updFlash_pool (f : Flash → Flash) (s : State) : (updFlash f s).pool = s.pool := rfl
@[simp] theorem updFlash_sram (f : Flash → Flash) (s : State) : (updFlash f s).sram = s.sram := rfl
@[simp] theorem updFlash_staged (f : Flash → Flash) (s : State) : (updFlash f s).staged = s.staged := rfl
@[simp] theorem updFlash_sched (f : Flash → Flash) (s : State) : (updFlash f s).sched = s.sched := rfl
@[simp] theorem updFlash_run (f : Flash → Flash) (s : State) : (updFlash f s).run = s.run := rfl
@[simp] theorem updFlash_trio (f : Flash → Flash) (s : State) : (updFlash f s).trio = s.trio := rfl
@[simp] theorem updFlash_safety (f : Flash → Flash) (s : State) : (updFlash f s).safety = s.safety := rfl
@[simp] theorem updFlash_field (f : Flash → Flash) (s : State) : (updFlash f s).field = s.field := rfl
@[simp] theorem updFlash_panel (f : Flash → Flash) (s : State) : (updFlash f s).panel = s.panel := rfl
@[simp] theorem updFlash_ports (f : Flash → Flash) (s : State) : (updFlash f s).ports = s.ports := rfl
@[simp] theorem updFlash_cans (f : Flash → Flash) (s : State) : (updFlash f s).cans = s.cans := rfl
@[simp] theorem updFlash_uarts (f : Flash → Flash) (s : State) : (updFlash f s).uarts = s.uarts := rfl
@[simp] theorem updFlash_super (f : Flash → Flash) (s : State) : (updFlash f s).super = s.super := rfl
@[simp] theorem updFlash_mail (f : Flash → Flash) (s : State) : (updFlash f s).mail = s.mail := rfl
@[simp] theorem updFlash_host (f : Flash → Flash) (s : State) : (updFlash f s).host = s.host := rfl
@[simp] theorem updFlash_recorder (f : Flash → Flash) (s : State) : (updFlash f s).recorder = s.recorder := rfl
@[simp] theorem updFlash_historian (f : Flash → Flash) (s : State) : (updFlash f s).historian = s.historian := rfl
@[simp] theorem updFlash_otp (f : Flash → Flash) (s : State) : (updFlash f s).otp = s.otp := rfl
@[simp] theorem updFlash_store (f : Flash → Flash) (s : State) : (updFlash f s).store = s.store := rfl
@[simp] theorem updFlash_sec (f : Flash → Flash) (s : State) : (updFlash f s).sec = s.sec := rfl
@[simp] theorem updFlash_upd (f : Flash → Flash) (s : State) : (updFlash f s).upd = s.upd := rfl
@[simp] theorem updFlash_pwr (f : Flash → Flash) (s : State) : (updFlash f s).pwr = s.pwr := rfl
@[simp] theorem updFlash_forceInd (f : Flash → Flash) (s : State) : (updFlash f s).forceInd = s.forceInd := rfl
@[simp] theorem updFlash_tapReset (f : Flash → Flash) (s : State) : (updFlash f s).tapReset = s.tapReset := rfl
@[simp] theorem updFlash_resp (f : Flash → Flash) (s : State) : (updFlash f s).resp = s.resp := rfl
@[simp] theorem updFlash_out (f : Flash → Flash) (s : State) : (updFlash f s).out = s.out := rfl
@[simp] theorem updFlash_free (f : Flash → Flash) (s : State) : (updFlash f s).free = s.free := rfl
@[simp] theorem updFlash_pending (f : Flash → Flash) (s : State) : (updFlash f s).pending = s.pending := rfl

/-! `updUpd` -/

@[simp] theorem updUpd_upd (f : Update → Update) (s : State) : (updUpd f s).upd = f s.upd := rfl
@[simp] theorem updUpd_part (f : Update → Update) (s : State) : (updUpd f s).part = s.part := rfl
@[simp] theorem updUpd_hdrs (f : Update → Update) (s : State) : (updUpd f s).hdrs = s.hdrs := rfl
@[simp] theorem updUpd_latches (f : Update → Update) (s : State) : (updUpd f s).latches = s.latches := rfl
@[simp] theorem updUpd_heldLow (f : Update → Update) (s : State) : (updUpd f s).heldLow = s.heldLow := rfl
@[simp] theorem updUpd_tb (f : Update → Update) (s : State) : (updUpd f s).tb = s.tb := rfl
@[simp] theorem updUpd_crests (f : Update → Update) (s : State) : (updUpd f s).crests = s.crests := rfl
@[simp] theorem updUpd_hub (f : Update → Update) (s : State) : (updUpd f s).hub = s.hub := rfl
@[simp] theorem updUpd_flitFails (f : Update → Update) (s : State) : (updUpd f s).flitFails = s.flitFails := rfl
@[simp] theorem updUpd_packets (f : Update → Update) (s : State) : (updUpd f s).packets = s.packets := rfl
@[simp] theorem updUpd_nextPacket (f : Update → Update) (s : State) : (updUpd f s).nextPacket = s.nextPacket := rfl
@[simp] theorem updUpd_opened (f : Update → Update) (s : State) : (updUpd f s).opened = s.opened := rfl
@[simp] theorem updUpd_pool (f : Update → Update) (s : State) : (updUpd f s).pool = s.pool := rfl
@[simp] theorem updUpd_sram (f : Update → Update) (s : State) : (updUpd f s).sram = s.sram := rfl
@[simp] theorem updUpd_staged (f : Update → Update) (s : State) : (updUpd f s).staged = s.staged := rfl
@[simp] theorem updUpd_sched (f : Update → Update) (s : State) : (updUpd f s).sched = s.sched := rfl
@[simp] theorem updUpd_run (f : Update → Update) (s : State) : (updUpd f s).run = s.run := rfl
@[simp] theorem updUpd_trio (f : Update → Update) (s : State) : (updUpd f s).trio = s.trio := rfl
@[simp] theorem updUpd_safety (f : Update → Update) (s : State) : (updUpd f s).safety = s.safety := rfl
@[simp] theorem updUpd_field (f : Update → Update) (s : State) : (updUpd f s).field = s.field := rfl
@[simp] theorem updUpd_panel (f : Update → Update) (s : State) : (updUpd f s).panel = s.panel := rfl
@[simp] theorem updUpd_ports (f : Update → Update) (s : State) : (updUpd f s).ports = s.ports := rfl
@[simp] theorem updUpd_cans (f : Update → Update) (s : State) : (updUpd f s).cans = s.cans := rfl
@[simp] theorem updUpd_uarts (f : Update → Update) (s : State) : (updUpd f s).uarts = s.uarts := rfl
@[simp] theorem updUpd_super (f : Update → Update) (s : State) : (updUpd f s).super = s.super := rfl
@[simp] theorem updUpd_mail (f : Update → Update) (s : State) : (updUpd f s).mail = s.mail := rfl
@[simp] theorem updUpd_host (f : Update → Update) (s : State) : (updUpd f s).host = s.host := rfl
@[simp] theorem updUpd_recorder (f : Update → Update) (s : State) : (updUpd f s).recorder = s.recorder := rfl
@[simp] theorem updUpd_historian (f : Update → Update) (s : State) : (updUpd f s).historian = s.historian := rfl
@[simp] theorem updUpd_otp (f : Update → Update) (s : State) : (updUpd f s).otp = s.otp := rfl
@[simp] theorem updUpd_store (f : Update → Update) (s : State) : (updUpd f s).store = s.store := rfl
@[simp] theorem updUpd_flash (f : Update → Update) (s : State) : (updUpd f s).flash = s.flash := rfl
@[simp] theorem updUpd_sec (f : Update → Update) (s : State) : (updUpd f s).sec = s.sec := rfl
@[simp] theorem updUpd_pwr (f : Update → Update) (s : State) : (updUpd f s).pwr = s.pwr := rfl
@[simp] theorem updUpd_forceInd (f : Update → Update) (s : State) : (updUpd f s).forceInd = s.forceInd := rfl
@[simp] theorem updUpd_tapReset (f : Update → Update) (s : State) : (updUpd f s).tapReset = s.tapReset := rfl
@[simp] theorem updUpd_resp (f : Update → Update) (s : State) : (updUpd f s).resp = s.resp := rfl
@[simp] theorem updUpd_out (f : Update → Update) (s : State) : (updUpd f s).out = s.out := rfl
@[simp] theorem updUpd_free (f : Update → Update) (s : State) : (updUpd f s).free = s.free := rfl
@[simp] theorem updUpd_pending (f : Update → Update) (s : State) : (updUpd f s).pending = s.pending := rfl

/-! `updPwr` -/

@[simp] theorem updPwr_pwr (f : Power → Power) (s : State) : (updPwr f s).pwr = f s.pwr := rfl
@[simp] theorem updPwr_part (f : Power → Power) (s : State) : (updPwr f s).part = s.part := rfl
@[simp] theorem updPwr_hdrs (f : Power → Power) (s : State) : (updPwr f s).hdrs = s.hdrs := rfl
@[simp] theorem updPwr_latches (f : Power → Power) (s : State) : (updPwr f s).latches = s.latches := rfl
@[simp] theorem updPwr_heldLow (f : Power → Power) (s : State) : (updPwr f s).heldLow = s.heldLow := rfl
@[simp] theorem updPwr_tb (f : Power → Power) (s : State) : (updPwr f s).tb = s.tb := rfl
@[simp] theorem updPwr_crests (f : Power → Power) (s : State) : (updPwr f s).crests = s.crests := rfl
@[simp] theorem updPwr_hub (f : Power → Power) (s : State) : (updPwr f s).hub = s.hub := rfl
@[simp] theorem updPwr_flitFails (f : Power → Power) (s : State) : (updPwr f s).flitFails = s.flitFails := rfl
@[simp] theorem updPwr_packets (f : Power → Power) (s : State) : (updPwr f s).packets = s.packets := rfl
@[simp] theorem updPwr_nextPacket (f : Power → Power) (s : State) : (updPwr f s).nextPacket = s.nextPacket := rfl
@[simp] theorem updPwr_opened (f : Power → Power) (s : State) : (updPwr f s).opened = s.opened := rfl
@[simp] theorem updPwr_pool (f : Power → Power) (s : State) : (updPwr f s).pool = s.pool := rfl
@[simp] theorem updPwr_sram (f : Power → Power) (s : State) : (updPwr f s).sram = s.sram := rfl
@[simp] theorem updPwr_staged (f : Power → Power) (s : State) : (updPwr f s).staged = s.staged := rfl
@[simp] theorem updPwr_sched (f : Power → Power) (s : State) : (updPwr f s).sched = s.sched := rfl
@[simp] theorem updPwr_run (f : Power → Power) (s : State) : (updPwr f s).run = s.run := rfl
@[simp] theorem updPwr_trio (f : Power → Power) (s : State) : (updPwr f s).trio = s.trio := rfl
@[simp] theorem updPwr_safety (f : Power → Power) (s : State) : (updPwr f s).safety = s.safety := rfl
@[simp] theorem updPwr_field (f : Power → Power) (s : State) : (updPwr f s).field = s.field := rfl
@[simp] theorem updPwr_panel (f : Power → Power) (s : State) : (updPwr f s).panel = s.panel := rfl
@[simp] theorem updPwr_ports (f : Power → Power) (s : State) : (updPwr f s).ports = s.ports := rfl
@[simp] theorem updPwr_cans (f : Power → Power) (s : State) : (updPwr f s).cans = s.cans := rfl
@[simp] theorem updPwr_uarts (f : Power → Power) (s : State) : (updPwr f s).uarts = s.uarts := rfl
@[simp] theorem updPwr_super (f : Power → Power) (s : State) : (updPwr f s).super = s.super := rfl
@[simp] theorem updPwr_mail (f : Power → Power) (s : State) : (updPwr f s).mail = s.mail := rfl
@[simp] theorem updPwr_host (f : Power → Power) (s : State) : (updPwr f s).host = s.host := rfl
@[simp] theorem updPwr_recorder (f : Power → Power) (s : State) : (updPwr f s).recorder = s.recorder := rfl
@[simp] theorem updPwr_historian (f : Power → Power) (s : State) : (updPwr f s).historian = s.historian := rfl
@[simp] theorem updPwr_otp (f : Power → Power) (s : State) : (updPwr f s).otp = s.otp := rfl
@[simp] theorem updPwr_store (f : Power → Power) (s : State) : (updPwr f s).store = s.store := rfl
@[simp] theorem updPwr_flash (f : Power → Power) (s : State) : (updPwr f s).flash = s.flash := rfl
@[simp] theorem updPwr_sec (f : Power → Power) (s : State) : (updPwr f s).sec = s.sec := rfl
@[simp] theorem updPwr_upd (f : Power → Power) (s : State) : (updPwr f s).upd = s.upd := rfl
@[simp] theorem updPwr_forceInd (f : Power → Power) (s : State) : (updPwr f s).forceInd = s.forceInd := rfl
@[simp] theorem updPwr_tapReset (f : Power → Power) (s : State) : (updPwr f s).tapReset = s.tapReset := rfl
@[simp] theorem updPwr_resp (f : Power → Power) (s : State) : (updPwr f s).resp = s.resp := rfl
@[simp] theorem updPwr_out (f : Power → Power) (s : State) : (updPwr f s).out = s.out := rfl
@[simp] theorem updPwr_free (f : Power → Power) (s : State) : (updPwr f s).free = s.free := rfl
@[simp] theorem updPwr_pending (f : Power → Power) (s : State) : (updPwr f s).pending = s.pending := rfl

/-! `updHis` -/

@[simp] theorem updHis_historian (f : Historian → Historian) (s : State) : (updHis f s).historian = f s.historian := rfl
@[simp] theorem updHis_part (f : Historian → Historian) (s : State) : (updHis f s).part = s.part := rfl
@[simp] theorem updHis_hdrs (f : Historian → Historian) (s : State) : (updHis f s).hdrs = s.hdrs := rfl
@[simp] theorem updHis_latches (f : Historian → Historian) (s : State) : (updHis f s).latches = s.latches := rfl
@[simp] theorem updHis_heldLow (f : Historian → Historian) (s : State) : (updHis f s).heldLow = s.heldLow := rfl
@[simp] theorem updHis_tb (f : Historian → Historian) (s : State) : (updHis f s).tb = s.tb := rfl
@[simp] theorem updHis_crests (f : Historian → Historian) (s : State) : (updHis f s).crests = s.crests := rfl
@[simp] theorem updHis_hub (f : Historian → Historian) (s : State) : (updHis f s).hub = s.hub := rfl
@[simp] theorem updHis_flitFails (f : Historian → Historian) (s : State) : (updHis f s).flitFails = s.flitFails := rfl
@[simp] theorem updHis_packets (f : Historian → Historian) (s : State) : (updHis f s).packets = s.packets := rfl
@[simp] theorem updHis_nextPacket (f : Historian → Historian) (s : State) : (updHis f s).nextPacket = s.nextPacket := rfl
@[simp] theorem updHis_opened (f : Historian → Historian) (s : State) : (updHis f s).opened = s.opened := rfl
@[simp] theorem updHis_pool (f : Historian → Historian) (s : State) : (updHis f s).pool = s.pool := rfl
@[simp] theorem updHis_sram (f : Historian → Historian) (s : State) : (updHis f s).sram = s.sram := rfl
@[simp] theorem updHis_staged (f : Historian → Historian) (s : State) : (updHis f s).staged = s.staged := rfl
@[simp] theorem updHis_sched (f : Historian → Historian) (s : State) : (updHis f s).sched = s.sched := rfl
@[simp] theorem updHis_run (f : Historian → Historian) (s : State) : (updHis f s).run = s.run := rfl
@[simp] theorem updHis_trio (f : Historian → Historian) (s : State) : (updHis f s).trio = s.trio := rfl
@[simp] theorem updHis_safety (f : Historian → Historian) (s : State) : (updHis f s).safety = s.safety := rfl
@[simp] theorem updHis_field (f : Historian → Historian) (s : State) : (updHis f s).field = s.field := rfl
@[simp] theorem updHis_panel (f : Historian → Historian) (s : State) : (updHis f s).panel = s.panel := rfl
@[simp] theorem updHis_ports (f : Historian → Historian) (s : State) : (updHis f s).ports = s.ports := rfl
@[simp] theorem updHis_cans (f : Historian → Historian) (s : State) : (updHis f s).cans = s.cans := rfl
@[simp] theorem updHis_uarts (f : Historian → Historian) (s : State) : (updHis f s).uarts = s.uarts := rfl
@[simp] theorem updHis_super (f : Historian → Historian) (s : State) : (updHis f s).super = s.super := rfl
@[simp] theorem updHis_mail (f : Historian → Historian) (s : State) : (updHis f s).mail = s.mail := rfl
@[simp] theorem updHis_host (f : Historian → Historian) (s : State) : (updHis f s).host = s.host := rfl
@[simp] theorem updHis_recorder (f : Historian → Historian) (s : State) : (updHis f s).recorder = s.recorder := rfl
@[simp] theorem updHis_otp (f : Historian → Historian) (s : State) : (updHis f s).otp = s.otp := rfl
@[simp] theorem updHis_store (f : Historian → Historian) (s : State) : (updHis f s).store = s.store := rfl
@[simp] theorem updHis_flash (f : Historian → Historian) (s : State) : (updHis f s).flash = s.flash := rfl
@[simp] theorem updHis_sec (f : Historian → Historian) (s : State) : (updHis f s).sec = s.sec := rfl
@[simp] theorem updHis_upd (f : Historian → Historian) (s : State) : (updHis f s).upd = s.upd := rfl
@[simp] theorem updHis_pwr (f : Historian → Historian) (s : State) : (updHis f s).pwr = s.pwr := rfl
@[simp] theorem updHis_forceInd (f : Historian → Historian) (s : State) : (updHis f s).forceInd = s.forceInd := rfl
@[simp] theorem updHis_tapReset (f : Historian → Historian) (s : State) : (updHis f s).tapReset = s.tapReset := rfl
@[simp] theorem updHis_resp (f : Historian → Historian) (s : State) : (updHis f s).resp = s.resp := rfl
@[simp] theorem updHis_out (f : Historian → Historian) (s : State) : (updHis f s).out = s.out := rfl
@[simp] theorem updHis_free (f : Historian → Historian) (s : State) : (updHis f s).free = s.free := rfl
@[simp] theorem updHis_pending (f : Historian → Historian) (s : State) : (updHis f s).pending = s.pending := rfl

/-! `updRec` -/

@[simp] theorem updRec_recorder (f : Recorder → Recorder) (s : State) : (updRec f s).recorder = f s.recorder := rfl
@[simp] theorem updRec_part (f : Recorder → Recorder) (s : State) : (updRec f s).part = s.part := rfl
@[simp] theorem updRec_hdrs (f : Recorder → Recorder) (s : State) : (updRec f s).hdrs = s.hdrs := rfl
@[simp] theorem updRec_latches (f : Recorder → Recorder) (s : State) : (updRec f s).latches = s.latches := rfl
@[simp] theorem updRec_heldLow (f : Recorder → Recorder) (s : State) : (updRec f s).heldLow = s.heldLow := rfl
@[simp] theorem updRec_tb (f : Recorder → Recorder) (s : State) : (updRec f s).tb = s.tb := rfl
@[simp] theorem updRec_crests (f : Recorder → Recorder) (s : State) : (updRec f s).crests = s.crests := rfl
@[simp] theorem updRec_hub (f : Recorder → Recorder) (s : State) : (updRec f s).hub = s.hub := rfl
@[simp] theorem updRec_flitFails (f : Recorder → Recorder) (s : State) : (updRec f s).flitFails = s.flitFails := rfl
@[simp] theorem updRec_packets (f : Recorder → Recorder) (s : State) : (updRec f s).packets = s.packets := rfl
@[simp] theorem updRec_nextPacket (f : Recorder → Recorder) (s : State) : (updRec f s).nextPacket = s.nextPacket := rfl
@[simp] theorem updRec_opened (f : Recorder → Recorder) (s : State) : (updRec f s).opened = s.opened := rfl
@[simp] theorem updRec_pool (f : Recorder → Recorder) (s : State) : (updRec f s).pool = s.pool := rfl
@[simp] theorem updRec_sram (f : Recorder → Recorder) (s : State) : (updRec f s).sram = s.sram := rfl
@[simp] theorem updRec_staged (f : Recorder → Recorder) (s : State) : (updRec f s).staged = s.staged := rfl
@[simp] theorem updRec_sched (f : Recorder → Recorder) (s : State) : (updRec f s).sched = s.sched := rfl
@[simp] theorem updRec_run (f : Recorder → Recorder) (s : State) : (updRec f s).run = s.run := rfl
@[simp] theorem updRec_trio (f : Recorder → Recorder) (s : State) : (updRec f s).trio = s.trio := rfl
@[simp] theorem updRec_safety (f : Recorder → Recorder) (s : State) : (updRec f s).safety = s.safety := rfl
@[simp] theorem updRec_field (f : Recorder → Recorder) (s : State) : (updRec f s).field = s.field := rfl
@[simp] theorem updRec_panel (f : Recorder → Recorder) (s : State) : (updRec f s).panel = s.panel := rfl
@[simp] theorem updRec_ports (f : Recorder → Recorder) (s : State) : (updRec f s).ports = s.ports := rfl
@[simp] theorem updRec_cans (f : Recorder → Recorder) (s : State) : (updRec f s).cans = s.cans := rfl
@[simp] theorem updRec_uarts (f : Recorder → Recorder) (s : State) : (updRec f s).uarts = s.uarts := rfl
@[simp] theorem updRec_super (f : Recorder → Recorder) (s : State) : (updRec f s).super = s.super := rfl
@[simp] theorem updRec_mail (f : Recorder → Recorder) (s : State) : (updRec f s).mail = s.mail := rfl
@[simp] theorem updRec_host (f : Recorder → Recorder) (s : State) : (updRec f s).host = s.host := rfl
@[simp] theorem updRec_historian (f : Recorder → Recorder) (s : State) : (updRec f s).historian = s.historian := rfl
@[simp] theorem updRec_otp (f : Recorder → Recorder) (s : State) : (updRec f s).otp = s.otp := rfl
@[simp] theorem updRec_store (f : Recorder → Recorder) (s : State) : (updRec f s).store = s.store := rfl
@[simp] theorem updRec_flash (f : Recorder → Recorder) (s : State) : (updRec f s).flash = s.flash := rfl
@[simp] theorem updRec_sec (f : Recorder → Recorder) (s : State) : (updRec f s).sec = s.sec := rfl
@[simp] theorem updRec_upd (f : Recorder → Recorder) (s : State) : (updRec f s).upd = s.upd := rfl
@[simp] theorem updRec_pwr (f : Recorder → Recorder) (s : State) : (updRec f s).pwr = s.pwr := rfl
@[simp] theorem updRec_forceInd (f : Recorder → Recorder) (s : State) : (updRec f s).forceInd = s.forceInd := rfl
@[simp] theorem updRec_tapReset (f : Recorder → Recorder) (s : State) : (updRec f s).tapReset = s.tapReset := rfl
@[simp] theorem updRec_resp (f : Recorder → Recorder) (s : State) : (updRec f s).resp = s.resp := rfl
@[simp] theorem updRec_out (f : Recorder → Recorder) (s : State) : (updRec f s).out = s.out := rfl
@[simp] theorem updRec_free (f : Recorder → Recorder) (s : State) : (updRec f s).free = s.free := rfl
@[simp] theorem updRec_pending (f : Recorder → Recorder) (s : State) : (updRec f s).pending = s.pending := rfl

/-! `updSafety` -/

@[simp] theorem updSafety_safety (f : Safety → Safety) (s : State) : (updSafety f s).safety = f s.safety := rfl
@[simp] theorem updSafety_part (f : Safety → Safety) (s : State) : (updSafety f s).part = s.part := rfl
@[simp] theorem updSafety_hdrs (f : Safety → Safety) (s : State) : (updSafety f s).hdrs = s.hdrs := rfl
@[simp] theorem updSafety_latches (f : Safety → Safety) (s : State) : (updSafety f s).latches = s.latches := rfl
@[simp] theorem updSafety_heldLow (f : Safety → Safety) (s : State) : (updSafety f s).heldLow = s.heldLow := rfl
@[simp] theorem updSafety_tb (f : Safety → Safety) (s : State) : (updSafety f s).tb = s.tb := rfl
@[simp] theorem updSafety_crests (f : Safety → Safety) (s : State) : (updSafety f s).crests = s.crests := rfl
@[simp] theorem updSafety_hub (f : Safety → Safety) (s : State) : (updSafety f s).hub = s.hub := rfl
@[simp] theorem updSafety_flitFails (f : Safety → Safety) (s : State) : (updSafety f s).flitFails = s.flitFails := rfl
@[simp] theorem updSafety_packets (f : Safety → Safety) (s : State) : (updSafety f s).packets = s.packets := rfl
@[simp] theorem updSafety_nextPacket (f : Safety → Safety) (s : State) : (updSafety f s).nextPacket = s.nextPacket := rfl
@[simp] theorem updSafety_opened (f : Safety → Safety) (s : State) : (updSafety f s).opened = s.opened := rfl
@[simp] theorem updSafety_pool (f : Safety → Safety) (s : State) : (updSafety f s).pool = s.pool := rfl
@[simp] theorem updSafety_sram (f : Safety → Safety) (s : State) : (updSafety f s).sram = s.sram := rfl
@[simp] theorem updSafety_staged (f : Safety → Safety) (s : State) : (updSafety f s).staged = s.staged := rfl
@[simp] theorem updSafety_sched (f : Safety → Safety) (s : State) : (updSafety f s).sched = s.sched := rfl
@[simp] theorem updSafety_run (f : Safety → Safety) (s : State) : (updSafety f s).run = s.run := rfl
@[simp] theorem updSafety_trio (f : Safety → Safety) (s : State) : (updSafety f s).trio = s.trio := rfl
@[simp] theorem updSafety_field (f : Safety → Safety) (s : State) : (updSafety f s).field = s.field := rfl
@[simp] theorem updSafety_panel (f : Safety → Safety) (s : State) : (updSafety f s).panel = s.panel := rfl
@[simp] theorem updSafety_ports (f : Safety → Safety) (s : State) : (updSafety f s).ports = s.ports := rfl
@[simp] theorem updSafety_cans (f : Safety → Safety) (s : State) : (updSafety f s).cans = s.cans := rfl
@[simp] theorem updSafety_uarts (f : Safety → Safety) (s : State) : (updSafety f s).uarts = s.uarts := rfl
@[simp] theorem updSafety_super (f : Safety → Safety) (s : State) : (updSafety f s).super = s.super := rfl
@[simp] theorem updSafety_mail (f : Safety → Safety) (s : State) : (updSafety f s).mail = s.mail := rfl
@[simp] theorem updSafety_host (f : Safety → Safety) (s : State) : (updSafety f s).host = s.host := rfl
@[simp] theorem updSafety_recorder (f : Safety → Safety) (s : State) : (updSafety f s).recorder = s.recorder := rfl
@[simp] theorem updSafety_historian (f : Safety → Safety) (s : State) : (updSafety f s).historian = s.historian := rfl
@[simp] theorem updSafety_otp (f : Safety → Safety) (s : State) : (updSafety f s).otp = s.otp := rfl
@[simp] theorem updSafety_store (f : Safety → Safety) (s : State) : (updSafety f s).store = s.store := rfl
@[simp] theorem updSafety_flash (f : Safety → Safety) (s : State) : (updSafety f s).flash = s.flash := rfl
@[simp] theorem updSafety_sec (f : Safety → Safety) (s : State) : (updSafety f s).sec = s.sec := rfl
@[simp] theorem updSafety_upd (f : Safety → Safety) (s : State) : (updSafety f s).upd = s.upd := rfl
@[simp] theorem updSafety_pwr (f : Safety → Safety) (s : State) : (updSafety f s).pwr = s.pwr := rfl
@[simp] theorem updSafety_forceInd (f : Safety → Safety) (s : State) : (updSafety f s).forceInd = s.forceInd := rfl
@[simp] theorem updSafety_tapReset (f : Safety → Safety) (s : State) : (updSafety f s).tapReset = s.tapReset := rfl
@[simp] theorem updSafety_resp (f : Safety → Safety) (s : State) : (updSafety f s).resp = s.resp := rfl
@[simp] theorem updSafety_out (f : Safety → Safety) (s : State) : (updSafety f s).out = s.out := rfl
@[simp] theorem updSafety_free (f : Safety → Safety) (s : State) : (updSafety f s).free = s.free := rfl
@[simp] theorem updSafety_pending (f : Safety → Safety) (s : State) : (updSafety f s).pending = s.pending := rfl

/-! `updConn` -/

@[simp] theorem updConn_part (n : Fin 256) (f : ConnRt → ConnRt) (s : State) : (updConn n f s).part = s.part := rfl
@[simp] theorem updConn_hdrs (n : Fin 256) (f : ConnRt → ConnRt) (s : State) : (updConn n f s).hdrs = s.hdrs := rfl
@[simp] theorem updConn_latches (n : Fin 256) (f : ConnRt → ConnRt) (s : State) : (updConn n f s).latches = s.latches := rfl
@[simp] theorem updConn_heldLow (n : Fin 256) (f : ConnRt → ConnRt) (s : State) : (updConn n f s).heldLow = s.heldLow := rfl
@[simp] theorem updConn_tb (n : Fin 256) (f : ConnRt → ConnRt) (s : State) : (updConn n f s).tb = s.tb := rfl
@[simp] theorem updConn_crests (n : Fin 256) (f : ConnRt → ConnRt) (s : State) : (updConn n f s).crests = s.crests := rfl
@[simp] theorem updConn_hub (n : Fin 256) (f : ConnRt → ConnRt) (s : State) : (updConn n f s).hub = s.hub := rfl
@[simp] theorem updConn_flitFails (n : Fin 256) (f : ConnRt → ConnRt) (s : State) : (updConn n f s).flitFails = s.flitFails := rfl
@[simp] theorem updConn_packets (n : Fin 256) (f : ConnRt → ConnRt) (s : State) : (updConn n f s).packets = s.packets := rfl
@[simp] theorem updConn_nextPacket (n : Fin 256) (f : ConnRt → ConnRt) (s : State) : (updConn n f s).nextPacket = s.nextPacket := rfl
@[simp] theorem updConn_opened (n : Fin 256) (f : ConnRt → ConnRt) (s : State) : (updConn n f s).opened = s.opened := rfl
@[simp] theorem updConn_pool (n : Fin 256) (f : ConnRt → ConnRt) (s : State) : (updConn n f s).pool = s.pool := rfl
@[simp] theorem updConn_sram (n : Fin 256) (f : ConnRt → ConnRt) (s : State) : (updConn n f s).sram = s.sram := rfl
@[simp] theorem updConn_staged (n : Fin 256) (f : ConnRt → ConnRt) (s : State) : (updConn n f s).staged = s.staged := rfl
@[simp] theorem updConn_sched (n : Fin 256) (f : ConnRt → ConnRt) (s : State) : (updConn n f s).sched = s.sched := rfl
@[simp] theorem updConn_run (n : Fin 256) (f : ConnRt → ConnRt) (s : State) : (updConn n f s).run = s.run := rfl
@[simp] theorem updConn_trio (n : Fin 256) (f : ConnRt → ConnRt) (s : State) : (updConn n f s).trio = s.trio := rfl
@[simp] theorem updConn_field (n : Fin 256) (f : ConnRt → ConnRt) (s : State) : (updConn n f s).field = s.field := rfl
@[simp] theorem updConn_panel (n : Fin 256) (f : ConnRt → ConnRt) (s : State) : (updConn n f s).panel = s.panel := rfl
@[simp] theorem updConn_ports (n : Fin 256) (f : ConnRt → ConnRt) (s : State) : (updConn n f s).ports = s.ports := rfl
@[simp] theorem updConn_cans (n : Fin 256) (f : ConnRt → ConnRt) (s : State) : (updConn n f s).cans = s.cans := rfl
@[simp] theorem updConn_uarts (n : Fin 256) (f : ConnRt → ConnRt) (s : State) : (updConn n f s).uarts = s.uarts := rfl
@[simp] theorem updConn_super (n : Fin 256) (f : ConnRt → ConnRt) (s : State) : (updConn n f s).super = s.super := rfl
@[simp] theorem updConn_mail (n : Fin 256) (f : ConnRt → ConnRt) (s : State) : (updConn n f s).mail = s.mail := rfl
@[simp] theorem updConn_host (n : Fin 256) (f : ConnRt → ConnRt) (s : State) : (updConn n f s).host = s.host := rfl
@[simp] theorem updConn_recorder (n : Fin 256) (f : ConnRt → ConnRt) (s : State) : (updConn n f s).recorder = s.recorder := rfl
@[simp] theorem updConn_historian (n : Fin 256) (f : ConnRt → ConnRt) (s : State) : (updConn n f s).historian = s.historian := rfl
@[simp] theorem updConn_otp (n : Fin 256) (f : ConnRt → ConnRt) (s : State) : (updConn n f s).otp = s.otp := rfl
@[simp] theorem updConn_store (n : Fin 256) (f : ConnRt → ConnRt) (s : State) : (updConn n f s).store = s.store := rfl
@[simp] theorem updConn_flash (n : Fin 256) (f : ConnRt → ConnRt) (s : State) : (updConn n f s).flash = s.flash := rfl
@[simp] theorem updConn_sec (n : Fin 256) (f : ConnRt → ConnRt) (s : State) : (updConn n f s).sec = s.sec := rfl
@[simp] theorem updConn_upd (n : Fin 256) (f : ConnRt → ConnRt) (s : State) : (updConn n f s).upd = s.upd := rfl
@[simp] theorem updConn_pwr (n : Fin 256) (f : ConnRt → ConnRt) (s : State) : (updConn n f s).pwr = s.pwr := rfl
@[simp] theorem updConn_forceInd (n : Fin 256) (f : ConnRt → ConnRt) (s : State) : (updConn n f s).forceInd = s.forceInd := rfl
@[simp] theorem updConn_tapReset (n : Fin 256) (f : ConnRt → ConnRt) (s : State) : (updConn n f s).tapReset = s.tapReset := rfl
@[simp] theorem updConn_resp (n : Fin 256) (f : ConnRt → ConnRt) (s : State) : (updConn n f s).resp = s.resp := rfl
@[simp] theorem updConn_out (n : Fin 256) (f : ConnRt → ConnRt) (s : State) : (updConn n f s).out = s.out := rfl
@[simp] theorem updConn_free (n : Fin 256) (f : ConnRt → ConnRt) (s : State) : (updConn n f s).free = s.free := rfl
@[simp] theorem updConn_pending (n : Fin 256) (f : ConnRt → ConnRt) (s : State) : (updConn n f s).pending = s.pending := rfl

/-! `updStation` -/

@[simp] theorem updStation_part (n : Fin 256) (f : StationRt → StationRt) (s : State) : (updStation n f s).part = s.part := rfl
@[simp] theorem updStation_hdrs (n : Fin 256) (f : StationRt → StationRt) (s : State) : (updStation n f s).hdrs = s.hdrs := rfl
@[simp] theorem updStation_latches (n : Fin 256) (f : StationRt → StationRt) (s : State) : (updStation n f s).latches = s.latches := rfl
@[simp] theorem updStation_heldLow (n : Fin 256) (f : StationRt → StationRt) (s : State) : (updStation n f s).heldLow = s.heldLow := rfl
@[simp] theorem updStation_tb (n : Fin 256) (f : StationRt → StationRt) (s : State) : (updStation n f s).tb = s.tb := rfl
@[simp] theorem updStation_crests (n : Fin 256) (f : StationRt → StationRt) (s : State) : (updStation n f s).crests = s.crests := rfl
@[simp] theorem updStation_hub (n : Fin 256) (f : StationRt → StationRt) (s : State) : (updStation n f s).hub = s.hub := rfl
@[simp] theorem updStation_flitFails (n : Fin 256) (f : StationRt → StationRt) (s : State) : (updStation n f s).flitFails = s.flitFails := rfl
@[simp] theorem updStation_packets (n : Fin 256) (f : StationRt → StationRt) (s : State) : (updStation n f s).packets = s.packets := rfl
@[simp] theorem updStation_nextPacket (n : Fin 256) (f : StationRt → StationRt) (s : State) : (updStation n f s).nextPacket = s.nextPacket := rfl
@[simp] theorem updStation_opened (n : Fin 256) (f : StationRt → StationRt) (s : State) : (updStation n f s).opened = s.opened := rfl
@[simp] theorem updStation_pool (n : Fin 256) (f : StationRt → StationRt) (s : State) : (updStation n f s).pool = s.pool := rfl
@[simp] theorem updStation_sram (n : Fin 256) (f : StationRt → StationRt) (s : State) : (updStation n f s).sram = s.sram := rfl
@[simp] theorem updStation_staged (n : Fin 256) (f : StationRt → StationRt) (s : State) : (updStation n f s).staged = s.staged := rfl
@[simp] theorem updStation_sched (n : Fin 256) (f : StationRt → StationRt) (s : State) : (updStation n f s).sched = s.sched := rfl
@[simp] theorem updStation_trio (n : Fin 256) (f : StationRt → StationRt) (s : State) : (updStation n f s).trio = s.trio := rfl
@[simp] theorem updStation_safety (n : Fin 256) (f : StationRt → StationRt) (s : State) : (updStation n f s).safety = s.safety := rfl
@[simp] theorem updStation_field (n : Fin 256) (f : StationRt → StationRt) (s : State) : (updStation n f s).field = s.field := rfl
@[simp] theorem updStation_panel (n : Fin 256) (f : StationRt → StationRt) (s : State) : (updStation n f s).panel = s.panel := rfl
@[simp] theorem updStation_ports (n : Fin 256) (f : StationRt → StationRt) (s : State) : (updStation n f s).ports = s.ports := rfl
@[simp] theorem updStation_cans (n : Fin 256) (f : StationRt → StationRt) (s : State) : (updStation n f s).cans = s.cans := rfl
@[simp] theorem updStation_uarts (n : Fin 256) (f : StationRt → StationRt) (s : State) : (updStation n f s).uarts = s.uarts := rfl
@[simp] theorem updStation_super (n : Fin 256) (f : StationRt → StationRt) (s : State) : (updStation n f s).super = s.super := rfl
@[simp] theorem updStation_mail (n : Fin 256) (f : StationRt → StationRt) (s : State) : (updStation n f s).mail = s.mail := rfl
@[simp] theorem updStation_host (n : Fin 256) (f : StationRt → StationRt) (s : State) : (updStation n f s).host = s.host := rfl
@[simp] theorem updStation_recorder (n : Fin 256) (f : StationRt → StationRt) (s : State) : (updStation n f s).recorder = s.recorder := rfl
@[simp] theorem updStation_historian (n : Fin 256) (f : StationRt → StationRt) (s : State) : (updStation n f s).historian = s.historian := rfl
@[simp] theorem updStation_otp (n : Fin 256) (f : StationRt → StationRt) (s : State) : (updStation n f s).otp = s.otp := rfl
@[simp] theorem updStation_store (n : Fin 256) (f : StationRt → StationRt) (s : State) : (updStation n f s).store = s.store := rfl
@[simp] theorem updStation_flash (n : Fin 256) (f : StationRt → StationRt) (s : State) : (updStation n f s).flash = s.flash := rfl
@[simp] theorem updStation_sec (n : Fin 256) (f : StationRt → StationRt) (s : State) : (updStation n f s).sec = s.sec := rfl
@[simp] theorem updStation_upd (n : Fin 256) (f : StationRt → StationRt) (s : State) : (updStation n f s).upd = s.upd := rfl
@[simp] theorem updStation_pwr (n : Fin 256) (f : StationRt → StationRt) (s : State) : (updStation n f s).pwr = s.pwr := rfl
@[simp] theorem updStation_forceInd (n : Fin 256) (f : StationRt → StationRt) (s : State) : (updStation n f s).forceInd = s.forceInd := rfl
@[simp] theorem updStation_tapReset (n : Fin 256) (f : StationRt → StationRt) (s : State) : (updStation n f s).tapReset = s.tapReset := rfl
@[simp] theorem updStation_resp (n : Fin 256) (f : StationRt → StationRt) (s : State) : (updStation n f s).resp = s.resp := rfl
@[simp] theorem updStation_out (n : Fin 256) (f : StationRt → StationRt) (s : State) : (updStation n f s).out = s.out := rfl
@[simp] theorem updStation_free (n : Fin 256) (f : StationRt → StationRt) (s : State) : (updStation n f s).free = s.free := rfl
@[simp] theorem updStation_pending (n : Fin 256) (f : StationRt → StationRt) (s : State) : (updStation n f s).pending = s.pending := rfl

/-! `updEth` -/

@[simp] theorem updEth_part (p : Fin 8) (f : EthPort → EthPort) (s : State) : (updEth p f s).part = s.part := rfl
@[simp] theorem updEth_hdrs (p : Fin 8) (f : EthPort → EthPort) (s : State) : (updEth p f s).hdrs = s.hdrs := rfl
@[simp] theorem updEth_latches (p : Fin 8) (f : EthPort → EthPort) (s : State) : (updEth p f s).latches = s.latches := rfl
@[simp] theorem updEth_heldLow (p : Fin 8) (f : EthPort → EthPort) (s : State) : (updEth p f s).heldLow = s.heldLow := rfl
@[simp] theorem updEth_tb (p : Fin 8) (f : EthPort → EthPort) (s : State) : (updEth p f s).tb = s.tb := rfl
@[simp] theorem updEth_crests (p : Fin 8) (f : EthPort → EthPort) (s : State) : (updEth p f s).crests = s.crests := rfl
@[simp] theorem updEth_hub (p : Fin 8) (f : EthPort → EthPort) (s : State) : (updEth p f s).hub = s.hub := rfl
@[simp] theorem updEth_flitFails (p : Fin 8) (f : EthPort → EthPort) (s : State) : (updEth p f s).flitFails = s.flitFails := rfl
@[simp] theorem updEth_packets (p : Fin 8) (f : EthPort → EthPort) (s : State) : (updEth p f s).packets = s.packets := rfl
@[simp] theorem updEth_nextPacket (p : Fin 8) (f : EthPort → EthPort) (s : State) : (updEth p f s).nextPacket = s.nextPacket := rfl
@[simp] theorem updEth_opened (p : Fin 8) (f : EthPort → EthPort) (s : State) : (updEth p f s).opened = s.opened := rfl
@[simp] theorem updEth_pool (p : Fin 8) (f : EthPort → EthPort) (s : State) : (updEth p f s).pool = s.pool := rfl
@[simp] theorem updEth_sram (p : Fin 8) (f : EthPort → EthPort) (s : State) : (updEth p f s).sram = s.sram := rfl
@[simp] theorem updEth_staged (p : Fin 8) (f : EthPort → EthPort) (s : State) : (updEth p f s).staged = s.staged := rfl
@[simp] theorem updEth_sched (p : Fin 8) (f : EthPort → EthPort) (s : State) : (updEth p f s).sched = s.sched := rfl
@[simp] theorem updEth_run (p : Fin 8) (f : EthPort → EthPort) (s : State) : (updEth p f s).run = s.run := rfl
@[simp] theorem updEth_trio (p : Fin 8) (f : EthPort → EthPort) (s : State) : (updEth p f s).trio = s.trio := rfl
@[simp] theorem updEth_safety (p : Fin 8) (f : EthPort → EthPort) (s : State) : (updEth p f s).safety = s.safety := rfl
@[simp] theorem updEth_field (p : Fin 8) (f : EthPort → EthPort) (s : State) : (updEth p f s).field = s.field := rfl
@[simp] theorem updEth_panel (p : Fin 8) (f : EthPort → EthPort) (s : State) : (updEth p f s).panel = s.panel := rfl
@[simp] theorem updEth_cans (p : Fin 8) (f : EthPort → EthPort) (s : State) : (updEth p f s).cans = s.cans := rfl
@[simp] theorem updEth_uarts (p : Fin 8) (f : EthPort → EthPort) (s : State) : (updEth p f s).uarts = s.uarts := rfl
@[simp] theorem updEth_super (p : Fin 8) (f : EthPort → EthPort) (s : State) : (updEth p f s).super = s.super := rfl
@[simp] theorem updEth_mail (p : Fin 8) (f : EthPort → EthPort) (s : State) : (updEth p f s).mail = s.mail := rfl
@[simp] theorem updEth_host (p : Fin 8) (f : EthPort → EthPort) (s : State) : (updEth p f s).host = s.host := rfl
@[simp] theorem updEth_recorder (p : Fin 8) (f : EthPort → EthPort) (s : State) : (updEth p f s).recorder = s.recorder := rfl
@[simp] theorem updEth_historian (p : Fin 8) (f : EthPort → EthPort) (s : State) : (updEth p f s).historian = s.historian := rfl
@[simp] theorem updEth_otp (p : Fin 8) (f : EthPort → EthPort) (s : State) : (updEth p f s).otp = s.otp := rfl
@[simp] theorem updEth_store (p : Fin 8) (f : EthPort → EthPort) (s : State) : (updEth p f s).store = s.store := rfl
@[simp] theorem updEth_flash (p : Fin 8) (f : EthPort → EthPort) (s : State) : (updEth p f s).flash = s.flash := rfl
@[simp] theorem updEth_sec (p : Fin 8) (f : EthPort → EthPort) (s : State) : (updEth p f s).sec = s.sec := rfl
@[simp] theorem updEth_upd (p : Fin 8) (f : EthPort → EthPort) (s : State) : (updEth p f s).upd = s.upd := rfl
@[simp] theorem updEth_pwr (p : Fin 8) (f : EthPort → EthPort) (s : State) : (updEth p f s).pwr = s.pwr := rfl
@[simp] theorem updEth_forceInd (p : Fin 8) (f : EthPort → EthPort) (s : State) : (updEth p f s).forceInd = s.forceInd := rfl
@[simp] theorem updEth_tapReset (p : Fin 8) (f : EthPort → EthPort) (s : State) : (updEth p f s).tapReset = s.tapReset := rfl
@[simp] theorem updEth_resp (p : Fin 8) (f : EthPort → EthPort) (s : State) : (updEth p f s).resp = s.resp := rfl
@[simp] theorem updEth_out (p : Fin 8) (f : EthPort → EthPort) (s : State) : (updEth p f s).out = s.out := rfl
@[simp] theorem updEth_free (p : Fin 8) (f : EthPort → EthPort) (s : State) : (updEth p f s).free = s.free := rfl
@[simp] theorem updEth_pending (p : Fin 8) (f : EthPort → EthPort) (s : State) : (updEth p f s).pending = s.pending := rfl

/-! `updPartner` -/

@[simp] theorem updPartner_part (m : Fin 3) (f : Partner → Partner) (s : State) : (updPartner m f s).part = s.part := rfl
@[simp] theorem updPartner_hdrs (m : Fin 3) (f : Partner → Partner) (s : State) : (updPartner m f s).hdrs = s.hdrs := rfl
@[simp] theorem updPartner_latches (m : Fin 3) (f : Partner → Partner) (s : State) : (updPartner m f s).latches = s.latches := rfl
@[simp] theorem updPartner_heldLow (m : Fin 3) (f : Partner → Partner) (s : State) : (updPartner m f s).heldLow = s.heldLow := rfl
@[simp] theorem updPartner_tb (m : Fin 3) (f : Partner → Partner) (s : State) : (updPartner m f s).tb = s.tb := rfl
@[simp] theorem updPartner_crests (m : Fin 3) (f : Partner → Partner) (s : State) : (updPartner m f s).crests = s.crests := rfl
@[simp] theorem updPartner_hub (m : Fin 3) (f : Partner → Partner) (s : State) : (updPartner m f s).hub = s.hub := rfl
@[simp] theorem updPartner_flitFails (m : Fin 3) (f : Partner → Partner) (s : State) : (updPartner m f s).flitFails = s.flitFails := rfl
@[simp] theorem updPartner_packets (m : Fin 3) (f : Partner → Partner) (s : State) : (updPartner m f s).packets = s.packets := rfl
@[simp] theorem updPartner_nextPacket (m : Fin 3) (f : Partner → Partner) (s : State) : (updPartner m f s).nextPacket = s.nextPacket := rfl
@[simp] theorem updPartner_opened (m : Fin 3) (f : Partner → Partner) (s : State) : (updPartner m f s).opened = s.opened := rfl
@[simp] theorem updPartner_pool (m : Fin 3) (f : Partner → Partner) (s : State) : (updPartner m f s).pool = s.pool := rfl
@[simp] theorem updPartner_sram (m : Fin 3) (f : Partner → Partner) (s : State) : (updPartner m f s).sram = s.sram := rfl
@[simp] theorem updPartner_staged (m : Fin 3) (f : Partner → Partner) (s : State) : (updPartner m f s).staged = s.staged := rfl
@[simp] theorem updPartner_sched (m : Fin 3) (f : Partner → Partner) (s : State) : (updPartner m f s).sched = s.sched := rfl
@[simp] theorem updPartner_run (m : Fin 3) (f : Partner → Partner) (s : State) : (updPartner m f s).run = s.run := rfl
@[simp] theorem updPartner_safety (m : Fin 3) (f : Partner → Partner) (s : State) : (updPartner m f s).safety = s.safety := rfl
@[simp] theorem updPartner_field (m : Fin 3) (f : Partner → Partner) (s : State) : (updPartner m f s).field = s.field := rfl
@[simp] theorem updPartner_panel (m : Fin 3) (f : Partner → Partner) (s : State) : (updPartner m f s).panel = s.panel := rfl
@[simp] theorem updPartner_ports (m : Fin 3) (f : Partner → Partner) (s : State) : (updPartner m f s).ports = s.ports := rfl
@[simp] theorem updPartner_cans (m : Fin 3) (f : Partner → Partner) (s : State) : (updPartner m f s).cans = s.cans := rfl
@[simp] theorem updPartner_uarts (m : Fin 3) (f : Partner → Partner) (s : State) : (updPartner m f s).uarts = s.uarts := rfl
@[simp] theorem updPartner_super (m : Fin 3) (f : Partner → Partner) (s : State) : (updPartner m f s).super = s.super := rfl
@[simp] theorem updPartner_mail (m : Fin 3) (f : Partner → Partner) (s : State) : (updPartner m f s).mail = s.mail := rfl
@[simp] theorem updPartner_host (m : Fin 3) (f : Partner → Partner) (s : State) : (updPartner m f s).host = s.host := rfl
@[simp] theorem updPartner_recorder (m : Fin 3) (f : Partner → Partner) (s : State) : (updPartner m f s).recorder = s.recorder := rfl
@[simp] theorem updPartner_historian (m : Fin 3) (f : Partner → Partner) (s : State) : (updPartner m f s).historian = s.historian := rfl
@[simp] theorem updPartner_otp (m : Fin 3) (f : Partner → Partner) (s : State) : (updPartner m f s).otp = s.otp := rfl
@[simp] theorem updPartner_store (m : Fin 3) (f : Partner → Partner) (s : State) : (updPartner m f s).store = s.store := rfl
@[simp] theorem updPartner_flash (m : Fin 3) (f : Partner → Partner) (s : State) : (updPartner m f s).flash = s.flash := rfl
@[simp] theorem updPartner_sec (m : Fin 3) (f : Partner → Partner) (s : State) : (updPartner m f s).sec = s.sec := rfl
@[simp] theorem updPartner_upd (m : Fin 3) (f : Partner → Partner) (s : State) : (updPartner m f s).upd = s.upd := rfl
@[simp] theorem updPartner_pwr (m : Fin 3) (f : Partner → Partner) (s : State) : (updPartner m f s).pwr = s.pwr := rfl
@[simp] theorem updPartner_forceInd (m : Fin 3) (f : Partner → Partner) (s : State) : (updPartner m f s).forceInd = s.forceInd := rfl
@[simp] theorem updPartner_tapReset (m : Fin 3) (f : Partner → Partner) (s : State) : (updPartner m f s).tapReset = s.tapReset := rfl
@[simp] theorem updPartner_resp (m : Fin 3) (f : Partner → Partner) (s : State) : (updPartner m f s).resp = s.resp := rfl
@[simp] theorem updPartner_out (m : Fin 3) (f : Partner → Partner) (s : State) : (updPartner m f s).out = s.out := rfl
@[simp] theorem updPartner_free (m : Fin 3) (f : Partner → Partner) (s : State) : (updPartner m f s).free = s.free := rfl
@[simp] theorem updPartner_pending (m : Fin 3) (f : Partner → Partner) (s : State) : (updPartner m f s).pending = s.pending := rfl

/-! `updTask` -/

@[simp] theorem updTask_part (ten : BitVec 3) (tsk : BitVec 8) (f : TaskRt → TaskRt) (s : State) : (updTask ten tsk f s).part = s.part := rfl
@[simp] theorem updTask_hdrs (ten : BitVec 3) (tsk : BitVec 8) (f : TaskRt → TaskRt) (s : State) : (updTask ten tsk f s).hdrs = s.hdrs := rfl
@[simp] theorem updTask_latches (ten : BitVec 3) (tsk : BitVec 8) (f : TaskRt → TaskRt) (s : State) : (updTask ten tsk f s).latches = s.latches := rfl
@[simp] theorem updTask_heldLow (ten : BitVec 3) (tsk : BitVec 8) (f : TaskRt → TaskRt) (s : State) : (updTask ten tsk f s).heldLow = s.heldLow := rfl
@[simp] theorem updTask_tb (ten : BitVec 3) (tsk : BitVec 8) (f : TaskRt → TaskRt) (s : State) : (updTask ten tsk f s).tb = s.tb := rfl
@[simp] theorem updTask_crests (ten : BitVec 3) (tsk : BitVec 8) (f : TaskRt → TaskRt) (s : State) : (updTask ten tsk f s).crests = s.crests := rfl
@[simp] theorem updTask_hub (ten : BitVec 3) (tsk : BitVec 8) (f : TaskRt → TaskRt) (s : State) : (updTask ten tsk f s).hub = s.hub := rfl
@[simp] theorem updTask_flitFails (ten : BitVec 3) (tsk : BitVec 8) (f : TaskRt → TaskRt) (s : State) : (updTask ten tsk f s).flitFails = s.flitFails := rfl
@[simp] theorem updTask_packets (ten : BitVec 3) (tsk : BitVec 8) (f : TaskRt → TaskRt) (s : State) : (updTask ten tsk f s).packets = s.packets := rfl
@[simp] theorem updTask_nextPacket (ten : BitVec 3) (tsk : BitVec 8) (f : TaskRt → TaskRt) (s : State) : (updTask ten tsk f s).nextPacket = s.nextPacket := rfl
@[simp] theorem updTask_opened (ten : BitVec 3) (tsk : BitVec 8) (f : TaskRt → TaskRt) (s : State) : (updTask ten tsk f s).opened = s.opened := rfl
@[simp] theorem updTask_pool (ten : BitVec 3) (tsk : BitVec 8) (f : TaskRt → TaskRt) (s : State) : (updTask ten tsk f s).pool = s.pool := rfl
@[simp] theorem updTask_sram (ten : BitVec 3) (tsk : BitVec 8) (f : TaskRt → TaskRt) (s : State) : (updTask ten tsk f s).sram = s.sram := rfl
@[simp] theorem updTask_staged (ten : BitVec 3) (tsk : BitVec 8) (f : TaskRt → TaskRt) (s : State) : (updTask ten tsk f s).staged = s.staged := rfl
@[simp] theorem updTask_sched (ten : BitVec 3) (tsk : BitVec 8) (f : TaskRt → TaskRt) (s : State) : (updTask ten tsk f s).sched = s.sched := rfl
@[simp] theorem updTask_trio (ten : BitVec 3) (tsk : BitVec 8) (f : TaskRt → TaskRt) (s : State) : (updTask ten tsk f s).trio = s.trio := rfl
@[simp] theorem updTask_safety (ten : BitVec 3) (tsk : BitVec 8) (f : TaskRt → TaskRt) (s : State) : (updTask ten tsk f s).safety = s.safety := rfl
@[simp] theorem updTask_field (ten : BitVec 3) (tsk : BitVec 8) (f : TaskRt → TaskRt) (s : State) : (updTask ten tsk f s).field = s.field := rfl
@[simp] theorem updTask_panel (ten : BitVec 3) (tsk : BitVec 8) (f : TaskRt → TaskRt) (s : State) : (updTask ten tsk f s).panel = s.panel := rfl
@[simp] theorem updTask_ports (ten : BitVec 3) (tsk : BitVec 8) (f : TaskRt → TaskRt) (s : State) : (updTask ten tsk f s).ports = s.ports := rfl
@[simp] theorem updTask_cans (ten : BitVec 3) (tsk : BitVec 8) (f : TaskRt → TaskRt) (s : State) : (updTask ten tsk f s).cans = s.cans := rfl
@[simp] theorem updTask_uarts (ten : BitVec 3) (tsk : BitVec 8) (f : TaskRt → TaskRt) (s : State) : (updTask ten tsk f s).uarts = s.uarts := rfl
@[simp] theorem updTask_super (ten : BitVec 3) (tsk : BitVec 8) (f : TaskRt → TaskRt) (s : State) : (updTask ten tsk f s).super = s.super := rfl
@[simp] theorem updTask_mail (ten : BitVec 3) (tsk : BitVec 8) (f : TaskRt → TaskRt) (s : State) : (updTask ten tsk f s).mail = s.mail := rfl
@[simp] theorem updTask_host (ten : BitVec 3) (tsk : BitVec 8) (f : TaskRt → TaskRt) (s : State) : (updTask ten tsk f s).host = s.host := rfl
@[simp] theorem updTask_recorder (ten : BitVec 3) (tsk : BitVec 8) (f : TaskRt → TaskRt) (s : State) : (updTask ten tsk f s).recorder = s.recorder := rfl
@[simp] theorem updTask_historian (ten : BitVec 3) (tsk : BitVec 8) (f : TaskRt → TaskRt) (s : State) : (updTask ten tsk f s).historian = s.historian := rfl
@[simp] theorem updTask_otp (ten : BitVec 3) (tsk : BitVec 8) (f : TaskRt → TaskRt) (s : State) : (updTask ten tsk f s).otp = s.otp := rfl
@[simp] theorem updTask_store (ten : BitVec 3) (tsk : BitVec 8) (f : TaskRt → TaskRt) (s : State) : (updTask ten tsk f s).store = s.store := rfl
@[simp] theorem updTask_flash (ten : BitVec 3) (tsk : BitVec 8) (f : TaskRt → TaskRt) (s : State) : (updTask ten tsk f s).flash = s.flash := rfl
@[simp] theorem updTask_sec (ten : BitVec 3) (tsk : BitVec 8) (f : TaskRt → TaskRt) (s : State) : (updTask ten tsk f s).sec = s.sec := rfl
@[simp] theorem updTask_upd (ten : BitVec 3) (tsk : BitVec 8) (f : TaskRt → TaskRt) (s : State) : (updTask ten tsk f s).upd = s.upd := rfl
@[simp] theorem updTask_pwr (ten : BitVec 3) (tsk : BitVec 8) (f : TaskRt → TaskRt) (s : State) : (updTask ten tsk f s).pwr = s.pwr := rfl
@[simp] theorem updTask_forceInd (ten : BitVec 3) (tsk : BitVec 8) (f : TaskRt → TaskRt) (s : State) : (updTask ten tsk f s).forceInd = s.forceInd := rfl
@[simp] theorem updTask_tapReset (ten : BitVec 3) (tsk : BitVec 8) (f : TaskRt → TaskRt) (s : State) : (updTask ten tsk f s).tapReset = s.tapReset := rfl
@[simp] theorem updTask_resp (ten : BitVec 3) (tsk : BitVec 8) (f : TaskRt → TaskRt) (s : State) : (updTask ten tsk f s).resp = s.resp := rfl
@[simp] theorem updTask_out (ten : BitVec 3) (tsk : BitVec 8) (f : TaskRt → TaskRt) (s : State) : (updTask ten tsk f s).out = s.out := rfl
@[simp] theorem updTask_free (ten : BitVec 3) (tsk : BitVec 8) (f : TaskRt → TaskRt) (s : State) : (updTask ten tsk f s).free = s.free := rfl
@[simp] theorem updTask_pending (ten : BitVec 3) (tsk : BitVec 8) (f : TaskRt → TaskRt) (s : State) : (updTask ten tsk f s).pending = s.pending := rfl

/-! `updFunc` -/

@[simp] theorem updFunc_part (i : Fin 256) (f : FuncRt → FuncRt) (s : State) : (updFunc i f s).part = s.part := rfl
@[simp] theorem updFunc_hdrs (i : Fin 256) (f : FuncRt → FuncRt) (s : State) : (updFunc i f s).hdrs = s.hdrs := rfl
@[simp] theorem updFunc_latches (i : Fin 256) (f : FuncRt → FuncRt) (s : State) : (updFunc i f s).latches = s.latches := rfl
@[simp] theorem updFunc_heldLow (i : Fin 256) (f : FuncRt → FuncRt) (s : State) : (updFunc i f s).heldLow = s.heldLow := rfl
@[simp] theorem updFunc_tb (i : Fin 256) (f : FuncRt → FuncRt) (s : State) : (updFunc i f s).tb = s.tb := rfl
@[simp] theorem updFunc_crests (i : Fin 256) (f : FuncRt → FuncRt) (s : State) : (updFunc i f s).crests = s.crests := rfl
@[simp] theorem updFunc_hub (i : Fin 256) (f : FuncRt → FuncRt) (s : State) : (updFunc i f s).hub = s.hub := rfl
@[simp] theorem updFunc_flitFails (i : Fin 256) (f : FuncRt → FuncRt) (s : State) : (updFunc i f s).flitFails = s.flitFails := rfl
@[simp] theorem updFunc_packets (i : Fin 256) (f : FuncRt → FuncRt) (s : State) : (updFunc i f s).packets = s.packets := rfl
@[simp] theorem updFunc_nextPacket (i : Fin 256) (f : FuncRt → FuncRt) (s : State) : (updFunc i f s).nextPacket = s.nextPacket := rfl
@[simp] theorem updFunc_opened (i : Fin 256) (f : FuncRt → FuncRt) (s : State) : (updFunc i f s).opened = s.opened := rfl
@[simp] theorem updFunc_pool (i : Fin 256) (f : FuncRt → FuncRt) (s : State) : (updFunc i f s).pool = s.pool := rfl
@[simp] theorem updFunc_sram (i : Fin 256) (f : FuncRt → FuncRt) (s : State) : (updFunc i f s).sram = s.sram := rfl
@[simp] theorem updFunc_staged (i : Fin 256) (f : FuncRt → FuncRt) (s : State) : (updFunc i f s).staged = s.staged := rfl
@[simp] theorem updFunc_sched (i : Fin 256) (f : FuncRt → FuncRt) (s : State) : (updFunc i f s).sched = s.sched := rfl
@[simp] theorem updFunc_run (i : Fin 256) (f : FuncRt → FuncRt) (s : State) : (updFunc i f s).run = s.run := rfl
@[simp] theorem updFunc_trio (i : Fin 256) (f : FuncRt → FuncRt) (s : State) : (updFunc i f s).trio = s.trio := rfl
@[simp] theorem updFunc_field (i : Fin 256) (f : FuncRt → FuncRt) (s : State) : (updFunc i f s).field = s.field := rfl
@[simp] theorem updFunc_panel (i : Fin 256) (f : FuncRt → FuncRt) (s : State) : (updFunc i f s).panel = s.panel := rfl
@[simp] theorem updFunc_ports (i : Fin 256) (f : FuncRt → FuncRt) (s : State) : (updFunc i f s).ports = s.ports := rfl
@[simp] theorem updFunc_cans (i : Fin 256) (f : FuncRt → FuncRt) (s : State) : (updFunc i f s).cans = s.cans := rfl
@[simp] theorem updFunc_uarts (i : Fin 256) (f : FuncRt → FuncRt) (s : State) : (updFunc i f s).uarts = s.uarts := rfl
@[simp] theorem updFunc_super (i : Fin 256) (f : FuncRt → FuncRt) (s : State) : (updFunc i f s).super = s.super := rfl
@[simp] theorem updFunc_mail (i : Fin 256) (f : FuncRt → FuncRt) (s : State) : (updFunc i f s).mail = s.mail := rfl
@[simp] theorem updFunc_host (i : Fin 256) (f : FuncRt → FuncRt) (s : State) : (updFunc i f s).host = s.host := rfl
@[simp] theorem updFunc_recorder (i : Fin 256) (f : FuncRt → FuncRt) (s : State) : (updFunc i f s).recorder = s.recorder := rfl
@[simp] theorem updFunc_historian (i : Fin 256) (f : FuncRt → FuncRt) (s : State) : (updFunc i f s).historian = s.historian := rfl
@[simp] theorem updFunc_otp (i : Fin 256) (f : FuncRt → FuncRt) (s : State) : (updFunc i f s).otp = s.otp := rfl
@[simp] theorem updFunc_store (i : Fin 256) (f : FuncRt → FuncRt) (s : State) : (updFunc i f s).store = s.store := rfl
@[simp] theorem updFunc_flash (i : Fin 256) (f : FuncRt → FuncRt) (s : State) : (updFunc i f s).flash = s.flash := rfl
@[simp] theorem updFunc_sec (i : Fin 256) (f : FuncRt → FuncRt) (s : State) : (updFunc i f s).sec = s.sec := rfl
@[simp] theorem updFunc_upd (i : Fin 256) (f : FuncRt → FuncRt) (s : State) : (updFunc i f s).upd = s.upd := rfl
@[simp] theorem updFunc_pwr (i : Fin 256) (f : FuncRt → FuncRt) (s : State) : (updFunc i f s).pwr = s.pwr := rfl
@[simp] theorem updFunc_forceInd (i : Fin 256) (f : FuncRt → FuncRt) (s : State) : (updFunc i f s).forceInd = s.forceInd := rfl
@[simp] theorem updFunc_tapReset (i : Fin 256) (f : FuncRt → FuncRt) (s : State) : (updFunc i f s).tapReset = s.tapReset := rfl
@[simp] theorem updFunc_resp (i : Fin 256) (f : FuncRt → FuncRt) (s : State) : (updFunc i f s).resp = s.resp := rfl
@[simp] theorem updFunc_out (i : Fin 256) (f : FuncRt → FuncRt) (s : State) : (updFunc i f s).out = s.out := rfl
@[simp] theorem updFunc_free (i : Fin 256) (f : FuncRt → FuncRt) (s : State) : (updFunc i f s).free = s.free := rfl
@[simp] theorem updFunc_pending (i : Fin 256) (f : FuncRt → FuncRt) (s : State) : (updFunc i f s).pending = s.pending := rfl

/-! `updPool` -/

@[simp] theorem updPool_pool (f : Memory → Memory) (s : State) : (updPool f s).pool = f s.pool := rfl
@[simp] theorem updPool_part (f : Memory → Memory) (s : State) : (updPool f s).part = s.part := rfl
@[simp] theorem updPool_hdrs (f : Memory → Memory) (s : State) : (updPool f s).hdrs = s.hdrs := rfl
@[simp] theorem updPool_latches (f : Memory → Memory) (s : State) : (updPool f s).latches = s.latches := rfl
@[simp] theorem updPool_heldLow (f : Memory → Memory) (s : State) : (updPool f s).heldLow = s.heldLow := rfl
@[simp] theorem updPool_tb (f : Memory → Memory) (s : State) : (updPool f s).tb = s.tb := rfl
@[simp] theorem updPool_crests (f : Memory → Memory) (s : State) : (updPool f s).crests = s.crests := rfl
@[simp] theorem updPool_hub (f : Memory → Memory) (s : State) : (updPool f s).hub = s.hub := rfl
@[simp] theorem updPool_flitFails (f : Memory → Memory) (s : State) : (updPool f s).flitFails = s.flitFails := rfl
@[simp] theorem updPool_packets (f : Memory → Memory) (s : State) : (updPool f s).packets = s.packets := rfl
@[simp] theorem updPool_nextPacket (f : Memory → Memory) (s : State) : (updPool f s).nextPacket = s.nextPacket := rfl
@[simp] theorem updPool_opened (f : Memory → Memory) (s : State) : (updPool f s).opened = s.opened := rfl
@[simp] theorem updPool_sram (f : Memory → Memory) (s : State) : (updPool f s).sram = s.sram := rfl
@[simp] theorem updPool_staged (f : Memory → Memory) (s : State) : (updPool f s).staged = s.staged := rfl
@[simp] theorem updPool_sched (f : Memory → Memory) (s : State) : (updPool f s).sched = s.sched := rfl
@[simp] theorem updPool_run (f : Memory → Memory) (s : State) : (updPool f s).run = s.run := rfl
@[simp] theorem updPool_trio (f : Memory → Memory) (s : State) : (updPool f s).trio = s.trio := rfl
@[simp] theorem updPool_safety (f : Memory → Memory) (s : State) : (updPool f s).safety = s.safety := rfl
@[simp] theorem updPool_field (f : Memory → Memory) (s : State) : (updPool f s).field = s.field := rfl
@[simp] theorem updPool_panel (f : Memory → Memory) (s : State) : (updPool f s).panel = s.panel := rfl
@[simp] theorem updPool_ports (f : Memory → Memory) (s : State) : (updPool f s).ports = s.ports := rfl
@[simp] theorem updPool_cans (f : Memory → Memory) (s : State) : (updPool f s).cans = s.cans := rfl
@[simp] theorem updPool_uarts (f : Memory → Memory) (s : State) : (updPool f s).uarts = s.uarts := rfl
@[simp] theorem updPool_super (f : Memory → Memory) (s : State) : (updPool f s).super = s.super := rfl
@[simp] theorem updPool_mail (f : Memory → Memory) (s : State) : (updPool f s).mail = s.mail := rfl
@[simp] theorem updPool_host (f : Memory → Memory) (s : State) : (updPool f s).host = s.host := rfl
@[simp] theorem updPool_recorder (f : Memory → Memory) (s : State) : (updPool f s).recorder = s.recorder := rfl
@[simp] theorem updPool_historian (f : Memory → Memory) (s : State) : (updPool f s).historian = s.historian := rfl
@[simp] theorem updPool_otp (f : Memory → Memory) (s : State) : (updPool f s).otp = s.otp := rfl
@[simp] theorem updPool_store (f : Memory → Memory) (s : State) : (updPool f s).store = s.store := rfl
@[simp] theorem updPool_flash (f : Memory → Memory) (s : State) : (updPool f s).flash = s.flash := rfl
@[simp] theorem updPool_sec (f : Memory → Memory) (s : State) : (updPool f s).sec = s.sec := rfl
@[simp] theorem updPool_upd (f : Memory → Memory) (s : State) : (updPool f s).upd = s.upd := rfl
@[simp] theorem updPool_pwr (f : Memory → Memory) (s : State) : (updPool f s).pwr = s.pwr := rfl
@[simp] theorem updPool_forceInd (f : Memory → Memory) (s : State) : (updPool f s).forceInd = s.forceInd := rfl
@[simp] theorem updPool_tapReset (f : Memory → Memory) (s : State) : (updPool f s).tapReset = s.tapReset := rfl
@[simp] theorem updPool_resp (f : Memory → Memory) (s : State) : (updPool f s).resp = s.resp := rfl
@[simp] theorem updPool_out (f : Memory → Memory) (s : State) : (updPool f s).out = s.out := rfl
@[simp] theorem updPool_free (f : Memory → Memory) (s : State) : (updPool f s).free = s.free := rfl
@[simp] theorem updPool_pending (f : Memory → Memory) (s : State) : (updPool f s).pending = s.pending := rfl

/-! `updTb` -/

@[simp] theorem updTb_tb (f : Timebase → Timebase) (s : State) : (updTb f s).tb = f s.tb := rfl
@[simp] theorem updTb_part (f : Timebase → Timebase) (s : State) : (updTb f s).part = s.part := rfl
@[simp] theorem updTb_hdrs (f : Timebase → Timebase) (s : State) : (updTb f s).hdrs = s.hdrs := rfl
@[simp] theorem updTb_latches (f : Timebase → Timebase) (s : State) : (updTb f s).latches = s.latches := rfl
@[simp] theorem updTb_heldLow (f : Timebase → Timebase) (s : State) : (updTb f s).heldLow = s.heldLow := rfl
@[simp] theorem updTb_crests (f : Timebase → Timebase) (s : State) : (updTb f s).crests = s.crests := rfl
@[simp] theorem updTb_hub (f : Timebase → Timebase) (s : State) : (updTb f s).hub = s.hub := rfl
@[simp] theorem updTb_flitFails (f : Timebase → Timebase) (s : State) : (updTb f s).flitFails = s.flitFails := rfl
@[simp] theorem updTb_packets (f : Timebase → Timebase) (s : State) : (updTb f s).packets = s.packets := rfl
@[simp] theorem updTb_nextPacket (f : Timebase → Timebase) (s : State) : (updTb f s).nextPacket = s.nextPacket := rfl
@[simp] theorem updTb_opened (f : Timebase → Timebase) (s : State) : (updTb f s).opened = s.opened := rfl
@[simp] theorem updTb_pool (f : Timebase → Timebase) (s : State) : (updTb f s).pool = s.pool := rfl
@[simp] theorem updTb_sram (f : Timebase → Timebase) (s : State) : (updTb f s).sram = s.sram := rfl
@[simp] theorem updTb_staged (f : Timebase → Timebase) (s : State) : (updTb f s).staged = s.staged := rfl
@[simp] theorem updTb_sched (f : Timebase → Timebase) (s : State) : (updTb f s).sched = s.sched := rfl
@[simp] theorem updTb_run (f : Timebase → Timebase) (s : State) : (updTb f s).run = s.run := rfl
@[simp] theorem updTb_trio (f : Timebase → Timebase) (s : State) : (updTb f s).trio = s.trio := rfl
@[simp] theorem updTb_safety (f : Timebase → Timebase) (s : State) : (updTb f s).safety = s.safety := rfl
@[simp] theorem updTb_field (f : Timebase → Timebase) (s : State) : (updTb f s).field = s.field := rfl
@[simp] theorem updTb_panel (f : Timebase → Timebase) (s : State) : (updTb f s).panel = s.panel := rfl
@[simp] theorem updTb_ports (f : Timebase → Timebase) (s : State) : (updTb f s).ports = s.ports := rfl
@[simp] theorem updTb_cans (f : Timebase → Timebase) (s : State) : (updTb f s).cans = s.cans := rfl
@[simp] theorem updTb_uarts (f : Timebase → Timebase) (s : State) : (updTb f s).uarts = s.uarts := rfl
@[simp] theorem updTb_super (f : Timebase → Timebase) (s : State) : (updTb f s).super = s.super := rfl
@[simp] theorem updTb_mail (f : Timebase → Timebase) (s : State) : (updTb f s).mail = s.mail := rfl
@[simp] theorem updTb_host (f : Timebase → Timebase) (s : State) : (updTb f s).host = s.host := rfl
@[simp] theorem updTb_recorder (f : Timebase → Timebase) (s : State) : (updTb f s).recorder = s.recorder := rfl
@[simp] theorem updTb_historian (f : Timebase → Timebase) (s : State) : (updTb f s).historian = s.historian := rfl
@[simp] theorem updTb_otp (f : Timebase → Timebase) (s : State) : (updTb f s).otp = s.otp := rfl
@[simp] theorem updTb_store (f : Timebase → Timebase) (s : State) : (updTb f s).store = s.store := rfl
@[simp] theorem updTb_flash (f : Timebase → Timebase) (s : State) : (updTb f s).flash = s.flash := rfl
@[simp] theorem updTb_sec (f : Timebase → Timebase) (s : State) : (updTb f s).sec = s.sec := rfl
@[simp] theorem updTb_upd (f : Timebase → Timebase) (s : State) : (updTb f s).upd = s.upd := rfl
@[simp] theorem updTb_pwr (f : Timebase → Timebase) (s : State) : (updTb f s).pwr = s.pwr := rfl
@[simp] theorem updTb_forceInd (f : Timebase → Timebase) (s : State) : (updTb f s).forceInd = s.forceInd := rfl
@[simp] theorem updTb_tapReset (f : Timebase → Timebase) (s : State) : (updTb f s).tapReset = s.tapReset := rfl
@[simp] theorem updTb_resp (f : Timebase → Timebase) (s : State) : (updTb f s).resp = s.resp := rfl
@[simp] theorem updTb_out (f : Timebase → Timebase) (s : State) : (updTb f s).out = s.out := rfl
@[simp] theorem updTb_free (f : Timebase → Timebase) (s : State) : (updTb f s).free = s.free := rfl
@[simp] theorem updTb_pending (f : Timebase → Timebase) (s : State) : (updTb f s).pending = s.pending := rfl

/-! `updHost` -/

@[simp] theorem updHost_host (f : HostLink → HostLink) (s : State) : (updHost f s).host = f s.host := rfl
@[simp] theorem updHost_part (f : HostLink → HostLink) (s : State) : (updHost f s).part = s.part := rfl
@[simp] theorem updHost_hdrs (f : HostLink → HostLink) (s : State) : (updHost f s).hdrs = s.hdrs := rfl
@[simp] theorem updHost_latches (f : HostLink → HostLink) (s : State) : (updHost f s).latches = s.latches := rfl
@[simp] theorem updHost_heldLow (f : HostLink → HostLink) (s : State) : (updHost f s).heldLow = s.heldLow := rfl
@[simp] theorem updHost_tb (f : HostLink → HostLink) (s : State) : (updHost f s).tb = s.tb := rfl
@[simp] theorem updHost_crests (f : HostLink → HostLink) (s : State) : (updHost f s).crests = s.crests := rfl
@[simp] theorem updHost_hub (f : HostLink → HostLink) (s : State) : (updHost f s).hub = s.hub := rfl
@[simp] theorem updHost_flitFails (f : HostLink → HostLink) (s : State) : (updHost f s).flitFails = s.flitFails := rfl
@[simp] theorem updHost_packets (f : HostLink → HostLink) (s : State) : (updHost f s).packets = s.packets := rfl
@[simp] theorem updHost_nextPacket (f : HostLink → HostLink) (s : State) : (updHost f s).nextPacket = s.nextPacket := rfl
@[simp] theorem updHost_opened (f : HostLink → HostLink) (s : State) : (updHost f s).opened = s.opened := rfl
@[simp] theorem updHost_pool (f : HostLink → HostLink) (s : State) : (updHost f s).pool = s.pool := rfl
@[simp] theorem updHost_sram (f : HostLink → HostLink) (s : State) : (updHost f s).sram = s.sram := rfl
@[simp] theorem updHost_staged (f : HostLink → HostLink) (s : State) : (updHost f s).staged = s.staged := rfl
@[simp] theorem updHost_sched (f : HostLink → HostLink) (s : State) : (updHost f s).sched = s.sched := rfl
@[simp] theorem updHost_run (f : HostLink → HostLink) (s : State) : (updHost f s).run = s.run := rfl
@[simp] theorem updHost_trio (f : HostLink → HostLink) (s : State) : (updHost f s).trio = s.trio := rfl
@[simp] theorem updHost_safety (f : HostLink → HostLink) (s : State) : (updHost f s).safety = s.safety := rfl
@[simp] theorem updHost_field (f : HostLink → HostLink) (s : State) : (updHost f s).field = s.field := rfl
@[simp] theorem updHost_panel (f : HostLink → HostLink) (s : State) : (updHost f s).panel = s.panel := rfl
@[simp] theorem updHost_ports (f : HostLink → HostLink) (s : State) : (updHost f s).ports = s.ports := rfl
@[simp] theorem updHost_cans (f : HostLink → HostLink) (s : State) : (updHost f s).cans = s.cans := rfl
@[simp] theorem updHost_uarts (f : HostLink → HostLink) (s : State) : (updHost f s).uarts = s.uarts := rfl
@[simp] theorem updHost_super (f : HostLink → HostLink) (s : State) : (updHost f s).super = s.super := rfl
@[simp] theorem updHost_mail (f : HostLink → HostLink) (s : State) : (updHost f s).mail = s.mail := rfl
@[simp] theorem updHost_recorder (f : HostLink → HostLink) (s : State) : (updHost f s).recorder = s.recorder := rfl
@[simp] theorem updHost_historian (f : HostLink → HostLink) (s : State) : (updHost f s).historian = s.historian := rfl
@[simp] theorem updHost_otp (f : HostLink → HostLink) (s : State) : (updHost f s).otp = s.otp := rfl
@[simp] theorem updHost_store (f : HostLink → HostLink) (s : State) : (updHost f s).store = s.store := rfl
@[simp] theorem updHost_flash (f : HostLink → HostLink) (s : State) : (updHost f s).flash = s.flash := rfl
@[simp] theorem updHost_sec (f : HostLink → HostLink) (s : State) : (updHost f s).sec = s.sec := rfl
@[simp] theorem updHost_upd (f : HostLink → HostLink) (s : State) : (updHost f s).upd = s.upd := rfl
@[simp] theorem updHost_pwr (f : HostLink → HostLink) (s : State) : (updHost f s).pwr = s.pwr := rfl
@[simp] theorem updHost_forceInd (f : HostLink → HostLink) (s : State) : (updHost f s).forceInd = s.forceInd := rfl
@[simp] theorem updHost_tapReset (f : HostLink → HostLink) (s : State) : (updHost f s).tapReset = s.tapReset := rfl
@[simp] theorem updHost_resp (f : HostLink → HostLink) (s : State) : (updHost f s).resp = s.resp := rfl
@[simp] theorem updHost_out (f : HostLink → HostLink) (s : State) : (updHost f s).out = s.out := rfl
@[simp] theorem updHost_free (f : HostLink → HostLink) (s : State) : (updHost f s).free = s.free := rfl
@[simp] theorem updHost_pending (f : HostLink → HostLink) (s : State) : (updHost f s).pending = s.pending := rfl

/-! `updRegion` -/

@[simp] theorem updRegion_part (r : Fin 9) (f : RecRegion → RecRegion) (s : State) : (updRegion r f s).part = s.part := rfl
@[simp] theorem updRegion_hdrs (r : Fin 9) (f : RecRegion → RecRegion) (s : State) : (updRegion r f s).hdrs = s.hdrs := rfl
@[simp] theorem updRegion_latches (r : Fin 9) (f : RecRegion → RecRegion) (s : State) : (updRegion r f s).latches = s.latches := rfl
@[simp] theorem updRegion_heldLow (r : Fin 9) (f : RecRegion → RecRegion) (s : State) : (updRegion r f s).heldLow = s.heldLow := rfl
@[simp] theorem updRegion_tb (r : Fin 9) (f : RecRegion → RecRegion) (s : State) : (updRegion r f s).tb = s.tb := rfl
@[simp] theorem updRegion_crests (r : Fin 9) (f : RecRegion → RecRegion) (s : State) : (updRegion r f s).crests = s.crests := rfl
@[simp] theorem updRegion_hub (r : Fin 9) (f : RecRegion → RecRegion) (s : State) : (updRegion r f s).hub = s.hub := rfl
@[simp] theorem updRegion_flitFails (r : Fin 9) (f : RecRegion → RecRegion) (s : State) : (updRegion r f s).flitFails = s.flitFails := rfl
@[simp] theorem updRegion_packets (r : Fin 9) (f : RecRegion → RecRegion) (s : State) : (updRegion r f s).packets = s.packets := rfl
@[simp] theorem updRegion_nextPacket (r : Fin 9) (f : RecRegion → RecRegion) (s : State) : (updRegion r f s).nextPacket = s.nextPacket := rfl
@[simp] theorem updRegion_opened (r : Fin 9) (f : RecRegion → RecRegion) (s : State) : (updRegion r f s).opened = s.opened := rfl
@[simp] theorem updRegion_pool (r : Fin 9) (f : RecRegion → RecRegion) (s : State) : (updRegion r f s).pool = s.pool := rfl
@[simp] theorem updRegion_sram (r : Fin 9) (f : RecRegion → RecRegion) (s : State) : (updRegion r f s).sram = s.sram := rfl
@[simp] theorem updRegion_staged (r : Fin 9) (f : RecRegion → RecRegion) (s : State) : (updRegion r f s).staged = s.staged := rfl
@[simp] theorem updRegion_sched (r : Fin 9) (f : RecRegion → RecRegion) (s : State) : (updRegion r f s).sched = s.sched := rfl
@[simp] theorem updRegion_run (r : Fin 9) (f : RecRegion → RecRegion) (s : State) : (updRegion r f s).run = s.run := rfl
@[simp] theorem updRegion_trio (r : Fin 9) (f : RecRegion → RecRegion) (s : State) : (updRegion r f s).trio = s.trio := rfl
@[simp] theorem updRegion_safety (r : Fin 9) (f : RecRegion → RecRegion) (s : State) : (updRegion r f s).safety = s.safety := rfl
@[simp] theorem updRegion_field (r : Fin 9) (f : RecRegion → RecRegion) (s : State) : (updRegion r f s).field = s.field := rfl
@[simp] theorem updRegion_panel (r : Fin 9) (f : RecRegion → RecRegion) (s : State) : (updRegion r f s).panel = s.panel := rfl
@[simp] theorem updRegion_ports (r : Fin 9) (f : RecRegion → RecRegion) (s : State) : (updRegion r f s).ports = s.ports := rfl
@[simp] theorem updRegion_cans (r : Fin 9) (f : RecRegion → RecRegion) (s : State) : (updRegion r f s).cans = s.cans := rfl
@[simp] theorem updRegion_uarts (r : Fin 9) (f : RecRegion → RecRegion) (s : State) : (updRegion r f s).uarts = s.uarts := rfl
@[simp] theorem updRegion_super (r : Fin 9) (f : RecRegion → RecRegion) (s : State) : (updRegion r f s).super = s.super := rfl
@[simp] theorem updRegion_mail (r : Fin 9) (f : RecRegion → RecRegion) (s : State) : (updRegion r f s).mail = s.mail := rfl
@[simp] theorem updRegion_host (r : Fin 9) (f : RecRegion → RecRegion) (s : State) : (updRegion r f s).host = s.host := rfl
@[simp] theorem updRegion_historian (r : Fin 9) (f : RecRegion → RecRegion) (s : State) : (updRegion r f s).historian = s.historian := rfl
@[simp] theorem updRegion_otp (r : Fin 9) (f : RecRegion → RecRegion) (s : State) : (updRegion r f s).otp = s.otp := rfl
@[simp] theorem updRegion_store (r : Fin 9) (f : RecRegion → RecRegion) (s : State) : (updRegion r f s).store = s.store := rfl
@[simp] theorem updRegion_flash (r : Fin 9) (f : RecRegion → RecRegion) (s : State) : (updRegion r f s).flash = s.flash := rfl
@[simp] theorem updRegion_sec (r : Fin 9) (f : RecRegion → RecRegion) (s : State) : (updRegion r f s).sec = s.sec := rfl
@[simp] theorem updRegion_upd (r : Fin 9) (f : RecRegion → RecRegion) (s : State) : (updRegion r f s).upd = s.upd := rfl
@[simp] theorem updRegion_pwr (r : Fin 9) (f : RecRegion → RecRegion) (s : State) : (updRegion r f s).pwr = s.pwr := rfl
@[simp] theorem updRegion_forceInd (r : Fin 9) (f : RecRegion → RecRegion) (s : State) : (updRegion r f s).forceInd = s.forceInd := rfl
@[simp] theorem updRegion_tapReset (r : Fin 9) (f : RecRegion → RecRegion) (s : State) : (updRegion r f s).tapReset = s.tapReset := rfl
@[simp] theorem updRegion_resp (r : Fin 9) (f : RecRegion → RecRegion) (s : State) : (updRegion r f s).resp = s.resp := rfl
@[simp] theorem updRegion_out (r : Fin 9) (f : RecRegion → RecRegion) (s : State) : (updRegion r f s).out = s.out := rfl
@[simp] theorem updRegion_free (r : Fin 9) (f : RecRegion → RecRegion) (s : State) : (updRegion r f s).free = s.free := rfl
@[simp] theorem updRegion_pending (r : Fin 9) (f : RecRegion → RecRegion) (s : State) : (updRegion r f s).pending = s.pending := rfl

/-! `urgent` -/

@[simp] theorem urgent_part (n : Nat) (s : State) : (urgent n s).part = s.part := rfl
@[simp] theorem urgent_hdrs (n : Nat) (s : State) : (urgent n s).hdrs = s.hdrs := rfl
@[simp] theorem urgent_latches (n : Nat) (s : State) : (urgent n s).latches = s.latches := rfl
@[simp] theorem urgent_heldLow (n : Nat) (s : State) : (urgent n s).heldLow = s.heldLow := rfl
@[simp] theorem urgent_tb (n : Nat) (s : State) : (urgent n s).tb = s.tb := rfl
@[simp] theorem urgent_crests (n : Nat) (s : State) : (urgent n s).crests = s.crests := rfl
@[simp] theorem urgent_hub (n : Nat) (s : State) : (urgent n s).hub = s.hub := rfl
@[simp] theorem urgent_flitFails (n : Nat) (s : State) : (urgent n s).flitFails = s.flitFails := rfl
@[simp] theorem urgent_packets (n : Nat) (s : State) : (urgent n s).packets = s.packets := rfl
@[simp] theorem urgent_nextPacket (n : Nat) (s : State) : (urgent n s).nextPacket = s.nextPacket := rfl
@[simp] theorem urgent_opened (n : Nat) (s : State) : (urgent n s).opened = s.opened := rfl
@[simp] theorem urgent_pool (n : Nat) (s : State) : (urgent n s).pool = s.pool := rfl
@[simp] theorem urgent_sram (n : Nat) (s : State) : (urgent n s).sram = s.sram := rfl
@[simp] theorem urgent_staged (n : Nat) (s : State) : (urgent n s).staged = s.staged := rfl
@[simp] theorem urgent_sched (n : Nat) (s : State) : (urgent n s).sched = s.sched := rfl
@[simp] theorem urgent_run (n : Nat) (s : State) : (urgent n s).run = s.run := rfl
@[simp] theorem urgent_trio (n : Nat) (s : State) : (urgent n s).trio = s.trio := rfl
@[simp] theorem urgent_safety (n : Nat) (s : State) : (urgent n s).safety = s.safety := rfl
@[simp] theorem urgent_field (n : Nat) (s : State) : (urgent n s).field = s.field := rfl
@[simp] theorem urgent_panel (n : Nat) (s : State) : (urgent n s).panel = s.panel := rfl
@[simp] theorem urgent_ports (n : Nat) (s : State) : (urgent n s).ports = s.ports := rfl
@[simp] theorem urgent_cans (n : Nat) (s : State) : (urgent n s).cans = s.cans := rfl
@[simp] theorem urgent_uarts (n : Nat) (s : State) : (urgent n s).uarts = s.uarts := rfl
@[simp] theorem urgent_mail (n : Nat) (s : State) : (urgent n s).mail = s.mail := rfl
@[simp] theorem urgent_host (n : Nat) (s : State) : (urgent n s).host = s.host := rfl
@[simp] theorem urgent_recorder (n : Nat) (s : State) : (urgent n s).recorder = s.recorder := rfl
@[simp] theorem urgent_historian (n : Nat) (s : State) : (urgent n s).historian = s.historian := rfl
@[simp] theorem urgent_otp (n : Nat) (s : State) : (urgent n s).otp = s.otp := rfl
@[simp] theorem urgent_store (n : Nat) (s : State) : (urgent n s).store = s.store := rfl
@[simp] theorem urgent_flash (n : Nat) (s : State) : (urgent n s).flash = s.flash := rfl
@[simp] theorem urgent_sec (n : Nat) (s : State) : (urgent n s).sec = s.sec := rfl
@[simp] theorem urgent_upd (n : Nat) (s : State) : (urgent n s).upd = s.upd := rfl
@[simp] theorem urgent_pwr (n : Nat) (s : State) : (urgent n s).pwr = s.pwr := rfl
@[simp] theorem urgent_forceInd (n : Nat) (s : State) : (urgent n s).forceInd = s.forceInd := rfl
@[simp] theorem urgent_tapReset (n : Nat) (s : State) : (urgent n s).tapReset = s.tapReset := rfl
@[simp] theorem urgent_resp (n : Nat) (s : State) : (urgent n s).resp = s.resp := rfl
@[simp] theorem urgent_out (n : Nat) (s : State) : (urgent n s).out = s.out := rfl
@[simp] theorem urgent_free (n : Nat) (s : State) : (urgent n s).free = s.free := rfl
@[simp] theorem urgent_pending (n : Nat) (s : State) : (urgent n s).pending = s.pending := rfl

/-! `holdLow` -/

@[simp] theorem holdLow_part (w : Requester) (pg : Page) (off : Nat) (v : Word) (s : State) : (holdLow w pg off v s).part = s.part := rfl
@[simp] theorem holdLow_hdrs (w : Requester) (pg : Page) (off : Nat) (v : Word) (s : State) : (holdLow w pg off v s).hdrs = s.hdrs := rfl
@[simp] theorem holdLow_latches (w : Requester) (pg : Page) (off : Nat) (v : Word) (s : State) : (holdLow w pg off v s).latches = s.latches := rfl
@[simp] theorem holdLow_tb (w : Requester) (pg : Page) (off : Nat) (v : Word) (s : State) : (holdLow w pg off v s).tb = s.tb := rfl
@[simp] theorem holdLow_crests (w : Requester) (pg : Page) (off : Nat) (v : Word) (s : State) : (holdLow w pg off v s).crests = s.crests := rfl
@[simp] theorem holdLow_hub (w : Requester) (pg : Page) (off : Nat) (v : Word) (s : State) : (holdLow w pg off v s).hub = s.hub := rfl
@[simp] theorem holdLow_flitFails (w : Requester) (pg : Page) (off : Nat) (v : Word) (s : State) : (holdLow w pg off v s).flitFails = s.flitFails := rfl
@[simp] theorem holdLow_packets (w : Requester) (pg : Page) (off : Nat) (v : Word) (s : State) : (holdLow w pg off v s).packets = s.packets := rfl
@[simp] theorem holdLow_nextPacket (w : Requester) (pg : Page) (off : Nat) (v : Word) (s : State) : (holdLow w pg off v s).nextPacket = s.nextPacket := rfl
@[simp] theorem holdLow_opened (w : Requester) (pg : Page) (off : Nat) (v : Word) (s : State) : (holdLow w pg off v s).opened = s.opened := rfl
@[simp] theorem holdLow_pool (w : Requester) (pg : Page) (off : Nat) (v : Word) (s : State) : (holdLow w pg off v s).pool = s.pool := rfl
@[simp] theorem holdLow_sram (w : Requester) (pg : Page) (off : Nat) (v : Word) (s : State) : (holdLow w pg off v s).sram = s.sram := rfl
@[simp] theorem holdLow_staged (w : Requester) (pg : Page) (off : Nat) (v : Word) (s : State) : (holdLow w pg off v s).staged = s.staged := rfl
@[simp] theorem holdLow_sched (w : Requester) (pg : Page) (off : Nat) (v : Word) (s : State) : (holdLow w pg off v s).sched = s.sched := rfl
@[simp] theorem holdLow_run (w : Requester) (pg : Page) (off : Nat) (v : Word) (s : State) : (holdLow w pg off v s).run = s.run := rfl
@[simp] theorem holdLow_trio (w : Requester) (pg : Page) (off : Nat) (v : Word) (s : State) : (holdLow w pg off v s).trio = s.trio := rfl
@[simp] theorem holdLow_safety (w : Requester) (pg : Page) (off : Nat) (v : Word) (s : State) : (holdLow w pg off v s).safety = s.safety := rfl
@[simp] theorem holdLow_field (w : Requester) (pg : Page) (off : Nat) (v : Word) (s : State) : (holdLow w pg off v s).field = s.field := rfl
@[simp] theorem holdLow_panel (w : Requester) (pg : Page) (off : Nat) (v : Word) (s : State) : (holdLow w pg off v s).panel = s.panel := rfl
@[simp] theorem holdLow_ports (w : Requester) (pg : Page) (off : Nat) (v : Word) (s : State) : (holdLow w pg off v s).ports = s.ports := rfl
@[simp] theorem holdLow_cans (w : Requester) (pg : Page) (off : Nat) (v : Word) (s : State) : (holdLow w pg off v s).cans = s.cans := rfl
@[simp] theorem holdLow_uarts (w : Requester) (pg : Page) (off : Nat) (v : Word) (s : State) : (holdLow w pg off v s).uarts = s.uarts := rfl
@[simp] theorem holdLow_super (w : Requester) (pg : Page) (off : Nat) (v : Word) (s : State) : (holdLow w pg off v s).super = s.super := rfl
@[simp] theorem holdLow_mail (w : Requester) (pg : Page) (off : Nat) (v : Word) (s : State) : (holdLow w pg off v s).mail = s.mail := rfl
@[simp] theorem holdLow_host (w : Requester) (pg : Page) (off : Nat) (v : Word) (s : State) : (holdLow w pg off v s).host = s.host := rfl
@[simp] theorem holdLow_recorder (w : Requester) (pg : Page) (off : Nat) (v : Word) (s : State) : (holdLow w pg off v s).recorder = s.recorder := rfl
@[simp] theorem holdLow_historian (w : Requester) (pg : Page) (off : Nat) (v : Word) (s : State) : (holdLow w pg off v s).historian = s.historian := rfl
@[simp] theorem holdLow_otp (w : Requester) (pg : Page) (off : Nat) (v : Word) (s : State) : (holdLow w pg off v s).otp = s.otp := rfl
@[simp] theorem holdLow_store (w : Requester) (pg : Page) (off : Nat) (v : Word) (s : State) : (holdLow w pg off v s).store = s.store := rfl
@[simp] theorem holdLow_flash (w : Requester) (pg : Page) (off : Nat) (v : Word) (s : State) : (holdLow w pg off v s).flash = s.flash := rfl
@[simp] theorem holdLow_sec (w : Requester) (pg : Page) (off : Nat) (v : Word) (s : State) : (holdLow w pg off v s).sec = s.sec := rfl
@[simp] theorem holdLow_upd (w : Requester) (pg : Page) (off : Nat) (v : Word) (s : State) : (holdLow w pg off v s).upd = s.upd := rfl
@[simp] theorem holdLow_pwr (w : Requester) (pg : Page) (off : Nat) (v : Word) (s : State) : (holdLow w pg off v s).pwr = s.pwr := rfl
@[simp] theorem holdLow_forceInd (w : Requester) (pg : Page) (off : Nat) (v : Word) (s : State) : (holdLow w pg off v s).forceInd = s.forceInd := rfl
@[simp] theorem holdLow_tapReset (w : Requester) (pg : Page) (off : Nat) (v : Word) (s : State) : (holdLow w pg off v s).tapReset = s.tapReset := rfl
@[simp] theorem holdLow_resp (w : Requester) (pg : Page) (off : Nat) (v : Word) (s : State) : (holdLow w pg off v s).resp = s.resp := rfl
@[simp] theorem holdLow_out (w : Requester) (pg : Page) (off : Nat) (v : Word) (s : State) : (holdLow w pg off v s).out = s.out := rfl
@[simp] theorem holdLow_free (w : Requester) (pg : Page) (off : Nat) (v : Word) (s : State) : (holdLow w pg off v s).free = s.free := rfl
@[simp] theorem holdLow_pending (w : Requester) (pg : Page) (off : Nat) (v : Word) (s : State) : (holdLow w pg off v s).pending = s.pending := rfl

/-! `latchPut` -/

@[simp] theorem latchPut_part (w : Requester) (pg : Page) (off : Nat) (v : Word) (s : State) : (latchPut w pg off v s).part = s.part := rfl
@[simp] theorem latchPut_hdrs (w : Requester) (pg : Page) (off : Nat) (v : Word) (s : State) : (latchPut w pg off v s).hdrs = s.hdrs := rfl
@[simp] theorem latchPut_heldLow (w : Requester) (pg : Page) (off : Nat) (v : Word) (s : State) : (latchPut w pg off v s).heldLow = s.heldLow := rfl
@[simp] theorem latchPut_tb (w : Requester) (pg : Page) (off : Nat) (v : Word) (s : State) : (latchPut w pg off v s).tb = s.tb := rfl
@[simp] theorem latchPut_crests (w : Requester) (pg : Page) (off : Nat) (v : Word) (s : State) : (latchPut w pg off v s).crests = s.crests := rfl
@[simp] theorem latchPut_hub (w : Requester) (pg : Page) (off : Nat) (v : Word) (s : State) : (latchPut w pg off v s).hub = s.hub := rfl
@[simp] theorem latchPut_flitFails (w : Requester) (pg : Page) (off : Nat) (v : Word) (s : State) : (latchPut w pg off v s).flitFails = s.flitFails := rfl
@[simp] theorem latchPut_packets (w : Requester) (pg : Page) (off : Nat) (v : Word) (s : State) : (latchPut w pg off v s).packets = s.packets := rfl
@[simp] theorem latchPut_nextPacket (w : Requester) (pg : Page) (off : Nat) (v : Word) (s : State) : (latchPut w pg off v s).nextPacket = s.nextPacket := rfl
@[simp] theorem latchPut_opened (w : Requester) (pg : Page) (off : Nat) (v : Word) (s : State) : (latchPut w pg off v s).opened = s.opened := rfl
@[simp] theorem latchPut_pool (w : Requester) (pg : Page) (off : Nat) (v : Word) (s : State) : (latchPut w pg off v s).pool = s.pool := rfl
@[simp] theorem latchPut_sram (w : Requester) (pg : Page) (off : Nat) (v : Word) (s : State) : (latchPut w pg off v s).sram = s.sram := rfl
@[simp] theorem latchPut_staged (w : Requester) (pg : Page) (off : Nat) (v : Word) (s : State) : (latchPut w pg off v s).staged = s.staged := rfl
@[simp] theorem latchPut_sched (w : Requester) (pg : Page) (off : Nat) (v : Word) (s : State) : (latchPut w pg off v s).sched = s.sched := rfl
@[simp] theorem latchPut_run (w : Requester) (pg : Page) (off : Nat) (v : Word) (s : State) : (latchPut w pg off v s).run = s.run := rfl
@[simp] theorem latchPut_trio (w : Requester) (pg : Page) (off : Nat) (v : Word) (s : State) : (latchPut w pg off v s).trio = s.trio := rfl
@[simp] theorem latchPut_safety (w : Requester) (pg : Page) (off : Nat) (v : Word) (s : State) : (latchPut w pg off v s).safety = s.safety := rfl
@[simp] theorem latchPut_field (w : Requester) (pg : Page) (off : Nat) (v : Word) (s : State) : (latchPut w pg off v s).field = s.field := rfl
@[simp] theorem latchPut_panel (w : Requester) (pg : Page) (off : Nat) (v : Word) (s : State) : (latchPut w pg off v s).panel = s.panel := rfl
@[simp] theorem latchPut_ports (w : Requester) (pg : Page) (off : Nat) (v : Word) (s : State) : (latchPut w pg off v s).ports = s.ports := rfl
@[simp] theorem latchPut_cans (w : Requester) (pg : Page) (off : Nat) (v : Word) (s : State) : (latchPut w pg off v s).cans = s.cans := rfl
@[simp] theorem latchPut_uarts (w : Requester) (pg : Page) (off : Nat) (v : Word) (s : State) : (latchPut w pg off v s).uarts = s.uarts := rfl
@[simp] theorem latchPut_super (w : Requester) (pg : Page) (off : Nat) (v : Word) (s : State) : (latchPut w pg off v s).super = s.super := rfl
@[simp] theorem latchPut_mail (w : Requester) (pg : Page) (off : Nat) (v : Word) (s : State) : (latchPut w pg off v s).mail = s.mail := rfl
@[simp] theorem latchPut_host (w : Requester) (pg : Page) (off : Nat) (v : Word) (s : State) : (latchPut w pg off v s).host = s.host := rfl
@[simp] theorem latchPut_recorder (w : Requester) (pg : Page) (off : Nat) (v : Word) (s : State) : (latchPut w pg off v s).recorder = s.recorder := rfl
@[simp] theorem latchPut_historian (w : Requester) (pg : Page) (off : Nat) (v : Word) (s : State) : (latchPut w pg off v s).historian = s.historian := rfl
@[simp] theorem latchPut_otp (w : Requester) (pg : Page) (off : Nat) (v : Word) (s : State) : (latchPut w pg off v s).otp = s.otp := rfl
@[simp] theorem latchPut_store (w : Requester) (pg : Page) (off : Nat) (v : Word) (s : State) : (latchPut w pg off v s).store = s.store := rfl
@[simp] theorem latchPut_flash (w : Requester) (pg : Page) (off : Nat) (v : Word) (s : State) : (latchPut w pg off v s).flash = s.flash := rfl
@[simp] theorem latchPut_sec (w : Requester) (pg : Page) (off : Nat) (v : Word) (s : State) : (latchPut w pg off v s).sec = s.sec := rfl
@[simp] theorem latchPut_upd (w : Requester) (pg : Page) (off : Nat) (v : Word) (s : State) : (latchPut w pg off v s).upd = s.upd := rfl
@[simp] theorem latchPut_pwr (w : Requester) (pg : Page) (off : Nat) (v : Word) (s : State) : (latchPut w pg off v s).pwr = s.pwr := rfl
@[simp] theorem latchPut_forceInd (w : Requester) (pg : Page) (off : Nat) (v : Word) (s : State) : (latchPut w pg off v s).forceInd = s.forceInd := rfl
@[simp] theorem latchPut_tapReset (w : Requester) (pg : Page) (off : Nat) (v : Word) (s : State) : (latchPut w pg off v s).tapReset = s.tapReset := rfl
@[simp] theorem latchPut_resp (w : Requester) (pg : Page) (off : Nat) (v : Word) (s : State) : (latchPut w pg off v s).resp = s.resp := rfl
@[simp] theorem latchPut_out (w : Requester) (pg : Page) (off : Nat) (v : Word) (s : State) : (latchPut w pg off v s).out = s.out := rfl
@[simp] theorem latchPut_free (w : Requester) (pg : Page) (off : Nat) (v : Word) (s : State) : (latchPut w pg off v s).free = s.free := rfl
@[simp] theorem latchPut_pending (w : Requester) (pg : Page) (off : Nat) (v : Word) (s : State) : (latchPut w pg off v s).pending = s.pending := rfl

/-! `answer` -/

@[simp] theorem answer_part (v : Word) (s : State) : (answer v s).part = s.part := rfl
@[simp] theorem answer_hdrs (v : Word) (s : State) : (answer v s).hdrs = s.hdrs := rfl
@[simp] theorem answer_latches (v : Word) (s : State) : (answer v s).latches = s.latches := rfl
@[simp] theorem answer_heldLow (v : Word) (s : State) : (answer v s).heldLow = s.heldLow := rfl
@[simp] theorem answer_tb (v : Word) (s : State) : (answer v s).tb = s.tb := rfl
@[simp] theorem answer_crests (v : Word) (s : State) : (answer v s).crests = s.crests := rfl
@[simp] theorem answer_hub (v : Word) (s : State) : (answer v s).hub = s.hub := rfl
@[simp] theorem answer_flitFails (v : Word) (s : State) : (answer v s).flitFails = s.flitFails := rfl
@[simp] theorem answer_packets (v : Word) (s : State) : (answer v s).packets = s.packets := rfl
@[simp] theorem answer_nextPacket (v : Word) (s : State) : (answer v s).nextPacket = s.nextPacket := rfl
@[simp] theorem answer_opened (v : Word) (s : State) : (answer v s).opened = s.opened := rfl
@[simp] theorem answer_pool (v : Word) (s : State) : (answer v s).pool = s.pool := rfl
@[simp] theorem answer_sram (v : Word) (s : State) : (answer v s).sram = s.sram := rfl
@[simp] theorem answer_staged (v : Word) (s : State) : (answer v s).staged = s.staged := rfl
@[simp] theorem answer_sched (v : Word) (s : State) : (answer v s).sched = s.sched := rfl
@[simp] theorem answer_run (v : Word) (s : State) : (answer v s).run = s.run := rfl
@[simp] theorem answer_trio (v : Word) (s : State) : (answer v s).trio = s.trio := rfl
@[simp] theorem answer_safety (v : Word) (s : State) : (answer v s).safety = s.safety := rfl
@[simp] theorem answer_field (v : Word) (s : State) : (answer v s).field = s.field := rfl
@[simp] theorem answer_panel (v : Word) (s : State) : (answer v s).panel = s.panel := rfl
@[simp] theorem answer_ports (v : Word) (s : State) : (answer v s).ports = s.ports := rfl
@[simp] theorem answer_cans (v : Word) (s : State) : (answer v s).cans = s.cans := rfl
@[simp] theorem answer_uarts (v : Word) (s : State) : (answer v s).uarts = s.uarts := rfl
@[simp] theorem answer_super (v : Word) (s : State) : (answer v s).super = s.super := rfl
@[simp] theorem answer_mail (v : Word) (s : State) : (answer v s).mail = s.mail := rfl
@[simp] theorem answer_host (v : Word) (s : State) : (answer v s).host = s.host := rfl
@[simp] theorem answer_recorder (v : Word) (s : State) : (answer v s).recorder = s.recorder := rfl
@[simp] theorem answer_historian (v : Word) (s : State) : (answer v s).historian = s.historian := rfl
@[simp] theorem answer_otp (v : Word) (s : State) : (answer v s).otp = s.otp := rfl
@[simp] theorem answer_store (v : Word) (s : State) : (answer v s).store = s.store := rfl
@[simp] theorem answer_flash (v : Word) (s : State) : (answer v s).flash = s.flash := rfl
@[simp] theorem answer_sec (v : Word) (s : State) : (answer v s).sec = s.sec := rfl
@[simp] theorem answer_upd (v : Word) (s : State) : (answer v s).upd = s.upd := rfl
@[simp] theorem answer_pwr (v : Word) (s : State) : (answer v s).pwr = s.pwr := rfl
@[simp] theorem answer_forceInd (v : Word) (s : State) : (answer v s).forceInd = s.forceInd := rfl
@[simp] theorem answer_tapReset (v : Word) (s : State) : (answer v s).tapReset = s.tapReset := rfl
@[simp] theorem answer_out (v : Word) (s : State) : (answer v s).out = s.out := rfl
@[simp] theorem answer_free (v : Word) (s : State) : (answer v s).free = s.free := rfl
@[simp] theorem answer_pending (v : Word) (s : State) : (answer v s).pending = s.pending := rfl

/-! `send` -/

@[simp] theorem send_part (m : Sent) (s : State) : (send m s).part = s.part := rfl
@[simp] theorem send_hdrs (m : Sent) (s : State) : (send m s).hdrs = s.hdrs := rfl
@[simp] theorem send_latches (m : Sent) (s : State) : (send m s).latches = s.latches := rfl
@[simp] theorem send_heldLow (m : Sent) (s : State) : (send m s).heldLow = s.heldLow := rfl
@[simp] theorem send_tb (m : Sent) (s : State) : (send m s).tb = s.tb := rfl
@[simp] theorem send_crests (m : Sent) (s : State) : (send m s).crests = s.crests := rfl
@[simp] theorem send_hub (m : Sent) (s : State) : (send m s).hub = s.hub := rfl
@[simp] theorem send_flitFails (m : Sent) (s : State) : (send m s).flitFails = s.flitFails := rfl
@[simp] theorem send_packets (m : Sent) (s : State) : (send m s).packets = s.packets := rfl
@[simp] theorem send_nextPacket (m : Sent) (s : State) : (send m s).nextPacket = s.nextPacket := rfl
@[simp] theorem send_opened (m : Sent) (s : State) : (send m s).opened = s.opened := rfl
@[simp] theorem send_pool (m : Sent) (s : State) : (send m s).pool = s.pool := rfl
@[simp] theorem send_sram (m : Sent) (s : State) : (send m s).sram = s.sram := rfl
@[simp] theorem send_staged (m : Sent) (s : State) : (send m s).staged = s.staged := rfl
@[simp] theorem send_sched (m : Sent) (s : State) : (send m s).sched = s.sched := rfl
@[simp] theorem send_run (m : Sent) (s : State) : (send m s).run = s.run := rfl
@[simp] theorem send_trio (m : Sent) (s : State) : (send m s).trio = s.trio := rfl
@[simp] theorem send_safety (m : Sent) (s : State) : (send m s).safety = s.safety := rfl
@[simp] theorem send_field (m : Sent) (s : State) : (send m s).field = s.field := rfl
@[simp] theorem send_panel (m : Sent) (s : State) : (send m s).panel = s.panel := rfl
@[simp] theorem send_ports (m : Sent) (s : State) : (send m s).ports = s.ports := rfl
@[simp] theorem send_cans (m : Sent) (s : State) : (send m s).cans = s.cans := rfl
@[simp] theorem send_uarts (m : Sent) (s : State) : (send m s).uarts = s.uarts := rfl
@[simp] theorem send_super (m : Sent) (s : State) : (send m s).super = s.super := rfl
@[simp] theorem send_mail (m : Sent) (s : State) : (send m s).mail = s.mail := rfl
@[simp] theorem send_host (m : Sent) (s : State) : (send m s).host = s.host := rfl
@[simp] theorem send_recorder (m : Sent) (s : State) : (send m s).recorder = s.recorder := rfl
@[simp] theorem send_historian (m : Sent) (s : State) : (send m s).historian = s.historian := rfl
@[simp] theorem send_otp (m : Sent) (s : State) : (send m s).otp = s.otp := rfl
@[simp] theorem send_store (m : Sent) (s : State) : (send m s).store = s.store := rfl
@[simp] theorem send_flash (m : Sent) (s : State) : (send m s).flash = s.flash := rfl
@[simp] theorem send_sec (m : Sent) (s : State) : (send m s).sec = s.sec := rfl
@[simp] theorem send_upd (m : Sent) (s : State) : (send m s).upd = s.upd := rfl
@[simp] theorem send_pwr (m : Sent) (s : State) : (send m s).pwr = s.pwr := rfl
@[simp] theorem send_forceInd (m : Sent) (s : State) : (send m s).forceInd = s.forceInd := rfl
@[simp] theorem send_tapReset (m : Sent) (s : State) : (send m s).tapReset = s.tapReset := rfl
@[simp] theorem send_resp (m : Sent) (s : State) : (send m s).resp = s.resp := rfl
@[simp] theorem send_free (m : Sent) (s : State) : (send m s).free = s.free := rfl
@[simp] theorem send_pending (m : Sent) (s : State) : (send m s).pending = s.pending := rfl

/-! `dropLatches` -/

@[simp] theorem dropLatches_part (p : Page → Bool) (s : State) : (dropLatches p s).part = s.part := rfl
@[simp] theorem dropLatches_hdrs (p : Page → Bool) (s : State) : (dropLatches p s).hdrs = s.hdrs := rfl
@[simp] theorem dropLatches_tb (p : Page → Bool) (s : State) : (dropLatches p s).tb = s.tb := rfl
@[simp] theorem dropLatches_crests (p : Page → Bool) (s : State) : (dropLatches p s).crests = s.crests := rfl
@[simp] theorem dropLatches_hub (p : Page → Bool) (s : State) : (dropLatches p s).hub = s.hub := rfl
@[simp] theorem dropLatches_flitFails (p : Page → Bool) (s : State) : (dropLatches p s).flitFails = s.flitFails := rfl
@[simp] theorem dropLatches_packets (p : Page → Bool) (s : State) : (dropLatches p s).packets = s.packets := rfl
@[simp] theorem dropLatches_nextPacket (p : Page → Bool) (s : State) : (dropLatches p s).nextPacket = s.nextPacket := rfl
@[simp] theorem dropLatches_opened (p : Page → Bool) (s : State) : (dropLatches p s).opened = s.opened := rfl
@[simp] theorem dropLatches_pool (p : Page → Bool) (s : State) : (dropLatches p s).pool = s.pool := rfl
@[simp] theorem dropLatches_sram (p : Page → Bool) (s : State) : (dropLatches p s).sram = s.sram := rfl
@[simp] theorem dropLatches_staged (p : Page → Bool) (s : State) : (dropLatches p s).staged = s.staged := rfl
@[simp] theorem dropLatches_sched (p : Page → Bool) (s : State) : (dropLatches p s).sched = s.sched := rfl
@[simp] theorem dropLatches_run (p : Page → Bool) (s : State) : (dropLatches p s).run = s.run := rfl
@[simp] theorem dropLatches_trio (p : Page → Bool) (s : State) : (dropLatches p s).trio = s.trio := rfl
@[simp] theorem dropLatches_safety (p : Page → Bool) (s : State) : (dropLatches p s).safety = s.safety := rfl
@[simp] theorem dropLatches_field (p : Page → Bool) (s : State) : (dropLatches p s).field = s.field := rfl
@[simp] theorem dropLatches_panel (p : Page → Bool) (s : State) : (dropLatches p s).panel = s.panel := rfl
@[simp] theorem dropLatches_ports (p : Page → Bool) (s : State) : (dropLatches p s).ports = s.ports := rfl
@[simp] theorem dropLatches_cans (p : Page → Bool) (s : State) : (dropLatches p s).cans = s.cans := rfl
@[simp] theorem dropLatches_uarts (p : Page → Bool) (s : State) : (dropLatches p s).uarts = s.uarts := rfl
@[simp] theorem dropLatches_super (p : Page → Bool) (s : State) : (dropLatches p s).super = s.super := rfl
@[simp] theorem dropLatches_mail (p : Page → Bool) (s : State) : (dropLatches p s).mail = s.mail := rfl
@[simp] theorem dropLatches_host (p : Page → Bool) (s : State) : (dropLatches p s).host = s.host := rfl
@[simp] theorem dropLatches_recorder (p : Page → Bool) (s : State) : (dropLatches p s).recorder = s.recorder := rfl
@[simp] theorem dropLatches_historian (p : Page → Bool) (s : State) : (dropLatches p s).historian = s.historian := rfl
@[simp] theorem dropLatches_otp (p : Page → Bool) (s : State) : (dropLatches p s).otp = s.otp := rfl
@[simp] theorem dropLatches_store (p : Page → Bool) (s : State) : (dropLatches p s).store = s.store := rfl
@[simp] theorem dropLatches_flash (p : Page → Bool) (s : State) : (dropLatches p s).flash = s.flash := rfl
@[simp] theorem dropLatches_sec (p : Page → Bool) (s : State) : (dropLatches p s).sec = s.sec := rfl
@[simp] theorem dropLatches_upd (p : Page → Bool) (s : State) : (dropLatches p s).upd = s.upd := rfl
@[simp] theorem dropLatches_pwr (p : Page → Bool) (s : State) : (dropLatches p s).pwr = s.pwr := rfl
@[simp] theorem dropLatches_forceInd (p : Page → Bool) (s : State) : (dropLatches p s).forceInd = s.forceInd := rfl
@[simp] theorem dropLatches_tapReset (p : Page → Bool) (s : State) : (dropLatches p s).tapReset = s.tapReset := rfl
@[simp] theorem dropLatches_resp (p : Page → Bool) (s : State) : (dropLatches p s).resp = s.resp := rfl
@[simp] theorem dropLatches_out (p : Page → Bool) (s : State) : (dropLatches p s).out = s.out := rfl
@[simp] theorem dropLatches_free (p : Page → Bool) (s : State) : (dropLatches p s).free = s.free := rfl
@[simp] theorem dropLatches_pending (p : Page → Bool) (s : State) : (dropLatches p s).pending = s.pending := rfl

end Sys2Proof.Machine
end

