-- ==== Sys2Proof/Laws/Ops.lean ====
section
/-! SUPPORT. What the shared operations of Ops.lean can do: counters, interrupt bits, event records, error responses. -/
namespace Sys2Proof.Machine

/-! ### Vectors -/

@[simp] theorem Vec.at_put_same {α : Type} {n : Nat} (v : Vec α n) (i : Fin n) (x : α) : Vec.at (Vec.put v i x) i = x := by
  simp [Vec.at, Vec.put]

theorem Vec.at_put_ne {α : Type} {n : Nat} (v : Vec α n) (i j : Fin n) (x : α) (h : j ≠ i) : Vec.at (Vec.put v i x) j = Vec.at v j := by
  have : i.val ≠ j.val := fun e => h (Fin.ext e.symm)
  simp [Vec.at, Vec.put, this]

@[simp] theorem Vec.at_upd_same {α : Type} {n : Nat} (v : Vec α n) (i : Fin n) (f : α → α) : Vec.at (Vec.upd v i f) i = f (Vec.at v i) := by
  simp [Vec.upd]

theorem Vec.at_upd_ne {α : Type} {n : Nat} (v : Vec α n) (i j : Fin n) (f : α → α) (h : j ≠ i) :
    Vec.at (Vec.upd v i f) j = Vec.at v j := Vec.at_put_ne _ _ _ _ h

/-- A vector is what it gives at each place. -/
theorem Vec.ext_at {α : Type} {n : Nat} {v w : Vec α n} (h : ∀ i, Vec.at v i = Vec.at w i) : v = w := by
  apply Vector.ext
  intro i hi
  exact h ⟨i, hi⟩

/-! ### Page headers -/

/-- The pages in the order of their headers. -/
def pageList : List Page :=
  [.directory, .interrupt, .mailbox, .supervisor, .hostLink, .power, .hub, .schedule, .runControl, .trio, .safety, .timebase,
   .recorder, .historian, .update, .port 0, .port 1, .port 2, .port 3, .port 4, .port 5, .port 6, .port 7, .port 8, .port 9, .can 0,
   .can 1, .can 2, .can 3, .can 4, .can 5, .can 6, .can 7, .can 8, .can 9, .can 10, .can 11, .can 12, .can 13, .can 14, .can 15,
   .uart 0, .uart 1, .uart 2, .uart 3, .uart 4, .uart 5, .uart 6, .uart 7, .engine 0, .engine 1, .engine 2, .engine 3, .engine 4,
   .engine 5, .loopArray 0, .loopArray 1, .loopArray 2, .loopArray 3, .loopArray 4, .loopArray 5, .switch 0, .switch 1, .switch 2,
   .switch 3, .switch 4, .switch 5, .field, .panel, .secDirectory, .security, .secMailbox]

theorem pageList_pgIdx (p : Page) : pageList[(pgIdx p).val]? = some p := by
  cases p with
  | port i => revert i; decide
  | can i => revert i; decide
  | uart i => revert i; decide
  | engine i => revert i; decide
  | loopArray i => revert i; decide
  | switch i => revert i; decide
  | _ => decide

/-- No two pages share a header. -/
theorem pgIdx_inj {a b : Page} (h : pgIdx a = pgIdx b) : a = b := by
  have := pageList_pgIdx b
  rw [← h, pageList_pgIdx a] at this
  exact Option.some.inj this

theorem hdrAt_updHdr_same (pg : Page) (f : PageHdr → PageHdr) (s : State) : hdrAt (updHdr pg f s) pg = f (hdrAt s pg) := by
  simp [hdrAt, updHdr]

theorem hdrAt_updHdr_ne (pg p : Page) (f : PageHdr → PageHdr) (s : State) (h : p ≠ pg) : hdrAt (updHdr pg f s) p = hdrAt s p := by
  simp only [hdrAt, updHdr]
  exact Vec.at_upd_ne _ _ _ _ fun e => h (pgIdx_inj e)

/-- A count changes nothing of any header but the counters. -/
theorem hdrAt_bump (pg p : Page) (code n : Nat) (s : State) :
    { hdrAt (bump pg code n s) p with cnt := (hdrAt s p).cnt } = hdrAt s p := by
  unfold bump
  split
  · rfl
  · by_cases h : p = pg
    · subst h
      rw [hdrAt_updHdr_same]
      dsimp only
      split <;> rfl
    · rw [hdrAt_updHdr_ne _ _ _ _ h]

theorem hdrAt_bump_ne (pg p : Page) (code n : Nat) (s : State) (h : p ≠ pg) : hdrAt (bump pg code n s) p = hdrAt s p := by
  unfold bump
  split
  · rfl
  · exact hdrAt_updHdr_ne _ _ _ _ h

/-- A fold that keeps a projection at each step keeps it. -/
theorem foldl_proj {α β γ : Type} (p : β → γ) (f : β → α → β) (h : ∀ b a, p (f b a) = p b) (l : List α) (b : β) :
    p (l.foldl f b) = p b := by
  induction l generalizing b with
  | nil => rfl
  | cons x r ih => rw [List.foldl_cons, ih, h]

/-- The records of condition changes keep whatever recording and counting keep. -/
theorem noteConds_proj {γ : Type} (p : State → γ) (h : ∀ pg n sev ps s, p (recordEvent pg n none sev ps s) = p s)
    (hb : ∀ pg w s, p (condEdge pg w s) = p s) (pgs : List Page) (before after : State) : p (noteConds pgs before after) = p after := by
  unfold noteConds
  apply foldl_proj
  intro s pg
  dsimp only
  split
  · exact hb _ _ _
  · rw [foldl_proj p]
    · exact hb _ _ _
    · intro s i
      split
      · exact h _ _ _ _ _
      · rfl

/-- `bump` changes nothing but headers. -/
theorem bump_frame (pg : Page) (code n : Nat) (s : State) :
    { bump pg code n s with hdrs := s.hdrs } = s := by
  unfold bump; split <;> rfl

@[simp] theorem bump_part (pg : Page) (code n : Nat) (s : State) : (bump pg code n s).part = s.part :=
  (congrArg State.part (bump_frame pg code n s) :)
@[simp] theorem bump_latches (pg : Page) (code n : Nat) (s : State) : (bump pg code n s).latches = s.latches :=
  (congrArg State.latches (bump_frame pg code n s) :)
@[simp] theorem bump_heldLow (pg : Page) (code n : Nat) (s : State) : (bump pg code n s).heldLow = s.heldLow :=
  (congrArg State.heldLow (bump_frame pg code n s) :)
@[simp] theorem bump_tb (pg : Page) (code n : Nat) (s : State) : (bump pg code n s).tb = s.tb :=
  (congrArg State.tb (bump_frame pg code n s) :)
@[simp] theorem bump_crests (pg : Page) (code n : Nat) (s : State) : (bump pg code n s).crests = s.crests :=
  (congrArg State.crests (bump_frame pg code n s) :)
@[simp] theorem bump_hub (pg : Page) (code n : Nat) (s : State) : (bump pg code n s).hub = s.hub :=
  (congrArg State.hub (bump_frame pg code n s) :)
@[simp] theorem bump_flitFails (pg : Page) (code n : Nat) (s : State) : (bump pg code n s).flitFails = s.flitFails :=
  (congrArg State.flitFails (bump_frame pg code n s) :)
@[simp] theorem bump_packets (pg : Page) (code n : Nat) (s : State) : (bump pg code n s).packets = s.packets :=
  (congrArg State.packets (bump_frame pg code n s) :)
@[simp] theorem bump_nextPacket (pg : Page) (code n : Nat) (s : State) : (bump pg code n s).nextPacket = s.nextPacket :=
  (congrArg State.nextPacket (bump_frame pg code n s) :)
@[simp] theorem bump_opened (pg : Page) (code n : Nat) (s : State) : (bump pg code n s).opened = s.opened :=
  (congrArg State.opened (bump_frame pg code n s) :)
@[simp] theorem bump_pool (pg : Page) (code n : Nat) (s : State) : (bump pg code n s).pool = s.pool :=
  (congrArg State.pool (bump_frame pg code n s) :)
@[simp] theorem bump_sram (pg : Page) (code n : Nat) (s : State) : (bump pg code n s).sram = s.sram :=
  (congrArg State.sram (bump_frame pg code n s) :)
@[simp] theorem bump_staged (pg : Page) (code n : Nat) (s : State) : (bump pg code n s).staged = s.staged :=
  (congrArg State.staged (bump_frame pg code n s) :)
@[simp] theorem bump_sched (pg : Page) (code n : Nat) (s : State) : (bump pg code n s).sched = s.sched :=
  (congrArg State.sched (bump_frame pg code n s) :)
@[simp] theorem bump_run (pg : Page) (code n : Nat) (s : State) : (bump pg code n s).run = s.run :=
  (congrArg State.run (bump_frame pg code n s) :)
@[simp] theorem bump_trio (pg : Page) (code n : Nat) (s : State) : (bump pg code n s).trio = s.trio :=
  (congrArg State.trio (bump_frame pg code n s) :)
@[simp] theorem bump_safety (pg : Page) (code n : Nat) (s : State) : (bump pg code n s).safety = s.safety :=
  (congrArg State.safety (bump_frame pg code n s) :)
@[simp] theorem bump_field (pg : Page) (code n : Nat) (s : State) : (bump pg code n s).field = s.field :=
  (congrArg State.field (bump_frame pg code n s) :)
@[simp] theorem bump_panel (pg : Page) (code n : Nat) (s : State) : (bump pg code n s).panel = s.panel :=
  (congrArg State.panel (bump_frame pg code n s) :)
@[simp] theorem bump_ports (pg : Page) (code n : Nat) (s : State) : (bump pg code n s).ports = s.ports :=
  (congrArg State.ports (bump_frame pg code n s) :)
@[simp] theorem bump_cans (pg : Page) (code n : Nat) (s : State) : (bump pg code n s).cans = s.cans :=
  (congrArg State.cans (bump_frame pg code n s) :)
@[simp] theorem bump_uarts (pg : Page) (code n : Nat) (s : State) : (bump pg code n s).uarts = s.uarts :=
  (congrArg State.uarts (bump_frame pg code n s) :)
@[simp] theorem bump_super (pg : Page) (code n : Nat) (s : State) : (bump pg code n s).super = s.super :=
  (congrArg State.super (bump_frame pg code n s) :)
@[simp] theorem bump_mail (pg : Page) (code n : Nat) (s : State) : (bump pg code n s).mail = s.mail :=
  (congrArg State.mail (bump_frame pg code n s) :)
@[simp] theorem bump_host (pg : Page) (code n : Nat) (s : State) : (bump pg code n s).host = s.host :=
  (congrArg State.host (bump_frame pg code n s) :)
@[simp] theorem bump_recorder (pg : Page) (code n : Nat) (s : State) : (bump pg code n s).recorder = s.recorder :=
  (congrArg State.recorder (bump_frame pg code n s) :)
@[simp] theorem bump_historian (pg : Page) (code n : Nat) (s : State) : (bump pg code n s).historian = s.historian :=
  (congrArg State.historian (bump_frame pg code n s) :)
@[simp] theorem bump_otp (pg : Page) (code n : Nat) (s : State) : (bump pg code n s).otp = s.otp :=
  (congrArg State.otp (bump_frame pg code n s) :)
@[simp] theorem bump_store (pg : Page) (code n : Nat) (s : State) : (bump pg code n s).store = s.store :=
  (congrArg State.store (bump_frame pg code n s) :)
@[simp] theorem bump_flash (pg : Page) (code n : Nat) (s : State) : (bump pg code n s).flash = s.flash :=
  (congrArg State.flash (bump_frame pg code n s) :)
@[simp] theorem bump_sec (pg : Page) (code n : Nat) (s : State) : (bump pg code n s).sec = s.sec :=
  (congrArg State.sec (bump_frame pg code n s) :)
@[simp] theorem bump_upd (pg : Page) (code n : Nat) (s : State) : (bump pg code n s).upd = s.upd :=
  (congrArg State.upd (bump_frame pg code n s) :)
@[simp] theorem bump_pwr (pg : Page) (code n : Nat) (s : State) : (bump pg code n s).pwr = s.pwr :=
  (congrArg State.pwr (bump_frame pg code n s) :)
@[simp] theorem bump_forceInd (pg : Page) (code n : Nat) (s : State) : (bump pg code n s).forceInd = s.forceInd :=
  (congrArg State.forceInd (bump_frame pg code n s) :)
@[simp] theorem bump_tapReset (pg : Page) (code n : Nat) (s : State) : (bump pg code n s).tapReset = s.tapReset :=
  (congrArg State.tapReset (bump_frame pg code n s) :)
@[simp] theorem bump_resp (pg : Page) (code n : Nat) (s : State) : (bump pg code n s).resp = s.resp :=
  (congrArg State.resp (bump_frame pg code n s) :)
@[simp] theorem bump_out (pg : Page) (code n : Nat) (s : State) : (bump pg code n s).out = s.out :=
  (congrArg State.out (bump_frame pg code n s) :)
@[simp] theorem bump_free (pg : Page) (code n : Nat) (s : State) : (bump pg code n s).free = s.free :=
  (congrArg State.free (bump_frame pg code n s) :)
@[simp] theorem bump_pending (pg : Page) (code n : Nat) (s : State) : (bump pg code n s).pending = s.pending :=
  (congrArg State.pending (bump_frame pg code n s) :)

/-- `countEdge` changes nothing but headers. -/
theorem countEdge_frame (pg : Page) (before after : State) :
    { countEdge pg before after with hdrs := after.hdrs } = after := by
  unfold countEdge; split <;> simp

@[simp] theorem countEdge_part (pg : Page) (before after : State) : (countEdge pg before after).part = after.part :=
  (congrArg State.part (countEdge_frame pg before after) :)
@[simp] theorem countEdge_latches (pg : Page) (before after : State) : (countEdge pg before after).latches = after.latches :=
  (congrArg State.latches (countEdge_frame pg before after) :)
@[simp] theorem countEdge_heldLow (pg : Page) (before after : State) : (countEdge pg before after).heldLow = after.heldLow :=
  (congrArg State.heldLow (countEdge_frame pg before after) :)
@[simp] theorem countEdge_tb (pg : Page) (before after : State) : (countEdge pg before after).tb = after.tb :=
  (congrArg State.tb (countEdge_frame pg before after) :)
@[simp] theorem countEdge_crests (pg : Page) (before after : State) : (countEdge pg before after).crests = after.crests :=
  (congrArg State.crests (countEdge_frame pg before after) :)
@[simp] theorem countEdge_hub (pg : Page) (before after : State) : (countEdge pg before after).hub = after.hub :=
  (congrArg State.hub (countEdge_frame pg before after) :)
@[simp] theorem countEdge_flitFails (pg : Page) (before after : State) : (countEdge pg before after).flitFails = after.flitFails :=
  (congrArg State.flitFails (countEdge_frame pg before after) :)
@[simp] theorem countEdge_packets (pg : Page) (before after : State) : (countEdge pg before after).packets = after.packets :=
  (congrArg State.packets (countEdge_frame pg before after) :)
@[simp] theorem countEdge_nextPacket (pg : Page) (before after : State) : (countEdge pg before after).nextPacket = after.nextPacket :=
  (congrArg State.nextPacket (countEdge_frame pg before after) :)
@[simp] theorem countEdge_opened (pg : Page) (before after : State) : (countEdge pg before after).opened = after.opened :=
  (congrArg State.opened (countEdge_frame pg before after) :)
@[simp] theorem countEdge_pool (pg : Page) (before after : State) : (countEdge pg before after).pool = after.pool :=
  (congrArg State.pool (countEdge_frame pg before after) :)
@[simp] theorem countEdge_sram (pg : Page) (before after : State) : (countEdge pg before after).sram = after.sram :=
  (congrArg State.sram (countEdge_frame pg before after) :)
@[simp] theorem countEdge_staged (pg : Page) (before after : State) : (countEdge pg before after).staged = after.staged :=
  (congrArg State.staged (countEdge_frame pg before after) :)
@[simp] theorem countEdge_sched (pg : Page) (before after : State) : (countEdge pg before after).sched = after.sched :=
  (congrArg State.sched (countEdge_frame pg before after) :)
@[simp] theorem countEdge_run (pg : Page) (before after : State) : (countEdge pg before after).run = after.run :=
  (congrArg State.run (countEdge_frame pg before after) :)
@[simp] theorem countEdge_trio (pg : Page) (before after : State) : (countEdge pg before after).trio = after.trio :=
  (congrArg State.trio (countEdge_frame pg before after) :)
@[simp] theorem countEdge_safety (pg : Page) (before after : State) : (countEdge pg before after).safety = after.safety :=
  (congrArg State.safety (countEdge_frame pg before after) :)
@[simp] theorem countEdge_field (pg : Page) (before after : State) : (countEdge pg before after).field = after.field :=
  (congrArg State.field (countEdge_frame pg before after) :)
@[simp] theorem countEdge_panel (pg : Page) (before after : State) : (countEdge pg before after).panel = after.panel :=
  (congrArg State.panel (countEdge_frame pg before after) :)
@[simp] theorem countEdge_ports (pg : Page) (before after : State) : (countEdge pg before after).ports = after.ports :=
  (congrArg State.ports (countEdge_frame pg before after) :)
@[simp] theorem countEdge_cans (pg : Page) (before after : State) : (countEdge pg before after).cans = after.cans :=
  (congrArg State.cans (countEdge_frame pg before after) :)
@[simp] theorem countEdge_uarts (pg : Page) (before after : State) : (countEdge pg before after).uarts = after.uarts :=
  (congrArg State.uarts (countEdge_frame pg before after) :)
@[simp] theorem countEdge_super (pg : Page) (before after : State) : (countEdge pg before after).super = after.super :=
  (congrArg State.super (countEdge_frame pg before after) :)
@[simp] theorem countEdge_mail (pg : Page) (before after : State) : (countEdge pg before after).mail = after.mail :=
  (congrArg State.mail (countEdge_frame pg before after) :)
@[simp] theorem countEdge_host (pg : Page) (before after : State) : (countEdge pg before after).host = after.host :=
  (congrArg State.host (countEdge_frame pg before after) :)
@[simp] theorem countEdge_recorder (pg : Page) (before after : State) : (countEdge pg before after).recorder = after.recorder :=
  (congrArg State.recorder (countEdge_frame pg before after) :)
@[simp] theorem countEdge_historian (pg : Page) (before after : State) : (countEdge pg before after).historian = after.historian :=
  (congrArg State.historian (countEdge_frame pg before after) :)
@[simp] theorem countEdge_otp (pg : Page) (before after : State) : (countEdge pg before after).otp = after.otp :=
  (congrArg State.otp (countEdge_frame pg before after) :)
@[simp] theorem countEdge_store (pg : Page) (before after : State) : (countEdge pg before after).store = after.store :=
  (congrArg State.store (countEdge_frame pg before after) :)
@[simp] theorem countEdge_flash (pg : Page) (before after : State) : (countEdge pg before after).flash = after.flash :=
  (congrArg State.flash (countEdge_frame pg before after) :)
@[simp] theorem countEdge_sec (pg : Page) (before after : State) : (countEdge pg before after).sec = after.sec :=
  (congrArg State.sec (countEdge_frame pg before after) :)
@[simp] theorem countEdge_upd (pg : Page) (before after : State) : (countEdge pg before after).upd = after.upd :=
  (congrArg State.upd (countEdge_frame pg before after) :)
@[simp] theorem countEdge_pwr (pg : Page) (before after : State) : (countEdge pg before after).pwr = after.pwr :=
  (congrArg State.pwr (countEdge_frame pg before after) :)
@[simp] theorem countEdge_forceInd (pg : Page) (before after : State) : (countEdge pg before after).forceInd = after.forceInd :=
  (congrArg State.forceInd (countEdge_frame pg before after) :)
@[simp] theorem countEdge_tapReset (pg : Page) (before after : State) : (countEdge pg before after).tapReset = after.tapReset :=
  (congrArg State.tapReset (countEdge_frame pg before after) :)
@[simp] theorem countEdge_resp (pg : Page) (before after : State) : (countEdge pg before after).resp = after.resp :=
  (congrArg State.resp (countEdge_frame pg before after) :)
@[simp] theorem countEdge_out (pg : Page) (before after : State) : (countEdge pg before after).out = after.out :=
  (congrArg State.out (countEdge_frame pg before after) :)
@[simp] theorem countEdge_free (pg : Page) (before after : State) : (countEdge pg before after).free = after.free :=
  (congrArg State.free (countEdge_frame pg before after) :)
@[simp] theorem countEdge_pending (pg : Page) (before after : State) : (countEdge pg before after).pending = after.pending :=
  (congrArg State.pending (countEdge_frame pg before after) :)

/-- `condEdge` changes nothing but headers. -/
theorem condEdge_frame (pg : Page) (before after : State) :
    { condEdge pg before after with hdrs := after.hdrs } = after := by
  unfold condEdge; split <;> simp

@[simp] theorem condEdge_part (pg : Page) (before after : State) : (condEdge pg before after).part = after.part :=
  (congrArg State.part (condEdge_frame pg before after) :)
@[simp] theorem condEdge_latches (pg : Page) (before after : State) : (condEdge pg before after).latches = after.latches :=
  (congrArg State.latches (condEdge_frame pg before after) :)
@[simp] theorem condEdge_heldLow (pg : Page) (before after : State) : (condEdge pg before after).heldLow = after.heldLow :=
  (congrArg State.heldLow (condEdge_frame pg before after) :)
@[simp] theorem condEdge_tb (pg : Page) (before after : State) : (condEdge pg before after).tb = after.tb :=
  (congrArg State.tb (condEdge_frame pg before after) :)
@[simp] theorem condEdge_crests (pg : Page) (before after : State) : (condEdge pg before after).crests = after.crests :=
  (congrArg State.crests (condEdge_frame pg before after) :)
@[simp] theorem condEdge_hub (pg : Page) (before after : State) : (condEdge pg before after).hub = after.hub :=
  (congrArg State.hub (condEdge_frame pg before after) :)
@[simp] theorem condEdge_flitFails (pg : Page) (before after : State) : (condEdge pg before after).flitFails = after.flitFails :=
  (congrArg State.flitFails (condEdge_frame pg before after) :)
@[simp] theorem condEdge_packets (pg : Page) (before after : State) : (condEdge pg before after).packets = after.packets :=
  (congrArg State.packets (condEdge_frame pg before after) :)
@[simp] theorem condEdge_nextPacket (pg : Page) (before after : State) : (condEdge pg before after).nextPacket = after.nextPacket :=
  (congrArg State.nextPacket (condEdge_frame pg before after) :)
@[simp] theorem condEdge_opened (pg : Page) (before after : State) : (condEdge pg before after).opened = after.opened :=
  (congrArg State.opened (condEdge_frame pg before after) :)
@[simp] theorem condEdge_pool (pg : Page) (before after : State) : (condEdge pg before after).pool = after.pool :=
  (congrArg State.pool (condEdge_frame pg before after) :)
@[simp] theorem condEdge_sram (pg : Page) (before after : State) : (condEdge pg before after).sram = after.sram :=
  (congrArg State.sram (condEdge_frame pg before after) :)
@[simp] theorem condEdge_staged (pg : Page) (before after : State) : (condEdge pg before after).staged = after.staged :=
  (congrArg State.staged (condEdge_frame pg before after) :)
@[simp] theorem condEdge_sched (pg : Page) (before after : State) : (condEdge pg before after).sched = after.sched :=
  (congrArg State.sched (condEdge_frame pg before after) :)
@[simp] theorem condEdge_run (pg : Page) (before after : State) : (condEdge pg before after).run = after.run :=
  (congrArg State.run (condEdge_frame pg before after) :)
@[simp] theorem condEdge_trio (pg : Page) (before after : State) : (condEdge pg before after).trio = after.trio :=
  (congrArg State.trio (condEdge_frame pg before after) :)
@[simp] theorem condEdge_safety (pg : Page) (before after : State) : (condEdge pg before after).safety = after.safety :=
  (congrArg State.safety (condEdge_frame pg before after) :)
@[simp] theorem condEdge_field (pg : Page) (before after : State) : (condEdge pg before after).field = after.field :=
  (congrArg State.field (condEdge_frame pg before after) :)
@[simp] theorem condEdge_panel (pg : Page) (before after : State) : (condEdge pg before after).panel = after.panel :=
  (congrArg State.panel (condEdge_frame pg before after) :)
@[simp] theorem condEdge_ports (pg : Page) (before after : State) : (condEdge pg before after).ports = after.ports :=
  (congrArg State.ports (condEdge_frame pg before after) :)
@[simp] theorem condEdge_cans (pg : Page) (before after : State) : (condEdge pg before after).cans = after.cans :=
  (congrArg State.cans (condEdge_frame pg before after) :)
@[simp] theorem condEdge_uarts (pg : Page) (before after : State) : (condEdge pg before after).uarts = after.uarts :=
  (congrArg State.uarts (condEdge_frame pg before after) :)
@[simp] theorem condEdge_super (pg : Page) (before after : State) : (condEdge pg before after).super = after.super :=
  (congrArg State.super (condEdge_frame pg before after) :)
@[simp] theorem condEdge_mail (pg : Page) (before after : State) : (condEdge pg before after).mail = after.mail :=
  (congrArg State.mail (condEdge_frame pg before after) :)
@[simp] theorem condEdge_host (pg : Page) (before after : State) : (condEdge pg before after).host = after.host :=
  (congrArg State.host (condEdge_frame pg before after) :)
@[simp] theorem condEdge_recorder (pg : Page) (before after : State) : (condEdge pg before after).recorder = after.recorder :=
  (congrArg State.recorder (condEdge_frame pg before after) :)
@[simp] theorem condEdge_historian (pg : Page) (before after : State) : (condEdge pg before after).historian = after.historian :=
  (congrArg State.historian (condEdge_frame pg before after) :)
@[simp] theorem condEdge_otp (pg : Page) (before after : State) : (condEdge pg before after).otp = after.otp :=
  (congrArg State.otp (condEdge_frame pg before after) :)
@[simp] theorem condEdge_store (pg : Page) (before after : State) : (condEdge pg before after).store = after.store :=
  (congrArg State.store (condEdge_frame pg before after) :)
@[simp] theorem condEdge_flash (pg : Page) (before after : State) : (condEdge pg before after).flash = after.flash :=
  (congrArg State.flash (condEdge_frame pg before after) :)
@[simp] theorem condEdge_sec (pg : Page) (before after : State) : (condEdge pg before after).sec = after.sec :=
  (congrArg State.sec (condEdge_frame pg before after) :)
@[simp] theorem condEdge_upd (pg : Page) (before after : State) : (condEdge pg before after).upd = after.upd :=
  (congrArg State.upd (condEdge_frame pg before after) :)
@[simp] theorem condEdge_pwr (pg : Page) (before after : State) : (condEdge pg before after).pwr = after.pwr :=
  (congrArg State.pwr (condEdge_frame pg before after) :)
@[simp] theorem condEdge_forceInd (pg : Page) (before after : State) : (condEdge pg before after).forceInd = after.forceInd :=
  (congrArg State.forceInd (condEdge_frame pg before after) :)
@[simp] theorem condEdge_tapReset (pg : Page) (before after : State) : (condEdge pg before after).tapReset = after.tapReset :=
  (congrArg State.tapReset (condEdge_frame pg before after) :)
@[simp] theorem condEdge_resp (pg : Page) (before after : State) : (condEdge pg before after).resp = after.resp :=
  (congrArg State.resp (condEdge_frame pg before after) :)
@[simp] theorem condEdge_out (pg : Page) (before after : State) : (condEdge pg before after).out = after.out :=
  (congrArg State.out (condEdge_frame pg before after) :)
@[simp] theorem condEdge_free (pg : Page) (before after : State) : (condEdge pg before after).free = after.free :=
  (congrArg State.free (condEdge_frame pg before after) :)
@[simp] theorem condEdge_pending (pg : Page) (before after : State) : (condEdge pg before after).pending = after.pending :=
  (congrArg State.pending (condEdge_frame pg before after) :)

/-- `setRaw` changes nothing but headers. -/
theorem setRaw_frame (pg : Page) (bit : Nat) (s : State) :
    { setRaw pg bit s with hdrs := s.hdrs } = s := by
  simp [setRaw]

@[simp] theorem setRaw_part (pg : Page) (bit : Nat) (s : State) : (setRaw pg bit s).part = s.part :=
  (congrArg State.part (setRaw_frame pg bit s) :)
@[simp] theorem setRaw_latches (pg : Page) (bit : Nat) (s : State) : (setRaw pg bit s).latches = s.latches :=
  (congrArg State.latches (setRaw_frame pg bit s) :)
@[simp] theorem setRaw_heldLow (pg : Page) (bit : Nat) (s : State) : (setRaw pg bit s).heldLow = s.heldLow :=
  (congrArg State.heldLow (setRaw_frame pg bit s) :)
@[simp] theorem setRaw_tb (pg : Page) (bit : Nat) (s : State) : (setRaw pg bit s).tb = s.tb :=
  (congrArg State.tb (setRaw_frame pg bit s) :)
@[simp] theorem setRaw_crests (pg : Page) (bit : Nat) (s : State) : (setRaw pg bit s).crests = s.crests :=
  (congrArg State.crests (setRaw_frame pg bit s) :)
@[simp] theorem setRaw_hub (pg : Page) (bit : Nat) (s : State) : (setRaw pg bit s).hub = s.hub :=
  (congrArg State.hub (setRaw_frame pg bit s) :)
@[simp] theorem setRaw_flitFails (pg : Page) (bit : Nat) (s : State) : (setRaw pg bit s).flitFails = s.flitFails :=
  (congrArg State.flitFails (setRaw_frame pg bit s) :)
@[simp] theorem setRaw_packets (pg : Page) (bit : Nat) (s : State) : (setRaw pg bit s).packets = s.packets :=
  (congrArg State.packets (setRaw_frame pg bit s) :)
@[simp] theorem setRaw_nextPacket (pg : Page) (bit : Nat) (s : State) : (setRaw pg bit s).nextPacket = s.nextPacket :=
  (congrArg State.nextPacket (setRaw_frame pg bit s) :)
@[simp] theorem setRaw_opened (pg : Page) (bit : Nat) (s : State) : (setRaw pg bit s).opened = s.opened :=
  (congrArg State.opened (setRaw_frame pg bit s) :)
@[simp] theorem setRaw_pool (pg : Page) (bit : Nat) (s : State) : (setRaw pg bit s).pool = s.pool :=
  (congrArg State.pool (setRaw_frame pg bit s) :)
@[simp] theorem setRaw_sram (pg : Page) (bit : Nat) (s : State) : (setRaw pg bit s).sram = s.sram :=
  (congrArg State.sram (setRaw_frame pg bit s) :)
@[simp] theorem setRaw_staged (pg : Page) (bit : Nat) (s : State) : (setRaw pg bit s).staged = s.staged :=
  (congrArg State.staged (setRaw_frame pg bit s) :)
@[simp] theorem setRaw_sched (pg : Page) (bit : Nat) (s : State) : (setRaw pg bit s).sched = s.sched :=
  (congrArg State.sched (setRaw_frame pg bit s) :)
@[simp] theorem setRaw_run (pg : Page) (bit : Nat) (s : State) : (setRaw pg bit s).run = s.run :=
  (congrArg State.run (setRaw_frame pg bit s) :)
@[simp] theorem setRaw_trio (pg : Page) (bit : Nat) (s : State) : (setRaw pg bit s).trio = s.trio :=
  (congrArg State.trio (setRaw_frame pg bit s) :)
@[simp] theorem setRaw_safety (pg : Page) (bit : Nat) (s : State) : (setRaw pg bit s).safety = s.safety :=
  (congrArg State.safety (setRaw_frame pg bit s) :)
@[simp] theorem setRaw_field (pg : Page) (bit : Nat) (s : State) : (setRaw pg bit s).field = s.field :=
  (congrArg State.field (setRaw_frame pg bit s) :)
@[simp] theorem setRaw_panel (pg : Page) (bit : Nat) (s : State) : (setRaw pg bit s).panel = s.panel :=
  (congrArg State.panel (setRaw_frame pg bit s) :)
@[simp] theorem setRaw_ports (pg : Page) (bit : Nat) (s : State) : (setRaw pg bit s).ports = s.ports :=
  (congrArg State.ports (setRaw_frame pg bit s) :)
@[simp] theorem setRaw_cans (pg : Page) (bit : Nat) (s : State) : (setRaw pg bit s).cans = s.cans :=
  (congrArg State.cans (setRaw_frame pg bit s) :)
@[simp] theorem setRaw_uarts (pg : Page) (bit : Nat) (s : State) : (setRaw pg bit s).uarts = s.uarts :=
  (congrArg State.uarts (setRaw_frame pg bit s) :)
@[simp] theorem setRaw_super (pg : Page) (bit : Nat) (s : State) : (setRaw pg bit s).super = s.super :=
  (congrArg State.super (setRaw_frame pg bit s) :)
@[simp] theorem setRaw_mail (pg : Page) (bit : Nat) (s : State) : (setRaw pg bit s).mail = s.mail :=
  (congrArg State.mail (setRaw_frame pg bit s) :)
@[simp] theorem setRaw_host (pg : Page) (bit : Nat) (s : State) : (setRaw pg bit s).host = s.host :=
  (congrArg State.host (setRaw_frame pg bit s) :)
@[simp] theorem setRaw_recorder (pg : Page) (bit : Nat) (s : State) : (setRaw pg bit s).recorder = s.recorder :=
  (congrArg State.recorder (setRaw_frame pg bit s) :)
@[simp] theorem setRaw_historian (pg : Page) (bit : Nat) (s : State) : (setRaw pg bit s).historian = s.historian :=
  (congrArg State.historian (setRaw_frame pg bit s) :)
@[simp] theorem setRaw_otp (pg : Page) (bit : Nat) (s : State) : (setRaw pg bit s).otp = s.otp :=
  (congrArg State.otp (setRaw_frame pg bit s) :)
@[simp] theorem setRaw_store (pg : Page) (bit : Nat) (s : State) : (setRaw pg bit s).store = s.store :=
  (congrArg State.store (setRaw_frame pg bit s) :)
@[simp] theorem setRaw_flash (pg : Page) (bit : Nat) (s : State) : (setRaw pg bit s).flash = s.flash :=
  (congrArg State.flash (setRaw_frame pg bit s) :)
@[simp] theorem setRaw_sec (pg : Page) (bit : Nat) (s : State) : (setRaw pg bit s).sec = s.sec :=
  (congrArg State.sec (setRaw_frame pg bit s) :)
@[simp] theorem setRaw_upd (pg : Page) (bit : Nat) (s : State) : (setRaw pg bit s).upd = s.upd :=
  (congrArg State.upd (setRaw_frame pg bit s) :)
@[simp] theorem setRaw_pwr (pg : Page) (bit : Nat) (s : State) : (setRaw pg bit s).pwr = s.pwr :=
  (congrArg State.pwr (setRaw_frame pg bit s) :)
@[simp] theorem setRaw_forceInd (pg : Page) (bit : Nat) (s : State) : (setRaw pg bit s).forceInd = s.forceInd :=
  (congrArg State.forceInd (setRaw_frame pg bit s) :)
@[simp] theorem setRaw_tapReset (pg : Page) (bit : Nat) (s : State) : (setRaw pg bit s).tapReset = s.tapReset :=
  (congrArg State.tapReset (setRaw_frame pg bit s) :)
@[simp] theorem setRaw_resp (pg : Page) (bit : Nat) (s : State) : (setRaw pg bit s).resp = s.resp :=
  (congrArg State.resp (setRaw_frame pg bit s) :)
@[simp] theorem setRaw_out (pg : Page) (bit : Nat) (s : State) : (setRaw pg bit s).out = s.out :=
  (congrArg State.out (setRaw_frame pg bit s) :)
@[simp] theorem setRaw_free (pg : Page) (bit : Nat) (s : State) : (setRaw pg bit s).free = s.free :=
  (congrArg State.free (setRaw_frame pg bit s) :)
@[simp] theorem setRaw_pending (pg : Page) (bit : Nat) (s : State) : (setRaw pg bit s).pending = s.pending :=
  (congrArg State.pending (setRaw_frame pg bit s) :)

/-- `dropEvent` changes nothing but headers, the recorder. -/
theorem dropEvent_frame (r : Fin 9) (ev : EventIn) (s : State) :
    { dropEvent r ev s with hdrs := s.hdrs, recorder := s.recorder } = s := by
  simp [dropEvent]

@[simp] theorem dropEvent_part (r : Fin 9) (ev : EventIn) (s : State) : (dropEvent r ev s).part = s.part :=
  (congrArg State.part (dropEvent_frame r ev s) :)
@[simp] theorem dropEvent_latches (r : Fin 9) (ev : EventIn) (s : State) : (dropEvent r ev s).latches = s.latches :=
  (congrArg State.latches (dropEvent_frame r ev s) :)
@[simp] theorem dropEvent_heldLow (r : Fin 9) (ev : EventIn) (s : State) : (dropEvent r ev s).heldLow = s.heldLow :=
  (congrArg State.heldLow (dropEvent_frame r ev s) :)
@[simp] theorem dropEvent_tb (r : Fin 9) (ev : EventIn) (s : State) : (dropEvent r ev s).tb = s.tb :=
  (congrArg State.tb (dropEvent_frame r ev s) :)
@[simp] theorem dropEvent_crests (r : Fin 9) (ev : EventIn) (s : State) : (dropEvent r ev s).crests = s.crests :=
  (congrArg State.crests (dropEvent_frame r ev s) :)
@[simp] theorem dropEvent_hub (r : Fin 9) (ev : EventIn) (s : State) : (dropEvent r ev s).hub = s.hub :=
  (congrArg State.hub (dropEvent_frame r ev s) :)
@[simp] theorem dropEvent_flitFails (r : Fin 9) (ev : EventIn) (s : State) : (dropEvent r ev s).flitFails = s.flitFails :=
  (congrArg State.flitFails (dropEvent_frame r ev s) :)
@[simp] theorem dropEvent_packets (r : Fin 9) (ev : EventIn) (s : State) : (dropEvent r ev s).packets = s.packets :=
  (congrArg State.packets (dropEvent_frame r ev s) :)
@[simp] theorem dropEvent_nextPacket (r : Fin 9) (ev : EventIn) (s : State) : (dropEvent r ev s).nextPacket = s.nextPacket :=
  (congrArg State.nextPacket (dropEvent_frame r ev s) :)
@[simp] theorem dropEvent_opened (r : Fin 9) (ev : EventIn) (s : State) : (dropEvent r ev s).opened = s.opened :=
  (congrArg State.opened (dropEvent_frame r ev s) :)
@[simp] theorem dropEvent_pool (r : Fin 9) (ev : EventIn) (s : State) : (dropEvent r ev s).pool = s.pool :=
  (congrArg State.pool (dropEvent_frame r ev s) :)
@[simp] theorem dropEvent_sram (r : Fin 9) (ev : EventIn) (s : State) : (dropEvent r ev s).sram = s.sram :=
  (congrArg State.sram (dropEvent_frame r ev s) :)
@[simp] theorem dropEvent_staged (r : Fin 9) (ev : EventIn) (s : State) : (dropEvent r ev s).staged = s.staged :=
  (congrArg State.staged (dropEvent_frame r ev s) :)
@[simp] theorem dropEvent_sched (r : Fin 9) (ev : EventIn) (s : State) : (dropEvent r ev s).sched = s.sched :=
  (congrArg State.sched (dropEvent_frame r ev s) :)
@[simp] theorem dropEvent_run (r : Fin 9) (ev : EventIn) (s : State) : (dropEvent r ev s).run = s.run :=
  (congrArg State.run (dropEvent_frame r ev s) :)
@[simp] theorem dropEvent_trio (r : Fin 9) (ev : EventIn) (s : State) : (dropEvent r ev s).trio = s.trio :=
  (congrArg State.trio (dropEvent_frame r ev s) :)
@[simp] theorem dropEvent_safety (r : Fin 9) (ev : EventIn) (s : State) : (dropEvent r ev s).safety = s.safety :=
  (congrArg State.safety (dropEvent_frame r ev s) :)
@[simp] theorem dropEvent_field (r : Fin 9) (ev : EventIn) (s : State) : (dropEvent r ev s).field = s.field :=
  (congrArg State.field (dropEvent_frame r ev s) :)
@[simp] theorem dropEvent_panel (r : Fin 9) (ev : EventIn) (s : State) : (dropEvent r ev s).panel = s.panel :=
  (congrArg State.panel (dropEvent_frame r ev s) :)
@[simp] theorem dropEvent_ports (r : Fin 9) (ev : EventIn) (s : State) : (dropEvent r ev s).ports = s.ports :=
  (congrArg State.ports (dropEvent_frame r ev s) :)
@[simp] theorem dropEvent_cans (r : Fin 9) (ev : EventIn) (s : State) : (dropEvent r ev s).cans = s.cans :=
  (congrArg State.cans (dropEvent_frame r ev s) :)
@[simp] theorem dropEvent_uarts (r : Fin 9) (ev : EventIn) (s : State) : (dropEvent r ev s).uarts = s.uarts :=
  (congrArg State.uarts (dropEvent_frame r ev s) :)
@[simp] theorem dropEvent_super (r : Fin 9) (ev : EventIn) (s : State) : (dropEvent r ev s).super = s.super :=
  (congrArg State.super (dropEvent_frame r ev s) :)
@[simp] theorem dropEvent_mail (r : Fin 9) (ev : EventIn) (s : State) : (dropEvent r ev s).mail = s.mail :=
  (congrArg State.mail (dropEvent_frame r ev s) :)
@[simp] theorem dropEvent_host (r : Fin 9) (ev : EventIn) (s : State) : (dropEvent r ev s).host = s.host :=
  (congrArg State.host (dropEvent_frame r ev s) :)
@[simp] theorem dropEvent_historian (r : Fin 9) (ev : EventIn) (s : State) : (dropEvent r ev s).historian = s.historian :=
  (congrArg State.historian (dropEvent_frame r ev s) :)
@[simp] theorem dropEvent_otp (r : Fin 9) (ev : EventIn) (s : State) : (dropEvent r ev s).otp = s.otp :=
  (congrArg State.otp (dropEvent_frame r ev s) :)
@[simp] theorem dropEvent_store (r : Fin 9) (ev : EventIn) (s : State) : (dropEvent r ev s).store = s.store :=
  (congrArg State.store (dropEvent_frame r ev s) :)
@[simp] theorem dropEvent_flash (r : Fin 9) (ev : EventIn) (s : State) : (dropEvent r ev s).flash = s.flash :=
  (congrArg State.flash (dropEvent_frame r ev s) :)
@[simp] theorem dropEvent_sec (r : Fin 9) (ev : EventIn) (s : State) : (dropEvent r ev s).sec = s.sec :=
  (congrArg State.sec (dropEvent_frame r ev s) :)
@[simp] theorem dropEvent_upd (r : Fin 9) (ev : EventIn) (s : State) : (dropEvent r ev s).upd = s.upd :=
  (congrArg State.upd (dropEvent_frame r ev s) :)
@[simp] theorem dropEvent_pwr (r : Fin 9) (ev : EventIn) (s : State) : (dropEvent r ev s).pwr = s.pwr :=
  (congrArg State.pwr (dropEvent_frame r ev s) :)
@[simp] theorem dropEvent_forceInd (r : Fin 9) (ev : EventIn) (s : State) : (dropEvent r ev s).forceInd = s.forceInd :=
  (congrArg State.forceInd (dropEvent_frame r ev s) :)
@[simp] theorem dropEvent_tapReset (r : Fin 9) (ev : EventIn) (s : State) : (dropEvent r ev s).tapReset = s.tapReset :=
  (congrArg State.tapReset (dropEvent_frame r ev s) :)
@[simp] theorem dropEvent_resp (r : Fin 9) (ev : EventIn) (s : State) : (dropEvent r ev s).resp = s.resp :=
  (congrArg State.resp (dropEvent_frame r ev s) :)
@[simp] theorem dropEvent_out (r : Fin 9) (ev : EventIn) (s : State) : (dropEvent r ev s).out = s.out :=
  (congrArg State.out (dropEvent_frame r ev s) :)
@[simp] theorem dropEvent_free (r : Fin 9) (ev : EventIn) (s : State) : (dropEvent r ev s).free = s.free :=
  (congrArg State.free (dropEvent_frame r ev s) :)
@[simp] theorem dropEvent_pending (r : Fin 9) (ev : EventIn) (s : State) : (dropEvent r ev s).pending = s.pending :=
  (congrArg State.pending (dropEvent_frame r ev s) :)

/-- `enqueueEvent` changes nothing but headers, the recorder. -/
theorem enqueueEvent_frame (ev : EventIn) (s : State) :
    { enqueueEvent ev s with hdrs := s.hdrs, recorder := s.recorder } = s := by
  unfold enqueueEvent; split <;> simp

@[simp] theorem enqueueEvent_part (ev : EventIn) (s : State) : (enqueueEvent ev s).part = s.part :=
  (congrArg State.part (enqueueEvent_frame ev s) :)
@[simp] theorem enqueueEvent_latches (ev : EventIn) (s : State) : (enqueueEvent ev s).latches = s.latches :=
  (congrArg State.latches (enqueueEvent_frame ev s) :)
@[simp] theorem enqueueEvent_heldLow (ev : EventIn) (s : State) : (enqueueEvent ev s).heldLow = s.heldLow :=
  (congrArg State.heldLow (enqueueEvent_frame ev s) :)
@[simp] theorem enqueueEvent_tb (ev : EventIn) (s : State) : (enqueueEvent ev s).tb = s.tb :=
  (congrArg State.tb (enqueueEvent_frame ev s) :)
@[simp] theorem enqueueEvent_crests (ev : EventIn) (s : State) : (enqueueEvent ev s).crests = s.crests :=
  (congrArg State.crests (enqueueEvent_frame ev s) :)
@[simp] theorem enqueueEvent_hub (ev : EventIn) (s : State) : (enqueueEvent ev s).hub = s.hub :=
  (congrArg State.hub (enqueueEvent_frame ev s) :)
@[simp] theorem enqueueEvent_flitFails (ev : EventIn) (s : State) : (enqueueEvent ev s).flitFails = s.flitFails :=
  (congrArg State.flitFails (enqueueEvent_frame ev s) :)
@[simp] theorem enqueueEvent_packets (ev : EventIn) (s : State) : (enqueueEvent ev s).packets = s.packets :=
  (congrArg State.packets (enqueueEvent_frame ev s) :)
@[simp] theorem enqueueEvent_nextPacket (ev : EventIn) (s : State) : (enqueueEvent ev s).nextPacket = s.nextPacket :=
  (congrArg State.nextPacket (enqueueEvent_frame ev s) :)
@[simp] theorem enqueueEvent_opened (ev : EventIn) (s : State) : (enqueueEvent ev s).opened = s.opened :=
  (congrArg State.opened (enqueueEvent_frame ev s) :)
@[simp] theorem enqueueEvent_pool (ev : EventIn) (s : State) : (enqueueEvent ev s).pool = s.pool :=
  (congrArg State.pool (enqueueEvent_frame ev s) :)
@[simp] theorem enqueueEvent_sram (ev : EventIn) (s : State) : (enqueueEvent ev s).sram = s.sram :=
  (congrArg State.sram (enqueueEvent_frame ev s) :)
@[simp] theorem enqueueEvent_staged (ev : EventIn) (s : State) : (enqueueEvent ev s).staged = s.staged :=
  (congrArg State.staged (enqueueEvent_frame ev s) :)
@[simp] theorem enqueueEvent_sched (ev : EventIn) (s : State) : (enqueueEvent ev s).sched = s.sched :=
  (congrArg State.sched (enqueueEvent_frame ev s) :)
@[simp] theorem enqueueEvent_run (ev : EventIn) (s : State) : (enqueueEvent ev s).run = s.run :=
  (congrArg State.run (enqueueEvent_frame ev s) :)
@[simp] theorem enqueueEvent_trio (ev : EventIn) (s : State) : (enqueueEvent ev s).trio = s.trio :=
  (congrArg State.trio (enqueueEvent_frame ev s) :)
@[simp] theorem enqueueEvent_safety (ev : EventIn) (s : State) : (enqueueEvent ev s).safety = s.safety :=
  (congrArg State.safety (enqueueEvent_frame ev s) :)
@[simp] theorem enqueueEvent_field (ev : EventIn) (s : State) : (enqueueEvent ev s).field = s.field :=
  (congrArg State.field (enqueueEvent_frame ev s) :)
@[simp] theorem enqueueEvent_panel (ev : EventIn) (s : State) : (enqueueEvent ev s).panel = s.panel :=
  (congrArg State.panel (enqueueEvent_frame ev s) :)
@[simp] theorem enqueueEvent_ports (ev : EventIn) (s : State) : (enqueueEvent ev s).ports = s.ports :=
  (congrArg State.ports (enqueueEvent_frame ev s) :)
@[simp] theorem enqueueEvent_cans (ev : EventIn) (s : State) : (enqueueEvent ev s).cans = s.cans :=
  (congrArg State.cans (enqueueEvent_frame ev s) :)
@[simp] theorem enqueueEvent_uarts (ev : EventIn) (s : State) : (enqueueEvent ev s).uarts = s.uarts :=
  (congrArg State.uarts (enqueueEvent_frame ev s) :)
@[simp] theorem enqueueEvent_super (ev : EventIn) (s : State) : (enqueueEvent ev s).super = s.super :=
  (congrArg State.super (enqueueEvent_frame ev s) :)
@[simp] theorem enqueueEvent_mail (ev : EventIn) (s : State) : (enqueueEvent ev s).mail = s.mail :=
  (congrArg State.mail (enqueueEvent_frame ev s) :)
@[simp] theorem enqueueEvent_host (ev : EventIn) (s : State) : (enqueueEvent ev s).host = s.host :=
  (congrArg State.host (enqueueEvent_frame ev s) :)
@[simp] theorem enqueueEvent_historian (ev : EventIn) (s : State) : (enqueueEvent ev s).historian = s.historian :=
  (congrArg State.historian (enqueueEvent_frame ev s) :)
@[simp] theorem enqueueEvent_otp (ev : EventIn) (s : State) : (enqueueEvent ev s).otp = s.otp :=
  (congrArg State.otp (enqueueEvent_frame ev s) :)
@[simp] theorem enqueueEvent_store (ev : EventIn) (s : State) : (enqueueEvent ev s).store = s.store :=
  (congrArg State.store (enqueueEvent_frame ev s) :)
@[simp] theorem enqueueEvent_flash (ev : EventIn) (s : State) : (enqueueEvent ev s).flash = s.flash :=
  (congrArg State.flash (enqueueEvent_frame ev s) :)
@[simp] theorem enqueueEvent_sec (ev : EventIn) (s : State) : (enqueueEvent ev s).sec = s.sec :=
  (congrArg State.sec (enqueueEvent_frame ev s) :)
@[simp] theorem enqueueEvent_upd (ev : EventIn) (s : State) : (enqueueEvent ev s).upd = s.upd :=
  (congrArg State.upd (enqueueEvent_frame ev s) :)
@[simp] theorem enqueueEvent_pwr (ev : EventIn) (s : State) : (enqueueEvent ev s).pwr = s.pwr :=
  (congrArg State.pwr (enqueueEvent_frame ev s) :)
@[simp] theorem enqueueEvent_forceInd (ev : EventIn) (s : State) : (enqueueEvent ev s).forceInd = s.forceInd :=
  (congrArg State.forceInd (enqueueEvent_frame ev s) :)
@[simp] theorem enqueueEvent_tapReset (ev : EventIn) (s : State) : (enqueueEvent ev s).tapReset = s.tapReset :=
  (congrArg State.tapReset (enqueueEvent_frame ev s) :)
@[simp] theorem enqueueEvent_resp (ev : EventIn) (s : State) : (enqueueEvent ev s).resp = s.resp :=
  (congrArg State.resp (enqueueEvent_frame ev s) :)
@[simp] theorem enqueueEvent_out (ev : EventIn) (s : State) : (enqueueEvent ev s).out = s.out :=
  (congrArg State.out (enqueueEvent_frame ev s) :)
@[simp] theorem enqueueEvent_free (ev : EventIn) (s : State) : (enqueueEvent ev s).free = s.free :=
  (congrArg State.free (enqueueEvent_frame ev s) :)
@[simp] theorem enqueueEvent_pending (ev : EventIn) (s : State) : (enqueueEvent ev s).pending = s.pending :=
  (congrArg State.pending (enqueueEvent_frame ev s) :)

/-- `recordEvent` changes nothing but headers, the recorder, the count of free values. -/
theorem recordEvent_frame (pg : Page) (n : Nat) (ten : Option (BitVec 3)) (sev : BitVec 3) (ps : Params) (s : State) :
    { recordEvent pg n ten sev ps s with hdrs := s.hdrs, recorder := s.recorder, free := s.free } = s := by
  unfold recordEvent; cases ps <;> simp [drawFree]

@[simp] theorem recordEvent_part (pg : Page) (n : Nat) (ten : Option (BitVec 3)) (sev : BitVec 3) (ps : Params) (s : State) : (recordEvent pg n ten sev ps s).part = s.part :=
  (congrArg State.part (recordEvent_frame pg n ten sev ps s) :)
@[simp] theorem recordEvent_latches (pg : Page) (n : Nat) (ten : Option (BitVec 3)) (sev : BitVec 3) (ps : Params) (s : State) : (recordEvent pg n ten sev ps s).latches = s.latches :=
  (congrArg State.latches (recordEvent_frame pg n ten sev ps s) :)
@[simp] theorem recordEvent_heldLow (pg : Page) (n : Nat) (ten : Option (BitVec 3)) (sev : BitVec 3) (ps : Params) (s : State) : (recordEvent pg n ten sev ps s).heldLow = s.heldLow :=
  (congrArg State.heldLow (recordEvent_frame pg n ten sev ps s) :)
@[simp] theorem recordEvent_tb (pg : Page) (n : Nat) (ten : Option (BitVec 3)) (sev : BitVec 3) (ps : Params) (s : State) : (recordEvent pg n ten sev ps s).tb = s.tb :=
  (congrArg State.tb (recordEvent_frame pg n ten sev ps s) :)
@[simp] theorem recordEvent_crests (pg : Page) (n : Nat) (ten : Option (BitVec 3)) (sev : BitVec 3) (ps : Params) (s : State) : (recordEvent pg n ten sev ps s).crests = s.crests :=
  (congrArg State.crests (recordEvent_frame pg n ten sev ps s) :)
@[simp] theorem recordEvent_hub (pg : Page) (n : Nat) (ten : Option (BitVec 3)) (sev : BitVec 3) (ps : Params) (s : State) : (recordEvent pg n ten sev ps s).hub = s.hub :=
  (congrArg State.hub (recordEvent_frame pg n ten sev ps s) :)
@[simp] theorem recordEvent_flitFails (pg : Page) (n : Nat) (ten : Option (BitVec 3)) (sev : BitVec 3) (ps : Params) (s : State) : (recordEvent pg n ten sev ps s).flitFails = s.flitFails :=
  (congrArg State.flitFails (recordEvent_frame pg n ten sev ps s) :)
@[simp] theorem recordEvent_packets (pg : Page) (n : Nat) (ten : Option (BitVec 3)) (sev : BitVec 3) (ps : Params) (s : State) : (recordEvent pg n ten sev ps s).packets = s.packets :=
  (congrArg State.packets (recordEvent_frame pg n ten sev ps s) :)
@[simp] theorem recordEvent_nextPacket (pg : Page) (n : Nat) (ten : Option (BitVec 3)) (sev : BitVec 3) (ps : Params) (s : State) : (recordEvent pg n ten sev ps s).nextPacket = s.nextPacket :=
  (congrArg State.nextPacket (recordEvent_frame pg n ten sev ps s) :)
@[simp] theorem recordEvent_opened (pg : Page) (n : Nat) (ten : Option (BitVec 3)) (sev : BitVec 3) (ps : Params) (s : State) : (recordEvent pg n ten sev ps s).opened = s.opened :=
  (congrArg State.opened (recordEvent_frame pg n ten sev ps s) :)
@[simp] theorem recordEvent_pool (pg : Page) (n : Nat) (ten : Option (BitVec 3)) (sev : BitVec 3) (ps : Params) (s : State) : (recordEvent pg n ten sev ps s).pool = s.pool :=
  (congrArg State.pool (recordEvent_frame pg n ten sev ps s) :)
@[simp] theorem recordEvent_sram (pg : Page) (n : Nat) (ten : Option (BitVec 3)) (sev : BitVec 3) (ps : Params) (s : State) : (recordEvent pg n ten sev ps s).sram = s.sram :=
  (congrArg State.sram (recordEvent_frame pg n ten sev ps s) :)
@[simp] theorem recordEvent_staged (pg : Page) (n : Nat) (ten : Option (BitVec 3)) (sev : BitVec 3) (ps : Params) (s : State) : (recordEvent pg n ten sev ps s).staged = s.staged :=
  (congrArg State.staged (recordEvent_frame pg n ten sev ps s) :)
@[simp] theorem recordEvent_sched (pg : Page) (n : Nat) (ten : Option (BitVec 3)) (sev : BitVec 3) (ps : Params) (s : State) : (recordEvent pg n ten sev ps s).sched = s.sched :=
  (congrArg State.sched (recordEvent_frame pg n ten sev ps s) :)
@[simp] theorem recordEvent_run (pg : Page) (n : Nat) (ten : Option (BitVec 3)) (sev : BitVec 3) (ps : Params) (s : State) : (recordEvent pg n ten sev ps s).run = s.run :=
  (congrArg State.run (recordEvent_frame pg n ten sev ps s) :)
@[simp] theorem recordEvent_trio (pg : Page) (n : Nat) (ten : Option (BitVec 3)) (sev : BitVec 3) (ps : Params) (s : State) : (recordEvent pg n ten sev ps s).trio = s.trio :=
  (congrArg State.trio (recordEvent_frame pg n ten sev ps s) :)
@[simp] theorem recordEvent_safety (pg : Page) (n : Nat) (ten : Option (BitVec 3)) (sev : BitVec 3) (ps : Params) (s : State) : (recordEvent pg n ten sev ps s).safety = s.safety :=
  (congrArg State.safety (recordEvent_frame pg n ten sev ps s) :)
@[simp] theorem recordEvent_field (pg : Page) (n : Nat) (ten : Option (BitVec 3)) (sev : BitVec 3) (ps : Params) (s : State) : (recordEvent pg n ten sev ps s).field = s.field :=
  (congrArg State.field (recordEvent_frame pg n ten sev ps s) :)
@[simp] theorem recordEvent_panel (pg : Page) (n : Nat) (ten : Option (BitVec 3)) (sev : BitVec 3) (ps : Params) (s : State) : (recordEvent pg n ten sev ps s).panel = s.panel :=
  (congrArg State.panel (recordEvent_frame pg n ten sev ps s) :)
@[simp] theorem recordEvent_ports (pg : Page) (n : Nat) (ten : Option (BitVec 3)) (sev : BitVec 3) (ps : Params) (s : State) : (recordEvent pg n ten sev ps s).ports = s.ports :=
  (congrArg State.ports (recordEvent_frame pg n ten sev ps s) :)
@[simp] theorem recordEvent_cans (pg : Page) (n : Nat) (ten : Option (BitVec 3)) (sev : BitVec 3) (ps : Params) (s : State) : (recordEvent pg n ten sev ps s).cans = s.cans :=
  (congrArg State.cans (recordEvent_frame pg n ten sev ps s) :)
@[simp] theorem recordEvent_uarts (pg : Page) (n : Nat) (ten : Option (BitVec 3)) (sev : BitVec 3) (ps : Params) (s : State) : (recordEvent pg n ten sev ps s).uarts = s.uarts :=
  (congrArg State.uarts (recordEvent_frame pg n ten sev ps s) :)
@[simp] theorem recordEvent_super (pg : Page) (n : Nat) (ten : Option (BitVec 3)) (sev : BitVec 3) (ps : Params) (s : State) : (recordEvent pg n ten sev ps s).super = s.super :=
  (congrArg State.super (recordEvent_frame pg n ten sev ps s) :)
@[simp] theorem recordEvent_mail (pg : Page) (n : Nat) (ten : Option (BitVec 3)) (sev : BitVec 3) (ps : Params) (s : State) : (recordEvent pg n ten sev ps s).mail = s.mail :=
  (congrArg State.mail (recordEvent_frame pg n ten sev ps s) :)
@[simp] theorem recordEvent_host (pg : Page) (n : Nat) (ten : Option (BitVec 3)) (sev : BitVec 3) (ps : Params) (s : State) : (recordEvent pg n ten sev ps s).host = s.host :=
  (congrArg State.host (recordEvent_frame pg n ten sev ps s) :)
@[simp] theorem recordEvent_historian (pg : Page) (n : Nat) (ten : Option (BitVec 3)) (sev : BitVec 3) (ps : Params) (s : State) : (recordEvent pg n ten sev ps s).historian = s.historian :=
  (congrArg State.historian (recordEvent_frame pg n ten sev ps s) :)
@[simp] theorem recordEvent_otp (pg : Page) (n : Nat) (ten : Option (BitVec 3)) (sev : BitVec 3) (ps : Params) (s : State) : (recordEvent pg n ten sev ps s).otp = s.otp :=
  (congrArg State.otp (recordEvent_frame pg n ten sev ps s) :)
@[simp] theorem recordEvent_store (pg : Page) (n : Nat) (ten : Option (BitVec 3)) (sev : BitVec 3) (ps : Params) (s : State) : (recordEvent pg n ten sev ps s).store = s.store :=
  (congrArg State.store (recordEvent_frame pg n ten sev ps s) :)
@[simp] theorem recordEvent_flash (pg : Page) (n : Nat) (ten : Option (BitVec 3)) (sev : BitVec 3) (ps : Params) (s : State) : (recordEvent pg n ten sev ps s).flash = s.flash :=
  (congrArg State.flash (recordEvent_frame pg n ten sev ps s) :)
@[simp] theorem recordEvent_sec (pg : Page) (n : Nat) (ten : Option (BitVec 3)) (sev : BitVec 3) (ps : Params) (s : State) : (recordEvent pg n ten sev ps s).sec = s.sec :=
  (congrArg State.sec (recordEvent_frame pg n ten sev ps s) :)
@[simp] theorem recordEvent_upd (pg : Page) (n : Nat) (ten : Option (BitVec 3)) (sev : BitVec 3) (ps : Params) (s : State) : (recordEvent pg n ten sev ps s).upd = s.upd :=
  (congrArg State.upd (recordEvent_frame pg n ten sev ps s) :)
@[simp] theorem recordEvent_pwr (pg : Page) (n : Nat) (ten : Option (BitVec 3)) (sev : BitVec 3) (ps : Params) (s : State) : (recordEvent pg n ten sev ps s).pwr = s.pwr :=
  (congrArg State.pwr (recordEvent_frame pg n ten sev ps s) :)
@[simp] theorem recordEvent_forceInd (pg : Page) (n : Nat) (ten : Option (BitVec 3)) (sev : BitVec 3) (ps : Params) (s : State) : (recordEvent pg n ten sev ps s).forceInd = s.forceInd :=
  (congrArg State.forceInd (recordEvent_frame pg n ten sev ps s) :)
@[simp] theorem recordEvent_tapReset (pg : Page) (n : Nat) (ten : Option (BitVec 3)) (sev : BitVec 3) (ps : Params) (s : State) : (recordEvent pg n ten sev ps s).tapReset = s.tapReset :=
  (congrArg State.tapReset (recordEvent_frame pg n ten sev ps s) :)
@[simp] theorem recordEvent_resp (pg : Page) (n : Nat) (ten : Option (BitVec 3)) (sev : BitVec 3) (ps : Params) (s : State) : (recordEvent pg n ten sev ps s).resp = s.resp :=
  (congrArg State.resp (recordEvent_frame pg n ten sev ps s) :)
@[simp] theorem recordEvent_out (pg : Page) (n : Nat) (ten : Option (BitVec 3)) (sev : BitVec 3) (ps : Params) (s : State) : (recordEvent pg n ten sev ps s).out = s.out :=
  (congrArg State.out (recordEvent_frame pg n ten sev ps s) :)
@[simp] theorem recordEvent_pending (pg : Page) (n : Nat) (ten : Option (BitVec 3)) (sev : BitVec 3) (ps : Params) (s : State) : (recordEvent pg n ten sev ps s).pending = s.pending :=
  (congrArg State.pending (recordEvent_frame pg n ten sev ps s) :)

/-- `raise` changes nothing but headers, the recorder, the count of free values. -/
theorem raise_frame (pg : Page) (bit : Nat) (ten : Option (BitVec 3)) (ps : Params) (s : State) :
    { raise pg bit ten ps s with hdrs := s.hdrs, recorder := s.recorder, free := s.free } = s := by
  simp [raise]

@[simp] theorem raise_part (pg : Page) (bit : Nat) (ten : Option (BitVec 3)) (ps : Params) (s : State) : (raise pg bit ten ps s).part = s.part :=
  (congrArg State.part (raise_frame pg bit ten ps s) :)
@[simp] theorem raise_latches (pg : Page) (bit : Nat) (ten : Option (BitVec 3)) (ps : Params) (s : State) : (raise pg bit ten ps s).latches = s.latches :=
  (congrArg State.latches (raise_frame pg bit ten ps s) :)
@[simp] theorem raise_heldLow (pg : Page) (bit : Nat) (ten : Option (BitVec 3)) (ps : Params) (s : State) : (raise pg bit ten ps s).heldLow = s.heldLow :=
  (congrArg State.heldLow (raise_frame pg bit ten ps s) :)
@[simp] theorem raise_tb (pg : Page) (bit : Nat) (ten : Option (BitVec 3)) (ps : Params) (s : State) : (raise pg bit ten ps s).tb = s.tb :=
  (congrArg State.tb (raise_frame pg bit ten ps s) :)
@[simp] theorem raise_crests (pg : Page) (bit : Nat) (ten : Option (BitVec 3)) (ps : Params) (s : State) : (raise pg bit ten ps s).crests = s.crests :=
  (congrArg State.crests (raise_frame pg bit ten ps s) :)
@[simp] theorem raise_hub (pg : Page) (bit : Nat) (ten : Option (BitVec 3)) (ps : Params) (s : State) : (raise pg bit ten ps s).hub = s.hub :=
  (congrArg State.hub (raise_frame pg bit ten ps s) :)
@[simp] theorem raise_flitFails (pg : Page) (bit : Nat) (ten : Option (BitVec 3)) (ps : Params) (s : State) : (raise pg bit ten ps s).flitFails = s.flitFails :=
  (congrArg State.flitFails (raise_frame pg bit ten ps s) :)
@[simp] theorem raise_packets (pg : Page) (bit : Nat) (ten : Option (BitVec 3)) (ps : Params) (s : State) : (raise pg bit ten ps s).packets = s.packets :=
  (congrArg State.packets (raise_frame pg bit ten ps s) :)
@[simp] theorem raise_nextPacket (pg : Page) (bit : Nat) (ten : Option (BitVec 3)) (ps : Params) (s : State) : (raise pg bit ten ps s).nextPacket = s.nextPacket :=
  (congrArg State.nextPacket (raise_frame pg bit ten ps s) :)
@[simp] theorem raise_opened (pg : Page) (bit : Nat) (ten : Option (BitVec 3)) (ps : Params) (s : State) : (raise pg bit ten ps s).opened = s.opened :=
  (congrArg State.opened (raise_frame pg bit ten ps s) :)
@[simp] theorem raise_pool (pg : Page) (bit : Nat) (ten : Option (BitVec 3)) (ps : Params) (s : State) : (raise pg bit ten ps s).pool = s.pool :=
  (congrArg State.pool (raise_frame pg bit ten ps s) :)
@[simp] theorem raise_sram (pg : Page) (bit : Nat) (ten : Option (BitVec 3)) (ps : Params) (s : State) : (raise pg bit ten ps s).sram = s.sram :=
  (congrArg State.sram (raise_frame pg bit ten ps s) :)
@[simp] theorem raise_staged (pg : Page) (bit : Nat) (ten : Option (BitVec 3)) (ps : Params) (s : State) : (raise pg bit ten ps s).staged = s.staged :=
  (congrArg State.staged (raise_frame pg bit ten ps s) :)
@[simp] theorem raise_sched (pg : Page) (bit : Nat) (ten : Option (BitVec 3)) (ps : Params) (s : State) : (raise pg bit ten ps s).sched = s.sched :=
  (congrArg State.sched (raise_frame pg bit ten ps s) :)
@[simp] theorem raise_run (pg : Page) (bit : Nat) (ten : Option (BitVec 3)) (ps : Params) (s : State) : (raise pg bit ten ps s).run = s.run :=
  (congrArg State.run (raise_frame pg bit ten ps s) :)
@[simp] theorem raise_trio (pg : Page) (bit : Nat) (ten : Option (BitVec 3)) (ps : Params) (s : State) : (raise pg bit ten ps s).trio = s.trio :=
  (congrArg State.trio (raise_frame pg bit ten ps s) :)
@[simp] theorem raise_safety (pg : Page) (bit : Nat) (ten : Option (BitVec 3)) (ps : Params) (s : State) : (raise pg bit ten ps s).safety = s.safety :=
  (congrArg State.safety (raise_frame pg bit ten ps s) :)
@[simp] theorem raise_field (pg : Page) (bit : Nat) (ten : Option (BitVec 3)) (ps : Params) (s : State) : (raise pg bit ten ps s).field = s.field :=
  (congrArg State.field (raise_frame pg bit ten ps s) :)
@[simp] theorem raise_panel (pg : Page) (bit : Nat) (ten : Option (BitVec 3)) (ps : Params) (s : State) : (raise pg bit ten ps s).panel = s.panel :=
  (congrArg State.panel (raise_frame pg bit ten ps s) :)
@[simp] theorem raise_ports (pg : Page) (bit : Nat) (ten : Option (BitVec 3)) (ps : Params) (s : State) : (raise pg bit ten ps s).ports = s.ports :=
  (congrArg State.ports (raise_frame pg bit ten ps s) :)
@[simp] theorem raise_cans (pg : Page) (bit : Nat) (ten : Option (BitVec 3)) (ps : Params) (s : State) : (raise pg bit ten ps s).cans = s.cans :=
  (congrArg State.cans (raise_frame pg bit ten ps s) :)
@[simp] theorem raise_uarts (pg : Page) (bit : Nat) (ten : Option (BitVec 3)) (ps : Params) (s : State) : (raise pg bit ten ps s).uarts = s.uarts :=
  (congrArg State.uarts (raise_frame pg bit ten ps s) :)
@[simp] theorem raise_super (pg : Page) (bit : Nat) (ten : Option (BitVec 3)) (ps : Params) (s : State) : (raise pg bit ten ps s).super = s.super :=
  (congrArg State.super (raise_frame pg bit ten ps s) :)
@[simp] theorem raise_mail (pg : Page) (bit : Nat) (ten : Option (BitVec 3)) (ps : Params) (s : State) : (raise pg bit ten ps s).mail = s.mail :=
  (congrArg State.mail (raise_frame pg bit ten ps s) :)
@[simp] theorem raise_host (pg : Page) (bit : Nat) (ten : Option (BitVec 3)) (ps : Params) (s : State) : (raise pg bit ten ps s).host = s.host :=
  (congrArg State.host (raise_frame pg bit ten ps s) :)
@[simp] theorem raise_historian (pg : Page) (bit : Nat) (ten : Option (BitVec 3)) (ps : Params) (s : State) : (raise pg bit ten ps s).historian = s.historian :=
  (congrArg State.historian (raise_frame pg bit ten ps s) :)
@[simp] theorem raise_otp (pg : Page) (bit : Nat) (ten : Option (BitVec 3)) (ps : Params) (s : State) : (raise pg bit ten ps s).otp = s.otp :=
  (congrArg State.otp (raise_frame pg bit ten ps s) :)
@[simp] theorem raise_store (pg : Page) (bit : Nat) (ten : Option (BitVec 3)) (ps : Params) (s : State) : (raise pg bit ten ps s).store = s.store :=
  (congrArg State.store (raise_frame pg bit ten ps s) :)
@[simp] theorem raise_flash (pg : Page) (bit : Nat) (ten : Option (BitVec 3)) (ps : Params) (s : State) : (raise pg bit ten ps s).flash = s.flash :=
  (congrArg State.flash (raise_frame pg bit ten ps s) :)
@[simp] theorem raise_sec (pg : Page) (bit : Nat) (ten : Option (BitVec 3)) (ps : Params) (s : State) : (raise pg bit ten ps s).sec = s.sec :=
  (congrArg State.sec (raise_frame pg bit ten ps s) :)
@[simp] theorem raise_upd (pg : Page) (bit : Nat) (ten : Option (BitVec 3)) (ps : Params) (s : State) : (raise pg bit ten ps s).upd = s.upd :=
  (congrArg State.upd (raise_frame pg bit ten ps s) :)
@[simp] theorem raise_pwr (pg : Page) (bit : Nat) (ten : Option (BitVec 3)) (ps : Params) (s : State) : (raise pg bit ten ps s).pwr = s.pwr :=
  (congrArg State.pwr (raise_frame pg bit ten ps s) :)
@[simp] theorem raise_forceInd (pg : Page) (bit : Nat) (ten : Option (BitVec 3)) (ps : Params) (s : State) : (raise pg bit ten ps s).forceInd = s.forceInd :=
  (congrArg State.forceInd (raise_frame pg bit ten ps s) :)
@[simp] theorem raise_tapReset (pg : Page) (bit : Nat) (ten : Option (BitVec 3)) (ps : Params) (s : State) : (raise pg bit ten ps s).tapReset = s.tapReset :=
  (congrArg State.tapReset (raise_frame pg bit ten ps s) :)
@[simp] theorem raise_resp (pg : Page) (bit : Nat) (ten : Option (BitVec 3)) (ps : Params) (s : State) : (raise pg bit ten ps s).resp = s.resp :=
  (congrArg State.resp (raise_frame pg bit ten ps s) :)
@[simp] theorem raise_out (pg : Page) (bit : Nat) (ten : Option (BitVec 3)) (ps : Params) (s : State) : (raise pg bit ten ps s).out = s.out :=
  (congrArg State.out (raise_frame pg bit ten ps s) :)
@[simp] theorem raise_pending (pg : Page) (bit : Nat) (ten : Option (BitVec 3)) (ps : Params) (s : State) : (raise pg bit ten ps s).pending = s.pending :=
  (congrArg State.pending (raise_frame pg bit ten ps s) :)

/-- `raiseSev` changes nothing but headers, the recorder, the count of free values. -/
theorem raiseSev_frame (pg : Page) (bit : Nat) (ten : Option (BitVec 3)) (sev : BitVec 3) (ps : Params) (s : State) :
    { raiseSev pg bit ten sev ps s with hdrs := s.hdrs, recorder := s.recorder, free := s.free } = s := by
  simp [raiseSev]

@[simp] theorem raiseSev_part (pg : Page) (bit : Nat) (ten : Option (BitVec 3)) (sev : BitVec 3) (ps : Params) (s : State) : (raiseSev pg bit ten sev ps s).part = s.part :=
  (congrArg State.part (raiseSev_frame pg bit ten sev ps s) :)
@[simp] theorem raiseSev_latches (pg : Page) (bit : Nat) (ten : Option (BitVec 3)) (sev : BitVec 3) (ps : Params) (s : State) : (raiseSev pg bit ten sev ps s).latches = s.latches :=
  (congrArg State.latches (raiseSev_frame pg bit ten sev ps s) :)
@[simp] theorem raiseSev_heldLow (pg : Page) (bit : Nat) (ten : Option (BitVec 3)) (sev : BitVec 3) (ps : Params) (s : State) : (raiseSev pg bit ten sev ps s).heldLow = s.heldLow :=
  (congrArg State.heldLow (raiseSev_frame pg bit ten sev ps s) :)
@[simp] theorem raiseSev_tb (pg : Page) (bit : Nat) (ten : Option (BitVec 3)) (sev : BitVec 3) (ps : Params) (s : State) : (raiseSev pg bit ten sev ps s).tb = s.tb :=
  (congrArg State.tb (raiseSev_frame pg bit ten sev ps s) :)
@[simp] theorem raiseSev_crests (pg : Page) (bit : Nat) (ten : Option (BitVec 3)) (sev : BitVec 3) (ps : Params) (s : State) : (raiseSev pg bit ten sev ps s).crests = s.crests :=
  (congrArg State.crests (raiseSev_frame pg bit ten sev ps s) :)
@[simp] theorem raiseSev_hub (pg : Page) (bit : Nat) (ten : Option (BitVec 3)) (sev : BitVec 3) (ps : Params) (s : State) : (raiseSev pg bit ten sev ps s).hub = s.hub :=
  (congrArg State.hub (raiseSev_frame pg bit ten sev ps s) :)
@[simp] theorem raiseSev_flitFails (pg : Page) (bit : Nat) (ten : Option (BitVec 3)) (sev : BitVec 3) (ps : Params) (s : State) : (raiseSev pg bit ten sev ps s).flitFails = s.flitFails :=
  (congrArg State.flitFails (raiseSev_frame pg bit ten sev ps s) :)
@[simp] theorem raiseSev_packets (pg : Page) (bit : Nat) (ten : Option (BitVec 3)) (sev : BitVec 3) (ps : Params) (s : State) : (raiseSev pg bit ten sev ps s).packets = s.packets :=
  (congrArg State.packets (raiseSev_frame pg bit ten sev ps s) :)
@[simp] theorem raiseSev_nextPacket (pg : Page) (bit : Nat) (ten : Option (BitVec 3)) (sev : BitVec 3) (ps : Params) (s : State) : (raiseSev pg bit ten sev ps s).nextPacket = s.nextPacket :=
  (congrArg State.nextPacket (raiseSev_frame pg bit ten sev ps s) :)
@[simp] theorem raiseSev_opened (pg : Page) (bit : Nat) (ten : Option (BitVec 3)) (sev : BitVec 3) (ps : Params) (s : State) : (raiseSev pg bit ten sev ps s).opened = s.opened :=
  (congrArg State.opened (raiseSev_frame pg bit ten sev ps s) :)
@[simp] theorem raiseSev_pool (pg : Page) (bit : Nat) (ten : Option (BitVec 3)) (sev : BitVec 3) (ps : Params) (s : State) : (raiseSev pg bit ten sev ps s).pool = s.pool :=
  (congrArg State.pool (raiseSev_frame pg bit ten sev ps s) :)
@[simp] theorem raiseSev_sram (pg : Page) (bit : Nat) (ten : Option (BitVec 3)) (sev : BitVec 3) (ps : Params) (s : State) : (raiseSev pg bit ten sev ps s).sram = s.sram :=
  (congrArg State.sram (raiseSev_frame pg bit ten sev ps s) :)
@[simp] theorem raiseSev_staged (pg : Page) (bit : Nat) (ten : Option (BitVec 3)) (sev : BitVec 3) (ps : Params) (s : State) : (raiseSev pg bit ten sev ps s).staged = s.staged :=
  (congrArg State.staged (raiseSev_frame pg bit ten sev ps s) :)
@[simp] theorem raiseSev_sched (pg : Page) (bit : Nat) (ten : Option (BitVec 3)) (sev : BitVec 3) (ps : Params) (s : State) : (raiseSev pg bit ten sev ps s).sched = s.sched :=
  (congrArg State.sched (raiseSev_frame pg bit ten sev ps s) :)
@[simp] theorem raiseSev_run (pg : Page) (bit : Nat) (ten : Option (BitVec 3)) (sev : BitVec 3) (ps : Params) (s : State) : (raiseSev pg bit ten sev ps s).run = s.run :=
  (congrArg State.run (raiseSev_frame pg bit ten sev ps s) :)
@[simp] theorem raiseSev_trio (pg : Page) (bit : Nat) (ten : Option (BitVec 3)) (sev : BitVec 3) (ps : Params) (s : State) : (raiseSev pg bit ten sev ps s).trio = s.trio :=
  (congrArg State.trio (raiseSev_frame pg bit ten sev ps s) :)
@[simp] theorem raiseSev_safety (pg : Page) (bit : Nat) (ten : Option (BitVec 3)) (sev : BitVec 3) (ps : Params) (s : State) : (raiseSev pg bit ten sev ps s).safety = s.safety :=
  (congrArg State.safety (raiseSev_frame pg bit ten sev ps s) :)
@[simp] theorem raiseSev_field (pg : Page) (bit : Nat) (ten : Option (BitVec 3)) (sev : BitVec 3) (ps : Params) (s : State) : (raiseSev pg bit ten sev ps s).field = s.field :=
  (congrArg State.field (raiseSev_frame pg bit ten sev ps s) :)
@[simp] theorem raiseSev_panel (pg : Page) (bit : Nat) (ten : Option (BitVec 3)) (sev : BitVec 3) (ps : Params) (s : State) : (raiseSev pg bit ten sev ps s).panel = s.panel :=
  (congrArg State.panel (raiseSev_frame pg bit ten sev ps s) :)
@[simp] theorem raiseSev_ports (pg : Page) (bit : Nat) (ten : Option (BitVec 3)) (sev : BitVec 3) (ps : Params) (s : State) : (raiseSev pg bit ten sev ps s).ports = s.ports :=
  (congrArg State.ports (raiseSev_frame pg bit ten sev ps s) :)
@[simp] theorem raiseSev_cans (pg : Page) (bit : Nat) (ten : Option (BitVec 3)) (sev : BitVec 3) (ps : Params) (s : State) : (raiseSev pg bit ten sev ps s).cans = s.cans :=
  (congrArg State.cans (raiseSev_frame pg bit ten sev ps s) :)
@[simp] theorem raiseSev_uarts (pg : Page) (bit : Nat) (ten : Option (BitVec 3)) (sev : BitVec 3) (ps : Params) (s : State) : (raiseSev pg bit ten sev ps s).uarts = s.uarts :=
  (congrArg State.uarts (raiseSev_frame pg bit ten sev ps s) :)
@[simp] theorem raiseSev_super (pg : Page) (bit : Nat) (ten : Option (BitVec 3)) (sev : BitVec 3) (ps : Params) (s : State) : (raiseSev pg bit ten sev ps s).super = s.super :=
  (congrArg State.super (raiseSev_frame pg bit ten sev ps s) :)
@[simp] theorem raiseSev_mail (pg : Page) (bit : Nat) (ten : Option (BitVec 3)) (sev : BitVec 3) (ps : Params) (s : State) : (raiseSev pg bit ten sev ps s).mail = s.mail :=
  (congrArg State.mail (raiseSev_frame pg bit ten sev ps s) :)
@[simp] theorem raiseSev_host (pg : Page) (bit : Nat) (ten : Option (BitVec 3)) (sev : BitVec 3) (ps : Params) (s : State) : (raiseSev pg bit ten sev ps s).host = s.host :=
  (congrArg State.host (raiseSev_frame pg bit ten sev ps s) :)
@[simp] theorem raiseSev_historian (pg : Page) (bit : Nat) (ten : Option (BitVec 3)) (sev : BitVec 3) (ps : Params) (s : State) : (raiseSev pg bit ten sev ps s).historian = s.historian :=
  (congrArg State.historian (raiseSev_frame pg bit ten sev ps s) :)
@[simp] theorem raiseSev_otp (pg : Page) (bit : Nat) (ten : Option (BitVec 3)) (sev : BitVec 3) (ps : Params) (s : State) : (raiseSev pg bit ten sev ps s).otp = s.otp :=
  (congrArg State.otp (raiseSev_frame pg bit ten sev ps s) :)
@[simp] theorem raiseSev_store (pg : Page) (bit : Nat) (ten : Option (BitVec 3)) (sev : BitVec 3) (ps : Params) (s : State) : (raiseSev pg bit ten sev ps s).store = s.store :=
  (congrArg State.store (raiseSev_frame pg bit ten sev ps s) :)
@[simp] theorem raiseSev_flash (pg : Page) (bit : Nat) (ten : Option (BitVec 3)) (sev : BitVec 3) (ps : Params) (s : State) : (raiseSev pg bit ten sev ps s).flash = s.flash :=
  (congrArg State.flash (raiseSev_frame pg bit ten sev ps s) :)
@[simp] theorem raiseSev_sec (pg : Page) (bit : Nat) (ten : Option (BitVec 3)) (sev : BitVec 3) (ps : Params) (s : State) : (raiseSev pg bit ten sev ps s).sec = s.sec :=
  (congrArg State.sec (raiseSev_frame pg bit ten sev ps s) :)
@[simp] theorem raiseSev_upd (pg : Page) (bit : Nat) (ten : Option (BitVec 3)) (sev : BitVec 3) (ps : Params) (s : State) : (raiseSev pg bit ten sev ps s).upd = s.upd :=
  (congrArg State.upd (raiseSev_frame pg bit ten sev ps s) :)
@[simp] theorem raiseSev_pwr (pg : Page) (bit : Nat) (ten : Option (BitVec 3)) (sev : BitVec 3) (ps : Params) (s : State) : (raiseSev pg bit ten sev ps s).pwr = s.pwr :=
  (congrArg State.pwr (raiseSev_frame pg bit ten sev ps s) :)
@[simp] theorem raiseSev_forceInd (pg : Page) (bit : Nat) (ten : Option (BitVec 3)) (sev : BitVec 3) (ps : Params) (s : State) : (raiseSev pg bit ten sev ps s).forceInd = s.forceInd :=
  (congrArg State.forceInd (raiseSev_frame pg bit ten sev ps s) :)
@[simp] theorem raiseSev_tapReset (pg : Page) (bit : Nat) (ten : Option (BitVec 3)) (sev : BitVec 3) (ps : Params) (s : State) : (raiseSev pg bit ten sev ps s).tapReset = s.tapReset :=
  (congrArg State.tapReset (raiseSev_frame pg bit ten sev ps s) :)
@[simp] theorem raiseSev_resp (pg : Page) (bit : Nat) (ten : Option (BitVec 3)) (sev : BitVec 3) (ps : Params) (s : State) : (raiseSev pg bit ten sev ps s).resp = s.resp :=
  (congrArg State.resp (raiseSev_frame pg bit ten sev ps s) :)
@[simp] theorem raiseSev_out (pg : Page) (bit : Nat) (ten : Option (BitVec 3)) (sev : BitVec 3) (ps : Params) (s : State) : (raiseSev pg bit ten sev ps s).out = s.out :=
  (congrArg State.out (raiseSev_frame pg bit ten sev ps s) :)
@[simp] theorem raiseSev_pending (pg : Page) (bit : Nat) (ten : Option (BitVec 3)) (sev : BitVec 3) (ps : Params) (s : State) : (raiseSev pg bit ten sev ps s).pending = s.pending :=
  (congrArg State.pending (raiseSev_frame pg bit ten sev ps s) :)

/-- `note` changes nothing but headers, the recorder, the count of free values. -/
theorem note_frame (pg : Page) (n : Nat) (ten : Option (BitVec 3)) (p0 p1 : Word) (s : State) :
    { note pg n ten p0 p1 s with hdrs := s.hdrs, recorder := s.recorder, free := s.free } = s := by
  simp [note]

@[simp] theorem note_part (pg : Page) (n : Nat) (ten : Option (BitVec 3)) (p0 p1 : Word) (s : State) : (note pg n ten p0 p1 s).part = s.part :=
  (congrArg State.part (note_frame pg n ten p0 p1 s) :)
@[simp] theorem note_latches (pg : Page) (n : Nat) (ten : Option (BitVec 3)) (p0 p1 : Word) (s : State) : (note pg n ten p0 p1 s).latches = s.latches :=
  (congrArg State.latches (note_frame pg n ten p0 p1 s) :)
@[simp] theorem note_heldLow (pg : Page) (n : Nat) (ten : Option (BitVec 3)) (p0 p1 : Word) (s : State) : (note pg n ten p0 p1 s).heldLow = s.heldLow :=
  (congrArg State.heldLow (note_frame pg n ten p0 p1 s) :)
@[simp] theorem note_tb (pg : Page) (n : Nat) (ten : Option (BitVec 3)) (p0 p1 : Word) (s : State) : (note pg n ten p0 p1 s).tb = s.tb :=
  (congrArg State.tb (note_frame pg n ten p0 p1 s) :)
@[simp] theorem note_crests (pg : Page) (n : Nat) (ten : Option (BitVec 3)) (p0 p1 : Word) (s : State) : (note pg n ten p0 p1 s).crests = s.crests :=
  (congrArg State.crests (note_frame pg n ten p0 p1 s) :)
@[simp] theorem note_hub (pg : Page) (n : Nat) (ten : Option (BitVec 3)) (p0 p1 : Word) (s : State) : (note pg n ten p0 p1 s).hub = s.hub :=
  (congrArg State.hub (note_frame pg n ten p0 p1 s) :)
@[simp] theorem note_flitFails (pg : Page) (n : Nat) (ten : Option (BitVec 3)) (p0 p1 : Word) (s : State) : (note pg n ten p0 p1 s).flitFails = s.flitFails :=
  (congrArg State.flitFails (note_frame pg n ten p0 p1 s) :)
@[simp] theorem note_packets (pg : Page) (n : Nat) (ten : Option (BitVec 3)) (p0 p1 : Word) (s : State) : (note pg n ten p0 p1 s).packets = s.packets :=
  (congrArg State.packets (note_frame pg n ten p0 p1 s) :)
@[simp] theorem note_nextPacket (pg : Page) (n : Nat) (ten : Option (BitVec 3)) (p0 p1 : Word) (s : State) : (note pg n ten p0 p1 s).nextPacket = s.nextPacket :=
  (congrArg State.nextPacket (note_frame pg n ten p0 p1 s) :)
@[simp] theorem note_opened (pg : Page) (n : Nat) (ten : Option (BitVec 3)) (p0 p1 : Word) (s : State) : (note pg n ten p0 p1 s).opened = s.opened :=
  (congrArg State.opened (note_frame pg n ten p0 p1 s) :)
@[simp] theorem note_pool (pg : Page) (n : Nat) (ten : Option (BitVec 3)) (p0 p1 : Word) (s : State) : (note pg n ten p0 p1 s).pool = s.pool :=
  (congrArg State.pool (note_frame pg n ten p0 p1 s) :)
@[simp] theorem note_sram (pg : Page) (n : Nat) (ten : Option (BitVec 3)) (p0 p1 : Word) (s : State) : (note pg n ten p0 p1 s).sram = s.sram :=
  (congrArg State.sram (note_frame pg n ten p0 p1 s) :)
@[simp] theorem note_staged (pg : Page) (n : Nat) (ten : Option (BitVec 3)) (p0 p1 : Word) (s : State) : (note pg n ten p0 p1 s).staged = s.staged :=
  (congrArg State.staged (note_frame pg n ten p0 p1 s) :)
@[simp] theorem note_sched (pg : Page) (n : Nat) (ten : Option (BitVec 3)) (p0 p1 : Word) (s : State) : (note pg n ten p0 p1 s).sched = s.sched :=
  (congrArg State.sched (note_frame pg n ten p0 p1 s) :)
@[simp] theorem note_run (pg : Page) (n : Nat) (ten : Option (BitVec 3)) (p0 p1 : Word) (s : State) : (note pg n ten p0 p1 s).run = s.run :=
  (congrArg State.run (note_frame pg n ten p0 p1 s) :)
@[simp] theorem note_trio (pg : Page) (n : Nat) (ten : Option (BitVec 3)) (p0 p1 : Word) (s : State) : (note pg n ten p0 p1 s).trio = s.trio :=
  (congrArg State.trio (note_frame pg n ten p0 p1 s) :)
@[simp] theorem note_safety (pg : Page) (n : Nat) (ten : Option (BitVec 3)) (p0 p1 : Word) (s : State) : (note pg n ten p0 p1 s).safety = s.safety :=
  (congrArg State.safety (note_frame pg n ten p0 p1 s) :)
@[simp] theorem note_field (pg : Page) (n : Nat) (ten : Option (BitVec 3)) (p0 p1 : Word) (s : State) : (note pg n ten p0 p1 s).field = s.field :=
  (congrArg State.field (note_frame pg n ten p0 p1 s) :)
@[simp] theorem note_panel (pg : Page) (n : Nat) (ten : Option (BitVec 3)) (p0 p1 : Word) (s : State) : (note pg n ten p0 p1 s).panel = s.panel :=
  (congrArg State.panel (note_frame pg n ten p0 p1 s) :)
@[simp] theorem note_ports (pg : Page) (n : Nat) (ten : Option (BitVec 3)) (p0 p1 : Word) (s : State) : (note pg n ten p0 p1 s).ports = s.ports :=
  (congrArg State.ports (note_frame pg n ten p0 p1 s) :)
@[simp] theorem note_cans (pg : Page) (n : Nat) (ten : Option (BitVec 3)) (p0 p1 : Word) (s : State) : (note pg n ten p0 p1 s).cans = s.cans :=
  (congrArg State.cans (note_frame pg n ten p0 p1 s) :)
@[simp] theorem note_uarts (pg : Page) (n : Nat) (ten : Option (BitVec 3)) (p0 p1 : Word) (s : State) : (note pg n ten p0 p1 s).uarts = s.uarts :=
  (congrArg State.uarts (note_frame pg n ten p0 p1 s) :)
@[simp] theorem note_super (pg : Page) (n : Nat) (ten : Option (BitVec 3)) (p0 p1 : Word) (s : State) : (note pg n ten p0 p1 s).super = s.super :=
  (congrArg State.super (note_frame pg n ten p0 p1 s) :)
@[simp] theorem note_mail (pg : Page) (n : Nat) (ten : Option (BitVec 3)) (p0 p1 : Word) (s : State) : (note pg n ten p0 p1 s).mail = s.mail :=
  (congrArg State.mail (note_frame pg n ten p0 p1 s) :)
@[simp] theorem note_host (pg : Page) (n : Nat) (ten : Option (BitVec 3)) (p0 p1 : Word) (s : State) : (note pg n ten p0 p1 s).host = s.host :=
  (congrArg State.host (note_frame pg n ten p0 p1 s) :)
@[simp] theorem note_historian (pg : Page) (n : Nat) (ten : Option (BitVec 3)) (p0 p1 : Word) (s : State) : (note pg n ten p0 p1 s).historian = s.historian :=
  (congrArg State.historian (note_frame pg n ten p0 p1 s) :)
@[simp] theorem note_otp (pg : Page) (n : Nat) (ten : Option (BitVec 3)) (p0 p1 : Word) (s : State) : (note pg n ten p0 p1 s).otp = s.otp :=
  (congrArg State.otp (note_frame pg n ten p0 p1 s) :)
@[simp] theorem note_store (pg : Page) (n : Nat) (ten : Option (BitVec 3)) (p0 p1 : Word) (s : State) : (note pg n ten p0 p1 s).store = s.store :=
  (congrArg State.store (note_frame pg n ten p0 p1 s) :)
@[simp] theorem note_flash (pg : Page) (n : Nat) (ten : Option (BitVec 3)) (p0 p1 : Word) (s : State) : (note pg n ten p0 p1 s).flash = s.flash :=
  (congrArg State.flash (note_frame pg n ten p0 p1 s) :)
@[simp] theorem note_sec (pg : Page) (n : Nat) (ten : Option (BitVec 3)) (p0 p1 : Word) (s : State) : (note pg n ten p0 p1 s).sec = s.sec :=
  (congrArg State.sec (note_frame pg n ten p0 p1 s) :)
@[simp] theorem note_upd (pg : Page) (n : Nat) (ten : Option (BitVec 3)) (p0 p1 : Word) (s : State) : (note pg n ten p0 p1 s).upd = s.upd :=
  (congrArg State.upd (note_frame pg n ten p0 p1 s) :)
@[simp] theorem note_pwr (pg : Page) (n : Nat) (ten : Option (BitVec 3)) (p0 p1 : Word) (s : State) : (note pg n ten p0 p1 s).pwr = s.pwr :=
  (congrArg State.pwr (note_frame pg n ten p0 p1 s) :)
@[simp] theorem note_forceInd (pg : Page) (n : Nat) (ten : Option (BitVec 3)) (p0 p1 : Word) (s : State) : (note pg n ten p0 p1 s).forceInd = s.forceInd :=
  (congrArg State.forceInd (note_frame pg n ten p0 p1 s) :)
@[simp] theorem note_tapReset (pg : Page) (n : Nat) (ten : Option (BitVec 3)) (p0 p1 : Word) (s : State) : (note pg n ten p0 p1 s).tapReset = s.tapReset :=
  (congrArg State.tapReset (note_frame pg n ten p0 p1 s) :)
@[simp] theorem note_resp (pg : Page) (n : Nat) (ten : Option (BitVec 3)) (p0 p1 : Word) (s : State) : (note pg n ten p0 p1 s).resp = s.resp :=
  (congrArg State.resp (note_frame pg n ten p0 p1 s) :)
@[simp] theorem note_out (pg : Page) (n : Nat) (ten : Option (BitVec 3)) (p0 p1 : Word) (s : State) : (note pg n ten p0 p1 s).out = s.out :=
  (congrArg State.out (note_frame pg n ten p0 p1 s) :)
@[simp] theorem note_pending (pg : Page) (n : Nat) (ten : Option (BitVec 3)) (p0 p1 : Word) (s : State) : (note pg n ten p0 p1 s).pending = s.pending :=
  (congrArg State.pending (note_frame pg n ten p0 p1 s) :)

/-- `raiseUrgent` changes nothing but headers, the recorder, the count of free values, the supervisor state. -/
theorem raiseUrgent_frame (pg : Page) (bit n : Nat) (ten : Option (BitVec 3)) (ps : Params) (s : State) :
    { raiseUrgent pg bit n ten ps s with hdrs := s.hdrs, recorder := s.recorder, free := s.free, super := s.super } = s := by
  simp [raiseUrgent]

@[simp] theorem raiseUrgent_part (pg : Page) (bit n : Nat) (ten : Option (BitVec 3)) (ps : Params) (s : State) : (raiseUrgent pg bit n ten ps s).part = s.part :=
  (congrArg State.part (raiseUrgent_frame pg bit n ten ps s) :)
@[simp] theorem raiseUrgent_latches (pg : Page) (bit n : Nat) (ten : Option (BitVec 3)) (ps : Params) (s : State) : (raiseUrgent pg bit n ten ps s).latches = s.latches :=
  (congrArg State.latches (raiseUrgent_frame pg bit n ten ps s) :)
@[simp] theorem raiseUrgent_heldLow (pg : Page) (bit n : Nat) (ten : Option (BitVec 3)) (ps : Params) (s : State) : (raiseUrgent pg bit n ten ps s).heldLow = s.heldLow :=
  (congrArg State.heldLow (raiseUrgent_frame pg bit n ten ps s) :)
@[simp] theorem raiseUrgent_tb (pg : Page) (bit n : Nat) (ten : Option (BitVec 3)) (ps : Params) (s : State) : (raiseUrgent pg bit n ten ps s).tb = s.tb :=
  (congrArg State.tb (raiseUrgent_frame pg bit n ten ps s) :)
@[simp] theorem raiseUrgent_crests (pg : Page) (bit n : Nat) (ten : Option (BitVec 3)) (ps : Params) (s : State) : (raiseUrgent pg bit n ten ps s).crests = s.crests :=
  (congrArg State.crests (raiseUrgent_frame pg bit n ten ps s) :)
@[simp] theorem raiseUrgent_hub (pg : Page) (bit n : Nat) (ten : Option (BitVec 3)) (ps : Params) (s : State) : (raiseUrgent pg bit n ten ps s).hub = s.hub :=
  (congrArg State.hub (raiseUrgent_frame pg bit n ten ps s) :)
@[simp] theorem raiseUrgent_flitFails (pg : Page) (bit n : Nat) (ten : Option (BitVec 3)) (ps : Params) (s : State) : (raiseUrgent pg bit n ten ps s).flitFails = s.flitFails :=
  (congrArg State.flitFails (raiseUrgent_frame pg bit n ten ps s) :)
@[simp] theorem raiseUrgent_packets (pg : Page) (bit n : Nat) (ten : Option (BitVec 3)) (ps : Params) (s : State) : (raiseUrgent pg bit n ten ps s).packets = s.packets :=
  (congrArg State.packets (raiseUrgent_frame pg bit n ten ps s) :)
@[simp] theorem raiseUrgent_nextPacket (pg : Page) (bit n : Nat) (ten : Option (BitVec 3)) (ps : Params) (s : State) : (raiseUrgent pg bit n ten ps s).nextPacket = s.nextPacket :=
  (congrArg State.nextPacket (raiseUrgent_frame pg bit n ten ps s) :)
@[simp] theorem raiseUrgent_opened (pg : Page) (bit n : Nat) (ten : Option (BitVec 3)) (ps : Params) (s : State) : (raiseUrgent pg bit n ten ps s).opened = s.opened :=
  (congrArg State.opened (raiseUrgent_frame pg bit n ten ps s) :)
@[simp] theorem raiseUrgent_pool (pg : Page) (bit n : Nat) (ten : Option (BitVec 3)) (ps : Params) (s : State) : (raiseUrgent pg bit n ten ps s).pool = s.pool :=
  (congrArg State.pool (raiseUrgent_frame pg bit n ten ps s) :)
@[simp] theorem raiseUrgent_sram (pg : Page) (bit n : Nat) (ten : Option (BitVec 3)) (ps : Params) (s : State) : (raiseUrgent pg bit n ten ps s).sram = s.sram :=
  (congrArg State.sram (raiseUrgent_frame pg bit n ten ps s) :)
@[simp] theorem raiseUrgent_staged (pg : Page) (bit n : Nat) (ten : Option (BitVec 3)) (ps : Params) (s : State) : (raiseUrgent pg bit n ten ps s).staged = s.staged :=
  (congrArg State.staged (raiseUrgent_frame pg bit n ten ps s) :)
@[simp] theorem raiseUrgent_sched (pg : Page) (bit n : Nat) (ten : Option (BitVec 3)) (ps : Params) (s : State) : (raiseUrgent pg bit n ten ps s).sched = s.sched :=
  (congrArg State.sched (raiseUrgent_frame pg bit n ten ps s) :)
@[simp] theorem raiseUrgent_run (pg : Page) (bit n : Nat) (ten : Option (BitVec 3)) (ps : Params) (s : State) : (raiseUrgent pg bit n ten ps s).run = s.run :=
  (congrArg State.run (raiseUrgent_frame pg bit n ten ps s) :)
@[simp] theorem raiseUrgent_trio (pg : Page) (bit n : Nat) (ten : Option (BitVec 3)) (ps : Params) (s : State) : (raiseUrgent pg bit n ten ps s).trio = s.trio :=
  (congrArg State.trio (raiseUrgent_frame pg bit n ten ps s) :)
@[simp] theorem raiseUrgent_safety (pg : Page) (bit n : Nat) (ten : Option (BitVec 3)) (ps : Params) (s : State) : (raiseUrgent pg bit n ten ps s).safety = s.safety :=
  (congrArg State.safety (raiseUrgent_frame pg bit n ten ps s) :)
@[simp] theorem raiseUrgent_field (pg : Page) (bit n : Nat) (ten : Option (BitVec 3)) (ps : Params) (s : State) : (raiseUrgent pg bit n ten ps s).field = s.field :=
  (congrArg State.field (raiseUrgent_frame pg bit n ten ps s) :)
@[simp] theorem raiseUrgent_panel (pg : Page) (bit n : Nat) (ten : Option (BitVec 3)) (ps : Params) (s : State) : (raiseUrgent pg bit n ten ps s).panel = s.panel :=
  (congrArg State.panel (raiseUrgent_frame pg bit n ten ps s) :)
@[simp] theorem raiseUrgent_ports (pg : Page) (bit n : Nat) (ten : Option (BitVec 3)) (ps : Params) (s : State) : (raiseUrgent pg bit n ten ps s).ports = s.ports :=
  (congrArg State.ports (raiseUrgent_frame pg bit n ten ps s) :)
@[simp] theorem raiseUrgent_cans (pg : Page) (bit n : Nat) (ten : Option (BitVec 3)) (ps : Params) (s : State) : (raiseUrgent pg bit n ten ps s).cans = s.cans :=
  (congrArg State.cans (raiseUrgent_frame pg bit n ten ps s) :)
@[simp] theorem raiseUrgent_uarts (pg : Page) (bit n : Nat) (ten : Option (BitVec 3)) (ps : Params) (s : State) : (raiseUrgent pg bit n ten ps s).uarts = s.uarts :=
  (congrArg State.uarts (raiseUrgent_frame pg bit n ten ps s) :)
@[simp] theorem raiseUrgent_mail (pg : Page) (bit n : Nat) (ten : Option (BitVec 3)) (ps : Params) (s : State) : (raiseUrgent pg bit n ten ps s).mail = s.mail :=
  (congrArg State.mail (raiseUrgent_frame pg bit n ten ps s) :)
@[simp] theorem raiseUrgent_host (pg : Page) (bit n : Nat) (ten : Option (BitVec 3)) (ps : Params) (s : State) : (raiseUrgent pg bit n ten ps s).host = s.host :=
  (congrArg State.host (raiseUrgent_frame pg bit n ten ps s) :)
@[simp] theorem raiseUrgent_historian (pg : Page) (bit n : Nat) (ten : Option (BitVec 3)) (ps : Params) (s : State) : (raiseUrgent pg bit n ten ps s).historian = s.historian :=
  (congrArg State.historian (raiseUrgent_frame pg bit n ten ps s) :)
@[simp] theorem raiseUrgent_otp (pg : Page) (bit n : Nat) (ten : Option (BitVec 3)) (ps : Params) (s : State) : (raiseUrgent pg bit n ten ps s).otp = s.otp :=
  (congrArg State.otp (raiseUrgent_frame pg bit n ten ps s) :)
@[simp] theorem raiseUrgent_store (pg : Page) (bit n : Nat) (ten : Option (BitVec 3)) (ps : Params) (s : State) : (raiseUrgent pg bit n ten ps s).store = s.store :=
  (congrArg State.store (raiseUrgent_frame pg bit n ten ps s) :)
@[simp] theorem raiseUrgent_flash (pg : Page) (bit n : Nat) (ten : Option (BitVec 3)) (ps : Params) (s : State) : (raiseUrgent pg bit n ten ps s).flash = s.flash :=
  (congrArg State.flash (raiseUrgent_frame pg bit n ten ps s) :)
@[simp] theorem raiseUrgent_sec (pg : Page) (bit n : Nat) (ten : Option (BitVec 3)) (ps : Params) (s : State) : (raiseUrgent pg bit n ten ps s).sec = s.sec :=
  (congrArg State.sec (raiseUrgent_frame pg bit n ten ps s) :)
@[simp] theorem raiseUrgent_upd (pg : Page) (bit n : Nat) (ten : Option (BitVec 3)) (ps : Params) (s : State) : (raiseUrgent pg bit n ten ps s).upd = s.upd :=
  (congrArg State.upd (raiseUrgent_frame pg bit n ten ps s) :)
@[simp] theorem raiseUrgent_pwr (pg : Page) (bit n : Nat) (ten : Option (BitVec 3)) (ps : Params) (s : State) : (raiseUrgent pg bit n ten ps s).pwr = s.pwr :=
  (congrArg State.pwr (raiseUrgent_frame pg bit n ten ps s) :)
@[simp] theorem raiseUrgent_forceInd (pg : Page) (bit n : Nat) (ten : Option (BitVec 3)) (ps : Params) (s : State) : (raiseUrgent pg bit n ten ps s).forceInd = s.forceInd :=
  (congrArg State.forceInd (raiseUrgent_frame pg bit n ten ps s) :)
@[simp] theorem raiseUrgent_tapReset (pg : Page) (bit n : Nat) (ten : Option (BitVec 3)) (ps : Params) (s : State) : (raiseUrgent pg bit n ten ps s).tapReset = s.tapReset :=
  (congrArg State.tapReset (raiseUrgent_frame pg bit n ten ps s) :)
@[simp] theorem raiseUrgent_resp (pg : Page) (bit n : Nat) (ten : Option (BitVec 3)) (ps : Params) (s : State) : (raiseUrgent pg bit n ten ps s).resp = s.resp :=
  (congrArg State.resp (raiseUrgent_frame pg bit n ten ps s) :)
@[simp] theorem raiseUrgent_out (pg : Page) (bit n : Nat) (ten : Option (BitVec 3)) (ps : Params) (s : State) : (raiseUrgent pg bit n ten ps s).out = s.out :=
  (congrArg State.out (raiseUrgent_frame pg bit n ten ps s) :)
@[simp] theorem raiseUrgent_pending (pg : Page) (bit n : Nat) (ten : Option (BitVec 3)) (ps : Params) (s : State) : (raiseUrgent pg bit n ten ps s).pending = s.pending :=
  (congrArg State.pending (raiseUrgent_frame pg bit n ten ps s) :)

/-- `noteConds` changes nothing but headers, the recorder, the count of free values. -/
theorem noteConds_frame (pgs : List Page) (before after : State) :
    { noteConds pgs before after with hdrs := after.hdrs, recorder := after.recorder, free := after.free } = after := by
  exact noteConds_proj (fun x => { x with hdrs := after.hdrs, recorder := after.recorder, free := after.free })
    (fun pg n sev ps s => by simp) (fun pg w s => by simp) pgs before after

@[simp] theorem noteConds_part (pgs : List Page) (before after : State) : (noteConds pgs before after).part = after.part :=
  (congrArg State.part (noteConds_frame pgs before after) :)
@[simp] theorem noteConds_latches (pgs : List Page) (before after : State) : (noteConds pgs before after).latches = after.latches :=
  (congrArg State.latches (noteConds_frame pgs before after) :)
@[simp] theorem noteConds_heldLow (pgs : List Page) (before after : State) : (noteConds pgs before after).heldLow = after.heldLow :=
  (congrArg State.heldLow (noteConds_frame pgs before after) :)
@[simp] theorem noteConds_tb (pgs : List Page) (before after : State) : (noteConds pgs before after).tb = after.tb :=
  (congrArg State.tb (noteConds_frame pgs before after) :)
@[simp] theorem noteConds_crests (pgs : List Page) (before after : State) : (noteConds pgs before after).crests = after.crests :=
  (congrArg State.crests (noteConds_frame pgs before after) :)
@[simp] theorem noteConds_hub (pgs : List Page) (before after : State) : (noteConds pgs before after).hub = after.hub :=
  (congrArg State.hub (noteConds_frame pgs before after) :)
@[simp] theorem noteConds_flitFails (pgs : List Page) (before after : State) : (noteConds pgs before after).flitFails = after.flitFails :=
  (congrArg State.flitFails (noteConds_frame pgs before after) :)
@[simp] theorem noteConds_packets (pgs : List Page) (before after : State) : (noteConds pgs before after).packets = after.packets :=
  (congrArg State.packets (noteConds_frame pgs before after) :)
@[simp] theorem noteConds_nextPacket (pgs : List Page) (before after : State) : (noteConds pgs before after).nextPacket = after.nextPacket :=
  (congrArg State.nextPacket (noteConds_frame pgs before after) :)
@[simp] theorem noteConds_opened (pgs : List Page) (before after : State) : (noteConds pgs before after).opened = after.opened :=
  (congrArg State.opened (noteConds_frame pgs before after) :)
@[simp] theorem noteConds_pool (pgs : List Page) (before after : State) : (noteConds pgs before after).pool = after.pool :=
  (congrArg State.pool (noteConds_frame pgs before after) :)
@[simp] theorem noteConds_sram (pgs : List Page) (before after : State) : (noteConds pgs before after).sram = after.sram :=
  (congrArg State.sram (noteConds_frame pgs before after) :)
@[simp] theorem noteConds_staged (pgs : List Page) (before after : State) : (noteConds pgs before after).staged = after.staged :=
  (congrArg State.staged (noteConds_frame pgs before after) :)
@[simp] theorem noteConds_sched (pgs : List Page) (before after : State) : (noteConds pgs before after).sched = after.sched :=
  (congrArg State.sched (noteConds_frame pgs before after) :)
@[simp] theorem noteConds_run (pgs : List Page) (before after : State) : (noteConds pgs before after).run = after.run :=
  (congrArg State.run (noteConds_frame pgs before after) :)
@[simp] theorem noteConds_trio (pgs : List Page) (before after : State) : (noteConds pgs before after).trio = after.trio :=
  (congrArg State.trio (noteConds_frame pgs before after) :)
@[simp] theorem noteConds_safety (pgs : List Page) (before after : State) : (noteConds pgs before after).safety = after.safety :=
  (congrArg State.safety (noteConds_frame pgs before after) :)
@[simp] theorem noteConds_field (pgs : List Page) (before after : State) : (noteConds pgs before after).field = after.field :=
  (congrArg State.field (noteConds_frame pgs before after) :)
@[simp] theorem noteConds_panel (pgs : List Page) (before after : State) : (noteConds pgs before after).panel = after.panel :=
  (congrArg State.panel (noteConds_frame pgs before after) :)
@[simp] theorem noteConds_ports (pgs : List Page) (before after : State) : (noteConds pgs before after).ports = after.ports :=
  (congrArg State.ports (noteConds_frame pgs before after) :)
@[simp] theorem noteConds_cans (pgs : List Page) (before after : State) : (noteConds pgs before after).cans = after.cans :=
  (congrArg State.cans (noteConds_frame pgs before after) :)
@[simp] theorem noteConds_uarts (pgs : List Page) (before after : State) : (noteConds pgs before after).uarts = after.uarts :=
  (congrArg State.uarts (noteConds_frame pgs before after) :)
@[simp] theorem noteConds_super (pgs : List Page) (before after : State) : (noteConds pgs before after).super = after.super :=
  (congrArg State.super (noteConds_frame pgs before after) :)
@[simp] theorem noteConds_mail (pgs : List Page) (before after : State) : (noteConds pgs before after).mail = after.mail :=
  (congrArg State.mail (noteConds_frame pgs before after) :)
@[simp] theorem noteConds_host (pgs : List Page) (before after : State) : (noteConds pgs before after).host = after.host :=
  (congrArg State.host (noteConds_frame pgs before after) :)
@[simp] theorem noteConds_historian (pgs : List Page) (before after : State) : (noteConds pgs before after).historian = after.historian :=
  (congrArg State.historian (noteConds_frame pgs before after) :)
@[simp] theorem noteConds_otp (pgs : List Page) (before after : State) : (noteConds pgs before after).otp = after.otp :=
  (congrArg State.otp (noteConds_frame pgs before after) :)
@[simp] theorem noteConds_store (pgs : List Page) (before after : State) : (noteConds pgs before after).store = after.store :=
  (congrArg State.store (noteConds_frame pgs before after) :)
@[simp] theorem noteConds_flash (pgs : List Page) (before after : State) : (noteConds pgs before after).flash = after.flash :=
  (congrArg State.flash (noteConds_frame pgs before after) :)
@[simp] theorem noteConds_sec (pgs : List Page) (before after : State) : (noteConds pgs before after).sec = after.sec :=
  (congrArg State.sec (noteConds_frame pgs before after) :)
@[simp] theorem noteConds_upd (pgs : List Page) (before after : State) : (noteConds pgs before after).upd = after.upd :=
  (congrArg State.upd (noteConds_frame pgs before after) :)
@[simp] theorem noteConds_pwr (pgs : List Page) (before after : State) : (noteConds pgs before after).pwr = after.pwr :=
  (congrArg State.pwr (noteConds_frame pgs before after) :)
@[simp] theorem noteConds_forceInd (pgs : List Page) (before after : State) : (noteConds pgs before after).forceInd = after.forceInd :=
  (congrArg State.forceInd (noteConds_frame pgs before after) :)
@[simp] theorem noteConds_tapReset (pgs : List Page) (before after : State) : (noteConds pgs before after).tapReset = after.tapReset :=
  (congrArg State.tapReset (noteConds_frame pgs before after) :)
@[simp] theorem noteConds_resp (pgs : List Page) (before after : State) : (noteConds pgs before after).resp = after.resp :=
  (congrArg State.resp (noteConds_frame pgs before after) :)
@[simp] theorem noteConds_out (pgs : List Page) (before after : State) : (noteConds pgs before after).out = after.out :=
  (congrArg State.out (noteConds_frame pgs before after) :)
@[simp] theorem noteConds_pending (pgs : List Page) (before after : State) : (noteConds pgs before after).pending = after.pending :=
  (congrArg State.pending (noteConds_frame pgs before after) :)

/-- `errorResponse` changes nothing but headers, the answer. -/
theorem errorResponse_frame (pg : Option Page) (s : State) :
    { errorResponse pg s with hdrs := s.hdrs, resp := s.resp } = s := by
  cases pg with
  | none => rfl
  | some pg => simp only [errorResponse]; split <;> simp

@[simp] theorem errorResponse_part (pg : Option Page) (s : State) : (errorResponse pg s).part = s.part :=
  (congrArg State.part (errorResponse_frame pg s) :)
@[simp] theorem errorResponse_latches (pg : Option Page) (s : State) : (errorResponse pg s).latches = s.latches :=
  (congrArg State.latches (errorResponse_frame pg s) :)
@[simp] theorem errorResponse_heldLow (pg : Option Page) (s : State) : (errorResponse pg s).heldLow = s.heldLow :=
  (congrArg State.heldLow (errorResponse_frame pg s) :)
@[simp] theorem errorResponse_tb (pg : Option Page) (s : State) : (errorResponse pg s).tb = s.tb :=
  (congrArg State.tb (errorResponse_frame pg s) :)
@[simp] theorem errorResponse_crests (pg : Option Page) (s : State) : (errorResponse pg s).crests = s.crests :=
  (congrArg State.crests (errorResponse_frame pg s) :)
@[simp] theorem errorResponse_hub (pg : Option Page) (s : State) : (errorResponse pg s).hub = s.hub :=
  (congrArg State.hub (errorResponse_frame pg s) :)
@[simp] theorem errorResponse_flitFails (pg : Option Page) (s : State) : (errorResponse pg s).flitFails = s.flitFails :=
  (congrArg State.flitFails (errorResponse_frame pg s) :)
@[simp] theorem errorResponse_packets (pg : Option Page) (s : State) : (errorResponse pg s).packets = s.packets :=
  (congrArg State.packets (errorResponse_frame pg s) :)
@[simp] theorem errorResponse_nextPacket (pg : Option Page) (s : State) : (errorResponse pg s).nextPacket = s.nextPacket :=
  (congrArg State.nextPacket (errorResponse_frame pg s) :)
@[simp] theorem errorResponse_opened (pg : Option Page) (s : State) : (errorResponse pg s).opened = s.opened :=
  (congrArg State.opened (errorResponse_frame pg s) :)
@[simp] theorem errorResponse_pool (pg : Option Page) (s : State) : (errorResponse pg s).pool = s.pool :=
  (congrArg State.pool (errorResponse_frame pg s) :)
@[simp] theorem errorResponse_sram (pg : Option Page) (s : State) : (errorResponse pg s).sram = s.sram :=
  (congrArg State.sram (errorResponse_frame pg s) :)
@[simp] theorem errorResponse_staged (pg : Option Page) (s : State) : (errorResponse pg s).staged = s.staged :=
  (congrArg State.staged (errorResponse_frame pg s) :)
@[simp] theorem errorResponse_sched (pg : Option Page) (s : State) : (errorResponse pg s).sched = s.sched :=
  (congrArg State.sched (errorResponse_frame pg s) :)
@[simp] theorem errorResponse_run (pg : Option Page) (s : State) : (errorResponse pg s).run = s.run :=
  (congrArg State.run (errorResponse_frame pg s) :)
@[simp] theorem errorResponse_trio (pg : Option Page) (s : State) : (errorResponse pg s).trio = s.trio :=
  (congrArg State.trio (errorResponse_frame pg s) :)
@[simp] theorem errorResponse_safety (pg : Option Page) (s : State) : (errorResponse pg s).safety = s.safety :=
  (congrArg State.safety (errorResponse_frame pg s) :)
@[simp] theorem errorResponse_field (pg : Option Page) (s : State) : (errorResponse pg s).field = s.field :=
  (congrArg State.field (errorResponse_frame pg s) :)
@[simp] theorem errorResponse_panel (pg : Option Page) (s : State) : (errorResponse pg s).panel = s.panel :=
  (congrArg State.panel (errorResponse_frame pg s) :)
@[simp] theorem errorResponse_ports (pg : Option Page) (s : State) : (errorResponse pg s).ports = s.ports :=
  (congrArg State.ports (errorResponse_frame pg s) :)
@[simp] theorem errorResponse_cans (pg : Option Page) (s : State) : (errorResponse pg s).cans = s.cans :=
  (congrArg State.cans (errorResponse_frame pg s) :)
@[simp] theorem errorResponse_uarts (pg : Option Page) (s : State) : (errorResponse pg s).uarts = s.uarts :=
  (congrArg State.uarts (errorResponse_frame pg s) :)
@[simp] theorem errorResponse_super (pg : Option Page) (s : State) : (errorResponse pg s).super = s.super :=
  (congrArg State.super (errorResponse_frame pg s) :)
@[simp] theorem errorResponse_mail (pg : Option Page) (s : State) : (errorResponse pg s).mail = s.mail :=
  (congrArg State.mail (errorResponse_frame pg s) :)
@[simp] theorem errorResponse_host (pg : Option Page) (s : State) : (errorResponse pg s).host = s.host :=
  (congrArg State.host (errorResponse_frame pg s) :)
@[simp] theorem errorResponse_recorder (pg : Option Page) (s : State) : (errorResponse pg s).recorder = s.recorder :=
  (congrArg State.recorder (errorResponse_frame pg s) :)
@[simp] theorem errorResponse_historian (pg : Option Page) (s : State) : (errorResponse pg s).historian = s.historian :=
  (congrArg State.historian (errorResponse_frame pg s) :)
@[simp] theorem errorResponse_otp (pg : Option Page) (s : State) : (errorResponse pg s).otp = s.otp :=
  (congrArg State.otp (errorResponse_frame pg s) :)
@[simp] theorem errorResponse_store (pg : Option Page) (s : State) : (errorResponse pg s).store = s.store :=
  (congrArg State.store (errorResponse_frame pg s) :)
@[simp] theorem errorResponse_flash (pg : Option Page) (s : State) : (errorResponse pg s).flash = s.flash :=
  (congrArg State.flash (errorResponse_frame pg s) :)
@[simp] theorem errorResponse_sec (pg : Option Page) (s : State) : (errorResponse pg s).sec = s.sec :=
  (congrArg State.sec (errorResponse_frame pg s) :)
@[simp] theorem errorResponse_upd (pg : Option Page) (s : State) : (errorResponse pg s).upd = s.upd :=
  (congrArg State.upd (errorResponse_frame pg s) :)
@[simp] theorem errorResponse_pwr (pg : Option Page) (s : State) : (errorResponse pg s).pwr = s.pwr :=
  (congrArg State.pwr (errorResponse_frame pg s) :)
@[simp] theorem errorResponse_forceInd (pg : Option Page) (s : State) : (errorResponse pg s).forceInd = s.forceInd :=
  (congrArg State.forceInd (errorResponse_frame pg s) :)
@[simp] theorem errorResponse_tapReset (pg : Option Page) (s : State) : (errorResponse pg s).tapReset = s.tapReset :=
  (congrArg State.tapReset (errorResponse_frame pg s) :)
@[simp] theorem errorResponse_out (pg : Option Page) (s : State) : (errorResponse pg s).out = s.out :=
  (congrArg State.out (errorResponse_frame pg s) :)
@[simp] theorem errorResponse_free (pg : Option Page) (s : State) : (errorResponse pg s).free = s.free :=
  (congrArg State.free (errorResponse_frame pg s) :)
@[simp] theorem errorResponse_pending (pg : Option Page) (s : State) : (errorResponse pg s).pending = s.pending :=
  (congrArg State.pending (errorResponse_frame pg s) :)

/-- `refuse` changes nothing but headers, the answer, what the device has sent. -/
theorem refuse_frame (w : Requester) (pg : Option Page) (s : State) :
    { refuse w pg s with hdrs := s.hdrs, resp := s.resp, out := s.out } = s := by
  unfold refuse; split <;> simp [send]

@[simp] theorem refuse_part (w : Requester) (pg : Option Page) (s : State) : (refuse w pg s).part = s.part :=
  (congrArg State.part (refuse_frame w pg s) :)
@[simp] theorem refuse_latches (w : Requester) (pg : Option Page) (s : State) : (refuse w pg s).latches = s.latches :=
  (congrArg State.latches (refuse_frame w pg s) :)
@[simp] theorem refuse_heldLow (w : Requester) (pg : Option Page) (s : State) : (refuse w pg s).heldLow = s.heldLow :=
  (congrArg State.heldLow (refuse_frame w pg s) :)
@[simp] theorem refuse_tb (w : Requester) (pg : Option Page) (s : State) : (refuse w pg s).tb = s.tb :=
  (congrArg State.tb (refuse_frame w pg s) :)
@[simp] theorem refuse_crests (w : Requester) (pg : Option Page) (s : State) : (refuse w pg s).crests = s.crests :=
  (congrArg State.crests (refuse_frame w pg s) :)
@[simp] theorem refuse_hub (w : Requester) (pg : Option Page) (s : State) : (refuse w pg s).hub = s.hub :=
  (congrArg State.hub (refuse_frame w pg s) :)
@[simp] theorem refuse_flitFails (w : Requester) (pg : Option Page) (s : State) : (refuse w pg s).flitFails = s.flitFails :=
  (congrArg State.flitFails (refuse_frame w pg s) :)
@[simp] theorem refuse_packets (w : Requester) (pg : Option Page) (s : State) : (refuse w pg s).packets = s.packets :=
  (congrArg State.packets (refuse_frame w pg s) :)
@[simp] theorem refuse_nextPacket (w : Requester) (pg : Option Page) (s : State) : (refuse w pg s).nextPacket = s.nextPacket :=
  (congrArg State.nextPacket (refuse_frame w pg s) :)
@[simp] theorem refuse_opened (w : Requester) (pg : Option Page) (s : State) : (refuse w pg s).opened = s.opened :=
  (congrArg State.opened (refuse_frame w pg s) :)
@[simp] theorem refuse_pool (w : Requester) (pg : Option Page) (s : State) : (refuse w pg s).pool = s.pool :=
  (congrArg State.pool (refuse_frame w pg s) :)
@[simp] theorem refuse_sram (w : Requester) (pg : Option Page) (s : State) : (refuse w pg s).sram = s.sram :=
  (congrArg State.sram (refuse_frame w pg s) :)
@[simp] theorem refuse_staged (w : Requester) (pg : Option Page) (s : State) : (refuse w pg s).staged = s.staged :=
  (congrArg State.staged (refuse_frame w pg s) :)
@[simp] theorem refuse_sched (w : Requester) (pg : Option Page) (s : State) : (refuse w pg s).sched = s.sched :=
  (congrArg State.sched (refuse_frame w pg s) :)
@[simp] theorem refuse_run (w : Requester) (pg : Option Page) (s : State) : (refuse w pg s).run = s.run :=
  (congrArg State.run (refuse_frame w pg s) :)
@[simp] theorem refuse_trio (w : Requester) (pg : Option Page) (s : State) : (refuse w pg s).trio = s.trio :=
  (congrArg State.trio (refuse_frame w pg s) :)
@[simp] theorem refuse_safety (w : Requester) (pg : Option Page) (s : State) : (refuse w pg s).safety = s.safety :=
  (congrArg State.safety (refuse_frame w pg s) :)
@[simp] theorem refuse_field (w : Requester) (pg : Option Page) (s : State) : (refuse w pg s).field = s.field :=
  (congrArg State.field (refuse_frame w pg s) :)
@[simp] theorem refuse_panel (w : Requester) (pg : Option Page) (s : State) : (refuse w pg s).panel = s.panel :=
  (congrArg State.panel (refuse_frame w pg s) :)
@[simp] theorem refuse_ports (w : Requester) (pg : Option Page) (s : State) : (refuse w pg s).ports = s.ports :=
  (congrArg State.ports (refuse_frame w pg s) :)
@[simp] theorem refuse_cans (w : Requester) (pg : Option Page) (s : State) : (refuse w pg s).cans = s.cans :=
  (congrArg State.cans (refuse_frame w pg s) :)
@[simp] theorem refuse_uarts (w : Requester) (pg : Option Page) (s : State) : (refuse w pg s).uarts = s.uarts :=
  (congrArg State.uarts (refuse_frame w pg s) :)
@[simp] theorem refuse_super (w : Requester) (pg : Option Page) (s : State) : (refuse w pg s).super = s.super :=
  (congrArg State.super (refuse_frame w pg s) :)
@[simp] theorem refuse_mail (w : Requester) (pg : Option Page) (s : State) : (refuse w pg s).mail = s.mail :=
  (congrArg State.mail (refuse_frame w pg s) :)
@[simp] theorem refuse_host (w : Requester) (pg : Option Page) (s : State) : (refuse w pg s).host = s.host :=
  (congrArg State.host (refuse_frame w pg s) :)
@[simp] theorem refuse_recorder (w : Requester) (pg : Option Page) (s : State) : (refuse w pg s).recorder = s.recorder :=
  (congrArg State.recorder (refuse_frame w pg s) :)
@[simp] theorem refuse_historian (w : Requester) (pg : Option Page) (s : State) : (refuse w pg s).historian = s.historian :=
  (congrArg State.historian (refuse_frame w pg s) :)
@[simp] theorem refuse_otp (w : Requester) (pg : Option Page) (s : State) : (refuse w pg s).otp = s.otp :=
  (congrArg State.otp (refuse_frame w pg s) :)
@[simp] theorem refuse_store (w : Requester) (pg : Option Page) (s : State) : (refuse w pg s).store = s.store :=
  (congrArg State.store (refuse_frame w pg s) :)
@[simp] theorem refuse_flash (w : Requester) (pg : Option Page) (s : State) : (refuse w pg s).flash = s.flash :=
  (congrArg State.flash (refuse_frame w pg s) :)
@[simp] theorem refuse_sec (w : Requester) (pg : Option Page) (s : State) : (refuse w pg s).sec = s.sec :=
  (congrArg State.sec (refuse_frame w pg s) :)
@[simp] theorem refuse_upd (w : Requester) (pg : Option Page) (s : State) : (refuse w pg s).upd = s.upd :=
  (congrArg State.upd (refuse_frame w pg s) :)
@[simp] theorem refuse_pwr (w : Requester) (pg : Option Page) (s : State) : (refuse w pg s).pwr = s.pwr :=
  (congrArg State.pwr (refuse_frame w pg s) :)
@[simp] theorem refuse_forceInd (w : Requester) (pg : Option Page) (s : State) : (refuse w pg s).forceInd = s.forceInd :=
  (congrArg State.forceInd (refuse_frame w pg s) :)
@[simp] theorem refuse_tapReset (w : Requester) (pg : Option Page) (s : State) : (refuse w pg s).tapReset = s.tapReset :=
  (congrArg State.tapReset (refuse_frame w pg s) :)
@[simp] theorem refuse_free (w : Requester) (pg : Option Page) (s : State) : (refuse w pg s).free = s.free :=
  (congrArg State.free (refuse_frame w pg s) :)
@[simp] theorem refuse_pending (w : Requester) (pg : Option Page) (s : State) : (refuse w pg s).pending = s.pending :=
  (congrArg State.pending (refuse_frame w pg s) :)

/-! ### Interrupt bits -/

theorem setBit_getLsbD_same {n : Nat} (w : BitVec n) (i : Nat) (h : i < n) : (setBit w i true).getLsbD i = true := by
  simp only [setBit, if_true, BitVec.getLsbD_or, BitVec.getLsbD_shiftLeft]
  have : (BitVec.ofNat n 1).getLsbD 0 = true := by
    rw [BitVec.getLsbD_ofNat]; simp; omega
  simp [h, this]

theorem setBit_getLsbD_mono {n : Nat} (w : BitVec n) (i j : Nat) (h : w.getLsbD j = true) : (setBit w i true).getLsbD j = true := by
  simp [setBit, h]

/-- No bit of any BLK_IRQ_RAW is lost from `s` to `t`. -/
def rawKept (s t : State) : Prop := ∀ pg i, (hdrAt s pg).raw.getLsbD i = true → (hdrAt t pg).raw.getLsbD i = true

theorem rawKept_refl (s : State) : rawKept s s := fun _ _ h => h

theorem rawKept_trans {s t u : State} (h : rawKept s t) (k : rawKept t u) : rawKept s u := fun pg i x => k pg i (h pg i x)

theorem rawKept_of_hdrs {s t : State} (h : t.hdrs = s.hdrs) : rawKept s t := by
  intro p i x
  unfold hdrAt at *
  rw [h]; exact x

theorem rawKept_bump (pg : Page) (code n : Nat) (s : State) : rawKept s (bump pg code n s) := by
  intro p i h
  have := congrArg PageHdr.raw (hdrAt_bump pg p code n s)
  simp only at this
  rw [this]; exact h

theorem rawKept_countEdge (pg : Page) (w s : State) : rawKept s (countEdge pg w s) := by
  unfold countEdge
  split
  · exact rawKept_bump _ _ _ _
  · exact rawKept_refl _

theorem rawKept_setRaw (pg : Page) (bit : Nat) (s : State) : rawKept s (setRaw pg bit s) := by
  refine rawKept_trans ?_ (rawKept_countEdge _ _ _)
  intro p i h
  by_cases hp : p = pg
  · subst hp; rw [hdrAt_updHdr_same]; exact setBit_getLsbD_mono _ _ _ h
  · rw [hdrAt_updHdr_ne _ _ _ _ hp]; exact h

/-- An event sets its bit. -/
theorem setRaw_sets (pg : Page) (bit : Nat) (s : State) (h : bit < 32) : (hdrAt (setRaw pg bit s) pg).raw.getLsbD bit = true := by
  apply rawKept_countEdge
  rw [hdrAt_updHdr_same]
  exact setBit_getLsbD_same _ _ h

theorem rawKept_enqueueEvent (ev : EventIn) (s : State) : rawKept s (enqueueEvent ev s) := by
  unfold enqueueEvent
  split
  · exact rawKept_of_hdrs rfl
  · unfold dropEvent
    refine rawKept_trans ?_ (rawKept_setRaw _ _ _)
    refine rawKept_trans ?_ (rawKept_bump _ _ _ _)
    exact rawKept_of_hdrs rfl

theorem rawKept_recordEvent (pg : Page) (n : Nat) (ten : Option (BitVec 3)) (sev : BitVec 3) (ps : Params) (s : State) :
    rawKept s (recordEvent pg n ten sev ps s) := by
  unfold recordEvent
  cases ps
  · exact rawKept_enqueueEvent _ _
  · refine rawKept_trans ?_ (rawKept_enqueueEvent _ _)
    exact rawKept_of_hdrs rfl

theorem rawKept_raise (pg : Page) (bit : Nat) (ten : Option (BitVec 3)) (ps : Params) (s : State) : rawKept s (raise pg bit ten ps s) := by
  unfold raise
  exact rawKept_trans (rawKept_setRaw pg bit s) (rawKept_recordEvent _ _ _ _ _ _)

/-- A raised event shows in its page's BLK_IRQ_RAW. -/
theorem raise_sets (pg : Page) (bit : Nat) (ten : Option (BitVec 3)) (ps : Params) (s : State) (h : bit < 32) :
    (hdrAt (raise pg bit ten ps s) pg).raw.getLsbD bit = true := by
  unfold raise
  exact rawKept_recordEvent _ _ _ _ _ _ _ _ (setRaw_sets pg bit s h)

/-- A raised event with a severity of its own shows in its page's BLK_IRQ_RAW. -/
theorem raiseSev_sets (pg : Page) (bit : Nat) (ten : Option (BitVec 3)) (sev : BitVec 3) (ps : Params) (s : State) (h : bit < 32) :
    (hdrAt (raiseSev pg bit ten sev ps s) pg).raw.getLsbD bit = true := by
  unfold raiseSev
  exact rawKept_recordEvent _ _ _ _ _ _ _ _ (setRaw_sets pg bit s h)

/-! ### Frames -/

/-- What an urgent event may change: the urgent sources beside. -/
theorem raiseUrgent_super (pg : Page) (bit n : Nat) (ten : Option (BitVec 3)) (ps : Params) (s : State) :
    (raiseUrgent pg bit n ten ps s).super = { s.super with urgent := setBit s.super.urgent (n - 496) true } := by
  simp [raiseUrgent, urgent]

/-- Everything an access to a page can do: an error response, or its effect after it was counted and answered. -/
theorem onPage_cases (q : Req) (pg : Page) (f : State → State) (s : State) :
    (pgRefuses q pg s = true ∧ onPage q pg f s = refuse q.who (some pg) s) ∨
    (pgRefuses q pg s = false ∧ onPage q pg f s = f (bump pg 2 1 { s with resp := .done })) := by
  unfold onPage
  cases h : pgRefuses q pg s
  · exact .inr ⟨rfl, rfl⟩
  · exact .inl ⟨rfl, rfl⟩

end Sys2Proof.Machine
end

