-- ==== Sys2Proof/Laws/Engine.lean ====
section
/-! SUPPORT. The laws of the control engines: fields of encoded words, registers, and what running one instruction does. -/
namespace Sys2Proof.Machine

/-! ### Fields of encoded words -/

theorem bits_lsb {n : Nat} (w : BitVec n) (lo len i : Nat) (h : i < len) : (bits w lo len).getLsbD i = w.getLsbD (lo + i) := by
  simp [bits, h]

theorem lsb_fld {n : Nat} (v : BitVec n) (lo i : Nat) :
    (fld v lo).getLsbD i = (decide (i < 32) && (decide (lo ≤ i) && v.getLsbD (i - lo))) := by
  unfold fld
  simp only [BitVec.getLsbD_shiftLeft, BitVec.getLsbD_setWidth]
  by_cases h1 : i < 32
  · have h3 : i - lo < 32 := by omega
    by_cases h2 : lo ≤ i <;> simp [h1, h2, h3]
  · simp [h1]

theorem lsb_num (k lo i : Nat) : (num k lo).getLsbD i = (decide (i < 32) && (decide (lo ≤ i) && k.testBit (i - lo))) := by
  unfold num
  simp only [BitVec.getLsbD_shiftLeft, BitVec.getLsbD_ofNat]
  by_cases h1 : i < 32
  · have h3 : i - lo < 32 := by omega
    by_cases h2 : lo ≤ i <;> simp [h1, h2, h3]
  · simp [h1]

theorem lsb_flag (b : Bool) (lo i : Nat) : (flag b lo).getLsbD i = (decide (i < 32) && (decide (i = lo) && b)) := by
  unfold flag
  cases b
  · simp
  · simp only [if_true, BitVec.getLsbD_shiftLeft]
    by_cases h1 : i < 32 <;> by_cases h2 : i = lo <;> simp [h1, h2]
    omega

theorem testBit_far {n k i : Nat} (h : n < 2 ^ k) (hi : k ≤ i) : n.testBit i = false :=
  Nat.testBit_lt_two_pow (lt_of_lt_of_le h (Nat.pow_le_pow_right (by decide) hi))

/-- A field of a word is `v` where the word's bits are. -/
theorem bits_eq {n : Nat} {w : Word} {lo : Nat} {v : BitVec n} (h : ∀ i, i < n → w.getLsbD (lo + i) = v.getLsbD i) : bits w lo n = v := by
  apply BitVec.eq_of_getLsbD_eq
  intro i hi
  rw [bits_lsb _ _ _ _ hi, h i hi]

theorem opOf_of_bits {w : Word} {op : Nat} (h : bits w 26 6 = BitVec.ofNat 6 op) (ho : op < 64) : opOf w = op := by
  unfold opOf; rw [h]; simp; omega

section
variable (op fn : Nat) (rd ra rb : Reg) (imm : BitVec 16)

theorem op_encR (ho : op < 64) (hf : fn < 2048) : opOf (encR op fn rd ra rb) = op := by
  refine opOf_of_bits (bits_eq fun i hi => ?_) ho
  have h := testBit_far (k := 11) hf (i := 26 + i) (by omega)
  have h1 : rd.getLsbD (26 + i - 21) = false := BitVec.getLsbD_of_ge _ _ (by omega)
  have h2 : ra.getLsbD (26 + i - 16) = false := BitVec.getLsbD_of_ge _ _ (by omega)
  have h3 : rb.getLsbD (26 + i - 11) = false := BitVec.getLsbD_of_ge _ _ (by omega)
  have h4 : 26 + i < 32 := by omega
  simp only [encR, BitVec.getLsbD_or, BitVec.getLsbD_ofNat, lsb_fld, lsb_num]
  simp [h, h1, h2, h3, h4, hi]

theorem fn_encR (hf : fn < 2048) : fnOf (encR op fn rd ra rb) = fn := by
  have : bits (encR op fn rd ra rb) 0 11 = BitVec.ofNat 11 fn := by
    refine bits_eq fun i hi => ?_
    have h4 : i < 32 := by omega
    have h5 : ¬ 26 ≤ i := by omega
    have h6 : ¬ 21 ≤ i := by omega
    have h7 : ¬ 16 ≤ i := by omega
    have h8 : ¬ 11 ≤ i := by omega
    simp only [encR, BitVec.getLsbD_or, BitVec.getLsbD_ofNat, lsb_fld, lsb_num]
    simp [h4, hi, h5, h6, h7, h8]
  unfold fnOf; rw [this]; simp; omega

theorem rd_encR (hf : fn < 2048) : bits (encR op fn rd ra rb) 21 5 = rd := by
  refine bits_eq fun i hi => ?_
  have h := testBit_far (k := 11) hf (i := 21 + i) (by omega)
  have h2 : ra.getLsbD (21 + i - 16) = false := BitVec.getLsbD_of_ge _ _ (by omega)
  have h3 : rb.getLsbD (21 + i - 11) = false := BitVec.getLsbD_of_ge _ _ (by omega)
  have h4 : 21 + i < 32 := by omega
  have h5 : ¬ 26 ≤ 21 + i := by omega
  simp only [encR, BitVec.getLsbD_or, BitVec.getLsbD_ofNat, lsb_fld, lsb_num]
  simp [h, h2, h3, h4, h5]

theorem ra_encR (hf : fn < 2048) : bits (encR op fn rd ra rb) 16 5 = ra := by
  refine bits_eq fun i hi => ?_
  have h := testBit_far (k := 11) hf (i := 16 + i) (by omega)
  have h3 : rb.getLsbD (16 + i - 11) = false := BitVec.getLsbD_of_ge _ _ (by omega)
  have h4 : 16 + i < 32 := by omega
  have h5 : ¬ 26 ≤ 16 + i := by omega
  have h6 : ¬ 21 ≤ 16 + i := by omega
  simp only [encR, BitVec.getLsbD_or, BitVec.getLsbD_ofNat, lsb_fld, lsb_num]
  simp [h, h3, h4, h5, h6]

theorem rb_encR (hf : fn < 2048) : bits (encR op fn rd ra rb) 11 5 = rb := by
  refine bits_eq fun i hi => ?_
  have h := testBit_far (k := 11) hf (i := 11 + i) (by omega)
  have h4 : 11 + i < 32 := by omega
  have h5 : ¬ 26 ≤ 11 + i := by omega
  have h6 : ¬ 21 ≤ 11 + i := by omega
  have h7 : ¬ 16 ≤ 11 + i := by omega
  simp only [encR, BitVec.getLsbD_or, BitVec.getLsbD_ofNat, lsb_fld, lsb_num]
  simp [h, h4, h5, h6, h7]

theorem op_encI (ho : op < 64) : opOf (encI op rd ra imm) = op := by
  refine opOf_of_bits (bits_eq fun i hi => ?_) ho
  have h1 : rd.getLsbD (26 + i - 21) = false := BitVec.getLsbD_of_ge _ _ (by omega)
  have h2 : ra.getLsbD (26 + i - 16) = false := BitVec.getLsbD_of_ge _ _ (by omega)
  have h3 : imm.getLsbD (26 + i) = false := BitVec.getLsbD_of_ge _ _ (by omega)
  have h4 : 26 + i < 32 := by omega
  simp only [encI, BitVec.getLsbD_or, BitVec.getLsbD_ofNat, lsb_fld, lsb_num]
  simp [h1, h2, h3, h4, hi]

theorem ra_encI : bits (encI op rd ra imm) 16 5 = ra := by
  refine bits_eq fun i hi => ?_
  have h3 : imm.getLsbD (16 + i) = false := BitVec.getLsbD_of_ge _ _ (by omega)
  have h4 : 16 + i < 32 := by omega
  have h5 : ¬ 26 ≤ 16 + i := by omega
  have h6 : ¬ 21 ≤ 16 + i := by omega
  simp only [encI, BitVec.getLsbD_or, BitVec.getLsbD_ofNat, lsb_fld, lsb_num]
  simp [h3, h4, h5, h6]

theorem sh_encI (sh : BitVec 5) : bits (encI op rd ra (sh.setWidth 16)) 5 11 = 0 := by
  refine bits_eq fun i hi => ?_
  have h3 : (sh.setWidth 16).getLsbD (5 + i) = false := by
    rw [BitVec.getLsbD_setWidth, BitVec.getLsbD_of_ge sh _ (by omega)]; simp
  have h4 : 5 + i < 32 := by omega
  have h5 : ¬ 26 ≤ 5 + i := by omega
  have h6 : ¬ 21 ≤ 5 + i := by omega
  have h7 : ¬ 16 ≤ 5 + i := by omega
  simp only [encI, BitVec.getLsbD_or, BitVec.getLsbD_ofNat, lsb_fld, lsb_num]
  simp [h3, h4, h5, h6, h7]

theorem op_encM (ho : op < 64) (size : BitVec 2) (post : Bool) (off : BitVec 13) : opOf (encM op rd ra size post off) = op := by
  refine opOf_of_bits (bits_eq fun i hi => ?_) ho
  have h1 : rd.getLsbD (26 + i - 21) = false := BitVec.getLsbD_of_ge _ _ (by omega)
  have h2 : ra.getLsbD (26 + i - 16) = false := BitVec.getLsbD_of_ge _ _ (by omega)
  have h3 : size.getLsbD (26 + i - 14) = false := BitVec.getLsbD_of_ge _ _ (by omega)
  have h4 : off.getLsbD (26 + i) = false := BitVec.getLsbD_of_ge _ _ (by omega)
  have h5 : 26 + i < 32 := by omega
  have h6 : 26 + i ≠ 13 := by omega
  simp only [encM, BitVec.getLsbD_or, BitVec.getLsbD_ofNat, lsb_fld, lsb_num, lsb_flag]
  simp [h1, h2, h3, h4, h5, h6, hi]

theorem size_encM (size : BitVec 2) (post : Bool) (off : BitVec 13) : bits (encM op rd ra size post off) 14 2 = size := by
  refine bits_eq fun i hi => ?_
  have h4 : off.getLsbD (14 + i) = false := BitVec.getLsbD_of_ge _ _ (by omega)
  have h5 : 14 + i < 32 := by omega
  have h6 : 14 + i ≠ 13 := by omega
  have h7 : ¬ 26 ≤ 14 + i := by omega
  have h8 : ¬ 21 ≤ 14 + i := by omega
  have h9 : ¬ 16 ≤ 14 + i := by omega
  simp only [encM, BitVec.getLsbD_or, BitVec.getLsbD_ofNat, lsb_fld, lsb_num, lsb_flag]
  simp [h4, h5, h6, h7, h8, h9]

theorem op_encB (ho : op < 64) : opOf (encB op rd ra imm) = op := by
  refine opOf_of_bits (bits_eq fun i hi => ?_) ho
  have h1 : rd.getLsbD (26 + i - 21) = false := BitVec.getLsbD_of_ge _ _ (by omega)
  have h2 : ra.getLsbD (26 + i - 16) = false := BitVec.getLsbD_of_ge _ _ (by omega)
  have h3 : imm.getLsbD (26 + i) = false := BitVec.getLsbD_of_ge _ _ (by omega)
  have h4 : 26 + i < 32 := by omega
  simp only [encB, BitVec.getLsbD_or, BitVec.getLsbD_ofNat, lsb_fld, lsb_num]
  simp [h1, h2, h3, h4, hi]

theorem op_encJ (ho : op < 64) (d : BitVec 26) : opOf (encJ op d) = op := by
  refine opOf_of_bits (bits_eq fun i hi => ?_) ho
  have h3 : d.getLsbD (26 + i) = false := BitVec.getLsbD_of_ge _ _ (by omega)
  have h4 : 26 + i < 32 := by omega
  simp only [encJ, BitVec.getLsbD_or, BitVec.getLsbD_ofNat, lsb_fld, lsb_num]
  simp [h3, h4, hi]

theorem op_encL (ho : op < 64) (en cnt : BitVec 10) : opOf (encL op rd en cnt) = op := by
  refine opOf_of_bits (bits_eq fun i hi => ?_) ho
  have h1 : rd.getLsbD (26 + i - 20) = false := BitVec.getLsbD_of_ge _ _ (by omega)
  have h2 : en.getLsbD (26 + i - 10) = false := BitVec.getLsbD_of_ge _ _ (by omega)
  have h3 : cnt.getLsbD (26 + i) = false := BitVec.getLsbD_of_ge _ _ (by omega)
  have h4 : 26 + i < 32 := by omega
  simp only [encL, BitVec.getLsbD_or, BitVec.getLsbD_ofNat, lsb_fld, lsb_num]
  simp [h1, h2, h3, h4, hi]

theorem bit25_encL (en cnt : BitVec 10) : (encL op rd en cnt).getLsbD 25 = false := by
  have h1 : rd.getLsbD 5 = false := BitVec.getLsbD_of_ge _ _ (by omega)
  have h2 : en.getLsbD 15 = false := BitVec.getLsbD_of_ge _ _ (by omega)
  have h3 : cnt.getLsbD 25 = false := BitVec.getLsbD_of_ge _ _ (by omega)
  simp only [encL, BitVec.getLsbD_or, BitVec.getLsbD_ofNat, lsb_fld, lsb_num]
  simp [h1, h2, h3]

theorem rs_encL (en cnt : BitVec 10) : bits (encL op 0 en cnt) 20 6 = 0 := by
  refine bits_eq fun i hi => ?_
  have h2 : en.getLsbD (20 + i - 10) = false := BitVec.getLsbD_of_ge _ _ (by omega)
  have h3 : cnt.getLsbD (20 + i) = false := BitVec.getLsbD_of_ge _ _ (by omega)
  have h4 : ¬ 26 ≤ 20 + i := by omega
  simp only [encL, BitVec.getLsbD_or, BitVec.getLsbD_ofNat, lsb_fld, lsb_num]
  simp [h2, h3, h4]

end

/-! ### Registers -/

theorem getReg_setReg (r rd : Reg) (v : Word) (g : Engine) : getReg (setReg rd v g) r = if r = rd ∧ r ≠ 0 then v else getReg g r := by
  unfold getReg setReg
  by_cases h0 : r = 0
  · simp [h0]
  · by_cases hd : rd = 0
    · have : r ≠ rd := fun h => h0 (h.trans hd)
      simp [h0, hd]
    · by_cases h : r = rd
      · subst h; simp only [h0, if_false, ne_eq, not_false_eq_true, and_self, if_true, Vec.at_put_same]
      · simp only [h0, hd, h, if_false, false_and]
        apply Vec.at_put_ne
        intro k
        exact h (BitVec.eq_of_toNat_eq (Fin.mk.inj_iff.mp k))

theorem setReg_other (rd : Reg) (v : Word) (g : Engine) : { setReg rd v g with regs := g.regs } = g := by
  unfold setReg; split <;> rfl

/-- What a write of a register leaves of the engine. -/
theorem setReg_proj {α : Type} (f : Engine → α) (hf : ∀ g r, f { g with regs := r } = f g) (rd : Reg) (v : Word) (g : Engine) :
    f (setReg rd v g) = f g := by
  unfold setReg; split
  · rfl
  · exact hf _ _

@[simp] theorem setReg_acc (rd : Reg) (v : Word) (g : Engine) : (setReg rd v g).acc = g.acc := setReg_proj (·.acc) (fun _ _ => rfl) _ _ _
@[simp] theorem setReg_flags (rd : Reg) (v : Word) (g : Engine) : (setReg rd v g).flags = g.flags := setReg_proj (·.flags) (fun _ _ => rfl) _ _ _
@[simp] theorem setReg_pc (rd : Reg) (v : Word) (g : Engine) : (setReg rd v g).pc = g.pc := setReg_proj (·.pc) (fun _ _ => rfl) _ _ _
@[simp] theorem setReg_delay (rd : Reg) (v : Word) (g : Engine) : (setReg rd v g).delay = g.delay := setReg_proj (·.delay) (fun _ _ => rfl) _ _ _
@[simp] theorem setReg_loops (rd : Reg) (v : Word) (g : Engine) : (setReg rd v g).loops = g.loops := setReg_proj (·.loops) (fun _ _ => rfl) _ _ _
@[simp] theorem setReg_half (rd : Reg) (v : Word) (g : Engine) : (setReg rd v g).half = g.half := setReg_proj (·.half) (fun _ _ => rfl) _ _ _
@[simp] theorem setReg_half0 (rd : Reg) (v : Word) (g : Engine) : (setReg rd v g).half0 = g.half0 := setReg_proj (·.half0) (fun _ _ => rfl) _ _ _
@[simp] theorem setReg_half1 (rd : Reg) (v : Word) (g : Engine) : (setReg rd v g).half1 = g.half1 := setReg_proj (·.half1) (fun _ _ => rfl) _ _ _
@[simp] theorem setReg_run (rd : Reg) (v : Word) (g : Engine) : (setReg rd v g).run = g.run := setReg_proj (·.run) (fun _ _ => rfl) _ _ _
@[simp] theorem setReg_unloaded (rd : Reg) (v : Word) (g : Engine) : (setReg rd v g).unloaded = g.unloaded := setReg_proj (·.unloaded) (fun _ _ => rfl) _ _ _
@[simp] theorem setReg_x (rd : Reg) (v : Word) (g : Engine) : (setReg rd v g).x = g.x := setReg_proj (·.x) (fun _ _ => rfl) _ _ _
@[simp] theorem setReg_mode (rd : Reg) (v : Word) (g : Engine) : (setReg rd v g).mode = g.mode := setReg_proj (·.mode) (fun _ _ => rfl) _ _ _
@[simp] theorem setReg_modeNext (rd : Reg) (v : Word) (g : Engine) : (setReg rd v g).modeNext = g.modeNext := setReg_proj (·.modeNext) (fun _ _ => rfl) _ _ _
@[simp] theorem setReg_jumped (rd : Reg) (v : Word) (g : Engine) : (setReg rd v g).jumped = g.jumped := setReg_proj (·.jumped) (fun _ _ => rfl) _ _ _
@[simp] theorem setReg_taken (rd : Reg) (v : Word) (g : Engine) : (setReg rd v g).taken = g.taken := setReg_proj (·.taken) (fun _ _ => rfl) _ _ _
@[simp] theorem setReg_modeWritten (rd : Reg) (v : Word) (g : Engine) : (setReg rd v g).modeWritten = g.modeWritten := setReg_proj (·.modeWritten) (fun _ _ => rfl) _ _ _

/-! ### Control after an instruction -/

/-- Going on touches the PC, the delay slot, the loops and the mark of a jump alone. -/
theorem advance_other (g : Engine) : { advance g with pc := g.pc, delay := g.delay, loops := g.loops, jumped := g.jumped } = g := by
  unfold advance; dsimp only; split
  · rfl
  · split
    · split <;> rfl
    · rfl

theorem advance_proj {α : Type} (f : Engine → α) (hf : ∀ g p d l j, f { g with pc := p, delay := d, loops := l, jumped := j } = f g) (g : Engine) :
    f (advance g) = f g := by
  rw [← hf (advance g) g.pc g.delay g.loops g.jumped, advance_other]

@[simp] theorem advance_acc (g : Engine) : (advance g).acc = g.acc := advance_proj (·.acc) (fun _ _ _ _ _ => rfl) _
@[simp] theorem advance_regs (g : Engine) : (advance g).regs = g.regs := advance_proj (·.regs) (fun _ _ _ _ _ => rfl) _
@[simp] theorem advance_flags (g : Engine) : (advance g).flags = g.flags := advance_proj (·.flags) (fun _ _ _ _ _ => rfl) _
@[simp] theorem advance_half (g : Engine) : (advance g).half = g.half := advance_proj (·.half) (fun _ _ _ _ _ => rfl) _
@[simp] theorem advance_half0 (g : Engine) : (advance g).half0 = g.half0 := advance_proj (·.half0) (fun _ _ _ _ _ => rfl) _
@[simp] theorem advance_half1 (g : Engine) : (advance g).half1 = g.half1 := advance_proj (·.half1) (fun _ _ _ _ _ => rfl) _
@[simp] theorem advance_run (g : Engine) : (advance g).run = g.run := advance_proj (·.run) (fun _ _ _ _ _ => rfl) _
@[simp] theorem advance_unloaded (g : Engine) : (advance g).unloaded = g.unloaded := advance_proj (·.unloaded) (fun _ _ _ _ _ => rfl) _
@[simp] theorem advance_halfTaken (g : Engine) : (advance g).taken = g.taken := advance_proj (·.taken) (fun _ _ _ _ _ => rfl) _
@[simp] theorem advance_x (g : Engine) : (advance g).x = g.x := advance_proj (·.x) (fun _ _ _ _ _ => rfl) _
@[simp] theorem advance_mode (g : Engine) : (advance g).mode = g.mode := advance_proj (·.mode) (fun _ _ _ _ _ => rfl) _
@[simp] theorem advance_modeNext (g : Engine) : (advance g).modeNext = g.modeNext := advance_proj (·.modeNext) (fun _ _ _ _ _ => rfl) _
@[simp] theorem advance_modeWritten (g : Engine) : (advance g).modeWritten = g.modeWritten := advance_proj (·.modeWritten) (fun _ _ _ _ _ => rfl) _

@[simp] theorem advance_delay (g : Engine) : (advance g).delay = none := by
  unfold advance; dsimp only; split
  · rfl
  · split
    · split <;> rfl
    · rfl

/-- After a delay slot of a taken branch control is at the destination (R72). -/
theorem advance_taken {g : Engine} {d : Word} (h : g.delay = some (some d)) : (advance g).pc = d := by
  unfold advance; simp [h]

/-- At the end of a loop body control returns to its start or leaves the loop (R74). -/
theorem advance_end {g : Engine} {l : LoopReg} (hd : ∀ d, g.delay ≠ some (some d)) (h : loopAt g g.pc = some l) :
    (advance g).pc = if 1 < l.count.toNat then l.start else g.pc + 4 := by
  unfold advance; dsimp only; split
  · rename_i d hd'; exact absurd hd' (hd d)
  · rw [h]; dsimp only; split <;> rfl

/-- Elsewhere control goes to the next address, and no loop changes. -/
theorem advance_plain {g : Engine} (hd : ∀ d, g.delay ≠ some (some d)) (h : loopAt g g.pc = none) :
    (advance g).pc = g.pc + 4 ∧ (advance g).loops = g.loops := by
  unfold advance; dsimp only; split
  · rename_i d hd'; exact absurd hd' (hd d)
  · rw [h]; exact ⟨rfl, rfl⟩

/-! ### One engine of a tile -/

@[simp] theorem engineAt_upd (e : EngRef) (f : Engine → Engine) (s : State) : engineAt (updEngine e f s) e = f (engineAt s e) := by
  simp [engineAt, updEngine, updCrest]

theorem engineAt_upd_ne (e x : EngRef) (f : Engine → Engine) (s : State) (h : x ≠ e) : engineAt (updEngine e f s) x = engineAt s x := by
  unfold engineAt updEngine updCrest
  by_cases hc : x.crest = e.crest
  · have : x.eng ≠ e.eng := fun k => h (by cases x; cases e; simp_all)
    rw [hc]
    simp only [Vec.at_upd_same]
    exact Vec.at_upd_ne _ _ _ _ this
  · dsimp only
    rw [Vec.at_upd_ne _ _ _ _ hc]

/-- A change of an engine leaves the rest of every tile. -/
theorem crest_updEngine (e : EngRef) (f : Engine → Engine) (s : State) (c : Fin 6) :
    { Vec.at (updEngine e f s).crests c with engines := (Vec.at s.crests c).engines } = Vec.at s.crests c := by
  unfold updEngine updCrest
  by_cases h : c = e.crest
  · subst h; simp
  · simp only [Vec.at_upd_ne _ _ _ _ h]

@[simp] theorem engineAt_bump (pg : Page) (c n : Nat) (s : State) (e : EngRef) : engineAt (bump pg c n s) e = engineAt s e := by
  simp [engineAt]

@[simp] theorem engineAt_raise (pg : Page) (bit : Nat) (ten : Option (BitVec 3)) (ps : Params) (s : State) (e : EngRef) :
    engineAt (raise pg bit ten ps s) e = engineAt s e := by
  simp [engineAt]

/-- An instruction whose word stands at the PC of a running step, is legal and is no control instruction in a delay slot, has its effect. -/
theorem runWord_runs {s : State} {e : EngRef} {w : Word} (body : State → Engine → Eff) (hr : (engineAt s e).run.isSome = true)
    (hw : codeWord (engineAt s e) (engineAt s e).pc = some w) (hl : legalWord w = true)
    (hc : (engineAt s e).delay = none ∨ isControl w = false) : runWord e w body s = finish e (body s (engineAt s e)) s := by
  unfold runWord
  have : (engineAt s e).run.isNone = false := by cases h : (engineAt s e).run <;> simp_all
  simp only [hw, this, hl]
  rcases hc with hc | hc <;> simp [hc]

/-! ### Exceptions and abandoned tasks -/

/-- The task that a change was made to is found again where the change keeps its name. -/
theorem taskRt_updTask (ten : BitVec 3) (tsk : BitVec 8) (f : TaskRt → TaskRt) (s : State)
    (hf : (f (taskRt s ten tsk)).tenant = ten ∧ (f (taskRt s ten tsk)).task = tsk) : taskRt (updTask ten tsk f s) ten tsk = f (taskRt s ten tsk) := by
  conv_lhs => unfold taskRt updTask
  simp [hf.1, hf.2]

theorem taskRt_name (s : State) (ten : BitVec 3) (tsk : BitVec 8) : (taskRt s ten tsk).tenant = ten ∧ (taskRt s ten tsk).task = tsk := by
  unfold taskRt
  split
  · rename_i t h
    have := List.find?_some h
    simpa using this
  · exact ⟨rfl, rfl⟩

theorem taskRt_updTask_ne (ten a : BitVec 3) (tsk b : BitVec 8) (f : TaskRt → TaskRt) (s : State)
    (hf : (f (taskRt s ten tsk)).tenant = ten ∧ (f (taskRt s ten tsk)).task = tsk) (h : ¬ (a = ten ∧ b = tsk)) :
    taskRt (updTask ten tsk f s) a b = taskRt s a b := by
  have hne : ((f (taskRt s ten tsk)).tenant == a && (f (taskRt s ten tsk)).task == b) = false := by
    rw [hf.1, hf.2]; simp; intro h1 h2; exact h ⟨h1.symm, h2.symm⟩
  unfold taskRt updTask
  dsimp only
  rw [List.find?_cons_of_neg (by simpa [taskRt] using hne)]
  congr 1
  have key : ∀ ts : List TaskRt, (ts.filter fun t => !(t.tenant == ten && t.task == tsk)).find? (fun t => t.tenant == a && t.task == b) =
      ts.find? fun t => t.tenant == a && t.task == b := by
    intro ts
    rw [List.find?_filter]
    congr 1
    funext t
    by_cases hta : (t.tenant == a && t.task == b) = true
    · have : (t.tenant == ten && t.task == tsk) = false := by
        simp only [Bool.and_eq_true, beq_iff_eq] at hta
        rw [hta.1, hta.2]; simp; intro k1 k2; exact h ⟨k1, k2⟩
      simp [this, hta]
    · simp [hta]
  rw [key]

theorem abandonTask_abandons (ten : BitVec 3) (tsk : BitVec 8) (p : Bool) (s : State) :
    (taskRt (abandonTask ten tsk p s) ten tsk).abandoned = true := by
  unfold abandonTask
  have hn := taskRt_name s ten tsk
  split
  · rw [taskRt_updTask _ _ _ _ (by exact hn)]; assumption
  · show (taskRt (bump _ _ _ _) _ _).abandoned = true
    have : ∀ t : State, taskRt (bump .runControl 0x11 1 t) ten tsk = taskRt t ten tsk := fun t => by simp [taskRt]
    rw [this, taskRt_updTask _ _ _ _ (by exact hn)]

theorem abandonTask_keeps (ten a : BitVec 3) (tsk b : BitVec 8) (p : Bool) (s : State) (h : (taskRt s a b).abandoned = true) :
    (taskRt (abandonTask ten tsk p s) a b).abandoned = true := by
  by_cases hab : a = ten ∧ b = tsk
  · rw [hab.1, hab.2]; exact abandonTask_abandons _ _ _ _
  · unfold abandonTask
    have hn := taskRt_name s ten tsk
    split
    · rw [taskRt_updTask_ne _ _ _ _ _ _ (by exact hn) hab]; exact h
    · have : ∀ t : State, taskRt (bump .runControl 0x11 1 t) a b = taskRt t a b := fun t => by simp [taskRt]
      rw [this, taskRt_updTask_ne _ _ _ _ _ _ (by exact hn) hab]; exact h

/-- What abandoning a task may change: the tasks and the run-control page's counts. -/
structure TaskFrame (s t : State) : Prop where
  crests : t.crests = s.crests
  raw : rawKept s t
  tasks : ∀ a b, (taskRt s a b).abandoned = true → (taskRt t a b).abandoned = true

theorem TaskFrame.self (s : State) : TaskFrame s s := ⟨rfl, rawKept_refl s, fun _ _ h => h⟩

theorem TaskFrame.trans {s t u : State} (h : TaskFrame s t) (k : TaskFrame t u) : TaskFrame s u :=
  ⟨k.crests.trans h.crests, rawKept_trans h.raw k.raw, fun a b x => k.tasks a b (h.tasks a b x)⟩

theorem taskFrame_abandonTask (ten : BitVec 3) (tsk : BitVec 8) (p : Bool) (s : State) : TaskFrame s (abandonTask ten tsk p s) := by
  have h : (abandonTask ten tsk p s).crests = s.crests ∧ rawKept s (abandonTask ten tsk p s) := by
    unfold abandonTask
    split
    · exact ⟨rfl, rawKept_of_hdrs rfl⟩
    · refine ⟨bump_crests _ _ _ _, rawKept_trans ?_ (rawKept_bump _ _ _ _)⟩
      exact rawKept_of_hdrs rfl
  exact ⟨h.1, h.2, fun a b => abandonTask_keeps ten a tsk b p s⟩

theorem taskFrame_abandonStep (d : Option StepDesc) (p : Bool) (s : State) : TaskFrame s (abandonStep d p s) := by
  unfold abandonStep
  split
  · exact taskFrame_abandonTask _ _ _ _
  · exact .self _

theorem taskFrame_abandonLater (c : Fin 6) (l : Nat) (s : State) : TaskFrame s (abandonLater c l s) := by
  unfold abandonLater
  split
  · exact .self _
  · rename_i im _
    suffices h : ∀ (es : List EngineStep) (u : State), TaskFrame s u → TaskFrame s (es.foldl (fun s e =>
        if e.crest.toNat == c.val && e.logical.toNat == l && decide (s.sched.slot.toNat < e.t.slot.toNat) &&
            timingActive e.t s.sched.round then
          abandonStep im.steps[e.desc.toNat]? false s
        else s) u) from h _ _ (.self _)
    intro es
    induction es with
    | nil => intro u hu; exact hu
    | cons x xs ih =>
      intro u hu
      refine ih _ ?_
      dsimp only
      split
      · exact hu.trans (taskFrame_abandonStep _ _ _)
      · exact hu

theorem taskFrame_of_crests {s t : State} (hc : t.crests = s.crests) (hr : rawKept s t) (hk : t.run = s.run) : TaskFrame s t :=
  ⟨hc, hr, fun a b h => by unfold taskRt at h ⊢; rw [hk]; exact h⟩

theorem taskFrame_raise (pg : Page) (bit : Nat) (ten : Option (BitVec 3)) (ps : Params) (s : State) : TaskFrame s (raise pg bit ten ps s) :=
  taskFrame_of_crests (by simp) (rawKept_raise _ _ _ _ _) (by simp)

theorem taskFrame_bump (pg : Page) (c n : Nat) (s : State) : TaskFrame s (bump pg c n s) :=
  taskFrame_of_crests (by simp) (rawKept_bump _ _ _ _) (by simp)

/-- What may have changed of a device whose tile `c` changed by `f`, events and tasks beside. -/
structure TileFrame (c : Fin 6) (f : Crest → Crest) (s t : State) : Prop where
  tile : t.crests = Vec.upd s.crests c f
  raw : rawKept s t
  tasks : ∀ a b, (taskRt s a b).abandoned = true → (taskRt t a b).abandoned = true

theorem tileFrame_updCrest (c : Fin 6) (f : Crest → Crest) (s : State) : TileFrame c f s (updCrest c f s) :=
  ⟨rfl, rawKept_of_hdrs rfl, fun _ _ h => h⟩

theorem TileFrame.trans {c : Fin 6} {f : Crest → Crest} {s t u : State} (h : TileFrame c f s t) (k : TaskFrame t u) : TileFrame c f s u :=
  ⟨k.crests.trans h.tile, rawKept_trans h.raw k.raw, fun a b x => k.tasks a b (h.tasks a b x)⟩

theorem TileFrame.engineAt {c : Fin 6} {f : Crest → Crest} {s t : State} (h : TileFrame c f s t) (hf : ∀ x, (f x).engines = x.engines)
    (x : EngRef) : Machine.engineAt t x = Machine.engineAt s x := by
  unfold Machine.engineAt
  rw [h.tile]
  by_cases hc : x.crest = c
  · rw [hc, Vec.at_upd_same, hf]
  · rw [Vec.at_upd_ne _ _ _ _ hc]

/-- What retirement after a fault may change beside the tile's retired set: events and tasks. -/
theorem retireByFault_spec (e : EngRef) (s : State) :
    (∀ x, engineAt (retireByFault e s) x = engineAt s x) ∧ rawKept s (retireByFault e s) ∧
    (∀ a b, (taskRt s a b).abandoned = true → (taskRt (retireByFault e s) a b).abandoned = true) ∧
    ((Vec.at s.crests e.crest).retired.getLsbD e.eng.val = false →
      (Vec.at (retireByFault e s).crests e.crest).retired = setBit (Vec.at s.crests e.crest).retired e.eng.val true ∧
      (hdrAt (retireByFault e s) (.engine e.crest)).raw.getLsbD 3 = true) := by
  unfold retireByFault
  dsimp only
  split
  · rename_i hr
    exact ⟨fun _ => rfl, rawKept_refl s, fun _ _ h => h, fun h => by rw [hr] at h; cases h⟩
  · obtain ⟨s2, h2⟩ : ∃ s2, s2 = raise (.engine e.crest) 3 none .unstated
        (updCrest e.crest (fun t => { t with retired := setBit t.retired e.eng.val true }) s) := ⟨_, rfl⟩
    have f2 : TileFrame e.crest (fun t => { t with retired := setBit t.retired e.eng.val true }) s s2 := by
      rw [h2]; exact (tileFrame_updCrest _ _ _).trans (taskFrame_raise _ _ _ _ _)
    have b2 : (hdrAt s2 (.engine e.crest)).raw.getLsbD 3 = true := by rw [h2]; exact raise_sets _ _ _ _ _ (by decide)
    rw [← h2]
    clear h2
    generalize (if (engineAt s e).half = true then (engineAt s e).half0 else (engineAt s e).half1) = other
    obtain ⟨s3, h3⟩ : ∃ s3, s3 = abandonStep other.desc false (abandonStep (engineAt s e).unloaded false s2) := ⟨_, rfl⟩
    have f3 : TaskFrame s2 s3 := by rw [h3]; exact (taskFrame_abandonStep _ _ _).trans (taskFrame_abandonStep _ _ _)
    rw [← h3]
    clear h3
    have tail : ∀ s4, TaskFrame s3 s4 → ∀ u,
        u = (if 3 ≤ popcount (Vec.at s4.crests e.crest).retired && !(Vec.at s4.crests e.crest).exhausted then
          raise (.engine e.crest) 4 none .unstated (updCrest e.crest (fun t => { t with exhausted := true }) s4) else s4) →
        (∀ x, engineAt u x = engineAt s x) ∧ rawKept s u ∧
        (∀ a b, (taskRt s a b).abandoned = true → (taskRt u a b).abandoned = true) ∧
        ((Vec.at s.crests e.crest).retired.getLsbD e.eng.val = false →
          (Vec.at u.crests e.crest).retired = setBit (Vec.at s.crests e.crest).retired e.eng.val true ∧
          (hdrAt u (.engine e.crest)).raw.getLsbD 3 = true) := by
      intro s4 f4 u hu
      have g4 := f2.trans (f3.trans f4)
      have r4 : (Vec.at s4.crests e.crest).retired = setBit (Vec.at s.crests e.crest).retired e.eng.val true := by rw [g4.tile]; simp
      have b4 := (f3.trans f4).raw _ _ b2
      rw [hu]
      split
      · obtain ⟨s5, h5⟩ : ∃ s5, s5 = updCrest e.crest (fun t => { t with exhausted := true }) s4 := ⟨_, rfl⟩
        have g5 : TileFrame e.crest (fun t => { t with exhausted := true }) s4 s5 := by rw [h5]; exact tileFrame_updCrest _ _ _
        rw [← h5]
        clear h5
        have g6 := g5.trans (taskFrame_raise (.engine e.crest) 4 none .unstated s5)
        refine ⟨fun x => ?_, rawKept_trans g4.raw g6.raw, fun a b h => g6.tasks a b (g4.tasks a b h), fun _ => ⟨?_, g6.raw _ _ b4⟩⟩
        · rw [g6.engineAt (fun _ => rfl), g4.engineAt (fun _ => rfl)]
        · rw [g6.tile, Vec.at_upd_same]; exact r4
      · exact ⟨g4.engineAt (fun _ => rfl), g4.raw, g4.tasks, fun _ => ⟨r4, b4⟩⟩
    cases logicalOf (Vec.at s.crests e.crest) e.eng with
    | none => exact tail _ (.self _) _ rfl
    | some l => exact tail _ (taskFrame_abandonLater _ _ _) _ rfl

/-- What an exception of an engine does (R87 to R91, R96): its record, its stop, XCPT, the abandoned task, and for a cause of the engine
kind the retirement. -/
theorem engineX_spec (e : EngRef) (cause : Nat) (addr : Word) (trap : BitVec 5) (d : Option StepDesc) (el : BitVec 16) (s : State) :
    engineAt (engineX e cause addr trap d el s) e = { engineAt s e with
      x := mkRecord s (engineAt s e) cause addr trap d el, run := none, delay := none, modeNext := none, loops := [] } ∧
    (∀ x, x ≠ e → engineAt (engineX e cause addr trap d el s) x = engineAt s x) ∧
    (hdrAt (engineX e cause addr trap d el s) (.engine e.crest)).raw.getLsbD 0 = true ∧
    (∀ x, d = some x → (taskRt (engineX e cause addr trap d el s) x.tenant x.task).abandoned = true) ∧
    ((cause = xCtxEcc ∨ cause = xStall ∨ cause = xSelftest) → (Vec.at s.crests e.crest).retired.getLsbD e.eng.val = false →
      (Vec.at (engineX e cause addr trap d el s).crests e.crest).retired = setBit (Vec.at s.crests e.crest).retired e.eng.val true ∧
      (hdrAt (engineX e cause addr trap d el s) (.engine e.crest)).raw.getLsbD 3 = true) := by
  unfold engineX
  dsimp only
  generalize mkRecord s (engineAt s e) cause addr trap d el = x
  generalize d.map (fun d => d.tenant) = ten
  obtain ⟨s1, h1⟩ : ∃ s1, s1 = updEngine e (fun g => { g with x := x, run := none, delay := none, modeNext := none, loops := [] }) s := ⟨_, rfl⟩
  have e1 : engineAt s1 e = { engineAt s e with x := x, run := none, delay := none, modeNext := none, loops := [] } := by rw [h1]; simp
  have o1 : ∀ y, y ≠ e → engineAt s1 y = engineAt s y := by intro y hy; rw [h1]; exact engineAt_upd_ne _ _ _ _ hy
  have r1 : (Vec.at s1.crests e.crest).retired = (Vec.at s.crests e.crest).retired := by rw [h1]; simp [updEngine, updCrest]
  rw [← h1]
  clear h1
  obtain ⟨s2, h2⟩ : ∃ s2, s2 = raise (.engine e.crest) 0 ten .unstated (bump (.engine e.crest) 0x12 1 s1) := ⟨_, rfl⟩
  have f2 : TaskFrame s1 s2 := by rw [h2]; exact (taskFrame_bump _ _ _ _).trans (taskFrame_raise _ _ _ _ _)
  have b2 : (hdrAt s2 (.engine e.crest)).raw.getLsbD 0 = true := by rw [h2]; exact raise_sets _ _ _ _ _ (by decide)
  rw [← h2]
  clear h2
  obtain ⟨s3, h3⟩ : ∃ s3, s3 = if cause == xDeadline then raise (.engine e.crest) 7 ten .unstated s2 else s2 := ⟨_, rfl⟩
  have f3 : TaskFrame s2 s3 := by
    rw [h3]; split
    · exact taskFrame_raise _ _ _ _ _
    · exact .self _
  rw [← h3]
  clear h3
  obtain ⟨s4, h4⟩ : ∃ s4, s4 = abandonStep d (programKind cause) s3 := ⟨_, rfl⟩
  have f4 : TaskFrame s3 s4 := by rw [h4]; exact taskFrame_abandonStep _ _ _
  have d4 : ∀ y, d = some y → (taskRt s4 y.tenant y.task).abandoned = true := by
    intro y hy; rw [h4, hy]; exact abandonTask_abandons _ _ _ _
  rw [← h4]
  clear h4
  have f := f2.trans (f3.trans f4)
  have b4 := (f3.trans f4).raw _ _ b2
  have e4 : ∀ y, engineAt s4 y = engineAt s1 y := fun y => by unfold engineAt; rw [f.crests]
  have r4 : (Vec.at s4.crests e.crest).retired = (Vec.at s.crests e.crest).retired := by rw [f.crests, r1]
  have hs := retireByFault_spec e s4
  split
  · refine ⟨?_, ?_, hs.2.1 _ _ b4, fun y hy => hs.2.2.1 _ _ (d4 y hy), fun _ hr => ?_⟩
    · rw [hs.1, e4, e1]
    · intro y hy; rw [hs.1, e4, o1 y hy]
    · have := hs.2.2.2 (by rw [r4]; exact hr)
      rw [r4] at this; exact this
  · rename_i hc
    refine ⟨?_, ?_, b4, d4, fun h => absurd ?_ hc⟩
    · rw [e4, e1]
    · intro y hy; rw [e4, o1 y hy]
    · simpa [or_assoc] using h

end Sys2Proof.Machine
end

