-- ==== Sys2Proof/Laws/Frames.lean ====
section
/-! SUPPORT. Which components of the device each operation and each command may change: one lemma per operation, in the order of the
model's files. -/
namespace Sys2Proof.Machine

/-- The place of a component in a set of components written as a number. -/
def Component.bit : Component → Nat
  | .part => 0
  | .hdrs => 1
  | .latches => 2
  | .heldLow => 3
  | .tb => 4
  | .crests => 5
  | .hub => 6
  | .flitFails => 7
  | .packets => 8
  | .nextPacket => 9
  | .opened => 10
  | .pool => 11
  | .sram => 12
  | .staged => 13
  | .sched => 14
  | .run => 15
  | .trio => 16
  | .safety => 17
  | .field => 18
  | .panel => 19
  | .ports => 20
  | .cans => 21
  | .uarts => 22
  | .super => 23
  | .mail => 24
  | .host => 25
  | .recorder => 26
  | .historian => 27
  | .otp => 28
  | .store => 29
  | .flash => 30
  | .sec => 31
  | .upd => 32
  | .pwr => 33
  | .forceInd => 34
  | .tapReset => 35
  | .resp => 36
  | .out => 37
  | .free => 38
  | .pending => 39

/-- `t` differs from `s` in the components of the set `W` alone. -/
def But (W : Nat) (s t : State) : Prop := ∀ c : Component, W.testBit c.bit = false → sameAt c s t

/-- The set `a` lies within the set `b`. -/
def Within (a b : Nat) : Prop := ∀ i, a.testBit i = true → b.testBit i = true

theorem Within.self (a : Nat) : Within a a := fun _ h => h

theorem Within.le {a b c : Nat} (k : Within a b) (h : c &&& a = c) : Within c b := fun i hi => k i (by
  rw [← h, Nat.testBit_and, Bool.and_eq_true] at hi; exact hi.2)

theorem sameAt_self (c : Component) (s : State) : sameAt c s s := by cases c <;> rfl

theorem sameAt_trans {c : Component} {s t u : State} (h : sameAt c s t) (k : sameAt c t u) : sameAt c s u := by
  cases c <;> exact Eq.trans k h

theorem But.self (W : Nat) (s : State) : But W s s := fun c _ => sameAt_self c s

/-- A change of the components `D` after a change within `W`. -/
theorem But.put {W D : Nat} {s x t : State} (h : But W s x) (k : Within D W)
    (d : ∀ c : Component, D.testBit c.bit = false → sameAt c x t) : But W s t := fun c hc =>
  sameAt_trans (h c hc) (d c (by
    cases hd : D.testBit c.bit
    · rfl
    · rw [k _ hd] at hc; cases hc))

theorem But.trans {W : Nat} {s t u : State} (h : But W s t) (k : But W t u) : But W s u := fun c hc => sameAt_trans (h c hc) (k c hc)

theorem But.mono {W V : Nat} {s t : State} (h : But W s t) (k : Within W V) : But V s t := fun c hc =>
  h c (by
    cases hd : W.testBit c.bit
    · rfl
    · rw [k _ hd] at hc; cases hc)

/-- All components. -/
def allComponents : List Component :=
  [.part, .hdrs, .latches, .heldLow, .tb, .crests, .hub, .flitFails, .packets, .nextPacket, .opened, .pool, .sram, .staged, .sched, .run, .trio,
  .safety, .field, .panel, .ports, .cans, .uarts, .super, .mail, .host, .recorder, .historian, .otp, .store, .flash, .sec, .upd, .pwr,
  .forceInd, .tapReset, .resp, .out, .free, .pending]

theorem mem_allComponents (c : Component) : c ∈ allComponents := by cases c <;> decide

/-- What differs in the set `W` alone is the same in every component outside a list that holds `W`; the check evaluates. -/
theorem But.outside {W : Nat} {s t : State} (h : But W s t) {l : List Component}
    (k : (allComponents.all fun c => l.contains c || !W.testBit c.bit) = true) : ∀ c, c ∉ l → sameAt c s t := fun c hc => h c (by
  have := List.all_eq_true.mp k c (mem_allComponents c)
  simpa [hc] using this)

theorem but_ite {W : Nat} {s0 a b : State} {c : Prop} [Decidable c] (h : But W s0 a) (k : But W s0 b) : But W s0 (if c then a else b) := by
  split
  · exact h
  · exact k

theorem but_dite {W : Nat} {s0 : State} {c : Prop} [Decidable c] {a : c → State} {b : ¬c → State} (h : ∀ x, But W s0 (a x))
    (k : ∀ x, But W s0 (b x)) : But W s0 (if x : c then a x else b x) := by
  split
  · exact h _
  · exact k _

theorem but_foldl {W : Nat} {α : Type} {s0 s : State} {f : State → α → State} {l : List α} (h : ∀ x a, But W s0 x → But W s0 (f x a))
    (k : But W s0 s) : But W s0 (l.foldl f s) := by
  induction l generalizing s with
  | nil => exact k
  | cons a r ih => exact ih (h _ _ k)

theorem but_elim {W : Nat} {α : Type} {s0 a : State} {f : α → State} {x : Option α} (h : But W s0 a) (k : ∀ y, But W s0 (f y)) :
    But W s0 (x.elim a f) := by
  cases x
  · exact h
  · exact k _

theorem but_mk_crests {W : Nat} {s0 x : State} {crests'} (kw : Within 0x20 W) (h : But W s0 x) :
    But W s0 (State.mk x.part x.hdrs x.latches x.heldLow x.tb crests' x.hub x.flitFails x.packets x.nextPacket x.opened x.pool x.sram x.staged x.sched x.run x.trio x.safety x.field x.panel x.ports x.cans x.uarts x.super x.mail x.host x.recorder x.historian x.otp x.store x.flash x.sec x.upd x.pwr x.forceInd x.tapReset x.resp x.out x.free x.pending) :=
  h.put kw fun c hc => by cases c <;> first | rfl | exact absurd hc (by decide)

theorem but_updCrest {W : Nat} {s0 s : State} {c : Fin 6} {f : Crest → Crest} (kw : Within 0x20 W) (h : But W s0 s) : But W s0 (updCrest c f s) := by
  unfold updCrest; exact (but_mk_crests (kw.le rfl) h)

theorem but_updEngine {W : Nat} {s0 s : State} {e : EngRef} {f : Engine → Engine} (kw : Within 0x20 W) (h : But W s0 s) : But W s0 (updEngine e f s) := by
  unfold updEngine; exact (but_updCrest (kw.le rfl) h)

theorem but_updLoop {W : Nat} {s0 s : State} {c : Fin 6} {f : LoopArray → LoopArray} (kw : Within 0x20 W) (h : But W s0 s) : But W s0 (updLoop c f s) := by
  unfold updLoop; exact (but_updCrest (kw.le rfl) h)

theorem but_mk_ports {W : Nat} {s0 x : State} {ports'} (kw : Within 0x100000 W) (h : But W s0 x) :
    But W s0 (State.mk x.part x.hdrs x.latches x.heldLow x.tb x.crests x.hub x.flitFails x.packets x.nextPacket x.opened x.pool x.sram x.staged x.sched x.run x.trio x.safety x.field x.panel ports' x.cans x.uarts x.super x.mail x.host x.recorder x.historian x.otp x.store x.flash x.sec x.upd x.pwr x.forceInd x.tapReset x.resp x.out x.free x.pending) :=
  h.put kw fun c hc => by cases c <;> first | rfl | exact absurd hc (by decide)

theorem but_updPort {W : Nat} {s0 s : State} {p : Fin 10} {f : EthPort → EthPort} (kw : Within 0x100000 W) (h : But W s0 s) : But W s0 (updPort p f s) := by
  unfold updPort; exact (but_mk_ports (kw.le rfl) h)

theorem but_mk_cans {W : Nat} {s0 x : State} {cans'} (kw : Within 0x200000 W) (h : But W s0 x) :
    But W s0 (State.mk x.part x.hdrs x.latches x.heldLow x.tb x.crests x.hub x.flitFails x.packets x.nextPacket x.opened x.pool x.sram x.staged x.sched x.run x.trio x.safety x.field x.panel x.ports cans' x.uarts x.super x.mail x.host x.recorder x.historian x.otp x.store x.flash x.sec x.upd x.pwr x.forceInd x.tapReset x.resp x.out x.free x.pending) :=
  h.put kw fun c hc => by cases c <;> first | rfl | exact absurd hc (by decide)

theorem but_updCan {W : Nat} {s0 s : State} {c : Fin 16} {f : Can → Can} (kw : Within 0x200000 W) (h : But W s0 s) : But W s0 (updCan c f s) := by
  unfold updCan; exact (but_mk_cans (kw.le rfl) h)

theorem but_mk_uarts {W : Nat} {s0 x : State} {uarts'} (kw : Within 0x400000 W) (h : But W s0 x) :
    But W s0 (State.mk x.part x.hdrs x.latches x.heldLow x.tb x.crests x.hub x.flitFails x.packets x.nextPacket x.opened x.pool x.sram x.staged x.sched x.run x.trio x.safety x.field x.panel x.ports x.cans uarts' x.super x.mail x.host x.recorder x.historian x.otp x.store x.flash x.sec x.upd x.pwr x.forceInd x.tapReset x.resp x.out x.free x.pending) :=
  h.put kw fun c hc => by cases c <;> first | rfl | exact absurd hc (by decide)

theorem but_updUart {W : Nat} {s0 s : State} {u : Fin 8} {f : Uart → Uart} (kw : Within 0x400000 W) (h : But W s0 s) : But W s0 (updUart u f s) := by
  unfold updUart; exact (but_mk_uarts (kw.le rfl) h)

theorem but_mk_free {W : Nat} {s0 x : State} {free'} (kw : Within 0x4000000000 W) (h : But W s0 x) :
    But W s0 (State.mk x.part x.hdrs x.latches x.heldLow x.tb x.crests x.hub x.flitFails x.packets x.nextPacket x.opened x.pool x.sram x.staged x.sched x.run x.trio x.safety x.field x.panel x.ports x.cans x.uarts x.super x.mail x.host x.recorder x.historian x.otp x.store x.flash x.sec x.upd x.pwr x.forceInd x.tapReset x.resp x.out free' x.pending) :=
  h.put kw fun c hc => by cases c <;> first | rfl | exact absurd hc (by decide)

theorem but_drawFree {W : Nat} {s0 s : State} {n : ℕ} (kw : Within 0x4000000000 W) (h : But W s0 s) : But W s0 (drawFree n s).2 := by
  unfold drawFree; exact (but_mk_free (kw.le rfl) h)

theorem but_mk_out {W : Nat} {s0 x : State} {out'} (kw : Within 0x2000000000 W) (h : But W s0 x) :
    But W s0 (State.mk x.part x.hdrs x.latches x.heldLow x.tb x.crests x.hub x.flitFails x.packets x.nextPacket x.opened x.pool x.sram x.staged x.sched x.run x.trio x.safety x.field x.panel x.ports x.cans x.uarts x.super x.mail x.host x.recorder x.historian x.otp x.store x.flash x.sec x.upd x.pwr x.forceInd x.tapReset x.resp out' x.free x.pending) :=
  h.put kw fun c hc => by cases c <;> first | rfl | exact absurd hc (by decide)

theorem but_send {W : Nat} {s0 s : State} {m : Sent} (kw : Within 0x2000000000 W) (h : But W s0 s) : But W s0 (send m s) := by
  unfold send; exact (but_mk_out (kw.le rfl) h)

theorem but_mk_hdrs {W : Nat} {s0 x : State} {hdrs'} (kw : Within 0x2 W) (h : But W s0 x) :
    But W s0 (State.mk x.part hdrs' x.latches x.heldLow x.tb x.crests x.hub x.flitFails x.packets x.nextPacket x.opened x.pool x.sram x.staged x.sched x.run x.trio x.safety x.field x.panel x.ports x.cans x.uarts x.super x.mail x.host x.recorder x.historian x.otp x.store x.flash x.sec x.upd x.pwr x.forceInd x.tapReset x.resp x.out x.free x.pending) :=
  h.put kw fun c hc => by cases c <;> first | rfl | exact absurd hc (by decide)

theorem but_updHdr {W : Nat} {s0 s : State} {pg : Page} {f : PageHdr → PageHdr} (kw : Within 0x2 W) (h : But W s0 s) : But W s0 (updHdr pg f s) := by
  unfold updHdr; exact (but_mk_hdrs (kw.le rfl) h)

theorem but_bump {W : Nat} {s0 s : State} {pg : Page} {code : ℕ} {n : ℕ} (kw : Within 0x2 W) (h : But W s0 s) : But W s0 (bump pg code n s) := by
  unfold bump; exact (but_ite h (but_updHdr (kw.le rfl) h))

theorem but_countEdge {W : Nat} {s0 s : State} {pg : Page} {before : State} (kw : Within 0x2 W) (h : But W s0 s) : But W s0 (countEdge pg before s) := by
  unfold countEdge; exact (but_ite (but_bump (kw.le rfl) h) h)

theorem but_setRaw {W : Nat} {s0 s : State} {pg : Page} {bit : ℕ} (kw : Within 0x2 W) (h : But W s0 s) : But W s0 (setRaw pg bit s) := by
  unfold setRaw; exact (but_countEdge (kw.le rfl) (but_updHdr (kw.le rfl) h))

theorem but_mk_recorder {W : Nat} {s0 x : State} {recorder'} (kw : Within 0x4000000 W) (h : But W s0 x) :
    But W s0 (State.mk x.part x.hdrs x.latches x.heldLow x.tb x.crests x.hub x.flitFails x.packets x.nextPacket x.opened x.pool x.sram x.staged x.sched x.run x.trio x.safety x.field x.panel x.ports x.cans x.uarts x.super x.mail x.host recorder' x.historian x.otp x.store x.flash x.sec x.upd x.pwr x.forceInd x.tapReset x.resp x.out x.free x.pending) :=
  h.put kw fun c hc => by cases c <;> first | rfl | exact absurd hc (by decide)

theorem but_dropEvent {W : Nat} {s0 s : State} {r : Fin 9} {ev : EventIn} (kw : Within 0x4000002 W) (h : But W s0 s) : But W s0 (dropEvent r ev s) := by
  unfold dropEvent; exact (but_setRaw (kw.le rfl) (but_bump (kw.le rfl) (but_mk_recorder (kw.le rfl) h)))

theorem but_enqueueEvent {W : Nat} {s0 s : State} {ev : EventIn} (kw : Within 0x4000002 W) (h : But W s0 s) : But W s0 (enqueueEvent ev s) := by
  unfold enqueueEvent; exact (but_ite (but_mk_recorder (kw.le rfl) h) (but_dropEvent (kw.le rfl) h))

theorem but_recordEvent {W : Nat} {s0 s : State} {pg : Page} {n : ℕ} {ten : Option (BitVec 3)} {sev : BitVec 3} {ps : Params} (kw : Within 0x4004000002 W) (h : But W s0 s) : But W s0 (recordEvent pg n ten sev ps s) := by
  unfold recordEvent; exact (by (try dsimp only); split; exacts [(but_enqueueEvent (kw.le rfl) h), (by (try dsimp only [drawFree]); exact (but_enqueueEvent (kw.le rfl) (but_mk_free (kw.le rfl) h)))])

theorem but_raise {W : Nat} {s0 s : State} {pg : Page} {bit : ℕ} {ten : Option (BitVec 3)} {ps : Params} (kw : Within 0x4004000002 W) (h : But W s0 s) : But W s0 (raise pg bit ten ps s) := by
  unfold raise; exact (but_recordEvent (kw.le rfl) (but_setRaw (kw.le rfl) h))

theorem but_raiseSev {W : Nat} {s0 s : State} {pg : Page} {bit : ℕ} {ten : Option (BitVec 3)} {sev : BitVec 3} {ps : Params} (kw : Within 0x4004000002 W) (h : But W s0 s) : But W s0 (raiseSev pg bit ten sev ps s) := by
  unfold raiseSev; exact (but_recordEvent (kw.le rfl) (but_setRaw (kw.le rfl) h))

theorem but_note {W : Nat} {s0 s : State} {pg : Page} {n : ℕ} {ten : Option (BitVec 3)} {p0 : Word} {p1 : Word} (kw : Within 0x4004000002 W) (h : But W s0 s) : But W s0 (note pg n ten p0 p1 s) := by
  unfold note; exact (but_recordEvent (kw.le rfl) h)

theorem but_mk_super {W : Nat} {s0 x : State} {super'} (kw : Within 0x800000 W) (h : But W s0 x) :
    But W s0 (State.mk x.part x.hdrs x.latches x.heldLow x.tb x.crests x.hub x.flitFails x.packets x.nextPacket x.opened x.pool x.sram x.staged x.sched x.run x.trio x.safety x.field x.panel x.ports x.cans x.uarts super' x.mail x.host x.recorder x.historian x.otp x.store x.flash x.sec x.upd x.pwr x.forceInd x.tapReset x.resp x.out x.free x.pending) :=
  h.put kw fun c hc => by cases c <;> first | rfl | exact absurd hc (by decide)

theorem but_urgent {W : Nat} {s0 s : State} {n : ℕ} (kw : Within 0x800000 W) (h : But W s0 s) : But W s0 (urgent n s) := by
  unfold urgent; exact (but_mk_super (kw.le rfl) h)

theorem but_raiseUrgent {W : Nat} {s0 s : State} {pg : Page} {bit : ℕ} {n : ℕ} {ten : Option (BitVec 3)} {ps : Params} (kw : Within 0x4004800002 W) (h : But W s0 s) : But W s0 (raiseUrgent pg bit n ten ps s) := by
  unfold raiseUrgent; exact (but_raiseSev (kw.le rfl) (but_urgent (kw.le rfl) h))

theorem but_condEdge {W : Nat} {s0 s : State} {pg : Page} {before : State} (kw : Within 0x2 W) (h : But W s0 s) : But W s0 (condEdge pg before s) := by
  unfold condEdge; exact (but_ite (but_bump (kw.le rfl) h) h)

theorem but_noteConds {W : Nat} {s0 s : State} {pgs : List Page} {before : State} (kw : Within 0x4004000002 W) (h : But W s0 s) : But W s0 (noteConds pgs before s) := by
  unfold noteConds; exact (but_foldl (fun _ _ h1 => (but_ite (but_condEdge (kw.le rfl) h1) (but_foldl (fun _ _ h2 => (but_ite (but_recordEvent (kw.le rfl) h2) h2)) (but_condEdge (kw.le rfl) h1)))) h)

theorem but_mk_resp {W : Nat} {s0 x : State} {resp'} (kw : Within 0x1000000000 W) (h : But W s0 x) :
    But W s0 (State.mk x.part x.hdrs x.latches x.heldLow x.tb x.crests x.hub x.flitFails x.packets x.nextPacket x.opened x.pool x.sram x.staged x.sched x.run x.trio x.safety x.field x.panel x.ports x.cans x.uarts x.super x.mail x.host x.recorder x.historian x.otp x.store x.flash x.sec x.upd x.pwr x.forceInd x.tapReset resp' x.out x.free x.pending) :=
  h.put kw fun c hc => by cases c <;> first | rfl | exact absurd hc (by decide)

theorem but_errorResponse {W : Nat} {s0 s : State} {pg : Option Page} (kw : Within 0x1000000002 W) (h : But W s0 s) : But W s0 (errorResponse pg s) := by
  unfold errorResponse; exact (by (try dsimp only); split; exacts [(but_ite (but_bump (kw.le rfl) (but_updHdr (kw.le rfl) (but_mk_resp (kw.le rfl) h))) (but_mk_resp (kw.le rfl) h)), (but_mk_resp (kw.le rfl) h)])

theorem but_refuse {W : Nat} {s0 s : State} {w : Requester} {pg : Option Page} (kw : Within 0x3000000002 W) (h : But W s0 s) : But W s0 (refuse w pg s) := by
  unfold refuse; exact (by (try dsimp only); split; exacts [(but_send (kw.le rfl) (but_errorResponse (kw.le rfl) h)), (but_errorResponse (kw.le rfl) h)])

theorem but_onPage {W : Nat} {s0 s : State} {q : Req} {pg : Page} {f : State → State} (kk : Within 0x3000000002 W) (k : ∀ x, But W s0 x → But W s0 (f x)) (h : But W s0 s) :
    But W s0 (onPage q pg f s) := by
  unfold onPage; exact (but_ite (but_refuse (kk.le rfl) h) (k _ (but_bump (kk.le rfl) (but_mk_resp (kk.le rfl) h))))

theorem but_answer {W : Nat} {s0 s : State} {v : Word} (kw : Within 0x1000000000 W) (h : But W s0 s) : But W s0 (answer v s) := by
  unfold answer; exact (but_mk_resp (kw.le rfl) h)

theorem but_ifUnlocked {W : Nat} {s0 s : State} {pg : Page} {f : State → State} (kk : Within 0x2 W) (k : ∀ x, But W s0 x → But W s0 (f x)) (h : But W s0 s) :
    But W s0 (ifUnlocked pg f s) := by
  unfold ifUnlocked; exact (but_ite (but_updHdr (kk.le rfl) h) (k _ h))

theorem but_mk_latches {W : Nat} {s0 x : State} {latches'} (kw : Within 0x4 W) (h : But W s0 x) :
    But W s0 (State.mk x.part x.hdrs latches' x.heldLow x.tb x.crests x.hub x.flitFails x.packets x.nextPacket x.opened x.pool x.sram x.staged x.sched x.run x.trio x.safety x.field x.panel x.ports x.cans x.uarts x.super x.mail x.host x.recorder x.historian x.otp x.store x.flash x.sec x.upd x.pwr x.forceInd x.tapReset x.resp x.out x.free x.pending) :=
  h.put kw fun c hc => by cases c <;> first | rfl | exact absurd hc (by decide)

theorem but_latchPut {W : Nat} {s0 s : State} {w : Requester} {pg : Page} {off : ℕ} {v : Word} (kw : Within 0x4 W) (h : But W s0 s) : But W s0 (latchPut w pg off v s) := by
  unfold latchPut; exact (but_mk_latches (kw.le rfl) h)

theorem but_mk_heldLow {W : Nat} {s0 x : State} {heldLow'} (kw : Within 0x8 W) (h : But W s0 x) :
    But W s0 (State.mk x.part x.hdrs x.latches heldLow' x.tb x.crests x.hub x.flitFails x.packets x.nextPacket x.opened x.pool x.sram x.staged x.sched x.run x.trio x.safety x.field x.panel x.ports x.cans x.uarts x.super x.mail x.host x.recorder x.historian x.otp x.store x.flash x.sec x.upd x.pwr x.forceInd x.tapReset x.resp x.out x.free x.pending) :=
  h.put kw fun c hc => by cases c <;> first | rfl | exact absurd hc (by decide)

theorem but_holdLow {W : Nat} {s0 s : State} {w : Requester} {pg : Page} {off : ℕ} {v : Word} (kw : Within 0x8 W) (h : But W s0 s) : But W s0 (holdLow w pg off v s) := by
  unfold holdLow; exact (but_mk_heldLow (kw.le rfl) h)

theorem but_commit64 {W : Nat} {s0 s : State} {w : Requester} {pg : Page} {off : ℕ} {cur : DWord} {hi : Word} (kw : Within 0x8 W) (h : But W s0 s) : But W s0 (commit64 w pg off cur hi s).2 := by
  unfold commit64; exact (but_mk_heldLow (kw.le rfl) h)

theorem but_mk_latches_heldLow {W : Nat} {s0 x : State} {latches' heldLow'} (kw : Within 0xc W) (h : But W s0 x) :
    But W s0 (State.mk x.part x.hdrs latches' heldLow' x.tb x.crests x.hub x.flitFails x.packets x.nextPacket x.opened x.pool x.sram x.staged x.sched x.run x.trio x.safety x.field x.panel x.ports x.cans x.uarts x.super x.mail x.host x.recorder x.historian x.otp x.store x.flash x.sec x.upd x.pwr x.forceInd x.tapReset x.resp x.out x.free x.pending) :=
  h.put kw fun c hc => by cases c <;> first | rfl | exact absurd hc (by decide)

theorem but_dropLatches {W : Nat} {s0 s : State} {p : Page → Bool} (kw : Within 0xc W) (h : But W s0 s) : But W s0 (dropLatches p s) := by
  unfold dropLatches; exact (but_mk_latches_heldLow (kw.le rfl) h)

theorem but_mk_hub {W : Nat} {s0 x : State} {hub'} (kw : Within 0x40 W) (h : But W s0 x) :
    But W s0 (State.mk x.part x.hdrs x.latches x.heldLow x.tb x.crests hub' x.flitFails x.packets x.nextPacket x.opened x.pool x.sram x.staged x.sched x.run x.trio x.safety x.field x.panel x.ports x.cans x.uarts x.super x.mail x.host x.recorder x.historian x.otp x.store x.flash x.sec x.upd x.pwr x.forceInd x.tapReset x.resp x.out x.free x.pending) :=
  h.put kw fun c hc => by cases c <;> first | rfl | exact absurd hc (by decide)

theorem but_updSwitch {W : Nat} {s0 s : State} {t : ℕ} {f : Switch → Switch} (kw : Within 0x60 W) (h : But W s0 s) : But W s0 (updSwitch t f s) := by
  unfold updSwitch; exact (but_ite (but_mk_hub (kw.le rfl) h) (by (try dsimp only); split; exacts [(but_ite h (but_updCrest (kw.le rfl) h)), h]))

theorem but_bumpSwitch {W : Nat} {s0 s : State} {t : ℕ} {code : ℕ} {n : ℕ} (kw : Within 0x2 W) (h : But W s0 s) : But W s0 (bumpSwitch t code n s) := by
  unfold bumpSwitch; exact (but_elim h (fun _ => (but_bump (kw.le rfl) h)))

theorem but_raiseSwitch {W : Nat} {s0 s : State} {t : ℕ} {bit : ℕ} {sev : BitVec 3} (kw : Within 0x4004000002 W) (h : But W s0 s) : But W s0 (raiseSwitch t bit sev s) := by
  unfold raiseSwitch; exact (but_elim h (fun _ => (but_raiseSev (kw.le rfl) h)))

theorem but_portDown {W : Nat} {s0 s : State} {e : LinkEnd} {sev : BitVec 3} (kw : Within 0x4004000062 W) (h : But W s0 s) : But W s0 (portDown e sev s) := by
  unfold portDown; exact (but_raiseSwitch (kw.le rfl) (but_updSwitch (kw.le rfl) h))

theorem but_mk_field {W : Nat} {s0 x : State} {field'} (kw : Within 0x40000 W) (h : But W s0 x) :
    But W s0 (State.mk x.part x.hdrs x.latches x.heldLow x.tb x.crests x.hub x.flitFails x.packets x.nextPacket x.opened x.pool x.sram x.staged x.sched x.run x.trio x.safety field' x.panel x.ports x.cans x.uarts x.super x.mail x.host x.recorder x.historian x.otp x.store x.flash x.sec x.upd x.pwr x.forceInd x.tapReset x.resp x.out x.free x.pending) :=
  h.put kw fun c hc => by cases c <;> first | rfl | exact absurd hc (by decide)

theorem but_updField {W : Nat} {s0 s : State} {f : Field → Field} (kw : Within 0x40000 W) (h : But W s0 s) : But W s0 (updField f s) := by
  unfold updField; exact (but_mk_field (kw.le rfl) h)

theorem but_settleMis {W : Nat} {s0 s : State} (kw : Within 0x40000 W) (h : But W s0 s) : But W s0 (settleMis s) := by
  unfold settleMis; exact (but_updField (kw.le rfl) h)

theorem but_settleTrims {W : Nat} {s0 s : State} (kw : Within 0x40000 W) (h : But W s0 s) : But W s0 (settleTrims s) := by
  unfold settleTrims; exact (but_updField (kw.le rfl) h)

theorem but_settleAsk {W : Nat} {s0 s : State} (kw : Within 0x40000 W) (h : But W s0 s) : But W s0 (settleAsk s) := by
  unfold settleAsk; exact (but_updField (kw.le rfl) h)

theorem but_refreshField {W : Nat} {s0 s : State} (kw : Within 0x40000 W) (h : But W s0 s) : But W s0 (refreshField s) := by
  unfold refreshField; exact (but_settleAsk (kw.le rfl) (but_settleTrims (kw.le rfl) (but_settleMis (kw.le rfl) (but_updField (kw.le rfl) h))))

theorem but_newFault {W : Nat} {s0 s : State} {ten : Option (BitVec 3)} (kw : Within 0x4004000002 W) (h : But W s0 s) : But W s0 (newFault ten s) := by
  unfold newFault; exact (but_raise (kw.le rfl) (but_bump (kw.le rfl) h))

theorem but_mk_run {W : Nat} {s0 x : State} {run'} (kw : Within 0x8000 W) (h : But W s0 x) :
    But W s0 (State.mk x.part x.hdrs x.latches x.heldLow x.tb x.crests x.hub x.flitFails x.packets x.nextPacket x.opened x.pool x.sram x.staged x.sched run' x.trio x.safety x.field x.panel x.ports x.cans x.uarts x.super x.mail x.host x.recorder x.historian x.otp x.store x.flash x.sec x.upd x.pwr x.forceInd x.tapReset x.resp x.out x.free x.pending) :=
  h.put kw fun c hc => by cases c <;> first | rfl | exact absurd hc (by decide)

theorem but_updTask {W : Nat} {s0 s : State} {ten : BitVec 3} {tsk : BitVec 8} {f : TaskRt → TaskRt} (kw : Within 0x8000 W) (h : But W s0 s) : But W s0 (updTask ten tsk f s) := by
  unfold updTask; exact (but_mk_run (kw.le rfl) h)

theorem but_abandonTask {W : Nat} {s0 s : State} {ten : BitVec 3} {tsk : BitVec 8} {program : Bool} (kw : Within 0x8002 W) (h : But W s0 s) : But W s0 (abandonTask ten tsk program s) := by
  unfold abandonTask; exact (but_ite (but_updTask (kw.le rfl) h) (but_bump (kw.le rfl) (but_updTask (kw.le rfl) h)))

theorem but_mk_safety {W : Nat} {s0 x : State} {safety'} (kw : Within 0x20000 W) (h : But W s0 x) :
    But W s0 (State.mk x.part x.hdrs x.latches x.heldLow x.tb x.crests x.hub x.flitFails x.packets x.nextPacket x.opened x.pool x.sram x.staged x.sched x.run x.trio safety' x.field x.panel x.ports x.cans x.uarts x.super x.mail x.host x.recorder x.historian x.otp x.store x.flash x.sec x.upd x.pwr x.forceInd x.tapReset x.resp x.out x.free x.pending) :=
  h.put kw fun c hc => by cases c <;> first | rfl | exact absurd hc (by decide)

theorem but_updFunc {W : Nat} {s0 s : State} {i : Fin 256} {f : FuncRt → FuncRt} (kw : Within 0x20000 W) (h : But W s0 s) : But W s0 (updFunc i f s) := by
  unfold updFunc; exact (but_mk_safety (kw.le rfl) h)

theorem but_setFunc {W : Nat} {s0 s : State} {c : FuncCfg} {new : FuncState} {cause : BitVec 4} (kw : Within 0x4004820002 W) (h : But W s0 s) : But W s0 (setFunc c new cause s) := by
  unfold setFunc; exact (but_ite h (but_ite (but_raiseUrgent (kw.le rfl) (but_raise (kw.le rfl) (but_bump (kw.le rfl) (but_updFunc (kw.le rfl) h)))) (but_raise (kw.le rfl) (but_bump (kw.le rfl) (but_updFunc (kw.le rfl) h)))))

theorem but_stopFunc {W : Nat} {s0 s : State} {noHold : Bool} {c : FuncCfg} (kw : Within 0x4004820002 W) (h : But W s0 s) : But W s0 (stopFunc noHold s c) := by
  unfold stopFunc; exact (but_ite (but_ite (but_setFunc (kw.le rfl) h) h) (but_ite (but_ite (but_setFunc (kw.le rfl) h) h) (but_ite (but_updFunc (kw.le rfl) (but_setFunc (kw.le rfl) h)) h)))

theorem but_safeOutputs {W : Nat} {s0 s : State} {keepSingle : Bool} (kw : Within 0x40000 W) (h : But W s0 s) : But W s0 (safeOutputs keepSingle s) := by
  unfold safeOutputs; exact (but_refreshField (kw.le rfl) (but_updField (kw.le rfl) h))

theorem but_mk_sched {W : Nat} {s0 x : State} {sched'} (kw : Within 0x4000 W) (h : But W s0 x) :
    But W s0 (State.mk x.part x.hdrs x.latches x.heldLow x.tb x.crests x.hub x.flitFails x.packets x.nextPacket x.opened x.pool x.sram x.staged sched' x.run x.trio x.safety x.field x.panel x.ports x.cans x.uarts x.super x.mail x.host x.recorder x.historian x.otp x.store x.flash x.sec x.upd x.pwr x.forceInd x.tapReset x.resp x.out x.free x.pending) :=
  h.put kw fun c hc => by cases c <;> first | rfl | exact absurd hc (by decide)

theorem but_cancelSched {W : Nat} {s0 s : State} {code : Option Byte} (kw : Within 0x4004004002 W) (h : But W s0 s) : But W s0 (cancelSched code s) := by
  unfold cancelSched; exact (but_ite (but_raise (kw.le rfl) (but_mk_sched (kw.le rfl) h)) h)

theorem but_cancelApp {W : Nat} {s0 s : State} {code : Option Byte} (kw : Within 0x4004008002 W) (h : But W s0 s) : But W s0 (cancelApp code s) := by
  unfold cancelApp; exact (but_ite (but_raise (kw.le rfl) (but_mk_run (kw.le rfl) h)) h)

theorem but_cancelSlots {W : Nat} {s0 s : State} {c : Fin 16} (kw : Within 0x4004200002 W) (h : But W s0 s) : But W s0 (cancelSlots s c) := by
  unfold cancelSlots; exact (but_ite h (but_raise (kw.le rfl) (but_updCan (kw.le rfl) h)))

theorem but_mk_pool_run {W : Nat} {s0 x : State} {pool' run'} (kw : Within 0x8800 W) (h : But W s0 x) :
    But W s0 (State.mk x.part x.hdrs x.latches x.heldLow x.tb x.crests x.hub x.flitFails x.packets x.nextPacket x.opened pool' x.sram x.staged x.sched run' x.trio x.safety x.field x.panel x.ports x.cans x.uarts x.super x.mail x.host x.recorder x.historian x.otp x.store x.flash x.sec x.upd x.pwr x.forceInd x.tapReset x.resp x.out x.free x.pending) :=
  h.put kw fun c hc => by cases c <;> first | rfl | exact absurd hc (by decide)

theorem but_stopController {W : Nat} {s0 s : State} {st : RunState} {keepSingle : Bool} {noHold : Bool} (kw : Within 0x4004a6c802 W) (h : But W s0 s) : But W s0 (stopController st keepSingle noHold s) := by
  unfold stopController; exact (but_safeOutputs (kw.le rfl) (but_foldl (fun _ _ h1 => (but_cancelSlots (kw.le rfl) h1)) (but_foldl (fun _ _ h1 => (but_stopFunc (kw.le rfl) h1)) (but_cancelApp (kw.le rfl) (but_cancelSched (kw.le rfl) (but_mk_pool_run (kw.le rfl) h))))))

theorem but_mk_trio {W : Nat} {s0 x : State} {trio'} (kw : Within 0x10000 W) (h : But W s0 x) :
    But W s0 (State.mk x.part x.hdrs x.latches x.heldLow x.tb x.crests x.hub x.flitFails x.packets x.nextPacket x.opened x.pool x.sram x.staged x.sched x.run trio' x.safety x.field x.panel x.ports x.cans x.uarts x.super x.mail x.host x.recorder x.historian x.otp x.store x.flash x.sec x.upd x.pwr x.forceInd x.tapReset x.resp x.out x.free x.pending) :=
  h.put kw fun c hc => by cases c <;> first | rfl | exact absurd hc (by decide)

theorem but_dropRejoin {W : Nat} {s0 s : State} (kw : Within 0x4004010002 W) (h : But W s0 s) : But W s0 (dropRejoin s) := by
  unfold dropRejoin; exact (but_ite h (but_raise (kw.le rfl) (but_mk_trio (kw.le rfl) h)))

theorem but_giveUpWith {W : Nat} {s0 s : State} {cause : ℕ} {ownDiagFailed : Bool} (kw : Within 0x4004a7c802 W) (h : But W s0 s) : But W s0 (giveUpWith cause ownDiagFailed s) := by
  unfold giveUpWith; exact (but_ite h (but_raiseUrgent (kw.le rfl) (but_dropRejoin (kw.le rfl) (but_mk_trio (kw.le rfl) (but_stopController (kw.le rfl) h)))))

theorem but_giveUp {W : Nat} {s0 s : State} {cause : ℕ} (kw : Within 0x4004a7c802 W) (h : But W s0 s) : But W s0 (giveUp cause s) := by
  unfold giveUp; exact (but_giveUpWith (kw.le rfl) h)

theorem but_failSelfTest {W : Nat} {s0 s : State} (kw : Within 0x4004a7c802 W) (h : But W s0 s) : But W s0 (failSelfTest s) := by
  unfold failSelfTest; exact (by (try dsimp only); split; exacts [h, h, (but_dropRejoin (kw.le rfl) h), (but_ite (but_giveUp (kw.le rfl) h) (but_stopController (kw.le rfl) h)), (but_ite (but_giveUp (kw.le rfl) h) (but_stopController (kw.le rfl) (but_dropRejoin (kw.le rfl) h)))])

theorem but_overrun {W : Nat} {s0 s : State} {crest : ℕ} {logical : BitVec 4} {cause : BitVec 2} (kw : Within 0x4004a7c802 W) (h : But W s0 s) : But W s0 (overrun crest logical cause s) := by
  unfold overrun; exact (but_ite h (but_ite (but_giveUp (kw.le rfl) (but_raiseUrgent (kw.le rfl) (but_mk_run (kw.le rfl) h))) (but_dropRejoin (kw.le rfl) (but_stopController (kw.le rfl) (but_raiseUrgent (kw.le rfl) (but_mk_run (kw.le rfl) h))))))

theorem but_mk_run_trio_safety_pwr {W : Nat} {s0 x : State} {run' trio' safety' pwr'} (kw : Within 0x200038000 W) (h : But W s0 x) :
    But W s0 (State.mk x.part x.hdrs x.latches x.heldLow x.tb x.crests x.hub x.flitFails x.packets x.nextPacket x.opened x.pool x.sram x.staged x.sched run' trio' safety' x.field x.panel x.ports x.cans x.uarts x.super x.mail x.host x.recorder x.historian x.otp x.store x.flash x.sec x.upd pwr' x.forceInd x.tapReset x.resp x.out x.free x.pending) :=
  h.put kw fun c hc => by cases c <;> first | rfl | exact absurd hc (by decide)

theorem but_startFails {W : Nat} {s0 s : State} {code : Byte} {tile : BitVec 3} (kw : Within 0x4204038002 W) (h : But W s0 s) : But W s0 (startFails code tile s) := by
  unfold startFails; exact (but_note (kw.le rfl) (but_mk_run_trio_safety_pwr (kw.le rfl) h))

theorem but_failDevice {W : Nat} {s0 s : State} {code : Byte} {tile : BitVec 3} (kw : Within 0x4204a7c802 W) (h : But W s0 s) : But W s0 (failDevice code tile s) := by
  unfold failDevice; exact (but_ite (but_startFails (kw.le rfl) h) (but_failSelfTest (kw.le rfl) h))

theorem but_abandonStep {W : Nat} {s0 s : State} {d : Option StepDesc} {program : Bool} (kw : Within 0x8002 W) (h : But W s0 s) : But W s0 (abandonStep d program s) := by
  unfold abandonStep; exact (by (try dsimp only); split; exacts [(but_abandonTask (kw.le rfl) h), h])

theorem but_abandonLater {W : Nat} {s0 s : State} {c : Fin 6} {logical : ℕ} (kw : Within 0x8002 W) (h : But W s0 s) : But W s0 (abandonLater c logical s) := by
  unfold abandonLater; exact (by (try dsimp only); split; exacts [h, (but_foldl (fun _ _ h1 => (but_ite (but_abandonStep (kw.le rfl) h1) h1)) h)])

theorem but_retireByFault {W : Nat} {s0 s : State} {e : EngRef} (kw : Within 0x4004008022 W) (h : But W s0 s) : But W s0 (retireByFault e s) := by
  unfold retireByFault; exact (but_ite h (but_ite (but_raise (kw.le rfl) (but_updCrest (kw.le rfl) (by (try dsimp only); split; exacts [(but_abandonLater (kw.le rfl) (but_abandonStep (kw.le rfl) (but_abandonStep (kw.le rfl) (but_raise (kw.le rfl) (but_updCrest (kw.le rfl) h))))), (but_abandonStep (kw.le rfl) (but_abandonStep (kw.le rfl) (but_raise (kw.le rfl) (but_updCrest (kw.le rfl) h))))]))) (by (try dsimp only); split; exacts [(but_abandonLater (kw.le rfl) (but_abandonStep (kw.le rfl) (but_abandonStep (kw.le rfl) (but_raise (kw.le rfl) (but_updCrest (kw.le rfl) h))))), (but_abandonStep (kw.le rfl) (but_abandonStep (kw.le rfl) (but_raise (kw.le rfl) (but_updCrest (kw.le rfl) h))))])))

theorem but_engineX {W : Nat} {s0 s : State} {e : EngRef} {cause : ℕ} {addr : Word} {trap : BitVec 5} {d : Option StepDesc} {elapsed : BitVec 16} (kw : Within 0x4004008022 W) (h : But W s0 s) : But W s0 (engineX e cause addr trap d elapsed s) := by
  unfold engineX; exact (but_ite (but_retireByFault (kw.le rfl) (but_abandonStep (kw.le rfl) (but_ite (but_raise (kw.le rfl) (but_raise (kw.le rfl) (but_bump (kw.le rfl) (but_updEngine (kw.le rfl) h)))) (but_raise (kw.le rfl) (but_bump (kw.le rfl) (but_updEngine (kw.le rfl) h)))))) (but_abandonStep (kw.le rfl) (but_ite (but_raise (kw.le rfl) (but_raise (kw.le rfl) (but_bump (kw.le rfl) (but_updEngine (kw.le rfl) h)))) (but_raise (kw.le rfl) (but_bump (kw.le rfl) (but_updEngine (kw.le rfl) h))))))

theorem but_instrX {W : Nat} {s0 s : State} {e : EngRef} {cause : ℕ} {addr : Word} {trap : BitVec 5} (kw : Within 0x4004008022 W) (h : But W s0 s) : But W s0 (instrX e cause addr trap s) := by
  unfold instrX; exact (but_engineX (kw.le rfl) h)

theorem but_finish {W : Nat} {s0 s : State} {e : EngRef} {f : Eff} (kw : Within 0x4004008022 W) (h : But W s0 s) : But W s0 (finish e f s) := by
  unfold finish; exact (by (try dsimp only); split; exacts [(but_bump (kw.le rfl) (but_updEngine (kw.le rfl) h)), (but_bump (kw.le rfl) (but_updEngine (kw.le rfl) h)), (but_bump (kw.le rfl) (but_updEngine (kw.le rfl) h)), (but_bump (kw.le rfl) (but_updEngine (kw.le rfl) h)), (but_bump (kw.le rfl) (but_bump (kw.le rfl) (but_updEngine (kw.le rfl) h))), (but_instrX (kw.le rfl) h)])

theorem but_runWord {W : Nat} {s0 s : State} {e : EngRef} {w : Word} {body : State → Engine → Eff} (kw : Within 0x4004008022 W) (h : But W s0 s) : But W s0 (runWord e w body s) := by
  unfold runWord; exact (but_ite h (by (try dsimp only); split; exacts [(but_instrX (kw.le rfl) h), (but_ite h (but_ite (but_instrX (kw.le rfl) h) (but_finish (kw.le rfl) h)))]))

theorem but_runAlu {W : Nat} {s0 s : State} {e : EngRef} {w : Word} {f : Engine → Engine} (kw : Within 0x4004008022 W) (h : But W s0 s) : But W s0 (runAlu e w f s) := by
  unfold runAlu; exact (but_runWord (kw.le rfl) h)

theorem but_execAdd {s t : State} {e : EngRef} {rd : Reg} {ra : Reg} {rb : Reg} (e : execAdd e rd ra rb s = .next t) : But 0x4004008022 s t := by
  have h := But.self 0x4004008022 s
  have kw := Within.self 0x4004008022
  cases e; exact (but_runAlu (kw.le rfl) h)

theorem but_execSub {s t : State} {e : EngRef} {rd : Reg} {ra : Reg} {rb : Reg} (e : execSub e rd ra rb s = .next t) : But 0x4004008022 s t := by
  have h := But.self 0x4004008022 s
  have kw := Within.self 0x4004008022
  cases e; exact (but_runAlu (kw.le rfl) h)

theorem but_execAnd {s t : State} {e : EngRef} {rd : Reg} {ra : Reg} {rb : Reg} (e : execAnd e rd ra rb s = .next t) : But 0x4004008022 s t := by
  have h := But.self 0x4004008022 s
  have kw := Within.self 0x4004008022
  cases e; exact (but_runAlu (kw.le rfl) h)

theorem but_execOr {s t : State} {e : EngRef} {rd : Reg} {ra : Reg} {rb : Reg} (e : execOr e rd ra rb s = .next t) : But 0x4004008022 s t := by
  have h := But.self 0x4004008022 s
  have kw := Within.self 0x4004008022
  cases e; exact (but_runAlu (kw.le rfl) h)

theorem but_execXor {s t : State} {e : EngRef} {rd : Reg} {ra : Reg} {rb : Reg} (e : execXor e rd ra rb s = .next t) : But 0x4004008022 s t := by
  have h := But.self 0x4004008022 s
  have kw := Within.self 0x4004008022
  cases e; exact (but_runAlu (kw.le rfl) h)

theorem but_execShl {s t : State} {e : EngRef} {rd : Reg} {ra : Reg} {rb : Reg} (e : execShl e rd ra rb s = .next t) : But 0x4004008022 s t := by
  have h := But.self 0x4004008022 s
  have kw := Within.self 0x4004008022
  cases e; exact (but_runAlu (kw.le rfl) h)

theorem but_execShr {s t : State} {e : EngRef} {rd : Reg} {ra : Reg} {rb : Reg} (e : execShr e rd ra rb s = .next t) : But 0x4004008022 s t := by
  have h := But.self 0x4004008022 s
  have kw := Within.self 0x4004008022
  cases e; exact (but_runAlu (kw.le rfl) h)

theorem but_execSar {s t : State} {e : EngRef} {rd : Reg} {ra : Reg} {rb : Reg} (e : execSar e rd ra rb s = .next t) : But 0x4004008022 s t := by
  have h := But.self 0x4004008022 s
  have kw := Within.self 0x4004008022
  cases e; exact (but_runAlu (kw.le rfl) h)

theorem but_execSlt {s t : State} {e : EngRef} {rd : Reg} {ra : Reg} {rb : Reg} (e : execSlt e rd ra rb s = .next t) : But 0x4004008022 s t := by
  have h := But.self 0x4004008022 s
  have kw := Within.self 0x4004008022
  cases e; exact (but_runAlu (kw.le rfl) h)

theorem but_execSltu {s t : State} {e : EngRef} {rd : Reg} {ra : Reg} {rb : Reg} (e : execSltu e rd ra rb s = .next t) : But 0x4004008022 s t := by
  have h := But.self 0x4004008022 s
  have kw := Within.self 0x4004008022
  cases e; exact (but_runAlu (kw.le rfl) h)

theorem but_execMin {s t : State} {e : EngRef} {rd : Reg} {ra : Reg} {rb : Reg} (e : execMin e rd ra rb s = .next t) : But 0x4004008022 s t := by
  have h := But.self 0x4004008022 s
  have kw := Within.self 0x4004008022
  cases e; exact (but_runAlu (kw.le rfl) h)

theorem but_execMax {s t : State} {e : EngRef} {rd : Reg} {ra : Reg} {rb : Reg} (e : execMax e rd ra rb s = .next t) : But 0x4004008022 s t := by
  have h := But.self 0x4004008022 s
  have kw := Within.self 0x4004008022
  cases e; exact (but_runAlu (kw.le rfl) h)

theorem but_execAbs {s t : State} {e : EngRef} {rd : Reg} {ra : Reg} (e : execAbs e rd ra s = .next t) : But 0x4004008022 s t := by
  have h := But.self 0x4004008022 s
  have kw := Within.self 0x4004008022
  cases e; exact (but_runAlu (kw.le rfl) h)

theorem but_execMul {s t : State} {e : EngRef} {rd : Reg} {ra : Reg} {rb : Reg} (e : execMul e rd ra rb s = .next t) : But 0x4004008022 s t := by
  have h := But.self 0x4004008022 s
  have kw := Within.self 0x4004008022
  cases e; exact (but_runAlu (kw.le rfl) h)

theorem but_execMulh {s t : State} {e : EngRef} {rd : Reg} {ra : Reg} {rb : Reg} (e : execMulh e rd ra rb s = .next t) : But 0x4004008022 s t := by
  have h := But.self 0x4004008022 s
  have kw := Within.self 0x4004008022
  cases e; exact (but_runAlu (kw.le rfl) h)

theorem but_execDiv {s t : State} {e : EngRef} {rd : Reg} {ra : Reg} {rb : Reg} (e : execDiv e rd ra rb s = .next t) : But 0x4004008022 s t := by
  have h := But.self 0x4004008022 s
  have kw := Within.self 0x4004008022
  cases e; exact (but_runAlu (kw.le rfl) h)

theorem but_execDivu {s t : State} {e : EngRef} {rd : Reg} {ra : Reg} {rb : Reg} (e : execDivu e rd ra rb s = .next t) : But 0x4004008022 s t := by
  have h := But.self 0x4004008022 s
  have kw := Within.self 0x4004008022
  cases e; exact (but_runAlu (kw.le rfl) h)

theorem but_execRem {s t : State} {e : EngRef} {rd : Reg} {ra : Reg} {rb : Reg} (e : execRem e rd ra rb s = .next t) : But 0x4004008022 s t := by
  have h := But.self 0x4004008022 s
  have kw := Within.self 0x4004008022
  cases e; exact (but_runAlu (kw.le rfl) h)

theorem but_execMac {s t : State} {e : EngRef} {ra : Reg} {rb : Reg} (e : execMac e ra rb s = .next t) : But 0x4004008022 s t := by
  have h := But.self 0x4004008022 s
  have kw := Within.self 0x4004008022
  cases e; exact (but_runAlu (kw.le rfl) h)

theorem but_execMsu {s t : State} {e : EngRef} {ra : Reg} {rb : Reg} (e : execMsu e ra rb s = .next t) : But 0x4004008022 s t := by
  have h := But.self 0x4004008022 s
  have kw := Within.self 0x4004008022
  cases e; exact (but_runAlu (kw.le rfl) h)

theorem but_execAccset {s t : State} {e : EngRef} {ra : Reg} {rb : Reg} (e : execAccset e ra rb s = .next t) : But 0x4004008022 s t := by
  have h := But.self 0x4004008022 s
  have kw := Within.self 0x4004008022
  cases e; exact (but_runAlu (kw.le rfl) h)

theorem but_execAcclo {s t : State} {e : EngRef} {rd : Reg} (e : execAcclo e rd s = .next t) : But 0x4004008022 s t := by
  have h := But.self 0x4004008022 s
  have kw := Within.self 0x4004008022
  cases e; exact (but_runAlu (kw.le rfl) h)

theorem but_execAcchi {s t : State} {e : EngRef} {rd : Reg} (e : execAcchi e rd s = .next t) : But 0x4004008022 s t := by
  have h := But.self 0x4004008022 s
  have kw := Within.self 0x4004008022
  cases e; exact (but_runAlu (kw.le rfl) h)

theorem but_execAccsh {s t : State} {e : EngRef} {rd : Reg} {rb : Reg} (e : execAccsh e rd rb s = .next t) : But 0x4004008022 s t := by
  have h := But.self 0x4004008022 s
  have kw := Within.self 0x4004008022
  cases e; exact (but_runAlu (kw.le rfl) h)

theorem but_execNop {s t : State} {e : EngRef} (e : execNop e s = .next t) : But 0x4004008022 s t := by
  have h := But.self 0x4004008022 s
  have kw := Within.self 0x4004008022
  cases e; exact (but_runAlu (kw.le rfl) h)

theorem but_execModer {s t : State} {e : EngRef} {rd : Reg} (e : execModer e rd s = .next t) : But 0x4004008022 s t := by
  have h := But.self 0x4004008022 s
  have kw := Within.self 0x4004008022
  cases e; exact (but_runAlu (kw.le rfl) h)

theorem but_execFlagr {s t : State} {e : EngRef} {rd : Reg} (e : execFlagr e rd s = .next t) : But 0x4004008022 s t := by
  have h := But.self 0x4004008022 s
  have kw := Within.self 0x4004008022
  cases e; exact (but_runAlu (kw.le rfl) h)

theorem but_execFlagc {s t : State} {e : EngRef} {ra : Reg} (e : execFlagc e ra s = .next t) : But 0x4004008022 s t := by
  have h := But.self 0x4004008022 s
  have kw := Within.self 0x4004008022
  cases e; exact (but_runAlu (kw.le rfl) h)

theorem but_execModew {s t : State} {e : EngRef} {ra : Reg} (e : execModew e ra s = .next t) : But 0x4004008022 s t := by
  have h := But.self 0x4004008022 s
  have kw := Within.self 0x4004008022
  cases e; exact (but_runWord (kw.le rfl) h)

theorem but_execSysr {s t : State} {e : EngRef} {rd : Reg} {num : BitVec 5} (e : execSysr e rd num s = .next t) : But 0x4004008022 s t := by
  have h := But.self 0x4004008022 s
  have kw := Within.self 0x4004008022
  cases e; exact (but_runWord (kw.le rfl) h)

theorem but_execAddi {s t : State} {e : EngRef} {rd : Reg} {ra : Reg} {imm : BitVec 16} (e : execAddi e rd ra imm s = .next t) : But 0x4004008022 s t := by
  have h := But.self 0x4004008022 s
  have kw := Within.self 0x4004008022
  cases e; exact (but_runAlu (kw.le rfl) h)

theorem but_execAndi {s t : State} {e : EngRef} {rd : Reg} {ra : Reg} {imm : BitVec 16} (e : execAndi e rd ra imm s = .next t) : But 0x4004008022 s t := by
  have h := But.self 0x4004008022 s
  have kw := Within.self 0x4004008022
  cases e; exact (but_runAlu (kw.le rfl) h)

theorem but_execOri {s t : State} {e : EngRef} {rd : Reg} {ra : Reg} {imm : BitVec 16} (e : execOri e rd ra imm s = .next t) : But 0x4004008022 s t := by
  have h := But.self 0x4004008022 s
  have kw := Within.self 0x4004008022
  cases e; exact (but_runAlu (kw.le rfl) h)

theorem but_execXori {s t : State} {e : EngRef} {rd : Reg} {ra : Reg} {imm : BitVec 16} (e : execXori e rd ra imm s = .next t) : But 0x4004008022 s t := by
  have h := But.self 0x4004008022 s
  have kw := Within.self 0x4004008022
  cases e; exact (but_runAlu (kw.le rfl) h)

theorem but_execSlti {s t : State} {e : EngRef} {rd : Reg} {ra : Reg} {imm : BitVec 16} (e : execSlti e rd ra imm s = .next t) : But 0x4004008022 s t := by
  have h := But.self 0x4004008022 s
  have kw := Within.self 0x4004008022
  cases e; exact (but_runAlu (kw.le rfl) h)

theorem but_execLui {s t : State} {e : EngRef} {rd : Reg} {imm : BitVec 16} (e : execLui e rd imm s = .next t) : But 0x4004008022 s t := by
  have h := But.self 0x4004008022 s
  have kw := Within.self 0x4004008022
  cases e; exact (but_runAlu (kw.le rfl) h)

theorem but_execShli {s t : State} {e : EngRef} {rd : Reg} {ra : Reg} {sh : BitVec 5} (e : execShli e rd ra sh s = .next t) : But 0x4004008022 s t := by
  have h := But.self 0x4004008022 s
  have kw := Within.self 0x4004008022
  cases e; exact (but_runAlu (kw.le rfl) h)

theorem but_execShri {s t : State} {e : EngRef} {rd : Reg} {ra : Reg} {sh : BitVec 5} (e : execShri e rd ra sh s = .next t) : But 0x4004008022 s t := by
  have h := But.self 0x4004008022 s
  have kw := Within.self 0x4004008022
  cases e; exact (but_runAlu (kw.le rfl) h)

theorem but_execSari {s t : State} {e : EngRef} {rd : Reg} {ra : Reg} {sh : BitVec 5} (e : execSari e rd ra sh s = .next t) : But 0x4004008022 s t := by
  have h := But.self 0x4004008022 s
  have kw := Within.self 0x4004008022
  cases e; exact (but_runAlu (kw.le rfl) h)

theorem but_engineFault {W : Nat} {s0 s : State} {e : EngRef} {cause : ℕ} (kw : Within 0x4004008022 W) (h : But W s0 s) : But W s0 (engineFault e cause s) := by
  unfold engineFault; exact (but_ite (but_engineX (kw.le rfl) h) h)

theorem but_execEngineStall {s t : State} {e : EngRef} (e : execEngineStall e s = .next t) : But 0x4004008022 s t := by
  have h := But.self 0x4004008022 s
  have kw := Within.self 0x4004008022
  cases e; exact (but_engineFault (kw.le rfl) h)

theorem but_execCtxEcc {s t : State} {e : EngRef} (e : execCtxEcc e s = .next t) : But 0x4004008022 s t := by
  have h := But.self 0x4004008022 s
  have kw := Within.self 0x4004008022
  cases e; exact (but_engineFault (kw.le rfl) h)

theorem but_retireCmd {W : Nat} {s0 s : State} {c : Fin 6} {eng : BitVec 5} (kw : Within 0x20 W) (h : But W s0 s) : But W s0 (retireCmd c eng s) := by
  unfold retireCmd; exact (but_dite (fun _ => (but_ite h (but_ite (but_updCrest (kw.le rfl) h) (but_updCrest (kw.le rfl) h)))) (fun _ => (but_updCrest (kw.le rfl) h)))

theorem but_execEngRetire {s t : State} {q : Req} {c : Fin 6} {eng : BitVec 5} (e : execEngRetire q c eng s = .next t) : But 0x3000000022 s t := by
  have h := But.self 0x3000000022 s
  have kw := Within.self 0x3000000022
  cases e; exact (but_onPage (kw.le rfl) (fun _ h1 => (but_retireCmd (kw.le rfl) h1)) h)

theorem but_execEngEccClrCorr {s t : State} {q : Req} {c : Fin 6} (e : execEngEccClrCorr q c s = .next t) : But 0x3000000022 s t := by
  have h := But.self 0x3000000022 s
  have kw := Within.self 0x3000000022
  cases e; exact (but_onPage (kw.le rfl) (fun _ h1 => (but_updCrest (kw.le rfl) h1)) h)

theorem but_execEngEccClrUnc {s t : State} {q : Req} {c : Fin 6} (e : execEngEccClrUnc q c s = .next t) : But 0x3000000022 s t := by
  have h := But.self 0x3000000022 s
  have kw := Within.self 0x3000000022
  cases e; exact (but_onPage (kw.le rfl) (fun _ h1 => (but_updCrest (kw.le rfl) h1)) h)

theorem but_quietTest {W : Nat} {s0 s : State} {c : Fin 6} {pass : Bool} (kw : Within 0x4004008022 W) (h : But W s0 s) : But W s0 (quietTest c pass s) := by
  unfold quietTest; exact (but_ite h (by (try dsimp only); split; exacts [h, (but_ite (but_updCrest (kw.le rfl) h) (but_engineFault (kw.le rfl) (but_updCrest (kw.le rfl) h)))]))

theorem but_execStewardQuietTest {s t : State} {c : Fin 6} {pass : Bool} (e : execStewardQuietTest c pass s = .next t) : But 0x4004008022 s t := by
  have h := But.self 0x4004008022 s
  have kw := Within.self 0x4004008022
  cases e; exact (but_quietTest (kw.le rfl) h)

theorem but_execSpareTest {s t : State} {c : Fin 6} {eng : Fin 18} {pass : Bool} (e : execSpareTest c eng pass s = .next t) : But 0x4004008022 s t := by
  have h := But.self 0x4004008022 s
  have kw := Within.self 0x4004008022
  cases e; exact (but_ite h (but_engineFault (kw.le rfl) h))

theorem but_mk_pwr {W : Nat} {s0 x : State} {pwr'} (kw : Within 0x200000000 W) (h : But W s0 x) :
    But W s0 (State.mk x.part x.hdrs x.latches x.heldLow x.tb x.crests x.hub x.flitFails x.packets x.nextPacket x.opened x.pool x.sram x.staged x.sched x.run x.trio x.safety x.field x.panel x.ports x.cans x.uarts x.super x.mail x.host x.recorder x.historian x.otp x.store x.flash x.sec x.upd pwr' x.forceInd x.tapReset x.resp x.out x.free x.pending) :=
  h.put kw fun c hc => by cases c <;> first | rfl | exact absurd hc (by decide)

theorem but_pmbusFail {W : Nat} {s0 s : State} (kw : Within 0x4204000002 W) (h : But W s0 s) : But W s0 (pmbusFail s) := by
  unfold pmbusFail; exact (but_ite h (but_raise (kw.le rfl) (but_mk_pwr (kw.le rfl) h)))

theorem but_writeVout {W : Nat} {s0 s : State} {mv : BitVec 10} {ack : Bool} (kw : Within 0x6204000002 W) (h : But W s0 s) : But W s0 (writeVout mv ack s) := by
  unfold writeVout; exact (but_ite h (but_ite (but_pmbusFail (kw.le rfl) h) (but_send (kw.le rfl) (but_mk_pwr (kw.le rfl) h))))

theorem but_commandVcore {W : Nat} {s0 s : State} {mv : BitVec 10} {ack : Bool} (kw : Within 0x6204000002 W) (h : But W s0 s) : But W s0 (commandVcore mv ack s) := by
  unfold commandVcore; exact (but_ite (but_writeVout (kw.le rfl) h) (but_raise (kw.le rfl) (but_writeVout (kw.le rfl) h)))

theorem but_adaptVcore {W : Nat} {s0 s : State} {ack : Bool} (kw : Within 0x6204000002 W) (h : But W s0 s) : But W s0 (adaptVcore ack s) := by
  unfold adaptVcore; exact (but_ite h (but_ite (but_ite (but_commandVcore (kw.le rfl) (but_mk_pwr (kw.le rfl) h)) (but_mk_pwr (kw.le rfl) (but_commandVcore (kw.le rfl) (but_mk_pwr (kw.le rfl) h)))) (but_ite (but_ite (but_commandVcore (kw.le rfl) (but_mk_pwr (kw.le rfl) h)) (but_mk_pwr (kw.le rfl) (but_commandVcore (kw.le rfl) (but_mk_pwr (kw.le rfl) h)))) (but_mk_pwr (kw.le rfl) h))))

theorem but_tileMeasured {W : Nat} {s0 s : State} {c : Fin 6} {r : Vec (BitVec 12) 8} (kw : Within 0x4004a7c822 W) (h : But W s0 s) : But W s0 (tileMeasured c r s) := by
  unfold tileMeasured; exact (but_ite h (but_ite (but_failSelfTest (kw.le rfl) (but_noteConds (kw.le rfl) (but_ite (but_urgent (kw.le rfl) (but_updCrest (kw.le rfl) h)) (but_updCrest (kw.le rfl) h)))) (but_noteConds (kw.le rfl) (but_ite (but_urgent (kw.le rfl) (but_updCrest (kw.le rfl) h)) (but_updCrest (kw.le rfl) h)))))

theorem but_speedMeasured {W : Nat} {s0 s : State} {c : Fin 6} {r : Vec (BitVec 12) 8} {ack : Bool} (kw : Within 0x6204a7c822 W) (h : But W s0 s) : But W s0 (speedMeasured c r ack s) := by
  unfold speedMeasured; exact (but_ite (but_adaptVcore (kw.le rfl) (but_tileMeasured (kw.le rfl) h)) (but_tileMeasured (kw.le rfl) h))

theorem but_execSpeedMeasureEnd {s t : State} {c : Fin 6} {readings : Vec (BitVec 12) 8} {ack : Bool} (e : execSpeedMeasureEnd c readings ack s = .next t) : But 0x6204a7c822 s t := by
  have h := But.self 0x6204a7c822 s
  have kw := Within.self 0x6204a7c822
  cases e; exact (but_speedMeasured (kw.le rfl) h)

theorem but_countCorrected {W : Nat} {s0 s : State} {c : Fin 6} (kw : Within 0x4004000022 W) (h : But W s0 s) : But W s0 (countCorrected c s) := by
  unfold countCorrected; exact (but_ite (but_raise (kw.le rfl) (but_bump (kw.le rfl) (but_updCrest (kw.le rfl) h))) (but_bump (kw.le rfl) (but_updCrest (kw.le rfl) h)))

theorem but_countUncorrectable {W : Nat} {s0 s : State} {c : Fin 6} {a : ℕ} (kw : Within 0x4004800022 W) (h : But W s0 s) : But W s0 (countUncorrectable c a s) := by
  unfold countUncorrectable; exact (but_raiseUrgent (kw.le rfl) (but_updCrest (kw.le rfl) h))

theorem but_upset {W : Nat} {s0 s : State} {u : Upset} (kw : Within 0x20 W) (h : But W s0 s) : But W s0 (upset s u) := by
  unfold upset; exact (but_ite (by (try dsimp only); split; exacts [(but_updCrest (kw.le rfl) h), h]) (by (try dsimp only); split; exacts [(but_updCrest (kw.le rfl) h), h]))

theorem but_correctWord {W : Nat} {s0 s : State} {x : Fin 6 × ℕ} (kw : Within 0x4004000022 W) (h : But W s0 s) : But W s0 (correctWord s x) := by
  unfold correctWord; exact (but_countCorrected (kw.le rfl) (but_updCrest (kw.le rfl) h))

theorem but_correctIn {W : Nat} {s0 s : State} {a : ℕ} {n : ℕ} (kw : Within 0x4004000022 W) (h : But W s0 s) : But W s0 (correctIn a n s) := by
  unfold correctIn; exact (but_foldl (fun _ _ h1 => (but_correctWord (kw.le rfl) h1)) h)

theorem but_countBad {W : Nat} {s0 s : State} {a : ℕ} {n : ℕ} (kw : Within 0x4004800022 W) (h : But W s0 s) : But W s0 (countBad a n s) := by
  unfold countBad; exact (but_foldl (fun _ _ h1 => (but_countUncorrectable (kw.le rfl) h1)) h)

theorem but_foundBad {W : Nat} {s0 s : State} {bs : List (Fin 6 × ℕ)} (kw : Within 0x4004800022 W) (h : But W s0 s) : But W s0 (foundBad bs s) := by
  unfold foundBad; exact (but_foldl (fun _ _ h1 => (but_updCrest (kw.le rfl) (but_countUncorrectable (kw.le rfl) h1))) h)

theorem but_scanPool {W : Nat} {s0 s : State} {a : ℕ} {n : ℕ} (kw : Within 0x4004800022 W) (h : But W s0 s) : But W s0 (scanPool a n s) := by
  unfold scanPool; exact (but_foundBad (kw.le rfl) (but_correctIn (kw.le rfl) h))

theorem but_mk_crests_pool {W : Nat} {s0 x : State} {crests' pool'} (kw : Within 0x820 W) (h : But W s0 x) :
    But W s0 (State.mk x.part x.hdrs x.latches x.heldLow x.tb crests' x.hub x.flitFails x.packets x.nextPacket x.opened pool' x.sram x.staged x.sched x.run x.trio x.safety x.field x.panel x.ports x.cans x.uarts x.super x.mail x.host x.recorder x.historian x.otp x.store x.flash x.sec x.upd x.pwr x.forceInd x.tapReset x.resp x.out x.free x.pending) :=
  h.put kw fun c hc => by cases c <;> first | rfl | exact absurd hc (by decide)

theorem but_poolPut {W : Nat} {s0 s : State} {a : ℕ} {d : List Byte} (kw : Within 0x820 W) (h : But W s0 s) : But W s0 (poolPut a d s) := by
  unfold poolPut; exact (but_mk_crests_pool (kw.le rfl) h)

theorem but_correctLoop {W : Nat} {s0 s : State} {c : Fin 6} {off : ℕ} {n : ℕ} (kw : Within 0x20 W) (h : But W s0 s) : But W s0 (correctLoop c off n s) := by
  unfold correctLoop; exact (but_updCrest (kw.le rfl) h)

theorem but_scanSpan {W : Nat} {s0 s : State} {a : Word} {n : ℕ} (kw : Within 0x4004800022 W) (h : But W s0 s) : But W s0 (scanSpan a n s) := by
  unfold scanSpan; exact (but_foundBad (kw.le rfl) (but_ite (but_correctIn (kw.le rfl) h) (but_elim h (fun _ => (but_correctLoop (kw.le rfl) h)))))

theorem but_loopWritten {W : Nat} {s0 s : State} {c : Fin 6} {off : ℕ} {n : ℕ} (kw : Within 0x20 W) (h : But W s0 s) : But W s0 (loopWritten c off n s) := by
  unfold loopWritten; exact (but_updCrest (kw.le rfl) h)

theorem but_loopPut {W : Nat} {s0 s : State} {c : Fin 6} {off : ℕ} {d : List Byte} (kw : Within 0x20 W) (h : But W s0 s) : But W s0 (loopPut c off d s) := by
  unfold loopPut; exact (but_loopWritten (kw.le rfl) (but_updLoop (kw.le rfl) h))

theorem but_scrubFinds {W : Nat} {s0 s : State} {addr : Word} {found : EccFinding} (kw : Within 0x20 W) (h : But W s0 s) : But W s0 (scrubFinds addr found s) := by
  unfold scrubFinds; exact (by (try dsimp only); split; exacts [h, (but_ite (but_upset (kw.le rfl) h) h), (but_upset (kw.le rfl) h)])

theorem but_scrub {W : Nat} {s0 s : State} {addr : Word} {found : EccFinding} (kw : Within 0x4004800822 W) (h : But W s0 s) : But W s0 (scrub addr found s) := by
  unfold scrub; exact (by (try dsimp only); split; exacts [h, (but_ite h (but_ite (but_correctIn (kw.le rfl) (but_scrubFinds (kw.le rfl) h)) (but_ite (but_foundBad (kw.le rfl) (but_correctIn (kw.le rfl) (but_scrubFinds (kw.le rfl) h))) (but_poolPut (kw.le rfl) (but_countBad (kw.le rfl) (but_correctIn (kw.le rfl) (but_scrubFinds (kw.le rfl) h)))))))])

theorem but_execScrubWord {s t : State} {addr : Word} {found : EccFinding} (e : execScrubWord addr found s = .next t) : But 0x4004800822 s t := by
  have h := But.self 0x4004800822 s
  have kw := Within.self 0x4004800822
  cases e; exact (but_scrub (kw.le rfl) h)

theorem but_mk_tb {W : Nat} {s0 x : State} {tb'} (kw : Within 0x10 W) (h : But W s0 x) :
    But W s0 (State.mk x.part x.hdrs x.latches x.heldLow tb' x.crests x.hub x.flitFails x.packets x.nextPacket x.opened x.pool x.sram x.staged x.sched x.run x.trio x.safety x.field x.panel x.ports x.cans x.uarts x.super x.mail x.host x.recorder x.historian x.otp x.store x.flash x.sec x.upd x.pwr x.forceInd x.tapReset x.resp x.out x.free x.pending) :=
  h.put kw fun c hc => by cases c <;> first | rfl | exact absurd hc (by decide)

theorem but_updTb {W : Nat} {s0 s : State} {f : Timebase → Timebase} (kw : Within 0x10 W) (h : But W s0 s) : But W s0 (updTb f s) := by
  unfold updTb; exact (but_mk_tb (kw.le rfl) h)

theorem but_markSecond {W : Nat} {s0 s : State} {n : Fin 2} (kw : Within 0x10 W) (h : But W s0 s) : But W s0 (markSecond n s) := by
  unfold markSecond; exact (but_updTb (kw.le rfl) h)

theorem but_markLower {W : Nat} {s0 s : State} (kw : Within 0x10 W) (h : But W s0 s) : But W s0 (markLower s) := by
  unfold markLower; exact (but_foldl (fun _ _ h1 => (but_ite (but_markSecond (kw.le rfl) h1) h1)) h)

theorem but_commitOffset {W : Nat} {s0 s : State} (kw : Within 0x4004000012 W) (h : But W s0 s) : But W s0 (commitOffset s) := by
  unfold commitOffset; exact (by (try dsimp only); split; exacts [h, (but_ite (but_markLower (kw.le rfl) (but_raise (kw.le rfl) (but_updTb (kw.le rfl) h))) (but_updTb (kw.le rfl) h))])

theorem but_countSelected {W : Nat} {s0 s : State} {n : ℕ} (kw : Within 0x2 W) (h : But W s0 s) : But W s0 (countSelected n s) := by
  unfold countSelected; exact (but_ite h (but_mk_hdrs (kw.le rfl) h))

theorem but_countOn {W : Nat} {s0 s : State} {n : ℕ} (kw : Within 0x12 W) (h : But W s0 s) : But W s0 (countOn n s) := by
  unfold countOn; exact (but_countSelected (kw.le rfl) (but_updTb (kw.le rfl) h))

theorem but_runTicks {W : Nat} {s0 s : State} {n : ℕ} (kw : Within 0x4004000012 W) (h : But W s0 s) : But W s0 (runTicks n s) := by
  unfold runTicks; exact (but_ite h (but_countOn (kw.le rfl) (but_commitOffset (kw.le rfl) (but_countOn (kw.le rfl) (but_updTb (kw.le rfl) h)))))

theorem but_fireShot {W : Nat} {s0 s : State} (kw : Within 0x4004000012 W) (h : But W s0 s) : But W s0 (fireShot s) := by
  unfold fireShot; exact (by (try dsimp only); split; exacts [h, (but_raise (kw.le rfl) (but_updTb (kw.le rfl) h))])

theorem but_passTicks {W : Nat} {s0 s : State} {n : ℕ} (kw : Within 0x4004000012 W) (h : But W s0 s) : But W s0 (passTicks n s) := by
  unfold passTicks; exact (by (try dsimp only); split; exacts [(but_runTicks (kw.le rfl) h), (but_ite (but_runTicks (kw.le rfl) (but_fireShot (kw.le rfl) (but_runTicks (kw.le rfl) h))) (but_runTicks (kw.le rfl) h))])

theorem but_reach {W : Nat} {s0 s : State} {t : ℕ} (kw : Within 0x4004000012 W) (h : But W s0 s) : But W s0 (reach t s) := by
  unfold reach; exact (but_passTicks (kw.le rfl) h)

theorem but_reachNative {W : Nat} {s0 s : State} {t : ℕ} (kw : Within 0x4004000012 W) (h : But W s0 s) : But W s0 (reachNative t s) := by
  unfold reachNative; exact (but_passTicks (kw.le rfl) h)

theorem but_reachLocal {W : Nat} {s0 s : State} {t : ℕ} (kw : Within 0x4004000012 W) (h : But W s0 s) : But W s0 (reachLocal t s) := by
  unfold reachLocal; exact (but_passTicks (kw.le rfl) h)

theorem but_tbCode {W : Nat} {s0 s : State} {c : Byte} (kw : Within 0x10 W) (h : But W s0 s) : But W s0 (tbCode c s) := by
  unfold tbCode; exact (but_updTb (kw.le rfl) h)

theorem but_writeIncrLo {W : Nat} {s0 s : State} {w : Requester} {v : Word} (kw : Within 0x18 W) (h : But W s0 s) : But W s0 (writeIncrLo w v s) := by
  unfold writeIncrLo; exact (but_tbCode (kw.le rfl) (but_holdLow (kw.le rfl) h))

theorem but_writeIncrHi {W : Nat} {s0 s : State} {who : Requester} {v : Word} (kw : Within 0x18 W) (h : But W s0 s) : But W s0 (writeIncrHi who v s) := by
  unfold writeIncrHi; exact (by (try dsimp only [commit64]); exact (but_ite (but_tbCode (kw.le rfl) (but_updTb (kw.le rfl) (but_mk_heldLow (kw.le rfl) h))) (but_tbCode (kw.le rfl) (but_mk_heldLow (kw.le rfl) h))))

theorem but_writeOffsetHi {W : Nat} {s0 s : State} {w : Requester} {v : Word} (kw : Within 0x18 W) (h : But W s0 s) : But W s0 (writeOffsetHi w v s) := by
  unfold writeOffsetHi; exact (by (try dsimp only [commit64]); exact (but_ite (but_tbCode (kw.le rfl) (but_mk_heldLow (kw.le rfl) h)) (but_tbCode (kw.le rfl) (but_updTb (kw.le rfl) (but_mk_heldLow (kw.le rfl) h)))))

theorem but_readNow {W : Nat} {s0 s : State} {w : Requester} (kw : Within 0x1000000004 W) (h : But W s0 s) : But W s0 (readNow w s) := by
  unfold readNow; exact (but_answer (kw.le rfl) (but_latchPut (kw.le rfl) (but_latchPut (kw.le rfl) (but_latchPut (kw.le rfl) (but_latchPut (kw.le rfl) (but_latchPut (kw.le rfl) h))))))

theorem but_readGcnt {W : Nat} {s0 s : State} {w : Requester} (kw : Within 0x1000000004 W) (h : But W s0 s) : But W s0 (readGcnt w s) := by
  unfold readGcnt; exact (but_answer (kw.le rfl) (but_latchPut (kw.le rfl) h))

theorem but_cmdStep {W : Nat} {s0 s : State} (kw : Within 0x10 W) (h : But W s0 s) : But W s0 (cmdStep s) := by
  unfold cmdStep; exact (but_ite (but_tbCode (kw.le rfl) h) (but_ite (but_tbCode (kw.le rfl) h) (but_ite (but_tbCode (kw.le rfl) h) (but_tbCode (kw.le rfl) (but_updTb (kw.le rfl) h)))))

theorem but_applyStep {W : Nat} {s0 s : State} (kw : Within 0x4004040012 W) (h : But W s0 s) : But W s0 (applyStep s) := by
  unfold applyStep; exact (by (try dsimp only); split; exacts [h, (but_ite (but_fireShot (kw.le rfl) (but_updField (kw.le rfl) (but_updTb (kw.le rfl) (but_raise (kw.le rfl) h)))) (but_updField (kw.le rfl) (but_updTb (kw.le rfl) (but_raise (kw.le rfl) h))))])

theorem but_stepNow {W : Nat} {s0 s : State} (kw : Within 0x4004040012 W) (h : But W s0 s) : But W s0 (stepNow s) := by
  unfold stepNow; exact (but_ite h (but_applyStep (kw.le rfl) h))

theorem but_shotInstant {W : Nat} {s0 s : State} (kw : Within 0x4004000012 W) (h : But W s0 s) : But W s0 (shotInstant s) := by
  unfold shotInstant; exact (by (try dsimp only); split; exacts [h, (but_ite (but_fireShot (kw.le rfl) (but_reachNative (kw.le rfl) h)) (but_reachNative (kw.le rfl) h))])

theorem but_cmdGulny {W : Nat} {s0 s : State} (kw : Within 0x10 W) (h : But W s0 s) : But W s0 (cmdGulny s) := by
  unfold cmdGulny; exact (but_ite (but_tbCode (kw.le rfl) h) (but_tbCode (kw.le rfl) (but_updTb (kw.le rfl) h)))

theorem but_cmdShot {W : Nat} {s0 s : State} {o : Fin 2} (kw : Within 0x10 W) (h : But W s0 s) : But W s0 (cmdShot o s) := by
  unfold cmdShot; exact (but_ite (but_tbCode (kw.le rfl) h) (but_ite (but_tbCode (kw.le rfl) h) (but_ite (but_tbCode (kw.le rfl) h) (but_tbCode (kw.le rfl) (but_updTb (kw.le rfl) h)))))

theorem but_ppsCapture {W : Nat} {s0 s : State} {n : Fin 2} {falling : Bool} {short : Bool} (kw : Within 0x4004000012 W) (h : But W s0 s) : But W s0 (ppsCapture n falling short s) := by
  unfold ppsCapture; exact (but_ite (but_raise (kw.le rfl) (but_bump (kw.le rfl) (but_updTb (kw.le rfl) h))) h)

theorem but_ppsEdge {W : Nat} {s0 s : State} {n : Fin 2} (kw : Within 0x4004000012 W) (h : But W s0 s) : But W s0 (ppsEdge n s) := by
  unfold ppsEdge; exact (but_ite h (but_ite (but_updTb (kw.le rfl) (but_markSecond (kw.le rfl) (but_passTicks (kw.le rfl) h))) (but_markSecond (kw.le rfl) (but_passTicks (kw.le rfl) h))))

theorem but_ppsFall {W : Nat} {s0 s : State} {n : Fin 2} (kw : Within 0x4004000012 W) (h : But W s0 s) : But W s0 (ppsFall n s) := by
  unfold ppsFall; exact (but_ite h (but_updTb (kw.le rfl) (but_passTicks (kw.le rfl) h)))

theorem but_writePpsOut {W : Nat} {s0 s : State} {v : Word} (kw : Within 0x10 W) (h : But W s0 s) : But W s0 (writePpsOut v s) := by
  unfold writePpsOut; exact (but_foldl (fun _ _ h1 => (but_markSecond (kw.le rfl) h1)) (but_updTb (kw.le rfl) h))

theorem but_writeGcntIncr {W : Nat} {s0 s : State} {v : Word} (kw : Within 0x10 W) (h : But W s0 s) : But W s0 (writeGcntIncr v s) := by
  unfold writeGcntIncr; exact (but_ite (but_tbCode (kw.le rfl) (but_updTb (kw.le rfl) h)) (but_tbCode (kw.le rfl) h))

theorem but_execTbIncrLoWrite {s t : State} {q : Req} {val : Word} (e : execTbIncrLoWrite q val s = .next t) : But 0x300000001a s t := by
  have h := But.self 0x300000001a s
  have kw := Within.self 0x300000001a
  cases e; exact (but_onPage (kw.le rfl) (fun _ h1 => (but_writeIncrLo (kw.le rfl) h1)) h)

theorem but_execTbIncrHiWrite {s t : State} {q : Req} {val : Word} (e : execTbIncrHiWrite q val s = .next t) : But 0x300000001a s t := by
  have h := But.self 0x300000001a s
  have kw := Within.self 0x300000001a
  cases e; exact (but_onPage (kw.le rfl) (fun _ h1 => (but_writeIncrHi (kw.le rfl) h1)) h)

theorem but_execTbNowRead {s t : State} {q : Req} (e : execTbNowRead q s = .next t) : But 0x3000000006 s t := by
  have h := But.self 0x3000000006 s
  have kw := Within.self 0x3000000006
  cases e; exact (but_onPage (kw.le rfl) (fun _ h1 => (but_readNow (kw.le rfl) h1)) h)

theorem but_execTbOffsetHiWrite {s t : State} {q : Req} {val : Word} (e : execTbOffsetHiWrite q val s = .next t) : But 0x300000001a s t := by
  have h := But.self 0x300000001a s
  have kw := Within.self 0x300000001a
  cases e; exact (but_onPage (kw.le rfl) (fun _ h1 => (but_writeOffsetHi (kw.le rfl) h1)) h)

theorem but_execTbStep {s t : State} {q : Req} (e : execTbStep q s = .next t) : But 0x3000000012 s t := by
  have h := But.self 0x3000000012 s
  have kw := Within.self 0x3000000012
  cases e; exact (but_onPage (kw.le rfl) (fun _ h1 => (but_cmdStep (kw.le rfl) h1)) h)

theorem but_execTbStepApply {s t : State} (e : execTbStepApply s = .next t) : But 0x4004040012 s t := by
  have h := But.self 0x4004040012 s
  have kw := Within.self 0x4004040012
  cases e; exact (but_stepNow (kw.le rfl) h)

theorem but_execGulnyLoad {s t : State} {q : Req} (e : execGulnyLoad q s = .next t) : But 0x3000000012 s t := by
  have h := But.self 0x3000000012 s
  have kw := Within.self 0x3000000012
  cases e; exact (but_onPage (kw.le rfl) (fun _ h1 => (but_cmdGulny (kw.le rfl) h1)) h)

theorem but_execOneshot {s t : State} {q : Req} {out : Fin 2} (e : execOneshot q out s = .next t) : But 0x3000000012 s t := by
  have h := But.self 0x3000000012 s
  have kw := Within.self 0x3000000012
  cases e; exact (but_onPage (kw.le rfl) (fun _ h1 => (but_cmdShot (kw.le rfl) h1)) h)

theorem but_execOneshotFire {s t : State} (e : execOneshotFire s = .next t) : But 0x4004000012 s t := by
  have h := But.self 0x4004000012 s
  have kw := Within.self 0x4004000012
  cases e; exact (but_shotInstant (kw.le rfl) h)

theorem but_execTbGcntRead {s t : State} {q : Req} (e : execTbGcntRead q s = .next t) : But 0x3000000006 s t := by
  have h := But.self 0x3000000006 s
  have kw := Within.self 0x3000000006
  cases e; exact (but_onPage (kw.le rfl) (fun _ h1 => (but_readGcnt (kw.le rfl) h1)) h)

theorem but_execPpsInCapture {s t : State} {n : Fin 2} {falling : Bool} {short : Bool} (e : execPpsInCapture n falling short s = .next t) : But 0x4004000012 s t := by
  have h := But.self 0x4004000012 s
  have kw := Within.self 0x4004000012
  cases e; exact (but_ppsCapture (kw.le rfl) h)

theorem but_execPpsOutEdge {s t : State} {n : Fin 2} (e : execPpsOutEdge n s = .next t) : But 0x4004000012 s t := by
  have h := But.self 0x4004000012 s
  have kw := Within.self 0x4004000012
  cases e; exact (but_ppsEdge (kw.le rfl) h)

theorem but_execPpsOutPulseEnd {s t : State} {n : Fin 2} (e : execPpsOutPulseEnd n s = .next t) : But 0x4004000012 s t := by
  have h := But.self 0x4004000012 s
  have kw := Within.self 0x4004000012
  cases e; exact (but_ppsFall (kw.le rfl) h)

theorem but_takeParams {W : Nat} {s0 s : State} {c : Fin 6} {l : BitVec 10} {ws : List Word} (kw : Within 0x20 W) (h : But W s0 s) : But W s0 (takeParams c l ws s) := by
  unfold takeParams; exact (but_loopWritten (kw.le rfl) (but_updLoop (kw.le rfl) h))

theorem but_writeDone {W : Nat} {s0 s : State} {c : Fin 6} (kw : Within 0x4004000002 W) (h : But W s0 s) : But W s0 (writeDone c s) := by
  unfold writeDone; exact (but_raise (kw.le rfl) (but_bump (kw.le rfl) h))

theorem but_decideWrite {W : Nat} {s0 s : State} {c : Fin 6} (kw : Within 0x4004000022 W) (h : But W s0 s) : But W s0 (decideWrite c s) := by
  unfold decideWrite; exact (by (try dsimp only); split; exacts [h, (but_writeDone (kw.le rfl) (but_ite (but_takeParams (kw.le rfl) (but_updLoop (kw.le rfl) h)) (but_updLoop (kw.le rfl) h)))])

theorem but_checkRecords {W : Nat} {s0 s : State} {c : Fin 6} {ls : List (BitVec 10)} (kw : Within 0x4004800022 W) (h : But W s0 s) : But W s0 (checkRecords c ls s) := by
  unfold checkRecords; exact (but_foundBad (kw.le rfl) (but_foldl (fun _ _ h1 => (but_correctLoop (kw.le rfl) h1)) h))

theorem but_runLoopEntry {W : Nat} {s0 s : State} {c : Fin 6} {l : BitVec 10} {again : Bool} (kw : Within 0x4004800022 W) (h : But W s0 s) : But W s0 (runLoopEntry c l again s) := by
  unfold runLoopEntry; exact (by (try dsimp only); split; exacts [h, (but_ite h (but_ite (but_checkRecords (kw.le rfl) h) (but_foldl (fun _ _ h1 => (but_ite (but_raise (kw.le rfl) (but_ite (but_raise (kw.le rfl) (but_bump (kw.le rfl) (but_updLoop (kw.le rfl) h1))) (but_bump (kw.le rfl) (but_updLoop (kw.le rfl) h1)))) (but_ite (but_raise (kw.le rfl) (but_bump (kw.le rfl) (but_updLoop (kw.le rfl) h1))) (but_bump (kw.le rfl) (but_updLoop (kw.le rfl) h1))))) (but_bump (kw.le rfl) (but_bump (kw.le rfl) (but_noteConds (kw.le rfl) (but_updLoop (kw.le rfl) (but_updLoop (kw.le rfl) (but_ite (but_decideWrite (kw.le rfl) (but_checkRecords (kw.le rfl) h)) (but_checkRecords (kw.le rfl) h))))))))))])

theorem but_cmdLpaWrite {W : Nat} {s0 s : State} {q : Req} {c : Fin 6} (kw : Within 0x4004000022 W) (h : But W s0 s) : But W s0 (cmdLpaWrite q c s) := by
  unfold cmdLpaWrite; exact (but_ite (but_updLoop (kw.le rfl) h) (but_ite (but_writeDone (kw.le rfl) (but_updLoop (kw.le rfl) h)) (but_ite (but_writeDone (kw.le rfl) (but_updLoop (kw.le rfl) h)) (but_updLoop (kw.le rfl) h))))

theorem but_cmdLpaRead {W : Nat} {s0 s : State} {c : Fin 6} (kw : Within 0x20 W) (h : But W s0 s) : But W s0 (cmdLpaRead c s) := by
  unfold cmdLpaRead; exact (but_updLoop (kw.le rfl) h)

theorem but_cmdTrcArm {W : Nat} {s0 s : State} {c : Fin 6} (kw : Within 0x20 W) (h : But W s0 s) : But W s0 (cmdTrcArm c s) := by
  unfold cmdTrcArm; exact (but_updLoop (kw.le rfl) h)

theorem but_cmdTrcFire {W : Nat} {s0 s : State} {c : Fin 6} (kw : Within 0x4004000022 W) (h : But W s0 s) : But W s0 (cmdTrcFire c s) := by
  unfold cmdTrcFire; exact (but_ite (but_raise (kw.le rfl) (but_updLoop (kw.le rfl) h)) h)

theorem but_cmdTrcDisable {W : Nat} {s0 s : State} {c : Fin 6} (kw : Within 0x20 W) (h : But W s0 s) : But W s0 (cmdTrcDisable c s) := by
  unfold cmdTrcDisable; exact (but_updLoop (kw.le rfl) h)

theorem but_execLpaWrite {s t : State} {q : Req} {c : Fin 6} (e : execLpaWrite q c s = .next t) : But 0x7004000022 s t := by
  have h := But.self 0x7004000022 s
  have kw := Within.self 0x7004000022
  cases e; exact (but_onPage (kw.le rfl) (fun _ h1 => (but_cmdLpaWrite (kw.le rfl) h1)) h)

theorem but_execLpaWriteDecide {s t : State} {c : Fin 6} (e : execLpaWriteDecide c s = .next t) : But 0x4004000022 s t := by
  have h := But.self 0x4004000022 s
  have kw := Within.self 0x4004000022
  cases e; exact (but_ite (but_decideWrite (kw.le rfl) h) h)

theorem but_execLpaRead {s t : State} {q : Req} {c : Fin 6} (e : execLpaRead q c s = .next t) : But 0x3000000022 s t := by
  have h := But.self 0x3000000022 s
  have kw := Within.self 0x3000000022
  cases e; exact (but_onPage (kw.le rfl) (fun _ h1 => (but_cmdLpaRead (kw.le rfl) h1)) h)

theorem but_execTrcArm {s t : State} {q : Req} {c : Fin 6} (e : execTrcArm q c s = .next t) : But 0x3000000022 s t := by
  have h := But.self 0x3000000022 s
  have kw := Within.self 0x3000000022
  cases e; exact (but_onPage (kw.le rfl) (fun _ h1 => (but_cmdTrcArm (kw.le rfl) h1)) h)

theorem but_execTrcFire {s t : State} {q : Req} {c : Fin 6} (e : execTrcFire q c s = .next t) : But 0x7004000022 s t := by
  have h := But.self 0x7004000022 s
  have kw := Within.self 0x7004000022
  cases e; exact (but_onPage (kw.le rfl) (fun _ h1 => (but_cmdTrcFire (kw.le rfl) h1)) h)

theorem but_execTrcDisable {s t : State} {q : Req} {c : Fin 6} (e : execTrcDisable q c s = .next t) : But 0x3000000022 s t := by
  have h := But.self 0x3000000022 s
  have kw := Within.self 0x3000000022
  cases e; exact (but_onPage (kw.le rfl) (fun _ h1 => (but_cmdTrcDisable (kw.le rfl) h1)) h)

theorem but_mk_flash {W : Nat} {s0 x : State} {flash'} (kw : Within 0x40000000 W) (h : But W s0 x) :
    But W s0 (State.mk x.part x.hdrs x.latches x.heldLow x.tb x.crests x.hub x.flitFails x.packets x.nextPacket x.opened x.pool x.sram x.staged x.sched x.run x.trio x.safety x.field x.panel x.ports x.cans x.uarts x.super x.mail x.host x.recorder x.historian x.otp x.store flash' x.sec x.upd x.pwr x.forceInd x.tapReset x.resp x.out x.free x.pending) :=
  h.put kw fun c hc => by cases c <;> first | rfl | exact absurd hc (by decide)

theorem but_writeBoot {W : Nat} {s0 s : State} (kw : Within 0x40000000 W) (h : But W s0 s) : But W s0 (writeBoot s) := by
  unfold writeBoot; exact (but_mk_flash (kw.le rfl) h)

theorem but_readBoot {W : Nat} {s0 s : State} (kw : Within 0x40000000 W) (h : But W s0 s) : But W s0 (readBoot s) := by
  unfold readBoot; exact (by (try dsimp only); split; exacts [(but_mk_flash (kw.le rfl) h), h])

theorem but_writeStoreRec {W : Nat} {s0 s : State} (kw : Within 0x40000000 W) (h : But W s0 s) : But W s0 (writeStoreRec s) := by
  unfold writeStoreRec; exact (but_mk_flash (kw.le rfl) h)

theorem but_mk_store_flash {W : Nat} {s0 x : State} {store' flash'} (kw : Within 0x60000000 W) (h : But W s0 x) :
    But W s0 (State.mk x.part x.hdrs x.latches x.heldLow x.tb x.crests x.hub x.flitFails x.packets x.nextPacket x.opened x.pool x.sram x.staged x.sched x.run x.trio x.safety x.field x.panel x.ports x.cans x.uarts x.super x.mail x.host x.recorder x.historian x.otp store' flash' x.sec x.upd x.pwr x.forceInd x.tapReset x.resp x.out x.free x.pending) :=
  h.put kw fun c hc => by cases c <;> first | rfl | exact absurd hc (by decide)

theorem but_readStoreRec {W : Nat} {s0 s : State} (kw : Within 0x60000000 W) (h : But W s0 s) : But W s0 (readStoreRec s) := by
  unfold readStoreRec; exact (by (try dsimp only); split; exacts [(but_mk_store_flash (kw.le rfl) h), h])

theorem but_mk_store {W : Nat} {s0 x : State} {store'} (kw : Within 0x20000000 W) (h : But W s0 x) :
    But W s0 (State.mk x.part x.hdrs x.latches x.heldLow x.tb x.crests x.hub x.flitFails x.packets x.nextPacket x.opened x.pool x.sram x.staged x.sched x.run x.trio x.safety x.field x.panel x.ports x.cans x.uarts x.super x.mail x.host x.recorder x.historian x.otp store' x.flash x.sec x.upd x.pwr x.forceInd x.tapReset x.resp x.out x.free x.pending) :=
  h.put kw fun c hc => by cases c <;> first | rfl | exact absurd hc (by decide)

theorem but_updStore {W : Nat} {s0 s : State} {f : SecStore → SecStore} (kw : Within 0x60000000 W) (h : But W s0 s) : But W s0 (updStore f s) := by
  unfold updStore; exact (but_writeStoreRec (kw.le rfl) (but_mk_store (kw.le rfl) h))

theorem but_updOther {W : Nat} {s0 s : State} {f : FwSlot → FwSlot} (kw : Within 0x40000000 W) (h : But W s0 s) : But W s0 (updOther f s) := by
  unfold updOther; exact (but_mk_flash (kw.le rfl) h)

theorem but_updRunning {W : Nat} {s0 s : State} {f : FwSlot → FwSlot} (kw : Within 0x40000000 W) (h : But W s0 s) : But W s0 (updRunning f s) := by
  unfold updRunning; exact (but_mk_flash (kw.le rfl) h)

theorem but_updTrio {W : Nat} {s0 s : State} {f : Trio → Trio} (kw : Within 0x10000 W) (h : But W s0 s) : But W s0 (updTrio f s) := by
  unfold updTrio; exact (but_mk_trio (kw.le rfl) h)

theorem but_updLine {W : Nat} {s0 s : State} {p : TrioPort} {f : TrioLine → TrioLine} (kw : Within 0x10000 W) (h : But W s0 s) : But W s0 (updLine p f s) := by
  unfold updLine; exact (but_updTrio (kw.le rfl) h)

theorem but_sendTrio {W : Nat} {s0 s : State} {p : TrioPort} {f : TrioOut} {x : TrioPayload} (kw : Within 0x2000100002 W) (h : But W s0 s) : But W s0 (sendTrio p f x s) := by
  unfold sendTrio; exact (by (try dsimp only); split; exacts [h, (but_ite h (but_send (kw.le rfl) (but_bump (kw.le rfl) (but_updPort (kw.le rfl) h))))])

theorem but_departs {W : Nat} {s0 s : State} {p : TrioPort} {st : ℕ} {f : TrioOut} (kw : Within 0x2000110002 W) (h : But W s0 s) : But W s0 (departs p st f s) := by
  unfold departs; exact (but_sendTrio (kw.le rfl) (but_updLine (kw.le rfl) h))

theorem but_leaves {W : Nat} {s0 s : State} {p : TrioPort} {st : ℕ} {f : TrioOut} (kw : Within 0x2000110002 W) (h : But W s0 s) : But W s0 (leaves p st f s) := by
  unfold leaves; exact (by (try dsimp only); split; exacts [(but_updLine (kw.le rfl) h), (but_departs (kw.le rfl) (but_updLine (kw.le rfl) h))])

theorem but_drainPort {W : Nat} {s0 s : State} {now : Nat} {p : TrioPort} {n : Nat} (kk : Within 0x2000110002 W) (h : But W s0 s) : But W s0 (drainPort now p n s) := by
  induction n generalizing s with
  | zero => exact h
  | succ n ih =>
    unfold drainPort
    split
    · exact h
    · refine but_ite h ?_
      split
      · exact ih (but_leaves (kk.le rfl) h)
      · split
        · exact ih (but_leaves (kk.le rfl) h)
        · exact h

theorem but_drainTrio {W : Nat} {s0 s : State} (kw : Within 0x2000110002 W) (h : But W s0 s) : But W s0 (drainTrio s) := by
  unfold drainTrio; exact (but_drainPort (kw.le rfl) (but_drainPort (kw.le rfl) h))

theorem but_queueTrio {W : Nat} {s0 s : State} {p : TrioPort} {type : Byte} {target : Byte} {offset : ℕ} {len : ℕ} {scheduled : Bool} {x : TrioPayload} (kw : Within 0x10000 W) (h : But W s0 s) : But W s0 (queueTrio p type target offset len scheduled x s) := by
  unfold queueTrio; exact (but_updLine (kw.le rfl) h)

theorem but_queueBoth {W : Nat} {s0 s : State} {type : Byte} {target : Byte} {offset : ℕ} {len : ℕ} {scheduled : Bool} {x : TrioPayload} (kw : Within 0x10000 W) (h : But W s0 s) : But W s0 (queueBoth type target offset len scheduled x s) := by
  unfold queueBoth; exact (but_queueTrio (kw.le rfl) (but_queueTrio (kw.le rfl) h))

theorem but_queueCopy {W : Nat} {s0 s : State} {p : TrioPort} {m : Fin 3} {type : Byte} {addr : Word} {d : List Byte} (kw : Within 0x10000 W) (h : But W s0 s) : But W s0 (queueCopy p m type addr d s) := by
  unfold queueCopy; exact (but_foldl (fun _ _ h1 => (but_queueTrio (kw.le rfl) h1)) h)

theorem but_forwardBytes {W : Nat} {s0 s : State} {addr : Word} {d : List Byte} (kw : Within 0x2000110002 W) (h : But W s0 s) : But W s0 (forwardBytes addr d s) := by
  unfold forwardBytes; exact (by (try dsimp only); split; exacts [h, (but_dite (fun _ => (but_drainTrio (kw.le rfl) (but_queueCopy (kw.le rfl) h))) (fun _ => h))])

theorem but_forwardChanges {W : Nat} {s0 s : State} {was : State} (kw : Within 0x2000110002 W) (h : But W s0 s) : But W s0 (forwardChanges was s) := by
  unfold forwardChanges; exact (but_ite h (but_foldl (fun _ _ h1 => (but_forwardBytes (kw.le rfl) h1)) h))

theorem but_updSched {W : Nat} {s0 s : State} {f : Sched → Sched} (kw : Within 0x4000 W) (h : But W s0 s) : But W s0 (updSched f s) := by
  unfold updSched; exact (but_mk_sched (kw.le rfl) h)

theorem but_updRun {W : Nat} {s0 s : State} {f : RunCtl → RunCtl} (kw : Within 0x8000 W) (h : But W s0 s) : But W s0 (updRun f s) := by
  unfold updRun; exact (but_mk_run (kw.le rfl) h)

theorem but_schedRefuse {W : Nat} {s0 s : State} {c : Byte} (kw : Within 0x4004004002 W) (h : But W s0 s) : But W s0 (schedRefuse c s) := by
  unfold schedRefuse; exact (but_raise (kw.le rfl) (but_updSched (kw.le rfl) h))

theorem but_cmdSchLoad {W : Nat} {s0 s : State} (kw : Within 0x4004004002 W) (h : But W s0 s) : But W s0 (cmdSchLoad s) := by
  unfold cmdSchLoad; exact (but_ite (but_schedRefuse (kw.le rfl) h) (but_updSched (kw.le rfl) h))

theorem but_mk_upd {W : Nat} {s0 x : State} {upd'} (kw : Within 0x100000000 W) (h : But W s0 x) :
    But W s0 (State.mk x.part x.hdrs x.latches x.heldLow x.tb x.crests x.hub x.flitFails x.packets x.nextPacket x.opened x.pool x.sram x.staged x.sched x.run x.trio x.safety x.field x.panel x.ports x.cans x.uarts x.super x.mail x.host x.recorder x.historian x.otp x.store x.flash x.sec upd' x.pwr x.forceInd x.tapReset x.resp x.out x.free x.pending) :=
  h.put kw fun c hc => by cases c <;> first | rfl | exact absurd hc (by decide)

theorem but_endSchValidation {W : Nat} {s0 s : State} (kw : Within 0x4104004002 W) (h : But W s0 s) : But W s0 (endSchValidation s) := by
  unfold endSchValidation; exact (but_ite h (by (try dsimp only); exact (but_raise (kw.le rfl) (by (try dsimp only); split; exacts [(but_updSched (kw.le rfl) (but_mk_upd (kw.le rfl) h)), (but_updSched (kw.le rfl) (but_mk_upd (kw.le rfl) h))]))))

theorem but_cmdSchActivate {W : Nat} {s0 s : State} {withApp : Bool} {trio : Bool} (kw : Within 0x400400c002 W) (h : But W s0 s) : But W s0 (cmdSchActivate withApp trio s) := by
  unfold cmdSchActivate; exact (but_ite (but_schedRefuse (kw.le rfl) h) (but_ite (but_schedRefuse (kw.le rfl) h) (by (try dsimp only); split; exacts [(but_schedRefuse (kw.le rfl) h), (but_ite (but_schedRefuse (kw.le rfl) h) (by (try dsimp only); split; exacts [(but_schedRefuse (kw.le rfl) (but_updSched (kw.le rfl) h)), (but_ite (but_schedRefuse (kw.le rfl) h) (but_ite (but_updRun (kw.le rfl) (but_updSched (kw.le rfl) h)) (but_updSched (kw.le rfl) h)))]))])))

theorem but_cmdSchCancel {W : Nat} {s0 s : State} (kw : Within 0x400400c002 W) (h : But W s0 s) : But W s0 (cmdSchCancel s) := by
  unfold cmdSchCancel; exact (but_ite (but_schedRefuse (kw.le rfl) h) (but_ite (but_schedRefuse (kw.le rfl) h) (but_ite (but_updRun (kw.le rfl) (but_updSched (kw.le rfl) h)) (but_updSched (kw.le rfl) h))))

theorem but_cmdSchDiscard {W : Nat} {s0 s : State} (kw : Within 0x4004004002 W) (h : But W s0 s) : But W s0 (cmdSchDiscard s) := by
  unfold cmdSchDiscard; exact (but_ite (but_schedRefuse (kw.le rfl) h) (but_updSched (kw.le rfl) h))

theorem but_execSchLoad {s t : State} {q : Req} (e : execSchLoad q s = .next t) : But 0x7004004002 s t := by
  have h := But.self 0x7004004002 s
  have kw := Within.self 0x7004004002
  cases e; exact (but_onPage (kw.le rfl) (fun _ h1 => (but_cmdSchLoad (kw.le rfl) h1)) h)

theorem but_execSchValidationEnd {s t : State} (e : execSchValidationEnd s = .next t) : But 0x4104004002 s t := by
  have h := But.self 0x4104004002 s
  have kw := Within.self 0x4104004002
  cases e; exact (but_endSchValidation (kw.le rfl) h)

theorem but_execSchActivate {s t : State} {q : Req} {withApp : Bool} {trio : Bool} (e : execSchActivate q withApp trio s = .next t) : But 0x700400c002 s t := by
  have h := But.self 0x700400c002 s
  have kw := Within.self 0x700400c002
  cases e; exact (but_onPage (kw.le rfl) (fun _ h1 => (but_cmdSchActivate (kw.le rfl) h1)) h)

theorem but_execSchCancel {s t : State} {q : Req} (e : execSchCancel q s = .next t) : But 0x700400c002 s t := by
  have h := But.self 0x700400c002 s
  have kw := Within.self 0x700400c002
  cases e; exact (but_onPage (kw.le rfl) (fun _ h1 => (but_cmdSchCancel (kw.le rfl) h1)) h)

theorem but_execSchDiscard {s t : State} {q : Req} (e : execSchDiscard q s = .next t) : But 0x7004004002 s t := by
  have h := But.self 0x7004004002 s
  have kw := Within.self 0x7004004002
  cases e; exact (but_onPage (kw.le rfl) (fun _ h1 => (but_cmdSchDiscard (kw.le rfl) h1)) h)

theorem but_appRefuseAt {W : Nat} {s0 s : State} {c : Byte} {index : ℕ} (kw : Within 0x4004008002 W) (h : But W s0 s) : But W s0 (appRefuseAt c index s) := by
  unfold appRefuseAt; exact (but_raise (kw.le rfl) (but_updRun (kw.le rfl) h))

theorem but_appRefuse {W : Nat} {s0 s : State} {c : Byte} (kw : Within 0x4004008002 W) (h : But W s0 s) : But W s0 (appRefuse c s) := by
  unfold appRefuse; exact (but_appRefuseAt (kw.le rfl) h)

theorem but_cmdAppLoad {W : Nat} {s0 s : State} (kw : Within 0x4004008002 W) (h : But W s0 s) : But W s0 (cmdAppLoad s) := by
  unfold cmdAppLoad; exact (but_ite (but_appRefuse (kw.le rfl) h) (but_updRun (kw.le rfl) h))

theorem but_mk_pool {W : Nat} {s0 x : State} {pool'} (kw : Within 0x800 W) (h : But W s0 x) :
    But W s0 (State.mk x.part x.hdrs x.latches x.heldLow x.tb x.crests x.hub x.flitFails x.packets x.nextPacket x.opened pool' x.sram x.staged x.sched x.run x.trio x.safety x.field x.panel x.ports x.cans x.uarts x.super x.mail x.host x.recorder x.historian x.otp x.store x.flash x.sec x.upd x.pwr x.forceInd x.tapReset x.resp x.out x.free x.pending) :=
  h.put kw fun c hc => by cases c <;> first | rfl | exact absurd hc (by decide)

theorem but_copyCode {W : Nat} {s0 s : State} {im : AppImage} (kw : Within 0x800 W) (h : But W s0 s) : But W s0 (copyCode im s) := by
  unfold copyCode; exact (but_mk_pool (kw.le rfl) h)

theorem but_endAppValidation {W : Nat} {s0 s : State} (kw : Within 0x6104118802 W) (h : But W s0 s) : But W s0 (endAppValidation s) := by
  unfold endAppValidation; exact (but_ite h (by (try dsimp only); exact (but_raise (kw.le rfl) (by (try dsimp only); split; exacts [(but_forwardChanges (kw.le rfl) (but_copyCode (kw.le rfl) (but_updRun (kw.le rfl) (but_mk_upd (kw.le rfl) h)))), (but_updRun (kw.le rfl) (but_mk_upd (kw.le rfl) h)), (but_updRun (kw.le rfl) (but_mk_upd (kw.le rfl) h))]))))

theorem but_writeInits {W : Nat} {s0 s : State} {im : AppImage} (kw : Within 0x800 W) (h : But W s0 s) : But W s0 (writeInits im s) := by
  unfold writeInits; exact (but_mk_pool (kw.le rfl) h)

theorem but_armApp {W : Nat} {s0 s : State} {im : AppImage} {own : Bool} {trio : Bool} (kw : Within 0x2000138802 W) (h : But W s0 s) : But W s0 (armApp im own trio s) := by
  unfold armApp; exact (but_ite (but_updRun (kw.le rfl) (but_mk_safety (kw.le rfl) (but_forwardChanges (kw.le rfl) (but_writeInits (kw.le rfl) (but_updRun (kw.le rfl) h))))) (but_mk_safety (kw.le rfl) (but_forwardChanges (kw.le rfl) (but_writeInits (kw.le rfl) (but_updRun (kw.le rfl) h)))))

theorem but_cmdAppActivate {W : Nat} {s0 s : State} {trio : Bool} (kw : Within 0x6004138802 W) (h : But W s0 s) : But W s0 (cmdAppActivate trio s) := by
  unfold cmdAppActivate; exact (but_ite (but_appRefuse (kw.le rfl) h) (but_ite (but_appRefuse (kw.le rfl) h) (by (try dsimp only); split; exacts [(but_appRefuse (kw.le rfl) h), (but_ite (but_appRefuse (kw.le rfl) h) (by (try dsimp only); split; exacts [(but_appRefuseAt (kw.le rfl) h), (but_armApp (kw.le rfl) h)]))])))

theorem but_cmdAppArm {W : Nat} {s0 s : State} (kw : Within 0x6004138802 W) (h : But W s0 s) : But W s0 (cmdAppArm s) := by
  unfold cmdAppArm; exact (but_ite (but_appRefuse (kw.le rfl) h) (by (try dsimp only); split; exacts [(but_appRefuse (kw.le rfl) h), (by (try dsimp only); split; exacts [(but_appRefuseAt (kw.le rfl) h), (but_armApp (kw.le rfl) h)])]))

theorem but_cmdAppCancel {W : Nat} {s0 s : State} (kw : Within 0x4004008002 W) (h : But W s0 s) : But W s0 (cmdAppCancel s) := by
  unfold cmdAppCancel; exact (but_ite (but_appRefuse (kw.le rfl) h) (but_ite (but_appRefuse (kw.le rfl) h) (but_updRun (kw.le rfl) h)))

theorem but_cmdAppDiscard {W : Nat} {s0 s : State} (kw : Within 0x4004008002 W) (h : But W s0 s) : But W s0 (cmdAppDiscard s) := by
  unfold cmdAppDiscard; exact (but_ite (but_appRefuse (kw.le rfl) h) (but_updRun (kw.le rfl) h))

theorem but_decideBanks {W : Nat} {s0 s : State} (kw : Within 0x400402c002 W) (h : But W s0 s) : But W s0 (decideBanks s) := by
  unfold decideBanks; exact (but_ite h (but_ite (but_cancelSched (kw.le rfl) (but_ite (but_cancelApp (kw.le rfl) (but_ite (but_mk_safety (kw.le rfl) (but_updRun (kw.le rfl) h)) (but_updRun (kw.le rfl) h))) (but_ite (but_mk_safety (kw.le rfl) (but_updRun (kw.le rfl) h)) (but_updRun (kw.le rfl) h)))) (but_ite (but_cancelApp (kw.le rfl) (but_ite (but_mk_safety (kw.le rfl) (but_updRun (kw.le rfl) h)) (but_updRun (kw.le rfl) h))) (but_ite (but_mk_safety (kw.le rfl) (but_updRun (kw.le rfl) h)) (but_updRun (kw.le rfl) h)))))

theorem but_execAppLoad {s t : State} {q : Req} (e : execAppLoad q s = .next t) : But 0x7004008002 s t := by
  have h := But.self 0x7004008002 s
  have kw := Within.self 0x7004008002
  cases e; exact (but_onPage (kw.le rfl) (fun _ h1 => (but_cmdAppLoad (kw.le rfl) h1)) h)

theorem but_execAppValidationEnd {s t : State} (e : execAppValidationEnd s = .next t) : But 0x6104118802 s t := by
  have h := But.self 0x6104118802 s
  have kw := Within.self 0x6104118802
  cases e; exact (but_endAppValidation (kw.le rfl) h)

theorem but_execAppActivate {s t : State} {q : Req} {trio : Bool} (e : execAppActivate q trio s = .next t) : But 0x7004138802 s t := by
  have h := But.self 0x7004138802 s
  have kw := Within.self 0x7004138802
  cases e; exact (but_onPage (kw.le rfl) (fun _ h1 => (but_cmdAppActivate (kw.le rfl) h1)) h)

theorem but_execAppArm {s t : State} {q : Req} (e : execAppArm q s = .next t) : But 0x7004138802 s t := by
  have h := But.self 0x7004138802 s
  have kw := Within.self 0x7004138802
  cases e; exact (but_onPage (kw.le rfl) (fun _ h1 => (but_cmdAppArm (kw.le rfl) h1)) h)

theorem but_execAppCancel {s t : State} {q : Req} (e : execAppCancel q s = .next t) : But 0x7004008002 s t := by
  have h := But.self 0x7004008002 s
  have kw := Within.self 0x7004008002
  cases e; exact (but_onPage (kw.le rfl) (fun _ h1 => (but_cmdAppCancel (kw.le rfl) h1)) h)

theorem but_execAppDiscard {s t : State} {q : Req} (e : execAppDiscard q s = .next t) : But 0x7004008002 s t := by
  have h := But.self 0x7004008002 s
  have kw := Within.self 0x7004008002
  cases e; exact (but_onPage (kw.le rfl) (fun _ h1 => (but_cmdAppDiscard (kw.le rfl) h1)) h)

theorem but_putForce {W : Nat} {s0 s : State} {i : Fin 256} {f : Option Force} (kw : Within 0x8000 W) (h : But W s0 s) : But W s0 (putForce i f s) := by
  unfold putForce; exact (but_updRun (kw.le rfl) h)

theorem but_mk_forceInd {W : Nat} {s0 x : State} {forceInd'} (kw : Within 0x400000000 W) (h : But W s0 x) :
    But W s0 (State.mk x.part x.hdrs x.latches x.heldLow x.tb x.crests x.hub x.flitFails x.packets x.nextPacket x.opened x.pool x.sram x.staged x.sched x.run x.trio x.safety x.field x.panel x.ports x.cans x.uarts x.super x.mail x.host x.recorder x.historian x.otp x.store x.flash x.sec x.upd x.pwr forceInd' x.tapReset x.resp x.out x.free x.pending) :=
  h.put kw fun c hc => by cases c <;> first | rfl | exact absurd hc (by decide)

theorem but_refreshForceInd {W : Nat} {s0 s : State} (kw : Within 0x400000000 W) (h : But W s0 s) : But W s0 (refreshForceInd s) := by
  unfold refreshForceInd; exact (but_mk_forceInd (kw.le rfl) h)

theorem but_forceChanged {W : Nat} {s0 s : State} {ten : Option (BitVec 3)} (kw : Within 0x4404000002 W) (h : But W s0 s) : But W s0 (forceChanged ten s) := by
  unfold forceChanged; exact (but_raise (kw.le rfl) (but_refreshForceInd (kw.le rfl) h))

theorem but_publishForce {W : Nat} {s0 s : State} {m : ForceMsg} (kw : Within 0x10000 W) (h : But W s0 s) : But W s0 (publishForce m s) := by
  unfold publishForce; exact (but_ite (but_mk_trio (kw.le rfl) h) h)

theorem but_frcCode {W : Nat} {s0 s : State} {c : Byte} (kw : Within 0x8000 W) (h : But W s0 s) : But W s0 (frcCode c s) := by
  unfold frcCode; exact (but_updRun (kw.le rfl) h)

theorem but_enterForce {W : Nat} {s0 s : State} {m : Fin 3} {p : BitVec 16} {v : Word} {k : ℕ} (kw : Within 0x8000 W) (h : But W s0 s) : But W s0 (enterForce m p v k s) := by
  unfold enterForce; exact (by (try dsimp only); split; exacts [(but_putForce (kw.le rfl) h), (by (try dsimp only); split; exacts [(but_putForce (kw.le rfl) h), h])])

theorem but_enterRemoval {W : Nat} {s0 s : State} {m : Fin 3} {i : Fin 256} {k : ℕ} (kw : Within 0x8000 W) (h : But W s0 s) : But W s0 (enterRemoval m i k s) := by
  unfold enterRemoval; exact (but_putForce (kw.le rfl) h)

theorem but_cmdFrcSet {W : Nat} {s0 s : State} (kw : Within 0x4404018002 W) (h : But W s0 s) : But W s0 (cmdFrcSet s) := by
  unfold cmdFrcSet; exact (but_ite (but_frcCode (kw.le rfl) h) (by (try dsimp only); split; exacts [(but_frcCode (kw.le rfl) h), (but_ite (but_frcCode (kw.le rfl) h) (but_forceChanged (kw.le rfl) (but_publishForce (kw.le rfl) (but_enterForce (kw.le rfl) (but_frcCode (kw.le rfl) h)))))]))

theorem but_cmdFrcClear {W : Nat} {s0 s : State} (kw : Within 0x4404018002 W) (h : But W s0 s) : But W s0 (cmdFrcClear s) := by
  unfold cmdFrcClear; exact (by (try dsimp only); split; exacts [(but_frcCode (kw.le rfl) h), (but_forceChanged (kw.le rfl) (but_publishForce (kw.le rfl) (but_enterRemoval (kw.le rfl) (but_frcCode (kw.le rfl) h))))])

theorem but_removeForces {W : Nat} {s0 s : State} {which : Force → Bool} {after : BitVec 16 → State → State} (kk : Within 0x18000 W) (k : ∀ p x, But W s0 x → But W s0 (after p x))
    (h : But W s0 s) : But W s0 (removeForces which after s) := by
  unfold removeForces
  refine but_foldl (fun _ _ h1 => ?_) h
  split
  · exact but_ite (k _ _ (but_publishForce (kk.le rfl) (but_enterRemoval (kk.le rfl) h1))) h1
  · exact h1

theorem but_cmdFrcClearAll {W : Nat} {s0 s : State} (kk : Within 0x4404018002 W) (h : But W s0 s) : But W s0 (cmdFrcClearAll s) := by
  unfold cmdFrcClearAll; exact (but_forceChanged (kk.le rfl) (but_removeForces (kk.le rfl) (fun _ _ h1 => h1) (but_frcCode (kk.le rfl) h)))

theorem but_sealRemovesForces {W : Nat} {s0 s : State} (kk : Within 0x4404018002 W) (h : But W s0 s) : But W s0 (sealRemovesForces s) := by
  unfold sealRemovesForces; exact (but_removeForces (kk.le rfl) (fun _ _ h1 => but_forceChanged (kk.le rfl) h1) h)

theorem but_ageForces {W : Nat} {s0 s : State} (kw : Within 0x8000 W) (h : But W s0 s) : But W s0 (ageForces s) := by
  unfold ageForces; exact (but_updRun (kw.le rfl) h)

theorem but_forcesAct {W : Nat} {s0 s : State} (kw : Within 0x400008000 W) (h : But W s0 s) : But W s0 (forcesAct s) := by
  unfold forcesAct; exact (but_refreshForceInd (kw.le rfl) (but_updRun (kw.le rfl) h))

theorem but_exchangeForces {W : Nat} {s0 s : State} {old : AppImage} {new : AppImage} (kw : Within 0x4404008002 W) (h : But W s0 s) : But W s0 (exchangeForces old new s) := by
  unfold exchangeForces; exact (but_refreshForceInd (kw.le rfl) (but_foldl (fun _ _ h1 => (by (try dsimp only); split; exacts [h1, (but_ite h1 (but_note (kw.le rfl) (but_putForce (kw.le rfl) h1)))])) h))

theorem but_cmdRestart {W : Nat} {s0 s : State} (kw : Within 0x8000 W) (h : But W s0 s) : But W s0 (cmdRestart s) := by
  unfold cmdRestart; exact (but_ite (but_updRun (kw.le rfl) h) (but_ite (but_updRun (kw.le rfl) h) (but_updRun (kw.le rfl) h)))

theorem but_restartAt {W : Nat} {s0 s : State} (kw : Within 0x4004008002 W) (h : But W s0 s) : But W s0 (restartAt s) := by
  unfold restartAt; exact (by (try dsimp only); split; exacts [h, (but_ite (but_raise (kw.le rfl) (but_updRun (kw.le rfl) h)) h)])

theorem but_execFrcSet {s t : State} {q : Req} (e : execFrcSet q s = .next t) : But 0x7404018002 s t := by
  have h := But.self 0x7404018002 s
  have kw := Within.self 0x7404018002
  cases e; exact (but_onPage (kw.le rfl) (fun _ h1 => (but_cmdFrcSet (kw.le rfl) h1)) h)

theorem but_execFrcClear {s t : State} {q : Req} (e : execFrcClear q s = .next t) : But 0x7404018002 s t := by
  have h := But.self 0x7404018002 s
  have kw := Within.self 0x7404018002
  cases e; exact (but_onPage (kw.le rfl) (fun _ h1 => (but_cmdFrcClear (kw.le rfl) h1)) h)

theorem but_execFrcClearAll {s t : State} {q : Req} (e : execFrcClearAll q s = .next t) : But 0x7404018002 s t := by
  have h := But.self 0x7404018002 s
  have kw := Within.self 0x7404018002
  cases e; exact (but_onPage (kw.le rfl) (fun _ h1 => (but_cmdFrcClearAll (kw.le rfl) h1)) h)

theorem but_execForceTakeEffect {s t : State} (e : execForceTakeEffect s = .next t) : But 0x400008000 s t := by
  have h := But.self 0x400008000 s
  have kw := Within.self 0x400008000
  cases e; exact (but_forcesAct (kw.le rfl) h)

theorem but_execRunRestart {s t : State} {q : Req} (e : execRunRestart q s = .next t) : But 0x3000008002 s t := by
  have h := But.self 0x3000008002 s
  have kw := Within.self 0x3000008002
  cases e; exact (but_onPage (kw.le rfl) (fun _ h1 => (but_cmdRestart (kw.le rfl) h1)) h)

theorem but_execRestartFrame {s t : State} (e : execRestartFrame s = .next t) : But 0x4004008002 s t := by
  have h := But.self 0x4004008002 s
  have kw := Within.self 0x4004008002
  cases e; exact (but_restartAt (kw.le rfl) h)

theorem but_mk_field_panel {W : Nat} {s0 x : State} {field' panel'} (kw : Within 0xc0000 W) (h : But W s0 x) :
    But W s0 (State.mk x.part x.hdrs x.latches x.heldLow x.tb x.crests x.hub x.flitFails x.packets x.nextPacket x.opened x.pool x.sram x.staged x.sched x.run x.trio x.safety field' panel' x.ports x.cans x.uarts x.super x.mail x.host x.recorder x.historian x.otp x.store x.flash x.sec x.upd x.pwr x.forceInd x.tapReset x.resp x.out x.free x.pending) :=
  h.put kw fun c hc => by cases c <;> first | rfl | exact absurd hc (by decide)

theorem but_resetFoothill {W : Nat} {s0 s : State} {link : Bool} (kw : Within 0xc000e W) (h : But W s0 s) : But W s0 (resetFoothill link s) := by
  unfold resetFoothill; exact (but_mk_field_panel (kw.le rfl) (but_dropLatches (kw.le rfl) (but_updHdr (kw.le rfl) (but_updHdr (kw.le rfl) h))))

theorem but_takePins {W : Nat} {s0 s : State} {pins : FieldPins} (kw : Within 0x60000 W) (h : But W s0 s) : But W s0 (takePins pins s) := by
  unfold takePins; exact (but_updField (kw.le rfl) (but_mk_safety (kw.le rfl) h))

theorem but_hubUp {W : Nat} {s0 s : State} (kw : Within 0x40 W) (h : But W s0 s) : But W s0 (hubUp s) := by
  unfold hubUp; exact (but_mk_hub (kw.le rfl) h)

theorem but_fieldLinkFalls {W : Nat} {s0 s : State} (kw : Within 0x4004040062 W) (h : But W s0 s) : But W s0 (fieldLinkFalls s) := by
  unfold fieldLinkFalls; exact (but_ite h (but_raise (kw.le rfl) (but_portDown (kw.le rfl) (but_updField (kw.le rfl) h))))

theorem but_linkFrame {W : Nat} {s0 s : State} {pins : FieldPins} (kw : Within 0x4004060042 W) (h : But W s0 s) : But W s0 (linkFrame pins s) := by
  unfold linkFrame; exact (but_ite h (but_ite (but_takePins (kw.le rfl) h) (but_raise (kw.le rfl) (but_hubUp (kw.le rfl) (but_updField (kw.le rfl) (but_takePins (kw.le rfl) h))))))

theorem but_linkTimeout {W : Nat} {s0 s : State} (kw : Within 0x4204a7c862 W) (h : But W s0 s) : But W s0 (linkTimeout s) := by
  unfold linkTimeout; exact (but_ite h (but_ite (but_refreshField (kw.le rfl) (but_ite (but_fieldLinkFalls (kw.le rfl) h) (but_note (kw.le rfl) (but_updField (kw.le rfl) (but_fieldLinkFalls (kw.le rfl) h))))) (but_failDevice (kw.le rfl) (but_refreshField (kw.le rfl) (but_ite (but_fieldLinkFalls (kw.le rfl) h) (but_note (kw.le rfl) (but_updField (kw.le rfl) (but_fieldLinkFalls (kw.le rfl) h))))))))

theorem but_setVfield {W : Nat} {s0 s : State} {mv : BitVec 16} (kw : Within 0x40000 W) (h : But W s0 s) : But W s0 (setVfield mv s) := by
  unfold setVfield; exact (but_ite (but_updField (kw.le rfl) h) h)

theorem but_uvloBegin {W : Nat} {s0 s : State} {mv : BitVec 16} (kw : Within 0x4004040002 W) (h : But W s0 s) : But W s0 (uvloBegin mv s) := by
  unfold uvloBegin; exact (but_ite (but_setVfield (kw.le rfl) h) (but_newFault (kw.le rfl) (but_noteConds (kw.le rfl) (but_refreshField (kw.le rfl) (but_updField (kw.le rfl) (but_setVfield (kw.le rfl) h))))))

theorem but_uvloEnd {W : Nat} {s0 s : State} {mv : BitVec 16} (kw : Within 0x4004040002 W) (h : But W s0 s) : But W s0 (uvloEnd mv s) := by
  unfold uvloEnd; exact (but_ite (but_setVfield (kw.le rfl) h) (but_noteConds (kw.le rfl) (but_refreshField (kw.le rfl) (but_updField (kw.le rfl) (but_setVfield (kw.le rfl) h)))))

theorem but_fieldTemp {W : Nat} {s0 s : State} {temp : BitVec 11} (kw : Within 0x4004040002 W) (h : But W s0 s) : But W s0 (fieldTemp temp s) := by
  unfold fieldTemp; exact (but_ite h (but_noteConds (kw.le rfl) (but_updField (kw.le rfl) h)))

theorem but_fieldShutdown {W : Nat} {s0 s : State} {temp : BitVec 11} (kw : Within 0x4204a7c802 W) (h : But W s0 s) : But W s0 (fieldShutdown temp s) := by
  unfold fieldShutdown; exact (but_ite (but_fieldTemp (kw.le rfl) h) (but_failDevice (kw.le rfl) (but_note (kw.le rfl) (but_refreshField (kw.le rfl) (but_updField (kw.le rfl) (but_fieldTemp (kw.le rfl) h))))))

theorem but_foothillOn {W : Nat} {s0 s : State} (kw : Within 0xc000e W) (h : But W s0 s) : But W s0 (foothillOn s) := by
  unfold foothillOn; exact (but_ite h (but_resetFoothill (kw.le rfl) h))

theorem but_foothillOff {W : Nat} {s0 s : State} (kw : Within 0x40000 W) (h : But W s0 s) : But W s0 (foothillOff s) := by
  unfold foothillOff; exact (but_ite (but_refreshField (kw.le rfl) (but_updField (kw.le rfl) h)) h)

theorem but_debounce {W : Nat} {s0 s : State} {ch : DebChan} {level : Bool} (kw : Within 0x60000 W) (h : But W s0 s) : But W s0 (debounce ch level s) := by
  unfold debounce; exact (but_ite h (by (try dsimp only); split; exacts [(but_ite h (but_updField (kw.le rfl) h)), (but_updField (kw.le rfl) (but_mk_safety (kw.le rfl) h))]))

theorem but_wireBreak {W : Nat} {s0 s : State} {n : Fin 64} (kw : Within 0x4004040002 W) (h : But W s0 s) : But W s0 (wireBreak n s) := by
  unfold wireBreak; exact (but_ite (but_newFault (kw.le rfl) (but_updField (kw.le rfl) h)) h)

theorem but_wireWhole {W : Nat} {s0 s : State} {n : Fin 64} (kw : Within 0x40000 W) (h : But W s0 s) : But W s0 (wireWhole n s) := by
  unfold wireWhole; exact (but_ite h (but_updField (kw.le rfl) h))

theorem but_diStarted {W : Nat} {s0 s : State} {n : Fin 64} (kw : Within 0x40000 W) (h : But W s0 s) : But W s0 (diStarted n s) := by
  unfold diStarted; exact (but_updField (kw.le rfl) h)

theorem but_pulseStart {W : Nat} {s0 s : State} {n : Fin 8} (kw : Within 0x4004040012 W) (h : But W s0 s) : But W s0 (pulseStart n s) := by
  unfold pulseStart; exact (by (try dsimp only); split; exacts [h, (but_ite h (but_updField (kw.le rfl) (but_reachNative (kw.le rfl) h)))])

theorem but_pulseJudge {W : Nat} {s0 s : State} {passed : BitVec 64} {raw : BitVec 64} {n : Fin 8} {c : Fin 64} (kw : Within 0x4004040002 W) (h : But W s0 s) : But W s0 (pulseJudge passed raw n s c) := by
  unfold pulseJudge; exact (but_ite h (but_ite (but_newFault (kw.le rfl) (but_updField (kw.le rfl) h)) (but_updField (kw.le rfl) h)))

theorem but_pulseEnd {W : Nat} {s0 s : State} {n : Fin 8} {passed : BitVec 64} {raw : BitVec 64} (kw : Within 0x4004040012 W) (h : But W s0 s) : But W s0 (pulseEnd n passed raw s) := by
  unfold pulseEnd; exact (but_ite (but_foldl (fun _ _ h1 => (but_pulseJudge (kw.le rfl) h1)) (but_updField (kw.le rfl) (but_reachLocal (kw.le rfl) h))) h)

theorem but_exchangeField {W : Nat} {s0 s : State} {old : IoMap} (kw : Within 0x40000 W) (h : But W s0 s) : But W s0 (exchangeField old s) := by
  unfold exchangeField; exact (but_updField (kw.le rfl) h)

theorem but_tpsTrip {W : Nat} {s0 s : State} {n : Fin 8} (kw : Within 0x4004040002 W) (h : But W s0 s) : But W s0 (tpsTrip n s) := by
  unfold tpsTrip; exact (but_ite (but_newFault (kw.le rfl) (but_updField (kw.le rfl) h)) h)

theorem but_tpsBack {W : Nat} {s0 s : State} {n : Fin 8} (kw : Within 0x40000 W) (h : But W s0 s) : But W s0 (tpsBack n s) := by
  unfold tpsBack; exact (but_updField (kw.le rfl) h)

theorem but_doTripOff {W : Nat} {s0 s : State} {n : Fin 24} {hot : Bool} (kw : Within 0x4004040002 W) (h : But W s0 s) : But W s0 (doTripOff n hot s) := by
  unfold doTripOff; exact (but_newFault (kw.le rfl) (but_bump (kw.le rfl) (but_refreshField (kw.le rfl) (but_updField (kw.le rfl) h))))

theorem but_lockTlo {W : Nat} {s0 s : State} {n : Fin 8} (kw : Within 0x4004040002 W) (h : But W s0 s) : But W s0 (lockTlo n s) := by
  unfold lockTlo; exact (but_ite h (but_raiseSev (kw.le rfl) (but_bump (kw.le rfl) (but_refreshField (kw.le rfl) (but_updField (kw.le rfl) h)))))

theorem but_tripDecide {W : Nat} {s0 s : State} {o : OutChan} {hi : Bool} {lo : Bool} (kw : Within 0x4004040002 W) (h : But W s0 s) : But W s0 (tripDecide o hi lo s) := by
  unfold tripDecide; exact (by (try dsimp only); split; exacts [(but_ite (but_doTripOff (kw.le rfl) h) h), (but_ite (but_lockTlo (kw.le rfl) (but_bump (kw.le rfl) h)) h)])

theorem but_blankingEnd {W : Nat} {s0 s : State} {o : OutChan} {hi : Bool} {lo : Bool} (kw : Within 0x4004040002 W) (h : But W s0 s) : But W s0 (blankingEnd o hi lo s) := by
  unfold blankingEnd; exact (but_ite (but_tripDecide (kw.le rfl) (but_updField (kw.le rfl) h)) h)

theorem but_overCurrent {W : Nat} {s0 s : State} {o : OutChan} {hi : Bool} {lo : Bool} (kw : Within 0x4004040002 W) (h : But W s0 s) : But W s0 (overCurrent o hi lo s) := by
  unfold overCurrent; exact (but_ite (but_tripDecide (kw.le rfl) h) h)

theorem but_switchHot {W : Nat} {s0 s : State} {o : OutChan} (kw : Within 0x4004040002 W) (h : But W s0 s) : But W s0 (switchHot o s) := by
  unfold switchHot; exact (but_ite h (by (try dsimp only); split; exacts [(but_doTripOff (kw.le rfl) h), (but_lockTlo (kw.le rfl) (but_bump (kw.le rfl) h))]))

theorem but_offCheck {W : Nat} {s0 s : State} {n : Fin 8} {hi : Bool} {lo : Bool} (kw : Within 0x4004040002 W) (h : But W s0 s) : But W s0 (offCheck n hi lo s) := by
  unfold offCheck; exact (but_ite h (but_ite (but_lockTlo (kw.le rfl) (but_settleMis (kw.le rfl) (but_updField (kw.le rfl) h))) (but_settleMis (kw.le rfl) (but_updField (kw.le rfl) h))))

theorem but_mismatch {W : Nat} {s0 s : State} {o : OutChan} (kw : Within 0x4004040002 W) (h : But W s0 s) : But W s0 (mismatch o s) := by
  unfold mismatch; exact (but_ite h (by (try dsimp only); split; exacts [(but_newFault (kw.le rfl) (but_updField (kw.le rfl) h)), (by (try dsimp only [drawFree]); exact (but_newFault (kw.le rfl) (but_updField (kw.le rfl) (but_mk_free (kw.le rfl) h))))]))

theorem but_unlockTlo {W : Nat} {s0 s : State} (kw : Within 0x40000 W) (h : But W s0 s) : But W s0 (unlockTlo s) := by
  unfold unlockTlo; exact (but_refreshField (kw.le rfl) (but_updField (kw.le rfl) h))

theorem but_fieldFenced {W : Nat} {s0 s : State} (kw : Within 0x4004a7c802 W) (h : But W s0 s) : But W s0 (fieldFenced s) := by
  unfold fieldFenced; exact (but_ite h (but_ite (but_updField (kw.le rfl) h) (but_giveUp (kw.le rfl) (but_raiseUrgent (kw.le rfl) (but_refreshField (kw.le rfl) (but_updField (kw.le rfl) (but_updField (kw.le rfl) h)))))))

theorem but_sampleAi {W : Nat} {s0 s : State} {n : Fin 32} (kw : Within 0x4000040000 W) (h : But W s0 s) : But W s0 (sampleAi s n) := by
  unfold sampleAi; exact (by (try dsimp only [drawFree]); exact (but_updField (kw.le rfl) (but_mk_free (kw.le rfl) h)))

theorem but_aiTrip {W : Nat} {s0 s : State} {n : Fin 32} (kw : Within 0x40000 W) (h : But W s0 s) : But W s0 (aiTrip n s) := by
  unfold aiTrip; exact (but_ite (but_updField (kw.le rfl) h) h)

theorem but_aiBack {W : Nat} {s0 s : State} {n : Fin 32} (kw : Within 0x40000 W) (h : But W s0 s) : But W s0 (aiBack n s) := by
  unfold aiBack; exact (but_updField (kw.le rfl) h)

theorem but_setAoStat {W : Nat} {s0 s : State} {n : Fin 16} {st : BitVec 4} (kw : Within 0x4004040002 W) (h : But W s0 s) : But W s0 (setAoStat n st s) := by
  unfold setAoStat; exact (but_ite h (but_raise (kw.le rfl) (but_updField (kw.le rfl) h)))

theorem but_aoDecide {W : Nat} {s0 s : State} {n : Fin 16} {na : BitVec 25} {saturated : Bool} {held : Bool} (kw : Within 0x4004040002 W) (h : But W s0 s) : But W s0 (aoDecide n na saturated held s) := by
  unfold aoDecide; exact (but_ite h (but_setAoStat (kw.le rfl) (but_updField (kw.le rfl) h)))

theorem but_trimDone {W : Nat} {s0 s : State} {c : Byte} (kw : Within 0x4004040002 W) (h : But W s0 s) : But W s0 (trimDone c s) := by
  unfold trimDone; exact (but_raise (kw.le rfl) (but_updField (kw.le rfl) h))

theorem but_cmdTrimDrive {W : Nat} {s0 s : State} {twenty : Bool} (kw : Within 0x4004040002 W) (h : But W s0 s) : But W s0 (cmdTrimDrive twenty s) := by
  unfold cmdTrimDrive; exact (but_ite (but_trimDone (kw.le rfl) h) (but_trimDone (kw.le rfl) (but_setAoStat (kw.le rfl) (but_settleAsk (kw.le rfl) (but_updField (kw.le rfl) h)))))

theorem but_leaveTrim {W : Nat} {s0 s : State} {n : Fin 16} (kw : Within 0x4004040002 W) (h : But W s0 s) : But W s0 (leaveTrim n s) := by
  unfold leaveTrim; exact (but_ite (but_ite (but_setAoStat (kw.le rfl) (but_settleAsk (kw.le rfl) (but_updField (kw.le rfl) h))) (but_settleAsk (kw.le rfl) (but_updField (kw.le rfl) h))) h)

theorem but_cmdTrimApply {W : Nat} {s0 s : State} (kw : Within 0x4004040002 W) (h : But W s0 s) : But W s0 (cmdTrimApply s) := by
  unfold cmdTrimApply; exact (but_ite (but_trimDone (kw.le rfl) h) (but_trimDone (kw.le rfl) (but_leaveTrim (kw.le rfl) (but_updField (kw.le rfl) h))))

theorem but_cmdTrimExit {W : Nat} {s0 s : State} (kw : Within 0x4004040002 W) (h : But W s0 s) : But W s0 (cmdTrimExit s) := by
  unfold cmdTrimExit; exact (but_trimDone (kw.le rfl) (but_leaveTrim (kw.le rfl) h))

theorem but_latchDi {W : Nat} {s0 s : State} (kw : Within 0x40000 W) (h : But W s0 s) : But W s0 (latchDi s) := by
  unfold latchDi; exact (but_updField (kw.le rfl) h)

theorem but_latchFlit {W : Nat} {s0 s : State} {off : ℕ} {ws : List Word} (kw : Within 0x40000 W) (h : But W s0 s) : But W s0 (latchFlit off ws s) := by
  unfold latchFlit; exact (but_updField (kw.le rfl) h)

theorem but_sampleBank {W : Nat} {s0 s : State} {cls : ℕ} {inst : ℕ} (kw : Within 0x4000040000 W) (h : But W s0 s) : But W s0 (sampleBank cls inst s) := by
  unfold sampleBank; exact (but_ite (but_latchFlit (kw.le rfl) h) (but_ite (but_latchFlit (kw.le rfl) (but_foldl (fun _ _ h1 => (but_sampleAi (kw.le rfl) h1)) h)) h))

theorem but_latchReadback {W : Nat} {s0 s : State} (kw : Within 0x40000 W) (h : But W s0 s) : But W s0 (latchReadback s) := by
  unfold latchReadback; exact (but_latchFlit (kw.le rfl) (but_latchFlit (kw.le rfl) h))

theorem but_writeFieldFlit {W : Nat} {s0 s : State} {off : ℕ} {d : List Byte} (kw : Within 0x40000 W) (h : But W s0 s) : But W s0 (writeFieldFlit off d s) := by
  unfold writeFieldFlit; exact (but_ite h (but_ite (but_updField (kw.le rfl) h) (but_ite (but_updField (kw.le rfl) h) (but_ite (but_updField (kw.le rfl) h) h))))

theorem but_doRestart {W : Nat} {s0 s : State} {n : Fin 24} (kk : Within 0x4000040000 W) (h : But W s0 s) : But W s0 (doRestart s n) := by
  have k : But W s0 (if s.field.doHot.getLsbD n.val then drawFree 1 s else ((1 : BitVec 1), s)).2 := by
    split
    · exact but_mk_free (kk.le rfl) h
    · exact h
  unfold doRestart
  refine but_ite h (but_ite (but_updField (kk.le rfl) h) (but_ite h ?_))
  exact but_updField (kk.le rfl) k

theorem but_commitBank {W : Nat} {s0 s : State} {cls : ℕ} {inst : ℕ} (kw : Within 0x4000040000 W) (h : But W s0 s) : But W s0 (commitBank cls inst s) := by
  unfold commitBank; exact (but_ite (but_foldl (fun _ _ h1 => (but_doRestart (kw.le rfl) h1)) (but_updField (kw.le rfl) h)) (but_ite (but_updField (kw.le rfl) h) (but_ite (but_updField (kw.le rfl) h) h)))

theorem but_execFieldLinkFrame {s t : State} {pins : FieldPins} (e : execFieldLinkFrame pins s = .next t) : But 0x4004060042 s t := by
  have h := But.self 0x4004060042 s
  have kw := Within.self 0x4004060042
  cases e; exact (but_linkFrame (kw.le rfl) h)

theorem but_execFieldLinkTimeout {s t : State} (e : execFieldLinkTimeout s = .next t) : But 0x4204a7c862 s t := by
  have h := But.self 0x4204a7c862 s
  have kw := Within.self 0x4204a7c862
  cases e; exact (but_linkTimeout (kw.le rfl) h)

theorem but_execUvloEnter {s t : State} {mv : BitVec 16} (e : execUvloEnter mv s = .next t) : But 0x4004040002 s t := by
  have h := But.self 0x4004040002 s
  have kw := Within.self 0x4004040002
  cases e; exact (but_uvloBegin (kw.le rfl) h)

theorem but_execUvloExit {s t : State} {mv : BitVec 16} (e : execUvloExit mv s = .next t) : But 0x4004040002 s t := by
  have h := But.self 0x4004040002 s
  have kw := Within.self 0x4004040002
  cases e; exact (but_uvloEnd (kw.le rfl) h)

theorem but_execFoothillHot {s t : State} {temp : BitVec 11} (e : execFoothillHot temp s = .next t) : But 0x4004040002 s t := by
  have h := But.self 0x4004040002 s
  have kw := Within.self 0x4004040002
  cases e; exact (but_fieldTemp (kw.le rfl) h)

theorem but_execFoothillShutdown {s t : State} {temp : BitVec 11} (e : execFoothillShutdown temp s = .next t) : But 0x4204a7c802 s t := by
  have h := But.self 0x4204a7c802 s
  have kw := Within.self 0x4204a7c802
  cases e; exact (but_fieldShutdown (kw.le rfl) h)

theorem but_execFoothillPowerOn {s t : State} (e : execFoothillPowerOn s = .next t) : But 0xc000e s t := by
  have h := But.self 0xc000e s
  have kw := Within.self 0xc000e
  cases e; exact (but_foothillOn (kw.le rfl) h)

theorem but_execFoothillPowerLoss {s t : State} (e : execFoothillPowerLoss s = .next t) : But 0x40000 s t := by
  have h := But.self 0x40000 s
  have kw := Within.self 0x40000
  cases e; exact (but_foothillOff (kw.le rfl) h)

theorem but_execDebouncePass {s t : State} {ch : DebChan} {level : Bool} (e : execDebouncePass ch level s = .next t) : But 0x60000 s t := by
  have h := But.self 0x60000 s
  have kw := Within.self 0x60000
  cases e; exact (but_debounce (kw.le rfl) h)

theorem but_execWireBreakSet {s t : State} {n : Fin 64} (e : execWireBreakSet n s = .next t) : But 0x4004040002 s t := by
  have h := But.self 0x4004040002 s
  have kw := Within.self 0x4004040002
  cases e; exact (but_wireBreak (kw.le rfl) h)

theorem but_execWireBreakClear {s t : State} {n : Fin 64} (e : execWireBreakClear n s = .next t) : But 0x40000 s t := by
  have h := But.self 0x40000 s
  have kw := Within.self 0x40000
  cases e; exact (but_wireWhole (kw.le rfl) h)

theorem but_execDiReadBrokenEnd {s t : State} {n : Fin 64} (e : execDiReadBrokenEnd n s = .next t) : But 0x40000 s t := by
  have h := But.self 0x40000 s
  have kw := Within.self 0x40000
  cases e; exact (but_diStarted (kw.le rfl) h)

theorem but_execTestPulseStart {s t : State} {n : Fin 8} (e : execTestPulseStart n s = .next t) : But 0x4004040012 s t := by
  have h := But.self 0x4004040012 s
  have kw := Within.self 0x4004040012
  cases e; exact (but_pulseStart (kw.le rfl) h)

theorem but_execBlankingWindowEnd {s t : State} {n : Fin 8} {passed : BitVec 64} {raw : BitVec 64} (e : execBlankingWindowEnd n passed raw s = .next t) : But 0x4004040012 s t := by
  have h := But.self 0x4004040012 s
  have kw := Within.self 0x4004040012
  cases e; exact (but_pulseEnd (kw.le rfl) h)

theorem but_execTpsOverload {s t : State} {n : Fin 8} (e : execTpsOverload n s = .next t) : But 0x4004040002 s t := by
  have h := But.self 0x4004040002 s
  have kw := Within.self 0x4004040002
  cases e; exact (but_tpsTrip (kw.le rfl) h)

theorem but_execTpsRestart {s t : State} {n : Fin 8} (e : execTpsRestart n s = .next t) : But 0x40000 s t := by
  have h := But.self 0x40000 s
  have kw := Within.self 0x40000
  cases e; exact (but_tpsBack (kw.le rfl) h)

theorem but_execInrushBlankingEnd {s t : State} {o : OutChan} {overHi : Bool} {overLo : Bool} (e : execInrushBlankingEnd o overHi overLo s = .next t) : But 0x4004040002 s t := by
  have h := But.self 0x4004040002 s
  have kw := Within.self 0x4004040002
  cases e; exact (but_blankingEnd (kw.le rfl) h)

theorem but_execOutputTrip {s t : State} {o : OutChan} {overHi : Bool} {overLo : Bool} (e : execOutputTrip o overHi overLo s = .next t) : But 0x4004040002 s t := by
  have h := But.self 0x4004040002 s
  have kw := Within.self 0x4004040002
  cases e; exact (but_overCurrent (kw.le rfl) h)

theorem but_execThermalShutdown {s t : State} {o : OutChan} (e : execThermalShutdown o s = .next t) : But 0x4004040002 s t := by
  have h := But.self 0x4004040002 s
  have kw := Within.self 0x4004040002
  cases e; exact (but_switchHot (kw.le rfl) h)

theorem but_execTloOffCheck {s t : State} {n : Fin 8} {hi : Bool} {lo : Bool} (e : execTloOffCheck n hi lo s = .next t) : But 0x4004040002 s t := by
  have h := But.self 0x4004040002 s
  have kw := Within.self 0x4004040002
  cases e; exact (but_offCheck (kw.le rfl) h)

theorem but_execReadbackMismatch {s t : State} {o : OutChan} (e : execReadbackMismatch o s = .next t) : But 0x4004040002 s t := by
  have h := But.self 0x4004040002 s
  have kw := Within.self 0x4004040002
  cases e; exact (but_mismatch (kw.le rfl) h)

theorem but_execTloUnlock {s t : State} {q : Req} (e : execTloUnlock q s = .next t) : But 0x3000040002 s t := by
  have h := But.self 0x3000040002 s
  have kw := Within.self 0x3000040002
  cases e; exact (but_onPage (kw.le rfl) (fun _ h1 => (but_unlockTlo (kw.le rfl) h1)) h)

theorem but_execFieldFence {s t : State} (e : execFieldFence s = .next t) : But 0x4004a7c802 s t := by
  have h := But.self 0x4004a7c802 s
  have kw := Within.self 0x4004a7c802
  cases e; exact (but_fieldFenced (kw.le rfl) h)

theorem but_execFenceSeen {s t : State} (e : execFenceSeen s = .next t) : But 0x40000 s t := by
  have h := But.self 0x40000 s
  have kw := Within.self 0x40000
  cases e; exact (but_updField (kw.le rfl) h)

theorem but_execAiSupplyOverload {s t : State} {n : Fin 32} (e : execAiSupplyOverload n s = .next t) : But 0x40000 s t := by
  have h := But.self 0x40000 s
  have kw := Within.self 0x40000
  cases e; exact (but_aiTrip (kw.le rfl) h)

theorem but_execAiSupplyRestart {s t : State} {n : Fin 32} (e : execAiSupplyRestart n s = .next t) : But 0x40000 s t := by
  have h := But.self 0x40000 s
  have kw := Within.self 0x40000
  cases e; exact (but_aiBack (kw.le rfl) h)

theorem but_execAoStatusDecide {s t : State} {n : Fin 16} {measuredNa : BitVec 25} {saturated : Bool} {held : Bool} (e : execAoStatusDecide n measuredNa saturated held s = .next t) : But 0x4004040002 s t := by
  have h := But.self 0x4004040002 s
  have kw := Within.self 0x4004040002
  cases e; exact (but_aoDecide (kw.le rfl) h)

theorem but_execTrimDrive4 {s t : State} {q : Req} (e : execTrimDrive4 q s = .next t) : But 0x7004040002 s t := by
  have h := But.self 0x7004040002 s
  have kw := Within.self 0x7004040002
  cases e; exact (but_onPage (kw.le rfl) (fun _ h1 => (but_cmdTrimDrive (kw.le rfl) h1)) h)

theorem but_execTrimDrive20 {s t : State} {q : Req} (e : execTrimDrive20 q s = .next t) : But 0x7004040002 s t := by
  have h := But.self 0x7004040002 s
  have kw := Within.self 0x7004040002
  cases e; exact (but_onPage (kw.le rfl) (fun _ h1 => (but_cmdTrimDrive (kw.le rfl) h1)) h)

theorem but_execTrimApply {s t : State} {q : Req} (e : execTrimApply q s = .next t) : But 0x7004040002 s t := by
  have h := But.self 0x7004040002 s
  have kw := Within.self 0x7004040002
  cases e; exact (but_onPage (kw.le rfl) (fun _ h1 => (but_cmdTrimApply (kw.le rfl) h1)) h)

theorem but_execTrimExit {s t : State} {q : Req} (e : execTrimExit q s = .next t) : But 0x7004040002 s t := by
  have h := But.self 0x7004040002 s
  have kw := Within.self 0x7004040002
  cases e; exact (but_onPage (kw.le rfl) (fun _ h1 => (but_cmdTrimExit (kw.le rfl) h1)) h)

theorem but_mk_panel {W : Nat} {s0 x : State} {panel'} (kw : Within 0x80000 W) (h : But W s0 x) :
    But W s0 (State.mk x.part x.hdrs x.latches x.heldLow x.tb x.crests x.hub x.flitFails x.packets x.nextPacket x.opened x.pool x.sram x.staged x.sched x.run x.trio x.safety x.field panel' x.ports x.cans x.uarts x.super x.mail x.host x.recorder x.historian x.otp x.store x.flash x.sec x.upd x.pwr x.forceInd x.tapReset x.resp x.out x.free x.pending) :=
  h.put kw fun c hc => by cases c <;> first | rfl | exact absurd hc (by decide)

theorem but_updPanel {W : Nat} {s0 s : State} {f : Panel → Panel} (kw : Within 0x80000 W) (h : But W s0 s) : But W s0 (updPanel f s) := by
  unfold updPanel; exact (but_mk_panel (kw.le rfl) h)

theorem but_beginWrite {W : Nat} {s0 s : State} {cfg : PanelCfg} {c : Fin 8} {stale : Bool} (kw : Within 0x80000 W) (h : But W s0 s) : But W s0 (beginWrite cfg c stale s) := by
  unfold beginWrite; exact (but_updPanel (kw.le rfl) h)

theorem but_startWrite {W : Nat} {s0 s : State} (kw : Within 0x80000 W) (h : But W s0 s) : But W s0 (startWrite s) := by
  unfold startWrite; exact (by (try dsimp only); split; exacts [(but_ite h (but_beginWrite (kw.le rfl) h)), h])

theorem but_nextPhase {W : Nat} {s0 s : State} (kw : Within 0x4004080012 W) (h : But W s0 s) : But W s0 (nextPhase s) := by
  unfold nextPhase; exact (by (try dsimp only); split; exacts [h, (but_ite h (but_updPanel (kw.le rfl) (but_reachLocal (kw.le rfl) h)))])

theorem but_endStale {W : Nat} {s0 s : State} (kw : Within 0x80000 W) (h : But W s0 s) : But W s0 (endStale s) := by
  unfold endStale; exact (but_ite (but_updPanel (kw.le rfl) h) h)

theorem but_finishWrite {W : Nat} {s0 s : State} (kw : Within 0x4004080012 W) (h : But W s0 s) : But W s0 (finishWrite s) := by
  unfold finishWrite; exact (by (try dsimp only); split; exacts [h, (but_ite h (but_noteConds (kw.le rfl) (but_endStale (kw.le rfl) (but_updPanel (kw.le rfl) (but_reachLocal (kw.le rfl) h)))))])

theorem but_abandonWrite {W : Nat} {s0 s : State} (kw : Within 0x4004080002 W) (h : But W s0 s) : But W s0 (abandonWrite s) := by
  unfold abandonWrite; exact (by (try dsimp only); split; exacts [h, (but_noteConds (kw.le rfl) (but_raise (kw.le rfl) (but_updPanel (kw.le rfl) h)))])

theorem but_staleWrite {W : Nat} {s0 s : State} (kw : Within 0x4004080002 W) (h : But W s0 s) : But W s0 (staleWrite s) := by
  unfold staleWrite; exact (by (try dsimp only); split; exacts [(but_abandonWrite (kw.le rfl) h), (but_ite (but_abandonWrite (kw.le rfl) h) (but_raise (kw.le rfl) (but_noteConds (kw.le rfl) (but_beginWrite (kw.le rfl) (but_updPanel (kw.le rfl) (but_abandonWrite (kw.le rfl) h))))))])

theorem but_fieldWarn {W : Nat} {s0 s : State} {mv : BitVec 16} (kw : Within 0x40040c0002 W) (h : But W s0 s) : But W s0 (fieldWarn mv s) := by
  unfold fieldWarn; exact (but_ite (but_setVfield (kw.le rfl) h) (but_staleWrite (kw.le rfl) (but_noteConds (kw.le rfl) (but_updField (kw.le rfl) (but_setVfield (kw.le rfl) h)))))

theorem but_fieldWarnOff {W : Nat} {s0 s : State} {mv : BitVec 16} (kw : Within 0x40040c0002 W) (h : But W s0 s) : But W s0 (fieldWarnOff mv s) := by
  unfold fieldWarnOff; exact (but_noteConds (kw.le rfl) (but_endStale (kw.le rfl) (but_updField (kw.le rfl) (but_setVfield (kw.le rfl) h))))

theorem but_vpnlLevel {W : Nat} {s0 s : State} {mv : BitVec 16} (kw : Within 0x4004080002 W) (h : But W s0 s) : But W s0 (vpnlLevel mv s) := by
  unfold vpnlLevel; exact (but_ite h (but_ite (but_abandonWrite (kw.le rfl) (but_noteConds (kw.le rfl) (but_updPanel (kw.le rfl) h))) (but_noteConds (kw.le rfl) (but_updPanel (kw.le rfl) h))))

theorem but_ntc {W : Nat} {s0 s : State} {temp : BitVec 11} (kw : Within 0x4004080002 W) (h : But W s0 s) : But W s0 (ntc temp s) := by
  unfold ntc; exact (but_ite h (but_noteConds (kw.le rfl) (but_updPanel (kw.le rfl) (but_updPanel (kw.le rfl) h))))

theorem but_crackLoop {W : Nat} {s0 s : State} {ohms : ℕ} (kw : Within 0x4004080002 W) (h : But W s0 s) : But W s0 (crackLoop ohms s) := by
  unfold crackLoop; exact (but_ite (but_noteConds (kw.le rfl) (but_updPanel (kw.le rfl) h)) h)

theorem but_writeCnt {W : Nat} {s0 s : State} {v : Word} (kw : Within 0x80000 W) (h : But W s0 s) : But W s0 (writeCnt v s) := by
  unfold writeCnt; exact (but_ite (but_updPanel (kw.le rfl) h) h)

theorem but_samplePanel {W : Nat} {s0 s : State} (kw : Within 0x40000 W) (h : But W s0 s) : But W s0 (samplePanel s) := by
  unfold samplePanel; exact (but_latchFlit (kw.le rfl) h)

theorem but_writePanelFlit {W : Nat} {s0 s : State} {off : ℕ} {d : List Byte} (kw : Within 0x80000 W) (h : But W s0 s) : But W s0 (writePanelFlit off d s) := by
  unfold writePanelFlit; exact (but_ite h (but_updPanel (kw.le rfl) h))

theorem but_commitPanel {W : Nat} {s0 s : State} (kw : Within 0x4004080002 W) (h : But W s0 s) : But W s0 (commitPanel s) := by
  unfold commitPanel; exact (but_noteConds (kw.le rfl) (but_updPanel (kw.le rfl) h))

theorem but_execFieldWarnSet {s t : State} {mv : BitVec 16} (e : execFieldWarnSet mv s = .next t) : But 0x40040c0002 s t := by
  have h := But.self 0x40040c0002 s
  have kw := Within.self 0x40040c0002
  cases e; exact (but_fieldWarn (kw.le rfl) h)

theorem but_execFieldWarnClear {s t : State} {mv : BitVec 16} (e : execFieldWarnClear mv s = .next t) : But 0x40040c0002 s t := by
  have h := But.self 0x40040c0002 s
  have kw := Within.self 0x40040c0002
  cases e; exact (but_fieldWarnOff (kw.le rfl) h)

theorem but_execPanelWriteStart {s t : State} (e : execPanelWriteStart s = .next t) : But 0x80000 s t := by
  have h := But.self 0x80000 s
  have kw := Within.self 0x80000
  cases e; exact (but_startWrite (kw.le rfl) h)

theorem but_execPanelWritePhase {s t : State} (e : execPanelWritePhase s = .next t) : But 0x4004080012 s t := by
  have h := But.self 0x4004080012 s
  have kw := Within.self 0x4004080012
  cases e; exact (but_nextPhase (kw.le rfl) h)

theorem but_execPanelWriteEnd {s t : State} (e : execPanelWriteEnd s = .next t) : But 0x4004080012 s t := by
  have h := But.self 0x4004080012 s
  have kw := Within.self 0x4004080012
  cases e; exact (but_finishWrite (kw.le rfl) h)

theorem but_execPanelWriteAbandon {s t : State} {mv : BitVec 16} (e : execPanelWriteAbandon mv s = .next t) : But 0x4004080002 s t := by
  have h := But.self 0x4004080002 s
  have kw := Within.self 0x4004080002
  cases e; exact (but_vpnlLevel (kw.le rfl) h)

theorem but_execVpnlLevelChange {s t : State} {mv : BitVec 16} (e : execVpnlLevelChange mv s = .next t) : But 0x4004080002 s t := by
  have h := But.self 0x4004080002 s
  have kw := Within.self 0x4004080002
  cases e; exact (but_vpnlLevel (kw.le rfl) h)

theorem but_execNtcMeasure {s t : State} {temp : BitVec 11} (e : execNtcMeasure temp s = .next t) : But 0x4004080002 s t := by
  have h := But.self 0x4004080002 s
  have kw := Within.self 0x4004080002
  cases e; exact (but_ntc (kw.le rfl) h)

theorem but_execCrackMeasure {s t : State} {ohms : ℕ} (e : execCrackMeasure ohms s = .next t) : But 0x4004080002 s t := by
  have h := But.self 0x4004080002 s
  have kw := Within.self 0x4004080002
  cases e; exact (but_crackLoop (kw.le rfl) h)

theorem but_execPnlCntWrite {s t : State} {q : Req} {val : Word} (e : execPnlCntWrite q val s = .next t) : But 0x3000080002 s t := by
  have h := But.self 0x3000080002 s
  have kw := Within.self 0x3000080002
  cases e; exact (but_onPage (kw.le rfl) (fun _ h1 => (but_writeCnt (kw.le rfl) h1)) h)

theorem but_updPartner {W : Nat} {s0 s : State} {m : Fin 3} {f : Partner → Partner} (kw : Within 0x10000 W) (h : But W s0 s) : But W s0 (updPartner m f s) := by
  unfold updPartner; exact (but_updTrio (kw.le rfl) h)

theorem but_mirrorEntry {W : Nat} {s0 : State} {x : List (Option (List Byte)) × State} {e : Word × Word} (kk : Within 0x4004800022 W) (h : But W s0 x.2) :
    But W s0 (mirrorEntry x e).2 := by
  unfold mirrorEntry
  dsimp only [drawFree]
  split
  · exact but_mk_free (kk.le rfl) h
  · exact but_scanSpan (kk.le rfl) h

theorem but_mirrorData {W : Nat} {s0 s : State} {e : TrioExchange} (kk : Within 0x4004800022 W) (h : But W s0 s) : But W s0 (mirrorData e s).2 := by
  have k : ∀ (l : List (Word × Word)) (x : List (Option (List Byte)) × State), But W s0 x.2 → But W s0 (l.foldl mirrorEntry x).2 := by
    intro l
    induction l with
    | nil => exact fun _ h => h
    | cons e r ih => exact fun x hx => ih _ (but_mirrorEntry kk hx)
  unfold mirrorData
  dsimp only
  split
  · exact k _ _ (but_scanSpan (kk.le rfl) h)
  · exact but_scanSpan (kk.le rfl) h

theorem but_markTasks {W : Nat} {s0 s : State} (kw : Within 0x800 W) (h : But W s0 s) : But W s0 (markTasks s) := by
  unfold markTasks; exact (but_mk_pool (kw.le rfl) h)

theorem but_queueFlits {W : Nat} {s0 s : State} {type : Byte} {fs : List (Option (List Byte))} (kw : Within 0x10000 W) (h : But W s0 s) : But W s0 (queueFlits type fs s) := by
  unfold queueFlits; exact (but_foldl (fun _ _ h1 => (but_queueBoth (kw.le rfl) h1)) h)

theorem but_queueStatus {W : Nat} {s0 s : State} {len : ℕ} {st : MemberStatus} (kw : Within 0x4000010000 W) (h : But W s0 s) : But W s0 (queueStatus len st s) := by
  unfold queueStatus; exact (by (try dsimp only [drawFree]); exact (but_foldl (fun _ _ h1 => (but_queueBoth (kw.le rfl) h1)) (but_mk_free (kw.le rfl) h)))

theorem but_sendStatus {W : Nat} {s0 s : State} {len : ℕ} (kw : Within 0x4000010000 W) (h : But W s0 s) : But W s0 (sendStatus len s) := by
  unfold sendStatus; exact (but_queueStatus (kw.le rfl) (but_updTrio (kw.le rfl) h))

theorem but_sendAlign {W : Nat} {s0 s : State} {len : ℕ} (kw : Within 0x10000 W) (h : But W s0 s) : But W s0 (sendAlign len s) := by
  unfold sendAlign; exact (but_foldl (fun _ _ h1 => (but_queueTrio (kw.le rfl) (but_queueTrio (kw.le rfl) h1))) h)

theorem but_sendExchange {W : Nat} {s0 s : State} {e : TrioExchange} (kk : Within 0x6004910822 W) (h : But W s0 s) : But W s0 (sendExchange e s) := by
  unfold sendExchange
  dsimp only
  exact but_ite h (but_ite (but_sendStatus (kk.le rfl) h) (but_ite (but_sendAlign (kk.le rfl) h) (but_ite (but_queueFlits (kk.le rfl) (but_mirrorData (kk.le rfl) h))
    (but_queueFlits (kk.le rfl) (but_scanSpan (kk.le rfl) (but_ite (but_forwardChanges (kk.le rfl) (but_markTasks (kk.le rfl) h)) h))))))

theorem but_portDelay {W : Nat} {s0 s : State} {p : TrioPort} (kw : Within 0x4004000012 W) (h : But W s0 s) : But W s0 (portDelay s p) := by
  unfold portDelay; exact (by (try dsimp only); split; exacts [h, (but_ite (but_raise (kw.le rfl) (but_updTb (kw.le rfl) h)) (but_updTb (kw.le rfl) h))])

theorem but_alignTrim {W : Nat} {s0 s : State} (kw : Within 0x4004000012 W) (h : But W s0 s) : But W s0 (alignTrim s) := by
  unfold alignTrim; exact (but_ite (but_noteConds (kw.le rfl) (but_updTb (kw.le rfl) (but_portDelay (kw.le rfl) (but_portDelay (kw.le rfl) h)))) (by (try dsimp only); split; exacts [(by (try dsimp only); split; exacts [(but_noteConds (kw.le rfl) (but_updTb (kw.le rfl) (but_ite (but_bump (kw.le rfl) (but_portDelay (kw.le rfl) (but_portDelay (kw.le rfl) h))) (but_portDelay (kw.le rfl) (but_portDelay (kw.le rfl) h))))), (but_noteConds (kw.le rfl) (but_updTb (kw.le rfl) (but_ite (but_bump (kw.le rfl) (but_portDelay (kw.le rfl) (but_portDelay (kw.le rfl) h))) (but_portDelay (kw.le rfl) (but_portDelay (kw.le rfl) h)))))]), (but_portDelay (kw.le rfl) (but_portDelay (kw.le rfl) h))]))

theorem but_roundInstant {W : Nat} {s0 s : State} {roundNs : ℕ} (kw : Within 0x10 W) (h : But W s0 s) : But W s0 (roundInstant roundNs s) := by
  unfold roundInstant; exact (but_ite (but_ite (but_updTb (kw.le rfl) h) (but_updTb (kw.le rfl) h)) (but_updTb (kw.le rfl) h))

theorem but_driveFence {W : Nat} {s0 s : State} {m : Fin 3} {high : Bool} (kw : Within 0x6004110002 W) (h : But W s0 s) : But W s0 (driveFence m high s) := by
  unfold driveFence; exact (but_ite h (but_ite (but_drainTrio (kw.le rfl) (but_queueBoth (kw.le rfl) (but_raise (kw.le rfl) (but_updTrio (kw.le rfl) h)))) (but_raise (kw.le rfl) (but_updTrio (kw.le rfl) h))))

theorem but_fenceActs {W : Nat} {s0 s : State} (kw : Within 0x4004a7c802 W) (h : But W s0 s) : But W s0 (fenceActs s) := by
  unfold fenceActs; exact (but_ite (but_ite (but_ite (but_raiseUrgent (kw.le rfl) (but_refreshField (kw.le rfl) (but_updField (kw.le rfl) (but_updTrio (kw.le rfl) h)))) (but_refreshField (kw.le rfl) (but_updField (kw.le rfl) (but_updTrio (kw.le rfl) h)))) (but_stopController (kw.le rfl) (but_ite (but_raiseUrgent (kw.le rfl) (but_refreshField (kw.le rfl) (but_updField (kw.le rfl) (but_updTrio (kw.le rfl) h)))) (but_refreshField (kw.le rfl) (but_updField (kw.le rfl) (but_updTrio (kw.le rfl) h)))))) (but_giveUp (kw.le rfl) (but_ite (but_raiseUrgent (kw.le rfl) (but_refreshField (kw.le rfl) (but_updField (kw.le rfl) (but_updTrio (kw.le rfl) h)))) (but_refreshField (kw.le rfl) (but_updField (kw.le rfl) (but_updTrio (kw.le rfl) h))))))

theorem but_updPool {W : Nat} {s0 s : State} {f : Memory → Memory} (kw : Within 0x800 W) (h : But W s0 s) : But W s0 (updPool f s) := by
  unfold updPool; exact (but_mk_pool (kw.le rfl) h)

theorem but_applySubst {W : Nat} {s0 s : State} {p : Place} {r : Subst} (kw : Within 0x4000000800 W) (h : But W s0 s) : But W s0 (applySubst p r s) := by
  unfold applySubst; exact (by (try dsimp only [drawFree]); exact (but_updPool (kw.le rfl) (but_mk_free (kw.le rfl) h)))

theorem but_judgeDeviations {W : Nat} {s0 s : State} {p : InPoint} {devs : List (Fin 3)} (kw : Within 0x4004008802 W) (h : But W s0 s) : But W s0 (judgeDeviations p devs s) := by
  unfold judgeDeviations; exact (but_ite (but_updPool (kw.le rfl) (but_foldl (fun _ _ h1 => (but_raise (kw.le rfl) h1)) (but_updRun (kw.le rfl) h))) (but_ite (but_foldl (fun _ _ h1 => (but_raise (kw.le rfl) h1)) (but_updRun (kw.le rfl) h)) (but_updPool (kw.le rfl) (but_foldl (fun _ _ h1 => (but_raise (kw.le rfl) h1)) (but_updRun (kw.le rfl) h)))))

theorem but_noteSubstituted {W : Nat} {s0 s : State} {p : InPoint} (kw : Within 0x20000 W) (h : But W s0 s) : But W s0 (noteSubstituted p s) := by
  unfold noteSubstituted; exact (but_mk_safety (kw.le rfl) h)

theorem but_votePoint {W : Nat} {s0 s : State} {p : InPoint} (kw : Within 0x4004028802 W) (h : But W s0 s) : But W s0 (votePoint s p) := by
  unfold votePoint; exact (by (try dsimp only); split; exacts [(but_judgeDeviations (kw.le rfl) (but_noteSubstituted (kw.le rfl) (but_applySubst (kw.le rfl) h))), (but_judgeDeviations (kw.le rfl) (but_updPool (kw.le rfl) h)), (by (try dsimp only [drawFree]); exact (but_judgeDeviations (kw.le rfl) (but_updPool (kw.le rfl) (but_mk_free (kw.le rfl) h))))])

theorem but_copyPoint {W : Nat} {s0 s : State} {p : InPoint} (kw : Within 0x20800 W) (h : But W s0 s) : But W s0 (copyPoint s p) := by
  unfold copyPoint; exact (but_ite h (but_ite (but_noteSubstituted (kw.le rfl) (but_updPool (kw.le rfl) h)) (but_updPool (kw.le rfl) h)))

theorem but_forceInputs {W : Nat} {s0 s : State} (kw : Within 0x20800 W) (h : But W s0 s) : But W s0 (forceInputs s) := by
  unfold forceInputs; exact (but_foldl (fun _ _ h1 => (by (try dsimp only); split; exacts [(but_mk_safety (kw.le rfl) (but_updPool (kw.le rfl) h1)), h1])) h)

theorem but_scanWords {W : Nat} {s0 s : State} {as : List ℕ} (kw : Within 0x4004800022 W) (h : But W s0 s) : But W s0 (scanWords as s) := by
  unfold scanWords; exact (but_foldl (fun _ _ h1 => (but_scanPool (kw.le rfl) h1)) h)

theorem but_voteInputs {W : Nat} {s0 s : State} (kw : Within 0x6004938822 W) (h : But W s0 s) : But W s0 (voteInputs s) := by
  unfold voteInputs; exact (but_ite h (but_forwardChanges (kw.le rfl) (but_forceInputs (kw.le rfl) (but_updTrio (kw.le rfl) (but_ite (but_foldl (fun _ _ h1 => (but_votePoint (kw.le rfl) h1)) (but_mk_safety (kw.le rfl) (but_scanWords (kw.le rfl) h))) (but_foldl (fun _ _ h1 => (but_copyPoint (kw.le rfl) h1)) (but_mk_safety (kw.le rfl) (but_scanWords (kw.le rfl) h))))))))

theorem but_fenceTest {W : Nat} {s0 s : State} (kw : Within 0x10000 W) (h : But W s0 s) : But W s0 (fenceTest s) := by
  unfold fenceTest; exact (but_ite (but_updTrio (kw.le rfl) h) h)

theorem but_compareOutputs {W : Nat} {s0 s : State} (kw : Within 0x4004a7c822 W) (h : But W s0 s) : But W s0 (compareOutputs s) := by
  unfold compareOutputs; exact (but_ite h (by (try dsimp only); exact (but_ite (but_fenceTest (kw.le rfl) (but_ite (but_raise (kw.le rfl) (but_bump (kw.le rfl) (but_updTrio (kw.le rfl) (but_scanWords (kw.le rfl) h)))) (but_updTrio (kw.le rfl) (but_scanWords (kw.le rfl) h)))) (but_ite (but_giveUp (kw.le rfl) (but_fenceTest (kw.le rfl) (but_ite (but_raise (kw.le rfl) (but_bump (kw.le rfl) (but_updTrio (kw.le rfl) (but_scanWords (kw.le rfl) h)))) (but_updTrio (kw.le rfl) (but_scanWords (kw.le rfl) h))))) (but_ite (but_giveUp (kw.le rfl) (but_fenceTest (kw.le rfl) (but_ite (but_raise (kw.le rfl) (but_bump (kw.le rfl) (but_updTrio (kw.le rfl) (but_scanWords (kw.le rfl) h)))) (but_updTrio (kw.le rfl) (but_scanWords (kw.le rfl) h))))) (but_fenceTest (kw.le rfl) (but_ite (but_raise (kw.le rfl) (but_bump (kw.le rfl) (but_updTrio (kw.le rfl) (but_scanWords (kw.le rfl) h)))) (but_updTrio (kw.le rfl) (but_scanWords (kw.le rfl) h)))))))))

theorem but_execInputVote {s t : State} (e : execInputVote s = .next t) : But 0x6004938822 s t := by
  have h := But.self 0x6004938822 s
  have kw := Within.self 0x6004938822
  cases e; exact (but_voteInputs (kw.le rfl) h)

theorem but_execComparisonInstant {s t : State} (e : execComparisonInstant s = .next t) : But 0x4004a7c822 s t := by
  have h := But.self 0x4004a7c822 s
  have kw := Within.self 0x4004a7c822
  cases e; exact (but_compareOutputs (kw.le rfl) h)

theorem but_takeForce {W : Nat} {s0 s : State} {m : Fin 3} {f : ForceMsg} (kw : Within 0x4404018002 W) (h : But W s0 s) : But W s0 (takeForce m s f) := by
  unfold takeForce; exact (but_ite (by (try dsimp only); split; exacts [(but_forceChanged (kw.le rfl) (but_enterRemoval (kw.le rfl) h)), h]) (but_ite (but_updTrio (kw.le rfl) h) (by (try dsimp only); split; exacts [(but_updTrio (kw.le rfl) h), (but_ite (but_updTrio (kw.le rfl) h) (but_forceChanged (kw.le rfl) (but_enterForce (kw.le rfl) h)))])))

theorem but_noteRefused {W : Nat} {s0 s : State} {by_ : Fin 3} {p : BitVec 16} (kw : Within 0x4004000002 W) (h : But W s0 s) : But W s0 (noteRefused by_ p s) := by
  unfold noteRefused; exact (but_note (kw.le rfl) h)

theorem but_dropForce {W : Nat} {s0 s : State} {by_ : Fin 3} {p : BitVec 16} (kw : Within 0x4404008002 W) (h : But W s0 s) : But W s0 (dropForce by_ s p) := by
  unfold dropForce; exact (by (try dsimp only); split; exacts [h, (but_ite (but_noteRefused (kw.le rfl) (but_refreshForceInd (kw.le rfl) (but_putForce (kw.le rfl) h))) h)])

theorem but_partnerForces {W : Nat} {s0 s : State} (kw : Within 0x4404018002 W) (h : But W s0 s) : But W s0 (partnerForces s) := by
  unfold partnerForces; exact (but_ite h (but_foldl (fun _ _ h1 => (by (try dsimp only); split; exacts [(but_ite (but_foldl (fun _ _ h2 => (but_dropForce (kw.le rfl) h2)) (but_foldl (fun _ _ h2 => (but_takeForce (kw.le rfl) h2)) h1)) h1), h1])) (but_foldl (fun _ _ h1 => (but_noteRefused (kw.le rfl) h1)) h)))

theorem but_diagnose {W : Nat} {s0 s : State} {enginesPass : Bool} {loopReadsPass : Bool} (kw : Within 0x10000 W) (h : But W s0 s) : But W s0 (diagnose enginesPass loopReadsPass s) := by
  unfold diagnose; exact (by (try dsimp only); split; exacts [(but_ite (but_updTrio (kw.le rfl) h) h), h])

theorem but_settleDiagnosis {W : Nat} {s0 s : State} (kw : Within 0x4004a7c802 W) (h : But W s0 s) : But W s0 (settleDiagnosis s) := by
  unfold settleDiagnosis; exact (by (try dsimp only); split; exacts [h, (but_ite h (but_ite (but_giveUpWith (kw.le rfl) h) (but_ite (but_giveUpWith (kw.le rfl) h) h)))])

theorem but_sendRepair {W : Nat} {s0 s : State} {m : Fin 3} {t : Task} (kw : Within 0x4004810022 W) (h : But W s0 s) : But W s0 (sendRepair m s t) := by
  unfold sendRepair; exact (but_foldl (fun _ _ h1 => (but_queueTrio (kw.le rfl) h1)) (but_foldl (fun _ _ h1 => (but_scanSpan (kw.le rfl) h1)) h))

theorem but_ownRepairs {W : Nat} {s0 s : State} (kw : Within 0x4004a7c802 W) (h : But W s0 s) : But W s0 (ownRepairs s) := by
  unfold ownRepairs; exact (but_ite (but_updRun (kw.le rfl) h) (but_ite (but_giveUp (kw.le rfl) (but_updTrio (kw.le rfl) (but_updRun (kw.le rfl) h))) (but_updTrio (kw.le rfl) (but_updRun (kw.le rfl) h))))

theorem but_partnerRepairs {W : Nat} {s0 s : State} (kw : Within 0x6004910022 W) (h : But W s0 s) : But W s0 (partnerRepairs s) := by
  unfold partnerRepairs; exact (but_drainTrio (kw.le rfl) (but_foldl (fun _ _ h1 => (but_ite (but_foldl (fun _ _ h2 => (but_sendRepair (kw.le rfl) h2)) (but_updTrio (kw.le rfl) h1)) (but_updTrio (kw.le rfl) h1))) h))

theorem but_decideFences {W : Nat} {s0 s : State} (kw : Within 0x6004110002 W) (h : But W s0 s) : But W s0 (decideFences s) := by
  unfold decideFences; exact (but_foldl (fun _ _ h1 => (but_ite (but_driveFence (kw.le rfl) h1) h1)) (but_foldl (fun _ _ h1 => (by (try dsimp only); split; exacts [(but_ite (but_driveFence (kw.le rfl) h1) h1), h1])) h))

theorem but_judgeTest {W : Nat} {s0 s : State} (kw : Within 0x4004010002 W) (h : But W s0 s) : But W s0 (judgeTest s) := by
  unfold judgeTest; exact (but_foldl (fun _ _ h1 => (by (try dsimp only); split; exacts [h1, (but_ite (but_updTrio (kw.le rfl) h1) h1)])) (by (try dsimp only); split; exacts [h, (by (try dsimp only); split; exacts [h, (but_ite (but_raise (kw.le rfl) (but_updTrio (kw.le rfl) h)) (but_updTrio (kw.le rfl) h))])]))

theorem but_endRejoin {W : Nat} {s0 s : State} {code : Byte} (kw : Within 0x4004a7c802 W) (h : But W s0 s) : But W s0 (endRejoin code s) := by
  unfold endRejoin; exact (but_raise (kw.le rfl) (but_ite (but_stopController (kw.le rfl) (but_updTrio (kw.le rfl) h)) (but_updTrio (kw.le rfl) h)))

theorem but_copyAgain {W : Nat} {s0 s : State} (kw : Within 0x4004a7c802 W) (h : But W s0 s) : But W s0 (copyAgain s) := by
  unfold copyAgain; exact (but_ite (but_stopController (kw.le rfl) (but_updTrio (kw.le rfl) h)) h)

theorem but_rejoinAtD {W : Nat} {s0 s : State} {st : Option MemberStatus} {r : Roster} (kw : Within 0x4004a7c802 W) (h : But W s0 s) : But W s0 (rejoinAtD st r s) := by
  unfold rejoinAtD; exact (but_ite h (but_ite (but_endRejoin (kw.le rfl) h) (but_ite (but_endRejoin (kw.le rfl) h) (but_ite (but_ite (but_updTrio (kw.le rfl) h) (but_endRejoin (kw.le rfl) h)) (but_ite (but_updTrio (kw.le rfl) (but_copyAgain (kw.le rfl) h)) (by (try dsimp only); split; exacts [h, (but_ite (but_updTrio (kw.le rfl) h) h)]))))))

theorem but_abortTrimsNext {W : Nat} {s0 s : State} {r : Roster} (kw : Within 0x4004040002 W) (h : But W s0 s) : But W s0 (abortTrimsNext r s) := by
  unfold abortTrimsNext; exact (but_foldl (fun _ _ h1 => (but_ite (but_leaveTrim (kw.le rfl) (but_updField (kw.le rfl) h1)) h1)) h)

theorem but_decide_ {W : Nat} {s0 s : State} (kw : Within 0x6404b7c822 W) (h : But W s0 s) : But W s0 (decide_ s) := by
  unfold decide_; exact (but_ite h (but_partnerRepairs (kw.le rfl) (but_ownRepairs (kw.le rfl) (but_abortTrimsNext (kw.le rfl) (but_judgeTest (kw.le rfl) (but_updTrio (kw.le rfl) (but_rejoinAtD (kw.le rfl) (but_ite (but_giveUp (kw.le rfl) (but_ite (but_giveUp (kw.le rfl) (but_updTrio (kw.le rfl) (but_decideFences (kw.le rfl) (but_ite (but_giveUp (kw.le rfl) (but_foldl (fun _ _ h1 => (but_updPartner (kw.le rfl) h1)) (but_settleDiagnosis (kw.le rfl) (but_partnerForces (kw.le rfl) h)))) (but_foldl (fun _ _ h1 => (but_updPartner (kw.le rfl) h1)) (but_settleDiagnosis (kw.le rfl) (but_partnerForces (kw.le rfl) h))))))) (but_updTrio (kw.le rfl) (but_decideFences (kw.le rfl) (but_ite (but_giveUp (kw.le rfl) (but_foldl (fun _ _ h1 => (but_updPartner (kw.le rfl) h1)) (but_settleDiagnosis (kw.le rfl) (but_partnerForces (kw.le rfl) h)))) (but_foldl (fun _ _ h1 => (but_updPartner (kw.le rfl) h1)) (but_settleDiagnosis (kw.le rfl) (but_partnerForces (kw.le rfl) h)))))))) (but_ite (but_giveUp (kw.le rfl) (but_updTrio (kw.le rfl) (but_decideFences (kw.le rfl) (but_ite (but_giveUp (kw.le rfl) (but_foldl (fun _ _ h1 => (but_updPartner (kw.le rfl) h1)) (but_settleDiagnosis (kw.le rfl) (but_partnerForces (kw.le rfl) h)))) (but_foldl (fun _ _ h1 => (but_updPartner (kw.le rfl) h1)) (but_settleDiagnosis (kw.le rfl) (but_partnerForces (kw.le rfl) h))))))) (but_updTrio (kw.le rfl) (but_decideFences (kw.le rfl) (but_ite (but_giveUp (kw.le rfl) (but_foldl (fun _ _ h1 => (but_updPartner (kw.le rfl) h1)) (but_settleDiagnosis (kw.le rfl) (but_partnerForces (kw.le rfl) h)))) (but_foldl (fun _ _ h1 => (but_updPartner (kw.le rfl) h1)) (but_settleDiagnosis (kw.le rfl) (but_partnerForces (kw.le rfl) h)))))))))))))))

theorem but_exchangeMissing {W : Nat} {s0 s : State} {p : TrioPort} {kind : BitVec 4} (kw : Within 0x10002 W) (h : But W s0 s) : But W s0 (exchangeMissing p kind s) := by
  unfold exchangeMissing; exact (but_ite h (but_bump (kw.le rfl) (but_updPartner (kw.le rfl) h)))

theorem but_cmdGiveUp {W : Nat} {s0 s : State} (kw : Within 0x4004a7c802 W) (h : But W s0 s) : But W s0 (cmdGiveUp s) := by
  unfold cmdGiveUp; exact (but_ite (but_updTrio (kw.le rfl) h) (but_ite (but_updTrio (kw.le rfl) h) (but_ite (but_updTrio (kw.le rfl) h) (but_giveUp (kw.le rfl) (but_updTrio (kw.le rfl) h)))))

theorem but_execDiagnosis {s t : State} {enginesPass : Bool} {loopReadsPass : Bool} (e : execDiagnosis enginesPass loopReadsPass s = .next t) : But 0x10000 s t := by
  have h := But.self 0x10000 s
  have kw := Within.self 0x10000
  cases e; exact (but_diagnose (kw.le rfl) h)

theorem but_execExchangeMissing {s t : State} {p : TrioPort} {kind : BitVec 4} (e : execExchangeMissing p kind s = .next t) : But 0x10002 s t := by
  have h := But.self 0x10002 s
  have kw := Within.self 0x10002
  cases e; exact (but_exchangeMissing (kw.le rfl) h)

theorem but_execFenceTestPulseEnd {s t : State} (e : execFenceTestPulseEnd s = .next t) : But 0x10000 s t := by
  have h := But.self 0x10000 s
  have kw := Within.self 0x10000
  cases e; exact (but_updTrio (kw.le rfl) h)

theorem but_execFenceIn {s t : State} (e : execFenceIn s = .next t) : But 0x4004a7c802 s t := by
  have h := But.self 0x4004a7c802 s
  have kw := Within.self 0x4004a7c802
  cases e; exact (but_fenceActs (kw.le rfl) (but_updTrio (kw.le rfl) h))

theorem but_execFenceInNLow {s t : State} (e : execFenceInNLow s = .next t) : But 0x10000 s t := by
  have h := But.self 0x10000 s
  have kw := Within.self 0x10000
  cases e; exact (but_updTrio (kw.le rfl) h)

theorem but_execTrioGiveUp {s t : State} {q : Req} (e : execTrioGiveUp q s = .next t) : But 0x7004a7c802 s t := by
  have h := But.self 0x7004a7c802 s
  have kw := Within.self 0x7004a7c802
  cases e; exact (but_onPage (kw.le rfl) (fun _ h1 => (but_cmdGiveUp (kw.le rfl) h1)) h)

theorem but_execSoloWarn {s t : State} (e : execSoloWarn s = .next t) : But 0x4004000002 s t := by
  have h := But.self 0x4004000002 s
  have kw := Within.self 0x4004000002
  cases e; exact (but_ite (but_raise (kw.le rfl) h) h)

theorem but_execSoloExpired {s t : State} (e : execSoloExpired s = .next t) : But 0x4004a7c802 s t := by
  have h := But.self 0x4004a7c802 s
  have kw := Within.self 0x4004a7c802
  cases e; exact (but_ite (but_giveUp (kw.le rfl) h) h)

theorem but_cmdRejoin {W : Nat} {s0 s : State} (kw : Within 0x10000 W) (h : But W s0 s) : But W s0 (cmdRejoin s) := by
  unfold cmdRejoin; exact (but_ite (but_updTrio (kw.le rfl) h) (but_ite (but_updTrio (kw.le rfl) h) (but_ite (but_updTrio (kw.le rfl) h) (but_ite (but_updTrio (kw.le rfl) h) (but_ite (but_updTrio (kw.le rfl) h) (but_updTrio (kw.le rfl) (but_updTrio (kw.le rfl) h)))))))

theorem but_formWith {W : Nat} {s0 s : State} {ms : List (Fin 3)} (kw : Within 0x4204010002 W) (h : But W s0 s) : But W s0 (formWith ms s) := by
  unfold formWith; exact (but_raise (kw.le rfl) (but_noteConds (kw.le rfl) (but_updTrio (kw.le rfl) (but_mk_pwr (kw.le rfl) h))))

theorem but_proposeStart {W : Nat} {s0 s : State} (kw : Within 0x10000 W) (h : But W s0 s) : But W s0 (proposeStart s) := by
  unfold proposeStart; exact (but_ite (but_updTrio (kw.le rfl) h) h)

theorem but_formationEnd {W : Nat} {s0 s : State} (kw : Within 0x4204010002 W) (h : But W s0 s) : But W s0 (formationEnd s) := by
  unfold formationEnd; exact (but_ite h (but_proposeStart (kw.le rfl) (but_formWith (kw.le rfl) h)))

theorem but_takeStart {W : Nat} {s0 s : State} {m : Fin 3} {st : MemberStatus} (kw : Within 0x10000 W) (h : But W s0 s) : But W s0 (takeStart m st s) := by
  unfold takeStart; exact (by (try dsimp only); split; exacts [(but_updTrio (kw.le rfl) h), h])

theorem but_hearForming {W : Nat} {s0 s : State} {m : Fin 3} {st : MemberStatus} (kw : Within 0x4204018002 W) (h : But W s0 s) : But W s0 (hearForming m st s) := by
  unfold hearForming; exact (but_ite h (but_ite (but_ite (but_formWith (kw.le rfl) (but_updPartner (kw.le rfl) h)) (but_ite (but_cmdRejoin (kw.le rfl) (but_noteConds (kw.le rfl) (but_updRun (kw.le rfl) (but_updTrio (kw.le rfl) (but_mk_pwr (kw.le rfl) (but_updPartner (kw.le rfl) h)))))) (but_noteConds (kw.le rfl) (but_updRun (kw.le rfl) (but_updTrio (kw.le rfl) (but_mk_pwr (kw.le rfl) (but_updPartner (kw.le rfl) h))))))) (but_ite (but_formationEnd (kw.le rfl) (but_updPartner (kw.le rfl) h)) (but_updPartner (kw.le rfl) h))))

theorem but_hearEarly {W : Nat} {s0 s : State} {m : Fin 3} {st : MemberStatus} (kw : Within 0x4204018002 W) (h : But W s0 s) : But W s0 (hearEarly m st s) := by
  unfold hearEarly; exact (but_ite (but_takeStart (kw.le rfl) (but_ite (but_noteConds (kw.le rfl) (but_updTrio (kw.le rfl) (but_ite (but_hearForming (kw.le rfl) h) (but_updPartner (kw.le rfl) h)))) (but_ite (but_hearForming (kw.le rfl) h) (but_updPartner (kw.le rfl) h)))) (but_ite (but_noteConds (kw.le rfl) (but_updTrio (kw.le rfl) (but_ite (but_hearForming (kw.le rfl) h) (but_updPartner (kw.le rfl) h)))) (but_ite (but_hearForming (kw.le rfl) h) (but_updPartner (kw.le rfl) h))))

theorem but_announce {W : Nat} {s0 s : State} (kw : Within 0x6000110002 W) (h : But W s0 s) : But W s0 (announce s) := by
  unfold announce; exact (but_ite h (but_drainTrio (kw.le rfl) (but_queueStatus (kw.le rfl) (but_ite h (but_sendAlign (kw.le rfl) h)))))

theorem but_notePn {W : Nat} {s0 s : State} {p : TrioPort} {f : TrioFrame} (kw : Within 0x100000 W) (h : But W s0 s) : But W s0 (notePn p f s) := by
  unfold notePn; exact (but_ite h (but_ite (but_updPort (kw.le rfl) h) (but_updPort (kw.le rfl) h)))

theorem but_discardTrio {W : Nat} {s0 s : State} {p : TrioPort} {f : TrioFrame} (kw : Within 0x4004100002 W) (h : But W s0 s) : But W s0 (discardTrio p f s) := by
  unfold discardTrio; exact (but_ite (but_updPort (kw.le rfl) (but_bump (kw.le rfl) (but_bump (kw.le rfl) h))) (but_raise (kw.le rfl) (but_updPort (kw.le rfl) (but_bump (kw.le rfl) (but_bump (kw.le rfl) h)))))

theorem but_landBank {W : Nat} {s0 s : State} {p : TrioPort} {k : ℕ} {f : TrioFrame} {off : ℕ} {d : List Byte} (kw : Within 0x10000 W) (h : But W s0 s) : But W s0 (landBank p k f off d s) := by
  unfold landBank; exact (but_updTrio (kw.le rfl) h)

theorem but_noteFlits {W : Nat} {s0 s : State} {p : TrioPort} {k : ℕ} {g : TrioFrame} {f : State → State} (kk : Within 0x10002 W) (kf : ∀ x, But W s0 x → But W s0 (f x))
    (h : But W s0 s) : But W s0 (noteFlits p k g f s) := by
  unfold noteFlits; exact (but_ite (but_bump (kk.le rfl) (kf _ (but_updTrio (kk.le rfl) h))) (but_updTrio (kk.le rfl) h))

theorem but_landFlits {W : Nat} {s0 s : State} {p : TrioPort} {k : ℕ} {f : TrioFrame} (kw : Within 0x10000 W) (h : But W s0 s) : But W s0 (landFlits p k f s) := by
  unfold landFlits; exact (but_landBank (kw.le rfl) h)

theorem but_landExchange {W : Nat} {s0 s : State} {p : TrioPort} {k : ℕ} {f : TrioFrame} (kw : Within 0x10002 W) (h : But W s0 s) : But W s0 (landExchange p k f s) := by
  unfold landExchange; exact (but_ite h (but_ite (but_landFlits (kw.le rfl) h) (but_noteFlits (kw.le rfl) (fun _ h1 => h1) (but_landFlits (kw.le rfl) h))))

theorem but_landStatus {W : Nat} {s0 s : State} {p : TrioPort} {m : Fin 3} {f : TrioFrame} {st : MemberStatus} (kw : Within 0x4204018002 W) (h : But W s0 s) : But W s0 (landStatus p m f st s) := by
  unfold landStatus; exact (but_ite h (but_ite (but_ite (but_hearEarly (kw.le rfl) (but_landFlits (kw.le rfl) h)) (but_landFlits (kw.le rfl) h)) (but_ite (but_landFlits (kw.le rfl) h) (but_noteFlits (kw.le rfl) (fun _ h1 => (but_updPartner (kw.le rfl) h1)) (but_landFlits (kw.le rfl) h)))))

theorem but_landTime {W : Nat} {s0 s : State} {p : TrioPort} {d : List Byte} (kw : Within 0x10000 W) (h : But W s0 s) : But W s0 (landTime p d s) := by
  unfold landTime; exact (but_updTrio (kw.le rfl) h)

theorem but_holdAlign {W : Nat} {s0 s : State} {p : TrioPort} {m : Fin 3} {a : AlignData} (kw : Within 0x10010 W) (h : But W s0 s) : But W s0 (holdAlign p m a s) := by
  unfold holdAlign; exact (but_ite (but_updTb (kw.le rfl) (but_updPartner (kw.le rfl) h)) (but_updPartner (kw.le rfl) h))

theorem but_takeT {W : Nat} {s0 s : State} {m : Fin 3} {f : TrioFrame} (kw : Within 0x10000 W) (h : But W s0 s) : But W s0 (takeT m f s) := by
  unfold takeT; exact (but_ite (but_updTrio (kw.le rfl) h) h)

theorem but_landAlign {W : Nat} {s0 s : State} {p : TrioPort} {m : Fin 3} {f : TrioFrame} {a : AlignData} (kw : Within 0x10012 W) (h : But W s0 s) : But W s0 (landAlign p m f a s) := by
  unfold landAlign; exact (but_ite h (but_ite (but_ite (but_holdAlign (kw.le rfl) (but_takeT (kw.le rfl) (but_landFlits (kw.le rfl) h))) (but_takeT (kw.le rfl) (but_landFlits (kw.le rfl) h))) (but_ite (but_takeT (kw.le rfl) (but_landFlits (kw.le rfl) h)) (but_noteFlits (kw.le rfl) (fun _ h1 => (but_holdAlign (kw.le rfl) h1)) (but_takeT (kw.le rfl) (but_landFlits (kw.le rfl) h))))))

theorem but_storeAt {W : Nat} {s0 s : State} {a : Word} {d : List Byte} (kw : Within 0x820 W) (h : But W s0 s) : But W s0 (storeAt a d s) := by
  unfold storeAt; exact (but_ite (but_poolPut (kw.le rfl) h) (by (try dsimp only); split; exacts [(but_ite h (but_loopPut (kw.le rfl) h)), h]))

theorem but_landRepair {W : Nat} {s0 s : State} {p : TrioPort} {f : TrioFrame} {d : List Byte} (kw : Within 0x10000 W) (h : But W s0 s) : But W s0 (landRepair p f d s) := by
  unfold landRepair; exact (by (try dsimp only); split; exacts [h, (but_ite h (but_updTrio (kw.le rfl) h))])

theorem but_landCopy {W : Nat} {s0 s : State} {m : Fin 3} {bulk : Bool} {f : TrioFrame} {d : List Byte} (kw : Within 0x10820 W) (h : But W s0 s) : But W s0 (landCopy m bulk f d s) := by
  unfold landCopy; exact (but_ite h (but_ite (but_updTrio (kw.le rfl) (but_storeAt (kw.le rfl) h)) (but_storeAt (kw.le rfl) h)))

theorem but_landFence {W : Nat} {s0 s : State} {f : TrioFrame} (kw : Within 0x4004a7c802 W) (h : But W s0 s) : But W s0 (landFence f s) := by
  unfold landFence; exact (but_ite (but_fenceActs (kw.le rfl) h) h)

theorem but_trioReceive {W : Nat} {s0 s : State} {p : TrioPort} {f : TrioFrame} (kw : Within 0x4204b7c832 W) (h : But W s0 s) : But W s0 (trioReceive p f s) := by
  unfold trioReceive; exact (but_ite h (but_ite (but_notePn (kw.le rfl) (but_discardTrio (kw.le rfl) (but_bump (kw.le rfl) h))) (by (try dsimp only); split; exacts [(but_ite (but_landStatus (kw.le rfl) (but_notePn (kw.le rfl) (but_bump (kw.le rfl) h))) (but_notePn (kw.le rfl) (but_bump (kw.le rfl) h))), (but_ite (but_landAlign (kw.le rfl) (but_notePn (kw.le rfl) (but_bump (kw.le rfl) h))) (but_notePn (kw.le rfl) (but_bump (kw.le rfl) h))), (by (try dsimp only); split; exacts [(but_landFence (kw.le rfl) (but_notePn (kw.le rfl) (but_bump (kw.le rfl) h))), (but_landRepair (kw.le rfl) (but_notePn (kw.le rfl) (but_bump (kw.le rfl) h))), (but_landCopy (kw.le rfl) (but_notePn (kw.le rfl) (but_bump (kw.le rfl) h))), (but_landCopy (kw.le rfl) (but_notePn (kw.le rfl) (but_bump (kw.le rfl) h))), (but_landTime (kw.le rfl) (but_notePn (kw.le rfl) (but_bump (kw.le rfl) h))), (by (try dsimp only); split; exacts [(but_landExchange (kw.le rfl) (but_notePn (kw.le rfl) (but_bump (kw.le rfl) h))), (but_notePn (kw.le rfl) (but_bump (kw.le rfl) h))])])])))

theorem but_trioLink {W : Nat} {s0 s : State} {p : TrioPort} {up : Bool} (kw : Within 0x4004110002 W) (h : But W s0 s) : But W s0 (trioLink p up s) := by
  unfold trioLink; exact (but_ite h (but_raise (kw.le rfl) (but_noteConds (kw.le rfl) (but_updPort (kw.le rfl) (but_updTrio (kw.le rfl) h)))))

theorem but_rejoinTested {W : Nat} {s0 s : State} {pass : Bool} (kw : Within 0x4004a7c802 W) (h : But W s0 s) : But W s0 (rejoinTested pass s) := by
  unfold rejoinTested; exact (but_ite h (but_ite (but_updTrio (kw.le rfl) h) (but_endRejoin (kw.le rfl) h)))

theorem but_cmdAbortRejoin {W : Nat} {s0 s : State} (kw : Within 0x4004a7c802 W) (h : But W s0 s) : But W s0 (cmdAbortRejoin s) := by
  unfold cmdAbortRejoin; exact (but_ite (but_endRejoin (kw.le rfl) h) h)

theorem but_commitPoint {W : Nat} {s0 s : State} (kw : Within 0x4004a7c802 W) (h : But W s0 s) : But W s0 (commitPoint s) := by
  unfold commitPoint; exact (but_ite (but_endRejoin (kw.le rfl) (but_decideBanks (kw.le rfl) h)) (but_decideBanks (kw.le rfl) h))

theorem but_execTrioFrameReceive {s t : State} {p : TrioPort} {f : TrioFrame} (e : execTrioFrameReceive p f s = .next t) : But 0x4204b7c832 s t := by
  have h := But.self 0x4204b7c832 s
  have kw := Within.self 0x4204b7c832
  cases e; exact (but_trioReceive (kw.le rfl) h)

theorem but_execFenceFrameReceive {s t : State} {p : TrioPort} {f : TrioFrame} (e : execFenceFrameReceive p f s = .next t) : But 0x4204b7c832 s t := by
  have h := But.self 0x4204b7c832 s
  have kw := Within.self 0x4204b7c832
  cases e; exact (but_ite (but_trioReceive (kw.le rfl) h) h)

theorem but_execTrioPortDown {s t : State} {p : TrioPort} (e : execTrioPortDown p s = .next t) : But 0x4004110002 s t := by
  have h := But.self 0x4004110002 s
  have kw := Within.self 0x4004110002
  cases e; exact (but_trioLink (kw.le rfl) h)

theorem but_execTrioPortUp {s t : State} {p : TrioPort} (e : execTrioPortUp p s = .next t) : But 0x4004110002 s t := by
  have h := But.self 0x4004110002 s
  have kw := Within.self 0x4004110002
  cases e; exact (but_trioLink (kw.le rfl) h)

theorem but_execTrioRejoin {s t : State} {q : Req} (e : execTrioRejoin q s = .next t) : But 0x3000010002 s t := by
  have h := But.self 0x3000010002 s
  have kw := Within.self 0x3000010002
  cases e; exact (but_onPage (kw.le rfl) (fun _ h1 => (but_cmdRejoin (kw.le rfl) h1)) h)

theorem but_execTrioAbortRejoin {s t : State} {q : Req} (e : execTrioAbortRejoin q s = .next t) : But 0x7004a7c802 s t := by
  have h := But.self 0x7004a7c802 s
  have kw := Within.self 0x7004a7c802
  cases e; exact (but_onPage (kw.le rfl) (fun _ h1 => (but_cmdAbortRejoin (kw.le rfl) h1)) h)

theorem but_execRejoinSelftestEnd {s t : State} {pass : Bool} (e : execRejoinSelftestEnd pass s = .next t) : But 0x4004a7c802 s t := by
  have h := But.self 0x4004a7c802 s
  have kw := Within.self 0x4004a7c802
  cases e; exact (but_rejoinTested (kw.le rfl) h)

theorem but_execBulkCopyEnd {s t : State} (e : execBulkCopyEnd s = .next t) : But 0x10000 s t := by
  have h := But.self 0x10000 s
  have kw := Within.self 0x10000
  cases e; exact (but_ite (but_updTrio (kw.le rfl) h) h)

theorem but_execFormationWaitEnd {s t : State} (e : execFormationWaitEnd s = .next t) : But 0x4204010002 s t := by
  have h := But.self 0x4204010002 s
  have kw := Within.self 0x4204010002
  cases e; exact (but_formationEnd (kw.le rfl) h)

theorem but_execCommitPoint {s t : State} (e : execCommitPoint s = .next t) : But 0x4004a7c802 s t := by
  have h := But.self 0x4004a7c802 s
  have kw := Within.self 0x4004a7c802
  cases e; exact (but_commitPoint (kw.le rfl) h)

theorem but_updEth {W : Nat} {s0 s : State} {p : Fin 8} {f : EthPort → EthPort} (kw : Within 0x100000 W) (h : But W s0 s) : But W s0 (updEth p f s) := by
  unfold updEth; exact (but_updPort (kw.le rfl) h)

theorem but_gateOpen {W : Nat} {s0 s : State} {p : Fin 8} {entry : ℕ} (kw : Within 0x4004100012 W) (h : But W s0 s) : But W s0 (gateOpen p entry s) := by
  unfold gateOpen; exact (by (try dsimp only); split; exacts [(but_ite h (but_bump (kw.le rfl) (but_updEth (kw.le rfl) (but_reach (kw.le rfl) h)))), h])

theorem but_gateClose {W : Nat} {s0 s : State} {p : Fin 8} (kw : Within 0x4004000012 W) (h : But W s0 s) : But W s0 (gateClose p s) := by
  unfold gateClose; exact (but_elim h (fun _ => (but_reach (kw.le rfl) h)))

theorem but_queueFrame {W : Nat} {s0 s : State} {p : Fin 8} {f : QFrame} (kw : Within 0x100000 W) (h : But W s0 s) : But W s0 (queueFrame p f s) := by
  unfold queueFrame; exact (but_updEth (kw.le rfl) h)

theorem but_mk_sram {W : Nat} {s0 x : State} {sram'} (kw : Within 0x1000 W) (h : But W s0 x) :
    But W s0 (State.mk x.part x.hdrs x.latches x.heldLow x.tb x.crests x.hub x.flitFails x.packets x.nextPacket x.opened x.pool sram' x.staged x.sched x.run x.trio x.safety x.field x.panel x.ports x.cans x.uarts x.super x.mail x.host x.recorder x.historian x.otp x.store x.flash x.sec x.upd x.pwr x.forceInd x.tapReset x.resp x.out x.free x.pending) :=
  h.put kw fun c hc => by cases c <;> first | rfl | exact absurd hc (by decide)

theorem but_returnTx {W : Nat} {s0 s : State} {p : Fin 8} {i : BitVec 12} {err : Bool} (kw : Within 0x1000 W) (h : But W s0 s) : But W s0 (returnTx p i err s) := by
  unfold returnTx; exact (but_mk_sram (kw.le rfl) h)

theorem but_advanceTx {W : Nat} {s0 s : State} {p : Fin 8} (kw : Within 0x100000 W) (h : But W s0 s) : But W s0 (advanceTx p s) := by
  unfold advanceTx; exact (but_updEth (kw.le rfl) h)

theorem but_stampFrames {W : Nat} {s0 s : State} {f : QFrame} (kw : Within 0x100000 W) (h : But W s0 s) : But W s0 (stampFrames f s) := by
  unfold stampFrames; exact (but_ite (but_mk_ports (kw.le rfl) h) h)

theorem but_startFrame {W : Nat} {s0 s : State} {p : Fin 8} (kw : Within 0x2000100000 W) (h : But W s0 s) : But W s0 (startFrame p s) := by
  unfold startFrame; exact (but_ite h (by (try dsimp only); split; exacts [h, (but_send (kw.le rfl) (but_updEth (kw.le rfl) (but_stampFrames (kw.le rfl) h)))]))

theorem but_frameSent {W : Nat} {s0 s : State} {p : Fin 8} (kw : Within 0x4004101002 W) (h : But W s0 s) : But W s0 (frameSent p s) := by
  unfold frameSent; exact (by (try dsimp only); split; exacts [h, (by (try dsimp only); split; exacts [(but_advanceTx (kw.le rfl) (but_returnTx (kw.le rfl) (but_ite (but_raise (kw.le rfl) (but_updEth (kw.le rfl) (but_bump (kw.le rfl) (but_updEth (kw.le rfl) h)))) (but_bump (kw.le rfl) (but_updEth (kw.le rfl) h))))), (but_ite (but_raise (kw.le rfl) (but_updEth (kw.le rfl) (but_bump (kw.le rfl) (but_updEth (kw.le rfl) h)))) (but_bump (kw.le rfl) (but_updEth (kw.le rfl) h)))])])

theorem but_takeTx {W : Nat} {s0 s : State} {p : Fin 8} {i : BitVec 12} (kw : Within 0x4004101002 W) (h : But W s0 s) : But W s0 (takeTx p s i) := by
  unfold takeTx; exact (but_ite (but_returnTx (kw.le rfl) (but_updEth (kw.le rfl) h)) (but_ite (but_raise (kw.le rfl) (but_returnTx (kw.le rfl) (but_updEth (kw.le rfl) h))) (but_ite (but_updEth (kw.le rfl) (but_updEth (kw.le rfl) (but_updEth (kw.le rfl) h))) (but_updEth (kw.le rfl) h))))

theorem but_writeTxTail {W : Nat} {s0 s : State} {p : Fin 8} {v : BitVec 12} (kw : Within 0x4004101002 W) (h : But W s0 s) : But W s0 (writeTxTail p v s) := by
  unfold writeTxTail; exact (but_ite (but_updEth (kw.le rfl) h) (but_advanceTx (kw.le rfl) (but_foldl (fun _ _ h1 => (but_takeTx (kw.le rfl) h1)) (but_updEth (kw.le rfl) h))))

theorem but_noteReceipt {W : Nat} {s0 s : State} {p : Fin 8} {f : EthFrame} (kw : Within 0x100000 W) (h : But W s0 s) : But W s0 (noteReceipt p f s) := by
  unfold noteReceipt; exact (by (try dsimp only); split; exacts [(but_ite (but_updEth (kw.le rfl) h) h), h])

theorem but_deliverRx {W : Nat} {s0 s : State} {p : Fin 8} {f : EthFrame} (kw : Within 0x101002 W) (h : But W s0 s) : But W s0 (deliverRx p f s) := by
  unfold deliverRx; exact (but_ite (but_updEth (kw.le rfl) (but_bump (kw.le rfl) h)) (but_updEth (kw.le rfl) (but_mk_sram (kw.le rfl) h)))

theorem but_firmwareFrame {W : Nat} {s0 s : State} {p : Fin 8} {f : EthFrame} (kw : Within 0x101002 W) (h : But W s0 s) : But W s0 (firmwareFrame p f s) := by
  unfold firmwareFrame; exact (but_ite (but_updEth (kw.le rfl) (but_bump (kw.le rfl) h)) (but_ite (but_bump (kw.le rfl) h) (by (try dsimp only); split; exacts [(but_deliverRx (kw.le rfl) (but_noteReceipt (kw.le rfl) h)), (but_ite (but_updEth (kw.le rfl) (but_bump (kw.le rfl) (but_noteReceipt (kw.le rfl) h))) (but_deliverRx (kw.le rfl) (but_updEth (kw.le rfl) (but_noteReceipt (kw.le rfl) h))))])))

theorem but_writeRxTail {W : Nat} {s0 s : State} {p : Fin 8} {v : BitVec 12} (kw : Within 0x100000 W) (h : But W s0 s) : But W s0 (writeRxTail p v s) := by
  unfold writeRxTail; exact (but_updEth (kw.le rfl) h)

theorem but_linkChange {W : Nat} {s0 s : State} {p : Fin 8} {up : Bool} (kw : Within 0x4004100002 W) (h : But W s0 s) : But W s0 (linkChange p up s) := by
  unfold linkChange; exact (but_noteConds (kw.le rfl) (but_updEth (kw.le rfl) h))

theorem but_cmdRotate {W : Nat} {s0 s : State} {p : TrioPort} (kw : Within 0x100000 W) (h : But W s0 s) : But W s0 (cmdRotate p s) := by
  unfold cmdRotate; exact (but_ite (but_updPort (kw.le rfl) h) (but_ite (but_updPort (kw.le rfl) h) (but_ite (but_updPort (kw.le rfl) h) (but_updPort (kw.le rfl) (but_updPort (kw.le rfl) h)))))

theorem but_takeNextKey {W : Nat} {s0 s : State} {p : TrioPort} (kw : Within 0x60100000 W) (h : But W s0 s) : But W s0 (takeNextKey p s) := by
  unfold takeNextKey; exact (by (try dsimp only); split; exacts [(but_updPort (kw.le rfl) (but_updStore (kw.le rfl) h)), h])

theorem but_rotateKey {W : Nat} {s0 s : State} {p : TrioPort} (kw : Within 0x60100000 W) (h : But W s0 s) : But W s0 (rotateKey p s) := by
  unfold rotateKey; exact (by (try dsimp only); split; exacts [(but_ite h (but_updPort (kw.le rfl) (but_takeNextKey (kw.le rfl) h))), h])

theorem but_ageKeys {W : Nat} {s0 s : State} (kw : Within 0x100000 W) (h : But W s0 s) : But W s0 (ageKeys s) := by
  unfold ageKeys; exact (but_mk_ports (kw.le rfl) h)

theorem but_endOverlap {W : Nat} {s0 s : State} {p : TrioPort} (kw : Within 0x4004100012 W) (h : But W s0 s) : But W s0 (endOverlap p s) := by
  unfold endOverlap; exact (by (try dsimp only); split; exacts [(but_ite h (but_updPort (kw.le rfl) (but_ite (but_reach (kw.le rfl) h) h))), h])

theorem but_execEthFrameTransmitStart {s t : State} {port : Fin 8} (e : execEthFrameTransmitStart port s = .next t) : But 0x2000100000 s t := by
  have h := But.self 0x2000100000 s
  have kw := Within.self 0x2000100000
  cases e; exact (but_startFrame (kw.le rfl) h)

theorem but_execEthFrameSent {s t : State} {port : Fin 8} (e : execEthFrameSent port s = .next t) : But 0x4004101002 s t := by
  have h := But.self 0x4004101002 s
  have kw := Within.self 0x4004101002
  cases e; exact (but_frameSent (kw.le rfl) h)

theorem but_execGateWindowOpen {s t : State} {port : Fin 8} {entry : ℕ} (e : execGateWindowOpen port entry s = .next t) : But 0x4004100012 s t := by
  have h := But.self 0x4004100012 s
  have kw := Within.self 0x4004100012
  cases e; exact (but_gateOpen (kw.le rfl) h)

theorem but_execGateWindowClose {s t : State} {port : Fin 8} (e : execGateWindowClose port s = .next t) : But 0x4004000012 s t := by
  have h := But.self 0x4004000012 s
  have kw := Within.self 0x4004000012
  cases e; exact (but_gateClose (kw.le rfl) h)

theorem but_execEthTxqTailWrite {s t : State} {q : Req} {port : Fin 8} {val : BitVec 12} (e : execEthTxqTailWrite q port val s = .next t) : But 0x7004101002 s t := by
  have h := But.self 0x7004101002 s
  have kw := Within.self 0x7004101002
  cases e; exact (but_onPage (kw.le rfl) (fun _ h1 => (but_writeTxTail (kw.le rfl) h1)) h)

theorem but_execEthRxqTailWrite {s t : State} {q : Req} {port : Fin 8} {val : BitVec 12} (e : execEthRxqTailWrite q port val s = .next t) : But 0x3000100002 s t := by
  have h := But.self 0x3000100002 s
  have kw := Within.self 0x3000100002
  cases e; exact (but_onPage (kw.le rfl) (fun _ h1 => (but_writeRxTail (kw.le rfl) h1)) h)

theorem but_execEthLinkChange {s t : State} {port : Fin 8} {up : Bool} (e : execEthLinkChange port up s = .next t) : But 0x4004100002 s t := by
  have h := But.self 0x4004100002 s
  have kw := Within.self 0x4004100002
  cases e; exact (but_linkChange (kw.le rfl) h)

theorem but_execTrpRotate {s t : State} {q : Req} {p : TrioPort} (e : execTrpRotate q p s = .next t) : But 0x3000100002 s t := by
  have h := But.self 0x3000100002 s
  have kw := Within.self 0x3000100002
  cases e; exact (but_onPage (kw.le rfl) (fun _ h1 => (but_cmdRotate (kw.le rfl) h1)) h)

theorem but_execKeyRotateEffect {s t : State} {p : TrioPort} (e : execKeyRotateEffect p s = .next t) : But 0x60100000 s t := by
  have h := But.self 0x60100000 s
  have kw := Within.self 0x60100000
  cases e; exact (but_rotateKey (kw.le rfl) h)

theorem but_execKeyOverlapEnd {s t : State} {p : TrioPort} (e : execKeyOverlapEnd p s = .next t) : But 0x4004100012 s t := by
  have h := But.self 0x4004100012 s
  have kw := Within.self 0x4004100012
  cases e; exact (but_endOverlap (kw.le rfl) h)

theorem but_updStation {W : Nat} {s0 s : State} {n : Fin 256} {f : StationRt → StationRt} (kw : Within 0x8000 W) (h : But W s0 s) : But W s0 (updStation n f s) := by
  unfold updStation; exact (but_updRun (kw.le rfl) h)

theorem but_keacoReceive {W : Nat} {s0 s : State} {p : Fin 8} {f : EthFrame} (kw : Within 0x8000 W) (h : But W s0 s) : But W s0 (keacoReceive p f s) := by
  unfold keacoReceive; exact (by (try dsimp only); split; exacts [h, (but_ite h (but_updStation (kw.le rfl) h))])

theorem but_callErrorTask {W : Nat} {s0 s : State} {ten : BitVec 3} {n : Fin 256} {reason : BitVec 4} (kw : Within 0x4004008002 W) (h : But W s0 s) : But W s0 (callErrorTask ten n reason s) := by
  unfold callErrorTask; exact (but_ite (but_updRun (kw.le rfl) h) (but_note (kw.le rfl) (but_updRun (kw.le rfl) h)))

theorem but_deliverCalls {W : Nat} {s0 s : State} {x : BitVec 3 × ℕ} (kw : Within 0x8800 W) (h : But W s0 s) : But W s0 (deliverCalls s x) := by
  unfold deliverCalls; exact (but_updRun (kw.le rfl) (but_updPool (kw.le rfl) h))

theorem but_deliverAllCalls {W : Nat} {s0 s : State} (kw : Within 0x8800 W) (h : But W s0 s) : But W s0 (deliverAllCalls s) := by
  unfold deliverAllCalls; exact (but_ite (but_foldl (fun _ _ h1 => (but_deliverCalls (kw.le rfl) h1)) h) (but_updRun (kw.le rfl) h))

theorem but_substPoint {W : Nat} {s0 s : State} {n : Fin 256} {x : Place × Subst} (kw : Within 0x4000008000 W) (h : But W s0 s) : But W s0 (substPoint n s x) := by
  unfold substPoint; exact (by (try dsimp only [drawFree]); exact (but_updStation (kw.le rfl) (but_mk_free (kw.le rfl) h)))

theorem but_substitute {W : Nat} {s0 s : State} {c : StationCfg} (kw : Within 0x4000008000 W) (h : But W s0 s) : But W s0 (substitute c s) := by
  unfold substitute; exact (but_foldl (fun _ _ h1 => (but_substPoint (kw.le rfl) h1)) (but_updStation (kw.le rfl) h))

theorem but_takeValues {W : Nat} {s0 s : State} {c : StationCfg} {d : List Byte} (kw : Within 0x8000 W) (h : But W s0 s) : But W s0 (takeValues c d s) := by
  unfold takeValues; exact (but_updStation (kw.le rfl) h)

theorem but_scanStep {W : Nat} {s0 s : State} {c : StationCfg} {got : Option (List Byte)} (kw : Within 0x4004008002 W) (h : But W s0 s) : But W s0 (scanStep c got s) := by
  unfold scanStep; exact (by (try dsimp only); split; exacts [(but_ite (but_takeValues (kw.le rfl) (but_updStation (kw.le rfl) h)) (but_ite (but_callErrorTask (kw.le rfl) (but_raise (kw.le rfl) (but_takeValues (kw.le rfl) (but_updStation (kw.le rfl) (but_updStation (kw.le rfl) (but_updStation (kw.le rfl) h)))))) (but_substitute (kw.le rfl) (but_updStation (kw.le rfl) (but_updStation (kw.le rfl) h))))), (but_ite (but_substitute (kw.le rfl) (but_updStation (kw.le rfl) h)) (but_ite (but_callErrorTask (kw.le rfl) (but_raise (kw.le rfl) (but_substitute (kw.le rfl) (but_updStation (kw.le rfl) (but_updStation (kw.le rfl) h))))) (but_updStation (kw.le rfl) h)))])

theorem but_stationScan {W : Nat} {s0 s : State} {n : Fin 256} (kw : Within 0x4004008002 W) (h : But W s0 s) : But W s0 (stationScan n s) := by
  unfold stationScan; exact (by (try dsimp only); split; exacts [h, (but_updStation (kw.le rfl) (but_scanStep (kw.le rfl) (but_updStation (kw.le rfl) (but_bump (kw.le rfl) h))))])

theorem but_queueKeaco {W : Nat} {s0 s : State} {held : Bool} {n : Fin 256} (kw : Within 0x108000 W) (h : But W s0 s) : But W s0 (queueKeaco held n s) := by
  unfold queueKeaco; exact (by (try dsimp only); split; exacts [h, (but_ite h (but_queueFrame (kw.le rfl) (but_queueFrame (kw.le rfl) (but_updStation (kw.le rfl) h))))])

theorem but_keacoArrives {W : Nat} {s0 s : State} {p : Fin 8} {f : EthFrame} (kw : Within 0x108002 W) (h : But W s0 s) : But W s0 (keacoArrives p f s) := by
  unfold keacoArrives; exact (but_ite h (but_ite (but_bump (kw.le rfl) (but_bump (kw.le rfl) h)) (but_ite (but_updEth (kw.le rfl) (but_bump (kw.le rfl) (but_bump (kw.le rfl) h))) (but_keacoReceive (kw.le rfl) (but_bump (kw.le rfl) h)))))

theorem but_execKeacoFrameReceive {s t : State} {port : Fin 8} {f : EthFrame} (e : execKeacoFrameReceive port f s = .next t) : But 0x108002 s t := by
  have h := But.self 0x108002 s
  have kw := Within.self 0x108002
  cases e; exact (but_keacoArrives (kw.le rfl) h)

theorem but_updSafety {W : Nat} {s0 s : State} {f : Safety → Safety} (kw : Within 0x20000 W) (h : But W s0 s) : But W s0 (updSafety f s) := by
  unfold updSafety; exact (but_mk_safety (kw.le rfl) h)

theorem but_takeSeal {W : Nat} {s0 s : State} (kw : Within 0x4404038002 W) (h : But W s0 s) : But W s0 (takeSeal s) := by
  unfold takeSeal; exact (but_ite h (but_ite (but_ite (but_raise (kw.le rfl) (but_updSafety (kw.le rfl) h)) (but_updSafety (kw.le rfl) h)) (but_sealRemovesForces (kw.le rfl) (but_ite (but_raise (kw.le rfl) (but_updSafety (kw.le rfl) h)) (but_updSafety (kw.le rfl) h)))))

theorem but_sealMs {W : Nat} {s0 s : State} (kw : Within 0x6404178002 W) (h : But W s0 s) : But W s0 (sealMs s) := by
  unfold sealMs; exact (but_ite h (but_announce (kw.le rfl) (but_takeSeal (kw.le rfl) (but_ite (but_latchDi (kw.le rfl) h) h))))

theorem but_startFuncs {W : Nat} {s0 s : State} (kw : Within 0x20000 W) (h : But W s0 s) : But W s0 (startFuncs s) := by
  unfold startFuncs; exact (but_foldl (fun _ _ h1 => (but_updFunc (kw.le rfl) h1)) h)

theorem but_enterSafeHold {W : Nat} {s0 s : State} (kw : Within 0x4004068002 W) (h : But W s0 s) : But W s0 (enterSafeHold s) := by
  unfold enterSafeHold; exact (by (try dsimp only); split; exacts [h, (but_note (kw.le rfl) (but_safeOutputs (kw.le rfl) (but_startFuncs (kw.le rfl) (but_updField (kw.le rfl) (but_updRun (kw.le rfl) (but_updSafety (kw.le rfl) h))))))])

theorem but_becomeReady {W : Nat} {s0 s : State} (kw : Within 0x200010000 W) (h : But W s0 s) : But W s0 (becomeReady s) := by
  unfold becomeReady; exact (but_updTrio (kw.le rfl) (but_mk_pwr (kw.le rfl) h))

theorem but_leaveSafeHold {W : Nat} {s0 s : State} (kw : Within 0x4204038002 W) (h : But W s0 s) : But W s0 (leaveSafeHold s) := by
  unfold leaveSafeHold; exact (but_ite (but_note (kw.le rfl) (but_startFuncs (kw.le rfl) (but_updRun (kw.le rfl) (but_becomeReady (kw.le rfl) (but_updSafety (kw.le rfl) h))))) h)

theorem but_judgeOutputs {W : Nat} {s0 s : State} (kw : Within 0x20000 W) (h : But W s0 s) : But W s0 (judgeOutputs s) := by
  unfold judgeOutputs; exact (but_updSafety (kw.le rfl) h)

theorem but_decideReset {W : Nat} {s0 s : State} {d : ℕ} {bad : Bool} {c : FuncCfg} (kw : Within 0x4004820002 W) (h : But W s0 s) : But W s0 (decideReset d bad s c) := by
  unfold decideReset; exact (but_ite (but_setFunc (kw.le rfl) (but_updFunc (kw.le rfl) (but_raise (kw.le rfl) (but_updSafety (kw.le rfl) h)))) (but_raise (kw.le rfl) (but_updSafety (kw.le rfl) h)))

theorem but_endPress {W : Nat} {s0 s : State} {p : BitVec 16} {d : ℕ} {bad : Bool} (kw : Within 0x4004820002 W) (h : But W s0 s) : But W s0 (endPress p d bad s) := by
  unfold endPress; exact (but_foldl (fun _ _ h1 => (but_decideReset (kw.le rfl) h1)) h)

theorem but_watchReset {W : Nat} {s0 s : State} {p : BitVec 16} (kw : Within 0x4004820002 W) (h : But W s0 s) : But W s0 (watchReset s p) := by
  unfold watchReset; exact (by (try dsimp only); split; exacts [h, (by (try dsimp only); split; exacts [(but_ite (but_updSafety (kw.le rfl) (but_updSafety (kw.le rfl) h)) (but_endPress (kw.le rfl) (but_updSafety (kw.le rfl) (but_updSafety (kw.le rfl) h)))), (but_ite (but_updSafety (kw.le rfl) (but_updSafety (kw.le rfl) h)) (but_updSafety (kw.le rfl) h))])])

theorem but_holdEnds {W : Nat} {s0 s : State} {c : FuncCfg} (kw : Within 0x4004820002 W) (h : But W s0 s) : But W s0 (holdEnds c s) := by
  unfold holdEnds; exact (but_ite (but_setFunc (kw.le rfl) h) h)

theorem but_reacts {W : Nat} {s0 s : State} {c : FuncCfg} {k : BitVec 4} (kw : Within 0x4004820002 W) (h : But W s0 s) : But W s0 (reacts c k s) := by
  unfold reacts; exact (but_ite (but_setFunc (kw.le rfl) h) (but_updFunc (kw.le rfl) (but_setFunc (kw.le rfl) h)))

theorem but_scanFunc {W : Nat} {s0 s : State} {c : FuncCfg} (kw : Within 0x4004820002 W) (h : But W s0 s) : But W s0 (scanFunc s c) := by
  unfold scanFunc; exact (by (try dsimp only); split; exacts [(by (try dsimp only); split; exacts [(but_updFunc (kw.le rfl) h), (but_reacts (kw.le rfl) (but_updFunc (kw.le rfl) h))]), (but_ite (but_setFunc (kw.le rfl) (but_updFunc (kw.le rfl) (but_updFunc (kw.le rfl) h))) (but_holdEnds (kw.le rfl) (but_updFunc (kw.le rfl) (but_updFunc (kw.le rfl) h)))), (but_ite (but_setFunc (kw.le rfl) (but_updFunc (kw.le rfl) h)) (but_updFunc (kw.le rfl) h)), (but_updFunc (kw.le rfl) h)])

theorem but_driveFunc {W : Nat} {s0 s : State} {c : FuncCfg} (kw : Within 0x800 W) (h : But W s0 s) : But W s0 (driveFunc s c) := by
  unfold driveFunc; exact (by (try dsimp only); split; exacts [h, (but_foldl (fun _ _ h1 => (but_updPool (kw.le rfl) h1)) h), (but_foldl (fun _ _ h1 => (but_updPool (kw.le rfl) h1)) h), (but_foldl (fun _ _ h1 => (but_updPool (kw.le rfl) h1)) h)])

theorem but_forceOutputs {W : Nat} {s0 s : State} (kw : Within 0x800 W) (h : But W s0 s) : But W s0 (forceOutputs s) := by
  unfold forceOutputs; exact (but_foldl (fun _ _ h1 => (but_elim h1 (fun _ => (but_updPool (kw.le rfl) h1)))) h)

theorem but_stoppedSafe {W : Nat} {s0 s : State} (kw : Within 0x800 W) (h : But W s0 s) : But W s0 (stoppedSafe s) := by
  unfold stoppedSafe; exact (but_foldl (fun _ _ h1 => (but_ite (but_updPool (kw.le rfl) h1) h1)) h)

theorem but_closeRound {W : Nat} {s0 s : State} (kw : Within 0x6004930822 W) (h : But W s0 s) : But W s0 (closeRound s) := by
  unfold closeRound; exact (but_ite h (but_forwardChanges (kw.le rfl) (but_foldl (fun _ _ h1 => (but_driveFunc (kw.le rfl) h1)) (but_stoppedSafe (kw.le rfl) (but_foldl (fun _ _ h1 => (but_scanFunc (kw.le rfl) h1)) (but_foldl (fun _ _ h1 => (but_watchReset (kw.le rfl) h1)) (but_forceOutputs (kw.le rfl) (but_scanWords (kw.le rfl) h))))))))

theorem but_lateCause {W : Nat} {s0 s : State} {c : FuncCfg} (kw : Within 0x4004820802 W) (h : But W s0 s) : But W s0 (lateCause s c) := by
  unfold lateCause; exact (but_driveFunc (kw.le rfl) (by (try dsimp only); split; exacts [(but_reacts (kw.le rfl) (but_updFunc (kw.le rfl) h)), (but_updFunc (kw.le rfl) (but_updFunc (kw.le rfl) h)), (but_updFunc (kw.le rfl) h), (but_updFunc (kw.le rfl) h)]))

theorem but_lateReactions {W : Nat} {s0 s : State} {tasks : List (BitVec 3 × BitVec 8)} (kw : Within 0x4004820802 W) (h : But W s0 s) : But W s0 (lateReactions tasks s) := by
  unfold lateReactions; exact (but_foldl (fun _ _ h1 => (but_lateCause (kw.le rfl) h1)) h)

theorem but_noteCommitted {W : Nat} {s0 s : State} {which : OutPoint → Bool} (kw : Within 0x8000 W) (h : But W s0 s) : But W s0 (noteCommitted which s) := by
  unfold noteCommitted; exact (but_updRun (kw.le rfl) h)

theorem but_stoppedHolds {W : Nat} {s0 s : State} (kw : Within 0x4004860002 W) (h : But W s0 s) : But W s0 (stoppedHolds s) := by
  unfold stoppedHolds; exact (but_ite h (but_ite (but_foldl (fun _ _ h1 => (but_setFunc (kw.le rfl) h1)) h) (but_safeOutputs (kw.le rfl) (but_foldl (fun _ _ h1 => (but_setFunc (kw.le rfl) h1)) h))))

theorem but_updConn {W : Nat} {s0 s : State} {n : Fin 256} {f : ConnRt → ConnRt} (kw : Within 0x20000 W) (h : But W s0 s) : But W s0 (updConn n f s) := by
  unfold updConn; exact (but_updSafety (kw.le rfl) h)

theorem but_setConn {W : Nat} {s0 s : State} {c : ConnCfg} {new : ConnState} (kw : Within 0x4004020002 W) (h : But W s0 s) : But W s0 (setConn c new s) := by
  unfold setConn; exact (but_ite h (but_ite (but_raise (kw.le rfl) (but_raise (kw.le rfl) (but_updConn (kw.le rfl) h))) (but_raise (kw.le rfl) (but_updConn (kw.le rfl) h))))

theorem but_connReaction {W : Nat} {s0 s : State} {c : ConnCfg} (kw : Within 0x4004020002 W) (h : But W s0 s) : But W s0 (connReaction c s) := by
  unfold connReaction; exact (but_setConn (kw.le rfl) (but_updConn (kw.le rfl) h))

theorem but_acceptPair {W : Nat} {s0 s : State} {c : ConnCfg} {seq : Word} {bs : List Byte} {lan : Option (BitVec 2)} (kw : Within 0x4004020002 W) (h : But W s0 s) : But W s0 (acceptPair c seq bs lan s) := by
  unfold acceptPair; exact (but_ite (but_setConn (kw.le rfl) (but_bump (kw.le rfl) (but_updConn (kw.le rfl) h))) (but_updConn (kw.le rfl) (but_setConn (kw.le rfl) (but_bump (kw.le rfl) (but_updConn (kw.le rfl) h)))))

theorem but_discardCopy {W : Nat} {s0 s : State} {c : ConnCfg} (kw : Within 0x20002 W) (h : But W s0 s) : But W s0 (discardCopy c s) := by
  unfold discardCopy; exact (but_bump (kw.le rfl) (but_updConn (kw.le rfl) h))

theorem but_pairCopy {W : Nat} {s0 s : State} {c : ConnCfg} {onB : Bool} {seq : Word} {d : List Byte} (kw : Within 0x4004020002 W) (h : But W s0 s) : But W s0 (pairCopy c onB seq d s) := by
  unfold pairCopy; exact (by (try dsimp only); split; exacts [(but_updConn (kw.le rfl) h), (but_ite (but_discardCopy (kw.le rfl) h) (but_ite (but_acceptPair (kw.le rfl) (but_updConn (kw.le rfl) h)) (but_connReaction (kw.le rfl) (but_updConn (kw.le rfl) (but_updConn (kw.le rfl) h)))))])

theorem but_connCopy {W : Nat} {s0 s : State} {c : ConnCfg} {onB : Bool} {d : List Byte} (kw : Within 0x4004020002 W) (h : But W s0 s) : But W s0 (connCopy c onB d s) := by
  unfold connCopy; exact (but_ite (but_discardCopy (kw.le rfl) h) (but_ite (but_pairCopy (kw.le rfl) h) (but_ite (but_bump (kw.le rfl) (but_updConn (kw.le rfl) h)) (but_discardCopy (kw.le rfl) h))))

theorem but_safetyReceive {W : Nat} {s0 s : State} {p : Fin 8} {f : EthFrame} (kw : Within 0x4004020002 W) (h : But W s0 s) : But W s0 (safetyReceive p f s) := by
  unfold safetyReceive; exact (but_ite h (by (try dsimp only); split; exacts [(but_connCopy (kw.le rfl) h), (but_bump (kw.le rfl) h)]))

theorem but_pairEnds {W : Nat} {s0 s : State} {n : Fin 256} (kw : Within 0x4004020002 W) (h : But W s0 s) : But W s0 (pairEnds n s) := by
  unfold pairEnds; exact (by (try dsimp only); split; exacts [(but_acceptPair (kw.le rfl) (but_updConn (kw.le rfl) h)), h])

theorem but_connValues {W : Nat} {s0 s : State} {c : ConnCfg} (kw : Within 0x4000000800 W) (h : But W s0 s) : But W s0 (connValues c s) := by
  unfold connValues; exact (but_ite (but_foldl (fun _ _ h1 => (but_ite h1 (but_updPool (kw.le rfl) h1))) (but_updPool (kw.le rfl) h)) (but_foldl (fun _ _ h1 => (but_applySubst (kw.le rfl) h1)) h))

theorem but_connScan {W : Nat} {s0 s : State} {c : ConnCfg} (kw : Within 0x4004020802 W) (h : But W s0 s) : But W s0 (connScan s c) := by
  unfold connScan; exact (but_connValues (kw.le rfl) (by (try dsimp only); split; exacts [(but_updConn (kw.le rfl) h), (but_ite (but_connReaction (kw.le rfl) h) h)]))

theorem but_scanConns {W : Nat} {s0 s : State} (kw : Within 0x4004020802 W) (h : But W s0 s) : But W s0 (scanConns s) := by
  unfold scanConns; exact (but_foldl (fun _ _ h1 => (but_connScan (kw.le rfl) h1)) h)

theorem but_queueSafety {W : Nat} {s0 s : State} {n : Fin 256} (kw : Within 0x4004920022 W) (h : But W s0 s) : But W s0 (queueSafety n s) := by
  unfold queueSafety; exact (by (try dsimp only); split; exacts [h, (but_ite h (but_ite (but_scanPool (kw.le rfl) h) (but_queueFrame (kw.le rfl) (but_queueFrame (kw.le rfl) (but_updConn (kw.le rfl) (but_scanPool (kw.le rfl) h))))))])

theorem but_safetyArrives {W : Nat} {s0 s : State} {p : Fin 8} {f : EthFrame} (kw : Within 0x4004120002 W) (h : But W s0 s) : But W s0 (safetyArrives p f s) := by
  unfold safetyArrives; exact (but_ite h (but_ite (but_bump (kw.le rfl) (but_bump (kw.le rfl) h)) (but_ite (but_updEth (kw.le rfl) (but_bump (kw.le rfl) (but_bump (kw.le rfl) h))) (but_safetyReceive (kw.le rfl) (but_bump (kw.le rfl) h)))))

theorem but_frameArrives {W : Nat} {s0 s : State} {p : Fin 8} {f : EthFrame} (kw : Within 0x4004129002 W) (h : But W s0 s) : But W s0 (frameArrives p f s) := by
  unfold frameArrives; exact (but_ite (but_keacoArrives (kw.le rfl) h) (but_ite (but_safetyArrives (kw.le rfl) h) (but_ite h (but_firmwareFrame (kw.le rfl) (but_bump (kw.le rfl) h)))))

theorem but_execSealReadMs {s t : State} (e : execSealReadMs s = .next t) : But 0x6404178002 s t := by
  have h := But.self 0x6404178002 s
  have kw := Within.self 0x6404178002
  cases e; exact (but_sealMs (kw.le rfl) h)

theorem but_execSafeHoldLeave {s t : State} (e : execSafeHoldLeave s = .next t) : But 0x4204038002 s t := by
  have h := But.self 0x4204038002 s
  have kw := Within.self 0x4204038002
  cases e; exact (but_leaveSafeHold (kw.le rfl) h)

theorem but_execSafetyFrameReceive {s t : State} {port : Fin 8} {f : EthFrame} (e : execSafetyFrameReceive port f s = .next t) : But 0x4004120002 s t := by
  have h := But.self 0x4004120002 s
  have kw := Within.self 0x4004120002
  cases e; exact (but_safetyArrives (kw.le rfl) h)

theorem but_execPairWindowEnd {s t : State} {conn : Fin 256} (e : execPairWindowEnd conn s = .next t) : But 0x4004020002 s t := by
  have h := But.self 0x4004020002 s
  have kw := Within.self 0x4004020002
  cases e; exact (but_pairEnds (kw.le rfl) h)

theorem but_execSafetyFrameQueue {s t : State} {conn : Fin 256} (e : execSafetyFrameQueue conn s = .next t) : But 0x4004920022 s t := by
  have h := But.self 0x4004920022 s
  have kw := Within.self 0x4004920022
  cases e; exact (but_queueSafety (kw.le rfl) h)

theorem but_execRoundClose {s t : State} (e : execRoundClose s = .next t) : But 0x6004930822 s t := by
  have h := But.self 0x6004930822 s
  have kw := Within.self 0x6004930822
  cases e; exact (but_closeRound (kw.le rfl) h)

theorem but_execDecisionInstant {s t : State} (e : execDecisionInstant s = .next t) : But 0x6404b7c822 s t := by
  have h := But.self 0x6404b7c822 s
  have kw := Within.self 0x6404b7c822
  cases e; exact (but_ite (but_lateReactions (kw.le rfl) (but_decide_ (kw.le rfl) h)) (but_decide_ (kw.le rfl) h))

theorem but_execEthFrameReceive {s t : State} {port : Fin 8} {f : EthFrame} (e : execEthFrameReceive port f s = .next t) : But 0x4004129002 s t := by
  have h := But.self 0x4004129002 s
  have kw := Within.self 0x4004129002
  cases e; exact (but_frameArrives (kw.le rfl) h)

theorem but_canStore {W : Nat} {s0 s : State} {c : Fin 16} {f : CanFrame} {at_ : Instant} (kw : Within 0x4004200002 W) (h : But W s0 s) : But W s0 (canStore c f at_ s) := by
  unfold canStore; exact (by (try dsimp only); split; exacts [(but_updCan (kw.le rfl) h), (but_ite (but_raise (kw.le rfl) (but_ite (but_raise (kw.le rfl) (but_bump (kw.le rfl) (but_updCan (kw.le rfl) h))) (but_bump (kw.le rfl) (but_updCan (kw.le rfl) h)))) (but_ite (but_raise (kw.le rfl) (but_bump (kw.le rfl) (but_updCan (kw.le rfl) h))) (but_bump (kw.le rfl) (but_updCan (kw.le rfl) h))))])

theorem but_adoptRate {W : Nat} {s0 s : State} {c : Fin 16} (kw : Within 0x4004200002 W) (h : But W s0 s) : But W s0 (adoptRate c s) := by
  unfold adoptRate; exact (but_raise (kw.le rfl) (but_updCan (kw.le rfl) h))

theorem but_nextCandidate {W : Nat} {s0 s : State} {c : Fin 16} (kw : Within 0x200000 W) (h : But W s0 s) : But W s0 (nextCandidate c s) := by
  unfold nextCandidate; exact (but_updCan (kw.le rfl) h)

theorem but_canHeard {W : Nat} {s0 s : State} {c : Fin 16} (kw : Within 0x4004200002 W) (h : But W s0 s) : But W s0 (canHeard c s) := by
  unfold canHeard; exact (but_ite h (but_ite (but_noteConds (kw.le rfl) (but_updCan (kw.le rfl) h)) (by (try dsimp only [drawFree]); exact (but_noteConds (kw.le rfl) (but_updCan (kw.le rfl) (but_mk_free (kw.le rfl) h))))))

theorem but_canSentWell {W : Nat} {s0 s : State} {c : Fin 16} (kw : Within 0x4004200002 W) (h : But W s0 s) : But W s0 (canSentWell c s) := by
  unfold canSentWell; exact (but_ite h (but_noteConds (kw.le rfl) (but_updCan (kw.le rfl) h)))

theorem but_canCompete {W : Nat} {s0 s : State} {c : Fin 16} (kw : Within 0x4000200000 W) (h : But W s0 s) : But W s0 (canCompete c s) := by
  unfold canCompete; exact (but_ite h (by (try dsimp only [drawFree]); exact (but_ite (but_updCan (kw.le rfl) (but_mk_free (kw.le rfl) h)) (but_mk_free (kw.le rfl) h))))

theorem but_raiseTx {W : Nat} {s0 s : State} {c : Fin 16} {b : Fin 64} (kw : Within 0x4004000002 W) (h : But W s0 s) : But W s0 (raiseTx c b s) := by
  unfold raiseTx; exact (but_ite (but_raise (kw.le rfl) h) h)

theorem but_canCancelled {W : Nat} {s0 s : State} {c : Fin 16} {b : Fin 64} (kw : Within 0x4004200002 W) (h : But W s0 s) : But W s0 (canCancelled c b s) := by
  unfold canCancelled; exact (but_raiseTx (kw.le rfl) (but_updCan (kw.le rfl) h))

theorem but_canEnd {W : Nat} {s0 s : State} {c : Fin 16} {how : CanTxEnd} {ago : ℕ} (kw : Within 0x6004200002 W) (h : But W s0 s) : But W s0 (canEnd c how ago s) := by
  unfold canEnd; exact (but_ite h (by (try dsimp only); split; exacts [h, (by (try dsimp only); split; exacts [(but_canCompete (kw.le rfl) (but_raiseTx (kw.le rfl) (but_canSentWell (kw.le rfl) (but_send (kw.le rfl) (but_bump (kw.le rfl) (but_updCan (kw.le rfl) (but_updCan (kw.le rfl) h))))))), (but_ite (but_canCompete (kw.le rfl) (but_canCancelled (kw.le rfl) (but_bump (kw.le rfl) (but_updCan (kw.le rfl) h)))) (but_bump (kw.le rfl) (but_updCan (kw.le rfl) h))), (but_ite (but_canCompete (kw.le rfl) (but_canCancelled (kw.le rfl) (but_updCan (kw.le rfl) h))) (but_updCan (kw.le rfl) h))])]))

theorem but_canReceive {W : Nat} {s0 s : State} {c : Fin 16} {f : CanFrame} {ago : ℕ} (kw : Within 0x4004200002 W) (h : But W s0 s) : But W s0 (canReceive c f ago s) := by
  unfold canReceive; exact (by (try dsimp only); split; exacts [h, (but_ite h (but_canCompete (kw.le rfl) (but_canHeard (kw.le rfl) (but_canStore (kw.le rfl) h)))), (but_canHeard (kw.le rfl) (but_canStore (kw.le rfl) h)), (by (try dsimp only); split; exacts [(but_updCan (kw.le rfl) h), (but_canStore (kw.le rfl) (but_canStore (kw.le rfl) (but_adoptRate (kw.le rfl) h)))])])

theorem but_canReq {W : Nat} {s0 s : State} {c : Fin 16} {b : Fin 64} (kw : Within 0x4000200000 W) (h : But W s0 s) : But W s0 (canReq c b s) := by
  unfold canReq; exact (but_ite (but_updCan (kw.le rfl) h) (but_ite h (but_canCompete (kw.le rfl) (but_updCan (kw.le rfl) h))))

theorem but_canCancel {W : Nat} {s0 s : State} {c : Fin 16} {b : Fin 64} (kw : Within 0x4004200002 W) (h : But W s0 s) : But W s0 (canCancel c b s) := by
  unfold canCancel; exact (but_ite (but_updCan (kw.le rfl) h) (but_ite (but_updCan (kw.le rfl) (but_canCompete (kw.le rfl) h)) (but_canCancelled (kw.le rfl) (but_canCompete (kw.le rfl) h))))

theorem but_canUnlock {W : Nat} {s0 s : State} {c : Fin 16} (kw : Within 0x200000 W) (h : But W s0 s) : But W s0 (canUnlock c s) := by
  unfold canUnlock; exact (but_ite h (by (try dsimp only); split; exacts [(but_updCan (kw.le rfl) h), (but_updCan (kw.le rfl) h)]))

theorem but_canSelect {W : Nat} {s0 s : State} {c : Fin 16} {b : Fin 64} {lock : Bool} (kw : Within 0x200000 W) (h : But W s0 s) : But W s0 (canSelect c b lock s) := by
  unfold canSelect; exact (but_updCan (kw.le rfl) (but_ite (but_canUnlock (kw.le rfl) h) h))

theorem but_canPoke {W : Nat} {s0 s : State} {c : Fin 16} {w : Fin 32} {v : Word} (kw : Within 0x200000 W) (h : But W s0 s) : But W s0 (canPoke c w v s) := by
  unfold canPoke; exact (but_ite h (but_updCan (kw.le rfl) h))

theorem but_canRequest {W : Nat} {s0 s : State} {c : Fin 16} {b : Fin 64} (kw : Within 0x4004200002 W) (h : But W s0 s) : But W s0 (canRequest c b s) := by
  unfold canRequest; exact (but_ite h (but_ite (but_raise (kw.le rfl) (but_updCan (kw.le rfl) h)) (but_canCompete (kw.le rfl) (but_ite (but_raise (kw.le rfl) (but_updCan (kw.le rfl) (but_updCan (kw.le rfl) h))) (but_updCan (kw.le rfl) h)))))

theorem but_canSlot {W : Nat} {s0 s : State} {c : Fin 16} {b : Fin 64} (kw : Within 0x4004204012 W) (h : But W s0 s) : But W s0 (canSlot c b s) := by
  unfold canSlot; exact (but_ite h (by (try dsimp only); split; exacts [h, (but_canRequest (kw.le rfl) (but_updSched (kw.le rfl) (but_reach (kw.le rfl) h)))]))

theorem but_canErr {W : Nat} {s0 s : State} {c : Fin 16} {tec : BitVec 9} {rec_ : BitVec 8} (kw : Within 0x4004200002 W) (h : But W s0 s) : But W s0 (canErr c tec rec_ s) := by
  unfold canErr; exact (but_ite h (but_ite (but_nextCandidate (kw.le rfl) h) (but_noteConds (kw.le rfl) (but_ite (by (try dsimp only); split; exacts [(but_canCancelled (kw.le rfl) (but_updCan (kw.le rfl) (but_bump (kw.le rfl) h))), (but_updCan (kw.le rfl) (but_updCan (kw.le rfl) (but_bump (kw.le rfl) h)))]) (but_updCan (kw.le rfl) (but_bump (kw.le rfl) h))))))

theorem but_canRecover {W : Nat} {s0 s : State} {c : Fin 16} (kw : Within 0x4004200002 W) (h : But W s0 s) : But W s0 (canRecover c s) := by
  unfold canRecover; exact (but_ite h (but_canCompete (kw.le rfl) (but_noteConds (kw.le rfl) (but_updCan (kw.le rfl) h))))

theorem but_canMode {W : Nat} {s0 s : State} {c : Fin 16} {m : CanMode} (kw : Within 0x4004200002 W) (h : But W s0 s) : But W s0 (canMode c m s) := by
  unfold canMode; exact (but_canCompete (kw.le rfl) (but_noteConds (kw.le rfl) (but_updCan (kw.le rfl) h)))

theorem but_canDetectCmd {W : Nat} {s0 s : State} {c : Fin 16} (kw : Within 0x4004200002 W) (h : But W s0 s) : But W s0 (canDetectCmd c s) := by
  unfold canDetectCmd; exact (but_ite (but_updCan (kw.le rfl) h) (but_canMode (kw.le rfl) h))

theorem but_candidateEnds {W : Nat} {s0 s : State} {c : Fin 16} (kw : Within 0x4004200012 W) (h : But W s0 s) : But W s0 (candidateEnds c s) := by
  unfold candidateEnds; exact (but_ite (but_nextCandidate (kw.le rfl) (but_reachLocal (kw.le rfl) h)) h)

theorem but_detectFails {W : Nat} {s0 s : State} {c : Fin 16} (kw : Within 0x4004200012 W) (h : But W s0 s) : But W s0 (detectFails c s) := by
  unfold detectFails; exact (but_ite (but_updCan (kw.le rfl) (but_reachLocal (kw.le rfl) h)) h)

theorem but_canLatch {W : Nat} {s0 s : State} {c : Fin 16} (kw : Within 0x200000 W) (h : But W s0 s) : But W s0 (canLatch c s) := by
  unfold canLatch; exact (but_updCan (kw.le rfl) h)

theorem but_uartError {W : Nat} {s0 s : State} {u : Fin 8} {f : Uart → Uart} (kw : Within 0x4004400002 W) (h : But W s0 s) : But W s0 (uartError u f s) := by
  unfold uartError; exact (but_raise (kw.le rfl) (but_updUart (kw.le rfl) h))

theorem but_uartMark {W : Nat} {s0 s : State} {u : Fin 8} {b : Byte} {ago : ℕ} (kw : Within 0x4004400002 W) (h : But W s0 s) : But W s0 (uartMark u b ago s) := by
  unfold uartMark; exact (but_ite (but_raise (kw.le rfl) (but_updUart (kw.le rfl) h)) h)

theorem but_uartStore {W : Nat} {s0 s : State} {u : Fin 8} {b : Byte} (kw : Within 0x4004400002 W) (h : But W s0 s) : But W s0 (uartStore u b s) := by
  unfold uartStore; exact (but_ite (but_bump (kw.le rfl) (but_updUart (kw.le rfl) h)) (but_uartError (kw.le rfl) h))

theorem but_uartReceive {W : Nat} {s0 s : State} {u : Fin 8} {b : Byte} {e : UartErr} {ago : ℕ} (kw : Within 0x4004400002 W) (h : But W s0 s) : But W s0 (uartReceive u b e ago s) := by
  unfold uartReceive; exact (by (try dsimp only); split; exacts [(but_noteConds (kw.le rfl) (but_uartStore (kw.le rfl) (but_uartMark (kw.le rfl) h))), (but_uartError (kw.le rfl) h), (but_uartError (kw.le rfl) h), (but_uartError (kw.le rfl) h)])

theorem but_uartWrite {W : Nat} {s0 s : State} {u : Fin 8} {b : Byte} (kw : Within 0x4004400002 W) (h : But W s0 s) : But W s0 (uartWrite u b s) := by
  unfold uartWrite; exact (but_ite (but_noteConds (kw.le rfl) (but_updUart (kw.le rfl) h)) (but_updUart (kw.le rfl) h))

theorem but_uartSent {W : Nat} {s0 s : State} {u : Fin 8} (kw : Within 0x6004400002 W) (h : But W s0 s) : But W s0 (uartSent u s) := by
  unfold uartSent; exact (by (try dsimp only); split; exacts [h, (but_noteConds (kw.le rfl) (but_send (kw.le rfl) (but_bump (kw.le rfl) (but_updUart (kw.le rfl) h))))])

theorem but_uartRead {W : Nat} {s0 s : State} {u : Fin 8} (kw : Within 0x5004400002 W) (h : But W s0 s) : But W s0 (uartRead u s) := by
  unfold uartRead; exact (but_ite (but_answer (kw.le rfl) h) (but_noteConds (kw.le rfl) (but_answer (kw.le rfl) (but_updUart (kw.le rfl) h))))

theorem but_uartMarkRead {W : Nat} {s0 s : State} {u : Fin 8} {w : Requester} (kw : Within 0x1000400004 W) (h : But W s0 s) : But W s0 (uartMarkRead u w s) := by
  unfold uartMarkRead; exact (but_answer (kw.le rfl) (but_latchPut (kw.le rfl) (but_updUart (kw.le rfl) h)))

theorem but_uartLatch {W : Nat} {s0 s : State} {u : Fin 8} (kw : Within 0x400000 W) (h : But W s0 s) : But W s0 (uartLatch u s) := by
  unfold uartLatch; exact (but_updUart (kw.le rfl) h)

theorem but_execCanFrameReceive {s t : State} {c : Fin 16} {f : CanFrame} {sofAgo : ℕ} (e : execCanFrameReceive c f sofAgo s = .next t) : But 0x4004200002 s t := by
  have h := But.self 0x4004200002 s
  have kw := Within.self 0x4004200002
  cases e; exact (but_canReceive (kw.le rfl) h)

theorem but_execCanFrameEnd {s t : State} {c : Fin 16} {how : CanTxEnd} {sofAgo : ℕ} (e : execCanFrameEnd c how sofAgo s = .next t) : But 0x6004200002 s t := by
  have h := But.self 0x6004200002 s
  have kw := Within.self 0x6004200002
  cases e; exact (but_canEnd (kw.le rfl) h)

theorem but_execCanError {s t : State} {c : Fin 16} {tec : BitVec 9} {rec_ : BitVec 8} (e : execCanError c tec rec_ s = .next t) : But 0x4004200002 s t := by
  have h := But.self 0x4004200002 s
  have kw := Within.self 0x4004200002
  cases e; exact (but_canErr (kw.le rfl) h)

theorem but_execBusoffRecoveryEnd {s t : State} {c : Fin 16} (e : execBusoffRecoveryEnd c s = .next t) : But 0x4004200002 s t := by
  have h := But.self 0x4004200002 s
  have kw := Within.self 0x4004200002
  cases e; exact (but_canRecover (kw.le rfl) h)

theorem but_execCanStart {s t : State} {q : Req} {c : Fin 16} (e : execCanStart q c s = .next t) : But 0x7004200002 s t := by
  have h := But.self 0x7004200002 s
  have kw := Within.self 0x7004200002
  cases e; exact (but_onPage (kw.le rfl) (fun _ h1 => (but_canMode (kw.le rfl) h1)) h)

theorem but_execCanListen {s t : State} {q : Req} {c : Fin 16} (e : execCanListen q c s = .next t) : But 0x7004200002 s t := by
  have h := But.self 0x7004200002 s
  have kw := Within.self 0x7004200002
  cases e; exact (but_onPage (kw.le rfl) (fun _ h1 => (but_canMode (kw.le rfl) h1)) h)

theorem but_execCanDetect {s t : State} {q : Req} {c : Fin 16} (e : execCanDetect q c s = .next t) : But 0x7004200002 s t := by
  have h := But.self 0x7004200002 s
  have kw := Within.self 0x7004200002
  cases e; exact (but_onPage (kw.le rfl) (fun _ h1 => (but_canDetectCmd (kw.le rfl) h1)) h)

theorem but_execCanStop {s t : State} {q : Req} {c : Fin 16} (e : execCanStop q c s = .next t) : But 0x7004200002 s t := by
  have h := But.self 0x7004200002 s
  have kw := Within.self 0x7004200002
  cases e; exact (but_onPage (kw.le rfl) (fun _ h1 => (but_canMode (kw.le rfl) h1)) h)

theorem but_execDetectCandidateTimeout {s t : State} {c : Fin 16} (e : execDetectCandidateTimeout c s = .next t) : But 0x4004200012 s t := by
  have h := But.self 0x4004200012 s
  have kw := Within.self 0x4004200012
  cases e; exact (but_candidateEnds (kw.le rfl) h)

theorem but_execDetectTimeout {s t : State} {c : Fin 16} (e : execDetectTimeout c s = .next t) : But 0x4004200012 s t := by
  have h := But.self 0x4004200012 s
  have kw := Within.self 0x4004200012
  cases e; exact (but_detectFails (kw.le rfl) h)

theorem but_execCanTxReq {s t : State} {q : Req} {c : Fin 16} {buf : Fin 64} (e : execCanTxReq q c buf s = .next t) : But 0x7000200002 s t := by
  have h := But.self 0x7000200002 s
  have kw := Within.self 0x7000200002
  cases e; exact (but_onPage (kw.le rfl) (fun _ h1 => (but_canReq (kw.le rfl) h1)) h)

theorem but_execCanTxCancel {s t : State} {q : Req} {c : Fin 16} {buf : Fin 64} (e : execCanTxCancel q c buf s = .next t) : But 0x7004200002 s t := by
  have h := But.self 0x7004200002 s
  have kw := Within.self 0x7004200002
  cases e; exact (but_onPage (kw.le rfl) (fun _ h1 => (but_canCancel (kw.le rfl) h1)) h)

theorem but_execCanMbSelWrite {s t : State} {q : Req} {c : Fin 16} {buf : Fin 64} {lock : Bool} (e : execCanMbSelWrite q c buf lock s = .next t) : But 0x3000200002 s t := by
  have h := But.self 0x3000200002 s
  have kw := Within.self 0x3000200002
  cases e; exact (but_onPage (kw.le rfl) (fun _ h1 => (but_canSelect (kw.le rfl) h1)) h)

theorem but_execCanMbWrite {s t : State} {q : Req} {c : Fin 16} {word : Fin 32} {val : Word} (e : execCanMbWrite q c word val s = .next t) : But 0x3000200002 s t := by
  have h := But.self 0x3000200002 s
  have kw := Within.self 0x3000200002
  cases e; exact (but_onPage (kw.le rfl) (fun _ h1 => (but_canPoke (kw.le rfl) h1)) h)

theorem but_execCanSlotRequest {s t : State} {c : Fin 16} {buf : Fin 64} (e : execCanSlotRequest c buf s = .next t) : But 0x4004204012 s t := by
  have h := But.self 0x4004204012 s
  have kw := Within.self 0x4004204012
  cases e; exact (but_canSlot (kw.le rfl) h)

theorem but_execUartByteReceive {s t : State} {u : Fin 8} {byte : Byte} {err : UartErr} {startAgo : ℕ} (e : execUartByteReceive u byte err startAgo s = .next t) : But 0x4004400002 s t := by
  have h := But.self 0x4004400002 s
  have kw := Within.self 0x4004400002
  cases e; exact (but_uartReceive (kw.le rfl) h)

theorem but_execUartDataWrite {s t : State} {q : Req} {u : Fin 8} {byte : Byte} (e : execUartDataWrite q u byte s = .next t) : But 0x7004400002 s t := by
  have h := But.self 0x7004400002 s
  have kw := Within.self 0x7004400002
  cases e; exact (but_onPage (kw.le rfl) (fun _ h1 => (but_uartWrite (kw.le rfl) h1)) h)

theorem but_execUartDataRead {s t : State} {q : Req} {u : Fin 8} (e : execUartDataRead q u s = .next t) : But 0x7004400002 s t := by
  have h := But.self 0x7004400002 s
  have kw := Within.self 0x7004400002
  cases e; exact (but_onPage (kw.le rfl) (fun _ h1 => (but_uartRead (kw.le rfl) h1)) h)

theorem but_execUartMarkRead {s t : State} {q : Req} {u : Fin 8} (e : execUartMarkRead q u s = .next t) : But 0x3000400006 s t := by
  have h := But.self 0x3000400006 s
  have kw := Within.self 0x3000400006
  cases e; exact (but_onPage (kw.le rfl) (fun _ h1 => (but_uartMarkRead (kw.le rfl) h1)) h)

theorem but_execUartByteSent {s t : State} {u : Fin 8} (e : execUartByteSent u s = .next t) : But 0x6004400002 s t := by
  have h := But.self 0x6004400002 s
  have kw := Within.self 0x6004400002
  cases e; exact (but_uartSent (kw.le rfl) h)

theorem but_execFadd {s t : State} {e : EngRef} {rd : Reg} {ra : Reg} {rb : Reg} (e : execFadd e rd ra rb s = .next t) : But 0x4004008022 s t := by
  have h := But.self 0x4004008022 s
  have kw := Within.self 0x4004008022
  cases e; exact (but_runAlu (kw.le rfl) h)

theorem but_execFsub {s t : State} {e : EngRef} {rd : Reg} {ra : Reg} {rb : Reg} (e : execFsub e rd ra rb s = .next t) : But 0x4004008022 s t := by
  have h := But.self 0x4004008022 s
  have kw := Within.self 0x4004008022
  cases e; exact (but_runAlu (kw.le rfl) h)

theorem but_execFmul {s t : State} {e : EngRef} {rd : Reg} {ra : Reg} {rb : Reg} (e : execFmul e rd ra rb s = .next t) : But 0x4004008022 s t := by
  have h := But.self 0x4004008022 s
  have kw := Within.self 0x4004008022
  cases e; exact (but_runAlu (kw.le rfl) h)

theorem but_execFdiv {s t : State} {e : EngRef} {rd : Reg} {ra : Reg} {rb : Reg} (e : execFdiv e rd ra rb s = .next t) : But 0x4004008022 s t := by
  have h := But.self 0x4004008022 s
  have kw := Within.self 0x4004008022
  cases e; exact (but_runAlu (kw.le rfl) h)

theorem but_execFsqrt {s t : State} {e : EngRef} {rd : Reg} {ra : Reg} (e : execFsqrt e rd ra s = .next t) : But 0x4004008022 s t := by
  have h := But.self 0x4004008022 s
  have kw := Within.self 0x4004008022
  cases e; exact (but_runAlu (kw.le rfl) h)

theorem but_execFma {s t : State} {e : EngRef} {rd : Reg} {ra : Reg} {rb : Reg} (e : execFma e rd ra rb s = .next t) : But 0x4004008022 s t := by
  have h := But.self 0x4004008022 s
  have kw := Within.self 0x4004008022
  cases e; exact (but_runAlu (kw.le rfl) h)

theorem but_execFmin {s t : State} {e : EngRef} {rd : Reg} {ra : Reg} {rb : Reg} (e : execFmin e rd ra rb s = .next t) : But 0x4004008022 s t := by
  have h := But.self 0x4004008022 s
  have kw := Within.self 0x4004008022
  cases e; exact (but_runAlu (kw.le rfl) h)

theorem but_execFmax {s t : State} {e : EngRef} {rd : Reg} {ra : Reg} {rb : Reg} (e : execFmax e rd ra rb s = .next t) : But 0x4004008022 s t := by
  have h := But.self 0x4004008022 s
  have kw := Within.self 0x4004008022
  cases e; exact (but_runAlu (kw.le rfl) h)

theorem but_execFabs {s t : State} {e : EngRef} {rd : Reg} {ra : Reg} (e : execFabs e rd ra s = .next t) : But 0x4004008022 s t := by
  have h := But.self 0x4004008022 s
  have kw := Within.self 0x4004008022
  cases e; exact (but_runAlu (kw.le rfl) h)

theorem but_execFneg {s t : State} {e : EngRef} {rd : Reg} {ra : Reg} (e : execFneg e rd ra s = .next t) : But 0x4004008022 s t := by
  have h := But.self 0x4004008022 s
  have kw := Within.self 0x4004008022
  cases e; exact (but_runAlu (kw.le rfl) h)

theorem but_execFeq {s t : State} {e : EngRef} {rd : Reg} {ra : Reg} {rb : Reg} (e : execFeq e rd ra rb s = .next t) : But 0x4004008022 s t := by
  have h := But.self 0x4004008022 s
  have kw := Within.self 0x4004008022
  cases e; exact (but_runAlu (kw.le rfl) h)

theorem but_execFlt {s t : State} {e : EngRef} {rd : Reg} {ra : Reg} {rb : Reg} (e : execFlt e rd ra rb s = .next t) : But 0x4004008022 s t := by
  have h := But.self 0x4004008022 s
  have kw := Within.self 0x4004008022
  cases e; exact (but_runAlu (kw.le rfl) h)

theorem but_execFle {s t : State} {e : EngRef} {rd : Reg} {ra : Reg} {rb : Reg} (e : execFle e rd ra rb s = .next t) : But 0x4004008022 s t := by
  have h := But.self 0x4004008022 s
  have kw := Within.self 0x4004008022
  cases e; exact (but_runAlu (kw.le rfl) h)

theorem but_execFtoi {s t : State} {e : EngRef} {rd : Reg} {ra : Reg} (e : execFtoi e rd ra s = .next t) : But 0x4004008022 s t := by
  have h := But.self 0x4004008022 s
  have kw := Within.self 0x4004008022
  cases e; exact (but_runAlu (kw.le rfl) h)

theorem but_execItof {s t : State} {e : EngRef} {rd : Reg} {ra : Reg} (e : execItof e rd ra s = .next t) : But 0x4004008022 s t := by
  have h := But.self 0x4004008022 s
  have kw := Within.self 0x4004008022
  cases e; exact (but_runAlu (kw.le rfl) h)

theorem but_execLd {s t : State} {e : EngRef} {rt : Reg} {base : Reg} {size : BitVec 2} {post : Bool} {off : BitVec 13} (e : execLd e rt base size post off s = .next t) : But 0x4004008022 s t := by
  have h := But.self 0x4004008022 s
  have kw := Within.self 0x4004008022
  cases e; exact (but_runWord (kw.le rfl) h)

theorem but_execLdu {s t : State} {e : EngRef} {rt : Reg} {base : Reg} {size : BitVec 2} {post : Bool} {off : BitVec 13} (e : execLdu e rt base size post off s = .next t) : But 0x4004008022 s t := by
  have h := But.self 0x4004008022 s
  have kw := Within.self 0x4004008022
  cases e; exact (but_runWord (kw.le rfl) h)

theorem but_execSt {s t : State} {e : EngRef} {rt : Reg} {base : Reg} {size : BitVec 2} {post : Bool} {off : BitVec 13} (e : execSt e rt base size post off s = .next t) : But 0x4004008022 s t := by
  have h := But.self 0x4004008022 s
  have kw := Within.self 0x4004008022
  cases e; exact (but_runWord (kw.le rfl) h)

theorem but_execBeq {s t : State} {e : EngRef} {ra : Reg} {rb : Reg} {disp : BitVec 16} (e : execBeq e ra rb disp s = .next t) : But 0x4004008022 s t := by
  have h := But.self 0x4004008022 s
  have kw := Within.self 0x4004008022
  cases e; exact (but_runWord (kw.le rfl) h)

theorem but_execBne {s t : State} {e : EngRef} {ra : Reg} {rb : Reg} {disp : BitVec 16} (e : execBne e ra rb disp s = .next t) : But 0x4004008022 s t := by
  have h := But.self 0x4004008022 s
  have kw := Within.self 0x4004008022
  cases e; exact (but_runWord (kw.le rfl) h)

theorem but_execBlt {s t : State} {e : EngRef} {ra : Reg} {rb : Reg} {disp : BitVec 16} (e : execBlt e ra rb disp s = .next t) : But 0x4004008022 s t := by
  have h := But.self 0x4004008022 s
  have kw := Within.self 0x4004008022
  cases e; exact (but_runWord (kw.le rfl) h)

theorem but_execBge {s t : State} {e : EngRef} {ra : Reg} {rb : Reg} {disp : BitVec 16} (e : execBge e ra rb disp s = .next t) : But 0x4004008022 s t := by
  have h := But.self 0x4004008022 s
  have kw := Within.self 0x4004008022
  cases e; exact (but_runWord (kw.le rfl) h)

theorem but_execBltu {s t : State} {e : EngRef} {ra : Reg} {rb : Reg} {disp : BitVec 16} (e : execBltu e ra rb disp s = .next t) : But 0x4004008022 s t := by
  have h := But.self 0x4004008022 s
  have kw := Within.self 0x4004008022
  cases e; exact (but_runWord (kw.le rfl) h)

theorem but_execBgeu {s t : State} {e : EngRef} {ra : Reg} {rb : Reg} {disp : BitVec 16} (e : execBgeu e ra rb disp s = .next t) : But 0x4004008022 s t := by
  have h := But.self 0x4004008022 s
  have kw := Within.self 0x4004008022
  cases e; exact (but_runWord (kw.le rfl) h)

theorem but_execJr {s t : State} {e : EngRef} {ra : Reg} (e : execJr e ra s = .next t) : But 0x4004008022 s t := by
  have h := But.self 0x4004008022 s
  have kw := Within.self 0x4004008022
  cases e; exact (but_runWord (kw.le rfl) h)

theorem but_execJmp {s t : State} {e : EngRef} {disp : BitVec 26} (e : execJmp e disp s = .next t) : But 0x4004008022 s t := by
  have h := But.self 0x4004008022 s
  have kw := Within.self 0x4004008022
  cases e; exact (but_runWord (kw.le rfl) h)

theorem but_execCall {s t : State} {e : EngRef} {disp : BitVec 26} (e : execCall e disp s = .next t) : But 0x4004008022 s t := by
  have h := But.self 0x4004008022 s
  have kw := Within.self 0x4004008022
  cases e; exact (but_runWord (kw.le rfl) h)

theorem but_execLoop {s t : State} {e : EngRef} {rs : Reg} {endOff : BitVec 10} {cnt : BitVec 10} (e : execLoop e rs endOff cnt s = .next t) : But 0x4004008022 s t := by
  have h := But.self 0x4004008022 s
  have kw := Within.self 0x4004008022
  cases e; exact (but_runWord (kw.le rfl) h)

theorem but_execLoopi {s t : State} {e : EngRef} {endOff : BitVec 10} {cnt : BitVec 10} (e : execLoopi e endOff cnt s = .next t) : But 0x4004008022 s t := by
  have h := But.self 0x4004008022 s
  have kw := Within.self 0x4004008022
  cases e; exact (but_runWord (kw.le rfl) h)

theorem but_execHalt {s t : State} {e : EngRef} (e : execHalt e s = .next t) : But 0x4004008022 s t := by
  have h := But.self 0x4004008022 s
  have kw := Within.self 0x4004008022
  cases e; exact (but_runWord (kw.le rfl) h)

theorem but_execTrap {s t : State} {e : EngRef} {code : BitVec 5} (e : execTrap e code s = .next t) : But 0x4004008022 s t := by
  have h := But.self 0x4004008022 s
  have kw := Within.self 0x4004008022
  cases e; exact (but_runWord (kw.le rfl) h)

theorem but_illegalStep {W : Nat} {s0 s : State} {e : EngRef} (kw : Within 0x4004008022 W) (h : But W s0 s) : But W s0 (illegalStep e s) := by
  unfold illegalStep; exact (but_ite h (by (try dsimp only); split; exacts [(but_instrX (kw.le rfl) h), (but_ite (but_instrX (kw.le rfl) h) h)]))

theorem but_execIllegalEncoding {s t : State} {e : EngRef} (e : execIllegalEncoding e s = .next t) : But 0x4004008022 s t := by
  have h := But.self 0x4004008022 s
  have kw := Within.self 0x4004008022
  cases e; exact (but_illegalStep (kw.le rfl) h)

theorem but_updSuper {W : Nat} {s0 s : State} {f : Super → Super} (kw : Within 0x800000 W) (h : But W s0 s) : But W s0 (updSuper f s) := by
  unfold updSuper; exact (but_mk_super (kw.le rfl) h)

theorem but_mk_mail {W : Nat} {s0 x : State} {mail'} (kw : Within 0x1000000 W) (h : But W s0 x) :
    But W s0 (State.mk x.part x.hdrs x.latches x.heldLow x.tb x.crests x.hub x.flitFails x.packets x.nextPacket x.opened x.pool x.sram x.staged x.sched x.run x.trio x.safety x.field x.panel x.ports x.cans x.uarts x.super mail' x.host x.recorder x.historian x.otp x.store x.flash x.sec x.upd x.pwr x.forceInd x.tapReset x.resp x.out x.free x.pending) :=
  h.put kw fun c hc => by cases c <;> first | rfl | exact absurd hc (by decide)

theorem but_updMail {W : Nat} {s0 s : State} {ch : Fin 32} {f : Mailbox → Mailbox} (kw : Within 0x1000000 W) (h : But W s0 s) : But W s0 (updMail ch f s) := by
  unfold updMail; exact (but_mk_mail (kw.le rfl) h)

theorem but_mk_host {W : Nat} {s0 x : State} {host'} (kw : Within 0x2000000 W) (h : But W s0 x) :
    But W s0 (State.mk x.part x.hdrs x.latches x.heldLow x.tb x.crests x.hub x.flitFails x.packets x.nextPacket x.opened x.pool x.sram x.staged x.sched x.run x.trio x.safety x.field x.panel x.ports x.cans x.uarts x.super x.mail host' x.recorder x.historian x.otp x.store x.flash x.sec x.upd x.pwr x.forceInd x.tapReset x.resp x.out x.free x.pending) :=
  h.put kw fun c hc => by cases c <;> first | rfl | exact absurd hc (by decide)

theorem but_updHost {W : Nat} {s0 s : State} {f : HostLink → HostLink} (kw : Within 0x2000000 W) (h : But W s0 s) : But W s0 (updHost f s) := by
  unfold updHost; exact (but_mk_host (kw.le rfl) h)

theorem but_wdogKick {W : Nat} {s0 s : State} {w : Requester} {key : Byte} (kw : Within 0x800000 W) (h : But W s0 s) : But W s0 (wdogKick w key s) := by
  unfold wdogKick; exact (by (try dsimp only); split; exacts [(but_ite (but_updSuper (kw.le rfl) h) h), h])

theorem but_fixStatus {W : Nat} {s0 s : State} (kw : Within 0x10000 W) (h : But W s0 s) : But W s0 (fixStatus s) := by
  unfold fixStatus; exact (but_updTrio (kw.le rfl) h)

theorem but_lastResort {W : Nat} {s0 s : State} (kw : Within 0x4004a7c802 W) (h : But W s0 s) : But W s0 (lastResort s) := by
  unfold lastResort; exact (by (try dsimp only [drawFree]); exact (but_ite (but_fixStatus (kw.le rfl) (but_ite (but_ite (but_updTrio (kw.le rfl) (but_recordEvent (kw.le rfl) (but_mk_free (kw.le rfl) (but_urgent (kw.le rfl) h)))) (but_stopController (kw.le rfl) (but_updTrio (kw.le rfl) (but_recordEvent (kw.le rfl) (but_mk_free (kw.le rfl) (but_urgent (kw.le rfl) h)))))) (but_giveUp (kw.le rfl) (but_recordEvent (kw.le rfl) (but_mk_free (kw.le rfl) (but_urgent (kw.le rfl) h)))))) (but_ite (but_recordEvent (kw.le rfl) (but_mk_free (kw.le rfl) (but_urgent (kw.le rfl) h))) (but_stopController (kw.le rfl) (but_recordEvent (kw.le rfl) (but_mk_free (kw.le rfl) (but_urgent (kw.le rfl) h)))))))

theorem but_wdogExpires {W : Nat} {s0 s : State} {c : Fin 4} (kw : Within 0x4004a7c812 W) (h : But W s0 s) : But W s0 (wdogExpires c s) := by
  unfold wdogExpires; exact (but_ite h (but_ite (but_lastResort (kw.le rfl) (but_raiseUrgent (kw.le rfl) (by (try dsimp only); split; exacts [(but_updSuper (kw.le rfl) (but_updSuper (kw.le rfl) (but_reachLocal (kw.le rfl) h))), (but_updSuper (kw.le rfl) (but_reachLocal (kw.le rfl) h))]))) (but_raiseUrgent (kw.le rfl) (by (try dsimp only); split; exacts [(but_updSuper (kw.le rfl) (but_updSuper (kw.le rfl) (but_reachLocal (kw.le rfl) h))), (but_updSuper (kw.le rfl) (but_reachLocal (kw.le rfl) h))]))))

theorem but_nextWindow {W : Nat} {s0 s : State} {c : Fin 4} (kw : Within 0x4004800012 W) (h : But W s0 s) : But W s0 (nextWindow c s) := by
  unfold nextWindow; exact (but_ite h (but_updSuper (kw.le rfl) (but_reach (kw.le rfl) h)))

theorem but_startWindows {W : Nat} {s0 s : State} (kw : Within 0x800000 W) (h : But W s0 s) : But W s0 (startWindows s) := by
  unfold startWindows; exact (but_updSuper (kw.le rfl) h)

theorem but_setPd {W : Nat} {s0 s : State} {d : Fin 8} {p : PdState} (kw : Within 0x4004800002 W) (h : But W s0 s) : But W s0 (setPd d p s) := by
  unfold setPd; exact (but_raise (kw.le rfl) (but_updSuper (kw.le rfl) h))

theorem but_resetCrest {W : Nat} {s0 s : State} {c : Fin 6} (kw : Within 0x82e W) (h : But W s0 s) : But W s0 (resetCrest c s) := by
  unfold resetCrest; exact (but_updPool (kw.le rfl) (but_updCrest (kw.le rfl) (but_dropLatches (kw.le rfl) (but_foldl (fun _ _ h1 => (but_updHdr (kw.le rfl) h1)) h))))

theorem but_pdStart {W : Nat} {s0 s : State} {d : Fin 8} (kw : Within 0x40058c082e W) (h : But W s0 s) : But W s0 (pdStart d s) := by
  unfold pdStart; exact (but_setPd (kw.le rfl) (but_foldl (fun _ _ h1 => (but_updMail (kw.le rfl) h1)) (but_ite (but_resetFoothill (kw.le rfl) (by (try dsimp only); split; exacts [(but_ite (but_updSuper (kw.le rfl) h) (but_resetCrest (kw.le rfl) (but_updSuper (kw.le rfl) h))), (but_updSuper (kw.le rfl) h)])) (by (try dsimp only); split; exacts [(but_ite (but_updSuper (kw.le rfl) h) (but_resetCrest (kw.le rfl) (but_updSuper (kw.le rfl) h))), (but_updSuper (kw.le rfl) h)]))))

theorem but_pdCode {W : Nat} {s0 s : State} {c : Byte} (kw : Within 0x800000 W) (h : But W s0 s) : But W s0 (pdCode c s) := by
  unfold pdCode; exact (but_updSuper (kw.le rfl) h)

theorem but_cmdPdUp {W : Nat} {s0 s : State} {d : Fin 8} (kw : Within 0x40058c082e W) (h : But W s0 s) : But W s0 (cmdPdUp d s) := by
  unfold cmdPdUp; exact (but_ite (but_pdCode (kw.le rfl) h) (but_ite (but_pdCode (kw.le rfl) h) (by (try dsimp only); split; exacts [(but_pdStart (kw.le rfl) (but_pdCode (kw.le rfl) h)), (but_updSuper (kw.le rfl) (but_pdCode (kw.le rfl) h)), (but_pdCode (kw.le rfl) h)])))

theorem but_cmdPdDown {W : Nat} {s0 s : State} {d : Fin 8} (kw : Within 0x4004800002 W) (h : But W s0 s) : But W s0 (cmdPdDown d s) := by
  unfold cmdPdDown; exact (but_ite (but_pdCode (kw.le rfl) h) (but_ite (but_pdCode (kw.le rfl) h) (but_ite (but_pdCode (kw.le rfl) h) (but_ite (but_pdCode (kw.le rfl) h) (but_ite (but_pdCode (kw.le rfl) h) (by (try dsimp only); split; exacts [(but_setPd (kw.le rfl) (but_pdCode (kw.le rfl) h)), (but_setPd (kw.le rfl) (but_pdCode (kw.le rfl) h)), (but_pdCode (kw.le rfl) h)]))))))

theorem but_pdFails {W : Nat} {s0 s : State} {d : Fin 8} (kw : Within 0x4005800002 W) (h : But W s0 s) : But W s0 (pdFails d s) := by
  unfold pdFails; exact (but_setPd (kw.le rfl) (but_foldl (fun _ _ h1 => (but_updMail (kw.le rfl) h1)) (but_updSuper (kw.le rfl) h)))

theorem but_testEnds {W : Nat} {s0 s : State} {failed : BitVec 18} {memBad : Bool} {c : Fin 6} (kw : Within 0x4005800022 W) (h : But W s0 s) : But W s0 (testEnds failed memBad c s) := by
  unfold testEnds; exact (but_ite (but_pdFails (kw.le rfl) (but_ite (but_updCrest (kw.le rfl) h) (but_raise (kw.le rfl) (but_updCrest (kw.le rfl) h)))) (but_setPd (kw.le rfl) (but_updCrest (kw.le rfl) (but_ite (but_updCrest (kw.le rfl) h) (but_raise (kw.le rfl) (but_updCrest (kw.le rfl) h))))))

theorem but_pdStarted {W : Nat} {s0 s : State} {d : Fin 8} {pass : Bool} {failed : BitVec 18} (kw : Within 0x4005800022 W) (h : But W s0 s) : But W s0 (pdStarted d pass failed s) := by
  unfold pdStarted; exact (but_ite h (but_ite (but_pdFails (kw.le rfl) h) (but_dite (fun _ => (but_testEnds (kw.le rfl) h)) (fun _ => (but_ite (but_pdFails (kw.le rfl) h) (but_setPd (kw.le rfl) h))))))

theorem but_pdStopped {W : Nat} {s0 s : State} {d : Fin 8} (kw : Within 0x4205afc86e W) (h : But W s0 s) : But W s0 (pdStopped d s) := by
  unfold pdStopped; exact (but_ite h (but_ite (but_pdStart (kw.le rfl) (but_setPd (kw.le rfl) (but_ite (but_linkTimeout (kw.le rfl) h) h))) (but_setPd (kw.le rfl) (but_ite (but_linkTimeout (kw.le rfl) h) h))))

theorem but_hostWake {W : Nat} {s0 s : State} (kw : Within 0x2000000 W) (h : But W s0 s) : But W s0 (hostWake s) := by
  unfold hostWake; exact (but_ite (but_updHost (kw.le rfl) h) h)

theorem but_hostEvent {W : Nat} {s0 s : State} (kw : Within 0x2002000002 W) (h : But W s0 s) : But W s0 (hostEvent s) := by
  unfold hostEvent; exact (but_ite (but_send (kw.le rfl) (but_bump (kw.le rfl) h)) (but_updHost (kw.le rfl) h))

theorem but_hostInL0 {W : Nat} {s0 s : State} {f : HostLink → HostLink} (kw : Within 0x6006000002 W) (h : But W s0 s) : But W s0 (hostInL0 f s) := by
  unfold hostInL0; exact (but_ite (but_noteConds (kw.le rfl) (but_updHost (kw.le rfl) h)) (but_hostEvent (kw.le rfl) (but_noteConds (kw.le rfl) (but_updHost (kw.le rfl) h))))

theorem but_ringHost {W : Nat} {s0 s : State} {ch : Fin 32} (kw : Within 0x6007000002 W) (h : But W s0 s) : But W s0 (ringHost ch s) := by
  unfold ringHost; exact (but_ite (but_send (kw.le rfl) (but_bump (kw.le rfl) (but_updMail (kw.le rfl) (but_ite (but_hostInL0 (kw.le rfl) h) h)))) (but_hostWake (kw.le rfl) (but_updMail (kw.le rfl) (but_ite (but_hostInL0 (kw.le rfl) h) h))))

theorem but_sendHeld {W : Nat} {s0 s : State} (kw : Within 0x6007000002 W) (h : But W s0 s) : But W s0 (sendHeld s) := by
  unfold sendHeld; exact (but_ite (but_hostEvent (kw.le rfl) (but_updHost (kw.le rfl) (but_foldl (fun _ _ h1 => (but_ite (but_ringHost (kw.le rfl) h1) h1)) h))) (but_foldl (fun _ _ h1 => (but_ite (but_ringHost (kw.le rfl) h1) h1)) h))

theorem but_hostReset {W : Nat} {s0 s : State} {on : Bool} (kw : Within 0x600600000e W) (h : But W s0 s) : But W s0 (hostReset on s) := by
  unfold hostReset; exact (but_ite (but_hostWake (kw.le rfl) (but_noteConds (kw.le rfl) (but_dropLatches (kw.le rfl) (but_updHdr (kw.le rfl) (but_mk_host (kw.le rfl) h))))) (but_ite (but_hostEvent (kw.le rfl) (but_raise (kw.le rfl) (but_updHost (kw.le rfl) h))) h))

theorem but_hostTrains {W : Nat} {s0 s : State} (kw : Within 0x4006000002 W) (h : But W s0 s) : But W s0 (hostTrains s) := by
  unfold hostTrains; exact (but_ite h (but_noteConds (kw.le rfl) (but_updHost (kw.le rfl) h)))

theorem but_hostUp {W : Nat} {s0 s : State} {bme : Bool} {masked : Word} {width : BitVec 3} {rate : BitVec 3} {power : HostPower} (kw : Within 0x6007000002 W) (h : But W s0 s) : But W s0 (hostUp bme masked width rate power s) := by
  unfold hostUp; exact (but_ite h (but_ite (but_sendHeld (kw.le rfl) (but_hostInL0 (kw.le rfl) h)) (but_noteConds (kw.le rfl) (but_updHost (kw.le rfl) h))))

theorem but_hostDown {W : Nat} {s0 s : State} (kw : Within 0x4006000002 W) (h : But W s0 s) : But W s0 (hostDown s) := by
  unfold hostDown; exact (but_ite h (but_hostWake (kw.le rfl) (but_noteConds (kw.le rfl) (but_updHost (kw.le rfl) h))))

theorem but_turnOff {W : Nat} {s0 s : State} (kw : Within 0x6006000002 W) (h : But W s0 s) : But W s0 (turnOff s) := by
  unfold turnOff; exact (but_ite h (but_raise (kw.le rfl) (but_send (kw.le rfl) (but_updHost (kw.le rfl) (but_hostEvent (kw.le rfl) h)))))

theorem but_onMail {W : Nat} {s0 s : State} {a : Agent} {ch : Fin 32} {ok : Bool} {f : State → State} (kk : Within 0x3000000002 W) (k : ∀ x, But W s0 x → But W s0 (f x))
    (h : But W s0 s) : But W s0 (onMail a ch ok f s) := by
  unfold onMail; exact (but_ite (k _ (but_bump (kk.le rfl) (but_mk_resp (kk.le rfl) h))) (but_refuse (kk.le rfl) h))

theorem but_deliver {W : Nat} {s0 s : State} {ch : Fin 32} (kw : Within 0x6007000002 W) (h : But W s0 s) : But W s0 (deliver ch s) := by
  unfold deliver; exact (but_ite (but_ringHost (kw.le rfl) h) (but_updMail (kw.le rfl) h))

theorem but_ringChannel {W : Nat} {s0 s : State} {ch : Fin 32} {code : BitVec 16} {wake : Bool} (kw : Within 0x60078c082e W) (h : But W s0 s) : But W s0 (ringChannel ch code wake s) := by
  unfold ringChannel; exact (but_ite (but_updMail (kw.le rfl) h) (by (try dsimp only); split; exacts [(but_deliver (kw.le rfl) (but_updMail (kw.le rfl) h)), (but_updMail (kw.le rfl) h), (but_ite (but_pdStart (kw.le rfl) (but_updMail (kw.le rfl) h)) (but_updMail (kw.le rfl) h)), (but_ite (but_updMail (kw.le rfl) (but_updSuper (kw.le rfl) h)) (but_updMail (kw.le rfl) h))]))

theorem but_mailRing {W : Nat} {s0 s : State} {a : Agent} {ch : Fin 32} {code : BitVec 16} {wake : Bool} (kw : Within 0x70078c082e W) (h : But W s0 s) : But W s0 (mailRing a ch code wake s) := by
  unfold mailRing; exact (but_onMail (kw.le rfl) (fun _ h1 => (but_ringChannel (kw.le rfl) h1)) h)

theorem but_mailAck {W : Nat} {s0 s : State} {a : Agent} {ch : Fin 32} (kw : Within 0x7005000002 W) (h : But W s0 s) : But W s0 (mailAck a ch s) := by
  unfold mailAck; exact (but_onMail (kw.le rfl) (fun _ h1 => (but_ite (but_raise (kw.le rfl) (but_updMail (kw.le rfl) h1)) (but_updMail (kw.le rfl) h1))) h)

theorem but_mailWrite {W : Nat} {s0 s : State} {a : Agent} {ch : Fin 32} {w : Fin 16} {v : Word} (kw : Within 0x3001000002 W) (h : But W s0 s) : But W s0 (mailWrite a ch w v s) := by
  unfold mailWrite; exact (but_onMail (kw.le rfl) (fun _ h1 => (but_updMail (kw.le rfl) h1)) h)

theorem but_doorbell {W : Nat} {s0 s : State} {ch : Fin 32} (kw : Within 0x6007000002 W) (h : But W s0 s) : But W s0 (doorbell ch s) := by
  unfold doorbell; exact (but_ite (but_deliver (kw.le rfl) h) h)

theorem but_pmuFreeze {W : Nat} {s0 s : State} {on : Bool} (kw : Within 0x800000 W) (h : But W s0 s) : But W s0 (pmuFreeze on s) := by
  unfold pmuFreeze; exact (but_updSuper (kw.le rfl) h)

theorem but_pmuClear {W : Nat} {s0 s : State} (kw : Within 0x2 W) (h : But W s0 s) : But W s0 (pmuClear s) := by
  unfold pmuClear; exact (but_mk_hdrs (kw.le rfl) h)

theorem but_execWdogRestart {s t : State} {q : Req} {key : Byte} (e : execWdogRestart q key s = .next t) : But 0x3000800002 s t := by
  have h := But.self 0x3000800002 s
  have kw := Within.self 0x3000800002
  cases e; exact (but_onPage (kw.le rfl) (fun _ h1 => (but_wdogKick (kw.le rfl) h1)) h)

theorem but_execWdogExpire {s t : State} {core : Fin 4} (e : execWdogExpire core s = .next t) : But 0x4004a7c812 s t := by
  have h := But.self 0x4004a7c812 s
  have kw := Within.self 0x4004a7c812
  cases e; exact (but_wdogExpires (kw.le rfl) h)

theorem but_execPartitionWindowBoundary {s t : State} {core : Fin 4} (e : execPartitionWindowBoundary core s = .next t) : But 0x4004800012 s t := by
  have h := But.self 0x4004800012 s
  have kw := Within.self 0x4004800012
  cases e; exact (but_nextWindow (kw.le rfl) h)

theorem but_execMbRing {s t : State} {a : Agent} {ch : Fin 32} {code : BitVec 16} {wake : Bool} (e : execMbRing a ch code wake s = .next t) : But 0x70078c082e s t := by
  have h := But.self 0x70078c082e s
  have kw := Within.self 0x70078c082e
  cases e; exact (but_mailRing (kw.le rfl) h)

theorem but_execMbAck {s t : State} {a : Agent} {ch : Fin 32} (e : execMbAck a ch s = .next t) : But 0x7005000002 s t := by
  have h := But.self 0x7005000002 s
  have kw := Within.self 0x7005000002
  cases e; exact (but_mailAck (kw.le rfl) h)

theorem but_execMbMsgWrite {s t : State} {a : Agent} {ch : Fin 32} {word : Fin 16} {val : Word} (e : execMbMsgWrite a ch word val s = .next t) : But 0x3001000002 s t := by
  have h := But.self 0x3001000002 s
  have kw := Within.self 0x3001000002
  cases e; exact (but_mailWrite (kw.le rfl) h)

theorem but_execDoorbellDeliver {s t : State} {ch : Fin 32} (e : execDoorbellDeliver ch s = .next t) : But 0x6007000002 s t := by
  have h := But.self 0x6007000002 s
  have kw := Within.self 0x6007000002
  cases e; exact (but_doorbell (kw.le rfl) h)

theorem but_execPdUp {s t : State} {q : Req} {d : Fin 8} (e : execPdUp q d s = .next t) : But 0x70058c082e s t := by
  have h := But.self 0x70058c082e s
  have kw := Within.self 0x70058c082e
  cases e; exact (but_onPage (kw.le rfl) (fun _ h1 => (but_cmdPdUp (kw.le rfl) h1)) h)

theorem but_execPdDown {s t : State} {q : Req} {d : Fin 8} (e : execPdDown q d s = .next t) : But 0x7004800002 s t := by
  have h := But.self 0x7004800002 s
  have kw := Within.self 0x7004800002
  cases e; exact (but_onPage (kw.le rfl) (fun _ h1 => (but_cmdPdDown (kw.le rfl) h1)) h)

theorem but_execPdStartEnd {s t : State} {d : Fin 8} {pass : Bool} {failed : BitVec 18} (e : execPdStartEnd d pass failed s = .next t) : But 0x4005800022 s t := by
  have h := But.self 0x4005800022 s
  have kw := Within.self 0x4005800022
  cases e; exact (but_pdStarted (kw.le rfl) h)

theorem but_execPdStopEnd {s t : State} {d : Fin 8} (e : execPdStopEnd d s = .next t) : But 0x4205afc86e s t := by
  have h := But.self 0x4205afc86e s
  have kw := Within.self 0x4205afc86e
  cases e; exact (but_pdStopped (kw.le rfl) h)

theorem but_execHostPerst {s t : State} {asserted : Bool} (e : execHostPerst asserted s = .next t) : But 0x600600000e s t := by
  have h := But.self 0x600600000e s
  have kw := Within.self 0x600600000e
  cases e; exact (but_hostReset (kw.le rfl) h)

theorem but_execHostTrainingSet {s t : State} (e : execHostTrainingSet s = .next t) : But 0x4006000002 s t := by
  have h := But.self 0x4006000002 s
  have kw := Within.self 0x4006000002
  cases e; exact (but_hostTrains (kw.le rfl) h)

theorem but_execHostLinkL0 {s t : State} {busMaster : Bool} {masked : BitVec 32} {width : BitVec 3} {rate : BitVec 3} {power : HostPower} (e : execHostLinkL0 busMaster masked width rate power s = .next t) : But 0x6007000002 s t := by
  have h := But.self 0x6007000002 s
  have kw := Within.self 0x6007000002
  cases e; exact (but_hostUp (kw.le rfl) h)

theorem but_execHostLinkL2 {s t : State} (e : execHostLinkL2 s = .next t) : But 0x4006000002 s t := by
  have h := But.self 0x4006000002 s
  have kw := Within.self 0x4006000002
  cases e; exact (but_hostDown (kw.le rfl) h)

theorem but_execPmeTurnOff {s t : State} (e : execPmeTurnOff s = .next t) : But 0x6006000002 s t := by
  have h := But.self 0x6006000002 s
  have kw := Within.self 0x6006000002
  cases e; exact (but_turnOff (kw.le rfl) h)

theorem but_execPmuFreeze {s t : State} {q : Req} {on : Bool} (e : execPmuFreeze q on s = .next t) : But 0x3000800002 s t := by
  have h := But.self 0x3000800002 s
  have kw := Within.self 0x3000800002
  cases e; exact (but_onPage (kw.le rfl) (fun _ h1 => (but_pmuFreeze (kw.le rfl) h1)) h)

theorem but_execPmuClear {s t : State} {q : Req} (e : execPmuClear q s = .next t) : But 0x3000000002 s t := by
  have h := But.self 0x3000000002 s
  have kw := Within.self 0x3000000002
  cases e; exact (but_onPage (kw.le rfl) (fun _ h1 => (but_pmuClear (kw.le rfl) h1)) h)

theorem but_updRec {W : Nat} {s0 s : State} {f : Recorder → Recorder} (kw : Within 0x4000000 W) (h : But W s0 s) : But W s0 (updRec f s) := by
  unfold updRec; exact (but_mk_recorder (kw.le rfl) h)

theorem but_updRegion {W : Nat} {s0 s : State} {r : Fin 9} {f : RecRegion → RecRegion} (kw : Within 0x4000000 W) (h : But W s0 s) : But W s0 (updRegion r f s) := by
  unfold updRegion; exact (but_updRec (kw.le rfl) h)

theorem but_countLost {W : Nat} {s0 s : State} {x : Option Rec} (kw : Within 0x4000002 W) (h : But W s0 s) : But W s0 (countLost x s) := by
  unfold countLost; exact (but_ite (but_setRaw (kw.le rfl) (but_updRec (kw.le rfl) h)) h)

theorem but_putRec {W : Nat} {s0 s : State} {r : Fin 9} {ev : EventIn} {t : Instant} {ep : BitVec 2} (kw : Within 0x4000002 W) (h : But W s0 s) : But W s0 (putRec r ev t ep s) := by
  unfold putRec; exact (by (try dsimp only); split; exacts [(but_dropEvent (kw.le rfl) h), (but_bump (kw.le rfl) (but_updRec (kw.le rfl) (but_updRegion (kw.le rfl) (but_countLost (kw.le rfl) h))))])

theorem but_endSeries {W : Nat} {s0 s : State} {r : Fin 9} (kw : Within 0x4000002 W) (h : But W s0 s) : But W s0 (endSeries r s) := by
  unfold endSeries; exact (by (try dsimp only); split; exacts [(but_ite (but_putRec (kw.le rfl) (but_updRegion (kw.le rfl) h)) (but_updRegion (kw.le rfl) h)), (but_updRegion (kw.le rfl) h)])

theorem but_countRepeat {W : Nat} {s0 s : State} {r : Fin 9} {t : Instant} {ep : BitVec 2} (kw : Within 0x4000002 W) (h : But W s0 s) : But W s0 (countRepeat r t ep s) := by
  unfold countRepeat; exact (but_bump (kw.le rfl) (but_updRegion (kw.le rfl) h))

theorem but_fwDropped {W : Nat} {s0 s : State} {ev : EventIn} (kw : Within 0x4000000 W) (h : But W s0 s) : But W s0 (fwDropped ev s) := by
  unfold fwDropped; exact (but_ite (but_updRec (kw.le rfl) h) h)

theorem but_storeEvent {W : Nat} {s0 s : State} {r : Fin 9} {ev : EventIn} {t : Instant} {ep : BitVec 2} (kw : Within 0x4000002 W) (h : But W s0 s) : But W s0 (storeEvent r ev t ep s) := by
  unfold storeEvent; exact (but_ite (but_countRepeat (kw.le rfl) (but_ite (but_endSeries (kw.le rfl) h) h)) (but_ite (but_fwDropped (kw.le rfl) (but_dropEvent (kw.le rfl) (but_ite (but_endSeries (kw.le rfl) h) h))) (but_putRec (kw.le rfl) (but_endSeries (kw.le rfl) (but_ite (but_endSeries (kw.le rfl) h) h)))))

theorem but_takeRecord {W : Nat} {s0 s : State} (kw : Within 0x4004000002 W) (h : But W s0 s) : But W s0 (takeRecord s) := by
  unfold takeRecord; exact (by (try dsimp only); split; exacts [h, (but_noteConds (kw.le rfl) (but_storeEvent (kw.le rfl) (but_updRec (kw.le rfl) h)))])

theorem but_seriesTimeout {W : Nat} {s0 s : State} {r : Fin 9} (kw : Within 0x4004000012 W) (h : But W s0 s) : But W s0 (seriesTimeout r s) := by
  unfold seriesTimeout; exact (by (try dsimp only); split; exacts [h, (but_noteConds (kw.le rfl) (but_endSeries (kw.le rfl) (but_reachLocal (kw.le rfl) h)))])

theorem but_layoutStarts {W : Nat} {s0 s : State} (kw : Within 0x4000000 W) (h : But W s0 s) : But W s0 (layoutStarts s) := by
  unfold layoutStarts; exact (by (try dsimp only); split; exacts [(but_updRec (kw.le rfl) h), h])

theorem but_layoutWaits {W : Nat} {s0 s : State} {old : AppImage} {new : AppImage} (kw : Within 0x4004000002 W) (h : But W s0 s) : But W s0 (layoutWaits old new s) := by
  unfold layoutWaits; exact (but_ite h (but_note (kw.le rfl) (but_updRec (kw.le rfl) h)))

theorem but_startRefill {W : Nat} {s0 s : State} {v : Word} (kw : Within 0x4000000 W) (h : But W s0 s) : But W s0 (startRefill v s) := by
  unfold startRefill; exact (but_updRec (kw.le rfl) h)

theorem but_endRefill {W : Nat} {s0 s : State} (kw : Within 0x4000000 W) (h : But W s0 s) : But W s0 (endRefill s) := by
  unfold endRefill; exact (but_ite h (but_updRec (kw.le rfl) h))

theorem but_readEntry {W : Nat} {s0 s : State} {w : Requester} {i : Fin 32} (kw : Within 0x1004000000 W) (h : But W s0 s) : But W s0 (readEntry w i s) := by
  unfold readEntry; exact (but_answer (kw.le rfl) (but_updRec (kw.le rfl) h))

theorem but_fwWrite {W : Nat} {s0 s : State} {w : Requester} (kw : Within 0x4000002 W) (h : But W s0 s) : But W s0 (fwWrite w s) := by
  unfold fwWrite; exact (by (try dsimp only); split; exacts [h, (but_ite (but_updRec (kw.le rfl) h) (but_ite (but_updRec (kw.le rfl) h) (but_ite (but_enqueueEvent (kw.le rfl) (but_updRec (kw.le rfl) h)) (but_enqueueEvent (kw.le rfl) (but_updRec (kw.le rfl) h)))))])

theorem but_clearDrops {W : Nat} {s0 s : State} (kw : Within 0x4000000 W) (h : But W s0 s) : But W s0 (clearDrops s) := by
  unfold clearDrops; exact (by (try dsimp only); split; exacts [(but_updRegion (kw.le rfl) h), h])

theorem but_clearLost {W : Nat} {s0 s : State} (kw : Within 0x4000000 W) (h : But W s0 s) : But W s0 (clearLost s) := by
  unfold clearLost; exact (but_updRec (kw.le rfl) h)

theorem but_execEventRecord {s t : State} {ev : EventIn} (e : execEventRecord ev s = .next t) : But 0x4000002 s t := by
  have h := But.self 0x4000002 s
  have kw := Within.self 0x4000002
  cases e; exact (but_enqueueEvent (kw.le rfl) h)

theorem but_execRecordStore {s t : State} (e : execRecordStore s = .next t) : But 0x4004000002 s t := by
  have h := But.self 0x4004000002 s
  have kw := Within.self 0x4004000002
  cases e; exact (but_takeRecord (kw.le rfl) h)

theorem but_execSeriesTimeout {s t : State} {region : Fin 9} (e : execSeriesTimeout region s = .next t) : But 0x4004000012 s t := by
  have h := But.self 0x4004000012 s
  have kw := Within.self 0x4004000012
  cases e; exact (but_seriesTimeout (kw.le rfl) h)

theorem but_execRecRefill {s t : State} {q : Req} {val : Word} (e : execRecRefill q val s = .next t) : But 0x3004000002 s t := by
  have h := But.self 0x3004000002 s
  have kw := Within.self 0x3004000002
  cases e; exact (but_onPage (kw.le rfl) (fun _ h1 => (but_startRefill (kw.le rfl) h1)) h)

theorem but_execRecRefillEnd {s t : State} (e : execRecRefillEnd s = .next t) : But 0x4000000 s t := by
  have h := But.self 0x4000000 s
  have kw := Within.self 0x4000000
  cases e; exact (but_endRefill (kw.le rfl) h)

theorem but_execRecWinRead {s t : State} {q : Req} {entry : Fin 32} (e : execRecWinRead q entry s = .next t) : But 0x3004000002 s t := by
  have h := But.self 0x3004000002 s
  have kw := Within.self 0x3004000002
  cases e; exact (but_onPage (kw.le rfl) (fun _ h1 => (but_readEntry (kw.le rfl) h1)) h)

theorem but_execRecFwWrite {s t : State} {q : Req} (e : execRecFwWrite q s = .next t) : But 0x3004000002 s t := by
  have h := But.self 0x3004000002 s
  have kw := Within.self 0x3004000002
  cases e; exact (but_onPage (kw.le rfl) (fun _ h1 => (but_fwWrite (kw.le rfl) h1)) h)

theorem but_execRecClrDrops {s t : State} {q : Req} (e : execRecClrDrops q s = .next t) : But 0x3004000002 s t := by
  have h := But.self 0x3004000002 s
  have kw := Within.self 0x3004000002
  cases e; exact (but_onPage (kw.le rfl) (fun _ h1 => (but_clearDrops (kw.le rfl) h1)) h)

theorem but_execRecClrLost {s t : State} {q : Req} (e : execRecClrLost q s = .next t) : But 0x3004000002 s t := by
  have h := But.self 0x3004000002 s
  have kw := Within.self 0x3004000002
  cases e; exact (but_onPage (kw.le rfl) (fun _ h1 => (but_clearLost (kw.le rfl) h1)) h)

theorem but_mk_historian {W : Nat} {s0 x : State} {historian'} (kw : Within 0x8000000 W) (h : But W s0 x) :
    But W s0 (State.mk x.part x.hdrs x.latches x.heldLow x.tb x.crests x.hub x.flitFails x.packets x.nextPacket x.opened x.pool x.sram x.staged x.sched x.run x.trio x.safety x.field x.panel x.ports x.cans x.uarts x.super x.mail x.host x.recorder historian' x.otp x.store x.flash x.sec x.upd x.pwr x.forceInd x.tapReset x.resp x.out x.free x.pending) :=
  h.put kw fun c hc => by cases c <;> first | rfl | exact absurd hc (by decide)

theorem but_updHis {W : Nat} {s0 s : State} {f : Historian → Historian} (kw : Within 0x8000000 W) (h : But W s0 s) : But W s0 (updHis f s) := by
  unfold updHis; exact (but_mk_historian (kw.le rfl) h)

theorem but_refreshShares {W : Nat} {s0 s : State} (kw : Within 0x400c000002 W) (h : But W s0 s) : But W s0 (refreshShares s) := by
  unfold refreshShares; exact (but_foldl (fun _ _ h1 => (but_raise (kw.le rfl) h1)) (but_updHis (kw.le rfl) h))

theorem but_setDrive {W : Nat} {s0 s : State} {d : Fin 4} {st : DriveState} (kw : Within 0x400c000002 W) (h : But W s0 s) : But W s0 (setDrive d st s) := by
  unfold setDrive; exact (but_ite h (but_refreshShares (kw.le rfl) (but_raiseSev (kw.le rfl) (but_updHis (kw.le rfl) h))))

theorem but_indexRead {W : Nat} {s0 s : State} {found : Vec (Option DriveInfo) 4} (kw : Within 0x400c000002 W) (h : But W s0 s) : But W s0 (indexRead found s) := by
  unfold indexRead; exact (but_ite h (but_updHis (kw.le rfl) (but_foldl (fun _ _ h1 => (by (try dsimp only); split; exacts [(but_setDrive (kw.le rfl) h1), (but_setDrive (kw.le rfl) (but_updHis (kw.le rfl) h1))])) h)))

theorem but_smart {W : Nat} {s0 s : State} {d : Fin 4} {l : SmartLog} (kw : Within 0x400c000002 W) (h : But W s0 s) : But W s0 (smart d l s) := by
  unfold smart; exact (but_ite h (but_ite (but_updHis (kw.le rfl) h) (but_ite (but_setDrive (kw.le rfl) (but_updHis (kw.le rfl) h)) (but_ite (but_setDrive (kw.le rfl) (but_updHis (kw.le rfl) h)) (but_updHis (kw.le rfl) h)))))

theorem but_driveFails {W : Nat} {s0 s : State} {d : Fin 4} (kw : Within 0x400c000002 W) (h : But W s0 s) : But W s0 (driveFails d s) := by
  unfold driveFails; exact (but_ite (but_setDrive (kw.le rfl) h) h)

theorem but_nextGroup {W : Nat} {s0 s : State} {x : BitVec 3 × BitVec 8} (kw : Within 0x8000000 W) (h : But W s0 s) : But W s0 (nextGroup s x) := by
  unfold nextGroup; exact (but_ite (but_updHis (kw.le rfl) h) (but_updHis (kw.le rfl) h))

theorem but_countGroups {W : Nat} {s0 s : State} (kw : Within 0x8000000 W) (h : But W s0 s) : But W s0 (countGroups s) := by
  unfold countGroups; exact (but_foldl (fun _ _ h1 => (but_nextGroup (kw.le rfl) h1)) h)

theorem but_gapBlock {W : Nat} {s0 s : State} {b : Block} {cause : BitVec 3} (kw : Within 0x400c000002 W) (h : But W s0 s) : But W s0 (gapBlock b cause s) := by
  unfold gapBlock; exact (but_raise (kw.le rfl) (but_bump (kw.le rfl) (but_updHis (kw.le rfl) h)))

theorem but_dropCapture {W : Nat} {s0 s : State} (kw : Within 0x8000000 W) (h : But W s0 s) : But W s0 (dropCapture s) := by
  unfold dropCapture; exact (but_updHis (kw.le rfl) h)

theorem but_refuseCapture {W : Nat} {s0 s : State} {o : Fin 9} {c : BitVec 2} (kw : Within 0x400c000002 W) (h : But W s0 s) : But W s0 (refuseCapture o c s) := by
  unfold refuseCapture; exact (but_ite h (but_note (kw.le rfl) (but_updHis (kw.le rfl) h)))

theorem but_capture {W : Nat} {s0 s : State} {im : SchedImage} {i : ℕ} {e : Capture} {d : List Byte} (kw : Within 0x400c000002 W) (h : But W s0 s) : But W s0 (capture im i e d s) := by
  unfold capture; exact (but_ite (but_dropCapture (kw.le rfl) h) (but_ite (but_dropCapture (kw.le rfl) (but_refuseCapture (kw.le rfl) h)) (but_ite (but_gapBlock (kw.le rfl) h) (but_ite (but_gapBlock (kw.le rfl) h) (but_ite (but_gapBlock (kw.le rfl) h) (but_updHis (kw.le rfl) h))))))

theorem but_spill {W : Nat} {s0 s : State} {r : Fin 9} (kw : Within 0x400c000002 W) (h : But W s0 s) : But W s0 (spill r s) := by
  unfold spill; exact (by (try dsimp only); split; exacts [h, (but_ite h (but_noteConds (kw.le rfl) (but_bump (kw.le rfl) (but_updHis (kw.le rfl) (but_updRegion (kw.le rfl) h)))))])

theorem but_deallocate {W : Nat} {s0 s : State} {which : Chunk → Bool} (kw : Within 0x8000002 W) (h : But W s0 s) : But W s0 (deallocate which s) := by
  unfold deallocate; exact (but_bump (kw.le rfl) (but_updHis (kw.le rfl) h))

theorem but_makeRoom {W : Nat} {s0 s : State} {o : Fin 9} {c : BitVec 2} (kw : Within 0x8000002 W) (h : But W s0 s) : But W s0 (makeRoom o c s) := by
  unfold makeRoom; exact (but_ite (by (try dsimp only); split; exacts [h, (but_bump (kw.le rfl) (but_updHis (kw.le rfl) h))]) h)

theorem but_chunkDone {W : Nat} {s0 s : State} {d : Fin 4} (kw : Within 0x8000002 W) (h : But W s0 s) : But W s0 (chunkDone d s) := by
  unfold chunkDone; exact (by (try dsimp only); split; exacts [h, (but_bump (kw.le rfl) (but_updHis (kw.le rfl) (but_ite (but_makeRoom (kw.le rfl) h) h)))])

theorem but_queryGo {W : Nat} {s0 s : State} (kw : Within 0x8000000 W) (h : But W s0 s) : But W s0 (queryGo s) := by
  unfold queryGo; exact (but_ite (but_updHis (kw.le rfl) h) (but_updHis (kw.le rfl) h))

theorem but_queryEnd {W : Nat} {s0 s : State} (kw : Within 0x400c001002 W) (h : But W s0 s) : But W s0 (queryEnd s) := by
  unfold queryEnd; exact (but_ite h (by (try dsimp only [drawFree]); exact (but_raise (kw.le rfl) (but_updHis (kw.le rfl) (h.put (D := 0x4000001000) (kw.le rfl) fun c hc => by cases c <;> first | rfl | exact absurd hc (by decide))))))

theorem but_execSpillBlock {s t : State} {region : Fin 9} (e : execSpillBlock region s = .next t) : But 0x400c000002 s t := by
  have h := But.self 0x400c000002 s
  have kw := Within.self 0x400c000002
  cases e; exact (but_spill (kw.le rfl) h)

theorem but_execChunkWriteDone {s t : State} {drive : Fin 4} (e : execChunkWriteDone drive s = .next t) : But 0x8000002 s t := by
  have h := But.self 0x8000002 s
  have kw := Within.self 0x8000002
  cases e; exact (but_chunkDone (kw.le rfl) h)

theorem but_execHistorianIndexReadEnd {s t : State} {found : Vec (Option DriveInfo) 4} (e : execHistorianIndexReadEnd found s = .next t) : But 0x400c000002 s t := by
  have h := But.self 0x400c000002 s
  have kw := Within.self 0x400c000002
  cases e; exact (but_indexRead (kw.le rfl) h)

theorem but_execRetentionSweep {s t : State} (e : execRetentionSweep s = .next t) : But 0x8000002 s t := by
  have h := But.self 0x8000002 s
  have kw := Within.self 0x8000002
  cases e; exact (but_deallocate (kw.le rfl) h)

theorem but_execSmartRead {s t : State} {drive : Fin 4} {log : SmartLog} (e : execSmartRead drive log s = .next t) : But 0x400c000002 s t := by
  have h := But.self 0x400c000002 s
  have kw := Within.self 0x400c000002
  cases e; exact (but_smart (kw.le rfl) h)

theorem but_execDriveTimeout {s t : State} {drive : Fin 4} (e : execDriveTimeout drive s = .next t) : But 0x400c000002 s t := by
  have h := But.self 0x400c000002 s
  have kw := Within.self 0x400c000002
  cases e; exact (but_driveFails (kw.le rfl) h)

theorem but_execHisQueryGo {s t : State} {q : Req} (e : execHisQueryGo q s = .next t) : But 0x3008000002 s t := by
  have h := But.self 0x3008000002 s
  have kw := Within.self 0x3008000002
  cases e; exact (but_onPage (kw.le rfl) (fun _ h1 => (but_queryGo (kw.le rfl) h1)) h)

theorem but_execQueryEnd {s t : State} (e : execQueryEnd s = .next t) : But 0x400c001002 s t := by
  have h := But.self 0x400c001002 s
  have kw := Within.self 0x400c001002
  cases e; exact (but_queryEnd (kw.le rfl) h)

theorem but_updUpd {W : Nat} {s0 s : State} {f : Update → Update} (kw : Within 0x100000000 W) (h : But W s0 s) : But W s0 (updUpd f s) := by
  unfold updUpd; exact (but_mk_upd (kw.le rfl) h)

theorem but_updPwr {W : Nat} {s0 s : State} {f : Power → Power} (kw : Within 0x200000000 W) (h : But W s0 s) : But W s0 (updPwr f s) := by
  unfold updPwr; exact (but_mk_pwr (kw.le rfl) h)

theorem but_mk_sec {W : Nat} {s0 x : State} {sec'} (kw : Within 0x80000000 W) (h : But W s0 x) :
    But W s0 (State.mk x.part x.hdrs x.latches x.heldLow x.tb x.crests x.hub x.flitFails x.packets x.nextPacket x.opened x.pool x.sram x.staged x.sched x.run x.trio x.safety x.field x.panel x.ports x.cans x.uarts x.super x.mail x.host x.recorder x.historian x.otp x.store x.flash sec' x.upd x.pwr x.forceInd x.tapReset x.resp x.out x.free x.pending) :=
  h.put kw fun c hc => by cases c <;> first | rfl | exact absurd hc (by decide)

theorem but_updSec {W : Nat} {s0 s : State} {f : Security → Security} (kw : Within 0x80000000 W) (h : But W s0 s) : But W s0 (updSec f s) := by
  unfold updSec; exact (but_mk_sec (kw.le rfl) h)

theorem but_updFlash {W : Nat} {s0 s : State} {f : Flash → Flash} (kw : Within 0x40000000 W) (h : But W s0 s) : But W s0 (updFlash f s) := by
  unfold updFlash; exact (but_mk_flash (kw.le rfl) h)

theorem but_resetDevice {W : Nat} {s0 s : State} {kind rail : BitVec 3} (kw : Within 0x178ffffffe W) (h : But W s0 s) : But W s0 (resetDevice kind rail s) :=
  h.put kw fun c hc => by cases c <;> first | rfl | exact absurd hc (by decide)

theorem but_mk_tapReset {W : Nat} {s0 x : State} {tapReset'} (kw : Within 0x800000000 W) (h : But W s0 x) :
    But W s0 (State.mk x.part x.hdrs x.latches x.heldLow x.tb x.crests x.hub x.flitFails x.packets x.nextPacket x.opened x.pool x.sram x.staged x.sched x.run x.trio x.safety x.field x.panel x.ports x.cans x.uarts x.super x.mail x.host x.recorder x.historian x.otp x.store x.flash x.sec x.upd x.pwr x.forceInd tapReset' x.resp x.out x.free x.pending) :=
  h.put kw fun c hc => by cases c <;> first | rfl | exact absurd hc (by decide)

theorem but_resetPower {W : Nat} {s0 s : State} {kind : BitVec 3} {rail : BitVec 3} (kw : Within 0x1f8ffffffe W) (h : But W s0 s) : But W s0 (resetPower kind rail s) := by
  unfold resetPower; exact (but_mk_tapReset (kw.le rfl) (but_resetDevice (kw.le rfl) h))

theorem but_beginRestart {W : Nat} {s0 s : State} (kw : Within 0x4104a6c802 W) (h : But W s0 s) : But W s0 (beginRestart s) := by
  unfold beginRestart; exact (by (try dsimp only); split; exacts [h, (but_note (kw.le rfl) (but_updUpd (kw.le rfl) (but_updSched (kw.le rfl) (but_stopController (kw.le rfl) h))))])

theorem but_updateRestart {W : Nat} {s0 s : State} (kw : Within 0x4104a6c812 W) (h : But W s0 s) : But W s0 (updateRestart s) := by
  unfold updateRestart; exact (but_ite (but_beginRestart (kw.le rfl) (but_reach (kw.le rfl) h)) h)

theorem but_updateReset {W : Nat} {s0 s : State} (kw : Within 0x178ffffffe W) (h : But W s0 s) : But W s0 (updateReset s) := by
  unfold updateReset; exact (by (try dsimp only); split; exacts [h, (but_resetDevice (kw.le rfl) h)])

theorem but_requestReset {W : Nat} {s0 s : State} {key : Byte} (kw : Within 0x178ffffffe W) (h : But W s0 s) : But W s0 (requestReset key s) := by
  unfold requestReset; exact (but_ite h (but_ite (but_updUpd (kw.le rfl) h) (but_resetDevice (kw.le rfl) h)))

theorem but_onSecure {W : Nat} {s0 s : State} {q : Req} {pg : Page} {f : State → State} (kk : Within 0x3000000002 W) (k : ∀ x, But W s0 x → But W s0 (f x)) (h : But W s0 s) :
    But W s0 (onSecure q pg f s) := by
  unfold onSecure; exact (but_ite (but_onPage (kk.le rfl) k h) (but_refuse (kk.le rfl) h))

theorem but_execPorAssert {s t : State} (e : execPorAssert s = .next t) : But 0x1f8ffffffe s t := by
  have h := But.self 0x1f8ffffffe s
  have kw := Within.self 0x1f8ffffffe
  cases e; exact (but_resetPower (kw.le rfl) h)

theorem but_execInternalReset {s t : State} {rail : Fin 6} (e : execInternalReset rail s = .next t) : But 0x1f8ffffffe s t := by
  have h := But.self 0x1f8ffffffe s
  have kw := Within.self 0x1f8ffffffe
  cases e; exact (but_ite (but_resetPower (kw.le rfl) h) h)

theorem but_execTapReset {s t : State} (e : execTapReset s = .next t) : But 0x800000000 s t := by
  have h := But.self 0x800000000 s
  have kw := Within.self 0x800000000
  cases e; exact (but_mk_tapReset (kw.le rfl) h)

theorem but_execPwrReset {s t : State} {q : Req} {key : Byte} (e : execPwrReset q key s = .next t) : But 0x378ffffffe s t := by
  have h := But.self 0x378ffffffe s
  have kw := Within.self 0x378ffffffe
  cases e; exact (but_onSecure (kw.le rfl) (fun _ h1 => (but_requestReset (kw.le rfl) h1)) h)

theorem but_execUpdateRestart {s t : State} (e : execUpdateRestart s = .next t) : But 0x4104a6c812 s t := by
  have h := But.self 0x4104a6c812 s
  have kw := Within.self 0x4104a6c812
  cases e; exact (but_updateRestart (kw.le rfl) h)

theorem but_execUpdateReset {s t : State} (e : execUpdateReset s = .next t) : But 0x178ffffffe s t := by
  have h := But.self 0x178ffffffe s
  have kw := Within.self 0x178ffffffe
  cases e; exact (but_updateReset (kw.le rfl) h)

theorem but_permitExpires {W : Nat} {s0 s : State} (kw : Within 0x4084000012 W) (h : But W s0 s) : But W s0 (permitExpires s) := by
  unfold permitExpires; exact (by (try dsimp only); split; exacts [h, (but_updSec (kw.le rfl) (but_reachLocal (kw.le rfl) h))])

theorem but_battery {W : Nat} {s0 s : State} {on : Bool} (kw : Within 0x100000000 W) (h : But W s0 s) : But W s0 (battery on s) := by
  unfold battery; exact (but_updUpd (kw.le rfl) h)

theorem but_ticketDone {W : Nat} {s0 s : State} {c : Byte} (kw : Within 0x4084000002 W) (h : But W s0 s) : But W s0 (ticketDone c s) := by
  unfold ticketDone; exact (but_raise (kw.le rfl) (but_updSec (kw.le rfl) h))

theorem but_newNonce {W : Nat} {s0 s : State} (kw : Within 0x4080000000 W) (h : But W s0 s) : But W s0 (newNonce s) := by
  unfold newNonce; exact (by (try dsimp only [drawFree]); exact (but_updSec (kw.le rfl) (but_mk_free (kw.le rfl) h)))

theorem but_ticketTaken {W : Nat} {s0 s : State} (kw : Within 0x4084000002 W) (h : But W s0 s) : But W s0 (ticketTaken s) := by
  unfold ticketTaken; exact (but_ticketDone (kw.le rfl) (but_newNonce (kw.le rfl) h))

theorem but_mk_otp {W : Nat} {s0 x : State} {otp'} (kw : Within 0x10000000 W) (h : But W s0 x) :
    But W s0 (State.mk x.part x.hdrs x.latches x.heldLow x.tb x.crests x.hub x.flitFails x.packets x.nextPacket x.opened x.pool x.sram x.staged x.sched x.run x.trio x.safety x.field x.panel x.ports x.cans x.uarts x.super x.mail x.host x.recorder x.historian otp' x.store x.flash x.sec x.upd x.pwr x.forceInd x.tapReset x.resp x.out x.free x.pending) :=
  h.put kw fun c hc => by cases c <;> first | rfl | exact absurd hc (by decide)

theorem but_updOtp {W : Nat} {s0 s : State} {f : Otp → Otp} (kw : Within 0x10000000 W) (h : But W s0 s) : But W s0 (updOtp f s) := by
  unfold updOtp; exact (but_mk_otp (kw.le rfl) h)

theorem but_burnGroup {W : Nat} {s0 s : State} {bit : ℕ} (kw : Within 0x10000000 W) (h : But W s0 s) : But W s0 (burnGroup bit s) := by
  unfold burnGroup; exact (but_updOtp (kw.le rfl) h)

theorem but_lcActions {W : Nat} {s0 s : State} {t : ℕ} {payload : List Byte} (kw : Within 0x70000000 W) (h : But W s0 s) : But W s0 (lcActions t payload s) := by
  unfold lcActions; exact (but_ite (but_updOtp (kw.le rfl) h) (but_ite (but_writeBoot (kw.le rfl) (but_updFlash (kw.le rfl) (but_updStore (kw.le rfl) h))) h))

theorem but_lcSteps {W : Nat} {s0 s : State} {t : ℕ} {payload : List Byte} (kw : Within 0x57fffffffe W) (h : But W s0 s) : But W s0 (lcSteps t payload s) := by
  unfold lcSteps; exact (but_ite (but_resetDevice (kw.le rfl) (but_raise (kw.le rfl) (but_burnGroup (kw.le rfl) (but_lcActions (kw.le rfl) (but_updSec (kw.le rfl) (but_burnGroup (kw.le rfl) h)))))) (but_raise (kw.le rfl) (but_burnGroup (kw.le rfl) (but_lcActions (kw.le rfl) (but_updSec (kw.le rfl) (but_burnGroup (kw.le rfl) h))))))

theorem but_ticketEffect {W : Nat} {s0 s t : State} {flashOk : Bool} {env payload : List Byte} (kk : Within 0x57fffffffe W) (h : But W s0 s)
    (e : ticketEffect flashOk env payload s = .ok t) : But W s0 t := by
  unfold ticketEffect at e
  split at e
  · dsimp only at e
    split at e
    · cases e
    · split at e
      · cases e
      · split at e
        · cases e
        · split at e
          · cases e
          · cases e
            exact but_lcSteps (kk.le rfl) (but_updSec (kk.le rfl) (but_ticketTaken (kk.le rfl) (but_writeStoreRec (kk.le rfl) (but_updStore (kk.le rfl) h))))
  · cases e; exact but_ticketTaken (kk.le rfl) (but_updStore (kk.le rfl) h)
  · cases e; exact but_ticketTaken (kk.le rfl) (but_updStore (kk.le rfl) h)
  · split at e
    · cases e
    · cases e
      exact but_ticketTaken (kk.le rfl) (but_ite (but_updPort (kk.le rfl) (but_updPort (kk.le rfl) (but_updStore (kk.le rfl) h))) (but_updStore (kk.le rfl) h))
  · cases e; exact but_ticketTaken (kk.le rfl) (but_updSec (kk.le rfl) h)
  · dsimp only at e
    split at e
    · cases e
    · cases e
      exact but_ticketTaken (kk.le rfl) (but_updOtp (kk.le rfl) h)
  · cases e

theorem but_submitTicket {W : Nat} {s0 s : State} {flashOk : Bool} (kk : Within 0x57fffffffe W) (h : But W s0 s) : But W s0 (submitTicket flashOk s) := by
  unfold submitTicket
  split
  · exact but_ticketDone (kk.le rfl) h
  · refine but_ite (but_ticketDone (kk.le rfl) h) (but_ite (but_ticketDone (kk.le rfl) h) ?_)
    split
    · exact but_ticketDone (kk.le rfl) h
    · exact but_ticketEffect kk h ‹_›

theorem but_submitOp {W : Nat} {s0 s : State} {op : ℕ} {flashOk : Bool} (kw : Within 0x57fffffffe W) (h : But W s0 s) : But W s0 (submitOp op flashOk s) := by
  unfold submitOp; exact (but_ite (but_submitTicket (kw.le rfl) h) h)

theorem but_rollForward {W : Nat} {s0 s : State} (kw : Within 0x57fffffffe W) (h : But W s0 s) : But W s0 (rollForward s) := by
  unfold rollForward; exact (by (try dsimp only); split; exacts [h, (but_ite (but_lcSteps (kw.le rfl) (but_updSec (kw.le rfl) h)) (but_updUpd (kw.le rfl) (but_updSec (kw.le rfl) h)))])

theorem but_makeIdentity {W : Nat} {s0 s : State} (kw : Within 0x4010000000 W) (h : But W s0 s) : But W s0 (makeIdentity s) := by
  unfold makeIdentity; exact (but_ite (by (try dsimp only [drawFree]); exact (by (try dsimp only [drawFree]); exact (but_updOtp (kw.le rfl) (but_mk_free (kw.le rfl) (but_mk_free (kw.le rfl) h))))) h)

theorem but_marginRead {W : Nat} {s0 s : State} (kw : Within 0x10000000 W) (h : But W s0 s) : But W s0 (marginRead s) := by
  unfold marginRead; exact (but_updOtp (kw.le rfl) h)

theorem but_bootRom {W : Nat} {s0 s : State} (kw : Within 0x57fffffffe W) (h : But W s0 s) : But W s0 (bootRom s) := by
  unfold bootRom; exact (but_rollForward (kw.le rfl) (but_updSec (kw.le rfl) (but_newNonce (kw.le rfl) (but_makeIdentity (kw.le rfl) (but_readStoreRec (kw.le rfl) (but_readBoot (kw.le rfl) (but_marginRead (kw.le rfl) h)))))))

theorem but_execTicketLcAdvance {s t : State} {q : Req} {flashOk : Bool} (e : execTicketLcAdvance q flashOk s = .next t) : But 0x77fffffffe s t := by
  have h := But.self 0x77fffffffe s
  have kw := Within.self 0x77fffffffe
  cases e; exact (but_onPage (kw.le rfl) (fun _ h1 => (but_submitOp (kw.le rfl) h1)) h)

theorem but_execTicketLock {s t : State} {q : Req} (e : execTicketLock q s = .next t) : But 0x77fffffffe s t := by
  have h := But.self 0x77fffffffe s
  have kw := Within.self 0x77fffffffe
  cases e; exact (but_onPage (kw.le rfl) (fun _ h1 => (but_submitOp (kw.le rfl) h1)) h)

theorem but_execTicketUnlock {s t : State} {q : Req} (e : execTicketUnlock q s = .next t) : But 0x77fffffffe s t := by
  have h := But.self 0x77fffffffe s
  have kw := Within.self 0x77fffffffe
  cases e; exact (but_onPage (kw.le rfl) (fun _ h1 => (but_submitOp (kw.le rfl) h1)) h)

theorem but_execTicketCak {s t : State} {q : Req} (e : execTicketCak q s = .next t) : But 0x77fffffffe s t := by
  have h := But.self 0x77fffffffe s
  have kw := Within.self 0x77fffffffe
  cases e; exact (but_onPage (kw.le rfl) (fun _ h1 => (but_submitOp (kw.le rfl) h1)) h)

theorem but_execTicketPermit {s t : State} {q : Req} (e : execTicketPermit q s = .next t) : But 0x77fffffffe s t := by
  have h := But.self 0x77fffffffe s
  have kw := Within.self 0x77fffffffe
  cases e; exact (but_onPage (kw.le rfl) (fun _ h1 => (but_submitOp (kw.le rfl) h1)) h)

theorem but_execTicketRevoke {s t : State} {q : Req} (e : execTicketRevoke q s = .next t) : But 0x77fffffffe s t := by
  have h := But.self 0x77fffffffe s
  have kw := Within.self 0x77fffffffe
  cases e; exact (but_onPage (kw.le rfl) (fun _ h1 => (but_submitOp (kw.le rfl) h1)) h)

theorem but_execPermitExpire {s t : State} (e : execPermitExpire s = .next t) : But 0x4084000012 s t := by
  have h := But.self 0x4084000012 s
  have kw := Within.self 0x4084000012
  cases e; exact (but_permitExpires (kw.le rfl) h)

theorem but_execBatteryCondition {s t : State} {on : Bool} (e : execBatteryCondition on s = .next t) : But 0x100000000 s t := by
  have h := But.self 0x100000000 s
  have kw := Within.self 0x100000000
  cases e; exact (but_battery (kw.le rfl) h)

theorem but_updCode {W : Nat} {s0 s : State} {c : Byte} (kw : Within 0x100000000 W) (h : But W s0 s) : But W s0 (updCode c s) := by
  unfold updCode; exact (but_updUpd (kw.le rfl) h)

theorem but_updRefuse {W : Nat} {s0 s : State} {c : Byte} (kw : Within 0x4104000002 W) (h : But W s0 s) : But W s0 (updRefuse c s) := by
  unfold updRefuse; exact (but_raise (kw.le rfl) (but_updCode (kw.le rfl) h))

theorem but_updSlot {W : Nat} {s0 s : State} {b : Bool} {f : FwSlot → FwSlot} (kw : Within 0x40000000 W) (h : But W s0 s) : But W s0 (updSlot b f s) := by
  unfold updSlot; exact (but_updFlash (kw.le rfl) h)

theorem but_cmdUpdLoad {W : Nat} {s0 s : State} {slot : Bool} (kw : Within 0x4144000002 W) (h : But W s0 s) : But W s0 (cmdUpdLoad slot s) := by
  unfold cmdUpdLoad; exact (but_ite (but_updRefuse (kw.le rfl) h) (but_writeBoot (kw.le rfl) (but_updSlot (kw.le rfl) (but_updUpd (kw.le rfl) h))))

theorem but_endUpdLoad {W : Nat} {s0 s : State} {flashOk : Bool} (kw : Within 0x57cffffffe W) (h : But W s0 s) : But W s0 (endUpdLoad flashOk s) := by
  unfold endUpdLoad; exact (but_ite h (but_ite (but_raise (kw.le rfl) (but_writeBoot (kw.le rfl) (but_updSlot (kw.le rfl) (but_updCode (kw.le rfl) (but_updUpd (kw.le rfl) h))))) (but_ite (but_resetDevice (kw.le rfl) (but_writeBoot (kw.le rfl) (but_updSlot (kw.le rfl) (but_raise (kw.le rfl) (but_writeBoot (kw.le rfl) (but_updSlot (kw.le rfl) (but_updCode (kw.le rfl) (but_updUpd (kw.le rfl) h)))))))) (but_raise (kw.le rfl) (but_writeBoot (kw.le rfl) (but_updSlot (kw.le rfl) (but_updCode (kw.le rfl) (but_updUpd (kw.le rfl) h))))))))

theorem but_cmdUpdErase {W : Nat} {s0 s : State} (kw : Within 0x4144000002 W) (h : But W s0 s) : But W s0 (cmdUpdErase s) := by
  unfold cmdUpdErase; exact (but_ite (but_updRefuse (kw.le rfl) h) (but_writeBoot (kw.le rfl) (but_updSlot (kw.le rfl) (but_updCode (kw.le rfl) h))))

theorem but_cmdUpdActivate {W : Nat} {s0 s : State} (kw : Within 0x4184000002 W) (h : But W s0 s) : But W s0 (cmdUpdActivate s) := by
  unfold cmdUpdActivate; exact (but_ite (but_updRefuse (kw.le rfl) h) (but_ite (but_updRefuse (kw.le rfl) h) (but_ite (but_updRefuse (kw.le rfl) h) (by (try dsimp only); split; exacts [(but_updRefuse (kw.le rfl) h), (but_updCode (kw.le rfl) (but_updSec (kw.le rfl) (but_updUpd (kw.le rfl) h)))]))))

theorem but_cmdUpdCancel {W : Nat} {s0 s : State} (kw : Within 0x4104000002 W) (h : But W s0 s) : But W s0 (cmdUpdCancel s) := by
  unfold cmdUpdCancel; exact (but_ite (but_updRefuse (kw.le rfl) h) (but_ite (but_updRefuse (kw.le rfl) h) (but_updCode (kw.le rfl) (but_updUpd (kw.le rfl) h))))

theorem but_updCommit {W : Nat} {s0 s : State} (kw : Within 0x4144000002 W) (h : But W s0 s) : But W s0 (updCommit s) := by
  unfold updCommit; exact (but_ite h (but_ite (but_writeBoot (kw.le rfl) (but_updRunning (kw.le rfl) (but_updUpd (kw.le rfl) h))) (but_ite (by (try dsimp only); split; exacts [(but_updRefuse (kw.le rfl) (but_updUpd (kw.le rfl) h)), (but_writeBoot (kw.le rfl) (but_updFlash (kw.le rfl) (but_updOther (kw.le rfl) (but_updUpd (kw.le rfl) h))))]) h)))

theorem but_confirm {W : Nat} {s0 s : State} {token : Word} (kw : Within 0x4154000002 W) (h : But W s0 s) : But W s0 (confirm token s) := by
  unfold confirm; exact (but_ite (but_updRefuse (kw.le rfl) h) (but_ite (but_updRefuse (kw.le rfl) h) (but_raise (kw.le rfl) (but_writeBoot (kw.le rfl) (but_updUpd (kw.le rfl) (but_updOther (kw.le rfl) (but_updRunning (kw.le rfl) (but_updOtp (kw.le rfl) h))))))))

theorem but_windowExpires {W : Nat} {s0 s : State} (kw : Within 0x57cffffffe W) (h : But W s0 s) : But W s0 (windowExpires s) := by
  unfold windowExpires; exact (but_ite h (but_ite (but_updUpd (kw.le rfl) (but_ite (but_giveUp (kw.le rfl) (but_reachLocal (kw.le rfl) h)) (but_reachLocal (kw.le rfl) h))) (but_resetDevice (kw.le rfl) (but_writeBoot (kw.le rfl) (but_updRunning (kw.le rfl) (but_ite (but_giveUp (kw.le rfl) (but_reachLocal (kw.le rfl) h)) (but_reachLocal (kw.le rfl) h)))))))

theorem but_cmdUpdStore {W : Nat} {s0 s : State} {shadow : Bool} (kw : Within 0x4104000002 W) (h : But W s0 s) : But W s0 (cmdUpdStore shadow s) := by
  unfold cmdUpdStore; exact (but_ite (but_updRefuse (kw.le rfl) h) (by (try dsimp only); split; exacts [(but_updRefuse (kw.le rfl) h), (but_updCode (kw.le rfl) (but_updUpd (kw.le rfl) h))]))

theorem but_putStore {W : Nat} {s0 s : State} {e : Option StoreEntry} (kw : Within 0x40000000 W) (h : But W s0 s) : But W s0 (putStore e s) := by
  unfold putStore; exact (but_updFlash (kw.le rfl) h)

theorem but_endStore {W : Nat} {s0 s : State} {ok : Bool} (kw : Within 0x4144000002 W) (h : But W s0 s) : But W s0 (endStore ok s) := by
  unfold endStore; exact (by (try dsimp only); split; exacts [h, (but_ite (but_writeBoot (kw.le rfl) (but_updFlash (kw.le rfl) (but_putStore (kw.le rfl) (but_updUpd (kw.le rfl) h)))) (but_updRefuse (kw.le rfl) (but_putStore (kw.le rfl) (but_updUpd (kw.le rfl) h))))])

theorem but_fallback {W : Nat} {s0 s : State} {why : BitVec 2} (kw : Within 0x4104000002 W) (h : But W s0 s) : But W s0 (fallback why s) := by
  unfold fallback; exact (but_raise (kw.le rfl) (but_updUpd (kw.le rfl) h))

theorem but_chooseSlot {W : Nat} {s0 s : State} (kk : Within 0x4144000002 W) (h : But W s0 s) : But W s0 (chooseSlot s).2 := by
  unfold chooseSlot
  dsimp only
  split
  · split
    · exact but_writeBoot (kk.le rfl) (but_updFlash (kk.le rfl) h)
    · exact but_fallback (kk.le rfl) (but_writeBoot (kk.le rfl) (but_updSlot (kk.le rfl) h))
  · exact h

theorem but_runSlot {W : Nat} {s0 s : State} {b : Bool} (kw : Within 0x100801000 W) (h : But W s0 s) : But W s0 (runSlot b s) := by
  unfold runSlot; exact (but_updUpd (kw.le rfl) (but_updSuper (kw.le rfl) (but_mk_sram (kw.le rfl) h)))

theorem but_tryOther {W : Nat} {s0 s : State} {b : Bool} (kw : Within 0x4144801002 W) (h : But W s0 s) : But W s0 (tryOther b s) := by
  unfold tryOther; exact (but_ite (but_runSlot (kw.le rfl) (but_writeBoot (kw.le rfl) (but_updSlot (kw.le rfl) h))) (but_updUpd (kw.le rfl) (but_ite (but_fallback (kw.le rfl) (but_writeBoot (kw.le rfl) (but_updSlot (kw.le rfl) h))) h)))

theorem but_bootSlots {W : Nat} {s0 s : State} (kk : Within 0x4144801002 W) (h : But W s0 s) : But W s0 (bootSlots s) := by
  have k := but_chooseSlot (kk.le rfl) h
  unfold bootSlots
  dsimp only
  split
  · exact but_ite (but_tryOther (kk.le rfl) k) (but_tryOther (kk.le rfl) k)
  · exact but_ite (but_runSlot (kk.le rfl) k) (but_tryOther (kk.le rfl) (but_fallback (kk.le rfl) (but_writeBoot (kk.le rfl) (but_updSlot (kk.le rfl) k))))

theorem but_execUpdLoad {s t : State} {q : Req} {slot : Bool} (e : execUpdLoad q slot s = .next t) : But 0x7144000002 s t := by
  have h := But.self 0x7144000002 s
  have kw := Within.self 0x7144000002
  cases e; exact (but_onPage (kw.le rfl) (fun _ h1 => (but_cmdUpdLoad (kw.le rfl) h1)) h)

theorem but_execUpdLoadEnd {s t : State} {flashOk : Bool} (e : execUpdLoadEnd flashOk s = .next t) : But 0x57cffffffe s t := by
  have h := But.self 0x57cffffffe s
  have kw := Within.self 0x57cffffffe
  cases e; exact (but_endUpdLoad (kw.le rfl) h)

theorem but_execUpdActivate {s t : State} {q : Req} (e : execUpdActivate q s = .next t) : But 0x7184000002 s t := by
  have h := But.self 0x7184000002 s
  have kw := Within.self 0x7184000002
  cases e; exact (but_onPage (kw.le rfl) (fun _ h1 => (but_cmdUpdActivate (kw.le rfl) h1)) h)

theorem but_execUpdCancel {s t : State} {q : Req} (e : execUpdCancel q s = .next t) : But 0x7104000002 s t := by
  have h := But.self 0x7104000002 s
  have kw := Within.self 0x7104000002
  cases e; exact (but_onPage (kw.le rfl) (fun _ h1 => (but_cmdUpdCancel (kw.le rfl) h1)) h)

theorem but_execUpdErase {s t : State} {q : Req} (e : execUpdErase q s = .next t) : But 0x7144000002 s t := by
  have h := But.self 0x7144000002 s
  have kw := Within.self 0x7144000002
  cases e; exact (but_onPage (kw.le rfl) (fun _ h1 => (but_cmdUpdErase (kw.le rfl) h1)) h)

theorem but_execUpdStore {s t : State} {q : Req} {shadow : Bool} (e : execUpdStore q shadow s = .next t) : But 0x7104000002 s t := by
  have h := But.self 0x7104000002 s
  have kw := Within.self 0x7104000002
  cases e; exact (but_onPage (kw.le rfl) (fun _ h1 => (but_cmdUpdStore (kw.le rfl) h1)) h)

theorem but_execUpdStoreEnd {s t : State} {ok : Bool} (e : execUpdStoreEnd ok s = .next t) : But 0x4144000002 s t := by
  have h := But.self 0x4144000002 s
  have kw := Within.self 0x4144000002
  cases e; exact (but_endStore (kw.le rfl) h)

theorem but_execUpdateCommitPoint {s t : State} (e : execUpdateCommitPoint s = .next t) : But 0x4144000002 s t := by
  have h := But.self 0x4144000002 s
  have kw := Within.self 0x4144000002
  cases e; exact (but_updCommit (kw.le rfl) h)

theorem but_execUpdConfirm {s t : State} {q : Req} {token : Word} (e : execUpdConfirm q token s = .next t) : But 0x7154000002 s t := by
  have h := But.self 0x7154000002 s
  have kw := Within.self 0x7154000002
  cases e; exact (but_onSecure (kw.le rfl) (fun _ h1 => (but_confirm (kw.le rfl) h1)) h)

theorem but_execConfirmWindowExpire {s t : State} (e : execConfirmWindowExpire s = .next t) : But 0x57cffffffe s t := by
  have h := But.self 0x57cffffffe s
  have kw := Within.self 0x57cffffffe
  cases e; exact (but_windowExpires (kw.le rfl) h)

theorem but_linkDown {W : Nat} {s0 s : State} {l : ℕ} (kw : Within 0x4004840062 W) (h : But W s0 s) : But W s0 (linkDown l s) := by
  unfold linkDown; exact (by (try dsimp only); split; exacts [h, (but_ite (but_fieldLinkFalls (kw.le rfl) h) (but_portDown (kw.le rfl) (but_portDown (kw.le rfl) (but_urgent (kw.le rfl) h))))])

theorem but_mk_flitFails {W : Nat} {s0 x : State} {flitFails'} (kw : Within 0x80 W) (h : But W s0 x) :
    But W s0 (State.mk x.part x.hdrs x.latches x.heldLow x.tb x.crests x.hub flitFails' x.packets x.nextPacket x.opened x.pool x.sram x.staged x.sched x.run x.trio x.safety x.field x.panel x.ports x.cans x.uarts x.super x.mail x.host x.recorder x.historian x.otp x.store x.flash x.sec x.upd x.pwr x.forceInd x.tapReset x.resp x.out x.free x.pending) :=
  h.put kw fun c hc => by cases c <;> first | rfl | exact absurd hc (by decide)

theorem but_flitFails {W : Nat} {s0 s : State} {ld : LinkDir} {again : Bool} (kw : Within 0x4204a7c8e2 W) (h : But W s0 s) : But W s0 (flitFails ld again s) := by
  unfold flitFails; exact (by (try dsimp only); split; exacts [h, (but_ite (but_failDevice (kw.le rfl) (but_linkDown (kw.le rfl) (but_bumpSwitch (kw.le rfl) (but_updSwitch (kw.le rfl) (but_mk_flitFails (kw.le rfl) h))))) (but_bumpSwitch (kw.le rfl) (but_updSwitch (kw.le rfl) (but_mk_flitFails (kw.le rfl) h))))])

theorem but_mk_packets_nextPacket {W : Nat} {s0 x : State} {packets' nextPacket'} (kw : Within 0x300 W) (h : But W s0 x) :
    But W s0 (State.mk x.part x.hdrs x.latches x.heldLow x.tb x.crests x.hub x.flitFails packets' nextPacket' x.opened x.pool x.sram x.staged x.sched x.run x.trio x.safety x.field x.panel x.ports x.cans x.uarts x.super x.mail x.host x.recorder x.historian x.otp x.store x.flash x.sec x.upd x.pwr x.forceInd x.tapReset x.resp x.out x.free x.pending) :=
  h.put kw fun c hc => by cases c <;> first | rfl | exact absurd hc (by decide)

theorem but_enterPacket {W : Nat} {s0 s : State} {src : BeSource} {route : Word} {addr : Word} {kind : BeKind} {request : Option ℕ} (kw : Within 0x300 W) (h : But W s0 s) : But W s0 (enterPacket src route addr kind request s) := by
  unfold enterPacket; exact (but_mk_packets_nextPacket (kw.le rfl) h)

theorem but_launch {W : Nat} {s0 s : State} {src : BeSource} {route : Word} {addr : Word} {kind : BeKind} (kw : Within 0x300 W) (h : But W s0 s) : But W s0 (launch src route addr kind s) := by
  unfold launch; exact (but_ite h (but_enterPacket (kw.le rfl) h))

theorem but_complete {W : Nat} {s0 s : State} {queue : Fin 9} {r : Resp} (kw : Within 0x2000000002 W) (h : But W s0 s) : But W s0 (complete queue r s) := by
  unfold complete; exact (but_bump (kw.le rfl) (but_send (kw.le rfl) h))

theorem but_hostPiece {W : Nat} {s0 s : State} {p : Packet} {r : Resp} (kw : Within 0x2002000002 W) (h : But W s0 s) : But W s0 (hostPiece p r s) := by
  unfold hostPiece; exact (by (try dsimp only); split; exacts [h, (but_ite (but_ite (but_complete (kw.le rfl) (but_mk_host (kw.le rfl) h)) (but_mk_host (kw.le rfl) h)) (but_mk_host (kw.le rfl) h))])

theorem but_mk_packets_resp {W : Nat} {s0 x : State} {packets' resp'} (kw : Within 0x1000000100 W) (h : But W s0 x) :
    But W s0 (State.mk x.part x.hdrs x.latches x.heldLow x.tb x.crests x.hub x.flitFails packets' x.nextPacket x.opened x.pool x.sram x.staged x.sched x.run x.trio x.safety x.field x.panel x.ports x.cans x.uarts x.super x.mail x.host x.recorder x.historian x.otp x.store x.flash x.sec x.upd x.pwr x.forceInd x.tapReset resp' x.out x.free x.pending) :=
  h.put kw fun c hc => by cases c <;> first | rfl | exact absurd hc (by decide)

theorem but_endPacket {W : Nat} {s0 s : State} {p : Packet} {r : Resp} (kw : Within 0x3002000102 W) (h : But W s0 s) : But W s0 (endPacket p r s) := by
  unfold endPacket; exact (but_hostPiece (kw.le rfl) (but_mk_packets_resp (kw.le rfl) h))

theorem but_discardPacket {W : Nat} {s0 s : State} {p : Packet} (kw : Within 0x7006000162 W) (h : But W s0 s) : But W s0 (discardPacket p s) := by
  unfold discardPacket; exact (but_endPacket (kw.le rfl) (but_raiseSwitch (kw.le rfl) (but_updSwitch (kw.le rfl) h)))

theorem but_deliverPacket {W : Nat} {s0 s : State} {p : Packet} (kw : Within 0x7006800962 W) (h : But W s0 s) : But W s0 (deliverPacket p s) := by
  unfold deliverPacket; exact (by (try dsimp only); split; exacts [(but_ite (but_endPacket (kw.le rfl) (but_correctIn (kw.le rfl) h)) (but_endPacket (kw.le rfl) (but_countBad (kw.le rfl) (but_correctIn (kw.le rfl) h)))), (but_ite (but_endPacket (kw.le rfl) (but_poolPut (kw.le rfl) h)) (but_endPacket (kw.le rfl) (but_raiseSwitch (kw.le rfl) (but_updSwitch (kw.le rfl) h))))])

theorem but_mk_packets_opened {W : Nat} {s0 x : State} {packets' opened'} (kw : Within 0x500 W) (h : But W s0 x) :
    But W s0 (State.mk x.part x.hdrs x.latches x.heldLow x.tb x.crests x.hub x.flitFails packets' x.nextPacket opened' x.pool x.sram x.staged x.sched x.run x.trio x.safety x.field x.panel x.ports x.cans x.uarts x.super x.mail x.host x.recorder x.historian x.otp x.store x.flash x.sec x.upd x.pwr x.forceInd x.tapReset x.resp x.out x.free x.pending) :=
  h.put kw fun c hc => by cases c <;> first | rfl | exact absurd hc (by decide)

theorem but_drainLink {W : Nat} {s0 s : State} {ld : LinkDir} (kw : Within 0x502 W) (h : But W s0 s) : But W s0 (drainLink ld s) := by
  unfold drainLink; exact (by (try dsimp only); split; exacts [h, (but_bumpSwitch (kw.le rfl) (but_bumpSwitch (kw.le rfl) (but_mk_packets_opened (kw.le rfl) h)))])

theorem but_mk_packets {W : Nat} {s0 x : State} {packets'} (kw : Within 0x100 W) (h : But W s0 x) :
    But W s0 (State.mk x.part x.hdrs x.latches x.heldLow x.tb x.crests x.hub x.flitFails packets' x.nextPacket x.opened x.pool x.sram x.staged x.sched x.run x.trio x.safety x.field x.panel x.ports x.cans x.uarts x.super x.mail x.host x.recorder x.historian x.otp x.store x.flash x.sec x.upd x.pwr x.forceInd x.tapReset x.resp x.out x.free x.pending) :=
  h.put kw fun c hc => by cases c <;> first | rfl | exact absurd hc (by decide)

theorem but_holdPacket {W : Nat} {s0 s : State} {id : ℕ} {l : ℕ} {back : Bool} (kw : Within 0x502 W) (h : But W s0 s) : But W s0 (holdPacket id l back s) := by
  unfold holdPacket; exact (by (try dsimp only); split; exacts [(but_bumpSwitch (kw.le rfl) (but_drainLink (kw.le rfl) (but_mk_packets (kw.le rfl) h))), h])

theorem but_packetArrives {W : Nat} {s0 s : State} {id : ℕ} (kw : Within 0x7006800d62 W) (h : But W s0 s) : But W s0 (packetArrives id s) := by
  unfold packetArrives; exact (by (try dsimp only); split; exacts [h, (but_ite (but_discardPacket (kw.le rfl) h) (but_ite (but_ite (but_deliverPacket (kw.le rfl) h) (but_discardPacket (kw.le rfl) h)) (by (try dsimp only); split; exacts [(but_discardPacket (kw.le rfl) h), (but_holdPacket (kw.le rfl) h)])))])

theorem but_mk_opened {W : Nat} {s0 x : State} {opened'} (kw : Within 0x400 W) (h : But W s0 x) :
    But W s0 (State.mk x.part x.hdrs x.latches x.heldLow x.tb x.crests x.hub x.flitFails x.packets x.nextPacket opened' x.pool x.sram x.staged x.sched x.run x.trio x.safety x.field x.panel x.ports x.cans x.uarts x.super x.mail x.host x.recorder x.historian x.otp x.store x.flash x.sec x.upd x.pwr x.forceInd x.tapReset x.resp x.out x.free x.pending) :=
  h.put kw fun c hc => by cases c <;> first | rfl | exact absurd hc (by decide)

theorem but_openWindow {W : Nat} {s0 s : State} {ld : LinkDir} (kw : Within 0x4004000512 W) (h : But W s0 s) : But W s0 (openWindow ld s) := by
  unfold openWindow; exact (by (try dsimp only); split; exacts [(but_drainLink (kw.le rfl) h), (but_ite h (but_drainLink (kw.le rfl) (but_mk_opened (kw.le rfl) (but_reach (kw.le rfl) h))))])

theorem but_execBePacketLaunch {s t : State} {src : BeSource} {route : Word} {addr : Word} {kind : BeKind} (e : execBePacketLaunch src route addr kind s = .next t) : But 0x300 s t := by
  have h := But.self 0x300 s
  have kw := Within.self 0x300
  cases e; exact (but_launch (kw.le rfl) h)

theorem but_execBePacketArrive {s t : State} {id : ℕ} {upsets : List Upset} (e : execBePacketArrive id upsets s = .next t) : But 0x7006800d62 s t := by
  have h := But.self 0x7006800d62 s
  have kw := Within.self 0x7006800d62
  cases e; exact (but_packetArrives (kw.le rfl) (but_foldl (fun _ _ h1 => (but_upset (kw.le rfl) h1)) h))

theorem but_execFlitCheckFail {s t : State} {ld : LinkDir} {again : Bool} (e : execFlitCheckFail ld again s = .next t) : But 0x4204a7c8e2 s t := by
  have h := But.self 0x4204a7c8e2 s
  have kw := Within.self 0x4204a7c8e2
  cases e; exact (but_flitFails (kw.le rfl) h)

theorem but_execOpenWindowStart {s t : State} {ld : LinkDir} (e : execOpenWindowStart ld s = .next t) : But 0x4004000512 s t := by
  have h := But.self 0x4004000512 s
  have kw := Within.self 0x4004000512
  cases e; exact (but_openWindow (kw.le rfl) h)

theorem but_railDip {W : Nat} {s0 s : State} {rail : Fin 6} (kw : Within 0x4204000002 W) (h : But W s0 s) : But W s0 (railDip rail s) := by
  unfold railDip; exact (but_raise (kw.le rfl) (but_updPwr (kw.le rfl) h))

theorem but_railFault {W : Nat} {s0 s : State} {rail : Fin 6} (kw : Within 0x4204a7c802 W) (h : But W s0 s) : But W s0 (railFault rail s) := by
  unfold railFault; exact (but_failDevice (kw.le rfl) (but_raiseUrgent (kw.le rfl) (but_updPwr (kw.le rfl) h)))

theorem but_pmbusRead {W : Nat} {s0 s : State} {mv : BitVec 10} {da : BitVec 12} (kw : Within 0x200000000 W) (h : But W s0 s) : But W s0 (pmbusRead mv da s) := by
  unfold pmbusRead; exact (but_updPwr (kw.le rfl) h)

theorem but_pmbusRetry {W : Nat} {s0 s : State} {ok : Bool} (kw : Within 0x200000000 W) (h : But W s0 s) : But W s0 (pmbusRetry ok s) := by
  unfold pmbusRetry; exact (but_updPwr (kw.le rfl) h)

theorem but_putTemps {W : Nat} {s0 s : State} {t : Fin 7} {ts : Vec (BitVec 11) 4} (kw : Within 0x200000020 W) (h : But W s0 s) : But W s0 (putTemps t ts s) := by
  unfold putTemps; exact (by (try dsimp only); split; exacts [(but_ite (but_updPwr (kw.le rfl) h) (but_updCrest (kw.le rfl) h)), (but_updPwr (kw.le rfl) h)])

theorem but_recordBad {W : Nat} {s0 s : State} {t : Fin 7} {was : BitVec 4} (kw : Within 0x4004000002 W) (h : But W s0 s) : But W s0 (recordBad t was s) := by
  unfold recordBad; exact (but_foldl (fun _ _ h1 => (but_ite (but_note (kw.le rfl) h1) h1)) h)

theorem but_beginRamp {W : Nat} {s0 s : State} (kw : Within 0x4204800002 W) (h : But W s0 s) : But W s0 (beginRamp s) := by
  unfold beginRamp; exact (but_ite h (but_updPwr (kw.le rfl) (but_foldl (fun _ _ h1 => (but_setPd (kw.le rfl) h1)) h)))

theorem but_tempConds {W : Nat} {s0 s : State} (kw : Within 0x4204000002 W) (h : But W s0 s) : But W s0 (tempConds s) := by
  unfold tempConds; exact (but_noteConds (kw.le rfl) (but_updPwr (kw.le rfl) h))

theorem but_tempRead {W : Nat} {s0 s : State} {t : Fin 7} {ts : Vec (BitVec 11) 4} {held : Bool} (kw : Within 0x4204a7c822 W) (h : But W s0 s) : But W s0 (tempRead t ts held s) := by
  unfold tempRead; exact (but_ite h (but_ite (but_failDevice (kw.le rfl) (but_recordEvent (kw.le rfl) (but_urgent (kw.le rfl) (but_beginRamp (kw.le rfl) (but_tempConds (kw.le rfl) (but_recordBad (kw.le rfl) (but_putTemps (kw.le rfl) h))))))) (but_beginRamp (kw.le rfl) (but_tempConds (kw.le rfl) (but_recordBad (kw.le rfl) (but_putTemps (kw.le rfl) h))))))

theorem but_releaseReset {W : Nat} {s0 s : State} {st : Straps} {voutMode : Byte} (kw : Within 0x57fffffffe W) (h : But W s0 s) : But W s0 (releaseReset st voutMode s) := by
  unfold releaseReset; exact (but_ite h (but_bootRom (kw.le rfl) (but_beginRamp (kw.le rfl) (but_noteConds (kw.le rfl) (but_updPwr (kw.le rfl) (but_ite (but_setPd (kw.le rfl) (but_ite (but_resetFoothill (kw.le rfl) (but_updHis (kw.le rfl) (but_updTrio (kw.le rfl) (but_updPwr (kw.le rfl) (but_mk_tb (kw.le rfl) h))))) (but_updHis (kw.le rfl) (but_updTrio (kw.le rfl) (but_updPwr (kw.le rfl) (but_mk_tb (kw.le rfl) h)))))) (but_ite (but_resetFoothill (kw.le rfl) (but_updHis (kw.le rfl) (but_updTrio (kw.le rfl) (but_updPwr (kw.le rfl) (but_mk_tb (kw.le rfl) h))))) (but_updHis (kw.le rfl) (but_updTrio (kw.le rfl) (but_updPwr (kw.le rfl) (but_mk_tb (kw.le rfl) h)))))))))))

theorem but_bootComplete {W : Nat} {s0 s : State} (kw : Within 0x4344801012 W) (h : But W s0 s) : But W s0 (bootComplete s) := by
  unfold bootComplete; exact (but_ite h (but_ite (but_bootSlots (kw.le rfl) (but_ite (but_fallback (kw.le rfl) (but_passTicks (kw.le rfl) h)) (but_passTicks (kw.le rfl) h))) (but_updPwr (kw.le rfl) (but_updSuper (kw.le rfl) (but_bootSlots (kw.le rfl) (but_ite (but_fallback (kw.le rfl) (but_passTicks (kw.le rfl) h)) (but_passTicks (kw.le rfl) h)))))))

theorem but_selftestEnd {W : Nat} {s0 s : State} {failed : Vec (BitVec 18) 6} {memFail : BitVec 6} {linkFails : BitVec 17} {ack : Bool} (kw : Within 0x6205878062 W) (h : But W s0 s) : But W s0 (selftestEnd failed memFail linkFails ack s) := by
  unfold selftestEnd; exact (but_ite h (by (try dsimp only); split; exacts [(but_startFails (kw.le rfl) (but_foldl (fun _ _ h1 => (but_linkDown (kw.le rfl) h1)) (but_ite (but_mk_hub (kw.le rfl) (but_foldl (fun _ _ h1 => (but_testEnds (kw.le rfl) h1)) h)) (but_ite (but_pdFails (kw.le rfl) (but_mk_hub (kw.le rfl) (but_foldl (fun _ _ h1 => (but_testEnds (kw.le rfl) h1)) h))) (but_setPd (kw.le rfl) (but_mk_hub (kw.le rfl) (but_foldl (fun _ _ h1 => (but_testEnds (kw.le rfl) h1)) h))))))), (but_ite (but_startFails (kw.le rfl) (but_foldl (fun _ _ h1 => (but_linkDown (kw.le rfl) h1)) (but_ite (but_mk_hub (kw.le rfl) (but_foldl (fun _ _ h1 => (but_testEnds (kw.le rfl) h1)) h)) (but_ite (but_pdFails (kw.le rfl) (but_mk_hub (kw.le rfl) (but_foldl (fun _ _ h1 => (but_testEnds (kw.le rfl) h1)) h))) (but_setPd (kw.le rfl) (but_mk_hub (kw.le rfl) (but_foldl (fun _ _ h1 => (but_testEnds (kw.le rfl) h1)) h))))))) (but_writeVout (kw.le rfl) (but_updPwr (kw.le rfl) (but_foldl (fun _ _ h1 => (but_linkDown (kw.le rfl) h1)) (but_ite (but_mk_hub (kw.le rfl) (but_foldl (fun _ _ h1 => (but_testEnds (kw.le rfl) h1)) h)) (but_ite (but_pdFails (kw.le rfl) (but_mk_hub (kw.le rfl) (but_foldl (fun _ _ h1 => (but_testEnds (kw.le rfl) h1)) h))) (but_setPd (kw.le rfl) (but_mk_hub (kw.le rfl) (but_foldl (fun _ _ h1 => (but_testEnds (kw.le rfl) h1)) h)))))))))]))

theorem but_putSpeeds {W : Nat} {s0 s : State} {readings : Vec (Vec (BitVec 12) 8) 6} (kw : Within 0x20 W) (h : But W s0 s) : But W s0 (putSpeeds readings s) := by
  unfold putSpeeds; exact (but_foldl (fun _ _ h1 => (but_updCrest (kw.le rfl) h1)) h)

theorem but_putGuards {W : Nat} {s0 s : State} (kw : Within 0x4004000022 W) (h : But W s0 s) : But W s0 (putGuards s) := by
  unfold putGuards; exact (but_noteConds (kw.le rfl) (but_foldl (fun _ _ h1 => (but_updCrest (kw.le rfl) h1)) h))

theorem but_speedStep {W : Nat} {s0 s : State} {readings : Vec (Vec (BitVec 12) 8) 6} {ack : Bool} (kw : Within 0x6204038022 W) (h : But W s0 s) : But W s0 (speedStep readings ack s) := by
  unfold speedStep; exact (but_ite h (but_ite (but_writeVout (kw.le rfl) (but_updPwr (kw.le rfl) (but_putSpeeds (kw.le rfl) h))) (but_ite (but_ite (but_startFails (kw.le rfl) (but_putGuards (kw.le rfl) (but_putSpeeds (kw.le rfl) h))) (but_updPwr (kw.le rfl) (but_putGuards (kw.le rfl) (but_putSpeeds (kw.le rfl) h)))) (but_writeVout (kw.le rfl) (but_putSpeeds (kw.le rfl) h)))))

theorem but_startLoop {W : Nat} {s0 s : State} {x : LoopCfg} (kw : Within 0x20 W) (h : But W s0 s) : But W s0 (startLoop x s) := by
  unfold startLoop; exact (but_updLoop (kw.le rfl) (but_loopWritten (kw.le rfl) (but_loopWritten (kw.le rfl) h)))

theorem but_imageEnd {W : Nat} {s0 s : State} (kw : Within 0x4344038002 W) (h : But W s0 s) : But W s0 (imageEnd s) := by
  unfold imageEnd; exact (but_ite h (but_ite (but_updPwr (kw.le rfl) (but_updUpd (kw.le rfl) h)) (but_ite (but_updPwr (kw.le rfl) (but_writeBoot (kw.le rfl) (but_updFlash (kw.le rfl) (but_updUpd (kw.le rfl) (but_updUpd (kw.le rfl) h))))) (but_startFails (kw.le rfl) (but_updUpd (kw.le rfl) (but_updUpd (kw.le rfl) h))))))

theorem but_applyAppConfig {W : Nat} {s0 s : State} {a : AppImage} (kw : Within 0x400cf00002 W) (h : But W s0 s) : But W s0 (applyAppConfig a s) := by
  unfold applyAppConfig; exact (but_refreshShares (kw.le rfl) (but_updSuper (kw.le rfl) (but_foldl (fun _ _ h1 => (but_updUart (kw.le rfl) h1)) (but_foldl (fun _ _ h1 => (but_updPort (kw.le rfl) h1)) (but_foldl (fun _ _ h1 => (but_updCan (kw.le rfl) h1)) h)))))

theorem but_loadCopies {W : Nat} {s0 s : State} {a : AppImage} (kw : Within 0x800 W) (h : But W s0 s) : But W s0 (loadCopies a s) := by
  unfold loadCopies; exact (but_mk_pool (kw.le rfl) h)

theorem but_lockPages {W : Nat} {s0 s : State} {pgs : List Page} (kw : Within 0x2 W) (h : But W s0 s) : But W s0 (lockPages pgs s) := by
  unfold lockPages; exact (but_foldl (fun _ _ h1 => (but_updHdr (kw.le rfl) h1)) h)

theorem but_loadEntry {W : Nat} {s0 s : State} {e : StoreEntry} (kw : Within 0x400cf4c822 W) (h : But W s0 s) : But W s0 (loadEntry e s) := by
  unfold loadEntry; exact (but_lockPages (kw.le rfl) (but_noteConds (kw.le rfl) (but_refreshField (kw.le rfl) (but_applyAppConfig (kw.le rfl) (but_foldl (fun _ _ h1 => (but_startLoop (kw.le rfl) h1)) (but_loadCopies (kw.le rfl) (but_copyCode (kw.le rfl) (but_updSched (kw.le rfl) (but_updRun (kw.le rfl) h)))))))))

theorem but_sealCheck {W : Nat} {s0 s : State} (kw : Within 0x4204078002 W) (h : But W s0 s) : But W s0 (sealCheck s) := by
  unfold sealCheck; exact (by (try dsimp only); split; exacts [(but_becomeReady (kw.le rfl) h), (but_ite (but_becomeReady (kw.le rfl) (but_startFuncs (kw.le rfl) (but_updSafety (kw.le rfl) h))) (but_enterSafeHold (kw.le rfl) h))])

theorem but_contextEnd {W : Nat} {s0 s : State} (kw : Within 0x420cf7c822 W) (h : But W s0 s) : But W s0 (contextEnd s) := by
  unfold contextEnd; exact (but_ite h (by (try dsimp only); split; exacts [h, (but_sealCheck (kw.le rfl) (but_updPwr (kw.le rfl) (but_loadEntry (kw.le rfl) h)))]))

theorem but_execResetRelease {s t : State} {straps : Straps} {voutMode : Byte} (e : execResetRelease straps voutMode s = .next t) : But 0x57fffffffe s t := by
  have h := But.self 0x57fffffffe s
  have kw := Within.self 0x57fffffffe
  cases e; exact (but_releaseReset (kw.le rfl) h)

theorem but_execBootComplete {s t : State} (e : execBootComplete s = .next t) : But 0x4344801012 s t := by
  have h := But.self 0x4344801012 s
  have kw := Within.self 0x4344801012
  cases e; exact (but_bootComplete (kw.le rfl) h)

theorem but_execStartupSelftestEnd {s t : State} {failed : Vec (BitVec 18) 6} {memFail : BitVec 6} {linkFails : BitVec 17} {ack : Bool} (e : execStartupSelftestEnd failed memFail linkFails ack s = .next t) : But 0x6205878062 s t := by
  have h := But.self 0x6205878062 s
  have kw := Within.self 0x6205878062
  cases e; exact (but_selftestEnd (kw.le rfl) h)

theorem but_execSpeedCharStep {s t : State} {readings : Vec (Vec (BitVec 12) 8) 6} {ack : Bool} (e : execSpeedCharStep readings ack s = .next t) : But 0x6204038022 s t := by
  have h := But.self 0x6204038022 s
  have kw := Within.self 0x6204038022
  cases e; exact (but_speedStep (kw.le rfl) h)

theorem but_execStartupImageEnd {s t : State} (e : execStartupImageEnd s = .next t) : But 0x4344038002 s t := by
  have h := But.self 0x4344038002 s
  have kw := Within.self 0x4344038002
  cases e; exact (but_imageEnd (kw.le rfl) h)

theorem but_execStartupContextEnd {s t : State} (e : execStartupContextEnd s = .next t) : But 0x420cf7c822 s t := by
  have h := But.self 0x420cf7c822 s
  have kw := Within.self 0x420cf7c822
  cases e; exact (but_contextEnd (kw.le rfl) h)

theorem but_execRailDip {s t : State} {rail : Fin 6} (e : execRailDip rail s = .next t) : But 0x4204000002 s t := by
  have h := But.self 0x4204000002 s
  have kw := Within.self 0x4204000002
  cases e; exact (but_railDip (kw.le rfl) h)

theorem but_execRailFault {s t : State} {rail : Fin 6} (e : execRailFault rail s = .next t) : But 0x4204a7c802 s t := by
  have h := But.self 0x4204a7c802 s
  have kw := Within.self 0x4204a7c802
  cases e; exact (but_railFault (kw.le rfl) h)

theorem but_execPmbusRead {s t : State} {mv : BitVec 10} {da : BitVec 12} (e : execPmbusRead mv da s = .next t) : But 0x200000000 s t := by
  have h := But.self 0x200000000 s
  have kw := Within.self 0x200000000
  cases e; exact (but_pmbusRead (kw.le rfl) h)

theorem but_execPmbusFail {s t : State} (e : execPmbusFail s = .next t) : But 0x4204000002 s t := by
  have h := But.self 0x4204000002 s
  have kw := Within.self 0x4204000002
  cases e; exact (but_pmbusFail (kw.le rfl) h)

theorem but_execPmbusRetry {s t : State} {ok : Bool} (e : execPmbusRetry ok s = .next t) : But 0x200000000 s t := by
  have h := But.self 0x200000000 s
  have kw := Within.self 0x200000000
  cases e; exact (but_pmbusRetry (kw.le rfl) h)

theorem but_execTempRead {s t : State} {tile : Fin 7} {temps : Vec (BitVec 11) 4} {held : Bool} (e : execTempRead tile temps held s = .next t) : But 0x4204a7c822 s t := by
  have h := But.self 0x4204a7c822 s
  have kw := Within.self 0x4204a7c822
  cases e; exact (but_tempRead (kw.le rfl) h)

theorem but_execPmbAlert {s t : State} (e : execPmbAlert s = .next t) : But 0x4004000002 s t := by
  have h := But.self 0x4004000002 s
  have kw := Within.self 0x4004000002
  cases e; exact (by (try dsimp only [drawFree]); exact (but_recordEvent (kw.le rfl) (but_mk_free (kw.le rfl) h)))

theorem but_writeSaddle {W : Nat} {s0 s : State} {off : ℕ} {d : List Byte} (kw : Within 0x208000 W) (h : But W s0 s) : But W s0 (writeSaddle off d s) := by
  unfold writeSaddle; exact (but_ite (but_updStation (kw.le rfl) h) (but_dite (fun _ => (but_updCan (kw.le rfl) h)) (fun _ => h)))

theorem but_writeFlit {W : Nat} {s0 s : State} {a : Word} {d : List Byte} (kw : Within 0x2c8020 W) (h : But W s0 s) : But W s0 (writeFlit a d s) := by
  unfold writeFlit; exact (but_ite (but_writeSaddle (kw.le rfl) h) (by (try dsimp only); split; exacts [(but_loopPut (kw.le rfl) h), (but_ite (but_writeFieldFlit (kw.le rfl) h) (but_writePanelFlit (kw.le rfl) h))]))

theorem but_mk_staged {W : Nat} {s0 x : State} {staged'} (kw : Within 0x2000 W) (h : But W s0 x) :
    But W s0 (State.mk x.part x.hdrs x.latches x.heldLow x.tb x.crests x.hub x.flitFails x.packets x.nextPacket x.opened x.pool x.sram staged' x.sched x.run x.trio x.safety x.field x.panel x.ports x.cans x.uarts x.super x.mail x.host x.recorder x.historian x.otp x.store x.flash x.sec x.upd x.pwr x.forceInd x.tapReset x.resp x.out x.free x.pending) :=
  h.put kw fun c hc => by cases c <;> first | rfl | exact absurd hc (by decide)

theorem but_putFlit {W : Nat} {s0 s : State} {a : Word} {d : List Byte} (kw : Within 0x2ca020 W) (h : But W s0 s) : But W s0 (putFlit a d s) := by
  unfold putFlit; exact (but_ite (but_mk_staged (kw.le rfl) h) (but_writeFlit (kw.le rfl) h))

theorem but_writeSpan {W : Nat} {s0 s : State} {a : Word} {d : List Byte} (kw : Within 0x2ca820 W) (h : But W s0 s) : But W s0 (writeSpan a d s) := by
  unfold writeSpan; exact (but_ite (but_poolPut (kw.le rfl) h) (but_foldl (fun _ _ h1 => (but_putFlit (kw.le rfl) h1)) h))

theorem but_endSlotWrites {W : Nat} {s0 s : State} (kw : Within 0x2ca020 W) (h : But W s0 s) : But W s0 (endSlotWrites s) := by
  unfold endSlotWrites; exact (but_foldl (fun _ _ h1 => (but_writeFlit (kw.le rfl) h1)) (but_mk_staged (kw.le rfl) h))

theorem but_countRoute {W : Nat} {s0 s : State} {im : SchedImage} {i : ℕ} {n : ℕ} (kw : Within 0x2 W) (h : But W s0 s) : But W s0 (countRoute im i n s) := by
  unfold countRoute; exact (but_foldl (fun _ _ h1 => (but_bumpSwitch (kw.le rfl) (but_bumpSwitch (kw.le rfl) h1))) h)

theorem but_countToSaddle {W : Nat} {s0 s : State} {im : SchedImage} {a : Word} {n : ℕ} (kw : Within 0x2 W) (h : But W s0 s) : But W s0 (countToSaddle im a n s) := by
  unfold countToSaddle; exact (by (try dsimp only); split; exacts [(but_ite h (but_countRoute (kw.le rfl) h)), h])

theorem but_takeHalf {W : Nat} {s0 s : State} {im : SchedImage} {c : Fin 6} {i : Fin 18} (kw : Within 0x20 W) (h : But W s0 s) : But W s0 (takeHalf im c s i) := by
  unfold takeHalf; exact (but_updEngine (kw.le rfl) h)

theorem but_unloadStep {W : Nat} {s0 s : State} {im : SchedImage} {e : EngRef} {entry : EngineStep} (kw : Within 0x8822 W) (h : But W s0 s) : But W s0 (unloadStep im e entry s) := by
  unfold unloadStep; exact (but_ite (but_abandonTask (kw.le rfl) h) (but_ite (but_countRoute (kw.le rfl) (but_poolPut (kw.le rfl) (but_updEngine (kw.le rfl) h))) (but_updEngine (kw.le rfl) h)))

theorem but_loadStep {W : Nat} {s0 s : State} {im : SchedImage} {e : EngRef} {entry : EngineStep} (kw : Within 0x4004808022 W) (h : But W s0 s) : But W s0 (loadStep im e entry s) := by
  unfold loadStep; exact (but_ite h (but_ite (but_engineX (kw.le rfl) (but_updEngine (kw.le rfl) (but_ite (but_countRoute (kw.le rfl) (but_scanSpan (kw.le rfl) (but_scanSpan (kw.le rfl) (but_ite (but_abandonTask (kw.le rfl) h) h)))) (but_countRoute (kw.le rfl) (but_countRoute (kw.le rfl) (but_scanSpan (kw.le rfl) (but_scanSpan (kw.le rfl) (but_ite (but_abandonTask (kw.le rfl) h) h)))))))) (but_updEngine (kw.le rfl) (but_ite (but_countRoute (kw.le rfl) (but_scanSpan (kw.le rfl) (but_scanSpan (kw.le rfl) (but_ite (but_abandonTask (kw.le rfl) h) h)))) (but_countRoute (kw.le rfl) (but_countRoute (kw.le rfl) (but_scanSpan (kw.le rfl) (but_scanSpan (kw.le rfl) (but_ite (but_abandonTask (kw.le rfl) h) h)))))))))

theorem but_impliedTransfers {W : Nat} {s0 s : State} {im : SchedImage} {x : EngineStep} (kw : Within 0x4004808822 W) (h : But W s0 s) : But W s0 (impliedTransfers im s x) := by
  unfold impliedTransfers; exact (by (try dsimp only); split; exacts [h, (by (try dsimp only); split; exacts [h, (but_ite (but_unloadStep (kw.le rfl) h) (but_ite (but_loadStep (kw.le rfl) h) h))])])

theorem but_startStep {W : Nat} {s0 s : State} {im : SchedImage} {c : Fin 6} {i : Fin 18} (kw : Within 0x22 W) (h : But W s0 s) : But W s0 (startStep im c s i) := by
  unfold startStep; exact (but_ite h (by (try dsimp only); split; exacts [(but_updEngine (kw.le rfl) h), (but_bump (kw.le rfl) (but_updEngine (kw.le rfl) h))]))

theorem but_moveFlit {W : Nat} {s0 s : State} {was : State} {e : Transfer} {k : ℕ} (kw : Within 0x20003da822 W) (h : But W s0 s) : But W s0 (moveFlit was e s k) := by
  unfold moveFlit; exact (but_ite h (but_ite (but_forwardBytes (kw.le rfl) (but_writeSpan (kw.le rfl) h)) (but_writeSpan (kw.le rfl) h)))

theorem but_moveFlits {W : Nat} {s0 s : State} {im : SchedImage} {e : Transfer} (kw : Within 0x6004bda822 W) (h : But W s0 s) : But W s0 (moveFlits im e s) := by
  unfold moveFlits; exact (but_foldl (fun _ _ h1 => (but_moveFlit (kw.le rfl) h1)) (but_ite (but_updRun (kw.le rfl) (but_scanSpan (kw.le rfl) (but_countRoute (kw.le rfl) h))) (but_scanSpan (kw.le rfl) (but_countRoute (kw.le rfl) h))))

theorem but_transfer {W : Nat} {s0 s : State} {im : SchedImage} {e : Transfer} (kw : Within 0x6004bda822 W) (h : But W s0 s) : But W s0 (transfer im s e) := by
  unfold transfer; exact (by (try dsimp only); split; exacts [(but_ite h (but_moveFlits (kw.le rfl) h)), (but_ite (but_moveFlits (kw.le rfl) h) h), (by (try dsimp only); split; exacts [(but_ite (but_updTask (kw.le rfl) (but_moveFlits (kw.le rfl) h)) h), h])])

theorem but_exchange {W : Nat} {s0 s : State} {im : SchedImage} {e : TrioExchange} (kw : Within 0x6004910822 W) (h : But W s0 s) : But W s0 (exchange im s e) := by
  unfold exchange; exact (but_ite h (but_sendExchange (kw.le rfl) (but_countToSaddle (kw.le rfl) h)))

theorem but_captureEntry {W : Nat} {s0 s : State} {im : SchedImage} {x : Capture × ℕ} (kw : Within 0x400c800022 W) (h : But W s0 s) : But W s0 (captureEntry im s x) := by
  unfold captureEntry; exact (but_ite h (but_capture (kw.le rfl) (but_scanSpan (kw.le rfl) (but_countToSaddle (kw.le rfl) h))))

theorem but_slotTransfers {W : Nat} {s0 s : State} {im : SchedImage} (kw : Within 0x6004bda822 W) (h : But W s0 s) : But W s0 (slotTransfers im s) := by
  unfold slotTransfers; exact (but_ite (but_foldl (fun _ _ h1 => (but_transfer (kw.le rfl) h1)) h) (but_ite (but_foldl (fun _ _ h1 => (but_transfer (kw.le rfl) h1)) h) h))

theorem but_clearLate {W : Nat} {s0 s : State} (kw : Within 0x20 W) (h : But W s0 s) : But W s0 (clearLate s) := by
  unfold clearLate; exact (but_mk_crests (kw.le rfl) h)

theorem but_noneTaken {W : Nat} {s0 s : State} (kw : Within 0x20 W) (h : But W s0 s) : But W s0 (noneTaken s) := by
  unfold noneTaken; exact (but_mk_crests (kw.le rfl) h)

theorem but_slotStart {W : Nat} {s0 s : State} {upsets : List Upset} (kw : Within 0x600cbde832 W) (h : But W s0 s) : But W s0 (slotStart upsets s) := by
  unfold slotStart; exact (by (try dsimp only); split; exacts [h, (but_ite h (but_ite (but_foldl (fun _ _ h1 => (but_captureEntry (kw.le rfl) h1)) (but_drainTrio (kw.le rfl) (but_foldl (fun _ _ h1 => (but_exchange (kw.le rfl) h1)) (but_slotTransfers (kw.le rfl) (but_ite (but_foldl (fun _ _ h1 => (but_impliedTransfers (kw.le rfl) h1)) (but_foldl (fun _ _ h1 => (but_takeHalf (kw.le rfl) h1)) (but_clearLate (kw.le rfl) (but_updSched (kw.le rfl) (but_endSlotWrites (kw.le rfl) (but_foldl (fun _ _ h1 => (but_upset (kw.le rfl) h1)) (but_reach (kw.le rfl) h))))))) (but_noneTaken (kw.le rfl) (but_clearLate (kw.le rfl) (but_updSched (kw.le rfl) (but_endSlotWrites (kw.le rfl) (but_foldl (fun _ _ h1 => (but_upset (kw.le rfl) h1)) (but_reach (kw.le rfl) h))))))))))) (but_drainTrio (kw.le rfl) (but_foldl (fun _ _ h1 => (but_exchange (kw.le rfl) h1)) (but_slotTransfers (kw.le rfl) (but_ite (but_foldl (fun _ _ h1 => (but_impliedTransfers (kw.le rfl) h1)) (but_foldl (fun _ _ h1 => (but_takeHalf (kw.le rfl) h1)) (but_clearLate (kw.le rfl) (but_updSched (kw.le rfl) (but_endSlotWrites (kw.le rfl) (but_foldl (fun _ _ h1 => (but_upset (kw.le rfl) h1)) (but_reach (kw.le rfl) h))))))) (but_noneTaken (kw.le rfl) (but_clearLate (kw.le rfl) (but_updSched (kw.le rfl) (but_endSlotWrites (kw.le rfl) (but_foldl (fun _ _ h1 => (but_upset (kw.le rfl) h1)) (but_reach (kw.le rfl) h))))))))))))])

theorem but_loopEntries {W : Nat} {s0 s : State} {im : SchedImage} {ended : Vec (Option (BitVec 7)) 6} {c : Fin 6} (kw : Within 0x4004800022 W) (h : But W s0 s) : But W s0 (loopEntries im ended s c) := by
  unfold loopEntries; exact (but_ite h (but_foldl (fun _ _ h1 => (but_runLoopEntry (kw.le rfl) h1)) (but_updCrest (kw.le rfl) h)))

theorem but_stepStart {W : Nat} {s0 s : State} {upsets : List Upset} {ended : Vec (Option (BitVec 7)) 6} (kw : Within 0x4004800032 W) (h : But W s0 s) : But W s0 (stepStart upsets ended s) := by
  unfold stepStart; exact (by (try dsimp only); split; exacts [h, (but_ite h (but_foldl (fun _ _ h1 => (but_loopEntries (kw.le rfl) h1)) (but_foldl (fun _ _ h1 => (but_startStep (kw.le rfl) h1)) (but_foldl (fun _ _ h1 => (but_upset (kw.le rfl) h1)) (but_reach (kw.le rfl) h)))))])

theorem but_engineLate {W : Nat} {s0 s : State} {c : Fin 6} {i : Fin 18} (kw : Within 0x4004a7c822 W) (h : But W s0 s) : But W s0 (engineLate c s i) := by
  unfold engineLate; exact (by (try dsimp only); split; exacts [(but_overrun (kw.le rfl) (but_engineX (kw.le rfl) h)), h])

theorem but_loopsLate {W : Nat} {s0 s : State} {c : Fin 6} (kw : Within 0x4004a7c802 W) (h : But W s0 s) : But W s0 (loopsLate s c) := by
  unfold loopsLate; exact (but_ite (but_overrun (kw.le rfl) h) h)

theorem but_slotDeadline {W : Nat} {s0 s : State} {lateTransfers : BitVec 8} (kw : Within 0x4004a7c832 W) (h : But W s0 s) : But W s0 (slotDeadline lateTransfers s) := by
  unfold slotDeadline; exact (by (try dsimp only); split; exacts [h, (but_ite h (but_ite (but_foldl (fun _ _ h1 => (but_loopsLate (kw.le rfl) h1)) (but_foldl (fun _ _ h1 => (but_foldl (fun _ _ h2 => (but_engineLate (kw.le rfl) h2)) h1)) (but_reach (kw.le rfl) h))) (but_foldl (fun _ _ h1 => (but_ite (but_overrun (kw.le rfl) h1) h1)) (but_foldl (fun _ _ h1 => (but_loopsLate (kw.le rfl) h1)) (but_foldl (fun _ _ h1 => (but_foldl (fun _ _ h2 => (but_engineLate (kw.le rfl) h2)) h1)) (but_reach (kw.le rfl) h))))))])

theorem but_execSlotStart {s t : State} {upsets : List Upset} (e : execSlotStart upsets s = .next t) : But 0x600cbde832 s t := by
  have h := But.self 0x600cbde832 s
  have kw := Within.self 0x600cbde832
  cases e; exact (but_slotStart (kw.le rfl) h)

theorem but_execStepStart {s t : State} {upsets : List Upset} {ended : Vec (Option (BitVec 7)) 6} (e : execStepStart upsets ended s = .next t) : But 0x4004800032 s t := by
  have h := But.self 0x4004800032 s
  have kw := Within.self 0x4004800032
  cases e; exact (but_stepStart (kw.le rfl) h)

theorem but_execSlotDeadline {s t : State} {lateTransfers : BitVec 8} (e : execSlotDeadline lateTransfers s = .next t) : But 0x4004a7c832 s t := by
  have h := But.self 0x4004a7c832 s
  have kw := Within.self 0x4004a7c832
  cases e; exact (but_slotDeadline (kw.le rfl) h)

theorem but_endTasks {W : Nat} {s0 s : State} (kw : Within 0x4004008002 W) (h : But W s0 s) : But W s0 (endTasks s) := by
  unfold endTasks; exact (but_foldl (fun _ _ h1 => (but_note (kw.le rfl) h1)) (but_updRun (kw.le rfl) h))

theorem but_endTiles {W : Nat} {s0 s : State} (kw : Within 0x4004a7c822 W) (h : But W s0 s) : But W s0 (endTiles s) := by
  unfold endTiles; exact (but_ite (but_ite (but_giveUp (kw.le rfl) (but_ite (but_failSelfTest (kw.le rfl) (but_mk_crests (kw.le rfl) h)) (but_mk_crests (kw.le rfl) h))) (but_stopController (kw.le rfl) (but_ite (but_failSelfTest (kw.le rfl) (but_mk_crests (kw.le rfl) h)) (but_mk_crests (kw.le rfl) h)))) (but_ite (but_failSelfTest (kw.le rfl) (but_mk_crests (kw.le rfl) h)) (but_mk_crests (kw.le rfl) h)))

theorem but_noteMirror {W : Nat} {s0 s : State} (kw : Within 0x10000 W) (h : But W s0 s) : But W s0 (noteMirror s) := by
  unfold noteMirror; exact (but_updTrio (kw.le rfl) h)

theorem but_unfence {W : Nat} {s0 s : State} (kw : Within 0x50000 W) (h : But W s0 s) : But W s0 (unfence s) := by
  unfold unfence; exact (but_updField (kw.le rfl) (but_updTrio (kw.le rfl) h))

theorem but_rejoinAtStart {W : Nat} {s0 s : State} (kw : Within 0x400c018002 W) (h : But W s0 s) : But W s0 (rejoinAtStart s) := by
  unfold rejoinAtStart; exact (but_ite (but_updTrio (kw.le rfl) h) (but_ite (but_updHis (kw.le rfl) (but_updRun (kw.le rfl) (but_updTrio (kw.le rfl) h))) (but_ite (but_raise (kw.le rfl) (but_updTrio (kw.le rfl) h)) h)))

theorem but_bulkFlits {W : Nat} {s0 s : State} {m : Fin 3} {x : Word × List Byte} (kw : Within 0x10000 W) (h : But W s0 s) : But W s0 (bulkFlits s m x) := by
  unfold bulkFlits; exact (but_foldl (fun _ _ h1 => (but_queueCopy (kw.le rfl) h1)) h)

theorem but_bulkCopy {W : Nat} {s0 s : State} {b : BitVec 2} (kw : Within 0x6004910022 W) (h : But W s0 s) : But W s0 (bulkCopy b s) := by
  unfold bulkCopy; exact (but_dite (fun _ => (but_drainTrio (kw.le rfl) (but_foldl (fun _ _ h1 => (but_bulkFlits (kw.le rfl) (but_scanSpan (kw.le rfl) h1))) h))) (fun _ => h))

theorem but_dropCopy {W : Nat} {s0 s : State} (kw : Within 0x10000 W) (h : But W s0 s) : But W s0 (dropCopy s) := by
  unfold dropCopy; exact (but_updTrio (kw.le rfl) h)

theorem but_donorAtStart {W : Nat} {s0 s : State} (kw : Within 0x6004910022 W) (h : But W s0 s) : But W s0 (donorAtStart s) := by
  unfold donorAtStart; exact (but_ite h (but_elim (but_updTrio (kw.le rfl) (but_dropCopy (kw.le rfl) h)) (fun _ => (but_bulkCopy (kw.le rfl) (but_updTrio (kw.le rfl) (but_dropCopy (kw.le rfl) h))))))

theorem but_setEnables {W : Nat} {s0 s : State} (kw : Within 0x50000 W) (h : But W s0 s) : But W s0 (setEnables s) := by
  unfold setEnables; exact (but_updField (kw.le rfl) (but_updTrio (kw.le rfl) h))

theorem but_applyRoster {W : Nat} {s0 s : State} (kw : Within 0x600c958022 W) (h : But W s0 s) : But W s0 (applyRoster s) := by
  unfold applyRoster; exact (but_setEnables (kw.le rfl) (but_donorAtStart (kw.le rfl) (but_rejoinAtStart (kw.le rfl) (by (try dsimp only); split; exacts [h, (but_ite (but_raise (kw.le rfl) (but_noteConds (kw.le rfl) (but_ite (but_unfence (kw.le rfl) (but_updTrio (kw.le rfl) h)) (but_updTrio (kw.le rfl) h)))) (but_noteConds (kw.le rfl) (but_ite (but_unfence (kw.le rfl) (but_updTrio (kw.le rfl) h)) (but_updTrio (kw.le rfl) h))))]))))

theorem but_releaseSafe {W : Nat} {s0 s : State} {cls : ℕ} {inst : ℕ} (kw : Within 0x40000 W) (h : But W s0 s) : But W s0 (releaseSafe cls inst s) := by
  unfold releaseSafe; exact (but_updField (kw.le rfl) h)

theorem but_dropBank {W : Nat} {s0 s : State} {cls : ℕ} {inst : ℕ} (kw : Within 0x40000 W) (h : But W s0 s) : But W s0 (dropBank cls inst s) := by
  unfold dropBank; exact (but_updField (kw.le rfl) h)

theorem but_commitGroup {W : Nat} {s0 s : State} {eff : Bool} {g : IoGroup} (kw : Within 0x40041c8002 W) (h : But W s0 s) : But W s0 (commitGroup eff s g) := by
  unfold commitGroup; exact (but_ite (but_ite (but_commitPanel (kw.le rfl) (but_ite (but_bump (kw.le rfl) h) h)) (but_ite (but_bump (kw.le rfl) h) h)) (but_ite (but_queueKeaco (kw.le rfl) (but_ite (but_bump (kw.le rfl) h) h)) (but_ite (but_releaseSafe (kw.le rfl) (but_commitBank (kw.le rfl) (but_ite (but_bump (kw.le rfl) h) h))) (but_dropBank (kw.le rfl) (but_ite (but_bump (kw.le rfl) h) h)))))

theorem but_commits {W : Nat} {s0 s : State} {r : BitVec 10} (kw : Within 0x40041c8002 W) (h : But W s0 s) : But W s0 (commits r s) := by
  unfold commits; exact (but_refreshField (kw.le rfl) (but_foldl (fun _ _ h1 => (but_commitGroup (kw.le rfl) h1)) (but_ite (but_noteCommitted (kw.le rfl) h) h)))

theorem but_latchField {W : Nat} {s0 s : State} (kw : Within 0x40000 W) (h : But W s0 s) : But W s0 (latchField s) := by
  unfold latchField; exact (but_ite (but_latchReadback (kw.le rfl) (but_latchDi (kw.le rfl) h)) h)

theorem but_boundary {W : Nat} {s0 s : State} {r : BitVec 10} (kw : Within 0x600cbfe832 W) (h : But W s0 s) : But W s0 (boundary r s) := by
  unfold boundary; exact (but_commits (kw.le rfl) (but_applyRoster (kw.le rfl) (but_noteMirror (kw.le rfl) (but_endTasks (kw.le rfl) (but_endTiles (kw.le rfl) (but_judgeOutputs (kw.le rfl) (but_latchField (kw.le rfl) (but_applyStep (kw.le rfl) (but_endSlotWrites (kw.le rfl) h)))))))))

theorem but_toNextRound {W : Nat} {s0 s : State} (kw : Within 0x4000 W) (h : But W s0 s) : But W s0 (toNextRound s) := by
  unfold toNextRound; exact (but_updSched (kw.le rfl) h)

theorem but_passBoundary {W : Nat} {s0 s : State} (kw : Within 0x600cbfe832 W) (h : But W s0 s) : But W s0 (passBoundary s) := by
  unfold passBoundary; exact (but_toNextRound (kw.le rfl) (but_boundary (kw.le rfl) (but_reach (kw.le rfl) h)))

theorem but_enterFrame {W : Nat} {s0 s : State} (kw : Within 0x600cbfe832 W) (h : But W s0 s) : But W s0 (enterFrame s) := by
  unfold enterFrame; exact (but_ite h (but_updSched (kw.le rfl) (but_passBoundary (kw.le rfl) h)))

theorem but_retireAtStart {W : Nat} {s0 s : State} {c : Fin 6} (kw : Within 0x4004000022 W) (h : But W s0 s) : But W s0 (retireAtStart c s) := by
  unfold retireAtStart; exact (but_ite h (but_ite (but_updCrest (kw.le rfl) h) (but_raise (kw.le rfl) (but_updCrest (kw.le rfl) h))))

theorem but_putVariant {W : Nat} {s0 s : State} {im : SchedImage} {c : Fin 6} (kw : Within 0x20 W) (h : But W s0 s) : But W s0 (putVariant im c s) := by
  unfold putVariant; exact (by (try dsimp only); split; exacts [(but_updCrest (kw.le rfl) h), h])

theorem but_sampleGroup {W : Nat} {s0 s : State} {g : IoGroup} (kw : Within 0x4004648002 W) (h : But W s0 s) : But W s0 (sampleGroup s g) := by
  unfold sampleGroup; exact (but_ite (but_ite (but_ite (but_sampleBank (kw.le rfl) h) h) (but_ite (but_ite (but_samplePanel (kw.le rfl) h) h) (but_ite (but_stationScan (kw.le rfl) h) (but_dite (fun _ => (but_canLatch (kw.le rfl) h)) (fun _ => (but_dite (fun _ => (but_uartLatch (kw.le rfl) h)) (fun _ => h))))))) (but_updRun (kw.le rfl) (but_ite (but_ite (but_sampleBank (kw.le rfl) h) h) (but_ite (but_ite (but_samplePanel (kw.le rfl) h) h) (but_ite (but_stationScan (kw.le rfl) h) (but_dite (fun _ => (but_canLatch (kw.le rfl) h)) (fun _ => (but_dite (fun _ => (but_uartLatch (kw.le rfl) h)) (fun _ => h)))))))))

theorem but_samples {W : Nat} {s0 s : State} (kw : Within 0x4004648002 W) (h : But W s0 s) : But W s0 (samples s) := by
  unfold samples; exact (but_foldl (fun _ _ h1 => (but_sampleGroup (kw.le rfl) h1)) h)

theorem but_shiftTrio {W : Nat} {s0 s : State} {first : Bool} (kw : Within 0x10000 W) (h : But W s0 s) : But W s0 (shiftTrio first s) := by
  unfold shiftTrio; exact (but_updTrio (kw.le rfl) h)

theorem but_shiftTasks {W : Nat} {s0 s : State} (kw : Within 0x8000 W) (h : But W s0 s) : But W s0 (shiftTasks s) := by
  unfold shiftTasks; exact (but_updRun (kw.le rfl) h)

theorem but_newRound {W : Nat} {s0 s : State} {first : Bool} (kw : Within 0x640cf7c832 W) (h : But W s0 s) : But W s0 (newRound first s) := by
  unfold newRound; exact (by (try dsimp only); split; exacts [h, (but_countGroups (kw.le rfl) (but_bump (kw.le rfl) (but_forwardChanges (kw.le rfl) (but_scanConns (kw.le rfl) (but_deliverAllCalls (kw.le rfl) (but_takeSeal (kw.le rfl) (but_ageKeys (kw.le rfl) (but_ageForces (kw.le rfl) (but_stoppedHolds (kw.le rfl) (but_samples (kw.le rfl) (but_shiftTasks (kw.le rfl) (but_shiftTrio (kw.le rfl) (but_foldl (fun _ _ h1 => (but_putVariant (kw.le rfl) (but_retireAtStart (kw.le rfl) h1))) (but_roundInstant (kw.le rfl) (but_ite (but_alignTrim (kw.le rfl) (but_updSched (kw.le rfl) h)) (but_updSched (kw.le rfl) h))))))))))))))))])

theorem but_firstRound {W : Nat} {s0 s : State} (kw : Within 0x640cf7c832 W) (h : But W s0 s) : But W s0 (firstRound s) := by
  unfold firstRound; exact (but_newRound (kw.le rfl) (but_latchField (kw.le rfl) (but_setEnables (kw.le rfl) (but_startWindows (kw.le rfl) (but_layoutStarts (kw.le rfl) (but_lockPages (kw.le rfl) (but_applyStep (kw.le rfl) (but_updRun (kw.le rfl) (but_updSched (kw.le rfl) (but_reach (kw.le rfl) h))))))))))

theorem but_startRound {W : Nat} {s0 s : State} (kw : Within 0x650cffe832 W) (h : But W s0 s) : But W s0 (startRound s) := by
  unfold startRound; exact (but_ite (but_ite (but_firstRound (kw.le rfl) h) h) (but_ite (but_updateRestart (kw.le rfl) h) (but_ite (but_newRound (kw.le rfl) h) (but_newRound (kw.le rfl) (but_passBoundary (kw.le rfl) h)))))

theorem but_swapBanks {W : Nat} {s0 s : State} (kw : Within 0x4004004002 W) (h : But W s0 s) : But W s0 (swapBanks s) := by
  unfold swapBanks; exact (but_raise (kw.le rfl) (but_updSched (kw.le rfl) h))

theorem but_scheduleSwap {W : Nat} {s0 s : State} (kw : Within 0x600cbfe832 W) (h : But W s0 s) : But W s0 (scheduleSwap s) := by
  unfold scheduleSwap; exact (but_ite h (but_ite (but_swapBanks (kw.le rfl) (but_enterFrame (kw.le rfl) h)) (but_enterFrame (kw.le rfl) h)))

theorem but_exchangeLoop {W : Nat} {s0 s : State} {was : State} {old : AppImage} {new : AppImage} {x : LoopCfg} (kw : Within 0x4004000022 W) (h : But W s0 s) : But W s0 (exchangeLoop was old new s x) := by
  unfold exchangeLoop; exact (but_ite (but_startLoop (kw.le rfl) h) (but_ite (but_takeParams (kw.le rfl) h) (but_raise (kw.le rfl) (but_updLoop (kw.le rfl) h))))

theorem but_exchangeFuncs {W : Nat} {s0 s : State} {old : List FuncCfg} (kw : Within 0x20000 W) (h : But W s0 s) : But W s0 (exchangeFuncs old s) := by
  unfold exchangeFuncs; exact (but_updSafety (kw.le rfl) h)

theorem but_exchangeStations {W : Nat} {s0 s : State} {old : AppImage} {new : AppImage} (kw : Within 0x8000 W) (h : But W s0 s) : But W s0 (exchangeStations old new s) := by
  unfold exchangeStations; exact (but_foldl (fun _ _ h1 => (but_updStation (kw.le rfl) h1)) h)

theorem but_exchangeBanks {W : Nat} {s0 s : State} {old : AppImage} {new : AppImage} (kw : Within 0x440cf68022 W) (h : But W s0 s) : But W s0 (exchangeBanks old new s) := by
  unfold exchangeBanks; exact (but_raise (kw.le rfl) (but_noteConds (kw.le rfl) (but_refreshField (kw.le rfl) (but_exchangeField (kw.le rfl) (but_applyAppConfig (kw.le rfl) (but_layoutWaits (kw.le rfl) (but_exchangeForces (kw.le rfl) (but_ite (but_updSafety (kw.le rfl) (but_exchangeStations (kw.le rfl) (but_exchangeFuncs (kw.le rfl) (but_foldl (fun _ _ h1 => (but_exchangeLoop (kw.le rfl) h1)) (but_updRun (kw.le rfl) h))))) (but_startWindows (kw.le rfl) (but_updSafety (kw.le rfl) (but_exchangeStations (kw.le rfl) (but_exchangeFuncs (kw.le rfl) (but_foldl (fun _ _ h1 => (but_exchangeLoop (kw.le rfl) h1)) (but_updRun (kw.le rfl) h))))))))))))))

theorem but_appExchange {W : Nat} {s0 s : State} (kw : Within 0x640cffe832 W) (h : But W s0 s) : But W s0 (appExchange s) := by
  unfold appExchange; exact (but_ite h (by (try dsimp only); split; exacts [(but_exchangeBanks (kw.le rfl) (but_enterFrame (kw.le rfl) h)), (but_enterFrame (kw.le rfl) h)]))

theorem but_execRoundStart {s t : State} (e : execRoundStart s = .next t) : But 0x650cffe832 s t := by
  have h := But.self 0x650cffe832 s
  have kw := Within.self 0x650cffe832
  cases e; exact (but_startRound (kw.le rfl) h)

theorem but_execScheduleSwap {s t : State} (e : execScheduleSwap s = .next t) : But 0x600cbfe832 s t := by
  have h := But.self 0x600cbfe832 s
  have kw := Within.self 0x600cbfe832
  cases e; exact (but_scheduleSwap (kw.le rfl) h)

theorem but_execAppExchange {s t : State} (e : execAppExchange s = .next t) : But 0x640cffe832 s t := by
  have h := But.self 0x640cffe832 s
  have kw := Within.self 0x640cffe832
  cases e; exact (but_appExchange (kw.le rfl) h)

theorem but_readInstant {W : Nat} {s0 s : State} {w : Requester} {pg : Page} {off : ℕ} {i : Instant} (kw : Within 0x1000000004 W) (h : But W s0 s) : But W s0 (readInstant w pg off i s) := by
  unfold readInstant; exact (but_answer (kw.le rfl) (but_latchPut (kw.le rfl) (but_latchPut (kw.le rfl) h)))

theorem but_readSpecial {W : Nat} {s0 s : State} {w : Requester} {pg : Page} {off : Nat} {f : State → State} (kk : Within 0x5004400006 W) (h : But W s0 s)
    (e : readSpecial w pg off = some f) : But W s0 (f s) := by
  unfold readSpecial at e
  split at e
  · split at e
    · cases e; exact but_readNow (kk.le rfl) h
    · split at e
      · cases e; exact but_readGcnt (kk.le rfl) h
      · split at e
        · cases e; exact but_readInstant (kk.le rfl) h
        · split at e
          · cases e; exact but_readInstant (kk.le rfl) h
          · cases e
  · split at e
    · cases e; exact but_readInstant (kk.le rfl) h
    · cases e
  · split at e
    · cases e; exact but_uartRead (kk.le rfl) h
    · split at e
      · cases e; exact but_uartMarkRead (kk.le rfl) h
      · cases e
  · split at e
    · cases e; exact but_readEntry (kk.le rfl) h
    · cases e
  · cases e

theorem but_readPage {W : Nat} {s0 s : State} {w : Requester} {pg : Page} {off : Nat} (kk : Within 0x5004400006 W) (h : But W s0 s) : But W s0 (readPage w pg off s) := by
  unfold readPage
  split
  · exact but_readSpecial kk h ‹_›
  · refine but_ite (but_answer (kk.le rfl) h) ?_
    split
    · exact but_answer (kk.le rfl) (but_latchPut (kk.le rfl) h)
    · exact but_ite (but_answer (kk.le rfl) h) (but_answer (kk.le rfl) h)

theorem but_doIf {W : Nat} {s0 s : State} {b : Bool} {f : State → State} (kk : Within 0x0 W) (k : ∀ x, But W s0 x → But W s0 (f x)) (h : But W s0 s) :
    But W s0 (doIf b f s) := by
  unfold doIf; exact (but_ite (k _ h) h)

theorem but_withConds {W : Nat} {s0 s : State} {pg : Page} {f : State → State} (kk : Within 0x4004000002 W) (k : ∀ x, But W s0 x → But W s0 (f x)) (h : But W s0 s) :
    But W s0 (withConds pg f s) := by
  unfold withConds; exact (but_noteConds (kk.le rfl) (k _ h))

theorem but_lockPage {W : Nat} {s0 s : State} {pg : Page} (kw : Within 0x2 W) (h : But W s0 s) : But W s0 (lockPage pg s) := by
  unfold lockPage; exact (but_updHdr (kw.le rfl) h)

theorem but_clearCounts {W : Nat} {s0 s : State} {pg : Page} (kw : Within 0x2 W) (h : But W s0 s) : But W s0 (clearCounts pg s) := by
  unfold clearCounts; exact (but_updHdr (kw.le rfl) h)

theorem but_irqClear {W : Nat} {s0 s : State} {pg : Page} {v : Word} (kw : Within 0x2 W) (h : But W s0 s) : But W s0 (irqClear pg v s) := by
  unfold irqClear; exact (but_updHdr (kw.le rfl) h)

theorem but_irqSet {W : Nat} {s0 s : State} {pg : Page} {v : Word} (kw : Within 0x2 W) (h : But W s0 s) : But W s0 (irqSet pg v s) := by
  unfold irqSet; exact (but_countEdge (kw.le rfl) (but_updHdr (kw.le rfl) h))

theorem but_writeCtrl {W : Nat} {s0 s : State} {pg : Page} {v : Word} (kw : Within 0x2 W) (h : But W s0 s) : But W s0 (writeCtrl pg v s) := by
  unfold writeCtrl; exact (but_doIf (kw.le rfl) (fun _ h1 => (but_clearCounts (kw.le rfl) h1)) (but_doIf (kw.le rfl) (fun _ h1 => (but_lockPage (kw.le rfl) h1)) (but_updHdr (kw.le rfl) h)))

theorem but_writeSel {W : Nat} {s0 s : State} {pg : Page} {n : Fin 4} {v : Word} (kw : Within 0x2 W) (h : But W s0 s) : But W s0 (writeSel pg n v s) := by
  unfold writeSel; exact (but_updHdr (kw.le rfl) h)

theorem but_writeHdr {W : Nat} {s0 s : State} {pg : Page} {off : ℕ} {v : Word} (kw : Within 0x2 W) (h : But W s0 s) : But W s0 (writeHdr pg off v s) := by
  unfold writeHdr; exact (by (try dsimp only); split; exacts [(but_writeCtrl (kw.le rfl) h), (but_updHdr (kw.le rfl) h), (but_countEdge (kw.le rfl) (but_updHdr (kw.le rfl) h)), (but_irqClear (kw.le rfl) h), (but_irqSet (kw.le rfl) h), (but_writeSel (kw.le rfl) h), (but_writeSel (kw.le rfl) h), (but_writeSel (kw.le rfl) h), (but_writeSel (kw.le rfl) h), h])

theorem but_writeIrq {W : Nat} {s0 s : State} {off : ℕ} {v : Word} (kw : Within 0x800000 W) (h : But W s0 s) : But W s0 (writeIrq off v s) := by
  unfold writeIrq; exact (but_ite (but_updSuper (kw.le rfl) h) (but_ite (but_updSuper (kw.le rfl) h) (but_ite (but_updSuper (kw.le rfl) h) (but_ite (but_updSuper (kw.le rfl) h) h))))

theorem but_writeMailCtl {W : Nat} {s0 s : State} {sec : Bool} {ch : Fin 32} {v : Word} (kw : Within 0x1000002 W) (h : But W s0 s) : But W s0 (writeMailCtl sec ch v s) := by
  unfold writeMailCtl; exact (but_ifUnlocked (kw.le rfl) (fun _ h1 => (but_updMail (kw.le rfl) h1)) h)

theorem but_writeSuper {W : Nat} {s0 s : State} {q : Req} {off : ℕ} {v : Word} (kw : Within 0x40058c082e W) (h : But W s0 s) : But W s0 (writeSuper q off v s) := by
  unfold writeSuper; exact (by (try dsimp only); split; exacts [(but_wdogKick (kw.le rfl) h), (but_updSuper (kw.le rfl) h), (but_ite (but_cmdPdUp (kw.le rfl) h) (but_ite (but_cmdPdDown (kw.le rfl) h) h)), (but_doIf (kw.le rfl) (fun _ h1 => (but_pmuClear (kw.le rfl) h1)) (but_pmuFreeze (kw.le rfl) h)), h])

theorem but_writeSched {W : Nat} {s0 s : State} {off : ℕ} {v : Word} (kw : Within 0x400400c002 W) (h : But W s0 s) : But W s0 (writeSched off v s) := by
  unfold writeSched; exact (by (try dsimp only); split; exacts [(but_updSched (kw.le rfl) h), (but_updSched (kw.le rfl) h), (by (try dsimp only); split; exacts [(but_cmdSchLoad (kw.le rfl) h), (but_cmdSchActivate (kw.le rfl) h), (but_cmdSchCancel (kw.le rfl) h), (but_cmdSchDiscard (kw.le rfl) h), h]), h])

theorem but_writeRun {W : Nat} {s0 s : State} {off : ℕ} {v : Word} (kw : Within 0x6404138802 W) (h : But W s0 s) : But W s0 (writeRun off v s) := by
  unfold writeRun; exact (by (try dsimp only); split; exacts [(but_doIf (kw.le rfl) (fun _ h1 => (but_cmdRestart (kw.le rfl) h1)) h), (but_updRun (kw.le rfl) h), (but_updRun (kw.le rfl) h), (by (try dsimp only); split; exacts [(but_cmdFrcSet (kw.le rfl) h), (but_cmdFrcClear (kw.le rfl) h), (but_cmdFrcClearAll (kw.le rfl) h), h]), (but_updRun (kw.le rfl) h), (but_updRun (kw.le rfl) h), (but_updRun (kw.le rfl) h), (but_updRun (kw.le rfl) h), (by (try dsimp only); split; exacts [(but_cmdAppLoad (kw.le rfl) h), (but_cmdAppActivate (kw.le rfl) h), (but_cmdAppCancel (kw.le rfl) h), (but_cmdAppDiscard (kw.le rfl) h), (but_cmdAppArm (kw.le rfl) h), h]), h])

theorem but_writeTrio {W : Nat} {s0 s : State} {off : ℕ} {v : Word} (kw : Within 0x4004a7c802 W) (h : But W s0 s) : But W s0 (writeTrio off v s) := by
  unfold writeTrio; exact (but_ite (by (try dsimp only); split; exacts [(but_cmdRejoin (kw.le rfl) h), (but_cmdGiveUp (kw.le rfl) h), (but_cmdAbortRejoin (kw.le rfl) h), h]) h)

theorem but_writeSafety {W : Nat} {s0 s : State} {off : ℕ} {v : Word} (kw : Within 0x20000 W) (h : But W s0 s) : But W s0 (writeSafety off v s) := by
  unfold writeSafety; exact (by (try dsimp only); split; exacts [(but_updSafety (kw.le rfl) h), (but_updSafety (kw.le rfl) h), h])

theorem but_writeTb {W : Nat} {s0 s : State} {w : Requester} {off : ℕ} {v : Word} (kw : Within 0x1a W) (h : But W s0 s) : But W s0 (writeTb w off v s) := by
  unfold writeTb; exact (by (try dsimp only); split; exacts [(by (try dsimp only); split; exacts [(but_cmdStep (kw.le rfl) h), (but_cmdGulny (kw.le rfl) h), (but_cmdShot (kw.le rfl) h), h]), (but_writeIncrLo (kw.le rfl) h), (but_writeIncrHi (kw.le rfl) h), (but_updTb (kw.le rfl) h), (but_updTb (kw.le rfl) h), (but_ifUnlocked (kw.le rfl) (fun _ h1 => (but_updTb (kw.le rfl) h1)) h), (but_writeGcntIncr (kw.le rfl) h), (but_updTb (kw.le rfl) h), (but_updTb (kw.le rfl) h), (but_writePpsOut (kw.le rfl) h), (but_updTb (kw.le rfl) h), (but_updTb (kw.le rfl) h), (but_updTb (kw.le rfl) h), h])

theorem but_writeFw {W : Nat} {s0 s : State} {w : Requester} {f : FwBank → FwBank} (kw : Within 0x4000000 W) (h : But W s0 s) : But W s0 (writeFw w f s) := by
  unfold writeFw; exact (but_elim h (fun _ => (but_updRec (kw.le rfl) h)))

theorem but_writeRec {W : Nat} {s0 s : State} {w : Requester} {off : ℕ} {v : Word} (kw : Within 0x4004000002 W) (h : But W s0 s) : But W s0 (writeRec w off v s) := by
  unfold writeRec; exact (by (try dsimp only); split; exacts [(but_startRefill (kw.le rfl) h), (but_updRec (kw.le rfl) h), (but_doIf (kw.le rfl) (fun _ h1 => (but_clearLost (kw.le rfl) h1)) (but_doIf (kw.le rfl) (fun _ h1 => (but_clearDrops (kw.le rfl) h1)) h)), (but_withConds (kw.le rfl) (fun _ h1 => (but_updRec (kw.le rfl) h1)) h), (but_writeFw (kw.le rfl) h), (but_writeFw (kw.le rfl) h), (but_writeFw (kw.le rfl) h), (but_writeFw (kw.le rfl) h), (but_doIf (kw.le rfl) (fun _ h1 => (but_fwWrite (kw.le rfl) h1)) h), h])

theorem but_writeHis {W : Nat} {s0 s : State} {off : ℕ} {v : Word} (kw : Within 0x8000000 W) (h : But W s0 s) : But W s0 (writeHis off v s) := by
  unfold writeHis; exact (by (try dsimp only); split; exacts [(but_updHis (kw.le rfl) h), (but_updHis (kw.le rfl) h), (but_updHis (kw.le rfl) h), (but_updHis (kw.le rfl) h), (but_updHis (kw.le rfl) h), (but_doIf (kw.le rfl) (fun _ h1 => (but_queryGo (kw.le rfl) h1)) h), h])

theorem but_writeUpd {W : Nat} {s0 s : State} {off : ℕ} {v : Word} (kw : Within 0x41d4000002 W) (h : But W s0 s) : But W s0 (writeUpd off v s) := by
  unfold writeUpd; exact (by (try dsimp only); split; exacts [(but_updUpd (kw.le rfl) h), (but_updUpd (kw.le rfl) h), (by (try dsimp only); split; exacts [(but_cmdUpdLoad (kw.le rfl) h), (but_cmdUpdActivate (kw.le rfl) h), (but_cmdUpdCancel (kw.le rfl) h), (but_cmdUpdErase (kw.le rfl) h), (but_cmdUpdStore (kw.le rfl) h), h]), (but_confirm (kw.le rfl) h), (but_updUpd (kw.le rfl) h), h])

theorem but_writeSec {W : Nat} {s0 s : State} {off : ℕ} {v : Word} (kw : Within 0x57fffffffe W) (h : But W s0 s) : But W s0 (writeSec off v s) := by
  unfold writeSec; exact (by (try dsimp only); split; exacts [(but_updSec (kw.le rfl) h), (but_updSec (kw.le rfl) h), (but_doIf (kw.le rfl) (fun _ h1 => (but_submitTicket (kw.le rfl) h1)) h), h])

theorem but_writePower {W : Nat} {s0 s : State} {off : ℕ} {v : Word} (kw : Within 0x178ffffffe W) (h : But W s0 s) : But W s0 (writePower off v s) := by
  unfold writePower; exact (by (try dsimp only); split; exacts [(but_updPwr (kw.le rfl) h), (but_ifUnlocked (kw.le rfl) (fun _ h1 => (but_updPwr (kw.le rfl) h1)) h), (but_updPwr (kw.le rfl) h), (but_doIf (kw.le rfl) (fun _ h1 => (but_requestReset (kw.le rfl) h1)) h), h])

theorem but_writeSwitch {W : Nat} {s0 s : State} {t : ℕ} {off : ℕ} {v : Word} (kw : Within 0x60 W) (h : But W s0 s) : But W s0 (writeSwitch t off v s) := by
  unfold writeSwitch; exact (but_ite (but_updSwitch (kw.le rfl) h) h)

theorem but_writeEthCtrl {W : Nat} {s0 s : State} {i : Fin 10} {v : Word} (kw : Within 0x100002 W) (h : But W s0 s) : But W s0 (writeEthCtrl i v s) := by
  unfold writeEthCtrl; exact (but_ifUnlocked (kw.le rfl) (fun _ h1 => (but_updPort (kw.le rfl) h1)) h)

theorem but_writeEth {W : Nat} {s0 s : State} {i : Fin 10} {off : ℕ} {v : Word} (kw : Within 0x4004101002 W) (h : But W s0 s) : But W s0 (writeEth i off v s) := by
  unfold writeEth; exact (by (try dsimp only); split; exacts [(but_updPort (kw.le rfl) h), (but_updPort (kw.le rfl) h), (but_updPort (kw.le rfl) h), (but_writeRxTail (kw.le rfl) h), (but_updPort (kw.le rfl) h), (but_updPort (kw.le rfl) h), (but_writeTxTail (kw.le rfl) h), h])

theorem but_writePort {W : Nat} {s0 s : State} {i : Fin 10} {off : ℕ} {v : Word} (kw : Within 0x4004101002 W) (h : But W s0 s) : But W s0 (writePort i off v s) := by
  unfold writePort; exact (by (try dsimp only); split; exacts [(but_writeEthCtrl (kw.le rfl) h), (but_updPort (kw.le rfl) h), (but_doIf (kw.le rfl) (fun _ h1 => (but_cmdRotate (kw.le rfl) h1)) h), (but_ite h (but_writeEth (kw.le rfl) h))])

theorem but_writeCan {W : Nat} {s0 s : State} {c : Fin 16} {off : ℕ} {v : Word} (kw : Within 0x4004200002 W) (h : But W s0 s) : But W s0 (writeCan c off v s) := by
  unfold writeCan; exact (by (try dsimp only); split; exacts [(by (try dsimp only); split; exacts [(but_canMode (kw.le rfl) h), (but_canMode (kw.le rfl) h), (but_canDetectCmd (kw.le rfl) h), (but_canMode (kw.le rfl) h), h]), (but_updCan (kw.le rfl) h), (but_doIf (kw.le rfl) (fun _ h1 => (but_canCancel (kw.le rfl) h1)) (but_doIf (kw.le rfl) (fun _ h1 => (but_canReq (kw.le rfl) h1)) h)), (but_canSelect (kw.le rfl) h), (but_updCan (kw.le rfl) h), (but_updCan (kw.le rfl) h), (but_updCan (kw.le rfl) h), (but_ite (but_canPoke (kw.le rfl) h) h)])

theorem but_writeUart {W : Nat} {s0 s : State} {u : Fin 8} {off : ℕ} {v : Word} (kw : Within 0x4004400002 W) (h : But W s0 s) : But W s0 (writeUart u off v s) := by
  unfold writeUart; exact (by (try dsimp only); split; exacts [(but_ifUnlocked (kw.le rfl) (fun _ h1 => (but_updUart (kw.le rfl) h1)) h), (but_withConds (kw.le rfl) (fun _ h1 => (but_updUart (kw.le rfl) h1)) (but_ifUnlocked (kw.le rfl) (fun _ h1 => (but_updUart (kw.le rfl) h1)) h)), (but_uartWrite (kw.le rfl) h), h])

theorem but_writeEngine {W : Nat} {s0 s : State} {c : Fin 6} {off : ℕ} {v : Word} (kw : Within 0x20 W) (h : But W s0 s) : But W s0 (writeEngine c off v s) := by
  unfold writeEngine; exact (by (try dsimp only); split; exacts [(but_updCrest (kw.le rfl) h), (but_doIf (kw.le rfl) (fun _ h1 => (but_updCrest (kw.le rfl) h1)) (but_doIf (kw.le rfl) (fun _ h1 => (but_updCrest (kw.le rfl) h1)) h)), (but_doIf (kw.le rfl) (fun _ h1 => (but_retireCmd (kw.le rfl) h1)) h), (but_updCrest (kw.le rfl) h), h])

theorem but_writeTrcCtrl {W : Nat} {s0 s : State} {c : Fin 6} {v : Word} (kw : Within 0x4004000022 W) (h : But W s0 s) : But W s0 (writeTrcCtrl c v s) := by
  unfold writeTrcCtrl; exact (but_doIf (kw.le rfl) (fun _ h1 => (but_cmdTrcFire (kw.le rfl) h1)) (but_doIf (kw.le rfl) (fun _ h1 => (but_cmdTrcArm (kw.le rfl) h1)) (but_updLoop (kw.le rfl) (but_ite (but_updLoop (kw.le rfl) h) (but_cmdTrcDisable (kw.le rfl) h)))))

theorem but_writeLoop {W : Nat} {s0 s : State} {q : Req} {c : Fin 6} {off : ℕ} {v : Word} (kw : Within 0x4004000022 W) (h : But W s0 s) : But W s0 (writeLoop q c off v s) := by
  unfold writeLoop; exact (by (try dsimp only); split; exacts [(but_updLoop (kw.le rfl) h), (but_ite (but_cmdLpaWrite (kw.le rfl) h) (but_ite (but_cmdLpaRead (kw.le rfl) h) h)), (but_writeTrcCtrl (kw.le rfl) h), (but_updLoop (kw.le rfl) h), (but_updLoop (kw.le rfl) h), (but_updLoop (kw.le rfl) h), (but_ite (but_updLoop (kw.le rfl) h) (but_ite (but_updLoop (kw.le rfl) h) h))])

theorem but_writeField {W : Nat} {s0 s : State} {off : ℕ} {v : Word} (kw : Within 0x4004040002 W) (h : But W s0 s) : But W s0 (writeField off v s) := by
  unfold writeField; exact (by (try dsimp only); split; exacts [(but_doIf (kw.le rfl) (fun _ h1 => (but_unlockTlo (kw.le rfl) h1)) h), (but_updField (kw.le rfl) h), (but_updField (kw.le rfl) h), (but_updField (kw.le rfl) h), (but_updField (kw.le rfl) h), (but_updField (kw.le rfl) h), (by (try dsimp only); split; exacts [(but_cmdTrimDrive (kw.le rfl) h), (but_cmdTrimDrive (kw.le rfl) h), (but_cmdTrimApply (kw.le rfl) h), (but_cmdTrimExit (kw.le rfl) h), h]), h])

theorem but_writePanel {W : Nat} {s0 s : State} {off : ℕ} {v : Word} (kw : Within 0x80000 W) (h : But W s0 s) : But W s0 (writePanel off v s) := by
  unfold writePanel; exact (by (try dsimp only); split; exacts [(but_updPanel (kw.le rfl) h), (but_updPanel (kw.le rfl) h), (but_writeCnt (kw.le rfl) h), h])

theorem but_put64 {W : Nat} {s0 s : State} {pg : Page} {off : ℕ} {d : DWord} (kw : Within 0x10810c010 W) (h : But W s0 s) : But W s0 (put64 pg off d s) := by
  unfold put64; exact (by (try dsimp only); split; exacts [(but_updSched (kw.le rfl) h), (but_updRun (kw.le rfl) h), (but_updTb (kw.le rfl) h), (but_updPort (kw.le rfl) h), (but_updHis (kw.le rfl) h), (but_updUpd (kw.le rfl) h), h])

theorem but_commitHigh {W : Nat} {s0 s : State} {w : Requester} {pg : Page} {off : ℕ} {v : Word} (kw : Within 0x10810c018 W) (h : But W s0 s) : But W s0 (commitHigh w pg off v s) := by
  unfold commitHigh; exact (but_ite (but_writeOffsetHi (kw.le rfl) h) (but_put64 (kw.le rfl) (but_commit64 (kw.le rfl) h)))

theorem but_writeBlock {W : Nat} {s0 s : State} {q : Req} {pg : Page} {off : ℕ} {v : Word} (kw : Within 0x77fffffffe W) (h : But W s0 s) : But W s0 (writeBlock q pg off v s) := by
  unfold writeBlock; exact (by (try dsimp only); split; exacts [h, h, h, (but_ite (but_writeMailCtl (kw.le rfl) h) h), (but_ite (but_writeMailCtl (kw.le rfl) h) h), (but_writeIrq (kw.le rfl) h), (but_writeSuper (kw.le rfl) h), (but_writePower (kw.le rfl) h), (but_writeSwitch (kw.le rfl) h), (but_writeSwitch (kw.le rfl) h), (but_writeSched (kw.le rfl) h), (but_writeRun (kw.le rfl) h), (but_writeTrio (kw.le rfl) h), (but_writeSafety (kw.le rfl) h), (but_writeTb (kw.le rfl) h), (but_writeRec (kw.le rfl) h), (but_writeHis (kw.le rfl) h), (but_writeUpd (kw.le rfl) h), (but_writeSec (kw.le rfl) h), (but_writePort (kw.le rfl) h), (but_writeCan (kw.le rfl) h), (but_writeUart (kw.le rfl) h), (but_writeEngine (kw.le rfl) h), (but_writeLoop (kw.le rfl) h), (but_writeField (kw.le rfl) h), (but_writePanel (kw.le rfl) h)])

theorem but_writePage {W : Nat} {s0 s : State} {q : Req} {pg : Page} {off : ℕ} {v : Word} (kw : Within 0x77fffffffe W) (h : But W s0 s) : But W s0 (writePage q pg off v s) := by
  unfold writePage; exact (but_ite (but_writeHdr (kw.le rfl) h) (but_ite (but_holdLow (kw.le rfl) h) (but_ite (but_commitHigh (kw.le rfl) h) (but_writeBlock (kw.le rfl) h))))

theorem but_writeDoorbell {W : Nat} {s0 s : State} {q : Req} {ch : Fin 32} {v : Word} (kw : Within 0x70078c082e W) (h : But W s0 s) : But W s0 (writeDoorbell q ch v s) := by
  unfold writeDoorbell; exact (but_doIf (kw.le rfl) (fun _ h1 => (but_mailAck (kw.le rfl) h1)) (but_doIf (kw.le rfl) (fun _ h1 => (but_mailRing (kw.le rfl) h1)) h))

theorem but_writeAt {W : Nat} {s0 s : State} {q : Req} {pg : Page} {off : ℕ} {v : Word} (kw : Within 0x77fffffffe W) (h : But W s0 s) : But W s0 (writeAt q pg off v s) := by
  unfold writeAt; exact (by (try dsimp only); split; exacts [(but_ite (but_writeDoorbell (kw.le rfl) h) (but_onPage (kw.le rfl) (fun _ h1 => h1) h)), (but_mailWrite (kw.le rfl) h), (but_ite (but_onSecure (kw.le rfl) (fun _ h1 => (but_writePage (kw.le rfl) h1)) h) (but_onPage (kw.le rfl) (fun _ h1 => (but_writePage (kw.le rfl) h1)) h))])

theorem but_readAt {W : Nat} {s0 s : State} {q : Req} {pg : Page} {off : ℕ} (kw : Within 0x7004400006 W) (h : But W s0 s) : But W s0 (readAt q pg off s) := by
  unfold readAt; exact (by (try dsimp only); split; exacts [(but_ite (but_onPage (kw.le rfl) (fun _ h1 => (but_answer (kw.le rfl) h1)) h) (but_refuse (kw.le rfl) h)), (but_onPage (kw.le rfl) (fun _ h1 => (but_readPage (kw.le rfl) h1)) h)])

theorem but_write32 {W : Nat} {s0 s : State} {q : Req} {win : Window} {addr : ℕ} {v : Word} (kw : Within 0x77fffffffe W) (h : But W s0 s) : But W s0 (write32 q win addr v s) := by
  unfold write32; exact (by (try dsimp only); split; exacts [(but_ite (but_writeAt (kw.le rfl) h) (but_refuse (kw.le rfl) h)), (but_ite (but_mk_resp (kw.le rfl) h) (but_refuse (kw.le rfl) h)), (but_refuse (kw.le rfl) h)])

theorem but_read32 {W : Nat} {s0 s : State} {q : Req} {win : Window} {addr : ℕ} (kw : Within 0x7004400006 W) (h : But W s0 s) : But W s0 (read32 q win addr s) := by
  unfold read32; exact (by (try dsimp only); split; exacts [(but_ite (but_readAt (kw.le rfl) h) (but_refuse (kw.le rfl) h)), (but_ite (but_answer (kw.le rfl) h) (but_refuse (kw.le rfl) h)), (but_refuse (kw.le rfl) h)])

theorem but_bothDone {W : Nat} {s0 s : State} {first : Resp} (kw : Within 0x1000000000 W) (h : But W s0 s) : But W s0 (bothDone first s) := by
  unfold bothDone; exact (but_ite (but_mk_resp (kw.le rfl) h) h)

theorem but_joinReads {W : Nat} {s0 s : State} {first : Resp} (kw : Within 0x1000000000 W) (h : But W s0 s) : But W s0 (joinReads first s) := by
  unfold joinReads; exact (by (try dsimp only); split; exacts [(but_mk_resp (kw.le rfl) h), (but_mk_resp (kw.le rfl) h)])

theorem but_mk_sram_resp {W : Nat} {s0 x : State} {sram' resp'} (kw : Within 0x1000001000 W) (h : But W s0 x) :
    But W s0 (State.mk x.part x.hdrs x.latches x.heldLow x.tb x.crests x.hub x.flitFails x.packets x.nextPacket x.opened x.pool sram' x.staged x.sched x.run x.trio x.safety x.field x.panel x.ports x.cans x.uarts x.super x.mail x.host x.recorder x.historian x.otp x.store x.flash x.sec x.upd x.pwr x.forceInd x.tapReset resp' x.out x.free x.pending) :=
  h.put kw fun c hc => by cases c <;> first | rfl | exact absurd hc (by decide)

theorem but_writeWide {W : Nat} {s0 s : State} {q : Req} {win : Window} {width : AccWidth} {addr : ℕ} {v : DWord} (kw : Within 0x77fffffffe W) (h : But W s0 s) : But W s0 (writeWide q win width addr v s) := by
  unfold writeWide; exact (but_ite (but_ite (but_mk_sram_resp (kw.le rfl) h) (but_refuse (kw.le rfl) h)) (by (try dsimp only); split; exacts [(but_write32 (kw.le rfl) h), (but_ite (but_bothDone (kw.le rfl) (but_write32 (kw.le rfl) (but_write32 (kw.le rfl) h))) (but_refuse (kw.le rfl) h)), (but_refuse (kw.le rfl) h), (but_refuse (kw.le rfl) h)]))

theorem but_readWide {W : Nat} {s0 s : State} {q : Req} {win : Window} {width : AccWidth} {addr : ℕ} (kw : Within 0x7004400006 W) (h : But W s0 s) : But W s0 (readWide q win width addr s) := by
  unfold readWide; exact (but_ite (but_ite (but_mk_resp (kw.le rfl) h) (but_refuse (kw.le rfl) h)) (by (try dsimp only); split; exacts [(but_read32 (kw.le rfl) h), (but_ite (but_joinReads (kw.le rfl) (but_read32 (kw.le rfl) (but_read32 (kw.le rfl) h))) (but_refuse (kw.le rfl) h)), (but_refuse (kw.le rfl) h), (but_refuse (kw.le rfl) h)]))

theorem but_hostSubmit {W : Nat} {s0 s : State} {target : HostTarget} {op : HostOp} (kw : Within 0x6006000002 W) (h : But W s0 s) : But W s0 (hostSubmit target op s) := by
  unfold hostSubmit; exact (but_ite h (but_ite (but_complete (kw.le rfl) (but_updHost (kw.le rfl) (but_bump (kw.le rfl) (but_ite (but_hostInL0 (kw.le rfl) h) h)))) (but_ite (but_updHost (kw.le rfl) (but_bump (kw.le rfl) (but_ite (but_hostInL0 (kw.le rfl) h) h))) (but_updHost (kw.le rfl) (but_bump (kw.le rfl) (but_ite (but_hostInL0 (kw.le rfl) h) h))))))

theorem but_hostReadWords {W : Nat} {s0 s : State} {k a : Nat} (kk : Within 0x7004400006 W) (h : But W s0 s) : But W s0 (hostReadWords k a s).2 := by
  induction k generalizing a s with
  | zero => exact h
  | succ k ih =>
    have x : But W s0 (if hostMay s a then read32 hostReq .control a s else errorResponse none s) :=
      but_ite (but_read32 (kk.le rfl) h) (but_errorResponse (kk.le rfl) h)
    have y := ih (a := a + 4) x
    unfold hostReadWords
    dsimp only
    split <;> exact y

theorem but_hostWriteWords {W : Nat} {s0 s : State} {d : List Byte} {a k : Nat} (kk : Within 0x77fffffffe W) (h : But W s0 s) : But W s0 (hostWriteWords d a k s) := by
  induction k generalizing d a s with
  | zero => exact h
  | succ k ih => exact ih (but_ite (but_write32 (kk.le rfl) h) (but_errorResponse (kk.le rfl) h))

theorem but_serveBar {W : Nat} {s0 s : State} {addr : Nat} {op : HostOp} (kk : Within 0x77fffffffe W) (h : But W s0 s) : But W s0 (serveBar addr op s) := by
  have k : ∀ n, But W s0 (hostReadWords n addr s).2 := fun n => but_hostReadWords (kk.le rfl) h
  unfold serveBar
  split
  · refine but_ite ?_ (but_complete (kk.le rfl) (but_errorResponse (kk.le rfl) h))
    split
    · rename_i e
      have hs := congrArg Prod.snd e
      dsimp only at hs
      rw [← hs]
      exact but_complete (kk.le rfl) (but_mk_resp (kk.le rfl) (k _))
    · rename_i e
      have hs := congrArg Prod.snd e
      dsimp only at hs
      rw [← hs]
      exact but_complete (kk.le rfl) (but_mk_resp (kk.le rfl) (k _))
  · exact but_ite (but_hostWriteWords (kk.le rfl) h) (but_errorResponse (kk.le rfl) h)

theorem but_launchPiece {W : Nat} {s0 s : State} {t : Fin 8} {addr : ℕ} {run : ℕ} {op : HostOp} {x : ℕ × ℕ} (kw : Within 0x300 W) (h : But W s0 s) : But W s0 (launchPiece t addr run op s x) := by
  unfold launchPiece; exact (but_enterPacket (kw.le rfl) h)

theorem but_serveWindow {W : Nat} {s0 s : State} {t : Fin 8} {addr : ℕ} {op : HostOp} (kw : Within 0x3002000302 W) (h : But W s0 s) : But W s0 (serveWindow t addr op s) := by
  unfold serveWindow; exact (but_ite (but_ite (but_complete (kw.le rfl) (but_mk_resp (kw.le rfl) h)) (but_mk_resp (kw.le rfl) h)) (but_updHost (kw.le rfl) (but_foldl (fun _ _ h1 => (but_launchPiece (kw.le rfl) h1)) h)))

theorem but_hostServe {W : Nat} {s0 s : State} (kw : Within 0x77fffffffe W) (h : But W s0 s) : But W s0 (hostServe s) := by
  unfold hostServe; exact (by (try dsimp only); split; exacts [h, (by (try dsimp only); split; exacts [h, (by (try dsimp only); split; exacts [(but_serveBar (kw.le rfl) (but_updHost (kw.le rfl) h)), (but_serveWindow (kw.le rfl) (but_updHost (kw.le rfl) h))])])])

theorem but_hostDoes {W : Nat} {s0 s : State} {r : HostReq} (kw : Within 0x77fffffffe W) (h : But W s0 s) : But W s0 (hostDoes r s) := by
  unfold hostDoes; exact (by (try dsimp only); split; exacts [(but_hostSubmit (kw.le rfl) h), (but_hostServe (kw.le rfl) h)])

theorem but_execRegisterWrite {s t : State} {q : Req} {win : Window} {width : AccWidth} {addr : BitVec 28} {val : DWord} (e : execRegisterWrite q win width addr val s = .next t) : But 0x77fffffffe s t := by
  have h := But.self 0x77fffffffe s
  have kw := Within.self 0x77fffffffe
  cases e; exact (but_writeWide (kw.le rfl) h)

theorem but_execReg64LowRead {s t : State} {q : Req} {win : Window} {width : AccWidth} {addr : BitVec 28} (e : execReg64LowRead q win width addr s = .next t) : But 0x7004400006 s t := by
  have h := But.self 0x7004400006 s
  have kw := Within.self 0x7004400006
  cases e; exact (but_readWide (kw.le rfl) h)

theorem but_execReg64LowWrite {s t : State} {q : Req} {win : Window} {addr : BitVec 28} {val : Word} (e : execReg64LowWrite q win addr val s = .next t) : But 0x77fffffffe s t := by
  have h := But.self 0x77fffffffe s
  have kw := Within.self 0x77fffffffe
  cases e; exact (but_writeWide (kw.le rfl) h)

theorem but_execReg64HighWrite {s t : State} {q : Req} {win : Window} {addr : BitVec 28} {val : Word} (e : execReg64HighWrite q win addr val s = .next t) : But 0x77fffffffe s t := by
  have h := But.self 0x77fffffffe s
  have kw := Within.self 0x77fffffffe
  cases e; exact (but_writeWide (kw.le rfl) h)

theorem but_execBlkLock {s t : State} {q : Req} {pg : Page} (e : execBlkLock q pg s = .next t) : But 0x3000000002 s t := by
  have h := But.self 0x3000000002 s
  have kw := Within.self 0x3000000002
  cases e; exact (but_onPage (kw.le rfl) (fun _ h1 => (but_lockPage (kw.le rfl) h1)) h)

theorem but_execBlkCntClear {s t : State} {q : Req} {pg : Page} (e : execBlkCntClear q pg s = .next t) : But 0x3000000002 s t := by
  have h := But.self 0x3000000002 s
  have kw := Within.self 0x3000000002
  cases e; exact (but_onPage (kw.le rfl) (fun _ h1 => (but_clearCounts (kw.le rfl) h1)) h)

theorem but_execBlkIrqStatClear {s t : State} {q : Req} {pg : Page} {bits : Word} (e : execBlkIrqStatClear q pg bits s = .next t) : But 0x3000000002 s t := by
  have h := But.self 0x3000000002 s
  have kw := Within.self 0x3000000002
  cases e; exact (but_onPage (kw.le rfl) (fun _ h1 => (but_irqClear (kw.le rfl) h1)) h)

theorem but_execBlkIrqSet {s t : State} {q : Req} {pg : Page} {bits : Word} (e : execBlkIrqSet q pg bits s = .next t) : But 0x3000000002 s t := by
  have h := But.self 0x3000000002 s
  have kw := Within.self 0x3000000002
  cases e; exact (but_onPage (kw.le rfl) (fun _ h1 => (but_irqSet (kw.le rfl) h1)) h)

theorem but_execHostRequest {s t : State} {r : HostReq} (e : execHostRequest r s = .next t) : But 0x77fffffffe s t := by
  have h := But.self 0x77fffffffe s
  have kw := Within.self 0x77fffffffe
  cases e; exact (but_hostDoes (kw.le rfl) h)


end Sys2Proof.Machine
end

