-- ==== Sys2Proof/Laws/Keeps.lean ====
section
/-! SUPPORT. What no operation and no command takes back or changes: the part, the queue of commands, what is burnt into the OTP, and the
canonical form of the pool and of supervisor SRAM. One lemma per operation, in the order of the model's files. -/
namespace Sys2Proof.Machine

/-- The OTP `b` keeps what is burnt into `a` (R378). -/
structure OtpKept (a b : Otp) : Prop where
  groups : ∀ i, a.groups.getLsbD i = true → b.groups.getLsbD i = true
  revoked : ∀ i, a.revoked.getLsbD i = true → b.revoked.getLsbD i = true
  svn : a.svn.toNat ≤ b.svn.toNat
  owner : a.ownerBurnt = true → b.ownerBurnt = true
  identity : a.identity = true → b.identity = true ∧ b.devId = a.devId
  serial : b.serial = a.serial
  vendor : b.vendor = a.vendor

theorem otpKept_refl (a : Otp) : OtpKept a a :=
  ⟨fun _ h => h, fun _ h => h, le_refl _, fun h => h, fun h => ⟨h, rfl⟩, rfl, rfl⟩

theorem otpKept_trans {a b c : Otp} (h : OtpKept a b) (k : OtpKept b c) : OtpKept a c :=
  ⟨fun i x => k.groups i (h.groups i x), fun i x => k.revoked i (h.revoked i x), le_trans h.svn k.svn, fun x => k.owner (h.owner x),
    fun x => ⟨(k.identity (h.identity x).1).1, ((k.identity (h.identity x).1).2).trans (h.identity x).2⟩,
    k.serial.trans h.serial, k.vendor.trans h.vendor⟩

/-- What `t` keeps of `s`. -/
structure Keeps (s t : State) : Prop where
  part : t.part = s.part
  pending : t.pending = s.pending
  otp : OtpKept s.otp t.otp
  pool : memWf s.pool = true → memWf t.pool = true
  sram : memWf s.sram = true → memWf t.sram = true

theorem keeps_refl (s : State) : Keeps s s := ⟨rfl, rfl, otpKept_refl _, fun h => h, fun h => h⟩

theorem keeps_trans {s t u : State} (h : Keeps s t) (k : Keeps t u) : Keeps s u :=
  ⟨k.part.trans h.part, k.pending.trans h.pending, otpKept_trans h.otp k.otp, fun x => k.pool (h.pool x), fun x => k.sram (h.sram x)⟩

theorem keeps_ite {s0 a b : State} {c : Prop} [Decidable c] (h : Keeps s0 a) (k : Keeps s0 b) : Keeps s0 (if c then a else b) := by
  split
  · exact h
  · exact k

theorem keeps_dite {s0 : State} {c : Prop} [Decidable c] {a : c → State} {b : ¬c → State} (h : ∀ x, Keeps s0 (a x))
    (k : ∀ x, Keeps s0 (b x)) : Keeps s0 (if x : c then a x else b x) := by
  split
  · exact h _
  · exact k _

theorem keeps_foldl {α : Type} {s0 s : State} {f : State → α → State} {l : List α} (h : ∀ x a, Keeps s0 x → Keeps s0 (f x a))
    (k : Keeps s0 s) : Keeps s0 (l.foldl f s) := by
  induction l generalizing s with
  | nil => exact k
  | cons a r ih => exact ih (h _ _ k)

theorem keeps_elim {α : Type} {s0 a : State} {f : α → State} {x : Option α} (h : Keeps s0 a) (k : ∀ y, Keeps s0 (f y)) :
    Keeps s0 (x.elim a f) := by
  cases x
  · exact h
  · exact k _

theorem keeps_prod {α : Type} {s0 : State} {p : α × State} {b : α → State → State} (h : Keeps s0 p.2)
    (k : ∀ a x, Keeps s0 x → Keeps s0 (b a x)) : Keeps s0 (match p with | (a, x) => b a x) := k _ _ h

/-- An update of other fields. -/
theorem keeps_of_eq {s0 s t : State} (h : Keeps s0 s) (hp : t.part = s.part) (hq : t.pending = s.pending) (ho : t.otp = s.otp)
    (hm : t.pool = s.pool) (hr : t.sram = s.sram) : Keeps s0 t :=
  ⟨hp.trans h.part, hq.trans h.pending, ho ▸ h.otp, fun x => hm ▸ h.pool x, fun x => hr ▸ h.sram x⟩

/-- An update of the pool. -/
theorem keeps_putPool {s0 s t : State} (h : Keeps s0 s) (k : memWf s.pool = true → memWf t.pool = true) (hp : t.part = s.part)
    (hq : t.pending = s.pending) (ho : t.otp = s.otp) (hr : t.sram = s.sram) : Keeps s0 t :=
  ⟨hp.trans h.part, hq.trans h.pending, ho ▸ h.otp, fun x => k (h.pool x), fun x => hr ▸ h.sram x⟩

/-- An update of SRAM. -/
theorem keeps_putSram {s0 s t : State} (h : Keeps s0 s) (k : memWf s.sram = true → memWf t.sram = true) (hp : t.part = s.part)
    (hq : t.pending = s.pending) (ho : t.otp = s.otp) (hm : t.pool = s.pool) : Keeps s0 t :=
  ⟨hp.trans h.part, hq.trans h.pending, ho ▸ h.otp, fun x => hm ▸ h.pool x, fun x => k (h.sram x)⟩

/-- An update of the OTP. -/
theorem keeps_putOtp {s0 s t : State} (h : Keeps s0 s) (k : OtpKept s.otp t.otp) (hp : t.part = s.part) (hq : t.pending = s.pending)
    (hm : t.pool = s.pool) (hr : t.sram = s.sram) : Keeps s0 t :=
  ⟨hp.trans h.part, hq.trans h.pending, otpKept_trans h.otp k, fun x => hm ▸ h.pool x, fun x => hr ▸ h.sram x⟩

theorem memWf_ite {c : Prop} [Decidable c] {a b : Memory} (h : memWf a = true) (k : memWf b = true) :
    memWf (if c then a else b) = true := by
  split
  · exact h
  · exact k

theorem memWf_foldl {α : Type} {f : Memory → α → Memory} {l : List α} {m : Memory}
    (h : ∀ x a, memWf x = true → memWf (f x a) = true) (k : memWf m = true) : memWf (l.foldl f m) = true := by
  induction l generalizing m with
  | nil => exact k
  | cons a r ih => exact ih (h _ _ k)

/-- An update of other fields, as a record update is elaborated. -/
theorem keeps_mk {s0 x : State} {hdrs' latches' heldLow' tb' crests' hub' flitFails' packets' nextPacket' opened' staged' sched' run'
      trio' safety' field' panel' ports' cans' uarts' super' mail' host' recorder' historian' store' flash' sec' upd' pwr'
      forceInd' tapReset' resp' out' free'} (h : Keeps s0 x) : Keeps s0 (State.mk x.part hdrs' latches' heldLow' tb' crests' hub'
      flitFails' packets' nextPacket' opened' x.pool x.sram staged' sched' run' trio' safety' field' panel' ports' cans' uarts' super'
      mail' host' recorder' historian' x.otp store' flash' sec' upd' pwr' forceInd' tapReset' resp' out' free' x.pending) :=
  keeps_of_eq h rfl rfl rfl rfl rfl

/-- An update of the pool, as a record update is elaborated. -/
theorem keeps_mkPool {s0 x : State} {hdrs' latches' heldLow' tb' crests' hub' flitFails' packets' nextPacket' opened' pool' staged' sched'
      run' trio' safety' field' panel' ports' cans' uarts' super' mail' host' recorder' historian' store' flash' sec' upd' pwr'
      forceInd' tapReset' resp' out' free'} (h : Keeps s0 x) (k : memWf x.pool = true → memWf pool' = true) : Keeps s0 (State.mk
      x.part hdrs' latches' heldLow' tb' crests' hub' flitFails' packets' nextPacket' opened' pool' x.sram staged' sched' run' trio'
      safety' field' panel' ports' cans' uarts' super' mail' host' recorder' historian' x.otp store' flash' sec' upd' pwr'
      forceInd' tapReset' resp' out' free' x.pending) :=
  keeps_putPool h k rfl rfl rfl rfl

/-- An update of SRAM, as a record update is elaborated. -/
theorem keeps_mkSram {s0 x : State} {hdrs' latches' heldLow' tb' crests' hub' flitFails' packets' nextPacket' opened' sram' staged' sched'
      run' trio' safety' field' panel' ports' cans' uarts' super' mail' host' recorder' historian' store' flash' sec' upd' pwr'
      forceInd' tapReset' resp' out' free'} (h : Keeps s0 x) (k : memWf x.sram = true → memWf sram' = true) : Keeps s0 (State.mk
      x.part hdrs' latches' heldLow' tb' crests' hub' flitFails' packets' nextPacket' opened' x.pool sram' staged' sched' run' trio'
      safety' field' panel' ports' cans' uarts' super' mail' host' recorder' historian' x.otp store' flash' sec' upd' pwr'
      forceInd' tapReset' resp' out' free' x.pending) :=
  keeps_putSram h k rfl rfl rfl rfl

theorem memWf_putValue {p : Place} {v : Word} {m : Memory} (h : memWf m = true) : memWf (putValue p v m) = true := memWf_write _ _ h

theorem memWf_putStatus {p : Place} {f : Word} {m : Memory} (h : memWf m = true) : memWf (putStatus p f m) = true := memWf_write _ _ h

theorem memWf_putWordBit {a b : Nat} {v : Bool} {m : Memory} (h : memWf m = true) : memWf (putWordBit a b v m) = true := memWf_write _ _ h

theorem memWf_substMem {p : Place} {r : Subst} {c : BitVec 2} {m : Memory} (h : memWf m = true) : memWf (substMem p r c m) = true := by
  unfold substMem
  split
  · exact h
  · exact memWf_putStatus (memWf_putValue h)
  · exact memWf_ite (memWf_putStatus (memWf_putValue h)) (memWf_putStatus (memWf_putValue h))

theorem keeps_updCrest {s0 s : State} {c : Fin 6} {f : Sys2Proof.Machine.Crest → Sys2Proof.Machine.Crest} (h : Keeps s0 s) : Keeps s0 (updCrest c f s) := by
  unfold updCrest; exact (keeps_mk h)

theorem keeps_updEngine {s0 s : State} {e : Sys2Proof.EngRef} {f : Sys2Proof.Machine.Engine → Sys2Proof.Machine.Engine} (h : Keeps s0 s) : Keeps s0 (updEngine e f s) := by
  unfold updEngine; exact (keeps_updCrest h)

theorem keeps_updLoop {s0 s : State} {c : Fin 6} {f : Sys2Proof.Machine.LoopArray → Sys2Proof.Machine.LoopArray} (h : Keeps s0 s) : Keeps s0 (updLoop c f s) := by
  unfold updLoop; exact (keeps_updCrest h)

theorem keeps_updPort {s0 s : State} {p : Fin 10} {f : Sys2Proof.Machine.EthPort → Sys2Proof.Machine.EthPort} (h : Keeps s0 s) : Keeps s0 (updPort p f s) := by
  unfold updPort; exact (keeps_mk h)

theorem keeps_updCan {s0 s : State} {c : Fin 16} {f : Sys2Proof.Machine.Can → Sys2Proof.Machine.Can} (h : Keeps s0 s) : Keeps s0 (updCan c f s) := by
  unfold updCan; exact (keeps_mk h)

theorem keeps_updUart {s0 s : State} {u : Fin 8} {f : Sys2Proof.Machine.Uart → Sys2Proof.Machine.Uart} (h : Keeps s0 s) : Keeps s0 (updUart u f s) := by
  unfold updUart; exact (keeps_mk h)

theorem keeps_drawFree {s0 s : State} {n : ℕ} (h : Keeps s0 s) : Keeps s0 (drawFree n s).2 := by
  unfold drawFree; exact (keeps_mk h)

theorem keeps_send {s0 s : State} {m : Sys2Proof.Machine.Sent} (h : Keeps s0 s) : Keeps s0 (send m s) := by
  unfold send; exact (keeps_mk h)

theorem keeps_updHdr {s0 s : State} {pg : Sys2Proof.Page} {f : Sys2Proof.Machine.PageHdr → Sys2Proof.Machine.PageHdr} (h : Keeps s0 s) : Keeps s0 (updHdr pg f s) := by
  unfold updHdr; exact (keeps_mk h)

theorem keeps_bump {s0 s : State} {pg : Sys2Proof.Page} {code : ℕ} {n : ℕ} (h : Keeps s0 s) : Keeps s0 (bump pg code n s) := by
  unfold bump; exact (keeps_ite h (keeps_updHdr h))

theorem keeps_countEdge {s0 s : State} {pg : Sys2Proof.Page} {before : Sys2Proof.Machine.State} (h : Keeps s0 s) : Keeps s0 (countEdge pg before s) := by
  unfold countEdge; exact (keeps_ite (keeps_bump h) h)

theorem keeps_setRaw {s0 s : State} {pg : Sys2Proof.Page} {bit : ℕ} (h : Keeps s0 s) : Keeps s0 (setRaw pg bit s) := by
  unfold setRaw; exact (keeps_countEdge (keeps_updHdr h))

theorem keeps_dropEvent {s0 s : State} {r : Fin 9} {ev : Sys2Proof.EventIn} (h : Keeps s0 s) : Keeps s0 (dropEvent r ev s) := by
  unfold dropEvent; exact (keeps_setRaw (keeps_bump (keeps_mk h)))

theorem keeps_enqueueEvent {s0 s : State} {ev : Sys2Proof.EventIn} (h : Keeps s0 s) : Keeps s0 (enqueueEvent ev s) := by
  unfold enqueueEvent; exact (keeps_ite (keeps_mk h) (keeps_dropEvent h))

theorem keeps_recordEvent {s0 s : State} {pg : Sys2Proof.Page} {n : ℕ} {ten : Option (BitVec 3)} {sev : BitVec 3} {ps : Sys2Proof.Machine.Params} (h : Keeps s0 s) : Keeps s0 (recordEvent pg n ten sev ps s) := by
  unfold recordEvent; exact (by (try dsimp only); split; exacts [(keeps_enqueueEvent h), (by (try dsimp only [drawFree]); exact (keeps_enqueueEvent (keeps_mk h)))])

theorem keeps_raise {s0 s : State} {pg : Sys2Proof.Page} {bit : ℕ} {ten : Option (BitVec 3)} {ps : Sys2Proof.Machine.Params} (h : Keeps s0 s) : Keeps s0 (raise pg bit ten ps s) := by
  unfold raise; exact (keeps_recordEvent (keeps_setRaw h))

theorem keeps_raiseSev {s0 s : State} {pg : Sys2Proof.Page} {bit : ℕ} {ten : Option (BitVec 3)} {sev : BitVec 3} {ps : Sys2Proof.Machine.Params} (h : Keeps s0 s) : Keeps s0 (raiseSev pg bit ten sev ps s) := by
  unfold raiseSev; exact (keeps_recordEvent (keeps_setRaw h))

theorem keeps_note {s0 s : State} {pg : Sys2Proof.Page} {n : ℕ} {ten : Option (BitVec 3)} {p0 : Sys2Proof.Word} {p1 : Sys2Proof.Word} (h : Keeps s0 s) : Keeps s0 (note pg n ten p0 p1 s) := by
  unfold note; exact (keeps_recordEvent h)

theorem keeps_urgent {s0 s : State} {n : ℕ} (h : Keeps s0 s) : Keeps s0 (urgent n s) := by
  unfold urgent; exact (keeps_mk h)

theorem keeps_raiseUrgent {s0 s : State} {pg : Sys2Proof.Page} {bit : ℕ} {n : ℕ} {ten : Option (BitVec 3)} {ps : Sys2Proof.Machine.Params} (h : Keeps s0 s) : Keeps s0 (raiseUrgent pg bit n ten ps s) := by
  unfold raiseUrgent; exact (keeps_raiseSev (keeps_urgent h))

theorem keeps_condEdge {s0 s : State} {pg : Sys2Proof.Page} {before : Sys2Proof.Machine.State} (h : Keeps s0 s) : Keeps s0 (condEdge pg before s) := by
  unfold condEdge; exact (keeps_ite (keeps_bump h) h)

theorem keeps_noteConds {s0 s : State} {pgs : List Sys2Proof.Page} {before : Sys2Proof.Machine.State} (h : Keeps s0 s) : Keeps s0 (noteConds pgs before s) := by
  unfold noteConds; exact (keeps_foldl (fun _ _ h1 => (keeps_ite (keeps_condEdge h1) (keeps_foldl (fun _ _ h2 => (keeps_ite (keeps_recordEvent h2) h2)) (keeps_condEdge h1)))) h)

theorem keeps_errorResponse {s0 s : State} {pg : Option Sys2Proof.Page} (h : Keeps s0 s) : Keeps s0 (errorResponse pg s) := by
  unfold errorResponse; exact (by (try dsimp only); split; exacts [(keeps_ite (keeps_bump (keeps_updHdr (keeps_mk h))) (keeps_mk h)), (keeps_mk h)])

theorem keeps_refuse {s0 s : State} {w : Sys2Proof.Requester} {pg : Option Sys2Proof.Page} (h : Keeps s0 s) : Keeps s0 (refuse w pg s) := by
  unfold refuse; exact (by (try dsimp only); split; exacts [(keeps_send (keeps_errorResponse h)), (keeps_errorResponse h)])

theorem keeps_onPage {s0 s : State} {q : Req} {pg : Page} {f : State → State} (k : ∀ x, Keeps s0 x → Keeps s0 (f x)) (h : Keeps s0 s) :
    Keeps s0 (onPage q pg f s) := by
  unfold onPage; exact (keeps_ite (keeps_refuse h) (k _ (keeps_bump (keeps_mk h))))

theorem keeps_answer {s0 s : State} {v : Sys2Proof.Word} (h : Keeps s0 s) : Keeps s0 (answer v s) := by
  unfold answer; exact (keeps_mk h)

theorem keeps_ifUnlocked {s0 s : State} {pg : Page} {f : State → State} (k : ∀ x, Keeps s0 x → Keeps s0 (f x)) (h : Keeps s0 s) :
    Keeps s0 (ifUnlocked pg f s) := by
  unfold ifUnlocked; exact (keeps_ite (keeps_updHdr h) (k _ h))

theorem keeps_latchPut {s0 s : State} {w : Sys2Proof.Requester} {pg : Sys2Proof.Page} {off : ℕ} {v : Sys2Proof.Word} (h : Keeps s0 s) : Keeps s0 (latchPut w pg off v s) := by
  unfold latchPut; exact (keeps_mk h)

theorem keeps_holdLow {s0 s : State} {w : Sys2Proof.Requester} {pg : Sys2Proof.Page} {off : ℕ} {v : Sys2Proof.Word} (h : Keeps s0 s) : Keeps s0 (holdLow w pg off v s) := by
  unfold holdLow; exact (keeps_mk h)

theorem keeps_commit64 {s0 s : State} {w : Sys2Proof.Requester} {pg : Sys2Proof.Page} {off : ℕ} {cur : Sys2Proof.DWord} {hi : Sys2Proof.Word} (h : Keeps s0 s) : Keeps s0 (commit64 w pg off cur hi s).2 := by
  unfold commit64; exact (keeps_mk h)

theorem keeps_dropLatches {s0 s : State} {p : Sys2Proof.Page → Bool} (h : Keeps s0 s) : Keeps s0 (dropLatches p s) := by
  unfold dropLatches; exact (keeps_mk h)

theorem keeps_updSwitch {s0 s : State} {t : ℕ} {f : Sys2Proof.Machine.Switch → Sys2Proof.Machine.Switch} (h : Keeps s0 s) : Keeps s0 (updSwitch t f s) := by
  unfold updSwitch; exact (keeps_ite (keeps_mk h) (by (try dsimp only); split; exacts [(keeps_ite h (keeps_updCrest h)), h]))

theorem keeps_bumpSwitch {s0 s : State} {t : ℕ} {code : ℕ} {n : ℕ} (h : Keeps s0 s) : Keeps s0 (bumpSwitch t code n s) := by
  unfold bumpSwitch; exact (keeps_elim h (fun _ => (keeps_bump h)))

theorem keeps_raiseSwitch {s0 s : State} {t : ℕ} {bit : ℕ} {sev : BitVec 3} (h : Keeps s0 s) : Keeps s0 (raiseSwitch t bit sev s) := by
  unfold raiseSwitch; exact (keeps_elim h (fun _ => (keeps_raiseSev h)))

theorem keeps_portDown {s0 s : State} {e : Sys2Proof.Machine.LinkEnd} {sev : BitVec 3} (h : Keeps s0 s) : Keeps s0 (portDown e sev s) := by
  unfold portDown; exact (keeps_raiseSwitch (keeps_updSwitch h))

theorem keeps_updField {s0 s : State} {f : Sys2Proof.Machine.Field → Sys2Proof.Machine.Field} (h : Keeps s0 s) : Keeps s0 (updField f s) := by
  unfold updField; exact (keeps_mk h)

theorem keeps_settleMis {s0 s : State} (h : Keeps s0 s) : Keeps s0 (settleMis s) := by
  unfold settleMis; exact (keeps_updField h)

theorem keeps_settleTrims {s0 s : State} (h : Keeps s0 s) : Keeps s0 (settleTrims s) := by
  unfold settleTrims; exact (keeps_updField h)

theorem keeps_settleAsk {s0 s : State} (h : Keeps s0 s) : Keeps s0 (settleAsk s) := by
  unfold settleAsk; exact (keeps_updField h)

theorem keeps_refreshField {s0 s : State} (h : Keeps s0 s) : Keeps s0 (refreshField s) := by
  unfold refreshField; exact (keeps_settleAsk (keeps_settleTrims (keeps_settleMis (keeps_updField h))))

theorem keeps_newFault {s0 s : State} {ten : Option (BitVec 3)} (h : Keeps s0 s) : Keeps s0 (newFault ten s) := by
  unfold newFault; exact (keeps_raise (keeps_bump h))

theorem keeps_updTask {s0 s : State} {ten : BitVec 3} {tsk : BitVec 8} {f : Sys2Proof.Machine.TaskRt → Sys2Proof.Machine.TaskRt} (h : Keeps s0 s) : Keeps s0 (updTask ten tsk f s) := by
  unfold updTask; exact (keeps_mk h)

theorem keeps_abandonTask {s0 s : State} {ten : BitVec 3} {tsk : BitVec 8} {program : Bool} (h : Keeps s0 s) : Keeps s0 (abandonTask ten tsk program s) := by
  unfold abandonTask; exact (keeps_ite (keeps_updTask h) (keeps_bump (keeps_updTask h)))

theorem keeps_updFunc {s0 s : State} {i : Fin 256} {f : Sys2Proof.Machine.FuncRt → Sys2Proof.Machine.FuncRt} (h : Keeps s0 s) : Keeps s0 (updFunc i f s) := by
  unfold updFunc; exact (keeps_mk h)

theorem keeps_setFunc {s0 s : State} {c : Sys2Proof.Machine.FuncCfg} {new : Sys2Proof.Machine.FuncState} {cause : BitVec 4} (h : Keeps s0 s) : Keeps s0 (setFunc c new cause s) := by
  unfold setFunc; exact (keeps_ite h (keeps_ite (keeps_raiseUrgent (keeps_raise (keeps_bump (keeps_updFunc h)))) (keeps_raise (keeps_bump (keeps_updFunc h)))))

theorem keeps_stopFunc {s0 s : State} {noHold : Bool} {c : Sys2Proof.Machine.FuncCfg} (h : Keeps s0 s) : Keeps s0 (stopFunc noHold s c) := by
  unfold stopFunc; exact (keeps_ite (keeps_ite (keeps_setFunc h) h) (keeps_ite (keeps_ite (keeps_setFunc h) h) (keeps_ite (keeps_updFunc (keeps_setFunc h)) h)))

theorem keeps_safeOutputs {s0 s : State} {keepSingle : Bool} (h : Keeps s0 s) : Keeps s0 (safeOutputs keepSingle s) := by
  unfold safeOutputs; exact (keeps_refreshField (keeps_updField h))

theorem keeps_cancelSched {s0 s : State} {code : Option Sys2Proof.Byte} (h : Keeps s0 s) : Keeps s0 (cancelSched code s) := by
  unfold cancelSched; exact (keeps_ite (keeps_raise (keeps_mk h)) h)

theorem keeps_cancelApp {s0 s : State} {code : Option Sys2Proof.Byte} (h : Keeps s0 s) : Keeps s0 (cancelApp code s) := by
  unfold cancelApp; exact (keeps_ite (keeps_raise (keeps_mk h)) h)

theorem keeps_cancelSlots {s0 s : State} {c : Fin 16} (h : Keeps s0 s) : Keeps s0 (cancelSlots s c) := by
  unfold cancelSlots; exact (keeps_ite h (keeps_raise (keeps_updCan h)))

theorem keeps_stopController {s0 s : State} {st : Sys2Proof.Machine.RunState} {keepSingle : Bool} {noHold : Bool} (h : Keeps s0 s) : Keeps s0 (stopController st keepSingle noHold s) := by
  unfold stopController; exact (keeps_safeOutputs (keeps_foldl (fun _ _ h1 => (keeps_cancelSlots h1)) (keeps_foldl (fun _ _ h1 => (keeps_stopFunc h1)) (keeps_cancelApp (keeps_cancelSched (keeps_mkPool h (fun w => (memWf_foldl (fun _ _ w0 => (memWf_write _ _ w0)) w))))))))

theorem keeps_dropRejoin {s0 s : State} (h : Keeps s0 s) : Keeps s0 (dropRejoin s) := by
  unfold dropRejoin; exact (keeps_ite h (keeps_raise (keeps_mk h)))

theorem keeps_giveUpWith {s0 s : State} {cause : ℕ} {ownDiagFailed : Bool} (h : Keeps s0 s) : Keeps s0 (giveUpWith cause ownDiagFailed s) := by
  unfold giveUpWith; exact (keeps_ite h (keeps_raiseUrgent (keeps_dropRejoin (keeps_mk (keeps_stopController h)))))

theorem keeps_giveUp {s0 s : State} {cause : ℕ} (h : Keeps s0 s) : Keeps s0 (giveUp cause s) := by
  unfold giveUp; exact (keeps_giveUpWith h)

theorem keeps_failSelfTest {s0 s : State} (h : Keeps s0 s) : Keeps s0 (failSelfTest s) := by
  unfold failSelfTest; exact (by (try dsimp only); split; exacts [h, h, (keeps_dropRejoin h), (keeps_ite (keeps_giveUp h) (keeps_stopController h)), (keeps_ite (keeps_giveUp h) (keeps_stopController (keeps_dropRejoin h)))])

theorem keeps_overrun {s0 s : State} {crest : ℕ} {logical : BitVec 4} {cause : BitVec 2} (h : Keeps s0 s) : Keeps s0 (overrun crest logical cause s) := by
  unfold overrun; exact (keeps_ite h (keeps_ite (keeps_giveUp (keeps_raiseUrgent (keeps_mk h))) (keeps_dropRejoin (keeps_stopController (keeps_raiseUrgent (keeps_mk h))))))

theorem keeps_startFails {s0 s : State} {code : Sys2Proof.Byte} {tile : BitVec 3} (h : Keeps s0 s) : Keeps s0 (startFails code tile s) := by
  unfold startFails; exact (keeps_note (keeps_mk h))

theorem keeps_failDevice {s0 s : State} {code : Sys2Proof.Byte} {tile : BitVec 3} (h : Keeps s0 s) : Keeps s0 (failDevice code tile s) := by
  unfold failDevice; exact (keeps_ite (keeps_startFails h) (keeps_failSelfTest h))

theorem keeps_abandonStep {s0 s : State} {d : Option Sys2Proof.Machine.StepDesc} {program : Bool} (h : Keeps s0 s) : Keeps s0 (abandonStep d program s) := by
  unfold abandonStep; exact (by (try dsimp only); split; exacts [(keeps_abandonTask h), h])

theorem keeps_abandonLater {s0 s : State} {c : Fin 6} {logical : ℕ} (h : Keeps s0 s) : Keeps s0 (abandonLater c logical s) := by
  unfold abandonLater; exact (by (try dsimp only); split; exacts [h, (keeps_foldl (fun _ _ h1 => (keeps_ite (keeps_abandonStep h1) h1)) h)])

theorem keeps_retireByFault {s0 s : State} {e : Sys2Proof.EngRef} (h : Keeps s0 s) : Keeps s0 (retireByFault e s) := by
  unfold retireByFault; exact (keeps_ite h (keeps_ite (keeps_raise (keeps_updCrest (by (try dsimp only); split; exacts [(keeps_abandonLater (keeps_abandonStep (keeps_abandonStep (keeps_raise (keeps_updCrest h))))), (keeps_abandonStep (keeps_abandonStep (keeps_raise (keeps_updCrest h))))]))) (by (try dsimp only); split; exacts [(keeps_abandonLater (keeps_abandonStep (keeps_abandonStep (keeps_raise (keeps_updCrest h))))), (keeps_abandonStep (keeps_abandonStep (keeps_raise (keeps_updCrest h))))])))

theorem keeps_engineX {s0 s : State} {e : Sys2Proof.EngRef} {cause : ℕ} {addr : Sys2Proof.Word} {trap : BitVec 5} {d : Option Sys2Proof.Machine.StepDesc} {elapsed : BitVec 16} (h : Keeps s0 s) : Keeps s0 (engineX e cause addr trap d elapsed s) := by
  unfold engineX; exact (keeps_ite (keeps_retireByFault (keeps_abandonStep (keeps_ite (keeps_raise (keeps_raise (keeps_bump (keeps_updEngine h)))) (keeps_raise (keeps_bump (keeps_updEngine h)))))) (keeps_abandonStep (keeps_ite (keeps_raise (keeps_raise (keeps_bump (keeps_updEngine h)))) (keeps_raise (keeps_bump (keeps_updEngine h))))))

theorem keeps_instrX {s0 s : State} {e : Sys2Proof.EngRef} {cause : ℕ} {addr : Sys2Proof.Word} {trap : BitVec 5} (h : Keeps s0 s) : Keeps s0 (instrX e cause addr trap s) := by
  unfold instrX; exact (keeps_engineX h)

theorem keeps_finish {s0 s : State} {e : Sys2Proof.EngRef} {f : Sys2Proof.Machine.Eff} (h : Keeps s0 s) : Keeps s0 (finish e f s) := by
  unfold finish; exact (by (try dsimp only); split; exacts [(keeps_bump (keeps_updEngine h)), (keeps_bump (keeps_updEngine h)), (keeps_bump (keeps_updEngine h)), (keeps_bump (keeps_updEngine h)), (keeps_bump (keeps_bump (keeps_updEngine h))), (keeps_instrX h)])

theorem keeps_runWord {s0 s : State} {e : Sys2Proof.EngRef} {w : Sys2Proof.Word} {body : Sys2Proof.Machine.State → Sys2Proof.Machine.Engine → Sys2Proof.Machine.Eff} (h : Keeps s0 s) : Keeps s0 (runWord e w body s) := by
  unfold runWord; exact (keeps_ite h (by (try dsimp only); split; exacts [(keeps_instrX h), (keeps_ite h (keeps_ite (keeps_instrX h) (keeps_finish h)))]))

theorem keeps_runAlu {s0 s : State} {e : Sys2Proof.EngRef} {w : Sys2Proof.Word} {f : Sys2Proof.Machine.Engine → Sys2Proof.Machine.Engine} (h : Keeps s0 s) : Keeps s0 (runAlu e w f s) := by
  unfold runAlu; exact (keeps_runWord h)

theorem keeps_execAdd {s0 s t : State} {e : Sys2Proof.EngRef} {rd : Sys2Proof.Reg} {ra : Sys2Proof.Reg} {rb : Sys2Proof.Reg} (h : Keeps s0 s) (e : execAdd e rd ra rb s = .next t) : Keeps s0 t := by
  cases e; exact (keeps_runAlu h)

theorem keeps_execSub {s0 s t : State} {e : Sys2Proof.EngRef} {rd : Sys2Proof.Reg} {ra : Sys2Proof.Reg} {rb : Sys2Proof.Reg} (h : Keeps s0 s) (e : execSub e rd ra rb s = .next t) : Keeps s0 t := by
  cases e; exact (keeps_runAlu h)

theorem keeps_execAnd {s0 s t : State} {e : Sys2Proof.EngRef} {rd : Sys2Proof.Reg} {ra : Sys2Proof.Reg} {rb : Sys2Proof.Reg} (h : Keeps s0 s) (e : execAnd e rd ra rb s = .next t) : Keeps s0 t := by
  cases e; exact (keeps_runAlu h)

theorem keeps_execOr {s0 s t : State} {e : Sys2Proof.EngRef} {rd : Sys2Proof.Reg} {ra : Sys2Proof.Reg} {rb : Sys2Proof.Reg} (h : Keeps s0 s) (e : execOr e rd ra rb s = .next t) : Keeps s0 t := by
  cases e; exact (keeps_runAlu h)

theorem keeps_execXor {s0 s t : State} {e : Sys2Proof.EngRef} {rd : Sys2Proof.Reg} {ra : Sys2Proof.Reg} {rb : Sys2Proof.Reg} (h : Keeps s0 s) (e : execXor e rd ra rb s = .next t) : Keeps s0 t := by
  cases e; exact (keeps_runAlu h)

theorem keeps_execShl {s0 s t : State} {e : Sys2Proof.EngRef} {rd : Sys2Proof.Reg} {ra : Sys2Proof.Reg} {rb : Sys2Proof.Reg} (h : Keeps s0 s) (e : execShl e rd ra rb s = .next t) : Keeps s0 t := by
  cases e; exact (keeps_runAlu h)

theorem keeps_execShr {s0 s t : State} {e : Sys2Proof.EngRef} {rd : Sys2Proof.Reg} {ra : Sys2Proof.Reg} {rb : Sys2Proof.Reg} (h : Keeps s0 s) (e : execShr e rd ra rb s = .next t) : Keeps s0 t := by
  cases e; exact (keeps_runAlu h)

theorem keeps_execSar {s0 s t : State} {e : Sys2Proof.EngRef} {rd : Sys2Proof.Reg} {ra : Sys2Proof.Reg} {rb : Sys2Proof.Reg} (h : Keeps s0 s) (e : execSar e rd ra rb s = .next t) : Keeps s0 t := by
  cases e; exact (keeps_runAlu h)

theorem keeps_execSlt {s0 s t : State} {e : Sys2Proof.EngRef} {rd : Sys2Proof.Reg} {ra : Sys2Proof.Reg} {rb : Sys2Proof.Reg} (h : Keeps s0 s) (e : execSlt e rd ra rb s = .next t) : Keeps s0 t := by
  cases e; exact (keeps_runAlu h)

theorem keeps_execSltu {s0 s t : State} {e : Sys2Proof.EngRef} {rd : Sys2Proof.Reg} {ra : Sys2Proof.Reg} {rb : Sys2Proof.Reg} (h : Keeps s0 s) (e : execSltu e rd ra rb s = .next t) : Keeps s0 t := by
  cases e; exact (keeps_runAlu h)

theorem keeps_execMin {s0 s t : State} {e : Sys2Proof.EngRef} {rd : Sys2Proof.Reg} {ra : Sys2Proof.Reg} {rb : Sys2Proof.Reg} (h : Keeps s0 s) (e : execMin e rd ra rb s = .next t) : Keeps s0 t := by
  cases e; exact (keeps_runAlu h)

theorem keeps_execMax {s0 s t : State} {e : Sys2Proof.EngRef} {rd : Sys2Proof.Reg} {ra : Sys2Proof.Reg} {rb : Sys2Proof.Reg} (h : Keeps s0 s) (e : execMax e rd ra rb s = .next t) : Keeps s0 t := by
  cases e; exact (keeps_runAlu h)

theorem keeps_execAbs {s0 s t : State} {e : Sys2Proof.EngRef} {rd : Sys2Proof.Reg} {ra : Sys2Proof.Reg} (h : Keeps s0 s) (e : execAbs e rd ra s = .next t) : Keeps s0 t := by
  cases e; exact (keeps_runAlu h)

theorem keeps_execMul {s0 s t : State} {e : Sys2Proof.EngRef} {rd : Sys2Proof.Reg} {ra : Sys2Proof.Reg} {rb : Sys2Proof.Reg} (h : Keeps s0 s) (e : execMul e rd ra rb s = .next t) : Keeps s0 t := by
  cases e; exact (keeps_runAlu h)

theorem keeps_execMulh {s0 s t : State} {e : Sys2Proof.EngRef} {rd : Sys2Proof.Reg} {ra : Sys2Proof.Reg} {rb : Sys2Proof.Reg} (h : Keeps s0 s) (e : execMulh e rd ra rb s = .next t) : Keeps s0 t := by
  cases e; exact (keeps_runAlu h)

theorem keeps_execDiv {s0 s t : State} {e : Sys2Proof.EngRef} {rd : Sys2Proof.Reg} {ra : Sys2Proof.Reg} {rb : Sys2Proof.Reg} (h : Keeps s0 s) (e : execDiv e rd ra rb s = .next t) : Keeps s0 t := by
  cases e; exact (keeps_runAlu h)

theorem keeps_execDivu {s0 s t : State} {e : Sys2Proof.EngRef} {rd : Sys2Proof.Reg} {ra : Sys2Proof.Reg} {rb : Sys2Proof.Reg} (h : Keeps s0 s) (e : execDivu e rd ra rb s = .next t) : Keeps s0 t := by
  cases e; exact (keeps_runAlu h)

theorem keeps_execRem {s0 s t : State} {e : Sys2Proof.EngRef} {rd : Sys2Proof.Reg} {ra : Sys2Proof.Reg} {rb : Sys2Proof.Reg} (h : Keeps s0 s) (e : execRem e rd ra rb s = .next t) : Keeps s0 t := by
  cases e; exact (keeps_runAlu h)

theorem keeps_execMac {s0 s t : State} {e : Sys2Proof.EngRef} {ra : Sys2Proof.Reg} {rb : Sys2Proof.Reg} (h : Keeps s0 s) (e : execMac e ra rb s = .next t) : Keeps s0 t := by
  cases e; exact (keeps_runAlu h)

theorem keeps_execMsu {s0 s t : State} {e : Sys2Proof.EngRef} {ra : Sys2Proof.Reg} {rb : Sys2Proof.Reg} (h : Keeps s0 s) (e : execMsu e ra rb s = .next t) : Keeps s0 t := by
  cases e; exact (keeps_runAlu h)

theorem keeps_execAccset {s0 s t : State} {e : Sys2Proof.EngRef} {ra : Sys2Proof.Reg} {rb : Sys2Proof.Reg} (h : Keeps s0 s) (e : execAccset e ra rb s = .next t) : Keeps s0 t := by
  cases e; exact (keeps_runAlu h)

theorem keeps_execAcclo {s0 s t : State} {e : Sys2Proof.EngRef} {rd : Sys2Proof.Reg} (h : Keeps s0 s) (e : execAcclo e rd s = .next t) : Keeps s0 t := by
  cases e; exact (keeps_runAlu h)

theorem keeps_execAcchi {s0 s t : State} {e : Sys2Proof.EngRef} {rd : Sys2Proof.Reg} (h : Keeps s0 s) (e : execAcchi e rd s = .next t) : Keeps s0 t := by
  cases e; exact (keeps_runAlu h)

theorem keeps_execAccsh {s0 s t : State} {e : Sys2Proof.EngRef} {rd : Sys2Proof.Reg} {rb : Sys2Proof.Reg} (h : Keeps s0 s) (e : execAccsh e rd rb s = .next t) : Keeps s0 t := by
  cases e; exact (keeps_runAlu h)

theorem keeps_execNop {s0 s t : State} {e : Sys2Proof.EngRef} (h : Keeps s0 s) (e : execNop e s = .next t) : Keeps s0 t := by
  cases e; exact (keeps_runAlu h)

theorem keeps_execModer {s0 s t : State} {e : Sys2Proof.EngRef} {rd : Sys2Proof.Reg} (h : Keeps s0 s) (e : execModer e rd s = .next t) : Keeps s0 t := by
  cases e; exact (keeps_runAlu h)

theorem keeps_execFlagr {s0 s t : State} {e : Sys2Proof.EngRef} {rd : Sys2Proof.Reg} (h : Keeps s0 s) (e : execFlagr e rd s = .next t) : Keeps s0 t := by
  cases e; exact (keeps_runAlu h)

theorem keeps_execFlagc {s0 s t : State} {e : Sys2Proof.EngRef} {ra : Sys2Proof.Reg} (h : Keeps s0 s) (e : execFlagc e ra s = .next t) : Keeps s0 t := by
  cases e; exact (keeps_runAlu h)

theorem keeps_execModew {s0 s t : State} {e : Sys2Proof.EngRef} {ra : Sys2Proof.Reg} (h : Keeps s0 s) (e : execModew e ra s = .next t) : Keeps s0 t := by
  cases e; exact (keeps_runWord h)

theorem keeps_execSysr {s0 s t : State} {e : Sys2Proof.EngRef} {rd : Sys2Proof.Reg} {num : BitVec 5} (h : Keeps s0 s) (e : execSysr e rd num s = .next t) : Keeps s0 t := by
  cases e; exact (keeps_runWord h)

theorem keeps_execAddi {s0 s t : State} {e : Sys2Proof.EngRef} {rd : Sys2Proof.Reg} {ra : Sys2Proof.Reg} {imm : BitVec 16} (h : Keeps s0 s) (e : execAddi e rd ra imm s = .next t) : Keeps s0 t := by
  cases e; exact (keeps_runAlu h)

theorem keeps_execAndi {s0 s t : State} {e : Sys2Proof.EngRef} {rd : Sys2Proof.Reg} {ra : Sys2Proof.Reg} {imm : BitVec 16} (h : Keeps s0 s) (e : execAndi e rd ra imm s = .next t) : Keeps s0 t := by
  cases e; exact (keeps_runAlu h)

theorem keeps_execOri {s0 s t : State} {e : Sys2Proof.EngRef} {rd : Sys2Proof.Reg} {ra : Sys2Proof.Reg} {imm : BitVec 16} (h : Keeps s0 s) (e : execOri e rd ra imm s = .next t) : Keeps s0 t := by
  cases e; exact (keeps_runAlu h)

theorem keeps_execXori {s0 s t : State} {e : Sys2Proof.EngRef} {rd : Sys2Proof.Reg} {ra : Sys2Proof.Reg} {imm : BitVec 16} (h : Keeps s0 s) (e : execXori e rd ra imm s = .next t) : Keeps s0 t := by
  cases e; exact (keeps_runAlu h)

theorem keeps_execSlti {s0 s t : State} {e : Sys2Proof.EngRef} {rd : Sys2Proof.Reg} {ra : Sys2Proof.Reg} {imm : BitVec 16} (h : Keeps s0 s) (e : execSlti e rd ra imm s = .next t) : Keeps s0 t := by
  cases e; exact (keeps_runAlu h)

theorem keeps_execLui {s0 s t : State} {e : Sys2Proof.EngRef} {rd : Sys2Proof.Reg} {imm : BitVec 16} (h : Keeps s0 s) (e : execLui e rd imm s = .next t) : Keeps s0 t := by
  cases e; exact (keeps_runAlu h)

theorem keeps_execShli {s0 s t : State} {e : Sys2Proof.EngRef} {rd : Sys2Proof.Reg} {ra : Sys2Proof.Reg} {sh : BitVec 5} (h : Keeps s0 s) (e : execShli e rd ra sh s = .next t) : Keeps s0 t := by
  cases e; exact (keeps_runAlu h)

theorem keeps_execShri {s0 s t : State} {e : Sys2Proof.EngRef} {rd : Sys2Proof.Reg} {ra : Sys2Proof.Reg} {sh : BitVec 5} (h : Keeps s0 s) (e : execShri e rd ra sh s = .next t) : Keeps s0 t := by
  cases e; exact (keeps_runAlu h)

theorem keeps_execSari {s0 s t : State} {e : Sys2Proof.EngRef} {rd : Sys2Proof.Reg} {ra : Sys2Proof.Reg} {sh : BitVec 5} (h : Keeps s0 s) (e : execSari e rd ra sh s = .next t) : Keeps s0 t := by
  cases e; exact (keeps_runAlu h)

theorem keeps_engineFault {s0 s : State} {e : Sys2Proof.EngRef} {cause : ℕ} (h : Keeps s0 s) : Keeps s0 (engineFault e cause s) := by
  unfold engineFault; exact (keeps_ite (keeps_engineX h) h)

theorem keeps_execEngineStall {s0 s t : State} {e : Sys2Proof.EngRef} (h : Keeps s0 s) (e : execEngineStall e s = .next t) : Keeps s0 t := by
  cases e; exact (keeps_engineFault h)

theorem keeps_execCtxEcc {s0 s t : State} {e : Sys2Proof.EngRef} (h : Keeps s0 s) (e : execCtxEcc e s = .next t) : Keeps s0 t := by
  cases e; exact (keeps_engineFault h)

theorem keeps_retireCmd {s0 s : State} {c : Fin 6} {eng : BitVec 5} (h : Keeps s0 s) : Keeps s0 (retireCmd c eng s) := by
  unfold retireCmd; exact (keeps_dite (fun _ => (keeps_ite h (keeps_ite (keeps_updCrest h) (keeps_updCrest h)))) (fun _ => (keeps_updCrest h)))

theorem keeps_execEngRetire {s0 s t : State} {q : Sys2Proof.Req} {c : Fin 6} {eng : BitVec 5} (h : Keeps s0 s) (e : execEngRetire q c eng s = .next t) : Keeps s0 t := by
  cases e; exact (keeps_onPage (fun _ h1 => (keeps_retireCmd h1)) h)

theorem keeps_execEngEccClrCorr {s0 s t : State} {q : Sys2Proof.Req} {c : Fin 6} (h : Keeps s0 s) (e : execEngEccClrCorr q c s = .next t) : Keeps s0 t := by
  cases e; exact (keeps_onPage (fun _ h1 => (keeps_updCrest h1)) h)

theorem keeps_execEngEccClrUnc {s0 s t : State} {q : Sys2Proof.Req} {c : Fin 6} (h : Keeps s0 s) (e : execEngEccClrUnc q c s = .next t) : Keeps s0 t := by
  cases e; exact (keeps_onPage (fun _ h1 => (keeps_updCrest h1)) h)

theorem keeps_quietTest {s0 s : State} {c : Fin 6} {pass : Bool} (h : Keeps s0 s) : Keeps s0 (quietTest c pass s) := by
  unfold quietTest; exact (keeps_ite h (by (try dsimp only); split; exacts [h, (keeps_ite (keeps_updCrest h) (keeps_engineFault (keeps_updCrest h)))]))

theorem keeps_execStewardQuietTest {s0 s t : State} {c : Fin 6} {pass : Bool} (h : Keeps s0 s) (e : execStewardQuietTest c pass s = .next t) : Keeps s0 t := by
  cases e; exact (keeps_quietTest h)

theorem keeps_execSpareTest {s0 s t : State} {c : Fin 6} {eng : Fin 18} {pass : Bool} (h : Keeps s0 s) (e : execSpareTest c eng pass s = .next t) : Keeps s0 t := by
  cases e; exact (keeps_ite h (keeps_engineFault h))

theorem keeps_pmbusFail {s0 s : State} (h : Keeps s0 s) : Keeps s0 (pmbusFail s) := by
  unfold pmbusFail; exact (keeps_ite h (keeps_raise (keeps_mk h)))

theorem keeps_writeVout {s0 s : State} {mv : BitVec 10} {ack : Bool} (h : Keeps s0 s) : Keeps s0 (writeVout mv ack s) := by
  unfold writeVout; exact (keeps_ite h (keeps_ite (keeps_pmbusFail h) (keeps_send (keeps_mk h))))

theorem keeps_commandVcore {s0 s : State} {mv : BitVec 10} {ack : Bool} (h : Keeps s0 s) : Keeps s0 (commandVcore mv ack s) := by
  unfold commandVcore; exact (keeps_ite (keeps_writeVout h) (keeps_raise (keeps_writeVout h)))

theorem keeps_adaptVcore {s0 s : State} {ack : Bool} (h : Keeps s0 s) : Keeps s0 (adaptVcore ack s) := by
  unfold adaptVcore; exact (keeps_ite h (keeps_ite (keeps_ite (keeps_commandVcore (keeps_mk h)) (keeps_mk (keeps_commandVcore (keeps_mk h)))) (keeps_ite (keeps_ite (keeps_commandVcore (keeps_mk h)) (keeps_mk (keeps_commandVcore (keeps_mk h)))) (keeps_mk h))))

theorem keeps_tileMeasured {s0 s : State} {c : Fin 6} {r : Sys2Proof.Vec (BitVec 12) 8} (h : Keeps s0 s) : Keeps s0 (tileMeasured c r s) := by
  unfold tileMeasured; exact (keeps_ite h (keeps_ite (keeps_failSelfTest (keeps_noteConds (keeps_ite (keeps_urgent (keeps_updCrest h)) (keeps_updCrest h)))) (keeps_noteConds (keeps_ite (keeps_urgent (keeps_updCrest h)) (keeps_updCrest h)))))

theorem keeps_speedMeasured {s0 s : State} {c : Fin 6} {r : Sys2Proof.Vec (BitVec 12) 8} {ack : Bool} (h : Keeps s0 s) : Keeps s0 (speedMeasured c r ack s) := by
  unfold speedMeasured; exact (keeps_ite (keeps_adaptVcore (keeps_tileMeasured h)) (keeps_tileMeasured h))

theorem keeps_execSpeedMeasureEnd {s0 s t : State} {c : Fin 6} {readings : Sys2Proof.Vec (BitVec 12) 8} {ack : Bool} (h : Keeps s0 s) (e : execSpeedMeasureEnd c readings ack s = .next t) : Keeps s0 t := by
  cases e; exact (keeps_speedMeasured h)

theorem keeps_countCorrected {s0 s : State} {c : Fin 6} (h : Keeps s0 s) : Keeps s0 (countCorrected c s) := by
  unfold countCorrected; exact (keeps_ite (keeps_raise (keeps_bump (keeps_updCrest h))) (keeps_bump (keeps_updCrest h)))

theorem keeps_countUncorrectable {s0 s : State} {c : Fin 6} {a : ℕ} (h : Keeps s0 s) : Keeps s0 (countUncorrectable c a s) := by
  unfold countUncorrectable; exact (keeps_raiseUrgent (keeps_updCrest h))

theorem keeps_upset {s0 s : State} {u : Sys2Proof.Upset} (h : Keeps s0 s) : Keeps s0 (upset s u) := by
  unfold upset; exact (keeps_ite (by (try dsimp only); split; exacts [(keeps_updCrest h), h]) (by (try dsimp only); split; exacts [(keeps_updCrest h), h]))

theorem keeps_correctWord {s0 s : State} {x : Fin 6 × ℕ} (h : Keeps s0 s) : Keeps s0 (correctWord s x) := by
  unfold correctWord; exact (keeps_countCorrected (keeps_updCrest h))

theorem keeps_correctIn {s0 s : State} {a : ℕ} {n : ℕ} (h : Keeps s0 s) : Keeps s0 (correctIn a n s) := by
  unfold correctIn; exact (keeps_foldl (fun _ _ h1 => (keeps_correctWord h1)) h)

theorem keeps_countBad {s0 s : State} {a : ℕ} {n : ℕ} (h : Keeps s0 s) : Keeps s0 (countBad a n s) := by
  unfold countBad; exact (keeps_foldl (fun _ _ h1 => (keeps_countUncorrectable h1)) h)

theorem keeps_foundBad {s0 s : State} {bs : List (Fin 6 × ℕ)} (h : Keeps s0 s) : Keeps s0 (foundBad bs s) := by
  unfold foundBad; exact (keeps_foldl (fun _ _ h1 => (keeps_updCrest (keeps_countUncorrectable h1))) h)

theorem keeps_scanPool {s0 s : State} {a : ℕ} {n : ℕ} (h : Keeps s0 s) : Keeps s0 (scanPool a n s) := by
  unfold scanPool; exact (keeps_foundBad (keeps_correctIn h))

theorem keeps_poolPut {s0 s : State} {a : ℕ} {d : List Sys2Proof.Byte} (h : Keeps s0 s) : Keeps s0 (poolPut a d s) := by
  unfold poolPut; exact (keeps_mkPool h (fun w => (memWf_write _ _ w)))

theorem keeps_correctLoop {s0 s : State} {c : Fin 6} {off : ℕ} {n : ℕ} (h : Keeps s0 s) : Keeps s0 (correctLoop c off n s) := by
  unfold correctLoop; exact (keeps_updCrest h)

theorem keeps_scanSpan {s0 s : State} {a : Sys2Proof.Word} {n : ℕ} (h : Keeps s0 s) : Keeps s0 (scanSpan a n s) := by
  unfold scanSpan; exact (keeps_foundBad (keeps_ite (keeps_correctIn h) (keeps_elim h (fun _ => (keeps_correctLoop h)))))

theorem keeps_loopWritten {s0 s : State} {c : Fin 6} {off : ℕ} {n : ℕ} (h : Keeps s0 s) : Keeps s0 (loopWritten c off n s) := by
  unfold loopWritten; exact (keeps_updCrest h)

theorem keeps_loopPut {s0 s : State} {c : Fin 6} {off : ℕ} {d : List Sys2Proof.Byte} (h : Keeps s0 s) : Keeps s0 (loopPut c off d s) := by
  unfold loopPut; exact (keeps_loopWritten (keeps_updLoop h))

theorem keeps_scrubFinds {s0 s : State} {addr : Sys2Proof.Word} {found : Sys2Proof.EccFinding} (h : Keeps s0 s) : Keeps s0 (scrubFinds addr found s) := by
  unfold scrubFinds; exact (by (try dsimp only); split; exacts [h, (keeps_ite (keeps_upset h) h), (keeps_upset h)])

theorem keeps_scrub {s0 s : State} {addr : Sys2Proof.Word} {found : Sys2Proof.EccFinding} (h : Keeps s0 s) : Keeps s0 (scrub addr found s) := by
  unfold scrub; exact (by (try dsimp only); split; exacts [h, (keeps_ite h (keeps_ite (keeps_correctIn (keeps_scrubFinds h)) (keeps_ite (keeps_foundBad (keeps_correctIn (keeps_scrubFinds h))) (keeps_poolPut (keeps_countBad (keeps_correctIn (keeps_scrubFinds h)))))))])

theorem keeps_execScrubWord {s0 s t : State} {addr : Sys2Proof.Word} {found : Sys2Proof.EccFinding} (h : Keeps s0 s) (e : execScrubWord addr found s = .next t) : Keeps s0 t := by
  cases e; exact (keeps_scrub h)

theorem keeps_updTb {s0 s : State} {f : Sys2Proof.Machine.Timebase → Sys2Proof.Machine.Timebase} (h : Keeps s0 s) : Keeps s0 (updTb f s) := by
  unfold updTb; exact (keeps_mk h)

theorem keeps_markSecond {s0 s : State} {n : Fin 2} (h : Keeps s0 s) : Keeps s0 (markSecond n s) := by
  unfold markSecond; exact (keeps_updTb h)

theorem keeps_markLower {s0 s : State} (h : Keeps s0 s) : Keeps s0 (markLower s) := by
  unfold markLower; exact (keeps_foldl (fun _ _ h1 => (keeps_ite (keeps_markSecond h1) h1)) h)

theorem keeps_commitOffset {s0 s : State} (h : Keeps s0 s) : Keeps s0 (commitOffset s) := by
  unfold commitOffset; exact (by (try dsimp only); split; exacts [h, (keeps_ite (keeps_markLower (keeps_raise (keeps_updTb h))) (keeps_updTb h))])

theorem keeps_countSelected {s0 s : State} {n : ℕ} (h : Keeps s0 s) : Keeps s0 (countSelected n s) := by
  unfold countSelected; exact (keeps_ite h (keeps_mk h))

theorem keeps_countOn {s0 s : State} {n : ℕ} (h : Keeps s0 s) : Keeps s0 (countOn n s) := by
  unfold countOn; exact (keeps_countSelected (keeps_updTb h))

theorem keeps_runTicks {s0 s : State} {n : ℕ} (h : Keeps s0 s) : Keeps s0 (runTicks n s) := by
  unfold runTicks; exact (keeps_ite h (keeps_countOn (keeps_commitOffset (keeps_countOn (keeps_updTb h)))))

theorem keeps_fireShot {s0 s : State} (h : Keeps s0 s) : Keeps s0 (fireShot s) := by
  unfold fireShot; exact (by (try dsimp only); split; exacts [h, (keeps_raise (keeps_updTb h))])

theorem keeps_passTicks {s0 s : State} {n : ℕ} (h : Keeps s0 s) : Keeps s0 (passTicks n s) := by
  unfold passTicks; exact (by (try dsimp only); split; exacts [(keeps_runTicks h), (keeps_ite (keeps_runTicks (keeps_fireShot (keeps_runTicks h))) (keeps_runTicks h))])

theorem keeps_reach {s0 s : State} {t : ℕ} (h : Keeps s0 s) : Keeps s0 (reach t s) := by
  unfold reach; exact (keeps_passTicks h)

theorem keeps_reachNative {s0 s : State} {t : ℕ} (h : Keeps s0 s) : Keeps s0 (reachNative t s) := by
  unfold reachNative; exact (keeps_passTicks h)

theorem keeps_reachLocal {s0 s : State} {t : ℕ} (h : Keeps s0 s) : Keeps s0 (reachLocal t s) := by
  unfold reachLocal; exact (keeps_passTicks h)

theorem keeps_tbCode {s0 s : State} {c : Sys2Proof.Byte} (h : Keeps s0 s) : Keeps s0 (tbCode c s) := by
  unfold tbCode; exact (keeps_updTb h)

theorem keeps_writeIncrLo {s0 s : State} {w : Sys2Proof.Requester} {v : Sys2Proof.Word} (h : Keeps s0 s) : Keeps s0 (writeIncrLo w v s) := by
  unfold writeIncrLo; exact (keeps_tbCode (keeps_holdLow h))

theorem keeps_writeIncrHi {s0 s : State} {who : Sys2Proof.Requester} {v : Sys2Proof.Word} (h : Keeps s0 s) : Keeps s0 (writeIncrHi who v s) := by
  unfold writeIncrHi; exact (by (try dsimp only [commit64]); exact (keeps_ite (keeps_tbCode (keeps_updTb (keeps_mk h))) (keeps_tbCode (keeps_mk h))))

theorem keeps_writeOffsetHi {s0 s : State} {w : Sys2Proof.Requester} {v : Sys2Proof.Word} (h : Keeps s0 s) : Keeps s0 (writeOffsetHi w v s) := by
  unfold writeOffsetHi; exact (by (try dsimp only [commit64]); exact (keeps_ite (keeps_tbCode (keeps_mk h)) (keeps_tbCode (keeps_updTb (keeps_mk h)))))

theorem keeps_readNow {s0 s : State} {w : Sys2Proof.Requester} (h : Keeps s0 s) : Keeps s0 (readNow w s) := by
  unfold readNow; exact (keeps_answer (keeps_latchPut (keeps_latchPut (keeps_latchPut (keeps_latchPut (keeps_latchPut h))))))

theorem keeps_readGcnt {s0 s : State} {w : Sys2Proof.Requester} (h : Keeps s0 s) : Keeps s0 (readGcnt w s) := by
  unfold readGcnt; exact (keeps_answer (keeps_latchPut h))

theorem keeps_cmdStep {s0 s : State} (h : Keeps s0 s) : Keeps s0 (cmdStep s) := by
  unfold cmdStep; exact (keeps_ite (keeps_tbCode h) (keeps_ite (keeps_tbCode h) (keeps_ite (keeps_tbCode h) (keeps_tbCode (keeps_updTb h)))))

theorem keeps_applyStep {s0 s : State} (h : Keeps s0 s) : Keeps s0 (applyStep s) := by
  unfold applyStep; exact (by (try dsimp only); split; exacts [h, (keeps_ite (keeps_fireShot (keeps_updField (keeps_updTb (keeps_raise h)))) (keeps_updField (keeps_updTb (keeps_raise h))))])

theorem keeps_stepNow {s0 s : State} (h : Keeps s0 s) : Keeps s0 (stepNow s) := by
  unfold stepNow; exact (keeps_ite h (keeps_applyStep h))

theorem keeps_shotInstant {s0 s : State} (h : Keeps s0 s) : Keeps s0 (shotInstant s) := by
  unfold shotInstant; exact (by (try dsimp only); split; exacts [h, (keeps_ite (keeps_fireShot (keeps_reachNative h)) (keeps_reachNative h))])

theorem keeps_cmdGulny {s0 s : State} (h : Keeps s0 s) : Keeps s0 (cmdGulny s) := by
  unfold cmdGulny; exact (keeps_ite (keeps_tbCode h) (keeps_tbCode (keeps_updTb h)))

theorem keeps_cmdShot {s0 s : State} {o : Fin 2} (h : Keeps s0 s) : Keeps s0 (cmdShot o s) := by
  unfold cmdShot; exact (keeps_ite (keeps_tbCode h) (keeps_ite (keeps_tbCode h) (keeps_ite (keeps_tbCode h) (keeps_tbCode (keeps_updTb h)))))

theorem keeps_ppsCapture {s0 s : State} {n : Fin 2} {falling : Bool} {short : Bool} (h : Keeps s0 s) : Keeps s0 (ppsCapture n falling short s) := by
  unfold ppsCapture; exact (keeps_ite (keeps_raise (keeps_bump (keeps_updTb h))) h)

theorem keeps_ppsEdge {s0 s : State} {n : Fin 2} (h : Keeps s0 s) : Keeps s0 (ppsEdge n s) := by
  unfold ppsEdge; exact (keeps_ite h (keeps_ite (keeps_updTb (keeps_markSecond (keeps_passTicks h))) (keeps_markSecond (keeps_passTicks h))))

theorem keeps_ppsFall {s0 s : State} {n : Fin 2} (h : Keeps s0 s) : Keeps s0 (ppsFall n s) := by
  unfold ppsFall; exact (keeps_ite h (keeps_updTb (keeps_passTicks h)))

theorem keeps_writePpsOut {s0 s : State} {v : Sys2Proof.Word} (h : Keeps s0 s) : Keeps s0 (writePpsOut v s) := by
  unfold writePpsOut; exact (keeps_foldl (fun _ _ h1 => (keeps_markSecond h1)) (keeps_updTb h))

theorem keeps_writeGcntIncr {s0 s : State} {v : Sys2Proof.Word} (h : Keeps s0 s) : Keeps s0 (writeGcntIncr v s) := by
  unfold writeGcntIncr; exact (keeps_ite (keeps_tbCode (keeps_updTb h)) (keeps_tbCode h))

theorem keeps_execTbIncrLoWrite {s0 s t : State} {q : Sys2Proof.Req} {val : Sys2Proof.Word} (h : Keeps s0 s) (e : execTbIncrLoWrite q val s = .next t) : Keeps s0 t := by
  cases e; exact (keeps_onPage (fun _ h1 => (keeps_writeIncrLo h1)) h)

theorem keeps_execTbIncrHiWrite {s0 s t : State} {q : Sys2Proof.Req} {val : Sys2Proof.Word} (h : Keeps s0 s) (e : execTbIncrHiWrite q val s = .next t) : Keeps s0 t := by
  cases e; exact (keeps_onPage (fun _ h1 => (keeps_writeIncrHi h1)) h)

theorem keeps_execTbNowRead {s0 s t : State} {q : Sys2Proof.Req} (h : Keeps s0 s) (e : execTbNowRead q s = .next t) : Keeps s0 t := by
  cases e; exact (keeps_onPage (fun _ h1 => (keeps_readNow h1)) h)

theorem keeps_execTbOffsetHiWrite {s0 s t : State} {q : Sys2Proof.Req} {val : Sys2Proof.Word} (h : Keeps s0 s) (e : execTbOffsetHiWrite q val s = .next t) : Keeps s0 t := by
  cases e; exact (keeps_onPage (fun _ h1 => (keeps_writeOffsetHi h1)) h)

theorem keeps_execTbStep {s0 s t : State} {q : Sys2Proof.Req} (h : Keeps s0 s) (e : execTbStep q s = .next t) : Keeps s0 t := by
  cases e; exact (keeps_onPage (fun _ h1 => (keeps_cmdStep h1)) h)

theorem keeps_execTbStepApply {s0 s t : State} (h : Keeps s0 s) (e : execTbStepApply s = .next t) : Keeps s0 t := by
  cases e; exact (keeps_stepNow h)

theorem keeps_execGulnyLoad {s0 s t : State} {q : Sys2Proof.Req} (h : Keeps s0 s) (e : execGulnyLoad q s = .next t) : Keeps s0 t := by
  cases e; exact (keeps_onPage (fun _ h1 => (keeps_cmdGulny h1)) h)

theorem keeps_execOneshot {s0 s t : State} {q : Sys2Proof.Req} {out : Fin 2} (h : Keeps s0 s) (e : execOneshot q out s = .next t) : Keeps s0 t := by
  cases e; exact (keeps_onPage (fun _ h1 => (keeps_cmdShot h1)) h)

theorem keeps_execOneshotFire {s0 s t : State} (h : Keeps s0 s) (e : execOneshotFire s = .next t) : Keeps s0 t := by
  cases e; exact (keeps_shotInstant h)

theorem keeps_execTbGcntRead {s0 s t : State} {q : Sys2Proof.Req} (h : Keeps s0 s) (e : execTbGcntRead q s = .next t) : Keeps s0 t := by
  cases e; exact (keeps_onPage (fun _ h1 => (keeps_readGcnt h1)) h)

theorem keeps_execPpsInCapture {s0 s t : State} {n : Fin 2} {falling : Bool} {short : Bool} (h : Keeps s0 s) (e : execPpsInCapture n falling short s = .next t) : Keeps s0 t := by
  cases e; exact (keeps_ppsCapture h)

theorem keeps_execPpsOutEdge {s0 s t : State} {n : Fin 2} (h : Keeps s0 s) (e : execPpsOutEdge n s = .next t) : Keeps s0 t := by
  cases e; exact (keeps_ppsEdge h)

theorem keeps_execPpsOutPulseEnd {s0 s t : State} {n : Fin 2} (h : Keeps s0 s) (e : execPpsOutPulseEnd n s = .next t) : Keeps s0 t := by
  cases e; exact (keeps_ppsFall h)

theorem keeps_takeParams {s0 s : State} {c : Fin 6} {l : BitVec 10} {ws : List Sys2Proof.Word} (h : Keeps s0 s) : Keeps s0 (takeParams c l ws s) := by
  unfold takeParams; exact (keeps_loopWritten (keeps_updLoop h))

theorem keeps_writeDone {s0 s : State} {c : Fin 6} (h : Keeps s0 s) : Keeps s0 (writeDone c s) := by
  unfold writeDone; exact (keeps_raise (keeps_bump h))

theorem keeps_decideWrite {s0 s : State} {c : Fin 6} (h : Keeps s0 s) : Keeps s0 (decideWrite c s) := by
  unfold decideWrite; exact (by (try dsimp only); split; exacts [h, (keeps_writeDone (keeps_ite (keeps_takeParams (keeps_updLoop h)) (keeps_updLoop h)))])

theorem keeps_checkRecords {s0 s : State} {c : Fin 6} {ls : List (BitVec 10)} (h : Keeps s0 s) : Keeps s0 (checkRecords c ls s) := by
  unfold checkRecords; exact (keeps_foundBad (keeps_foldl (fun _ _ h1 => (keeps_correctLoop h1)) h))

theorem keeps_runLoopEntry {s0 s : State} {c : Fin 6} {l : BitVec 10} {again : Bool} (h : Keeps s0 s) : Keeps s0 (runLoopEntry c l again s) := by
  unfold runLoopEntry; exact (by (try dsimp only); split; exacts [h, (keeps_ite h (keeps_ite (keeps_checkRecords h) (keeps_foldl (fun _ _ h1 => (keeps_ite (keeps_raise (keeps_ite (keeps_raise (keeps_bump (keeps_updLoop h1))) (keeps_bump (keeps_updLoop h1)))) (keeps_ite (keeps_raise (keeps_bump (keeps_updLoop h1))) (keeps_bump (keeps_updLoop h1))))) (keeps_bump (keeps_bump (keeps_noteConds (keeps_updLoop (keeps_updLoop (keeps_ite (keeps_decideWrite (keeps_checkRecords h)) (keeps_checkRecords h))))))))))])

theorem keeps_cmdLpaWrite {s0 s : State} {q : Sys2Proof.Req} {c : Fin 6} (h : Keeps s0 s) : Keeps s0 (cmdLpaWrite q c s) := by
  unfold cmdLpaWrite; exact (keeps_ite (keeps_updLoop h) (keeps_ite (keeps_writeDone (keeps_updLoop h)) (keeps_ite (keeps_writeDone (keeps_updLoop h)) (keeps_updLoop h))))

theorem keeps_cmdLpaRead {s0 s : State} {c : Fin 6} (h : Keeps s0 s) : Keeps s0 (cmdLpaRead c s) := by
  unfold cmdLpaRead; exact (keeps_updLoop h)

theorem keeps_cmdTrcArm {s0 s : State} {c : Fin 6} (h : Keeps s0 s) : Keeps s0 (cmdTrcArm c s) := by
  unfold cmdTrcArm; exact (keeps_updLoop h)

theorem keeps_cmdTrcFire {s0 s : State} {c : Fin 6} (h : Keeps s0 s) : Keeps s0 (cmdTrcFire c s) := by
  unfold cmdTrcFire; exact (keeps_ite (keeps_raise (keeps_updLoop h)) h)

theorem keeps_cmdTrcDisable {s0 s : State} {c : Fin 6} (h : Keeps s0 s) : Keeps s0 (cmdTrcDisable c s) := by
  unfold cmdTrcDisable; exact (keeps_updLoop h)

theorem keeps_execLpaWrite {s0 s t : State} {q : Sys2Proof.Req} {c : Fin 6} (h : Keeps s0 s) (e : execLpaWrite q c s = .next t) : Keeps s0 t := by
  cases e; exact (keeps_onPage (fun _ h1 => (keeps_cmdLpaWrite h1)) h)

theorem keeps_execLpaWriteDecide {s0 s t : State} {c : Fin 6} (h : Keeps s0 s) (e : execLpaWriteDecide c s = .next t) : Keeps s0 t := by
  cases e; exact (keeps_ite (keeps_decideWrite h) h)

theorem keeps_execLpaRead {s0 s t : State} {q : Sys2Proof.Req} {c : Fin 6} (h : Keeps s0 s) (e : execLpaRead q c s = .next t) : Keeps s0 t := by
  cases e; exact (keeps_onPage (fun _ h1 => (keeps_cmdLpaRead h1)) h)

theorem keeps_execTrcArm {s0 s t : State} {q : Sys2Proof.Req} {c : Fin 6} (h : Keeps s0 s) (e : execTrcArm q c s = .next t) : Keeps s0 t := by
  cases e; exact (keeps_onPage (fun _ h1 => (keeps_cmdTrcArm h1)) h)

theorem keeps_execTrcFire {s0 s t : State} {q : Sys2Proof.Req} {c : Fin 6} (h : Keeps s0 s) (e : execTrcFire q c s = .next t) : Keeps s0 t := by
  cases e; exact (keeps_onPage (fun _ h1 => (keeps_cmdTrcFire h1)) h)

theorem keeps_execTrcDisable {s0 s t : State} {q : Sys2Proof.Req} {c : Fin 6} (h : Keeps s0 s) (e : execTrcDisable q c s = .next t) : Keeps s0 t := by
  cases e; exact (keeps_onPage (fun _ h1 => (keeps_cmdTrcDisable h1)) h)

theorem keeps_writeBoot {s0 s : State} (h : Keeps s0 s) : Keeps s0 (writeBoot s) := by
  unfold writeBoot; exact (keeps_mk h)

theorem keeps_readBoot {s0 s : State} (h : Keeps s0 s) : Keeps s0 (readBoot s) := by
  unfold readBoot; exact (by (try dsimp only); split; exacts [(keeps_mk h), h])

theorem keeps_writeStoreRec {s0 s : State} (h : Keeps s0 s) : Keeps s0 (writeStoreRec s) := by
  unfold writeStoreRec; exact (keeps_mk h)

theorem keeps_readStoreRec {s0 s : State} (h : Keeps s0 s) : Keeps s0 (readStoreRec s) := by
  unfold readStoreRec; exact (by (try dsimp only); split; exacts [(keeps_mk h), h])

theorem keeps_updStore {s0 s : State} {f : Sys2Proof.Machine.SecStore → Sys2Proof.Machine.SecStore} (h : Keeps s0 s) : Keeps s0 (updStore f s) := by
  unfold updStore; exact (keeps_writeStoreRec (keeps_mk h))

theorem keeps_updOther {s0 s : State} {f : Sys2Proof.Machine.FwSlot → Sys2Proof.Machine.FwSlot} (h : Keeps s0 s) : Keeps s0 (updOther f s) := by
  unfold updOther; exact (keeps_mk h)

theorem keeps_updRunning {s0 s : State} {f : Sys2Proof.Machine.FwSlot → Sys2Proof.Machine.FwSlot} (h : Keeps s0 s) : Keeps s0 (updRunning f s) := by
  unfold updRunning; exact (keeps_mk h)

theorem keeps_updTrio {s0 s : State} {f : Sys2Proof.Machine.Trio → Sys2Proof.Machine.Trio} (h : Keeps s0 s) : Keeps s0 (updTrio f s) := by
  unfold updTrio; exact (keeps_mk h)

theorem keeps_updLine {s0 s : State} {p : Sys2Proof.TrioPort} {f : Sys2Proof.Machine.TrioLine → Sys2Proof.Machine.TrioLine} (h : Keeps s0 s) : Keeps s0 (updLine p f s) := by
  unfold updLine; exact (keeps_updTrio h)

theorem keeps_sendTrio {s0 s : State} {p : Sys2Proof.TrioPort} {f : Sys2Proof.Machine.TrioOut} {x : Sys2Proof.TrioPayload} (h : Keeps s0 s) : Keeps s0 (sendTrio p f x s) := by
  unfold sendTrio; exact (by (try dsimp only); split; exacts [h, (keeps_ite h (keeps_send (keeps_bump (keeps_updPort h))))])

theorem keeps_departs {s0 s : State} {p : Sys2Proof.TrioPort} {st : ℕ} {f : Sys2Proof.Machine.TrioOut} (h : Keeps s0 s) : Keeps s0 (departs p st f s) := by
  unfold departs; exact (keeps_sendTrio (keeps_updLine h))

theorem keeps_leaves {s0 s : State} {p : Sys2Proof.TrioPort} {st : ℕ} {f : Sys2Proof.Machine.TrioOut} (h : Keeps s0 s) : Keeps s0 (leaves p st f s) := by
  unfold leaves; exact (by (try dsimp only); split; exacts [(keeps_updLine h), (keeps_departs (keeps_updLine h))])

theorem keeps_drainPort {s0 s : State} {now : Nat} {p : TrioPort} {n : Nat} (h : Keeps s0 s) : Keeps s0 (drainPort now p n s) := by
  induction n generalizing s with
  | zero => exact h
  | succ n ih =>
    unfold drainPort
    split
    · exact h
    · refine keeps_ite h ?_
      split
      · exact ih (keeps_leaves h)
      · split
        · exact ih (keeps_leaves h)
        · exact h

theorem keeps_drainTrio {s0 s : State} (h : Keeps s0 s) : Keeps s0 (drainTrio s) := by
  unfold drainTrio; exact (keeps_drainPort (keeps_drainPort h))

theorem keeps_queueTrio {s0 s : State} {p : Sys2Proof.TrioPort} {type : Sys2Proof.Byte} {target : Sys2Proof.Byte} {offset : ℕ} {len : ℕ} {scheduled : Bool} {x : Sys2Proof.TrioPayload} (h : Keeps s0 s) : Keeps s0 (queueTrio p type target offset len scheduled x s) := by
  unfold queueTrio; exact (keeps_updLine h)

theorem keeps_queueBoth {s0 s : State} {type : Sys2Proof.Byte} {target : Sys2Proof.Byte} {offset : ℕ} {len : ℕ} {scheduled : Bool} {x : Sys2Proof.TrioPayload} (h : Keeps s0 s) : Keeps s0 (queueBoth type target offset len scheduled x s) := by
  unfold queueBoth; exact (keeps_queueTrio (keeps_queueTrio h))

theorem keeps_queueCopy {s0 s : State} {p : Sys2Proof.TrioPort} {m : Fin 3} {type : Sys2Proof.Byte} {addr : Sys2Proof.Word} {d : List Sys2Proof.Byte} (h : Keeps s0 s) : Keeps s0 (queueCopy p m type addr d s) := by
  unfold queueCopy; exact (keeps_foldl (fun _ _ h1 => (keeps_queueTrio h1)) h)

theorem keeps_forwardBytes {s0 s : State} {addr : Sys2Proof.Word} {d : List Sys2Proof.Byte} (h : Keeps s0 s) : Keeps s0 (forwardBytes addr d s) := by
  unfold forwardBytes; exact (by (try dsimp only); split; exacts [h, (keeps_dite (fun _ => (keeps_drainTrio (keeps_queueCopy h))) (fun _ => h))])

theorem keeps_forwardChanges {s0 s : State} {was : Sys2Proof.Machine.State} (h : Keeps s0 s) : Keeps s0 (forwardChanges was s) := by
  unfold forwardChanges; exact (keeps_ite h (keeps_foldl (fun _ _ h1 => (keeps_forwardBytes h1)) h))

theorem keeps_updSched {s0 s : State} {f : Sys2Proof.Machine.Sched → Sys2Proof.Machine.Sched} (h : Keeps s0 s) : Keeps s0 (updSched f s) := by
  unfold updSched; exact (keeps_mk h)

theorem keeps_updRun {s0 s : State} {f : Sys2Proof.Machine.RunCtl → Sys2Proof.Machine.RunCtl} (h : Keeps s0 s) : Keeps s0 (updRun f s) := by
  unfold updRun; exact (keeps_mk h)

theorem keeps_schedRefuse {s0 s : State} {c : Sys2Proof.Byte} (h : Keeps s0 s) : Keeps s0 (schedRefuse c s) := by
  unfold schedRefuse; exact (keeps_raise (keeps_updSched h))

theorem keeps_cmdSchLoad {s0 s : State} (h : Keeps s0 s) : Keeps s0 (cmdSchLoad s) := by
  unfold cmdSchLoad; exact (keeps_ite (keeps_schedRefuse h) (keeps_updSched h))

theorem keeps_endSchValidation {s0 s : State} (h : Keeps s0 s) : Keeps s0 (endSchValidation s) := by
  unfold endSchValidation; exact (keeps_ite h (by dsimp only; exact (keeps_raise (by (try dsimp only); split; exacts [(keeps_updSched (keeps_mk h)), (keeps_updSched (keeps_mk h))]))))

theorem keeps_cmdSchActivate {s0 s : State} {withApp : Bool} {trio : Bool} (h : Keeps s0 s) : Keeps s0 (cmdSchActivate withApp trio s) := by
  unfold cmdSchActivate; exact (keeps_ite (keeps_schedRefuse h) (keeps_ite (keeps_schedRefuse h) (by (try dsimp only); split; exacts [(keeps_schedRefuse h), (keeps_ite (keeps_schedRefuse h) (by (try dsimp only); split; exacts [(keeps_schedRefuse (keeps_updSched h)), (keeps_ite (keeps_schedRefuse h) (keeps_ite (keeps_updRun (keeps_updSched h)) (keeps_updSched h)))]))])))

theorem keeps_cmdSchCancel {s0 s : State} (h : Keeps s0 s) : Keeps s0 (cmdSchCancel s) := by
  unfold cmdSchCancel; exact (keeps_ite (keeps_schedRefuse h) (keeps_ite (keeps_schedRefuse h) (keeps_ite (keeps_updRun (keeps_updSched h)) (keeps_updSched h))))

theorem keeps_cmdSchDiscard {s0 s : State} (h : Keeps s0 s) : Keeps s0 (cmdSchDiscard s) := by
  unfold cmdSchDiscard; exact (keeps_ite (keeps_schedRefuse h) (keeps_updSched h))

theorem keeps_execSchLoad {s0 s t : State} {q : Sys2Proof.Req} (h : Keeps s0 s) (e : execSchLoad q s = .next t) : Keeps s0 t := by
  cases e; exact (keeps_onPage (fun _ h1 => (keeps_cmdSchLoad h1)) h)

theorem keeps_execSchValidationEnd {s0 s t : State} (h : Keeps s0 s) (e : execSchValidationEnd s = .next t) : Keeps s0 t := by
  cases e; exact (keeps_endSchValidation h)

theorem keeps_execSchActivate {s0 s t : State} {q : Sys2Proof.Req} {withApp : Bool} {trio : Bool} (h : Keeps s0 s) (e : execSchActivate q withApp trio s = .next t) : Keeps s0 t := by
  cases e; exact (keeps_onPage (fun _ h1 => (keeps_cmdSchActivate h1)) h)

theorem keeps_execSchCancel {s0 s t : State} {q : Sys2Proof.Req} (h : Keeps s0 s) (e : execSchCancel q s = .next t) : Keeps s0 t := by
  cases e; exact (keeps_onPage (fun _ h1 => (keeps_cmdSchCancel h1)) h)

theorem keeps_execSchDiscard {s0 s t : State} {q : Sys2Proof.Req} (h : Keeps s0 s) (e : execSchDiscard q s = .next t) : Keeps s0 t := by
  cases e; exact (keeps_onPage (fun _ h1 => (keeps_cmdSchDiscard h1)) h)

theorem keeps_appRefuseAt {s0 s : State} {c : Sys2Proof.Byte} {index : ℕ} (h : Keeps s0 s) : Keeps s0 (appRefuseAt c index s) := by
  unfold appRefuseAt; exact (keeps_raise (keeps_updRun h))

theorem keeps_appRefuse {s0 s : State} {c : Sys2Proof.Byte} (h : Keeps s0 s) : Keeps s0 (appRefuse c s) := by
  unfold appRefuse; exact (keeps_appRefuseAt h)

theorem keeps_cmdAppLoad {s0 s : State} (h : Keeps s0 s) : Keeps s0 (cmdAppLoad s) := by
  unfold cmdAppLoad; exact (keeps_ite (keeps_appRefuse h) (keeps_updRun h))

theorem keeps_copyCode {s0 s : State} {im : Sys2Proof.Machine.AppImage} (h : Keeps s0 s) : Keeps s0 (copyCode im s) := by
  unfold copyCode; exact (keeps_mkPool h (fun w => (memWf_foldl (fun _ _ w0 => (memWf_write _ _ w0)) w)))

theorem keeps_endAppValidation {s0 s : State} (h : Keeps s0 s) : Keeps s0 (endAppValidation s) := by
  unfold endAppValidation; exact (keeps_ite h (by dsimp only; exact (keeps_raise (by (try dsimp only); split; exacts [(keeps_forwardChanges (keeps_copyCode (keeps_updRun (keeps_mk h)))), (keeps_updRun (keeps_mk h)), (keeps_updRun (keeps_mk h))]))))

theorem keeps_writeInits {s0 s : State} {im : Sys2Proof.Machine.AppImage} (h : Keeps s0 s) : Keeps s0 (writeInits im s) := by
  unfold writeInits; exact (keeps_mkPool h (fun w => (memWf_foldl (fun _ _ w0 => (memWf_write _ _ w0)) w)))

theorem keeps_armApp {s0 s : State} {im : Sys2Proof.Machine.AppImage} {own : Bool} {trio : Bool} (h : Keeps s0 s) : Keeps s0 (armApp im own trio s) := by
  unfold armApp; exact (keeps_ite (keeps_updRun (keeps_mk (keeps_forwardChanges (keeps_writeInits (keeps_updRun h))))) (keeps_mk (keeps_forwardChanges (keeps_writeInits (keeps_updRun h)))))

theorem keeps_cmdAppActivate {s0 s : State} {trio : Bool} (h : Keeps s0 s) : Keeps s0 (cmdAppActivate trio s) := by
  unfold cmdAppActivate; exact (keeps_ite (keeps_appRefuse h) (keeps_ite (keeps_appRefuse h) (by (try dsimp only); split; exacts [(keeps_appRefuse h), (keeps_ite (keeps_appRefuse h) (by (try dsimp only); split; exacts [(keeps_appRefuseAt h), (keeps_armApp h)]))])))

theorem keeps_cmdAppArm {s0 s : State} (h : Keeps s0 s) : Keeps s0 (cmdAppArm s) := by
  unfold cmdAppArm; exact (keeps_ite (keeps_appRefuse h) (by (try dsimp only); split; exacts [(keeps_appRefuse h), (by (try dsimp only); split; exacts [(keeps_appRefuseAt h), (keeps_armApp h)])]))

theorem keeps_cmdAppCancel {s0 s : State} (h : Keeps s0 s) : Keeps s0 (cmdAppCancel s) := by
  unfold cmdAppCancel; exact (keeps_ite (keeps_appRefuse h) (keeps_ite (keeps_appRefuse h) (keeps_updRun h)))

theorem keeps_cmdAppDiscard {s0 s : State} (h : Keeps s0 s) : Keeps s0 (cmdAppDiscard s) := by
  unfold cmdAppDiscard; exact (keeps_ite (keeps_appRefuse h) (keeps_updRun h))

theorem keeps_decideBanks {s0 s : State} (h : Keeps s0 s) : Keeps s0 (decideBanks s) := by
  unfold decideBanks; exact (keeps_ite h (keeps_ite (keeps_cancelSched (keeps_ite (keeps_cancelApp (keeps_ite (keeps_mk (keeps_updRun h)) (keeps_updRun h))) (keeps_ite (keeps_mk (keeps_updRun h)) (keeps_updRun h)))) (keeps_ite (keeps_cancelApp (keeps_ite (keeps_mk (keeps_updRun h)) (keeps_updRun h))) (keeps_ite (keeps_mk (keeps_updRun h)) (keeps_updRun h)))))

theorem keeps_execAppLoad {s0 s t : State} {q : Sys2Proof.Req} (h : Keeps s0 s) (e : execAppLoad q s = .next t) : Keeps s0 t := by
  cases e; exact (keeps_onPage (fun _ h1 => (keeps_cmdAppLoad h1)) h)

theorem keeps_execAppValidationEnd {s0 s t : State} (h : Keeps s0 s) (e : execAppValidationEnd s = .next t) : Keeps s0 t := by
  cases e; exact (keeps_endAppValidation h)

theorem keeps_execAppActivate {s0 s t : State} {q : Sys2Proof.Req} {trio : Bool} (h : Keeps s0 s) (e : execAppActivate q trio s = .next t) : Keeps s0 t := by
  cases e; exact (keeps_onPage (fun _ h1 => (keeps_cmdAppActivate h1)) h)

theorem keeps_execAppArm {s0 s t : State} {q : Sys2Proof.Req} (h : Keeps s0 s) (e : execAppArm q s = .next t) : Keeps s0 t := by
  cases e; exact (keeps_onPage (fun _ h1 => (keeps_cmdAppArm h1)) h)

theorem keeps_execAppCancel {s0 s t : State} {q : Sys2Proof.Req} (h : Keeps s0 s) (e : execAppCancel q s = .next t) : Keeps s0 t := by
  cases e; exact (keeps_onPage (fun _ h1 => (keeps_cmdAppCancel h1)) h)

theorem keeps_execAppDiscard {s0 s t : State} {q : Sys2Proof.Req} (h : Keeps s0 s) (e : execAppDiscard q s = .next t) : Keeps s0 t := by
  cases e; exact (keeps_onPage (fun _ h1 => (keeps_cmdAppDiscard h1)) h)

theorem keeps_putForce {s0 s : State} {i : Fin 256} {f : Option Sys2Proof.Machine.Force} (h : Keeps s0 s) : Keeps s0 (putForce i f s) := by
  unfold putForce; exact (keeps_updRun h)

theorem keeps_refreshForceInd {s0 s : State} (h : Keeps s0 s) : Keeps s0 (refreshForceInd s) := by
  unfold refreshForceInd; exact (keeps_mk h)

theorem keeps_forceChanged {s0 s : State} {ten : Option (BitVec 3)} (h : Keeps s0 s) : Keeps s0 (forceChanged ten s) := by
  unfold forceChanged; exact (keeps_raise (keeps_refreshForceInd h))

theorem keeps_publishForce {s0 s : State} {m : Sys2Proof.ForceMsg} (h : Keeps s0 s) : Keeps s0 (publishForce m s) := by
  unfold publishForce; exact (keeps_ite (keeps_mk h) h)

theorem keeps_frcCode {s0 s : State} {c : Sys2Proof.Byte} (h : Keeps s0 s) : Keeps s0 (frcCode c s) := by
  unfold frcCode; exact (keeps_updRun h)

theorem keeps_enterForce {s0 s : State} {m : Fin 3} {p : BitVec 16} {v : Sys2Proof.Word} {k : ℕ} (h : Keeps s0 s) : Keeps s0 (enterForce m p v k s) := by
  unfold enterForce; exact (by (try dsimp only); split; exacts [(keeps_putForce h), (by (try dsimp only); split; exacts [(keeps_putForce h), h])])

theorem keeps_enterRemoval {s0 s : State} {m : Fin 3} {i : Fin 256} {k : ℕ} (h : Keeps s0 s) : Keeps s0 (enterRemoval m i k s) := by
  unfold enterRemoval; exact (keeps_putForce h)

theorem keeps_cmdFrcSet {s0 s : State} (h : Keeps s0 s) : Keeps s0 (cmdFrcSet s) := by
  unfold cmdFrcSet; exact (keeps_ite (keeps_frcCode h) (by (try dsimp only); split; exacts [(keeps_frcCode h), (keeps_ite (keeps_frcCode h) (keeps_forceChanged (keeps_publishForce (keeps_enterForce (keeps_frcCode h)))))]))

theorem keeps_cmdFrcClear {s0 s : State} (h : Keeps s0 s) : Keeps s0 (cmdFrcClear s) := by
  unfold cmdFrcClear; exact (by (try dsimp only); split; exacts [(keeps_frcCode h), (keeps_forceChanged (keeps_publishForce (keeps_enterRemoval (keeps_frcCode h))))])

theorem keeps_removeForces {s0 s : State} {which : Force → Bool} {after : BitVec 16 → State → State} (k : ∀ p x, Keeps s0 x → Keeps s0 (after p x))
    (h : Keeps s0 s) : Keeps s0 (removeForces which after s) := by
  unfold removeForces
  refine keeps_foldl (fun _ _ h1 => ?_) h
  split
  · exact keeps_ite (k _ _ (keeps_publishForce (keeps_enterRemoval h1))) h1
  · exact h1

theorem keeps_cmdFrcClearAll {s0 s : State} (h : Keeps s0 s) : Keeps s0 (cmdFrcClearAll s) := by
  unfold cmdFrcClearAll; exact (keeps_forceChanged (keeps_removeForces (fun _ _ h1 => h1) (keeps_frcCode h)))

theorem keeps_sealRemovesForces {s0 s : State} (h : Keeps s0 s) : Keeps s0 (sealRemovesForces s) := by
  unfold sealRemovesForces; exact (keeps_removeForces (fun _ _ h1 => keeps_forceChanged h1) h)

theorem keeps_ageForces {s0 s : State} (h : Keeps s0 s) : Keeps s0 (ageForces s) := by
  unfold ageForces; exact (keeps_updRun h)

theorem keeps_forcesAct {s0 s : State} (h : Keeps s0 s) : Keeps s0 (forcesAct s) := by
  unfold forcesAct; exact (keeps_refreshForceInd (keeps_updRun h))

theorem keeps_exchangeForces {s0 s : State} {old : Sys2Proof.Machine.AppImage} {new : Sys2Proof.Machine.AppImage} (h : Keeps s0 s) : Keeps s0 (exchangeForces old new s) := by
  unfold exchangeForces; exact (keeps_refreshForceInd (keeps_foldl (fun _ _ h1 => (by (try dsimp only); split; exacts [h1, (keeps_ite h1 (keeps_note (keeps_putForce h1)))])) h))

theorem keeps_cmdRestart {s0 s : State} (h : Keeps s0 s) : Keeps s0 (cmdRestart s) := by
  unfold cmdRestart; exact (keeps_ite (keeps_updRun h) (keeps_ite (keeps_updRun h) (keeps_updRun h)))

theorem keeps_restartAt {s0 s : State} (h : Keeps s0 s) : Keeps s0 (restartAt s) := by
  unfold restartAt; exact (by (try dsimp only); split; exacts [h, (keeps_ite (keeps_raise (keeps_updRun h)) h)])

theorem keeps_execFrcSet {s0 s t : State} {q : Sys2Proof.Req} (h : Keeps s0 s) (e : execFrcSet q s = .next t) : Keeps s0 t := by
  cases e; exact (keeps_onPage (fun _ h1 => (keeps_cmdFrcSet h1)) h)

theorem keeps_execFrcClear {s0 s t : State} {q : Sys2Proof.Req} (h : Keeps s0 s) (e : execFrcClear q s = .next t) : Keeps s0 t := by
  cases e; exact (keeps_onPage (fun _ h1 => (keeps_cmdFrcClear h1)) h)

theorem keeps_execFrcClearAll {s0 s t : State} {q : Sys2Proof.Req} (h : Keeps s0 s) (e : execFrcClearAll q s = .next t) : Keeps s0 t := by
  cases e; exact (keeps_onPage (fun _ h1 => (keeps_cmdFrcClearAll h1)) h)

theorem keeps_execForceTakeEffect {s0 s t : State} (h : Keeps s0 s) (e : execForceTakeEffect s = .next t) : Keeps s0 t := by
  cases e; exact (keeps_forcesAct h)

theorem keeps_execRunRestart {s0 s t : State} {q : Sys2Proof.Req} (h : Keeps s0 s) (e : execRunRestart q s = .next t) : Keeps s0 t := by
  cases e; exact (keeps_onPage (fun _ h1 => (keeps_cmdRestart h1)) h)

theorem keeps_execRestartFrame {s0 s t : State} (h : Keeps s0 s) (e : execRestartFrame s = .next t) : Keeps s0 t := by
  cases e; exact (keeps_restartAt h)

theorem keeps_resetFoothill {s0 s : State} {link : Bool} (h : Keeps s0 s) : Keeps s0 (resetFoothill link s) := by
  unfold resetFoothill; exact (keeps_mk (keeps_dropLatches (keeps_updHdr (keeps_updHdr h))))

theorem keeps_takePins {s0 s : State} {pins : Sys2Proof.FieldPins} (h : Keeps s0 s) : Keeps s0 (takePins pins s) := by
  unfold takePins; exact (keeps_updField (keeps_mk h))

theorem keeps_hubUp {s0 s : State} (h : Keeps s0 s) : Keeps s0 (hubUp s) := by
  unfold hubUp; exact (keeps_mk h)

theorem keeps_fieldLinkFalls {s0 s : State} (h : Keeps s0 s) : Keeps s0 (fieldLinkFalls s) := by
  unfold fieldLinkFalls; exact (keeps_ite h (keeps_raise (keeps_portDown (keeps_updField h))))

theorem keeps_linkFrame {s0 s : State} {pins : Sys2Proof.FieldPins} (h : Keeps s0 s) : Keeps s0 (linkFrame pins s) := by
  unfold linkFrame; exact (keeps_ite h (keeps_ite (keeps_takePins h) (keeps_raise (keeps_hubUp (keeps_updField (keeps_takePins h))))))

theorem keeps_linkTimeout {s0 s : State} (h : Keeps s0 s) : Keeps s0 (linkTimeout s) := by
  unfold linkTimeout; exact (keeps_ite h (keeps_ite (keeps_refreshField (keeps_ite (keeps_fieldLinkFalls h) (keeps_note (keeps_updField (keeps_fieldLinkFalls h))))) (keeps_failDevice (keeps_refreshField (keeps_ite (keeps_fieldLinkFalls h) (keeps_note (keeps_updField (keeps_fieldLinkFalls h))))))))

theorem keeps_setVfield {s0 s : State} {mv : BitVec 16} (h : Keeps s0 s) : Keeps s0 (setVfield mv s) := by
  unfold setVfield; exact (keeps_ite (keeps_updField h) h)

theorem keeps_uvloBegin {s0 s : State} {mv : BitVec 16} (h : Keeps s0 s) : Keeps s0 (uvloBegin mv s) := by
  unfold uvloBegin; exact (keeps_ite (keeps_setVfield h) (keeps_newFault (keeps_noteConds (keeps_refreshField (keeps_updField (keeps_setVfield h))))))

theorem keeps_uvloEnd {s0 s : State} {mv : BitVec 16} (h : Keeps s0 s) : Keeps s0 (uvloEnd mv s) := by
  unfold uvloEnd; exact (keeps_ite (keeps_setVfield h) (keeps_noteConds (keeps_refreshField (keeps_updField (keeps_setVfield h)))))

theorem keeps_fieldTemp {s0 s : State} {temp : BitVec 11} (h : Keeps s0 s) : Keeps s0 (fieldTemp temp s) := by
  unfold fieldTemp; exact (keeps_ite h (keeps_noteConds (keeps_updField h)))

theorem keeps_fieldShutdown {s0 s : State} {temp : BitVec 11} (h : Keeps s0 s) : Keeps s0 (fieldShutdown temp s) := by
  unfold fieldShutdown; exact (keeps_ite (keeps_fieldTemp h) (keeps_failDevice (keeps_note (keeps_refreshField (keeps_updField (keeps_fieldTemp h))))))

theorem keeps_foothillOn {s0 s : State} (h : Keeps s0 s) : Keeps s0 (foothillOn s) := by
  unfold foothillOn; exact (keeps_ite h (keeps_resetFoothill h))

theorem keeps_foothillOff {s0 s : State} (h : Keeps s0 s) : Keeps s0 (foothillOff s) := by
  unfold foothillOff; exact (keeps_ite (keeps_refreshField (keeps_updField h)) h)

theorem keeps_debounce {s0 s : State} {ch : Sys2Proof.DebChan} {level : Bool} (h : Keeps s0 s) : Keeps s0 (debounce ch level s) := by
  unfold debounce; exact (keeps_ite h (by (try dsimp only); split; exacts [(keeps_ite h (keeps_updField h)), (keeps_updField (keeps_mk h))]))

theorem keeps_wireBreak {s0 s : State} {n : Fin 64} (h : Keeps s0 s) : Keeps s0 (wireBreak n s) := by
  unfold wireBreak; exact (keeps_ite (keeps_newFault (keeps_updField h)) h)

theorem keeps_wireWhole {s0 s : State} {n : Fin 64} (h : Keeps s0 s) : Keeps s0 (wireWhole n s) := by
  unfold wireWhole; exact (keeps_ite h (keeps_updField h))

theorem keeps_diStarted {s0 s : State} {n : Fin 64} (h : Keeps s0 s) : Keeps s0 (diStarted n s) := by
  unfold diStarted; exact (keeps_updField h)

theorem keeps_pulseStart {s0 s : State} {n : Fin 8} (h : Keeps s0 s) : Keeps s0 (pulseStart n s) := by
  unfold pulseStart; exact (by (try dsimp only); split; exacts [h, (keeps_ite h (keeps_updField (keeps_reachNative h)))])

theorem keeps_pulseJudge {s0 s : State} {passed : BitVec 64} {raw : BitVec 64} {n : Fin 8} {c : Fin 64} (h : Keeps s0 s) : Keeps s0 (pulseJudge passed raw n s c) := by
  unfold pulseJudge; exact (keeps_ite h (keeps_ite (keeps_newFault (keeps_updField h)) (keeps_updField h)))

theorem keeps_pulseEnd {s0 s : State} {n : Fin 8} {passed : BitVec 64} {raw : BitVec 64} (h : Keeps s0 s) : Keeps s0 (pulseEnd n passed raw s) := by
  unfold pulseEnd; exact (keeps_ite (keeps_foldl (fun _ _ h1 => (keeps_pulseJudge h1)) (keeps_updField (keeps_reachLocal h))) h)

theorem keeps_exchangeField {s0 s : State} {old : Sys2Proof.Machine.IoMap} (h : Keeps s0 s) : Keeps s0 (exchangeField old s) := by
  unfold exchangeField; exact (keeps_updField h)

theorem keeps_tpsTrip {s0 s : State} {n : Fin 8} (h : Keeps s0 s) : Keeps s0 (tpsTrip n s) := by
  unfold tpsTrip; exact (keeps_ite (keeps_newFault (keeps_updField h)) h)

theorem keeps_tpsBack {s0 s : State} {n : Fin 8} (h : Keeps s0 s) : Keeps s0 (tpsBack n s) := by
  unfold tpsBack; exact (keeps_updField h)

theorem keeps_doTripOff {s0 s : State} {n : Fin 24} {hot : Bool} (h : Keeps s0 s) : Keeps s0 (doTripOff n hot s) := by
  unfold doTripOff; exact (keeps_newFault (keeps_bump (keeps_refreshField (keeps_updField h))))

theorem keeps_lockTlo {s0 s : State} {n : Fin 8} (h : Keeps s0 s) : Keeps s0 (lockTlo n s) := by
  unfold lockTlo; exact (keeps_ite h (keeps_raiseSev (keeps_bump (keeps_refreshField (keeps_updField h)))))

theorem keeps_tripDecide {s0 s : State} {o : Sys2Proof.OutChan} {hi : Bool} {lo : Bool} (h : Keeps s0 s) : Keeps s0 (tripDecide o hi lo s) := by
  unfold tripDecide; exact (by (try dsimp only); split; exacts [(keeps_ite (keeps_doTripOff h) h), (keeps_ite (keeps_lockTlo (keeps_bump h)) h)])

theorem keeps_blankingEnd {s0 s : State} {o : Sys2Proof.OutChan} {hi : Bool} {lo : Bool} (h : Keeps s0 s) : Keeps s0 (blankingEnd o hi lo s) := by
  unfold blankingEnd; exact (keeps_ite (keeps_tripDecide (keeps_updField h)) h)

theorem keeps_overCurrent {s0 s : State} {o : Sys2Proof.OutChan} {hi : Bool} {lo : Bool} (h : Keeps s0 s) : Keeps s0 (overCurrent o hi lo s) := by
  unfold overCurrent; exact (keeps_ite (keeps_tripDecide h) h)

theorem keeps_switchHot {s0 s : State} {o : Sys2Proof.OutChan} (h : Keeps s0 s) : Keeps s0 (switchHot o s) := by
  unfold switchHot; exact (keeps_ite h (by (try dsimp only); split; exacts [(keeps_doTripOff h), (keeps_lockTlo (keeps_bump h))]))

theorem keeps_offCheck {s0 s : State} {n : Fin 8} {hi : Bool} {lo : Bool} (h : Keeps s0 s) : Keeps s0 (offCheck n hi lo s) := by
  unfold offCheck; exact (keeps_ite h (keeps_ite (keeps_lockTlo (keeps_settleMis (keeps_updField h))) (keeps_settleMis (keeps_updField h))))

theorem keeps_mismatch {s0 s : State} {o : Sys2Proof.OutChan} (h : Keeps s0 s) : Keeps s0 (mismatch o s) := by
  unfold mismatch; exact (keeps_ite h (by (try dsimp only); split; exacts [(keeps_newFault (keeps_updField h)), (by (try dsimp only [drawFree]); exact (keeps_newFault (keeps_updField (keeps_mk h))))]))

theorem keeps_unlockTlo {s0 s : State} (h : Keeps s0 s) : Keeps s0 (unlockTlo s) := by
  unfold unlockTlo; exact (keeps_refreshField (keeps_updField h))

theorem keeps_fieldFenced {s0 s : State} (h : Keeps s0 s) : Keeps s0 (fieldFenced s) := by
  unfold fieldFenced; exact (keeps_ite h (keeps_ite (keeps_updField h) (keeps_giveUp (keeps_raiseUrgent (keeps_refreshField (keeps_updField (keeps_updField h)))))))

theorem keeps_sampleAi {s0 s : State} {n : Fin 32} (h : Keeps s0 s) : Keeps s0 (sampleAi s n) := by
  unfold sampleAi; exact (by (try dsimp only [drawFree]); exact (keeps_updField (keeps_mk h)))

theorem keeps_aiTrip {s0 s : State} {n : Fin 32} (h : Keeps s0 s) : Keeps s0 (aiTrip n s) := by
  unfold aiTrip; exact (keeps_ite (keeps_updField h) h)

theorem keeps_aiBack {s0 s : State} {n : Fin 32} (h : Keeps s0 s) : Keeps s0 (aiBack n s) := by
  unfold aiBack; exact (keeps_updField h)

theorem keeps_setAoStat {s0 s : State} {n : Fin 16} {st : BitVec 4} (h : Keeps s0 s) : Keeps s0 (setAoStat n st s) := by
  unfold setAoStat; exact (keeps_ite h (keeps_raise (keeps_updField h)))

theorem keeps_aoDecide {s0 s : State} {n : Fin 16} {na : BitVec 25} {saturated : Bool} {held : Bool} (h : Keeps s0 s) : Keeps s0 (aoDecide n na saturated held s) := by
  unfold aoDecide; exact (keeps_ite h (keeps_setAoStat (keeps_updField h)))

theorem keeps_trimDone {s0 s : State} {c : Sys2Proof.Byte} (h : Keeps s0 s) : Keeps s0 (trimDone c s) := by
  unfold trimDone; exact (keeps_raise (keeps_updField h))

theorem keeps_cmdTrimDrive {s0 s : State} {twenty : Bool} (h : Keeps s0 s) : Keeps s0 (cmdTrimDrive twenty s) := by
  unfold cmdTrimDrive; exact (keeps_ite (keeps_trimDone h) (keeps_trimDone (keeps_setAoStat (keeps_settleAsk (keeps_updField h)))))

theorem keeps_leaveTrim {s0 s : State} {n : Fin 16} (h : Keeps s0 s) : Keeps s0 (leaveTrim n s) := by
  unfold leaveTrim; exact (keeps_ite (keeps_ite (keeps_setAoStat (keeps_settleAsk (keeps_updField h))) (keeps_settleAsk (keeps_updField h))) h)

theorem keeps_cmdTrimApply {s0 s : State} (h : Keeps s0 s) : Keeps s0 (cmdTrimApply s) := by
  unfold cmdTrimApply; exact (keeps_ite (keeps_trimDone h) (keeps_trimDone (keeps_leaveTrim (keeps_updField h))))

theorem keeps_cmdTrimExit {s0 s : State} (h : Keeps s0 s) : Keeps s0 (cmdTrimExit s) := by
  unfold cmdTrimExit; exact (keeps_trimDone (keeps_leaveTrim h))

theorem keeps_latchDi {s0 s : State} (h : Keeps s0 s) : Keeps s0 (latchDi s) := by
  unfold latchDi; exact (keeps_updField h)

theorem keeps_latchFlit {s0 s : State} {off : ℕ} {ws : List Sys2Proof.Word} (h : Keeps s0 s) : Keeps s0 (latchFlit off ws s) := by
  unfold latchFlit; exact (keeps_updField h)

theorem keeps_sampleBank {s0 s : State} {cls : ℕ} {inst : ℕ} (h : Keeps s0 s) : Keeps s0 (sampleBank cls inst s) := by
  unfold sampleBank; exact (keeps_ite (keeps_latchFlit h) (keeps_ite (keeps_latchFlit (keeps_foldl (fun _ _ h1 => (keeps_sampleAi h1)) h)) h))

theorem keeps_latchReadback {s0 s : State} (h : Keeps s0 s) : Keeps s0 (latchReadback s) := by
  unfold latchReadback; exact (keeps_latchFlit (keeps_latchFlit h))

theorem keeps_writeFieldFlit {s0 s : State} {off : ℕ} {d : List Sys2Proof.Byte} (h : Keeps s0 s) : Keeps s0 (writeFieldFlit off d s) := by
  unfold writeFieldFlit; exact (keeps_ite h (keeps_ite (keeps_updField h) (keeps_ite (keeps_updField h) (keeps_ite (keeps_updField h) h))))

theorem keeps_doRestart {s0 s : State} {n : Fin 24} (h : Keeps s0 s) : Keeps s0 (doRestart s n) := by
  have k : Keeps s0 (if s.field.doHot.getLsbD n.val then drawFree 1 s else ((1 : BitVec 1), s)).2 := by
    split
    · exact keeps_mk h
    · exact h
  unfold doRestart
  refine keeps_ite h (keeps_ite (keeps_updField h) (keeps_ite h ?_))
  exact keeps_updField k

theorem keeps_commitBank {s0 s : State} {cls : ℕ} {inst : ℕ} (h : Keeps s0 s) : Keeps s0 (commitBank cls inst s) := by
  unfold commitBank; exact (keeps_ite (keeps_foldl (fun _ _ h1 => (keeps_doRestart h1)) (keeps_updField h)) (keeps_ite (keeps_updField h) (keeps_ite (keeps_updField h) h)))

theorem keeps_execFieldLinkFrame {s0 s t : State} {pins : Sys2Proof.FieldPins} (h : Keeps s0 s) (e : execFieldLinkFrame pins s = .next t) : Keeps s0 t := by
  cases e; exact (keeps_linkFrame h)

theorem keeps_execFieldLinkTimeout {s0 s t : State} (h : Keeps s0 s) (e : execFieldLinkTimeout s = .next t) : Keeps s0 t := by
  cases e; exact (keeps_linkTimeout h)

theorem keeps_execUvloEnter {s0 s t : State} {mv : BitVec 16} (h : Keeps s0 s) (e : execUvloEnter mv s = .next t) : Keeps s0 t := by
  cases e; exact (keeps_uvloBegin h)

theorem keeps_execUvloExit {s0 s t : State} {mv : BitVec 16} (h : Keeps s0 s) (e : execUvloExit mv s = .next t) : Keeps s0 t := by
  cases e; exact (keeps_uvloEnd h)

theorem keeps_execFoothillHot {s0 s t : State} {temp : BitVec 11} (h : Keeps s0 s) (e : execFoothillHot temp s = .next t) : Keeps s0 t := by
  cases e; exact (keeps_fieldTemp h)

theorem keeps_execFoothillShutdown {s0 s t : State} {temp : BitVec 11} (h : Keeps s0 s) (e : execFoothillShutdown temp s = .next t) : Keeps s0 t := by
  cases e; exact (keeps_fieldShutdown h)

theorem keeps_execFoothillPowerOn {s0 s t : State} (h : Keeps s0 s) (e : execFoothillPowerOn s = .next t) : Keeps s0 t := by
  cases e; exact (keeps_foothillOn h)

theorem keeps_execFoothillPowerLoss {s0 s t : State} (h : Keeps s0 s) (e : execFoothillPowerLoss s = .next t) : Keeps s0 t := by
  cases e; exact (keeps_foothillOff h)

theorem keeps_execDebouncePass {s0 s t : State} {ch : Sys2Proof.DebChan} {level : Bool} (h : Keeps s0 s) (e : execDebouncePass ch level s = .next t) : Keeps s0 t := by
  cases e; exact (keeps_debounce h)

theorem keeps_execWireBreakSet {s0 s t : State} {n : Fin 64} (h : Keeps s0 s) (e : execWireBreakSet n s = .next t) : Keeps s0 t := by
  cases e; exact (keeps_wireBreak h)

theorem keeps_execWireBreakClear {s0 s t : State} {n : Fin 64} (h : Keeps s0 s) (e : execWireBreakClear n s = .next t) : Keeps s0 t := by
  cases e; exact (keeps_wireWhole h)

theorem keeps_execDiReadBrokenEnd {s0 s t : State} {n : Fin 64} (h : Keeps s0 s) (e : execDiReadBrokenEnd n s = .next t) : Keeps s0 t := by
  cases e; exact (keeps_diStarted h)

theorem keeps_execTestPulseStart {s0 s t : State} {n : Fin 8} (h : Keeps s0 s) (e : execTestPulseStart n s = .next t) : Keeps s0 t := by
  cases e; exact (keeps_pulseStart h)

theorem keeps_execBlankingWindowEnd {s0 s t : State} {n : Fin 8} {passed : BitVec 64} {raw : BitVec 64} (h : Keeps s0 s) (e : execBlankingWindowEnd n passed raw s = .next t) : Keeps s0 t := by
  cases e; exact (keeps_pulseEnd h)

theorem keeps_execTpsOverload {s0 s t : State} {n : Fin 8} (h : Keeps s0 s) (e : execTpsOverload n s = .next t) : Keeps s0 t := by
  cases e; exact (keeps_tpsTrip h)

theorem keeps_execTpsRestart {s0 s t : State} {n : Fin 8} (h : Keeps s0 s) (e : execTpsRestart n s = .next t) : Keeps s0 t := by
  cases e; exact (keeps_tpsBack h)

theorem keeps_execInrushBlankingEnd {s0 s t : State} {o : Sys2Proof.OutChan} {overHi : Bool} {overLo : Bool} (h : Keeps s0 s) (e : execInrushBlankingEnd o overHi overLo s = .next t) : Keeps s0 t := by
  cases e; exact (keeps_blankingEnd h)

theorem keeps_execOutputTrip {s0 s t : State} {o : Sys2Proof.OutChan} {overHi : Bool} {overLo : Bool} (h : Keeps s0 s) (e : execOutputTrip o overHi overLo s = .next t) : Keeps s0 t := by
  cases e; exact (keeps_overCurrent h)

theorem keeps_execThermalShutdown {s0 s t : State} {o : Sys2Proof.OutChan} (h : Keeps s0 s) (e : execThermalShutdown o s = .next t) : Keeps s0 t := by
  cases e; exact (keeps_switchHot h)

theorem keeps_execTloOffCheck {s0 s t : State} {n : Fin 8} {hi : Bool} {lo : Bool} (h : Keeps s0 s) (e : execTloOffCheck n hi lo s = .next t) : Keeps s0 t := by
  cases e; exact (keeps_offCheck h)

theorem keeps_execReadbackMismatch {s0 s t : State} {o : Sys2Proof.OutChan} (h : Keeps s0 s) (e : execReadbackMismatch o s = .next t) : Keeps s0 t := by
  cases e; exact (keeps_mismatch h)

theorem keeps_execTloUnlock {s0 s t : State} {q : Sys2Proof.Req} (h : Keeps s0 s) (e : execTloUnlock q s = .next t) : Keeps s0 t := by
  cases e; exact (keeps_onPage (fun _ h1 => (keeps_unlockTlo h1)) h)

theorem keeps_execFieldFence {s0 s t : State} (h : Keeps s0 s) (e : execFieldFence s = .next t) : Keeps s0 t := by
  cases e; exact (keeps_fieldFenced h)

theorem keeps_execFenceSeen {s0 s t : State} (h : Keeps s0 s) (e : execFenceSeen s = .next t) : Keeps s0 t := by
  cases e; exact (keeps_updField h)

theorem keeps_execAiSupplyOverload {s0 s t : State} {n : Fin 32} (h : Keeps s0 s) (e : execAiSupplyOverload n s = .next t) : Keeps s0 t := by
  cases e; exact (keeps_aiTrip h)

theorem keeps_execAiSupplyRestart {s0 s t : State} {n : Fin 32} (h : Keeps s0 s) (e : execAiSupplyRestart n s = .next t) : Keeps s0 t := by
  cases e; exact (keeps_aiBack h)

theorem keeps_execAoStatusDecide {s0 s t : State} {n : Fin 16} {measuredNa : BitVec 25} {saturated : Bool} {held : Bool} (h : Keeps s0 s) (e : execAoStatusDecide n measuredNa saturated held s = .next t) : Keeps s0 t := by
  cases e; exact (keeps_aoDecide h)

theorem keeps_execTrimDrive4 {s0 s t : State} {q : Sys2Proof.Req} (h : Keeps s0 s) (e : execTrimDrive4 q s = .next t) : Keeps s0 t := by
  cases e; exact (keeps_onPage (fun _ h1 => (keeps_cmdTrimDrive h1)) h)

theorem keeps_execTrimDrive20 {s0 s t : State} {q : Sys2Proof.Req} (h : Keeps s0 s) (e : execTrimDrive20 q s = .next t) : Keeps s0 t := by
  cases e; exact (keeps_onPage (fun _ h1 => (keeps_cmdTrimDrive h1)) h)

theorem keeps_execTrimApply {s0 s t : State} {q : Sys2Proof.Req} (h : Keeps s0 s) (e : execTrimApply q s = .next t) : Keeps s0 t := by
  cases e; exact (keeps_onPage (fun _ h1 => (keeps_cmdTrimApply h1)) h)

theorem keeps_execTrimExit {s0 s t : State} {q : Sys2Proof.Req} (h : Keeps s0 s) (e : execTrimExit q s = .next t) : Keeps s0 t := by
  cases e; exact (keeps_onPage (fun _ h1 => (keeps_cmdTrimExit h1)) h)

theorem keeps_updPanel {s0 s : State} {f : Sys2Proof.Machine.Panel → Sys2Proof.Machine.Panel} (h : Keeps s0 s) : Keeps s0 (updPanel f s) := by
  unfold updPanel; exact (keeps_mk h)

theorem keeps_beginWrite {s0 s : State} {cfg : Sys2Proof.Machine.PanelCfg} {c : Fin 8} {stale : Bool} (h : Keeps s0 s) : Keeps s0 (beginWrite cfg c stale s) := by
  unfold beginWrite; exact (keeps_updPanel h)

theorem keeps_startWrite {s0 s : State} (h : Keeps s0 s) : Keeps s0 (startWrite s) := by
  unfold startWrite; exact (by (try dsimp only); split; exacts [(keeps_ite h (keeps_beginWrite h)), h])

theorem keeps_nextPhase {s0 s : State} (h : Keeps s0 s) : Keeps s0 (nextPhase s) := by
  unfold nextPhase; exact (by (try dsimp only); split; exacts [h, (keeps_ite h (keeps_updPanel (keeps_reachLocal h)))])

theorem keeps_endStale {s0 s : State} (h : Keeps s0 s) : Keeps s0 (endStale s) := by
  unfold endStale; exact (keeps_ite (keeps_updPanel h) h)

theorem keeps_finishWrite {s0 s : State} (h : Keeps s0 s) : Keeps s0 (finishWrite s) := by
  unfold finishWrite; exact (by (try dsimp only); split; exacts [h, (keeps_ite h (keeps_noteConds (keeps_endStale (keeps_updPanel (keeps_reachLocal h)))))])

theorem keeps_abandonWrite {s0 s : State} (h : Keeps s0 s) : Keeps s0 (abandonWrite s) := by
  unfold abandonWrite; exact (by (try dsimp only); split; exacts [h, (keeps_noteConds (keeps_raise (keeps_updPanel h)))])

theorem keeps_staleWrite {s0 s : State} (h : Keeps s0 s) : Keeps s0 (staleWrite s) := by
  unfold staleWrite; exact (by (try dsimp only); split; exacts [(keeps_abandonWrite h), (keeps_ite (keeps_abandonWrite h) (keeps_raise (keeps_noteConds (keeps_beginWrite (keeps_updPanel (keeps_abandonWrite h))))))])

theorem keeps_fieldWarn {s0 s : State} {mv : BitVec 16} (h : Keeps s0 s) : Keeps s0 (fieldWarn mv s) := by
  unfold fieldWarn; exact (keeps_ite (keeps_setVfield h) (keeps_staleWrite (keeps_noteConds (keeps_updField (keeps_setVfield h)))))

theorem keeps_fieldWarnOff {s0 s : State} {mv : BitVec 16} (h : Keeps s0 s) : Keeps s0 (fieldWarnOff mv s) := by
  unfold fieldWarnOff; exact (keeps_noteConds (keeps_endStale (keeps_updField (keeps_setVfield h))))

theorem keeps_vpnlLevel {s0 s : State} {mv : BitVec 16} (h : Keeps s0 s) : Keeps s0 (vpnlLevel mv s) := by
  unfold vpnlLevel; exact (keeps_ite h (keeps_ite (keeps_abandonWrite (keeps_noteConds (keeps_updPanel h))) (keeps_noteConds (keeps_updPanel h))))

theorem keeps_ntc {s0 s : State} {temp : BitVec 11} (h : Keeps s0 s) : Keeps s0 (ntc temp s) := by
  unfold ntc; exact (keeps_ite h (keeps_noteConds (keeps_updPanel (keeps_updPanel h))))

theorem keeps_crackLoop {s0 s : State} {ohms : ℕ} (h : Keeps s0 s) : Keeps s0 (crackLoop ohms s) := by
  unfold crackLoop; exact (keeps_ite (keeps_noteConds (keeps_updPanel h)) h)

theorem keeps_writeCnt {s0 s : State} {v : Sys2Proof.Word} (h : Keeps s0 s) : Keeps s0 (writeCnt v s) := by
  unfold writeCnt; exact (keeps_ite (keeps_updPanel h) h)

theorem keeps_samplePanel {s0 s : State} (h : Keeps s0 s) : Keeps s0 (samplePanel s) := by
  unfold samplePanel; exact (keeps_latchFlit h)

theorem keeps_writePanelFlit {s0 s : State} {off : ℕ} {d : List Sys2Proof.Byte} (h : Keeps s0 s) : Keeps s0 (writePanelFlit off d s) := by
  unfold writePanelFlit; exact (keeps_ite h (keeps_updPanel h))

theorem keeps_commitPanel {s0 s : State} (h : Keeps s0 s) : Keeps s0 (commitPanel s) := by
  unfold commitPanel; exact (keeps_noteConds (keeps_updPanel h))

theorem keeps_execFieldWarnSet {s0 s t : State} {mv : BitVec 16} (h : Keeps s0 s) (e : execFieldWarnSet mv s = .next t) : Keeps s0 t := by
  cases e; exact (keeps_fieldWarn h)

theorem keeps_execFieldWarnClear {s0 s t : State} {mv : BitVec 16} (h : Keeps s0 s) (e : execFieldWarnClear mv s = .next t) : Keeps s0 t := by
  cases e; exact (keeps_fieldWarnOff h)

theorem keeps_execPanelWriteStart {s0 s t : State} (h : Keeps s0 s) (e : execPanelWriteStart s = .next t) : Keeps s0 t := by
  cases e; exact (keeps_startWrite h)

theorem keeps_execPanelWritePhase {s0 s t : State} (h : Keeps s0 s) (e : execPanelWritePhase s = .next t) : Keeps s0 t := by
  cases e; exact (keeps_nextPhase h)

theorem keeps_execPanelWriteEnd {s0 s t : State} (h : Keeps s0 s) (e : execPanelWriteEnd s = .next t) : Keeps s0 t := by
  cases e; exact (keeps_finishWrite h)

theorem keeps_execPanelWriteAbandon {s0 s t : State} {mv : BitVec 16} (h : Keeps s0 s) (e : execPanelWriteAbandon mv s = .next t) : Keeps s0 t := by
  cases e; exact (keeps_vpnlLevel h)

theorem keeps_execVpnlLevelChange {s0 s t : State} {mv : BitVec 16} (h : Keeps s0 s) (e : execVpnlLevelChange mv s = .next t) : Keeps s0 t := by
  cases e; exact (keeps_vpnlLevel h)

theorem keeps_execNtcMeasure {s0 s t : State} {temp : BitVec 11} (h : Keeps s0 s) (e : execNtcMeasure temp s = .next t) : Keeps s0 t := by
  cases e; exact (keeps_ntc h)

theorem keeps_execCrackMeasure {s0 s t : State} {ohms : ℕ} (h : Keeps s0 s) (e : execCrackMeasure ohms s = .next t) : Keeps s0 t := by
  cases e; exact (keeps_crackLoop h)

theorem keeps_execPnlCntWrite {s0 s t : State} {q : Sys2Proof.Req} {val : Sys2Proof.Word} (h : Keeps s0 s) (e : execPnlCntWrite q val s = .next t) : Keeps s0 t := by
  cases e; exact (keeps_onPage (fun _ h1 => (keeps_writeCnt h1)) h)

theorem keeps_updPartner {s0 s : State} {m : Fin 3} {f : Sys2Proof.Machine.Partner → Sys2Proof.Machine.Partner} (h : Keeps s0 s) : Keeps s0 (updPartner m f s) := by
  unfold updPartner; exact (keeps_updTrio h)

theorem keeps_mirrorEntry {s0 : State} {x : List (Option (List Byte)) × State} {e : Word × Word} (h : Keeps s0 x.2) :
    Keeps s0 (mirrorEntry x e).2 := by
  unfold mirrorEntry
  dsimp only [drawFree]
  split
  · exact keeps_mk h
  · exact keeps_scanSpan h

theorem keeps_mirrorData {s0 s : State} {e : TrioExchange} (h : Keeps s0 s) : Keeps s0 (mirrorData e s).2 := by
  have k : ∀ (l : List (Word × Word)) (x : List (Option (List Byte)) × State), Keeps s0 x.2 → Keeps s0 (l.foldl mirrorEntry x).2 := by
    intro l
    induction l with
    | nil => exact fun _ h => h
    | cons e r ih => exact fun x hx => ih _ (keeps_mirrorEntry hx)
  unfold mirrorData
  dsimp only
  split
  · exact k _ _ (keeps_scanSpan h)
  · exact keeps_scanSpan h

theorem keeps_markTasks {s0 s : State} (h : Keeps s0 s) : Keeps s0 (markTasks s) := by
  unfold markTasks; exact (keeps_mkPool h (fun w => (memWf_foldl (fun _ _ w0 => (memWf_write _ _ w0)) w)))

theorem keeps_queueFlits {s0 s : State} {type : Sys2Proof.Byte} {fs : List (Option (List Sys2Proof.Byte))} (h : Keeps s0 s) : Keeps s0 (queueFlits type fs s) := by
  unfold queueFlits; exact (keeps_foldl (fun _ _ h1 => (keeps_queueBoth h1)) h)

theorem keeps_queueStatus {s0 s : State} {len : ℕ} {st : Sys2Proof.MemberStatus} (h : Keeps s0 s) : Keeps s0 (queueStatus len st s) := by
  unfold queueStatus; exact (by (try dsimp only [drawFree]); exact (keeps_foldl (fun _ _ h1 => (keeps_queueBoth h1)) (keeps_mk h)))

theorem keeps_sendStatus {s0 s : State} {len : ℕ} (h : Keeps s0 s) : Keeps s0 (sendStatus len s) := by
  unfold sendStatus; exact (keeps_queueStatus (keeps_updTrio h))

theorem keeps_sendAlign {s0 s : State} {len : ℕ} (h : Keeps s0 s) : Keeps s0 (sendAlign len s) := by
  unfold sendAlign; exact (keeps_foldl (fun _ _ h1 => (keeps_queueTrio (keeps_queueTrio h1))) h)

theorem keeps_sendExchange {s0 s : State} {e : TrioExchange} (h : Keeps s0 s) : Keeps s0 (sendExchange e s) := by
  unfold sendExchange
  dsimp only
  exact keeps_ite h (keeps_ite (keeps_sendStatus h) (keeps_ite (keeps_sendAlign h) (keeps_ite (keeps_queueFlits (keeps_mirrorData h))
    (keeps_queueFlits (keeps_scanSpan (keeps_ite (keeps_forwardChanges (keeps_markTasks h)) h))))))

theorem keeps_portDelay {s0 s : State} {p : Sys2Proof.TrioPort} (h : Keeps s0 s) : Keeps s0 (portDelay s p) := by
  unfold portDelay; exact (by (try dsimp only); split; exacts [h, (keeps_ite (keeps_raise (keeps_updTb h)) (keeps_updTb h))])

theorem keeps_alignTrim {s0 s : State} (h : Keeps s0 s) : Keeps s0 (alignTrim s) := by
  unfold alignTrim; exact (keeps_ite (keeps_noteConds (keeps_updTb (keeps_portDelay (keeps_portDelay h)))) (by (try dsimp only); split; exacts [(by (try dsimp only); split; exacts [(keeps_noteConds (keeps_updTb (keeps_ite (keeps_bump (keeps_portDelay (keeps_portDelay h))) (keeps_portDelay (keeps_portDelay h))))), (keeps_noteConds (keeps_updTb (keeps_ite (keeps_bump (keeps_portDelay (keeps_portDelay h))) (keeps_portDelay (keeps_portDelay h)))))]), (keeps_portDelay (keeps_portDelay h))]))

theorem keeps_roundInstant {s0 s : State} {roundNs : ℕ} (h : Keeps s0 s) : Keeps s0 (roundInstant roundNs s) := by
  unfold roundInstant; exact (keeps_ite (keeps_ite (keeps_updTb h) (keeps_updTb h)) (keeps_updTb h))

theorem keeps_driveFence {s0 s : State} {m : Fin 3} {high : Bool} (h : Keeps s0 s) : Keeps s0 (driveFence m high s) := by
  unfold driveFence; exact (keeps_ite h (keeps_ite (keeps_drainTrio (keeps_queueBoth (keeps_raise (keeps_updTrio h)))) (keeps_raise (keeps_updTrio h))))

theorem keeps_fenceActs {s0 s : State} (h : Keeps s0 s) : Keeps s0 (fenceActs s) := by
  unfold fenceActs; exact (keeps_ite (keeps_ite (keeps_ite (keeps_raiseUrgent (keeps_refreshField (keeps_updField (keeps_updTrio h)))) (keeps_refreshField (keeps_updField (keeps_updTrio h)))) (keeps_stopController (keeps_ite (keeps_raiseUrgent (keeps_refreshField (keeps_updField (keeps_updTrio h)))) (keeps_refreshField (keeps_updField (keeps_updTrio h)))))) (keeps_giveUp (keeps_ite (keeps_raiseUrgent (keeps_refreshField (keeps_updField (keeps_updTrio h)))) (keeps_refreshField (keeps_updField (keeps_updTrio h))))))

theorem keeps_updPool {s0 s : State} {f : Memory → Memory} (k : ∀ m, memWf m = true → memWf (f m) = true) (h : Keeps s0 s) :
    Keeps s0 (updPool f s) := keeps_mkPool h (k _)

theorem keeps_applySubst {s0 s : State} {p : Sys2Proof.Machine.Place} {r : Sys2Proof.Machine.Subst} (h : Keeps s0 s) : Keeps s0 (applySubst p r s) := by
  unfold applySubst; exact (by (try dsimp only [drawFree]); exact (keeps_updPool (fun _ w => (memWf_substMem w)) (keeps_mk h)))

theorem keeps_judgeDeviations {s0 s : State} {p : Sys2Proof.Machine.InPoint} {devs : List (Fin 3)} (h : Keeps s0 s) : Keeps s0 (judgeDeviations p devs s) := by
  unfold judgeDeviations; exact (keeps_ite (keeps_updPool (fun _ w => (memWf_putWordBit w)) (keeps_foldl (fun _ _ h1 => (keeps_raise h1)) (keeps_updRun h))) (keeps_ite (keeps_foldl (fun _ _ h1 => (keeps_raise h1)) (keeps_updRun h)) (keeps_updPool (fun _ w => (memWf_putWordBit w)) (keeps_foldl (fun _ _ h1 => (keeps_raise h1)) (keeps_updRun h)))))

theorem keeps_noteSubstituted {s0 s : State} {p : Sys2Proof.Machine.InPoint} (h : Keeps s0 s) : Keeps s0 (noteSubstituted p s) := by
  unfold noteSubstituted; exact (keeps_mk h)

theorem keeps_votePoint {s0 s : State} {p : Sys2Proof.Machine.InPoint} (h : Keeps s0 s) : Keeps s0 (votePoint s p) := by
  unfold votePoint; exact (by (try dsimp only); split; exacts [(keeps_judgeDeviations (keeps_noteSubstituted (keeps_applySubst h))), (keeps_judgeDeviations (keeps_updPool (fun _ w => (memWf_putStatus (memWf_putValue w))) h)), (by (try dsimp only [drawFree]); exact (keeps_judgeDeviations (keeps_updPool (fun _ w => (memWf_putStatus (memWf_putValue w))) (keeps_mk h))))])

theorem keeps_copyPoint {s0 s : State} {p : Sys2Proof.Machine.InPoint} (h : Keeps s0 s) : Keeps s0 (copyPoint s p) := by
  unfold copyPoint; exact (keeps_ite h (keeps_ite (keeps_noteSubstituted (keeps_updPool (fun _ w => (memWf_putStatus (memWf_putValue w))) h)) (keeps_updPool (fun _ w => (memWf_putStatus (memWf_putValue w))) h)))

theorem keeps_forceInputs {s0 s : State} (h : Keeps s0 s) : Keeps s0 (forceInputs s) := by
  unfold forceInputs; exact (keeps_foldl (fun _ _ h1 => (by (try dsimp only); split; exacts [(keeps_mk (keeps_updPool (fun _ w => (memWf_putStatus (memWf_putValue w))) h1)), h1])) h)

theorem keeps_scanWords {s0 s : State} {as : List ℕ} (h : Keeps s0 s) : Keeps s0 (scanWords as s) := by
  unfold scanWords; exact (keeps_foldl (fun _ _ h1 => (keeps_scanPool h1)) h)

theorem keeps_voteInputs {s0 s : State} (h : Keeps s0 s) : Keeps s0 (voteInputs s) := by
  unfold voteInputs; exact (keeps_ite h (keeps_forwardChanges (keeps_forceInputs (keeps_updTrio (keeps_ite (keeps_foldl (fun _ _ h1 => (keeps_votePoint h1)) (keeps_mk (keeps_scanWords h))) (keeps_foldl (fun _ _ h1 => (keeps_copyPoint h1)) (keeps_mk (keeps_scanWords h))))))))

theorem keeps_fenceTest {s0 s : State} (h : Keeps s0 s) : Keeps s0 (fenceTest s) := by
  unfold fenceTest; exact (keeps_ite (keeps_updTrio h) h)

theorem keeps_compareOutputs {s0 s : State} (h : Keeps s0 s) : Keeps s0 (compareOutputs s) := by
  unfold compareOutputs; exact (keeps_ite h (by dsimp only; exact (keeps_ite (keeps_fenceTest (keeps_ite (keeps_raise (keeps_bump (keeps_updTrio (keeps_scanWords h)))) (keeps_updTrio (keeps_scanWords h)))) (keeps_ite (keeps_giveUp (keeps_fenceTest (keeps_ite (keeps_raise (keeps_bump (keeps_updTrio (keeps_scanWords h)))) (keeps_updTrio (keeps_scanWords h))))) (keeps_ite (keeps_giveUp (keeps_fenceTest (keeps_ite (keeps_raise (keeps_bump (keeps_updTrio (keeps_scanWords h)))) (keeps_updTrio (keeps_scanWords h))))) (keeps_fenceTest (keeps_ite (keeps_raise (keeps_bump (keeps_updTrio (keeps_scanWords h)))) (keeps_updTrio (keeps_scanWords h)))))))))

theorem keeps_execInputVote {s0 s t : State} (h : Keeps s0 s) (e : execInputVote s = .next t) : Keeps s0 t := by
  cases e; exact (keeps_voteInputs h)

theorem keeps_execComparisonInstant {s0 s t : State} (h : Keeps s0 s) (e : execComparisonInstant s = .next t) : Keeps s0 t := by
  cases e; exact (keeps_compareOutputs h)

theorem keeps_takeForce {s0 s : State} {m : Fin 3} {f : Sys2Proof.ForceMsg} (h : Keeps s0 s) : Keeps s0 (takeForce m s f) := by
  unfold takeForce; exact (keeps_ite (by (try dsimp only); split; exacts [(keeps_forceChanged (keeps_enterRemoval h)), h]) (keeps_ite (keeps_updTrio h) (by (try dsimp only); split; exacts [(keeps_updTrio h), (keeps_ite (keeps_updTrio h) (keeps_forceChanged (keeps_enterForce h)))])))

theorem keeps_noteRefused {s0 s : State} {by_ : Fin 3} {p : BitVec 16} (h : Keeps s0 s) : Keeps s0 (noteRefused by_ p s) := by
  unfold noteRefused; exact (keeps_note h)

theorem keeps_dropForce {s0 s : State} {by_ : Fin 3} {p : BitVec 16} (h : Keeps s0 s) : Keeps s0 (dropForce by_ s p) := by
  unfold dropForce; exact (by (try dsimp only); split; exacts [h, (keeps_ite (keeps_noteRefused (keeps_refreshForceInd (keeps_putForce h))) h)])

theorem keeps_partnerForces {s0 s : State} (h : Keeps s0 s) : Keeps s0 (partnerForces s) := by
  unfold partnerForces; exact (keeps_ite h (keeps_foldl (fun _ _ h1 => (by (try dsimp only); split; exacts [(keeps_ite (keeps_foldl (fun _ _ h2 => (keeps_dropForce h2)) (keeps_foldl (fun _ _ h2 => (keeps_takeForce h2)) h1)) h1), h1])) (keeps_foldl (fun _ _ h1 => (keeps_noteRefused h1)) h)))

theorem keeps_diagnose {s0 s : State} {enginesPass : Bool} {loopReadsPass : Bool} (h : Keeps s0 s) : Keeps s0 (diagnose enginesPass loopReadsPass s) := by
  unfold diagnose; exact (by (try dsimp only); split; exacts [(keeps_ite (keeps_updTrio h) h), h])

theorem keeps_settleDiagnosis {s0 s : State} (h : Keeps s0 s) : Keeps s0 (settleDiagnosis s) := by
  unfold settleDiagnosis; exact (by (try dsimp only); split; exacts [h, (keeps_ite h (keeps_ite (keeps_giveUpWith h) (keeps_ite (keeps_giveUpWith h) h)))])

theorem keeps_sendRepair {s0 s : State} {m : Fin 3} {t : Sys2Proof.Machine.Task} (h : Keeps s0 s) : Keeps s0 (sendRepair m s t) := by
  unfold sendRepair; exact (keeps_foldl (fun _ _ h1 => (keeps_queueTrio h1)) (keeps_foldl (fun _ _ h1 => (keeps_scanSpan h1)) h))

theorem keeps_ownRepairs {s0 s : State} (h : Keeps s0 s) : Keeps s0 (ownRepairs s) := by
  unfold ownRepairs; exact (keeps_ite (keeps_updRun h) (keeps_ite (keeps_giveUp (keeps_updTrio (keeps_updRun h))) (keeps_updTrio (keeps_updRun h))))

theorem keeps_partnerRepairs {s0 s : State} (h : Keeps s0 s) : Keeps s0 (partnerRepairs s) := by
  unfold partnerRepairs; exact (keeps_drainTrio (keeps_foldl (fun _ _ h1 => (keeps_ite (keeps_foldl (fun _ _ h2 => (keeps_sendRepair h2)) (keeps_updTrio h1)) (keeps_updTrio h1))) h))

theorem keeps_decideFences {s0 s : State} (h : Keeps s0 s) : Keeps s0 (decideFences s) := by
  unfold decideFences; exact (keeps_foldl (fun _ _ h1 => (keeps_ite (keeps_driveFence h1) h1)) (keeps_foldl (fun _ _ h1 => (by (try dsimp only); split; exacts [(keeps_ite (keeps_driveFence h1) h1), h1])) h))

theorem keeps_judgeTest {s0 s : State} (h : Keeps s0 s) : Keeps s0 (judgeTest s) := by
  unfold judgeTest; exact (keeps_foldl (fun _ _ h1 => (by (try dsimp only); split; exacts [h1, (keeps_ite (keeps_updTrio h1) h1)])) (by (try dsimp only); split; exacts [h, (by (try dsimp only); split; exacts [h, (keeps_ite (keeps_raise (keeps_updTrio h)) (keeps_updTrio h))])]))

theorem keeps_endRejoin {s0 s : State} {code : Sys2Proof.Byte} (h : Keeps s0 s) : Keeps s0 (endRejoin code s) := by
  unfold endRejoin; exact (keeps_raise (keeps_ite (keeps_stopController (keeps_updTrio h)) (keeps_updTrio h)))

theorem keeps_copyAgain {s0 s : State} (h : Keeps s0 s) : Keeps s0 (copyAgain s) := by
  unfold copyAgain; exact (keeps_ite (keeps_stopController (keeps_updTrio h)) h)

theorem keeps_rejoinAtD {s0 s : State} {st : Option Sys2Proof.MemberStatus} {r : Sys2Proof.Roster} (h : Keeps s0 s) : Keeps s0 (rejoinAtD st r s) := by
  unfold rejoinAtD; exact (keeps_ite h (keeps_ite (keeps_endRejoin h) (keeps_ite (keeps_endRejoin h) (keeps_ite (keeps_ite (keeps_updTrio h) (keeps_endRejoin h)) (keeps_ite (keeps_updTrio (keeps_copyAgain h)) (by (try dsimp only); split; exacts [h, (keeps_ite (keeps_updTrio h) h)]))))))

theorem keeps_abortTrimsNext {s0 s : State} {r : Sys2Proof.Roster} (h : Keeps s0 s) : Keeps s0 (abortTrimsNext r s) := by
  unfold abortTrimsNext; exact (keeps_foldl (fun _ _ h1 => (keeps_ite (keeps_leaveTrim (keeps_updField h1)) h1)) h)

theorem keeps_decide_ {s0 s : State} (h : Keeps s0 s) : Keeps s0 (decide_ s) := by
  unfold decide_; exact (keeps_ite h (keeps_partnerRepairs (keeps_ownRepairs (keeps_abortTrimsNext (keeps_judgeTest (keeps_updTrio (keeps_rejoinAtD (keeps_ite (keeps_giveUp (keeps_ite (keeps_giveUp (keeps_updTrio (keeps_decideFences (keeps_ite (keeps_giveUp (keeps_foldl (fun _ _ h1 => (keeps_updPartner h1)) (keeps_settleDiagnosis (keeps_partnerForces h)))) (keeps_foldl (fun _ _ h1 => (keeps_updPartner h1)) (keeps_settleDiagnosis (keeps_partnerForces h))))))) (keeps_updTrio (keeps_decideFences (keeps_ite (keeps_giveUp (keeps_foldl (fun _ _ h1 => (keeps_updPartner h1)) (keeps_settleDiagnosis (keeps_partnerForces h)))) (keeps_foldl (fun _ _ h1 => (keeps_updPartner h1)) (keeps_settleDiagnosis (keeps_partnerForces h)))))))) (keeps_ite (keeps_giveUp (keeps_updTrio (keeps_decideFences (keeps_ite (keeps_giveUp (keeps_foldl (fun _ _ h1 => (keeps_updPartner h1)) (keeps_settleDiagnosis (keeps_partnerForces h)))) (keeps_foldl (fun _ _ h1 => (keeps_updPartner h1)) (keeps_settleDiagnosis (keeps_partnerForces h))))))) (keeps_updTrio (keeps_decideFences (keeps_ite (keeps_giveUp (keeps_foldl (fun _ _ h1 => (keeps_updPartner h1)) (keeps_settleDiagnosis (keeps_partnerForces h)))) (keeps_foldl (fun _ _ h1 => (keeps_updPartner h1)) (keeps_settleDiagnosis (keeps_partnerForces h)))))))))))))))

theorem keeps_exchangeMissing {s0 s : State} {p : Sys2Proof.TrioPort} {kind : BitVec 4} (h : Keeps s0 s) : Keeps s0 (exchangeMissing p kind s) := by
  unfold exchangeMissing; exact (keeps_ite h (keeps_bump (keeps_updPartner h)))

theorem keeps_cmdGiveUp {s0 s : State} (h : Keeps s0 s) : Keeps s0 (cmdGiveUp s) := by
  unfold cmdGiveUp; exact (keeps_ite (keeps_updTrio h) (keeps_ite (keeps_updTrio h) (keeps_ite (keeps_updTrio h) (keeps_giveUp (keeps_updTrio h)))))

theorem keeps_execDiagnosis {s0 s t : State} {enginesPass : Bool} {loopReadsPass : Bool} (h : Keeps s0 s) (e : execDiagnosis enginesPass loopReadsPass s = .next t) : Keeps s0 t := by
  cases e; exact (keeps_diagnose h)

theorem keeps_execExchangeMissing {s0 s t : State} {p : Sys2Proof.TrioPort} {kind : BitVec 4} (h : Keeps s0 s) (e : execExchangeMissing p kind s = .next t) : Keeps s0 t := by
  cases e; exact (keeps_exchangeMissing h)

theorem keeps_execFenceTestPulseEnd {s0 s t : State} (h : Keeps s0 s) (e : execFenceTestPulseEnd s = .next t) : Keeps s0 t := by
  cases e; exact (keeps_updTrio h)

theorem keeps_execFenceIn {s0 s t : State} (h : Keeps s0 s) (e : execFenceIn s = .next t) : Keeps s0 t := by
  cases e; exact (keeps_fenceActs (keeps_updTrio h))

theorem keeps_execFenceInNLow {s0 s t : State} (h : Keeps s0 s) (e : execFenceInNLow s = .next t) : Keeps s0 t := by
  cases e; exact (keeps_updTrio h)

theorem keeps_execTrioGiveUp {s0 s t : State} {q : Sys2Proof.Req} (h : Keeps s0 s) (e : execTrioGiveUp q s = .next t) : Keeps s0 t := by
  cases e; exact (keeps_onPage (fun _ h1 => (keeps_cmdGiveUp h1)) h)

theorem keeps_execSoloWarn {s0 s t : State} (h : Keeps s0 s) (e : execSoloWarn s = .next t) : Keeps s0 t := by
  cases e; exact (keeps_ite (keeps_raise h) h)

theorem keeps_execSoloExpired {s0 s t : State} (h : Keeps s0 s) (e : execSoloExpired s = .next t) : Keeps s0 t := by
  cases e; exact (keeps_ite (keeps_giveUp h) h)

theorem keeps_cmdRejoin {s0 s : State} (h : Keeps s0 s) : Keeps s0 (cmdRejoin s) := by
  unfold cmdRejoin; exact (keeps_ite (keeps_updTrio h) (keeps_ite (keeps_updTrio h) (keeps_ite (keeps_updTrio h) (keeps_ite (keeps_updTrio h) (keeps_ite (keeps_updTrio h) (keeps_updTrio (keeps_updTrio h)))))))

theorem keeps_formWith {s0 s : State} {ms : List (Fin 3)} (h : Keeps s0 s) : Keeps s0 (formWith ms s) := by
  unfold formWith; exact (keeps_raise (keeps_noteConds (keeps_updTrio (keeps_mk h))))

theorem keeps_proposeStart {s0 s : State} (h : Keeps s0 s) : Keeps s0 (proposeStart s) := by
  unfold proposeStart; exact (keeps_ite (keeps_updTrio h) h)

theorem keeps_formationEnd {s0 s : State} (h : Keeps s0 s) : Keeps s0 (formationEnd s) := by
  unfold formationEnd; exact (keeps_ite h (keeps_proposeStart (keeps_formWith h)))

theorem keeps_takeStart {s0 s : State} {m : Fin 3} {st : Sys2Proof.MemberStatus} (h : Keeps s0 s) : Keeps s0 (takeStart m st s) := by
  unfold takeStart; exact (by (try dsimp only); split; exacts [(keeps_updTrio h), h])

theorem keeps_hearForming {s0 s : State} {m : Fin 3} {st : Sys2Proof.MemberStatus} (h : Keeps s0 s) : Keeps s0 (hearForming m st s) := by
  unfold hearForming; exact (keeps_ite h (keeps_ite (keeps_ite (keeps_formWith (keeps_updPartner h)) (keeps_ite (keeps_cmdRejoin (keeps_noteConds (keeps_updRun (keeps_updTrio (keeps_mk (keeps_updPartner h)))))) (keeps_noteConds (keeps_updRun (keeps_updTrio (keeps_mk (keeps_updPartner h))))))) (keeps_ite (keeps_formationEnd (keeps_updPartner h)) (keeps_updPartner h))))

theorem keeps_hearEarly {s0 s : State} {m : Fin 3} {st : Sys2Proof.MemberStatus} (h : Keeps s0 s) : Keeps s0 (hearEarly m st s) := by
  unfold hearEarly; exact (keeps_ite (keeps_takeStart (keeps_ite (keeps_noteConds (keeps_updTrio (keeps_ite (keeps_hearForming h) (keeps_updPartner h)))) (keeps_ite (keeps_hearForming h) (keeps_updPartner h)))) (keeps_ite (keeps_noteConds (keeps_updTrio (keeps_ite (keeps_hearForming h) (keeps_updPartner h)))) (keeps_ite (keeps_hearForming h) (keeps_updPartner h))))

theorem keeps_announce {s0 s : State} (h : Keeps s0 s) : Keeps s0 (announce s) := by
  unfold announce; exact (keeps_ite h (keeps_drainTrio (keeps_queueStatus (keeps_ite h (keeps_sendAlign h)))))

theorem keeps_notePn {s0 s : State} {p : Sys2Proof.TrioPort} {f : Sys2Proof.TrioFrame} (h : Keeps s0 s) : Keeps s0 (notePn p f s) := by
  unfold notePn; exact (keeps_ite h (keeps_ite (keeps_updPort h) (keeps_updPort h)))

theorem keeps_discardTrio {s0 s : State} {p : Sys2Proof.TrioPort} {f : Sys2Proof.TrioFrame} (h : Keeps s0 s) : Keeps s0 (discardTrio p f s) := by
  unfold discardTrio; exact (keeps_ite (keeps_updPort (keeps_bump (keeps_bump h))) (keeps_raise (keeps_updPort (keeps_bump (keeps_bump h)))))

theorem keeps_landBank {s0 s : State} {p : Sys2Proof.TrioPort} {k : ℕ} {f : Sys2Proof.TrioFrame} {off : ℕ} {d : List Sys2Proof.Byte} (h : Keeps s0 s) : Keeps s0 (landBank p k f off d s) := by
  unfold landBank; exact (keeps_updTrio h)

theorem keeps_noteFlits {s0 s : State} {p : TrioPort} {k : ℕ} {g : TrioFrame} {f : State → State} (kf : ∀ x, Keeps s0 x → Keeps s0 (f x))
    (h : Keeps s0 s) : Keeps s0 (noteFlits p k g f s) := by
  unfold noteFlits; exact (keeps_ite (keeps_bump (kf _ (keeps_updTrio h))) (keeps_updTrio h))

theorem keeps_landFlits {s0 s : State} {p : Sys2Proof.TrioPort} {k : ℕ} {f : Sys2Proof.TrioFrame} (h : Keeps s0 s) : Keeps s0 (landFlits p k f s) := by
  unfold landFlits; exact (keeps_landBank h)

theorem keeps_landExchange {s0 s : State} {p : Sys2Proof.TrioPort} {k : ℕ} {f : Sys2Proof.TrioFrame} (h : Keeps s0 s) : Keeps s0 (landExchange p k f s) := by
  unfold landExchange; exact (keeps_ite h (keeps_ite (keeps_landFlits h) (keeps_noteFlits (fun _ h1 => h1) (keeps_landFlits h))))

theorem keeps_landStatus {s0 s : State} {p : Sys2Proof.TrioPort} {m : Fin 3} {f : Sys2Proof.TrioFrame} {st : Sys2Proof.MemberStatus} (h : Keeps s0 s) : Keeps s0 (landStatus p m f st s) := by
  unfold landStatus; exact (keeps_ite h (keeps_ite (keeps_ite (keeps_hearEarly (keeps_landFlits h)) (keeps_landFlits h)) (keeps_ite (keeps_landFlits h) (keeps_noteFlits (fun _ h1 => (keeps_updPartner h1)) (keeps_landFlits h)))))

theorem keeps_landTime {s0 s : State} {p : Sys2Proof.TrioPort} {d : List Sys2Proof.Byte} (h : Keeps s0 s) : Keeps s0 (landTime p d s) := by
  unfold landTime; exact (keeps_updTrio h)

theorem keeps_holdAlign {s0 s : State} {p : Sys2Proof.TrioPort} {m : Fin 3} {a : Sys2Proof.AlignData} (h : Keeps s0 s) : Keeps s0 (holdAlign p m a s) := by
  unfold holdAlign; exact (keeps_ite (keeps_updTb (keeps_updPartner h)) (keeps_updPartner h))

theorem keeps_takeT {s0 s : State} {m : Fin 3} {f : Sys2Proof.TrioFrame} (h : Keeps s0 s) : Keeps s0 (takeT m f s) := by
  unfold takeT; exact (keeps_ite (keeps_updTrio h) h)

theorem keeps_landAlign {s0 s : State} {p : Sys2Proof.TrioPort} {m : Fin 3} {f : Sys2Proof.TrioFrame} {a : Sys2Proof.AlignData} (h : Keeps s0 s) : Keeps s0 (landAlign p m f a s) := by
  unfold landAlign; exact (keeps_ite h (keeps_ite (keeps_ite (keeps_holdAlign (keeps_takeT (keeps_landFlits h))) (keeps_takeT (keeps_landFlits h))) (keeps_ite (keeps_takeT (keeps_landFlits h)) (keeps_noteFlits (fun _ h1 => (keeps_holdAlign h1)) (keeps_takeT (keeps_landFlits h))))))

theorem keeps_storeAt {s0 s : State} {a : Sys2Proof.Word} {d : List Sys2Proof.Byte} (h : Keeps s0 s) : Keeps s0 (storeAt a d s) := by
  unfold storeAt; exact (keeps_ite (keeps_poolPut h) (by (try dsimp only); split; exacts [(keeps_ite h (keeps_loopPut h)), h]))

theorem keeps_landRepair {s0 s : State} {p : Sys2Proof.TrioPort} {f : Sys2Proof.TrioFrame} {d : List Sys2Proof.Byte} (h : Keeps s0 s) : Keeps s0 (landRepair p f d s) := by
  unfold landRepair; exact (by (try dsimp only); split; exacts [h, (keeps_ite h (keeps_updTrio h))])

theorem keeps_landCopy {s0 s : State} {m : Fin 3} {bulk : Bool} {f : Sys2Proof.TrioFrame} {d : List Sys2Proof.Byte} (h : Keeps s0 s) : Keeps s0 (landCopy m bulk f d s) := by
  unfold landCopy; exact (keeps_ite h (keeps_ite (keeps_updTrio (keeps_storeAt h)) (keeps_storeAt h)))

theorem keeps_landFence {s0 s : State} {f : Sys2Proof.TrioFrame} (h : Keeps s0 s) : Keeps s0 (landFence f s) := by
  unfold landFence; exact (keeps_ite (keeps_fenceActs h) h)

theorem keeps_trioReceive {s0 s : State} {p : Sys2Proof.TrioPort} {f : Sys2Proof.TrioFrame} (h : Keeps s0 s) : Keeps s0 (trioReceive p f s) := by
  unfold trioReceive; exact (keeps_ite h (keeps_ite (keeps_notePn (keeps_discardTrio (keeps_bump h))) (by (try dsimp only); split; exacts [(keeps_ite (keeps_landStatus (keeps_notePn (keeps_bump h))) (keeps_notePn (keeps_bump h))), (keeps_ite (keeps_landAlign (keeps_notePn (keeps_bump h))) (keeps_notePn (keeps_bump h))), (by (try dsimp only); split; exacts [(keeps_landFence (keeps_notePn (keeps_bump h))), (keeps_landRepair (keeps_notePn (keeps_bump h))), (keeps_landCopy (keeps_notePn (keeps_bump h))), (keeps_landCopy (keeps_notePn (keeps_bump h))), (keeps_landTime (keeps_notePn (keeps_bump h))), (by (try dsimp only); split; exacts [(keeps_landExchange (keeps_notePn (keeps_bump h))), (keeps_notePn (keeps_bump h))])])])))

theorem keeps_trioLink {s0 s : State} {p : Sys2Proof.TrioPort} {up : Bool} (h : Keeps s0 s) : Keeps s0 (trioLink p up s) := by
  unfold trioLink; exact (keeps_ite h (keeps_raise (keeps_noteConds (keeps_updPort (keeps_updTrio h)))))

theorem keeps_rejoinTested {s0 s : State} {pass : Bool} (h : Keeps s0 s) : Keeps s0 (rejoinTested pass s) := by
  unfold rejoinTested; exact (keeps_ite h (keeps_ite (keeps_updTrio h) (keeps_endRejoin h)))

theorem keeps_cmdAbortRejoin {s0 s : State} (h : Keeps s0 s) : Keeps s0 (cmdAbortRejoin s) := by
  unfold cmdAbortRejoin; exact (keeps_ite (keeps_endRejoin h) h)

theorem keeps_commitPoint {s0 s : State} (h : Keeps s0 s) : Keeps s0 (commitPoint s) := by
  unfold commitPoint; exact (keeps_ite (keeps_endRejoin (keeps_decideBanks h)) (keeps_decideBanks h))

theorem keeps_execTrioFrameReceive {s0 s t : State} {p : Sys2Proof.TrioPort} {f : Sys2Proof.TrioFrame} (h : Keeps s0 s) (e : execTrioFrameReceive p f s = .next t) : Keeps s0 t := by
  cases e; exact (keeps_trioReceive h)

theorem keeps_execFenceFrameReceive {s0 s t : State} {p : Sys2Proof.TrioPort} {f : Sys2Proof.TrioFrame} (h : Keeps s0 s) (e : execFenceFrameReceive p f s = .next t) : Keeps s0 t := by
  cases e; exact (keeps_ite (keeps_trioReceive h) h)

theorem keeps_execTrioPortDown {s0 s t : State} {p : Sys2Proof.TrioPort} (h : Keeps s0 s) (e : execTrioPortDown p s = .next t) : Keeps s0 t := by
  cases e; exact (keeps_trioLink h)

theorem keeps_execTrioPortUp {s0 s t : State} {p : Sys2Proof.TrioPort} (h : Keeps s0 s) (e : execTrioPortUp p s = .next t) : Keeps s0 t := by
  cases e; exact (keeps_trioLink h)

theorem keeps_execTrioRejoin {s0 s t : State} {q : Sys2Proof.Req} (h : Keeps s0 s) (e : execTrioRejoin q s = .next t) : Keeps s0 t := by
  cases e; exact (keeps_onPage (fun _ h1 => (keeps_cmdRejoin h1)) h)

theorem keeps_execTrioAbortRejoin {s0 s t : State} {q : Sys2Proof.Req} (h : Keeps s0 s) (e : execTrioAbortRejoin q s = .next t) : Keeps s0 t := by
  cases e; exact (keeps_onPage (fun _ h1 => (keeps_cmdAbortRejoin h1)) h)

theorem keeps_execRejoinSelftestEnd {s0 s t : State} {pass : Bool} (h : Keeps s0 s) (e : execRejoinSelftestEnd pass s = .next t) : Keeps s0 t := by
  cases e; exact (keeps_rejoinTested h)

theorem keeps_execBulkCopyEnd {s0 s t : State} (h : Keeps s0 s) (e : execBulkCopyEnd s = .next t) : Keeps s0 t := by
  cases e; exact (keeps_ite (keeps_updTrio h) h)

theorem keeps_execFormationWaitEnd {s0 s t : State} (h : Keeps s0 s) (e : execFormationWaitEnd s = .next t) : Keeps s0 t := by
  cases e; exact (keeps_formationEnd h)

theorem keeps_execCommitPoint {s0 s t : State} (h : Keeps s0 s) (e : execCommitPoint s = .next t) : Keeps s0 t := by
  cases e; exact (keeps_commitPoint h)

theorem keeps_updEth {s0 s : State} {p : Fin 8} {f : Sys2Proof.Machine.EthPort → Sys2Proof.Machine.EthPort} (h : Keeps s0 s) : Keeps s0 (updEth p f s) := by
  unfold updEth; exact (keeps_updPort h)

theorem keeps_gateOpen {s0 s : State} {p : Fin 8} {entry : ℕ} (h : Keeps s0 s) : Keeps s0 (gateOpen p entry s) := by
  unfold gateOpen; exact (by (try dsimp only); split; exacts [(keeps_ite h (keeps_bump (keeps_updEth (keeps_reach h)))), h])

theorem keeps_gateClose {s0 s : State} {p : Fin 8} (h : Keeps s0 s) : Keeps s0 (gateClose p s) := by
  unfold gateClose; exact (keeps_elim h (fun _ => (keeps_reach h)))

theorem keeps_queueFrame {s0 s : State} {p : Fin 8} {f : Sys2Proof.Machine.QFrame} (h : Keeps s0 s) : Keeps s0 (queueFrame p f s) := by
  unfold queueFrame; exact (keeps_updEth h)

theorem keeps_returnTx {s0 s : State} {p : Fin 8} {i : BitVec 12} {err : Bool} (h : Keeps s0 s) : Keeps s0 (returnTx p i err s) := by
  unfold returnTx; exact (keeps_mkSram h (fun w => (memWf_write _ _ w)))

theorem keeps_advanceTx {s0 s : State} {p : Fin 8} (h : Keeps s0 s) : Keeps s0 (advanceTx p s) := by
  unfold advanceTx; exact (keeps_updEth h)

theorem keeps_stampFrames {s0 s : State} {f : Sys2Proof.Machine.QFrame} (h : Keeps s0 s) : Keeps s0 (stampFrames f s) := by
  unfold stampFrames; exact (keeps_ite (keeps_mk h) h)

theorem keeps_startFrame {s0 s : State} {p : Fin 8} (h : Keeps s0 s) : Keeps s0 (startFrame p s) := by
  unfold startFrame; exact (keeps_ite h (by (try dsimp only); split; exacts [h, (keeps_send (keeps_updEth (keeps_stampFrames h)))]))

theorem keeps_frameSent {s0 s : State} {p : Fin 8} (h : Keeps s0 s) : Keeps s0 (frameSent p s) := by
  unfold frameSent; exact (by (try dsimp only); split; exacts [h, (by (try dsimp only); split; exacts [(keeps_advanceTx (keeps_returnTx (keeps_ite (keeps_raise (keeps_updEth (keeps_bump (keeps_updEth h)))) (keeps_bump (keeps_updEth h))))), (keeps_ite (keeps_raise (keeps_updEth (keeps_bump (keeps_updEth h)))) (keeps_bump (keeps_updEth h)))])])

theorem keeps_takeTx {s0 s : State} {p : Fin 8} {i : BitVec 12} (h : Keeps s0 s) : Keeps s0 (takeTx p s i) := by
  unfold takeTx; exact (keeps_ite (keeps_returnTx (keeps_updEth h)) (keeps_ite (keeps_raise (keeps_returnTx (keeps_updEth h))) (keeps_ite (keeps_updEth (keeps_updEth (keeps_updEth h))) (keeps_updEth h))))

theorem keeps_writeTxTail {s0 s : State} {p : Fin 8} {v : BitVec 12} (h : Keeps s0 s) : Keeps s0 (writeTxTail p v s) := by
  unfold writeTxTail; exact (keeps_ite (keeps_updEth h) (keeps_advanceTx (keeps_foldl (fun _ _ h1 => (keeps_takeTx h1)) (keeps_updEth h))))

theorem keeps_noteReceipt {s0 s : State} {p : Fin 8} {f : Sys2Proof.EthFrame} (h : Keeps s0 s) : Keeps s0 (noteReceipt p f s) := by
  unfold noteReceipt; exact (by (try dsimp only); split; exacts [(keeps_ite (keeps_updEth h) h), h])

theorem keeps_deliverRx {s0 s : State} {p : Fin 8} {f : Sys2Proof.EthFrame} (h : Keeps s0 s) : Keeps s0 (deliverRx p f s) := by
  unfold deliverRx; exact (keeps_ite (keeps_updEth (keeps_bump h)) (keeps_updEth (keeps_mkSram h (fun w => (memWf_write _ _ (memWf_write _ _ w))))))

theorem keeps_firmwareFrame {s0 s : State} {p : Fin 8} {f : Sys2Proof.EthFrame} (h : Keeps s0 s) : Keeps s0 (firmwareFrame p f s) := by
  unfold firmwareFrame; exact (keeps_ite (keeps_updEth (keeps_bump h)) (keeps_ite (keeps_bump h) (by (try dsimp only); split; exacts [(keeps_deliverRx (keeps_noteReceipt h)), (keeps_ite (keeps_updEth (keeps_bump (keeps_noteReceipt h))) (keeps_deliverRx (keeps_updEth (keeps_noteReceipt h))))])))

theorem keeps_writeRxTail {s0 s : State} {p : Fin 8} {v : BitVec 12} (h : Keeps s0 s) : Keeps s0 (writeRxTail p v s) := by
  unfold writeRxTail; exact (keeps_updEth h)

theorem keeps_linkChange {s0 s : State} {p : Fin 8} {up : Bool} (h : Keeps s0 s) : Keeps s0 (linkChange p up s) := by
  unfold linkChange; exact (keeps_noteConds (keeps_updEth h))

theorem keeps_cmdRotate {s0 s : State} {p : Sys2Proof.TrioPort} (h : Keeps s0 s) : Keeps s0 (cmdRotate p s) := by
  unfold cmdRotate; exact (keeps_ite (keeps_updPort h) (keeps_ite (keeps_updPort h) (keeps_ite (keeps_updPort h) (keeps_updPort (keeps_updPort h)))))

theorem keeps_takeNextKey {s0 s : State} {p : Sys2Proof.TrioPort} (h : Keeps s0 s) : Keeps s0 (takeNextKey p s) := by
  unfold takeNextKey; exact (by (try dsimp only); split; exacts [(keeps_updPort (keeps_updStore h)), h])

theorem keeps_rotateKey {s0 s : State} {p : Sys2Proof.TrioPort} (h : Keeps s0 s) : Keeps s0 (rotateKey p s) := by
  unfold rotateKey; exact (by (try dsimp only); split; exacts [(keeps_ite h (keeps_updPort (keeps_takeNextKey h))), h])

theorem keeps_ageKeys {s0 s : State} (h : Keeps s0 s) : Keeps s0 (ageKeys s) := by
  unfold ageKeys; exact (keeps_mk h)

theorem keeps_endOverlap {s0 s : State} {p : Sys2Proof.TrioPort} (h : Keeps s0 s) : Keeps s0 (endOverlap p s) := by
  unfold endOverlap; exact (by (try dsimp only); split; exacts [(keeps_ite h (keeps_updPort (keeps_ite (keeps_reach h) h))), h])

theorem keeps_execEthFrameTransmitStart {s0 s t : State} {port : Fin 8} (h : Keeps s0 s) (e : execEthFrameTransmitStart port s = .next t) : Keeps s0 t := by
  cases e; exact (keeps_startFrame h)

theorem keeps_execEthFrameSent {s0 s t : State} {port : Fin 8} (h : Keeps s0 s) (e : execEthFrameSent port s = .next t) : Keeps s0 t := by
  cases e; exact (keeps_frameSent h)

theorem keeps_execGateWindowOpen {s0 s t : State} {port : Fin 8} {entry : ℕ} (h : Keeps s0 s) (e : execGateWindowOpen port entry s = .next t) : Keeps s0 t := by
  cases e; exact (keeps_gateOpen h)

theorem keeps_execGateWindowClose {s0 s t : State} {port : Fin 8} (h : Keeps s0 s) (e : execGateWindowClose port s = .next t) : Keeps s0 t := by
  cases e; exact (keeps_gateClose h)

theorem keeps_execEthTxqTailWrite {s0 s t : State} {q : Sys2Proof.Req} {port : Fin 8} {val : BitVec 12} (h : Keeps s0 s) (e : execEthTxqTailWrite q port val s = .next t) : Keeps s0 t := by
  cases e; exact (keeps_onPage (fun _ h1 => (keeps_writeTxTail h1)) h)

theorem keeps_execEthRxqTailWrite {s0 s t : State} {q : Sys2Proof.Req} {port : Fin 8} {val : BitVec 12} (h : Keeps s0 s) (e : execEthRxqTailWrite q port val s = .next t) : Keeps s0 t := by
  cases e; exact (keeps_onPage (fun _ h1 => (keeps_writeRxTail h1)) h)

theorem keeps_execEthLinkChange {s0 s t : State} {port : Fin 8} {up : Bool} (h : Keeps s0 s) (e : execEthLinkChange port up s = .next t) : Keeps s0 t := by
  cases e; exact (keeps_linkChange h)

theorem keeps_execTrpRotate {s0 s t : State} {q : Sys2Proof.Req} {p : Sys2Proof.TrioPort} (h : Keeps s0 s) (e : execTrpRotate q p s = .next t) : Keeps s0 t := by
  cases e; exact (keeps_onPage (fun _ h1 => (keeps_cmdRotate h1)) h)

theorem keeps_execKeyRotateEffect {s0 s t : State} {p : Sys2Proof.TrioPort} (h : Keeps s0 s) (e : execKeyRotateEffect p s = .next t) : Keeps s0 t := by
  cases e; exact (keeps_rotateKey h)

theorem keeps_execKeyOverlapEnd {s0 s t : State} {p : Sys2Proof.TrioPort} (h : Keeps s0 s) (e : execKeyOverlapEnd p s = .next t) : Keeps s0 t := by
  cases e; exact (keeps_endOverlap h)

theorem keeps_updStation {s0 s : State} {n : Fin 256} {f : Sys2Proof.Machine.StationRt → Sys2Proof.Machine.StationRt} (h : Keeps s0 s) : Keeps s0 (updStation n f s) := by
  unfold updStation; exact (keeps_updRun h)

theorem keeps_keacoReceive {s0 s : State} {p : Fin 8} {f : Sys2Proof.EthFrame} (h : Keeps s0 s) : Keeps s0 (keacoReceive p f s) := by
  unfold keacoReceive; exact (by (try dsimp only); split; exacts [h, (keeps_ite h (keeps_updStation h))])

theorem keeps_callErrorTask {s0 s : State} {ten : BitVec 3} {n : Fin 256} {reason : BitVec 4} (h : Keeps s0 s) : Keeps s0 (callErrorTask ten n reason s) := by
  unfold callErrorTask; exact (keeps_ite (keeps_updRun h) (keeps_note (keeps_updRun h)))

theorem keeps_deliverCalls {s0 s : State} {x : BitVec 3 × ℕ} (h : Keeps s0 s) : Keeps s0 (deliverCalls s x) := by
  unfold deliverCalls; exact (keeps_updRun (keeps_updPool (fun _ w => (memWf_write _ _ w)) h))

theorem keeps_deliverAllCalls {s0 s : State} (h : Keeps s0 s) : Keeps s0 (deliverAllCalls s) := by
  unfold deliverAllCalls; exact (keeps_ite (keeps_foldl (fun _ _ h1 => (keeps_deliverCalls h1)) h) (keeps_updRun h))

theorem keeps_substPoint {s0 s : State} {n : Fin 256} {x : Sys2Proof.Machine.Place × Sys2Proof.Machine.Subst} (h : Keeps s0 s) : Keeps s0 (substPoint n s x) := by
  unfold substPoint; exact (by (try dsimp only [drawFree]); exact (keeps_updStation (keeps_mk h)))

theorem keeps_substitute {s0 s : State} {c : Sys2Proof.Machine.StationCfg} (h : Keeps s0 s) : Keeps s0 (substitute c s) := by
  unfold substitute; exact (keeps_foldl (fun _ _ h1 => (keeps_substPoint h1)) (keeps_updStation h))

theorem keeps_takeValues {s0 s : State} {c : Sys2Proof.Machine.StationCfg} {d : List Sys2Proof.Byte} (h : Keeps s0 s) : Keeps s0 (takeValues c d s) := by
  unfold takeValues; exact (keeps_updStation h)

theorem keeps_scanStep {s0 s : State} {c : Sys2Proof.Machine.StationCfg} {got : Option (List Sys2Proof.Byte)} (h : Keeps s0 s) : Keeps s0 (scanStep c got s) := by
  unfold scanStep; exact (by (try dsimp only); split; exacts [(keeps_ite (keeps_takeValues (keeps_updStation h)) (keeps_ite (keeps_callErrorTask (keeps_raise (keeps_takeValues (keeps_updStation (keeps_updStation (keeps_updStation h)))))) (keeps_substitute (keeps_updStation (keeps_updStation h))))), (keeps_ite (keeps_substitute (keeps_updStation h)) (keeps_ite (keeps_callErrorTask (keeps_raise (keeps_substitute (keeps_updStation (keeps_updStation h))))) (keeps_updStation h)))])

theorem keeps_stationScan {s0 s : State} {n : Fin 256} (h : Keeps s0 s) : Keeps s0 (stationScan n s) := by
  unfold stationScan; exact (by (try dsimp only); split; exacts [h, (keeps_updStation (keeps_scanStep (keeps_updStation (keeps_bump h))))])

theorem keeps_queueKeaco {s0 s : State} {held : Bool} {n : Fin 256} (h : Keeps s0 s) : Keeps s0 (queueKeaco held n s) := by
  unfold queueKeaco; exact (by (try dsimp only); split; exacts [h, (keeps_ite h (keeps_queueFrame (keeps_queueFrame (keeps_updStation h))))])

theorem keeps_keacoArrives {s0 s : State} {p : Fin 8} {f : Sys2Proof.EthFrame} (h : Keeps s0 s) : Keeps s0 (keacoArrives p f s) := by
  unfold keacoArrives; exact (keeps_ite h (keeps_ite (keeps_bump (keeps_bump h)) (keeps_ite (keeps_updEth (keeps_bump (keeps_bump h))) (keeps_keacoReceive (keeps_bump h)))))

theorem keeps_execKeacoFrameReceive {s0 s t : State} {port : Fin 8} {f : Sys2Proof.EthFrame} (h : Keeps s0 s) (e : execKeacoFrameReceive port f s = .next t) : Keeps s0 t := by
  cases e; exact (keeps_keacoArrives h)

theorem keeps_updSafety {s0 s : State} {f : Sys2Proof.Machine.Safety → Sys2Proof.Machine.Safety} (h : Keeps s0 s) : Keeps s0 (updSafety f s) := by
  unfold updSafety; exact (keeps_mk h)

theorem keeps_takeSeal {s0 s : State} (h : Keeps s0 s) : Keeps s0 (takeSeal s) := by
  unfold takeSeal; exact (keeps_ite h (keeps_ite (keeps_ite (keeps_raise (keeps_updSafety h)) (keeps_updSafety h)) (keeps_sealRemovesForces (keeps_ite (keeps_raise (keeps_updSafety h)) (keeps_updSafety h)))))

theorem keeps_sealMs {s0 s : State} (h : Keeps s0 s) : Keeps s0 (sealMs s) := by
  unfold sealMs; exact (keeps_ite h (keeps_announce (keeps_takeSeal (keeps_ite (keeps_latchDi h) h))))

theorem keeps_startFuncs {s0 s : State} (h : Keeps s0 s) : Keeps s0 (startFuncs s) := by
  unfold startFuncs; exact (keeps_foldl (fun _ _ h1 => (keeps_updFunc h1)) h)

theorem keeps_enterSafeHold {s0 s : State} (h : Keeps s0 s) : Keeps s0 (enterSafeHold s) := by
  unfold enterSafeHold; exact (by (try dsimp only); split; exacts [h, (keeps_note (keeps_safeOutputs (keeps_startFuncs (keeps_updField (keeps_updRun (keeps_updSafety h))))))])

theorem keeps_becomeReady {s0 s : State} (h : Keeps s0 s) : Keeps s0 (becomeReady s) := by
  unfold becomeReady; exact (keeps_updTrio (keeps_mk h))

theorem keeps_leaveSafeHold {s0 s : State} (h : Keeps s0 s) : Keeps s0 (leaveSafeHold s) := by
  unfold leaveSafeHold; exact (keeps_ite (keeps_note (keeps_startFuncs (keeps_updRun (keeps_becomeReady (keeps_updSafety h))))) h)

theorem keeps_judgeOutputs {s0 s : State} (h : Keeps s0 s) : Keeps s0 (judgeOutputs s) := by
  unfold judgeOutputs; exact (keeps_updSafety h)

theorem keeps_decideReset {s0 s : State} {d : ℕ} {bad : Bool} {c : Sys2Proof.Machine.FuncCfg} (h : Keeps s0 s) : Keeps s0 (decideReset d bad s c) := by
  unfold decideReset; exact (keeps_ite (keeps_setFunc (keeps_updFunc (keeps_raise (keeps_updSafety h)))) (keeps_raise (keeps_updSafety h)))

theorem keeps_endPress {s0 s : State} {p : BitVec 16} {d : ℕ} {bad : Bool} (h : Keeps s0 s) : Keeps s0 (endPress p d bad s) := by
  unfold endPress; exact (keeps_foldl (fun _ _ h1 => (keeps_decideReset h1)) h)

theorem keeps_watchReset {s0 s : State} {p : BitVec 16} (h : Keeps s0 s) : Keeps s0 (watchReset s p) := by
  unfold watchReset; exact (by (try dsimp only); split; exacts [h, (by (try dsimp only); split; exacts [(keeps_ite (keeps_updSafety (keeps_updSafety h)) (keeps_endPress (keeps_updSafety (keeps_updSafety h)))), (keeps_ite (keeps_updSafety (keeps_updSafety h)) (keeps_updSafety h))])])

theorem keeps_holdEnds {s0 s : State} {c : Sys2Proof.Machine.FuncCfg} (h : Keeps s0 s) : Keeps s0 (holdEnds c s) := by
  unfold holdEnds; exact (keeps_ite (keeps_setFunc h) h)

theorem keeps_reacts {s0 s : State} {c : Sys2Proof.Machine.FuncCfg} {k : BitVec 4} (h : Keeps s0 s) : Keeps s0 (reacts c k s) := by
  unfold reacts; exact (keeps_ite (keeps_setFunc h) (keeps_updFunc (keeps_setFunc h)))

theorem keeps_scanFunc {s0 s : State} {c : Sys2Proof.Machine.FuncCfg} (h : Keeps s0 s) : Keeps s0 (scanFunc s c) := by
  unfold scanFunc; exact (by (try dsimp only); split; exacts [(by (try dsimp only); split; exacts [(keeps_updFunc h), (keeps_reacts (keeps_updFunc h))]), (keeps_ite (keeps_setFunc (keeps_updFunc (keeps_updFunc h))) (keeps_holdEnds (keeps_updFunc (keeps_updFunc h)))), (keeps_ite (keeps_setFunc (keeps_updFunc h)) (keeps_updFunc h)), (keeps_updFunc h)])

theorem keeps_driveFunc {s0 s : State} {c : Sys2Proof.Machine.FuncCfg} (h : Keeps s0 s) : Keeps s0 (driveFunc s c) := by
  unfold driveFunc; exact (by (try dsimp only); split; exacts [h, (keeps_foldl (fun _ _ h1 => (keeps_updPool (fun _ w => (memWf_putValue w)) h1)) h), (keeps_foldl (fun _ _ h1 => (keeps_updPool (fun _ w => (memWf_putValue w)) h1)) h), (keeps_foldl (fun _ _ h1 => (keeps_updPool (fun _ w => (memWf_putValue w)) h1)) h)])

theorem keeps_forceOutputs {s0 s : State} (h : Keeps s0 s) : Keeps s0 (forceOutputs s) := by
  unfold forceOutputs; exact (keeps_foldl (fun _ _ h1 => (keeps_elim h1 (fun _ => (keeps_updPool (fun _ w => (memWf_putValue w)) h1)))) h)

theorem keeps_stoppedSafe {s0 s : State} (h : Keeps s0 s) : Keeps s0 (stoppedSafe s) := by
  unfold stoppedSafe; exact (keeps_foldl (fun _ _ h1 => (keeps_ite (keeps_updPool (fun _ w => (memWf_putValue w)) h1) h1)) h)

theorem keeps_closeRound {s0 s : State} (h : Keeps s0 s) : Keeps s0 (closeRound s) := by
  unfold closeRound; exact (keeps_ite h (keeps_forwardChanges (keeps_foldl (fun _ _ h1 => (keeps_driveFunc h1)) (keeps_stoppedSafe (keeps_foldl (fun _ _ h1 => (keeps_scanFunc h1)) (keeps_foldl (fun _ _ h1 => (keeps_watchReset h1)) (keeps_forceOutputs (keeps_scanWords h))))))))

theorem keeps_lateCause {s0 s : State} {c : Sys2Proof.Machine.FuncCfg} (h : Keeps s0 s) : Keeps s0 (lateCause s c) := by
  unfold lateCause; exact (keeps_driveFunc (by (try dsimp only); split; exacts [(keeps_reacts (keeps_updFunc h)), (keeps_updFunc (keeps_updFunc h)), (keeps_updFunc h), (keeps_updFunc h)]))

theorem keeps_lateReactions {s0 s : State} {tasks : List (BitVec 3 × BitVec 8)} (h : Keeps s0 s) : Keeps s0 (lateReactions tasks s) := by
  unfold lateReactions; exact (keeps_foldl (fun _ _ h1 => (keeps_lateCause h1)) h)

theorem keeps_noteCommitted {s0 s : State} {which : Sys2Proof.Machine.OutPoint → Bool} (h : Keeps s0 s) : Keeps s0 (noteCommitted which s) := by
  unfold noteCommitted; exact (keeps_updRun h)

theorem keeps_stoppedHolds {s0 s : State} (h : Keeps s0 s) : Keeps s0 (stoppedHolds s) := by
  unfold stoppedHolds; exact (keeps_ite h (keeps_ite (keeps_foldl (fun _ _ h1 => (keeps_setFunc h1)) h) (keeps_safeOutputs (keeps_foldl (fun _ _ h1 => (keeps_setFunc h1)) h))))

theorem keeps_updConn {s0 s : State} {n : Fin 256} {f : Sys2Proof.Machine.ConnRt → Sys2Proof.Machine.ConnRt} (h : Keeps s0 s) : Keeps s0 (updConn n f s) := by
  unfold updConn; exact (keeps_updSafety h)

theorem keeps_setConn {s0 s : State} {c : Sys2Proof.Machine.ConnCfg} {new : Sys2Proof.Machine.ConnState} (h : Keeps s0 s) : Keeps s0 (setConn c new s) := by
  unfold setConn; exact (keeps_ite h (keeps_ite (keeps_raise (keeps_raise (keeps_updConn h))) (keeps_raise (keeps_updConn h))))

theorem keeps_connReaction {s0 s : State} {c : Sys2Proof.Machine.ConnCfg} (h : Keeps s0 s) : Keeps s0 (connReaction c s) := by
  unfold connReaction; exact (keeps_setConn (keeps_updConn h))

theorem keeps_acceptPair {s0 s : State} {c : Sys2Proof.Machine.ConnCfg} {seq : Sys2Proof.Word} {bs : List Sys2Proof.Byte} {lan : Option (BitVec 2)} (h : Keeps s0 s) : Keeps s0 (acceptPair c seq bs lan s) := by
  unfold acceptPair; exact (keeps_ite (keeps_setConn (keeps_bump (keeps_updConn h))) (keeps_updConn (keeps_setConn (keeps_bump (keeps_updConn h)))))

theorem keeps_discardCopy {s0 s : State} {c : Sys2Proof.Machine.ConnCfg} (h : Keeps s0 s) : Keeps s0 (discardCopy c s) := by
  unfold discardCopy; exact (keeps_bump (keeps_updConn h))

theorem keeps_pairCopy {s0 s : State} {c : Sys2Proof.Machine.ConnCfg} {onB : Bool} {seq : Sys2Proof.Word} {d : List Sys2Proof.Byte} (h : Keeps s0 s) : Keeps s0 (pairCopy c onB seq d s) := by
  unfold pairCopy; exact (by (try dsimp only); split; exacts [(keeps_updConn h), (keeps_ite (keeps_discardCopy h) (keeps_ite (keeps_acceptPair (keeps_updConn h)) (keeps_connReaction (keeps_updConn (keeps_updConn h)))))])

theorem keeps_connCopy {s0 s : State} {c : Sys2Proof.Machine.ConnCfg} {onB : Bool} {d : List Sys2Proof.Byte} (h : Keeps s0 s) : Keeps s0 (connCopy c onB d s) := by
  unfold connCopy; exact (keeps_ite (keeps_discardCopy h) (keeps_ite (keeps_pairCopy h) (keeps_ite (keeps_bump (keeps_updConn h)) (keeps_discardCopy h))))

theorem keeps_safetyReceive {s0 s : State} {p : Fin 8} {f : Sys2Proof.EthFrame} (h : Keeps s0 s) : Keeps s0 (safetyReceive p f s) := by
  unfold safetyReceive; exact (keeps_ite h (by (try dsimp only); split; exacts [(keeps_connCopy h), (keeps_bump h)]))

theorem keeps_pairEnds {s0 s : State} {n : Fin 256} (h : Keeps s0 s) : Keeps s0 (pairEnds n s) := by
  unfold pairEnds; exact (by (try dsimp only); split; exacts [(keeps_acceptPair (keeps_updConn h)), h])

theorem keeps_connValues {s0 s : State} {c : Sys2Proof.Machine.ConnCfg} (h : Keeps s0 s) : Keeps s0 (connValues c s) := by
  unfold connValues; exact (keeps_ite (keeps_foldl (fun _ _ h1 => (keeps_ite h1 (keeps_updPool (fun _ w => (memWf_putStatus w)) h1))) (keeps_updPool (fun _ w => (memWf_write _ _ w)) h)) (keeps_foldl (fun _ _ h1 => (keeps_applySubst h1)) h))

theorem keeps_connScan {s0 s : State} {c : Sys2Proof.Machine.ConnCfg} (h : Keeps s0 s) : Keeps s0 (connScan s c) := by
  unfold connScan; exact (keeps_connValues (by (try dsimp only); split; exacts [(keeps_updConn h), (keeps_ite (keeps_connReaction h) h)]))

theorem keeps_scanConns {s0 s : State} (h : Keeps s0 s) : Keeps s0 (scanConns s) := by
  unfold scanConns; exact (keeps_foldl (fun _ _ h1 => (keeps_connScan h1)) h)

theorem keeps_queueSafety {s0 s : State} {n : Fin 256} (h : Keeps s0 s) : Keeps s0 (queueSafety n s) := by
  unfold queueSafety; exact (by (try dsimp only); split; exacts [h, (keeps_ite h (keeps_ite (keeps_scanPool h) (keeps_queueFrame (keeps_queueFrame (keeps_updConn (keeps_scanPool h))))))])

theorem keeps_safetyArrives {s0 s : State} {p : Fin 8} {f : Sys2Proof.EthFrame} (h : Keeps s0 s) : Keeps s0 (safetyArrives p f s) := by
  unfold safetyArrives; exact (keeps_ite h (keeps_ite (keeps_bump (keeps_bump h)) (keeps_ite (keeps_updEth (keeps_bump (keeps_bump h))) (keeps_safetyReceive (keeps_bump h)))))

theorem keeps_frameArrives {s0 s : State} {p : Fin 8} {f : Sys2Proof.EthFrame} (h : Keeps s0 s) : Keeps s0 (frameArrives p f s) := by
  unfold frameArrives; exact (keeps_ite (keeps_keacoArrives h) (keeps_ite (keeps_safetyArrives h) (keeps_ite h (keeps_firmwareFrame (keeps_bump h)))))

theorem keeps_execSealReadMs {s0 s t : State} (h : Keeps s0 s) (e : execSealReadMs s = .next t) : Keeps s0 t := by
  cases e; exact (keeps_sealMs h)

theorem keeps_execSafeHoldLeave {s0 s t : State} (h : Keeps s0 s) (e : execSafeHoldLeave s = .next t) : Keeps s0 t := by
  cases e; exact (keeps_leaveSafeHold h)

theorem keeps_execSafetyFrameReceive {s0 s t : State} {port : Fin 8} {f : Sys2Proof.EthFrame} (h : Keeps s0 s) (e : execSafetyFrameReceive port f s = .next t) : Keeps s0 t := by
  cases e; exact (keeps_safetyArrives h)

theorem keeps_execPairWindowEnd {s0 s t : State} {conn : Fin 256} (h : Keeps s0 s) (e : execPairWindowEnd conn s = .next t) : Keeps s0 t := by
  cases e; exact (keeps_pairEnds h)

theorem keeps_execSafetyFrameQueue {s0 s t : State} {conn : Fin 256} (h : Keeps s0 s) (e : execSafetyFrameQueue conn s = .next t) : Keeps s0 t := by
  cases e; exact (keeps_queueSafety h)

theorem keeps_execRoundClose {s0 s t : State} (h : Keeps s0 s) (e : execRoundClose s = .next t) : Keeps s0 t := by
  cases e; exact (keeps_closeRound h)

theorem keeps_execDecisionInstant {s0 s t : State} (h : Keeps s0 s) (e : execDecisionInstant s = .next t) : Keeps s0 t := by
  cases e; exact (keeps_ite (keeps_lateReactions (keeps_decide_ h)) (keeps_decide_ h))

theorem keeps_execEthFrameReceive {s0 s t : State} {port : Fin 8} {f : Sys2Proof.EthFrame} (h : Keeps s0 s) (e : execEthFrameReceive port f s = .next t) : Keeps s0 t := by
  cases e; exact (keeps_frameArrives h)

theorem keeps_canStore {s0 s : State} {c : Fin 16} {f : Sys2Proof.CanFrame} {at_ : Sys2Proof.Machine.Instant} (h : Keeps s0 s) : Keeps s0 (canStore c f at_ s) := by
  unfold canStore; exact (by (try dsimp only); split; exacts [(keeps_updCan h), (keeps_ite (keeps_raise (keeps_ite (keeps_raise (keeps_bump (keeps_updCan h))) (keeps_bump (keeps_updCan h)))) (keeps_ite (keeps_raise (keeps_bump (keeps_updCan h))) (keeps_bump (keeps_updCan h))))])

theorem keeps_adoptRate {s0 s : State} {c : Fin 16} (h : Keeps s0 s) : Keeps s0 (adoptRate c s) := by
  unfold adoptRate; exact (keeps_raise (keeps_updCan h))

theorem keeps_nextCandidate {s0 s : State} {c : Fin 16} (h : Keeps s0 s) : Keeps s0 (nextCandidate c s) := by
  unfold nextCandidate; exact (keeps_updCan h)

theorem keeps_canHeard {s0 s : State} {c : Fin 16} (h : Keeps s0 s) : Keeps s0 (canHeard c s) := by
  unfold canHeard; exact (keeps_ite h (keeps_ite (keeps_noteConds (keeps_updCan h)) (by (try dsimp only [drawFree]); exact (keeps_noteConds (keeps_updCan (keeps_mk h))))))

theorem keeps_canSentWell {s0 s : State} {c : Fin 16} (h : Keeps s0 s) : Keeps s0 (canSentWell c s) := by
  unfold canSentWell; exact (keeps_ite h (keeps_noteConds (keeps_updCan h)))

theorem keeps_canCompete {s0 s : State} {c : Fin 16} (h : Keeps s0 s) : Keeps s0 (canCompete c s) := by
  unfold canCompete; exact (keeps_ite h (by (try dsimp only [drawFree]); exact (keeps_ite (keeps_updCan (keeps_mk h)) (keeps_mk h))))

theorem keeps_raiseTx {s0 s : State} {c : Fin 16} {b : Fin 64} (h : Keeps s0 s) : Keeps s0 (raiseTx c b s) := by
  unfold raiseTx; exact (keeps_ite (keeps_raise h) h)

theorem keeps_canCancelled {s0 s : State} {c : Fin 16} {b : Fin 64} (h : Keeps s0 s) : Keeps s0 (canCancelled c b s) := by
  unfold canCancelled; exact (keeps_raiseTx (keeps_updCan h))

theorem keeps_canEnd {s0 s : State} {c : Fin 16} {how : Sys2Proof.CanTxEnd} {ago : ℕ} (h : Keeps s0 s) : Keeps s0 (canEnd c how ago s) := by
  unfold canEnd; exact (keeps_ite h (by (try dsimp only); split; exacts [h, (by (try dsimp only); split; exacts [(keeps_canCompete (keeps_raiseTx (keeps_canSentWell (keeps_send (keeps_bump (keeps_updCan (keeps_updCan h))))))), (keeps_ite (keeps_canCompete (keeps_canCancelled (keeps_bump (keeps_updCan h)))) (keeps_bump (keeps_updCan h))), (keeps_ite (keeps_canCompete (keeps_canCancelled (keeps_updCan h))) (keeps_updCan h))])]))

theorem keeps_canReceive {s0 s : State} {c : Fin 16} {f : Sys2Proof.CanFrame} {ago : ℕ} (h : Keeps s0 s) : Keeps s0 (canReceive c f ago s) := by
  unfold canReceive; exact (by (try dsimp only); split; exacts [h, (keeps_ite h (keeps_canCompete (keeps_canHeard (keeps_canStore h)))), (keeps_canHeard (keeps_canStore h)), (by (try dsimp only); split; exacts [(keeps_updCan h), (keeps_canStore (keeps_canStore (keeps_adoptRate h)))])])

theorem keeps_canReq {s0 s : State} {c : Fin 16} {b : Fin 64} (h : Keeps s0 s) : Keeps s0 (canReq c b s) := by
  unfold canReq; exact (keeps_ite (keeps_updCan h) (keeps_ite h (keeps_canCompete (keeps_updCan h))))

theorem keeps_canCancel {s0 s : State} {c : Fin 16} {b : Fin 64} (h : Keeps s0 s) : Keeps s0 (canCancel c b s) := by
  unfold canCancel; exact (keeps_ite (keeps_updCan h) (keeps_ite (keeps_updCan (keeps_canCompete h)) (keeps_canCancelled (keeps_canCompete h))))

theorem keeps_canUnlock {s0 s : State} {c : Fin 16} (h : Keeps s0 s) : Keeps s0 (canUnlock c s) := by
  unfold canUnlock; exact (keeps_ite h (by (try dsimp only); split; exacts [(keeps_updCan h), (keeps_updCan h)]))

theorem keeps_canSelect {s0 s : State} {c : Fin 16} {b : Fin 64} {lock : Bool} (h : Keeps s0 s) : Keeps s0 (canSelect c b lock s) := by
  unfold canSelect; exact (keeps_updCan (keeps_ite (keeps_canUnlock h) h))

theorem keeps_canPoke {s0 s : State} {c : Fin 16} {w : Fin 32} {v : Sys2Proof.Word} (h : Keeps s0 s) : Keeps s0 (canPoke c w v s) := by
  unfold canPoke; exact (keeps_ite h (keeps_updCan h))

theorem keeps_canRequest {s0 s : State} {c : Fin 16} {b : Fin 64} (h : Keeps s0 s) : Keeps s0 (canRequest c b s) := by
  unfold canRequest; exact (keeps_ite h (keeps_ite (keeps_raise (keeps_updCan h)) (keeps_canCompete (keeps_ite (keeps_raise (keeps_updCan (keeps_updCan h))) (keeps_updCan h)))))

theorem keeps_canSlot {s0 s : State} {c : Fin 16} {b : Fin 64} (h : Keeps s0 s) : Keeps s0 (canSlot c b s) := by
  unfold canSlot; exact (keeps_ite h (by (try dsimp only); split; exacts [h, (keeps_canRequest (keeps_updSched (keeps_reach h)))]))

theorem keeps_canErr {s0 s : State} {c : Fin 16} {tec : BitVec 9} {rec_ : BitVec 8} (h : Keeps s0 s) : Keeps s0 (canErr c tec rec_ s) := by
  unfold canErr; exact (keeps_ite h (keeps_ite (keeps_nextCandidate h) (keeps_noteConds (keeps_ite (by (try dsimp only); split; exacts [(keeps_canCancelled (keeps_updCan (keeps_bump h))), (keeps_updCan (keeps_updCan (keeps_bump h)))]) (keeps_updCan (keeps_bump h))))))

theorem keeps_canRecover {s0 s : State} {c : Fin 16} (h : Keeps s0 s) : Keeps s0 (canRecover c s) := by
  unfold canRecover; exact (keeps_ite h (keeps_canCompete (keeps_noteConds (keeps_updCan h))))

theorem keeps_canMode {s0 s : State} {c : Fin 16} {m : Sys2Proof.Machine.CanMode} (h : Keeps s0 s) : Keeps s0 (canMode c m s) := by
  unfold canMode; exact (keeps_canCompete (keeps_noteConds (keeps_updCan h)))

theorem keeps_canDetectCmd {s0 s : State} {c : Fin 16} (h : Keeps s0 s) : Keeps s0 (canDetectCmd c s) := by
  unfold canDetectCmd; exact (keeps_ite (keeps_updCan h) (keeps_canMode h))

theorem keeps_candidateEnds {s0 s : State} {c : Fin 16} (h : Keeps s0 s) : Keeps s0 (candidateEnds c s) := by
  unfold candidateEnds; exact (keeps_ite (keeps_nextCandidate (keeps_reachLocal h)) h)

theorem keeps_detectFails {s0 s : State} {c : Fin 16} (h : Keeps s0 s) : Keeps s0 (detectFails c s) := by
  unfold detectFails; exact (keeps_ite (keeps_updCan (keeps_reachLocal h)) h)

theorem keeps_canLatch {s0 s : State} {c : Fin 16} (h : Keeps s0 s) : Keeps s0 (canLatch c s) := by
  unfold canLatch; exact (keeps_updCan h)

theorem keeps_uartError {s0 s : State} {u : Fin 8} {f : Sys2Proof.Machine.Uart → Sys2Proof.Machine.Uart} (h : Keeps s0 s) : Keeps s0 (uartError u f s) := by
  unfold uartError; exact (keeps_raise (keeps_updUart h))

theorem keeps_uartMark {s0 s : State} {u : Fin 8} {b : Sys2Proof.Byte} {ago : ℕ} (h : Keeps s0 s) : Keeps s0 (uartMark u b ago s) := by
  unfold uartMark; exact (keeps_ite (keeps_raise (keeps_updUart h)) h)

theorem keeps_uartStore {s0 s : State} {u : Fin 8} {b : Sys2Proof.Byte} (h : Keeps s0 s) : Keeps s0 (uartStore u b s) := by
  unfold uartStore; exact (keeps_ite (keeps_bump (keeps_updUart h)) (keeps_uartError h))

theorem keeps_uartReceive {s0 s : State} {u : Fin 8} {b : Sys2Proof.Byte} {e : Sys2Proof.UartErr} {ago : ℕ} (h : Keeps s0 s) : Keeps s0 (uartReceive u b e ago s) := by
  unfold uartReceive; exact (by (try dsimp only); split; exacts [(keeps_noteConds (keeps_uartStore (keeps_uartMark h))), (keeps_uartError h), (keeps_uartError h), (keeps_uartError h)])

theorem keeps_uartWrite {s0 s : State} {u : Fin 8} {b : Sys2Proof.Byte} (h : Keeps s0 s) : Keeps s0 (uartWrite u b s) := by
  unfold uartWrite; exact (keeps_ite (keeps_noteConds (keeps_updUart h)) (keeps_updUart h))

theorem keeps_uartSent {s0 s : State} {u : Fin 8} (h : Keeps s0 s) : Keeps s0 (uartSent u s) := by
  unfold uartSent; exact (by (try dsimp only); split; exacts [h, (keeps_noteConds (keeps_send (keeps_bump (keeps_updUart h))))])

theorem keeps_uartRead {s0 s : State} {u : Fin 8} (h : Keeps s0 s) : Keeps s0 (uartRead u s) := by
  unfold uartRead; exact (keeps_ite (keeps_answer h) (keeps_noteConds (keeps_answer (keeps_updUart h))))

theorem keeps_uartMarkRead {s0 s : State} {u : Fin 8} {w : Sys2Proof.Requester} (h : Keeps s0 s) : Keeps s0 (uartMarkRead u w s) := by
  unfold uartMarkRead; exact (keeps_answer (keeps_latchPut (keeps_updUart h)))

theorem keeps_uartLatch {s0 s : State} {u : Fin 8} (h : Keeps s0 s) : Keeps s0 (uartLatch u s) := by
  unfold uartLatch; exact (keeps_updUart h)

theorem keeps_execCanFrameReceive {s0 s t : State} {c : Fin 16} {f : Sys2Proof.CanFrame} {sofAgo : ℕ} (h : Keeps s0 s) (e : execCanFrameReceive c f sofAgo s = .next t) : Keeps s0 t := by
  cases e; exact (keeps_canReceive h)

theorem keeps_execCanFrameEnd {s0 s t : State} {c : Fin 16} {how : Sys2Proof.CanTxEnd} {sofAgo : ℕ} (h : Keeps s0 s) (e : execCanFrameEnd c how sofAgo s = .next t) : Keeps s0 t := by
  cases e; exact (keeps_canEnd h)

theorem keeps_execCanError {s0 s t : State} {c : Fin 16} {tec : BitVec 9} {rec_ : BitVec 8} (h : Keeps s0 s) (e : execCanError c tec rec_ s = .next t) : Keeps s0 t := by
  cases e; exact (keeps_canErr h)

theorem keeps_execBusoffRecoveryEnd {s0 s t : State} {c : Fin 16} (h : Keeps s0 s) (e : execBusoffRecoveryEnd c s = .next t) : Keeps s0 t := by
  cases e; exact (keeps_canRecover h)

theorem keeps_execCanStart {s0 s t : State} {q : Sys2Proof.Req} {c : Fin 16} (h : Keeps s0 s) (e : execCanStart q c s = .next t) : Keeps s0 t := by
  cases e; exact (keeps_onPage (fun _ h1 => (keeps_canMode h1)) h)

theorem keeps_execCanListen {s0 s t : State} {q : Sys2Proof.Req} {c : Fin 16} (h : Keeps s0 s) (e : execCanListen q c s = .next t) : Keeps s0 t := by
  cases e; exact (keeps_onPage (fun _ h1 => (keeps_canMode h1)) h)

theorem keeps_execCanDetect {s0 s t : State} {q : Sys2Proof.Req} {c : Fin 16} (h : Keeps s0 s) (e : execCanDetect q c s = .next t) : Keeps s0 t := by
  cases e; exact (keeps_onPage (fun _ h1 => (keeps_canDetectCmd h1)) h)

theorem keeps_execCanStop {s0 s t : State} {q : Sys2Proof.Req} {c : Fin 16} (h : Keeps s0 s) (e : execCanStop q c s = .next t) : Keeps s0 t := by
  cases e; exact (keeps_onPage (fun _ h1 => (keeps_canMode h1)) h)

theorem keeps_execDetectCandidateTimeout {s0 s t : State} {c : Fin 16} (h : Keeps s0 s) (e : execDetectCandidateTimeout c s = .next t) : Keeps s0 t := by
  cases e; exact (keeps_candidateEnds h)

theorem keeps_execDetectTimeout {s0 s t : State} {c : Fin 16} (h : Keeps s0 s) (e : execDetectTimeout c s = .next t) : Keeps s0 t := by
  cases e; exact (keeps_detectFails h)

theorem keeps_execCanTxReq {s0 s t : State} {q : Sys2Proof.Req} {c : Fin 16} {buf : Fin 64} (h : Keeps s0 s) (e : execCanTxReq q c buf s = .next t) : Keeps s0 t := by
  cases e; exact (keeps_onPage (fun _ h1 => (keeps_canReq h1)) h)

theorem keeps_execCanTxCancel {s0 s t : State} {q : Sys2Proof.Req} {c : Fin 16} {buf : Fin 64} (h : Keeps s0 s) (e : execCanTxCancel q c buf s = .next t) : Keeps s0 t := by
  cases e; exact (keeps_onPage (fun _ h1 => (keeps_canCancel h1)) h)

theorem keeps_execCanMbSelWrite {s0 s t : State} {q : Sys2Proof.Req} {c : Fin 16} {buf : Fin 64} {lock : Bool} (h : Keeps s0 s) (e : execCanMbSelWrite q c buf lock s = .next t) : Keeps s0 t := by
  cases e; exact (keeps_onPage (fun _ h1 => (keeps_canSelect h1)) h)

theorem keeps_execCanMbWrite {s0 s t : State} {q : Sys2Proof.Req} {c : Fin 16} {word : Fin 32} {val : Sys2Proof.Word} (h : Keeps s0 s) (e : execCanMbWrite q c word val s = .next t) : Keeps s0 t := by
  cases e; exact (keeps_onPage (fun _ h1 => (keeps_canPoke h1)) h)

theorem keeps_execCanSlotRequest {s0 s t : State} {c : Fin 16} {buf : Fin 64} (h : Keeps s0 s) (e : execCanSlotRequest c buf s = .next t) : Keeps s0 t := by
  cases e; exact (keeps_canSlot h)

theorem keeps_execUartByteReceive {s0 s t : State} {u : Fin 8} {byte : Sys2Proof.Byte} {err : Sys2Proof.UartErr} {startAgo : ℕ} (h : Keeps s0 s) (e : execUartByteReceive u byte err startAgo s = .next t) : Keeps s0 t := by
  cases e; exact (keeps_uartReceive h)

theorem keeps_execUartDataWrite {s0 s t : State} {q : Sys2Proof.Req} {u : Fin 8} {byte : Sys2Proof.Byte} (h : Keeps s0 s) (e : execUartDataWrite q u byte s = .next t) : Keeps s0 t := by
  cases e; exact (keeps_onPage (fun _ h1 => (keeps_uartWrite h1)) h)

theorem keeps_execUartDataRead {s0 s t : State} {q : Sys2Proof.Req} {u : Fin 8} (h : Keeps s0 s) (e : execUartDataRead q u s = .next t) : Keeps s0 t := by
  cases e; exact (keeps_onPage (fun _ h1 => (keeps_uartRead h1)) h)

theorem keeps_execUartMarkRead {s0 s t : State} {q : Sys2Proof.Req} {u : Fin 8} (h : Keeps s0 s) (e : execUartMarkRead q u s = .next t) : Keeps s0 t := by
  cases e; exact (keeps_onPage (fun _ h1 => (keeps_uartMarkRead h1)) h)

theorem keeps_execUartByteSent {s0 s t : State} {u : Fin 8} (h : Keeps s0 s) (e : execUartByteSent u s = .next t) : Keeps s0 t := by
  cases e; exact (keeps_uartSent h)

theorem keeps_execFadd {s0 s t : State} {e : Sys2Proof.EngRef} {rd : Sys2Proof.Reg} {ra : Sys2Proof.Reg} {rb : Sys2Proof.Reg} (h : Keeps s0 s) (e : execFadd e rd ra rb s = .next t) : Keeps s0 t := by
  cases e; exact (keeps_runAlu h)

theorem keeps_execFsub {s0 s t : State} {e : Sys2Proof.EngRef} {rd : Sys2Proof.Reg} {ra : Sys2Proof.Reg} {rb : Sys2Proof.Reg} (h : Keeps s0 s) (e : execFsub e rd ra rb s = .next t) : Keeps s0 t := by
  cases e; exact (keeps_runAlu h)

theorem keeps_execFmul {s0 s t : State} {e : Sys2Proof.EngRef} {rd : Sys2Proof.Reg} {ra : Sys2Proof.Reg} {rb : Sys2Proof.Reg} (h : Keeps s0 s) (e : execFmul e rd ra rb s = .next t) : Keeps s0 t := by
  cases e; exact (keeps_runAlu h)

theorem keeps_execFdiv {s0 s t : State} {e : Sys2Proof.EngRef} {rd : Sys2Proof.Reg} {ra : Sys2Proof.Reg} {rb : Sys2Proof.Reg} (h : Keeps s0 s) (e : execFdiv e rd ra rb s = .next t) : Keeps s0 t := by
  cases e; exact (keeps_runAlu h)

theorem keeps_execFsqrt {s0 s t : State} {e : Sys2Proof.EngRef} {rd : Sys2Proof.Reg} {ra : Sys2Proof.Reg} (h : Keeps s0 s) (e : execFsqrt e rd ra s = .next t) : Keeps s0 t := by
  cases e; exact (keeps_runAlu h)

theorem keeps_execFma {s0 s t : State} {e : Sys2Proof.EngRef} {rd : Sys2Proof.Reg} {ra : Sys2Proof.Reg} {rb : Sys2Proof.Reg} (h : Keeps s0 s) (e : execFma e rd ra rb s = .next t) : Keeps s0 t := by
  cases e; exact (keeps_runAlu h)

theorem keeps_execFmin {s0 s t : State} {e : Sys2Proof.EngRef} {rd : Sys2Proof.Reg} {ra : Sys2Proof.Reg} {rb : Sys2Proof.Reg} (h : Keeps s0 s) (e : execFmin e rd ra rb s = .next t) : Keeps s0 t := by
  cases e; exact (keeps_runAlu h)

theorem keeps_execFmax {s0 s t : State} {e : Sys2Proof.EngRef} {rd : Sys2Proof.Reg} {ra : Sys2Proof.Reg} {rb : Sys2Proof.Reg} (h : Keeps s0 s) (e : execFmax e rd ra rb s = .next t) : Keeps s0 t := by
  cases e; exact (keeps_runAlu h)

theorem keeps_execFabs {s0 s t : State} {e : Sys2Proof.EngRef} {rd : Sys2Proof.Reg} {ra : Sys2Proof.Reg} (h : Keeps s0 s) (e : execFabs e rd ra s = .next t) : Keeps s0 t := by
  cases e; exact (keeps_runAlu h)

theorem keeps_execFneg {s0 s t : State} {e : Sys2Proof.EngRef} {rd : Sys2Proof.Reg} {ra : Sys2Proof.Reg} (h : Keeps s0 s) (e : execFneg e rd ra s = .next t) : Keeps s0 t := by
  cases e; exact (keeps_runAlu h)

theorem keeps_execFeq {s0 s t : State} {e : Sys2Proof.EngRef} {rd : Sys2Proof.Reg} {ra : Sys2Proof.Reg} {rb : Sys2Proof.Reg} (h : Keeps s0 s) (e : execFeq e rd ra rb s = .next t) : Keeps s0 t := by
  cases e; exact (keeps_runAlu h)

theorem keeps_execFlt {s0 s t : State} {e : Sys2Proof.EngRef} {rd : Sys2Proof.Reg} {ra : Sys2Proof.Reg} {rb : Sys2Proof.Reg} (h : Keeps s0 s) (e : execFlt e rd ra rb s = .next t) : Keeps s0 t := by
  cases e; exact (keeps_runAlu h)

theorem keeps_execFle {s0 s t : State} {e : Sys2Proof.EngRef} {rd : Sys2Proof.Reg} {ra : Sys2Proof.Reg} {rb : Sys2Proof.Reg} (h : Keeps s0 s) (e : execFle e rd ra rb s = .next t) : Keeps s0 t := by
  cases e; exact (keeps_runAlu h)

theorem keeps_execFtoi {s0 s t : State} {e : Sys2Proof.EngRef} {rd : Sys2Proof.Reg} {ra : Sys2Proof.Reg} (h : Keeps s0 s) (e : execFtoi e rd ra s = .next t) : Keeps s0 t := by
  cases e; exact (keeps_runAlu h)

theorem keeps_execItof {s0 s t : State} {e : Sys2Proof.EngRef} {rd : Sys2Proof.Reg} {ra : Sys2Proof.Reg} (h : Keeps s0 s) (e : execItof e rd ra s = .next t) : Keeps s0 t := by
  cases e; exact (keeps_runAlu h)

theorem keeps_execLd {s0 s t : State} {e : Sys2Proof.EngRef} {rt : Sys2Proof.Reg} {base : Sys2Proof.Reg} {size : BitVec 2} {post : Bool} {off : BitVec 13} (h : Keeps s0 s) (e : execLd e rt base size post off s = .next t) : Keeps s0 t := by
  cases e; exact (keeps_runWord h)

theorem keeps_execLdu {s0 s t : State} {e : Sys2Proof.EngRef} {rt : Sys2Proof.Reg} {base : Sys2Proof.Reg} {size : BitVec 2} {post : Bool} {off : BitVec 13} (h : Keeps s0 s) (e : execLdu e rt base size post off s = .next t) : Keeps s0 t := by
  cases e; exact (keeps_runWord h)

theorem keeps_execSt {s0 s t : State} {e : Sys2Proof.EngRef} {rt : Sys2Proof.Reg} {base : Sys2Proof.Reg} {size : BitVec 2} {post : Bool} {off : BitVec 13} (h : Keeps s0 s) (e : execSt e rt base size post off s = .next t) : Keeps s0 t := by
  cases e; exact (keeps_runWord h)

theorem keeps_execBeq {s0 s t : State} {e : Sys2Proof.EngRef} {ra : Sys2Proof.Reg} {rb : Sys2Proof.Reg} {disp : BitVec 16} (h : Keeps s0 s) (e : execBeq e ra rb disp s = .next t) : Keeps s0 t := by
  cases e; exact (keeps_runWord h)

theorem keeps_execBne {s0 s t : State} {e : Sys2Proof.EngRef} {ra : Sys2Proof.Reg} {rb : Sys2Proof.Reg} {disp : BitVec 16} (h : Keeps s0 s) (e : execBne e ra rb disp s = .next t) : Keeps s0 t := by
  cases e; exact (keeps_runWord h)

theorem keeps_execBlt {s0 s t : State} {e : Sys2Proof.EngRef} {ra : Sys2Proof.Reg} {rb : Sys2Proof.Reg} {disp : BitVec 16} (h : Keeps s0 s) (e : execBlt e ra rb disp s = .next t) : Keeps s0 t := by
  cases e; exact (keeps_runWord h)

theorem keeps_execBge {s0 s t : State} {e : Sys2Proof.EngRef} {ra : Sys2Proof.Reg} {rb : Sys2Proof.Reg} {disp : BitVec 16} (h : Keeps s0 s) (e : execBge e ra rb disp s = .next t) : Keeps s0 t := by
  cases e; exact (keeps_runWord h)

theorem keeps_execBltu {s0 s t : State} {e : Sys2Proof.EngRef} {ra : Sys2Proof.Reg} {rb : Sys2Proof.Reg} {disp : BitVec 16} (h : Keeps s0 s) (e : execBltu e ra rb disp s = .next t) : Keeps s0 t := by
  cases e; exact (keeps_runWord h)

theorem keeps_execBgeu {s0 s t : State} {e : Sys2Proof.EngRef} {ra : Sys2Proof.Reg} {rb : Sys2Proof.Reg} {disp : BitVec 16} (h : Keeps s0 s) (e : execBgeu e ra rb disp s = .next t) : Keeps s0 t := by
  cases e; exact (keeps_runWord h)

theorem keeps_execJr {s0 s t : State} {e : Sys2Proof.EngRef} {ra : Sys2Proof.Reg} (h : Keeps s0 s) (e : execJr e ra s = .next t) : Keeps s0 t := by
  cases e; exact (keeps_runWord h)

theorem keeps_execJmp {s0 s t : State} {e : Sys2Proof.EngRef} {disp : BitVec 26} (h : Keeps s0 s) (e : execJmp e disp s = .next t) : Keeps s0 t := by
  cases e; exact (keeps_runWord h)

theorem keeps_execCall {s0 s t : State} {e : Sys2Proof.EngRef} {disp : BitVec 26} (h : Keeps s0 s) (e : execCall e disp s = .next t) : Keeps s0 t := by
  cases e; exact (keeps_runWord h)

theorem keeps_execLoop {s0 s t : State} {e : Sys2Proof.EngRef} {rs : Sys2Proof.Reg} {endOff : BitVec 10} {cnt : BitVec 10} (h : Keeps s0 s) (e : execLoop e rs endOff cnt s = .next t) : Keeps s0 t := by
  cases e; exact (keeps_runWord h)

theorem keeps_execLoopi {s0 s t : State} {e : Sys2Proof.EngRef} {endOff : BitVec 10} {cnt : BitVec 10} (h : Keeps s0 s) (e : execLoopi e endOff cnt s = .next t) : Keeps s0 t := by
  cases e; exact (keeps_runWord h)

theorem keeps_execHalt {s0 s t : State} {e : Sys2Proof.EngRef} (h : Keeps s0 s) (e : execHalt e s = .next t) : Keeps s0 t := by
  cases e; exact (keeps_runWord h)

theorem keeps_execTrap {s0 s t : State} {e : Sys2Proof.EngRef} {code : BitVec 5} (h : Keeps s0 s) (e : execTrap e code s = .next t) : Keeps s0 t := by
  cases e; exact (keeps_runWord h)

theorem keeps_illegalStep {s0 s : State} {e : Sys2Proof.EngRef} (h : Keeps s0 s) : Keeps s0 (illegalStep e s) := by
  unfold illegalStep; exact (keeps_ite h (by (try dsimp only); split; exacts [(keeps_instrX h), (keeps_ite (keeps_instrX h) h)]))

theorem keeps_execIllegalEncoding {s0 s t : State} {e : Sys2Proof.EngRef} (h : Keeps s0 s) (e : execIllegalEncoding e s = .next t) : Keeps s0 t := by
  cases e; exact (keeps_illegalStep h)

theorem keeps_updSuper {s0 s : State} {f : Sys2Proof.Machine.Super → Sys2Proof.Machine.Super} (h : Keeps s0 s) : Keeps s0 (updSuper f s) := by
  unfold updSuper; exact (keeps_mk h)

theorem keeps_updMail {s0 s : State} {ch : Fin 32} {f : Sys2Proof.Machine.Mailbox → Sys2Proof.Machine.Mailbox} (h : Keeps s0 s) : Keeps s0 (updMail ch f s) := by
  unfold updMail; exact (keeps_mk h)

theorem keeps_updHost {s0 s : State} {f : Sys2Proof.Machine.HostLink → Sys2Proof.Machine.HostLink} (h : Keeps s0 s) : Keeps s0 (updHost f s) := by
  unfold updHost; exact (keeps_mk h)

theorem keeps_wdogKick {s0 s : State} {w : Sys2Proof.Requester} {key : Sys2Proof.Byte} (h : Keeps s0 s) : Keeps s0 (wdogKick w key s) := by
  unfold wdogKick; exact (by (try dsimp only); split; exacts [(keeps_ite (keeps_updSuper h) h), h])

theorem keeps_fixStatus {s0 s : State} (h : Keeps s0 s) : Keeps s0 (fixStatus s) := by
  unfold fixStatus; exact (keeps_updTrio h)

theorem keeps_lastResort {s0 s : State} (h : Keeps s0 s) : Keeps s0 (lastResort s) := by
  unfold lastResort; exact (by (try dsimp only [drawFree]); exact (keeps_ite (keeps_fixStatus (keeps_ite (keeps_ite (keeps_updTrio (keeps_recordEvent (keeps_mk (keeps_urgent h)))) (keeps_stopController (keeps_updTrio (keeps_recordEvent (keeps_mk (keeps_urgent h)))))) (keeps_giveUp (keeps_recordEvent (keeps_mk (keeps_urgent h)))))) (keeps_ite (keeps_recordEvent (keeps_mk (keeps_urgent h))) (keeps_stopController (keeps_recordEvent (keeps_mk (keeps_urgent h)))))))

theorem keeps_wdogExpires {s0 s : State} {c : Fin 4} (h : Keeps s0 s) : Keeps s0 (wdogExpires c s) := by
  unfold wdogExpires; exact (keeps_ite h (keeps_ite (keeps_lastResort (keeps_raiseUrgent (by (try dsimp only); split; exacts [(keeps_updSuper (keeps_updSuper (keeps_reachLocal h))), (keeps_updSuper (keeps_reachLocal h))]))) (keeps_raiseUrgent (by (try dsimp only); split; exacts [(keeps_updSuper (keeps_updSuper (keeps_reachLocal h))), (keeps_updSuper (keeps_reachLocal h))]))))

theorem keeps_nextWindow {s0 s : State} {c : Fin 4} (h : Keeps s0 s) : Keeps s0 (nextWindow c s) := by
  unfold nextWindow; exact (keeps_ite h (keeps_updSuper (keeps_reach h)))

theorem keeps_startWindows {s0 s : State} (h : Keeps s0 s) : Keeps s0 (startWindows s) := by
  unfold startWindows; exact (keeps_updSuper h)

theorem keeps_setPd {s0 s : State} {d : Fin 8} {p : Sys2Proof.Machine.PdState} (h : Keeps s0 s) : Keeps s0 (setPd d p s) := by
  unfold setPd; exact (keeps_raise (keeps_updSuper h))

theorem keeps_resetCrest {s0 s : State} {c : Fin 6} (h : Keeps s0 s) : Keeps s0 (resetCrest c s) := by
  unfold resetCrest; exact (keeps_updPool (fun _ w => (memWf_clear _ _ w)) (keeps_updCrest (keeps_dropLatches (keeps_foldl (fun _ _ h1 => (keeps_updHdr h1)) h))))

theorem keeps_pdStart {s0 s : State} {d : Fin 8} (h : Keeps s0 s) : Keeps s0 (pdStart d s) := by
  unfold pdStart; exact (keeps_setPd (keeps_foldl (fun _ _ h1 => (keeps_updMail h1)) (keeps_ite (keeps_resetFoothill (by (try dsimp only); split; exacts [(keeps_ite (keeps_updSuper h) (keeps_resetCrest (keeps_updSuper h))), (keeps_updSuper h)])) (by (try dsimp only); split; exacts [(keeps_ite (keeps_updSuper h) (keeps_resetCrest (keeps_updSuper h))), (keeps_updSuper h)]))))

theorem keeps_pdCode {s0 s : State} {c : Sys2Proof.Byte} (h : Keeps s0 s) : Keeps s0 (pdCode c s) := by
  unfold pdCode; exact (keeps_updSuper h)

theorem keeps_cmdPdUp {s0 s : State} {d : Fin 8} (h : Keeps s0 s) : Keeps s0 (cmdPdUp d s) := by
  unfold cmdPdUp; exact (keeps_ite (keeps_pdCode h) (keeps_ite (keeps_pdCode h) (by (try dsimp only); split; exacts [(keeps_pdStart (keeps_pdCode h)), (keeps_updSuper (keeps_pdCode h)), (keeps_pdCode h)])))

theorem keeps_cmdPdDown {s0 s : State} {d : Fin 8} (h : Keeps s0 s) : Keeps s0 (cmdPdDown d s) := by
  unfold cmdPdDown; exact (keeps_ite (keeps_pdCode h) (keeps_ite (keeps_pdCode h) (keeps_ite (keeps_pdCode h) (keeps_ite (keeps_pdCode h) (keeps_ite (keeps_pdCode h) (by (try dsimp only); split; exacts [(keeps_setPd (keeps_pdCode h)), (keeps_setPd (keeps_pdCode h)), (keeps_pdCode h)]))))))

theorem keeps_pdFails {s0 s : State} {d : Fin 8} (h : Keeps s0 s) : Keeps s0 (pdFails d s) := by
  unfold pdFails; exact (keeps_setPd (keeps_foldl (fun _ _ h1 => (keeps_updMail h1)) (keeps_updSuper h)))

theorem keeps_testEnds {s0 s : State} {failed : BitVec 18} {memBad : Bool} {c : Fin 6} (h : Keeps s0 s) : Keeps s0 (testEnds failed memBad c s) := by
  unfold testEnds; exact (keeps_ite (keeps_pdFails (keeps_ite (keeps_updCrest h) (keeps_raise (keeps_updCrest h)))) (keeps_setPd (keeps_updCrest (keeps_ite (keeps_updCrest h) (keeps_raise (keeps_updCrest h))))))

theorem keeps_pdStarted {s0 s : State} {d : Fin 8} {pass : Bool} {failed : BitVec 18} (h : Keeps s0 s) : Keeps s0 (pdStarted d pass failed s) := by
  unfold pdStarted; exact (keeps_ite h (keeps_ite (keeps_pdFails h) (keeps_dite (fun _ => (keeps_testEnds h)) (fun _ => (keeps_ite (keeps_pdFails h) (keeps_setPd h))))))

theorem keeps_pdStopped {s0 s : State} {d : Fin 8} (h : Keeps s0 s) : Keeps s0 (pdStopped d s) := by
  unfold pdStopped; exact (keeps_ite h (keeps_ite (keeps_pdStart (keeps_setPd (keeps_ite (keeps_linkTimeout h) h))) (keeps_setPd (keeps_ite (keeps_linkTimeout h) h))))

theorem keeps_hostWake {s0 s : State} (h : Keeps s0 s) : Keeps s0 (hostWake s) := by
  unfold hostWake; exact (keeps_ite (keeps_updHost h) h)

theorem keeps_hostEvent {s0 s : State} (h : Keeps s0 s) : Keeps s0 (hostEvent s) := by
  unfold hostEvent; exact (keeps_ite (keeps_send (keeps_bump h)) (keeps_updHost h))

theorem keeps_hostInL0 {s0 s : State} {f : Sys2Proof.Machine.HostLink → Sys2Proof.Machine.HostLink} (h : Keeps s0 s) : Keeps s0 (hostInL0 f s) := by
  unfold hostInL0; exact (keeps_ite (keeps_noteConds (keeps_updHost h)) (keeps_hostEvent (keeps_noteConds (keeps_updHost h))))

theorem keeps_ringHost {s0 s : State} {ch : Fin 32} (h : Keeps s0 s) : Keeps s0 (ringHost ch s) := by
  unfold ringHost; exact (keeps_ite (keeps_send (keeps_bump (keeps_updMail (keeps_ite (keeps_hostInL0 h) h)))) (keeps_hostWake (keeps_updMail (keeps_ite (keeps_hostInL0 h) h))))

theorem keeps_sendHeld {s0 s : State} (h : Keeps s0 s) : Keeps s0 (sendHeld s) := by
  unfold sendHeld; exact (keeps_ite (keeps_hostEvent (keeps_updHost (keeps_foldl (fun _ _ h1 => (keeps_ite (keeps_ringHost h1) h1)) h))) (keeps_foldl (fun _ _ h1 => (keeps_ite (keeps_ringHost h1) h1)) h))

theorem keeps_hostReset {s0 s : State} {on : Bool} (h : Keeps s0 s) : Keeps s0 (hostReset on s) := by
  unfold hostReset; exact (keeps_ite (keeps_hostWake (keeps_noteConds (keeps_dropLatches (keeps_updHdr (keeps_mk h))))) (keeps_ite (keeps_hostEvent (keeps_raise (keeps_updHost h))) h))

theorem keeps_hostTrains {s0 s : State} (h : Keeps s0 s) : Keeps s0 (hostTrains s) := by
  unfold hostTrains; exact (keeps_ite h (keeps_noteConds (keeps_updHost h)))

theorem keeps_hostUp {s0 s : State} {bme : Bool} {masked : Sys2Proof.Word} {width : BitVec 3} {rate : BitVec 3} {power : Sys2Proof.HostPower} (h : Keeps s0 s) : Keeps s0 (hostUp bme masked width rate power s) := by
  unfold hostUp; exact (keeps_ite h (keeps_ite (keeps_sendHeld (keeps_hostInL0 h)) (keeps_noteConds (keeps_updHost h))))

theorem keeps_hostDown {s0 s : State} (h : Keeps s0 s) : Keeps s0 (hostDown s) := by
  unfold hostDown; exact (keeps_ite h (keeps_hostWake (keeps_noteConds (keeps_updHost h))))

theorem keeps_turnOff {s0 s : State} (h : Keeps s0 s) : Keeps s0 (turnOff s) := by
  unfold turnOff; exact (keeps_ite h (keeps_raise (keeps_send (keeps_updHost (keeps_hostEvent h)))))

theorem keeps_onMail {s0 s : State} {a : Agent} {ch : Fin 32} {ok : Bool} {f : State → State} (k : ∀ x, Keeps s0 x → Keeps s0 (f x))
    (h : Keeps s0 s) : Keeps s0 (onMail a ch ok f s) := by
  unfold onMail; exact (keeps_ite (k _ (keeps_bump (keeps_mk h))) (keeps_refuse h))

theorem keeps_deliver {s0 s : State} {ch : Fin 32} (h : Keeps s0 s) : Keeps s0 (deliver ch s) := by
  unfold deliver; exact (keeps_ite (keeps_ringHost h) (keeps_updMail h))

theorem keeps_ringChannel {s0 s : State} {ch : Fin 32} {code : BitVec 16} {wake : Bool} (h : Keeps s0 s) : Keeps s0 (ringChannel ch code wake s) := by
  unfold ringChannel; exact (keeps_ite (keeps_updMail h) (by (try dsimp only); split; exacts [(keeps_deliver (keeps_updMail h)), (keeps_updMail h), (keeps_ite (keeps_pdStart (keeps_updMail h)) (keeps_updMail h)), (keeps_ite (keeps_updMail (keeps_updSuper h)) (keeps_updMail h))]))

theorem keeps_mailRing {s0 s : State} {a : Sys2Proof.Agent} {ch : Fin 32} {code : BitVec 16} {wake : Bool} (h : Keeps s0 s) : Keeps s0 (mailRing a ch code wake s) := by
  unfold mailRing; exact (keeps_onMail (fun _ h1 => (keeps_ringChannel h1)) h)

theorem keeps_mailAck {s0 s : State} {a : Sys2Proof.Agent} {ch : Fin 32} (h : Keeps s0 s) : Keeps s0 (mailAck a ch s) := by
  unfold mailAck; exact (keeps_onMail (fun _ h1 => (keeps_ite (keeps_raise (keeps_updMail h1)) (keeps_updMail h1))) h)

theorem keeps_mailWrite {s0 s : State} {a : Sys2Proof.Agent} {ch : Fin 32} {w : Fin 16} {v : Sys2Proof.Word} (h : Keeps s0 s) : Keeps s0 (mailWrite a ch w v s) := by
  unfold mailWrite; exact (keeps_onMail (fun _ h1 => (keeps_updMail h1)) h)

theorem keeps_doorbell {s0 s : State} {ch : Fin 32} (h : Keeps s0 s) : Keeps s0 (doorbell ch s) := by
  unfold doorbell; exact (keeps_ite (keeps_deliver h) h)

theorem keeps_pmuFreeze {s0 s : State} {on : Bool} (h : Keeps s0 s) : Keeps s0 (pmuFreeze on s) := by
  unfold pmuFreeze; exact (keeps_updSuper h)

theorem keeps_pmuClear {s0 s : State} (h : Keeps s0 s) : Keeps s0 (pmuClear s) := by
  unfold pmuClear; exact (keeps_mk h)

theorem keeps_execWdogRestart {s0 s t : State} {q : Sys2Proof.Req} {key : Sys2Proof.Byte} (h : Keeps s0 s) (e : execWdogRestart q key s = .next t) : Keeps s0 t := by
  cases e; exact (keeps_onPage (fun _ h1 => (keeps_wdogKick h1)) h)

theorem keeps_execWdogExpire {s0 s t : State} {core : Fin 4} (h : Keeps s0 s) (e : execWdogExpire core s = .next t) : Keeps s0 t := by
  cases e; exact (keeps_wdogExpires h)

theorem keeps_execPartitionWindowBoundary {s0 s t : State} {core : Fin 4} (h : Keeps s0 s) (e : execPartitionWindowBoundary core s = .next t) : Keeps s0 t := by
  cases e; exact (keeps_nextWindow h)

theorem keeps_execMbRing {s0 s t : State} {a : Sys2Proof.Agent} {ch : Fin 32} {code : BitVec 16} {wake : Bool} (h : Keeps s0 s) (e : execMbRing a ch code wake s = .next t) : Keeps s0 t := by
  cases e; exact (keeps_mailRing h)

theorem keeps_execMbAck {s0 s t : State} {a : Sys2Proof.Agent} {ch : Fin 32} (h : Keeps s0 s) (e : execMbAck a ch s = .next t) : Keeps s0 t := by
  cases e; exact (keeps_mailAck h)

theorem keeps_execMbMsgWrite {s0 s t : State} {a : Sys2Proof.Agent} {ch : Fin 32} {word : Fin 16} {val : Sys2Proof.Word} (h : Keeps s0 s) (e : execMbMsgWrite a ch word val s = .next t) : Keeps s0 t := by
  cases e; exact (keeps_mailWrite h)

theorem keeps_execDoorbellDeliver {s0 s t : State} {ch : Fin 32} (h : Keeps s0 s) (e : execDoorbellDeliver ch s = .next t) : Keeps s0 t := by
  cases e; exact (keeps_doorbell h)

theorem keeps_execPdUp {s0 s t : State} {q : Sys2Proof.Req} {d : Fin 8} (h : Keeps s0 s) (e : execPdUp q d s = .next t) : Keeps s0 t := by
  cases e; exact (keeps_onPage (fun _ h1 => (keeps_cmdPdUp h1)) h)

theorem keeps_execPdDown {s0 s t : State} {q : Sys2Proof.Req} {d : Fin 8} (h : Keeps s0 s) (e : execPdDown q d s = .next t) : Keeps s0 t := by
  cases e; exact (keeps_onPage (fun _ h1 => (keeps_cmdPdDown h1)) h)

theorem keeps_execPdStartEnd {s0 s t : State} {d : Fin 8} {pass : Bool} {failed : BitVec 18} (h : Keeps s0 s) (e : execPdStartEnd d pass failed s = .next t) : Keeps s0 t := by
  cases e; exact (keeps_pdStarted h)

theorem keeps_execPdStopEnd {s0 s t : State} {d : Fin 8} (h : Keeps s0 s) (e : execPdStopEnd d s = .next t) : Keeps s0 t := by
  cases e; exact (keeps_pdStopped h)

theorem keeps_execHostPerst {s0 s t : State} {asserted : Bool} (h : Keeps s0 s) (e : execHostPerst asserted s = .next t) : Keeps s0 t := by
  cases e; exact (keeps_hostReset h)

theorem keeps_execHostTrainingSet {s0 s t : State} (h : Keeps s0 s) (e : execHostTrainingSet s = .next t) : Keeps s0 t := by
  cases e; exact (keeps_hostTrains h)

theorem keeps_execHostLinkL0 {s0 s t : State} {busMaster : Bool} {masked : BitVec 32} {width : BitVec 3} {rate : BitVec 3} {power : Sys2Proof.HostPower} (h : Keeps s0 s) (e : execHostLinkL0 busMaster masked width rate power s = .next t) : Keeps s0 t := by
  cases e; exact (keeps_hostUp h)

theorem keeps_execHostLinkL2 {s0 s t : State} (h : Keeps s0 s) (e : execHostLinkL2 s = .next t) : Keeps s0 t := by
  cases e; exact (keeps_hostDown h)

theorem keeps_execPmeTurnOff {s0 s t : State} (h : Keeps s0 s) (e : execPmeTurnOff s = .next t) : Keeps s0 t := by
  cases e; exact (keeps_turnOff h)

theorem keeps_execPmuFreeze {s0 s t : State} {q : Sys2Proof.Req} {on : Bool} (h : Keeps s0 s) (e : execPmuFreeze q on s = .next t) : Keeps s0 t := by
  cases e; exact (keeps_onPage (fun _ h1 => (keeps_pmuFreeze h1)) h)

theorem keeps_execPmuClear {s0 s t : State} {q : Sys2Proof.Req} (h : Keeps s0 s) (e : execPmuClear q s = .next t) : Keeps s0 t := by
  cases e; exact (keeps_onPage (fun _ h1 => (keeps_pmuClear h1)) h)

theorem keeps_updRec {s0 s : State} {f : Sys2Proof.Machine.Recorder → Sys2Proof.Machine.Recorder} (h : Keeps s0 s) : Keeps s0 (updRec f s) := by
  unfold updRec; exact (keeps_mk h)

theorem keeps_updRegion {s0 s : State} {r : Fin 9} {f : Sys2Proof.Machine.RecRegion → Sys2Proof.Machine.RecRegion} (h : Keeps s0 s) : Keeps s0 (updRegion r f s) := by
  unfold updRegion; exact (keeps_updRec h)

theorem keeps_countLost {s0 s : State} {x : Option Sys2Proof.Machine.Rec} (h : Keeps s0 s) : Keeps s0 (countLost x s) := by
  unfold countLost; exact (keeps_ite (keeps_setRaw (keeps_updRec h)) h)

theorem keeps_putRec {s0 s : State} {r : Fin 9} {ev : Sys2Proof.EventIn} {t : Sys2Proof.Machine.Instant} {ep : BitVec 2} (h : Keeps s0 s) : Keeps s0 (putRec r ev t ep s) := by
  unfold putRec; exact (by (try dsimp only); split; exacts [(keeps_dropEvent h), (keeps_bump (keeps_updRec (keeps_updRegion (keeps_countLost h))))])

theorem keeps_endSeries {s0 s : State} {r : Fin 9} (h : Keeps s0 s) : Keeps s0 (endSeries r s) := by
  unfold endSeries; exact (by (try dsimp only); split; exacts [(keeps_ite (keeps_putRec (keeps_updRegion h)) (keeps_updRegion h)), (keeps_updRegion h)])

theorem keeps_countRepeat {s0 s : State} {r : Fin 9} {t : Sys2Proof.Machine.Instant} {ep : BitVec 2} (h : Keeps s0 s) : Keeps s0 (countRepeat r t ep s) := by
  unfold countRepeat; exact (keeps_bump (keeps_updRegion h))

theorem keeps_fwDropped {s0 s : State} {ev : Sys2Proof.EventIn} (h : Keeps s0 s) : Keeps s0 (fwDropped ev s) := by
  unfold fwDropped; exact (keeps_ite (keeps_updRec h) h)

theorem keeps_storeEvent {s0 s : State} {r : Fin 9} {ev : Sys2Proof.EventIn} {t : Sys2Proof.Machine.Instant} {ep : BitVec 2} (h : Keeps s0 s) : Keeps s0 (storeEvent r ev t ep s) := by
  unfold storeEvent; exact (keeps_ite (keeps_countRepeat (keeps_ite (keeps_endSeries h) h)) (keeps_ite (keeps_fwDropped (keeps_dropEvent (keeps_ite (keeps_endSeries h) h))) (keeps_putRec (keeps_endSeries (keeps_ite (keeps_endSeries h) h)))))

theorem keeps_takeRecord {s0 s : State} (h : Keeps s0 s) : Keeps s0 (takeRecord s) := by
  unfold takeRecord; exact (by (try dsimp only); split; exacts [h, (keeps_noteConds (keeps_storeEvent (keeps_updRec h)))])

theorem keeps_seriesTimeout {s0 s : State} {r : Fin 9} (h : Keeps s0 s) : Keeps s0 (seriesTimeout r s) := by
  unfold seriesTimeout; exact (by (try dsimp only); split; exacts [h, (keeps_noteConds (keeps_endSeries (keeps_reachLocal h)))])

theorem keeps_layoutStarts {s0 s : State} (h : Keeps s0 s) : Keeps s0 (layoutStarts s) := by
  unfold layoutStarts; exact (by (try dsimp only); split; exacts [(keeps_updRec h), h])

theorem keeps_layoutWaits {s0 s : State} {old : Sys2Proof.Machine.AppImage} {new : Sys2Proof.Machine.AppImage} (h : Keeps s0 s) : Keeps s0 (layoutWaits old new s) := by
  unfold layoutWaits; exact (keeps_ite h (keeps_note (keeps_updRec h)))

theorem keeps_startRefill {s0 s : State} {v : Sys2Proof.Word} (h : Keeps s0 s) : Keeps s0 (startRefill v s) := by
  unfold startRefill; exact (keeps_updRec h)

theorem keeps_endRefill {s0 s : State} (h : Keeps s0 s) : Keeps s0 (endRefill s) := by
  unfold endRefill; exact (keeps_ite h (keeps_updRec h))

theorem keeps_readEntry {s0 s : State} {w : Sys2Proof.Requester} {i : Fin 32} (h : Keeps s0 s) : Keeps s0 (readEntry w i s) := by
  unfold readEntry; exact (keeps_answer (keeps_updRec h))

theorem keeps_fwWrite {s0 s : State} {w : Sys2Proof.Requester} (h : Keeps s0 s) : Keeps s0 (fwWrite w s) := by
  unfold fwWrite; exact (by (try dsimp only); split; exacts [h, (keeps_ite (keeps_updRec h) (keeps_ite (keeps_updRec h) (keeps_ite (keeps_enqueueEvent (keeps_updRec h)) (keeps_enqueueEvent (keeps_updRec h)))))])

theorem keeps_clearDrops {s0 s : State} (h : Keeps s0 s) : Keeps s0 (clearDrops s) := by
  unfold clearDrops; exact (by (try dsimp only); split; exacts [(keeps_updRegion h), h])

theorem keeps_clearLost {s0 s : State} (h : Keeps s0 s) : Keeps s0 (clearLost s) := by
  unfold clearLost; exact (keeps_updRec h)

theorem keeps_execEventRecord {s0 s t : State} {ev : Sys2Proof.EventIn} (h : Keeps s0 s) (e : execEventRecord ev s = .next t) : Keeps s0 t := by
  cases e; exact (keeps_enqueueEvent h)

theorem keeps_execRecordStore {s0 s t : State} (h : Keeps s0 s) (e : execRecordStore s = .next t) : Keeps s0 t := by
  cases e; exact (keeps_takeRecord h)

theorem keeps_execSeriesTimeout {s0 s t : State} {region : Fin 9} (h : Keeps s0 s) (e : execSeriesTimeout region s = .next t) : Keeps s0 t := by
  cases e; exact (keeps_seriesTimeout h)

theorem keeps_execRecRefill {s0 s t : State} {q : Sys2Proof.Req} {val : Sys2Proof.Word} (h : Keeps s0 s) (e : execRecRefill q val s = .next t) : Keeps s0 t := by
  cases e; exact (keeps_onPage (fun _ h1 => (keeps_startRefill h1)) h)

theorem keeps_execRecRefillEnd {s0 s t : State} (h : Keeps s0 s) (e : execRecRefillEnd s = .next t) : Keeps s0 t := by
  cases e; exact (keeps_endRefill h)

theorem keeps_execRecWinRead {s0 s t : State} {q : Sys2Proof.Req} {entry : Fin 32} (h : Keeps s0 s) (e : execRecWinRead q entry s = .next t) : Keeps s0 t := by
  cases e; exact (keeps_onPage (fun _ h1 => (keeps_readEntry h1)) h)

theorem keeps_execRecFwWrite {s0 s t : State} {q : Sys2Proof.Req} (h : Keeps s0 s) (e : execRecFwWrite q s = .next t) : Keeps s0 t := by
  cases e; exact (keeps_onPage (fun _ h1 => (keeps_fwWrite h1)) h)

theorem keeps_execRecClrDrops {s0 s t : State} {q : Sys2Proof.Req} (h : Keeps s0 s) (e : execRecClrDrops q s = .next t) : Keeps s0 t := by
  cases e; exact (keeps_onPage (fun _ h1 => (keeps_clearDrops h1)) h)

theorem keeps_execRecClrLost {s0 s t : State} {q : Sys2Proof.Req} (h : Keeps s0 s) (e : execRecClrLost q s = .next t) : Keeps s0 t := by
  cases e; exact (keeps_onPage (fun _ h1 => (keeps_clearLost h1)) h)

theorem keeps_updHis {s0 s : State} {f : Sys2Proof.Machine.Historian → Sys2Proof.Machine.Historian} (h : Keeps s0 s) : Keeps s0 (updHis f s) := by
  unfold updHis; exact (keeps_mk h)

theorem keeps_refreshShares {s0 s : State} (h : Keeps s0 s) : Keeps s0 (refreshShares s) := by
  unfold refreshShares; exact (keeps_foldl (fun _ _ h1 => (keeps_raise h1)) (keeps_updHis h))

theorem keeps_setDrive {s0 s : State} {d : Fin 4} {st : Sys2Proof.Machine.DriveState} (h : Keeps s0 s) : Keeps s0 (setDrive d st s) := by
  unfold setDrive; exact (keeps_ite h (keeps_refreshShares (keeps_raiseSev (keeps_updHis h))))

theorem keeps_indexRead {s0 s : State} {found : Sys2Proof.Vec (Option Sys2Proof.DriveInfo) 4} (h : Keeps s0 s) : Keeps s0 (indexRead found s) := by
  unfold indexRead; exact (keeps_ite h (keeps_updHis (keeps_foldl (fun _ _ h1 => (by (try dsimp only); split; exacts [(keeps_setDrive h1), (keeps_setDrive (keeps_updHis h1))])) h)))

theorem keeps_smart {s0 s : State} {d : Fin 4} {l : Sys2Proof.SmartLog} (h : Keeps s0 s) : Keeps s0 (smart d l s) := by
  unfold smart; exact (keeps_ite h (keeps_ite (keeps_updHis h) (keeps_ite (keeps_setDrive (keeps_updHis h)) (keeps_ite (keeps_setDrive (keeps_updHis h)) (keeps_updHis h)))))

theorem keeps_driveFails {s0 s : State} {d : Fin 4} (h : Keeps s0 s) : Keeps s0 (driveFails d s) := by
  unfold driveFails; exact (keeps_ite (keeps_setDrive h) h)

theorem keeps_nextGroup {s0 s : State} {x : BitVec 3 × BitVec 8} (h : Keeps s0 s) : Keeps s0 (nextGroup s x) := by
  unfold nextGroup; exact (keeps_ite (keeps_updHis h) (keeps_updHis h))

theorem keeps_countGroups {s0 s : State} (h : Keeps s0 s) : Keeps s0 (countGroups s) := by
  unfold countGroups; exact (keeps_foldl (fun _ _ h1 => (keeps_nextGroup h1)) h)

theorem keeps_gapBlock {s0 s : State} {b : Sys2Proof.Machine.Block} {cause : BitVec 3} (h : Keeps s0 s) : Keeps s0 (gapBlock b cause s) := by
  unfold gapBlock; exact (keeps_raise (keeps_bump (keeps_updHis h)))

theorem keeps_dropCapture {s0 s : State} (h : Keeps s0 s) : Keeps s0 (dropCapture s) := by
  unfold dropCapture; exact (keeps_updHis h)

theorem keeps_refuseCapture {s0 s : State} {o : Fin 9} {c : BitVec 2} (h : Keeps s0 s) : Keeps s0 (refuseCapture o c s) := by
  unfold refuseCapture; exact (keeps_ite h (keeps_note (keeps_updHis h)))

theorem keeps_capture {s0 s : State} {im : Sys2Proof.Machine.SchedImage} {i : ℕ} {e : Sys2Proof.Machine.Capture} {d : List Sys2Proof.Byte} (h : Keeps s0 s) : Keeps s0 (capture im i e d s) := by
  unfold capture; exact (keeps_ite (keeps_dropCapture h) (keeps_ite (keeps_dropCapture (keeps_refuseCapture h)) (keeps_ite (keeps_gapBlock h) (keeps_ite (keeps_gapBlock h) (keeps_ite (keeps_gapBlock h) (keeps_updHis h))))))

theorem keeps_spill {s0 s : State} {r : Fin 9} (h : Keeps s0 s) : Keeps s0 (spill r s) := by
  unfold spill; exact (by (try dsimp only); split; exacts [h, (keeps_ite h (keeps_noteConds (keeps_bump (keeps_updHis (keeps_updRegion h)))))])

theorem keeps_deallocate {s0 s : State} {which : Sys2Proof.Machine.Chunk → Bool} (h : Keeps s0 s) : Keeps s0 (deallocate which s) := by
  unfold deallocate; exact (keeps_bump (keeps_updHis h))

theorem keeps_makeRoom {s0 s : State} {o : Fin 9} {c : BitVec 2} (h : Keeps s0 s) : Keeps s0 (makeRoom o c s) := by
  unfold makeRoom; exact (keeps_ite (by (try dsimp only); split; exacts [h, (keeps_bump (keeps_updHis h))]) h)

theorem keeps_chunkDone {s0 s : State} {d : Fin 4} (h : Keeps s0 s) : Keeps s0 (chunkDone d s) := by
  unfold chunkDone; exact (by (try dsimp only); split; exacts [h, (keeps_bump (keeps_updHis (keeps_ite (keeps_makeRoom h) h)))])

theorem keeps_queryGo {s0 s : State} (h : Keeps s0 s) : Keeps s0 (queryGo s) := by
  unfold queryGo; exact (keeps_ite (keeps_updHis h) (keeps_updHis h))

theorem keeps_queryEnd {s0 s : State} (h : Keeps s0 s) : Keeps s0 (queryEnd s) := by
  unfold queryEnd; exact (keeps_ite h (by (try dsimp only [drawFree]); exact (keeps_raise (keeps_updHis (keeps_mkSram (keeps_mk h) (fun w => (memWf_write _ _ w)))))))

theorem keeps_execSpillBlock {s0 s t : State} {region : Fin 9} (h : Keeps s0 s) (e : execSpillBlock region s = .next t) : Keeps s0 t := by
  cases e; exact (keeps_spill h)

theorem keeps_execChunkWriteDone {s0 s t : State} {drive : Fin 4} (h : Keeps s0 s) (e : execChunkWriteDone drive s = .next t) : Keeps s0 t := by
  cases e; exact (keeps_chunkDone h)

theorem keeps_execHistorianIndexReadEnd {s0 s t : State} {found : Sys2Proof.Vec (Option Sys2Proof.DriveInfo) 4} (h : Keeps s0 s) (e : execHistorianIndexReadEnd found s = .next t) : Keeps s0 t := by
  cases e; exact (keeps_indexRead h)

theorem keeps_execRetentionSweep {s0 s t : State} (h : Keeps s0 s) (e : execRetentionSweep s = .next t) : Keeps s0 t := by
  cases e; exact (keeps_deallocate h)

theorem keeps_execSmartRead {s0 s t : State} {drive : Fin 4} {log : Sys2Proof.SmartLog} (h : Keeps s0 s) (e : execSmartRead drive log s = .next t) : Keeps s0 t := by
  cases e; exact (keeps_smart h)

theorem keeps_execDriveTimeout {s0 s t : State} {drive : Fin 4} (h : Keeps s0 s) (e : execDriveTimeout drive s = .next t) : Keeps s0 t := by
  cases e; exact (keeps_driveFails h)

theorem keeps_execHisQueryGo {s0 s t : State} {q : Sys2Proof.Req} (h : Keeps s0 s) (e : execHisQueryGo q s = .next t) : Keeps s0 t := by
  cases e; exact (keeps_onPage (fun _ h1 => (keeps_queryGo h1)) h)

theorem keeps_execQueryEnd {s0 s t : State} (h : Keeps s0 s) (e : execQueryEnd s = .next t) : Keeps s0 t := by
  cases e; exact (keeps_queryEnd h)

theorem keeps_updUpd {s0 s : State} {f : Sys2Proof.Machine.Update → Sys2Proof.Machine.Update} (h : Keeps s0 s) : Keeps s0 (updUpd f s) := by
  unfold updUpd; exact (keeps_mk h)

theorem keeps_updPwr {s0 s : State} {f : Sys2Proof.Machine.Power → Sys2Proof.Machine.Power} (h : Keeps s0 s) : Keeps s0 (updPwr f s) := by
  unfold updPwr; exact (keeps_mk h)

theorem keeps_updSec {s0 s : State} {f : Sys2Proof.Machine.Security → Sys2Proof.Machine.Security} (h : Keeps s0 s) : Keeps s0 (updSec f s) := by
  unfold updSec; exact (keeps_mk h)

theorem keeps_updFlash {s0 s : State} {f : Sys2Proof.Machine.Flash → Sys2Proof.Machine.Flash} (h : Keeps s0 s) : Keeps s0 (updFlash f s) := by
  unfold updFlash; exact (keeps_mk h)

theorem keeps_resetDevice {s0 s : State} {kind rail : BitVec 3} (h : Keeps s0 s) : Keeps s0 (resetDevice kind rail s) :=
  ⟨h.part, h.pending, h.otp, fun _ => rfl, fun _ => rfl⟩

theorem keeps_resetPower {s0 s : State} {kind : BitVec 3} {rail : BitVec 3} (h : Keeps s0 s) : Keeps s0 (resetPower kind rail s) := by
  unfold resetPower; exact (keeps_mk (keeps_resetDevice h))

theorem keeps_beginRestart {s0 s : State} (h : Keeps s0 s) : Keeps s0 (beginRestart s) := by
  unfold beginRestart; exact (by (try dsimp only); split; exacts [h, (keeps_note (keeps_updUpd (keeps_updSched (keeps_stopController h))))])

theorem keeps_updateRestart {s0 s : State} (h : Keeps s0 s) : Keeps s0 (updateRestart s) := by
  unfold updateRestart; exact (keeps_ite (keeps_beginRestart (keeps_reach h)) h)

theorem keeps_updateReset {s0 s : State} (h : Keeps s0 s) : Keeps s0 (updateReset s) := by
  unfold updateReset; exact (by (try dsimp only); split; exacts [h, (keeps_resetDevice h)])

theorem keeps_requestReset {s0 s : State} {key : Sys2Proof.Byte} (h : Keeps s0 s) : Keeps s0 (requestReset key s) := by
  unfold requestReset; exact (keeps_ite h (keeps_ite (keeps_updUpd h) (keeps_resetDevice h)))

theorem keeps_onSecure {s0 s : State} {q : Req} {pg : Page} {f : State → State} (k : ∀ x, Keeps s0 x → Keeps s0 (f x)) (h : Keeps s0 s) :
    Keeps s0 (onSecure q pg f s) := by
  unfold onSecure; exact (keeps_ite (keeps_onPage k h) (keeps_refuse h))

theorem keeps_execPorAssert {s0 s t : State} (h : Keeps s0 s) (e : execPorAssert s = .next t) : Keeps s0 t := by
  cases e; exact (keeps_resetPower h)

theorem keeps_execInternalReset {s0 s t : State} {rail : Fin 6} (h : Keeps s0 s) (e : execInternalReset rail s = .next t) : Keeps s0 t := by
  cases e; exact (keeps_ite (keeps_resetPower h) h)

theorem keeps_execTapReset {s0 s t : State} (h : Keeps s0 s) (e : execTapReset s = .next t) : Keeps s0 t := by
  cases e; exact (keeps_mk h)

theorem keeps_execPwrReset {s0 s t : State} {q : Sys2Proof.Req} {key : Sys2Proof.Byte} (h : Keeps s0 s) (e : execPwrReset q key s = .next t) : Keeps s0 t := by
  cases e; exact (keeps_onSecure (fun _ h1 => (keeps_requestReset h1)) h)

theorem keeps_execUpdateRestart {s0 s t : State} (h : Keeps s0 s) (e : execUpdateRestart s = .next t) : Keeps s0 t := by
  cases e; exact (keeps_updateRestart h)

theorem keeps_execUpdateReset {s0 s t : State} (h : Keeps s0 s) (e : execUpdateReset s = .next t) : Keeps s0 t := by
  cases e; exact (keeps_updateReset h)

theorem keeps_permitExpires {s0 s : State} (h : Keeps s0 s) : Keeps s0 (permitExpires s) := by
  unfold permitExpires; exact (by (try dsimp only); split; exacts [h, (keeps_updSec (keeps_reachLocal h))])

theorem keeps_battery {s0 s : State} {on : Bool} (h : Keeps s0 s) : Keeps s0 (battery on s) := by
  unfold battery; exact (keeps_updUpd h)

theorem keeps_ticketDone {s0 s : State} {c : Sys2Proof.Byte} (h : Keeps s0 s) : Keeps s0 (ticketDone c s) := by
  unfold ticketDone; exact (keeps_raise (keeps_updSec h))

theorem keeps_newNonce {s0 s : State} (h : Keeps s0 s) : Keeps s0 (newNonce s) := by
  unfold newNonce; exact (by (try dsimp only [drawFree]); exact (keeps_updSec (keeps_mk h)))

theorem keeps_ticketTaken {s0 s : State} (h : Keeps s0 s) : Keeps s0 (ticketTaken s) := by
  unfold ticketTaken; exact (keeps_ticketDone (keeps_newNonce h))

theorem keeps_updOtp {s0 s : State} {f : Otp → Otp} (k : OtpKept s.otp (f s.otp)) (h : Keeps s0 s) : Keeps s0 (updOtp f s) :=
  keeps_putOtp h k rfl rfl rfl rfl

theorem keeps_burnGroup {s0 s : State} {bit : Nat} (h : Keeps s0 s) : Keeps s0 (burnGroup bit s) :=
  keeps_updOtp ⟨fun _ x => setBit_getLsbD_mono _ _ _ x, fun _ x => x, le_refl _, fun x => x, fun x => ⟨x, rfl⟩, rfl, rfl⟩ h

theorem keeps_lcActions {s0 s : State} {t : Nat} {payload : List Byte} (h : Keeps s0 s) : Keeps s0 (lcActions t payload s) := by
  unfold lcActions
  refine keeps_ite (keeps_updOtp ⟨fun _ x => x, fun _ x => x, le_refl _, fun _ => rfl, fun x => ⟨x, rfl⟩, rfl, rfl⟩ h) (keeps_ite ?_ h)
  exact keeps_writeBoot (keeps_updFlash (keeps_updStore h))

theorem keeps_lcSteps {s0 s : State} {t : ℕ} {payload : List Sys2Proof.Byte} (h : Keeps s0 s) : Keeps s0 (lcSteps t payload s) := by
  unfold lcSteps; exact (keeps_ite (keeps_resetDevice (keeps_raise (keeps_burnGroup (keeps_lcActions (keeps_updSec (keeps_burnGroup h)))))) (keeps_raise (keeps_burnGroup (keeps_lcActions (keeps_updSec (keeps_burnGroup h))))))

theorem keeps_ticketEffect {s0 s t : State} {flashOk : Bool} {env payload : List Byte} (h : Keeps s0 s)
    (e : ticketEffect flashOk env payload s = .ok t) : Keeps s0 t := by
  unfold ticketEffect at e
  split at e
  · dsimp only at e
    split at e
    · cases e
    · split at e
      · cases e
      · split at e
        · cases e
        · split at e
          · cases e
          · cases e
            exact keeps_lcSteps (keeps_updSec (keeps_ticketTaken (keeps_writeStoreRec (keeps_updStore h))))
  · cases e; exact keeps_ticketTaken (keeps_updStore h)
  · cases e; exact keeps_ticketTaken (keeps_updStore h)
  · split at e
    · cases e
    · cases e
      exact keeps_ticketTaken (keeps_ite (keeps_updPort (keeps_updPort (keeps_updStore h))) (keeps_updStore h))
  · cases e; exact keeps_ticketTaken (keeps_updSec h)
  · dsimp only at e
    split at e
    · cases e
    · cases e
      exact keeps_ticketTaken (keeps_updOtp ⟨fun _ x => x, fun _ x => setBit_getLsbD_mono _ _ _ x, le_refl _, fun x => x,
        fun x => ⟨x, rfl⟩, rfl, rfl⟩ h)
  · cases e

theorem keeps_submitTicket {s0 s : State} {flashOk : Bool} (h : Keeps s0 s) : Keeps s0 (submitTicket flashOk s) := by
  unfold submitTicket
  split
  · exact keeps_ticketDone h
  · refine keeps_ite (keeps_ticketDone h) (keeps_ite (keeps_ticketDone h) ?_)
    split
    · exact keeps_ticketDone h
    · exact keeps_ticketEffect h ‹_›

theorem keeps_submitOp {s0 s : State} {op : ℕ} {flashOk : Bool} (h : Keeps s0 s) : Keeps s0 (submitOp op flashOk s) := by
  unfold submitOp; exact (keeps_ite (keeps_submitTicket h) h)

theorem keeps_rollForward {s0 s : State} (h : Keeps s0 s) : Keeps s0 (rollForward s) := by
  unfold rollForward; exact (by (try dsimp only); split; exacts [h, (keeps_ite (keeps_lcSteps (keeps_updSec h)) (keeps_updUpd (keeps_updSec h)))])

theorem keeps_makeIdentity {s0 s : State} (h : Keeps s0 s) : Keeps s0 (makeIdentity s) := by
  unfold makeIdentity
  split
  · rename_i c
    have hi : s.otp.identity = false := by simp_all
    have k : Keeps s0 (drawFree 256 (drawFree 384 s).2).2 := keeps_mk (keeps_mk h)
    exact keeps_updOtp ⟨fun _ x => x, fun _ x => x, le_refl _, fun x => x, fun x => by simp [hi] at x, rfl, rfl⟩ k
  · exact h

theorem keeps_marginRead {s0 s : State} (h : Keeps s0 s) : Keeps s0 (marginRead s) :=
  keeps_updOtp ⟨fun _ x => x, fun _ x => x, le_refl _, fun x => x, fun x => ⟨x, rfl⟩, rfl, rfl⟩ h

theorem keeps_bootRom {s0 s : State} (h : Keeps s0 s) : Keeps s0 (bootRom s) := by
  unfold bootRom; exact (keeps_rollForward (keeps_updSec (keeps_newNonce (keeps_makeIdentity (keeps_readStoreRec (keeps_readBoot (keeps_marginRead h)))))))

theorem keeps_execTicketLcAdvance {s0 s t : State} {q : Sys2Proof.Req} {flashOk : Bool} (h : Keeps s0 s) (e : execTicketLcAdvance q flashOk s = .next t) : Keeps s0 t := by
  cases e; exact (keeps_onPage (fun _ h1 => (keeps_submitOp h1)) h)

theorem keeps_execTicketLock {s0 s t : State} {q : Sys2Proof.Req} (h : Keeps s0 s) (e : execTicketLock q s = .next t) : Keeps s0 t := by
  cases e; exact (keeps_onPage (fun _ h1 => (keeps_submitOp h1)) h)

theorem keeps_execTicketUnlock {s0 s t : State} {q : Sys2Proof.Req} (h : Keeps s0 s) (e : execTicketUnlock q s = .next t) : Keeps s0 t := by
  cases e; exact (keeps_onPage (fun _ h1 => (keeps_submitOp h1)) h)

theorem keeps_execTicketCak {s0 s t : State} {q : Sys2Proof.Req} (h : Keeps s0 s) (e : execTicketCak q s = .next t) : Keeps s0 t := by
  cases e; exact (keeps_onPage (fun _ h1 => (keeps_submitOp h1)) h)

theorem keeps_execTicketPermit {s0 s t : State} {q : Sys2Proof.Req} (h : Keeps s0 s) (e : execTicketPermit q s = .next t) : Keeps s0 t := by
  cases e; exact (keeps_onPage (fun _ h1 => (keeps_submitOp h1)) h)

theorem keeps_execTicketRevoke {s0 s t : State} {q : Sys2Proof.Req} (h : Keeps s0 s) (e : execTicketRevoke q s = .next t) : Keeps s0 t := by
  cases e; exact (keeps_onPage (fun _ h1 => (keeps_submitOp h1)) h)

theorem keeps_execPermitExpire {s0 s t : State} (h : Keeps s0 s) (e : execPermitExpire s = .next t) : Keeps s0 t := by
  cases e; exact (keeps_permitExpires h)

theorem keeps_execBatteryCondition {s0 s t : State} {on : Bool} (h : Keeps s0 s) (e : execBatteryCondition on s = .next t) : Keeps s0 t := by
  cases e; exact (keeps_battery h)

theorem keeps_updCode {s0 s : State} {c : Sys2Proof.Byte} (h : Keeps s0 s) : Keeps s0 (updCode c s) := by
  unfold updCode; exact (keeps_updUpd h)

theorem keeps_updRefuse {s0 s : State} {c : Sys2Proof.Byte} (h : Keeps s0 s) : Keeps s0 (updRefuse c s) := by
  unfold updRefuse; exact (keeps_raise (keeps_updCode h))

theorem keeps_updSlot {s0 s : State} {b : Bool} {f : Sys2Proof.Machine.FwSlot → Sys2Proof.Machine.FwSlot} (h : Keeps s0 s) : Keeps s0 (updSlot b f s) := by
  unfold updSlot; exact (keeps_updFlash h)

theorem keeps_cmdUpdLoad {s0 s : State} {slot : Bool} (h : Keeps s0 s) : Keeps s0 (cmdUpdLoad slot s) := by
  unfold cmdUpdLoad; exact (keeps_ite (keeps_updRefuse h) (keeps_writeBoot (keeps_updSlot (keeps_updUpd h))))

theorem keeps_endUpdLoad {s0 s : State} {flashOk : Bool} (h : Keeps s0 s) : Keeps s0 (endUpdLoad flashOk s) := by
  unfold endUpdLoad; exact (keeps_ite h (keeps_ite (keeps_raise (keeps_writeBoot (keeps_updSlot (keeps_updCode (keeps_updUpd h))))) (keeps_ite (keeps_resetDevice (keeps_writeBoot (keeps_updSlot (keeps_raise (keeps_writeBoot (keeps_updSlot (keeps_updCode (keeps_updUpd h)))))))) (keeps_raise (keeps_writeBoot (keeps_updSlot (keeps_updCode (keeps_updUpd h))))))))

theorem keeps_cmdUpdErase {s0 s : State} (h : Keeps s0 s) : Keeps s0 (cmdUpdErase s) := by
  unfold cmdUpdErase; exact (keeps_ite (keeps_updRefuse h) (keeps_writeBoot (keeps_updSlot (keeps_updCode h))))

theorem keeps_cmdUpdActivate {s0 s : State} (h : Keeps s0 s) : Keeps s0 (cmdUpdActivate s) := by
  unfold cmdUpdActivate; exact (keeps_ite (keeps_updRefuse h) (keeps_ite (keeps_updRefuse h) (keeps_ite (keeps_updRefuse h) (by (try dsimp only); split; exacts [(keeps_updRefuse h), (keeps_updCode (keeps_updSec (keeps_updUpd h)))]))))

theorem keeps_cmdUpdCancel {s0 s : State} (h : Keeps s0 s) : Keeps s0 (cmdUpdCancel s) := by
  unfold cmdUpdCancel; exact (keeps_ite (keeps_updRefuse h) (keeps_ite (keeps_updRefuse h) (keeps_updCode (keeps_updUpd h))))

theorem keeps_updCommit {s0 s : State} (h : Keeps s0 s) : Keeps s0 (updCommit s) := by
  unfold updCommit; exact (keeps_ite h (keeps_ite (keeps_writeBoot (keeps_updRunning (keeps_updUpd h))) (keeps_ite (by (try dsimp only); split; exacts [(keeps_updRefuse (keeps_updUpd h)), (keeps_writeBoot (keeps_updFlash (keeps_updOther (keeps_updUpd h))))]) h)))

theorem keeps_confirm {s0 s : State} {token : Word} (h : Keeps s0 s) : Keeps s0 (confirm token s) := by
  unfold confirm
  refine keeps_ite (keeps_updRefuse h) (keeps_ite (keeps_updRefuse h) (keeps_raise (keeps_writeBoot (keeps_updUpd (keeps_updOther
    (keeps_updRunning (keeps_updOtp ⟨fun _ x => x, fun _ x => x, ?_, fun x => x, fun x => ⟨x, rfl⟩, rfl, rfl⟩ h)))))))
  dsimp only
  split
  · exact le_of_lt ‹_›
  · exact le_refl _

theorem keeps_windowExpires {s0 s : State} (h : Keeps s0 s) : Keeps s0 (windowExpires s) := by
  unfold windowExpires; exact (keeps_ite h (keeps_ite (keeps_updUpd (keeps_ite (keeps_giveUp (keeps_reachLocal h)) (keeps_reachLocal h))) (keeps_resetDevice (keeps_writeBoot (keeps_updRunning (keeps_ite (keeps_giveUp (keeps_reachLocal h)) (keeps_reachLocal h)))))))

theorem keeps_cmdUpdStore {s0 s : State} {shadow : Bool} (h : Keeps s0 s) : Keeps s0 (cmdUpdStore shadow s) := by
  unfold cmdUpdStore; exact (keeps_ite (keeps_updRefuse h) (by (try dsimp only); split; exacts [(keeps_updRefuse h), (keeps_updCode (keeps_updUpd h))]))

theorem keeps_putStore {s0 s : State} {e : Option Sys2Proof.Machine.StoreEntry} (h : Keeps s0 s) : Keeps s0 (putStore e s) := by
  unfold putStore; exact (keeps_updFlash h)

theorem keeps_endStore {s0 s : State} {ok : Bool} (h : Keeps s0 s) : Keeps s0 (endStore ok s) := by
  unfold endStore; exact (by (try dsimp only); split; exacts [h, (keeps_ite (keeps_writeBoot (keeps_updFlash (keeps_putStore (keeps_updUpd h)))) (keeps_updRefuse (keeps_putStore (keeps_updUpd h))))])

theorem keeps_fallback {s0 s : State} {why : BitVec 2} (h : Keeps s0 s) : Keeps s0 (fallback why s) := by
  unfold fallback; exact (keeps_raise (keeps_updUpd h))

theorem keeps_chooseSlot {s0 s : State} (h : Keeps s0 s) : Keeps s0 (chooseSlot s).2 := by
  unfold chooseSlot
  dsimp only
  split
  · split
    · exact keeps_writeBoot (keeps_updFlash h)
    · exact keeps_fallback (keeps_writeBoot (keeps_updSlot h))
  · exact h

theorem keeps_runSlot {s0 s : State} {b : Bool} (h : Keeps s0 s) : Keeps s0 (runSlot b s) := by
  unfold runSlot; exact (keeps_updUpd (keeps_updSuper (keeps_mkSram h (fun w => (memWf_write _ _ w)))))

theorem keeps_tryOther {s0 s : State} {b : Bool} (h : Keeps s0 s) : Keeps s0 (tryOther b s) := by
  unfold tryOther; exact (keeps_ite (keeps_runSlot (keeps_writeBoot (keeps_updSlot h))) (keeps_updUpd (keeps_ite (keeps_fallback (keeps_writeBoot (keeps_updSlot h))) h)))

theorem keeps_bootSlots {s0 s : State} (h : Keeps s0 s) : Keeps s0 (bootSlots s) := by
  have k := keeps_chooseSlot h
  unfold bootSlots
  dsimp only
  split
  · exact keeps_ite (keeps_tryOther k) (keeps_tryOther k)
  · exact keeps_ite (keeps_runSlot k) (keeps_tryOther (keeps_fallback (keeps_writeBoot (keeps_updSlot k))))

theorem keeps_execUpdLoad {s0 s t : State} {q : Sys2Proof.Req} {slot : Bool} (h : Keeps s0 s) (e : execUpdLoad q slot s = .next t) : Keeps s0 t := by
  cases e; exact (keeps_onPage (fun _ h1 => (keeps_cmdUpdLoad h1)) h)

theorem keeps_execUpdLoadEnd {s0 s t : State} {flashOk : Bool} (h : Keeps s0 s) (e : execUpdLoadEnd flashOk s = .next t) : Keeps s0 t := by
  cases e; exact (keeps_endUpdLoad h)

theorem keeps_execUpdActivate {s0 s t : State} {q : Sys2Proof.Req} (h : Keeps s0 s) (e : execUpdActivate q s = .next t) : Keeps s0 t := by
  cases e; exact (keeps_onPage (fun _ h1 => (keeps_cmdUpdActivate h1)) h)

theorem keeps_execUpdCancel {s0 s t : State} {q : Sys2Proof.Req} (h : Keeps s0 s) (e : execUpdCancel q s = .next t) : Keeps s0 t := by
  cases e; exact (keeps_onPage (fun _ h1 => (keeps_cmdUpdCancel h1)) h)

theorem keeps_execUpdErase {s0 s t : State} {q : Sys2Proof.Req} (h : Keeps s0 s) (e : execUpdErase q s = .next t) : Keeps s0 t := by
  cases e; exact (keeps_onPage (fun _ h1 => (keeps_cmdUpdErase h1)) h)

theorem keeps_execUpdStore {s0 s t : State} {q : Sys2Proof.Req} {shadow : Bool} (h : Keeps s0 s) (e : execUpdStore q shadow s = .next t) : Keeps s0 t := by
  cases e; exact (keeps_onPage (fun _ h1 => (keeps_cmdUpdStore h1)) h)

theorem keeps_execUpdStoreEnd {s0 s t : State} {ok : Bool} (h : Keeps s0 s) (e : execUpdStoreEnd ok s = .next t) : Keeps s0 t := by
  cases e; exact (keeps_endStore h)

theorem keeps_execUpdateCommitPoint {s0 s t : State} (h : Keeps s0 s) (e : execUpdateCommitPoint s = .next t) : Keeps s0 t := by
  cases e; exact (keeps_updCommit h)

theorem keeps_execUpdConfirm {s0 s t : State} {q : Sys2Proof.Req} {token : Sys2Proof.Word} (h : Keeps s0 s) (e : execUpdConfirm q token s = .next t) : Keeps s0 t := by
  cases e; exact (keeps_onSecure (fun _ h1 => (keeps_confirm h1)) h)

theorem keeps_execConfirmWindowExpire {s0 s t : State} (h : Keeps s0 s) (e : execConfirmWindowExpire s = .next t) : Keeps s0 t := by
  cases e; exact (keeps_windowExpires h)

theorem keeps_linkDown {s0 s : State} {l : ℕ} (h : Keeps s0 s) : Keeps s0 (linkDown l s) := by
  unfold linkDown; exact (by (try dsimp only); split; exacts [h, (keeps_ite (keeps_fieldLinkFalls h) (keeps_portDown (keeps_portDown (keeps_urgent h))))])

theorem keeps_flitFails {s0 s : State} {ld : Sys2Proof.LinkDir} {again : Bool} (h : Keeps s0 s) : Keeps s0 (flitFails ld again s) := by
  unfold flitFails; exact (by (try dsimp only); split; exacts [h, (keeps_ite (keeps_failDevice (keeps_linkDown (keeps_bumpSwitch (keeps_updSwitch (keeps_mk h))))) (keeps_bumpSwitch (keeps_updSwitch (keeps_mk h))))])

theorem keeps_enterPacket {s0 s : State} {src : Sys2Proof.BeSource} {route : Sys2Proof.Word} {addr : Sys2Proof.Word} {kind : Sys2Proof.BeKind} {request : Option ℕ} (h : Keeps s0 s) : Keeps s0 (enterPacket src route addr kind request s) := by
  unfold enterPacket; exact (keeps_mk h)

theorem keeps_launch {s0 s : State} {src : Sys2Proof.BeSource} {route : Sys2Proof.Word} {addr : Sys2Proof.Word} {kind : Sys2Proof.BeKind} (h : Keeps s0 s) : Keeps s0 (launch src route addr kind s) := by
  unfold launch; exact (keeps_ite h (keeps_enterPacket h))

theorem keeps_complete {s0 s : State} {queue : Fin 9} {r : Sys2Proof.Machine.Resp} (h : Keeps s0 s) : Keeps s0 (complete queue r s) := by
  unfold complete; exact (keeps_bump (keeps_send h))

theorem keeps_hostPiece {s0 s : State} {p : Sys2Proof.Machine.Packet} {r : Sys2Proof.Machine.Resp} (h : Keeps s0 s) : Keeps s0 (hostPiece p r s) := by
  unfold hostPiece; exact (by (try dsimp only); split; exacts [h, (keeps_ite (keeps_ite (keeps_complete (keeps_mk h)) (keeps_mk h)) (keeps_mk h))])

theorem keeps_endPacket {s0 s : State} {p : Sys2Proof.Machine.Packet} {r : Sys2Proof.Machine.Resp} (h : Keeps s0 s) : Keeps s0 (endPacket p r s) := by
  unfold endPacket; exact (keeps_hostPiece (keeps_mk h))

theorem keeps_discardPacket {s0 s : State} {p : Sys2Proof.Machine.Packet} (h : Keeps s0 s) : Keeps s0 (discardPacket p s) := by
  unfold discardPacket; exact (keeps_endPacket (keeps_raiseSwitch (keeps_updSwitch h)))

theorem keeps_deliverPacket {s0 s : State} {p : Sys2Proof.Machine.Packet} (h : Keeps s0 s) : Keeps s0 (deliverPacket p s) := by
  unfold deliverPacket; exact (by (try dsimp only); split; exacts [(keeps_ite (keeps_endPacket (keeps_correctIn h)) (keeps_endPacket (keeps_countBad (keeps_correctIn h)))), (keeps_ite (keeps_endPacket (keeps_poolPut h)) (keeps_endPacket (keeps_raiseSwitch (keeps_updSwitch h))))])

theorem keeps_drainLink {s0 s : State} {ld : Sys2Proof.LinkDir} (h : Keeps s0 s) : Keeps s0 (drainLink ld s) := by
  unfold drainLink; exact (by (try dsimp only); split; exacts [h, (keeps_bumpSwitch (keeps_bumpSwitch (keeps_mk h)))])

theorem keeps_holdPacket {s0 s : State} {id : ℕ} {l : ℕ} {back : Bool} (h : Keeps s0 s) : Keeps s0 (holdPacket id l back s) := by
  unfold holdPacket; exact (by (try dsimp only); split; exacts [(keeps_bumpSwitch (keeps_drainLink (keeps_mk h))), h])

theorem keeps_packetArrives {s0 s : State} {id : ℕ} (h : Keeps s0 s) : Keeps s0 (packetArrives id s) := by
  unfold packetArrives; exact (by (try dsimp only); split; exacts [h, (keeps_ite (keeps_discardPacket h) (keeps_ite (keeps_ite (keeps_deliverPacket h) (keeps_discardPacket h)) (by (try dsimp only); split; exacts [(keeps_discardPacket h), (keeps_holdPacket h)])))])

theorem keeps_openWindow {s0 s : State} {ld : Sys2Proof.LinkDir} (h : Keeps s0 s) : Keeps s0 (openWindow ld s) := by
  unfold openWindow; exact (by (try dsimp only); split; exacts [(keeps_drainLink h), (keeps_ite h (keeps_drainLink (keeps_mk (keeps_reach h))))])

theorem keeps_execBePacketLaunch {s0 s t : State} {src : Sys2Proof.BeSource} {route : Sys2Proof.Word} {addr : Sys2Proof.Word} {kind : Sys2Proof.BeKind} (h : Keeps s0 s) (e : execBePacketLaunch src route addr kind s = .next t) : Keeps s0 t := by
  cases e; exact (keeps_launch h)

theorem keeps_execBePacketArrive {s0 s t : State} {id : ℕ} {upsets : List Sys2Proof.Upset} (h : Keeps s0 s) (e : execBePacketArrive id upsets s = .next t) : Keeps s0 t := by
  cases e; exact (keeps_packetArrives (keeps_foldl (fun _ _ h1 => (keeps_upset h1)) h))

theorem keeps_execFlitCheckFail {s0 s t : State} {ld : Sys2Proof.LinkDir} {again : Bool} (h : Keeps s0 s) (e : execFlitCheckFail ld again s = .next t) : Keeps s0 t := by
  cases e; exact (keeps_flitFails h)

theorem keeps_execOpenWindowStart {s0 s t : State} {ld : Sys2Proof.LinkDir} (h : Keeps s0 s) (e : execOpenWindowStart ld s = .next t) : Keeps s0 t := by
  cases e; exact (keeps_openWindow h)

theorem keeps_railDip {s0 s : State} {rail : Fin 6} (h : Keeps s0 s) : Keeps s0 (railDip rail s) := by
  unfold railDip; exact (keeps_raise (keeps_updPwr h))

theorem keeps_railFault {s0 s : State} {rail : Fin 6} (h : Keeps s0 s) : Keeps s0 (railFault rail s) := by
  unfold railFault; exact (keeps_failDevice (keeps_raiseUrgent (keeps_updPwr h)))

theorem keeps_pmbusRead {s0 s : State} {mv : BitVec 10} {da : BitVec 12} (h : Keeps s0 s) : Keeps s0 (pmbusRead mv da s) := by
  unfold pmbusRead; exact (keeps_updPwr h)

theorem keeps_pmbusRetry {s0 s : State} {ok : Bool} (h : Keeps s0 s) : Keeps s0 (pmbusRetry ok s) := by
  unfold pmbusRetry; exact (keeps_updPwr h)

theorem keeps_putTemps {s0 s : State} {t : Fin 7} {ts : Sys2Proof.Vec (BitVec 11) 4} (h : Keeps s0 s) : Keeps s0 (putTemps t ts s) := by
  unfold putTemps; exact (by (try dsimp only); split; exacts [(keeps_ite (keeps_updPwr h) (keeps_updCrest h)), (keeps_updPwr h)])

theorem keeps_recordBad {s0 s : State} {t : Fin 7} {was : BitVec 4} (h : Keeps s0 s) : Keeps s0 (recordBad t was s) := by
  unfold recordBad; exact (keeps_foldl (fun _ _ h1 => (keeps_ite (keeps_note h1) h1)) h)

theorem keeps_beginRamp {s0 s : State} (h : Keeps s0 s) : Keeps s0 (beginRamp s) := by
  unfold beginRamp; exact (keeps_ite h (keeps_updPwr (keeps_foldl (fun _ _ h1 => (keeps_setPd h1)) h)))

theorem keeps_tempConds {s0 s : State} (h : Keeps s0 s) : Keeps s0 (tempConds s) := by
  unfold tempConds; exact (keeps_noteConds (keeps_updPwr h))

theorem keeps_tempRead {s0 s : State} {t : Fin 7} {ts : Sys2Proof.Vec (BitVec 11) 4} {held : Bool} (h : Keeps s0 s) : Keeps s0 (tempRead t ts held s) := by
  unfold tempRead; exact (keeps_ite h (keeps_ite (keeps_failDevice (keeps_recordEvent (keeps_urgent (keeps_beginRamp (keeps_tempConds (keeps_recordBad (keeps_putTemps h))))))) (keeps_beginRamp (keeps_tempConds (keeps_recordBad (keeps_putTemps h))))))

theorem keeps_releaseReset {s0 s : State} {st : Sys2Proof.Straps} {voutMode : Sys2Proof.Byte} (h : Keeps s0 s) : Keeps s0 (releaseReset st voutMode s) := by
  unfold releaseReset; exact (keeps_ite h (keeps_bootRom (keeps_beginRamp (keeps_noteConds (keeps_updPwr (keeps_ite (keeps_setPd (keeps_ite (keeps_resetFoothill (keeps_updHis (keeps_updTrio (keeps_updPwr (keeps_mk h))))) (keeps_updHis (keeps_updTrio (keeps_updPwr (keeps_mk h)))))) (keeps_ite (keeps_resetFoothill (keeps_updHis (keeps_updTrio (keeps_updPwr (keeps_mk h))))) (keeps_updHis (keeps_updTrio (keeps_updPwr (keeps_mk h)))))))))))

theorem keeps_bootComplete {s0 s : State} (h : Keeps s0 s) : Keeps s0 (bootComplete s) := by
  unfold bootComplete; exact (keeps_ite h (keeps_ite (keeps_bootSlots (keeps_ite (keeps_fallback (keeps_passTicks h)) (keeps_passTicks h))) (keeps_updPwr (keeps_updSuper (keeps_bootSlots (keeps_ite (keeps_fallback (keeps_passTicks h)) (keeps_passTicks h)))))))

theorem keeps_selftestEnd {s0 s : State} {failed : Sys2Proof.Vec (BitVec 18) 6} {memFail : BitVec 6} {linkFails : BitVec 17} {ack : Bool} (h : Keeps s0 s) : Keeps s0 (selftestEnd failed memFail linkFails ack s) := by
  unfold selftestEnd; exact (keeps_ite h (by (try dsimp only); split; exacts [(keeps_startFails (keeps_foldl (fun _ _ h1 => (keeps_linkDown h1)) (keeps_ite (keeps_mk (keeps_foldl (fun _ _ h1 => (keeps_testEnds h1)) h)) (keeps_ite (keeps_pdFails (keeps_mk (keeps_foldl (fun _ _ h1 => (keeps_testEnds h1)) h))) (keeps_setPd (keeps_mk (keeps_foldl (fun _ _ h1 => (keeps_testEnds h1)) h))))))), (keeps_ite (keeps_startFails (keeps_foldl (fun _ _ h1 => (keeps_linkDown h1)) (keeps_ite (keeps_mk (keeps_foldl (fun _ _ h1 => (keeps_testEnds h1)) h)) (keeps_ite (keeps_pdFails (keeps_mk (keeps_foldl (fun _ _ h1 => (keeps_testEnds h1)) h))) (keeps_setPd (keeps_mk (keeps_foldl (fun _ _ h1 => (keeps_testEnds h1)) h))))))) (keeps_writeVout (keeps_updPwr (keeps_foldl (fun _ _ h1 => (keeps_linkDown h1)) (keeps_ite (keeps_mk (keeps_foldl (fun _ _ h1 => (keeps_testEnds h1)) h)) (keeps_ite (keeps_pdFails (keeps_mk (keeps_foldl (fun _ _ h1 => (keeps_testEnds h1)) h))) (keeps_setPd (keeps_mk (keeps_foldl (fun _ _ h1 => (keeps_testEnds h1)) h)))))))))]))

theorem keeps_putSpeeds {s0 s : State} {readings : Sys2Proof.Vec (Sys2Proof.Vec (BitVec 12) 8) 6} (h : Keeps s0 s) : Keeps s0 (putSpeeds readings s) := by
  unfold putSpeeds; exact (keeps_foldl (fun _ _ h1 => (keeps_updCrest h1)) h)

theorem keeps_putGuards {s0 s : State} (h : Keeps s0 s) : Keeps s0 (putGuards s) := by
  unfold putGuards; exact (keeps_noteConds (keeps_foldl (fun _ _ h1 => (keeps_updCrest h1)) h))

theorem keeps_speedStep {s0 s : State} {readings : Sys2Proof.Vec (Sys2Proof.Vec (BitVec 12) 8) 6} {ack : Bool} (h : Keeps s0 s) : Keeps s0 (speedStep readings ack s) := by
  unfold speedStep; exact (keeps_ite h (keeps_ite (keeps_writeVout (keeps_updPwr (keeps_putSpeeds h))) (keeps_ite (keeps_ite (keeps_startFails (keeps_putGuards (keeps_putSpeeds h))) (keeps_updPwr (keeps_putGuards (keeps_putSpeeds h)))) (keeps_writeVout (keeps_putSpeeds h)))))

theorem keeps_startLoop {s0 s : State} {x : Sys2Proof.Machine.LoopCfg} (h : Keeps s0 s) : Keeps s0 (startLoop x s) := by
  unfold startLoop; exact (keeps_updLoop (keeps_loopWritten (keeps_loopWritten h)))

theorem keeps_imageEnd {s0 s : State} (h : Keeps s0 s) : Keeps s0 (imageEnd s) := by
  unfold imageEnd; exact (keeps_ite h (keeps_ite (keeps_updPwr (keeps_updUpd h)) (keeps_ite (keeps_updPwr (keeps_writeBoot (keeps_updFlash (keeps_updUpd (keeps_updUpd h))))) (keeps_startFails (keeps_updUpd (keeps_updUpd h))))))

theorem keeps_applyAppConfig {s0 s : State} {a : Sys2Proof.Machine.AppImage} (h : Keeps s0 s) : Keeps s0 (applyAppConfig a s) := by
  unfold applyAppConfig; exact (keeps_refreshShares (keeps_updSuper (keeps_foldl (fun _ _ h1 => (keeps_updUart h1)) (keeps_foldl (fun _ _ h1 => (keeps_updPort h1)) (keeps_foldl (fun _ _ h1 => (keeps_updCan h1)) h)))))

theorem keeps_loadCopies {s0 s : State} {a : AppImage} (h : Keeps s0 s) : Keeps s0 (loadCopies a s) := by
  unfold loadCopies
  refine keeps_mkPool h fun w => memWf_foldl (fun _ _ w0 => memWf_clear _ _ w0) (memWf_foldl (fun _ e w0 => ?_)
    (memWf_foldl (fun _ _ w0 => memWf_write _ _ w0) w))
  split
  · exact memWf_write _ _ w0
  · exact w0

theorem keeps_lockPages {s0 s : State} {pgs : List Sys2Proof.Page} (h : Keeps s0 s) : Keeps s0 (lockPages pgs s) := by
  unfold lockPages; exact (keeps_foldl (fun _ _ h1 => (keeps_updHdr h1)) h)

theorem keeps_loadEntry {s0 s : State} {e : Sys2Proof.Machine.StoreEntry} (h : Keeps s0 s) : Keeps s0 (loadEntry e s) := by
  unfold loadEntry; exact (keeps_lockPages (keeps_noteConds (keeps_refreshField (keeps_applyAppConfig (keeps_foldl (fun _ _ h1 => (keeps_startLoop h1)) (keeps_loadCopies (keeps_copyCode (keeps_updSched (keeps_updRun h)))))))))

theorem keeps_sealCheck {s0 s : State} (h : Keeps s0 s) : Keeps s0 (sealCheck s) := by
  unfold sealCheck; exact (by (try dsimp only); split; exacts [(keeps_becomeReady h), (keeps_ite (keeps_becomeReady (keeps_startFuncs (keeps_updSafety h))) (keeps_enterSafeHold h))])

theorem keeps_contextEnd {s0 s : State} (h : Keeps s0 s) : Keeps s0 (contextEnd s) := by
  unfold contextEnd; exact (keeps_ite h (by (try dsimp only); split; exacts [h, (keeps_sealCheck (keeps_updPwr (keeps_loadEntry h)))]))

theorem keeps_execResetRelease {s0 s t : State} {straps : Sys2Proof.Straps} {voutMode : Sys2Proof.Byte} (h : Keeps s0 s) (e : execResetRelease straps voutMode s = .next t) : Keeps s0 t := by
  cases e; exact (keeps_releaseReset h)

theorem keeps_execBootComplete {s0 s t : State} (h : Keeps s0 s) (e : execBootComplete s = .next t) : Keeps s0 t := by
  cases e; exact (keeps_bootComplete h)

theorem keeps_execStartupSelftestEnd {s0 s t : State} {failed : Sys2Proof.Vec (BitVec 18) 6} {memFail : BitVec 6} {linkFails : BitVec 17} {ack : Bool} (h : Keeps s0 s) (e : execStartupSelftestEnd failed memFail linkFails ack s = .next t) : Keeps s0 t := by
  cases e; exact (keeps_selftestEnd h)

theorem keeps_execSpeedCharStep {s0 s t : State} {readings : Sys2Proof.Vec (Sys2Proof.Vec (BitVec 12) 8) 6} {ack : Bool} (h : Keeps s0 s) (e : execSpeedCharStep readings ack s = .next t) : Keeps s0 t := by
  cases e; exact (keeps_speedStep h)

theorem keeps_execStartupImageEnd {s0 s t : State} (h : Keeps s0 s) (e : execStartupImageEnd s = .next t) : Keeps s0 t := by
  cases e; exact (keeps_imageEnd h)

theorem keeps_execStartupContextEnd {s0 s t : State} (h : Keeps s0 s) (e : execStartupContextEnd s = .next t) : Keeps s0 t := by
  cases e; exact (keeps_contextEnd h)

theorem keeps_execRailDip {s0 s t : State} {rail : Fin 6} (h : Keeps s0 s) (e : execRailDip rail s = .next t) : Keeps s0 t := by
  cases e; exact (keeps_railDip h)

theorem keeps_execRailFault {s0 s t : State} {rail : Fin 6} (h : Keeps s0 s) (e : execRailFault rail s = .next t) : Keeps s0 t := by
  cases e; exact (keeps_railFault h)

theorem keeps_execPmbusRead {s0 s t : State} {mv : BitVec 10} {da : BitVec 12} (h : Keeps s0 s) (e : execPmbusRead mv da s = .next t) : Keeps s0 t := by
  cases e; exact (keeps_pmbusRead h)

theorem keeps_execPmbusFail {s0 s t : State} (h : Keeps s0 s) (e : execPmbusFail s = .next t) : Keeps s0 t := by
  cases e; exact (keeps_pmbusFail h)

theorem keeps_execPmbusRetry {s0 s t : State} {ok : Bool} (h : Keeps s0 s) (e : execPmbusRetry ok s = .next t) : Keeps s0 t := by
  cases e; exact (keeps_pmbusRetry h)

theorem keeps_execTempRead {s0 s t : State} {tile : Fin 7} {temps : Sys2Proof.Vec (BitVec 11) 4} {held : Bool} (h : Keeps s0 s) (e : execTempRead tile temps held s = .next t) : Keeps s0 t := by
  cases e; exact (keeps_tempRead h)

theorem keeps_execPmbAlert {s0 s t : State} (h : Keeps s0 s) (e : execPmbAlert s = .next t) : Keeps s0 t := by
  cases e; exact (by (try dsimp only [drawFree]); exact (keeps_recordEvent (keeps_mk h)))

theorem keeps_writeSaddle {s0 s : State} {off : ℕ} {d : List Sys2Proof.Byte} (h : Keeps s0 s) : Keeps s0 (writeSaddle off d s) := by
  unfold writeSaddle; exact (keeps_ite (keeps_updStation h) (keeps_dite (fun _ => (keeps_updCan h)) (fun _ => h)))

theorem keeps_writeFlit {s0 s : State} {a : Sys2Proof.Word} {d : List Sys2Proof.Byte} (h : Keeps s0 s) : Keeps s0 (writeFlit a d s) := by
  unfold writeFlit; exact (keeps_ite (keeps_writeSaddle h) (by (try dsimp only); split; exacts [(keeps_loopPut h), (keeps_ite (keeps_writeFieldFlit h) (keeps_writePanelFlit h))]))

theorem keeps_putFlit {s0 s : State} {a : Sys2Proof.Word} {d : List Sys2Proof.Byte} (h : Keeps s0 s) : Keeps s0 (putFlit a d s) := by
  unfold putFlit; exact (keeps_ite (keeps_mk h) (keeps_writeFlit h))

theorem keeps_writeSpan {s0 s : State} {a : Sys2Proof.Word} {d : List Sys2Proof.Byte} (h : Keeps s0 s) : Keeps s0 (writeSpan a d s) := by
  unfold writeSpan; exact (keeps_ite (keeps_poolPut h) (keeps_foldl (fun _ _ h1 => (keeps_putFlit h1)) h))

theorem keeps_endSlotWrites {s0 s : State} (h : Keeps s0 s) : Keeps s0 (endSlotWrites s) := by
  unfold endSlotWrites; exact (keeps_foldl (fun _ _ h1 => (keeps_writeFlit h1)) (keeps_mk h))

theorem keeps_countRoute {s0 s : State} {im : Sys2Proof.Machine.SchedImage} {i : ℕ} {n : ℕ} (h : Keeps s0 s) : Keeps s0 (countRoute im i n s) := by
  unfold countRoute; exact (keeps_foldl (fun _ _ h1 => (keeps_bumpSwitch (keeps_bumpSwitch h1))) h)

theorem keeps_countToSaddle {s0 s : State} {im : Sys2Proof.Machine.SchedImage} {a : Sys2Proof.Word} {n : ℕ} (h : Keeps s0 s) : Keeps s0 (countToSaddle im a n s) := by
  unfold countToSaddle; exact (by (try dsimp only); split; exacts [(keeps_ite h (keeps_countRoute h)), h])

theorem keeps_takeHalf {s0 s : State} {im : Sys2Proof.Machine.SchedImage} {c : Fin 6} {i : Fin 18} (h : Keeps s0 s) : Keeps s0 (takeHalf im c s i) := by
  unfold takeHalf; exact (keeps_updEngine h)

theorem keeps_unloadStep {s0 s : State} {im : Sys2Proof.Machine.SchedImage} {e : Sys2Proof.EngRef} {entry : Sys2Proof.Machine.EngineStep} (h : Keeps s0 s) : Keeps s0 (unloadStep im e entry s) := by
  unfold unloadStep; exact (keeps_ite (keeps_abandonTask h) (keeps_ite (keeps_countRoute (keeps_poolPut (keeps_updEngine h))) (keeps_updEngine h)))

theorem keeps_loadStep {s0 s : State} {im : Sys2Proof.Machine.SchedImage} {e : Sys2Proof.EngRef} {entry : Sys2Proof.Machine.EngineStep} (h : Keeps s0 s) : Keeps s0 (loadStep im e entry s) := by
  unfold loadStep; exact (keeps_ite h (keeps_ite (keeps_engineX (keeps_updEngine (keeps_ite (keeps_countRoute (keeps_scanSpan (keeps_scanSpan (keeps_ite (keeps_abandonTask h) h)))) (keeps_countRoute (keeps_countRoute (keeps_scanSpan (keeps_scanSpan (keeps_ite (keeps_abandonTask h) h)))))))) (keeps_updEngine (keeps_ite (keeps_countRoute (keeps_scanSpan (keeps_scanSpan (keeps_ite (keeps_abandonTask h) h)))) (keeps_countRoute (keeps_countRoute (keeps_scanSpan (keeps_scanSpan (keeps_ite (keeps_abandonTask h) h)))))))))

theorem keeps_impliedTransfers {s0 s : State} {im : Sys2Proof.Machine.SchedImage} {x : Sys2Proof.Machine.EngineStep} (h : Keeps s0 s) : Keeps s0 (impliedTransfers im s x) := by
  unfold impliedTransfers; exact (by (try dsimp only); split; exacts [h, (by (try dsimp only); split; exacts [h, (keeps_ite (keeps_unloadStep h) (keeps_ite (keeps_loadStep h) h))])])

theorem keeps_startStep {s0 s : State} {im : Sys2Proof.Machine.SchedImage} {c : Fin 6} {i : Fin 18} (h : Keeps s0 s) : Keeps s0 (startStep im c s i) := by
  unfold startStep; exact (keeps_ite h (by (try dsimp only); split; exacts [(keeps_updEngine h), (keeps_bump (keeps_updEngine h))]))

theorem keeps_moveFlit {s0 s : State} {was : Sys2Proof.Machine.State} {e : Sys2Proof.Machine.Transfer} {k : ℕ} (h : Keeps s0 s) : Keeps s0 (moveFlit was e s k) := by
  unfold moveFlit; exact (keeps_ite h (keeps_ite (keeps_forwardBytes (keeps_writeSpan h)) (keeps_writeSpan h)))

theorem keeps_moveFlits {s0 s : State} {im : Sys2Proof.Machine.SchedImage} {e : Sys2Proof.Machine.Transfer} (h : Keeps s0 s) : Keeps s0 (moveFlits im e s) := by
  unfold moveFlits; exact (keeps_foldl (fun _ _ h1 => (keeps_moveFlit h1)) (keeps_ite (keeps_updRun (keeps_scanSpan (keeps_countRoute h))) (keeps_scanSpan (keeps_countRoute h))))

theorem keeps_transfer {s0 s : State} {im : Sys2Proof.Machine.SchedImage} {e : Sys2Proof.Machine.Transfer} (h : Keeps s0 s) : Keeps s0 (transfer im s e) := by
  unfold transfer; exact (by (try dsimp only); split; exacts [(keeps_ite h (keeps_moveFlits h)), (keeps_ite (keeps_moveFlits h) h), (by (try dsimp only); split; exacts [(keeps_ite (keeps_updTask (keeps_moveFlits h)) h), h])])

theorem keeps_exchange {s0 s : State} {im : Sys2Proof.Machine.SchedImage} {e : Sys2Proof.Machine.TrioExchange} (h : Keeps s0 s) : Keeps s0 (exchange im s e) := by
  unfold exchange; exact (keeps_ite h (keeps_sendExchange (keeps_countToSaddle h)))

theorem keeps_captureEntry {s0 s : State} {im : Sys2Proof.Machine.SchedImage} {x : Sys2Proof.Machine.Capture × ℕ} (h : Keeps s0 s) : Keeps s0 (captureEntry im s x) := by
  unfold captureEntry; exact (keeps_ite h (keeps_capture (keeps_scanSpan (keeps_countToSaddle h))))

theorem keeps_slotTransfers {s0 s : State} {im : Sys2Proof.Machine.SchedImage} (h : Keeps s0 s) : Keeps s0 (slotTransfers im s) := by
  unfold slotTransfers; exact (keeps_ite (keeps_foldl (fun _ _ h1 => (keeps_transfer h1)) h) (keeps_ite (keeps_foldl (fun _ _ h1 => (keeps_transfer h1)) h) h))

theorem keeps_clearLate {s0 s : State} (h : Keeps s0 s) : Keeps s0 (clearLate s) := by
  unfold clearLate; exact (keeps_mk h)

theorem keeps_noneTaken {s0 s : State} (h : Keeps s0 s) : Keeps s0 (noneTaken s) := by
  unfold noneTaken; exact (keeps_mk h)

theorem keeps_slotStart {s0 s : State} {upsets : List Sys2Proof.Upset} (h : Keeps s0 s) : Keeps s0 (slotStart upsets s) := by
  unfold slotStart; exact (by (try dsimp only); split; exacts [h, (keeps_ite h (keeps_ite (keeps_foldl (fun _ _ h1 => (keeps_captureEntry h1)) (keeps_drainTrio (keeps_foldl (fun _ _ h1 => (keeps_exchange h1)) (keeps_slotTransfers (keeps_ite (keeps_foldl (fun _ _ h1 => (keeps_impliedTransfers h1)) (keeps_foldl (fun _ _ h1 => (keeps_takeHalf h1)) (keeps_clearLate (keeps_updSched (keeps_endSlotWrites (keeps_foldl (fun _ _ h1 => (keeps_upset h1)) (keeps_reach h))))))) (keeps_noneTaken (keeps_clearLate (keeps_updSched (keeps_endSlotWrites (keeps_foldl (fun _ _ h1 => (keeps_upset h1)) (keeps_reach h))))))))))) (keeps_drainTrio (keeps_foldl (fun _ _ h1 => (keeps_exchange h1)) (keeps_slotTransfers (keeps_ite (keeps_foldl (fun _ _ h1 => (keeps_impliedTransfers h1)) (keeps_foldl (fun _ _ h1 => (keeps_takeHalf h1)) (keeps_clearLate (keeps_updSched (keeps_endSlotWrites (keeps_foldl (fun _ _ h1 => (keeps_upset h1)) (keeps_reach h))))))) (keeps_noneTaken (keeps_clearLate (keeps_updSched (keeps_endSlotWrites (keeps_foldl (fun _ _ h1 => (keeps_upset h1)) (keeps_reach h))))))))))))])

theorem keeps_loopEntries {s0 s : State} {im : Sys2Proof.Machine.SchedImage} {ended : Sys2Proof.Vec (Option (BitVec 7)) 6} {c : Fin 6} (h : Keeps s0 s) : Keeps s0 (loopEntries im ended s c) := by
  unfold loopEntries; exact (keeps_ite h (keeps_foldl (fun _ _ h1 => (keeps_runLoopEntry h1)) (keeps_updCrest h)))

theorem keeps_stepStart {s0 s : State} {upsets : List Sys2Proof.Upset} {ended : Sys2Proof.Vec (Option (BitVec 7)) 6} (h : Keeps s0 s) : Keeps s0 (stepStart upsets ended s) := by
  unfold stepStart; exact (by (try dsimp only); split; exacts [h, (keeps_ite h (keeps_foldl (fun _ _ h1 => (keeps_loopEntries h1)) (keeps_foldl (fun _ _ h1 => (keeps_startStep h1)) (keeps_foldl (fun _ _ h1 => (keeps_upset h1)) (keeps_reach h)))))])

theorem keeps_engineLate {s0 s : State} {c : Fin 6} {i : Fin 18} (h : Keeps s0 s) : Keeps s0 (engineLate c s i) := by
  unfold engineLate; exact (by (try dsimp only); split; exacts [(keeps_overrun (keeps_engineX h)), h])

theorem keeps_loopsLate {s0 s : State} {c : Fin 6} (h : Keeps s0 s) : Keeps s0 (loopsLate s c) := by
  unfold loopsLate; exact (keeps_ite (keeps_overrun h) h)

theorem keeps_slotDeadline {s0 s : State} {lateTransfers : BitVec 8} (h : Keeps s0 s) : Keeps s0 (slotDeadline lateTransfers s) := by
  unfold slotDeadline; exact (by (try dsimp only); split; exacts [h, (keeps_ite h (keeps_ite (keeps_foldl (fun _ _ h1 => (keeps_loopsLate h1)) (keeps_foldl (fun _ _ h1 => (keeps_foldl (fun _ _ h2 => (keeps_engineLate h2)) h1)) (keeps_reach h))) (keeps_foldl (fun _ _ h1 => (keeps_ite (keeps_overrun h1) h1)) (keeps_foldl (fun _ _ h1 => (keeps_loopsLate h1)) (keeps_foldl (fun _ _ h1 => (keeps_foldl (fun _ _ h2 => (keeps_engineLate h2)) h1)) (keeps_reach h))))))])

theorem keeps_execSlotStart {s0 s t : State} {upsets : List Sys2Proof.Upset} (h : Keeps s0 s) (e : execSlotStart upsets s = .next t) : Keeps s0 t := by
  cases e; exact (keeps_slotStart h)

theorem keeps_execStepStart {s0 s t : State} {upsets : List Sys2Proof.Upset} {ended : Sys2Proof.Vec (Option (BitVec 7)) 6} (h : Keeps s0 s) (e : execStepStart upsets ended s = .next t) : Keeps s0 t := by
  cases e; exact (keeps_stepStart h)

theorem keeps_execSlotDeadline {s0 s t : State} {lateTransfers : BitVec 8} (h : Keeps s0 s) (e : execSlotDeadline lateTransfers s = .next t) : Keeps s0 t := by
  cases e; exact (keeps_slotDeadline h)

theorem keeps_endTasks {s0 s : State} (h : Keeps s0 s) : Keeps s0 (endTasks s) := by
  unfold endTasks; exact (keeps_foldl (fun _ _ h1 => (keeps_note h1)) (keeps_updRun h))

theorem keeps_endTiles {s0 s : State} (h : Keeps s0 s) : Keeps s0 (endTiles s) := by
  unfold endTiles; exact (keeps_ite (keeps_ite (keeps_giveUp (keeps_ite (keeps_failSelfTest (keeps_mk h)) (keeps_mk h))) (keeps_stopController (keeps_ite (keeps_failSelfTest (keeps_mk h)) (keeps_mk h)))) (keeps_ite (keeps_failSelfTest (keeps_mk h)) (keeps_mk h)))

theorem keeps_noteMirror {s0 s : State} (h : Keeps s0 s) : Keeps s0 (noteMirror s) := by
  unfold noteMirror; exact (keeps_updTrio h)

theorem keeps_unfence {s0 s : State} (h : Keeps s0 s) : Keeps s0 (unfence s) := by
  unfold unfence; exact (keeps_updField (keeps_updTrio h))

theorem keeps_rejoinAtStart {s0 s : State} (h : Keeps s0 s) : Keeps s0 (rejoinAtStart s) := by
  unfold rejoinAtStart; exact (keeps_ite (keeps_updTrio h) (keeps_ite (keeps_updHis (keeps_updRun (keeps_updTrio h))) (keeps_ite (keeps_raise (keeps_updTrio h)) h)))

theorem keeps_bulkFlits {s0 s : State} {m : Fin 3} {x : Sys2Proof.Word × List Sys2Proof.Byte} (h : Keeps s0 s) : Keeps s0 (bulkFlits s m x) := by
  unfold bulkFlits; exact (keeps_foldl (fun _ _ h1 => (keeps_queueCopy h1)) h)

theorem keeps_bulkCopy {s0 s : State} {b : BitVec 2} (h : Keeps s0 s) : Keeps s0 (bulkCopy b s) := by
  unfold bulkCopy; exact (keeps_dite (fun _ => (keeps_drainTrio (keeps_foldl (fun _ _ h1 => (keeps_bulkFlits (keeps_scanSpan h1))) h))) (fun _ => h))

theorem keeps_dropCopy {s0 s : State} (h : Keeps s0 s) : Keeps s0 (dropCopy s) := by
  unfold dropCopy; exact (keeps_updTrio h)

theorem keeps_donorAtStart {s0 s : State} (h : Keeps s0 s) : Keeps s0 (donorAtStart s) := by
  unfold donorAtStart; exact (keeps_ite h (keeps_elim (keeps_updTrio (keeps_dropCopy h)) (fun _ => (keeps_bulkCopy (keeps_updTrio (keeps_dropCopy h))))))

theorem keeps_setEnables {s0 s : State} (h : Keeps s0 s) : Keeps s0 (setEnables s) := by
  unfold setEnables; exact (keeps_updField (keeps_updTrio h))

theorem keeps_applyRoster {s0 s : State} (h : Keeps s0 s) : Keeps s0 (applyRoster s) := by
  unfold applyRoster; exact (keeps_setEnables (keeps_donorAtStart (keeps_rejoinAtStart (by (try dsimp only); split; exacts [h, (keeps_ite (keeps_raise (keeps_noteConds (keeps_ite (keeps_unfence (keeps_updTrio h)) (keeps_updTrio h)))) (keeps_noteConds (keeps_ite (keeps_unfence (keeps_updTrio h)) (keeps_updTrio h))))]))))

theorem keeps_releaseSafe {s0 s : State} {cls : ℕ} {inst : ℕ} (h : Keeps s0 s) : Keeps s0 (releaseSafe cls inst s) := by
  unfold releaseSafe; exact (keeps_updField h)

theorem keeps_dropBank {s0 s : State} {cls : ℕ} {inst : ℕ} (h : Keeps s0 s) : Keeps s0 (dropBank cls inst s) := by
  unfold dropBank; exact (keeps_updField h)

theorem keeps_commitGroup {s0 s : State} {eff : Bool} {g : Sys2Proof.Machine.IoGroup} (h : Keeps s0 s) : Keeps s0 (commitGroup eff s g) := by
  unfold commitGroup; exact (keeps_ite (keeps_ite (keeps_commitPanel (keeps_ite (keeps_bump h) h)) (keeps_ite (keeps_bump h) h)) (keeps_ite (keeps_queueKeaco (keeps_ite (keeps_bump h) h)) (keeps_ite (keeps_releaseSafe (keeps_commitBank (keeps_ite (keeps_bump h) h))) (keeps_dropBank (keeps_ite (keeps_bump h) h)))))

theorem keeps_commits {s0 s : State} {r : BitVec 10} (h : Keeps s0 s) : Keeps s0 (commits r s) := by
  unfold commits; exact (keeps_refreshField (keeps_foldl (fun _ _ h1 => (keeps_commitGroup h1)) (keeps_ite (keeps_noteCommitted h) h)))

theorem keeps_latchField {s0 s : State} (h : Keeps s0 s) : Keeps s0 (latchField s) := by
  unfold latchField; exact (keeps_ite (keeps_latchReadback (keeps_latchDi h)) h)

theorem keeps_boundary {s0 s : State} {r : BitVec 10} (h : Keeps s0 s) : Keeps s0 (boundary r s) := by
  unfold boundary; exact (keeps_commits (keeps_applyRoster (keeps_noteMirror (keeps_endTasks (keeps_endTiles (keeps_judgeOutputs (keeps_latchField (keeps_applyStep (keeps_endSlotWrites h)))))))))

theorem keeps_toNextRound {s0 s : State} (h : Keeps s0 s) : Keeps s0 (toNextRound s) := by
  unfold toNextRound; exact (keeps_updSched h)

theorem keeps_passBoundary {s0 s : State} (h : Keeps s0 s) : Keeps s0 (passBoundary s) := by
  unfold passBoundary; exact (keeps_toNextRound (keeps_boundary (keeps_reach h)))

theorem keeps_enterFrame {s0 s : State} (h : Keeps s0 s) : Keeps s0 (enterFrame s) := by
  unfold enterFrame; exact (keeps_ite h (keeps_updSched (keeps_passBoundary h)))

theorem keeps_retireAtStart {s0 s : State} {c : Fin 6} (h : Keeps s0 s) : Keeps s0 (retireAtStart c s) := by
  unfold retireAtStart; exact (keeps_ite h (keeps_ite (keeps_updCrest h) (keeps_raise (keeps_updCrest h))))

theorem keeps_putVariant {s0 s : State} {im : Sys2Proof.Machine.SchedImage} {c : Fin 6} (h : Keeps s0 s) : Keeps s0 (putVariant im c s) := by
  unfold putVariant; exact (by (try dsimp only); split; exacts [(keeps_updCrest h), h])

theorem keeps_sampleGroup {s0 s : State} {g : Sys2Proof.Machine.IoGroup} (h : Keeps s0 s) : Keeps s0 (sampleGroup s g) := by
  unfold sampleGroup; exact (keeps_ite (keeps_ite (keeps_ite (keeps_sampleBank h) h) (keeps_ite (keeps_ite (keeps_samplePanel h) h) (keeps_ite (keeps_stationScan h) (keeps_dite (fun _ => (keeps_canLatch h)) (fun _ => (keeps_dite (fun _ => (keeps_uartLatch h)) (fun _ => h))))))) (keeps_updRun (keeps_ite (keeps_ite (keeps_sampleBank h) h) (keeps_ite (keeps_ite (keeps_samplePanel h) h) (keeps_ite (keeps_stationScan h) (keeps_dite (fun _ => (keeps_canLatch h)) (fun _ => (keeps_dite (fun _ => (keeps_uartLatch h)) (fun _ => h)))))))))

theorem keeps_samples {s0 s : State} (h : Keeps s0 s) : Keeps s0 (samples s) := by
  unfold samples; exact (keeps_foldl (fun _ _ h1 => (keeps_sampleGroup h1)) h)

theorem keeps_shiftTrio {s0 s : State} {first : Bool} (h : Keeps s0 s) : Keeps s0 (shiftTrio first s) := by
  unfold shiftTrio; exact (keeps_updTrio h)

theorem keeps_shiftTasks {s0 s : State} (h : Keeps s0 s) : Keeps s0 (shiftTasks s) := by
  unfold shiftTasks; exact (keeps_updRun h)

theorem keeps_newRound {s0 s : State} {first : Bool} (h : Keeps s0 s) : Keeps s0 (newRound first s) := by
  unfold newRound; exact (by (try dsimp only); split; exacts [h, (keeps_countGroups (keeps_bump (keeps_forwardChanges (keeps_scanConns (keeps_deliverAllCalls (keeps_takeSeal (keeps_ageKeys (keeps_ageForces (keeps_stoppedHolds (keeps_samples (keeps_shiftTasks (keeps_shiftTrio (keeps_foldl (fun _ _ h1 => (keeps_putVariant (keeps_retireAtStart h1))) (keeps_roundInstant (keeps_ite (keeps_alignTrim (keeps_updSched h)) (keeps_updSched h))))))))))))))))])

theorem keeps_firstRound {s0 s : State} (h : Keeps s0 s) : Keeps s0 (firstRound s) := by
  unfold firstRound; exact (keeps_newRound (keeps_latchField (keeps_setEnables (keeps_startWindows (keeps_layoutStarts (keeps_lockPages (keeps_applyStep (keeps_updRun (keeps_updSched (keeps_reach h))))))))))

theorem keeps_startRound {s0 s : State} (h : Keeps s0 s) : Keeps s0 (startRound s) := by
  unfold startRound; exact (keeps_ite (keeps_ite (keeps_firstRound h) h) (keeps_ite (keeps_updateRestart h) (keeps_ite (keeps_newRound h) (keeps_newRound (keeps_passBoundary h)))))

theorem keeps_swapBanks {s0 s : State} (h : Keeps s0 s) : Keeps s0 (swapBanks s) := by
  unfold swapBanks; exact (keeps_raise (keeps_updSched h))

theorem keeps_scheduleSwap {s0 s : State} (h : Keeps s0 s) : Keeps s0 (scheduleSwap s) := by
  unfold scheduleSwap; exact (keeps_ite h (keeps_ite (keeps_swapBanks (keeps_enterFrame h)) (keeps_enterFrame h)))

theorem keeps_exchangeLoop {s0 s : State} {was : Sys2Proof.Machine.State} {old : Sys2Proof.Machine.AppImage} {new : Sys2Proof.Machine.AppImage} {x : Sys2Proof.Machine.LoopCfg} (h : Keeps s0 s) : Keeps s0 (exchangeLoop was old new s x) := by
  unfold exchangeLoop; exact (keeps_ite (keeps_startLoop h) (keeps_ite (keeps_takeParams h) (keeps_raise (keeps_updLoop h))))

theorem keeps_exchangeFuncs {s0 s : State} {old : List Sys2Proof.Machine.FuncCfg} (h : Keeps s0 s) : Keeps s0 (exchangeFuncs old s) := by
  unfold exchangeFuncs; exact (keeps_updSafety h)

theorem keeps_exchangeStations {s0 s : State} {old : Sys2Proof.Machine.AppImage} {new : Sys2Proof.Machine.AppImage} (h : Keeps s0 s) : Keeps s0 (exchangeStations old new s) := by
  unfold exchangeStations; exact (keeps_foldl (fun _ _ h1 => (keeps_updStation h1)) h)

theorem keeps_exchangeBanks {s0 s : State} {old : Sys2Proof.Machine.AppImage} {new : Sys2Proof.Machine.AppImage} (h : Keeps s0 s) : Keeps s0 (exchangeBanks old new s) := by
  unfold exchangeBanks; exact (keeps_raise (keeps_noteConds (keeps_refreshField (keeps_exchangeField (keeps_applyAppConfig (keeps_layoutWaits (keeps_exchangeForces (keeps_ite (keeps_updSafety (keeps_exchangeStations (keeps_exchangeFuncs (keeps_foldl (fun _ _ h1 => (keeps_exchangeLoop h1)) (keeps_updRun h))))) (keeps_startWindows (keeps_updSafety (keeps_exchangeStations (keeps_exchangeFuncs (keeps_foldl (fun _ _ h1 => (keeps_exchangeLoop h1)) (keeps_updRun h))))))))))))))

theorem keeps_appExchange {s0 s : State} (h : Keeps s0 s) : Keeps s0 (appExchange s) := by
  unfold appExchange; exact (keeps_ite h (by (try dsimp only); split; exacts [(keeps_exchangeBanks (keeps_enterFrame h)), (keeps_enterFrame h)]))

theorem keeps_execRoundStart {s0 s t : State} (h : Keeps s0 s) (e : execRoundStart s = .next t) : Keeps s0 t := by
  cases e; exact (keeps_startRound h)

theorem keeps_execScheduleSwap {s0 s t : State} (h : Keeps s0 s) (e : execScheduleSwap s = .next t) : Keeps s0 t := by
  cases e; exact (keeps_scheduleSwap h)

theorem keeps_execAppExchange {s0 s t : State} (h : Keeps s0 s) (e : execAppExchange s = .next t) : Keeps s0 t := by
  cases e; exact (keeps_appExchange h)

theorem keeps_readInstant {s0 s : State} {w : Sys2Proof.Requester} {pg : Sys2Proof.Page} {off : ℕ} {i : Sys2Proof.Machine.Instant} (h : Keeps s0 s) : Keeps s0 (readInstant w pg off i s) := by
  unfold readInstant; exact (keeps_answer (keeps_latchPut (keeps_latchPut h)))

theorem keeps_readSpecial {s0 s : State} {w : Requester} {pg : Page} {off : Nat} {f : State → State} (h : Keeps s0 s)
    (e : readSpecial w pg off = some f) : Keeps s0 (f s) := by
  unfold readSpecial at e
  split at e
  · split at e
    · cases e; exact keeps_readNow h
    · split at e
      · cases e; exact keeps_readGcnt h
      · split at e
        · cases e; exact keeps_readInstant h
        · split at e
          · cases e; exact keeps_readInstant h
          · cases e
  · split at e
    · cases e; exact keeps_readInstant h
    · cases e
  · split at e
    · cases e; exact keeps_uartRead h
    · split at e
      · cases e; exact keeps_uartMarkRead h
      · cases e
  · split at e
    · cases e; exact keeps_readEntry h
    · cases e
  · cases e

theorem keeps_readPage {s0 s : State} {w : Requester} {pg : Page} {off : Nat} (h : Keeps s0 s) : Keeps s0 (readPage w pg off s) := by
  unfold readPage
  split
  · exact keeps_readSpecial h ‹_›
  · refine keeps_ite (keeps_answer h) ?_
    split
    · exact keeps_answer (keeps_latchPut h)
    · exact keeps_ite (keeps_answer h) (keeps_answer h)

theorem keeps_doIf {s0 s : State} {b : Bool} {f : State → State} (k : ∀ x, Keeps s0 x → Keeps s0 (f x)) (h : Keeps s0 s) :
    Keeps s0 (doIf b f s) := by
  unfold doIf; exact (keeps_ite (k _ h) h)

theorem keeps_withConds {s0 s : State} {pg : Page} {f : State → State} (k : ∀ x, Keeps s0 x → Keeps s0 (f x)) (h : Keeps s0 s) :
    Keeps s0 (withConds pg f s) := by
  unfold withConds; exact (keeps_noteConds (k _ h))

theorem keeps_lockPage {s0 s : State} {pg : Sys2Proof.Page} (h : Keeps s0 s) : Keeps s0 (lockPage pg s) := by
  unfold lockPage; exact (keeps_updHdr h)

theorem keeps_clearCounts {s0 s : State} {pg : Sys2Proof.Page} (h : Keeps s0 s) : Keeps s0 (clearCounts pg s) := by
  unfold clearCounts; exact (keeps_updHdr h)

theorem keeps_irqClear {s0 s : State} {pg : Sys2Proof.Page} {v : Sys2Proof.Word} (h : Keeps s0 s) : Keeps s0 (irqClear pg v s) := by
  unfold irqClear; exact (keeps_updHdr h)

theorem keeps_irqSet {s0 s : State} {pg : Sys2Proof.Page} {v : Sys2Proof.Word} (h : Keeps s0 s) : Keeps s0 (irqSet pg v s) := by
  unfold irqSet; exact (keeps_countEdge (keeps_updHdr h))

theorem keeps_writeCtrl {s0 s : State} {pg : Sys2Proof.Page} {v : Sys2Proof.Word} (h : Keeps s0 s) : Keeps s0 (writeCtrl pg v s) := by
  unfold writeCtrl; exact (keeps_doIf (fun _ h1 => (keeps_clearCounts h1)) (keeps_doIf (fun _ h1 => (keeps_lockPage h1)) (keeps_updHdr h)))

theorem keeps_writeSel {s0 s : State} {pg : Sys2Proof.Page} {n : Fin 4} {v : Sys2Proof.Word} (h : Keeps s0 s) : Keeps s0 (writeSel pg n v s) := by
  unfold writeSel; exact (keeps_updHdr h)

theorem keeps_writeHdr {s0 s : State} {pg : Sys2Proof.Page} {off : ℕ} {v : Sys2Proof.Word} (h : Keeps s0 s) : Keeps s0 (writeHdr pg off v s) := by
  unfold writeHdr; exact (by (try dsimp only); split; exacts [(keeps_writeCtrl h), (keeps_updHdr h), (keeps_countEdge (keeps_updHdr h)), (keeps_irqClear h), (keeps_irqSet h), (keeps_writeSel h), (keeps_writeSel h), (keeps_writeSel h), (keeps_writeSel h), h])

theorem keeps_writeIrq {s0 s : State} {off : ℕ} {v : Sys2Proof.Word} (h : Keeps s0 s) : Keeps s0 (writeIrq off v s) := by
  unfold writeIrq; exact (keeps_ite (keeps_updSuper h) (keeps_ite (keeps_updSuper h) (keeps_ite (keeps_updSuper h) (keeps_ite (keeps_updSuper h) h))))

theorem keeps_writeMailCtl {s0 s : State} {sec : Bool} {ch : Fin 32} {v : Sys2Proof.Word} (h : Keeps s0 s) : Keeps s0 (writeMailCtl sec ch v s) := by
  unfold writeMailCtl; exact (keeps_ifUnlocked (fun _ h1 => (keeps_updMail h1)) h)

theorem keeps_writeSuper {s0 s : State} {q : Sys2Proof.Req} {off : ℕ} {v : Sys2Proof.Word} (h : Keeps s0 s) : Keeps s0 (writeSuper q off v s) := by
  unfold writeSuper; exact (by (try dsimp only); split; exacts [(keeps_wdogKick h), (keeps_updSuper h), (keeps_ite (keeps_cmdPdUp h) (keeps_ite (keeps_cmdPdDown h) h)), (keeps_doIf (fun _ h1 => (keeps_pmuClear h1)) (keeps_pmuFreeze h)), h])

theorem keeps_writeSched {s0 s : State} {off : ℕ} {v : Sys2Proof.Word} (h : Keeps s0 s) : Keeps s0 (writeSched off v s) := by
  unfold writeSched; exact (by (try dsimp only); split; exacts [(keeps_updSched h), (keeps_updSched h), (by (try dsimp only); split; exacts [(keeps_cmdSchLoad h), (keeps_cmdSchActivate h), (keeps_cmdSchCancel h), (keeps_cmdSchDiscard h), h]), h])

theorem keeps_writeRun {s0 s : State} {off : ℕ} {v : Sys2Proof.Word} (h : Keeps s0 s) : Keeps s0 (writeRun off v s) := by
  unfold writeRun; exact (by (try dsimp only); split; exacts [(keeps_doIf (fun _ h1 => (keeps_cmdRestart h1)) h), (keeps_updRun h), (keeps_updRun h), (by (try dsimp only); split; exacts [(keeps_cmdFrcSet h), (keeps_cmdFrcClear h), (keeps_cmdFrcClearAll h), h]), (keeps_updRun h), (keeps_updRun h), (keeps_updRun h), (keeps_updRun h), (by (try dsimp only); split; exacts [(keeps_cmdAppLoad h), (keeps_cmdAppActivate h), (keeps_cmdAppCancel h), (keeps_cmdAppDiscard h), (keeps_cmdAppArm h), h]), h])

theorem keeps_writeTrio {s0 s : State} {off : ℕ} {v : Sys2Proof.Word} (h : Keeps s0 s) : Keeps s0 (writeTrio off v s) := by
  unfold writeTrio; exact (keeps_ite (by (try dsimp only); split; exacts [(keeps_cmdRejoin h), (keeps_cmdGiveUp h), (keeps_cmdAbortRejoin h), h]) h)

theorem keeps_writeSafety {s0 s : State} {off : ℕ} {v : Sys2Proof.Word} (h : Keeps s0 s) : Keeps s0 (writeSafety off v s) := by
  unfold writeSafety; exact (by (try dsimp only); split; exacts [(keeps_updSafety h), (keeps_updSafety h), h])

theorem keeps_writeTb {s0 s : State} {w : Sys2Proof.Requester} {off : ℕ} {v : Sys2Proof.Word} (h : Keeps s0 s) : Keeps s0 (writeTb w off v s) := by
  unfold writeTb; exact (by (try dsimp only); split; exacts [(by (try dsimp only); split; exacts [(keeps_cmdStep h), (keeps_cmdGulny h), (keeps_cmdShot h), h]), (keeps_writeIncrLo h), (keeps_writeIncrHi h), (keeps_updTb h), (keeps_updTb h), (keeps_ifUnlocked (fun _ h1 => (keeps_updTb h1)) h), (keeps_writeGcntIncr h), (keeps_updTb h), (keeps_updTb h), (keeps_writePpsOut h), (keeps_updTb h), (keeps_updTb h), (keeps_updTb h), h])

theorem keeps_writeFw {s0 s : State} {w : Sys2Proof.Requester} {f : Sys2Proof.Machine.FwBank → Sys2Proof.Machine.FwBank} (h : Keeps s0 s) : Keeps s0 (writeFw w f s) := by
  unfold writeFw; exact (keeps_elim h (fun _ => (keeps_updRec h)))

theorem keeps_writeRec {s0 s : State} {w : Sys2Proof.Requester} {off : ℕ} {v : Sys2Proof.Word} (h : Keeps s0 s) : Keeps s0 (writeRec w off v s) := by
  unfold writeRec; exact (by (try dsimp only); split; exacts [(keeps_startRefill h), (keeps_updRec h), (keeps_doIf (fun _ h1 => (keeps_clearLost h1)) (keeps_doIf (fun _ h1 => (keeps_clearDrops h1)) h)), (keeps_withConds (fun _ h1 => (keeps_updRec h1)) h), (keeps_writeFw h), (keeps_writeFw h), (keeps_writeFw h), (keeps_writeFw h), (keeps_doIf (fun _ h1 => (keeps_fwWrite h1)) h), h])

theorem keeps_writeHis {s0 s : State} {off : ℕ} {v : Sys2Proof.Word} (h : Keeps s0 s) : Keeps s0 (writeHis off v s) := by
  unfold writeHis; exact (by (try dsimp only); split; exacts [(keeps_updHis h), (keeps_updHis h), (keeps_updHis h), (keeps_updHis h), (keeps_updHis h), (keeps_doIf (fun _ h1 => (keeps_queryGo h1)) h), h])

theorem keeps_writeUpd {s0 s : State} {off : ℕ} {v : Sys2Proof.Word} (h : Keeps s0 s) : Keeps s0 (writeUpd off v s) := by
  unfold writeUpd; exact (by (try dsimp only); split; exacts [(keeps_updUpd h), (keeps_updUpd h), (by (try dsimp only); split; exacts [(keeps_cmdUpdLoad h), (keeps_cmdUpdActivate h), (keeps_cmdUpdCancel h), (keeps_cmdUpdErase h), (keeps_cmdUpdStore h), h]), (keeps_confirm h), (keeps_updUpd h), h])

theorem keeps_writeSec {s0 s : State} {off : ℕ} {v : Sys2Proof.Word} (h : Keeps s0 s) : Keeps s0 (writeSec off v s) := by
  unfold writeSec; exact (by (try dsimp only); split; exacts [(keeps_updSec h), (keeps_updSec h), (keeps_doIf (fun _ h1 => (keeps_submitTicket h1)) h), h])

theorem keeps_writePower {s0 s : State} {off : ℕ} {v : Sys2Proof.Word} (h : Keeps s0 s) : Keeps s0 (writePower off v s) := by
  unfold writePower; exact (by (try dsimp only); split; exacts [(keeps_updPwr h), (keeps_ifUnlocked (fun _ h1 => (keeps_updPwr h1)) h), (keeps_updPwr h), (keeps_doIf (fun _ h1 => (keeps_requestReset h1)) h), h])

theorem keeps_writeSwitch {s0 s : State} {t : ℕ} {off : ℕ} {v : Sys2Proof.Word} (h : Keeps s0 s) : Keeps s0 (writeSwitch t off v s) := by
  unfold writeSwitch; exact (keeps_ite (keeps_updSwitch h) h)

theorem keeps_writeEthCtrl {s0 s : State} {i : Fin 10} {v : Sys2Proof.Word} (h : Keeps s0 s) : Keeps s0 (writeEthCtrl i v s) := by
  unfold writeEthCtrl; exact (keeps_ifUnlocked (fun _ h1 => (keeps_updPort h1)) h)

theorem keeps_writeEth {s0 s : State} {i : Fin 10} {off : ℕ} {v : Sys2Proof.Word} (h : Keeps s0 s) : Keeps s0 (writeEth i off v s) := by
  unfold writeEth; exact (by (try dsimp only); split; exacts [(keeps_updPort h), (keeps_updPort h), (keeps_updPort h), (keeps_writeRxTail h), (keeps_updPort h), (keeps_updPort h), (keeps_writeTxTail h), h])

theorem keeps_writePort {s0 s : State} {i : Fin 10} {off : ℕ} {v : Sys2Proof.Word} (h : Keeps s0 s) : Keeps s0 (writePort i off v s) := by
  unfold writePort; exact (by (try dsimp only); split; exacts [(keeps_writeEthCtrl h), (keeps_updPort h), (keeps_doIf (fun _ h1 => (keeps_cmdRotate h1)) h), (keeps_ite h (keeps_writeEth h))])

theorem keeps_writeCan {s0 s : State} {c : Fin 16} {off : ℕ} {v : Sys2Proof.Word} (h : Keeps s0 s) : Keeps s0 (writeCan c off v s) := by
  unfold writeCan; exact (by (try dsimp only); split; exacts [(by (try dsimp only); split; exacts [(keeps_canMode h), (keeps_canMode h), (keeps_canDetectCmd h), (keeps_canMode h), h]), (keeps_updCan h), (keeps_doIf (fun _ h1 => (keeps_canCancel h1)) (keeps_doIf (fun _ h1 => (keeps_canReq h1)) h)), (keeps_canSelect h), (keeps_updCan h), (keeps_updCan h), (keeps_updCan h), (keeps_ite (keeps_canPoke h) h)])

theorem keeps_writeUart {s0 s : State} {u : Fin 8} {off : ℕ} {v : Sys2Proof.Word} (h : Keeps s0 s) : Keeps s0 (writeUart u off v s) := by
  unfold writeUart; exact (by (try dsimp only); split; exacts [(keeps_ifUnlocked (fun _ h1 => (keeps_updUart h1)) h), (keeps_withConds (fun _ h1 => (keeps_updUart h1)) (keeps_ifUnlocked (fun _ h1 => (keeps_updUart h1)) h)), (keeps_uartWrite h), h])

theorem keeps_writeEngine {s0 s : State} {c : Fin 6} {off : ℕ} {v : Sys2Proof.Word} (h : Keeps s0 s) : Keeps s0 (writeEngine c off v s) := by
  unfold writeEngine; exact (by (try dsimp only); split; exacts [(keeps_updCrest h), (keeps_doIf (fun _ h1 => (keeps_updCrest h1)) (keeps_doIf (fun _ h1 => (keeps_updCrest h1)) h)), (keeps_doIf (fun _ h1 => (keeps_retireCmd h1)) h), (keeps_updCrest h), h])

theorem keeps_writeTrcCtrl {s0 s : State} {c : Fin 6} {v : Sys2Proof.Word} (h : Keeps s0 s) : Keeps s0 (writeTrcCtrl c v s) := by
  unfold writeTrcCtrl; exact (keeps_doIf (fun _ h1 => (keeps_cmdTrcFire h1)) (keeps_doIf (fun _ h1 => (keeps_cmdTrcArm h1)) (keeps_updLoop (keeps_ite (keeps_updLoop h) (keeps_cmdTrcDisable h)))))

theorem keeps_writeLoop {s0 s : State} {q : Sys2Proof.Req} {c : Fin 6} {off : ℕ} {v : Sys2Proof.Word} (h : Keeps s0 s) : Keeps s0 (writeLoop q c off v s) := by
  unfold writeLoop; exact (by (try dsimp only); split; exacts [(keeps_updLoop h), (keeps_ite (keeps_cmdLpaWrite h) (keeps_ite (keeps_cmdLpaRead h) h)), (keeps_writeTrcCtrl h), (keeps_updLoop h), (keeps_updLoop h), (keeps_updLoop h), (keeps_ite (keeps_updLoop h) (keeps_ite (keeps_updLoop h) h))])

theorem keeps_writeField {s0 s : State} {off : ℕ} {v : Sys2Proof.Word} (h : Keeps s0 s) : Keeps s0 (writeField off v s) := by
  unfold writeField; exact (by (try dsimp only); split; exacts [(keeps_doIf (fun _ h1 => (keeps_unlockTlo h1)) h), (keeps_updField h), (keeps_updField h), (keeps_updField h), (keeps_updField h), (keeps_updField h), (by (try dsimp only); split; exacts [(keeps_cmdTrimDrive h), (keeps_cmdTrimDrive h), (keeps_cmdTrimApply h), (keeps_cmdTrimExit h), h]), h])

theorem keeps_writePanel {s0 s : State} {off : ℕ} {v : Sys2Proof.Word} (h : Keeps s0 s) : Keeps s0 (writePanel off v s) := by
  unfold writePanel; exact (by (try dsimp only); split; exacts [(keeps_updPanel h), (keeps_updPanel h), (keeps_writeCnt h), h])

theorem keeps_put64 {s0 s : State} {pg : Sys2Proof.Page} {off : ℕ} {d : Sys2Proof.DWord} (h : Keeps s0 s) : Keeps s0 (put64 pg off d s) := by
  unfold put64; exact (by (try dsimp only); split; exacts [(keeps_updSched h), (keeps_updRun h), (keeps_updTb h), (keeps_updPort h), (keeps_updHis h), (keeps_updUpd h), h])

theorem keeps_commitHigh {s0 s : State} {w : Sys2Proof.Requester} {pg : Sys2Proof.Page} {off : ℕ} {v : Sys2Proof.Word} (h : Keeps s0 s) : Keeps s0 (commitHigh w pg off v s) := by
  unfold commitHigh; exact (keeps_ite (keeps_writeOffsetHi h) (keeps_put64 (keeps_commit64 h)))

theorem keeps_writeBlock {s0 s : State} {q : Sys2Proof.Req} {pg : Sys2Proof.Page} {off : ℕ} {v : Sys2Proof.Word} (h : Keeps s0 s) : Keeps s0 (writeBlock q pg off v s) := by
  unfold writeBlock; exact (by (try dsimp only); split; exacts [h, h, h, (keeps_ite (keeps_writeMailCtl h) h), (keeps_ite (keeps_writeMailCtl h) h), (keeps_writeIrq h), (keeps_writeSuper h), (keeps_writePower h), (keeps_writeSwitch h), (keeps_writeSwitch h), (keeps_writeSched h), (keeps_writeRun h), (keeps_writeTrio h), (keeps_writeSafety h), (keeps_writeTb h), (keeps_writeRec h), (keeps_writeHis h), (keeps_writeUpd h), (keeps_writeSec h), (keeps_writePort h), (keeps_writeCan h), (keeps_writeUart h), (keeps_writeEngine h), (keeps_writeLoop h), (keeps_writeField h), (keeps_writePanel h)])

theorem keeps_writePage {s0 s : State} {q : Sys2Proof.Req} {pg : Sys2Proof.Page} {off : ℕ} {v : Sys2Proof.Word} (h : Keeps s0 s) : Keeps s0 (writePage q pg off v s) := by
  unfold writePage; exact (keeps_ite (keeps_writeHdr h) (keeps_ite (keeps_holdLow h) (keeps_ite (keeps_commitHigh h) (keeps_writeBlock h))))

theorem keeps_writeDoorbell {s0 s : State} {q : Sys2Proof.Req} {ch : Fin 32} {v : Sys2Proof.Word} (h : Keeps s0 s) : Keeps s0 (writeDoorbell q ch v s) := by
  unfold writeDoorbell; exact (keeps_doIf (fun _ h1 => (keeps_mailAck h1)) (keeps_doIf (fun _ h1 => (keeps_mailRing h1)) h))

theorem keeps_writeAt {s0 s : State} {q : Sys2Proof.Req} {pg : Sys2Proof.Page} {off : ℕ} {v : Sys2Proof.Word} (h : Keeps s0 s) : Keeps s0 (writeAt q pg off v s) := by
  unfold writeAt; exact (by (try dsimp only); split; exacts [(keeps_ite (keeps_writeDoorbell h) (keeps_onPage (fun _ h1 => h1) h)), (keeps_mailWrite h), (keeps_ite (keeps_onSecure (fun _ h1 => (keeps_writePage h1)) h) (keeps_onPage (fun _ h1 => (keeps_writePage h1)) h))])

theorem keeps_readAt {s0 s : State} {q : Sys2Proof.Req} {pg : Sys2Proof.Page} {off : ℕ} (h : Keeps s0 s) : Keeps s0 (readAt q pg off s) := by
  unfold readAt; exact (by (try dsimp only); split; exacts [(keeps_ite (keeps_onPage (fun _ h1 => (keeps_answer h1)) h) (keeps_refuse h)), (keeps_onPage (fun _ h1 => (keeps_readPage h1)) h)])

theorem keeps_write32 {s0 s : State} {q : Sys2Proof.Req} {win : Sys2Proof.Window} {addr : ℕ} {v : Sys2Proof.Word} (h : Keeps s0 s) : Keeps s0 (write32 q win addr v s) := by
  unfold write32; exact (by (try dsimp only); split; exacts [(keeps_ite (keeps_writeAt h) (keeps_refuse h)), (keeps_ite (keeps_mk h) (keeps_refuse h)), (keeps_refuse h)])

theorem keeps_read32 {s0 s : State} {q : Sys2Proof.Req} {win : Sys2Proof.Window} {addr : ℕ} (h : Keeps s0 s) : Keeps s0 (read32 q win addr s) := by
  unfold read32; exact (by (try dsimp only); split; exacts [(keeps_ite (keeps_readAt h) (keeps_refuse h)), (keeps_ite (keeps_answer h) (keeps_refuse h)), (keeps_refuse h)])

theorem keeps_bothDone {s0 s : State} {first : Sys2Proof.Machine.Resp} (h : Keeps s0 s) : Keeps s0 (bothDone first s) := by
  unfold bothDone; exact (keeps_ite (keeps_mk h) h)

theorem keeps_joinReads {s0 s : State} {first : Sys2Proof.Machine.Resp} (h : Keeps s0 s) : Keeps s0 (joinReads first s) := by
  unfold joinReads; exact (by (try dsimp only); split; exacts [(keeps_mk h), (keeps_mk h)])

theorem keeps_writeWide {s0 s : State} {q : Sys2Proof.Req} {win : Sys2Proof.Window} {width : Sys2Proof.AccWidth} {addr : ℕ} {v : Sys2Proof.DWord} (h : Keeps s0 s) : Keeps s0 (writeWide q win width addr v s) := by
  unfold writeWide; exact (keeps_ite (keeps_ite (keeps_mkSram h (fun w => (memWf_write _ _ w))) (keeps_refuse h)) (by (try dsimp only); split; exacts [(keeps_write32 h), (keeps_ite (keeps_bothDone (keeps_write32 (keeps_write32 h))) (keeps_refuse h)), (keeps_refuse h), (keeps_refuse h)]))

theorem keeps_readWide {s0 s : State} {q : Sys2Proof.Req} {win : Sys2Proof.Window} {width : Sys2Proof.AccWidth} {addr : ℕ} (h : Keeps s0 s) : Keeps s0 (readWide q win width addr s) := by
  unfold readWide; exact (keeps_ite (keeps_ite (keeps_mk h) (keeps_refuse h)) (by (try dsimp only); split; exacts [(keeps_read32 h), (keeps_ite (keeps_joinReads (keeps_read32 (keeps_read32 h))) (keeps_refuse h)), (keeps_refuse h), (keeps_refuse h)]))

theorem keeps_hostSubmit {s0 s : State} {target : Sys2Proof.HostTarget} {op : Sys2Proof.HostOp} (h : Keeps s0 s) : Keeps s0 (hostSubmit target op s) := by
  unfold hostSubmit; exact (keeps_ite h (keeps_ite (keeps_complete (keeps_updHost (keeps_bump (keeps_ite (keeps_hostInL0 h) h)))) (keeps_ite (keeps_updHost (keeps_bump (keeps_ite (keeps_hostInL0 h) h))) (keeps_updHost (keeps_bump (keeps_ite (keeps_hostInL0 h) h))))))

theorem keeps_hostReadWords {s0 s : State} {k a : Nat} (h : Keeps s0 s) : Keeps s0 (hostReadWords k a s).2 := by
  induction k generalizing a s with
  | zero => exact h
  | succ k ih =>
    have x : Keeps s0 (if hostMay s a then read32 hostReq .control a s else errorResponse none s) :=
      keeps_ite (keeps_read32 h) (keeps_errorResponse h)
    have y := ih (a := a + 4) x
    unfold hostReadWords
    dsimp only
    split <;> exact y

theorem keeps_hostWriteWords {s0 s : State} {d : List Byte} {a k : Nat} (h : Keeps s0 s) : Keeps s0 (hostWriteWords d a k s) := by
  induction k generalizing d a s with
  | zero => exact h
  | succ k ih => exact ih (keeps_ite (keeps_write32 h) (keeps_errorResponse h))

theorem keeps_serveBar {s0 s : State} {addr : Nat} {op : HostOp} (h : Keeps s0 s) : Keeps s0 (serveBar addr op s) := by
  have k : ∀ n, Keeps s0 (hostReadWords n addr s).2 := fun n => keeps_hostReadWords h
  unfold serveBar
  split
  · refine keeps_ite ?_ (keeps_complete (keeps_errorResponse h))
    split
    · rename_i e
      have hs := congrArg Prod.snd e
      dsimp only at hs
      rw [← hs]
      exact keeps_complete (keeps_mk (k _))
    · rename_i e
      have hs := congrArg Prod.snd e
      dsimp only at hs
      rw [← hs]
      exact keeps_complete (keeps_mk (k _))
  · exact keeps_ite (keeps_hostWriteWords h) (keeps_errorResponse h)

theorem keeps_launchPiece {s0 s : State} {t : Fin 8} {addr : ℕ} {run : ℕ} {op : Sys2Proof.HostOp} {x : ℕ × ℕ} (h : Keeps s0 s) : Keeps s0 (launchPiece t addr run op s x) := by
  unfold launchPiece; exact (keeps_enterPacket h)

theorem keeps_serveWindow {s0 s : State} {t : Fin 8} {addr : ℕ} {op : Sys2Proof.HostOp} (h : Keeps s0 s) : Keeps s0 (serveWindow t addr op s) := by
  unfold serveWindow; exact (keeps_ite (keeps_ite (keeps_complete (keeps_mk h)) (keeps_mk h)) (keeps_updHost (keeps_foldl (fun _ _ h1 => (keeps_launchPiece h1)) h)))

theorem keeps_hostServe {s0 s : State} (h : Keeps s0 s) : Keeps s0 (hostServe s) := by
  unfold hostServe; exact (by (try dsimp only); split; exacts [h, (by (try dsimp only); split; exacts [h, (by (try dsimp only); split; exacts [(keeps_serveBar (keeps_updHost h)), (keeps_serveWindow (keeps_updHost h))])])])

theorem keeps_hostDoes {s0 s : State} {r : Sys2Proof.HostReq} (h : Keeps s0 s) : Keeps s0 (hostDoes r s) := by
  unfold hostDoes; exact (by (try dsimp only); split; exacts [(keeps_hostSubmit h), (keeps_hostServe h)])

theorem keeps_execRegisterWrite {s0 s t : State} {q : Sys2Proof.Req} {win : Sys2Proof.Window} {width : Sys2Proof.AccWidth} {addr : BitVec 28} {val : Sys2Proof.DWord} (h : Keeps s0 s) (e : execRegisterWrite q win width addr val s = .next t) : Keeps s0 t := by
  cases e; exact (keeps_writeWide h)

theorem keeps_execReg64LowRead {s0 s t : State} {q : Sys2Proof.Req} {win : Sys2Proof.Window} {width : Sys2Proof.AccWidth} {addr : BitVec 28} (h : Keeps s0 s) (e : execReg64LowRead q win width addr s = .next t) : Keeps s0 t := by
  cases e; exact (keeps_readWide h)

theorem keeps_execReg64LowWrite {s0 s t : State} {q : Sys2Proof.Req} {win : Sys2Proof.Window} {addr : BitVec 28} {val : Sys2Proof.Word} (h : Keeps s0 s) (e : execReg64LowWrite q win addr val s = .next t) : Keeps s0 t := by
  cases e; exact (keeps_writeWide h)

theorem keeps_execReg64HighWrite {s0 s t : State} {q : Sys2Proof.Req} {win : Sys2Proof.Window} {addr : BitVec 28} {val : Sys2Proof.Word} (h : Keeps s0 s) (e : execReg64HighWrite q win addr val s = .next t) : Keeps s0 t := by
  cases e; exact (keeps_writeWide h)

theorem keeps_execBlkLock {s0 s t : State} {q : Sys2Proof.Req} {pg : Sys2Proof.Page} (h : Keeps s0 s) (e : execBlkLock q pg s = .next t) : Keeps s0 t := by
  cases e; exact (keeps_onPage (fun _ h1 => (keeps_lockPage h1)) h)

theorem keeps_execBlkCntClear {s0 s t : State} {q : Sys2Proof.Req} {pg : Sys2Proof.Page} (h : Keeps s0 s) (e : execBlkCntClear q pg s = .next t) : Keeps s0 t := by
  cases e; exact (keeps_onPage (fun _ h1 => (keeps_clearCounts h1)) h)

theorem keeps_execBlkIrqStatClear {s0 s t : State} {q : Sys2Proof.Req} {pg : Sys2Proof.Page} {bits : Sys2Proof.Word} (h : Keeps s0 s) (e : execBlkIrqStatClear q pg bits s = .next t) : Keeps s0 t := by
  cases e; exact (keeps_onPage (fun _ h1 => (keeps_irqClear h1)) h)

theorem keeps_execBlkIrqSet {s0 s t : State} {q : Sys2Proof.Req} {pg : Sys2Proof.Page} {bits : Sys2Proof.Word} (h : Keeps s0 s) (e : execBlkIrqSet q pg bits s = .next t) : Keeps s0 t := by
  cases e; exact (keeps_onPage (fun _ h1 => (keeps_irqSet h1)) h)

theorem keeps_execHostRequest {s0 s t : State} {r : Sys2Proof.HostReq} (h : Keeps s0 s) (e : execHostRequest r s = .next t) : Keeps s0 t := by
  cases e; exact (keeps_hostDoes h)

end Sys2Proof.Machine
end

