-- ==== Sys2Proof/WellFormed.lean ====
section
/-! DEFINITION. Well-formed commands: operand values that the spec gives no encoding or no meaning are refused here. -/
namespace Sys2Proof

/-- The data lengths a CAN DLC stands for, DLC 0 to 15 (CAN FD). -/
def canLengths : List Nat := [0, 1, 2, 3, 4, 5, 6, 7, 8, 12, 16, 20, 24, 32, 48, 64]

/-- The number of data bytes of a CAN frame: a classic frame carries at most 8, a remote frame none. -/
def CanFrame.dataLen (f : CanFrame) : Nat :=
  if f.rtr then 0 else if f.fdf then canLengths.getD f.dlc.toNat 0 else min 8 f.dlc.toNat

/-- A CAN frame: its data fit its DLC, an FD frame is no remote frame, a base identifier lies in [28:18] (Table 12.2). -/
def CanFrame.wf (f : CanFrame) : Bool :=
  f.data.length == f.dataLen && !(f.fdf && f.rtr) && (f.ide || f.id.toNat % 2 ^ 18 == 0)

/-- Does a load or store name a size of Table 3.5 (R77)? -/
def sizeWf (size : BitVec 2) : Bool := size != 3

/-- A best-effort packet is at most 5 flits long (R351): it asks for or carries 1 to 256 bytes beside its header flit. -/
def BeKind.wf : BeKind → Bool
  | .read n => decide (1 ≤ n) && decide (n ≤ 256)
  | .write d => decide (1 ≤ d.length) && decide (d.length ≤ 256)

/-- Well-formedness of a command. -/
def Instr.wf : Instr → Bool
  | .ld _ _ _ size _ _ => sizeWf size
  | .ldu _ _ _ size _ _ => sizeWf size
  | .st _ _ _ size _ _ => sizeWf size
  | .canFrameReceive _ f _ => f.wf
  | .bePacketLaunch _ _ _ kind => kind.wf
  | _ => true

end Sys2Proof
end

