-- ==== Sys2Proof/Tests/Slice0.lean ====
section
/-! SUPPORT. Tests of the model on small states: well-formedness, encodings, one step per family, and for every statement
of Obligations.lean states and operands that meet its hypotheses. -/
set_option maxRecDepth 8000
namespace Sys2Proof.Tests
set_option Elab.async false
open Sys2Proof Sys2Proof.Machine Sys2Proof.Stmt

/-! ### Well-formedness: an ill-formed command for each check -/

theorem test_ld_of_size_3_is_ill_formed : (Instr.ld ⟨0, 0⟩ 1 2 3 false 0).wf = false := by decide
theorem test_ldu_of_size_3_is_ill_formed : (Instr.ldu ⟨0, 0⟩ 1 2 3 false 0).wf = false := by decide
theorem test_st_of_size_3_is_ill_formed : (Instr.st ⟨0, 0⟩ 1 2 3 false 0).wf = false := by decide
theorem test_ld_of_size_2_is_well_formed : (Instr.ld ⟨0, 0⟩ 1 2 2 false 0).wf = true := by decide

/-- A classic CAN data frame with base identifier `id` and `d` as its data. -/
def frame (id : BitVec 29) (d : List Byte) : CanFrame := ⟨id, false, false, BitVec.ofNat 4 d.length, false, false, false, d⟩

/-- Data that do not fit the DLC, an FD remote frame, and a base identifier outside [28:18]. -/
theorem test_can_frames_that_are_ill_formed :
    { frame 0 [1] with dlc := 2 }.wf = false ∧ { frame 0 [] with fdf := true, rtr := true }.wf = false ∧
    (frame 1 []).wf = false ∧ (frame 0x1FFC0000 [1, 2]).wf = true := by decide

/-- A best-effort packet of no byte, and one longer than 5 flits (R351). -/
theorem test_packet_lengths : (BeKind.read 0).wf = false ∧ (BeKind.read 257).wf = false ∧ (BeKind.read 256).wf = true ∧
    (BeKind.write []).wf = false := by decide

/-! ### Engine words, written out from Table 3.5 and Table 3.6 -/

theorem test_word_add : encR 0x00 0x001 3 1 2 = 0b000000_00011_00001_00010_00000000001#32 ∧
    legalWord 0b000000_00011_00001_00010_00000000001#32 = true := by decide
theorem test_word_sysr : encR 0x3F 6 31 0 7 = 0b111111_11111_00000_00111_00000000110#32 := by decide
theorem test_word_trap : encR 0x3F 8 0 0 21 = 0b111111_00000_00000_10101_00000001000#32 := by decide
theorem test_word_addi : encI 0x08 4 5 0xFFFF = 0b001000_00100_00101_1111111111111111#32 := by decide
theorem test_word_sari : encI 0x10 4 5 31 = 0b010000_00100_00101_0000000000011111#32 := by decide
theorem test_word_ld : encM 0x18 6 7 2 true 0x1FFC = 0b011000_00110_00111_10_1_1111111111100#32 := by decide
theorem test_word_bne : encB 0x21 8 9 0x8000 = 0b100001_01000_01001_1000000000000000#32 := by decide
theorem test_word_call : encJ 0x29 0x2000001 = 0b101001_10000000000000000000000001#32 := by decide
theorem test_word_loop : encL 0x30 10 3 1000 = 0b110000_0_01010_0000000011_1111101000#32 := by decide
theorem test_word_loopi : encL 0x31 0 3 1000 = 0b110001_0_00000_0000000011_1111101000#32 := by decide

/-- Words that are no instruction: a reserved opcode, a function code past the table, a set bit in an unused field, size 3 (R77). -/
theorem test_illegal_words : legalWord 0x1C000000 = false ∧ legalWord (encR 0 21 1 1 1) = false ∧
    legalWord (encR 0 13 1 1 1) = false ∧ legalWord (encM 0x18 1 1 3 false 0) = false ∧ legalWord 0 = false := by decide

/-! ### Small states -/

/-- The engine the tests use. -/
abbrev e0 : EngRef := ⟨0, 0⟩

/-- A step of task 5 of tenant 2 that is step 7. -/
def desc0 : StepDesc := ⟨2, 5, 7, 0, 1, 1, 0, 0, 1000, false, false⟩

/-- Reset with engine `e0` running a step whose first code word is `w`, then changed by `f`. -/
def engWith (w : Word) (f : Engine → Engine) : State :=
  updEngine e0 (fun g => f { g with
    run := some ⟨desc0, 0, 0, 0⟩,
    half0 := { mem := memWrite [] 0 (bytesOf 4 w.toNat), codeLen := 1, stateLen := 1, desc := some desc0 } }) State.reset

/-- The same with every power domain on. -/
def allOn (s : State) : State := { s with super := { s.super with pd := Vector.replicate 8 .on } }

/-- The state a command leaves. -/
def after (o : Host.Outcome State Fault Refusal) : State := match o with | .next t => t | _ => State.reset

/-! ### Engine instructions -/

/-- Registers G1 and G2 with two values. -/
def two (a b : Word) (g : Engine) : Engine := setReg 2 b (setReg 1 a g)

/-- R78: with SAT the sum past the range is the nearest end, without it wraps. -/
theorem test_add_saturates_or_wraps :
    getReg (engineAt (after (exec (.add e0 3 1 2) (engWith (encR 0 1 3 1 2) (two 0x7FFFFFFF 1)))) e0) 3 = 0x7FFFFFFF ∧
    getReg (engineAt (after (exec (.add e0 3 1 2) (engWith (encR 0 1 3 1 2) fun g => two 0x7FFFFFFF 1 { g with mode := 0 }))) e0) 3 =
      0x80000000 := by decide
/-- R79: division by zero. -/
theorem test_div_by_zero : getReg (engineAt (after (exec (.div e0 3 1 2) (engWith (encR 0 18 3 1 2) (two (-5) 0)))) e0) 3 = 0x80000000 ∧
    (engineAt (after (exec (.div e0 3 1 2) (engWith (encR 0 18 3 1 2) (two (-5) 0)))) e0).flags = 0x40 := by decide
theorem test_div_truncates : getReg (engineAt (after (exec (.div e0 3 1 2) (engWith (encR 0 18 3 1 2) (two (-7) 2)))) e0) 3 = -3 := by decide
theorem test_slt_is_signed : getReg (engineAt (after (exec (.slt e0 1 1 2) (engWith (encR 0 9 1 1 2) (two (-1) 0)))) e0) 1 = 1 := by decide
theorem test_sar_keeps_the_sign : getReg (engineAt (after (exec (.sar e0 3 1 2) (engWith (encR 0 8 3 1 2) (two 0x80000000 33)))) e0) 3 =
    0xC0000000 := by decide
theorem test_lui : getReg (engineAt (after (exec (.lui e0 3 0x8001) (engWith (encI 13 3 0 0x8001) id))) e0) 3 = 0x80010000 := by decide
theorem test_mac : (engineAt (after (exec (.mac e0 1 2) (engWith (encR 1 1 0 1 2) (two (-3) 5)))) e0).acc = -15 := by decide
/-- 1.0 + 2.0 = 3.0, and 1 / 0 sets DZ (IEEE 754). -/
theorem test_fadd : getReg (engineAt (after (exec (.fadd e0 3 1 2) (engWith (encR 2 1 3 1 2) (two 0x3F800000 0x40000000)))) e0) 3 =
    0x40400000 := by decide
theorem test_fdiv_by_zero : getReg (engineAt (after (exec (.fdiv e0 3 1 2) (engWith (encR 2 4 3 1 2) (two 0x3F800000 0)))) e0) 3 =
    0x7F800000 := by decide
theorem test_ld_sign_extends :
    getReg (engineAt (after (exec (.ld e0 3 0 0 false 3) (engWith (encM 0x18 3 0 0 false 3) id))) e0) 3 = 0x60 ∧
    getReg (engineAt (after (exec (.ld e0 3 0 1 false 0) (engWith (encM 0x18 3 0 1 false 0x0) id))) e0) 3 = 0x4000 := by decide
/-- A store takes the register as it was before post-increment, and the base then moves. -/
theorem test_st_post : memGet (engineAt (after (exec (.st e0 1 1 2 true 4) (engWith (encM 0x1A 1 1 2 true 4) (two 0x4000 0)))) e0).half0.mem 0x4001 =
      0x40 ∧
    getReg (engineAt (after (exec (.st e0 1 1 2 true 4) (engWith (encM 0x1A 1 1 2 true 4) (two 0x4000 0)))) e0) 1 = 0x4004 := by decide
theorem test_st_to_code_raises_access :
    (engineAt (after (exec (.st e0 1 0 2 false 0) (engWith (encM 0x1A 1 0 2 false 0) id))) e0).x.cause = 3 := by decide
theorem test_beq_taken : (engineAt (after (exec (.beq e0 1 2 0xFFFE) (engWith (encB 0x20 1 2 0xFFFE) (two 4 4)))) e0).delay =
    some (some (-8)) := by decide
theorem test_call_links : getReg (engineAt (after (exec (.call e0 5) (engWith (encJ 0x29 5) id))) e0) 31 = 8 := by decide
theorem test_loopi_starts : (engineAt (after (exec (.loopi e0 2 9) (engWith (encL 0x31 0 2 9) id))) e0).loops = [⟨4, 12, 9⟩] := by decide
theorem test_modew_has_a_shadow : (engineAt (after (exec (.modew e0 1) (engWith (encR 0x3F 2 0 1 0) (two 3 0)))) e0).mode = 0x14 ∧
    (engineAt (after (exec (.modew e0 1) (engWith (encR 0x3F 2 0 1 0) (two 3 0)))) e0).modeNext = some 3 := by decide
theorem test_trap_records_its_code : (engineAt (after (exec (.trap e0 21) (engWith (encR 0x3F 8 0 0 21) id))) e0).x.trap = 21 := by decide
/-- A command whose word does not stand at the engine's PC names an event that does not occur (log entry 6). -/
theorem test_another_word_changes_nothing : exec (.sub e0 3 1 2) (engWith (encR 0 1 3 1 2) id) = .next (engWith (encR 0 1 3 1 2) id) := rfl

/-! ### Witnesses: engine statements -/

/-- The word of an engine command stands at the engine's PC. -/
theorem witness_stands : standsAt (engWith (encI 16 3 1 31) id) e0 (encI 16 3 1 31) := by unfold standsAt; decide

theorem witness_IntegerInstructionsWriteTheirResult :
    (∃ v, plainSpec (.sari e0 3 1 31) = some (e0, encI 16 3 1 31, 3, v)) ∧ standsAt (engWith (encI 16 3 1 31) id) e0 (encI 16 3 1 31) ∧
    (∃ v, plainSpec (.and e0 0 1 2) = some (e0, encR 0 3 0 1 2, 0, v)) ∧ standsAt (engWith (encR 0 3 0 1 2) id) e0 (encR 0 3 0 1 2) ∧
    (∃ v, satSpec (.add e0 3 1 2) = some (e0, encR 0 1 3 1 2, 3, v)) ∧
      standsAt (engWith (encR 0 1 3 1 2) (two 0x7FFFFFFF 1)) e0 (encR 0 1 3 1 2) := by
  refine ⟨⟨_, rfl⟩, ?_, ⟨_, rfl⟩, ?_, ⟨_, rfl⟩, ?_⟩ <;> unfold standsAt <;> decide

theorem witness_DivisionAndAccumulatorInstructions :
    standsAt (engWith (encR 0 18 3 1 2) (two 0x80000000 (-1))) e0 (encR 0 18 3 1 2) ∧
    standsAt (engWith (encR 0 19 3 1 2) (two 1 0)) e0 (encR 0 19 3 1 2) ∧
    standsAt (engWith (encR 0 20 3 1 2) (two 1 0)) e0 (encR 0 20 3 1 2) ∧
    (∃ v, accSpec (.msu e0 1 2) = some (e0, encR 1 2 0 1 2, v)) ∧
      standsAt (engWith (encR 1 2 0 1 2) fun g => two 1 1 { g with acc := 0x8000000000000000 }) e0 (encR 1 2 0 1 2) ∧
    standsAt (engWith (encR 1 3 0 1 2) (two 1 2)) e0 (encR 1 3 0 1 2) ∧
    standsAt (engWith (encR 1 6 3 0 2) (two 0 63)) e0 (encR 1 6 3 0 2) := by
  refine ⟨?_, ?_, ?_, ⟨_, rfl⟩, ?_, ?_, ?_⟩ <;> unfold standsAt <;> decide

theorem witness_FloatInstructionsWriteResultAndFlags :
    (∃ v, floatSpec (.ftoi e0 3 1) = some (e0, encR 2 14 3 1 0, 3, v)) ∧
      standsAt (engWith (encR 2 14 3 1 0) (two 0x7FC00000 0)) e0 (encR 2 14 3 1 0) ∧
    0x7F800000 < ((0x7F800001 : Word) &&& 0x7FFFFFFF).toNat ∧ ((0x00800000 : Word) &&& 0x7F800000) ≠ 0 := by
  refine ⟨⟨_, rfl⟩, ?_, ?_, ?_⟩ <;> (try unfold standsAt) <;> decide

theorem witness_ModeFlagsAndHalt :
    standsAt (engWith (encR 0x3F 2 0 1 0) (two 3 0)) e0 (encR 0x3F 2 0 1 0) ∧
    standsAt (engWith (encR 0x3F 5 0 1 0) (two 0x7F 0)) e0 (encR 0x3F 5 0 1 0) ∧
    standsAt (engWith (encR 0x3F 1 0 0 0) id) e0 (encR 0x3F 1 0 0 0) ∧
      (engineAt (engWith (encR 0x3F 1 0 0 0) id) e0).delay = none := by
  refine ⟨?_, ?_, ?_, ?_⟩ <;> (try unfold standsAt) <;> decide

theorem witness_BranchesAndJumpsHaveOneDelaySlot :
    (∃ c, branchSpec (.bgeu e0 1 2 0x8000) = some (e0, encB 0x25 1 2 0x8000, c, 0x8000)) ∧
      standsAt (engWith (encB 0x25 1 2 0x8000) (two 5 5)) e0 (encB 0x25 1 2 0x8000) ∧
      (engineAt (engWith (encB 0x25 1 2 0x8000) (two 5 5)) e0).delay = none ∧
    (∃ d, jumpSpec (.call e0 3) = some (e0, encJ 0x29 3, d, true)) ∧
      standsAt (engWith (encJ 0x29 3) id) e0 (encJ 0x29 3) ∧ (engineAt (engWith (encJ 0x29 3) id) e0).delay = none := by
  refine ⟨⟨_, rfl⟩, ?_, ?_, ⟨_, rfl⟩, ?_, ?_⟩ <;> (try unfold standsAt) <;> decide

/-- NOP in the delay slot of a branch that is taken, and of one that is not. -/
theorem witness_BranchesAndJumpsHaveOneDelaySlot_slot :
    (∃ v, plainSpec (.nop e0) = some (e0, encR 0x3F 0 0 0 0, 0, v)) ∧
    (let s := engWith (encR 0x3F 0 0 0 0) fun g => { g with delay := some (some 8) }
     standsAt s e0 (encR 0x3F 0 0 0 0) ∧ (engineAt s e0).delay = some (some 8)) ∧
    (let s := engWith (encR 0x3F 0 0 0 0) fun g => { g with delay := some none }
     standsAt s e0 (encR 0x3F 0 0 0 0) ∧ (engineAt s e0).delay = some none ∧ ∀ l ∈ (engineAt s e0).loops, l.last ≠ (engineAt s e0).pc) := by
  refine ⟨⟨_, rfl⟩, ?_, ?_⟩ <;> unfold standsAt <;> decide +kernel

/-- A load and a store at the last word of the state part, the first word past it, and a misaligned one. -/
theorem witness_LoadsAndStoresActOnTheirHalf :
    loadSpec (.ldu e0 3 1 2 true 4) = some (e0, encM 0x19 3 1 2 true 4, 3, 1, 2, true, 4, false) ∧
    (∀ k : Fin 3, standsAt (engWith (encM 0x19 3 1 2 true 4) (two ([0x3C, 0x40, 0x4001].getD k 0) 0)) e0 (encM 0x19 3 1 2 true 4)) ∧
    (∀ k : Fin 3, standsAt (engWith (encM 0x1A 3 1 2 true 4) (two ([0x3FFF, 0x403C, 0x4040].getD k 0) 0)) e0 (encM 0x1A 3 1 2 true 4)) ∧
    memWf (curHalf (engineAt (engWith (encM 0x1A 3 1 2 true 4) (two 0x403C 0)) e0)).mem = true ∧
    inCode (engineAt (engWith 0 id) e0) 0x3C 4 ∧ ¬ inCode (engineAt (engWith 0 id) e0) 0x3D 4 ∧
    inState (engineAt (engWith 0 id) e0) 0x403C 4 ∧ ¬ inState (engineAt (engWith 0 id) e0) 0x4040 4 ∧
    ¬ inState (engineAt (engWith 0 id) e0) 0x3FFF 4 := by
  refine ⟨by simp only [loadSpec], ?_, ?_, ?_, ?_, ?_, ?_, ?_, ?_⟩ <;> (try unfold standsAt) <;> (try unfold inCode) <;> (try unfold inState) <;> decide

/-- An engine whose second code word is `v`, in loops `ls`. -/
def loopWith (w v : Word) (ls : List LoopReg) (f : Engine → Engine) : State :=
  engWith w fun g => f { g with loops := ls, half0 := { g.half0 with mem := memWrite g.half0.mem 4 (bytesOf 4 v.toNat) } }

/-- LOOP G1, end offset 0, bound 3: no room for a third loop; an end instruction that is a branch; an end inside the loop around
it; a count above its bound; a count of 0; and a count at its bound. -/
theorem witness_LoopInstructionsCheckAndStart :
    let w := encL 0x30 1 0 3
    (∃ n, loopSpec (.loop e0 1 0 3) = some (e0, w, 0, n, some 3)) ∧ (∃ n, loopSpec (.loopi e0 1023 0) = some (e0, encL 0x31 0 1023 0, 1023, n, none)) ∧
    (∀ x ∈ [(0x100#32, [⟨0, 8, 2⟩, ⟨0, 8, 2⟩], 1#32), (encJ 0x28 0, [], 1), (0, [⟨0, 4, 2⟩], 1), (0, [], 4), (0, [], 0), (0, [⟨0, 8, 2⟩], 3)],
      standsAt (loopWith w x.1 x.2.1 (setReg 1 x.2.2)) e0 w ∧ (engineAt (loopWith w x.1 x.2.1 (setReg 1 x.2.2)) e0).delay = none) ∧
    codeWord (engineAt (loopWith w (encJ 0x28 0) [] id) e0) 4 = some (encJ 0x28 0) ∧ isControl (encJ 0x28 0) = true ∧
    codeWord (engineAt (loopWith w 0 [] id) e0) 4 = some 0 ∧ isControl 0 = false := by
  refine ⟨⟨_, rfl⟩, ⟨_, rfl⟩, ?_, ?_, ?_, ?_, ?_⟩ <;> (try unfold standsAt) <;> decide

theorem witness_ExceptionsStopTheStep :
    standsAt (engWith (encR 0x3F 8 0 0 31) id) e0 (encR 0x3F 8 0 0 31) ∧ (engineAt (engWith (encR 0x3F 8 0 0 31) id) e0).delay = none ∧
    standsAt (engWith 0 id) e0 0 ∧ legalWord 0 = false ∧
    standsAt (engWith (encJ 0x28 0) fun g => { g with delay := some none }) e0 (encJ 0x28 0) ∧
      (engineAt (engWith (encJ 0x28 0) fun g => { g with delay := some none }) e0).delay.isSome = true ∧ isControl (encJ 0x28 0) = true ∧
    crestLive (allOn (engWith 0 id)) 0 = true ∧ (Vec.at (allOn (engWith 0 id)).crests 0).retired.getLsbD 0 = false ∧
    engineOf (.loopi e0 0 1) = some e0 ∧ engineOf (.illegalEncoding e0) = some e0 ∧
    (engineAt (engWith 0 fun g => { g with pc := 64 }) e0).jumped = false ∧
    (engineAt (engWith 0 fun g => { g with pc := 64, jumped := true }) e0).jumped = true ∧
    (engineAt (engWith 0 fun g => { g with pc := 64 }) e0).run.isSome = true ∧
    codeWord (engineAt (engWith 0 fun g => { g with pc := 64 }) e0) (engineAt (engWith 0 fun g => { g with pc := 64 }) e0).pc = none := by
  refine ⟨?_, ?_, ?_, ?_, ?_, ?_, ?_, ?_, ?_, ?_, ?_, ?_, ?_, ?_, ?_⟩ <;> (try unfold standsAt) <;> decide

/-! ### Small images and requesters -/

/-- The host, and supervisor core S0 in machine mode. -/
abbrev hostReq : Req := ⟨.host, false⟩
/-- See `hostReq`. -/
abbrev coreReq : Req := ⟨.s0, true⟩

/-- A schedule image of 4 slots of 64 us whose frames have two rounds, with nothing in its tables. -/
def im0 : SchedImage :=
  { config := Part.acr9608.code, slotCode := 6, maxRate := 1, tenants := 8, roundSlots := 4, schedId := 0x51, appId := 0xA1, compat := 1, steps := []
    engineSteps := [], routes := [], transfers := [], windows := [], loopSteps := [], ioGroups := [], gates := [], canSlots := []
    exchanges := [], captures := [], remaps := [] }

/-- An application image with nothing in its tables. -/
def app0 : AppImage :=
  { id := 0xA1, config := Part.acr9608.code, tenants := 8, sizeBytes := 64, regions := [], code := [], keys := [], tasks := [], taskInit := []
    inPoints := [], outPoints := [], stations := [], callAreas := [], safety := none
    ioMap := { di := [], tps := [], dout := [], tlo := [], ai := [], ao := [], panel := none }
    trio := { soloLimit := 0, soloTrip := false, autoRejoin := false, persist := 1, formWait := 1, delayA := 0, delayB := 0 }
    loops := [], watchdogMs := 1000, partitionUs := 0, windows := Vector.replicate 4 [], recorder := [], cans := [], uartLatched := 0, uartOwners := []
    ports := [], hostShares := Vector.replicate 9 0, hisReservation := Vector.replicate 9 0, hisShares := [], hisCapacityGb := 0
    moving := [] }

/-- Every domain on, `im0` and `app0` active, the round in `round` of frame 0 running. -/
def running (round : BitVec 10) (f : Sched → Sched) (s : State) : State :=
  { allOn s with
    sched := f { s.sched with active := some im0, running := true, round := round, slotBegun := true }
    run := { s.run with active := some app0, state := .running } }

/-! ### Witnesses: tiles and timebase -/

/-- ENG_RETIRE of engine 18, of one retired, of a third and of a second; a clean word, and one that holds a single-bit error. -/
theorem witness_StewardCommandsTestsAndScrubber :
    let s := allOn State.reset
    let r (v : BitVec 18) : State := updCrest 0 (fun t => { t with retired := v, map := [0, 1] }) s
    let soft := updCrest 0 (fun t => { t with softWords := [0x7FFFF8] }) s
    pgRefuses coreReq (.engine 0) s = false ∧ 18 ≤ (18 : BitVec 5).toNat ∧ (17 : BitVec 5).toNat < 18 ∧
    (Vec.at (r 0x20000).crests 0).retired.getLsbD 17 = true ∧
    popcount (withEngines (Vec.at (r 3).crests 0).retired ((Vec.at (r 3).crests 0).toRetire ++ [17])) = 3 ∧
    popcount (withEngines (Vec.at (r 1).crests 0).retired ((Vec.at (r 1).crests 0).toRetire ++ [17])) = 2 ∧
    crestLive s 0 = true ∧ quietEngine (Vec.at (r 1).crests 0) = some 1 ∧
    logicalOf (Vec.at (r 1).crests 0) 2 = none ∧ (Vec.at (r 1).crests 0).retired.getLsbD 2 = false ∧
    poolCrest s ((0x7FFFFF : Word).toNat / 8 * 8) = some 0 ∧ crestOn s 0 = true ∧ memWf s.pool = true ∧
    badIn s 0x7FFFF8 8 = [] ∧ softIn s 0x7FFFF8 8 = [] ∧ badIn soft 0x7FFFF8 8 = [] ∧ softIn soft 0x7FFFF8 8 = [(0, 0x7FFFF8)] := by decide

theorem witness_EmptyQueueLetsOneTickPass :
    let s := { State.reset with tb := { State.reset.tb with ns := 999999998, frac := 0xFFFFFFFFFF } }
    s.pending = [] ∧ s.tb.nextIncr = none ∧ s.tb.nextOffset = none ∧ 0 < incr44 s.tb ∧
    nativeUnits s.tb + incr44 s.tb < 2 ^ 48 * 1000000000 * 2 ^ 40 ∧
    (1 * 1000000000 + 0) * 2 ^ 40 ≤ nativeUnits s.tb + incr44 s.tb ∧ nativeUnits s.tb + incr44 s.tb < (1 * 1000000000 + 1) * 2 ^ 40 := by
  decide

/-- A held increment and an offset that lowers presented time, both in force from the next tick. -/
theorem witness_EmptyQueueLetsOneTickPass_held :
    let s := { State.reset with tb := { State.reset.tb with nextIncr := some 0x1FFFF94A036, offset := 5, nextOffset := some 4 } }
    s.pending = [] ∧ 0 < ((s.tb.nextIncr.map fun v => v.toNat).getD (incr44 s.tb)) ∧ (4 : DWord).toInt < s.tb.offset.toInt := by decide

/-- A one-shot due at second 1 fires in the tick that reaches it. -/
theorem test_one_shot_fires_in_its_tick :
    let s := { State.reset with tb := { State.reset.tb with ns := 999999998, shot := some (1, 1, 0) } }
    (after (step s)).tb.shot = none ∧ (Vec.at (after (step s)).tb.ppsOut 1).high = true ∧
    (after (step { s with tb := { s.tb with ns := 999999997 } })).tb.shot = some (1, 1, 0) := by decide +kernel

/-- R262's worked example: 1.999 993 6 ns is LO 0xFF94A036 and HI 0x1FF. -/
theorem test_incr_is_committed_at_the_next_tick :
    let s := after (exec (.tbIncrHiWrite coreReq 0x1FF) (after (exec (.tbIncrLoWrite coreReq 0xFF94A036) State.reset)))
    s.tb.nextIncr = some 0x1FFFF94A036 ∧ s.tb.code = 0 ∧ (after (step s)).tb.incrLo = 0xFF94A036 := by decide
theorem test_bad_increment : (after (exec (.tbIncrHiWrite coreReq 0x210) State.reset)).tb.code = 0x80 := by decide

theorem witness_TimebaseWritesCommitOrAreRefused :
    pgRefuses hostReq .timebase State.reset = false ∧
    1999 * 2 ^ 40 ≤ ((0x200 : Word).setWidth 12 ++ (heldGet State.reset .host .timebase 0x120).getD State.reset.tb.incrLo : BitVec 44).toNat * 1000 ∧
    ¬ (((0x201 : Word).setWidth 12 ++ (heldGet State.reset .host .timebase 0x120).getD State.reset.tb.incrLo : BitVec 44).toNat * 1000 ≤ 2001 * 2 ^ 40) ∧
    (nowNs State.reset : Int) + ((0xFFFFFFFF#32 ++ (heldGet State.reset .host .timebase 0x130).getD (State.reset.tb.offset.setWidth 32) : DWord)).toInt < 0 ∧
    ({ State.reset.tb with gulny := 1 } : Timebase).gload.toNat < ({ State.reset.tb with gulny := 1 } : Timebase).gulny.toNat := by decide

/-- Reset with the timebase changed. -/
def tbWith (f : Timebase → Timebase) : State := updTb f State.reset

theorem witness_TimebaseStepOneShotReadsAndPulses :
    pgRefuses hostReq .timebase (tbWith fun t => { t with stepNs := 1000000000 }) = false ∧
    1000000000 ≤ (tbWith fun t => { t with stepNs := 1000000000 }).tb.stepNs.toNat ∧
    (tbWith fun t => { t with stepNs := 999999999, stepPending := some (0, 0) }).tb.stepPending.isSome = true ∧
    ((running 0 id (tbWith fun t => { t with stepSec := 1, stepNs := 1 })).run.state = .running ∧
      1000000000 < (running 0 id (tbWith fun t => { t with stepSec := 1, stepNs := 1 })).tb.stepSec.toNat * 1000000000 + 1) ∧
    ¬ (1000000000 < (tbWith fun t => { t with stepSec := 1, stepNs := 0 }).tb.stepSec.toNat * 1000000000 + 0) ∧
    nowNs (tbWith fun t => { t with stepPending := some (0xFFFFFFFF, 0) }) + 0xFFFFFFFF * 1000000000 + 0 < 2 ^ 48 * 1000000000 ∧
    Vec.at (tbWith fun t => { t with ppsEn := Vector.replicate 2 true }).tb.ppsEn 1 = true ∧
    (tbWith fun t => { t with shot := some (1, 0, 0) }).tb.shot = some (1, 0, 0) ∧
    (tbWith fun t => { t with ppsInCtrl := 4 }).tb.ppsInCtrl.getLsbD (2 * (1 : Fin 2).val) = true ∧
    (Vec.at (tbWith fun t => { t with tick := 250000000, ppsOut := Vector.replicate 2 { lastEdge := some 0 } }).tb.ppsOut 0).lastEdge = some 0 ∧
    (Vec.at (tbWith fun t => { t with ppsOut := Vector.replicate 2 { high := true } }).tb.ppsOut 0).high = true ∧
    ¬ ((running 0 id (tbWith fun t => { t with stepPending := some (1, 0) })).sched.running = false) ∧
    0 + 250000000 ≤ (tbWith fun t => { t with tick := 250000000 }).tb.tick ∧
    (tbWith fun t => { t with tick := 249999999 }).tb.tick < 0 + 250000000 ∧
    0 ≤ presentedNs State.reset ∧ presentedNs State.reset < 2 ^ 48 * 1000000000 := by decide

/-- An instant one second ahead is not LATE: the first tick that reaches it lies beyond the lead time on the schedule clock. -/
theorem witness_TimebaseStepOneShotReadsAndPulses_shot :
    let s := tbWith fun t => { t with shotNs := 999999999 }
    0 < incr44 (commitIncr s.tb) ∧ (s.tb.shotSec.toNat * 1000000000 + 0) * 2 ^ 40 ≤ nativeUnits s.tb + 0 * incr44 (commitIncr s.tb) ∧
    0 * schedIncr (commitIncr s.tb) < leadNs s * 2 ^ 40 ∧
    ¬ ∃ k, (s.tb.shotSec.toNat * 1000000000 + s.tb.shotNs.toNat) * 2 ^ 40 ≤ nativeUnits s.tb + k * incr44 (commitIncr s.tb) ∧
      k * schedIncr (commitIncr s.tb) < leadNs s * 2 ^ 40 := by
  intro s
  have h1 : incr44 (commitIncr s.tb) = 2 * 2 ^ 40 := by decide +kernel
  have h2 : schedIncr (commitIncr s.tb) = 2 * 2 ^ 40 := by decide +kernel
  have h3 : leadNs s = 10000000 := by decide +kernel
  have h4 : nativeUnits s.tb = 0 := by decide +kernel
  have h5 : s.tb.shotSec.toNat * 1000000000 + s.tb.shotNs.toNat = 999999999 := by decide +kernel
  have h6 : s.tb.shotSec.toNat = 0 := by decide +kernel
  refine ⟨by omega, by omega, by omega, ?_⟩
  rintro ⟨k, a, b⟩
  rw [h1, h4, h5] at a
  rw [h2, h3] at b
  omega

/-! ### Witnesses: schedule block, application bank, forces, commit point -/

/-- The shadow bank in state `b` with `im0`, its target frame `f`. -/
def bank (b : BankState) (f : DWord) (s : State) : State :=
  running 0 (fun x => { x with bank := b, shadow := some im0, target := f, armedFrame := f }) s

/-- The device stands in a trio, as member 0 with both partners voting. -/
def inTrio0 (s : State) : State :=
  { s with trio := { s.trio with member := 0, role := .active, state := .trio, roster := ⟨7, 0, 5⟩ } }

/-- Rounds of 256 us, frames of two: frame 19 starts 9,728 us from now and is LATE, frame 20 lies 10,240 us ahead. -/
theorem witness_ScheduleActivateChecksInCodeOrder :
    pgRefuses coreReq .schedule (bank .valid 20 State.reset) = false ∧
    frameLate (bank .valid 19 State.reset) 19 = true ∧ frameLate (bank .armed 20 State.reset) 20 = false ∧
    (bank .armed 20 State.reset).sched.bank = .armed ∧ (bank .empty 20 State.reset).sched.bank ≠ .valid ∧
    (bank .valid 20 State.reset).sched.shadow = some im0 ∧
    appMismatch im0 (appInFrame (bank .valid 20 State.reset) 20 false) = none ∧
    (appMismatch { im0 with appId := 0 } (appInFrame (bank .valid 20 State.reset) 20 false)).isSome = true ∧
    hasPartner (inTrio0 (bank .valid 20 State.reset)) = true ∧ hasPartner (bank .valid 20 State.reset) = false ∧
    (let s := bank .valid 20 State.reset
     let s := { s with run := { s.run with bank := .armed } }
     s.run.bank = .armed ∧ s.run.ownTarget = false) := by decide

theorem witness_ScheduleLoadCancelDiscardValidation :
    pgRefuses coreReq .schedule (bank .valid 20 State.reset) = false ∧ (bank .loading 20 State.reset).sched.bank = .loading ∧
    pastCommit (running 1 (fun x => { x with bank := .armed, armedFrame := 1 }) State.reset) 1 = true ∧
    pastCommit (running 1 (fun x => { x with bank := .armed, armedFrame := 2 }) State.reset) 2 = false ∧
    pastCommit (running 0 (fun x => { x with bank := .armed, armedFrame := 1 }) State.reset) 1 = false ∧
    (running 0 (fun x => { x with bank := .armed, armedApp := true }) State.reset).sched.armedApp = true := by decide

/-- The application bank in state `b` with `app0` in shadow and its target frame 20. -/
def appBank (b : BankState) (s : State) : State :=
  let s := running 0 id s
  { s with run := { s.run with bank := b, shadow := some app0, appTarget := 20 } }

theorem witness_ApplicationBankCommands :
    pgRefuses coreReq .runControl (appBank .valid State.reset) = false ∧
    frameLate (appBank .valid State.reset) 20 = false ∧ (appBank .armed State.reset).run.bank = .armed ∧
    (appBank .empty State.reset).run.bank ≠ .armed ∧ (appBank .valid State.reset).run.shadow = some app0 ∧
    hasPartner (inTrio0 (appBank .valid State.reset)) = true ∧ keysBad (appBank .valid State.reset) app0 = none ∧
    (let k : KeyEntry := { word0 := 1, word1 := 0, word2 := 0, word3 := 0x400, value := [] }
     let s := appBank .valid State.reset
     (keysBad { s with run := { s.run with active := some { app0 with keys := [k] } } } { app0 with keys := [{ k with word3 := 0x800 }] }).isSome = true) ∧
    (appBank .valid State.reset).trio.copying = none ∧
    appPastCommit { appBank .armed State.reset with
      sched := { (appBank .armed State.reset).sched with round := 1 }, run := { (appBank .armed State.reset).run with ownTarget := true, armedFrame := 1 } } = true ∧
    (appBank .loading State.reset).run.bank = .loading := by decide

/-- An output point, of the trip class or not. -/
def point (n : BitVec 16) (trip : Bool) : OutPoint :=
  ⟨n, 0, 0, 0, ⟨0x1000, none, 0x1004, 1⟩, .other, true, 0, none, none, trip⟩

/-- Points 1 and 2 in the active image, the force registers naming point `p`, and forces `fs`. -/
def forced (p : BitVec 16) (fs : Vec (Option Force) 256) : State :=
  let s := running 0 id State.reset
  { s with run := { s.run with active := some { app0 with outPoints := [point 1 false, point 2 true] }, frcPoint := p, forces := fs } }

theorem witness_ForcesAndRestart :
    pgRefuses coreReq .runControl (forced 1 (Vector.replicate 256 none)) = false ∧
    forceIdx (forced 1 (Vector.replicate 256 (some ⟨9, 0, true, []⟩))) 1 = none ∧
    (Vec.at (Vector.replicate 256 (some (⟨9, 0, true, []⟩ : Force))) 255).isSome = true ∧
    pointTrip (forced 3 (Vector.replicate 256 none)) 3 = none ∧
    pointTrip (forced 2 (Vector.replicate 256 none)) 2 = some true ∧ sealMaint (forced 2 (Vector.replicate 256 none)) = false ∧
    pointTrip (forced 1 (Vector.replicate 256 none)) 1 = some false ∧
    forceOn (forced 1 ((Vector.replicate 256 none).set 0 (some ⟨1, 5, true, [(none, 0, 2)]⟩))) 1 = some ⟨1, 5, true, [(none, 0, 2)]⟩ ∧
    Vec.at (forced 1 ((Vector.replicate 256 none).set 0 (some ⟨1, 5, false, [(some 7, 0, 0), (none, 0, 1), (none, 1, 0)]⟩))).run.forces 0 =
      some ⟨1, 5, false, [(some 7, 0, 0)] ++ (none, 0, 1) :: [(none, 1, 0)]⟩ ∧
    (∀ y ∈ ([(some 7, 0, 0)] : List (Option Word × Nat × Fin 3)), y.2.1 = 0) ∧
    (∀ y ∈ ([(none, 1, 0)] : List (Option Word × Nat × Fin 3)).head?, y.2.1 ≠ 0) ∧
    inTrio (inTrio0 (forced 1 (Vector.replicate 256 none))) = true ∧ inTrio (forced 1 (Vector.replicate 256 none)) = false ∧
    (let s := forced 1 (Vector.replicate 256 none)
     let s := { s with run := { s.run with state := .stopped, restart := some 0, target := 20 }, sched := { s.sched with slotBegun := false } }
     s.run.restart = some 0 ∧ frameDue s 0 = true ∧ frameLate s 20 = false ∧ frameLate s 19 = true) := by decide

/-- The hypothesis on the force table: no two entries hold one point. -/
theorem witness_forcesDistinct : forcesDistinct (forced 1 (Vector.replicate 256 none)) := by
  intro i j f g h
  simp [forced, running, allOn, Vec.at] at h

/-! ### Witnesses: commit point, rounds, packets -/

/-- A status of member `m` that agrees with `im0` and `app0`. -/
def status (m : BitVec 2) (role : Role) : MemberStatus :=
  { member := m, role := role, config := Part.acr9608.code, t := 0, epoch := 5, schedId := 0x51, appId := 0xA1, compat := 0, gaveUp := false, cause := 0
    cmp := .ok, odd := 3, odd2 := 3, missing := 0, diagPass := none, roster := ⟨7, 0, 5⟩, rejoinReq := false, admits := none, donor := 3
    phase := 0, start := none, forces := [], refused := [], swap := none, appSwap := none, testSent := none, testSeen := false, groups := [] }

/-- A device in a trio in the last round of frame 0 whose partner 1 published a swap at frame 1, this device in phase `ph`. -/
def meeting (ph : BitVec 3) : State :=
  let s := inTrio0 (running 1 id State.reset)
  { s with trio := { s.trio with phase := ph, partners := Vector.replicate 3 { last := some { status 1 .active with swap := some (1, 0x51) } } } }

/-- Both banks armed for frame 1 in the last round of frame 0, the commit point passed where `held`, the frame begun where `sw`. -/
def armed (held sw : Bool) (safe : Option SafetyCfg) (f : Sched → Sched) : State :=
  let s := running 1 (fun x => f { x with bank := .armed, shadow := some im0, armedFrame := 1, frame := if sw then 1 else 0, switched := sw }) State.reset
  { s with run := { s.run with bank := .armed, ownTarget := true, shadow := some { app0 with safety := safe }, armedFrame := 1, commitHeld := held } }

/-- A safety configuration with seal code 0xA5. -/
def saf0 : SafetyCfg := ⟨7, 0xA5, 0x5A, [], []⟩

theorem witness_CommitPointAndSwap :
    (lastRound (meeting 3) = true ∧ (meeting 3).trio.phase ≠ 0 ∧ swapPasses (meeting 3) = true) ∧ (meeting 0).trio.phase = 0 ∧
    swapPasses (inTrio0 (running 1 id State.reset)) = false ∧
    appDue (running 1 id State.reset) = false ∧ schedDue (running 1 id State.reset) = false ∧
    (appDue (armed false false (some saf0) id) = true ∧ appStage1 (armed false false (some saf0) id) = some 0x27) ∧
    (schedDue (inTrio0 (armed false false none fun x => { x with armedTrio := true })) = true ∧
      schedStage1 (inTrio0 (armed false false none fun x => { x with armedTrio := true })) = some 0x25) ∧
    (appDue (armed false false none fun x => { x with bank := .empty }) = true ∧
      appStage1 (armed false false none fun x => { x with bank := .empty }) = none ∧
      schedDue (armed false false none fun x => { x with bank := .empty }) = false) ∧
    (swapDue (armed true true none id) = true ∧ (armed true true none id).sched.switched = true) ∧
    (swapDue (armed true false none id) = true ∧ (armed true false none id).sched.switched = false ∧
      (Vec.at (armed true false none id).crests 5).failAtRoundEnd = false ∧ (Vec.at (armed true false none id).crests 5).exhausted = false ∧
      exchangeDue (armed true false none id) = true) ∧
    (swapDue State.reset = false ∧ exchangeDue State.reset = false ∧ lastRound State.reset = false) ∧
    (exchangeDue (armed true true none id) = true ∧ (armed true true none id).run.active = some app0 ∧
      (armed true true none id).run.shadow = some app0) := by decide

theorem witness_CommitPointAndSwap_exchange :
    exchangeDue (armed true false none id) = true ∧ (armed true false none id).run.active = some app0 ∧
    (armed true false none id).run.shadow = some app0 := by decide

/-- A member that listens in phase 3 meets the commit point of a partner's swap. -/
theorem witness_CommitPointAndSwap_listener :
    let s := { meeting 4 with trio := { (meeting 4).trio with role := .listening } }
    lastRound s = true ∧ s.trio.phase ≠ 0 ∧ swapPasses s = true ∧ s.trio.role = .listening ∧ (meeting 4).trio.role ≠ .listening := by decide +kernel

/-- An image whose engine 0 of Crest 0 runs step `desc0` in slot 1. -/
def imStep : SchedImage := { im0 with steps := [desc0], engineSteps := [⟨⟨1, 0, 0⟩, 0, 0, 0, 0, 0, 0⟩] }

/-- It is active, slot 1 has begun, and engine `e0` has taken the half that holds the step. -/
def slotState (slot : BitVec 20) (begun : Bool) (f : Crest → Crest) : State :=
  updCrest 0 (fun t => f { t with map := [0] }) (running 0 (fun x => { x with active := some imStep, slot := slot, slotBegun := begun })
    (engWith 0 fun g => { g with run := none, taken := true }))

/-- The running step of `engWith` under a running schedule. -/
def lateState : State := running 0 id (engWith 0 id)

theorem witness_RoundsSlotsStepsAndDeadlines :
    (0 < imStep.roundSlots.toNat ∧ (slotState 0 false id).sched.slotBegun = false ∧ (slotState 0 false id).sched.running = true) ∧
    (imStep.roundSlots.toNat ≤ (slotState 3 true id).sched.slot.toNat + 1 ∧ (slotState 2 true id).sched.slot.toNat + 1 < imStep.roundSlots.toNat) ∧
    (computes (slotState 1 true id) = true ∧ crestOn (slotState 1 true id) 0 = true ∧
      logicalOf (Vec.at (slotState 1 true id).crests 0) 0 = some 0 ∧
      (entryAt (slotState 1 true id) imStep 0 0 1).map (fun x => descAt imStep x) = some desc0 ∧
      (Vec.at (slotState 1 true id).crests 0).retired.getLsbD 0 = false ∧ stepOut (slotState 1 true id) desc0 = false ∧
      (curHalf (engineAt (slotState 1 true id) e0)).desc = some desc0 ∧ (engineAt (slotState 1 true id) e0).taken = true) ∧
    (engineAt State.reset e0).taken = false ∧ computes State.reset = false ∧ State.reset.staged = [] ∧ State.reset.trio.phase ≠ 3 ∧
    (Vec.at (slotState 1 true fun t => { t with loopsLate := true }).crests 0).loopsLate = true ∧
    ((3 : BitVec 8).getLsbD 0 = true ∧ State.reset.part.hasTile 0 = true) ∧
    (Vec.at (slotState 1 true fun t => { t with retired := 1 }).crests 0).retired.getLsbD 0 = true ∧
    (lateState.sched.active = some im0 ∧ lateState.run.state = .running ∧ inTrio lateState = false ∧
      (engineAt lateState e0).run = some ⟨desc0, 0, 0, 0⟩) ∧
    (engineAt State.reset e0).run = none ∧
    (State.reset.sched.running = false ∧ mayBegin State.reset = false) ∧
    (let s := { running 0 (fun x => { x with running := false }) State.reset with pwr := { State.reset.pwr with stage := 10 } }
     let s := { s with run := { s.run with state := .starting } }
     s.sched.running = false ∧ mayBegin s = true ∧ s.run.state = .starting) ∧
    (let s := { running 0 (fun x => { x with running := false }) State.reset with pwr := { State.reset.pwr with stage := 10 } }
     let s := { s with run := { s.run with state := .stopped } }
     s.sched.running = false ∧ mayBegin s = true ∧ s.run.state = .stopped) ∧
    ((running 1 id State.reset).upd.restart = none ∧ (running 1 id State.reset).sched.switched = false ∧
      (running 1 id State.reset).sched.round.toNat + 1 = frameRoundsOf im0 ∧ (running 0 id State.reset).sched.round.toNat + 1 ≠ frameRoundsOf im0) := by
  decide

/-- A stopped device: its slots move nothing. -/
theorem witness_RoundsSlotsStepsAndDeadlines_still :
    let s := slotState 1 true id
    let s := { s with run := { s.run with state := .stopped } }
    s.sched.active = some imStep ∧ s.sched.running = true ∧ computes s = false ∧ inTrio s = false ∧ s.trio.phase ≠ 3 ∧ s.staged = [] ∧
    s.sched.slot.toNat + 1 < imStep.roundSlots.toNat := by decide +kernel

/-- The half that holds the step of slot 1 waits while the engine uses its other half, in a device that runs slot 1. -/
def waitingHalf : State := slotState 1 true fun t => { t with engines := t.engines.set 0 { (Vec.at t.engines 0) with half := true, taken := false } }

/-- A round's slot 1 takes that half; slot 0 loads it, and slot 2 unloads it after its HALT. -/
theorem witness_RoundsSlotsStepsAndDeadlines_moves :
    (logicalOf (Vec.at waitingHalf.crests 0) 0 = some 0 ∧ (entryAt waitingHalf imStep 0 0 1).map (descAt imStep) = some desc0 ∧
      (Vec.at waitingHalf.crests 0).retired.getLsbD 0 = false ∧ stepOut waitingHalf desc0 = false ∧ (otherHalf (engineAt waitingHalf e0)).desc = some desc0) ∧
    (crestLive (slotState 2 true id) 0 = true ∧ timingActive ⟨1, 0, 0⟩ (slotState 2 true id).sched.round = true ∧
      physicalOf (Vec.at (slotState 2 true id).crests 0) 0 = some 0 ∧ (1 : BitVec 20).toNat + 1 = (slotState 2 true id).sched.slot.toNat) ∧
    (let s := updEngine e0 (fun g => { g with taken := false, half0 := { g.half0 with done := true } }) (slotState 2 true id)
     (halfBefore (engineAt s e0)).desc = some desc0 ∧ (halfBefore (engineAt s e0)).done = true ∧ desc0.stateLen ≠ 0 ∧ memWf s.pool = true) ∧
    ((1 : BitVec 20).toNat = (slotState 0 true id).sched.slot.toNat + 1 ∧ spanBad (slotState 0 true id) desc0.codeAddr 64 = [] ∧
      spanBad (updCrest 0 (fun t => { t with badWords := [0] }) (slotState 0 true id)) desc0.codeAddr 64 ≠ []) := by decide +kernel

/-- Task 5 of tenant 2 with a committed state of 5 flits from 0x1000, its working copy from 0x2000 and a repair slot of 5 flits. -/
def task0 : Task :=
  { tenant := 2, task := 5, committed := 0x1000, working := 0x2000, inputFlits := 1, variableFlits := 1, outputFlits := 1, rate := 0, repairOff := 0
    repairFlits := 5, markAddr := 0x3000, markBit := 0 }

/-- A device that runs slot 1 with that task, its state `r`, changed by `f`. -/
def taskState (r : TaskRt) (f : Trio → Trio) : State :=
  let s := slotState 1 true id
  { s with run := { s.run with active := some { app0 with tasks := [task0] }, tasks := [r] }, trio := f s.trio }

/-- A transfer in slot 1 of `n` flits. -/
def move (src dst : Word) (n : BitVec 16) (device : Bool) : Transfer := ⟨⟨1, 0, 0⟩, src, dst, n, 0, 2, device⟩

/-- The first load of a task under repair; a commit transfer, one of a task that is out, one to a loop record, one to a CAN transmit area, and a
repair that has come whole. -/
theorem witness_RoundsSlotsStepsAndDeadlines_transfers :
    (let s := taskState { tenant := 2, task := 5, repair := true } id
     (taskRt s desc0.tenant desc0.task).repair = true ∧ (taskRt s desc0.tenant desc0.task).repaired = false) ∧
    (let s := taskState { tenant := 2, task := 5 } id
     let e := move 0x2000 0x1000 1 false
     dueNow s e.t = true ∧ isCommit s e = true ∧ isPool e.dst = true ∧ e.dst.toNat + 64 ≤ 0x3000000 ∧ memWf s.pool = true) ∧
    (isPool 0x90000000 = false ∧ endsWithSlot 0x90000000 = true ∧ epTile 0x90000000 = (0 : Fin 6).val + 1) ∧
    (isPool 0x83200000 = false ∧ endsWithSlot 0x83200000 = true ∧ epTile 0x83200000 = 0 ∧ epOff 0x83200000 = 0x3200000) ∧
    isPool 0x80000000 = false ∧ endsWithSlot 0x80000000 = false := by decide +kernel

/-- The three cases of a transfer that moves: a working copy, one that is out of the round, a repair. -/
theorem witness_RoundsSlotsStepsAndDeadlines_moving :
    moves (taskState { tenant := 2, task := 5 } id) (move 0x2000 0x1000 1 false) ∧
    ¬ moves (taskState { tenant := 2, task := 5, abandoned := true } id) (move 0x2000 0x1000 1 false) ∧
    moves (taskState { tenant := 2, task := 5, repair := true } fun t => { t with t := 1, repairFlits := [(.a, 0, (2, 5), 0, 5)] })
      (move 0x82800000 0x1000 5 true) := by
  have h1 : moveFrom (move 0x2000 0x1000 1 false) = .elsewhere := by decide +kernel
  have h2 : moveFrom (move 0x82800000 0x1000 5 true) = .repairSlot .a 0 := by decide +kernel
  refine ⟨?_, ?_, ?_⟩
  · unfold moves
    rw [h1]
    decide +kernel
  · unfold moves
    rw [h1]
    decide +kernel
  · unfold moves
    rw [h2]
    exact ⟨task0, by decide +kernel, by decide +kernel, by decide +kernel⟩

/-- The device that runs slot 1 with a task, in a trio, its trio unit changed by `f`. -/
def trioSlot (f : Trio → Trio) : State := inTrio0 (taskState { tenant := 2, task := 5 } f)

/-- Exchanges of every kind are due; another slot's is not, and a device without a trio sends none. -/
theorem witness_RoundsSlotsStepsAndDeadlines_exchanges :
    (∀ k : Fin 5, dueNow (trioSlot id) ⟨1, 0, 0⟩ = true ∧ sendsKind (trioSlot id) k.val = true) ∧ (trioSlot id).trio.copying = none ∧
    dueNow (trioSlot id) ⟨2, 0, 0⟩ = false ∧ sendsKind (taskState { tenant := 2, task := 5 } id) 0 = false := by decide +kernel

/-- A capture due in slot 1: no historian; a drive that takes its class; a poisoned source; an abandoned task's; a full share. -/
theorem witness_RoundsSlotsStepsAndDeadlines_captures :
    let s (r : TaskRt) : State := taskState r id
    let h (r : TaskRt) : State := { s r with
      historian := { (s r).historian with enabled := true, drives := Vector.replicate 4 { state := .ok, capGb := 100 } }
      run := { (s r).run with active := some { app0 with tasks := [task0], hisReservation := Vector.replicate 9 10
                                                         hisShares := [⟨2, 0, 10, 1⟩, ⟨8, 0, 10, 1⟩], hisCapacityGb := 100 } } }
    let x := h { tenant := 2, task := 5 }
    dueNow (s { tenant := 2, task := 5 }) ⟨1, 0, 0⟩ = true ∧ dueNow x ⟨0, 0, 0⟩ = false ∧ (s { tenant := 2, task := 5 }).historian.enabled = false ∧
    x.historian.enabled = true ∧ classAccepted x 0 = true ∧ spanBad x 0x1000 64 = [] ∧ spanAbandoned x 0x1000 = false ∧
    stagedBytes x (tenantOwner 2) + 64 + (readSpan x 0x1000 1).length ≤ stagingShare x (tenantOwner 2) ∧
    spanBad (updCrest 0 (fun t => { t with badWords := [0x1000] }) x) 0x1000 64 ≠ [] ∧
    spanAbandoned (h { tenant := 2, task := 5, abandoned := true }) 0x2000 = true ∧
    stagingShare (s { tenant := 2, task := 5 }) (tenantOwner 2) < 128 := by decide +kernel

/-- A tile that is ON and one that is not; an engine order; two loop steps due in slot 1, of which one ends in time. -/
theorem witness_RoundsSlotsStepsAndDeadlines_loops :
    let im := { imStep with loopSteps := [⟨⟨1, 0, 0⟩, 3, 0, 2⟩, ⟨⟨1, 0, 0⟩, 4, 0, 2⟩] }
    let s := slotState 1 true id
    let s := { s with sched := { s.sched with active := some im } }
    crestLive s 0 = true ∧ crestLive State.reset 0 = false ∧ computes s = true ∧ (loopsDue im s 0).length = 2 ∧
    (Vec.at ((Vector.replicate 6 none).set 0 (some 1)) (0 : Fin 6) : Option (BitVec 7)) = some 1 ∧ (engineOrder s).length = 108 := by decide +kernel

/-- At a round start: commit groups of every class of a device whose round before computed, and sample groups of every class. -/
theorem witness_RoundsSlotsStepsAndDeadlines_groups :
    let g (cls : BitVec 8) (sample : Bool) : IoGroup := ⟨⟨0, 0, 0⟩, cls, 0, 2, false, sample, !sample⟩
    let st : StationCfg := ⟨0, 2, 3, 3, 0, 1, 0, 0, 1, [], []⟩
    let s := running 0 id State.reset
    let s := { s with run := { s.run with ran := true, active := some { app0 with stations := [st] } }, field := { s.field with doNew := 1 } }
    (s.run.ran && computes s) = true ∧ (State.reset.run.ran && computes State.reset) = false ∧ sendsKeaco s = true ∧ s.run.state = .running ∧
    (stationCfg s (stationOf 0)).isSome = true ∧ s.field.doNew.getLsbD 0 = true ∧
    (g 9 true).cls.toNat > 5 ∧ (g 0 true).cls.toNat ≤ 5 ∧ fieldLive s = true ∧ fieldLive { s with field := { s.field with powered := false } } = false ∧
    memWf s.field.flits = true ∧ memWf (Vec.at s.uarts 0).latch = true := by decide +kernel

/-- A commanded retirement with a remap variant of its retired set, one without, and a third. -/
theorem witness_RoundsSlotsStepsAndDeadlines_remaps :
    let im := { im0 with remaps := [⟨2, 0, [0, 2]⟩] }
    let s := updCrest 0 (fun t => { t with toRetire := [1] }) (running 0 (fun x => { x with active := some im }) State.reset)
    (Vec.at s.crests 0).toRetire = [1] ∧ withEngines (Vec.at s.crests 0).retired [1] = 2 ∧ popcount (withEngines (3 : BitVec 18) [1, 2]) = 3 := by
  decide +kernel

/-- Not the reference, and the alignment data of the active member of this round and the round before are there, and are not. -/
theorem witness_RoundsSlotsStepsAndDeadlines_trim :
    let d (a b c e : DWord) : AlignData := ⟨false, a, c, e, b⟩
    let s := trioSlot fun t => t
    let s := { s with trio := { s.trio with roster := ⟨7, 1, 5⟩ } }
    let u := { s with trio := { s.trio with lineA := { s.trio.lineA with txPrev := some 3 }, lineB := { s.trio.lineB with txPrev := some 3 }
                                            partners := Vector.replicate 3 { align := some (d 1 2 3 4), alignPrev := some (d 1 2 3 4) } } }
    isReference s = false ∧ activeMember s = some 1 ∧ s.sched.active = some imStep ∧ thetaDelay s 1 = none ∧ (thetaDelay u 1).isSome = true ∧
    isReference u = false ∧ activeMember u = some 1 := by decide +kernel

/-- The earliest theta of the last 8 rounds stands in the third place. -/
theorem witness_RoundsSlotsStepsAndDeadlines_thetas :
    (∀ x ∈ ([none, none] : List (Option Int)).take 8, x = none) ∧
    ([none, none, some (-7)] : List (Option Int))[2]? = some (some (-7)) ∧
    (∀ j, j < 2 → j < 8 → ∀ x, ([none, none, some (-7)] : List (Option Int))[j]? = some x → x = none) := by
  refine ⟨by decide, by decide, ?_⟩
  intro j h _ x hx
  interval_cases j <;> simp_all

/-- A packet at the switch of Crest 0 that leaves it by port 8, with a tenant. -/
def packet (addr : Word) (ten : Option (BitVec 3)) (k : BeKind) : Packet := ⟨4, .core 0, 0x8041, ten, addr, k, 1, 0, 0, none⟩

/-- That packet on its way, tenant 2 owning the first 64 bytes of the pool. -/
def packetState (p : Packet) : State :=
  let s := running 0 id State.reset
  { s with packets := [p], run := { s.run with active := some { app0 with regions := [⟨some 2, 0, 64, .committed⟩] } } }

theorem witness_FabricPacketsAndFlits :
    State.reset.packets.countP (fun p => p.src == .core 0) < flightLimit (.core 0) ∧
    (let p := packet 0 (some 2) (.write [1, 2])
     p ∈ (packetState p).packets ∧ p.waiting = 0 ∧ p.hop < routeCodes p.route ∧ (packetState p).part.hasTile p.tile.val = true ∧
     routePort p.route p.hop = 8 ∧ ownsAddress (packetState p) p = true ∧ mayWrite (packetState p) p.tenant p.addr.toNat 2 = true) ∧
    (let p := packet 63 (some 3) (.write [1, 2])
     ownsAddress (packetState p) p = true ∧ mayWrite (packetState p) p.tenant p.addr.toNat 2 = false) ∧
    (let p := packet 62 none (.read 2)
     ownsAddress (packetState p) p = true ∧ badIn (packetState p) p.addr.toNat 2 = []) ∧
    memWf (packetState (packet 0 none (.read 1))).pool = true ∧ (State.reset.part.linkEnds 0).isSome = true ∧
    (({ State.reset with flitFails := [(⟨0, false⟩, 2)] } : State).flitFails.find? fun x => x.1 == ⟨0, false⟩) = some (⟨0, false⟩, 2) := by decide

/-- Packets that cannot be sent on: no code is left, the tile is absent, the code names no port, the tile does not own the address. -/
theorem witness_FabricPacketsAndFlits_undeliverable :
    undeliverable (packetState { packet 0 none (.read 1) with hop := 1 }) { packet 0 none (.read 1) with hop := 1 } ∧
    (let p : Packet := { packet 0 none (.read 1) with tile := 3 }
     { packetState p with part := .acr9602 }.part.hasTile p.tile.val = false ∧ undeliverable { packetState p with part := .acr9602 } p) ∧
    (let p : Packet := { packet 0 none (.read 1) with route := 0x4041 }
     undeliverable (packetState p) p) ∧
    (let p : Packet := packet 0x2FFFFFF none (.read 1)
     undeliverable (packetState p) p ∧ (∀ x ∈ (packetState p).packets, x.id = p.id → x = p) ∧ p ∈ (packetState p).packets ∧ p.waiting = 0 ∧ p.tile.val < 7) := by
  refine ⟨?_, ?_, ?_, ?_⟩ <;> (try unfold undeliverable) <;> decide +kernel

/-- A packet in the switch of Crest 0 whose code names a link: with its window open and without, behind a packet that waits there. -/
theorem witness_FabricPacketsAndFlits_forward :
    let p : Packet := { packet 0 none (.write [1, 2]) with route := 0x0041 }
    let s := packetState p
    (∀ x ∈ s.packets, x.id = p.id → x = p) ∧ p ∈ s.packets ∧ p.waiting = 0 ∧ p.hop < routeCodes p.route ∧ s.part.hasTile p.tile.val = true ∧
    routePort p.route p.hop ≠ 8 ∧ (codePort p.tile.val (routePort p.route p.hop)).isSome = true ∧
    (((codePort p.tile.val (routePort p.route p.hop)).bind (s.part.hop p.tile.val)).isSome = true) := by decide +kernel

/-- Windows: no schedule, a link that is there, one whose window of the slot has begun; flit failures of a fabric link and of the field link,
a third one, and what each leaves in a start-up, with rounds, in a trio and of an observer. -/
theorem witness_FabricPacketsAndFlits_windows :
    slotImage State.reset = none ∧ State.reset.part.linkEnds 0 ≠ none ∧ Part.acr9602.linkEnds 16 = none ∧
    (let s := running 0 id State.reset
     slotImage s = some im0 ∧ s.opened.any (fun w => w.ld == ⟨0, false⟩ && w.endNs == slotEnd s im0) = false ∧
     ({ s with opened := [⟨⟨0, false⟩, slotEnd s im0, 3⟩] } : State).opened.any (fun w => w.ld == ⟨0, false⟩ && w.endNs == slotEnd s im0) = true) ∧
    (({ State.reset with flitFails := [(⟨0, false⟩, 2)] } : State).flitFails.find? fun x => x.1 == ⟨0, false⟩) = some (⟨0, false⟩, 2) ∧
    ((0 : Fin 17).val ≠ fieldLink ∧ (State.reset.part.linkEnds fieldLink).isSome = true ∧ fieldLink < 17) ∧
    startingUp { State.reset with pwr := { State.reset.pwr with stage := 7, released := true } } = true ∧
    (startingUp (running 0 id State.reset) = false ∧ (running 0 id State.reset).run.state = .running ∧ inTrio (running 0 id State.reset) = false) ∧
    inTrio (inTrio0 (running 0 id State.reset)) = true ∧
    ({ (running 0 id State.reset).run with state := .observer } : RunCtl).state = .observer ∧ State.reset.field.linkUp = false ∧
    ({ State.reset.field with linkUp := true } : Field).linkUp = true := by decide +kernel

/-! ### Witnesses: the trio -/

/-- `im0` with one input and one output exchange of a flit each. -/
def imTrio : SchedImage := { im0 with exchanges := [⟨⟨0, 0, 0⟩, 0, 1, 0x1000⟩, ⟨⟨0, 0, 0⟩, 1, 1, 0x2000⟩] }

/-- A binary input point and an analogue one, with words that lie apart. -/
def inBin : InPoint :=
  { number := 1, key := 0, tenant := 0, group := (0, 0), rule := .bin, duo := .low, raw := ⟨0x1000, some 0, 0x1004, 1⟩, voted := ⟨0x1100, some 3, 0x1104, 2⟩
    discAddr := 0x1108, discBit := 0, safeState := false, deviation := 0, subst := .hold, trip := false }
/-- See `inBin`. -/
def inAna : InPoint := { inBin with rule := .ana, raw := ⟨0x1000, none, 0x1004, 1⟩, voted := ⟨0x1100, none, 0x1104, 0xF⟩ }

/-- A trio whose three members' exchanges have come, the output word at 0x2000 being `x`, `y`, `z` at members 0, 1 and 2. -/
def trioWith (pt : InPoint) (x y z : Word) (vote : BitVec 3) : State :=
  let s := inTrio0 (running 0 (fun c => { c with active := some imTrio }) State.reset)
  { s with
    run := { s.run with active := some { app0 with inPoints := [pt], outPoints := [{ point 1 false with place := ⟨0x2000, none, 0x2004, 1⟩ }] } }
    pool := memWrite [] 0x2000 (bytesOf 4 x.toNat)
    trio := { s.trio with
      roster := ⟨vote, 0, 5⟩, flits := [(.a, 0, 0, 1), (.b, 0, 0, 1), (.a, 1, 0, 1), (.b, 1, 0, 1)]
      rxA := memWrite (memWrite [] 0 [1]) 0x80000 (bytesOf 4 y.toNat), rxB := memWrite [] 0x80000 (bytesOf 4 z.toNat) } }

theorem witness_InputVote :
    computes State.reset = false ∧
    (let s := trioWith inBin 0 0 0 7
     computes s = true ∧ inTrio s = true ∧ memWf s.pool = true ∧ inPoints s = [inBin] ∧ inBin.rule = .bin ∧ inBin.raw.bit.isSome = true ∧
     columnsOf s inBin = [⟨0, 0, 0⟩, ⟨1, 1, 0⟩, ⟨2, 0, 0⟩]) ∧
    fixed32 0x7F800000 = some fixedInf ∧ fixed32 0xFF800000 = some (-fixedInf) ∧ fixed32 0x80000000 = some 0 ∧
    (let s := { trioWith inAna 0 0 0 7 with trio := State.reset.trio }
     computes s = true ∧ inTrio s = false ∧ memWf s.pool = true ∧ inPoints s = [inAna] ∧ placeGood s inAna.raw = true ∧
     forcedValue { s with run := { s.run with forces := s.run.forces.set 0 (some ⟨1, 9, true, []⟩) } } inAna.number = some 9) ∧
    (let s := updCrest 0 (fun t => { t with badWords := [0x1000] }) (trioWith inAna 0 0 0 7)
     forcedValue s inAna.number = none ∧ placeGood s inAna.raw = false) ∧
    inPoints (running 0 id State.reset) = [] ∧ computes (running 0 id State.reset) = true := by decide +kernel

/-- The binary point with its status beside its value, and its discrepancy bit elsewhere: its places lie apart. -/
theorem witness_InputVote_apart : pointsApart (trioWith inBin 0 0 0 7) ∧ noUpset (trioWith inBin 0 0 0 7) ∧
    memWf (trioWith inBin 0 0 0 7).pool = true ∧ computes (trioWith inBin 0 0 0 7) = true := by
  refine ⟨⟨?_, ?_, ?_, ?_⟩, ?_, ?_, ?_⟩
  · decide +kernel
  · intro p hp
    have h : p = inBin := by simpa [inPoints, trioWith, inTrio0, running, allOn] using hp
    subst h
    unfold placeBits
    decide +kernel
  · show List.Pairwise _ [inBin]
    simp
  · intro p hp q hq a b h
    have h1 : p = inBin := by simpa [inPoints, trioWith, inTrio0, running, allOn] using hp
    have h2 : q = inBin := by simpa [inPoints, trioWith, inTrio0, running, allOn] using hq
    subst h1 h2
    simp only [votedBits, placeBits, inBin] at h ⊢
    omega
  · unfold noUpset; decide +kernel
  · decide +kernel
  · decide +kernel

/-- What a vote finds at the binary point: a value, nothing that counts, and under SRC a member that does not count beside one that does. -/
theorem witness_InputVote_findings :
    (let s := trioWith inBin 0 0 0 7
     inTrio s = true ∧ forcedValue s 1 = none ∧ countingColumns s inBin = [⟨0, 0, 0⟩, ⟨1, 1, 0⟩, ⟨2, 0, 0⟩] ∧
     voteOf inBin (countingColumns s inBin) = .value 0 0 ∧ deviates inBin 0 ⟨1, 1, 0⟩ = true ∧ deviates inBin 0 ⟨0, 0, 0⟩ = false ∧
     deviationRun s 1 1 + 1 = max 1 (trioCfg s).persist.toNat) ∧
    voteOf inBin [] = .substitute ∧ voteOf { inBin with rule := .src 2 } [⟨0, 0, 0⟩] = .substitute ∧
    (inTrio { trioWith inBin 0 0 0 7 with trio := State.reset.trio } = false) := by decide +kernel

/-- No word of the tiles holds an error after reset. -/
theorem witness_noUpset : noUpset State.reset := by unfold noUpset; decide

/-- The places of both points lie apart, and no force stands. -/
theorem witness_InputVote_places : placesApart inBin ∧ apart inAna.voted.addr 4 inAna.voted.statusAddr 4 ∧
    ∀ i, Vec.at (trioWith inBin 0 0 0 7).run.forces i = none := by
  refine ⟨?_, ?_, ?_⟩ <;> (try unfold placesApart) <;> (try unfold apart) <;> decide

theorem witness_ComparisonOutcomes :
    (let s := trioWith inBin 5 5 5 7
     inTrio s = true ∧ computes s = true ∧ s.trio.gaveUp = false ∧ listenerOf s = none ∧
     (outPoints s).map (countedColumns s) = [[(0, 5), (1, 5), (2, 5)]]) ∧
    (outPoints (trioWith inBin 5 6 5 7)).map (countedColumns (trioWith inBin 5 6 5 7)) = [[(0, 5), (1, 6), (2, 5)]] ∧
    (outPoints (trioWith inBin 5 6 7 7)).map (countedColumns (trioWith inBin 5 6 7 7)) = [[(0, 5), (1, 6), (2, 7)]] ∧
    votes (trioWith inBin 5 6 7 7) = true ∧ me (trioWith inBin 5 6 7 7) = 0 ∧
    (outPoints (trioWith inBin 5 6 0 3)).map (countedColumns (trioWith inBin 5 6 0 3)) = [[(0, 5), (1, 6)]] := by decide

/-- Two members: nothing of member 2's image came, so that it does not listen. -/
theorem witness_ComparisonOutcomes_two :
    let s := { trioWith inBin 5 6 0 3 with trio := { (trioWith inBin 5 6 0 3).trio with flits := [(.a, 0, 0, 1), (.a, 1, 0, 1)] } }
    listenerOf s = none ∧ inTrio s = true ∧ computes s = true ∧ (outPoints s).map (countedColumns s) = [[(0, 5), (1, 6)]] := by decide

/-- Member 2 listens: its column agrees, and differs. -/
theorem witness_ComparisonOutcomes_listener :
    inTrio State.reset = false ∧
    (let s := trioWith inBin 5 5 5 3
     inTrio s = true ∧ computes s = true ∧ listenerOf s = some 2 ∧ listenOk s 2 = true ∧ (outPoints s).map (countedColumns s) = [[(0, 5), (1, 5)]]) ∧
    (let s := trioWith inBin 5 5 6 3
     listenerOf s = some 2 ∧ listenOk s 2 = false ∧ (outPoints s).map (countedColumns s) = [[(0, 5), (1, 5)]]) := by decide +kernel

theorem witness_DecisionInstantAdoptsARoster :
    let s := inTrio0 (running 0 id State.reset)
    let s := { s with trio := { s.trio with partners := Vector.replicate 3 { status := some { status 1 .active with gaveUp := true } } } }
    inTrio s = true ∧ s.trio.forming = false ∧ s.sched.running = true ∧ (1 : Fin 3) ≠ me s ∧ rosterVotes s.trio.roster 1 = true ∧
    (partnerAt s 1).status = some { status 1 .active with gaveUp := true } ∧ votes s = true := by decide

/-- A round in which nothing is amiss: every member's status came, and member 0 is the proposer. -/
theorem witness_DecisionInstantAdoptsARoster_quiet :
    let s := inTrio0 (running 0 id State.reset)
    let s := { s with trio := { s.trio with sentStatus := some (status 0 .active), partners := Vector.replicate 3 { status := some (status 1 .standby) } } }
    s.trio.sentStatus.isSome = true ∧ (votersOf s).length = 3 ∧ s.trio.disagree = none ∧ (evidence s).excluded = 0 ∧
    statusOf s (proposer s) = some (status 0 .active) ∧ (status 0 .active).roster.active.toNat < 3 ∧
    (status 0 .active).roster.voting.getLsbD (status 0 .active).roster.active.toNat = true ∧
    (status 0 .active).roster.voting.getLsbD (me s).val = true ∧ partnersOf s = [1, 2] ∧ (partnerAt s 1).status.isSome = true ∧
    s.run.tasks = [] ∧ s.trio.phase = 0 := by decide +kernel

/-- A trio frame of `type` from member 1 to member 0 on port A with its packet number 1 and its CRC, under the key in use. -/
def trioFrame (type : Byte) (t : DWord) (offset len : BitVec 16) (p : TrioPayload) : TrioFrame :=
  let f : TrioFrame := ⟨true, 5, 0, 1, type, 1, 0, t, offset, len, p, 0⟩
  { f with crc := trioCrc f }

/-- The connectivity association key 5 is stored, and the ports are enabled. -/
def keyed (s : State) : State := { s with store := { s.store with cak := some 5 }, ports := s.ports.map fun x => { x with en := true } }

/-- A device that runs rounds in a trio, with one-flit exchanges of every kind, keyed, changed by `f`. -/
def trioRuns (f : Trio → Trio) : State :=
  let s := keyed (inTrio0 (running 0 (fun x => { x with active := some { im0 with exchanges := [0, 1, 2, 3, 4].map fun k => ⟨⟨0, 0, 0⟩, k, 1, 0x1000⟩ } })
    State.reset))
  { s with trio := f s.trio }

theorem witness_FencesAndGiveUps :
    (let s := trioRuns fun t => { t with soloStart := some 0, t := 9 }
     let f := trioFrame 6 7 0 0 (.bytes [])
     s.trio.gaveUp = false ∧ inTrio s = true ∧ s.trio.fenced = false ∧
     (trioFrameOk s .a f = true ∧ f.type = 6 ∧ f.payload = .bytes [] ∧ f.target.toNat = (me s).val ∧
       f.t.toNat ≤ s.trio.t.toNat + 2 ∧ s.trio.t.toNat ≤ f.t.toNat + 2) ∧
     (pgRefuses coreReq .trio s = false ∧ votes s = true ∧ s.trio.state ≠ .solo) ∧ s.trio.soloStart.isSome = true) ∧
    pgRefuses coreReq .trio State.reset = false ∧ inTrio State.reset = false := by decide +kernel

/-- A TX_SCHED buffer that is pending as a fence acts is cancelled and counted. -/
theorem test_a_stop_cancels_scheduled_frames :
    let x : Can := { mode := .normal, pend := 3, kinds := (Vector.replicate 64 BufKind.txFw).set 1 .txSched }
    let t := after (exec .fenceIn { trioRuns id with cans := Vector.replicate 16 x })
    (Vec.at t.cans 2).pend = 1 ∧ (Vec.at t.cans 2).cancelled = 2 ∧ (Vec.at t.cans 2).late = 1 := by decide +kernel

theorem witness_TrioFramesPortsAndDiagnosis :
    let s := trioRuns id
    let whole (k : Nat) (s : State) : Bool := (exchangesOf s k).any fun e => exchangeHere s .a k e.len.toNat
    (trioPortAt State.reset .a).en = false ∧ (trioPortAt s .a).en = true ∧
    trioFrameOk s .a { trioFrame 2 1 0 1 (.bytes []) with macsecOk := false } = false ∧
    trioFrameOk s .a { trioFrame 2 1 0 1 (.bytes []) with pn := 0 } = false ∧
    (let g := trioFrame 5 0 0 1 (.status (status 1 .standby) [])
     trioFrameOk s .a g = true ∧ g.type = 5 ∧ g.payload = .status (status 1 .standby) [] ∧ s.sched.running = true ∧ g.t = s.trio.t ∧
     64 * (g.offset.toNat + g.len.toNat) ≤ kindSize 4 ∧ whole 4 s = false ∧ whole 4 (withFlits s .a 4 g) = true) ∧
    (let a : AlignData := ⟨true, 0, 0, 7, 0⟩
     let g := trioFrame 1 0 0 1 (.align a)
     trioFrameOk s .a g = true ∧ g.type = 1 ∧ g.payload = .align a ∧ g.t = s.trio.t ∧ votes s = true ∧
     whole 3 s = false ∧ whole 3 (withFlits s .a 3 g) = true ∧ whole 3 (withFlits s .a 3 { g with offset := 1 }) = false ∧ a.ref = true ∧
     isReference { s with trio := { s.trio with roster := ⟨7, 1, 5⟩ } } = false) ∧
    memWf s.trio.rxA = true ∧ inTrio s = true ∧ (partnerAt s (portPartner s .b)).missingKinds.getLsbD 4 = false ∧
    (let d : Disagree := ⟨3, [(0, 0)]⟩
     (trioRuns fun t => { t with disagree := some d }).trio.disagree = some d ∧ d.members.getLsbD (me s).val = true ∧ votes s = true) ∧
    s.trio.upA = false ∧ ({ s.trio with upA := true } : Trio).upA = true := by decide +kernel

/-- The last flit of each kind, a TIME frame, copied data from the donor and from another, and exchanges that are here and are not. -/
theorem witness_TrioFramesPortsAndDiagnosis_kinds :
    (∀ k : Fin 3,
      let f := trioFrame (BitVec.ofNat 8 (k.val + 2)) 1 ([0x1FFF, 0x1FFF, 0x3BFF].getD k.val 0) 1 (.bytes (List.replicate 64 3))
      trioFrameOk (trioRuns id) .a f = true ∧ f.type.toNat = k.val + 2 ∧
      64 * (f.offset.toNat + f.len.toNat) = kindSize k.val) ∧
    (∀ ty ∈ [8, 9, 10], trioFrameOk (trioRuns id) .a (trioFrame ty 7 0 1 (.bytes [0, 0x10, 0, 0, 7])) = true) ∧
    isPool (wordOf [0, 0x10, 0, 0, 7]) = true ∧ memWf (trioRuns id).pool = true ∧
    (let s := trioRuns fun t => { t with phase := 3, donor := 1 }
     s.trio.phase = 3 ∧ memberBits (portPartner s .a) = s.trio.donor ∧ memberBits (portPartner s .b) ≠ s.trio.donor) ∧
    (let s := trioRuns fun t => { t with phase := 4, donor := 1 }
     s.trio.phase = 4 ∧ (trioFrame 9 7 0 1 (.bytes [0, 0x10, 0, 0, 7])).t ≠ s.trio.t) ∧
    (let s := trioWith inBin 5 5 5 7
     ((exchangesOf s 1).any fun e => exchangeHere s .a 1 e.len.toNat) = true ∧ ((exchangesOf s 2).any fun e => exchangeHere s .a 2 e.len.toNat) = false ∧
     (partnerAt s (portPartner s .a)).align = none ∧ (partnerAt s (portPartner s .a)).missingKinds = 0) := by decide +kernel

/-- A stopped device in a trio, both partners voting, in phase `ph`. -/
def stoppedTrio (ph : BitVec 3) (test : Bool) (p : Partner) : State :=
  let s := inTrio0 (running 0 id State.reset)
  { s with run := { s.run with state := .stopped }, trio := { s.trio with phase := ph, rejoinTest := test, partners := Vector.replicate 3 p } }

theorem witness_FormingAndRejoining :
    (let s := inTrio0 State.reset
     let s := { s with trio := { s.trio with forming := true } }
     s.trio.forming = true ∧ inTrio s = true ∧ startersHeard s = []) ∧
    (let s := { inTrio0 (running 0 id State.reset) with
       trio := { (inTrio0 (running 0 id State.reset)).trio with forming := true, partners := Vector.replicate 3 { status := some (status 1 .observer) } } }
     startersHeard s = [1, 2]) ∧
    pgRefuses coreReq .trio (stoppedTrio 0 false {}) = false ∧ State.reset.run.state = .starting ∧
    (stoppedTrio 0 false {}).run.state = .stopped ∧ (partnersOf (stoppedTrio 0 false {})).filter (partnerVotes (stoppedTrio 0 false {})) = [] ∧
    (let s := stoppedTrio 0 false { last := some (status 1 .standby) }
     (partnersOf s).filter (partnerVotes s) = [1, 2] ∧ inTrio s = true ∧ s.trio.phase = 0 ∧ s.trio.rejoinTest = false ∧
     (safetyCfg s).isSome = false ∧ compatible s (status 1 .standby) = true) ∧
    (let s := { stoppedTrio 0 false {} with run := { (stoppedTrio 0 false {}).run with active := some { app0 with safety := some saf0 } } }
     (safetyCfg s).isSome = true ∧ s.safety.accepted = false) ∧
    ({ (inTrio0 State.reset).trio with forming := true, gaveUp := true } : Trio).gaveUp = true ∧
    (let s := stoppedTrio 1 false { last := some { status 1 .standby with schedId := 0 } }
     s.trio.phase ≠ 0 ∧ compatible s { status 1 .standby with schedId := 0 } = false) ∧
    (stoppedTrio 0 true {}).trio.rejoinTest = true ∧ (stoppedTrio 3 false {}).trio.phase = 3 := by decide

/-! ### Witnesses: safety and Keaco stations -/

/-- A running device with safety configuration `c`, the safety unit changed by `f`. -/
def safe (c : SafetyCfg) (f : Safety → Safety) : State :=
  let s := running 0 id State.reset
  { s with run := { s.run with active := some { app0 with safety := some c } }, safety := f s.safety }

/-- A function of either class without inputs or a reset point; its cause is one whose task is abandoned. -/
def fn (trip : Bool) (outs : List (BitVec 16)) : FuncCfg := ⟨3, 0, 0, trip, outs, [], 10, some ⟨0x1000, some 0, 0, 0⟩, none, 500⟩

/-- The state of function 3. -/
def fnState (trip : Bool) (r : FuncRt) (abandoned : Bool) : State :=
  let s := safe { saf0 with functions := [fn trip [1]] } fun x => { x with funcs := x.funcs.set 3 r }
  { s with run := { s.run with
      active := s.run.active.map fun a => { a with outPoints := [{ point 1 true with func := some 3 }], tasks := [⟨0, 0, 0, 0, 0, 0, 0, 0, 0, 0, 0, 0⟩] }
      tasks := [{ tenant := 0, task := 0, abandoned := abandoned }] }
           pool := memWrite [] 0x1000 [1] }

theorem witness_SealSafeHoldAndSafetyFunctions :
    (State.reset.sched.running = false ∧ State.reset.part.hasField = true) ∧ (running 0 id State.reset).sched.running = true ∧
    (let s := safe { saf0 with functions := [fn true []] } fun x => { x with safeHold := true, sealOkSince := some 0 }
     let s := { s with tb := { s.tb with tick := 1000000000 } }
     s.safety.safeHold = true ∧ s.safety.sealOkSince = some 0 ∧ 0 + 1000000000 ≤ s.tb.tick ∧ funcCfgs s = [fn true []]) ∧
    computes State.reset = false ∧
    (computes (fnState true {} true) = true ∧ funcCfgs (fnState true {} true) = [fn true [1]] ∧ (fn true [1]).resetPoint = none ∧
      (causeOf (fnState true {} true) (fn true [1])).isSome = true ∧ causeOf (fnState true {} false) (fn true [1]) = none ∧
      (causeOf (fnState false {} true) (fn false [1])).isSome = true) ∧
    ((Vec.at (fnState false { state := .hold, clear := 2 } false).safety.funcs 3).state = .hold ∧
      resumeOf (fnState false { state := .hold, clear := 2 } false) (fn false [1]) = true ∧
      causeOf (fnState false { state := .hold, clear := 2 } false) (fn false [1]) = none) ∧
    (Vec.at (fnState false { state := .safe } false).safety.funcs 3).state = .safe ∧
    (Vec.at (fnState true { state := .lockout } false).safety.funcs 3).state = .lockout := by decide

/-- No force stands in these states. -/
theorem witness_SealSafeHoldAndSafetyFunctions_forces : ∀ i, Vec.at (fnState true {} true).run.forces i = none := by decide

/-- A locked-out function with the reset point 1, which is sampled in the round with the voted value `v`, its press `q` and its last value `l`. -/
def resetState (v : Bool) (status : Byte) (q : List Press) (l : List (BitVec 16 × Bool)) (sampled : Bool) : State :=
  let p : InPoint := { number := 1, key := 0, tenant := 0, group := (0, 0), rule := .bin, duo := .low, raw := ⟨0x1000, some 0, 0x1004, 1⟩
                       voted := ⟨0x1100, some 3, 0x1104, 2⟩, discAddr := 0x1108, discBit := 0, safeState := false, deviation := 0, subst := .hold, trip := false }
  let s := safe { saf0 with functions := [{ fn true [] with resetPoint := some 1 }] } fun x =>
    { x with funcs := x.funcs.set 3 { state := .lockout }, presses := q, lastReset := l }
  let g : IoGroup := ⟨⟨0, 0, 0⟩, 0, 0, 0, false, true, false⟩
  { s with
    run := { s.run with active := s.run.active.map fun a => { a with inPoints := [p] } }
    pool := memWrite [] 0x1100 [if v then 8 else 0, 0, 0, 0, status]
    sched := { s.sched with active := some { im0 with ioGroups := if sampled then [g] else [] } } }

/-- A press begins, goes on and ends; its point failed; and its group was not sampled. -/
theorem witness_SealSafeHoldAndSafetyFunctions_reset :
    (let s := resetState true 0 [] [(1, false)] true
     computes s = true ∧ pointSampled s 1 = true ∧ resetReading s 1 = some (true, false) ∧ pressAt s 1 = none ∧
     s.safety.lastReset.find? (fun x => x.1 == 1) = some (1, false) ∧ resetPoints s = [1] ∧ (funcCfgs s).length = 1) ∧
    (let s := resetState true 2 [⟨1, 0, false⟩] [(1, true)] true
     resetReading s 1 = some (true, true) ∧ pressAt s 1 = some ⟨1, 0, false⟩) ∧
    (let s := resetState false 0 [⟨1, 0, false⟩] [(1, true)] true
     resetReading s 1 = some (false, false) ∧ pressAt s 1 = some ⟨1, 0, false⟩ ∧ (Vec.at s.safety.funcs 3).state = .lockout) ∧
    (let s := resetState false 0 [] [(1, true)] false
     pointSampled s 1 = false ∧ funcState s { fn true [] with resetPoint := some 1 } = .lockout) := by decide +kernel

/-- No word of these states holds an error, and no force stands. -/
theorem witness_SealSafeHoldAndSafetyFunctions_reset_quiet :
    noUpset (resetState true 0 [] [(1, false)] true) ∧ ∀ i, Vec.at (resetState true 0 [] [(1, false)] true).run.forces i = none := by
  refine ⟨?_, ?_⟩ <;> (try unfold noUpset) <;> decide +kernel

/-- A press of 2 s of a function with no cause ends its LOCKOUT; one of 0.4 s, of 31 s, and of a point that failed do not. -/
theorem test_reset_rows :
    let s := resetState false 0 [] [] true
    let c := { fn true [] with resetPoint := some 1 }
    resetRow s c 2000000000 false 0 ∧ resetRow s c 400000000 false 0x61 ∧ resetRow s c 31000000000 false 0x62 ∧
    resetRow s c 2000000000 true 0x63 := by
  intro s c
  have h : causeOf s c = none := by decide +kernel
  have p : c.pressMs = 500 := rfl
  simp [resetRow, h, p]

/-- A received frame of `etherType` with payload `d`, tagged with VLAN 1 and priority `pr`. -/
def tagFrame (pr : BitVec 3) (etherType : BitVec 16) (d : List Byte) : EthFrame :=
  ⟨0, 0, some (pr ++ (1 : BitVec 13)), etherType, d, 22 + d.length, true, none⟩

/-- The same without a tag. -/
def ethFrame (etherType : BitVec 16) (d : List Byte) : EthFrame := { tagFrame 0 etherType d with tag := none, len := 18 + d.length }

/-- A receive connection from 1 to 2 of 4 bytes, pairs within 500 us, age limit 100 ms. -/
def conn0 (send : Bool) : ConnCfg := ⟨9, send, 1, 2, 4, 500, 100, 100, 3, 0, 0, 4, 0, 1, (0, 0), 0, []⟩

/-- A safety frame of SEQ 5 at native time 0 with the check value that fits, and payload byte `v`. -/
def safFrame (v : Byte) : List Byte :=
  let d : List Byte := [1, 4, 1, 0, 2, 0, 0, 0, 5, 0, 0, 0] ++ List.replicate 8 0 ++ [v] ++ List.replicate 63 0
  d ++ bytesOf 4 (crc32c d).toNat

/-- Connection 9 with what is kept of it, on ports that are up. -/
def connState (send : Bool) (r : ConnRt) : State :=
  let s := safe { saf0 with connections := [conn0 send] } fun x => { x with conns := x.conns.set 9 r }
  { s with ports := Vector.replicate 10 { en := true, up := true } }

theorem witness_SafetyConnectionsAndStations :
    (let s := connState false {}
     let f := tagFrame 7 0x88B6 (safFrame 7)
     (portAt s 0).en = true ∧ (portAt s 0).up = true ∧ f.etherType = 0x88B6 ∧ f.fcsOk = true ∧ vlanOk s 0 f = true ∧ priorityIs f 7 = true ∧
     ((connsOf s false).find? fun c => c.src.toNat == leAt f.data 2 2 && c.dst.toNat == leAt f.data 4 2) = some (conn0 false) ∧
     copySound s (conn0 false) f.data = true ∧ copySound s (conn0 false) [] = false ∧
     (connRt s 9).state = .closed ∧ (connRt s 9).pairs = []) ∧
    (let s := connState false { state := .ok, lastSeq := some 4, pairs := [(true, 5, safFrame 7)] }
     (connRt s 9).state = .ok ∧ seqAfter 4 (BitVec.ofNat 32 (leAt (safFrame 7) 8 4)) = true ∧
     (connRt s 9).pairs.find? (fun x => x.2.1 == 5) = some (true, 5, safFrame 7) ∧ (portLan s 0 == 2) = false ∧
     safFrame 7 ≠ safFrame 8 ∧ copySound s (conn0 false) (safFrame 8) = true ∧
     connCfg s false 9 = some (conn0 false) ∧ (connRt s 9).pairs = [(true, 5, safFrame 7)]) ∧
    (let s := connState false { state := .ok, lastSeq := some 6, decided := [5, 6] }
     (connRt s 9).lastSeq = some 6 ∧ seqAfter 6 5 = false ∧ (connRt s 9).decided.contains 5 = true ∧ copySound s (conn0 false) (safFrame 7) = true) ∧
    (connCfg (connState true {}) true 9 = some (conn0 true) ∧ sendsSafety (connState true {}) = true ∧
      badIn (connState true {}) (conn0 true).payload (conn0 true).len = [] ∧
      badIn (updCrest 0 (fun t => { t with badWords := [0] }) (connState true {})) (conn0 true).payload (conn0 true).len ≠ []) := by decide +kernel

/-- A second copy from the same port, a late copy that was not decided, and no pair waiting. -/
theorem witness_SafetyConnectionsAndStations_copies :
    (let s := connState false { state := .ok, lastSeq := some 4, pairs := [(false, 5, safFrame 7)] }
     (connRt s 9).pairs.find? (fun x => x.2.1 == BitVec.ofNat 32 (leAt (safFrame 8) 8 4)) = some (portLan s 0 == 2, 5, safFrame 7) ∧
     (connRt s 9).lastSeq = some 4 ∧ seqAfter 4 5 = true ∧ copySound s (conn0 false) (safFrame 8) = true) ∧
    (let s := connState false { state := .ok, lastSeq := some 6 }
     (connRt s 9).lastSeq = some 6 ∧ seqAfter 6 5 = false ∧ (connRt s 9).decided.contains 5 = false ∧ copySound s (conn0 false) (safFrame 7) = true) ∧
    (connRt (connState false {}) 9).pairs = [] ∧ connCfg (connState true {}) false 9 = none := by decide +kernel

/-- Station 6 with 4 bytes of inputs, dropped after 2 missing frames, back after 2 good ones. -/
def station6 : StationCfg := ⟨6, 0, 2, 2, 0, 1, 4, 0, 4, [], []⟩

/-- An input frame of SEQ 5 of station 6, with the check value that fits. -/
def keaFrame : List Byte :=
  let d : List Byte := [1, 1, 6, 0, 5, 0, 0, 0] ++ List.replicate 12 0 ++ [4, 0, 0, 0] ++ [1, 2, 3, 4]
  d ++ bytesOf 4 (crc32c d).toNat

/-- Station 6 with what is kept of it. -/
def stationState (r : StationRt) : State :=
  let s := running 0 id State.reset
  { s with
    run := { s.run with active := some { app0 with stations := [station6] }, stations := s.run.stations.set 6 r }
    ports := Vector.replicate 10 { en := true, up := true } }

theorem witness_SafetyConnectionsAndStations_stations :
    (let s := stationState {}
     let f := tagFrame 6 0x88B5 keaFrame
     (portAt s 0).en = true ∧ (portAt s 0).up = true ∧ vlanOk s 0 f = true ∧ stationOf (leAt f.data 2 1) = 6 ∧ stationCfg s 6 = some station6 ∧
     keacoSound s 0 f station6 = true ∧ keacoSound s 0 (ethFrame 0x88B5 [1]) station6 = false ∧
     (stationRt s 6).lastSeq = none ∧ (stationRt s 6).arrived = none ∧ station6.number = 6) ∧
    (station6.drop.toNat ≤ (satInc (stationRt (stationState { miss := 1 }) 6).miss).toNat) ∧
    ¬ (station6.drop.toNat ≤ (satInc (stationRt (stationState {}) 6).miss).toNat) ∧
    (stationRt (stationState { arrived := some (5, []), dropped := true, good := 1 }) 6).arrived.isSome = true := by decide +kernel

/-- A frame that is not fresh, one from a dropped station, and one beside a later frame that waits. -/
theorem witness_SafetyConnectionsAndStations_fresh :
    BitVec.ofNat 32 (leAt keaFrame 4 4) = (5 : Word) ∧ seqAfter 5 5 = false ∧ seqAfter 4 5 = true ∧
    (stationRt (stationState { lastSeq := some 5 }) 6).lastSeq = some 5 ∧ (stationRt (stationState { lastSeq := some 4 }) 6).dropped = false ∧
    (let r := stationRt (stationState { lastSeq := some 9, dropped := true, arrived := some (9, []) }) 6
     r.dropped = true ∧ r.lastSeq = some 9 ∧ r.arrived = some (9, [])) ∧ seqAfter 9 5 = false ∧
    keacoSound (stationState { lastSeq := some 9, dropped := true, arrived := some (9, []) }) 0 (tagFrame 6 0x88B5 keaFrame) station6 = true := by
  decide +kernel

/-- A safety frame that waits and one that stands first in an idle port's queue: 84 bytes without STAMP and check value. -/
theorem witness_SafetyConnectionsAndStations_sent :
    (let s := connState true { sendSeq := 7 }
     connCfg s true 9 = some (conn0 true) ∧ sendsSafety s = true ∧ badIn s (conn0 true).payload (conn0 true).len = [] ∧
     (conn0 true).portA ≠ (conn0 true).portB) ∧
    (let s := connState true {}
     let f : QFrame := ⟨7, 0x88B6, none, some 9, none, 0, 1, 0, false, false, 0, false, false, 0, 110, List.replicate 84 5⟩
     let s := updEth 0 (fun x => { x with queue := [f] }) s
     (portAt s 0).en = true ∧ (portAt s 0).up = true ∧ (portAt s 0).line = none ∧ nextFrame s 0 = some f ∧ f.conn = some 9 ∧
     f.data.length = 84) := by decide +kernel

/-- While a station is dropped, a second copy of an accepted frame, in this round or the one before, is no new frame. -/
theorem witness_SafetyConnectionsAndStations_dropped :
    let r : StationRt := { dropped := true, lastSeq := some 9, copies := [9, 5], copiesPrev := [4] }
    (stationRt (stationState r) 6).dropped = true ∧ (5 : Word) ∈ r.copies ∧ (4 : Word) ∈ r.copiesPrev ∧ (6 : Word) ∉ r.copies ∧ (6 : Word) ∉ r.copiesPrev := by
  decide +kernel

/-! ### Register accesses, and witnesses for the register pages, the host link and the loop array -/

/-- A read of BLK_ID of the schedule page, and an access to no page. -/
theorem test_reads : (after (exec (.reg64LowRead coreReq .control .w32 0x10000) State.reset)).resp = .value ((blkId .schedule).setWidth 64) ∧
    (after (exec (.reg64LowRead coreReq .control .w32 0x50000) State.reset)).resp = .error := by decide

/-- Supervisor SRAM: a core's 16-bit write is read back with its neighbour; the host meets an error (Table 13.1). -/
theorem test_sram_is_the_cores :
    let s := after (exec (.registerWrite coreReq .sram .w16 6 0xAB12) State.reset)
    (after (exec (.reg64LowRead coreReq .sram .w32 4) s)).resp = .value 0xAB120000 ∧
    (after (exec (.reg64LowRead hostReq .sram .w32 4) s)).resp = .error ∧ s.sram = [(6, 0x12), (7, 0xAB)] := by decide

/-- A 64-bit read of a supervisor core answers both words, and one of the host an error (R424). -/
theorem test_wide_reads : (after (exec (.reg64LowRead coreReq .control .w64 0x14150) (updTb (fun b => { b with gulny := 0x123456789A }) State.reset))).resp =
      .value 0x123456789A ∧
    (after (exec (.reg64LowRead hostReq .control .w64 0x14150) State.reset)).resp = .error := by decide

theorem witness_RefusedAccessesHaveNoEffect :
    pageAt .control 0x10002 = some .schedule ∧ (doorbellAt .schedule 2).isNone = true ∧ (messageAt .schedule 2).isNone = true ∧
    secureOnly .schedule 2 = false ∧ (0x10002 : BitVec 28).toNat % 4 ≠ 0 ∧
    pageAt .control 0x1000000 = some (.engine 0) ∧ pgRefuses coreReq (.engine 0) State.reset = true ∧
    pageAt .secure 0x1000 = some .security ∧ pgRefuses hostReq .security State.reset = true ∧
    coreOf Requester.host = none ∧ (0x10004 : BitVec 28).toNat % 8 ≠ 0 ∧
    pageAt .control 0x8000 = none ∧ traceAt .control 0x8000 = none ∧
    pageAt .control 0x100FC = some .schedule ∧ (0x100FC : BitVec 28).toNat % 4096 = 0xFC ∧ pgRefuses hostReq .schedule State.reset = false := by
  decide

/-- The SRAM at its last word, past its end, misaligned, and for a requester that is no core. -/
theorem witness_RefusedAccessesHaveNoEffect_sram :
    ((coreOf coreReq.who).isSome = true ∧ (sramSize - 4) % widthBytes .w32 = 0 ∧ sramSize - 4 + widthBytes .w32 ≤ sramSize ∧ memWf State.reset.sram = true) ∧
    ¬ (sramSize - 4 + widthBytes .w64 ≤ sramSize) ∧ (2 : Nat) % widthBytes .w32 ≠ 0 ∧ coreOf hostReq.who = none := by decide +kernel

theorem witness_SixtyFourBitRegistersLatchAndCommit :
    pageAt .control 0x10118 = some .schedule ∧ pgRefuses coreReq .schedule State.reset = false ∧ rw64 .schedule 0x118 = true ∧
    pageAt .control 0x1011C = some .schedule ∧ 4 ≤ 0x11C ∧ pageReg64 State.reset .schedule 0x118 = some 0 ∧
    (0x10118 : BitVec 28).toNat % 8 = 0 ∧ (coreOf coreReq.who).isSome = true ∧
    readSpecial .s0 .schedule 0x118 = none ∧ latchedWord .schedule 0x118 = false ∧ latchedWord .schedule 0x11C = false ∧
    readSpecial .s0 .schedule 0x11C = none := by decide

/-- A 64-bit read of a core of SCH_TARGET; a commit by a high word with a held low word. -/
theorem witness_SixtyFourBitRegistersLatchAndCommit_wide :
    (0x10118 : BitVec 28).toNat % 8 = 0 ∧ 0x100 ≤ (0x10118 : BitVec 28).toNat % 4096 ∧ latchedWord .schedule (0x118 + 4) = false ∧
    (let s := after (exec (.reg64LowWrite coreReq .control 0x10118 7) State.reset)
     heldGet s coreReq.who .schedule 0x118 = some 7 ∧
     pageReg64 (after (exec (.reg64HighWrite coreReq .control 0x1011C 1) s)) .schedule 0x118 = some 0x100000007) := by decide +kernel

theorem witness_HeaderCommandsAndLocks :
    pgRefuses coreReq .timebase State.reset = false ∧ pageAt .control 0x14014 = some .timebase ∧ (0x14014 : BitVec 28).toNat % 4096 = 0x14 ∧
    pageAt .control 0x14020 = some .timebase ∧ pageAt .control 0x1400C = some .timebase ∧
    (hdrAt State.reset .timebase).lock = false ∧ (hdrAt (after (exec (.blkLock coreReq .timebase) State.reset)) .timebase).lock = true ∧
    (condWord (inTrio0 State.reset) .timebase).getLsbD 2 = true ∧ isSecure hostReq = false := by decide

/-- An event of this tick, and of an earlier tick; counters cleared in this tick. -/
theorem witness_HeaderCommandsAndLocks_tick :
    let s := raise .timebase 4 none (.given 0 0 0) State.reset
    let later := { s with tb := { s.tb with tick := 1 } }
    ((hdrAt s .timebase).freshAt s.tb.tick).getLsbD 4 = true ∧ (rawWord s .timebase).getLsbD 4 = true ∧
    ((hdrAt later .timebase).freshAt later.tb.tick).getLsbD 4 = false ∧ (condWord later .timebase).getLsbD 4 = false ∧
    (hdrAt (after (exec (.blkCntClear coreReq .timebase) State.reset)) .timebase).clearTick =
      some (after (exec (.blkCntClear coreReq .timebase) State.reset)).tb.tick := by decide +kernel

/-- The link in L0 with `n` reads in the queue of tenant window 2. -/
def hostState (n : Nat) (op : HostOp) : State :=
  { State.reset with host := { State.reset.host with link := .l0, queues := (Vector.replicate 9 []).set 3 (List.replicate n (.window 2 0, op)) } }

theorem witness_HostRequestsAreQueuedAndServed :
    State.reset.host.link ≠ .l0 ∧ State.reset.host.link ≠ .l1 ∧ (hostState 16 (.read 4 true)).host.link = .l0 ∧
    16 ≤ queued (hostState 16 (.read 4 true)) 3 true ∧
    queued (hostState 15 (.read 4 true)) 3 true < 16 ∧ 64 ≤ queued (hostState 64 (.write [1] true)) 3 false ∧
    queued (hostState 63 (.write [1] true)) 3 false < 64 ∧ Vec.at (hostState 0 (.read 4 true)).host.queues 3 = [] ∧
    Vec.at (hostState 1 (.read 512 true)).host.queues 3 = [(.window 2 0, .read 512 true)] ∧
    dueQueue (hostState 1 (.read 512 true)) = some (3, false) ∧ dueQueue (hostState 0 (.read 512 true)) = none ∧
    (let s := hostState 1 (.read 512 true)
     dueQueue { s with host := { s.host with turns := Vector.replicate 9 100 } } = some (3, true)) ∧ 0 + 512 ≤ poolSize State.reset.part ∧
    badIn State.reset 0 512 = [] ∧ poolSize .acr9602 < (0x3FFFFFF : BitVec 26).toNat + 1 ∧ State.reset.upd.recovery = false := by decide

/-- A request that finds its queue of sixteen reads full completes with Completer Abort (R346). -/
theorem test_a_full_queue_aborts : (after (exec (.hostRequest (.submit (.window 2 0) (.read 4 true))) (hostState 16 (.read 4 true)))).out =
    [.completion 3 .abort] := by decide

/-- The one piece of a window request, arrived at Crest C0, with its request in service. -/
theorem witness_HostRequestsAreQueuedAndServed_piece :
    let p := { packet 0 none (.read 4) with request := some 7 }
    let x : HostRun := ⟨7, 3, true, [(p.id, none)]⟩
    let s := allOn { State.reset with packets := [p], host := { State.reset.host with runs := [x] } }
    (∀ y ∈ s.packets, y.id = p.id → y = p) ∧ p ∈ s.packets ∧ p.waiting = 0 ∧ p.hop < routeCodes p.route ∧ s.part.hasTile p.tile.val = true ∧
    routePort p.route p.hop = 8 ∧ ownsAddress s p = true ∧ p.kind = .read 4 ∧ badIn s p.addr.toNat 4 = [] ∧ p.request = some x.id ∧
    s.host.runs.find? (fun y => y.id == x.id) = some x := by decide

/-- Crest 0 on with its loop array changed, loop slots 5 and 6 of tenant 1 in the images. -/
def loopState (f : LoopArray → LoopArray) : State :=
  updLoop 0 f (running 0 (fun x => { x with active := some { im0 with loopSteps := [⟨⟨1, 0, 0⟩, 5, 0, 1⟩] } }) State.reset)

/-- The same with supervisor core S0 in a window of tenant 2. -/
def foreignLoop : State :=
  { loopState fun a => { a with sel := 5 } with super := { (loopState id).super with tags := Vector.replicate 4 ⟨2, false, 0⟩ } }

theorem witness_LoopParametersAndTrace :
    pgRefuses coreReq (.loopArray 0) (loopState id) = false ∧
    (loopOf (loopState fun a => { a with pending := some (5, Vector.replicate 16 0) }) 0).pending = some (5, Vector.replicate 16 0) ∧
    (loopOf (loopState id) 0).pending = none ∧ reqTenant coreReq foreignLoop = some 2 ∧ loopOwner foreignLoop 0 5 = some 1 ∧
    reqTenant hostReq (loopState id) = none ∧
    blockValid (loopOf (loopState fun a => { a with params := Vector.replicate 16 1 }) 0).params.toList = false ∧
    blockValid (loopOf (loopState id) 0).params.toList = true ∧
    (Vec.at (loopOf (loopState id) 0).params 13 ^^^ cfgOf (loopOf (loopState id) 0) 5) &&& cfgFixed = 0 ∧
    memWf (loopOf (loopState id) 0).mem = true ∧ loopAtRest (loopState id) 0 5 = true ∧
    (loopOf (loopState fun a => { a with trcEnable := true }) 0).trcEnable = true ∧
    (loopOf (loopState fun a => { a with trcState := .recording }) 0).trcState = .recording ∧
    (0x1000000 * ((0 : Fin 6).val + 1) + 0x400000 ≤ (0x1400000 : BitVec 28).toNat ∧ (0x143FFFC : BitVec 28).toNat < 0x1440000) := by decide

/-- A loop that stepped in AUTO is closed. -/
theorem witness_LoopParametersAndTrace_closed :
    let s := loopState fun a => { a with mem := memWrite [] (5 * 256 + 0x94) [0x90], pending := some (5, Vector.replicate 16 0) }
    loopAtRest s 0 5 = false ∧ openToWrite s 0 5 = false ∧ (loopOf s 0).pending = some (5, Vector.replicate 16 0) ∧ memWf (loopOf s 0).mem = true := by
  decide

/-- Loop slot 5 asked for MAN, asked for AUTO, with an infinite PV, and of an override group whose head is slot 5. -/
theorem witness_LoopParametersAndTrace_law :
    let a (off : Nat) (d : List Byte) : LoopArray := { mem := memWrite [] (5 * 256 + off) d }
    let ones : LoopArray := { mem := memWrite [] (5 * 256 + 0xC0) ((List.range 13).flatMap fun k => if k = 9 then [0, 0, 0x80, 0xBF] else [0, 0, 0x80, 0x3F]) }
    memWf (a 0x14 [2]).mem = true ∧ (effMode (a 0x14 [2]) [5] 5).bad = false ∧ closedMode (effMode (a 0x14 [2]) [5] 5).mode = true ∧
    (effMode ({} : LoopArray) [5] 5).bad = false ∧ closedMode (effMode ({} : LoopArray) [5] 5).mode = false ∧
    (effMode (a 0 [0, 0, 0x80, 0x7F]) [5] 5).bad = true ∧ wasClosed (a 0x94 [0x90]) 5 = true ∧ wasClosed ({} : LoopArray) 5 = false ∧
    ([5, 6] : List (BitVec 10)).Nodup ∧ (5 : BitVec 10) ∈ ([5, 6] : List (BitVec 10)) ∧
    blockValid (paramsOf ({} : LoopArray) 5) = true ∧ blockValid (paramsOf ones 5) = true ∧
    (groupMode ({} : LoopArray) [5, 6] [5, 6] 5).bad = false ∧ (groupMode (a 0x14 [2]) [5, 6] [5, 6] 5).mode = 1 := by decide +kernel

/-- An entry of a slot that is its own head, alone and in a group, one of a member, and one that meets an uncorrectable word; the entries of a
slot lie in the round. -/
theorem witness_LoopParametersAndTrace_entry :
    (let s := loopState id
     s.sched.active.isSome = true ∧ (groupOf (loopOf s 0) (loopSlots s 0) 5).headD 5 = 5 ∧
     badRecords 0 (recordsRead (loopOf s 0) (loopSlots s 0) (groupOf (loopOf s 0) (loopSlots s 0) 5) 5) s = [] ∧
     (loopOf s 0).pending = none ∧ (loopOf s 0).held = [] ∧ cfgGroupEn (cfgOf (loopOf s 0) 5) = false ∧
     (let u := updCrest 0 (fun t => { t with badLoopWords := [5 * 256] }) s
      badRecords 0 (recordsRead (loopOf u 0) (loopSlots u 0) (groupOf (loopOf u 0) (loopSlots u 0) 5) 5) u ≠ [])) ∧
    ((1 : BitVec 20).toNat < im0.roundSlots.toNat ∧ 0 < 1 ∧ (0 * 4 + 1 + 1) % (4 * 2 ^ 0) = (0 * 4 + 2) % (4 * 2 ^ 0)) := by decide +kernel

/-! ### Witnesses: the field tile -/

/-- An I/O map: DI 0 under test-pulse supply 1 with a wire-break check, DO 0 single-drive and DO 1 not, a two-leg channel, AO 0 and AI 0. -/
def map0 : IoMap :=
  { di := [(0, ⟨1000, 1, true, true⟩)], tps := [(1, ⟨500, 10⟩)], dout := [(0, ⟨0, true, false⟩), (1, ⟨0, false, true⟩)], tlo := [(0, ⟨0, false, false⟩)]
    ai := [(0, ⟨1, true⟩)], ao := [(0, ⟨false, 0, 0⟩), (2, ⟨true, 0, 0⟩)], panel := some ⟨1, true, 0, 120, 50⟩ }

/-- A running device with `map0`, the field link up and the drive enables on, Foothill changed by `f`. -/
def fieldState (f : Field → Field) : State :=
  let s := running 0 id State.reset
  { s with
    run := { s.run with active := some { app0 with ioMap := map0 } }
    field := f { s.field with linkUp := true, enAll := true, enSingle := true, doWait := 0, tloWait := 0, aoWait := 0 } }

theorem witness_FieldLinkSupplyAndTemperature :
    (let s := fieldState fun f => { f with linkUp := false }
     s.part.hasField = true ∧ s.field.linkUp = false ∧ s.field.powered = true ∧ Vec.at s.super.pd 7 = .on) ∧
    (aoCfg (fieldState id) 2).map (fun c => c.single) = some true ∧ Part.acr9602.hasField = false ∧
    ((doCfg (fieldState id) 0).map (fun c => c.single) = some true ∧ (doCfg (fieldState id) 1).map (fun c => c.single) = some false ∧
      fieldDead (fieldState id) = false ∧ (fieldState id).field.doWait.getLsbD 1 = false ∧ (fieldState id).field.doTrip.getLsbD 1 = false ∧
      startingUp (fieldState id) = false ∧ (fieldState id).run.state = .running ∧ inTrio (fieldState id) = false) ∧
    (fieldState id).field.uvlo = false ∧ (fieldState fun f => { f with uvlo := true }).field.uvlo = true ∧
    (fieldState id).field.shutdown = false ∧ (fieldState fun f => { f with powered := false }).field.powered = false := by decide

theorem witness_DigitalInputsAndTestPulses :
    fieldLive (fieldState id) = true ∧ diBlanked (fieldState id) 0 = false ∧
    (let blanked := fieldState fun f => { f with tpsBlank := 2, tpsChans := Vector.replicate 8 1 }
     diBlanked blanked 0 = true ∧ fieldLive blanked = true ∧ blanked.field.tpsBlank.getLsbD 1 = true ∧
     (Vec.at blanked.field.tpsChans (1 : Fin 8)).getLsbD 0 = true ∧ (Vec.at blanked.field.tpsChans (1 : Fin 8)).getLsbD 1 = false ∧
     blanked.field.diBefore.getLsbD 0 = false) ∧
    (fieldState fun f => { f with diBefore := 1 }).field.diBefore.getLsbD 0 = true ∧
    (diCfg (fieldState id) 0).map (fun c => (c.wireBreak, c.testPulse, c.tps)) = some (true, true, 1) ∧
    (fieldState id).field.diWire.getLsbD 0 = false ∧ (diCfg (fieldState id) 1).elim false (fun c => c.wireBreak) = false ∧
    (tpsCfg (fieldState id) 1).isSome = true ∧ (fieldState id).field.tpsOff.getLsbD 1 = false ∧
    (pulseDue (fieldState id) 1).isSome = true ∧ pulseDue (fieldState id) 0 = none ∧
    (fieldState fun f => { f with diPassed := 1 }).field.diPassed.getLsbD 0 = true ∧
    (fieldState fun f => { f with diCross := 1 }).field.diCross.getLsbD 0 = true ∧ (tpsOn (fieldState id)).getLsbD 1 = true := by decide

/-- R226: supply 1 pulses at 1.25 ms of the frames whose number its period of 10 ms divides; the next frame start after 1.25 ms + 1 ns. -/
theorem test_nextPulse : nextPulse 1 10 0 0 = 1250000 ∧ nextPulse 1 10 1250001 0 = 11250000 := by decide

theorem witness_OutputsTripLockOutAndAreFenced :
    switchOn (fieldState id) (.dout 0) = false ∧ switchOn (fieldState fun f => { f with doSw := 1 }) (.dout 0) = true ∧
    inBlanking (fieldState id) (.dout 0) = false ∧ inBlanking (fieldState fun f => { f with doBlank := 1 }) (.dout 0) = true ∧
    switchOn (fieldState fun f => { f with tloSw := 1 }) (.tlo 0) = true ∧ (fieldState id).field.tloLock.getLsbD 0 = false ∧
    inBlanking (fieldState id) (.tlo 0) = false ∧ inBlanking (fieldState fun f => { f with tloBlank := 1 }) (.tlo 0) = true ∧
    (fieldState id).field.tloSw.getLsbD 0 = false ∧ pgRefuses coreReq .field (fieldState id) = false ∧ fieldLive (fieldState id) = true ∧
    (fieldState id).field.fenced = false ∧ (fieldState id).trio.gaveUp = false ∧
    0 + cleanTicks ≤ ({ (fieldState id).tb with tick := 5000000 } : Timebase).tick := by decide

/-- AO 0 driven at 12 mA, at its status limits of 0.2 mA and 0.5 mA. -/
theorem witness_AnalogueChannelsAndTrims :
    (aiCfg (fieldState id) 0).map (fun c => c.supply) = some true ∧ (aiCfg (fieldState id) 1).elim false (fun c => c.supply) = false ∧
    (fieldState fun f => { f with trim := 1 }).field.trim.getLsbD 0 = true ∧
    aoDrive (fieldState fun f => { f with aoCmd := Vector.replicate 16 12000 }) 0 = some 12000 ∧ aoDrive (fieldState id) 1 = none ∧
    fieldLive (fieldState id) = true ∧ aoCommanded (fieldState id) 1 = false ∧
    aoCommanded (fieldState fun f => { f with aoCmd := Vector.replicate 16 12000 }) 0 = true ∧
    (12000 * 1000 ≤ (11800000 : BitVec 25).toNat + 200000 ∧ (11800000 : BitVec 25).toNat ≤ 12000 * 1000 + 200000) ∧
    ¬ (12000 * 1000 ≤ (11799999 : BitVec 25).toNat + 200000) ∧ (499999 : BitVec 25).toNat < 500000 ∧ 3500 ≤ 12000 ∧
    (500000 ≤ (500000 : BitVec 25).toNat ∧ (500000 : BitVec 25).toNat + 200000 < 12000 * 1000) ∧
    pgRefuses coreReq .field (fieldState id) = false ∧
    (3900000 ≤ (fieldState id).field.trimM4.toNat ∧ (fieldState id).field.trimM4.toNat ≤ 4100000 ∧
      19900000 ≤ (fieldState id).field.trimM20.toNat ∧ (fieldState id).field.trimM20.toNat ≤ 20100000) ∧
    ¬ (3900000 ≤ (fieldState fun f => { f with trimM4 := 3899999 }).field.trimM4.toNat) := by decide

/-! ### Witnesses: panels, ports and keys -/

/-- `fieldState` with VPNL at `mv`, 25 degrees and the panel changed. -/
def panelState (mv : BitVec 16) (f : Panel → Panel) : State :=
  { fieldState id with panel := f { (fieldState id).panel with vpnl := mv, temp := 100 } }

/-- The panel configuration of `map0`: V_R 12.0 V, minimum 1 degree. -/
abbrev cfg0 : PanelCfg := ⟨1, true, 0, 120, 50⟩

/-- A write of common 2 with segment 0 ON in phase `n`, at V_R 12.0 V and 0.5 V for each of its segments. -/
def panelWrite (n : Nat) : PanelWrite := ⟨2, 1, n, 10, false, 120, 50, [5000, 5000], .short, 0⟩

theorem witness_PanelWritesAndMeasurements :
    panelCfg (panelState 13000 id) = some cfg0 ∧
    ((panelState 13000 id).panel.write = none ∧ (panelState 13000 id).field.warn = false ∧ panelCold (panelState 13000 id) = false ∧
      100 * cfg0.vr.toNat + 1000 ≤ (panelState 13000 id).panel.vpnl.toNat ∧ fieldLive (panelState 13000 id) = true ∧
      Vec.at (panelState 13000 id).super.pd 7 = .on ∧ (1 : Fin 8).val = ((panelState 13000 id).panel.last.val + 1 + 0) % 8 ∧
      panelChanged (panelState 13000 id) 1 = true) ∧
    ¬ (100 * cfg0.vr.toNat + 1000 ≤ (panelState 12999 id).panel.vpnl.toNat) ∧
    (panelState 13000 fun p => { p with write := some (panelWrite 2) }).panel.write = some (panelWrite 2) ∧ (panelWrite 2).phase < 4 ∧
    ((panelState 13000 fun p => { p with write := some (panelWrite 4) }).panel.write = some (panelWrite 4) ∧ 4 ≤ (panelWrite 4).phase ∧
      (panelState 13000 id).part.hasField = true) ∧
    ((12499 : BitVec 16).toNat < 100 * (panelWrite 2).vr.toNat + 500 ∧ 100 * (panelWrite 2).vr.toNat + 500 ≤ (12500 : BitVec 16).toNat) ∧
    panelCold (panelState 0 fun p => { p with cold := true, temp := 11 }) = true ∧
    (-40 * 4 ≤ (-160 : BitVec 11).toInt ∧ (400 : BitVec 11).toInt ≤ 100 * 4 ∧ (3 : BitVec 11).toInt < 4 * cfg0.minWrite.toInt ∧
      4 * (cfg0.minWrite.toInt + 2) ≤ (12 : BitVec 11).toInt ∧ 4 * cfg0.minWrite.toInt ≤ (4 : BitVec 11).toInt) ∧
    cfg0.loopEn = true ∧ pgRefuses coreReq .panel (panelState 0 id) = false ∧ 768 ≤ (768 : BitVec 10).toNat ∧ (767 : BitVec 10).toNat < 768 := by
  decide

/-- The stress counters stand in rising order. -/
theorem witness_PanelWritesAndMeasurements_stress : ([] : List (Nat × BitVec 24)).Pairwise (fun a b => a.1 < b.1) := by simp

/-- A queued frame of class `tc` from firmware's descriptor `d`. -/
def qframe (tc : BitVec 3) (d : Option (BitVec 12)) : QFrame := ⟨tc, 0x800, none, none, d, 0, 0, 0, false, false, 0, false, true, 0, 64, []⟩

/-- Port 0, of no PRP pair, in VLAN 1, with the default open window `gate`. -/
def port0 (gate : Byte) : PortCfg := ⟨0, none, 0, 1, [1], gate, []⟩

/-- Port 0 configured with the default open window `gate`, changed, and SRAM holding `m`. -/
def gatedPort (gate : Byte) (m : Memory) (f : EthPort → EthPort) : State :=
  let s := running 0 id State.reset
  let s := { s with run := { s.run with active := some { app0 with ports := [(0, port0 gate)] } } }
  { updEth 0 (fun x => f { x with en := true, up := true }) s with sram := m }

/-- Port 0 with every class open by default. -/
abbrev portState : Memory → (EthPort → EthPort) → State := gatedPort 0xFF

/-- A gate window of port 0: slot 0 from its start, 1,000 ticks, class 3 open. -/
def gate0 : Gate := ⟨⟨0, 0, 0⟩, 0, 8, 0, 1000⟩

/-- Port 0 closed by default, with `gate0` in the running image. -/
def gateState (f : EthPort → EthPort) : State :=
  let s := gatedPort 0 [] f
  { s with sched := { s.sched with active := some { im0 with gates := [gate0] } } }

theorem witness_EthernetFramesLeaveInOpenWindows :
    (let s := portState [] fun x => { x with queue := [qframe 3 none] }
     (portAt s 0).en = true ∧ (portAt s 0).up = true ∧ (portAt s 0).line = none ∧ qframe 3 none ∈ (portAt s 0).queue ∧
     (qframe 3 none).station = none ∧ staysOpen s 0 3 (frameNs 0 64) = true) ∧
    (let s := gatedPort 0 [] fun x => { x with queue := [qframe 3 none] }
     (portAt s 0).queue = [qframe 3 none] ∧ staysOpen s 0 3 (frameNs 0 64) = false) ∧
    (portAt State.reset 0).en = false ∧ (portAt (portState [] id) 0).line = none ∧
    ((portAt (portState [] fun x => { x with line := some (qframe 3 (some 2)) }) 0).line = some (qframe 3 (some 2)) ∧
      memWf (portState [] id).sram = true ∧ (qframe 3 (some 2)).capture = true ∧ { qframe 3 none with capture := false }.capture = false) ∧
    gateWindow (gateState id) 0 1 = none ∧ gateWindow (gateState id) 0 0 = some (0, 2000) ∧
    (portAt (gateState fun x => { x with gate := some (0, 2000) }) 0).gate = some (0, 2000) ∧ (portAt (gateState id) 0).gate = none ∧
    ((gateState id).sched.active = some { im0 with gates := [gate0] } ∧ [gate0][0]? = some gate0 ∧ gate0.port.toNat = (0 : Fin 8).val ∧
      (gateState id).sched.running = true ∧ timingActive gate0.t (gateState id).sched.round = true) ∧
    gateAt (gateState id) 0 1999 = 8 ∧ gateAt (gateState id) 0 2000 = 0 ∧
    State.reset.sched.running = false ∧ portCfg (gateState id) 0 = some (port0 0) := by decide +kernel

/-- A transmit descriptor at 0: length `len`, class `tc`. -/
def txDesc (len : Nat) (tc : Nat) : Memory := memWrite [] 4 (bytesOf 4 (len + tc * 65536))

theorem witness_EthernetQueuesAndTrioPortKeys :
    (let s := portState [] fun x => { x with rxLen := 2, rxTail := 1 }
     let f := ethFrame 0x800 [1, 2]
     f.etherType ≠ 0x88B5 ∧ f.etherType ≠ 0x88B6 ∧ vlanOk s 0 f = true ∧ vlanOk s 0 { f with tag := some 5 } = false ∧
     multicastOk s 0 f = true ∧ multicastOk s 0 { f with dst := 0x010000000000 } = false ∧ isPtp f = false ∧ portPaired s 0 = false ∧
     (portAt s 0).rxLen ≠ 0 ∧ (portAt s 0).rxHead ≠ (portAt s 0).rxTail ∧ memWf s.sram = true ∧ (portAt (portState [] id) 0).rxLen = 0) ∧
    pgRefuses coreReq (ethPage 0) State.reset = false ∧
    (let s := portState (txDesc 64 3) fun x => { x with txLen := 2 }
     let x := portAt s 0
     x.txLen ≠ 0 ∧ (1 : BitVec 12) < x.txLen ∧ x.txTail < x.txLen ∧ 1 = ringNext x.txLen x.txTail ∧ 1 ≠ x.txTail ∧ memWf s.sram = true ∧
     (memWord s.sram 4).toNat % 2 ^ 14 = 64 ∧ classOpens s 0 3 = true ∧ (memWord s.sram 4).getLsbD 20 = false ∧
     (memWord s.sram 4).getLsbD 19 = false) ∧
    (memWord (txDesc 63 3) 4).toNat % 2 ^ 14 < 64 ∧ 9216 < (memWord (txDesc 9217 3) 4).toNat % 2 ^ 14 ∧
    (portAt (portState [] id) 0).txLen = 0 ∧
    (let s := running 0 (fun x => { x with slotBegun := false }) State.reset
     let k (t : DWord) (p : Option DWord) (c : Option (BitVec 256)) : State :=
       updPort 8 (fun x => { x with keyTarget := t, keyPend := p }) { s with store := { s.store with cak := c } }
     pgRefuses coreReq (.port (trioPortIdx .a)) (k 20 none none) = false ∧ frameLate (k 19 none none) 19 = true ∧
     frameLate (k 20 none none) 20 = false ∧ (Vec.at (k 20 (some 0) none).ports 8).keyPend = some 0 ∧ frameDue (k 20 (some 0) none) 0 = true ∧
     frameDue (k 20 (some 1) none) 1 = false ∧ (k 20 none none).store.cak = none ∧ (k 20 none (some 1)).store.cak ≠ none ∧
     (k 20 none none).sched.active.isSome = true ∧ (frameStart (k 20 none none) 0).isSome = true ∧
     (let lap (n : Nat) := updPort 8 (fun x => { x with keyBoth := some (n, 1) }) s
      (Vec.at (lap 2).ports 8).keyBoth = some (2, 1) ∧ (lap 2).sched.running = true ∧ (Vec.at (lap 1).ports 8).keyBoth = some (1, 1)) ∧
     (let u := updPort 8 (fun x => { x with keyPend := some 0 }) { s with store := { s.store with cak := some 1, cakNext := some 2 } }
      u.store.cakNext.isSome = true ∧ (Vec.at u.ports 8).keyCak = none)) := by decide +kernel

/-- A PTP frame, and frames of a pair with a trailer: of a SEQ that is new, and of one seen. -/
theorem witness_EthernetQueuesAndTrioPortKeys_pair :
    (let s := portState [] fun x => { x with rxLen := 2, rxTail := 1 }
     let f := ethFrame 0x88F7 [2, 2]
     isPtp f = true ∧ vlanOk s 0 f = true ∧ multicastOk s 0 f = true ∧ (portAt s 0).rxLen ≠ 0 ∧ (portAt s 0).rxHead ≠ (portAt s 0).rxTail) ∧
    (let s := running 0 id { State.reset with ports := Vector.replicate 10 { en := true, up := true, rxLen := 2, rxTail := 1 } }
     let f := { ethFrame 0x800 [1, 2] with rct := some 7 }
     let seen := updEth 0 (fun x => { x with prp := [(0, 7, 0)] }) s
     portPaired s 0 = true ∧ f.rct = some 7 ∧ isPtp f = false ∧ vlanOk s 0 f = true ∧ multicastOk s 0 f = true ∧
     prpSeen s 0 f 7 = false ∧ prpSeen seen 0 f 7 = true ∧ portPaired seen 0 = true) := by decide +kernel

/-! ### Witnesses: CAN and UART -/

/-- CAN controller 0 configured with a filter of identifier 0x100 into buffer 3, a candidate timing, and changed by `f`. -/
def canState (f : Can → Can) : State :=
  let s := running 0 id State.reset
  { updCan 0 f s with
    run := { s.run with
      active := some { app0 with cans := [(0, ⟨none, 0, 0, [(3, .rx), (4, .txFw), (5, .txSched)], [some ⟨0x100 <<< 18, false, 0x7FF <<< 18, 3⟩], [(1, 2)]⟩)] } } }

theorem witness_CanReceivingBuffersAndDetection :
    (canAt (canState id) 0).mode = .off ∧ (canAt (canState fun x => { x with mode := .normal }) 0).mode = .normal ∧
    (canAt (canState fun x => { x with mode := .normal }) 0).busoff = false ∧
    ((canCfg (canState id) 0).bind fun g => canTarget g (frame (0x101 <<< 18) [])) = none ∧
    ((canCfg (canState id) 0).bind fun g => canTarget g (frame (0x100 <<< 18) [])) = some 3 ∧
    memWf (canAt (canState id) 0).bufs = true ∧ (canAt (canState fun x => { x with fresh := 8 }) 0).fresh.getLsbD 3 = true ∧
    canByFirmware (canState id) 0 = true ∧
    ((canAt (canState fun x => { x with lock := true, sel := 3 }) 0).lock = true ∧ (canAt (canState fun x => { x with lock := true, sel := 3 }) 0).sel = 3) ∧
    (canAt (canState fun x => { x with shadow := some (frame 0 [], {}) }) 0).shadow = some (frame 0 [], {}) ∧
    (canAt (canState fun x => { x with mode := .detect }) 0).detHeld = none ∧
    (canAt (canState fun x => { x with mode := .detect, detHeld := some (frame 0 [], {}) }) 0).detHeld = some (frame 0 [], {}) ∧
    pgRefuses coreReq (.can 0) (canState id) = false ∧ (canAt (canState fun x => { x with pend := 1 }) 0).pend.getLsbD 0 = true := by decide

/-- Receive counts of 0, in the range, and above 127; an unread frame in the buffer and in the shadow; a second frame in detection. -/
theorem witness_CanReceivingBuffersAndDetection_counts :
    (canAt (canState id) 0).recCnt = 0 ∧ (0 < (127 : Byte).toNat ∧ (127 : Byte).toNat ≤ 127) ∧ 127 < (128 : Byte).toNat ∧
    meetsUnread (canAt (canState fun x => { x with fresh := 8 }) 0) 3 ∧
    meetsUnread (canAt (canState fun x => { x with lock := true, sel := 3, shadow := some (frame 0 [], {}) }) 0) 3 ∧
    ¬ meetsUnread (canAt (canState id) 0) 3 := by
  refine ⟨?_, ?_, ?_, ?_, ?_, ?_⟩ <;> (try unfold meetsUnread) <;> decide +kernel

theorem witness_CanSendingErrorsAndModes :
    pgRefuses coreReq (.can 0) (canState id) = false ∧
    (let x := canAt (canState fun x => { x with mode := .normal, kinds := x.kinds.set 4 .txFw, pend := 16, line := some (4, false) }) 0
     Vec.at x.kinds 4 = .txFw ∧ Vec.at x.kinds 3 ≠ .txFw ∧ x.pend.getLsbD 4 = true ∧ x.pend.getLsbD 3 = false ∧ x.line = some (4, false) ∧
     canMaySend x = true ∧ memWf x.bufs = true ∧ (3 : Fin 64) ≠ 4) ∧
    (let x := canAt (canState fun x => { x with mode := .normal, kinds := x.kinds.set 4 .txFw, pend := 16, line := some (4, true) }) 0
     canMaySend x = true ∧ x.line = some (4, true)) ∧
    (let x := canAt (canState fun x => { x with mode := .normal, kinds := x.kinds.set 4 .txFw, pend := 16 }) 0
     x.pend.getLsbD 4 = true ∧ x.line = none ∧ canMaySend x = true ∧ canWinner x = some 4) ∧
    (let e : CanSlot := ⟨⟨0, 0, 0⟩, 0, 5, 0⟩
     let im := { im0 with canSlots := [e] }
     let s := canState fun x => { x with kinds := x.kinds.set 5 .txSched, mode := .normal }
     let s := { s with sched := { s.sched with active := some im } }
     s.sched.running = true ∧ s.sched.active = some im ∧ e ∈ im.canSlots ∧ e.t.slot = s.sched.slot ∧ timingActive e.t s.sched.round = true ∧
     canEntry 0 5 s = some e ∧ canEntry 0 6 s = none ∧ s.sched.slotBegun = true ∧ memWf (canAt s 0).bufs = true ∧
     Vec.at (canAt s 0).kinds 5 = .txSched ∧ canHeldSafe s 0 5 = false ∧ drivesSingle s = true ∧
     drivesSingle { s with run := { s.run with state := .stopped } } = false) ∧
    ((255 : BitVec 9).toNat < 256 ∧ 256 ≤ (256 : BitVec 9).toNat) ∧
    (canAt (canState fun x => { x with busoff := true }) 0).busoff = true ∧ (canAt (canState fun x => { x with mode := .listen }) 0).mode = .listen ∧
    (canAt (canState fun x => { x with mode := .detect }) 0).mode = .detect := by decide +kernel

/-- UART 0 changed. -/
def uartState (f : Uart → Uart) : State := updUart 0 f State.reset

theorem witness_UartFifosAndMarks :
    (uartAt (uartState id) 0).latched = false ∧ uartChar (uartAt (uartState id) 0) 0x24 = (uartAt (uartState id) 0).mark0 ∧
    uartChar (uartAt (uartState fun x => { x with dataBits := 2 }) 0) 0xA4 = 0x24 ∧
    (uartAt (uartState fun x => { x with rx := List.replicate 255 0 }) 0).rx.length < 256 ∧
    ¬ ((uartAt (uartState fun x => { x with rx := List.replicate 256 0 }) 0).rx.length < 256) ∧
    (uartAt (uartState fun x => { x with latched := true }) 0).since.length < 3968 ∧
    pgRefuses coreReq (.uart 0) State.reset = false ∧ 256 ≤ (uartAt (uartState fun x => { x with tx := List.replicate 256 0 }) 0).tx.length ∧
    (uartAt (uartState id) 0).tx.length < 256 ∧ (uartAt (uartState id) 0).sending = none ∧
    (uartAt (uartState fun x => { x with sending := some 7 }) 0).sending = some 7 := by decide

/-- A latched UART whose latch is full. -/
theorem witness_UartFifosAndMarks_full : 3968 ≤ (uartAt (uartState fun x => { x with latched := true, since := List.replicate 3968 0 }) 0).since.length := by
  exact Nat.le_of_eq (List.length_replicate (n := 3968) (a := (0 : Byte))).symm

/-! ### Witnesses: supervisor side, recorder -/

theorem witness_WatchdogsWindowsAndCounters :
    pgRefuses coreReq .supervisor State.reset = false ∧ coreOf coreReq.who = some 0 ∧ coreOf hostReq.who = none ∧
    (let s := { State.reset with super := { State.reset.super with live := 5 } }
     s.super.live.getLsbD 1 = false ∧ s.super.live.getLsbD 0 = true ∧ s.super.live.getLsbD 2 = true ∧
     (∀ e : Fin 4, e.val < (2 : Fin 4).val → e = 0 ∨ s.super.live.getLsbD e.val = false)) ∧
    (let s := running 0 id State.reset
     let s := { s with super := { s.super with live := 8 } }
     s.super.live.getLsbD 3 = true ∧ (∀ d : Fin 4, d ≠ 3 → s.super.live.getLsbD d.val = false) ∧ inTrio s = false ∧ s.run.state = .running) ∧
    (let s := running 0 id State.reset
     let s := { s with run := { s.run with active := some { app0 with partitionUs := 1000, windows := Vector.replicate 4 [⟨0, none⟩, ⟨500, some 2⟩] } } }
     s.sched.running = true ∧ coreWindows s 1 = [⟨0, none⟩, ⟨500, some 2⟩] ∧ (Vec.at s.super.tags 1).window.toNat + 1 < 2 ∧
     coreWindows (running 0 id State.reset) 1 = []) ∧
    (let s := inTrio0 (running 0 id State.reset)
     let s := { s with super := { s.super with live := 8 } }
     s.super.live.getLsbD 3 = true ∧ (∀ d : Fin 4, d ≠ 3 → s.super.live.getLsbD d.val = false) ∧ inTrio s = true ∧ s.trio.gaveUp = false) := by decide

/-- Mailbox channel `ch` as `m`, domain 2 (Crest C1) in state `d`. -/
def mailState (ch : Fin 32) (m : Mailbox) (d : PdState) : State :=
  { State.reset with mail := State.reset.mail.set ch.val m, super := { State.reset.super with pd := State.reset.super.pd.set 2 d } }

/-- The steward of Crest C1 receives from core S0. -/
def mail0 (full pending : Bool) : Mailbox := { sender := agentCode (.supervisor 0 true), receiver := agentCode (.steward 1), full := full, pending := pending }

/-- The same toward the host. -/
def mailHost (pending : Bool) : Mailbox := { mail0 pending pending with receiver := agentCode .host }

/-- The host link ready. -/
def ready (s : State) : State := { s with host := { s.host with link := .l0, bme := true, masked := 0 } }

theorem witness_MailboxChannels :
    agentReaches (.supervisor 0 true) 4 = true ∧ agentReaches .host 16 = false ∧ (mail0 false false).sender = agentCode (.supervisor 0 true) ∧
    (mail0 false false).sender ≠ agentCode .host ∧ agentDom (mail0 false false).receiver = 2 ∧ (mail0 false false).receiver ≠ 1 ∧
    pdAt (mailState 4 (mail0 false false) .on) 2 = .on ∧ pdAt (mailState 4 (mail0 false false) .stopping) 2 = .stopping ∧
    State.reset.part.hasTile 2 = true ∧ Part.acr9602.hasTile 3 = false ∧
    ((mailHost true).receiver = 1 ∧ pdAt State.reset (agentDom (mailHost true).receiver) = .on) ∧
    agentReaches (.steward 1) 4 = true ∧ (mail0 true false).receiver = agentCode (.steward 1) := by decide

/-- The host link takes the doorbell. -/
theorem witness_MailboxChannels_host : hostReady (ready (mailState 4 (mailHost true) .on)) 4 := by unfold hostReady; decide

/-- Who may use a channel: the security core a secure one, the host none of those, and in recovery none at all; a doorbell for a link in L1. -/
theorem witness_MailboxChannels_use :
    mayUse State.reset (.supervisor 0 true) 16 ∧ ¬ mayUse State.reset .host 16 ∧ mayUse State.reset .host 4 ∧
    ¬ mayUse { State.reset with upd := { State.reset.upd with recovery := true } } .host 4 ∧
    (let s := ready (mailState 4 (mailHost true) .on)
     let l1 := { s with host := { s.host with link := .l1 } }
     l1.host.link = .l1 ∧ hostReady { l1 with host := { l1.host with link := .l0 } } 4) := by
  refine ⟨?_, ?_, ?_, ?_, ?_⟩ <;> (try unfold mayUse) <;> (try unfold hostReady) <;> decide +kernel

theorem witness_PowerDomains :
    pgRefuses coreReq .supervisor State.reset = false ∧ pdAt State.reset 2 = .off ∧
    pdAt (mailState 4 (mail0 true false) .starting) 2 = .starting ∧ popcount (3 : BitVec 18) < 3 ∧ 3 ≤ popcount (7 : BitVec 18) ∧
    (let s := { State.reset with super := { State.reset.super with pd := State.reset.super.pd.set 7 .starting } }
     pdAt s 7 = .starting ∧ ¬ (1 ≤ (7 : Fin 8).val ∧ (7 : Fin 8).val ≤ 6)) ∧
    State.reset.part.hasTile 2 = true ∧ Part.acr9602.hasTile 3 = false ∧ pdAt (mailState 4 (mail0 true false) .on) 2 = .on ∧ (Vec.at (mailState 4 (mail0 true false) .on).mail 4).full = true ∧
    (Vec.at (mailState 4 (mail0 true true) .starting).mail 4).pending = true ∧ State.reset.run.state ≠ .stopped ∧
    (Vec.at State.reset.mail 4).receiver = 0xF ∧
    (let s := mailState 4 (mail0 false false) .stopping
     let s := { s with run := { s.run with state := .stopped }, super := { s.super with pdRestart := 4 } }
     s.run.state = .stopped ∧ s.super.pdRestart.getLsbD 2 = true ∧ pdAt s 2 = .stopping) := by decide

/-- The field domain starting with its link trained and not; a Crest domain; the field domain stopping. -/
theorem witness_PowerDomains_field :
    let s := { State.reset with super := { State.reset.super with pd := State.reset.super.pd.set 7 .starting } }
    pdAt s 7 = .starting ∧ s.field.linkUp = false ∧ { s with field := { s.field with linkUp := true } }.field.linkUp = true ∧
    (7 : Fin 8).val ≠ 0 ∧ s.part.hasField = true ∧ s.field.powered = true ∧ (2 : Fin 8).val = (1 : Fin 6).val + 1 ∧
    pdAt { State.reset with super := { State.reset.super with pd := State.reset.super.pd.set 7 .stopping } } 7 = .stopping := by decide +kernel

theorem witness_HostLinkStates :
    (let s := ready (mailState 4 (mailHost true) .on)
     hostHeld s 4 = true ∧ s.host.perst = false ∧ s.host.link = .l0) ∧
    ({ State.reset with host := { State.reset.host with perst := true } } : State).host.perst = true := by decide

/-- A reset endpoint that is released; a link that stays in L1, one that a held doorbell and one that a held event takes out of it. -/
theorem witness_HostLinkStates_low :
    ({ State.reset with host := { State.reset.host with perst := true } } : State).host.perst = true ∧ hostTakes State.reset 16 = false ∧
    hostTakes (ready State.reset) 16 = true ∧ (HostPower.d3hot ≠ .l0) ∧ State.reset.host.eventDue = false ∧
    (∀ ch, hostHeld State.reset ch = false) ∧ hostHeld (mailState 4 (mailHost true) .on) 4 = true ∧ (0 : Word).getLsbD 4 = false ∧
    ({ State.reset with host := { State.reset.host with eventDue := true } } : State).host.eventDue = true ∧ State.reset.host.perst = false := by
  decide +kernel

/-- A device event of severity 4, code 0x1101. -/
def ev0 (sev : BitVec 3) (code : BitVec 16) : EventIn := ⟨code, 3, sev, none, false, 1, 2, 3⟩

/-- A record of it, number `n`. -/
def rec0 (n : BitVec 24) (sev : BitVec 3) : Rec := ⟨ev0 sev 0x1101, {}, 0, n, 0, true, false⟩

/-- Region 8 of `size` with those records and an open series, the queue holding `ev`. -/
def recState (size : Nat) (slots : List Rec) (y : Option Series) (ev : List EventIn) : State :=
  { State.reset with recorder := { State.reset.recorder with
      regions := State.reset.recorder.regions.set 8 { size := size, slots := slots, series := y }
      queue := ev.map fun e => (e, ⟨0, 999999999⟩, 0), nextSeq := 2 } }

theorem witness_EventsAreQueuedAndStored :
    State.reset.recorder.queue.length < 256 ∧ State.reset.recorder.queue = [] ∧ eventRegion State.reset (ev0 4 0x1101) = 8 ∧
    (let s := recState 2 [rec0 1 4] (some ⟨1, 0, 0, {}, 0, 0⟩) [ev0 4 0x1101]
     s.recorder.queue = [(ev0 4 0x1101, ⟨0, 999999999⟩, 0)] ∧ (regionAt s 8).series = some ⟨1, 0, 0, {}, 0, 0⟩ ∧ seriesRec (regionAt s 8) = some (rec0 1 4) ∧
     sameEvent (rec0 1 4).ev (ev0 4 0x1101) = true ∧ localNs s < 0 + 10 ^ 9) ∧
    (let s := recState 2 [rec0 1 4] none [ev0 4 0x1101]
     (regionAt s 8).series = none ∧ (regionAt s 8).slots.length < (regionAt s 8).size) ∧
    (let s := recState 1 [rec0 1 4] none [ev0 3 0x1101]
     (regionAt s 8).size ≤ (regionAt s 8).slots.length ∧ (∀ x ∈ (regionAt s 8).slots, (ev0 3 0x1101).sev < x.ev.sev) ∧
     seriesOver (regionAt s 8) (ev0 3 0x1101) (localNs s) = false ∧ repeats (regionAt s 8) (ev0 3 0x1101) = false) ∧
    ((ev0 3 0x8001).code.getLsbD 15 = true ∧ { ev0 3 0x8001 with source := 0xFF01 }.source = 0xFF00 + BitVec.ofNat 16 (1 : Fin 4).val) ∧
    (let s := recState 1 [rec0 1 4] none [ev0 4 0x1101]
     ∃ x ∈ (regionAt s 8).slots, x.ev.sev ≤ (ev0 4 0x1101).sev) ∧
    (let s := recState 3 [rec0 1 4] (some ⟨1, 0, 0, {}, 0, 1⟩) [ev0 4 0x1102]
     sameEvent (rec0 1 4).ev (ev0 4 0x1102) = false ∧ (ev0 4 0x1102).code ≠ 0x2980 ∧ 0 < 1 ∧ (regionAt s 8).slots.length + 2 ≤ (regionAt s 8).size ∧
     (regionAt s 8).slots.length < (regionAt s 8).size ∧ seriesRec (regionAt s 8) = some (rec0 1 4)) := by decide

/-- A full input queue. -/
theorem witness_EventsAreQueuedAndStored_full :
    256 ≤ (recState 1 [] none (List.replicate 256 (ev0 4 0x1101))).recorder.queue.length := by simp [recState]

/-- A full region whose records are of the open series or more severe, and one whose only slot REPEAT_ENDED takes. -/
theorem witness_EventsAreQueuedAndStored_noSlot :
    (let s := recState 1 [rec0 1 4] (some ⟨1, 0, 0, {}, 0, 0⟩) [ev0 4 0x1102]
     ∀ x ∈ (regionAt s 8).slots, inSeries (regionAt s 8) x = true) ∧
    (let s := recState 1 [rec0 1 4] (some ⟨1, 0, 0, {}, 0, 1⟩) [ev0 3 0x1102]
     seriesOver (regionAt s 8) (ev0 3 0x1102) (localNs s) = false ∧ repeats (regionAt s 8) (ev0 3 0x1102) = false ∧
     slotFor (endSeries 8 s) (regionAt (endSeries 8 s) 8) (ev0 3 0x1102).sev = none) := by decide +kernel

/-! ### Witnesses: recorder window, historian, resets, start-up, power, tickets, updates -/

theorem witness_RecorderWindowAndFirmwareRecords :
    pgRefuses coreReq .recorder State.reset = false ∧ coreOf coreReq.who = some 0 ∧ coreOf hostReq.who = none ∧
    (let b (code : BitVec 16) (sev : BitVec 3) : State :=
       { State.reset with recorder := { State.reset.recorder with fw := Vector.replicate 4 { code := code, sev := sev } } }
     (Vec.at (b 0x7FFF 0).recorder.fw 0).code.getLsbD 15 = false ∧ (Vec.at (b 0x8000 6).recorder.fw 0).code.getLsbD 15 = true ∧
     5 < (Vec.at (b 0x8000 6).recorder.fw 0).sev.toNat ∧ (Vec.at (b 0x8000 5).recorder.fw 0).sev.toNat ≤ 5) ∧
    State.reset.recorder.queue.length < 256 ∧ 9 ≤ ({ State.reset.recorder with rsel := 9 } : Recorder).rsel.toNat ∧
    State.reset.recorder.rsel.toNat = (8 : Fin 9).val ∧ State.reset.recorder.refilling = false ∧
    (let s := recState 2 [rec0 1 4] none []
     let s := { s with recorder := { s.recorder with refilling := true } }
     s.recorder.refilling = true ∧ s.recorder.curRegion.toNat = (8 : Fin 9).val ∧
     (∃ x, (regionAt s 8).slots[0]? = some x ∧ (x.seq - s.recorder.curSeq).toNat < 2 ^ 23)) := by decide

/-- A block of the device's records in staging. -/
def block0 : Block :=
  { owner := 8, cls := 0, group := 0, gap := false, reserve := false, cause := 0, stamp := 7, g := 0, slot := 0, round := 0, frame := 0, entry := 0xFFFFF, stream := 0
    data := [1, 2, 3] }

/-- The historian on, drive 0 OK, with staging, chunks and one record to spill. -/
def hisState (f : Historian → Historian) : State :=
  { recState 2 [rec0 1 4] none [] with
    historian := f { State.reset.historian with enabled := true, drives := Vector.replicate 4 { state := .ok, capGb := 100 } }
    run := { State.reset.run with active := some { app0 with
      hisReservation := Vector.replicate 9 10, hisShares := [⟨8, 0, 10, 1⟩], hisCapacityGb := 100 } } }

theorem witness_HistorianDrivesAndQueries :
    spillable State.reset 8 = [] ∧ (spillable (hisState id) 8).length = 1 ∧ (hisState id).historian.enabled = true ∧
    stagedBytes (hisState id) 8 + 96 ≤ stagingShare (hisState id) 8 ∧
    nextWrite (hisState id) 0 = none ∧
    (nextWrite (hisState fun h => { h with staging := [block0] }) 0).map (fun x => (x.1, x.2.1)) = some (8, 0) ∧
    drivePlace State.reset 1 = false ∧ drivePlace State.reset 0 = true ∧
    (driveAt (hisState id) 0).state = .ok ∧ (driveAt State.reset 0).state = .absent ∧
    (driveAt (hisState fun h => { h with drives := Vector.replicate 4 { state := .retired } }) 0).state = .retired ∧
    pgRefuses coreReq .historian (hisState id) = false ∧ (hisState fun h => { h with qBusy := true }).historian.qBusy = true ∧
    memWf (hisState id).sram = true ∧ (hisState id).historian.qBusy = false ∧ State.reset.historian.enabled = false := by decide

theorem witness_ResetsReachTheirBlocks :
    isSecure hostReq = false ∧ isSecure coreReq = true ∧ pgRefuses coreReq .power State.reset = false ∧ State.reset.sched.running = false ∧
    (running 0 id State.reset).sched.running = true ∧ State.reset.upd.resetDue = none ∧ State.reset.upd.restart = none ∧
    (let s := { running 0 id State.reset with upd := { State.reset.upd with restart := some 2, resetDue := some 2 } }
     s.upd.restart = some 2 ∧ s.upd.resetDue = some 2 ∧ funcCfgs s = []) := by decide

/-- Stage `n` of the start-up, the power state changed by `f`. -/
def stage (n : BitVec 4) (f : Power → Power) : State := { State.reset with pwr := f { State.reset.pwr with stage := n } }

theorem witness_StartUpStages :
    State.reset.pwr.released = false ∧ begunTarget State.reset.otp = none ∧ (stage 1 fun p => { p with released := true }).pwr.released = true ∧
    (let s := { stage 3 fun p => { p with released := true } with flash := { State.reset.flash with slotA := { state := .active } } }
     s.pwr.released = true ∧ s.pwr.coldHold = false ∧ s.upd.recovery = false ∧ s.pwr.causeKind ≠ 3 ∧ s.flash.slotA.state = .active ∧
     s.flash.slotB.state = .empty) ∧
    (stage 4 id).pwr.stage = 4 ∧ popcount (7 : BitVec 18) = 3 ∧ popcount (3 : BitVec 18) = 2 ∧ (State.reset.part.linkEnds 15).isSome = true ∧
    ((stage 5 fun p => { p with setMv := 849 }).pwr.setMv.toNat < 850 ∧ 850 ≤ (stage 5 fun p => { p with setMv := 850 }).pwr.setMv.toNat) ∧
    ((0 : Fin 6).val < State.reset.part.crests ∧ pdAt (allOn (stage 5 id)) (crestDom 0) = .on ∧ (1151 : BitVec 12).toNat < 1152 ∧
      (1023 : BitVec 12).toNat < 1024) ∧
    (tryEntry (stage 6 id) false).2 = false ∧ storeAt? (stage 7 id) false = none ∧
    (let e : StoreEntry := ⟨{ app0 with safety := some saf0 }, none, im0, none⟩
     let s := { stage 7 id with flash := { State.reset.flash with store0 := some e } }
     storeAt? s s.flash.current = some e ∧ s.safety.sealNow ≠ saf0.sealCode) ∧
    (let e : StoreEntry := ⟨{ app0 with safety := some saf0 }, none, im0, none⟩
     let s := { stage 7 id with flash := { State.reset.flash with store0 := some e }, safety := { State.reset.safety with sealNow := 0xA5 } }
     storeAt? s s.flash.current = some e ∧ s.safety.sealNow = saf0.sealCode) := by decide

/-- A transition that was begun, with no ticket in the store; and a boot after a watchdog reset. -/
theorem witness_StartUpStages_begun :
    (let s := { State.reset with otp := { State.reset.otp with groups := 1 } }
     s.pwr.released = false ∧ begunTarget s.otp = some 1 ∧ s.store.ticket = none) ∧
    (let s := stage 2 fun p => { p with released := true, causeKind := 3 }
     s.pwr.released = true ∧ s.pwr.stage = 2 ∧ s.pwr.coldHold = false ∧ s.upd.recovery = false) := by decide +kernel


/-- A device that waits in stage 2 with its ramp over, its slots `a` and `b`; no package is stored, so neither slot boots. -/
def bootState (a b : SlotState) (starts : BitVec 2) : State :=
  let s := stage 2 fun p => { p with released := true, rampNs := some 0 }
  { s with
    tb := { s.tb with tick := 6000000 }
    flash := { s.flash with slotA := { state := a }, slotB := { state := b }, starts := starts } }

/-- The boots of stage 2; that a slot boots rests on SHA-384 and ECDSA, which are uninterpreted. -/
theorem witness_StartUpStages_boots :
    (let s := bootState .active .empty 0
     s.pwr.released = true ∧ s.pwr.stage = 2 ∧ s.pwr.coldHold = false ∧ s.upd.recovery = false ∧ rampEnd s ≤ localNs s ∧ s.pwr.causeKind ≠ 3 ∧
     s.flash.slotA.state = .active ∧ s.flash.slotB.state = .empty ∧ slotBoots s false = false) ∧
    (let s := bootState .active .valid 0
     s.flash.slotB.state = .valid ∧ slotBoots s false = false ∧ slotBoots s true = false) ∧
    ((bootState .active .trial 2).flash.slotB.state = .trial ∧ (bootState .active .trial 2).flash.starts.toNat < 3 ∧
      (bootState .active .trial 3).flash.starts = 3) ∧
    ((stage 5 fun p => { p with floorSet := true }).pwr.floorSet = true ∧ (stage 5 id).pwr.floorSet = false ∧
      (stage 4 id).part.hasField = true ∧ (stage 4 id).field.linkUp = false ∧ fieldLink < 17 ∧
      ((stage 4 id).part.linkEnds fieldLink).isSome = true) := by decide +kernel

theorem witness_SuppliesAndTemperature :
    startingUp (stage 7 fun p => { p with released := true }) = true ∧ (startingUp (running 0 id State.reset) = false ∧ (running 0 id State.reset).run.state = .running) ∧
    State.reset.pwr.pmbFail = false ∧ ({ State.reset.pwr with pmbFail := true } : Power).pmbFail = true ∧
    Part.acr9602.hasTile 3 = false ∧ State.reset.part.hasTile 3 = true ∧
    (let t := after (exec (.tempRead 1 (Vector.replicate 4 600) true) State.reset)
     t.pwr.hot = true ∧ t.super.urgent.getLsbD 6 = true ∧ (tempsInUse t).any (fun y => decide (y.1 = 1 ∧ 600 ≤ y.2)) = true) ∧
    (after (exec (.tempRead 1 (Vector.replicate 4 559) false) State.reset)).pwr.hot = false := by decide

/-- A ticket of operation `op` with target `n` in the ticket registers' buffer. -/
def ticketState (op n : Nat) : State :=
  { State.reset with
    sram := memWrite [] 0 (List.replicate 256 0 ++ bytesOf 4 op ++ bytesOf 4 n ++ List.replicate 144 0)
    sec := { State.reset.sec with tktLen := 408 } }

/-- The premises that lie in the state; that a ticket passes the checks of Table 15.3 rests on SHA-384 and ECDSA, which are uninterpreted. -/
theorem witness_TicketsActAfterTheirChecks : pgRefuses coreReq .security State.reset = false ∧ ticketAt State.reset = none ∧
    State.reset.sec.permitUntil = none ∧ ({ State.reset.sec with permitUntil := some 9 } : Security).permitUntil = some 9 := by decide

theorem witness_TicketsActAfterTheirChecks_row : submitRow coreReq true 1 (.ticketLcAdvance coreReq true) ∧ submitRow coreReq true 6 (.ticketRevoke coreReq) := by
  simp [submitRow]

/-- The update page with a VALID slot B, its state `u`, target frame 20. -/
def updState (u : UpdState) (f : Update → Update) : State :=
  let s := running 0 id State.reset
  { s with
    upd := f { s.upd with state := u, target := 20, armedFrame := 1 }
    flash := { s.flash with slotA := { state := .active, compat := 1, confirm := 9 }, slotB := { state := .valid, compat := 1 } } }

theorem witness_UpdatePageCommands :
    pgRefuses coreReq .update (updState .idle id) = false ∧ (updState .loading id).upd.state ≠ .idle ∧
    frameLate (updState .idle fun u => { u with target := 19 }) 19 = true ∧ frameLate (updState .idle id) 20 = false ∧
    (otherSlot (updState .idle id)).state = .valid ∧ (otherSlot State.reset).state ≠ .valid ∧
    pastCommit { updState .armed id with sched := { (updState .armed id).sched with round := 1 } } 1 = true ∧
    pastCommit (updState .armed id) 1 = false ∧ (updState .trial id).upd.state = .trial ∧
    (updState .idle fun u => { u with storing := some ⟨app0, none, im0, none⟩ }).upd.storing = some ⟨app0, none, im0, none⟩ ∧
    (updState .idle id).run.active = some app0 ∧ (updState .idle id).sched.active = some im0 ∧ im0.appId = app0.id ∧
    (updState .loading fun u => { u with recovery := true }).upd.recovery = true := by decide


/-- A storage that ends, a load that ends with a package too short, a cancel after the commit point, and a STORE of a ready shadow pair. -/
theorem witness_UpdatePageCommands_ends :
    (updState .idle fun u => { u with storing := some ⟨app0, none, im0, none⟩ }).upd.storing ≠ none ∧
    (updState .loading id).upd.state = .loading ∧ (slotAt (updState .loading id) (updState .loading id).upd.loadSlot).package.length < 256 ∧
    (updState .idle fun u => { u with resetDue := some 2 }).upd.resetDue = some 2 ∧
    (let s := updState .idle id
     let t := { s with run := { s.run with bank := .valid, shadow := some app0 }, sched := { s.sched with bank := .valid, shadow := some im0 } }
     t.upd.storing = none ∧ t.upd.state ≠ .loading ∧ t.run.shadow = some app0 ∧ t.sched.shadow = some im0 ∧ t.run.bank = .valid ∧
     t.sched.bank = .valid ∧ im0.appId = app0.id) := by decide

/-- No condition of Table 15.10 holds there; on battery the third does. -/
theorem witness_UpdatePageCommands_bars :
    notBarred false (updState .idle id) ∧ barredWith 0xDC false (updState .idle fun u => { u with onBatt := true }) := by
  constructor
  · intro x hx
    fin_cases hx <;> decide
  · refine ⟨[_, _], _, [_, _], rfl, ?_, ?_⟩
    · decide
    · intro x hx
      fin_cases hx <;> decide

theorem witness_TrialsAreCommittedConfirmedOrRejected :
    (let s := { updState .armed id with sched := { (updState .armed id).sched with round := 1 } }
     lastRound s = true ∧ s.upd.armedFrame = s.sched.frame + 1 ∧ s.upd.fallbackArmed = false ∧ s.upd.state = .armed) ∧
    (let s := { updState .trial fun u => { u with fallbackArmed := true } with sched := { (updState .trial id).sched with round := 1 } }
     lastRound s = true ∧ s.upd.armedFrame = s.sched.frame + 1 ∧ s.upd.fallbackArmed = true) ∧
    isSecure hostReq = false ∧ isSecure coreReq = true ∧
    (let s := { updState .trial id with flash := { State.reset.flash with slotA := { state := .trial, confirm := 9 } } }
     s.upd.state = .trial ∧ (runningSlot s).state = .trial ∧ s.upd.fallbackArmed = false ∧ (9 : Word) = (runningSlot s).confirm ∧
     s.sched.running = true ∧ votes (inTrio0 s) = true ∧ inTrio (inTrio0 s) = true ∧ (inTrio0 s).trio.gaveUp = false ∧ inTrio s = false ∧
     { s with sched := { s.sched with running := false } }.sched.running = false) := by decide

/-- A command at the front of the queue is the one a step runs. -/
theorem test_step_takes_the_front :
    heldGet (after (step { State.reset with pending := [.tbIncrLoWrite coreReq 7, .tbIncrLoWrite coreReq 8] })) coreReq.who .timebase 0x120 = some 7 ∧
    (after (step { State.reset with pending := [.tbIncrLoWrite coreReq 7, .tbIncrLoWrite coreReq 8] })).pending.length = 1 := by decide

/-- Canonical memories at reset, the premise of the invariant. -/
theorem witness_EveryStepKeepsMemoriesCanonical : State.reset.memoriesOk := by
  constructor <;> (try intro i) <;> (try fin_cases i) <;> (try constructor) <;> (try intro j) <;> (try fin_cases j) <;> decide +kernel

/-- A step of the empty queue, and of one command, answers a next state: the premise of the statements about every step. -/
theorem witness_NoStepUnburnsTheOtp_and_the_queue : step State.reset = .next (passTicks 1 State.reset) ∧
    step { State.reset with pending := [.permitExpire] } = .next State.reset := ⟨rfl, rfl⟩

/-- No table word spells a command: the opcode table gives no row any bits. -/
theorem test_no_word_spells_a_command : ∀ n w : Nat, decodeTableWord n w = none := fun _ _ => rfl
end Sys2Proof.Tests
end

/-! Proofs for the field link, the supply and the die temperature of Foothill (chapter 8): what a refresh of the outputs leaves, what a stop
of the controller does to Foothill, and the events of R218 to R220 and R404. -/
namespace Sys2Proof.Machine
open Sys2Proof.Stmt

/-! ### Bits of packed flags -/

theorem setBit_getLsbD {n : Nat} (w : BitVec n) (i j : Nat) (b : Bool) :
    (setBit w i b).getLsbD j = if j = i ∧ j < n then b else w.getLsbD j := by
  have one : (BitVec.ofNat n 1 <<< i).getLsbD j = decide (j = i ∧ j < n) := by
    rw [BitVec.getLsbD_shiftLeft, BitVec.getLsbD_one, Bool.eq_iff_iff]
    simp only [Bool.and_eq_true, Bool.not_eq_true', decide_eq_true_eq, decide_eq_false_iff_not]
    omega
  cases b
  · simp only [setBit, Bool.false_eq_true, if_false, BitVec.getLsbD_and, BitVec.getLsbD_not, one]
    grind
  · simp only [setBit, if_true, BitVec.getLsbD_or, one]
    grind

/-- The flags of a vector that is built from them. -/
theorem bitsOf_getLsbD (n : Nat) (f : Nat → Bool) (i : Nat) : (bitsOf n f).getLsbD i = (decide (i < n) && f i) := by
  have upTo : ∀ m, ((List.range m).foldl (fun w i => if f i then setBit w i true else w) (0 : BitVec n)).getLsbD i =
      (decide (i < m ∧ i < n) && f i) := by
    intro m
    induction m with
    | zero => simp
    | succ m ih =>
      rw [List.range_succ, List.foldl_append, List.foldl_cons, List.foldl_nil]
      split
      · rw [setBit_getLsbD, ih]; grind
      · rw [ih]; grind
  rw [bitsOf, upTo]; simp

/-- A flag vector written over channel numbers below its length. -/
theorem bitsOf_channels (n : Nat) (f : Fin n → Bool) (i : Fin n) :
    (bitsOf n fun k => if h : k < n then f ⟨k, h⟩ else false).getLsbD i.val = f i := by
  rw [bitsOf_getLsbD, dif_pos i.isLt, decide_eq_true i.isLt, Bool.true_and]

/-! ### What Foothill's drive decisions read -/

/-- The parts of the device that decide what Foothill drives and reads: the configuration, the program in force and Foothill itself. -/
def foothillView (s : State) : State := { part := s.part, run := { active := s.run.active }, field := s.field }

theorem foothillView_congr {s t : State} (hp : t.part = s.part) (ha : t.run.active = s.run.active) (hf : t.field = s.field) :
    foothillView t = foothillView s := by
  rw [foothillView, foothillView, hp, ha, hf]

theorem field_of_view {s t : State} (h : foothillView t = foothillView s) : t.field = s.field := (congrArg State.field h :)

theorem active_of_view {s t : State} (h : foothillView t = foothillView s) : t.run.active = s.run.active :=
  (congrArg (fun x => x.run.active) h :)

theorem part_of_view {s t : State} (h : foothillView t = foothillView s) : t.part = s.part := (congrArg State.part h :)

/-- An event changes nothing that Foothill's decisions read. -/
theorem view_of_eventFrame {s t : State} (h : eventFrame s t) : foothillView t = foothillView s := by
  unfold eventFrame at h
  exact (congrArg foothillView h :)

/-- What differs in components other than the part, the program and Foothill leaves the decisions as they are. -/
theorem view_of_but {W : Nat} {s t : State} (h : But W s t) (k : W &&& 0x48001 = 0) : foothillView t = foothillView s := by
  have out : ∀ i, (0x48001 : Nat).testBit i = true → W.testBit i = false := by
    intro i hi
    have := congrArg (fun x => x.testBit i) k
    simpa only [Nat.testBit_and, hi, Bool.and_true, Nat.zero_testBit] using this
  exact foothillView_congr (h .part (out 0 rfl)) (congrArg RunCtl.active (h .run (out 15 rfl))) (h .field (out 18 rfl))

/-- Foothill's switches, trims and output stages stand as its drive decides. -/
def settled (t : State) : Prop := switchesFollow t ∧ ∀ n, Vec.at t.field.aoAsk n = aoAsked t n

theorem settled_congr {s t : State} (h : foothillView t = foothillView s) (hs : settled s) : settled t := by
  have view : ∀ u, settled (foothillView u) ↔ settled u := fun _ => Iff.rfl
  rwa [← view, h, view]

/-! ### Foothill brought to its drive decision -/

/-- What decides the drive of the outputs: `foothillView` without what a refresh writes. -/
def driveInputs (s : State) : State :=
  { part := s.part, run := { active := s.run.active }
    field := { s.field with
      doSw := 0, tloSw := 0, tloHi := 0, tloLo := 0, doTerm := 0, doBlank := 0, tloBlank := 0, doMis := 0, tloMis := 0, tloShort := 0
      doExp := 0, tloExp := 0, aoAsk := Vector.replicate 16 0, trim := 0, trimCode := 0 } }

theorem driveInputs_settleMis (s : State) : driveInputs (settleMis s) = driveInputs s := by simp only [driveInputs, settleMis, updField]
theorem driveInputs_settleTrims (s : State) : driveInputs (settleTrims s) = driveInputs s := by simp only [driveInputs, settleTrims, updField]
theorem driveInputs_settleAsk (s : State) : driveInputs (settleAsk s) = driveInputs s := by simp only [driveInputs, settleAsk, updField]

theorem driveInputs_refreshField (s : State) : driveInputs (refreshField s) = driveInputs s := by
  rw [refreshField, driveInputs_settleAsk, driveInputs_settleTrims, driveInputs_settleMis]
  simp only [driveInputs, updField]

theorem driveInputs_of_view {s t : State} (h : foothillView t = foothillView s) : driveInputs t = driveInputs s :=
  (congrArg driveInputs h :)

theorem doDrive_congr {s t : State} (h : driveInputs t = driveInputs s) : doDrive t = doDrive s :=
  (congrArg doDrive h :)
theorem tloDrive_congr {s t : State} (h : driveInputs t = driveInputs s) : tloDrive t = tloDrive s :=
  (congrArg tloDrive h :)
theorem aoDrive_congr {s t : State} (h : driveInputs t = driveInputs s) : aoDrive t = aoDrive s :=
  (congrArg aoDrive h :)

theorem refreshField_doSw (s : State) (n : Fin 24) :
    (refreshField s).field.doSw.getLsbD n.val = (doDrive s n && !s.field.doTrip.getLsbD n.val) := by
  simp only [refreshField, settleAsk, settleTrims, settleMis, updField]
  exact bitsOf_channels 24 (fun n => doDrive s n && !s.field.doTrip.getLsbD n.val) n

theorem refreshField_tloSw (s : State) (n : Fin 8) :
    (refreshField s).field.tloSw.getLsbD n.val = (tloDrive s n && !s.field.tloLock.getLsbD n.val) := by
  simp only [refreshField, settleAsk, settleTrims, settleMis, updField]
  exact bitsOf_channels 8 (fun n => tloDrive s n && !s.field.tloLock.getLsbD n.val) n

/-- The AO channels that are driven. -/
def aoDriven (s : State) : BitVec 16 := bitsOf 16 fun n => if h : n < 16 then (aoDrive s ⟨n, h⟩).isSome else false

theorem aoDriven_getLsbD (s : State) (n : Fin 16) : (aoDriven s).getLsbD n.val = (aoDrive s n).isSome :=
  bitsOf_channels 16 (fun n => (aoDrive s n).isSome) n

/-- What a refresh makes of the trim modes (R240). -/
theorem refreshField_trim (s : State) : (refreshField s).field.trim = s.field.trim &&& ~~~aoDriven s := by
  have same : ∀ u, driveInputs u = driveInputs s → u.field.trim = s.field.trim →
      (settleAsk (settleTrims u)).field.trim = s.field.trim &&& ~~~aoDriven s := by
    intro u hd ht
    rw [aoDriven, ← aoDrive_congr hd, ← ht]; rfl
  refine same _ ?_ ?_
  · rw [driveInputs_settleMis]; simp only [driveInputs, updField]
  · simp only [settleMis, updField]

theorem refreshField_trimCode (s : State) :
    (refreshField s).field.trimCode = if s.field.trim &&& aoDriven s = 0 then s.field.trimCode else 0x72 := by
  have same : ∀ u, driveInputs u = driveInputs s → u.field.trim = s.field.trim → u.field.trimCode = s.field.trimCode →
      (settleAsk (settleTrims u)).field.trimCode = if s.field.trim &&& aoDriven s = 0 then s.field.trimCode else 0x72 := by
    intro u hd ht hc
    rw [aoDriven, ← aoDrive_congr hd, ← ht, ← hc]; rfl
  refine same _ ?_ ?_ ?_
  · rw [driveInputs_settleMis]; simp only [driveInputs, updField]
  · simp only [settleMis, updField]
  · simp only [settleMis, updField]

/-- A refresh takes the driven channels out of trim mode (R240). -/
theorem refreshField_trim_getLsbD (s : State) (n : Fin 16) :
    (refreshField s).field.trim.getLsbD n.val = (s.field.trim.getLsbD n.val && (aoDrive s n).isNone) := by
  rw [refreshField_trim, BitVec.getLsbD_and, BitVec.getLsbD_not, aoDriven_getLsbD, decide_eq_true n.isLt, Bool.true_and,
    Option.not_isSome]

/-- What decides the currents asked of the output stages: `foothillView` without those currents. -/
def askInputs (s : State) : State :=
  { part := s.part, run := { active := s.run.active }, field := { s.field with aoAsk := Vector.replicate 16 0 } }

theorem aoAsked_congr {s t : State} (h : askInputs t = askInputs s) : aoAsked t = aoAsked s := (congrArg aoAsked h :)

theorem aoAsked_settleAsk (s : State) : aoAsked (settleAsk s) = aoAsked s :=
  aoAsked_congr (by simp only [askInputs, settleAsk, updField])

theorem settleAsk_aoAsk (s : State) (n : Fin 16) : Vec.at (settleAsk s).field.aoAsk n = aoAsked (settleAsk s) n := by
  rw [aoAsked_settleAsk, settleAsk, updField, Vec.at, Fin.getElem_fin, Vector.getElem_ofFn]

theorem refreshField_doTrip (s : State) : (refreshField s).field.doTrip = s.field.doTrip := by
  simp only [refreshField, settleAsk, settleTrims, settleMis, updField]

theorem refreshField_tloLock (s : State) : (refreshField s).field.tloLock = s.field.tloLock := by
  simp only [refreshField, settleAsk, settleTrims, settleMis, updField]

theorem settled_refreshField (s : State) : settled (refreshField s) := by
  have same := driveInputs_refreshField s
  refine ⟨⟨fun n => ?_, fun n => ?_, fun n hn => ?_⟩, settleAsk_aoAsk _⟩
  · rw [refreshField_doSw, doDrive_congr same, refreshField_doTrip]
  · rw [refreshField_tloSw, tloDrive_congr same, refreshField_tloLock]
  · rw [aoDrive_congr same] at hn
    rw [refreshField_trim_getLsbD, Option.isNone_eq_false_iff.2 hn, Bool.and_false]

/-- Clearing bits leaves a vector as it is exactly when it has none of them. -/
theorem and_eq_zero_iff_and_not_eq {n : Nat} (x d : BitVec n) : x &&& d = 0 ↔ x &&& ~~~d = x := by
  simp only [BitVec.eq_of_getLsbD_eq_iff, BitVec.getLsbD_and, BitVec.getLsbD_not, BitVec.ofNat_eq_ofNat, BitVec.getLsbD_zero]
  refine forall₂_congr fun i hi => ?_
  cases x.getLsbD i <;> simp [hi]

theorem sameButSwitches_refreshField (s : State) : sameButSwitches s.field (refreshField s).field := by
  refine ⟨?_, fun n hn => ?_, fun h => ?_, fun h => ?_⟩
  · simp only [refreshField, settleAsk, settleTrims, settleMis, updField]
  · rw [refreshField_trim, BitVec.getLsbD_and, Bool.and_eq_true] at hn
    exact hn.1
  · rw [refreshField_trim] at h
    rw [refreshField_trimCode, if_pos ((and_eq_zero_iff_and_not_eq _ _).2 h)]
  · rw [refreshField_trim] at h
    rw [refreshField_trimCode, if_neg (mt (and_eq_zero_iff_and_not_eq _ _).1 h)]

theorem refreshField_eq (s : State) : refreshField s = { s with field := (refreshField s).field } := by
  simp only [refreshField, settleAsk, settleTrims, settleMis, updField]

/-- A change of Foothill that is followed by a refresh and events alone (R231, R240). -/
theorem fieldChanged_refreshField {f : Field → Field} {s t : State} (h : eventFrame (refreshField (updField f s)) t) :
    fieldChanged f s t := by
  have view := view_of_eventFrame h
  have same := (driveInputs_of_view view).trans (driveInputs_refreshField (updField f s))
  obtain ⟨follow, ask⟩ := settled_congr view (settled_refreshField (updField f s))
  have fld := field_of_view view
  refine ⟨?_, follow, ?_, fun n => ⟨ask n, ?_⟩⟩
  · rw [fld]; exact sameButSwitches_refreshField (updField f s)
  · rw [fld]
    rwa [refreshField_eq] at h
  · rw [fld, refreshField_trim_getLsbD, aoDrive_congr same, updField]

/-- Foothill without supply, locked out or shut down drives nothing (R218, R220, R404). -/
theorem allOff_of_fieldDead {t : State} (hs : settled t) (hd : fieldDead t = true) : allOff t := by
  obtain ⟨⟨dout, tlo, -⟩, -⟩ := hs
  refine ⟨BitVec.eq_of_getLsbD_eq fun i hi => ?_, BitVec.eq_of_getLsbD_eq fun i hi => ?_, fun n => ?_⟩
  · rw [dout ⟨i, hi⟩, doDrive, hd]; simp
  · rw [tlo ⟨i, hi⟩, tloDrive, hd]; simp
  · rw [aoDrive, hd]; rfl

theorem asksNothing_of_fieldDead {t : State} (hs : settled t) (hd : fieldDead t = true) : asksNothing t := by
  intro n
  rw [hs.2 n, aoAsked, trimDrives, hd, aoDrive, hd]; simp

theorem tpsOn_of_fieldDead {t : State} (hd : fieldDead t = true) : tpsOn t = 0 := by rw [tpsOn, hd]; rfl

/-! ### What a stop of the controller does to Foothill -/

theorem rawKept_raiseSev (pg : Page) (bit : Nat) (ten : Option (BitVec 3)) (sev : BitVec 3) (ps : Params) (s : State) :
    rawKept s (raiseSev pg bit ten sev ps s) :=
  rawKept_trans (rawKept_setRaw pg bit s) (rawKept_recordEvent _ _ _ _ _ _)

theorem rawKept_raiseUrgent (pg : Page) (bit n : Nat) (ten : Option (BitVec 3)) (ps : Params) (s : State) :
    rawKept s (raiseUrgent pg bit n ten ps s) :=
  rawKept_trans (rawKept_of_hdrs (s := s) (t := urgent n s) rfl) (rawKept_raiseSev _ _ _ _ _ _)

/-- From `s` to `t` nothing that Foothill's decisions read, nor RUN_STAT.STATE, changes, and no interrupt bit is lost. -/
structure Beside (s t : State) : Prop where
  view : foothillView t = foothillView s
  state : t.run.state = s.run.state
  raw : rawKept s t

theorem beside_refl (s : State) : Beside s s := ⟨rfl, rfl, rawKept_refl s⟩

theorem beside_trans {s t u : State} (h : Beside s t) (k : Beside t u) : Beside s u :=
  ⟨k.view.trans h.view, k.state.trans h.state, rawKept_trans h.raw k.raw⟩

theorem beside_of_but {W : Nat} {s t : State} (h : But W s t) (k : W &&& 0x48001 = 0) (r : rawKept s t) : Beside s t := by
  refine ⟨view_of_but h k, congrArg RunCtl.state (h .run ?_), r⟩
  have := congrArg (fun x => x.testBit 15) k
  rw [Nat.testBit_and] at this
  exact (Bool.and_true _).symm.trans this

theorem beside_foldl {α : Type} {f : State → α → State} (h : ∀ s a, Beside s (f s a)) (l : List α) (s : State) : Beside s (l.foldl f s) := by
  induction l generalizing s with
  | nil => exact beside_refl s
  | cons a r ih => exact beside_trans (h s a) (ih _)

theorem beside_raise (pg : Page) (bit : Nat) (ten : Option (BitVec 3)) (ps : Params) (s : State) : Beside s (raise pg bit ten ps s) :=
  beside_of_but (but_raise (Within.self _) (But.self _ s)) rfl (rawKept_raise _ _ _ _ _)

theorem beside_raiseUrgent (pg : Page) (bit n : Nat) (ten : Option (BitVec 3)) (ps : Params) (s : State) :
    Beside s (raiseUrgent pg bit n ten ps s) :=
  beside_of_but (but_raiseUrgent (Within.self _) (But.self _ s)) rfl (rawKept_raiseUrgent _ _ _ _ _ _)

theorem beside_note (pg : Page) (n : Nat) (ten : Option (BitVec 3)) (p0 p1 : Word) (s : State) : Beside s (note pg n ten p0 p1 s) :=
  beside_of_but (but_note (Within.self _) (But.self _ s)) rfl (rawKept_recordEvent _ _ _ _ _ _)

theorem beside_trio (x : Trio) (s : State) : Beside s { s with trio := x } := ⟨foothillView_congr rfl rfl rfl, rfl, rawKept_of_hdrs rfl⟩

theorem rawKept_updFunc (i : Fin 256) (f : FuncRt → FuncRt) (s : State) : rawKept s (updFunc i f s) := rawKept_of_hdrs rfl

theorem rawKept_setFunc (c : FuncCfg) (new : FuncState) (cause : BitVec 4) (s : State) : rawKept s (setFunc c new cause s) := by
  have reacts : ∀ f ps, rawKept s (raise .safety 1 (some c.tenant) ps (bump .safety 0x12 1 (updFunc c.number f s))) := fun f ps =>
    rawKept_trans (rawKept_trans (rawKept_updFunc _ _ _) (rawKept_bump _ _ _ _)) (rawKept_raise _ _ _ _ _)
  unfold setFunc
  dsimp only
  split
  · exact rawKept_refl s
  · split
    · exact rawKept_trans (reacts _ _) (rawKept_raiseUrgent _ _ _ _ _ _)
    · exact reacts _ _

theorem rawKept_stopFunc (noHold : Bool) (s : State) (c : FuncCfg) : rawKept s (stopFunc noHold s c) := by
  unfold stopFunc
  dsimp only
  split
  · split
    · exact rawKept_setFunc _ _ _ _
    · exact rawKept_refl s
  · split
    · split
      · exact rawKept_setFunc _ _ _ _
      · exact rawKept_refl s
    · split
      · exact rawKept_trans (rawKept_setFunc _ _ _ _) (rawKept_updFunc _ _ _)
      · exact rawKept_refl s

theorem rawKept_cancelSched (code : Option Byte) (s : State) : rawKept s (cancelSched code s) := by
  unfold cancelSched
  split
  · refine rawKept_trans ?_ (rawKept_raise _ _ _ _ _)
    exact rawKept_of_hdrs rfl
  · exact rawKept_refl s

theorem rawKept_cancelSlots (s : State) (c : Fin 16) : rawKept s (cancelSlots s c) := by
  unfold cancelSlots
  dsimp only
  split
  · exact rawKept_refl s
  · refine rawKept_trans ?_ (rawKept_raise _ _ _ _ _)
    exact rawKept_of_hdrs rfl

theorem rawKept_dropRejoin (s : State) : rawKept s (dropRejoin s) := by
  unfold dropRejoin
  split
  · exact rawKept_refl s
  · refine rawKept_trans ?_ (rawKept_raise _ _ _ _ _)
    exact rawKept_of_hdrs rfl

theorem beside_stopFunc (noHold : Bool) (s : State) (c : FuncCfg) : Beside s (stopFunc noHold s c) :=
  beside_of_but (but_stopFunc (Within.self _) (But.self _ s)) rfl (rawKept_stopFunc _ _ _)

theorem beside_cancelSched (code : Option Byte) (s : State) : Beside s (cancelSched code s) :=
  beside_of_but (but_cancelSched (Within.self _) (But.self _ s)) rfl (rawKept_cancelSched _ _)

theorem beside_cancelSlots (s : State) (c : Fin 16) : Beside s (cancelSlots s c) :=
  beside_of_but (but_cancelSlots (Within.self _) (But.self _ s)) rfl (rawKept_cancelSlots _ _)

theorem beside_dropRejoin (s : State) : Beside s (dropRejoin s) :=
  beside_of_but (but_dropRejoin (Within.self _) (But.self _ s)) rfl (rawKept_dropRejoin _)

theorem beside_cancelApp (code : Option Byte) (s : State) : Beside s (cancelApp code s) := by
  unfold cancelApp
  split
  · refine beside_trans ?_ (beside_raise _ _ _ _ _)
    exact ⟨foothillView_congr rfl rfl rfl, rfl, rawKept_of_hdrs rfl⟩
  · exact beside_refl s

/-- A stop ends with the safe values of the outputs, and reaches Foothill by them alone (R119, R171). -/
theorem stopController_safes (st : RunState) (keepSingle noHold : Bool) (s : State) :
    ∃ u, stopController st keepSingle noHold s = safeOutputs keepSingle u ∧ foothillView u = foothillView s ∧ u.run.state = st ∧
      rawKept s u := by
  have stops : ∀ x, Beside x ((List.finRange 16).foldl cancelSlots
      ((funcCfgs (cancelApp none (cancelSched none x))).foldl (stopFunc noHold) (cancelApp none (cancelSched none x)))) := fun x =>
    beside_trans (beside_trans (beside_cancelSched _ _) (beside_cancelApp _ _))
      (beside_trans (beside_foldl (beside_stopFunc noHold) _ _) (beside_foldl beside_cancelSlots _ _))
  unfold stopController
  refine ⟨_, rfl, (stops _).view.trans ?_, (stops _).state.trans ?_, rawKept_trans ?_ (stops _).raw⟩
  · exact foothillView_congr rfl rfl rfl
  · rfl
  · exact rawKept_of_hdrs rfl

/-- What a failure of the device does to Foothill: nothing, or the safe values of its outputs; no interrupt bit is lost. -/
structure FailedBy (s t : State) : Prop where
  raw : rawKept s t
  view : foothillView t = foothillView s ∨
    ∃ keep u, foothillView u = foothillView s ∧ foothillView t = foothillView (safeOutputs keep u)

theorem failedBy_of_beside {s t : State} (h : Beside s t) : FailedBy s t := ⟨h.raw, .inl h.view⟩

theorem rawKept_safeOutputs (keep : Bool) (s : State) : rawKept s (safeOutputs keep s) :=
  rawKept_of_hdrs (but_safeOutputs (Within.self _) (But.self _ s) .hdrs rfl)

theorem failedBy_stopController (st : RunState) (keepSingle noHold : Bool) (s : State) : FailedBy s (stopController st keepSingle noHold s) := by
  obtain ⟨u, eq, view, -, raw⟩ := stopController_safes st keepSingle noHold s
  rw [eq]
  exact ⟨rawKept_trans raw (rawKept_safeOutputs _ _), .inr ⟨keepSingle, u, view, rfl⟩⟩

/-- A failure before which something else happened beside Foothill. -/
theorem FailedBy.after {s t u : State} (h : Beside s t) (k : FailedBy t u) : FailedBy s u := by
  refine ⟨rawKept_trans h.raw k.raw, k.view.imp (·.trans h.view) ?_⟩
  rintro ⟨keep, x, hx, ht⟩
  exact ⟨keep, x, hx.trans h.view, ht⟩

/-- A failure after which something else happens beside Foothill. -/
theorem FailedBy.before {s t u : State} (h : FailedBy s t) (k : Beside t u) : FailedBy s u := by
  refine ⟨rawKept_trans h.raw k.raw, h.view.imp k.view.trans ?_⟩
  rintro ⟨keep, x, hx, ht⟩
  exact ⟨keep, x, hx, k.view.trans ht⟩

theorem failedBy_giveUp (cause : Nat) (s : State) : FailedBy s (giveUp cause s) := by
  unfold giveUp giveUpWith
  split
  · exact failedBy_of_beside (beside_refl s)
  · have told := fun x => beside_trans (beside_dropRejoin x) (beside_raiseUrgent .trio 1 507 none .unstated _)
    have stopped := failedBy_stopController (giveUpState cause false) (keepsSingle s && cause != 0x0C) (cause == 0x0A) s
    exact (stopped.before (beside_trio _ _)).before (told _)

theorem failedBy_failSelfTest (s : State) : FailedBy s (failSelfTest s) := by
  unfold failSelfTest
  split
  · exact failedBy_of_beside (beside_refl s)
  · exact failedBy_of_beside (beside_refl s)
  · exact failedBy_of_beside (beside_dropRejoin s)
  · split
    · exact failedBy_giveUp _ _
    · exact failedBy_stopController _ _ _ _
  · split
    · exact failedBy_giveUp _ _
    · exact .after (beside_dropRejoin s) (failedBy_stopController _ _ _ _)

theorem failedBy_startFails (code : Byte) (tile : BitVec 3) (s : State) : FailedBy s (startFails code tile s) := by
  refine ⟨rawKept_trans ?_ (beside_note _ _ _ _ _ _).raw, .inl ((beside_note _ _ _ _ _ _).view.trans ?_)⟩
  · exact rawKept_of_hdrs rfl
  · exact foothillView_congr rfl rfl rfl

theorem failedBy_failDevice (code : Byte) (tile : BitVec 3) (s : State) : FailedBy s (failDevice code tile s) := by
  unfold failDevice
  split
  · exact failedBy_startFails _ _ _
  · exact failedBy_failSelfTest _

/-- A running device that stands alone stops when it fails (R18). -/
theorem failDevice_stops {code : Byte} {tile : BitVec 3} {s : State} (h : startingUp s = false) (hr : s.run.state = .running)
    (ht : inTrio s = false) : (failDevice code tile s).run.state = .stopped := by
  obtain ⟨u, eq, -, state, -⟩ := stopController_safes .stopped false false s
  rw [failDevice, h, failSelfTest, hr, ht]
  simp only [Bool.false_eq_true, if_false]
  rw [eq, ← state]
  exact congrArg RunCtl.state (but_safeOutputs (Within.self _) (But.self _ u) .run rfl)

/-- A failure while the device starts up fails the start (R415). -/
theorem failDevice_startsNot {code : Byte} {tile : BitVec 3} {s : State} (h : startingUp s = true) :
    (failDevice code tile s).pwr = { s.pwr with stage := 15, startCode := code, startTile := tile } := by
  rw [failDevice, h, if_pos rfl, startFails, note_pwr]

/-! ### What is left of Foothill by a failure -/

/-- Foothill without what a refresh writes, the safe values and the waits. -/
def steadyPart (f : Field) : Field :=
  { f with
    doSafe := 0, tloSafe := 0, aoSafe := 0, doWait := 0, tloWait := 0, aoWait := 0, doSw := 0, tloSw := 0, doTerm := 0, tloHi := 0, tloLo := 0
    doBlank := 0, tloBlank := 0, doMis := 0, tloMis := 0, tloShort := 0, doExp := 0, tloExp := 0, aoAsk := Vector.replicate 16 0, trim := 0
    trimCode := 0 }

/-- What a failure may change of Foothill: beside what a refresh writes, the safe values and the waits, of which none begins. -/
structure SafeOnly (f g : Field) : Prop where
  steady : steadyPart g = steadyPart f
  waits : ∀ n, g.doWait.getLsbD n = true → f.doWait.getLsbD n = true

theorem SafeOnly.trans {f g k : Field} (h : SafeOnly f g) (i : SafeOnly g k) : SafeOnly f k :=
  ⟨i.steady.trans h.steady, fun n x => h.waits n (i.waits n x)⟩

theorem safeOnly_refreshField (s : State) : SafeOnly s.field (refreshField s).field := by
  constructor
  · simp only [steadyPart, refreshField, settleAsk, settleTrims, settleMis, updField]
  · intro n hn
    simpa only [refreshField, settleAsk, settleTrims, settleMis, updField] using hn

theorem safeOnly_safeOutputs (keep : Bool) (s : State) : SafeOnly s.field (safeOutputs keep s).field := by
  refine .trans ?_ (safeOnly_refreshField _)
  constructor
  · simp only [steadyPart, updField]
  · intro n hn
    simp only [updField, BitVec.getLsbD_and, Bool.and_eq_true] at hn
    exact hn.1

theorem FailedBy.safeOnly {s t : State} (h : FailedBy s t) : SafeOnly s.field t.field := by
  obtain same | ⟨keep, u, hu, ht⟩ := h.view
  · rw [field_of_view same]
    exact ⟨rfl, fun _ => id⟩
  · rw [← field_of_view hu, field_of_view ht]
    exact safeOnly_safeOutputs keep u

theorem FailedBy.settled {s t : State} (h : FailedBy s t) (hs : settled s) : settled t := by
  obtain same | ⟨keep, u, hu, ht⟩ := h.view
  · exact settled_congr same hs
  · exact settled_congr ht (settled_refreshField _)

theorem FailedBy.part {s t : State} (h : FailedBy s t) : t.part = s.part := by
  obtain same | ⟨keep, u, hu, ht⟩ := h.view
  · exact part_of_view same
  · have safe : (safeOutputs keep u).part = u.part := but_safeOutputs (Within.self _) (But.self _ u) .part rfl
    rw [part_of_view ht, safe, part_of_view hu]

theorem FailedBy.active {s t : State} (h : FailedBy s t) : t.run.active = s.run.active := by
  obtain same | ⟨keep, u, hu, ht⟩ := h.view
  · exact active_of_view same
  · have safe : (safeOutputs keep u).run = u.run := but_safeOutputs (Within.self _) (But.self _ u) .run rfl
    rw [active_of_view ht, safe, active_of_view hu]

/-! ### Without a field tile -/

theorem fieldLive_of_noField {s : State} (h : s.part.hasField = false) : fieldLive s = false := by rw [fieldLive, h, Bool.false_and]

theorem fieldLive_of_powered {s : State} (h : s.part.hasField = true) (hp : s.field.powered = true) : fieldLive s = true := by
  rw [fieldLive, h, hp]; rfl

theorem fieldTemp_noField (temp : BitVec 11) {s : State} (h : s.part.hasField = false) : fieldTemp temp s = s := by
  rw [fieldTemp, h]; rfl

/-- R7: a device without a field tile meets no event of one. -/
theorem fieldEvents_noField (pins : FieldPins) (mv : BitVec 16) (temp : BitVec 11) (s : State) (h : s.part.hasField = false) :
    exec (.fieldLinkFrame pins) s = .next s ∧ exec .fieldLinkTimeout s = .next s ∧ exec (.uvloEnter mv) s = .next s ∧
    exec (.foothillHot temp) s = .next s ∧ exec (.foothillShutdown temp) s = .next s ∧ exec .foothillPowerOn s = .next s ∧
    exec .foothillPowerLoss s = .next s ∧ exec .fieldFence s = .next s := by
  have live := fieldLive_of_noField h
  refine ⟨?_, ?_, ?_, ?_, ?_, ?_, ?_, ?_⟩ <;> apply congrArg Host.Outcome.next
  · rw [linkFrame, live]; rfl
  · rw [linkTimeout, h]; rfl
  · rw [uvloBegin, live, Bool.not_false, Bool.or_true, if_pos rfl, setVfield, h]; rfl
  · exact fieldTemp_noField temp h
  · rw [fieldShutdown, fieldTemp_noField temp h, live, Bool.not_false, Bool.or_true, if_pos rfl]
  · rw [foothillOn, h, Bool.not_false, Bool.or_true, if_pos rfl]
  · rw [foothillOff, live]; rfl
  · rw [fieldFenced, live]; rfl

/-! ### The field link comes up (R219, R224, R343) -/

theorem atOnce_getLsbD (s : State) (k : Fin 64) :
    (atOnce s).getLsbD k.val = true ↔ (∃ c, diCfg s k = some c ∧ c.debounceUs = 0) ∧ diBlanked s k = false := by
  have bit : (atOnce s).getLsbD k.val = ((diCfg s k).elim false (fun cfg => cfg.debounceUs = 0) && !diBlanked s k) :=
    bitsOf_channels 64 (fun c => (diCfg s c).elim false (fun cfg => cfg.debounceUs = 0) && !diBlanked s c) k
  rw [bit]
  cases diCfg s k <;> simp

/-- A frame while Foothill has power and PD_FIELD is neither OFF nor STOPPING. -/
theorem linkFrame_heard (pins : FieldPins) {s : State} (h : fieldLive s = true) (hoff : Vec.at s.super.pd 7 ≠ .off)
    (hstop : Vec.at s.super.pd 7 ≠ .stopping) :
    linkFrame pins s = if s.field.linkUp then takePins pins s
      else raise .field 3 none .unstated (hubUp (updField (fun f => { f with linkUp := true }) (takePins pins s))) := by
  unfold linkFrame
  simp only [h, beq_eq_false_iff_ne.2 hoff, beq_eq_false_iff_ne.2 hstop, Bool.not_true, Bool.or_self, Bool.false_eq_true, if_false]
  rfl

theorem eventFrame_raise (pg : Page) (bit : Nat) (ten : Option (BitVec 3)) (ps : Params) (s : State) : eventFrame s (raise pg bit ten ps s) :=
  raise_frame pg bit ten ps s

/-- A frame over a link that was down brings it up: LINK is raised and the hub's port is up (R219, R245). -/
theorem fieldLinkFrame_raisesLink (pins : FieldPins) {s : State} (h : fieldLive s = true) (hoff : Vec.at s.super.pd 7 ≠ .off)
    (hstop : Vec.at s.super.pd 7 ≠ .stopping) (hdown : s.field.linkUp = false) :
    ∃ t, exec (.fieldLinkFrame pins) s = .next t ∧ t.field = { (takePins pins s).field with linkUp := true } ∧
      t.safety = { s.safety with sealRaw := pins.sealIn } ∧ t.hub = { s.hub with up := setBit s.hub.up 8 true } ∧
      (hdrAt t .field).raw.getLsbD 3 = true ∧ eventFrame { s with field := t.field, safety := t.safety, hub := t.hub } t := by
  have heard := linkFrame_heard pins h hoff hstop
  rw [hdown, if_neg Bool.false_ne_true] at heard
  refine ⟨_, congrArg Host.Outcome.next heard, raise_field .., raise_safety .., raise_hub .., raise_sets _ _ _ _ _ (by decide), ?_⟩
  rw [raise_field, raise_safety, raise_hub]
  exact eventFrame_raise _ _ _ _ _

/-! ### No valid frame for 200 us (R219, R343) -/

theorem fieldLinkFalls_of_down {s : State} (h : s.field.linkUp = false) : fieldLinkFalls s = s := by
  rw [fieldLinkFalls, h]; rfl

/-- A link that falls raises LINK on Foothill's page and on the hub's, whose port goes down (R245, R431). -/
theorem fieldLinkFalls_of_up {s : State} (h : s.field.linkUp = true) :
    fieldLinkFalls s = raise .field 3 none .unstated (raiseSev .hub 0 none 4 .unstated
      { s with
        field := { s.field with linkUp := false }
        hub := { s.hub with up := setBit s.hub.up 8 false, down := setBit s.hub.down 8 true } }) := by
  rw [fieldLinkFalls, h]; rfl

theorem fieldLinkFalls_field (s : State) : (fieldLinkFalls s).field = { s.field with linkUp := false } := by
  cases h : s.field.linkUp
  · rw [fieldLinkFalls_of_down h, ← h]
  · rw [fieldLinkFalls_of_up h, raise_field, raiseSev_field]

theorem fieldLinkFalls_hub {s : State} (h : s.field.linkUp = true) :
    (fieldLinkFalls s).hub = { s.hub with up := setBit s.hub.up 8 false, down := setBit s.hub.down 8 true } := by
  rw [fieldLinkFalls_of_up h, raise_hub, raiseSev_hub]

theorem fieldLinkFalls_raises {s : State} (h : s.field.linkUp = true) :
    (hdrAt (fieldLinkFalls s) .field).raw.getLsbD 3 = true ∧ (hdrAt (fieldLinkFalls s) .hub).raw.getLsbD 0 = true := by
  rw [fieldLinkFalls_of_up h]
  exact ⟨raise_sets _ _ _ _ _ (by decide), rawKept_raise _ _ _ _ _ _ _ (raiseSev_sets _ _ _ _ _ _ (by decide))⟩

/-- Saddle's end of the link is down and Foothill is in ALONE. -/
def leftAlone (s : State) : State :=
  let s := fieldLinkFalls s
  if s.field.alone || !s.field.powered then s else note .field 0x81 none 0 0 (updField (fun f => { f with alone := true }) s)

theorem leftAlone_field {s : State} (h : s.field.powered = true) : (leftAlone s).field = { s.field with linkUp := false, alone := true } := by
  have falls := fieldLinkFalls_field s
  cases ha : s.field.alone
  · rw [leftAlone, falls, ha, h, Bool.not_true, Bool.or_self, if_neg Bool.false_ne_true, note_field, updField, falls]
  · rw [leftAlone, falls, ha, Bool.true_or, if_pos rfl, falls, ← ha]

theorem but_leftAlone (s : State) : But 0x4004040002 (fieldLinkFalls s) (leftAlone s) := by
  unfold leftAlone
  exact but_ite (.self _ _) (but_note ((Within.self _).le rfl) (but_updField ((Within.self _).le rfl) (.self _ _)))

theorem rawKept_leftAlone (s : State) : rawKept (fieldLinkFalls s) (leftAlone s) := by
  unfold leftAlone
  dsimp only
  split
  · exact rawKept_refl _
  · refine rawKept_trans ?_ (rawKept_recordEvent _ _ _ _ _ _)
    exact rawKept_of_hdrs rfl

/-- What a time-out of the link is for the device: nothing more where the start has already missed the tile or PD_FIELD is not ON, else a
failed self-test. -/
theorem linkTimeout_eq {s : State} (h : s.part.hasField = true) :
    linkTimeout s =
      if (if startingUp (refreshField (leftAlone s)) then !s.field.linkUp else Vec.at (refreshField (leftAlone s)).super.pd 7 != .on)
      then refreshField (leftAlone s) else failDevice 0xF1 7 (refreshField (leftAlone s)) := by
  rw [linkTimeout, h]; rfl

/-! ### Outputs in ALONE (R219) -/

theorem ioMapOf_congr {s t : State} (ha : t.run.active = s.run.active) (hm : t.field.heldMap = s.field.heldMap) : ioMapOf t = ioMapOf s := by
  rw [ioMapOf, ioMapOf, ha, hm]

theorem doDrive_alone_single {t : State} {n : Fin 24} {c : OutCfg} (hc : doCfg t n = some c) (hs : c.single = true)
    (ha : t.field.alone = true) : doDrive t n = false := by
  simp [doDrive, doOrdered, hc, hs, ha]

theorem doDrive_alone_all {t : State} {n : Fin 24} {c : OutCfg} (hc : doCfg t n = some c) (hs : c.single = false)
    (ha : t.field.alone = true) (hd : fieldDead t = false) (hw : t.field.doWait.getLsbD n.val = false) : doDrive t n = c.safeOn := by
  simp only [doDrive, doOrdered, hc, hs, ha, hd, hw, Bool.not_false, Bool.true_and, Bool.false_eq_true, if_false, Bool.true_or, if_true]

theorem tloDrive_alone {t : State} {n : Fin 8} (ha : t.field.alone = true) : tloDrive t n = false := by
  simp [tloDrive, tloOrdered, ha]

theorem aoDrive_alone_single {t : State} {n : Fin 16} {c : AoCfg} (hc : aoCfg t n = some c) (hs : c.single = true)
    (ha : t.field.alone = true) : aoDrive t n = none := by
  simp [aoDrive, aoOrdered, hc, hs, ha]

/-- In ALONE a channel that is not driven asks for no current, be it in trim mode. -/
theorem aoAsked_alone {t : State} {n : Fin 16} (ha : t.field.alone = true) (hn : aoDrive t n = none) : aoAsked t n = 0 := by
  simp [aoAsked, trimDrives, ha, hn]

theorem fieldDead_congr {s t : State} (hp : t.part = s.part) (hs : SafeOnly s.field t.field) : fieldDead t = fieldDead s := by
  have powered := congrArg Field.powered hs.steady
  have uvlo := congrArg Field.uvlo hs.steady
  have shutdown := congrArg Field.shutdown hs.steady
  simp only [steadyPart] at powered uvlo shutdown
  rw [fieldDead, fieldDead, fieldLive, fieldLive, hp, powered, uvlo, shutdown]

/-! ### What a time-out of the link leaves (R219) -/

/-- The device at the moment it has the time-out to handle as a failed self-test. -/
def timedOut (s : State) : State := refreshField (leftAlone s)

theorem but_timedOut (s : State) : But 0x4004040062 s (timedOut s) :=
  but_refreshField ((Within.self _).le rfl)
    (((but_fieldLinkFalls (Within.self _) (.self _ s)).trans ((but_leftAlone s).mono ((Within.self _).le rfl))))

theorem startingUp_timedOut (s : State) : startingUp (timedOut s) = startingUp s := by
  have same := but_timedOut s
  have pwr : (timedOut s).pwr = s.pwr := same .pwr rfl
  have sched : (timedOut s).sched = s.sched := same .sched rfl
  have run : (timedOut s).run = s.run := same .run rfl
  rw [startingUp, startingUp, pwr, sched, run]

theorem linkTimeout_cases (s : State) (h : s.part.hasField = true) :
    linkTimeout s = timedOut s ∨ linkTimeout s = failDevice 0xF1 7 (timedOut s) := by
  rw [linkTimeout_eq h]
  exact ite_eq_or_eq _ _ _

theorem failedBy_linkTimeout (s : State) (h : s.part.hasField = true) : FailedBy (timedOut s) (linkTimeout s) := by
  obtain e | e := linkTimeout_cases s h <;> rw [e]
  · exact failedBy_of_beside (beside_refl _)
  · exact failedBy_failDevice _ _ _

theorem linkTimeout_hub (s : State) (h : s.part.hasField = true) : (linkTimeout s).hub = (fieldLinkFalls s).hub := by
  have alone : (timedOut s).hub = (fieldLinkFalls s).hub :=
    but_refreshField (W := 0x4004040002) ((Within.self _).le rfl) (but_leftAlone s) .hub rfl
  obtain e | e := linkTimeout_cases s h <;> rw [e, ← alone]
  exact but_failDevice (Within.self _) (.self _ _) .hub rfl

theorem rawKept_linkTimeout (s : State) (h : s.part.hasField = true) : rawKept (fieldLinkFalls s) (linkTimeout s) :=
  rawKept_trans (rawKept_trans (rawKept_leftAlone s) (rawKept_of_hdrs (but_refreshField (Within.self _) (.self _ _) .hdrs rfl)))
    (failedBy_linkTimeout s h).raw

/-- Foothill after the time-out: in ALONE, and beside that at most its safe values and waits have changed. -/
theorem safeOnly_linkTimeout (s : State) (h : s.part.hasField = true) (hp : s.field.powered = true) :
    SafeOnly { s.field with linkUp := false, alone := true } (linkTimeout s).field := by
  rw [← leftAlone_field hp]
  exact (safeOnly_refreshField _).trans (failedBy_linkTimeout s h).safeOnly

theorem linkTimeout_part (s : State) (h : s.part.hasField = true) : (linkTimeout s).part = s.part :=
  (failedBy_linkTimeout s h).part.trans (but_timedOut s .part rfl)

theorem linkTimeout_active (s : State) (h : s.part.hasField = true) : (linkTimeout s).run.active = s.run.active :=
  (failedBy_linkTimeout s h).active.trans (congrArg RunCtl.active (but_timedOut s .run rfl))

/-- R219, R343, R415: a time-out of the field link. -/
theorem fieldLinkTimeout_leavesAlone (s : State) (h : s.part.hasField = true) (hp : s.field.powered = true) :
    ∃ t, exec .fieldLinkTimeout s = .next t ∧ t.field.linkUp = false ∧ t.field.alone = true ∧ switchesFollow t ∧
      (∀ n c, doCfg s n = some c → c.single = true → t.field.doSw.getLsbD n.val = false) ∧
      (∀ n c, doCfg s n = some c → c.single = false → fieldDead s = false → s.field.doWait.getLsbD n.val = false →
        s.field.doTrip.getLsbD n.val = false → t.field.doSw.getLsbD n.val = c.safeOn) ∧ t.field.tloSw = 0 ∧
      (∀ n c, aoCfg s n = some c → c.single = true → aoDrive t n = none ∧ Vec.at t.field.aoAsk n = 0) ∧
      (s.field.linkUp = true → (hdrAt t .field).raw.getLsbD 3 = true ∧ (hdrAt t .hub).raw.getLsbD 0 = true ∧
        t.hub.up.getLsbD 8 = false ∧ t.hub.down.getLsbD 8 = true) ∧
      (startingUp s = true → s.field.linkUp = true → t.pwr.stage = 15 ∧ t.pwr.startCode = 0xF1 ∧ t.pwr.startTile = 7) ∧
      (startingUp s = false → Vec.at s.super.pd 7 = .on → s.run.state = .running → inTrio s = false → t.run.state = .stopped) := by
  have safe := safeOnly_linkTimeout s h hp
  have steady := safe.steady
  have linkUp := congrArg Field.linkUp steady
  have alone := congrArg Field.alone steady
  have heldMap := congrArg Field.heldMap steady
  have doTrip := congrArg Field.doTrip steady
  simp only [steadyPart] at linkUp alone heldMap doTrip
  have settles := (failedBy_linkTimeout s h).settled (settled_refreshField _)
  obtain ⟨follow, ask⟩ := settles
  obtain ⟨dout, tlo, -⟩ := id follow
  have map := ioMapOf_congr (linkTimeout_active s h) heldMap
  have doCfgs : doCfg (linkTimeout s) = doCfg s := by funext n; rw [doCfg, doCfg, map]
  have aoCfgs : aoCfg (linkTimeout s) = aoCfg s := by funext n; rw [aoCfg, aoCfg, map]
  have dead : fieldDead (linkTimeout s) = fieldDead s :=
    (fieldDead_congr (s := { s with field := { s.field with linkUp := false, alone := true } }) (linkTimeout_part s h) safe).trans rfl
  refine ⟨linkTimeout s, rfl, linkUp, alone, follow, ?_, ?_, ?_, ?_, ?_, ?_, ?_⟩
  · intro n c hc hs
    rw [dout, doDrive_alone_single ((congrFun doCfgs n).trans hc) hs alone, Bool.false_and]
  · intro n c hc hs hd hw ht
    have wait : (linkTimeout s).field.doWait.getLsbD n.val = false := Bool.eq_false_iff.2 fun e => by
      have was := safe.waits n.val e
      rw [hw] at was
      cases was
    rw [dout, doDrive_alone_all ((congrFun doCfgs n).trans hc) hs alone (dead.trans hd) wait, doTrip, ht, Bool.not_false, Bool.and_true]
  · refine BitVec.eq_of_getLsbD_eq fun i hi => ?_
    rw [tlo ⟨i, hi⟩, tloDrive_alone alone, Bool.false_and]; simp
  · intro n c hc hs
    have off := aoDrive_alone_single ((congrFun aoCfgs n).trans hc) hs alone
    exact ⟨off, (ask n).trans (aoAsked_alone alone off)⟩
  · intro hu
    obtain ⟨field, hub⟩ := fieldLinkFalls_raises hu
    refine ⟨rawKept_linkTimeout s h _ _ field, rawKept_linkTimeout s h _ _ hub, ?_, ?_⟩
    · rw [linkTimeout_hub s h, fieldLinkFalls_hub hu, setBit_getLsbD, if_pos ⟨rfl, by decide⟩]
    · rw [linkTimeout_hub s h, fieldLinkFalls_hub hu, setBit_getLsbD, if_pos ⟨rfl, by decide⟩]
  · intro hs hu
    have starting := (startingUp_timedOut s).trans hs
    have fails : linkTimeout s = failDevice 0xF1 7 (timedOut s) := by
      rw [linkTimeout_eq h, ← timedOut, starting, hu]; rfl
    rw [fails, failDevice_startsNot starting]
    exact ⟨rfl, rfl, rfl⟩
  · intro hs hon hr ht
    have starting := (startingUp_timedOut s).trans hs
    have super : (timedOut s).super = s.super := but_timedOut s .super rfl
    have run : (timedOut s).run = s.run := but_timedOut s .run rfl
    have trio : (timedOut s).trio = s.trio := but_timedOut s .trio rfl
    have fails : linkTimeout s = failDevice 0xF1 7 (timedOut s) := by
      rw [linkTimeout_eq h, ← timedOut, starting, super, hon]; rfl
    rw [fails]
    refine failDevice_stops starting (by rw [run, hr]) ?_
    rw [inTrio, trio]; exact ht

/-! ### Events after a refresh -/

theorem eventFrame_refl (s : State) : eventFrame s s := rfl

theorem eventFrame_trans {s t u : State} (h : eventFrame s t) (k : eventFrame t u) : eventFrame s u := by
  unfold eventFrame at h k ⊢
  exact (congrArg (fun x : State => { x with hdrs := s.hdrs, recorder := s.recorder, free := s.free }) k :).trans h

theorem eventFrame_noteConds (pgs : List Page) (before s : State) : eventFrame s (noteConds pgs before s) := noteConds_frame pgs before s

theorem eventFrame_bump (pg : Page) (code n : Nat) (s : State) : eventFrame s (bump pg code n s) := by
  have frame := bump_frame pg code n s
  have recorder : (bump pg code n s).recorder = s.recorder := bump_recorder ..
  have free : (bump pg code n s).free = s.free := bump_free ..
  unfold eventFrame
  rw [← recorder, ← free]
  exact frame

theorem eventFrame_newFault (ten : Option (BitVec 3)) (s : State) : eventFrame s (newFault ten s) :=
  eventFrame_trans (eventFrame_bump _ _ _ _) (eventFrame_raise _ _ _ _ _)

theorem fieldDead_refreshField (s : State) : fieldDead (refreshField s) = fieldDead s :=
  fieldDead_congr (but_refreshField (Within.self _) (.self _ s) .part rfl) (safeOnly_refreshField s)

theorem setVfield_hasField (mv : BitVec 16) {s : State} (h : s.part.hasField = true) :
    setVfield mv s = updField (fun f => { f with vfield := mv }) s := by
  rw [setVfield, if_pos h]

/-! ### Supply and die temperature (R218, R220, R404) -/

/-- Foothill as under-voltage lock-out begins at a VFIELD of `mv` millivolts. -/
def lockedOut (mv : BitVec 16) (f : Field) : Field := { f with uvlo := true, vfield := mv }

/-- Foothill as under-voltage lock-out ends: every output waits for its next commit, every input for its debounce time and 10 ms. -/
def lockOutEnded (mv : BitVec 16) (f : Field) : Field :=
  { f with
    uvlo := false, vfield := mv, doWait := BitVec.allOnes 24, tloWait := BitVec.allOnes 8, aoWait := BitVec.allOnes 16
    diStart := BitVec.allOnes 64 }

theorem uvloBegin_eq (mv : BitVec 16) {s : State} (h : s.part.hasField = true) (hp : s.field.powered = true) (hu : s.field.uvlo = false) :
    uvloBegin mv s = newFault none (noteConds [.field] s (refreshField (updField (lockedOut mv) s))) := by
  rw [uvloBegin, hu, fieldLive_of_powered h hp, setVfield_hasField mv h]; rfl

theorem uvloEnd_eq (mv : BitVec 16) {s : State} (h : s.part.hasField = true) (hu : s.field.uvlo = true) :
    uvloEnd mv s = noteConds [.field] s (refreshField (updField (lockOutEnded mv) s)) := by
  rw [uvloEnd, hu, setVfield_hasField mv h]; rfl

/-- R218: under-voltage lock-out switches everything off. -/
theorem uvloEnter_switchesOff (mv : BitVec 16) (s : State) (h : s.part.hasField = true) (hp : s.field.powered = true)
    (hu : s.field.uvlo = false) :
    ∃ t, exec (.uvloEnter mv) s = .next t ∧ fieldChanged (lockedOut mv) s t ∧ allOff t ∧ asksNothing t ∧ tpsOn t = 0 ∧
      (∀ n, diBroken t n = true) ∧ faultRaised t := by
  have enters := uvloBegin_eq mv h hp hu
  have frame : eventFrame (refreshField (updField (lockedOut mv) s)) (uvloBegin mv s) := by
    rw [enters]
    exact eventFrame_trans (eventFrame_noteConds _ _ _) (eventFrame_newFault _ _)
  have view := view_of_eventFrame frame
  have stands := settled_congr view (settled_refreshField _)
  have uvlo : (uvloBegin mv s).field.uvlo = true := by
    rw [field_of_view view]
    exact congrArg Field.uvlo (safeOnly_refreshField (updField (lockedOut mv) s)).steady
  have dead : fieldDead (uvloBegin mv s) = true := by simp [fieldDead, uvlo]
  refine ⟨_, rfl, fieldChanged_refreshField frame, allOff_of_fieldDead stands dead, asksNothing_of_fieldDead stands dead,
    tpsOn_of_fieldDead dead, fun n => ?_, ?_⟩
  · simp [diBroken, uvlo]
  · rw [faultRaised, enters, newFault]
    exact raise_sets _ _ _ _ _ (by decide)

theorem allOff_of_waiting {t : State} (hs : settled t) (hd : t.field.doWait = BitVec.allOnes 24) (ht : t.field.tloWait = BitVec.allOnes 8)
    (ha : t.field.aoWait = BitVec.allOnes 16) : allOff t := by
  obtain ⟨⟨dout, tlo, -⟩, -⟩ := hs
  refine ⟨BitVec.eq_of_getLsbD_eq fun i hi => ?_, BitVec.eq_of_getLsbD_eq fun i hi => ?_, fun n => ?_⟩
  · rw [dout ⟨i, hi⟩, doDrive, hd, BitVec.getLsbD_allOnes, decide_eq_true hi]; simp
  · rw [tlo ⟨i, hi⟩, tloDrive, ht, BitVec.getLsbD_allOnes, decide_eq_true hi]; simp
  · rw [aoDrive, ha, BitVec.getLsbD_allOnes, decide_eq_true n.isLt, Bool.or_true, if_pos rfl]

/-- R218: after the lock-out every output waits for its next commit, and every input for its debounce time and 10 ms. -/
theorem uvloExit_holdsOutputs (mv : BitVec 16) (s : State) (h : s.part.hasField = true) (hu : s.field.uvlo = true) :
    ∃ t, exec (.uvloExit mv) s = .next t ∧ allOff t ∧ (∀ n, diBroken t n = true) ∧ fieldChanged (lockOutEnded mv) s t := by
  have frame : eventFrame (refreshField (updField (lockOutEnded mv) s)) (uvloEnd mv s) := by
    rw [uvloEnd_eq mv h hu]
    exact eventFrame_noteConds _ _ _
  have view := view_of_eventFrame frame
  have same := (driveInputs_of_view view).trans (driveInputs_refreshField (updField (lockOutEnded mv) s))
  have stands := settled_congr view (settled_refreshField _)
  have diStart : (uvloEnd mv s).field.diStart = BitVec.allOnes 64 := congrArg (fun x => x.field.diStart) same
  refine ⟨_, rfl, allOff_of_waiting stands (congrArg (fun x => x.field.doWait) same) (congrArg (fun x => x.field.tloWait) same)
    (congrArg (fun x => x.field.aoWait) same), fun n => ?_, fieldChanged_refreshField frame⟩
  rw [diBroken, diStart, BitVec.getLsbD_allOnes, decide_eq_true n.isLt]; simp

/-- Foothill with a die temperature and its HOT condition. -/
def temperatureRead (temp : BitVec 11) (f : Field) : Field := { f with temp := temp, hot := decide (145 * 4 ≤ temp.toInt) }

/-- R220: a die temperature and its HOT condition. -/
theorem fieldTemp_exactly (temp : BitVec 11) {s : State} (h : s.part.hasField = true) :
    fieldExactly (temperatureRead temp) s (fieldTemp temp s) := by
  have eq : fieldTemp temp s = noteConds [.field] s (updField (temperatureRead temp) s) := by
    rw [fieldTemp, h]; rfl
  rw [fieldExactly, eq, noteConds_field]
  exact ⟨rfl, eventFrame_noteConds _ _ _⟩

/-- Everything is off after a reading at 155 degrees. -/
def overheated (temp : BitVec 11) (s : State) : State :=
  refreshField (updField (fun f => { f with shutdown := true }) (fieldTemp temp s))

theorem safeOnly_overheated (temp : BitVec 11) {s : State} (h : s.part.hasField = true) :
    SafeOnly { temperatureRead temp s.field with shutdown := true } (overheated temp s).field := by
  obtain ⟨field, -⟩ := fieldTemp_exactly temp h
  rw [← field]
  exact safeOnly_refreshField (updField (fun f => { f with shutdown := true }) (fieldTemp temp s))

/-- The device at the moment it has the shutdown at 155 degrees to handle as a failed self-test. -/
def shutDown (temp : BitVec 11) (s : State) : State := note .field 0x80 none (temp.signExtend 32) 0 (overheated temp s)

theorem but_shutDown (temp : BitVec 11) (s : State) : But 0x4004040002 s (shutDown temp s) :=
  but_note ((Within.self _).le rfl) (but_refreshField ((Within.self _).le rfl) (but_updField ((Within.self _).le rfl)
    (but_fieldTemp ((Within.self _).le rfl) (.self _ s))))

theorem fieldShutdown_eq (temp : BitVec 11) {s : State} (h : s.part.hasField = true) (hp : s.field.powered = true)
    (hs : s.field.shutdown = false) : fieldShutdown temp s = failDevice 0xF5 7 (shutDown temp s) := by
  obtain ⟨field, -⟩ := fieldTemp_exactly temp h
  have part : (fieldTemp temp s).part = s.part := but_fieldTemp (Within.self _) (.self _ s) .part rfl
  have live : fieldLive (fieldTemp temp s) = true := by
    refine fieldLive_of_powered (by rw [part, h]) ?_
    rw [field]; exact hp
  have shut : (fieldTemp temp s).field.shutdown = false := by rw [field]; exact hs
  rw [fieldShutdown, shut, live]; rfl

/-- R220: at 155 degrees everything switches off and the device fails its self-test. -/
theorem foothillShutdown_switchesOff (temp : BitVec 11) (s : State) (h : s.part.hasField = true) (hp : s.field.powered = true)
    (hs : s.field.shutdown = false) :
    ∃ t, exec (.foothillShutdown temp) s = .next t ∧ t.field.shutdown = true ∧ t.field.temp = temp ∧ allOff t ∧ asksNothing t ∧
      tpsOn t = 0 ∧ (startingUp s = false → s.run.state = .running → inTrio s = false → t.run.state = .stopped) := by
  have fails := failedBy_failDevice 0xF5 7 (shutDown temp s)
  rw [← fieldShutdown_eq temp h hp hs] at fails
  have noted := beside_note .field 0x80 none (temp.signExtend 32) 0 (overheated temp s)
  have safe : SafeOnly { temperatureRead temp s.field with shutdown := true } (fieldShutdown temp s).field := by
    refine .trans ?_ fails.safeOnly
    rw [shutDown, field_of_view noted.view]
    exact safeOnly_overheated temp h
  have shutdown : (fieldShutdown temp s).field.shutdown = true := congrArg Field.shutdown safe.steady
  have stands := fails.settled (settled_congr noted.view (settled_refreshField _))
  have dead : fieldDead (fieldShutdown temp s) = true := by rw [fieldDead, shutdown, Bool.or_true]
  refine ⟨_, rfl, shutdown, congrArg Field.temp safe.steady, allOff_of_fieldDead stands dead, asksNothing_of_fieldDead stands dead,
    tpsOn_of_fieldDead dead, fun hst hr ht => ?_⟩
  have same := but_shutDown temp s
  have pwr : (shutDown temp s).pwr = s.pwr := same .pwr rfl
  have sched : (shutDown temp s).sched = s.sched := same .sched rfl
  have run : (shutDown temp s).run = s.run := same .run rfl
  have trio : (shutDown temp s).trio = s.trio := same .trio rfl
  rw [fieldShutdown_eq temp h hp hs]
  refine failDevice_stops ?_ (by rw [run, hr]) ?_
  · rw [startingUp, pwr, sched, run]; exact hst
  · rw [inTrio, trio]; exact ht

/-- R404, R244: Foothill takes a power-on reset of its own. -/
theorem foothillPowerOn_restores (s : State) (hp : s.field.powered = false) (h : s.part.hasField = true) :
    ∃ t, exec .foothillPowerOn s = .next t ∧ t.field = { linkUp := false } ∧ t.panel = {} ∧
      hdrAt t .field = {} ∧ hdrAt t .panel = {} ∧ (∀ pg, pg ≠ .field → pg ≠ .panel → hdrAt t pg = hdrAt s pg) ∧
      { t with field := s.field, panel := s.panel, hdrs := s.hdrs, latches := s.latches, heldLow := s.heldLow } = s := by
  have resets : foothillOn s = resetFoothill false s := by rw [foothillOn, hp, h]; rfl
  have hdr : ∀ pg, hdrAt (resetFoothill false s) pg = hdrAt (updHdr .panel (fun _ => {}) (updHdr .field (fun _ => {}) s)) pg := fun _ => rfl
  refine ⟨_, congrArg Host.Outcome.next resets, rfl, rfl, ?_, ?_, fun pg hf hpan => ?_, rfl⟩
  · rw [hdr, hdrAt_updHdr_ne _ _ _ _ (by decide), hdrAt_updHdr_same]
  · rw [hdr, hdrAt_updHdr_same]
  · rw [hdr, hdrAt_updHdr_ne _ _ _ _ hpan, hdrAt_updHdr_ne _ _ _ _ hf]

/-- R404: an unpowered Foothill drives nothing. -/
theorem foothillPowerLoss_switchesOff (s : State) (h : s.part.hasField = true) (hp : s.field.powered = true) :
    ∃ t, exec .foothillPowerLoss s = .next t ∧ fieldChanged (fun f => { f with powered := false }) s t ∧ allOff t ∧ asksNothing t ∧
      { t with field := s.field } = s := by
  have loses : foothillOff s = refreshField (updField (fun f => { f with powered := false }) s) := by
    rw [foothillOff, if_pos (fieldLive_of_powered h hp)]
  have stands := settled_refreshField (updField (fun f => { f with powered := false }) s)
  have dead : fieldDead (refreshField (updField (fun f => { f with powered := false }) s)) = true := by
    rw [fieldDead_refreshField]; simp [fieldDead, fieldLive, updField]
  refine ⟨_, congrArg Host.Outcome.next loses, fieldChanged_refreshField (eventFrame_refl _), allOff_of_fieldDead stands dead,
    asksNothing_of_fieldDead stands dead, ?_⟩
  rw [refreshField_eq, updField]

/-- Settles O33: the events of the field link, the supply and the die temperature, each by its lemma above; what a failed self-test adds at
Foothill is that its outputs take their safe values (`FailedBy`). -/
theorem fieldLinkSupplyAndTemperature : Obligations.FieldLinkSupplyAndTemperature := by
  unfold Obligations.FieldLinkSupplyAndTemperature
  refine ⟨fieldEvents_noField, fun pins s h hp hoff hstop => ?_, fieldLinkTimeout_leavesAlone, uvloEnter_switchesOff, uvloExit_holdsOutputs,
    fun temp s h => ⟨_, rfl, fieldTemp_exactly temp h⟩, foothillShutdown_switchesOff, foothillPowerOn_restores,
    foothillPowerLoss_switchesOff⟩
  have live := fieldLive_of_powered h hp
  refine ⟨atOnce_getLsbD s, fun hup => ?_, fieldLinkFrame_raisesLink pins live hoff hstop⟩
  have heard := linkFrame_heard pins live hoff hstop
  rw [hup, if_pos rfl] at heard
  exact congrArg Host.Outcome.next heard

end Sys2Proof.Machine

/-! Proofs about the state after reset: what every register page reads, page by page along the register tables (chapter 17), and the
canonical form of the empty memories. -/
namespace Sys2Proof.Machine
open Sys2Proof.Stmt

/-! ### Tables of like entries -/

@[simp] theorem Vec.at_replicate {α : Type} (n : Nat) (x : α) (i : Fin n) : Vec.at (Vector.replicate n x) i = x := by
  rw [Vec.at, Fin.getElem_fin, Vector.getElem_replicate]

theorem getD_replicate {α : Type} (n i : Nat) (x : α) : ((Vector.replicate n x)[i]?).getD x = x := by
  rw [Vector.getElem?_replicate]; split <;> rfl

theorem crests_reset (c : Fin 6) : Vec.at State.reset.crests c = {} := Vec.at_replicate 6 ({} : Crest) c
theorem ports_reset (i : Fin 10) : Vec.at State.reset.ports i = {} := Vec.at_replicate 10 ({} : EthPort) i
theorem cans_reset (c : Fin 16) : Vec.at State.reset.cans c = {} := Vec.at_replicate 16 ({} : Can) c
theorem uarts_reset (u : Fin 8) : Vec.at State.reset.uarts u = {} := Vec.at_replicate 8 ({} : Uart) u
theorem mail_reset (n : Fin 32) : Vec.at State.reset.mail n = {} := Vec.at_replicate 32 ({} : Mailbox) n
theorem hdrAt_reset (pg : Page) : hdrAt State.reset pg = {} := Vec.at_replicate 72 ({} : PageHdr) (pgIdx pg)

/-! ### Pages that read 0 -/

theorem hostReg_reset (off : Nat) : hostReg State.reset off = 0 := by
  unfold hostReg
  dsimp only
  split
  case h_4 => split <;> rfl
  all_goals rfl

theorem schedReg_reset (off : Nat) : schedReg State.reset off = 0 := by
  unfold schedReg
  split <;> rfl

theorem stationRt_reset (n : Fin 256) : stationRt State.reset n = {} := Vec.at_replicate 256 ({} : StationRt) n

theorem bitsOf_false (n : Nat) (f : Nat → Bool) (h : ∀ i, i < n → f i = false) : bitsOf n f = 0 :=
  BitVec.eq_of_getLsbD_eq fun i hi => by rw [bitsOf_getLsbD, h i hi, Bool.and_false]; exact BitVec.getLsbD_zero.symm

theorem forces_reset (i : Fin 256) : Vec.at State.reset.run.forces i = none := Vec.at_replicate 256 (none : Option Force) i

theorem forceCount_reset : forceCount State.reset = 0 :=
  List.countP_eq_zero.2 fun i _ => by rw [forces_reset]; decide

theorem runStat_reset : runReg State.reset 0x100 = 0 := by
  have trips : ((List.finRange 256).any fun i => (Vec.at State.reset.run.forces i).elim false (tripForce State.reset)) = false :=
    List.any_eq_false.2 fun i _ => by rw [forces_reset]; exact Bool.false_ne_true
  simp only [runReg, forceCount_reset, trips]
  rfl

theorem runReg_reset (off : Nat) : runReg State.reset off = 0 := by
  by_cases h : off = 0x100
  · rw [h, runStat_reset]
  · unfold runReg
    dsimp only
    split
    case h_1 => exact absurd rfl h
    case h_16 =>
      split
      · exact bitsOf_false _ _ fun i _ => by rw [stationRt_reset]
      · rfl
    all_goals rfl

theorem safetyReg_reset (off : Nat) : safetyReg State.reset off = 0 := by
  unfold safetyReg
  dsimp only
  split <;> rfl

theorem hisReg_reset (off : Nat) : hisReg State.reset off = 0 := by
  unfold hisReg
  dsimp only
  split <;> rfl

theorem loopReg_reset (c : Fin 6) (off : Nat) : loopReg State.reset c off = 0 := by
  have owner : ∀ l, loopOwner State.reset c l = none := fun _ => rfl
  have scheduled : ∀ l, loopScheduled State.reset c l = false := fun _ => rfl
  unfold loopReg
  rw [crests_reset]
  dsimp only
  split
  case h_4 => rw [owner, scheduled]; rfl
  case h_11 =>
    split
    · exact getD_replicate 16 _ 0
    · split
      · exact getD_replicate 8 _ 0
      · split
        · exact getD_replicate 64 _ 0
        · rfl
  all_goals rfl

/-! ### Pages with values of their own -/

theorem powerReg_reset (off : Nat) : powerReg State.reset off = resetWord .power off := by
  unfold powerReg resetWord
  dsimp only
  split
  case h_12 => grind
  all_goals rfl

theorem trioReg_reset (off : Nat) : trioReg State.reset off = resetWord .trio off := by
  unfold trioReg resetWord
  dsimp only
  split
  case h_13 => grind
  all_goals rfl

theorem tbReg_reset (off : Nat) : tbReg State.reset off = resetWord .timebase off := by
  unfold tbReg resetWord
  dsimp only
  split
  case h_18 => grind
  all_goals rfl

theorem updReg_reset (off : Nat) : updReg State.reset off = resetWord .update off := by
  unfold updReg resetWord
  dsimp only
  split
  case h_11 => grind
  all_goals rfl

theorem superReg_reset (off : Nat) : superReg State.reset off = resetWord .supervisor off := by
  have tags : ∀ i, Vec.at State.reset.super.tags i = {} := Vec.at_replicate 4 ({} : Tag)
  unfold superReg resetWord
  dsimp only
  split
  case h_9 => 
    have tag : fld ({} : Tag).tenant 0 ||| flag ({} : Tag).kernel 3 ||| fld ({} : Tag).window 4 = 8 := rfl
    rw [tags, tag]
    grind
  all_goals rfl

theorem fieldReg_reset (off : Nat) : fieldReg State.reset off = resetWord .field off := by
  unfold fieldReg resetWord
  dsimp only
  split
  case h_26 => grind
  all_goals rfl

/-! ### Pages with tables -/

theorem uartReg_reset (u : Fin 8) (off : Nat) : uartReg State.reset u off = resetWord (.uart u) off := by
  unfold uartReg resetWord uartAt
  rw [uarts_reset]
  dsimp only
  split
  case h_7 => grind
  all_goals rfl

theorem xSel_reset (c : Fin 6) : xSel State.reset c = {} := by
  rw [xSel, crests_reset]; rfl

theorem engineReg_reset (c : Fin 6) (off : Nat) : engineReg State.reset c off = resetWord (.engine c) off := by
  have unread : ∀ k : Nat, ((({} : Crest).readings)[k]?).getD 0 = 0 := fun k => getD_replicate 8 k (0 : BitVec 12)
  unfold engineReg resetWord
  rw [crests_reset, xSel_reset]
  dsimp only
  split
  case h_17 =>
    rw [unread, unread]
    have word : fld (0 : BitVec 12) 0 ||| fld (0 : BitVec 12) 16 = 0 := rfl
    rw [word]
    grind
  all_goals rfl

/-- An empty CAN buffer holds no byte. -/
theorem canBuffer_empty : canBuffer {} 0 = List.replicate 128 0 := rfl

theorem wordOf_zeros (n : Nat) : wordOf (List.replicate n 0) = 0 := by
  have zeros : ∀ m, ofBytes (List.replicate m 0) = 0 := fun m => by
    induction m with
    | zero => rfl
    | succ m ih => rw [List.replicate_succ, ofBytes, ih]; rfl
  rw [wordOf, List.take_replicate, zeros]; rfl

theorem canReg_reset (c : Fin 16) (off : Nat) : canReg State.reset c off = resetWord (.can c) off := by
  have filter : filterSel State.reset c = none := rfl
  have buffer : wordOf ((canBuffer {} (0 : Fin 64).val).drop (off - 0x200)) = 0 := by
    rw [Fin.val_zero, canBuffer_empty, List.drop_replicate, wordOf_zeros]
  unfold canReg resetWord
  rw [filter, canAt, cans_reset]
  dsimp only
  split
  case h_16 =>
    rw [buffer]
    grind
  all_goals rfl

theorem gateAt_reset (p : Fin 8) : gateAt State.reset p (schedNow State.reset) = 0xFF := rfl

theorem ethReg_reset (i : Fin 10) (off : Nat) : ethReg State.reset i off = if off = 0x108 then 0xFFFF else 0 := by
  have entry : mcfEntry State.reset i = none := by unfold mcfEntry; split <;> rfl
  have gate : ∀ p, defaultGate State.reset p = 0xFF := fun _ => rfl
  unfold ethReg
  rw [entry, ports_reset]
  dsimp only
  split
  case h_1 => rw [gate, gateAt_reset]; rfl
  case h_14 => grind
  all_goals rfl

theorem portReg_reset (i : Fin 10) (off : Nat) : portReg State.reset i off = resetWord (.port i) off := by
  have paired : ∀ p, portPaired State.reset p = false := fun _ => rfl
  have lan : ∀ p, portLan State.reset p = 0 := fun _ => rfl
  have up : (if i = 8 then State.reset.trio.upA else State.reset.trio.upB) = false := ite_self _
  have kind : isTrioPort i = !decide (i.val < 8) := by rw [isTrioPort]; grind
  unfold portReg resetWord
  rw [ports_reset, ethReg_reset, kind]
  dsimp only
  by_cases h : i.val < 8
  · rw [decide_eq_true h, if_pos h]
    split
    case h_2 => rw [paired, lan]; rfl
    case h_8 => grind
    all_goals rfl
  · rw [decide_eq_false h, if_neg h]
    split
    case h_2 => rw [Bool.not_false, if_pos rfl, up]; rfl
    case h_8 => grind
    all_goals rfl

theorem recReg_reset (w : Requester) (off : Nat) : recReg State.reset w off = resetWord .recorder off := by
  have kept : ∀ k : Nat, ((regionSel State.reset).drops[k]?).getD 0 = 0 := fun k => getD_replicate 8 k (0 : BitVec 16)
  have window : ∀ i k, entryWord State.reset w i k = 0 := fun _ _ => rfl
  unfold recReg resetWord
  dsimp only
  split
  case h_16 =>
    rw [kept, kept, window]
    have word : fld (0 : BitVec 16) 0 ||| fld (0 : BitVec 16) 16 = 0 := rfl
    rw [word]
    grind
  case h_11 | h_12 | h_13 | h_14 | h_15 => cases w <;> rfl
  all_goals rfl

theorem panelReg_reset (off : Nat) : panelReg State.reset off = resetWord .panel off := by
  have shadow : ∀ k : Nat, (State.reset.panel.shadow[k]?).getD 0 = 0 := fun k => getD_replicate 8 k (0 : BitVec 96)
  have zero : ∀ lo, bits (0 : BitVec 96) lo 32 = 0 := fun lo => by
    rw [bits]; simp
  unfold panelReg resetWord
  dsimp only
  split
  case h_11 =>
    rw [shadow, zero]
    grind
  all_goals rfl

theorem mailReg_reset (sec : Bool) (off : Nat) (h : 0x100 ≤ off) :
    mailReg State.reset sec off = if off < 0x200 ∧ off % 16 = 0 then 0xFF else 0 := by
  have empty : ∀ k : Nat, ((({} : Mailbox).msg)[k]?).getD 0 = 0 := fun k => getD_replicate 16 k (0 : Word)
  unfold mailReg
  simp only [mail_reset, empty]
  split
  next inner =>
    have below : off < 0x200 := by
      rw [Bool.and_eq_true, decide_eq_true_eq, decide_eq_true_eq] at inner
      exact inner.2
    split
    case h_1 e => rw [if_pos ⟨below, e⟩]; rfl
    case h_2 e => rw [if_neg (by omega)]; rfl
    case h_3 e _ => rw [if_neg fun x => e x.2]
  next outer =>
    have above : ¬ (off < 0x200 ∧ off % 16 = 0) := fun x => outer (by simp [h, x.1])
    rw [if_neg above]
    split <;> rfl

/-! ### The interrupt page -/

/-- At reset no source is asserted (R332, R336). -/
theorem srcAsserted_reset (n : Nat) : srcAsserted State.reset n = false := by
  have quiet : ∀ pg, pgAsserted State.reset pg = false := fun pg => by
    rw [pgAsserted, hdrAt_reset]
    simp
  have urgent : State.reset.super.urgent = 0 := rfl
  unfold srcAsserted
  simp only [mail_reset, quiet, urgent]
  split
  · exact BitVec.getLsbD_zero
  · split
    · rfl
    · split
      · exact Bool.and_false _
      · rfl

theorem irqTop_reset (c : Fin 4) : irqTop State.reset c = 0 := by
  have nothing : ((List.range 512).reverse.find? fun n =>
      srcAsserted State.reset n && srcEnabled State.reset n && (srcCore State.reset n).toNat == c.val) = none :=
    List.find?_eq_none.2 fun n _ => by rw [srcAsserted_reset]; exact Bool.false_ne_true
  rw [irqTop, nothing]; rfl

/-- The enable field of a source: the urgent ones cannot be disabled (R336). -/
theorem srcWord_reset (off : Nat) :
    fld (srcCore State.reset ((off - 0x800) / 4)) 0 ||| flag (srcEnabled State.reset ((off - 0x800) / 4)) 2 |||
      flag (srcAsserted State.reset ((off - 0x800) / 4)) 3 = if 0xFC0 ≤ off then 4 else 0 := by
  have core : ∀ n, srcCore State.reset n = 0 := fun n => getD_replicate 512 n (0 : BitVec 2)
  have enable : ∀ n, State.reset.super.enable.getLsbD n = false := fun _ => BitVec.getLsbD_zero
  rw [core, srcAsserted_reset, srcEnabled, enable, Bool.or_false]
  by_cases h : 0xFC0 ≤ off
  · rw [if_pos h, decide_eq_true (by omega : 496 ≤ (off - 0x800) / 4)]; rfl
  · rw [if_neg h, decide_eq_false (by omega : ¬ 496 ≤ (off - 0x800) / 4)]; rfl

theorem irqReg_reset (off : Nat) : irqReg State.reset off = resetWord .interrupt off := by
  have thr : ∀ c, (Vec.at State.reset.super.thr c).setWidth 32 = (0 : Word) := fun c => by
    rw [show Vec.at State.reset.super.thr c = 0 from Vec.at_replicate 4 (0 : BitVec 9) c]; rfl
  have clear : (bitsOf 32 fun _ => false) = 0 := bitsOf_false _ _ fun _ _ => rfl
  have hold : flag State.reset.super.hold 0 = 0 := rfl
  have urgent : State.reset.super.urgent.setWidth 32 = (0 : Word) := rfl
  have top : num 0 0 = 0 := rfl
  unfold irqReg resetWord
  simp only [srcWord_reset]
  simp only [irqTop_reset, thr, srcAsserted_reset, clear, hold, urgent, top]
  grind

theorem memoriesOk_reset : State.reset.memoriesOk := by
  refine ⟨rfl, rfl, fun c => ?_, fun n => ?_, ⟨rfl, rfl, rfl, rfl⟩, rfl, fun c => ?_, fun u => ?_⟩
  · have engine : ∀ e, Vec.at ({} : Crest).engines e = {} := Vec.at_replicate 18 ({} : Engine)
    rw [crests_reset]
    exact ⟨fun e => by rw [engine]; exact ⟨rfl, rfl⟩, rfl, rfl⟩
  · have station := stationRt_reset n
    rw [stationRt] at station
    rw [station]
    exact ⟨rfl, rfl⟩
  · rw [cans_reset]
    exact ⟨rfl, rfl, rfl⟩
  · rw [uarts_reset]; rfl
/-! ### Every page -/

/-- After reset a register word reads the value that the register tables give it (Ch. 17). -/
theorem pageReg_reset (w : Requester) (pg : Page) (off : Nat) (hv : hasResetValues pg) (h : 0x100 ≤ off) :
    pageReg State.reset w pg off = resetWord pg off := by
  cases pg with
  | directory | secDirectory | hub | switch _ | security => exact hv.elim
  | interrupt => exact irqReg_reset off
  | mailbox => exact mailReg_reset false off h
  | secMailbox => exact mailReg_reset true off h
  | supervisor => exact superReg_reset off
  | hostLink => exact hostReg_reset off
  | power => exact powerReg_reset off
  | schedule => exact schedReg_reset off
  | runControl => exact runReg_reset off
  | trio => exact trioReg_reset off
  | safety => exact safetyReg_reset off
  | timebase => exact tbReg_reset off
  | recorder => exact recReg_reset w off
  | historian => exact hisReg_reset off
  | update => exact updReg_reset off
  | port i => exact portReg_reset i off
  | can c => exact canReg_reset c off
  | uart u => exact uartReg_reset u off
  | engine c => exact engineReg_reset c off
  | loopArray c => exact loopReg_reset c off
  | field => exact fieldReg_reset off
  | panel => exact panelReg_reset off

/-- An engine after reset (Table 3.1). -/
theorem engine_reset (c : Fin 6) (e : Fin 18) : Vec.at (Vec.at State.reset.crests c).engines e = {} := by
  rw [crests_reset]
  exact Vec.at_replicate 18 ({} : Engine) e

/-- Settles O57: every page by its lemma above, the memories by `memoriesOk_reset`, and the rest by what `State.reset` names. -/
theorem resetLeavesTheSpecValues : Obligations.ResetLeavesTheSpecValues := by
  unfold Obligations.ResetLeavesTheSpecValues
  refine ⟨fun w pg k hv h _ => ?_, hdrAt_reset, memoriesOk_reset, rfl, rfl, rfl, rfl, rfl, forces_reset, rfl, rfl, rfl, rfl, rfl, rfl, rfl, rfl,
    rfl, rfl, rfl, fun c e => ?_, fun c => ?_, fun p => ?_⟩
  · rw [plainReg, if_neg (by omega)]
    exact pageReg_reset w pg (4 * k) hv (by omega)
  · rw [engine_reset]
    exact ⟨rfl, rfl, Vec.at_replicate 32 (0 : Word)⟩
  · rw [cans_reset]
    exact ⟨rfl, rfl⟩
  · rw [portAt, ports_reset]

end Sys2Proof.Machine

/-! Proofs about best-effort packets, open windows and flits that fail (chapter 1): what a switch keeps of a packet, how a link direction
serves the flits that wait for it, and what the fall of a link leaves. -/
namespace Sys2Proof.Machine
open Sys2Proof.Stmt

/-! ### Frames as equations -/

/-- The first of two values for a component of the set `W`, the second for any other. -/
def pick {α : Type} (W : Nat) (c : Component) (x y : α) : α := bif W.testBit c.bit then x else y

theorem pick_same {α : Type} {W : Nat} {c : Component} {x y : α} (h : W.testBit c.bit = false → y = x) : pick W c x y = x := by
  unfold pick
  cases e : W.testBit c.bit
  · exact h e
  · rfl

/-- `t` with the components of the set `W` put back to what they are in `s`. -/
def restored (W : Nat) (s t : State) : State :=
  { part := pick W .part s.part t.part, hdrs := pick W .hdrs s.hdrs t.hdrs, latches := pick W .latches s.latches t.latches,
    heldLow := pick W .heldLow s.heldLow t.heldLow, tb := pick W .tb s.tb t.tb, crests := pick W .crests s.crests t.crests,
    hub := pick W .hub s.hub t.hub, flitFails := pick W .flitFails s.flitFails t.flitFails, packets := pick W .packets s.packets t.packets,
    nextPacket := pick W .nextPacket s.nextPacket t.nextPacket, opened := pick W .opened s.opened t.opened, pool := pick W .pool s.pool t.pool,
    sram := pick W .sram s.sram t.sram, staged := pick W .staged s.staged t.staged, sched := pick W .sched s.sched t.sched,
    run := pick W .run s.run t.run, trio := pick W .trio s.trio t.trio, safety := pick W .safety s.safety t.safety,
    field := pick W .field s.field t.field, panel := pick W .panel s.panel t.panel, ports := pick W .ports s.ports t.ports,
    cans := pick W .cans s.cans t.cans, uarts := pick W .uarts s.uarts t.uarts, super := pick W .super s.super t.super,
    mail := pick W .mail s.mail t.mail, host := pick W .host s.host t.host, recorder := pick W .recorder s.recorder t.recorder,
    historian := pick W .historian s.historian t.historian, otp := pick W .otp s.otp t.otp, store := pick W .store s.store t.store,
    flash := pick W .flash s.flash t.flash, sec := pick W .sec s.sec t.sec, upd := pick W .upd s.upd t.upd, pwr := pick W .pwr s.pwr t.pwr,
    forceInd := pick W .forceInd s.forceInd t.forceInd, tapReset := pick W .tapReset s.tapReset t.tapReset, resp := pick W .resp s.resp t.resp,
    out := pick W .out s.out t.out, free := pick W .free s.free t.free, pending := pick W .pending s.pending t.pending }

/-- What differs in the set `W` alone is the same once that set is put back. -/
theorem restored_of_but {W : Nat} {s t : State} (h : But W s t) : restored W s t = s := by
  cases s
  simp only [restored, State.mk.injEq]
  exact ⟨
    pick_same (h .part), pick_same (h .hdrs), pick_same (h .latches), pick_same (h .heldLow), pick_same (h .tb), pick_same (h .crests),
    pick_same (h .hub), pick_same (h .flitFails), pick_same (h .packets), pick_same (h .nextPacket), pick_same (h .opened), pick_same (h .pool),
    pick_same (h .sram), pick_same (h .staged), pick_same (h .sched), pick_same (h .run), pick_same (h .trio), pick_same (h .safety),
    pick_same (h .field), pick_same (h .panel), pick_same (h .ports), pick_same (h .cans), pick_same (h .uarts), pick_same (h .super),
    pick_same (h .mail), pick_same (h .host), pick_same (h .recorder), pick_same (h .historian), pick_same (h .otp), pick_same (h .store),
    pick_same (h .flash), pick_same (h .sec), pick_same (h .upd), pick_same (h .pwr), pick_same (h .forceInd), pick_same (h .tapReset),
    pick_same (h .resp), pick_same (h .out), pick_same (h .free), pick_same (h .pending)⟩

/-- A component of the set `m` is the same where no component of `m` may differ. -/
theorem But.sameIn {W m : Nat} {s t : State} (h : But W s t) (k : W &&& m = 0) {c : Component} (hc : m.testBit c.bit = true) : sameAt c s t :=
  h c (by
    have bit := congrArg (fun x => x.testBit c.bit) k
    simpa only [Nat.testBit_and, hc, Bool.and_true, Nat.zero_testBit] using bit)

/-! ### Crest tiles -/

theorem at_updCrest (c : Fin 6) (f : Crest → Crest) (s : State) (d : Fin 6) :
    Vec.at (updCrest c f s).crests d = if d = c then f (Vec.at s.crests d) else Vec.at s.crests d := by
  split
  next e => subst e; exact Vec.at_upd_same _ _ _
  next e => exact Vec.at_upd_ne _ _ _ _ e

/-- What a change of a tile leaves of each tile. -/
theorem updCrest_proj {γ : Type} (g : Crest → γ) (c : Fin 6) (f : Crest → Crest) (s : State) (d : Fin 6) (hf : ∀ x, g (f x) = g x) :
    g (Vec.at (updCrest c f s).crests d) = g (Vec.at s.crests d) := by
  rw [at_updCrest]
  split
  · exact hf _
  · rfl

/-! ### A tile's switch (R431) -/

theorem crest?_pred {k : Nat} (hk : k < 7) : crest? (k - 1) = some ⟨k - 1, by omega⟩ := dif_pos (by omega)

/-- The switches stand in the hub and in the Crest tiles. -/
theorem switchAt_congr {s t : State} (hub : t.hub = s.hub) (tiles : ∀ c, (Vec.at t.crests c).switch = (Vec.at s.crests c).switch) (k : Nat) :
    switchAt t k = switchAt s k := by
  unfold switchAt
  rw [hub]
  cases crest? (k - 1) with
  | none => rfl
  | some c => rw [Option.elim_some, Option.elim_some, tiles]

theorem switchAt_of_but {W : Nat} {s t : State} (h : But W s t) (k : W &&& 0x60 = 0) (n : Nat) : switchAt t n = switchAt s n := by
  have crests : t.crests = s.crests := h.sameIn k (c := .crests) rfl
  exact switchAt_congr (h.sameIn k (c := .hub) rfl) (fun c => by rw [crests]) n

theorem switchAt_updSwitch_same {k : Nat} (hk : k < 7) (f : Switch → Switch) (s : State) : switchAt (updSwitch k f s) k = f (switchAt s k) := by
  by_cases h0 : k = 0
  · subst h0; rfl
  · have h7 : k ≠ 7 := by omega
    simp only [switchAt, updSwitch, h0, h7, if_false, crest?_pred hk, updCrest, Option.elim_some, Vec.at_upd_same]

/-- A change of a switch changes each switch in the same way or not at all. -/
theorem switchAt_updSwitch (j k : Nat) (f : Switch → Switch) (s : State) :
    switchAt (updSwitch j f s) k = switchAt s k ∨ switchAt (updSwitch j f s) k = f (switchAt s k) := by
  by_cases k0 : k = 0 <;> by_cases j0 : j = 0
  · subst k0 j0; exact .inr rfl
  · subst k0
    left
    simp only [updSwitch, j0, if_false]
    split
    · split <;> rfl
    · rfl
  · left
    simp only [updSwitch, j0, if_true, switchAt, k0, if_false]
  · simp only [updSwitch, j0, if_false]
    cases crest? (j - 1) with
    | none => exact .inl rfl
    | some c =>
      dsimp only
      split
      · exact .inl rfl
      · simp only [switchAt, k0, if_false]
        cases crest? (k - 1) with
        | none => exact .inl rfl
        | some d =>
          rw [Option.elim_some, Option.elim_some, at_updCrest]
          split
          · exact .inr rfl
          · exact .inl rfl

/-- What holds of a switch, and stays true when a switch changes by `f`, holds after such a change at any tile. -/
theorem updSwitch_keeps {P : Switch → Prop} {f : Switch → Switch} (keep : ∀ x, P x → P (f x)) (j k : Nat) {s : State} (h : P (switchAt s k)) :
    P (switchAt (updSwitch j f s) k) := by
  obtain same | changed := switchAt_updSwitch j k f s
  · rwa [same]
  · rw [changed]; exact keep _ h

theorem switchAt_bumpSwitch (t code n : Nat) (s : State) (k : Nat) : switchAt (bumpSwitch t code n s) k = switchAt s k :=
  switchAt_of_but (but_bumpSwitch (Within.self _) (.self _ s)) rfl k

theorem switchAt_raiseSwitch (t bit : Nat) (sev : BitVec 3) (s : State) (k : Nat) : switchAt (raiseSwitch t bit sev s) k = switchAt s k :=
  switchAt_of_but (but_raiseSwitch (Within.self _) (.self _ s)) rfl k

theorem rawKept_updSwitch (t : Nat) (f : Switch → Switch) (s : State) : rawKept s (updSwitch t f s) :=
  rawKept_of_hdrs (but_updSwitch (Within.self _) (.self _ s) .hdrs rfl)

theorem rawKept_raiseSwitch (t bit : Nat) (sev : BitVec 3) (s : State) : rawKept s (raiseSwitch t bit sev s) := by
  unfold raiseSwitch
  cases switchPage t with
  | none => exact rawKept_refl s
  | some pg => exact rawKept_raiseSev _ _ _ _ _ _

theorem raiseSwitch_eq {k : Nat} {pg : Page} (h : switchPage k = some pg) (bit : Nat) (sev : BitVec 3) (s : State) :
    raiseSwitch k bit sev s = raiseSev pg bit none sev .unstated s := by
  rw [raiseSwitch, h, Option.elim_some]

/-! ### What is told of a packet (R17, R20) -/

/-- An event of a page is queued with its page, its number and the present instant, where the queue has room (R357, R359). -/
theorem recorded_raiseSev (pg : Page) (bit : Nat) (ten : Option (BitVec 3)) (sev : BitVec 3) (s : State) :
    recorded pg bit s (raiseSev pg bit ten sev .unstated s) := by
  intro room
  simp only [raiseSev, recordEvent, drawFree, enqueueEvent, setRaw_recorder, setRaw_tb, room, if_true]
  exact ⟨_, rfl, rfl, rfl, by simp only [nowInstant]⟩

/-- The switch of a tile changes and tells of it with bit 1 and a record. -/
theorem switchTold_raiseSwitch {k : Nat} (hk : k < 7) (f : Switch → Switch) (s : State) :
    switchTold k (f (switchAt s k)) s (raiseSwitch k 1 1 (updSwitch k f s)) := by
  refine ⟨by rw [switchAt_raiseSwitch, switchAt_updSwitch_same hk], fun pg page _ => ?_⟩
  rw [raiseSwitch_eq page]
  refine ⟨raiseSev_sets _ _ _ _ _ _ (by decide), ?_⟩
  have queue := recorded_raiseSev pg 1 none 1 (updSwitch k f s)
  have same := but_updSwitch (t := k) (f := f) (Within.self _) (.self _ s)
  have recorder : (updSwitch k f s).recorder = s.recorder := same .recorder rfl
  have tb : (updSwitch k f s).tb = s.tb := same .tb rfl
  simpa only [recorded, nowInstant, recorder, tb] using queue

/-- What a switch told stays told where neither switches nor records change and no interrupt bit is lost. -/
theorem switchTold.after {k : Nat} {x : Switch} {s t u : State} {W : Nat} (h : switchTold k x s t) (b : But W t u) (hw : W &&& 0x4000060 = 0)
    (raw : rawKept t u) : switchTold k x s u := by
  have crests : u.crests = t.crests := b.sameIn hw (c := .crests) rfl
  have recorder : u.recorder = t.recorder := b.sameIn hw (c := .recorder) rfl
  obtain ⟨kept, told⟩ := h
  refine ⟨(switchAt_congr (b.sameIn hw (c := .hub) rfl) (fun c => by rw [crests]) k).trans kept, fun pg page present => ?_⟩
  obtain ⟨bit, record⟩ := told pg page present
  exact ⟨raw _ _ bit, by simpa only [recorded, recorder] using record⟩

/-! ### Links of a configuration (R14) -/

/-- A flit that leaves a tile by a port crosses a link of the configuration, to a tile. -/
theorem hop_crosses {p : Part} {t q l : Nat} {back : Bool} {k : Nat} (h : p.hop t q = some (l, back, k)) :
    l < 17 ∧ p.linkEnds l ≠ none ∧ k < 8 := by
  have links : ∀ x ∈ p.links.zipIdx.map (fun x => (x.2, x.1)) ++
      (if p.hasField then [(fieldLink, ((⟨0, 8⟩ : LinkEnd), (⟨7, 0⟩ : LinkEnd)))] else []),
      x.1 < 17 ∧ p.linkEnds x.1 ≠ none ∧ x.2.1.tile < 8 ∧ x.2.2.tile < 8 := by
    cases p <;> decide
  unfold Part.hop at h
  dsimp only at h
  split at h
  case h_1 i a b found =>
    obtain ⟨hl, ends, ha, hb⟩ := links _ (List.mem_of_find?_eq_some found)
    split at h <;> cases h
    · exact ⟨hl, ends, hb⟩
    · exact ⟨hl, ends, ha⟩
  case h_2 => cases h

/-- The ports of a link's ends are ports of a switch. -/
theorem linkEnds_port_lt {p : Part} {l : Nat} {a b : LinkEnd} (h : p.linkEnds l = some (a, b)) : a.port < 9 ∧ b.port < 9 := by
  have links : ∀ x ∈ p.links, x.1.port < 9 ∧ x.2.port < 9 := by cases p <;> decide
  unfold Part.linkEnds at h
  split at h
  · split at h
    · cases h; decide
    · cases h
  · exact links _ (List.mem_of_getElem? h)

/-! ### How a link direction serves the flits that wait for it (R16) -/

theorem waitsFor_crosses {s : State} {p : Packet} {l : Nat} {back : Bool} {k : Nat} (h : waitsFor s p = some (l, back, k)) :
    p.waiting ≠ 0 ∧ k < 8 := by
  unfold waitsFor at h
  split at h
  · cases h
  · obtain ⟨q, -, hop⟩ := Option.bind_eq_some_iff.1 h
    obtain ⟨-, -, hk⟩ := hop_crosses hop
    exact ⟨‹_›, hk⟩

/-- The flits that a packet has waiting for a link direction. -/
def flitsFor (s : State) (ld : LinkDir) (p : Packet) : Nat :=
  match waitsFor s p with
  | some (l, back, _) => if l = ld.link.val && back = ld.back then p.waiting else 0
  | none => 0

/-- A packet after a link direction has sent its flits as far as `n` of them fit. -/
def served (s : State) (ld : LinkDir) (n : Nat) (p : Packet) : Packet :=
  match waitsFor s p with
  | some (l, back, t) =>
    if l = ld.link.val && back = ld.back then
      if h : p.waiting ≤ n ∧ t < 8 then { p with waiting := 0, tile := ⟨t, h.2⟩, hop := p.hop + 1 }
      else { p with waiting := p.waiting - n }
    else p
  | none => p

theorem served_of_not_waitsAt {s : State} {ld : LinkDir} {p : Packet} (n : Nat) (h : ¬ waitsAt s ld p) : served s ld n p = p := by
  unfold served
  cases e : waitsFor s p with
  | none => rfl
  | some x =>
    obtain ⟨l, back, k⟩ := x
    refine if_neg fun same => h ⟨k, ?_⟩
    simp only [Bool.and_eq_true, decide_eq_true_eq] at same
    rw [e, same.1, same.2]

theorem served_whole {s : State} {ld : LinkDir} {p : Packet} {k : Fin 8} {n : Nat} (h : waitsFor s p = some (ld.link.val, ld.back, k.val))
    (fits : p.waiting ≤ n) : served s ld n p = { p with waiting := 0, tile := k, hop := p.hop + 1 } := by
  simp [served, h, fits]

theorem served_part {s : State} {ld : LinkDir} {p : Packet} {k n : Nat} (h : waitsFor s p = some (ld.link.val, ld.back, k))
    (more : n < p.waiting) : served s ld n p = { p with waiting := p.waiting - n } := by
  simp [served, h, Nat.not_le.2 more]

theorem sendFlits_cons (s : State) (ld : LinkDir) (n : Nat) (p : Packet) (ps : List Packet) :
    sendFlits s ld n (p :: ps) = served s ld n p :: sendFlits s ld (n - flitsFor s ld p) ps := by
  rw [sendFlits, served, flitsFor]
  cases e : waitsFor s p with
  | none => rfl
  | some x =>
    obtain ⟨l, back, k⟩ := x
    obtain ⟨-, hk⟩ := waitsFor_crosses e
    dsimp only
    split
    · by_cases fits : p.waiting ≤ n
      · rw [dif_pos ⟨fits, hk⟩, dif_pos ⟨fits, hk⟩]
      · rw [dif_neg fun x => fits x.1, dif_neg fun x => fits x.1, show n - p.waiting = 0 by omega]
    · rfl

/-- Each packet is served with what those before it leave. -/
theorem getElem?_sendFlits (s : State) (ld : LinkDir) (n : Nat) (ps : List Packet) (i : Nat) :
    (sendFlits s ld n ps)[i]? = ps[i]?.map (served s ld (n - ((ps.take i).map (flitsFor s ld)).sum)) := by
  induction ps generalizing n i with
  | nil => rfl
  | cons p ps ih =>
    rw [sendFlits_cons]
    cases i with
    | zero => rfl
    | succ i => rw [List.getElem?_cons_succ, List.getElem?_cons_succ, ih, List.take_succ_cons, List.map_cons, List.sum_cons, Nat.sub_sub]

theorem length_sendFlits (s : State) (ld : LinkDir) (n : Nat) (ps : List Packet) : (sendFlits s ld n ps).length = ps.length := by
  induction ps generalizing n with
  | nil => rfl
  | cons p ps ih => rw [sendFlits_cons, List.length_cons, ih, List.length_cons]

theorem flitsWaiting_eq_sum (s : State) (ld : LinkDir) : flitsWaiting s ld = (s.packets.map (flitsFor s ld)).sum := by
  have total : ∀ (ps : List Packet) (n : Nat), ps.foldl (fun n p => n + flitsFor s ld p) n = n + (ps.map (flitsFor s ld)).sum := by
    intro ps
    induction ps with
    | nil => intro n; rfl
    | cons p ps ih => intro n; rw [List.foldl_cons, ih, List.map_cons, List.sum_cons, Nat.add_assoc]
  have step : (fun n p => n + flitsFor s ld p) = fun n p => match waitsFor s p with
      | some (l, back, _) => if l = ld.link.val && back = ld.back then n + p.waiting else n
      | none => n := by
    funext n p
    unfold flitsFor
    cases waitsFor s p with
    | none => rfl
    | some x => dsimp only; split <;> rfl
  have sum := total s.packets 0
  rw [step, Nat.zero_add] at sum
  exact sum

theorem waitsFor_congr {s t : State} (h : t.part = s.part) (p : Packet) : waitsFor t p = waitsFor s p := by
  unfold waitsFor; rw [h]

theorem flitsFor_congr {s t : State} (h : t.part = s.part) (ld : LinkDir) (p : Packet) : flitsFor t ld p = flitsFor s ld p := by
  unfold flitsFor; rw [waitsFor_congr h]

theorem flitsWaiting_congr {s t : State} (h : t.part = s.part) (hp : t.packets = s.packets) (ld : LinkDir) :
    flitsWaiting t ld = flitsWaiting s ld := by
  rw [flitsWaiting_eq_sum, flitsWaiting_eq_sum, hp]
  exact congrArg List.sum (List.map_congr_left fun p _ => flitsFor_congr h ld p)

/-- What waits where is a matter of the configuration alone. -/
theorem linkServed_congr {s t : State} (h : t.part = s.part) {ld : LinkDir} {room : Nat} {ps qs : List Packet}
    (k : linkServed t ld room ps qs) : linkServed s ld room ps qs := by
  have ahead : ∀ xs, flitsWaiting { t with packets := xs } ld = flitsWaiting { s with packets := xs } ld :=
    fun xs => flitsWaiting_congr (s := { s with packets := xs }) (t := { t with packets := xs }) h rfl ld
  simpa only [linkServed, waitsAt, waitsFor_congr h, ahead] using k

/-- A link direction serves the packets in their order. -/
theorem linkServed_sendFlits (s : State) (ld : LinkDir) (room : Nat) (ps : List Packet) : linkServed s ld room ps (sendFlits s ld room ps) := by
  refine ⟨length_sendFlits s ld room ps, fun i p at_i => ?_⟩
  have ahead : flitsWaiting { s with packets := ps.take i } ld = ((ps.take i).map (flitsFor s ld)).sum := flitsWaiting_eq_sum _ _
  refine ⟨_, by rw [getElem?_sendFlits, at_i, Option.map_some], served_of_not_waitsAt _, fun k wait => ?_⟩
  obtain ⟨some_wait, -⟩ := waitsFor_crosses wait
  rw [ahead]
  refine ⟨fun fits => served_whole wait (by omega), fun more => ?_⟩
  rw [served_part wait (by omega)]
  congr 1
  omega

/-- Where no flit fits, every packet is as it was. -/
theorem linkServed_nothing (s : State) (ld : LinkDir) (ps : List Packet) : linkServed s ld 0 ps ps := by
  refine ⟨rfl, fun i p at_i => ⟨p, at_i, fun _ => rfl, fun k wait => ?_⟩⟩
  obtain ⟨some_wait, -⟩ := waitsFor_crosses wait
  refine ⟨fun none_fit => absurd none_fit (by omega), fun _ => ?_⟩
  rw [Nat.sub_zero, Nat.min_eq_left (Nat.le_add_left _ _)]

/-! ### A link direction is served (R16) -/

/-- A link direction has sent what its window takes of the flits that wait for it; the counters of its switch are still to follow. -/
def drained (ld : LinkDir) (s : State) : State :=
  { s with
    packets := sendFlits s ld (windowRoom s ld) s.packets
    opened := s.opened.map fun w =>
      if w.ld == ld then { w with left := windowRoom s ld - min (windowRoom s ld) (flitsWaiting s ld) } else w }

theorem but_drained {s : State} {ld : LinkDir} (h : s.part.linkEnds ld.link.val ≠ none) : But 0x2 (drained ld s) (drainLink ld s) := by
  obtain ⟨⟨a, b⟩, e⟩ := Option.ne_none_iff_exists'.1 h
  unfold drainLink
  rw [e]
  exact but_bumpSwitch (Within.self _) (but_bumpSwitch (Within.self _) (.self _ _))

theorem drainLink_noLink {s : State} {ld : LinkDir} (h : s.part.linkEnds ld.link.val = none) : drainLink ld s = s := by
  unfold drainLink; rw [h]

theorem linkServed_drainLink {s : State} {ld : LinkDir} (h : s.part.linkEnds ld.link.val ≠ none) :
    linkServed s ld (windowRoom s ld) s.packets (drainLink ld s).packets := by
  have packets : (drainLink ld s).packets = sendFlits s ld (windowRoom s ld) s.packets := but_drained h .packets rfl
  rw [packets]
  exact linkServed_sendFlits _ _ _ _

/-! ### Errors that arise leave the switches as they are -/

theorem switch_upset (u : Upset) (s : State) (c : Fin 6) : (Vec.at (upset s u).crests c).switch = (Vec.at s.crests c).switch := by
  unfold upset
  split
  · split
    · exact updCrest_proj Crest.switch _ _ _ _ fun _ => by rfl
    · rfl
  · split
    · exact updCrest_proj Crest.switch _ _ _ _ fun _ => by rfl
    · rfl

theorem but_upsets (us : List Upset) (s : State) : But 0x20 s (us.foldl upset s) :=
  but_foldl (fun _ _ h => but_upset (Within.self _) h) (.self _ s)

theorem switchAt_upsets (us : List Upset) (s : State) (k : Nat) : switchAt (us.foldl upset s) k = switchAt s k := by
  have kept := fun c => foldl_proj (fun x : State => (Vec.at x.crests c).switch) upset (fun x u => switch_upset u x c) us s
  exact switchAt_congr (but_upsets us s .hub rfl) kept k

/-! ### Reads of the pool (R92, R93) -/

theorem badWords_correctWord (s : State) (x : Fin 6 × Nat) (c : Fin 6) :
    (Vec.at (correctWord s x).crests c).badWords = (Vec.at s.crests c).badWords := by
  have counted : ∀ d u, (Vec.at (countCorrected d u).crests c).badWords = (Vec.at u.crests c).badWords := by
    intro d u
    have tile := updCrest_proj Crest.badWords d (fun t => { t with eccCorr := satInc t.eccCorr }) u c fun _ => rfl
    unfold countCorrected
    dsimp only
    split
    · rw [raise_crests, bump_crests, tile]
    · rw [bump_crests, tile]
  rw [correctWord, counted]
  exact updCrest_proj Crest.badWords _ _ _ _ fun _ => by rfl

/-- To correct a word makes no uncorrectable one good. -/
theorem badIn_correctIn (a n : Nat) (s : State) (b m : Nat) : badIn (correctIn a n s) b m = badIn s b m := by
  have kept := fun c => foldl_proj (fun x : State => (Vec.at x.crests c).badWords) correctWord (fun x w => badWords_correctWord x w c)
    (softIn s a n) s
  have part : (correctIn a n s).part = s.part := but_correctIn (Within.self _) (.self _ s) .part rfl
  have words : ∀ c, (Vec.at (correctIn a n s).crests c).badWords = (Vec.at s.crests c).badWords := kept
  simp only [badIn, presentCrests, part, words]

theorem correctIn_of_clean {a n : Nat} {s : State} (h : softIn s a n = []) : correctIn a n s = s := by
  rw [correctIn, h, List.foldl_nil]

/-- No urgent source that is latched is lost. -/
def urgentKept (s t : State) : Prop := ∀ i, s.super.urgent.getLsbD i = true → t.super.urgent.getLsbD i = true

theorem urgentKept_refl (s : State) : urgentKept s s := fun _ h => h

theorem urgentKept_trans {s t u : State} (h : urgentKept s t) (k : urgentKept t u) : urgentKept s u := fun i x => k i (h i x)

theorem urgentKept_of_super {s t : State} (h : t.super = s.super) : urgentKept s t := fun i x => by rwa [h]

theorem urgentKept_raiseUrgent (pg : Page) (bit n : Nat) (ten : Option (BitVec 3)) (ps : Params) (s : State) :
    urgentKept s (raiseUrgent pg bit n ten ps s) := fun i h => by
  rw [raiseUrgent_super]
  exact setBit_getLsbD_mono _ _ _ h

theorem raiseUrgent_asserts (pg : Page) (bit i : Nat) (ten : Option (BitVec 3)) (ps : Params) (s : State) (h : i < 16) :
    (raiseUrgent pg bit (496 + i) ten ps s).super.urgent.getLsbD i = true := by
  rw [raiseUrgent_super, Nat.add_sub_cancel_left]
  exact setBit_getLsbD_same _ _ h

/-- What one element of a list brings about, and the others keep, holds at the end. -/
theorem foldl_of_mem {α β : Type} {P : β → Prop} {f : β → α → β} {l : List α} {a : α} (ha : a ∈ l) (brings : ∀ b, P (f b a))
    (keeps : ∀ b x, P b → P (f b x)) (b : β) : P (l.foldl f b) := by
  obtain ⟨l1, l2, rfl⟩ := List.append_of_mem ha
  rw [List.foldl_append, List.foldl_cons]
  exact List.foldlRecOn l2 f (brings _) fun b hb x _ => keeps b x hb

/-- ECC_UNC of a tile shows, and its urgent source 505. -/
def uncTold (c : Fin 6) (t : State) : Prop := t.super.urgent.getLsbD 9 = true ∧ (hdrAt t (.engine c)).raw.getLsbD 6 = true

theorem uncTold_countUncorrectable (c : Fin 6) (w : Nat) (s : State) : uncTold c (countUncorrectable c w s) := by
  unfold countUncorrectable
  exact ⟨raiseUrgent_asserts _ _ 9 _ _ _ (by decide), raiseSev_sets _ _ _ _ _ _ (by decide)⟩

theorem urgentKept_countUncorrectable (d : Fin 6) (w : Nat) (s : State) : urgentKept s (countUncorrectable d w s) := by
  unfold countUncorrectable
  refine urgentKept_trans ?_ (urgentKept_raiseUrgent _ _ _ _ _ _)
  exact urgentKept_of_super rfl

theorem rawKept_countUncorrectable (d : Fin 6) (w : Nat) (s : State) : rawKept s (countUncorrectable d w s) := by
  unfold countUncorrectable
  refine rawKept_trans ?_ (rawKept_raiseUrgent _ _ _ _ _ _)
  exact rawKept_of_hdrs rfl

/-- An uncorrectable word of a read is told at its tile (R93). -/
theorem uncTold_countBad {a n : Nat} {s : State} {c : Fin 6} {w : Nat} (h : (c, w) ∈ badIn s a n) : uncTold c (countBad a n s) := by
  unfold countBad
  refine foldl_of_mem (P := uncTold c) h ?_ ?_ s
  · exact uncTold_countUncorrectable c w
  · rintro t x ⟨urgent, bit⟩
    exact ⟨urgentKept_countUncorrectable _ _ _ _ urgent, rawKept_countUncorrectable _ _ _ _ _ bit⟩

/-! ### The end of a packet -/

theorem rawKept_hostPiece (p : Packet) (r : Resp) (s : State) : rawKept s (hostPiece p r s) := by
  have completes : ∀ q r x, x.hdrs = s.hdrs → rawKept s (complete q r x) := fun q r x h =>
    rawKept_trans (rawKept_of_hdrs h) (rawKept_trans (rawKept_of_hdrs (t := send (.completion q r) x) rfl) (rawKept_bump _ _ _ _))
  unfold hostPiece
  split
  · exact rawKept_refl s
  · dsimp only
    split
    · split
      · exact completes _ _ _ rfl
      · exact rawKept_of_hdrs rfl
    · exact rawKept_of_hdrs rfl

theorem rawKept_endPacket (p : Packet) (r : Resp) (s : State) : rawKept s (endPacket p r s) :=
  rawKept_trans (rawKept_of_hdrs (t := { s with packets := s.packets.filter (fun x => x.id != p.id), resp := r }) rfl) (rawKept_hostPiece _ _ _)

theorem but_ended (p : Packet) (r : Resp) (s : State) : But 0x3002000102 s (endPacket p r s) := but_endPacket (Within.self _) (.self _ s)

theorem endPacket_resp (p : Packet) (r : Resp) (s : State) : (endPacket p r s).resp = r :=
  but_hostPiece (Within.self _) (.self _ { s with packets := _, resp := r }) .resp rfl

theorem endPacket_packets (p : Packet) (r : Resp) (s : State) : (endPacket p r s).packets = s.packets.filter fun x => x.id != p.id :=
  but_hostPiece (Within.self _) (.self _ { s with packets := s.packets.filter fun x => x.id != p.id, resp := r }) .packets rfl

/-- A packet that is no piece of a host request ends with its answer alone. -/
theorem endPacket_own {p : Packet} (h : p.request = none) (r : Resp) (s : State) :
    endPacket p r s = { s with packets := s.packets.filter fun x => x.id != p.id, resp := r } := by
  unfold endPacket hostPiece
  rw [h]; rfl

/-! ### A packet is launched (R16, R330, R351) -/

theorem launch_enters {src : BeSource} {kind : BeKind} {s : State} (room : s.packets.countP (fun p => p.src == src) < flightLimit src)
    (short : kindLen kind ≤ 256) (route addr : Word) : launch src route addr kind s = enterPacket src route addr kind none s := by
  have few : ¬ flightLimit src ≤ inFlight src s := Nat.not_le.2 room
  have fits : ¬ packetBytes < kindLen kind := Nat.not_lt.2 short
  rw [launch, decide_eq_false few, decide_eq_false fits, Bool.or_self, if_neg Bool.false_ne_true]

theorem launch_refused {src : BeSource} {kind : BeKind} {s : State}
    (h : flightLimit src ≤ s.packets.countP (fun p => p.src == src) ∨ 256 < kindLen kind) (route addr : Word) :
    launch src route addr kind s = s := by
  have refused : (decide (flightLimit src ≤ inFlight src s) || decide (packetBytes < kindLen kind)) = true := by
    rw [Bool.or_eq_true, decide_eq_true_eq, decide_eq_true_eq]; exact h
  rw [launch, refused, if_pos rfl]

/-- A tag is the one in force at the launch (R330). -/
theorem launchTag_core (c : Fin 4) (s : State) :
    launchTag (.core c) s = if (Vec.at s.super.tags c).kernel then none else some (Vec.at s.super.tags c).tenant := rfl

theorem bePacketLaunch_entersOrNot (src : BeSource) (route addr : Word) (kind : BeKind) (s : State) :
    (s.packets.countP (fun p => p.src == src) < flightLimit src → kindLen kind ≤ 256 →
      ∃ t p, exec (.bePacketLaunch src route addr kind) s = .next t ∧ t.packets = s.packets ++ [p] ∧
        p.src = src ∧ p.route = route ∧ p.addr = addr ∧ p.kind = kind ∧ p.hop = 0 ∧ p.waiting = 0 ∧
        p.tile.val = (route.setWidth 3).toNat ∧ p.request = none ∧
        (∀ c, src = .core c → p.tenant = if (Vec.at s.super.tags c).kernel then none else some (Vec.at s.super.tags c).tenant) ∧
        { t with packets := s.packets, nextPacket := s.nextPacket } = s) ∧
    (flightLimit src ≤ s.packets.countP (fun p => p.src == src) ∨ 256 < kindLen kind →
      exec (.bePacketLaunch src route addr kind) s = .next s) := by
  refine ⟨fun room short => ?_, fun h => congrArg Host.Outcome.next (launch_refused h route addr)⟩
  refine ⟨_, _, congrArg Host.Outcome.next (launch_enters room short route addr), rfl, rfl, rfl, rfl, rfl, rfl, rfl, ?_, rfl, ?_, rfl⟩
  · simp [routeSrc, bits]
  · rintro c rfl
    exact launchTag_core c s

/-! ### A packet reaches the switch of its tile (R17, R20) -/

/-- A packet on its way to its tile, the only one of its name. -/
structure Arriving (s : State) (p : Packet) : Prop where
  only : ∀ x ∈ s.packets, x.id = p.id → x = p
  mem : p ∈ s.packets
  moving : p.waiting = 0

theorem Arriving.upsets {s : State} {p : Packet} (h : Arriving s p) (us : List Upset) : Arriving (us.foldl upset s) p := by
  have packets : (us.foldl upset s).packets = s.packets := but_upsets us s .packets rfl
  exact ⟨packets ▸ h.only, packets ▸ h.mem, h.moving⟩

theorem find?_eq_of_unique {α : Type} {l : List α} {f : α → Bool} {a : α} (ha : a ∈ l) (hf : f a = true)
    (only : ∀ x ∈ l, f x = true → x = a) : l.find? f = some a := by
  obtain ⟨x, hx⟩ := Option.isSome_iff_exists.1 (List.find?_isSome.2 ⟨a, ha, hf⟩)
  rw [hx, only x (List.mem_of_find?_eq_some hx) (List.find?_some hx)]

theorem Arriving.find {s : State} {p : Packet} (h : Arriving s p) : s.packets.find? (fun x => x.id == p.id) = some p :=
  find?_eq_of_unique h.mem (beq_self_eq_true _) fun x hx same => h.only x hx (eq_of_beq same)

theorem Arriving.findMoving {s : State} {p : Packet} (h : Arriving s p) :
    s.packets.find? (fun x => x.id == p.id && x.waiting == 0) = some p :=
  find?_eq_of_unique h.mem (by rw [h.moving, beq_self_eq_true, beq_self_eq_true, Bool.and_self]) fun x hx same => by
    rw [Bool.and_eq_true] at same
    exact h.only x hx (eq_of_beq same.1)

theorem ownsAddress_congr {s t : State} (h : t.part = s.part) (p : Packet) : ownsAddress t p = ownsAddress s p := by
  rw [ownsAddress, ownsAddress, h]

/-- Pool addresses belong to Crest tiles. -/
theorem tile_lt_of_ownsAddress {s : State} {p : Packet} (h : ownsAddress s p = true) : p.tile.val < 7 := by
  simp only [ownsAddress, Bool.and_eq_true, beq_iff_eq] at h
  obtain ⟨⟨pool, owner⟩, -⟩ := h
  have few : s.part.crests ≤ 6 := by cases s.part <;> decide
  rw [tileOf, if_pos pool] at owner
  split at owner
  next inPool =>
    rw [poolSize] at inPool
    rw [Option.some.injEq] at owner
    omega
  next => cases owner

theorem packetArrives_discards {s : State} {p : Packet} (h : Arriving s p) (u : undeliverable s p) :
    packetArrives p.id s = discardPacket p s := by
  unfold packetArrives
  rw [h.findMoving]
  dsimp only
  obtain late | absent | ⟨out, foreign⟩ | ⟨through, nowhere⟩ := u
  · rw [decide_eq_true late, Bool.true_or, if_pos rfl]
  · rw [absent, Bool.not_false, Bool.or_true, if_pos rfl]
  · rw [if_pos out, foreign, if_neg Bool.false_ne_true, ite_self]
  · rw [if_neg through, nowhere, ite_self]

theorem packetArrives_delivers {s : State} {p : Packet} (h : Arriving s p) (code : p.hop < routeCodes p.route)
    (tile : s.part.hasTile p.tile.val = true) (out : routePort p.route p.hop = 8) (owns : ownsAddress s p = true) :
    packetArrives p.id s = deliverPacket p s := by
  unfold packetArrives
  rw [h.findMoving]
  dsimp only
  rw [decide_eq_false (Nat.not_le.2 code), tile, Bool.not_true, Bool.or_self, if_neg Bool.false_ne_true, if_pos out, if_pos owns]

theorem packetArrives_holds {s : State} {p : Packet} (h : Arriving s p) (code : p.hop < routeCodes p.route)
    (tile : s.part.hasTile p.tile.val = true) (through : routePort p.route p.hop ≠ 8) {l : Nat} {back : Bool} {k : Nat}
    (link : (codePort p.tile.val (routePort p.route p.hop)).bind (s.part.hop p.tile.val) = some (l, back, k)) :
    packetArrives p.id s = holdPacket p.id l back s := by
  unfold packetArrives
  rw [h.findMoving]
  dsimp only
  rw [decide_eq_false (Nat.not_le.2 code), tile, Bool.not_true, Bool.or_self, if_neg Bool.false_ne_true, if_neg through, link]

/-! ### A packet is turned away (R17, R20) -/

/-- The switch a packet stands in has counted it by `f`, kept its address and tag, and told of it. -/
def turnedAway (p : Packet) (f : Switch → Switch) (s : State) : State := raiseSwitch p.tile.val 1 1 (updSwitch p.tile.val f s)

theorem but_turnedAway (p : Packet) (f : Switch → Switch) (s : State) : But 0x4004000062 s (turnedAway p f s) :=
  but_raiseSwitch ((Within.self _).le rfl) (but_updSwitch ((Within.self _).le rfl) (.self _ s))

theorem switchTold_turnedAway {p : Packet} (hk : p.tile.val < 7) (f : Switch → Switch) (us : List Upset) (r : Resp) (s : State) :
    switchTold p.tile.val (f (switchAt s p.tile.val)) s (endPacket p r (turnedAway p f (us.foldl upset s))) := by
  have told := switchTold_raiseSwitch hk f (us.foldl upset s)
  have same := but_upsets us s
  have part : (us.foldl upset s).part = s.part := same .part rfl
  have recorder : (us.foldl upset s).recorder = s.recorder := same .recorder rfl
  have tb : (us.foldl upset s).tb = s.tb := same .tb rfl
  have here : switchTold p.tile.val (f (switchAt s p.tile.val)) s (turnedAway p f (us.foldl upset s)) := by
    simpa only [turnedAway, switchTold, recorded, nowInstant, switchAt_upsets, part, recorder, tb] using told
  exact switchTold.after here (but_ended p r _) rfl (rawKept_endPacket _ _ _)

theorem bePacketArrive_discards {s : State} {p : Packet} (us : List Upset) (h : Arriving s p) (u : undeliverable s p) :
    ∃ t, exec (.bePacketArrive p.id us) s = .next t ∧ t.resp = .error ∧ t.pool = s.pool ∧
      t.packets = s.packets.filter (fun x => x.id != p.id) ∧
      (p.tile.val < 7 → switchTold p.tile.val
        (keptOf p true { switchAt s p.tile.val with refuseRoute := satInc (switchAt s p.tile.val).refuseRoute }) s t) ∧
      (p.request = none → { t with
        packets := s.packets, resp := s.resp, hub := s.hub, crests := s.crests, hdrs := s.hdrs, recorder := s.recorder, free := s.free } = s) := by
  have part : (us.foldl upset s).part = s.part := but_upsets us s .part rfl
  have gone : undeliverable (us.foldl upset s) p := by simpa only [undeliverable, ownsAddress_congr part, part] using u
  have away : But 0x4004000062 s (turnedAway p (fun x => noteLast p true { x with refuseRoute := satInc x.refuseRoute }) (us.foldl upset s)) :=
    ((but_upsets us s).mono ((Within.self _).le rfl)).trans (but_turnedAway _ _ _)
  refine ⟨_, congrArg Host.Outcome.next (packetArrives_discards (h.upsets us) gone), endPacket_resp _ _ _, ?_, ?_,
    fun hk => switchTold_turnedAway hk _ us .error s, fun own => ?_⟩
  · exact (but_ended p .error _ .pool rfl).trans (away .pool rfl)
  · exact (endPacket_packets _ _ _).trans (congrArg _ (away .packets rfl))
  · rw [discardPacket, endPacket_own own]
    exact restored_of_but (away.mono (V := 0x5004000162) ((Within.self _).le rfl))

/-! ### A packet is delivered at the tile that owns its address (R17, R20, R92) -/

/-- A packet stands at the tile its route delivers it at, which owns its address. -/
structure Delivered (s : State) (p : Packet) : Prop extends Arriving s p where
  code : p.hop < routeCodes p.route
  tile : s.part.hasTile p.tile.val = true
  out : routePort p.route p.hop = 8
  owns : ownsAddress s p = true

theorem Delivered.exec {s : State} {p : Packet} (h : Delivered s p) (us : List Upset) :
    exec (.bePacketArrive p.id us) s = .next (deliverPacket p (us.foldl upset s)) := by
  have part : (us.foldl upset s).part = s.part := but_upsets us s .part rfl
  exact congrArg Host.Outcome.next (packetArrives_delivers (h.toArriving.upsets us) h.code (by rw [part]; exact h.tile) h.out
    (by rw [ownsAddress_congr part]; exact h.owns))

theorem deliverPacket_read {p : Packet} {n : Nat} {s : State} (k : p.kind = .read n) (good : badIn s p.addr.toNat n = []) :
    deliverPacket p s = endPacket p (.bytes (memRead (correctIn p.addr.toNat n s).pool p.addr.toNat n)) (correctIn p.addr.toNat n s) := by
  unfold deliverPacket
  rw [k]
  dsimp only
  rw [badIn_correctIn, good, List.isEmpty_nil, if_pos rfl]

theorem deliverPacket_readBad {p : Packet} {n : Nat} {s : State} (k : p.kind = .read n) (bad : badIn s p.addr.toNat n ≠ []) :
    deliverPacket p s = endPacket p .error (countBad p.addr.toNat n (correctIn p.addr.toNat n s)) := by
  unfold deliverPacket
  rw [k]
  dsimp only
  rw [badIn_correctIn, if_neg (by rwa [List.isEmpty_iff])]

theorem deliverPacket_write {p : Packet} {d : List Byte} {s : State} (k : p.kind = .write d)
    (may : mayWrite s p.tenant p.addr.toNat d.length = true) : deliverPacket p s = endPacket p .done (poolPut p.addr.toNat d s) := by
  unfold deliverPacket
  rw [k]
  dsimp only
  rw [may, if_pos rfl]

theorem deliverPacket_writeRefused {p : Packet} {d : List Byte} {s : State} (k : p.kind = .write d)
    (may : mayWrite s p.tenant p.addr.toNat d.length = false) :
    deliverPacket p s = endPacket p .error (turnedAway p (fun x => noteLast p false { x with refuseOwner := satInc x.refuseOwner }) s) := by
  unfold deliverPacket
  rw [k]
  dsimp only
  rw [may, if_neg Bool.false_ne_true, turnedAway]

/-- A read answers the bytes of the pool. -/
theorem bePacketArrive_reads {s : State} {p : Packet} {n : Nat} (us : List Upset) (h : Delivered s p) (k : p.kind = .read n)
    (good : badIn (us.foldl upset s) p.addr.toNat n = []) :
    ∃ t, exec (.bePacketArrive p.id us) s = .next t ∧
      t.resp = .bytes ((List.range n).map fun k => memGet s.pool (p.addr.toNat + k)) ∧
      t.packets = s.packets.filter (fun x => x.id != p.id) ∧
      (p.request = none → { t with
        packets := s.packets, resp := s.resp, crests := s.crests, hdrs := s.hdrs, recorder := s.recorder, free := s.free } = s) ∧
      (us = [] → softIn s p.addr.toNat n = [] → t.crests = s.crests) := by
  have read : But 0x4004000022 s (correctIn p.addr.toNat n (us.foldl upset s)) :=
    but_correctIn ((Within.self _).le rfl) ((but_upsets us s).mono ((Within.self _).le rfl))
  refine ⟨_, h.exec us, ?_⟩
  rw [deliverPacket_read k good]
  refine ⟨?_, (endPacket_packets _ _ _).trans (congrArg _ (read .packets rfl)), fun own => ?_, ?_⟩
  · have pool : (correctIn p.addr.toNat n (us.foldl upset s)).pool = s.pool := read .pool rfl
    rw [endPacket_resp, pool, memRead]
  · rw [endPacket_own own]
    exact restored_of_but (read.mono (V := 0x5004000122) ((Within.self _).le rfl))
  · rintro rfl clean
    exact (but_ended p _ _ .crests rfl).trans (congrArg State.crests (correctIn_of_clean clean))

/-- A read of an uncorrectable word is answered with an error, and told at the word's tile (R93). -/
theorem bePacketArrive_readsBad {s : State} {p : Packet} {n : Nat} (us : List Upset) (h : Delivered s p) (k : p.kind = .read n) {c : Fin 6}
    {w : Nat} (bad : (c, w) ∈ badIn (us.foldl upset s) p.addr.toNat n) :
    ∃ t, exec (.bePacketArrive p.id us) s = .next t ∧ t.resp = .error ∧ t.pool = s.pool ∧
      t.super.urgent.getLsbD 9 = true ∧ (hdrAt t (.engine c)).raw.getLsbD 6 = true := by
  have read : But 0x4004800022 s (countBad p.addr.toNat n (correctIn p.addr.toNat n (us.foldl upset s))) :=
    but_countBad ((Within.self _).le rfl) (but_correctIn ((Within.self _).le rfl) ((but_upsets us s).mono ((Within.self _).le rfl)))
  have still : (c, w) ∈ badIn (correctIn p.addr.toNat n (us.foldl upset s)) p.addr.toNat n := by rwa [badIn_correctIn]
  obtain ⟨urgent, bit⟩ := uncTold_countBad still
  refine ⟨_, h.exec us, ?_⟩
  rw [deliverPacket_readBad k (List.ne_nil_of_mem bad)]
  refine ⟨endPacket_resp _ _ _, (but_ended p .error _ .pool rfl).trans (read .pool rfl), ?_, rawKept_endPacket _ _ _ _ _ bit⟩
  exact urgentKept_of_super (but_ended p .error _ .super rfl) _ urgent

theorem mayWrite_congr {s t : State} (h : t.run = s.run) (ten : Option (BitVec 3)) (a n : Nat) : mayWrite t ten a n = mayWrite s ten a n := by
  unfold mayWrite; rw [h]

/-- A tenant writes where every region that its bytes meet is its own (R20, R59). -/
theorem mayWrite_iff (s : State) (ten : Option (BitVec 3)) (a n : Nat) : mayWrite s ten a n = true ↔
    ∀ m app, ten = some m → s.run.active = some app → ∀ r ∈ app.regions, a < r.addr + r.len → r.addr < a + n → r.owner = some m := by
  have owns : ∀ app m, ownsBytes app m a n = true ↔
      ∀ r ∈ app.regions, a < r.addr + r.len → r.addr < a + n → r.owner = some m := by
    intro app m
    rw [ownsBytes, List.all_eq_true]
    refine forall₂_congr fun r _ => ?_
    rw [Bool.or_eq_true, Bool.or_eq_true, decide_eq_true_eq, decide_eq_true_eq, beq_iff_eq, ← Nat.not_lt, ← Nat.not_lt]
    tauto
  unfold mayWrite
  cases ten with
  | none => simp
  | some m =>
    cases s.run.active with
    | none => simp
    | some app => simp [owns]

/-- A write within the tenant's regions stores its bytes. -/
theorem bePacketArrive_writes {s : State} {p : Packet} {d : List Byte} (us : List Upset) (h : Delivered s p) (k : p.kind = .write d)
    (wf : memWf s.pool = true) (may : mayWrite s p.tenant p.addr.toNat d.length = true) :
    ∃ t, exec (.bePacketArrive p.id us) s = .next t ∧ t.resp = .done ∧
      (∀ k, k < d.length → memGet t.pool (p.addr.toNat + k) = d.getD k 0) ∧
      (∀ a, a < p.addr.toNat ∨ p.addr.toNat + d.length ≤ a → memGet t.pool a = memGet s.pool a) ∧
      (p.request = none → { t with packets := s.packets, resp := s.resp, pool := s.pool, crests := s.crests } = s) := by
  have same := but_upsets us s
  have stored : (endPacket p .done (poolPut p.addr.toNat d (us.foldl upset s))).pool = memWrite s.pool p.addr.toNat d :=
    (but_ended p .done _ .pool rfl).trans (congrArg (memWrite · p.addr.toNat d) (same .pool rfl))
  have wrote : But 0x820 s (poolPut p.addr.toNat d (us.foldl upset s)) := but_poolPut ((Within.self _).le rfl) (same.mono ((Within.self _).le rfl))
  refine ⟨_, h.exec us, ?_⟩
  rw [deliverPacket_write k (by rw [mayWrite_congr (same .run rfl)]; exact may)]
  refine ⟨endPacket_resp _ _ _, fun i hi => ?_, fun a ha => ?_, fun own => ?_⟩
  · rw [stored, memGet_write _ _ _ wf, if_pos (by omega), Nat.add_sub_cancel_left]
  · rw [stored, memGet_write _ _ _ wf, if_neg (by omega)]
  · rw [endPacket_own own]
    exact restored_of_but (wrote.mono (V := 0x1000000920) ((Within.self _).le rfl))

/-- A write outside the tenant's regions stores nothing; the switch of the tile counts it and tells of it (R20). -/
theorem bePacketArrive_refusesWrite {s : State} {p : Packet} {d : List Byte} (us : List Upset) (h : Delivered s p) (k : p.kind = .write d)
    (may : mayWrite s p.tenant p.addr.toNat d.length = false) :
    ∃ t, exec (.bePacketArrive p.id us) s = .next t ∧ t.resp = .error ∧ t.pool = s.pool ∧ t.sram = s.sram ∧
      t.packets = s.packets.filter (fun x => x.id != p.id) ∧
      switchTold p.tile.val (keptOf p false { switchAt s p.tile.val with refuseOwner := satInc (switchAt s p.tile.val).refuseOwner }) s t := by
  have same := but_upsets us s
  have away : But 0x4004000062 s (turnedAway p (fun x => noteLast p false { x with refuseOwner := satInc x.refuseOwner }) (us.foldl upset s)) :=
    (same.mono ((Within.self _).le rfl)).trans (but_turnedAway _ _ _)
  refine ⟨_, h.exec us, ?_⟩
  rw [deliverPacket_writeRefused k (by rw [mayWrite_congr (same .run rfl)]; exact may)]
  refine ⟨endPacket_resp _ _ _, (but_ended p .error _ .pool rfl).trans (away .pool rfl), (but_ended p .error _ .sram rfl).trans (away .sram rfl),
    (endPacket_packets _ _ _).trans (congrArg _ (away .packets rfl)), switchTold_turnedAway (tile_lt_of_ownsAddress h.owns) _ us .error s⟩

/-! ### A packet whose code names a link waits at the link's input (R16) -/

/-- A packet stands behind the others at the input of a link. -/
def queued (p : Packet) (s : State) : State :=
  { s with packets := s.packets.filter (fun x => x.id != p.id) ++ [{ p with waiting := packetFlits p.kind }] }

theorem but_holdPacket_queued {s : State} {p : Packet} {ld : LinkDir} (h : Arriving s p) :
    But 0x2 (drainLink ld (queued p s)) (holdPacket p.id ld.link.val ld.back s) := by
  unfold holdPacket
  rw [h.find, dif_pos ld.link.isLt]
  exact but_bumpSwitch (Within.self _) (.self _ _)

theorem windowRoom_congr {s t : State} (sched : t.sched = s.sched) (opened : t.opened = s.opened) (tb : t.tb = s.tb) (ld : LinkDir) :
    windowRoom t ld = windowRoom s ld := by
  simp only [windowRoom, flitsUntil, schedNow, sched, opened, tb]

theorem bePacketArrive_forwards {s : State} {p : Packet} {ld : LinkDir} {k : Fin 8} {q : Nat} (us : List Upset) (h : Arriving s p)
    (code : p.hop < routeCodes p.route) (tile : s.part.hasTile p.tile.val = true) (through : routePort p.route p.hop ≠ 8)
    (port : codePort p.tile.val (routePort p.route p.hop) = some q) (hop : s.part.hop p.tile.val q = some (ld.link.val, ld.back, k.val)) :
    ∃ t, exec (.bePacketArrive p.id us) s = .next t ∧
      linkServed s ld (windowRoom s ld)
        (s.packets.filter (fun x => x.id != p.id) ++ [{ p with waiting := packetFlits p.kind }]) t.packets ∧
      { t with packets := s.packets, opened := s.opened, hdrs := s.hdrs, crests := s.crests } = s ∧ (us = [] → t.crests = s.crests) := by
  have same := but_upsets us s
  have part : (us.foldl upset s).part = s.part := same .part rfl
  have packets : (us.foldl upset s).packets = s.packets := same .packets rfl
  have there := h.upsets us
  have link : (codePort p.tile.val (routePort p.route p.hop)).bind ((us.foldl upset s).part.hop p.tile.val) = some (ld.link.val, ld.back, k.val) := by
    rw [part, port, Option.bind_some, hop]
  have arrives := packetArrives_holds there code (by rw [part]; exact tile) through link
  have held := but_holdPacket_queued (ld := ld) there
  have sent : But 0x522 s (holdPacket p.id ld.link.val ld.back (us.foldl upset s)) :=
    but_holdPacket ((Within.self _).le rfl) (same.mono ((Within.self _).le rfl))
  obtain ⟨-, ends, -⟩ := hop_crosses hop
  refine ⟨_, congrArg Host.Outcome.next arrives, ?_, restored_of_but sent, ?_⟩
  · have serves := linkServed_drainLink (s := queued p (us.foldl upset s)) (ld := ld) (by rw [queued, part]; exact ends)
    have room : windowRoom (queued p (us.foldl upset s)) ld = windowRoom s ld :=
      windowRoom_congr (same .sched rfl) (same .opened rfl) (same .tb rfl) ld
    have now : (holdPacket p.id ld.link.val ld.back (us.foldl upset s)).packets = (drainLink ld (queued p (us.foldl upset s))).packets :=
      held .packets rfl
    rw [room, ← now, queued, packets] at serves
    exact linkServed_congr part serves
  · rintro rfl
    exact but_holdPacket (Within.self _) (.self _ _) .crests rfl

/-! ### The open window of a link direction begins (R31, R44) -/

/-- The window of the slot has begun: its room is what the rest of the slot carries. -/
def windowBegun (im : SchedImage) (ld : LinkDir) (s : State) : State :=
  { s with opened := ⟨ld, slotEnd s im, flitsUntil s im ld (slotEnd s im)⟩ :: s.opened.filter fun x => x.ld != ld }

theorem openWindow_free {s : State} (h : slotImage s = none) (ld : LinkDir) : openWindow ld s = drainLink ld s := by
  unfold openWindow; rw [h]

theorem openWindow_again {s : State} {im : SchedImage} {ld : LinkDir} (h : slotImage s = some im)
    (done : s.opened.any (fun w => w.ld == ld && w.endNs == slotEnd s im) = true) : openWindow ld s = s := by
  unfold openWindow
  rw [h]
  dsimp only
  rw [done, Bool.or_true, if_pos rfl]

theorem openWindow_noLink {s : State} {ld : LinkDir} (h : s.part.linkEnds ld.link.val = none) : openWindow ld s = s := by
  unfold openWindow
  split
  · exact drainLink_noLink h
  · rw [h, Option.isNone_none, Bool.true_or, if_pos rfl]

theorem openWindow_begins {s : State} {im : SchedImage} {ld : LinkDir} (h : slotImage s = some im) (link : s.part.linkEnds ld.link.val ≠ none)
    (first : s.opened.any (fun w => w.ld == ld && w.endNs == slotEnd s im) = false) :
    openWindow ld s = drainLink ld (windowBegun im ld (reach (windowStart s im ld) s)) := by
  unfold openWindow
  rw [h]
  dsimp only
  rw [first, Bool.or_false, if_neg (by rwa [Option.isNone_iff_eq_none])]
  rfl

theorem slotImage_running {s : State} {im : SchedImage} (h : slotImage s = some im) : s.sched.running = true ∧ s.sched.active = some im := by
  unfold slotImage at h
  split at h
  next on => exact ⟨(Bool.and_eq_true_iff.1 on).1, h⟩
  next => cases h

theorem windowRoom_windowBegun {s : State} {im : SchedImage} (ld : LinkDir) (running : s.sched.running = true)
    (active : s.sched.active = some im) : windowRoom (windowBegun im ld s) ld = flitsUntil s im ld (slotEnd s im) := by
  have first : (windowBegun im ld s).opened.find? (fun w => w.ld == ld) = some ⟨ld, slotEnd s im, flitsUntil s im ld (slotEnd s im)⟩ :=
    List.find?_cons_of_pos (beq_self_eq_true ld)
  have sched : (windowBegun im ld s).sched = s.sched := rfl
  unfold windowRoom
  rw [first, sched, running, active]
  exact Nat.min_self _

theorem but_reached (t : Nat) (s : State) : But 0x4004000012 s (reach t s) := but_reach (Within.self _) (.self _ s)

/-- What a window that begins sends, and what it has left. -/
theorem openWindow_serves {s : State} {im : SchedImage} {ld : LinkDir} (h : slotImage s = some im) (link : s.part.linkEnds ld.link.val ≠ none)
    (first : s.opened.any (fun w => w.ld == ld && w.endNs == slotEnd s im) = false) :
    let room := (slotEnd s im - schedNow (openWindow ld s)) * granuleFlits im ld.link.val / (slotNsOf im / 20)
    (openWindow ld s).tb = (reach (windowStart s im ld) s).tb ∧ linkServed s ld room s.packets (openWindow ld s).packets ∧
      ∃ w ∈ (openWindow ld s).opened, w.ld = ld ∧ w.endNs = slotEnd s im ∧ w.left = room - flitsWaiting s ld := by
  rw [openWindow_begins h link first]
  have same := but_reached (windowStart s im ld) s
  generalize reach (windowStart s im ld) s = u at same ⊢
  have part : u.part = s.part := same .part rfl
  have sched : u.sched = s.sched := same .sched rfl
  have packets : u.packets = s.packets := same .packets rfl
  obtain ⟨running, active⟩ := slotImage_running h
  have ends : (windowBegun im ld u).part.linkEnds ld.link.val ≠ none := by rw [windowBegun, part]; exact link
  have sent := but_drained ends
  have stop : slotEnd u im = slotEnd s im := by rw [slotEnd, slotEnd, sched]
  have tb : (drainLink ld (windowBegun im ld u)).tb = u.tb := sent .tb rfl
  have room : windowRoom (windowBegun im ld u) ld =
      (slotEnd s im - schedNow (drainLink ld (windowBegun im ld u))) * granuleFlits im ld.link.val / (slotNsOf im / 20) := by
    rw [windowRoom_windowBegun ld (by rw [sched]; exact running) (by rw [sched]; exact active), flitsUntil, stop, schedNow, schedNow, tb]
  have wait : flitsWaiting (windowBegun im ld u) ld = flitsWaiting s ld := flitsWaiting_congr part packets ld
  refine ⟨tb, ?_, ?_⟩
  · have serves := linkServed_drainLink ends
    rw [room, show (windowBegun im ld u).packets = s.packets from packets] at serves
    exact linkServed_congr part serves
  · have opened : (drainLink ld (windowBegun im ld u)).opened = (drained ld (windowBegun im ld u)).opened := sent .opened rfl
    rw [opened, ← room, ← wait]
    refine ⟨_, List.mem_map_of_mem List.mem_cons_self, ?_⟩
    rw [beq_self_eq_true, if_pos rfl]
    exact ⟨rfl, stop, tsub_min⟩

theorem openWindowStart_opensOnce (ld : LinkDir) (s : State) :
    (∃ t, exec (.openWindowStart ld) s = .next t ∧
      { t with packets := s.packets, hdrs := s.hdrs, opened := s.opened, tb := s.tb, recorder := s.recorder, free := s.free } = s ∧
      (∃ room, linkServed s ld room s.packets t.packets) ∧
      (slotImage s = none → t.tb = s.tb ∧ t.recorder = s.recorder ∧ t.free = s.free ∧
        (s.part.linkEnds ld.link.val ≠ none → linkServed s ld (windowRoom s ld) s.packets t.packets)) ∧
      (∀ im, slotImage s = some im → s.part.linkEnds ld.link.val ≠ none →
        s.opened.any (fun w => w.ld == ld && w.endNs == slotEnd s im) = false →
        let room := (slotEnd s im - schedNow t) * granuleFlits im ld.link.val / (slotNsOf im / 20)
        t.tb = (reach (windowStart s im ld) s).tb ∧ linkServed s ld room s.packets t.packets ∧
        ∃ w ∈ t.opened, w.ld = ld ∧ w.endNs = slotEnd s im ∧ w.left = room - flitsWaiting s ld)) ∧
    (∀ im, slotImage s = some im → s.opened.any (fun w => w.ld == ld && w.endNs == slotEnd s im) = true →
      exec (.openWindowStart ld) s = .next s) := by
  refine ⟨⟨openWindow ld s, rfl, restored_of_but (but_openWindow (Within.self _) (.self _ s)), ?_, fun free => ?_,
    fun im image link first => openWindow_serves image link first⟩, fun im image done => congrArg Host.Outcome.next (openWindow_again image done)⟩
  · by_cases link : s.part.linkEnds ld.link.val = none
    · rw [openWindow_noLink link]
      exact ⟨0, linkServed_nothing s ld _⟩
    · cases image : slotImage s with
      | none =>
        rw [openWindow_free image]
        exact ⟨_, linkServed_drainLink link⟩
      | some im =>
        cases first : s.opened.any (fun w => w.ld == ld && w.endNs == slotEnd s im) with
        | true =>
          rw [openWindow_again image first]
          exact ⟨0, linkServed_nothing s ld _⟩
        | false =>
          obtain ⟨-, serves, -⟩ := openWindow_serves image link first
          exact ⟨_, serves⟩
  · rw [openWindow_free free]
    have sent := but_drainLink (W := 0x502) (ld := ld) (Within.self _) (.self _ s)
    exact ⟨sent .tb rfl, sent .recorder rfl, sent .free rfl, linkServed_drainLink⟩

/-! ### A failure loses no urgent source -/

theorem urgentKept_of_but {W : Nat} {s t : State} (h : But W s t) (k : W.testBit 23 = false) : urgentKept s t := urgentKept_of_super (h .super k)

theorem urgentKept_foldl {α : Type} {f : State → α → State} (h : ∀ s a, urgentKept s (f s a)) (l : List α) (s : State) :
    urgentKept s (l.foldl f s) :=
  List.foldlRecOn (motive := urgentKept s) l f (urgentKept_refl s) fun t k a _ => urgentKept_trans k (h t a)

theorem urgentKept_setFunc (c : FuncCfg) (new : FuncState) (cause : BitVec 4) (s : State) : urgentKept s (setFunc c new cause s) := by
  have reacts : ∀ f ps, urgentKept s (raise .safety 1 (some c.tenant) ps (bump .safety 0x12 1 (updFunc c.number f s))) := fun f ps =>
    urgentKept_of_super (by rw [raise_super, bump_super]; rfl)
  unfold setFunc
  dsimp only
  split
  · exact urgentKept_refl s
  · split
    · exact urgentKept_trans (reacts _ _) (urgentKept_raiseUrgent _ _ _ _ _ _)
    · exact reacts _ _

theorem urgentKept_stopFunc (noHold : Bool) (s : State) (c : FuncCfg) : urgentKept s (stopFunc noHold s c) := by
  have holds : ∀ f t, urgentKept t (updFunc c.number f t) := fun _ _ => urgentKept_of_super rfl
  unfold stopFunc
  dsimp only
  split
  · split
    · exact urgentKept_setFunc _ _ _ _
    · exact urgentKept_refl s
  · split
    · split
      · exact urgentKept_setFunc _ _ _ _
      · exact urgentKept_refl s
    · split
      · exact urgentKept_trans (urgentKept_setFunc _ _ _ _) (holds _ _)
      · exact urgentKept_refl s

theorem urgentKept_stopController (st : RunState) (keepSingle noHold : Bool) (s : State) :
    urgentKept s (stopController st keepSingle noHold s) := by
  unfold stopController
  refine urgentKept_trans (urgentKept_trans (urgentKept_trans (urgentKept_trans (urgentKept_trans ?_
    (urgentKept_of_but (but_cancelSched (Within.self _) (.self _ _)) rfl))
    (urgentKept_of_but (but_cancelApp (Within.self _) (.self _ _)) rfl))
    (urgentKept_foldl (urgentKept_stopFunc noHold) _ _))
    (urgentKept_foldl (fun t c => urgentKept_of_but (but_cancelSlots (Within.self _) (.self _ t)) rfl) _ _))
    (urgentKept_of_but (but_safeOutputs (Within.self _) (.self _ _)) rfl)
  exact urgentKept_of_super rfl

theorem urgentKept_dropRejoin (s : State) : urgentKept s (dropRejoin s) := urgentKept_of_but (but_dropRejoin (Within.self _) (.self _ s)) rfl

theorem urgentKept_trio (x : Trio) (s : State) : urgentKept s { s with trio := x } := fun _ h => h

theorem urgentKept_giveUp (cause : Nat) (s : State) : urgentKept s (giveUp cause s) := by
  unfold giveUp giveUpWith
  split
  · exact urgentKept_refl s
  · have stopped := urgentKept_stopController (giveUpState cause false) (keepsSingle s && cause != 0x0C) (cause == 0x0A) s
    exact urgentKept_trans (urgentKept_trans (urgentKept_trans stopped (urgentKept_trio _ _)) (urgentKept_dropRejoin _))
      (urgentKept_raiseUrgent _ _ _ _ _ _)

theorem urgentKept_failDevice (code : Byte) (tile : BitVec 3) (s : State) : urgentKept s (failDevice code tile s) := by
  unfold failDevice
  split
  · exact urgentKept_of_but (but_startFails (Within.self _) (.self _ s)) rfl
  · unfold failSelfTest
    split
    · exact urgentKept_refl s
    · exact urgentKept_refl s
    · exact urgentKept_dropRejoin s
    · split
      · exact urgentKept_giveUp _ _
      · exact urgentKept_stopController _ _ _ _
    · split
      · exact urgentKept_giveUp _ _
      · exact urgentKept_trans (urgentKept_dropRejoin s) (urgentKept_stopController _ _ _ _)

/-! ### What handling as a failed self-test leaves (R18) -/

theorem stopController_state (st : RunState) (keepSingle noHold : Bool) (s : State) :
    (stopController st keepSingle noHold s).run.state = st := by
  obtain ⟨u, eq, -, state, -⟩ := stopController_safes st keepSingle noHold s
  have run : (safeOutputs keepSingle u).run = u.run := but_safeOutputs (Within.self _) (.self _ u) .run rfl
  rw [eq, run, state]

theorem dropRejoin_gaveUp (s : State) : (dropRejoin s).trio.gaveUp = s.trio.gaveUp ∧ (dropRejoin s).trio.cause = s.trio.cause := by
  unfold dropRejoin
  split
  · exact ⟨rfl, rfl⟩
  · rw [raise_trio]; exact ⟨rfl, rfl⟩

theorem giveUp_gaveUp (cause : Nat) (s : State) : (giveUp cause s).trio.gaveUp = true := by
  unfold giveUp giveUpWith
  split
  next h => exact h
  next => rw [raiseUrgent_trio, (dropRejoin_gaveUp _).1]

theorem giveUp_cause {s : State} (h : s.trio.gaveUp = false) (cause : Nat) : (giveUp cause s).trio.cause = BitVec.ofNat 8 cause := by
  unfold giveUp giveUpWith
  rw [h, if_neg Bool.false_ne_true, raiseUrgent_trio, (dropRejoin_gaveUp _).2]

theorem handledAsFailed_failDevice (code : Byte) (tile : BitVec 3) (s : State) : handledAsFailed code tile s (failDevice code tile s) := by
  have late : startingUp s = false → failDevice code tile s = failSelfTest s := fun h => by
    rw [failDevice, h, if_neg Bool.false_ne_true]
  refine ⟨fun h => ?_, fun h run trio => failDevice_stops h run trio, fun h run trio => ?_, fun h run trio gave => ?_, fun h run out => ?_⟩
  · rw [failDevice_startsNot h]
    refine ⟨rfl, rfl, rfl, ?_⟩
    rw [failDevice, if_pos h, startFails, note_run]
  · rw [late h, failSelfTest, run]
    dsimp only
    rw [trio, if_pos rfl]
    exact giveUp_gaveUp 1 s
  · rw [late h, failSelfTest, run]
    dsimp only
    rw [trio, gave, Bool.not_false, Bool.and_self, if_pos rfl]
    exact ⟨giveUp_gaveUp 1 s, giveUp_cause gave 1⟩
  · have stays : (inTrio s && !s.trio.gaveUp) = false := by
      obtain alone | gave := out
      · rw [alone, Bool.false_and]
      · rw [gave, Bool.not_true, Bool.and_false]
    rw [late h, failSelfTest, run]
    dsimp only
    rw [stays, if_neg Bool.false_ne_true]
    exact stopController_state _ _ _ _

theorem handledAsFailed_congr {code : Byte} {tile : BitVec 3} {s u t : State} (pwr : u.pwr = s.pwr) (sched : u.sched = s.sched) (run : u.run = s.run)
    (trio : u.trio = s.trio) (h : handledAsFailed code tile u t) : handledAsFailed code tile s t := by
  simpa only [handledAsFailed, startingUp, inTrio, pwr, sched, run, trio] using h

/-! ### A link goes down (R18, R431) -/

/-- A switch shows a port down. -/
def showsDown (q : Nat) (x : Switch) : Prop := x.up.getLsbD q = false ∧ x.down.getLsbD q = true

theorem showsDown_setDown (q : Nat) {r : Nat} {x : Switch} (h : showsDown q x ∨ q = r ∧ q < 9) :
    showsDown q { x with up := setBit x.up r false, down := setBit x.down r true } := by
  unfold showsDown at *
  rw [setBit_getLsbD, setBit_getLsbD]
  grind

/-- The end of a link shows its port down and has raised LINK. -/
def endDown (e : LinkEnd) (t : State) : Prop :=
  showsDown e.port (switchAt t e.tile) ∧ ∀ pg, switchPage e.tile = some pg → (hdrAt t pg).raw.getLsbD 0 = true

theorem endDown.after {W : Nat} {e : LinkEnd} {t u : State} (h : endDown e t) (b : But W t u) (hw : W &&& 0x60 = 0) (raw : rawKept t u) :
    endDown e u := by
  obtain ⟨down, bit⟩ := h
  exact ⟨by rwa [switchAt_of_but b hw], fun pg page => raw _ _ (bit pg page)⟩

theorem switchAt_portDown (e : LinkEnd) (sev : BitVec 3) (s : State) (k : Nat) : switchAt (portDown e sev s) k =
    switchAt (updSwitch e.tile (fun x => { x with up := setBit x.up e.port false, down := setBit x.down e.port true }) s) k :=
  switchAt_raiseSwitch _ _ _ _ _

theorem rawKept_portDown (e : LinkEnd) (sev : BitVec 3) (s : State) : rawKept s (portDown e sev s) :=
  rawKept_trans (rawKept_updSwitch _ _ _) (rawKept_raiseSwitch _ _ _ _)

theorem endDown_portDown {e : LinkEnd} (ht : e.tile < 7) (hp : e.port < 9) (sev : BitVec 3) (s : State) : endDown e (portDown e sev s) := by
  refine ⟨?_, fun pg page => ?_⟩
  · rw [switchAt_portDown, switchAt_updSwitch_same ht]
    exact showsDown_setDown _ (.inr ⟨rfl, hp⟩)
  · rw [portDown, raiseSwitch_eq page]
    exact raiseSev_sets _ _ _ _ _ _ (by decide)

theorem endDown.portDown {e : LinkEnd} {s : State} (h : endDown e s) (f : LinkEnd) (sev : BitVec 3) : endDown e (portDown f sev s) := by
  obtain ⟨down, bit⟩ := h
  refine ⟨?_, fun pg page => rawKept_portDown _ _ _ _ _ (bit pg page)⟩
  rw [switchAt_portDown]
  exact updSwitch_keeps (fun x hx => showsDown_setDown _ (.inl hx)) _ _ down

theorem retry_portDown (e : LinkEnd) (sev : BitVec 3) (s : State) (k : Nat) : (switchAt (portDown e sev s) k).retry = (switchAt s k).retry := by
  rw [switchAt_portDown]
  refine updSwitch_keeps (P := fun x => x.retry = (switchAt s k).retry) ?_ e.tile k (Eq.refl _)
  exact fun _ same => same

theorem linkDown_fabric {l : Nat} {a b : LinkEnd} {s : State} (h : s.part.linkEnds l = some (a, b)) (fabric : l ≠ fieldLink) :
    linkDown l s = portDown b 7 (portDown a 7 (urgent 504 s)) := by
  unfold linkDown
  rw [h]
  exact if_neg fabric

theorem linkDown_field {a b : LinkEnd} {s : State} (h : s.part.linkEnds fieldLink = some (a, b)) : linkDown fieldLink s = fieldLinkFalls s := by
  unfold linkDown
  rw [h]
  exact if_pos rfl

theorem retry_linkDown (l : Nat) (s : State) (k : Nat) : (switchAt (linkDown l s) k).retry = (switchAt s k).retry := by
  have falls : (switchAt (fieldLinkFalls s) k).retry = (switchAt s k).retry := by
    unfold fieldLinkFalls
    split
    · rfl
    · rw [switchAt_of_but (but_raise (Within.self _) (.self _ _)) rfl, retry_portDown]
      rfl
  unfold linkDown
  split
  · rfl
  · split
    · exact falls
    · rw [retry_portDown, retry_portDown]
      rfl

/-- Both ends of a fabric link that goes down show it, with urgent source 504 (Table 13.3). -/
theorem linkDown_showsEnds {l : Nat} {a b : LinkEnd} {s : State} (h : s.part.linkEnds l = some (a, b)) (fabric : l ≠ fieldLink) :
    (linkDown l s).super.urgent.getLsbD 8 = true ∧ ∀ e ∈ [a, b], e.tile < 7 → endDown e (linkDown l s) := by
  obtain ⟨pa, pb⟩ := linkEnds_port_lt h
  rw [linkDown_fabric h fabric]
  refine ⟨?_, fun e he tile => ?_⟩
  · have super : (portDown b 7 (portDown a 7 (urgent 504 s))).super = (urgent 504 s).super :=
      but_portDown (W := 0x4004000062) (Within.self _) (but_portDown (Within.self _) (.self _ _)) .super rfl
    rw [super]
    exact setBit_getLsbD_same _ _ (by decide)
  · rw [List.mem_pair] at he
    obtain rfl | rfl := he
    · exact (endDown_portDown tile pa _ _).portDown _ _
    · exact endDown_portDown tile pb _ _

/-! ### A flit fails (R18) -/

/-- A flit's failure is counted: with its link direction, and at the switch of the tile `k` that sends it. -/
def flitCounted (ld : LinkDir) (n k : Nat) (s : State) : State :=
  bumpSwitch k 0x12 1 (updSwitch k (fun x => { x with retry := satInc x.retry })
    { s with flitFails := (ld, n) :: s.flitFails.filter fun x => x.1 != ld })

theorem flitFails_noLink {ld : LinkDir} {s : State} (h : s.part.linkEnds ld.link.val = none) (again : Bool) : flitFails ld again s = s := by
  unfold flitFails; rw [h]

theorem flitFails_eq {ld : LinkDir} {s : State} {a b : LinkEnd} (h : s.part.linkEnds ld.link.val = some (a, b)) (again : Bool) :
    flitFails ld again s =
      if failCount ld again s = 3 then
        failDevice 0xF1 0 (linkDown ld.link.val (flitCounted ld (failCount ld again s) (if ld.back then b.tile else a.tile) s))
      else flitCounted ld (failCount ld again s) (if ld.back then b.tile else a.tile) s := by
  unfold flitFails; rw [h]; rfl

theorem but_flitCounted (ld : LinkDir) (n k : Nat) (s : State) : But 0xe2 s (flitCounted ld n k s) :=
  but_bumpSwitch ((Within.self _).le rfl) (but_updSwitch ((Within.self _).le rfl) (but_mk_flitFails ((Within.self _).le rfl) (.self _ s)))

theorem flitCounted_flitFails (ld : LinkDir) (n k : Nat) (s : State) :
    (flitCounted ld n k s).flitFails = (ld, n) :: s.flitFails.filter fun x => x.1 != ld :=
  but_bumpSwitch (W := 0x62) ((Within.self _).le rfl) (but_updSwitch ((Within.self _).le rfl) (.self _ _)) .flitFails rfl

theorem retry_flitCounted (ld : LinkDir) (n : Nat) {k : Nat} (hk : k < 7) (s : State) :
    (switchAt (flitCounted ld n k s) k).retry = satInc (switchAt s k).retry := by
  rw [flitCounted, switchAt_bumpSwitch, switchAt_updSwitch_same hk]
  rfl

/-- What the fall of a link leaves: a failed self-test; both ends of a fabric link show it, with urgent source 504, and Saddle's end of the
field link does. -/
structure LinkFell (l : Nat) (a b : LinkEnd) (s t : State) : Prop where
  failed : handledAsFailed 0xF1 0 s t
  fabric : l ≠ fieldLink → t.super.urgent.getLsbD 8 = true ∧ ∀ e ∈ [a, b], e.tile < 7 → endDown e t
  field : l = fieldLink → t.field.linkUp = false ∧ (s.field.linkUp = true → showsDown 8 t.hub ∧
    (hdrAt t .field).raw.getLsbD 3 = true ∧ (hdrAt t .hub).raw.getLsbD 0 = true)

/-- A link that is declared down is handled as a failed self-test (R18). -/
theorem linkFell_failDevice {l : Nat} {a b : LinkEnd} {s u : State} (same : But 0xe2 s u) (h : s.part.linkEnds l = some (a, b)) :
    LinkFell l a b s (failDevice 0xF1 0 (linkDown l u)) := by
  have ends : u.part.linkEnds l = some (a, b) := by rw [show u.part = s.part from same .part rfl, h]
  have down : But 0x40048400e2 s (linkDown l u) := but_linkDown ((Within.self _).le rfl) (same.mono ((Within.self _).le rfl))
  have fails := but_failDevice (W := 0x4204a7c802) (code := 0xF1) (tile := 0) (Within.self _) (.self _ (linkDown l u))
  have raw := (failedBy_failDevice 0xF1 0 (linkDown l u)).raw
  refine ⟨handledAsFailed_congr (down .pwr rfl) (down .sched rfl) (down .run rfl) (down .trio rfl) (handledAsFailed_failDevice _ _ _),
    fun fabric => ?_, ?_⟩
  · obtain ⟨urgent, shown⟩ := linkDown_showsEnds ends fabric
    exact ⟨urgentKept_failDevice _ _ _ _ urgent, fun e he tile => (shown e he tile).after fails rfl raw⟩
  · rintro rfl
    have falls := linkDown_field ends
    have steady := (failedBy_failDevice 0xF1 0 (linkDown fieldLink u)).safeOnly.steady
    have field : (linkDown fieldLink u).field.linkUp = false := by rw [falls, fieldLinkFalls_field]
    refine ⟨(congrArg Field.linkUp steady).trans field, fun up => ?_⟩
    have wasUp : u.field.linkUp = true := by rw [show u.field = s.field from same .field rfl, up]
    have hub : (failDevice 0xF1 0 (linkDown fieldLink u)).hub = { u.hub with up := setBit u.hub.up 8 false, down := setBit u.hub.down 8 true } :=
      (fails .hub rfl).trans (by rw [falls, fieldLinkFalls_hub wasUp])
    obtain ⟨fieldBit, hubBit⟩ := fieldLinkFalls_raises wasUp
    rw [← falls] at fieldBit hubBit
    exact ⟨by rw [hub]; exact showsDown_setDown 8 (.inr ⟨rfl, by decide⟩), raw _ _ fieldBit, raw _ _ hubBit⟩

theorem flitCheckFail_countsAndFails {ld : LinkDir} {s : State} {a b : LinkEnd} (h : s.part.linkEnds ld.link.val = some (a, b)) (again : Bool) :
    let from_ := if ld.back then b.tile else a.tile
    let n := failCount ld again s
    ∃ t, exec (.flitCheckFail ld again) s = .next t ∧ (t.flitFails.find? fun x => x.1 == ld) = some (ld, n) ∧ t.packets = s.packets ∧
      (from_ < 7 → (switchAt t from_).retry = satInc (switchAt s from_).retry) ∧
      (n ≠ 3 → { t with flitFails := s.flitFails, hub := s.hub, crests := s.crests, hdrs := s.hdrs } = s) ∧
      (n = 3 → LinkFell ld.link.val a b s t) := by
  intro k n
  have counted := but_flitCounted ld n k s
  have found : (flitCounted ld n k s).flitFails.find? (fun x => x.1 == ld) = some (ld, n) := by
    rw [flitCounted_flitFails]
    exact List.find?_cons_of_pos (beq_self_eq_true ld)
  have result := flitFails_eq h again
  by_cases third : n = 3
  · rw [if_pos third] at result
    have fails := fun u => but_failDevice (W := 0x4204a7c802) (code := 0xF1) (tile := 0) (Within.self _) (.self _ (linkDown ld.link.val u))
    have rest : But 0x4204a7c862 (flitCounted ld n k s) (failDevice 0xF1 0 (linkDown ld.link.val (flitCounted ld n k s))) :=
      but_failDevice ((Within.self _).le rfl) (but_linkDown ((Within.self _).le rfl) (.self _ _))
    refine ⟨_, congrArg Host.Outcome.next result, ?_, (rest .packets rfl).trans (counted .packets rfl), fun hk => ?_,
      fun other => absurd third other, fun _ => linkFell_failDevice counted h⟩
    · exact (congrArg (List.find? fun x => x.1 == ld) (rest .flitFails rfl)).trans found
    · exact (congrArg Switch.retry (switchAt_of_but (fails _) rfl k)).trans ((retry_linkDown _ _ _).trans (retry_flitCounted ld n hk s))
  · rw [if_neg third] at result
    exact ⟨_, congrArg Host.Outcome.next result, found, counted .packets rfl, fun hk => retry_flitCounted ld n hk s,
      fun _ => restored_of_but counted, fun is => absurd is third⟩

/-- Settles O19: the launch, the arrival at a switch with each of its ends, the open window and the failing flit, each by its lemma above. -/
theorem fabricPacketsAndFlits : Obligations.FabricPacketsAndFlits := by
  unfold Obligations.FabricPacketsAndFlits
  refine ⟨bePacketLaunch_entersOrNot, fun s p us only mem moving u => bePacketArrive_discards us ⟨only, mem, moving⟩ u,
    fun s p us q ld k only mem moving code tile through port hop =>
      bePacketArrive_forwards us ⟨only, mem, moving⟩ code tile through port hop,
    fun s p only mem moving code tile out owns => ?_, mayWrite_iff, fun ld s => ?_⟩
  · have here : Delivered s p := ⟨⟨only, mem, moving⟩, code, tile, out, owns⟩
    exact ⟨fun n us k => ⟨bePacketArrive_reads us here k, fun c w => bePacketArrive_readsBad us here k⟩,
      fun d us k wf => ⟨bePacketArrive_writes us here k wf, bePacketArrive_refusesWrite us here k⟩⟩
  · obtain ⟨opens, once⟩ := openWindowStart_opensOnce ld s
    refine ⟨opens, once, fun absent again => congrArg Host.Outcome.next (flitFails_noLink absent again), fun a b again link => ?_⟩
    obtain ⟨t, next, found, packets, retry, frame, third⟩ := flitCheckFail_countsAndFails link again
    refine ⟨t, next, found, packets, retry, frame, fun n => ?_⟩
    obtain ⟨failed, fabric, field⟩ := third n
    refine ⟨failed, fun l => ?_, fun l => ?_⟩
    · obtain ⟨urgent, shown⟩ := fabric l
      refine ⟨urgent, fun e he tile => ?_⟩
      obtain ⟨⟨up, down⟩, bit⟩ := shown e he tile
      exact ⟨up, down, fun pg page _ => bit pg page⟩
    · obtain ⟨fell, shown⟩ := field l
      refine ⟨fell, fun up => ?_⟩
      obtain ⟨⟨up, down⟩, bits⟩ := shown up
      exact ⟨up, down, bits⟩

end Sys2Proof.Machine

/-! Proofs about the schedule block: its commands, the commit point and the swaps (chapters 2 and 4). -/
namespace Sys2Proof.Machine
open Sys2Proof.Stmt

/-! ### Accesses that a page answers -/

/-- An access that its page answers: counted there and answered as done, before it acts. -/
def accessed (pg : Page) (s : State) : State := bump pg 2 1 { s with resp := .done }

theorem onPage_accessed {q : Req} {pg : Page} {s : State} (h : pgRefuses q pg s = false) (f : State → State) :
    onPage q pg f s = f (accessed pg s) := by
  unfold onPage; rw [h]; rfl

theorem countsOnly_bump (pg : Page) (code n : Nat) (s : State) : countsOnly pg s (bump pg code n s) :=
  ⟨fun p => hdrAt_bump pg p code n s, fun p h => hdrAt_bump_ne pg p code n s h⟩

theorem countsOnly_accessed (pg : Page) (s : State) : countsOnly pg s (accessed pg s) := countsOnly_bump pg 2 1 { s with resp := .done }

theorem countsOnly_of_hdrs {pg : Page} {s t u : State} (h : countsOnly pg s t) (e : u.hdrs = t.hdrs) : countsOnly pg s u := by
  simpa only [countsOnly, hdrAt, e] using h

theorem but_accessed (pg : Page) (s : State) : But 0x1000000002 s (accessed pg s) :=
  but_bump ((Within.self _).le rfl) (but_mk_resp ((Within.self _).le rfl) (.self _ s))

@[simp] theorem accessed_resp (pg : Page) (s : State) : (accessed pg s).resp = .done := bump_resp _ _ _ _

/-! ### The schedule block's commands (R57 to R62) -/

section
variable {q : Req} {s : State} (h : pgRefuses q .schedule s = false)
include h

theorem exec_schActivate (withApp trio : Bool) : exec (.schActivate q withApp trio) s = .next (cmdSchActivate withApp trio (accessed .schedule s)) :=
  congrArg Host.Outcome.next (onPage_accessed h _)

theorem exec_schLoad : exec (.schLoad q) s = .next (cmdSchLoad (accessed .schedule s)) := congrArg Host.Outcome.next (onPage_accessed h _)

theorem exec_schCancel : exec (.schCancel q) s = .next (cmdSchCancel (accessed .schedule s)) := congrArg Host.Outcome.next (onPage_accessed h _)

theorem exec_schDiscard : exec (.schDiscard q) s = .next (cmdSchDiscard (accessed .schedule s)) := congrArg Host.Outcome.next (onPage_accessed h _)

end

/-- A refusal after the block has changed by `f` (an error position, or nothing). -/
theorem schedRefuse_after (c : Byte) (f : Sched → Sched) (s : State) :
    let t := schedRefuse c (updSched f (accessed .schedule s))
    t.resp = .done ∧ t.sched = { f s.sched with code := c } ∧ (hdrAt t .schedule).raw.getLsbD 2 = true ∧
      eventFrame { s with sched := t.sched, resp := t.resp } t := by
  intro t
  have same := but_accessed .schedule s
  have sched : (accessed .schedule s).sched = s.sched := same .sched rfl
  have frame : But 0x5004004002 s t := but_schedRefuse ((Within.self _).le rfl) (but_updSched ((Within.self _).le rfl) (same.mono ((Within.self _).le rfl)))
  refine ⟨?_, ?_, raise_sets _ _ _ _ _ (by decide), ?_⟩
  · exact (raise_resp _ _ _ _ _).trans (accessed_resp _ _)
  · exact (raise_sched _ _ _ _ _).trans (by rw [updSched, updSched, sched])
  · exact (congrArg (fun x : State => { x with sched := t.sched, resp := t.resp }) (restored_of_but frame) :)

theorem schedRefused_schedRefuse (c : Byte) (s : State) : schedRefused c s (schedRefuse c (accessed .schedule s)) :=
  schedRefuse_after c id s

/-- A command that after its access changes the block, and run control under WITH_APP, leaves all else. -/
theorem accessed_changes {s t : State} (frame : But 0x100000c000 (accessed .schedule s) t) :
    countsOnly .schedule s t ∧ { t with sched := s.sched, run := s.run, hdrs := s.hdrs, resp := s.resp } = s :=
  ⟨countsOnly_of_hdrs (countsOnly_accessed .schedule s) (frame .hdrs rfl),
    restored_of_but (((but_accessed .schedule s).mono ((Within.self 0x100000c002).le rfl)).trans (frame.mono ((Within.self _).le rfl)))⟩

theorem but_block_run (f : Sched) (g : RunCtl) (s : State) : But 0xc000 s { s with sched := f, run := g } :=
  but_mk_run (x := { s with sched := f }) ((Within.self _).le rfl) (but_mk_sched ((Within.self _).le rfl) (.self _ s))

theorem schedDone_updSched (f : Sched → Sched) (s : State) : schedDone f s (updSched f (accessed .schedule s)) := by
  have same := but_accessed .schedule s
  have sched : (accessed .schedule s).sched = s.sched := same .sched rfl
  refine ⟨accessed_resp _ _, congrArg f sched, countsOnly_accessed _ _, ?_⟩
  exact (congrArg (fun x : State => { x with sched := s.sched }) (restored_of_but same) :)

/-! What the checks read is not changed by the access. -/

theorem eq_of_but_hdrs_resp {s t : State} (h : But 0x1000000002 s t) : t = { s with resp := t.resp, hdrs := t.hdrs } :=
  (congrArg (fun x : State => { x with resp := t.resp, hdrs := t.hdrs }) (restored_of_but h) :)

theorem accessed_eq (pg : Page) (s : State) : accessed pg s = { s with resp := .done, hdrs := (accessed pg s).hdrs } := by
  have h := eq_of_but_hdrs_resp (but_accessed pg s)
  rwa [accessed_resp] at h

theorem accessed_sched (pg : Page) (s : State) : (accessed pg s).sched = s.sched := but_accessed pg s .sched rfl

theorem accessed_run (pg : Page) (s : State) : (accessed pg s).run = s.run := but_accessed pg s .run rfl

theorem frameLate_accessed (pg : Page) (s : State) (f : DWord) : frameLate (accessed pg s) f = frameLate s f := by rw [accessed_eq]; rfl

theorem hasPartner_accessed (pg : Page) (s : State) : hasPartner (accessed pg s) = hasPartner s := by rw [accessed_eq]; rfl

theorem appInFrame_accessed (pg : Page) (s : State) (f : DWord) (withApp : Bool) :
    appInFrame (accessed pg s) f withApp = appInFrame s f withApp := by rw [accessed_eq]; rfl

theorem pastCommit_accessed (pg : Page) (s : State) (f : DWord) : pastCommit (accessed pg s) f = pastCommit s f := by rw [accessed_eq]; rfl

/-! The checks of ACTIVATE, in the order of their codes (Table 2.23). -/

section
variable {withApp trio : Bool} {s : State}

theorem cmdSchActivate_late (late : frameLate s s.sched.target = true) : cmdSchActivate withApp trio s = schedRefuse 0x20 s := by
  unfold cmdSchActivate; rw [if_pos late]

theorem cmdSchActivate_busy (late : ¬ frameLate s s.sched.target = true) (busy : s.sched.bank = .armed) :
    cmdSchActivate withApp trio s = schedRefuse 0x21 s := by
  unfold cmdSchActivate; rw [if_neg late, busy]; rfl

/-- Is there no image that could be armed: none in shadow that is VALID, or WITH_APP without an application bank that waits for it? -/
def nothingToArm (withApp : Bool) (s : State) (im : Option SchedImage) : Prop :=
  s.sched.bank ≠ .valid ∨ im = none ∨ (withApp = true ∧ ¬ (s.run.bank = .armed ∧ s.run.ownTarget = false))

theorem cmdSchActivate_noShadow (late : ¬ frameLate s s.sched.target = true) (busy : s.sched.bank ≠ .armed)
    (nothing : nothingToArm withApp s s.sched.shadow) : cmdSchActivate withApp trio s = schedRefuse 0x22 s := by
  have free : ¬ (s.sched.bank == .armed) = true := by simpa using busy
  unfold cmdSchActivate
  rw [if_neg late, if_neg free]
  by_cases valid : s.sched.bank = .valid
  · cases image : s.sched.shadow with
    | none => simp
    | some im =>
      obtain other | none_ | ⟨app, waits⟩ := nothing
      · exact absurd valid other
      · rw [image] at none_; cases none_
      · have missing : (withApp && !(s.run.bank == .armed && !s.run.ownTarget)) = true := by
          rw [app, Bool.true_and, Bool.not_eq_true', Bool.eq_false_iff]
          simpa using waits
        rw [valid, show (BankState.valid == BankState.valid) = true from rfl, if_pos rfl]
        exact if_pos missing
  · have empty : (s.sched.bank == .valid) = false := by simpa using valid
    rw [empty]; rfl

/-- With an image to arm, the checks go on with the writers and the partners (R59). -/
theorem cmdSchActivate_checks {im : SchedImage} (late : ¬ frameLate s s.sched.target = true) (valid : s.sched.bank = .valid)
    (shadow : s.sched.shadow = some im) (image : ¬ nothingToArm withApp s (some im)) :
    cmdSchActivate withApp trio s = match appMismatch im (appInFrame s s.sched.target withApp) with
      | some e => schedRefuse 0x24 (updSched (fun x => { x with
          errTable := BitVec.ofNat 8 e.table, errIndex := BitVec.ofNat 24 e.index }) s)
      | none =>
        if !trio && hasPartner s then schedRefuse 0x25 s
        else
          let s := updSched (fun x => { x with bank := .armed, code := 0, armedFrame := s.sched.target, armedApp := withApp, armedTrio := trio }) s
          if withApp then updRun (fun r => { r with armedFrame := s.sched.armedFrame }) s else s := by
  have waits : (withApp && !(s.run.bank == .armed && !s.run.ownTarget)) = false := by
    cases withApp with
    | false => rfl
    | true =>
      have both : s.run.bank = .armed ∧ s.run.ownTarget = false := by
        by_contra other
        exact image (.inr (.inr ⟨rfl, other⟩))
      rw [both.1, both.2]; rfl
  unfold cmdSchActivate
  rw [if_neg late, valid, shadow, if_neg (by decide), show (BankState.valid == BankState.valid) = true from rfl, if_pos rfl]
  dsimp only
  rw [if_neg (by rw [waits]; exact Bool.false_ne_true)]
  rfl

end

/-- Settles O13: the refusals in code order, then the arming, each by its lemma above. -/
theorem scheduleActivateChecksInCodeOrder : Obligations.ScheduleActivateChecksInCodeOrder := by
  unfold Obligations.ScheduleActivateChecksInCodeOrder
  intro q withApp trio s answers f late noShadow lone
  have target : (accessed .schedule s).sched.target = f := by rw [accessed_sched]
  have lates : frameLate (accessed .schedule s) (accessed .schedule s).sched.target = frameLate s f := by rw [target, frameLate_accessed]
  have bank : (accessed .schedule s).sched.bank = s.sched.bank := by rw [accessed_sched]
  have shadow : (accessed .schedule s).sched.shadow = s.sched.shadow := by rw [accessed_sched]
  have nothing : ∀ im, nothingToArm withApp (accessed .schedule s) im ↔ noShadow im := fun im => by
    rw [nothingToArm, accessed_sched, accessed_run]
  refine ⟨_, exec_schActivate answers withApp trio, fun l => ?_, fun l b => ?_, fun l b n => ?_, fun im l v sh n => ?_⟩
  · rw [cmdSchActivate_late (lates.trans l)]
    exact schedRefused_schedRefuse _ _
  · rw [cmdSchActivate_busy (by rw [lates]; exact l) (bank.trans b)]
    exact schedRefused_schedRefuse _ _
  · rw [cmdSchActivate_noShadow (by rw [lates]; exact l) (by rw [bank]; exact b) (by rw [shadow, nothing]; exact n)]
    exact schedRefused_schedRefuse _ _
  · rw [cmdSchActivate_checks (by rw [lates]; exact l) (bank.trans v) (shadow.trans sh) (by rw [nothing]; exact n), target,
      appInFrame_accessed, hasPartner_accessed]
    refine ⟨fun e he => ?_, fun ok al => ?_, fun ok al => ?_⟩
    · rw [he]
      obtain ⟨-, sched, raw, frame⟩ := schedRefuse_after 0x24
        (fun x => { x with errTable := BitVec.ofNat 8 e.table, errIndex := BitVec.ofNat 24 e.index }) s
      exact ⟨sched, raw, frame⟩
    · rw [ok]
      have alone : (!trio && hasPartner s) = true := by rw [al.1, al.2]; rfl
      dsimp only
      rw [if_pos alone]
      exact schedRefused_schedRefuse _ _
    · rw [ok]
      have joint : ¬ (!trio && hasPartner s) = true := fun x => al (by simpa using x)
      dsimp only
      rw [if_neg joint]
      cases withApp with
      | false =>
        exact ⟨by rw [← accessed_sched .schedule s]; rfl, accessed_run .schedule s, accessed_changes
          (but_updSched ((Within.self _).le rfl) (.self _ _))⟩
      | true =>
        exact ⟨by rw [← accessed_sched .schedule s]; rfl, by rw [← accessed_run .schedule s]; rfl, accessed_changes
          (but_updRun ((Within.self _).le rfl) (but_updSched ((Within.self _).le rfl) (.self _ _)))⟩

/-! LOAD, DISCARD and CANCEL (Table 2.22), and the end of validation. -/

section
variable {s : State}

theorem bank_busy_iff : (s.sched.bank == .loading || s.sched.bank == .armed) = true ↔ s.sched.bank = .loading ∨ s.sched.bank = .armed := by
  simp

theorem cmdSchLoad_busy (busy : s.sched.bank = .loading ∨ s.sched.bank = .armed) : cmdSchLoad s = schedRefuse 0x21 s :=
  if_pos (bank_busy_iff.2 busy)

theorem cmdSchLoad_free (free : ¬ (s.sched.bank = .loading ∨ s.sched.bank = .armed)) :
    cmdSchLoad s = updSched (fun x => { x with
      bank := .loading, shadow := none, shadowEnv := none, code := 0, loadFrom := x.loadAddr.toNat * 64, loadBytes := x.loadLen.toNat }) s :=
  if_neg (mt bank_busy_iff.1 free)

theorem cmdSchDiscard_busy (busy : s.sched.bank = .loading ∨ s.sched.bank = .armed) : cmdSchDiscard s = schedRefuse 0x21 s :=
  if_pos (bank_busy_iff.2 busy)

theorem cmdSchDiscard_free (free : ¬ (s.sched.bank = .loading ∨ s.sched.bank = .armed)) :
    cmdSchDiscard s = updSched (fun x => { x with bank := .empty, code := 0, shadow := none, shadowEnv := none }) s :=
  if_neg (mt bank_busy_iff.1 free)

theorem cmdSchCancel_late (armed : s.sched.bank = .armed) (past : pastCommit s s.sched.armedFrame = true) :
    cmdSchCancel s = schedRefuse 0x20 s := by
  unfold cmdSchCancel
  rw [armed, past]; rfl

theorem cmdSchCancel_unarmed (unarmed : s.sched.bank ≠ .armed) : cmdSchCancel s = schedRefuse 0x23 s := by
  have no : (s.sched.bank == .armed) = false := by simpa using unarmed
  unfold cmdSchCancel
  rw [bne, no]; rfl

/-- A CANCEL in time takes the bank back to VALID, with the application bank that waits for it. -/
theorem cmdSchCancel_inTime (armed : s.sched.bank = .armed) (inTime : pastCommit s s.sched.armedFrame = false) :
    cmdSchCancel s = { s with
      sched := { s.sched with bank := .valid, code := 0, armedApp := false, armedTrio := false }
      run := if s.sched.armedApp && s.run.bank == .armed && !s.run.ownTarget then { s.run with bank := .valid } else s.run } := by
  unfold cmdSchCancel
  rw [armed, inTime, if_neg (by decide), if_neg (by decide)]
  dsimp only [updSched, updRun]
  split <;> rfl

end

theorem validationEnd_fields (s : State) (loading : s.sched.bank = .loading) :
    (endSchValidation s).sched = match (validateSched s).2.1 with
      | some f => { s.sched with
          bank := .empty, code := BitVec.ofNat 8 f.code, errTable := BitVec.ofNat 8 f.table, errIndex := BitVec.ofNat 24 f.index }
      | none => { s.sched with
          bank := .valid, code := 0, errTable := 0, errIndex := 0, shadowEnv := (validateSched s).2.2
          shadow := some (schedOf (memRead s.sram s.sched.loadFrom s.sched.loadBytes).toArray) } := by
  unfold endSchValidation
  rw [loading, if_neg (by decide), raise_sched]
  cases (validateSched s).2.1 <;> rfl

theorem validationEnd_raises (s : State) (loading : s.sched.bank = .loading) : (hdrAt (endSchValidation s) .schedule).raw.getLsbD 0 = true := by
  unfold endSchValidation
  rw [loading, if_neg (by decide)]
  exact raise_sets _ _ _ _ _ (by decide)

theorem validationEnd_upd (s : State) (loading : s.sched.bank = .loading) :
    (endSchValidation s).upd = { s.upd with env := (endSchValidation s).upd.env } := by
  unfold endSchValidation
  rw [loading, if_neg (by decide), raise_upd]
  cases (validateSched s).2.1 <;> rfl

/-- Settles O14: each command by its equations, the end of validation by the block it leaves. -/
theorem scheduleLoadCancelDiscardValidation : Obligations.ScheduleLoadCancelDiscardValidation := by
  unfold Obligations.ScheduleLoadCancelDiscardValidation
  refine ⟨fun q s answers => ?_, fun s loading => ?_⟩
  · intro busy
    have sched : (accessed .schedule s).sched = s.sched := accessed_sched _ s
    have run : (accessed .schedule s).run = s.run := accessed_run _ s
    refine ⟨⟨_, exec_schLoad answers, fun b => ?_, fun b => ?_⟩, ⟨_, exec_schDiscard answers, fun b => ?_, fun b => ?_⟩,
      ⟨_, exec_schCancel answers, fun armed past => ?_, fun unarmed => ?_, fun armed inTime => ?_⟩⟩
    · rw [cmdSchLoad_busy (by rwa [sched])]
      exact schedRefused_schedRefuse _ _
    · rw [cmdSchLoad_free (by rwa [sched])]
      exact schedDone_updSched _ _
    · rw [cmdSchDiscard_busy (by rwa [sched])]
      exact schedRefused_schedRefuse _ _
    · rw [cmdSchDiscard_free (by rwa [sched])]
      exact schedDone_updSched _ _
    · rw [cmdSchCancel_late (by rwa [sched]) (by rwa [sched, pastCommit_accessed])]
      exact schedRefused_schedRefuse _ _
    · rw [cmdSchCancel_unarmed (by rwa [sched])]
      exact schedRefused_schedRefuse _ _
    · rw [cmdSchCancel_inTime (by rwa [sched]) (by rwa [sched, pastCommit_accessed]), sched, run]
      refine ⟨rfl, fun app bank own => ?_, fun app => ?_, accessed_changes
        ((but_block_run _ _ _).mono ((Within.self _).le rfl))⟩
      · rw [app, bank, own]; rfl
      · rw [app]; rfl
  · have frame : But 0x4104004002 s (endSchValidation s) := but_endSchValidation ((Within.self _).le rfl) (.self _ s)
    refine ⟨_, rfl, validationEnd_raises s loading, ?_, ?_⟩
    · have fields := validationEnd_fields s loading
      cases checked : (validateSched s).2.1 with
      | some f => rw [checked] at fields; exact fields
      | none => rw [checked] at fields; rw [fields]; exact ⟨rfl, rfl, rfl, rfl⟩
    · rw [eventFrame, ← validationEnd_upd s loading]
      exact (congrArg (fun x : State => { x with sched := (endSchValidation s).sched, upd := (endSchValidation s).upd }) (restored_of_but frame) :)

end Sys2Proof.Machine

/-! Proofs about the Ethernet ports: frames that start and end, gate windows and links (chapter 11). -/
namespace Sys2Proof.Machine
open Sys2Proof.Stmt

/-! ### Ports P0 to P7 -/

@[simp] theorem portAt_updEth_same (p : Fin 8) (f : EthPort → EthPort) (s : State) : portAt (updEth p f s) p = f (portAt s p) :=
  Vec.at_upd_same _ _ _

theorem onlyPort_trans {i : Fin 10} {s t u : State} (h : onlyPort i s t) (k : onlyPort i t u) : onlyPort i s u :=
  fun m hm => (k m hm).trans (h m hm)

theorem onlyPort_updEth (p : Fin 8) (f : EthPort → EthPort) (s : State) : onlyPort (ethPortIdx p) s (updEth p f s) :=
  fun m hm => Vec.at_upd_ne _ _ m _ hm

theorem onlyPort_of_ports {i : Fin 10} {s t u : State} (h : onlyPort i s t) (e : u.ports = t.ports) : onlyPort i s u := by
  simpa only [onlyPort, e] using h

@[simp] theorem portAt_send (m : Sent) (s : State) (p : Fin 8) : portAt (send m s) p = portAt s p := rfl

theorem portAt_of_ports {s t : State} (e : t.ports = s.ports) (p : Fin 8) : portAt t p = portAt s p := by rw [portAt, e]; rfl

/-! ### The frame that starts (R287) -/

/-- Among frames, the first of the highest class below `n`. -/
def firstOfHighest (n : Nat) (l : List QFrame) : Option QFrame :=
  (List.range n).reverse.findSome? fun c => l.find? fun f => f.tc.toNat == c

theorem firstOfHighest_succ (n : Nat) (l : List QFrame) :
    firstOfHighest (n + 1) l = (l.find? fun f => f.tc.toNat == n).or (firstOfHighest n l) := by
  unfold firstOfHighest
  rw [List.range_succ, List.reverse_append, List.reverse_singleton, List.singleton_append, List.findSome?_cons]
  cases l.find? fun f => f.tc.toNat == n <;> rfl

theorem firstOfHighest_none {n : Nat} {l : List QFrame} (h : firstOfHighest n l = none) : ∀ g ∈ l, n ≤ g.tc.toNat := by
  induction n with
  | zero => exact fun _ _ => Nat.zero_le _
  | succ n ih =>
    intro g hg
    rw [firstOfHighest_succ, Option.or_eq_none_iff] at h
    obtain ⟨here, below⟩ := h
    have ne : g.tc.toNat ≠ n := by simpa using List.find?_eq_none.1 here g hg
    have le := ih below g hg
    omega

theorem firstOfHighest_some {n : Nat} {l : List QFrame} {f : QFrame} (h : firstOfHighest n l = some f) :
    f ∈ l ∧ ∀ g ∈ l, g.tc.toNat < n → g.tc.toNat ≤ f.tc.toNat := by
  induction n with
  | zero => cases h
  | succ n ih =>
    rw [firstOfHighest_succ, Option.or_eq_some_iff] at h
    obtain here | ⟨here, below⟩ := h
    · have class_ : f.tc.toNat = n := by simpa using List.find?_some here
      exact ⟨List.mem_of_find?_eq_some here, fun g _ lt => by omega⟩
    · obtain ⟨mem, highest⟩ := ih below
      refine ⟨mem, fun g hg lt => highest g hg ?_⟩
      have ne : g.tc.toNat ≠ n := by simpa using List.find?_eq_none.1 here g hg
      omega

/-- The frames of a port that may start now. -/
def framesReady (s : State) (p : Fin 8) : List QFrame :=
  (portAt s p).queue.filter fun f =>
    (f.station.isNone || s.run.state != .stopped || keacoSafe s) && staysOpen s p f.tc (frameNs (portAt s p).rate (lineLength f))

theorem nextFrame_eq (s : State) (p : Fin 8) : nextFrame s p = firstOfHighest 8 (framesReady s p) := by
  unfold nextFrame firstOfHighest
  rw [List.findSome?_map]
  rfl

theorem mem_framesReady {s : State} {p : Fin 8} {g : QFrame} : g ∈ framesReady s p ↔ g ∈ (portAt s p).queue ∧ mayStart s p g := by
  rw [framesReady, List.mem_filter, mayStart]
  refine and_congr_right fun _ => ?_
  rw [Bool.and_eq_true]
  refine and_congr ?_ Iff.rfl
  simp [or_assoc]

theorem nextFrame_none {s : State} {p : Fin 8} (h : ∀ g ∈ (portAt s p).queue, ¬ mayStart s p g) : nextFrame s p = none := by
  rw [nextFrame_eq]
  cases found : firstOfHighest 8 (framesReady s p) with
  | none => rfl
  | some f =>
    obtain ⟨mem, may⟩ := mem_framesReady.1 (firstOfHighest_some found).1
    exact absurd may (h f mem)

theorem nextFrame_highest {s : State} {p : Fin 8} {f : QFrame} (h : nextFrame s p = some f) :
    f ∈ (portAt s p).queue ∧ mayStart s p f ∧ ∀ g ∈ (portAt s p).queue, mayStart s p g → g.tc.toNat ≤ f.tc.toNat := by
  rw [nextFrame_eq] at h
  obtain ⟨mem, highest⟩ := firstOfHighest_some h
  obtain ⟨queued, may⟩ := mem_framesReady.1 mem
  exact ⟨queued, may, fun g hg mg => highest g (mem_framesReady.2 ⟨hg, mg⟩) g.tc.isLt⟩

theorem nextFrame_isSome {s : State} {p : Fin 8} (h : ∃ g ∈ (portAt s p).queue, mayStart s p g) : ∃ f, nextFrame s p = some f := by
  obtain ⟨g, hg, may⟩ := h
  rw [nextFrame_eq, ← Option.ne_none_iff_exists']
  intro none_
  have le := firstOfHighest_none none_ g (mem_framesReady.2 ⟨hg, may⟩)
  have lt := g.tc.isLt
  omega

/-! ### ETH_FRAME_TRANSMIT_START -/

/-- A frame as it goes on the line: an unstamped safety frame gets its stamp. -/
def stamped (s : State) (f : QFrame) : QFrame := if f.conn.isSome && f.data.length == 84 then { f with data := stampSafety s f.data } else f

theorem stamped_with_data (s : State) (f : QFrame) : stamped s f = { f with data := (stamped s f).data } := by
  unfold stamped; split <;> rfl

theorem stamped_of_conn_none {f : QFrame} (h : f.conn = none) (s : State) : stamped s f = f := by
  unfold stamped; rw [h]; rfl

theorem stampFrames_of_conn_none {f : QFrame} (h : f.conn = none) (s : State) : stampFrames f s = s := by
  unfold stampFrames; rw [h]; rfl

/-- Stamping changes nothing of a port but the bytes of queued frames, and the frame that starts is in its queue as it goes on the line. -/
theorem portAt_stampFrames (f : QFrame) (s : State) (p : Fin 8) :
    ∃ q, portAt (stampFrames f s) p = { portAt s p with queue := q } ∧ q.length = (portAt s p).queue.length ∧
      (f ∈ (portAt s p).queue → stamped (stampFrames f s) f ∈ q) := by
  by_cases fresh : (f.conn.isSome && f.data.length == 84) = true
  · have stamps : stampFrames f s = { s with ports := s.ports.map fun x => { x with
        queue := x.queue.map fun g => if g.conn == f.conn && g.data == f.data then { g with data := stampSafety s f.data } else g } } :=
      if_pos fresh
    refine ⟨(portAt s p).queue.map fun g => if g.conn == f.conn && g.data == f.data then { g with data := stampSafety s f.data } else g,
      ?_, List.length_map _, fun mem => ?_⟩
    · rw [stamps]
      exact Vector.getElem_map _ _
    · have line : stamped (stampFrames f s) f = { f with data := stampSafety s f.data } := by rw [stamps]; exact if_pos fresh
      rw [line]
      exact List.mem_map.2 ⟨f, mem, by simp⟩
  · rw [show stampFrames f s = s from if_neg fresh, show stamped s f = f from if_neg fresh]
    exact ⟨_, rfl, rfl, id⟩

theorem startFrame_of_none {s : State} {p : Fin 8} (h : nextFrame s p = none) : startFrame p s = s := by
  unfold startFrame
  rw [h]
  exact ite_self s

theorem startFrame_not_idle {s : State} {p : Fin 8} (h : (portAt s p).en = false ∨ (portAt s p).up = false ∨ (portAt s p).line.isSome = true) :
    startFrame p s = s :=
  if_pos (by simpa [or_assoc] using h)

/-- The port after its next frame has started. -/
theorem startFrame_of_some {s : State} {p : Fin 8} {f : QFrame} (en : (portAt s p).en = true) (up : (portAt s p).up = true)
    (idle : (portAt s p).line = none) (h : nextFrame s p = some f) :
    ∃ et bs, startFrame p s = send (.eth p et bs) (updEth p (fun x => { x with
      queue := x.queue.erase (stamped (stampFrames f s) f)
      line := some { stamped (stampFrames f s) f with depart := departNs (stampFrames f s) p } }) (stampFrames f s)) := by
  have go : ¬ (!(portAt s p).en || !(portAt s p).up || (portAt s p).line.isSome) = true := by rw [en, up, idle]; decide
  unfold startFrame
  dsimp only
  rw [if_neg go, h]
  exact ⟨_, _, rfl⟩

/-! ### Bytes and words of a memory -/

theorem memRead_write {m : Memory} (a : Nat) (bs : List Byte) (h : memWf m = true) : memRead (memWrite m a bs) a bs.length = bs := by
  unfold memRead
  refine List.ext_getElem (by simp) fun i hi hi' => ?_
  rw [List.getElem_map, List.getElem_range, memGet_write a _ bs h, if_pos ⟨by omega, by omega⟩, Nat.add_sub_cancel_left]
  exact (List.getElem_eq_getD _).symm

theorem sameOutside_write {m : Memory} (a : Nat) (bs : List Byte) (h : memWf m = true) :
    sameOutside m (memWrite m a bs) a (a + bs.length) := fun x out => by
  rw [memGet_write a x bs h, if_neg (by omega)]

theorem bytesOf_length (k x : Nat) : (bytesOf k x).length = k := by
  induction k generalizing x with
  | zero => rfl
  | succ k ih => rw [bytesOf, List.length_cons, ih]

theorem ofBytes_bytesOf (k x : Nat) : ofBytes (bytesOf k x) = x % 256 ^ k := by
  induction k generalizing x with
  | zero => exact (Nat.mod_one x).symm
  | succ k ih =>
    have low : (BitVec.ofNat 8 x).toNat = x % 256 := BitVec.toNat_ofNat _ _
    rw [bytesOf, ofBytes, ih, low, Nat.pow_succ', Nat.mod_mul]

theorem wordOf_bytesOf (w : Word) : wordOf (bytesOf 4 w.toNat) = w := by
  rw [wordOf, List.take_of_length_le (by rw [bytesOf_length]), ofBytes_bytesOf, show 256 ^ 4 = 2 ^ 32 from rfl, Nat.mod_eq_of_lt w.isLt, BitVec.ofNat_toNat, BitVec.setWidth_eq]

theorem memWord_write {m : Memory} (a : Nat) (w : Word) (h : memWf m = true) : memWord (memWrite m a (bytesOf 4 w.toNat)) a = w := by
  have read := memRead_write a (bytesOf 4 w.toNat) h
  rw [bytesOf_length] at read
  rw [memWord, read, wordOf_bytesOf]

theorem nowNs_of_tb {s t : State} (h : t.tb = s.tb) : nowNs t = nowNs s := by unfold nowNs nowInstant; rw [h]

/-- What a frame that starts leaves at its port. -/
theorem startFrame_starts {s : State} {p : Fin 8} (en : (portAt s p).en = true) (up : (portAt s p).up = true) (idle : (portAt s p).line = none)
    (may : ∃ g ∈ (portAt s p).queue, mayStart s p g) :
    ∃ f d, f ∈ (portAt s p).queue ∧ mayStart s p f ∧ (∀ g ∈ (portAt s p).queue, mayStart s p g → g.tc.toNat ≤ f.tc.toNat) ∧
      (portAt (startFrame p s) p).line = some { f with data := d, depart := nowNs s + (portAt s p).txLat.toNat } ∧
      (f.conn = none → d = f.data ∧ (portAt (startFrame p s) p).queue = (portAt s p).queue.erase f ∧
        onlyPort (ethPortIdx p) s (startFrame p s)) ∧
      (portAt (startFrame p s) p).queue.length + 1 = (portAt s p).queue.length ∧
      ∃ et bs, (startFrame p s).out = s.out ++ [.eth p et bs] := by
  obtain ⟨f, next⟩ := nextFrame_isSome may
  obtain ⟨queued, mayf, highest⟩ := nextFrame_highest next
  obtain ⟨et, bs, starts⟩ := startFrame_of_some en up idle next
  obtain ⟨q, port, len, mem⟩ := portAt_stampFrames f s p
  have same : But 0x100000 s (stampFrames f s) := but_stampFrames (Within.self _) (.self _ s)
  have depart : departNs (stampFrames f s) p = nowNs s + (portAt s p).txLat.toNat := by
    rw [departNs, port, nowNs_of_tb (same .tb rfl)]
  have after : portAt (startFrame p s) p = { portAt s p with
      queue := q.erase (stamped (stampFrames f s) f)
      line := some { stamped (stampFrames f s) f with depart := nowNs s + (portAt s p).txLat.toNat } } := by
    rw [starts, portAt_send, portAt_updEth_same, port, depart]
  refine ⟨f, (stamped (stampFrames f s) f).data, queued, mayf, highest, ?_, fun plain => ?_, ?_, et, bs, ?_⟩
  · rw [after]
    conv_lhs => rw [stamped_with_data]
  · have none_ : stampFrames f s = s := stampFrames_of_conn_none plain s
    have q_eq : q = (portAt s p).queue := (congrArg EthPort.queue port).symm.trans (by rw [none_])
    refine ⟨by rw [stamped_of_conn_none plain], ?_, ?_⟩
    · rw [after, stamped_of_conn_none plain, q_eq]
    · rw [starts, none_]
      exact fun m hm => Vec.at_upd_ne _ _ m _ hm
  · have pos := List.length_pos_of_mem (mem queued)
    rw [after, ← len]
    show (q.erase _).length + 1 = q.length
    rw [List.length_erase_of_mem (mem queued)]
    omega
  · rw [starts]
    exact congrArg (· ++ _) (same .out rfl)

/-! ### ETH_FRAME_SENT -/

/-- The line of a port is idle again after frame `f`: a marked frame leaves its transmit timestamp. -/
def lineFreed (p : Fin 8) (f : QFrame) (s : State) : State :=
  let t := bump (ethPage p) 0x10 1 (updEth p (fun x => { x with line := none }) s)
  if f.capture then raise (ethPage p) 1 none .unstated (updEth p (fun x => { x with txts := instantOf f.depart }) t) else t

theorem frameSent_idle {p : Fin 8} {s : State} (h : (portAt s p).line = none) : frameSent p s = s := by
  unfold frameSent; rw [h]

theorem frameSent_device {p : Fin 8} {s : State} {f : QFrame} (h : (portAt s p).line = some f) (device : f.desc = none) :
    frameSent p s = lineFreed p f s := by
  unfold frameSent; rw [h]; dsimp only; rw [device]; rfl

theorem frameSent_firmware {p : Fin 8} {s : State} {f : QFrame} {i : BitVec 12} (h : (portAt s p).line = some f) (own : f.desc = some i) :
    frameSent p s = advanceTx p (returnTx p i false (lineFreed p f s)) := by
  unfold frameSent; rw [h]; dsimp only; rw [own]; rfl

theorem but_lineFreed (p : Fin 8) (f : QFrame) (s : State) : But 0x4004100002 s (lineFreed p f s) := by
  unfold lineFreed
  exact but_ite (but_raise ((Within.self _).le rfl) (but_updEth ((Within.self _).le rfl) (but_bump ((Within.self _).le rfl)
    (but_updEth ((Within.self _).le rfl) (.self _ s))))) (but_bump ((Within.self _).le rfl) (but_updEth ((Within.self _).le rfl) (.self _ s)))

theorem lineFreed_port (p : Fin 8) (f : QFrame) (s : State) : portAt (lineFreed p f s) p =
    { portAt s p with line := none, txts := if f.capture then instantOf f.depart else (portAt s p).txts } := by
  have idle : portAt (bump (ethPage p) 0x10 1 (updEth p (fun x => { x with line := none }) s)) p = { portAt s p with line := none } := by
    rw [portAt_of_ports (bump_ports _ _ _ _), portAt_updEth_same]
  unfold lineFreed
  by_cases marked : f.capture = true
  · rw [if_pos marked, if_pos marked, portAt_of_ports (raise_ports _ _ _ _ _), portAt_updEth_same, idle]
  · rw [if_neg marked, if_neg marked, idle]

theorem lineFreed_onlyPort (p : Fin 8) (f : QFrame) (s : State) : onlyPort (ethPortIdx p) s (lineFreed p f s) := by
  have idle : onlyPort (ethPortIdx p) s (bump (ethPage p) 0x10 1 (updEth p (fun x => { x with line := none }) s)) :=
    onlyPort_of_ports (onlyPort_updEth p _ s) (bump_ports _ _ _ _)
  unfold lineFreed
  split
  · exact onlyPort_of_ports (onlyPort_trans idle (onlyPort_updEth p _ _)) (raise_ports _ _ _ _ _)
  · exact idle

theorem lineFreed_unmarked {f : QFrame} (h : f.capture = false) (p : Fin 8) (s : State) :
    countsOnly (ethPage p) s (lineFreed p f s) ∧ But 0x100002 s (lineFreed p f s) := by
  unfold lineFreed
  rw [h]
  exact ⟨countsOnly_bump _ _ _ (updEth p _ s), but_bump ((Within.self _).le rfl) (but_updEth ((Within.self _).le rfl) (.self _ s))⟩

theorem lineFreed_marked {f : QFrame} (h : f.capture = true) (p : Fin 8) (s : State) :
    (hdrAt (lineFreed p f s) (ethPage p)).raw.getLsbD 1 = true := by
  unfold lineFreed
  rw [if_pos h]
  exact raise_sets _ _ _ _ _ (by decide)

/-- A descriptor returned: its word in supervisor SRAM gains DONE, and HEAD may move. -/
theorem returned_fields (p : Fin 8) (i : BitVec 12) (s : State) (wf : memWf s.sram = true) :
    let t := advanceTx p (returnTx p i false s)
    let a := (portAt s p).txBase.toNat * 64 + 16 * i.toNat + 4
    (∃ h, portAt t p = { portAt s p with txHead := h }) ∧ onlyPort (ethPortIdx p) s t ∧ But 0x101000 s t ∧
      memWord t.sram a = memWord s.sram a ||| 0x4000 ∧ sameOutside s.sram t.sram a (a + 4) := by
  intro t a
  have word : ∀ w : Word, descDone w false = w ||| 0x4000 := fun w => BitVec.or_zero
  refine ⟨⟨_, portAt_updEth_same p _ _⟩, onlyPort_of_ports (onlyPort_updEth p _ (returnTx p i false s)) rfl,
    but_advanceTx ((Within.self _).le rfl) (but_returnTx ((Within.self _).le rfl) (.self _ s)), ?_, ?_⟩
  · exact (memWord_write a _ wf).trans (word _)
  · have out := sameOutside_write a (bytesOf 4 (descDone (memWord s.sram a) false).toNat) wf
    rwa [bytesOf_length] at out

/-! ### Gate windows and links (R48, R286, R287) -/

theorem gateOpen_none {p : Fin 8} {entry : Nat} {s : State} (h : gateWindow s p entry = none) : gateOpen p entry s = s := by
  unfold gateOpen; rw [h]

theorem gateOpen_again {p : Fin 8} {entry : Nat} {s : State} {w g : Nat × Nat} (h : gateWindow s p entry = some w)
    (began : (portAt s p).gate = some g) (later : w.1 ≤ g.1) : gateOpen p entry s = s := by
  unfold gateOpen; rw [h, began]; exact if_pos (decide_eq_true later)

theorem gateOpen_opens {p : Fin 8} {entry : Nat} {s : State} {w : Nat × Nat} (h : gateWindow s p entry = some w)
    (after : ∀ g, (portAt s p).gate = some g → g.1 < w.1) :
    gateOpen p entry s = bump (ethPage p) 0x13 1 (updEth p (fun x => { x with gate := some w }) (reach w.1 s)) := by
  have first : (portAt s p).gate.elim false (fun g => decide (w.1 ≤ g.1)) = false := by
    cases began : (portAt s p).gate with
    | none => rfl
    | some g => exact decide_eq_false (Nat.not_le.2 (after g began))
  unfold gateOpen; rw [h]; dsimp only; rw [first]; rfl

theorem gateWindow_active {p : Fin 8} {entry : Nat} {s : State} {im : SchedImage} {g : Gate} (active : s.sched.active = some im)
    (entry_ : im.gates[entry]? = some g) (port : g.port.toNat = p.val) (running : s.sched.running = true)
    (now : timingActive g.t s.sched.round = true) :
    let a := s.sched.roundNs + slotNsOf im * g.t.slot.toNat + 2 * g.start.toNat
    gateWindow s p entry = some (a, a + 2 * g.duration.toNat) := by
  unfold gateWindow
  rw [active, Option.bind_some, entry_, Option.map_some, Option.bind_some, running, now, port, beq_self_eq_true]
  rfl

theorem mem_windowsAhead {p : Fin 8} {s : State} {im : SchedImage} {g : Gate} (active : s.sched.active = some im) (mem : g ∈ im.gates)
    (port : g.port.toNat = p.val) (running : s.sched.running = true) (now : timingActive g.t s.sched.round = true) :
    let a := s.sched.roundNs + slotNsOf im * g.t.slot.toNat + 2 * g.start.toNat
    (a, a + 2 * g.duration.toNat, g.opens) ∈ windowsAhead s p := by
  intro a
  have this_round : (a, a + 2 * g.duration.toNat, g.opens) ∈ windowsIn im p s.sched.roundNs s.sched.round :=
    List.mem_map.2 ⟨g, List.mem_filter.2 ⟨mem, by rw [port, beq_self_eq_true, now]; rfl⟩, rfl⟩
  unfold windowsAhead
  rw [active]
  dsimp only
  rw [running, if_neg (by decide)]
  exact List.mem_append_left _ (List.mem_append_right _ this_round)

theorem getLsbD_foldl_or (l : List (Nat × Nat × Byte)) (m : Byte) (k : Nat) :
    (l.foldl (fun m w => m ||| w.2.2) m).getLsbD k = true ↔ m.getLsbD k = true ∨ ∃ w ∈ l, w.2.2.getLsbD k = true := by
  induction l generalizing m with
  | nil => simp
  | cons w l ih => rw [List.foldl_cons, ih]; simp [or_assoc]

/-- The classes of a window are open while it lasts. -/
theorem gateAt_of_mem {s : State} {p : Fin 8} {x : Nat} {w : Nat × Nat × Byte} (mem : w ∈ windowsAhead s p) (begun : w.1 ≤ x) (lasts : x < w.2.1)
    {k : Nat} (opens : w.2.2.getLsbD k = true) : (gateAt s p x).getLsbD k = true := by
  have holds : w ∈ (windowsAhead s p).filter fun w => decide (w.1 ≤ x) && decide (x < w.2.1) :=
    List.mem_filter.2 ⟨mem, by rw [decide_eq_true begun, decide_eq_true lasts]; rfl⟩
  unfold gateAt
  split
  next none_ => rw [none_] at holds; cases holds
  next => exact (getLsbD_foldl_or _ _ _).2 (.inr ⟨w, holds, opens⟩)

theorem gateAt_outside {s : State} {p : Fin 8} {x : Nat} (h : ∀ w ∈ windowsAhead s p, x < w.1 ∨ w.2.1 ≤ x) :
    gateAt s p x = defaultGateAt s p x := by
  have none_ : (windowsAhead s p).filter (fun w => decide (w.1 ≤ x) && decide (x < w.2.1)) = [] :=
    List.filter_eq_nil_iff.2 fun w mem => by have out := h w mem; simp; omega
  unfold gateAt; rw [none_]

theorem frameAheadBy_iff (s : State) (x : Nat) : frameAheadBy s x = true ↔ ∃ n, frameAhead s = some n ∧ n ≤ x := by
  unfold frameAheadBy; cases frameAhead s <;> simp

theorem windowsAhead_idle {s : State} {p : Fin 8} (running : s.sched.running = false) (x : Nat) (h : frameAheadBy s x = false) :
    ∀ w ∈ windowsAhead s p, x < w.1 ∨ w.2.1 ≤ x := by
  intro w mem
  unfold windowsAhead at mem
  split at mem
  next => cases mem
  next im _ =>
    rw [running, if_pos (by rfl)] at mem
    unfold frameAheadBy at h
    cases ahead : frameAhead s with
    | none => rw [ahead] at mem; cases mem
    | some n =>
      rw [ahead] at mem h
      have later : x < n := by simpa using h
      obtain ⟨g, -, rfl⟩ := List.mem_map.1 mem
      exact .inl (by dsimp only; omega)

theorem defaultGateAt_idle {s : State} {p : Fin 8} {x : Nat} (running : s.sched.running = false) (h : frameAheadBy s x = false) :
    defaultGateAt s p x = 0xFF := by
  unfold defaultGateAt; rw [running, h]; rfl

theorem defaultGateAt_active {s : State} {p : Fin 8} {x : Nat} {c : PortCfg} (begun : s.sched.running = true ∨ frameAheadBy s x = true)
    (same : ¬ (s.sched.running = true ∧ appDue s = true ∧ frameAheadBy s x = true)) (cfg : portCfg s p = some c) :
    defaultGateAt s p x = c.defaultGate := by
  have old : (s.sched.running && appDue s && frameAheadBy s x) = false := by
    rw [Bool.eq_false_iff]; simpa [and_assoc] using same
  unfold defaultGateAt
  rw [old, if_pos (by simpa using begun), if_neg (by decide), cfg]; rfl

theorem defaultGateAt_armed {s : State} {p : Fin 8} {x : Nat} {im : AppImage} {c : PortCfg} (running : s.sched.running = true)
    (due : appDue s = true) (h : frameAheadBy s x = true) (shadow : s.run.shadow = some im) (cfg : im.ports.lookup p = some c) :
    defaultGateAt s p x = c.defaultGate := by
  unfold defaultGateAt
  rw [running, due, h, shadow, Option.bind_some, cfg]; rfl

theorem gateClose_none {p : Fin 8} {s : State} (h : (portAt s p).gate = none) : gateClose p s = s := by
  unfold gateClose; rw [h]; rfl

theorem linkChange_portExactly (p : Fin 8) (up : Bool) (s : State) :
    portExactly p (fun x => { x with up := up && x.en }) s (linkChange p up s) := by
  have ports : (linkChange p up s).ports = (updEth p (fun x => { x with up := up && x.en }) s).ports := noteConds_ports _ _ _
  have frame : But 0x4004100002 s (linkChange p up s) := but_linkChange (Within.self _) (.self _ s)
  exact ⟨(portAt_of_ports ports p).trans (portAt_updEth_same _ _ _), onlyPort_of_ports (onlyPort_updEth p _ s) ports,
    (congrArg (fun x : State => { x with ports := (linkChange p up s).ports }) (restored_of_but frame) :)⟩

/-- Settles O38: the start, the end, the gate windows, the open classes and the link, each by its lemmas above. -/
theorem ethernetFramesLeaveInOpenWindows : Obligations.EthernetFramesLeaveInOpenWindows := by
  unfold Obligations.EthernetFramesLeaveInOpenWindows
  refine ⟨fun p s en up idle => ⟨fun none_ => ?_, fun may => ?_⟩, fun p s busy => ?_, fun p s idle => ?_, fun p s f line wf => ?_,
    fun p entry s => ⟨fun none_ => ?_, fun w window => ⟨fun g began later => ?_, fun after => ?_⟩⟩,
    fun p entry s im g active entry_ port running now => ?_, fun p s x => ?_, fun p s => ⟨fun none_ => ?_, ?_⟩, fun p up s => ?_⟩
  · exact congrArg Host.Outcome.next (startFrame_of_none (nextFrame_none none_))
  · obtain ⟨f, d, queued, mayf, highest, line, device, length, out⟩ := startFrame_starts en up idle may
    exact ⟨_, f, d, rfl, queued, mayf, highest, line, device, length, out, restored_of_but (but_startFrame (Within.self _) (.self _ s))⟩
  · exact congrArg Host.Outcome.next (startFrame_not_idle busy)
  · exact congrArg Host.Outcome.next (frameSent_idle idle)
  · have freed := but_lineFreed p f s
    have port := lineFreed_port p f s
    have sram : (lineFreed p f s).sram = s.sram := freed .sram rfl
    cases own : f.desc with
    | none =>
      refine ⟨_, congrArg Host.Outcome.next (frameSent_device line own), congrArg EthPort.line port, (congrArg EthPort.queue port :),
        lineFreed_onlyPort p f s, restored_of_but (freed.mono ((Within.self 0x4004101002).le rfl)), fun plain => ?_, fun marked => lineFreed_marked marked p s, congrArg EthPort.txts port,
        fun _ => ⟨sram, by rw [port]⟩, fun i other => by cases other⟩
      obtain ⟨counts, same⟩ := lineFreed_unmarked plain p s
      exact ⟨counts, same .recorder rfl, same .free rfl⟩
    | some i =>
      obtain ⟨⟨head, after⟩, only, same, word, outside⟩ := returned_fields p i (lineFreed p f s) (by rwa [sram])
      have whole := (freed.mono ((Within.self 0x4004101002).le rfl)).trans (same.mono ((Within.self _).le rfl))
      rw [port] at after word outside
      rw [sram] at word outside
      refine ⟨_, congrArg Host.Outcome.next (frameSent_firmware line own), congrArg EthPort.line after, (congrArg EthPort.queue after :),
        onlyPort_trans (lineFreed_onlyPort p f s) only, restored_of_but whole, fun plain => ?_, fun marked => ?_, congrArg EthPort.txts after,
        fun none_ => (by cases none_), fun j eq => ?_⟩
      · obtain ⟨counts, kept⟩ := lineFreed_unmarked plain p s
        exact ⟨countsOnly_of_hdrs counts (same .hdrs rfl), (same .recorder rfl).trans (kept .recorder rfl), (same .free rfl).trans (kept .free rfl)⟩
      · rw [hdrAt, same .hdrs rfl]
        exact lineFreed_marked marked p s
      · cases eq
        exact ⟨word, outside, by rw [after]⟩
  · exact congrArg Host.Outcome.next (gateOpen_none none_)
  · exact congrArg Host.Outcome.next (gateOpen_again window began later)
  · have ports : (reach w.1 s).ports = s.ports := but_reached w.1 s .ports rfl
    have opens := gateOpen_opens window after
    refine ⟨gateOpen p entry s, rfl, ?_, ?_, (congrArg (fun x : State => { x with ports := (gateOpen p entry s).ports, tb := (gateOpen p entry s).tb }) (restored_of_but (but_gateOpen (p := p) (entry := entry) (Within.self _) (.self _ s))) :)⟩
    · rw [opens, portAt_of_ports (bump_ports _ _ _ _), portAt_updEth_same, portAt_of_ports ports]
    · rw [opens]
      exact onlyPort_of_ports (onlyPort_trans (fun m _ => by rw [ports]) (onlyPort_updEth p _ _)) (bump_ports _ _ _ _)
  · intro a
    exact ⟨gateWindow_active active entry_ port running now, fun x begun lasts k _ opens =>
      gateAt_of_mem (mem_windowsAhead active (List.mem_of_getElem? entry_) port running now) begun lasts opens⟩
  · intro outside nextFrame
    have ahead := frameAheadBy_iff s x
    refine ⟨fun idle no => ?_, fun c begun same cfg out => ?_, fun im c running due next shadow cfg out => ?_⟩
    · have none_ : frameAheadBy s x = false := Bool.eq_false_iff.2 fun yes => no (ahead.1 yes)
      rw [gateAt_outside (windowsAhead_idle idle x none_), defaultGateAt_idle idle none_]
    · rw [gateAt_outside out, defaultGateAt_active (begun.imp_right ahead.2) (fun h => same ⟨h.1, h.2.1, ahead.1 h.2.2⟩) cfg]
    · rw [gateAt_outside out, defaultGateAt_armed running due (ahead.2 next) shadow cfg]
  · exact congrArg Host.Outcome.next (gateClose_none none_)
  · exact ⟨_, rfl, (congrArg (fun x : State => { x with tb := (gateClose p s).tb }) (restored_of_but (but_gateClose (p := p) (Within.self _) (.self _ s))) :)⟩
  · exact ⟨_, rfl, linkChange_portExactly p up s⟩

end Sys2Proof.Machine

/-! Proofs about the commit point of a major frame and the swap and the exchange at its start (R60, R130, R191, R451). -/
namespace Sys2Proof.Machine
open Sys2Proof.Stmt

/-! ### What the commit point decides (R451) -/

/-- First stage of each bank that is due; none for one that is not. -/
def appFirst (s : State) : Option Byte := if appDue s then appStage1 s else none

def schedFirst (s : State) : Option Byte := if schedDue s then schedStage1 s else none

/-- Is this schedule image paired with the application bank? -/
def pairsApp (s : State) (im : Option SchedImage) : Bool := im.elim false fun im => im.appId == appId s.run.shadow

/-- Is this application image paired with the schedule bank? -/
def pairsSched (s : State) (a : Option AppImage) : Bool := a.elim false fun a => s.sched.shadow.elim false fun im => im.appId == a.id

/-- The code that the commit point cancels the application bank with, if it does: that of its first stage, else of the pairing check. -/
def appVerdict (s : State) : Option Byte :=
  if appDue s then (appFirst s).orElse fun _ =>
    if pairsApp s (if schedDue s && (schedFirst s).isNone then s.sched.shadow else s.sched.active) then none else some 0x26
  else none

/-- The code that the commit point cancels the schedule bank with, if it does. -/
def schedVerdict (s : State) : Option Byte :=
  if schedDue s then (schedFirst s).orElse fun _ =>
    if pairsSched s (if appDue s && (appFirst s).isNone then s.run.shadow else s.run.active) then none else some 0x24
  else none

/-- The state in which the verdicts take effect: decided, and EXCH_SEAL set by a failed seal check. -/
def verdictsKnown (s : State) : State :=
  { s with run := { s.run with commitHeld := true }, safety := { s.safety with exchSeal := appVerdict s == some 0x27 || s.safety.exchSeal } }

theorem decideBanks_elsewhere {s : State} (h : lastRound s = false) : decideBanks s = s := by
  unfold decideBanks; rw [h]; rfl

theorem decideBanks_eq {s : State} (h : lastRound s = true) :
    decideBanks s = (if (schedVerdict s).isSome then cancelSched (schedVerdict s) else id)
      ((if (appVerdict s).isSome then cancelApp (appVerdict s) else id) (verdictsKnown s)) := by
  have sealed : (if (appVerdict s == some 0x27) = true then
      { updRun (fun r => { r with commitHeld := true }) s with safety := { s.safety with exchSeal := true } }
      else updRun (fun r => { r with commitHeld := true }) s) = verdictsKnown s := by
    unfold verdictsKnown
    split
    next failed => rw [failed]; rfl
    next passed => rw [Bool.eq_false_iff.2 passed]; rfl
  rw [← sealed]
  unfold decideBanks
  rw [h, if_neg (by decide)]
  show (if (schedVerdict s).isSome then cancelSched (schedVerdict s) (if (appVerdict s).isSome then cancelApp (appVerdict s) _ else _)
    else if (appVerdict s).isSome then cancelApp (appVerdict s) _ else _) = _
  split <;> split <;> rfl

theorem cancelApp_run {s : State} (armed : s.run.bank = .armed) (c : Byte) : (cancelApp (some c) s).run =
    { s.run with bank := .valid, appCode := c, appErr := 0, ownTarget := false, armedTrio := false } := by
  unfold cancelApp; rw [armed, if_pos (by decide), raise_run]; rfl

theorem cancelApp_raises {s : State} (armed : s.run.bank = .armed) (c : Option Byte) : (hdrAt (cancelApp c s) .runControl).raw.getLsbD 5 = true := by
  unfold cancelApp; rw [armed, if_pos (by decide)]; exact raise_sets _ _ _ _ _ (by decide)

theorem cancelSched_sched {s : State} (armed : s.sched.bank = .armed) (c : Byte) : (cancelSched (some c) s).sched =
    { s.sched with bank := .valid, code := c, armedApp := false, armedTrio := false } := by
  unfold cancelSched; rw [armed, if_pos (by decide), raise_sched]; rfl

theorem cancelSched_raises {s : State} (armed : s.sched.bank = .armed) (c : Option Byte) : (hdrAt (cancelSched c s) .schedule).raw.getLsbD 2 = true := by
  unfold cancelSched; rw [armed, if_pos (by decide)]; exact raise_sets _ _ _ _ _ (by decide)

theorem but_cancelledSched (c : Option Byte) (s : State) : But 0x4004004002 s (cancelSched c s) := but_cancelSched (Within.self _) (.self _ s)

theorem but_cancelledApp (c : Option Byte) (s : State) : But 0x4004008002 s (cancelApp c s) := but_cancelApp (Within.self _) (.self _ s)

theorem armed_of_appDue {s : State} (h : appDue s = true) : s.run.bank = .armed := by
  unfold appDue at h
  rw [Bool.and_eq_true, Bool.and_eq_true] at h
  obtain ⟨⟨armed, -⟩, -⟩ := h
  exact eq_of_beq armed

theorem armed_of_schedDue {s : State} (h : schedDue s = true) : s.sched.bank = .armed := by
  unfold schedDue at h
  rw [Bool.and_eq_true] at h
  exact eq_of_beq h.1

theorem appDue_of_verdict {s : State} {c : Byte} (h : appVerdict s = some c) : appDue s = true := by
  by_contra other
  unfold appVerdict at h
  rw [if_neg other] at h
  cases h

theorem schedDue_of_verdict {s : State} {c : Byte} (h : schedVerdict s = some c) : schedDue s = true := by
  by_contra other
  unfold schedVerdict at h
  rw [if_neg other] at h
  cases h

section
variable {s : State} (h : lastRound s = true)
include h

/-- The application bank's verdict decides its block; the schedule bank's does not touch it. -/
theorem decideBanks_run : (decideBanks s).run = match appVerdict s with
    | none => { s.run with commitHeld := true }
    | some c => { s.run with commitHeld := true, bank := .valid, appCode := c, appErr := 0, ownTarget := false, armedTrio := false } := by
  have run : ∀ t, ((if (schedVerdict s).isSome then cancelSched (schedVerdict s) else id) t).run = t.run := fun t => by
    split
    · exact but_cancelledSched _ t .run rfl
    · rfl
  rw [decideBanks_eq h, run]
  cases verdict : appVerdict s with
  | none => rfl
  | some c => exact cancelApp_run (s := verdictsKnown s) (armed_of_appDue (appDue_of_verdict verdict)) c

theorem decideBanks_sched : (decideBanks s).sched = match schedVerdict s with
    | none => s.sched
    | some c => { s.sched with bank := .valid, code := c, armedApp := false, armedTrio := false } := by
  have sched : ((if (appVerdict s).isSome then cancelApp (appVerdict s) else id) (verdictsKnown s)).sched = s.sched := by
    split
    · exact but_cancelledApp _ (verdictsKnown s) .sched rfl
    · rfl
  rw [decideBanks_eq h]
  cases verdict : schedVerdict s with
  | none => exact sched
  | some c =>
    refine (cancelSched_sched ?_ c).trans (by rw [sched])
    rw [sched]
    exact armed_of_schedDue (schedDue_of_verdict verdict)

theorem decideBanks_exchSeal : (decideBanks s).safety.exchSeal = (appVerdict s == some 0x27 || s.safety.exchSeal) := by
  have one : ∀ t, ((if (schedVerdict s).isSome then cancelSched (schedVerdict s) else id) t).safety = t.safety := fun t => by
    split
    · exact but_cancelledSched _ t .safety rfl
    · rfl
  have two : ∀ t, ((if (appVerdict s).isSome then cancelApp (appVerdict s) else id) t).safety = t.safety := fun t => by
    split
    · exact but_cancelledApp _ t .safety rfl
    · rfl
  rw [decideBanks_eq h, one, two]
  rfl

theorem decideBanks_raisesApp {c : Byte} (verdict : appVerdict s = some c) : (hdrAt (decideBanks s) .runControl).raw.getLsbD 5 = true := by
  have kept : ∀ t, rawKept t ((if (schedVerdict s).isSome then cancelSched (schedVerdict s) else id) t) := fun t => by
    split
    · exact rawKept_cancelSched _ t
    · exact rawKept_refl t
  rw [decideBanks_eq h]
  refine kept _ _ _ ?_
  rw [verdict]
  exact cancelApp_raises (s := verdictsKnown s) (armed_of_appDue (appDue_of_verdict verdict)) _

theorem decideBanks_raisesSched {c : Byte} (verdict : schedVerdict s = some c) : (hdrAt (decideBanks s) .schedule).raw.getLsbD 2 = true := by
  have sched : ((if (appVerdict s).isSome then cancelApp (appVerdict s) else id) (verdictsKnown s)).sched = s.sched := by
    split
    · exact but_cancelledApp _ (verdictsKnown s) .sched rfl
    · rfl
  rw [decideBanks_eq h, verdict]
  refine cancelSched_raises ?_ _
  rw [sched]
  exact armed_of_schedDue (schedDue_of_verdict verdict)

theorem decideBanks_armedApp (due : appDue s = true) : (decideBanks s).run.bank = .armed ↔ appVerdict s = none := by
  rw [decideBanks_run h]
  cases verdict : appVerdict s with
  | none => exact iff_of_true (armed_of_appDue due) rfl
  | some c => exact iff_of_false (fun e : BankState.valid = .armed => by cases e) (by simp)

theorem decideBanks_armedSched (due : schedDue s = true) : (decideBanks s).sched.bank = .armed ↔ schedVerdict s = none := by
  rw [decideBanks_sched h]
  cases verdict : schedVerdict s with
  | none => exact iff_of_true (armed_of_schedDue due) rfl
  | some c => exact iff_of_false (fun e : BankState.valid = .armed => by cases e) (by simp)

end

theorem appVerdict_first {s : State} {c : Byte} (due : appDue s = true) (first : appStage1 s = some c) : appVerdict s = some c := by
  unfold appVerdict appFirst
  rw [if_pos due, due, if_pos rfl, first]; rfl

theorem schedVerdict_first {s : State} {c : Byte} (due : schedDue s = true) (first : schedStage1 s = some c) : schedVerdict s = some c := by
  unfold schedVerdict schedFirst
  rw [if_pos due, due, if_pos rfl, first]; rfl

theorem ite_none_eq_none_iff {b : Bool} {c : Byte} : (if b = true then none else some c) = none ↔ b = true := by cases b <;> simp

theorem appVerdict_second {s : State} (due : appDue s = true) (first : appStage1 s = none) :
    appVerdict s = none ↔ pairsApp s (if schedDue s && (schedFirst s).isNone then s.sched.shadow else s.sched.active) = true := by
  unfold appVerdict appFirst
  rw [if_pos due, due, if_pos rfl, first]
  exact ite_none_eq_none_iff

theorem schedVerdict_second {s : State} (due : schedDue s = true) (first : schedStage1 s = none) :
    schedVerdict s = none ↔ pairsSched s (if appDue s && (appFirst s).isNone then s.run.shadow else s.run.active) = true := by
  unfold schedVerdict schedFirst
  rw [if_pos due, due, if_pos rfl, first]
  exact ite_none_eq_none_iff

theorem pairsApp_iff {s : State} {a : AppImage} (shadow : s.run.shadow = some a) (im : Option SchedImage) :
    pairsApp s im = true ↔ ∃ x, im = some x ∧ x.appId = a.id := by
  unfold pairsApp appId
  rw [shadow]
  cases im <;> simp

theorem pairsSched_iff {s : State} {im : SchedImage} (shadow : s.sched.shadow = some im) (a : Option AppImage) :
    pairsSched s a = true ↔ ∃ x, a = some x ∧ im.appId = x.id := by
  unfold pairsSched
  rw [shadow]
  cases a <;> simp

/-- The commit point decides both banks. -/
theorem banksDecided_decideBanks {s : State} (h : lastRound s = true) : banksDecided s (decideBanks s) := by
  have run := decideBanks_run h
  have sched := decideBanks_sched h
  have alone : ∀ {x : Option Byte}, (x.isNone = true ↔ x = none) := Option.isNone_iff_eq_none
  refine ⟨?_, fun idle => ?_, fun idle => ?_, fun due c first => ?_, fun due c first => ?_, fun a due first idle shadow => ?_,
    fun im due first idle shadow => ?_, fun im a dueS dueA firstS firstA shadowS shadowA => ⟨?_, ?_⟩⟩
  · rw [run]; split <;> rfl
  · rw [run, show appVerdict s = none from if_neg (by rw [idle]; decide)]
  · rw [sched, show schedVerdict s = none from if_neg (by rw [idle]; decide)]
  · have verdict := appVerdict_first due first
    refine ⟨?_, ?_, decideBanks_raisesApp h verdict, ?_⟩
    · rw [run, verdict]
    · rw [run, verdict]
    · rw [decideBanks_exchSeal h, verdict]; simp
  · have verdict := schedVerdict_first due first
    refine ⟨?_, ?_, decideBanks_raisesSched h verdict⟩
    · rw [sched, verdict]
    · rw [sched, verdict]
  · rw [decideBanks_armedApp h due, appVerdict_second due first, idle, pairsApp_iff shadow]; rfl
  · rw [decideBanks_armedSched h due, schedVerdict_second due first, idle, pairsSched_iff shadow]; rfl
  · have image : (if appDue s && (appFirst s).isNone then s.run.shadow else s.run.active) = some a := by
      rw [appFirst, if_pos dueA, dueA, firstA, ← shadowA]; rfl
    rw [decideBanks_armedSched h dueS, schedVerdict_second dueS firstS, image, pairsSched_iff shadowS]
    simp
  · have image : (if schedDue s && (schedFirst s).isNone then s.sched.shadow else s.sched.active) = some im := by
      rw [schedFirst, if_pos dueS, dueS, firstS, ← shadowS]; rfl
    rw [decideBanks_armedApp h dueA, appVerdict_second dueA firstA, image, pairsApp_iff shadowA]
    simp

/-! ### COMMIT_POINT (R60, R191) -/

theorem swapPasses_last {s : State} (h : swapPasses s = true) : lastRound s = true := by
  unfold swapPasses at h
  rw [Bool.and_eq_true] at h
  exact h.1

theorem commitPoint_plain {s : State} (h : s.trio.phase = 0 ∨ swapPasses s = false) : commitPoint s = decideBanks s := by
  unfold commitPoint
  refine if_neg ?_
  rw [Bool.and_eq_true, bne_iff_ne]
  rintro ⟨phase, passes⟩
  obtain idle | none_ := h
  · exact phase idle
  · rw [none_] at passes; cases passes

theorem commitPoint_rejoining {s : State} (phase : s.trio.phase ≠ 0) (passes : swapPasses s = true) :
    commitPoint s = endRejoin 0x56 (decideBanks s) := by
  unfold commitPoint
  exact if_pos (by rw [Bool.and_eq_true, bne_iff_ne]; exact ⟨phase, passes⟩)

theorem but_decided (s : State) : But 0x400402c002 s (decideBanks s) := but_decideBanks (Within.self _) (.self _ s)

/-- The trio block after a rejoin has ended with `code`. -/
def rejoinEnded (code : Byte) (s : State) : State :=
  updTrio (fun t => { t with
    code := code, phase := 0, donor := 3, rejoinReq := false, rejoinTest := false, bulkDone := false, copiedBytes := 0
    role := if listening s then .observer else t.role }) s

theorem endRejoin_member {s : State} (h : s.trio.role ≠ .listening) (code : Byte) :
    endRejoin code s = raise .trio 6 none .unstated (rejoinEnded code s) := by
  have no : listening s = false := by unfold listening; simpa using h
  unfold endRejoin rejoinEnded
  rw [no]
  rfl

theorem endRejoin_listener {s : State} (h : s.trio.role = .listening) (code : Byte) :
    endRejoin code s = raise .trio 6 none .unstated (stopController .observer false true (rejoinEnded code s)) := by
  have yes : listening s = true := by unfold listening; rw [h]; rfl
  unfold endRejoin rejoinEnded
  rw [yes]
  rfl

/-- What the commit point decides of the banks does not depend on what follows of the trio block. -/
theorem banksDecided_rejoinEnded {s t : State} (h : banksDecided s t) (code : Byte) :
    banksDecided s (raise .trio 6 none .unstated (rejoinEnded code t)) := by
  obtain ⟨held, app, sched, first1, first2, alone1, alone2, both⟩ := h
  have run : (raise .trio 6 none .unstated (rejoinEnded code t)).run = t.run := raise_run _ _ _ _ _
  have schedSame : (raise .trio 6 none .unstated (rejoinEnded code t)).sched = t.sched := raise_sched _ _ _ _ _
  have safety : (raise .trio 6 none .unstated (rejoinEnded code t)).safety = t.safety := raise_safety _ _ _ _ _
  have raw : rawKept t (raise .trio 6 none .unstated (rejoinEnded code t)) :=
    rawKept_trans (rawKept_of_hdrs (t := rejoinEnded code t) rfl) (rawKept_raise _ _ _ _ _)
  unfold banksDecided
  rw [run, schedSame, safety]
  refine ⟨held, app, sched, fun due c first => ?_, fun due c first => ?_, alone1, alone2, both⟩
  · obtain ⟨bank, code_, told, sealed⟩ := first1 due c first
    exact ⟨bank, code_, raw _ _ told, sealed⟩
  · obtain ⟨bank, code_, told⟩ := first2 due c first
    exact ⟨bank, code_, raw _ _ told⟩

/-! ### A stop takes back what is armed -/

/-- The banks of a device: the images of run control with the state of their bank, and the schedule block. -/
structure Banks where
  active : Option AppImage
  shadow : Option AppImage
  app : BankState
  sched : Sched

/-- The banks as they stand. -/
def banksOf (s : State) : Banks := ⟨s.run.active, s.run.shadow, s.run.bank, s.sched⟩

/-- A bank that is armed is so no more. -/
def unarmed (b : BankState) : BankState := if b == .armed then .valid else b

/-- The banks when what is armed has been cancelled. -/
def Banks.cancelled (b : Banks) : Banks :=
  { b with
    app := unarmed b.app
    sched := if b.sched.bank == .armed then { b.sched with bank := .valid, armedApp := false, armedTrio := false } else b.sched }

theorem unarmed_ne (b : BankState) : unarmed b ≠ .armed := by cases b <;> decide

theorem unarmed_of_ne {b : BankState} (h : b ≠ .armed) : unarmed b = b := if_neg (by simpa using h)

theorem Banks.cancelled_sched_bank (b : Banks) : b.cancelled.sched.bank = unarmed b.sched.bank := by
  unfold Banks.cancelled unarmed
  dsimp only
  split <;> rfl

theorem Banks.cancelled_of_unarmed {b : Banks} (app : b.app ≠ .armed) (sched : b.sched.bank ≠ .armed) : b.cancelled = b := by
  unfold Banks.cancelled
  rw [unarmed_of_ne app, if_neg (by simpa using sched)]

theorem Banks.cancelled_twice (b : Banks) : b.cancelled.cancelled = b.cancelled :=
  Banks.cancelled_of_unarmed (unarmed_ne _) (by rw [Banks.cancelled_sched_bank]; exact unarmed_ne _)

theorem banksOf_of_but {W : Nat} {s t : State} (h : But W s t) (run : W.testBit 15 = false) (sched : W.testBit 14 = false) : banksOf t = banksOf s := by
  unfold banksOf
  rw [h .run run, h .sched sched]

theorem banksOf_cancels (s : State) : banksOf (cancelApp none (cancelSched none s)) = (banksOf s).cancelled := by
  have sched : (cancelApp none (cancelSched none s)).sched =
      if s.sched.bank == .armed then { s.sched with bank := .valid, armedApp := false, armedTrio := false } else s.sched := by
    rw [but_cancelledApp none (cancelSched none s) .sched rfl]
    unfold cancelSched
    split
    · exact raise_sched _ _ _ _ _
    · rfl
  have run : ∀ t : State, t.run = s.run → (cancelApp none t).run.active = s.run.active ∧ (cancelApp none t).run.shadow = s.run.shadow ∧
      (cancelApp none t).run.bank = unarmed s.run.bank := fun t e => by
    unfold cancelApp unarmed
    rw [e]
    split
    · rw [raise_run]; exact ⟨rfl, rfl, rfl⟩
    · rw [e]; exact ⟨rfl, rfl, rfl⟩
  obtain ⟨active, shadow, bank⟩ := run (cancelSched none s) (but_cancelledSched none s .run rfl)
  unfold banksOf Banks.cancelled
  rw [sched, active, shadow, bank]

theorem banksOf_foldl {α : Type} {f : State → α → State} (h : ∀ s a, banksOf (f s a) = banksOf s) (l : List α) (s : State) :
    banksOf (l.foldl f s) = banksOf s := foldl_proj banksOf f h l s

theorem banksOf_stopController (st : RunState) (keepSingle noHold : Bool) (s : State) :
    banksOf (stopController st keepSingle noHold s) = (banksOf s).cancelled := by
  have safe : ∀ u, banksOf (safeOutputs keepSingle u) = banksOf u := fun u =>
    banksOf_of_but (but_safeOutputs (Within.self _) (.self _ u)) rfl rfl
  have slots : ∀ u (c : Fin 16), banksOf (cancelSlots u c) = banksOf u := fun u _ =>
    banksOf_of_but (but_cancelSlots (Within.self _) (.self _ u)) rfl rfl
  have funcs : ∀ u c, banksOf (stopFunc noHold u c) = banksOf u := fun u _ =>
    banksOf_of_but (but_stopFunc (Within.self _) (.self _ u)) rfl rfl
  unfold stopController
  rw [safe, banksOf_foldl slots, banksOf_foldl funcs, banksOf_cancels]
  rfl

/-- What `decideBanks` and the end of a rejoin leave. -/
theorem but_rejoinEnded (code : Byte) (s : State) : But 0x10000 s (rejoinEnded code s) := but_updTrio (Within.self _) (.self _ s)

/-- A rejoin that the commit point of a trio swap ends: ABORTED, and a listener stops. -/
theorem commitPoint_aborts {s : State} (last : lastRound s = true) (phase : s.trio.phase ≠ 0) (passes : swapPasses s = true) :
    let t := commitPoint s
    t.trio.phase = 0 ∧ t.trio.code = 0x56 ∧ (hdrAt t .trio).raw.getLsbD 6 = true ∧
      (s.trio.role ≠ .listening → banksDecided s t ∧
        { t with run := s.run, sched := s.sched, safety := s.safety, trio := s.trio, hdrs := s.hdrs, recorder := s.recorder, free := s.free } = s) ∧
      (s.trio.role = .listening → t.run.state = .observer ∧ t.run.bank ≠ .armed ∧ t.sched.bank ≠ .armed) := by
  have trio : (decideBanks s).trio = s.trio := but_decided s .trio rfl
  intro t
  by_cases role : s.trio.role = .listening
  · have eq : t = raise .trio 6 none .unstated (stopController .observer false true (rejoinEnded 0x56 (decideBanks s))) :=
      (commitPoint_rejoining phase passes).trans (endRejoin_listener (by rw [trio]; exact role) _)
    have stopped : (stopController .observer false true (rejoinEnded 0x56 (decideBanks s))).trio = (rejoinEnded 0x56 (decideBanks s)).trio :=
      but_stopController (Within.self _) (.self _ _) .trio rfl
    have same : t.trio = (rejoinEnded 0x56 (decideBanks s)).trio := by rw [eq, raise_trio, stopped]
    have run : t.run = (stopController .observer false true (rejoinEnded 0x56 (decideBanks s))).run := by rw [eq, raise_run]
    have sched : t.sched = (stopController .observer false true (rejoinEnded 0x56 (decideBanks s))).sched := by rw [eq, raise_sched]
    have banks := banksOf_stopController .observer false true (rejoinEnded 0x56 (decideBanks s))
    refine ⟨by rw [same]; rfl, by rw [same]; rfl, by rw [eq]; exact raise_sets _ _ _ _ _ (by decide), fun other => absurd role other, fun _ => ⟨?_, ?_, ?_⟩⟩
    · rw [run]; exact stopController_state _ _ _ _
    · rw [run, show (stopController .observer false true (rejoinEnded 0x56 (decideBanks s))).run.bank = _ from congrArg Banks.app banks]
      exact unarmed_ne _
    · rw [sched, show (stopController .observer false true (rejoinEnded 0x56 (decideBanks s))).sched = _ from congrArg Banks.sched banks,
        Banks.cancelled_sched_bank]
      exact unarmed_ne _
  · have eq : t = raise .trio 6 none .unstated (rejoinEnded 0x56 (decideBanks s)) :=
      (commitPoint_rejoining phase passes).trans (endRejoin_member (by rw [trio]; exact role) _)
    have same : t.trio = (rejoinEnded 0x56 (decideBanks s)).trio := by rw [eq, raise_trio]
    have frame : But 0x400403c002 s t := by
      rw [eq]
      exact but_raise ((Within.self _).le rfl) (((but_decided s).mono ((Within.self _).le rfl)).trans
        ((but_rejoinEnded _ _).mono ((Within.self _).le rfl)))
    refine ⟨by rw [same]; rfl, by rw [same]; rfl, by rw [eq]; exact raise_sets _ _ _ _ _ (by decide), fun _ => ⟨?_, restored_of_but frame⟩,
      fun other => absurd other role⟩
    rw [eq]
    exact banksDecided_rejoinEnded (banksDecided_decideBanks last) _

/-! ### A round boundary and the banks -/

/-- The banks stay as they are, or what is armed is taken back. -/
def banksKept (s t : State) : Prop := banksOf t = banksOf s ∨ banksOf t = (banksOf s).cancelled

theorem banksKept_of_eq {s t : State} (h : banksOf t = banksOf s) : banksKept s t := .inl h

theorem banksKept_trans {s t u : State} (h : banksKept s t) (k : banksKept t u) : banksKept s u := by
  obtain same | stopped := h
  · rwa [banksKept, same] at k
  · right
    rw [banksKept, stopped, Banks.cancelled_twice] at k
    exact k.elim id id

theorem banksOf_trio (x : Trio) (s : State) : banksOf { s with trio := x } = banksOf s := rfl

theorem banksOf_raiseUrgent (pg : Page) (bit n : Nat) (ten : Option (BitVec 3)) (ps : Params) (s : State) :
    banksOf (raiseUrgent pg bit n ten ps s) = banksOf s := banksOf_of_but (but_raiseUrgent (Within.self _) (.self _ s)) rfl rfl

theorem banksOf_raise (pg : Page) (bit : Nat) (ten : Option (BitVec 3)) (ps : Params) (s : State) :
    banksOf (raise pg bit ten ps s) = banksOf s := banksOf_of_but (but_raise (Within.self _) (.self _ s)) rfl rfl

theorem banksOf_note (pg : Page) (n : Nat) (ten : Option (BitVec 3)) (p0 p1 : Word) (s : State) :
    banksOf (note pg n ten p0 p1 s) = banksOf s := banksOf_of_but (but_note (Within.self _) (.self _ s)) rfl rfl

theorem banksOf_noteConds (pgs : List Page) (was s : State) : banksOf (noteConds pgs was s) = banksOf s :=
  banksOf_of_but (but_noteConds (Within.self _) (.self _ s)) rfl rfl

theorem banksOf_dropRejoin (s : State) : banksOf (dropRejoin s) = banksOf s := banksOf_of_but (but_dropRejoin (Within.self _) (.self _ s)) rfl rfl

theorem banksKept_giveUp (cause : Nat) (s : State) : banksKept s (giveUp cause s) := by
  unfold giveUp giveUpWith
  split
  · exact banksKept_of_eq rfl
  · right
    rw [banksOf_raiseUrgent, banksOf_dropRejoin, banksOf_trio, banksOf_stopController]

theorem banksKept_failSelfTest (s : State) : banksKept s (failSelfTest s) := by
  unfold failSelfTest
  split
  · exact banksKept_of_eq rfl
  · exact banksKept_of_eq rfl
  · exact banksKept_of_eq (banksOf_dropRejoin s)
  · split
    · exact banksKept_giveUp _ s
    · exact .inr (banksOf_stopController _ _ _ s)
  · split
    · exact banksKept_giveUp _ s
    · exact .inr ((banksOf_stopController _ _ _ _).trans (by rw [banksOf_dropRejoin]))

/-- A tile found an uncorrectable word of an image, or none did. -/
def imageFailed (bad : Bool) (s : State) : State := if bad then failSelfTest s else s

/-- A tile is without a variant, or none is. -/
def variantsSpent (none_ : Bool) (s : State) : State :=
  if none_ && s.run.state == .running then (if inTrio s then giveUp 0x02 s else stopController .stopped false false s) else s

theorem endTiles_eq (s : State) : endTiles s = variantsSpent ((presentCrests s).any fun c => (Vec.at s.crests c).exhausted)
    (imageFailed ((presentCrests s).any fun c => (Vec.at s.crests c).failAtRoundEnd)
      { s with crests := s.crests.map fun t => { t with failAtRoundEnd := false } }) := rfl

theorem banksKept_imageFailed (bad : Bool) (s : State) : banksKept s (imageFailed bad s) := by
  cases bad
  · exact banksKept_of_eq rfl
  · exact banksKept_failSelfTest s

theorem banksKept_variantsSpent (none_ : Bool) (s : State) : banksKept s (variantsSpent none_ s) := by
  unfold variantsSpent
  split
  · split
    · exact banksKept_giveUp _ s
    · exact .inr (banksOf_stopController _ _ _ s)
  · exact banksKept_of_eq rfl

theorem banksKept_endTiles (s : State) : banksKept s (endTiles s) := by
  rw [endTiles_eq]
  have marked : banksKept s { s with crests := s.crests.map fun t => { t with failAtRoundEnd := false } } := banksKept_of_eq rfl
  exact banksKept_trans (banksKept_trans marked (banksKept_imageFailed _ _)) (banksKept_variantsSpent _ _)

/-- With no tile at fault, the round's end changes nothing but the tiles' marks. -/
theorem endTiles_sound {s : State} (h : ∀ c, (Vec.at s.crests c).failAtRoundEnd = false ∧ (Vec.at s.crests c).exhausted = false) :
    endTiles s = { s with crests := s.crests.map fun t => { t with failAtRoundEnd := false } } := by
  have bad : ((presentCrests s).any fun c => (Vec.at s.crests c).failAtRoundEnd) = false := by
    rw [List.any_eq_false]; intro c _; rw [(h c).1]; decide
  have none_ : ((presentCrests s).any fun c => (Vec.at s.crests c).exhausted) = false := by
    rw [List.any_eq_false]; intro c _; rw [(h c).2]; decide
  rw [endTiles_eq, bad, none_]
  rfl

theorem banksOf_writeFlit (a : Word) (d : List Byte) (s : State) : banksOf (writeFlit a d s) = banksOf s := by
  have field : ∀ off, banksOf (writeFieldFlit off d s) = banksOf s := fun off =>
    banksOf_of_but (but_writeFieldFlit (Within.self _) (.self _ s)) rfl rfl
  have panel : ∀ off, banksOf (writePanelFlit off d s) = banksOf s := fun off =>
    banksOf_of_but (but_writePanelFlit (Within.self _) (.self _ s)) rfl rfl
  unfold writeFlit writeSaddle
  dsimp only
  split
  · split
    · rfl
    · split <;> rfl
  · split
    · rfl
    · split
      · exact field _
      · exact panel _

/-- A staged flit takes effect. -/
def unstage (s : State) (x : Word × List Byte) : State := writeFlit x.1 x.2 s

theorem endSlotWrites_eq (s : State) : endSlotWrites s = s.staged.foldl unstage { s with staged := [] } := rfl

theorem banksOf_unstage (s : State) (x : Word × List Byte) : banksOf (unstage s x) = banksOf s := banksOf_writeFlit x.1 x.2 s

theorem banksOf_endSlotWrites (s : State) : banksOf (endSlotWrites s) = banksOf s := by
  rw [endSlotWrites_eq, banksOf_foldl banksOf_unstage]
  rfl

/-- The record of a task that is stopped. -/
def noteStopped (s : State) (x : TaskRt × TaskRt) : State :=
  note .runControl 0x81 (some x.2.tenant) (fld x.2.tenant 0) (fld x.2.task 0) s

theorem banksOf_noteStopped (s : State) (x : TaskRt × TaskRt) : banksOf (noteStopped s x) = banksOf s := banksOf_note _ _ _ _ _ s

theorem endTasks_eq (s : State) : endTasks s = ((s.run.tasks.zip (s.run.tasks.map (endTask s))).filter fun x => !x.1.stopped && x.2.stopped).foldl
    noteStopped (updRun (fun r => { r with tasks := s.run.tasks.map (endTask s) }) s) := rfl

theorem banksOf_endTasks (s : State) : banksOf (endTasks s) = banksOf s := by
  rw [endTasks_eq, banksOf_foldl banksOf_noteStopped]
  rfl

theorem banksOf_rejoinAtStart (s : State) : banksOf (rejoinAtStart s) = banksOf s := by
  unfold rejoinAtStart
  dsimp only
  split
  · rfl
  · split
    · rfl
    · split
      · exact banksOf_raise _ _ _ _ _
      · rfl

theorem banksOf_applyRoster (s : State) : banksOf (applyRoster s) = banksOf s := by
  unfold applyRoster
  dsimp only
  rw [banksOf_of_but (but_setEnables (Within.self _) (.self _ _)) rfl rfl,
    banksOf_of_but (but_donorAtStart (Within.self _) (.self _ _)) rfl rfl, banksOf_rejoinAtStart]
  split
  · rfl
  next r _ =>
    have adopted : ∀ (b : Bool) (u : State), banksOf (if b then unfence u else u) = banksOf u := fun b u => by cases b <;> rfl
    split
    · rw [banksOf_raise, banksOf_noteConds, adopted]; rfl
    · rw [banksOf_noteConds, adopted]; rfl

theorem banksOf_queueKeaco (held : Bool) (n : Fin 256) (s : State) : banksOf (queueKeaco held n s) = banksOf s := by
  unfold queueKeaco
  split
  · rfl
  · split <;> rfl

theorem banksOf_commitGroup (eff : Bool) (s : State) (g : IoGroup) : banksOf (commitGroup eff s g) = banksOf s := by
  have counted : banksOf (if fieldClass g.cls.toNat then bump .field 0x10 1 s else s) = banksOf s := by
    split
    · exact banksOf_of_but (but_bump (Within.self _) (.self _ s)) rfl rfl
    · rfl
  unfold commitGroup
  dsimp only
  split
  · split
    · exact (banksOf_of_but (but_commitPanel (Within.self _) (.self _ _)) rfl rfl).trans counted
    · exact counted
  · split
    · exact (banksOf_queueKeaco _ _ _).trans counted
    · split
      · exact (banksOf_of_but (but_releaseSafe ((Within.self 0x4000040000).le rfl) (but_commitBank (Within.self _) (.self _ _))) rfl rfl).trans counted
      · exact (banksOf_of_but (but_dropBank (Within.self _) (.self _ _)) rfl rfl).trans counted

theorem banksOf_commits (r : BitVec 10) (s : State) : banksOf (commits r s) = banksOf s := by
  unfold commits
  dsimp only
  rw [banksOf_of_but (but_refreshField (Within.self _) (.self _ _)) rfl rfl, banksOf_foldl (banksOf_commitGroup _)]
  split <;> rfl

/-- What of a tile its round's end judges: an uncorrectable word of an image, and a spent set of variants (R93, R99). -/
def tileMarks (s : State) (c : Fin 6) : Bool × Bool := ((Vec.at s.crests c).failAtRoundEnd, (Vec.at s.crests c).exhausted)

theorem tileMarks_of_crests {s t : State} (h : t.crests = s.crests) (c : Fin 6) : tileMarks t c = tileMarks s c := by unfold tileMarks; rw [h]

theorem tileMarks_updCrest (e : Fin 6) (f : Crest → Crest) (s : State) (c : Fin 6)
    (h : ∀ t, ((f t).failAtRoundEnd, (f t).exhausted) = (t.failAtRoundEnd, t.exhausted)) : tileMarks (updCrest e f s) c = tileMarks s c :=
  updCrest_proj (fun t => (t.failAtRoundEnd, t.exhausted)) e f s c h

theorem tileMarks_writeFlit (a : Word) (d : List Byte) (s : State) (c : Fin 6) : tileMarks (writeFlit a d s) c = tileMarks s c := by
  have mem : ∀ (e : Fin 6) (off : Nat), tileMarks (loopPut e off d s) c = tileMarks s c := fun e off => by
    unfold loopPut loopWritten updLoop
    rw [tileMarks_updCrest, tileMarks_updCrest]
    all_goals exact fun _ => rfl
  have field : ∀ off, tileMarks (writeFieldFlit off d s) c = tileMarks s c := fun off =>
    tileMarks_of_crests (but_writeFieldFlit (Within.self _) (.self _ s) .crests rfl) c
  have panel : ∀ off, tileMarks (writePanelFlit off d s) c = tileMarks s c := fun off =>
    tileMarks_of_crests (but_writePanelFlit (Within.self _) (.self _ s) .crests rfl) c
  unfold writeFlit writeSaddle
  dsimp only
  split
  · split
    · rfl
    · split <;> rfl
  · split
    · exact mem _ _
    · split
      · exact field _
      · exact panel _

theorem tileMarks_endSlotWrites (s : State) (c : Fin 6) : tileMarks (endSlotWrites s) c = tileMarks s c := by
  rw [endSlotWrites_eq, foldl_proj (fun t => tileMarks t c) unstage fun t x => tileMarks_writeFlit x.1 x.2 t c]
  rfl

/-- The boundary up to the judgement of the tiles: what ends with the slot, a timebase step, readbacks. -/
def roundEnds (s : State) : State := judgeOutputs (latchField (applyStep (endSlotWrites s)))

theorem but_roundEnds_rest (s : State) : But 0x4004060012 (endSlotWrites s) (roundEnds s) :=
  but_judgeOutputs ((Within.self _).le rfl) (but_latchField ((Within.self _).le rfl) (but_applyStep ((Within.self _).le rfl) (.self _ _)))

theorem banksOf_roundEnds (s : State) : banksOf (roundEnds s) = banksOf s :=
  (banksOf_of_but (but_roundEnds_rest s) rfl rfl).trans (banksOf_endSlotWrites s)

theorem tileMarks_roundEnds (s : State) (c : Fin 6) : tileMarks (roundEnds s) c = tileMarks s c :=
  (tileMarks_of_crests (but_roundEnds_rest s .crests rfl) c).trans (tileMarks_endSlotWrites s c)

theorem boundary_eq (r : BitVec 10) (s : State) :
    boundary r s = commits r (applyRoster (noteMirror (endTasks (endTiles (roundEnds s))))) := rfl

theorem banksOf_boundary (r : BitVec 10) (s : State) : banksOf (boundary r s) = banksOf (endTiles (roundEnds s)) := by
  rw [boundary_eq, banksOf_commits, banksOf_applyRoster, banksOf_of_but (but_noteMirror (Within.self _) (.self _ _)) rfl rfl, banksOf_endTasks]

theorem banksKept_boundary (r : BitVec 10) (s : State) : banksKept s (boundary r s) := by
  have kept := banksKept_endTiles (roundEnds s)
  unfold banksKept at kept ⊢
  rwa [banksOf_boundary, ← banksOf_roundEnds s]

/-- No tile fails the device at the end of the round. -/
def tilesSound (s : State) : Prop := ∀ c, (Vec.at s.crests c).failAtRoundEnd = false ∧ (Vec.at s.crests c).exhausted = false

theorem tilesSound_congr {s t : State} (h : ∀ c, tileMarks t c = tileMarks s c) (sound : tilesSound s) : tilesSound t := fun c => by
  have same := h c
  unfold tileMarks at same
  rw [(Prod.mk.inj same).1, (Prod.mk.inj same).2]
  exact sound c

theorem banksOf_boundary_sound (r : BitVec 10) {s : State} (h : tilesSound s) : banksOf (boundary r s) = banksOf s := by
  rw [banksOf_boundary, endTiles_sound (tilesSound_congr (tileMarks_roundEnds s) h)]
  exact banksOf_roundEnds s

/-! ### The start of a major frame -/

/-- The schedule block at the start of the next major frame, which begins at `n`. -/
def atNextFrame (n : Nat) (x : Sched) : Sched :=
  { x with frame := x.frame + 1, round := 0, frameNs := n, roundNs := n, slot := 0, slotBegun := false, switched := true }

theorem lastRound_of_sched {s t : State} (h : (t.sched.active, t.sched.running, t.sched.round) = (s.sched.active, s.sched.running, s.sched.round)) :
    lastRound t = lastRound s := by
  obtain ⟨active, running, round⟩ : t.sched.active = s.sched.active ∧ t.sched.running = s.sched.running ∧ t.sched.round = s.sched.round := by
    simpa using h
  unfold lastRound; rw [active, running, round]

/-- A cancelled bank leaves the position of the schedule. -/
theorem Banks.cancelled_position (b : Banks) :
    (b.cancelled.sched.active, b.cancelled.sched.running, b.cancelled.sched.round) = (b.sched.active, b.sched.running, b.sched.round) := by
  unfold Banks.cancelled
  dsimp only
  split <;> rfl

theorem lastRound_of_banksKept {s t : State} (h : banksKept s t) : lastRound t = lastRound s := by
  refine lastRound_of_sched ?_
  obtain same | stopped := h
  · rw [show t.sched = s.sched from congrArg Banks.sched same]
  · rw [show t.sched = (banksOf s).cancelled.sched from congrArg Banks.sched stopped, Banks.cancelled_position]
    rfl

theorem toNextRound_last {s : State} (h : lastRound s = true) :
    updSched (fun x => { x with switched := true }) (toNextRound s) = { s with sched := atNextFrame (nextRoundNs s) s.sched } := by
  unfold toNextRound
  rw [h]
  rfl

theorem enterFrame_begun {s : State} (h : s.sched.switched = true) : enterFrame s = s := by unfold enterFrame; rw [h]; rfl

/-- The boundary at the end of the last round. -/
def frameBoundary (s : State) : State := boundary (nextRound (reach (nextRoundNs s) s)) (reach (nextRoundNs s) s)

theorem banksOf_sched (f : Sched → Sched) (s : State) :
    banksOf { s with sched := f s.sched } = { banksOf s with sched := f (banksOf s).sched } := rfl

theorem passBoundary_eq (s : State) : passBoundary s = toNextRound (frameBoundary s) := rfl

theorem banksOf_reach (n : Nat) (s : State) : banksOf (reach n s) = banksOf s := banksOf_of_but (but_reached n s) rfl rfl

theorem tilesSound_reach (n : Nat) {s : State} (h : tilesSound s) : tilesSound (reach n s) :=
  tilesSound_congr (tileMarks_of_crests (but_reached n s .crests rfl)) h

theorem banksKept_frameBoundary (s : State) : banksKept s (frameBoundary s) := by
  have kept := banksKept_boundary (nextRound (reach (nextRoundNs s) s)) (reach (nextRoundNs s) s)
  unfold banksKept at kept
  rwa [banksOf_reach] at kept

theorem banksOf_frameBoundary_sound {s : State} (h : tilesSound s) : banksOf (frameBoundary s) = banksOf s := by
  unfold frameBoundary
  rw [banksOf_boundary_sound _ (tilesSound_reach _ h), banksOf_reach]

/-- The start of the next major frame: the banks as the boundary leaves them, at round 0 of the next frame. -/
theorem enterFrame_banks {s : State} (fresh : s.sched.switched = false) (last : lastRound s = true) :
    ∃ b n, (b = banksOf s ∨ b = (banksOf s).cancelled) ∧ (tilesSound s → b = banksOf s) ∧
      banksOf (enterFrame s) = { b with sched := atNextFrame n b.sched } := by
  have kept := banksKept_frameBoundary s
  have stays : lastRound (frameBoundary s) = true := (lastRound_of_banksKept kept).trans last
  have enters : enterFrame s = updSched (fun x => { x with switched := true }) (passBoundary s) := by
    unfold enterFrame; rw [fresh, last]; rfl
  refine ⟨banksOf (frameBoundary s), nextRoundNs (frameBoundary s), kept, banksOf_frameBoundary_sound, ?_⟩
  rw [enters, passBoundary_eq, toNextRound_last stays]
  exact banksOf_sched (atNextFrame _) (frameBoundary s)

/-! ### SCHEDULE_SWAP (R60) -/

theorem swapDue_parts {s : State} (h : swapDue s = true) : s.sched.bank = .armed ∧ (s.sched.switched = false → lastRound s = true) := by
  unfold swapDue at h
  simp only [Bool.and_eq_true] at h
  obtain ⟨⟨⟨armed, -⟩, -⟩, position⟩ := h
  refine ⟨eq_of_beq armed, fun fresh => ?_⟩
  rw [fresh, if_neg (by decide), Bool.and_eq_true] at position
  exact position.1

theorem scheduleSwap_elsewhere {s : State} (h : swapDue s = false) : scheduleSwap s = s := by unfold scheduleSwap; rw [h]; rfl

theorem scheduleSwap_due {s : State} (h : swapDue s = true) :
    scheduleSwap s = if (enterFrame s).sched.bank == .armed then swapBanks (enterFrame s) else enterFrame s := by
  unfold scheduleSwap; rw [h]; rfl

theorem swapBanks_sched (s : State) : (swapBanks s).sched = { s.sched with
    active := s.sched.shadow, activeEnv := s.sched.shadowEnv, shadow := s.sched.active, shadowEnv := s.sched.activeEnv
    bank := .valid, armedTrio := false, swapped := true } := raise_sched _ _ _ _ _

theorem swapBanks_raises (s : State) : (hdrAt (swapBanks s) .schedule).raw.getLsbD 1 = true := raise_sets _ _ _ _ _ (by decide)

/-- The swap where the start of the frame left the bank armed. -/
theorem scheduleSwap_swaps {s : State} (h : swapDue s = true) (armed : (enterFrame s).sched.bank = .armed) :
    scheduleSwap s = swapBanks (enterFrame s) := (scheduleSwap_due h).trans (if_pos (by rw [armed]; rfl))

theorem scheduleSwap_stopped {s : State} (h : swapDue s = true) (unarmed_ : (enterFrame s).sched.bank ≠ .armed) :
    scheduleSwap s = enterFrame s := (scheduleSwap_due h).trans (if_neg (by simpa using unarmed_))

/-- What a swap leaves of the schedule block, at a frame that has begun or by beginning it. -/
theorem scheduleSwap_sched {s : State} (h : swapDue s = true) :
    let t := scheduleSwap s
    t.sched.bank = .valid ∧
      t.sched.frame = (if s.sched.switched then s.sched.frame else s.sched.frame + 1) ∧
      (s.sched.switched = false → t.sched.round = 0 ∧ t.sched.switched = true) ∧
      (s.sched.switched = true ∨ tilesSound s →
        t.sched.active = s.sched.shadow ∧ t.sched.shadow = s.sched.active ∧ (hdrAt t .schedule).raw.getLsbD 1 = true) := by
  obtain ⟨armed, position⟩ := swapDue_parts h
  intro t
  cases switched : s.sched.switched with
  | true =>
    have eq : t = swapBanks s := by
      have swaps := scheduleSwap_swaps h
      rw [enterFrame_begun switched] at swaps
      exact swaps armed
    rw [eq, swapBanks_sched]
    exact ⟨rfl, rfl, fun other => absurd other (by decide), fun _ => ⟨rfl, rfl, swapBanks_raises s⟩⟩
  | false =>
    obtain ⟨b, n, came, sound, banks⟩ := enterFrame_banks switched (position switched)
    have sched : (enterFrame s).sched = atNextFrame n b.sched := congrArg Banks.sched banks
    have frame : b.sched.frame = s.sched.frame := by
      obtain rfl | rfl := came
      · rfl
      · unfold Banks.cancelled banksOf; dsimp only; split <;> rfl
    by_cases still : (enterFrame s).sched.bank = .armed
    · have eq : t = swapBanks (enterFrame s) := scheduleSwap_swaps h still
      rw [eq, swapBanks_sched, sched]
      refine ⟨rfl, congrArg (· + 1) frame, fun _ => ⟨rfl, rfl⟩, fun whole => ?_⟩
      obtain same := sound (whole.resolve_left (by decide))
      exact ⟨by rw [same]; rfl, by rw [same]; rfl, swapBanks_raises _⟩
    · have eq : t = enterFrame s := scheduleSwap_stopped h still
      have stopped : b = (banksOf s).cancelled := came.resolve_left fun same => still (by rw [sched, same]; exact armed)
      have bank : b.sched.bank = .valid := by
        rw [stopped, Banks.cancelled_sched_bank, show (banksOf s).sched.bank = .armed from armed]; rfl
      rw [eq, sched]
      refine ⟨bank, congrArg (· + 1) frame, fun _ => ⟨rfl, rfl⟩, fun whole => ?_⟩
      have same := sound (whole.resolve_left (by decide))
      exact absurd (by rw [sched, same]; exact armed) still

/-! ### APP_EXCHANGE (R117, R130) -/

theorem exchangeDue_parts {s : State} (h : exchangeDue s = true) : s.run.bank = .armed ∧ (s.sched.switched = false → lastRound s = true) := by
  unfold exchangeDue at h
  simp only [Bool.and_eq_true] at h
  obtain ⟨⟨⟨⟨armed, -⟩, -⟩, -⟩, position⟩ := h
  refine ⟨eq_of_beq armed, fun fresh => ?_⟩
  rw [fresh, if_neg (by decide), Bool.and_eq_true] at position
  exact position.1

theorem appExchange_elsewhere {s : State} (h : exchangeDue s = false) : appExchange s = s := by unfold appExchange; rw [h]; rfl

theorem appExchange_exchanges {s : State} {old new : AppImage} (h : exchangeDue s = true) (armed : (enterFrame s).run.bank = .armed)
    (active : (enterFrame s).run.active = some old) (shadow : (enterFrame s).run.shadow = some new) :
    appExchange s = exchangeBanks old new (enterFrame s) := by
  unfold appExchange
  rw [h, if_neg (by decide)]
  dsimp only
  rw [armed, active, shadow]

theorem appExchange_stopped {s : State} (h : exchangeDue s = true) (unarmed_ : (enterFrame s).run.bank ≠ .armed) :
    appExchange s = enterFrame s := by
  unfold appExchange
  rw [h, if_neg (by decide)]
  dsimp only
  split
  next armed _ _ => exact absurd armed unarmed_
  next => rfl

/-- The run-control block at the exchange: the images change places and the tasks run again. -/
def imagesExchanged (old new : AppImage) (s : State) : State :=
  updRun (fun r => { r with
    active := some new, activeEnv := r.shadowEnv, shadow := some old, shadowEnv := r.activeEnv
    bank := .valid, ownTarget := false, armedTrio := false
    tasks := r.tasks.map fun t => { t with stopped := false, rowCount := 0 } }) s

/-- Loops, functions and stations follow the new image. -/
def blocksExchanged (old new : AppImage) (s : State) : State :=
  exchangeStations old new (exchangeFuncs (funcCfgs s) (new.loops.foldl (exchangeLoop s old new) (imagesExchanged old new s)))

/-- The windows of the partition follow it where they differ. -/
def windowsExchanged (old new : AppImage) (s : State) : State :=
  let s := updSafety (fun x => { x with accepted := (safetyCfg s).isSome }) s
  if old.windows == new.windows && old.partitionUs == new.partitionUs then s else startWindows s

/-- What follows the forces of the new image: its configuration, its I/O map and the records of the conditions of `pgs`. -/
def exchangeEnds (pgs : List Page) (was : State) (old new : AppImage) (s : State) : State :=
  raise .runControl 4 none .unstated (noteConds pgs was (refreshField (exchangeField old.ioMap (applyAppConfig new (layoutWaits old new s)))))

theorem exchangeBanks_eq (old new : AppImage) (s : State) : exchangeBanks old new s =
    exchangeEnds (.panel :: (presentCrests (windowsExchanged old new (blocksExchanged old new s))).map .loopArray) s old new
      (exchangeForces old new (windowsExchanged old new (blocksExchanged old new s))) := rfl

theorem but_exchangeEnds (pgs : List Page) (was : State) (old new : AppImage) (s : State) : But 0x400cf40002 s (exchangeEnds pgs was old new s) :=
  but_raise ((Within.self _).le rfl) (but_noteConds ((Within.self _).le rfl) (but_refreshField ((Within.self _).le rfl)
    (but_exchangeField ((Within.self _).le rfl) (but_applyAppConfig ((Within.self _).le rfl) (but_layoutWaits ((Within.self _).le rfl) (.self _ s))))))

theorem exchangeEnds_raises (pgs : List Page) (was : State) (old new : AppImage) (s : State) :
    (hdrAt (exchangeEnds pgs was old new s) .runControl).raw.getLsbD 4 = true := raise_sets _ _ _ _ _ (by decide)

theorem but_windowsExchanged (old new : AppImage) (s : State) : But 0x820000 s (windowsExchanged old new s) := by
  unfold windowsExchanged
  exact but_ite (but_updSafety ((Within.self _).le rfl) (.self _ s)) (but_startWindows ((Within.self _).le rfl) (but_updSafety ((Within.self _).le rfl) (.self _ s)))

/-- The force a point keeps across an exchange: one whose key both images give it (R117). -/
def keptForce (old new : AppImage) (f : Option Force) : Option Force :=
  f.bind fun f =>
    if ((pointKey old f.point).map fun x => x.1) == ((pointKey new f.point).map fun x => x.1) && (pointKey old f.point).isSome then some f else none

/-- The exchange decides the force of one entry. -/
def exchangeForce (old new : AppImage) (s : State) (i : Fin 256) : State :=
  match Vec.at s.run.forces i with
  | none => s
  | some f =>
    let was := pointKey old f.point
    if (was.map fun x => x.1) == ((pointKey new f.point).map fun x => x.1) && was.isSome then s
    else note .runControl 0x80 (was.map fun x => x.2) (fld f.point 0) (fld (was.elim 0 fun x => x.2) 0) (putForce i none s)

theorem exchangeForces_eq (old new : AppImage) (s : State) :
    exchangeForces old new s = refreshForceInd ((List.finRange 256).foldl (exchangeForce old new) s) := rfl

theorem refreshForceInd_run (s : State) : (refreshForceInd s).run = s.run := rfl

theorem banksOf_refreshForceInd (s : State) : banksOf (refreshForceInd s) = banksOf s := rfl

theorem keptForce_twice (old new : AppImage) (f : Option Force) : keptForce old new (keptForce old new f) = keptForce old new f := by
  cases f with
  | none => rfl
  | some f =>
    unfold keptForce
    dsimp only [Option.bind_some]
    split
    next kept => exact if_pos kept
    next => rfl

theorem exchangeForce_at (old new : AppImage) (s : State) (i j : Fin 256) : Vec.at (exchangeForce old new s i).run.forces j =
    if j = i then keptForce old new (Vec.at s.run.forces j) else Vec.at s.run.forces j := by
  unfold exchangeForce
  split
  next none_ =>
    split
    next e => rw [e, none_]; rfl
    next => rfl
  next f found =>
    dsimp only
    split
    next kept =>
      split
      next e => rw [e, found]; exact (if_pos kept).symm
      next => rfl
    next dropped =>
      rw [note_run]
      split
      next e => rw [e, found]; exact (Vec.at_put_same _ _ _).trans (if_neg dropped).symm
      next ne => exact Vec.at_put_ne _ _ _ _ ne

theorem exchangeForce_foldl (old new : AppImage) (l : List (Fin 256)) (s : State) (j : Fin 256) :
    Vec.at (l.foldl (exchangeForce old new) s).run.forces j =
      if j ∈ l then keptForce old new (Vec.at s.run.forces j) else Vec.at s.run.forces j := by
  induction l generalizing s with
  | nil => rfl
  | cons i l ih =>
    rw [List.foldl_cons, ih, exchangeForce_at]
    by_cases first : j = i
    · rw [if_pos first, keptForce_twice, ite_self, if_pos (by rw [first]; exact List.mem_cons_self)]
    · rw [if_neg first]
      exact if_congr (by simp [first]) rfl rfl

theorem exchangeForces_at (old new : AppImage) (s : State) (j : Fin 256) :
    Vec.at (exchangeForces old new s).run.forces j = keptForce old new (Vec.at s.run.forces j) := by
  rw [exchangeForces_eq, refreshForceInd_run, exchangeForce_foldl, if_pos (List.mem_finRange j)]

theorem keptForce_iff (old new : AppImage) (f : Force) : keptForce old new (some f) = some f ↔
    ∃ k, (pointKey old f.point).map (fun x => x.1) = some k ∧ (pointKey new f.point).map (fun x => x.1) = some k := by
  have decides : keptForce old new (some f) = some f ↔
      (pointKey old f.point).map (fun x => x.1) = (pointKey new f.point).map (fun x => x.1) ∧ (pointKey old f.point).isSome = true := by
    unfold keptForce
    rw [Option.bind_some, ite_eq_left_iff, Bool.and_eq_true, beq_iff_eq]
    exact ⟨fun h => by_contra fun no => (by cases h no), fun h no => absurd h no⟩
  rw [decides]
  constructor
  · rintro ⟨same, some_⟩
    obtain ⟨x, found⟩ := Option.isSome_iff_exists.1 some_
    rw [found] at same ⊢
    exact ⟨x.1, rfl, same.symm⟩
  · rintro ⟨k, was, now⟩
    refine ⟨was.trans now.symm, ?_⟩
    cases found : pointKey old f.point with
    | none => rw [found] at was; cases was
    | some x => rfl

theorem banksOf_exchangeForce (old new : AppImage) (s : State) (i : Fin 256) : banksOf (exchangeForce old new s i) = banksOf s := by
  unfold exchangeForce
  split
  · rfl
  · dsimp only
    split
    · rfl
    · rw [banksOf_note]; rfl

theorem banksOf_exchangeForces (old new : AppImage) (s : State) : banksOf (exchangeForces old new s) = banksOf s := by
  rw [exchangeForces_eq]
  rw [banksOf_refreshForceInd, banksOf_foldl (banksOf_exchangeForce old new)]

/-- What of run control the exchange's blocks do not touch. -/
def exchangeView (s : State) : Banks × Vec (Option Force) 256 := (banksOf s, s.run.forces)

theorem exchangeView_of_but {W : Nat} {s t : State} (h : But W s t) (run : W.testBit 15 = false) (sched : W.testBit 14 = false) :
    exchangeView t = exchangeView s := by
  unfold exchangeView
  rw [banksOf_of_but h run sched, h .run run]

theorem exchangeView_exchangeStations (old new : AppImage) (s : State) : exchangeView (exchangeStations old new s) = exchangeView s :=
  foldl_proj exchangeView (fun s (c : StationCfg) => updStation c.number (fun _ => {}) s) (fun _ _ => rfl) _ s

theorem exchangeView_blocks (old new : AppImage) (s : State) : exchangeView (blocksExchanged old new s) = (⟨some new, some old, .valid, s.sched⟩, s.run.forces) := by
  have loops := foldl_proj exchangeView (exchangeLoop s old new)
    (fun u x => exchangeView_of_but (but_exchangeLoop (Within.self _) (.self _ u)) rfl rfl) new.loops (imagesExchanged old new s)
  have funcs : ∀ u, exchangeView (exchangeFuncs (funcCfgs s) u) = exchangeView u := fun u =>
    exchangeView_of_but (but_exchangeFuncs (Within.self _) (.self _ u)) rfl rfl
  unfold blocksExchanged
  rw [exchangeView_exchangeStations, funcs, loops]
  rfl

/-- The exchange gives the bank its new image and keeps every force whose key both images have. -/
theorem exchangeBanks_view (old new : AppImage) (s : State) :
    let t := exchangeBanks old new s
    banksOf t = ⟨some new, some old, .valid, s.sched⟩ ∧ (∀ i, Vec.at t.run.forces i = keptForce old new (Vec.at s.run.forces i)) ∧
      (hdrAt t .runControl).raw.getLsbD 4 = true ∧ t.pool = s.pool := by
  intro t
  have before : exchangeView (windowsExchanged old new (blocksExchanged old new s)) = (⟨some new, some old, .valid, s.sched⟩, s.run.forces) :=
    (exchangeView_of_but (but_windowsExchanged old new _) rfl rfl).trans (exchangeView_blocks old new s)
  obtain ⟨banks, forces⟩ := Prod.mk.inj before
  have ends := but_exchangeEnds (.panel :: (presentCrests (windowsExchanged old new (blocksExchanged old new s))).map .loopArray) s old new
    (exchangeForces old new (windowsExchanged old new (blocksExchanged old new s)))
  rw [← exchangeBanks_eq] at ends
  refine ⟨?_, fun i => ?_, ?_, but_exchangeBanks (Within.self _) (.self _ s) .pool rfl⟩
  · rw [banksOf_of_but ends rfl rfl, banksOf_exchangeForces, banks]
  · rw [show t.run = _ from ends .run rfl, exchangeForces_at, forces]
  · exact exchangeEnds_raises _ _ _ _ _

/-- An exchange that begins its frame: carried out, unless the boundary took the bank back. -/
theorem appExchange_begins {s : State} {old new : AppImage} (h : exchangeDue s = true) (fresh : s.sched.switched = false)
    (active : s.run.active = some old) (shadow : s.run.shadow = some new) :
    let t := appExchange s
    t.run.bank = .valid ∧ t.sched.frame = s.sched.frame + 1 ∧ t.sched.round = 0 ∧ t.sched.switched = true ∧
      (t.run.active = some new ∧ t.run.shadow = some old ∧ (hdrAt t .runControl).raw.getLsbD 4 = true ∨
        t.run.active = some old ∧ ¬ tilesSound s) := by
  obtain ⟨armed, position⟩ := exchangeDue_parts h
  obtain ⟨b, n, came, sound, banks⟩ := enterFrame_banks fresh (position fresh)
  have sched : (enterFrame s).sched = atNextFrame n b.sched := congrArg Banks.sched banks
  have app : (enterFrame s).run.bank = b.app := congrArg Banks.app banks
  have images : b.active = some old ∧ b.shadow = some new ∧ b.sched.frame = s.sched.frame := by
    obtain rfl | rfl := came
    · exact ⟨active, shadow, rfl⟩
    · refine ⟨active, shadow, ?_⟩
      unfold Banks.cancelled banksOf; dsimp only; split <;> rfl
  obtain ⟨activeB, shadowB, frame⟩ := images
  intro t
  by_cases still : (enterFrame s).run.bank = .armed
  · have eq : t = exchangeBanks old new (enterFrame s) :=
      appExchange_exchanges h still ((congrArg Banks.active banks).trans activeB) ((congrArg Banks.shadow banks).trans shadowB)
    obtain ⟨view, -, raw, -⟩ := exchangeBanks_view old new (enterFrame s)
    rw [← eq] at view raw
    have schedT : t.sched = atNextFrame n b.sched := (congrArg Banks.sched view).trans sched
    exact ⟨congrArg Banks.app view, by rw [schedT]; exact congrArg (· + 1) frame, by rw [schedT]; rfl, by rw [schedT]; rfl,
      .inl ⟨congrArg Banks.active view, congrArg Banks.shadow view, raw⟩⟩
  · have eq : t = enterFrame s := appExchange_stopped h still
    have stopped : b = (banksOf s).cancelled := came.resolve_left fun same => still (by rw [app, same]; exact armed)
    refine ⟨?_, by rw [eq, sched]; exact congrArg (· + 1) frame, by rw [eq, sched]; rfl, by rw [eq, sched]; rfl,
      .inr ⟨?_, fun whole => still (by rw [app, sound whole]; exact armed)⟩⟩
    · rw [eq, app, stopped]
      show unarmed s.run.bank = .valid
      rw [armed]; rfl
    · rw [eq]; exact (congrArg Banks.active banks).trans activeB

/-- An exchange at a frame that a swap has begun. -/
theorem appExchange_begun {s : State} {old new : AppImage} (h : exchangeDue s = true) (begun : s.sched.switched = true)
    (active : s.run.active = some old) (shadow : s.run.shadow = some new) : appExchange s = exchangeBanks old new s := by
  have exchanges := appExchange_exchanges (old := old) (new := new) h
  rw [enterFrame_begun begun] at exchanges
  exact exchanges (exchangeDue_parts h).1 active shadow

/-- Settles O17: the commit point by the verdicts on the two banks, the swap and the exchange by what the start of a frame leaves of them. -/
theorem commitPointAndSwap : Obligations.CommitPointAndSwap := by
  unfold Obligations.CommitPointAndSwap
  refine ⟨fun s last => ?_, fun s last phase passes => ?_, fun s last quiet => ?_, fun s idle => ?_, fun s due => ?_, fun s idle => ?_,
    fun s old new due active shadow => ?_, fun s old new due fresh active shadow sound => ?_, fun s old new due begun active shadow => ?_⟩
  · have plain : swapPasses s = false := Bool.eq_false_iff.2 fun passes => by rw [swapPasses_last passes] at last; cases last
    exact congrArg Host.Outcome.next ((commitPoint_plain (.inr plain)).trans (decideBanks_elsewhere last))
  · exact ⟨_, rfl, commitPoint_aborts last phase passes⟩
  · refine ⟨_, congrArg Host.Outcome.next (commitPoint_plain quiet), banksDecided_decideBanks last, restored_of_but (but_decided s)⟩
  · exact congrArg Host.Outcome.next (scheduleSwap_elsewhere idle)
  · obtain ⟨bank, frame, position, swaps⟩ := scheduleSwap_sched due
    refine ⟨_, rfl, bank, frame, position, swaps, fun begun => ?_⟩
    have eq : scheduleSwap s = swapBanks s := by
      have armed := scheduleSwap_swaps due
      rw [enterFrame_begun begun] at armed
      exact armed (swapDue_parts due).1
    rw [eq]
    exact (congrArg (fun x : State => { x with sched := (swapBanks s).sched }) (restored_of_but (but_swapBanks (Within.self _) (.self _ s))) :)
  · exact congrArg Host.Outcome.next (appExchange_elsewhere idle)
  · cases switched : s.sched.switched with
    | false =>
      obtain ⟨bank, frame, -, -, images⟩ := appExchange_begins due switched active shadow
      exact ⟨_, rfl, bank, images.imp (fun h => h.1) (fun h => h.1), frame⟩
    | true =>
      obtain ⟨view, -, -, -⟩ := exchangeBanks_view old new s
      exact ⟨_, congrArg Host.Outcome.next (appExchange_begun due switched active shadow), congrArg Banks.app view,
        .inl (congrArg Banks.active view), congrArg (fun b : Banks => b.sched.frame) view⟩
  · obtain ⟨bank, frame, round, switched, exchanged | ⟨-, unsound⟩⟩ := appExchange_begins due fresh active shadow
    · obtain ⟨activeT, shadowT, raw⟩ := exchanged
      exact ⟨_, rfl, activeT, shadowT, bank, raw, frame, round, switched⟩
    · exact absurd sound unsound
  · obtain ⟨view, forces, raw, pool⟩ := exchangeBanks_view old new s
    refine ⟨_, congrArg Host.Outcome.next (appExchange_begun due begun active shadow), congrArg Banks.active view, congrArg Banks.shadow view,
      congrArg Banks.app view, raw, pool, congrArg Banks.sched view, fun i f found => ?_⟩
    rw [forces, found]
    exact keptForce_iff old new f

end Sys2Proof.Machine

/-! Proofs about the slot: half changes, implied loads and unloads (R40, R71, R88). -/
namespace Sys2Proof.Machine
open Sys2Proof.Stmt

/-! ### Things taken in turn -/

theorem inTurn_foldl {α : Type} {R : α → State → State → Prop} {f : State → α → State} (h : ∀ s x, R x s (f s x)) (l : List α) (s : State) :
    inTurn R l s (l.foldl f s) := by
  induction l generalizing s with
  | nil => rfl
  | cons x l ih => exact ⟨f s x, h s x, ih _⟩

/-! ### A tile without its error words -/

/-- A tile without what it knows of the errors in its words. -/
def tileCore (t : Crest) : Crest :=
  { t with
    eccCorr := 0, eccUnc := 0, eccAddr := 0, badWords := [], softWords := [], badLoopWords := [], softLoopWords := [], failAtRoundEnd := false }

/-- The tiles are the same as far as `v` sees them. -/
def tilesKept {β : Type} (v : Crest → β) (s t : State) : Prop := ∀ c, v (Vec.at t.crests c) = v (Vec.at s.crests c)

theorem tilesKept_refl {β : Type} (v : Crest → β) (s : State) : tilesKept v s s := fun _ => rfl

theorem tilesKept_trans {β : Type} {v : Crest → β} {s t u : State} (h : tilesKept v s t) (k : tilesKept v t u) : tilesKept v s u :=
  fun c => (k c).trans (h c)

theorem tilesKept_of_crests {β : Type} {v : Crest → β} {s t : State} (h : t.crests = s.crests) : tilesKept v s t := fun c => by rw [h]

theorem tilesKept_updCrest {β : Type} {v : Crest → β} {f : Crest → Crest} (hf : ∀ x, v (f x) = v x) (c : Fin 6) (s : State) :
    tilesKept v s (updCrest c f s) := fun d => updCrest_proj v c f s d hf

theorem tilesKept_foldl {β α : Type} {v : Crest → β} {f : State → α → State} (h : ∀ s x, tilesKept v s (f s x)) (l : List α) (s : State) :
    tilesKept v s (l.foldl f s) :=
  fun c => foldl_proj (fun t : State => v (Vec.at t.crests c)) f (fun s x => h s x c) l s

theorem tilesKept_map {β : Type} {v : Crest → β} {s : State} {f : Crest → Crest} (hf : ∀ x, v (f x) = v x) :
    tilesKept v s { s with crests := s.crests.map f } :=
  fun c => (congrArg v (Vector.getElem_map f c.isLt)).trans (hf _)

/-- What is seen of a tile without its error words is kept where those alone have changed. -/
theorem tilesKept_of_core {β : Type} {v : Crest → β} {s t : State} (h : tilesKept tileCore s t) (hv : ∀ x, v (tileCore x) = v x) : tilesKept v s t :=
  fun c => (hv _).symm.trans ((congrArg v (h c)).trans (hv _))

theorem engineAt_of_core {s t : State} (h : tilesKept tileCore s t) (e : EngRef) : engineAt t e = engineAt s e := by
  have engines : (Vec.at t.crests e.crest).engines = (Vec.at s.crests e.crest).engines := (congrArg Crest.engines (h e.crest) :)
  unfold engineAt; rw [engines]

theorem engineAt_of_crests {s t : State} (h : t.crests = s.crests) (e : EngRef) : engineAt t e = engineAt s e := by unfold engineAt; rw [h]

theorem retired_of_core {s t : State} (h : tilesKept tileCore s t) (c : Fin 6) : (Vec.at t.crests c).retired = (Vec.at s.crests c).retired :=
  (congrArg Crest.retired (h c) :)

theorem coreKept_countUncorrectable (c : Fin 6) (w : Nat) (s : State) : tilesKept tileCore s (countUncorrectable c w s) := by
  unfold countUncorrectable
  exact tilesKept_trans (tilesKept_updCrest (by exact fun _ => rfl) c s) (tilesKept_of_crests (but_raiseUrgent (Within.self _) (.self _ _) .crests rfl))

/-- A scheduled read found one uncorrectable word. -/
def foundWord (s : State) (x : Fin 6 × Nat) : State := updCrest x.1 (fun t => { t with failAtRoundEnd := true }) (countUncorrectable x.1 x.2 s)

theorem foundBad_eq (bs : List (Fin 6 × Nat)) (s : State) : foundBad bs s = bs.foldl foundWord s := rfl

theorem coreKept_foundWord (s : State) (x : Fin 6 × Nat) : tilesKept tileCore s (foundWord s x) := by
  unfold foundWord
  exact tilesKept_trans (coreKept_countUncorrectable x.1 x.2 s) (tilesKept_updCrest (by exact fun _ => rfl) x.1 _)

theorem coreKept_foundBad (bs : List (Fin 6 × Nat)) (s : State) : tilesKept tileCore s (foundBad bs s) := by
  rw [foundBad_eq]
  exact tilesKept_foldl coreKept_foundWord bs s

theorem coreKept_countCorrected (c : Fin 6) (s : State) : tilesKept tileCore s (countCorrected c s) := by
  have counted : tilesKept tileCore s (bump (.engine c) 0x14 1 (updCrest c (fun t => { t with eccCorr := satInc t.eccCorr }) s)) :=
    tilesKept_trans (tilesKept_updCrest (by exact fun _ => rfl) c s) (tilesKept_of_crests (bump_crests _ _ _ _))
  unfold countCorrected
  dsimp only
  split
  · exact tilesKept_trans counted (tilesKept_of_crests (raise_crests _ _ _ _ _))
  · exact counted

theorem coreKept_correctWord (s : State) (x : Fin 6 × Nat) : tilesKept tileCore s (correctWord s x) := by
  unfold correctWord
  exact tilesKept_trans (tilesKept_updCrest (by exact fun _ => rfl) x.1 s) (coreKept_countCorrected x.1 _)

theorem coreKept_correctIn (a n : Nat) (s : State) : tilesKept tileCore s (correctIn a n s) := tilesKept_foldl coreKept_correctWord _ s

/-- A scheduled read changes of the tiles only what they know of errors. -/
theorem coreKept_scanSpan (a : Word) (n : Nat) (s : State) : tilesKept tileCore s (scanSpan a n s) := by
  have corrected : tilesKept tileCore s (if isPool a then correctIn a.toNat n s else (loopWordAt s a).elim s fun x => correctLoop x.1 (epOff a) n s) := by
    split
    · exact coreKept_correctIn _ _ s
    · cases loopWordAt s a with
      | none => exact tilesKept_refl _ s
      | some x =>
        show tilesKept tileCore s (correctLoop x.1 (epOff a) n s)
        unfold correctLoop
        exact tilesKept_updCrest (by exact fun _ => rfl) x.1 s
  exact tilesKept_trans corrected (coreKept_foundBad _ _)

theorem coreKept_poolPut (a : Nat) (d : List Byte) (s : State) : tilesKept tileCore s (poolPut a d s) := by
  unfold poolPut
  exact tilesKept_map (s := { s with pool := memWrite s.pool a d }) (by exact fun _ => rfl)

theorem coreKept_upset (s : State) (u : Upset) : tilesKept tileCore s (upset s u) := by
  unfold upset
  split
  · split
    · exact tilesKept_updCrest (by exact fun _ => rfl) _ s
    · exact tilesKept_refl _ s
  · split
    · exact tilesKept_updCrest (by exact fun _ => rfl) _ s
    · exact tilesKept_refl _ s

theorem coreKept_upsets (us : List Upset) (s : State) : tilesKept tileCore s (us.foldl upset s) := tilesKept_foldl coreKept_upset us s

/-! ### An engine takes its other half (R71) -/

theorem onlyEngine_updEngine (e : EngRef) (f : Engine → Engine) (s : State) : onlyEngine e s (updEngine e f s) :=
  ⟨rfl, crest_updEngine e f s, fun x hx => engineAt_upd_ne e x f s hx, fun _ => rfl, fun _ _ => rfl⟩

theorem startable_isSome {im : SchedImage} {e : EngRef} {h : Half} {s : State} : (startable im e h s).isSome = true ↔
    ∃ l x, logicalOf (Vec.at s.crests e.crest) e.eng = some l ∧ entryAt s im e.crest l s.sched.slot.toNat = some x ∧
      (Vec.at s.crests e.crest).retired.getLsbD e.eng.val = false ∧ stepOut s (descAt im x) = false ∧ h.desc = some (descAt im x) := by
  unfold startable
  dsimp only
  cases logicalOf (Vec.at s.crests e.crest) e.eng with
  | none => simp
  | some l =>
    rw [Option.bind_some]
    cases entry : entryAt s im e.crest l s.sched.slot.toNat with
    | none => simp [entry]
    | some x => simp [Option.isSome_filter, entry, and_assoc]

theorem takesHalf_takeHalf (im : SchedImage) (e : EngRef) (s : State) : takesHalf im e s (takeHalf im e.crest s e.eng) := by
  have starts := startable_isSome (im := im) (e := e) (h := idleHalf (engineAt s e)) (s := s)
  refine ⟨onlyEngine_updEngine e _ s, fun yes => ?_, fun no => ?_⟩
  · have takes := starts.2 yes
    refine (engineAt_upd e _ s).trans ?_
    rw [takes, Bool.xor_true]
  · have stays := Bool.eq_false_iff.2 (mt starts.1 no)
    refine (engineAt_upd e _ s).trans ?_
    rw [stays, Bool.xor_false]

/-! ### Implied unloads (R40, R88) -/

theorem lastHalf_updLast (f : Half → Half) (g : Engine) : lastHalf (updLast f g) = f (lastHalf g) := by
  unfold lastHalf updLast updIdle updHalf idleHalf curHalf
  cases g.taken <;> cases g.half <;> rfl

theorem getReg_updLast (f : Half → Half) (g : Engine) (r : Reg) : getReg (updLast f g) r = getReg g r := by
  unfold updLast updIdle updHalf getReg
  cases g.taken <;> cases g.half <;> rfl

/-- The engine after the unload of its step: the half that the step used holds none, and the engine knows the step. -/
def unloadedEngine (d : StepDesc) (g : Engine) : Engine := updLast (fun h => { h with desc := none, done := false }) { g with unloaded := some d }

theorem but_countedRoute (im : SchedImage) (i n : Nat) (s : State) : But 0x2 s (countRoute im i n s) := but_countRoute (Within.self _) (.self _ s)

/-- An implied unload of an engine in service, with what it writes. -/
theorem unloadStep_sound {im : SchedImage} {e : EngRef} {x : EngineStep} {s : State}
    (sound : (Vec.at s.crests e.crest).retired.getLsbD e.eng.val = false) :
    let d := descAt im x
    let h := lastHalf (engineAt s e)
    let u := updEngine e (unloadedEngine d) s
    unloadStep im e x s = if h.desc == some d && h.done && d.stateLen != 0 then
      countRoute im x.routeOut.toNat d.stateLen.toNat (poolPut d.stateOut.toNat (memRead h.mem 0x4000 (64 * d.stateLen.toNat)) u) else u := by
  intro d h u
  unfold unloadStep
  rw [sound, if_neg (by decide)]
  rfl

theorem unloadStep_retired {im : SchedImage} {e : EngRef} {x : EngineStep} {s : State}
    (retired : (Vec.at s.crests e.crest).retired.getLsbD e.eng.val = true) :
    unloadStep im e x s = abandonTask (descAt im x).tenant (descAt im x).task false s := by
  unfold unloadStep
  rw [retired, if_pos rfl]

theorem memRead_length (m : Memory) (a n : Nat) : (memRead m a n).length = n := by unfold memRead; rw [List.length_map, List.length_range]

theorem getD_memRead (m : Memory) (a n k : Nat) (h : k < n) : (memRead m a n).getD k 0 = memGet m (a + k) := by
  unfold memRead
  rw [List.getD_eq_getElem?_getD, List.getElem?_map, List.getElem?_range h]
  rfl

/-- Bytes of one memory copied into another. -/
theorem memGet_copy {m w : Memory} (wf : memWf m = true) (a b n k : Nat) (h : k < n) :
    memGet (memWrite m a (memRead w b n)) (a + k) = memGet w (b + k) := by
  rw [memGet_write a _ _ wf, memRead_length, if_pos ⟨by omega, by omega⟩, Nat.add_sub_cancel_left, getD_memRead w b n k h]

theorem unloadedStep_unloadStep (im : SchedImage) (e : EngRef) (x : EngineStep) (s : State) : unloadedStep im e x s (unloadStep im e x s) := by
  unfold unloadedStep
  intro d h n
  refine ⟨fun retired => ?_, fun sound => ?_⟩
  · rw [unloadStep_retired retired]
    exact ⟨abandonTask_abandons _ _ _ _, restored_of_but (but_abandonTask (Within.self _) (.self _ s))⟩
  · have eq := unloadStep_sound (im := im) (x := x) sound
    have engines : tilesKept tileCore (updEngine e (unloadedEngine d) s) (unloadStep im e x s) := by
      rw [eq]
      split
      · exact tilesKept_trans (coreKept_poolPut _ _ _) (tilesKept_of_crests (but_countedRoute _ _ _ _ .crests rfl))
      · exact tilesKept_refl _ _
    have at_ : engineAt (unloadStep im e x s) e = unloadedEngine d (engineAt s e) := by rw [engineAt_of_core engines, engineAt_upd]
    have frame : But 0x822 s (unloadStep im e x s) := by
      rw [eq]
      exact but_ite (but_countRoute ((Within.self _).le rfl) (but_poolPut ((Within.self _).le rfl) (but_updEngine ((Within.self _).le rfl) (.self _ s))))
        (but_updEngine ((Within.self _).le rfl) (.self _ s))
    refine ⟨restored_of_but frame, ?_, fun r => ?_, fun y ne => ?_, fun no => ?_, fun desc done len wf => ?_⟩
    · rw [at_]
      exact lastHalf_updLast _ _
    · rw [at_]
      exact getReg_updLast _ _ r
    · rw [engineAt_of_core engines, engineAt_upd_ne _ _ _ _ ne]
    · have off : ¬ ((lastHalf (engineAt s e)).desc == some d && (lastHalf (engineAt s e)).done && d.stateLen != 0) = true := by
        have no_ : ¬ ((lastHalf (engineAt s e)).desc = some d ∧ (lastHalf (engineAt s e)).done = true ∧ d.stateLen ≠ 0) := no
        simpa [and_assoc] using no_
      rw [eq, if_neg off]
      rfl
    · have on : ((lastHalf (engineAt s e)).desc == some d && (lastHalf (engineAt s e)).done && d.stateLen != 0) = true := by
        have yes : (lastHalf (engineAt s e)).desc = some d ∧ (lastHalf (engineAt s e)).done = true ∧ d.stateLen ≠ 0 := ⟨desc, done, len⟩
        simpa [and_assoc] using yes
      have pool : (unloadStep im e x s).pool = memWrite s.pool d.stateOut.toNat (memRead h.mem 0x4000 n) := by
        rw [eq, if_pos on, show (countRoute _ _ _ _).pool = _ from but_countedRoute _ _ _ _ .pool rfl]
        rfl
      rw [pool]
      refine ⟨fun k hk => memGet_copy wf _ _ _ _ hk, ?_⟩
      have out := sameOutside_write d.stateOut.toNat (memRead h.mem 0x4000 n) wf
      rwa [memRead_length] at out

/-! ### Implied loads (R40, R95, R96, R169) -/

theorem idleHalf_updIdle (f : Half → Half) (g : Engine) : idleHalf (updIdle f g) = f (idleHalf g) := by
  unfold idleHalf updIdle; cases g.half <;> rfl

theorem updIdle_x (f : Half → Half) (g : Engine) : (updIdle f g).x = g.x := by unfold updIdle; cases g.half <;> rfl

theorem updIdle_run (f : Half → Half) (g : Engine) : (updIdle f g).run = g.run := by unfold updIdle; cases g.half <;> rfl

theorem spanBad_of_crests {s t : State} (part : t.part = s.part) (crests : t.crests = s.crests) (a : Word) (n : Nat) : spanBad t a n = spanBad s a n := by
  unfold spanBad badIn loopBad loopWordAt presentCrests
  rw [part, crests]

/-- The task of the step, abandoned where it is under repair without its repair. -/
def repairAwaited (d : StepDesc) (s : State) : State :=
  if (taskRt s d.tenant d.task).repair && !(taskRt s d.tenant d.task).repaired then abandonTask d.tenant d.task false s else s

/-- The code and the state of a step are read and travel to its engine. -/
def stepRead (im : SchedImage) (x : EngineStep) (d : StepDesc) (s : State) : State :=
  let s := scanSpan d.stateIn (64 * d.stateLen.toNat) (scanSpan d.codeAddr (64 * d.codeLen.toNat) s)
  let s := countRoute im x.routeCode.toNat d.codeLen.toNat s
  if d.stateLen = 0 then s else countRoute im x.routeIn.toNat d.stateLen.toNat s

/-- A half that holds a step as the pool has it. -/
def halfOf (d : StepDesc) (pool : Memory) : Half :=
  { mem := memWrite (memWrite [] 0 (memRead pool d.codeAddr.toNat (64 * d.codeLen.toNat))) 0x4000 (memRead pool d.stateIn.toNat (64 * d.stateLen.toNat))
    codeLen := d.codeLen, stateLen := d.stateLen, desc := some d, done := false }

/-- Is a flit of the step's code or state poisoned? -/
def stepPoisoned (d : StepDesc) (s : State) : Bool :=
  !(spanBad s d.codeAddr (64 * d.codeLen.toNat)).isEmpty || !(spanBad s d.stateIn (64 * d.stateLen.toNat)).isEmpty

theorem loadStep_retired {im : SchedImage} {e : EngRef} {x : EngineStep} {s : State}
    (retired : (Vec.at s.crests e.crest).retired.getLsbD e.eng.val = true) : loadStep im e x s = s := by
  unfold loadStep
  rw [retired, if_pos rfl]

/-- The engine holds the step that it has loaded. -/
def stepHeld (im : SchedImage) (e : EngRef) (x : EngineStep) (d : StepDesc) (s : State) : State :=
  updEngine e (updIdle fun _ => halfOf d s.pool) (stepRead im x d s)

theorem loadStep_sound {im : SchedImage} {e : EngRef} {x : EngineStep} {s : State}
    (sound : (Vec.at s.crests e.crest).retired.getLsbD e.eng.val = false) :
    let d := descAt im x
    let u := stepHeld im e x d (repairAwaited d s)
    loadStep im e x s = if stepPoisoned d (repairAwaited d s) then engineX e xPoison 0 0 (some d) 0 u else u := by
  intro d u
  unfold loadStep
  rw [sound, if_neg (by decide)]
  rfl

theorem but_repairAwaited (d : StepDesc) (s : State) : But 0x8002 s (repairAwaited d s) := by
  unfold repairAwaited
  exact but_ite (but_abandonTask (Within.self _) (.self _ s)) ((But.self 0x8002 s))

theorem repairAwaited_abandons {d : StepDesc} {s : State} (repair : (taskRt s d.tenant d.task).repair = true)
    (missing : (taskRt s d.tenant d.task).repaired = false) : (taskRt (repairAwaited d s) d.tenant d.task).abandoned = true := by
  unfold repairAwaited
  rw [repair, missing, if_pos (by decide)]
  exact abandonTask_abandons _ _ _ _

theorem but_stepRead (im : SchedImage) (x : EngineStep) (d : StepDesc) (s : State) : But 0x4004800022 s (stepRead im x d s) := by
  unfold stepRead
  have scans : But 0x4004800022 s (countRoute im x.routeCode.toNat d.codeLen.toNat
      (scanSpan d.stateIn (64 * d.stateLen.toNat) (scanSpan d.codeAddr (64 * d.codeLen.toNat) s))) :=
    but_countRoute ((Within.self _).le rfl) (but_scanSpan (Within.self _) (but_scanSpan (Within.self _) (.self _ s)))
  exact but_ite scans (but_countRoute ((Within.self _).le rfl) scans)

theorem coreKept_countRoute (im : SchedImage) (i n : Nat) (s : State) : tilesKept tileCore s (countRoute im i n s) :=
  tilesKept_of_crests (but_countedRoute im i n s .crests rfl)

theorem coreKept_stepRead (im : SchedImage) (x : EngineStep) (d : StepDesc) (s : State) : tilesKept tileCore s (stepRead im x d s) := by
  have scans : tilesKept tileCore s (countRoute im x.routeCode.toNat d.codeLen.toNat
      (scanSpan d.stateIn (64 * d.stateLen.toNat) (scanSpan d.codeAddr (64 * d.codeLen.toNat) s))) :=
    tilesKept_trans (tilesKept_trans (coreKept_scanSpan _ _ s) (coreKept_scanSpan _ _ _)) (coreKept_countRoute _ _ _ _)
  unfold stepRead
  dsimp only
  split
  · exact scans
  · exact tilesKept_trans scans (coreKept_countRoute _ _ _ _)

theorem memGet_halfOf_code {d : StepDesc} (pool : Memory) (fits : 64 * d.codeLen.toNat ≤ 0x4000) {k : Nat} (hk : k < 64 * d.codeLen.toNat) :
    memGet (halfOf d pool).mem k = memGet pool (d.codeAddr.toNat + k) := by
  have first := memGet_copy (m := []) (w := pool) rfl 0 d.codeAddr.toNat (64 * d.codeLen.toNat) k hk
  rw [Nat.zero_add] at first
  unfold halfOf
  rw [memGet_write _ _ _ (memWf_write _ _ rfl), if_neg (by omega), first]

theorem memGet_halfOf_state {d : StepDesc} (pool : Memory) {k : Nat} (hk : k < 64 * d.stateLen.toNat) :
    memGet (halfOf d pool).mem (0x4000 + k) = memGet pool (d.stateIn.toNat + k) :=
  memGet_copy (memWf_write _ _ rfl) _ _ _ _ hk

theorem stepHeld_engine (im : SchedImage) (e : EngRef) (x : EngineStep) (d : StepDesc) (s : State) :
    engineAt (stepHeld im e x d s) e = updIdle (fun _ => halfOf d s.pool) (engineAt s e) := by
  unfold stepHeld
  rw [engineAt_upd, engineAt_of_core (coreKept_stepRead im x d s)]

theorem stepHeld_others {im : SchedImage} {e y : EngRef} (ne : y ≠ e) (x : EngineStep) (d : StepDesc) (s : State) :
    engineAt (stepHeld im e x d s) y = engineAt s y := by
  unfold stepHeld
  rw [engineAt_upd_ne _ _ _ _ ne, engineAt_of_core (coreKept_stepRead im x d s)]

theorem but_stepHeld (im : SchedImage) (e : EngRef) (x : EngineStep) (d : StepDesc) (s : State) : But 0x4004800022 s (stepHeld im e x d s) := by
  unfold stepHeld
  exact but_updEngine ((Within.self _).le rfl) (but_stepRead im x d s)

/-- What a load leaves whether or not it met poison. -/
theorem loadStep_engine {im : SchedImage} {e : EngRef} {x : EngineStep} {s : State}
    (sound : (Vec.at s.crests e.crest).retired.getLsbD e.eng.val = false) :
    let d := descAt im x
    let t := loadStep im e x s
    otherHalf (engineAt t e) = halfOf d s.pool ∧ (∀ y, y ≠ e → engineAt t y = engineAt s y) ∧
      (stepPoisoned d s = true → (engineAt t e).x.cause = 9 ∧ (hdrAt t (.engine e.crest)).raw.getLsbD 0 = true ∧
        (taskRt t d.tenant d.task).abandoned = true) ∧
      (stepPoisoned d s = false → (engineAt t e).x = (engineAt s e).x ∧ (engineAt t e).run = (engineAt s e).run ∧
        t.run = (repairAwaited d s).run) := by
  intro d t
  have awaited := but_repairAwaited d s
  have pool : (repairAwaited d s).pool = s.pool := awaited .pool rfl
  have engine : ∀ y, engineAt (repairAwaited d s) y = engineAt s y := engineAt_of_crests (awaited .crests rfl)
  have poison : stepPoisoned d (repairAwaited d s) = stepPoisoned d s := by
    unfold stepPoisoned
    rw [spanBad_of_crests (awaited .part rfl) (awaited .crests rfl), spanBad_of_crests (awaited .part rfl) (awaited .crests rfl)]
  have held := stepHeld_engine im e x d (repairAwaited d s)
  rw [pool, engine] at held
  have eq : t = _ := loadStep_sound (im := im) (x := x) sound
  rw [poison] at eq
  cases poisoned : stepPoisoned d s with
  | true =>
    rw [poisoned, if_pos rfl] at eq
    obtain ⟨own, others, raw, task, -⟩ := engineX_spec e xPoison 0 0 (some d) 0 (stepHeld im e x d (repairAwaited d s))
    rw [← eq] at own others raw task
    refine ⟨?_, fun y ne => ?_, fun _ => ⟨by rw [own]; rfl, raw, task d rfl⟩, fun other => absurd other (by decide)⟩
    · have half : otherHalf (engineAt t e) = idleHalf (engineAt (stepHeld im e x d (repairAwaited d s)) e) := by rw [own]; rfl
      rw [half, held, idleHalf_updIdle]
    · rw [others y ne, stepHeld_others ne, engine]
  | false =>
    rw [poisoned, if_neg (by decide)] at eq
    rw [eq, held]
    refine ⟨idleHalf_updIdle _ _, fun y ne => by rw [stepHeld_others ne, engine], fun other => absurd other (by decide),
      fun _ => ⟨updIdle_x _ _, updIdle_run _ _, but_stepHeld _ _ _ _ _ .run rfl⟩⟩

theorem stepPoisoned_iff (d : StepDesc) (s : State) : stepPoisoned d s = true ↔
    spanBad s d.codeAddr (64 * d.codeLen.toNat) ≠ [] ∨ spanBad s d.stateIn (64 * d.stateLen.toNat) ≠ [] := by
  unfold stepPoisoned; simp

theorem loadedStep_loadStep (im : SchedImage) (e : EngRef) (x : EngineStep) (s : State) : loadedStep im e x s (loadStep im e x s) := by
  unfold loadedStep
  intro d n m h poisoned
  refine ⟨fun retired => loadStep_retired retired, fun sound => ?_⟩
  obtain ⟨half, others, poison, clean⟩ := loadStep_engine (im := im) (x := x) sound
  have half_ : h = halfOf d s.pool := half
  have frame : But 0x4004808022 s (loadStep im e x s) := but_loadStep (Within.self _) (.self _ s)
  rw [half_]
  refine ⟨rfl, rfl, rfl, rfl, frame .pool rfl, fun fits k hk => memGet_halfOf_code s.pool fits hk, fun k hk => memGet_halfOf_state s.pool hk,
    fun repair missing => ?_, fun bad => poison ((stepPoisoned_iff d s).2 bad), fun good => ?_, others, restored_of_but frame⟩
  · cases bad : stepPoisoned d s with
    | true => exact (poison bad).2.2
    | false =>
      have run := (clean bad).2.2
      have same : taskRt (loadStep im e x s) d.tenant d.task = taskRt (repairAwaited d s) d.tenant d.task := by unfold taskRt; rw [run]
      rw [same]
      exact repairAwaited_abandons repair missing
  · have bad : stepPoisoned d s = false := Bool.eq_false_iff.2 fun yes => good ((stepPoisoned_iff d s).1 yes)
    exact ⟨(clean bad).1, (clean bad).2.1⟩

/-! ### The implied moves of a step entry (R40) -/

theorem crest?_some {n : Nat} {c : Fin 6} (h : n = c.val) : crest? n = some c := by
  unfold crest?
  rw [dif_pos (by omega)]
  exact congrArg some (Fin.ext h)

theorem crest?_eq_some {n : Nat} {c : Fin 6} (h : crest? n = some c) : n = c.val := by
  unfold crest? at h
  split at h
  · cases h; rfl
  · cases h

/-- Does physical engine `i` of tile `c` run the step of an entry in this round? -/
def runsOn (x : EngineStep) (s : State) (c : Fin 6) (i : Fin 18) : Prop :=
  x.crest.toNat = c.val ∧ crestLive s c = true ∧ timingActive x.t s.sched.round = true ∧ physicalOf (Vec.at s.crests c) x.logical = some i

theorem impliedTransfers_on {im : SchedImage} {x : EngineStep} {s : State} {c : Fin 6} {i : Fin 18} (h : runsOn x s c i) :
    impliedTransfers im s x = if x.t.slot.toNat + 1 = s.sched.slot.toNat then unloadStep im ⟨c, i⟩ x s
      else if x.t.slot.toNat = s.sched.slot.toNat + 1 then loadStep im ⟨c, i⟩ x s else s := by
  obtain ⟨tile, live, active, engine⟩ := h
  unfold impliedTransfers
  rw [crest?_some tile]
  dsimp only
  rw [live, active, if_pos (by decide), engine]

theorem impliedTransfers_nowhere {im : SchedImage} {x : EngineStep} {s : State} (h : ∀ c i, ¬ runsOn x s c i) : impliedTransfers im s x = s := by
  unfold impliedTransfers
  split
  · rfl
  next c tile =>
    split
    · rfl
    next i engine =>
      split at engine
      next on =>
        rw [Bool.and_eq_true] at on
        exact absurd ⟨crest?_eq_some tile, on.1, on.2, engine⟩ (h c i)
      next => cases engine

theorem impliedMoves_impliedTransfers (im : SchedImage) (s : State) (x : EngineStep) : impliedMoves im x s (impliedTransfers im s x) := by
  refine ⟨fun c i runs => ?_, fun none_ => impliedTransfers_nowhere none_⟩
  rw [impliedTransfers_on runs]
  refine ⟨fun before => ?_, fun next_ => ?_, fun notBefore notNext => ?_⟩
  · rw [if_pos before]
    exact unloadedStep_unloadStep im ⟨c, i⟩ x s
  · rw [if_neg (by omega), if_pos next_]
    exact loadedStep_loadStep im ⟨c, i⟩ x s
  · rw [if_neg notBefore, if_neg notNext]

end Sys2Proof.Machine

/-! Proofs about scheduled transfers (R43, R105, R106, R134). -/
namespace Sys2Proof.Machine
open Sys2Proof.Stmt

/-! ### Scheduled writes -/

theorem saddleFlit_length (s : State) (off : Nat) : (saddleFlit s off).length = 64 := by
  unfold saddleFlit
  split_ifs <;> simp only [memRead_length, List.length_replicate]

theorem crestFlit_length (s : State) (c : Fin 6) (off : Nat) : (crestFlit s c off).length = 64 := by
  unfold crestFlit
  dsimp only
  split_ifs <;> exact memRead_length _ _ _

theorem readFlit_length (s : State) (a : Word) : (readFlit s a).length = 64 := by
  unfold readFlit
  split
  · exact memRead_length _ _ _
  · split
    · exact saddleFlit_length _ _
    · split
      · exact crestFlit_length _ _ _
      · exact memRead_length _ _ _

theorem writeSpan_pool {a : Word} (h : isPool a = true) (d : List Byte) (s : State) : writeSpan a d s = poolPut a.toNat d s := if_pos h

theorem writeSpan_flit {a : Word} (h : isPool a = false) {d : List Byte} (len : d.length = 64) (s : State) : writeSpan a d s = putFlit a d s := by
  unfold writeSpan
  rw [if_neg (by rw [h]; decide), len]
  show putFlit (a + BitVec.ofNat 32 0) ((d.drop 0).take 64) s = _
  rw [List.drop_zero, List.take_of_length_le (by omega)]
  exact congrArg (putFlit · d s) (BitVec.add_zero a)

theorem putFlit_staged {a : Word} (h : endsWithSlot a = true) (d : List Byte) (s : State) : putFlit a d s = { s with staged := s.staged ++ [(a, d)] } :=
  if_pos h

theorem putFlit_now {a : Word} (h : endsWithSlot a = false) (d : List Byte) (s : State) : putFlit a d s = writeFlit a d s :=
  if_neg (by rw [h]; decide)

/-- What a flit at an endpoint address reads and changes of the field, the panel and the stations. -/
def ioView (s : State) : Field × Panel × Vec StationRt 256 × Vec PdState 8 := (s.field, s.panel, s.run.stations, s.super.pd)

theorem ioView_of_but {W : Nat} {s t : State} (h : But W s t) (field : W.testBit 18 = false) (panel : W.testBit 19 = false)
    (run : W.testBit 15 = false) (super : W.testBit 23 = false) : ioView t = ioView s := by
  unfold ioView
  rw [h .field field, h .panel panel, h .run run, h .super super]

theorem ioView_writeSaddle {s t : State} (h : ioView s = ioView t) (off : Nat) (d : List Byte) :
    ioView (writeSaddle off d s) = ioView (writeSaddle off d t) := by
  obtain ⟨field, panel, stations, pd⟩ : s.field = t.field ∧ s.panel = t.panel ∧ s.run.stations = t.run.stations ∧ s.super.pd = t.super.pd := by
    simpa [ioView] using h
  unfold writeSaddle
  split
  · unfold ioView updStation updRun
    dsimp only
    rw [field, panel, stations, pd]
  · split
    · exact h
    · exact h

theorem ioView_writeFieldFlit {s t : State} (h : ioView s = ioView t) (off : Nat) (d : List Byte) :
    ioView (writeFieldFlit off d s) = ioView (writeFieldFlit off d t) := by
  obtain ⟨field, panel, stations, pd⟩ : s.field = t.field ∧ s.panel = t.panel ∧ s.run.stations = t.run.stations ∧ s.super.pd = t.super.pd := by
    simpa [ioView] using h
  have reach_ : fieldReachable s = fieldReachable t := by unfold fieldReachable; rw [field, pd]
  have changes : ∀ f : Field → Field, ioView (updField f s) = ioView (updField f t) := fun f => by
    unfold ioView updField
    dsimp only
    rw [field, panel, stations, pd]
  unfold writeFieldFlit
  rw [reach_]
  split
  · exact h
  · split
    · exact changes _
    · split
      · exact changes _
      · split
        · exact changes _
        · exact h

theorem ioView_writePanelFlit {s t : State} (h : ioView s = ioView t) (off : Nat) (d : List Byte) :
    ioView (writePanelFlit off d s) = ioView (writePanelFlit off d t) := by
  obtain ⟨field, panel, stations, pd⟩ : s.field = t.field ∧ s.panel = t.panel ∧ s.run.stations = t.run.stations ∧ s.super.pd = t.super.pd := by
    simpa [ioView] using h
  have reach_ : fieldReachable s = fieldReachable t := by unfold fieldReachable; rw [field, pd]
  unfold writePanelFlit
  rw [reach_]
  split
  · exact h
  · unfold ioView updPanel
    dsimp only
    rw [field, panel, stations, pd]

/-- A flit changes the field, the panel and the stations alike in states that agree on them. -/
theorem ioView_writeFlit {s t : State} (h : ioView s = ioView t) (a : Word) (d : List Byte) :
    ioView (writeFlit a d s) = ioView (writeFlit a d t) := by
  unfold writeFlit
  dsimp only
  split
  · exact ioView_writeSaddle h _ d
  · split
    · exact h
    · split
      · exact ioView_writeFieldFlit h _ d
      · exact ioView_writePanelFlit h _ d

/-! ### The parts of a move -/

/-- The source and the destination of flit `k`. -/
def srcOf (e : Transfer) (k : Nat) : Word := e.src + BitVec.ofNat 32 (64 * k)
def dstOf (e : Transfer) (k : Nat) : Word := e.dst + BitVec.ofNat 32 (64 * k)

/-- The flits of a transfer that carry no poison. -/
def goodFlits (s : State) (e : Transfer) : List Nat := (List.range e.len.toNat).filter fun k => flitGood s e.src k

/-- What precedes the flits of a move: they travel, their words are read, and what a commit transfer replaces is kept. -/
def moveBegins (im : SchedImage) (e : Transfer) (s : State) : State :=
  let t := scanSpan e.src (64 * e.len.toNat) (countRoute im e.route.toNat e.len.toNat s)
  if isCommit s e then updRun (fun r => { r with undo := (e.dst.toNat, memRead s.pool e.dst.toNat (64 * e.len.toNat)) :: r.undo }) t else t

theorem moveFlits_eq (im : SchedImage) (e : Transfer) (s : State) :
    moveFlits im e s = (List.range e.len.toNat).foldl (moveFlit s e) (moveBegins im e s) := rfl

theorem moveFlit_poisoned {was : State} {e : Transfer} {k : Nat} (h : flitGood was e.src k = false) (s : State) : moveFlit was e s k = s := by
  unfold moveFlit; rw [h]; rfl

/-- A donor forwards what a transfer has written. -/
def forwardsOn (was : State) (e : Transfer) (k : Nat) (s : State) : State :=
  if forwards was e then forwardBytes (dstOf e k) (readFlit was (srcOf e k)) s else s

theorem moveFlit_good {was : State} {e : Transfer} {k : Nat} (h : flitGood was e.src k = true) (s : State) :
    moveFlit was e s k = forwardsOn was e k (writeSpan (dstOf e k) (readFlit was (srcOf e k)) s) := by
  unfold moveFlit; rw [h]; rfl

theorem but_forwardsOn (was : State) (e : Transfer) (k : Nat) (s : State) : But 0x2000110002 s (forwardsOn was e k s) := by
  unfold forwardsOn
  exact but_ite (but_forwardBytes (Within.self _) (.self _ s)) (.self _ s)

/-- One flit without poison moves. -/
def moveGood (was : State) (e : Transfer) (s : State) (k : Nat) : State :=
  forwardsOn was e k (writeSpan (dstOf e k) (readFlit was (srcOf e k)) s)

theorem moveFlits_good (im : SchedImage) (e : Transfer) (s : State) :
    moveFlits im e s = (goodFlits s e).foldl (moveGood s e) (moveBegins im e s) := by
  have step : moveFlit s e = fun u k => if flitGood s e.src k then moveGood s e u k else u := by
    funext u k
    cases good : flitGood s e.src k
    · exact moveFlit_poisoned good u
    · exact moveFlit_good good u
  rw [moveFlits_eq, goodFlits, List.foldl_filter, step]

theorem mem_goodFlits {s : State} {e : Transfer} {k : Nat} : k ∈ goodFlits s e ↔ k < e.len.toNat ∧ flitGood s e.src k = true := by
  unfold goodFlits; rw [List.mem_filter, List.mem_range]

theorem moveGood_pool {was : State} {e : Transfer} {k : Nat} (h : isPool (dstOf e k) = true) (s : State) :
    (moveGood was e s k).pool = memWrite s.pool (dstOf e k).toNat (readFlit was (srcOf e k)) ∧ (moveGood was e s k).staged = s.staged := by
  have same := but_forwardsOn was e k (writeSpan (dstOf e k) (readFlit was (srcOf e k)) s)
  unfold moveGood
  rw [show (forwardsOn was e k _).pool = _ from same .pool rfl, show (forwardsOn was e k _).staged = _ from same .staged rfl, writeSpan_pool h]
  exact ⟨rfl, rfl⟩

theorem moveGood_endpoint {was : State} {e : Transfer} {k : Nat} (h : isPool (dstOf e k) = false) (s : State) :
    moveGood was e s k = forwardsOn was e k (putFlit (dstOf e k) (readFlit was (srcOf e k)) s) := by
  unfold moveGood; rw [writeSpan_flit h (readFlit_length _ _)]

theorem moveGood_endpoint_pool {was : State} {e : Transfer} {k : Nat} (h : isPool (dstOf e k) = false) (s : State) :
    (moveGood was e s k).pool = s.pool := by
  rw [moveGood_endpoint h, show (forwardsOn was e k _).pool = _ from but_forwardsOn _ _ _ _ .pool rfl]
  exact but_putFlit (Within.self _) (.self _ s) .pool rfl

theorem moveGood_staged {was : State} {e : Transfer} {k : Nat} (h : isPool (dstOf e k) = false) (late : endsWithSlot (dstOf e k) = true) (s : State) :
    (moveGood was e s k).staged = s.staged ++ [(dstOf e k, readFlit was (srcOf e k))] := by
  rw [moveGood_endpoint h, show (forwardsOn was e k _).staged = _ from but_forwardsOn _ _ _ _ .staged rfl, putFlit_staged late]

theorem moveGood_now {was : State} {e : Transfer} {k : Nat} (h : isPool (dstOf e k) = false) (now : endsWithSlot (dstOf e k) = false) (s : State) :
    (moveGood was e s k).staged = s.staged ∧ ioView (moveGood was e s k) = ioView (writeFlit (dstOf e k) (readFlit was (srcOf e k)) s) := by
  rw [moveGood_endpoint h, putFlit_now now]
  refine ⟨?_, ioView_of_but (but_forwardsOn _ _ _ _) rfl rfl rfl rfl⟩
  rw [show (forwardsOn was e k _).staged = _ from but_forwardsOn _ _ _ _ .staged rfl]
  exact but_writeFlit (Within.self _) (.self _ s) .staged rfl

theorem undo_writeFlit (a : Word) (d : List Byte) (s : State) : (writeFlit a d s).run.undo = s.run.undo := by
  have field : ∀ off, (writeFieldFlit off d s).run = s.run := fun off => but_writeFieldFlit (Within.self _) (.self _ s) .run rfl
  have panel : ∀ off, (writePanelFlit off d s).run = s.run := fun off => but_writePanelFlit (Within.self _) (.self _ s) .run rfl
  unfold writeFlit writeSaddle
  dsimp only
  split
  · split
    · rfl
    · split <;> rfl
  · split
    · rfl
    · split
      · rw [field]
      · rw [panel]

theorem undo_putFlit (a : Word) (d : List Byte) (s : State) : (putFlit a d s).run.undo = s.run.undo := by
  cases late : endsWithSlot a
  · rw [putFlit_now late, undo_writeFlit]
  · rw [putFlit_staged late]

theorem undo_moveGood (was : State) (e : Transfer) (s : State) (k : Nat) : (moveGood was e s k).run.undo = s.run.undo := by
  have same : ∀ u, (forwardsOn was e k u).run = u.run := fun u => but_forwardsOn was e k u .run rfl
  cases pool : isPool (dstOf e k) with
  | true => unfold moveGood; rw [same, writeSpan_pool pool]; rfl
  | false => rw [moveGood_endpoint pool, same, undo_putFlit]

/-! ### The flits of a move in turn -/

/-- Flits to the pool: each lies where its place is, and every other byte is as it was. -/
theorem pool_moveGoods {was : State} {e : Transfer} {N : Nat} (fits : e.dst.toNat + 64 * N ≤ 0x3000000) (l : List Nat)
    (below : ∀ k ∈ l, k < N) (s : State) (wf : memWf s.pool = true) :
    (l.foldl (moveGood was e) s).staged = s.staged ∧
      ∀ x, memGet (l.foldl (moveGood was e) s).pool x = if ∃ k ∈ l, e.dst.toNat + 64 * k ≤ x ∧ x < e.dst.toNat + 64 * k + 64 then
        (readFlit was (srcOf e ((x - e.dst.toNat) / 64))).getD ((x - e.dst.toNat) % 64) 0 else memGet s.pool x := by
  induction l generalizing s with
  | nil => exact ⟨rfl, fun x => (if_neg (by simp)).symm⟩
  | cons k l ih =>
    have lt := below k List.mem_cons_self
    have place : (dstOf e k).toNat = e.dst.toNat + 64 * k := by
      unfold dstOf
      rw [BitVec.toNat_add, BitVec.toNat_ofNat]
      omega
    have inPool : isPool (dstOf e k) = true := by
      unfold isPool
      rw [Bool.not_eq_true', BitVec.getLsbD, place, Nat.testBit_lt_two_pow (by omega)]
    obtain ⟨pool, staged⟩ := moveGood_pool (was := was) inPool s
    obtain ⟨stagedL, bytes⟩ := ih (fun j hj => below j (List.mem_cons_of_mem _ hj)) (moveGood was e s k)
      (by rw [pool]; exact memWf_write _ _ wf)
    refine ⟨stagedL.trans staged, fun x => ?_⟩
    rw [List.foldl_cons, bytes, pool, memGet_write _ _ _ wf, readFlit_length, place]
    by_cases later : ∃ j ∈ l, e.dst.toNat + 64 * j ≤ x ∧ x < e.dst.toNat + 64 * j + 64
    · rw [if_pos later, if_pos]
      obtain ⟨j, hj, at_⟩ := later
      exact ⟨j, List.mem_cons_of_mem _ hj, at_⟩
    · rw [if_neg later]
      by_cases here : e.dst.toNat + 64 * k ≤ x ∧ x < e.dst.toNat + 64 * k + 64
      · rw [if_pos here, if_pos ⟨k, List.mem_cons_self, here⟩, show (x - e.dst.toNat) / 64 = k by omega,
          show (x - e.dst.toNat) % 64 = x - (e.dst.toNat + 64 * k) by omega]
      · rw [if_neg here, if_neg]
        rintro ⟨j, hj, at_⟩
        obtain rfl | hj := List.mem_cons.1 hj
        · exact here at_
        · exact later ⟨j, hj, at_⟩

theorem pool_moveGoods_endpoint {was : State} {e : Transfer} {l : List Nat} (h : ∀ k ∈ l, isPool (dstOf e k) = false) (s : State) :
    (l.foldl (moveGood was e) s).pool = s.pool := by
  induction l generalizing s with
  | nil => rfl
  | cons k l ih =>
    rw [List.foldl_cons, ih (fun j hj => h j (List.mem_cons_of_mem _ hj)), moveGood_endpoint_pool (h k List.mem_cons_self)]

theorem staged_moveGoods {was : State} {e : Transfer} {l : List Nat} (h : ∀ k ∈ l, isPool (dstOf e k) = false ∧ endsWithSlot (dstOf e k) = true)
    (s : State) : (l.foldl (moveGood was e) s).staged = s.staged ++ l.map fun k => (dstOf e k, readFlit was (srcOf e k)) := by
  induction l generalizing s with
  | nil => exact (List.append_nil _).symm
  | cons k l ih =>
    obtain ⟨endpoint, late⟩ := h k List.mem_cons_self
    rw [List.foldl_cons, ih (fun j hj => h j (List.mem_cons_of_mem _ hj)), moveGood_staged endpoint late, List.append_assoc]
    rfl

theorem now_moveGoods {was : State} {e : Transfer} {l : List Nat} (h : ∀ k ∈ l, isPool (dstOf e k) = false ∧ endsWithSlot (dstOf e k) = false)
    {s t : State} (same : ioView s = ioView t) :
    (l.foldl (moveGood was e) s).staged = s.staged ∧
      ioView (l.foldl (moveGood was e) s) = ioView (l.foldl (fun u k => writeFlit (dstOf e k) (readFlit was (srcOf e k)) u) t) := by
  induction l generalizing s t with
  | nil => exact ⟨rfl, same⟩
  | cons k l ih =>
    obtain ⟨endpoint, now⟩ := h k List.mem_cons_self
    obtain ⟨staged, view⟩ := moveGood_now (was := was) endpoint now s
    obtain ⟨stagedL, viewL⟩ := ih (fun j hj => h j (List.mem_cons_of_mem _ hj)) (view.trans (ioView_writeFlit same _ _))
    exact ⟨stagedL.trans staged, viewL⟩

theorem undo_moveGoods (was : State) (e : Transfer) (l : List Nat) (s : State) : (l.foldl (moveGood was e) s).run.undo = s.run.undo :=
  foldl_proj (fun u : State => u.run.undo) (moveGood was e) (undo_moveGood was e) l s

theorem pd_foundWord (s : State) (x : Fin 6 × Nat) : (foundWord s x).super.pd = s.super.pd := by
  show (countUncorrectable x.1 x.2 s).super.pd = s.super.pd
  unfold countUncorrectable raiseUrgent
  rw [raiseSev_super]
  rfl

theorem ioView_scanSpan (a : Word) (n : Nat) (s : State) : ioView (scanSpan a n s) = ioView s := by
  have corrected : But 0x4004000022 s (if isPool a then correctIn a.toNat n s else (loopWordAt s a).elim s fun x => correctLoop x.1 (epOff a) n s) :=
    but_ite (but_correctIn (Within.self _) (.self _ s)) (but_elim (.self _ s) fun _ => but_correctLoop ((Within.self _).le rfl) (.self _ s))
  have found : ∀ u, ioView (foundBad (spanBad s a n) u) = ioView u := fun u => by
    have same : But 0x4004800022 u (foundBad (spanBad s a n) u) := but_foundBad (Within.self _) (.self _ u)
    have pd : (foundBad (spanBad s a n) u).super.pd = u.super.pd := by
      rw [foundBad_eq]
      exact foldl_proj (fun v : State => v.super.pd) foundWord pd_foundWord _ u
    unfold ioView
    rw [same .field rfl, same .panel rfl, same .run rfl, pd]
  unfold scanSpan
  rw [found, ioView_of_but corrected rfl rfl rfl rfl]

theorem moveBegins_run (im : SchedImage) (e : Transfer) (s : State) : (moveBegins im e s).run = if isCommit s e then
    { s.run with undo := (e.dst.toNat, memRead s.pool e.dst.toNat (64 * e.len.toNat)) :: s.run.undo } else s.run := by
  have same : But 0x4004800022 s (scanSpan e.src (64 * e.len.toNat) (countRoute im e.route.toNat e.len.toNat s)) :=
    but_scanSpan (Within.self _) (but_countRoute ((Within.self _).le rfl) (.self _ s))
  have run := same .run rfl
  unfold moveBegins
  dsimp only
  split
  · unfold updRun
    dsimp only
    rw [run]
  · exact run

theorem but_moveBegins (im : SchedImage) (e : Transfer) (s : State) : But 0x4004808022 s (moveBegins im e s) := by
  unfold moveBegins
  have same : But 0x4004808022 s (scanSpan e.src (64 * e.len.toNat) (countRoute im e.route.toNat e.len.toNat s)) :=
    but_scanSpan ((Within.self _).le rfl) (but_countRoute ((Within.self _).le rfl) (.self _ s))
  exact but_ite (but_updRun ((Within.self _).le rfl) same) same

theorem ioView_moveBegins (im : SchedImage) (e : Transfer) (s : State) : ioView (moveBegins im e s) = ioView s := by
  have scanned : ioView (scanSpan e.src (64 * e.len.toNat) (countRoute im e.route.toNat e.len.toNat s)) = ioView s := by
    rw [ioView_scanSpan, ioView_of_but (but_countedRoute _ _ _ _) rfl rfl rfl rfl]
  unfold moveBegins
  dsimp only
  split
  · exact scanned
  · exact scanned

/-! ### A transfer in its slot (R106, R169, R172) -/

/-- A repair marks the task that it repairs. -/
def repairMarked (e : Transfer) (s t : State) : State :=
  match moveFrom e with
  | .repairSlot _ off => (repairTask s off).elim t fun k => updTask k.tenant k.task (fun r => { r with repaired := true }) t
  | _ => t

theorem transfer_stays {im : SchedImage} {s : State} {e : Transfer} (h : ¬ moves s e) : transfer im s e = s := by
  unfold moves at h
  unfold transfer
  revert h
  cases moveFrom e with
  | elsewhere => exact fun h => if_pos (by simpa using h)
  | mirror p bank => exact fun h => if_neg h
  | repairSlot p off =>
    intro h
    dsimp only at h ⊢
    split
    next k found =>
      refine if_neg fun yes => h ?_
      rw [Bool.and_eq_true] at yes
      exact ⟨k, found, yes.1, yes.2⟩
    next => rfl

theorem transfer_moves {im : SchedImage} {s : State} {e : Transfer} (h : moves s e) : transfer im s e = repairMarked e s (moveFlits im e s) := by
  unfold moves at h
  unfold transfer repairMarked
  revert h
  cases moveFrom e with
  | elsewhere => exact fun h => if_neg (by rw [h]; decide)
  | mirror p bank => exact fun h => if_pos h
  | repairSlot p off =>
    rintro ⟨k, found, repair, whole⟩
    dsimp only
    rw [found]
    exact if_pos (by rw [repair, whole]; rfl)

theorem but_repairMarked (e : Transfer) (s t : State) : But 0x8000 t (repairMarked e s t) := by
  unfold repairMarked
  split
  · exact but_elim (.self _ t) fun _ => but_updTask (Within.self _) (.self _ t)
  · exact .self _ t

theorem ioView_repairMarked (e : Transfer) (s t : State) : ioView (repairMarked e s t) = ioView t := by
  unfold repairMarked
  split
  next off _ => cases repairTask s off <;> rfl
  next => rfl

theorem undo_repairMarked (e : Transfer) (s t : State) : (repairMarked e s t).run.undo = t.run.undo := by
  unfold repairMarked
  split
  next off _ => cases repairTask s off <;> rfl
  next => rfl

theorem repairMarked_marks {e : Transfer} {s : State} {p : TrioPort} {off : Nat} {k : Task} (from_ : moveFrom e = .repairSlot p off)
    (found : repairTask s off = some k) (t : State) : (taskRt (repairMarked e s t) k.tenant k.task).repaired = true := by
  have marked : repairMarked e s t = updTask k.tenant k.task (fun r => { r with repaired := true }) t := by
    unfold repairMarked; rw [from_]; dsimp only; rw [found]; rfl
  rw [marked, taskRt_updTask _ _ _ _ (by exact taskRt_name t k.tenant k.task)]

theorem transfer_run_undo (im : SchedImage) {s : State} {e : Transfer} (h : moves s e) :
    (transfer im s e).run.undo = (moveBegins im e s).run.undo := by
  rw [transfer_moves h, undo_repairMarked, moveFlits_good, undo_moveGoods]

/-- A scheduled transfer. -/
theorem moved_transfer (im : SchedImage) (s : State) (e : Transfer) : moved e s (transfer im s e) := by
  have frame : But 0x6004bda822 s (transfer im s e) := but_transfer (Within.self _) (.self _ s)
  unfold moved
  intro n src dst good
  refine ⟨transfer_stays, fun go => ?_⟩
  have eq := transfer_moves (im := im) go
  have pool : (transfer im s e).pool = ((goodFlits s e).foldl (moveGood s e) (moveBegins im e s)).pool := by
    rw [eq, show (repairMarked e s _).pool = _ from but_repairMarked _ _ _ .pool rfl, moveFlits_good]
  have staged : (transfer im s e).staged = ((goodFlits s e).foldl (moveGood s e) (moveBegins im e s)).staged := by
    rw [eq, show (repairMarked e s _).staged = _ from but_repairMarked _ _ _ .staged rfl, moveFlits_good]
  have begun := but_moveBegins im e s
  refine ⟨fun inPool fits wf => ?_, fun endpoint => ?_, fun late => ?_, fun now => ?_, fun commit => ?_, fun other => ?_,
    fun p off k from_ found => ?_, frame .sched rfl, frame .part rfl, frame .upd rfl, frame .historian rfl⟩
  · obtain ⟨kept, bytes⟩ := pool_moveGoods (was := s) fits (goodFlits s e) (fun k hk => (mem_goodFlits.1 hk).1) (moveBegins im e s)
      (by rw [show (moveBegins im e s).pool = s.pool from begun .pool rfl]; exact wf)
    rw [show (moveBegins im e s).pool = s.pool from begun .pool rfl] at bytes
    refine ⟨staged.trans (kept.trans (begun .staged rfl)), fun k hk j hj => ?_, fun x out => ?_⟩
    · rw [pool, bytes, show (e.dst.toNat + 64 * k + j - e.dst.toNat) / 64 = k by omega, show (e.dst.toNat + 64 * k + j - e.dst.toNat) % 64 = j by omega]
      refine if_congr ⟨fun ⟨i, hi, at_⟩ => ?_, fun yes => ⟨k, mem_goodFlits.2 ⟨hk, yes⟩, by omega⟩⟩ rfl rfl
      obtain rfl : i = k := by omega
      exact (mem_goodFlits.1 hi).2
    · rw [pool, bytes, if_neg]
      rintro ⟨k, hk, at_⟩
      have lt : k < n := (mem_goodFlits.1 hk).1
      omega
  · rw [pool, pool_moveGoods_endpoint (fun k hk => endpoint k (mem_goodFlits.1 hk).1)]
    exact begun .pool rfl
  · rw [staged, staged_moveGoods (fun k hk => late k (mem_goodFlits.1 hk).1), show (moveBegins im e s).staged = s.staged from begun .staged rfl]
    rfl
  · intro w
    obtain ⟨kept, view⟩ := now_moveGoods (was := s) (l := goodFlits s e) (fun k hk => now k (mem_goodFlits.1 hk).1) (ioView_moveBegins im e s)
    have same : ioView (transfer im s e) = ioView w := by
      rw [eq, ioView_repairMarked, moveFlits_good]
      exact view
    have parts : (transfer im s e).field = w.field ∧ (transfer im s e).panel = w.panel ∧ (transfer im s e).run.stations = w.run.stations ∧
        (transfer im s e).super.pd = w.super.pd := by simpa [ioView] using same
    exact ⟨staged.trans (kept.trans (begun .staged rfl)), parts.1, parts.2.1, parts.2.2.1⟩
  · rw [transfer_run_undo im go, moveBegins_run, if_pos commit]
  · rw [transfer_run_undo im go, moveBegins_run, if_neg (by rw [other]; decide)]
  · rw [eq]
    exact repairMarked_marks from_ found _

end Sys2Proof.Machine
/-! Proofs about the trio exchanges of a slot (R50, R161, R172, R301, R302). -/
namespace Sys2Proof.Machine
open Sys2Proof.Stmt

/-! ### Spans of good flits (R301) -/

/-- Does a span of flits hold flit `k`? -/
def spanHolds (k : Nat) (x : Nat × Nat) : Bool := decide (x.1 ≤ k) && decide (k < x.1 + x.2)

/-- One more flit: it lengthens the last span, or begins one of its own. -/
def spanStep (good : Nat → Bool) (acc : List (Nat × Nat)) (i : Nat) : List (Nat × Nat) :=
  if !good i then acc
  else match acc with
    | (o, l) :: r => if o + l = i && l < 128 then (o, l + 1) :: r else (i, 1) :: acc
    | [] => [(i, 1)]

theorem flitSpans_eq (good : Nat → Bool) (n : Nat) : flitSpans good n = ((List.range n).foldl (spanStep good) []).reverse := rfl

/-- Spans of the flits below `m`: short ones, and each good flit in just one. -/
structure SpansOf (good : Nat → Bool) (m : Nat) (acc : List (Nat × Nat)) : Prop where
  fits : ∀ x ∈ acc, 0 < x.2 ∧ x.2 ≤ 128 ∧ x.1 + x.2 ≤ m
  once : ∀ k, (acc.filter (spanHolds k)).length = if k < m ∧ good k = true then 1 else 0

theorem spansOf_nil (good : Nat → Bool) : SpansOf good 0 [] := ⟨fun _ h => (by cases h), fun k => (if_neg (by omega)).symm⟩

theorem SpansOf.skip {good : Nat → Bool} {m : Nat} {acc : List (Nat × Nat)} (h : SpansOf good m acc) (bad : good m = false) : SpansOf good (m + 1) acc := by
  refine ⟨fun x hx => ?_, fun k => ?_⟩
  · obtain ⟨pos, short, le⟩ := h.fits x hx
    exact ⟨pos, short, by omega⟩
  · rw [h.once k]
    refine if_congr ⟨fun ⟨lt, g⟩ => ⟨by omega, g⟩, fun ⟨lt, g⟩ => ⟨?_, g⟩⟩ rfl rfl
    have ne : k ≠ m := fun e => by rw [e, bad] at g; cases g
    omega

/-- Spans that hold one flit more. -/
theorem SpansOf.more {good : Nat → Bool} {m : Nat} {acc new : List (Nat × Nat)} (h : SpansOf good m acc) (here : good m = true)
    (fits : ∀ x ∈ new, 0 < x.2 ∧ x.2 ≤ 128 ∧ x.1 + x.2 ≤ m + 1)
    (count : ∀ k, (new.filter (spanHolds k)).length = (acc.filter (spanHolds k)).length + if k = m then 1 else 0) : SpansOf good (m + 1) new := by
  refine ⟨fits, fun k => ?_⟩
  rw [count, h.once]
  by_cases last : k = m
  · rw [if_pos last, if_neg (by omega), if_pos ⟨by omega, by rw [last]; exact here⟩]
  · rw [if_neg last, Nat.add_zero]
    exact if_congr ⟨fun ⟨lt, g⟩ => ⟨by omega, g⟩, fun ⟨lt, g⟩ => ⟨by omega, g⟩⟩ rfl rfl

theorem length_filter_spanHolds_cons (k : Nat) (x : Nat × Nat) (l : List (Nat × Nat)) :
    ((x :: l).filter (spanHolds k)).length = (l.filter (spanHolds k)).length + if x.1 ≤ k ∧ k < x.1 + x.2 then 1 else 0 := by
  by_cases holds : x.1 ≤ k ∧ k < x.1 + x.2
  · rw [List.filter_cons_of_pos (by simpa [spanHolds] using holds), if_pos holds, List.length_cons]
  · rw [List.filter_cons_of_neg (by simpa [spanHolds] using holds), if_neg holds, Nat.add_zero]

theorem SpansOf.begin {good : Nat → Bool} {m : Nat} {acc : List (Nat × Nat)} (h : SpansOf good m acc) (here : good m = true) :
    SpansOf good (m + 1) ((m, 1) :: acc) := by
  refine h.more here (fun x hx => ?_) fun k => ?_
  · obtain rfl | hx := List.mem_cons.1 hx
    · exact ⟨Nat.one_pos, by dsimp only; omega, le_rfl⟩
    · obtain ⟨pos, short, le⟩ := h.fits x hx
      exact ⟨pos, short, by omega⟩
  · rw [length_filter_spanHolds_cons]
    exact congrArg _ (if_congr (by dsimp only; omega) rfl rfl)

theorem SpansOf.lengthen {good : Nat → Bool} {m o l : Nat} {r : List (Nat × Nat)} (h : SpansOf good m ((o, l) :: r)) (here : good m = true)
    (meets : o + l = m) (room : l < 128) : SpansOf good (m + 1) ((o, l + 1) :: r) := by
  refine h.more here (fun x hx => ?_) fun k => ?_
  · obtain rfl | hx := List.mem_cons.1 hx
    · exact ⟨Nat.succ_pos l, by dsimp only; omega, by dsimp only; omega⟩
    · obtain ⟨pos, short, le⟩ := h.fits x (List.mem_cons_of_mem _ hx)
      exact ⟨pos, short, by omega⟩
  · rw [length_filter_spanHolds_cons, length_filter_spanHolds_cons, Nat.add_assoc]
    refine congrArg _ ?_
    dsimp only
    by_cases last : k = m
    · rw [if_pos (by omega), if_neg (by omega), if_pos last]
    · rw [if_neg last, Nat.add_zero]
      exact if_congr (by omega) rfl rfl

theorem SpansOf.step {good : Nat → Bool} {m : Nat} {acc : List (Nat × Nat)} (h : SpansOf good m acc) : SpansOf good (m + 1) (spanStep good acc m) := by
  unfold spanStep
  cases here : good m with
  | false => exact h.skip here
  | true =>
    rw [if_neg (by decide)]
    split
    next o l r =>
      split
      next meets =>
        rw [Bool.and_eq_true, decide_eq_true_eq, decide_eq_true_eq] at meets
        exact h.lengthen here meets.1 meets.2
      next => exact h.begin here
    next => exact h.begin here

theorem spansOf_flitSpans (good : Nat → Bool) (n : Nat) : SpansOf good n (flitSpans good n) := by
  have taken : ∀ m, SpansOf good m ((List.range m).foldl (spanStep good) []) := fun m => by
    induction m with
    | zero => exact spansOf_nil good
    | succ m ih => rw [List.range_succ, List.foldl_append]; exact ih.step
  rw [flitSpans_eq]
  refine ⟨fun x hx => (taken n).fits x (List.mem_reverse.1 hx), fun k => ?_⟩
  rw [List.filter_reverse, List.length_reverse]
  exact (taken n).once k

/-! ### What a bulk of words reads, without the marks of what it finds -/

/-- A state with the registers, the recorder and the supervisor of another. -/
def bare (z s : State) : State := { s with hdrs := z.hdrs, recorder := z.recorder, super := z.super }

theorem bare_of_but {W : Nat} {s t : State} (h : But W s t) (only : Within W 0x4800002) (z : State) : bare z t = bare z s :=
  (congrArg (bare z) (restored_of_but (h.mono only)) :)

/-- An operation that does not read the registers, the recorder or the supervisor. -/
def Unmarked (z : State) (f : State → State) : Prop := ∀ s, bare z (f s) = bare z (f (bare z s))

theorem Unmarked.comp {z : State} {f g : State → State} (hf : Unmarked z f) (hg : Unmarked z g) : Unmarked z fun s => g (f s) := fun s => by
  rw [hg (f s), hf s, ← hg (f (bare z s))]

theorem Unmarked.foldl {z : State} {α : Type} {f : State → α → State} (h : ∀ x, Unmarked z fun s => f s x) (l : List α) :
    Unmarked z fun s => l.foldl f s := by
  induction l with
  | nil => exact fun _ => rfl
  | cons x l ih => exact (h x).comp ih

theorem unmarked_updCrest (z : State) (c : Fin 6) (f : Crest → Crest) : Unmarked z (updCrest c f) := fun _ => rfl

theorem unmarked_of_but {W : Nat} {f : State → State} (h : ∀ s, But W s (f s)) (only : Within W 0x4800002) (z : State) : Unmarked z f := fun s =>
  (bare_of_but (h s) only z).trans (bare_of_but (h (bare z s)) only z).symm

/-- A raised condition takes one value that the spec does not state. -/
theorem free_recordEvent (pg : Page) (n : Nat) (ten : Option (BitVec 3)) (sev : BitVec 3) (s : State) :
    (recordEvent pg n ten sev .unstated s).free = s.free + 1 :=
  but_enqueueEvent (Within.self _) (.self _ _) .free rfl

theorem bare_recordEvent (z : State) (pg : Page) (n : Nat) (ten : Option (BitVec 3)) (sev : BitVec 3) (s : State) :
    bare z (recordEvent pg n ten sev .unstated s) = { bare z s with free := s.free + 1 } := by
  have same : But 0x4004000002 s (recordEvent pg n ten sev .unstated s) := but_recordEvent (Within.self _) (.self _ s)
  have drawn : bare z (recordEvent pg n ten sev .unstated s) = { bare z s with free := (recordEvent pg n ten sev .unstated s).free } :=
    (congrArg (fun x : State => { bare z x with free := (recordEvent pg n ten sev .unstated s).free }) (restored_of_but same) :)
  exact drawn.trans (congrArg (fun n : Nat => { bare z s with free := n }) (free_recordEvent pg n ten sev s))

theorem unmarked_recordEvent (z : State) (pg : Page) (n : Nat) (ten : Option (BitVec 3)) (sev : BitVec 3) :
    Unmarked z (recordEvent pg n ten sev .unstated) := fun s => by rw [bare_recordEvent, bare_recordEvent]; rfl

theorem unmarked_raiseSev (z : State) (pg : Page) (bit : Nat) (ten : Option (BitVec 3)) (sev : BitVec 3) :
    Unmarked z (raiseSev pg bit ten sev .unstated) :=
  Unmarked.comp (f := setRaw pg bit) (g := recordEvent pg bit ten sev .unstated)
    (unmarked_of_but (fun s => but_setRaw (pg := pg) (bit := bit) (Within.self _) (.self _ s)) ((Within.self _).le rfl) z)
    (unmarked_recordEvent z pg bit ten sev)

theorem unmarked_foundWord (z : State) (x : Fin 6 × Nat) : Unmarked z fun s => foundWord s x := by
  have counts : Unmarked z (urgent 505) := unmarked_of_but (fun s => but_urgent (Within.self _) (.self _ s)) ((Within.self _).le rfl) z
  exact (((unmarked_updCrest z x.1 _).comp counts).comp (unmarked_raiseSev z (.engine x.1) 6 none 7)).comp (unmarked_updCrest z x.1 _)

theorem unmarked_countCorrected (z : State) (c : Fin 6) : Unmarked z (countCorrected c) := fun s => by
  have counted : Unmarked z fun s => bump (.engine c) 0x14 1 (updCrest c (fun t => { t with eccCorr := satInc t.eccCorr }) s) :=
    (unmarked_updCrest z c _).comp (unmarked_of_but (fun s => but_bump (Within.self _) (.self _ s)) ((Within.self _).le rfl) z)
  unfold countCorrected
  dsimp only
  rw [bump_crests, bump_crests]
  split
  next full =>
    rw [if_pos (by exact full)]
    exact (counted.comp (unmarked_raiseSev z (.engine c) 5 none (severity (.engine c) 5))) s
  next room =>
    rw [if_neg (by exact room)]
    exact counted s

theorem unmarked_scanSpan (z : State) (a : Word) (n : Nat) : Unmarked z (scanSpan a n) := by
  have found : ∀ bs, Unmarked z (foundBad bs) := fun bs => Unmarked.foldl (unmarked_foundWord z) bs
  have word : ∀ x, Unmarked z fun s => correctWord s x := fun x => (unmarked_updCrest z x.1 _).comp (unmarked_countCorrected z x.1)
  have corrected : Unmarked z fun s =>
      if isPool a then correctIn a.toNat n s else (loopWordAt s a).elim s fun x => correctLoop x.1 (epOff a) n s := fun s => by
    dsimp only
    split
    · exact Unmarked.foldl word (softIn s a.toNat n) s
    · rw [show loopWordAt (bare z s) a = loopWordAt s a from rfl]
      cases loopWordAt s a <;> rfl
  intro s
  unfold scanSpan
  rw [found _ _, corrected s, ← found _ _]
  rfl

/-- What is gathered of the mirror data, with the state bare. -/
def bareData (z : State) (x : List (Option (List Byte)) × State) : List (Option (List Byte)) × State := (x.1, bare z x.2)

theorem bare_mirrorEntry (z : State) (x : List (Option (List Byte)) × State) (e : Word × Word) :
    bareData z (mirrorEntry x e) = bareData z (mirrorEntry (bareData z x) e) := by
  unfold mirrorEntry
  dsimp only
  split
  next left => rw [if_pos (by exact left)]; rfl
  next sent =>
    rw [if_neg (by exact sent)]
    exact Prod.ext rfl (unmarked_scanSpan z e.1 _ x.2)

theorem bare_mirrorEntries (z : State) (l : List (Word × Word)) (x : List (Option (List Byte)) × State) :
    bareData z (l.foldl mirrorEntry x) = bareData z (l.foldl mirrorEntry (bareData z x)) := by
  induction l generalizing x with
  | nil => rfl
  | cons e l ih => rw [List.foldl_cons, List.foldl_cons, ih, bare_mirrorEntry, ← ih]

/-- The mirror data do not depend on the registers, the recorder or the supervisor. -/
theorem mirrorData_bare (z : State) (e : TrioExchange) (s : State) : (mirrorData e s).1 = (mirrorData e (bare z s)).1 := by
  unfold mirrorData
  rw [show mirrorList (bare z s) e = mirrorList s e from rfl, show mirrorBad (bare z s) e = mirrorBad s e from rfl]
  dsimp only
  split
  · have same := (bare_mirrorEntries z ((mirrorList s e).filter (mirrorActive s)) ([], scanSpan e.addr (8 * (mirrorList s e).length) s)).trans
      ((congrArg (fun v => bareData z (((mirrorList s e).filter (mirrorActive s)).foldl mirrorEntry ([], v))) (unmarked_scanSpan z e.addr _ s)).trans
        (bare_mirrorEntries z _ ([], scanSpan e.addr (8 * (mirrorList s e).length) (bare z s))).symm)
    exact (congrArg Prod.fst same :)
  · rfl

/-! ### Frames that wait at both ports (R301, R303) -/

/-- What the content of a frame to be queued reads. -/
def stampOf (s : State) : DWord × Nat × (TrioPort → AlignData) := (s.trio.t, schedNow s, alignFor s)

/-- A frame of a scheduled exchange with the flits of a span. -/
def outOf (stamp : DWord × Nat × (TrioPort → AlignData)) (type : Byte) (x : Nat × Nat) (payload : TrioPayload) : TrioOut :=
  ⟨type, 0xFF, stamp.1, BitVec.ofNat 16 x.1, BitVec.ofNat 16 x.2, true, stamp.2.1, payload⟩

/-- A frame is added behind what waits at each port. -/
def queuesOn (s t : State) (frame : TrioPort → TrioOut) : Prop :=
  stampOf t = stampOf s ∧ ∀ p, (lineOf t p).queue = (lineOf s p).queue ++ [frame p]

theorem stampOf_queueTrio (p : TrioPort) (type : Byte) (x : Nat × Nat) (payload : TrioPayload) (s : State) :
    stampOf (queueTrio p type 0xFF x.1 x.2 true payload s) = stampOf s := by
  cases p <;> rfl

theorem queuesOn_queueTrio (type : Byte) (x : Nat × Nat) (a b : TrioPayload) (s : State) :
    queuesOn s (queueTrio .b type 0xFF x.1 x.2 true b (queueTrio .a type 0xFF x.1 x.2 true a s))
      (fun p => outOf (stampOf s) type x (match p with | .a => a | .b => b)) := by
  refine ⟨(stampOf_queueTrio _ _ _ _ _).trans (stampOf_queueTrio _ _ _ _ _), fun p => ?_⟩
  cases p <;> rfl

theorem queues_foldl {α : Type} {step : State → α → State} {frame : TrioPort → α → TrioOut} {stamp : DWord × Nat × (TrioPort → AlignData)}
    (h : ∀ u x, stampOf u = stamp → queuesOn u (step u x) (frame · x)) (l : List α) (s : State) (hs : stampOf s = stamp) (p : TrioPort) :
    (lineOf (l.foldl step s) p).queue = (lineOf s p).queue ++ l.map (frame p) := by
  induction l generalizing s with
  | nil => exact (List.append_nil _).symm
  | cons x l ih =>
    obtain ⟨stamped, queued⟩ := h s x hs
    rw [List.foldl_cons, ih _ (stamped.trans hs), queued, List.append_assoc]
    rfl

/-- A span of the flits waits at both ports. -/
def queueSpan (type : Byte) (fs : List (Option (List Byte))) (s : State) (x : Nat × Nat) : State :=
  queueBoth type 0xFF x.1 x.2 true (.bytes (((fs.drop x.1).take x.2).flatMap fun f => f.getD [])) s

theorem queueFlits_eq (type : Byte) (fs : List (Option (List Byte))) (s : State) :
    queueFlits type fs s = (flitSpans (fun k => (fs.getD k none).isSome) fs.length).foldl (queueSpan type fs) s := rfl

theorem queue_queueFlits (type : Byte) (fs : List (Option (List Byte))) (s : State) (p : TrioPort) :
    (lineOf (queueFlits type fs s) p).queue = (lineOf s p).queue ++ (flitSpans (fun k => (fs.getD k none).isSome) fs.length).map
      fun x => outOf (stampOf s) type x (.bytes (((fs.drop x.1).take x.2).flatMap fun f => f.getD [])) := by
  rw [queueFlits_eq]
  refine queues_foldl (frame := fun _ x => outOf (stampOf s) type x (.bytes (((fs.drop x.1).take x.2).flatMap fun f => f.getD []))) (fun u x hu => ?_) _ s
    rfl p
  have on := queuesOn_queueTrio type x (.bytes (((fs.drop x.1).take x.2).flatMap fun f => f.getD []))
    (.bytes (((fs.drop x.1).take x.2).flatMap fun f => f.getD [])) u
  refine ⟨on.1, fun p => ?_⟩
  rw [← hu]
  cases p <;> rfl

theorem take_drop_eq_map {α : Type} (l : List α) (d : α) {o n : Nat} (h : o + n ≤ l.length) :
    (l.drop o).take n = (List.range n).map fun j => l.getD (o + j) d := by
  refine List.ext_getElem (by simp; omega) fun j hj _ => ?_
  have lt : o + j < l.length := by simp at hj; omega
  simp [lt]

/-- The flits of an exchange, as its frames hold them. -/
theorem exchangeQueued_queueFlits {type : Byte} {n : Nat} {flit : Nat → Option (List Byte)} {fs : List (Option (List Byte))} {s u : State}
    (trio : u.trio = s.trio) (tb : u.tb = s.tb) (small : n ≤ 0xFFFF) (len : fs.length = n) (at_ : ∀ k, k < n → fs.getD k none = flit k) :
    exchangeQueued type n flit s (queueFlits type fs u) := by
  have spans := spansOf_flitSpans (fun k => (fs.getD k none).isSome) n
  have t : (stampOf u).1 = s.trio.t := by unfold stampOf; rw [trio]
  have due : (stampOf u).2.1 = schedNow s := by unfold stampOf schedNow; rw [tb]
  have number : ∀ k, k ≤ n → (BitVec.ofNat 16 k).toNat = k := fun k hk => Nat.mod_eq_of_lt (by omega)
  intro p
  refine ⟨_, (queue_queueFlits type fs u p).trans (by unfold lineOf; rw [trio, len]), fun x hx => ?_, fun k hk => ?_⟩
  · obtain ⟨y, hy, rfl⟩ := List.mem_map.1 hx
    obtain ⟨pos, short, fits⟩ := spans.fits y hy
    have offset : (outOf (stampOf u) type y (.bytes (((fs.drop y.1).take y.2).flatMap fun f => f.getD []))).offset.toNat = y.1 := number _ (by omega)
    have length : (outOf (stampOf u) type y (.bytes (((fs.drop y.1).take y.2).flatMap fun f => f.getD []))).len.toNat = y.2 := number _ (by omega)
    refine ⟨rfl, rfl, t, rfl, due, by rw [length]; exact pos, by rw [length]; exact short, by rw [offset, length]; exact fits, ?_⟩
    rw [offset, length]
    refine congrArg TrioPayload.bytes ?_
    rw [take_drop_eq_map fs none (by omega), List.flatMap_map]
    exact List.flatMap_congr fun j hj => by rw [at_ _ (by have := List.mem_range.1 hj; omega)]
  · rw [List.filter_map, List.length_map, ← at_ k hk]
    have same : ∀ y ∈ flitSpans (fun k => (fs.getD k none).isSome) n, (decide ((BitVec.ofNat 16 y.1).toNat ≤ k) &&
        decide (k < (BitVec.ofNat 16 y.1).toNat + (BitVec.ofNat 16 y.2).toNat)) = spanHolds k y := fun y hy => by
      obtain ⟨_, _, fits⟩ := spans.fits y hy
      rw [number _ (by omega), number _ (by omega)]
      rfl
    rw [List.filter_congr (q := spanHolds k) (by exact same), spans.once k]
    by_cases good : (fs.getD k none).isSome = true
    · rw [if_pos ⟨hk, good⟩]; exact ⟨fun _ => rfl, fun _ => good⟩
    · rw [if_neg fun both => good both.2]; exact ⟨fun h => absurd h good, fun h => absurd h Nat.zero_ne_one⟩

/-! ### A trio exchange in its slot (R50, R161, R172) -/

theorem countToSaddle_eq (im : SchedImage) (a : Word) (n : Nat) (s : State) : ∃ h, countToSaddle im a n s = { s with hdrs := h } :=
  ⟨(countToSaddle im a n s).hdrs, (congrArg (fun x : State => { x with hdrs := (countToSaddle im a n s).hdrs })
    (restored_of_but (but_countToSaddle (Within.self _) (.self _ s))) :)⟩

/-- The flit that an exchange reads at a place of its span. -/
def flitOf (e : TrioExchange) (s : State) (k : Nat) : Option (List Byte) :=
  if flitGood s e.addr k then some (endpointBytes s (e.addr + BitVec.ofNat 32 (64 * k)) 64) else none

theorem getD_map_range {α : Type} (f : Nat → α) (d : α) {n k : Nat} (h : k < n) : ((List.range n).map f).getD k d = f k := by
  rw [List.getD_eq_getElem?_getD, List.getElem?_map, List.getElem?_range h]
  rfl

theorem exchangeQueued_flitsAt (type : Byte) {e : TrioExchange} {s u v : State} (trio : v.trio = s.trio) (tb : v.tb = s.tb) :
    exchangeQueued type e.len.toNat (flitOf e u) s (queueFlits type (flitsAt u e.addr e.len.toNat) v) :=
  exchangeQueued_queueFlits trio tb (by have := e.len.isLt; omega) (by unfold flitsAt; rw [List.length_map, List.length_range])
    fun k hk => getD_map_range _ _ hk

theorem queue_sendAlign (n : Nat) (s : State) (p : TrioPort) :
    (lineOf (sendAlign n s) p).queue = (lineOf s p).queue ++ (flitSpans (fun _ => true) n).map fun x =>
      outOf (stampOf s) 1 x (.align (alignFor s p)) := by
  refine queues_foldl (frame := fun p x => outOf (stampOf s) 1 x (.align (alignFor s p))) (fun u x hu => ?_) _ s rfl p
  have on := queuesOn_queueTrio 1 x (.align (alignFor u .a)) (.align (alignFor u .b)) u
  refine ⟨on.1, fun p => ?_⟩
  have same : ∀ q, alignFor u q = alignFor s q := fun q => congrFun (congrArg (fun y => y.2.2) hu) q
  refine (on.2 p).trans ?_
  rw [hu]
  cases p <;> dsimp only <;> rw [same]

/-- A frame of a member status waits at both ports. -/
def queueStatusSpan (st : MemberStatus) (d : List Byte) (s : State) (x : Nat × Nat) : State :=
  queueBoth 5 0xFF x.1 x.2 true (.status st ((d.drop (64 * x.1)).take (64 * x.2))) s

theorem queueStatus_eq (n : Nat) (st : MemberStatus) (s : State) : ∃ d, queueStatus n st s =
    (flitSpans (fun _ => true) n).foldl (queueStatusSpan st d) { s with free := s.free + 1 } := ⟨_, rfl⟩

theorem queue_queueStatus (n : Nat) (st : MemberStatus) (s : State) : ∃ d : Nat × Nat → List Byte, ∀ p,
    (lineOf (queueStatus n st s) p).queue = (lineOf s p).queue ++ (flitSpans (fun _ => true) n).map fun x =>
      outOf (stampOf s) 5 x (.status st (d x)) := by
  obtain ⟨d, eq⟩ := queueStatus_eq n st s
  refine ⟨fun x => (d.drop (64 * x.1)).take (64 * x.2), fun p => ?_⟩
  rw [eq]
  refine queues_foldl (frame := fun _ x => outOf (stampOf s) 5 x (.status st ((d.drop (64 * x.1)).take (64 * x.2)))) (fun u x hu => ?_) _ _ rfl p
  have on := queuesOn_queueTrio 5 x (.status st ((d.drop (64 * x.1)).take (64 * x.2))) (.status st ((d.drop (64 * x.1)).take (64 * x.2))) u
  refine ⟨on.1, fun p => ?_⟩
  refine (on.2 p).trans ?_
  rw [hu]
  cases p <;> rfl

/-- What a sent status leaves of the trio unit beside its lines. -/
def statusSent (t : Trio) : Option MemberStatus × List ForceMsg × List (BitVec 16) := (t.sentStatus, t.forcesOut, t.forcesRefused)

/-- The status of the round is on its way. -/
def sending (st : MemberStatus) (t : Trio) : Trio := { t with sentStatus := some st, forcesOut := [], forcesRefused := [] }

theorem statusSent_queueStatus (n : Nat) (st : MemberStatus) (s : State) : statusSent (queueStatus n st s).trio = statusSent s.trio := by
  obtain ⟨d, eq⟩ := queueStatus_eq n st s
  rw [eq]
  exact foldl_proj (fun u : State => statusSent u.trio) (queueStatusSpan st d) (by exact fun _ _ => rfl) _ _

/-- An exchange whose entry is due and whose kind is sent. -/
theorem exchange_sends {im : SchedImage} {s : State} {e : TrioExchange} (due : dueNow s e.t = true) (sends : sendsKind s e.kind.toNat = true) :
    ∃ h, exchange im s e = sendExchange e { s with hdrs := h } ∧ sendsKind { s with hdrs := h } e.kind.toNat = true := by
  obtain ⟨h, counted⟩ := countToSaddle_eq im e.addr e.len.toNat s
  refine ⟨h, ?_, by exact sends⟩
  unfold exchange
  rw [due, sends, counted]
  rfl

theorem sendExchange_status {e : TrioExchange} {s : State} (sends : sendsKind s e.kind.toNat = true) (kind : e.kind.toNat = 4) :
    sendExchange e s = sendStatus e.len.toNat s := by
  unfold sendExchange
  dsimp only
  rw [sends, if_neg (by decide), if_pos kind]

theorem sendExchange_align {e : TrioExchange} {s : State} (sends : sendsKind s e.kind.toNat = true) (kind : e.kind.toNat = 3) :
    sendExchange e s = sendAlign e.len.toNat s := by
  unfold sendExchange
  dsimp only
  rw [sends, if_neg (by decide), if_neg (by omega), if_pos kind]

theorem sendExchange_mirror {e : TrioExchange} {s : State} (sends : sendsKind s e.kind.toNat = true) (kind : e.kind.toNat = 2) :
    sendExchange e s = queueFlits 4 ((List.range e.len.toNat).map fun i => (mirrorData e s).1.getD i (some (List.replicate 64 0))) (mirrorData e s).2 := by
  unfold sendExchange
  dsimp only
  rw [sends, if_neg (by decide), if_neg (by omega), if_neg (by omega), if_pos kind]

theorem sendExchange_input {e : TrioExchange} {s : State} (sends : sendsKind s e.kind.toNat = true) (kind : e.kind.toNat = 0) :
    sendExchange e s = queueFlits 2 (flitsAt s e.addr e.len.toNat) (scanSpan e.addr (64 * e.len.toNat) s) := by
  unfold sendExchange
  dsimp only
  rw [sends, if_neg (by decide), if_neg (by omega), if_neg (by omega), if_neg (by omega), if_neg (by omega), kind]
  rfl

theorem sendExchange_output {e : TrioExchange} {s : State} (sends : sendsKind s e.kind.toNat = true) (kind : e.kind.toNat = 1) :
    sendExchange e s = queueFlits 3 (flitsAt (forwardChanges s (markTasks s)) e.addr e.len.toNat)
      (scanSpan e.addr (64 * e.len.toNat) (forwardChanges s (markTasks s))) := by
  unfold sendExchange
  dsimp only
  rw [sends, if_neg (by decide), if_neg (by omega), if_neg (by omega), if_neg (by omega), if_pos kind, kind]
  rfl

theorem forwardChanges_alone {was s : State} (h : s.trio.copying = none) : forwardChanges was s = s := by
  unfold forwardChanges
  exact if_pos (by rw [h]; rfl)

/-- A trio exchange in its slot. -/
theorem exchanged_exchange (im : SchedImage) (s : State) (e : TrioExchange) : exchanged e s (exchange im s e) := by
  have frame : But 0x6004910822 s (exchange im s e) := but_exchange (Within.self _) (.self _ s)
  unfold exchanged
  intro k n flit
  refine ⟨fun out => ?_, fun due sends => ?_⟩
  · unfold exchange
    obtain no | no := out <;> rw [no]
    · rfl
    · rw [Bool.not_false, Bool.or_true]
      rfl
  obtain ⟨h, eq, still⟩ := exchange_sends (im := im) due sends
  rw [eq] at frame ⊢
  have scanned : ∀ u, But 0x4004800022 u (scanSpan e.addr (64 * e.len.toNat) u) := fun u => but_scanSpan (Within.self _) (.self _ u)
  refine ⟨fun kind => ?_, fun kind => ?_, fun kind => ?_, fun kind => ?_, fun kind => ?_, frame .sched rfl, frame .staged rfl, frame .field rfl,
    frame .part rfl⟩
  · rw [sendExchange_input still kind]
    exact ⟨exchangeQueued_flitsAt 2 (u := { s with hdrs := h }) (scanned _ .trio rfl) (scanned _ .tb rfl),
      (but_queueFlits (W := 0x10000) (Within.self _) (.self _ _) .pool rfl).trans (scanned _ .pool rfl)⟩
  · rw [sendExchange_output still kind]
    refine ⟨?_, fun alone => ?_⟩
    · refine (but_queueFlits (W := 0x10000) (Within.self _) (.self _ _) .pool rfl).trans ((scanned _ .pool rfl).trans ?_)
      exact but_forwardChanges (W := 0x2000110002) (Within.self _) (.self _ _) .pool rfl
    · rw [forwardChanges_alone (by exact alone)]
      exact exchangeQueued_flitsAt 3 (u := markTasks { s with hdrs := h }) (scanned _ .trio rfl) (scanned _ .tb rfl)
  · rw [sendExchange_mirror still kind]
    have read : But 0x4004800022 { s with hdrs := h } (mirrorData e { s with hdrs := h }).2 := but_mirrorData (Within.self _) (.self _ _)
    refine ⟨(mirrorData e s).1, exchangeQueued_queueFlits (read .trio rfl) (read .tb rfl) (by have := e.len.isLt; omega)
      (by rw [List.length_map, List.length_range]) fun j hj => ?_, (but_queueFlits (W := 0x10000) (Within.self _) (.self _ _) .pool rfl).trans (read .pool rfl), rfl⟩
    rw [getD_map_range _ _ hj, mirrorData_bare s e { s with hdrs := h }]
    rfl
  · intro st own
    subst own
    rw [sendExchange_status still kind]
    obtain ⟨d, queues⟩ := queue_queueStatus e.len.toNat (ownStatus s) (updTrio (sending (ownStatus s)) { s with hdrs := h })
    have sent := statusSent_queueStatus e.len.toNat (ownStatus s) (updTrio (sending (ownStatus s)) { s with hdrs := h })
    have lines : ∀ p, (lineOf (updTrio (sending (ownStatus s)) { s with hdrs := h }) p).queue = (lineOf s p).queue := fun p => by cases p <;> rfl
    refine ⟨(congrArg Prod.fst sent :), (congrArg (fun x => x.2.1) sent :), (congrArg (fun x => x.2.2) sent :), fun p =>
      ⟨_, (queues p).trans (congrArg (· ++ _) (lines p)), fun x hx => ?_⟩⟩
    obtain ⟨y, _, rfl⟩ := List.mem_map.1 hx
    exact ⟨rfl, rfl, _, rfl⟩
  · intro p
    rw [sendExchange_align still kind]
    refine ⟨_, queue_sendAlign e.len.toNat { s with hdrs := h } p, fun x hx => ?_⟩
    obtain ⟨y, _, rfl⟩ := List.mem_map.1 hx
    exact ⟨rfl, rfl⟩

end Sys2Proof.Machine

/-! Proofs about historian captures of a slot (R51, R370, R371). -/
namespace Sys2Proof.Machine
open Sys2Proof.Stmt

/-! ### The words found uncorrectable -/

/-- The words of a tile that were found uncorrectable. -/
def tileBad (t : Crest) : List Nat × List Nat := (t.badWords, t.badLoopWords)

theorem badKept_countCorrected (c : Fin 6) (s : State) : tilesKept tileBad s (countCorrected c s) := by
  have counted : tilesKept tileBad s (bump (.engine c) 0x14 1 (updCrest c (fun t => { t with eccCorr := satInc t.eccCorr }) s)) :=
    tilesKept_trans (tilesKept_updCrest (by exact fun _ => rfl) c s) (tilesKept_of_crests (bump_crests _ _ _ _))
  unfold countCorrected
  dsimp only
  split
  · exact tilesKept_trans counted (tilesKept_of_crests (raise_crests _ _ _ _ _))
  · exact counted

theorem badKept_foundWord (s : State) (x : Fin 6 × Nat) : tilesKept tileBad s (foundWord s x) := by
  have counted : tilesKept tileBad s (countUncorrectable x.1 x.2 s) := by
    unfold countUncorrectable
    exact tilesKept_trans (tilesKept_updCrest (by exact fun _ => rfl) x.1 s)
      (tilesKept_of_crests (but_raiseUrgent (W := 0x4004800002) (Within.self _) (.self _ _) .crests rfl))
  exact tilesKept_trans counted (tilesKept_updCrest (by exact fun _ => rfl) x.1 _)

theorem badKept_scanSpan (a : Word) (n : Nat) (s : State) : tilesKept tileBad s (scanSpan a n s) := by
  have word : ∀ (s : State) x, tilesKept tileBad s (correctWord s x) := fun s x => by
    unfold correctWord
    exact tilesKept_trans (tilesKept_updCrest (by exact fun _ => rfl) x.1 s) (badKept_countCorrected x.1 _)
  have corrected : tilesKept tileBad s (if isPool a then correctIn a.toNat n s else (loopWordAt s a).elim s fun x => correctLoop x.1 (epOff a) n s) := by
    split
    · exact tilesKept_foldl word _ s
    · cases loopWordAt s a with
      | none => exact fun _ => rfl
      | some x => exact tilesKept_updCrest (by exact fun _ => rfl) x.1 s
  exact tilesKept_trans corrected (tilesKept_foldl badKept_foundWord _ _)

theorem spanBad_of_badKept {s t : State} (part : t.part = s.part) (h : tilesKept tileBad s t) (a : Word) (n : Nat) : spanBad t a n = spanBad s a n := by
  have words : ∀ c, (Vec.at t.crests c).badWords = (Vec.at s.crests c).badWords := fun c => (congrArg Prod.fst (h c) :)
  have loops : ∀ c, (Vec.at t.crests c).badLoopWords = (Vec.at s.crests c).badLoopWords := fun c => (congrArg Prod.snd (h c) :)
  have inLoop : ∀ c off, loopBad t c off n = loopBad s c off n := fun c off => by unfold loopBad; rw [loops]
  unfold spanBad loopWordAt badIn presentCrests
  rw [part]
  simp only [words, inLoop]

/-! ### A capture in its slot (R370, R371) -/

/-- What a gap block adds to the historian. -/
theorem gapBlock_adds (b : Block) (cause : BitVec 3) (s : State) :
    (gapBlock b cause s).historian.gaps = satInc s.historian.gaps ∧
      ((gapBlock b cause s).historian.staging = s.historian.staging ∨ ∃ x, (gapBlock b cause s).historian.staging = s.historian.staging ++ [x] ∧
        x.gap = true ∧ x.cause = cause ∧ x.owner = b.owner ∧ x.cls = b.cls ∧ x.data = []) := by
  have told : ∀ (ten : Option (BitVec 3)) (u : State), (raise .historian 2 ten .unstated (bump .historian 0x11 1 u)).historian = u.historian :=
    fun ten u => but_raise (W := 0x4004000002) (Within.self _) (but_bump ((Within.self _).le rfl) (.self _ u)) .historian rfl
  unfold gapBlock
  dsimp only
  rw [told]
  refine ⟨rfl, ?_⟩
  cases decide (stagedBytes s b.owner + 64 ≤ stagingShare s b.owner) || decide (stagedGaps s b.owner < 256)
  · exact .inl rfl
  · exact .inr ⟨_, rfl, rfl, rfl, rfl, rfl, rfl⟩

theorem refuseCapture_keeps (o : Fin 9) (c : BitVec 2) (s : State) :
    (refuseCapture o c s).historian.dropped = s.historian.dropped ∧ (refuseCapture o c s).historian.staging = s.historian.staging := by
  have told : ∀ ten p0 p1 (u : State), (note .historian 0x80 ten p0 p1 u).historian = u.historian :=
    fun _ _ _ u => but_note (W := 0x4004000002) (Within.self _) (.self _ u) .historian rfl
  unfold refuseCapture
  split
  · exact ⟨rfl, rfl⟩
  · rw [told]
    exact ⟨rfl, rfl⟩

/-- The block of a capture. -/
def blockOf (im : SchedImage) (i : Nat) (e : Capture) (d : List Byte) (s : State) : Block :=
  { owner := tenantOwner e.tenant, cls := e.cls, group := e.group, gap := false, reserve := false, cause := 0, stamp := BitVec.ofNat 64 s.tb.lastR
    g := if e.group = 0 then 0 else groupSeq s e.tenant e.group, slot := s.sched.slot, round := s.sched.round
    frame := s.sched.frame, entry := BitVec.ofNat 20 i, stream := streamOf im i e, data := d }

theorem capture_drops {s : State} {e : Capture} (h : s.historian.enabled = false ∨ classAccepted s e.cls = false) (im : SchedImage) (i : Nat)
    (d : List Byte) : (capture im i e d s).historian.dropped = satInc s.historian.dropped ∧
      (capture im i e d s).historian.staging = s.historian.staging := by
  obtain ⟨dropped, staging⟩ := refuseCapture_keeps (tenantOwner e.tenant) e.cls s
  unfold capture
  dsimp only
  split
  · exact ⟨rfl, rfl⟩
  · next on =>
    obtain off | refused := h
    · rw [off] at on; exact absurd rfl on
    · rw [refused, if_pos (by decide)]
      exact ⟨congrArg satInc dropped, staging⟩

theorem capture_accepted {s : State} {e : Capture} (on : s.historian.enabled = true) (takes : classAccepted s e.cls = true) (im : SchedImage) (i : Nat)
    (d : List Byte) : capture im i e d s =
      let b := blockOf im i e d s
      if spanPoisoned s e.src (64 * e.len.toNat) then gapBlock b 2 s
      else if spanAbandoned s e.src then gapBlock b 3 s
      else if stagingShare s b.owner < stagedBytes s b.owner + blockSize b then gapBlock b 1 s
      else updHis (fun h => { h with staging := h.staging ++ [b] }) s := by
  unfold capture
  rw [on, takes]
  rfl

/-- What a capture reads before its block is made: its words are looked through and travel to the hub. -/
def captureBegins (im : SchedImage) (e : Capture) (s : State) : State :=
  scanSpan e.src (64 * e.len.toNat) (countToSaddle im e.src e.len.toNat s)

theorem captureEntry_due {im : SchedImage} {s : State} {x : Capture × Nat} (due : dueNow s x.1.t = true) :
    captureEntry im s x = capture im x.2 x.1 (readSpan s x.1.src x.1.len.toNat) (captureBegins im x.1 s) := by
  unfold captureEntry
  rw [due]
  rfl

theorem but_captureBegins (im : SchedImage) (e : Capture) (s : State) : But 0x4004800022 s (captureBegins im e s) :=
  but_scanSpan (Within.self _) (but_countToSaddle ((Within.self _).le rfl) (.self _ s))

theorem spanBad_captureBegins (im : SchedImage) (e : Capture) (s : State) (a : Word) (n : Nat) :
    spanBad (captureBegins im e s) a n = spanBad s a n :=
  spanBad_of_badKept (but_captureBegins im e s .part rfl)
    (tilesKept_trans (tilesKept_of_crests (but_countToSaddle (W := 0x2) (Within.self _) (.self _ s) .crests rfl)) (badKept_scanSpan _ _ _)) a n

/-- What a capture's block depends on beside its span. -/
theorem captureBegins_reads (im : SchedImage) (e : Capture) (s : State) :
    (captureBegins im e s).historian = s.historian ∧ (captureBegins im e s).run = s.run ∧ (captureBegins im e s).tb = s.tb ∧
      (captureBegins im e s).sched = s.sched :=
  have same := but_captureBegins im e s
  ⟨same .historian rfl, same .run rfl, same .tb rfl, same .sched rfl⟩

theorem spanAbandoned_of_run {s t : State} (h : t.run = s.run) (a : Word) : spanAbandoned t a = spanAbandoned s a := by
  unfold spanAbandoned tasksOf taskRt
  rw [h]

theorem stagingShare_of_run {s t : State} (h : t.run = s.run) (o : Fin 9) : stagingShare t o = stagingShare s o := by
  unfold stagingShare reservation
  rw [h]

theorem captured_captureEntry (im : SchedImage) (s : State) (x : Capture × Nat) : captured im x s (captureEntry im s x) := by
  have frame : But 0x400c800022 s (captureEntry im s x) := but_captureEntry (Within.self _) (.self _ s)
  obtain ⟨historian, run, tb, sched⟩ := captureBegins_reads im x.1 s
  unfold captured
  intro e n poison left o full gap
  refine ⟨fun later => ?_, fun due => ?_⟩
  · unfold captureEntry
    rw [later]
    rfl
  refine ⟨fun out => ?_, fun on takes => ?_, frame .pool rfl, frame .sched rfl⟩
  · rw [captureEntry_due due]
    have drops := capture_drops (s := captureBegins im x.1 s) (e := x.1)
      (by unfold classAccepted driveAt at out ⊢; rw [historian]; exact out) im x.2 (readSpan s x.1.src x.1.len.toNat)
    rwa [historian] at drops
  · have eq := (captureEntry_due (im := im) due).trans (capture_accepted (s := captureBegins im x.1 s) (e := x.1) (by rw [historian]; exact on)
      (by unfold classAccepted driveAt at takes ⊢; rw [historian]; exact takes) im x.2 (readSpan s x.1.src x.1.len.toNat))
    dsimp only at eq
    have poisoned : spanPoisoned (captureBegins im x.1 s) x.1.src (64 * x.1.len.toNat) = true ↔ poison := by
      unfold spanPoisoned
      rw [spanBad_captureBegins, Bool.not_eq_true', ← Bool.not_eq_true, List.isEmpty_iff]
    have abandoned : spanAbandoned (captureBegins im x.1 s) x.1.src = true ↔ left := by rw [spanAbandoned_of_run run]
    have noRoom : stagingShare (captureBegins im x.1 s) o < stagedBytes (captureBegins im x.1 s) o +
        blockSize (blockOf im x.2 x.1 (readSpan s x.1.src x.1.len.toNat) (captureBegins im x.1 s)) ↔ full := by
      unfold stagedBytes blockSize
      rw [stagingShare_of_run run, historian, ← Nat.add_assoc]
      rfl
    have gapped : ∀ cause, captureEntry im s x = gapBlock (blockOf im x.2 x.1 (readSpan s x.1.src x.1.len.toNat) (captureBegins im x.1 s)) cause
        (captureBegins im x.1 s) → gap cause := fun cause made => by
      have adds := gapBlock_adds (blockOf im x.2 x.1 (readSpan s x.1.src x.1.len.toNat) (captureBegins im x.1 s)) cause (captureBegins im x.1 s)
      rw [historian, ← made] at adds
      exact adds
    refine ⟨fun bad => gapped 2 (eq.trans (if_pos (poisoned.2 bad))), fun good gone => ?_, fun good here out => ?_, fun good here room => ?_⟩
    · exact gapped 3 (eq.trans ((if_neg (mt poisoned.1 good)).trans (if_pos (abandoned.2 gone))))
    · exact gapped 1 (eq.trans ((if_neg (mt poisoned.1 good)).trans ((if_neg (mt abandoned.1 here)).trans (if_pos (noRoom.2 out)))))
    · have made := eq.trans ((if_neg (mt poisoned.1 good)).trans ((if_neg (mt abandoned.1 here)).trans (if_neg (mt noRoom.1 room))))
      refine ⟨blockOf im x.2 x.1 (readSpan s x.1.src x.1.len.toNat) (captureBegins im x.1 s), ?_, rfl, rfl, rfl, rfl, rfl, ?_, ?_, ?_, ?_, rfl, rfl,
        fun grouped => ?_⟩
      · rw [made]
        exact congrArg (· ++ _) (congrArg Historian.staging historian)
      · exact congrArg (fun y : Timebase => BitVec.ofNat 64 y.lastR) tb
      · exact (congrArg Sched.slot sched :)
      · exact (congrArg Sched.round sched :)
      · exact (congrArg Sched.frame sched :)
      · refine (if_neg grouped).trans ?_
        unfold groupSeq
        rw [historian]

end Sys2Proof.Machine

/-! Proofs about SLOT_START (R31, R40, R45, R106, R134). -/
namespace Sys2Proof.Machine
open Sys2Proof.Stmt

/-! ### What a slot keeps of a tile -/

theorem tilesKept_updEngine {β : Type} {v : Crest → β} (hv : ∀ x gs, v { x with engines := gs } = v x) (e : EngRef) (f : Engine → Engine) (s : State) :
    tilesKept v s (updEngine e f s) := tilesKept_updCrest (fun x => hv x _) e.crest s

/-- A cause that does not retire the engine. -/
def sparesEngine (cause : Nat) : Prop := (cause == xCtxEcc || cause == xStall || cause == xSelftest) = false

theorem tilesKept_engineX {β : Type} {v : Crest → β} (hv : ∀ x gs, v { x with engines := gs } = v x) (e : EngRef) {cause : Nat}
    (spares : sparesEngine cause) (addr : Word) (trap : BitVec 5) (d : Option StepDesc) (el : BitVec 16) (s : State) :
    tilesKept v s (engineX e cause addr trap d el s) := by
  have raised : ∀ bit ten (u : State), (raise (.engine e.crest) bit ten .unstated u).crests = u.crests := fun bit ten u => raise_crests _ _ _ _ u
  have abandoned : ∀ p (u : State), (abandonStep d p u).crests = u.crests := fun p u => by
    cases d with
    | none => rfl
    | some d => exact but_abandonTask (W := 0x8002) (Within.self _) (.self _ u) .crests rfl
  unfold engineX
  dsimp only
  rw [if_neg (by rw [spares]; decide)]
  let upd := updEngine e (fun g =>
    { g with x := mkRecord s (engineAt s e) cause addr trap d el, run := none, delay := none, modeNext := none, loops := [] }) s
  refine tilesKept_trans (t := upd) (tilesKept_updEngine hv e _ s) (tilesKept_of_crests ?_)
  rw [abandoned]
  split
  · rw [raised, raised, bump_crests]
  · rw [raised, bump_crests]

/-- Loads, unloads, transfers, exchanges and captures leave alone whether a tile's loop steps are late. -/
theorem tilesKept_late_of_core {s t : State} (h : tilesKept tileCore s t) : tilesKept Crest.loopsLate s t := tilesKept_of_core h (fun _ => rfl)

theorem late_takeHalf (im : SchedImage) (s : State) (e : EngRef) : tilesKept Crest.loopsLate s (takeHalf im e.crest s e.eng) :=
  tilesKept_updEngine (fun _ _ => rfl) _ _ s

theorem late_unloadStep (im : SchedImage) (e : EngRef) (x : EngineStep) (s : State) : tilesKept Crest.loopsLate s (unloadStep im e x s) := by
  cases sound : (Vec.at s.crests e.crest).retired.getLsbD e.eng.val with
  | true =>
    unfold unloadStep
    rw [sound]
    exact tilesKept_of_crests (but_abandonTask (W := 0x8002) (Within.self _) (.self _ s) .crests rfl)
  | false =>
    have upd : tilesKept Crest.loopsLate s (updEngine e (unloadedEngine (descAt im x)) s) := tilesKept_updEngine (fun _ _ => rfl) e _ s
    rw [unloadStep_sound sound]
    split
    · exact tilesKept_trans upd (tilesKept_trans (tilesKept_late_of_core (coreKept_poolPut _ _ _)) (tilesKept_late_of_core (coreKept_countRoute _ _ _ _)))
    · exact upd

theorem late_loadStep (im : SchedImage) (e : EngRef) (x : EngineStep) (s : State) : tilesKept Crest.loopsLate s (loadStep im e x s) := by
  cases sound : (Vec.at s.crests e.crest).retired.getLsbD e.eng.val with
  | true => rw [loadStep_retired sound]; exact tilesKept_refl _ s
  | false =>
    have held : tilesKept Crest.loopsLate s (stepHeld im e x (descAt im x) (repairAwaited (descAt im x) s)) :=
      tilesKept_trans (tilesKept_of_crests (but_repairAwaited _ s .crests rfl)) (tilesKept_trans
        (tilesKept_late_of_core (coreKept_stepRead im x _ _)) (tilesKept_updEngine (fun _ _ => rfl) e _ _))
    rw [loadStep_sound sound]
    split
    · exact tilesKept_trans held (tilesKept_engineX (fun _ _ => rfl) e (cause := xPoison) rfl 0 0 _ 0 _)
    · exact held

theorem late_impliedTransfers (im : SchedImage) (s : State) (x : EngineStep) : tilesKept Crest.loopsLate s (impliedTransfers im s x) := by
  unfold impliedTransfers
  split
  · exact tilesKept_refl _ s
  · split
    · exact tilesKept_refl _ s
    · split
      · exact late_unloadStep _ _ _ _
      · split
        · exact late_loadStep _ _ _ _
        · exact tilesKept_refl _ s

theorem late_writeFlit (a : Word) (d : List Byte) (s : State) : tilesKept Crest.loopsLate s (writeFlit a d s) := by
  have saddle : ∀ off, (writeSaddle off d s).crests = s.crests := fun off => but_writeSaddle (W := 0x208000) (Within.self _) (.self _ s) .crests rfl
  have field : ∀ off, (writeFieldFlit off d s).crests = s.crests := fun off => but_writeFieldFlit (Within.self _) (.self _ s) .crests rfl
  have panel : ∀ off, (writePanelFlit off d s).crests = s.crests := fun off => but_writePanelFlit (Within.self _) (.self _ s) .crests rfl
  unfold writeFlit
  dsimp only
  split
  · exact tilesKept_of_crests (saddle _)
  · split
    next c _ =>
      unfold loopPut loopWritten updLoop
      exact tilesKept_trans (tilesKept_updCrest (by exact fun _ => rfl) c s) (tilesKept_updCrest (by exact fun _ => rfl) c _)
    next =>
      split
      · exact tilesKept_of_crests (field _)
      · exact tilesKept_of_crests (panel _)

theorem late_putFlit (a : Word) (d : List Byte) (s : State) : tilesKept Crest.loopsLate s (putFlit a d s) := by
  unfold putFlit
  split
  · exact tilesKept_refl _ s
  · exact late_writeFlit a d s

theorem late_moveGood (was : State) (e : Transfer) (s : State) (k : Nat) : tilesKept Crest.loopsLate s (moveGood was e s k) := by
  have on : ∀ u, tilesKept Crest.loopsLate u (forwardsOn was e k u) := fun u => tilesKept_of_crests (but_forwardsOn was e k u .crests rfl)
  cases pool : isPool (dstOf e k) with
  | true =>
    unfold moveGood
    rw [writeSpan_pool pool]
    exact tilesKept_trans (tilesKept_late_of_core (coreKept_poolPut _ _ s)) (on _)
  | false =>
    rw [moveGood_endpoint pool]
    exact tilesKept_trans (late_putFlit _ _ s) (on _)

theorem late_scanSpan (a : Word) (n : Nat) (s : State) : tilesKept Crest.loopsLate s (scanSpan a n s) := tilesKept_late_of_core (coreKept_scanSpan a n s)

theorem late_transfer (im : SchedImage) (s : State) (e : Transfer) : tilesKept Crest.loopsLate s (transfer im s e) := by
  by_cases go : moves s e
  · have begun : tilesKept Crest.loopsLate s (moveBegins im e s) := by
      have read := tilesKept_trans (tilesKept_of_crests (but_countedRoute im e.route.toNat e.len.toNat s .crests rfl))
        (late_scanSpan e.src (64 * e.len.toNat) _)
      unfold moveBegins
      dsimp only
      split
      · exact read
      · exact read
    rw [transfer_moves go, moveFlits_good]
    exact tilesKept_trans begun (tilesKept_trans (tilesKept_foldl (late_moveGood s e) _ _) (tilesKept_of_crests (but_repairMarked e s _ .crests rfl)))
  · rw [transfer_stays go]
    exact tilesKept_refl _ s

theorem late_mirrorData (e : TrioExchange) (s : State) : tilesKept Crest.loopsLate s (mirrorData e s).2 := by
  have entry : ∀ (x : List (Option (List Byte)) × State) y, tilesKept Crest.loopsLate x.2 (mirrorEntry x y).2 := fun x y => by
    unfold mirrorEntry
    dsimp only
    split
    · exact tilesKept_refl _ _
    · exact late_scanSpan _ _ _
  have entries : ∀ l x, tilesKept Crest.loopsLate x.2 (List.foldl mirrorEntry x l).2 := fun l => by
    induction l with
    | nil => exact fun x => tilesKept_refl _ _
    | cons y l ih => exact fun x => tilesKept_trans (entry x y) (ih _)
  unfold mirrorData
  dsimp only
  split
  · exact tilesKept_trans (late_scanSpan _ _ s) (entries _ ([], _))
  · exact late_scanSpan _ _ s

theorem late_sendExchange (e : TrioExchange) (s : State) : tilesKept Crest.loopsLate s (sendExchange e s) := by
  have queued : ∀ type fs (u : State), tilesKept Crest.loopsLate u (queueFlits type fs u) := fun type fs u =>
    tilesKept_of_crests (but_queueFlits (W := 0x10000) (Within.self _) (.self _ u) .crests rfl)
  have forwarded : ∀ u v : State, tilesKept Crest.loopsLate v (forwardChanges u v) := fun u v =>
    tilesKept_of_crests (but_forwardChanges (W := 0x2000110002) (Within.self _) (.self _ v) .crests rfl)
  unfold sendExchange
  dsimp only
  split
  · exact tilesKept_refl _ s
  · split
    · exact tilesKept_of_crests (but_sendStatus (W := 0x4000010000) (Within.self _) (.self _ s) .crests rfl)
    · split
      · exact tilesKept_of_crests (but_sendAlign (W := 0x10000) (Within.self _) (.self _ s) .crests rfl)
      · split
        · exact tilesKept_trans (late_mirrorData e s) (queued _ _ _)
        · refine tilesKept_trans ?_ (tilesKept_trans (late_scanSpan _ _ _) (queued _ _ _))
          split
          · exact forwarded s (markTasks s)
          · exact tilesKept_refl _ s

theorem late_exchange (im : SchedImage) (s : State) (e : TrioExchange) : tilesKept Crest.loopsLate s (exchange im s e) := by
  unfold exchange
  split
  · exact tilesKept_refl _ s
  · exact tilesKept_trans (tilesKept_of_crests (but_countToSaddle (W := 0x2) (Within.self _) (.self _ s) .crests rfl)) (late_sendExchange e _)

theorem late_captureEntry (im : SchedImage) (s : State) (x : Capture × Nat) : tilesKept Crest.loopsLate s (captureEntry im s x) := by
  cases due : dueNow s x.1.t with
  | false => unfold captureEntry; rw [due]; exact tilesKept_refl _ s
  | true =>
    have begun : tilesKept Crest.loopsLate s (captureBegins im x.1 s) :=
      tilesKept_trans (tilesKept_of_crests (but_countToSaddle (W := 0x2) (Within.self _) (.self _ s) .crests rfl)) (late_scanSpan _ _ _)
    rw [captureEntry_due due]
    refine tilesKept_trans begun (tilesKept_of_crests ?_)
    exact but_capture (W := 0x400c000002) (Within.self _) (.self _ _) .crests rfl

theorem late_slotTransfers (im : SchedImage) (s : State) : tilesKept Crest.loopsLate s (slotTransfers im s) := by
  unfold slotTransfers
  dsimp only
  split
  · exact tilesKept_foldl (late_transfer im) _ s
  · split
    · exact tilesKept_foldl (late_transfer im) _ s
    · exact tilesKept_refl _ s

/-! ### The roster stays in the round -/

theorem roster_updLine {f : TrioLine → TrioLine} (p : TrioPort) (s : State) : (updLine p f s).trio.roster = s.trio.roster := by cases p <;> rfl

theorem roster_leaves (p : TrioPort) (st : Nat) (f : TrioOut) (s : State) : (leaves p st f s).trio.roster = s.trio.roster := by
  have sent : ∀ f x (u : State), (sendTrio p f x u).trio = u.trio := fun _ _ u => but_sendTrio (W := 0x2000100002) (Within.self _) (.self _ u) .trio rfl
  unfold leaves
  split
  · exact roster_updLine p s
  · unfold departs
    dsimp only
    rw [sent, roster_updLine, roster_updLine]

theorem roster_drainPort (now : Nat) (p : TrioPort) (n : Nat) (s : State) : (drainPort now p n s).trio.roster = s.trio.roster := by
  induction n generalizing s with
  | zero => rfl
  | succ n ih =>
    unfold drainPort
    split
    · rfl
    · dsimp only
      split
      · rfl
      · split
        · rw [ih, roster_leaves]
        · split
          · rw [ih, roster_leaves]
          · rfl

theorem roster_drainTrio (s : State) : (drainTrio s).trio.roster = s.trio.roster := by
  unfold drainTrio
  rw [roster_drainPort, roster_drainPort]

theorem roster_queueTrio (p : TrioPort) (type target : Byte) (o n : Nat) (b : Bool) (x : TrioPayload) (s : State) :
    (queueTrio p type target o n b x s).trio.roster = s.trio.roster := roster_updLine p s

/-- A span of a copy waits at the port toward its member. -/
def queueCopySpan (p : TrioPort) (m : Fin 3) (type : Byte) (addr : Word) (d : List Byte) (s : State) (x : Nat × Nat) : State :=
  queueTrio p type (BitVec.ofNat 8 m.val) 0 x.2 false
    (.bytes (bytesOf 4 (addr + BitVec.ofNat 32 (64 * x.1)).toNat ++ (d.drop (64 * x.1)).take (64 * x.2))) s

theorem roster_queueCopy (p : TrioPort) (m : Fin 3) (type : Byte) (addr : Word) (d : List Byte) (s : State) :
    (queueCopy p m type addr d s).trio.roster = s.trio.roster :=
  foldl_proj (fun u : State => u.trio.roster) (queueCopySpan p m type addr d) (fun u _ => roster_queueTrio p _ _ _ _ _ _ u) _ s

theorem roster_forwardBytes (a : Word) (d : List Byte) (s : State) : (forwardBytes a d s).trio.roster = s.trio.roster := by
  unfold forwardBytes
  split
  · rfl
  · split
    · rw [roster_drainTrio, roster_queueCopy]
    · rfl

theorem roster_forwardChanges (was s : State) : (forwardChanges was s).trio.roster = s.trio.roster := by
  unfold forwardChanges
  split
  · rfl
  · exact foldl_proj (fun u : State => u.trio.roster) _ (fun u a => roster_forwardBytes _ _ u) _ s

theorem roster_moveGood (was : State) (e : Transfer) (s : State) (k : Nat) : (moveGood was e s k).trio.roster = s.trio.roster := by
  have on : ∀ u, (forwardsOn was e k u).trio.roster = u.trio.roster := fun u => by
    unfold forwardsOn
    split
    · exact roster_forwardBytes _ _ u
    · rfl
  have put : (writeSpan (dstOf e k) (readFlit was (srcOf e k)) s).trio = s.trio := but_writeSpan (W := 0x2ca820) (Within.self _) (.self _ s) .trio rfl
  unfold moveGood
  rw [on, put]

theorem roster_transfer (im : SchedImage) (s : State) (e : Transfer) : (transfer im s e).trio.roster = s.trio.roster := by
  by_cases go : moves s e
  · rw [transfer_moves go, moveFlits_good, show (repairMarked e s _).trio = _ from but_repairMarked e s _ .trio rfl,
      foldl_proj (fun u : State => u.trio.roster) (moveGood s e) (roster_moveGood s e)]
    exact congrArg Trio.roster (but_moveBegins im e s .trio rfl)
  · rw [transfer_stays go]

theorem roster_slotTransfers (im : SchedImage) (s : State) : (slotTransfers im s).trio.roster = s.trio.roster := by
  unfold slotTransfers
  dsimp only
  split
  · exact foldl_proj (fun u : State => u.trio.roster) (transfer im) (roster_transfer im) _ s
  · split
    · exact foldl_proj (fun u : State => u.trio.roster) (transfer im) (roster_transfer im) _ s
    · rfl

theorem roster_queueFlits (type : Byte) (fs : List (Option (List Byte))) (s : State) : (queueFlits type fs s).trio.roster = s.trio.roster :=
  foldl_proj (fun u : State => u.trio.roster) (queueSpan type fs) (by exact fun _ _ => rfl) _ s

theorem roster_sendStatus (n : Nat) (s : State) : (sendStatus n s).trio.roster = s.trio.roster := by
  unfold sendStatus
  obtain ⟨d, eq⟩ := queueStatus_eq n (ownStatus s)
    (updTrio (fun t => { t with sentStatus := some (ownStatus s), forcesOut := [], forcesRefused := [] }) s)
  rw [eq]
  exact foldl_proj (fun u : State => u.trio.roster) (queueStatusSpan (ownStatus s) d) (by exact fun _ _ => rfl) _ _

/-- The alignment of a span waits at both ports. -/
def queueAlign (s : State) (x : Nat × Nat) : State :=
  queueTrio .b 1 0xFF x.1 x.2 true (.align (alignFor s .b)) (queueTrio .a 1 0xFF x.1 x.2 true (.align (alignFor s .a)) s)

theorem roster_sendAlign (n : Nat) (s : State) : (sendAlign n s).trio.roster = s.trio.roster :=
  foldl_proj (fun u : State => u.trio.roster) queueAlign (by exact fun _ _ => rfl) _ s

theorem roster_sendExchange (e : TrioExchange) (s : State) : (sendExchange e s).trio.roster = s.trio.roster := by
  have scanned : ∀ a n (u : State), (scanSpan a n u).trio = u.trio := fun _ _ u => but_scanSpan (W := 0x4004800022) (Within.self _) (.self _ u) .trio rfl
  unfold sendExchange
  dsimp only
  split
  · rfl
  · split
    · exact roster_sendStatus _ s
    · split
      · exact roster_sendAlign _ s
      · split
        · rw [roster_queueFlits]
          exact congrArg Trio.roster (but_mirrorData (W := 0x4004800022) (Within.self _) (.self _ s) .trio rfl)
        · rw [roster_queueFlits, scanned]
          split
          · exact roster_forwardChanges s (markTasks s)
          · rfl

theorem roster_exchange (im : SchedImage) (s : State) (e : TrioExchange) : (exchange im s e).trio.roster = s.trio.roster := by
  unfold exchange
  split
  · rfl
  · rw [roster_sendExchange]
    exact congrArg Trio.roster (but_countToSaddle (W := 0x2) (Within.self _) (.self _ s) .trio rfl)

/-! ### The slot in its parts -/

/-- What stands when slot `k` begins: the errors that have arisen, and what the slot before left to its end. -/
def slotBegun (im : SchedImage) (k : Nat) (us : List Upset) (s : State) : State :=
  endSlotWrites (us.foldl upset (reach (s.sched.roundNs + k * slotNsOf im) s))

/-- The slot begins. -/
def slotOpens (im : SchedImage) (k : Nat) (us : List Upset) (s : State) : State :=
  clearLate (updSched (fun x => { x with slot := BitVec.ofNat 20 k, slotBegun := true, canDone := [] }) (slotBegun im k us s))

/-- An engine takes its half for the slot's step. -/
def takeEngine (im : SchedImage) (s : State) (e : EngRef) : State := takeHalf im e.crest s e.eng

/-- The engines take their halves. -/
def slotHalves (im : SchedImage) (s : State) : State := (liveEngines s).foldl (takeEngine im) s

/-- Loads and unloads of a slot. -/
def slotImplied (im : SchedImage) (s : State) : State :=
  if computes s then im.engineSteps.foldl (impliedTransfers im) (slotHalves im s) else noneTaken s

/-- A slot up to its captures. -/
def slotLines (im : SchedImage) (s : State) : State := drainTrio (im.exchanges.foldl (exchange im) (slotTransfers im (slotImplied im s)))

/-- The captures of a slot. -/
def slotCaptures (im : SchedImage) (s : State) : State := if computes s then im.captures.zipIdx.foldl (captureEntry im) s else s

/-- The slot that begins next. -/
def nextSlot (s : State) : Nat := if s.sched.slotBegun then s.sched.slot.toNat + 1 else 0

theorem slotStart_begins {s : State} {im : SchedImage} (active : s.sched.active = some im) (running : s.sched.running = true)
    (inRound : nextSlot s < im.roundSlots.toNat) (us : List Upset) :
    slotStart us s = slotCaptures im (slotLines im (slotOpens im (nextSlot s) us s)) := by
  unfold slotStart
  rw [active]
  dsimp only
  rw [if_neg (by rw [running]; exact fun h => absurd (of_decide_eq_true h) (Nat.not_le.2 inRound))]
  rfl

theorem slotStart_past {s : State} {im : SchedImage} (active : s.sched.active = some im) (past : im.roundSlots.toNat ≤ nextSlot s) (us : List Upset) :
    slotStart us s = s := by
  unfold slotStart
  rw [active]
  dsimp only
  rw [if_pos (by rw [decide_eq_true (by exact past), Bool.or_true])]

theorem but_slotBegun (im : SchedImage) (k : Nat) (us : List Upset) (s : State) : But 0x40042ca032 s (slotBegun im k us s) :=
  but_endSlotWrites ((Within.self _).le rfl) (((but_reached _ s).mono ((Within.self _).le rfl)).trans ((but_upsets us _).mono ((Within.self _).le rfl)))

theorem staged_endSlotWrites (s : State) : (endSlotWrites s).staged = [] := by
  rw [endSlotWrites_eq]
  exact foldl_proj State.staged unstage (fun u x => but_writeFlit (W := 0x2c8020) (a := x.1) (d := x.2) (Within.self _) (.self _ u) .staged rfl) _ _

theorem but_slotImplied (im : SchedImage) (s : State) : But 0x4004808822 s (slotImplied im s) := by
  have taken : But 0x20 s (slotHalves im s) := but_foldl (fun _ _ h => but_takeHalf (Within.self _) h) (.self _ s)
  unfold slotImplied
  exact but_ite (but_foldl (fun _ _ h => but_impliedTransfers (Within.self _) h) (taken.mono ((Within.self _).le rfl)))
    (but_noneTaken ((Within.self _).le rfl) (.self _ s))

theorem but_slotLines (im : SchedImage) (s : State) : But 0x6004bda822 s (slotLines im s) := by
  have moved := but_slotTransfers (im := im) (Within.self _) ((but_slotImplied im s).mono ((Within.self 0x6004bda822).le rfl))
  exact but_drainTrio ((Within.self _).le rfl) (but_foldl (fun _ _ h => but_exchange ((Within.self _).le rfl) h) moved)

theorem but_slotCaptures (im : SchedImage) (s : State) : But 0x400c800022 s (slotCaptures im s) := by
  unfold slotCaptures
  exact but_ite (but_foldl (fun _ _ h => but_captureEntry (Within.self _) h) (.self _ s)) (.self _ s)

theorem sched_slot (im : SchedImage) (k : Nat) (us : List Upset) (s : State) :
    (slotCaptures im (slotLines im (slotOpens im k us s))).sched = (slotOpens im k us s).sched :=
  (but_slotCaptures im _ .sched rfl).trans (but_slotLines im _ .sched rfl)

theorem late_slotImplied (im : SchedImage) (s : State) : tilesKept Crest.loopsLate s (slotImplied im s) := by
  unfold slotImplied
  split
  · exact tilesKept_trans (tilesKept_foldl (by exact late_takeHalf im) _ s) (tilesKept_foldl (late_impliedTransfers im) _ _)
  · exact tilesKept_map (by exact fun _ => rfl)

theorem late_slot (im : SchedImage) (s : State) : tilesKept Crest.loopsLate s (slotCaptures im (slotLines im s)) := by
  have lines : tilesKept Crest.loopsLate s (slotLines im s) :=
    tilesKept_trans (late_slotImplied im s) (tilesKept_trans (late_slotTransfers im _) (tilesKept_trans (tilesKept_foldl (late_exchange im) _ _)
      (tilesKept_of_crests (but_drainTrio (W := 0x2000110002) (Within.self _) (.self _ _) .crests rfl))))
  refine tilesKept_trans lines ?_
  unfold slotCaptures
  split
  · exact tilesKept_foldl (late_captureEntry im) _ _
  · exact tilesKept_refl _ _

theorem roster_slot (im : SchedImage) (s : State) : (slotCaptures im (slotLines im s)).trio.roster = s.trio.roster := by
  rw [show (slotCaptures im (slotLines im s)).trio = (slotLines im s).trio from but_slotCaptures im _ .trio rfl]
  unfold slotLines
  rw [roster_drainTrio, foldl_proj (fun u : State => u.trio.roster) (exchange im) (roster_exchange im), roster_slotTransfers,
    show (slotImplied im s).trio = s.trio from but_slotImplied im s .trio rfl]

/-! ### A slot of a device that does not compute -/

/-- A tile none of whose engines has taken a half. -/
def untaken (t : Crest) : Crest := { t with engines := t.engines.map fun g => { g with taken := false } }

theorem engineAt_noneTaken (s : State) (e : EngRef) : engineAt (noneTaken s) e = { engineAt s e with taken := false } := by
  have tile : Vec.at (noneTaken s).crests e.crest = untaken (Vec.at s.crests e.crest) := Vector.getElem_map _ e.crest.isLt
  unfold engineAt
  rw [tile]
  exact Vector.getElem_map _ e.eng.isLt

theorem crest_clearLate (s : State) (c : Fin 6) : Vec.at (clearLate s).crests c = { Vec.at s.crests c with loopsLate := false } :=
  Vector.getElem_map _ c.isLt

theorem engineAt_clearLate (s : State) (e : EngRef) : engineAt (clearLate s) e = engineAt s e := by
  unfold engineAt
  rw [crest_clearLate]

theorem computes_of {s t : State} (run : t.run = s.run) (trio : t.trio = s.trio) : computes t = computes s := by
  unfold computes inTrio votes listening
  rw [run, trio]

theorem exchange_alone {s : State} (h : inTrio s = false) (im : SchedImage) (e : TrioExchange) : exchange im s e = s := by
  have silent : sendsKind s e.kind.toNat = false := by unfold sendsKind; rw [h]; rfl
  unfold exchange
  rw [silent]
  exact if_pos (by rw [Bool.not_false, Bool.or_true])

/-- A slot of a device alone that does not compute. -/
theorem slotLines_idle {s : State} (idle : computes s = false) (alone : inTrio s = false) (phase : s.trio.phase ≠ 3) (im : SchedImage) :
    slotLines im s = drainTrio (noneTaken s) := by
  have implied : slotImplied im s = noneTaken s := if_neg (by rw [idle]; decide)
  have transfers : slotTransfers im (noneTaken s) = noneTaken s := by
    have still : computes (noneTaken s) = false := (computes_of rfl rfl).trans idle
    unfold slotTransfers
    rw [still]
    exact (if_neg (by decide)).trans (if_neg phase)
  have silent : im.exchanges.foldl (exchange im) (noneTaken s) = noneTaken s := by
    induction im.exchanges with
    | nil => rfl
    | cons e l ih => rw [List.foldl_cons, exchange_alone (by exact alone), ih]
  unfold slotLines
  rw [implied, transfers, silent]

theorem slot_idle {s : State} (idle : computes s = false) (alone : inTrio s = false) (phase : s.trio.phase ≠ 3) (im : SchedImage) :
    slotCaptures im (slotLines im s) = drainTrio (noneTaken s) := by
  have stopped : computes (drainTrio (noneTaken s)) = false := by
    have run : (drainTrio (noneTaken s)).run = s.run := but_drainTrio (W := 0x2000110002) (Within.self _) (.self _ _) .run rfl
    have state : (s.run.state == .running) = false := by
      unfold computes at idle
      rw [alone] at idle
      simpa using idle
    unfold computes
    rw [run, state]
    rfl
  rw [slotLines_idle idle alone phase]
  exact if_neg (by rw [stopped]; decide)

theorem slotBegun_nothingStaged {s : State} (h : s.staged = []) (im : SchedImage) (k : Nat) (us : List Upset) :
    (slotBegun im k us s).run = s.run ∧ (slotBegun im k us s).pool = s.pool ∧ ∀ e, engineAt (slotBegun im k us s) e = engineAt s e := by
  have arisen : But 0x4004000032 s (us.foldl upset (reach (s.sched.roundNs + k * slotNsOf im) s)) :=
    ((but_reached _ s).mono ((Within.self _).le rfl)).trans ((but_upsets us _).mono ((Within.self _).le rfl))
  have none_ : (us.foldl upset (reach (s.sched.roundNs + k * slotNsOf im) s)).staged = [] := (arisen .staged rfl).trans h
  have eq : slotBegun im k us s = { us.foldl upset (reach (s.sched.roundNs + k * slotNsOf im) s) with staged := [] } := by
    unfold slotBegun
    rw [endSlotWrites_eq, none_]
    rfl
  rw [eq]
  exact ⟨arisen .run rfl, arisen .pool rfl, fun e => (engineAt_of_core (coreKept_upsets us _) e).trans (engineAt_of_crests (but_reached _ s .crests rfl) e)⟩

/-! ### SLOT_START -/

/-- What a slot's move list does, taken in its order (R45). -/
theorem slot_inOrder {im : SchedImage} {k : Nat} (us : List Upset) (s : State) :
    let t := slotCaptures im (slotLines im (slotOpens im k us s))
    let begun := slotBegun im k us s
    let due (u : State) := im.transfers.filter fun e => dueNow u e.t
    ∃ u0 u1 u2 u3 u4 u5,
      u0.sched = t.sched ∧ u0.tb = (reach (s.sched.roundNs + k * slotNsOf im) s).tb ∧ u0.pool = s.pool ∧ u0.staged = [] ∧
      (∀ c, Vec.at u0.crests c = { Vec.at begun.crests c with loopsLate := false }) ∧ { u0 with sched := s.sched, crests := begun.crests } = begun ∧
      (computes u0 = true → inTurn (takesHalf im) (engineOrder u0) u0 u1 ∧ inTurn (impliedMoves im) im.engineSteps u1 u2) ∧
      (computes u0 = false → (∀ e, engineAt u2 e = { engineAt u0 e with taken := false }) ∧ { u2 with crests := u0.crests } = u0) ∧
      (computes u2 = true → inTurn moved (due u2) u2 u3) ∧
      (computes u2 = false → u2.trio.phase = 3 → inTurn moved ((due u2).filter fun e => match moveFrom e with
        | .mirror _ _ => true
        | _ => false) u2 u3) ∧
      (computes u2 = false → u2.trio.phase ≠ 3 → u3 = u2) ∧
      inTurn exchanged im.exchanges u3 u4 ∧ u5 = drainTrio u4 ∧
      (computes u5 = true → inTurn (captured im) im.captures.zipIdx u5 t) ∧ (computes u5 = false → t = u5) := by
  intro t begun due
  have same := but_slotBegun im k us s
  have kept : (slotBegun im k us s).sched = s.sched := same .sched rfl
  have begunTb : (slotBegun im k us s).tb = (reach (s.sched.roundNs + k * slotNsOf im) s).tb :=
    (but_endSlotWrites (W := 0x2ca020) (Within.self _) (.self _ _) .tb rfl).trans (but_upsets us _ .tb rfl)
  refine ⟨slotOpens im k us s, slotHalves im (slotOpens im k us s), slotImplied im (slotOpens im k us s),
    slotTransfers im (slotImplied im (slotOpens im k us s)),
    im.exchanges.foldl (exchange im) (slotTransfers im (slotImplied im (slotOpens im k us s))), slotLines im (slotOpens im k us s),
    (sched_slot im k us s).symm, begunTb, same .pool rfl, staged_endSlotWrites _, crest_clearLate _, ?_, fun on => ⟨?_, ?_⟩, fun off => ⟨fun e => ?_, ?_⟩,
    fun on => ?_, fun off copying => ?_, fun off other => ?_, inTurn_foldl (exchanged_exchange im) _ _, rfl, fun on => ?_, fun off => ?_⟩
  · exact congrArg (fun x : Sched => { slotBegun im k us s with sched := x }) kept.symm
  · exact inTurn_foldl (f := takeEngine im) (fun u e => takesHalf_takeHalf im e u) _ _
  · rw [show slotImplied im _ = _ from if_pos on]
    exact inTurn_foldl (impliedMoves_impliedTransfers im) _ _
  · rw [show slotImplied im _ = _ from if_neg (by rw [off]; decide)]
    exact engineAt_noneTaken _ e
  · rw [show slotImplied im _ = _ from if_neg (by rw [off]; decide)]
    rfl
  · rw [show slotTransfers im _ = _ from if_pos on]
    exact inTurn_foldl (moved_transfer im) _ _
  · rw [show slotTransfers im _ = _ from (if_neg (by rw [off]; decide)).trans (if_pos copying)]
    exact inTurn_foldl (moved_transfer im) _ _
  · exact (if_neg (by rw [off]; decide)).trans (if_neg other)
  · rw [show t = _ from if_pos on]
    exact inTurn_foldl (captured_captureEntry im) _ _
  · exact if_neg (by rw [off]; decide)

/-- A slot in which a device alone does not compute and nothing waits leaves the pool and the halves as they are. -/
theorem slot_untouched {s : State} (idle : computes s = false) (alone : inTrio s = false) (phase : s.trio.phase ≠ 3) (none_ : s.staged = [])
    (im : SchedImage) (k : Nat) (us : List Upset) :
    (slotCaptures im (slotLines im (slotOpens im k us s))).pool = s.pool ∧
      ∀ e, engineAt (slotCaptures im (slotLines im (slotOpens im k us s))) e = { engineAt s e with taken := false } := by
  obtain ⟨run, pool, engines⟩ := slotBegun_nothingStaged none_ im k us
  have trio : (slotOpens im k us s).trio = s.trio := but_slotBegun im k us s .trio rfl
  have drained : But 0x2000110002 (noneTaken (slotOpens im k us s)) (drainTrio (noneTaken (slotOpens im k us s))) :=
    but_drainTrio (Within.self _) (.self _ _)
  rw [slot_idle ((computes_of (by exact run) trio).trans idle) (by unfold inTrio at alone ⊢; rw [trio]; exact alone) (by rw [trio]; exact phase)]
  refine ⟨(drained .pool rfl).trans pool, fun e => ?_⟩
  rw [engineAt_of_crests (drained .crests rfl), engineAt_noneTaken, show engineAt (slotOpens im k us s) e = engineAt s e from
    (engineAt_clearLate _ e).trans (engines e)]

theorem late_slotOpens (im : SchedImage) (k : Nat) (us : List Upset) (s : State) (c : Fin 6) :
    (Vec.at (slotOpens im k us s).crests c).loopsLate = false := by
  unfold slotOpens
  rw [crest_clearLate]

theorem roster_slotStart (im : SchedImage) (k : Nat) (us : List Upset) (s : State) :
    (slotCaptures im (slotLines im (slotOpens im k us s))).trio.roster = s.trio.roster :=
  (roster_slot im _).trans (congrArg Trio.roster (but_slotBegun im k us s .trio rfl : (slotOpens im k us s).trio = s.trio))

theorem sched_slotStart (im : SchedImage) (k : Nat) (us : List Upset) (s : State) :
    (slotCaptures im (slotLines im (slotOpens im k us s))).sched = { s.sched with slot := BitVec.ofNat 20 k, slotBegun := true, canDone := [] } :=
  (sched_slot im k us s).trans (congrArg (fun x : Sched => { x with slot := BitVec.ofNat 20 k, slotBegun := true, canDone := [] })
    (but_slotBegun im k us s .sched rfl))

/-! ### The writes that end with a slot (R134, R319) -/

/-- A flit takes effect. -/
def tookEffect (x : Word × List Byte) (u v : State) : Prop := v = writeFlit x.1 x.2 u

theorem inTurn_endSlotWrites (s : State) : inTurn (fun x u v => v = writeFlit x.1 x.2 u) s.staged { s with staged := [] } (endSlotWrites s) := by
  rw [endSlotWrites_eq]
  have step : ∀ u x, tookEffect x u (unstage u x) := fun u x => by unfold tookEffect unstage; rfl
  exact inTurn_foldl step s.staged { s with staged := [] }

theorem writeFlit_loop {x : Word} {c : Fin 6} (tile : epTile x = c.val + 1) (d : List Byte) (s : State) :
    (Vec.at (writeFlit x d s).crests c).loop.mem = memWrite (Vec.at s.crests c).loop.mem (epOff x) d := by
  have put : writeFlit x d s = loopPut c (epOff x) d s := by
    unfold writeFlit
    dsimp only
    rw [if_neg (by omega), crest?_some (c := c) (by omega)]
  rw [put]
  unfold loopPut loopWritten updLoop
  rw [at_updCrest, if_pos rfl, at_updCrest, if_pos rfl]

theorem writeFlit_can {x : Word} {c : Fin 16} (saddle : epTile x = 0) (low : 0x3200000 + 0x2000 * c.val ≤ epOff x)
    (high : epOff x < 0x3202000 + 0x2000 * c.val) (d : List Byte) (s : State) :
    (Vec.at (writeFlit x d s).cans c).txData = memWrite (Vec.at s.cans c).txData (epOff x % 0x2000) d := by
  have can : (epOff x - 0x3200000) / 0x2000 = c.val := by omega
  have put : writeFlit x d s = updCan c (fun y => { y with txData := memWrite y.txData (epOff x % 0x2000) d }) s := by
    unfold writeFlit
    dsimp only
    rw [if_pos saddle]
    unfold writeSaddle
    rw [if_neg (by simp; omega), dif_pos ⟨by omega, by omega⟩]
    exact congrArg (fun i => updCan i (fun y => { y with txData := memWrite y.txData (epOff x % 0x2000) d }) s) (Fin.ext can)
  rw [put]
  unfold updCan
  rw [Vec.at_upd_same]

/-- What a write leaves: its bytes, and every other byte as it was. -/
theorem written {m m' : Memory} {a : Nat} {d : List Byte} (eq : m' = memWrite m a d) (wf : memWf m = true) :
    (∀ k, k < d.length → memGet m' (a + k) = d.getD k 0) ∧ sameOutside m m' a (a + d.length) := by
  rw [eq]
  refine ⟨fun k hk => ?_, sameOutside_write a d wf⟩
  rw [memGet_write _ _ _ wf, if_pos (by omega), Nat.add_sub_cancel_left]

end Sys2Proof.Machine

/-! Proofs about STEP_START (R65, R71, R132, R133). -/
namespace Sys2Proof.Machine
open Sys2Proof.Stmt

/-! ### An engine starts its step (R65, R71) -/

/-- A tile without its engines. -/
def unengined (t : Crest) : Crest := { t with engines := Vector.replicate 18 {} }

/-- An engine whose step starts: the start state of Table 3.1. -/
def begunEngine (d : StepDesc) (slot : BitVec 20) (l now : Nat) (g : Engine) : Engine :=
  { g with
    regs := Vector.replicate 32 0, pc := 0, acc := 0, mode := 0x14, modeWritten := 0x14, modeNext := none
    flags := 0, loops := [], delay := none, jumped := false
    run := some ⟨d, slot, BitVec.ofNat 4 l, now⟩ }

/-- An engine whose step does not start has its half back. -/
def halfBack (g : Engine) : Engine := { g with half := !g.half, half0 := g.half1, half1 := g.half0, taken := false }

/-- An engine at a step start. -/
def startedEngine (im : SchedImage) (e : EngRef) (s : State) : Engine :=
  let g := engineAt s e
  if g.taken then (startable im e (curHalf g) s).elim (halfBack g) fun x => begunEngine x.2 s.sched.slot x.1 (schedNow s) g else g

/-- One engine starts. -/
def startEngine (im : SchedImage) (s : State) (e : EngRef) : State := startStep im e.crest s e.eng

theorem but_startEngine (im : SchedImage) (s : State) (e : EngRef) : But 0x22 s (startEngine im s e) := but_startStep (Within.self _) (.self _ s)

theorem tilesKept_startEngine (im : SchedImage) (s : State) (e : EngRef) : tilesKept unengined s (startEngine im s e) := by
  unfold startEngine startStep
  dsimp only
  split
  · exact tilesKept_refl _ s
  · split
    · exact tilesKept_updEngine (by exact fun _ _ => rfl) _ _ s
    · exact tilesKept_trans (tilesKept_updEngine (by exact fun _ _ => rfl) _ _ s) (tilesKept_of_crests (bump_crests _ _ _ _))

theorem engineAt_startEngine (im : SchedImage) (s : State) (e : EngRef) : engineAt (startEngine im s e) e = startedEngine im e s := by
  unfold startEngine startStep startedEngine
  dsimp only
  cases (engineAt s e).taken with
  | false => rfl
  | true =>
    rw [if_neg (by decide), if_pos rfl]
    cases startable im e (curHalf (engineAt s e)) s with
    | none => exact engineAt_upd e _ s
    | some x => exact (engineAt_of_crests (bump_crests _ _ _ _) e).trans (engineAt_upd e _ s)

theorem engineAt_startEngine_ne (im : SchedImage) (s : State) {e y : EngRef} (ne : y ≠ e) : engineAt (startEngine im s e) y = engineAt s y := by
  unfold startEngine startStep
  dsimp only
  split
  · rfl
  · split
    · exact engineAt_upd_ne e y _ s ne
    · exact (engineAt_of_crests (bump_crests _ _ _ _) y).trans (engineAt_upd_ne e y _ s ne)

theorem startable_congr {im : SchedImage} {e : EngRef} {h : Half} {s t : State} (tiles : tilesKept unengined s t) (sched : t.sched = s.sched)
    (run : t.run = s.run) : startable im e h t = startable im e h s := by
  have map : (Vec.at t.crests e.crest).map = (Vec.at s.crests e.crest).map := (congrArg Crest.map (tiles e.crest) :)
  have retired : (Vec.at t.crests e.crest).retired = (Vec.at s.crests e.crest).retired := (congrArg Crest.retired (tiles e.crest) :)
  have out : ∀ d, stepOut t d = stepOut s d := fun d => by unfold stepOut taskOut taskRt; rw [run]
  unfold startable logicalOf entryAt
  dsimp only
  simp only [map, retired, sched, out]

theorem startedEngine_congr {im : SchedImage} {e : EngRef} {s t : State} (tiles : tilesKept unengined s t) (engine : engineAt t e = engineAt s e)
    (sched : t.sched = s.sched) (run : t.run = s.run) (tb : t.tb = s.tb) : startedEngine im e t = startedEngine im e s := by
  unfold startedEngine schedNow
  dsimp only
  rw [engine, startable_congr tiles sched run, sched, tb]

theorem engineAt_startEngines_out {im : SchedImage} {l : List EngRef} {e : EngRef} (out : e ∉ l) (s : State) :
    engineAt (l.foldl (startEngine im) s) e = engineAt s e := by
  induction l generalizing s with
  | nil => rfl
  | cons y l ih =>
    rw [List.foldl_cons, ih (fun h => out (List.mem_cons_of_mem _ h)), engineAt_startEngine_ne im s (List.ne_of_not_mem_cons out)]

theorem engineAt_startEngines {im : SchedImage} {l : List EngRef} (nodup : l.Nodup) {e : EngRef} (here : e ∈ l) (s : State) :
    engineAt (l.foldl (startEngine im) s) e = startedEngine im e s := by
  induction l generalizing s with
  | nil => cases here
  | cons y l ih =>
    obtain ⟨out, nodup⟩ := List.nodup_cons.1 nodup
    rw [List.foldl_cons]
    by_cases same : e = y
    · rw [same, engineAt_startEngines_out out, engineAt_startEngine]
    · have frame := but_startEngine im s y
      rw [ih nodup ((List.mem_cons.1 here).resolve_left same)]
      exact startedEngine_congr (tilesKept_startEngine im s y) (engineAt_startEngine_ne im s same) (frame .sched rfl) (frame .run rfl) (frame .tb rfl)

theorem presentCrests_nodup (s : State) : (presentCrests s).Nodup := (List.nodup_finRange 6).filter _

theorem mem_presentCrests {s : State} {c : Fin 6} : c ∈ presentCrests s ↔ c.val < s.part.crests := by
  unfold presentCrests
  rw [List.mem_filter, decide_eq_true_eq]
  exact and_iff_right (List.mem_finRange c)

/-- The engines of some tiles. -/
def enginesOf (l : List (Fin 6)) : List EngRef := l.flatMap fun c => (List.finRange 18).map fun i => ⟨c, i⟩

theorem enginesOf_nodup {l : List (Fin 6)} (nodup : l.Nodup) : (enginesOf l).Nodup := by
  unfold enginesOf
  refine List.nodup_flatMap.2 ⟨fun c _ => (List.nodup_finRange 18).map fun i j h => (EngRef.mk.inj h).2, nodup.imp fun {c d} ne e hc hd => ?_⟩
  obtain ⟨i, _, rfl⟩ := List.mem_map.1 hc
  obtain ⟨j, _, eq⟩ := List.mem_map.1 hd
  exact ne (EngRef.mk.inj eq).1.symm

theorem mem_enginesOf {l : List (Fin 6)} {e : EngRef} (h : e.crest ∈ l) : e ∈ enginesOf l :=
  List.mem_flatMap.2 ⟨e.crest, h, List.mem_map.2 ⟨e.eng, List.mem_finRange _, rfl⟩⟩

theorem liveEngines_nodup (s : State) : (liveEngines s).Nodup := enginesOf_nodup ((presentCrests_nodup s).filter _)

theorem mem_liveEngines {s : State} {e : EngRef} (here : e.crest.val < s.part.crests) (on : crestOn s e.crest = true) : e ∈ liveEngines s :=
  mem_enginesOf (List.mem_filter.2 ⟨mem_presentCrests.2 here, on⟩)

/-! ### What the loop steps of a tile leave alone -/

/-- A tile's engines, and whether its loop steps are late. -/
def stepsOf (t : Crest) : Vec Engine 18 × Bool := (t.engines, t.loopsLate)

/-- The engines, the late marks and the power domains are the same. -/
def stepsKept (s t : State) : Prop := tilesKept stepsOf s t ∧ t.super.pd = s.super.pd

theorem stepsKept_refl (s : State) : stepsKept s s := ⟨tilesKept_refl _ s, rfl⟩

theorem stepsKept_trans {s t u : State} (h : stepsKept s t) (k : stepsKept t u) : stepsKept s u := ⟨tilesKept_trans h.1 k.1, k.2.trans h.2⟩

theorem stepsKept_of_but {W : Nat} {s t : State} (h : But W s t) (crests : W.testBit 5 = false) (super : W.testBit 23 = false) : stepsKept s t :=
  ⟨tilesKept_of_crests (h .crests crests), congrArg Super.pd (h .super super)⟩

theorem stepsKept_updCrest {f : Crest → Crest} (hf : ∀ x, stepsOf (f x) = stepsOf x) (c : Fin 6) (s : State) : stepsKept s (updCrest c f s) :=
  ⟨tilesKept_updCrest hf c s, rfl⟩

theorem stepsKept_updLoop (c : Fin 6) (f : LoopArray → LoopArray) (s : State) : stepsKept s (updLoop c f s) :=
  stepsKept_updCrest (by exact fun _ => rfl) c s

theorem stepsKept_foldl {α : Type} {f : State → α → State} (h : ∀ s x, stepsKept s (f s x)) (l : List α) (s : State) : stepsKept s (l.foldl f s) :=
  ⟨tilesKept_foldl (fun s x => (h s x).1) l s, foldl_proj (fun t : State => t.super.pd) f (fun s x => (h s x).2) l s⟩

theorem stepsKept_checkRecords (c : Fin 6) (ls : List (BitVec 10)) (s : State) : stepsKept s (checkRecords c ls s) := by
  have word : ∀ s x, stepsKept s (foundWord s x) := fun s x => ⟨tilesKept_of_core (coreKept_foundWord s x) (fun _ => rfl), pd_foundWord s x⟩
  have corrected : ∀ (s : State) (l : BitVec 10), stepsKept s (correctLoop c (l.toNat * 256) 256 s) := fun s l => stepsKept_updCrest (by exact fun _ => rfl) c s
  exact stepsKept_trans (stepsKept_foldl corrected ls s) (stepsKept_foldl word _ _)

theorem stepsKept.updLoop {s t : State} (h : stepsKept s t) (c : Fin 6) (f : LoopArray → LoopArray) : stepsKept s (updLoop c f t) :=
  stepsKept_trans h (stepsKept_updLoop c f t)

theorem stepsKept.writeDone {s t : State} (h : stepsKept s t) (c : Fin 6) : stepsKept s (writeDone c t) :=
  stepsKept_trans h (stepsKept_of_but (but_writeDone (W := 0x4004000002) (Within.self _) (.self _ t)) rfl rfl)

theorem stepsKept.bump {s t : State} (h : stepsKept s t) (pg : Page) (code n : Nat) : stepsKept s (bump pg code n t) :=
  stepsKept_trans h (stepsKept_of_but (but_bump (W := 0x2) (Within.self _) (.self _ t)) rfl rfl)

theorem stepsKept.raise {s t : State} (h : stepsKept s t) (pg : Page) (bit : Nat) (ten : Option (BitVec 3)) (ps : Params) :
    stepsKept s (raise pg bit ten ps t) :=
  stepsKept_trans h (stepsKept_of_but (but_raise (W := 0x4004000002) (Within.self _) (.self _ t)) rfl rfl)

theorem stepsKept.noteConds {s t : State} (h : stepsKept s t) (pgs : List Page) (was : State) : stepsKept s (noteConds pgs was t) :=
  stepsKept_trans h (stepsKept_of_but (but_noteConds (W := 0x4004000002) (Within.self _) (.self _ t)) rfl rfl)

theorem stepsKept.ite {s t u : State} {p : Prop} [Decidable p] (h : stepsKept s t) (k : stepsKept s u) : stepsKept s (if p then t else u) := by
  split
  · exact h
  · exact k

theorem stepsKept.decideWrite {s t : State} (h : stepsKept s t) (c : Fin 6) : stepsKept s (decideWrite c t) := by
  have taken : ∀ l ws u, stepsKept u (takeParams c l ws u) := fun l ws u => by
    unfold takeParams loopWritten
    exact stepsKept_trans (stepsKept_updLoop c _ u) (stepsKept_updCrest (by exact fun _ => rfl) c _)
  unfold Machine.decideWrite
  dsimp only
  split
  · exact h
  · refine stepsKept.writeDone ?_ c
    split
    · exact stepsKept_trans (h.updLoop c _) (taken _ _ _)
    · exact h.updLoop c _

/-- One record of a group is traced and counted. -/
def recordTraced (c : Fin 6) (a0 : LoopArray) (time : DWord) (s : State) (j : BitVec 10) : State :=
  let a := (Vec.at s.crests c).loop
  let r := traceStep a0 j time a
  let s := bump (.loopArray c) 0x12 (if r.1.trcNext == a.trcNext then 0 else 1) (updLoop c (fun _ => r.1) s)
  let s := if r.2.1 then raise (.loopArray c) 1 none .unstated s else s
  if r.2.2 then raise (.loopArray c) 2 none .unstated s else s

theorem stepsKept_recordTraced (c : Fin 6) (a0 : LoopArray) (time : DWord) (s : State) (j : BitVec 10) :
    stepsKept s (recordTraced c a0 time s j) := by
  have counted : ∀ a n, stepsKept s (bump (.loopArray c) 0x12 n (updLoop c (fun _ => a) s)) := fun a n => (stepsKept_updLoop c _ s).bump _ _ _
  unfold recordTraced
  dsimp only
  exact .ite ((stepsKept.ite ((counted _ _).raise _ _ _ _) (counted _ _)).raise _ _ _ _) (.ite ((counted _ _).raise _ _ _ _) (counted _ _))

/-- The group of a loop steps, in a state whose records are checked. -/
def groupSteps (im : SchedImage) (c : Fin 6) (slots : List (BitVec 10)) (g : List (BitVec 10)) (l : BitVec 10) (again : Bool) (s : State) : State :=
  let a0 := (Vec.at s.crests c).loop
  let h := if again then 0 else hSlots im c l s.sched.round.toNat s.sched.slot.toNat * slotNsOf im
  let a1 := if cfgGroupEn (cfgOf a0 l) then groupStep slots h g l a0 else loopStep slots h l a0
  let s1 := noteConds [.loopArray c] s (updLoop c (fun _ => a1) s)
  let s1 := bump (.loopArray c) 0x11 (g.countP fun j => (lrec a1 j 0x60).getLsbD 11) (bump (.loopArray c) 0x10 g.length s1)
  g.foldl (recordTraced c a0 (slotStartTime s)) s1

theorem stepsKept_groupSteps (im : SchedImage) (c : Fin 6) (slots : List (BitVec 10)) (g : List (BitVec 10)) (l : BitVec 10) (again : Bool) (s : State) :
    stepsKept s (groupSteps im c slots g l again s) := by
  unfold groupSteps
  dsimp only
  refine stepsKept_trans ?_ (stepsKept_foldl (stepsKept_recordTraced c _ _) g _)
  exact (((stepsKept_updLoop c _ s).noteConds _ _).bump _ _ _).bump _ _ _

/-- A loop's entry leaves alone the engines and whether the tile's loop steps are late. -/
theorem stepsKept_runLoopEntry (c : Fin 6) (l : BitVec 10) (again : Bool) (s : State) : stepsKept s (runLoopEntry c l again s) := by
  unfold runLoopEntry
  dsimp only
  split
  · exact stepsKept_refl s
  next im _ =>
    refine .ite (stepsKept_refl s) (.ite (stepsKept_checkRecords _ _ s) ?_)
    refine stepsKept_trans ?_ (stepsKept_groupSteps im c (loopSlots s c) (groupOf (Vec.at s.crests c).loop (loopSlots s c) l) l again _)
    exact stepsKept.updLoop (.ite ((stepsKept_checkRecords _ _ s).decideWrite c) (stepsKept_checkRecords _ _ s)) c _

/-! ### The loop steps of the tiles in table order (R132, R133) -/

/-- How many of a tile's loop steps end by the deadline. -/
def endedOf (im : SchedImage) (ended : Vec (Option (BitVec 7)) 6) (c : Fin 6) (s : State) : Nat :=
  (Vec.at ended c).elim (loopsDue im s c).length fun n => n.toNat

/-- A tile's loop steps are marked as late or not. -/
def lateMarked (im : SchedImage) (ended : Vec (Option (BitVec 7)) 6) (c : Fin 6) (s : State) : State :=
  updCrest c (fun t => { t with loopsLate := decide (endedOf im ended c s < (loopsDue im s c).length) }) s

/-- One entry of a tile's loop steps; `due` lists the tile's entries of the slot. -/
def entryRun (c : Fin 6) (due : List LoopStep) (s : State) (x : LoopStep × Nat) : State :=
  runLoopEntry c x.1.loop ((due.take x.2).any fun y => y.loop == x.1.loop) s

/-- A loop's entry has stepped. -/
def entryStepped (c : Fin 6) (due : List LoopStep) (x : LoopStep × Nat) (s t : State) : Prop :=
  t = runLoopEntry c x.1.loop ((due.take x.2).any fun y => y.loop == x.1.loop) s

theorem loopEntries_live {im : SchedImage} {ended : Vec (Option (BitVec 7)) 6} {c : Fin 6} {s : State} (live : crestLive s c = true) :
    loopEntries im ended s c = ((loopsDue im s c).take (endedOf im ended c s)).zipIdx.foldl (entryRun c (loopsDue im s c)) (lateMarked im ended c s) := by
  unfold loopEntries
  rw [live]
  rfl

theorem loopEntries_off {im : SchedImage} {ended : Vec (Option (BitVec 7)) 6} {c : Fin 6} {s : State} (off : crestLive s c = false) :
    loopEntries im ended s c = s := by
  unfold loopEntries
  rw [off]
  rfl

theorem loopsStepped_loopEntries (im : SchedImage) (ended : Vec (Option (BitVec 7)) 6) (s : State) (c : Fin 6) :
    loopsStepped im ended c s (loopEntries im ended s c) := by
  refine ⟨loopEntries_off, fun live => ⟨lateMarked im ended c s, fun d => ?_, rfl, ?_⟩⟩
  · unfold lateMarked
    rw [at_updCrest]
    by_cases same : d = c
    · rw [if_pos same, if_pos same, same]
      rfl
    · rw [if_neg same, if_neg same]
  rw [loopEntries_live live]
  exact inTurn_foldl (R := entryStepped c (loopsDue im s c)) (f := entryRun c (loopsDue im s c)) (fun _ _ => by unfold entryStepped entryRun; rfl) _ _

/-- What the loop steps of a tile keep of every tile. -/
theorem loopEntries_steps {im : SchedImage} {ended : Vec (Option (BitVec 7)) 6} {c : Fin 6} {s : State} (live : crestLive s c = true) :
    stepsKept (lateMarked im ended c s) (loopEntries im ended s c) := by
  rw [loopEntries_live live]
  exact stepsKept_foldl (fun s x => stepsKept_runLoopEntry c _ _ s) _ _

theorem but_loopEntry (im : SchedImage) (ended : Vec (Option (BitVec 7)) 6) (s : State) (c : Fin 6) : But 0x4004800022 s (loopEntries im ended s c) :=
  but_loopEntries (Within.self _) (.self _ s)

theorem engines_loopEntries (im : SchedImage) (ended : Vec (Option (BitVec 7)) 6) (s : State) (c : Fin 6) :
    tilesKept Crest.engines s (loopEntries im ended s c) ∧ (loopEntries im ended s c).super.pd = s.super.pd := by
  cases live : crestLive s c with
  | false => rw [loopEntries_off live]; exact ⟨tilesKept_refl _ s, rfl⟩
  | true =>
    obtain ⟨tiles, pd⟩ := loopEntries_steps (im := im) (ended := ended) live
    exact ⟨tilesKept_trans (tilesKept_updCrest (by exact fun _ => rfl) c s) fun d => (congrArg Prod.fst (tiles d) :), pd⟩

theorem crestLive_loopEntries (im : SchedImage) (ended : Vec (Option (BitVec 7)) 6) (s : State) (c d : Fin 6) :
    crestLive (loopEntries im ended s c) d = crestLive s d := by
  unfold crestLive crestOn
  rw [(engines_loopEntries im ended s c).2, show (loopEntries im ended s c).part = s.part from but_loopEntry im ended s c .part rfl]

/-- Whether a tile's loop steps are late after its entries, and after those of another tile. -/
theorem late_loopEntries {im : SchedImage} {ended : Vec (Option (BitVec 7)) 6} {s : State} {c : Fin 6} (live : crestLive s c = true) :
    (Vec.at (loopEntries im ended s c).crests c).loopsLate = decide (endedOf im ended c s < (loopsDue im s c).length) := by
  have kept : (Vec.at (loopEntries im ended s c).crests c).loopsLate = (Vec.at (lateMarked im ended c s).crests c).loopsLate :=
    (congrArg Prod.snd ((loopEntries_steps (im := im) (ended := ended) live).1 c) :)
  rw [kept]
  unfold lateMarked
  rw [at_updCrest, if_pos rfl]

theorem late_loopEntries_ne (im : SchedImage) (ended : Vec (Option (BitVec 7)) 6) (s : State) {c d : Fin 6} (ne : d ≠ c) :
    (Vec.at (loopEntries im ended s c).crests d).loopsLate = (Vec.at s.crests d).loopsLate := by
  cases live : crestLive s c with
  | false => rw [loopEntries_off live]
  | true =>
    have kept : (Vec.at (loopEntries im ended s c).crests d).loopsLate = (Vec.at (lateMarked im ended c s).crests d).loopsLate :=
      (congrArg Prod.snd ((loopEntries_steps (im := im) (ended := ended) live).1 d) :)
    rw [kept]
    unfold lateMarked
    rw [at_updCrest, if_neg ne]

theorem loopsDue_of_sched {s t : State} (h : t.sched = s.sched) (im : SchedImage) (c : Fin 6) : loopsDue im t c = loopsDue im s c := by
  unfold loopsDue dueNow
  rw [h]

theorem late_tiles_out {im : SchedImage} {ended : Vec (Option (BitVec 7)) 6} {l : List (Fin 6)} {c : Fin 6} (out : c ∉ l) (s : State) :
    (Vec.at (l.foldl (loopEntries im ended) s).crests c).loopsLate = (Vec.at s.crests c).loopsLate := by
  induction l generalizing s with
  | nil => rfl
  | cons d l ih => rw [List.foldl_cons, ih (fun h => out (List.mem_cons_of_mem _ h)), late_loopEntries_ne im ended s (List.ne_of_not_mem_cons out)]

theorem late_tiles {im : SchedImage} {ended : Vec (Option (BitVec 7)) 6} {l : List (Fin 6)} (nodup : l.Nodup) {c : Fin 6} (here : c ∈ l) {s : State}
    (live : crestLive s c = true) : (Vec.at (l.foldl (loopEntries im ended) s).crests c).loopsLate =
      decide (endedOf im ended c s < (loopsDue im s c).length) := by
  induction l generalizing s with
  | nil => cases here
  | cons d l ih =>
    obtain ⟨out, nodup⟩ := List.nodup_cons.1 nodup
    rw [List.foldl_cons]
    by_cases same : c = d
    · subst same
      rw [late_tiles_out out, late_loopEntries live]
    · have due := loopsDue_of_sched (but_loopEntry im ended s d .sched rfl) im c
      rw [ih nodup ((List.mem_cons.1 here).resolve_left same) (by rw [crestLive_loopEntries]; exact live)]
      unfold endedOf
      rw [due]

theorem endedOf_lt {im : SchedImage} {ended : Vec (Option (BitVec 7)) 6} {c : Fin 6} {s : State} :
    endedOf im ended c s < (loopsDue im s c).length ↔ ∃ n, Vec.at ended c = some n ∧ n.toNat < (loopsDue im s c).length := by
  unfold endedOf
  cases Vec.at ended c with
  | none => simp
  | some n => simp

/-! ### STEP_START -/

/-- What stands when the steps of the slot start: the errors that have arisen. -/
def stepOpens (im : SchedImage) (us : List Upset) (s : State) : State :=
  us.foldl upset (reach (s.sched.roundNs + s.sched.slot.toNat * slotNsOf im + 40) s)

/-- The engines have started their steps. -/
def stepEngines (im : SchedImage) (us : List Upset) (s : State) : State :=
  (liveEngines (stepOpens im us s)).foldl (startEngine im) (stepOpens im us s)

/-- The loop steps have started too. -/
def stepLoops (im : SchedImage) (us : List Upset) (ended : Vec (Option (BitVec 7)) 6) (s : State) : State :=
  (presentCrests (stepEngines im us s)).foldl (loopEntries im ended) (stepEngines im us s)

theorem stepStart_begins {s : State} {im : SchedImage} (active : s.sched.active = some im) (running : s.sched.running = true)
    (begun : s.sched.slotBegun = true) (on : computes s = true) (us : List Upset) (ended : Vec (Option (BitVec 7)) 6) :
    stepStart us ended s = stepLoops im us ended s := by
  unfold stepStart
  rw [active]
  dsimp only
  rw [running, begun, on]
  rfl

theorem but_stepOpens (im : SchedImage) (us : List Upset) (s : State) : But 0x4004000032 s (stepOpens im us s) :=
  ((but_reached _ s).mono ((Within.self _).le rfl)).trans ((but_upsets us _).mono ((Within.self _).le rfl))

theorem core_stepOpens (im : SchedImage) (us : List Upset) (s : State) : tilesKept tileCore s (stepOpens im us s) :=
  tilesKept_trans (tilesKept_of_crests (but_reached _ s .crests rfl)) (coreKept_upsets us _)

theorem but_stepEngines (im : SchedImage) (us : List Upset) (s : State) : But 0x22 (stepOpens im us s) (stepEngines im us s) :=
  but_foldl (fun u e h => h.trans (but_startEngine im u e)) (.self _ _)

theorem unengined_stepEngines (im : SchedImage) (us : List Upset) (s : State) : tilesKept unengined (stepOpens im us s) (stepEngines im us s) :=
  tilesKept_foldl (tilesKept_startEngine im) _ _

theorem but_stepLoops (im : SchedImage) (us : List Upset) (ended : Vec (Option (BitVec 7)) 6) (s : State) :
    But 0x4004800022 (stepEngines im us s) (stepLoops im us ended s) :=
  but_foldl (fun _ _ h => but_loopEntries (Within.self _) h) (.self _ _)

theorem but_stepEngines_start (im : SchedImage) (us : List Upset) (s : State) : But 0x4004000032 s (stepEngines im us s) :=
  (but_stepOpens im us s).trans ((but_stepEngines im us s).mono ((Within.self _).le rfl))

theorem presentCrests_of_part {s t : State} (h : t.part = s.part) : presentCrests t = presentCrests s := by
  unfold presentCrests
  rw [h]

theorem loop_stepEngines (im : SchedImage) (us : List Upset) (s : State) (c : Fin 6) :
    (Vec.at (stepEngines im us s).crests c).loop = (Vec.at s.crests c).loop :=
  (congrArg Crest.loop (unengined_stepEngines im us s c) :).trans (congrArg Crest.loop (core_stepOpens im us s c) :)

theorem inTurn_stepLoops (im : SchedImage) (us : List Upset) (ended : Vec (Option (BitVec 7)) 6) (s : State) :
    inTurn (loopsStepped im ended) (presentCrests s) (stepEngines im us s) (stepLoops im us ended s) := by
  rw [← presentCrests_of_part (but_stepEngines_start im us s .part rfl)]
  exact inTurn_foldl (loopsStepped_loopEntries im ended) _ _

theorem engineAt_of_engines {s t : State} (h : tilesKept Crest.engines s t) (e : EngRef) : engineAt t e = engineAt s e := by
  unfold engineAt
  rw [h]

theorem engineAt_stepLoops (im : SchedImage) (us : List Upset) (ended : Vec (Option (BitVec 7)) 6) (s : State) (e : EngRef) :
    engineAt (stepLoops im us ended s) e = engineAt (stepEngines im us s) e :=
  engineAt_of_engines (tilesKept_foldl (fun u c => (engines_loopEntries im ended u c).1) _ _) e

theorem crestLive_stepEngines (im : SchedImage) (us : List Upset) (s : State) (c : Fin 6) : crestLive (stepEngines im us s) c = crestLive s c := by
  have frame := but_stepEngines_start im us s
  unfold crestLive crestOn
  rw [show (stepEngines im us s).part = s.part from frame .part rfl, show (stepEngines im us s).super = s.super from frame .super rfl]

theorem late_stepLoops {s : State} {c : Fin 6} (live : crestLive s c = true) (im : SchedImage) (us : List Upset) (ended : Vec (Option (BitVec 7)) 6) :
    (Vec.at (stepLoops im us ended s).crests c).loopsLate = true ↔ ∃ n, Vec.at ended c = some n ∧ n.toNat < (loopsDue im s c).length := by
  have frame := but_stepEngines_start im us s
  have here : c ∈ presentCrests (stepEngines im us s) := by
    rw [mem_presentCrests, show (stepEngines im us s).part = s.part from frame .part rfl]
    unfold crestLive at live
    exact of_decide_eq_true (Bool.and_eq_true_iff.1 live).1
  unfold stepLoops
  rw [late_tiles (presentCrests_nodup _) here (by rw [crestLive_stepEngines]; exact live), decide_eq_true_eq, endedOf_lt,
    loopsDue_of_sched (frame .sched rfl)]

/-- The step that an engine has in the slot, as it stands in its tables. -/
def stepAt (im : SchedImage) (s : State) (e : EngRef) (l : Nat) (x : EngineStep) : Prop :=
  logicalOf (Vec.at s.crests e.crest) e.eng = some l ∧ entryAt s im e.crest l s.sched.slot.toNat = some x

theorem startable_at {im : SchedImage} {e : EngRef} {h : Half} {s : State} {l : Nat} {x : EngineStep} (at_ : stepAt im s e l x) :
    startable im e h s = if (Vec.at s.crests e.crest).retired.getLsbD e.eng.val = false ∧ stepOut s (descAt im x) = false ∧ h.desc = some (descAt im x)
      then some (l, descAt im x) else none := by
  obtain ⟨logical, entry⟩ := at_
  unfold startable
  dsimp only
  rw [logical, Option.bind_some, entry, Option.map_some, Option.filter_some]
  exact if_congr (by simp [and_assoc]) rfl rfl

/-- An engine of a tile that is ON, once the steps of the slot have started. -/
theorem engineAt_started {s : State} {e : EngRef} (here : e.crest.val < s.part.crests) (on : crestOn s e.crest = true) (im : SchedImage)
    (us : List Upset) (ended : Vec (Option (BitVec 7)) 6) : engineAt (stepLoops im us ended s) e = startedEngine im e (stepOpens im us s) := by
  have frame := but_stepOpens im us s
  rw [engineAt_stepLoops]
  refine engineAt_startEngines (liveEngines_nodup _) (mem_liveEngines ?_ ?_) _
  · rw [show (stepOpens im us s).part = s.part from frame .part rfl]
    exact here
  · unfold crestOn at on ⊢
    rw [show (stepOpens im us s).super = s.super from frame .super rfl]
    exact on

theorem startable_stepOpens (im : SchedImage) (us : List Upset) (s : State) (e : EngRef) (h : Half) :
    startable im e h (stepOpens im us s) = startable im e h s := by
  have frame := but_stepOpens im us s
  have map : (Vec.at (stepOpens im us s).crests e.crest).map = (Vec.at s.crests e.crest).map := (congrArg Crest.map (core_stepOpens im us s e.crest) :)
  have retired := retired_of_core (core_stepOpens im us s) e.crest
  have out : ∀ d, stepOut (stepOpens im us s) d = stepOut s d := fun d => by
    unfold stepOut taskOut taskRt
    rw [show (stepOpens im us s).run = s.run from frame .run rfl]
  unfold startable logicalOf entryAt
  dsimp only
  simp only [map, retired, out, show (stepOpens im us s).sched = s.sched from frame .sched rfl]

theorem startedEngine_taken {im : SchedImage} {us : List Upset} {s : State} {e : EngRef} {l : Nat} {x : EngineStep} (at_ : stepAt im s e l x)
    (taken : (engineAt s e).taken = true) : startedEngine im e (stepOpens im us s) =
      if (Vec.at s.crests e.crest).retired.getLsbD e.eng.val = false ∧ stepOut s (descAt im x) = false ∧
        (curHalf (engineAt s e)).desc = some (descAt im x)
      then begunEngine (descAt im x) s.sched.slot l (schedNow (stepOpens im us s)) (engineAt s e) else halfBack (engineAt s e) := by
  have engine := engineAt_of_core (core_stepOpens im us s) e
  have sched : (stepOpens im us s).sched = s.sched := but_stepOpens im us s .sched rfl
  unfold startedEngine
  dsimp only
  rw [engine, taken, if_pos rfl, startable_stepOpens, startable_at at_, sched]
  split <;> rfl

theorem startedEngine_idle {im : SchedImage} {us : List Upset} {s : State} {e : EngRef} (idle : (engineAt s e).taken = false) :
    startedEngine im e (stepOpens im us s) = engineAt s e := by
  unfold startedEngine
  dsimp only
  rw [engineAt_of_core (core_stepOpens im us s) e, idle, if_neg (by decide)]

/-- The start state of Table 3.1. -/
theorem begunEngine_starts (d : StepDesc) (slot : BitVec 20) (l now : Nat) (h : Engine) :
    let g := begunEngine d slot l now h
    (∀ r, getReg g r = 0) ∧ g.pc = 0 ∧ g.acc = 0 ∧ g.mode = 0x14 ∧ g.modeNext = none ∧ g.flags = 0 ∧ g.loops = [] ∧ g.delay = none ∧
      (∃ r, g.run = some r ∧ r.desc = d ∧ r.slot = slot ∧ r.logical.toNat = l % 16) ∧ sameHalves { h with run := g.run } g := by
  refine ⟨fun r => ?_, rfl, rfl, rfl, rfl, rfl, rfl, rfl, ⟨_, rfl, rfl, rfl, rfl⟩, rfl, rfl, rfl, rfl, rfl, rfl⟩
  unfold getReg begunEngine
  simp

/-- Every engine that has a step in the slot, and its tile's loop steps, after STEP_START. -/
theorem stepLoops_engines (im : SchedImage) (us : List Upset) (ended : Vec (Option (BitVec 7)) 6) {s : State} {e : EngRef} {l : Nat} {x : EngineStep}
    (here : e.crest.val < s.part.crests) (on : crestOn s e.crest = true) (at_ : stepAt im s e l x) :
    let t := stepLoops im us ended s
    ((Vec.at t.crests e.crest).loopsLate = true ↔ ∃ n, Vec.at ended e.crest = some n ∧ n.toNat < (loopsDue im s e.crest).length) ∧
    ((engineAt s e).taken = true →
      (Vec.at s.crests e.crest).retired.getLsbD e.eng.val = false → stepOut s (descAt im x) = false →
      (curHalf (engineAt s e)).desc = some (descAt im x) →
      let g := engineAt t e
      (∀ r, getReg g r = 0) ∧ g.pc = 0 ∧ g.acc = 0 ∧ g.mode = 0x14 ∧ g.modeNext = none ∧ g.flags = 0 ∧ g.loops = [] ∧ g.delay = none ∧
      (∃ r, g.run = some r ∧ r.desc = descAt im x ∧ r.slot = s.sched.slot ∧ r.logical.toNat = l % 16) ∧
      sameHalves { engineAt s e with run := g.run } g) ∧
    ((engineAt s e).taken = true → (Vec.at s.crests e.crest).retired.getLsbD e.eng.val = true ∨ stepOut s (descAt im x) = true →
      engineAt t e = { engineAt s e with
        half := !(engineAt s e).half, half0 := (engineAt s e).half1, half1 := (engineAt s e).half0, taken := false }) ∧
    ((engineAt s e).taken = false → engineAt t e = engineAt s e) := by
  have started := engineAt_started here on im us ended
  refine ⟨late_stepLoops ?_ im us ended, fun taken sound going holds => ?_, fun taken out => ?_, fun idle => started.trans (startedEngine_idle idle)⟩
  · unfold crestLive
    rw [decide_eq_true here, on]
    rfl
  · have begun := started.trans ((startedEngine_taken at_ taken).trans (if_pos ⟨sound, going, holds⟩))
    rw [begun]
    exact begunEngine_starts _ _ _ _ _
  · refine started.trans ((startedEngine_taken at_ taken).trans (if_neg ?_))
    rintro ⟨sound, going, -⟩
    obtain retired | stopped := out
    · rw [sound] at retired; cases retired
    · rw [going] at stopped; cases stopped

end Sys2Proof.Machine

/-! Proofs about SLOT_DEADLINE (R86, R118, R133). -/
namespace Sys2Proof.Machine
open Sys2Proof.Stmt

/-! ### The overrun watchdog (R118) -/

/-- The overrun watchdog has stopped the controller in the slot of `s`, for cause `k`. -/
structure Overran (s : State) (k : BitVec 2) (t : State) : Prop where
  slot : t.run.ovrSlot = s.sched.slot
  frame : t.run.ovrFrame = s.sched.frame
  cause : t.run.ovrCause = k
  state : t.run.state = .stopped
  phase : t.trio.phase = 0
  urgent : t.super.urgent.getLsbD 13 = true
  raw : (hdrAt t .runControl).raw.getLsbD 1 = true

/-- A running device that is in no trio, in the slot of `s`. -/
structure Ready (s t : State) : Prop where
  state : t.run.state = .running
  alone : inTrio t = false
  sched : t.sched = s.sched

/-- What RUN_OVR shows, and the tasks. -/
def ovrOf (s : State) : BitVec 20 × DWord × BitVec 2 × List TaskRt := (s.run.ovrSlot, s.run.ovrFrame, s.run.ovrCause, s.run.tasks)

theorem ovrOf_of_but {W : Nat} {s t : State} (h : But W s t) (run : W.testBit 15 = false) : ovrOf t = ovrOf s := by
  unfold ovrOf
  rw [h .run run]

theorem ovrOf_stopController (st : RunState) (keepSingle noHold : Bool) (s : State) : ovrOf (stopController st keepSingle noHold s) = ovrOf s := by
  have safe : ∀ u, ovrOf (safeOutputs keepSingle u) = ovrOf u := fun u => ovrOf_of_but (but_safeOutputs (Within.self _) (.self _ u)) rfl
  have slots : ∀ u (c : Fin 16), ovrOf (cancelSlots u c) = ovrOf u := fun u _ => ovrOf_of_but (but_cancelSlots (Within.self _) (.self _ u)) rfl
  have funcs : ∀ u c, ovrOf (stopFunc noHold u c) = ovrOf u := fun u _ => ovrOf_of_but (but_stopFunc (Within.self _) (.self _ u)) rfl
  have sched : ∀ u, ovrOf (cancelSched none u) = ovrOf u := fun u => ovrOf_of_but (but_cancelSched (Within.self _) (.self _ u)) rfl
  have raised : ∀ u, ovrOf (raise .runControl 5 none .unstated u) = ovrOf u := fun u => ovrOf_of_but (but_raise (Within.self _) (.self _ u)) rfl
  have app : ∀ u, ovrOf (cancelApp none u) = ovrOf u := fun u => by
    unfold cancelApp
    split
    · exact raised _
    · rfl
  unfold stopController
  rw [safe, foldl_proj ovrOf cancelSlots slots, foldl_proj ovrOf (stopFunc noHold) funcs, app, sched]
  rfl

theorem phase_dropRejoin (s : State) : (dropRejoin s).trio.phase = 0 := by
  unfold dropRejoin
  split
  next h =>
    rw [Bool.and_eq_true, decide_eq_true_eq] at h
    exact h.1
  next => rw [raise_trio]

/-- RUN_OVR tells of an overrun in the present slot. -/
def ovrNoted (c : Nat) (l : BitVec 4) (k : BitVec 2) (s : State) : State :=
  { s with run := { s.run with
    ovrSlot := s.sched.slot, ovrCrest := BitVec.ofNat 3 c, ovrLogical := l, ovrCause := k
    ovrFrame := s.sched.frame } }

theorem overrun_ready {s t : State} (h : Ready s t) (c : Nat) (l : BitVec 4) (k : BitVec 2) : overrun c l k t =
    dropRejoin (stopController .stopped false false (raiseUrgent .runControl 1 509 none .unstated (ovrNoted c l k t))) := by
  have still : inTrio (raiseUrgent .runControl 1 509 none .unstated (ovrNoted c l k t)) = false := by
    unfold inTrio
    rw [raiseUrgent_trio]
    exact h.alone
  have running : (t.run.state == .stopped) = false := by rw [h.state]; rfl
  unfold overrun
  rw [running, Bool.false_and, if_neg (by decide)]
  refine if_neg ?_
  rw [show inTrio (raiseUrgent .runControl 1 509 none .unstated { t with run := _ }) = false from still]
  exact Bool.false_ne_true

theorem overran_overrun {s t : State} (h : Ready s t) (c : Nat) (l : BitVec 4) (k : BitVec 2) : Overran s k (overrun c l k t) := by
  let told := raiseUrgent .runControl 1 509 none .unstated (ovrNoted c l k t)
  have raw : (hdrAt told .runControl).raw.getLsbD 1 = true := raiseSev_sets _ _ _ _ _ _ (by decide)
  have urgent_ : told.super.urgent.getLsbD 13 = true := by
    show (raiseUrgent .runControl 1 509 none .unstated (ovrNoted c l k t)).super.urgent.getLsbD 13 = true
    unfold raiseUrgent
    rw [raiseSev_super]
    exact setBit_getLsbD_same _ _ (by decide)
  have run : (overrun c l k t).run = (stopController .stopped false false told).run := by
    rw [overrun_ready h]
    exact but_dropRejoin (W := 0x4004010002) (Within.self _) (.self _ _) .run rfl
  have view : ovrOf (stopController .stopped false false told) = ovrOf (ovrNoted c l k t) :=
    (ovrOf_stopController _ _ _ _).trans (ovrOf_of_but (but_raiseUrgent (W := 0x4004800002) (Within.self _) (.self _ _)) rfl)
  have slot : (stopController .stopped false false told).run.ovrSlot = t.sched.slot := (congrArg (fun x => x.1) view :)
  have frame : (stopController .stopped false false told).run.ovrFrame = t.sched.frame := (congrArg (fun x => x.2.1) view :)
  refine ⟨by rw [run, slot, h.sched], by rw [run, frame, h.sched], ?_, by rw [run]; exact stopController_state _ _ _ _, ?_, ?_, ?_⟩
  · rw [run]
    exact (congrArg (fun x => x.2.2.1) view :)
  · rw [overrun_ready h]
    exact phase_dropRejoin _
  · rw [overrun_ready h]
    exact urgentKept_dropRejoin _ _ (urgentKept_stopController _ _ _ _ _ urgent_)
  · rw [overrun_ready h]
    exact rawKept_dropRejoin _ _ _ ((failedBy_stopController _ _ _ _).raw _ _ raw)

theorem Overran.again {s t : State} {k : BitVec 2} (h : Overran s k t) (c : Nat) (l : BitVec 4) (j : BitVec 2) : overrun c l j t = t := by
  unfold overrun
  exact if_pos (by rw [h.state, h.phase]; decide)

theorem taskFrame_overrun {s t : State} (h : Ready s t) (c : Nat) (l : BitVec 4) (k : BitVec 2) : TaskFrame t (overrun c l k t) := by
  rw [overrun_ready h]
  refine ⟨?_, ?_, fun a b left => ?_⟩
  · exact (but_dropRejoin (W := 0x4004010002) (Within.self _) (.self _ _) .crests rfl).trans
      ((but_stopController (W := 0x4004a6c802) (Within.self _) (.self _ _) .crests rfl).trans (raiseUrgent_crests _ _ _ _ _ _))
  · exact rawKept_trans (rawKept_trans (rawKept_of_hdrs (s := t) (t := ovrNoted c l k t) rfl) (rawKept_raiseUrgent _ _ _ _ _ _))
      (rawKept_trans (failedBy_stopController _ _ _ _).raw (rawKept_dropRejoin _))
  · have run := but_dropRejoin (W := 0x4004010002) (Within.self _) (.self _ (stopController .stopped false false
      (raiseUrgent .runControl 1 509 none .unstated (ovrNoted c l k t)))) .run rfl
    have view : ovrOf (stopController .stopped false false (raiseUrgent .runControl 1 509 none .unstated (ovrNoted c l k t))) = ovrOf (ovrNoted c l k t) :=
      (ovrOf_stopController _ _ _ _).trans (ovrOf_of_but (but_raiseUrgent (W := 0x4004800002) (Within.self _) (.self _ _)) rfl)
    have tasks : (dropRejoin (stopController .stopped false false (raiseUrgent .runControl 1 509 none .unstated (ovrNoted c l k t)))).run.tasks = t.run.tasks :=
      (congrArg RunCtl.tasks run).trans (congrArg (fun x => x.2.2.2) view :)
    unfold taskRt at left ⊢
    rw [tasks]
    exact left

/-! ### An engine that is late (R86) -/

/-- An engine that an exception has stopped. -/
def stoppedEngine (x : XRecord) (g : Engine) : Engine := { g with x := x, run := none, delay := none, modeNext := none, loops := [] }

/-- An exception that does not retire its engine changes of the tiles that engine alone. -/
theorem tileFrame_engineX (e : EngRef) {cause : Nat} (spares : sparesEngine cause) (addr : Word) (trap : BitVec 5) (d : Option StepDesc)
    (el : BitVec 16) (s : State) :
    TileFrame e.crest (fun t => { t with engines := Vec.upd t.engines e.eng (stoppedEngine (mkRecord s (engineAt s e) cause addr trap d el)) }) s
      (engineX e cause addr trap d el s) := by
  have upd := tileFrame_updCrest e.crest
    (fun t => { t with engines := Vec.upd t.engines e.eng (stoppedEngine (mkRecord s (engineAt s e) cause addr trap d el)) }) s
  unfold engineX
  dsimp only
  rw [if_neg (by rw [spares]; decide)]
  refine upd.trans (.trans ?_ (taskFrame_abandonStep _ _ _))
  have raised := (taskFrame_bump (.engine e.crest) 0x12 1 (updEngine e (stoppedEngine (mkRecord s (engineAt s e) cause addr trap d el)) s)).trans
    (taskFrame_raise (.engine e.crest) 0 (d.map fun d => d.tenant) .unstated _)
  split
  · exact raised.trans (taskFrame_raise _ _ _ _ _)
  · exact raised

/-- DEADLINE is latched. -/
theorem engineX_deadline (e : EngRef) (addr : Word) (trap : BitVec 5) (d : Option StepDesc) (el : BitVec 16) (s : State) :
    (hdrAt (engineX e xDeadline addr trap d el s) (.engine e.crest)).raw.getLsbD 7 = true := by
  unfold engineX
  dsimp only
  rw [if_neg (by decide), if_pos (by decide)]
  exact (taskFrame_abandonStep _ _ _).raw _ _ (raise_sets _ _ _ _ _ (by decide))

/-- One engine at the deadline. -/
def lateEngine (s : State) (e : EngRef) : State := engineLate e.crest s e.eng

theorem lateEngine_idle {s : State} {e : EngRef} (h : (engineAt s e).run = none) : lateEngine s e = s := by
  unfold lateEngine engineLate
  dsimp only
  rw [h]

theorem lateEngine_late {s : State} {e : EngRef} {r : StepRun} (h : (engineAt s e).run = some r) : lateEngine s e =
    overrun e.crest.val r.logical 1 (engineX e xDeadline 0 0 (some r.desc) (elapsedNow s (engineAt s e)) s) := by
  unfold lateEngine engineLate
  dsimp only
  rw [h]

/-- What an engine's lateness may change: no latched bit and no abandoned task is lost, and no engine is retired. -/
structure LateFrame (s t : State) : Prop where
  raw : rawKept s t
  tasks : ∀ a b, (taskRt s a b).abandoned = true → (taskRt t a b).abandoned = true
  retired : tilesKept Crest.retired s t

theorem LateFrame.self (s : State) : LateFrame s s := ⟨rawKept_refl s, fun _ _ h => h, tilesKept_refl _ s⟩

theorem LateFrame.trans {s t u : State} (h : LateFrame s t) (k : LateFrame t u) : LateFrame s u :=
  ⟨rawKept_trans h.raw k.raw, fun a b x => k.tasks a b (h.tasks a b x), tilesKept_trans h.retired k.retired⟩

theorem lateFrame_of_task {s t : State} (h : TaskFrame s t) : LateFrame s t := ⟨h.raw, h.tasks, tilesKept_of_crests h.crests⟩

theorem lateFrame_engineX (e : EngRef) (d : Option StepDesc) (el : BitVec 16) (s : State) : LateFrame s (engineX e xDeadline 0 0 d el s) :=
  have frame := tileFrame_engineX e (cause := xDeadline) rfl 0 0 d el s
  ⟨frame.raw, frame.tasks, tilesKept_engineX (fun _ _ => rfl) e (cause := xDeadline) rfl _ _ _ _ _⟩

/-- Run control without its tasks. -/
def untasked (s : State) : RunCtl := { s.run with tasks := [] }

theorem untasked_of_run {s t : State} (h : t.run = s.run) : untasked t = untasked s := by unfold untasked; rw [h]

theorem untasked_abandonStep (d : Option StepDesc) (p : Bool) (s : State) : untasked (abandonStep d p s) = untasked s := by
  unfold abandonStep
  split
  · unfold abandonTask
    split
    · rfl
    · refine (untasked_of_run (bump_run _ _ _ _)).trans ?_
      rfl
  · rfl

theorem untasked_engineX (e : EngRef) (addr : Word) (trap : BitVec 5) (d : Option StepDesc) (el : BitVec 16) (s : State) :
    untasked (engineX e xDeadline addr trap d el s) = untasked s := by
  have raised : ∀ bit ten (u : State), untasked (raise (.engine e.crest) bit ten .unstated u) = untasked u := fun _ _ u =>
    untasked_of_run (raise_run _ _ _ _ _)
  unfold engineX
  dsimp only
  rw [if_neg (by decide), if_pos (by decide), untasked_abandonStep, raised, raised, untasked_of_run (bump_run _ _ _ _)]
  rfl

/-- The device in the slot of `s` before or after an engine's lateness has stopped it. -/
def atDeadline (s t : State) : Prop := Ready s t ∨ Overran s 1 t

theorem atDeadline_engineX {s t : State} (h : atDeadline s t) (e : EngRef) (d : Option StepDesc) (el : BitVec 16) :
    atDeadline s (engineX e xDeadline 0 0 d el t) := by
  have frame : But 0x4004008022 t (engineX e xDeadline 0 0 d el t) := but_engineX (Within.self _) (.self _ t)
  have trio : (engineX e xDeadline 0 0 d el t).trio = t.trio := frame .trio rfl
  have beside := untasked_engineX e 0 0 d el t
  have state : (engineX e xDeadline 0 0 d el t).run.state = t.run.state := (congrArg RunCtl.state beside :)
  obtain ready | stopped := h
  · refine .inl ⟨state.trans ready.state, ?_, (frame .sched rfl).trans ready.sched⟩
    unfold inTrio
    rw [trio]
    exact ready.alone
  · refine .inr ⟨(congrArg RunCtl.ovrSlot beside :).trans stopped.slot, (congrArg RunCtl.ovrFrame beside :).trans stopped.frame,
      (congrArg RunCtl.ovrCause beside :).trans stopped.cause, state.trans stopped.state, by rw [trio]; exact stopped.phase, ?_,
      (lateFrame_engineX e d el t).raw _ _ stopped.raw⟩
    rw [show (engineX e xDeadline 0 0 d el t).super = t.super from frame .super rfl]
    exact stopped.urgent

/-- After an overrun by an engine. -/
theorem atDeadline_overrun {s t : State} (h : atDeadline s t) (c : Nat) (l : BitVec 4) :
    Overran s 1 (overrun c l 1 t) ∧ TaskFrame t (overrun c l 1 t) := by
  obtain ready | stopped := h
  · exact ⟨overran_overrun ready c l 1, taskFrame_overrun ready c l 1⟩
  · rw [stopped.again]
    exact ⟨stopped, .self t⟩

/-- What an engine that is late leaves. -/
theorem lateEngine_stops {s t : State} (h : atDeadline s t) {e : EngRef} {r : StepRun} (run : (engineAt t e).run = some r) :
    Overran s 1 (lateEngine t e) ∧ LateFrame t (lateEngine t e) ∧ (∀ y, y ≠ e → engineAt (lateEngine t e) y = engineAt t y) ∧
      raisesX e 7 0 t (lateEngine t e) ∧ (hdrAt (lateEngine t e) (.engine e.crest)).raw.getLsbD 7 = true := by
  have eq := lateEngine_late run
  obtain ⟨stopped, frame⟩ := atDeadline_overrun (atDeadline_engineX h e (some r.desc) (elapsedNow t (engineAt t e))) e.crest.val r.logical
  obtain ⟨own, others, raw, task, -⟩ := engineX_spec e xDeadline 0 0 (some r.desc) (elapsedNow t (engineAt t e)) t
  rw [← eq] at stopped frame
  have engines : ∀ y, engineAt (lateEngine t e) y = engineAt (engineX e xDeadline 0 0 (some r.desc) (elapsedNow t (engineAt t e)) t) y :=
    engineAt_of_crests frame.crests
  refine ⟨stopped, (lateFrame_engineX e _ _ t).trans (lateFrame_of_task frame), fun y ne => (engines y).trans (others y ne), ?_,
    frame.raw _ _ (engineX_deadline e 0 0 _ _ t)⟩
  unfold raisesX
  dsimp only
  rw [engines, own]
  refine ⟨rfl, rfl, rfl, fun inStep => ?_, rfl, rfl, fun _ => rfl, rfl, rfl, rfl, rfl, frame.raw _ _ raw, fun d hd => ?_⟩
  · show (mkRecord t (engineAt t e) xDeadline 0 0 (some r.desc) _).pc = _
    unfold mkRecord
    dsimp only
    rw [inStep, if_pos rfl]
  · rw [run] at hd
    exact frame.tasks _ _ (task d (by rw [← hd]; rfl))

theorem lateEngine_any {s t : State} (h : atDeadline s t) (e : EngRef) :
    atDeadline s (lateEngine t e) ∧ LateFrame t (lateEngine t e) ∧ ∀ y, y ≠ e → engineAt (lateEngine t e) y = engineAt t y := by
  cases run : (engineAt t e).run with
  | none =>
    rw [lateEngine_idle run]
    exact ⟨h, .self t, fun _ _ => rfl⟩
  | some r =>
    obtain ⟨stopped, frame, others, -⟩ := lateEngine_stops h run
    exact ⟨.inr stopped, frame, others⟩

theorem lateEngines_out {s t : State} (h : atDeadline s t) {l : List EngRef} {e : EngRef} (out : e ∉ l) :
    atDeadline s (l.foldl lateEngine t) ∧ LateFrame t (l.foldl lateEngine t) ∧ engineAt (l.foldl lateEngine t) e = engineAt t e := by
  induction l generalizing t with
  | nil => exact ⟨h, .self t, rfl⟩
  | cons y l ih =>
    obtain ⟨at_, frame, others⟩ := lateEngine_any h y
    obtain ⟨atL, frameL, sameL⟩ := ih at_ (fun hl => out (List.mem_cons_of_mem _ hl))
    exact ⟨atL, frame.trans frameL, sameL.trans (others e (List.ne_of_not_mem_cons out))⟩

theorem overran_lateEngines {s t : State} (h : Overran s 1 t) (l : List EngRef) : Overran s 1 (l.foldl lateEngine t) := by
  induction l generalizing t with
  | nil => exact h
  | cons y l ih =>
    refine ih ?_
    cases run : (engineAt t y).run with
    | none => rwa [lateEngine_idle run]
    | some r => exact (lateEngine_stops (.inr h) run).1

/-- An exception of an engine as seen later. -/
theorem raisesX_later {e : EngRef} {cause : BitVec 4} {addr : Word} {s s' t t' : State} (h : raisesX e cause addr s t)
    (before : engineAt s' e = engineAt s e) (after : engineAt t' e = engineAt t e) (frame : LateFrame t t') : raisesX e cause addr s' t' := by
  unfold raisesX at h ⊢
  dsimp only at h ⊢
  rw [before, after]
  obtain ⟨run, x, addr, pc, seen, mode, regs, acc, flags, half0, half1, raw, task⟩ := h
  exact ⟨run, x, addr, pc, seen, mode, regs, acc, flags, half0, half1, frame.raw _ _ raw, fun d hd => frame.tasks _ _ (task d hd)⟩

/-- A late engine among others. -/
theorem lateEngines_stop {s t : State} (h : atDeadline s t) {l : List EngRef} (nodup : l.Nodup) {e : EngRef} (here : e ∈ l) {r : StepRun}
    (run : (engineAt t e).run = some r) : Overran s 1 (l.foldl lateEngine t) ∧ LateFrame t (l.foldl lateEngine t) ∧
      raisesX e 7 0 t (l.foldl lateEngine t) ∧ (hdrAt (l.foldl lateEngine t) (.engine e.crest)).raw.getLsbD 7 = true := by
  obtain ⟨l1, l2, rfl⟩ := List.append_of_mem here
  obtain ⟨-, nodup2, apart⟩ := List.nodup_append.1 nodup
  have out1 : e ∉ l1 := fun h1 => apart e h1 e List.mem_cons_self rfl
  have out2 : e ∉ l2 := (List.nodup_cons.1 nodup2).1
  obtain ⟨at1, frame1, same1⟩ := lateEngines_out h out1
  obtain ⟨stopped, frame, -, raises, raw⟩ := lateEngine_stops at1 (e := e) (r := r) (by rw [same1]; exact run)
  obtain ⟨-, frame2, same2⟩ := lateEngines_out (.inr stopped) out2
  rw [List.foldl_append, List.foldl_cons]
  exact ⟨overran_lateEngines stopped l2, frame1.trans (frame.trans frame2), raisesX_later raises same1.symm same2 frame2, frame2.raw _ _ raw⟩

/-! ### SLOT_DEADLINE -/

/-- A tile whose scheduled transfer has not ended stops the controller. -/
def lateTransfer (late : BitVec 8) (s : State) (t : Nat) : State :=
  if late.getLsbD t && s.part.hasTile t then overrun (if t = 7 then 0 else t - 1) 0 3 s else s

/-- The deadline of the slot is reached. -/
def atSlotEnd (im : SchedImage) (s : State) : State := reach (s.sched.roundNs + (s.sched.slot.toNat + 1) * slotNsOf im - 20) s

/-- The engines at the deadline. -/
def deadlineEngines (im : SchedImage) (s : State) : State := (enginesOf (presentCrests (atSlotEnd im s))).foldl lateEngine (atSlotEnd im s)

/-- The engines and the loop arrays at the deadline. -/
def deadlineLoops (im : SchedImage) (s : State) : State := (presentCrests (deadlineEngines im s)).foldl loopsLate (deadlineEngines im s)

theorem foldl_engineLate (l : List (Fin 6)) (s : State) :
    l.foldl (fun s c => (List.finRange 18).foldl (engineLate c) s) s = (enginesOf l).foldl lateEngine s := by
  unfold enginesOf
  rw [List.foldl_flatMap]
  simp only [List.foldl_map]
  rfl

theorem slotDeadline_begins {s : State} {im : SchedImage} (active : s.sched.active = some im) (running : s.sched.running = true)
    (begun : s.sched.slotBegun = true) (late : BitVec 8) : slotDeadline late s =
      if computes (atSlotEnd im s) || (atSlotEnd im s).trio.phase == 3 then (List.range 8).foldl (lateTransfer late) (deadlineLoops im s)
      else deadlineLoops im s := by
  unfold slotDeadline
  rw [active]
  dsimp only
  rw [running, begun, if_neg (by decide), foldl_engineLate]
  show (if !(computes (atSlotEnd im s) || (atSlotEnd im s).trio.phase == 3) then deadlineLoops im s
    else (List.range 8).foldl (lateTransfer late) (deadlineLoops im s)) = _
  cases computes (atSlotEnd im s) || (atSlotEnd im s).trio.phase == 3 <;> rfl

theorem ready_atSlotEnd {s : State} (state : s.run.state = .running) (alone : inTrio s = false) (im : SchedImage) : Ready s (atSlotEnd im s) := by
  have frame := but_reached (s.sched.roundNs + (s.sched.slot.toNat + 1) * slotNsOf im - 20) s
  refine ⟨?_, ?_, frame .sched rfl⟩
  · rw [show (atSlotEnd im s).run = s.run from frame .run rfl]
    exact state
  · unfold inTrio at alone ⊢
    rw [show (atSlotEnd im s).trio = s.trio from frame .trio rfl]
    exact alone

theorem Ready.computes {s t : State} (h : Ready s t) : computes t = true := by
  unfold Machine.computes
  rw [h.state, h.alone]
  rfl

theorem engineAt_atSlotEnd (im : SchedImage) (s : State) (e : EngRef) : engineAt (atSlotEnd im s) e = engineAt s e :=
  engineAt_of_crests (but_reached _ s .crests rfl) e

/-- Once the controller is stopped nothing that is late stops it again. -/
theorem Overran.loopsLate {s t : State} {k : BitVec 2} (h : Overran s k t) (c : Fin 6) : loopsLate t c = t := by
  unfold Machine.loopsLate
  rw [h.again, ite_self]

theorem Overran.lateTransfer {s t : State} {k : BitVec 2} (h : Overran s k t) (late : BitVec 8) (j : Nat) : lateTransfer late t j = t := by
  unfold Machine.lateTransfer
  rw [h.again, ite_self]

theorem foldl_stays {α : Type} {f : State → α → State} {s : State} {l : List α} (h : ∀ x ∈ l, f s x = s) : l.foldl f s = s := by
  induction l with
  | nil => rfl
  | cons x l ih => rw [List.foldl_cons, h x List.mem_cons_self, ih fun y hy => h y (List.mem_cons_of_mem _ hy)]

/-- A late engine stops the controller at SLOT_DEADLINE. -/
theorem slotDeadline_engine {s : State} {im : SchedImage} (active : s.sched.active = some im) (running : s.sched.running = true)
    (begun : s.sched.slotBegun = true) (state : s.run.state = .running) (alone : inTrio s = false) {e : EngRef} {r : StepRun}
    (here : e.crest.val < s.part.crests) (run : (engineAt s e).run = some r) (late : BitVec 8) :
    let t := slotDeadline late s
    Overran s 1 t ∧ raisesX e 7 0 s t ∧ (hdrAt t (.engine e.crest)).raw.getLsbD 7 = true ∧
      (Vec.at t.crests e.crest).retired = (Vec.at s.crests e.crest).retired := by
  have ready := ready_atSlotEnd state alone im
  have frame := but_reached (s.sched.roundNs + (s.sched.slot.toNat + 1) * slotNsOf im - 20) s
  have same := engineAt_atSlotEnd im s e
  have present : e ∈ enginesOf (presentCrests (atSlotEnd im s)) := mem_enginesOf (mem_presentCrests.2 (by
    rw [show (atSlotEnd im s).part = s.part from frame .part rfl]; exact here))
  obtain ⟨stopped, kept, raises, raw⟩ := lateEngines_stop (.inl ready) (enginesOf_nodup (presentCrests_nodup _)) present (r := r) (by rw [same]; exact run)
  have loops : deadlineLoops im s = deadlineEngines im s := foldl_stays fun c _ => Overran.loopsLate stopped c
  have eq : slotDeadline late s = deadlineEngines im s := by
    rw [slotDeadline_begins active running begun, ready.computes, Bool.true_or, if_pos rfl, loops]
    exact foldl_stays fun j _ => Overran.lateTransfer stopped late j
  intro t
  show Overran s 1 (slotDeadline late s) ∧ raisesX e 7 0 s (slotDeadline late s) ∧ (hdrAt (slotDeadline late s) (.engine e.crest)).raw.getLsbD 7 = true ∧
    (Vec.at (slotDeadline late s).crests e.crest).retired = (Vec.at s.crests e.crest).retired
  rw [eq]
  refine ⟨stopped, raisesX_later raises same.symm rfl (.self _), raw, (kept.retired e.crest).trans ?_⟩
  rw [show (atSlotEnd im s).crests = s.crests from frame .crests rfl]

/-- A device that agrees with `s` in its tiles and its parts. -/
def sameTiles (s t : State) : Prop := t.crests = s.crests ∧ t.part = s.part

theorem sameTiles_overrun {s t : State} (h : sameTiles s t) (c : Nat) (l : BitVec 4) (k : BitVec 2) : sameTiles s (overrun c l k t) :=
  have frame : But 0x4004a7c802 t (overrun c l k t) := but_overrun (Within.self _) (.self _ t)
  ⟨(frame .crests rfl).trans h.1, (frame .part rfl).trans h.2⟩

/-- Of several units the first that is late stops the controller. -/
theorem first_late {α : Type} {f : State → α → State} {p : α → Bool} {a : α → Nat} {k : BitVec 2} {s t : State}
    (hf : ∀ u x, sameTiles s u → f u x = if p x then overrun (a x) 0 k u else u) (same : sameTiles s t) (ready : Ready s t) (l : List α)
    (late : ∃ x ∈ l, p x = true) : Overran s k (l.foldl f t) ∧ sameTiles s (l.foldl f t) := by
  have rest : ∀ (l : List α) u, sameTiles s u → Overran s k u → l.foldl f u = u := fun l u tiles stopped => foldl_stays fun x _ => by
    rw [hf u x tiles, stopped.again, ite_self]
  induction l with
  | nil => obtain ⟨x, hx, -⟩ := late; cases hx
  | cons y l ih =>
    rw [List.foldl_cons, hf t y same]
    cases here : p y with
    | true =>
      rw [if_pos rfl, rest l _ (sameTiles_overrun same _ _ _) (overran_overrun ready _ _ _)]
      exact ⟨overran_overrun ready _ _ _, sameTiles_overrun same _ _ _⟩
    | false =>
      rw [if_neg (by decide)]
      obtain ⟨x, hx, px⟩ := late
      refine ih ⟨x, (List.mem_cons.1 hx).resolve_left fun e => ?_, px⟩
      rw [e, here] at px
      cases px

/-- Where no engine runs, the engines pass the deadline. -/
theorem deadlineEngines_idle {s : State} (idle : ∀ e, (engineAt s e).run = none) (im : SchedImage) : deadlineEngines im s = atSlotEnd im s :=
  foldl_stays fun e _ => lateEngine_idle (by rw [engineAt_atSlotEnd]; exact idle e)

/-- Loop steps or transfers that are late stop the controller at SLOT_DEADLINE. -/
theorem slotDeadline_units {s : State} {im : SchedImage} (active : s.sched.active = some im) (running : s.sched.running = true)
    (begun : s.sched.slotBegun = true) (state : s.run.state = .running) (alone : inTrio s = false) (idle : ∀ e, (engineAt s e).run = none)
    (late : BitVec 8) :
    ((∃ c : Fin 6, c.val < s.part.crests ∧ (Vec.at s.crests c).loopsLate = true) →
      Overran s 2 (slotDeadline late s) ∧ (slotDeadline late s).crests = s.crests) ∧
    ((¬ ∃ c : Fin 6, c.val < s.part.crests ∧ (Vec.at s.crests c).loopsLate = true) → (∃ k < 8, late.getLsbD k = true ∧ s.part.hasTile k = true) →
      Overran s 3 (slotDeadline late s) ∧ (slotDeadline late s).crests = s.crests) := by
  have ready := ready_atSlotEnd state alone im
  have frame := but_reached (s.sched.roundNs + (s.sched.slot.toNat + 1) * slotNsOf im - 20) s
  have same : sameTiles s (atSlotEnd im s) := ⟨frame .crests rfl, frame .part rfl⟩
  have present : presentCrests (atSlotEnd im s) = presentCrests s := presentCrests_of_part same.2
  have tile : ∀ u c, sameTiles s u → loopsLate u c = if (Vec.at s.crests c).loopsLate then overrun c.val 0 2 u else u := fun u c tiles => by
    unfold loopsLate
    rw [tiles.1]
  have transfer_ : ∀ u j, sameTiles s u → lateTransfer late u j =
      if late.getLsbD j && s.part.hasTile j then overrun (if j = 7 then 0 else j - 1) 0 3 u else u := fun u j tiles => by
    unfold lateTransfer
    rw [tiles.2]
  have eq : slotDeadline late s = (List.range 8).foldl (lateTransfer late) ((presentCrests s).foldl loopsLate (atSlotEnd im s)) := by
    rw [slotDeadline_begins active running begun, ready.computes, Bool.true_or, if_pos rfl]
    unfold deadlineLoops
    rw [deadlineEngines_idle idle, present]
  rw [eq]
  refine ⟨fun ⟨c, here, isLate⟩ => ?_, fun none_ ⟨k, lt, marked, has⟩ => ?_⟩
  · obtain ⟨stopped, tiles⟩ := first_late tile same ready (presentCrests s) ⟨c, mem_presentCrests.2 here, isLate⟩
    rw [foldl_stays fun j _ => Overran.lateTransfer stopped late j]
    exact ⟨stopped, tiles.1⟩
  · have onTime : (presentCrests s).foldl loopsLate (atSlotEnd im s) = atSlotEnd im s := foldl_stays fun c hc => by
      rw [tile _ c same, if_neg]
      exact fun yes => none_ ⟨c, mem_presentCrests.1 hc, yes⟩
    rw [onTime]
    obtain ⟨stopped, tiles⟩ := first_late transfer_ same ready (List.range 8) ⟨k, List.mem_range.2 lt, by rw [marked, has]; rfl⟩
    exact ⟨stopped, tiles.1⟩

theorem slotDeadline_idle {s : State} (h : ∀ im, s.sched.active = some im → ¬ (s.sched.running = true ∧ s.sched.slotBegun = true)) (late : BitVec 8) :
    slotDeadline late s = s := by
  unfold slotDeadline
  split
  · rfl
  next im active =>
    refine if_pos ?_
    have off := h im active
    revert off
    cases s.sched.running <;> cases s.sched.slotBegun <;> simp

/-- Where nothing is late SLOT_DEADLINE moves the clock alone. -/
theorem slotDeadline_nothing {s : State} (idle : ∀ e, (engineAt s e).run = none) (onTime : ∀ c, (Vec.at s.crests c).loopsLate = false) :
    But 0x4004000012 s (slotDeadline 0 s) := by
  by_cases runs : ∃ im, s.sched.active = some im ∧ s.sched.running = true ∧ s.sched.slotBegun = true
  · obtain ⟨im, active, running, begun⟩ := runs
    have loops : deadlineLoops im s = atSlotEnd im s := by
      unfold deadlineLoops
      rw [deadlineEngines_idle idle]
      refine foldl_stays fun c _ => ?_
      unfold loopsLate
      rw [show (atSlotEnd im s).crests = s.crests from but_reached _ s .crests rfl, onTime]
      rfl
    have transfers : (List.range 8).foldl (lateTransfer 0) (atSlotEnd im s) = atSlotEnd im s := foldl_stays fun j _ => by
      unfold lateTransfer
      rw [show (0 : BitVec 8).getLsbD j = false from BitVec.getLsbD_zero]
      rfl
    rw [slotDeadline_begins active running begun, loops, transfers, ite_self]
    exact but_reached _ s
  · rw [slotDeadline_idle fun im active both => runs ⟨im, active, both⟩]
    exact .self _ s

end Sys2Proof.Machine

/-! Proofs about ROUND_START (R29, R60, R412, R416). -/
namespace Sys2Proof.Machine
open Sys2Proof.Stmt

/-! ### What a round start leaves of run control and of the page locks -/

/-- Every page's lock, and what `v` sees of run control, are kept. -/
structure RoundKept {β : Type} (v : RunCtl → β) (s t : State) : Prop where
  lock : ∀ pg, (hdrAt t pg).lock = (hdrAt s pg).lock
  run : v t.run = v s.run

section
variable {β : Type} {v : RunCtl → β} {s t u : State}

theorem RoundKept.self (v : RunCtl → β) (s : State) : RoundKept v s s := ⟨fun _ => rfl, rfl⟩

theorem RoundKept.trans (h : RoundKept v s t) (k : RoundKept v t u) : RoundKept v s u := ⟨fun pg => (k.lock pg).trans (h.lock pg), k.run.trans h.run⟩

theorem RoundKept.of_parts (h : RoundKept v s t) (hdrs : u.hdrs = t.hdrs) (run : u.run = t.run) : RoundKept v s u :=
  h.trans ⟨fun pg => by unfold hdrAt; rw [hdrs], by rw [run]⟩

theorem RoundKept.of_but {W : Nat} (h : RoundKept v s t) (k : But W t u) (hdrs : W.testBit 1 = false) (run : W.testBit 15 = false) : RoundKept v s u :=
  h.of_parts (k .hdrs hdrs) (k .run run)

theorem RoundKept.updHdr (h : RoundKept v s t) (pg : Page) (f : PageHdr → PageHdr) (hf : ∀ x, (f x).lock = x.lock) : RoundKept v s (updHdr pg f t) := by
  refine h.trans ⟨fun p => ?_, rfl⟩
  by_cases same : p = pg
  · rw [same, hdrAt_updHdr_same, hf]
  · rw [hdrAt_updHdr_ne _ _ _ _ same]

theorem RoundKept.bump (h : RoundKept v s t) (pg : Page) (code n : Nat) : RoundKept v s (bump pg code n t) :=
  h.trans ⟨fun p => (congrArg PageHdr.lock (hdrAt_bump pg p code n t) :), by rw [bump_run]⟩

theorem RoundKept.ite {p : Prop} [Decidable p] (h : RoundKept v s t) (k : RoundKept v s u) : RoundKept v s (if p then t else u) := by
  split
  · exact h
  · exact k

theorem RoundKept.foldl {α : Type} {f : State → α → State} (h : RoundKept v s t) (hf : ∀ u x, RoundKept v u (f u x)) (l : List α) :
    RoundKept v s (l.foldl f t) := by
  induction l generalizing t with
  | nil => exact h
  | cons x l ih => exact ih (h.trans (hf t x))

theorem RoundKept.setRaw (h : RoundKept v s t) (pg : Page) (bit : Nat) : RoundKept v s (setRaw pg bit t) := by
  unfold Machine.setRaw countEdge
  exact .ite ((h.updHdr pg _ (by exact fun _ => rfl)).bump _ _ _) (h.updHdr pg _ (by exact fun _ => rfl))

theorem RoundKept.enqueueEvent (h : RoundKept v s t) (ev : EventIn) : RoundKept v s (enqueueEvent ev t) := by
  have recorded : ∀ r, RoundKept v s { t with recorder := r } := fun _ => h.of_parts rfl rfl
  unfold Machine.enqueueEvent dropEvent
  exact .ite (recorded _) (((recorded _).bump _ _ _).setRaw _ _)

theorem RoundKept.recordEvent (h : RoundKept v s t) (pg : Page) (n : Nat) (ten : Option (BitVec 3)) (sev : BitVec 3) (ps : Params) :
    RoundKept v s (recordEvent pg n ten sev ps t) := by
  unfold Machine.recordEvent
  dsimp only
  split
  · exact h.enqueueEvent _
  · exact RoundKept.enqueueEvent (h.of_parts (u := (drawFree 96 t).2) rfl rfl) _

theorem RoundKept.raise (h : RoundKept v s t) (pg : Page) (bit : Nat) (ten : Option (BitVec 3)) (ps : Params) : RoundKept v s (raise pg bit ten ps t) :=
  (h.setRaw pg bit).recordEvent _ _ _ _ _

theorem RoundKept.raiseUrgent (h : RoundKept v s t) (pg : Page) (bit n : Nat) (ten : Option (BitVec 3)) (ps : Params) :
    RoundKept v s (raiseUrgent pg bit n ten ps t) :=
  ((h.of_parts (u := urgent n t) rfl rfl).setRaw pg bit).recordEvent _ _ _ _ _

theorem RoundKept.note (h : RoundKept v s t) (pg : Page) (n : Nat) (ten : Option (BitVec 3)) (p0 p1 : Word) : RoundKept v s (note pg n ten p0 p1 t) :=
  h.recordEvent _ _ _ _ _

theorem RoundKept.condEdge (h : RoundKept v s t) (pg : Page) (was : State) : RoundKept v s (condEdge pg was t) := by
  unfold Machine.condEdge
  exact .ite (h.bump _ _ _) h

theorem RoundKept.noteConds (h : RoundKept v s t) (pgs : List Page) (was : State) : RoundKept v s (noteConds pgs was t) := by
  unfold Machine.noteConds
  refine h.foldl (fun u pg => ?_) pgs
  have edge := (RoundKept.self v u).condEdge pg was
  exact .ite edge (edge.foldl (fun w i => .ite ((RoundKept.self v w).recordEvent _ _ _ _ _) (.self v w)) _)

theorem RoundKept.updRun (h : RoundKept v s t) (f : RunCtl → RunCtl) (hf : ∀ r, v (f r) = v r) : RoundKept v s (updRun f t) :=
  h.trans ⟨fun _ => rfl, hf _⟩

/-! The parts of a round start. -/

theorem RoundKept.portDelay (h : RoundKept v s t) (p : TrioPort) : RoundKept v s (portDelay t p) := by
  unfold Machine.portDelay
  split
  · exact h
  · exact .ite ((h.of_parts (u := updTb _ t) rfl rfl).raise _ _ _ _) (h.of_parts rfl rfl)

theorem RoundKept.alignTrim (h : RoundKept v s t) : RoundKept v s (alignTrim t) := by
  have delays := (h.portDelay .a).portDelay .b
  have noted : ∀ u was f, RoundKept v s u → RoundKept v s (Machine.noteConds [.timebase] was (updTb f u)) := fun u was f k =>
    (k.of_parts (u := updTb f u) rfl rfl).noteConds _ _
  unfold Machine.alignTrim
  dsimp only
  split
  · exact noted _ _ _ delays
  · split
    · split
      · exact noted _ _ _ (.ite (delays.bump _ _ _) delays)
      · exact noted _ _ _ (.ite (delays.bump _ _ _) delays)
    · exact delays

theorem RoundKept.roundInstant (h : RoundKept v s t) (n : Nat) : RoundKept v s (roundInstant n t) := by
  unfold Machine.roundInstant
  exact .ite (.ite (h.of_parts rfl rfl) (h.of_parts rfl rfl)) (h.of_parts rfl rfl)

theorem RoundKept.retireAtStart (h : RoundKept v s t) (c : Fin 6) : RoundKept v s (retireAtStart c t) := by
  unfold Machine.retireAtStart
  dsimp only
  exact .ite h (.ite (h.of_parts rfl rfl) ((h.of_parts (u := updCrest c _ t) rfl rfl).raise _ _ _ _))

theorem RoundKept.setFunc (h : RoundKept v s t) (c : FuncCfg) (new : FuncState) (cause : BitVec 4) : RoundKept v s (setFunc c new cause t) := by
  have told : ∀ f ps, RoundKept v s (Machine.raise .safety 1 (some c.tenant) ps (Machine.bump .safety 0x12 1 (updFunc c.number f t))) := fun f ps =>
    ((h.of_parts (u := updFunc c.number f t) rfl rfl).bump _ _ _).raise _ _ _ _
  unfold Machine.setFunc
  dsimp only
  exact .ite h (.ite ((told _ _).raiseUrgent _ _ _ _ _) (told _ _))

theorem RoundKept.stoppedHolds (h : RoundKept v s t) : RoundKept v s (stoppedHolds t) := by
  unfold Machine.stoppedHolds
  dsimp only
  have ended := fun (l : List FuncCfg) => h.foldl (f := fun s c => Machine.setFunc c .safe (Vec.at s.safety.funcs c.number).cause s)
    (fun u c => (RoundKept.self v u).setFunc _ _ _) l
  exact .ite h (.ite (ended _) ((ended _).of_but (but_safeOutputs (Within.self _) (.self _ _)) rfl rfl))

theorem RoundKept.drainTrio (h : RoundKept v s t) : RoundKept v s (drainTrio t) := by
  have sent : ∀ p st f x (u : State), RoundKept v u (sendTrio p f x (updLine p st u)) := fun p st f x u => by
    have line : RoundKept v u (updLine p st u) := (RoundKept.self v u).of_but (but_updLine (Within.self _) (.self _ u)) rfl rfl
    have counted : ∀ i g, RoundKept v u (Machine.bump (.port i) 0x10 1 (updPort i g (updLine p st u))) := fun i g =>
      (line.of_parts (u := updPort i g (updLine p st u)) rfl rfl).bump _ _ _
    unfold sendTrio
    split
    · exact line
    · exact .ite line ((counted _ _).of_but (but_send (W := 0x2000000000) (Within.self _) (.self _ _)) rfl rfl)
  have left : ∀ p st f (u : State), RoundKept v u (leaves p st f u) := fun p st f u => by
    have line : ∀ f, RoundKept v u (updLine p f u) := fun _ => (RoundKept.self v u).of_but (but_updLine (Within.self _) (.self _ u)) rfl rfl
    unfold leaves
    split
    · exact line _
    · exact (line _).trans (sent _ _ _ _ _)
  have port : ∀ now p n (u : State), RoundKept v u (drainPort now p n u) := fun now p n => by
    induction n with
    | zero => exact fun u => .self v u
    | succ n ih =>
      intro u
      unfold drainPort
      split
      · exact .self v u
      · dsimp only
        refine .ite (.self v u) ?_
        split
        · exact (left _ _ _ u).trans (ih _)
        · split
          · exact (left _ _ _ u).trans (ih _)
          · exact .self v u
  exact h.trans ((port _ _ _ t).trans (port _ _ _ _))

theorem RoundKept.forwardChanges (h : RoundKept v s t) (was : State) : RoundKept v s (forwardChanges was t) := by
  unfold Machine.forwardChanges
  refine .ite h (h.foldl (fun u a => ?_) _)
  unfold forwardBytes
  split
  · exact .self v u
  · split
    · exact ((RoundKept.self v u).of_but (but_queueCopy (W := 0x10000) (Within.self _) (.self _ u)) rfl rfl).drainTrio
    · exact .self v u

theorem RoundKept.scanConns (h : RoundKept v s t) : RoundKept v s (scanConns t) := by
  have conn : ∀ n f (u : State), RoundKept v u (updConn n f u) := fun n f u => (RoundKept.self v u).of_parts rfl rfl
  have set : ∀ c new (u : State), RoundKept v u (setConn c new u) := fun c new u => by
    have told : ∀ f, RoundKept v u (Machine.raise .safety 4 (some c.tenant) .unstated (updConn c.number f u)) := fun f => (conn _ f u).raise _ _ _ _
    unfold setConn
    dsimp only
    exact .ite (.self v u) (.ite ((told _).raise _ _ _ _) (told _))
  have reaction : ∀ c (u : State), RoundKept v u (connReaction c u) := fun c u => (conn _ _ u).trans (set _ _ _)
  have values : ∀ c (u : State), RoundKept v u (connValues c u) := fun c u =>
    (RoundKept.self v u).of_but (but_connValues (W := 0x4000000800) (Within.self _) (.self _ u)) rfl rfl
  unfold Machine.scanConns
  refine h.foldl (fun u c => ?_) _
  unfold connScan
  dsimp only
  refine RoundKept.trans ?_ (values c _)
  split
  · exact conn _ _ u
  · exact .ite (reaction c u) (.self v u)

end

/-- A view of run control that does not see stations and call errors. -/
def pastStations {β : Type} (v : RunCtl → β) : Prop := ∀ r st q l, v { r with stations := st, errQueue := q, errLost := l } = v r

section
variable {β : Type} {v : RunCtl → β} {s t u : State}

theorem RoundKept.updStation (hv : pastStations v) (h : RoundKept v s t) (n : Fin 256) (f : StationRt → StationRt) : RoundKept v s (updStation n f t) :=
  h.updRun _ fun r => hv r (Vec.upd r.stations n f) r.errQueue r.errLost

theorem RoundKept.callErrorTask (hv : pastStations v) (h : RoundKept v s t) (ten : BitVec 3) (n : Fin 256) (reason : BitVec 4) :
    RoundKept v s (callErrorTask ten n reason t) := by
  have lost : ∀ l, RoundKept v s (Machine.updRun (fun r => { r with errLost := l }) t) := fun l => h.updRun _ fun r => hv r r.stations r.errQueue l
  unfold Machine.callErrorTask
  dsimp only
  exact .ite (h.updRun _ fun r => hv r r.stations _ r.errLost) (RoundKept.note (h.updRun _ fun r => hv r r.stations r.errQueue _) _ _ _ _ _)

theorem RoundKept.substitute (hv : pastStations v) (h : RoundKept v s t) (c : StationCfg) : RoundKept v s (substitute c t) := by
  unfold Machine.substitute
  refine (h.updStation hv _ _).foldl (fun u x => ?_) _
  unfold substPoint
  exact (((RoundKept.self v u).of_parts (u := (drawFree 2 u).2) rfl rfl)).updStation hv _ _

theorem RoundKept.scanStep (hv : pastStations v) (h : RoundKept v s t) (c : StationCfg) (got : Option (List Byte)) : RoundKept v s (scanStep c got t) := by
  unfold Machine.scanStep
  dsimp only
  split
  · refine .ite ?_ (.ite ?_ ?_)
    · exact (h.updStation hv _ _).updStation hv _ _
    · exact RoundKept.callErrorTask hv (RoundKept.raise ((((h.updStation hv _ _).updStation hv _ _).updStation hv _ _).updStation hv _ _) _ _ _ _) _ _ _
    · exact ((h.updStation hv _ _).updStation hv _ _).substitute hv c
  · refine .ite ((h.updStation hv _ _).substitute hv c) (.ite ?_ (h.updStation hv _ _))
    exact RoundKept.callErrorTask hv ((((h.updStation hv _ _).updStation hv _ _).substitute hv c).raise _ _ _ _) _ _ _

theorem RoundKept.stationScan (hv : pastStations v) (h : RoundKept v s t) (n : Fin 256) : RoundKept v s (stationScan n t) := by
  unfold Machine.stationScan
  split
  · exact h
  · exact (((h.bump _ _ _).updStation hv _ _).scanStep hv _ _).updStation hv _ _

/-- What a group reads as its class. -/
def groupRead (g : IoGroup) (s : State) : State :=
  let c := g.cls.toNat
  let i := g.inst.toNat
  if c ≤ 1 then (if fieldLive s then sampleBank c i s else s)
  else if c = 5 then (if fieldLive s then samplePanel s else s)
  else if c = 6 then stationScan (stationOf i) s
  else if h : c = 7 ∧ i < 16 then canLatch ⟨i, h.2⟩ s
  else if h : c = 8 ∧ i < 8 then uartLatch ⟨i, h.2⟩ s
  else s

/-- A group counts as latched now. -/
def groupNoted (g : IoGroup) (tick : Nat) (s : State) : State :=
  updRun (fun r => { r with latched := (g.cls, g.inst, tick) :: r.latched.filter fun x => !(x.1 == g.cls && x.2.1 == g.inst) }) s

theorem sampleGroup_eq (s : State) (g : IoGroup) : sampleGroup s g =
    if g.cls.toNat ≤ 5 && !fieldLive (groupRead g s) then groupRead g s else groupNoted g (groupRead g s).tb.tick (groupRead g s) := rfl

theorem RoundKept.groupRead (hv : pastStations v) (h : RoundKept v s t) (g : IoGroup) : RoundKept v s (groupRead g t) := by
  unfold Machine.groupRead
  dsimp only
  refine .ite (.ite (h.of_but (but_sampleBank (W := 0x4000040000) (Within.self _) (.self _ t)) rfl rfl) h)
    (.ite (.ite (h.of_but (but_samplePanel (W := 0x40000) (Within.self _) (.self _ t)) rfl rfl) h) (.ite (h.stationScan hv _) ?_))
  split
  · exact h.of_but (but_canLatch (W := 0x200000) (Within.self _) (.self _ t)) rfl rfl
  · split
    · exact h.of_but (but_uartLatch (W := 0x400000) (Within.self _) (.self _ t)) rfl rfl
    · exact h

theorem RoundKept.samples (h : RoundKept RunCtl.state s t) : RoundKept RunCtl.state s (samples t) := by
  unfold Machine.samples
  refine h.foldl (fun u g => ?_) _
  rw [sampleGroup_eq]
  have read := (RoundKept.self RunCtl.state u).groupRead (fun _ _ _ _ => rfl) g
  exact .ite read (read.updRun _ fun _ => rfl)

theorem RoundKept.takeSeal (h : RoundKept RunCtl.state s t) : RoundKept RunCtl.state s (takeSeal t) := by
  have removed : ∀ u, RoundKept RunCtl.state u (sealRemovesForces u) := fun u => by
    unfold sealRemovesForces removeForces
    refine (RoundKept.self _ u).foldl (fun w i => ?_) _
    split
    · have entered : RoundKept RunCtl.state w (enterRemoval (me w) i (forceDelay w) w) := ⟨fun _ => rfl, rfl⟩
      have published := fun m => entered.of_but (but_publishForce (W := 0x10000) (m := m) (Within.self _) (.self _ _)) rfl rfl
      have shown := fun m => (published m).of_but (but_refreshForceInd (W := 0x400000000) (Within.self _) (.self _ _)) rfl rfl
      exact .ite ((shown _).raise _ _ _ _) (.self _ w)
    · exact .self _ w
  unfold Machine.takeSeal
  dsimp only
  refine .ite h ?_
  have told : ∀ f, RoundKept RunCtl.state s (Machine.raise .safety 0 none .unstated (updSafety f t)) := fun f =>
    (h.of_parts (u := updSafety f t) rfl rfl).raise _ _ _ _
  have taken : ∀ (b : Bool) f, RoundKept RunCtl.state s (if b then Machine.raise .safety 0 none .unstated (updSafety f t) else updSafety f t) := fun b f =>
    .ite (told f) (h.of_parts rfl rfl)
  exact .ite (taken _ _) ((taken _ _).trans (removed _))

theorem RoundKept.deliverAllCalls (hv : pastStations v) (h : RoundKept v s t) : RoundKept v s (deliverAllCalls t) := by
  unfold Machine.deliverAllCalls
  refine .ite (h.foldl (fun u x => ?_) _) (h.updRun _ fun r => hv r r.stations _ r.errLost)
  unfold deliverCalls
  exact ((RoundKept.self v u).of_parts (u := updPool _ u) rfl rfl).updRun _ fun r => hv r r.stations _ _

end

/-! ### The round that starts, in its parts -/

/-- A round opens at its position. -/
def roundOpens (s : State) : State :=
  updSched (fun x => { x with switched := false, swapped := false, slotBegun := false, armedApp := x.armedApp && x.bank == .armed }) s

/-- The trim follows, and the instant of the round is noted. -/
def roundAligned (before : Nat) (s : State) : State := roundInstant before (if inTrio s then alignTrim s else s)

/-- A tile's retirements and variant take effect. -/
def tileStarts (im : SchedImage) (s : State) (c : Fin 6) : State := putVariant im c (retireAtStart c s)

/-- The tiles' retirements and variants take effect. -/
def roundTiles (im : SchedImage) (s : State) : State := (presentCrests s).foldl (tileStarts im) s

/-- The sample instant. -/
def roundSampled (first : Bool) (s : State) : State := samples (shiftTasks (shiftTrio first s))

/-- The seal and the forces of the round. -/
def roundSealed (s : State) : State := takeSeal (ageKeys (ageForces (stoppedHolds s)))

/-- Calls and values are delivered, and the round is counted. -/
def roundCounted (s : State) : State := countGroups (bump .runControl 0x10 1 (forwardChanges s (scanConns (deliverAllCalls s))))

/-- The round up to its sample instant. -/
def roundPrepared (im : SchedImage) (s : State) : State := roundTiles im (roundAligned ((schedBefore s).elim 0 roundNsOf) (roundOpens s))

theorem newRound_eq {s : State} {im : SchedImage} (active : s.sched.active = some im) (first : Bool) :
    newRound first s = roundCounted (roundSealed (roundSampled first (roundPrepared im s))) := by
  unfold newRound
  rw [active]
  rfl

theorem but_roundAligned (n : Nat) (s : State) : But 0x4004000012 s (roundAligned n s) :=
  but_roundInstant ((Within.self _).le rfl) (but_ite (but_alignTrim (Within.self _) (.self _ s)) (.self _ s))

theorem but_roundTiles (im : SchedImage) (s : State) : But 0x4004000022 s (roundTiles im s) :=
  but_foldl (fun _ _ h => but_putVariant ((Within.self _).le rfl) (but_retireAtStart (Within.self _) h)) (.self _ s)

theorem but_roundSampled (first : Bool) (s : State) : But 0x4004658002 s (roundSampled first s) :=
  but_samples ((Within.self _).le rfl) (but_shiftTasks ((Within.self _).le rfl) (but_shiftTrio ((Within.self _).le rfl) (.self _ s)))

theorem but_roundSealed (s : State) : But 0x4404978002 s (roundSealed s) :=
  but_takeSeal ((Within.self _).le rfl) (but_ageKeys ((Within.self _).le rfl) (but_ageForces ((Within.self _).le rfl)
    (but_stoppedHolds ((Within.self _).le rfl) (.self _ s))))

theorem but_roundCounted (s : State) : But 0x600c138802 s (roundCounted s) :=
  but_countGroups ((Within.self _).le rfl) (but_bump ((Within.self _).le rfl) (but_forwardChanges ((Within.self _).le rfl)
    (but_scanConns ((Within.self _).le rfl) (but_deliverAllCalls ((Within.self _).le rfl) (.self _ s)))))

theorem newRound_sched {s : State} {im : SchedImage} (active : s.sched.active = some im) (first : Bool) :
    (newRound first s).sched = (roundOpens s).sched := by
  rw [newRound_eq active]
  refine (but_roundCounted _ .sched rfl).trans ((but_roundSealed _ .sched rfl).trans ((but_roundSampled _ _ .sched rfl).trans ?_))
  exact (but_roundTiles _ _ .sched rfl).trans (but_roundAligned _ _ .sched rfl)

/-- A round start keeps the page locks and the run state. -/
theorem roundKept_newRound {s : State} {im : SchedImage} (active : s.sched.active = some im) (first : Bool) :
    RoundKept RunCtl.state s (newRound first s) := by
  have opens : RoundKept RunCtl.state s (roundOpens s) := (RoundKept.self _ s).of_parts rfl rfl
  have aligned : RoundKept RunCtl.state s (roundAligned ((schedBefore s).elim 0 roundNsOf) (roundOpens s)) := (RoundKept.ite opens.alignTrim opens).roundInstant _
  have tiles : RoundKept RunCtl.state s (roundPrepared im s) := aligned.foldl (fun u c =>
    ((RoundKept.self _ u).retireAtStart c).of_but (but_putVariant (W := 0x20) (Within.self _) (.self _ _)) rfl rfl) _
  have tasks : RoundKept RunCtl.state s (shiftTasks (shiftTrio first (roundPrepared im s))) :=
    (tiles.of_parts (u := shiftTrio first (roundPrepared im s)) rfl rfl).updRun _ fun _ => rfl
  have forces : RoundKept RunCtl.state s (ageForces (stoppedHolds (roundSampled first (roundPrepared im s)))) :=
    tasks.samples.stoppedHolds.updRun _ fun _ => rfl
  have keyed := forces.of_but (but_ageKeys (W := 0x100000) (Within.self _) (.self _ _)) rfl rfl
  have sealed : RoundKept RunCtl.state s (roundSealed (roundSampled first (roundPrepared im s))) := keyed.takeSeal
  have delivered := RoundKept.deliverAllCalls (fun _ _ _ _ => rfl) sealed
  rw [newRound_eq active]
  exact ((delivered.scanConns.forwardChanges _).bump _ _ _).of_but (but_countGroups (W := 0x8000000) (Within.self _) (.self _ _)) rfl rfl

/-! ### The first round (R29, R412, R416) -/

/-- The position of the first round. -/
def firstSched (now : Nat) (x : Sched) : Sched :=
  { x with running := true, frame := 0, round := 0, slot := 0, frameNs := now, roundNs := now, slotBegun := false, switched := false }

/-- A device that was starting runs. -/
def startedRun (r : RunCtl) : RunCtl := { r with state := if r.state == .starting then .running else r.state }

/-- The clock reaches the first round's instant. -/
def firstClock (s : State) : State := reach ((firstInstant s).getD 0) s

/-- Frame 0, round 0 begins. -/
def firstBegins (s : State) : State := applyStep (updRun startedRun (updSched (firstSched (schedNow (firstClock s))) (firstClock s)))

/-- What follows the locks of the first round. -/
def firstOpens (s : State) : State := latchField (setEnables (startWindows (layoutStarts s)))

theorem firstRound_eq (s : State) : firstRound s = newRound true (firstOpens (lockPages roundPages (firstBegins s))) := rfl

theorem but_firstOpens (s : State) : But 0x4004850000 s (firstOpens s) :=
  but_latchField ((Within.self _).le rfl) (but_setEnables ((Within.self _).le rfl) (but_startWindows ((Within.self _).le rfl)
    (but_layoutStarts ((Within.self _).le rfl) (.self _ s))))

theorem lock_lockPages {l : List Page} {pg : Page} (h : pg ∈ l) (s : State) : (hdrAt (lockPages l s) pg).lock = true := by
  have step : ∀ p u, (hdrAt u pg).lock = true ∨ p = pg → (hdrAt (updHdr p (fun h => { h with lock := true }) u) pg).lock = true := fun p u hp => by
    by_cases same : pg = p
    · rw [same, hdrAt_updHdr_same]
    · rw [hdrAt_updHdr_ne _ _ _ _ same]
      exact hp.resolve_right fun e => same e.symm
  have kept : ∀ (l : List Page) u, (hdrAt u pg).lock = true → (hdrAt (lockPages l u) pg).lock = true := fun l => by
    induction l with
    | nil => exact fun _ h => h
    | cons p l ih => exact fun u h => ih _ (step p u (.inl h))
  induction l generalizing s with
  | nil => cases h
  | cons p l ih =>
    obtain rfl | later := List.mem_cons.1 h
    · exact kept l _ (step _ s (.inr rfl))
    · exact ih later _

theorem firstBegins_sched (s : State) : (firstBegins s).sched = firstSched (schedNow (firstClock s)) s.sched :=
  (but_applyStep (W := 0x4004040012) (Within.self _) (.self _ _) .sched rfl).trans (congrArg (firstSched _) (but_reached _ s .sched rfl))

theorem firstBegins_state (s : State) : (firstBegins s).run.state = if s.run.state == .starting then .running else s.run.state :=
  (congrArg RunCtl.state (but_applyStep (W := 0x4004040012) (Within.self _) (.self _ _) .run rfl)).trans
    (congrArg (fun r => (startedRun r).state) (but_reached _ s .run rfl))

/-- The first round begins. -/
theorem firstRound_begins {s : State} {im : SchedImage} (active : s.sched.active = some im) :
    let t := firstRound s
    t.sched.running = true ∧ t.sched.frame = 0 ∧ t.sched.round = 0 ∧ t.sched.slot = 0 ∧ t.sched.frameNs = t.sched.roundNs ∧
      t.run.state = (if s.run.state == .starting then .running else s.run.state) ∧ ∀ pg ∈ roundPages, (hdrAt t pg).lock = true := by
  let u := firstOpens (lockPages roundPages (firstBegins s))
  have locked : But 0x2 (firstBegins s) (lockPages roundPages (firstBegins s)) := but_lockPages (Within.self _) (.self _ _)
  have opens := but_firstOpens (lockPages roundPages (firstBegins s))
  have sched : u.sched = firstSched (schedNow (firstClock s)) s.sched := (opens .sched rfl).trans ((locked .sched rfl).trans (firstBegins_sched s))
  have activeU : u.sched.active = some im := by rw [sched]; exact active
  have kept := roundKept_newRound activeU true
  intro t
  have eq : t = newRound true u := firstRound_eq s
  have schedT : t.sched = (roundOpens u).sched := by rw [eq]; exact newRound_sched activeU true
  rw [schedT, eq]
  unfold roundOpens updSched
  dsimp only
  rw [sched]
  refine ⟨rfl, rfl, rfl, rfl, rfl, ?_, fun pg hpg => ?_⟩
  · rw [kept.run, show u.run = _ from opens .run rfl, show (lockPages roundPages (firstBegins s)).run = _ from locked .run rfl]
    exact firstBegins_state s
  · rw [kept.lock]
    unfold hdrAt
    rw [show u.hdrs = _ from opens .hdrs rfl]
    exact lock_lockPages hpg _

/-! ### The rounds that follow (R29, R60) -/

/-- Where the schedule stands. -/
def placeOf (x : Sched) : Option SchedImage × Bool × BitVec 10 × DWord × Nat := (x.active, x.running, x.round, x.frame, x.roundNs)

theorem placeOf_cancelled (b : Banks) : placeOf b.cancelled.sched = placeOf b.sched := by
  unfold Banks.cancelled
  dsimp only
  split <;> rfl

theorem placeOf_banksKept {s t : State} (h : banksKept s t) : placeOf t.sched = placeOf s.sched := by
  obtain same | stopped := h
  · exact congrArg placeOf (congrArg Banks.sched same)
  · exact (congrArg placeOf (congrArg Banks.sched stopped)).trans (placeOf_cancelled (banksOf s))

/-- Where the next round opens. -/
theorem roundOpens_next (v : State) :
    let x := (roundOpens (toNextRound v)).sched
    x.active = v.sched.active ∧ x.slot = 0 ∧ x.slotBegun = false ∧ x.running = v.sched.running ∧ x.round = (if lastRound v then 0 else v.sched.round + 1) ∧
      x.frame = (if lastRound v then v.sched.frame + 1 else v.sched.frame) ∧ x.roundNs = nextRoundNs v := ⟨rfl, rfl, rfl, rfl, rfl, rfl, rfl⟩

/-- The next round of a running schedule. -/
theorem startRound_next {s : State} {im : SchedImage} (running : s.sched.running = true) (active : s.sched.active = some im)
    (unrestarted : s.upd.restart = none) (fresh : s.sched.switched = false) :
    let t := startRound s
    t = newRound false (passBoundary s) ∧ t.sched.slot = 0 ∧ t.sched.slotBegun = false ∧ t.sched.running = true ∧
      (s.sched.round.toNat + 1 = frameRoundsOf im → t.sched.round = 0 ∧ t.sched.frame = s.sched.frame + 1) ∧
      (s.sched.round.toNat + 1 ≠ frameRoundsOf im → t.sched.round = s.sched.round + 1 ∧ t.sched.frame = s.sched.frame) ∧
      t.sched.roundNs = s.sched.roundNs + roundNsOf im := by
  intro t
  have eq : t = newRound false (passBoundary s) := by
    show startRound s = _
    unfold startRound
    rw [running, if_neg (by decide), unrestarted, if_neg (by decide), fresh, if_neg (by decide)]
  obtain ⟨v, hv⟩ : ∃ v, v = frameBoundary s := ⟨_, rfl⟩
  have place : placeOf v.sched = placeOf s.sched := placeOf_banksKept (by rw [hv]; exact banksKept_frameBoundary s)
  rw [passBoundary_eq, ← hv] at eq
  have activeV : v.sched.active = some im := (congrArg (fun x => x.1) place :).trans active
  have runningV : v.sched.running = true := (congrArg (fun x => x.2.1) place :).trans running
  have roundV : v.sched.round = s.sched.round := (congrArg (fun x => x.2.2.1) place :)
  have frameV : v.sched.frame = s.sched.frame := (congrArg (fun x => x.2.2.2.1) place :)
  have instantV : v.sched.roundNs = s.sched.roundNs := (congrArg (fun x => x.2.2.2.2) place :)
  have last : lastRound v = (s.sched.round.toNat + 1 == frameRoundsOf im) := by
    unfold lastRound
    rw [activeV, runningV, roundV]
    exact Bool.true_and _
  have next : nextRoundNs v = s.sched.roundNs + roundNsOf im := by
    unfold nextRoundNs nextCommit
    rw [activeV, instantV]
  obtain ⟨activeN, slot, slotBegun, runs, round, frame, instant⟩ := roundOpens_next v
  have sched : t.sched = (roundOpens (toNextRound v)).sched := by rw [eq]; exact newRound_sched (s := toNextRound v) (activeN.trans activeV) false
  rw [sched, slot, slotBegun, runs, round, frame, instant, last, next, roundV, frameV]
  refine ⟨by rw [eq, passBoundary_eq, hv], rfl, rfl, runningV, fun ends => ?_, fun goes => ?_, rfl⟩
  · rw [ends, beq_self_eq_true]
    exact ⟨rfl, rfl⟩
  · rw [beq_false_of_ne goes]
    exact ⟨rfl, rfl⟩

theorem startRound_switched {s : State} (running : s.sched.running = true) (unrestarted : s.upd.restart = none) (begun : s.sched.switched = true) :
    startRound s = newRound false s := by
  unfold startRound
  rw [running, if_neg (by decide), unrestarted, if_neg (by decide), begun, if_pos rfl]

theorem startRound_first {s : State} (stopped : s.sched.running = false) : startRound s = if mayBegin s then firstRound s else s := by
  unfold startRound
  rw [stopped, if_pos (by decide)]

theorem mayBegin_active {s : State} (h : mayBegin s = true) : ∃ im, s.sched.active = some im := by
  unfold mayBegin at h
  simp only [Bool.and_eq_true] at h
  exact Option.isSome_iff_exists.1 h.1.1.1.1.1.2

theorem but_round (s : State) : But 0x650cffe832 s (startRound s) := but_startRound (Within.self _) (.self _ s)

end Sys2Proof.Machine

/-! Proofs about the commit of outputs at a round boundary (R47, R222, R294). -/
namespace Sys2Proof.Machine
open Sys2Proof.Stmt

/-! ### The committed values of output points -/

theorem lookup_filter {β γ : Type} [BEq β] [LawfulBEq β] {P : β × γ → Bool} {a : β} (h : ∀ b, P (a, b) = true) (l : List (β × γ)) :
    (l.filter P).lookup a = l.lookup a := by
  induction l with
  | nil => rfl
  | cons x l ih =>
    obtain ⟨k, b⟩ := x
    by_cases same : a == k
    · obtain rfl := eq_of_beq same
      rw [List.filter_cons_of_pos (h b), List.lookup_cons, List.lookup_cons, same]
    · have other : (a == k) = false := by simpa using same
      cases kept : P (k, b) with
      | true => rw [List.filter_cons_of_pos kept, List.lookup_cons, List.lookup_cons, other, ih]
      | false => rw [List.filter_cons_of_neg (by rw [kept]; decide), List.lookup_cons, other, ih]

theorem lookup_map_mem {α β γ : Type} [BEq β] [LawfulBEq β] {l : List α} {key : α → β} {val : α → γ} (distinct : (l.map key).Nodup) {p : α} (h : p ∈ l)
    (r : List (β × γ)) : ((l.map fun x => (key x, val x)) ++ r).lookup (key p) = some (val p) := by
  induction l with
  | nil => cases h
  | cons x l ih =>
    obtain ⟨out, distinct⟩ := List.nodup_cons.1 distinct
    rw [List.map_cons, List.cons_append, List.lookup_cons]
    obtain rfl | later := List.mem_cons.1 h
    · rw [beq_self_eq_true]
    · have ne : (key p == key x) = false := beq_false_of_ne fun e => out (e ▸ List.mem_map_of_mem later)
      rw [ne]
      exact ih distinct later

theorem lookup_map_notMem {α β γ : Type} [BEq β] [LawfulBEq β] {l : List α} {key : α → β} {val : α → γ} {b : β} (h : ∀ x ∈ l, key x ≠ b)
    (r : List (β × γ)) : ((l.map fun x => (key x, val x)) ++ r).lookup b = r.lookup b := by
  induction l with
  | nil => rfl
  | cons x l ih =>
    rw [List.map_cons, List.cons_append, List.lookup_cons, beq_false_of_ne (h x List.mem_cons_self).symm]
    exact ih fun y hy => h y (List.mem_cons_of_mem _ hy)

/-- The output points that commit. -/
def committing (which : OutPoint → Bool) (s : State) : List OutPoint := (outPoints s).filter fun p => which p && (badIn s p.place.addr 4).isEmpty

theorem noteCommitted_values (which : OutPoint → Bool) (s : State) : (noteCommitted which s).run.outValues =
    ((committing which s).map fun p => (p.number, placeValue p.place (memWord s.pool p.place.addr))) ++
      s.run.outValues.filter fun x => !(committing which s).any fun p => p.number == x.1 := rfl

theorem mem_committing {which : OutPoint → Bool} {s : State} {p : OutPoint} :
    p ∈ committing which s ↔ p ∈ outPoints s ∧ which p = true ∧ badIn s p.place.addr 4 = [] := by
  unfold committing
  rw [List.mem_filter, Bool.and_eq_true, List.isEmpty_iff]

/-- What is noted of an output point at a commit. -/
theorem lookup_noteCommitted {s : State} (distinct : (outPoints s).Pairwise fun p q => p.number ≠ q.number) {p : OutPoint} (here : p ∈ outPoints s)
    (which : OutPoint → Bool) :
    (which p = true ∧ badIn s p.place.addr 4 = [] →
      (noteCommitted which s).run.outValues.lookup p.number = some (placeValue p.place (memWord s.pool p.place.addr))) ∧
    (¬ (which p = true ∧ badIn s p.place.addr 4 = []) → (noteCommitted which s).run.outValues.lookup p.number = s.run.outValues.lookup p.number) := by
  have nodup : ((outPoints s).map OutPoint.number).Nodup := List.pairwise_map.2 distinct
  have nodupC : ((committing which s).map OutPoint.number).Nodup := nodup.sublist ((List.filter_sublist).map _)
  rw [noteCommitted_values]
  refine ⟨fun commits => ?_, fun stays => ?_⟩
  · exact lookup_map_mem (key := OutPoint.number) (val := fun p => placeValue p.place (memWord s.pool p.place.addr)) nodupC (mem_committing.2 ⟨here, commits⟩) _
  · have apart : ∀ q ∈ committing which s, q.number ≠ p.number := fun q hq same => by
      obtain ⟨hereQ, commits⟩ := mem_committing.1 hq
      obtain rfl := List.inj_on_of_nodup_map nodup hereQ here same
      exact stays commits
    refine (lookup_map_notMem (key := OutPoint.number) apart _).trans (lookup_filter (fun b => ?_) _)
    rw [Bool.not_eq_true', List.any_eq_false]
    exact fun q hq => by simpa using apart q hq

/-! ### A group of outputs commits -/

theorem ones_bank {w : Nat} (wide : 8 ≤ w) (i n : Nat) : (BitVec.ofNat w 0xFF <<< (8 * i)).getLsbD n = (decide (n < w) && decide (n / 8 = i)) := by
  have ones : ∀ k, Nat.testBit 255 k = decide (k < 8) := fun k => Nat.testBit_two_pow_sub_one 8 k
  rw [BitVec.getLsbD_shiftLeft, BitVec.getLsbD_ofNat, ones, Bool.eq_iff_iff]
  simp only [Bool.and_eq_true, Bool.not_eq_true', decide_eq_true_eq, decide_eq_false_iff_not]
  omega

/-- A bank of a register takes its bits from another. -/
theorem bank_taken {w : Nat} (wide : 8 ≤ w) (a b : BitVec w) (i : Nat) {n : Nat} (h : n < w) :
    ((a &&& ~~~(BitVec.ofNat w 0xFF <<< (8 * i))) ||| (b &&& (BitVec.ofNat w 0xFF <<< (8 * i)))).getLsbD n =
      if n / 8 = i then b.getLsbD n else a.getLsbD n := by
  rw [BitVec.getLsbD_or, BitVec.getLsbD_and, BitVec.getLsbD_and, BitVec.getLsbD_not, ones_bank wide]
  by_cases here : n / 8 = i <;> simp [h, here]

/-- A bank of a register is cleared. -/
theorem bank_cleared {w : Nat} (wide : 8 ≤ w) (a : BitVec w) (i : Nat) {n : Nat} (h : n < w) :
    (a &&& ~~~(BitVec.ofNat w 0xFF <<< (8 * i))).getLsbD n = if n / 8 = i then false else a.getLsbD n := by
  rw [BitVec.getLsbD_and, BitVec.getLsbD_not, ones_bank wide]
  by_cases here : n / 8 = i <;> simp [h, here]

/-- What the restart of a tripped channel leaves of the output registers. -/
def doRegs (s : State) : BitVec 24 × BitVec 24 × BitVec 24 × BitVec 3 := (s.field.doCmd, s.field.doSafe, s.field.doPend, s.field.doNew)

theorem doRegs_doRestart (s : State) (n : Fin 24) : doRegs (doRestart s n) = doRegs s := by
  unfold doRestart
  dsimp only
  split
  · rfl
  · split
    · rfl
    · split
      · rfl
      · split <;> rfl

/-- A group of field outputs commits, once it is counted. -/
def outputsCommit (eff : Bool) (c i : Nat) (s : State) : State := if eff then releaseSafe c i (commitBank c i s) else dropBank c i s

/-- A DO bank at its commit. -/
theorem outputsCommit_do (eff : Bool) {i : Nat} (s : State) :
    let t := outputsCommit eff 2 i s
    (∀ n : Fin 24, t.field.doCmd.getLsbD n.val =
      if eff = true ∧ n.val / 8 = i ∧ s.field.doNew.getLsbD i = true then s.field.doPend.getLsbD n.val else s.field.doCmd.getLsbD n.val) ∧
    (∀ n : Fin 24, t.field.doSafe.getLsbD n.val = if eff = true ∧ n.val / 8 = i then false else s.field.doSafe.getLsbD n.val) ∧
    t.field.doNew = setBit s.field.doNew i false ∧ t.field.doPend = s.field.doPend := by
  intro t
  cases eff with
  | false => exact ⟨fun n => (if_neg fun h => absurd h.1 (by decide)).symm, fun n => (if_neg fun h => absurd h.1 (by decide)).symm, rfl, rfl⟩
  | true =>
    let m : BitVec 24 := (0xFF : BitVec 24) <<< (8 * i)
    let cmd : BitVec 24 := if s.field.doNew.getLsbD i then (s.field.doCmd &&& ~~~m) ||| (s.field.doPend &&& m) else s.field.doCmd
    have regs : doRegs (commitBank 2 i s) = (cmd, s.field.doSafe, s.field.doPend, setBit s.field.doNew i false) :=
      foldl_proj doRegs doRestart doRegs_doRestart _ _
    have cmdT : t.field.doCmd = cmd := (congrArg (fun x => x.1) regs :)
    have safeT : t.field.doSafe = s.field.doSafe &&& ~~~m :=
      congrArg (fun x : BitVec 24 × BitVec 24 × BitVec 24 × BitVec 3 => x.2.1 &&& ~~~m) regs
    refine ⟨fun n => ?_, fun n => ?_, (congrArg (fun x => x.2.2.2) regs :), (congrArg (fun x => x.2.2.1) regs :)⟩
    · rw [cmdT]
      cases new : s.field.doNew.getLsbD i with
      | false => rw [show cmd = s.field.doCmd from if_neg (by rw [new]; decide), if_neg fun h => absurd h.2.2 (by decide)]
      | true =>
        rw [show cmd = _ from if_pos new]
        exact (bank_taken (by decide) s.field.doCmd s.field.doPend i n.isLt).trans (if_congr (by simp) rfl rfl)
    · rw [safeT]
      exact (bank_cleared (by decide) s.field.doSafe i n.isLt).trans (if_congr (by simp) rfl rfl)

/-- The TLO channels at their commit. -/
theorem outputsCommit_tlo (eff : Bool) (i : Nat) (s : State) :
    let t := outputsCommit eff 3 i s
    t.field.tloCmd = (if eff = true ∧ s.field.tloNew = true then s.field.tloPend else s.field.tloCmd) ∧
      t.field.tloSafe = (if eff = true then 0 else s.field.tloSafe) ∧ t.field.tloNew = false := by
  cases eff with
  | false => exact ⟨(if_neg fun h => absurd h.1 (by decide)).symm, rfl, rfl⟩
  | true =>
    refine ⟨?_, rfl, rfl⟩
    show (if s.field.tloNew then s.field.tloPend else s.field.tloCmd) = _
    exact if_congr (by simp) rfl rfl

/-- An AO bank at its commit. -/
theorem outputsCommit_ao (eff : Bool) (i : Nat) (s : State) :
    let t := outputsCommit eff 4 i s
    (∀ n : Fin 16, Vec.at t.field.aoCmd n =
      if eff = true ∧ n.val / 8 = i ∧ s.field.aoNew.getLsbD i = true then Vec.at s.field.aoPend n else Vec.at s.field.aoCmd n) ∧
    (∀ n : Fin 16, t.field.aoSafe.getLsbD n.val = if eff = true ∧ n.val / 8 = i then false else s.field.aoSafe.getLsbD n.val) := by
  cases eff with
  | false => exact ⟨fun n => (if_neg fun h => absurd h.1 (by decide)).symm, fun n => (if_neg fun h => absurd h.1 (by decide)).symm⟩
  | true =>
    refine ⟨fun n => ?_, fun n => (bank_cleared (by decide) s.field.aoSafe i n.isLt).trans (if_congr (by simp) rfl rfl)⟩
    show Vec.at (if s.field.aoNew.getLsbD i then Vector.ofFn fun n : Fin 16 => if n.val / 8 = i then Vec.at s.field.aoPend n else Vec.at s.field.aoCmd n
      else s.field.aoCmd) n = _
    cases s.field.aoNew.getLsbD i with
    | false => exact (if_neg fun h => absurd h.2.2 (by decide)).symm
    | true =>
      rw [if_pos rfl, show Vec.at (Vector.ofFn fun n : Fin 16 => if n.val / 8 = i then Vec.at s.field.aoPend n else Vec.at s.field.aoCmd n) n = _ from
        Vector.getElem_ofFn n.isLt]
      exact if_congr (by simp) rfl rfl

theorem commitGroup_outputs {eff : Bool} {s : State} {g : IoGroup} (h : g.cls.toNat ≤ 4) :
    commitGroup eff s g = outputsCommit eff g.cls.toNat g.inst.toNat (bump .field 0x10 1 s) := by
  unfold commitGroup
  dsimp only
  rw [if_neg (by omega), if_neg (by omega), show fieldClass g.cls.toNat = true from decide_eq_true (by omega), if_pos rfl]
  rfl

theorem commitPanel_target (s : State) : (commitPanel s).panel = { s.panel with target := s.panel.pend } :=
  but_noteConds (W := 0x4004000002) (Within.self _) (.self _ _) .panel rfl

theorem commitGroup_panel {eff : Bool} {s : State} {g : IoGroup} (h : g.cls.toNat = 5) :
    (commitGroup eff s g).panel = if eff then { s.panel with target := s.panel.pend } else s.panel := by
  have counted : (bump .field 0x10 1 s).panel = s.panel := bump_panel _ _ _ _
  unfold commitGroup
  dsimp only
  rw [show fieldClass g.cls.toNat = true from decide_eq_true (by omega), if_pos rfl, if_pos h]
  cases eff
  · exact counted
  · exact (commitPanel_target _).trans (by rw [counted]; rfl)

theorem queue_queueFrame (p : Fin 8) (f : QFrame) (s : State) : (portAt (queueFrame p f s) p).queue.getLast? = some f := by
  unfold queueFrame
  rw [portAt_updEth_same]
  exact List.getLast?_concat

theorem queue_queueFrame_both (a b : Fin 8) (f : QFrame) (s : State) :
    (portAt (queueFrame b f (queueFrame a f s)) a).queue.getLast? = some f ∧ (portAt (queueFrame b f (queueFrame a f s)) b).queue.getLast? = some f := by
  refine ⟨?_, queue_queueFrame b f _⟩
  by_cases same : a = b
  · rw [same]
    exact queue_queueFrame b f _
  · rw [show portAt (queueFrame b f (queueFrame a f s)) a = portAt (queueFrame a f s) a from
      onlyPort_updEth b _ _ _ fun e => same (Fin.ext (congrArg Fin.val e :))]
    exact queue_queueFrame a f s

theorem stationRt_updStation (n : Fin 256) (f : StationRt → StationRt) (s : State) : stationRt (updStation n f s) n = f (stationRt s n) :=
  Vec.at_upd_same _ _ _

/-- The output frame of a station is queued at both its ports. -/
theorem queueKeaco_queues {s : State} {n : Fin 256} {c : StationCfg} {held : Bool} (cfg : stationCfg s n = some c) (sends : sendsKeaco s = true)
    (running : s.run.state = .running) (live : held = false ∨ inTrio s = true) : ∃ f : QFrame,
    f.etherType = 0x88B5 ∧ f.station = some n ∧ f.dst = c.mac ∧ f.vlan = c.vlan ∧
    f.data = keacoFrame 2 n.val (2 + 4 * s.trio.member.toNat) (stationRt s n).sendSeq
      (if inTrio s then s.trio.roster.epoch else 0) (nowNs s) (memRead (stationRt s n).output 0 c.safePayload.length) ∧
    (portAt (queueKeaco held n s) c.portA).queue.getLast? = some f ∧ (portAt (queueKeaco held n s) c.portB).queue.getLast? = some f ∧
    (stationRt (queueKeaco held n s) n).sendSeq = (stationRt s n).sendSeq + 1 := by
  have safe : (s.run.state == .stopped || (!inTrio s && held)) = false := by
    rw [running]
    obtain h | h := live <;> rw [h] <;> simp
  let d := keacoFrame 2 n.val (2 + 4 * s.trio.member.toNat) (stationRt s n).sendSeq
    (if inTrio s then s.trio.roster.epoch else 0) (nowNs s) (memRead (stationRt s n).output 0 c.safePayload.length)
  let f := devFrame 6 0x88B5 c.mac c.vlan (some n) none d.length d
  let u := updStation n (fun x => { x with sendSeq := x.sendSeq + 1 }) s
  have eq : queueKeaco held n s = queueFrame c.portB f (queueFrame c.portA f u) := by
    unfold queueKeaco
    rw [cfg]
    dsimp only
    rw [sends, safe]
    rfl
  obtain ⟨first, second⟩ := queue_queueFrame_both c.portA c.portB f u
  rw [eq]
  refine ⟨f, rfl, rfl, rfl, rfl, rfl, first, second, ?_⟩
  exact congrArg StationRt.sendSeq (stationRt_updStation n (fun x => { x with sendSeq := x.sendSeq + 1 }) s)

theorem groupCommits_commitGroup (eff : Bool) (s : State) (g : IoGroup) : groupCommits eff g s (commitGroup eff s g) := by
  have counted : (bump .field 0x10 1 s).field = s.field := bump_field _ _ _ _
  refine ⟨fun cls low => ?_, fun cls low => ?_, fun cls low => ?_, fun cls => commitGroup_panel (by rw [cls]; rfl), fun cls c cfg sends running live => ?_⟩
  · have at_ : g.cls.toNat = 2 := by rw [cls]; rfl
    rw [commitGroup_outputs (by omega), at_]
    obtain ⟨cmd, safe, new, pend⟩ := outputsCommit_do eff (i := g.inst.toNat) (bump .field 0x10 1 s)
    rw [counted] at cmd safe new pend
    refine ⟨cmd, safe, fun k => ?_, pend⟩
    rw [new, setBit_getLsbD]
    exact if_congr ⟨fun h => h.1, fun h => ⟨h, by omega⟩⟩ rfl rfl
  · have at_ : g.cls.toNat = 3 := by rw [cls]; rfl
    rw [commitGroup_outputs (by omega), at_]
    have tlo := outputsCommit_tlo eff g.inst.toNat (bump .field 0x10 1 s)
    rwa [counted] at tlo
  · have at_ : g.cls.toNat = 4 := by rw [cls]; rfl
    rw [commitGroup_outputs (by omega), at_]
    have ao := outputsCommit_ao eff g.inst.toNat (bump .field 0x10 1 s)
    rwa [counted] at ao
  · have at_ : g.cls.toNat = 6 := by rw [cls]; rfl
    have eq : commitGroup eff s g = queueKeaco (!eff) (stationOf g.inst.toNat) s := by
      unfold commitGroup
      rw [at_]
      rfl
    have number : (stationOf g.inst.toNat).val = g.inst.toNat := Nat.mod_eq_of_lt g.inst.isLt
    have queued := queueKeaco_queues (held := !eff) cfg sends running (live.imp_left fun h => by rw [h]; rfl)
    rw [number] at queued
    rw [eq]
    exact queued

/-! ### The commit of a round -/

theorem commits_eq (r : BitVec 10) (s : State) : commits r s = refreshField ((commitsAt s r).foldl (commitGroup (s.run.ran && computes s))
    (if s.run.ran && computes s then noteCommitted (commitsWith (commitsAt s r)) s else s)) := rfl


/-- What a commit of outputs starts from: the committed values are noted where the round before computed its outputs. -/
def commitsNoted (r : BitVec 10) (s : State) : State := if s.run.ran && computes s then noteCommitted (commitsWith (commitsAt s r)) s else s

theorem commits_inTurn (r : BitVec 10) (s : State) : ∃ v, inTurn (groupCommits (s.run.ran && computes s)) (commitsAt s r) (commitsNoted r s) v ∧
    commits r s = refreshField v :=
  ⟨_, inTurn_foldl (groupCommits_commitGroup _) _ _, commits_eq r s⟩

theorem commitsNoted_values {r : BitVec 10} {s : State} (eff : (s.run.ran && computes s) = true) :
    { commitsNoted r s with run := s.run } = s ∧ { (commitsNoted r s).run with outValues := s.run.outValues } = s.run ∧
      ((outPoints s).Pairwise (fun p q => p.number ≠ q.number) → ∀ p ∈ outPoints s,
        let commits : Prop := commitsWith (commitsAt s r) p = true ∧ badIn s p.place.addr 4 = []
        (commits → (commitsNoted r s).run.outValues.lookup p.number = some (placeValue p.place (memWord s.pool p.place.addr))) ∧
        (¬ commits → (commitsNoted r s).run.outValues.lookup p.number = s.run.outValues.lookup p.number)) := by
  rw [show commitsNoted r s = _ from if_pos eff]
  exact ⟨rfl, rfl, fun distinct p here => lookup_noteCommitted distinct here _⟩

end Sys2Proof.Machine

/-! Proofs about a round start: retirements, remap variants and the sample instant (R53, R99, R101, R222, R318, R323). -/
namespace Sys2Proof.Machine
open Sys2Proof.Stmt

/-! ### Retirements and remap variants -/

/-- The commanded retirements of a tile, added in order. -/
def retiredNext (a : Crest) : BitVec 18 :=
  a.toRetire.foldl (fun r i => if 3 ≤ popcount (withEngines r [i]) then r else withEngines r [i]) a.retired

/-- A tile whose commanded retirements have been taken. -/
def retiresNow (a : Crest) : Crest :=
  { a with retired := retiredNext a, toRetire := [], refused := a.refused || a.toRetire.any fun i => !(retiredNext a).getLsbD i.val }

theorem crests_retireAtStart (c : Fin 6) (s : State) : (retireAtStart c s).crests = Vec.upd s.crests c retiresNow ∨
    (retireAtStart c s).crests = s.crests ∧ retiresNow (Vec.at s.crests c) = Vec.at s.crests c := by
  unfold retireAtStart
  dsimp only
  split
  · next none => 
    refine .inr ⟨rfl, ?_⟩
    have empty := List.isEmpty_iff.1 none
    unfold retiresNow retiredNext
    rw [empty, List.foldl_nil, List.any_nil, Bool.or_false, ← empty]
  · left
    split
    · rfl
    · exact raise_crests _ _ _ _ _

theorem retireAtStart_same (c : Fin 6) (s : State) : Vec.at (retireAtStart c s).crests c = retiresNow (Vec.at s.crests c) := by
  obtain taken | ⟨kept, eq⟩ := crests_retireAtStart c s
  · rw [taken, Vec.at_upd_same]
  · rw [kept, eq]

theorem retireAtStart_ne {c d : Fin 6} (h : d ≠ c) (s : State) : Vec.at (retireAtStart c s).crests d = Vec.at s.crests d := by
  obtain taken | ⟨kept, -⟩ := crests_retireAtStart c s
  · rw [taken, Vec.at_upd_ne _ _ _ _ h]
  · rw [kept]

theorem retireAtStart_raises {c : Fin 6} {s : State} (more : retiredNext (Vec.at s.crests c) ≠ (Vec.at s.crests c).retired) :
    (hdrAt (retireAtStart c s) (.engine c)).raw.getLsbD 3 = true := by
  unfold retireAtStart
  dsimp only
  split
  · next none => exact absurd (by unfold retiredNext; rw [List.isEmpty_iff.1 none]; rfl) more
  · split
    · next same => exact absurd (eq_of_beq same) more
    · exact raise_sets _ _ _ _ _ (by decide)

/-- The remap entries of a tile. -/
def remapsOf (im : SchedImage) (c : Fin 6) : List Remap := im.remaps.filter fun e => e.crest.toNat == c.val

theorem putVariant_first {im : SchedImage} {c : Fin 6} {s : State} {k : Nat} {e : Remap} (here : (remapsOf im c)[k]? = some e)
    (fits : e.retired = (Vec.at s.crests c).retired)
    (first : ∀ j x, j < k → (remapsOf im c)[j]? = some x → x.retired ≠ (Vec.at s.crests c).retired) :
    putVariant im c s = updCrest c (fun t => { t with variant := BitVec.ofNat 8 k, map := e.map }) s := by
  obtain ⟨bound, eq⟩ := List.getElem?_eq_some_iff.1 here
  have found : (remapsOf im c).zipIdx.find? (fun x : Remap × Nat => x.1.retired == (Vec.at s.crests c).retired) = some (e, k) := by
    refine List.find?_eq_some_iff_getElem.2 ⟨by rw [fits]; exact beq_self_eq_true _, k, by rw [List.length_zipIdx]; exact bound, ?_, fun j before => ?_⟩
    · rw [List.getElem_zipIdx, eq, Nat.zero_add]
    · rw [List.getElem_zipIdx, Bool.not_eq_true']
      exact beq_false_of_ne (first j _ before (List.getElem?_eq_getElem _))
  unfold putVariant
  dsimp only
  rw [show (im.remaps.filter fun e => e.crest.toNat == c.val) = remapsOf im c from rfl, found]

theorem putVariant_none {im : SchedImage} {c : Fin 6} {s : State} (other : ∀ e ∈ im.remaps, e.crest.toNat = c.val → e.retired ≠ (Vec.at s.crests c).retired) :
    putVariant im c s = s := by
  have missing : (remapsOf im c).zipIdx.find? (fun x : Remap × Nat => x.1.retired == (Vec.at s.crests c).retired) = none := by
    refine List.find?_eq_none.2 fun x hx => ?_
    obtain ⟨mem, tile⟩ := List.mem_filter.1 (List.fst_mem_of_mem_zipIdx hx)
    simpa using other x.1 mem (eq_of_beq tile)
  unfold putVariant
  dsimp only
  rw [show (im.remaps.filter fun e => e.crest.toNat == c.val) = remapsOf im c from rfl, missing]

/-- A variant changes only the map of its tile. -/
theorem putVariant_cases (im : SchedImage) (c : Fin 6) (s : State) :
    putVariant im c s = s ∨ ∃ v m, putVariant im c s = updCrest c (fun t => { t with variant := v, map := m }) s := by
  unfold putVariant
  dsimp only
  split
  · exact .inr ⟨_, _, rfl⟩
  · exact .inl rfl

theorem tileAtRound_tileStarts (im : SchedImage) (c : Fin 6) (s : State) : tileAtRound im c s (tileStarts im s c) := by
  obtain ⟨u, hu⟩ : ∃ u, u = retireAtStart c s := ⟨_, rfl⟩
  have retires : Vec.at u.crests c = retiresNow (Vec.at s.crests c) := by rw [hu]; exact retireAtStart_same c s
  have whole : But 0x4004000022 s (putVariant im c u) := by
    rw [hu]
    exact but_putVariant ((Within.self _).le rfl) (but_retireAtStart (Within.self _) (.self _ s))
  have eq : tileStarts im s c = putVariant im c u := by rw [hu]; rfl
  have tile : ∃ v m, Vec.at (putVariant im c u).crests c = { retiresNow (Vec.at s.crests c) with variant := v, map := m } := by
    obtain same | ⟨v, m, put⟩ := putVariant_cases im c u
    · exact ⟨_, _, by rw [same, retires]⟩
    · exact ⟨v, m, by rw [put, ← retires]; exact Vec.at_upd_same _ _ _⟩
  have others : ∀ d, d ≠ c → Vec.at (putVariant im c u).crests d = Vec.at s.crests d := fun d ne => by
    have before : Vec.at u.crests d = Vec.at s.crests d := by rw [hu]; exact retireAtStart_ne ne s
    obtain same | ⟨v, m, put⟩ := putVariant_cases im c u
    · rw [same, before]
    · rw [put, ← before]
      exact Vec.at_upd_ne _ _ _ _ ne
  obtain ⟨v, m, tile⟩ := tile
  have set : (Vec.at (putVariant im c u).crests c).retired = (Vec.at u.crests c).retired := by rw [tile, retires]
  unfold tileAtRound
  dsimp only
  rw [eq]
  refine ⟨by rw [tile]; rfl, by rw [tile]; rfl, by rw [tile]; rfl, fun more => ?_, fun k e here fits first => ?_, fun other => ?_, others, restored_of_but whole⟩
  · have hdrs : (putVariant im c u).hdrs = u.hdrs := but_putVariant (W := 0x20) (Within.self _) (.self _ u) .hdrs rfl
    unfold hdrAt
    rw [hdrs, hu]
    rw [tile] at more
    exact retireAtStart_raises more
  · rw [set] at fits first
    rw [putVariant_first here fits first]
    unfold updCrest
    dsimp only
    rw [Vec.at_upd_same]
    exact ⟨rfl, rfl⟩
  · rw [set] at other
    rw [putVariant_none other, retires]
    exact ⟨rfl, rfl⟩

/-! ### The sample instant -/

/-- A piece of what was written reads back. -/
theorem memRead_write_mid {m : Memory} (a : Nat) (p q r : List Byte) (wf : memWf m = true) :
    memRead (memWrite m a (p ++ (q ++ r))) (a + p.length) q.length = q := by
  unfold memRead
  refine List.ext_getElem (by simp) fun k hk here => ?_
  rw [List.getElem_map, List.getElem_range, memGet_write a _ _ wf, if_pos (by simp only [List.length_append]; omega), List.getD_eq_getElem?_getD,
    List.getElem?_append_right (by omega), show a + p.length + k - a - p.length = k by omega, List.getElem?_append_left here, List.getElem?_eq_getElem here]
  rfl

theorem groupRead_bank {g : IoGroup} {s : State} (h : g.cls.toNat ≤ 1) (live : fieldLive s = true) :
    groupRead g s = sampleBank g.cls.toNat g.inst.toNat s := by
  unfold groupRead
  dsimp only
  rw [if_pos h, if_pos live]

theorem groupRead_dead {g : IoGroup} {s : State} (h : g.cls.toNat ≤ 5) (dead : fieldLive s = false) : groupRead g s = s := by
  have no : ¬ fieldLive s = true := by rw [dead]; decide
  unfold groupRead
  dsimp only
  rw [if_neg no, if_neg no, if_neg (by omega : ¬ g.cls.toNat = 6), dif_neg fun e => absurd e.1 (by omega), dif_neg fun e => absurd e.1 (by omega)]
  split
  · rfl
  · split <;> rfl

theorem groupRead_station {g : IoGroup} {s : State} (h : g.cls = 6) : groupRead g s = stationScan (stationOf g.inst.toNat) s := by
  have at_ : g.cls.toNat = 6 := by rw [h]; rfl
  unfold groupRead
  dsimp only
  rw [if_neg (by omega), if_neg (by omega), if_pos at_]

theorem groupRead_can {g : IoGroup} {s : State} (h : g.cls = 7) (here : g.inst.toNat < 16) : groupRead g s = canLatch ⟨g.inst.toNat, here⟩ s := by
  have at_ : g.cls.toNat = 7 := by rw [h]; rfl
  unfold groupRead
  dsimp only
  rw [if_neg (by omega), if_neg (by omega), if_neg (by omega), dif_pos ⟨at_, here⟩]

theorem groupRead_uart {g : IoGroup} {s : State} (h : g.cls = 8) (here : g.inst.toNat < 8) : groupRead g s = uartLatch ⟨g.inst.toNat, here⟩ s := by
  have at_ : g.cls.toNat = 8 := by rw [h]; rfl
  unfold groupRead
  dsimp only
  rw [if_neg (by omega), if_neg (by omega), if_neg (by omega), dif_neg fun e => absurd e.1 (by omega), dif_pos ⟨at_, here⟩]

/-- What tells that a tile of field inputs is there and powered. -/
def fieldPower (s : State) : Part × Bool := (s.part, s.field.powered)

theorem fieldPower_latchFlit (off : Nat) (ws : List Word) (s : State) : fieldPower (latchFlit off ws s) = fieldPower s := rfl

theorem fieldPower_sampleAi (s : State) (n : Fin 32) : fieldPower (sampleAi s n) = fieldPower s := rfl

theorem fieldPower_sampleBank (c i : Nat) (s : State) : fieldPower (sampleBank c i s) = fieldPower s := by
  unfold sampleBank
  split
  · exact fieldPower_latchFlit _ _ s
  · split
    · exact (fieldPower_latchFlit _ _ _).trans (foldl_proj fieldPower sampleAi fieldPower_sampleAi _ s)
    · rfl

theorem fieldLive_groupRead {g : IoGroup} {s : State} (h : g.cls.toNat ≤ 5) : fieldLive (groupRead g s) = fieldLive s := by
  have kept : fieldPower (groupRead g s) = fieldPower s := by
    unfold groupRead
    dsimp only
    rw [if_neg (by omega : ¬ g.cls.toNat = 6), dif_neg fun e => absurd e.1 (by omega), dif_neg fun e => absurd e.1 (by omega)]
    split
    · split
      · exact fieldPower_sampleBank _ _ s
      · rfl
    · split
      · split
        · exact fieldPower_latchFlit _ _ s
        · rfl
      · rfl
  exact congrArg (fun x : Part × Bool => x.1.hasField && x.2) kept

theorem but_groupRead (g : IoGroup) (s : State) : But 0x4004648002 s (groupRead g s) := by
  unfold groupRead
  dsimp only
  refine but_ite (but_ite (but_sampleBank ((Within.self _).le rfl) (.self _ s)) (.self _ s))
    (but_ite (but_ite (but_samplePanel ((Within.self _).le rfl) (.self _ s)) (.self _ s))
    (but_ite (but_stationScan ((Within.self _).le rfl) (.self _ s)) ?_))
  split
  · exact but_canLatch ((Within.self _).le rfl) (.self _ s)
  · split
    · exact but_uartLatch ((Within.self _).le rfl) (.self _ s)
    · exact .self _ s

theorem sampleGroup_dead {g : IoGroup} {s : State} (h : g.cls.toNat ≤ 5) (dead : fieldLive s = false) : sampleGroup s g = s := by
  rw [sampleGroup_eq, fieldLive_groupRead h, dead, decide_eq_true h, if_pos (by decide), groupRead_dead h dead]

theorem sampleGroup_live {g : IoGroup} {s : State} (h : 5 < g.cls.toNat ∨ fieldLive s = true) : sampleGroup s g = groupNoted g s.tb.tick (groupRead g s) := by
  have live : (decide (g.cls.toNat ≤ 5) && !fieldLive (groupRead g s)) = false := by
    by_cases low : g.cls.toNat ≤ 5
    · rw [fieldLive_groupRead low, h.resolve_left (by omega)]
      exact Bool.and_false _
    · rw [decide_eq_false low]
      rfl
  rw [sampleGroup_eq, live, if_neg (by decide), but_groupRead g s .tb rfl]

theorem latched_groupRead (g : IoGroup) (s : State) : (groupRead g s).run.latched = s.run.latched :=
  ((RoundKept.self RunCtl.latched s).groupRead (fun _ _ _ _ => rfl) g).run

/-- The group counts as latched now, and no other one changes. -/
theorem latched_groupNoted (g : IoGroup) (tick : Nat) (s : State) :
    (g.cls, g.inst, tick) ∈ (groupNoted g tick s).run.latched ∧ ∀ c j, (c, j) ≠ (g.cls, g.inst) → ∀ n,
      (c, j, n) ∈ (groupNoted g tick s).run.latched ↔ (c, j, n) ∈ s.run.latched := by
  refine ⟨List.mem_cons_self, fun c j other n => ?_⟩
  have apart : (!(c == g.cls && j == g.inst)) = true := by
    rw [Bool.not_eq_true', Bool.and_eq_false_iff, beq_eq_false_iff_ne, beq_eq_false_iff_ne]
    exact not_and_or.1 fun ⟨hc, hj⟩ => other (by rw [hc, hj])
  refine List.mem_cons.trans ⟨fun h => ?_, fun h => .inr (List.mem_filter.2 ⟨h, apart⟩)⟩
  obtain same | kept := h
  · exact absurd (congrArg (fun x => (x.1, x.2.1)) same) other
  · exact (List.mem_filter.1 kept).1

/-! What the classes of groups read. -/

theorem flits_latchFlit (off : Nat) (ws : List Word) (s : State) : (latchFlit off ws s).field.flits = memWrite s.field.flits off (stampFlit s ws) := rfl

theorem stampFlit_word (s : State) (w : Word) :
    stampFlit s [w] = bytesOf 4 w.toNat ++ (List.replicate 52 0 ++ bytesOf 8 (nowNs s)) := by
  have bytes : bytesOfWords [w] = bytesOf 4 w.toNat := List.append_nil _
  unfold stampFlit takePad
  rw [bytes, bytesOf_length, List.take_of_length_le (by rw [bytesOf_length]; omega), List.append_assoc]

theorem diWord_bits (s : State) (b k : Nat) (h : k < 8) :
    (diWord s b).getLsbD (2 * k) = s.field.diVal.getLsbD (8 * b + k) ∧ (diWord s b).getLsbD (2 * k + 1) = s.field.diBrk.getLsbD (8 * b + k) := by
  have low : decide (2 * k < 32) = true ∧ decide (2 * k < 16) = true := ⟨decide_eq_true (by omega), decide_eq_true (by omega)⟩
  have high : decide (2 * k + 1 < 32) = true ∧ decide (2 * k + 1 < 16) = true := ⟨decide_eq_true (by omega), decide_eq_true (by omega)⟩
  unfold diWord
  rw [bitsOf_getLsbD, bitsOf_getLsbD]
  dsimp only
  rw [low.1, low.2, high.1, high.2, if_pos (by omega), if_neg (by omega), show 2 * k / 2 = k by omega, show (2 * k + 1) / 2 = k by omega]
  exact ⟨rfl, rfl⟩

/-- A DI bank's flit takes its latched values. -/
theorem sampleBank_di {s : State} (wf : memWf s.field.flits = true) (i : Nat) :
    let m := (sampleBank 0 i s).field.flits
    (∀ k, k < 8 → (memWord m (64 * i)).getLsbD (2 * k) = s.field.diVal.getLsbD (8 * i + k) ∧
      (memWord m (64 * i)).getLsbD (2 * k + 1) = s.field.diBrk.getLsbD (8 * i + k)) ∧
    memRead m (64 * i + 56) 8 = bytesOf 8 (nowNs s) ∧ sameOutside s.field.flits m (64 * i) (64 * i + 64) := by
  obtain ⟨m, hm⟩ : ∃ m, m = (sampleBank 0 i s).field.flits := ⟨_, rfl⟩
  rw [← hm]
  have eq : m = memWrite s.field.flits (64 * i) (stampFlit s [diWord s i]) := by
    rw [hm]
    exact flits_latchFlit _ _ s
  rw [stampFlit_word] at eq
  have len : (bytesOf 4 (diWord s i).toNat ++ (List.replicate 52 (0 : Byte) ++ bytesOf 8 (nowNs s))).length = 64 := by
    simp only [List.length_append, bytesOf_length, List.length_replicate]
  have word : memWord m (64 * i) = diWord s i := by
    have read := memRead_write_mid (64 * i) [] (bytesOf 4 (diWord s i).toNat) (List.replicate 52 0 ++ bytesOf 8 (nowNs s)) wf
    rw [bytesOf_length, List.nil_append, List.length_nil, Nat.add_zero] at read
    rw [memWord, eq]
    rw [read, wordOf_bytesOf]
  have stamp := memRead_write_mid (64 * i) (bytesOf 4 (diWord s i).toNat ++ List.replicate 52 0) (bytesOf 8 (nowNs s)) [] wf
  rw [List.append_nil, List.append_assoc, List.length_append, bytesOf_length, bytesOf_length, List.length_replicate, ← eq] at stamp
  refine ⟨fun k hk => ?_, stamp, ?_⟩
  · rw [word]
    exact diWord_bits s i k hk
  · have outside := sameOutside_write (64 * i) (bytesOf 4 (diWord s i).toNat ++ (List.replicate 52 0 ++ bytesOf 8 (nowNs s))) wf
    rwa [len, ← eq] at outside

/-- A CAN controller's RX buffers are copied to its latch, and the NEW and OVR of unlocked ones clear. -/
theorem canLatch_reads (c : Fin 16) (s : State) :
    let x := Vec.at s.cans c
    let y := Vec.at (canLatch c s).cans c
    y.latch = (List.finRange 64).foldl (latchBuf x) x.latch ∧
      (∀ b : Fin 64, Vec.at x.kinds b = .rx → (x.lock = true ∧ x.sel.val = b.val) ∨ (y.fresh.getLsbD b.val = false ∧ y.ovr.getLsbD b.val = false)) ∧
      (∀ b : Fin 64, Vec.at x.kinds b ≠ .rx ∨ (x.lock = true ∧ x.sel.val = b.val) →
        y.fresh.getLsbD b.val = x.fresh.getLsbD b.val ∧ y.ovr.getLsbD b.val = x.ovr.getLsbD b.val) := by
  intro x y
  let rx : BitVec 64 := bitsOf 64 fun b => if h : b < 64 then Vec.at x.kinds ⟨b, h⟩ == .rx && !(x.lock && x.sel.val == b) else false
  have eq : y = { x with
      latch := (List.finRange 64).foldl (latchBuf x) x.latch
      fresh := x.fresh &&& ~~~rx
      ovr := x.ovr &&& ~~~rx } := Vec.at_upd_same _ _ _
  have bit : ∀ b : Fin 64, rx.getLsbD b.val = (Vec.at x.kinds b == .rx && !(x.lock && x.sel.val == b.val)) := fun b => by
    rw [bitsOf_getLsbD, dif_pos b.isLt, decide_eq_true b.isLt, Bool.true_and]
  have cleared : ∀ (m : BitVec 64) (b : Fin 64), (m &&& ~~~rx).getLsbD b.val = (m.getLsbD b.val && !rx.getLsbD b.val) := fun m b => by
    rw [BitVec.getLsbD_and, BitVec.getLsbD_not, decide_eq_true b.isLt, Bool.true_and]
  have fresh : y.fresh = x.fresh &&& ~~~rx := (congrArg Can.fresh eq :)
  have ovr : y.ovr = x.ovr &&& ~~~rx := (congrArg Can.ovr eq :)
  refine ⟨(congrArg Can.latch eq :), fun b kind => ?_, fun b kept => ?_⟩
  · by_cases locked : x.lock = true ∧ x.sel.val = b.val
    · exact .inl locked
    · have free : rx.getLsbD b.val = true := by
        rw [bit, kind, show (x.lock && x.sel.val == b.val) = false by simpa using locked]
        rfl
      refine .inr ?_
      rw [fresh, ovr, cleared, cleared, free]
      exact ⟨Bool.and_false _, Bool.and_false _⟩
  · have stays : rx.getLsbD b.val = false := by
      rw [bit]
      obtain other | ⟨lock, sel⟩ := kept
      · rw [beq_false_of_ne other]
        rfl
      · rw [lock, sel, beq_self_eq_true]
        exact Bool.and_false _
    rw [fresh, ovr, cleared, cleared, stays]
    exact ⟨Bool.and_true _, Bool.and_true _⟩

/-- What a UART's latch holds after its sample. -/
def uartLatched (x : Uart) (now : Nat) : List Byte :=
  bytesOf 4 (num x.since.length 0 ||| flag x.lost 12).toNat ++ bytesOf 4 0 ++ bytesOf 8 now ++ List.replicate 112 0 ++ takePad latchBytes x.since

/-- A UART after its sample, which wrote `d` to its latch. -/
def uartReads (d : List Byte) (x : Uart) : Uart := { x with latch := memWrite x.latch 0 d, since := [], lost := false }

theorem uartReads_parts (d : List Byte) (x : Uart) :
    (uartReads d x).latch = memWrite x.latch 0 d ∧ (uartReads d x).since = [] ∧ (uartReads d x).lost = false := ⟨rfl, rfl, rfl⟩

theorem uarts_uartLatch (u : Fin 8) (s : State) : (uartLatch u s).uarts = Vec.upd s.uarts u fun x => uartReads (uartLatched x (nowNs s)) x := rfl

/-- A latched UART's bytes move to its latch. -/
theorem uartLatch_reads (u : Fin 8) {s : State} (wf : memWf (Vec.at s.uarts u).latch = true) :
    let x := Vec.at s.uarts u
    let y := Vec.at (uartLatch u s).uarts u
    y.since = [] ∧ y.lost = false ∧ memWord y.latch 0 = num x.since.length 0 ||| flag x.lost 12 ∧ memRead y.latch 8 8 = bytesOf 8 (nowNs s) ∧
      ∀ k, k < x.since.length → k < 3968 → memGet y.latch (0x80 + k) = x.since.getD k 0 := by
  rw [uarts_uartLatch, Vec.at_upd_same]
  obtain ⟨x, hx⟩ : ∃ x, x = Vec.at s.uarts u := ⟨_, rfl⟩
  rw [← hx] at wf ⊢
  obtain ⟨latch, since, lost⟩ := uartReads_parts (uartLatched x (nowNs s)) x
  refine ⟨since, lost, ?_, ?_, fun k short room => ?_⟩
  · have read := memRead_write_mid 0 [] (bytesOf 4 (num x.since.length 0 ||| flag x.lost 12).toNat)
      (bytesOf 4 0 ++ (bytesOf 8 (nowNs s) ++ (List.replicate 112 0 ++ takePad latchBytes x.since))) wf
    rw [bytesOf_length, List.nil_append, List.length_nil, Nat.add_zero] at read
    rw [memWord, latch, uartLatched, List.append_assoc, List.append_assoc, List.append_assoc]
    rw [read, wordOf_bytesOf]
  · have read := memRead_write_mid 0 (bytesOf 4 (num x.since.length 0 ||| flag x.lost 12).toNat ++ bytesOf 4 0) (bytesOf 8 (nowNs s))
      (List.replicate 112 0 ++ takePad latchBytes x.since) wf
    rw [bytesOf_length, List.length_append, bytesOf_length, bytesOf_length] at read
    rw [latch, uartLatched, List.append_assoc, List.append_assoc]
    exact read
  · have before : (bytesOf 4 (num x.since.length 0 ||| flag x.lost 12).toNat ++ bytesOf 4 0 ++ bytesOf 8 (nowNs s) ++
        List.replicate 112 (0 : Byte)).length = 128 := by
      simp only [List.length_append, bytesOf_length, List.length_replicate]
    have taken : k < (takePad latchBytes x.since).length := by
      unfold takePad latchBytes
      rw [List.length_append, List.length_take, List.length_replicate]
      omega
    rw [latch, uartLatched, memGet_write _ _ _ wf, if_pos ⟨by omega, by rw [List.length_append, before]; omega⟩, List.getD_eq_getElem?_getD,
      List.getElem?_append_right (by rw [before]; omega), before, show 0x80 + k - 0 - 128 = k by omega, takePad,
      List.getElem?_append_left (by rw [List.length_take]; unfold latchBytes; omega), List.getElem?_take_of_lt (show k < latchBytes from room),
      List.getD_eq_getElem?_getD]

theorem groupSampled_sampleGroup (s : State) (g : IoGroup) : Stmt.groupSampled g s (sampleGroup s g) := by
  refine ⟨fun low dead => sampleGroup_dead low dead, fun live => ?_⟩
  rw [sampleGroup_live live]
  obtain ⟨latched, others⟩ := latched_groupNoted g s.tb.tick (groupRead g s)
  rw [latched_groupRead] at others
  refine ⟨⟨_, rfl, latched⟩, others, fun cls low wf => ?_, fun here cls => ?_, fun here cls wf => ?_, fun cls => ?_⟩
  · have at_ : g.cls.toNat = 0 := by rw [cls]; rfl
    have read : groupRead g s = sampleBank 0 g.inst.toNat s := by
      rw [groupRead_bank (by omega) (live.resolve_left (by omega)), at_]
    rw [read]
    exact sampleBank_di wf g.inst.toNat
  · rw [groupRead_can cls here]
    exact canLatch_reads _ s
  · rw [groupRead_uart cls here]
    exact uartLatch_reads _ wf
  · rw [groupRead_station cls]
    exact ⟨_, rfl, rfl, rfl⟩

/-! ### A round start (R29, R47, R99) -/

/-- The groups that are sampled in the round, in their order. -/
def sampleOrder (gs : List IoGroup) : List IoGroup :=
  (gs.filter fun g => g.cls != 6) ++ (List.range 256).flatMap fun n => gs.filter fun g => g.cls == 6 && g.inst.toNat == n

theorem samples_eq {s : State} {im : SchedImage} (active : s.sched.active = some im) :
    samples s = (sampleOrder (im.ioGroups.filter fun g => g.sample && timingActive g.t s.sched.round)).foldl sampleGroup s := by
  unfold samples sampledGroups
  rw [active]
  rfl

theorem newRound_inTurn {s : State} {im : SchedImage} (active : s.sched.active = some im) :
    ∃ u1 u2, inTurn (tileAtRound im) (presentCrests s) (roundAligned ((schedBefore s).elim 0 roundNsOf) (roundOpens s)) u1 ∧
      inTurn Stmt.groupSampled (sampleOrder (im.ioGroups.filter fun g => g.sample && timingActive g.t s.sched.round)) (shiftTasks (shiftTrio false u1)) u2 ∧
      newRound false s = roundCounted (roundSealed u2) := by
  obtain ⟨u0, h0⟩ : ∃ u, u = roundAligned ((schedBefore s).elim 0 roundNsOf) (roundOpens s) := ⟨_, rfl⟩
  have aligned : But 0x4004000012 (roundOpens s) u0 := by rw [h0]; exact but_roundAligned _ _
  have crests : presentCrests u0 = presentCrests s := presentCrests_of_part (aligned .part rfl)
  obtain ⟨u1, h1⟩ : ∃ u, u = roundTiles im u0 := ⟨_, rfl⟩
  have tiles : But 0x4004000022 u0 u1 := by rw [h1]; exact but_roundTiles _ _
  obtain ⟨v, hv⟩ : ∃ v, v = shiftTasks (shiftTrio false u1) := ⟨_, rfl⟩
  have shifted : v.sched = (roundOpens s).sched := by
    rw [hv]
    exact (tiles .sched rfl).trans (aligned .sched rfl)
  have sampled := samples_eq (s := v) (im := im) (by rw [shifted]; exact active)
  rw [shifted] at sampled
  have eq := newRound_eq active false
  rw [roundSampled, roundPrepared, ← h0, ← h1, ← hv] at eq
  rw [← h0, ← crests]
  refine ⟨u1, samples v, ?_, ?_, eq⟩
  · rw [h1]
    exact inTurn_foldl (fun s c => tileAtRound_tileStarts im c s) _ _
  · rw [← hv, sampled]
    exact inTurn_foldl groupSampled_sampleGroup _ _

end Sys2Proof.Machine

/-! Proofs about the trim of the clock (R29, R142). -/
namespace Sys2Proof.Machine
open Sys2Proof.Stmt

/-! ### The trim of the next round -/

theorem oldestTheta_none {thetas : List (Option Int)} (h : ∀ x ∈ thetas.take 8, x = none) : oldestTheta thetas = none := by
  unfold oldestTheta
  refine List.findSome?_eq_none_iff.2 fun x hx => ?_
  rw [h x.1 (List.fst_mem_of_mem_zipIdx (List.mem_reverse.1 hx))]
  rfl

theorem oldestTheta_at {thetas : List (Option Int)} {k : Nat} {old : Int} (low : k < 8) (here : thetas[k]? = some (some old))
    (last : ∀ j, k < j → j < 8 → ∀ x, thetas[j]? = some x → x = none) : oldestTheta thetas = some (old, k + 1) := by
  obtain ⟨z, hz⟩ : ∃ z, z = (thetas.take 8).zipIdx := ⟨_, rfl⟩
  have at_ : ∀ i, z[i]? = (if i < 8 then thetas[i]? else none).map fun x => (x, i) := fun i => by
    rw [hz, List.getElem?_zipIdx, List.getElem?_take, Nat.zero_add]
  have found : z[k]? = some (some old, k) := by
    rw [at_, if_pos low, here]
    rfl
  obtain ⟨bound, eq⟩ := List.getElem?_eq_some_iff.1 found
  have split : z.reverse = (z.drop (k + 1)).reverse ++ z[k] :: (z.take k).reverse := by
    conv_lhs => rw [← List.take_append_drop k z, List.drop_eq_getElem_cons bound]
    rw [List.reverse_append, List.reverse_cons, List.append_assoc]
    rfl
  unfold oldestTheta
  rw [← hz]
  refine List.findSome?_eq_some_iff.2 ⟨_, _, _, split, by rw [eq]; rfl, fun x hx => ?_⟩
  obtain ⟨i, hi⟩ := List.mem_iff_getElem?.1 (List.mem_reverse.1 hx)
  rw [List.getElem?_drop, at_] at hi
  split at hi
  · obtain ⟨y, hy, rfl⟩ := Option.map_eq_some_iff.1 hi
    rw [last _ (by omega) (by assumption) y hy]
    rfl
  · cases hi

theorem nextTrim_none {thetas : List (Option Int)} (h : ∀ x ∈ thetas.take 8, x = none) (roundNs : Nat) (th2 : Int) (trims : List Int) :
    nextTrim roundNs th2 thetas trims = max (-200000000) (min 200000000 (-(th2 * 500000000000 / (8 * roundNs)))) := by
  unfold nextTrim
  rw [oldestTheta_none h]
  dsimp only
  rw [neg_zero, zero_sub]
  rfl

theorem nextTrim_at {thetas : List (Option Int)} {k : Nat} {old : Int} (low : k < 8) (here : thetas[k]? = some (some old))
    (last : ∀ j, k < j → j < 8 → ∀ x, thetas[j]? = some x → x = none) (roundNs : Nat) (th2 : Int) (trims : List Int) :
    nextTrim roundNs th2 thetas trims = max (-200000000) (min 200000000
      (-((th2 - old) * 500000000000 / (roundNs * ((k + 1 : Nat) : Int)) - ((trims.drop 2).take (k + 1)).sum / ((k + 1 : Nat) : Int)) -
        th2 * 500000000000 / (8 * roundNs))) := by
  unfold nextTrim
  rw [oldestTheta_at low here last]
  dsimp only
  rw [← List.sum_eq_foldl]
  rfl

/-! ### The trim of a partner -/

theorem clampInt_nearest (v : Int) : (clampInt 32 v).1 = nearest 32 v := by
  unfold clampInt nearest
  rw [show ((2 ^ (32 - 1) : Nat) : Int) = 2147483648 from rfl, show (2 : Int) ^ (32 - 1) = 2147483648 from rfl]
  split
  · exact congrArg (BitVec.ofInt 32) (by omega)
  · split
    · exact congrArg (BitVec.ofInt 32) (by omega)
    · exact congrArg (BitVec.ofInt 32) (by omega)

/-- What of the timebase the trim is made of. -/
def trimsOf (s : State) : Word × List (Option Int) × List Int := (s.tb.trim, s.tb.thetas, s.tb.trims)

theorem trimsOf_portDelay (s : State) (p : TrioPort) : trimsOf (portDelay s p) = trimsOf s := by
  have noted : ∀ w, trimsOf w = trimsOf s → trimsOf (raise .timebase 6 none .unstated w) = trimsOf s := fun w h =>
    (congrArg (fun x : Timebase => (x.trim, x.thetas, x.trims)) (raise_tb _ _ _ _ w)).trans h
  have delayed : ∀ (late : Prop) [Decidable late] w, trimsOf w = trimsOf s →
      trimsOf (if late then raise .timebase 6 none .unstated w else w) = trimsOf s := fun late _ w h => by
    split
    · exact noted w h
    · exact h
  unfold portDelay
  cases thetaDelay s (portPartner s p) with
  | none => rfl
  | some d =>
    refine delayed _ _ ?_
    cases p <;> rfl

/-- The delays of both ports, measured. -/
def delaysMeasured (s : State) : State := portDelay (portDelay s .a) .b

/-- What decides the trim does not see the clock. -/
theorem delaysMeasured_view (s : State) : isReference (delaysMeasured s) = isReference s ∧ activeMember (delaysMeasured s) = activeMember s ∧
    thetaDelay (delaysMeasured s) = thetaDelay s ∧ (delaysMeasured s).sched = s.sched ∧ trimsOf (delaysMeasured s) = trimsOf s := by
  obtain ⟨v, hv⟩ : ∃ v, v = delaysMeasured s := ⟨_, rfl⟩
  have whole : But 0x4004000012 s v := by
    rw [hv]
    exact but_portDelay (Within.self _) (but_portDelay (Within.self _) (.self _ s))
  have eq : { v with hdrs := s.hdrs, tb := s.tb, recorder := s.recorder, free := s.free } = s := restored_of_but whole
  have trims : trimsOf v = trimsOf s := by
    rw [hv]
    exact (trimsOf_portDelay _ _).trans (trimsOf_portDelay _ _)
  rw [← hv]
  exact ⟨(congrArg isReference eq :), (congrArg activeMember eq :), (congrArg thetaDelay eq :), whole .sched rfl, trims⟩

theorem alignTrim_eq {s : State} {a : Fin 3} {im : SchedImage} (follows : isReference s = false) (member : activeMember s = some a)
    (active : s.sched.active = some im) :
    (thetaDelay s a = none → (alignTrim s).tb.trim = s.tb.trim) ∧
    ∀ th2 d, thetaDelay s a = some (th2, d) → (alignTrim s).tb.trim = BitVec.ofInt 32 (nextTrim (roundNsOf im) th2 s.tb.thetas s.tb.trims) ∧
      (alignTrim s).tb.theta = nearest 32 (th2 / 2) := by
  obtain ⟨ref, act, delay, sched, trims⟩ := delaysMeasured_view s
  obtain ⟨v, hv⟩ : ∃ v, v = delaysMeasured s := ⟨_, rfl⟩
  rw [← hv] at ref act delay sched trims
  have trim : v.tb.trim = s.tb.trim := (congrArg (fun x => x.1) trims :)
  have thetas : v.tb.thetas = s.tb.thetas := (congrArg (fun x => x.2.1) trims :)
  have sums : v.tb.trims = s.tb.trims := (congrArg (fun x => x.2.2) trims :)
  unfold alignTrim
  rw [show portDelay (portDelay s .a) .b = v from hv.symm]
  dsimp only
  rw [ref, follows, if_neg (by decide), act, member, sched, active, delay]
  dsimp only
  have counted : ∀ b : Bool, (if b then bump .timebase 0x11 1 v else v).tb = v.tb := fun b => by
    cases b
    · rfl
    · exact bump_tb _ _ _ v
  refine ⟨fun none => ?_, fun th2 d some => ?_⟩
  · rw [none]
    dsimp only
    rw [noteConds_tb]
    exact (congrArg Timebase.trim (counted _)).trans trim
  · rw [some]
    dsimp only
    rw [noteConds_tb, ← thetas, ← sums, ← clampInt_nearest]
    exact ⟨rfl, rfl⟩

end Sys2Proof.Machine

/-! The rounds, the slots, the step starts and the deadlines (O18). -/
namespace Sys2Proof.Machine
open Sys2Proof.Stmt

/-! ### What is late at a slot's end -/

/-- Loop steps or a transfer that have not ended stop the controller. -/
theorem slotDeadline_stops {s : State} {im : SchedImage} (active : s.sched.active = some im) (running : s.sched.running = true)
    (begun : s.sched.slotBegun = true) (state : s.run.state = .running) (alone : inTrio s = false) (idle : ∀ e, (engineAt s e).run = none)
    {late : BitVec 8} (unended : (∃ c : Fin 6, c.val < s.part.crests ∧ (Vec.at s.crests c).loopsLate = true) ∨
      (∃ k < 8, late.getLsbD k = true ∧ s.part.hasTile k = true)) :
    ∃ cause, Overran s cause (slotDeadline late s) ∧ (slotDeadline late s).crests = s.crests ∧
      (cause = 2 ↔ ∃ c : Fin 6, c.val < s.part.crests ∧ (Vec.at s.crests c).loopsLate = true) ∧
      ((∀ c, (Vec.at s.crests c).loopsLate = false) → cause = 3) := by
  obtain ⟨loops, transfers⟩ := slotDeadline_units active running begun state alone idle late
  by_cases loop : ∃ c : Fin 6, c.val < s.part.crests ∧ (Vec.at s.crests c).loopsLate = true
  · obtain ⟨stopped, crests⟩ := loops loop
    have ⟨c, _, isLate⟩ := loop
    exact ⟨2, stopped, crests, ⟨fun _ => loop, fun _ => rfl⟩, fun onTime => absurd isLate (by rw [onTime c]; decide)⟩
  · obtain ⟨stopped, crests⟩ := transfers loop (unended.resolve_left loop)
    exact ⟨3, stopped, crests, ⟨fun other => absurd other (by decide), fun isLate => absurd isLate loop⟩, fun _ => rfl⟩

/-! ### The first round -/

/-- The first round begins frame 0, round 0, and a device that was starting runs. -/
theorem roundStart_first {s : State} (stopped : s.sched.running = false) (may : mayBegin s = true) :
    let t := startRound s
    (t.sched.running = true ∧ t.sched.frame = 0 ∧ t.sched.round = 0 ∧ t.sched.slot = 0) ∧ t.sched.frameNs = t.sched.roundNs ∧
      t.run.state = (if s.run.state == .starting then .running else s.run.state) ∧ (∀ pg ∈ roundPages, (hdrAt t pg).lock = true) ∧
      t.otp = s.otp ∧ t.part = s.part := by
  obtain ⟨im, active⟩ := mayBegin_active may
  obtain ⟨running, frame, round, slot, instant, state, locks⟩ := firstRound_begins active
  have kept := but_round s
  intro t
  have otp : t.otp = s.otp := kept .otp rfl
  have part : t.part = s.part := kept .part rfl
  have eq : t = firstRound s := (startRound_first stopped).trans (if_pos may)
  refine ⟨?_, ?_, ?_, ?_, otp, part⟩ <;> rw [eq]
  · exact ⟨running, frame, round, slot⟩
  · exact instant
  · exact state
  · exact locks

/-- Settles O18, each command by the lemmas of its parts: a slot start and a step start as folds over the schedule's entries, a deadline by the
first unit that is late, and a round start as its boundary followed by the round that opens. -/
theorem roundsSlotsStepsAndDeadlines : Obligations.RoundsSlotsStepsAndDeadlines := by
  unfold Obligations.RoundsSlotsStepsAndDeadlines
  refine ⟨⟨fun s im active running => ⟨fun inRound us => ?_, fun past us => ?_⟩, inTurn_endSlotWrites, fun x d s => ⟨?_, ?_⟩,
    fun s im active running begun on us ended => ?_, fun s im c i r late active running begun state alone here run => ?_,
    fun s im late active running begun state alone idle unended => ?_, fun s idle onTime => ?_⟩,
    fun s stopped => ⟨fun no => ?_, fun may starting => ?_, fun may halted => ?_⟩, fun s im running active unrestarted fresh => ?_,
    fun s running unrestarted begun => ?_, fun r s => ?_, fun s im active => ?_, fun s a im th2 d follows member active => ?_,
    fun roundNs th2 thetas trims => ⟨fun none => ?_, fun k old low here last => ?_⟩⟩
  · exact ⟨_, congrArg Host.Outcome.next (slotStart_begins active running inRound us), sched_slotStart im _ us s, roster_slotStart im _ us s,
      fun c => (late_slot im _ c).trans (late_slotOpens im _ us s c), fun idle alone phase empty => slot_untouched idle alone phase empty im _ us,
      slot_inOrder us s⟩
  · exact congrArg Host.Outcome.next (slotStart_past active past us)
  · exact fun c tile wf => written (writeFlit_loop tile d s) wf
  · exact fun c saddle low high wf => written (writeFlit_can saddle low high d s) wf
  · have engines := but_stepEngines_start im us s
    have loops := but_stepLoops im us ended s
    exact ⟨stepLoops im us ended s, stepEngines im us s, congrArg Host.Outcome.next (stepStart_begins active running begun on us ended),
      (loops .pool rfl).trans (engines .pool rfl), (loops .sched rfl).trans (engines .sched rfl), loop_stepEngines im us s, engines .sched rfl,
      (but_stepEngines im us s .tb rfl).trans (but_upsets us _ .tb rfl), inTurn_stepLoops im us ended s,
      fun c i l x here on logical entry => stepLoops_engines (e := ⟨c, i⟩) im us ended here on ⟨logical, entry⟩⟩
  · obtain ⟨stopped, raises, raw, retired⟩ := slotDeadline_engine (e := ⟨c, i⟩) active running begun state alone here run late
    exact ⟨_, rfl, raises, raw, stopped.slot, stopped.frame, stopped.cause, stopped.state, stopped.urgent, stopped.raw, retired⟩
  · obtain ⟨cause, stopped, crests, loops, transfers⟩ := slotDeadline_stops active running begun state alone idle unended
    refine ⟨_, rfl, crests, stopped.slot, stopped.frame, ?_, ?_, stopped.state, stopped.urgent, stopped.raw⟩ <;> rw [stopped.cause]
    · exact loops
    · exact transfers
  · have kept := slotDeadline_nothing idle onTime
    exact ⟨_, rfl, kept .sched rfl, kept .crests rfl, kept .pool rfl, kept .run rfl⟩
  · exact congrArg Host.Outcome.next ((startRound_first stopped).trans (if_neg (by rw [no]; decide)))
  · obtain ⟨⟨running, frame, round, slot⟩, instant, state, locks, otp, part⟩ := roundStart_first stopped may
    rw [starting] at state
    exact ⟨_, rfl, running, frame, round, slot, state, instant, locks, otp, part⟩
  · obtain ⟨⟨running, frame, round, slot⟩, -, state, -, otp, part⟩ := roundStart_first stopped may
    rw [halted] at state
    exact ⟨_, rfl, running, frame, round, slot, state, otp, part⟩
  · obtain ⟨eq, slot, begun, runs, last, next, instant⟩ := startRound_next running active unrestarted fresh
    have kept := but_round s
    exact ⟨_, rfl, slot, begun, runs, last, next, instant, kept .otp rfl, kept .part rfl, eq⟩
  · exact congrArg Host.Outcome.next (startRound_switched running unrestarted begun)
  · obtain ⟨v, inOrder, eq⟩ := commits_inTurn r s
    exact ⟨commitsNoted r s, v, inOrder, eq, fun dark => if_neg (by rw [dark]; decide), fun eff => commitsNoted_values eff⟩
  · exact newRound_inTurn active
  · obtain ⟨missing, measured⟩ := alignTrim_eq follows member active
    exact ⟨missing, measured th2 d⟩
  · exact nextTrim_none none roundNs th2 trims
  · exact nextTrim_at low here last roundNs th2 trims

end Sys2Proof.Machine

/-! Proofs about one instruction of a control engine (chapter 3): the frame of its execution, where control goes after it, and what an
exception leaves. -/
namespace Sys2Proof.Machine
open Sys2Proof.Stmt

/-! ### An instruction that has executed -/

/-- Engine `e` has executed an instruction that leaves it as `h`: the instruction counts on the tile's page. -/
def executed (e : EngRef) (h : Engine) (s : State) : State := bump (.engine e.crest) 0x13 1 (updEngine e (fun _ => h) s)

@[simp] theorem engineAt_executed (e : EngRef) (h : Engine) (s : State) : engineAt (executed e h s) e = h := by
  simp [executed]

/-- A count on the page of the engine's tile keeps the frame of an instruction. -/
theorem onlyEngine_bump {e : EngRef} {s t : State} (h : onlyEngine e s t) (code n : Nat) :
    onlyEngine e s (bump (.engine e.crest) code n t) := by
  obtain ⟨whole, tiles, others, counts, pages⟩ := h
  refine ⟨Eq.trans ?_ whole, fun c => by rw [bump_crests]; exact tiles c, fun x hx => (engineAt_bump _ _ _ _ _).trans (others x hx),
    fun pg => ?_, fun pg hpg => (hdrAt_bump_ne _ _ _ _ _ hpg).trans (pages pg hpg)⟩
  · exact (congrArg (fun x : State => { x with crests := s.crests, hdrs := s.hdrs }) (bump_frame (.engine e.crest) code n t) :)
  · exact (congrArg (fun x : PageHdr => { x with cnt := (hdrAt s pg).cnt }) (hdrAt_bump (.engine e.crest) pg code n t) :).trans (counts pg)

theorem onlyEngine_executed (e : EngRef) (h : Engine) (s : State) : onlyEngine e s (executed e h s) :=
  onlyEngine_bump (onlyEngine_updEngine e _ s) _ _

/-- The instruction that stands at the PC has its effect, where it is legal and is no control instruction in a delay slot. -/
theorem runWord_stands {s : State} {e : EngRef} {w : Word} (stands : standsAt s e w) (legal : legalWord w = true)
    (free : (engineAt s e).delay = none ∨ isControl w = false) (body : State → Engine → Eff) :
    runWord e w body s = finish e (body s (engineAt s e)) s :=
  runWord_runs body stands.1 stands.2 legal free

/-! ### Where control goes (R67, R72, R74, R76) -/

/-- The takeWhile of a list is the longest prefix of elements that pass the test. -/
theorem takeWhile_longest {α : Type} (p : α → Bool) (l : List α) :
    l.takeWhile p <+: l ∧ (∀ x ∈ l.takeWhile p, p x = true) ∧ ∀ x, l[(l.takeWhile p).length]? = some x → p x = false := by
  refine ⟨List.takeWhile_prefix p, fun x hx => (List.mem_takeWhile_imp hx :), fun x hx => ?_⟩
  induction l with
  | nil => cases hx
  | cons y ys ih =>
    cases hy : p y with
    | true => rw [List.takeWhile_cons_of_pos hy] at hx; exact ih hx
    | false =>
      rw [List.takeWhile_cons_of_neg (by simp [hy])] at hx
      cases hx
      exact hy

/-- The branch whose delay slot this was ends the loops it leaves (R72, R76). -/
theorem advance_taken_loops {g : Engine} {d : Word} (h : g.delay = some (some d)) :
    (advance g).loops = (decLoops g.pc g.loops).takeWhile fun l => inBody l d && l.count != 0 := by
  unfold advance; simp [h]

/-- What is left of the loops at the end of a body (R74). -/
theorem advance_end_loops {g : Engine} {l : LoopReg} (hd : ∀ d, g.delay ≠ some (some d)) (h : loopAt g g.pc = some l) :
    (advance g).loops = if 1 < l.count.toNat then decLoops g.pc g.loops else g.loops.takeWhile fun l => l.last != g.pc := by
  unfold advance; dsimp only; split
  · next d hd' => exact absurd hd' (hd d)
  · rw [h]; dsimp only; split <;> rfl

theorem goesOn_advance (g : Engine) : goesOn g (advance g) := by
  have counted : (g.loops.map fun l => if l.last = g.pc then { l with count := l.count - 1 } else l) = decLoops g.pc g.loops := by
    simp only [decLoops, beq_iff_eq]
  refine ⟨advance_delay g, ?_⟩
  rw [counted]
  split
  · next d delay =>
    obtain ⟨pre, all, next⟩ := takeWhile_longest (fun l => inBody l d && l.count != 0) (decLoops g.pc g.loops)
    have stays : ∀ l : LoopReg, (inBody l d && l.count != 0) = true ↔ l.start ≤ d ∧ d ≤ l.last ∧ l.count ≠ 0 := fun l => by
      simp [inBody, and_assoc]
    rw [advance_taken_loops delay]
    refine ⟨advance_taken delay, pre, fun l hl => (stays l).1 (all l hl), fun l hl yes => ?_⟩
    exact Bool.false_ne_true ((next l hl).symm.trans ((stays l).2 yes))
  · next free =>
    split
    · next l ends =>
      rw [advance_end free ends, advance_end_loops free ends]
      split <;> exact ⟨rfl, rfl⟩
    · next none => exact advance_plain free none

/-- Where control goes depends on the PC, the delay slot and the active loops alone. -/
theorem goesOn_congr {g g' h h' : Engine} (pc : g'.pc = g.pc) (delay : g'.delay = g.delay) (loops : g'.loops = g.loops)
    (pc' : h'.pc = h.pc) (delay' : h'.delay = h.delay) (loops' : h'.loops = h.loops) (k : goesOn g' h') : goesOn g h := by
  simpa only [goesOn, pc, delay, loops, pc', delay', loops'] using k

/-- Whether or not a mode waits for the shadow, an engine that goes on goes where its PC, delay slot and loops say. -/
theorem goesOn_shiftMode {g g' : Engine} (pc : g'.pc = g.pc) (delay : g'.delay = g.delay) (loops : g'.loops = g.loops) (m : Option (BitVec 5)) :
    goesOn g (shiftMode m (advance g')) :=
  goesOn_congr pc delay loops rfl rfl rfl (goesOn_advance g')

/-- Between `g` and `h` only registers, ACC, flags and the control of the next instruction may differ. -/
def onlyDataAndControl (g h : Engine) : Prop :=
  { h with regs := g.regs, acc := g.acc, flags := g.flags, pc := g.pc, delay := g.delay, loops := g.loops, jumped := g.jumped } = g

theorem onlyDataAndControl_advance {g h : Engine} (k : onlyDataAndControl g h) : onlyDataAndControl g (advance h) :=
  (congrArg (fun x : Engine => { x with
    regs := g.regs, acc := g.acc, flags := g.flags, pc := g.pc, delay := g.delay, loops := g.loops, jumped := g.jumped }) (advance_other h) :).trans k

theorem sameHalves_shiftMode {g h : Engine} (k : onlyDataAndControl g h) (m : Option (BitVec 5)) : sameHalves g (shiftMode m h) := by
  rw [← k]
  exact ⟨rfl, rfl, rfl, rfl, rfl, rfl⟩

/-- The shadow passes after every instruction that writes no mode (R67). -/
theorem shadowPasses_shiftMode {g h : Engine} (k : onlyDataAndControl g h) : shadowPasses g (shiftMode none h) := by
  rw [← k]
  exact ⟨rfl, rfl, rfl⟩

/-! ### Instructions that compute -/

/-- Between `g` and `h` only registers, ACC and flags may differ. -/
def onlyData (g h : Engine) : Prop := { h with regs := g.regs, acc := g.acc, flags := g.flags } = g

theorem onlyData_refl (g : Engine) : onlyData g g := rfl

theorem onlyData_trans {g h k : Engine} (a : onlyData g h) (b : onlyData h k) : onlyData g k :=
  (congrArg (fun x : Engine => { x with regs := g.regs, acc := g.acc, flags := g.flags }) b :).trans a

theorem onlyData.control {g h : Engine} (k : onlyData g h) : onlyDataAndControl g h :=
  (congrArg (fun x : Engine => { x with pc := g.pc, delay := g.delay, loops := g.loops, jumped := g.jumped }) k :)

theorem onlyData_setReg (rd : Reg) (v : Word) (g : Engine) : onlyData g (setReg rd v g) := by
  unfold setReg; split <;> rfl

/-- What an instruction leaves that computes the registers, ACC and flags of `g'` and nothing else, from `s` to `t`. -/
structure Computed (e : EngRef) (g' : Engine) (s t : State) : Prop where
  frame : onlyEngine e s t
  regs : ∀ r, getReg (engineAt t e) r = getReg g' r
  acc : (engineAt t e).acc = g'.acc
  flags : (engineAt t e).flags = g'.flags
  halves : sameHalves (engineAt s e) (engineAt t e)
  shadow : shadowPasses (engineAt s e) (engineAt t e)
  goes : goesOn (engineAt s e) (engineAt t e)

theorem computed_executed {e : EngRef} {g' : Engine} {s : State} (data : onlyData (engineAt s e) g') :
    Computed e g' s (executed e (shiftMode none (advance g')) s) := by
  refine ⟨onlyEngine_executed _ _ _, ?_, ?_, ?_, ?_, ?_, ?_⟩ <;> rw [engineAt_executed]
  · exact fun r => congrArg (fun v => if r = 0 then 0 else Vec.at v ⟨r.toNat, r.isLt⟩) (advance_regs g')
  · exact advance_acc g'
  · exact advance_flags g'
  · exact sameHalves_shiftMode (onlyDataAndControl_advance data.control) none
  · exact shadowPasses_shiftMode (onlyDataAndControl_advance data.control)
  · exact goesOn_shiftMode (g' := g') (congrArg Engine.pc data :) (congrArg Engine.delay data :) (congrArg Engine.loops data :) none

/-- Is a word an instruction that may stand in a delay slot? -/
def plainWord (w : Word) : Prop := legalWord w = true ∧ isControl w = false

/-- An instruction that computes, where its word stands at the PC. -/
theorem runWord_computes {e : EngRef} {w : Word} {s : State} {body : State → Engine → Eff} {g' : Engine} (stands : standsAt s e w)
    (plain : plainWord w) (does : body s (engineAt s e) = .next g') (data : onlyData (engineAt s e) g') :
    Computed e g' s (runWord e w body s) := by
  rw [runWord_stands stands plain.1 (.inr plain.2), does]
  exact computed_executed data

/-! ### Flags and saturation (R66, R78) -/

theorem setISat_flags (b : Bool) (g : Engine) (k : Nat) :
    (setISat b g).flags.getLsbD k = true ↔ g.flags.getLsbD k = true ∨ (k = 5 ∧ b = true) := by
  have isat : (0x20 : BitVec 7) = BitVec.twoPow 7 5 := rfl
  cases b <;> simp [setISat, isat, BitVec.getLsbD_twoPow, @eq_comm Nat 5 k]

theorem setIDiv0_flags (b : Bool) (g : Engine) (k : Nat) :
    (setIDiv0 b g).flags.getLsbD k = true ↔ g.flags.getLsbD k = true ∨ (k = 6 ∧ b = true) := by
  have idiv0 : (0x40 : BitVec 7) = BitVec.twoPow 7 6 := rfl
  cases b <;> simp [setIDiv0, idiv0, BitVec.getLsbD_twoPow, @eq_comm Nat 6 k]

theorem onlyData_setISat (b : Bool) (g : Engine) : onlyData g (setISat b g) := by unfold setISat; split <;> rfl
theorem onlyData_setIDiv0 (b : Bool) (g : Engine) : onlyData g (setIDiv0 b g) := by unfold setIDiv0; split <;> rfl

@[simp] theorem getReg_setISat (b : Bool) (g : Engine) (r : Reg) : getReg (setISat b g) r = getReg g r := by unfold setISat; split <;> rfl
@[simp] theorem getReg_setIDiv0 (b : Bool) (g : Engine) (r : Reg) : getReg (setIDiv0 b g) r = getReg g r := by unfold setIDiv0; split <;> rfl
@[simp] theorem setISat_acc (b : Bool) (g : Engine) : (setISat b g).acc = g.acc := by unfold setISat; split <;> rfl
@[simp] theorem setIDiv0_acc (b : Bool) (g : Engine) : (setIDiv0 b g).acc = g.acc := by unfold setIDiv0; split <;> rfl

/-- A clamped integer is the nearest end of the range, and the mark says that it lay outside. -/
theorem clampInt_spec (n : Nat) (v : Int) : (clampInt n v).1 = nearest n v ∧ ((clampInt n v).2 = true ↔ outside n v) := by
  have pos : (0 : Int) < 2 ^ (n - 1) := by positivity
  unfold clampInt nearest outside
  push_cast
  generalize (2 : Int) ^ (n - 1) = m at *
  split
  · next low => exact ⟨congrArg (BitVec.ofInt n) (by omega), by simp [low]⟩
  · split
    · next high => exact ⟨congrArg (BitVec.ofInt n) (by omega), by simp [high]⟩
    · exact ⟨congrArg (BitVec.ofInt n) (by omega), by simp; omega⟩

/-! ### Words of instructions that may stand in a delay slot (Table 3.5, Table 3.6) -/

theorem legalWord_encR {op fn : Nat} (rd ra rb : Reg) (h : op ∈ [0, 1, 2, 0x3F]) (hf : fn < 2048) :
    legalWord (encR op fn rd ra rb) = legalR op fn rd ra rb := by
  simp only [List.mem_cons, List.not_mem_nil, or_false] at h
  have code := op_encR op fn rd ra rb (by omega) hf
  unfold legalWord
  obtain rfl | rfl | rfl | rfl := h <;> simp only [code, fn_encR _ _ _ _ _ hf, rd_encR _ _ _ _ _ hf, ra_encR _ _ _ _ _ hf, rb_encR _ _ _ _ _ hf]

theorem isControl_encR {op fn : Nat} (rd ra rb : Reg) (h : op ∈ [0, 1, 2, 0x3F]) (hf : fn < 2048) :
    isControl (encR op fn rd ra rb) = (op == 0x3F && (fn == 1 || fn == 7 || fn == 8)) := by
  simp only [List.mem_cons, List.not_mem_nil, or_false] at h
  have code := op_encR op fn rd ra rb (by omega) hf
  unfold isControl
  obtain rfl | rfl | rfl | rfl := h <;> simp [code, fn_encR _ _ _ _ _ hf]

theorem plain_encR {op fn : Nat} {rd ra rb : Reg} (h : op ∈ [0, 1, 2, 0x3F]) (hf : fn < 2048) (legal : legalR op fn rd ra rb = true)
    (free : (op == 0x3F && (fn == 1 || fn == 7 || fn == 8)) = false) : plainWord (encR op fn rd ra rb) :=
  ⟨(legalWord_encR rd ra rb h hf).trans legal, (isControl_encR rd ra rb h hf).trans free⟩

theorem plain_encI {op : Nat} (rd ra : Reg) (imm : BitVec 16) (h : op ∈ [8, 9, 10, 11, 12]) : plainWord (encI op rd ra imm) := by
  simp only [List.mem_cons, List.not_mem_nil, or_false] at h
  obtain rfl | rfl | rfl | rfl | rfl := h <;> simp [plainWord, legalWord, isControl, op_encI]

theorem plain_lui (rd : Reg) (imm : BitVec 16) : plainWord (encI 13 rd 0 imm) := by
  simp [plainWord, legalWord, isControl, op_encI, ra_encI]

theorem plain_shift {op : Nat} (rd ra : Reg) (sh : BitVec 5) (h : op ∈ [14, 15, 16]) : plainWord (encI op rd ra (sh.setWidth 16)) := by
  have field := fun op => sh_encI op rd ra sh
  simp only [List.mem_cons, List.not_mem_nil, or_false] at h
  obtain rfl | rfl | rfl := h <;> simp [plainWord, legalWord, isControl, op_encI, field]

end Sys2Proof.Machine

/-! Proofs about the integer instructions of a control engine (R78, Table 3.6, Table 3.7): each writes its result, and those marked S saturate. -/
namespace Sys2Proof.Machine
open Sys2Proof.Stmt

/-! ### Values (Table 3.6) -/

theorem bits_mod {n : Nat} (w : BitVec n) (len : Nat) : (bits w 0 len).toNat = w.toNat % 2 ^ len := by
  simp [bits]

theorem setWidth_of_bits {n : Nat} (w : BitVec n) (len : Nat) : bits w 0 len = w.setWidth len := by
  apply BitVec.eq_of_toNat_eq
  rw [bits_mod, BitVec.toNat_setWidth]

theorem fld_zero {n : Nat} (v : BitVec n) : fld v 0 = v.setWidth 32 := BitVec.shiftLeft_zero _

theorem fld_sixteen (imm : BitVec 16) : fld imm 16 = imm ++ (0 : BitVec 16) := by
  apply BitVec.eq_of_toNat_eq
  refine Eq.trans ?_ (BitVec.toNat_append imm (0 : BitVec 16)).symm
  have small := imm.isLt
  simp [fld, Nat.shiftLeft_eq]
  omega

theorem hi32_shift (d : DWord) : hi32 d = (d >>> 32).setWidth 32 := by
  apply BitVec.eq_of_toNat_eq
  simp [hi32, bits, BitVec.extractLsb'_toNat]

/-- The lesser of two words as signed numbers. -/
theorem slt_min (a b : Word) : (if a.slt b then a else b) = BitVec.ofInt 32 (min a.toInt b.toInt) := by
  rw [BitVec.slt_eq_decide]
  split
  · next lt => rw [min_eq_left (of_decide_eq_true lt).le, BitVec.ofInt_toInt]
  · next ge => rw [min_eq_right (not_lt.1 (by simpa using ge)), BitVec.ofInt_toInt]

/-- The greater of two words as signed numbers. -/
theorem slt_max (a b : Word) : (if a.slt b then b else a) = BitVec.ofInt 32 (max a.toInt b.toInt) := by
  rw [BitVec.slt_eq_decide]
  split
  · next lt => rw [max_eq_right (of_decide_eq_true lt).le, BitVec.ofInt_toInt]
  · next ge => rw [max_eq_left (not_lt.1 (by simpa using ge)), BitVec.ofInt_toInt]

/-- The upper half of a 64-bit product is its quotient by 2^32, rounded down. -/
theorem bits_high (p : Int) : bits (BitVec.ofInt 64 p) 32 32 = BitVec.ofInt 32 (p / 2 ^ 32) := by
  apply BitVec.eq_of_toNat_eq
  simp only [bits, BitVec.extractLsb'_toNat, BitVec.toNat_ofInt, Nat.shiftRight_eq_div_pow]
  omega

theorem abs_natAbs (v : Int) : (if v < 0 then -v else v) = (v.natAbs : Int) := by omega

/-! ### Instructions that write a value -/

/-- An instruction whose value is `v'` writes what the specification names `v`. -/
theorem writes_value {e : EngRef} {w : Word} {rd : Reg} {s : State} {v' : Engine → Word} (v : State → Engine → Word) (eq : ∀ g, v' g = v s g) :
    (.next (runAlu e w (fun g => setReg rd (v' g) g) s) : Out) = .next (runWord e w (fun s g => .next (setReg rd (v s g) g)) s) := by
  unfold runAlu runWord
  simp only [eq]

/-- The word of an instruction of `plainSpec` is legal anywhere, and the instruction writes its value. -/
theorem plainSpec_writes {i : Instr} {e : EngRef} {w : Word} {rd : Reg} {v : State → Engine → Word} (h : plainSpec i = some (e, w, rd, v)) :
    plainWord w ∧ ∀ s, exec i s = .next (runWord e w (fun s g => .next (setReg rd (v s g) g)) s) := by
  unfold plainSpec at h
  split at h <;> cases h
  · exact ⟨plain_encR (by decide) (by decide) rfl rfl, fun s => writes_value _ fun g => rfl⟩
  · exact ⟨plain_encR (by decide) (by decide) rfl rfl, fun s => writes_value _ fun g => rfl⟩
  · exact ⟨plain_encR (by decide) (by decide) rfl rfl, fun s => writes_value _ fun g => rfl⟩
  · exact ⟨plain_encR (by decide) (by decide) rfl rfl, fun s => writes_value _ fun g => by rw [bits_mod]; rfl⟩
  · exact ⟨plain_encR (by decide) (by decide) rfl rfl, fun s => writes_value _ fun g => by rw [bits_mod]; rfl⟩
  · exact ⟨plain_encR (by decide) (by decide) rfl rfl, fun s => writes_value _ fun g => by simp only [BitVec.slt_eq_decide, decide_eq_true_eq]⟩
  · exact ⟨plain_encR (by decide) (by decide) rfl rfl, fun s => writes_value _ fun g => by simp only [BitVec.ult_eq_decide, decide_eq_true_eq]⟩
  · exact ⟨plain_encR (by decide) (by decide) rfl rfl, fun s => writes_value _ fun g => slt_min _ _⟩
  · exact ⟨plain_encR (by decide) (by decide) rfl rfl, fun s => writes_value _ fun g => slt_max _ _⟩
  · exact ⟨plain_encR (by decide) (by decide) rfl rfl, fun s => writes_value _ fun g => bits_high _⟩
  · exact ⟨plain_encR (by decide) (by decide) rfl rfl, fun s => writes_value _ fun g => setWidth_of_bits _ _⟩
  · exact ⟨plain_encR (by decide) (by decide) rfl rfl, fun s => writes_value _ fun g => hi32_shift _⟩
  · exact ⟨plain_encR (by decide) (by decide) rfl rfl, fun s => writes_value _ fun g => rfl⟩
  · exact ⟨plain_encR (by decide) (by decide) rfl rfl, fun s => writes_value _ fun g => rfl⟩
  · exact ⟨plain_encR (by decide) (by decide) rfl rfl, fun s => rfl⟩
  · exact ⟨plain_encR (by decide) (by decide) rfl rfl, fun s => writes_value _ fun g => fld_zero _⟩
  · exact ⟨plain_encR (by decide) (by decide) rfl rfl, fun s => writes_value _ fun g => fld_zero _⟩
  · exact ⟨plain_encR (by decide) (by decide) rfl rfl, fun s => rfl⟩
  · exact ⟨plain_encI _ _ _ (by decide), fun s => writes_value _ fun g => rfl⟩
  · exact ⟨plain_encI _ _ _ (by decide), fun s => writes_value _ fun g => rfl⟩
  · exact ⟨plain_encI _ _ _ (by decide), fun s => writes_value _ fun g => rfl⟩
  · exact ⟨plain_encI _ _ _ (by decide), fun s => writes_value _ fun g => by
      simp only [BitVec.slt_eq_decide, decide_eq_true_eq, BitVec.toInt_signExtend_of_le (show 16 ≤ 32 by decide)]⟩
  · exact ⟨plain_lui _ _, fun s => writes_value _ fun g => fld_sixteen _⟩
  · exact ⟨plain_shift _ _ _ (by decide), fun s => writes_value _ fun g => rfl⟩
  · exact ⟨plain_shift _ _ _ (by decide), fun s => writes_value _ fun g => rfl⟩

theorem plainSpec_computes {i : Instr} {e : EngRef} {w : Word} {rd : Reg} {v : State → Engine → Word} {s : State}
    (h : plainSpec i = some (e, w, rd, v)) (stands : standsAt s e w) :
    ∃ t, exec i s = .next t ∧ Computed e (setReg rd (v s (engineAt s e)) (engineAt s e)) s t := by
  obtain ⟨plain, does⟩ := plainSpec_writes h
  exact ⟨_, does s, runWord_computes stands plain rfl (onlyData_setReg _ _ _)⟩

/-! ### Instructions marked S (R78) -/

theorem onlyData_setSat (rd : Reg) (v : Int) (g : Engine) : onlyData g (setSat rd v g) := by
  unfold setSat
  split
  · exact onlyData_trans (onlyData_setReg _ _ _) (onlyData_setISat _ _)
  · exact onlyData_setReg _ _ _

theorem getReg_setSat (rd : Reg) (v : Int) (g : Engine) (r : Reg) :
    getReg (setSat rd v g) r =
      if r = rd ∧ r ≠ 0 then (if g.mode.getLsbD 2 then nearest 32 v else BitVec.ofInt 32 v) else getReg g r := by
  unfold setSat satOn
  split
  · rw [getReg_setISat, getReg_setReg, (clampInt_spec 32 v).1]
  · exact getReg_setReg _ _ _ _

theorem setSat_flags (rd : Reg) (v : Int) (g : Engine) (k : Nat) :
    (setSat rd v g).flags.getLsbD k = true ↔ g.flags.getLsbD k = true ∨ (k = 5 ∧ g.mode.getLsbD 2 = true ∧ outside 32 v) := by
  unfold setSat satOn
  split
  · next sat => rw [setISat_flags, setReg_flags, (clampInt_spec 32 v).2]; simp only [sat, true_and]
  · next wraps => simp only [setReg_flags, wraps, Bool.false_eq_true, false_and, and_false, or_false]

@[simp] theorem setSat_acc (rd : Reg) (v : Int) (g : Engine) : (setSat rd v g).acc = g.acc := by
  unfold setSat; split <;> simp

/-- An instruction whose exact result is `v'` writes what the specification names `v`. -/
theorem saturates_value {e : EngRef} {w : Word} {rd : Reg} {s : State} {v' : Engine → Int} (v : Engine → Int) (eq : ∀ g, v' g = v g) :
    (.next (runAlu e w (fun g => setSat rd (v' g) g) s) : Out) = .next (runWord e w (fun _ g => .next (setSat rd (v g) g)) s) := by
  unfold runAlu
  simp only [eq]

/-- The word of an instruction of `satSpec` is legal anywhere, and the instruction writes its result. -/
theorem satSpec_writes {i : Instr} {e : EngRef} {w : Word} {rd : Reg} {v : Engine → Int} (h : satSpec i = some (e, w, rd, v)) :
    plainWord w ∧ ∀ s, exec i s = .next (runWord e w (fun _ g => .next (setSat rd (v g) g)) s) := by
  unfold satSpec at h
  split at h <;> cases h
  · exact ⟨plain_encR (by decide) (by decide) rfl rfl, fun s => saturates_value _ fun g => rfl⟩
  · exact ⟨plain_encR (by decide) (by decide) rfl rfl, fun s => saturates_value _ fun g => rfl⟩
  · exact ⟨plain_encR (by decide) (by decide) rfl rfl, fun s => saturates_value _ fun g => by rw [bits_mod]; rfl⟩
  · exact ⟨plain_encR (by decide) (by decide) rfl rfl, fun s => saturates_value _ fun g => abs_natAbs _⟩
  · exact ⟨plain_encR (by decide) (by decide) rfl rfl, fun s => saturates_value _ fun g => rfl⟩
  · exact ⟨plain_encI _ _ _ (by decide), fun s => saturates_value _ fun g => rfl⟩
  · exact ⟨plain_shift _ _ _ (by decide), fun s => saturates_value _ fun g => rfl⟩

theorem satSpec_computes {i : Instr} {e : EngRef} {w : Word} {rd : Reg} {v : Engine → Int} {s : State}
    (h : satSpec i = some (e, w, rd, v)) (stands : standsAt s e w) :
    ∃ t, exec i s = .next t ∧ Computed e (setSat rd (v (engineAt s e)) (engineAt s e)) s t := by
  obtain ⟨plain, does⟩ := satSpec_writes h
  exact ⟨_, does s, runWord_computes stands plain rfl (onlyData_setSat _ _ _)⟩

/-- Settles O1: an instruction without S writes one register, one marked S writes it clamped and marks ISAT; both go on alike. -/
theorem integerInstructionsWriteTheirResult : Obligations.IntegerInstructionsWriteTheirResult := by
  unfold Obligations.IntegerInstructionsWriteTheirResult
  refine ⟨fun i e w rd v s spec stands => ?_, fun i e w rd v s spec stands => ?_⟩
  · obtain ⟨t, does, c⟩ := plainSpec_computes spec stands
    exact ⟨t, does, c.frame, fun r => (c.regs r).trans (getReg_setReg _ _ _ _), c.acc.trans (setReg_acc _ _ _),
      c.flags.trans (setReg_flags _ _ _), c.halves, c.shadow, c.goes⟩
  · obtain ⟨t, does, c⟩ := satSpec_computes spec stands
    exact ⟨t, does, c.frame, fun r => (c.regs r).trans (getReg_setSat _ _ _ _), fun k => by rw [c.flags]; exact setSat_flags _ _ _ _,
      c.acc.trans (setSat_acc _ _ _), c.halves, c.shadow, c.goes⟩

end Sys2Proof.Machine

/-! Proofs about division and the accumulator (R79, Table 3.6). -/
namespace Sys2Proof.Machine
open Sys2Proof.Stmt

/-! ### Division (R79) -/

/-- An instruction that writes `v` to `rd` and sets flag `k`, if any. -/
structure Divides (rd : Reg) (v : Word) (k : Option Nat) (g h : Engine) : Prop where
  data : onlyData g h
  regs : ∀ r, getReg h r = if r = rd ∧ r ≠ 0 then v else getReg g r
  flags : ∀ j, h.flags.getLsbD j = true ↔ g.flags.getLsbD j = true ∨ k = some j
  acc : h.acc = g.acc

theorem divides_setReg (rd : Reg) (v : Word) (g : Engine) : Divides rd v none g (setReg rd v g) :=
  ⟨onlyData_setReg _ _ _, fun r => getReg_setReg _ _ _ _, fun j => by simp, setReg_acc _ _ _⟩

theorem divides_setIDiv0 (rd : Reg) (v : Word) (g : Engine) : Divides rd v (some 6) g (setIDiv0 true (setReg rd v g)) :=
  ⟨onlyData_trans (onlyData_setReg _ _ _) (onlyData_setIDiv0 _ _), fun r => (getReg_setIDiv0 _ _ _).trans (getReg_setReg _ _ _ _),
    fun j => by rw [setIDiv0_flags, setReg_flags]; simp [eq_comm (a := (6 : Nat))], (setIDiv0_acc _ _).trans (setReg_acc _ _ _)⟩

theorem divides_setISat (rd : Reg) (v : Word) (g : Engine) : Divides rd v (some 5) g (setISat true (setReg rd v g)) :=
  ⟨onlyData_trans (onlyData_setReg _ _ _) (onlyData_setISat _ _), fun r => (getReg_setISat _ _ _).trans (getReg_setReg _ _ _ _),
    fun j => by rw [setISat_flags, setReg_flags]; simp [eq_comm (a := (5 : Nat))], (setISat_acc _ _).trans (setReg_acc _ _ _)⟩

theorem divides_divOp (rd : Reg) (a b : Word) (g : Engine) :
    if b = 0 then Divides rd (if a = 0 then 0 else if a.toInt < 0 then 0x80000000 else 0x7FFFFFFF) (some 6) g (divOp rd a b g)
    else if a = 0x80000000 ∧ b = 0xFFFFFFFF then Divides rd 0x7FFFFFFF (some 5) g (divOp rd a b g)
    else Divides rd (BitVec.ofInt 32 (a.toInt.tdiv b.toInt)) none g (divOp rd a b g) := by
  unfold divOp
  split
  · have sign : a.msb = decide (a.toInt < 0) := BitVec.msb_eq_toInt
    simp only [sign, decide_eq_true_eq]
    exact divides_setIDiv0 _ _ _
  · split
    · exact divides_setISat _ _ _
    · exact divides_setReg _ _ _

theorem divides_divuOp (rd : Reg) (a b : Word) (g : Engine) :
    if b = 0 then Divides rd 0xFFFFFFFF (some 6) g (divuOp rd a b g)
    else Divides rd (BitVec.ofNat 32 (a.toNat / b.toNat)) none g (divuOp rd a b g) := by
  unfold divuOp
  split
  · exact divides_setIDiv0 _ _ _
  · have quotient : BitVec.ofNat 32 (a.toNat / b.toNat) = a / b :=
      BitVec.eq_of_toNat_eq (by simp [Nat.mod_eq_of_lt (Nat.lt_of_le_of_lt (Nat.div_le_self _ _) a.isLt)])
    rw [quotient]
    exact divides_setReg _ _ _

theorem divides_remOp (rd : Reg) (a b : Word) (g : Engine) :
    if b = 0 then Divides rd a (some 6) g (remOp rd a b g)
    else Divides rd (BitVec.ofInt 32 (a.toInt.tmod b.toInt)) none g (remOp rd a b g) := by
  unfold remOp
  split
  · exact divides_setIDiv0 _ _ _
  · exact divides_setReg _ _ _

/-- What a division leaves of the device, from `s` to `t`. -/
def divided (e : EngRef) (rd : Reg) (s t : State) (v : Word) (k : Option Nat) : Prop :=
  onlyEngine e s t ∧ regIs rd v (engineAt s e) (engineAt t e) ∧
  (∀ j, (engineAt t e).flags.getLsbD j = true ↔ (engineAt s e).flags.getLsbD j = true ∨ k = some j) ∧
  (engineAt t e).acc = (engineAt s e).acc ∧ sameHalves (engineAt s e) (engineAt t e) ∧
  shadowPasses (engineAt s e) (engineAt t e) ∧ goesOn (engineAt s e) (engineAt t e)

theorem divided_runAlu {e : EngRef} {fn : Nat} {rd ra rb : Reg} {s : State} {f : Engine → Engine} (stands : standsAt s e (encR 0 fn rd ra rb))
    (hf : fn ∈ [18, 19, 20]) {v : Word} {k : Option Nat} (d : Divides rd v k (engineAt s e) (f (engineAt s e))) :
    divided e rd s (runAlu e (encR 0 fn rd ra rb) f s) v k := by
  have plain : plainWord (encR 0 fn rd ra rb) := by
    simp only [List.mem_cons, List.not_mem_nil, or_false] at hf
    obtain rfl | rfl | rfl := hf <;> exact plain_encR (by decide) (by decide) rfl rfl
  have c : Computed e (f (engineAt s e)) s (runAlu e (encR 0 fn rd ra rb) f s) := runWord_computes stands plain rfl d.data
  exact ⟨c.frame, fun r => (c.regs r).trans (d.regs r), fun j => by rw [c.flags]; exact d.flags j, c.acc.trans d.acc, c.halves, c.shadow, c.goes⟩

theorem ite_mono {c : Prop} [Decidable c] {P Q P' Q' : Prop} (h : if c then P else Q) (p : P → P') (q : Q → Q') : if c then P' else Q' := by
  by_cases hc : c
  · rw [if_pos hc] at h ⊢; exact p h
  · rw [if_neg hc] at h ⊢; exact q h

/-! ### The accumulator (R79) -/

theorem setAcc_acc (v : Int) (g : Engine) :
    (setAcc v g).acc = if g.mode.getLsbD 4 then nearest 64 v else BitVec.ofInt 64 v := by
  unfold setAcc accSatOn
  split
  · rw [setISat_acc, ← (clampInt_spec 64 v).1]
  · rfl

theorem setAcc_flags (v : Int) (g : Engine) (k : Nat) :
    (setAcc v g).flags.getLsbD k = true ↔ g.flags.getLsbD k = true ∨ (k = 5 ∧ g.mode.getLsbD 4 = true ∧ outside 64 v) := by
  unfold setAcc accSatOn
  split
  · next sat => rw [setISat_flags, (clampInt_spec 64 v).2]; simp only [sat, true_and]
  · next wraps => simp only [wraps, Bool.false_eq_true, false_and, and_false, or_false]

theorem onlyData_setAcc (v : Int) (g : Engine) : onlyData g (setAcc v g) := by
  unfold setAcc setISat; split
  · split <;> rfl
  · rfl

@[simp] theorem getReg_setAcc (v : Int) (g : Engine) (r : Reg) : getReg (setAcc v g) r = getReg g r := by
  unfold setAcc setISat; split
  · split <;> rfl
  · rfl

theorem accSpec_computes {i : Instr} {e : EngRef} {w : Word} {v : Engine → Int} {s : State} (h : accSpec i = some (e, w, v)) (stands : standsAt s e w) :
    ∃ t, exec i s = .next t ∧ Computed e (setAcc (v (engineAt s e)) (engineAt s e)) s t := by
  unfold accSpec at h
  split at h <;> cases h
  · exact ⟨_, rfl, runWord_computes stands (plain_encR (by decide) (by decide) rfl rfl) rfl (onlyData_setAcc _ _)⟩
  · exact ⟨_, rfl, runWord_computes stands (plain_encR (by decide) (by decide) rfl rfl) rfl (onlyData_setAcc _ _)⟩

theorem onlyData_acc (g : Engine) (a : DWord) : onlyData g { g with acc := a } := rfl

theorem accset_computes {e : EngRef} {ra rb : Reg} {s : State} (stands : standsAt s e (encR 1 3 0 ra rb)) :
    ∃ t, exec (.accset e ra rb) s = .next t ∧
      Computed e { engineAt s e with acc := join (getReg (engineAt s e) rb) (getReg (engineAt s e) ra) } s t :=
  ⟨runAlu e (encR 1 3 0 ra rb) (fun g => { g with acc := join (getReg g rb) (getReg g ra) }) s, rfl,
    runWord_computes stands (plain_encR (by decide) (by decide) rfl rfl) rfl (onlyData_acc _ _)⟩

/-- ACC shifted right is its quotient by the power of two, rounded down. -/
theorem acc_shifted (acc : DWord) (b : Word) : (acc.sshiftRight (bits b 0 6).toNat).toInt = acc.toInt / 2 ^ (b.toNat % 64) := by
  rw [BitVec.toInt_sshiftRight, bits_mod, Int.shiftRight_eq_div_pow]
  norm_cast

theorem onlyData_accshOp (rd : Reg) (b : Word) (g : Engine) : onlyData g (accshOp rd b g) :=
  onlyData_trans (onlyData_setReg _ _ _) (onlyData_setISat _ _)

theorem getReg_accshOp (rd : Reg) (b : Word) (g : Engine) (r : Reg) :
    getReg (accshOp rd b g) r = if r = rd ∧ r ≠ 0 then nearest 32 (g.acc.toInt / 2 ^ (b.toNat % 64)) else getReg g r := by
  unfold accshOp
  rw [getReg_setISat, getReg_setReg, (clampInt_spec 32 _).1, acc_shifted]

theorem accshOp_flags (rd : Reg) (b : Word) (g : Engine) (k : Nat) :
    (accshOp rd b g).flags.getLsbD k = true ↔ g.flags.getLsbD k = true ∨ (k = 5 ∧ outside 32 (g.acc.toInt / 2 ^ (b.toNat % 64))) := by
  unfold accshOp
  rw [setISat_flags, setReg_flags, (clampInt_spec 32 _).2, acc_shifted]

theorem accsh_computes {e : EngRef} {rd rb : Reg} {s : State} (stands : standsAt s e (encR 1 6 rd 0 rb)) :
    ∃ t, exec (.accsh e rd rb) s = .next t ∧ Computed e (accshOp rd (getReg (engineAt s e) rb) (engineAt s e)) s t :=
  ⟨_, rfl, runWord_computes stands (plain_encR (by decide) (by decide) rfl rfl) rfl (onlyData_accshOp _ _ _)⟩

/-- Settles O2: the divisions by their tables of results and flags, ACC by the sum and the shift that are clamped. -/
theorem divisionAndAccumulatorInstructions : Obligations.DivisionAndAccumulatorInstructions := by
  unfold Obligations.DivisionAndAccumulatorInstructions
  refine ⟨fun e rd ra rb s => ⟨fun stands => ?_, fun stands => ?_, fun stands => ?_⟩, fun i e w v s spec stands => ?_,
    fun e ra rb s stands => ?_, fun e rd rb s stands => ?_⟩
  · have d := divides_divOp rd (getReg (engineAt s e) ra) (getReg (engineAt s e) rb) (engineAt s e)
    have runs := fun v k => divided_runAlu (v := v) (k := k) stands (f := fun g => divOp rd (getReg g ra) (getReg g rb) g) (by decide)
    exact ⟨_, rfl, ite_mono d (runs _ _) fun d => ite_mono d (runs _ _) (runs _ _)⟩
  · have d := divides_divuOp rd (getReg (engineAt s e) ra) (getReg (engineAt s e) rb) (engineAt s e)
    have runs := fun v k => divided_runAlu (v := v) (k := k) stands (f := fun g => divuOp rd (getReg g ra) (getReg g rb) g) (by decide)
    exact ⟨_, rfl, ite_mono d (runs _ _) (runs _ _)⟩
  · have d := divides_remOp rd (getReg (engineAt s e) ra) (getReg (engineAt s e) rb) (engineAt s e)
    have runs := fun v k => divided_runAlu (v := v) (k := k) stands (f := fun g => remOp rd (getReg g ra) (getReg g rb) g) (by decide)
    exact ⟨_, rfl, ite_mono d (runs _ _) (runs _ _)⟩
  · obtain ⟨t, does, c⟩ := accSpec_computes spec stands
    exact ⟨t, does, c.frame, c.acc.trans (setAcc_acc _ _), fun k => by rw [c.flags]; exact setAcc_flags _ _ _,
      fun r => (c.regs r).trans (getReg_setAcc _ _ _), c.halves, c.shadow, c.goes⟩
  · obtain ⟨t, does, c⟩ := accset_computes stands
    exact ⟨t, does, c.frame, c.acc, c.flags, c.regs, c.halves, c.shadow, c.goes⟩
  · obtain ⟨t, does, c⟩ := accsh_computes stands
    exact ⟨t, does, c.frame, fun r => (c.regs r).trans (getReg_accshOp _ _ _ _), fun k => by rw [c.flags]; exact accshOp_flags _ _ _ _,
      c.acc.trans ((setISat_acc _ _).trans (setReg_acc _ _ _)), c.halves, c.shadow, c.goes⟩

end Sys2Proof.Machine

/-! Proofs about the binary32 instructions (R79, Table 3.6): results with their flags, and NaN results. -/
namespace Sys2Proof.Machine
open Sys2Proof.Stmt

/-! ### Results and flags -/

/-- A binary32 result written with its flags. -/
def writeFloat (rd : Reg) (r : Word × BitVec 5) (g : Engine) : Engine := addFlags r.2 (setReg rd r.1 g)

theorem onlyData_writeFloat (rd : Reg) (r : Word × BitVec 5) (g : Engine) : onlyData g (writeFloat rd r g) :=
  onlyData_trans (onlyData_setReg _ _ _) rfl

theorem getReg_writeFloat (rd : Reg) (x : Word × BitVec 5) (g : Engine) (r : Reg) :
    getReg (writeFloat rd x g) r = if r = rd ∧ r ≠ 0 then x.1 else getReg g r := getReg_setReg _ _ _ _

theorem writeFloat_flags (rd : Reg) (r : Word × BitVec 5) (g : Engine) : (writeFloat rd r g).flags = g.flags ||| r.2.setWidth 7 :=
  (congrArg (· ||| r.2.setWidth 7) (setReg_flags rd r.1 g) :)

theorem writeFloat_acc (rd : Reg) (r : Word × BitVec 5) (g : Engine) : (writeFloat rd r g).acc = g.acc := setReg_acc _ _ _

/-- The word of an instruction of `floatSpec` is legal anywhere, and the instruction writes its result and flags. -/
theorem floatSpec_writes {i : Instr} {e : EngRef} {w : Word} {rd : Reg} {v : Engine → Word × BitVec 5} (h : floatSpec i = some (e, w, rd, v)) :
    plainWord w ∧ ∀ s, exec i s = .next (runWord e w (fun _ g => .next (writeFloat rd (v g) g)) s) := by
  unfold floatSpec at h
  split at h <;> cases h <;> exact ⟨plain_encR (by decide) (by decide) rfl rfl, fun s => rfl⟩

theorem floatSpec_computes {i : Instr} {e : EngRef} {w : Word} {rd : Reg} {v : Engine → Word × BitVec 5} {s : State}
    (h : floatSpec i = some (e, w, rd, v)) (stands : standsAt s e w) :
    ∃ t, exec i s = .next t ∧ Computed e (writeFloat rd (v (engineAt s e)) (engineAt s e)) s t := by
  obtain ⟨plain, does⟩ := floatSpec_writes h
  exact ⟨_, does s, runWord_computes stands plain rfl (onlyData_writeFloat _ _ _)⟩

/-! ### NaN results (R79) -/

section
variable {f : Fmt} {md : FMode} {x y : Nat}

theorem add_of_nan (h : (f.decode md.ftz x).isNan = true ∨ (f.decode md.ftz y).isNan = true) : (f.add md x y).1 = f.qnan := by
  unfold Fmt.add
  cases hx : f.decode md.ftz x <;> cases hy : f.decode md.ftz y <;> simp [hx, hy, FVal.isNan] at h ⊢

theorem mul_of_nan (h : (f.decode md.ftz x).isNan = true ∨ (f.decode md.ftz y).isNan = true) : (f.mul md x y).1 = f.qnan := by
  unfold Fmt.mul
  cases hx : f.decode md.ftz x <;> cases hy : f.decode md.ftz y <;> simp [hx, hy, FVal.isNan] at h ⊢

theorem div_of_nan (h : (f.decode md.ftz x).isNan = true ∨ (f.decode md.ftz y).isNan = true) : (f.div md x y).1 = f.qnan := by
  unfold Fmt.div
  cases hx : f.decode md.ftz x <;> cases hy : f.decode md.ftz y <;> simp [hx, hy, FVal.isNan] at h ⊢

theorem fma_of_nan (c : Nat) (h : (f.decode md.ftz x).isNan = true ∨ (f.decode md.ftz y).isNan = true) : (f.fma md c x y).1 = f.qnan := by
  unfold Fmt.fma
  dsimp only
  rw [if_pos (by obtain h | h := h <;> simp [h])]

theorem sqrt_of_nan (h : (f.decode md.ftz x).isNan = true) : (f.sqrt md x).1 = f.qnan := by
  unfold Fmt.sqrt
  cases hx : f.decode md.ftz x <;> simp [hx, FVal.isNan] at h ⊢

theorem toInt_of_nan (h : (f.decode md.ftz x).isNan = true) : f.toInt md x = (0, fNV) := by
  unfold Fmt.toInt
  cases hx : f.decode md.ftz x <;> simp [hx, FVal.isNan] at h ⊢

theorem minmax_of_nans (hi : Bool) (hx : (f.decode md.ftz x).isNan = true) (hy : (f.decode md.ftz y).isNan = true) :
    (f.minmax md hi x y).1 = f.qnan := by
  simp [Fmt.minmax, hx, hy]

/-- Of a NaN and a number, the number. -/
theorem minmax_of_nan_left (hi : Bool) (hx : (f.decode md.ftz x).isNan = true) (hy : (f.decode md.ftz y).isNan = false) :
    (f.minmax md hi x y).1 = f.taken md.ftz y := by
  simp [Fmt.minmax, hx, hy]

theorem minmax_of_nan_right (hi : Bool) (hx : (f.decode md.ftz x).isNan = false) (hy : (f.decode md.ftz y).isNan = true) :
    (f.minmax md hi x y).1 = f.taken md.ftz x := by
  simp [Fmt.minmax, hx, hy]

end

/-! ### Patterns of binary32 -/

theorem magnitude_toNat (u : Word) : (u &&& 0x7FFFFFFF).toNat = u.toNat % 2 ^ 31 := by
  rw [BitVec.toNat_and]
  exact Nat.and_two_pow_sub_one_eq_mod u.toNat 31

theorem decode_isNan (f : Fmt) (ftz : Bool) (x : Nat) :
    (f.decode ftz x).isNan = true ↔ x / 2 ^ f.frac % 2 ^ f.ebits = f.emax ∧ x % 2 ^ f.frac ≠ 0 := by
  unfold Fmt.decode
  dsimp only
  by_cases he : x / 2 ^ f.frac % 2 ^ f.ebits = f.emax
  · by_cases hm : x % 2 ^ f.frac = 0 <;> simp [he, hm, FVal.isNan]
  · rw [if_neg he]
    split <;> simp [he, FVal.isNan]

/-- A pattern above that of infinity, its sign apart, is a NaN. -/
theorem decode_word_isNan (ftz : Bool) (u : Word) : (b32.decode ftz u.toNat).isNan = true ↔ 0x7F800000 < (u &&& 0x7FFFFFFF).toNat := by
  rw [decode_isNan, magnitude_toNat]
  show u.toNat / 2 ^ 23 % 2 ^ 8 = 255 ∧ u.toNat % 2 ^ 23 ≠ 0 ↔ _
  omega

theorem decode_isZero {f : Fmt} {x : Nat} (ftz : Bool) (h : x / 2 ^ f.frac % 2 ^ f.ebits ≠ 0) : (f.decode ftz x).isZero = false := by
  unfold Fmt.decode
  dsimp only
  rw [if_neg h]
  split_ifs <;> simp [FVal.isZero]

/-- A mask of a field picks the field. -/
theorem and_shiftLeft (x m k : Nat) : x &&& m <<< k = ((x >>> k) &&& m) <<< k := by
  apply Nat.eq_of_testBit_eq
  intro i
  by_cases hi : k ≤ i <;> simp [hi]

theorem exponent_zero {u : Word} (h : u.toNat / 2 ^ 23 % 2 ^ 8 = 0) : u &&& 0x7F800000 = 0 := by
  apply BitVec.eq_of_toNat_eq
  rw [BitVec.toNat_and]
  show u.toNat &&& (2 ^ 8 - 1) <<< 23 = 0
  rw [and_shiftLeft, Nat.and_two_pow_sub_one_eq_mod, Nat.shiftRight_eq_div_pow, h, Nat.zero_shiftLeft]

/-- A pattern with a non-zero exponent is taken as it is (R79). -/
theorem taken_of_exponent (ftz : Bool) {u : Word} (h : (u &&& 0x7F800000) ≠ 0) : b32.taken ftz u.toNat = u.toNat := by
  unfold Fmt.taken
  rw [decode_isZero true (mt exponent_zero h), Bool.and_false, if_neg Bool.false_ne_true]

/-- To invert the sign of a word leaves its magnitude. -/
theorem flip_word (y : Word) : b32.flip y.toNat = (y ^^^ 0x80000000).toNat := by
  rw [BitVec.toNat_xor]; rfl

theorem flip_magnitude (y : Word) : (y ^^^ 0x80000000) &&& 0x7FFFFFFF = y &&& 0x7FFFFFFF := by
  apply BitVec.eq_of_toNat_eq
  rw [BitVec.toNat_and, BitVec.toNat_xor, Nat.and_xor_distrib_right, BitVec.toNat_and]
  exact Nat.xor_zero _

/-- Settles O3: the results go through one writing of a register with its flags; the NaN results by the kinds of the operands. -/
theorem floatInstructionsWriteResultAndFlags : Obligations.FloatInstructionsWriteResultAndFlags := by
  unfold Obligations.FloatInstructionsWriteResultAndFlags
  refine ⟨fun i e w rd v s spec stands => ?_, fun m x y z => ?_⟩
  · obtain ⟨t, does, c⟩ := floatSpec_computes spec stands
    exact ⟨t, does, c.frame, fun r => (c.regs r).trans (getReg_writeFloat _ _ _ _), c.flags.trans (writeFloat_flags _ _ _),
      c.acc.trans (writeFloat_acc _ _ _), c.halves, c.shadow, c.goes⟩
  · intro isNaN plain
    have nan : ∀ u, isNaN u → (b32.decode m.ftz u.toNat).isNan = true := fun u => (decode_word_isNan m.ftz u).2
    have number : ∀ u, plain u → (b32.decode m.ftz u.toNat).isNan = false := fun u h =>
      Bool.eq_false_iff.2 fun yes => h.2 ((decode_word_isNan m.ftz u).1 yes)
    have flipped : isNaN y → (b32.decode m.ftz (b32.flip y.toNat)).isNan = true := fun h => by
      rw [flip_word]
      exact nan _ (by rw [show isNaN (y ^^^ 0x80000000) ↔ isNaN y by simp only [isNaN, flip_magnitude]]; exact h)
    refine ⟨fun h => ?_, fun h => ⟨sqrt_of_nan (nan x h), toInt_of_nan (nan x h)⟩, fun ⟨hx, hy⟩ hi => ?_, fun ⟨hx, hy⟩ hi => ?_⟩
    · have either := h.imp (nan x) (nan y)
      exact ⟨add_of_nan either, add_of_nan (h.imp (nan x) flipped), mul_of_nan either, div_of_nan either, fma_of_nan _ either⟩
    · have asIs := taken_of_exponent m.ftz hy.1
      exact ⟨(minmax_of_nan_left hi (nan x hx) (number y hy)).trans asIs, (minmax_of_nan_right hi (number y hy) (nan x hx)).trans asIs⟩
    · exact minmax_of_nans hi (nan x hx) (nan y hy)

end Sys2Proof.Machine

/-! Proofs about the mode, the flags and HALT, and about branches and jumps with their delay slot (R66, R67, R72, R77). -/
namespace Sys2Proof.Machine
open Sys2Proof.Stmt

/-! ### MODEW, FLAGC (R66, R67) -/

theorem modew_runs {e : EngRef} {ra : Reg} {s : State} (stands : standsAt s e (encR 0x3F 2 0 ra 0)) :
    exec (.modew e ra) s = .next (executed e (shiftMode (some (bits (getReg (engineAt s e) ra) 0 5))
      (advance { engineAt s e with modeWritten := bits (getReg (engineAt s e) ra) 0 5 })) s) := by
  obtain ⟨legal, free⟩ : plainWord (encR 0x3F 2 0 ra 0) := plain_encR (by decide) (by decide) rfl rfl
  exact congrArg Host.Outcome.next (runWord_stands stands legal (.inr free) _)

/-- While the shadow of MODEW begins, the mode that waited before comes into effect and the data stay. -/
theorem shadowOf_modew (g : Engine) (m : BitVec 5) :
    let h := shiftMode (some m) (advance { g with modeWritten := m })
    h.mode = g.modeNext.getD g.mode ∧ (∀ r, getReg h r = getReg g r) ∧ h.acc = g.acc ∧ h.flags = g.flags ∧ h.modeWritten = m := by
  refine ⟨?_, fun r => ?_, advance_acc _, advance_flags _, advance_modeWritten _⟩
  · exact congrArg₂ Option.getD (advance_modeNext { g with modeWritten := m }) (advance_mode { g with modeWritten := m })
  · exact congrArg (fun v => if r = 0 then 0 else Vec.at v ⟨r.toNat, r.isLt⟩) (advance_regs { g with modeWritten := m })

theorem flagc_computes {e : EngRef} {ra : Reg} {s : State} (stands : standsAt s e (encR 0x3F 5 0 ra 0)) :
    ∃ t, exec (.flagc e ra) s = .next t ∧
      Computed e { engineAt s e with flags := (engineAt s e).flags &&& ~~~bits (getReg (engineAt s e) ra) 0 7 } s t :=
  ⟨_, rfl, runWord_computes stands (plain_encR (by decide) (by decide) rfl rfl) rfl rfl⟩

theorem cleared_getLsbD (f : BitVec 7) (v : Word) (k : Nat) : (f &&& ~~~bits v 0 7).getLsbD k = (f.getLsbD k && !v.getLsbD k) := by
  by_cases hk : k < 7
  · rw [BitVec.getLsbD_and, BitVec.getLsbD_not, bits_lsb v 0 7 k hk, Nat.zero_add, decide_eq_true hk, Bool.true_and]
  · rw [BitVec.getLsbD_of_ge _ _ (not_lt.1 hk), BitVec.getLsbD_of_ge f _ (not_lt.1 hk), Bool.false_and]

/-! ### HALT (R71) -/

theorem curHalf_updHalf (f : Half → Half) (g : Engine) : curHalf (updHalf f g) = f (curHalf g) := by
  unfold curHalf updHalf
  cases g.half <;> rfl

/-- A change of the half in use leaves the rest of the engine. -/
theorem updHalf_other (f : Half → Half) (g : Engine) : { updHalf f g with half0 := g.half0, half1 := g.half1 } = g := by
  unfold updHalf; split <;> rfl

theorem updHalf_proj {α : Type} (p : Engine → α) (blind : ∀ x a b, p { x with half0 := a, half1 := b } = p x) (f : Half → Half) (g : Engine) :
    p (updHalf f g) = p g :=
  (blind _ g.half0 g.half1).symm.trans (congrArg p (updHalf_other f g))

/-- The half that is not in use stays. -/
theorem updHalf_idle (f : Half → Half) (g : Engine) :
    if g.half then (updHalf f g).half0 = g.half0 else (updHalf f g).half1 = g.half1 := by
  unfold updHalf; cases g.half <;> rfl

/-- An engine that HALT leaves: the step is over and its half complete. -/
def halted (g : Engine) : Engine := { updHalf (fun h => { h with done := true }) g with run := none, modeNext := none, loops := [] }

theorem halted_spec (g : Engine) :
    (halted g).run = none ∧ (halted g).loops = [] ∧ (curHalf (halted g)).done = true ∧ (curHalf (halted g)).mem = (curHalf g).mem ∧
    (halted g).half = g.half ∧ (halted g).x = g.x ∧ (if g.half then (halted g).half0 = g.half0 else (halted g).half1 = g.half1) ∧
    (∀ r, getReg (halted g) r = getReg g r) ∧ (halted g).acc = g.acc ∧ (halted g).flags = g.flags := by
  have half : curHalf (halted g) = { curHalf g with done := true } := curHalf_updHalf (fun h => { h with done := true }) g
  rw [half]
  refine ⟨rfl, rfl, rfl, rfl, ?_, ?_, updHalf_idle (fun h => { h with done := true }) g, fun r => ?_, ?_, ?_⟩
  · exact updHalf_proj (·.half) (fun _ _ _ => rfl) (fun h => { h with done := true }) g
  · exact updHalf_proj (·.x) (fun _ _ _ => rfl) (fun h => { h with done := true }) g
  · exact updHalf_proj (getReg · r) (fun _ _ _ => rfl) (fun h => { h with done := true }) g
  · exact updHalf_proj (·.acc) (fun _ _ _ => rfl) (fun h => { h with done := true }) g
  · exact updHalf_proj (·.flags) (fun _ _ _ => rfl) (fun h => { h with done := true }) g

theorem halt_runs {e : EngRef} {s : State} (stands : standsAt s e (encR 0x3F 1 0 0 0)) (slot : (engineAt s e).delay = none) :
    exec (.halt e) s = .next (bump (.engine e.crest) 0x11 1 (bump (.engine e.crest) 0x13 1 (updEngine e halted s))) := by
  have legal : legalWord (encR 0x3F 1 0 0 0) = true := legalWord_encR 0 0 0 (by decide) (by decide)
  exact congrArg Host.Outcome.next (runWord_stands stands legal (.inl slot) _)

/-- Settles O4: MODEW by the shadow that begins, FLAGC as an instruction that computes flags, HALT by what it leaves of the engine. -/
theorem modeFlagsAndHalt : Obligations.ModeFlagsAndHalt := by
  unfold Obligations.ModeFlagsAndHalt
  refine ⟨fun e ra s stands => ⟨_, modew_runs stands, onlyEngine_executed _ _ _, ?_⟩, fun e ra s stands => ?_,
    fun e s stands slot => ⟨_, halt_runs stands slot, onlyEngine_bump (onlyEngine_bump (onlyEngine_updEngine _ _ _) _ _) _ _, ?_⟩⟩
  · rw [engineAt_executed, ← setWidth_of_bits]
    generalize bits (getReg (engineAt s e) ra) 0 5 = m
    generalize engineAt s e = g
    obtain ⟨mode, regs, acc, flags, written⟩ := shadowOf_modew g m
    exact ⟨mode, rfl, written, regs, acc, flags, sameHalves_shiftMode (g := { g with modeWritten := m }) (onlyDataAndControl_advance (onlyData_refl _).control) _,
      goesOn_shiftMode rfl rfl rfl _⟩
  · obtain ⟨t, does, c⟩ := flagc_computes stands
    exact ⟨t, does, c.frame, fun k => by rw [c.flags]; exact cleared_getLsbD _ _ _, c.regs, c.acc, c.halves, c.shadow, c.goes⟩
  · rw [engineAt_bump, engineAt_bump, engineAt_upd]
    exact halted_spec _

/-! ### Branches and jumps (R72, R77) -/

/-- An engine that goes on at the delay slot of a branch or jump. -/
def atSlot (d : Option Word) (g : Engine) : Engine := { g with pc := g.pc + 4, delay := some d, jumped := false }

/-- What a branch or jump leaves that computes the registers of `g'`, from `s` to `t`. -/
structure Branched (e : EngRef) (g' : Engine) (d : Option Word) (s t : State) : Prop where
  frame : onlyEngine e s t
  pc : (engineAt t e).pc = (engineAt s e).pc + 4
  loops : (engineAt t e).loops = (engineAt s e).loops
  slot : (engineAt t e).delay = some d
  regs : ∀ r, getReg (engineAt t e) r = getReg g' r
  acc : (engineAt t e).acc = g'.acc
  flags : (engineAt t e).flags = g'.flags
  halves : sameHalves (engineAt s e) (engineAt t e)
  shadow : shadowPasses (engineAt s e) (engineAt t e)

theorem onlyDataAndControl_atSlot {g h : Engine} (k : onlyData g h) (d : Option Word) : onlyDataAndControl g (atSlot d h) := k.control

theorem runWord_branches {e : EngRef} {w : Word} {s : State} {body : State → Engine → Eff} {g' : Engine} {d : Option Word}
    (stands : standsAt s e w) (legal : legalWord w = true) (slot : (engineAt s e).delay = none) (does : body s (engineAt s e) = .jump g' d)
    (data : onlyData (engineAt s e) g') : Branched e g' d s (runWord e w body s) := by
  have runs : runWord e w body s = executed e (shiftMode none (atSlot d g')) s := by
    rw [runWord_stands stands legal (.inl slot), does]; rfl
  rw [runs]
  have pc : g'.pc = (engineAt s e).pc := (congrArg Engine.pc data :)
  have loops : g'.loops = (engineAt s e).loops := (congrArg Engine.loops data :)
  refine ⟨onlyEngine_executed _ _ _, ?_, ?_, ?_, ?_, ?_, ?_, ?_, ?_⟩ <;> rw [engineAt_executed]
  · exact congrArg (· + 4) pc
  · exact loops
  · rfl
  · exact fun r => rfl
  · rfl
  · rfl
  · exact sameHalves_shiftMode (onlyDataAndControl_atSlot data d) none
  · exact shadowPasses_shiftMode (onlyDataAndControl_atSlot data d)

theorem shiftLeft_two (x : Word) : x <<< 2 = 4 * x := by
  apply BitVec.eq_of_toNat_eq
  simp [Nat.shiftLeft_eq, BitVec.toNat_mul, Nat.mul_comm]

theorem legal_encB {op : Nat} (ra rb : Reg) (d : BitVec 16) (h : op ∈ [0x20, 0x21, 0x22, 0x23, 0x24, 0x25]) : legalWord (encB op ra rb d) = true := by
  simp only [List.mem_cons, List.not_mem_nil, or_false] at h
  obtain rfl | rfl | rfl | rfl | rfl | rfl := h <;> simp [legalWord, op_encB]

theorem legal_encJ {op : Nat} (d : BitVec 26) (h : op ∈ [0x28, 0x29]) : legalWord (encJ op d) = true := by
  simp only [List.mem_cons, List.not_mem_nil, or_false] at h
  obtain rfl | rfl := h <;> simp [legalWord, op_encJ]

/-- The word of a branch is legal, and it is taken where its condition holds. -/
theorem branchSpec_runs {i : Instr} {e : EngRef} {w : Word} {c : Engine → Prop} {d : BitVec 16} (h : branchSpec i = some (e, w, c, d)) :
    legalWord w = true ∧ ∃ (b : Word → Word → Bool) (ra rb : Reg), (∀ g, b (getReg g ra) (getReg g rb) = true ↔ c g) ∧
      ∀ s, exec i s = .next (runWord e w (fun _ g => branchOp b ra rb d g) s) := by
  unfold branchSpec at h
  split at h <;> cases h
  · exact ⟨legal_encB _ _ _ (by decide), _, _, _, fun g => beq_iff_eq, fun s => rfl⟩
  · exact ⟨legal_encB _ _ _ (by decide), _, _, _, fun g => bne_iff_ne, fun s => rfl⟩
  · exact ⟨legal_encB _ _ _ (by decide), _, _, _, fun g => BitVec.slt_iff_toInt_lt, fun s => rfl⟩
  · exact ⟨legal_encB _ _ _ (by decide), _, _, _, fun g => by simp [BitVec.slt_eq_decide], fun s => rfl⟩
  · exact ⟨legal_encB _ _ _ (by decide), _, _, _, fun g => by simp [BitVec.ult_eq_decide], fun s => rfl⟩
  · exact ⟨legal_encB _ _ _ (by decide), _, _, _, fun g => by simp [BitVec.ult_eq_decide], fun s => rfl⟩

theorem branchSpec_branches {i : Instr} {e : EngRef} {w : Word} {c : Engine → Prop} {d : BitVec 16} {s : State}
    (h : branchSpec i = some (e, w, c, d)) (stands : standsAt s e w) (slot : (engineAt s e).delay = none) :
    ∃ t o, exec i s = .next t ∧ Branched e (engineAt s e) o s t ∧
      (c (engineAt s e) → o = some ((engineAt s e).pc + 4 * d.signExtend 32)) ∧ (¬ c (engineAt s e) → o = none) := by
  obtain ⟨legal, b, ra, rb, taken, does⟩ := branchSpec_runs h
  refine ⟨_, _, does s, runWord_branches stands legal slot rfl (onlyData_refl _), fun yes => ?_, fun no => ?_⟩
  · rw [if_pos ((taken _).2 yes), destB, shiftLeft_two]
  · rw [if_neg (mt (taken _).1 no)]

/-- What a jump leaves of the registers: CALL puts the address after its delay slot into G31. -/
def linked (link : Bool) (g : Engine) : Engine := if link then setReg 31 (g.pc + 8) g else g

theorem onlyData_linked (link : Bool) (g : Engine) : onlyData g (linked link g) := by
  cases link
  · exact onlyData_refl g
  · exact onlyData_setReg 31 (g.pc + 8) g

theorem linked_acc (link : Bool) (g : Engine) : (linked link g).acc = g.acc := by cases link <;> simp [linked]
theorem linked_flags (link : Bool) (g : Engine) : (linked link g).flags = g.flags := by cases link <;> simp [linked]
theorem getReg_linked (link : Bool) (g : Engine) (r : Reg) : getReg (linked link g) r = if link = true ∧ r = 31 then g.pc + 8 else getReg g r := by
  cases link
  · simp [linked]
  · rw [linked, if_pos rfl, getReg_setReg]
    by_cases h : r = 31
    · rw [if_pos ⟨h, by rw [h]; decide⟩, if_pos ⟨rfl, h⟩]
    · rw [if_neg fun k => h k.1, if_neg fun k => h k.2]

theorem jumpSpec_runs {i : Instr} {e : EngRef} {w : Word} {d : Engine → Word} {link : Bool} (h : jumpSpec i = some (e, w, d, link)) :
    legalWord w = true ∧ ∀ s, exec i s = .next (runWord e w (fun _ g => .jump (linked link g) (some (d g))) s) := by
  unfold jumpSpec at h
  split at h <;> cases h
  · refine ⟨legal_encJ _ (by decide), fun s => ?_⟩
    simp only [← shiftLeft_two]; rfl
  · refine ⟨legal_encJ _ (by decide), fun s => ?_⟩
    simp only [← shiftLeft_two]; rfl
  · exact ⟨legalWord_encR _ _ _ (by decide) (by decide), fun s => rfl⟩

theorem jumpSpec_branches {i : Instr} {e : EngRef} {w : Word} {d : Engine → Word} {link : Bool} {s : State}
    (h : jumpSpec i = some (e, w, d, link)) (stands : standsAt s e w) (slot : (engineAt s e).delay = none) :
    ∃ t, exec i s = .next t ∧ Branched e (linked link (engineAt s e)) (some (d (engineAt s e))) s t := by
  obtain ⟨legal, does⟩ := jumpSpec_runs h
  exact ⟨_, does s, runWord_branches stands legal slot rfl (onlyData_linked _ _)⟩

/-- Settles O5: a branch and a jump go on at the slot with their destination, and an instruction there goes on as the slot says. -/
theorem branchesAndJumpsHaveOneDelaySlot : Obligations.BranchesAndJumpsHaveOneDelaySlot := by
  unfold Obligations.BranchesAndJumpsHaveOneDelaySlot
  refine ⟨fun i e w c d s spec stands slot => ?_, fun i e w d link s spec stands slot => ?_, fun i e w rd v s spec stands slot => ?_⟩
  · obtain ⟨t, o, does, b, taken, not⟩ := branchSpec_branches spec stands slot
    exact ⟨t, does, b.frame, b.pc, b.loops, fun yes => b.slot.trans (congrArg some (taken yes)), fun no => b.slot.trans (congrArg some (not no)),
      b.regs, b.acc, b.flags, b.halves, b.shadow⟩
  · obtain ⟨t, does, b⟩ := jumpSpec_branches spec stands slot
    exact ⟨t, does, b.frame, b.pc, b.loops, b.slot, fun r => (b.regs r).trans (getReg_linked _ _ _), b.acc.trans (linked_acc _ _),
      b.flags.trans (linked_flags _ _), b.halves, b.shadow⟩
  · obtain ⟨t, does, c⟩ := plainSpec_computes spec stands
    obtain ⟨delay, goes⟩ := c.goes
    refine ⟨t, does, fun r => (c.regs r).trans (getReg_setReg _ _ _ _), delay, fun d taken => ?_, fun not out => ?_⟩
    · rw [taken] at goes
      exact goes.1
    · rw [not] at goes
      have none : (engineAt s e).loops.find? (fun l => l.last == (engineAt s e).pc) = none := by simpa using out
      simp only [none] at goes
      exact goes.1

end Sys2Proof.Machine

/-! Proofs about the exceptions that an instruction raises, and about loads, stores and hardware loops (R69 to R77, R86 to R91). -/
namespace Sys2Proof.Machine
open Sys2Proof.Stmt

/-! ### Exceptions (R87 to R91) -/

/-- An exception raised in a device whose engine is as in `s`, for the step the engine runs. -/
theorem raisesX_engineX {e : EngRef} {s u : State} (same : engineAt u e = engineAt s e) (cause : Nat) (addr : Word) (trap : BitVec 5)
    (el : BitVec 16) : raisesX e (BitVec.ofNat 4 cause) addr s (engineX e cause addr trap (runningDesc (engineAt u e)) el u) := by
  obtain ⟨own, -, raw, task, -⟩ := engineX_spec e cause addr trap (runningDesc (engineAt u e)) el u
  rw [same] at own raw task ⊢
  unfold raisesX
  dsimp only
  rw [own]
  exact ⟨rfl, rfl, rfl, fun inStep => if_pos inStep, rfl, rfl, fun _ => rfl, rfl, rfl, rfl, rfl, raw, task⟩

theorem raisesX_instrX (e : EngRef) (cause : Nat) (addr : Word) (trap : BitVec 5) (s : State) :
    raisesX e (BitVec.ofNat 4 cause) addr s (instrX e cause addr trap s) := raisesX_engineX rfl cause addr trap _

theorem instrX_record (e : EngRef) (cause : Nat) (addr : Word) (trap : BitVec 5) (s : State) :
    (engineAt (instrX e cause addr trap s) e).x =
      mkRecord s (engineAt s e) cause addr trap (runningDesc (engineAt s e)) (elapsedNow s (engineAt s e)) := by
  obtain ⟨own, -⟩ := engineX_spec e cause addr trap (runningDesc (engineAt s e)) (elapsedNow s (engineAt s e)) s
  exact (congrArg Engine.x own :)

/-- An instruction that raises an exception. -/
theorem runWord_raises {e : EngRef} {w : Word} {s : State} {body : State → Engine → Eff} {cause : Nat} {addr : Word} {trap : BitVec 5}
    (stands : standsAt s e w) (legal : legalWord w = true) (free : (engineAt s e).delay = none ∨ isControl w = false)
    (does : body s (engineAt s e) = .xcpt cause addr trap) : runWord e w body s = instrX e cause addr trap s := by
  rw [runWord_stands stands legal free, does]; rfl

/-! ### Bytes of an access (R69, R77) -/

theorem ofBytes_map_range (f : Nat → Byte) (n : Nat) :
    ofBytes ((List.range n).map f) = ((List.range n).map fun k => (f k).toNat * 256 ^ k).sum := by
  induction n generalizing f with
  | zero => rfl
  | succ n ih =>
    rw [List.range_succ_eq_map, List.map_cons, List.map_map, ofBytes, ih, List.map_cons, List.map_map, List.sum_cons, Nat.pow_zero, Nat.mul_one,
      ← List.sum_map_mul_left]
    congr 3
    funext k
    show 256 * ((f (k + 1)).toNat * 256 ^ k) = (f (k + 1)).toNat * 256 ^ (k + 1)
    rw [Nat.pow_succ]; ring

theorem getD_bytesOf (n x : Nat) {k : Nat} (h : k < n) : (bytesOf n x).getD k 0 = BitVec.ofNat 8 (x / 256 ^ k) := by
  induction n generalizing x k with
  | zero => omega
  | succ n ih =>
    cases k with
    | zero => simp [bytesOf]
    | succ k =>
      rw [bytesOf, List.getD_cons_succ, ih _ (by omega), Nat.div_div_eq_div_mul, Nat.pow_succ']

theorem byte_of_word (w : Word) (k : Nat) : BitVec.ofNat 8 (w.toNat / 256 ^ k) = w.extractLsb' (8 * k) 8 := by
  apply BitVec.eq_of_toNat_eq
  rw [BitVec.toNat_ofNat, BitVec.extractLsb'_toNat, Nat.shiftRight_eq_div_pow, Nat.pow_mul]

theorem loadOk_iff (g : Engine) (a n : Nat) : loadOk g a n = true ↔ a % n = 0 ∧ (inCode g a n ∨ inState g a n) := by
  simp [loadOk, inCode, inState]

theorem storeOk_iff (g : Engine) (a n : Nat) : storeOk g a n = true ↔ a % n = 0 ∧ inState g a n := by
  simp [storeOk, inState, and_assoc]

theorem plain_encM {op : Nat} (rt base : Reg) {size : BitVec 2} (post : Bool) (off : BitVec 13) (h : op ∈ [0x18, 0x19, 0x1A]) (ok : size ≠ 3) :
    plainWord (encM op rt base size post off) := by
  have field := fun op => size_encM op rt base size post off
  simp only [List.mem_cons, List.not_mem_nil, or_false] at h
  obtain rfl | rfl | rfl := h <;> simpa [plainWord, legalWord, isControl, op_encM, field] using ok

/-! ### Loads (R69, R70, R77) -/

theorem onlyData_postInc (base : Reg) (post : Bool) (off : BitVec 13) (old : Word) (g : Engine) : onlyData g (postInc base post off old g) := by
  cases post
  · exact onlyData_refl g
  · exact onlyData_setReg base _ g

theorem getReg_postInc (base : Reg) (post : Bool) (off : BitVec 13) (old : Word) (g : Engine) (r : Reg) :
    getReg (postInc base post off old g) r = if post = true ∧ r = base ∧ r ≠ 0 then old + off.signExtend 32 else getReg g r := by
  cases post
  · simp [postInc]
  · simpa [postInc] using getReg_setReg r base (old + off.signExtend 32) g

theorem postInc_acc (base : Reg) (post : Bool) (off : BitVec 13) (old : Word) (g : Engine) : (postInc base post off old g).acc = g.acc := by
  cases post <;> simp [postInc]

theorem postInc_flags (base : Reg) (post : Bool) (off : BitVec 13) (old : Word) (g : Engine) : (postInc base post off old g).flags = g.flags := by
  cases post <;> simp [postInc]

/-- The extension of the bytes a load has read. -/
def extend (sign : Bool) : Nat → Nat → Word := if sign then extSigned else extZero

theorem loadSpec_runs {i : Instr} {e : EngRef} {w : Word} {rt base : Reg} {size : BitVec 2} {post : Bool} {off : BitVec 13} {sign : Bool}
    (h : loadSpec i = some (e, w, rt, base, size, post, off, sign)) (ok : size ≠ 3) :
    plainWord w ∧ ∀ s, exec i s = .next (runWord e w (fun _ g => loadOp (extend sign) rt base size post off g) s) := by
  unfold loadSpec at h
  split at h <;> cases h
  · exact ⟨plain_encM _ _ _ _ (by decide) ok, fun s => rfl⟩
  · exact ⟨plain_encM _ _ _ _ (by decide) ok, fun s => rfl⟩

/-- What a load writes. -/
theorem loadOp_ok {g : Engine} {base : Reg} {size : BitVec 2} {post : Bool} {off : BitVec 13} (sign : Bool) (rt : Reg)
    (ok : loadOk g (effAddr g base post off).toNat (sizeBytes size) = true) :
    loadOp (extend sign) rt base size post off g = .next (setReg rt
      (extend sign (sizeBytes size) (ofBytes (memRead (curHalf g).mem (effAddr g base post off).toNat (sizeBytes size))))
      (postInc base post off (getReg g base) g)) := if_pos ok

theorem loadOp_bad {g : Engine} {base : Reg} {size : BitVec 2} {post : Bool} {off : BitVec 13} (ext : Nat → Nat → Word) (rt : Reg)
    (bad : loadOk g (effAddr g base post off).toNat (sizeBytes size) ≠ true) :
    loadOp ext rt base size post off g = .xcpt xAccess (effAddr g base post off) 0 := if_neg bad

theorem extend_read (sign : Bool) (g : Engine) (n a : Nat) :
    extend sign n (ofBytes (memRead (curHalf g).mem a n)) =
      (let raw : Nat := ((List.range n).map fun k => (halfByte g (a + k)).toNat * 256 ^ k).sum
       if sign then (BitVec.ofNat (8 * n) raw).signExtend 32 else BitVec.ofNat 32 raw) := by
  rw [memRead, ofBytes_map_range]
  cases sign <;> rfl

/-! ### Stores (R69, R70, R77) -/

/-- A half with the low bytes of `v` stored at `a`. -/
def storing (a v : Word) (size : BitVec 2) (h : Half) : Half := { h with mem := memWrite h.mem a.toNat (bytesOf (sizeBytes size) v.toNat) }

/-- An engine whose half in use holds the bytes of rt, and whose base has moved. -/
def stored (rt base : Reg) (size : BitVec 2) (post : Bool) (off : BitVec 13) (g : Engine) : Engine :=
  postInc base post off (getReg g base) (updHalf (storing (effAddr g base post off) (getReg g rt) size) g)

theorem storeOp_ok {g : Engine} {base : Reg} {size : BitVec 2} {post : Bool} {off : BitVec 13} (rt : Reg)
    (ok : storeOk g (effAddr g base post off).toNat (sizeBytes size) = true) :
    storeOp rt base size post off g = .next (stored rt base size post off g) := if_pos ok

theorem storeOp_bad {g : Engine} {base : Reg} {size : BitVec 2} {post : Bool} {off : BitVec 13} (rt : Reg)
    (bad : storeOk g (effAddr g base post off).toNat (sizeBytes size) ≠ true) :
    storeOp rt base size post off g = .xcpt xAccess (effAddr g base post off) 0 := if_neg bad

theorem curHalf_congr {g h : Engine} (half : h.half = g.half) (half0 : h.half0 = g.half0) (half1 : h.half1 = g.half1) : curHalf h = curHalf g := by
  unfold curHalf; rw [half, half0, half1]

section
variable (rt base : Reg) (size : BitVec 2) (post : Bool) (off : BitVec 13) (g : Engine)

/-- What a store keeps of its engine. -/
theorem stored_proj {α : Type} (p : Engine → α) (blind : ∀ x r a b, p { x with regs := r, half0 := a, half1 := b } = p x) :
    p (stored rt base size post off g) = p g := by
  have data : ∀ x v, p (setReg base v x) = p x := fun x v => setReg_proj p (fun y r => blind y r y.half0 y.half1) base v x
  have half : ∀ f, p (updHalf f g) = p g := fun f => updHalf_proj p (fun x a b => blind x x.regs a b) f g
  unfold stored postInc
  split
  · exact (data _ _).trans (half _)
  · exact half _

theorem getReg_stored (r : Reg) : getReg (stored rt base size post off g) r =
    if post = true ∧ r = base ∧ r ≠ 0 then getReg g base + off.signExtend 32 else getReg g r := by
  unfold stored
  rw [getReg_postInc]
  congr 1
  exact updHalf_proj (getReg · r) (fun _ _ _ => rfl) _ g

/-- The half in use after a store: its memory alone is another. -/
theorem curHalf_stored :
    curHalf (stored rt base size post off g) = storing (effAddr g base post off) (getReg g rt) size (curHalf g) := by
  have data := onlyData_postInc base post off (getReg g base) (updHalf (storing (effAddr g base post off) (getReg g rt) size) g)
  exact (curHalf_congr (congrArg Engine.half data :) (congrArg Engine.half0 data :) (congrArg Engine.half1 data :)).trans (curHalf_updHalf _ g)

end

/-- An engine that goes on has the half in use that it had. -/
theorem curHalf_advance (m : Option (BitVec 5)) (g : Engine) : curHalf (shiftMode m (advance g)) = curHalf g :=
  curHalf_congr (advance_half g) (advance_half0 g) (advance_half1 g)

theorem getReg_advance (m : Option (BitVec 5)) (g : Engine) (r : Reg) : getReg (shiftMode m (advance g)) r = getReg g r :=
  congrArg (fun v => if r = 0 then 0 else Vec.at v ⟨r.toNat, r.isLt⟩) (advance_regs g)

/-- The half that is not in use stays. -/
theorem idle_stored (rt base : Reg) (size : BitVec 2) (post : Bool) (off : BitVec 13) (g : Engine) :
    let h := shiftMode none (advance (stored rt base size post off g))
    if g.half then h.half0 = g.half0 else h.half1 = g.half1 := by
  intro h
  have data := onlyData_postInc base post off (getReg g base) (updHalf (storing (effAddr g base post off) (getReg g rt) size) g)
  have half0 : h.half0 = _ := (advance_half0 _).trans (congrArg Engine.half0 data :)
  have half1 : h.half1 = _ := (advance_half1 _).trans (congrArg Engine.half1 data :)
  rw [half0, half1]
  exact updHalf_idle _ g

theorem shadow_stored (rt base : Reg) (size : BitVec 2) (post : Bool) (off : BitVec 13) (g : Engine) :
    shadowPasses g (shiftMode none (advance (stored rt base size post off g))) := by
  have mode := stored_proj rt base size post off g (fun x => (x.mode, x.modeNext, x.modeWritten)) fun _ _ _ _ => rfl
  obtain ⟨now, next, written⟩ : _ ∧ _ ∧ _ := by simpa only [Prod.mk.injEq] using mode
  refine ⟨?_, rfl, (advance_modeWritten _).trans written⟩
  exact congrArg₂ Option.getD ((advance_modeNext _).trans next) ((advance_mode _).trans now)

/-- A store as an executed instruction. -/
theorem st_runs {e : EngRef} {rt base : Reg} {size : BitVec 2} {post : Bool} {off : BitVec 13} {s : State} (ok : size ≠ 3)
    (stands : standsAt s e (encM 0x1A rt base size post off))
    (fits : storeOk (engineAt s e) (effAddr (engineAt s e) base post off).toNat (sizeBytes size) = true) :
    exec (.st e rt base size post off) s =
      .next (executed e (shiftMode none (advance (stored rt base size post off (engineAt s e)))) s) := by
  obtain ⟨legal, free⟩ := plain_encM (op := 0x1A) rt base post off (by decide) ok
  refine congrArg Host.Outcome.next ((runWord_stands stands legal (.inr free) _).trans ?_)
  exact (congrArg (finish e · s) (storeOp_ok rt fits) :)

/-- The bytes of the half in use after a store. -/
theorem halfByte_stored {g : Engine} (wf : memWf (curHalf g).mem = true) (rt base : Reg) (size : BitVec 2) (post : Bool) (off : BitVec 13) (x : Nat) :
    let a := (effAddr g base post off).toNat
    halfByte (stored rt base size post off g) x =
      if a ≤ x ∧ x < a + 2 ^ size.toNat then (getReg g rt).extractLsb' (8 * (x - a)) 8 else halfByte g x := by
  intro a
  unfold halfByte
  rw [curHalf_stored, storing, memGet_write _ _ _ wf, bytesOf_length]
  show (if a ≤ x ∧ x < a + 2 ^ size.toNat then _ else _) = _
  split
  · next inside =>
    rw [getD_bytesOf _ _ (show x - a < sizeBytes size by unfold sizeBytes; omega), byte_of_word]
  · rfl

/-- The bytes a store has written, and those it left. -/
theorem bytes_stored {g : Engine} (wf : memWf (curHalf g).mem = true) (rt base : Reg) (size : BitVec 2) (post : Bool) (off : BitVec 13) :
    let a := (effAddr g base post off).toNat
    let h := shiftMode none (advance (stored rt base size post off g))
    (∀ k, k < 2 ^ size.toNat → halfByte h (a + k) = (getReg g rt).extractLsb' (8 * k) 8) ∧
    (∀ b, b < a ∨ a + 2 ^ size.toNat ≤ b → halfByte h b = halfByte g b) := by
  intro a h
  have bytes : ∀ x, halfByte h x = _ := fun x => (congrArg (fun y : Half => memGet y.mem x) (curHalf_advance none _)).trans
    (halfByte_stored wf rt base size post off x)
  refine ⟨fun k hk => ?_, fun b out => ?_⟩
  · rw [bytes, if_pos ⟨by omega, by omega⟩, Nat.add_sub_cancel_left]
  · rw [bytes, if_neg (by omega)]

/-- Settles O6: a load writes the extension of the bytes it reads, a store writes bytes of its half; both raise ACCESS outside their parts. -/
theorem loadsAndStoresActOnTheirHalf : Obligations.LoadsAndStoresActOnTheirHalf := by
  unfold Obligations.LoadsAndStoresActOnTheirHalf
  refine ⟨fun i e w rt base size post off sign s spec ok stands => ?_, fun e rt base size post off s ok stands wf => ?_⟩
  · obtain ⟨plain, does⟩ := loadSpec_runs spec ok
    refine ⟨fun fits => ?_, fun out => ?_⟩
    · have loads := loadOp_ok sign rt ((loadOk_iff (engineAt s e) _ (sizeBytes size)).2 fits)
      rw [extend_read] at loads
      have c := runWord_computes (body := fun _ g => loadOp (extend sign) rt base size post off g) stands plain loads
        (onlyData_trans (onlyData_postInc _ _ _ _ _) (onlyData_setReg _ _ _))
      refine ⟨_, does s, c.frame, fun r => (c.regs r).trans ((getReg_setReg _ _ _ _).trans ?_), c.acc.trans ((setReg_acc _ _ _).trans (postInc_acc _ _ _ _ _)),
        c.flags.trans ((setReg_flags _ _ _).trans (postInc_flags _ _ _ _ _)), c.halves, c.shadow, c.goes⟩
      rw [getReg_postInc]
      rfl
    · have raises := loadOp_bad (extend sign) rt (mt (loadOk_iff (engineAt s e) _ (sizeBytes size)).1 out)
      refine ⟨_, does s, ?_⟩
      rw [runWord_raises stands plain.1 (.inr plain.2) raises]
      exact raisesX_instrX e xAccess _ 0 s
  · refine ⟨fun fits => ?_, fun out => ?_⟩
    · have fits := (storeOk_iff (engineAt s e) _ (sizeBytes size)).2 fits
      refine ⟨_, st_runs ok stands fits, onlyEngine_executed _ _ _, ?_⟩
      rw [engineAt_executed]
      generalize engineAt s e = g at *
      obtain ⟨inside, outside⟩ := bytes_stored wf rt base size post off
      have kept := fun {α : Type} (p : Engine → α) blind => stored_proj rt base size post off g p blind
      have half : curHalf (shiftMode none (advance (stored rt base size post off g))) = _ :=
        (curHalf_advance none _).trans (curHalf_stored rt base size post off g)
      rw [half]
      refine ⟨inside, outside, (advance_half _).trans (kept (·.half) fun _ _ _ _ => rfl), idle_stored rt base size post off g, rfl, rfl, rfl, rfl,
        fun r => (getReg_advance none _ r).trans (getReg_stored rt base size post off g r),
        (advance_acc _).trans (kept (·.acc) fun _ _ _ _ => rfl), (advance_flags _).trans (kept (·.flags) fun _ _ _ _ => rfl),
        (advance_run _).trans (kept (·.run) fun _ _ _ _ => rfl), shadow_stored rt base size post off g,
        goesOn_shiftMode (kept (·.pc) fun _ _ _ _ => rfl) (kept (·.delay) fun _ _ _ _ => rfl) (kept (·.loops) fun _ _ _ _ => rfl) none⟩
    · obtain ⟨legal, free⟩ := plain_encM (op := 0x1A) rt base post off (by decide) ok
      have raises := storeOp_bad rt (mt (storeOk_iff (engineAt s e) _ (sizeBytes size)).1 out)
      refine ⟨_, rfl, ?_⟩
      rw [runWord_raises stands legal (.inr free) raises]
      exact raisesX_instrX e xAccess _ 0 s

end Sys2Proof.Machine

/-! Proofs about the hardware loops and the exceptions of an engine (R70, R73 to R77, R86 to R91, R94, R96). -/
namespace Sys2Proof.Machine
open Sys2Proof.Stmt

/-! ### The checks of a loop instruction, in their order (R75) -/

section
variable {g : Engine} {count : Word} {bound : Option Word} {en : BitVec 10}

/-- Where the last instruction of a loop would stand. -/
def loopEnd (g : Engine) (en : BitVec 10) : Word := g.pc + 4 * (en.setWidth 32 + 1)

theorem badEnd_iff : (codeWord g (loopEnd g en)).elim false isControl = true ↔ ∃ v, codeWord g (loopEnd g en) = some v ∧ isControl v = true := by
  cases codeWord g (loopEnd g en) <;> simp

theorem badNest_iff : (g.loops.any fun l => decide (l.last ≤ loopEnd g en)) = true ↔ ∃ l ∈ g.loops, l.last ≤ loopEnd g en := by simp

theorem tooMany_iff : (bound.elim false fun b => decide (b < count)) = true ↔ ∃ b, bound = some b ∧ b < count := by
  cases bound <;> simp

theorem loopOp_deep (deep : 2 ≤ g.loops.length) : loopOp count bound en g = .xcpt xLoopNest 0 0 := if_pos deep

variable (room : g.loops.length < 2)
include room

theorem loopOp_badEnd (bad : ∃ v, codeWord g (loopEnd g en) = some v ∧ isControl v = true) : loopOp count bound en g = .xcpt xIllegal 0 0 :=
  (if_neg (not_le.2 room)).trans (if_pos (badEnd_iff.2 bad))

variable (kind : ¬ ∃ v, codeWord g (loopEnd g en) = some v ∧ isControl v = true)
include kind

theorem loopOp_badNest (bad : ∃ l ∈ g.loops, l.last ≤ loopEnd g en) : loopOp count bound en g = .xcpt xLoopNest 0 0 :=
  (if_neg (not_le.2 room)).trans ((if_neg (mt badEnd_iff.1 kind)).trans (if_pos (badNest_iff.2 bad)))

variable (nest : ¬ ∃ l ∈ g.loops, l.last ≤ loopEnd g en)
include nest

theorem loopOp_tooMany (bad : ∃ b, bound = some b ∧ b < count) : loopOp count bound en g = .xcpt xLoopBound count 0 :=
  (if_neg (not_le.2 room)).trans ((if_neg (mt badEnd_iff.1 kind)).trans ((if_neg (mt badNest_iff.1 nest)).trans (if_pos (tooMany_iff.2 bad))))

variable (few : ¬ ∃ b, bound = some b ∧ b < count)
include few

theorem loopOp_passed : loopOp count bound en g =
    if count = 0 then .skip g (loopEnd g en + 4) else .next { g with loops := g.loops ++ [⟨g.pc + 4, loopEnd g en, count⟩] } :=
  (if_neg (not_le.2 room)).trans ((if_neg (mt badEnd_iff.1 kind)).trans ((if_neg (mt badNest_iff.1 nest)).trans (if_neg (mt tooMany_iff.1 few))))

end

/-! ### What a loop instruction leaves (R74) -/

theorem legal_encL (rs : Reg) (en cnt : BitVec 10) : legalWord (encL 0x30 rs en cnt) = true := by
  unfold legalWord
  simp only [op_encL _ _ (show 0x30 < 64 by decide), bit25_encL, Bool.not_false]

theorem legal_encL_count (en cnt : BitVec 10) : legalWord (encL 0x31 0 en cnt) = true := by
  unfold legalWord
  simp only [op_encL _ _ (show 0x31 < 64 by decide), rs_encL, beq_self_eq_true]

theorem loopSpec_runs {i : Instr} {e : EngRef} {w : Word} {en : BitVec 10} {n : Engine → Word} {bound : Option Word}
    (h : loopSpec i = some (e, w, en, n, bound)) :
    legalWord w = true ∧ ∀ s, exec i s = .next (runWord e w (fun _ g => loopOp (n g) bound en g) s) := by
  unfold loopSpec at h
  split at h <;> cases h
  · exact ⟨legal_encL _ _ _, fun s => rfl⟩
  · exact ⟨legal_encL_count _ _, fun s => rfl⟩

/-- The last instruction of a loop stands behind the loop instruction. -/
theorem loopEnd_ne (g : Engine) (en : BitVec 10) : loopEnd g en ≠ g.pc := by
  have small := en.isLt
  unfold loopEnd
  intro h
  have offset : (4 * (en.setWidth 32 + 1) : Word) = 0 := by simpa using h
  have value := congrArg BitVec.toNat offset
  simp [BitVec.toNat_mul, BitVec.toNat_add] at value
  omega

/-- What a loop instruction leaves from `s` to `t` whatever its count: all but control. -/
structure LoopKept (e : EngRef) (s t : State) : Prop where
  frame : onlyEngine e s t
  slot : (engineAt t e).delay = none
  regs : ∀ r, getReg (engineAt t e) r = getReg (engineAt s e) r
  acc : (engineAt t e).acc = (engineAt s e).acc
  flags : (engineAt t e).flags = (engineAt s e).flags
  halves : sameHalves (engineAt s e) (engineAt t e)
  shadow : shadowPasses (engineAt s e) (engineAt t e)

/-- An engine that a loop instruction with a count of 0 takes behind the loop. -/
def skipped (p : Word) (g : Engine) : Engine := { g with pc := p, jumped := false }

theorem loopKept_skipped {e : EngRef} {s : State} (slot : (engineAt s e).delay = none) (p : Word) :
    LoopKept e s (executed e (shiftMode none (skipped p (engineAt s e))) s) := by
  have control : onlyDataAndControl (engineAt s e) (skipped p (engineAt s e)) := rfl
  refine ⟨onlyEngine_executed _ _ _, ?_, ?_, ?_, ?_, ?_, ?_⟩ <;> rw [engineAt_executed]
  · exact slot
  · exact fun r => rfl
  · rfl
  · rfl
  · exact sameHalves_shiftMode control none
  · exact shadowPasses_shiftMode control

/-- An engine with one more loop inside those that are active. -/
def looping (l : LoopReg) (g : Engine) : Engine := { g with loops := g.loops ++ [l] }

theorem loopKept_looping (e : EngRef) (l : LoopReg) (s : State) :
    LoopKept e s (executed e (shiftMode none (advance (looping l (engineAt s e)))) s) := by
  have control : onlyDataAndControl (engineAt s e) (looping l (engineAt s e)) := rfl
  refine ⟨onlyEngine_executed _ _ _, ?_, ?_, ?_, ?_, ?_, ?_⟩ <;> rw [engineAt_executed]
  · exact advance_delay _
  · exact getReg_advance none _
  · exact advance_acc _
  · exact advance_flags _
  · exact sameHalves_shiftMode (onlyDataAndControl_advance control) none
  · exact shadowPasses_shiftMode (onlyDataAndControl_advance control)

/-- A loop that starts at an instruction which ends no loop: control goes to the next instruction. -/
theorem advance_looping {g : Engine} {l : LoopReg} (slot : g.delay = none) (inner : l.last ≠ g.pc) (out : ∀ l ∈ g.loops, l.last ≠ g.pc) :
    (advance (looping l g)).pc = g.pc + 4 ∧ (advance (looping l g)).loops = g.loops ++ [l] := by
  have none : loopAt (looping l g) (looping l g).pc = none := by
    simp only [loopAt, looping, List.find?_eq_none, List.mem_append, List.mem_singleton, beq_iff_eq]
    rintro x (mem | rfl)
    · exact out x mem
    · exact inner
  exact advance_plain (fun d taken => by cases slot.symm.trans taken) none

section
variable {i : Instr} {e : EngRef} {w : Word} {en : BitVec 10} {n : Engine → Word} {bound : Option Word} {s : State}
  (spec : loopSpec i = some (e, w, en, n, bound)) (stands : standsAt s e w) (slot : (engineAt s e).delay = none)
include spec stands slot

theorem loop_raises {cause : Nat} {addr : Word} (does : loopOp (n (engineAt s e)) bound en (engineAt s e) = .xcpt cause addr 0) :
    ∃ t, exec i s = .next t ∧ raisesX e (BitVec.ofNat 4 cause) addr s t := by
  obtain ⟨legal, runs⟩ := loopSpec_runs spec
  refine ⟨_, runs s, ?_⟩
  rw [runWord_raises stands legal (.inl slot) does]
  exact raisesX_instrX e cause addr 0 s

theorem loop_skips {p : Word} (does : loopOp (n (engineAt s e)) bound en (engineAt s e) = .skip (engineAt s e) p) :
    ∃ t, exec i s = .next t ∧ LoopKept e s t ∧ (engineAt t e).pc = p ∧ (engineAt t e).loops = (engineAt s e).loops := by
  obtain ⟨legal, runs⟩ := loopSpec_runs spec
  have eq : runWord e w (fun _ g => loopOp (n g) bound en g) s = executed e (shiftMode none (skipped p (engineAt s e))) s := by
    rw [runWord_stands stands legal (.inl slot), does]; rfl
  refine ⟨_, (runs s).trans (congrArg Host.Outcome.next eq), loopKept_skipped slot p, ?_⟩
  rw [engineAt_executed]
  exact ⟨rfl, rfl⟩

theorem loop_starts {l : LoopReg} (does : loopOp (n (engineAt s e)) bound en (engineAt s e) = .next (looping l (engineAt s e)))
    (inner : l.last ≠ (engineAt s e).pc) (out : ∀ l ∈ (engineAt s e).loops, l.last ≠ (engineAt s e).pc) :
    ∃ t, exec i s = .next t ∧ LoopKept e s t ∧ (engineAt t e).pc = (engineAt s e).pc + 4 ∧
      (engineAt t e).loops = (engineAt s e).loops ++ [l] := by
  obtain ⟨legal, runs⟩ := loopSpec_runs spec
  have eq : runWord e w (fun _ g => loopOp (n g) bound en g) s = executed e (shiftMode none (advance (looping l (engineAt s e)))) s := by
    rw [runWord_stands stands legal (.inl slot), does]; rfl
  refine ⟨_, (runs s).trans (congrArg Host.Outcome.next eq), loopKept_looping e l s, ?_⟩
  rw [engineAt_executed]
  exact advance_looping slot inner out

end

/-- Settles O7: the first check that fails raises its exception; where none fails the body is skipped or entered. -/
theorem loopInstructionsCheckAndStart : Obligations.LoopInstructionsCheckAndStart := by
  unfold Obligations.LoopInstructionsCheckAndStart
  intro i e w en n bound s spec stands slot
  refine ⟨fun deep => ?_, fun room bad => ?_, fun room kind bad => ?_, fun room kind nest bad => ?_, fun room kind nest few zero => ?_,
    fun room kind nest few some out => ?_⟩
  · exact loop_raises spec stands slot (loopOp_deep deep)
  · exact loop_raises spec stands slot (loopOp_badEnd room bad)
  · exact loop_raises spec stands slot (loopOp_badNest room kind bad)
  · exact loop_raises spec stands slot (loopOp_tooMany room kind nest bad)
  · obtain ⟨t, does, kept, pc, loops⟩ := loop_skips spec stands slot ((loopOp_passed room kind nest few).trans (if_pos zero))
    exact ⟨t, does, ⟨kept.frame, kept.slot, kept.regs, kept.acc, kept.flags, kept.halves, kept.shadow⟩, pc, loops⟩
  · obtain ⟨t, does, kept, pc, loops⟩ := loop_starts spec stands slot ((loopOp_passed room kind nest few).trans (if_neg some)) (loopEnd_ne _ _) out
    exact ⟨t, does, ⟨kept.frame, kept.slot, kept.regs, kept.acc, kept.flags, kept.halves, kept.shadow⟩, pc, loops⟩

/-! ### Exceptions (R70, R73, R77, R94, R96) -/

theorem illegalStep_raises {e : EngRef} {w : Word} {s : State} (stands : standsAt s e w)
    (bad : legalWord w = false ∨ ((engineAt s e).delay.isSome = true ∧ isControl w = true)) :
    illegalStep e s = instrX e xIllegal 0 0 s := by
  obtain ⟨run, word⟩ := stands
  unfold illegalStep
  dsimp only
  rw [if_neg (by rw [Option.isNone_iff_eq_none]; rintro h; rw [h] at run; cases run), word]
  exact if_pos (by simpa using bad)

/-- An engine-kind exception of an engine in service: its record, and the retirement (R96). -/
theorem engineFault_raises {e : EngRef} {s u : State} (same : engineAt u e = engineAt s e) (live : crestLive u e.crest = true)
    (service : (Vec.at u.crests e.crest).retired.getLsbD e.eng.val = false) {cause : Nat}
    (kind : cause = xCtxEcc ∨ cause = xStall ∨ cause = xSelftest) :
    raisesX e (BitVec.ofNat 4 cause) 0 s (engineFault e cause u) ∧
      (Vec.at (engineFault e cause u).crests e.crest).retired = setBit (Vec.at u.crests e.crest).retired e.eng.val true ∧
      (hdrAt (engineFault e cause u) (.engine e.crest)).raw.getLsbD 3 = true := by
  have eq : engineFault e cause u = engineX e cause 0 0 (runningDesc (engineAt u e)) (elapsedNow u (engineAt u e)) u :=
    if_pos (by rw [live, service]; rfl)
  obtain ⟨-, -, -, -, retires⟩ := engineX_spec e cause 0 0 (runningDesc (engineAt u e)) (elapsedNow u (engineAt u e)) u
  rw [eq]
  exact ⟨raisesX_engineX same cause 0 0 _, retires kind service⟩

theorem runWord_fetches {e : EngRef} {s : State} (run : (engineAt s e).run.isSome = true) (out : codeWord (engineAt s e) (engineAt s e).pc = none)
    (w : Word) (body : State → Engine → Eff) : runWord e w body s = instrX e xFetch (engineAt s e).pc 0 s := by
  unfold runWord
  dsimp only
  rw [if_neg (by rw [Option.isNone_iff_eq_none]; rintro h; rw [h] at run; cases run), out]

theorem illegalStep_fetches {e : EngRef} {s : State} (run : (engineAt s e).run.isSome = true) (out : codeWord (engineAt s e) (engineAt s e).pc = none) :
    illegalStep e s = instrX e xFetch (engineAt s e).pc 0 s := by
  unfold illegalStep
  dsimp only
  rw [if_neg (by rw [Option.isNone_iff_eq_none]; rintro h; rw [h] at run; cases run), out]

/-- Each instruction runs the word its operands spell, and ILLEGAL_ENCODING the word that stands at the PC. -/
theorem exec_of_engineOf {i : Instr} {e : EngRef} (h : engineOf i = some e) :
    (∃ w body, ∀ s, exec i s = .next (runWord e w body s)) ∨ ∀ s, exec i s = .next (illegalStep e s) := by
  cases i
  case illegalEncoding => cases h; exact .inr fun s => rfl
  all_goals cases h <;> exact .inl ⟨_, _, fun s => rfl⟩

/-- An engine whose PC lies outside its code part fetches, whichever instruction the command names (R70). -/
theorem exec_fetches {i : Instr} {e : EngRef} {s : State} (h : engineOf i = some e) (run : (engineAt s e).run.isSome = true)
    (out : codeWord (engineAt s e) (engineAt s e).pc = none) : exec i s = .next (instrX e xFetch (engineAt s e).pc 0 s) := by
  obtain ⟨w, body, does⟩ | does := exec_of_engineOf h
  · rw [does, runWord_fetches run out]
  · rw [does, illegalStep_fetches run out]

/-- The flags of a FETCH record are those of the instruction at the PC, and clear for a branch's destination (R70, R91). -/
theorem fetchRecord_flags (s : State) (g : Engine) (d : Option StepDesc) (el : BitVec 16) (run : g.run.isSome = true) :
    let x := mkRecord s g xFetch g.pc 0 d el
    (g.jumped = true → x.ds = false ∧ x.sh = false ∧ x.le = false ∧ x.next = (g.pc + 4).setWidth 14) ∧
    (g.jumped = false → x.ds = g.delay.isSome ∧ x.sh = g.modeNext.isSome ∧ (x.le = true ↔ ∃ l ∈ g.loops, l.last = g.pc)) := by
  unfold mkRecord
  dsimp only
  rw [run]
  refine ⟨fun jumped => ?_, fun straight => ?_⟩
  · rw [jumped]
    exact ⟨rfl, rfl, rfl, rfl⟩
  · rw [straight]
    refine ⟨rfl, rfl, ?_⟩
    show (loopAt g g.pc).isSome = true ↔ _
    simp [loopAt]

theorem trap_raises {e : EngRef} {code : BitVec 5} {s : State} (stands : standsAt s e (encR 0x3F 8 0 0 code)) (slot : (engineAt s e).delay = none) :
    exec (.trap e code) s = .next (instrX e xTrap 0 code s) := by
  have legal : legalWord (encR 0x3F 8 0 0 code) = true := legalWord_encR 0 0 code (by decide) (by decide)
  exact congrArg Host.Outcome.next (runWord_raises stands legal (.inl slot) rfl)

/-- Settles O8: each command is brought to the exception it raises, whose record and stop are those of every exception. -/
theorem exceptionsStopTheStep : Obligations.ExceptionsStopTheStep := by
  unfold Obligations.ExceptionsStopTheStep
  refine ⟨⟨fun e code s stands slot => ?_, fun e w s stands bad => ?_, fun e s live service => ⟨?_, ?_⟩⟩, fun i e s spec run out => ?_⟩
  · refine ⟨_, trap_raises stands slot, raisesX_instrX e xTrap 0 code s, ?_⟩
    rw [instrX_record]; rfl
  · refine ⟨_, congrArg Host.Outcome.next (illegalStep_raises stands bad), raisesX_instrX e xIllegal 0 0 s⟩
  · exact ⟨_, rfl, engineFault_raises rfl live service (.inr (.inl rfl))⟩
  · exact ⟨_, rfl, engineFault_raises rfl live service (.inl rfl)⟩
  · refine ⟨_, exec_fetches spec run out, raisesX_instrX e xFetch _ 0 s, ?_⟩
    rw [instrX_record]
    exact fetchRecord_flags s (engineAt s e) _ _ run

end Sys2Proof.Machine

/-! Proofs about the steward's commands and tests and about the speed monitors (R83 to R85, R96, R98, R101). -/
namespace Sys2Proof.Machine
open Sys2Proof.Stmt

/-! ### Accesses that change one tile (R101) -/

theorem tileAccess_of_answered {q : Req} {c : Fin 6} {s : State} {g : State → State} {f : Crest → Crest} (answers : pgRefuses q (.engine c) s = false)
    (does : g (accessed (.engine c) s) = updCrest c f (accessed (.engine c) s)) : tileAccess c f s (onPage q (.engine c) g s) := by
  have crests : (accessed (.engine c) s).crests = s.crests := bump_crests _ _ _ _
  rw [onPage_accessed answers, does]
  refine ⟨accessed_resp _ _, ?_, countsOnly_of_hdrs (countsOnly_accessed _ _) rfl, fun d hd => ?_, ?_⟩
  · rw [accessed_eq]; rfl
  · exact (Vec.at_upd_ne _ _ _ _ hd).trans (by rw [crests])
  · exact (Vec.at_upd_same _ _ _).trans (by rw [crests])

theorem updCrest_id (c : Fin 6) (s : State) : updCrest c id s = s := by
  have tiles : Vec.upd s.crests c id = s.crests := by
    refine Vec.ext_at fun d => ?_
    by_cases h : d = c
    · rw [h, Vec.at_upd_same, id]
    · exact Vec.at_upd_ne _ _ _ _ h
  unfold updCrest
  rw [tiles]

section
variable {c : Fin 6} {eng : BitVec 5} {s : State}

theorem retireCmd_beyond (h : 18 ≤ eng.toNat) : retireCmd c eng s = updCrest c (fun t => { t with refused := true }) s :=
  dif_neg (not_lt.2 h)

variable {i : Fin 18} (h : eng.toNat = i.val)
include h

/-- The retirement command of an engine that the tile has. -/
theorem retireCmd_engine : retireCmd c eng s =
    if (Vec.at s.crests c).retired.getLsbD i.val then s
    else if 2 < popcount (withEngines (Vec.at s.crests c).retired ((Vec.at s.crests c).toRetire ++ [i])) then
      updCrest c (fun t => { t with refused := true }) s
    else updCrest c (fun t => { t with refused := false, toRetire := (t.toRetire.filter fun j => j.val != i.val) ++ [i] }) s := by
  have small : eng.toNat < 18 := h ▸ i.isLt
  have same : (⟨eng.toNat, small⟩ : Fin 18) = i := Fin.ext h
  refine (dif_pos small).trans ?_
  rw [same, h]
  rfl

end

/-! ### Tests (R96, R98) -/

theorem quietEngine_inService {t : Crest} {i : Fin 18} (h : quietEngine t = some i) : inService t i = true := by
  unfold quietEngine at h
  split at h
  · next j found =>
    cases h
    exact (Bool.and_eq_true _ _ ▸ List.find?_some found).2
  · exact List.find?_some h

/-- A tile whose rotation of the quiet slots has passed engine `i`. -/
def turned (i : Fin 18) (t : Crest) : Crest := { t with quietNext := i + 1 }

theorem quietTest_turns {c : Fin 6} {i : Fin 18} {s : State} (live : crestLive s c = true) (next : quietEngine (Vec.at s.crests c) = some i)
    (pass : Bool) : quietTest c pass s =
      if pass then updCrest c (turned i) s else engineFault ⟨c, i⟩ xSelftest (updCrest c (turned i) s) := by
  unfold quietTest
  rw [live, next]
  rfl

theorem engineAt_updCrest {f : Crest → Crest} (keeps : ∀ t, (f t).engines = t.engines) (c : Fin 6) (s : State) (e : EngRef) :
    engineAt (updCrest c f s) e = engineAt s e := by
  unfold engineAt
  rw [updCrest_proj Crest.engines c f s e.crest keeps]

theorem quietTest_fails {c : Fin 6} {i : Fin 18} {s : State} (live : crestLive s c = true) (next : quietEngine (Vec.at s.crests c) = some i) :
    raisesX ⟨c, i⟩ 0xB 0 s (quietTest c false s) ∧
      (Vec.at (quietTest c false s).crests c).retired = setBit (Vec.at s.crests c).retired i.val true := by
  rw [quietTest_turns live next, if_neg Bool.false_ne_true]
  have service := quietEngine_inService next
  obtain ⟨-, out⟩ : _ ∧ (Vec.at s.crests c).retired.getLsbD i.val = false := by simpa [inService] using service
  have retired := updCrest_proj Crest.retired c (turned i) s c fun _ => rfl
  obtain ⟨raises, sets, -⟩ := engineFault_raises (e := ⟨c, i⟩) (s := s) (u := updCrest c (turned i) s)
    (cause := xSelftest) (engineAt_updCrest (f := turned i) (fun _ => rfl) c s ⟨c, i⟩) live (by rw [retired]; exact out) (.inr (.inr rfl))
  exact ⟨raises, sets.trans (by rw [retired])⟩

/-! ### Speed monitors (R83 to R85) -/

/-- The reading taken so far after that of monitor `i`. -/
def lower (r : Vec (BitVec 12) 8) (acc : BitVec 12 × BitVec 3) (i : Fin 8) : BitVec 12 × BitVec 3 :=
  if Vec.at r i < acc.1 then (Vec.at r i, BitVec.ofNat 3 i.val) else acc

/-- Over monitors in rising order the first of the lowest readings is taken. -/
theorem foldl_lower (r : Vec (BitVec 12) 8) (l : List (Fin 8)) (k : Fin 8) (order : (k :: l).Pairwise (· < ·)) :
    ∃ i ∈ k :: l, l.foldl (lower r) (Vec.at r k, BitVec.ofNat 3 k.val) = (Vec.at r i, BitVec.ofNat 3 i.val) ∧
      ∀ j ∈ k :: l, Vec.at r i ≤ Vec.at r j ∧ (j < i → Vec.at r j ≠ Vec.at r i) := by
  induction l generalizing k with
  | nil => exact ⟨k, by simp, rfl, by simp⟩
  | cons x xs ih =>
    obtain ⟨first, rest⟩ := List.pairwise_cons.1 order
    obtain ⟨second, rest'⟩ := List.pairwise_cons.1 rest
    rw [List.foldl_cons, lower]
    dsimp only
    split
    · next less =>
      obtain ⟨i, mem, eq, low⟩ := ih x rest
      refine ⟨i, List.mem_cons_of_mem _ mem, eq, fun j hj => ?_⟩
      obtain rfl | hj := List.mem_cons.1 hj
      · have below : Vec.at r i < Vec.at r j := BitVec.lt_def.2 (Nat.lt_of_le_of_lt (BitVec.le_def.1 (low x (by simp)).1) (BitVec.lt_def.1 less))
        exact ⟨BitVec.le_of_lt below, fun _ same => BitVec.lt_irrefl _ (same ▸ below)⟩
      · exact low j hj
    · next notLess =>
      have above := BitVec.not_lt.1 notLess
      obtain ⟨i, mem, eq, low⟩ := ih k (List.pairwise_cons.2 ⟨fun y hy => first y (List.mem_cons_of_mem _ hy), rest'⟩)
      have mem' : i ∈ k :: x :: xs := by
        obtain rfl | mem := List.mem_cons.1 mem
        · simp
        · exact List.mem_cons_of_mem _ (List.mem_cons_of_mem _ mem)
      refine ⟨i, mem', eq, fun j hj => ?_⟩
      obtain ⟨lowK, firstK⟩ := low k (by simp)
      obtain rfl | hj := List.mem_cons.1 hj
      · exact ⟨lowK, firstK⟩
      · obtain rfl | hj := List.mem_cons.1 hj
        · exact ⟨BitVec.le_trans lowK above, fun before same =>
            firstK ((first j (by simp)).trans before) (BitVec.le_antisymm (same ▸ above) lowK)⟩
        · exact low j (List.mem_cons_of_mem _ hj)

theorem lowestReading_spec (r : Vec (BitVec 12) 8) :
    ∃ i : Fin 8, lowestReading r = (Vec.at r i, BitVec.ofNat 3 i.val) ∧ ∀ j, Vec.at r i ≤ Vec.at r j ∧ (j < i → Vec.at r j ≠ Vec.at r i) := by
  have all : List.finRange 8 = 0 :: [1, 2, 3, 4, 5, 6, 7] := by decide
  obtain ⟨i, -, eq, low⟩ := foldl_lower r [1, 2, 3, 4, 5, 6, 7] 0 (by decide)
  refine ⟨i, ?_, fun j => low j (all ▸ List.mem_finRange j)⟩
  have start : lower r (Vec.at r 0, 0) 0 = (Vec.at r 0, BitVec.ofNat 3 0) := if_neg (BitVec.lt_irrefl _)
  show (List.finRange 8).foldl (lower r) (Vec.at r 0, 0) = _
  rw [all, List.foldl_cons, start]
  exact eq

/-- A tile after its measurement of readings `r`; `low` counts the readings below 1,024 at 0.85 V. -/
def measured (r : Vec (BitVec 12) 8) (low : Nat) (t : Crest) : Crest :=
  { t with
    readings := r, speedMin := (lowestReading r).1, speedMon := (lowestReading r).2, guard := decide ((lowestReading r).1.toNat ≤ 1105)
    slow := decide ((lowestReading r).1.toNat < 1024), lowRounds := if decide ((lowestReading r).1.toNat < 1024) then satInc t.lowRounds else 0
    lowAtMax := low }

/-- The number of readings below 1,024 at 0.85 V in a row, that of readings `r` included. -/
def lowCount (c : Fin 6) (r : Vec (BitVec 12) 8) (s : State) : Nat :=
  if decide ((lowestReading r).1.toNat < 1024) && decide (850 ≤ s.pwr.setMv.toNat) then (Vec.at s.crests c).lowAtMax + 1 else 0

/-- The state once a measurement is published and its conditions are told. -/
def published (c : Fin 6) (r : Vec (BitVec 12) 8) (s : State) : State :=
  noteConds [.engine c] s (if decide ((lowestReading r).1.toNat < 1024) && !(Vec.at s.crests c).slow
    then urgent 506 (updCrest c (measured r (lowCount c r s)) s) else updCrest c (measured r (lowCount c r s)) s)

theorem published_crests (c : Fin 6) (r : Vec (BitVec 12) 8) (s : State) :
    (published c r s).crests = Vec.upd s.crests c (measured r (lowCount c r s)) := by
  unfold published
  rw [noteConds_crests]
  split <;> rfl

theorem but_published (c : Fin 6) (r : Vec (BitVec 12) 8) (s : State) : But 0x4004800022 s (published c r s) :=
  but_noteConds ((Within.self _).le rfl) (but_ite (but_urgent ((Within.self _).le rfl) (but_updCrest ((Within.self _).le rfl) (.self _ s)))
    (but_updCrest ((Within.self _).le rfl) (.self _ s)))

/-- The measurement of a tile changes the tile, and what else depends on whether the sixteenth low reading fails it. -/
theorem tileMeasured_eq {c : Fin 6} {s : State} (live : crestLive s c = true) (r : Vec (BitVec 12) 8) :
    tileMeasured c r s = if lowCount c r s = 16 then failSelfTest (published c r s) else published c r s := by
  unfold tileMeasured
  exact if_neg (by rw [live]; exact Bool.false_ne_true)

theorem speedMeasured_spec {c : Fin 6} {s : State} (live : crestLive s c = true) (r : Vec (BitVec 12) 8) (ack : Bool) :
    ∃ low, (speedMeasured c r ack s).crests = Vec.upd s.crests c (measured r low) ∧ (low ≠ 16 → But 0x6204800022 s (speedMeasured c r ack s)) := by
  have eq := tileMeasured_eq live r
  have adapts : ∀ v, But 0x6204000002 v (if lastLive s c then adaptVcore ack v else v) := fun v =>
    but_ite (but_adaptVcore (Within.self _) (.self _ v)) (.self _ v)
  have fails : But 0x4004a7c802 (published c r s) (tileMeasured c r s) :=
    eq ▸ but_ite (but_failSelfTest (Within.self _) (.self _ _)) (.self _ _)
  refine ⟨lowCount c r s, ?_, fun few => ?_⟩
  · exact (adapts _ .crests rfl).trans ((fails .crests rfl).trans (published_crests c r s))
  · rw [if_neg few] at eq
    exact ((eq ▸ but_published c r s : But _ s _).mono ((Within.self _).le rfl)).trans ((adapts _).mono ((Within.self _).le rfl))

end Sys2Proof.Machine

/-! Proofs about the scrubber (R92, R93), and the obligation on the steward. -/
namespace Sys2Proof.Machine
open Sys2Proof.Stmt

/-! ### The words of a span with errors of one kind -/

/-- The words of a span that stand in the lists `v` of the tiles. -/
def held (v : Crest → List Nat) (s : State) (a n : Nat) : List (Fin 6 × Nat) :=
  (presentCrests s).flatMap fun c => (wordsIn (v (Vec.at s.crests c)) a n).map fun w => (c, w)

theorem badIn_held (s : State) (a n : Nat) : badIn s a n = held Crest.badWords s a n := rfl

theorem softIn_held (s : State) (a n : Nat) : softIn s a n = held Crest.softWords s a n := rfl

theorem mem_wordsIn {ws : List Nat} {a n x : Nat} : x ∈ wordsIn ws a n ↔ x ∈ ws ∧ a < x + 8 ∧ x < a + n := by
  simp [wordsIn]

theorem wordsIn_cons_self (w : Nat) (ws : List Nat) : wordsIn (w :: ws) w 8 = w :: wordsIn ws w 8 :=
  List.filter_cons_of_pos (by simp)

theorem mem_held {v : Crest → List Nat} {s : State} {a n : Nat} {x : Fin 6 × Nat} :
    x ∈ held v s a n ↔ x.1.val < s.part.crests ∧ x.2 ∈ wordsIn (v (Vec.at s.crests x.1)) a n := by
  obtain ⟨c, w⟩ := x
  simp [held, mem_presentCrests]

theorem flatMap_of_only {α β : Type} {l : List α} {f : α → List β} {a : α} (nodup : l.Nodup) (mem : a ∈ l) (only : ∀ b ∈ l, b ≠ a → f b = []) :
    l.flatMap f = f a := by
  obtain ⟨l1, l2, rfl⟩ := List.append_of_mem mem
  obtain ⟨-, -, apart⟩ := List.nodup_append.1 nodup
  have before : l1.flatMap f = [] := List.flatMap_eq_nil_iff.2 fun b hb => only b (by simp [hb]) (apart b hb a (by simp))
  have after : l2.flatMap f = [] := List.flatMap_eq_nil_iff.2 fun b hb =>
    only b (by simp [hb]) fun same => (List.nodup_cons.1 (List.nodup_append.1 nodup).2.1).1 (same ▸ hb)
  rw [List.flatMap_append, before, List.flatMap_cons, after, List.nil_append, List.append_nil]

/-- Where the words of the span lie in tile `c` alone, they follow what becomes of that tile. -/
theorem held_of_upd {v : Crest → List Nat} {f : Crest → Crest} {s t : State} {c : Fin 6} {a n : Nat} (part : t.part = s.part)
    (tiles : t.crests = Vec.upd s.crests c f) (here : c.val < s.part.crests) (only : ∀ x ∈ held v s a n, x.1 = c) :
    held v t a n = (wordsIn (v (f (Vec.at s.crests c))) a n).map fun w => (c, w) := by
  unfold held
  rw [flatMap_of_only (presentCrests_nodup t) (mem_presentCrests.2 (part ▸ here))]
  · rw [tiles, Vec.at_upd_same]
  · intro d present other
    rw [tiles, Vec.at_upd_ne _ _ _ _ other, List.map_eq_nil_iff]
    refine List.eq_nil_iff_forall_not_mem.2 fun w mem => other (only (d, w) (mem_held.2 ⟨?_, mem⟩))
    exact part ▸ mem_presentCrests.1 present

theorem upd_upd {α : Type} {n : Nat} (v : Vec α n) (i : Fin n) (f g : α → α) : Vec.upd (Vec.upd v i f) i g = Vec.upd v i fun x => g (f x) := by
  refine Vec.ext_at fun j => ?_
  by_cases h : j = i
  · rw [h, Vec.at_upd_same, Vec.at_upd_same, Vec.at_upd_same]
  · rw [Vec.at_upd_ne _ _ _ _ h, Vec.at_upd_ne _ _ _ _ h, Vec.at_upd_ne _ _ _ _ h]

/-! ### A corrected word (R92) -/

/-- A tile whose word `w` has been corrected and counted. -/
def mended (w : Nat) (t : Crest) : Crest := { t with softWords := t.softWords.filter fun x => x != w, eccCorr := satInc t.eccCorr }

/-- What is seen of a correction on tile `c` of word `w`. -/
def correctedAt (c : Fin 6) (w : Nat) (s t : State) : Prop :=
  (Vec.at t.crests c).eccCorr = satInc (Vec.at s.crests c).eccCorr ∧ t.pool = s.pool ∧ softIn t w 8 = [] ∧ badIn t w 8 = [] ∧
    ((Vec.at t.crests c).eccCorr = (Vec.at s.crests c).eccThr → (hdrAt t (.engine c)).raw.getLsbD 5 = true)

theorem correctWord_crests (c : Fin 6) (w : Nat) (s : State) : (correctWord s (c, w)).crests = Vec.upd s.crests c (mended w) := by
  have counted : ∀ u, (countCorrected c u).crests = Vec.upd u.crests c fun t => { t with eccCorr := satInc t.eccCorr } := by
    intro u
    unfold countCorrected
    dsimp only
    split
    · rw [raise_crests, bump_crests]; rfl
    · rw [bump_crests]; rfl
  rw [correctWord, counted]
  exact upd_upd s.crests c (fun t => { t with softWords := t.softWords.filter fun x => x != w }) fun t => { t with eccCorr := satInc t.eccCorr }

/-- ECC_CORR shows once the count has reached its threshold. -/
theorem correctWord_raises {c : Fin 6} {w : Nat} {s : State} (reached : satInc (Vec.at s.crests c).eccCorr = (Vec.at s.crests c).eccThr) :
    (hdrAt (correctWord s (c, w)) (.engine c)).raw.getLsbD 5 = true := by
  have tile := correctWord_crests c w s
  unfold correctWord countCorrected at tile ⊢
  dsimp only at tile ⊢
  split
  · exact raise_sets _ _ _ _ _ (by decide)
  · next below =>
    refine absurd (beq_iff_eq.2 ?_) below
    rw [if_neg below] at tile
    rw [tile, Vec.at_upd_same]
    exact reached

/-- The reader of the one word with a single-bit error corrects it. -/
theorem correctIn_single {c : Fin 6} {w : Nat} {s : State} (here : c.val < s.part.crests) (soft : softIn s w 8 = [(c, w)]) (bad : badIn s w 8 = []) :
    correctedAt c w s (correctIn w 8 s) := by
  have one : correctIn w 8 s = correctWord s (c, w) := by rw [correctIn, soft, List.foldl_cons, List.foldl_nil]
  have frame : But 0x4004000022 s (correctWord s (c, w)) := but_correctWord (Within.self _) (.self _ s)
  have tiles := correctWord_crests c w s
  have tile : Vec.at (correctWord s (c, w)).crests c = mended w (Vec.at s.crests c) := by rw [tiles, Vec.at_upd_same]
  refine ⟨by rw [one, tile]; rfl, one ▸ frame .pool rfl, ?_, (badIn_correctIn w 8 s w 8).trans bad, fun reached => ?_⟩
  · have all : ∀ x ∈ held Crest.softWords s w 8, x = (c, w) := fun x hx => List.mem_singleton.1 (soft ▸ hx)
    rw [one, softIn_held, held_of_upd (frame .part rfl) tiles here fun x hx => congrArg Prod.fst (all x hx), List.map_eq_nil_iff]
    refine List.eq_nil_iff_forall_not_mem.2 fun x mem => ?_
    obtain ⟨kept, span⟩ := mem_wordsIn.1 mem
    obtain ⟨was, other⟩ := List.mem_filter.1 kept
    have same : (c, x) = (c, w) := all (c, x) (mem_held.2 ⟨here, mem_wordsIn.2 ⟨was, span⟩⟩)
    exact bne_iff_ne.1 other (congrArg Prod.snd same)
  · rw [one] at reached ⊢
    rw [tile] at reached
    exact correctWord_raises reached

/-! ### What the scrubber finds -/

/-- A tile one of whose words the scrubber found in error. -/
def struck (w : Nat) (double : Bool) (t : Crest) : Crest :=
  { t with softWords := (hitWord w double (t.softWords, t.badWords)).1, badWords := (hitWord w double (t.softWords, t.badWords)).2 }

theorem poolCrest_aligned (s : State) (a : Nat) : poolCrest s (a / 8 * 8) = poolCrest s a := by
  unfold poolCrest
  rw [show a / 8 * 8 / 0x800000 = a / 0x800000 by omega]

theorem poolCrest_present {s : State} {a : Nat} {c : Fin 6} (h : poolCrest s a = some c) : c.val < s.part.crests := by
  unfold poolCrest at h
  split at h
  · split at h
    · next here => cases h; exact here
    · cases h
  · cases h

section
variable {a : Word} {c : Fin 6} {s : State} (pool : isPool a = true) (owner : poolCrest s (a.toNat / 8 * 8) = some c)
include pool owner

theorem upset_pool (double : Bool) : upset s ⟨a, double⟩ = updCrest c (struck (a.toNat / 8 * 8) double) s := by
  rw [poolCrest_aligned] at owner
  unfold upset
  rw [if_pos pool]
  dsimp only
  rw [owner]
  rfl

theorem scrub_eq (on : crestOn s c = true) (found : EccFinding) :
    let w := a.toNat / 8 * 8
    let u := correctIn w 8 (scrubFinds a found s)
    scrub a found s = if (badIn u w 8).isEmpty then u
      else if inRegions u.run.active w || inRegions u.run.shadow w then foundBad (badIn u w 8) u
      else poolPut w (List.replicate 8 0) (countBad w 8 u) := by
  unfold scrub
  dsimp only
  rw [if_pos pool, owner]
  dsimp only
  rw [on]
  rfl

/-- A word without an uncorrectable error is left corrected. -/
theorem scrub_good (on : crestOn s c = true) {found : EccFinding} (good : badIn (scrubFinds a found s) (a.toNat / 8 * 8) 8 = []) :
    scrub a found s = correctIn (a.toNat / 8 * 8) 8 (scrubFinds a found s) := by
  rw [scrub_eq pool owner on found, badIn_correctIn, good]
  exact if_pos rfl

end

theorem hitWord_single {w : Nat} {x : List Nat × List Nat} (soft : w ∉ x.1) (bad : w ∉ x.2) : hitWord w false x = (w :: x.1, x.2) := by
  simp [hitWord, soft, bad]

theorem hitWord_double {w : Nat} {x : List Nat × List Nat} (bad : w ∉ x.2) :
    hitWord w true x = (x.1.filter fun y => y != w, w :: x.2) := by
  simp [hitWord, bad]

section
variable {c : Fin 6} {w : Nat} {s : State} (here : c.val < s.part.crests)
include here

theorem not_mem_of_none {v : Crest → List Nat} (none : held v s w 8 = []) : w ∉ v (Vec.at s.crests c) := fun mem =>
  List.not_mem_nil (none ▸ mem_held.2 ⟨here, mem_wordsIn.2 ⟨mem, by omega, by omega⟩⟩ : (c, w) ∈ [])

theorem wordsIn_of_none {v : Crest → List Nat} (none : held v s w 8 = []) : wordsIn (v (Vec.at s.crests c)) w 8 = [] :=
  List.eq_nil_iff_forall_not_mem.2 fun _ mem => List.not_mem_nil (none ▸ mem_held.2 ⟨here, mem⟩ : (c, _) ∈ [])

/-- What becomes of the words of a span that held none. -/
theorem held_of_upd_none {v : Crest → List Nat} {f : Crest → Crest} {t : State} (part : t.part = s.part)
    (tiles : t.crests = Vec.upd s.crests c f) (none : held v s w 8 = []) :
    held v t w 8 = (wordsIn (v (f (Vec.at s.crests c))) w 8).map fun x => (c, x) :=
  held_of_upd part tiles here fun _ mem => absurd (none ▸ mem) List.not_mem_nil

theorem held_updCrest {v : Crest → List Nat} (none : held v s w 8 = []) (f : Crest → Crest) :
    held v (updCrest c f s) w 8 = (wordsIn (v (f (Vec.at s.crests c))) w 8).map fun x => (c, x) :=
  held_of_upd_none here rfl rfl none

variable (soft : softIn s w 8 = []) (bad : badIn s w 8 = [])
include soft bad

theorem struck_single : softIn (updCrest c (struck w false) s) w 8 = [(c, w)] ∧ badIn (updCrest c (struck w false) s) w 8 = [] := by
  have hit := hitWord_single (x := ((Vec.at s.crests c).softWords, (Vec.at s.crests c).badWords))
    (not_mem_of_none here (v := Crest.softWords) soft) (not_mem_of_none here (v := Crest.badWords) bad)
  constructor
  · rw [softIn_held, held_updCrest here soft, struck, hit, wordsIn_cons_self, wordsIn_of_none here (v := Crest.softWords) soft]
    rfl
  · rw [badIn_held, held_updCrest here bad, struck, hit, wordsIn_of_none here (v := Crest.badWords) bad]
    rfl

theorem struck_double : softIn (updCrest c (struck w true) s) w 8 = [] ∧ badIn (updCrest c (struck w true) s) w 8 = [(c, w)] := by
  have hit := hitWord_double (x := ((Vec.at s.crests c).softWords, (Vec.at s.crests c).badWords)) (not_mem_of_none here (v := Crest.badWords) bad)
  constructor
  · rw [softIn_held, held_updCrest here soft, struck, hit, List.map_eq_nil_iff]
    refine List.eq_nil_iff_forall_not_mem.2 fun x mem => ?_
    obtain ⟨kept, span⟩ := mem_wordsIn.1 mem
    exact List.not_mem_nil (wordsIn_of_none here (v := Crest.softWords) soft ▸ mem_wordsIn.2 ⟨(List.mem_filter.1 kept).1, span⟩)
  · rw [badIn_held, held_updCrest here bad, struck, hit, wordsIn_cons_self, wordsIn_of_none here (v := Crest.badWords) bad]
    rfl

end

/-! ### An uncorrectable word (R93) -/

/-- The state once word `w` of tile `c` has been found uncorrectable, counted and recorded. -/
def doubled (c : Fin 6) (w : Nat) (s : State) : State := countUncorrectable c w (updCrest c (struck w true) s)

/-- A tile whose word `w` has been found uncorrectable, counted and recorded. -/
def spoilt (w : Nat) (t : Crest) : Crest := { struck w true t with eccUnc := satInc t.eccUnc, eccAddr := BitVec.ofNat 32 w }

/-- A tile that fails its self-test at the end of the round. -/
def failing (t : Crest) : Crest := { t with failAtRoundEnd := true }

/-- A word was found uncorrectable and is told. -/
def spoiltAt (c : Fin 6) (w : Nat) (s t : State) : Prop :=
  (Vec.at t.crests c).eccUnc = satInc (Vec.at s.crests c).eccUnc ∧ (Vec.at t.crests c).eccAddr = BitVec.ofNat 32 w ∧
    (hdrAt t (.engine c)).raw.getLsbD 6 = true ∧ t.super.urgent.getLsbD 9 = true

theorem doubled_crests (c : Fin 6) (w : Nat) (s : State) : (doubled c w s).crests = Vec.upd s.crests c (spoilt w) := by
  refine (but_raiseUrgent (Within.self _) (.self _ _) .crests rfl :).trans ?_
  exact upd_upd s.crests c (struck w true) fun t => { t with eccUnc := satInc t.eccUnc, eccAddr := BitVec.ofNat 32 w }

theorem but_doubled (c : Fin 6) (w : Nat) (s : State) : But 0x4004800022 s (doubled c w s) :=
  but_countUncorrectable (Within.self _) (but_updCrest ((Within.self _).le rfl) (.self _ s))

theorem spoiltAt_doubled (c : Fin 6) (w : Nat) (s : State) : spoiltAt c w s (doubled c w s) := by
  obtain ⟨urgent, raw⟩ := uncTold_countUncorrectable c w (updCrest c (struck w true) s)
  refine ⟨?_, ?_, raw, urgent⟩ <;> rw [doubled_crests, Vec.at_upd_same] <;> rfl

/-- What a tile's counters, the page's raw bits and the urgent sources tell stays told. -/
theorem spoiltAt_congr {c : Fin 6} {w : Nat} {s t u : State} (h : spoiltAt c w s t) (unc : (Vec.at u.crests c).eccUnc = (Vec.at t.crests c).eccUnc)
    (addr : (Vec.at u.crests c).eccAddr = (Vec.at t.crests c).eccAddr) (hdrs : u.hdrs = t.hdrs) (super : u.super = t.super) : spoiltAt c w s u := by
  obtain ⟨count, record, raw, urgent⟩ := h
  exact ⟨unc.trans count, addr.trans record, by unfold hdrAt; rw [hdrs]; exact raw, super ▸ urgent⟩

theorem at_poolPut (a : Nat) (d : List Byte) (s : State) (c : Fin 6) : Vec.at (poolPut a d s).crests c =
    { Vec.at s.crests c with
      badWords := notWritten a d.length (Vec.at s.crests c).badWords, softWords := notWritten a d.length (Vec.at s.crests c).softWords } :=
  Vector.getElem_map _ c.isLt

theorem mem_badIn_poolPut {a b n : Nat} {d : List Byte} {s : State} {x : Fin 6 × Nat} (h : x ∈ badIn (poolPut a d s) b n) :
    x ∈ badIn s b n ∧ ¬ (a ≤ x.2 ∧ x.2 + 8 ≤ a + d.length) := by
  obtain ⟨present, mem⟩ := mem_held.1 h
  obtain ⟨kept, span⟩ := mem_wordsIn.1 mem
  rw [at_poolPut] at kept
  obtain ⟨was, apart⟩ := List.mem_filter.1 kept
  exact ⟨mem_held.2 ⟨present, mem_wordsIn.2 ⟨was, span⟩⟩, fun ⟨low, high⟩ => by simp [low, high] at apart⟩

section
variable {c : Fin 6} {w : Nat} {s : State} (here : c.val < s.part.crests) (soft : softIn s w 8 = []) (bad : badIn s w 8 = [])
include here soft bad

theorem badIn_doubled : badIn (doubled c w s) w 8 = [(c, w)] := by
  rw [badIn_held, held_of_upd_none here (but_doubled c w s .part rfl) (doubled_crests c w s) bad, ← (struck_double here soft bad).2, badIn_held,
    held_updCrest here bad]
  rfl

theorem badIn_foundWord : badIn (updCrest c failing (doubled c w s)) w 8 = [(c, w)] := by
  have tiles : (updCrest c failing (doubled c w s)).crests = Vec.upd s.crests c fun x => failing (spoilt w x) :=
    (congrArg (Vec.upd · c failing) (doubled_crests c w s)).trans (upd_upd s.crests c (spoilt w) failing)
  rw [← badIn_doubled here soft bad, badIn_held, badIn_held,
    held_of_upd_none here (t := updCrest c failing (doubled c w s)) (but_doubled c w s .part rfl) tiles bad,
    held_of_upd_none here (but_doubled c w s .part rfl) (doubled_crests c w s) bad]
  rfl

/-- A word rewritten whole is good again. -/
theorem badIn_rewritten : badIn (poolPut w (List.replicate 8 0) (doubled c w s)) w 8 = [] :=
  List.eq_nil_iff_forall_not_mem.2 fun x mem => by
    obtain ⟨was, apart⟩ := mem_badIn_poolPut mem
    rw [badIn_doubled here soft bad, List.mem_singleton] at was
    subst was
    exact apart ⟨Nat.le_refl w, by rw [List.length_replicate]⟩

end

/-! ### The word that the scrubber reads -/

section
variable {a : Word} {c : Fin 6} {s : State} (pool : isPool a = true) (owner : poolCrest s (a.toNat / 8 * 8) = some c) (on : crestOn s c = true)
  (bad : badIn s (a.toNat / 8 * 8) 8 = [])
include pool owner on bad

theorem scrub_corrects {found : EccFinding} (soft : softIn s (a.toNat / 8 * 8) 8 = [(c, a.toNat / 8 * 8)]) (adds : scrubFinds a found s = s) :
    correctedAt c (a.toNat / 8 * 8) s (scrub a found s) := by
  rw [scrub_good pool owner on (by rw [adds]; exact bad), adds]
  exact correctIn_single (poolCrest_present owner) soft bad

variable (soft : softIn s (a.toNat / 8 * 8) 8 = [])
include soft

theorem scrub_clean : scrub a .clean s = s := (scrub_good pool owner on (found := .clean) bad).trans (correctIn_of_clean soft)

/-- An error found in a word that held none is added to what is known of its tile, and corrected. -/
theorem scrub_single : correctedAt c (a.toNat / 8 * 8) s (scrub a .single s) := by
  have here := poolCrest_present owner
  have finds : scrubFinds a .single s = updCrest c (struck (a.toNat / 8 * 8) false) s :=
    (if_pos (by rw [soft]; rfl)).trans (upset_pool pool owner false)
  obtain ⟨one, good⟩ := struck_single here soft bad
  rw [scrub_good pool owner on (by rw [finds]; exact good), finds]
  have eccCorr := updCrest_proj Crest.eccCorr c (struck (a.toNat / 8 * 8) false) s c fun _ => rfl
  have eccThr := updCrest_proj Crest.eccThr c (struck (a.toNat / 8 * 8) false) s c fun _ => rfl
  obtain ⟨count, kept, soft', bad', raises⟩ := correctIn_single (s := updCrest c (struck (a.toNat / 8 * 8) false) s) here one good
  exact ⟨count.trans (congrArg satInc eccCorr), kept, soft', bad', fun reached => raises (reached.trans eccThr.symm)⟩

/-- An uncorrectable error found in a word that held none: the word of a region stays, another is rewritten. -/
theorem scrub_double : scrub a .double s =
    if inRegions s.run.active (a.toNat / 8 * 8) || inRegions s.run.shadow (a.toNat / 8 * 8) then
      updCrest c failing (doubled c (a.toNat / 8 * 8) s)
    else poolPut (a.toNat / 8 * 8) (List.replicate 8 0) (doubled c (a.toNat / 8 * 8) s) := by
  obtain ⟨good, one⟩ := struck_double (poolCrest_present owner) soft bad
  have finds : scrubFinds a .double s = updCrest c (struck (a.toNat / 8 * 8) true) s := upset_pool pool owner true
  rw [scrub_eq pool owner on, finds, correctIn_of_clean good, countBad, one]
  rfl

end

/-! ### The steward's commands, tests and scrubber -/

theorem engRetire_sound {q : Req} {c : Fin 6} {eng : BitVec 5} {i : Fin 18} {s : State} (answers : pgRefuses q (.engine c) s = false)
    (same : eng.toNat = i.val) (sound : (Vec.at s.crests c).retired.getLsbD i.val = false) :
    tileAccess c (if 2 < popcount (withEngines (Vec.at s.crests c).retired ((Vec.at s.crests c).toRetire ++ [i])) then
        fun t => { t with refused := true }
      else fun t => { t with refused := false, toRetire := (t.toRetire.filter fun j => j.val != i.val) ++ [i] })
      s (onPage q (.engine c) (retireCmd c eng) s) := by
  refine tileAccess_of_answered answers ?_
  have crests : (accessed (.engine c) s).crests = s.crests := bump_crests _ _ _ _
  rw [retireCmd_engine same, crests, if_neg (by rw [sound]; exact Bool.false_ne_true)]
  split <;> rfl

theorem engRetire_retired {q : Req} {c : Fin 6} {eng : BitVec 5} {i : Fin 18} {s : State} (answers : pgRefuses q (.engine c) s = false)
    (same : eng.toNat = i.val) (out : (Vec.at s.crests c).retired.getLsbD i.val = true) :
    tileAccess c id s (onPage q (.engine c) (retireCmd c eng) s) := by
  refine tileAccess_of_answered answers ?_
  have crests : (accessed (.engine c) s).crests = s.crests := bump_crests _ _ _ _
  rw [retireCmd_engine same, crests, if_pos out, updCrest_id]

theorem spareTest_fails {c : Fin 6} {i : Fin 18} {s : State} (spare : logicalOf (Vec.at s.crests c) i = none) (live : crestLive s c = true)
    (sound : (Vec.at s.crests c).retired.getLsbD i.val = false) : ∃ t, exec (.spareTest c i false) s = .next t ∧ raisesX ⟨c, i⟩ 0xB 0 s t ∧
      (Vec.at t.crests c).retired = setBit (Vec.at s.crests c).retired i.val true := by
  obtain ⟨raises, sets, -⟩ := engineFault_raises (e := ⟨c, i⟩) (s := s) (cause := xSelftest) rfl live sound (.inr (.inr rfl))
  exact ⟨_, congrArg Host.Outcome.next (if_neg (by rw [spare]; exact Bool.false_ne_true)), raises, sets⟩

/-- Settles O9, from what the page's commands, a failed test, a measurement and the scrubber do to their tile. -/
theorem stewardCommandsTestsAndScrubber : Obligations.StewardCommandsTestsAndScrubber := by
  unfold Obligations.StewardCommandsTestsAndScrubber
  refine ⟨fun q c eng s answers => ⟨fun beyond => ?_, fun i same => ⟨fun out => ?_, fun sound third => ?_, fun sound room => ?_⟩, ?_, ?_⟩,
    fun c i s live next => ⟨?_, ?_⟩, fun c i s => ⟨rfl, spareTest_fails⟩, fun c r ack s live => ?_,
    fun a c s pool owner on wf bad => ⟨?_, fun soft => ?_, ?_, fun soft => ?_⟩⟩
  · exact ⟨_, rfl, tileAccess_of_answered answers (retireCmd_beyond beyond)⟩
  · exact ⟨_, rfl, engRetire_retired answers same out⟩
  · have done := engRetire_sound answers same sound
    rw [if_pos third] at done
    exact ⟨_, rfl, done⟩
  · have done := engRetire_sound answers same sound
    rw [if_neg (Nat.not_lt.2 room)] at done
    exact ⟨_, rfl, done⟩
  · exact ⟨_, rfl, tileAccess_of_answered answers rfl⟩
  · exact ⟨_, rfl, tileAccess_of_answered answers rfl⟩
  · exact ⟨_, congrArg Host.Outcome.next ((quietTest_turns live next true).trans (if_pos rfl)), rfl, fun _ other => Vec.at_upd_ne _ _ _ _ other,
      Vec.at_upd_same _ _ _⟩
  · exact ⟨_, rfl, quietTest_fails live next⟩
  · obtain ⟨low, tiles, frame⟩ := speedMeasured_spec live r ack
    obtain ⟨i, lowest, least⟩ := lowestReading_spec r
    have tile : Vec.at (speedMeasured c r ack s).crests c = measured r low (Vec.at s.crests c) := by rw [tiles, Vec.at_upd_same]
    refine ⟨_, rfl, ?_⟩
    rw [tile, measured, lowest]
    refine ⟨fun j => (least j).1, ⟨i, rfl, Nat.mod_eq_of_lt i.isLt, fun j => (least j).2⟩, rfl, decide_eq_true_iff, decide_eq_true_iff, ?_,
      fun d other => by rw [tiles, Vec.at_upd_ne _ _ _ _ other], fun few => ?_⟩
    · simp only [decide_eq_true_eq]
    · exact ⟨frame few .pool rfl, frame few .sched rfl, frame few .run rfl, frame few .trio rfl⟩
  · exact fun soft => congrArg Host.Outcome.next (scrub_clean pool owner on bad soft)
  · exact ⟨_, rfl, scrub_corrects pool owner on bad soft rfl⟩
  · rintro (soft | soft)
    · exact ⟨_, rfl, scrub_single pool owner on bad soft⟩
    · exact ⟨_, rfl, scrub_corrects pool owner on bad soft (if_neg (by rw [soft]; exact Bool.false_ne_true))⟩
  · have here := poolCrest_present owner
    have told := spoiltAt_doubled c (a.toNat / 8 * 8) s
    have kept := but_doubled c (a.toNat / 8 * 8) s .pool rfl
    refine ⟨_, congrArg Host.Outcome.next (scrub_double pool owner on bad soft), ?_⟩
    split
    · have marked := Vec.at_upd_same (doubled c (a.toNat / 8 * 8) s).crests c failing
      obtain ⟨unc, addr, raw, urgent⟩ := spoiltAt_congr told (u := updCrest c failing (doubled c (a.toNat / 8 * 8) s))
        (congrArg Crest.eccUnc marked :) (congrArg Crest.eccAddr marked :) rfl rfl
      exact ⟨unc, addr, raw, urgent, congrArg Crest.failAtRoundEnd marked, kept, badIn_foundWord here soft bad⟩
    · have rewritten := at_poolPut (a.toNat / 8 * 8) (List.replicate 8 0) (doubled c (a.toNat / 8 * 8) s) c
      obtain ⟨unc, addr, raw, urgent⟩ := spoiltAt_congr told (congrArg Crest.eccUnc rewritten :)
        (congrArg Crest.eccAddr rewritten :) rfl rfl
      refine ⟨unc, addr, raw, urgent, badIn_rewritten here soft bad, fun b => ?_⟩
      rw [show (poolPut _ _ _).pool = memWrite s.pool _ _ from congrArg (memWrite · _ _) kept, memGet_write _ _ _ wf, List.length_replicate,
        List.getD_eq_getElem?_getD, List.getElem?_getD_replicate_default_eq]

end Sys2Proof.Machine

/-! Proofs about the application bank (R128, R190): what an accepted ARM leaves of the trio ports of a device that copies to a member. -/
namespace Sys2Proof.Machine
open Sys2Proof.Stmt

/-! ### A donor whose forwarded frame leaves at once -/

/-- A variable of four bytes at 0x1000 that starts as 1. -/
def initKey : KeyEntry := ⟨1, 0, 0x1000, 0x100400, [1, 0, 0, 0]⟩

/-- An image whose one region is the committed copy of those bytes, with the key table `keys`. -/
def imageOfKeys (keys : List KeyEntry) : AppImage :=
  { id := 0, config := 0, tenants := 0, sizeBytes := 0, regions := [⟨none, 0x1000, 64, .committed⟩], code := [], keys := keys, tasks := []
    taskInit := [], inPoints := [], outPoints := [], stations := [], callAreas := [], safety := none
    ioMap := { di := [], tps := [], dout := [], tlo := [], ai := [], ao := [], panel := none }
    trio := ⟨0, false, false, 0, 0, 0, 0⟩, loops := [], watchdogMs := 0, partitionUs := 0, windows := Vector.replicate 4 [], recorder := []
    cans := [], uartLatched := 0, uartOwners := [], ports := [], hostShares := Vector.replicate 9 0, hisReservation := Vector.replicate 9 0
    hisShares := [], hisCapacityGb := 0, moving := [] }

/-- Member 0 copies to member 1 over its trio port A, which is enabled, up and keyed; its bank is VALID with an image that adds `initKey`. -/
def copyingDonor : State :=
  { State.reset with
    run := { State.reset.run with bank := .valid, active := some (imageOfKeys []), shadow := some (imageOfKeys [initKey]) }
    trio := { State.reset.trio with member := 0, upA := true, copying := some 1 }
    ports := Vec.upd State.reset.ports 8 fun p => { p with en := true, keyCak := some 0 } }

/-- The request of core S0 that the donor's run-control page answers. -/
def armReq : Req := ⟨.s0, true⟩

theorem copyingDonor_answers : pgRefuses armReq .runControl copyingDonor = false := by decide

theorem copyingDonor_keys : keysBad copyingDonor (imageOfKeys [initKey]) = none := by decide

theorem exec_appArm {q : Req} {s : State} (h : pgRefuses q .runControl s = false) :
    exec (.appArm q) s = .next (cmdAppArm (accessed .runControl s)) := congrArg Host.Outcome.next (onPage_accessed h _)

/-- ARM writes the initial value into a copied region, and the FORWARD frame that carries it takes a packet number of the port. -/
theorem copyingDonor_txPn : (Vec.at (cmdAppArm (accessed .runControl copyingDonor)).ports 8).txPn = 1 := by decide

/-- Refutes O15: on a donor an accepted ARM may change its trio port (the packet number of the frame that forwards the initial values,
R190, R305), where the frame of an accepted command names the pool, the trio unit and what leaves, and not the ports. -/
theorem not_applicationBankCommands : ¬ Obligations.ApplicationBankCommands := by
  unfold Obligations.ApplicationBankCommands
  rintro ⟨commands, -⟩
  obtain ⟨-, -, -, -, t, runs, -, -, accepts⟩ := commands armReq false copyingDonor copyingDonor_answers
  obtain ⟨-, arms⟩ := accepts _ rfl rfl
  obtain ⟨-, -, -, -, frame, -⟩ := arms copyingDonor_keys
  rw [exec_appArm copyingDonor_answers] at runs
  cases runs
  have sent : (Vec.at (cmdAppArm (accessed .runControl copyingDonor)).ports 8).txPn = (Vec.at copyingDonor.ports 8).txPn :=
    (congrArg (fun x : State => (Vec.at x.ports 8).txPn) frame :)
  rw [copyingDonor_txPn] at sent
  exact absurd sent (by decide)

end Sys2Proof.Machine

/-! Proofs about forces and RESTART (R113 to R116, R120): the force table, the changes that wait, and the restart of a stopped device. -/
namespace Sys2Proof.Machine
open Sys2Proof.Stmt

/-! ### Commands of the run-control page -/

theorem runDone_updRun (f : RunCtl → RunCtl) (s : State) : runDone f s (updRun f (accessed .runControl s)) := by
  have same := but_accessed .runControl s
  refine ⟨accessed_resp _ _, congrArg f (accessed_run _ s), countsOnly_accessed _ _, ?_⟩
  exact (congrArg (fun x : State => { x with run := s.run }) (restored_of_but same) :)

theorem inTrio_accessed (pg : Page) (s : State) : inTrio (accessed pg s) = inTrio s := by rw [accessed_eq]; rfl

theorem me_accessed (pg : Page) (s : State) : me (accessed pg s) = me s := by rw [accessed_eq]; rfl

theorem pointTrip_accessed (pg : Page) (s : State) (p : BitVec 16) : pointTrip (accessed pg s) p = pointTrip s p := by rw [accessed_eq]; rfl

theorem sealMaint_accessed (pg : Page) (s : State) : sealMaint (accessed pg s) = sealMaint s := by rw [accessed_eq]; rfl

theorem forceDelay_accessed (pg : Page) (s : State) : forceDelay (accessed pg s) = forceDelay s := by rw [accessed_eq]; rfl

/-! ### The force table -/

theorem Vec.at_map {α β : Type} {n : Nat} (f : α → β) (v : Vec α n) (i : Fin n) : Vec.at (v.map f) i = f (Vec.at v i) := by
  simp [Vec.at]

section
variable {s t : State} {p : BitVec 16} {i : Fin 256}

theorem forceIdx_congr (h : t.run.forces = s.run.forces) (p : BitVec 16) : forceIdx t p = forceIdx s p := by unfold forceIdx; rw [h]

theorem freeForce_congr (h : t.run.forces = s.run.forces) : freeForce t = freeForce s := by unfold freeForce; rw [h]

/-- Does an entry hold a force on the point `p`? -/
theorem holdsPoint_iff (x : Option Force) (p : BitVec 16) :
    (x.elim false fun f => f.point == p) = true ↔ ∃ f, x = some f ∧ f.point = p := by
  cases x <;> simp

theorem forceIdx_some (h : forceIdx s p = some i) : ∃ f, Vec.at s.run.forces i = some f ∧ f.point = p :=
  (holdsPoint_iff _ p).1 (List.find?_some (p := fun i => (Vec.at s.run.forces i).elim false fun f => f.point == p) h)

theorem forceIdx_none_iff : forceIdx s p = none ↔ ∀ i f, Vec.at s.run.forces i = some f → f.point ≠ p := by
  unfold forceIdx
  rw [List.find?_eq_none]
  simp only [holdsPoint_iff, List.mem_finRange, true_imp_iff, not_exists, not_and]

theorem freeForce_some (h : freeForce s = some i) : Vec.at s.run.forces i = none :=
  Option.isNone_iff_eq_none.1 (List.find?_some (p := fun i => (Vec.at s.run.forces i).isNone) h)

theorem freeForce_none_iff : freeForce s = none ↔ ∀ i, (Vec.at s.run.forces i).isSome = true := by
  unfold freeForce
  rw [List.find?_eq_none]
  simp [Option.isSome_iff_ne_none]

/-- Where no two entries hold one point, the force on a point is the one that names it. -/
theorem forceOn_some_iff (distinct : forcesDistinct s) {f : Force} :
    forceOn s p = some f ↔ f.point = p ∧ ∃ i, Vec.at s.run.forces i = some f := by
  unfold forceOn
  cases found : forceIdx s p with
  | none =>
    have no := forceIdx_none_iff.1 found
    exact ⟨fun h => absurd h (by simp), fun ⟨point, i, h⟩ => absurd point (no i f h)⟩
  | some j =>
    obtain ⟨g, at_, point⟩ := forceIdx_some found
    rw [Option.bind_some, at_, Option.some_inj]
    constructor
    · rintro rfl
      exact ⟨point, j, at_⟩
    · rintro ⟨same, i, h⟩
      have here := distinct i j f g h at_ (same.trans point.symm)
      rw [here, at_] at h
      exact Option.some_inj.1 h

theorem forceOn_none_iff : forceOn s p = none ↔ forceIdx s p = none := by
  unfold forceOn
  cases found : forceIdx s p with
  | none => simp
  | some j =>
    obtain ⟨g, at_, -⟩ := forceIdx_some found
    simp [at_]

/-- An entry is written for a point that only that entry may name. -/
theorem forceOn_put {f : Force} (distinct : forcesDistinct s) (table : t.run.forces = Vec.put s.run.forces i (some f))
    (only : ∀ j g, Vec.at s.run.forces j = some g → (g.point = f.point ↔ j = i)) :
    forceOn t f.point = some f ∧ ∀ q, q ≠ f.point → forceOn t q = forceOn s q := by
  have here : Vec.at t.run.forces i = some f := by rw [table, Vec.at_put_same]
  have there : ∀ j, j ≠ i → Vec.at t.run.forces j = Vec.at s.run.forces j := fun j h => by rw [table, Vec.at_put_ne _ _ _ _ h]
  have named : ∀ j g, Vec.at t.run.forces j = some g → (g.point = f.point ↔ j = i) := fun j g h => by
    by_cases same : j = i
    · rw [same, here, Option.some_inj] at h
      simp [← h, same]
    · exact only j g (there j same ▸ h)
  have stays : forcesDistinct t := fun j k g h hg hh same => by
    by_cases atf : g.point = f.point
    · rw [(named j g hg).1 atf, (named k h hh).1 (same ▸ atf)]
    · have apart : ∀ {x y}, Vec.at t.run.forces x = some y → y.point ≠ f.point → x ≠ i := fun hx ne => mt (named _ _ hx).2 ne
      rw [there j (apart hg atf)] at hg
      rw [there k (apart hh (same ▸ atf))] at hh
      exact distinct j k g h hg hh same
  refine ⟨(forceOn_some_iff stays).2 ⟨rfl, i, here⟩, fun q other => Option.ext fun g => ?_⟩
  rw [forceOn_some_iff stays, forceOn_some_iff distinct]
  refine and_congr_right fun point => exists_congr fun j => ?_
  by_cases same : j = i
  · have ne : g.point ≠ f.point := point ▸ other
    rw [same]
    exact ⟨fun h => absurd ((named i g h).2 rfl) ne, fun h => absurd ((only i g h).2 rfl) ne⟩
  · rw [there j same]

end

theorem forceInd_iff (s : State) : (refreshForceInd s).forceInd = true ↔ ∃ i, (Vec.at s.run.forces i).isSome = true := by
  unfold refreshForceInd forceCount
  simp [List.countP_pos_iff]

/-! ### The changes that wait -/

theorem placed_queueChange (x : Option Word × Nat × Fin 3) (l : List (Option Word × Nat × Fin 3)) : placed x l (queueChange x l) := by
  induction l with
  | nil => exact ⟨[], [], rfl, rfl, by simp, by simp⟩
  | cons y r ih =>
    unfold queueChange
    split
    next first =>
      obtain ⟨a, b, old, new, before, after⟩ := ih
      refine ⟨y :: a, b, by rw [old]; rfl, by rw [new]; rfl, fun z hz => ?_, after⟩
      obtain rfl | later := List.mem_cons.1 hz
      · simpa using first
      · exact before z later
    next last =>
      refine ⟨[], y :: r, rfl, rfl, by simp, fun z hz => ?_⟩
      obtain rfl := Option.mem_some_iff.1 hz
      simpa using last

/-- A force with one change more. -/
def withChange (x : Option Word × Nat × Fin 3) (f : Force) : Force := { f with pend := queueChange x f.pend }

/-- `t` differs from `s` in the force table and in the messages to publish alone. -/
def forcesOnly (s t : State) : Prop :=
  { t with run := { t.run with forces := s.run.forces }, trio := { t.trio with forcesOut := s.trio.forcesOut } } = s

theorem forcesOnly_refl (s : State) : forcesOnly s s := rfl

theorem forcesOnly_trans {s t u : State} (h : forcesOnly s t) (k : forcesOnly t u) : forcesOnly s u := by
  unfold forcesOnly at *
  rw [← k] at h
  exact h

theorem forcesOnly_putForce (i : Fin 256) (f : Option Force) (s : State) : forcesOnly s (putForce i f s) := rfl

theorem forcesOnly_publishForce (m : ForceMsg) (s : State) : forcesOnly s (publishForce m s) := by
  unfold publishForce
  split
  · rfl
  · exact forcesOnly_refl s

theorem forcesOnly_enterForce (m : Fin 3) (p : BitVec 16) (v : Word) (k : Nat) (s : State) : forcesOnly s (enterForce m p v k s) := by
  unfold enterForce
  split
  · exact forcesOnly_putForce _ _ s
  · split
    · exact forcesOnly_putForce _ _ s
    · exact forcesOnly_refl s

theorem forcesOnly_me {s t : State} (h : forcesOnly s t) : me t = me s := (congrArg me h :)

theorem forcesOnly_forceDelay {s t : State} (h : forcesOnly s t) : forceDelay t = forceDelay s := (congrArg forceDelay h :)

theorem publishForce_forces (m : ForceMsg) (s : State) : (publishForce m s).run.forces = s.run.forces :=
  congrArg RunCtl.forces (but_publishForce (W := 0x10000) (Within.self _) (.self _ s) .run rfl)

theorem publishForce_out (m : ForceMsg) (s : State) :
    (publishForce m s).trio.forcesOut = if inTrio s then s.trio.forcesOut ++ [m] else s.trio.forcesOut := by
  unfold publishForce
  split <;> rfl

/-- A force that stands gets one change more. -/
theorem enterForce_held {s : State} {p : BitVec 16} {i : Fin 256} {f : Force} (at_ : forceIdx s p = some i) (here : Vec.at s.run.forces i = some f)
    (m : Fin 3) (v : Word) (k : Nat) : enterForce m p v k s = putForce i (some (withChange (some v, k, m) f)) s := by
  unfold enterForce
  rw [at_]
  dsimp only
  rw [here]
  rfl

theorem enterForce_new {s : State} {p : BitVec 16} {i : Fin 256} (none_ : forceIdx s p = none) (free : freeForce s = some i) (m : Fin 3) (v : Word)
    (k : Nat) : enterForce m p v k s = putForce i (some ⟨p, v, false, [(some v, k, m)]⟩) s := by
  unfold enterForce
  rw [none_]
  dsimp only
  rw [free]

/-! ### FRC_SET, FRC_CLEAR and FRC_CLEAR_ALL (R113 to R116) -/

/-- The state in which an accepted force command edits the table: the access is counted and the code 0. -/
def frcBegun (s : State) : State := frcCode 0 (accessed .runControl s)

theorem frcBegun_run (s : State) : (frcBegun s).run = { s.run with frcCode := 0 } := by rw [← accessed_run .runControl s]; rfl

theorem frcBegun_forces (s : State) : (frcBegun s).run.forces = s.run.forces := by rw [frcBegun_run]

theorem frcBegun_trio (s : State) : (frcBegun s).trio = s.trio := but_accessed .runControl s .trio rfl

theorem frcBegun_inTrio (s : State) : inTrio (frcBegun s) = inTrio s := by unfold inTrio; rw [frcBegun_trio]

theorem but_frcBegun (s : State) : But 0x1000008002 s (frcBegun s) :=
  but_updRun ((Within.self _).le rfl) ((but_accessed .runControl s).mono ((Within.self _).le rfl))

theorem But.symm {W : Nat} {s t : State} (h : But W s t) : But W t s := fun c hc => by
  have same := h c hc
  cases c <;> exact Eq.symm same

theorem but_forcesOnly {s t : State} (h : forcesOnly s t) : But 0x18000 s t := by
  have back := but_updTrio (W := 0x18000) (f := fun x => { x with forcesOut := s.trio.forcesOut }) ((Within.self _).le rfl)
    (but_updRun (f := fun r => { r with forces := s.run.forces }) ((Within.self _).le rfl) (.self _ t))
  rw [show updTrio (fun x => { x with forcesOut := s.trio.forcesOut }) (updRun (fun r => { r with forces := s.run.forces }) t) = s from h] at back
  exact back.symm

/-- What an accepted force command leaves beside the table: the code, FORCE_CHANGE, and nothing but what it publishes. -/
theorem forceChanged_spec {s u : State} (edited : forcesOnly (frcBegun s) u) (ten : Option (BitVec 3)) :
    let t := forceChanged ten u
    t.run = u.run ∧ t.trio = u.trio ∧ t.run.frcCode = 0 ∧ (hdrAt t .runControl).raw.getLsbD 0 = true ∧
      (t.forceInd = true ↔ ∃ i, (Vec.at u.run.forces i).isSome = true) ∧
      eventFrame { s with run := t.run, trio := { s.trio with forcesOut := t.trio.forcesOut }, forceInd := t.forceInd, resp := .done } t ∧
      { t.run with forces := s.run.forces, frcCode := s.run.frcCode } = s.run := by
  intro t
  have run : t.run = u.run := raise_run _ _ _ _ _
  have trio : t.trio = u.trio := raise_trio _ _ _ _ _
  have table : { u.run with forces := (frcBegun s).run.forces } = (frcBegun s).run := congrArg State.run edited
  have out : { u.trio with forcesOut := (frcBegun s).trio.forcesOut } = (frcBegun s).trio := congrArg State.trio edited
  have resp : t.resp = .done := (raise_resp _ _ _ _ _).trans ((but_forcesOnly edited .resp rfl).trans (accessed_resp _ _))
  have ind : t.forceInd = (refreshForceInd u).forceInd := raise_forceInd _ _ _ _ _
  have frame : But 0x5404018002 s t := but_forceChanged ((Within.self _).le rfl)
    (((but_frcBegun s).mono ((Within.self _).le rfl)).trans ((but_forcesOnly edited).mono ((Within.self _).le rfl)))
  rw [frcBegun_run] at table
  rw [frcBegun_trio] at out
  refine ⟨run, trio, ?_, raise_sets _ _ _ _ _ (by decide), ?_, ?_, ?_⟩
  · rw [run]
    exact (congrArg RunCtl.frcCode table :)
  · rw [ind]
    exact forceInd_iff u
  · have rest : { s.trio with forcesOut := t.trio.forcesOut } = t.trio := by rw [← out, trio]
    rw [eventFrame, rest, ← resp]
    exact (congrArg (fun x : State => { x with run := t.run, trio := t.trio, forceInd := t.forceInd, resp := t.resp }) (restored_of_but frame) :)
  · rw [run]
    exact (congrArg (fun x : RunCtl => { x with frcCode := s.run.frcCode }) table :)

/-! The checks of SET and CLEAR, in the order of their codes (Table 4.3). -/

section
variable {s : State}

theorem cmdFrcSet_full (full : forceIdx s s.run.frcPoint = none ∧ freeForce s = none) : cmdFrcSet s = frcCode 0x40 s :=
  if_pos (by rw [full.1, full.2]; rfl)

theorem cmdFrcSet_noPoint (room : ¬ (forceIdx s s.run.frcPoint = none ∧ freeForce s = none)) (none_ : pointTrip s s.run.frcPoint = none) :
    cmdFrcSet s = frcCode 0x41 s := by
  unfold cmdFrcSet
  rw [if_neg (by simpa using room), none_]

theorem cmdFrcSet_point {trip : Bool} (room : ¬ (forceIdx s s.run.frcPoint = none ∧ freeForce s = none))
    (point : pointTrip s s.run.frcPoint = some trip) :
    cmdFrcSet s = if trip && !sealMaint s then frcCode 0x42 s
      else forceChanged (pointTenant s s.run.frcPoint) (publishForce ⟨s.run.frcPoint, s.run.frcValue, false⟩
        (enterForce (me s) s.run.frcPoint s.run.frcValue (forceDelay s) (frcCode 0 s))) := by
  unfold cmdFrcSet
  rw [if_neg (by simpa using room), point]

theorem cmdFrcClear_none (none_ : forceIdx s s.run.frcPoint = none) : cmdFrcClear s = frcCode 0x43 s := by
  unfold cmdFrcClear
  dsimp only
  rw [none_]

theorem cmdFrcClear_some {i : Fin 256} (at_ : forceIdx s s.run.frcPoint = some i) :
    cmdFrcClear s = forceChanged (pointTenant s s.run.frcPoint) (publishForce ⟨s.run.frcPoint, 0, true⟩
      (enterRemoval (me s) i (forceDelay s) (frcCode 0 s))) := by
  unfold cmdFrcClear
  dsimp only
  rw [at_]

end

/-! What the checks read is not changed by the access. -/

theorem forceIdx_accessed (s : State) (p : BitVec 16) : forceIdx (accessed .runControl s) p = forceIdx s p :=
  forceIdx_congr (by rw [accessed_run]) p

theorem freeForce_accessed (s : State) : freeForce (accessed .runControl s) = freeForce s := freeForce_congr (by rw [accessed_run])

theorem frcSet_refused (s : State) :
    (forceIdx s s.run.frcPoint = none ∧ freeForce s = none → cmdFrcSet (accessed .runControl s) = frcCode 0x40 (accessed .runControl s)) ∧
    (¬ (forceIdx s s.run.frcPoint = none ∧ freeForce s = none) → pointTrip s s.run.frcPoint = none →
      cmdFrcSet (accessed .runControl s) = frcCode 0x41 (accessed .runControl s)) := by
  refine ⟨fun full => cmdFrcSet_full ?_, fun room none_ => cmdFrcSet_noPoint ?_ ?_⟩
  · rwa [accessed_run, forceIdx_accessed, freeForce_accessed]
  · rwa [accessed_run, forceIdx_accessed, freeForce_accessed]
  · rwa [accessed_run, pointTrip_accessed]

theorem frcSet_point {s : State} {trip : Bool} (room : ¬ (forceIdx s s.run.frcPoint = none ∧ freeForce s = none))
    (point : pointTrip s s.run.frcPoint = some trip) :
    cmdFrcSet (accessed .runControl s) = if trip && !sealMaint s then frcCode 0x42 (accessed .runControl s)
      else forceChanged (pointTenant (accessed .runControl s) s.run.frcPoint) (publishForce ⟨s.run.frcPoint, s.run.frcValue, false⟩
        (enterForce (me s) s.run.frcPoint s.run.frcValue (forceDelay s) (frcBegun s))) := by
  rw [cmdFrcSet_point (trip := trip) (by rwa [accessed_run, forceIdx_accessed, freeForce_accessed]) (by rwa [accessed_run, pointTrip_accessed]),
    sealMaint_accessed, me_accessed, forceDelay_accessed, accessed_run]
  rfl

theorem frcClear_none {s : State} (none_ : forceIdx s s.run.frcPoint = none) :
    cmdFrcClear (accessed .runControl s) = frcCode 0x43 (accessed .runControl s) :=
  cmdFrcClear_none (by rwa [accessed_run, forceIdx_accessed])

theorem frcClear_some {s : State} {i : Fin 256} (at_ : forceIdx s s.run.frcPoint = some i) :
    cmdFrcClear (accessed .runControl s) = forceChanged (pointTenant (accessed .runControl s) s.run.frcPoint)
      (publishForce ⟨s.run.frcPoint, 0, true⟩ (enterRemoval (me s) i (forceDelay s) (frcBegun s))) := by
  rw [cmdFrcClear_some (i := i) (by rwa [accessed_run, forceIdx_accessed]), me_accessed, forceDelay_accessed, accessed_run]
  rfl

/-- The round starts after which a change that is accepted now acts. -/
theorem forceDelay_eq (s : State) : forceDelay s = if inTrio s = true ∧ s.trio.sentStatus.isSome = true then 3 else 2 := by
  unfold forceDelay
  simp only [Bool.and_eq_true]

/-- The removal of the force of entry `i` waits. -/
theorem enterRemoval_held {s : State} {i : Fin 256} {f : Force} (here : Vec.at s.run.forces i = some f) (m : Fin 3) (k : Nat) :
    enterRemoval m i k s = putForce i (some (withChange (none, k, m) f)) s := by
  unfold enterRemoval
  rw [here]
  rfl

/-- A change of the force on `p` was accepted: the code is 0, FORCE_CHANGE is raised, FORCE_IND_N driven, every other force stands. -/
def changedAt (p : BitVec 16) (s t : State) : Prop :=
  t.run.frcCode = 0 ∧ (hdrAt t .runControl).raw.getLsbD 0 = true ∧ t.forceInd = true ∧ (∀ p', p' ≠ p → forceOn t p' = forceOn s p') ∧
  eventFrame { s with run := t.run, trio := { s.trio with forcesOut := t.trio.forcesOut }, forceInd := true, resp := .done } t ∧
  { t.run with forces := s.run.forces, frcCode := s.run.frcCode } = s.run

/-- The messages to publish once `m` is among them. -/
def publishedOut (m : ForceMsg) (s t : State) : Prop :=
  t.trio.forcesOut = if inTrio s then s.trio.forcesOut ++ [m] else s.trio.forcesOut

/-- What an accepted SET or CLEAR leaves: entry `i` holds `f` for its point, every other force stands as it did. -/
theorem forceEdit_spec {s : State} {i : Fin 256} {f : Force} (distinct : forcesDistinct s) (m : ForceMsg) (ten : Option (BitVec 3))
    (only : ∀ j g, Vec.at s.run.forces j = some g → (g.point = f.point ↔ j = i)) :
    let t := forceChanged ten (publishForce m (putForce i (some f) (frcBegun s)))
    changedAt f.point s t ∧ forceOn t f.point = some f ∧ publishedOut m s t := by
  intro t
  have edited : forcesOnly (frcBegun s) (publishForce m (putForce i (some f) (frcBegun s))) :=
    forcesOnly_trans (forcesOnly_putForce _ _ _) (forcesOnly_publishForce _ _)
  obtain ⟨run, trio, code, raised, ind, frame, rest⟩ := forceChanged_spec edited ten
  have put : (publishForce m (putForce i (some f) (frcBegun s))).run.forces = Vec.put s.run.forces i (some f) := by
    rw [publishForce_forces, ← frcBegun_forces s]
    rfl
  have table : t.run.forces = Vec.put s.run.forces i (some f) := (congrArg RunCtl.forces run).trans put
  obtain ⟨own, others⟩ := forceOn_put distinct table only
  have lit : t.forceInd = true := ind.2 ⟨i, by rw [put, Vec.at_put_same]; rfl⟩
  refine ⟨⟨code, raised, lit, others, lit ▸ frame, rest⟩, own, ?_⟩
  rw [publishedOut, trio, publishForce_out, ← frcBegun_trio s, ← frcBegun_inTrio s]
  rfl

section
variable {s : State} {p : BitVec 16} (distinct : forcesDistinct s)
include distinct

/-- The entry that holds the force of a point, which no other entry names. -/
theorem entry_of_forceOn {f : Force} (on : forceOn s p = some f) :
    ∃ i, forceIdx s p = some i ∧ Vec.at s.run.forces i = some f ∧ f.point = p ∧
      ∀ j g, Vec.at s.run.forces j = some g → (g.point = f.point ↔ j = i) := by
  obtain ⟨named, -⟩ := (forceOn_some_iff distinct).1 on
  obtain ⟨i, at_⟩ : ∃ i, forceIdx s p = some i :=
    Option.ne_none_iff_exists'.1 fun no => absurd (on.symm.trans (forceOn_none_iff.2 no)) (by simp)
  have here : Vec.at s.run.forces i = some f := by
    rw [forceOn, at_] at on
    exact on
  refine ⟨i, at_, here, named, fun j g hj => ⟨distinct j i g f hj here, fun same => ?_⟩⟩
  rw [same, here, Option.some_inj] at hj
  rw [hj]

/-- A change of a force that stands. -/
theorem forceEdit_held {f : Force} (on : forceOn s p = some f) (x : Option Word × Nat × Fin 3) (m : ForceMsg) (ten : Option (BitVec 3)) :
    ∃ i, forceIdx s p = some i ∧ Vec.at s.run.forces i = some f ∧
      let t := forceChanged ten (publishForce m (putForce i (some (withChange x f)) (frcBegun s)))
      changedAt p s t ∧ (∃ l, forceOn t p = some { f with pend := l } ∧ placed x f.pend l) ∧ publishedOut m s t := by
  obtain ⟨i, at_, here, named, only⟩ := entry_of_forceOn distinct on
  obtain ⟨changed, own, sent⟩ := forceEdit_spec (f := withChange x f) distinct m ten only
  rw [show (withChange x f).point = p from named] at changed own
  exact ⟨i, at_, here, changed, ⟨_, own, placed_queueChange _ _⟩, sent⟩

/-- An accepted SET. -/
theorem enterForce_spec (room : ¬ (forceIdx s p = none ∧ freeForce s = none)) (m : Fin 3) (v : Word) (k : Nat) (ten : Option (BitVec 3)) :
    let t := forceChanged ten (publishForce ⟨p, v, false⟩ (enterForce m p v k (frcBegun s)))
    changedAt p s t ∧ (forceOn s p = none → forceOn t p = some ⟨p, v, false, [(some v, k, m)]⟩) ∧
      (∀ f, forceOn s p = some f → ∃ l, forceOn t p = some { f with pend := l } ∧ placed (some v, k, m) f.pend l) ∧
      publishedOut ⟨p, v, false⟩ s t := by
  have idx : forceIdx (frcBegun s) p = forceIdx s p := forceIdx_congr (frcBegun_forces s) p
  cases on : forceOn s p with
  | none =>
    have none_ := forceOn_none_iff.1 on
    obtain ⟨i, free⟩ : ∃ i, freeForce s = some i := Option.ne_none_iff_exists'.1 fun full => room ⟨none_, full⟩
    have vacant := freeForce_some free
    rw [enterForce_new (idx.trans none_) ((freeForce_congr (frcBegun_forces s)).trans free)]
    obtain ⟨changed, own, sent⟩ := forceEdit_spec (f := ⟨p, v, false, [(some v, k, m)]⟩) distinct ⟨p, v, false⟩ ten fun j g hj =>
      ⟨fun same => absurd same (forceIdx_none_iff.1 none_ j g hj), fun same => by rw [same, vacant] at hj; cases hj⟩
    exact ⟨changed, fun _ => own, fun f other => (by cases other), sent⟩
  | some f =>
    obtain ⟨i, at_, here, changed, own, sent⟩ := forceEdit_held distinct on (some v, k, m) ⟨p, v, false⟩ ten
    rw [enterForce_held (idx.trans at_) ((congrArg (Vec.at · i) (frcBegun_forces s)).trans here)]
    exact ⟨changed, fun other => (by cases other), fun g same => Option.some_inj.1 same ▸ own, sent⟩

/-- An accepted CLEAR. -/
theorem enterRemoval_spec {f : Force} (on : forceOn s p = some f) (m : Fin 3) (k : Nat) (ten : Option (BitVec 3)) :
    ∃ i, forceIdx s p = some i ∧
      let t := forceChanged ten (publishForce ⟨p, 0, true⟩ (enterRemoval m i k (frcBegun s)))
      changedAt p s t ∧ (∃ l, forceOn t p = some { f with pend := l } ∧ placed (none, k, m) f.pend l) ∧ publishedOut ⟨p, 0, true⟩ s t := by
  obtain ⟨i, at_, here, spec⟩ := forceEdit_held distinct on (none, k, m) ⟨p, 0, true⟩ ten
  refine ⟨i, at_, ?_⟩
  rw [enterRemoval_held ((congrArg (Vec.at · i) (frcBegun_forces s)).trans here)]
  exact spec

end

/-! CLEAR_ALL: every entry once. -/

/-- The removal of the force of entry `i`, if it holds one, is entered and published. -/
def removeAt (s : State) (i : Fin 256) : State :=
  match Vec.at s.run.forces i with
  | some f => publishForce ⟨f.point, 0, true⟩ (enterRemoval (me s) i (forceDelay s) s)
  | none => s

theorem cmdFrcClearAll_accessed (s : State) :
    cmdFrcClearAll (accessed .runControl s) = forceChanged none ((List.finRange 256).foldl removeAt (frcBegun s)) := by
  unfold cmdFrcClearAll removeForces
  refine congrArg (fun f => forceChanged none (List.foldl f (frcBegun s) (List.finRange 256))) (funext fun u => funext fun i => ?_)
  unfold removeAt
  cases Vec.at u.run.forces i <;> rfl

theorem removeAt_edits (s : State) (i : Fin 256) : forcesOnly s (removeAt s i) := by
  unfold removeAt
  split
  · exact forcesOnly_trans (forcesOnly_putForce _ _ s) (forcesOnly_publishForce _ _)
  · exact forcesOnly_refl s

theorem removeAt_forces (s : State) (i j : Fin 256) :
    Vec.at (removeAt s i).run.forces j =
      if j = i then (Vec.at s.run.forces j).map (withChange (none, forceDelay s, me s)) else Vec.at s.run.forces j := by
  unfold removeAt
  split
  next f here =>
    rw [publishForce_forces, enterRemoval_held here]
    unfold putForce updRun
    dsimp only
    split
    next same => rw [same, Vec.at_put_same, here]; rfl
    next other => rw [Vec.at_put_ne _ _ _ _ other]
  next empty =>
    split
    next same => rw [same, empty]; rfl
    next => rfl

theorem removeAll_edits (l : List (Fin 256)) (s : State) : forcesOnly s (l.foldl removeAt s) := by
  induction l generalizing s with
  | nil => exact forcesOnly_refl s
  | cons i l ih => exact forcesOnly_trans (removeAt_edits s i) (ih _)

theorem removeAll_forces {l : List (Fin 256)} (once : l.Nodup) (s : State) (j : Fin 256) :
    Vec.at (l.foldl removeAt s).run.forces j =
      if j ∈ l then (Vec.at s.run.forces j).map (withChange (none, forceDelay s, me s)) else Vec.at s.run.forces j := by
  induction l generalizing s with
  | nil => simp
  | cons i l ih =>
    obtain ⟨out, once⟩ := List.nodup_cons.1 once
    have edits := removeAt_edits s i
    rw [List.foldl_cons, ih once, removeAt_forces, forcesOnly_forceDelay edits, forcesOnly_me edits]
    by_cases same : j = i
    · subst same
      simp [out]
    · simp [same]

/-- CLEAR_ALL: the removal of every force waits, and each entry holds one where it did. -/
theorem clearAll_spec (s : State) :
    let t := cmdFrcClearAll (accessed .runControl s)
    t.run.frcCode = 0 ∧ (hdrAt t .runControl).raw.getLsbD 0 = true ∧
      (∀ i, Vec.at t.run.forces i = (Vec.at s.run.forces i).map (withChange (none, forceDelay s, me s))) ∧
      (t.forceInd = true ↔ ∃ i, (Vec.at s.run.forces i).isSome = true) ∧
      eventFrame { s with run := t.run, trio := { s.trio with forcesOut := t.trio.forcesOut }, forceInd := t.forceInd, resp := .done } t ∧
      { t.run with forces := s.run.forces, frcCode := s.run.frcCode } = s.run := by
  intro t
  have eq : t = forceChanged none ((List.finRange 256).foldl removeAt (frcBegun s)) := cmdFrcClearAll_accessed s
  obtain ⟨run, -, code, raised, ind, frame, rest⟩ := forceChanged_spec (removeAll_edits (List.finRange 256) (frcBegun s)) none
  have entry : ∀ i, Vec.at ((List.finRange 256).foldl removeAt (frcBegun s)).run.forces i =
      (Vec.at s.run.forces i).map (withChange (none, forceDelay s, me s)) := fun i => by
    rw [removeAll_forces (List.nodup_finRange 256), if_pos (List.mem_finRange i), frcBegun_forces]
    rw [show forceDelay (frcBegun s) = forceDelay s from forceDelay_accessed _ s, show me (frcBegun s) = me s from me_accessed _ s]
  rw [← eq] at run code raised ind frame rest
  refine ⟨code, raised, fun i => by rw [run, entry], ind.trans (exists_congr fun i => ?_), frame, rest⟩
  rw [entry, Option.isSome_map]

/-! ### FORCE_TAKE_EFFECT (R113) -/

theorem actForce_waits {f : Force} (later : ∀ x ∈ f.pend.head?, x.2.1 ≠ 0) : actForce f = some f := by
  have none_ : (f.pend.takeWhile fun p => p.2.1 == 0) = [] := by
    cases pend : f.pend with
    | nil => rfl
    | cons x l =>
      have ne : x.2.1 ≠ 0 := later x (by rw [pend]; rfl)
      exact List.takeWhile_cons_of_neg (by simpa using ne)
  unfold actForce
  rw [none_]
  rfl

/-- The last of the changes that are due decides. -/
theorem actForce_due {f : Force} {due rest : List (Option Word × Nat × Fin 3)} {x : Option Word × Nat × Fin 3} (pend : f.pend = due ++ x :: rest)
    (all : ∀ y ∈ due, y.2.1 = 0) (last : x.2.1 = 0) (later : ∀ y ∈ rest.head?, y.2.1 ≠ 0) :
    actForce f = match x.1 with
      | some u => some { f with value := u, on := true, pend := rest }
      | none => if rest.any fun p => p.1.isSome then some { f with on := false, pend := rest } else none := by
  have acts : ∀ y ∈ due ++ [x], (y.2.1 == 0) = true := fun y hy => by
    obtain early | here := List.mem_append.1 hy
    · exact beq_iff_eq.2 (all y early)
    · exact beq_iff_eq.2 (List.mem_singleton.1 here ▸ last)
  have split_ : f.pend = (due ++ [x]) ++ rest := by rw [pend, List.append_assoc]; rfl
  have waits : (rest.takeWhile fun p => p.2.1 == 0) = [] ∧ (rest.dropWhile fun p => p.2.1 == 0) = rest := by
    cases rest with
    | nil => exact ⟨rfl, rfl⟩
    | cons y l =>
      have ne : ¬ (y.2.1 == 0) = true := by simpa using later y rfl
      exact ⟨List.takeWhile_cons_of_neg ne, List.dropWhile_cons_of_neg ne⟩
  obtain ⟨taken, left⟩ := waits
  unfold actForce
  rw [split_, List.takeWhile_append_of_pos acts, List.dropWhile_append_of_pos acts, taken, left, List.append_nil, List.getLast?_concat]
  obtain ⟨v, k, m⟩ := x
  cases v <;> rfl

theorem forcesAct_at (s : State) (i : Fin 256) : Vec.at (forcesAct s).run.forces i = (Vec.at s.run.forces i).bind actForce := Vec.at_map _ _ _

theorem forcesAct_waits (s : State) (i : Fin 256) (f : Force) (here : Vec.at s.run.forces i = some f) (later : ∀ x ∈ f.pend.head?, x.2.1 ≠ 0) :
    Vec.at (forcesAct s).run.forces i = some f := by
  rw [forcesAct_at, here]
  exact actForce_waits later

theorem forcesAct_due (s : State) (i : Fin 256) (f : Force) (due : List (Option Word × Nat × Fin 3)) (x : Option Word × Nat × Fin 3)
    (rest : List (Option Word × Nat × Fin 3)) (here : Vec.at s.run.forces i = some f) (pend : f.pend = due ++ x :: rest)
    (all : ∀ y ∈ due, y.2.1 = 0) (last : x.2.1 = 0) (later : ∀ y ∈ rest.head?, y.2.1 ≠ 0) :
    (∀ u, x.1 = some u → Vec.at (forcesAct s).run.forces i = some { f with value := u, on := true, pend := rest }) ∧
    (x.1 = none → (∃ y ∈ rest, y.1.isSome = true) → Vec.at (forcesAct s).run.forces i = some { f with on := false, pend := rest }) ∧
    (x.1 = none → (∀ y ∈ rest, y.1 = none) → Vec.at (forcesAct s).run.forces i = none) := by
  rw [forcesAct_at, here, Option.bind_some, actForce_due pend all last later]
  refine ⟨fun u set_ => ?_, fun clear more => ?_, fun clear no => ?_⟩
  · rw [set_]
  · rw [clear]
    exact if_pos (List.any_eq_true.2 more)
  · rw [clear]
    refine if_neg fun any => ?_
    obtain ⟨y, mem, is⟩ := List.any_eq_true.1 any
    rw [no y mem] at is
    cases is

/-! ### RESTART (R120) -/

section
variable {s : State} {f : DWord}

theorem cmdRestart_late (late : frameLate s s.run.target = true) : cmdRestart s = updRun (fun r => { r with code := 0x20 }) s := if_pos late

theorem cmdRestart_trio (late : frameLate s s.run.target = false) (trio : inTrio s = true) :
    cmdRestart s = updRun (fun r => { r with code := 0x25 }) s := by
  unfold cmdRestart
  rw [late, trio]
  rfl

theorem cmdRestart_waits (late : frameLate s s.run.target = false) (alone : inTrio s = false) :
    cmdRestart s = updRun (fun r => { r with code := 0, restart := if r.state = .stopped then some r.target else none }) s := by
  unfold cmdRestart
  rw [late, alone]
  simp

/-- Run control once every task resumes. -/
def resumed (ran : Bool) (r : RunCtl) : RunCtl :=
  { r with state := .running, restart := none, ran := ran, tasks := r.tasks.map fun t => { t with stopped := false, rowCount := 0 } }

theorem restartAt_due (waits : s.run.restart = some f) (stopped : s.run.state = .stopped) (due : frameDue s f = true) :
    restartAt s = raise .runControl 6 none .unstated (updRun (resumed (frameBegun s f && !s.sched.switched)) s) := by
  unfold restartAt
  rw [waits, stopped]
  exact if_pos (by rw [due]; rfl)

theorem frameBegun_iff : (frameBegun s f && !s.sched.switched) = true ↔
    s.sched.frame = f ∧ s.sched.round = 0 ∧ s.sched.slotBegun = false ∧ s.sched.switched = false := by
  simp [frameBegun, and_assoc]

end

/-- The restart of a stopped device at its frame. -/
theorem restarts_spec (s : State) (f : DWord) :
    let t := raise .runControl 6 none .unstated (updRun (resumed (frameBegun s f && !s.sched.switched)) s)
    t.run.state = .running ∧ t.run.restart = none ∧ (∀ x ∈ t.run.tasks, x.stopped = false) ∧ t.run.tasks.length = s.run.tasks.length ∧
      (hdrAt t .runControl).raw.getLsbD 6 = true ∧ eventFrame { s with run := t.run } t ∧
      (t.run.ran = true ↔ s.sched.frame = f ∧ s.sched.round = 0 ∧ s.sched.slotBegun = false ∧ s.sched.switched = false) ∧
      { t.run with state := s.run.state, restart := none, tasks := s.run.tasks, ran := s.run.ran } = { s.run with restart := none } := by
  intro t
  have run : t.run = resumed (frameBegun s f && !s.sched.switched) s.run := raise_run _ _ _ _ _
  have frame : But 0x4004008002 s t := but_raise ((Within.self _).le rfl) (but_updRun ((Within.self _).le rfl) (.self _ s))
  have event : eventFrame { s with run := t.run } t := (congrArg (fun x : State => { x with run := t.run }) (restored_of_but frame) :)
  rw [run]
  rw [run] at event
  exact ⟨rfl, rfl, by simp [resumed], List.length_map _, raise_sets _ _ _ _ _ (by decide), event, frameBegun_iff, rfl⟩

/-- Settles O16: each command by its equations; an accepted change by the entry it writes, a round start by the changes that are due. -/
theorem forcesAndRestart : Obligations.ForcesAndRestart := by
  unfold Obligations.ForcesAndRestart
  refine ⟨fun q s answers distinct => ?_, fun q s answers => ?_, fun s f waits stopped due => ?_⟩
  · intro p v full k sealed_ publishes code changed
    have fullIff : full ↔ forceIdx s p = none ∧ freeForce s = none := and_congr_right fun _ => freeForce_none_iff.symm
    have delay : forceDelay s = k := forceDelay_eq s
    obtain ⟨isFull, unknown⟩ := frcSet_refused s
    refine ⟨⟨_, congrArg Host.Outcome.next (onPage_accessed answers _), fun h => ?_, fun room none_ => ?_, fun trip room known bars => ?_,
        fun trip room known passes => ?_⟩,
      ⟨_, congrArg Host.Outcome.next (onPage_accessed answers _), fun none_ => ?_, fun f on => ?_⟩,
      ⟨_, congrArg Host.Outcome.next (onPage_accessed answers _), ?_⟩, ⟨forcesAct s, rfl, ?_⟩⟩
    · rw [isFull (fullIff.1 h)]
      exact runDone_updRun _ s
    · rw [unknown (mt fullIff.2 room) none_]
      exact runDone_updRun _ s
    · rw [frcSet_point (mt fullIff.2 room) known, if_pos (by rw [bars.1, bars.2]; rfl)]
      exact runDone_updRun _ s
    · have open_ : ¬ (trip && !sealMaint s) = true := fun h => passes (by simpa using h)
      rw [frcSet_point (mt fullIff.2 room) known, if_neg open_, delay]
      exact enterForce_spec distinct (mt fullIff.2 room) (me s) v k _
    · rw [frcClear_none none_]
      exact runDone_updRun _ s
    · obtain ⟨i, at_, spec⟩ := enterRemoval_spec distinct on (me s) k (pointTenant (accessed .runControl s) s.run.frcPoint)
      rw [frcClear_some at_, delay]
      exact spec
    · obtain ⟨done, raised, entry, ind, frame, rest⟩ := clearAll_spec s
      rw [delay] at entry
      exact ⟨done, raised, fun i empty => by rw [entry, empty]; rfl,
        fun i f here => ⟨_, by rw [entry, here]; rfl, placed_queueChange _ _⟩, ind, frame, rest⟩
    · exact ⟨forcesAct_waits s, forcesAct_due s, fun i empty => by rw [forcesAct_at, empty]; rfl, forceInd_iff _, rfl⟩
  · have late : frameLate (accessed .runControl s) (accessed .runControl s).run.target = frameLate s s.run.target := by
      rw [accessed_run, frameLate_accessed]
    have trio := inTrio_accessed .runControl s
    refine ⟨_, congrArg Host.Outcome.next (onPage_accessed answers _), fun l => ?_, fun l t => ?_, fun l t => ?_⟩
    · rw [cmdRestart_late (late.trans l)]
      exact runDone_updRun _ s
    · rw [cmdRestart_trio (late.trans l) (trio.trans t)]
      exact runDone_updRun _ s
    · rw [cmdRestart_waits (late.trans l) (trio.trans t)]
      exact runDone_updRun _ s
  · exact ⟨_, congrArg Host.Outcome.next (restartAt_due waits stopped due), restarts_spec s f⟩

end Sys2Proof.Machine

/-! Proofs about the input vote (R112, R163, R164): the words that a point's vote writes, what one point leaves of the others, and the rules of
Table 6.4. -/
namespace Sys2Proof.Machine
open Sys2Proof.Stmt

/-! ### Aligned words of a memory -/

theorem memWord_congr {m n : Memory} {a : Nat} (h : ∀ k < 4, memGet n (a + k) = memGet m (a + k)) : memWord n a = memWord m a := by
  unfold memWord memRead
  refine congrArg wordOf (List.map_congr_left fun k hk => h k (List.mem_range.1 hk))

/-- The memory with the word at `a` set. -/
def putWord (a : Nat) (w : Word) (m : Memory) : Memory := memWrite m a (bytesOf 4 w.toNat)

section
variable {m : Memory} (wf : memWf m = true)
include wf

theorem memWf_putWord (a : Nat) (w : Word) : memWf (putWord a w m) = true := memWf_write a _ wf

theorem memGet_putWord_ne {a x : Nat} (w : Word) (out : ∀ k < 4, x ≠ a + k) : memGet (putWord a w m) x = memGet m x := by
  have apart : ¬ (a ≤ x ∧ x < a + 4) := fun ⟨lo, hi⟩ => out (x - a) (by omega) (by omega)
  rw [putWord, memGet_write a x _ wf, bytesOf_length, if_neg apart]

theorem memWord_putWord {a x : Nat} (w : Word) (ha : a % 4 = 0) (hx : x % 4 = 0) :
    memWord (putWord a w m) x = if x = a then w else memWord m x := by
  split
  next same => rw [same]; exact memWord_write a w wf
  next other => exact memWord_congr fun k hk => memGet_putWord_ne wf w fun j hj => by omega

end

/-! ### What is written of a point -/

/-- The bits of aligned words that a place's value takes. -/
def valueBits (p : Place) (a b : Nat) : Prop := a = p.addr ∧ ∀ k, p.bit = some k → b = k.val

theorem valueBits_of_shown {p : Place} {b : Nat} (is : p.bit = none ∨ ∃ k, p.bit = some k ∧ b = k.val) : valueBits p p.addr b := by
  refine ⟨rfl, fun k bit => ?_⟩
  obtain no | ⟨j, own, at_⟩ := is
  · rw [no] at bit; cases bit
  · rw [own, Option.some_inj] at bit; exact bit ▸ at_

/-- The bits of aligned words that a place's status takes. -/
def statusBits (p : Place) (a b : Nat) : Prop := a = p.statusAddr ∧ p.statusMask.getLsbD b = true

/-- Outside the bits `B` the aligned words of two memories are the same. -/
def bitsKept (B : Nat → Nat → Prop) (m n : Memory) : Prop :=
  ∀ a, a % 4 = 0 → ∀ b, ¬ B a b → (memWord n a).getLsbD b = (memWord m a).getLsbD b

theorem bitsKept_refl (B : Nat → Nat → Prop) (m : Memory) : bitsKept B m m := fun _ _ _ _ => rfl

theorem bitsKept_trans {B : Nat → Nat → Prop} {m n o : Memory} (h : bitsKept B m n) (k : bitsKept B n o) : bitsKept B m o :=
  fun a ha b out => (k a ha b out).trans (h a ha b out)

theorem bitsKept_mono {B C : Nat → Nat → Prop} {m n : Memory} (h : bitsKept B m n) (le : ∀ a b, B a b → C a b) : bitsKept C m n :=
  fun a ha b out => h a ha b fun is => out (le a b is)

theorem bitsKept_putWord {m : Memory} {B : Nat → Nat → Prop} {a : Nat} {w : Word} (wf : memWf m = true) (ha : a % 4 = 0)
    (same : ∀ b, ¬ B a b → w.getLsbD b = (memWord m a).getLsbD b) : bitsKept B m (putWord a w m) := fun x hx b out => by
  rw [memWord_putWord wf w ha hx]
  split
  next at_ => subst at_; exact same b out
  next => rfl

/-- The word that a point's value is written as, over the word that stood there. -/
def valueWord (p : Place) (v old : Word) : Word :=
  match p.bit with
  | some k => setBit old k.val (v != 0)
  | none => v

/-- The word that a point's status is written as. -/
def statusWord (p : Place) (f old : Word) : Word := (old &&& ~~~p.statusMask) ||| ((f <<< maskLow p.statusMask) &&& p.statusMask)

theorem putValue_eq (p : Place) (v : Word) (m : Memory) : putValue p v m = putWord p.addr (valueWord p v (memWord m p.addr)) m := rfl

theorem putStatus_eq (p : Place) (f : Word) (m : Memory) : putStatus p f m = putWord p.statusAddr (statusWord p f (memWord m p.statusAddr)) m := rfl

theorem putWordBit_eq (a b : Nat) (v : Bool) (m : Memory) : putWordBit a b v m = putWord a (setBit (memWord m a) b v) m := rfl

/-- A place shows a value in its value bits. -/
def showsValue (p : Place) (v : Word) (m : Memory) : Prop :=
  (∀ k, p.bit = some k → (memWord m p.addr).getLsbD k.val = (v != 0)) ∧ (p.bit = none → memWord m p.addr = v)

/-- A place shows a status in its status bits. -/
def showsStatus (p : Place) (st : Word) (m : Memory) : Prop :=
  memWord m p.statusAddr &&& p.statusMask = (st <<< maskLow p.statusMask) &&& p.statusMask

theorem shows_iff {p : Place} {v st : Word} {m : Memory} : shows p v st m ↔ showsValue p v m ∧ showsStatus p st m := and_assoc.symm

section
variable {p : Place} {m : Memory}

theorem valueWord_shows (v old : Word) :
    (∀ k, p.bit = some k → (valueWord p v old).getLsbD k.val = (v != 0)) ∧ (p.bit = none → valueWord p v old = v) := by
  unfold valueWord
  cases p.bit with
  | none => exact ⟨fun k h => (by cases h), fun _ => rfl⟩
  | some k =>
    refine ⟨fun j h => ?_, fun h => (by cases h)⟩
    obtain rfl := Option.some_inj.1 h
    rw [setBit_getLsbD, if_pos ⟨rfl, k.isLt⟩]

theorem valueWord_other {v old : Word} {b : Nat} (out : ¬ ∀ k, p.bit = some k → b = k.val) : (valueWord p v old).getLsbD b = old.getLsbD b := by
  unfold valueWord
  cases bit : p.bit with
  | none => exact absurd (fun k h => by rw [bit] at h; cases h) out
  | some k =>
    have ne : b ≠ k.val := fun same => out fun j h => by rw [bit, Option.some_inj] at h; exact h ▸ same
    rw [setBit_getLsbD, if_neg fun h => ne h.1]

theorem statusWord_shows (f old : Word) : statusWord p f old &&& p.statusMask = (f <<< maskLow p.statusMask) &&& p.statusMask := by
  unfold statusWord
  ext b
  simp only [BitVec.getElem_and, BitVec.getElem_or, BitVec.getElem_not]
  cases p.statusMask[b] <;> simp

theorem statusWord_other {f old : Word} {b : Nat} (out : ¬ p.statusMask.getLsbD b = true) : (statusWord p f old).getLsbD b = old.getLsbD b := by
  unfold statusWord
  rw [Bool.not_eq_true] at out
  rw [BitVec.getLsbD_or, BitVec.getLsbD_and, BitVec.getLsbD_and, BitVec.getLsbD_not, out]
  by_cases low : b < 32
  · simp [low]
  · rw [BitVec.getLsbD_of_ge old _ (by omega)]
    simp

/-- The bits that a place shows decide what it shows. -/
theorem showsValue_congr {n : Memory} {v : Word} (kept : ∀ b, valueBits p p.addr b → (memWord n p.addr).getLsbD b = (memWord m p.addr).getLsbD b)
    (h : showsValue p v m) : showsValue p v n := by
  obtain ⟨bit, word⟩ := h
  refine ⟨fun k is => ?_, fun no => ?_⟩
  · rw [kept k.val ⟨rfl, fun j h => by rw [is, Option.some_inj] at h; rw [h]⟩, bit k is]
  · rw [← word no]
    exact BitVec.eq_of_getLsbD_eq fun b _ => kept b ⟨rfl, fun j h => by rw [no] at h; cases h⟩

theorem showsStatus_congr {n : Memory} {st : Word}
    (kept : ∀ b, statusBits p p.statusAddr b → (memWord n p.statusAddr).getLsbD b = (memWord m p.statusAddr).getLsbD b)
    (h : showsStatus p st m) : showsStatus p st n := by
  unfold showsStatus at h ⊢
  rw [← h]
  refine BitVec.eq_of_getLsbD_eq fun b _ => ?_
  rw [BitVec.getLsbD_and, BitVec.getLsbD_and]
  cases mask : p.statusMask.getLsbD b with
  | false => rw [Bool.and_false, Bool.and_false]
  | true => rw [kept b ⟨rfl, mask⟩]

theorem placeValue_congr {n : Memory} (kept : ∀ b, valueBits p p.addr b → (memWord n p.addr).getLsbD b = (memWord m p.addr).getLsbD b) :
    placeValue p (memWord n p.addr) = placeValue p (memWord m p.addr) := by
  unfold placeValue
  cases bit : p.bit with
  | none => exact BitVec.eq_of_getLsbD_eq fun b _ => kept b ⟨rfl, fun j h => by rw [bit] at h; cases h⟩
  | some k =>
    dsimp only
    rw [kept k.val ⟨rfl, fun j h => by rw [bit, Option.some_inj] at h; rw [h]⟩]

theorem statusField_congr {n : Memory}
    (kept : ∀ b, statusBits p p.statusAddr b → (memWord n p.statusAddr).getLsbD b = (memWord m p.statusAddr).getLsbD b) :
    statusField p (memWord n p.statusAddr) = statusField p (memWord m p.statusAddr) := by
  unfold statusField
  refine congrArg (fun x : Word => x >>> maskLow p.statusMask) (BitVec.eq_of_getLsbD_eq fun b _ => ?_)
  rw [BitVec.getLsbD_and, BitVec.getLsbD_and]
  cases mask : p.statusMask.getLsbD b with
  | false => rw [Bool.and_false, Bool.and_false]
  | true => rw [kept b ⟨rfl, mask⟩]

/-- The two words of a place are aligned, and its value and status share no bit. -/
structure PlaceFits (p : Place) : Prop where
  value : p.addr % 4 = 0
  status : p.statusAddr % 4 = 0
  apart : p.addr = p.statusAddr → ∃ k, p.bit = some k ∧ p.statusMask.getLsbD k.val = false

theorem PlaceFits.disjoint (fits : PlaceFits p) {a b : Nat} (value : valueBits p a b) : ¬ statusBits p a b := by
  rintro ⟨at_, mask⟩
  obtain ⟨k, bit, clear⟩ := fits.apart (value.1.symm.trans at_)
  rw [value.2 k bit, clear] at mask
  cases mask

variable (fits : PlaceFits p) (wf : memWf m = true)
include fits wf

theorem showsValue_putValue (v : Word) : showsValue p v (putValue p v m) := by
  rw [putValue_eq, showsValue, memWord_putWord wf _ fits.value fits.value, if_pos rfl]
  exact valueWord_shows v _

theorem bitsKept_putValue (v : Word) : bitsKept (valueBits p) m (putValue p v m) := by
  rw [putValue_eq]
  exact bitsKept_putWord wf fits.value fun b out => valueWord_other fun all => out ⟨rfl, all⟩

theorem showsStatus_putStatus (f : Word) : showsStatus p f (putStatus p f m) := by
  rw [putStatus_eq, showsStatus, memWord_putWord wf _ fits.status fits.status, if_pos rfl]
  exact statusWord_shows f _

theorem bitsKept_putStatus (f : Word) : bitsKept (statusBits p) m (putStatus p f m) := by
  rw [putStatus_eq]
  exact bitsKept_putWord wf fits.status fun b out => statusWord_other fun mask => out ⟨rfl, mask⟩

/-- A value and a status written in turn. -/
theorem shows_putPlace (v st : Word) : shows p v st (putStatus p st (putValue p v m)) := by
  have wf' : memWf (putValue p v m) = true := memWf_putWord wf _ _
  refine shows_iff.2 ⟨showsValue_congr (fun b value => ?_) (showsValue_putValue fits wf v), showsStatus_putStatus fits wf' st⟩
  exact bitsKept_putStatus fits wf' st _ fits.value b (fits.disjoint value)

theorem bitsKept_putPlace (v st : Word) : bitsKept (placeBits p) m (putStatus p st (putValue p v m)) :=
  bitsKept_trans (bitsKept_mono (bitsKept_putValue fits wf v) fun _ _ => .inl)
    (bitsKept_mono (bitsKept_putStatus fits (memWf_putWord wf _ _) st) fun _ _ => .inr)

end

theorem memWf_putPlace {m : Memory} (wf : memWf m = true) (p : Place) (v st : Word) : memWf (putStatus p st (putValue p v m)) = true :=
  memWf_putWord (memWf_putWord wf _ _) _ _

/-- A place in other memory with the same value and status bits shows the same. -/
theorem shows_congr {p : Place} {v st : Word} {m n : Memory} (kept : ∀ a b, a % 4 = 0 → placeBits p a b → (memWord n a).getLsbD b = (memWord m a).getLsbD b)
    (fits : PlaceFits p) (h : shows p v st m) : shows p v st n := by
  obtain ⟨value, status⟩ := shows_iff.1 h
  exact shows_iff.2 ⟨showsValue_congr (fun b is => kept _ b fits.value (.inl is)) value,
    showsStatus_congr (fun b is => kept _ b fits.status (.inr is)) status⟩

/-! ### What the step of one point leaves -/

/-- The words that a point's vote and its force write. -/
def votedWords (p : InPoint) : List Nat := [p.voted.addr, p.voted.statusAddr, p.discAddr]

/-- The words of an input point are aligned, its value, status and discrepancy bit apart. -/
structure PointFits (p : InPoint) : Prop where
  raw : p.raw.addr % 4 = 0 ∧ p.raw.statusAddr % 4 = 0
  voted : PlaceFits p.voted
  disc : p.discAddr % 4 = 0
  apart : ¬ placeBits p.voted p.discAddr p.discBit.val

theorem pointFits_of_apart {s : State} (h : pointsApart s) {p : InPoint} (mem : p ∈ inPoints s) : PointFits p := by
  obtain ⟨aligned, own, -, -⟩ := h
  have at_ := aligned p mem
  obtain ⟨value, disc⟩ := own p mem
  exact ⟨⟨at_ _ (by simp), at_ _ (by simp)⟩, ⟨at_ _ (by simp), at_ _ (by simp), value⟩, at_ _ (by simp), disc⟩

/-- What steps for the points `l` may change, where the step of a point writes the bits `B` of it: of the pool those bits, in the words of its
vote; the runs of deviations and the substituted points of those numbers; events. -/
structure Stepped (B : InPoint → Nat → Nat → Prop) (l : List InPoint) (s t : State) : Prop where
  but : But 0x4004028802 s t
  run : { t.run with discRun := s.run.discRun } = s.run
  raw : rawKept s t
  runs : ∀ n, (∀ q ∈ l, n ≠ q.number) → ∀ m, deviationRun t n m = deviationRun s n m
  subst : ∀ n, (∀ q ∈ l, n ≠ q.number) → (n ∈ t.safety.substituted ↔ n ∈ s.safety.substituted)
  wf : memWf t.pool = true
  bits : bitsKept (fun a b => ∃ q ∈ l, B q a b) s.pool t.pool
  bytes : ∀ a, (∀ q ∈ l, ∀ w ∈ votedWords q, ∀ k < 4, a ≠ w + k) → memGet t.pool a = memGet s.pool a

section
variable {B : InPoint → Nat → Nat → Prop} {s t u : State} {l k : List InPoint}

theorem Stepped.self (wf : memWf s.pool = true) : Stepped B [] s s :=
  ⟨.self _ s, rfl, rawKept_refl s, fun _ _ _ => rfl, fun _ _ => Iff.rfl, wf, bitsKept_refl _ _, fun _ _ => rfl⟩

theorem Stepped.trans (h : Stepped B l s t) (j : Stepped B k t u) : Stepped B (l ++ k) s u where
  but := h.but.trans j.but
  run := by
    have later := congrArg (fun r : RunCtl => { r with discRun := s.run.discRun }) j.run
    exact later.trans h.run
  raw := rawKept_trans h.raw j.raw
  runs n out m := (j.runs n (fun q hq => out q (List.mem_append_right _ hq)) m).trans (h.runs n (fun q hq => out q (List.mem_append_left _ hq)) m)
  subst n out := (j.subst n fun q hq => out q (List.mem_append_right _ hq)).trans (h.subst n fun q hq => out q (List.mem_append_left _ hq))
  wf := j.wf
  bits := bitsKept_trans (bitsKept_mono h.bits fun _ _ ⟨q, hq, is⟩ => ⟨q, List.mem_append_left _ hq, is⟩)
    (bitsKept_mono j.bits fun _ _ ⟨q, hq, is⟩ => ⟨q, List.mem_append_right _ hq, is⟩)
  bytes a out := (j.bytes a fun q hq => out q (List.mem_append_right _ hq)).trans (h.bytes a fun q hq => out q (List.mem_append_left _ hq))

variable {f : State → InPoint → State}

theorem Stepped.foldl (steps : ∀ u, memWf u.pool = true → ∀ q ∈ l, Stepped B [q] u (f u q)) (wf : memWf s.pool = true) :
    Stepped B l s (l.foldl f s) := by
  induction l generalizing s with
  | nil => exact .self wf
  | cons q l ih =>
    have first := steps s wf q List.mem_cons_self
    exact first.trans (ih (fun u wfu x hx => steps u wfu x (List.mem_cons_of_mem _ hx)) first.wf)

/-- The step of one point in a pass over all of them: what comes before it and after it is of other points. -/
theorem Stepped.at_point (steps : ∀ u, memWf u.pool = true → ∀ q ∈ l, Stepped B [q] u (f u q)) (wf : memWf s.pool = true) {p : InPoint} (mem : p ∈ l) :
    ∃ l1 l2 u, l = l1 ++ p :: l2 ∧ Stepped B l1 s u ∧ Stepped B l2 (f u p) (l.foldl f s) := by
  obtain ⟨l1, l2, rfl⟩ := List.append_of_mem mem
  have before : Stepped B l1 s (l1.foldl f s) := .foldl (fun u wfu q hq => steps u wfu q (List.mem_append_left _ hq)) wf
  have here := steps _ before.wf p (List.mem_append_right _ List.mem_cons_self)
  refine ⟨l1, l2, _, rfl, before, ?_⟩
  rw [List.foldl_append, List.foldl_cons]
  exact .foldl (fun u wfu q hq => steps u wfu q (List.mem_append_right _ (List.mem_cons_of_mem _ hq))) here.wf

theorem Stepped.forces (h : Stepped B l s t) : t.run.forces = s.run.forces := (congrArg RunCtl.forces h.run :)

theorem Stepped.active (h : Stepped B l s t) : t.run.active = s.run.active := (congrArg RunCtl.active h.run :)

end

/-- Points with other numbers whose votes write other bits than that of `p`. -/
def Apart (p : InPoint) (l : List InPoint) : Prop := ∀ q ∈ l, p.number ≠ q.number ∧ ∀ a b, votedBits p a b → ¬ votedBits q a b

theorem apart_of_split {s : State} (h : pointsApart s) {p : InPoint} {l1 l2 : List InPoint} (eq : inPoints s = l1 ++ p :: l2) :
    Apart p l1 ∧ Apart p l2 := by
  obtain ⟨-, -, pairs, -⟩ := h
  rw [eq, List.pairwise_append, List.pairwise_cons] at pairs
  obtain ⟨-, ⟨after, -⟩, before⟩ := pairs
  refine ⟨fun q hq => ?_, after⟩
  obtain ⟨number, bits⟩ := before q hq p List.mem_cons_self
  exact ⟨number.symm, fun a b is other => bits a b other is⟩

/-- The steps of other points leave what one point shows. -/
theorem Stepped.kept {B : InPoint → Nat → Nat → Prop} {s t : State} {l : List InPoint} {p : InPoint} (h : Stepped B l s t) (apart : Apart p l)
    (within : ∀ q a b, B q a b → votedBits q a b) :
    (∀ a b, a % 4 = 0 → votedBits p a b → (memWord t.pool a).getLsbD b = (memWord s.pool a).getLsbD b) ∧
    (∀ m, deviationRun t p.number m = deviationRun s p.number m) ∧ (p.number ∈ t.safety.substituted ↔ p.number ∈ s.safety.substituted) :=
  ⟨fun a b aligned is => h.bits a aligned b fun ⟨q, hq, other⟩ => (apart q hq).2 a b is (within q a b other),
    h.runs _ fun q hq => (apart q hq).1, h.subst _ fun q hq => (apart q hq).1⟩

/-! ### The parts of a step -/

section
variable {s : State} {p : InPoint}

theorem stepped_putPlace (fits : PointFits p) (wf : memWf s.pool = true) (v st : Word) :
    Stepped (fun q => placeBits q.voted) [p] s (updPool (fun m => putStatus p.voted st (putValue p.voted v m)) s) where
  but := but_updPool ((Within.self _).le rfl) (.self _ s)
  run := rfl
  raw := rawKept_of_hdrs rfl
  runs _ _ _ := rfl
  subst _ _ := Iff.rfl
  wf := memWf_putPlace wf _ _ _
  bits := bitsKept_mono (bitsKept_putPlace fits.voted wf v st) fun _ _ is => ⟨p, List.mem_singleton_self p, is⟩
  bytes a out := by
    have apart := out p (List.mem_singleton_self p)
    show memGet (putStatus p.voted st (putValue p.voted v s.pool)) a = _
    rw [putStatus_eq, putValue_eq, memGet_putWord_ne (memWf_putWord wf _ _) _ (apart _ (by simp [votedWords])),
      memGet_putWord_ne wf _ (apart _ (by simp [votedWords]))]

/-- A step whose bits are a part of the bits `C`. -/
theorem Stepped.mono {B C : InPoint → Nat → Nat → Prop} {l : List InPoint} {t : State} (h : Stepped B l s t) (le : ∀ q a b, B q a b → C q a b) :
    Stepped C l s t :=
  { h with bits := bitsKept_mono h.bits fun a b ⟨q, hq, is⟩ => ⟨q, hq, le q a b is⟩ }

/-- Two parts of the step of one point. -/
theorem Stepped.and_then {B : InPoint → Nat → Nat → Prop} {t u : State} (h : Stepped B [p] s t) (k : Stepped B [p] t u) : Stepped B [p] s u := by
  have both := h.trans k
  have same : ∀ q, q ∈ [p] ++ [p] ↔ q ∈ [p] := fun q => by simp
  refine { both with runs := fun n out => both.runs n fun q hq => out q ((same q).1 hq)
                     subst := fun n out => both.subst n fun q hq => out q ((same q).1 hq)
                     bits := bitsKept_mono both.bits fun a b ⟨q, hq, is⟩ => ⟨q, (same q).1 hq, is⟩
                     bytes := fun a out => both.bytes a fun q hq => out q ((same q).1 hq) }

theorem stepped_noteSubstituted (B : InPoint → Nat → Nat → Prop) (wf : memWf s.pool = true) : Stepped B [p] s (noteSubstituted p s) where
  but := but_noteSubstituted ((Within.self _).le rfl) (.self _ s)
  run := rfl
  raw := rawKept_of_hdrs rfl
  runs _ _ _ := rfl
  subst n out := by
    have ne := out p (List.mem_singleton_self p)
    simp [noteSubstituted, ne]
  wf := wf
  bits := bitsKept_refl _ _
  bytes _ _ := rfl

theorem stepped_drawn (B : InPoint → Nat → Nat → Prop) (wf : memWf s.pool = true) (n : Nat) : Stepped B [p] s (drawFree n s).2 where
  but := but_mk_free ((Within.self _).le rfl) (.self _ s)
  run := rfl
  raw := rawKept_of_hdrs rfl
  runs _ _ _ := rfl
  subst _ _ := Iff.rfl
  wf := wf
  bits := bitsKept_refl _ _
  bytes _ _ := rfl

theorem stepped_refl (B : InPoint → Nat → Nat → Prop) (wf : memWf s.pool = true) : Stepped B [p] s s where
  but := .self _ s
  run := rfl
  raw := rawKept_refl s
  runs _ _ _ := rfl
  subst _ _ := Iff.rfl
  wf := wf
  bits := bitsKept_refl _ _
  bytes _ _ := rfl

end

/-! ### A raw image taken, a force applied -/

section
variable {s : State} {p : InPoint}

theorem stepped_copyPoint (fits : PointFits p) (wf : memWf s.pool = true) : Stepped votedBits [p] s (copyPoint s p) := by
  have put : ∀ v st, Stepped votedBits [p] s (updPool (fun m => putStatus p.voted st (putValue p.voted v m)) s) := fun v st =>
    (stepped_putPlace fits wf v st).mono fun _ _ _ => .inl
  unfold copyPoint
  split
  · exact stepped_refl _ wf
  · dsimp only
    split
    · exact (put _ _).and_then (stepped_noteSubstituted _ (put _ _).wf)
    · exact put _ _

/-- A point whose raw words are good shows its raw value and status, and is noted where that status is a failure. -/
theorem copyPoint_good (fits : PointFits p) (wf : memWf s.pool = true) (good : placeGood s p.raw = true) :
    let st := statusField p.raw (memWord s.pool p.raw.statusAddr)
    shows p.voted (placeValue p.raw (memWord s.pool p.raw.addr)) st (copyPoint s p).pool ∧
    (p.number ∈ (copyPoint s p).safety.substituted ↔ failsPlace p.raw st = true ∨ p.number ∈ s.safety.substituted) := by
  intro st
  have shown := shows_putPlace fits.voted wf (placeValue p.raw (memWord s.pool p.raw.addr)) st
  unfold copyPoint
  rw [good, if_neg (by decide)]
  dsimp only
  split
  next fails => exact ⟨shown, by simp [noteSubstituted, updPool, st, fails]⟩
  next fine => exact ⟨shown, by simp [updPool, st, fine]⟩

/-- A point whose raw words are not good keeps what it shows. -/
theorem copyPoint_bad (bad : placeGood s p.raw = false) : copyPoint s p = s := by
  unfold copyPoint
  rw [bad]
  rfl

/-- The force of one point is applied. -/
def forceInput (s : State) (p : InPoint) : State :=
  match forcedValue s p.number with
  | some v =>
    let s := updPool (fun m => putStatus p.voted 0 (putValue p.voted v m)) s
    { s with safety := { s.safety with substituted := s.safety.substituted.filter fun n => n != p.number } }
  | none => s

theorem forceInputs_eq (s : State) : forceInputs s = (inPoints s).foldl forceInput s := rfl

theorem forceInput_none (free : forcedValue s p.number = none) : forceInput s p = s := by
  unfold forceInput
  rw [free]

theorem forceInput_substituted (n : BitVec 16) :
    n ∈ (forceInput s p).safety.substituted ↔ n ∈ s.safety.substituted ∧ ¬ (n = p.number ∧ (forcedValue s p.number).isSome = true) := by
  unfold forceInput
  cases forcedValue s p.number <;> simp [updPool]

theorem forceInput_shows {v : Word} (fits : PointFits p) (wf : memWf s.pool = true) (forced : forcedValue s p.number = some v) :
    shows p.voted v 0 (forceInput s p).pool := by
  unfold forceInput
  rw [forced]
  exact shows_putPlace fits.voted wf v 0

theorem stepped_forceInput (fits : PointFits p) (wf : memWf s.pool = true) : Stepped (fun q => placeBits q.voted) [p] s (forceInput s p) := by
  cases forced : forcedValue s p.number with
  | none =>
    rw [forceInput_none forced]
    exact stepped_refl _ wf
  | some v =>
    have put := stepped_putPlace fits wf v 0
    have eq : forceInput s p = { updPool (fun m => putStatus p.voted 0 (putValue p.voted v m)) s with
        safety := { s.safety with substituted := s.safety.substituted.filter fun n => n != p.number } } := by
      unfold forceInput
      rw [forced]
      rfl
    rw [eq]
    exact { put with
      but := but_mk_safety ((Within.self _).le rfl) put.but
      raw := put.raw
      runs := put.runs
      subst := fun n out => by
        have ne := out p (List.mem_singleton_self p)
        simp [ne] }

theorem forcedValue_congr {t : State} (h : t.run.forces = s.run.forces) (n : BitVec 16) : forcedValue t n = forcedValue s n := by
  unfold forcedValue
  rw [forceIdx_congr h, h]

end

/-! ### The deviations of a round at a point (R164) -/

section
variable {s : State} {p : InPoint} {devs : List (Fin 3)}

/-- The runs of deviations that go on, with their lengths. -/
def deviationRuns (p : InPoint) (devs : List (Fin 3)) (s : State) : List (BitVec 16 × Fin 3 × Nat) :=
  devs.map fun m => (p.number, m, deviationRun s p.number m + 1)

/-- Those whose length is now the limit. -/
def reachedRuns (p : InPoint) (devs : List (Fin 3)) (s : State) : List (BitVec 16 × Fin 3 × Nat) :=
  (deviationRuns p devs s).filter fun x => x.2.2 == max 1 (trioCfg s).persist.toNat

/-- The runs are counted, and each that reaches the limit is recorded. -/
def deviationsTold (p : InPoint) (devs : List (Fin 3)) (s : State) : State :=
  (reachedRuns p devs s).foldl (fun s x => raise .trio 4 (some p.tenant) (.given (fld p.number 0) (num x.2.1.val 0) 0) s)
    (updRun (fun r => { r with discRun := deviationRuns p devs s ++ r.discRun.filter fun x => x.1 != p.number }) s)

theorem judgeDeviations_eq (p : InPoint) (devs : List (Fin 3)) (s : State) : judgeDeviations p devs s =
    if devs.isEmpty then updPool (putWordBit p.discAddr p.discBit.val false) (deviationsTold p devs s)
    else if (reachedRuns p devs s).isEmpty then deviationsTold p devs s
    else updPool (putWordBit p.discAddr p.discBit.val true) (deviationsTold p devs s) := rfl

theorem deviationsTold_but (p : InPoint) (devs : List (Fin 3)) (s : State) :
    But 0x4004000002 (updRun (fun r => { r with discRun := deviationRuns p devs s ++ r.discRun.filter fun x => x.1 != p.number }) s)
      (deviationsTold p devs s) := but_foldl (fun _ _ h => but_raise (Within.self _) h) (.self _ _)

theorem deviationsTold_discRun (p : InPoint) (devs : List (Fin 3)) (s : State) :
    (deviationsTold p devs s).run = { s.run with discRun := deviationRuns p devs s ++ s.run.discRun.filter fun x => x.1 != p.number } :=
  deviationsTold_but p devs s .run rfl

/-- A member's run at the point goes on by one where it deviates, and else has ended. -/
theorem deviationRun_told (m : Fin 3) :
    deviationRun (deviationsTold p devs s) p.number m = if m ∈ devs then deviationRun s p.number m + 1 else 0 := by
  have runs : ∀ l : List (Fin 3), ((l.map fun m => (p.number, m, deviationRun s p.number m + 1)).find? fun x => x.1 == p.number && x.2.1 == m) =
      if m ∈ l then some (p.number, m, deviationRun s p.number m + 1) else none := fun l => by
    induction l with
    | nil => rfl
    | cons d l ih =>
      by_cases same : d = m
      · subst same
        simp
      · rw [List.map_cons, List.find?_cons, ih]
        simp [beq_eq_false_iff_ne.2 same, Ne.symm same]
  have ended : ((s.run.discRun.filter fun x => x.1 != p.number).find? fun x => x.1 == p.number && x.2.1 == m) = none := by
    rw [List.find?_eq_none]
    intro x hx is
    obtain ⟨-, ne⟩ := List.mem_filter.1 hx
    simp at ne is
    exact ne is.1
  conv_lhs => unfold deviationRun
  rw [deviationsTold_discRun, List.find?_append, ended, deviationRuns, runs]
  split <;> rfl

theorem deviationRun_told_ne {n : BitVec 16} (other : n ≠ p.number) (m : Fin 3) :
    deviationRun (deviationsTold p devs s) n m = deviationRun s n m := by
  have fresh : ((deviationRuns p devs s).find? fun x => x.1 == n && x.2.1 == m) = none := by
    rw [List.find?_eq_none]
    intro x hx is
    obtain ⟨d, -, rfl⟩ := List.mem_map.1 hx
    simp at is
    exact other is.1.symm
  conv_lhs => unfold deviationRun
  rw [deviationsTold_discRun, List.find?_append, fresh, Option.none_or, List.find?_filter]
  unfold deviationRun
  congr 3
  funext x
  by_cases at_ : x.1 = n
  · simp [at_, other, beq_eq_decide]
  · simp [at_]

theorem rawKept_told (p : InPoint) (devs : List (Fin 3)) (s : State) : rawKept s (deviationsTold p devs s) := by
  have all : ∀ (l : List (BitVec 16 × Fin 3 × Nat)) u, rawKept s u →
      rawKept s (l.foldl (fun s x => raise .trio 4 (some p.tenant) (.given (fld p.number 0) (num x.2.1.val 0) 0) s) u) := fun l => by
    induction l with
    | nil => exact fun u h => h
    | cons x l ih => exact fun u h => ih _ (rawKept_trans h (rawKept_raise _ _ _ _ _))
  exact all _ _ (rawKept_of_hdrs rfl)

/-- A run that reaches the limit raises DISCREPANCY. -/
theorem told_raises (reached : reachedRuns p devs s ≠ []) : (hdrAt (deviationsTold p devs s) .trio).raw.getLsbD 4 = true := by
  obtain ⟨x, hx⟩ := List.exists_mem_of_ne_nil _ reached
  have told := foldl_of_mem (P := fun t : State => (hdrAt t .trio).raw.getLsbD 4 = true)
    (f := fun s x => raise .trio 4 (some p.tenant) (.given (fld p.number 0) (num x.2.1.val 0) 0) s) hx
    (fun u => raise_sets .trio 4 _ _ u (by decide)) (fun u y h => rawKept_raise .trio 4 _ _ u .trio 4 h)
  exact told _

theorem stepped_told (B : InPoint → Nat → Nat → Prop) (wf : memWf s.pool = true) : Stepped B [p] s (deviationsTold p devs s) where
  but := (but_updRun ((Within.self _).le rfl) (.self _ s)).trans ((deviationsTold_but p devs s).mono ((Within.self _).le rfl))
  run := by rw [deviationsTold_discRun]
  raw := rawKept_told p devs s
  runs _ out m := deviationRun_told_ne (out p (List.mem_singleton_self p)) m
  subst n _ := by rw [show (deviationsTold p devs s).safety = s.safety from deviationsTold_but p devs s .safety rfl]
  wf := by rwa [show (deviationsTold p devs s).pool = s.pool from deviationsTold_but p devs s .pool rfl]
  bits := by rw [show (deviationsTold p devs s).pool = s.pool from deviationsTold_but p devs s .pool rfl]; exact bitsKept_refl _ _
  bytes _ _ := by rw [show (deviationsTold p devs s).pool = s.pool from deviationsTold_but p devs s .pool rfl]

/-- The discrepancy bit of a point. -/
def discBits (p : InPoint) (a b : Nat) : Prop := a = p.discAddr ∧ b = p.discBit.val

/-- The discrepancy bit of a point as a state shows it. -/
def discShown (p : InPoint) (s : State) : Bool := (memWord s.pool p.discAddr).getLsbD p.discBit.val

theorem discShown_congr {t : State} (h : t.pool = s.pool) : discShown p t = discShown p s := by
  unfold discShown
  rw [h]

theorem stepped_putDisc (fits : PointFits p) (wf : memWf s.pool = true) (v : Bool) :
    Stepped discBits [p] s (updPool (putWordBit p.discAddr p.discBit.val v) s) where
  but := but_updPool ((Within.self _).le rfl) (.self _ s)
  run := rfl
  raw := rawKept_of_hdrs rfl
  runs _ _ _ := rfl
  subst _ _ := Iff.rfl
  wf := memWf_putWord wf _ _
  bits := bitsKept_putWord wf fits.disc fun b out => by
    rw [setBit_getLsbD, if_neg fun is => out ⟨p, List.mem_singleton_self p, rfl, is.1⟩]
  bytes a out := memGet_putWord_ne wf _ (out p (List.mem_singleton_self p) _ (by simp [votedWords]))

theorem discShown_putDisc (fits : PointFits p) (wf : memWf s.pool = true) (v : Bool) :
    discShown p (updPool (putWordBit p.discAddr p.discBit.val v) s) = v := by
  show (memWord (putWordBit p.discAddr p.discBit.val v s.pool) p.discAddr).getLsbD p.discBit.val = v
  rw [putWordBit_eq, memWord_putWord wf _ fits.disc fits.disc, if_pos rfl, setBit_getLsbD, if_pos ⟨rfl, p.discBit.isLt⟩]

theorem stepped_judgeDeviations (fits : PointFits p) (wf : memWf s.pool = true) (devs : List (Fin 3)) :
    Stepped discBits [p] s (judgeDeviations p devs s) := by
  have told : Stepped discBits [p] s (deviationsTold p devs s) := stepped_told discBits wf
  rw [judgeDeviations_eq]
  split
  · exact told.and_then (stepped_putDisc fits told.wf _)
  · split
    · exact told
    · exact told.and_then (stepped_putDisc fits told.wf _)

theorem judgeDeviations_safety (p : InPoint) (devs : List (Fin 3)) (s : State) : (judgeDeviations p devs s).safety = s.safety :=
  but_judgeDeviations (W := 0x4004008802) (Within.self _) (.self _ s) .safety rfl

theorem reachedRuns_nil_iff : reachedRuns p devs s = [] ↔ ∀ m ∈ devs, deviationRun s p.number m + 1 ≠ max 1 (trioCfg s).persist.toNat := by
  unfold reachedRuns deviationRuns
  simp [List.filter_eq_nil_iff]

/-- The deviations are those of `devs`. -/
theorem deviationsAre_judge (fits : PointFits p) (wf : memWf s.pool = true) (devs : List (Fin 3)) :
    deviationsAre s (judgeDeviations p devs s) p fun m => m ∈ devs := by
  have told : Stepped discBits [p] s (deviationsTold p devs s) := stepped_told discBits wf
  have runs : ∀ m, deviationRun (judgeDeviations p devs s) p.number m = if m ∈ devs then deviationRun s p.number m + 1 else 0 := fun m => by
    rw [← deviationRun_told, judgeDeviations_eq]
    split
    · rfl
    · split <;> rfl
  refine ⟨fun m dev => by rw [runs, if_pos dev], fun m no => by rw [runs, if_neg no], fun none_ => ?_, fun m dev limit => ?_, fun m dev below => ?_⟩
  · have empty : devs = [] := List.eq_nil_iff_forall_not_mem.2 none_
    rw [judgeDeviations_eq, if_pos (by rw [empty]; rfl)]
    exact discShown_putDisc fits told.wf false
  · have some_ : ¬ devs.isEmpty = true := fun empty => by rw [List.isEmpty_iff.1 empty] at dev; cases dev
    have reached : reachedRuns p devs s ≠ [] := fun no => reachedRuns_nil_iff.1 no m dev limit
    rw [judgeDeviations_eq, if_neg some_, if_neg (mt List.isEmpty_iff.1 reached)]
    exact ⟨discShown_putDisc fits told.wf true, told_raises reached⟩
  · have some_ : ¬ devs.isEmpty = true := fun empty => by rw [List.isEmpty_iff.1 empty] at dev; cases dev
    rw [judgeDeviations_eq, if_neg some_, if_pos (List.isEmpty_iff.2 (reachedRuns_nil_iff.2 below))]
    exact discShown_congr (deviationsTold_but p devs s .pool rfl)

end

/-- Deviations judged between two states that show at the point what `s` and `t` show. -/
theorem deviationsAre_congr {s s' t t' : State} {p : InPoint} {dev dev' : Fin 3 → Prop} (h : deviationsAre s' t' p dev')
    (cfg : trioCfg s' = trioCfg s) (runs : ∀ m, deviationRun s' p.number m = deviationRun s p.number m) (bit : discShown p s' = discShown p s)
    (runs' : ∀ m, deviationRun t p.number m = deviationRun t' p.number m) (bit' : discShown p t = discShown p t') (raw : rawKept t' t)
    (same : ∀ m, dev' m ↔ dev m) : deviationsAre s t p dev := by
  obtain rfl : dev' = dev := funext fun m => propext (same m)
  unfold deviationsAre at h ⊢
  unfold discShown at bit bit'
  dsimp only at h ⊢
  simp only [runs', bit', ← runs, ← bit, ← cfg]
  obtain ⟨on, ended, clear, set_, stays⟩ := h
  exact ⟨on, ended, clear, fun m dev limit => ⟨(set_ m dev limit).1, raw _ _ (set_ m dev limit).2⟩, stays⟩

/-! ### The vote of one point (R163, R164) -/

/-- The members of columns that deviate from a value. -/
def offMembers (p : InPoint) (v : Word) (cols : List Column) : List (Fin 3) := (cols.filter (deviates p v)).map fun c => c.member

/-- The members whose column of a point shows a failure. -/
def failedMembers (s : State) (p : InPoint) : List (Fin 3) := ((columnsOf s p).filter fun c => failsPlace p.raw c.status).map fun c => c.member

section
variable {s : State} {p : InPoint}

theorem mem_offMembers {v : Word} {m : Fin 3} : m ∈ offMembers p v (countingColumns s p) ↔ countedOff s p v m := by
  unfold offMembers countedOff
  simp only [List.mem_map, List.mem_filter]
  exact exists_congr fun c => ⟨fun ⟨⟨hc, off⟩, is⟩ => ⟨hc, is, off⟩, fun ⟨hc, is, off⟩ => ⟨⟨hc, off⟩, is⟩⟩

theorem mem_failedMembers {m : Fin 3} : m ∈ failedMembers s p ↔ showsFailure s p m := by
  unfold failedMembers showsFailure
  simp only [List.mem_map, List.mem_filter]
  exact exists_congr fun c => ⟨fun ⟨⟨hc, fails⟩, is⟩ => ⟨hc, is, fails⟩, fun ⟨hc, is, fails⟩ => ⟨⟨hc, fails⟩, is⟩⟩

/-- A value and a status found by the vote, and the deviations from the value. -/
def voteShown (p : InPoint) (v st : Word) (off failed : List (Fin 3)) (s : State) : State :=
  judgeDeviations p (off ++ failed) (updPool (fun m => putStatus p.voted st (putValue p.voted v m)) s)

/-- The point takes its value from its substitute rule, and is noted. -/
def substituted (p : InPoint) (s : State) : State := noteSubstituted p (applySubst p.voted p.subst s)

theorem votePoint_eq (s : State) (p : InPoint) : votePoint s p = match voteOf p (countingColumns s p) with
    | .substitute => judgeDeviations p
        (offMembers p (placeValue p.voted (memWord (substituted p s).pool p.voted.addr)) (countingColumns s p)) (substituted p s)
    | .value v st => voteShown p v st (offMembers p v (countingColumns s p)) (failedMembers s p) s
    | .unstated st => voteShown p (drawFree 32 s).1 st (offMembers p (drawFree 32 s).1 (countingColumns s p)) (failedMembers s p) (drawFree 32 s).2 := by
  unfold votePoint
  dsimp only
  rw [show ((columnsOf s p).filter fun c => !failsPlace p.raw c.status) = countingColumns s p from rfl]
  cases voteOf p (countingColumns s p) <;> rfl

theorem applySubst_eq (p : Place) (r : Subst) (s : State) : ∃ c : BitVec 2, applySubst p r s = updPool (substMem p r c) (drawFree 2 s).2 := ⟨_, rfl⟩

/-- A substitute rule keeps the value under HOLD, and else writes a value and a status. -/
theorem substMem_writes (p : Place) (r : Subst) (c : BitVec 2) :
    (r = .hold ∧ ∀ m, substMem p r c m = m) ∨ ∃ v st, ∀ m, substMem p r c m = putStatus p st (putValue p v m) := by
  cases r with
  | hold => exact .inl ⟨rfl, fun _ => rfl⟩
  | fixed v => exact .inr ⟨v, 0, fun _ => rfl⟩
  | fail v =>
    right
    cases bit : p.bit with
    | none => exact ⟨v, c.setWidth 32 + 3, fun m => by rw [substMem, bit]; rfl⟩
    | some k => exact ⟨0, 1, fun m => by rw [substMem, bit]; rfl⟩

theorem failCode (c : BitVec 2) : ∃ n : Nat, 3 ≤ n ∧ n ≤ 6 ∧ c.setWidth 32 + 3 = BitVec.ofNat 32 n := by
  have lt := c.isLt
  refine ⟨c.toNat + 3, by omega, by omega, BitVec.eq_of_toNat_eq ?_⟩
  simp [BitVec.toNat_add, BitVec.toNat_setWidth]

variable (fits : PointFits p) (wf : memWf s.pool = true)
include fits wf

theorem showsSubstitute_substMem (c : BitVec 2) : showsSubstitute p s.pool (substMem p.voted p.subst c s.pool) := by
  unfold showsSubstitute
  cases p.subst with
  | hold => exact fun b _ => rfl
  | fixed v => exact shows_putPlace fits.voted wf v 0
  | fail v =>
    cases bit : p.voted.bit with
    | some k =>
      refine ⟨fun _ => ?_, fun no => by cases no⟩
      rw [substMem, bit, if_pos (show (some k).isSome = true from rfl)]
      exact shows_putPlace fits.voted wf 0 1
    | none =>
      refine ⟨fun no => absurd no (by decide), fun _ => ?_⟩
      obtain ⟨n, low, high, code⟩ := failCode c
      refine ⟨n, low, high, ?_⟩
      rw [substMem, bit, ← code]
      exact shows_putPlace fits.voted wf v _

theorem stepped_substituted : Stepped (fun q => placeBits q.voted) [p] s (substituted p s) ∧ showsSubstitute p s.pool (substituted p s).pool := by
  obtain ⟨c, eq⟩ := applySubst_eq p.voted p.subst s
  have shown := showsSubstitute_substMem fits wf c
  have drawn : Stepped (fun q => placeBits q.voted) [p] s (drawFree 2 s).2 := stepped_drawn _ wf 2
  have wrote : Stepped (fun q => placeBits q.voted) [p] s (applySubst p.voted p.subst s) := by
    rw [eq]
    obtain ⟨-, same⟩ | ⟨v, st, put⟩ := substMem_writes p.voted p.subst c
    · rw [show substMem p.voted p.subst c = fun m => m from funext same]
      exact drawn
    · rw [show substMem p.voted p.subst c = fun m => putStatus p.voted st (putValue p.voted v m) from funext put]
      exact drawn.and_then (stepped_putPlace fits drawn.wf v st)
  refine ⟨wrote.and_then (stepped_noteSubstituted _ wrote.wf), ?_⟩
  rw [substituted, eq]
  exact shown

theorem stepped_voteShown (v st : Word) (off failed : List (Fin 3)) : Stepped votedBits [p] s (voteShown p v st off failed s) := by
  have put := stepped_putPlace fits wf v st
  exact (put.mono fun _ _ _ => .inl).and_then ((stepped_judgeDeviations fits put.wf _).mono fun _ _ _ => .inr)

theorem stepped_votePoint : Stepped votedBits [p] s (votePoint s p) := by
  obtain ⟨taken, -⟩ := stepped_substituted fits wf
  have drawn : Stepped votedBits [p] s (drawFree 32 s).2 := stepped_drawn _ wf 32
  rw [votePoint_eq]
  split
  · exact (taken.mono fun _ _ _ => .inl).and_then ((stepped_judgeDeviations fits taken.wf _).mono fun _ _ _ => .inr)
  · exact stepped_voteShown fits wf _ _ _ _
  · exact drawn.and_then (stepped_voteShown fits drawn.wf _ _ _ _)

/-- The judgement of deviations leaves what the place shows. -/
theorem judge_keepsPlace (devs : List (Fin 3)) {a b : Nat} (aligned : a % 4 = 0) (is : placeBits p.voted a b) :
    (memWord (judgeDeviations p devs s).pool a).getLsbD b = (memWord s.pool a).getLsbD b := by
  refine (stepped_judgeDeviations fits wf devs).bits a aligned b fun ⟨q, hq, disc⟩ => fits.apart ?_
  rw [List.mem_singleton.1 hq] at disc
  rw [← disc.1, ← disc.2]
  exact is

theorem voteShown_spec (v st : Word) (off failed : List (Fin 3)) :
    let t := voteShown p v st off failed s
    shows p.voted v st t.pool ∧ (p.number ∈ t.safety.substituted ↔ p.number ∈ s.safety.substituted) ∧
      deviationsAre s t p fun m => m ∈ off ∨ m ∈ failed := by
  intro t
  have put := stepped_putPlace fits wf v st
  refine ⟨shows_congr (fun a b => judge_keepsPlace fits put.wf _) fits.voted (shows_putPlace fits.voted wf v st), ?_, ?_⟩
  · rw [show t.safety = s.safety from judgeDeviations_safety _ _ _]
  · have bit : discShown p (updPool (fun m => putStatus p.voted st (putValue p.voted v m)) s) = discShown p s :=
      put.bits _ fits.disc _ fun ⟨q, hq, is⟩ => fits.apart (List.mem_singleton.1 hq ▸ is)
    exact deviationsAre_congr (deviationsAre_judge fits put.wf _) rfl (fun _ => rfl) bit (fun _ => rfl) rfl (rawKept_refl _)
      fun m => List.mem_append

theorem votePoint_value {v st : Word} (found : voteOf p (countingColumns s p) = .value v st) :
    shows p.voted v st (votePoint s p).pool ∧ (p.number ∈ (votePoint s p).safety.substituted ↔ p.number ∈ s.safety.substituted) ∧
      deviationsAre s (votePoint s p) p fun m => countedOff s p v m ∨ showsFailure s p m := by
  have eq := votePoint_eq s p
  rw [found] at eq
  obtain ⟨shown, subst, devs⟩ := voteShown_spec fits wf v st (offMembers p v (countingColumns s p)) (failedMembers s p)
  rw [eq]
  exact ⟨shown, subst, deviationsAre_congr devs rfl (fun _ => rfl) rfl (fun _ => rfl) rfl (rawKept_refl _)
    fun m => or_congr mem_offMembers mem_failedMembers⟩

theorem votePoint_unstated {st : Word} (found : voteOf p (countingColumns s p) = .unstated st) : ∃ v, shows p.voted v st (votePoint s p).pool := by
  have eq := votePoint_eq s p
  rw [found] at eq
  rw [eq]
  exact ⟨_, (voteShown_spec fits (s := (drawFree 32 s).2) wf _ _ _ _).1⟩

omit wf in
theorem showsSubstitute_congr {m n o : Memory} (kept : ∀ a b, a % 4 = 0 → placeBits p.voted a b → (memWord o a).getLsbD b = (memWord n a).getLsbD b)
    (h : showsSubstitute p m n) : showsSubstitute p m o := by
  have shown : ∀ {v st}, shows p.voted v st n → shows p.voted v st o := shows_congr kept fits.voted
  unfold showsSubstitute at h ⊢
  cases rule : p.subst with
  | hold =>
    rw [rule] at h
    exact fun b is => (kept _ b fits.voted.value (.inl (valueBits_of_shown is))).trans (h b is)
  | fixed v => rw [rule] at h; exact shown h
  | fail v =>
    rw [rule] at h
    obtain ⟨binary, analogue⟩ := h
    exact ⟨fun is => shown (binary is), fun no => (analogue no).imp fun c ⟨low, high, is⟩ => ⟨low, high, shown is⟩⟩

theorem votePoint_substitute (found : voteOf p (countingColumns s p) = .substitute) :
    showsSubstitute p s.pool (votePoint s p).pool ∧ p.number ∈ (votePoint s p).safety.substituted ∧
      deviationsAre s (votePoint s p) p (countedOff s p (placeValue p.voted (memWord (votePoint s p).pool p.voted.addr))) := by
  obtain ⟨taken, shown⟩ := stepped_substituted fits wf
  have eq := votePoint_eq s p
  rw [found] at eq
  have kept : ∀ a b, a % 4 = 0 → placeBits p.voted a b → (memWord (votePoint s p).pool a).getLsbD b = (memWord (substituted p s).pool a).getLsbD b :=
    fun a b aligned is => by rw [eq]; exact judge_keepsPlace fits taken.wf _ aligned is
  have value : placeValue p.voted (memWord (votePoint s p).pool p.voted.addr) = placeValue p.voted (memWord (substituted p s).pool p.voted.addr) :=
    placeValue_congr fun b is => kept _ b fits.voted.value (.inl is)
  have bit : discShown p (substituted p s) = discShown p s :=
    taken.bits _ fits.disc _ fun ⟨q, hq, is⟩ => fits.apart (List.mem_singleton.1 hq ▸ is)
  refine ⟨showsSubstitute_congr fits kept shown, ?_, ?_⟩
  · rw [eq, judgeDeviations_safety]
    exact List.mem_cons_self
  · rw [value, eq]
    exact deviationsAre_congr (deviationsAre_judge fits taken.wf _) rfl (fun _ => rfl) bit (fun _ => rfl) rfl (rawKept_refl _) fun m => mem_offMembers

end

/-! ### The columns of a point while others are voted -/

section
variable {B : InPoint → Nat → Nat → Prop} {s u : State} {l : List InPoint} {p : InPoint}

/-- No word of the pool is uncorrectable. -/
def poolGood (s : State) : Prop := ∀ a n, badIn s a n = []

theorem poolGood_of_noUpset (h : noUpset s) : poolGood s := fun a n => by
  unfold badIn
  rw [List.flatMap_eq_nil_iff]
  intro c _
  obtain ⟨bad, -⟩ := h c
  rw [bad]
  rfl

theorem badIn_congr (crests : u.crests = s.crests) (part : u.part = s.part) (a n : Nat) : badIn u a n = badIn s a n := by
  unfold badIn presentCrests
  rw [crests, part]

theorem placeGood_of_poolGood (h : poolGood s) (p : Place) : placeGood s p = true := by
  unfold placeGood
  rw [h, h]
  rfl

theorem Stepped.poolGood (h : Stepped B l s u) (good : poolGood s) : Machine.poolGood u := fun a n =>
  (badIn_congr (h.but .crests rfl) (h.but .part rfl) a n).trans (good a n)

theorem me_of_trio (h : u.trio = s.trio) : me u = me s := Fin.ext (congrArg (fun t : Trio => t.member.toNat % 3) h)

/-- A partner's word stands in the trio unit, where the votes write nothing. -/
theorem columnWord_partner (trio : u.trio = s.trio) (sched : u.sched = s.sched) {m : Fin 3} (other : m ≠ me s) (k a : Nat) :
    columnWord u k m a = columnWord s k m a := by
  have same : me u = me s := me_of_trio trio
  have list : exchangesOf u k = exchangesOf s k := by unfold exchangesOf; rw [sched]
  have port : ∀ x, portOf u x = portOf s x := fun x => by unfold portOf; rw [same]
  have partner : ∀ x, portPartner u x = portPartner s x := fun x => by cases x <;> simp only [portPartner, same]
  have arrived : ∀ x n, exchangeHere u x k n = exchangeHere s x k n := fun x n => by
    unfold exchangeHere partnerAt
    rw [partner, trio]
  have area : ∀ x, rxArea u x = rxArea s x := fun x => by cases x <;> simp only [rxArea, trio]
  have bank : bankOffset u = bankOffset s := by unfold bankOffset; rw [trio]
  unfold columnWord
  rw [if_neg other, if_neg (by rw [same]; exact other), list]
  simp only [port, arrived, area, bank]

theorem columnWord_own (good : poolGood s) (k a : Nat) : columnWord s k (me s) a = some (memWord s.pool a) := by
  unfold columnWord
  rw [if_pos rfl, good]
  rfl

/-- The raw bits of a point are the same in two states. -/
def rawSame (p : InPoint) (s u : State) : Prop :=
  ∀ a b, a % 4 = 0 → placeBits p.raw a b → (memWord u.pool a).getLsbD b = (memWord s.pool a).getLsbD b

theorem rawSame.fields (h : rawSame p s u) (fits : PointFits p) :
    placeValue p.raw (memWord u.pool p.raw.addr) = placeValue p.raw (memWord s.pool p.raw.addr) ∧
    statusField p.raw (memWord u.pool p.raw.statusAddr) = statusField p.raw (memWord s.pool p.raw.statusAddr) :=
  ⟨placeValue_congr fun b is => h _ b fits.raw.1 (.inl is), statusField_congr fun b is => h _ b fits.raw.2 (.inr is)⟩

theorem Stepped.rawSame (h : Stepped B l s u) (within : ∀ q a b, B q a b → votedBits q a b)
    (clear : ∀ q ∈ l, ∀ a b, votedBits q a b → ¬ placeBits p.raw a b) : Machine.rawSame p s u := fun a b aligned is =>
  h.bits a aligned b fun ⟨q, hq, other⟩ => clear q hq a b (within q a b other) is

/-- Votes of other points leave the columns of a point. -/
theorem Stepped.columnsOf (h : Stepped B l s u) (good : Machine.poolGood s) (fits : PointFits p) (raw : Machine.rawSame p s u) :
    Machine.columnsOf u p = Machine.columnsOf s p := by
  have trio : u.trio = s.trio := h.but .trio rfl
  have same : me u = me s := me_of_trio trio
  obtain ⟨value, status⟩ := raw.fields fits
  unfold Machine.columnsOf
  rw [show votersOf u = votersOf s by unfold votersOf; rw [trio]]
  refine congrArg (fun f => List.filterMap f (votersOf s)) (funext fun m => ?_)
  by_cases own : m = me s
  · have at_ := columnWord_own (h.poolGood good) 0
    rw [same] at at_
    rw [own, at_, at_, columnWord_own good, columnWord_own good]
    dsimp only
    rw [value, status]
  · rw [columnWord_partner trio (h.but .sched rfl) own, columnWord_partner trio (h.but .sched rfl) own]

theorem Stepped.countingColumns (h : Stepped B l s u) (good : Machine.poolGood s) (fits : PointFits p) (raw : Machine.rawSame p s u) :
    Stmt.countingColumns u p = Stmt.countingColumns s p := by
  unfold Stmt.countingColumns
  rw [h.columnsOf good fits raw]

end

/-! ### What is forwarded of a vote (R190) -/

/-- Forwarding keeps whatever a change of a line and a frame that goes out keep. -/
theorem forwardChanges_keeps {R : State → State → Prop} (refl : ∀ u, R u u) (trans : ∀ u v w, R u v → R v w → R u w)
    (line : ∀ p f u, R u (updLine p f u)) (sent : ∀ p f x u, R u (sendTrio p f x u)) (was s : State) : R s (forwardChanges was s) := by
  have left : ∀ p st f u, R u (leaves p st f u) := fun p st f u => by
    unfold leaves
    split
    · exact line _ _ _
    · unfold departs
      exact trans _ _ _ (line _ _ _) (trans _ _ _ (line _ _ _) (sent _ _ _ _))
  have port : ∀ now p n u, R u (drainPort now p n u) := fun now p n => by
    induction n with
    | zero => exact refl
    | succ n ih =>
      intro u
      unfold drainPort
      split
      · exact refl u
      · dsimp only
        split
        · exact refl u
        · split
          · exact trans _ _ _ (left _ _ _ _) (ih _)
          · split
            · exact trans _ _ _ (left _ _ _ _) (ih _)
            · exact refl u
  have folds : ∀ {α : Type} (f : State → α → State), (∀ u a, R u (f u a)) → ∀ (l : List α) u, R u (l.foldl f u) := fun f hf l => by
    induction l with
    | nil => exact refl
    | cons a l ih => exact fun u => trans _ _ _ (hf u a) (ih _)
  have copied : ∀ p m type addr d u, R u (queueCopy p m type addr d u) := fun p m type addr d u => folds _ (fun v x => line _ _ v) _ u
  unfold forwardChanges
  split
  · exact refl s
  · refine folds _ (fun u a => ?_) _ s
    unfold forwardBytes
    split
    · exact refl u
    · split
      · exact trans _ _ _ (copied _ _ _ _ _ _) (trans _ _ _ (port _ _ _ _) (port _ _ _ _))
      · exact refl u

theorem forwardChanges_disc (was s : State) : (forwardChanges was s).trio.disc = s.trio.disc :=
  forwardChanges_keeps (R := fun u v => v.trio.disc = u.trio.disc) (fun _ => rfl) (fun _ _ _ h k => k.trans h) (fun p _ _ => by cases p <;> rfl)
    (fun _ _ _ u => congrArg Trio.disc (but_sendTrio (W := 0x2000100002) (Within.self _) (.self _ u) .trio rfl)) was s

theorem rawKept_forwardChanges (was s : State) : rawKept s (forwardChanges was s) :=
  forwardChanges_keeps rawKept_refl (fun _ _ _ => rawKept_trans)
    (fun _ _ u => rawKept_of_hdrs (but_updLine (W := 0x10000) (Within.self _) (.self _ u) .hdrs rfl))
    (fun p f x u => by
      unfold sendTrio
      split
      · exact rawKept_refl u
      · split
        · exact rawKept_refl u
        · exact rawKept_trans (rawKept_of_hdrs rfl) (rawKept_trans
            (rawKept_bump (.port (trioPortIdx p)) 0x10 1 (updPort (trioPortIdx p) (fun q => { q with txPn := q.txPn + 1 }) u))
            (rawKept_of_hdrs rfl))) was s

/-! ### The words that the vote reads (R92, R93) -/

theorem scanPool_good {s : State} {a n : Nat} (soft : softIn s a n = []) (bad : badIn s a n = []) : scanPool a n s = s := by
  unfold scanPool correctIn
  rw [soft, bad]
  rfl

theorem softIn_of_noUpset {s : State} (h : noUpset s) (a n : Nat) : softIn s a n = [] := by
  unfold softIn
  rw [List.flatMap_eq_nil_iff]
  intro c _
  obtain ⟨-, soft, -⟩ := h c
  rw [soft]
  rfl

theorem scanWords_good {s : State} (h : noUpset s) (as : List Nat) : scanWords as s = s :=
  foldl_stays fun w _ => scanPool_good (softIn_of_noUpset h w 8) (poolGood_of_noUpset h w 8)

theorem badIn_foundBad (bs : List (Fin 6 × Nat)) (s : State) (a n : Nat) : badIn (foundBad bs s) a n = badIn s a n := by
  have kept : tilesKept tileBad s (foundBad bs s) := tilesKept_foldl badKept_foundWord bs s
  have words : ∀ c, (Vec.at (foundBad bs s).crests c).badWords = (Vec.at s.crests c).badWords := fun c => (congrArg Prod.fst (kept c) :)
  have part : (foundBad bs s).part = s.part := but_foundBad (W := 0x4004800022) (Within.self _) (.self _ s) .part rfl
  unfold badIn presentCrests
  rw [part]
  simp only [words]

theorem badIn_scanWords (as : List Nat) (s : State) (a n : Nat) : badIn (scanWords as s) a n = badIn s a n :=
  foldl_proj (fun u : State => badIn u a n) (fun s w => scanPool w 8 s) (fun u w => by
    show badIn (scanPool w 8 u) a n = badIn u a n
    rw [scanPool, badIn_foundBad, badIn_correctIn]) _ s

/-! ### The rules of Table 6.4 -/

section
variable {p : InPoint}

theorem voteOf_bin (rule : p.rule = .bin) (l : List Column) : voteOf p l = voteBin p l := by unfold voteOf; rw [rule]

theorem voteOf_ana (rule : p.rule = .ana) (l : List Column) : voteOf p l = voteAna p l := by unfold voteOf; rw [rule]

theorem voteBin_two (x y : Column) :
    (x.value = y.value → voteBin p [x, y] = .value x.value 0) ∧ (x.value ≠ y.value → voteBin p [x, y] = .value (if p.safeState then 1 else 0) 0) :=
  ⟨fun same => by simp [voteBin, same], fun other => by simp [voteBin, other]⟩

/-- Of three bits the first prevails where another equals it, else the other two are equal. -/
theorem voteBin_three {x y z : Column} (bits : ∀ c ∈ [x, y, z], c.value = 0 ∨ c.value = 1) :
    voteBin p [x, y, z] = .value (if majority (x.value == 1) (y.value == 1) (z.value == 1) then 1 else 0) 0 := by
  have middle : ∀ a b c : Word, (a = 0 ∨ a = 1) → (b = 0 ∨ b = 1) → (c = 0 ∨ c = 1) →
      (if a == b || a == c then a else b) = if majority (a == 1) (b == 1) (c == 1) then 1 else 0 := by
    rintro a b c (rfl | rfl) (rfl | rfl) (rfl | rfl) <;> decide
  exact congrArg (Voted.value · 0) (middle x.value y.value z.value (bits x (by simp)) (bits y (by simp)) (bits z (by simp)))

section
variable {x y : Column} {u v : Int} (hx : fixed32 x.value = some u) (hy : fixed32 y.value = some v)
include hx hy

theorem voteAna_same (same : u = v) : voteAna p [x, y] = .value x.value x.status := by
  unfold voteAna
  dsimp only
  rw [hx, hy]
  exact if_pos same

theorem voteAna_low (ne : u ≠ v) (duo : p.duo = .low) : voteAna p [x, y] = .value (if u ≤ v then x else y).value (if u ≤ v then x else y).status := by
  unfold voteAna
  dsimp only
  rw [hx, hy]
  dsimp only
  rw [if_neg ne, duo]

theorem voteAna_high (ne : u ≠ v) (duo : p.duo = .high) : voteAna p [x, y] = .value (if u ≤ v then y else x).value (if u ≤ v then y else x).status := by
  unfold voteAna
  dsimp only
  rw [hx, hy]
  dsimp only
  rw [if_neg ne, duo]

theorem voteAna_mean (ne : u ≠ v) (duo : p.duo = .mean) (finite : u.natAbs ≠ fixedInf.natAbs ∨ u ≠ -v) :
    voteAna p [x, y] = .value (halfB32 (u + v)) x.status := by
  unfold voteAna
  dsimp only
  rw [hx, hy]
  dsimp only
  rw [if_neg ne, duo]
  refine if_neg fun both => ?_
  rw [Bool.and_eq_true, decide_eq_true_eq, decide_eq_true_eq] at both
  exact finite.elim (fun h => h both.2) fun h => h both.1

end

/-- Of three numbers the middle one is taken. -/
theorem voteAna_three {x y z : Column} {u v w : Int} (hx : fixed32 x.value = some u) (hy : fixed32 y.value = some v) (hz : fixed32 z.value = some w) :
    ∃ c ∈ [x, y, z], voteAna p [x, y, z] = .value c.value c.status ∧ fixed32 c.value = some (max (min u v) (min (max u v) w)) := by
  have eq : voteAna p [x, y, z] = .value (if u = max (min u v) (min (max u v) w) then x else if v = max (min u v) (min (max u v) w) then y else z).value
      (if u = max (min u v) (min (max u v) w) then x else if v = max (min u v) (min (max u v) w) then y else z).status := by
    unfold voteAna
    dsimp only
    rw [hx, hy, hz]
  rw [eq]
  split
  next mid => exact ⟨x, by simp, rfl, hx.trans (congrArg some mid)⟩
  next first =>
    split
    next mid => exact ⟨y, by simp, rfl, hy.trans (congrArg some mid)⟩
    next second => exact ⟨z, by simp, rfl, hz.trans (congrArg some (by omega))⟩

theorem voteOf_src_found {m : Fin 3} {l : List Column} {c : Column} (rule : p.rule = .src m) (first : l.find? (fun c => c.member == m) = some c) :
    voteOf p l = .value c.value c.status := by simp only [voteOf, rule, first]

theorem voteOf_src_missing {m : Fin 3} {l : List Column} (rule : p.rule = .src m) (missing : ∀ c ∈ l, c.member ≠ m) :
    voteOf p l = .substitute := by
  have none_ : l.find? (fun c => c.member == m) = none := List.find?_eq_none.2 fun c hc => by simpa using missing c hc
  simp only [voteOf, rule, none_]

theorem deviates_bit {v : Word} {c : Column} (bit : p.raw.bit.isSome = true) : deviates p v c = true ↔ c.value ≠ v := by
  unfold deviates
  rw [if_pos bit, bne_iff_ne]

theorem deviates_number {v : Word} {c : Column} {x y l : Int} (bit : p.raw.bit = none) (hx : fixed32 c.value = some x) (hy : fixed32 v = some y)
    (hl : fixed32 p.deviation = some l) : deviates p v c = true ↔ l < ((x - y).natAbs : Int) := by
  unfold deviates
  rw [bit, if_neg (by decide), hx, hy, hl]
  exact decide_eq_true_iff

end

theorem voteRules_hold : voteRules := by
  refine ⟨fun p rule => ?_, fun p rule => ?_, fun p m l rule => ?_, fun p v c => ⟨deviates_bit, fun x y l => deviates_number⟩⟩
  · simp only [voteOf_bin rule]
    exact ⟨rfl, fun x => rfl, fun x y => (voteBin_two x y).1, fun x y => (voteBin_two x y).2, fun x y z => voteBin_three⟩
  · simp only [voteOf_ana rule]
    refine ⟨rfl, fun x => rfl, fun x y u v hx hy => ?_, fun x y z u v w hx hy hz => ?_⟩
    · refine ⟨voteAna_same hx hy, fun lt => ⟨fun duo => ?_, fun duo => ?_⟩, fun gt => ⟨fun duo => ?_, fun duo => ?_⟩, voteAna_mean hx hy⟩
      · rw [voteAna_low hx hy (by omega) duo, if_pos (by omega)]
      · rw [voteAna_high hx hy (by omega) duo, if_pos (by omega)]
      · rw [voteAna_low hx hy (by omega) duo, if_neg (by omega)]
      · rw [voteAna_high hx hy (by omega) duo, if_neg (by omega)]
    · obtain ⟨c, mem, found, value⟩ := voteAna_three (p := p) hx hy hz
      exact ⟨c, mem, _, found, value, by omega, by omega, rfl⟩
  · exact ⟨voteOf_src_missing rule, fun c => voteOf_src_found rule⟩

/-! ### The pass over all points -/

/-- The state that the votes begin from: the raw words are read, and no point is noted as substituted. -/
def voteStart (s : State) : State :=
  { scanWords ((inPoints s).flatMap fun p => [p.raw.addr, p.raw.statusAddr]) s with
    safety := { (scanWords ((inPoints s).flatMap fun p => [p.raw.addr, p.raw.statusAddr]) s).safety with substituted := [] } }

/-- What a device does at one point: the vote in a trio, and else the raw image taken. -/
def pointVote (s : State) : State → InPoint → State := if inTrio s then votePoint else copyPoint

/-- The state after the votes of all points, before forces. -/
def votesDone (s : State) : State := (inPoints s).foldl (pointVote s) (voteStart s)

/-- The state after the forces, before anything is forwarded. -/
def forcesDone (s : State) : State := forceInputs (updTrio (fun t => { t with disc := countDisc (votesDone s) }) (votesDone s))

theorem pointVote_trio {s : State} (h : inTrio s = true) : pointVote s = votePoint := if_pos h

theorem pointVote_alone {s : State} (h : inTrio s = false) : pointVote s = copyPoint := if_neg (by rw [h]; decide)

theorem voteStart_but (s : State) : But 0x4004820022 s (voteStart s) :=
  but_mk_safety ((Within.self _).le rfl) (but_scanWords ((Within.self _).le rfl) (.self _ s))

theorem pointVote_but {W : Nat} (s : State) {s0 u : State} {q : InPoint} (kw : Within 0x4004028802 W) (h : But W s0 u) :
    But W s0 (pointVote s u q) := by
  unfold pointVote
  split
  · exact but_votePoint kw h
  · exact but_copyPoint (kw.le rfl) h

theorem votesDone_but (s : State) : But 0x4004828822 s (votesDone s) :=
  but_foldl (fun _ _ h => pointVote_but s ((Within.self _).le rfl) h) ((voteStart_but s).mono ((Within.self _).le rfl))

theorem forcesDone_but (s : State) : But 0x30800 (votesDone s) (forcesDone s) :=
  but_forceInputs ((Within.self _).le rfl) (but_updTrio ((Within.self _).le rfl) (.self _ _))

theorem voteInputs_idle {s : State} (h : computes s = false) : voteInputs s = s := by
  unfold voteInputs
  rw [h]
  rfl

theorem voteInputs_computing {s : State} (h : computes s = true) : voteInputs s = forwardChanges s (forcesDone s) := by
  have start := voteStart_but s
  have trio : inTrio (voteStart s) = inTrio s := by unfold inTrio; rw [show (voteStart s).trio = s.trio from start .trio rfl]
  have points : inPoints (voteStart s) = inPoints s := by unfold inPoints; rw [show (voteStart s).run = s.run from start .run rfl]
  have votes : (if inTrio (voteStart s) then (inPoints (voteStart s)).foldl votePoint (voteStart s)
      else (inPoints (voteStart s)).foldl copyPoint (voteStart s)) = votesDone s := by
    rw [trio, points]
    unfold votesDone pointVote
    split <;> rfl
  unfold forcesDone
  rw [← votes]
  unfold voteInputs
  rw [h]
  rfl

/-! ### What the pass leaves, whatever the points -/

section
variable (s : State)

theorem run_judgeDeviations (p : InPoint) (devs : List (Fin 3)) :
    { (judgeDeviations p devs s).run with discRun := [] } = { s.run with discRun := [] } := by
  have told : { (deviationsTold p devs s).run with discRun := [] } = { s.run with discRun := [] } := by rw [deviationsTold_discRun]
  rw [judgeDeviations_eq]
  split
  · exact told
  · split <;> exact told

/-- Of the run state a vote changes only the runs of deviations. -/
theorem run_pointVote (u : State) (q : InPoint) : { (pointVote s u q).run with discRun := [] } = { u.run with discRun := [] } := by
  unfold pointVote
  split
  · rw [votePoint_eq]
    split
    · exact run_judgeDeviations _ _ _
    · exact run_judgeDeviations _ _ _
    · exact run_judgeDeviations _ _ _
  · rw [show (copyPoint u q).run = u.run from but_copyPoint (W := 0x20800) (Within.self _) (.self _ u) .run rfl]

theorem run_votesDone : { (votesDone s).run with discRun := [] } = { s.run with discRun := [] } := by
  have votes := foldl_proj (fun u : State => { u.run with discRun := [] }) (pointVote s) (run_pointVote s) (inPoints s) (voteStart s)
  rwa [show (voteStart s).run = s.run from voteStart_but s .run rfl] at votes

theorem inPoints_votesDone : inPoints (votesDone s) = inPoints s := by
  unfold inPoints
  rw [show (votesDone s).run.active = s.run.active from (congrArg RunCtl.active (run_votesDone s) :)]

theorem forcesDone_run : (forcesDone s).run = (votesDone s).run := forcesDone_but s .run rfl

theorem forces_votesDone : (votesDone s).run.forces = s.run.forces := (congrArg RunCtl.forces (run_votesDone s) :)

/-- A vote notes no other point as substituted. -/
theorem substituted_pointVote {u : State} {q : InPoint} {n : BitVec 16} (h : n ∈ (pointVote s u q).safety.substituted) :
    n = q.number ∨ n ∈ u.safety.substituted := by
  unfold pointVote at h
  split at h
  · rw [votePoint_eq] at h
    split at h
    · rw [judgeDeviations_safety] at h
      have taken : (applySubst q.voted q.subst u).safety = u.safety := by
        obtain ⟨c, eq⟩ := applySubst_eq q.voted q.subst u
        rw [eq]
        rfl
      exact List.mem_cons.1 (taken ▸ h)
    · rw [voteShown, judgeDeviations_safety] at h
      exact .inr h
    · rw [voteShown, judgeDeviations_safety] at h
      exact .inr h
  · unfold copyPoint at h
    split at h
    · exact .inr h
    · dsimp only at h
      split at h
      · exact List.mem_cons.1 h
      · exact .inr h

theorem substituted_votesDone {n : BitVec 16} (h : n ∈ (votesDone s).safety.substituted) : ∃ p ∈ inPoints s, p.number = n := by
  have pass : ∀ (l : List InPoint) (u : State), n ∈ (l.foldl (pointVote s) u).safety.substituted →
      (∃ p ∈ l, p.number = n) ∨ n ∈ u.safety.substituted := fun l => by
    induction l with
    | nil => exact fun u h => .inr h
    | cons q l ih =>
      intro u h
      obtain ⟨p, hp, is⟩ | later := ih _ h
      · exact .inl ⟨p, List.mem_cons_of_mem _ hp, is⟩
      · exact (substituted_pointVote s later).imp_left fun is => ⟨q, List.mem_cons_self, is.symm⟩
  exact (pass _ _ h).resolve_right List.not_mem_nil

/-- A force takes its point out of those that are noted, and a note of no other comes. -/
theorem substituted_forceInputs {u : State} (n : BitVec 16) :
    n ∈ (forceInputs u).safety.substituted ↔
      n ∈ u.safety.substituted ∧ ¬ ∃ p ∈ inPoints u, p.number = n ∧ (forcedValue u n).isSome = true := by
  have pass : ∀ (l : List InPoint) (v : State), v.run.forces = u.run.forces →
      (n ∈ (l.foldl forceInput v).safety.substituted ↔
        n ∈ v.safety.substituted ∧ ¬ ∃ p ∈ l, p.number = n ∧ (forcedValue u n).isSome = true) := fun l => by
    induction l with
    | nil => exact fun v _ => by simp
    | cons q l ih =>
      intro v same
      have run : (forceInput v q).run = v.run := by unfold forceInput; split <;> rfl
      rw [List.foldl_cons, ih _ (by rw [run, same]), forceInput_substituted, forcedValue_congr same]
      simp only [List.mem_cons, exists_eq_or_imp, not_or, and_assoc]
      refine and_congr_right fun _ => and_congr_left fun _ => not_congr ⟨fun ⟨is, forced⟩ => ?_, fun ⟨is, forced⟩ => ?_⟩
      · exact ⟨is.symm, is ▸ forced⟩
      · exact ⟨is.symm, is ▸ forced⟩
  rw [forceInputs_eq]
  exact pass _ u rfl

theorem substituted_forcesDone (n : BitVec 16) : n ∈ (forcesDone s).safety.substituted ↔
    n ∈ (votesDone s).safety.substituted ∧ ¬ ∃ p ∈ inPoints s, p.number = n ∧ (forcedValue s n).isSome = true := by
  have points := inPoints_votesDone s
  have forced := forcedValue_congr (forces_votesDone s) n
  rw [← points, ← forced]
  exact substituted_forceInputs n

/-- No point is noted as substituted but points in force that no force holds. -/
theorem substituted_unforced {n : BitVec 16} (h : n ∈ (forcesDone s).safety.substituted) :
    ∃ p ∈ inPoints s, p.number = n ∧ forcedValue s n = none := by
  obtain ⟨noted, free⟩ := (substituted_forcesDone s n).1 h
  obtain ⟨p, hp, is⟩ := substituted_votesDone s noted
  refine ⟨p, hp, is, ?_⟩
  cases forced : forcedValue s n with
  | none => rfl
  | some v => exact absurd ⟨p, hp, is, by rw [forced]; rfl⟩ free

end

/-- Where the raw words of no point are good and no force holds one, a device without a trio writes nothing. -/
theorem forcesDone_pool_unread {s : State} (alone : inTrio s = false)
    (unread : ∀ p ∈ inPoints s, forcedValue s p.number = none ∧ placeGood s p.raw = false) : (forcesDone s).pool = s.pool := by
  have bad : ∀ p ∈ inPoints s, placeGood (voteStart s) p.raw = false := fun p hp => by
    rw [← (unread p hp).2]
    show ((badIn (scanWords _ s) p.raw.addr 4).isEmpty && (badIn (scanWords _ s) p.raw.statusAddr 4).isEmpty) = _
    rw [badIn_scanWords, badIn_scanWords]
    rfl
  have votes : votesDone s = voteStart s := by
    rw [votesDone, pointVote_alone alone]
    exact foldl_stays fun p hp => copyPoint_bad (bad p hp)
  have forces : forcesDone s = updTrio (fun t => { t with disc := countDisc (votesDone s) }) (votesDone s) := by
    rw [forcesDone, forceInputs_eq]
    refine foldl_stays fun p hp => forceInput_none ?_
    rw [show inPoints (updTrio (fun t => { t with disc := countDisc (votesDone s) }) (votesDone s)) = inPoints s from inPoints_votesDone s] at hp
    rw [← (unread p hp).1]
    exact forcedValue_congr (forces_votesDone s) _
  rw [forces]
  show (votesDone s).pool = s.pool
  rw [votes]
  exact voteStart_but s .pool rfl

theorem forcesDone_none {s : State} (none_ : inPoints s = []) : (forcesDone s).pool = s.pool ∧ (forcesDone s).trio.disc = 0 := by
  have votes : votesDone s = voteStart s := by unfold votesDone; rw [none_]; rfl
  have points := inPoints_votesDone s
  rw [none_] at points
  have forces : forcesDone s = updTrio (fun t => { t with disc := countDisc (votesDone s) }) (votesDone s) := by
    rw [forcesDone, forceInputs_eq, show inPoints (updTrio _ (votesDone s)) = [] from points]
    rfl
  rw [forces]
  refine ⟨?_, ?_⟩
  · show (votesDone s).pool = s.pool
    rw [votes]
    exact voteStart_but s .pool rfl
  · show countDisc (votesDone s) = 0
    unfold countDisc
    rw [points]
    rfl

/-- What INPUT_VOTE leaves of a device that computes, whatever its points and its memory. -/
theorem inputVote_frame {s : State} (h : computes s = true) : ∃ t, exec .inputVote s = .next t ∧
    t.sched = s.sched ∧ t.field = s.field ∧ t.otp = s.otp ∧ t.part = s.part ∧ t.trio.roster = s.trio.roster ∧ t.run.state = s.run.state ∧
    t.run.forces = s.run.forces ∧ (noUpset s → t.crests = s.crests) ∧
    (∀ n ∈ t.safety.substituted, ∃ p ∈ inPoints s, p.number = n ∧ forcedValue s n = none) ∧
    (inPoints s = [] → t.pool = s.pool ∧ t.trio.disc = 0) ∧
    (inTrio s = false → (∀ p ∈ inPoints s, forcedValue s p.number = none ∧ placeGood s p.raw = false) → t.pool = s.pool) := by
  have eq := voteInputs_computing h
  have sent : But 0x2000110002 (forcesDone s) (voteInputs s) := by
    rw [eq]
    exact but_forwardChanges (Within.self _) (.self _ _)
  have whole : But 0x6004938822 s (voteInputs s) := but_voteInputs (Within.self _) (.self _ s)
  have run : (voteInputs s).run = (votesDone s).run := (sent .run rfl).trans (forcesDone_run s)
  have pool : (voteInputs s).pool = (forcesDone s).pool := sent .pool rfl
  have safety : (voteInputs s).safety = (forcesDone s).safety := sent .safety rfl
  refine ⟨_, rfl, whole .sched rfl, whole .field rfl, whole .otp rfl, whole .part rfl, ?roster, ?state, ?forces, fun calm => ?crests,
    fun n noted => ?noted, fun none_ => ?empty, fun alone unread => ?unread⟩
  case roster =>
    have trio : (forceInputs (updTrio (fun t => { t with disc := countDisc (votesDone s) }) (votesDone s))).trio =
        (updTrio (fun t => { t with disc := countDisc (votesDone s) }) (votesDone s)).trio :=
      but_forceInputs (W := 0x20800) (Within.self _) (.self _ _) .trio rfl
    have votes : (votesDone s).trio = s.trio := votesDone_but s .trio rfl
    rw [eq, roster_forwardChanges, forcesDone, trio, ← votes]
    rfl
  case state => rw [run]; exact (congrArg RunCtl.state (run_votesDone s) :)
  case forces => rw [run]; exact forces_votesDone s
  case crests =>
    have start : (voteStart s).crests = s.crests := by
      unfold voteStart
      rw [scanWords_good calm]
    have votes : But 0x4004028802 (voteStart s) (votesDone s) := but_foldl (fun _ _ h => pointVote_but s (Within.self _) h) (.self _ _)
    calc (voteInputs s).crests = (forcesDone s).crests := sent .crests rfl
      _ = (votesDone s).crests := forcesDone_but s .crests rfl
      _ = (voteStart s).crests := votes .crests rfl
      _ = s.crests := start
  case noted => exact substituted_unforced s (safety ▸ noted)
  case empty =>
    obtain ⟨kept, disc⟩ := forcesDone_none none_
    exact ⟨pool.trans kept, by rw [eq, forwardChanges_disc, disc]⟩
  case unread => exact pool.trans (forcesDone_pool_unread alone unread)

/-! ### What one point shows before and after the steps of others -/

/-- Two states show the same of the deviations at a point. -/
structure JudgedSame (p : InPoint) (s t : State) : Prop where
  bit : discShown p t = discShown p s
  runs : ∀ m, deviationRun t p.number m = deviationRun s p.number m
  cfg : trioCfg t = trioCfg s
  raw : rawKept s t

/-- Two states show the same of a point's voted image, and the same of whether it is noted. -/
structure ShownSame (p : InPoint) (s t : State) : Prop where
  bits : ∀ a b, a % 4 = 0 → placeBits p.voted a b → (memWord t.pool a).getLsbD b = (memWord s.pool a).getLsbD b
  subst : p.number ∈ t.safety.substituted ↔ p.number ∈ s.safety.substituted

section
variable {p : InPoint} {s t u v : State}

theorem JudgedSame.trans (h : JudgedSame p s t) (k : JudgedSame p t u) : JudgedSame p s u :=
  ⟨k.bit.trans h.bit, fun m => (k.runs m).trans (h.runs m), k.cfg.trans h.cfg, rawKept_trans h.raw k.raw⟩

theorem ShownSame.trans (h : ShownSame p s t) (k : ShownSame p t u) : ShownSame p s u :=
  ⟨fun a b aligned is => (k.bits a b aligned is).trans (h.bits a b aligned is), k.subst.trans h.subst⟩

theorem ShownSame.shows (h : ShownSame p s t) (fits : PointFits p) {w st : Word} (shown : Stmt.shows p.voted w st s.pool) :
    Stmt.shows p.voted w st t.pool := shows_congr h.bits fits.voted shown

/-- Deviations judged between two states, seen from a state before and a state after. -/
theorem JudgedSame.deviationsAre (before : JudgedSame p s u) {dev dev' : Fin 3 → Prop} (here : Stmt.deviationsAre u v p dev')
    (after : JudgedSame p v t) (same : ∀ m, dev' m ↔ dev m) : Stmt.deviationsAre s t p dev :=
  deviationsAre_congr here before.cfg before.runs before.bit after.runs after.bit after.raw same

variable {B : InPoint → Nat → Nat → Prop} {l : List InPoint}

theorem Stepped.cfg (h : Stepped B l s t) : trioCfg t = trioCfg s := by
  unfold trioCfg
  rw [h.active]

theorem Stepped.judgedSame (h : Stepped B l s t) (apart : Apart p l) (fits : PointFits p) (within : ∀ q a b, B q a b → votedBits q a b) :
    JudgedSame p s t := by
  obtain ⟨bits, runs, -⟩ := h.kept apart within
  exact ⟨bits _ _ fits.disc (.inr ⟨rfl, rfl⟩), runs, h.cfg, h.raw⟩

theorem Stepped.shownSame (h : Stepped B l s t) (apart : Apart p l) (within : ∀ q a b, B q a b → votedBits q a b) : ShownSame p s t := by
  obtain ⟨bits, -, subst⟩ := h.kept apart within
  exact ⟨fun a b aligned is => bits a b aligned (.inl is), subst⟩

end

/-! ### One point of the pass -/

section
variable {s : State} {p : InPoint}

theorem voteStart_pool (s : State) : (voteStart s).pool = s.pool := voteStart_but s .pool rfl

theorem voteStart_calm (calm : noUpset s) : voteStart s = { s with safety := { s.safety with substituted := [] } } := by
  unfold voteStart
  rw [scanWords_good calm]

theorem poolGood_voteStart (calm : noUpset s) : poolGood (voteStart s) := by
  rw [voteStart_calm calm]
  exact poolGood_of_noUpset calm

theorem judgedSame_voteStart (calm : noUpset s) (p : InPoint) : JudgedSame p s (voteStart s) := by
  rw [voteStart_calm calm]
  exact ⟨rfl, fun _ => rfl, rfl, rawKept_of_hdrs rfl⟩

/-- The state in which a point is voted shows of it what the pass began from. -/
structure AtVote (p : InPoint) (s u : State) : Prop where
  wf : memWf u.pool = true
  good : poolGood u
  raw : rawSame p s u
  columns : columnsOf u p = columnsOf s p
  judged : JudgedSame p s u
  voted : ∀ a b, a % 4 = 0 → placeBits p.voted a b → (memWord u.pool a).getLsbD b = (memWord s.pool a).getLsbD b
  fresh : p.number ∉ u.safety.substituted

theorem AtVote.counting {u : State} (h : AtVote p s u) : countingColumns u p = countingColumns s p := by
  unfold countingColumns
  rw [h.columns]

theorem AtVote.countedOff_iff {u : State} (h : AtVote p s u) (v : Word) (m : Fin 3) : countedOff u p v m ↔ countedOff s p v m := by
  unfold countedOff
  rw [h.counting]

theorem AtVote.showsFailure_iff {u : State} (h : AtVote p s u) (m : Fin 3) : showsFailure u p m ↔ showsFailure s p m := by
  unfold showsFailure
  rw [h.columns]

variable (wf : memWf s.pool = true) (calm : noUpset s) (apart : pointsApart s)

include apart

theorem stepped_pointVote {u : State} (wfu : memWf u.pool = true) {q : InPoint} (hq : q ∈ inPoints s) :
    Stepped votedBits [q] u (pointVote s u q) := by
  have fits := pointFits_of_apart apart hq
  unfold pointVote
  split
  · exact stepped_votePoint fits wfu
  · exact stepped_copyPoint fits wfu

/-- The discrepancy bit of a point is no bit of a voted image. -/
theorem disc_notPlace {q : InPoint} (hp : p ∈ inPoints s) (hq : q ∈ inPoints s) : ¬ placeBits q.voted p.discAddr p.discBit.val := by
  obtain ⟨l1, l2, eq⟩ := List.append_of_mem hp
  obtain ⟨before, after⟩ := apart_of_split apart eq
  have others : ∀ l, Apart p l → q ∈ l → ¬ placeBits q.voted p.discAddr p.discBit.val := fun l far is place =>
    (far q is).2 _ _ (.inr ⟨rfl, rfl⟩) (.inl place)
  rw [eq, List.mem_append, List.mem_cons] at hq
  obtain first | rfl | last := hq
  · exact others l1 before first
  · exact (pointFits_of_apart apart hp).apart
  · exact others l2 after last

include wf

theorem stepped_votes : Stepped votedBits (inPoints s) (voteStart s) (votesDone s) :=
  .foldl (fun _ wfu _ hq => stepped_pointVote apart wfu hq) (by rwa [voteStart_pool])

include calm in
theorem votes_at (hp : p ∈ inPoints s) :
    ∃ u, AtVote p s u ∧ JudgedSame p (pointVote s u p) (votesDone s) ∧ ShownSame p (pointVote s u p) (votesDone s) := by
  have fits := pointFits_of_apart apart hp
  have start := judgedSame_voteStart calm p
  have pool := voteStart_pool s
  obtain ⟨-, -, -, rawClear⟩ := id apart
  obtain ⟨l1, l2, u, eq, before, after⟩ := Stepped.at_point (f := pointVote s) (fun _ wfu _ hq => stepped_pointVote apart wfu hq)
    (show memWf (voteStart s).pool = true by rwa [pool]) hp
  obtain ⟨apart1, apart2⟩ := apart_of_split apart eq
  have shown := before.shownSame apart1 fun _ _ _ => id
  have raw : rawSame p (voteStart s) u := before.rawSame (fun _ _ _ => id) fun q hq => rawClear q (by rw [eq]; simp [hq]) p hp
  refine ⟨u, ⟨before.wf, before.poolGood (poolGood_voteStart calm), fun a b aligned is => ?_, ?_, start.trans ?_, fun a b aligned is => ?_, ?_⟩, ?_, ?_⟩
  · rw [← pool]; exact raw a b aligned is
  · rw [before.columnsOf (poolGood_voteStart calm) fits raw, voteStart_calm calm]; rfl
  · exact before.judgedSame apart1 fits fun _ _ _ => id
  · rw [← pool]; exact shown.bits a b aligned is
  · rw [shown.subst]; exact List.not_mem_nil
  · exact after.judgedSame apart2 fits fun _ _ _ => id
  · exact after.shownSame apart2 fun _ _ _ => id

/-- The forces over the state after the votes, in which the count of the discrepancies is published. -/
theorem stepped_forces : Stepped (fun q => placeBits q.voted) (inPoints s) (updTrio (fun t => { t with disc := countDisc (votesDone s) }) (votesDone s))
    (forcesDone s) := by
  rw [forcesDone, forceInputs_eq, show inPoints (updTrio _ (votesDone s)) = inPoints s from inPoints_votesDone s]
  exact .foldl (fun _ wfu _ hq => stepped_forceInput (pointFits_of_apart apart hq) wfu) (stepped_votes wf apart).wf

/-- The force of one point among those of all. -/
theorem forces_at (hp : p ∈ inPoints s) : ∃ u, memWf u.pool = true ∧ forcedValue u p.number = forcedValue s p.number ∧
    ShownSame p (votesDone s) u ∧ ShownSame p (forceInput u p) (forcesDone s) := by
  have done : (forcesDone s) = (inPoints s).foldl forceInput (updTrio (fun t => { t with disc := countDisc (votesDone s) }) (votesDone s)) := by
    rw [forcesDone, forceInputs_eq, show inPoints (updTrio _ (votesDone s)) = inPoints s from inPoints_votesDone s]
  obtain ⟨l1, l2, u, eq, before, after⟩ := Stepped.at_point (f := forceInput)
    (fun _ wfu _ hq => stepped_forceInput (pointFits_of_apart apart hq) wfu)
    (show memWf (updTrio (fun t => { t with disc := countDisc (votesDone s) }) (votesDone s)).pool = true from (stepped_votes wf apart).wf) hp
  obtain ⟨apart1, apart2⟩ := apart_of_split apart eq
  rw [← done] at after
  have shown := before.shownSame apart1 fun _ _ _ => .inl
  exact ⟨u, before.wf, forcedValue_congr (before.forces.trans (forces_votesDone s)) _, ⟨shown.bits, shown.subst⟩,
    after.shownSame apart2 fun _ _ _ => .inl⟩

theorem judgedSame_forces (hp : p ∈ inPoints s) : JudgedSame p (votesDone s) (forcesDone s) := by
  have forces := stepped_forces wf apart
  have run := forcesDone_run s
  refine ⟨forces.bits _ (pointFits_of_apart apart hp).disc _ fun ⟨q, hq, is⟩ => disc_notPlace apart hp hq is, fun m => ?_, forces.cfg, forces.raw⟩
  unfold deviationRun
  rw [run]

end

/-! ### The points after INPUT_VOTE -/

/-- A rule that keeps the value keeps it from any memory with the same value bits. -/
theorem showsSubstitute_from {p : InPoint} {m n o : Memory} (fits : PointFits p)
    (kept : ∀ a b, a % 4 = 0 → placeBits p.voted a b → (memWord n a).getLsbD b = (memWord m a).getLsbD b)
    (h : showsSubstitute p n o) : showsSubstitute p m o := by
  unfold showsSubstitute at h ⊢
  cases rule : p.subst with
  | hold =>
    rw [rule] at h
    exact fun b is => (h b is).trans (kept _ b fits.voted.value (.inl (valueBits_of_shown is)))
  | fixed v => rw [rule] at h; exact h
  | fail v => rw [rule] at h; exact h

section
variable {s : State} {p : InPoint} (on : computes s = true) (wf : memWf s.pool = true) (calm : noUpset s) (apart : pointsApart s)
  (hp : p ∈ inPoints s)

include on

theorem voteInputs_done : (voteInputs s).pool = (forcesDone s).pool ∧ (voteInputs s).run = (forcesDone s).run ∧
    (voteInputs s).safety = (forcesDone s).safety ∧ rawKept (forcesDone s) (voteInputs s) := by
  rw [voteInputs_computing on]
  have sent : But 0x2000110002 (forcesDone s) (forwardChanges s (forcesDone s)) := but_forwardChanges (Within.self _) (.self _ _)
  exact ⟨sent .pool rfl, sent .run rfl, sent .safety rfl, rawKept_forwardChanges s _⟩

include wf apart hp

theorem judgedSame_voteInputs : JudgedSame p (votesDone s) (voteInputs s) := by
  obtain ⟨pool, run, -, raw⟩ := voteInputs_done on
  refine (judgedSame_forces wf apart hp).trans ⟨discShown_congr pool, fun m => ?_, ?_, raw⟩
  · unfold deviationRun; rw [run]
  · unfold trioCfg; rw [run]

/-- A point that no force holds shows what its vote left. -/
theorem shownSame_voteInputs (free : forcedValue s p.number = none) : ShownSame p (votesDone s) (voteInputs s) := by
  obtain ⟨pool, -, safety, -⟩ := voteInputs_done on
  obtain ⟨u, -, same, before, after⟩ := forces_at wf apart hp
  rw [forceInput_none (same.trans free)] at after
  exact (before.trans after).trans ⟨fun a b _ _ => by rw [pool], by rw [safety]⟩

/-- A forced point shows the value of its force, and is not noted. -/
theorem voteInputs_forced {v : Word} (forced : forcedValue s p.number = some v) :
    shows p.voted v 0 (voteInputs s).pool ∧ p.number ∉ (voteInputs s).safety.substituted := by
  obtain ⟨pool, -, safety, -⟩ := voteInputs_done on
  obtain ⟨u, wfu, same, -, after⟩ := forces_at wf apart hp
  have fits := pointFits_of_apart apart hp
  rw [pool, safety]
  refine ⟨after.shows fits (forceInput_shows fits wfu (same.trans forced)), fun noted => ?_⟩
  obtain ⟨-, free⟩ := (substituted_forcesDone s _).1 noted
  exact free ⟨p, hp, rfl, by rw [forced]; rfl⟩

include calm

theorem voteInputs_alone (alone : inTrio s = false) (free : forcedValue s p.number = none) :
    shows p.voted (placeValue p.raw (memWord s.pool p.raw.addr)) (statusField p.raw (memWord s.pool p.raw.statusAddr)) (voteInputs s).pool ∧
    (p.number ∈ (voteInputs s).safety.substituted ↔ failsPlace p.raw (statusField p.raw (memWord s.pool p.raw.statusAddr)) = true) := by
  have fits := pointFits_of_apart apart hp
  obtain ⟨u, at_, -, shown⟩ := votes_at wf calm apart hp
  rw [pointVote_alone alone] at shown
  have later := shown.trans (shownSame_voteInputs on wf apart hp free)
  obtain ⟨value, status⟩ := at_.raw.fields fits
  obtain ⟨shows_, noted⟩ := copyPoint_good fits at_.wf (placeGood_of_poolGood at_.good p.raw)
  rw [value, status] at shows_
  rw [status] at noted
  refine ⟨later.shows fits shows_, later.subst.trans (noted.trans ⟨fun is => is.resolve_right at_.fresh, .inl⟩)⟩

variable (trio : inTrio s = true)
include trio

theorem voteInputs_value {v st : Word} (found : voteOf p (countingColumns s p) = .value v st) :
    (forcedValue s p.number = none → shows p.voted v st (voteInputs s).pool ∧ p.number ∉ (voteInputs s).safety.substituted) ∧
    deviationsAre s (voteInputs s) p fun m => countedOff s p v m ∨ showsFailure s p m := by
  have fits := pointFits_of_apart apart hp
  obtain ⟨u, at_, judged, shown⟩ := votes_at wf calm apart hp
  rw [pointVote_trio trio] at judged shown
  obtain ⟨shows_, noted, devs⟩ := votePoint_value fits at_.wf (at_.counting ▸ found)
  refine ⟨fun free => ?_, ?_⟩
  · have later := shown.trans (shownSame_voteInputs on wf apart hp free)
    exact ⟨later.shows fits shows_, fun is => at_.fresh (noted.1 (later.subst.1 is))⟩
  · exact at_.judged.deviationsAre devs (judged.trans (judgedSame_voteInputs on wf apart hp))
      fun m => or_congr (at_.countedOff_iff v m) (at_.showsFailure_iff m)

theorem voteInputs_unstated (free : forcedValue s p.number = none) {st : Word} (found : voteOf p (countingColumns s p) = .unstated st) :
    ∃ v, shows p.voted v st (voteInputs s).pool := by
  have fits := pointFits_of_apart apart hp
  obtain ⟨u, at_, -, shown⟩ := votes_at wf calm apart hp
  rw [pointVote_trio trio] at shown
  obtain ⟨v, shows_⟩ := votePoint_unstated fits at_.wf (at_.counting ▸ found)
  exact ⟨v, (shown.trans (shownSame_voteInputs on wf apart hp free)).shows fits shows_⟩

theorem voteInputs_substitute (free : forcedValue s p.number = none) (found : voteOf p (countingColumns s p) = .substitute) :
    (showsSubstitute p s.pool (voteInputs s).pool ∧ p.number ∈ (voteInputs s).safety.substituted) ∧
    deviationsAre s (voteInputs s) p (countedOff s p (placeValue p.voted (memWord (voteInputs s).pool p.voted.addr))) := by
  have fits := pointFits_of_apart apart hp
  obtain ⟨u, at_, judged, shown⟩ := votes_at wf calm apart hp
  rw [pointVote_trio trio] at judged shown
  have later := shown.trans (shownSame_voteInputs on wf apart hp free)
  obtain ⟨shows_, noted, devs⟩ := votePoint_substitute fits at_.wf (at_.counting ▸ found)
  have value : placeValue p.voted (memWord (voteInputs s).pool p.voted.addr) = placeValue p.voted (memWord (votePoint u p).pool p.voted.addr) :=
    placeValue_congr fun b is => later.bits _ b fits.voted.value (.inl is)
  refine ⟨⟨showsSubstitute_from fits at_.voted (showsSubstitute_congr fits later.bits shows_), later.subst.2 noted⟩, ?_⟩
  rw [value]
  exact at_.judged.deviationsAre devs (judged.trans (judgedSame_voteInputs on wf apart hp)) fun m => at_.countedOff_iff _ m

end

section
variable {s : State} (on : computes s = true) (wf : memWf s.pool = true) (apart : pointsApart s)
include on wf apart

/-- TRIO_DISC counts the points whose discrepancy bit is set. -/
theorem voteInputs_disc (calm : noUpset s) : (voteInputs s).trio.disc.toNat =
    min 65535 ((inPoints s).countP fun p => (memWord (voteInputs s).pool p.discAddr).getLsbD p.discBit.val) := by
  have forces : (forcesDone s).trio.disc = countDisc (votesDone s) := by
    rw [forcesDone]
    exact (congrArg Trio.disc (but_forceInputs (W := 0x20800) (Within.self _)
      (.self _ (updTrio (fun t => { t with disc := countDisc (votesDone s) }) (votesDone s))) .trio rfl) :)
  have good : poolGood (votesDone s) := (stepped_votes wf apart).poolGood (poolGood_voteStart calm)
  have count : ((inPoints s).countP fun p => (badIn (votesDone s) p.discAddr 4).isEmpty && (memWord (votesDone s).pool p.discAddr).getLsbD p.discBit.val) =
      (inPoints s).countP fun p => (memWord (voteInputs s).pool p.discAddr).getLsbD p.discBit.val :=
    List.countP_congr fun p hp => by
      have bit : (memWord (voteInputs s).pool p.discAddr).getLsbD p.discBit.val = (memWord (votesDone s).pool p.discAddr).getLsbD p.discBit.val :=
        (judgedSame_voteInputs on wf apart hp).bit
      rw [good, bit]
      rfl
  rw [voteInputs_computing on, forwardChanges_disc, ← voteInputs_computing on, forces, countDisc, inPoints_votesDone, count, BitVec.toNat_ofNat]
  exact Nat.mod_eq_of_lt (by omega)

theorem voteInputs_bytes {a : Nat}
    (out : ∀ p ∈ inPoints s, ∀ k < 4, a ≠ p.voted.addr + k ∧ a ≠ p.voted.statusAddr + k ∧ a ≠ p.discAddr + k) :
    memGet (voteInputs s).pool a = memGet s.pool a := by
  obtain ⟨pool, -⟩ := voteInputs_done on
  have away : ∀ q ∈ inPoints s, ∀ w ∈ votedWords q, ∀ k < 4, a ≠ w + k := fun q hq w hw k hk => by
    obtain ⟨value, status, disc⟩ := out q hq k hk
    simp only [votedWords, List.mem_cons, List.not_mem_nil, or_false] at hw
    obtain rfl | rfl | rfl := hw
    · exact value
    · exact status
    · exact disc
  calc memGet (voteInputs s).pool a = memGet (forcesDone s).pool a := by rw [pool]
    _ = memGet (votesDone s).pool a := (stepped_forces wf apart).bytes a away
    _ = memGet (voteStart s).pool a := (stepped_votes wf apart).bytes a away
    _ = memGet s.pool a := by rw [voteStart_pool]

end

/-- Settles O20, one point at a time: the steps of the points before and after it write none of its bits and none of its raw image (`Stepped`), so
that the vote of each point reads its columns as they were, and what it writes stands. -/
theorem inputVote : Obligations.InputVote := by
  unfold Obligations.InputVote
  refine ⟨fun s off => congrArg Host.Outcome.next (voteInputs_idle off), fun s on => inputVote_frame on, fun s on wf calm apart => ?_, voteRules_hold⟩
  refine ⟨_, rfl, fun p hp v => voteInputs_forced on wf apart hp, fun alone p hp => voteInputs_alone on wf calm apart hp alone,
    fun trio p hp free => ⟨fun v st found => (voteInputs_value on wf calm apart hp trio found).1 free,
      fun st => voteInputs_unstated on wf calm apart hp trio free,
      fun found => (voteInputs_substitute on wf calm apart hp trio free found).1⟩,
    fun trio p hp v st found => (voteInputs_value on wf calm apart hp trio found).2,
    fun trio p hp free found => (voteInputs_substitute on wf calm apart hp trio free found).2,
    voteInputs_disc on wf apart calm, fun a => voteInputs_bytes on wf apart⟩

end Sys2Proof.Machine
